-- ==== Sys2Proof/Word.lean ====
section
/-! DEFINITION. The words the model is written in: bytes, 32-bit register words, byte strings, and the plain
arithmetic and byte-order helpers over them (R6: little-endian everywhere but in an EUI-64, R615). -/
set_option Elab.async false
namespace Sys2Proof

/-- One byte. -/
abbrev Byte := BitVec 8

/-- One register word (R6). -/
abbrev Word := BitVec 32

/-- A string of bytes, the first byte at the lowest address. -/
abbrev Bytes := List Byte

end Sys2Proof
end

