-- ==== Sys2Proof/Syntax.lean ====
section
/-! DEFINITION. The commands and events of the block: one constructor of `Instr` per row of spec/opcode_table.json,
with the operands the outside world gives each, and the structures those operands are made of. -/
set_option Elab.async false
namespace Sys2Proof

/-- Names a command CMD has dispatched: its queue (0 to 256), its TAG and the instance it acts for (R57). -/
structure CmdRef where
  queue : Nat
  tag : Nat
  inst : Nat
  deriving DecidableEq, Repr

/-- A host access to a BAR of a function: `fn` 0 is physical function 0, k is virtual function k; `off` the byte
offset in the BAR and `len` the length in bytes of the whole request, whole DWORDs (R92 to R95). `bar` 8 is the function's configuration
space (R84, R85), with `off` the offset there. -/
structure BarAccess where
  fn : Nat
  bar : Nat
  off : Nat
  len : Nat
  deriving DecidableEq, Repr

/-- One DWORD of a host write: its value, and its enabled byte lanes, byte 0 in bit [0] (R92). -/
structure HostWord where
  value : Word
  lanes : Nat := 15
  deriving DecidableEq, Repr

/-- Are all four byte lanes enabled (R92)? -/
def HostWord.full (w : HostWord) : Bool := w.lanes % 16 == 15

/-- A doorbell write: through BAR2 of physical function 0 (`fn` = 0, `slot` the queue or ring) or through BAR0 of
virtual function `fn` (`slot` the local queue); `formOk` says it is a 4- or 8-byte aligned write (R50, R95). -/
structure Doorbell where
  fn : Nat
  slot : Nat
  formOk : Bool
  value : Nat
  deriving DecidableEq, Repr

/-- How the lanes' dispatch words compared (R74): all the same, one lane in the minority, or no agreement, and then
whether the re-decode after resync agrees. -/
inductive Vote where
  | agree
  | minority (lane : Nat)
  | split (again : Bool)
  deriving DecidableEq, Repr

/-- How a part-issued read failed (R98). -/
inductive ReadFail where
  | unsupported | abort | poison
  deriving DecidableEq, Repr

/-- The two dies. -/
inductive Die where
  | noon | midnight
  deriving DecidableEq, Repr

/-- What a seam packet to the island carries, with the outcome of the check R22 sets for it. -/
inductive SeamContent where
  /-- A billing register set, its 320 bytes (R380, R381). -/
  | registerSet (b : Bytes)
  /-- A billing-class interval, its 64 canonical bytes with the metrology tag (R250, R374). -/
  | billingInterval (b : Bytes)
  /-- A record or ledger copy of the pair partner; `tagOk` is the verdict of its tag (R498: its layout is not in the manual). -/
  | pairRecord (tagOk : Bool)
  /-- The key blob of a slot of a key set, for the vault core to unwrap (R416, R420). -/
  | keyBlob (set slot inst : Nat)
  /-- A power or device-state command or its acknowledgement. -/
  | stateInput
  /-- An ownership heartbeat (R35). -/
  | heartbeat
  /-- A second mark (R350). -/
  | secondMark
  /-- PLC converter samples to send. -/
  | samples
  /-- A request of a KEY, MET or BIL command, by its opcode. -/
  | islandRequest (op : Nat)
  /-- An access to a register of MET, BIL or AON, by its offset. -/
  | islandAccess (off : Nat)
  /-- A readout of the island recorder. -/
  | islandReadout
  /-- Anything that only runs to the Noon die. -/
  | toNoon
  /-- Anything else. -/
  | other
  deriving DecidableEq, Repr

/-- The device states of R60. -/
inductive DevState where
  | dawn | day | twilight | dusk | night | recovery
  deriving DecidableEq, Repr

/-- The pair roles of R60. -/
inductive Role where
  | solo | active | standby | orphan
  deriving DecidableEq, Repr

/-- The sender's view an ownership heartbeat carries (R35). -/
structure Heartbeat where
  role : Role
  owned : Bool
  state : DevState
  permit : Bool
  deriving DecidableEq, Repr

/-- A command named by queue and TAG whose host data transfer was incomplete at host loss (R105). -/
structure CmdKey where
  queue : Nat
  tag : Nat
  deriving DecidableEq, Repr

/-- A signed authorization as it arrives through DPTR (R411, R412): the fields of its body, whether MAGIC, VERSION and the reserved
bytes are right, the SHA-384 digest of the public key block it carries, and whether its hybrid signature verifies under that block
(R410). -/
structure AuthIn where
  formOk : Bool
  purpose : Nat
  authority : Nat
  lcFrom : Nat
  eui : Nat
  challenge : Nat
  arg : Nat
  digestA : Bytes
  digestB : Bytes
  keyDigest : Bytes
  sigOk : Bool
  deriving DecidableEq, Repr

/-- The key address of a KEY command (R428). -/
structure KeyAddr where
  kind : Nat
  ref : Nat
  set : Nat
  inst : Nat
  deriving DecidableEq, Repr

/-- A PTP Announce as it arrives (R437, R438): the grandmaster it names, its clockClass, and whether the best master clock
algorithm of the standard now makes the port master. -/
structure Announce where
  grandmaster : Nat
  clockClass : Nat
  portMaster : Bool
  deriving DecidableEq, Repr

/-- The delay messages of R437 with their time-stamps in ns: a request to answer, and the answers of the two mechanisms. The part's own
stamps (t4 of `delayReq`, t3 of `delayResp`, t2 of `pdelayReq`, t1 and t4 of `pdelayResp`) stand as TIM forms them, before the compensation of
R441. -/
inductive PtpDelay where
  | delayReq (t4 : Int)
  | delayResp (t3 t4 : Int)
  | pdelayReq (t2 : Int)
  | pdelayResp (t1 t2 t3 t4 : Int)
  deriving DecidableEq, Repr

/-- The quotas of an instance (R526). -/
structure Quotas where
  epMax : Nat := 0
  keysetMax : Nat := 0
  queuedMax : Nat := 0
  nsMax : Nat := 0
  pinMax : Nat := 0
  deriving DecidableEq, Repr

/-- The units that take part in a fence (R530). -/
inductive FenceUnit where
  | fse | ing | kvt | upd | los | arc | plc | msh | cod | bil | cmd
  deriving DecidableEq, Repr

/-- An event at a recorder's input (R560): the recorder, the window index of its source, the source unit's number for
the kind of event, the instance concerned, and its four arguments. -/
structure EventIn where
  recorder : Nat
  source : Nat
  kind : Nat
  inst : Option Nat := none
  arg0 : Nat := 0
  arg1 : Nat := 0
  arg2 : Nat := 0
  arg3 : Nat := 0
  deriving DecidableEq, Repr

/-- What the Midnight part of PWR measures of the supply when a declaration is decided (R538, R594). -/
structure SupplyIn where
  vsenseMv : Nat
  lowNs : Nat
  deriving DecidableEq, Repr

/-- The parameters of EP.CREATE (R266); FLAGS bits [6:1] as in the context, bits [0] and [7] as given. -/
structure EpIn where
  eui : Nat
  index : Nat
  auto : Bool
  kind : Nat
  flags : Nat
  profile : Nat
  topoNode : Nat
  topoValid : Bool
  feeder : Nat
  keyset : Nat
  txNseq : Nat
  txFcnt : Nat
  fcntH : Nat
  nseqH : Nat
  deriving DecidableEq, Repr

/-- The attributes EP.WRITE group 0 gives (R266). -/
structure EpAttr where
  kind : Nat
  flags : Nat
  profile : Nat
  topoValid : Bool
  topoNode : Nat
  feeder : Nat
  deriving DecidableEq, Repr

/-- One chain's SYNCM detection: chain (0 L1 to 3 N), time after the earliest in ns, preamble SNR in half dB (R133). -/
structure Detection where
  chain : Nat
  afterNs : Nat
  snr : Nat
  deriving DecidableEq, Repr

/-- What the converter's FFT window of one chain carries: the level of each group in dBµV (R118, R135), and the level between
131.5 and 133.5 kHz (R117). -/
structure FftWindow where
  chain : Nat
  levels : List Nat
  lbt : Nat := 0
  deriving DecidableEq, Repr

/-- A chain's channel estimate from a frame's preamble (R133, R154): the level of each in-band carrier in 0.25 dBµV, in ascending
frequency. -/
structure ChanEst where
  chain : Nat
  levels : List Nat
  deriving DecidableEq, Repr

/-- The parameters of PLC.CONFIG (R159). -/
structure PlcCfgIn where
  netEui : Nat
  netId : Nat
  retryMax : Nat
  cw : Nat
  hopPenalty : Nat
  routeHyst : Nat
  tmapMargin : Nat
  tmapHyst : Nat
  tmapAge : Nat
  collectMs : Nat
  rdiscRate : Nat
  routingEn : Bool
  tmapEn : Bool
  maxDefer : Nat
  deriving DecidableEq, Repr

/-- The parameters of PLC.SEND with its payload (R160). -/
structure PlcSendIn where
  endpoint : Nat
  ackreq : Bool
  sec : Bool
  launchAt : Option Nat
  route : Nat
  rate : Nat
  chains : Nat
  keyref : Nat
  miclen : Nat
  payload : Bytes
  deriving DecidableEq, Repr

/-- The parameters of PLC.MCAST.SEND with its payload (R160). -/
structure PlcMcastIn where
  group : Nat
  hopsLeft : Nat
  spread : Nat
  repeats : Nat
  gap : Nat
  keyref : Nat
  sec : Bool
  miclen : Nat
  chains : Nat
  payload : Bytes
  deriving DecidableEq, Repr

/-- What a sync-word detector reports (R168): port, channel, rate, preamble bits seen, bit errors of the sync word, carrier
offset in 0.1 kHz, and the power of each of the 16 bits of the sync word, in order, in 0.5 dB below full scale. -/
structure SyncIn where
  port : Nat
  ch : Nat
  rate : Nat
  preamble : Nat
  errors : Nat
  cfo : Int
  below : List Nat
  deriving DecidableEq, Repr

/-- One clock edge of a sample port (R163): the framing line and the four data lanes, lane j in bit j. -/
structure PortEdge where
  frm : Bool
  d : Nat
  deriving DecidableEq, Repr

/-- Edges of a receive group from where a word begins, and whether the crossing FIFO overran or starved (R163, R164). -/
structure FramingIn where
  port : Nat
  edges : List PortEdge
  fifo : Bool
  deriving DecidableEq, Repr

/-- What a channel's power meter reports (R170): the channel, its power in dB below full scale at its weakest over the time for a
channel to be jammed and at its strongest for one to be cleared, and that time in ms. -/
structure JamIn where
  ch : Nat
  below : Nat
  ms : Nat
  deriving DecidableEq, Repr

/-- A UDP datagram as it arrives on an Ethernet port: its source address and port, its destination port and its payload (R207,
R465). -/
structure Datagram where
  eth : Nat
  address : Nat
  srcPort : Nat
  dstPort : Nat
  payload : Bytes
  deriving DecidableEq, Repr

/-- The parameters of MSH.CONFIG with the slot map, where one is given (R209). -/
structure MshCfgIn where
  netEui : Nat
  netId : Nat
  k : Nat
  beaconSlots : Nat
  retryMax : Nat
  guardMax : Nat
  concGroup : Nat
  hopKeyref : Nat
  hauthReq : Bool
  bcastFloor : Nat
  map : Option Bytes
  deriving DecidableEq, Repr

/-- An assignment or agreement as a command gives it (R209): SLOT.ASSIGN with SPAN, NIGHTSLOT.SET with DRIFT_PPM in its place. -/
structure SlotIn where
  endpoint : Nat
  kind : Nat
  port : Nat
  ch : Nat
  rate : Nat
  p : Nat
  slot : Nat
  phase : Nat
  span : Nat
  deriving DecidableEq, Repr

/-- The parameters of MSH.SEND with its payload (R209); LAUNCH_AT as a record time-stamp. -/
structure MshSendIn where
  endpoint : Nat
  ackreq : Bool
  sec : Bool
  tunnel : Bool
  when' : Nat
  rate : Nat
  keyref : Nat
  miclen : Nat
  payload : Bytes
  expireS : Nat
  launchAt : Nat
  deriving DecidableEq, Repr

/-- The parameters of MSH.FLOOD with its payload (R210). -/
structure MshFloodIn where
  group : Nat
  ttl : Nat
  spread : Nat
  repeats : Nat
  keyref : Nat
  miclen : Nat
  ports : Nat
  payload : Bytes
  deriving DecidableEq, Repr

/-- The parameters of MSH.BEACON.SET with the ANNOUNCE bytes (R210). -/
structure BeaconIn where
  en : Bool
  rate : Nat
  chA : Nat
  chB : Nat
  ports : Nat
  ann : Bytes
  leap : Nat
  deriving DecidableEq, Repr

/-- A controller ARC finds below its storage root ports (R289, R290): discovery index, serial number, the data and metadata bytes of its
namespace's LBA format, whether deallocated blocks read as zeros, its extents of 4 MiB, its root port, its label, if it has one: set
identifier, set generation, slot, journal slots; the I/O queue pairs it grants and their greatest depth (R289); and the journal pages
and map image pages that cannot be read from it (R308). -/
structure CtrlIn where
  disc : Nat
  serial : Nat
  lba : Nat
  metaBytes : Nat
  zeroed : Bool
  usable : Nat
  root : Nat
  label : Option (Nat × Nat × Nat × List Nat)
  pairs : Nat := 8
  depth : Nat := 1024
  badJournal : List Nat := []
  badImage : List Nat := []
  deriving DecidableEq, Repr

/-- A drive's SMART / Health Information log with the latency ARC measured, in µs, and CSTS.CFS (R313). -/
structure HealthIn where
  mediaErr : Nat
  latency : Nat
  used : Nat
  spare : Nat
  spareThreshold : Nat
  critical : Nat
  cfs : Bool
  deriving DecidableEq, Repr

/-- The parameters of ARC.NS.CREATE (R319). -/
structure NsIn where
  ns : Nat
  owner : Nat
  protect : Nat
  worm : Bool
  wrap : Bool
  noticeMode : Nat
  pgWidth : Nat
  classes : Nat
  quota : Nat
  retainDays : Nat
  deriving DecidableEq, Repr

/-- The parameters of ARC.QUERY (R319). -/
structure QueryIn where
  ns : Nat
  raw : Bool
  dedup : Bool
  countOnly : Bool
  classes : Nat
  epFirst : Nat
  epLast : Nat
  typeFirst : Nat
  typeLast : Nat
  etsFirst : Nat
  etsLast : Nat
  cursor : Nat
  bufLen : Nat
  deriving DecidableEq, Repr

/-- The parameters of ARC.EXPORT (R319). -/
structure ExportIn where
  ns : Nat
  sealedOnly : Bool
  first : Nat
  last : Nat
  bufLen : Nat
  cursor : Nat
  deriving DecidableEq, Repr

/-- A node entry of a tree (R323): its fields, and whether its reserved bits are 0. -/
structure LosNodeIn where
  parent : Nat
  measSrc : Nat
  phases : Nat
  phCheck : Bool
  measEp : Nat
  nlW : Nat
  pRefW : Nat
  llPpm : Nat
  instMask : Nat
  reservedOk : Bool
  deriving DecidableEq, Repr

/-- The parameters of LOS.CONFIG (R339). -/
structure LosCfgIn where
  balS : Nat
  graceS : Nat
  coverMin : Nat
  flagM : Nat
  flagN : Nat
  absMin : Nat
  relPpm : Nat
  histStep : Nat
  phWindow : Nat
  phRmin : Nat
  phMargin : Nat
  deriving DecidableEq, Repr

/-- The parameters of BIL.REGS.RESTORE OP 0 (R401). -/
structure BindIn where
  endpoint : Nat
  eui : Nat
  keyset : Nat
  calId : Nat
  prepay : Bool
  btype : Nat
  firstId : Nat
  deriving DecidableEq, Repr

/-- The parameters of BIL.CAMPAIGN.START with the list of endpoints (R401). -/
structure CampaignIn where
  number : Nat
  calId : Nat
  media : Nat
  keyref : Nat
  group : Nat
  repeats : Nat
  deadlineH : Nat
  endpoints : List Nat
  deriving DecidableEq, Repr

/-- What a claim meets on OWN_IN (R489, R490): it is not low for the 16 cycles before, it rises between 0 and 56 nc, it is high when
sampled at 56 nc. -/
structure ClaimIn where
  ownIn : Bool
  race : Bool
  high : Bool
  deriving DecidableEq, Repr

/-- A partner's health report as a heartbeat carries it (R506, R512). -/
structure ReportIn where
  eui : Nat
  role : Role
  owner : Bool
  side : Bool
  inStep : Bool
  state : DevState
  health : Nat
  ownedSince : Nat
  epoch : Nat
  lastShadow : Nat
  gapFrom : Nat
  deriving DecidableEq, Repr

/-- A shadow frame (R495): its sequence number, the frame with its path data and stamp, and, where a gap lies before it, the RTS of the
first missing frame. -/
structure ShadowIn where
  seq : Nat
  path : Nat
  radio : Bool
  bytes : Bytes
  rts : Nat
  chans : Nat
  lq : Nat
  zcFallback : Bool
  overload : Bool
  collector : Option (Nat × Nat × Nat)
  rate : Nat
  endNs : Nat
  missing : Nat
  deriving DecidableEq, Repr

/-- An entry of a whole ledger (R498). -/
structure LedgerIn where
  endpoint : Nat
  lastId : Nat
  bound : Bool
  held : Bool
  replay : Bool
  window : Nat
  anchor : Nat
  deriving DecidableEq, Repr


/-- What a DAWN stage meets at its end (R546, R547): the microseconds it took; at D0 BOOT_REC_N low, PAIR_SIDE high (side B), the OSP
receiver lit without a break for the 20 ms window (R475), whether backup SRAM's duty record and broadcast counter pass their CRC, and
the VBAT measurement in mV (R553); at D1 the straps SRP_X16, ETH0_SPD and ETH1_SPD; at D2 the lanes that pass their test (R546) and
whether the signature of each slot's header verifies (R453, R456); at D4 the rate at which each channel trains, in MT/s, 0 for none (R597);
at D5 the controllers enumerated (R290); at D7 what a claim meets. -/
structure DawnIn where
  timeUs : Nat
  bootRecLow : Bool
  sideB : Bool
  ospLit : Bool
  dutyOk : Bool
  bcastOk : Bool
  vbatMv : Nat
  srpX16 : Bool
  ethSpd : Nat
  lanePass : Nat
  sigA : Bool
  sigB : Bool
  dramRates : List Nat
  found : List CtrlIn
  claim : ClaimIn
  deriving DecidableEq, Repr


/-- The parameters of UPD.CAMPAIGN.START OP 1 with its list of endpoints (R470). -/
structure FwStartIn where
  campaign : Nat
  calId : Nat
  media : Nat
  keyref : Nat
  group : Nat
  repeats : Nat
  remulti : Nat
  deadlineH : Nat
  imageId : Nat
  activateAt : Nat
  endpoints : List Nat
  deriving DecidableEq, Repr

/-- A relay datagram as it arrives (R465): Ethernet port, source address and UDP port, destination UDP port, and its bytes. -/
structure RelayIn where
  eth : Nat
  address : Nat
  port : Nat
  dport : Nat
  bytes : Bytes
  deriving DecidableEq, Repr


/-- Where a packet of a service port comes from: the receive stream of SSP, or the bytes OSP has received behind a start bit of `startNs` ns
(R473, R477, R479). -/
inductive PortIn where
  | ssp
  | osp (startNs : Nat) (bytes : Bytes)
  deriving DecidableEq, Repr

/-- An SSP transaction up to its OP (R477, R478): the level of SSP_SCK at the falling edge of SSP_CS_N (high: mode 3), the edges of OP clocked
in, and OP. -/
structure SspIn where
  mode3 : Bool
  edges : Nat
  op : Nat
  deriving DecidableEq, Repr

/-- The rows of the opcode table: every command, bus event, pin event and timer of the FB-9600 (R9 to R598). -/
inductive Instr where
  /-- R9. A host write to a register that has no row of its own takes effect according to the register's access code. -/
  | hostRegisterWrite (a : BarAccess) (words : List HostWord)
  /-- R9. A read of an RC register returns its value and clears it; an increment in the same cycle survives. -/
  | rcRegisterRead (a : BarAccess) (lanes : Nat)
  /-- R7. A read of the low word of a 64-bit pair latches the high word into the function's holding register. -/
  | lowWordRead (fn off : Nat) (both : Bool)
  /-- R8. A write to the low word of a writable 64-bit value is staged without effect. -/
  | lowWordWrite (fn off : Nat) (value : Word)
  /-- R8. A write to the high word commits it together with any staged low word in one noon cycle. -/
  | highWordWrite (fn off : Nat) (value : Word)
  /-- R16. Setting LOCK locks every RWL register of the unit from that noon cycle until power-on reset. -/
  | unitLockWrite (unit : Nat) (value : Word)
  /-- R96. A host read in the MET, BIL or AON window is sent across the seam in class 7, at most four outstanding. -/
  | seamWindowRead (fn off : Nat)
  /-- R96. The seam answer of a Midnight-window read returns and HBR sends the completion. -/
  | seamWindowReadResponse
  /-- R21. A seam packet arrives and is checked for CRC and sequence. -/
  | seamPacketReceived (die : Die) (cls seq : Nat) (crcOk : Bool) (content : SeamContent)
  /-- R35. Every 1 ms each die sends its ownership heartbeat on seam class 2. -/
  | ownershipHeartbeatSend (die : Die)
  /-- R36. A die compares a received heartbeat with its own view and counts mismatches. -/
  | ownershipHeartbeatReceived (die : Die) (hb : Heartbeat)
  /-- R35. No heartbeat within 1.1 ms counts as a mismatch. -/
  | heartbeatTimeout (die : Die)
  /-- R51. A host write of a new SQ tail checks it and makes descriptors fetchable. -/
  | sqTailDoorbell (d : Doorbell)
  /-- R51. A host write of a new CQ head frees completion entries after checks. -/
  | cqHeadDoorbell (d : Doorbell)
  /-- R47. Setting QCTRL.ENABLE checks the configuration and resets the queue pointers and phase. -/
  | queueEnable (queue : Nat) (qctrl : Word)
  /-- R49. Clearing ENABLE stops fetching and completes fetched undispatched descriptors with STATE_CONFLICT. -/
  | queueDisable (queue : Nat) (qctrl : Word)
  /-- R56. CMD issues a descriptor fetch chosen by priority and rotation once CQ space allows. -/
  | descriptorFetch
  /-- R77. A fully received descriptor is decoded on the lanes, voted and checked for admission. -/
  | descriptorReceived (queue : Nat) (bytes : Bytes) (vote : Vote) (storeError : Bool)
  /-- R63. An admitted command is dispatched to its unit, waiting first for earlier completions when ORDER is set. -/
  | commandDispatch (queue : Nat)
  /-- R77. A unit's final result reaches CMD and the completion is written to the CQ. -/
  | commandResult (linkOk : Bool)
  /-- R64. COAL_TIME after the first unannounced completion the CQ sends its message. -/
  | cqCoalesceTimeout (queue : Nat)
  /-- R79. GLB.IDENTIFY writes the identity registers to host memory. -/
  | glbIdentify (c : CmdRef)
  /-- R79. GLB.STATUS returns the state word, hold causes and health. -/
  | glbStatus (c : CmdRef)
  /-- R78. GLB.STATE.SET moves between DAY and TWILIGHT, or sets BOOT_CTRL.HOLD in DAWN. -/
  | glbStateSet (c : CmdRef) (target : Nat)
  /-- R79. GLB.RECOVERY.ENTER posts its completion and enters RECOVERY on the named port. -/
  | glbRecoveryEnter (c : CmdRef) (confirm port : Nat)
  /-- R76. GLB.LANE.RESYNC takes named lanes down, self-tests them and resyncs those that pass. -/
  | glbLaneResync (c : CmdRef) (mask passMask : Nat)
  /-- R79. GLB.NOP completes OK with only the state echo. -/
  | glbNop (c : CmdRef)
  /-- R555. GLB.TAMPER.ACK verifies an authorization and ends tamper hold. -/
  | glbTamperAck (c : CmdRef) (auth : AuthIn)
  /-- R97. Completions of a part-issued read arrive and are reassembled for the requesting unit. -/
  | partReadCompletion (id : Nat) (data : Bytes)
  /-- R98. A part-issued read ending in UR, CA or poison errors the queue or fails the command. -/
  | partReadError (id tag : Nat) (why : ReadFail)
  /-- R617. A part-issued read not completed within the programmed timeout is ended. -/
  | completionTimeout (id tag waitedNc : Nat)
  /-- R103. Posted credits at zero for STALL_THRESH start a stall episode and back-off. -/
  | creditStall
  /-- R103. The back-off period ends and bulk writes and reads may be issued again. -/
  | backoffExpiry
  /-- R103. Credits at zero for 50 ms make the host absent for notices. -/
  | stallAbsent
  /-- R103. Returning credits end a stall-absence and the host is present again. -/
  | creditsReturn
  /-- R106. Data Link Layer down resets PCIe-side state and holds completions and notices. -/
  | linkDown (lost : List CmdKey)
  /-- R106. PERST_N asserted resets PCIe-side state and makes the part host-absent. -/
  | perstAssert (lost : List CmdKey)
  /-- R105. A function losing Bus Master Enable has its queues disabled and output held. -/
  | busMasterClear (fn : Nat) (lost : List CmdKey)
  /-- R105. A function entering D3hot can no longer master and its output is held. -/
  | d3hotEntry (fn : Nat) (lost : List CmdKey)
  /-- R106. FLR of physical function 0 resets its PCIe-side state and disables its queues. -/
  | flrPf0 (lost : List CmdKey)
  /-- R106. FLR of a virtual function runs a reset fence on its instance. -/
  | flrVf (k : Nat) (lost : List CmdKey)
  /-- R88. Setting VF Enable creates virtual functions within the NumVFs limit. -/
  | vfEnableSet (numVfs : Nat) (ari : Bool)
  /-- R106. Clearing VF Enable or lowering NumVFs fences the instances that lose their functions. -/
  | functionDisable (numVfs : Nat)
  /-- R91. Unmasking a vector sends its pending message. -/
  | msixVectorUnmask (vector : Nat)
  /-- R99. Enabling a notice ring resets its pointers and lets held entries flow in. -/
  | noticeRingEnable (ring : Nat) (nrctrl : Word)
  /-- R108. Disabling a notice ring holds every later notice of its function. -/
  | noticeRingDisable (ring : Nat) (nrctrl : Word)
  /-- R99. A notice-ring head doorbell frees entries or sets the ring's error. -/
  | noticeHeadDoorbell (d : Doorbell)
  /-- R99. A notice ring's coalescing time expires and its message is sent. -/
  | nrCoalesceTimeout (ring : Nat)
  /-- R108. HBR moves held entries into a ring that has space, in NSEQ order. -/
  | heldMove (fn : Nat)
  /-- R118. A symbol period's samples reach the Noon FFT on a chain. -/
  | plcSymbolReceived (w : FftWindow)
  /-- R135. NOISE_CTRL.CLEAR resets the noise figures of every chain. -/
  | plcNoiseClear
  /-- R133. SYNCM detections within 5 µs form a candidate group and chains are chosen for combining. -/
  | plcPreambleDetect (ds : List Detection)
  /-- R121. The PHR is decoded from the combined copies and checked. -/
  | plcPhrDecision (id : Nat) (combined : Nat) (alone : List (Nat × Nat))
  /-- R124. An LDPC decode round decodes up to eight codewords. -/
  | plcCodewordDecode (id first : Nat) (words : List (List Word))
  /-- R621. The decoded link frame is checked and handed to FSE at its fixed instant. -/
  | plcFrameHandoff (id lq : Nat) (est : List ChanEst)
  /-- R137. A PLC frame's first preamble sample leaves the converter at its launch time. -/
  | plcLaunch
  /-- R137. A starved converter ends the frame at the end of the symbol. -/
  | seamUnderrun
  /-- R113. The last transmitted sample leaves and receive blanking runs on for 200 µs. -/
  | plcTxEnd
  /-- R117. The random band C deferral ends and the deferred frame launches. -/
  | bandcDeferExpiry (id : Nat)
  /-- R130. A MET crossing packet arrives and updates the segment reference. -/
  | zcMetCrossing (channel timeNs : Nat) (valid : Bool)
  /-- R130. The coarse detector finds a crossing on the L1 chain. -/
  | zcCoarseCrossing (timeNs : Nat)
  /-- R131. No valid crossing within LOSS_CYCLES periods abandons the source for the next. -/
  | zcSourceLoss
  /-- R145. Idle medium and random backoff have passed and an ASAP frame launches; `wait` is R117's draw, should the frame be deferred. -/
  | plcContentionWaitEnd (id wait : Nat)
  /-- R145. A frame not launched within MAX_DEFER fails with MEDIA_BUSY. -/
  | plcMaxDeferExpiry (id : Nat)
  /-- R146. At 2 000 µs after a frame the part sends its ACK if every condition holds; `id` names the ACK owed. -/
  | plcAckSend (id : Nat)
  /-- R147. A matching ACK completes the attempt and resets FAILS. -/
  | plcAckReceived
  /-- R147. No ACK within 2 000 ± 250 µs fails the attempt and raises FAILS. -/
  | plcAckTimeout (id : Nat)
  /-- R147. The random mains-cycle wait of a retry ends and the frame contends again. -/
  | plcRetryWaitEnd (id : Nat)
  /-- R150. An RDISC targeting the part starts collecting path copies. -/
  | rdiscReceived
  /-- R150. After COLLECT_MS the part answers with an RREP for the cheapest path. -/
  | rdiscCollectEnd (src rdiscId : Nat)
  /-- R150. An RREP fills route candidate slots cheapest first. -/
  | rrepReceived
  /-- R152. No RREP for a send without candidates fails it with NO_ROUTE. -/
  | rrepWaitExpiry (endpoint : Nat)
  /-- R152. An RERR invalidates candidates through the broken link and raises a notice. -/
  | rerrReceived
  /-- R155. A TMREQ makes the part send the endpoint a TMRSP. -/
  | tmreqReceived
  /-- R156. A TMRSP becomes the neighbour's transmit set unless pinned. -/
  | tmrspReceived
  /-- R153. A transmit set older than TMAP_AGE makes the part send TMREQ. -/
  | tmapAgeExpiry (endpoint : Nat)
  /-- R157. GAP mains cycles after a copy, the next MCAST repeat is sent. -/
  | mcastRepeat (id : Nat)
  /-- R159. PLC.CONFIG sets the link parameters. -/
  | plcConfig (c : CmdRef) (p : PlcCfgIn)
  /-- R160. PLC.TONEMAP.SET OP 0 loads a transmit set for an endpoint. -/
  | plcTonemapLoad (c : CmdRef) (endpoint handle : Nat) (pin : Bool) (set : Bytes)
  /-- R160. PLC.TONEMAP.SET OP 1 reads an endpoint's transmit set. -/
  | plcTonemapReadTx (c : CmdRef) (endpoint : Nat)
  /-- R160. PLC.TONEMAP.SET OP 2 reads a receive set by handle. -/
  | plcTonemapReadRx (c : CmdRef) (handle : Nat)
  /-- R160. PLC.TONEMAP.SET OP 3 reverts an endpoint to the default map. -/
  | plcTonemapRevert (c : CmdRef) (endpoint : Nat)
  /-- R160. PLC.SEND queues a unicast frame and completes on ACK, send or failure. -/
  | plcSend (c : CmdRef) (p : PlcSendIn)
  /-- R160. PLC.ROUTE.SET OP 0 writes a route slot. -/
  | plcRouteSetSlot (c : CmdRef) (endpoint slot : Nat) (relays : List (Nat × Nat)) (last : Nat)
  /-- R160. PLC.ROUTE.SET OP 1 clears a route slot. -/
  | plcRouteClearSlot (c : CmdRef) (endpoint slot : Nat)
  /-- R160. PLC.ROUTE.SET OP 2 pins a route slot. -/
  | plcRoutePin (c : CmdRef) (endpoint slot : Nat)
  /-- R160. PLC.ROUTE.SET OP 3 unpins the route. -/
  | plcRouteUnpin (c : CmdRef) (endpoint : Nat)
  /-- R160. PLC.MCAST.SEND sends REPEATS multicast copies. -/
  | plcMcastSend (c : CmdRef) (p : PlcMcastIn)
  /-- R160. PLC.STATUS writes the configuration, counters and an endpoint's routing state. -/
  | plcStatus (c : CmdRef) (endpoint : Nat) (withEp : Bool)
  /-- R160. PLC.NOISE.READ writes the noise statistics of selected chains. -/
  | plcNoiseRead (c : CmdRef) (chains : Nat)
  /-- R164. 1 µs without an RXCLK edge clears CLK_PRESENT and abandons the port's frames. -/
  | rfClockLoss (port : Nat)
  /-- R164. RXCLK returns and CLK_PRESENT sets. -/
  | rfClockReturn (port : Nat)
  /-- R164. A wrong RXFRM pattern abandons frames in reception on the port. -/
  | rfFramingLoss (w : FramingIn)
  /-- R164. 16 consecutive correct words restore the port's framing. -/
  | rfFramingRestore (w : FramingIn)
  /-- R168. A sync word detection allocates a demodulator for the frame. -/
  | rfSyncDetect (d : SyncIn)
  /-- R168. The RF PHR is decoded and checked, discarding failed frames. -/
  | rfPhrDecision (id phr : Nat)
  /-- R171. After the last PSDU byte the demodulator returns to the pool. -/
  | rfFrameEnd (id : Nat) (psdu : Bytes)
  /-- R169. At each 250 µs block boundary the gain code moves by the clip count. -/
  | rfAgcBlock (port : Nat) (block : List PortEdge) (below : Nat)
  /-- R170. Power above JAM_LEVEL for JAM_MS without a sync marks a channel jammed. -/
  | rfJamStart (port : Nat) (j : JamIn)
  /-- R170. 100 ms below the level clears a jammed channel. -/
  | rfJamClear (port : Nat) (j : JamIn)
  /-- R172. At the launch instant RFX takes a transmit channel or refuses the launch. -/
  | rfTxLaunch
  /-- R173. The last ramp sample leaves and the channel frees. -/
  | rfTxEnd (port slot : Nat)
  /-- R174. At each whole minute a new on-time bucket begins and the oldest leaves the window. -/
  | dutyBucketRoll
  /-- R185. At slot 0 of each interval the part sends or skips its beacon per port. -/
  | mshBeaconSend (port : Nat)
  /-- R187. A beacon of another sender is counted and given a verdict. -/
  | mshBeaconHeard
  /-- R189. An Afane-R link frame is checked and taken in or discarded. -/
  | mshFrameReceived
  /-- R198. 1 000 µs after a frame the part sends its ACK if every condition holds. -/
  | mshAckSend
  /-- R199. A matching ACK completes the attempt, synchronises and may open a piggyback window. -/
  | mshAckReceived
  /-- R199. No valid ACK within 1 000 ± 100 µs fails the attempt. -/
  | mshAckTimeout (id : Nat)
  /-- R199. A retry is sent at its first permitted opportunity. -/
  | mshRetryOpportunity (id : Nat)
  /-- R200. 2 000 µs after an ACK the part sends the pending frame. -/
  | piggybackSend
  /-- R204. At an agreed night slot the part sends a held frame or skips. -/
  | nightSlotOccurrence (endpoint : Nat)
  /-- R205. A FLOOD copy goes out in the next run of FLOOD slots. -/
  | floodCopySend (id port : Nat)
  /-- R206. A seen-message entry expires 60 s after insertion. -/
  | seenCacheExpiry
  /-- R182. A loaded slot map takes effect at the next superframe and MAP_VERSION advances. -/
  | mapApply
  /-- R208. An Afane-T datagram is checked and its inner frame passed to FSE. -/
  | atDatagramReceived (d : Datagram)
  /-- R208. A collector silent for KEEPALIVE_S is marked down. -/
  | atCollectorDown (collector : Nat)
  /-- R210. A send not started by EXPIRE_S completes EXPIRED. -/
  | mshSendExpired (id : Nat)
  /-- R209. MSH.CONFIG sets mesh parameters and optionally a slot map. -/
  | mshConfig (c : CmdRef) (p : MshCfgIn)
  /-- R209. MSH.SLOT.ASSIGN OP 0 adds an assignment and queues its MACCMD. -/
  | mshSlotAdd (c : CmdRef) (p : SlotIn)
  /-- R209. MSH.SLOT.ASSIGN OP 1 removes one assignment. -/
  | mshSlotRemove (c : CmdRef) (endpoint assignment : Nat)
  /-- R209. MSH.SLOT.ASSIGN OP 2 removes all of an endpoint's assignments. -/
  | mshSlotRemoveAll (c : CmdRef) (endpoint : Nat)
  /-- R209. MSH.NIGHTSLOT.SET OP 0 sets a night-slot agreement. -/
  | mshNightslotSet (c : CmdRef) (p : SlotIn)
  /-- R209. MSH.NIGHTSLOT.SET OP 1 clears the agreement. -/
  | mshNightslotClear (c : CmdRef) (endpoint : Nat)
  /-- R209. MSH.SEND queues a radio frame and completes on ACK, send or failure. -/
  | mshSend (c : CmdRef) (p : MshSendIn)
  /-- R210. MSH.FLOOD sends REPEATS copies of a flood. -/
  | mshFlood (c : CmdRef) (p : MshFloodIn)
  /-- R210. MSH.BEACON.SET configures beacons from the next interval. -/
  | mshBeaconSet (c : CmdRef) (p : BeaconIn)
  /-- R210. MSH.STATUS writes an endpoint's mesh status. -/
  | mshStatus (c : CmdRef) (endpoint : Nat)
  /-- R214. A frame's first byte is offered to FSE's intake and admitted or refused. -/
  | fseIntake
  /-- R216. The verdict is released at its fixed instant after IE and windows are written. -/
  | fseVerdictRelease (n : Nat) (sameCycle : Bool) (waitNc : Nat)
  /-- R230. An RF frame's FCS arriving after its verdict fails and suppresses the ACK. -/
  | fcsAfterVerdict
  /-- R232. At commit FSE draws FCNT and seals an outbound frame. -/
  | frameSealCommit (medium id : Nat)
  /-- R254. The frame at the buffer head leaves when COD has room and its records are formed. -/
  | burstBufferLeave
  /-- R257. At each second ING updates storm state from the outage count. -/
  | stormSecond
  /-- R258. A path's storm rate allowance is refilled through the second. -/
  | stormAllowanceRefill (path frames : Nat)
  /-- R240. A dirty context is written to the checkpoint area within CKPT_S. -/
  | contextCheckpoint (index : Nat)
  /-- R578. A checkpoint write becomes durable on both copies and the change takes effect. -/
  | checkpointWriteDone (id : Nat) (ok recordOk : Bool)
  /-- R253. ING refills the billing queue from the gap list by reading durable records back. -/
  | billingGapRefill (n : Nat)
  /-- R266. EP.CREATE makes an endpoint context after its unit checks. -/
  | epCreate (c : CmdRef) (p : EpIn)
  /-- R266. EP.READ writes a snapshot of context lines. -/
  | epRead (c : CmdRef) (index firstLine lines : Nat)
  /-- R266. EP.WRITE GROUP 0 writes the context attributes. -/
  | epWriteAttr (c : CmdRef) (index : Nat) (p : EpAttr)
  /-- R266. EP.WRITE GROUP 1 writes the key-set handle. -/
  | epWriteKeyset (c : CmdRef) (index keyset : Nat)
  /-- R266. EP.WRITE GROUP 2 writes the receive windows. -/
  | epWriteRxwin (c : CmdRef) (index fcntH fcntMap nseqH nseqMap : Nat)
  /-- R266. EP.WRITE GROUP 3 raises the transmit counters. -/
  | epWriteTxctr (c : CmdRef) (index fcnt nseq : Nat)
  /-- R266. EP.WRITE GROUP 4 writes the reading windows. -/
  | epWriteReadwin (c : CmdRef) (index : Nat) (wins : List (Nat × Nat × Nat))
  /-- R266. EP.WRITE GROUP 5 clears path statistics. -/
  | epWritePathclr (c : CmdRef) (index : Nat)
  /-- R266. EP.WRITE GROUP 6 clears snapshot and counters. -/
  | epWriteSnapclr (c : CmdRef) (index : Nat)
  /-- R266. EP.WRITE GROUP 7 writes the host area. -/
  | epWriteHost (c : CmdRef) (index : Nat) (area : Bytes)
  /-- R266. EP.DELETE invalidates a context and releases its mesh and PLC state. -/
  | epDelete (c : CmdRef) (index : Nat)
  /-- R266. EP.LOOKUP finds an index by EUI-64. -/
  | epLookup (c : CmdRef) (eui : Nat)
  /-- R266. EP.STATS SCOPE 0 or 1 writes endpoint or instance statistics. -/
  | epStats (c : CmdRef) (index scope : Nat)
  /-- R266. EP.STATS SCOPE 2 writes and then clears the backfill bitmap. -/
  | epStatsBackfill (c : CmdRef)
  /-- R273. A record at COD's input is coded into its stream's open block. -/
  | codRecordCode
  /-- R281. CLOSE_TIME after its first record a block closes. -/
  | codCloseTimer (inst cls : Nat)
  /-- R281. A write to COD.FLUSH closes every open block of the classes named. -/
  | codFlush (classes : Nat)
  /-- R283. QCOMMIT makes the staged steps live and closes every open bounded block. -/
  | codQcommit
  /-- R286. When ARC frees a held-block place a waiting close is carried out. -/
  | codCloseResume
  /-- R296. ARC takes a closed block and issues its writes with FUA. -/
  | arcBlockTake
  /-- R297. A copy's write completes and durable blocks raise their notices. -/
  | arcWriteComplete (aen pos slot : Nat)
  /-- R298. A failed copy write closes the extent and redirects later blocks. -/
  | arcWriteFail (aen pos slot : Nat) (media : Bool)
  /-- R301. A journal page is committed when both drive writes complete. -/
  | journalPageCommit
  /-- R302. A map page is written to the image before the journal reuses its page. -/
  | mapImageWrite (page : Nat)
  /-- R290. A Deallocate completes and the extent is journaled free. -/
  | deallocateDone (slot phys : Nat)
  /-- R313. Every 60 s ARC reads each drive's health log and sets its stage. -/
  | arcHealthPoll (slot : Nat) (h : HealthIn)
  /-- R313. An NVMe command timing out counts toward a drive failure. -/
  | driveCommandTimeout (slot : Nat)
  /-- R290. A hot-plug event makes ARC enumerate its hierarchy again. -/
  | driveHotplug (found : List CtrlIn)
  /-- R314. A controller removed or its link down makes the drive FAILED and its extents DEGRADED. -/
  | driveLoss (slot : Nat)
  /-- R315. A rebuilt or evacuated copy is written and journaled. -/
  | rebuildCopyDone (journal verified : Bool)
  /-- R310. A block read for a query, export or replay returns. -/
  | blockReadDone (queue tag : Nat) (first other : Bool)
  /-- R311. ARC scrubs each sealed extent within 30 days. -/
  | scrubRead (aen pos : Nat) (first other digestOk : Bool)
  /-- R317. When two drives take copies again the billing hold is written out. -/
  | billingHoldDrain
  /-- R319. ARC.NS.CREATE OP 0 creates a namespace. -/
  | arcNsCreate (c : CmdRef) (p : NsIn)
  /-- R319. ARC.NS.CREATE OP 1 changes a namespace. -/
  | arcNsChange (c : CmdRef) (p : NsIn)
  /-- R319. ARC.NS.DELETE OP 0 deletes a namespace. -/
  | arcNsDelete (c : CmdRef) (ns confirm : Nat)
  /-- R303. ARC.NS.DELETE OP 1 releases sealed extents past retention. -/
  | arcNsReleaseSealed (c : CmdRef) (ns : Nat)
  /-- R310. ARC.QUERY scans a namespace and writes matching records or blocks. -/
  | arcQuery (c : CmdRef) (p : QueryIn)
  /-- R312. ARC.EXPORT writes descriptors and blocks of extents. -/
  | arcExport (c : CmdRef) (p : ExportIn)
  /-- R316. ARC.DRIVE.ADD OP 0 joins a drive to the set. -/
  | arcDriveJoin (c : CmdRef) (disc slot : Nat)
  /-- R308. ARC.DRIVE.ADD OP 1 rejoins a missing journal drive. -/
  | arcDriveRejoin (c : CmdRef) (disc slot : Nat)
  /-- R308. ARC.DRIVE.ADD OP 2 initialises a new drive set. -/
  | arcDriveInit (c : CmdRef) (disc slot disc2 confirm : Nat)
  /-- R316. ARC.DRIVE.REMOVE OP 0 evacuates a drive. -/
  | arcDriveEvacuate (c : CmdRef) (slot : Nat)
  /-- R316. ARC.DRIVE.REMOVE OP 1 makes a drive FAILED at once. -/
  | arcDriveFail (c : CmdRef) (slot : Nat)
  /-- R319. ARC.STATUS writes namespace or drive status. -/
  | arcStatus (c : CmdRef) (ns : Nat) (drives : Bool)
  /-- R303. ARC.SEAL closes and seals a WORM namespace's open extent. -/
  | arcSeal (c : CmdRef) (ns : Nat)
  /-- R328. LOS takes a record from its queue and accumulates it in a lane. -/
  | losRecordTake
  /-- R331. At its close time a lane is balanced and results are written. -/
  | losLaneClose
  /-- R327. MET's interval energy for the feeder head arrives. -/
  | losFeederEnergy (start imp exp : Nat)
  /-- R327. MET's 10 s phase voltage means arrive. -/
  | losVoltageMeans (start v1 v2 v3 : Nat)
  /-- R339. LOS.TOPO.LOAD loads a tree to govern from the next boundary. -/
  | losTopoLoad (c : CmdRef) (nodes crc : Nat) (data : List (BitVec 8))
  /-- R339. LOS.CONFIG sets balance parameters. -/
  | losConfig (c : CmdRef) (p : LosCfgIn)
  /-- R339. LOS.RESULT.READ writes balance results. -/
  | losResultRead (c : CmdRef) (first last start : Nat)
  /-- R339. LOS.PHASE.READ writes phase results. -/
  | losPhaseRead (c : CmdRef) (first count : Nat)
  /-- R339. LOS.HIST.READ writes and optionally clears residual histograms. -/
  | losHistRead (c : CmdRef) (first last : Nat) (clear : Bool)
  /-- R346. Every 125 µs MET processes a sample period on every powered channel. -/
  | metSample (codes : List Int) (crossings : List (Nat × Nat))
  /-- R350. The converter count of a coming second arrives from the Noon die. -/
  | metSecondMark (count sec : Nat) (flag : Bool)
  /-- R350. A second count not arrived when due is replaced and counted. -/
  | timeMarkMissing
  /-- R351. Every 900 s MET saves its energy registers to MRAM. -/
  | metRegisterSave
  /-- R352. MET_PULSE gives a 2 ms pulse per 1/PULSE_CONST kWh. -/
  | metPulseOut
  /-- R364. AON samples each enabled tamper input every 125 µs. -/
  | tamperSample (levels : Nat)
  /-- R365. In NIGHT AON samples the inputs every 16 mt and records alarms. -/
  | nightTamperSample (levels : Nat)
  /-- R355. MET.CAL.STORE OP 0 stores a calibration set by the A/B method. -/
  | metCalStore (c : CmdRef) (set : Bytes) (verifyOk : Bool) (cut : Option Bool)
  /-- R358. MET.CAL.STORE OP 1 seals the calibration. -/
  | metSeal (c : CmdRef) (confirm : Nat)
  /-- R359. MET.CAL.STORE OP 2 unseals under a signed authorization. -/
  | metUnseal (c : CmdRef) (auth : AuthIn)
  /-- R369. MET.READ writes a measurement snapshot. -/
  | metRead (c : CmdRef) (set channel : Nat)
  /-- R360. MET.SEAL.READ writes a signed seal statement. -/
  | metSealRead (c : CmdRef) (nonce len : Nat)
  /-- R369. MET.AUDIT.READ writes audit entries. -/
  | metAuditRead (c : CmdRef) (first count : Nat)
  /-- R369. MET.CONFIG powers channels and sets ZC_VMIN. -/
  | metConfig (c : CmdRef) (vpwr ipwr zcVmin : Nat)
  /-- R366. MET.CONFIG with TERM_ACK clears TERM_SUSPECT once inputs have been clear. -/
  | metTermAck (c : CmdRef) (vpwr ipwr zcVmin : Nat)
  /-- R383. BIL takes a durable billing copy into its pending-interval queue. -/
  | bilIntervalTake
  /-- R384. BIL applies an interval to the endpoint's register set and stores it. -/
  | bilIntervalApply (fetchOk : Bool)
  /-- R393. BIL decides a token request and journals the outcome. -/
  | tokenRequest (cut : Option Bool)
  /-- R498. The partner island verifies and applies an acceptance record and acknowledges it. -/
  | partnerTokenRecord (seq endpoint lastId window : Nat) (tagOk : Bool)
  /-- R498. The partner's acknowledgement of an island record arrives. -/
  | islandRecordAck (seq : Nat) (tagOk : Bool)
  /-- R388. An archived record read back is applied to bring a set forward. -/
  | bilReplayRecord (endpoint : Nat)
  /-- R399. At the small-hours window a tariff campaign resumes. -/
  | bilCampaignWindowOpen (n : Nat)
  /-- R399. At the window's end a tariff campaign pauses. -/
  | bilCampaignWindowClose (n : Nat)
  /-- R399. After DEADLINE_H hours a tariff campaign ends DEADLINE. -/
  | bilCampaignDeadline (n : Nat)
  /-- R379. BIL.CALENDAR.LOAD stores a calendar image into a slot copy. -/
  | bilCalendarLoad (c : CmdRef) (slot crc : Nat) (image : Bytes) (cut : Bool)
  /-- R401. BIL.REGS.READ OP 0 writes raw register sets. -/
  | bilRegsReadRaw (c : CmdRef) (first count : Nat)
  /-- R390. BIL.REGS.READ OP 1 writes signed readouts. -/
  | bilRegsReadSigned (c : CmdRef) (first count nonce : Nat)
  /-- R401. BIL.CREDIT.PUSH decides a token and sends its result. -/
  | bilCreditPush (c : CmdRef) (endpoint token : Nat) (cut : Option Bool)
  /-- R399. BIL.CAMPAIGN.START starts a tariff campaign. -/
  | bilCampaignStart (c : CmdRef) (p : CampaignIn)
  /-- R401. BIL.REGS.RESTORE OP 0 binds an endpoint with a zero set. -/
  | bilBind (c : CmdRef) (p : BindIn)
  /-- R388. BIL.REGS.RESTORE OP 1 restores sets and brings them forward. -/
  | bilRestore (c : CmdRef) (sets : List Bytes)
  /-- R401. BIL.REGS.RESTORE OP 2 clears the ledger entry of an index. -/
  | bilRelease (c : CmdRef) (endpoint confirm : Nat)
  /-- R388. BIL.REGS.RESTORE OP 3 sets ANCHOR to the set's SSEQ under authorization. -/
  | bilAcceptShort (c : CmdRef) (endpoint : Nat) (auth : AuthIn)
  /-- R401. BIL.LEDGER.READ writes ledger entries. -/
  | bilLedgerRead (c : CmdRef) (first count : Nat)
  /-- R401. BIL.CAMPAIGN.ABORT ends a campaign ABORTED. -/
  | bilCampaignAbort (c : CmdRef) (n : Nat)
  /-- R428. KEY.LOAD OP 0 creates a key set. -/
  | keyCreateSet (c : CmdRef) (a : KeyAddr) (auto : Bool)
  /-- R421. KEY.LOAD OP 1 imports a key wrapped under a transport key. -/
  | keyImportWrapped (c : CmdRef) (a : KeyAddr) (tslot : Nat) (wrapped : Bytes) (recordOk : Bool)
  /-- R421. KEY.LOAD OP 2 imports a plain key. -/
  | keyImportPlain (c : CmdRef) (a : KeyAddr) (usage flags : Nat) (key : Bytes) (recordOk : Bool)
  /-- R421. KEY.LOAD OP 3 generates a key inside the part. -/
  | keyGenerate (c : CmdRef) (a : KeyAddr) (usage flags : Nat) (recordOk : Bool)
  /-- R428. KEY.LOAD OP 4 deletes a key set and bumps SET_GEN. -/
  | keyDeleteSet (c : CmdRef) (a : KeyAddr) (confirm : Nat)
  /-- R428. KEY.UPDATE OP 0 replaces a key by wrapped import. -/
  | keyUpdateWrapped (c : CmdRef) (a : KeyAddr) (tslot : Nat) (wrapped : Bytes) (recordOk : Bool)
  /-- R428. KEY.UPDATE OP 1 replaces a key by plain import. -/
  | keyUpdatePlain (c : CmdRef) (a : KeyAddr) (usage flags : Nat) (key : Bytes) (recordOk : Bool)
  /-- R428. KEY.UPDATE OP 2 replaces a key by generation. -/
  | keyUpdateGenerate (c : CmdRef) (a : KeyAddr) (usage flags : Nat) (recordOk : Bool)
  /-- R418. KEY.INVALIDATE bumps a generation or removes a leaf key. -/
  | keyInvalidate (c : CmdRef) (a : KeyAddr) (recordOk : Bool)
  /-- R417. The vault core's reply updates the Noon generation mirror. -/
  | keyMirrorUpdate (id : Nat)
  /-- R421. KEY.DERIVE OP 0 agrees a transport key by ECDH. -/
  | keyAgree (c : CmdRef) (a : KeyAddr) (peer : Bytes) (valid : Bool)
  /-- R421. KEY.DERIVE OP 1 exports a key under a transport key. -/
  | keyExport (c : CmdRef) (a : KeyAddr) (tslot : Nat)
  /-- R425. KEY.ATTEST writes a signed attestation statement. -/
  | keyAttest (c : CmdRef) (nonce len : Nat)
  /-- R408. KEY.LIFECYCLE.ADVANCE moves the life-cycle state under authorization. -/
  | keyLifecycleAdvance (c : CmdRef) (target confirm : Nat) (digest : Bytes) (auth : AuthIn) (recordOk : Bool)
  /-- R428. KEY.STATUS reports a key's presence and attributes. -/
  | keyStatus (c : CmdRef) (a : KeyAddr) (data : Bool)
  /-- R421. A transport slot lapses after 3 600 s. -/
  | transportSlotLapse (inst slot : Nat)
  /-- R431. Each 125 MHz tick adds INCR to device time. -/
  | timeTick (noonCycles midnightTicks : Nat)
  /-- R434. At a device-second boundary TIM latches C_s and checks CCNT. -/
  | deviceSecond (ccnt midCcnt : Nat)
  /-- R437. A PTP Sync yields an offset sample for the servo. -/
  | ptpSyncReceived (port : Nat) (t1 t2 : Int)
  /-- R437. A PPS_IN rising edge yields an offset sample. -/
  | ppsInEdge
  /-- R510. Every 125 ms a part sends a TIME message to its partner. -/
  | partnerTimeExchange (asked : Option Nat)
  /-- R510. A TIME reply arrives and gives a PARTNER offset sample. -/
  | partnerTimeReply (t1 t2 t3 t4 : Int) (state source : Nat)
  /-- R438. Announce receipt timeout disqualifies a PTP source. -/
  | ptpAnnounceTimeout (port : Nat)
  /-- R438. No sample for LOSS_S disqualifies a source. -/
  | sourceLossTimeout (src : Nat)
  /-- R438. A better source qualified for REVERT_S is selected. -/
  | sourceRevert (src : Nat)
  /-- R444. HOLD_MAX_S in HOLDOVER makes time FREE and invalid. -/
  | holdoverExpiry
  /-- R432. Loss of block lock returns the tick to the Noon PLL. -/
  | tickRefLoss
  /-- R437. A master port sends Sync at its interval. -/
  | ptpSyncSend (port : Nat)
  /-- R445. A launch-queue entry is inserted or refused as late. -/
  | launchInsert (lane instant owner ref : Nat)
  /-- R443. A launch entry fires at its instant less lane delay. -/
  | launchFire
  /-- R445. An owning unit withdraws an entry up to 64 nc before firing. -/
  | launchWithdraw (id : Nat)
  /-- R446. TIM.READ samples device time. -/
  | timRead (c : CmdRef) (withData : Bool)
  /-- R446. TIM.STEP steps device time at the next tick boundary. -/
  | timStep (c : CmdRef) (absolute force : Bool) (value : Nat)
  /-- R446. TIM.SOURCE.SET pins a source or rearms the automatic step. -/
  | timSourceSet (c : CmdRef) (pin : Nat) (rearm : Bool)
  /-- R446. TIM.STATUS writes time and source status. -/
  | timStatus (c : CmdRef)
  /-- R448. A write to SNAP latches SEC, NS and the software time-stamp. -/
  | timSnap
  /-- R457. UPD.DOWNLOAD SOURCE 0 writes host package bytes into staging. -/
  | updDownloadHost (c : CmdRef) (offset total : Nat) (data : Bytes)
  /-- R466. UPD.DOWNLOAD SOURCE 1 opens staging to receive by relay. -/
  | updDownloadRelay (c : CmdRef) (offset total : Nat)
  /-- R470. UPD.DOWNLOAD SOURCE 2 discards staging. -/
  | updDiscardStaging (c : CmdRef)
  /-- R457. A 64 KiB staging granule is programmed, read back and STAGE_LEN raised. -/
  | flashGranuleDone (fails : Nat)
  /-- R458. UPD.VERIFY checks the staged package and optionally applies it to the inactive slot. -/
  | updVerify (c : CmdRef) (apply sigOk : Bool) (fails : Nat) (cut : Option Nat)
  /-- R459. UPD.ACTIVATE schedules activation now, in the window or at a time. -/
  | updActivate (c : CmdRef) (when' calId launchAt : Nat)
  /-- R459. UPD.ACTIVATE WHEN 3 cancels a scheduled activation. -/
  | updActivateCancel (c : CmdRef)
  /-- R459. At the activation instant UPD loads the island section, commits the boot record and restarts. -/
  | activationInstant (loadOk cut : Bool) (drained : Nat)
  /-- R462. 60 s before the confirmation window ends UPD raises a notice. -/
  | confirmWindowWarning
  /-- R462. An unconfirmed window ends and the part restarts. -/
  | confirmWindowExpiry (drained : Nat)
  /-- R462. UPD.CONFIRM makes the pending image active and raises FLOOR. -/
  | updConfirm (c : CmdRef) (fwId : Nat)
  /-- R463. UPD.ROLLBACK makes the other slot active and restarts. -/
  | updRollback (c : CmdRef) (confirm : Nat) (sigOk : Bool) (drained : Nat)
  /-- R470. UPD.CAMPAIGN.START OP 0 loads an endpoint image. -/
  | updCampaignLoad (c : CmdRef) (campaign imageId : Nat) (image : Bytes)
  /-- R469. UPD.CAMPAIGN.START OP 1 starts an endpoint campaign. -/
  | updCampaignStart (c : CmdRef) (p : FwStartIn)
  /-- R470. UPD.STATUS writes boot or campaign status. -/
  | updStatus (c : CmdRef) (scope : Nat)
  /-- R470. UPD.CAMPAIGN.ABORT ends a campaign ABORTED. -/
  | updCampaignAbort (c : CmdRef) (campaign : Nat)
  /-- R469. At the window's opening or close an endpoint campaign resumes or pauses. -/
  | updCampaignWindow (campaign : Nat)
  /-- R469. Every 600 s in the window UPD queries the archive for reports. -/
  | updCampaignReportQuery (campaign : Nat)
  /-- R469. After DEADLINE_H hours an endpoint campaign ends DEADLINE. -/
  | updCampaignDeadline (campaign : Nat)
  /-- R466. A successor accepts or refuses a relay OFFER. -/
  | relayOfferReceived (d : RelayIn)
  /-- R466. The sender starts sending DATA from the resume offset. -/
  | relayAcceptReceived (d : RelayIn)
  /-- R466. A REFUSE ends the relay to that successor. -/
  | relayRefuseReceived (d : RelayIn)
  /-- R466. A DATA chunk is taken in order and acknowledged as due. -/
  | relayDataReceived (d : RelayIn)
  /-- R466. An ACK advances the sender's window. -/
  | relayAckReceived (d : RelayIn)
  /-- R466. The successor checks the digest and sends RESULT. -/
  | relayDoneReceived (d : RelayIn)
  /-- R466. The sender records the successor's outcome. -/
  | relayResultReceived (d : RelayIn)
  /-- R466. 200 ms without progress resends, and ten resends fail the relay. -/
  | relayProgressTimeout (successor : Nat)
  /-- R467. The ROM loader returns identity and boot record bytes. -/
  | loaderIdent (p : PortIn)
  /-- R467. The ROM loader erases a region. -/
  | loaderErase (p : PortIn) (fails : Nat)
  /-- R467. The ROM loader programs bytes into a region. -/
  | loaderWrite (p : PortIn) (fails : Nat)
  /-- R467. The ROM loader returns bytes of a region. -/
  | loaderRead (p : PortIn)
  /-- R467. The ROM loader checks a slot and makes it VALID. -/
  | loaderCheck (p : PortIn) (sigOk : Bool)
  /-- R467. The ROM loader puts a slot on trial. -/
  | loaderSelect (p : PortIn) (sigOk : Bool)
  /-- R467. The ROM loader leaves RECOVERY for DAWN. -/
  | loaderRestart (p : PortIn)
  /-- R467. A packet incomplete after 100 ms of silence is discarded. -/
  | packetSilenceTimeout (port : Nat)
  /-- R476. The service protocol answers IDENT. -/
  | svcIdent (p : PortIn)
  /-- R476. The service protocol reads a register without side effect. -/
  | svcRegRead (p : PortIn)
  /-- R477. An SSP PUT transaction adds bytes to the receive stream. -/
  | sspPut (t : SspIn) (bytes : Bytes) (midByte : Bool)
  /-- R477. An SSP GET transaction clocks out transmit-stream bytes. -/
  | sspGet (t : SspIn) (clocked : Nat) (midByte : Bool)
  /-- R477. An SSP STAT transaction returns the status byte and clears FAULT. -/
  | sspStat (t : SspIn)
  /-- R479. A response goes out on OSP after 200 µs of dark line. -/
  | ospResponseSend (dark : Bool)
  /-- R480. Ambient light or a long lit line floods OSP and discards a frame under way. -/
  | ospFloodStart (ambient litBits : Nat) (frame : Bytes)
  /-- R480. 10 ms without flood clears it and sends any NAK due. -/
  | ospFloodClear (ambient : Nat)
  /-- R480. A response waiting 2 s on a flood is dropped. -/
  | ospResponseDrop
  /-- R481. A stop bit read as light discards the frame and a NAK follows. -/
  | ospFramingError (frame : Bytes)
  /-- R475. With no valid SSP packet and 1 s of lit OSP the loader moves to OSP. -/
  | ospLoaderMove
  /-- R483. A TAP instruction is admitted or replaced by BYPASS. -/
  | tapInstructionLoad (noon mid : Nat)
  /-- R483. TRST_N or Test-Logic-Reset selects IDCODE and releases a DAWN hold. -/
  | tapReset
  /-- R512. PAR.STATUS writes own and partner health reports. -/
  | parStatus (c : CmdRef)
  /-- R512. PAR.ROLE.SET OP 0 releases ownership into STANDBY. -/
  | parRoleStandby (c : CmdRef)
  /-- R486. PAR.ROLE.SET OP 1 makes the part SOLO, claiming if needed. -/
  | parRoleSolo (c : CmdRef) (confirm : Nat) (claim : ClaimIn)
  /-- R505. PAR.ROLE.SET OP 2 resyncs a standby from the owner's archive. -/
  | parResync (c : CmdRef) (start : Nat)
  /-- R489. PAR.CLAIM drives OWN_OUT and samples OWN_IN at 56 nc to gain ownership. -/
  | parClaim (c : CmdRef) (force : Bool) (claim : ClaimIn)
  /-- R491. PAR.RELEASE drops the permit, tells the island and partner, and drops OWN_OUT. -/
  | parRelease (c : CmdRef) (drain handover : Bool)
  /-- R491. The island's echo arrives and the release proceeds to OWN_OUT. -/
  | releaseEchoReceived (claim : ClaimIn)
  /-- R491. 1.1 ms without an echo drops OWN_OUT anyway. -/
  | releaseEchoTimeout (claim : ClaimIn)
  /-- R512. PAR.DIGEST.READ writes an epoch's digests. -/
  | parDigestRead (c : CmdRef) (epoch : Nat)
  /-- R507. PAR.SELFTEST runs the named tests at once. -/
  | parSelftest (c : CmdRef) (mask failing : Nat)
  /-- R501. OWN_IN falling may start an automatic claim. -/
  | ownInFall (claim : ClaimIn)
  /-- R500. Every 1 ms a part sends its heartbeat on the pair link. -/
  | pairHeartbeatSend
  /-- R500. A partner heartbeat updates partner health and checks for pair faults. -/
  | pairHeartbeatReceived (report : ReportIn) (ownIn : Bool)
  /-- R500. Missing heartbeats mark the partner lost. -/
  | partnerLoss (claim : ClaimIn)
  /-- R500. A pair-link lane goes down. -/
  | pairLaneDown (lane : Nat) (claim : ClaimIn)
  /-- R501. A partner's RELEASE message allows a claim without holdoff. -/
  | releaseMessageReceived (handover : Bool)
  /-- R501. 1.2 ms after a claim the island may commit again. -/
  | holdoffEnd
  /-- R495. A standby takes a shadow frame into its FSE and checks for gaps. -/
  | shadowFrameReceived (f : ShadowIn)
  /-- R497. A COUNTER message raises the partner's counter. -/
  | counterMessageReceived (kind idx value : Nat)
  /-- R504. At an epoch's end the part closes its three digests. -/
  | digestEpochEnd (epoch : Nat)
  /-- R504. Two seconds after an epoch digests are exchanged and compared. -/
  | digestExchange (epoch : Nat) (theirs : List Bytes)
  /-- R507. A periodic known-answer test runs. -/
  | selftestPeriodic (test : Nat) (ok : Bool)
  /-- R517. A port raises a burst request at a target. -/
  | fabBurstRequest (target port bytes : Nat) (write : Bool)
  /-- R518. A burst's last beat ends and FAB grants the next. -/
  | fabBurstEnd (target : Nat)
  /-- R522. QUIET drops a port from arbitration and cuts its burst. -/
  | quietRise (port : Nat)
  /-- R522. QUIET falling makes the port eligible again. -/
  | quietFall (port : Nat)
  /-- R534. VIN.CREATE makes an instance READY. -/
  | vinCreate (c : CmdRef) (q : Quotas) (ckptOk : Bool)
  /-- R524. VIN.RESET fences an instance and returns it to READY. -/
  | vinReset (c : CmdRef)
  /-- R524. VIN.DISABLE fences an instance into FENCED. -/
  | vinDisable (c : CmdRef)
  /-- R534. VIN.QUOTA.SET changes an instance's quotas. -/
  | vinQuotaSet (c : CmdRef) (q : Quotas) (ckptOk : Bool)
  /-- R534. VIN.STATUS writes the instance window. -/
  | vinStatus (c : CmdRef)
  /-- R534. VIN.DESTROY fences an empty instance into ABSENT. -/
  | vinDestroy (c : CmdRef) (confirm : Nat) (ckptOk : Bool)
  /-- R530. A unit acknowledges its part of a fence. -/
  | fenceUnitAck (inst : Nat) (unit : FenceUnit)
  /-- R531. A fence unacknowledged by 24 000 nc ends FENCED as a fault. -/
  | fenceTimeout (inst : Nat)
  /-- R538. VSENSE below VFAIL for 2 µs declares DUSK. -/
  | vsenseFail (supply : SupplyIn)
  /-- R538. SFAIL_N low for 2 µs declares DUSK. -/
  | sfailNLow
  /-- R538. SYS_RST_N low for 2 µs declares DUSK. -/
  | sysRstNLow
  /-- R544. Loss of the 25 MHz reference declares DUSK with PLLs held. -/
  | referenceLoss
  /-- R538. 10 ms of valid supply starts DAWN from NIGHT, power-on or DUSK. -/
  | supplyValid (vbatLost : Bool)
  /-- R551. The save completes or its 12 ms budget ends and Noon domains switch off. -/
  | duskSaveEnd (complete : Bool) (timeUs : Nat)
  /-- R551. VDDIO_M below the switch-over level moves AON to VBAT and enters NIGHT. -/
  | supplySwitchover
  /-- R546. A DAWN stage ends and the next begins, D7 ending DAWN. -/
  | dawnStageEnd (d : DawnIn)
  /-- R541. A domain's ramp ends and its clamps and reset release. -/
  | domainRampDone (domain : Nat)
  /-- R541. A domain not reaching supply in twice its ramp time stands at FAULT. -/
  | domainRampFault (domain : Nat)
  /-- R553. Every 3 600 s AON measures VBAT and sets VBAT_LOW. -/
  | vbatMeasure (mv : Nat)
  /-- R556. PWR.DOMAIN.SET ON 1 switches a class H domain on. -/
  | pwrDomainOn (c : CmdRef) (domain : Nat)
  /-- R556. PWR.DOMAIN.SET ON 0 switches a class H domain off. -/
  | pwrDomainOff (c : CmdRef) (domain : Nat)
  /-- R556. PWR.STATUS writes domain and stage status. -/
  | pwrStatus (c : CmdRef)
  /-- R556. PWR.SHUTDOWN OP 0 declares DUSK and then restarts DAWN. -/
  | pwrShutdownRestart (c : CmdRef) (confirm : Nat)
  /-- R556. PWR.SHUTDOWN OP 1 declares DUSK and halts. -/
  | pwrShutdownHalt (c : CmdRef) (confirm : Nat)
  /-- R561. An event at a recorder forms, repeats or queues a record. -/
  | evrEvent (e : EventIn)
  /-- R562. A staged record is committed and the next queued event is staged. -/
  | evrRecordCommit (recorder : Nat)
  /-- R563. A histogram or extremes period ends and its record is committed. -/
  | evrHistPeriodEnd (recorder : Nat) (extremes : Bool)
  /-- R563. Once a second the recorders sample temperature and VSENSE extremes. -/
  | evrExtremesSample (noonTemp midTemp vsense : Int)
  /-- R567. A CURSOR write starts loading the snapshot of a record. -/
  | evrCursorWrite (cursor : Nat)
  /-- R567. A snapshot load completes and BUSY clears. -/
  | evrLoadDone
  /-- R567. A read of WIN15 with AUTO_ADV advances CURSOR and loads the next record. -/
  | evrWin15Read
  /-- R570. EVR.READ writes records of a recorder. -/
  | evrRead (c : CmdRef) (recorder first count : Nat)
  /-- R565. EVR.CLEAR clears a Noon recorder and writes CLEARED. -/
  | evrClear (c : CmdRef) (recorder confirm : Nat)
  /-- R570. EVR.CONFIG sets a recorder's periods and repeat window. -/
  | evrConfig (c : CmdRef) (recorder histS extS repeatMs : Nat)
  /-- R592. The Noon junction crossing 107 °C or 103 °C moves THERM_N. -/
  | thermalThreshold (temp : Int)
  /-- R598. The part scrubs DRAM in idle cycles and logs corrected errors. -/
  | dramScrub (channel rank addr : Nat) (corrected : Bool)
  /-- R598. An uncorrectable DRAM error poisons the burst and faults its job. -/
  | dramUncorrectable (channel rank addr : Nat) (job : Option CmdRef)
  /-- R104. The host link's Data Link Layer comes up, ending that cause of host-absence so held completions, notices and pending messages can flow. -/
  | dataLinkUp (speed width : Nat)
  /-- R104. PERST_N is released, ending that cause of host-absence. -/
  | perstDeassert
  /-- R91. A function's Bus Master Enable is set, so it can master again and its pending MSI-X messages and held output may be sent. -/
  | busMasterSet (fn : Nat)
  /-- R91. A function returns from D3hot to D0 and can master again. -/
  | d3hotExit (fn : Nat)
  /-- R551. SYS_RST_N rises, releasing a halted DUSK or a DAWN held at D0. -/
  | sysRstNRise
  /-- R500. A pair-link lane comes back up, clearing LINK_SINGLE or restoring the link. -/
  | pairLaneUp (lane : Nat)
  /-- R438. A PTP Announce arrives, feeding qualification by grandmaster and the best master clock algorithm and restarting the Announce receipt timeout. -/
  | ptpAnnounceReceived (port : Nat) (a : Announce)
  /-- R437. A Delay_Req, Delay_Resp or peer-delay message arrives and updates the path delay or is answered as master. -/
  | ptpDelayMessageReceived (port : Nat) (m : PtpDelay)
  /-- R437. A master port sends Announce at its interval with the parent dataset and clockClass. -/
  | ptpAnnounceSend (port : Nat)
  /-- R437. A slave port sends a delay request or peer-delay request at its interval. -/
  | ptpDelayRequestSend (port : Nat)
  /-- R512. DRAIN_MS after a draining release, frames still on the medium are truncated and the release proceeds. -/
  | releaseDrainExpiry
  /-- R505. A standby receives a resync record over the pair link and hands it to COD, BIL and LOS, raising its windows. -/
  | resyncRecordReceived (record : Bytes) (final : Bool)
  /-- R498. The partner island receives the owner's whole token ledger under the PAIR key and replaces its own, after which IN_STEP may rise. -/
  | ledgerCopyReceived (entries : List LedgerIn) (final tagOk : Bool)
  /-- R266. The Data Link Layer acknowledges the last TLP of the backfill bitmap, and ING clears the bitmap and BACKFILL_PRESENT. -/
  | backfillTlpAcknowledged
  deriving DecidableEq, Repr

end Sys2Proof
end

