-- ==== Sys2Proof/Decode.lean ====
section
/-! DEFINITION. The command a table word spells. No row of spec/opcode_table.json gives bits (the part takes commands by queues, registers,
pins and links, not by instruction words), so no word spells one. -/
set_option Elab.async false
namespace Sys2Proof

/-- The command a word spells by the table's bits: none, for no row of the table gives any. -/
def decodeTableWord (_nbits _w : Nat) : Option Instr := none

end Sys2Proof
end

