-- ==== Sys2Proof/Config.lean ====
section
/-! DEFINITION. What an implementation fixes and the manual leaves open: opaque constants, of which nothing can be
proved. Each stands in a row of the assumption log. -/
set_option Elab.async false
namespace Sys2Proof.Config

/-- The free values: the `n`-th draw of a number the manual leaves open (a random back-off, a random challenge). -/
opaque freeValue : Nat → Nat

/-- The 16-bit event CODE a source unit (window index) gives each kind of event it logs (R560: "defined by the source
unit"; the chapters give no numbers). -/
opaque eventCode : Nat → Nat → Nat

/-- The body of a notice field the manual names without a value. -/
opaque freeBytes : Nat → Bytes

/-- A number the manual leaves open: the point's own number (its row of the assumption log says which) and what it may depend on. -/
opaque unstated : Nat → Nat → Nat → Nat

/-- Does the part round a quotient that is no whole number up, where the manual gives no rounding? -/
opaque roundUp : Int → Nat → Bool

/-- Does the part round the mean of powers, each in 0.5 dB, up to the next 0.5 dB (R169)? The manual gives no rounding. -/
opaque meanUp : List Int → Bool

/-- Does the part round the square root of a quotient up where it is no whole number? The manual gives no rounding. -/
opaque rootUp : Nat → Nat → Bool

/-- Where harmonic 2 to 63 of a window's samples of one channel lies within the limits of R347. -/
opaque spectrum : Nat → List Int → Nat

/-- How MET's fractional-delay filter departs from the line between two samples, and its Hilbert filter's value (R346), by PHASE and the
channel's recent values, newest first: the manual gives no coefficients. -/
opaque delayFilter : Int → List Int → Int
opaque hilbertFilter : List Int → Int

/-- The 3 408-byte hybrid signature of a message under private material (R410). -/
opaque signature : Bytes → Bytes → Bytes

/-- The 2 049-byte public key block of private material (R410). -/
opaque publicKey : Bytes → Bytes

/-- An ephemeral P-256 key pair from the entropy source, by draw: the compressed public key; and the shared secret of the pair with a
peer's compressed key (R421). -/
opaque ephemeralKey : Nat → Bytes
opaque sharedSecret : Nat → Bytes → Bytes

/-- The bytes an item takes in a digest stream (R504): the manual names its numbers and not their widths. -/
opaque digestItem : Nat → List Nat → Bytes

end Sys2Proof.Config
end

