-- ==== Sys2Proof/Machine/Store.lean ====
section
/-! DEFINITION. The plain-data containers and helpers every unit uses: sparse tables keyed by a number, bit
fields of a register word, saturating and wrapping counters, and little-endian byte strings. -/
set_option Elab.async false
namespace Sys2Proof.Machine

/-- A sparse table: key and value pairs, keys strictly rising. -/
abbrev Tab (α : Type) := List (Nat × α)

namespace Tab

/-- The entry of `k`, if there is one. -/
def get? {α : Type} : Tab α → Nat → Option α
  | [], _ => none
  | (k, v) :: t, i => if k = i then some v else get? t i

/-- The entry of `k`, or `d` where there is none. -/
def getD {α : Type} (t : Tab α) (k : Nat) (d : α) : α := (get? t k).getD d

/-- Is there an entry for `k`? -/
def has {α : Type} (t : Tab α) (k : Nat) : Bool := (get? t k).isSome

/-- Puts `v` at `k`, keeping the keys in rising order. -/
def put {α : Type} : Tab α → Nat → α → Tab α
  | [], i, x => [(i, x)]
  | (k, v) :: t, i, x =>
    if i < k then (i, x) :: (k, v) :: t
    else if i = k then (i, x) :: t
    else (k, v) :: put t i x

/-- Removes the entry of `k`. -/
def del {α : Type} : Tab α → Nat → Tab α
  | [], _ => []
  | (k, v) :: t, i => if k = i then t else (k, v) :: del t i

/-- Replaces the entry of `k` by `f` of it, `d` standing for an absent one. -/
def upd {α : Type} (t : Tab α) (k : Nat) (d : α) (f : α → α) : Tab α := put t k (f (getD t k d))

/-- Replaces the entry of `k` by `f` of it, if there is one. -/
def adj {α : Type} (t : Tab α) (k : Nat) (f : α → α) : Tab α :=
  match get? t k with
  | some v => put t k (f v)
  | none => t

/-- Applies `f` to every entry. -/
def mapVals {α β : Type} (t : Tab α) (f : Nat → α → β) : Tab β := t.map (fun e => (e.1, f e.1 e.2))

/-- The number of entries that satisfy `p`. -/
def count {α : Type} (t : Tab α) (p : α → Bool) : Nat := (t.filter (fun e => p e.2)).length

/-- The keys of a table. -/
def keys {α : Type} (t : Tab α) : List Nat := t.map Prod.fst

/-- The keys stand in strictly rising order: the one canonical form of a table. -/
def sorted {α : Type} : Tab α → Bool
  | [] => true
  | [_] => true
  | (a, _) :: (b, y) :: t => decide (a < b) && sorted ((b, y) :: t)

end Tab

/-- Inserts `x` before the first element with a larger key. -/
def insertOn {α : Type} (key : α → Nat) (x : α) : List α → List α
  | [] => [x]
  | y :: t => if key x ≤ key y then x :: y :: t else y :: insertOn key x t

/-- A list in rising order of a key, equal keys in the order they had. -/
def sortOn {α : Type} (key : α → Nat) : List α → List α
  | [] => []
  | x :: t => insertOn key x (sortOn key t)

/-- A list cut into pieces of `n`, at most `fuel` of them. -/
def pieces {α : Type} (n : Nat) : Nat → List α → List (List α)
  | 0, _ => []
  | fuel + 1, l => if l.isEmpty then [] else l.take n :: pieces n fuel (l.drop n)

/-- Bits [hi:lo] of a number. -/
def field (w hi lo : Nat) : Nat := (w / 2 ^ lo) % 2 ^ (hi + 1 - lo)

/-- Bit `i` of a number. -/
def bitAt (w i : Nat) : Bool := w.testBit i

/-- A Boolean as a bit. -/
def bitN (b : Bool) : Nat := if b then 1 else 0

/-- The number `w` with bit `i` set to `b`. -/
def putBit (w i : Nat) (b : Bool) : Nat :=
  if w.testBit i = b then w else if b then w + 2 ^ i else w - 2 ^ i

/-- The number `w` with bits [hi:lo] set to the low bits of `v`. -/
def putField (w hi lo v : Nat) : Nat :=
  w - field w hi lo * 2 ^ lo + (v % 2 ^ (hi + 1 - lo)) * 2 ^ lo

/-- Saturating addition below 2^n. -/
def satAdd (n a b : Nat) : Nat := min (a + b) (2 ^ n - 1)

/-- Signed value of a `w`-bit field. -/
def signedOf (w x : Nat) : Int := if x % 2 ^ w < 2 ^ (w - 1) then (x % 2 ^ w : Nat) else ((x % 2 ^ w : Nat) : Int) - 2 ^ w

/-- A signed number as a `w`-bit two's complement field. -/
def toField (w : Nat) (x : Int) : Nat := (x % (2 ^ w : Nat)).toNat

/-- Clamps a signed number into [lo, hi]. -/
def clampInt (lo hi x : Int) : Int := max lo (min hi x)

/-- `n` bytes of a number, least significant first (R6). -/
def le : Nat → Nat → Bytes
  | 0, _ => []
  | n + 1, x => BitVec.ofNat 8 x :: le n (x / 256)

/-- The number a little-endian byte string spells. -/
def ofLe : Bytes → Nat
  | [] => 0
  | b :: t => b.toNat + 256 * ofLe t

/-- `n` bytes of a number, most significant first. -/
def be (n x : Nat) : Bytes := (le n x).reverse

/-- The number a big-endian byte string spells. -/
def ofBe (b : Bytes) : Nat := ofLe b.reverse

/-- `n` bytes of zero. -/
def zeros (n : Nat) : Bytes := List.replicate n 0#8

/-- Byte `i` of a string, 0 beyond its end. -/
def byteAt (b : Bytes) (i : Nat) : Nat := (b.getD i 0#8).toNat

/-- `n` bytes of a string from byte `i`. -/
def slice (b : Bytes) (i n : Nat) : Bytes := (b.drop i).take n

/-- The little-endian number in `n` bytes from byte `i`. -/
def leAt (b : Bytes) (i n : Nat) : Nat := ofLe (slice b i n)

/-- A byte string cut or zero-filled to `n` bytes. -/
def fit (n : Nat) (b : Bytes) : Bytes := b.take n ++ zeros (n - b.length)

/-- Rounds up to a multiple of `m`. -/
def roundUp (x m : Nat) : Nat := (x + m - 1) / m * m

/-- Ceiling of a quotient. -/
def ceilDiv (x m : Nat) : Nat := (x + m - 1) / m

/-- One bit-serial step of a reflected CRC. -/
def crcStepR (poly : Nat) (c : Nat) : Nat := if c % 2 = 1 then (c / 2) ^^^ poly else c / 2

/-- One byte of a reflected CRC. -/
def crcByteR (poly : Nat) (c : Nat) (b : Byte) : Nat :=
  (List.range 8).foldl (fun x _ => crcStepR poly x) (c ^^^ b.toNat)

/-- CRC-32C (Castagnoli) of a byte string. -/
def crc32c (b : Bytes) : Nat := (b.foldl (crcByteR 0x82F63B78) 0xFFFFFFFF) ^^^ 0xFFFFFFFF

/-- One bit of a most-significant-first CRC of width `n`. -/
def crcStepF (n poly x : Nat) : Nat :=
  if x.testBit (n - 1) then ((x * 2) ^^^ poly) % 2 ^ n else (x * 2) % 2 ^ n

/-- One byte of a most-significant-first CRC of width `n`. -/
def crcByteF (n poly : Nat) (c : Nat) (b : Byte) : Nat :=
  (List.range 8).foldl (fun x _ => crcStepF n poly x) (c ^^^ (b.toNat * 2 ^ (n - 8)))

/-- A most-significant-first CRC of width `n` with the polynomial and initial value given. -/
def crcF (n poly start : Nat) (b : Bytes) : Nat := b.foldl (crcByteF n poly) start

/-! ### The flash memory (R451) -/

/-- A memory of bytes in its one canonical form: the cells that differ from the erased value FFH, addresses rising. -/
abbrev Memory := List Host.Cell

namespace Memory

/-- What an erased byte reads as (R451, R454). -/
abbrev erased : Byte := 0xFF#8

/-- The canonical form: addresses strictly rising, no cell equal to an erased byte. -/
def wf (m : Memory) : Bool := Tab.sorted m && m.all (fun c => c.2 != erased)

/-- The byte at an address. -/
def read (m : Memory) (a : Nat) : Byte := Tab.getD m a erased

/-- Sets the byte at an address. -/
def set (a : Nat) (b : Byte) (m : Memory) : Memory := if b = erased then Tab.del m a else Tab.put m a b

/-- The `n` bytes from an address. -/
def bytes (m : Memory) (a n : Nat) : Bytes := (List.range n).map (fun k => read m (a + k))

/-- Programs bytes from an address: a program operation clears bits and sets none. -/
def program : Nat → Bytes → Memory → Memory
  | _, [], m => m
  | a, b :: t, m => program (a + 1) t (set a (read m a &&& b) m)

/-- Erases `n` bytes from an address. -/
def erase (a n : Nat) (m : Memory) : Memory := m.filter (fun c => decide (c.1 < a) || decide (a + n ≤ c.1))

end Memory

end Sys2Proof.Machine
end

