-- ==== Sys2Proof/Machine/OpIndex.lean ====
section
/-! DEFINITION. The opcode index (R80) with each opcode's class (R70), issuer, ownership, QUEUED and parameter length,
the DAWN stage of the status opcodes (R72), and the checks of parameters that need no state (R65, R616). -/
set_option Elab.async false
namespace Sys2Proof.Machine

/-- The admission classes of R70. -/
inductive OpClass where
  | s | v | p | n
  deriving DecidableEq, Repr

/-- One row of the opcode index (R80): opcode, class, manager-only, needs ownership, may return QUEUED, PLEN and, for a
status opcode, the first DAWN stage that admits it (R72). -/
structure OpInfo where
  op : Nat
  cls : OpClass
  manager : Bool
  own : Bool
  mayQueue : Bool
  plen : Nat
  dawnStage : Nat
  deriving DecidableEq, Repr

/-- The opcode index (R80). -/
def opIndex : List OpInfo :=
  [
    ⟨0x0001, .s, true, false, false, 0, 2⟩,  -- GLB.IDENTIFY
    ⟨0x0002, .s, true, false, false, 0, 2⟩,  -- GLB.STATUS
    ⟨0x0003, .v, true, false, false, 4, 6⟩,  -- GLB.STATE.SET
    ⟨0x0004, .v, true, false, false, 8, 6⟩,  -- GLB.RECOVERY.ENTER
    ⟨0x0005, .v, true, false, false, 4, 6⟩,  -- GLB.LANE.RESYNC
    ⟨0x0006, .s, true, false, false, 0, 2⟩,  -- GLB.NOP
    ⟨0x0008, .v, true, false, false, 0, 6⟩,  -- GLB.TAMPER.ACK
    ⟨0x0101, .n, true, false, false, 16, 6⟩,  -- VIN.CREATE
    ⟨0x0102, .v, true, false, true, 0, 6⟩,  -- VIN.RESET
    ⟨0x0103, .v, true, false, true, 0, 6⟩,  -- VIN.DISABLE
    ⟨0x0104, .n, true, false, false, 16, 6⟩,  -- VIN.QUOTA.SET
    ⟨0x0105, .s, true, false, false, 0, 6⟩,  -- VIN.STATUS
    ⟨0x0106, .n, true, false, true, 4, 6⟩,  -- VIN.DESTROY
    ⟨0x0201, .n, false, false, false, 40, 6⟩,  -- EP.CREATE
    ⟨0x0202, .s, false, false, false, 8, 6⟩,  -- EP.READ
    ⟨0x0203, .n, false, false, false, 8, 6⟩,  -- EP.WRITE
    ⟨0x0204, .n, false, false, false, 4, 6⟩,  -- EP.DELETE
    ⟨0x0205, .s, false, false, false, 8, 6⟩,  -- EP.LOOKUP
    ⟨0x0206, .s, false, false, false, 4, 6⟩,  -- EP.STATS
    ⟨0x0301, .n, true, false, false, 24, 6⟩,  -- PLC.CONFIG
    ⟨0x0302, .n, false, false, false, 8, 6⟩,  -- PLC.TONEMAP.SET
    ⟨0x0303, .n, false, true, true, 24, 6⟩,  -- PLC.SEND
    ⟨0x0304, .n, false, false, false, 8, 6⟩,  -- PLC.ROUTE.SET
    ⟨0x0305, .n, true, true, true, 24, 6⟩,  -- PLC.MCAST.SEND
    ⟨0x0306, .s, false, false, false, 4, 5⟩,  -- PLC.STATUS
    ⟨0x0307, .s, false, false, false, 4, 5⟩,  -- PLC.NOISE.READ
    ⟨0x0401, .n, true, false, false, 32, 6⟩,  -- MSH.CONFIG
    ⟨0x0402, .n, false, false, false, 16, 6⟩,  -- MSH.SLOT.ASSIGN
    ⟨0x0403, .n, false, true, true, 24, 6⟩,  -- MSH.SEND
    ⟨0x0404, .n, true, true, true, 16, 6⟩,  -- MSH.FLOOD
    ⟨0x0405, .n, true, false, false, 8, 6⟩,  -- MSH.BEACON.SET
    ⟨0x0406, .s, false, false, false, 4, 5⟩,  -- MSH.STATUS
    ⟨0x0407, .n, false, false, false, 16, 6⟩,  -- MSH.NIGHTSLOT.SET
    ⟨0x0501, .n, false, false, false, 16, 6⟩,  -- KEY.LOAD
    ⟨0x0502, .n, false, false, false, 16, 6⟩,  -- KEY.UPDATE
    ⟨0x0503, .v, false, false, false, 8, 6⟩,  -- KEY.INVALIDATE
    ⟨0x0504, .n, false, false, false, 48, 6⟩,  -- KEY.DERIVE
    ⟨0x0505, .s, true, false, false, 8, 4⟩,  -- KEY.ATTEST
    ⟨0x0506, .n, true, false, false, 8, 6⟩,  -- KEY.LIFECYCLE.ADVANCE
    ⟨0x0507, .s, false, false, false, 8, 4⟩,  -- KEY.STATUS
    ⟨0x0601, .n, true, false, false, 16, 6⟩,  -- ARC.NS.CREATE
    ⟨0x0602, .n, true, false, true, 8, 6⟩,  -- ARC.NS.DELETE
    ⟨0x0603, .s, false, false, true, 40, 6⟩,  -- ARC.QUERY
    ⟨0x0604, .s, false, false, true, 24, 6⟩,  -- ARC.EXPORT
    ⟨0x0605, .v, true, false, true, 8, 6⟩,  -- ARC.DRIVE.ADD
    ⟨0x0606, .v, true, false, true, 4, 6⟩,  -- ARC.DRIVE.REMOVE
    ⟨0x0607, .s, false, false, false, 4, 6⟩,  -- ARC.STATUS
    ⟨0x0608, .n, true, false, false, 4, 6⟩,  -- ARC.SEAL
    ⟨0x0701, .n, true, false, true, 8, 6⟩,  -- LOS.TOPO.LOAD
    ⟨0x0702, .n, true, false, false, 32, 6⟩,  -- LOS.CONFIG
    ⟨0x0703, .s, false, false, false, 16, 6⟩,  -- LOS.RESULT.READ
    ⟨0x0704, .s, false, false, false, 8, 6⟩,  -- LOS.PHASE.READ
    ⟨0x0705, .s, false, false, false, 8, 6⟩,  -- LOS.HIST.READ
    ⟨0x0801, .n, true, false, false, 8, 6⟩,  -- MET.CAL.STORE
    ⟨0x0802, .s, false, false, false, 4, 2⟩,  -- MET.READ
    ⟨0x0803, .s, false, false, false, 8, 2⟩,  -- MET.SEAL.READ
    ⟨0x0804, .s, true, false, false, 8, 2⟩,  -- MET.AUDIT.READ
    ⟨0x0805, .n, true, false, false, 8, 6⟩,  -- MET.CONFIG
    ⟨0x0901, .n, true, false, false, 8, 6⟩,  -- BIL.CALENDAR.LOAD
    ⟨0x0902, .s, false, false, false, 16, 6⟩,  -- BIL.REGS.READ
    ⟨0x0903, .n, false, true, true, 16, 6⟩,  -- BIL.CREDIT.PUSH
    ⟨0x0904, .n, true, true, true, 24, 6⟩,  -- BIL.CAMPAIGN.START
    ⟨0x0905, .v, true, false, true, 32, 6⟩,  -- BIL.REGS.RESTORE
    ⟨0x0906, .s, false, false, false, 8, 6⟩,  -- BIL.LEDGER.READ
    ⟨0x0907, .v, true, false, false, 4, 6⟩,  -- BIL.CAMPAIGN.ABORT
    ⟨0x0A01, .s, false, false, false, 0, 5⟩,  -- TIM.READ
    ⟨0x0A02, .n, true, false, false, 16, 6⟩,  -- TIM.STEP
    ⟨0x0A03, .n, true, false, false, 4, 6⟩,  -- TIM.SOURCE.SET
    ⟨0x0A05, .s, false, false, false, 0, 5⟩,  -- TIM.STATUS
    ⟨0x0B01, .n, true, false, true, 16, 6⟩,  -- UPD.DOWNLOAD
    ⟨0x0B02, .n, true, false, true, 4, 6⟩,  -- UPD.VERIFY
    ⟨0x0B03, .n, true, false, true, 16, 6⟩,  -- UPD.ACTIVATE
    ⟨0x0B04, .n, true, false, false, 4, 6⟩,  -- UPD.CONFIRM
    ⟨0x0B05, .v, true, false, true, 4, 6⟩,  -- UPD.ROLLBACK
    ⟨0x0B06, .n, true, true, true, 32, 6⟩,  -- UPD.CAMPAIGN.START
    ⟨0x0B07, .s, true, false, false, 4, 3⟩,  -- UPD.STATUS
    ⟨0x0B08, .v, true, false, false, 4, 6⟩,  -- UPD.CAMPAIGN.ABORT
    ⟨0x0C01, .s, true, false, false, 0, 5⟩,  -- PAR.STATUS
    ⟨0x0C02, .p, true, false, false, 16, 6⟩,  -- PAR.ROLE.SET
    ⟨0x0C03, .p, true, false, false, 4, 6⟩,  -- PAR.CLAIM
    ⟨0x0C04, .p, true, false, false, 4, 6⟩,  -- PAR.RELEASE
    ⟨0x0C05, .s, true, false, false, 8, 5⟩,  -- PAR.DIGEST.READ
    ⟨0x0C06, .p, true, false, true, 4, 6⟩,  -- PAR.SELFTEST
    ⟨0x0D01, .s, false, false, false, 12, 2⟩,  -- EVR.READ
    ⟨0x0D02, .n, true, false, false, 8, 6⟩,  -- EVR.CLEAR
    ⟨0x0D03, .n, true, false, false, 8, 6⟩,  -- EVR.CONFIG
    ⟨0x0E01, .n, true, false, false, 4, 6⟩,  -- PWR.DOMAIN.SET
    ⟨0x0E02, .s, true, false, false, 0, 2⟩,  -- PWR.STATUS
    ⟨0x0E03, .v, true, false, true, 8, 6⟩   -- PWR.SHUTDOWN
  ]

/-- The row of an opcode (R80). -/
def opInfo (op : Nat) : Option OpInfo := opIndex.find? (fun r => r.op == op)

/-- Does a command's state word name its target instance (R58, R60): an opcode for the instance named, or one of VIN's? -/
def echoBound (op : Nat) : Bool := match opInfo op with | some i => !i.manager || op / 256 == 1 | none => false

/-- Is a command a transmitting one (R71)? -/
def transmits (op : Nat) : Bool := op == 0x0303 || op == 0x0305 || op == 0x0403 || op == 0x0404

/-- Does the command call for data through DPTR (R616)? `p` holds the parameter bytes. -/
def needsData (op : Nat) (p : Bytes) : Bool :=
  let op0 := byteAt p 0
  match op with
  | 0x0001 | 0x0008 | 0x0105 | 0x0202 | 0x0206 | 0x0306 | 0x0406 | 0x0504 | 0x0505 | 0x0506 | 0x0603 | 0x0604 | 0x0607 | 0x0701 | 0x0703
  | 0x0704 | 0x0705 | 0x0802 | 0x0803 | 0x0804 | 0x0901 | 0x0902 | 0x0904 | 0x0906 | 0x0A05 | 0x0B06 | 0x0B07 | 0x0C01 | 0x0C05 | 0x0D01
  | 0x0E02 => true
  | 0x0203 => !(byteAt p 3 % 8 == 5 || byteAt p 3 % 8 == 6)
  | 0x0302 => op0 % 4 != 3
  | 0x0303 | 0x0403 => leAt p 8 2 != 0
  | 0x0304 => byteAt p 3 % 4 == 0
  | 0x0305 | 0x0404 => leAt p 14 2 != 0
  | 0x0307 => op0 % 16 != 0
  | 0x0405 => byteAt p 5 % 128 != 0
  | 0x0501 => byteAt p 8 % 8 == 1 || byteAt p 8 % 8 == 2
  | 0x0502 => byteAt p 8 % 8 == 0 || byteAt p 8 % 8 == 1
  | 0x0801 => op0 % 4 != 1
  | 0x0905 => op0 % 4 == 1 || op0 % 4 == 3
  | 0x0B01 => op0 % 4 == 0 && leAt p 8 4 != 0
  | _ => false

/-- The bytes a command reads from host memory, as its parameter table states or its opcode fixes (R58, R616). `blank` is the life-cycle
state BLANK. A command that moves no data into the part reads 0. -/
def dataIn (op : Nat) (blank : Bool) (dptr : Nat) (p : Bytes) : Nat :=
  let op0 := byteAt p 0 % 4
  match op with
  | 0x0008 => 5649
  | 0x0203 => [8, 4, 24, 8, 120, 0, 0, 128].getD (byteAt p 3 % 8) 0
  | 0x0302 => if op0 = 0 then 384 else 0
  | 0x0303 | 0x0403 => leAt p 8 2
  | 0x0304 => if byteAt p 3 % 4 = 0 then 9 * (byteAt p 5 % 8) + 1 else 0
  | 0x0305 | 0x0404 => leAt p 14 2
  | 0x0401 => if dptr = 0 then 0 else 256 * 2 ^ (byteAt p 10 % 8)
  | 0x0405 => byteAt p 5 % 128
  | 0x0501 => if byteAt p 8 % 8 = 1 then 56 else if byteAt p 8 % 8 = 2 then 32 else 0
  | 0x0502 => if byteAt p 8 % 8 = 0 then 56 else if byteAt p 8 % 8 = 1 then 32 else 0
  | 0x0506 => if blank then 48 else 5649
  | 0x0701 => 32 * (leAt p 0 4 % 2 ^ 17)
  | 0x0801 => if op0 = 0 then 256 else if op0 = 2 then 5649 else 0
  | 0x0901 => 4096
  | 0x0904 => 4 * (leAt p 16 4 % 2 ^ 19)
  | 0x0905 => if op0 = 1 then 320 * leAt p 4 4 else if op0 = 3 then 5649 else 0
  | 0x0B01 => if op0 = 0 then leAt p 8 4 else 0
  | 0x0B06 => if byteAt p 0 / 2 % 4 = 0 then leAt p 16 4 else if byteAt p 0 / 2 % 4 = 1 then 4 * leAt p 16 4 else 0
  | _ => 0

/-- Do the lengths stated in parameters lie in their ranges (check 2 of R65, R616)? -/
def lengthsOk (op : Nat) (dlist : Bool) (p : Bytes) : Bool :=
  let most := if dlist then 2 ^ 21 else 2 ^ 24
  match op with
  | 0x0405 => decide (byteAt p 5 % 128 ≤ 64)
  | 0x0603 => decide (128 ≤ leAt p 36 4 ∧ leAt p 36 4 ≤ most)
  | 0x0604 => decide (128 ≤ leAt p 12 4 ∧ leAt p 12 4 ≤ most)
  | 0x0B01 => byteAt p 0 % 4 != 0 || decide (leAt p 8 4 ≤ most)
  | 0x0B06 => byteAt p 0 / 2 % 4 != 0 || decide (leAt p 16 4 ≤ min 4194304 most)
  | _ => true

/-- Is a number in a range? -/
def between (lo hi x : Nat) : Bool := decide (lo ≤ x ∧ x ≤ hi)

/-- MICLEN of a send: 1 or 2 with SEC, else 0. -/
def micOk (sec : Bool) (miclen : Nat) : Bool := if sec then miclen == 1 || miclen == 2 else miclen == 0

/-- A record time-stamp that is not malformed (R4). -/
def stampOk (t : Nat) : Bool := between 0 999999999 (t % 2 ^ 30)

/-- The I/G bit of an EUI-64: bit 0 of octet 0 (R615). -/
def groupBit (eui : Nat) : Bool := bitAt eui 0

/-- Are the parameter values in range, independent of state (check 5 of R65)? Only the fields of each table are looked at. -/
def paramsOk (op : Nat) (p : Bytes) : Bool :=
  let b := fun k => byteAt p k
  let w := fun k n => leAt p k n
  match op with
  | 0x0003 => b 0 == 1 || b 0 == 2
  | 0x0004 => w 0 4 == 0x0000A5C3
  | 0x0101 | 0x0104 =>
    between 0 2097152 (w 0 4 % 2 ^ 22) && between 0 2097152 (w 4 4 % 2 ^ 22) && between 0 1024 (w 8 2 % 2 ^ 11)
      && between 0 4096 (w 12 2 % 2 ^ 13)
  | 0x0106 => w 0 4 == 0x0000DE57
  | 0x0201 => w 18 2 != 0xFFFF && w 24 4 != 0 && w 28 4 != 0 && !bitAt (b 12) 0 && !bitAt (b 12) 7
  | 0x0202 => between 1 16 (b 4 % 32) && decide (b 3 % 16 + b 4 % 32 ≤ 16)
  | 0x0206 => b 3 % 4 != 3
  | 0x0301 =>
    !groupBit (w 0 8) && w 8 2 != 0xFFFF && between 1 100 (b 15) && between 256 16384 (w 18 2) && between 1 100 (b 20)
      && between 1 6000 (w 22 2)
  | 0x0303 => b 4 % 8 != 6 && b 4 % 8 != 7 && b 5 % 4 != 3 && micOk (bitAt (b 3) 1) (b 10 % 4)
      && (!bitAt (b 3) 2 || stampOk (w 12 8))
  | 0x0304 => b 3 % 4 != 0 || between 0 5 (b 5 % 8)
  | 0x0305 =>
    groupBit (w 0 8) && between 0 5 (b 8 % 8) && between 1 15 (b 9 % 16) && between 1 8 (b 10 % 16) && b 11 != 0
      && micOk (bitAt (b 13) 0) (b 13 / 2 % 4)
  | 0x0401 =>
    !groupBit (w 0 8) && w 8 2 != 0xFFFF && b 10 % 8 != 7 && between 8 64 (b 11) && between 100 10000 (w 14 2) && groupBit (w 16 8)
      && w 28 4 != 0xFFFFFFFF
  | 0x0402 =>
    let kind := b 3 / 4 % 4
    match b 3 % 4 with
    | 0 => kind != 3 && between 0 12 (b 7 % 16) && decide (w 10 2 % 4096 < 2 ^ (b 7 % 16)) && (kind == 2 || between 1 64 (b 12 % 128))
    | 3 => false
    | _ => true
  | 0x0403 => micOk (bitAt (b 3) 1) (b 7 % 4) && (b 4 % 4 != 3 || stampOk (w 12 8))
  | 0x0404 => groupBit (w 0 8) && b 8 % 16 != 0 && b 9 % 16 != 0 && between 1 4 (b 10 % 8) && between 1 2 (b 12 % 4)
  | 0x0407 => bitAt (b 3) 0 || (between 0 12 (b 7 % 16) && decide (w 10 2 % 4096 < 2 ^ (b 7 % 16)) && b 12 != 0)
  | 0x0501 => b 0 % 8 != 7 && between 0 4 (b 8 % 8) && (b 8 % 8 != 4 || w 12 4 == 0x00005E7D)
  | 0x0502 => b 0 % 8 != 7 && between 0 2 (b 8 % 8)
  | 0x0503 | 0x0507 => b 0 % 8 != 7
  | 0x0506 => w 4 4 == 0x000011FE
  | 0x0601 => b 0 != 0 && b 3 % 4 != 3 && !(bitAt (b 3) 2 && bitAt (b 3) 3) && b 3 / 16 % 4 != 3
  | 0x0602 => b 0 != 0 && (bitAt (b 1) 0 || w 4 4 == 0x0000D3E1)
  | 0x0605 => b 2 % 4 != 3 && (b 2 % 4 != 2 || w 4 4 == 0x00004E17)
  | 0x0701 => between 1 65536 (w 0 4 % 2 ^ 17)
  | 0x0702 =>
    let s := w 0 2
    (s == 300 || s == 600 || s == 900 || s == 1200 || s == 1800 || s == 3600) && decide (w 4 4 ≤ 62 * s) && between 0 1000 (w 8 2)
      && between 1 8 (b 10 % 16) && between 1 (b 10 % 16) (b 10 / 16) && w 20 2 != 0 && between 96 4095 (w 22 2 % 4096)
  | 0x0703 => decide (w 0 2 ≤ w 2 2 ∧ w 2 2 ≤ w 0 2 + 16383)
  | 0x0704 => between 1 16384 (w 4 2)
  | 0x0705 => decide (w 0 2 ≤ w 2 2 ∧ w 2 2 ≤ w 0 2 + 4095)
  | 0x0801 => b 0 % 4 != 3 && (b 0 % 4 != 1 || w 4 4 == 0x00005EA1)
  | 0x0802 => between 0 2 (b 0)
  | 0x0804 => between 1 4096 (w 4 2)
  | 0x0805 => between 5 90 (b 1)
  | 0x0902 => if bitAt (b 3) 0 then between 1 16 (w 4 4) else between 1 4096 (w 4 4)
  | 0x0904 =>
    groupBit (w 4 8) && between 1 4 (b 12 % 8) && between 1 8760 (w 14 2) && between 1 262144 (w 16 4 % 2 ^ 19)
  | 0x0905 => (b 0 % 4 != 1 || between 1 4096 (w 4 4)) && (b 0 % 4 != 2 || w 28 4 == 0x0000B17E)
  | 0x0906 => between 1 4096 (w 4 2)
  | 0x0A02 => if bitAt (b 0) 0 then stampOk (w 8 8) else w 8 8 != 0
  | 0x0A03 => between 0 4 (b 0 % 8)
  | 0x0B01 => b 0 % 4 != 3
  | 0x0B03 => b 0 % 4 != 2 || stampOk (w 8 8)
  | 0x0B05 => w 0 4 == 0x00002B1C
  | 0x0B06 =>
    match b 0 / 2 % 4 with
    | 0 => true
    | 1 => groupBit (w 4 8) && between 1 4 (b 12 % 8) && between 1 100 (b 13 % 128) && between 1 8760 (w 14 2) && between 1 262144 (w 16 4)
      && stampOk (w 24 8)
    | _ => false
  | 0x0B07 => between 0 2 (b 0)
  | 0x0C02 => b 0 % 4 != 3 && (b 0 % 4 != 1 || w 4 4 == 0x0000501A) && (b 0 % 4 != 2 || stampOk (w 8 8))
  | 0x0D01 => between 1 4096 (w 8 2 % 2 ^ 13)
  | 0x0D02 => w 4 4 == 0x0000C1EA
  | 0x0D03 => b 0 % 8 == 7 || (b 1 != 0 && w 2 2 != 0 && between 0 60000 (w 4 2))
  | 0x0E03 => w 4 4 == 0x0000D05E
  | _ => true

end Sys2Proof.Machine
end

