-- ==== Sys2Proof/Machine/RegMap.lean ====
section
/-! DEFINITION. The register map: every register of the 23 unit windows (R13, R14) with its access code,
reset value, writable bits and selectors, transcribed from the register tables of the chapters. -/
set_option Elab.async false
namespace Sys2Proof.Machine
/-- The access codes of R9. -/
inductive Access where
  | rw | ro | rc | w1c | w1s | wo | rwl | wox
  deriving DecidableEq, Repr

/-- A selector of a register (R614): the field of the selecting register (offset, low bit, width) and how many
items it can name; `nested` says that the selecting register is itself one of the selected item's. -/
structure Sel where
  off : Nat
  shift : Nat
  width : Nat
  limit : Nat
  deriving DecidableEq, Repr

/-- One register of a window: its BAR0 offset, access code, reset value, implemented bits and selectors. -/
structure Row where
  off : Nat
  access : Access
  reset : Nat
  mask : Nat
  sels : List Sel
  deriving DecidableEq, Repr

/-- BAR0 offset of window `u` (R13). -/
def windowBase (u : Nat) : Nat := u * 0x10000

/-- The window index a BAR0 offset lies in (R13). -/
def windowOf (off : Nat) : Nat := off / 0x10000

namespace Reg
abbrev GLB_DEV_ID : Nat := 0x000010
abbrev GLB_DEV_REV : Nat := 0x000014
abbrev GLB_STATE : Nat := 0x000018
abbrev GLB_STATE_CAUSE : Nat := 0x00001C
abbrev GLB_STATE_ENTRY_LO : Nat := 0x000020
abbrev GLB_STATE_ENTRY_HI : Nat := 0x000024
abbrev GLB_HOLD_CAUSES : Nat := 0x000028
abbrev GLB_BOOT_CTRL : Nat := 0x00002C
abbrev GLB_HEALTH : Nat := 0x000030
abbrev CMD_QSEL : Nat := 0x020010
abbrev CMD_SQ_BASE_LO : Nat := 0x020014
abbrev CMD_SQ_BASE_HI : Nat := 0x020018
abbrev CMD_CQ_BASE_LO : Nat := 0x02001C
abbrev CMD_CQ_BASE_HI : Nat := 0x020020
abbrev CMD_QSIZE : Nat := 0x020024
abbrev CMD_QCTRL : Nat := 0x020028
abbrev CMD_QSTAT : Nat := 0x02002C
abbrev CMD_QPTR : Nat := 0x020030
abbrev CMD_QSEL_INVALID : Nat := 0x020034
abbrev CMD_DOORBELL_DROP : Nat := 0x020038
abbrev CMD_LANE_STATUS : Nat := 0x020040
abbrev CMD_LANE_MISCOMPARE0 : Nat := 0x020044
abbrev CMD_LANE_MISCOMPARE1 : Nat := 0x020048
abbrev CMD_LANE_MISCOMPARE2 : Nat := 0x02004C
abbrev CMD_LANE_CTRL : Nat := 0x020050
abbrev CMD_NC_COUNT_LO : Nat := 0x020054
abbrev CMD_NC_COUNT_HI : Nat := 0x020058
abbrev CMD_DISPATCH_COUNT : Nat := 0x02005C
abbrev CMD_CONFLICT_COUNT : Nat := 0x020060
abbrev CMD_FAULT_COUNT : Nat := 0x020064
abbrev CMD_QUEUED_OUTSTANDING : Nat := 0x020068
abbrev HBR_LINK_STATUS : Nat := 0x010010
abbrev HBR_LINK_EVENTS : Nat := 0x010014
abbrev HBR_EVENT_VEC : Nat := 0x010018
abbrev HBR_DMA_CTRL : Nat := 0x01001C
abbrev HBR_BACKOFF_CTRL : Nat := 0x010020
abbrev HBR_BACKOFF_COUNT : Nat := 0x010024
abbrev HBR_CPL_TIMEOUT_COUNT : Nat := 0x010028
abbrev HBR_CPL_ERROR_COUNT : Nat := 0x01002C
abbrev HBR_PARTIAL_DROP : Nat := 0x010030
abbrev HBR_BOUNDARY_DROP : Nat := 0x010034
abbrev HBR_BAR4_WIN : Nat := 0x010038
abbrev HBR_BAR4_WRITE_DROP : Nat := 0x01003C
abbrev HBR_VECTOR_MISMATCH : Nat := 0x010040
abbrev HBR_HELD_CTRL : Nat := 0x010044
abbrev HBR_HELD_FILL : Nat := 0x010048
abbrev HBR_HELD_LOST : Nat := 0x01004C
abbrev HBR_HELD_FIRST_LOST_LO : Nat := 0x010050
abbrev HBR_HELD_FIRST_LOST_HI : Nat := 0x010054
abbrev HBR_ABSENT_SINCE_LO : Nat := 0x010058
abbrev HBR_ABSENT_SINCE_HI : Nat := 0x01005C
abbrev HBR_NSEQ_LO : Nat := 0x010060
abbrev HBR_NSEQ_HI : Nat := 0x010064
abbrev HBR_SEAM_READS : Nat := 0x010068
abbrev HBR_NRSEL : Nat := 0x010080
abbrev HBR_NR_BASE_LO : Nat := 0x010084
abbrev HBR_NR_BASE_HI : Nat := 0x010088
abbrev HBR_NR_SIZE : Nat := 0x01008C
abbrev HBR_NR_CTRL : Nat := 0x010090
abbrev HBR_NR_STATUS : Nat := 0x010094
abbrev HBR_NR_PTR : Nat := 0x010098
abbrev PLC_CTRL : Nat := 0x040010
abbrev PLC_BAND : Nat := 0x040014
abbrev PLC_BANDC_LBT : Nat := 0x040018
abbrev PLC_BANDC_LIMIT : Nat := 0x04001C
abbrev PLC_LINE_REF_L1 : Nat := 0x040020
abbrev PLC_LINE_REF_L2 : Nat := 0x040024
abbrev PLC_LINE_REF_L3 : Nat := 0x040028
abbrev PLC_LINE_REF_N : Nat := 0x04002C
abbrev PLC_TX_ATT : Nat := 0x040030
abbrev PLC_MASK_SEL : Nat := 0x040034
abbrev PLC_MASK_DATA : Nat := 0x040038
abbrev PLC_TMAP_POOL : Nat := 0x040040
abbrev PLC_ZC_CFG : Nat := 0x040050
abbrev PLC_ZC_STATUS : Nat := 0x040054
abbrev PLC_ZC_PERIOD : Nat := 0x040058
abbrev PLC_ZC_LAST_LO : Nat := 0x04005C
abbrev PLC_ZC_LAST_HI : Nat := 0x040060
abbrev PLC_ZC_SKEW : Nat := 0x040064
abbrev PLC_STATUS : Nat := 0x040070
abbrev PLC_COMB_CFG : Nat := 0x040074
abbrev PLC_NOISE_CTRL : Nat := 0x040078
abbrev PLC_NOISE_SEL : Nat := 0x04007C
abbrev PLC_NOISE_DATA : Nat := 0x040080
abbrev PLC_PREAMBLE_COUNT : Nat := 0x040090
abbrev PLC_PHR_FAIL : Nat := 0x040094
abbrev PLC_CW_OK : Nat := 0x040098
abbrev PLC_CW_FAIL : Nat := 0x04009C
abbrev PLC_COMBINED : Nat := 0x0400A0
abbrev PLC_CONCURRENT : Nat := 0x0400A4
abbrev PLC_RX_ABORT_TX : Nat := 0x0400A8
abbrev PLC_TX_FRAMES : Nat := 0x0400AC
abbrev PLC_TX_TRUNC : Nat := 0x0400B0
abbrev PLC_TX_REFUSED : Nat := 0x0400B4
abbrev PLC_BANDC_DEFER : Nat := 0x0400B8
abbrev PLC_SEAM_UNDERRUN : Nat := 0x0400BC
abbrev PLC_TMAP_UNKNOWN : Nat := 0x0400C0
abbrev RFX_PSEL : Nat := 0x050010
abbrev RFX_PORT_CTRL : Nat := 0x050014
abbrev RFX_CENTER_KHZ : Nat := 0x050018
abbrev RFX_RX_TX_DELAY : Nat := 0x05001C
abbrev RFX_RX_GAIN_REF : Nat := 0x050020
abbrev RFX_AGC_CFG : Nat := 0x050024
abbrev RFX_GAIN_STATUS : Nat := 0x050028
abbrev RFX_SAMPLE_STATUS : Nat := 0x05002C
abbrev RFX_TX_ATT : Nat := 0x050030
abbrev RFX_SYNC_CFG : Nat := 0x050034
abbrev RFX_PREAMBLE : Nat := 0x050038
abbrev RFX_JAM_CFG : Nat := 0x05003C
abbrev RFX_DEMOD_POOL : Nat := 0x050040
abbrev RFX_DEMOD_BUSY : Nat := 0x050044
abbrev RFX_DEMOD_PEAK : Nat := 0x050048
abbrev RFX_DC_SEL : Nat := 0x050050
abbrev RFX_DC_RANGE : Nat := 0x050054
abbrev RFX_DC_LIMIT : Nat := 0x050058
abbrev RFX_DC_OFF : Nat := 0x05005C
abbrev RFX_DC_USED : Nat := 0x050060
abbrev RFX_CHSEL : Nat := 0x050070
abbrev RFX_CH_STATUS : Nat := 0x050074
abbrev RFX_CH_ONTIME : Nat := 0x050078
abbrev RFX_CH_FRAMES : Nat := 0x05007C
abbrev RFX_SYNC_DETECT : Nat := 0x050080
abbrev RFX_FRAMES_OK : Nat := 0x050084
abbrev RFX_PHR_FAIL : Nat := 0x050088
abbrev RFX_SPILL_DROP : Nat := 0x05008C
abbrev RFX_DEMOD_EXHAUSTED : Nat := 0x050090
abbrev RFX_CAPTURE_LOST : Nat := 0x050094
abbrev RFX_RX_ABORT_TX : Nat := 0x050098
abbrev RFX_FRAMING_LOSS : Nat := 0x05009C
abbrev RFX_TX_FRAMES : Nat := 0x0500A0
abbrev RFX_TX_TRUNC : Nat := 0x0500A4
abbrev RFX_TX_REFUSED : Nat := 0x0500A8
abbrev RFX_GAIN_STEPS : Nat := 0x0500AC
abbrev MSH_CTRL : Nat := 0x060010
abbrev MSH_SF_CFG : Nat := 0x060014
abbrev MSH_BEACON_CFG : Nat := 0x060018
abbrev MSH_KEY_GUARD : Nat := 0x06001C
abbrev MSH_AT_CFG : Nat := 0x060020
abbrev MSH_ASN_LO : Nat := 0x060024
abbrev MSH_ASN_HI : Nat := 0x060028
abbrev MSH_MAP_STATUS : Nat := 0x06002C
abbrev MSH_STATUS : Nat := 0x060030
abbrev MSH_BCAST_NSEQ : Nat := 0x060034
abbrev MSH_TXQ_DEPTH : Nat := 0x060038
abbrev MSH_NIGHT_COUNT : Nat := 0x06003C
abbrev MSH_ASSIGN_COUNT : Nat := 0x060040
abbrev MSH_BEACON_TX : Nat := 0x060050
abbrev MSH_BEACON_SKIPPED : Nat := 0x060054
abbrev MSH_BEACON_HEARD : Nat := 0x060058
abbrev MSH_HDR_FAIL : Nat := 0x06005C
abbrev MSH_NET_MISMATCH : Nat := 0x060060
abbrev MSH_HAUTH_MISSING : Nat := 0x060064
abbrev MSH_ACK_TX : Nat := 0x060068
abbrev MSH_ACK_LATE : Nat := 0x06006C
abbrev MSH_ACK_SKIPPED : Nat := 0x060070
abbrev MSH_NO_ACK : Nat := 0x060074
abbrev MSH_NIGHT_TX : Nat := 0x060078
abbrev MSH_GUARD_SKIP : Nat := 0x06007C
abbrev MSH_PIGGY_TX : Nat := 0x060080
abbrev MSH_FLOOD_TX : Nat := 0x060084
abbrev MSH_FLOOD_SEEN : Nat := 0x060088
abbrev MSH_FLOOD_ECHO : Nat := 0x06008C
abbrev MSH_SEEN_EVICT : Nat := 0x060090
abbrev MSH_AT_RX : Nat := 0x060094
abbrev MSH_AT_UNKNOWN : Nat := 0x060098
abbrev MSH_AT_MALFORMED : Nat := 0x06009C
abbrev FSE_CTRL : Nat := 0x070010
abbrev FSE_STATUS : Nat := 0x070014
abbrev FSE_INTAKE_LEVEL : Nat := 0x070018
abbrev FSE_ACCEPT_LO : Nat := 0x070020
abbrev FSE_ACCEPT_HI : Nat := 0x070024
abbrev FSE_DUPLICATE_LO : Nat := 0x070028
abbrev FSE_DUPLICATE_HI : Nat := 0x07002C
abbrev FSE_REPLAY_LO : Nat := 0x070030
abbrev FSE_REPLAY_HI : Nat := 0x070034
abbrev FSE_REJECT_LO : Nat := 0x070038
abbrev FSE_REJECT_HI : Nat := 0x07003C
abbrev FSE_ORPHANED_LO : Nat := 0x070040
abbrev FSE_ORPHANED_HI : Nat := 0x070044
abbrev FSE_REASON_SEL : Nat := 0x070048
abbrev FSE_REASON_COUNT : Nat := 0x07004C
abbrev FSE_CTX_MISS : Nat := 0x070050
abbrev FSE_KEY_MISS : Nat := 0x070054
abbrev FSE_MISS_WAIT : Nat := 0x070058
abbrev FSE_MAX_WAIT_NC : Nat := 0x07005C
abbrev FSE_SAME_CYCLE : Nat := 0x070060
abbrev FSE_FCS_AFTER_VERDICT : Nat := 0x070064
abbrev FSE_GEN_RECHECK : Nat := 0x070068
abbrev FSE_FENCE_SINK : Nat := 0x07006C
abbrev FSE_INTAKE_DROP : Nat := 0x070070
abbrev FSE_TX_SEALED : Nat := 0x070074
abbrev FSE_TX_SEAL_FAIL : Nat := 0x070078
abbrev FSE_LAST_REJECT : Nat := 0x07007C
abbrev FSE_LAST_REJECT_TS_LO : Nat := 0x070080
abbrev FSE_LAST_REJECT_TS_HI : Nat := 0x070084
abbrev ING_CTRL : Nat := 0x080010
abbrev ING_STATUS : Nat := 0x080014
abbrev ING_STORM_CFG : Nat := 0x080018
abbrev ING_STORM_TIME : Nat := 0x08001C
abbrev ING_ADMIT_PLC : Nat := 0x080020
abbrev ING_ADMIT_RFA : Nat := 0x080024
abbrev ING_ADMIT_RFB : Nat := 0x080028
abbrev ING_ADMIT_AT : Nat := 0x08002C
abbrev ING_BB_FILL : Nat := 0x080030
abbrev ING_BB_PEAK : Nat := 0x080034
abbrev ING_BB_PSEL : Nat := 0x080038
abbrev ING_BB_PFILL : Nat := 0x08003C
abbrev ING_CACHE_STATUS : Nat := 0x080040
abbrev ING_CKPT_CFG : Nat := 0x080044
abbrev ING_CKPT_DIRTY : Nat := 0x080048
abbrev ING_BILQ_CFG : Nat := 0x08004C
abbrev ING_BILQ_FILL : Nat := 0x080050
abbrev ING_BIL_GAP : Nat := 0x080054
abbrev ING_LOSQ_FILL : Nat := 0x080058
abbrev ING_PROF_SEL : Nat := 0x080060
abbrev ING_PROF_DATA : Nat := 0x080064
abbrev ING_HIST_OPEN : Nat := 0x080068
abbrev ING_BACKFILL_COUNT : Nat := 0x08006C
abbrev ING_FRAMES_IN : Nat := 0x080080
abbrev ING_RECORDS_OUT : Nat := 0x080084
abbrev ING_RESENDS : Nat := 0x080088
abbrev ING_STRUCT_DROP : Nat := 0x08008C
abbrev ING_FRAME_DROP : Nat := 0x080090
abbrev ING_FLAGGED : Nat := 0x080094
abbrev ING_AGGREGATED : Nat := 0x080098
abbrev ING_HIST_RECORDS : Nat := 0x08009C
abbrev ING_HIST_OVERFLOW : Nat := 0x0800A0
abbrev ING_ADMIT_DROP_PLC : Nat := 0x0800A4
abbrev ING_ADMIT_DROP_RFA : Nat := 0x0800A8
abbrev ING_ADMIT_DROP_RFB : Nat := 0x0800AC
abbrev ING_ADMIT_DROP_AT : Nat := 0x0800B0
abbrev ING_DELETED_DROP : Nat := 0x0800B4
abbrev ING_FENCE_DROP : Nat := 0x0800B8
abbrev ING_LOS_DROP : Nat := 0x0800BC
abbrev ING_BIL_REPLAYED : Nat := 0x0800C0
abbrev COD_CTRL : Nat := 0x090010
abbrev COD_CLOSE_SEL : Nat := 0x090014
abbrev COD_CLOSE_TIME : Nat := 0x090018
abbrev COD_FLUSH : Nat := 0x09001C
abbrev COD_QSEL : Nat := 0x090020
abbrev COD_QDATA : Nat := 0x090024
abbrev COD_QLIVE : Nat := 0x090028
abbrev COD_QCOMMIT : Nat := 0x09002C
abbrev COD_STATUS : Nat := 0x090030
abbrev COD_INPUT_LEVEL : Nat := 0x090034
abbrev COD_BSEQ_LO : Nat := 0x090038
abbrev COD_BSEQ_HI : Nat := 0x09003C
abbrev COD_RECORDS_LOSSLESS : Nat := 0x090040
abbrev COD_RECORDS_BOUNDED : Nat := 0x090044
abbrev COD_RAW_RECORDS : Nat := 0x090048
abbrev COD_EXACT_WORDS : Nat := 0x09004C
abbrev COD_BLOCKS_CLOSED : Nat := 0x090050
abbrev COD_CLOSE_FULL : Nat := 0x090054
abbrev COD_CLOSE_TIMER : Nat := 0x090058
abbrev COD_CLOSE_OTHER : Nat := 0x09005C
abbrev COD_CODED_BYTES_LO : Nat := 0x090060
abbrev COD_CODED_BYTES_HI : Nat := 0x090064
abbrev COD_FENCE_SINK : Nat := 0x090068
abbrev COD_STALL_NC : Nat := 0x09006C
abbrev ARC_CTRL : Nat := 0x0A0010
abbrev ARC_STATUS : Nat := 0x0A0014
abbrev ARC_MAP_CFG : Nat := 0x0A0018
abbrev ARC_HOLD_CFG : Nat := 0x0A001C
abbrev ARC_JOURNAL_CFG : Nat := 0x0A0020
abbrev ARC_REBUILD_CFG : Nat := 0x0A0024
abbrev ARC_WEAR_CFG : Nat := 0x0A0028
abbrev ARC_RESERVE : Nat := 0x0A002C
abbrev ARC_BSEQ_CEIL_LO : Nat := 0x0A0030
abbrev ARC_BSEQ_CEIL_HI : Nat := 0x0A0034
abbrev ARC_CKPT_HORIZON_LO : Nat := 0x0A0038
abbrev ARC_CKPT_HORIZON_HI : Nat := 0x0A003C
abbrev ARC_INPUT_LEVEL : Nat := 0x0A0040
abbrev ARC_HOLD_FILL : Nat := 0x0A0044
abbrev ARC_REBUILD_LEFT : Nat := 0x0A0048
abbrev ARC_NS_COUNT : Nat := 0x0A004C
abbrev ARC_DRV_SEL : Nat := 0x0A0050
abbrev ARC_DRV_STATUS : Nat := 0x0A0054
abbrev ARC_DRV_EXTENTS : Nat := 0x0A0058
abbrev ARC_DRV_FREE : Nat := 0x0A005C
abbrev ARC_DRV_LAT : Nat := 0x0A0060
abbrev ARC_DRV_MEDIA_ERR : Nat := 0x0A0064
abbrev ARC_BLOCKS_WRITTEN : Nat := 0x0A0070
abbrev ARC_COPY_WRITES : Nat := 0x0A0074
abbrev ARC_WRITE_FAIL : Nat := 0x0A0078
abbrev ARC_READ_FAIL : Nat := 0x0A007C
abbrev ARC_REPAIRED : Nat := 0x0A0080
abbrev ARC_BAD_BLOCKS : Nat := 0x0A0084
abbrev ARC_REDIRECTS : Nat := 0x0A0088
abbrev ARC_EXTENTS_SEALED : Nat := 0x0A008C
abbrev ARC_COPIES_REBUILT : Nat := 0x0A0090
abbrev ARC_JOURNAL_PAGES : Nat := 0x0A0094
abbrev ARC_DEALLOCATED : Nat := 0x0A0098
abbrev ARC_FENCE_ROLLBACK : Nat := 0x0A009C
abbrev ARC_DIGEST_FAIL : Nat := 0x0A00A0
abbrev LOS_CTRL : Nat := 0x0B0010
abbrev LOS_STATUS : Nat := 0x0B0014
abbrev LOS_NODES : Nat := 0x0B0018
abbrev LOS_BAL : Nat := 0x0B001C
abbrev LOS_TYPE_SEL : Nat := 0x0B0020
abbrev LOS_TYPE_MAP : Nat := 0x0B0024
abbrev LOS_OLDEST_LO : Nat := 0x0B0028
abbrev LOS_OLDEST_HI : Nat := 0x0B002C
abbrev LOS_FLAGGED_NODES : Nat := 0x0B0030
abbrev LOS_RECORDS_IN : Nat := 0x0B0040
abbrev LOS_ACCUMULATED : Nat := 0x0B0044
abbrev LOS_LATE : Nat := 0x0B0048
abbrev LOS_FUTURE : Nat := 0x0B004C
abbrev LOS_QUALITY_SKIP : Nat := 0x0B0050
abbrev LOS_NOT_ENERGY : Nat := 0x0B0054
abbrev LOS_NONALIGNED : Nat := 0x0B0058
abbrev LOS_NO_NODE : Nat := 0x0B005C
abbrev LOS_NO_TREE : Nat := 0x0B0060
abbrev LOS_PH_SAMPLES : Nat := 0x0B0064
abbrev LOS_PH_UNALIGNED : Nat := 0x0B0068
abbrev LOS_PH_GAP : Nat := 0x0B006C
abbrev LOS_PH_LATE : Nat := 0x0B0070
abbrev LOS_LANES_CLOSED : Nat := 0x0B0074
abbrev LOS_FLAGS_RAISED : Nat := 0x0B0078
abbrev LOS_FENCE_SINK : Nat := 0x0B007C
abbrev LOS_CLOSE_MAX_NC : Nat := 0x0B0080
abbrev MET_STATUS : Nat := 0x0C0010
abbrev MET_SEAL_COUNT : Nat := 0x0C0014
abbrev MET_CAL_GEN : Nat := 0x0C0018
abbrev MET_AUDIT_USED : Nat := 0x0C001C
abbrev MET_AUDIT_LOST : Nat := 0x0C0020
abbrev MET_SW_ID : Nat := 0x0C0024
abbrev MET_CONFIG : Nat := 0x0C0028
abbrev MET_FREQ : Nat := 0x0C002C
abbrev MET_CH_SEL : Nat := 0x0C0030
abbrev MET_CH_RMS : Nat := 0x0C0034
abbrev MET_CH_PEAK : Nat := 0x0C0038
abbrev MET_ZC_PERIOD : Nat := 0x0C003C
abbrev MET_P_L1 : Nat := 0x0C0040
abbrev MET_P_L2 : Nat := 0x0C0044
abbrev MET_P_L3 : Nat := 0x0C0048
abbrev MET_TAMPER_COVER : Nat := 0x0C0050
abbrev MET_TAMPER_TERM : Nat := 0x0C0054
abbrev MET_ZC_INVALID : Nat := 0x0C0058
abbrev MET_TIME_MARK_MISS : Nat := 0x0C005C
abbrev MET_CAL_REFUSED : Nat := 0x0C0060
abbrev MET_PULSES : Nat := 0x0C0064
abbrev BIL_STATUS : Nat := 0x0D0010
abbrev BIL_PENDING : Nat := 0x0D0014
abbrev BIL_CAL_SEL : Nat := 0x0D0018
abbrev BIL_CAL_INFO : Nat := 0x0D001C
abbrev BIL_CAL_ACT_LO : Nat := 0x0D0020
abbrev BIL_CAL_ACT_HI : Nat := 0x0D0024
abbrev BIL_BOUND : Nat := 0x0D0028
abbrev BIL_PRESENT : Nat := 0x0D002C
abbrev BIL_HELD : Nat := 0x0D0030
abbrev BIL_REPLAY_LEFT : Nat := 0x0D0034
abbrev BIL_JOURNAL_FREE : Nat := 0x0D0038
abbrev BIL_APPLIED : Nat := 0x0D0040
abbrev BIL_SHADOW_APPLIED : Nat := 0x0D0044
abbrev BIL_REPLAYED : Nat := 0x0D0048
abbrev BIL_MTAG_FAIL : Nat := 0x0D004C
abbrev BIL_MAC_FAIL : Nat := 0x0D0050
abbrev BIL_TYPE_SKIP : Nat := 0x0D0054
abbrev BIL_MISALIGNED : Nat := 0x0D0058
abbrev BIL_FUTURE_ETS : Nat := 0x0D005C
abbrev BIL_SEQ_OLD : Nat := 0x0D0060
abbrev BIL_SEQ_REPEAT : Nat := 0x0D0064
abbrev BIL_MD_LATE : Nat := 0x0D0068
abbrev BIL_CAL_STALE : Nat := 0x0D006C
abbrev BIL_TOKENS_ACCEPTED : Nat := 0x0D0070
abbrev BIL_TOKENS_ALREADY : Nat := 0x0D0074
abbrev BIL_TOKENS_REJECTED : Nat := 0x0D0078
abbrev BIL_TOKENS_HELD : Nat := 0x0D007C
abbrev BIL_LEDGER_FULL : Nat := 0x0D0080
abbrev KVT_CTRL : Nat := 0x0E0010
abbrev KVT_STATUS : Nat := 0x0E0014
abbrev KVT_CHALLENGE_LO : Nat := 0x0E0018
abbrev KVT_CHALLENGE_HI : Nat := 0x0E001C
abbrev KVT_CACHE_VALID : Nat := 0x0E0020
abbrev KVT_CACHE_PINNED : Nat := 0x0E0024
abbrev KVT_ISLAND_CACHE : Nat := 0x0E0028
abbrev KVT_SETS : Nat := 0x0E002C
abbrev KVT_INST_SEL : Nat := 0x0E0030
abbrev KVT_INST_NGEN : Nat := 0x0E0034
abbrev KVT_INST_IGEN : Nat := 0x0E0038
abbrev KVT_INST_SETS : Nat := 0x0E003C
abbrev KVT_AUTH_SEL : Nat := 0x0E0040
abbrev KVT_AUTH_ID_LO : Nat := 0x0E0044
abbrev KVT_AUTH_ID_HI : Nat := 0x0E0048
abbrev KVT_JOURNAL_CAP : Nat := 0x0E004C
abbrev KVT_TRANSPORT : Nat := 0x0E0050
abbrev KVT_UNWRAPS : Nat := 0x0E0054
abbrev KVT_UNWRAP_FAIL : Nat := 0x0E0058
abbrev KVT_ORPHANED : Nat := 0x0E005C
abbrev KVT_INVALIDATES : Nat := 0x0E0060
abbrev KVT_TAMPER_ABORTS : Nat := 0x0E0064
abbrev KVT_AUTH_OK : Nat := 0x0E0068
abbrev KVT_AUTH_FAIL : Nat := 0x0E006C
abbrev KVT_SIGNATURES : Nat := 0x0E0070
abbrev KVT_COMMITS_REDONE : Nat := 0x0E0074
abbrev KVT_MRAM_WV_RETRY : Nat := 0x0E0078
abbrev KVT_MRAM_CORRECTED : Nat := 0x0E007C
abbrev KVT_SPARE_ROWS_USED : Nat := 0x0E0080
abbrev KVT_PAGES_RETIRED : Nat := 0x0E0084
abbrev TIM_CTRL : Nat := 0x0F0010
abbrev TIM_STATUS : Nat := 0x0F0014
abbrev TIM_SNAP : Nat := 0x0F0018
abbrev TIM_SNAP_SEC_LO : Nat := 0x0F001C
abbrev TIM_SNAP_SEC_HI : Nat := 0x0F0020
abbrev TIM_SNAP_NS : Nat := 0x0F0024
abbrev TIM_SNAP_SW : Nat := 0x0F0028
abbrev TIM_RATE : Nat := 0x0F002C
abbrev TIM_OFFSET : Nat := 0x0F0030
abbrev TIM_SRC_PRIO : Nat := 0x0F0034
abbrev TIM_STEP_MIN : Nat := 0x0F0038
abbrev TIM_SERVO : Nat := 0x0F003C
abbrev TIM_QUAL : Nat := 0x0F0040
abbrev TIM_HOLD : Nat := 0x0F0044
abbrev TIM_HOLD_SECONDS : Nat := 0x0F0048
abbrev TIM_PPS_DELAY : Nat := 0x0F004C
abbrev TIM_ETH0_DELAY : Nat := 0x0F0050
abbrev TIM_ETH1_DELAY : Nat := 0x0F0054
abbrev TIM_PLC_DELAY : Nat := 0x0F0058
abbrev TIM_PTP_CFG0 : Nat := 0x0F005C
abbrev TIM_PTP_CFG1 : Nat := 0x0F0060
abbrev TIM_LQ_LEVEL : Nat := 0x0F0064
abbrev TIM_STEP_COUNT : Nat := 0x0F0068
abbrev TIM_LAST_STEP : Nat := 0x0F006C
abbrev TIM_LATE_LAUNCH : Nat := 0x0F0070
abbrev TIM_DISQUALIFY : Nat := 0x0F0074
abbrev TIM_CCNT_SLIP : Nat := 0x0F0078
abbrev TIM_SYNC_RX : Nat := 0x0F007C
abbrev UPD_CTRL : Nat := 0x100010
abbrev UPD_STATUS : Nat := 0x100014
abbrev UPD_RUN_FW_ID : Nat := 0x100018
abbrev UPD_FLOOR : Nat := 0x10001C
abbrev UPD_CONFIRM_LEFT : Nat := 0x100020
abbrev UPD_STAGE_LEN : Nat := 0x100024
abbrev UPD_STAGE_TOTAL : Nat := 0x100028
abbrev UPD_FALLBACKS : Nat := 0x10002C
abbrev UPD_RX_PORT : Nat := 0x100030
abbrev UPD_RELAY_SEL : Nat := 0x100034
abbrev UPD_RELAY_ADDR0 : Nat := 0x100038
abbrev UPD_RELAY_ADDR1 : Nat := 0x10003C
abbrev UPD_RELAY_ADDR2 : Nat := 0x100040
abbrev UPD_RELAY_ADDR3 : Nat := 0x100044
abbrev UPD_RELAY_CFG : Nat := 0x100048
abbrev UPD_RELAY_STATE : Nat := 0x10004C
abbrev UPD_RELAY_SENT : Nat := 0x100050
abbrev UPD_PRED_EUI_LO : Nat := 0x100058
abbrev UPD_PRED_EUI_HI : Nat := 0x10005C
abbrev UPD_RELAY_TX : Nat := 0x100060
abbrev UPD_RELAY_RX : Nat := 0x100064
abbrev UPD_RELAY_DROP : Nat := 0x100068
abbrev UPD_FLASH_RETRY : Nat := 0x10006C
abbrev UPD_SEGMENTS_TX : Nat := 0x100070
abbrev SVC_CTRL : Nat := 0x110010
abbrev SVC_STATUS : Nat := 0x110014
abbrev SVC_OSP_CFG : Nat := 0x110018
abbrev SVC_OSP_AMBIENT : Nat := 0x11001C
abbrev SVC_SSP_TRANSACTIONS : Nat := 0x110020
abbrev SVC_SSP_SHORT : Nat := 0x110024
abbrev SVC_SSP_PARTIAL : Nat := 0x110028
abbrev SVC_SSP_OVERRUN : Nat := 0x11002C
abbrev SVC_SSP_BAD_OP : Nat := 0x110030
abbrev SVC_OSP_FRAMES : Nat := 0x110034
abbrev SVC_OSP_FLOOD_EVENTS : Nat := 0x110038
abbrev SVC_OSP_FLOOD_DROP : Nat := 0x11003C
abbrev SVC_OSP_FRAMING_ERR : Nat := 0x110040
abbrev SVC_OSP_NAK_TX : Nat := 0x110044
abbrev SVC_PKT_CRC_FAIL : Nat := 0x110048
abbrev SVC_PKT_SILENCE_DROP : Nat := 0x11004C
abbrev SVC_PKT_REFUSED : Nat := 0x110050
abbrev SVC_RESP_DROP : Nat := 0x110054
abbrev SVC_TAP_REFUSED : Nat := 0x110058
abbrev PAR_CTRL : Nat := 0x120010
abbrev PAR_STATUS : Nat := 0x120014
abbrev PAR_HEALTH : Nat := 0x120018
abbrev PAR_PARTNER_HEALTH : Nat := 0x12001C
abbrev PAR_FATAL_MASK : Nat := 0x120020
abbrev PAR_HB_CFG : Nat := 0x120024
abbrev PAR_LOCAL_HOLD : Nat := 0x120028
abbrev PAR_DIGEST_CFG : Nat := 0x12002C
abbrev PAR_DRAIN_CFG : Nat := 0x120030
abbrev PAR_PAIR_CABLE : Nat := 0x120034
abbrev PAR_OWNED_SINCE_LO : Nat := 0x120038
abbrev PAR_OWNED_SINCE_HI : Nat := 0x12003C
abbrev PAR_PUB_FROM_LO : Nat := 0x120040
abbrev PAR_PUB_FROM_HI : Nat := 0x120044
abbrev PAR_PARTNER_EUI_LO : Nat := 0x120048
abbrev PAR_PARTNER_EUI_HI : Nat := 0x12004C
abbrev PAR_GAP_FROM_LO : Nat := 0x120050
abbrev PAR_GAP_FROM_HI : Nat := 0x120054
abbrev PAR_DIGEST_STATUS : Nat := 0x120058
abbrev PAR_HOLD_LEVEL : Nat := 0x12005C
abbrev PAR_CLAIMS : Nat := 0x120060
abbrev PAR_CLAIM_LOST : Nat := 0x120064
abbrev PAR_RELEASES : Nat := 0x120068
abbrev PAR_TAKEOVERS : Nat := 0x12006C
abbrev PAR_HB_MISSED : Nat := 0x120070
abbrev PAR_SHADOW_FRAMES : Nat := 0x120074
abbrev PAR_SHADOW_GAP : Nat := 0x120078
abbrev PAR_REPLAYED_FRAMES : Nat := 0x12007C
abbrev PAR_COUNTER_MSGS : Nat := 0x120080
abbrev PAR_ISLAND_RECS_TX : Nat := 0x120084
abbrev PAR_ISLAND_RECS_RX : Nat := 0x120088
abbrev PAR_DIGEST_MISMATCH : Nat := 0x12008C
abbrev PAR_INTERLOCK_FAULTS : Nat := 0x120090
abbrev PAR_SELFTEST_FAIL : Nat := 0x120094
abbrev FAB_CTRL : Nat := 0x130010
abbrev FAB_TSEL : Nat := 0x130014
abbrev FAB_PSEL : Nat := 0x130018
abbrev FAB_QUIET_MASK : Nat := 0x13001C
abbrev FAB_ACTIVE : Nat := 0x130020
abbrev FAB_GRANTS : Nat := 0x130024
abbrev FAB_WAIT_MAX : Nat := 0x130028
abbrev FAB_BUSY : Nat := 0x13002C
abbrev FAB_QUIET_ABORT : Nat := 0x130030
abbrev FAB_WAIT_OVER : Nat := 0x130034
abbrev VIN_INST_SEL : Nat := 0x140010
abbrev VIN_READY_MASK : Nat := 0x140014
abbrev VIN_FENCE_MASK : Nat := 0x140018
abbrev VIN_FENCE_MAX_NC : Nat := 0x14001C
abbrev VIN_SINK_COUNT : Nat := 0x140040
abbrev VIN_ENABLE_REFUSED : Nat := 0x140044
abbrev VIN_FENCE_FAULT : Nat := 0x140048
abbrev PWR_STATUS : Nat := 0x030010
abbrev PWR_RESET_CAUSE : Nat := 0x030014
abbrev PWR_DUSK_INFO : Nat := 0x030018
abbrev PWR_DUSK_COUNT : Nat := 0x03001C
abbrev PWR_OVERRUN_COUNT : Nat := 0x030020
abbrev PWR_DOM_SEL : Nat := 0x030024
abbrev PWR_DOM_STATUS : Nat := 0x030028
abbrev PWR_DOM_ON_LO : Nat := 0x03002C
abbrev PWR_DOM_ON_HI : Nat := 0x030030
abbrev PWR_STAGE_SEL : Nat := 0x030034
abbrev PWR_STAGE_TIME : Nat := 0x030038
abbrev PWR_REF_LOSS : Nat := 0x03003C
abbrev PWR_DRAM : Nat := 0x030040
abbrev PWR_DRAM_RESERVED : Nat := 0x030044
abbrev PWR_QUIET_EVENTS : Nat := 0x030048
abbrev AON_STATUS : Nat := 0x160010
abbrev AON_RTC_SEC_LO : Nat := 0x160014
abbrev AON_RTC_SEC_HI : Nat := 0x160018
abbrev AON_RTC_FRAC : Nat := 0x16001C
abbrev AON_VBAT : Nat := 0x160020
abbrev AON_NIGHT_SECONDS : Nat := 0x160024
abbrev AON_NIGHT_ALARMS : Nat := 0x160028
abbrev AON_NIGHT_COUNT : Nat := 0x16002C
abbrev EVR_REC_SEL : Nat := 0x150010
abbrev EVR_STATUS : Nat := 0x150014
abbrev EVR_CURSOR : Nat := 0x150018
abbrev EVR_CTRL : Nat := 0x15001C
abbrev EVR_OLDEST : Nat := 0x150020
abbrev EVR_NEWEST : Nat := 0x150024
abbrev EVR_CFG : Nat := 0x150028
abbrev EVR_HIST_CFG : Nat := 0x15002C
abbrev EVR_LOST_TOTAL : Nat := 0x150030
abbrev EVR_COMMITS : Nat := 0x150034
end Reg

/-- Offsets of the low words of the 64-bit values of the register maps (R7). -/
def pairLows : List Nat :=
  [0x20, 0x20014, 0x2001C, 0x20054, 0x10050, 0x10058, 0x10060, 0x10084, 0x4005C, 0x60024, 0x70020, 0x70028, 0x70030, 0x70038, 0x70040, 0x70080, 0x90038, 0x90060, 0xA0030, 0xA0038, 0xB0028, 0xD0020, 0xE0018, 0xE0044, 0xF001C, 0x100058, 0x120038, 0x120040, 0x120048, 0x120050, 0x3002C, 0x160014]

namespace Reg
/-- UNIT_LOCK of a window (R14). -/
def unitLock (u : Nat) : Nat := windowBase u + 0x8
/-- LOCK_VIOLATION of a window (R14). -/
def lockViolation (u : Nat) : Nat := windowBase u + 0xC
end Reg

/-- The unit's code letters of R13, first letter in [23:16] (R15). -/
def unitCode : Nat → Nat
  | 0 => 0x474C42
  | 1 => 0x484252
  | 2 => 0x434D44
  | 3 => 0x505752
  | 4 => 0x504C43
  | 5 => 0x524658
  | 6 => 0x4D5348
  | 7 => 0x465345
  | 8 => 0x494E47
  | 9 => 0x434F44
  | 10 => 0x415243
  | 11 => 0x4C4F53
  | 12 => 0x4D4554
  | 13 => 0x42494C
  | 14 => 0x4B5654
  | 15 => 0x54494D
  | 16 => 0x555044
  | 17 => 0x535643
  | 18 => 0x504152
  | 19 => 0x464142
  | 20 => 0x56494E
  | 21 => 0x455652
  | 22 => 0x414F4E
  | _ => 0

/-- The header rows common to every window (R14); UNIT_ID is R15's. -/
def headerRows (u : Nat) : List Row :=
  [ ⟨windowBase u, .ro, u * 0x1000000 + unitCode u, 0xFFFFFFFF, []⟩,
    ⟨windowBase u + 0x4, .ro, 0x00010000, 0xFFFFFFFF, []⟩,
    ⟨windowBase u + 0x8, .w1s, 0, 0x1, []⟩,
    ⟨windowBase u + 0xC, .rc, 0, 0xFFFFFFFF, []⟩ ]

/-- Register rows of GLB. -/
def rowsGlb : List Row :=
  [ ⟨0x10, .ro, 0x19600, 0xFFFFFFFF, []⟩,
    ⟨0x14, .ro, 0x101, 0xFFFFFFFF, []⟩,
    ⟨0x18, .ro, 0x0, 0xFFFFFFFF, []⟩,
    ⟨0x1C, .ro, 0x1, 0xFFFFFFFF, []⟩,
    ⟨0x20, .ro, 0x0, 0xFFFFFFFF, []⟩,
    ⟨0x24, .ro, 0x0, 0xFFFFFFFF, []⟩,
    ⟨0x28, .ro, 0x0, 0xFFFFFFFF, []⟩,
    ⟨0x2C, .rwl, 0x0, 0x1, []⟩,
    ⟨0x30, .ro, 0x0, 0xFFFFFFFF, []⟩ ]

/-- Register rows of HBR. -/
def rowsHbr : List Row :=
  [ ⟨0x10010, .ro, 0x20000, 0xFFFFFFFF, []⟩,
    ⟨0x10014, .w1c, 0x0, 0xFF, []⟩,
    ⟨0x10018, .rw, 0x0, 0x103FF, []⟩,
    ⟨0x1001C, .rwl, 0x3000003, 0x3FF0003, []⟩,
    ⟨0x10020, .rwl, 0x807D0, 0xFFFFF, []⟩,
    ⟨0x10024, .rc, 0x0, 0xFFFFFFFF, []⟩,
    ⟨0x10028, .rc, 0x0, 0xFFFFFFFF, []⟩,
    ⟨0x1002C, .rc, 0x0, 0xFFFFFFFF, []⟩,
    ⟨0x10030, .rc, 0x0, 0xFFFFFFFF, []⟩,
    ⟨0x10034, .rc, 0x0, 0xFFFFFFFF, []⟩,
    ⟨0x10038, .rw, 0x0, 0x7F, []⟩,
    ⟨0x1003C, .rc, 0x0, 0xFFFFFFFF, []⟩,
    ⟨0x10040, .rc, 0x0, 0xFFFFFFFF, []⟩,
    ⟨0x10044, .rwl, 0x4, 0x3F, []⟩,
    ⟨0x10048, .ro, 0x0, 0xFFFFFFFF, []⟩,
    ⟨0x1004C, .rc, 0x0, 0xFFFFFFFF, []⟩,
    ⟨0x10050, .ro, 0x0, 0xFFFFFFFF, []⟩,
    ⟨0x10054, .ro, 0x0, 0xFFFFFFFF, []⟩,
    ⟨0x10058, .ro, 0x0, 0xFFFFFFFF, []⟩,
    ⟨0x1005C, .ro, 0x0, 0xFFFFFFFF, []⟩,
    ⟨0x10060, .ro, 0x0, 0xFFFFFFFF, []⟩,
    ⟨0x10064, .ro, 0x0, 0xFFFFFFFF, []⟩,
    ⟨0x10068, .ro, 0x0, 0xFFFFFFFF, []⟩,
    ⟨0x10080, .rw, 0x0, 0x1F, []⟩,
    ⟨0x10084, .rw, 0x0, 0xFFFFFFFF, [⟨0x10080, 0, 5, 17⟩]⟩,
    ⟨0x10088, .rw, 0x0, 0xFFFFFFFF, [⟨0x10080, 0, 5, 17⟩]⟩,
    ⟨0x1008C, .rw, 0x0, 0x3FF000F, [⟨0x10080, 0, 5, 17⟩]⟩,
    ⟨0x10090, .rw, 0x0, 0xFFFFFF01, [⟨0x10080, 0, 5, 17⟩]⟩,
    ⟨0x10094, .ro, 0x0, 0xFFFFFFFF, [⟨0x10080, 0, 5, 17⟩]⟩,
    ⟨0x10098, .ro, 0x0, 0xFFFFFFFF, [⟨0x10080, 0, 5, 17⟩]⟩ ]

/-- Register rows of CMD (R82). DESIGN CHOICE (log entry 94): bits that the map does not name (QCTRL [7:1], LANE_CTRL [3:2]) read 0, as
Reserved bits do. -/
def rowsCmd : List Row :=
  [ ⟨0x20010, .rw, 0x0, 0x1FF, []⟩,
    ⟨0x20014, .rw, 0x0, 0xFFFFFFFF, [⟨0x20010, 0, 9, 257⟩]⟩,
    ⟨0x20018, .rw, 0x0, 0xFFFFFFFF, [⟨0x20010, 0, 9, 257⟩]⟩,
    ⟨0x2001C, .rw, 0x0, 0xFFFFFFFF, [⟨0x20010, 0, 9, 257⟩]⟩,
    ⟨0x20020, .rw, 0x0, 0xFFFFFFFF, [⟨0x20010, 0, 9, 257⟩]⟩,
    ⟨0x20024, .rw, 0x0, 0x7FFFF, [⟨0x20010, 0, 9, 257⟩]⟩,
    ⟨0x20028, .rw, 0x0, 0xFFFFFF01, [⟨0x20010, 0, 9, 257⟩]⟩,
    ⟨0x2002C, .ro, 0x2, 0xFFFFFFFF, [⟨0x20010, 0, 9, 257⟩]⟩,
    ⟨0x20030, .ro, 0x0, 0xFFFFFFFF, [⟨0x20010, 0, 9, 257⟩]⟩,
    ⟨0x20034, .rc, 0x0, 0xFFFFFFFF, []⟩,
    ⟨0x20038, .rc, 0x0, 0xFFFFFFFF, []⟩,
    ⟨0x20040, .ro, 0x7, 0xFFFFFFFF, []⟩,
    ⟨0x20044, .rc, 0x0, 0xFFFFFFFF, []⟩,
    ⟨0x20048, .rc, 0x0, 0xFFFFFFFF, []⟩,
    ⟨0x2004C, .rc, 0x0, 0xFFFFFFFF, []⟩,
    ⟨0x20050, .rwl, 0x43, 0xF3, []⟩,
    ⟨0x20054, .ro, 0x0, 0xFFFFFFFF, []⟩,
    ⟨0x20058, .ro, 0x0, 0xFFFFFFFF, []⟩,
    ⟨0x2005C, .rc, 0x0, 0xFFFFFFFF, []⟩,
    ⟨0x20060, .rc, 0x0, 0xFFFFFFFF, []⟩,
    ⟨0x20064, .rc, 0x0, 0xFFFFFFFF, []⟩,
    ⟨0x20068, .ro, 0x0, 0xFFFFFFFF, []⟩ ]

/-- Register rows of PWR. -/
def rowsPwr : List Row :=
  [ ⟨0x30010, .ro, 0xF8, 0xFFFFFFFF, []⟩,
    ⟨0x30014, .ro, 0x0, 0xFFFFFFFF, []⟩,
    ⟨0x30018, .ro, 0x0, 0xFFFFFFFF, []⟩,
    ⟨0x3001C, .ro, 0x0, 0xFFFFFFFF, []⟩,
    ⟨0x30020, .ro, 0x0, 0xFFFFFFFF, []⟩,
    ⟨0x30024, .rw, 0x0, 0x3F, []⟩,
    ⟨0x30028, .ro, 0x0, 0xFFFFFFFF, [⟨0x30024, 0, 6, 64⟩]⟩,
    ⟨0x3002C, .ro, 0x0, 0xFFFFFFFF, []⟩,
    ⟨0x30030, .ro, 0x0, 0xFFFFFFFF, []⟩,
    ⟨0x30034, .rw, 0x0, 0x7, []⟩,
    ⟨0x30038, .ro, 0x0, 0xFFFFFFFF, [⟨0x30034, 0, 3, 8⟩]⟩,
    ⟨0x3003C, .rc, 0x0, 0xFFFFFFFF, []⟩,
    ⟨0x30040, .ro, 0x0, 0xFFFFFFFF, []⟩,
    ⟨0x30044, .ro, 0x0, 0xFFFFFFFF, []⟩,
    ⟨0x30048, .rc, 0x0, 0xFFFFFFFF, []⟩ ]

/-- Register rows of PLC. -/
def rowsPlc : List Row :=
  [ ⟨0x40010, .rwl, 0x3110, 0xFFF3, []⟩,
    ⟨0x40014, .rwl, 0x0, 0x3FFFFF, []⟩,
    ⟨0x40018, .rwl, 0x1E550456, 0xFFFFFFFF, []⟩,
    ⟨0x4001C, .rwl, 0x7D03E8, 0xFFFFFFFF, []⟩,
    ⟨0x40020, .rwl, 0x868C, 0xFFFF, []⟩,
    ⟨0x40024, .rwl, 0x868C, 0xFFFF, []⟩,
    ⟨0x40028, .rwl, 0x868C, 0xFFFF, []⟩,
    ⟨0x4002C, .rwl, 0x868C, 0xFFFF, []⟩,
    ⟨0x40030, .rw, 0x0, 0x3F, []⟩,
    ⟨0x40034, .rw, 0x0, 0x7F, []⟩,
    ⟨0x40038, .rwl, 0x0, 0x3F, [⟨0x40034, 0, 7, 80⟩]⟩,
    ⟨0x40040, .rwl, 0x10000, 0x1FFFFF, []⟩,
    ⟨0x40050, .rwl, 0x10300, 0x1FF03, []⟩,
    ⟨0x40054, .ro, 0x0, 0xFFFFFFFF, []⟩,
    ⟨0x40058, .ro, 0x0, 0xFFFFFFFF, []⟩,
    ⟨0x4005C, .ro, 0x0, 0xFFFFFFFF, []⟩,
    ⟨0x40060, .ro, 0x0, 0xFFFFFFFF, []⟩,
    ⟨0x40064, .ro, 0x0, 0xFFFFFFFF, []⟩,
    ⟨0x40070, .ro, 0x0, 0xFFFFFFFF, []⟩,
    ⟨0x40074, .rw, 0x314, 0x3FF, []⟩,
    ⟨0x40078, .rw, 0xC08, 0x1FF0F, []⟩,
    ⟨0x4007C, .rw, 0x0, 0x7FF3, []⟩,
    ⟨0x40080, .ro, 0x0, 0xFFFFFFFF, []⟩,
    ⟨0x40090, .rc, 0x0, 0xFFFFFFFF, []⟩,
    ⟨0x40094, .rc, 0x0, 0xFFFFFFFF, []⟩,
    ⟨0x40098, .rc, 0x0, 0xFFFFFFFF, []⟩,
    ⟨0x4009C, .rc, 0x0, 0xFFFFFFFF, []⟩,
    ⟨0x400A0, .rc, 0x0, 0xFFFFFFFF, []⟩,
    ⟨0x400A4, .rc, 0x0, 0xFFFFFFFF, []⟩,
    ⟨0x400A8, .rc, 0x0, 0xFFFFFFFF, []⟩,
    ⟨0x400AC, .rc, 0x0, 0xFFFFFFFF, []⟩,
    ⟨0x400B0, .rc, 0x0, 0xFFFFFFFF, []⟩,
    ⟨0x400B4, .rc, 0x0, 0xFFFFFFFF, []⟩,
    ⟨0x400B8, .rc, 0x0, 0xFFFFFFFF, []⟩,
    ⟨0x400BC, .rc, 0x0, 0xFFFFFFFF, []⟩,
    ⟨0x400C0, .rc, 0x0, 0xFFFFFFFF, []⟩ ]

/-- Register rows of RFX. -/
def rowsRfx : List Row :=
  [ ⟨0x50010, .rw, 0x0, 0x1, []⟩,
    ⟨0x50014, .rwl, 0x40019, 0x7FF7F, [⟨0x50010, 0, 1, 2⟩]⟩,
    ⟨0x50018, .rwl, 0x0, 0xFFFFFF, [⟨0x50010, 0, 1, 2⟩]⟩,
    ⟨0x5001C, .rwl, 0x0, 0xFFFFFFFF, [⟨0x50010, 0, 1, 2⟩]⟩,
    ⟨0x50020, .rwl, 0x661C4, 0x7F1FF, [⟨0x50010, 0, 1, 2⟩]⟩,
    ⟨0x50024, .rw, 0x6410, 0xFFFF, [⟨0x50010, 0, 1, 2⟩]⟩,
    ⟨0x50028, .ro, 0x0, 0xFFFFFFFF, [⟨0x50010, 0, 1, 2⟩]⟩,
    ⟨0x5002C, .ro, 0x0, 0xFFFFFFFF, [⟨0x50010, 0, 1, 2⟩]⟩,
    ⟨0x50030, .rw, 0x0, 0x3F, [⟨0x50010, 0, 1, 2⟩]⟩,
    ⟨0x50034, .rw, 0x8140005, 0xFFFF0007, [⟨0x50010, 0, 1, 2⟩]⟩,
    ⟨0x50038, .rw, 0x20, 0x3FF, [⟨0x50010, 0, 1, 2⟩]⟩,
    ⟨0x5003C, .rw, 0x1F4003C, 0xFFFF00FF, [⟨0x50010, 0, 1, 2⟩]⟩,
    ⟨0x50040, .rwl, 0x40400100, 0xFFFF01FF, []⟩,
    ⟨0x50044, .ro, 0x0, 0xFFFFFFFF, []⟩,
    ⟨0x50048, .rc, 0x0, 0xFFFFFFFF, []⟩,
    ⟨0x50050, .rw, 0x0, 0x7, [⟨0x50010, 0, 1, 2⟩]⟩,
    ⟨0x50054, .rwl, 0x0, 0xFFFF, [⟨0x50010, 0, 1, 2⟩, ⟨0x50050, 0, 3, 8⟩]⟩,
    ⟨0x50058, .rwl, 0x0, 0xFFFFFFFF, [⟨0x50010, 0, 1, 2⟩, ⟨0x50050, 0, 3, 8⟩]⟩,
    ⟨0x5005C, .rwl, 0x0, 0xFFFF, [⟨0x50010, 0, 1, 2⟩, ⟨0x50050, 0, 3, 8⟩]⟩,
    ⟨0x50060, .ro, 0x0, 0xFFFFFFFF, [⟨0x50010, 0, 1, 2⟩, ⟨0x50050, 0, 3, 8⟩]⟩,
    ⟨0x50070, .rw, 0x0, 0x7F, [⟨0x50010, 0, 1, 2⟩]⟩,
    ⟨0x50074, .ro, 0x0, 0xFFFFFFFF, [⟨0x50010, 0, 1, 2⟩, ⟨0x50070, 0, 7, 128⟩]⟩,
    ⟨0x50078, .ro, 0x0, 0xFFFFFFFF, [⟨0x50010, 0, 1, 2⟩, ⟨0x50070, 0, 7, 128⟩]⟩,
    ⟨0x5007C, .rc, 0x0, 0xFFFFFFFF, [⟨0x50010, 0, 1, 2⟩, ⟨0x50070, 0, 7, 128⟩]⟩,
    ⟨0x50080, .rc, 0x0, 0xFFFFFFFF, [⟨0x50010, 0, 1, 2⟩]⟩,
    ⟨0x50084, .rc, 0x0, 0xFFFFFFFF, [⟨0x50010, 0, 1, 2⟩]⟩,
    ⟨0x50088, .rc, 0x0, 0xFFFFFFFF, [⟨0x50010, 0, 1, 2⟩]⟩,
    ⟨0x5008C, .rc, 0x0, 0xFFFFFFFF, [⟨0x50010, 0, 1, 2⟩]⟩,
    ⟨0x50090, .rc, 0x0, 0xFFFFFFFF, [⟨0x50010, 0, 1, 2⟩]⟩,
    ⟨0x50094, .rc, 0x0, 0xFFFFFFFF, [⟨0x50010, 0, 1, 2⟩]⟩,
    ⟨0x50098, .rc, 0x0, 0xFFFFFFFF, [⟨0x50010, 0, 1, 2⟩]⟩,
    ⟨0x5009C, .rc, 0x0, 0xFFFFFFFF, [⟨0x50010, 0, 1, 2⟩]⟩,
    ⟨0x500A0, .rc, 0x0, 0xFFFFFFFF, [⟨0x50010, 0, 1, 2⟩]⟩,
    ⟨0x500A4, .rc, 0x0, 0xFFFFFFFF, [⟨0x50010, 0, 1, 2⟩]⟩,
    ⟨0x500A8, .rc, 0x0, 0xFFFFFFFF, [⟨0x50010, 0, 1, 2⟩]⟩,
    ⟨0x500AC, .rc, 0x0, 0xFFFFFFFF, [⟨0x50010, 0, 1, 2⟩]⟩ ]

/-- Register rows of MSH. -/
def rowsMsh : List Row :=
  [ ⟨0x60010, .rwl, 0x7, 0x7, []⟩,
    ⟨0x60014, .ro, 0x31000, 0xFFFFFFFF, []⟩,
    ⟨0x60018, .ro, 0x0, 0xFFFFFFFF, []⟩,
    ⟨0x6001C, .ro, 0x7D0, 0xFFFFFFFF, []⟩,
    ⟨0x60020, .rwl, 0x1EBAE1, 0xFFFFFF, []⟩,
    ⟨0x60024, .ro, 0x0, 0xFFFFFFFF, []⟩,
    ⟨0x60028, .ro, 0x0, 0xFFFFFFFF, []⟩,
    ⟨0x6002C, .ro, 0x0, 0xFFFFFFFF, []⟩,
    ⟨0x60030, .ro, 0x0, 0xFFFFFFFF, []⟩,
    ⟨0x60034, .ro, 0x0, 0xFFFFFFFF, []⟩,
    ⟨0x60038, .ro, 0x0, 0xFFFFFFFF, []⟩,
    ⟨0x6003C, .ro, 0x0, 0xFFFFFFFF, []⟩,
    ⟨0x60040, .ro, 0x0, 0xFFFFFFFF, []⟩,
    ⟨0x60050, .rc, 0x0, 0xFFFFFFFF, []⟩,
    ⟨0x60054, .rc, 0x0, 0xFFFFFFFF, []⟩,
    ⟨0x60058, .rc, 0x0, 0xFFFFFFFF, []⟩,
    ⟨0x6005C, .rc, 0x0, 0xFFFFFFFF, []⟩,
    ⟨0x60060, .rc, 0x0, 0xFFFFFFFF, []⟩,
    ⟨0x60064, .rc, 0x0, 0xFFFFFFFF, []⟩,
    ⟨0x60068, .rc, 0x0, 0xFFFFFFFF, []⟩,
    ⟨0x6006C, .rc, 0x0, 0xFFFFFFFF, []⟩,
    ⟨0x60070, .rc, 0x0, 0xFFFFFFFF, []⟩,
    ⟨0x60074, .rc, 0x0, 0xFFFFFFFF, []⟩,
    ⟨0x60078, .rc, 0x0, 0xFFFFFFFF, []⟩,
    ⟨0x6007C, .rc, 0x0, 0xFFFFFFFF, []⟩,
    ⟨0x60080, .rc, 0x0, 0xFFFFFFFF, []⟩,
    ⟨0x60084, .rc, 0x0, 0xFFFFFFFF, []⟩,
    ⟨0x60088, .rc, 0x0, 0xFFFFFFFF, []⟩,
    ⟨0x6008C, .rc, 0x0, 0xFFFFFFFF, []⟩,
    ⟨0x60090, .rc, 0x0, 0xFFFFFFFF, []⟩,
    ⟨0x60094, .rc, 0x0, 0xFFFFFFFF, []⟩,
    ⟨0x60098, .rc, 0x0, 0xFFFFFFFF, []⟩,
    ⟨0x6009C, .rc, 0x0, 0xFFFFFFFF, []⟩ ]

/-- Register rows of FSE. -/
def rowsFse : List Row :=
  [ ⟨0x70010, .rwl, 0xA05, 0xFF0F, []⟩,
    ⟨0x70014, .ro, 0x0, 0xFFFFFFFF, []⟩,
    ⟨0x70018, .ro, 0x0, 0xFFFFFFFF, []⟩,
    ⟨0x70020, .rc, 0x0, 0xFFFFFFFF, []⟩,
    ⟨0x70024, .ro, 0x0, 0xFFFFFFFF, []⟩,
    ⟨0x70028, .rc, 0x0, 0xFFFFFFFF, []⟩,
    ⟨0x7002C, .ro, 0x0, 0xFFFFFFFF, []⟩,
    ⟨0x70030, .rc, 0x0, 0xFFFFFFFF, []⟩,
    ⟨0x70034, .ro, 0x0, 0xFFFFFFFF, []⟩,
    ⟨0x70038, .rc, 0x0, 0xFFFFFFFF, []⟩,
    ⟨0x7003C, .ro, 0x0, 0xFFFFFFFF, []⟩,
    ⟨0x70040, .rc, 0x0, 0xFFFFFFFF, []⟩,
    ⟨0x70044, .ro, 0x0, 0xFFFFFFFF, []⟩,
    ⟨0x70048, .rw, 0x0, 0xF, []⟩,
    ⟨0x7004C, .rc, 0x0, 0xFFFFFFFF, [⟨0x70048, 0, 4, 16⟩]⟩,
    ⟨0x70050, .rc, 0x0, 0xFFFFFFFF, []⟩,
    ⟨0x70054, .rc, 0x0, 0xFFFFFFFF, []⟩,
    ⟨0x70058, .rc, 0x0, 0xFFFFFFFF, []⟩,
    ⟨0x7005C, .rc, 0x0, 0xFFFFFFFF, []⟩,
    ⟨0x70060, .rc, 0x0, 0xFFFFFFFF, []⟩,
    ⟨0x70064, .rc, 0x0, 0xFFFFFFFF, []⟩,
    ⟨0x70068, .rc, 0x0, 0xFFFFFFFF, []⟩,
    ⟨0x7006C, .rc, 0x0, 0xFFFFFFFF, []⟩,
    ⟨0x70070, .rc, 0x0, 0xFFFFFFFF, []⟩,
    ⟨0x70074, .rc, 0x0, 0xFFFFFFFF, []⟩,
    ⟨0x70078, .rc, 0x0, 0xFFFFFFFF, []⟩,
    ⟨0x7007C, .ro, 0x0, 0xFFFFFFFF, []⟩,
    ⟨0x70080, .ro, 0x0, 0xFFFFFFFF, []⟩,
    ⟨0x70084, .ro, 0x0, 0xFFFFFFFF, []⟩ ]

/-- Register rows of ING. -/
def rowsIng : List Row :=
  [ ⟨0x80010, .rwl, 0x7, 0x7, []⟩,
    ⟨0x80014, .ro, 0x0, 0xFFFFFFFF, []⟩,
    ⟨0x80018, .rwl, 0xC807D0, 0xFFFFFFFF, []⟩,
    ⟨0x8001C, .rwl, 0xA3C, 0xFFFF, []⟩,
    ⟨0x80020, .rwl, 0x3F0, 0xFFFF07FF, []⟩,
    ⟨0x80024, .rwl, 0x3F0, 0xFFFF07FF, []⟩,
    ⟨0x80028, .rwl, 0x3F0, 0xFFFF07FF, []⟩,
    ⟨0x8002C, .rwl, 0x3F0, 0xFFFF07FF, []⟩,
    ⟨0x80030, .ro, 0x0, 0xFFFFFFFF, []⟩,
    ⟨0x80034, .rc, 0x0, 0xFFFFFFFF, []⟩,
    ⟨0x80038, .rw, 0x0, 0x3, []⟩,
    ⟨0x8003C, .ro, 0x0, 0xFFFFFFFF, [⟨0x80038, 0, 2, 4⟩]⟩,
    ⟨0x80040, .ro, 0x0, 0xFFFFFFFF, []⟩,
    ⟨0x80044, .rwl, 0x3C, 0xFFFF, []⟩,
    ⟨0x80048, .ro, 0x0, 0xFFFFFFFF, []⟩,
    ⟨0x8004C, .rwl, 0x400, 0x1FFF, []⟩,
    ⟨0x80050, .ro, 0x0, 0xFFFFFFFF, []⟩,
    ⟨0x80054, .ro, 0x0, 0xFFFFFFFF, []⟩,
    ⟨0x80058, .ro, 0x0, 0xFFFFFFFF, []⟩,
    ⟨0x80060, .rw, 0x0, 0xFFF, []⟩,
    ⟨0x80064, .rwl, 0x0, 0xFFFFFFFF, [⟨0x80060, 0, 8, 256⟩, ⟨0x80060, 8, 4, 16⟩]⟩,
    ⟨0x80068, .ro, 0x0, 0xFFFFFFFF, []⟩,
    ⟨0x8006C, .ro, 0x0, 0xFFFFFFFF, []⟩,
    ⟨0x80080, .rc, 0x0, 0xFFFFFFFF, []⟩,
    ⟨0x80084, .rc, 0x0, 0xFFFFFFFF, []⟩,
    ⟨0x80088, .rc, 0x0, 0xFFFFFFFF, []⟩,
    ⟨0x8008C, .rc, 0x0, 0xFFFFFFFF, []⟩,
    ⟨0x80090, .rc, 0x0, 0xFFFFFFFF, []⟩,
    ⟨0x80094, .rc, 0x0, 0xFFFFFFFF, []⟩,
    ⟨0x80098, .rc, 0x0, 0xFFFFFFFF, []⟩,
    ⟨0x8009C, .rc, 0x0, 0xFFFFFFFF, []⟩,
    ⟨0x800A0, .rc, 0x0, 0xFFFFFFFF, []⟩,
    ⟨0x800A4, .rc, 0x0, 0xFFFFFFFF, []⟩,
    ⟨0x800A8, .rc, 0x0, 0xFFFFFFFF, []⟩,
    ⟨0x800AC, .rc, 0x0, 0xFFFFFFFF, []⟩,
    ⟨0x800B0, .rc, 0x0, 0xFFFFFFFF, []⟩,
    ⟨0x800B4, .rc, 0x0, 0xFFFFFFFF, []⟩,
    ⟨0x800B8, .rc, 0x0, 0xFFFFFFFF, []⟩,
    ⟨0x800BC, .rc, 0x0, 0xFFFFFFFF, []⟩,
    ⟨0x800C0, .rc, 0x0, 0xFFFFFFFF, []⟩ ]

/-- Register rows of COD. -/
def rowsCod : List Row :=
  [ ⟨0x90010, .rwl, 0x0, 0x1, []⟩,
    ⟨0x90014, .rw, 0x0, 0x7, []⟩,
    ⟨0x90018, .rwl, 0x0, 0xFFFF, [⟨0x90014, 0, 3, 7⟩]⟩,
    ⟨0x9001C, .w1s, 0x0, 0x7F, []⟩,
    ⟨0x90020, .rw, 0x0, 0xFFF, []⟩,
    ⟨0x90024, .rwl, 0x1, 0xFFFFFFFF, [⟨0x90020, 0, 7, 96⟩, ⟨0x90020, 8, 4, 12⟩]⟩,
    ⟨0x90028, .ro, 0x1, 0xFFFFFFFF, [⟨0x90020, 0, 7, 96⟩, ⟨0x90020, 8, 4, 12⟩]⟩,
    ⟨0x9002C, .w1s, 0x0, 0x1, []⟩,
    ⟨0x90030, .ro, 0x0, 0xFFFFFFFF, []⟩,
    ⟨0x90034, .ro, 0x0, 0xFFFFFFFF, []⟩,
    ⟨0x90038, .ro, 0x0, 0xFFFFFFFF, []⟩,
    ⟨0x9003C, .ro, 0x0, 0xFFFFFFFF, []⟩,
    ⟨0x90040, .rc, 0x0, 0xFFFFFFFF, []⟩,
    ⟨0x90044, .rc, 0x0, 0xFFFFFFFF, []⟩,
    ⟨0x90048, .rc, 0x0, 0xFFFFFFFF, []⟩,
    ⟨0x9004C, .rc, 0x0, 0xFFFFFFFF, []⟩,
    ⟨0x90050, .rc, 0x0, 0xFFFFFFFF, []⟩,
    ⟨0x90054, .rc, 0x0, 0xFFFFFFFF, []⟩,
    ⟨0x90058, .rc, 0x0, 0xFFFFFFFF, []⟩,
    ⟨0x9005C, .rc, 0x0, 0xFFFFFFFF, []⟩,
    ⟨0x90060, .rc, 0x0, 0xFFFFFFFF, []⟩,
    ⟨0x90064, .ro, 0x0, 0xFFFFFFFF, []⟩,
    ⟨0x90068, .rc, 0x0, 0xFFFFFFFF, []⟩,
    ⟨0x9006C, .rc, 0x0, 0xFFFFFFFF, []⟩ ]

/-- Register rows of ARC. -/
def rowsArc : List Row :=
  [ ⟨0xA0010, .rwl, 0x3, 0x3, []⟩,
    ⟨0xA0014, .ro, 0x0, 0xFFFFFFFF, []⟩,
    ⟨0xA0018, .rwl, 0x40, 0x7FF, []⟩,
    ⟨0xA001C, .rwl, 0x400, 0x3FFF, []⟩,
    ⟨0xA0020, .rwl, 0x4, 0x7F, []⟩,
    ⟨0xA0024, .rw, 0x1900C8, 0xFFFFFF, []⟩,
    ⟨0xA0028, .rwl, 0x13250, 0xFFFFFF, []⟩,
    ⟨0xA002C, .rwl, 0x400, 0xFFFF, []⟩,
    ⟨0xA0030, .ro, 0x0, 0xFFFFFFFF, []⟩,
    ⟨0xA0034, .ro, 0x0, 0xFFFFFFFF, []⟩,
    ⟨0xA0038, .ro, 0x0, 0xFFFFFFFF, []⟩,
    ⟨0xA003C, .ro, 0x0, 0xFFFFFFFF, []⟩,
    ⟨0xA0040, .ro, 0x0, 0xFFFFFFFF, []⟩,
    ⟨0xA0044, .ro, 0x0, 0xFFFFFFFF, []⟩,
    ⟨0xA0048, .ro, 0x0, 0xFFFFFFFF, []⟩,
    ⟨0xA004C, .ro, 0x0, 0xFFFFFFFF, []⟩,
    ⟨0xA0050, .rw, 0x0, 0x3F, []⟩,
    ⟨0xA0054, .ro, 0x0, 0xFFFFFFFF, [⟨0xA0050, 0, 6, 64⟩]⟩,
    ⟨0xA0058, .ro, 0x0, 0xFFFFFFFF, [⟨0xA0050, 0, 6, 64⟩]⟩,
    ⟨0xA005C, .ro, 0x0, 0xFFFFFFFF, [⟨0xA0050, 0, 6, 64⟩]⟩,
    ⟨0xA0060, .ro, 0x0, 0xFFFFFFFF, [⟨0xA0050, 0, 6, 64⟩]⟩,
    ⟨0xA0064, .ro, 0x0, 0xFFFFFFFF, [⟨0xA0050, 0, 6, 64⟩]⟩,
    ⟨0xA0070, .rc, 0x0, 0xFFFFFFFF, []⟩,
    ⟨0xA0074, .rc, 0x0, 0xFFFFFFFF, []⟩,
    ⟨0xA0078, .rc, 0x0, 0xFFFFFFFF, []⟩,
    ⟨0xA007C, .rc, 0x0, 0xFFFFFFFF, []⟩,
    ⟨0xA0080, .rc, 0x0, 0xFFFFFFFF, []⟩,
    ⟨0xA0084, .rc, 0x0, 0xFFFFFFFF, []⟩,
    ⟨0xA0088, .rc, 0x0, 0xFFFFFFFF, []⟩,
    ⟨0xA008C, .rc, 0x0, 0xFFFFFFFF, []⟩,
    ⟨0xA0090, .rc, 0x0, 0xFFFFFFFF, []⟩,
    ⟨0xA0094, .rc, 0x0, 0xFFFFFFFF, []⟩,
    ⟨0xA0098, .rc, 0x0, 0xFFFFFFFF, []⟩,
    ⟨0xA009C, .rc, 0x0, 0xFFFFFFFF, []⟩,
    ⟨0xA00A0, .rc, 0x0, 0xFFFFFFFF, []⟩ ]

/-- Register rows of LOS. -/
def rowsLos : List Row :=
  [ ⟨0xB0010, .rwl, 0x3, 0x3, []⟩,
    ⟨0xB0014, .ro, 0x0, 0xFFFFFFFF, []⟩,
    ⟨0xB0018, .ro, 0x0, 0xFFFFFFFF, []⟩,
    ⟨0xB001C, .ro, 0x1E0384, 0xFFFFFFFF, []⟩,
    ⟨0xB0020, .rw, 0x0, 0x1F, []⟩,
    ⟨0xB0024, .rwl, 0xF, 0xFFFF000F, [⟨0xB0020, 0, 5, 32⟩]⟩,
    ⟨0xB0028, .ro, 0x0, 0xFFFFFFFF, []⟩,
    ⟨0xB002C, .ro, 0x0, 0xFFFFFFFF, []⟩,
    ⟨0xB0030, .ro, 0x0, 0xFFFFFFFF, []⟩,
    ⟨0xB0040, .rc, 0x0, 0xFFFFFFFF, []⟩,
    ⟨0xB0044, .rc, 0x0, 0xFFFFFFFF, []⟩,
    ⟨0xB0048, .rc, 0x0, 0xFFFFFFFF, []⟩,
    ⟨0xB004C, .rc, 0x0, 0xFFFFFFFF, []⟩,
    ⟨0xB0050, .rc, 0x0, 0xFFFFFFFF, []⟩,
    ⟨0xB0054, .rc, 0x0, 0xFFFFFFFF, []⟩,
    ⟨0xB0058, .rc, 0x0, 0xFFFFFFFF, []⟩,
    ⟨0xB005C, .rc, 0x0, 0xFFFFFFFF, []⟩,
    ⟨0xB0060, .rc, 0x0, 0xFFFFFFFF, []⟩,
    ⟨0xB0064, .rc, 0x0, 0xFFFFFFFF, []⟩,
    ⟨0xB0068, .rc, 0x0, 0xFFFFFFFF, []⟩,
    ⟨0xB006C, .rc, 0x0, 0xFFFFFFFF, []⟩,
    ⟨0xB0070, .rc, 0x0, 0xFFFFFFFF, []⟩,
    ⟨0xB0074, .rc, 0x0, 0xFFFFFFFF, []⟩,
    ⟨0xB0078, .rc, 0x0, 0xFFFFFFFF, []⟩,
    ⟨0xB007C, .rc, 0x0, 0xFFFFFFFF, []⟩,
    ⟨0xB0080, .rc, 0x0, 0xFFFFFFFF, []⟩ ]

/-- Register rows of MET. -/
def rowsMet : List Row :=
  [ ⟨0xC0010, .ro, 0x0, 0xFFFFFFFF, []⟩,
    ⟨0xC0014, .ro, 0x0, 0xFFFFFFFF, []⟩,
    ⟨0xC0018, .ro, 0x0, 0xFFFFFFFF, []⟩,
    ⟨0xC001C, .ro, 0x0, 0xFFFFFFFF, []⟩,
    ⟨0xC0020, .ro, 0x0, 0xFFFFFFFF, []⟩,
    ⟨0xC0024, .ro, 0x0, 0xFFFFFFFF, []⟩,
    ⟨0xC0028, .ro, 0x14FF, 0xFFFFFFFF, []⟩,
    ⟨0xC002C, .ro, 0x0, 0xFFFFFFFF, []⟩,
    ⟨0xC0030, .rw, 0x0, 0x7, []⟩,
    ⟨0xC0034, .ro, 0x0, 0xFFFFFFFF, [⟨0xC0030, 0, 3, 8⟩]⟩,
    ⟨0xC0038, .ro, 0x0, 0xFFFFFFFF, [⟨0xC0030, 0, 3, 8⟩]⟩,
    ⟨0xC003C, .ro, 0x0, 0xFFFFFFFF, [⟨0xC0030, 0, 3, 8⟩]⟩,
    ⟨0xC0040, .ro, 0x0, 0xFFFFFFFF, []⟩,
    ⟨0xC0044, .ro, 0x0, 0xFFFFFFFF, []⟩,
    ⟨0xC0048, .ro, 0x0, 0xFFFFFFFF, []⟩,
    ⟨0xC0050, .ro, 0x0, 0xFFFFFFFF, []⟩,
    ⟨0xC0054, .ro, 0x0, 0xFFFFFFFF, []⟩,
    ⟨0xC0058, .rc, 0x0, 0xFFFFFFFF, []⟩,
    ⟨0xC005C, .rc, 0x0, 0xFFFFFFFF, []⟩,
    ⟨0xC0060, .rc, 0x0, 0xFFFFFFFF, []⟩,
    ⟨0xC0064, .rc, 0x0, 0xFFFFFFFF, []⟩ ]

/-- Register rows of BIL. -/
def rowsBil : List Row :=
  [ ⟨0xD0010, .ro, 0x0, 0xFFFFFFFF, []⟩,
    ⟨0xD0014, .ro, 0x0, 0xFFFFFFFF, []⟩,
    ⟨0xD0018, .rw, 0x0, 0xF, []⟩,
    ⟨0xD001C, .ro, 0x0, 0xFFFFFFFF, [⟨0xD0018, 0, 4, 16⟩]⟩,
    ⟨0xD0020, .ro, 0x0, 0xFFFFFFFF, [⟨0xD0018, 0, 4, 16⟩]⟩,
    ⟨0xD0024, .ro, 0x0, 0xFFFFFFFF, [⟨0xD0018, 0, 4, 16⟩]⟩,
    ⟨0xD0028, .ro, 0x0, 0xFFFFFFFF, []⟩,
    ⟨0xD002C, .ro, 0x0, 0xFFFFFFFF, []⟩,
    ⟨0xD0030, .ro, 0x0, 0xFFFFFFFF, []⟩,
    ⟨0xD0034, .ro, 0x0, 0xFFFFFFFF, []⟩,
    ⟨0xD0038, .ro, 0x100, 0xFFFFFFFF, []⟩,
    ⟨0xD0040, .rc, 0x0, 0xFFFFFFFF, []⟩,
    ⟨0xD0044, .rc, 0x0, 0xFFFFFFFF, []⟩,
    ⟨0xD0048, .rc, 0x0, 0xFFFFFFFF, []⟩,
    ⟨0xD004C, .rc, 0x0, 0xFFFFFFFF, []⟩,
    ⟨0xD0050, .rc, 0x0, 0xFFFFFFFF, []⟩,
    ⟨0xD0054, .rc, 0x0, 0xFFFFFFFF, []⟩,
    ⟨0xD0058, .rc, 0x0, 0xFFFFFFFF, []⟩,
    ⟨0xD005C, .rc, 0x0, 0xFFFFFFFF, []⟩,
    ⟨0xD0060, .rc, 0x0, 0xFFFFFFFF, []⟩,
    ⟨0xD0064, .rc, 0x0, 0xFFFFFFFF, []⟩,
    ⟨0xD0068, .rc, 0x0, 0xFFFFFFFF, []⟩,
    ⟨0xD006C, .rc, 0x0, 0xFFFFFFFF, []⟩,
    ⟨0xD0070, .rc, 0x0, 0xFFFFFFFF, []⟩,
    ⟨0xD0074, .rc, 0x0, 0xFFFFFFFF, []⟩,
    ⟨0xD0078, .rc, 0x0, 0xFFFFFFFF, []⟩,
    ⟨0xD007C, .rc, 0x0, 0xFFFFFFFF, []⟩,
    ⟨0xD0080, .rc, 0x0, 0xFFFFFFFF, []⟩ ]

/-- Register rows of KVT. -/
def rowsKvt : List Row :=
  [ ⟨0xE0010, .rwl, 0x0, 0x3, []⟩,
    ⟨0xE0014, .ro, 0x0, 0xFFFFFFFF, []⟩,
    ⟨0xE0018, .ro, 0x0, 0xFFFFFFFF, []⟩,
    ⟨0xE001C, .ro, 0x0, 0xFFFFFFFF, []⟩,
    ⟨0xE0020, .ro, 0x0, 0xFFFFFFFF, []⟩,
    ⟨0xE0024, .ro, 0x0, 0xFFFFFFFF, []⟩,
    ⟨0xE0028, .ro, 0x0, 0xFFFFFFFF, []⟩,
    ⟨0xE002C, .ro, 0x0, 0xFFFFFFFF, []⟩,
    ⟨0xE0030, .rw, 0x0, 0xF, []⟩,
    ⟨0xE0034, .ro, 0x0, 0xFFFFFFFF, [⟨0xE0030, 0, 4, 16⟩]⟩,
    ⟨0xE0038, .ro, 0x0, 0xFFFFFFFF, [⟨0xE0030, 0, 4, 16⟩]⟩,
    ⟨0xE003C, .ro, 0x0, 0xFFFFFFFF, [⟨0xE0030, 0, 4, 16⟩]⟩,
    ⟨0xE0040, .rw, 0x0, 0x3, []⟩,
    ⟨0xE0044, .ro, 0x0, 0xFFFFFFFF, [⟨0xE0040, 0, 2, 3⟩]⟩,
    ⟨0xE0048, .ro, 0x0, 0xFFFFFFFF, [⟨0xE0040, 0, 2, 3⟩]⟩,
    ⟨0xE004C, .ro, 0x0, 0xFFFFFFFF, []⟩,
    ⟨0xE0050, .ro, 0x0, 0xFFFFFFFF, [⟨0xE0030, 0, 4, 16⟩]⟩,
    ⟨0xE0054, .rc, 0x0, 0xFFFFFFFF, []⟩,
    ⟨0xE0058, .rc, 0x0, 0xFFFFFFFF, []⟩,
    ⟨0xE005C, .rc, 0x0, 0xFFFFFFFF, []⟩,
    ⟨0xE0060, .rc, 0x0, 0xFFFFFFFF, []⟩,
    ⟨0xE0064, .rc, 0x0, 0xFFFFFFFF, []⟩,
    ⟨0xE0068, .rc, 0x0, 0xFFFFFFFF, []⟩,
    ⟨0xE006C, .rc, 0x0, 0xFFFFFFFF, []⟩,
    ⟨0xE0070, .rc, 0x0, 0xFFFFFFFF, []⟩,
    ⟨0xE0074, .ro, 0x0, 0xFFFFFFFF, []⟩,
    ⟨0xE0078, .rc, 0x0, 0xFFFFFFFF, []⟩,
    ⟨0xE007C, .rc, 0x0, 0xFFFFFFFF, []⟩,
    ⟨0xE0080, .ro, 0x0, 0xFFFFFFFF, []⟩,
    ⟨0xE0084, .ro, 0x0, 0xFFFFFFFF, []⟩ ]

/-- Register rows of TIM. -/
def rowsTim : List Row :=
  [ ⟨0xF0010, .rwl, 0xBD, 0xFF, []⟩,
    ⟨0xF0014, .ro, 0x0, 0xFFFFFFFF, []⟩,
    ⟨0xF0018, .wo, 0x0, 0x1, []⟩,
    ⟨0xF001C, .ro, 0x0, 0xFFFFFFFF, []⟩,
    ⟨0xF0020, .ro, 0x0, 0xFFFFFFFF, []⟩,
    ⟨0xF0024, .ro, 0x0, 0xFFFFFFFF, []⟩,
    ⟨0xF0028, .ro, 0x0, 0xFFFFFFFF, []⟩,
    ⟨0xF002C, .ro, 0x0, 0xFFFFFFFF, []⟩,
    ⟨0xF0030, .ro, 0x0, 0xFFFFFFFF, []⟩,
    ⟨0xF0034, .rwl, 0x4321, 0xFFFF, []⟩,
    ⟨0xF0038, .rwl, 0x2710, 0xFFFFFFFF, []⟩,
    ⟨0xF003C, .rwl, 0x3E886A0, 0xFFFFFFFF, []⟩,
    ⟨0xF0040, .rwl, 0x12C0510, 0xFFFFFFFF, []⟩,
    ⟨0xF0044, .rwl, 0x15180, 0xFFFFFFFF, []⟩,
    ⟨0xF0048, .ro, 0x0, 0xFFFFFFFF, []⟩,
    ⟨0xF004C, .rwl, 0x0, 0xFFFFFFFF, []⟩,
    ⟨0xF0050, .rwl, 0x0, 0xFFFFFFFF, []⟩,
    ⟨0xF0054, .rwl, 0x0, 0xFFFFFFFF, []⟩,
    ⟨0xF0058, .rwl, 0x0, 0xFFFF, []⟩,
    ⟨0xF005C, .rwl, 0x14, 0x7FF3F, []⟩,
    ⟨0xF0060, .rwl, 0x14, 0x7FF3F, []⟩,
    ⟨0xF0064, .ro, 0x0, 0xFFFFFFFF, []⟩,
    ⟨0xF0068, .ro, 0x0, 0xFFFFFFFF, []⟩,
    ⟨0xF006C, .ro, 0x0, 0xFFFFFFFF, []⟩,
    ⟨0xF0070, .rc, 0x0, 0xFFFFFFFF, []⟩,
    ⟨0xF0074, .rc, 0x0, 0xFFFFFFFF, []⟩,
    ⟨0xF0078, .rc, 0x0, 0xFFFFFFFF, []⟩,
    ⟨0xF007C, .rc, 0x0, 0xFFFFFFFF, []⟩ ]

/-- Register rows of UPD. -/
def rowsUpd : List Row :=
  [ ⟨0x100010, .rwl, 0x0, 0x3, []⟩,
    ⟨0x100014, .ro, 0x0, 0xFFFFFFFF, []⟩,
    ⟨0x100018, .ro, 0x0, 0xFFFFFFFF, []⟩,
    ⟨0x10001C, .ro, 0x0, 0xFFFFFFFF, []⟩,
    ⟨0x100020, .ro, 0x0, 0xFFFFFFFF, []⟩,
    ⟨0x100024, .ro, 0x0, 0xFFFFFFFF, []⟩,
    ⟨0x100028, .ro, 0x0, 0xFFFFFFFF, []⟩,
    ⟨0x10002C, .ro, 0x0, 0xFFFFFFFF, []⟩,
    ⟨0x100030, .rwl, 0xBAE2, 0xFFFF, []⟩,
    ⟨0x100034, .rw, 0x0, 0x3, []⟩,
    ⟨0x100038, .rwl, 0x0, 0xFFFFFFFF, [⟨0x100034, 0, 2, 4⟩]⟩,
    ⟨0x10003C, .rwl, 0x0, 0xFFFFFFFF, [⟨0x100034, 0, 2, 4⟩]⟩,
    ⟨0x100040, .rwl, 0x0, 0xFFFFFFFF, [⟨0x100034, 0, 2, 4⟩]⟩,
    ⟨0x100044, .rwl, 0x0, 0xFFFFFFFF, [⟨0x100034, 0, 2, 4⟩]⟩,
    ⟨0x100048, .rwl, 0x0, 0x3FFFF, [⟨0x100034, 0, 2, 4⟩]⟩,
    ⟨0x10004C, .ro, 0x0, 0xFFFFFFFF, [⟨0x100034, 0, 2, 4⟩]⟩,
    ⟨0x100050, .ro, 0x0, 0xFFFFFFFF, [⟨0x100034, 0, 2, 4⟩]⟩,
    ⟨0x100058, .rwl, 0x0, 0xFFFFFFFF, []⟩,
    ⟨0x10005C, .rwl, 0x0, 0xFFFFFFFF, []⟩,
    ⟨0x100060, .rc, 0x0, 0xFFFFFFFF, []⟩,
    ⟨0x100064, .rc, 0x0, 0xFFFFFFFF, []⟩,
    ⟨0x100068, .rc, 0x0, 0xFFFFFFFF, []⟩,
    ⟨0x10006C, .rc, 0x0, 0xFFFFFFFF, []⟩,
    ⟨0x100070, .rc, 0x0, 0xFFFFFFFF, []⟩ ]

/-- Register rows of SVC. -/
def rowsSvc : List Row :=
  [ ⟨0x110010, .rwl, 0x3, 0x3, []⟩,
    ⟨0x110014, .ro, 0x0, 0xFFFFFFFF, []⟩,
    ⟨0x110018, .rwl, 0x80, 0xFF, []⟩,
    ⟨0x11001C, .ro, 0x0, 0xFFFFFFFF, []⟩,
    ⟨0x110020, .rc, 0x0, 0xFFFFFFFF, []⟩,
    ⟨0x110024, .rc, 0x0, 0xFFFFFFFF, []⟩,
    ⟨0x110028, .rc, 0x0, 0xFFFFFFFF, []⟩,
    ⟨0x11002C, .rc, 0x0, 0xFFFFFFFF, []⟩,
    ⟨0x110030, .rc, 0x0, 0xFFFFFFFF, []⟩,
    ⟨0x110034, .rc, 0x0, 0xFFFFFFFF, []⟩,
    ⟨0x110038, .rc, 0x0, 0xFFFFFFFF, []⟩,
    ⟨0x11003C, .rc, 0x0, 0xFFFFFFFF, []⟩,
    ⟨0x110040, .rc, 0x0, 0xFFFFFFFF, []⟩,
    ⟨0x110044, .rc, 0x0, 0xFFFFFFFF, []⟩,
    ⟨0x110048, .rc, 0x0, 0xFFFFFFFF, []⟩,
    ⟨0x11004C, .rc, 0x0, 0xFFFFFFFF, []⟩,
    ⟨0x110050, .rc, 0x0, 0xFFFFFFFF, []⟩,
    ⟨0x110054, .rc, 0x0, 0xFFFFFFFF, []⟩,
    ⟨0x110058, .rc, 0x0, 0xFFFFFFFF, []⟩ ]

/-- Register rows of PAR. -/
def rowsPar : List Row :=
  [ ⟨0x120010, .rwl, 0xB, 0xF, []⟩,
    ⟨0x120014, .ro, 0x0, 0xFFFFFFFF, []⟩,
    ⟨0x120018, .ro, 0x0, 0xFFFFFFFF, []⟩,
    ⟨0x12001C, .ro, 0x0, 0xFFFFFFFF, []⟩,
    ⟨0x120020, .rwl, 0x1C70, 0xFFFFFFFF, []⟩,
    ⟨0x120024, .rwl, 0x3, 0xF, []⟩,
    ⟨0x120028, .rwl, 0x7D00FA, 0xFF00FF, []⟩,
    ⟨0x12002C, .rwl, 0x30A, 0xF3F, []⟩,
    ⟨0x120030, .rw, 0xC8, 0xFFFF, []⟩,
    ⟨0x120034, .rwl, 0x0, 0xFFFF, []⟩,
    ⟨0x120038, .ro, 0x0, 0xFFFFFFFF, []⟩,
    ⟨0x12003C, .ro, 0x0, 0xFFFFFFFF, []⟩,
    ⟨0x120040, .ro, 0x0, 0xFFFFFFFF, []⟩,
    ⟨0x120044, .ro, 0x0, 0xFFFFFFFF, []⟩,
    ⟨0x120048, .ro, 0x0, 0xFFFFFFFF, []⟩,
    ⟨0x12004C, .ro, 0x0, 0xFFFFFFFF, []⟩,
    ⟨0x120050, .ro, 0x0, 0xFFFFFFFF, []⟩,
    ⟨0x120054, .ro, 0x0, 0xFFFFFFFF, []⟩,
    ⟨0x120058, .ro, 0x0, 0xFFFFFFFF, []⟩,
    ⟨0x12005C, .ro, 0x0, 0xFFFFFFFF, []⟩,
    ⟨0x120060, .rc, 0x0, 0xFFFFFFFF, []⟩,
    ⟨0x120064, .rc, 0x0, 0xFFFFFFFF, []⟩,
    ⟨0x120068, .rc, 0x0, 0xFFFFFFFF, []⟩,
    ⟨0x12006C, .rc, 0x0, 0xFFFFFFFF, []⟩,
    ⟨0x120070, .rc, 0x0, 0xFFFFFFFF, []⟩,
    ⟨0x120074, .rc, 0x0, 0xFFFFFFFF, []⟩,
    ⟨0x120078, .rc, 0x0, 0xFFFFFFFF, []⟩,
    ⟨0x12007C, .rc, 0x0, 0xFFFFFFFF, []⟩,
    ⟨0x120080, .rc, 0x0, 0xFFFFFFFF, []⟩,
    ⟨0x120084, .rc, 0x0, 0xFFFFFFFF, []⟩,
    ⟨0x120088, .rc, 0x0, 0xFFFFFFFF, []⟩,
    ⟨0x12008C, .rc, 0x0, 0xFFFFFFFF, []⟩,
    ⟨0x120090, .rc, 0x0, 0xFFFFFFFF, []⟩,
    ⟨0x120094, .rc, 0x0, 0xFFFFFFFF, []⟩ ]

/-- Register rows of FAB. -/
def rowsFab : List Row :=
  [ ⟨0x130010, .rwl, 0x1, 0x1, []⟩,
    ⟨0x130014, .rw, 0x0, 0x7, []⟩,
    ⟨0x130018, .rw, 0x0, 0x1F, []⟩,
    ⟨0x13001C, .ro, 0x0, 0xFFFFFFFF, []⟩,
    ⟨0x130020, .ro, 0x0, 0xFFFFFFFF, [⟨0x130014, 0, 3, 6⟩]⟩,
    ⟨0x130024, .rc, 0x0, 0xFFFFFFFF, [⟨0x130014, 0, 3, 6⟩, ⟨0x130018, 0, 5, 28⟩]⟩,
    ⟨0x130028, .rc, 0x0, 0xFFFFFFFF, [⟨0x130014, 0, 3, 6⟩, ⟨0x130018, 0, 5, 28⟩]⟩,
    ⟨0x13002C, .rc, 0x0, 0xFFFFFFFF, [⟨0x130014, 0, 3, 6⟩]⟩,
    ⟨0x130030, .rc, 0x0, 0xFFFFFFFF, [⟨0x130014, 0, 3, 6⟩]⟩,
    ⟨0x130034, .rc, 0x0, 0xFFFFFFFF, [⟨0x130014, 0, 3, 6⟩]⟩ ]

/-- Register rows of VIN. -/
def rowsVin : List Row :=
  [ ⟨0x140010, .rw, 0x0, 0xF, []⟩,
    ⟨0x140014, .ro, 0x0, 0xFFFFFFFF, []⟩,
    ⟨0x140018, .ro, 0x0, 0xFFFFFFFF, []⟩,
    ⟨0x14001C, .rc, 0x0, 0xFFFFFFFF, []⟩,
    ⟨0x140040, .rc, 0x0, 0xFFFFFFFF, [⟨0x140010, 0, 4, 16⟩]⟩,
    ⟨0x140044, .rc, 0x0, 0xFFFFFFFF, [⟨0x140010, 0, 4, 16⟩]⟩,
    ⟨0x140048, .rc, 0x0, 0xFFFFFFFF, []⟩ ]

/-- Register rows of EVR. -/
def rowsEvr : List Row :=
  [ ⟨0x150010, .rw, 0x0, 0x7, []⟩,
    ⟨0x150014, .ro, 0x0, 0xFFFFFFFF, [⟨0x150010, 0, 3, 8⟩]⟩,
    ⟨0x150018, .rw, 0x0, 0xFFFFFFFF, [⟨0x150010, 0, 3, 8⟩]⟩,
    ⟨0x15001C, .rw, 0x1, 0x1, [⟨0x150010, 0, 3, 8⟩]⟩,
    ⟨0x150020, .ro, 0x0, 0xFFFFFFFF, [⟨0x150010, 0, 3, 8⟩]⟩,
    ⟨0x150024, .ro, 0x0, 0xFFFFFFFF, [⟨0x150010, 0, 3, 8⟩]⟩,
    ⟨0x150028, .ro, 0x3E80E10, 0xFFFFFFFF, [⟨0x150010, 0, 3, 8⟩]⟩,
    ⟨0x15002C, .ro, 0x3C, 0xFFFFFFFF, [⟨0x150010, 0, 3, 8⟩]⟩,
    ⟨0x150030, .rc, 0x0, 0xFFFFFFFF, [⟨0x150010, 0, 3, 8⟩]⟩,
    ⟨0x150034, .rc, 0x0, 0xFFFFFFFF, [⟨0x150010, 0, 3, 8⟩]⟩ ]

/-- Register rows of AON. -/
def rowsAon : List Row :=
  [ ⟨0x160010, .ro, 0x0, 0xFFFFFFFF, []⟩,
    ⟨0x160014, .ro, 0x0, 0xFFFFFFFF, []⟩,
    ⟨0x160018, .ro, 0x0, 0xFFFFFFFF, []⟩,
    ⟨0x16001C, .ro, 0x0, 0xFFFFFFFF, []⟩,
    ⟨0x160020, .ro, 0x0, 0xFFFFFFFF, []⟩,
    ⟨0x160024, .ro, 0x0, 0xFFFFFFFF, []⟩,
    ⟨0x160028, .ro, 0x0, 0xFFFFFFFF, []⟩,
    ⟨0x16002C, .ro, 0x0, 0xFFFFFFFF, []⟩ ]

/-- The rows of window `u` (R13). -/
def rowsOf : Nat → List Row
  | 0 => headerRows 0 ++ rowsGlb
  | 1 => headerRows 1 ++ rowsHbr
  | 2 => headerRows 2 ++ rowsCmd
  | 3 => headerRows 3 ++ rowsPwr
  | 4 => headerRows 4 ++ rowsPlc
  | 5 => headerRows 5 ++ rowsRfx
  | 6 => headerRows 6 ++ rowsMsh
  | 7 => headerRows 7 ++ rowsFse
  | 8 => headerRows 8 ++ rowsIng
  | 9 => headerRows 9 ++ rowsCod
  | 10 => headerRows 10 ++ rowsArc
  | 11 => headerRows 11 ++ rowsLos
  | 12 => headerRows 12 ++ rowsMet
  | 13 => headerRows 13 ++ rowsBil
  | 14 => headerRows 14 ++ rowsKvt
  | 15 => headerRows 15 ++ rowsTim
  | 16 => headerRows 16 ++ rowsUpd
  | 17 => headerRows 17 ++ rowsSvc
  | 18 => headerRows 18 ++ rowsPar
  | 19 => headerRows 19 ++ rowsFab
  | 20 => headerRows 20 ++ rowsVin
  | 21 => headerRows 21 ++ rowsEvr
  | 22 => headerRows 22 ++ rowsAon
  | _ => []

/-- The register that occupies a BAR0 offset, if one does (R11). -/
def rowAt (off : Nat) : Option Row := (rowsOf (windowOf off)).find? (fun r => r.off == off)

/-- The reset value of COD.CLOSE_TIME for each class (the register's reset column says "Per class"; R288 gives the values). -/
def closeTimeReset : Nat → Nat
  | 0 | 1 | 2 => 1000
  | _ => 5000

/-- The stride that keeps the copies of a selected register apart in the register file. -/
def keyStride : Nat := 0x200000

/-- The register-file key of copy `idx` of the register at `off`. -/
def regKey (off idx : Nat) : Nat := idx * keyStride + off

/-- The reset value of a register-file key. -/
def resetOf (key : Nat) : Word :=
  let off := key % keyStride
  if off = Reg.COD_CLOSE_TIME then BitVec.ofNat 32 (closeTimeReset (key / keyStride))
  else match rowAt off with
    | some r => BitVec.ofNat 32 r.reset
    | none => 0#32

end Sys2Proof.Machine
end

