-- ==== Sys2Proof/Machine/State.lean ====
section
/-! DEFINITION. The state of the FB-9600: every register, queue, buffer, counter, mode and pin the manual gives the
part, as plain data, unit by unit, with the queue of waiting commands; and the state right after power-on reset.
Registers that only hold a word stand in `State.regs`, keyed by BAR0 offset; what the manual gives structure stands in
the unit's own record. A field's default is its value at reset. -/
set_option Elab.async false
namespace Sys2Proof.Machine

/-- Why the part stops. No rule of the manual stops the block: every command has an effect or none, so no step
ends in a fault and the type has no constructor. -/
inductive Fault where
  deriving DecidableEq, Repr

/-- Why a command has no meaning. `notModelled` is raised by `exec` alone, for a row whose meaning is not written;
a refusal is safe, since nothing can be proved of a next state that is not there. -/
inductive Refusal where
  /-- Raised by `exec` for a row of the opcode table that has no meaning yet; safe. -/
  | notModelled (mnemonic : String)
  deriving DecidableEq, Repr

/-- What a seam packet carries: bytes, or the four views of an ownership heartbeat (R20, R35). -/
inductive SeamBody where
  | bytes (b : Bytes)
  | beat (hb : Heartbeat)
  deriving DecidableEq, Repr

/-- A packet of the die seam (R20, R21): the die that sends it, its class, its sequence number and what it carries. -/
structure SeamPkt where
  fromDie : Die
  cls : Nat
  seq : Nat := 0
  body : SeamBody
  deriving DecidableEq, Repr

/-- A constellation point of unit mean energy (R119, R122): a phase of `num / den` of a turn at amplitude 1, or a 16QAM point
(i + jq) / √10. -/
inductive Point where
  | turn (num den : Nat)
  | qam (i q : Int)
  deriving DecidableEq, Repr

/-- A carrier of a symbol as it is sent (R116): its number, its point, and MASK + SEG_ATT + TX_ATT in 0.5 dB. -/
structure Tone where
  k : Nat
  point : Point
  att : Nat
  deriving DecidableEq, Repr

/-- A symbol on the wire (R118): the samples of its cyclic prefix, and the carriers sent. -/
structure PlcSymbol where
  pre : Nat
  tones : List Tone
  deriving DecidableEq, Repr

/-- The waveform of a frame (R113, R116 to R119): the chains it leaves on with the TX_FS of each in dBµV, and its symbols in order. -/
structure PlcWave where
  chains : List (Nat × Nat)
  symbols : List PlcSymbol
  deriving DecidableEq, Repr

/-- A radio frame as the port's transmit group carries it (R167, R173): rate code, transmit channel, attenuation below full scale in
0.01 dB, instant of its first ramp sample at the TXD pins in ns, its bits in order, a 1 being positive deviation, and the eight edges of that
first sample (R163). -/
structure RfAir where
  rate : Nat
  slot : Nat
  att : Nat
  start : Nat
  bits : List Bool
  first : List PortEdge
  deriving DecidableEq, Repr

/-- What leaves the part, in the order it leaves: host-link writes and answers, seam packets, frames, drive commands,
pair-link and Ethernet messages, service-port bytes and pins. -/
inductive Out where
  /-- One TLP of bulk data written for a command: its host address, whether Relaxed Ordering is set, and the bytes (R101, R102). -/
  | data (queue tag addr : Nat) (relaxed : Bool) (b : Bytes)
  /-- A completion written into a CQ at an index (R59). -/
  | completion (queue idx : Nat) (b : Bytes)
  /-- A notice written into a ring at an index (R100). -/
  | notice (fn idx : Nat) (b : Bytes)
  /-- An MSI-X message (R91). -/
  | msix (vector : Nat)
  /-- A part-issued read request: its identity, tag, address and length (R97). -/
  | readReq (id tag addr len : Nat)
  /-- A completion of a host read: the enabled bytes in ascending order (R92, R95, R96). -/
  | readAnswer (fn : Nat) (ido : Bool) (b : Bytes)
  /-- Unsupported Request for a refused host read (R94). -/
  | unsupported (fn : Nat)
  /-- A packet on the die seam, with its CRC-32C (R20, R21); an ownership heartbeat is one of class 2 (R35). -/
  | seam (p : SeamPkt) (crc : Nat)
  /-- A resend request on the die seam (R21). -/
  | seamResend (toDie : Die)
  /-- A fence sent to every unit (R528). -/
  | fence (inst epoch : Nat)
  /-- A frame launched on power line (PLC) or radio (RFX), or a UDP datagram on an Ethernet port. -/
  | plcFrame (chains phr : Nat) (link : Bytes) (payload : List (List (Nat × Nat × Nat))) (wave : PlcWave)
  | rfFrame (port ch : Nat) (b : Bytes) (air : RfAir)
  | eth (port : Nat) (b : Bytes)
  /-- A UDP payload to an address and port (R207, R465). -/
  | udp (port address udpPort : Nat) (b : Bytes)
  /-- A message to the pair partner, by kind (R493). -/
  | pair (kind : Nat) (b : Bytes)
  /-- A command to an NVMe drive: slot, kind and numbers (R290). -/
  | nvme (slot kind : Nat) (args : List Nat) (data : Bytes)
  /-- Bytes sent on a service port (0 SSP, 1 OSP), or the data registers of the test port's chain as they leave TDO (2). -/
  | service (port : Nat) (b : Bytes)
  /-- A pin driven to a level: 1 PPS_OUT, 2 MET_PULSE, 3 SEAL_LED_N, 4 OWN_OUT, 5 THERM_N, 6 SSP_RDY_N, 7 SRP0_PERST_N, 8 SRP1_PERST_N,
  9 RFA_TXEN, 10 RFB_TXEN, 11 to 13 RFA_GAIN[2:0], 14 to 16 RFB_GAIN[2:0]. -/
  | pin (p : Nat) (high : Bool)
  deriving DecidableEq, Repr

/-! ### Events and recorders (EVR) -/

/-- A record of a recorder (R560). `kind` is 0 EVENT, 1 HISTOGRAM, 2 EXTREMES, 3 MARKER. For an EVENT `code` is the
source unit's number for the kind of event (see `Config.eventCode`); otherwise it is CODE itself. `payload` holds the
numbers of the payload in order. -/
structure EvRecord where
  source : Nat := 0
  kind : Nat := 0
  inst : Option Nat := none
  code : Nat := 0
  stamp : Nat := 0
  lastUs : Nat := 0
  repeats : Nat := 0
  lost : Nat := 0
  payload : List Int := []
  deriving DecidableEq, Repr

/-- The extremes of one quantity over the open period (R563). -/
structure Extreme where
  code : Nat := 0
  min : Int := 0
  max : Int := 0
  minAt : Nat := 0
  maxAt : Nat := 0
  /-- R560. Time of the first sample. -/
  since : Nat := 0
  deriving DecidableEq, Repr

/-- One of the eight recorders (R559). -/
structure Recorder where
  /-- R560. RSEQ of the next record formed. -/
  next : Nat := 0
  /-- R565. RSEQ of the oldest readable record. -/
  oldest : Nat := 0
  /-- R559. The committed records, by RSEQ. -/
  recs : Tab EvRecord := []
  /-- R562. The record being written, with its RSEQ. -/
  staged : Option (Nat × EvRecord) := none
  /-- R562. The input queue of 16 entries, oldest first. -/
  queue : List EvRecord := []
  /-- R560. Events lost since the staging of the previous record. -/
  lost : Nat := 0
  /-- R563. Open histograms: code, start stamp and 16 bins. -/
  hists : Tab (Nat × List Nat) := []
  /-- R563. Open extremes. -/
  extremes : List Extreme := []
  /-- R570. HIST_S in force. -/
  histS : Nat := 60
  /-- R570. EXT_S in force. -/
  extS : Nat := 3600
  /-- R570. REPEAT_MS in force. -/
  repeatMs : Nat := 1000
  /-- R570. Values of EVR.CONFIG that take effect at the next period boundary. -/
  nextCfg : Option (Nat × Nat × Nat) := none
  /-- R564. RESTORED at the last DAWN. -/
  restored : Bool := false
  /-- R564. A power-on reset has happened and POWER_ON is not yet written. -/
  powerOn : Bool := true
  deriving DecidableEq, Repr

/-- The EVR window's readout of one recorder (R567). -/
structure EvView where
  /-- R571. CURSOR. -/
  cursor : Nat := 0
  /-- R567. STATUS.BUSY: the RSEQ being loaded. -/
  busy : Option Nat := none
  /-- R567. STATUS.CURSOR_LOST. -/
  cursorLost : Bool := false
  /-- R567. The snapshot shown, with its RSEQ. -/
  snap : Option (Nat × EvRecord) := none
  deriving DecidableEq, Repr

/-- EVR (R559 to R571). -/
structure Evr where
  /-- R559. The eight recorders. -/
  recs : Tab Recorder := []
  /-- R567. The readout of each recorder. -/
  views : Tab EvView := []
  /-- R566. The records saved in the retention SRAM of domain 49, with next RSEQ, by recorder. -/
  saved : Tab (Nat × Tab EvRecord) := []
  deriving DecidableEq, Repr

/-! ### The device, its seam and its commands (GLB, CMD) -/

/-- Device-wide state: the state word's parts (R60) and the noon-cycle count. -/
structure Dev where
  /-- R615. The part's own EUI-64, fixed at manufacture. -/
  eui : Nat := 0
  /-- R67. Device state. -/
  state : DevState := .dawn
  /-- R60, R546. DAWN stage. -/
  stage : Nat := 0
  /-- R60, R407. Life-cycle state: 0 BLANK to 4 RETIRED. -/
  life : Nat := 0
  /-- R60, R486. Pair role. -/
  role : Role := .standby
  /-- R60, R549. Tamper hold. -/
  tamperHold : Bool := false
  /-- R82. Noon cycles since the start of the present DAWN (CMD.NC_COUNT). -/
  nc : Nat := 0
  /-- R425, R454. Identity and digest of the running Noon image. -/
  fwId : Nat := 0
  fwDigest : Bytes := List.replicate 48 0
  deriving DecidableEq, Repr

/-- The die seam and the dies' views of one another (R20 to R36). -/
structure Seam where
  /-- R21. Next sequence number expected by the Noon die. -/
  noonExpect : Nat := 0
  /-- R21. Next sequence number expected by the Midnight die. -/
  midExpect : Nat := 0
  /-- R21. Failed deliveries in a row of the packet the Noon die awaits. -/
  noonFails : Nat := 0
  /-- R21. Failed deliveries in a row of the packet the Midnight die awaits. -/
  midFails : Nat := 0
  /-- R22. Noon packets the island controller refused. -/
  refused : Nat := 0
  /-- R36. Consecutive mismatched heartbeats counted on the Noon die. -/
  noonMiss : Nat := 0
  /-- R36. Consecutive mismatched heartbeats counted on the Midnight die. -/
  midMiss : Nat := 0
  /-- R33. The island has a valid heartbeat from the Noon die. -/
  midValid : Bool := false
  /-- R34, R35. The Midnight die's view of role, ownership and device state. -/
  midView : Heartbeat := ⟨.standby, false, .dawn, false⟩
  /-- R34, R35. The Noon die's view of the Midnight permit. -/
  noonPermitView : Bool := false
  /-- R44, R550. The Midnight permit is dropped by a tamper alarm or by the declaration of DUSK. -/
  permitDrop : Bool := false
  /-- R21. Sequence number of the next packet the Noon die sends. -/
  noonNext : Nat := 0
  /-- R21. Sequence number of the next packet the Midnight die sends. -/
  midNext : Nat := 0
  /-- R20. Packets waiting for the seam, in the order they were handed to it. -/
  waiting : List SeamPkt := []
  /-- R21. Packets sent that their receiver has not yet passed: what a resend request sends again. -/
  kept : List SeamPkt := []
  /-- R36. The last ownership heartbeat the Noon die received. -/
  noonLast : Option Heartbeat := none
  /-- R36. The last ownership heartbeat the Midnight die received. -/
  midLast : Option Heartbeat := none
  deriving DecidableEq, Repr

/-- A submission queue and its completion queue (R46 to R56). -/
structure Queue where
  /-- R49, R82. QCTRL.ENABLE. -/
  enabled : Bool := false
  /-- R52. QSTAT.ERROR. -/
  error : Bool := false
  /-- R52. QSTAT.ERR_CODE. -/
  errCode : Nat := 0
  /-- R82. SQ head. -/
  sqHead : Nat := 0
  /-- R51. SQ tail. -/
  sqTail : Nat := 0
  /-- R51. CQ head. -/
  cqHead : Nat := 0
  /-- R54. CQ tail. -/
  cqTail : Nat := 0
  /-- R55. Completions in the CQ that the host has not consumed. -/
  cqUsed : Nat := 0
  /-- R54. Write phase. -/
  phase : Bool := true
  /-- R55. CQ entries reserved by fetches. -/
  reserved : Nat := 0
  /-- R64. Completions written and not announced by a message. -/
  unann : Nat := 0
  deriving DecidableEq, Repr

/-- The stages of a fetched command in CMD (R77). -/
inductive CmdStage where
  | admitted | dispatched | done
  deriving DecidableEq, Repr

/-- A command that CMD has fetched and not completed (R57 to R63). -/
structure Cmd where
  queue : Nat
  tag : Nat
  opcode : Nat
  inst : Nat
  order : Bool
  irq : Bool
  dlist : Bool
  dptr : Nat
  echo : Nat
  dispatchNc : Nat := 0
  epoch : Nat := 0
  queuedPosted : Bool := false
  stage : CmdStage := .admitted
  /-- R97. Bytes of data it reads from the host. -/
  dlen : Nat := 0
  /-- R105. Its queue was lost with its function: its completion is held. -/
  lost : Bool := false
  deriving DecidableEq, Repr

/-- A unit's result on its way to CMD (R77). `queued` marks the QUEUED completion of R62; `echo` replaces the
admission word where R71 says so. -/
structure Result where
  queue : Nat
  tag : Nat
  status : Nat
  result0 : Nat := 0
  result1 : Nat := 0
  queued : Bool := false
  echo : Option Nat := none
  deriving DecidableEq, Repr

/-- An entry owed across a power loss (R73): the command as the entry names it, the function that owned its queue, and the outcome its
unit's power-loss rules give it. -/
structure Owed where
  queue : Nat
  tag : Nat
  opcode : Nat
  inst : Nat
  fn : Nat
  echo : Nat
  dispatchNc : Nat
  dispatched : Bool
  status : Nat
  result0 : Nat := 0
  result1 : Nat := 0
  deriving DecidableEq, Repr

/-- A notice entry (R100), without the ring phase. -/
structure Notice where
  typ : Nat
  fn : Nat
  inst : Nat
  held : Bool := false
  nseq : Nat
  stamp : Nat
  body : Bytes
  deriving DecidableEq, Repr

/-- CMD (R46 to R80). -/
structure CmdUnit where
  /-- R46. The 257 queues. -/
  queues : Tab Queue := []
  /-- R77. Queues of the descriptor fetches under way, oldest first. -/
  fetching : List Nat := []
  /-- R52, R76. Descriptors received that wait: for a lane to be up, or, in an errored queue, for its disable. -/
  input : List (Nat × Bytes) := []
  /-- R63. Fetched commands not completed, in fetch order. -/
  cmds : List Cmd := []
  /-- R63, R77. Results that have reached CMD and are not yet posted, oldest first. -/
  results : List Result := []
  /-- R56. Instance served last, for the rotation. -/
  lastInst : Nat := 15
  /-- R56. Local queue served last of each instance. -/
  lastQueue : Tab Nat := []
  /-- R74. Lanes up, bit per lane. -/
  lanesUp : Nat := 7
  /-- R76. Lanes under test or in resync: the noon cycle at which each comes back, and whether it does. -/
  resyncs : Tab (Nat × Bool) := []
  /-- R76. GLB.LANE.RESYNC commands under way: the command, the noon cycle at which it ends, and whether a lane fails its test. -/
  laneJobs : List (CmdRef × Nat × Bool) := []
  /-- R76. Noon cycles of the recent miscompares of each lane. -/
  misTimes : Tab (List Nat) := []
  /-- R73. Owed entries formed at power loss. -/
  owed : List Owed := []
  /-- R73. Held TYPE 0x01 entries saved at power loss. -/
  owedHeld : List Notice := []
  /-- R319. Owed commands that go on after DAWN (ARC.NS.DELETE, ARC.DRIVE.REMOVE); results name their queue plus `resumedQueue`. -/
  resumed : List Owed := []
  /-- R79. No completion is written any more until the next DAWN. -/
  closed : Bool := false
  deriving DecidableEq, Repr

/-! ### The bridge (HBR) -/

/-- A notice ring (R99). -/
structure Ring where
  /-- R99. NR_CTRL.ENABLE. -/
  enabled : Bool := false
  /-- R99. NR_STATUS.ERROR. -/
  error : Bool := false
  /-- R99. Head. -/
  head : Nat := 0
  /-- R99. Tail. -/
  tail : Nat := 0
  /-- R99. Entries written and not consumed. -/
  used : Nat := 0
  /-- R99, R54. Write phase. -/
  phase : Bool := true
  /-- R99, R64. Entries written and not announced. -/
  unann : Nat := 0
  deriving DecidableEq, Repr

/-- The PCIe side of one function (R104 to R106). -/
structure Func where
  /-- R105. Bus Master Enable. -/
  busMaster : Bool := false
  /-- R105. In D3hot. -/
  d3hot : Bool := false
  /-- R85, R101. Enable Relaxed Ordering. -/
  relaxed : Bool := true
  /-- R85. MSI-X Enable. -/
  msixEnable : Bool := false
  /-- R85. MSI-X Function Mask. -/
  msixMask : Bool := false
  /-- R83. Max Payload Size, as the field of Device Control: 128 B × 2^mps. -/
  mps : Nat := 0
  /-- R83. Max Read Request Size, as the field of Device Control: 128 B × 2^mrrs. -/
  mrrs : Nat := 2
  /-- R86. Base addresses of BAR0, BAR2 and BAR4. -/
  bar0 : Nat := 0
  bar2 : Nat := 0
  bar4 : Nat := 0
  /-- R85. Advanced Error Reporting: uncorrectable status, mask and severity, correctable status and mask. -/
  aerStatus : Nat := 0
  aerMask : Nat := 0x00400000
  aerSeverity : Nat := 0x00462030
  aerCorStatus : Nat := 0
  /-- R85. First Error Pointer, and the header log: the four DWORDs of a header, the first in the low bits. -/
  aerFirst : Nat := 0
  aerHeader : Nat := 0
  aerCorMask : Nat := 0x00006000
  deriving DecidableEq, Repr

/-- One MSI-X vector (R90, R91): its table entry and pending bit. -/
structure MsixVec where
  /-- R90. Message address. -/
  addr : Nat := 0
  /-- R90. Message data. -/
  data : Nat := 0
  /-- R91. Masked (vector control bit [0]). -/
  masked : Bool := true
  /-- R91. Pending bit. -/
  pending : Bool := false
  deriving DecidableEq, Repr

/-- What a part-issued read is for (R97, R98). -/
inductive ReadFor where
  | descriptor (queue : Nat)
  | data (queue tag : Nat)
  | pages (queue tag : Nat)
  deriving DecidableEq, Repr

/-- A part-issued read, not yet answered whole (R97). -/
structure PartRead where
  id : Nat
  what : ReadFor
  want : Nat
  got : Nat := 0
  /-- The bytes of a descriptor that have come. -/
  data : Bytes := []
  /-- Its host address. -/
  addr : Nat := 0
  /-- Where its bytes stand in what was asked for, a page list or a command's data. -/
  off : Nat := 0
  /-- Its PCIe tag once it is issued. -/
  tag : Option Nat := none
  deriving DecidableEq, Repr

/-- A transfer of a command that waits for its page list (R58): its length, the bytes it writes to the host, if any, and the bytes of the
list that have come. -/
structure Xfer where
  queue : Nat
  tag : Nat
  len : Nat
  write : Option Bytes
  list : Bytes
  deriving DecidableEq, Repr

/-- An upstream transaction that waits (R102): its source, 3 for a part-issued read and 4 for bulk data, and what is sent. -/
structure UpTxn where
  src : Nat
  out : Out
  deriving DecidableEq, Repr

/-- A host read of the MET, BIL or AON window that goes over the seam (R96): the DWORDs asked for and their byte lanes. -/
structure SeamRead where
  fn : Nat
  off : Nat
  words : Nat := 1
  lanes : Nat := 15
  deriving DecidableEq, Repr

/-- HBR (R83 to R110). -/
structure Hbr where
  /-- R104. Data Link Layer up. -/
  dlUp : Bool := false
  /-- R104. PERST_N asserted. -/
  perst : Bool := false
  /-- R103. Stall-absence in force. -/
  stallAbsent : Bool := false
  /-- R110. LINK_STATUS.SPEED. -/
  speed : Nat := 0
  /-- R110. LINK_STATUS.WIDTH. -/
  width : Nat := 0
  /-- R86, R546. SUBSYS of configuration space, loaded at D2 from the header of the slot that boots. -/
  subsys : Nat := 0
  /-- R105. Functions, by number. -/
  funcs : Tab Func := []
  /-- R88. VF Enable. -/
  vfEnable : Bool := false
  /-- R88. NumVFs. -/
  numVfs : Nat := 0
  /-- R88. ARI Capable Hierarchy. -/
  ari : Bool := false
  /-- R85, R97. 10-Bit Tag Requester Enable of physical function 0. -/
  tag10 : Bool := false
  /-- R617. Completion Timeout Value of physical function 0. -/
  ctoValue : Nat := 0
  /-- R617. Completion Timeout Disable of physical function 0. -/
  ctoDisable : Bool := false
  /-- R85. IDO Completion Enable of physical function 0. -/
  idoCpl : Bool := false
  /-- R95. Value last written to each doorbell: queue * 2 for the SQ tail, + 1 for the CQ head, 1 024 + ring for a
  ring's head in BAR2, 2 048 + k for that in BAR0 of virtual function k. -/
  doorbells : Tab Nat := []
  /-- R90. MSI-X vectors by global number. -/
  vectors : Tab MsixVec := []
  /-- R99. The 17 notice rings. -/
  rings : Tab Ring := []
  /-- R107. The held ring, oldest first. -/
  held : List Notice := []
  /-- R107. Size of the held ring in force, GiB. -/
  heldGib : Nat := 4
  /-- R100. Next NSEQ. -/
  nseq : Nat := 0
  /-- R97. Part-issued reads outstanding, in issue order. -/
  reads : List PartRead := []
  /-- R97. Identity of the next read. -/
  nextRead : Nat := 0
  /-- R103. A back-off is in force. -/
  backoff : Bool := false
  /-- R103. k of the latest stall episode. -/
  backoffK : Nat := 0
  /-- R103. Noon cycle of the latest stall episode. -/
  lastStall : Option Nat := none
  /-- R103. Noon cycle from which posted credits have stayed at zero, in the stall under way. -/
  zeroSince : Option Nat := none
  /-- R103. Noon cycle at which the back-off in force ends. -/
  backoffEnd : Nat := 0
  /-- R58. Transfers that wait for their page lists. -/
  xfers : List Xfer := []
  /-- R102. Upstream transactions that wait, in the order formed. -/
  upstream : List UpTxn := []
  /-- R89. Base address of the virtual functions' BAR0s. -/
  vfBar : Nat := 0
  /-- R7. Holding register of each function. -/
  holding : Tab Word := []
  /-- R8. Staged low words, by function * 2^26 + register offset. -/
  staged : Tab Word := []
  /-- R96. Seam-window reads outstanding. -/
  seamReads : List SeamRead := []
  /-- R96. Seam-window reads waiting in the receive buffer. -/
  seamWait : List SeamRead := []
  deriving DecidableEq, Repr

/-! ### Fabric, instances and power (FAB, VIN, PWR, AON) -/

/-- A burst request at a fabric target (R517). -/
structure Burst where
  port : Nat
  bytes : Nat
  write : Bool
  raised : Nat
  deriving DecidableEq, Repr

/-- One fabric target and its arbiter tree (R515 to R522). -/
structure Target where
  /-- R517. Requests waiting, in order of raising. -/
  waiting : List Burst := []
  /-- R518. The burst under way. -/
  now : Option Burst := none
  /-- R517. Port served last in each unit's rotation. -/
  lastPort : Tab Nat := []
  /-- R517. Unit served last in each group's rotation. -/
  lastUnit : Tab Nat := []
  /-- R517. Group served last in the root's rotation. -/
  lastGroup : Nat := 4
  /-- R519. Grants left in the present turn of the root. -/
  groupLeft : Nat := 0
  /-- R519. Grants left in the present turn of each group. -/
  unitLeft : Tab Nat := []
  /-- R519. Ports already granted within the present turn of the root. -/
  served : List Nat := []
  /-- R519, R521. Ports that were active when the present turn of a group's unit began, by group. -/
  joined : Tab (List Nat) := []
  deriving DecidableEq, Repr

/-- FAB (R515 to R523). -/
structure Fab where
  /-- R515. The six targets. -/
  targets : Tab Target := []
  /-- R522. Ports asserting QUIET. -/
  quiet : List Nat := []
  deriving DecidableEq, Repr

/-- The instance states of R60. -/
inductive InstState where
  | absent | ready | fencing | fenced
  deriving DecidableEq, Repr

/-- A fence under way (R528 to R532). -/
structure Fence where
  /-- R531. Noon cycle of the fence's first cycle. -/
  startNc : Nat
  /-- R535. Cause: 1 VIN.RESET, 2 VIN.DISABLE, 3 FLR, 4 function disable, 5 VIN.DESTROY. -/
  cause : Nat
  /-- R524. It began as a disable or a disable joined it. -/
  disable : Bool
  /-- R530. Units that have not acknowledged. -/
  waiting : List FenceUnit
  /-- R531. Commands that started or joined the fence. -/
  cmds : List CmdRef
  deriving DecidableEq, Repr

/-- One instance (R524 to R526). -/
structure Inst where
  /-- R524. State. -/
  state : InstState := .absent
  /-- R524. FUNC_DISABLED. -/
  disabled : Bool := false
  /-- R525. Epoch. -/
  epoch : Nat := 0
  /-- R535. Cause of the last fence. -/
  cause : Nat := 0
  /-- R535. Fences since DAWN. -/
  fences : Nat := 0
  /-- R526. Quotas. -/
  quota : Quotas := {}
  /-- R528. The fence under way. -/
  fence : Option Fence := none
  deriving DecidableEq, Repr

/-- VIN (R524 to R537). -/
structure Vin where
  /-- R524. The sixteen instances. -/
  insts : Tab Inst := []
  /-- R533. The instance table as last made durable in the checkpoint area: state, FUNC_DISABLED, epoch, quotas. -/
  saved : Tab Inst := []
  deriving DecidableEq, Repr

/-- The state of a power domain (R557). -/
inductive DomState where
  | off | ramping | on | fault
  deriving DecidableEq, Repr

/-- One of the 64 power domains (R540). -/
structure Domain where
  /-- R541. State. -/
  state : DomState := .off
  /-- R541. Ramp faults. -/
  faults : Nat := 0
  /-- R542, R556. The host has switched the domain off, and it is not yet on again. -/
  hostOff : Bool := false
  /-- R556. PWR.DOMAIN.SET commands waiting for the domain to stand ON or FAULT. -/
  cmds : List CmdRef := []
  deriving DecidableEq, Repr

/-- Why DAWN began (R545). -/
inductive ResetKind where
  | powerOn | duskReturn | noonRestart | loaderRestart
  deriving DecidableEq, Repr

/-- PWR (R538 to R557). -/
structure Pwr where
  /-- R540. The domains. -/
  domains : Tab Domain := [(48, { state := .on }), (49, { state := .on }), (50, { state := .on })]
  /-- R545. Reset the present DAWN started from, and the device state it was entered from. -/
  resetKind : ResetKind := .powerOn
  cameFrom : DevState := .night
  /-- R545. Register file saved at DUSK or Noon restart. -/
  savedRegs : Tab Word := []
  /-- R538. The supply is valid. -/
  supplyValid : Bool := true
  /-- R543. The 25 MHz reference is present. -/
  refOk : Bool := true
  /-- R543. Noon and Midnight PLL lock. -/
  pllLock : Bool := true
  /-- R538. CAUSE of the present DUSK. -/
  duskCause : Nat := 0
  /-- R551. Halt asked for by PWR.SHUTDOWN OP 1. -/
  haltAsked : Bool := false
  /-- R551. A DUSK save has ended. -/
  saveDone : Bool := false
  /-- R551. SYS_RST_N low. -/
  sysRst : Bool := false
  /-- R551. DUSK is halted. -/
  halted : Bool := false
  /-- R549. D7 waits for tamper hold to end. -/
  d7Waiting : Bool := false
  /-- R557. Microseconds spent in each stage. -/
  stageTime : Tab Nat := []
  /-- R557. DUSKs since manufacture (MRAM). -/
  duskCount : Nat := 0
  /-- R557. DUSKs with OVERRUN since manufacture (MRAM). -/
  overruns : Nat := 0
  /-- R557. DUSK_INFO of the last DUSK (MRAM). -/
  duskInfo : Nat := 0
  /-- R557. DRAM populated in GiB (board). -/
  dramGib : Nat := 32
  /-- R557. DRAM channels populated (board). -/
  dramChannels : Nat := 15
  /-- R592. THERM_N driven low. -/
  thermLow : Bool := false
  /-- R546, R599. BOOT_REC_N sampled low at D0. -/
  bootRec : Bool := false
  /-- R597. SRP_X16, and ETH0_SPD and ETH1_SPD (bit per port), sampled at the end of D1. -/
  srpX16 : Bool := false
  ethSpd : Nat := 0
  /-- R175, R197. The duty record and the broadcast counter in backup SRAM passed their CRC at D0. -/
  dutyOk : Bool := false
  bcastOk : Bool := false
  deriving DecidableEq, Repr

/-- A tamper record of NIGHT in backup SRAM (R552). -/
structure NightRec where
  time : Nat
  input : Nat
  cls : Nat
  deriving DecidableEq, Repr

/-- AON: the RTC, the backup SRAM and the tamper samplers (R552, R553, R558, R364). -/
structure Aon where
  /-- R553. RTC seconds. -/
  rtcSec : Nat := 0
  /-- R553. RTC fraction in mt. -/
  rtcFrac : Nat := 0
  /-- R553. RTC_VALID. -/
  rtcValid : Bool := false
  /-- R553. VBAT_LOW. -/
  vbatLow : Bool := false
  /-- R553. Last VBAT measurement, mV. -/
  vbatMv : Nat := 0
  /-- R558. VBAT_LOST at the last DAWN. -/
  vbatLost : Bool := false
  /-- R552. NIGHT tamper records in backup SRAM. -/
  nightRecs : List NightRec := []
  /-- R552. Alarms counted in NIGHT. -/
  nightAlarms : Nat := 0
  /-- R558. NIGHT_OVERFLOW. -/
  nightOverflow : Bool := false
  /-- R552. NIGHT entry RTC time. -/
  nightEntry : Nat := 0
  /-- R552. NIGHT exit RTC time. -/
  nightExit : Nat := 0
  /-- R558. NIGHTs since VBAT was last lost. -/
  nightCount : Nat := 0
  /-- R558. NIGHT records restored at the last DAWN. -/
  restored : Nat := 0
  /-- R558. Backup SRAM CRC failure at the last DAWN. -/
  crcFail : Bool := false
  /-- R175, R552. RFX duty state saved in backup SRAM with its RTC time. -/
  duty : Option (Nat × Tab (List Nat)) := none
  /-- R197, R552. MSH broadcast counter saved in backup SRAM. -/
  bcast : Option Nat := none
  deriving DecidableEq, Repr

/-! ### Time (TIM) -/

/-- The time states of R435. -/
inductive TimeState where
  | unset | free | locking | locked | holdover
  deriving DecidableEq, Repr

/-- One of the four sources (R437, R438). -/
structure Source where
  /-- R438. Consecutive good samples. -/
  good : Nat := 0
  /-- R437. Last offset, ns. -/
  offset : Int := 0
  /-- R437. A sample has been taken since the source last started. -/
  sampled : Bool := false
  /-- R438. Qualified. -/
  qualified : Bool := false
  /-- R438. Disqualified since it last qualified. -/
  disqualified : Bool := false
  /-- R438. Seconds it has stayed qualified. -/
  qualSecs : Nat := 0
  /-- R438. Seconds since the last sample. -/
  age : Nat := 0
  /-- R618. Noon cycle of the last sample. -/
  lastNc : Nat := 0
  deriving DecidableEq, Repr

/-- One PTP port (R437). -/
structure PtpPort where
  /-- R438. Grandmaster the Announce messages name. -/
  grandmaster : Option Nat := none
  /-- R437. clockClass of the parent. -/
  parentClass : Nat := 248
  /-- R437. The algorithm has put the port into master state. -/
  master : Bool := false
  /-- R437. Mean path delay, ns. -/
  delay : Int := 0
  /-- R437. t2 − t1 of the last Sync. -/
  syncDiff : Int := 0
  /-- R437. Sequence number of the next message sent. -/
  seq : Nat := 0
  deriving DecidableEq, Repr

/-- A launch-queue entry (R443): lane 0 PLC, 1 to 4 RFA, 5 to 8 RFB, 9 and 10 Ethernet; instant in ns of device time. -/
structure Launch where
  id : Nat
  lane : Nat
  instant : Nat
  owner : Nat
  ref : Nat
  deriving DecidableEq, Repr

/-- TIM (R431 to R450). -/
structure Tim where
  /-- R431. SEC. -/
  sec : Nat := 0
  /-- R431. NS. -/
  ns : Nat := 0
  /-- R431. FRAC, 2^-32 ns. -/
  frac : Nat := 0
  /-- R431. RATE, signed, 2^-32 ns per tick. -/
  rate : Int := 0
  /-- R618. F in units of 1 / (2^35 × 10^9) ppb. -/
  freq : Int := 0
  /-- R435. State. -/
  state : TimeState := .unset
  /-- R438. Selected source, 0 none. -/
  selected : Nat := 0
  /-- R438. Pinned source, 0 none. -/
  pinned : Nat := 0
  /-- R439. STATUS.STEPPED. -/
  stepped : Bool := false
  /-- R438. A host step has happened since DAWN. -/
  hostStepped : Bool := false
  /-- R432. TICK_REF_ACTIVE. -/
  tickRef : Bool := false
  /-- R618. The next sample is the first after a selection. -/
  firstSample : Bool := true
  /-- R435. Consecutive samples within LOCK_NS. -/
  inLock : Nat := 0
  /-- R437. The sources, by code. -/
  sources : Tab Source := []
  /-- R437. The PTP ports. -/
  ports : Tab PtpPort := []
  /-- R438, R510. The partner reports LOCKED on a source other than its own PARTNER. -/
  partnerLocked : Bool := false
  /-- R444. RATE in force while LOCKED, as runs of (rate, ticks), newest first, over the last 64 s. -/
  lockedRuns : List (Int × Nat) := []
  /-- R444. Held rate. -/
  heldRate : Int := 0
  /-- R444. HOLD_SECONDS. -/
  holdSeconds : Nat := 0
  /-- R441. PPS_OUT stands high. -/
  ppsHigh : Bool := false
  /-- R434. C_s, the converter count latched at the last device second. -/
  cs : Nat := 0
  /-- R434. D_s. -/
  ds : Nat := 51200000
  /-- R443. The launch queue, in firing order. -/
  queue : List Launch := []
  /-- R443. Identity of the next entry. -/
  nextLaunch : Nat := 0
  /-- R445. Entries returned to their owners as late. -/
  late : List Launch := []
  /-- R443. Entries fired, whose strobe the medium unit has not yet taken. -/
  fired : List Launch := []
  deriving DecidableEq, Repr

/-! ### Keys (KVT) -/

/-- A wrapped blob (R415) by its fields and the key it wraps. `bad` says that its bytes in DRAM no longer pass steps 1, 2, 4 or 5
of R416. -/
structure Blob where
  usage : Nat
  aes256 : Bool
  mode : Nat
  midnight : Bool
  mayLeave : Bool
  lc : Nat
  parentGen : Nat
  instGen : Nat
  inst : Nat
  ver : Nat
  key : Bytes
  bad : Bool := false
  deriving DecidableEq, Repr

/-- An unwrapped key with the tags of R419: its place, instance, life-cycle state, generations and epoch. -/
structure KeySnap where
  place : Nat
  inst : Nat
  usage : Nat
  mode : Nat
  aes256 : Bool
  key : Bytes
  lc : Nat := 0
  parentGen : Nat := 0
  instGen : Nat := 0
  ver : Nat := 0
  epoch : Nat := 0
  deriving DecidableEq, Repr

/-- What a key lookup gives (R216, R225): none asked for, absent, orphaned, purged since (R228), or the key. -/
inductive KeyRes where
  | none | absent | orphaned | purged | ok (k : KeySnap)
  deriving DecidableEq, Repr

/-- A change of the vault (R422): a key set created or deleted, a leaf put or removed, a generation raised, PAIR loaded. Leaves are
named by their PLACE (R415). -/
inductive KeyChange where
  | createSet (set inst : Nat)
  | deleteSet (set : Nat)
  | put (place : Nat) (b : Blob)
  | remove (place : Nat)
  | bumpSet (set : Nat)
  | bumpNgen (inst : Nat)
  | bumpIgen (inst : Nat)
  | pair (key : Option Bytes)
  deriving DecidableEq, Repr

/-- Where a change stands in R422: its NEXT record awaits the checkpoint, its commit record is verified and its targets are
written, or its key-set record awaits the second checkpoint write. -/
inductive KeyStage where
  | next | record | second
  deriving DecidableEq, Repr

/-- A key command under way (R422). -/
structure KeyOp where
  id : Nat
  cmd : CmdRef
  /-- R428. It is a KEY.INVALIDATE. -/
  inval : Bool := false
  change : KeyChange
  stage : KeyStage
  deriving DecidableEq, Repr

/-- A transport slot (R421): its key TK, its uses, and the device second of its agreement. -/
structure Transport where
  tk : Bytes
  uses : Nat := 0
  born : Nat := 0
  deriving DecidableEq, Repr

/-- KVT (R404 to R430). -/
structure Kvt where
  /-- R404. SEED, once generated. -/
  seed : Option Bytes := none
  /-- R404, R406. DEV's private material: v and ξ, derived once and kept apart from SEED. -/
  dev : Option Bytes := none
  /-- R408. Authority digests: 0 MANUFACTURER, 1 OWNER, 2 METROLOGY. -/
  auth : Tab Bytes := []
  /-- R412. CHALLENGE. -/
  challenge : Nat := 0
  /-- R414. The key sets in existence, with their instances. -/
  sets : Tab Nat := []
  /-- R415. The blobs, by PLACE. -/
  blobs : Tab Blob := []
  /-- R422. Key sets and blobs as the checkpoint area holds them, between the loss of DRAM and the load of D6. -/
  ckpt : Option (Tab Nat × Tab Blob) := none
  /-- R417. SET_GEN, VER4 and VER5 by key-set index; an absent entry is (1, 1, 1). -/
  setGens : Tab (Nat × Nat × Nat) := []
  /-- R417. NGEN and IGEN by instance; 1 where absent. -/
  ngen : Tab Nat := []
  igen : Tab Nat := []
  /-- R417. The Noon part's mirror of SET_GEN and NGEN; 1 where absent. -/
  mirSet : Tab Nat := []
  mirNgen : Tab Nat := []
  /-- R233. Group transmit counters by PLACE of the shared key: next value and durable ceiling. -/
  groups : Tab (Nat × Nat) := []
  /-- R413. PAIR. -/
  pairKey : Option Bytes := none
  /-- R419. The key cache, most recently used first. -/
  cache : List KeySnap := []
  /-- R420. The island cache, most recently used first. -/
  island : List KeySnap := []
  /-- R421. Transport slots by instance * 16 + slot. -/
  transport : Tab Transport := []
  /-- R422. Key commands under way, in dispatch order. -/
  ops : List KeyOp := []
  nextOp : Nat := 0
  /-- R422. NKEK values have been delivered to the Noon part. -/
  nkek : Bool := false
  /-- R423. Records redone at the last DAWN. -/
  redone : Nat := 0
  /-- R426. Spare rows in use, pages retired, token journal capacity and commit ring capacity in records (MRAM). -/
  spareRows : Nat := 0
  pagesRetired : Nat := 0
  journalCap : Nat := 256
  ringCap : Nat := 64
  deriving DecidableEq, Repr

/-! ### Frames, contexts and ingest (FSE, ING) -/

/-- A frame a medium unit has taken in (R24, R213). -/
structure RxFrame where
  /-- R234. Path: 0 PLC, 1 RFA, 2 RFB, 3 Afane-T. -/
  path : Nat := 0
  /-- R213. It is an Afane-R frame (an Afane-P frame otherwise). -/
  radio : Bool := false
  /-- R139, R188. The link frame. -/
  bytes : Bytes := []
  /-- R24. Medium-boundary stamp. -/
  rts : Nat := 0
  /-- R134. Chains that decoded it, or the channel of a radio frame. -/
  chans : Nat := 0
  /-- R207. Link quality in the path's own units. -/
  lq : Nat := 0
  /-- R132. Fallback flag. -/
  zcFallback : Bool := false
  /-- R169. Overload flag. -/
  overload : Bool := false
  /-- R207. Collector that forwarded it, with its CHAN and RX_TS. -/
  collector : Option (Nat × Nat × Nat) := none
  /-- R227. Noon cycle in which its integrity end enters FSE. -/
  ie : Nat := 0
  /-- R198. Device time in ns of the frame's last bit on the air. -/
  endNs : Nat := 0
  /-- R230. Its FCS fails. -/
  fcsBad : Bool := false
  /-- R168. Rate code and carrier offset, in 0.1 kHz, of a radio frame. -/
  rate : Nat := 0
  cfo : Int := 0
  /-- R495. It came from the partner's hold buffer or shadow stream. -/
  shadow : Bool := false
  deriving DecidableEq, Repr

/-- A route of an endpoint (R151): its relays from the part outward, the cost of the links beyond the first, validity and
whether a RERR has struck it. -/
structure PlcRoute where
  relays : List Nat := []
  rest : Nat := 0
  valid : Bool := false
  deriving DecidableEq, Repr

/-- Path statistics of one path (R238, R244). -/
structure PathStat where
  first : Nat := 0
  dup : Nat := 0
  lastHeard : Nat := 0
  lastLq : Nat := 0
  meanLq : Nat := 0
  lagMean : Nat := 0
  deriving DecidableEq, Repr

/-- A reading window of one class (R245). -/
structure ReadWin where
  high : Nat := 0
  map : Nat := 0
  lastEts : Nat := 0
  deriving DecidableEq, Repr

/-- An endpoint context (R238), by part. -/
structure Ctx where
  eui : Nat := 0
  inst : Nat := 0
  gen : Nat := 0
  kind : Nat := 0
  flags : Nat := 0
  profile : Nat := 0
  topoValid : Bool := false
  topoNode : Nat := 0
  feeder : Nat := 0
  keyset : Nat := 0
  fcntH : Nat := 0
  fcntMap : Nat := 0
  nseqH : Nat := 0
  nseqMap : Nat := 0
  txFcnt : Nat := 0
  txNseq : Nat := 0
  slots : List PlcRoute := []
  rxHandle : Nat := 0
  txHandle : Nat := 0
  mapStamp : Nat := 0
  chainMask : Nat := 0
  current : Nat := 0
  routePinned : Bool := false
  txSet : Nat := 0
  homePort : Nat := 0
  homeCh : Nat := 0
  homeRate : Nat := 0
  /-- R201. Port, channel and rate of the endpoint's last accepted frame. -/
  heardPort : Nat := 0
  heardCh : Nat := 0
  heardRate : Nat := 0
  upRelays : Nat := 0
  lastSync : Nat := 0
  upRoute : List Nat := []
  lastCollector : Nat := 0
  viaCollector : Bool := false
  lastAccFcnt : Nat := 0
  lastAccRts : Nat := 0
  lastAccPath : Nat := 0
  paths : Tab PathStat := []
  wins : Tab ReadWin := []
  regSnap : List Nat := []
  regEts : Nat := 0
  outStart : Nat := 0
  outEnd : Nat := 0
  outages : Nat := 0
  counts : List Nat := []
  gaps : Nat := 0
  created : Nat := 0
  host : Bytes := []
  deriving DecidableEq, Repr

/-- A canonical record (R250). -/
structure Rec where
  endpoint : Nat := 0
  inst : Nat := 0
  cls : Nat := 0
  typ : Nat := 0
  flags : Nat := 0
  path : Nat := 0
  relays : Nat := 0
  form : Nat := 0
  mt : Bool := false
  quality : Nat := 0
  ets : Nat := 0
  rts : Nat := 0
  seq : Nat := 0
  fcnt : Nat := 0
  values : Bytes := []
  tail : Bytes := []
  /-- R525. In the LOS queue: a fence of its virtual machine has begun since it was formed. -/
  old : Bool := false
  deriving DecidableEq, Repr

/-- A frame with its ACCEPT verdict on its way through ING (R25, R252, R254). -/
structure BbFrame where
  endpoint : Nat
  inst : Nat
  gen : Nat
  path : Nat
  relays : Nat
  rts : Nat
  fcnt : Nat
  zcFallback : Bool
  overload : Bool
  plain : Bytes
  slots : Nat
  held : Bool
  /-- R265, R525. A fence of its virtual machine has begun since its verdict. -/
  old : Bool := false
  deriving DecidableEq, Repr

/-- An open storm histogram (R261), keyed by instance, feeder group, type and bin start. -/
structure Histo where
  inst : Nat
  feeder : Nat
  typ : Nat
  bin : Nat
  len : Nat
  subs : List Nat := []
  total : Nat := 0
  first : Nat := 0
  last : Nat := 0
  /-- R261. Its record is due, and waits for room in COD's input (R286). -/
  due : Bool := false
  deriving DecidableEq, Repr

/-- A change an EP command asks for (R240, R266): a new context, a group of EP.WRITE, or the deletion. -/
inductive EpChange where
  | create (ctx : Ctx)
  | attr (kind flags profile : Nat) (topoValid : Bool) (topoNode feeder : Nat)
  | keyset (handle : Nat)
  | rxwin (fcntH fcntMap nseqH nseqMap : Nat)
  | txctr (fcnt nseq : Nat)
  | readwin (wins : List ReadWin)
  | pathclr
  | snapclr
  | host (b : Bytes)
  | delete
  deriving DecidableEq, Repr

/-- An EP command waiting for its turn or for its checkpoint write (R240). -/
structure EpCmd where
  cmd : CmdRef
  index : Nat
  change : EpChange
  deriving DecidableEq, Repr

/-- A write to the checkpoint area under way, with its identity (R197, R233, R240, R422): the EP command in execution, a dirty
context, the broadcast ceiling, a group counter's ceiling with the seal that waits for it, a key command's record. -/
inductive CkptJob where
  | ep
  | ctx (i : Nat) (x : Ctx)
  | bcast (ceil : Nat)
  | group (place ceil medium send : Nat)
  | key (op : Nat)
  deriving DecidableEq, Repr

/-- ING (R236 to R268). -/
structure Ing where
  /-- R237, R238. The contexts, by index; an index that never held a context is absent. -/
  ctxs : Tab Ctx := []
  /-- R240. Contexts as the checkpoint area holds them. -/
  ckpt : Tab Ctx := []
  /-- R240. Dirty contexts awaiting write-back. -/
  dirty : List Nat := []
  /-- R240. EP commands in dispatch order; the first is in execution. -/
  epq : List EpCmd := []
  /-- R240, R578. Writes to the checkpoint area under way, by identity. -/
  jobs : Tab CkptJob := []
  nextJob : Nat := 0
  /-- R240, R302. Next BSEQ when each dirty context, or one whose write is under way, first became dirty. -/
  dirtyAt : Tab Nat := []
  /-- R239. Resident contexts, most recently used first. -/
  cache : List Nat := []
  /-- R254. The burst buffer, oldest first. -/
  buffer : List BbFrame := []
  /-- R253. The billing forward queue. -/
  bilq : List Rec := []
  /-- R253. The gap list: copies to be read back from the archive. -/
  gap : List Rec := []
  /-- R253. STATUS.BIL_GAP. -/
  bilGap : Bool := false
  /-- R253. BILQ_CFG.SIZE_MIB in force. -/
  bilqMib : Nat := 1024
  /-- R253. The LOS queue. -/
  losq : List Rec := []
  /-- R257. STORM. -/
  storm : Bool := false
  /-- R257. Outage ARs counted in the present second. -/
  outageCount : Nat := 0
  /-- R257. Consecutive quiet seconds in storm. -/
  quiet : Nat := 0
  /-- R258. Rate allowance of each path, in frames. -/
  allow : Tab Nat := []
  /-- R261. Open histograms. -/
  hists : List Histo := []
  /-- R264. STATUS.ROLLFWD_DONE. -/
  rollDone : Bool := false
  /-- R264. Contexts are loaded from the checkpoint. -/
  loaded : Bool := false
  /-- R255, R267. Gates as last noticed, bit per path. -/
  gates : Nat := 0
  /-- R263, R264. The backfill list of the last DUSK. -/
  backfill : List Nat := []
  /-- R264. STATUS.BACKFILL_PRESENT. -/
  backfillPresent : Bool := false
  /-- R266. Endpoints of the bitmap handed to the host whose TLPs are not yet acknowledged, with the command. -/
  backfillRead : Option CmdRef := none
  /-- R266. Records formed by instance * 8 + class, and per-instance counters at instance * 8 + 7 up. -/
  formed : Tab Nat := []
  /-- R266. RESENDS, FLAGGED, STRUCT_DROP and AGGREGATED by instance * 4 + k. -/
  counts : Tab Nat := []
  deriving DecidableEq, Repr

/-! ### The power line (PLC) -/

/-- PLC.CONFIG (R159), reset at every DAWN. -/
structure PlcCfg where
  netEui : Nat := 0
  netId : Nat := 1
  retryMax : Nat := 4
  cw : Nat := 15
  hopPenalty : Nat := 8
  routeHyst : Nat := 16
  tmapMargin : Nat := 8
  tmapHyst : Nat := 15
  tmapAge : Nat := 24
  collectMs : Nat := 2048
  rdiscRate : Nat := 20
  routingEn : Bool := true
  tmapEn : Bool := true
  maxDefer : Nat := 500
  deriving DecidableEq, Repr

/-- The decoded fields of a PHR (R120). -/
structure Phr where
  rate : Nat
  depth : Nat
  dc : Bool
  coarse : Bool
  seg0 : Nat
  offUs : Nat
  cycleUs : Nat
  ncw : Nat
  tmap : Nat
  deriving DecidableEq, Repr

/-- A power-line frame in reception (R133, R134): its chains, the stamp of its earliest detection, its PHR once decided, and
the information bits of the codewords decoded. -/
structure PlcRx where
  id : Nat
  chains : List Nat
  rts : Nat
  /-- R134. All chains of the candidate group. -/
  group : List Nat := []
  /-- R24. Device time in ns of the first preamble sample at the converter. -/
  atNs : Nat := 0
  phr : Option Phr := none
  /-- R148. Device time in ns of the PHR decision. -/
  phrNs : Nat := 0
  words : Tab (List Bool) := []
  failed : Bool := false
  separate : Bool := false
  deriving DecidableEq, Repr

/-- Where a send stands (R145 to R152): waiting for its seal, contending, deferred under R117, ready to launch, on the medium,
awaiting its ACK, in a retry wait, waiting for a discovery, between multicast repeats. -/
inductive SendPhase where
  | contend | bandc | ready | onAir | await | retry | discover | gap
  deriving DecidableEq, Repr

/-- A frame of the part on its way to the power line: a command's or its own. -/
structure PlcSend where
  id : Nat
  cmd : Option CmdRef := none
  /-- R160. Destination endpoint of a unicast frame. -/
  ep : Option Nat := none
  /-- R139. The link frame; its RELAYS and ROUTE are formed at commit. -/
  link : Bytes := []
  /-- R232. It carries SECHDR and MIC, and under which KEYREF. -/
  sec : Bool := false
  keyref : Nat := 0
  /-- R139, R144. TYPE, BODY, MICLEN, ACKREQ, RATE and DST. -/
  typ : Nat := 0
  body : Bytes := []
  miclen : Nat := 0
  ackreq : Bool := false
  rate : Nat := 0
  dst : Nat := 0
  /-- R232. The seal is done (or none is needed). -/
  sealed : Bool := false
  /-- R233. FCNT drawn at the seal. -/
  fcnt : Nat := 0
  /-- R160. Chain override, 0 for R156. -/
  chains : Nat := 0
  /-- R160. LAUNCH_AT, in ns, of a frame sent at a stated time. -/
  at' : Option Nat := none
  phase : SendPhase := .contend
  started : Bool := false
  /-- R147. Attempts made in all, and on the present route. -/
  attempts : Nat := 0
  tries : Nat := 0
  /-- R160. Route in use, coded as ROUTE; routes used so far (R152). -/
  route : Nat := 0
  routesUsed : List Nat := []
  /-- R157. Repeats left and gap of a multicast, and its MCAST_ID. -/
  repeatsLeft : Nat := 0
  repeatsSent : Nat := 0
  gapCycles : Nat := 0
  mcastId : Nat := 0
  /-- R139. LSEQ of the last attempt. -/
  lseq : Nat := 0
  /-- R530. Its virtual machine was fenced with the frame in the launch queue: it goes out once, its outcome to the sink. -/
  orphan : Bool := false
  /-- R117. The random wait of its deferral, ms of free band. -/
  waitMs : Nat := 0
  /-- R147. Device time in ns of the last sample of its latest attempt. -/
  endNs : Nat := 0
  /-- R159. RETRY_MAX in force at its first attempt. -/
  retryMax : Nat := 0
  /-- R150. The relays of a frame routed back along a collected path. -/
  back : Option (List Nat) := none
  /-- R147. The neighbour that its latest attempt went to. -/
  hop : Nat := 0
  deriving DecidableEq, Repr

/-- An ACK the part may owe (R146, R148). -/
structure PlcAck where
  id : Nat
  /-- R144. The hop's transmitter and the LSEQ acknowledged. -/
  dst : Nat
  lseq : Nat
  lq : Nat
  chains : Nat
  /-- R146. ACK instant in ns. -/
  instant : Nat
  secured : Bool
  /-- R146. STATUS to send once the verdict is ACCEPT or DUPLICATE; none while it is not known. -/
  status : Option Nat
  /-- R146. The verdict was not ready 200 µs before the instant. -/
  late : Bool := false
  /-- R231. The verdict is neither ACCEPT nor DUPLICATE, or the FCS failed. -/
  refused : Bool := false
  /-- R148. Device time in ns of the frame's PHR decision. -/
  phrNs : Nat := 0
  /-- R24, R146. Medium-boundary stamp of the frame it acknowledges. -/
  rts : Nat := 0
  deriving DecidableEq, Repr

/-- What PLC keeps of a neighbour (R147, R151 to R156), by EUI-64. -/
structure PlcNbr where
  /-- R147. FAILS. -/
  fails : Nat := 0
  /-- R160. The transmit set is pinned by the host. -/
  pinned : Bool := false
  /-- R151. Device second at which it was last heard directly. -/
  direct : Option Nat := none
  /-- R153. Device second of the last TMREQ. -/
  tmreq : Option Nat := none
  /-- R155. Device second of the last TMRSP. -/
  tmrsp : Option Nat := none
  /-- R153. Its link has failed a send since the last TMREQ. -/
  failedSend : Bool := false
  /-- R154. Payload symbols observed of each segment. -/
  seen : Tab Nat := []
  /-- R154. Lowest carrier SNR of each group, 0.25 dB, by segment * 80 + group. -/
  snr : Tab Int := []
  /-- R126. Mean SNR per carrier of each segment, 0.25 dB. -/
  meanSnr : Tab Int := []
  deriving DecidableEq, Repr

/-- A path copy an RDISC brought (R150): its entries and the cost of the last link. -/
structure RdiscCopy where
  entries : List (Nat × Nat)
  last : Nat
  deriving DecidableEq, Repr

/-- An RDISC of an endpoint the part is collecting (R150). -/
structure Collect where
  src : Nat
  rdiscId : Nat
  penalty : Nat
  copies : List RdiscCopy
  deriving DecidableEq, Repr

/-- A discovery of the part's own (R150). -/
structure Disc where
  rdiscId : Nat
  found : List PlcRoute := []
  deriving DecidableEq, Repr

/-- The noise figures of one chain, segment and group (R135): MEAN in 1/65 536 dBµV, PEAK and IMPULSES. -/
structure Noise where
  mean : Nat := 0
  peak : Nat := 0
  impulses : Nat := 0
  /-- R135. The mains cycle being measured, by its start in ns, with the sum and the count of its windows' levels so far. -/
  cycle : Nat := 0
  sum : Nat := 0
  count : Nat := 0
  deriving DecidableEq, Repr

/-- The zero-crossing reference (R130 to R132). -/
structure Zc where
  /-- R130. 0 none, 1 MET, 2 coarse, 3 holdover, 4 DC. -/
  source : Nat := 0
  /-- R131. A change of source waiting for the frame on the medium to end. -/
  pending : Option Nat := none
  /-- R131. Consecutive valid crossings of MET and of the coarse detector. -/
  metRun : Nat := 0
  coarseRun : Nat := 0
  /-- R138. Consecutive valid crossings of the source in use. -/
  run : Nat := 0
  /-- R138. Last measured period of the reference, ns. -/
  period : Nat := 0
  /-- R138. Device time in ns of the latest start of segment 0. -/
  last : Nat := 0
  /-- R138. Last crossing of each MET channel in ns, and validity. -/
  chanLast : Tab Nat := []
  chanValid : Nat := 0
  coarseLast : Nat := 0
  coarseValid : Bool := false
  /-- R131. Device time in ns of the last valid crossing of MET's reference channel and of the coarse detector. -/
  metAt : Nat := 0
  coarseAt : Nat := 0
  deriving DecidableEq, Repr

/-- PLC (R111 to R161). -/
structure Plc where
  /-- R159. Configuration in force. -/
  cfg : PlcCfg := {}
  /-- R127, R138. The tone-map pool: set number to 384 bytes; set 0 is fixed and not listed. -/
  pool : Tab Bytes := []
  /-- R138. Sets in the pool, applied at DAWN. -/
  poolSize : Nat := 65536
  /-- R155. Endpoints holding each receive handle. -/
  holders : Tab Nat := []
  /-- R155. Device second at which a handle's count fell to zero. -/
  freed : Tab Nat := []
  /-- R147. Neighbours by EUI-64. -/
  nbrs : Tab PlcNbr := []
  /-- R160. Sends in dispatch order. -/
  sends : List PlcSend := []
  nextId : Nat := 0
  /-- R113. Send or ACK on the medium. -/
  onAir : Option Nat := none
  /-- R113. Device time in ns of the first sample of the frame on the medium, and of the last sample of the latest one. -/
  airNs : Nat := 0
  airEnd : Nat := 0
  /-- R113. Receive blanking runs to this instant, ns. -/
  blankUntil : Nat := 0
  /-- R117. No launch before this instant, ns. -/
  pauseUntil : Nat := 0
  /-- R146. ACKs owed. -/
  acks : List PlcAck := []
  /-- R148. Instant of the latest ACK sent. -/
  ackSent : Option Nat := none
  /-- R133. Frames in reception. -/
  rx : List PlcRx := []
  /-- R139. Frames for PLC itself, oldest first. -/
  inbox : List RxFrame := []
  /-- R139. Next LSEQ. -/
  lseq : Nat := 0
  /-- R150. Next RDISC_ID, discoveries under way by endpoint, and the device seconds of recent ones. -/
  rdiscId : Nat := 0
  discs : Tab Disc := []
  rdiscTimes : List Nat := []
  /-- R150. Endpoints whose discovery waits for RDISC_RATE, oldest first. -/
  discWait : List Nat := []
  /-- R150. RDISCs being collected. -/
  collects : List Collect := []
  /-- R150. Discoveries of endpoints that the part has answered: source, RDISC_ID, and the second of the answer. -/
  answered : List (Nat × Nat × Nat) := []
  /-- R157. Next MCAST_ID of each group. -/
  mcastIds : Tab Nat := []
  /-- R130. Zero-crossing reference. -/
  zc : Zc := {}
  /-- R135. Noise figures by (chain * 12 + segment) * 80 + group. -/
  noise : Tab Noise := []
  /-- R117. The band C band counts as in use; since when each chain has measured BIU_LEVEL, and when the band last came free. -/
  bandBusy : Bool := false
  lbtSince : Tab Nat := []
  bandFreeNs : Nat := 0
  /-- R160. The 23 counters of PLC.STATUS, by number. -/
  counts : Tab Nat := []
  deriving DecidableEq, Repr

/-! ### The radio (RFX) -/

/-- A radio frame in reception (R168, R171): its demodulator's channel, rate, stamp of the first preamble bit, RSSI in 0.5 dB
above −160 dBm, carrier offset in 0.1 kHz, overload flag, and its PHR once decided (LEN, WHITEN). -/
structure RfRx where
  id : Nat
  port : Nat
  ch : Nat
  rate : Nat
  rts : Nat
  rssi : Nat
  cfo : Int
  overload : Bool
  phr : Option (Nat × Bool) := none
  deriving DecidableEq, Repr

/-- A radio frame on the air (R172 to R174): MSH's reference, its transmit channel, and what was charged for it. -/
structure RfTx where
  ref : Nat
  port : Nat
  slot : Nat
  ch : Nat
  rate : Nat
  startNs : Nat
  onTime : Nat
  /-- R167. Preamble bits. -/
  preamble : Nat := 32
  /-- R174. Regions charged, and the buckets that have begun since. -/
  regions : List Nat := []
  age : Nat := 0
  deriving DecidableEq, Repr

/-- One sample port (R162 to R175). -/
structure RfPort where
  /-- R164. CLK_PRESENT. -/
  clk : Bool := false
  /-- R164. FRAMED. -/
  framed : Bool := false
  /-- R164. The port had no clock when D5 began and stays down. -/
  down : Bool := false
  /-- R169, R178. Gain code in force, and the latest codes before it with the device times in ns to which they held, newest first. -/
  gain : Nat := 0
  gains : List (Nat × Nat) := []
  /-- R178. Clipped samples in the last block. -/
  clipped : Nat := 0
  /-- R169. Consecutive quiet blocks. -/
  quietBlocks : Nat := 0
  /-- R169. Blocks for which OVERLOAD still holds. -/
  overload : Nat := 0
  /-- R170. Channels jammed. -/
  jammed : List Nat := []
  /-- R175. DUTY_STATE_LOST. -/
  dutyLost : Bool := false
  /-- R173. Device time in ns to which the receive side stays blanked. -/
  blankUntil : Nat := 0
  /-- R162. TXEN. -/
  txen : Bool := false
  deriving DecidableEq, Repr

/-- RFX (R162 to R178). -/
structure Rfx where
  /-- R162. The two ports. -/
  ports : Tab RfPort := []
  /-- R171. Frames in reception, one demodulator each. -/
  rx : List RfRx := []
  nextId : Nat := 0
  /-- R171. DEMOD_POOL.SIZE in force. -/
  poolSize : Nat := 256
  /-- R172. Frames on the air. -/
  tx : List RfTx := []
  /-- R173. Frames cut short, each with the device time in ns at which its ramp ends. -/
  ending : List (RfTx × Nat) := []
  /-- R170. Device time in ns of the last valid sync detection on each channel, port * 128 + channel. -/
  lastSync : Tab Nat := []
  /-- R174. On-time in µs of each region, port * 8 + region: the present bucket first, sixty in all. -/
  buckets : Tab (List Nat) := []
  /-- R174. Device time in ns of the end of each region's last transmission. -/
  lastEnd : Tab Nat := []
  /-- R174. On-time in µs of each channel, port * 128 + channel, as for a region. -/
  chanTime : Tab (List Nat) := []
  /-- R178. Noise floor of each channel, dB below full scale, as last measured. -/
  floor : Tab Nat := []
  deriving DecidableEq, Repr

/-! ### Frame security (FSE) -/

/-- A frame in FSE's intake with what its lookups gave (R214 to R219): the contexts of SRC and of the hop transmitter with their GEN,
the misses charged, and the keys. -/
structure FseFrame where
  frame : RxFrame
  /-- R231. TYPE, SRC, FCNT and KEYREF as in the frame. -/
  src : Option (Nat × Nat) := none
  hop : Option (Nat × Nat) := none
  /-- R225. A context the frame needs was missing at lookup. -/
  noCtx : Bool := false
  ctxMiss : Bool := false
  keyMiss : Bool := false
  /-- R218, R219. Context fills and key unwraps its lookups need, and the noon cycle in which it is parsed. -/
  fills : Nat := 0
  unwraps : Nat := 0
  startNc : Nat := 0
  micKey : KeyRes := .none
  tagKey : KeyRes := .none
  /-- R225. The sender's virtual machine was not READY at lookup; R229, R525: a fence of it has begun since. -/
  shut : Bool := false
  old : Bool := false
  deriving DecidableEq, Repr

/-- FSE (R213 to R235). -/
structure Fse where
  /-- R24. Frames the medium units offer, oldest first. -/
  offered : List RxFrame := []
  /-- R214. Frames in the intake, in order of arrival. -/
  intake : List FseFrame := []
  /-- R230. Radio frames whose FCS fails and whose verdict is due. -/
  fcsDue : List RxFrame := []
  /-- R234. Unknown-source notices in the present second: the second and their number. -/
  noctx : Nat × Nat := (0, 0)
  /-- R234. Endpoints whose first ORPHANED_KEY since the change of their key set has been noticed. -/
  orphaned : List Nat := []
  /-- R234. Consecutive REPLAY verdicts of each endpoint. -/
  replays : Tab Nat := []
  deriving DecidableEq, Repr

/-! ### The mesh (MSH) -/

/-- A frame of the part on its way to the radio (R199, R205, R209, R210): a command's, a MACCMD or a flood. -/
structure MshSend where
  id : Nat
  cmd : Option CmdRef := none
  /-- R160, R209. Destination endpoint, none for a flood. -/
  ep : Option Nat := none
  /-- R188. TYPE, DST and plain BODY. -/
  typ : Nat := 0
  dst : Nat := 0
  body : Bytes := []
  ackreq : Bool := false
  sec : Bool := false
  keyref : Nat := 0
  miclen : Nat := 0
  rate : Nat := 0
  /-- R209. TUNNEL. -/
  tunnel : Bool := false
  /-- R209. WHEN: 0 first opportunity, 1 night slot, 2 piggyback, 3 at LAUNCH_AT. -/
  when' : Nat := 0
  at' : Option Nat := none
  /-- R210. Device time in ns at which it expires. -/
  expire : Option Nat := none
  /-- R196. FCNT, and SECHDR with ciphertext and MIC, once sealed. -/
  sealed : Bool := false
  fcnt : Nat := 0
  sealedBody : Bytes := []
  /-- R196. ROUTE of the frame, fixed at commit. -/
  route : List Nat := []
  /-- R199. Launch instant and end of the last attempt, ns. -/
  launchNs : Nat := 0
  endNs : Nat := 0
  /-- R200. It was sent with FPEND set. -/
  fpend : Bool := false
  started : Bool := false
  /-- R199. Attempts made, and the NSEQ, port and channel of the last. -/
  attempts : Nat := 0
  nseq : Nat := 0
  port : Nat := 0
  ch : Nat := 0
  /-- R199. On the air, awaiting its ACK, or waiting for an opportunity. -/
  phase : SendPhase := .ready
  /-- R199. First slot that a retry may take. -/
  retryAsn : Nat := 0
  /-- R205. Slot in which the last copy on each port was launched. -/
  copyAsn : Tab Nat := []
  /-- R205. TTL, ports and copies of a flood still to send on each, FLOOD_ID and copies sent. -/
  ttl : Nat := 0
  ports : Nat := 0
  repeats : Nat := 0
  sent : Tab Nat := []
  floodId : Nat := 0
  /-- R211. MACCMD code and assignment ID. -/
  macCmd : Nat := 0
  macId : Nat := 0
  /-- R530. Its virtual machine was fenced with the frame in the launch queue: it goes out once, its outcome to the sink. -/
  orphan : Bool := false
  deriving DecidableEq, Repr

/-- MSH.CONFIG (R209), reset at every DAWN. -/
structure MshCfg where
  netEui : Nat := 0
  netId : Nat := 1
  k : Nat := 0
  beaconSlots : Nat := 16
  retryMax : Nat := 3
  guardMax : Nat := 2000
  concGroup : Nat := 1
  hopKeyref : Nat := 0
  /-- R194, R414. Instance whose shared key HOP_KEYREF names. -/
  hopInst : Nat := 0
  deriving DecidableEq, Repr

/-- MSH.BEACON.SET (R210). -/
structure BeaconCfg where
  en : Bool := false
  rate : Nat := 0
  chA : Nat := 0
  chB : Nat := 0
  ports : Nat := 0
  ann : Bytes := []
  leap : Nat := 0
  deriving DecidableEq, Repr

/-- An assignment (R201): kind 0 UPLINK, 1 RBEACON, 2 HOME. -/
structure Assign where
  id : Nat
  ep : Nat
  kind : Nat
  port : Nat
  ch : Nat
  rate : Nat
  p : Nat
  slot : Nat
  phase : Nat
  span : Nat
  deriving DecidableEq, Repr

/-- A night-slot agreement (R202). -/
structure Night where
  port : Nat
  ch : Nat
  rate : Nat
  p : Nat
  slot : Nat
  phase : Nat
  drift : Nat
  active : Bool := false
  /-- R211. A GUARD_SKIP has been noticed since the endpoint's last synchronisation. -/
  skipped : Bool := false
  /-- R202. The send of the MACCMD that carries it. -/
  mac : Nat := 0
  deriving DecidableEq, Repr

/-- An ACK MSH may owe (R198). -/
structure MshAck where
  dst : Nat
  nseq : Nat
  /-- R24, R198. Medium-boundary stamp of the frame it acknowledges. -/
  rts : Nat := 0
  lq : Nat
  port : Nat
  ch : Nat
  rate : Nat
  /-- R198. Instant of its first preamble bit, ns. -/
  instant : Nat
  status : Option Nat := none
  late : Bool := false
  refused : Bool := false
  deriving DecidableEq, Repr

/-- A piggyback window (R200): a frame announced to an endpoint, with port, channel, rate and the instant of its preamble. -/
structure Piggy where
  send : Nat
  port : Nat
  ch : Nat
  rate : Nat
  instant : Nat
  deriving DecidableEq, Repr

/-- A collector as MSH last heard it (R208): device time in ns, Ethernet port, source address and UDP port of its latest datagram. -/
structure Collector where
  last : Nat
  eth : Nat
  address : Nat
  port : Nat
  down : Bool := false
  deriving DecidableEq, Repr

/-- MSH (R179 to R212). -/
structure Msh where
  cfg : MshCfg := {}
  /-- R209. The K set last and the BIN, divisible by 64, from which it holds. -/
  kNext : Option (Nat × Nat) := none
  /-- R182. The slot map, 256 bytes per interval; empty is all SHARED. -/
  map : Bytes := []
  /-- R182. The map loaded last and the BIN, the start of a superframe, from which it holds. -/
  mapNext : Option (Bytes × Nat) := none
  mapVersion : Nat := 0
  beacon : BeaconCfg := {}
  /-- R210. A beacon configuration set last, and the device time in ns from which an interval start takes it. -/
  beaconNext : Option (BeaconCfg × Nat) := none
  /-- R180. BINs beaconed on each port, as runs from a first to a last, the latest first. -/
  beaconed : Tab (List (Nat × Nat)) := []
  /-- R192, R197. The broadcast counter, its durable ceiling, and BCAST_RESTORED. -/
  bcast : Nat := 1
  bcastCeil : Nat := 65536
  /-- R197. The ceiling as the checkpoint area holds it. -/
  bcastSaved : Option Nat := none
  restored : Bool := false
  /-- R209. Sends in dispatch order. -/
  sends : List MshSend := []
  nextId : Nat := 0
  /-- R201. Assignments. -/
  assigns : List Assign := []
  /-- R202. Agreements, by endpoint. -/
  nights : Tab Night := []
  /-- R198. ACKs owed. -/
  acks : List MshAck := []
  /-- R200. Piggyback window announced. -/
  piggy : List Piggy := []
  /-- R205. Next FLOOD_ID. -/
  floodId : Nat := 0
  /-- R206. The seen-message cache, oldest first: SRC, FLOOD_ID and device time in ns. -/
  seen : List (Nat × Nat × Nat) := []
  /-- R208. Collectors, by EUI-64. -/
  collectors : Tab Collector := []
  /-- R188. Frames from RFX, oldest first. -/
  inbox : List RxFrame := []
  /-- R199. ACKs that FSE has passed or that need no FSE, oldest first. -/
  ackbox : List RxFrame := []
  deriving DecidableEq, Repr

/-! ### Record coding (COD) -/

/-- The references of a stream within a block (R275, R277). -/
structure Refs where
  ep : Nat := 0
  b47 : Nat := 0
  ets : Nat := 0
  seq : Nat := 0
  fcnt : Nat := 0
  v : List Nat := [0, 0, 0]
  tail : Nat := 0
  /-- R277. Quantised references by word position. -/
  q : List Int := List.replicate 12 0
  deriving DecidableEq, Repr

/-- An extremes entry (R278). -/
structure ExtEntry where
  typ : Nat
  form : Nat
  word : Nat
  q : Nat
  minRec : Nat
  maxRec : Nat
  min : Int
  max : Int
  deriving DecidableEq, Repr

/-- The open block of a stream (R269, R271). -/
structure OpenBlock where
  bounded : Bool
  payload : Bytes := []
  nrec : Nat := 0
  ext : List ExtEntry := []
  refs : Refs := {}
  epMin : Nat := 0
  epMax : Nat := 0
  etsMin : Nat := 0
  etsMax : Nat := 0
  rtsMax : Nat := 0
  /-- R281. Noon cycle in which its first record entered it. -/
  since : Nat := 0
  deriving DecidableEq, Repr

/-- A closed block (R271): the fields of its header that ARC consults, and its 4 096 bytes. -/
structure Block where
  inst : Nat
  cls : Nat
  cause : Nat
  bseq : Nat
  nrec : Nat
  epMin : Nat
  epMax : Nat
  etsMin : Nat
  etsMax : Nat
  rtsMax : Nat
  bytes : Bytes
  /-- R309, R525. A fence of its virtual machine has begun since it closed: no notice tells of it. -/
  old : Bool := false
  deriving DecidableEq, Repr

/-- An open block whose close FLUSH or QCOMMIT asked for and that has not reached ARC (R283, R288): the FLUSH bit (7 for QCOMMIT), its
stream, and its BSEQ once closed. -/
structure CodWatch where
  bit : Nat
  stream : Nat
  bseq : Option Nat := none
  deriving DecidableEq, Repr

/-- COD (R269 to R288). -/
structure Cod where
  /-- R286. COD's input, oldest first. -/
  input : List Rec := []
  /-- R269. Open blocks by stream, instance * 8 + class. -/
  opens : Tab OpenBlock := []
  /-- R286. Closed blocks that ARC has not yet taken, in closing order. -/
  held : List Block := []
  /-- R286. Closes decided and not carried out: stream and CAUSE. -/
  waiting : List (Nat × Nat) := []
  /-- R272. Next BSEQ. -/
  bseq : Nat := 0
  /-- R283. The live table of steps, by (TYPE - 0x60) * 16 + WORD; 1 where absent. -/
  live : Tab Nat := []
  /-- R286. Noon cycle at which STALLED rose. -/
  stalledAt : Option Nat := none
  /-- R9, R283, R288. Blocks for which FLUSH and QCOMMIT still read 1. -/
  watch : List CodWatch := []
  deriving DecidableEq, Repr

/-! ### The archive (ARC) -/

/-- A namespace (R292, R319). -/
structure NsCfg where
  owner : Nat := 0
  protect : Nat := 0
  worm : Bool := false
  wrap : Bool := false
  noticeMode : Nat := 0
  pgWidth : Nat := 0
  classes : Nat := 0
  quota : Nat := 0
  retainDays : Nat := 0
  deriving DecidableEq, Repr

/-- An extent's map entry and summary (R294, R303, R312). `state`: 1 OPEN, 2 FULL, 3 SEALED, 4 PARITY, 5 RELEASING; an AEN that is
FREE has no extent. A copy is a slot and a physical extent. -/
structure ExtMeta where
  ns : Nat
  nsSeq : Nat
  state : Nat := 1
  degraded : Bool := false
  temp : Bool := false
  fill : Nat := 0
  loc0 : Option (Nat × Nat) := none
  loc1 : Option (Nat × Nat) := none
  /-- R293. Base AEN of its parity group. -/
  group : Option Nat := none
  sealTs : Nat := 0
  digest : Bytes := []
  deriving DecidableEq, Repr

/-- An extent: its map entry and its blocks by position (R294, R296). -/
structure Extent where
  info : ExtMeta
  /-- R296. Blocks placed; those at `info.fill` and beyond are not durable. -/
  blocks : List Block := []
  /-- R296. Its ALLOC entry is committed. -/
  ready : Bool := false
  /-- R303. It takes no further position and closes when its last block is durable; the ARC.SEAL that waits. -/
  closing : Bool := false
  sealCmd : Option CmdRef := none
  /-- R311. Positions with no good source. -/
  lost : List Nat := []
  /-- R301. FILL as last journaled. -/
  fillLogged : Nat := 0
  /-- R292, R305. An extent of namespace 0 that holds system data and no blocks of a stream: kind (1 map image, 2 summaries, 3 checkpoint
  area, 4 backfill bitmap, 5 owed-completion lists, 6 spill area) and number. -/
  sys : Option (Nat × Nat) := none
  deriving DecidableEq, Repr

/-- A parity group (R293): namespace, base AEN, data extents, and whether it keeps its temporary copies. -/
structure PGroup where
  ns : Nat
  base : Nat
  width : Nat
  noParity : Bool
  deriving DecidableEq, Repr

/-- Copies of a block whose writes have not completed (R296, R297); POS 1024 is a parity extent as a whole. -/
structure ArcWrite where
  aen : Nat
  pos : Nat
  slots : List Nat
  deriving DecidableEq, Repr

/-- A Deallocate under way (R290, R295): the physical extent, and the AEN it releases. -/
structure Dealloc where
  slot : Nat
  phys : Nat
  aen : Option Nat
  deriving DecidableEq, Repr

/-- A drive of the set (R290, R313). Stage: 1 NORMAL, 2 WATCH, 3 SPARE_LOW, 4 READ_ONLY, 5 FAILED, 6 JOINING, 7 EVACUATING. -/
structure Drive where
  disc : Nat
  serial : Nat := 0
  stage : Nat := 1
  usable : Nat := 0
  root : Nat := 0
  /-- R290. Physical extents in use, the label's and the journal's included. -/
  used : List Nat := [0]
  spare : Nat := 0
  wearPct : Nat := 0
  latency : Nat := 0
  mediaErr : Nat := 0
  /-- R313. Media errors read in the last 24 h: device second and count. -/
  errLog : List (Nat × Nat) := []
  /-- R313. Device second of the latest WATCH condition. -/
  watchAt : Nat := 0
  /-- R313. Device second of the last command timeout. -/
  timeoutAt : Option Nat := none
  /-- R316. The ARC.DRIVE.REMOVE commands that empty it. -/
  cmds : List CmdRef := []
  /-- R289. I/O queue pairs and their depth. -/
  pairs : Nat := 8
  depth : Nat := 1024
  deriving DecidableEq, Repr

/-- What a journal entry makes durable (R301). -/
inductive JWhat where
  | alloc (aen : Nat) (m : ExtMeta)
  | extent (aen : Nat) (m : ExtMeta)
  | free (aen : Nat)
  | ns (n : Nat) (c : Option NsCfg)
  | drive (slot : Nat)
  | ceil (n : Nat)
  | horizon (n : Nat)
  | init
  deriving DecidableEq, Repr

/-- A journal entry with the command it completes: status OK, RESULT0. -/
structure JEntry where
  what : JWhat
  done : Option (CmdRef × Nat) := none
  deriving DecidableEq, Repr

/-- A query or export (R310, R312). -/
structure ArcJob where
  cmd : CmdRef
  query : Option QueryIn := none
  exporting : Option ExportIn := none
  /-- R310. Place of the next record: NS_SEQ, position, record. -/
  seq : Nat := 0
  pos : Nat := 0
  rcd : Nat := 0
  /-- R310. Items written, and their bytes. -/
  items : Nat := 0
  out : Bytes := []
  keys : List (Nat × Nat × Nat × Nat) := []
  dups : Nat := 0
  read : Nat := 0
  bad : Nat := 0
  repaired : Nat := 0
  skipped : Nat := 0
  lastBseq : Nat := 0
  /-- R310. It runs, and its next block has been asked for. -/
  asked : Bool := false
  /-- R312. NS_SEQ of the last extent whose descriptor an export has written. -/
  described : Option Nat := none
  deriving DecidableEq, Repr

/-- A namespace deletion or release under way (R319): extents still to be freed. -/
structure NsDel where
  cmd : CmdRef
  ns : Nat
  whole : Bool
  aens : List Nat
  freed : Nat := 0
  deriving DecidableEq, Repr

/-- The phases of the archive behind ARC_STATE (R308, R322). -/
inductive ArcPhase where
  | noSet | recovering | up | failed
  deriving DecidableEq, Repr

/-- ARC (R289 to R322). -/
structure Arc where
  phase : ArcPhase := .noSet
  /-- R308. UNCLEAN. -/
  unclean : Bool := false
  /-- R290. Controllers found, by discovery index. -/
  found : List CtrlIn := []
  /-- R290. Set identifier and generation. -/
  setId : Nat := 0
  setGen : Nat := 0
  /-- R290. Drives by slot. -/
  drives : Tab Drive := []
  /-- R290, R314. Journal slots, and the copy of the journal that is missing. -/
  journal : List Nat := []
  journalSingle : Bool := false
  /-- R322. JOURNAL_GIB of the live journal; MAP_UNITS and HOLD_MIB in force. -/
  journalGib : Nat := 4
  mapUnits : Nat := 64
  holdMib : Nat := 1024
  /-- R292. Namespaces. -/
  nss : Tab NsCfg := []
  /-- R294. Extents by AEN. -/
  map : Tab Extent := []
  groups : List PGroup := []
  /-- R294. Next NS_SEQ of each namespace. -/
  nextSeq : Tab Nat := []
  /-- R296. Writes outstanding. -/
  writes : List ArcWrite := []
  /-- R298. Blocks to be rewritten into the next extent of their namespace, taken before any other. -/
  redo : List (Nat × Block) := []
  /-- R295. Deallocates under way. -/
  deallocs : List Dealloc := []
  /-- R299, R318. Namespaces held with their notice raised. -/
  nsHeld : List Nat := []
  /-- R297, R319. RTS_MAX and BSEQ of the last durable block of each namespace. -/
  lastDur : Tab (Nat × Nat) := []
  /-- R317. The billing hold with each block's namespace, oldest first; HOLDING; and the BSEQs of blocks drained from the hold. -/
  hold : List (Nat × Block) := []
  holding : Bool := false
  drained : List Nat := []
  /-- R315. The notice that the reserve is exhausted is raised. -/
  reserveOut : Bool := false
  /-- R301. Entries of the page in flight, entries for the next pages, and the page sequence. -/
  page : List JEntry := []
  waiting : List JEntry := []
  pageSeq : Nat := 0
  /-- R301, R314. The pages of the journal ring, newest first, by page sequence; and the journal's extents on each journal drive. -/
  ring : List (Nat × Bytes) := []
  journalExts : Tab (List Nat) := []
  /-- R302. Map pages of the image still to be written, with the page sequence of the oldest entry that changed them. -/
  imgDirty : Tab Nat := []
  /-- R302. BSEQ ceiling, the raise asked for, and the checkpoint horizon. -/
  ceil : Nat := 0
  ceilAsked : Bool := false
  horizon : Nat := 0
  /-- R301. What the committed entries hold: extents, namespaces, horizon reported. -/
  durMap : Tab ExtMeta := []
  durNss : Tab NsCfg := []
  horizonAsked : Nat := 0
  /-- R308. The latest DUSK or DAWN entry is a DUSK entry. -/
  duskMark : Bool := false
  /-- R305. Spill list: hold blocks saved at DUSK. -/
  spill : List (Nat × Block) := []
  /-- R305. The saved backfill bitmap. -/
  savedBackfill : List Nat := []
  /-- R310. Queries and exports, the first four running. -/
  jobs : List ArcJob := []
  /-- R319. Deletions and releases under way. -/
  dels : List NsDel := []
  deriving DecidableEq, Repr

/-! ### Energy balance (LOS) -/

/-- The configuration of LOS.CONFIG (R339). -/
structure LosCfg where
  balS : Nat := 900
  graceS : Nat := 1800
  coverMin : Nat := 950
  flagM : Nat := 4
  flagN : Nat := 3
  absMin : Nat := 2000
  relPpm : Nat := 10000
  histStep : Nat := 2000
  phWindow : Nat := 672
  phRmin : Nat := 26214
  phMargin : Nat := 6554
  deriving DecidableEq, Repr

/-- The lane of one balance interval (R328): per node the consumers' energy and seconds, and the check meter's energy, present where
it has an entry; the feeder's energy; and QUEUE_LOSS (R330). -/
structure LosLane where
  energy : Tab Int := []
  secs : Tab Nat := []
  check : Tab Int := []
  head : Option Int := none
  queueLoss : Bool := false
  deriving DecidableEq, Repr

/-- A balance result (R332). -/
structure LosResult where
  start : Nat
  status : Nat
  pos : Bool := false
  neg : Bool := false
  ntlFlag : Bool := false
  negFlag : Bool := false
  queueLoss : Bool := false
  cover : Nat := 0
  late : Nat := 0
  inp : Int := 0
  out : Int := 0
  tech : Int := 0
  ntl : Int := 0
  thr : Int := 0
  ratio : Int := 0
  deriving DecidableEq, Repr

/-- What LOS keeps of a measured node across intervals (R333, R334): the exceedances of its last decided intervals, newest first, its
flags and its residual histogram. -/
structure LosNode where
  hist : List (Bool × Bool) := []
  ntlFlag : Bool := false
  negFlag : Bool := false
  bins : List Nat := List.replicate 32 0
  deriving DecidableEq, Repr

/-- An endpoint's phase accumulators and last publication (R336). `window` is the PH_WINDOW in force for it; `phase` 3 is none yet. -/
structure PhaseAcc where
  n : Nat := 0
  sx : Int := 0
  sxx : Int := 0
  sv : List Int := [0, 0, 0]
  sxv : List Int := [0, 0, 0]
  svv : List Int := [0, 0, 0]
  window : Nat := 672
  phase : Nat := 3
  conf : Nat := 0
  mismatch : Bool := false
  r : List Int := [0, 0, 0]
  windows : Nat := 0
  deriving DecidableEq, Repr

/-- LOS (R323 to R342). -/
structure Los where
  cfg : LosCfg := {}
  /-- R337. A configuration that takes effect at the next lane close. -/
  cfgNext : Option LosCfg := none
  /-- R337, R341. A tree is loaded whose notice waits until it is in force. -/
  treeDue : Bool := false
  /-- R323, R337. The trees, each with the second from which it governs; the first is the old one while two are held. -/
  trees : List (Nat × List LosNodeIn) := []
  /-- R328. Second at which the next interval to close starts. -/
  next : Nat := 0
  /-- R328. Open lanes by the second their interval starts at. -/
  lanes : Tab LosLane := []
  /-- R332. The last 16 results of each node, newest first. -/
  results : Tab (List LosResult) := []
  nodes : Tab LosNode := []
  /-- R327. The last interval energy arrived in time, and HEAD_PRESENT as last noticed. -/
  headOk : Bool := false
  headNoticed : Bool := false
  /-- R335. MET's 10 s means of L1 to L3 by second. -/
  volts : Tab (List Nat) := []
  phases : Tab PhaseAcc := []
  deriving DecidableEq, Repr

/-! ### The metrology island (MET) -/

/-- A tamper input (R364): active, and consecutive samples at the other level. -/
structure Tamper where
  active : Bool := false
  run : Nat := 0
  deriving DecidableEq, Repr

/-- A voltage channel's cycle (R346, R348, R349): its last crossing and its last period in 1/64 converter cycles, whole cycles since
it was powered, validity, what the last whole cycle gave (RMS of voltage and current, power factor in Q15, and the phase angle after L1
in 0.01°), and the sums over the present cycle. -/
structure MetCycle where
  last : Option Nat := none
  period : Nat := 0
  cycles : Nat := 0
  valid : Bool := false
  urms : Nat := 0
  irms : Nat := 0
  pf : Int := 0
  angle : Nat := 0
  n : Nat := 0
  sv2 : Nat := 0
  si2 : Nat := 0
  sp : Int := 0
  deriving DecidableEq, Repr

/-- A measuring window (R346): cycles and samples, squares and highest value of each channel, active and reactive sums of each phase,
the crossing it starts at, and the samples, newest first, each the eight channels' values. -/
structure MetWin where
  cycles : Nat := 0
  start : Nat := 0
  n : Nat := 0
  sq : List Nat := List.replicate 8 0
  peak : List Nat := List.replicate 8 0
  sp : List Int := [0, 0, 0]
  sq' : List Int := [0, 0, 0]
  samples : List (List Int) := []
  deriving DecidableEq, Repr

/-- A MET command that waits for the store under way (R357). -/
inductive MetWait where
  | store (c : CmdRef) (set : Bytes) (verifyOk : Bool) (cut : Option Bool)
  | seal (c : CmdRef) (confirm : Nat)
  | unseal (c : CmdRef) (a : AuthIn)
  | config (c : CmdRef) (vpwr ipwr zcVmin : Nat)
  | termAck (c : CmdRef) (vpwr ipwr zcVmin : Nat)
  deriving DecidableEq, Repr

/-- A store cut before its commit (R355 to R357): the command, the bytes written, and whether step 4 is done. -/
structure MetStore where
  cmd : CmdRef
  set : Bytes
  audited : Bool
  deriving DecidableEq, Repr

/-- MET (R343 to R371). -/
structure Met where
  /-- R354. Copies A and B of the calibration set (MRAM). -/
  copies : List Bytes := [[], []]
  /-- R354. Copy in force, and CAL_VALID. -/
  sel : Nat := 0
  calValid : Bool := false
  /-- R358. SEAL_STATE: 0 OPEN, 1 SEALED, 2 BROKEN (MRAM). -/
  sealState : Nat := 0
  /-- R361. SEAL_COUNT (MRAM). -/
  sealCount : Nat := 0
  /-- R362. The audit trail, entry 0 first (MRAM). -/
  audit : List Bytes := []
  /-- R363. AUDIT_LOST (MRAM). -/
  auditLost : Nat := 0
  /-- R344. SW_ID and SW_DIGEST (MRAM). -/
  swId : Nat := 0
  swDigest : Bytes := List.replicate 48 0
  /-- R369. VPWR, IPWR and ZC_VMIN. -/
  vpwr : Nat := 15
  ipwr : Nat := 15
  zcVmin : Nat := 20
  /-- R364. The tamper inputs. -/
  tampers : Tab Tamper := []
  /-- R366. TERM_SUSPECT, and tamper samples since a terminal-class input was last active. -/
  termSuspect : Bool := false
  termQuiet : Nat := 0
  /-- R366. A terminal-class input is active. -/
  termActive : Bool := false
  /-- R364. Alarms by class since manufacture (MRAM). -/
  covers : Nat := 0
  terms : Nat := 0
  /-- R351. The registers of L1, L2, L3 and the total, exact, in units of 1 / (2^106 * 28 800 000 000) of a count; and as saved (MRAM). -/
  energy : List (List Nat) := List.replicate 4 (List.replicate 8 0)
  saved : List (List Nat) := List.replicate 4 (List.replicate 8 0)
  /-- R350. Import and export of the present balance interval, in the same units, and whether it may be delivered. -/
  intImp : Nat := 0
  intExp : Nat := 0
  intOk : Bool := true
  /-- R350. Sums of squares of L1 to L3 over the present 10 s, and samples. -/
  ten : List Nat := [0, 0, 0]
  tenN : Nat := 0
  /-- R350. Converter count of the latest sample; the count of the last second, its TAI second; the count of the coming second, its
  TAI second and flag. -/
  cc : Nat := 0
  lastMark : Nat := 0
  lastSec : Nat := 0
  mark : Option (Nat × Nat × Bool) := none
  /-- R350. STATUS.TIME_MARK_MISSING. -/
  markMissing : Bool := false
  /-- R346, R349. The cycles of voltage channels 0 to 2. -/
  cycles : Tab MetCycle := []
  /-- R346. The present window, the last one, its end (R4) and its length in 1/64 converter cycles. -/
  win : MetWin := {}
  snap : MetWin := {}
  snapEnd : Nat := 0
  snapLen : Nat := 0
  /-- R346. The angles of L2 and L3 after L1 at that window's end, 0.01°. -/
  snapAngles : List Nat := [0, 0]
  /-- R346. The eight channels' recent codes after step 1, newest first, for the filters. -/
  hist : List (List Int) := []
  /-- R352. Import not yet turned into pulses (in the units above times imp per 10^6), pulses owed, and the instant of the last. -/
  pulseRem : Nat := 0
  pulsesOwed : Nat := 0
  lastPulse : Option Nat := none
  /-- R352. MET_PULSE is high. -/
  pulseHigh : Bool := false
  /-- R355. The store under way, and the commands behind it. -/
  store : Option MetStore := none
  waiting : List MetWait := []
  deriving DecidableEq, Repr

/-! ### Billing (BIL) -/

/-- A register set (R380); bytes not named are 0. -/
structure BilSet where
  endpoint : Nat := 0
  inst : Nat := 0
  epGen : Nat := 0
  sseq : Nat := 1
  lastSeq : Nat := 0
  seqMap : Nat := 0
  lastEts : Nat := 0
  calId : Nat := 0
  prepay : Bool := false
  shadow : Bool := false
  btype : Nat := 0
  subEval : Bool := false
  calVer : Nat := 0
  period : Nat := 0
  imp : List Nat := List.replicate 8 0
  exp : List Nat := List.replicate 8 0
  mdVal : Nat := 0
  mdRate : Nat := 0
  mdTs : Nat := 0
  pmdVal : Nat := 0
  pmdRate : Nat := 0
  pmdTs : Nat := 0
  subNum : Nat := 0
  sub : List Nat := List.replicate 15 0
  eui : Nat := 0
  keyset : Nat := 0
  mac : Bytes := []
  deriving DecidableEq, Repr

/-- A ledger entry (R382). -/
structure Ledger where
  lastId : Nat := 0
  bound : Bool := false
  held : Bool := false
  replay : Bool := false
  window : Nat := 0
  anchor : Nat := 0
  deriving DecidableEq, Repr

/-- A token acceptance in the journal (R394): index, the new LAST_ID and WINDOW, the token, and whether step 1 has verified; the
BIL.CREDIT.PUSH it serves. -/
structure Accept where
  endpoint : Nat
  lastId : Nat
  window : Nat
  token : Nat
  verified : Bool
  push : Option CmdRef
  deriving DecidableEq, Repr

/-- A replay under way (R388): endpoint, archived records of it read so far, the start of its range, whether it brings a set up to
its ANCHOR (else it runs to the end of the archive), and the restore it serves. -/
structure Replay where
  endpoint : Nat
  read : Nat := 0
  start : Nat
  behind : Bool
  job : Option Nat
  deriving DecidableEq, Repr

/-- A BIL.REGS.RESTORE OP 1 under way (R401): its command, sets in force and sets refused so far, and the status of
the first set that failed. -/
structure Restore where
  cmd : CmdRef
  good : Nat := 0
  refused : Nat := 0
  fail : Nat := 0
  deriving DecidableEq, Repr

/-- A tariff campaign (R399). -/
structure Campaign where
  cmd : CmdRef
  calId : Nat
  image : Bytes
  calVer : Nat
  media : Nat
  keyref : Nat
  group : Nat
  repeats : Nat
  deadline : Nat
  endpoints : List Nat
  confirmed : List Nat := []
  nights : Nat := 0
  lastNight : Option Nat := none
  paused : Bool := true
  deriving DecidableEq, Repr

/-- An island record not acknowledged (R498). -/
structure IslandRec where
  seq : Nat
  endpoint : Nat
  lastId : Nat
  window : Nat
  deriving DecidableEq, Repr

/-- BIL (R372 to R403). -/
structure Bil where
  /-- R375. The two copies of each calendar slot, slot * 2 + copy (MRAM). -/
  cals : Tab Bytes := []
  /-- R379. A BIL.CALENDAR.LOAD cut before its CRC is written. -/
  loading : Option CmdRef := none
  /-- R380. The register sets in Noon DRAM. -/
  sets : Tab BilSet := []
  /-- R382. The ledger (MRAM). -/
  ledger : Tab Ledger := []
  /-- R383. The pending-interval queue, oldest first, and as saved at DUSK (MRAM). -/
  queue : List Rec := []
  saved : List Rec := []
  /-- R394. The acceptance under way, and whether undone journal records were applied at the last DAWN. -/
  accept : Option Accept := none
  replayed : Bool := false
  /-- R388, R401. Replays and restores under way, with the next restore's identity. -/
  replays : List Replay := []
  restores : Tab Restore := []
  nextRestore : Nat := 0
  /-- R399. Campaigns by number. -/
  campaigns : Tab Campaign := []
  /-- R401. TOKEN_RESULT frames a BIL.CREDIT.PUSH waits for: the command and RESULT, by the frame's own tag. -/
  pushes : Tab (CmdRef × Nat) := []
  nextPush : Nat := 0
  /-- R498. Sequence number of the next island record, those not acknowledged, and LEDGER_STALE. -/
  islandSeq : Nat := 0
  unacked : List IslandRec := []
  stale : Bool := false
  /-- R530. Endpoints a fence holds until their virtual machine is READY. -/
  fenced : List Nat := []
  deriving DecidableEq, Repr

/-! ### Redundancy (PAR) -/

/-- A part's health report (R512). -/
structure ParReport where
  eui : Nat := 0
  role : Role := .standby
  owner : Bool := false
  side : Bool := false
  inStep : Bool := false
  state : DevState := .dawn
  health : Nat := 0
  ownedSince : Nat := 0
  epoch : Nat := 0
  lastShadow : Nat := 0
  gapFrom : Nat := 0
  deriving DecidableEq, Repr

/-- A release under way (R491): the command it completes, HANDOVER, and whether it still drains. -/
structure Release where
  cmd : Option CmdRef
  handover : Bool
  draining : Bool := false
  deriving DecidableEq, Repr

/-- A claim that waits until a release has dropped OWN_OUT (R620). -/
structure Claim where
  cmd : Option CmdRef
  solo : Bool
  deriving DecidableEq, Repr

/-- PAR (R484 to R514). -/
structure Par where
  /-- R32. The Noon permit. -/
  permit : Bool := false
  /-- R489. Ownership is held. -/
  owned : Bool := false
  /-- R488. OWN_OUT and OWN_IN as driven, and PAIR_SIDE as sampled at D0 (high: side B). -/
  ownOut : Bool := false
  ownIn : Bool := false
  side : Bool := false
  /-- R491. The release under way, and the claims that wait for its end. -/
  release : Option Release := none
  claims : List Claim := []
  /-- R501. A RELEASE message has come since OWN_IN last rose, and whether the last one carries HANDOVER; the part holds off. -/
  announced : Bool := false
  handover : Bool := false
  holdoff : Bool := false
  /-- R494. OWNED_SINCE and PUB_FROM. -/
  ownedSince : Nat := 0
  pubFrom : Nat := 0
  /-- R497. Ownership has been gained since DAWN, and the counters (kind and index) already drawn from since. -/
  gained : Bool := false
  fresh : List (Nat × Nat) := []
  /-- R496. The local hold buffer with the device time in ns of each frame, oldest first. -/
  hold : List (Nat × RxFrame) := []
  /-- R495. Sequence number of the next shadow message sent, and of the next one expected; RTS of the last one. -/
  shadowSeq : Nat := 0
  shadowNext : Option Nat := none
  lastShadow : Nat := 0
  gapFrom : Nat := 0
  /-- R504. No gap in the shadow stream since STANDBY began; a ledger copy is outstanding, and what has come of it. -/
  noGap : Bool := true
  ledgerDue : Bool := false
  ledgerCopy : Tab Ledger := []
  inStep : Bool := false
  /-- R500. The partner's last report, its presence, and the pair lanes up (bit per lane). -/
  partner : ParReport := {}
  present : Bool := false
  lanes : Nat := 0
  /-- R492. Heartbeats in a row that are implausible, the fault, and the side conflict. -/
  odd : Nat := 0
  fault : Bool := false
  sideConflict : Bool := false
  /-- R492. TWILIGHT was forced by a double ownership. -/
  doubled : Bool := false
  /-- R506. UNFIT as last noticed. -/
  unfit : Bool := false
  /-- R504. Digest items by epoch * 4 + stream; digests of the part and of the partner by epoch; epochs compared, last compared,
  matching and mismatching ones in a row, streams mismatching in the last. -/
  items : Tab Bytes := []
  digests : Tab (List Bytes) := []
  theirs : Tab (List Bytes) := []
  epoch : Nat := 0
  matched : Nat := 0
  mismatched : Nat := 0
  streams : Nat := 0
  /-- R507. Failing tests, bit per test. -/
  testFail : Nat := 0
  deriving DecidableEq, Repr

/-! ### Firmware (UPD) -/

/-- A boot record (R455). -/
structure BootRec where
  rseq : Nat := 0
  active : Nat := 0
  pendValid : Bool := false
  pending : Nat := 0
  unconf : Nat := 0
  /-- R455. STATE_A and STATE_B: 0 EMPTY, 1 WRITING, 2 VALID, 3 FAILED. -/
  stateA : Nat := 0
  stateB : Nat := 0
  floor : Nat := 0
  fallbacks : Nat := 0
  stageLen : Nat := 0
  stageTotal : Nat := 0
  deriving DecidableEq, Repr

/-- A host download under way (R457): its command and the bytes not yet programmed. -/
structure Download where
  cmd : CmdRef
  rest : Bytes
  deriving DecidableEq, Repr

/-- A reception by relay (R466): its command, the digest, length and FW_ID of the OFFER accepted, the bytes of the granule not yet
programmed, and chunks taken since the last ACK. -/
structure RelayRx where
  cmd : CmdRef
  offer : Option (Bytes × Nat × Nat) := none
  held : Bytes := []
  chunks : Nat := 0
  deriving DecidableEq, Repr

/-- A relay to a successor (R466, R472): RELAY_STATE's state and RESULT code, bytes acknowledged, bytes sent, resends in a row. -/
structure RelayTx where
  state : Nat := 0
  code : Nat := 0
  acked : Nat := 0
  sent : Nat := 0
  resends : Nat := 0
  deriving DecidableEq, Repr

/-- A scheduled activation (R459): WHEN, the calendar slot, AT in ns, and the night it was scheduled in, if inside the window. -/
structure Activation where
  cmd : CmdRef
  when' : Nat
  calId : Nat
  at' : Nat
  night : Option Nat
  deriving DecidableEq, Repr

/-- An endpoint campaign (R469, R470); `missing` holds the reported gaps by endpoint. -/
structure FwCampaign where
  cmd : CmdRef
  calId : Nat
  media : Nat
  keyref : Nat
  group : Nat
  repeats : Nat
  remulti : Nat
  imageId : Nat
  activateAt : Nat
  image : Bytes
  start : Nat
  deadline : Nat
  endpoints : List Nat
  confirmed : List Nat := []
  failed : List Nat := []
  missing : Tab (List Nat) := []
  nights : Nat := 0
  lastNight : Option Nat := none
  paused : Bool := true
  segments : Nat := 0
  deriving DecidableEq, Repr

/-- UPD (R451 to R472). -/
structure Upd where
  /-- R451. The NOR store: the bytes that differ from the erased value FFH, addresses rising. -/
  flash : Memory := []
  /-- R453. SHA-384 of Ouvva's firmware-signing public key block, fixed in the ROM. -/
  romKey : Bytes := List.replicate 48 0
  /-- R472. Slot running. -/
  slot : Nat := 0
  /-- R457, R466, R458. The user of staging: a host download, a relay reception, or a verification that has not ended. -/
  download : Option Download := none
  relayRx : Option RelayRx := none
  verify : Option CmdRef := none
  /-- R459. The activation scheduled. -/
  activation : Option Activation := none
  /-- R466. Relays, by successor. -/
  relays : Tab RelayTx := []
  /-- R462. Noon cycle at which the confirmation window began, and whether its warning has been raised. -/
  confirmFrom : Option Nat := none
  warned : Bool := false
  /-- R456. The present DAWN took a fallback. -/
  fellBack : Bool := false
  /-- R470. Endpoint images loaded, by campaign; the campaigns; ABORT announcements still to go out: by campaign. -/
  images : Tab (Nat × Bytes) := []
  campaigns : Tab FwCampaign := []
  aborts : Tab FwCampaign := []
  /-- R467. Slot states the ROM loader keeps until SELECT: STATE_A and STATE_B. -/
  loader : Option (Nat × Nat) := none
  deriving DecidableEq, Repr

/-! ### The service ports (SVC) -/

/-- One service port (R473, R477): the receive and transmit streams, the last SEQ whose packet passed its CRC with the response it
got, and whether a packet with a valid CRC has come since RECOVERY began. -/
structure SvcPort where
  rx : Bytes := []
  tx : Bytes := []
  last : Option (Nat × Bytes) := none
  heard : Bool := false
  deriving DecidableEq, Repr

/-- SVC (R473 to R484). -/
structure Svc where
  /-- R473. The ports: 0 SSP, 1 OSP. -/
  ports : Tab SvcPort := []
  /-- R475, R484. LOADER_PORT, and whether the loader has moved. -/
  loaderPort : Nat := 0
  moved : Bool := false
  /-- R477, R484. SSP mode of the last transaction is 3; FAULT of the status byte. -/
  mode3 : Bool := false
  fault : Bool := false
  /-- R479, R480, R484. OSP_RATE, OSP_FLOOD and OSP_AMBIENT. -/
  rate : Bool := false
  flood : Bool := false
  ambient : Nat := 0
  /-- R480. NAKs due when the flood clears or the line is dark: CMD and SEQ. -/
  naks : List (Nat × Nat) := []
  /-- R479. Responses waiting to go out on OSP. -/
  responses : List Bytes := []
  /-- R479. Noon cycle from which OSP may answer its last request, and the one at which its last transmission ends. -/
  txFrom : Nat := 0
  txUntil : Nat := 0
  /-- R482, R484. Instructions of the Noon and the Midnight TAP, and the DAWN hold of R483. -/
  noonTap : Nat := 1
  midTap : Nat := 1
  tapHold : Bool := false
  deriving DecidableEq, Repr

/-! ### The whole part -/

/-- The state of the FB-9600. -/
structure State where
  /-- The commands waiting, first in, first out. -/
  pending : List Instr := []
  /-- R6 to R16. Registers that differ from their reset value, by register-file key (`regKey`). -/
  regs : Tab Word := []
  /-- What has left the part, newest first (the model's own record of its outputs). -/
  out : List Out := []
  /-- The model's own counter of free values drawn (`Config.free`). -/
  freeCtr : Nat := 0
  dev : Dev := {}
  seam : Seam := {}
  cmd : CmdUnit := {}
  hbr : Hbr := {}
  fab : Fab := {}
  vin : Vin := {}
  pwr : Pwr := {}
  aon : Aon := {}
  evr : Evr := {}
  tim : Tim := {}
  kvt : Kvt := {}
  ing : Ing := {}
  plc : Plc := {}
  rfx : Rfx := {}
  fse : Fse := {}
  msh : Msh := {}
  cod : Cod := {}
  arc : Arc := {}
  los : Los := {}
  met : Met := {}
  bil : Bil := {}
  par : Par := {}
  upd : Upd := {}
  svc : Svc := {}
  deriving DecidableEq, Repr

/-- The part right after power-on reset: DAWN, stage D0, cause 0x01 (R67), every register at its reset value. -/
def State.reset : State := {}

end Sys2Proof.Machine
end

