-- ==== Sys2Proof/Machine/Ops.lean ====
section
/-! DEFINITION. The named operations every unit uses: registers and their counters, time-stamps, events at the
recorders, notices, messages and results of commands, and the device-state transitions. -/
set_option Elab.async false
namespace Sys2Proof.Machine

/-- What a meaning answers. -/
abbrev R := Host.Outcome State Fault Refusal

/-- One bit period in ns of a rate code (R176). -/
def bitNs (rate : Nat) : Nat := match rate with | 0 => 40000 | 1 => 20000 | 2 => 10000 | _ => 5000

/-- A quotient rounded to a whole number next to it; to which, the manual leaves open. -/
def roundDiv (a : Int) (b : Nat) : Int := a / b + (if a % b ≠ 0 ∧ Config.roundUp a b = true then 1 else 0)

/-- The largest number whose square is at most `x`. -/
def rootFloor (x : Nat) : Nat :=
  (List.range (x.log2 / 2 + 1)).foldr (fun i a => if (a + 2 ^ i) * (a + 2 ^ i) ≤ x then a + 2 ^ i else a) 0

/-- The square root of a quotient rounded to a whole number next to it; to which, the manual leaves open. -/
def roundRoot (n d : Nat) : Nat :=
  let r := rootFloor (n / d)
  r + (if r * r * d ≠ n ∧ Config.rootUp n d = true then 1 else 0)

namespace State

/-- Appends to the record of outputs. -/
def emit (o : Out) (s : State) : State := { s with out := o :: s.out }

/-- Draws a free value below `n` (any value where `n` is 0). -/
def drawFree (s : State) : Nat := Config.freeValue s.freeCtr

/-- The state after a free value has been drawn. -/
def drawn (s : State) : State := { s with freeCtr := s.freeCtr + 1 }

/-! #### Registers -/

/-- The word a register-file key holds. -/
def regW (s : State) (key : Nat) : Word := (s.regs.get? key).getD (resetOf key)

/-- The number a register holds. -/
def reg (s : State) (off : Nat) : Nat := (s.regW off).toNat

/-- The number copy `idx` of a selected register holds. -/
def regI (s : State) (off idx : Nat) : Nat := (s.regW (regKey off idx)).toNat

/-- Puts a word into a register-file key; the entry goes when the word is the reset value. -/
def setKey (key : Nat) (w : Word) (s : State) : State :=
  { s with regs := if w = resetOf key then s.regs.del key else s.regs.put key w }

/-- Sets a register. -/
def setReg (off v : Nat) (s : State) : State := s.setKey off (BitVec.ofNat 32 v)

/-- Sets copy `idx` of a selected register. -/
def setRegI (off idx v : Nat) (s : State) : State := s.setKey (regKey off idx) (BitVec.ofNat 32 v)

/-- Adds to a counter register, saturating at all ones (R10). -/
def bumpBy (off n : Nat) (s : State) : State := s.setReg off (satAdd 32 (s.reg off) n)

/-- Counts one in a counter register (R10). -/
def bump (off : Nat) (s : State) : State := s.bumpBy off 1

/-- Counts one in copy `idx` of a selected counter register (R10). -/
def bumpI (off idx : Nat) (s : State) : State := s.setRegI off idx (satAdd 32 (s.regI off idx) 1)

/-- A job of a virtual machine reaches the quarantine sink: VIN.SINK_COUNT counts it beside the engine's own counter (R525). -/
def sunk (i : Nat) (s : State) : State := s.bumpI Reg.VIN_SINK_COUNT i

/-- Raises a maximum register. -/
def maxReg (off v : Nat) (s : State) : State := s.setReg off (max (s.reg off) v)

/-- Sets or clears a bit of a register. -/
def setRegBit (off i : Nat) (b : Bool) (s : State) : State := s.setReg off (putBit (s.reg off) i b)

/-- A bit of a register. -/
def regBit (s : State) (off i : Nat) : Bool := bitAt (s.reg off) i

/-- A field of a register. -/
def regField (s : State) (off hi lo : Nat) : Nat := field (s.reg off) hi lo

/-- Counts `n` in a 64-bit counter pair whose low word is at `lo`, saturating (R10, R235). -/
def bumpPair (lo n : Nat) (s : State) : State :=
  let v := satAdd 64 (s.reg lo + s.reg (lo + 4) * 2 ^ 32) n
  (s.setReg lo (v % 2 ^ 32)).setReg (lo + 4) (v / 2 ^ 32)

/-- The number in a 64-bit register pair (R7). -/
def regPair (s : State) (lo : Nat) : Nat := s.reg lo + s.reg (lo + 4) * 2 ^ 32

/-- Sets a 64-bit register pair (R7). -/
def setPair (lo v : Nat) (s : State) : State := (s.setReg lo (v % 2 ^ 32)).setReg (lo + 4) (v / 2 ^ 32 % 2 ^ 32)

/-- Is the unit's LOCK bit set (R12, R16)? -/
def locked (s : State) (u : Nat) : Bool := s.regBit (Reg.unitLock u) 0

/-! #### Time -/

/-- The record time-stamp of now (R4). -/
def stamp (s : State) : Nat := s.tim.sec * 2 ^ 30 + s.tim.ns

/-- Is a record time-stamp malformed (R4): a nanoseconds field above 999 999 999? -/
def stampBad (t : Nat) : Bool := decide (999999999 < t % 2 ^ 30)

/-- The software time-stamp of now (R5). -/
def swStamp (s : State) : Nat := (s.tim.sec * 1000000000 + s.tim.ns) % 2 ^ 32

/-- The AON RTC time in the form of R4 (R553). -/
def rtcStamp (s : State) : Nat := s.aon.rtcSec * 2 ^ 30 + s.aon.rtcFrac * 30517578125 / 1000000

/-! #### Event recorders (R559 to R562) -/

/-- A recorder of the eight. -/
def recorder (s : State) (r : Nat) : Recorder := s.evr.recs.getD r {}

/-- Replaces a recorder. -/
def setRecorder (r : Nat) (x : Recorder) (s : State) : State :=
  { s with evr := { s.evr with recs := s.evr.recs.put r x } }

end State

/-- The capacity of a recorder (R559). -/
def recorderCap (r : Nat) : Nat := if r = 7 then 1024 else 4096

/-- Does an event match a record, so that it counts as a repeat (R561)? -/
def EvRecord.matches (a b : EvRecord) : Bool :=
  a.kind == 0 && b.kind == 0 && a.source == b.source && a.code == b.code && a.inst == b.inst
    && a.payload.head? == b.payload.head?

/-- Microseconds between two record time-stamps (R560). -/
def stampUs (a b : Nat) : Nat :=
  let ns := fun x : Nat => (x / 2 ^ 30) * 1000000000 + x % 2 ^ 30
  (ns b - ns a) / 1000

/-- A record with one more repeat at time `now` (R561). -/
def EvRecord.again (e : EvRecord) (now : Nat) : EvRecord :=
  { e with repeats := e.repeats + 1, lastUs := min (stampUs e.stamp now) (2 ^ 32 - 1) }

/-- Is `e` a repeat of `old` (R561): a match, within REPEAT_MS of the last occurrence? -/
def isRepeat (ms : Nat) (old e : EvRecord) : Bool :=
  EvRecord.matches old e && ms != 0 && decide (stampUs old.stamp e.stamp ≤ old.lastUs + ms * 1000)

/-- May `e` count as a repeat of `old` (R561): a repeat, with room in REPEAT? -/
def repeatsOf (ms : Nat) (old e : EvRecord) : Bool := isRepeat ms old e && decide (old.repeats < 0xFFFFFF)

/-- Stages a record under a new RSEQ, taking the lost count with it (R560, R562). -/
def Recorder.stageNew (x : Recorder) (e : EvRecord) : Recorder :=
  { x with staged := some (x.next, { e with lost := x.lost }), next := x.next + 1, lost := 0 }

/-- The first queue entry that an event repeats takes it (R562). -/
def joinQueue (ms : Nat) (e : EvRecord) : List EvRecord → Option (List EvRecord)
  | [] => none
  | q :: t => if repeatsOf ms q e then some (q.again e.stamp :: t) else (joinQueue ms e t).map (q :: ·)

/-- One past the RSEQ of the latest committed record: a staged record that is new has its RSEQ but is not yet committed. -/
def Recorder.committed (x : Recorder) : Nat :=
  match x.staged with
  | some (n, _) => if x.recs.has n then x.next else n
  | none => x.next

/-- The latest committed record of a recorder. -/
def Recorder.latest (x : Recorder) : Option (Nat × EvRecord) :=
  if x.oldest < x.committed then (x.recs.get? (x.committed - 1)).map (fun e => (x.committed - 1, e)) else none

/-- An event at a recorder's input (R561, R562): a repeat of the pending or latest record, a queued event, or lost; a repeat that would
overflow the count of a pending or queued record is lost. The second component says that it was lost. -/
def Recorder.offer (x : Recorder) (e : EvRecord) : Recorder × Bool :=
  match x.staged with
  | some (n, p) =>
    if repeatsOf x.repeatMs p e then ({ x with staged := some (n, p.again e.stamp) }, false)
    else match joinQueue x.repeatMs e x.queue with
      | some q => ({ x with queue := q }, false)
      | none =>
        if x.queue.length < 16 && !isRepeat x.repeatMs p e && !x.queue.any (fun q => isRepeat x.repeatMs q e) then ({ x with queue := x.queue ++ [e] }, false)
        else ({ x with lost := satAdd 32 x.lost 1 }, true)
  | none =>
    match x.latest with
    | some (n, p) =>
      if repeatsOf x.repeatMs p e then ({ x with staged := some (n, p.again e.stamp) }, false)
      else (x.stageNew e, false)
    | none => (x.stageNew e, false)

/-- The POWER_ON marker goes before the first record after a power-on reset (R564). -/
def Recorder.offerMarked (x : Recorder) (now : Nat) (source : Nat) (e : EvRecord) : Recorder × Bool :=
  if x.powerOn then
    let y := { x with powerOn := false }
    let z := (y.offer { source := source, kind := 3, code := 3, stamp := now, payload := [0] }).1
    z.offer e
  else x.offer e

namespace State

/-- Logs an event at a recorder (R559 to R562). The island recorder stamps with the AON RTC (R560). -/
def logEvent (r : Nat) (e : EventIn) (s : State) : State :=
  let now := if r = 7 then s.rtcStamp else s.stamp
  let rec' : EvRecord :=
    { source := e.source, kind := 0, inst := e.inst, code := e.kind, stamp := now, payload := [e.arg0, e.arg1, e.arg2, e.arg3] }
  let (x, lost) := (s.recorder r).offerMarked now 0x15 rec'
  let s := s.setRecorder r x
  if lost then s.bumpI Reg.EVR_LOST_TOTAL r else s

/-- Logs an event of a unit with up to three arguments. -/
def log (r source kind : Nat) (a0 : Nat) (a1 : Nat) (s : State) : State :=
  s.logEvent r { recorder := r, source := source, kind := kind, arg0 := a0, arg1 := a1 }

/-- Adds one to a bin of a recorder's open histogram (R563). -/
def histAdd (r code bin : Nat) (s : State) : State :=
  let x := s.recorder r
  let (st, bins) := x.hists.getD code (s.stamp, List.replicate 16 0)
  let bins := bins.set bin (satAdd 16 (bins.getD bin 0) 1)
  s.setRecorder r { x with hists := x.hists.put code (st, bins) }

/-- A refused write of R12: counted in LOCK_VIOLATION and added to the lock-violation histogram of recorder 0. -/
def lockViolation (u : Nat) (s : State) : State :=
  let s := s.bump (Reg.lockViolation u)
  if u < 16 then s.histAdd 0 0x0100 u else s.histAdd 0 0x0101 (u - 16)

/-! #### Functions, messages and notices (R90, R91, R99 to R109) -/

/-- The PCIe side of a function. -/
def func (s : State) (fn : Nat) : Func := s.hbr.funcs.getD fn {}

/-- Is the part host-absent other than by a stall (R104, R105)? -/
def hostGone (s : State) : Bool := !s.hbr.dlUp || s.hbr.perst || !(s.func 0).busMaster || (s.func 0).d3hot

/-- Is the part host-absent (R104)? -/
def hostAbsent (s : State) : Bool := s.hostGone || s.hbr.stallAbsent

/-- Does virtual function `k` exist (R88)? -/
def vfExists (s : State) (k : Nat) : Bool := s.hbr.vfEnable && decide (1 ≤ k ∧ k ≤ s.hbr.numVfs)

/-- Can a function master (R91, R104, R105)? -/
def canMaster (s : State) (fn : Nat) : Bool :=
  !s.hostAbsent && (s.func fn).busMaster && !(s.func fn).d3hot && (fn = 0 || s.vfExists fn)

/-- Can a function master but for a stall (R105)? -/
def holdsLink (s : State) (fn : Nat) : Bool :=
  !s.hostGone && (s.func fn).busMaster && !(s.func fn).d3hot && (fn = 0 || s.vfExists fn)

/-- The function that rings a queue's doorbells (R90). -/
def queueFn (s : State) (q : Nat) : Nat := if q < 256 && s.hbr.vfEnable then q / 16 + 1 else 0

/-- The function a vector belongs to (R90). -/
def vectorFn (v : Nat) : Nat := if v < 1024 then 0 else (v - 1024) / 64 + 1

/-- Are all vectors of a function masked: its Function Mask is set, or its MSI-X Enable is clear (R85, log entry 90)? -/
def msixOff (s : State) (fn : Nat) : Bool := (s.func fn).msixMask || !(s.func fn).msixEnable

/-- A message is due on a vector for a function (R91). DESIGN CHOICE (log entry 86): the message is its vector alone and carries no
software time-stamp, for which R5 gives it no field. -/
def sendMsix (fn v : Nat) (s : State) : State :=
  if vectorFn v ≠ fn then s.bump Reg.HBR_VECTOR_MISMATCH
  else
    let x := s.hbr.vectors.getD v {}
    if x.masked || s.msixOff fn || !s.canMaster fn then
      { s with hbr := { s.hbr with vectors := s.hbr.vectors.put v { x with pending := true } } }
    else s.emit (.msix v)

/-- A LINK_EVENTS bit sets, and raises the vector of EVENT_VEC while the host is present (R110). DESIGN CHOICE (log entry 126): an event whose
bit stands at 1 already raises it again. -/
def linkEvent (i : Nat) (s : State) : State :=
  let s := s.setRegBit Reg.HBR_LINK_EVENTS i true
  if s.regBit Reg.HBR_EVENT_VEC 16 && !s.hostAbsent then s.sendMsix 0 (s.regField Reg.HBR_EVENT_VEC 9 0) else s

/-- A notice ring. -/
def ring (s : State) (f : Nat) : Ring := s.hbr.rings.getD f {}

/-- Replaces a notice ring. -/
def setRing (f : Nat) (r : Ring) (s : State) : State := { s with hbr := { s.hbr with rings := s.hbr.rings.put f r } }

/-- Entries of a notice ring (R99; NR_SIZE LOG2 above 10 taken as 10). -/
def ringSize (s : State) (f : Nat) : Nat := 2 ^ (min (field (s.regI Reg.HBR_NR_SIZE f) 3 0) 10 + 6)

/-- The global vector of a notice ring (R110). -/
def ringVector (s : State) (f : Nat) : Nat :=
  let v := field (s.regI Reg.HBR_NR_SIZE f) 25 16
  if f = 0 then v else 1024 + 64 * (f - 1) + v % 64

/-- Can a notice go straight into its function's ring (R108)? While the lists of a power loss await delivery, every notice of the new
DAWN waits behind them (R73). -/
def ringOpen (s : State) (f : Nat) : Bool :=
  let r := s.ring f
  s.cmd.owed.isEmpty && s.cmd.owedHeld.isEmpty && r.enabled && !r.error && decide (r.used < s.ringSize f) && s.canMaster f

end State

/-- The 64 bytes of a notice entry with its ring phase (R100). -/
def Notice.bytes (n : Notice) (phase : Bool) : Bytes :=
  le 1 n.typ ++ le 1 n.fn ++ le 1 n.inst ++ le 1 (bitN phase + 2 * bitN n.held) ++ zeros 4 ++ le 8 n.nseq ++ le 8 n.stamp
    ++ fit 40 n.body

namespace State

/-- Announces a ring's unannounced entries by its message (R99). -/
def ringMessage (f : Nat) (s : State) : State :=
  (s.setRing f { s.ring f with unann := 0 }).sendMsix f (s.ringVector f)

/-- Writes an entry into its function's ring, with the message of R64 when COAL_COUNT is reached (R99, R101). -/
def ringWrite (n : Notice) (s : State) : State :=
  let r := s.ring n.fn
  let size := s.ringSize n.fn
  let s := s.emit (.notice n.fn r.tail (n.bytes r.phase))
  let tail := (r.tail + 1) % size
  let s := s.setRing n.fn
    { r with tail := tail, used := r.used + 1, phase := if tail = 0 then !r.phase else r.phase, unann := r.unann + 1 }
  if r.unann + 1 ≥ field (s.regI Reg.HBR_NR_CTRL n.fn) 15 8 then s.ringMessage n.fn else s

/-- Entries the held ring has room for (R107). -/
def heldCap (s : State) : Nat := s.hbr.heldGib * 2 ^ 24

/-- Holds a notice, or drops a record or event notice when only the reserve is left (R107, R109). DESIGN CHOICE (log entry 91): every held
entry, TYPE 0x01 or not, counts against the capacity less the reserve. -/
def holdNotice (n : Notice) (s : State) : State :=
  if n.typ ≠ 1 ∧ s.hbr.held.length ≥ s.heldCap - 4096 then
    let s := if s.reg Reg.HBR_HELD_LOST = 0 then s.setPair Reg.HBR_HELD_FIRST_LOST_LO n.nseq else s
    (s.bump Reg.HBR_HELD_LOST).linkEvent 5
  else { s with hbr := { s.hbr with held := s.hbr.held ++ [{ n with held := true }] } }

/-- A notice is written to its ring or held, in NSEQ order within its function (R99, R100, R108, R109). -/
def notice (typ fn inst : Nat) (body : Bytes) (s : State) : State :=
  let n : Notice := { typ := typ, fn := fn, inst := inst, nseq := s.hbr.nseq, stamp := s.stamp, body := fit 40 body }
  let s := { s with hbr := { s.hbr with nseq := s.hbr.nseq + 1 } }
  if s.ringOpen fn && !(s.hbr.held.any (fun h => h.fn == fn)) then s.ringWrite n else s.holdNotice n

/-- The function whose ring takes an instance's notices: its virtual function's where it has one, else ring 0 (R88, R99). -/
def instFn (s : State) (i : Nat) : Nat := if s.vfExists (i + 1) then i + 1 else 0

/-- A unit event notice in ring 0 (R100). -/
def event (inst : Nat) (body : Bytes) (s : State) : State := s.notice 3 0 inst body

/-- A unit event notice in the ring of an instance's function. -/
def eventFor (inst : Nat) (body : Bytes) (s : State) : State := s.notice 3 (s.instFn inst) inst body

/-! #### Results of commands (R59, R65, R66, R77) -/

/-- The number in place of a queue that marks the part's own sends (TOKEN_RESULT, campaign frames): no command of CMD's. -/
abbrev ownQueue : Nat := 511

/-- Adds a result on its way to CMD. -/
def addReply (r : Result) (s : State) : State := { s with cmd := { s.cmd with results := s.cmd.results ++ [r] } }

/-- The end of one of the part's own sends: the BIL.CREDIT.PUSH that waits for it completes OK with its RESULT, or NO_ACK (R401). -/
def ownReply (tag status : Nat) (s : State) : State :=
  match s.bil.pushes.get? tag with
  | none => s
  | some (c, r) =>
    let s : State := { s with bil := { s.bil with pushes := s.bil.pushes.del tag } }
    s.addReply (if status = 0 then { queue := c.queue, tag := c.tag, status := 0, result0 := r }
      else { queue := c.queue, tag := c.tag, status := 0x0610 })

/-- Hands CMD the final result of a command. -/
def replyWith (c : CmdRef) (status r0 r1 : Nat) (s : State) : State :=
  if c.queue = ownQueue then s.ownReply c.tag status
  else s.addReply { queue := c.queue, tag := c.tag, status := status, result0 := r0 % 2 ^ 32, result1 := r1 % 2 ^ 16 }

/-- Hands CMD a final result without numbers. -/
def reply (c : CmdRef) (status : Nat) (s : State) : State := s.replyWith c status 0 0

/-- Hands CMD the QUEUED result of R62. -/
def replyQueued (c : CmdRef) (s : State) : State :=
  if c.queue = ownQueue then s else s.addReply { queue := c.queue, tag := c.tag, status := 1, queued := true }

/-- The fetched command a unit names, if CMD holds it. -/
def cmdOf (s : State) (c : CmdRef) : Option Cmd := s.cmd.cmds.find? (fun x => x.queue == c.queue && x.tag == c.tag)

/-! #### Host memory: reads, page lists, bulk writes and the choice of what goes upstream (R58, R97, R101 to R103) -/

/-- Does HBR use 10-bit tags (R97)? -/
def tag10InUse (s : State) : Bool := s.regBit Reg.HBR_DMA_CTRL 1 && s.hbr.tag10

/-- Part-issued reads that may be outstanding (R97). -/
def readLimit (s : State) : Nat :=
  let l := s.regField Reg.HBR_DMA_CTRL 25 16
  let l := if l = 0 then 1 else min l 768
  if s.tag10InUse then l else min l 256

/-- The tags in use on the link (R97). -/
def tagsUsed (s : State) : List Nat := s.hbr.reads.filterMap (·.tag)

/-- May a new read be issued (R97, R103)? -/
def readOpen (s : State) : Bool := !s.hbr.backoff && decide (s.tagsUsed.length < s.readLimit)

/-- The lowest tag not in use; bits [9:8] of a 10-bit tag are never 0 (R97). -/
def freeTag (s : State) : Nat :=
  let lo := if s.tag10InUse then 256 else 0
  (((List.range (s.tagsUsed.length + 1)).map (· + lo)).find? (fun g => !s.tagsUsed.contains g)).getD lo

/-- Max Payload Size and Max Read Request Size in bytes, those of physical function 0 (R83). -/
def maxPayload (s : State) : Nat := 128 * 2 ^ min 2 (s.func 0).mps
def maxRead (s : State) : Nat := 128 * 2 ^ min 5 (s.func 0).mrrs

/-- Is Relaxed Ordering in effect for a function's bulk data (R101)? -/
def relaxedFor (s : State) (fn : Nat) : Bool := s.regBit Reg.HBR_DMA_CTRL 0 && (s.func fn).relaxed

/-- May a waiting transaction be issued now (R97, R103)? -/
def mayIssue (s : State) (t : UpTxn) : Bool :=
  if t.src = 3 then s.readOpen else !s.hbr.backoff && !s.hbr.stallAbsent

/-- The transaction HBR issues next of those that wait (R102). Completions of host reads, and completions, notices and messages, are never
held back: each leaves in the step that forms it, before all that waits. Of the rest, reads go before bulk data. -/
def nextUp (s : State) : Option UpTxn :=
  match s.hbr.upstream.find? (fun t => t.src == 3 && s.mayIssue t) with
  | some t => some t
  | none => s.hbr.upstream.find? (fun t => t.src == 4 && s.mayIssue t)

/-- Issues a waiting transaction; a read takes its tag (R97). -/
def issueUp (t : UpTxn) (s : State) : State :=
  let s' : State := { s with hbr := { s.hbr with upstream := s.hbr.upstream.erase t } }
  match t.out with
  | .readReq id _ addr len =>
    let g := s.freeTag
    ({ s' with hbr := { s'.hbr with reads := s'.hbr.reads.map (fun r => if r.id == id then { r with tag := some g } else r) } } : State).emit
      (.readReq id g addr len)
  | o => s'.emit o

/-- Issues what may go, at most `n` transactions (R102). -/
def upDrain : Nat → State → State
  | 0, s => s
  | n + 1, s => match s.nextUp with | none => s | some t => upDrain n (s.issueUp t)

/-- Hands transactions to HBR, which issues what may go (R102). -/
def upSend (ts : List UpTxn) (s : State) : State :=
  ({ s with hbr := { s.hbr with upstream := s.hbr.upstream ++ ts } } : State).upDrain (s.hbr.upstream.length + ts.length)

/-- Issues what waited, after a back-off or a stall or when a tag is free (R102, R103). -/
def upLook (s : State) : State := s.upDrain s.hbr.upstream.length

end State

/-- The pieces of a run of bytes, each at most `most` bytes long and inside one block of `block` bytes: address and length. The first
argument bounds their number. -/
def hostPieces (block most : Nat) : Nat → Nat → Nat → List (Nat × Nat)
  | 0, _, _ => []
  | k + 1, addr, len =>
    if len = 0 then []
    else
      let n := min len (min most (block - addr % block))
      (addr, n) :: hostPieces block most k (addr + n) (len - n)

/-- The runs of host memory that hold `len` bytes of data on the pages of a list (R58). -/
def pageRuns : List Nat → Nat → List (Nat × Nat)
  | [], _ => []
  | a :: t, len => if len = 0 then [] else (a, min len 4096) :: pageRuns t (len - 4096)

/-- The page addresses of a list (R58): 64 bits each, aligned to 4 KiB. DESIGN CHOICE (log entry 124): an entry that is not aligned is taken
as the page it lies in. -/
def pagesOf (b : Bytes) : List Nat := (List.range (b.length / 8)).map (fun k => leAt b (8 * k) 8 / 4096 * 4096)

/-- The TLPs of bulk data over its pieces (R101, R102). -/
def bulkTlps (q t : Nat) (ro : Bool) : List (Nat × Nat) → Bytes → List UpTxn
  | [], _ => []
  | (a, n) :: rest, b => { src := 4, out := .data q t a ro (b.take n) } :: bulkTlps q t ro rest (b.drop n)

/-- Does a read serve a command's page list or its data (R97)? -/
def ReadFor.serves (w : ReadFor) (q t : Nat) : Bool := w == .pages q t || w == .data q t

namespace State

/-- Asks for the runs of host memory given, split at 4 KiB boundaries and at the Max Read Request Size (R97). -/
def askRead (what : ReadFor) (runs : List (Nat × Nat)) (s : State) : State :=
  let ps := runs.flatMap (fun r => hostPieces 4096 s.maxRead r.2 r.1 r.2)
  let add := fun (x : List PartRead × Nat × Nat) (p : Nat × Nat) =>
    (x.1 ++ [({ id := x.2.1, what := what, want := p.2, addr := p.1, off := x.2.2 } : PartRead)], x.2.1 + 1, x.2.2 + p.2)
  let rs := ps.foldl add ([], s.hbr.nextRead, 0)
  ({ s with hbr := { s.hbr with reads := s.hbr.reads ++ rs.1, nextRead := rs.2.1 } } : State).upSend
    (rs.1.map (fun r => { src := 3, out := .readReq r.id 0 r.addr r.want }))

/-- Moves a command's data over the runs of host memory given: bytes written as TLPs of at most 256 B inside 256 B blocks and no larger than
Max Payload Size, or bytes read (R97, R101, R102). -/
def moveData (q t fn : Nat) (runs : List (Nat × Nat)) (write : Option Bytes) (s : State) : State :=
  match write with
  | some b => s.upSend (bulkTlps q t (s.relaxedFor fn) (runs.flatMap (fun r => hostPieces 256 (min 256 s.maxPayload) r.2 r.1 r.2)) b)
  | none => s.askRead (.data q t) runs

/-- Starts a transfer through a command's DPTR (R58): a contiguous buffer at once, a page list after its entries have been read. -/
def startXfer (k : Cmd) (len : Nat) (write : Option Bytes) (s : State) : State :=
  if len = 0 then s
  else if k.dlist then
    let n := 8 * ceilDiv len 4096
    let x : Xfer := { queue := k.queue, tag := k.tag, len := len, write := write, list := zeros n }
    ({ s with hbr := { s.hbr with xfers := s.hbr.xfers ++ [x] } } : State).askRead (.pages k.queue k.tag) [(k.dptr, n)]
  else s.moveData k.queue k.tag (s.queueFn k.queue) [(k.dptr, len)] write

/-- Writes bulk data through a command's DPTR (R58, R101). A command whose function can no longer master ends with CHECK_FAILED in place of
its unit's result, which follows (R105). A result of no fetched command moves no data. -/
def writeData (c : CmdRef) (b : Bytes) (s : State) : State :=
  match s.cmdOf c with
  | none => s
  | some k =>
    if k.lost || !s.holdsLink (s.queueFn k.queue) then s.addReply { queue := c.queue, tag := c.tag, status := 0x0801 }
    else s.startXfer k b.length (some b)

/-- Is data a command writes still waiting for its page list or to be issued, so that its completion waits behind it (R101)? -/
def dataWaits (s : State) (q t : Nat) : Bool :=
  s.hbr.xfers.any (fun x => x.queue == q && x.tag == t && x.write.isSome)
    || s.hbr.upstream.any (fun u => match u.out with | .data q' t' _ _ _ => q' == q && t' == t | _ => false)

/-- Does a command still wait for its host data, or has it ended without its unit (R97, R98, R105)? Its unit then does not act on it. -/
def dataHeld (s : State) (c : CmdRef) : Bool :=
  s.hbr.reads.any (fun r => r.what.serves c.queue c.tag) || s.hbr.xfers.any (fun x => x.queue == c.queue && x.tag == c.tag && x.write.isNone)
    || ((s.cmdOf c).isSome && s.cmd.results.any (fun r => r.queue == c.queue && r.tag == c.tag && !r.queued))

/-- Abandons the reads, page lists and waiting writes of commands and queues (R98, R105). -/
def abandon (cmd : Nat → Nat → Bool) (queue : Nat → Bool) (s : State) : State :=
  let gone := fun (w : ReadFor) => match w with
    | .descriptor q => queue q
    | .data q t => cmd q t
    | .pages q t => cmd q t
  let lost := (s.hbr.reads.filter (fun r => gone r.what)).map (·.id)
  { s with hbr := { s.hbr with
    reads := s.hbr.reads.filter (fun r => !gone r.what)
    xfers := s.hbr.xfers.filter (fun x => !cmd x.queue x.tag)
    upstream := s.hbr.upstream.filter (fun u => match u.out with
      | .data q t _ _ _ => !cmd q t
      | .readReq id _ _ _ => !lost.contains id
      | _ => true) } }

end State

/-! ### Status codes (R66) -/

namespace St
abbrev ok : Nat := 0x0000
abbrev queued : Nat := 0x0001
abbrev badOpcode : Nat := 0x0101
abbrev badLength : Nat := 0x0102
abbrev badParam : Nat := 0x0103
abbrev stateConflict : Nat := 0x0201
abbrev instanceFenced : Nat := 0x0202
abbrev functionDisabled : Nat := 0x0203
abbrev lockedReg : Nat := 0x0301
abbrev writeOnce : Nat := 0x0302
abbrev notAuthorized : Nat := 0x0303
abbrev keyOrphaned : Nat := 0x0401
abbrev tamperAbort : Nat := 0x0402
abbrev keyAbsent : Nat := 0x0403
abbrev noSpace : Nat := 0x0501
abbrev queueFull : Nat := 0x0502
abbrev mediaBusy : Nat := 0x0601
abbrev notOwner : Nat := 0x0701
abbrev checkFailed : Nat := 0x0801
abbrev internalFault : Nat := 0x0F01
end St

/-! ### The state word and the device-state transitions (R60, R67, R71) -/

/-- The code of a device state in the state word (R60). -/
def devCode : DevState → Nat
  | .dawn => 0 | .day => 1 | .twilight => 2 | .dusk => 3 | .night => 4 | .recovery => 5

/-- The code of a pair role (R60). -/
def roleCode : Role → Nat
  | .solo => 0 | .active => 1 | .standby => 2 | .orphan => 3

/-- The code of an instance state (R60). -/
def instCode : InstState → Nat
  | .absent => 0 | .ready => 1 | .fencing => 2 | .fenced => 3

/-- The number of a die. -/
def dieCode : Die → Nat
  | .noon => 0 | .midnight => 1

/-- The four views of an ownership heartbeat as one number (R35). -/
def beatWord (h : Heartbeat) : Nat := roleCode h.role + 4 * bitN h.owned + 8 * devCode h.state + 64 * bitN h.permit

/-- The bytes of a seam packet that its CRC-32C covers (R21); their layout is the model's own. -/
def SeamPkt.bytes (p : SeamPkt) : Bytes :=
  le 1 (dieCode p.fromDie) ++ le 1 p.cls ++ le 8 p.seq ++ (match p.body with | .bytes b => b | .beat h => le 1 (beatWord h))

namespace State

/-! #### The die seam's sending side (R20, R21, R35) -/

/-- Hands a packet to the seam; it waits in its class (R20). -/
def seamPut (d : Die) (cls : Nat) (body : SeamBody) (s : State) : State :=
  { s with seam := { s.seam with waiting := s.seam.waiting ++ [{ fromDie := d, cls := cls, body := body }] } }

/-- A packet leaves on the seam under its die's next sequence number, and is kept for a resend (R21). -/
def seamOut (p : SeamPkt) (s : State) : State :=
  let q : SeamPkt := { p with seq := (match p.fromDie with | .noon => s.seam.noonNext | .midnight => s.seam.midNext) }
  let x := match p.fromDie with
    | .noon => { s.seam with noonNext := s.seam.noonNext + 1 }
    | .midnight => { s.seam with midNext := s.seam.midNext + 1 }
  ({ s with seam := { x with kept := x.kept ++ [q] } } : State).emit (.seam q (crc32c q.bytes))

/-- The waiting packets leave, the class with the lowest number first and each class in the order sent (R20). -/
def seamDrain (s : State) : State :=
  let w := sortOn (fun (p : SeamPkt) => p.cls) s.seam.waiting
  w.foldl (fun s p => s.seamOut p) { s with seam := { s.seam with waiting := [] } }

/-- Sends one packet of bytes from a die, with whatever waits (R20). -/
def seamSend (d : Die) (cls : Nat) (b : Bytes) (s : State) : State := (s.seamPut d cls (.bytes b)).seamDrain

/-- Sends an ownership heartbeat from a die, in class 2 (R35). -/
def seamBeat (d : Die) (hb : Heartbeat) (s : State) : State := (s.seamPut d 2 (.beat hb)).seamDrain

/-! #### What runs in a device state (R42, R546) -/

/-- Has the stage begun, in DAWN, or is DAWN over and the Noon die up? -/
def begun (s : State) (k : Nat) : Bool :=
  match s.dev.state with
  | .day => true
  | .twilight => true
  | .dawn => decide (k ≤ s.dev.stage)
  | _ => false

/-- Does MET run (R42, R546)? -/
def metRuns (s : State) : Bool :=
  match s.dev.state with
  | .dusk => false
  | .night => false
  | .dawn => decide (2 ≤ s.dev.stage) || s.pwr.resetKind == .noonRestart || s.pwr.resetKind == .loaderRestart
  | _ => true

/-- An instance (R524). -/
def inst (s : State) (i : Nat) : Inst := s.vin.insts.getD i {}

/-- Replaces an instance. -/
def setInst (i : Nat) (x : Inst) (s : State) : State := { s with vin := { s.vin with insts := s.vin.insts.put i x } }

/-- The state word of R60, for an instance where the command is bound to one. -/
def stateWord (s : State) (i : Option Nat) : Nat :=
  devCode s.dev.state + (if s.dev.state = .dawn then s.dev.stage else 0) * 2 ^ 3 + s.dev.life * 2 ^ 6
    + roleCode s.dev.role * 2 ^ 9 + (match i with | some k => instCode (s.inst k).state | none => 0) * 2 ^ 11
    + bitN s.dev.tamperHold * 2 ^ 13

/-- The Midnight permit (R33, R44, R366). -/
def midPermit (s : State) : Bool :=
  (s.dev.state = .day || (s.dev.state = .dawn && s.dev.stage == 7)) && !s.dev.tamperHold && s.seam.midMiss == 0
    && s.seam.midValid && !s.seam.permitDrop && !s.met.termActive

/-- Both permits of R32. -/
def permits (s : State) : Bool := s.par.permit && s.midPermit

/-- Has a command a final result on its way to CMD? -/
def hasResult (s : State) (q tag : Nat) : Bool := s.cmd.results.any (fun r => r.queue == q && r.tag == tag && !r.queued)

/-- The result of a transmitting command that R71 ends: STATE_CONFLICT with the state word of the state entered, for its instance. -/
def dropResult (s : State) (queue tag : Nat) (c : Option Cmd) : Result :=
  let i := c.bind (fun c => if echoBound c.opcode then some c.inst else none)
  { queue := queue, tag := tag, status := St.stateConflict, echo := some (s.stateWord i) }

/-- A transmitting command dispatched to a unit that has not yet taken it up (R71): none of its frames is under way. -/
def unsent (s : State) (c : Cmd) : Bool :=
  let is := fun (o : Option CmdRef) => o.any (fun k => k.queue == c.queue && k.tag == c.tag)
  c.stage == .dispatched && transmits c.opcode && !s.hasResult c.queue c.tag
    && !s.plc.sends.any (fun x => is x.cmd) && !s.msh.sends.any (fun x => is x.cmd)

/-- Every transmitting command whose frame has not started when the device leaves DAY completes with STATE_CONFLICT and
the state word of the state entered (R71). -/
def dropSends (s : State) : State :=
  let fails := (s.plc.sends.filter (fun x => !x.started)).map (·.cmd) ++ (s.msh.sends.filter (fun x => !x.started)).map (·.cmd)
  let own := fun (c : CmdRef) => if c.queue = ownQueue then (s.bil.pushes.get? c.tag).map Prod.fst else some c
  let cmds := (fails.filterMap id).filterMap own
  let gone := ((fails.filterMap id).filter (fun c => c.queue == ownQueue)).map (·.tag)
  let res := cmds.map (fun c => s.dropResult c.queue c.tag (s.cmdOf c)) ++ (s.cmd.cmds.filter s.unsent).map (fun c => s.dropResult c.queue c.tag (some c))
  { s with
    plc := { s.plc with sends := s.plc.sends.filter (·.started) }
    msh := { s.msh with sends := s.msh.sends.filter (·.started) }
    bil := { s.bil with pushes := s.bil.pushes.filter (fun e => !gone.contains e.1) }
    cmd := { s.cmd with results := s.cmd.results ++ res } }

/-- Device time of the last sample of the symbol in progress of the frame on the medium (R32, R118, R119): nine preamble symbols of
640 µs, then symbols of 720 µs. -/
def symbolEnd (s : State) : Nat :=
  let el := s.tim.sec * 1000000000 + s.tim.ns - s.plc.airNs
  s.plc.airNs + (if el < 5760000 then (el / 640000 + 1) * 640000 else 5760000 + ((el - 5760000) / 720000 + 1) * 720000)

/-- The frame on the medium ends with its last sample at `endNs` (R113, R117): the receive side stays blanked 200 µs more, and a
pause begins under preset 2. -/
def plcOffAir (endNs : Nat) (s : State) : State :=
  { s with plc := { s.plc with
    onAir := none, airEnd := endNs, blankUntil := endNs + 200000
    pauseUntil := if s.regField Reg.PLC_BAND 3 0 = 2 then endNs + 1000000 * s.regField Reg.PLC_BANDC_LIMIT 31 16 else s.plc.pauseUntil } }

/-- The power-line frame on the medium ends at the symbol boundary (R32): counted, logged, and the command it serves
completes TRUNCATED. -/
def truncatePlc (s : State) : State :=
  match s.plc.onAir with
  | none => s
  | some id =>
    let s := match (s.plc.sends.find? (fun x => x.id == id)).bind (·.cmd) with
      | some c => s.reply c 0x0614
      | none => s
    let s : State := { s with plc := { s.plc with
      sends := s.plc.sends.filter (fun x => x.id != id), acks := s.plc.acks.filter (fun x => x.id != id) } }
    ((s.plcOffAir s.symbolEnd).bump Reg.PLC_TX_TRUNC).log 1 4 1 0 0

/-- A region's buckets with `us` added to or taken from the one that began `age` buckets ago (R174). -/
def addBucket (add : Bool) (us : Nat) : Nat → List Nat → List Nat
  | 0, [] => if add then [us] else []
  | 0, b :: t => (if add then b + us else b - us) :: t
  | _ + 1, [] => []
  | age + 1, b :: t => b :: addBucket add us age t

/-- Does an enabled duty region of a port contain a channel (R174)? -/
def regionHas (s : State) (port region ch : Nat) : Bool :=
  let w := s.regI Reg.RFX_DC_RANGE (port * 8 + region)
  bitAt w 15 && decide (field w 6 0 ≤ ch) && decide (ch ≤ field w 14 8)

/-- The enabled duty regions of a port that contain a channel (R174). -/
def regionsOf (s : State) (port ch : Nat) : List Nat := (List.range 8).filter (fun r => s.regionHas port r ch)

/-- Charges on-time to regions of a port and to a channel, or refunds it from the bucket that it was charged to (R174). -/
def charge (add : Bool) (age : Nat) (regions : List Nat) (port ch us : Nat) (s : State) : State :=
  { s with rfx := { s.rfx with
    buckets := regions.foldl (fun t r => t.upd (port * 8 + r) [] (addBucket add us age)) s.rfx.buckets
    chanTime := s.rfx.chanTime.upd (port * 128 + ch) [] (addBucket add us age) } }

/-- TXEN of a port falls once the last ramp sample of every channel has left (R162): of the frames sent whole and of those cut short. -/
def txenLook (p : Nat) (s : State) : State :=
  let x := s.rfx.ports.getD p {}
  if x.txen && !s.rfx.tx.any (fun t => t.port == p)
      && !s.rfx.ending.any (fun e => e.1.port == p && decide (s.tim.sec * 1000000000 + s.tim.ns < e.2)) then
    ({ s with rfx := { s.rfx with ports := s.rfx.ports.put p { x with txen := false } } } : State).emit (.pin (9 + p) false)
  else s

/-- A frame's channel frees (R162, R173, R174): its last ramp sample leaves at `stop`, the receive side stays blanked 200 µs from there,
and its regions' last end is that instant. -/
def freeTx (x : RfTx) (stop : Nat) (s : State) : State :=
  let p := s.rfx.ports.getD x.port {}
  ({ s with rfx := { s.rfx with
    tx := s.rfx.tx.erase x
    lastEnd := x.regions.foldl (fun t r => t.put (x.port * 8 + r) stop) s.rfx.lastEnd
    ports := s.rfx.ports.put x.port { p with blankUntil := max p.blankUntil (stop + 200000) } } } : State).txenLook x.port

/-- The instant in ns at which a frame cut now has left the air, its ramp included (R173): at the end of the byte in progress, bytes
counted from the first sync bit, and 8 µs; none once its last bit has been sent. A frame still in its first ramp has no byte in progress.
DEDUCED (log entry 105): the preamble's bits before its last whole byte end with the first of those bytes' starts. -/
def cutEnd (x : RfTx) (now : Nat) : Option Nat :=
  let t := bitNs x.rate
  let first := x.startNs + 8000
  let r := x.preamble % 8
  let k := (now - first + t - 1) / t
  let e := if k = 0 then 0 else if k ≤ r then r else r + (k - r + 7) / 8 * 8
  if first + (x.onTime - 16) * 1000 ≤ now then none else some (first + e * t + 8000)

/-- A radio frame ends at the end of the byte in progress (R32, R173): counted, the part not sent refunded, and the command
it serves completes TRUNCATED. -/
def truncateRf (x : RfTx) (s : State) : State :=
  match cutEnd x (s.tim.sec * 1000000000 + s.tim.ns) with
  | none => s
  | some stop =>
    let s := match (s.msh.sends.find? (fun m => m.id == x.ref)).bind (·.cmd) with
      | some c => s.reply c 0x0615
      | none => s
    let s : State := { s with msh := { s.msh with sends := s.msh.sends.filter (fun m => m.id != x.ref) } }
    let s : State := { s with rfx := { s.rfx with ending := s.rfx.ending ++ [(x, stop)] } }
    ((s.charge false x.age x.regions x.port x.ch (x.onTime - (stop - x.startNs) / 1000)).freeTx x stop).bumpI Reg.RFX_TX_TRUNC x.port

/-- A draining release lets the frames on the media end whole (R512). -/
def draining (s : State) : Bool := s.par.release.any (·.draining)

/-- The radio frames on the air end, each logged (R32, R173). -/
def cutRf (s : State) : State :=
  (s.rfx.tx.filter (fun x => (cutEnd x (s.tim.sec * 1000000000 + s.tim.ns)).isSome)).foldl
    (fun s x => (s.truncateRf x).log 1 5 1 (x.port * 128 + x.ch) 0) s

/-- Frames on a medium end at the boundary when a permit is missing: counted and logged (R32, R173). -/
def truncateFrames (s : State) : State :=
  if s.permits || (s.midPermit && s.draining) then s else s.truncatePlc.cutRf

/-- The out-of-cycle heartbeat to the Midnight die after a change of ownership or role (R508). -/
def noonBeat (s : State) : State :=
  s.seamBeat .noon { role := s.dev.role, owned := s.par.owned, state := s.dev.state, permit := s.seam.noonPermitView }

/-- Steps 1 and 2 of a release (R491): the Noon permit is down, frames still on a medium end, and the island hears that ownership is
not held. -/
def releaseOne (s : State) : State :=
  let s : State := { s with par := { s.par with
    permit := false, owned := false, release := s.par.release.map (fun r => { r with draining := false }) } }
  s.truncateFrames.noonBeat

/-- A draining release goes on once no frame is on a medium (R512). -/
def drainLook (s : State) : State :=
  if s.draining && s.plc.onAir.isNone && s.rfx.tx.isEmpty then s.releaseOne else s

/-- A device-state transition with its cause (R67): CAUSE and PREV, the entry count, the global recorder, R71's ends,
and the frames that lose the Midnight permit. -/
def enterState (next : DevState) (cause : Nat) (s : State) : State :=
  let was := s.dev.state
  let s := { s with dev := { s.dev with state := next, stage := if next = DevState.dawn then s.dev.stage else 0 } }
  let s := s.setReg Reg.GLB_STATE_CAUSE (cause + (s.reg Reg.GLB_STATE_CAUSE % 256) * 256)
  let s := s.setPair Reg.GLB_STATE_ENTRY_LO s.dev.nc
  let s := s.log 5 0 1 (devCode was * 256 + devCode next) cause
  let s := if was = DevState.day && next != DevState.day then s.dropSends else s
  s.truncateFrames

/-- Sets or clears a bit of GLB.HOLD_CAUSES (R69, R81). -/
def holdCause (i : Nat) (b : Bool) (s : State) : State := s.setRegBit Reg.GLB_HOLD_CAUSES i b

/-- An event that forces TWILIGHT from DAY and changes no other state (R21, R36, R75). -/
def forceTwilight (cause : Nat) (s : State) : State :=
  if s.dev.state = .day then s.enterState .twilight cause else s

end State

end Sys2Proof.Machine
end

