-- ==== Sys2Proof/Machine/Counters.lean ====
section
/-! DEFINITION. Draws from the counters a pair keeps in step (R197, R233, R497). -/
set_option Elab.async false
namespace Sys2Proof.Machine

/-! The kinds of counter of R497. -/
namespace Ctr
abbrev txFcnt : Nat := 0
abbrev txNseq : Nat := 1
abbrev bcast : Nat := 2
abbrev mcast : Nat := 3
abbrev flood : Nat := 4
abbrev group : Nat := 5
end Ctr

namespace State

/-- The value the next draw from a counter that stands at `cur` gives (R497): after ownership is gained, the first draw adds
1 024 first. -/
def drawValue (s : State) (kind idx cur : Nat) : Nat :=
  if s.par.gained && !s.par.fresh.contains (kind, idx) then cur + 1024 else cur

/-- A drawn value goes to the partner in a COUNTER message while there is one (R497). -/
def drewCounter (kind idx v : Nat) (s : State) : State :=
  let s : State := { s with par := { s.par with
    fresh := if s.par.fresh.contains (kind, idx) then s.par.fresh else s.par.fresh ++ [(kind, idx)] } }
  if s.dev.role = .active then (s.bump Reg.PAR_COUNTER_MSGS).emit (.pair 3 (le 1 kind ++ le 4 idx ++ le 4 v)) else s

end State
end Sys2Proof.Machine
end

