-- ==== Sys2Proof/Machine/Crypto.lean ====
section
/-! DEFINITION. The public algorithms the manual names: AES-128 and AES-256, CCM (SP 800-38C), GCM (SP 800-38D), the key
wrap of SP 800-38F, SHA-384, and the key derivation of R405. -/
set_option Elab.async false
namespace Sys2Proof.Machine

/-! ### AES -/

/-- The substitution table of AES, byte x in bits [8x+7:8x]. -/
def aesTable : Nat :=
  0x16BB54B00F2D99416842E6BF0D89A18CDF2855CEE9871E9B948ED9691198F8E19E1DC186B95735610EF6034866B53E708A8BBD4B1F74DDE8C6B4A61C2E2578BA08AE7A65EAF4566CA94ED58D6D37C8E779E4959162ACD3C25C2406490A3A32E0DB0B5EDE14B8EE4688902A22DC4F816073195D643D7EA7C41744975FEC130CCDD2F3FF1021DAB6BCF5389D928F40A351A89F3C507F02F94585334D43FBAAEFD0CF584C4A39BECB6A5BB1FC20ED00D153842FE329B3D63B52A05A6E1B1A2C830975B227EBE28012079A059618C323C7041531D871F1E5A534CCF73F362693FDB7C072A49CAFA2D4ADF04759FA7DC982CA76ABD7FE2B670130C56F6BF27B777C63

/-- The inverse substitution table of AES. -/
def aesInvTable : Nat :=
  0x7D0C2155631469E126D677BA7E042B17619953833CBBEBC8B0F52AAE4D3BE0A0EF9CC9939F7AE52D0D4AB519A97F51605FEC8027591012B131C7078833A8DD1FF45ACD78FEC0DB9A2079D2C64B3E56FC1BBE18AA0E62B76F89C5291D711AF1476EDF751CE837F9E28535ADE72274AC9673E6B4F0CECFF297EADC674F4111913A6B8A130103BDAFC1020F3FCA8F1E2CD00645B3B80558E4F70AD3BC8C00ABD890849D8DA75746155EDAB9EDFD5048706C92B6655DCC5CA4D41698688664F6F87225D18B6D49A25B76B224D92866A12E084EC3FA420B954CEE3D23C2A632947B54CBE9DEC444438E3487FF2F9B8239E37CFBD7F3819EA340BF38A53630D56A0952

/-- SubBytes of one byte. -/
def aesSub (x : Nat) : Nat := (aesTable >>> (8 * x)) % 256

/-- The inverse of SubBytes of one byte. -/
def aesInvSub (x : Nat) : Nat := (aesInvTable >>> (8 * x)) % 256

/-- Multiplication by x in the field of AES. -/
def aesX (x : Nat) : Nat := if x < 128 then 2 * x else (2 * x) ^^^ 0x11B

/-- Multiplication by a constant of MixColumns and its inverse. -/
def aesMul (k x : Nat) : Nat :=
  let x2 := aesX x
  let x4 := aesX x2
  let x8 := aesX x4
  (if k.testBit 0 then x else 0) ^^^ (if k.testBit 1 then x2 else 0) ^^^ (if k.testBit 2 then x4 else 0)
    ^^^ (if k.testBit 3 then x8 else 0)

/-- Two byte lists XORed. -/
def xorL (a b : List Nat) : List Nat := List.zipWith (fun x y => x ^^^ y) a b

/-- MixColumns of one column by the circulant row given. -/
def aesMixCol (c : List Nat) (k : List Nat) : List Nat :=
  (List.range 4).map (fun i => (List.range 4).foldl (fun a j => a ^^^ aesMul (k.getD ((j + 4 - i) % 4) 0) (c.getD j 0)) 0)

/-- MixColumns of a 16-byte state. -/
def aesMix (k : List Nat) (st : List Nat) : List Nat :=
  aesMixCol (st.take 4) k ++ aesMixCol ((st.drop 4).take 4) k ++ aesMixCol ((st.drop 8).take 4) k ++ aesMixCol (st.drop 12) k

/-- ShiftRows by `d` columns per row number. -/
def aesShift (d : Nat) (st : List Nat) : List Nat :=
  (List.range 16).map (fun i => st.getD ((i + 4 * d * (i % 4)) % 16) 0)

/-- The key words, newest first: `n` more words from word number `i` on, `nk` the key length in words. -/
def aesExpand (nk : Nat) : Nat → Nat → Nat → List (List Nat) → List (List Nat)
  | 0, _, _, ws => ws
  | n + 1, i, rc, ws =>
    let prev := ws.headD []
    let t := if i % nk = 0 then xorL ((prev.drop 1 ++ prev.take 1).map aesSub) [rc, 0, 0, 0]
      else if 6 < nk && i % nk == 4 then prev.map aesSub else prev
    aesExpand nk n (i + 1) (if i % nk = 0 then aesX rc else rc) (xorL (ws.getD (nk - 1) []) t :: ws)

/-- Groups a list in fours, joined: the round keys of 16 bytes. -/
def aesRoundKeys (key : List Nat) : List (List Nat) :=
  let nk := key.length / 4
  let first := (List.range nk).map (fun i => (key.drop (4 * i)).take 4)
  let ws := (aesExpand nk (4 * (nk + 7) - nk) nk 1 first.reverse).reverse
  (List.range (nk + 7)).map (fun r => ((ws.drop (4 * r)).take 4).flatten)

/-- The rounds of AES after the first key addition. -/
def aesRounds : List (List Nat) → List Nat → List Nat
  | [], st => st
  | [k], st => xorL (aesShift 1 (st.map aesSub)) k
  | k :: ks, st => aesRounds ks (xorL (aesMix [2, 3, 1, 1] (aesShift 1 (st.map aesSub))) k)

/-- AES encryption of one block, by round keys. -/
def aesBlock (rk : List (List Nat)) (b : List Nat) : List Nat := aesRounds (rk.drop 1) (xorL b (rk.headD []))

/-- The rounds of AES decryption, the keys in reverse order. -/
def aesInvRounds : List (List Nat) → List Nat → List Nat
  | [], st => st
  | [k], st => xorL ((aesShift 3 st).map aesInvSub) k
  | k :: ks, st => aesInvRounds ks (aesMix [14, 11, 13, 9] (xorL ((aesShift 3 st).map aesInvSub) k))

/-- AES decryption of one block, by round keys. -/
def aesInvBlock (rk : List (List Nat)) (b : List Nat) : List Nat :=
  let r := rk.reverse
  aesInvRounds (r.drop 1) (xorL b (r.headD []))

/-- A byte string as numbers, and back. -/
def natsOf (b : Bytes) : List Nat := b.map BitVec.toNat

/-- Numbers as a byte string. -/
def bytesOf (l : List Nat) : Bytes := l.map (BitVec.ofNat 8)

/-- The round keys of a 32-byte key field: an AES-128 key in bytes 0 to 15, or an AES-256 key (R415). -/
def roundKeys (aes256 : Bool) (key : Bytes) : List (List Nat) :=
  aesRoundKeys (natsOf (fit (if aes256 then 32 else 16) key))

/-! ### CCM (R220) -/

/-- Chains the 16-byte blocks of a byte string, zero-filled at its end, into a CBC-MAC. -/
def cbcMac (rk : List (List Nat)) : Nat → List Nat → List Nat → List Nat
  | 0, st, _ => st
  | _ + 1, st, [] => st
  | n + 1, st, l => cbcMac rk n (aesBlock rk (xorL st ((l ++ List.replicate 16 0).take 16))) (l.drop 16)

/-- The counter stream of CCM from counter block `i` on, `n` blocks. -/
def ccmStream (rk : List (List Nat)) (nonce : List Nat) : Nat → Nat → List Nat
  | 0, _ => []
  | n + 1, i => aesBlock rk (1 :: nonce ++ [i / 256 % 256, i % 256]) ++ ccmStream rk nonce n (i + 1)

/-- The tag of CCM over a plaintext, encrypted by counter block 0 (R220). -/
def ccmTag (rk : List (List Nat)) (nonce aad plain : List Nat) (t : Nat) : List Nat :=
  let q := plain.length
  let b0 := (bitN (!aad.isEmpty) * 0x40 + 8 * ((t - 2) / 2) + 1) :: nonce ++ [q / 256 % 256, q % 256]
  let a := if aad.isEmpty then [] else [aad.length / 256 % 256, aad.length % 256] ++ aad
  let st := aesBlock rk b0
  let st := cbcMac rk (a.length / 16 + 1) st a
  let st := cbcMac rk (q / 16 + 1) st plain
  (xorL st (ccmStream rk nonce 1 0)).take t

/-- CCM encryption: the ciphertext followed by the tag. -/
def ccmSeal (rk : List (List Nat)) (nonce aad plain : Bytes) (t : Nat) : Bytes :=
  let p := natsOf plain
  bytesOf (xorL p (ccmStream rk (natsOf nonce) (ceilDiv p.length 16) 1) ++ ccmTag rk (natsOf nonce) (natsOf aad) p t)

/-- CCM decryption: the plaintext, where the tag at the end verifies. -/
def ccmOpen (rk : List (List Nat)) (nonce aad sealed : Bytes) (t : Nat) : Option Bytes :=
  let c := natsOf (sealed.take (sealed.length - t))
  let p := xorL c (ccmStream rk (natsOf nonce) (ceilDiv c.length 16) 1)
  if t ≤ sealed.length ∧ natsOf (sealed.drop (sealed.length - t)) = ccmTag rk (natsOf nonce) (natsOf aad) p t then some (bytesOf p)
  else none

/-! ### GCM (R223) -/

/-- Multiplication in the field of GCM, `n` bits of `x` still to take (bit 127 of a number is GCM's first bit). -/
def gcmMul : Nat → Nat → Nat → Nat → Nat
  | 0, _, _, z => z
  | n + 1, x, v, z =>
    gcmMul n x (if v.testBit 0 then (v >>> 1) ^^^ (0xE1 <<< 120) else v >>> 1) (if x.testBit n then z ^^^ v else z)

/-- The number of a big-endian list. -/
def natOfBe (l : List Nat) : Nat := l.foldl (fun a b => a * 256 + b) 0

/-- The 16 big-endian bytes of a number. -/
def be16 (x : Nat) : List Nat := (List.range 16).map (fun i => (x >>> (8 * (15 - i))) % 256)

/-- GHASH over a list, zero-filled to blocks. -/
def ghash (h : Nat) : Nat → Nat → List Nat → Nat
  | 0, y, _ => y
  | _ + 1, y, [] => y
  | n + 1, y, l => ghash h n (gcmMul 128 (y ^^^ natOfBe ((l ++ List.replicate 16 0).take 16)) h 0) (l.drop 16)

/-- The counter stream of GCM with a 12-byte IV. -/
def gcmStream (rk : List (List Nat)) (iv : List Nat) : Nat → Nat → List Nat
  | 0, _ => []
  | n + 1, i => aesBlock rk (iv ++ (be16 i).drop 12) ++ gcmStream rk iv n (i + 1)

/-- The 16-byte tag of GCM over a ciphertext. -/
def gcmTag (rk : List (List Nat)) (iv aad c : List Nat) : List Nat :=
  let h := natOfBe (aesBlock rk (List.replicate 16 0))
  let y := ghash h (aad.length / 16 + 1) 0 aad
  let y := ghash h (c.length / 16 + 1) y c
  let y := gcmMul 128 (y ^^^ (aad.length * 8 * 2 ^ 64 + c.length * 8)) h 0
  xorL (be16 y) (gcmStream rk iv 1 1)

/-- GCM encryption: the ciphertext followed by the tag. -/
def gcmSeal (rk : List (List Nat)) (iv aad plain : Bytes) : Bytes :=
  let p := natsOf plain
  let c := xorL p (gcmStream rk (natsOf iv) (ceilDiv p.length 16) 2)
  bytesOf (c ++ gcmTag rk (natsOf iv) (natsOf aad) c)

/-- GCM decryption: the plaintext, where the tag at the end verifies. -/
def gcmOpen (rk : List (List Nat)) (iv aad sealed : Bytes) : Option Bytes :=
  let c := natsOf (sealed.take (sealed.length - 16))
  if 16 ≤ sealed.length ∧ natsOf (sealed.drop (sealed.length - 16)) = gcmTag rk (natsOf iv) (natsOf aad) c then
    some (bytesOf (xorL c (gcmStream rk (natsOf iv) (ceilDiv c.length 16) 2)))
  else none

/-! ### Key wrap (R415, R421) -/

/-- The block of semiblock `i` of a list of 8-byte semiblocks. -/
def semi (l : List Nat) (i : Nat) : List Nat := (l.drop (8 * i)).take 8

/-- Puts a semiblock. -/
def putSemi (l : List Nat) (i : Nat) (v : List Nat) : List Nat := l.take (8 * i) ++ v ++ l.drop (8 * i + 8)

/-- AES-KW of a string of whole semiblocks. -/
def kwWrap (rk : List (List Nat)) (plain : Bytes) : Bytes :=
  let n := plain.length / 8
  let r := (List.range (6 * n)).foldl (fun (e : List Nat × List Nat) t =>
    let b := aesBlock rk (e.1 ++ semi e.2 (t % n))
    (xorL (b.take 8) ((be16 (t + 1)).drop 8), putSemi e.2 (t % n) (b.drop 8))) (List.replicate 8 0xA6, natsOf plain)
  bytesOf (r.1 ++ r.2)

/-- The inverse of AES-KW, where its integrity check passes. -/
def kwUnwrap (rk : List (List Nat)) (w : Bytes) : Option Bytes :=
  let n := w.length / 8 - 1
  let c := natsOf w
  let r := (List.range (6 * n)).foldl (fun (e : List Nat × List Nat) k =>
    let t := 6 * n - 1 - k
    let b := aesInvBlock rk (xorL e.1 ((be16 (t + 1)).drop 8) ++ semi e.2 (t % n))
    (b.take 8, putSemi e.2 (t % n) (b.drop 8))) (c.take 8, c.drop 8)
  if r.1 = List.replicate 8 0xA6 then some (bytesOf r.2) else none

/-! ### SHA-384 -/

/-- The 80 round constants of SHA-384. -/
def shaK : List Nat :=
  [0x428A2F98D728AE22, 0x7137449123EF65CD, 0xB5C0FBCFEC4D3B2F, 0xE9B5DBA58189DBBC, 0x3956C25BF348B538] ++
  [0x59F111F1B605D019, 0x923F82A4AF194F9B, 0xAB1C5ED5DA6D8118, 0xD807AA98A3030242, 0x12835B0145706FBE] ++
  [0x243185BE4EE4B28C, 0x550C7DC3D5FFB4E2, 0x72BE5D74F27B896F, 0x80DEB1FE3B1696B1, 0x9BDC06A725C71235] ++
  [0xC19BF174CF692694, 0xE49B69C19EF14AD2, 0xEFBE4786384F25E3, 0x0FC19DC68B8CD5B5, 0x240CA1CC77AC9C65] ++
  [0x2DE92C6F592B0275, 0x4A7484AA6EA6E483, 0x5CB0A9DCBD41FBD4, 0x76F988DA831153B5, 0x983E5152EE66DFAB] ++
  [0xA831C66D2DB43210, 0xB00327C898FB213F, 0xBF597FC7BEEF0EE4, 0xC6E00BF33DA88FC2, 0xD5A79147930AA725] ++
  [0x06CA6351E003826F, 0x142929670A0E6E70, 0x27B70A8546D22FFC, 0x2E1B21385C26C926, 0x4D2C6DFC5AC42AED] ++
  [0x53380D139D95B3DF, 0x650A73548BAF63DE, 0x766A0ABB3C77B2A8, 0x81C2C92E47EDAEE6, 0x92722C851482353B] ++
  [0xA2BFE8A14CF10364, 0xA81A664BBC423001, 0xC24B8B70D0F89791, 0xC76C51A30654BE30, 0xD192E819D6EF5218] ++
  [0xD69906245565A910, 0xF40E35855771202A, 0x106AA07032BBD1B8, 0x19A4C116B8D2D0C8, 0x1E376C085141AB53] ++
  [0x2748774CDF8EEB99, 0x34B0BCB5E19B48A8, 0x391C0CB3C5C95A63, 0x4ED8AA4AE3418ACB, 0x5B9CCA4F7763E373] ++
  [0x682E6FF3D6B2B8A3, 0x748F82EE5DEFB2FC, 0x78A5636F43172F60, 0x84C87814A1F0AB72, 0x8CC702081A6439EC] ++
  [0x90BEFFFA23631E28, 0xA4506CEBDE82BDE9, 0xBEF9A3F7B2C67915, 0xC67178F2E372532B, 0xCA273ECEEA26619C] ++
  [0xD186B8C721C0C207, 0xEADA7DD6CDE0EB1E, 0xF57D4F7FEE6ED178, 0x06F067AA72176FBA, 0x0A637DC5A2C898A6] ++
  [0x113F9804BEF90DAE, 0x1B710B35131C471B, 0x28DB77F523047D84, 0x32CAAB7B40C72493, 0x3C9EBE0A15C9BEBC] ++
  [0x431D67C49C100D4C, 0x4CC5D4BECB3E42B6, 0x597F299CFC657E2A, 0x5FCB6FAB3AD6FAEC, 0x6C44198C4A475817]

/-- The initial hash value of SHA-384. -/
def shaH : List Nat :=
  [0xCBBB9D5DC1059ED8, 0x629A292A367CD507, 0x9159015A3070DD17, 0x152FECD8F70E5939] ++
  [0x67332667FFC00B31, 0x8EB44A8768581511, 0xDB0C2E0D64F98FA7, 0x47B5481DBEFA4FA4]

/-- Rotation right of a 64-bit word. -/
def rotr64 (n x : Nat) : Nat := (x >>> n) ^^^ ((x <<< (64 - n)) % 2 ^ 64)

/-- The message schedule, newest first, `n` words to add. -/
def shaSchedule : Nat → List Nat → List Nat
  | 0, w => w
  | n + 1, w =>
    let a := w.getD 1 0
    let b := w.getD 14 0
    let s1 := rotr64 19 a ^^^ rotr64 61 a ^^^ (a >>> 6)
    let s0 := rotr64 1 b ^^^ rotr64 8 b ^^^ (b >>> 7)
    shaSchedule n ((s1 + w.getD 6 0 + s0 + w.getD 15 0) % 2 ^ 64 :: w)

/-- One round on the eight working words. -/
def shaRound (v : List Nat) (k w : Nat) : List Nat :=
  let a := v.getD 0 0
  let b := v.getD 1 0
  let c := v.getD 2 0
  let d := v.getD 3 0
  let e := v.getD 4 0
  let f := v.getD 5 0
  let g := v.getD 6 0
  let h := v.getD 7 0
  let t1 := h + (rotr64 14 e ^^^ rotr64 18 e ^^^ rotr64 41 e) + ((e &&& f) ^^^ ((e ^^^ (2 ^ 64 - 1)) &&& g)) + k + w
  let t2 := (rotr64 28 a ^^^ rotr64 34 a ^^^ rotr64 39 a) + ((a &&& b) ^^^ (a &&& c) ^^^ (b &&& c))
  [(t1 + t2) % 2 ^ 64, a, b, c, (d + t1) % 2 ^ 64, e, f, g]

/-- One block of 128 bytes. -/
def shaBlock (h : List Nat) (b : List Nat) : List Nat :=
  let w := (List.range 16).map (fun i => natOfBe ((b.drop (8 * i)).take 8))
  let ws := (shaSchedule 64 w.reverse).reverse
  let v := (List.zip shaK ws).foldl (fun (v : List Nat) (e : Nat × Nat) => shaRound v e.1 e.2) h
  List.zipWith (fun x y => (x + y) % 2 ^ 64) h v

/-- All blocks of a padded message. -/
def shaBlocks : Nat → List Nat → List Nat → List Nat
  | 0, h, _ => h
  | n + 1, h, l => shaBlocks n (shaBlock h (l.take 128)) (l.drop 128)

/-- SHA-384 of a byte string, 48 bytes. -/
def sha384 (m : Bytes) : Bytes :=
  let n := m.length
  let total := (n + 17 + 127) / 128
  let msg := natsOf m ++ [0x80] ++ List.replicate (total * 128 - n - 17) 0 ++ be16 (8 * n)
  bytesOf (((shaBlocks total shaH msg).take 6).map (fun x => (be16 x).drop 8)).flatten

/-! ### Key derivation -/

/-- The eight ASCII bytes of a label. -/
def labelBytes (l : String) : Bytes := l.toList.map (fun c => BitVec.ofNat 8 c.toNat)

/-- KDF(K, L, x) (R405). -/
def kdf (k : Bytes) (l : String) (x : Nat) : Bytes := (sha384 (k ++ labelBytes l ++ le 8 x)).take 32

end Sys2Proof.Machine
end

