-- ==== Sys2Proof/Machine/Ep.lean ====
section
/-! DEFINITION. Endpoint contexts as every unit reads and writes them: lookup by index and EUI-64, changes with the
dirty mark of R240, and the context cache (R237 to R240). -/
set_option Elab.async false
namespace Sys2Proof.Machine

/-- FLAGS.VALID of a context (R238). -/
def Ctx.valid (x : Ctx) : Bool := bitAt x.flags 0

/-- FLAGS.PIN of a context (R239). -/
def Ctx.pin (x : Ctx) : Bool := bitAt x.flags 4

/-- A slot of a context's routes, slot 0 to 3 (R151). -/
def Ctx.slot (x : Ctx) (k : Nat) : PlcRoute := x.slots.getD k {}

/-- A list padded to `n` entries with the entry at `k` replaced. -/
def setAt {α : Type} (d : α) (n k : Nat) (v : α) (l : List α) : List α :=
  (List.range n).map (fun i => if i = k then v else l.getD i d)

/-- The context with one route slot replaced. -/
def Ctx.setSlot (k : Nat) (r : PlcRoute) (x : Ctx) : Ctx := { x with slots := setAt {} 4 k r x.slots }

namespace State

/-- The context at an index, valid or not (R237); an absent one is all zero. -/
def ctx (s : State) (i : Nat) : Ctx := s.ing.ctxs.getD i {}

/-- The valid context at an index. -/
def epAt (s : State) (i : Nat) : Option Ctx := (s.ing.ctxs.get? i).filter (·.valid)

/-- The valid context with an EUI-64, and its index (R236, R237). -/
def epOf (s : State) (eui : Nat) : Option (Nat × Ctx) := s.ing.ctxs.find? (fun e => e.2.valid && e.2.eui == eui)

/-- Writes a context without a dirty mark. -/
def putCtx (i : Nat) (x : Ctx) (s : State) : State := { s with ing := { s.ing with ctxs := s.ing.ctxs.put i x } }

/-- Writes a context, which becomes dirty (R240). -/
def setCtx (i : Nat) (x : Ctx) (s : State) : State :=
  let s := s.putCtx i x
  if s.ing.dirty.contains i then s
  else { s with ing := { s.ing with
    dirty := s.ing.dirty ++ [i], dirtyAt := if s.ing.dirtyAt.has i then s.ing.dirtyAt else s.ing.dirtyAt.put i s.cod.bseq } }

/-- Changes a valid context; nothing where there is none. -/
def modCtx (i : Nat) (f : Ctx → Ctx) (s : State) : State :=
  match s.epAt i with
  | some x => s.setCtx i (f x)
  | none => s

/-- May a command act on an endpoint: a valid context of the command's instance (R159, R209, R266)? -/
def epMine (s : State) (c : CmdRef) (i : Nat) : Bool :=
  match s.epAt i with
  | some x => x.inst == c.inst
  | none => false

/-- Brings a context into the cache as the most recently used, evicting the least recently used unpinned one of 32 768
(R239); the second component says that it missed. -/
def cacheTouch (i : Nat) (s : State) : State × Bool :=
  if s.ing.cache.contains i then
    ({ s with ing := { s.ing with cache := i :: s.ing.cache.erase i } }, false)
  else
    let c := s.ing.cache
    let c := if c.length < 32768 then c
      else match c.reverse.find? (fun k => !(s.ctx k).pin) with
        | some k => c.erase k
        | none => c
    ({ s with ing := { s.ing with cache := i :: c } }, true)

/-- The whole device seconds of now. -/
def nowSec (s : State) : Nat := s.tim.sec

/-- DIGEST_S in force (R514). -/
def digestS (s : State) : Nat :=
  let d := s.regField Reg.PAR_DIGEST_CFG 5 0
  if d = 0 ∨ 60 < d then 10 else d

/-- An item enters a digest stream, 0 VERDICT, 1 RECORD or 2 BILLING, of the epoch its frame's stamp lies in (R504). -/
def digestItem (stream rts : Nat) (xs : List Nat) (s : State) : State :=
  { s with par := { s.par with
    items := s.par.items.upd (rts / 2 ^ 30 / s.digestS * 4 + stream) [] (fun b => b ++ Config.digestItem stream xs) } }

end State
end Sys2Proof.Machine
end

