-- ==== Sys2Proof/Machine/Kvt.lean ====
section
/-! DEFINITION. The key vault as every unit uses it: lookups and unwraps, caches, generations, the commit of changes and
authorizations (R404 to R424). -/
set_option Elab.async false
namespace Sys2Proof.Machine

/-- The first PLACE of the shared keys (R415). -/
abbrev sharedBase : Nat := 0x80000000

/-- The PLACE a KEYREF names for a key set and an instance (R414, R415). -/
def placeOf (keyset inst ref : Nat) : Option Nat :=
  if ref < 8 then some (keyset * 8 + ref) else if 0x80 ≤ ref then some (sharedBase + inst * 128 + (ref - 0x80)) else none

/-- May a key of the usage given serve a MIC under a KEYREF (R414)? -/
def micUsage (ref usage : Nat) : Bool :=
  if 0x80 ≤ ref then usage == 2 || usage == 3 else (ref == 1 || ref == 2 || ref == 3 || ref == 6 || ref == 7) && usage == 1

/-- May a key of the usage given serve an HTAG: slot 0 as a link key, or the network hop key (R194, R414)? -/
def tagUsage (ref usage : Nat) : Bool := if 0x80 ≤ ref then usage == 2 || usage == 3 else ref == 0 && usage == 0

/-- Does a usage fit a leaf (R414)? KIND 0 with its slot, KIND 1 shared. -/
def usageFits (kind ref usage : Nat) : Bool :=
  if kind = 0 then
    match ref with
    | 0 => usage == 0
    | 4 => usage == 4
    | 5 => usage == 5
    | _ => usage == 1
  else usage == 2 || usage == 3

/-- Are blob FLAGS (byte 2) sound for a usage (R415)? -/
def flagsOk (usage flags : Nat) : Bool :=
  decide (field flags 2 1 ≤ 1) && decide (flags < 32) && (bitAt flags 3 == (usage == 4 || usage == 5))

namespace State

/-- Changes KVT. -/
def setKvt (f : Kvt → Kvt) (s : State) : State := { s with kvt := f s.kvt }

/-- SET_GEN, VER4 and VER5 of an index in MRAM (R417). -/
def setEntry (s : State) (set : Nat) : Nat × Nat × Nat := s.kvt.setGens.getD set (1, 1, 1)

/-- VER of a slot (R415, R417). -/
def slotVer (s : State) (set slot : Nat) : Nat :=
  if slot = 4 then (s.setEntry set).2.1 else if slot = 5 then (s.setEntry set).2.2 else 0

/-- NGEN and IGEN in MRAM, and the Noon part's mirrors (R417). -/
def ngen (s : State) (i : Nat) : Nat := s.kvt.ngen.getD i 1
def igen (s : State) (i : Nat) : Nat := s.kvt.igen.getD i 1
def mirNgen (s : State) (i : Nat) : Nat := s.kvt.mirNgen.getD i 1
def mirSet (s : State) (set : Nat) : Nat := s.kvt.mirSet.getD set 1

/-- PARENT_GEN in force on the Noon part for a PLACE (R415, R417). -/
def parentGen (s : State) (place inst : Nat) : Nat := if place < sharedBase then s.mirSet (place / 8) else s.mirNgen inst

/-- Are all tags of an unwrapped link, frame, hop or group key at their present values (R419)? -/
def tagsNow (s : State) (k : KeySnap) : Bool :=
  k.lc == s.dev.life && k.instGen == s.mirNgen k.inst && k.parentGen == s.parentGen k.place k.inst && k.epoch == (s.inst k.inst).epoch

/-- Is a PLACE pinned in the cache: a slot of the set of a pinned context (R419)? -/
def keyPinned (s : State) (place : Nat) : Bool :=
  decide (place < sharedBase) && s.ing.ctxs.any (fun e => e.2.valid && e.2.pin && e.2.keyset == place / 8)

/-- The cached keys that stand pinned: of the slot keys of pinned contexts' sets, 32 768 at most (R419). DESIGN CHOICE (log entry 114): past
that number, those used most recently. -/
def pinnedKeys (s : State) : List KeySnap := (s.kvt.cache.filter (fun k => s.keyPinned k.place)).take 32768

/-- Removes the last entry that a test marks. -/
def dropLast (p : KeySnap → Bool) (l : List KeySnap) : List KeySnap :=
  match l.reverse.find? p with
  | some k => l.erase k
  | none => l.dropLast

/-- Puts an unwrapped key into the cache, evicting the least recently used unpinned one of 65 536 (R419). -/
def cacheKey (k : KeySnap) (s : State) : State :=
  let c := s.kvt.cache.filter (fun x => x.place != k.place)
  let c := if c.length < 65536 then c else dropLast (fun x => !s.pinnedKeys.contains x) c
  s.setKvt (fun v => { v with cache := k :: c })

/-- A blob that fails steps 1, 2, 4 or 5 of R416: counted and logged. -/
def unwrapFail (place : Nat) (s : State) : State := (s.bump Reg.KVT_UNWRAP_FAIL).log 0 0x0E 1 place 0

/-- Unwraps a blob for the Noon part (R416): the key, its absence, or an orphan. A MIDNIGHT key gives only its header. -/
def unwrapNoon (place inst : Nat) (s : State) : KeyRes × State :=
  if !s.kvt.nkek then (.absent, s)
  else match s.kvt.blobs.get? place with
    | none => (.absent, s)
    | some b =>
      if b.bad || b.inst != inst then (.absent, s.unwrapFail place)
      else if b.lc ≠ s.dev.life ∨ b.parentGen ≠ s.parentGen place inst ∨ (¬b.midnight ∧ b.instGen ≠ s.mirNgen inst) then
        (.orphaned, s.bump Reg.KVT_ORPHANED)
      else
        let k : KeySnap :=
          { place := place, inst := inst, usage := b.usage, mode := b.mode, aes256 := b.aes256, lc := b.lc, parentGen := b.parentGen
            instGen := b.instGen, epoch := (s.inst inst).epoch, key := if b.midnight then [] else b.key }
        if b.midnight then (.ok k, s) else (.ok k, (s.bump Reg.KVT_UNWRAPS).cacheKey k)

/-- A key lookup on the Noon part (R216, R218, R419): the result, and whether it missed. -/
def noonKey (place inst : Nat) (s : State) : KeyRes × Bool × State :=
  match s.kvt.cache.find? (fun k => k.place == place && k.inst == inst && s.tagsNow k) with
  | some k => (.ok k, false, s.setKvt (fun v => { v with cache := k :: v.cache.erase k }))
  | none =>
    let (r, s) := s.unwrapNoon place inst
    (r, true, s)

/-- Are the roots available: not sealed by tamper hold, and a life-cycle state with a root (R407, R424)? -/
def rootsOpen (s : State) : Bool := !s.dev.tamperHold && (s.dev.life == 1 || s.dev.life == 2 || s.dev.life == 3)

/-- Is an advance permitted (R408)? -/
def advanceOk (from' goal : Nat) : Bool :=
  [(0, 1), (1, 2), (2, 3), (1, 4), (2, 4), (3, 4)].contains (from', goal)

/-- A key of the vault core's own use, slot 4 or 5 of a set (R416, R420): unwrapped under ISETK into the island cache. -/
def islandKey (set slot inst : Nat) (s : State) : KeyRes × State :=
  let place := set * 8 + slot
  let now := fun (k : KeySnap) => k.place == place && k.inst == inst && k.lc == s.dev.life && k.instGen == s.igen inst
    && k.parentGen == (s.setEntry set).1 && k.ver == s.slotVer set slot
  if !s.rootsOpen then (.absent, s)
  else match s.kvt.island.find? now with
    | some k => (.ok k, s.setKvt (fun v => { v with island := k :: v.island.erase k }))
    | none => match s.kvt.blobs.get? place with
      | none => (.absent, s)
      | some b =>
        if b.bad || b.inst != inst || !b.midnight then (.absent, s.unwrapFail place)
        else if b.lc ≠ s.dev.life ∨ b.parentGen ≠ (s.setEntry set).1 ∨ b.instGen ≠ s.igen inst ∨ b.ver ≠ s.slotVer set slot then
          (.orphaned, s.bump Reg.KVT_ORPHANED)
        else
          let k : KeySnap :=
            { place := place, inst := inst, usage := b.usage, mode := b.mode, aes256 := b.aes256, lc := b.lc, parentGen := b.parentGen
              instGen := b.instGen, ver := b.ver, key := b.key }
          let c := s.kvt.island.filter (fun x => x.place != place)
          (.ok k, (s.bump Reg.KVT_UNWRAPS).setKvt (fun v => { v with island := (k :: c).take 4096 }))

/-! #### Root values (R405, R407, R413) -/

/-- ROOT_s of the present life-cycle state (R407). -/
def root (s : State) : Bytes := kdf (s.kvt.seed.getD []) "FB96ROOT" s.dev.life

/-- IREG, the island register key (R413). -/
def ireg (s : State) : Bytes := kdf (s.kvt.seed.getD []) "FB96IREG" 0


/-- A KVT notice (R429). -/
def kvtNotice (reason value count : Nat) (s : State) : State := s.event 0 (le 1 reason ++ le 1 value ++ le 2 count)

/-- A fresh CHALLENGE (R412). -/
def newChallenge (s : State) : State :=
  let c := s.drawFree % 2 ^ 64
  s.drawn.setKvt (fun v => { v with challenge := c })

/-! #### The group transmit counters (R233) -/

/-- Next value and durable ceiling of a shared key's counter. -/
def groupOf (s : State) (place : Nat) : Nat × Nat := s.kvt.groups.getD place (1, 65536)

/-! #### Checkpoint writes (R240, R422, R578) -/

/-- A write to the checkpoint area begins. -/
def startJob (j : CkptJob) (s : State) : State :=
  { s with ing := { s.ing with jobs := s.ing.jobs.put s.ing.nextJob j, nextJob := s.ing.nextJob + 1 } }

/-- A write to the checkpoint area ends. -/
def endJob (id : Nat) (s : State) : State := { s with ing := { s.ing with jobs := s.ing.jobs.del id } }

/-! #### The commit of a change (R417, R418, R422) -/

/-- Raises a generation counter of 32 bits. -/
def bumpGen (t : Tab Nat) (i : Nat) : Tab Nat := t.put i (min (2 ^ 32 - 1) (t.getD i 1 + 1))

/-- SET_GEN of an index rises by one in MRAM. -/
def bumpSetGen (set : Nat) (s : State) : State :=
  let e := s.setEntry set
  s.setKvt (fun v => { v with setGens := v.setGens.put set (min (2 ^ 32 - 1) (e.1 + 1), e.2) })

/-- The targets in MRAM are written (R422 step 3). -/
def applyRecord (c : KeyChange) (s : State) : State :=
  match c with
  | .createSet set _ => s.bumpSetGen set
  | .deleteSet set => s.bumpSetGen set
  | .put place b =>
    let set := place / 8
    let e := s.setEntry set
    if b.usage = 4 then s.setKvt (fun v => { v with setGens := v.setGens.put set (e.1, b.ver, e.2.2) })
    else if b.usage = 5 then s.setKvt (fun v => { v with setGens := v.setGens.put set (e.1, e.2.1, b.ver) })
    else s
  | .remove _ => s
  | .bumpSet set => s.bumpSetGen set
  | .bumpNgen i => s.setKvt (fun v => { v with ngen := bumpGen v.ngen i })
  | .bumpIgen i => s.setKvt (fun v => { v with igen := bumpGen v.igen i })
  | .pair k => s.setKvt (fun v => { v with pairKey := k })

/-- Copies cached under a PLACE go (R418). -/
def purgePlace (place : Nat) (s : State) : State :=
  s.setKvt (fun v => { v with cache := v.cache.filter (fun k => k.place != place), island := v.island.filter (fun k => k.place != place) })

/-- A key resolved at lookup that has been purged since (R228). -/
def markKey (p : KeySnap → Bool) (r : KeyRes) : KeyRes :=
  match r with
  | .ok k => if p k then .purged else r
  | _ => r

/-- Frames past lookup lose the keys a test names (R228). -/
def purgeIntake (p : KeySnap → Bool) (s : State) : State :=
  { s with fse := { s.fse with intake := s.fse.intake.map (fun f => { f with micKey := markKey p f.micKey, tagKey := markKey p f.tagKey }) } }

/-- The endpoints whose key set a change touches may be noticed again (R234). -/
def setTouched (set : Nat) (s : State) : State :=
  { s with fse := { s.fse with orphaned := s.fse.orphaned.filter (fun i => (s.ctx i).keyset != set) } }

/-- The Noon mirror is updated and NEXT becomes current (R417, R422 step 4). -/
def applyMirror (c : KeyChange) (s : State) : State :=
  match c with
  | .createSet set i =>
    (s.setKvt (fun v => { v with sets := v.sets.put set i, mirSet := v.mirSet.put set (s.setEntry set).1 })).setTouched set
  | .deleteSet set =>
    (s.setKvt (fun v => { v with
      sets := v.sets.del set, mirSet := v.mirSet.put set (s.setEntry set).1
      blobs := v.blobs.filter (fun e => !(decide (e.1 < sharedBase) && e.1 / 8 == set)) })).setTouched set
  | .put place b =>
    if place < sharedBase ∧ ¬s.kvt.sets.has (place / 8) then s
    else
      let s := (s.purgePlace place).setKvt (fun v => { v with blobs := v.blobs.put place b })
      if place < sharedBase then s.setTouched (place / 8) else s.setKvt (fun v => { v with groups := v.groups.put place (1, 65536) })
  | .remove place =>
    let s := (s.purgePlace place).setKvt (fun v => { v with blobs := v.blobs.del place })
    let s := s.purgeIntake (fun k => k.place == place)
    if place < sharedBase then s.setTouched (place / 8) else s
  | .bumpSet set => (s.setKvt (fun v => { v with mirSet := v.mirSet.put set (s.setEntry set).1 })).setTouched set
  | .bumpNgen i => s.setKvt (fun v => { v with mirNgen := v.mirNgen.put i (s.ngen i) })
  | .bumpIgen _ => s
  | .pair _ => s

/-- Does a change make a key-set record durable (R422)? -/
def keyDurable : KeyChange → Bool
  | .createSet _ _ => true
  | .deleteSet _ => true
  | .put _ _ => true
  | .remove _ => true
  | _ => false

/-- RESULT0 and RESULT1 of a change (R428). -/
def keyResult (s : State) (op : KeyOp) : Nat × Nat :=
  match op.change with
  | .createSet set _ => (set, (s.setEntry set).1 % 65536)
  | .deleteSet set => (0, (s.setEntry set).1 % 65536)
  | .put place _ => (0, if place < sharedBase then (s.setEntry (place / 8)).1 % 65536 else 0)
  | .remove _ => (0, 1)
  | .bumpSet set => ((s.setEntry set).1, 0)
  | .bumpNgen i => (s.ngen i, 0)
  | .bumpIgen i => (s.igen i, 0)
  | .pair _ => (0, bitN op.inval)

/-- A key command leaves the list of those under way. -/
def dropKeyOp (id : Nat) (s : State) : State := s.setKvt (fun v => { v with ops := v.ops.filter (fun o => o.id != id) })

/-- A key command completes OK. -/
def finishKeyOp (op : KeyOp) (s : State) : State :=
  let r := s.keyResult op
  let s := if op.inval then s.bump Reg.KVT_INVALIDATES else s
  (s.dropKeyOp op.id).replyWith op.cmd St.ok r.1 r.2

/-- A key command fails. -/
def failKeyOp (op : KeyOp) (status : Nat) (s : State) : State := (s.dropKeyOp op.id).reply op.cmd status

/-- The stage of a key command changes. -/
def stageKeyOp (id : Nat) (st : KeyStage) (s : State) : State :=
  s.setKvt (fun v => { v with ops := v.ops.map (fun o => if o.id == id then { o with stage := st } else o) })

/-- The stage of MRAM wear that the counts of rows, pages and records show (R426). -/
def wearStage (s : State) : Nat :=
  if s.kvt.journalCap = 0 then 6
  else if s.kvt.journalCap ≤ 64 then 5
  else if s.kvt.journalCap < 256 then 4
  else if s.kvt.pagesRetired ≠ 0 then 3
  else if s.kvt.spareRows ≠ 0 then 2
  else 1

/-- A page of MRAM is retired (R426 stages 3 to 6): it moves to a spare page, or with none left takes 32 records of the token journal, and
after those 16 of the commit ring. -/
def retirePage (s : State) : State :=
  let v := s.kvt
  if v.pagesRetired < 256 then s.setKvt (fun v => { v with pagesRetired := v.pagesRetired + 1 })
  else if v.journalCap ≠ 0 then s.setKvt (fun v => { v with journalCap := v.journalCap - 32 })
  else s.setKvt (fun v => { v with ringCap := v.ringCap - 16 })

/-- A word of MRAM has failed its fourth write (R422, R426): three rewrites are counted, its row is remapped, and a page that then holds 8
remapped rows, or finds no spare row, is retired. Which page the row lies in the manual does not say: whether it is full is a free value. -/
def wordFailed (s : State) : State :=
  let was := s.wearStage
  let s := s.bumpBy Reg.KVT_MRAM_WV_RETRY 3
  let full := s.drawFree % 2 = 1
  let s := if s.kvt.spareRows < 4096 then s.drawn.setKvt (fun v => { v with spareRows := v.spareRows + 1 }) else s
  let s := if full ∨ 4096 ≤ s.kvt.spareRows then s.retirePage else s
  let now := s.wearStage
  let s := if now = was then s else s.kvtNotice 4 now 0
  if was < 5 ∧ 5 ≤ now then s.kvtNotice 5 0 0 else s

/-- The commit record is written and verified, and its targets are written (R422 steps 2 and 3); a fourth mismatch ends the
command with INTERNAL_FAULT. -/
def commitRecord (op : KeyOp) (recordOk : Bool) (s : State) : State :=
  if recordOk then (s.applyRecord op.change).stageKeyOp op.id .record else s.wordFailed.failKeyOp op St.internalFault

/-- A key command begins (R422), as a request to the vault core over the seam (R20): by its first checkpoint write where a key-set record changes, else by its commit record. -/
def startKeyOp (c : CmdRef) (inval : Bool) (change : KeyChange) (recordOk : Bool) (s : State) : State :=
  let op : KeyOp := { id := s.kvt.nextOp, cmd := c, inval := inval, change := change, stage := .next }
  let s := (s.setKvt (fun v => { v with ops := v.ops ++ [op], nextOp := v.nextOp + 1 })).seamSend .noon 5 (le 8 op.id)
  if keyDurable change then s.startJob (.key op.id) else s.commitRecord op recordOk

/-- A checkpoint write of a key command ends (R422). -/
def keyJobDone (id : Nat) (ok recordOk : Bool) (s : State) : State :=
  match s.kvt.ops.find? (fun o => o.id == id) with
  | none => s
  | some op =>
    if op.stage = .second then (if ok then s.finishKeyOp op else s.startJob (.key id))
    else if ok then s.commitRecord op recordOk
    else s.failKeyOp op 0x0512

/-- The vault core's reply reaches the Noon part (R417, R422 step 4). -/
def keyMirrored (id : Nat) (s : State) : State :=
  match s.kvt.ops.find? (fun o => o.id == id && o.stage == .record) with
  | none => s
  | some op =>
    let s := (s.seamSend .midnight 5 (le 8 id)).applyMirror op.change
    if keyDurable op.change then (s.stageKeyOp id .second).startJob (.key id) else s.finishKeyOp op

/-- A tamper alarm aborts every key command whose record is not yet verified (R424). -/
def abortKeyOps (s : State) : State :=
  (s.kvt.ops.filter (fun o => o.stage == .next)).foldl (fun s o => (s.failKeyOp o St.tamperAbort).bump Reg.KVT_TAMPER_ABORTS) s

/-! #### Authorizations (R411, R412) -/

/-- The authority a purpose needs in the present state, LIFECYCLE under R408 (R412). -/
def authorityFor (s : State) (purpose : Nat) : Nat :=
  match purpose with
  | 1 => if s.dev.life = 1 then 0 else 1
  | 2 => if s.dev.life = 1 then 0 else 1
  | 3 => if s.dev.life = 1 then 0 else 2
  | _ => 2

/-- Does an authorization pass every check of R412? -/
def authPasses (s : State) (a : AuthIn) (purpose arg : Nat) : Bool :=
  a.formOk && a.purpose == purpose && a.authority == s.authorityFor purpose && s.kvt.auth.get? a.authority == some a.keyDigest
    && a.lcFrom == s.dev.life && a.eui == s.dev.eui && a.challenge == s.kvt.challenge && a.arg == arg && a.sigOk

/-- A verification has been made (R412): counted, and CHALLENGE replaced. -/
def authUsed (pass : Bool) (s : State) : State := (s.bump (if pass then Reg.KVT_AUTH_OK else Reg.KVT_AUTH_FAIL)).newChallenge

/-- The key identifier of an authority (R411). -/
def authId (s : State) (k : Nat) : Nat := leAt (s.kvt.auth.getD k []) 0 8

end State
end Sys2Proof.Machine
end

