-- ==== Sys2Proof/Machine/Views.lean ====
section
/-! DEFINITION. Registers that show structured state: what a read of each returns (the RO rows of the register maps). -/
set_option Elab.async false
namespace Sys2Proof.Machine
namespace State

/-- A power domain (R540). -/
def domain (s : State) (d : Nat) : Domain := s.pwr.domains.getD d {}

/-- Has the host switched a domain off (R542, R556)? -/
def shut (s : State) (d : Nat) : Bool := (s.domain d).hostOff

/-- Is a domain on? -/
def domOn (s : State) (d : Nat) : Bool := (s.domain d).state == .on

/-- MRAM_WEAR (R426). -/
def wornMram (s : State) : Bool := decide (s.kvt.journalCap ≤ 64)

/-- GLB.HEALTH [2] (R315). -/
def arcHealth (s : State) : Bool :=
  s.arc.map.any (fun e => e.2.info.degraded) || s.arc.drives.any (fun e => decide (e.2.stage ∈ [3, 4, 5, 7])) || !s.arc.hold.isEmpty

/-- Namespaces an instance owns (R526). -/
def nsOwned (s : State) (i : Nat) : Nat := (s.arc.nss.filter (fun e => e.1 != 0 && e.2.owner == i)).length

/-- Key sets of an instance. -/
def setsOf (s : State) (i : Nat) : Nat := s.kvt.sets.count (· == i)

/-- Contexts with PIN = 1, of one instance or in all. -/
def pinsOf (s : State) (i : Nat) : Nat := s.ing.ctxs.count (fun x => x.valid && x.pin && x.inst == i)
def pinsAll (s : State) : Nat := s.ing.ctxs.count (fun x => x.valid && x.pin)

/-- Valid contexts of an instance. -/
def epsOf (s : State) (i : Nat) : Nat := s.ing.ctxs.count (fun x => x.valid && x.inst == i)

/-- What an instance still holds, for VIN.DESTROY (R534): contexts, key sets, namespaces. -/
def instHolds (s : State) (i : Nat) : Nat :=
  bitN (s.epsOf i != 0) + 2 * bitN (s.setsOf i != 0) + 4 * bitN (s.nsOwned i != 0)

/-- The inputs active now (R364). -/
def tampersActive (s : State) : Nat :=
  (List.range 4).foldl (fun a i => a + bitN (s.met.tampers.getD i {}).active * 2 ^ i) 0

/-- A time source (R437). -/
def source (s : State) (k : Nat) : Source := s.tim.sources.getD k {}

/-- The code of a time state (R435). -/
def timeCode : TimeState → Nat
  | .unset => 0 | .free => 1 | .locking => 2 | .locked => 3 | .holdover => 4

/-- TIME_VALID (R435). -/
def timeValid (s : State) : Bool := s.tim.state == .locked || s.tim.state == .holdover

/-- GLB.HEALTH [3] (R435). -/
def timeHoldover (s : State) : Bool := s.tim.state == .holdover

/-- TIM.STATUS (R448). -/
def timStatus (s : State) : Nat :=
  timeCode s.tim.state + bitN s.timeValid * 2 ^ 3 + s.tim.selected * 2 ^ 4 + bitN s.tim.stepped * 2 ^ 7
    + bitN s.tim.tickRef * 2 ^ 8 + bitN (s.tim.pinned != 0) * 2 ^ 9
    + (List.range 4).foldl (fun a i => a + bitN (s.source (i + 1)).qualified * 2 ^ (12 + i)) 0

/-- A signed number saturated to 32 bits. -/
def sat32 (x : Int) : Nat := toField 32 (clampInt (-(2 ^ 31)) (2 ^ 31 - 1) x)

/-- Live registers of TIM (R448). -/
def liveTim (off : Nat) (s : State) : Option Nat :=
  if off = Reg.TIM_STATUS then some s.timStatus
  else if off = Reg.TIM_RATE then some (toField 32 s.tim.rate)
  else if off = Reg.TIM_OFFSET then some (sat32 (s.source s.tim.selected).offset)
  else if off = Reg.TIM_HOLD_SECONDS then some s.tim.holdSeconds
  else if off = Reg.TIM_LQ_LEVEL then some s.tim.queue.length
  else none

/-- Device time as a full ns count (R442). -/
def nowNs (s : State) : Nat := s.tim.sec * 1000000000 + s.tim.ns


/-! #### PLC (R112, R130 to R138) -/

/-- The chains a mode allows (R112): `en` masked by the coupling mode; `tx` for transmission. -/
def chainMask (coupling en : Nat) (tx : Bool) : Nat :=
  match coupling with
  | 1 => if tx then en % 8 else en
  | 2 => en % 2
  | _ => if tx then en % 2 else en % 2 + en / 8 * 8

/-- Does power-line reception run (R42, R111): from D5 on, with PLC on and the analog chains powered? -/
def plcReceives (s : State) : Bool := s.begun 5 && !s.shut 39 && s.domOn 63

/-- Chains in use for reception, L1 in bit 0 (R112); none while reception does not run (R42, R111, R542). -/
def rxChains (s : State) : Nat := if !s.plcReceives then 0 else chainMask (s.regField Reg.PLC_CTRL 1 0) (s.regField Reg.PLC_CTRL 7 4) false

/-- Chains in use for transmission, L1 in bit 0 (R112): the analog chains are powered only while reception runs (R111). -/
def txChains (s : State) : Nat := if !s.plcReceives then 0 else chainMask (s.regField Reg.PLC_CTRL 1 0) (s.regField Reg.PLC_CTRL 11 8) true

/-- The chains that work on a reception: all of its group until its PHR is decided, then those that decode it (R134). -/
def rxHeld (r : PlcRx) : List Nat := if r.phr.isNone then r.chains ++ r.group else r.chains

/-- The chains with a frame in reception (R138). -/
def rxBusy (s : State) : Nat := s.plc.rx.foldl (fun a r => (rxHeld r).foldl (fun a c => putBit a c true) a) 0

/-- Is the coupling mode DC (R112, R130)? -/
def dcMode (s : State) : Bool := s.regField Reg.PLC_CTRL 1 0 == 2

/-- The source of segment 0 in use (R130): DC at all times in coupling mode 2. -/
def zcSource (s : State) : Nat := if s.dcMode then 4 else s.plc.zc.source

/-- ZC_FALLBACK (R132). -/
def zcFallback (s : State) : Bool := !s.dcMode && decide (2 ≤ s.plc.zc.source)

/-- Is a frame of the part on the power line: until the last sample of the symbol in which it ends (R32, R113)? -/
def plcSending (s : State) : Bool := s.plc.onAir.isSome || decide (s.nowNs < s.plc.airEnd)

/-- Does the band count as in use (R117)? Never while no chain receives. -/
def bandInUse (s : State) : Bool := s.rxChains != 0 && s.plc.bandBusy

/-- The length of the cycle in ns (R130, R158): the last measured period, or 20 000 µs of the virtual cycle. -/
def cycleNs (s : State) : Nat := if s.zcSource == 4 || s.zcSource == 0 || s.plc.zc.period == 0 then 20000000 else s.plc.zc.period

/-- The latest start of segment 0 at or before `t` (R125, R130, R138): the crossing measured, or the one projected on the last period.
DESIGN CHOICE (log entry 95): the virtual cycle starts at whole multiples of 20 ms of device time. -/
def cycleStart (s : State) (t : Nat) : Nat :=
  if s.zcSource == 4 || s.zcSource == 0 || s.plc.zc.period == 0 then t - t % 20000000
  else t - (t + s.plc.zc.period - s.plc.zc.last % s.plc.zc.period) % s.plc.zc.period

/-- ZC_LAST (R138): 0 before the first crossing, the measured crossing while MET or the coarse detector is in use, else the projected one. -/
def zcLast (s : State) : Nat :=
  match s.zcSource with
  | 0 => s.plc.zc.last
  | 1 => s.plc.zc.last
  | 2 => s.plc.zc.last
  | _ => s.cycleStart s.nowNs

/-- Is a MET channel's latest crossing valid (R138)? Never while the channel is powered down (R132). -/
def zcChan (s : State) (ch : Nat) : Bool := bitAt s.plc.zc.chanValid ch && s.domOn (54 + ch)

/-- The skew of a crossing behind L1's in 0.01 degrees (R138). -/
def zcSkew (s : State) (ch : Nat) : Nat :=
  let z := s.plc.zc
  if s.zcChan 0 && s.zcChan ch && z.period != 0 then
    ((z.chanLast.getD ch 0 + z.period - z.chanLast.getD 0 0) % z.period) * 36000 / z.period
  else 0

/-- The fixed delay of an Ethernet port's receive path and its integrator term, which the stamp loses (R441). ETHn_SPD high is 25GBASE-R. -/
def ethRxNs (s : State) (port : Nat) : Int := (if bitAt s.pwr.ethSpd port then 38 else 61) + (s.regField (Reg.TIM_ETH0_DELAY + 4 * port) 15 0 : Nat)

/-- The fixed delay of an Ethernet port's transmit path and its integrator term, which the stamp gains (R441). -/
def ethTxNs (s : State) (port : Nat) : Int := (if bitAt s.pwr.ethSpd port then 33 else 54) + (s.regField (Reg.TIM_ETH0_DELAY + 4 * port) 31 16 : Nat)

/-- Does the pair link run (R42, R45, R546): from D5 on, neither in NIGHT nor in RECOVERY, and not switched off? -/
def pairLinkUp (s : State) : Bool :=
  !s.shut 47 && (match s.dev.state with
    | .night => false
    | .recovery => false
    | .dawn => decide (5 ≤ s.dev.stage)
    | _ => true)

/-- A time in ns in the form of R4. -/
def stampOf (ns : Nat) : Nat := ns / 1000000000 * 2 ^ 30 + ns % 1000000000

/-- The stamp of a message that arrives at an Ethernet port now, moved to the medium boundary (R41, R441). -/
def ethArrival (s : State) (port : Nat) : Nat := stampOf ((s.nowNs : Int) - s.ethRxNs port).toNat

/-- Does an Ethernet port run (R42, R546): from D5 on, and not switched off? -/
def ethUp (s : State) (port : Nat) : Bool := s.begun 5 && !s.shut (19 + port)

/-- The noise figures of a chain, segment and group (R135). -/
def noiseOf (s : State) (chain seg group : Nat) : Noise := s.plc.noise.getD ((chain * 12 + seg) * 80 + group) {}

/-- A NOISE_DATA word (R138, R160). -/
def noiseWord (n : Noise) : Nat := min (n.mean / 65536) 255 + min n.peak 255 * 2 ^ 8 + min n.impulses 65535 * 2 ^ 16

/-- PLC.STATUS (R138). -/
def plcStatus (s : State) : Nat :=
  bitN s.zcFallback + 2 * bitN (s.zcSource == 4) + 4 * bitN s.plcSending + 8 * bitN s.bandInUse + s.rxBusy * 2 ^ 4
    + bitN s.par.permit * 2 ^ 8 + bitN s.midPermit * 2 ^ 9 + (s.rxChains ||| s.txChains) * 2 ^ 10

/-- Live registers of PLC (R138). -/
def livePlc (off : Nat) (s : State) : Option Nat :=
  let z := s.plc.zc
  if off = Reg.PLC_ZC_STATUS then
    some (s.zcSource + (bitN (s.zcChan 0) + 2 * bitN (s.zcChan 1) + 4 * bitN (s.zcChan 2)) * 2 ^ 3 + bitN z.coarseValid * 2 ^ 6 + min z.run 255 * 2 ^ 8)
  else if off = Reg.PLC_ZC_PERIOD then some (z.period % 2 ^ 32)
  else if off = Reg.PLC_ZC_LAST_LO then some (stampOf s.zcLast % 2 ^ 32)
  else if off = Reg.PLC_ZC_LAST_HI then some (stampOf s.zcLast / 2 ^ 32 % 2 ^ 32)
  else if off = Reg.PLC_ZC_SKEW then some (s.zcSkew 1 % 2 ^ 16 + s.zcSkew 2 % 2 ^ 16 * 2 ^ 16)
  else if off = Reg.PLC_STATUS then some s.plcStatus
  else if off = Reg.PLC_NOISE_DATA then
    let w := s.reg Reg.PLC_NOISE_SEL
    some (if field w 7 4 < 12 ∧ field w 14 8 < 80 then noiseWord (s.noiseOf (field w 1 0) (field w 7 4) (field w 14 8)) else 0)
  else none

/-! #### RFX (R164 to R178) -/

/-- A sample port (R162). -/
def rfPort (s : State) (p : Nat) : RfPort := s.rfx.ports.getD p {}

/-- Changes RFX. -/
def setRfx (f : Rfx → Rfx) (s : State) : State := { s with rfx := f s.rfx }

/-- Changes a port. -/
def modPort (p : Nat) (f : RfPort → RfPort) (s : State) : State :=
  s.setRfx (fun r => { r with ports := r.ports.put p (f (r.ports.getD p {})) })

/-- Sets a port's gain code and drives its GAIN pins, counting a change (R162, R169). -/
def setGain (p g : Nat) (s : State) : State :=
  let old := (s.rfPort p).gain
  if old = g then s
  else
    let s := (s.modPort p (fun x => { x with gain := g, gains := ((s.nowNs, old) :: x.gains).take 8 })).bumpI Reg.RFX_GAIN_STEPS p
    [0, 1, 2].foldl (fun s i => s.emit (.pin (11 + 3 * p + i) (bitAt g i))) s

/-- A port whose AGC is off holds GAIN_FIXED (R169). -/
def fixedGains (s : State) : State :=
  [0, 1].foldl (fun s p => let w := s.regI Reg.RFX_PORT_CTRL p; if bitAt w 3 then s else s.setGain p (field w 18 16)) s

/-- TXEN and the GAIN pins of a port that is switched off are low (R162). -/
def rfPinsOff (s : State) : State :=
  [0, 1].foldl (fun s p =>
    let x := s.rfPort p
    let s := if x.txen then s.emit (.pin (9 + p) false) else s
    [0, 1, 2].foldl (fun s i => if bitAt x.gain i then s.emit (.pin (11 + 3 * p + i) false) else s) s) s

/-- The radio frames whose ramps have not ended: those on the air and those cut short (R173). -/
def rfAir (s : State) : List RfTx := s.rfx.tx ++ (s.rfx.ending.filter (fun e => decide (s.nowNs < e.2))).map Prod.fst

/-- May the port receive at all (R42, R164, R178)? -/
def rxOn (s : State) (p : Nat) : Bool :=
  let x := s.rfPort p
  s.begun 5 && bitAt (s.regI Reg.RFX_PORT_CTRL p) 0 && x.clk && x.framed && !x.down

/-- The noise floor of a channel in dB below full scale (R178): a measurement while the port receives, then the last one stored. The
figure is a free value of the noon cycle. -/
def noiseFloor (s : State) (idx : Nat) : Nat :=
  if s.rxOn (idx / 128) then Config.unstated 12 idx s.dev.nc % 256 else s.rfx.floor.getD idx 0 % 256

/-- Window on-time of a region in µs (R174). -/
def regionUsed (s : State) (k : Nat) : Nat := ((s.rfx.buckets.getD k []).take 60).foldl (· + ·) 0

/-- SAMPLE_STATUS (R178). -/
def sampleStatus (s : State) (p : Nat) : Nat :=
  let x := s.rfPort p
  let tx := s.rfAir.filter (fun t => t.port == p)
  bitN x.clk + 2 * bitN x.framed + 4 * bitN (x.overload != 0) + 8 * bitN (!tx.isEmpty)
    + tx.foldl (fun a t => putBit a t.slot true) 0 * 2 ^ 4 + bitN x.dutyLost * 2 ^ 8 + x.jammed.length * 2 ^ 16

/-- Live registers of RFX (R178). -/
def liveRfx (off idx : Nat) (s : State) : Option Nat :=
  if off = Reg.RFX_GAIN_STATUS then some ((s.rfPort idx).gain + min (s.rfPort idx).clipped 255 * 2 ^ 8)
  else if off = Reg.RFX_SAMPLE_STATUS then some (s.sampleStatus idx)
  else if off = Reg.RFX_DEMOD_BUSY then some (s.rfx.rx.length + (s.rfx.rx.filter (fun r => r.port == 1)).length * 2 ^ 16)
  else if off = Reg.RFX_DC_USED then some (s.regionUsed idx / 1000)
  else if off = Reg.RFX_CH_STATUS then
    some (bitN ((s.rfPort (idx / 128)).jammed.contains (idx % 128))
      + 2 * bitN (s.rfx.rx.any (fun r => r.port == idx / 128 && r.ch == idx % 128))
      + 4 * bitN (s.rfAir.any (fun t => t.port == idx / 128 && t.ch == idx % 128)) + s.noiseFloor idx * 2 ^ 8)
  else if off = Reg.RFX_CH_ONTIME then some (((s.rfx.chanTime.getD idx []).take 60).foldl (· + ·) 0 / 1000)
  else none
/-- LANE_STATUS.MODE: 0 TMR, 1 duplex, 2 simplex (R74, R82). DESIGN CHOICE (log entry 123): with no lane up it shows 2. -/
def laneMode (s : State) : Nat :=
  let n := bitN (bitAt s.cmd.lanesUp 0) + bitN (bitAt s.cmd.lanesUp 1) + bitN (bitAt s.cmd.lanesUp 2)
  if n = 3 then 0 else if n = 2 then 1 else 2

/-- GLB.HEALTH (R81). -/
def health (s : State) : Nat :=
  bitN s.dev.tamperHold + 2 * bitN s.wornMram + 4 * bitN s.arcHealth + 8 * bitN s.timeHoldover
    + 16 * bitN s.zcFallback + 32 * bitN (s.laneMode != 0)

/-- Live registers of GLB (R81). -/
def liveGlb (off : Nat) (s : State) : Option Nat :=
  if off = Reg.GLB_STATE then some (s.stateWord none)
  else if off = Reg.GLB_HEALTH then some s.health
  else none

/-- A queue (R46). -/
def queue (s : State) (q : Nat) : Queue := s.cmd.queues.getD q {}

/-- Commands of a queue fetched and not completed. -/
def queueCmds (s : State) (q : Nat) : List Cmd := s.cmd.cmds.filter (fun c => c.queue == q)

/-- CQ depth of a queue (R47, R82). -/
def cqDepth (s : State) (q : Nat) : Nat := 2 ^ (field (s.regI Reg.CMD_QSIZE q) 7 4 + 1)

/-- SQ depth of a queue (R47, R82). -/
def sqDepth (s : State) (q : Nat) : Nat := 2 ^ field (s.regI Reg.CMD_QSIZE q) 3 0

/-- Has the CQ two free entries beyond those reserved (R55)? -/
def cqRoom (s : State) (q : Nat) : Bool :=
  decide ((s.queue q).cqUsed + (s.queue q).reserved + 2 ≤ s.cqDepth q)

/-- QSTAT.IDLE: disabled, with no completion of the queue still to be written (R49). -/
def queueIdle (s : State) (q : Nat) : Bool :=
  !(s.queue q).enabled && (s.queueCmds q).isEmpty && !(s.cmd.results.any (fun r => r.queue == q))

/-- Commands between QUEUED and final completion (R62). -/
def queuedOutstanding (s : State) : Nat := (s.cmd.cmds.filter (·.queuedPosted)).length

/-- Commands admitted that have posted QUEUED or still may (R62): with 1 024 of them the limit could be passed. DEDUCED (log entry 88). -/
def queuedClaims (s : State) : Nat :=
  (s.cmd.cmds.filter (fun c => c.queuedPosted || (c.stage != .done && (opInfo c.opcode).any (·.mayQueue)))).length

/-- LANE_STATUS [11:8]: RESYNC_BUSY and the lane in resync, the one that comes back first (R76, R82). -/
def resyncField (s : State) : Nat :=
  match (sortOn (fun (e : Nat × Nat × Bool) => e.2.1) s.cmd.resyncs).head? with
  | some e => 1 + 4 * (e.1 % 4)
  | none => 0

/-- Live registers of CMD (R82). DESIGN CHOICE (log entry 89): QSTAT [31:16] counts decoded commands, not descriptors that wait at CMD's
input. -/
def liveCmd (off idx : Nat) (s : State) : Option Nat :=
  let q := s.queue idx
  if off = Reg.CMD_QSTAT then
    some (bitN q.enabled + 2 * bitN (s.queueIdle idx) + 4 * bitN q.error
      + 8 * bitN (!s.cqRoom idx) + q.errCode * 2 ^ 8
      + ((s.queueCmds idx).length % 2 ^ 16) * 2 ^ 16)
  else if off = Reg.CMD_QPTR then some (q.sqHead + q.cqTail * 2 ^ 16)
  else if off = Reg.CMD_LANE_STATUS then some (s.cmd.lanesUp + s.laneMode * 2 ^ 4 + s.resyncField * 2 ^ 8)
  else if off = Reg.CMD_NC_COUNT_LO then some (s.dev.nc % 2 ^ 32)
  else if off = Reg.CMD_NC_COUNT_HI then some (s.dev.nc / 2 ^ 32 % 2 ^ 32)
  else if off = Reg.CMD_QUEUED_OUTSTANDING then some s.queuedOutstanding
  else none

/-- Bit `v % 32` upward of the pending-bit array word `w` (R90). -/
def pbaWord (s : State) (w : Nat) : Nat :=
  (List.range 32).foldl (fun a i => a + bitN (s.hbr.vectors.getD (w * 32 + i) {}).pending * 2 ^ i) 0

/-- A DWORD of the MSI-X table (R90): address low and high, data, vector control. -/
def vectorWord (s : State) (v k : Nat) : Nat :=
  let x := s.hbr.vectors.getD v {}
  if k = 0 then x.addr % 2 ^ 32 else if k = 1 then x.addr / 2 ^ 32 else if k = 2 then x.data else bitN x.masked

/-- Live registers of HBR (R110). -/
def liveHbr (off idx : Nat) (s : State) : Option Nat :=
  let r := s.ring idx
  if off = Reg.HBR_LINK_STATUS then
    some (if s.hbr.dlUp then
        s.hbr.speed + s.hbr.width * 2 ^ 8 + 2 ^ 16 + bitN s.hostAbsent * 2 ^ 17 + bitN s.tag10InUse * 2 ^ 18
          + bitN (s.relaxedFor 0) * 2 ^ 19 + bitN s.hbr.ari * 2 ^ 20
      else bitN s.hostAbsent * 2 ^ 17)
  else if off = Reg.HBR_HELD_FILL then some (s.hbr.held.length % 2 ^ 32)
  else if off = Reg.HBR_NSEQ_LO then some (s.hbr.nseq % 2 ^ 32)
  else if off = Reg.HBR_NSEQ_HI then some (s.hbr.nseq / 2 ^ 32 % 2 ^ 32)
  else if off = Reg.HBR_SEAM_READS then some s.hbr.seamReads.length
  else if off = Reg.HBR_NR_STATUS then
    some (bitN r.enabled + 2 * bitN (r.enabled && decide (s.ringSize idx ≤ r.used)) + 4 * bitN r.error
      + 8 * bitN (s.hbr.held.any (fun n => n.fn == idx)))
  else if off = Reg.HBR_NR_PTR then some (r.head + r.tail * 2 ^ 16)
  else if 0x1BF80 ≤ off ∧ off < 0x1C000 then some (s.pbaWord ((off - 0x1BF80) / 4))
  else if 0x1C000 ≤ off ∧ off < 0x20000 then some (s.vectorWord ((off - 0x1C000) / 16) ((off - 0x1C000) / 4 % 4))
  else none

/-- A fabric target (R515). -/
def target (s : State) (t : Nat) : Target := s.fab.targets.getD t {}

/-- Ports active at a target: requesting and not QUIET (R517). -/
def activePorts (s : State) (t : Nat) : List Nat :=
  (((s.target t).waiting.map (·.port)).filter (fun p => !(s.fab.quiet.contains p))).eraseDups

/-- Live registers of FAB (R523). -/
def liveFab (off idx : Nat) (s : State) : Option Nat :=
  if off = Reg.FAB_QUIET_MASK then some (s.fab.quiet.foldl (fun a p => putBit a p true) 0)
  else if off = Reg.FAB_ACTIVE then some (s.activePorts idx).length
  else none

/-- Bound commands of an instance between QUEUED and final completion (R526). -/
def queuedUse (s : State) (i : Nat) : Nat :=
  (s.cmd.cmds.filter (fun c => c.queuedPosted && c.inst == i)).length

/-- Word `k` of the instance window (R535). -/
def instWord (s : State) (i k : Nat) : Nat :=
  let x := s.inst i
  match k with
  | 0 => i + instCode x.state * 2 ^ 4 + bitN x.disabled * 2 ^ 6 + x.epoch * 2 ^ 8 + x.cause * 2 ^ 16
  | 1 => s.epsOf i
  | 2 => x.quota.epMax
  | 3 => s.setsOf i
  | 4 => x.quota.keysetMax
  | 5 => s.queuedUse i + x.quota.queuedMax * 2 ^ 16
  | 6 => s.nsOwned i + x.quota.nsMax * 2 ^ 8 + s.pinsOf i * 2 ^ 16
  | 7 => x.quota.pinMax + min x.fences 65535 * 2 ^ 16
  | _ => 0

/-- A mask over the sixteen instances. -/
def instMask (s : State) (p : Inst → Bool) : Nat :=
  (List.range 16).foldl (fun a i => a + bitN (p (s.inst i)) * 2 ^ i) 0

/-- Live registers of VIN (R537). -/
def liveVin (off : Nat) (s : State) : Option Nat :=
  if off = Reg.VIN_READY_MASK then
    some (s.instMask (fun x => x.state == .ready) + s.instMask (·.disabled) * 2 ^ 16)
  else if off = Reg.VIN_FENCE_MASK then
    some (s.instMask (fun x => x.state == .fencing) + s.instMask (fun x => x.state == .fenced) * 2 ^ 16)
  else if windowBase 20 + 0x20 ≤ off ∧ off ≤ windowBase 20 + 0x3C then
    some (s.instWord (s.regField Reg.VIN_INST_SEL 3 0) ((off - windowBase 20 - 0x20) / 4))
  else none

/-- The code of a domain state (R557). -/
def domCode : DomState → Nat
  | .off => 0 | .ramping => 1 | .on => 2 | .fault => 3

/-- The class of a domain: 0 F, 1 A, 2 H, 3 never switched (R540). -/
def domClass (d : Nat) : Nat :=
  if d = 48 then 3
  else if d ∈ [19, 20, 21, 22, 39, 41, 46, 47] then 2
  else if d = 1 ∨ (12 ≤ d ∧ d ≤ 15) ∨ (23 ≤ d ∧ d ≤ 38) ∨ d = 40 ∨ d = 43 ∨ d = 44 ∨ (54 ≤ d ∧ d ≤ 61) ∨ d = 63 then 1
  else 0

/-- DOM_STATUS of a domain (R557). -/
def domStatus (s : State) (d : Nat) : Nat :=
  let x := s.domain d
  domCode x.state + domClass d * 4 + bitN (x.state != .on) * 16 + bitN x.hostOff * 32 + min x.faults 65535 * 2 ^ 16

/-- The domains in a state, domain 0 in bit [0] (R556). -/
def domMask (s : State) (p : DomState → Bool) : Nat :=
  (List.range 64).foldl (fun a d => a + bitN (p (s.domain d).state) * 2 ^ d) 0

/-- PWR.STATUS (R557). -/
def pwrStatus (s : State) : Nat :=
  (if s.dev.state = .dawn then s.dev.stage else 8) + bitN s.pwr.refOk * 2 ^ 4 + bitN s.pwr.pllLock * 2 ^ 5
    + bitN s.pwr.pllLock * 2 ^ 6 + bitN s.pwr.supplyValid * 2 ^ 7
    + bitN (s.dev.state = .dawn && s.dev.stage == 1 && !s.pwr.refOk) * 2 ^ 8 + bitN s.pwr.d7Waiting * 2 ^ 9

/-- RESET_CAUSE (R545, R557). -/
def resetCause (s : State) : Nat :=
  match s.pwr.resetKind with
  | .powerOn => 1 | .duskReturn => 2 | .noonRestart => 4 | .loaderRestart => 8

/-- Live registers of PWR (R557). -/
def livePwr (off idx : Nat) (s : State) : Option Nat :=
  if off = Reg.PWR_STATUS then some s.pwrStatus
  else if off = Reg.PWR_RESET_CAUSE then some s.resetCause
  else if off = Reg.PWR_DUSK_INFO then some s.pwr.duskInfo
  else if off = Reg.PWR_DUSK_COUNT then some s.pwr.duskCount
  else if off = Reg.PWR_OVERRUN_COUNT then some s.pwr.overruns
  else if off = Reg.PWR_DOM_STATUS then some (s.domStatus idx)
  else if off = Reg.PWR_DOM_ON_LO then some (s.domMask (· == .on) % 2 ^ 32)
  else if off = Reg.PWR_DOM_ON_HI then some (s.domMask (· == .on) / 2 ^ 32)
  else if off = Reg.PWR_STAGE_TIME then some (s.pwr.stageTime.getD idx 0)
  else if off = Reg.PWR_DRAM then some (s.pwr.dramGib + s.pwr.dramChannels * 2 ^ 10)
  else none

/-- Live registers of AON (R558). -/
def liveAon (off : Nat) (s : State) : Option Nat :=
  if off = Reg.AON_STATUS then
    some (bitN s.aon.rtcValid + 2 * bitN s.aon.vbatLow + 4 * bitN s.aon.vbatLost + s.tampersActive * 2 ^ 4
      + s.aon.restored * 2 ^ 8 + bitN s.aon.nightOverflow * 2 ^ 13 + bitN s.aon.crcFail * 2 ^ 14)
  else if off = Reg.AON_RTC_SEC_LO then some (s.aon.rtcSec % 2 ^ 32)
  else if off = Reg.AON_RTC_SEC_HI then some (s.aon.rtcSec / 2 ^ 32 % 2 ^ 16)
  else if off = Reg.AON_RTC_FRAC then some s.aon.rtcFrac
  else if off = Reg.AON_VBAT then some s.aon.vbatMv
  else if off = Reg.AON_NIGHT_SECONDS then some (min (s.aon.nightExit / 2 ^ 30 - s.aon.nightEntry / 2 ^ 30) (2 ^ 32 - 1))
  else if off = Reg.AON_NIGHT_ALARMS then some s.aon.nightAlarms
  else if off = Reg.AON_NIGHT_COUNT then some s.aon.nightCount
  else none

/-- The readout of a recorder (R567). -/
def evView (s : State) (r : Nat) : EvView := s.evr.views.getD r {}

end State

/-- The CODE field of a record (R560): the source unit's code for an EVENT, the record's own otherwise. -/
def EvRecord.codeField (e : EvRecord) : Nat := if e.kind = 0 then Config.eventCode e.source e.code % 2 ^ 16 else e.code

/-- Bytes 28 to 59 of a record (R560). -/
def EvRecord.payloadBytes (e : EvRecord) : Bytes :=
  if e.kind = 1 then fit 32 (e.payload.flatMap (fun x => le 2 (toField 16 x)))
  else fit 32 (e.payload.flatMap (fun x => le 8 (toField 64 x)))

/-- Bytes 0 to 59 of a record (R560). -/
def EvRecord.head (e : EvRecord) (rseq : Nat) : Bytes :=
  le 4 rseq ++ le 1 e.source
    ++ le 1 (e.kind + (match e.inst with | some i => 8 + i * 16 | none => 0))
    ++ le 2 e.codeField ++ le 8 e.stamp ++ le 4 e.lastUs ++ le 3 e.repeats ++ zeros 1 ++ le 4 e.lost ++ e.payloadBytes

/-- The 64 bytes of a record (R560). -/
def EvRecord.bytes (e : EvRecord) (rseq : Nat) : Bytes := e.head rseq ++ le 4 (crc32c (e.head rseq))

namespace State

/-- Live registers of EVR (R571). -/
def liveEvr (off idx : Nat) (s : State) : Option Nat :=
  let x := s.recorder idx
  let v := s.evView idx
  if off = Reg.EVR_STATUS then
    some (bitN v.busy.isSome + 2 * bitN v.cursorLost
      + 4 * bitN (match v.snap with | some (n, _) => n + 1 == x.committed | none => false) + 8 * bitN v.snap.isSome
      + 16 * bitN x.restored + x.queue.length * 2 ^ 8)
  else if off = Reg.EVR_CURSOR then some (v.cursor % 2 ^ 32)
  else if off = Reg.EVR_OLDEST then some (x.oldest % 2 ^ 32)
  else if off = Reg.EVR_NEWEST then some ((x.committed + 2 ^ 32 - 1) % 2 ^ 32)
  else if off = Reg.EVR_CFG then some (x.extS + x.repeatMs * 2 ^ 16)
  else if off = Reg.EVR_HIST_CFG then some x.histS
  else if windowBase 21 + 0x40 ≤ off ∧ off ≤ windowBase 21 + 0x7C then
    let w := (off - windowBase 21 - 0x40) / 4
    let y := s.evView (s.regField Reg.EVR_REC_SEL 2 0)
    some (match y.busy, y.snap with
      | none, some (n, e) => leAt (e.bytes n) (w * 4) 4
      | _, _ => 0)
  else none

end State
end Sys2Proof.Machine
end

