-- ==== Sys2Proof/Machine/Launch.lean ====
section
/-! DEFINITION. The launch queue of TIM (R443, R445). -/
set_option Elab.async false
namespace Sys2Proof.Machine

/-- Does entry `a` fire before entry `b` (R443): by instant, then PLC, RFA, RFB, Ethernet ports, and within a lane as queued? -/
def firesFirst (a b : Launch) : Bool :=
  decide (a.instant < b.instant) || (a.instant == b.instant && (decide (a.lane < b.lane) || (a.lane == b.lane && decide (a.id < b.id))))

/-- Puts an entry into its place in firing order. -/
def putLaunch (e : Launch) : List Launch → List Launch
  | [] => [e]
  | h :: t => if firesFirst e h then e :: h :: t else h :: putLaunch e t

namespace State

/-- Inserts a launch, or refuses it as late (R443, R445). The owning units never hold more than 256. -/
def launchInsert (lane instant owner ref : Nat) (s : State) : State :=
  let e : Launch := { id := s.tim.nextLaunch, lane := lane, instant := instant, owner := owner, ref := ref }
  let s : State := { s with tim := { s.tim with nextLaunch := s.tim.nextLaunch + 1 } }
  if instant < s.nowNs + 1000 then
    ({ s with tim := { s.tim with late := s.tim.late ++ [e] } } : State).bump Reg.TIM_LATE_LAUNCH
  else if 256 ≤ s.tim.queue.length then s
  else { s with tim := { s.tim with queue := putLaunch e s.tim.queue } }

/-- The output delay of a lane in ns (R137, R173, R176, R443): the medium's first sample leaves within 40 nc, and a radio port's the
transceiver's RX_TX_DELAY.TX_NS ahead of the launch time. -/
def laneDelay (s : State) (lane : Nat) : Nat :=
  if lane = 0 then 40
  else if lane ≤ 8 then 40 + field (s.regI Reg.RFX_RX_TX_DELAY ((lane - 1) / 4)) 31 16
  else 0

/-- Fires the first entry if its instant less the lane's delay has come (R443). -/
def launchFire (s : State) : State :=
  match s.tim.queue with
  | [] => s
  | e :: t =>
    if e.instant ≤ s.nowNs + s.laneDelay e.lane then
      { s with tim := { s.tim with queue := t, fired := s.tim.fired ++ [e] } }
    else s

/-- Is now the instant of a launch (R137, R443): the noon cycle in which device time reaches it less the lane's output delay? -/
def dueAt (lane instant : Nat) (s : State) : Bool := decide (instant ≤ s.nowNs + s.laneDelay lane) && decide (s.nowNs ≤ instant)

/-- A unit's own launch passes the queue (R31, R443): its entry is queued, fires at its instant and is taken by the unit. Not at the
instant, nothing leaves and the entry is gone. DESIGN CHOICE (log entry 97): the entry's insertion, 1 000 nc or more ahead, and its firing
are shown in the one command of the launch. -/
def passLaunch (lane instant owner ref : Nat) (go : State → State) (s : State) : State :=
  if !s.dueAt lane instant then s
  else
    let e : Launch := { id := s.tim.nextLaunch, lane := lane, instant := instant, owner := owner, ref := ref }
    let s : State := { s with tim := { s.tim with nextLaunch := s.tim.nextLaunch + 1, queue := putLaunch e s.tim.queue } }
    let s : State := { s with tim := { s.tim with queue := s.tim.queue.erase e, fired := s.tim.fired ++ [e] } }
    go { s with tim := { s.tim with fired := s.tim.fired.erase e } }

/-- Withdraws an entry, up to 64 nc before it fires (R445). -/
def launchWithdraw (id : Nat) (s : State) : State :=
  { s with tim := { s.tim with queue := s.tim.queue.filter (fun e => e.id != id || decide (e.instant < s.nowNs + s.laneDelay e.lane + 64)) } }

end State

/-- LAUNCH_FIRE (R31, R443). The permits of R32 are the medium unit's to check; a frame on the medium without both ends. -/
def execLaunchFire (s : State) : R := .next s.launchFire.truncateFrames

/-- LAUNCH_WITHDRAW (R445). -/
def execLaunchWithdraw (id : Nat) (s : State) : R := .next (s.launchWithdraw id)

end Sys2Proof.Machine
end

