-- ==== Sys2Proof/Machine/PlcPhy.lean ====
section
/-! DEFINITION. The power-line physical layer as pure functions: bands, the PHR, ROBO, the scrambler and the quasi-cyclic
code, tone maps, segments and the interleaver (R114 to R129). -/
set_option Elab.async false
namespace Sys2Proof.Machine

/-! ### Bands (R114, R115) -/

/-- First and last carrier of the band in force, none for an empty band. -/
def bandOf (preset firstK lastK : Nat) : Option (Nat × Nat) :=
  match preset with
  | 0 => some (7, 59)
  | 1 => some (62, 79)
  | 2 => some (81, 88)
  | 3 => some (91, 94)
  | 4 => some (100, 311)
  | 5 => some (3, 319)
  | 6 => if 2 ≤ firstK ∧ firstK ≤ lastK ∧ lastK ≤ 319 then some (firstK, lastK) else none
  | _ => none

/-- The carriers of a band in ascending frequency. -/
def carriers (b : Nat × Nat) : List Nat := (List.range (b.2 + 1 - b.1)).map (· + b.1)

/-! ### The PHR (R120, R121) -/

/-- CRC-16 (0x1021, initial 0xFFFF) over bits [63:0] in transmission order, bit 0 first. -/
def phrCrc (w : Nat) : Nat :=
  (List.range 64).foldl (fun c i =>
    let fb := (c.testBit 15) != (w.testBit i)
    let c := (c * 2) % 65536
    if fb then c ^^^ 0x1021 else c) 0xFFFF

/-- The 64 bits of a PHR below its CRC. -/
def Phr.low (p : Phr) : Nat :=
  p.rate + (p.depth - 1) * 2 ^ 2 + bitN p.dc * 2 ^ 5 + bitN p.coarse * 2 ^ 6 + p.seg0 * 2 ^ 8 + p.offUs * 2 ^ 12
    + p.cycleUs * 2 ^ 24 + (p.ncw - 1) * 2 ^ 39 + p.tmap * 2 ^ 48

/-- The 80 bits of a PHR. -/
def Phr.word (p : Phr) : Nat := p.low + phrCrc p.low * 2 ^ 64

/-- Decodes and checks 80 bits (R121); the CRC stands in bits [79:64]. -/
def phrOf (w : Nat) : Option Phr :=
  let p : Phr :=
    { rate := field w 1 0, depth := field w 4 2 + 1, dc := bitAt w 5, coarse := bitAt w 6, seg0 := field w 11 8, offUs := field w 23 12
      cycleUs := field w 38 24, ncw := field w 44 39 + 1, tmap := field w 63 48 }
  if field w 79 64 ≠ phrCrc (w % 2 ^ 64) then none
  else if p.rate = 3 then none
  else if bitAt w 7 || field w 47 45 != 0 then none
  else if p.cycleUs < 15385 ∨ 22222 < p.cycleUs then none
  else if p.dc && (p.seg0 != 0 || p.offUs != 0) then none
  else if !p.dc && decide (p.cycleUs ≤ 12 * p.offUs) then none
  else some p

/-- PHR symbols of both copies in a band of `n` carriers (R121). DESIGN CHOICE (log entry 96): with fewer than 4 carriers B is 0 and
R121's quotient does not exist; the PHR is then taken as 0 symbols long. -/
def phrSymbols (n : Nat) : Nat := 2 * ceilDiv 80 (n / 4)

/-! ### Scrambler and pad sequence (R124, R129) -/

/-- `n` bits of a linear recurrence s(k) = s(k − a) XOR s(k − b) over a register of its last `b` bits, newest first. -/
def lfsrBits (a b : Nat) : Nat → List Bool → List Bool
  | 0, _ => []
  | n + 1, reg =>
    let x := (reg.getD (a - 1) false) != (reg.getD (b - 1) false)
    x :: lfsrBits a b n ((x :: reg).take b)

/-- The scrambling sequence s(n) = s(n − 4) XOR s(n − 7), seeded to all ones. -/
def scramble (n : Nat) : List Bool := lfsrBits 4 7 n (List.replicate 7 true)

/-- The pad sequence of x^9 + x^5 + 1, seeded to all ones. -/
def padBits (n : Nat) : List Bool := lfsrBits 5 9 n (List.replicate 9 true)

/-- XOR of two bit strings, as long as the first. -/
def xorBits : List Bool → List Bool → List Bool
  | [], _ => []
  | a :: t, [] => a :: t
  | a :: t, b :: u => (a != b) :: xorBits t u

/-- The bits of a byte string, byte 0 first and its least-significant bit first (R139). -/
def bitsOf (b : Bytes) : List Bool := b.flatMap (fun x => (List.range 8).map (fun i => x.getLsbD i))

/-- The number a bit string spells, bit 0 first. -/
def ofBits : List Bool → Nat
  | [] => 0
  | b :: t => bitN b + 2 * ofBits t

/-- The bytes of a bit string whose length is a multiple of 8, in fuel steps. -/
def bytesOfBits : Nat → List Bool → Bytes
  | 0, _ => []
  | n + 1, l => if l.isEmpty then [] else BitVec.ofNat 8 (ofBits (l.take 8)) :: bytesOfBits n (l.drop 8)

/-! ### The code (R124) -/

/-- Information columns of a rate. -/
def rateK (rate : Nat) : Nat := match rate with | 0 => 32 | 1 => 43 | _ => 53

/-- Parity columns of a rate. -/
def rateM (rate : Nat) : Nat := 64 - rateK rate

/-- The d of a rate. -/
def rateD (rate : Nat) : Nat := match rate with | 0 => 11 | 1 => 8 | _ => 4

/-- Information bits of a codeword. -/
def infoBits (rate : Nat) : Nat := 32 * rateK rate

/-- The 32-bit columns of a bit string. -/
def columnsOf : Nat → List Bool → List Word
  | 0, _ => []
  | n + 1, l => BitVec.ofNat 32 (ofBits (l.take 32)) :: columnsOf n (l.drop 32)

/-- lam[r]: what the information columns contribute to block row `r`; bit i of the row involves bit (i + s) mod 32 of the
column, a rotation right by s. -/
def ldpcRow (rate : Nat) (u : List Word) (r : Nat) : Word :=
  (List.range (rateK rate)).foldl (fun a c =>
    (List.range 3).foldl (fun a t =>
      if (c + t * rateD rate) % rateM rate = r then a ^^^ (u.getD c 0).rotateRight ((7 * c + 11 * t + 3 * c * t) % 32) else a) a) 0

/-- The parity columns, by accumulation. -/
def ldpcParity (rate : Nat) (u : List Word) : List Word :=
  ((List.range (rateM rate)).foldl (fun (p : Word × List Word) r =>
    let x := p.1 ^^^ ldpcRow rate u r
    (x, p.2 ++ [x])) (0, [])).2

/-- The 64 columns of a codeword. -/
def ldpcEncode (rate : Nat) (u : List Word) : List Word := u ++ ldpcParity rate u

/-- Are all checks of a codeword satisfied? -/
def ldpcOk (rate : Nat) (cw : List Word) : Bool :=
  cw.length == 64 && cw.drop (rateK rate) == ldpcParity rate (cw.take (rateK rate))

/-- The bits of a codeword in order: bit n in column n / 32 at position n mod 32. -/
def columnBits (cw : List Word) : List Bool := cw.flatMap (fun w => (List.range 32).map (fun i => w.getLsbD i))

/-- The codewords of a link frame: information bits zero-filled to whole codewords, scrambled, coded (R124). -/
def encodeFrame (rate ncw : Nat) (link : Bytes) : List (List Word) :=
  let n := ncw * infoBits rate
  let bits := bitsOf link
  let info := xorBits ((bits ++ List.replicate (n - bits.length) false).take n) (scramble n)
  (List.range ncw).map (fun i => ldpcEncode rate (columnsOf (rateK rate) ((info.drop (i * infoBits rate)).take (infoBits rate))))

/-- The information bytes of decoded codewords, descrambled. -/
def decodeInfo (rate : Nat) (cws : List (List Bool)) : Bytes :=
  let info := cws.flatMap (fun c => c.take (infoBits rate))
  bytesOfBits (info.length / 8) (xorBits info (scramble info.length))

/-! ### Tone maps (R122, R123, R126, R128) -/

/-- The segment map of segment `seg` of a set. -/
def segMap (set : Bytes) (seg : Nat) : Bytes := slice set (32 * seg) 32

/-- The code of a group in a segment map: bits [3g+2:3g] of bytes 2 to 31. -/
def groupCode (m : Bytes) (g : Nat) : Nat := (leAt m (2 + 3 * g / 8) 2 / 2 ^ (3 * g % 8)) % 8

/-- Bits per carrier of a code, ROBO aside (R122). -/
def codeBits (c : Nat) : Nat := match c with | 2 => 1 | 3 => 2 | 4 => 3 | 5 => 4 | _ => 0

/-- Does a set hold code 6 or 7 anywhere (R126)? -/
def setBad (set : Bytes) : Bool :=
  (List.range 12).any (fun seg => (List.range 80).any (fun g => decide (6 ≤ groupCode (segMap set seg) g)))

/-- Set 0: ROBO in every group of every segment, SEG_ATT 0 (R126). -/
def robonSet : Bytes := (List.range 12).flatMap (fun _ => zeros 2 ++ le 30 ((List.range 80).foldl (fun a g => a + 2 ^ (3 * g)) 0))

/-- The carriers of a band with their codes under a segment map. -/
def carrierCodes (b : Nat × Nat) (m : Bytes) : List (Nat × Nat) := (carriers b).map (fun k => (k, groupCode m (k / 4)))

/-- The capacity of a symbol in bits (R128). -/
def symbolBits (b : Nat × Nat) (m : Bytes) : Nat :=
  let cs := carrierCodes b m
  cs.foldl (fun a e => a + codeBits e.2) 0 + (cs.filter (fun e => e.2 == 1)).length / 4

/-- The sum S of a set over its twelve segments (R149). -/
def setSum (b : Nat × Nat) (set : Bytes) : Nat := (List.range 12).foldl (fun a seg => a + symbolBits b (segMap set seg)) 0

/-- Are the twelve segment maps identical (R158)? -/
def setUniform (set : Bytes) : Bool := (List.range 12).all (fun seg => segMap set seg == segMap set 0)

/-! ### Segments and blocks (R125, R128) -/

/-- The segment of payload symbol `i` (R125). -/
def segOf (p : Phr) (i : Nat) : Nat := if p.dc then 0 else (p.seg0 + (p.offUs + 720 * i) * 12 / p.cycleUs) % 12

/-- First symbol of block `k`: block index of symbol i is floor(720 i / (D × CYCLE_US)). -/
def blockStart (d cycle k : Nat) : Nat := ceilDiv (k * d * cycle) 720

/-- The shortest prefix of symbol capacities that reaches `need` bits. -/
def takeUntil (need : Nat) : List Nat → List Nat
  | [] => []
  | b :: t => if need ≤ b then [b] else b :: takeUntil (need - b) t

/-- The blocks of a payload from block `k`: symbol capacities with the codewords each carries (R128). `fuel` bounds the blocks. -/
def blocksFrom (cap : Nat → Nat) (d cycle : Nat) : Nat → Nat → Nat → List (List Nat × Nat)
  | 0, _, _ => []
  | fuel + 1, k, rem =>
    if rem = 0 then []
    else
      let lo := blockStart d cycle k
      let caps := (List.range (blockStart d cycle (k + 1) - lo)).map (fun j => cap (lo + j))
      let w := min rem (caps.foldl (· + ·) 0 / 2048)
      if w = rem then [(takeUntil (2048 * w) caps, w)] else (caps, w) :: blocksFrom cap d cycle fuel (k + 1) (rem - w)

/-- Blocks a payload may take before the model gives up on a map that carries nothing. -/
def blockFuel : Nat := 65536

/-- The blocks of a frame under its PHR, band and set (R128). -/
def frameBlocks (b : Nat × Nat) (set : Bytes) (p : Phr) : List (List Nat × Nat) :=
  blocksFrom (fun i => symbolBits b (segMap set (segOf p i))) p.depth p.cycleUs blockFuel 0 p.ncw

/-- Codewords in the frame's last block, W_L of R136. -/
def lastBlockWords (b : Nat × Nat) (set : Bytes) (p : Phr) : Nat := ((frameBlocks b set p).getLast?.map (·.2)).getD 0

/-- Payload symbols of a frame. -/
def payloadSymbols (bs : List (List Nat × Nat)) : Nat := bs.foldl (fun a e => a + e.1.length) 0

/-- Does block 0, taken as a full D cycles, hold a codeword (R128)? -/
def depthFits (b : Nat × Nat) (set : Bytes) (p : Phr) : Bool :=
  decide (2048 ≤ (List.range (blockStart p.depth p.cycleUs 1)).foldl (fun a i => a + symbolBits b (segMap set (segOf p i))) 0)

/-- The smallest depth not below `d0` at which block 0 holds a codeword, up to 8 (R128). -/
def chooseDepth (b : Nat × Nat) (set : Bytes) (p : Phr) (d0 : Nat) : Option Nat :=
  ((List.range 8).map (· + 1)).find? (fun d => decide (d0 ≤ d) && depthFits b set { p with depth := d })

/-! ### The interleaver and the carriers (R122, R123, R129) -/

/-- The stream position that falls into slot `r` of symbol `i` of a block with the capacities given: round r deals one bit to
each symbol not yet full, in order. -/
def slotStream (caps : List Nat) (i r : Nat) : Nat :=
  caps.foldl (fun a b => a + min b r) 0 + ((caps.take i).filter (fun b => decide (r < b))).length

/-- Bit `q` of a block's merged stream: bit q / W of codeword q mod W. -/
def streamBit (cws : List (List Bool)) (w q : Nat) : Bool := ((cws.getD (q % w) []).getD (q / w) false)

/-- The label of a non-ROBO carrier and the bits left: `n` bits, least-significant first. -/
def takeLabel (n : Nat) (bits : List Bool) : Nat × List Bool := (ofBits (bits.take n), bits.drop n)

/-- Puts a symbol's slot bits on its carriers: non-ROBO carriers first in ascending frequency, then ROBO bits 0 to B − 1 on
ROBO carriers j, j + B, j + 2B and j + 3B; the ROBO carriers left over take pad bits. The answer lists carrier, code and label. -/
def mapCarriers (cs : List (Nat × Nat)) (slots pad : List Bool) : List (Nat × Nat × Nat) :=
  let plain := cs.filter (fun e => e.2 != 0 && e.2 != 1)
  let robo := (cs.filter (fun e => e.2 == 1)).map Prod.fst
  let (out, rest) := plain.foldl (fun (a : List (Nat × Nat × Nat) × List Bool) e =>
    let (l, t) := takeLabel (codeBits e.2) a.2
    (a.1 ++ [(e.1, e.2, l)], t)) ([], slots)
  let b := robo.length / 4
  out ++ (List.range robo.length).map (fun i =>
    (robo.getD i 0, 1, bitN (if i < 4 * b then rest.getD (i % b) false else pad.getD (i - 4 * b) false)))

/-- The payload symbols of one block as carriers, codes and labels; `first` is the number of its first symbol. Pad bits fill
the empty slots and then the left-over ROBO carriers, symbol by symbol. -/
def blockSymbols (b : Nat × Nat) (set : Bytes) (p : Phr) (first : Nat) (caps : List Nat) (w : Nat) (cws : List (List Bool)) :
    List (List (Nat × Nat × Nat)) :=
  let total := 2048 * w
  let step := fun (a : Nat × List (List (Nat × Nat × Nat))) (i : Nat) =>
    let cs := carrierCodes b (segMap set (segOf p (first + i)))
    let n := caps.getD i 0
    let empty := ((List.range n).filter (fun r => decide (total ≤ slotStream caps i r))).length
    let left := (cs.filter (fun e => e.2 == 1)).length % 4
    let pad := (padBits (a.1 + empty + left)).drop a.1
    let slots := (List.range n).map (fun r =>
      if slotStream caps i r < total then streamBit cws w (slotStream caps i r) else pad.getD (((List.range r).filter (fun q => decide (total ≤ slotStream caps i q))).length) false)
    (a.1 + empty + left, a.2 ++ [mapCarriers cs slots (pad.drop empty)])
  ((List.range caps.length).foldl step (0, [])).2

/-- The payload of a frame on the wire, symbol by symbol. -/
def framePayload (b : Nat × Nat) (set : Bytes) (p : Phr) (link : Bytes) : List (List (Nat × Nat × Nat)) :=
  let cws := (encodeFrame p.rate p.ncw link).map columnBits
  ((frameBlocks b set p).foldl (fun (a : Nat × Nat × List (List (Nat × Nat × Nat))) blk =>
    (a.1 + blk.1.length, a.2.1 + blk.2,
      a.2.2 ++ blockSymbols b set p a.1 blk.1 blk.2 ((cws.drop a.2.1).take blk.2))) (0, 0, [])).2.2

/-! ### The waveform (R116, R118, R119, R121, R122) -/

/-- I or Q of a 16QAM point from its two label bits (R122). -/
def qamLevel (bits : Nat) : Int := match bits with | 0 => 1 | 1 => 3 | 2 => -1 | _ => -3

/-- The constellation point of a label under a code (R122); codes 1 and 2 are BPSK. -/
def pointOf (code label : Nat) : Point :=
  match code with
  | 3 => .turn (match label % 4 with | 0 => 1 | 1 => 3 | 2 => 7 | _ => 5) 8
  | 4 => .turn (((List.range 8).find? (fun p => p ^^^ (p / 2) == label % 8)).getD 0) 8
  | 5 => .qam (qamLevel (label % 4)) (qamLevel (label / 4 % 4))
  | _ => .turn (label % 2) 2

/-- Carrier number `m` of the `n` in the band in SYNCP: phase π m² / n; SYNCM is negated, half a turn on (R119). -/
def syncPoint (n m : Nat) (negated : Bool) : Point := .turn ((m * m + (if negated then n else 0)) % (2 * n)) (2 * n)

/-- One copy of the PHR on its symbols (R121, R123): bit j at ROBO position j mod B of symbol j / B; the positions left after bit 79 and
then the carriers left over take the pad sequence, symbol by symbol. -/
def phrCopy (b : Nat × Nat) (w : Nat) : List (List (Nat × Nat × Nat)) :=
  let cs := (carriers b).map (fun k => (k, 1))
  let n := cs.length / 4
  let left := cs.length % 4
  ((List.range (ceilDiv 80 n)).foldl (fun (a : Nat × List (List (Nat × Nat × Nat))) j =>
    let empty := (j + 1) * n - max 80 (j * n)
    let pad := (padBits (a.1 + empty + left)).drop a.1
    let slots := (List.range n).map (fun i => if j * n + i < 80 then w.testBit (j * n + i) else pad.getD (j * n + i - max 80 (j * n)) false)
    (a.1 + empty + left, a.2 ++ [mapCarriers cs slots (pad.drop empty)])) (0, [])).2

/-- SEG_ATT of a segment map in 0.5 dB (R126). -/
def segAtt (m : Bytes) : Nat := byteAt m 1 % 64

/-- 10 log10 of a count in 0.01 dB, rounded down. -/
def tenLog (n : Nat) : Nat := ((List.range 3000).filter (fun j => decide (10 ^ (j + 1) ≤ n ^ 1000))).length

/-- The level at the line of one of `on` carriers of a symbol sent on a chain (R116), in 0.01 dB of dBµV. -/
def Tone.level (x : Tone) (on txFs : Nat) : Int := 100 * ((txFs : Int) - 12) - tenLog on - 50 * x.att

/-! #### Samples (R116, R118), in units of 2^-40 of full scale: DESIGN CHOICE (log entry 32), for the manual gives no word length -/

/-- One unit of the fixed-point arithmetic. -/
abbrev fixOne : Nat := 2 ^ 60

/-- The square of an angle of `h` 2^-32 turns in radians, in units of 2^-60. -/
def angleSq (h : Nat) : Int := ((h * 7244019458077122842 / 2 ^ 32) ^ 2 / 2 ^ 60 : Nat)

/-- The cosine of an angle up to a quarter of a turn, in units of 2^-60, by its series. -/
def cosSeries (h : Nat) : Int :=
  (List.range 12).foldr (fun (k : Nat) (acc : Int) => (fixOne : Int) - angleSq h * acc / ((fixOne * ((2 * k + 1) * (2 * k + 2)) : Nat) : Int)) (fixOne : Int)

/-- The cosine of `t` 2^-32 turns, in units of 2^-40. -/
def cosTurn (t : Nat) : Int :=
  let t := t % 2 ^ 32
  let h := if t ≤ 2 ^ 31 then t else 2 ^ 32 - t
  (if h ≤ 2 ^ 30 then cosSeries h else -(cosSeries (2 ^ 31 - h))) / 2 ^ 20

/-- 10^(-r/20) for r = 0 to 19, in units of 2^-60. -/
def tenths : List Nat :=
  [1152921504606846976, 1027542372575421786, 915798103530019342, 816205918912234752, 727444290940845056, 648335406741065481,
   577829539483298095, 514991119145879581, 458986318069312695, 409071986569828657]
  ++ [364585791794594743, 324937428967166988, 289600788401754878, 258106974347336367, 230038083025926129, 205021657303345106,
   182725744409341606, 162854491126012714, 145144217995352568, 129359920453046846]

/-- The amplitude of one of `on` carriers against full scale (R116), `unit` the energy of its point's unit: 12 dB, MASK, SEG_ATT, TX_ATT and
10 log10 of the count below it. -/
def Tone.amp (x : Tone) (on unit : Nat) : Nat :=
  let m := 24 + x.att
  Nat.sqrt (tenths.getD (m % 20) 0 / 10 ^ (m / 20) * 2 ^ 20 / (on * unit))

/-- What a carrier adds to sample `m` of the inverse FFT (R118, R122). -/
def Tone.at (x : Tone) (on m : Nat) : Int :=
  let a := x.k * m % 1024 * 2 ^ 22
  match x.point with
  | .turn p q => x.amp on 1 * cosTurn (a + p * 2 ^ 32 / q) / 2 ^ 40
  | .qam i q => x.amp on 10 * (i * cosTurn a - q * cosTurn (a + 3 * 2 ^ 30)) / 2 ^ 40

/-- Samples of a symbol: its prefix and the 1 024 of the inverse FFT (R118). -/
def PlcSymbol.samples (x : PlcSymbol) : Nat := x.pre + 1024

/-- The sample of the inverse FFT that sample `n` of a symbol repeats: the prefix copies the last ones (R118). -/
def PlcSymbol.source (x : PlcSymbol) (n : Nat) : Nat := (n + 1024 - x.pre) % 1024

/-- The step of the raised cosine, 0 to 31 from the symbol's edge inward, that weighs sample `n`; none for a sample sent whole (R118). -/
def PlcSymbol.taper (x : PlcSymbol) (n : Nat) : Option Nat :=
  if n < 32 then some n else if x.samples ≤ n + 32 then some (x.samples - 1 - n) else none

/-- The weight of sample `n` in units of 2^-40 (R118): the raised cosine at the middle of its step, or one. -/
def PlcSymbol.weight (x : PlcSymbol) (n : Nat) : Int :=
  match x.taper n with
  | none => 2 ^ 40
  | some k => (2 ^ 40 - cosTurn ((2 * k + 1) * 2 ^ 25)) / 2

/-- Sample `n` of a symbol as it leaves on every chain of the frame (R116, R118): the inverse FFT over the carriers sent, its prefix copied,
tapered, and clipped at full scale. -/
def PlcSymbol.sample (x : PlcSymbol) (n : Nat) : Int :=
  let v := x.weight n * (x.tones.map (fun t => t.at x.tones.length (x.source n))).sum / 2 ^ 40
  max (-(2 ^ 40)) (min (2 ^ 40) v)

/-- The sample of a symbol that a receiver takes as sample `m` of its 1 024 (R118): the last ones of the symbol period. -/
def PlcSymbol.window (x : PlcSymbol) (m : Nat) : Int := x.sample (x.pre + m % 1024)

/-- The samples of a waveform in order (R118, R119): what each of its chains converts. -/
def PlcWave.samples (w : PlcWave) : List Int := w.symbols.flatMap (fun x => (List.range x.samples).map x.sample)

/-- Length of a frame on the medium in µs: preamble, PHR and payload (R118, R119, R121). -/
def frameUs (b : Nat × Nat) (payload : Nat) : Nat := 5760 + 720 * (phrSymbols (b.2 + 1 - b.1) + payload)

/-! ### Tone-map estimation (R154) -/

/-- The code for a group: the highest whose threshold plus the margin does not exceed the SNR, all in 0.25 dB. -/
def codeFor (margin : Nat) (snr : Int) : Nat :=
  let ok := fun (thr : Int) => decide (thr * 4 + margin ≤ snr)
  if ok 14 then 5 else if ok 11 then 4 else if ok 6 then 3 else if ok 3 then 2 else if ok (-4) then 1 else 0

/-- A segment map of an SNR estimate and the codes given, SEG_ATT 0 (R126, R154). -/
def mapOfCodes (snr : Nat) (codes : List Nat) : Bytes := le 1 snr ++ zeros 1 ++ le 30 (((List.range 80).zip codes).foldl (fun a e => a + e.2 * 2 ^ (3 * e.1)) 0)

end Sys2Proof.Machine
end

