-- ==== Sys2Proof/Machine/PlcRef.lean ====
section
/-! DEFINITION. The zero-crossing reference of the power line: the segment in force, the sources and their changes (R125, R130 to R132,
R138, R158). -/
set_option Elab.async false
namespace Sys2Proof.Machine
namespace State

/-- Changes PLC. -/
def setPlc (f : Plc → Plc) (s : State) : State := { s with plc := f s.plc }

/-- Is the source of segment 0 the virtual cycle or not yet there (R130, R158)? -/
def zcDc (s : State) : Bool := s.zcSource == 4 || s.zcSource == 0

/-- The segment of an instant by the part's own reference (R125, R135, R154). -/
def segAt (s : State) (t : Nat) : Nat :=
  if s.zcDc then 0 else (t - s.cycleStart t) * 12 / s.cycleNs % 12

/-- Changes the source; estimates restart when the virtual cycle comes or goes (R158). -/
def zcSet (src : Nat) (s : State) : State :=
  let before := s.zcDc
  let s := s.setPlc (fun p => { p with zc := { p.zc with source := src, pending := none, run := 0 } })
  if before = s.zcDc then s
  else s.setPlc (fun p => { p with nbrs := p.nbrs.mapVals (fun _ n => { n with seen := [], snr := [], meanSnr := [] }) })

/-- A change of source that waited for the frame on the medium takes effect (R131). -/
def zcApply (s : State) : State :=
  match s.plc.zc.pending with
  | some k => s.zcSet k
  | none => s

/-- The start of the first cycle after an instant, by the reference in force (R131). -/
def nextCross (s : State) (t : Nat) : Nat := s.cycleStart t + s.cycleNs

/-- A waiting change of source takes effect at the first crossing after the frame: the projected one once it has come (R131). -/
def zcLook (s : State) : State :=
  if s.plc.onAir.isNone && decide (s.nextCross s.plc.airEnd ≤ s.nowNs) then s.zcApply else s

/-- A crossing of a source arrives: with no frame on the medium, a waiting change of source takes effect first (R131). -/
def zcCross (s : State) : State := if s.plcSending then s else s.zcApply

/-- A valid crossing of source `src`, `before` valid ones in a row having come before it, `prev` the one before (R130, R131). -/
def zcValid (src before prev t : Nat) (s : State) : State :=
  let z := s.plc.zc
  let take := fun (s : State) => s.setPlc (fun p => { p with zc := { p.zc with
    run := min (p.zc.run + 1) 255, period := if before = 0 then p.zc.period else t - prev, last := t } })
  if z.source = src then take s
  else if s.plcSending then s
  else if z.source = 0 ∨ (src < z.source ∧ 8 ≤ before) then take (s.zcSet src)
  else s

/-- An invalid crossing of source `src`: the run of the source in use starts again (R138). -/
def zcInvalid (src : Nat) (s : State) : State :=
  if s.plc.zc.source = src then s.setPlc (fun p => { p with zc := { p.zc with run := 0 } }) else s

/-- Has MET (1) or the coarse detector (2) delivered no valid crossing within LOSS_CYCLES of the last period, or of 20 ms before one is
measured (R131)? -/
def zcQuiet (s : State) (src : Nat) : Bool :=
  let z := s.plc.zc
  let n := max 1 (s.regField Reg.PLC_ZC_CFG 15 8)
  decide ((if src = 1 then z.metAt else z.coarseAt) + n * (if z.period = 0 then 20000000 else z.period) ≤ s.nowNs)

/-- The source that needs no crossings (R130): DC while DC_AUTO is 1, else holdover. -/
def zcFree (s : State) : Nat := if s.regBit Reg.PLC_ZC_CFG 16 then 4 else 3

/-- The source after the one in use is abandoned (R130, R131): the next valid one in order. -/
def zcNext (s : State) : Nat :=
  match s.plc.zc.source with
  | 0 => 0
  | 1 => if s.plc.zc.coarseValid && !s.zcQuiet 2 then 2 else s.zcFree
  | _ => s.zcFree

/-- DC_AUTO written while no crossings count changes holdover to DC or back (R130), after the frame on the medium (R131). -/
def zcAuto (s : State) : State :=
  let k := s.zcFree
  if s.plc.zc.source < 3 ∨ s.plc.zc.source = k then s
  else if s.plcSending then s.setPlc (fun p => { p with zc := { p.zc with pending := some k } })
  else s.zcSet k

/-- The source in use is abandoned; never while a frame is on the medium (R131). -/
def zcLose (s : State) : State :=
  let k := s.zcNext
  let s := s.setPlc (fun p => { p with zc :=
    if p.zc.source = 1 then { p.zc with metRun := 0, chanValid := 0 }
    else if p.zc.source = 2 then { p.zc with coarseRun := 0, coarseValid := false } else p.zc })
  if s.plcSending then s.setPlc (fun p => { p with zc := { p.zc with pending := some k } }) else s.zcSet k

/-- Is the source in use to be abandoned (R131)? The virtual cycle and holdover have no crossings to deliver. -/
def zcSilent (s : State) : Bool := (s.plc.zc.source == 1 || s.plc.zc.source == 2) && s.zcQuiet s.plc.zc.source

/-- The MET voltage channel that ZC_CFG.REF_CHANNEL names (R130, R138). -/
def zcRef (s : State) : Nat := if s.regField Reg.PLC_ZC_CFG 1 0 = 3 then 0 else s.regField Reg.PLC_ZC_CFG 1 0

/-- The MET source becomes invalid at once (R132). -/
def zcMetOff (s : State) : State :=
  let s := s.setPlc (fun p => { p with zc := { p.zc with metRun := 0, chanValid := 0 } })
  if s.plc.zc.source = 1 then s.zcLose else s

end State
end Sys2Proof.Machine
end

