-- ==== Sys2Proof/Machine/PlcOps.lean ====
section
/-! DEFINITION. What the power-line meanings share: link frames, neighbours, tone-map sets, routes and the send queue
(R139 to R160). -/
set_option Elab.async false
namespace Sys2Proof.Machine

/-! ### Link frames (R139, R141, R144) -/

/-- Bytes of a MIC by MICLEN (R139). -/
def micBytes (miclen : Nat) : Nat := match miclen with | 1 => 8 | 2 => 16 | _ => 0

/-- The length of a link frame (R139). -/
def plcLen (relays : Nat) (sec : Bool) (body miclen : Nat) : Nat :=
  24 + 8 * relays + (if sec then 8 else 0) + body + (if sec then micBytes miclen else 0) + 4

/-- Bytes 0 to the end of SECHDR of a link frame, HOP_IDX 0 (R139). -/
def plcHead (x : PlcSend) (netId src : Nat) (relays : List Nat) : Bytes :=
  let len := plcLen relays.length x.sec x.body.length x.miclen
  le 1 (x.typ + bitN x.sec * 8 + bitN x.ackreq * 16 + bitN (x.typ == 4) * 32)
    ++ le 1 (relays.length + (if x.sec then x.miclen else 0) * 64) ++ le 2 len ++ le 2 netId ++ le 1 x.lseq ++ zeros 1
    ++ le 8 x.dst ++ le 8 src ++ relays.flatMap (le 8)
    ++ (if x.sec then le 1 x.keyref ++ zeros 3 ++ le 4 x.fcnt else [])

/-- A whole link frame from its head, its body as it goes out and its MIC (R139). -/
def plcFrameBytes (head body mic : Bytes) : Bytes :=
  let b := head ++ body ++ mic
  b ++ le 4 (crc32c b)

/-- The fields of a received link frame (R139). -/
structure PlcLink where
  typ : Nat
  sec : Bool
  ackreq : Bool
  relays : Nat
  hopIdx : Nat
  miclen : Nat
  len : Nat
  netId : Nat
  lseq : Nat
  dst : Nat
  src : Nat
  route : List Nat
  keyref : Nat
  fcnt : Nat
  /-- Byte at which BODY starts. -/
  bodyAt : Nat
  body : Bytes
  deriving DecidableEq, Repr

/-- Reads the fields of a link frame (R139). -/
def plcLinkOf (b : Bytes) : PlcLink :=
  let relays := byteAt b 1 % 8
  let sec := bitAt (byteAt b 0) 3
  let len := leAt b 2 2
  let mic := micBytes (byteAt b 1 / 64)
  let at' := 24 + 8 * relays + (if sec then 8 else 0)
  { typ := byteAt b 0 % 8, sec := sec, ackreq := bitAt (byteAt b 0) 4, relays := relays, hopIdx := field (byteAt b 1) 5 3
    miclen := byteAt b 1 / 64, len := len, netId := leAt b 4 2, lseq := byteAt b 6, dst := leAt b 8 8, src := leAt b 16 8
    route := (List.range relays).map (fun i => leAt b (24 + 8 * i) 8)
    keyref := if sec then byteAt b (24 + 8 * relays) else 0, fcnt := if sec then leAt b (28 + 8 * relays) 4 else 0
    bodyAt := at', body := slice b at' (len - 4 - mic - at') }

/-- The transmitter of the hop (R141). -/
def PlcLink.hopSrc (l : PlcLink) : Nat := if l.hopIdx = 0 then l.src else l.route.getD (l.hopIdx - 1) 0

/-- The intended receiver of the hop (R141). -/
def PlcLink.hopDst (l : PlcLink) : Nat := if l.hopIdx < l.relays then l.route.getD l.hopIdx 0 else l.dst

/-- The counter a link frame's discard is counted in, for the first check of R140 that fails; `info` is the number of bytes the
PHR's NCW and RATE give. Counter numbers are those of PLC.STATUS, 22 for HDR_FAIL. -/
def plcLinkFail (b : Bytes) (info netId : Nat) : Option Nat :=
  let l := plcLinkOf b
  if l.len < 28 ∨ info < l.len then some 22
  else if leAt b (l.len - 4) 4 ≠ crc32c (b.take (l.len - 4)) then some 6
  else if 5 < l.relays ∨ l.relays < l.hopIdx ∨ l.miclen = 3 ∨ (l.sec ∧ l.miclen = 0) ∨ (¬l.sec ∧ l.miclen ≠ 0)
      ∨ byteAt b 0 / 64 ≠ 0 ∨ byteAt b 7 / 2 ≠ 0 ∨ (l.sec ∧ leAt b (25 + 8 * l.relays) 3 ≠ 0)
      ∨ l.len < l.bodyAt + micBytes l.miclen + 4 then some 22
  else if l.netId ≠ netId then some 7
  else none

namespace State

/-- Counts one in a counter of PLC.STATUS (R160): 0 DATA_TX, 1 ACK_RX, 2 NO_ACK, 3 ACK_TX, 4 ACK_SKIPPED, 5 ACK_LATE, 6 FCS_FAIL,
7 NET_MISMATCH, 8 SEC0_DROP, 9 RDISC_TX, 10 RDISC_RX, 11 RREP_TX, 12 RREP_RX, 13 RERR_RX, 14 TMREQ_TX, 15 TMRSP_TX, 16 TMRSP_RX,
17 MCAST_TX, 18 MCAST_ECHO, 19 ROUTE_SWITCH, 20 TMAP_POOL_FULL, 21 HANDLES_USED, 22 HDR_FAIL. -/
def plcCount (k : Nat) (s : State) : State :=
  s.setPlc (fun p => { p with counts := p.counts.put k (satAdd 32 (p.counts.getD k 0) 1) })

/-- The band in force (R114, R115). -/
def band (s : State) : Option (Nat × Nat) :=
  bandOf (s.regField Reg.PLC_BAND 3 0) (s.regField Reg.PLC_BAND 12 4) (s.regField Reg.PLC_BAND 21 13)

/-- The band in force, an empty one as the pair (1, 0). -/
def bandOr (s : State) : Nat × Nat := s.band.getD (1, 0)

/-- A neighbour (R147). -/
def nbr (s : State) (eui : Nat) : PlcNbr := s.plc.nbrs.getD eui {}

/-- Changes a neighbour. -/
def modNbr (eui : Nat) (f : PlcNbr → PlcNbr) (s : State) : State :=
  s.setPlc (fun p => { p with nbrs := p.nbrs.put eui (f (p.nbrs.getD eui {})) })

/-- A set of the pool (R126, R127); set 0 is the default. -/
def poolSet (s : State) (n : Nat) : Option Bytes := if n = 0 then some robonSet else s.plc.pool.get? n

/-- The handle and set the part sends with to a neighbour (R156, R158). -/
def txSetFor (s : State) (eui : Nat) : Nat × Bytes :=
  match s.epOf eui with
  | none => (0, robonSet)
  | some (_, x) =>
    if x.txSet = 0 then (0, robonSet)
    else match s.plc.pool.get? x.txSet with
      | none => (0, robonSet)
      | some m => if s.zcDc && !setUniform m then (0, robonSet) else (x.txHandle, m)

/-- The cost of a link whose receiver issued the set (R149). -/
def setCost (s : State) (set : Bytes) (fails : Nat) : Nat :=
  let sum := setSum s.bandOr set
  (if sum = 0 then 250 else min 250 (ceilDiv 12288 sum)) + 4 * fails

/-- The set a neighbour has issued to the part, whether or not R158 lets it be used (R149, R156). -/
def issuedSet (s : State) (eui : Nat) : Bytes :=
  match s.epOf eui with
  | none => robonSet
  | some (_, x) => if x.txSet = 0 then robonSet else (s.plc.pool.get? x.txSet).getD robonSet

/-- The cost of the link from the part to a neighbour (R149, R151). -/
def linkCost (s : State) (eui : Nat) : Nat := s.setCost (s.issuedSet eui) (s.nbr eui).fails

/-! #### Routes (R149, R151, R152) -/

/-- Does the direct route count as a candidate (R151)? -/
def directOk (s : State) (eui : Nat) : Bool :=
  match (s.nbr eui).direct with
  | none => false
  | some t => s.plc.cfg.tmapAge == 0 || decide (s.nowSec ≤ t + 3600 * s.plc.cfg.tmapAge)

/-- The route a ROUTE code names: 5 direct, 1 to 4 slots 0 to 3 (R160). -/
def routeOf (s : State) (x : Ctx) (code : Nat) : Option PlcRoute :=
  if code = 5 then (if s.directOk x.eui then some { valid := true } else none)
  else if 1 ≤ code ∧ code ≤ 4 then (let r := x.slot (code - 1); if r.valid then some r else none)
  else none

/-- The first hop of a route toward an endpoint. -/
def firstHop (r : PlcRoute) (eui : Nat) : Nat := r.relays.headD eui

/-- The cost of a route (R149): the sum over its links of link cost and HOP_PENALTY. -/
def routeCost (s : State) (r : PlcRoute) (eui : Nat) : Nat :=
  s.linkCost (firstHop r eui) + r.rest + s.plc.cfg.hopPenalty * (r.relays.length + 1)

/-- The candidate codes of an endpoint with their costs (R151): slots 0 to 3, then direct. -/
def candidates (s : State) (x : Ctx) : List (Nat × Nat) :=
  [1, 2, 3, 4, 5].filterMap (fun k => (s.routeOf x k).map (fun r => (k, s.routeCost r x.eui)))

/-- The cheapest of candidates, ties to the first. -/
def cheapest : List (Nat × Nat) → Option (Nat × Nat)
  | [] => none
  | e :: t => match cheapest t with
    | none => some e
    | some f => if f.2 < e.2 then some f else some e

/-- A PLC notice (R161). -/
def plcNotice (i reason from' to' fcnt : Nat) (s : State) : State :=
  s.eventFor (s.ctx i).inst (le 3 i ++ le 1 reason ++ le 8 from' ++ le 8 to' ++ le 4 fcnt)

/-- The route of a send under ROUTE 0 or a pin (R151): the pinned one, else the current one until another candidate costs at
least ROUTE_HYST less. The state takes the switch. -/
def pickRoute (i : Nat) (s : State) : Option Nat × State :=
  match s.epAt i with
  | none => (none, s)
  | some x =>
    if x.routePinned then ((if (s.routeOf x x.current).isSome then some x.current else none), s)
    else
      let cs := s.candidates x
      match cheapest cs with
      | none => (none, s)
      | some (k, cost) =>
        match cs.find? (fun e => e.1 == x.current) with
        | none => (some k, s.setCtx i { x with current := k })
        | some (_, now) =>
          if s.plc.cfg.routingEn && k != x.current && decide (cost + s.plc.cfg.routeHyst ≤ now) then
            let s := (s.setCtx i { x with current := k }).plcCount 19
            (some k, s.plcNotice i 2 (firstHop ((s.routeOf x k).getD {}) x.eui) 0 0)
          else (some x.current, s)

/-! #### The send queue (R145, R160) -/

/-- A send by its identity. -/
def plcSendOf (s : State) (id : Nat) : Option PlcSend := s.plc.sends.find? (fun x => x.id == id)

/-- Changes a send. -/
def modSend (id : Nat) (f : PlcSend → PlcSend) (s : State) : State :=
  s.setPlc (fun p => { p with sends := p.sends.map (fun x => if x.id == id then f x else x) })

/-- Removes a send. -/
def dropSend (id : Nat) (s : State) : State := s.setPlc (fun p => { p with sends := p.sends.filter (fun x => x.id != id) })

/-- The route of a send: the path it goes back along (R150), or its endpoint's; none for a frame to a group or to an address that is no
endpoint. -/
def sendRoute (s : State) (x : PlcSend) : PlcRoute :=
  match x.back, x.ep with
  | some l, _ => { relays := l, valid := true }
  | none, none => {}
  | none, some i => (s.routeOf (s.ctx i) x.route).getD {}

/-- The neighbour a send goes to first. -/
def sendNbr (s : State) (x : PlcSend) : Nat := firstHop (s.sendRoute x) x.dst

/-- RESULT0 of PLC.SEND (R160). -/
def sendResult (s : State) (x : PlcSend) : Nat :=
  x.attempts % 256 + x.route * 2 ^ 8 + (match x.ep with | some _ => min (s.routeCost (s.sendRoute x) x.dst) 65535 | none => 0) * 2 ^ 16

/-- Ends a send: its command completes with a status, and the send is gone. -/
def endSend (id status lq : Nat) (s : State) : State :=
  match s.plcSendOf id with
  | none => s
  | some x =>
    let s := match x.cmd with
      | some c => s.replyWith c status (if x.typ = 4 then x.mcastId + x.repeatsSent * 2 ^ 16 else s.sendResult x) lq
      | none => s
    s.dropSend id

/-- The link bytes of a frame that needs no seal (R139). -/
def plainLink (s : State) (x : PlcSend) : Bytes :=
  plcFrameBytes (plcHead x s.plc.cfg.netId s.plc.cfg.netEui (s.sendRoute x).relays) x.body []

/-- Forms the link bytes of a frame that needs no seal (R139), with a new LSEQ. -/
def formPlain (x : PlcSend) (s : State) : PlcSend × State :=
  let x := { x with lseq := s.plc.lseq }
  let s := s.setPlc (fun p => { p with lseq := (p.lseq + 1) % 256 })
  ({ x with link := s.plainLink x, sealed := true }, s)

/-- The length of a send's link frame on a route (R139, R160). -/
def sendLen (x : PlcSend) (r : PlcRoute) : Nat := plcLen r.relays.length x.sec x.body.length x.miclen

/-- A frame not yet tried takes the configuration now in force (R159): formed again, or left to be sealed again. -/
def reform (s : State) (x : PlcSend) : PlcSend :=
  if x.attempts ≠ 0 ∨ x.started ∨ !x.sealed then x
  else if x.sec then { x with sealed := false } else { x with link := s.plainLink x }

/-- Appends a send; one that needs no seal is formed at once. -/
def queueSend (x : PlcSend) (s : State) : State :=
  let x := { x with id := s.plc.nextId }
  let s := s.setPlc (fun p => { p with nextId := p.nextId + 1 })
  let (x, s) := if x.sec || x.phase == .discover then (x, s) else s.formPlain x
  s.setPlc (fun p => { p with sends := p.sends ++ [x] })

/-- Queues a frame of PLC's own to an address, by the endpoint's best route where it is one, or back along the relays given (R150).
Frames the manual requires to be secured are sealed under KEYREF 1, the first FRAME key of the set, with an 8-byte MIC. -/
def sendOwn (typ dst : Nat) (body : Bytes) (back : Option (List Nat)) (s : State) : State :=
  let sec := typ == 3 || typ == 6
  match s.epOf dst with
  | none => s.queueSend { id := 0, typ := typ, dst := dst, body := body, sec := false, back := back }
  | some (i, _) =>
    let (k, s) := if back.isSome then (some 5, s) else s.pickRoute i
    s.queueSend { id := 0, typ := typ, dst := dst, body := body, sec := sec, keyref := bitN sec, miclen := bitN sec, ackreq := typ != 5
                  ep := some i, route := k.getD 5, back := back }

/-- Sends a TMREQ to a neighbour, at most one in 600 s (R153). -/
def sendTmreq (eui reason : Nat) (s : State) : State :=
  let n := s.nbr eui
  let due := match n.tmreq with | none => true | some t => decide (t + 600 ≤ s.nowSec)
  if s.plc.cfg.tmapEn && due && (s.epOf eui).isSome then
    let s := s.modNbr eui (fun n => { n with tmreq := some s.nowSec, failedSend := false })
    (s.sendOwn 2 eui (le 1 reason ++ zeros 1) none).plcCount 14
  else s

/-- May a discovery start in the present second (R150)? -/
def discFree (s : State) : Bool := decide ((s.plc.rdiscTimes.filter (· == s.nowSec)).length < s.plc.cfg.rdiscRate)

/-- Starts a discovery of an endpoint, at most one at a time and RDISC_RATE a second; beyond that it waits (R150). -/
def startDisc (i : Nat) (s : State) : State :=
  if !s.plc.cfg.routingEn || s.plc.discs.has i then s
  else if !s.discFree then s.setPlc (fun p => { p with discWait := if p.discWait.contains i then p.discWait else p.discWait ++ [i] })
  else
    let id := s.plc.rdiscId
    let s := s.setPlc (fun p => { p with
      rdiscId := (id + 1) % 65536, discs := p.discs.put i { rdiscId := id }
      rdiscTimes := s.nowSec :: p.rdiscTimes.filter (· == s.nowSec) })
    let body := le 2 id ++ le 1 s.plc.cfg.hopPenalty ++ le 2 s.plc.cfg.collectMs ++ le 1 0
    (s.queueSend { id := 0, typ := 5, dst := (s.ctx i).eui, body := body }).plcCount 9

/-- The oldest discovery that waits for RDISC_RATE starts once it may (R150). -/
def discLook (s : State) : State :=
  match s.plc.discWait with
  | [] => s
  | i :: t => if s.discFree then (s.setPlc (fun p => { p with discWait := t })).startDisc i else s

/-- What device time brings to PLC: a waiting change of source, and a waiting discovery (R131, R150). -/
def plcTick (s : State) : State := s.zcLook.discLook

/-! #### Tone maps (R154 to R156) -/

/-- The part's present estimate of a sender's channel as a set (R154, R158). -/
def estimate (s : State) (eui : Nat) : Bytes :=
  let n := s.nbr eui
  let one := fun (seg : Nat) =>
    if 4 ≤ n.seen.getD seg 0 then
      mapOfCodes ((max 0 (min 255 (n.meanSnr.getD seg 0))).toNat) ((List.range 80).map (fun g => codeFor s.plc.cfg.tmapMargin (n.snr.getD (seg * 80 + g) (-400))))
    else segMap robonSet 0
  if s.zcDc then (List.range 12).flatMap (fun _ => one 0) else (List.range 12).flatMap one

/-- The codes of a set with Off taken as ROBO (R155). -/
def flatCodes (set : Bytes) : List Nat := (List.range 960).map (fun k => max 1 (groupCode (segMap set (k / 80)) (k % 80)))

/-- Do two sets have equal CODES and SEG_ATT (R155)? -/
def sameMaps (a b : Bytes) : Bool :=
  (List.range 12).all (fun seg => (segMap a seg).drop 1 == (segMap b seg).drop 1)

/-- The lowest receive handle that is free: no set, and not freed within 600 s (R155). -/
def freeHandle (s : State) : Option Nat :=
  ((List.range 65535).map (· + 1)).find? (fun h => !s.plc.pool.has h
    && (match s.plc.freed.get? h with | none => true | some t => decide (t + 600 ≤ s.nowSec)))

/-- The issued set of largest S whose every code is no higher than the code wanted (R155); a uniform one in the virtual cycle (R158). -/
def fallbackHandle (s : State) (want : Bytes) : Option Nat :=
  let fit := s.plc.pool.filter (fun e => decide (1 ≤ e.1 ∧ e.1 ≤ 65535)
    && (!s.zcDc || setUniform e.2) && ((flatCodes e.2).zip (flatCodes want)).all (fun p => decide (p.1 ≤ p.2)))
  (fit.foldl (fun (a : Option (Nat × Nat)) e =>
    let sum := setSum s.bandOr e.2
    match a with
    | none => some (e.1, sum)
    | some b => if b.2 < sum then some (e.1, sum) else some b) none).map Prod.fst

/-- One endpoint fewer holds a receive handle; at zero its set goes and the handle rests 600 s (R155). -/
def releaseHandle (h : Nat) (s : State) : State :=
  if h = 0 then s
  else
    let n := s.plc.holders.getD h 0 - 1
    s.setPlc (fun p =>
      if n = 0 then { p with holders := p.holders.del h, pool := p.pool.del h, freed := p.freed.put h s.nowSec }
      else { p with holders := p.holders.put h n })

/-- Chooses the handle for a wanted set: an equal one, a free one, or the fallback, counted (R155). -/
def chooseHandle (want : Bytes) (s : State) : Nat × State :=
  match s.plc.pool.find? (fun e => decide (1 ≤ e.1 ∧ e.1 ≤ 65535) && sameMaps e.2 want) with
  | some (h, _) => (h, s)
  | none => match s.freeHandle with
    | some h => (h, s.setPlc (fun p => { p with pool := p.pool.put h want, freed := p.freed.del h }))
    | none => ((s.fallbackHandle want).getD 0, s.plcCount 20)

/-- Issues a map to an endpoint and sends it a TMRSP, at most one in 600 s (R155). -/
def issueMap (i : Nat) (s : State) : State :=
  match s.epAt i with
  | none => s
  | some x =>
    let due := match (s.nbr x.eui).tmrsp with | none => true | some t => decide (t + 600 ≤ s.nowSec)
    if !s.plc.cfg.tmapEn || !due then s
    else
      let (h, s) := s.chooseHandle (s.estimate x.eui)
      let s := if h = x.rxHandle then s
        else (s.setPlc (fun p => { p with holders := p.holders.put h (p.holders.getD h 0 + 1) })).releaseHandle x.rxHandle
      let s := s.modCtx i (fun x => { x with rxHandle := h })
      let s := s.modNbr x.eui (fun n => { n with tmrsp := some s.nowSec })
      let s := (s.sendOwn 3 x.eui (le 2 h ++ (s.poolSet h).getD robonSet) none).plcCount 15
      s.plcNotice i 3 x.eui 0 0

/-- The pool set an endpoint's transmit set uses or could use: its own, else the lowest free one (R127, R138). -/
def txSlot (s : State) (x : Ctx) : Option Nat :=
  if x.txSet ≠ 0 then some x.txSet
  else ((List.range (s.plc.poolSize - 65536)).map (· + 65536)).find? (fun n => !s.plc.pool.has n)

/-- Puts a transmit set in force for an endpoint (R156, R160). -/
def loadTxSet (i n handle : Nat) (set : Bytes) (s : State) : State :=
  (s.setPlc (fun p => { p with pool := p.pool.put n set })).modCtx i (fun x =>
    { x with txSet := n, txHandle := handle, mapStamp := s.nowSec })

/-- Takes an endpoint's transmit set away (R160). -/
def dropTxSet (i : Nat) (s : State) : State :=
  let n := (s.ctx i).txSet
  let s := if n = 0 then s else s.setPlc (fun p => { p with pool := p.pool.del n })
  s.modCtx i (fun x => { x with txSet := 0, txHandle := 0, mapStamp := 0 })

/-- Releases what PLC holds for an endpoint (R266): its routes, handles and sets. -/
def plcRelease (i : Nat) (s : State) : State :=
  let x := s.ctx i
  let s := (s.releaseHandle x.rxHandle).dropTxSet i
  s.setPlc (fun p => { p with nbrs := p.nbrs.del x.eui, discs := p.discs.del i, discWait := p.discWait.erase i })

/-- A context without handles or a transmit set, whose pool is lost (R127). -/
def Ctx.noSets (x : Ctx) : Ctx := { x with rxHandle := 0, txHandle := 0, txSet := 0, mapStamp := 0 }

/-- The pool is lost, and with it every context's handles and sets (R127, R155, R156). -/
def forgetSets (s : State) : State := { s with ing := { s.ing with ctxs := s.ing.ctxs.mapVals (fun _ x => Ctx.noSets x) } }

/-- The chain mask of a frame (R156): the override, else the chains of the neighbour's latest frame, masked by TX_EN; when
that is empty every TX_EN chain. -/
def chainsFor (s : State) (given eui : Nat) : Nat :=
  let m := (if given ≠ 0 then given else match s.epOf eui with | some (_, x) => x.chainMask | none => 0) &&& s.txChains
  if m = 0 then s.txChains else m

/-! #### Launch (R115, R117, R125, R128, R132, R137) -/

/-- Mains period of the reference in µs as the PHR carries it (R120). -/
def cycleUs (s : State) : Nat := if s.zcDc then 20000 else max 15385 (min 22222 (s.plc.zc.period / 1000))

/-- The PHR of a frame launched at `at'` ns (R120, R125, R130), before its depth is chosen. -/
def phrAt (s : State) (b : Nat × Nat) (at' rate ncw tmap : Nat) : Phr :=
  let t := at' + 1000 * (5760 + 720 * phrSymbols (b.2 + 1 - b.1))
  let ph := t - s.cycleStart t
  let seg := ph * 12 / s.cycleNs
  let dc := s.zcDc
  { rate := rate, depth := s.regField Reg.PLC_CTRL 15 13 + 1, dc := dc, coarse := s.zcSource == 2 || s.zcSource == 3
    seg0 := if dc then 0 else seg % 12
    offUs := if dc then 0 else min ((ph - seg * s.cycleNs / 12) / 1000) ((s.cycleUs - 1) / 12)
    cycleUs := s.cycleUs, ncw := ncw, tmap := tmap }

/-- MASK of a carrier's group in 0.5 dB, 63 off (R116). -/
def maskOf (s : State) (k : Nat) : Nat := s.regI Reg.PLC_MASK_DATA (k / 4) % 64

/-- Carriers of a payload symbol as they go out: those whose group the mask switches off are not transmitted (R116). -/
def maskOff (s : State) (payload : List (List (Nat × Nat × Nat))) : List (List (Nat × Nat × Nat)) :=
  payload.map (fun sym => sym.filter (fun e => s.maskOf e.1 != 63))

/-- A carrier with its attenuation: MASK, the SEG_ATT given and TX_ATT (R116). -/
def toneAt (s : State) (seg k : Nat) (p : Point) : Tone :=
  { k := k, point := p, att := s.maskOf k + seg + s.regField Reg.PLC_TX_ATT 5 0 }

/-- A PHR or payload symbol from its carriers, codes and labels (R118, R122). -/
def wireSymbol (s : State) (seg : Nat) (sym : List (Nat × Nat × Nat)) : PlcSymbol :=
  { pre := 128, tones := (sym.filter (fun e => s.maskOf e.1 != 63)).map (fun e => s.toneAt seg e.1 (pointOf e.2.1 e.2.2)) }

/-- A preamble symbol: SYNCP, or SYNCM its negation (R119). -/
def syncSymbol (s : State) (b : Nat × Nat) (negated : Bool) : PlcSymbol :=
  let cs := carriers b
  { pre := 0, tones := (((List.range cs.length).zip cs).filter (fun e => s.maskOf e.2 != 63)).map (fun e =>
      s.toneAt 0 e.2 (syncPoint cs.length e.1 negated)) }

/-- The waveform of a frame (R113, R116, R118, R119, R121): eight SYNCP and one SYNCM symbol, the PHR twice, and the payload, each of whose
symbols takes the SEG_ATT of its segment map. DEDUCED (log entry 98): the preamble and the PHR, which no segment map governs, take none. -/
def waveOf (s : State) (b : Nat × Nat) (set : Bytes) (p : Phr) (chains : Nat) (payload : List (List (Nat × Nat × Nat))) : PlcWave :=
  let phr := (phrCopy b p.word).map (s.wireSymbol 0)
  { chains := ([0, 1, 2, 3].filter (fun c => bitAt chains c)).map (fun c => (c, field (s.reg (Reg.PLC_LINE_REF_L1 + 4 * c)) 15 8))
    symbols := List.replicate 8 (s.syncSymbol b false) ++ [s.syncSymbol b true] ++ phr ++ phr
      ++ ((List.range payload.length).zip payload).map (fun e => s.wireSymbol (segAtt (segMap set (segOf p e.1))) e.2) }

/-- The whole plan of a launch: PHR, payload symbols and length in µs; none where R115, R117 or R128 refuses it. `floor1` starts
R128's choice of D at 1, as for an ACK (R146). DEDUCED (log entry 83): where block 0 holds no codeword at D = 1, R128's next D does.
DESIGN CHOICE (log entry 131): a frame longer than MAX_TX_MS is refused as one of R115 or R128 is. -/
def launchPlan (s : State) (at' rate : Nat) (floor1 : Bool) (tmap : Nat) (set link : Bytes) :
    Option (Phr × List (List (Nat × Nat × Nat))) :=
  match s.band with
  | none => none
  | some b =>
    let ncw := max 1 (ceilDiv (8 * link.length) (infoBits rate))
    let p := s.phrAt b at' rate ncw tmap
    match chooseDepth b set p (if floor1 then 1 else p.depth) with
    | none => none
    | some d =>
      let p := { p with depth := d }
      let n := payloadSymbols (frameBlocks b set p)
      if s.regField Reg.PLC_BAND 3 0 = 2 ∧ s.regField Reg.PLC_BANDC_LIMIT 15 0 * 1000 < frameUs b n then none
      else some (p, framePayload b set p link)

/-- A frame launched at `at'` goes onto the medium (R113): every reception is abandoned, and the waveform leaves on the chains, its samples over
the seam in class 4 (R20, log entry 22). -/
def goOnAir (id at' chains : Nat) (set : Bytes) (p : Phr) (link : Bytes) (payload : List (List (Nat × Nat × Nat))) (s : State) : State :=
  let s := s.bumpBy Reg.PLC_RX_ABORT_TX s.plc.rx.length
  (s.setPlc (fun q => { q with
    onAir := some id, rx := [], airNs := at', airEnd := at' + 1000 * frameUs s.bandOr payload.length })).emit
    (.plcFrame chains p.word link (s.maskOff payload) (s.waveOf s.bandOr set p chains payload)) |>.seamSend .noon 4 link

end State
end Sys2Proof.Machine
end

