-- ==== Sys2Proof/Machine/MshLink.lean ====
section
/-! DEFINITION. Afane-R link frames: fields and checks (R188 to R190), and the slot clock (R179). -/
set_option Elab.async false
namespace Sys2Proof.Machine

/-- The fields of an Afane-R link frame (R188). -/
structure MshLink where
  typ : Nat
  sec : Bool
  ackreq : Bool
  fpend : Bool
  sleepy : Bool
  hauth : Bool
  relays : Nat
  hopIdx : Nat
  miclen : Nat
  netId : Nat
  nseq : Nat
  syncAge : Nat
  ttl : Nat
  dst : Nat
  src : Nat
  route : List Nat
  keyref : Nat
  fcnt : Nat
  /-- Byte at which BODY starts, and BODY as it stands in the frame. -/
  bodyAt : Nat
  body : Bytes
  deriving DecidableEq, Repr

/-- Reads the fields of a link frame (R188). -/
def mshLinkOf (b : Bytes) : MshLink :=
  let b0 := byteAt b 0
  let sec := bitAt b0 3
  let hauth := bitAt b0 7
  let relays := byteAt b 1 % 8
  let miclen := byteAt b 1 / 64
  let at' := 26 + 8 * relays + (if sec then 8 else 0)
  let tail := (if sec then micBytes miclen else 0) + (if hauth then 4 else 0) + 4
  { typ := b0 % 8, sec := sec, ackreq := bitAt b0 4, fpend := bitAt b0 5, sleepy := bitAt b0 6, hauth := hauth, relays := relays
    hopIdx := field (byteAt b 1) 5 3, miclen := miclen, netId := leAt b 2 2, nseq := leAt b 4 4, syncAge := byteAt b 8
    ttl := byteAt b 9 % 16, dst := leAt b 10 8, src := leAt b 18 8, route := (List.range relays).map (fun i => leAt b (26 + 8 * i) 8)
    keyref := if sec then byteAt b (26 + 8 * relays) else 0, fcnt := if sec then leAt b (30 + 8 * relays) 4 else 0
    bodyAt := at', body := slice b at' (b.length - tail - at') }

/-- The transmitter of the hop (R141, R189). -/
def MshLink.hopSrc (l : MshLink) : Nat := if l.hopIdx = 0 then l.src else l.route.getD (l.hopIdx - 1) 0

/-- The intended receiver of the hop (R141, R189). -/
def MshLink.hopDst (l : MshLink) : Nat := if l.hopIdx < l.relays then l.route.getD l.hopIdx 0 else l.dst

/-- Why a link frame is discarded (R189): HDR_FAIL, HAUTH_MISSING or NET_MISMATCH. -/
inductive MshFail where
  | header | hauth | net
  deriving DecidableEq, Repr

/-- Does the FCS of a frame fail (R188)? -/
def fcsFails (b : Bytes) : Bool := leAt b (b.length - 4) 4 != crc32c (b.take (b.length - 4))

/-- The checks of R189 but the FCS, HAUTH and NET_ID. -/
def mshHeaderBad (b : Bytes) : Bool :=
  let l := mshLinkOf b
  decide (b.length < 30 ∨ 5 ≤ l.typ ∨ 5 < l.relays ∨ l.relays < l.hopIdx ∨ l.miclen = 3) || (l.sec != (l.miclen != 0))
    || decide (byteAt b 9 / 16 ≠ 0) || (decide (l.ttl ≠ 0) && l.typ != 3)
    || (l.sec && decide (leAt b (27 + 8 * l.relays) 3 ≠ 0))
    || (!l.sec && (l.typ == 0 || l.typ == 3 || l.typ == 4)) || (l.sec && (l.typ == 1 || l.typ == 2))
    || decide (b.length < l.bodyAt + (if l.sec then micBytes l.miclen else 0) + (if l.hauth then 4 else 0) + 4)

/-- Does a frame pass FSE, so that its FCS is judged after the verdict (R213, R230)? -/
def mshSecured (b : Bytes) : Bool := let l := mshLinkOf b; l.sec || l.hauth

/-- The first check of R189 that fails. -/
def mshLinkFail (b : Bytes) (hauthReq : Bool) (netId : Nat) : Option MshFail :=
  let l := mshLinkOf b
  if mshHeaderBad b || (fcsFails b && !mshSecured b) then some .header
  else if hauthReq && !l.hauth then some .hauth
  else if l.netId ≠ netId then some .net
  else none

namespace State

/-- The absolute slot number (R179). -/
def asn (s : State) : Nat := (s.tim.sec * 1000000000 + s.tim.ns) / 1000000

/-- The beacon interval number of an ASN and its slot (R179). -/
def binOf (asn : Nat) : Nat := asn / 1024
def slotOf (asn : Nat) : Nat := asn % 1024

/-- The record time-stamp form of a device time in ns (R4). -/
def tsOf (ns : Nat) : Nat := (ns / 1000000000) * 2 ^ 30 + ns % 1000000000

/-- The device time in ns of a record time-stamp (R4). -/
def nsOf (ts : Nat) : Nat := ts / 2 ^ 30 * 1000000000 + ts % 2 ^ 30

end State
end Sys2Proof.Machine
end

