-- ==== Sys2Proof/Machine/FseOps.lean ====
section
/-! DEFINITION. Frame integrity: nonces, associated data, sealing and opening for each Afane variant, sequence windows, and the
lookups of the verdict pipeline (R193 to R195, R216 to R223, R226, R233). -/
set_option Elab.async false
namespace Sys2Proof.Machine

/-! ### Windows (R193, R226) -/

/-- What a window says of a value: new, already taken, or a value below it or 0. -/
inductive WinTest where
  | new | taken | below
  deriving DecidableEq, Repr

/-- Checks a value against a window of highest value `h` and bitmap `m` (R193). -/
def winTest (h m v : Nat) : WinTest :=
  if v = 0 then .below
  else if h < v then .new
  else if h ≤ v + 63 then (if bitAt m (h - v) then .taken else .new)
  else .below

/-- The window after a value is taken in (R193). -/
def winTake (h m v : Nat) : Nat × Nat :=
  if h < v then (v, (if v - h < 64 then m * 2 ^ (v - h) % 2 ^ 64 else 0) ||| 1) else (h, putBit m (h - v) true)

/-! ### Formation (R220 to R223) -/

/-- Replaces byte `i` of a string. -/
def setByte (b : Bytes) (i v : Nat) : Bytes := b.set i (BitVec.ofNat 8 v)

/-- The BODY prefix in the associated data (R222). -/
def bodyLead (radio : Bool) (typ : Nat) : Nat :=
  if radio then (if typ = 3 then 4 else 0) else match typ with | 4 => 4 | 5 => 5 | _ => 0

/-- The associated data of a MIC: the header through SECHDR and the BODY prefix, transit fields 0 (R222). -/
def micAad (radio : Bool) (typ : Nat) (head lead : Bytes) : Bytes :=
  if radio then
    let h := setByte (setByte head 0 (putBit (byteAt head 0) 5 false)) 1 (putField (byteAt head 1) 5 3 0)
    let h := [4, 5, 6, 7, 8].foldl (fun (h : Bytes) i => setByte h i 0) h
    setByte h 9 (putField (byteAt h 9) 3 0 0) ++ lead
  else
    let h := setByte (setByte head 1 (putField (byteAt head 1) 5 3 0)) 6 0
    let h := if typ = 5 then setByte (setByte h 2 0) 3 0 else h
    h ++ (if typ = 4 then setByte lead 2 0 else lead)

/-- The nonce of a MIC or an HTAG (R195, R221). -/
def nonceOf (eui count nctl : Nat) : Bytes := le 8 eui ++ le 4 count ++ le 1 nctl

/-- NCTL of a MIC (R195, R221). -/
def micNctl (radio : Bool) (miclen : Nat) : Nat := bitN radio + 8 * miclen

/-- NCTL of an HTAG (R195). -/
abbrev tagNctl : Nat := 0x1D

/-- Seals a plaintext: ciphertext and MIC by CCM, or by GCM for a GCM key (R220, R223). -/
def micSeal (k : KeySnap) (nonce aad plain : Bytes) (miclen : Nat) : Bytes :=
  let rk := roundKeys k.aes256 k.key
  if k.mode = 1 then gcmSeal rk (nonce.take 12) (nonce.drop 12 ++ aad) plain else ccmSeal rk nonce aad plain (micBytes miclen)

/-- Opens a ciphertext with its MIC (R220, R223). -/
def micOpen (k : KeySnap) (nonce aad sealed : Bytes) (miclen : Nat) : Option Bytes :=
  let rk := roundKeys k.aes256 k.key
  if k.mode = 1 then gcmOpen rk (nonce.take 12) (nonce.drop 12 ++ aad) sealed else ccmOpen rk nonce aad sealed (micBytes miclen)

/-- Does the MIC of a whole link frame verify, and what is its plaintext? For an RDISC the body beyond the prefix lies outside
the MIC. -/
def frameOpen (radio : Bool) (b : Bytes) (k : KeySnap) : Option Bytes :=
  let r := mshLinkOf b
  let p := plcLinkOf b
  let typ := if radio then r.typ else p.typ
  let at' := if radio then r.bodyAt else p.bodyAt
  let body := if radio then r.body else p.body
  let miclen := if radio then r.miclen else p.miclen
  let src := if radio then r.src else p.src
  let fcnt := if radio then r.fcnt else p.fcnt
  let n := bodyLead radio typ
  let mic := slice b (at' + body.length) (micBytes miclen)
  let outside := !radio && typ == 5
  let sealed := (if outside then [] else body.drop n) ++ mic
  (micOpen k (nonceOf src fcnt (micNctl radio miclen)) (micAad radio typ (b.take at') (body.take n)) sealed miclen).map
    (fun p => if outside then body.drop n else p)

/-- Seals the body of a link frame whose head runs through SECHDR: the body as it goes out, followed by the MIC (R232). -/
def frameSeal (radio : Bool) (typ src fcnt miclen : Nat) (head body : Bytes) (k : KeySnap) : Bytes :=
  let n := bodyLead radio typ
  let outside := !radio && typ == 5
  body.take n ++ (if outside then body.drop n else [])
    ++ micSeal k (nonceOf src fcnt (micNctl radio miclen)) (micAad radio typ head (body.take n)) (if outside then [] else body.drop n) miclen

/-- The HTAG over the bytes of a frame before it (R194, R222). -/
def hopTag (k : KeySnap) (hop nseq : Nat) (bytes : Bytes) : Bytes :=
  ccmSeal (roundKeys k.aes256 k.key) (nonceOf hop nseq tagNctl) bytes [] 4

/-- Does the HTAG of a radio frame verify (R194)? -/
def tagVerifies (b : Bytes) (k : KeySnap) : Bool :=
  let l := mshLinkOf b
  slice b (b.length - 8) 4 == hopTag k l.hopSrc l.nseq (b.take (b.length - 8))

namespace State

/-! ### Lookups (R216, R218) -/

/-- Changes FSE. -/
def setFse (f : Fse → Fse) (s : State) : State := { s with fse := f s.fse }

/-- The key set and KEYREF whose key an HTAG uses (R194): the neighbour's link key on a unicast hop of the part, else the network
hop key. -/
def tagKeyOf (s : State) (l : MshLink) (neighbour : Ctx) : Option (Nat × Nat) :=
  if (l.typ == 0 || l.typ == 1 || l.typ == 4) && l.hopDst == s.msh.cfg.netEui then
    (placeOf neighbour.keyset neighbour.inst 0).map (fun p => (p, neighbour.inst))
  else if 0x80 ≤ s.msh.cfg.hopKeyref then (placeOf 0 s.msh.cfg.hopInst s.msh.cfg.hopKeyref).map (fun p => (p, s.msh.cfg.hopInst))
  else none

/-- Contexts are touched in the cache; the last component says how many missed (R218, R239). -/
def touchAll (l : List Nat) (s : State) : State × Nat :=
  l.foldl (fun (e : State × Nat) i => let (s, m) := e.1.cacheTouch i; (s, e.2 + bitN m)) (s, 0)

/-- A key lookup where a place is named. -/
def lookupKey (p : Option (Nat × Nat)) (s : State) : KeyRes × Bool × State :=
  match p with
  | none => (.absent, true, s)
  | some (place, inst) => s.noonKey place inst

/-- The lookups of a frame (R216 to R218, R225): contexts, then keys. What does not exist stands in no cache, so its lookup misses. -/
def fseLookup (f : RxFrame) (s : State) : FseFrame × State :=
  let r := mshLinkOf f.bytes
  let p := plcLinkOf f.bytes
  let srcEui := if f.radio then r.src else p.src
  let hasMic := if f.radio then r.sec else p.sec
  let hasTag := f.radio && r.hauth
  let src := if hasMic || !hasTag then s.epOf srcEui else none
  let hop := if hasTag then s.epOf r.hopSrc else none
  let gone := ((if (hasMic || !hasTag) && src.isNone then [srcEui] else []) ++ (if hasTag && hop.isNone then [r.hopSrc] else [])).eraseDups.length
  let (s, n) := s.touchAll ((src.map Prod.fst).toList ++ (hop.map Prod.fst).toList)
  let s := if n + gone = 0 then s else s.bump Reg.FSE_CTX_MISS
  let (mkey, m1, s) : KeyRes × Bool × State :=
    if hasMic then
      s.lookupKey (src.bind (fun e => (placeOf e.2.keyset e.2.inst (if f.radio then r.keyref else p.keyref)).map (fun q => (q, e.2.inst))))
    else (.none, false, s)
  let (tkey, m2, s) : KeyRes × Bool × State := if hasTag then s.lookupKey (hop.bind (fun e => s.tagKeyOf r e.2)) else (.none, false, s)
  let s := if m1 || m2 then s.bump Reg.FSE_KEY_MISS else s
  ({ frame := f, src := src.map (fun e => (e.1, e.2.gen)), hop := hop.map (fun e => (e.1, e.2.gen)), noCtx := gone != 0
     ctxMiss := n + gone != 0, keyMiss := m1 || m2, fills := n + gone, unwraps := bitN m1 + bitN m2, startNc := s.dev.nc
     micKey := mkey, tagKey := tkey }, s)

/-! ### Sealing (R232, R233) -/

/-- The key of an outbound MIC (R223, R232): resolved like an inbound one, with a usage and a mode that fit. -/
def sealKey (keyset inst ref miclen : Nat) (s : State) : KeyRes × State :=
  let (k, _, s) := s.lookupKey ((placeOf keyset inst ref).map (fun p => (p, inst)))
  (match k with
    | .ok x => if micUsage ref x.usage && (x.mode == 0 || (s.regBit Reg.FSE_CTRL 1 && miclen == 2)) then k else .absent
    | _ => k, s)

/-- The FCNT a seal toward an endpoint draws, and the state after it (R233). -/
def drawUnicast (i : Nat) (s : State) : Option Nat × State :=
  match s.epAt i with
  | none => (none, s)
  | some x =>
    let v := s.drawValue Ctr.txFcnt i x.txFcnt
    if 0xFFFFFFFF ≤ v then (none, s)
    else (some v, (s.setCtx i { x with txFcnt := v + 1 }).drewCounter Ctr.txFcnt i v)

/-- What a draw from a group transmit counter leads to (R233): a value, a ceiling to make durable first, or no value left. -/
inductive GroupDraw where
  | value (v : Nat) | ceiling (c : Nat) | spent
  deriving DecidableEq, Repr

/-- The next draw from the group counter of a shared key (R233). -/
def groupDraw (s : State) (place : Nat) : GroupDraw :=
  let (n, ceil) := s.groupOf place
  let v := s.drawValue Ctr.group place n
  if 0xFFFFFFFF ≤ v then .spent
  else if v < ceil then .value v
  else .ceiling ((v / 65536 + 1) * 65536)

/-- Takes a value from a group counter. -/
def takeGroup (place v : Nat) (s : State) : State :=
  (s.setKvt (fun k => { k with groups := k.groups.put place (v + 1, (s.groupOf place).2) })).drewCounter Ctr.group place v

end State
end Sys2Proof.Machine
end

