-- ==== Sys2Proof/Machine/IngOps.lean ====
section
/-! DEFINITION. Ingest: the bytes of a context, application records and their checks, canonical records and their copies, path
statistics, the gate, the burst buffer, storms and histograms (R238 to R262). -/
set_option Elab.async false
namespace Sys2Proof.Machine

/-! ### Application records (R241, R242, R247) -/

/-- An application record (R241). -/
structure Ar where
  typ : Nat
  flags : Nat
  unit : Nat
  seq : Nat
  ets : Nat
  values : Bytes
  tail : Bytes
  deriving DecidableEq, Repr

/-- FORM and MT of a record. -/
def Ar.form (a : Ar) : Nat := a.flags % 4
def Ar.mt (a : Ar) : Bool := bitAt a.flags 2

/-- The bytes of a body as application records in order; none where they are no exact sum (R247). -/
def arsOf : Nat → Bytes → Option (List Ar)
  | 0, b => if b.isEmpty then some [] else none
  | n + 1, b =>
    if b.isEmpty then some []
    else
      let len := if bitAt (byteAt b 1) 2 then 48 else 40
      if b.length < len then none
      else
        let a : Ar := { typ := byteAt b 0, flags := byteAt b 1, unit := leAt b 2 2, seq := leAt b 4 4, ets := leAt b 8 8
                        values := slice b 16 24, tail := if len = 48 then slice b 40 8 else zeros 8 }
        (arsOf n (b.drop len)).map (fun l => a :: l)

/-- The class of a TYPE (R242); 7 for a reserved one. -/
def classOf (typ : Nat) : Nat :=
  if typ < 0x20 then 0 else if typ < 0x40 then 1 else if typ < 0x60 then 2 else if typ < 0xA0 then 3 else if typ < 0xC0 then 4
  else if typ < 0xE0 then 5 else if typ = 0xE0 then 6 else 7

/-- Is a TYPE an outage type: 1 POWER_FAIL, 2 POWER_RESTORE, 0 neither (R242)? -/
def outageOf (typ : Nat) : Nat := if typ = 0x40 ∨ typ = 0xC0 then 1 else if typ = 0x41 ∨ typ = 0xC1 then 2 else 0

/-- Can an application record be interpreted (R247)? -/
def Ar.sound (a : Ar) : Bool :=
  let c := classOf a.typ
  decide (c < 6) && (if c < 2 then a.form == 0 else decide (a.form < 3)) && decide (a.flags < 8) && (decide (3 ≤ c) || a.unit == 0)
    && a.seq != 0 && decide (a.ets % 2 ^ 30 < 1000000000)

/-- Word `i` of the values as an unsigned 64-bit word. -/
def word64 (v : Bytes) (i : Nat) : Nat := leAt v (8 * i) 8

/-! ### Canonical records (R250) -/

/-- The 64 bytes of a canonical record (R250). -/
def Rec.bytes (r : Rec) : Bytes :=
  le 3 r.endpoint ++ le 1 (r.inst + 16 * r.cls) ++ le 1 r.typ ++ le 1 r.flags
    ++ le 1 (r.path + 4 * r.relays + 32 * r.form + 128 * bitN r.mt) ++ le 1 r.quality ++ le 8 r.ets ++ le 8 r.rts ++ le 4 r.seq
    ++ le 4 r.fcnt ++ fit 24 r.values ++ fit 8 r.tail

/-- The record key of the archive (R250): endpoint, TYPE, ETS and SEQ. -/
def Rec.key (r : Rec) : Nat × Nat × Nat × Nat := (r.endpoint, r.typ, r.ets, r.seq)

/-! ### The bytes of a context (R238) -/

/-- A route of a context as its 48 bytes. -/
def routeBytes (cost fails : Nat) (r : PlcRoute) : Bytes :=
  fit 40 (r.relays.flatMap (le 8)) ++ le 2 cost ++ le 1 (r.relays.length + fails * 8 + 128 * bitN r.valid) ++ zeros 5

/-- A PATHSTAT entry (R238). -/
def PathStat.bytes (p : PathStat) : Bytes :=
  le 4 p.first ++ le 4 p.dup ++ le 8 p.lastHeard ++ le 1 p.lastLq ++ le 1 p.meanLq ++ zeros 2 ++ le 4 p.lagMean ++ zeros 8

/-- A READWIN entry (R238). -/
def ReadWin.bytes (w : ReadWin) : Bytes := le 4 w.high ++ le 8 w.map ++ le 8 w.lastEts

/-! ### Parts of a context -/

/-- Counts one in counter `k` of a context (RECORDS, RESENDS, FLAGGED, STRUCT_DROP, AGGREGATED). -/
def Ctx.count (k : Nat) (x : Ctx) : Ctx := { x with counts := setAt 0 5 k (satAdd 32 (x.counts.getD k 0) 1) x.counts }

/-- An exponential mean with weight 1/16 (R238). -/
def mean16 (m v : Nat) : Nat := (15 * m + v) / 16

/-- One more reading in a histogram. -/
def Histo.add (h : Histo) (endpoint sub : Nat) : Histo :=
  { h with subs := setAt 0 12 sub (min 32767 (h.subs.getD sub 0 + 1)) h.subs, total := h.total + 1
           first := if h.total = 0 then endpoint else h.first, last := endpoint }

/-- Is a histogram the one of a key? -/
def Histo.isFor (h : Histo) (inst feeder typ bin len : Nat) : Bool :=
  h.inst == inst && h.feeder == feeder && h.typ == typ && h.bin == bin && h.len == len

/-- The reading window after a reading is taken in (R245). -/
def ReadWin.take (w : ReadWin) (a : Ar) : ReadWin :=
  let n := match winTest w.high w.map a.seq with
    | .new => winTake w.high w.map a.seq
    | _ => (w.high, w.map)
  { high := n.1, map := n.2, lastEts := max w.lastEts a.ets }

namespace State

/-- Changes ING. -/
def setIng (f : Ing → Ing) (s : State) : State := { s with ing := f s.ing }

/-- The 48 bytes of a route of an endpoint (R238). -/
def ctxRoute (s : State) (eui : Nat) (r : PlcRoute) : Bytes :=
  if r.valid then routeBytes (min 65535 (s.routeCost r eui)) (s.nbr (firstHop r eui)).fails r else routeBytes 0 0 r

/-- The 1 024 bytes of a context (R238). -/
def ctxBytes (s : State) (i : Nat) (x : Ctx) : Bytes :=
  let p0 := le 8 x.eui ++ le 3 i ++ le 1 x.inst ++ le 4 x.gen ++ le 1 x.kind ++ le 1 x.flags ++ le 1 x.profile
    ++ le 1 (bitN x.topoValid) ++ le 2 x.topoNode ++ le 2 x.feeder ++ le 4 x.keyset ++ zeros 36
  let p64 := le 4 x.fcntH ++ le 8 x.fcntMap ++ le 4 x.nseqH ++ le 8 x.nseqMap ++ le 4 x.txFcnt ++ le 4 x.txNseq ++ zeros 32
  let routes := if x.valid then
      s.ctxRoute x.eui { valid := s.directOk x.eui } ++ (List.range 4).flatMap (fun k => s.ctxRoute x.eui (x.slot k)) else zeros 240
  let age := if x.txSet = 0 then 0 else min 65535 ((s.nowSec - x.mapStamp) / 3600)
  let p128 := routes ++ le 2 x.rxHandle ++ le 2 x.txHandle ++ le 2 age ++ le 1 x.chainMask ++ le 1 (x.current + 8 * bitN x.routePinned)
    ++ le 4 x.txSet ++ zeros 4
  let p384 := le 1 x.homePort ++ le 1 x.homeCh ++ le 1 x.homeRate ++ le 1 x.upRelays ++ le 8 x.lastSync
    ++ fit 40 (x.upRoute.flatMap (le 8)) ++ le 3 (x.lastCollector + 2 ^ 23 * bitN x.viaCollector) ++ zeros 9
  let p448 := le 4 x.lastAccFcnt ++ le 8 x.lastAccRts ++ le 1 x.lastAccPath ++ zeros 51
  let p512 := (List.range 4).flatMap (fun p => (x.paths.getD p {}).bytes) ++ (List.range 6).flatMap (fun c => (x.wins.getD c {}).bytes) ++ zeros 8
  let p768 := (List.range 3).flatMap (fun k => le 8 (x.regSnap.getD k 0)) ++ le 8 x.regEts ++ le 8 x.outStart ++ le 8 x.outEnd
    ++ le 4 x.outages ++ zeros 12 ++ (List.range 5).flatMap (fun k => le 4 (x.counts.getD k 0)) ++ le 4 x.gaps ++ le 8 x.created ++ zeros 32
  p0 ++ p64 ++ p128 ++ p384 ++ p448 ++ p512 ++ p768 ++ fit 128 x.host

/-! ### Profiles (R249) -/

/-- Word `k` of a profile. -/
def profWord (s : State) (p k : Nat) : Nat := s.regI Reg.ING_PROF_DATA (p * 16 + k)

/-! ### Notices and statistics (R244, R266, R267) -/

/-- An ING notice (R267). -/
def ingNotice (reason path endpoint count : Nat) (s : State) : State :=
  s.event 0 (le 1 reason ++ le 1 path ++ le 3 endpoint ++ zeros 3 ++ le 4 count)

/-- Counts one in counter `k` (RESENDS, FLAGGED, STRUCT_DROP, AGGREGATED) of an instance. -/
def instCount (i k : Nat) (s : State) : State := s.setIng (fun g => { g with counts := g.counts.upd (i * 4 + k) 0 (satAdd 32 1) })

/-- The path statistics of an ACCEPT or DUPLICATE copy (R244). -/
def pathStats (i : Nat) (accept : Bool) (path lq rts fcnt : Nat) (s : State) : State :=
  s.modCtx i (fun x =>
    let p := x.paths.getD path {}
    let p : PathStat := { p with lastHeard := rts, lastLq := lq, meanLq := mean16 p.meanLq lq }
    if accept then
      { x with paths := x.paths.put path { p with first := satAdd 32 p.first 1 }, lastAccFcnt := fcnt, lastAccRts := rts, lastAccPath := path }
    else
      let p : PathStat := { p with dup := satAdd 32 p.dup 1 }
      let p : PathStat := if fcnt = x.lastAccFcnt then
          { p with lagMean := mean16 p.lagMean ((nsOf rts - nsOf x.lastAccRts) / 1000) } else p
      { x with paths := x.paths.put path p })

/-! ### The gate (R254, R255, R258) -/

/-- Slots a frame takes (R254). -/
def bbSlots (len : Nat) : Nat := ceilDiv (len + 32) 256

/-- Slots in use, and slots held by a path's frames. -/
def bbFill (s : State) : Nat := (s.ing.buffer.map (·.slots)).sum
def bbPathFill (s : State) (p : Nat) : Nat := ((s.ing.buffer.filter (fun f => f.path == p)).map (·.slots)).sum

/-- SHARE in slots and STORM_RATE of a path (R268). -/
def pathShare (s : State) (p : Nat) : Nat := min 1008 (field (s.reg (Reg.ING_ADMIT_PLC + 4 * p)) 10 0) * 4096
def stormRate (s : State) (p : Nat) : Nat := field (s.reg (Reg.ING_ADMIT_PLC + 4 * p)) 31 16

/-- Is there a storm (R257)? -/
def inStorm (s : State) : Bool := s.ing.storm && s.regBit Reg.ING_CTRL 0

/-- Is a path's gate open (R255, R263)? -/
def gateOpen (s : State) (p : Nat) : Bool :=
  decide (s.bbPathFill p < s.pathShare p) && decide (s.bbFill + 65536 ≤ 4194304)
    && (!s.inStorm || s.stormRate p == 0 || decide (0 < s.ing.allow.getD p 0)) && s.ing.rollDone && s.begun 6

/-- The gates as a mask. -/
def gateMask (s : State) : Nat := (List.range 4).foldl (fun a p => putBit a p (s.gateOpen p)) 0

/-- Every change of a gate since the last look is noticed (R267). -/
def gateNotices (s : State) : State :=
  let now := s.gateMask
  let was := s.ing.gates
  if now = was then s
  else
    (List.range 4).foldl (fun s p =>
      if bitAt now p = bitAt was p then s else s.ingNotice (if bitAt now p then 4 else 3) p 0 0) (s.setIng (fun g => { g with gates := now }))

/-- A frame the gate admits takes one from the path's storm allowance (R258). -/
def takeAllowance (p : Nat) (s : State) : State :=
  if s.inStorm && s.stormRate p != 0 then s.setIng (fun g => { g with allow := g.allow.put p (g.allow.getD p 0 - 1) }) else s

/-! ### Hand-off (R251, R253) -/

/-- Does a tariff campaign wait for an endpoint's TARIFF_ACTIVE (R399)? -/
def campaigning (s : State) (endpoint : Nat) : Bool := s.bil.campaigns.any (fun e => e.2.endpoints.contains endpoint)

/-- A billing copy goes to the queue, or to the gap list once the queue has been full (R253). -/
def billingCopy (r : Rec) (s : State) : State :=
  if s.ing.bilGap then s.setIng (fun g => { g with gap := g.gap ++ [r] })
  else if s.ing.bilq.length < s.ing.bilqMib * 16384 then s.setIng (fun g => { g with bilq := g.bilq ++ [r] })
  else (s.setIng (fun g => { g with bilGap := true, gap := g.gap ++ [r] })).ingNotice 5 0 0 0

/-- A LOS copy, dropped where LOS is switched off (R542) or the queue is full, with QUEUE_LOSS in every open lane (R253, R330). -/
def losCopy (r : Rec) (s : State) : State :=
  if s.shut 46 then s.bump Reg.ING_LOS_DROP
  else if s.ing.losq.length < 65536 then s.setIng (fun g => { g with losq := g.losq ++ [r] }) 
  else
    let s : State := { s with los := { s.los with lanes := s.los.lanes.mapVals (fun _ l => { l with queueLoss := true }) } }
    s.bump Reg.ING_LOS_DROP

/-- A record goes to COD, with its copies in the same cycle (R251); that of a fenced instance goes to the quarantine sink instead
(R284). -/
def handRecord (r : Rec) (billing topo : Bool) (s : State) : State :=
  let st := (s.inst r.inst).state
  let s := s.digestItem 1 r.rts [r.endpoint, r.typ, r.ets, r.seq]
  let s : State := if st = .fencing ∨ st = .fenced then (s.bump Reg.COD_FENCE_SINK).sunk r.inst
    else { s with cod := { s.cod with input := s.cod.input ++ [r] } }
  let s := (s.bump Reg.ING_RECORDS_OUT).setIng (fun g => { g with formed := g.formed.upd (r.inst * 8 + r.cls) 0 (satAdd 32 1) })
  let s := if (r.cls = 0 ∧ billing) ∨ (0x50 ≤ r.typ ∧ r.typ ≤ 0x57) ∨ (r.typ = 0x48 ∧ s.campaigning r.endpoint = true) then s.billingCopy r
    else s
  if (r.cls = 0 ∨ r.cls = 4) ∧ topo then s.losCopy r else s

/-- A record read back or resent raises its endpoint's windows: FCNT_H and the class's HIGH_SEQ to at least the record's, and every bit
of both bitmaps (R264, R505). A storm histogram names a feeder group and no endpoint. -/
def raiseWindows (r : Rec) (s : State) : State :=
  if 6 ≤ r.cls then s
  else s.modCtx r.endpoint (fun x => { x with
    fcntH := max x.fcntH r.fcnt, fcntMap := 2 ^ 64 - 1
    wins := x.wins.upd r.cls {} (fun w => { w with high := max w.high r.seq, map := 2 ^ 64 - 1 }) })

/-- Records COD's input has room for (R286). -/
def codRoom (s : State) : Nat := 256 - s.cod.input.length

/-! ### Validation (R245, R247, R248) -/

/-- QUALITY of an application record but LATE_SEQ (R248). -/
def qualityOf (s : State) (x : Ctx) (a : Ar) (rts : Nat) : Nat :=
  let c := classOf a.typ
  let w := s.profWord x.profile
  let interval := w 0
  let imax := w 4 + w 5 * 2 ^ 32
  let limit := imax * interval / 3600
  let s32 := fun i => signedOf 32 (leAt a.values (4 * i) 4)
  let s16 := fun i => signedOf 16 (leAt a.values (2 * i) 2)
  let out32 := (List.range 6).any (fun i => decide (s32 i < signedOf 32 (w 6)) || decide (signedOf 32 (w 7) < s32 i))
  let out16 := (List.range 12).any (fun i => decide (s16 i < signedOf 16 (w 8)) || decide (signedOf 16 (w 8 / 65536) < s16 i))
  let range := if c = 0 then (List.range 3).any (fun i => decide (limit < word64 a.values i))
    else if c = 3 ∨ c = 4 then (match a.form with | 1 => out32 | 2 => out16 | _ => false) else false
  let decrease := c == 1 && !bitAt (w 3) 3 && decide (x.regEts < a.ets)
    && (List.range 3).any (fun i => decide (word64 a.values i < x.regSnap.getD i 0))
  let future := decide (nsOf rts + w 2 * 1000000000 < nsOf a.ets)
  let past := decide (nsOf a.ets + w 1 * 1000000000 < nsOf rts)
  let divides := decide (60 ≤ interval ∧ interval ≤ 86400 ∧ 86400 % interval = 0)
  let misaligned := (c == 0 || c == 4) && (!divides || a.ets / 2 ^ 30 % interval != 0 || a.ets % 2 ^ 30 != 0)
  let mtag := decide (c < 3) && !a.mt && bitAt (w 3) c
  bitN range + 2 * bitN decrease + 4 * bitN future + 8 * bitN past + 16 * bitN misaligned + 64 * bitN mtag

/-- Does a class 0 record follow a gap (R248)? -/
def gapBefore (s : State) (x : Ctx) (a : Ar) : Bool :=
  let last := (x.wins.getD 0 {}).lastEts
  classOf a.typ == 0 && last != 0 && decide (nsOf last + s.profWord x.profile 0 * 1000000000 < nsOf a.ets)

/-! ### Histograms (R260, R261) -/

/-- STORM_BIN_S in force. -/
def stormBin (s : State) : Nat := max 1 (s.regField Reg.ING_STORM_TIME 15 8)

/-- The whole second at which the bin of an ETS starts. -/
def binStart (s : State) (ets : Nat) : Nat := ets / 2 ^ 30 / s.stormBin * s.stormBin

/-- Is a sound, new reading aggregated (R260)? -/
def aggregates (s : State) (x : Ctx) (a : Ar) (rts : Nat) : Bool :=
  s.inStorm && s.regBit Reg.ING_CTRL 1 && classOf a.typ == 5 && bitAt (s.profWord x.profile 9) (a.typ - 0xC0) && !bitAt x.flags 5
    && decide (nsOf rts ≤ s.binStart a.ets * 1000000000 + 0xFFFFFFFF * 1000000)

/-- Counts a reading into the histogram of its key, or of its overflow when 4 096 are open (R261). -/
def histCount (x : Ctx) (endpoint : Nat) (a : Ar) (s : State) : State :=
  let len := s.stormBin
  let bin := s.binStart a.ets
  let sub := 12 * (nsOf a.ets - bin * 1000000000) / (len * 1000000000)
  let mine := fun (feeder : Nat) (h : Histo) => !h.due && h.isFor x.inst feeder a.typ bin len
  let add := fun (feeder : Nat) (s : State) =>
    if s.ing.hists.any (mine feeder) then
      s.setIng (fun g => { g with hists := g.hists.map (fun h => if mine feeder h then h.add endpoint sub else h) })
    else
      let h : Histo := { inst := x.inst, feeder := feeder, typ := a.typ, bin := bin, len := len }
      s.setIng (fun g => { g with hists := g.hists ++ [h.add endpoint sub] })
  if s.ing.hists.any (mine x.feeder) || decide ((s.ing.hists.filter (fun h => h.feeder != 0xFFFF)).length < 4096) then add x.feeder s
  else (add 0xFFFF s).bump Reg.ING_HIST_OVERFLOW

/-- The class 6 record of a histogram formed now (R250, R261). -/
def histRecord (s : State) (h : Histo) : Rec :=
  { endpoint := h.feeder, inst := h.inst, cls := 6, typ := 0xE0, flags := 8, form := 2, ets := h.bin * 2 ^ 30, rts := s.stamp
    seq := (s.nowNs - h.bin * 1000000000) / 1000000, fcnt := h.total, values := (List.range 12).flatMap (fun k => le 2 (h.subs.getD k 0))
    tail := le 3 h.first ++ le 3 h.last ++ le 1 h.typ ++ zeros 1 }

/-- Forms the next histogram that is due while COD's input has room (R261, R286). -/
def histGo (s : State) : State :=
  if 256 ≤ s.cod.input.length then s
  else match s.ing.hists.find? (·.due) with
    | none => s
    | some h =>
      ((s.setIng (fun g => { g with hists := g.hists.erase h })).handRecord (s.histRecord h) false false).bump Reg.ING_HIST_RECORDS

/-- The histograms a test marks are due; they are formed as far as COD's input has room, the others as it drains (R261, R286). -/
def formHists (p : Histo → Bool) (s : State) : State :=
  let s := s.setIng (fun g => { g with hists := g.hists.map (fun h => if p h then { h with due := true } else h) })
  s.ing.hists.foldl (fun s _ => s.histGo) s

/-! ### One application record (R245 to R261) -/

/-- The canonical record of a reading (R250). -/
def recordOf (f : BbFrame) (x : Ctx) (a : Ar) (quality : Nat) (gap : Bool) : Rec :=
  let c := classOf a.typ
  { endpoint := f.endpoint, inst := x.inst, cls := c, typ := a.typ
    flags := bitN f.zcFallback + 2 * bitN f.overload + 4 * bitN gap + 16 * bitN f.held
    path := f.path, relays := f.relays, form := a.form, mt := a.mt, quality := quality, ets := a.ets, rts := f.rts, seq := a.seq
    fcnt := f.fcnt, values := a.values, tail := if c < 3 then a.tail else le 2 a.unit ++ zeros 6 }

/-- An interpretable reading that is no resend: its context fields, then its histogram or its record (R245, R248, R257 to R261). -/
def takeReading (f : BbFrame) (a : Ar) (late : Bool) (s : State) : State :=
  let x := s.ctx f.endpoint
  let c := classOf a.typ
  let q := s.qualityOf x a f.rts + 32 * bitN late
  let gap := s.gapBefore x a
  let agg := s.aggregates x a f.rts
  let y : Ctx := { x with wins := x.wins.put c ((x.wins.getD c {}).take a) }
  if agg then
    (((s.setCtx f.endpoint (Ctx.count 4 y)).instCount x.inst 3).bump Reg.ING_AGGREGATED).histCount x f.endpoint a
  else
    let snap := c == 1 && decide (x.regEts < a.ets)
    let z : Ctx := { y with
      regSnap := if snap then (List.range 3).map (word64 a.values) else y.regSnap
      regEts := if snap then a.ets else y.regEts
      gaps := if gap then satAdd 32 y.gaps 1 else y.gaps }
    let z := Ctx.count 0 z
    let z := if q = 0 then z else Ctx.count 2 z
    let s := s.setCtx f.endpoint z
    let s := if q = 0 then s else (s.instCount x.inst 1).bump Reg.ING_FLAGGED
    s.handRecord (recordOf f x a q gap) (bitAt x.flags 6) x.topoValid

/-- An interpretable reading of an outage type is counted and stands in its context, a resend too (R257, R259; DEDUCED, log entry 111). -/
def takeOutage (f : BbFrame) (a : Ar) (s : State) : State :=
  let out := outageOf a.typ
  if out = 0 then s
  else
    (s.modCtx f.endpoint (fun x => { x with
      outStart := if out = 1 then max x.outStart a.ets else x.outStart
      outEnd := if out = 2 then max x.outEnd a.ets else x.outEnd
      outages := if out = 1 then satAdd 32 x.outages 1 else x.outages })).setIng (fun g => { g with outageCount := g.outageCount + 1 })

/-- One application record of a frame (R245, R247, R259). -/
def ingestAr (f : BbFrame) (a : Ar) (s : State) : State :=
  let x := s.ctx f.endpoint
  if !a.sound then ((s.setCtx f.endpoint (Ctx.count 3 x)).instCount x.inst 2).bump Reg.ING_STRUCT_DROP
  else
    let s := s.takeOutage f a
    let x := s.ctx f.endpoint
    let w := x.wins.getD (classOf a.typ) {}
    match winTest w.high w.map a.seq with
    | .taken => ((s.setCtx f.endpoint (Ctx.count 1 x)).instCount x.inst 0).bump Reg.ING_RESENDS
    | .new => s.takeReading f a false
    | .below => s.takeReading f a true

/-- All application records of a frame, or the frame discarded whole (R246, R247). -/
def ingestFrame (f : BbFrame) (s : State) : State :=
  match arsOf (f.plain.length / 40 + 1) f.plain with
  | none => s.bump Reg.ING_FRAME_DROP
  | some as' => as'.foldl (fun s a => s.ingestAr f a) s

/-- A frame with its ACCEPT verdict (R252, R254): straight to COD, or into the burst buffer. -/
def ingAccept (f : BbFrame) (s : State) : State :=
  let s := s.bump Reg.ING_FRAMES_IN
  let t := s.ingestFrame { f with held := false }
  if s.regBit Reg.ING_CTRL 2 && s.ing.buffer.isEmpty && s.ing.rollDone && decide (t.cod.input.length ≤ 256) then t
  else
    let s := s.setIng (fun g => { g with buffer := g.buffer ++ [{ f with held := true, slots := bbSlots f.plain.length }] })
    (s.maxReg Reg.ING_BB_PEAK s.bbFill).gateNotices

/-! ### The buffer's head (R254, R265) -/

/-- Frames at the head of the buffer of an endpoint that is gone, in a row. -/
def headGone (s : State) (f : BbFrame) : Bool := let x := s.ctx f.endpoint; !x.valid || x.gen != f.gen

/-- The head of the buffer leaves: to the sink, discarded, or ingested when COD has room (R254, R265). -/
def leaveHead (s : State) : State :=
  match s.ing.buffer with
  | [] => s
  | f :: rest =>
    let gone := s.setIng (fun g => { g with buffer := rest })
    let st := (s.inst f.inst).state
    if f.old ∨ st = .fencing ∨ st = .fenced then (gone.bump Reg.ING_FENCE_DROP).sunk f.inst
    else if s.headGone f then
      let n := (s.ing.buffer.filter (fun e => e.endpoint == f.endpoint && e.gen == f.gen)).length
      let s := s.setIng (fun g => { g with buffer := g.buffer.filter (fun e => !(e.endpoint == f.endpoint && e.gen == f.gen)) })
      (s.bumpBy Reg.ING_DELETED_DROP n).ingNotice 7 0 f.endpoint n
    else
      let t := gone.ingestFrame f
      if t.cod.input.length ≤ max 256 s.cod.input.length then t else s

/-! ### Storms (R257, R258) -/

/-- A storm ends, its histograms formed, and is noticed (R257, R261). -/
def endStorm (s : State) : State :=
  ((s.setIng (fun g => { g with storm := false, quiet := 0 })).formHists (fun _ => true)).ingNotice 2 0 0 0

/-- While STORM_EN is 0 there is no storm (R257). -/
def stormOff (s : State) : State := if s.ing.storm && !s.regBit Reg.ING_CTRL 0 then s.endStorm.gateNotices else s

/-- The second that has ended moves the storm (R257, R261). -/
def stormSecond (s : State) : State :=
  let n := s.ing.outageCount
  let s := s.setIng (fun g => { g with outageCount := 0 })
  let en := s.regBit Reg.ING_CTRL 0
  let s := s.formHists (fun h => decide (h.bin + h.len + s.stormBin ≤ s.nowSec))
  if s.ing.storm then
    let quiet := if n < s.regField Reg.ING_STORM_CFG 31 16 then s.ing.quiet + 1 else 0
    if !en || decide (s.regField Reg.ING_STORM_TIME 7 0 ≤ quiet) then
      s.endStorm
    else s.setIng (fun g => { g with quiet := quiet })
  else if en && decide (s.regField Reg.ING_STORM_CFG 15 0 ≤ n) then
    (s.setIng (fun g => { g with storm := true, quiet := 0, allow := (List.range 4).map (fun p => (p, s.stormRate p * 100)) })).ingNotice 1 0 0 0
  else s

end State

/-- BURST_BUFFER_LEAVE (R42, R245 to R248, R253, R254, R256, R259 to R261, R265). -/
def execBurstBufferLeave (s : State) : R := .next (if s.begun 6 then s.leaveHead.gateNotices else s)

/-- STORM_SECOND (R257, R261); ING runs from stage D6 to DUSK (R263, R264). -/
def execStormSecond (s : State) : R := .next (if s.begun 6 then s.stormSecond.gateNotices else s)

/-- STORM_ALLOWANCE_REFILL (R258): `frames` more for a path, up to its rate. -/
def execStormAllowanceRefill (path frames : Nat) (s : State) : R :=
  .next (if path < 4 ∧ s.inStorm = true then
      (s.setIng (fun g => { g with allow := g.allow.put path (min (s.stormRate path * 100) (g.allow.getD path 0 + frames)) })).gateNotices
    else s)

end Sys2Proof.Machine
end

