-- ==== Sys2Proof/Machine/CodOps.lean ====
section
/-! DEFINITION. Record coding: blocks, deltas, bounded words, extremes, closes, and the decoding of a block (R269 to R286). -/
set_option Elab.async false
namespace Sys2Proof.Machine

/-! ### Varints and deltas (R274) -/

/-- Zigzag of a signed number. -/
def zigzag (d : Int) : Nat := if 0 ≤ d then 2 * d.toNat else 2 * (-d).toNat - 1

/-- The signed number of a zigzag value. -/
def unzigzag (z : Nat) : Int := if z % 2 = 0 then (z / 2 : Nat) else -(((z + 1) / 2 : Nat) : Int)

/-- An unsigned varint of at most `n` bytes. -/
def varint : Nat → Nat → Bytes
  | 0, _ => []
  | n + 1, z => if z < 128 then [BitVec.ofNat 8 z] else BitVec.ofNat 8 (z % 128 + 128) :: varint n (z / 128)

/-- Reads a varint of at most `n` bytes: its value and the bytes behind it. -/
def readVarint : Nat → Bytes → Nat × Bytes
  | 0, b => (0, b)
  | _ + 1, [] => (0, [])
  | n + 1, x :: t =>
    if x.toNat < 128 then (x.toNat, t)
    else let r := readVarint n t; (x.toNat - 128 + 128 * r.1, r.2)

/-- The coded delta of width `w` from `r` to `x`. -/
def deltaOf (w r x : Nat) : Bytes := varint 10 (zigzag (signedOf w ((x + 2 ^ w - r % 2 ^ w) % 2 ^ w)))

/-- The value a delta of width `w` from `r` gives. -/
def deltaTo (w r z : Nat) : Nat := ((r : Int) + unzigzag z).emod (2 ^ w : Nat) |>.toNat

/-! ### The fields of a canonical record (R273) -/

/-- The fields of 64 canonical bytes, as the references take them. -/
def canonRefs (b : Bytes) (q : List Int) : Refs :=
  { ep := leAt b 0 3 % 2 ^ 21, b47 := leAt b 4 4, ets := leAt b 8 8, seq := leAt b 24 4, fcnt := leAt b 28 4
    v := [leAt b 32 8, leAt b 40 8, leAt b 48 8], tail := leAt b 56 8, q := q }

/-- FORM of a canonical record, read from B47. -/
def formOfB47 (b47 : Nat) : Nat := field b47 22 21

/-- TYPE of a canonical record, read from B47. -/
def typeOfB47 (b47 : Nat) : Nat := b47 % 256

/-- Words a FORM carries. -/
def formWords (form : Nat) : Nat := if form = 0 then 3 else if form = 1 then 6 else 12

/-- Word `k` of 24 value bytes: unsigned for FORM 0, sign-extended otherwise (R277). -/
def valueWord (form k : Nat) (v : Bytes) : Int :=
  if form = 0 then (leAt v (8 * k) 8 : Nat)
  else if form = 1 then signedOf 32 (leAt v (4 * k) 4)
  else signedOf 16 (leAt v (2 * k) 2)

/-- The bytes of a word of a FORM. -/
def wordBytes (form : Nat) (x : Int) : Bytes :=
  if form = 0 then le 8 (toField 64 x) else if form = 1 then le 4 (toField 32 x) else le 2 (toField 16 x)

/-- The range of a word of a FORM (R277). -/
def inRange (form : Nat) (x : Int) : Bool :=
  if form = 0 then decide (0 ≤ x) && decide (x < 2 ^ 64)
  else if form = 1 then decide (-(2 ^ 31) ≤ x) && decide (x < 2 ^ 31)
  else decide (-(2 ^ 15) ≤ x) && decide (x < 2 ^ 15)

/-- The index of a value under a step (R277). -/
def quantize (v : Int) (q : Nat) : Int := (v + (q / 2 : Nat)).fdiv q

/-! ### Coding a record (R273, R277) -/

/-- One word of a bounded record: position, value, index, whether it is EXACT, and whether it is coded. -/
structure CodWord where
  k : Nat
  v : Int
  n : Int
  exact : Bool
  coded : Bool

/-- The words of a bounded record. -/
def codWords (step : Nat → Nat → Nat) (refs : Refs) (b : Bytes) : List CodWord :=
  let b47 := leAt b 4 4
  let form := formOfB47 b47
  let vals := slice b 32 24
  (List.range (formWords form)).map (fun k =>
    let v := valueWord form k vals
    let q := step (typeOfB47 b47) k
    let n := quantize v q
    let ex := !inRange form (n * q)
    { k := k, v := v, n := n, exact := ex, coded := ex || n != refs.q.getD k 0 })

/-- A mask over word positions. -/
def wordMask (p : CodWord → Bool) (ws : List CodWord) : Nat := ws.foldl (fun a w => putBit a w.k (p w)) 0

/-- The bytes of the field announced by a MASK bit, where it is present. -/
def whenBit (on : Bool) (b : Bytes) : Bytes := if on then b else []

/-- The coded form of 64 canonical bytes in a block (R273, R277), and the quantised references after it. -/
def codeRecord (bounded : Bool) (step : Nat → Nat → Nat) (r : Refs) (b : Bytes) : Bytes × List Int :=
  let x := canonRefs b r.q
  let rts := leAt b 16 8
  let ws := if bounded then codWords step r b else []
  let xmap := wordMask (·.exact) ws
  let vOn := fun i => !bounded && x.v.getD i 0 != r.v.getD i 0
  let mask := bitN (x.ep != r.ep) + 2 * bitN (x.b47 != r.b47) + 4 * bitN (x.ets != r.ets) + 8 * bitN (rts != x.ets)
    + 16 * bitN (x.seq != r.seq) + 32 * bitN (x.fcnt != r.fcnt) + 64 * bitN (vOn 0) + 128 * bitN (vOn 1) + 256 * bitN (vOn 2)
    + 512 * bitN (x.tail != r.tail) + 1024 * bitN (xmap != 0)
  let vals := if bounded then
      le 2 (wordMask (·.coded) ws) ++ whenBit (xmap != 0) (le 2 xmap)
        ++ (ws.filter (·.coded)).flatMap (fun w =>
          if w.exact then varint 10 (zigzag (signedOf 64 (toField 64 w.v)))
          else deltaOf 64 (toField 64 (r.q.getD w.k 0)) (toField 64 w.n))
    else (List.range 3).flatMap (fun i => whenBit (vOn i) (deltaOf 64 (r.v.getD i 0) (x.v.getD i 0)))
  let code := le 2 mask ++ whenBit (x.ep != r.ep) (deltaOf 21 r.ep x.ep) ++ whenBit (x.b47 != r.b47) (le 4 x.b47)
    ++ whenBit (x.ets != r.ets) (deltaOf 64 r.ets x.ets) ++ whenBit (rts != x.ets) (deltaOf 64 x.ets rts)
    ++ whenBit (x.seq != r.seq) (deltaOf 32 r.seq x.seq) ++ whenBit (x.fcnt != r.fcnt) (deltaOf 32 r.fcnt x.fcnt)
    ++ vals ++ whenBit (x.tail != r.tail) (le 8 x.tail)
  let q := ws.foldl (fun q w => if w.exact then q else q.set w.k w.n) r.q
  (code, q)

/-- The extremes entries after a record at a position (R278). -/
def addExtremes (step : Nat → Nat → Nat) (pos : Nat) (b : Bytes) (l : List ExtEntry) : List ExtEntry :=
  let b47 := leAt b 4 4
  let form := formOfB47 b47
  let typ := typeOfB47 b47
  let vals := slice b 32 24
  (List.range (formWords form)).foldl (fun l k =>
    let q := step typ k
    if q ≤ 1 then l
    else
      let v := valueWord form k vals
      let mine := fun (e : ExtEntry) => e.typ == typ && e.form == form && e.word == k
      if l.any mine then
        l.map (fun e =>
          if !mine e then e
          else
            let e := if v < e.min then { e with min := v, minRec := pos } else e
            if e.max < v then { e with max := v, maxRec := pos } else e)
      else l ++ [{ typ := typ, form := form, word := k, q := q, minRec := pos, maxRec := pos, min := v, max := v }]) l

/-! ### Blocks (R271, R278) -/

/-- The 32 bytes of an extremes entry (R278). -/
def ExtEntry.bytes (e : ExtEntry) : Bytes :=
  le 1 e.typ ++ le 1 e.form ++ le 1 e.word ++ zeros 1 ++ le 4 e.q ++ le 2 e.minRec ++ le 2 e.maxRec ++ zeros 4
    ++ le 8 (toField 64 e.min) ++ le 8 (toField 64 e.max)

/-- The header of a block before CRC (R271): bytes 0 to 59. -/
def OpenBlock.head (o : OpenBlock) (inst cls cause bseq : Nat) : Bytes :=
  le 4 0x314B4246 ++ le 1 1 ++ le 1 (inst + 16 * cls) ++ le 1 (bitN o.bounded) ++ le 1 cause ++ le 8 bseq ++ le 2 o.nrec
    ++ le 2 (64 + o.payload.length) ++ le 1 o.ext.length ++ zeros 3 ++ le 3 o.epMin ++ le 3 o.epMax ++ zeros 2
    ++ le 8 o.etsMin ++ le 8 o.etsMax ++ le 8 o.rtsMax ++ zeros 4

/-- Bytes 64 to 4 095 of a block: payload, zeros and the trailer, entry 0 last (R271). -/
def OpenBlock.rest (o : OpenBlock) : Bytes :=
  fit (4032 - 32 * o.ext.length) o.payload ++ o.ext.reverse.flatMap ExtEntry.bytes

/-- The closed block (R271, R272). -/
def OpenBlock.close (o : OpenBlock) (inst cls cause bseq : Nat) : Block :=
  let h := o.head inst cls cause bseq
  let crc := crc32c (h ++ zeros 4 ++ o.rest)
  { inst := inst, cls := cls, cause := cause, bseq := bseq, nrec := o.nrec, epMin := o.epMin, epMax := o.epMax
    etsMin := o.etsMin, etsMax := o.etsMax, rtsMax := o.rtsMax, bytes := h ++ le 4 crc ++ o.rest }

/-- What a record adds to a block: coded bytes, new references and entries, whether it is RAW, EXACT words. -/
structure CodAdd where
  bytes : Bytes
  refs : Refs
  ext : List ExtEntry
  raw : Bool
  exact : Nat

/-- Codes 64 canonical bytes for an open block (R273, R275, R276, R278). -/
def OpenBlock.code (o : OpenBlock) (step : Nat → Nat → Nat) (b : Bytes) : CodAdd :=
  let (code, q) := codeRecord o.bounded step o.refs b
  let raw := decide (64 < code.length)
  { bytes := if raw then le 2 0x8000 ++ fit 64 b else code
    refs := canonRefs b (if raw then o.refs.q else q)
    ext := if o.bounded then addExtremes step o.nrec b o.ext else o.ext
    raw := raw
    exact := if raw || !o.bounded then 0 else ((codWords step o.refs b).filter (·.exact)).length }

/-- Does a coded record fit an open block with the trailer entries it adds (R281)? -/
def OpenBlock.fits (o : OpenBlock) (a : CodAdd) : Bool :=
  decide (64 + o.payload.length + a.bytes.length + 32 * a.ext.length ≤ 4096)

/-- The open block with a record appended. -/
def OpenBlock.add (o : OpenBlock) (a : CodAdd) (b : Bytes) : OpenBlock :=
  let ep := leAt b 0 3 % 2 ^ 21
  let ets := leAt b 8 8
  let rts := leAt b 16 8
  let first := o.nrec == 0
  { o with
    payload := o.payload ++ a.bytes, nrec := o.nrec + 1, ext := a.ext, refs := a.refs
    epMin := if first then ep else min o.epMin ep, epMax := max o.epMax ep
    etsMin := if first then ets else min o.etsMin ets, etsMax := max o.etsMax ets, rtsMax := max o.rtsMax rts }

/-! ### Decoding a block (R279, R280) -/

/-- One record read from a block: its references after it, and its 64 bytes. -/
def readRecord (cls inst pos : Nat) (bounded : Bool) (ext : List ExtEntry) (r : Refs) (p : Bytes) : Bytes × Refs × Bytes :=
  let mask := leAt p 0 2
  let p := p.drop 2
  if bitAt mask 15 then
    let b := p.take 64
    (b, canonRefs b r.q, p.drop 64)
  else
    let rd := fun (on : Bool) (w ref : Nat) (p : Bytes) =>
      if on then let z := readVarint 10 p; (deltaTo w ref z.1, z.2) else (ref, p)
    let raw := fun (on : Bool) (n ref : Nat) (p : Bytes) => if on then (leAt p 0 n, p.drop n) else (ref, p)
    let (ep, p) := rd (bitAt mask 0) 21 r.ep p
    let (b47, p) := raw (bitAt mask 1) 4 r.b47 p
    let (ets, p) := rd (bitAt mask 2) 64 r.ets p
    let (rts, p) := rd (bitAt mask 3) 64 ets p
    let (seq, p) := rd (bitAt mask 4) 32 r.seq p
    let (fcnt, p) := rd (bitAt mask 5) 32 r.fcnt p
    let form := formOfB47 b47
    let typ := typeOfB47 b47
    let (vals, q, p) :=
      if bounded then
        let vmask := leAt p 0 2
        let p := p.drop 2
        let xmap := if bitAt mask 10 then leAt p 0 2 else 0
        let p := if bitAt mask 10 then p.drop 2 else p
        (List.range (formWords form)).foldl (fun (a : Bytes × List Int × Bytes) k =>
          let (vals, q, p) := a
          let z := readVarint 10 p
          let coded := bitAt vmask k
          let p := if coded then z.2 else p
          let exact := coded && bitAt xmap k
          let old := q.getD k 0
          let n := if coded && !exact then old + unzigzag z.1 else old
          let q := if exact then q else q.set k n
          let ent := ext.find? (fun e => e.typ == typ && e.form == form && e.word == k)
          let v := if exact then unzigzag z.1
            else match ent with
              | some e => if e.minRec = pos then e.min else if e.maxRec = pos then e.max else n * e.q
              | none => n
          (vals ++ wordBytes form v, q, p)) ([], r.q, p)
      else
        (List.range 3).foldl (fun (a : Bytes × List Int × Bytes) i =>
          let (vals, q, p) := a
          let (v, p) := rd (bitAt mask (6 + i)) 64 (r.v.getD i 0) p
          (vals ++ le 8 v, q, p)) ([], r.q, p)
    let (tail, p) := raw (bitAt mask 9) 8 r.tail p
    let b := le 3 ep ++ le 1 (inst + 16 * cls) ++ le 4 b47 ++ le 8 ets ++ le 8 rts ++ le 4 seq ++ le 4 fcnt ++ fit 24 vals ++ le 8 tail
    (b, canonRefs b q, p)

/-- `n` records read in order from a block's payload. -/
def readRecords (cls inst : Nat) (bounded : Bool) (ext : List ExtEntry) : Nat → Nat → Refs → Bytes → List Bytes
  | 0, _, _, _ => []
  | n + 1, pos, r, p =>
    let (b, r, p) := readRecord cls inst pos bounded ext r p
    b :: readRecords cls inst bounded ext n (pos + 1) r p

/-- The extremes entries of a block's bytes. -/
def blockExt (b : Bytes) : List ExtEntry :=
  (List.range (byteAt b 20)).map (fun i =>
    let o := 4096 - 32 * (i + 1)
    { typ := byteAt b o, form := byteAt b (o + 1) % 4, word := byteAt b (o + 2) % 16, q := leAt b (o + 4) 4
      minRec := leAt b (o + 8) 2, maxRec := leAt b (o + 10) 2, min := signedOf 64 (leAt b (o + 16) 8)
      max := signedOf 64 (leAt b (o + 24) 8) })

/-- The extremes of FORM 0 words are unsigned (R277, R278). -/
def ExtEntry.unsign (e : ExtEntry) : ExtEntry :=
  if e.form = 0 then { e with min := (toField 64 e.min : Nat), max := (toField 64 e.max : Nat) } else e

/-- The canonical records of a block, byte 3 rebuilt from its header (R279, R310). -/
def Block.records (k : Block) : List Bytes :=
  readRecords k.cls k.inst (byteAt k.bytes 6 == 1) ((blockExt k.bytes).map ExtEntry.unsign) k.nrec 0 {} (k.bytes.drop 64)

namespace State

/-- Changes COD. -/
def setCod (f : Cod → Cod) (s : State) : State := { s with cod := f s.cod }

/-! #### Steps (R277, R283) -/

/-- The live step of a type and word; 1 outside the table. -/
def codStep (s : State) (typ k : Nat) : Nat := if 0x60 ≤ typ ∧ typ < 0xC0 then s.cod.live.getD ((typ - 0x60) * 16 + k) 1 else 1

/-- The staged table: the QDATA copies that are not 1, 0 taken as 1 (R288). -/
def codStaged (s : State) : Tab Nat :=
  s.regs.filterMap (fun e =>
    if e.1 % keyStride = Reg.COD_QDATA then
      (let v := max 1 e.2.toNat
       if v = 1 then none else some (e.1 / keyStride, v))
    else none)

/-! #### Closes (R281 to R286) -/

/-- STALLED: 1 024 closed blocks are held (R286). -/
def codStalled (s : State) : Bool := decide (1024 ≤ s.cod.held.length)

/-- May a close be carried out: a place is free, and its BSEQ lies below the ceiling (R286, R302)? -/
def codCanClose (s : State) : Bool := !s.codStalled && decide (s.cod.bseq < s.arc.ceil)

/-- The open blocks of `streams` are those FLUSH bit `bit`, or QCOMMIT where it is 7, waits for (R283, R288). -/
def codWatch (bit : Nat → Nat) (streams : List Nat) (s : State) : State :=
  s.setCod (fun c => { c with watch := c.watch ++ streams.map (fun k => { bit := bit k, stream := k }) })

/-- Does FLUSH bit `bit`, or QCOMMIT where it is 7, read 1 (R9, R283, R288)? -/
def codWaits (s : State) (bit : Nat) : Bool := s.cod.watch.any (fun w => w.bit == bit)

/-- Carries a close out (R272, R281): the block takes the next BSEQ and is held for ARC. -/
def closeNow (stream cause : Nat) (s : State) : State :=
  match s.cod.opens.get? stream with
  | none => s
  | some o =>
    let b := o.close (stream / 8) (stream % 8) cause s.cod.bseq
    let s := s.setCod (fun c => { c with
      opens := c.opens.del stream, held := c.held ++ [b], bseq := c.bseq + 1
      watch := c.watch.map (fun w => if w.stream = stream ∧ w.bseq = none then { w with bseq := some b.bseq } else w) })
    let s := (s.bump Reg.COD_BLOCKS_CLOSED).bump
      (if cause = 0 then Reg.COD_CLOSE_FULL else if cause = 1 then Reg.COD_CLOSE_TIMER else Reg.COD_CLOSE_OTHER)
    if s.codStalled && s.cod.stalledAt.isNone then s.setCod (fun c => { c with stalledAt := some s.dev.nc }) else s

/-- Has a stream a close waiting? -/
def closeWaits (s : State) (stream : Nat) : Bool := s.cod.waiting.any (fun w => w.1 == stream)

/-- Decides a close (R282, R286): carried out at once, or waiting behind those decided before. -/
def decideClose (stream cause : Nat) (s : State) : State :=
  if !s.cod.opens.has stream || s.closeWaits stream then s
  else if s.cod.waiting.isEmpty && s.codCanClose then s.closeNow stream cause
  else s.setCod (fun c => { c with waiting := c.waiting ++ [(stream, cause)] })

/-- Streams with an open block that a test marks, ascending by instance and then class (R282). -/
def openStreams (s : State) (p : Nat → OpenBlock → Bool) : List Nat :=
  (s.cod.opens.filter (fun e => p e.1 e.2)).map (·.1)

/-- A close that the held blocks do not delay: it waits only for the BSEQ ceiling (R286, R302; DESIGN CHOICE, log entry 137). -/
def closeFirm (stream cause : Nat) (s : State) : State :=
  if s.cod.bseq < s.arc.ceil then s.closeNow stream cause else s.setCod (fun c => { c with waiting := c.waiting ++ [(stream, cause)] })

/-- The waiting closes of some streams are carried out in the order in which they were decided (R282, R286). -/
def carryOut (p : Nat → Bool) (s : State) : State :=
  let l := s.cod.waiting.filter (fun w => p w.1)
  let s := s.setCod (fun c => { c with waiting := c.waiting.filter (fun w => !p w.1) })
  l.foldl (fun s w => s.closeFirm w.1 w.2) s

/-- Fence and DUSK closes are never refused (R284 to R286): a close decided earlier keeps its place and its cause (R282). -/
def closeAll (p : Nat → Bool) (cause : Nat) (s : State) : State :=
  let s := s.carryOut p
  (s.openStreams (fun k _ => p k && !s.closeWaits k)).foldl (fun s k => s.closeFirm k cause) s

/-! #### Coding (R269, R270, R273 to R278) -/

/-- Is a new block of a class bounded (R269, R270)? -/
def opensBounded (s : State) (cls : Nat) : Bool := (cls == 3 || cls == 4) && !s.regBit Reg.COD_CTRL 0

/-- Appends a record to its stream's open block, opening one where there is none. -/
def appendRecord (r : Rec) (s : State) : State :=
  let stream := r.inst * 8 + r.cls
  let o := s.cod.opens.getD stream { bounded := s.opensBounded r.cls, since := s.dev.nc }
  let b := r.bytes
  let a := o.code s.codStep b
  let s := s.setCod (fun c => { c with opens := c.opens.put stream (o.add a b) })
  let s := s.bump (if o.bounded then Reg.COD_RECORDS_BOUNDED else Reg.COD_RECORDS_LOSSLESS)
  let s := if a.raw then s.bump Reg.COD_RAW_RECORDS else s
  (s.bumpBy Reg.COD_EXACT_WORDS a.exact).bumpPair Reg.COD_CODED_BYTES_LO a.bytes.length

/-- Does a record need a Full close first (R281)? -/
def needsFull (s : State) (r : Rec) : Bool :=
  match s.cod.opens.get? (r.inst * 8 + r.cls) with
  | none => false
  | some o => !o.fits (o.code s.codStep r.bytes)

/-- The record at COD's input is coded, after a Full close where it needs one; it waits while that close, or one its stream
awaits, cannot be carried out (R281, R282, R286). `force` first carries the waiting closes out and closes whatever the held blocks
(R285). A histogram that waited for room follows it into the input. -/
def codeHead (force : Bool) (s : State) : State :=
  let s := if force then s.carryOut (fun _ => true) else s
  match s.cod.input with
  | [] => s
  | r :: rest =>
    let stream := r.inst * 8 + r.cls
    let full := s.needsFull r
    let can := s.cod.waiting.isEmpty && (force || !s.codStalled) && decide (s.cod.bseq < s.arc.ceil)
    if s.closeWaits stream || (full && !can) then s
    else
      let s := s.setCod (fun c => { c with input := rest })
      ((if full then s.closeNow stream 0 else s).appendRecord r).histGo

/-- COD's part of DUSK entry (R285): the input is coded, and every open block closes with CAUSE 5. -/
def codDusk (s : State) : State :=
  let n := s.cod.input.length + s.ing.hists.length
  let s := (List.range n).foldl (fun s _ => s.codeHead true) s
  s.closeAll (fun _ => true) 5

/-- COD's part of a fence (R284). -/
def codFence (i : Nat) (s : State) : State := s.closeAll (fun k => k / 8 == i) 4

/-- STALL_NC has counted every noon cycle of STALLED (R286, R288). -/
def stallCount (s : State) : State :=
  match s.cod.stalledAt with
  | some n => (s.setCod (fun c => { c with stalledAt := some s.dev.nc })).bumpBy Reg.COD_STALL_NC (s.dev.nc - n)
  | none => s

/-- A held block reaches ARC (R283, R286, R288): a place is free, and FLUSH and QCOMMIT wait for it no more. -/
def takeHeld (b : Block) (s : State) : State :=
  let s := s.setCod (fun c => { c with
    held := c.held.filter (fun x => x.bseq != b.bseq), watch := c.watch.filter (fun w => w.bseq != some b.bseq) })
  if s.codStalled then s else s.stallCount.setCod (fun c => { c with stalledAt := none })

end State
end Sys2Proof.Machine
end

