-- ==== Sys2Proof/Machine/ArcOps.lean ====
section
/-! DEFINITION. The archive engine: drives, extents, namespaces, the journal, appending, durability, redirects, parity, rebuilds and
reads (R289 to R321). -/
set_option Elab.async false
namespace Sys2Proof.Machine

/-- Physical extents in a GiB (R290). -/
abbrev extPerGib : Nat := 256

/-! Kinds of command to a drive, as `Out.nvme` names them: block write, read, Deallocate (of one physical extent, or of the drive where
none is named), label write, journal page, map page, spilled block, system data of namespace 0, Identify (of a controller by 64 + its
discovery index), Set Features (Number of Queues), creation and deletion of an I/O queue pair, Get Log Page (R289). Every write carries
FUA (R296, R301, R305). -/
namespace Nvme
abbrev write : Nat := 0
abbrev read : Nat := 1
abbrev dealloc : Nat := 2
abbrev label : Nat := 3
abbrev page : Nat := 4
abbrev image : Nat := 5
abbrev spill : Nat := 6
abbrev system : Nat := 7
abbrev identify : Nat := 8
abbrev features : Nat := 9
abbrev createPair : Nat := 10
abbrev deletePair : Nat := 11
abbrev logPage : Nat := 12
end Nvme

/-- Does a drive take new copies (R314)? -/
def Drive.takes (d : Drive) : Bool := d.stage == 1 || d.stage == 2

/-- May open copies on a drive be written (R314)? -/
def Drive.writable (d : Drive) : Bool := d.stage == 1 || d.stage == 2 || d.stage == 3

/-- May a drive be read (R314)? -/
def Drive.readable (d : Drive) : Bool := d.stage != 0 && d.stage != 5

/-- Free physical extents of a drive. -/
def Drive.free (d : Drive) : Nat := d.usable - d.used.length

/-- The lowest free physical extent of a drive. -/
def Drive.lowest (d : Drive) : Nat := ((List.range (d.used.length + 1)).find? (fun k => !d.used.contains k)).getD 0

/-- The `n` lowest free physical extents of a drive. -/
def Drive.lowestN (d : Drive) (n : Nat) : List Nat := ((List.range (d.used.length + n)).filter (fun k => !d.used.contains k)).take n

/-- The drive with the most free extents, the lower slot on a tie (R293, R314). -/
def mostFree (l : List (Nat × Drive)) : Option Nat :=
  (l.foldl (fun (best : Option (Nat × Drive)) e =>
    match best with
    | none => some e
    | some b => if b.2.free < e.2.free then some e else best) none).map (·.1)

/-- The copies of an extent. -/
def ExtMeta.locs (m : ExtMeta) : List (Nat × Nat) := m.loc0.toList ++ m.loc1.toList

/-- Has an extent a copy on a slot? -/
def ExtMeta.on (m : ExtMeta) (slot : Nat) : Bool := m.locs.any (fun l => l.1 == slot)

/-- An extent's map entry without its copy on a slot. -/
def ExtMeta.lose (slot : Nat) (m : ExtMeta) : ExtMeta :=
  { m with loc0 := m.loc0.filter (fun l => l.1 != slot), loc1 := m.loc1.filter (fun l => l.1 != slot) }

/-- Earliest ETS, latest ETS, lowest and highest BSEQ, lowest and highest endpoint of the valid blocks of an extent (R312). -/
def Extent.valid (e : Extent) : List Block := e.blocks.take e.info.fill
def Extent.etsMin (e : Extent) : Nat := (e.valid.map (·.etsMin)).foldl min ((e.valid.map (·.etsMin)).headD 0)
def Extent.etsMax (e : Extent) : Nat := (e.valid.map (·.etsMax)).foldl max 0
def Extent.bseqFirst (e : Extent) : Nat := (e.valid.map (·.bseq)).foldl min ((e.valid.map (·.bseq)).headD 0)
def Extent.bseqLast (e : Extent) : Nat := (e.valid.map (·.bseq)).foldl max 0
def Extent.epMin (e : Extent) : Nat := (e.valid.map (·.epMin)).foldl min ((e.valid.map (·.epMin)).headD 0)
def Extent.epMax (e : Extent) : Nat := (e.valid.map (·.epMax)).foldl max 0

/-- Has an extent room for another position? -/
def Extent.room (e : Extent) : Bool := e.info.state == 1 && e.ready && !e.closing && decide (e.blocks.length < 1024)

/-- Does the digest of an extent hold: that of a sealed one is recomputed over its blocks, all of which can be read; an unsealed one has
none (R303, R311, R312)? -/
def Extent.digestOk (e : Extent) : Bool :=
  e.info.state != 3 || (e.lost.isEmpty && e.info.digest == sha384 (e.valid.flatMap (·.bytes)))

/-- The extent summary and export descriptor (R312). -/
def Extent.summary (aen : Nat) (digestOk : Bool) (e : Extent) : Bytes :=
  le 4 aen ++ le 4 e.info.nsSeq ++ le 1 e.info.ns ++ le 1 (e.info.state + 16 * bitN digestOk) ++ le 2 e.info.fill ++ zeros 4
    ++ le 8 e.etsMin ++ le 8 e.etsMax ++ le 8 e.bseqFirst ++ le 8 e.bseqLast ++ le 3 e.epMin ++ le 3 e.epMax ++ zeros 2
    ++ le 8 e.info.sealTs ++ fit 48 e.info.digest ++ zeros 16

/-- The location word of a copy (R294). -/
def locWord (l : Option (Nat × Nat)) : Nat := match l with | some (slot, p) => slot % 64 * 2 ^ 26 + p % 2 ^ 26 | none => 0xFFFFFFFF

/-- The 16-byte map entry of an extent (R294). -/
def ExtMeta.entry (m : ExtMeta) : Bytes :=
  le 4 (locWord m.loc0) ++ le 4 (locWord m.loc1) ++ le 1 m.ns ++ le 1 (m.state % 16 + 16 * bitN m.degraded + 32 * bitN m.temp)
    ++ le 2 m.fill ++ le 4 m.nsSeq

/-- Block `k` of a parity extent: the XOR of block `k` of each data extent, blocks at or beyond a member's FILL counting as zeros (R293). -/
def parityBlock (k : Nat) (data : List Extent) : Bytes :=
  data.foldl (fun a e => match e.valid[k]? with
    | some b => List.zipWith (· ^^^ ·) a (fit 4096 b.bytes)
    | none => a) (zeros 4096)

/-- The blocks of a parity extent as far as a member has one (R293). -/
def parityData (data : List Extent) : Bytes :=
  (List.range ((data.map (fun e => e.info.fill)).foldl max 0)).flatMap (fun k => parityBlock k data)

/-! ### Journal pages and labels

R290 and R301 say what a label and a journal page carry and leave their layout and the magic value open. DESIGN CHOICE (log entry 138): the
fields in the order of those rules; the magic value is a free value. -/

/-- A journal entry's 64 bytes (R301): its kind, then what it makes durable. -/
def JWhat.bytes : JWhat → Bytes
  | .alloc aen m => fit 64 (le 1 1 ++ zeros 3 ++ le 4 aen ++ m.entry)
  | .extent aen m => fit 64 (le 1 2 ++ zeros 3 ++ le 4 aen ++ m.entry)
  | .free aen => fit 64 (le 1 3 ++ zeros 3 ++ le 4 aen)
  | .ns n none => fit 64 (le 1 4 ++ le 1 n ++ le 1 0)
  | .ns n (some c) => fit 64 (le 1 4 ++ le 1 n ++ le 1 1 ++ le 1 c.owner ++ le 1 (c.protect + 4 * bitN c.worm + 8 * bitN c.wrap + 16 * c.noticeMode)
      ++ le 1 c.pgWidth ++ le 2 c.classes ++ le 4 c.quota ++ le 2 c.retainDays)
  | .drive slot => fit 64 (le 1 5 ++ le 1 slot)
  | .ceil n => fit 64 (le 1 6 ++ zeros 7 ++ le 8 n)
  | .horizon n => fit 64 (le 1 7 ++ zeros 7 ++ le 8 n)
  | .init => fit 64 (le 1 8)

/-- A journal page (R301): a header of 64 bytes with the magic value, the page sequence, the entry count and a CRC-32C, and up to 63 entries. -/
def pageBytes (seq : Nat) (entries : List Bytes) : Bytes :=
  let h := le 8 (Config.unstated 15 0 0) ++ le 8 seq ++ le 4 entries.length ++ zeros 40
  let body := fit 4032 entries.flatten
  h ++ le 4 (crc32c (h ++ zeros 4 ++ body)) ++ body

/-- Ascending numbers as runs: the first of each run and its length. -/
def runsOf : List Nat → List (Nat × Nat)
  | [] => []
  | x :: t => match runsOf t with
    | (a, n) :: r => if a = x + 1 then (x, n + 1) :: r else (x, 1) :: (a, n) :: r
    | [] => [(x, 1)]

namespace State

/-- Changes ARC. -/
def setArc (f : Arc → Arc) (s : State) : State := { s with arc := f s.arc }

/-- Changes an extent of the map. -/
def modExt (aen : Nat) (f : Extent → Extent) (s : State) : State := s.setArc (fun a => { a with map := a.map.adj aen f })

/-- Changes an extent's map entry. -/
def modMeta (aen : Nat) (f : ExtMeta → ExtMeta) (s : State) : State := s.modExt aen (fun e => { e with info := f e.info })

/-- Changes a drive. -/
def modDrive (slot : Nat) (f : Drive → Drive) (s : State) : State := s.setArc (fun a => { a with drives := a.drives.adj slot f })

/-- The drive of a slot. -/
def drive (s : State) (slot : Nat) : Option Drive := s.arc.drives.get? slot

/-- Is the archive recovered (R319)? -/
def arcUp (s : State) : Bool := s.arc.phase == .up

/-- Drives taking new copies (R317, R322). -/
def takers (s : State) : List (Nat × Drive) := s.arc.drives.filter (fun e => e.2.takes)

/-- RESERVE (R322). -/
def arcReserve (s : State) : Nat := s.regField Reg.ARC_RESERVE 15 0

/-- Can ING's checkpoint area be written: both copies of a write find a drive that is written to (R240, R578)? -/
def ckptWritable (s : State) : Bool := s.arcUp && decide (2 ≤ (s.arc.drives.filter (fun e => e.2.writable)).length)

/-- An ARC event notice (R321). -/
def arcNotice (reason slot ns stage aen bseq rtsMax : Nat) (s : State) : State :=
  s.event 0 (le 1 reason ++ le 1 slot ++ le 1 ns ++ le 1 stage ++ le 4 aen ++ le 8 bseq ++ le 8 rtsMax)

/-! #### The journal (R301, R302) -/

/-- Pages the journal ring holds. -/
def ringPages (s : State) : Nat := s.arc.journalGib * 262144

/-- JOURNAL_WAIT: the ring's next page still holds the oldest entry of a map page that is not written (R302). -/
def journalWait (s : State) : Bool := s.arc.imgDirty.any (fun e => decide (e.2 + s.ringPages ≤ s.arc.pageSeq))

/-- The journal drives that pages are written to: one that has reached READ_ONLY or FAILED takes none (R314). -/
def journalTakes (s : State) : List Nat := s.arc.journal.filter (fun k => (s.drive k).any (·.writable))

/-- A journal page goes to the journal drives, into the ring (R301). -/
def putPage (entries : List Bytes) (s : State) : State :=
  let seq := s.arc.pageSeq
  let b := pageBytes seq entries
  let s := s.journalTakes.foldl (fun s slot => s.emit (.nvme slot Nvme.page [seq, entries.length] b)) s
  s.setArc (fun a => { a with ring := ((seq, b) :: a.ring).take s.ringPages })

/-- The next page is written while none is in flight, and a journal drive takes it (R301, R314). -/
def nextPage (s : State) : State :=
  if s.arc.page.isEmpty && !s.arc.waiting.isEmpty && !s.journalWait && !s.journalTakes.isEmpty
      && (s.arcUp || s.arc.waiting.any (fun j => j.what == .init)) then
    let s := s.setArc (fun a => { a with page := a.waiting.take 63, waiting := a.waiting.drop 63 })
    s.putPage (s.arc.page.map (fun j => j.what.bytes))
  else s

/-- Pages that are committed as they are written: the DAWN entry of recovery, or the DUSK entry of the save, with the BSEQ ceiling, the
horizon and the location of the owed-completion lists, and behind it the entries of the spill list (R305, R307). -/
def markPage (dusk : Bool) (owed : List (Nat × Nat)) (spilled : List Bytes) (s : State) : State :=
  let mark := fit 64 (le 1 (if dusk then 10 else 9) ++ zeros 7 ++ le 8 s.arc.ceil ++ le 8 s.arc.horizon
    ++ le 4 (locWord owed.head?) ++ le 4 (locWord (owed.drop 1).head?) ++ le 4 spilled.length)
  let l := mark :: spilled
  let s := (List.range (ceilDiv l.length 63)).foldl (fun s k =>
    (s.putPage ((l.drop (63 * k)).take 63)).setArc (fun a => { a with pageSeq := a.pageSeq + 1 })) s
  s.setArc (fun a => { a with duskMark := dusk })

/-- An entry for the journal. -/
def journal (w : JWhat) (done : Option (CmdRef × Nat)) (s : State) : State :=
  (s.setArc (fun a => { a with waiting := a.waiting ++ [{ what := w, done := done }] })).nextPage

/-- The entry that makes an extent's present map entry durable. -/
def logExt (aen : Nat) (s : State) : State :=
  match s.arc.map.get? aen with
  | some e => (s.modExt aen (fun e => { e with fillLogged := e.info.fill })).journal (.extent aen e.info) none
  | none => s

/-- The BSEQ ceiling is raised before COD comes near it (R302). -/
def askCeiling (s : State) : State :=
  if s.arcUp && !s.arc.ceilAsked && decide (s.arc.ceil ≤ s.cod.bseq + 2 ^ 23) then
    (s.setArc (fun a => { a with ceilAsked := true })).journal (.ceil (s.arc.ceil + 2 ^ 24)) none
  else s

/-- The checkpoint horizon: the BSEQ below which every record's effect is in the checkpoint area (R302). -/
def horizonNow (s : State) : Nat := (s.ing.dirtyAt.map (·.2)).foldl min s.cod.bseq

/-- ING reports a horizon that has moved (R302). -/
def reportHorizon (s : State) : State :=
  let h := s.horizonNow
  if s.arcUp && decide (s.arc.horizonAsked < h) then (s.setArc (fun a => { a with horizonAsked := h })).journal (.horizon h) none else s

/-! #### Placing copies (R293, R299) -/

/-- The drive a new copy goes to: at stage NORMAL or WATCH with the most free extents outside the reserve, the lower slot on a tie
(R293). Only where no drive has room outside its reserve does a rebuild use the reserve, of a drive that still takes copies first, and then
of one that its want of room has brought to SPARE_LOW (R313, R315; DEDUCED, log entry 112). -/
def pickDrive (s : State) (not : List Nat) (useReserve : Bool) : Option Nat :=
  match mostFree (s.takers.filter (fun e => !not.contains e.1 && decide (s.arcReserve < e.2.free))) with
  | some k => some k
  | none =>
    if !useReserve then none
    else match mostFree (s.takers.filter (fun e => !not.contains e.1 && decide (0 < e.2.free))) with
      | some k => some k
      | none => mostFree (s.arc.drives.filter (fun e => e.2.writable && !not.contains e.1 && decide (0 < e.2.free)))

/-- Takes a physical extent on a drive. -/
def takePhys (slot : Nat) (s : State) : Nat × State :=
  match s.drive slot with
  | none => (0, s)
  | some d => (d.lowest, s.modDrive slot (fun d => { d with used := d.lowest :: d.used }))

/-- Deallocates a physical extent (R290): the Deallocate command is issued, or the copy is forgotten where its drive is lost. -/
def freePhys (l : Nat × Nat) (aen : Option Nat) (s : State) : State :=
  if (s.drive l.1).any (·.readable) then
    (s.setArc (fun a => { a with deallocs := a.deallocs ++ [{ slot := l.1, phys := l.2, aen := aen }] })).emit (.nvme l.1 Nvme.dealloc [l.2] [])
  else s

/-- Extents a namespace holds (R299). -/
def nsExtents (s : State) (ns : Nat) : List (Nat × Extent) := s.arc.map.filter (fun e => e.2.info.ns == ns)

/-- Is an AEN free: no extent and no parity group has it? -/
def aenFree (s : State) (aen : Nat) : Bool :=
  !s.arc.map.has aen && !(s.arc.groups.any (fun g => decide (g.base ≤ aen) && decide (aen ≤ g.base + g.width)))

/-- The lowest AEN from which `n` consecutive ones are free. -/
def freeAen (s : State) (n : Nat) : Option Nat :=
  let cand := 0 :: (s.arc.map.keys.map (· + 1) ++ s.arc.groups.map (fun g => g.base + g.width + 1))
  let ok := cand.filter (fun a => decide (a + n ≤ s.arc.mapUnits * 2 ^ 20) && (List.range n).all (fun k => s.aenFree (a + k)))
  ok.foldl (fun (b : Option Nat) a => match b with | none => some a | some x => some (min x a)) none

/-- The next AEN of a PARITY namespace: within its incomplete group, or the first of a new one (R293). -/
def groupAen (s : State) (ns : Nat) (c : NsCfg) : Option (Nat × Nat × State) :=
  let g := s.arc.groups.find? (fun g => g.ns == ns && (List.range g.width).any (fun k => !s.arc.map.has (g.base + k)))
  match g with
  | some g => ((List.range g.width).find? (fun k => !s.arc.map.has (g.base + k))).map (fun k => (g.base + k, g.base, s))
  | none =>
    (s.freeAen (c.pgWidth + 1)).map (fun a =>
      let g : PGroup := { ns := ns, base := a, width := c.pgWidth, noParity := decide (s.takers.length < c.pgWidth + 1) }
      (a, a, s.setArc (fun x => { x with groups := x.groups ++ [g] })))

/-- Slots of the first copies of the members of a group. -/
def groupSlots (s : State) (base width : Nat) : List Nat :=
  (List.range (width + 1)).filterMap (fun k => (s.arc.map.get? (base + k)).bind (fun e => e.info.loc0.map (·.1)))

/-- Has a namespace reached its quota (R299)? -/
def nsFull (s : State) (ns : Nat) : Bool :=
  let q := (s.arc.nss.getD ns {}).quota
  q != 0 && decide (q ≤ (s.nsExtents ns).length)

/-- A namespace has reached its quota or found no AEN: its notice is raised once (R299, R318). -/
def holdNs (ns : Nat) (s : State) : State :=
  if s.arc.nsHeld.contains ns then s
  else (s.setArc (fun a => { a with nsHeld := a.nsHeld ++ [ns] })).arcNotice 7 0 ns 0 0 0 0

/-- Releases an extent: it becomes RELEASING and every copy is deallocated (R295); it waits while the journal cannot advance (R318). -/
def releaseExt (aen : Nat) (s : State) : State :=
  match s.arc.map.get? aen with
  | none => s
  | some e =>
    if s.journalWait then s
    else
      let s := (s.modMeta aen (fun m => { m with state := 5 })).setArc (fun a => { a with writes := a.writes.filter (fun w => w.aen != aen) })
      let s := s.logExt aen
      let s := e.info.locs.foldl (fun s l => s.freePhys l (some aen)) s
      if s.arc.deallocs.any (fun d => d.aen == some aen) then s else s.journal (.free aen) none

/-- Is a namespace being deleted (R319)? -/
def deleting (s : State) (ns : Nat) : Bool := s.arc.dels.any (fun d => d.whole && d.ns == ns)

/-- Takes an extent at an AEN for a namespace, with a copy on each of some slots; ALLOC is asked for (R291, R293, R295). -/
def takeExt (aen : Nat) (slots : List Nat) (m : ExtMeta) (sys : Option (Nat × Nat)) (s : State) : State :=
  let (l0, s) := match slots.head? with
    | some a => (let r := s.takePhys a; (some (a, r.1), r.2))
    | none => (none, s)
  let (l1, s) := match (slots.drop 1).head? with
    | some b => (let r := s.takePhys b; (some (b, r.1), r.2))
    | none => (none, s)
  let seq := s.arc.nextSeq.getD m.ns 0
  let m : ExtMeta := { m with nsSeq := seq, loc0 := l0, loc1 := l1 }
  let s := s.setArc (fun x => { x with map := x.map.put aen { info := m, sys := sys }, nextSeq := x.nextSeq.put m.ns (seq + 1) })
  s.journal (.alloc aen m) none

/-! #### System data of namespace 0 (R292) -/

/-- The extent that holds a part of the system data: kind and number. -/
def sysExt (s : State) (kind n : Nat) : Option (Nat × Extent) := s.arc.map.find? (fun e => e.2.sys == some (kind, n))

/-- Namespace 0 has the extent for a part of the system data, mirrored (R292). -/
def sysEnsure (kind n : Nat) (s : State) : State :=
  if (s.sysExt kind n).isSome || s.journalWait then s
  else match s.freeAen 1, s.pickDrive [] false with
    | some aen, some a =>
      match s.pickDrive [a] false with
      | some b => s.takeExt aen [a, b] { ns := 0, nsSeq := 0, state := 2 } (some (kind, n))
      | none => s
    | _, _ => s

/-- System data is written at a byte of its extent, on every copy that is written to (R292, R314). -/
def sysWrite (kind n off : Nat) (b : Bytes) (s : State) : State :=
  let s := s.sysEnsure kind n
  match s.sysExt kind n with
  | none => s
  | some e =>
    (e.2.info.locs.filter (fun l => (s.drive l.1).any (·.writable))).foldl (fun s l => s.emit (.nvme l.1 Nvme.system [l.2, off] b)) s

/-- The summary of an extent is kept in namespace 0 (R312). -/
def putSummary (aen : Nat) (s : State) : State :=
  match s.arc.map.get? aen with
  | some e => s.sysWrite 2 (aen / 32768) (aen % 32768 * 128) (e.summary aen true)
  | none => s

/-- A namespace takes a new extent (R291, R293, R295, R299): ALLOC is asked for, and the extent may be written once it is committed. Where
there is none to take, and a block needs one, the namespace is held, or its lowest extent is freed while none is being freed (R299). -/
def allocExt (ns : Nat) (needed : Bool) (s : State) : State :=
  match s.arc.nss.get? ns with
  | none => s
  | some c => if s.journalWait || s.deleting ns then s else
    let full := s.nsFull ns
    let place : Option (Nat × Option Nat × State) :=
      if full then none
      else if c.protect = 2 then (s.groupAen ns c).map (fun r => (r.1, some r.2.1, r.2.2))
      else (s.freeAen 1).map (fun a => (a, none, s))
    match place with
    | none =>
      let lowest := ((s.nsExtents ns).filter (fun e => e.2.info.state == 2 && e.2.sys.isNone)).foldl
        (fun (b : Option (Nat × Extent)) e => match b with
          | none => some e
          | some x => if e.2.info.nsSeq < x.2.info.nsSeq then some e else b) none
      if !needed then s
      else if c.wrap then (match lowest with
        | some e => if (s.nsExtents ns).any (fun e => e.2.info.state == 5) then s else s.releaseExt e.1
        | none => s)
      else s.holdNs ns
    | some (aen, group, s) =>
      let not := match group with
        | some b => if s.arc.groups.any (fun g => g.base == b && g.noParity) then [] else s.groupSlots b c.pgWidth
        | none => []
      match s.pickDrive not false with
      | none => s
      | some a =>
        let second := if c.protect = 0 then none else s.pickDrive [a] false
        if c.protect ≠ 0 ∧ second = none then s
        else
          (s.setArc (fun x => { x with nsHeld := x.nsHeld.filter (· != ns) })).takeExt aen (a :: second.toList)
            { ns := ns, nsSeq := 0, temp := c.protect == 2, group := group } none

/-- Extents of a namespace open or about to be. -/
def openExts (s : State) (ns : Nat) : List (Nat × Extent) :=
  (s.nsExtents ns).filter (fun e => e.2.info.state == 1 && !e.2.closing && decide (e.2.blocks.length < 1024))

/-- One further extent is kept allocated beside the one in use (R296). -/
def ensureExts (ns : Nat) (s : State) : State := if (s.openExts ns).length < 2 then s.allocExt ns false else s

/-- The extent a block of a namespace goes to: the lowest NS_SEQ with room (R296). -/
def openOf (s : State) (ns : Nat) : Option (Nat × Extent) :=
  ((s.nsExtents ns).filter (fun e => e.2.room)).foldl
    (fun (b : Option (Nat × Extent)) e => match b with
      | none => some e
      | some x => if e.2.info.nsSeq < x.2.info.nsSeq then some e else b) none

/-- The namespace a stream is bound to (R292). -/
def bindNs (s : State) (inst cls : Nat) : Nat :=
  match s.arc.nss.find? (fun e => e.1 != 0 && e.2.owner == inst && bitAt e.2.classes cls) with
  | some e => e.1
  | none => 0

/-- Positions placed and not durable, of a namespace and in all (R296, R318). -/
def nsOutstanding (s : State) (ns : Nat) : Nat := ((s.nsExtents ns).map (fun e => e.2.blocks.length - e.2.info.fill)).sum
def outstanding (s : State) : Nat := (s.arc.map.map (fun e => e.2.blocks.length - e.2.info.fill)).sum

/-- Writes a block at the next position of an extent, on every copy with FUA (R296). -/
def writeBlock (aen : Nat) (b : Block) (s : State) : State :=
  match s.arc.map.get? aen with
  | none => s
  | some e =>
    let pos := e.blocks.length
    let slots := e.info.locs.map (·.1)
    let s := s.modExt aen (fun e => { e with blocks := e.blocks ++ [b] })
    let s := s.setArc (fun a => { a with writes := a.writes ++ [{ aen := aen, pos := pos, slots := slots }] })
    let s := s.bumpBy Reg.ARC_COPY_WRITES slots.length
    (e.info.locs.foldl (fun s l => s.emit (.nvme l.1 Nvme.write [l.2, pos, b.bseq] b.bytes)) s).ensureExts e.info.ns

/-- What becomes of a block that ARC looks at (R296, R299, R317). -/
inductive Taking where
  | written (s : State)
  | held (s : State)
  | passed (s : State)

/-- Tries to write a block into its namespace, or to hold it where fewer than two drives take copies (R296, R317). The save of DUSK issues
every block (R305). -/
def takeBlock (ns : Nat) (b : Block) (fromHold dusk : Bool) (s : State) : Taking :=
  let c := s.arc.nss.getD ns {}
  let behind := !fromHold && s.arc.hold.any (fun h => h.1 == ns)
  if !s.arcUp || (!dusk && (decide (64 ≤ s.nsOutstanding ns) || decide (4096 ≤ s.outstanding))) then .passed s
  else match (if behind then none else s.openOf ns) with
    | some e => .written (s.writeBlock e.1 b)
    | none =>
      if c.protect ≠ 0 ∧ s.takers.length < 2 ∧ ¬fromHold then
        if s.arc.hold.length < s.arc.holdMib * 256 then .held (s.setArc (fun a => { a with hold := a.hold ++ [(ns, b)] })) else .passed s
      else .passed (if behind then s else if (s.openExts ns).isEmpty then s.allocExt ns true else s.ensureExts ns)

/-- The order in which blocks are looked at (R286, R296, R298): those to be rewritten, then fence and DUSK closes, then the others. -/
def takeOrder (s : State) : List (Option Nat × Block) :=
  s.arc.redo.map (fun x => (some x.1, x.2))
    ++ (s.cod.held.filter (fun b => decide (4 ≤ b.cause))).map (fun b => (none, b))
    ++ (s.cod.held.filter (fun b => decide (b.cause < 4))).map (fun b => (none, b))

/-- A block leaves where it waits. -/
def leaveWait (redo : Bool) (b : Block) (s : State) : State :=
  if redo then s.setArc (fun a => { a with redo := a.redo.filter (fun x => x.2.bseq != b.bseq) }) else s.takeHeld b

/-- Takes the first block that can be written or held; those that cannot are passed over (R296). A block that is rewritten stays in
its namespace (R298). -/
def takeFirst (dusk : Bool) : List (Option Nat × Block) → State → State
  | [], s => s
  | (redo, b) :: t, s =>
    match s.takeBlock (redo.getD (s.bindNs b.inst b.cls)) b false dusk with
    | .written s => (s.leaveWait redo.isSome b).askCeiling
    | .held s => (s.leaveWait redo.isSome b).askCeiling
    | .passed s => takeFirst dusk t s

/-! #### Notices of durable blocks (R297, R320) -/

/-- The body of a record notice (R320) for 64 canonical bytes. -/
def recBody (ns cls : Nat) (perBlock : Bool) (rcd aen bseq pos : Nat) (r : Bytes) : Bytes :=
  le 1 ns ++ le 1 (cls + 128 * bitN perBlock) ++ le 2 rcd ++ le 4 aen ++ le 8 bseq ++ slice r 0 3 ++ slice r 4 1 ++ slice r 24 4
    ++ slice r 8 8 ++ le 2 pos

/-- The notices of a block that has become durable; those of a fenced instance go to the quarantine sink (R297, R309). -/
def blockNotices (ns aen pos : Nat) (b : Block) (s : State) : State :=
  let c := s.arc.nss.getD ns {}
  let st := (s.inst b.inst).state
  let fn := if ns = 0 then 0 else s.instFn c.owner
  if c.noticeMode = 0 then s
  else if b.old ∨ st = .fencing ∨ st = .fenced then s.sunk b.inst
  else if c.noticeMode = 1 then s.notice 2 fn b.inst (recBody ns b.cls true b.nrec aen b.bseq pos (b.records.headD []))
  else if c.noticeMode = 2 then
    ((List.range b.nrec).zip b.records).foldl (fun s r => s.notice 2 fn b.inst (recBody ns b.cls false r.1 aen b.bseq pos r.2)) s
  else s

/-! #### Closing extents, parity (R293, R295, R303) -/

/-- When every data extent of a group is FULL, its parity extent is written (R293). -/
def parityCheck (base : Nat) (s : State) : State :=
  match s.arc.groups.find? (fun g => g.base == base) with
  | none => s
  | some g =>
    let data := (List.range g.width).filterMap (fun k => s.arc.map.get? (base + k))
    if s.journalWait || g.noParity || decide (data.length < g.width) || !(data.all (fun e => e.info.state == 2 || e.info.state == 3)) || s.arc.map.has (base + g.width) then s
    else match s.pickDrive (s.groupSlots base g.width) false with
      | none => s
      | some a =>
        let aen := base + g.width
        let s := s.takeExt aen [a] { ns := g.ns, nsSeq := 0, state := 4, group := some base } none
        let s := s.setArc (fun x => { x with writes := x.writes ++ [{ aen := aen, pos := 1024, slots := [a] }] })
        let p := (((s.arc.map.get? aen).bind (fun e => e.info.loc0)).getD (0, 0)).2
        s.emit (.nvme a Nvme.write [p, 0, 0] (parityData data))

/-- The parity extent is written: each member keeps one copy, and its temporary one is deallocated where the other is there (R293). -/
def parityDone (aen : Nat) (s : State) : State :=
  match s.arc.groups.find? (fun g => g.base + g.width == aen) with
  | none => s
  | some g =>
    (List.range g.width).foldl (fun s k =>
      match s.arc.map.get? (g.base + k) with
      | none => s
      | some e =>
        if !e.info.temp then s
        else
          let m := e.info
          let kept : ExtMeta := { m with temp := false, loc0 := if m.loc0.isSome then m.loc0 else m.loc1, loc1 := none }
          let s := s.modMeta (g.base + k) (fun _ => { kept with degraded := m.degraded && kept.loc0.isNone })
          let s := match m.loc0, m.loc1 with | some _, some l => s.freePhys l none | _, _ => s
          s.logExt (g.base + k)) s

/-- An OPEN extent closes at its durable FILL: FULL, and SEALED at once in a WORM namespace (R295, R303). The close waits while the journal
cannot advance (R318). An extent of a namespace that is being deleted is released then (R319). -/
def closeExt (aen : Nat) (s : State) : State :=
  match s.arc.map.get? aen with
  | none => s
  | some e => if s.journalWait then s.modExt aen (fun e => { e with closing := true }) else
    let worm := (s.arc.nss.getD e.info.ns {}).worm
    let m : ExtMeta := { e.info with
      state := if worm then 3 else 2
      sealTs := if worm then s.stamp else 0
      digest := if worm then sha384 (e.valid.flatMap (·.bytes)) else [] }
    let s := s.modExt aen (fun e => { e with info := m, closing := true, fillLogged := m.fill, sealCmd := none })
    let s := s.journal (.extent aen m) (e.sealCmd.map (fun c => (c, m.nsSeq)))
    let s := if worm then s.bump Reg.ARC_EXTENTS_SEALED else s
    if s.deleting m.ns then s.releaseExt aen
    else (match m.group with | some b => s.parityCheck b | none => s).ensureExts m.ns

/-- Positions whose every copy is written become durable in order, with their notices (R297). -/
def advance : Nat → Nat → State → State
  | 0, _, s => s
  | n + 1, aen, s =>
    match s.arc.map.get? aen with
    | none => s
    | some e =>
      if e.info.state ≠ 1 then s
      else match e.blocks[e.info.fill]? with
        | none => if e.closing || decide (1024 ≤ e.info.fill) then s.closeExt aen else s
        | some b =>
          if s.arc.writes.any (fun w => w.aen == aen && w.pos == e.info.fill) then s
          else
            let s := (s.modMeta aen (fun m => { m with fill := m.fill + 1 })).bump Reg.ARC_BLOCKS_WRITTEN
            let s := s.setArc (fun a => { a with lastDur := a.lastDur.put e.info.ns (b.rtsMax, b.bseq) })
            let s := s.blockNotices e.info.ns aen e.info.fill b
            let s := if (e.info.fill + 1) % 64 = 0 ∧ e.info.fill + 1 < 1024 then s.logExt aen else s
            advance n aen s

/-- A copy of a block is written (R297). -/
def copyWritten (aen pos slot : Nat) (s : State) : State :=
  if !(s.arc.writes.any (fun w => w.aen == aen && w.pos == pos && w.slots.contains slot)) then s
  else
    let s := s.setArc (fun a => { a with writes := (a.writes.map (fun w =>
      if w.aen == aen && w.pos == pos then { w with slots := w.slots.erase slot } else w)).filter (fun w => !w.slots.isEmpty) })
    if s.arc.writes.any (fun w => w.aen == aen && w.pos == pos) then s
    else if pos = 1024 then s.parityDone aen
    else s.advance 1025 aen

/-! #### Redirects (R298, R309) -/

/-- An extent closes at the last position durable on every copy, and each later block is rewritten; a block of a fenced instance whose
write failed is rolled back (R298, R309). -/
def redirect (aen : Nat) (failed : Option Nat) (s : State) : State :=
  match s.arc.map.get? aen with
  | none => s
  | some e =>
    if e.info.state ≠ 1 then s
    else
      let fill := e.info.fill
      let later := (List.range e.blocks.length).zip e.blocks |>.drop fill
      let gone := fun (x : Nat × Block) =>
        (let st := (s.inst x.2.inst).state; failed == some x.1 && (x.2.old || st == .fencing || st == .fenced))
      let keep := if s.deleting e.info.ns then [] else (later.filter (fun x => !gone x)).map (fun x => (e.info.ns, x.2))
      let s := s.modExt aen (fun e => { e with blocks := e.blocks.take fill })
      let s := s.setArc (fun a => { a with writes := a.writes.filter (fun w => w.aen != aen), redo := a.redo ++ keep })
      let s := (s.bumpBy Reg.ARC_REDIRECTS keep.length).bumpBy Reg.ARC_FENCE_ROLLBACK (later.filter gone).length
      s.closeExt aen

/-! #### HOLDING and stages (R313 to R317) -/

/-- HOLDING begins when fewer than two drives take new copies (R317). -/
def holdCheck (s : State) : State :=
  if s.arcUp && !s.arc.holding && decide (s.takers.length < 2) then (s.setArc (fun a => { a with holding := true })).arcNotice 5 0 0 0 0 0 0 else s

/-- Is a block drained from the hold still to become durable? -/
def drainPending (s : State) : Bool :=
  s.arc.redo.any (fun x => s.arc.drained.contains x.2.bseq)
    || s.arc.map.any (fun e => (e.2.blocks.drop e.2.info.fill).any (fun b => s.arc.drained.contains b.bseq))

/-- HOLDING ends when the hold is empty and two drives take copies, and its notice follows those of the held blocks (R317). -/
def holdEnd (s : State) : State :=
  if s.arc.holding && s.arc.hold.isEmpty && decide (2 ≤ s.takers.length) && !s.drainPending then
    (s.setArc (fun a => { a with holding := false, drained := [] })).arcNotice 6 0 0 0 0 0 0 else s

/-- Extents with a copy on a slot. -/
def extsOn (s : State) (slot : Nat) : List Nat := (s.arc.map.filter (fun e => e.2.info.on slot)).map (·.1)

/-- A copy on a lost drive is lost: DEGRADED, with the members of its group when its only copy goes (R294, R314). -/
def loseCopy (slot aen : Nat) (s : State) : State :=
  match s.arc.map.get? aen with
  | none => s
  | some e =>
    let m := e.info.lose slot
    let s := s.setArc (fun a => { a with writes := a.writes.filter (fun w => w.aen != aen || w.pos != 1024 || !w.slots.contains slot) })
    let s := (s.modMeta aen (fun _ => { m with degraded := true })).logExt aen
    match m.group with
    | some b =>
      if m.locs.isEmpty then
        (s.arc.map.keys.filter (fun k => k != aen)).foldl (fun s k =>
          match s.arc.map.get? k with
          | some x => if x.info.group = some b then (s.modMeta k (fun m => { m with degraded := true })).logExt k else s
          | none => s) s
      else s
    | none => s

/-- A drive comes to a stage, with what the stage does (R298, R313, R314). The evacuation of a drive that fails cannot end: its commands
complete with NO_DRIVE (DESIGN CHOICE, log entry 139). -/
def setStage (slot stage : Nat) (s : State) : State :=
  match s.drive slot with
  | none => s
  | some d =>
    if d.stage = stage then s
    else
      let s := (s.modDrive slot (fun d => { d with stage := stage })).journal (.drive slot) none
      let s := s.arcNotice (if stage = 5 then 2 else 1) slot 0 stage 0 0 0
      let open' := (s.extsOn slot).filter (fun a => (s.arc.map.get? a).any (fun e => e.info.state == 1))
      let s := if stage = 4 ∨ stage = 5 ∨ stage = 7 then open'.foldl (fun s a => s.redirect a none) s else s
      let s := if stage = 5 then (s.extsOn slot).foldl (fun s a => s.loseCopy slot a) s else s
      let s := if stage = 5 then
          (d.cmds.foldl (fun s c => s.reply c 0x0113) s).modDrive slot (fun d => { d with cmds := [] }) else s
      let s := if (stage = 4 ∨ stage = 5 ∨ stage = 7) ∧ s.arc.journal.contains slot then s.setArc (fun a => { a with journalSingle := true }) else s
      s.holdCheck

/-- A drive at READ_ONLY begins its evacuation while AUTO_REBUILD is 1 (R314, R316). -/
def toReadOnly (slot : Nat) (s : State) : State :=
  let s := s.setStage slot 4
  if s.regBit Reg.ARC_CTRL 0 then s.setStage slot 7 else s

/-- A drive without a free extent outside RESERVE stands at SPARE_LOW (R313). -/
def spareCheck (s : State) : State :=
  s.takers.foldl (fun s e => if e.2.free ≤ s.arcReserve then s.setStage e.1 3 else s) s

/-! #### Rebuild and evacuation (R315, R316) -/

/-- The 256 entries of a page of the map, as their committed entries say (R294, R302). -/
def mapPage (s : State) (page : Nat) : Bytes :=
  (List.range 256).flatMap (fun k => match s.arc.durMap.get? (page * 256 + k) with | some m => m.entry | none => ExtMeta.entry { ns := 0, nsSeq := 0, state := 0 })

/-- Can an extent's blocks be had: from a copy on a readable drive, or from its parity group (R311, R315)? -/
def hasSource (s : State) (aen : Nat) (e : Extent) : Bool :=
  e.info.locs.any (fun l => (s.drive l.1).any (·.readable))
    || (match e.info.group.bind (fun b => s.arc.groups.find? (fun g => g.base == b)) with
        | some g => (List.range (g.width + 1)).all (fun k =>
            g.base + k == aen || (s.arc.map.get? (g.base + k)).any (fun x => x.info.loc0.any (fun l => (s.drive l.1).any (·.readable))))
        | none => false)

/-- Copies an extent should have (R293). -/
def copiesDue (s : State) (e : ExtMeta) : Nat := if e.state = 4 then 1 else
  match (s.arc.nss.getD e.ns {}).protect with
  | 0 => 1
  | 1 => 2
  | _ => if e.temp then 2 else 1

/-- Is a copy of an extent on a drive being emptied? -/
def leaving (s : State) (m : ExtMeta) : Option (Nat × Nat) := m.locs.find? (fun l => (s.drive l.1).any (fun d => d.stage == 7))

/-- Does an extent want a copy made (R315, R316)? -/
def wantsCopy (s : State) (aen : Nat) (e : Extent) : Bool :=
  decide (e.info.state ≠ 5) && e.sys.all (fun x => x.1 != 6) && s.hasSource aen e && ((s.leaving e.info).isSome || decide (e.info.locs.length < s.copiesDue e.info))

/-- The extent whose copy is made next: sealed ones first, then FULL, then the rest, in AEN order (R315). -/
def nextCopy (s : State) : Option (Nat × Extent) :=
  let l := s.arc.map.filter (fun e => s.wantsCopy e.1 e.2)
  match l.find? (fun e => e.2.info.state == 3) with
  | some e => some e
  | none => match l.find? (fun e => e.2.info.state == 2) with
    | some e => some e
    | none => l.head?

/-- Extent copies awaiting rebuild or evacuation (R322): those on drives being emptied, and those that are missing. -/
def rebuildLeft (s : State) : Nat :=
  ((s.arc.map.filter (fun e => s.wantsCopy e.1 e.2)).map (fun e =>
    (e.2.info.locs.filter (fun l => (s.drive l.1).any (fun d => d.stage == 7))).length + (s.copiesDue e.2.info - e.2.info.locs.length))).sum

/-- The label of a slot's drive (R290): set identifier and generation, slot, journal slots with their extents as runs, and a CRC-32C. -/
def labelBytes (s : State) (slot : Nat) : Bytes :=
  let b := le 8 s.arc.setId ++ le 4 s.arc.setGen ++ le 1 slot ++ le 1 s.arc.journal.length
    ++ s.arc.journal.flatMap (fun k =>
      let r := runsOf (s.arc.journalExts.getD k [])
      le 1 k ++ le 2 r.length ++ r.flatMap (fun x => le 4 x.1 ++ le 4 x.2))
  b ++ le 4 (crc32c b)

/-- The label that the controller of a discovery index carries. -/
def setLabel (disc : Nat) (l : Option (Nat × Nat × Nat × List Nat)) (s : State) : State :=
  s.setArc (fun a => { a with found := a.found.map (fun c => if c.disc == disc then { c with label := l } else c) })

/-- Writes the label of a slot's drive (R290). -/
def writeLabel (slot : Nat) (s : State) : State :=
  match s.drive slot with
  | none => s
  | some d =>
    (s.setLabel d.disc (some (s.arc.setId, s.arc.setGen, slot, s.arc.journal))).emit
      (.nvme slot Nvme.label [s.arc.setId, s.arc.setGen, slot] (s.labelBytes slot))

/-- A drive of the set gets its I/O queue pairs (R289). -/
def bringUp (slot : Nat) (s : State) : State :=
  match s.drive slot with
  | none => s
  | some d =>
    (List.range d.pairs).foldl (fun s k => s.emit (.nvme slot Nvme.createPair [k + 1, d.depth] [])) (s.emit (.nvme slot Nvme.features [7, d.pairs] []))

/-- The controllers of the hierarchy that ARC does not know are identified (R289, R290). -/
def identifyAll (found : List CtrlIn) (s : State) : State :=
  found.foldl (fun s c => s.emit (.nvme (64 + c.disc) Nvme.identify [] [])) s

/-- A drive with no copy left to move, and no Deallocate to wait for, leaves the set: its label is cleared and its queues are deleted
(R289, R316). -/
def leaveSet (slot : Nat) (s : State) : State :=
  match s.drive slot with
  | none => s
  | some d =>
    if d.stage ≠ 7 ∨ (s.extsOn slot) ≠ [] ∨ s.arc.journal.contains slot ∨ s.arc.deallocs.any (fun x => x.slot == slot) = true then s
    else
      let s := (s.setArc (fun a => { a with drives := a.drives.del slot })).journal (.drive slot) none
      let s := ((s.setLabel d.disc none).emit (.nvme slot Nvme.label [0] [])).arcNotice 4 slot 0 0 0 0 0
      let s := (List.range d.pairs).foldl (fun s k => s.emit (.nvme slot Nvme.deletePair [k + 1] [])) s
      d.cmds.foldl (fun s c => s.reply c St.ok) s

/-- The journal takes physical extents on a drive, beside those it has there. -/
def journalTake (slot n : Nat) (s : State) : State :=
  let l := ((s.drive slot).map (fun d => d.lowestN n)).getD []
  (s.modDrive slot (fun d => { d with used := l ++ d.used })).setArc (fun a => { a with
    journalExts := a.journalExts.put slot (a.journalExts.getD slot [] ++ l) })

/-- JOURNAL_GIB (R322). -/
def journalCfg (s : State) : Nat := let v := s.regField Reg.ARC_JOURNAL_CFG 6 0; if v = 0 ∨ 64 < v then 4 else v

/-- JOURNAL_GIB that a move of the journal takes up: the configured one where the drive that stays has room for it (R322). -/
def moveGib (s : State) (good : List Nat) : Nat :=
  let more := (s.journalCfg - s.arc.journalGib) * extPerGib
  if good.all (fun k => (s.drive k).any (fun d => decide (more ≤ d.free))) then s.journalCfg else s.arc.journalGib

/-- The journal is moved to the writable drive with the most free extents that has room for it: the live pages are copied to it, and both
labels are rewritten (R314). -/
def moveJournal (s : State) : State :=
  let good := s.journalTakes
  let gib := s.moveGib good
  if good.length = 2 then s.setArc (fun a => { a with journalSingle := false })
  else match mostFree (s.arc.drives.filter (fun e => e.2.writable && !good.contains e.1 && decide (gib * extPerGib ≤ e.2.free))) with
    | none => s
    | some t =>
      let s := good.foldl (fun s k => s.journalTake k ((gib - s.arc.journalGib) * extPerGib)) s
      let s := (s.setArc (fun a => { a with journalExts := a.journalExts.filter (fun e => good.contains e.1) })).journalTake t (gib * extPerGib)
      let s := s.setArc (fun a => { a with journal := good ++ [t], journalSingle := decide (good.length + 1 < 2), journalGib := gib })
      let s := s.arc.ring.reverse.foldl (fun s p => s.emit (.nvme t Nvme.page [p.1] p.2)) s
      let s := (good ++ [t]).foldl (fun s k => s.writeLabel k) s
      let s := (s.arcNotice 10 t 0 0 0 0 0).nextPage
      s.arc.drives.keys.foldl (fun s k => s.leaveSet k) s

/-- The parity groups whose members are all there again are no longer DEGRADED (R294). -/
def clearGroup (base : Nat) (s : State) : State :=
  let mem := s.arc.map.filter (fun e => e.2.info.group == some base)
  if mem.all (fun e => decide (s.copiesDue e.2.info ≤ e.2.info.locs.length)) then
    mem.foldl (fun s e => if e.2.info.degraded then (s.modMeta e.1 (fun m => { m with degraded := false })).logExt e.1 else s) s
  else s

/-- What a copy of an extent holds: the XOR of its group for a parity extent, the entries for an extent of the map image, the summaries for
one of the summaries, else its blocks (R292, R293, R312). -/
def copyBytes (aen : Nat) (e : Extent) (s : State) : Bytes :=
  match e.info.group.bind (fun b => s.arc.groups.find? (fun g => g.base == b)), e.sys with
  | some g, _ =>
    if e.info.state = 4 then parityData ((List.range g.width).filterMap (fun k => s.arc.map.get? (g.base + k))) else e.valid.flatMap (·.bytes)
  | none, some (1, n) => (List.range 1024).flatMap (fun k => s.mapPage (n * 1024 + k))
  | none, some (2, n) => (s.arc.map.filter (fun x => x.1 / 32768 == n)).flatMap (fun x => x.2.summary x.1 true)
  | none, _ => e.valid.flatMap (·.bytes)

/-- A copy has been written (R315, R316): it replaces a lost one, or one on a drive being emptied; a sealed copy that does not match its
digest replaces nothing (R303). It waits while the journal cannot advance (R318). -/
def copyMade (verified : Bool) (s : State) : State :=
  if s.journalWait then s
  else match s.nextCopy with
  | none => s
  | some (aen, e) =>
    let old := s.leaving e.info
    let others := match e.info.group.bind (fun b => s.arc.groups.find? (fun g => g.base == b)) with
      | some g => s.groupSlots g.base g.width
      | none => []
    match s.pickDrive (e.info.locs.map (·.1) ++ others) true with
    | none => if s.arc.reserveOut then s else (s.setArc (fun a => { a with reserveOut := true })).arcNotice 7 0 0 0 0 0 0
    | some t =>
      if e.info.state = 3 ∧ ¬verified then s.bump Reg.ARC_DIGEST_FAIL
      else
        let (p, s) := s.takePhys t
        let put := fun (m : ExtMeta) =>
          match old with
          | some l => if m.loc0 = some l then { m with loc0 := some (t, p) } else { m with loc1 := some (t, p) }
          | none => if m.loc0.isNone then { m with loc0 := some (t, p) } else { m with loc1 := some (t, p) }
        let s := (s.modMeta aen put).bump Reg.ARC_COPIES_REBUILT
        let s := s.modMeta aen (fun m => { m with degraded := m.degraded && (m.group.isSome || decide (m.locs.length < s.copiesDue m)) })
        let s := match e.info.group with | some b => s.clearGroup b | none => s
        let s := (s.setArc (fun a => { a with reserveOut := false })).logExt aen
        let s := (s.emit (.nvme t Nvme.write [p, 0, 0] (s.copyBytes aen e))).spareCheck
        let s := if e.info.state = 4 then s.parityDone aen else s
        let s := match old with | some l => s.freePhys l none | none => s
        let s := match old with | some l => s.leaveSet l.1 | none => s
        if s.nextCopy.isNone then s.arcNotice 4 t 0 0 aen 0 0 else s

/-! #### Deallocation and deletion (R290, R295, R319) -/

/-- A namespace deletion or release is over when its extents are FREE (R319). -/
def delCheck (s : State) : State :=
  s.arc.dels.foldl (fun s d =>
    if !d.aens.isEmpty then s
    else
      let s := s.setArc (fun a => { a with dels := a.dels.filter (fun x => !(x.cmd == d.cmd)) })
      if d.whole then
        (s.setArc (fun a => { a with nss := a.nss.del d.ns, nextSeq := a.nextSeq.del d.ns, nsHeld := a.nsHeld.filter (· != d.ns) })).journal
          (.ns d.ns none) (some (d.cmd, d.freed))
      else s.replyWith d.cmd St.ok d.freed 0) s

/-- Parity extents without a data extent are freed (R295). -/
def freeParity (s : State) : State :=
  (s.arc.groups.filter (fun g => !(List.range g.width).any (fun k => s.arc.map.has (g.base + k)))).foldl (fun s g =>
    if (s.arc.map.get? (g.base + g.width)).any (fun e => e.info.state == 4) then s.releaseExt (g.base + g.width) else s) s

/-- An extent's free entry is committed: the AEN is FREE; with the last data extent of a group its parity extent is freed, and then its
numbers (R293, R295). Namespaces that are not at their quota are held no more (R299). -/
def extFreed (aen : Nat) (s : State) : State :=
  let ns := ((s.arc.map.get? aen).map (fun e => e.info.ns)).getD 0
  let s := s.setArc (fun a => { a with
    map := a.map.del aen, durMap := a.durMap.del aen
    dels := a.dels.map (fun d => if d.aens.contains aen then { d with aens := d.aens.erase aen, freed := d.freed + 1 } else d) })
  let s := s.setArc (fun a => { a with groups := a.groups.filter (fun g =>
    (List.range (g.width + 1)).any (fun k => a.map.has (g.base + k)) || decide (aen < g.base) || decide (g.base + g.width < aen)) })
  let s := s.setArc (fun a => { a with nsHeld := a.nsHeld.filter (fun n => s.nsFull n) })
  s.freeParity.delCheck.ensureExts ns

/-- An extent that a deletion frees: an OPEN one first closes at its durable FILL, and a parity extent goes with its group (R295, R319). -/
def delExt (aen : Nat) (s : State) : State :=
  match s.arc.map.get? aen with
  | none => s
  | some e =>
    if e.info.state = 1 then (s.modExt aen (fun e => { e with closing := true })).advance 1025 aen
    else if e.info.state = 4 ∨ e.info.state = 5 then s
    else s.releaseExt aen

/-- What waited for the journal goes on: extents that close, and deletions (R302, R318). -/
def journalGo (s : State) : State :=
  if s.journalWait then s
  else
    let s := (s.arc.map.filter (fun e => e.2.info.state == 1 && e.2.closing)).foldl (fun s e => s.advance 1025 e.1) s
    let s := s.arc.dels.foldl (fun s d => d.aens.foldl (fun s n => s.delExt n) s) s
    s.freeParity.delCheck

/-- A Deallocate has completed (R290). -/
def deallocDone (slot phys : Nat) (s : State) : State :=
  match s.arc.deallocs.find? (fun d => d.slot == slot && d.phys == phys) with
  | none => s
  | some d =>
    let s := s.setArc (fun a => { a with deallocs := a.deallocs.erase d })
    let s := (s.modDrive slot (fun x => { x with used := x.used.erase phys })).bump Reg.ARC_DEALLOCATED
    let s := match d.aen with
      | some aen => if s.arc.deallocs.any (fun x => x.aen == some aen) then s else s.journal (.free aen) none
      | none => s
    s.leaveSet slot

/-! #### Committed entries (R301) -/

/-- HOLD_CAUSES bit [4] clears and ARC is up after its last step (R307). -/
def arcReady (s : State) : State := (s.setArc (fun a => { a with phase := .up })).holdCause 4 false

/-- What a committed entry makes so (R301). -/
def commitEntry (j : JEntry) (s : State) : State :=
  let dirty := fun (aen : Nat) (s : State) => (s.setArc (fun a => { a with
    imgDirty := if a.imgDirty.has (aen / 256) then a.imgDirty else a.imgDirty.put (aen / 256) (a.pageSeq - 1) })).sysEnsure 1 (aen / 262144)
  let s := match j.what with
    | .alloc aen m =>
      ((dirty aen s).setArc (fun a => { a with durMap := a.durMap.put aen m, map := a.map.adj aen (fun e => { e with ready := true }) })).putSummary aen
    | .extent aen m => ((dirty aen s).setArc (fun a => { a with durMap := if a.map.has aen then a.durMap.put aen m else a.durMap })).putSummary aen
    | .free aen => (dirty aen s).extFreed aen
    | .ns n none => s.setArc (fun a => { a with durNss := a.durNss.del n })
    | .ns n (some c) => s.setArc (fun a => { a with durNss := a.durNss.put n c, nss := a.nss.put n c, nsHeld := a.nsHeld.filter (· != n) }) |>.ensureExts n
    | .drive slot =>
      match s.drive slot with
      | some d => if d.stage = 6 then ((s.modDrive slot (fun d => { d with stage := 1 })).arcNotice 3 slot 0 1 0 0 0).holdCheck else s
      | none => s
    | .ceil n => s.setArc (fun a => { a with ceil := n, ceilAsked := false })
    | .horizon n => s.setArc (fun a => { a with horizon := n })
    | .init =>
      let s : State := { s with ing := { s.ing with loaded := true, rollDone := true } }
      (((s.arcReady.arcNotice 8 0 0 0 0 s.cod.bseq 0).ensureExts 0).sysEnsure 4 0).sysEnsure 5 0
  match j.done with
  | some (c, r0) => s.replyWith c St.ok r0 0
  | none => s

/-- The page in flight is committed (R301). -/
def pageCommit (s : State) : State :=
  let p := s.arc.page
  if p.isEmpty then s
  else
    let s := s.setArc (fun a => { a with page := [], pageSeq := a.pageSeq + 1 })
    let s := p.foldl (fun s j => s.commitEntry j) s
    (s.bump Reg.ARC_JOURNAL_PAGES).nextPage

/-! #### Queries and exports (R304, R310 to R312) -/

/-- The extents of a namespace in append order from an NS_SEQ on. -/
def extsFrom (s : State) (ns seq : Nat) : List (Nat × Extent) :=
  let l := (s.nsExtents ns).filter (fun e => decide (seq ≤ e.2.info.nsSeq) && e.2.sys.isNone && e.2.info.state != 4 && e.2.info.state != 5)
  sortOn (fun (e : Nat × Extent) => e.2.info.nsSeq) l

/-- Does a block's header match a query's filter (R310)? -/
def headerMatch (q : QueryIn) (b : Block) : Bool :=
  (q.classes == 0 || bitAt q.classes b.cls) && decide (q.epFirst ≤ b.epMax) && decide (b.epMin ≤ q.epLast)
    && decide (q.etsFirst ≤ b.etsMax) && decide (b.etsMin ≤ q.etsLast)

/-- Does an extent's summary match a query's filter (R310)? -/
def summaryMatch (q : QueryIn) (e : Extent) : Bool :=
  decide (e.info.fill ≠ 0) && decide (q.epFirst ≤ e.epMax) && decide (e.epMin ≤ q.epLast) && decide (q.etsFirst ≤ e.etsMax)
    && decide (e.etsMin ≤ q.etsLast)

/-- Does a record match a query's filter (R319)? -/
def recordMatch (q : QueryIn) (cls : Nat) (r : Bytes) : Bool :=
  let ep := leAt r 0 3 % 2 ^ 21
  (q.classes == 0 || bitAt q.classes cls) && decide (q.epFirst ≤ ep) && decide (ep ≤ q.epLast)
    && decide (q.typeFirst ≤ byteAt r 4) && decide (byteAt r 4 ≤ q.typeLast) && decide (q.etsFirst ≤ leAt r 8 8) && decide (leAt r 8 8 ≤ q.etsLast)

/-- Does an export take an extent (R312, R319)? -/
def exportTakes (x : ExportIn) (e : Extent) : Bool := decide (e.info.nsSeq ≤ x.last) && (!x.sealedOnly || e.info.state == 3)

/-- The place of the next block a job reads, with the extents its summary filter passes over (R310, R312). -/
def jobNext (s : State) (j : ArcJob) : Option (Nat × Extent × Nat × Block) × Nat :=
  let ns := match j.query, j.exporting with | some q, _ => q.ns | _, some x => x.ns | _, _ => 0
  let ok := fun (e : Extent) => match j.query, j.exporting with
    | some q, _ => summaryMatch q e
    | _, some x => exportTakes x e
    | _, _ => false
  let blockOk := fun (b : Block) => match j.query with | some q => headerMatch q b | none => true
  let step := fun (a : Option (Nat × Extent × Nat × Block) × Nat) (e : Nat × Extent) =>
    if a.1.isSome then a
    else if !ok e.2 then (none, a.2 + bitN (j.query.isSome && decide (j.seq < e.2.info.nsSeq || j.pos == 0)))
    else
      let from' := if e.2.info.nsSeq = j.seq then j.pos else 0
      let hit := ((List.range e.2.info.fill).zip e.2.valid).find? (fun x => decide (from' ≤ x.1) && blockOk x.2)
      match hit with
      | some x => (some (e.1, e.2, x.1, x.2), a.2)
      | none => a
  (s.extsFrom ns j.seq).foldl step (none, 0)

/-- Bytes a job's buffer has left behind the result header. -/
def jobRoom (j : ArcJob) : Nat :=
  (match j.query, j.exporting with | some q, _ => q.bufLen | _, some x => x.bufLen | _, _ => 0) - 64 - j.out.length

/-- The 64-byte result header (R319). -/
def jobHeader (j : ArcJob) (more : Bool) : Bytes :=
  le 8 (if more then j.seq + j.pos * 2 ^ 32 + j.rcd * 2 ^ 48 else 0) ++ le 4 j.items ++ le 4 j.dups ++ le 4 j.read ++ le 4 j.bad
    ++ le 4 j.repaired ++ le 4 j.skipped ++ le 8 j.lastBseq ++ zeros 24

/-- A job ends (R310, R319): the header and items go out, and the command completes. -/
def jobEnd (j : ArcJob) (more : Bool) (s : State) : State :=
  let s := s.setArc (fun a => { a with jobs := a.jobs.filter (fun x => !(x.cmd == j.cmd)) })
  (s.writeData j.cmd (jobHeader j more ++ j.out)).replyWith j.cmd St.ok j.items (bitN more)

/-- Keeps a job's progress. -/
def jobPut (j : ArcJob) (s : State) : State :=
  s.setArc (fun a => { a with jobs := a.jobs.map (fun x => if x.cmd == j.cmd then j else x) })

/-- The records of a block that a query takes, in order, until the buffer is full: the job, and whether it is full (R304, R310). -/
def queryRecords (q : QueryIn) (cls : Nat) : List (Nat × Bytes) → ArcJob → ArcJob × Bool
  | [], j => (j, false)
  | (i, r) :: t, j =>
    if i < j.rcd || !recordMatch q cls r then queryRecords q cls t j
    else
      let key := (leAt r 0 3 % 2 ^ 21, byteAt r 4, leAt r 8 8, leAt r 24 4)
      if q.dedup && j.keys.contains key then queryRecords q cls t { j with dups := j.dups + 1 }
      else if !q.countOnly && decide (jobRoom j < 64) then ({ j with rcd := i }, true)
      else queryRecords q cls t { j with
        items := j.items + 1, keys := if q.dedup then key :: j.keys else j.keys, out := if q.countOnly then j.out else j.out ++ r }

/-- A block has been read for a job: its items go into the buffer (R310, R312). -/
def jobTake (j : ArcJob) (e : Extent) (pos : Nat) (b : Block) : ArcJob × Bool :=
  let at' := { j with seq := e.info.nsSeq, pos := pos, rcd := if e.info.nsSeq = j.seq ∧ pos = j.pos then j.rcd else 0 }
  let next := fun (j : ArcJob) => { j with pos := pos + 1, rcd := 0, read := j.read + 1, lastBseq := b.bseq }
  match j.query with
  | some q =>
    if q.raw then
      if !q.countOnly && decide (jobRoom at' < 4096) then (at', true)
      else (next { at' with items := at'.items + 1, out := if q.countOnly then at'.out else at'.out ++ b.bytes }, false)
    else
      let (j', full) := queryRecords q b.cls ((List.range b.nrec).zip b.records) at'
      if full then ({ j' with read := j'.read + 1, lastBseq := b.bseq }, true) else (next j', false)
  | none =>
    if jobRoom at' < 4096 then (at', true)
    else (next { at' with items := at'.items + 1, out := at'.out ++ b.bytes }, false)

/-- The copies of an extent that can be read. -/
def goodCopies (s : State) (e : Extent) : List (Nat × Nat) := e.info.locs.filter (fun l => (s.drive l.1).any (·.readable))

/-- Writes the descriptors of extents, in order, while the buffer has room for them and for a first block; a digest that does not match
counts (R312). -/
def putDescs : List (Nat × Extent) → ArcJob → State → (ArcJob × Bool) × State
  | [], j, s => ((j, false), s)
  | (aen, e) :: t, j, s =>
    let at' := { j with seq := e.info.nsSeq, pos := 0, rcd := 0 }
    if jobRoom j < 128 + (if e.info.fill = 0 then 0 else 4096) then ((at', true), s)
    else
      putDescs t { at' with items := j.items + 1, out := j.out ++ e.summary aen e.digestOk, described := some e.info.nsSeq }
        (if e.digestOk then s else s.bump Reg.ARC_DIGEST_FAIL)

/-- The descriptors due before an export's next block: of each extent it takes from its place on, up to that block's (R312). -/
def descsDue (s : State) (j : ArcJob) : List (Nat × Extent) :=
  match j.exporting with
  | none => []
  | some x =>
    let upTo := match (s.jobNext j).1 with | some (_, e, _, _) => e.info.nsSeq | none => x.last
    (s.extsFrom x.ns j.seq).filter (fun e => exportTakes x e.2 && decide (e.2.info.nsSeq ≤ upTo)
      && (decide (j.seq < e.2.info.nsSeq) || j.pos == 0) && j.described.all (fun d => decide (d < e.2.info.nsSeq)))

/-- The drive a job's next block is read from. -/
def jobDrive (s : State) (j : ArcJob) : Option Nat :=
  match (s.jobNext j).1 with
  | some (_, e, _, _) => ((s.goodCopies e).head?).map (·.1)
  | none => none

/-- The queue entries of a drive that queries and exports may use: QUERY_SHARE per cent, one at least (R310, R322; DESIGN CHOICE, log entry
139). -/
def shareOf (s : State) (slot : Nat) : Nat :=
  let pc := min 100 (max 1 (s.regField Reg.ARC_REBUILD_CFG 23 16))
  match s.drive slot with
  | some d => max 1 (d.pairs * d.depth * pc / 100)
  | none => 1

/-- May a job's next block be asked for: the other jobs leave its drive a queue entry (R310)? -/
def jobMay (s : State) (j : ArcJob) : Bool :=
  match s.jobDrive j with
  | none => true
  | some slot =>
    decide (((s.arc.jobs.take 4).filter (fun x => !(x.cmd == j.cmd) && x.asked && s.jobDrive x == some slot)).length < s.shareOf slot)

/-- A job that has nothing left to read ends; its next extents are passed over as their summaries say, and its next block is asked for
(R310). An export first writes the descriptors due (R312). -/
def jobSettle (j : ArcJob) (s : State) : State :=
  let r := putDescs (s.descsDue j) j s
  let j := r.1.1
  let s := r.2
  if r.1.2 then s.jobEnd j true
  else match s.jobNext j with
  | (none, sk) => s.jobEnd { j with skipped := j.skipped + sk } false
  | (some (_, e, pos, _), sk) =>
    let ask := s.jobMay j
    let s := s.jobPut (if e.info.nsSeq = j.seq ∧ pos = j.pos then { j with skipped := j.skipped + sk, asked := ask }
      else { j with seq := e.info.nsSeq, pos := pos, rcd := 0, skipped := j.skipped + sk, asked := ask })
    match s.goodCopies e with
    | [] => s
    | l :: _ => if ask then s.emit (.nvme l.1 Nvme.read [l.2, pos] []) else s

/-- The first four jobs run: one that has not begun, or that waits for a queue entry of its drive, goes on (R310). -/
def jobsGo : Nat → State → State
  | 0, s => s
  | n + 1, s => match (s.arc.jobs.take 4).find? (fun j => !j.asked && s.jobMay j) with
    | none => s
    | some j => jobsGo n (s.jobSettle j)

/-- A block that one source did not give and another did is written again on the first, where its drive is written to (R311, R314); a
sealed copy only as its digest verifies (R303). -/
def repairBlock (e : Extent) (pos : Nat) (b : Block) (s : State) : State :=
  match s.goodCopies e with
  | [] => s
  | l :: _ =>
    if !(s.drive l.1).any (·.writable) then s
    else if e.info.state = 3 ∧ e.info.digest ≠ sha384 (e.valid.flatMap (·.bytes)) then s.bump Reg.ARC_DIGEST_FAIL
    else ((s.bump Reg.ARC_REPAIRED).bump Reg.ARC_COPY_WRITES).emit (.nvme l.1 Nvme.write [l.2, pos, b.bseq] b.bytes)

/-- A block that no source gave (R311). -/
def badBlock (aen pos : Nat) (e : Extent) (b : Block) (s : State) : State :=
  ((s.bump Reg.ARC_BAD_BLOCKS).modExt aen (fun e => { e with lost := if e.lost.contains pos then e.lost else e.lost ++ [pos] })).arcNotice
    11 0 e.info.ns 0 aen b.bseq 0

/-- A block read has returned for a job (R310, R311). -/
def jobRead (j : ArcJob) (first other : Bool) (s : State) : State :=
  match (s.jobNext j).1 with
  | none => s.jobSettle j
  | some (aen, e, pos, b) =>
    let s := if first then s else s.bump Reg.ARC_READ_FAIL
    if !(first || other) then (s.badBlock aen pos e b).jobSettle { j with seq := e.info.nsSeq, pos := pos + 1, rcd := 0, bad := j.bad + 1 }
    else
      let s := if first then s else s.repairBlock e pos b
      let s := s.modExt aen (fun e => { e with lost := e.lost.erase pos })
      let j := if first then j else { j with repaired := j.repaired + 1 }
      let (j, full) := jobTake j e pos b
      if full then s.jobEnd j true else s.jobSettle j

/-- A query or export is admitted (R310): four run and 64 wait. -/
def jobStart (j : ArcJob) (s : State) : State :=
  if 68 ≤ s.arc.jobs.length then s.reply j.cmd St.queueFull
  else
    jobsGo 68 ((s.replyQueued j.cmd).setArc (fun a => { a with jobs := a.jobs ++ [j] }))

/-- ARC's part of a fence (R309): queries and exports of the instance stop, and those that waited for them begin (R310). -/
def arcPartDo (i : Nat) (s : State) : State :=
  jobsGo 68 (s.setArc (fun a => { a with jobs := a.jobs.filter (fun j => j.cmd.inst != i) }))

/-! #### Status (R322) -/

/-- ARC_STATE (R308, R317, R322). -/
def arcState (s : State) : Nat :=
  match s.arc.phase with
  | .noSet => 0
  | .recovering => 1
  | .failed => 5
  | .up => if s.arc.holding then 4 else if s.arcHealth then 3 else 2

/-- ARC.STATUS (R322). -/
def arcStatus (s : State) : Nat :=
  s.arcState + 8 * bitN s.arc.unclean + 16 * bitN s.arc.journalSingle + 32 * bitN s.journalWait + s.arc.drives.length * 2 ^ 8
    + s.takers.length * 2 ^ 16

end State
end Sys2Proof.Machine
end

