-- ==== Sys2Proof/Machine/Arc.lean ====
section
/-! DEFINITION. The events and commands of the archive engine, its recovery and its DUSK save (R289 to R322). -/
set_option Elab.async false
namespace Sys2Proof.Machine
namespace State

/-! #### Power loss and recovery (R305, R307, R308) -/

/-- The endpoint indices of a block's range (R305). -/
def blockEps (b : Block) : List Nat := (List.range (b.epMax + 1 - b.epMin)).map (· + b.epMin)

/-- The spill area's extent with room for another block. -/
def spillOpen (s : State) : Option (Nat × Extent) :=
  s.arc.map.find? (fun e => e.2.sys.any (fun x => x.1 == 6) && decide (e.2.blocks.length < 1024))

/-- The spill area has room for another block where a drive is written to and an AEN is free; its extents have one copy (R305). -/
def spillEnsure (s : State) : State :=
  if s.spillOpen.isSome then s
  else match s.freeAen 1, s.pickDrive [] true with
    | some aen, some slot =>
      s.takeExt aen [slot] { ns := 0, nsSeq := 0, state := 2 } (some (6, (s.arc.map.filter (fun e => e.2.sys.any (fun x => x.1 == 6))).length))
    | _, _ => s

/-- A block of the hold is issued as a single copy to the spill area (R305). -/
def spillBlock (b : Block) (s : State) : State :=
  let s := s.spillEnsure
  match s.spillOpen with
  | none => s
  | some (aen, e) =>
    let pos := e.blocks.length
    let s := (s.modExt aen (fun e => { e with blocks := e.blocks ++ [b] })).setArc (fun a => { a with
      writes := a.writes ++ [{ aen := aen, pos := pos, slots := e.info.locs.map (·.1) }] })
    e.info.locs.foldl (fun s l => s.emit (.nvme l.1 Nvme.spill [l.2, pos, b.bseq] b.bytes)) (s.bumpBy Reg.ARC_COPY_WRITES e.info.locs.length)

/-- Where a block of the hold lies in the spill area, its write completed: location and position. -/
def spilledAt (s : State) (b : Block) : Option ((Nat × Nat) × Nat) :=
  (s.arc.map.filter (fun e => e.2.sys.any (fun x => x.1 == 6))).findSome? (fun e =>
    match e.2.blocks.findIdx? (fun x => x.bseq == b.bseq), e.2.info.loc0 with
    | some pos, some l => if s.arc.writes.any (fun w => w.aen == e.1 && w.pos == pos) then none else some (l, pos)
    | _, _ => none)

/-- An entry of the spill list in the DUSK page: namespace, BSEQ, location and position (R305; DESIGN CHOICE, log entry 138). -/
def spillEntry (s : State) (x : Nat × Block) : Bytes :=
  match s.spilledAt x.2 with
  | some (l, pos) => fit 64 (le 1 11 ++ le 1 x.1 ++ zeros 6 ++ le 8 x.2.bseq ++ le 4 (locWord (some l)) ++ le 2 pos)
  | none => zeros 64

/-- ARC at DUSK entry (R305): queries and exports stop, every held block is issued, and the hold is spilled where a drive is writable. -/
def arcDusk (s : State) : State :=
  let s := s.setArc (fun a => { a with jobs := [] })
  let n := s.takeOrder.length
  let s := (List.range n).foldl (fun s _ => takeFirst true s.takeOrder s) s
  s.arc.hold.foldl (fun s x => s.spillBlock x.2) s

/-- A bitmap with one bit per index. -/
def bitmapOf (l : List Nat) : Bytes := le ((l.foldl max 0) / 8 + 1) (l.foldl (fun a i => putBit a i true) 0)

/-- The end of the DUSK save (R305): the backfill bitmap takes the blocks that are not durable, and the DUSK entry is durable where the
archive is up and `ok` says that its write came in time. -/
def arcDuskEnd (ok : Bool) (s : State) : State :=
  let saved := s.arc.hold.filter (fun x => (s.spilledAt x.2).isSome)
  let open' := (s.arc.map.filter (fun e => e.2.sys.isNone)).flatMap (fun e => e.2.blocks.drop e.2.info.fill)
  let unsaved := (s.arc.hold.filter (fun x => (s.spilledAt x.2).isNone)).map (·.2)
  let uncoded := s.cod.opens.flatMap (fun e => (List.range (e.2.epMax + 1 - e.2.epMin)).map (· + e.2.epMin)) ++ s.cod.input.map (·.endpoint)
  let lost := (open' ++ s.arc.redo.map (·.2) ++ s.cod.held ++ unsaved).flatMap blockEps ++ uncoded
  if s.arcUp && ok then
    let l := (s.ing.backfill ++ lost).eraseDups
    let s := (s.setArc (fun a => { a with savedBackfill := l, spill := saved })).sysWrite 4 0 0 (bitmapOf l)
    let owed := ((s.sysExt 5 0).map (fun e => e.2.info.locs)).getD []
    s.markPage true owed (saved.map (fun x => s.spillEntry x))
  else s.setArc (fun a => { a with spill := [] })

/-- An extent as recovery finds it (R307): its committed map entry; an OPEN one is read forward from its journaled FILL, at most 128
blocks, as far as a copy of each block was written. -/
def recoverExt (writes : List ArcWrite) (aen : Nat) (m : ExtMeta) (old : List Block) : Extent :=
  let n := m.locs.length
  let there := fun (pos : Nat) =>
    decide (pos < old.length) && !(writes.any (fun w => w.aen == aen && w.pos == pos && decide (n ≤ w.slots.length)))
  let fill := if m.state = 1 then
      (List.range 128).foldl (fun f _ => if there f && decide (f < m.fill + 128) then f + 1 else f) m.fill
    else m.fill
  { info := { m with fill := fill }, blocks := old.take fill, ready := true, fillLogged := m.fill }

/-- Does a controller carry the label of a slot of the present set (R290, R307)? The journal slots that it names may be older. -/
def labelOf (s : State) (slot : Nat) (c : CtrlIn) : Bool :=
  c.label.any (fun l => l.1 == s.arc.setId && l.2.1 == s.arc.setGen && l.2.2.1 == slot)

/-- The set recovery assembles: of those whose two journal drives are both present, that of the highest generation (R307). -/
def bestSet (found : List CtrlIn) : Option (Nat × Nat) :=
  let labels := found.filterMap (·.label)
  let whole := labels.filter (fun l => decide (2 ≤ l.2.2.2.length)
    && l.2.2.2.all (fun k => labels.any (fun x => x.1 == l.1 && x.2.1 == l.2.1 && x.2.2.1 == k)))
  (whole.foldl (fun (b : Option (Nat × Nat)) l => match b with
    | none => some (l.1, l.2.1)
    | some x => if x.2 < l.2.1 then some (l.1, l.2.1) else b) none)

/-- Are both copies of a journal page, or of a map image page, unreadable (R308)? -/
def pagesLost (found : List CtrlIn) (s : State) : Bool :=
  let ctrl := fun (slot : Nat) => found.find? (s.labelOf slot)
  let all := fun (slots : List Nat) (bad : CtrlIn → List Nat) (p : Nat) => slots.all (fun k => (ctrl k).all (fun c => (bad c).contains p))
  (found.flatMap (·.badJournal)).any (all s.arc.journal (·.badJournal))
    || (found.flatMap (·.badImage)).any (fun p => match s.sysExt 1 (p / 1024) with
      | some e => !e.2.info.locs.isEmpty && all (e.2.info.locs.map (·.1)) (·.badImage) p
      | none => false)

/-- Every block found on one copy only is written to the other (R307 step 4). -/
def mendCopies (writes : List ArcWrite) (s : State) : State :=
  writes.foldl (fun s w =>
    match s.arc.map.get? w.aen with
    | none => s
    | some e => match e.valid[w.pos]? with
      | none => s
      | some b => (e.info.locs.filter (fun l => w.slots.contains l.1)).foldl (fun s l =>
          (s.bump Reg.ARC_COPY_WRITES).emit (.nvme l.1 Nvme.write [l.2, w.pos, b.bseq] b.bytes)) s) s

/-- The drives and the map of recovery steps 1, 3, 4 and 5 (R307). Physical extents of no committed entry, and those whose Deallocate the
loss cut short, are deallocated (R290). -/
def recoverMap (found : List CtrlIn) (s : State) : State :=
  let a := s.arc
  let map := a.durMap.mapVals (fun aen m => { recoverExt a.writes aen m ((a.map.get? aen).map (·.blocks) |>.getD []) with sys := (a.map.get? aen).bind (·.sys) })
  let dropped := (a.map.filter (fun e => !a.durMap.has e.1)).flatMap (fun e => e.2.info.locs)
  let cut := (a.deallocs.filter (fun d => d.aen.isNone)).map (fun d => (d.slot, d.phys))
  let drives := a.drives.mapVals (fun slot d =>
    match found.find? (s.labelOf slot) with
    | some c => { d with disc := c.disc, root := c.root, pairs := min 8 c.pairs, depth := min 1024 c.depth }
    | none => d)
  let gone := fun (slot : Nat) => !(found.any (s.labelOf slot))
  let s := s.setArc (fun a => { a with
    map := map, drives := drives.filter (fun e => e.2.stage != 6), nss := a.durNss, hold := a.spill, drained := [], writes := [], redo := []
    page := [], waiting := [], deallocs := [], jobs := [], nsHeld := [], holding := false, ceilAsked := false, horizonAsked := a.horizon })
  let s := (s.arc.drives.filter (fun e => !gone e.1 && e.2.stage != 5)).foldl (fun s e => s.bringUp e.1) s
  let s := (s.arc.drives.filter (fun e => e.2.stage != 5 && gone e.1)).foldl (fun s e => s.setStage e.1 5) s
  let s := (dropped ++ cut).foldl (fun s l => s.freePhys l none) s
  let s := s.mendCopies a.writes
  (s.arc.map.filter (fun e => e.2.info.state == 5)).foldl (fun s e => s.releaseExt e.1) s

/-- The last durable block of a namespace in append order. -/
def lastBlock (s : State) (ns : Nat) : Option Block := ((s.extsFrom ns 0).flatMap (fun e => e.2.valid)).getLast?

/-- RTS_MAX of the last durable block of a namespace (R308). -/
def nsRts (s : State) (ns : Nat) : Nat := ((s.lastBlock ns).map (·.rtsMax)).getD 0

/-- The blocks at or above the horizon, in BSEQ order (R307 step 6). -/
def blocksAbove (s : State) : List Block :=
  sortOn (·.bseq) ((s.arc.map.flatMap (fun e => e.2.valid)).filter (fun b => decide (s.arc.horizon ≤ b.bseq)))

/-- ARC recovers in stage D6, steps 1 to 6 (R307, R308): the set is assembled, the map and the open extents are found, and COD takes up the
ceiling; or ARC stands at NO_SET or FAILED with HOLD_CAUSES bit [4] set. Only the set this part holds can be recovered (DESIGN CHOICE, log
entry 140). -/
def arcRecover (found : List CtrlIn) (s : State) : State :=
  let s := ((s.setArc (fun a => { a with found := found, phase := .recovering })).holdCause 4 true).identifyAll found
  let present := fun (slot : Nat) => found.any (s.labelOf slot)
  if !(found.any (fun c => c.label.isSome)) then s.setArc (fun a => { a with phase := .noSet })
  else if bestSet found ≠ some (s.arc.setId, s.arc.setGen) ∨ !(s.arc.journal.all present) ∨ s.arc.journal.length < 2
      ∨ s.pagesLost found = true then s.setArc (fun a => { a with phase := .failed })
  else
    let clean := s.arc.duskMark
    let s := s.recoverMap found
    let s := s.setCod (fun c => { c with bseq := s.arc.ceil })
    let last := s.arc.nss.filterMap (fun e => (s.lastBlock e.1).map (fun b => (e.1, (b.rtsMax, b.bseq))))
    s.setArc (fun a => { a with unclean := !clean, savedBackfill := if clean then a.savedBackfill else [], lastDur := last })

/-- Has recovery found the set, so that steps 6 and 7 follow (R307)? -/
def arcFound (s : State) : Bool := s.arc.phase == .recovering

/-- Step 7 of recovery (R307, R308): the DAWN entry is committed and the archive is up. An OPEN extent found full closes (R295, R303). -/
def arcOpens (s : State) : State :=
  let s := ((s.markPage false [] []).bump Reg.ARC_JOURNAL_PAGES).arcReady
  let s := if s.arc.unclean then s.arc.nss.foldl (fun s e => s.arcNotice 9 0 e.1 0 0 0 (s.nsRts e.1)) s else s
  let s := (s.arcNotice 8 0 0 0 0 s.cod.bseq 0).holdCheck.askCeiling
  let s := (s.arc.map.filter (fun e => e.2.info.state == 1 && decide (1024 ≤ e.2.info.fill))).foldl (fun s e => s.closeExt e.1) s
  (s.arc.nss.foldl (fun s e => s.ensureExts e.1) s).nextPage

/-! #### Namespaces (R303, R319) -/

/-- Are the parameters of ARC.NS.CREATE in range, with PROTECT, WORM as they stand (R292, R319)? -/
def nsOk (p : NsIn) (protect : Nat) (worm : Bool) : Bool :=
  decide (1 ≤ p.ns ∧ p.ns ≤ 255) && decide (protect < 3) && !(p.wrap && worm) && decide (p.noticeMode < 3)
    && (if protect = 2 then decide (4 ≤ p.pgWidth ∧ p.pgWidth ≤ 16) else p.pgWidth == 0) && decide (p.classes < 128)
    && (p.classes % 8 == 0 || (protect == 1 && worm && !p.wrap))

/-- Is a class of an instance bound to another namespace (R292)? -/
def streamBound (s : State) (owner classes ns : Nat) : Bool :=
  s.arc.nss.any (fun e => e.1 != ns && e.1 != 0 && e.2.owner == owner && (List.range 7).any (fun c => bitAt classes c && bitAt e.2.classes c))

/-- May a sealed extent be released: ETS_MAX plus RETAIN_DAYS lies before device time (R303)? -/
def pastRetention (s : State) (e : Extent) : Bool :=
  decide (nsOf e.etsMax + (s.arc.nss.getD e.info.ns {}).retainDays * 86400 * 1000000000 < s.nowNs)

/-- Does an extent of a WORM namespace hold blocks within retention, those still to become durable among them (R303, R319)? -/
def retained (s : State) (e : Extent) : Bool :=
  !e.blocks.isEmpty && !s.pastRetention { e with info := { e.info with fill := e.blocks.length } }

/-- May a command act on a namespace: on an instance queue, one its instance owns; namespace 0 has no owner (R292, R319). -/
def nsMine (s : State) (c : CmdRef) (ns : Nat) : Bool := c.queue == 256 || (ns != 0 && (s.arc.nss.getD ns {}).owner == c.inst)

/-! #### Drives (R289, R290, R313, R316) -/

/-- The controller at a discovery index. -/
def ctrl (s : State) (disc : Nat) : Option CtrlIn := s.arc.found.find? (fun c => c.disc == disc)

/-- Is a drive fit (R289)? -/
def driveFit (c : CtrlIn) : Bool :=
  (c.lba == 512 || c.lba == 4096) && c.metaBytes == 0 && c.zeroed && decide (1024 ≤ c.usable)

/-- The drive a controller becomes in the set. -/
def driveOf (c : CtrlIn) (stage : Nat) : Drive :=
  { disc := c.disc, serial := c.serial, stage := stage, usable := min c.usable (2 ^ 26 - 1), root := c.root
    pairs := min 8 c.pairs, depth := min 1024 c.depth }

/-- A drive that joins is deallocated whole (R290). -/
def wipe (slot : Nat) (s : State) : State := s.emit (.nvme slot Nvme.dealloc [] [])

/-- WATCH conditions of R313. -/
def watchDue (s : State) (d : Drive) (h : HealthIn) : Bool :=
  let w := s.reg Reg.ARC_WEAR_CFG
  let oldest := ((d.errLog.filter (fun e => decide (s.nowSec ≤ e.1 + 86400))).map (·.2)).foldl min h.mediaErr
  decide (max 1 (field w 23 16) ≤ h.mediaErr - oldest) || decide (field w 15 8 * 100 < h.latency) || decide (field w 7 0 ≤ h.used)

/-- A drive's health log has been read, with Get Log Page 0x02 (R289, R313). -/
def pollDrive (slot : Nat) (h : HealthIn) (s : State) : State :=
  match s.drive slot with
  | none => s
  | some d =>
    let s := s.emit (.nvme slot Nvme.logPage [2] [])
    let watch := s.watchDue d h
    let log := d.errLog.filter (fun e => decide (s.nowSec ≤ e.1 + 86400))
    let s := s.modDrive slot (fun d => { d with
      spare := h.spare, wearPct := h.used, latency := h.latency, mediaErr := h.mediaErr, errLog := log ++ [(s.nowSec, h.mediaErr)]
      watchAt := if watch then s.nowSec else d.watchAt })
    if d.stage = 6 ∨ d.stage = 5 then s
    else if bitAt h.critical 2 || h.cfs then s.setStage slot 5
    else if d.stage = 7 ∨ d.stage = 4 then s
    else if bitAt h.critical 3 then s.toReadOnly slot
    else if d.stage < 3 ∧ (h.spare ≤ h.spareThreshold ∨ bitAt h.critical 0 = true ∨ d.free ≤ s.arcReserve) then s.setStage slot 3
    else if d.stage = 1 ∧ watch = true then s.setStage slot 2
    else if d.stage = 2 ∧ watch = false ∧ d.watchAt + 7 * 86400 ≤ s.nowSec then s.setStage slot 1
    else s

/-- The 64 bytes of a drive's status entry (R319). -/
def driveEntry (s : State) (slot : Nat) : Bytes :=
  match s.drive slot with
  | none => zeros 64
  | some d => fit 64 (le 1 d.stage ++ le 1 d.disc ++ zeros 2 ++ le 4 d.usable ++ le 4 d.free ++ le 1 d.spare ++ le 1 (min d.wearPct 255)
      ++ zeros 2 ++ le 4 d.latency ++ le 8 d.mediaErr ++ le 20 d.serial)

/-- The 64 bytes of a namespace's status (R319). -/
def nsEntry (s : State) (ns : Nat) (c : NsCfg) : Bytes :=
  let l := s.nsExtents ns
  let o := (s.openOf ns).getD (0, { info := { ns := ns, nsSeq := 0 } })
  let last := s.arc.lastDur.getD ns (0, 0)
  fit 64 (le 1 ns ++ le 1 0 ++ le 1 c.owner ++ le 1 (c.protect + 4 * bitN c.worm + 8 * bitN c.wrap + 16 * c.noticeMode) ++ le 1 c.pgWidth ++ zeros 1
    ++ le 2 c.classes ++ le 4 c.quota ++ le 2 c.retainDays ++ zeros 2
    ++ le 4 l.length ++ le 4 (l.filter (fun e => e.2.info.state == 3)).length ++ le 4 (l.filter (fun e => e.2.info.degraded)).length
    ++ le 4 ((s.cod.held.filter (fun b => s.bindNs b.inst b.cls == ns)).length + (s.arc.redo.filter (fun x => x.1 == ns)).length)
    ++ le 4 o.1 ++ le 2 o.2.info.fill ++ zeros 2 ++ le 8 last.1 ++ le 8 last.2)

/-- The sequence of a drain of the billing hold (R317): held blocks are written in their order as far as they can be. -/
def drainHold : List (Nat × Block) → State → State
  | [], s => s
  | (ns, b) :: t, s =>
    match s.takeBlock ns b true false with
    | .written s => drainHold t (s.setArc (fun a => { a with
        hold := a.hold.filter (fun x => x.2.bseq != b.bseq), drained := b.bseq :: a.drained }))
    | .held s => s
    | .passed s => s

end State

/-! ### Events -/

/-- ARC_BLOCK_TAKE (R292, R293, R296, R299, R302, R317, R318): the first block that can be written or held. -/
def execArcBlockTake (s : State) : R := .next (State.takeFirst false s.takeOrder s).spareCheck

/-- ARC_WRITE_COMPLETE (R293, R295, R297, R303): a copy of a block, or a parity extent (`pos` 1024), is written. -/
def execArcWriteComplete (aen pos slot : Nat) (s : State) : R := .next ((s.copyWritten aen pos slot).holdEnd).spareCheck

/-- ARC_WRITE_FAIL (R295, R298, R309, R313, R314): a copy's write fails; a media or internal error makes the drive READ_ONLY. -/
def execArcWriteFail (aen pos slot : Nat) (media : Bool) (s : State) : R :=
  .next (
    if !(s.arc.writes.any (fun w => w.aen == aen && w.pos == pos && w.slots.contains slot)) then s
    else
      let s := (s.bump Reg.ARC_WRITE_FAIL).emit (.nvme slot Nvme.logPage [1] [])
      let s := if pos = 1024 then s.loseCopy slot aen else s.redirect aen (some pos)
      if media && (s.drive slot).any (·.writable) then s.toReadOnly slot else s)

/-- JOURNAL_PAGE_COMMIT (R301, R302, R578): the page in flight is on both journal drives. -/
def execJournalPageCommit (s : State) : R := .next s.pageCommit

/-- Is the extent of the map image that holds a page there, its ALLOC committed (R292, R302)? -/
def State.imageReady (s : State) (page : Nat) : Bool := (s.sysExt 1 (page / 1024)).any (fun e => e.2.ready)

/-- MAP_IMAGE_WRITE (R292, R302, R318): a page of the map that a committed entry changed is in the map image, in namespace 0, and what
waited for the journal goes on. -/
def execMapImageWrite (page : Nat) (s : State) : R :=
  .next (if !s.arc.imgDirty.has page || !s.imageReady page then s
    else
      let s := s.sysWrite 1 (page / 1024) (page % 1024 * 4096) (s.mapPage page)
      (s.setArc (fun a => { a with imgDirty := a.imgDirty.del page })).nextPage.journalGo)

/-- DEALLOCATE_DONE (R290, R295). -/
def execDeallocateDone (slot phys : Nat) (s : State) : R := .next (s.deallocDone slot phys)

/-- ARC_HEALTH_POLL (R298, R313, R314, R321): a drive's health log. -/
def execArcHealthPoll (slot : Nat) (h : HealthIn) (s : State) : R := .next (s.pollDrive slot h)

/-- DRIVE_COMMAND_TIMEOUT (R313): the second within 60 s makes the drive FAILED. -/
def execDriveCommandTimeout (slot : Nat) (s : State) : R :=
  .next (
    match s.drive slot with
    | none => s
    | some d =>
      if d.timeoutAt.any (fun t => decide (s.nowSec ≤ t + 60)) then s.setStage slot 5
      else s.modDrive slot (fun d => { d with timeoutAt := some s.nowSec }))

/-- DRIVE_HOTPLUG (R290, R313): the hierarchy as it is found; a member that is gone is FAILED. -/
def execDriveHotplug (found : List CtrlIn) (s : State) : R :=
  .next (
    let s := (s.setArc (fun a => { a with found := found })).identifyAll (found.filter (fun c => !(s.arc.found.any (fun x => x.disc == c.disc && x.serial == c.serial))))
    if !s.arcUp then s
    else
      let gone := s.arc.drives.filter (fun e => !(found.any (fun c => c.serial == e.2.serial && c.disc == e.2.disc)))
      gone.foldl (fun s e => s.setStage e.1 5) s)

/-- DRIVE_LOSS (R313, R314, R315, R321): the controller is removed or its link is down. -/
def execDriveLoss (slot : Nat) (s : State) : R := .next (s.setStage slot 5)

/-- REBUILD_COPY_DONE (R303, R314 to R316, R321): the journal's copy, or the next extent's copy, is written. -/
def execRebuildCopyDone (journal verified : Bool) (s : State) : R :=
  .next (if !s.arcUp then s else if journal then s.moveJournal else s.copyMade verified)

/-- BLOCK_READ_DONE (R310, R311, R312, R321): a block read for the query or export of a queue and TAG; `first` and `other` say whether
the first and another source gave it. -/
def execBlockReadDone (queue tag : Nat) (first other : Bool) (s : State) : R :=
  .next (match (s.arc.jobs.take 4).find? (fun j => j.asked && j.cmd.queue == queue && j.cmd.tag == tag) with
    | some j => State.jobsGo 68 (s.jobRead j first other)
    | none => s)

/-- SCRUB_READ (R311): a sealed extent's block is read; the digest is judged with the extent's last block. -/
def execScrubRead (aen pos : Nat) (first other digestOk : Bool) (s : State) : R :=
  .next (
    match s.arc.map.get? aen with
    | none => s
    | some e =>
      if !s.regBit Reg.ARC_CTRL 1 || e.info.state != 3 || decide (e.info.fill ≤ pos) then s
      else
        let b := e.blocks[pos]?
        let s := match b with
          | none => s
          | some b =>
            let s := if first || other then s.modExt aen (fun e => { e with lost := e.lost.erase pos }) else s
            if first then s
            else if other then (s.bump Reg.ARC_READ_FAIL).repairBlock e pos b
            else (s.bump Reg.ARC_READ_FAIL).badBlock aen pos e b
        if pos + 1 = e.info.fill ∧ ¬digestOk then s.bump Reg.ARC_DIGEST_FAIL else s)

/-- BILLING_HOLD_DRAIN (R317, R321): two drives take copies again. -/
def execBillingHoldDrain (s : State) : R :=
  .next (if decide (2 ≤ s.takers.length) && s.arcUp then (State.drainHold s.arc.hold s).holdEnd else s)

/-! ### Commands -/

/-- ARC_NS_CREATE (R292, R319, R526): completes when its entry is committed. -/
def execArcNsCreate (c : CmdRef) (p : NsIn) (s : State) : R :=
  .next (
    if !State.nsOk p p.protect p.worm || decide (16 ≤ p.owner) then s.reply c St.badParam
    else if !s.arcUp then s.reply c St.stateConflict
    else if s.arc.nss.has p.ns then s.reply c 0x0111
    else if s.streamBound p.owner p.classes p.ns then s.reply c 0x0110
    else if (s.inst p.owner).quota.nsMax ≤ s.nsOwned p.owner then s.reply c St.noSpace
    else
      let n : NsCfg := { owner := p.owner, protect := p.protect, worm := p.worm, wrap := p.wrap, noticeMode := p.noticeMode
                         pgWidth := p.pgWidth, classes := p.classes, quota := p.quota, retainDays := p.retainDays }
      s.journal (.ns p.ns (some n)) (some (c, p.ns)))

/-- ARC_NS_CHANGE (R303, R319): OWNER, PROTECT and WORM stay as created. -/
def execArcNsChange (c : CmdRef) (p : NsIn) (s : State) : R :=
  .next (
    if p.ns = 0 ∨ 255 < p.ns then s.reply c St.badParam
    else if !s.arcUp then s.reply c St.stateConflict
    else match s.arc.nss.get? p.ns with
      | none => s.reply c 0x0112
      | some n =>
        if !State.nsOk p n.protect n.worm then s.reply c St.badParam
        else if s.streamBound n.owner p.classes p.ns then s.reply c 0x0110
        else if n.worm && decide (p.retainDays < n.retainDays) then s.reply c St.writeOnce
        else
          let n : NsCfg := { n with wrap := p.wrap, noticeMode := p.noticeMode, pgWidth := p.pgWidth, classes := p.classes, quota := p.quota
                                    retainDays := p.retainDays }
          s.journal (.ns p.ns (some n)) (some (c, p.ns)))

/-- ARC_NS_DELETE (R295, R303, R319): completes when every extent is FREE. -/
def execArcNsDelete (c : CmdRef) (ns confirm : Nat) (s : State) : R :=
  .next (
    if ns = 0 ∨ 255 < ns ∨ confirm ≠ 0x0000D3E1 then s.reply c St.badParam
    else if !s.arcUp then s.reply c St.stateConflict
    else match s.arc.nss.get? ns with
      | none => s.reply c 0x0112
      | some n =>
        let l := s.nsExtents ns
        if n.worm && l.any (fun e => s.retained e.2) then s.reply c 0x0210
        else
          let s := (s.replyQueued c).setArc (fun a => { a with
            nss := a.nss.put ns { n with classes := 0 }, dels := a.dels ++ [{ cmd := c, ns := ns, whole := true, aens := l.map (·.1) }] })
          let s := s.journal (.ns ns (some { n with classes := 0 })) none
          (l.foldl (fun s e => s.delExt e.1) s).delCheck)

/-- ARC_NS_RELEASE_SEALED (R303, R319): the sealed extents past retention. -/
def execArcNsReleaseSealed (c : CmdRef) (ns : Nat) (s : State) : R :=
  .next (
    if ns = 0 ∨ 255 < ns then s.reply c St.badParam
    else if !s.arcUp then s.reply c St.stateConflict
    else match s.arc.nss.get? ns with
      | none => s.reply c 0x0112
      | some _ =>
        let l := (s.nsExtents ns).filter (fun e => e.2.info.state == 3 && s.pastRetention e.2)
        let s := (s.replyQueued c).setArc (fun a => { a with dels := a.dels ++ [{ cmd := c, ns := ns, whole := false, aens := l.map (·.1) }] })
        (l.foldl (fun s e => s.delExt e.1) s).delCheck)

/-- ARC_QUERY (R279, R304, R310, R319). -/
def execArcQuery (c : CmdRef) (p : QueryIn) (s : State) : R :=
  .next (
    if p.bufLen < 128 then s.reply c St.badLength
    else if !s.arcUp then s.reply c St.stateConflict
    else if !s.arc.nss.has p.ns then s.reply c 0x0112
    else if !s.nsMine c p.ns then s.reply c St.notAuthorized
    else s.jobStart { cmd := c, query := some p, seq := p.cursor % 2 ^ 32, pos := field p.cursor 47 32, rcd := field p.cursor 63 48 })

/-- ARC_EXPORT (R312, R319). -/
def execArcExport (c : CmdRef) (p : ExportIn) (s : State) : R :=
  .next (
    if p.bufLen < 128 then s.reply c St.badLength
    else if !s.arcUp then s.reply c St.stateConflict
    else if !s.arc.nss.has p.ns then s.reply c 0x0112
    else if !s.nsMine c p.ns then s.reply c St.notAuthorized
    else s.jobStart { cmd := c, exporting := some p, seq := p.first, pos := p.cursor })

/-- ARC_DRIVE_JOIN (R289, R290, R316, R319): JOINING until the label is committed. -/
def execArcDriveJoin (c : CmdRef) (disc slot : Nat) (s : State) : R :=
  .next (
    match s.ctrl disc with
    | none => s.reply c 0x0113
    | some d =>
      if !State.driveFit d then s.reply c 0x0810
      else if s.arc.drives.any (fun e => e.2.stage != 5 && (e.1 == slot || e.2.disc == disc)) then s.reply c 0x0114
      else if !s.arcUp then s.reply c St.stateConflict
      else
        let s := (s.replyQueued c).setArc (fun a => { a with drives := a.drives.put slot (State.driveOf d 6) })
        (((s.wipe slot).bringUp slot).writeLabel slot).journal (.drive slot) (some (c, 0)))

/-- ARC_DRIVE_INIT (R292, R301, R308, R319): a new set with namespace 0 on two journal drives; all of the old set is lost. -/
def execArcDriveInit (c : CmdRef) (disc slot disc2 confirm : Nat) (s : State) : R :=
  .next (
    if confirm ≠ 0x00004E17 then s.reply c St.badParam
    else if s.arc.phase ≠ .noSet ∧ s.arc.phase ≠ .failed then s.reply c St.stateConflict
    else match s.ctrl disc, s.ctrl disc2 with
      | some d1, some d2 =>
        if disc = disc2 ∨ !State.driveFit d1 ∨ !State.driveFit d2 then s.reply c 0x0810
        else
          let slot2 := if slot = 0 then 1 else 0
          let gib := s.journalCfg
          let exts := (List.range (gib * extPerGib)).map (· + 1)
          let used := List.range (gib * extPerGib + 1)
          let id := s.drawFree
          let s := (s.replyQueued c).drawn
          let s := s.setArc (fun a => { found := a.found, setId := id, setGen := a.setGen + 1, journal := [slot, slot2], journalGib := gib
                                        mapUnits := a.mapUnits, holdMib := a.holdMib })
          let s := s.setArc (fun a => { a with
            drives := Tab.put [(slot, { State.driveOf d1 1 with used := used })] slot2 { State.driveOf d2 1 with used := used }
            nss := [(0, { protect := 1 })]
            journalExts := Tab.put [(slot, exts)] slot2 exts })
          let s : State := { s with
            ing := { s.ing with ckpt := [] }, vin := { s.vin with saved := [] }, kvt := { s.kvt with ckpt := none }
            msh := { s.msh with bcastSaved := none } }
          let s := ((((s.setCod (fun k => { k with bseq := 0 })).wipe slot).wipe slot2).bringUp slot).bringUp slot2 |>.writeLabel slot |>.writeLabel slot2
          let s := ((s.journal (.ns 0 (some { protect := 1 })) none).journal (.ceil (2 ^ 24)) none)
          (s.journal .init (some (c, 0)))
      | _, _ => s.reply c 0x0113)

/-- ARC_DRIVE_EVACUATE (R316, R319): the drive goes to EVACUATING and leaves the set when it is empty. -/
def execArcDriveEvacuate (c : CmdRef) (slot : Nat) (s : State) : R :=
  .next (
    match s.drive slot with
    | none => s.reply c 0x0113
    | some d =>
      if !s.arcUp || d.stage == 5 || d.stage == 6 then s.reply c St.stateConflict
      else
        let s := (s.replyQueued c).setStage slot 7
        let need := (s.extsOn slot).length
        let room := ((s.takers.filter (fun e => e.1 != slot)).map (fun e => e.2.free)).sum
        if room < need then s.reply c St.noSpace
        else (s.modDrive slot (fun d => { d with cmds := d.cmds ++ [c] })).leaveSet slot)

/-- ARC_DRIVE_FAIL (R316, R319): FAILED at once. -/
def execArcDriveFail (c : CmdRef) (slot : Nat) (s : State) : R :=
  .next (
    match s.drive slot with
    | none => s.reply c 0x0113
    | some _ => ((s.replyQueued c).setStage slot 5).reply c St.ok)

/-- ARC_STATUS (R319). -/
def execArcStatus (c : CmdRef) (ns : Nat) (drives : Bool) (s : State) : R :=
  .next (
    if drives then
      (if c.queue ≠ 256 then s.reply c St.notAuthorized
       else (s.writeData c ((List.range 64).flatMap (fun k => s.driveEntry k))).replyWith c St.ok s.arcStatus 0)
    else match s.arc.nss.get? ns with
      | none => s.reply c 0x0112
      | some n =>
        if !s.nsMine c ns then s.reply c St.notAuthorized
        else (s.writeData c (s.nsEntry ns n)).replyWith c St.ok s.arcStatus 0)

/-- ARC_SEAL (R303, R319): the namespace's OPEN extent closes and is sealed. -/
def execArcSeal (c : CmdRef) (ns : Nat) (s : State) : R :=
  .next (
    if !s.arcUp then s.reply c St.stateConflict
    else match s.arc.nss.get? ns with
      | none => s.reply c 0x0112
      | some n =>
        if !n.worm then s.reply c St.badParam
        else match s.openOf ns with
          | none => s.reply c St.ok
          | some (aen, e) =>
            if e.blocks.isEmpty then s.reply c St.ok
            else (s.modExt aen (fun e => { e with closing := true, sealCmd := some c })).advance 1025 aen)

end Sys2Proof.Machine
end

