-- ==== Sys2Proof/Machine/BilCal.lean ====
section
/-! DEFINITION. Billing calendars: the image and its checks, local time, daylight saving, rates, billing periods and the small-hours
window (R375 to R378, R384, R399). A calendar copy is its 4 096 bytes; instants are TAI seconds from 2000-01-01. -/
set_option Elab.async false
namespace Sys2Proof.Machine

/-! ### Dates (R5, R377) -/

/-- Days from 2000-01-01 of a date. -/
def daysOf (y m d : Nat) : Nat :=
  let y' := if m ≤ 2 then y - 1 else y
  let z := y' - 1600
  let mp := if 2 < m then m - 3 else m + 9
  z * 365 + z / 4 - z / 100 + z / 400 + (153 * mp + 2) / 5 + d - 1 - 146037

/-- The date of a count of days from 2000-01-01: year, month and day. -/
def dateOf (days : Nat) : Nat × Nat × Nat :=
  let z := days + 146037
  let era := z / 146097
  let doe := z % 146097
  let yoe := (doe - doe / 1460 + doe / 36524 - doe / 146096) / 365
  let doy := doe - (365 * yoe + yoe / 4 - yoe / 100)
  let mp := (5 * doy + 2) / 153
  let m := if mp < 10 then mp + 3 else mp - 9
  (yoe + era * 400 + 1600 + (if m ≤ 2 then 1 else 0), m, doy - (153 * mp + 2) / 5 + 1)

/-- The weekday of a day, 0 Monday: 2000-01-01 was a Saturday. -/
def weekdayOf (days : Nat) : Nat := (days + 5) % 7

/-! ### The fields of an image (R375) -/

/-- CAL_VER. -/
def calVer (c : Bytes) : Nat := leAt c 4 2
/-- INTERVAL_S. -/
def calInterval (c : Bytes) : Nat := leAt c 8 4
/-- ACTIVATE_AT. -/
def calActive (c : Bytes) : Nat := leAt c 12 8
/-- SUB_MIN in seconds. -/
def calSub (c : Bytes) : Nat := byteAt c 48 * 60
/-- NSUB. -/
def calNsub (c : Bytes) : Nat := byteAt c 49

/-- The switch points of a day profile: minute and rate (R375). -/
def dayPoints (c : Bytes) (p : Nat) : List (Nat × Nat) :=
  (List.range (min 10 (byteAt c (240 + 32 * p)))).map (fun k => (leAt c (242 + 32 * p + 3 * k) 2, byteAt c (244 + 32 * p + 3 * k)))

/-- Are numbers strictly ascending? -/
def ascending : List Nat → Bool
  | a :: b :: t => decide (a < b) && ascending (b :: t)
  | _ => true

/-- Is a DST rule in range (R377)? -/
def dstRuleOk (r : Nat) : Bool :=
  decide (r < 2 ^ 21) && (field r 3 0 == 0 ||
    (decide (field r 3 0 ≤ 12 ∧ 1 ≤ field r 6 4 ∧ field r 6 4 ≤ 5 ∧ field r 9 7 ≤ 6 ∧ field r 20 10 < 1440)))

/-- Is a day profile in range? -/
def dayOk (c : Bytes) (p : Nat) : Bool :=
  let pts := dayPoints c p
  decide (1 ≤ byteAt c (240 + 32 * p) ∧ byteAt c (240 + 32 * p) ≤ 10) && byteAt c (241 + 32 * p) == 0
    && pts.all (fun e => decide (e.1 < 1440 ∧ e.2 < 8)) && ascending (pts.map Prod.fst)

/-- Is every field of an image in its range (R375)? Week and day profiles count where a season, week or special day names them. -/
def calOk (c : Bytes) : Bool :=
  let i := calInterval c
  let seasons := (List.range (min 12 (byteAt c 54))).map (fun k => slice c (64 + 4 * k) 4)
  let weeks := (seasons.map (fun s => byteAt s 2)).eraseDups
  let specials := (List.range (min 512 (leAt c 56 2))).map (fun k => leAt c (1264 + 4 * k) 4)
  let days := (weeks.flatMap (fun w => (List.range 7).map (fun d => byteAt c (112 + 8 * w + d))) ++ specials.map (fun v => field v 20 16)).eraseDups
  leAt c 0 4 == 0x4C414342 && decide (1 ≤ calVer c) && decide (byteAt c 6 < 16) && decide (byteAt c 7 < 2)
    && decide (60 ≤ i ∧ i ≤ 3600 ∧ 86400 % i = 0) && calActive c % 2 ^ 30 == 0
    && decide (-720 ≤ signedOf 16 (leAt c 20 2) ∧ signedOf 16 (leAt c 20 2) ≤ 840) && decide (leAt c 22 2 ≤ 120)
    && dstRuleOk (leAt c 24 4) && dstRuleOk (leAt c 28 4) && decide (leAt c 36 8 % 2 ^ 30 < 1000000000)
    && decide (1 ≤ byteAt c 44 ∧ byteAt c 44 ≤ 28) && byteAt c 45 == 0 && decide (leAt c 46 2 < 1440)
    && decide (1 ≤ byteAt c 48 ∧ byteAt c 48 ≤ 15 ∧ calSub c % i = 0) && decide (1 ≤ calNsub c ∧ calNsub c ≤ 15)
    && decide (leAt c 50 2 < 1440 ∧ leAt c 52 2 ≤ 600) && decide (1 ≤ byteAt c 54 ∧ byteAt c 54 ≤ 12) && byteAt c 55 == 0
    && decide (leAt c 56 2 ≤ 512) && slice c 58 6 == zeros 6 && slice c 3312 780 == zeros 780
    && seasons.all (fun s => decide (1 ≤ byteAt s 0 ∧ byteAt s 0 ≤ 12 ∧ 1 ≤ byteAt s 1 ∧ byteAt s 1 ≤ 31 ∧ byteAt s 2 ≤ 15) && byteAt s 3 == 0)
    && specials.all (fun v => decide (1 ≤ field v 10 7 ∧ field v 10 7 ≤ 12 ∧ 1 ≤ field v 15 11 ∧ v < 2 ^ 21))
    && weeks.all (fun w => byteAt c (119 + 8 * w) == 0) && days.all (fun d => decide (d < 32) && dayOk c d)

/-! ### Local time (R377) -/

/-- The UTC second at which a DST rule falls in a year. -/
def dstInstant (r y : Nat) : Nat :=
  let m := field r 3 0
  let first := daysOf y m 1
  let d := first + (field r 9 7 + 7 - weekdayOf first) % 7 + 7 * (field r 6 4 - 1)
  let next := if m = 12 then daysOf (y + 1) 1 1 else daysOf y (m + 1) 1
  (if d < next then d else d - 7) * 86400 + field r 20 10 * 60

/-- Is DST in force at a UTC second? -/
def dstOn (c : Bytes) (u : Nat) : Bool :=
  let a := leAt c 24 4
  let b := leAt c 28 4
  if field a 3 0 = 0 ∨ field b 3 0 = 0 then false
  else
    let y := (dateOf (u / 86400)).1
    let on := dstInstant a y
    let off := dstInstant b y
    if on < off then decide (on ≤ u ∧ u < off) else decide (on ≤ u ∨ u < off)

/-- The local second of a TAI second under a calendar copy. -/
def localOf (c : Bytes) (t : Nat) : Nat :=
  let leap := if leAt c 36 8 ≠ 0 ∧ leAt c 36 8 ≤ t * 2 ^ 30 then leAt c 34 2 else leAt c 32 2
  let u := t - leap
  let std : Int := (u : Int) + 60 * signedOf 16 (leAt c 20 2)
  (std + (if dstOn c u then 60 * (leAt c 22 2 : Int) else 0)).toNat

/-! ### Rates (R378) -/

/-- The season in force on a date: the latest start on or before it, or else the latest start. -/
def seasonOf (c : Bytes) (m d : Nat) : Bytes :=
  let l := (List.range (min 12 (byteAt c 54))).map (fun k => slice c (64 + 4 * k) 4)
  let key := fun s : Bytes => byteAt s 0 * 32 + byteAt s 1
  let latest := fun (l : List Bytes) => l.foldl (fun (a : Option Bytes) s => match a with
    | none => some s
    | some x => if key x < key s then some s else a) none
  match latest (l.filter (fun s => decide (key s ≤ m * 32 + d))) with
  | some s => s
  | none => (latest l).getD []

/-- The day profile of a day. -/
def dayProfile (c : Bytes) (days : Nat) : Nat :=
  let (y, m, d) := dateOf days
  let specials := (List.range (min 512 (leAt c 56 2))).map (fun k => leAt c (1264 + 4 * k) 4)
  let on := fun (v yy : Nat) => field v 6 0 == yy && field v 10 7 == m && field v 15 11 == d
  match specials.find? (fun v => on v (y - 2000) && field v 6 0 != 127) with
  | some v => field v 20 16
  | none => match specials.find? (fun v => on v 127) with
    | some v => field v 20 16
    | none => byteAt c (112 + 8 * byteAt (seasonOf c m d) 2 + weekdayOf days)

/-- The rate of an instant under a copy. -/
def rateOf (c : Bytes) (t : Nat) : Nat :=
  let l := localOf c t
  let pts := dayPoints c (dayProfile c (l / 86400))
  match (pts.filter (fun e => decide (e.1 ≤ l % 86400 / 60))).getLast? with
  | some e => e.2
  | none => (pts.getLast?.getD (0, 0)).2

/-! ### Billing periods and the small-hours window (R384, R399) -/

/-- The billing period an instant lies in: months since 2000-01 of its beginning at BILL_DAY and BILL_MIN. -/
def periodOf (c : Bytes) (t : Nat) : Nat :=
  let l := localOf c t
  let (y, m, d) := dateOf (l / 86400)
  let k := (y - 2000) * 12 + (m - 1)
  if byteAt c 44 * 1440 + leAt c 46 2 ≤ d * 1440 + l % 86400 / 60 then k else k - 1

/-- Does an instant lie in the small-hours window? -/
def smallHours (c : Bytes) (t : Nat) : Bool :=
  decide ((localOf c t % 86400 / 60 + 1440 - leAt c 50 2) % 1440 < leAt c 52 2)

end Sys2Proof.Machine
end

