-- ==== Sys2Proof/Machine/PlcRx.lean ====
section
/-! DEFINITION. Power-line reception: symbols, preambles, PHRs, codewords, the hand-off, the zero-crossing reference and the
frames PLC handles itself (R113, R118 to R135, R140 to R158, R621). -/
set_option Elab.async false
namespace Sys2Proof.Machine
namespace State

/-! #### Noise and the segment in force (R135) -/

/-- Is the receive side blanked (R113)? -/
def blanked (s : State) : Bool := s.plc.onAir.isSome || decide (s.nowNs < s.plc.blankUntil)

/-- The mean of a cycle's windows enters MEAN with weight 2^-TAU, so that MEAN averages over 2^TAU cycles (R135). DESIGN CHOICE (log entry
99): averaging starts from 0 after reset or CLEAR; the spec names no start. -/
def noiseFold (tau : Nat) (n : Noise) : Noise :=
  if n.count = 0 then n
  else { n with mean := (((n.mean : Int) + ((n.sum * 65536 / n.count : Nat) - (n.mean : Int)) / (2 ^ tau : Nat))).toNat, sum := 0, count := 0 }

/-- One measured level taken into the figures (R135); `cycle` names the mains cycle of the window, and the first window of a new one
closes the cycle before. DESIGN CHOICE (log entry 130): IMPULSES compares a level with MEAN in whole dB, rounded down. -/
def noiseStep (tau thresh cycle level : Nat) (n : Noise) : Noise :=
  let n := if n.cycle = cycle then n else { noiseFold tau n with cycle := cycle }
  { n with
    sum := n.sum + level, count := n.count + 1, peak := max n.peak level
    impulses := if n.mean / 65536 + thresh ≤ level then min (n.impulses + 1) 65535 else n.impulses }

/-- A window's levels taken into the noise figures of its chain and segment. -/
def noiseWindow (w : FftWindow) (s : State) : State :=
  let tau := min 12 (s.regField Reg.PLC_NOISE_CTRL 3 0)
  let thr := s.regField Reg.PLC_NOISE_CTRL 15 8
  let seg := s.segAt s.nowNs
  let cycle := s.cycleStart s.nowNs
  s.setPlc (fun p => { p with noise := ((List.range 80).zip w.levels).foldl (fun t e =>
    t.upd ((w.chain * 12 + seg) * 80 + e.1) {} (noiseStep tau thr cycle e.2)) p.noise })

/-- Has a chain measured BIU_LEVEL for BIU_TIME_MS (R117)? -/
def lbtHeld (s : State) (chain : Nat) : Bool :=
  (s.plc.lbtSince.get? chain).any (fun t => decide (t + 1000000 * s.regField Reg.PLC_BANDC_LBT 15 8 ≤ s.nowNs))

/-- A window's level between 131.5 and 133.5 kHz (R117): the band is in use while any receiving chain has measured BIU_LEVEL for
BIU_TIME_MS, and free from the window in which none has. -/
def lbtWindow (w : FftWindow) (s : State) : State :=
  let past := decide (s.regField Reg.PLC_BANDC_LBT 7 0 ≤ w.lbt)
  let s := s.setPlc (fun p => { p with
    lbtSince := if past then p.lbtSince.put w.chain (p.lbtSince.getD w.chain s.nowNs) else p.lbtSince.del w.chain })
  let busy := [0, 1, 2, 3].any (fun c => bitAt s.rxChains c && s.lbtHeld c)
  s.setPlc (fun p => { p with bandBusy := busy, bandFreeNs := if p.bandBusy && !busy then s.nowNs else p.bandFreeNs })

/-! #### Candidate groups (R133) -/

/-- Puts a detection into descending SNR order. -/
def bySnr (d : Detection) : List Detection → List Detection
  | [] => [d]
  | e :: t => if e.snr < d.snr then d :: e :: t else e :: bySnr d t

/-- The chains of a candidate group: receiving, not at work on another reception, and within 5 µs of the earliest (R133). -/
def heardGroup (s : State) (ds : List Detection) : List Detection :=
  ds.filter (fun d => bitAt s.rxChains d.chain && !bitAt s.rxBusy d.chain && decide (d.afterNs ≤ 5000))

/-- The chains combined: within 5 µs of the earliest, in order of SNR, within SNR_WINDOW of the best, at most MAX_CHAINS;
only the best while COMB_EN is 0. -/
def combine (s : State) (ds : List Detection) : List Nat :=
  let sorted := (s.heardGroup ds).foldl (fun l d => bySnr d l) []
  let best := (sorted.head?.map (·.snr)).getD 0
  let near := (sorted.filter (fun d => decide (best ≤ d.snr + s.regField Reg.PLC_COMB_CFG 7 0))).map (·.chain)
  let n := if s.regBit Reg.PLC_CTRL 12 then max 1 (s.regField Reg.PLC_COMB_CFG 9 8) else 1
  near.take n

/-! #### PHR decisions (R121, R127, R133, R134) -/

/-- A frame goes on with a PHR; an unknown handle ends it (R127). -/
def phrGo (x : PlcRx) (p : Phr) (s : State) : State :=
  if (s.poolSet p.tmap).isNone then
    (s.setPlc (fun q => { q with rx := q.rx.filter (fun r => r.id != x.id) })).bump Reg.PLC_TMAP_UNKNOWN
  else s.setPlc (fun q => { q with
    rx := q.rx.filter (fun r => r.id != x.id) ++ [{ x with group := [], phr := some p, phrNs := s.nowNs }] })

/-- The distinct valid PHRs of the chains that decode alone, each with its chains (R134). -/
def phrGroups (chains : List Nat) (alone : List (Nat × Nat)) : List (Phr × List Nat) :=
  (alone.filter (fun e => chains.contains e.1)).foldl (fun acc e =>
    match phrOf e.2 with
    | none => acc
    | some p => if acc.any (fun g => g.1 == p) then acc.map (fun g => if g.1 == p then (g.1, g.2 ++ [e.1]) else g) else acc ++ [(p, [e.1])]) []

/-- The PHR decision of a group (R121, R133, R134). -/
def phrDecide (x : PlcRx) (combined : Nat) (alone : List (Nat × Nat)) (s : State) : State :=
  match phrOf combined with
  | some p => s.phrGo x p
  | none =>
    match phrGroups (x.chains ++ x.group) alone with
    | [] => (s.setPlc (fun q => { q with rx := q.rx.filter (fun r => r.id != x.id) })).bump Reg.PLC_PHR_FAIL
    | [g] => s.phrGo { x with chains := g.2 } g.1
    | gs =>
      let s := s.setPlc (fun q => { q with rx := q.rx.filter (fun r => r.id != x.id) })
      gs.foldl (fun s g =>
        let y : PlcRx := { x with id := s.plc.nextId, chains := g.2, separate := true }
        let s := s.setPlc (fun q => { q with nextId := q.nextId + 1 })
        (s.phrGo y g.1).bump Reg.PLC_CONCURRENT) s

/-! #### Hand-off (R136, R140 to R143, R146, R148, R154 to R157, R621) -/

/-- Do two ACK instants lie within 6 000 µs of each other (R148)? -/
def ackNear (a b : Nat) : Bool := decide (a ≤ b + 6000000) && decide (b ≤ a + 6000000)

/-- The ACK instant of a frame in reception, from its PHR (R128, R146). -/
def ackInstant (s : State) (x : PlcRx) : Option Nat :=
  x.phr.map (fun p => x.atNs + 1000 * frameUs s.bandOr (payloadSymbols (frameBlocks s.bandOr ((s.poolSet p.tmap).getD robonSet) p)) + 2000000)

/-- Adds an ACK the part owes, unless it falls to another frame whose instant lies within 6 000 µs (R148). DEDUCED (log entry 100): of
frames received at once the one whose PHR was decided first has the ACK, also where it is still in reception or its ACK has gone out. -/
def oweAck (a : PlcAck) (s : State) : State :=
  let before := s.plc.rx.any (fun x => decide (x.phrNs < a.phrNs) && (s.ackInstant x).any (ackNear a.instant))
  if before || s.plc.ackSent.any (ackNear a.instant) then s.plcCount 4
  else match s.plc.acks.find? (fun b => ackNear a.instant b.instant) with
    | none => s.setPlc (fun p => { p with acks := p.acks ++ [a] })
    | some b =>
      let s := s.plcCount 4
      if a.phrNs < b.phrNs then s.setPlc (fun p => { p with acks := p.acks.filter (fun x => x.id != b.id) ++ [a] }) else s

/-- The noise mean of a chain, segment and group in 0.25 dBµV (R135). -/
def noiseQ (s : State) (chain seg group : Nat) : Int := (s.noiseOf chain seg group).mean / 16384

/-- The SNR of carrier number `m` of the band in a segment, 0.25 dB, from a frame's preamble and the noise figures (R154): the best of the
chains that decoded it. DESIGN CHOICE (log entry 101): R154 does not say which chain's figures count where several decoded the frame. -/
def carrierSnr (s : State) (est : List ChanEst) (seg m : Nat) : Int :=
  (est.map (fun e => ((e.levels.getD m 0 : Nat) : Int) - s.noiseQ e.chain seg (((s.bandOr).1 + m) / 4))).foldl (fun (a : Option Int) v =>
    match a with | none => some v | some b => some (max b v)) none |>.getD (-400)

/-- What a frame showed of one segment (R126, R154): `n` payload symbols more, the lowest carrier SNR of each group, and the mean. -/
def learnSeg (s : State) (est : List ChanEst) (seg n : Nat) (x : PlcNbr) : PlcNbr :=
  let snrs := (carriers s.bandOr).map (fun k => (k, s.carrierSnr est seg (k - (s.bandOr).1)))
  { x with
    seen := x.seen.put seg (x.seen.getD seg 0 + n)
    meanSnr := x.meanSnr.put seg (roundDiv (snrs.foldl (fun a e => a + e.2) 0) snrs.length)
    snr := (List.range 80).foldl (fun t g => match (snrs.filter (fun e => e.1 / 4 == g)).map Prod.snd with
      | [] => t
      | v :: l => t.put (seg * 80 + g) (l.foldl min v)) x.snr }

/-- The payload symbols of a frame that fall into a segment by the part's own reference at each symbol's time (R154). -/
def symbolsIn (s : State) (x : PlcRx) (p : Phr) (seg : Nat) : Nat :=
  let n := payloadSymbols (frameBlocks s.bandOr ((s.poolSet p.tmap).getD robonSet) p)
  let t0 := x.atNs + 1000 * frameUs s.bandOr 0
  ((List.range n).filter (fun i => s.segAt (t0 + 720000 * i) == seg)).length

/-- What a frame showed of its hop transmitter's channel (R151, R154 to R156). -/
def learnHop (l : PlcLink) (x : PlcRx) (p : Phr) (est : List ChanEst) (s : State) : State :=
  let eui := l.hopSrc
  let mine := est.filter (fun e => x.chains.contains e.chain)
  let s := s.modNbr eui (fun n =>
    { (if mine.isEmpty then n
       else (List.range 12).foldl (fun n seg => let k := s.symbolsIn x p seg; if k = 0 then n else s.learnSeg mine seg k n) n) with
      direct := some s.nowSec })
  match s.epOf eui with
  | none => s
  | some (i, _) => s.modCtx i (fun c => { c with chainMask := x.chains.foldl (fun a k => putBit a k true) 0 })

/-- Is the set issued to a neighbour older than TMAP_AGE (R155)? -/
def issuedOld (s : State) (eui : Nat) : Bool :=
  s.plc.cfg.tmapAge != 0 && (s.nbr eui).tmrsp.any (fun t => decide (t + 3600 * s.plc.cfg.tmapAge < s.nowSec))

/-- Has the estimate of a sender shifted by TMAP_HYST per cent against the set its frame used, or has its issued set aged
(R155)? -/
def mapShifted (s : State) (eui tmap : Nat) : Bool :=
  let used := setSum s.bandOr ((s.poolSet tmap).getD robonSet)
  let now := setSum s.bandOr (s.estimate eui)
  let diff := if used < now then now - used else used - now
  decide (s.plc.cfg.tmapHyst * now ≤ diff * 100 ∧ diff ≠ 0) || s.issuedOld eui

/-- A link frame that passed R140: taken in, handed to FSE or kept for PLC (R142, R143, R157, R213). -/
def takeFrame (l : PlcLink) (x : PlcRx) (p : Phr) (b : Bytes) (lq : Nat) (est : List ChanEst) (s : State) : State :=
  let own := s.plc.cfg.netEui
  if l.typ = 4 ∧ l.src = own then s.plcCount 18
  else
    let s := s.learnHop l x p est
    if l.dst ≠ own then s
    else if !l.sec && (l.typ == 0 || l.typ == 3 || l.typ == 6 || l.typ == 7) then s.plcCount 8
    else
      let tail := 1500 + 1632 * ceilDiv (lastBlockWords s.bandOr ((s.poolSet p.tmap).getD robonSet) p) 8
      let f : RxFrame :=
        { path := 0, bytes := b, rts := x.rts, chans := x.chains.foldl (fun a k => putBit a k true) 0, lq := lq
          zcFallback := s.zcFallback, ie := s.dev.nc + (l.len - 5) / 4 }
      let owe := l.ackreq && l.hopDst == own && l.typ != 1 && l.typ != 4 && l.typ != 5
      let s := if owe then
          (s.setPlc (fun q => { q with nextId := q.nextId + 1 })).oweAck
            { id := s.plc.nextId, dst := l.hopSrc, lseq := l.lseq, lq := lq, chains := f.chans, instant := s.nowNs - tail + 2000000
              secured := l.sec, status := if l.sec then none else some 0, phrNs := x.phrNs, rts := x.rts }
        else s
      let s := if l.sec then { s with fse := { s.fse with offered := s.fse.offered ++ [f] } }
        else s.setPlc (fun q => { q with inbox := q.inbox ++ [f] })
      match s.epOf l.hopSrc with
      | some (i, _) => if s.mapShifted l.hopSrc p.tmap then s.issueMap i else s
      | none => s

/-- A decoded frame is checked (R140) and taken (R621). -/
def handoff (x : PlcRx) (p : Phr) (lq : Nat) (est : List ChanEst) (s : State) : State :=
  let b := decodeInfo p.rate ((List.range p.ncw).map (fun i => x.words.getD i []))
  match plcLinkFail b b.length s.plc.cfg.netId with
  | some k => s.plcCount k
  | none =>
    let l := plcLinkOf b
    s.takeFrame l x p (b.take l.len) lq est

/-- The verdict of a secured frame reaches the ACK it may owe (R146, R231): STATUS for ACCEPT and DUPLICATE, none otherwise; any verdict
later than 200 µs before the instant is late. The frame is told by its stamp and chains: a tunnelled or forged copy settles no ACK. -/
def plcVerdict (f : RxFrame) (status : Option Nat) (s : State) : State :=
  let l := plcLinkOf f.bytes
  s.setPlc (fun p => { p with acks := p.acks.map (fun a =>
    if f.path = 0 ∧ a.rts = f.rts ∧ a.chains = f.chans ∧ a.dst = l.hopSrc ∧ a.lseq = l.lseq ∧ a.secured ∧ a.status = none ∧ ¬a.refused then
      { a with status := status, refused := status.isNone, late := decide (a.instant < s.nowNs + 200000) } else a) })

/-! #### Frames for PLC itself (R147, R150 to R156) -/

/-- Takes the oldest frame of a type from PLC's inbox. -/
def takeInbox (typ : Nat) (s : State) : Option (RxFrame × State) :=
  match s.plc.inbox.find? (fun f => byteAt f.bytes 0 % 8 == typ) with
  | none => none
  | some f => some (f, s.setPlc (fun p => { p with inbox := p.inbox.erase f }))

/-- The COUNT entries of an RDISC or RREP body from byte `at'`: relay and cost (R144). -/
def discEntries (b : Bytes) (at' n : Nat) : List (Nat × Nat) :=
  (List.range n).map (fun i => (leAt b (at' + 9 * i) 8, byteAt b (at' + 9 * i + 8)))

/-- An RDISC copy is collected (R150). DESIGN CHOICE (log entry 132): a copy within 60 s of the part's answer to its discovery is ignored. -/
def collectRdisc (f : RxFrame) (s : State) : State :=
  let l := plcLinkOf f.bytes
  let n := min 5 (byteAt l.body 5)
  let es := discEntries l.body 6 n
  let hop := (es.getLast?.map Prod.fst).getD l.src
  let copy : RdiscCopy := { entries := es, last := s.setCost (s.estimate hop) 0 }
  let id := leAt l.body 0 2
  let s := s.plcCount 10
  let cs := s.plc.collects
  if s.plc.answered.any (fun a => a.1 == l.src && a.2.1 == id && decide (s.nowSec < a.2.2 + 60)) then s
  else if cs.any (fun c => c.src == l.src && c.rdiscId == id) then
    s.setPlc (fun p => { p with collects := cs.map (fun c =>
      if c.src == l.src && c.rdiscId == id then { c with copies := c.copies ++ [copy] } else c) })
  else s.setPlc (fun p => { p with collects := cs ++ [{ src := l.src, rdiscId := id, penalty := byteAt l.body 2, copies := [copy] }] })

/-- The cost of a collected path under the carried PENALTY (R149, R150). -/
def copyCost (penalty : Nat) (c : RdiscCopy) : Nat :=
  c.entries.foldl (fun a e => a + e.2 + penalty) 0 + c.last + penalty

/-- The cheapest path copy. -/
def bestCopy (penalty : Nat) : List RdiscCopy → Option RdiscCopy
  | [] => none
  | c :: t => match bestCopy penalty t with
    | none => some c
    | some d => if copyCost penalty d < copyCost penalty c then some d else some c

/-- Answers a collected RDISC by an RREP routed back along the cheapest path (R144, R150). -/
def answerRdisc (c : Collect) (s : State) : State :=
  match bestCopy c.penalty c.copies with
  | none => s
  | some best =>
    let body := le 2 c.rdiscId ++ le 1 best.entries.length ++ best.entries.flatMap (fun e => le 8 e.1 ++ le 1 e.2) ++ le 1 best.last
      ++ le 2 (copyCost c.penalty best)
    (s.sendOwn 6 c.src body (some (best.entries.map Prod.fst).reverse)).plcCount 11

/-- Puts a route into ascending cost order. -/
def byCost (s : State) (eui : Nat) (r : PlcRoute) : List PlcRoute → List PlcRoute
  | [] => [r]
  | q :: t => if s.routeCost r eui < s.routeCost q eui then r :: q :: t else q :: s.byCost eui r t

/-- Sends that wait for a discovery of an endpoint go on once it has a candidate (R152). -/
def releaseWaiting (i : Nat) (s : State) : State :=
  let (k, s) := s.pickRoute i
  match k with
  | none => s
  | some k =>
    let waiting := s.plc.sends.filter (fun x => x.phase == .discover && x.ep == some i)
    waiting.foldl (fun s x =>
      if 2048 < sendLen x ((s.routeOf (s.ctx i) k).getD {}) then s.endSend x.id St.badLength 0
      else if x.at'.any (fun t => decide (t < s.nowNs + 1000)) then s.endSend x.id 0x0613 0
      else
        let y := { x with route := k, routesUsed := [k], phase := if x.at'.isSome then .ready else .contend }
        let (y, s) := if y.sec then (y, s) else s.formPlain y
        s.modSend x.id (fun _ => y)) s

/-- The slots of a context after an RREP (R151): a pinned slot keeps its route, and the others take the paths found, cheapest first. -/
def fillSlots (x : Ctx) (found : List PlcRoute) : List PlcRoute :=
  ((List.range 4).foldl (fun (a : List PlcRoute × List PlcRoute) k =>
    if x.routePinned && x.current == k + 1 then (a.1 ++ [x.slot k], a.2) else (a.1 ++ [a.2.headD {}], a.2.tail)) ([], found)).1

/-- The code of the route in use after slots are filled (R151): a slot's route keeps it wherever it now lies, and none where it is gone. -/
def currentAfter (x : Ctx) (slots : List PlcRoute) : Nat :=
  if x.routePinned || x.current = 0 || 5 ≤ x.current then x.current
  else
    let r := x.slot (x.current - 1)
    match slots.findIdx? (fun q => q.valid && q.relays == r.relays) with
    | some k => k + 1
    | none => 0

/-- An RREP fills the candidate slots of its endpoint, cheapest first (R150, R151). A pinned slot keeps its route. -/
def takeRrep (f : RxFrame) (s : State) : State :=
  let l := plcLinkOf f.bytes
  let s := s.plcCount 12
  match s.epOf l.src with
  | none => s
  | some (i, _) =>
    match s.plc.discs.get? i with
    | none => s
    | some d =>
      if d.rdiscId ≠ leAt l.body 0 2 then s
      else
        let n := min 5 (byteAt l.body 2)
        let es := discEntries l.body 3 n
        let last := byteAt l.body (3 + 9 * n)
        let rest := if n = 0 then 0 else (es.drop 1).foldl (fun a e => a + e.2) 0 + last
        let found := s.byCost l.src { relays := es.map Prod.fst, rest := rest, valid := true } d.found
        let s := s.setPlc (fun p => { p with discs := p.discs.put i { d with found := found } })
        let s := s.modCtx i (fun x => { x with slots := fillSlots x found, current := currentAfter x (fillSlots x found) })
        s.releaseWaiting i

/-- Does a route of an endpoint contain the link from one node to the next (R152)? -/
def hasLink (own eui a b : Nat) (r : PlcRoute) : Bool :=
  let nodes := own :: r.relays ++ [eui]
  (nodes.zip (nodes.drop 1)).any (fun p => p.1 == a && p.2 == b)

/-- An RERR strikes the candidates through the broken link and is noticed (R152, R161). -/
def takeRerr (f : RxFrame) (s : State) : State :=
  let l := plcLinkOf f.bytes
  let a := leAt l.body 0 8
  let b := leAt l.body 8 8
  let s := s.plcCount 13
  match s.epOf (leAt l.body 16 8) with
  | none => s
  | some (i, x) =>
    let s := s.setCtx i { x with slots := x.slots.map (fun r => if hasLink s.plc.cfg.netEui x.eui a b r then { r with valid := false } else r) }
    s.plcNotice i 1 a b (leAt l.body 24 4)

/-- A TMRSP becomes the neighbour's transmit set unless pinned (R126, R156). -/
def takeTmrsp (f : RxFrame) (s : State) : State :=
  let l := plcLinkOf f.bytes
  let s := s.plcCount 16
  let set := slice l.body 2 384
  match s.epOf l.src with
  | none => s
  | some (i, x) =>
    if (s.nbr x.eui).pinned || setBad set || set.length != 384 then s
    else match s.txSlot x with
      | none => s
      | some n => s.loadTxSet i n (leAt l.body 0 2) set

end State

/-- PLC_SYMBOL_RECEIVED (R111, R117, R118, R135): an unblanked window of a receiving chain measures the band, and one of an idle chain the
noise. -/
def execPlcSymbolReceived (w : FftWindow) (s : State) : R :=
  .next (
    if bitAt s.rxChains w.chain && !s.blanked then
      let s := (s.lbtWindow w).seamSend .midnight 4 (le 1 w.chain)
      if bitAt s.rxBusy w.chain then s else s.noiseWindow w
    else s)

/-- PLC_NOISE_CLEAR (R135). -/
def execPlcNoiseClear (s : State) : R := .next ((s.setPlc (fun p => { p with noise := [] })).setRegBit Reg.PLC_NOISE_CTRL 16 false)

/-- The first preamble sample of a frame whose SYNCM is detected now, at the converter: the preamble of 5 760 µs has just ended (R119). -/
def State.preambleNs (s : State) : Nat := s.nowNs - 5760000

/-- The record time-stamp of that sample at the coupling point (R4, R24, R441): 1 870 ns of front end and PLC_DELAY earlier. -/
def State.plcStamp (s : State) : Nat := State.stampOf (s.preambleNs - 1870 - s.regField Reg.TIM_PLC_DELAY 15 0)

/-- PLC_PREAMBLE_DETECT (R24, R113, R115, R119, R133, R134, R441): the frame is stamped at its earliest detection. DEDUCED (log entry
102): the command is that detection, at the end of the preamble. -/
def execPlcPreambleDetect (ds : List Detection) (s : State) : R :=
  .next (
    let cs := s.combine ds
    if cs.isEmpty || s.blanked || s.band.isNone then s
    else
      (s.setPlc (fun p => { p with
        rx := p.rx ++ [{ id := p.nextId, chains := cs, group := (s.heardGroup ds).map (·.chain), rts := s.plcStamp, atNs := s.preambleNs }]
        nextId := p.nextId + 1 })).bump Reg.PLC_PREAMBLE_COUNT)

/-- PLC_PHR_DECISION (R120, R121, R127, R134). -/
def execPlcPhrDecision (id combined : Nat) (alone : List (Nat × Nat)) (s : State) : R :=
  .next (match s.plc.rx.find? (fun r => r.id == id && r.phr.isNone) with
    | none => s
    | some x => if s.plcReceives then s.phrDecide x combined alone else s)

/-- PLC_CODEWORD_DECODE (R122 to R124, R128, R129): up to eight decoders' results from codeword `first`; a codeword is decoded
when its checks are satisfied. -/
def execPlcCodewordDecode (id first : Nat) (words : List (List Word)) (s : State) : R :=
  .next (match (if s.plcReceives then s.plc.rx.find? (fun r => r.id == id) else none) with
    | none => s
    | some x => match x.phr with
      | none => s
      | some p =>
        let ws := words.take 8
        let good := ws.map (fun w => ldpcOk p.rate w)
        let y := (((List.range ws.length).zip (ws.zip good)).foldl (fun (y : PlcRx) e =>
          if e.2.2 then { y with words := y.words.put (first + e.1) (columnBits e.2.1) } else { y with failed := true }) x)
        let s := s.setPlc (fun q => { q with rx := q.rx.map (fun r => if r.id == id then y else r) })
        (s.bumpBy Reg.PLC_CW_OK (good.filter (· == true)).length).bumpBy Reg.PLC_CW_FAIL (good.filter (· == false)).length)

/-- PLC_FRAME_HANDOFF (R134, R140 to R143, R146, R154, R155, R157, R621). -/
def execPlcFrameHandoff (id lq : Nat) (est : List ChanEst) (s : State) : R :=
  .next (match s.plc.rx.find? (fun r => r.id == id) with
    | none => s
    | some x => match x.phr with
      | none => s
      | some p =>
        if !s.plcReceives || !x.failed && decide (x.words.length < p.ncw) then s
        else
          let s := s.setPlc (fun q => { q with rx := q.rx.filter (fun r => r.id != id) })
          if x.failed then s
          else (if 2 ≤ x.chains.length then s.bump Reg.PLC_COMBINED else s).handoff x p lq est)

/-- ZC_MET_CROSSING (R130, R131): a positive-going crossing of a MET voltage channel at a device time in ns. -/
def execZcMetCrossing (channel timeNs : Nat) (valid : Bool) (s : State) : R :=
  .next (if !s.plcReceives then s else
    let s := if valid then s.zcCross else s
    let ref := s.zcRef
    let z := s.plc.zc
    let prev := z.chanLast.getD channel 0
    let s := s.setPlc (fun p => { p with zc := { p.zc with
      chanLast := p.zc.chanLast.put channel timeNs, chanValid := putBit p.zc.chanValid channel valid
      metRun := if channel = ref then (if valid then p.zc.metRun + 1 else 0) else p.zc.metRun
      metAt := if channel = ref ∧ valid = true then timeNs else p.zc.metAt } })
    if channel != ref then s else if valid then s.zcValid 1 z.metRun prev timeNs else s.zcInvalid 1)

/-- ZC_COARSE_CROSSING (R130, R131): valid when its period lies between 15 385 000 and 22 222 222 ns. -/
def execZcCoarseCrossing (timeNs : Nat) (s : State) : R :=
  .next (if !s.plcReceives then s else
    let s := s.zcCross
    let z := s.plc.zc
    let period := timeNs - z.coarseLast
    let ok := decide (15385000 ≤ period) && decide (period ≤ 22222222)
    let s := s.setPlc (fun p => { p with zc := { p.zc with
      coarseLast := timeNs, coarseValid := ok, coarseRun := if ok then p.zc.coarseRun + 1 else 0
      coarseAt := if ok then timeNs else p.zc.coarseAt } })
    if ok then s.zcValid 2 z.coarseRun z.coarseLast timeNs else s.zcInvalid 2)

/-- ZC_SOURCE_LOSS (R38, R130 to R132, R158). -/
def execZcSourceLoss (s : State) : R := .next (if s.zcSilent then s.zcLose else s)

/-- RDISC_RECEIVED (R150). -/
def execRdiscReceived (s : State) : R :=
  .next (match s.takeInbox 5 with | none => s | some (f, s) => s.collectRdisc f)

/-- RDISC_COLLECT_END (R150). -/
def execRdiscCollectEnd (src rdiscId : Nat) (s : State) : R :=
  .next (match s.plc.collects.find? (fun c => c.src == src && c.rdiscId == rdiscId) with
    | none => s
    | some c => (s.setPlc (fun p => { p with
        collects := p.collects.erase c
        answered := (src, rdiscId, s.nowSec) :: p.answered.filter (fun a => decide (s.nowSec < a.2.2 + 60)) })).answerRdisc c)

/-- RREP_RECEIVED (R149 to R151). -/
def execRrepReceived (s : State) : R :=
  .next (match s.takeInbox 6 with | none => s | some (f, s) => s.takeRrep f)

/-- RREP_WAIT_EXPIRY (R150, R152): 2 000 ms after the collection window the discovery ends; sends without a candidate fail
NO_ROUTE. -/
def execRrepWaitExpiry (endpoint : Nat) (s : State) : R :=
  .next (
    if !s.plc.discs.has endpoint then s
    else
    let s := (s.setPlc (fun p => { p with discs := p.discs.del endpoint })).releaseWaiting endpoint
    (s.plc.sends.filter (fun x => x.phase == .discover && x.ep == some endpoint)).foldl (fun s x => s.endSend x.id 0x0611 0) s)

/-- RERR_RECEIVED (R152, R161). -/
def execRerrReceived (s : State) : R :=
  .next (match s.takeInbox 7 with | none => s | some (f, s) => s.takeRerr f)

/-- TMREQ_RECEIVED (R155). -/
def execTmreqReceived (s : State) : R :=
  .next (match s.takeInbox 2 with
    | none => s
    | some (f, s) => match s.epOf (plcLinkOf f.bytes).src with
      | none => s
      | some (i, _) => s.issueMap i)

/-- TMRSP_RECEIVED (R126, R149, R156). -/
def execTmrspReceived (s : State) : R :=
  .next (match s.takeInbox 3 with | none => s | some (f, s) => s.takeTmrsp f)

/-- TMAP_AGE_EXPIRY (R153, R155): the transmit set is the default or too old, or the link has failed a send, and the TMREQ goes out; the set
issued is too old, and a TMRSP goes out. -/
def execTmapAgeExpiry (endpoint : Nat) (s : State) : R :=
  .next (match s.epAt endpoint with
    | none => s
    | some x =>
      let old := s.plc.cfg.tmapAge ≠ 0 ∧ x.mapStamp + 3600 * s.plc.cfg.tmapAge < s.nowSec
      let s := if x.txSet = 0 ∨ old ∨ (s.nbr x.eui).failedSend = true then
          s.sendTmreq x.eui (if x.txSet = 0 then 0 else if old then 1 else 2) else s
      if s.issuedOld x.eui then s.issueMap endpoint else s)

end Sys2Proof.Machine
end

