-- ==== Sys2Proof/Machine/Rfx.lean ====
section
/-! DEFINITION. The radio ports: clocks and framing, detection and demodulators, gain, jamming, launches and the duty cycle
(R162 to R177). -/
set_option Elab.async false
namespace Sys2Proof.Machine

/-! ### The sample ports (R163) -/

/-- The eight edges that carry one complex sample (R163); both groups of a port have this layout. -/
def sampleEdges (i q : Int) : List PortEdge :=
  (List.range 8).map (fun e =>
    let w := if e < 4 then i else q
    { frm := decide (e < 4), d := (w % 65536).toNat / 16 ^ (3 - e % 4) % 16 })

/-- A 16-bit two's complement word of four edges, its highest nibble first (R163). -/
def edgeWord (l : List PortEdge) : Int :=
  let w : Nat := l.foldl (fun a e => a * 16 + e.d % 16) 0
  if w < 32768 then (w : Int) else (w : Int) - 65536

/-- The complex sample that eight edges carry (R163). -/
def readSample (l : List PortEdge) : Int × Int := (edgeWord (l.take 4), edgeWord ((l.drop 4).take 4))

/-- Does a sample reach full scale in I or Q (R163, R169)? -/
def fullScale (x : Int × Int) : Bool := x.1 == -32768 || x.1 == 32767 || x.2 == -32768 || x.2 == 32767

/-- The samples that a run of whole words carries (R163); `fuel` bounds their number. -/
def readSamples : Nat → List PortEdge → List (Int × Int)
  | 0, _ => []
  | fuel + 1, l => if l.isEmpty then [] else readSample l :: readSamples fuel (l.drop 8)

/-- How many samples of a block reach full scale (R163, R169). -/
def clippedIn (block : List PortEdge) : Nat := ((readSamples block.length block).filter fullScale).length

/-- Does a word carry the framing pattern, four edges at 1 and four at 0 (R163, R164)? -/
def framedWord (l : List PortEdge) : Bool := l.map (·.frm) == [true, true, true, true, false, false, false, false]

/-- Are a run of edges `n` words, each with the framing pattern (R164)? -/
def framedWords : Nat → List PortEdge → Bool
  | 0, l => l.isEmpty
  | n + 1, l => framedWord (l.take 8) && framedWords n (l.drop 8)

/-! ### Framing on the air (R167) -/

/-- CRC-8 (0x07, initial 0xFF) over PHR bits [15:0] in transmission order, bit 0 first (R167). -/
def rfCrc (w : Nat) : Nat :=
  (List.range 16).foldl (fun c i =>
    let fb := (c.testBit 7) != (w.testBit i)
    let c := (c * 2) % 256
    if fb then c ^^^ 0x07 else c) 0xFF

/-- The 24 bits of a PHR for a PSDU length (R167). -/
def rfPhr (len : Nat) (whiten : Bool) : Nat :=
  let w := len % 2048 + bitN whiten * 2 ^ 11
  w + rfCrc w * 2 ^ 16

/-- Decodes and checks a PHR (R167, R168): LEN and WHITEN. -/
def rfPhrOf (w rate ch : Nat) : Option (Nat × Bool) :=
  if field w 23 16 ≠ rfCrc (w % 65536) ∨ field w 10 0 = 0 ∨ field w 15 12 ≠ 0 ∨ (rate = 3 ∧ ch % 2 = 1) then none
  else some (field w 10 0, bitAt w 11)

/-- The whitening bits s(n) = s(n − 5) XOR s(n − 9), seeded to all ones, newest first in `reg` (R167). -/
def whitenBits : Nat → List Bool → List Bool
  | 0, _ => []
  | n + 1, reg =>
    let x := (reg.getD 4 false) != (reg.getD 8 false)
    x :: whitenBits n ((x :: reg).take 9)

/-- XORs a byte string with a bit string, bit 0 of each byte first. -/
def xorStream : Bytes → List Bool → Bytes
  | [], _ => []
  | b :: t, l => (b ^^^ BitVec.ofNat 8 (((l.take 8).zipIdx).foldl (fun a e => a + bitN e.1 * 2 ^ e.2) 0)) :: xorStream t (l.drop 8)

/-- A PSDU whitened or de-whitened (R167). -/
def whiten (b : Bytes) : Bytes := xorStream b (whitenBits (8 * b.length) (List.replicate 9 true))

/-- On-air time in µs of a frame of `p` preamble bits and `len` bytes at a rate (R167). -/
def onAirUs (p len rate : Nat) : Nat := (p + 40 + 8 * len) * (bitNs rate / 1000) + 16

/-- The sync word of a rate code (R167). -/
def syncWord (rate : Nat) : Nat := match rate with | 0 => 0x7A0E | 1 => 0x6B59 | 2 => 0x0F4D | _ => 0x35C6

/-- The low bits of a number, bit 0 first. -/
def rfBits (n w : Nat) : List Bool := (List.range n).map (fun i => w.testBit i)

/-- The bits of a frame on the air, in order (R167). DEDUCED (log entry 104): the sync word goes out bit 0 first, as every byte does. -/
def airBits (preamble rate : Nat) (white : Bool) (psdu : Bytes) : List Bool :=
  (List.range preamble).map (fun n => n % 2 == 1) ++ rfBits 16 (syncWord rate) ++ rfBits 24 (rfPhr psdu.length white)
    ++ (if white then whiten psdu else psdu).flatMap (fun b => rfBits 8 b.toNat)

/-- A power `d` half-decibels below another, that one taken as 2^60. -/
def halfDb (d : Nat) : Nat := tenths.getD (d % 20) 0 / 10 ^ (d / 20)

/-- The mean of powers in 0.5 dB (R169): the powers are meant, and the level of the mean is given to 0.5 dB; where it is no whole number of
them, whether it goes up or down is a free value (log entry 106), since the manual gives no rounding. -/
def meanOf (l : List Int) : Int :=
  let top := l.foldl max (l.headD 0)
  let sum := (l.map (fun p => halfDb (top - p).toNat)).foldl (· + ·) 0
  let n := l.length
  let d := ((List.range ((l.map (fun p => (top - p).toNat)).foldl max 0 + 1)).find? (fun d => decide (halfDb d * n ≤ sum))).getD 0
  top - d + (if halfDb d * n = sum || !Config.meanUp l then 0 else 1)

namespace State

/-- An RFX notice (R177). -/
def rfNotice (p reason ch : Nat) (s : State) : State :=
  s.event 0 (le 1 p ++ le 1 reason ++ le 1 ch ++ le 1 (s.rfPort p).gain)

/-- Every frame in reception on a port is abandoned (R164). -/
def abandonRx (p : Nat) (s : State) : State :=
  let lost := s.rfx.rx.filter (fun r => r.port == p)
  let s := s.setRfx (fun x => { x with rx := x.rx.filter (fun r => r.port != p) })
  lost.foldl (fun s _ => s.bumpI Reg.RFX_FRAMING_LOSS p) s

/-- Every transmission of a port ends under R173. -/
def cutTx (p : Nat) (s : State) : State :=
  (s.rfx.tx.filter (fun t => t.port == p)).foldl (fun s t => s.truncateRf t) s

/-- Full duplex and its guard (R173). -/
def fdx (s : State) (p : Nat) : Bool := bitAt (s.regI Reg.RFX_PORT_CTRL p) 2
def fdxGuard (s : State) (p : Nat) : Nat := field (s.regI Reg.RFX_PORT_CTRL p) 15 8

/-- Distance of two channels. -/
def chDist (a b : Nat) : Nat := if a < b then b - a else a - b

/-- Is a channel's receive side blanked (R173)? -/
def rfBlanked (s : State) (p ch : Nat) : Bool :=
  if s.fdx p then s.rfAir.any (fun t => t.port == p && decide (chDist t.ch ch ≤ s.fdxGuard p))
  else s.rfAir.any (fun t => t.port == p) || decide (s.nowNs < (s.rfPort p).blankUntil)

/-- RES_A and RES_B, a sum above SIZE split in proportion (R171). -/
def reservation (s : State) (p : Nat) : Nat :=
  let w := s.reg Reg.RFX_DEMOD_POOL
  let a := min 128 (field w 23 16)
  let b := min 128 (field w 31 24)
  let n := s.rfx.poolSize
  let mine := if p = 0 then a else b
  if a + b ≤ n then mine else mine * n / (a + b)

/-- May a detection on a port take a free demodulator (R171)? -/
def demodFree (s : State) (p : Nat) : Bool :=
  let used := fun q => (s.rfx.rx.filter (fun r => r.port == q)).length
  let free := s.rfx.poolSize - s.rfx.rx.length
  let other := 1 - p
  decide (s.rfx.rx.length < s.rfx.poolSize)
    && (decide (used p < s.reservation p) || decide (s.reservation other - used other < free))

/-- The gain code in force on a port at an instant in ns (R169). -/
def gainAt (s : State) (p at' : Nat) : Nat :=
  (((s.rfPort p).gains.filter (fun e => decide (at' < e.1))).getLast?.map Prod.snd).getD (s.rfPort p).gain

/-- The RSSI of a detection in 0.5 dB above −160 dBm (R169): the mean over the sync word of channel power plus RX_GAIN_REF plus GAIN ×
GAIN_STEP_DB, with the code in force at each bit at the pins. -/
def rssiOf (s : State) (d : SyncIn) : Nat :=
  let w := s.regI Reg.RFX_RX_GAIN_REF d.port
  let t := bitNs d.rate
  let first := s.nowNs - (40184 + 20 * t)
  let p := d.below.zipIdx.map (fun e =>
    signedOf 9 (field w 8 0) - e.1 + 2 * (s.gainAt d.port (first + e.2 * t) * field w 15 12 : Nat))
  (meanOf p + 320).toNat

/-- The stamp of a frame's first preamble bit at the sample-port pins, less RX_NS (R168, R176): the detection comes 40 160 nc,
4 bit periods and 24 nc after the last sync bit at the pins. -/
def rfStamp (s : State) (d : SyncIn) : Nat :=
  stampOf (s.nowNs - (40184 + (20 + d.preamble) * bitNs d.rate) - field (s.regI Reg.RFX_RX_TX_DELAY d.port) 15 0)

/-- A demodulator starts on a detection. -/
def startRx (d : SyncIn) (s : State) : State :=
  let x : RfRx :=
    { id := s.rfx.nextId, port := d.port, ch := d.ch, rate := d.rate, rts := s.rfStamp d, rssi := s.rssiOf d, cfo := d.cfo
      overload := (s.rfPort d.port).overload != 0 }
  let s := s.setRfx (fun r => { r with rx := r.rx ++ [x], nextId := r.nextId + 1 })
  s.maxReg Reg.RFX_DEMOD_PEAK s.rfx.rx.length

/-- Is a detection spill of a stronger rate-3 frame beside it (R168)? -/
def isSpill (s : State) (d : SyncIn) : Bool :=
  let w := s.regI Reg.RFX_SYNC_CFG d.port
  bitAt w 2 && s.rfx.rx.any (fun r => r.port == d.port && r.rate == 3 && r.ch % 2 == 0 && chDist r.ch d.ch == 1
    && decide (s.rssiOf d + 2 * field w 23 16 ≤ r.rssi))

/-- A detection (R168, R171): spill, capture on a busy channel, or a demodulator from the pool. -/
def detect (d : SyncIn) (s : State) : State :=
  let s := (s.bumpI Reg.RFX_SYNC_DETECT d.port).setRfx (fun r => { r with lastSync := r.lastSync.put (d.port * 128 + d.ch) s.nowNs })
  if s.isSpill d then s.bumpI Reg.RFX_SPILL_DROP d.port
  else match s.rfx.rx.find? (fun r => r.port == d.port && r.ch == d.ch) with
    | some old =>
      if old.rssi + 2 * field (s.regI Reg.RFX_SYNC_CFG d.port) 31 24 ≤ s.rssiOf d then
        ((s.setRfx (fun r => { r with rx := r.rx.erase old })).bumpI Reg.RFX_CAPTURE_LOST d.port).startRx d
      else s
    | none => if s.demodFree d.port then s.startRx d else s.bumpI Reg.RFX_DEMOD_EXHAUSTED d.port

/-- A block of 250 µs moves the gain code (R169). -/
def agc (p clipped below : Nat) (s : State) : State :=
  let ctrl := s.regI Reg.RFX_PORT_CTRL p
  let ref := s.regI Reg.RFX_RX_GAIN_REF p
  let cfg := s.regI Reg.RFX_AGC_CFG p
  let x := s.rfPort p
  if !bitAt ctrl 3 then s.setGain p (field ctrl 18 16)
  else if max 1 (field cfg 7 0) ≤ clipped then
    (s.modPort p (fun x => { x with quietBlocks := 0 })).setGain p (min (field ref 18 16) (x.gain + 1))
  else if field ref 15 12 + 6 < below then
    if 4 * field cfg 15 8 ≤ x.quietBlocks + 1 then (s.modPort p (fun x => { x with quietBlocks := 0 })).setGain p (x.gain - 1)
    else s.modPort p (fun x => { x with quietBlocks := x.quietBlocks + 1 })
  else s.modPort p (fun x => { x with quietBlocks := 0 })

/-- OVERLOAD holds for the 40 blocks after one that clipped at GAIN_MAX; each change is noticed, and the frames in reception carry the flag
(R169, R177). -/
def overloadStep (p clipped gainBefore : Nat) (s : State) : State :=
  let hit := decide (max 1 (field (s.regI Reg.RFX_AGC_CFG p) 7 0) ≤ clipped) && gainBefore == field (s.regI Reg.RFX_RX_GAIN_REF p) 18 16
  let was := (s.rfPort p).overload
  let s := s.modPort p (fun x => { x with overload := if hit then 40 else x.overload - 1, clipped := clipped })
  let now := (s.rfPort p).overload
  let s := if now = 0 then s else s.setRfx (fun r => { r with rx := r.rx.map (fun y => if y.port == p then { y with overload := true } else y) })
  if was = 0 ∧ now ≠ 0 then s.rfNotice p 5 0
  else if was ≠ 0 ∧ now = 0 then s.rfNotice p 6 0
  else s

/-! #### Launches (R172 to R174) -/

/-- Why a launch is refused (R172): 0 PORT_DOWN, 1 NO_CHANNEL, 2 CH_BUSY, 3 DUTY, 4 LATE. -/
def txChannels (s : State) (p : Nat) : Nat :=
  match field (s.regI Reg.RFX_PORT_CTRL p) 5 4 with | 0 => 1 | 1 => 2 | _ => 4

/-- The lowest-numbered free transmit channel of a port. -/
def freeSlot (s : State) (p : Nat) : Option Nat :=
  (List.range (s.txChannels p)).find? (fun k => !s.rfAir.any (fun t => t.port == p && t.slot == k))

/-- The preamble bits the part sends (R167, R178). -/
def preambleBits (s : State) (p : Nat) : Nat := max 32 (min 1000 (field (s.regI Reg.RFX_PREAMBLE p) 9 0))

/-- Does the duty-cycle check admit a frame (R174)? -/
def dutyOk (s : State) (p ch us : Nat) : Bool :=
  let hit := (List.range 8).filter (fun r => s.regionHas p r ch)
  !hit.isEmpty && hit.all (fun r =>
    let k := p * 8 + r
    let lim := s.regI Reg.RFX_DC_LIMIT k
    let off := field (s.regI Reg.RFX_DC_OFF k) 15 0
    decide (s.regionUsed k + us ≤ min 10000 (field lim 15 0) * 360000)
      && (field lim 31 16 == 0 || decide (us ≤ field lim 31 16 * 1000))
      && (match s.rfx.lastEnd.get? k with | none => true | some t => decide (t + off * 1000000 ≤ s.nowNs)))

/-- Do channel and rate collide with a frame on the air (R172)? -/
def chBusy (s : State) (p ch rate : Nat) : Bool :=
  s.rfAir.any (fun t => t.port == p && (t.ch == ch || (chDist t.ch ch == 1 && (rate == 3 || t.rate == 3))))

/-- Why a launch is refused now, or none (R172). Rate 3 goes out on even channels only (R167); DESIGN CHOICE (log entry 133): on an odd one it
finds no channel. -/
def rfRefusal (s : State) (p ch rate len instant : Nat) : Option Nat :=
  if !bitAt (s.regI Reg.RFX_PORT_CTRL p) 1 || !(s.rfPort p).framed || !(s.rfPort p).clk || (s.rfPort p).down then some 0
  else if (s.freeSlot p).isNone || (rate == 3 && ch % 2 == 1) then some 1
  else if s.chBusy p ch rate then some 2
  else if !s.dutyOk p ch (onAirUs (s.preambleBits p) len rate) then some 3
  else if instant < s.nowNs then some 4
  else none

/-- Counts a refusal in its byte of TX_REFUSED (R178). -/
def countRefusal (p why : Nat) (s : State) : State :=
  let k := min why 3
  let w := s.regI Reg.RFX_TX_REFUSED p
  s.setRegI Reg.RFX_TX_REFUSED p (putField w (8 * k + 7) (8 * k) (min 255 (field w (8 * k + 7) (8 * k) + 1)))

/-- TXEN goes high (R162): 8 µs before the first ramp sample, which the launch shows. -/
def txenUp (p : Nat) (s : State) : State :=
  if (s.rfPort p).txen then s else (s.modPort p (fun x => { x with txen := true })).emit (.pin (9 + p) true)

/-- A channel's attenuation below full scale in 0.01 dB (R173). -/
def txAtt (s : State) (p : Nat) : Nat :=
  (match s.txChannels p with | 1 => 0 | 2 => 602 | _ => 1204) + 50 * field (s.regI Reg.RFX_TX_ATT p) 5 0

/-- Does the part whiten a frame it sends (R167)? The manual leaves it open: a free value (log entry 104). -/
def whitens (ref : Nat) : Bool := Config.unstated 11 ref 0 % 2 == 1

/-- A component of the first ramp sample that a launch puts on the transmit group (R163, R173): the manual gives no shape of the ramp, so it
is a free value of full-scale range (log entry 104). -/
def rampSample (ref component : Nat) : Int := (Config.unstated 14 ref component % 65536 : Nat) - 32768

/-- A frame goes on the air or is refused (R162, R167, R172 to R174); the second component is the reason of a refusal. -/
def rfLaunch (ref p ch rate instant : Nat) (psdu : Bytes) (s : State) : State × Option Nat :=
  match s.rfRefusal p ch rate psdu.length instant with
  | some why => (s.countRefusal p why, some why)
  | none =>
    let lead := s.preambleBits p
    let us := onAirUs lead psdu.length rate
    let gone := s.rfx.rx.filter (fun r => r.port == p && (!s.fdx p || decide (chDist r.ch ch ≤ s.fdxGuard p)))
    let s := gone.foldl (fun s _ => s.bumpI Reg.RFX_RX_ABORT_TX p) s
    let hit := s.regionsOf p ch
    let x : RfTx :=
      { ref := ref, port := p, slot := (s.freeSlot p).getD 0, ch := ch, rate := rate, startNs := instant, onTime := us, preamble := lead
        regions := hit }
    let s := (s.txenLook p).setRfx (fun r => { r with
      rx := r.rx.filter (fun y => !gone.contains y), tx := r.tx ++ [x], ending := r.ending.filter (fun e => decide (s.nowNs < e.2)) })
    let air : RfAir :=
      { rate := rate, slot := x.slot, att := s.txAtt p, start := instant - field (s.regI Reg.RFX_RX_TX_DELAY p) 31 16
        bits := airBits lead rate (whitens ref) psdu, first := sampleEdges (rampSample ref 0) (rampSample ref 1) }
    (((s.charge true 0 hit p ch us).txenUp p).emit (.rfFrame p ch psdu air), none)

/-- A launch of the part's own passes TIM's queue and goes out at its instant (R31, R172, R443). -/
def rfPass (ref p ch rate instant : Nat) (psdu : Bytes) (s : State) : State :=
  s.passLaunch (1 + 4 * p + (s.freeSlot p).getD 0) instant 6 ref (fun s => (s.rfLaunch ref p ch rate instant psdu).1)

/-- Has a launch of the part's own on a port come up (R31, R173)? -/
def rfDue (s : State) (p instant : Nat) : Bool := s.dueAt (1 + 4 * p) instant

/-- The earliest launch instant on a port: its first sample leaves the pins now (R173, R176). -/
def rfSoon (s : State) (p : Nat) : Nat := s.nowNs + s.laneDelay (1 + 4 * p)

/-- The time in ns from the launch instant of a frame to its first sync bit (R167, R181). -/
def syncLead (s : State) (p rate : Nat) : Nat := s.preambleBits p * bitNs rate + 8000

/-- A new bucket of a region or channel begins and the oldest leaves the window (R174). -/
def rollBuckets (l : List Nat) : List Nat := (0 :: l).take 60

/-- The duty state as DUSK saves it into backup SRAM (R173, R175): a frame that DUSK cuts short is refunded first. -/
def dutySave (s : State) : State := { s with aon := { s.aon with duty := some (s.aon.rtcSec, s.cutRf.rfx.buckets) } }

/-- The duty state at DAWN (R175): restored and aged by the whole minutes elapsed, or lost. -/
def dutyRestore (ok : Bool) (s : State) : State :=
  match (if ok then s.aon.duty else none) with
  | some (t, b) =>
    let n := s.aon.rtcSec / 60 - t / 60
    s.setRfx (fun r => { r with buckets := b.mapVals (fun _ l => (List.replicate (min n 60) 0 ++ l).take 60) })
  | none =>
    [0, 1].foldl (fun s p =>
      let cold := bitAt (s.regI Reg.RFX_PORT_CTRL p) 6
      let b := (List.range 8).foldl (fun (t : Tab (List Nat)) k =>
        let i := p * 8 + k
        if cold && bitAt (s.regI Reg.RFX_DC_RANGE i) 15 then t.put i [min 10000 (field (s.regI Reg.RFX_DC_LIMIT i) 15 0) * 360000]
        else t.del i) s.rfx.buckets
      let s := s.setRfx (fun r => { r with buckets := b })
      (s.modPort p (fun x => { x with dutyLost := true })).rfNotice p 9 0) s

end State

/-- RF_CLOCK_LOSS (R164, R177). -/
def execRfClockLoss (port : Nat) (s : State) : R :=
  .next (if 2 ≤ port || !(s.rfPort port).clk then s
    else (((s.modPort port (fun x => { x with clk := false })).abandonRx port).cutTx port).rfNotice port 1 0)

/-- RF_CLOCK_RETURN (R164, R177). -/
def execRfClockReturn (port : Nat) (s : State) : R :=
  .next (if 2 ≤ port || (s.rfPort port).clk || s.shut (21 + port) then s else (s.modPort port (fun x => { x with clk := true })).rfNotice port 2 0)

/-- RF_FRAMING_LOSS (R163, R164, R173, R177): a word whose RXFRM pattern is wrong, or a crossing FIFO that overruns or starves. -/
def execRfFramingLoss (w : FramingIn) (s : State) : R :=
  let port := w.port
  .next (if 2 ≤ port || !(s.rfPort port).framed || (framedWord w.edges && !w.fifo) then s
    else (((s.modPort port (fun x => { x with framed := false })).abandonRx port).cutTx port).rfNotice port 3 0)

/-- RF_FRAMING_RESTORE (R163, R164, R177): 16 consecutive correct words. -/
def execRfFramingRestore (w : FramingIn) (s : State) : R :=
  let port := w.port
  .next (if 2 ≤ port || (s.rfPort port).framed || s.shut (21 + port) || !framedWords 16 w.edges || w.fifo then s else (s.modPort port (fun x => { x with framed := true })).rfNotice port 4 0)

/-- RF_SYNC_DETECT (R168, R171, R176): at least 16 preamble bits, SYNC_ERR and ±30 kHz make a detection. -/
def execRfSyncDetect (d : SyncIn) (s : State) : R :=
  .next (
    if 2 ≤ d.port || 128 ≤ d.ch || !s.rxOn d.port || s.rfBlanked d.port d.ch then s
    else if d.preamble < 16 || field (s.regI Reg.RFX_SYNC_CFG d.port) 1 0 < d.errors || 300 < d.cfo.natAbs then s
    else s.detect d)

/-- RF_PHR_DECISION (R167, R168). -/
def execRfPhrDecision (id phr : Nat) (s : State) : R :=
  .next (if !s.begun 5 then s else match s.rfx.rx.find? (fun r => r.id == id) with
    | none => s
    | some x => match rfPhrOf phr x.rate x.ch with
      | none => (s.setRfx (fun r => { r with rx := r.rx.erase x })).bumpI Reg.RFX_PHR_FAIL x.port
      | some p => s.setRfx (fun r => { r with rx := r.rx.map (fun y => if y.id == id then { y with phr := some p } else y) }))

/-- RF_FRAME_END (R167, R168, R171, R176): the PSDU goes to MSH and FSE, and the demodulator returns. -/
def execRfFrameEnd (id : Nat) (psdu : Bytes) (s : State) : R :=
  .next (if !s.begun 5 then s else match s.rfx.rx.find? (fun r => r.id == id) with
    | none => s
    | some x => match x.phr with
      | none => s
      | some (len, w) =>
        let b := fit len psdu
        let b := if w then whiten b else b
        let f : RxFrame :=
          { path := 1 + x.port, radio := true, bytes := b, rts := x.rts, chans := x.ch, lq := x.rssi
            overload := x.overload || (s.rfPort x.port).overload != 0, zcFallback := false, ie := s.dev.nc
            endNs := s.nowNs - (40224 + 4 * bitNs x.rate), fcsBad := fcsFails b, rate := x.rate, cfo := x.cfo }
        let s := s.setRfx (fun r => { r with rx := r.rx.erase x })
        let s : State := { s with msh := { s.msh with inbox := s.msh.inbox ++ [f] } }
        (s.bumpI Reg.RFX_FRAMES_OK x.port).bumpI Reg.RFX_CH_FRAMES (x.port * 128 + x.ch))

/-- RF_AGC_BLOCK (R163, R169, R177): the words of the block on the receive group, whose samples at full scale are counted, and its peak in
dB below full scale. -/
def execRfAgcBlock (port : Nat) (block : List PortEdge) (below : Nat) (s : State) : R :=
  .next (if 2 ≤ port || !s.rxOn port then s
    else
      let clipped := clippedIn block
      let g := (s.rfPort port).gain
      (s.agc port clipped below).overloadStep port clipped g)

/-- RF_JAM_START (R170, R177): power above JAM_LEVEL for JAM_MS, with no valid sync detection in that time. -/
def execRfJamStart (port : Nat) (j : JamIn) (s : State) : R :=
  .next (
    let w := s.regI Reg.RFX_JAM_CFG port
    let quiet := match s.rfx.lastSync.get? (port * 128 + j.ch) with
      | some t => decide (t + field w 31 16 * 1000000 ≤ s.nowNs)
      | none => true
    if 2 ≤ port || 128 ≤ j.ch || (s.rfPort port).jammed.contains j.ch || decide (field w 7 0 ≤ j.below) || decide (j.ms < field w 31 16)
        || !quiet then s
    else (s.modPort port (fun x => { x with jammed := j.ch :: x.jammed })).rfNotice port 7 j.ch)

/-- RF_JAM_CLEAR (R170, R177): 100 ms below JAM_LEVEL. -/
def execRfJamClear (port : Nat) (j : JamIn) (s : State) : R :=
  .next (if (s.rfPort port).jammed.contains j.ch && decide (field (s.regI Reg.RFX_JAM_CFG port) 7 0 < j.below) && decide (100 ≤ j.ms) then
      (s.modPort port (fun x => { x with jammed := x.jammed.erase j.ch })).rfNotice port 8 j.ch
    else s)

/-- DUTY_BUCKET_ROLL (R174). -/
def execDutyBucketRoll (s : State) : R :=
  .next (s.setRfx (fun r => { r with
    buckets := r.buckets.mapVals (fun _ l => State.rollBuckets l), chanTime := r.chanTime.mapVals (fun _ l => State.rollBuckets l)
    tx := r.tx.map (fun x => { x with age := x.age + 1 }) }))

end Sys2Proof.Machine
end

