-- ==== Sys2Proof/Machine/MshOps.lean ====
section
/-! DEFINITION. What the mesh meanings share: the slot map and R183, the forming of frames, the send queue, launches and their
outcomes, ACKs, piggyback windows, assignments and guard times (R180 to R211). -/
set_option Elab.async false
namespace Sys2Proof.Machine

/-- What an occurrence of a slot permits (R182). -/
inductive SlotType where
  | beacon | shared | flood | night | quiet
  deriving DecidableEq, Repr

/-- Does an occurrence rule (P, PHASE) name an interval (R201)? -/
def occurs (p phase bin : Nat) : Bool := (bin + 2 ^ p - phase % 2 ^ p) % 2 ^ p == 0

/-- The nonce address and length figures of a radio frame in bytes (R188). -/
def mshLen (relays : Nat) (sec : Bool) (body miclen : Nat) : Nat :=
  26 + 8 * relays + (if sec then 8 + micBytes miclen else 0) + body + 8

/-- Bytes 0 to the end of SECHDR of a link frame of the part, NSEQ and SYNC_AGE as they go out (R188). -/
def mshHead (x : MshSend) (netId src : Nat) (fpend : Bool) : Bytes :=
  le 1 (x.typ + 8 * bitN x.sec + 16 * bitN x.ackreq + 32 * bitN fpend + 128)
    ++ le 1 (x.route.length + 64 * (if x.sec then x.miclen else 0)) ++ le 2 netId ++ le 4 x.nseq ++ zeros 1 ++ le 1 x.ttl
    ++ le 8 x.dst ++ le 8 src ++ x.route.flatMap (le 8) ++ (if x.sec then le 1 x.keyref ++ zeros 3 ++ le 4 x.fcnt else [])

/-- A link frame of the part that has no HTAG yet, finished by its HTAG and FCS (R188, R194). -/
def finishMsh (k : KeySnap) (src nseq : Nat) (b : Bytes) : Bytes :=
  let c := b ++ hopTag k src nseq b
  c ++ le 4 (crc32c c)

/-- An assignment's frequency in kHz (R165, R202). -/
def freqKhz (center ch : Nat) : Nat := center + 200 * ch - 12700

/-- Is this ACK the one that a received frame may owe (R198)? -/
def MshAck.owedFor (a : MshAck) (f : RxFrame) : Bool :=
  let l := mshLinkOf f.bytes
  a.dst == l.hopSrc && a.nseq == l.nseq && a.rts == f.rts && a.port + 1 == f.path && a.ch == f.chans

/-- Does an attempt of a send go at its stated time (R209)? Its retries take the opportunities of R199. -/
def MshSend.stated (x : MshSend) : Bool := x.when' == 3 && x.phase != .retry

/-- Is a value in a list of runs? -/
def inBinRuns (v : Nat) (l : List (Nat × Nat)) : Bool := l.any (fun r => decide (r.1 ≤ v) && decide (v ≤ r.2))

/-- A value joins a list of runs, the latest first. -/
def addBinRun (v : Nat) : List (Nat × Nat) → List (Nat × Nat)
  | (a, b) :: t => if b + 1 = v then (a, v) :: t else (v, v) :: (a, b) :: t
  | [] => [(v, v)]

namespace State

/-- Changes MSH. -/
def setMsh (f : Msh → Msh) (s : State) : State := { s with msh := f s.msh }

/-- An MSH notice (R211). -/
def mshNotice (inst endpoint reason cmd id collector : Nat) (s : State) : State :=
  s.eventFor inst (le 3 endpoint ++ le 1 reason ++ le 1 cmd ++ le 2 id ++ le 8 collector)

/-! #### The slot map (R182, R183) -/

/-- K in force at an interval (R209). -/
def kAt (s : State) (bin : Nat) : Nat :=
  match s.msh.kNext with
  | some (k, b) => if b ≤ bin then k else s.msh.cfg.k
  | none => s.msh.cfg.k

/-- The map in force at an interval, and its MAP_VERSION (R182, R186). -/
def mapAt (s : State) (bin : Nat) : Bytes × Nat :=
  match s.msh.mapNext with
  | some (m, first) => if first ≤ bin then (m, (s.msh.mapVersion + 1) % 65536) else (s.msh.map, s.msh.mapVersion)
  | none => (s.msh.map, s.msh.mapVersion)

/-- The first BIN of the next superframe (R179, R182). -/
def nextSuper (s : State) : Nat := let bin := binOf s.asn; (bin / 2 ^ s.kAt bin + 1) * 2 ^ s.kAt bin

/-- A map's two bits of a slot of an interval of the superframe (R182); without a map every slot is SHARED. -/
def mapBits (map : Bytes) (i slot : Nat) : Nat := byteAt map (256 * i + slot / 4) / 4 ^ (slot % 4) % 4

/-- The type of an absolute slot (R182). -/
def slotType (s : State) (asn : Nat) : SlotType :=
  let bin := binOf asn
  let slot := slotOf asn
  if slot < s.msh.cfg.beaconSlots then .beacon
  else match mapBits (s.mapAt bin).1 (bin % 2 ^ s.kAt bin) slot with
    | 0 => .shared
    | 1 => .flood
    | 2 => .night
    | _ => .quiet

/-- The start of the present interval in ns (R179). -/
def intervalNs (s : State) : Nat := binOf s.asn * 1024000000

/-- The beacon configuration an interval that starts at an instant takes (R210). -/
def beaconAt (s : State) (ns : Nat) : BeaconCfg :=
  match s.msh.beaconNext with
  | some (b, t) => if t ≤ ns then b else s.msh.beacon
  | none => s.msh.beacon

/-- The beacon channel of a port, where it beacons. -/
def beaconCh (s : State) (port : Nat) : Option Nat :=
  let b := s.beaconAt s.intervalNs
  if b.en && bitAt b.ports port then some (if port = 0 then b.chA else b.chB) else none

/-- Is a channel of a port free of UPLINK assignments in a slot (R183)? -/
def uplinkFree (s : State) (port ch asn : Nat) : Bool :=
  s.msh.assigns.all (fun a =>
    !(a.kind == 0 && a.port == port && occurs a.p a.phase (binOf asn) && decide (a.slot ≤ slotOf asn) && decide (slotOf asn < a.slot + a.span)
      && (!s.fdx port || decide (chDist a.ch ch ≤ s.fdxGuard port))))

/-- Does an agreement occur in a slot (R202)? -/
def nightIn (n : Night) (asn : Nat) : Bool := n.slot == slotOf asn && occurs n.p n.phase (binOf asn)

/-- Is a channel of a port the agreed channel of some agreement in a slot (R182)? -/
def agreed (s : State) (port ch asn : Nat) : Bool :=
  s.msh.nights.any (fun e => e.2.port == port && e.2.ch == ch && nightIn e.2 asn)

/-- Does a slot permit a frame of the part (R182, R183)? `flood` says that it is a flood on the port's beacon channel, `night` under which agreement it goes. -/
def slotPermits (s : State) (port ch : Nat) (flood : Bool) (night : Option Night) (asn : Nat) : Bool :=
  let onBeacon := s.beaconCh port == some ch
  s.uplinkFree port ch asn && (match s.slotType asn with
    | .beacon => false
    | .quiet => false
    | .shared => !flood
    | .flood => flood || !onBeacon
    | .night => !flood && (night.any (nightIn · asn) || !s.agreed port ch asn))

/-- Does R183 let a frame occupy the time from one instant to another, in ns? -/
def framePermits (s : State) (port ch : Nat) (flood : Bool) (night : Option Night) (start stop : Nat) : Bool :=
  let a := start / 1000000
  let b := (stop - 1) / 1000000
  (List.range (b + 1 - a)).all (fun k => s.slotPermits port ch flood night (a + k))
    && (s.beaconCh port != some ch || decide (stop + 1000000 ≤ (binOf a + 1) * 1024000000))

/-- May an ACK or piggyback frame occupy the time from one instant to another, in ns (R184)? -/
def ackSlotOk (s : State) (port ch start stop : Nat) : Bool :=
  let a := start / 1000000
  let b := (stop - 1) / 1000000
  let onBeacon := s.beaconCh port == some ch
  (List.range (b + 1 - a)).all (fun k => let t := s.slotType (a + k); t != .quiet && !(onBeacon && t == .beacon))
    && !(onBeacon && decide ((binOf a + 1) * 1024000000 < stop + 1000000))

/-! #### Guard times (R203, R204) -/

/-- g of an endpoint's agreement now, in ns; none while LAST_SYNC is unknown. -/
def guardNs (s : State) (i drift : Nat) : Option Nat :=
  let t := (s.ctx i).lastSync
  if t = 0 then none else some (2 * drift * (s.nowNs - nsOf t) / 1000000 + 120000)

/-- LAST_SYNC is raised to a device time in ns (R204). -/
def raiseSync (i ns : Nat) (s : State) : State :=
  let t := tsOf ns
  if t ≤ (s.ctx i).lastSync then s
  else (s.modCtx i (fun x => { x with lastSync := t })).setMsh (fun m => { m with nights := m.nights.adj i (fun n => { n with skipped := false }) })

/-! #### Sends -/

/-- A send by its identity. -/
def mshSendOf (s : State) (id : Nat) : Option MshSend := s.msh.sends.find? (fun x => x.id == id)

/-- Changes a send. -/
def modMsh (id : Nat) (f : MshSend → MshSend) (s : State) : State :=
  s.setMsh (fun m => { m with sends := m.sends.map (fun x => if x.id == id then f x else x) })

/-- Appends a send under a new identity. -/
def queueMsh (x : MshSend) (s : State) : State :=
  s.setMsh (fun m => { m with sends := m.sends ++ [{ x with id := m.nextId }], nextId := m.nextId + 1 })

/-- A send is over: its command completes, a MACCMD acknowledged or failed after RETRY_MAX is noticed, and the send is gone (R209, R211). -/
def endMsh (id status lq : Nat) (s : State) : State :=
  match s.mshSendOf id with
  | none => s
  | some x =>
    let s := s.setMsh (fun m => { m with sends := m.sends.filter (fun y => y.id != id), piggy := m.piggy.filter (fun p => p.send != id) })
    let s := match x.cmd with
      | some c =>
        if x.typ = 3 then s.replyWith c status (x.floodId + (x.sent.foldl (fun a e => a + e.2) 0) % 16 * 2 ^ 16) 0
        else s.replyWith c status (x.attempts % 256 + x.port * 2 ^ 8 + x.ch * 2 ^ 9) lq
      | none => s
    match x.ep with
    | some i => if x.typ = 4 ∧ (status = St.ok ∨ status = 0x0611) then
        s.mshNotice (s.ctx i).inst i (if status = St.ok then 1 else 2) x.macCmd x.macId 0 else s
    | none => s

/-- Where an endpoint's frames go: its home port, channel and rate (R201, R238). -/
def homeOf (x : Ctx) : Nat × Nat × Nat := (x.homePort, x.homeCh, x.homeRate)

/-- The first hop of a send's route: the relay it names first, or its destination. -/
def mshHop (x : MshSend) : Nat := x.route.headD x.dst

/-- The ROUTE of a downlink: the last accepted uplink's in reverse (R191). -/
def downRoute (s : State) (x : MshSend) : List Nat :=
  match x.ep with
  | some i => let c := s.ctx i; if c.upRelays = 0 then [] else c.upRoute.reverse
  | none => []

/-- The context of the receiver of a send's hop from the part (R141, R182): its first relay, or its endpoint. -/
def hopCtx (s : State) (x : MshSend) : Ctx :=
  match s.epOf (mshHop { x with route := if x.sealed then x.route else s.downRoute x }) with
  | some (_, c) => c
  | none => match x.ep with | some i => s.ctx i | none => {}

/-- Queues a MACCMD to an endpoint (R202), sealed under KEYREF 1 with an 8-byte MIC. -/
def queueMac (i code id : Nat) (params : Bytes) (s : State) : State :=
  let x : MshSend := { id := 0, ep := some i, typ := 4, dst := (s.ctx i).eui, body := le 1 code ++ params, ackreq := true, sec := true
                       keyref := 1, miclen := 1, macCmd := code, macId := id }
  let h := homeOf (s.hopCtx x)
  s.queueMsh { x with port := h.1, ch := h.2.1, rate := h.2.2 }

/-! #### Sequence numbers and hop tags (R192, R194) -/

/-- Draws a unicast NSEQ toward a neighbour (R192); none where the counter is spent or the neighbour has no context. -/
def drawNseq (i : Nat) (s : State) : Option Nat × State :=
  match s.epAt i with
  | none => (none, s)
  | some x =>
    let v := s.drawValue Ctr.txNseq i x.txNseq
    if 0xFFFFFFFF ≤ v then (none, s) else (some v, (s.setCtx i { x with txNseq := v + 1 }).drewCounter Ctr.txNseq i v)

/-- Makes the ceiling 65 536 above a multiple of 65 536 durable, unless that write is under way (R197). -/
def raiseCeiling (v : Nat) (s : State) : State :=
  if s.ing.jobs.any (fun j => match j.2 with | .bcast _ => true | _ => false) then s
  else s.startJob (.bcast (v + 65536))

/-- Does the draw of a value wait for a durable ceiling (R197)? -/
def needsCeiling (s : State) (v : Nat) : Bool := v % 65536 == 0 && decide (s.msh.bcastCeil < v + 65536)

/-- Draws a broadcast NSEQ (R192, R197): none until it is restored, when it is spent, or while the ceiling that a multiple of 65 536 needs
is not durable. -/
def drawBcast (s : State) : Option Nat × State :=
  let v := s.drawValue Ctr.bcast 0 s.msh.bcast
  if !s.msh.restored || decide (0xFFFFFFFF ≤ v) then (none, s)
  else if s.needsCeiling v then (none, s.raiseCeiling v)
  else
    let s := (s.setMsh (fun m => { m with bcast := v + 1 })).drewCounter Ctr.bcast 0 v
    let s : State := if v % 65536 = 0 then { s with aon := { s.aon with bcast := some v } } else s
    (some v, if s.needsCeiling (v + 1) then s.raiseCeiling (v + 1) else s)

/-- The key of an outbound HTAG (R194): the neighbour's link key, or the network hop key. -/
def tagKeyOut (hop : Option Ctx) (s : State) : KeyRes × State :=
  let p : Option (Nat × Nat) := match hop with
    | some x => (placeOf x.keyset x.inst 0).map (fun q => (q, x.inst))
    | none => if 0x80 ≤ s.msh.cfg.hopKeyref then (placeOf 0 s.msh.cfg.hopInst s.msh.cfg.hopKeyref).map (fun q => (q, s.msh.cfg.hopInst)) else none
  let ref := match hop with | some _ => 0 | none => s.msh.cfg.hopKeyref
  let (k, _, s) := s.lookupKey p
  (match k with
    | .ok y => if tagUsage ref y.usage && y.mode == 0 then k else .absent
    | _ => k, s)

/-- The status of a key that cannot be had (R196). -/
def keyStatus : KeyRes → Nat
  | .orphaned => St.keyOrphaned
  | _ => St.keyAbsent

/-- The whole PSDU of a unicast attempt with a fresh NSEQ (R192, R194, R196), or the status the send fails with; a hop key that cannot be
resolved counts as a failed seal (R232). -/
def unicastPsdu (x : MshSend) (fpend : Bool) (s : State) : (Nat ⊕ (Bytes × Nat)) × State :=
  match s.epOf (mshHop x) with
  | none => (.inl St.keyAbsent, s.bump Reg.FSE_TX_SEAL_FAIL)
  | some (i, c) =>
    let (k, s) := s.tagKeyOut (some c)
    match k with
    | .ok key =>
      match s.drawNseq i with
      | (none, s) => (.inl St.keyAbsent, s)
      | (some n, s) =>
        let head := mshHead { x with nseq := n } s.msh.cfg.netId s.msh.cfg.netEui fpend
        (.inr (finishMsh key s.msh.cfg.netEui n (head ++ x.sealedBody), n), s)
    | r => (.inl (keyStatus r), s.bump Reg.FSE_TX_SEAL_FAIL)

/-- The whole PSDU of a broadcast frame with a fresh NSEQ (R192, R194, R196), or the status its send fails with; none while no value can
be drawn. -/
def bcastPsdu (x : MshSend) (s : State) : Option (Nat ⊕ (Bytes × Nat)) × State :=
  let (k, s) := s.tagKeyOut none
  match k with
  | .ok key =>
    match s.drawBcast with
    | (none, s) => (none, s)
    | (some n, s) =>
      let head := mshHead { x with nseq := n } s.msh.cfg.netId s.msh.cfg.netEui false
      (some (.inr (finishMsh key s.msh.cfg.netEui n (head ++ x.sealedBody), n)), s)
  | r => (some (.inl (keyStatus r)), s.bump Reg.FSE_TX_SEAL_FAIL)

/-! #### Piggyback windows (R200) -/

/-- The first frame a piggyback window to an endpoint may carry (R200, R210): its seal comes 300 µs before its launch. -/
def piggyFor (s : State) (i : Nat) : Option MshSend :=
  s.msh.sends.find? (fun x => x.ep == some i && !x.tunnel && (x.typ == 0 || x.typ == 4) && (x.when' == 0 || x.when' == 2 || (x.when' == 3 && x.phase == .retry))
    && (x.phase == .ready || x.phase == .retry))

/-- On-air time in ns of a frame of the part, its ramps included (R167, R173). -/
def airNs (s : State) (port len rate : Nat) : Nat := 1000 * onAirUs (s.preambleBits port) len rate

/-- The length of the next attempt of a send (R188, R191). -/
def attemptLen (s : State) (x : MshSend) : Nat :=
  mshLen (if x.sealed then x.route else s.downRoute x).length x.sec x.body.length x.miclen

/-- Launch instant and end of a piggyback frame whose preamble starts at an instant (R173, R200). -/
def piggySpan (s : State) (x : MshSend) (port rate preamble : Nat) : Nat × Nat :=
  (preamble - 8000, preamble - 8000 + s.airNs port (s.attemptLen x) rate)

/-- The frame to announce by FPEND in a frame to an endpoint, where the window's preamble starts 2 000 µs after an instant (R184, R200). -/
def announce (s : State) (i port ch rate after : Nat) : Option MshSend :=
  match s.piggyFor i with
  | none => none
  | some x => let w := s.piggySpan x port rate (after + 2000000); if s.ackSlotOk port ch w.1 w.2 then some x else none

/-! #### Launches (R172, R199, R209) -/

/-- The attempt goes on the air. -/
def mshOnAir (x : MshSend) (nseq instant port ch rate len : Nat) (fpend : Bool) (s : State) : State :=
  s.modMsh x.id (fun y => { y with
    started := true, attempts := y.attempts + 1, nseq := nseq, port := port, ch := ch, rate := rate, launchNs := instant
    endNs := instant + s.airNs port len rate, phase := .onAir, fpend := fpend })

/-- RFX has refused the launch of a send (R172, R209): PORT_DOWN, DUTY and LATE end it; another channel in use makes it wait, or
ends it LATE where its time was stated. -/
def mshRefused (x : MshSend) (why : Nat) (s : State) : State :=
  match why with
  | 0 => s.endMsh x.id 0x0614 0
  | 3 => s.endMsh x.id 0x0613 0
  | 4 => s.endMsh x.id 0x0612 0
  | _ => if x.stated then s.endMsh x.id 0x0612 0 else s

/-- The last bit of the ACK that a frame which ends at an instant brings (R190, R198). DEDUCED (log entry 107): with a preamble as long as
the part's own. -/
def ackEnd (s : State) (port rate stop : Nat) : Nat := stop - 8000 + 1000000 + (s.preambleBits port + 40 + 8 * 46) * bitNs rate

/-- The PSDU of a unicast attempt on a port, channel and rate at a launch instant, with the send marked as on the air; none where it
does not go out. `piggy` says that the frame may announce another. A secured frame not yet sealed ends LATE; without a permit a frame
waits for another opportunity, or ends LATE where its time was stated (R32, R196, R209). -/
def formUnicast (x : MshSend) (port ch rate instant : Nat) (piggy : Bool) (s : State) : State × Option Bytes :=
  if x.sec && !x.sealed then (s.endMsh x.id 0x0612 0, none)
  else if !s.permits then (if x.stated then s.endMsh x.id 0x0612 0 else s, none)
  else
    let x : MshSend := if x.sec then x else { x with sealedBody := x.body, route := s.downRoute x }
    let len := mshLen x.route.length x.sec x.body.length x.miclen
    let fp := piggy && (match x.ep with
      | some i => ((s.modMsh x.id (fun y => { y with phase := .onAir })).announce i port ch rate
          (s.ackEnd port rate (instant + s.airNs port len rate))).isSome
      | none => false)
    match s.rfRefusal port ch rate len instant with
    | some why => ((s.countRefusal port why).mshRefused x why, none)
    | none =>
      match s.unicastPsdu x fp with
      | (.inl status, s) => (s.endMsh x.id status 0, none)
      | (.inr (b, n), s) =>
        ((s.modMsh x.id (fun y => { y with sealedBody := x.sealedBody, route := x.route })).mshOnAir x n instant port ch rate b.length fp, some b)

/-- A unicast attempt of the part's own choosing passes TIM's queue and goes out at its launch instant (R31, R172). The Boolean says that it
went on the air. -/
def sendUnicast (x : MshSend) (port ch rate instant : Nat) (piggy : Bool) (s : State) : State × Bool :=
  if !s.rfDue port instant then (s, false)
  else match s.formUnicast x port ch rate instant piggy with
    | (s, none) => (s, false)
    | (s, some b) => (s.rfPass x.id port ch rate instant b, true)

/-- A unicast attempt as a piggyback frame or in a night slot, counted where it goes on the air (R200, R212). -/
def countedSend (x : MshSend) (port ch rate instant : Nat) (piggy : Bool) (s : State) : State :=
  match s.sendUnicast x port ch rate instant piggy with
  | (s, true) => if piggy then s.bump Reg.MSH_PIGGY_TX else s.bump Reg.MSH_NIGHT_TX
  | (s, false) => s

/-- A frame of a send has left the medium whole (R199, R209). -/
def mshSent (id : Nat) (s : State) : State :=
  match s.mshSendOf id with
  | none => s
  | some x =>
    if x.orphan then (s.setMsh (fun m => { m with sends := m.sends.filter (fun y => y.id != id) })).sunk (s.ctx (x.ep.getD 0)).inst
    else if x.typ = 3 then
      let total := x.repeats * (bitN (bitAt x.ports 0) + bitN (bitAt x.ports 1))
      if s.rfx.tx.any (fun t => t.ref == id) then s
      else if total ≤ x.sent.foldl (fun a e => a + e.2) 0 then s.endMsh id St.ok 0 else s.modMsh id (fun y => { y with phase := .gap })
    else if x.ackreq then s.modMsh id (fun y => { y with phase := .await })
    else s.endMsh id St.ok 0

/-- An attempt has failed for want of an ACK (R199): retry n waits a random 1 to 2^n slots, and a send of WHEN 1 whose agreement has been
cleared ends (R210). DEDUCED (log entry 107): the wait runs from
the failure. -/
def mshNoAck (x : MshSend) (s : State) : State :=
  let s := s.bump Reg.MSH_NO_ACK
  if x.when' = 1 ∧ !(x.ep.any s.msh.nights.has) then s.endMsh x.id 0x0610 0
  else if s.msh.cfg.retryMax < x.attempts then s.endMsh x.id 0x0611 0
  else (s.modMsh x.id (fun y => { y with phase := .retry, retryAsn := s.asn + 1 + s.drawFree % 2 ^ x.attempts })).drawn

/-! #### Verdicts (R191, R198, R204, R206, R231) -/

/-- The seen-message cache takes a flood's key, evicting its oldest at 65 536 (R206). -/
def seenInsert (src floodId : Nat) (s : State) : State :=
  let full := decide (65536 ≤ s.msh.seen.length)
  let s := if full then s.bump Reg.MSH_SEEN_EVICT else s
  s.setMsh (fun m => { m with seen := (if full then m.seen.drop 1 else m.seen) ++ [(src, floodId, s.nowNs)] })

/-- The verdict of a radio frame reaches the ACK it may owe (R198): STATUS for ACCEPT and DUPLICATE, none otherwise. -/
def mshVerdict (f : RxFrame) (status : Option Nat) (s : State) : State :=
  s.setMsh (fun m => { m with acks := m.acks.map (fun a =>
    if a.owedFor f ∧ a.status = none ∧ ¬a.refused then
      { a with status := status, refused := status.isNone, late := decide (a.instant < s.nowNs + 300000) } else a) })

/-- The reception time in ns of a frame at its medium (R204, R207): the collector's for a tunnelled one. DESIGN CHOICE (log entry 122): an
RX_TS whose nanoseconds exceed 999 999 999 is taken as the instant that its two fields sum to. -/
def heardNs (f : RxFrame) : Nat := match f.collector with | some (_, _, t) => nsOf t | none => nsOf f.rts

/-- An accepted frame moves its endpoint's home channel where none is assigned, and the synchronisation of its hop transmitter, whose
SYNC_AGE it carries (R188, R201, R204, R238). -/
def learnFrame (i : Nat) (f : RxFrame) (s : State) : State :=
  let l := mshLinkOf f.bytes
  let direct := f.path == 1 || f.path == 2
  let homed := s.msh.assigns.any (fun a => a.ep == i && a.kind == 2)
  let s := if !direct then s else s.modCtx i (fun x => { x with
    heardPort := f.path - 1, heardCh := f.chans, heardRate := f.rate
    homePort := if homed then x.homePort else f.path - 1
    homeCh := if homed then x.homeCh else f.chans
    homeRate := if homed then x.homeRate else f.rate })
  match s.epOf l.hopSrc with
  | some (j, _) => if l.syncAge = 255 then s else s.raiseSync j (heardNs f - l.syncAge * 16000000000)
  | none => s

/-- An accepted uplink gives its endpoint's route and collector (R191, R238). -/
def learnUplink (i : Nat) (f : RxFrame) (s : State) : State :=
  let l := mshLinkOf f.bytes
  let via := match f.collector with | some (c, _, _) => (s.epOf c).map Prod.fst | none => none
  s.modCtx i (fun x => { x with
    upRelays := l.relays, upRoute := l.route
    lastCollector := via.getD x.lastCollector, viaCollector := via.isSome })

/-! #### Assignments and agreements (R201, R202) -/

/-- Do the slots of a run have a type in every interval of the superframe in which the run occurs (R201, R202)? -/
def runHas (s : State) (want p phase slot span : Nat) : Bool :=
  let k := s.kAt (binOf s.asn)
  (List.range (2 ^ k)).all (fun i => !occurs (min p k) phase i || (List.range span).all (fun d => mapBits (s.mapAt (binOf s.asn)).1 i (slot + d) == want))

/-- Do two runs conflict (R201)? -/
def runsConflict (a b : Assign) : Bool :=
  a.port == b.port && occurs (min a.p b.p) (a.phase % 2 ^ min a.p b.p) b.phase && decide (a.slot < b.slot + b.span) && decide (b.slot < a.slot + a.span)
    && (a.ch == b.ch || (chDist a.ch b.ch == 1 && (a.rate == 3 || b.rate == 3)))

/-- An endpoint whose HOME assignments have gone returns to the channel of its last accepted frame (R201). -/
def homeAgain (i : Nat) (s : State) : State :=
  match (s.msh.assigns.filter (fun a => a.ep == i && a.kind == 2)).getLast? with
  | some a => s.modCtx i (fun x => { x with homePort := a.port, homeCh := a.ch, homeRate := a.rate })
  | none => s.modCtx i (fun x => { x with homePort := x.heardPort, homeCh := x.heardCh, homeRate := x.heardRate })

/-- Does an endpoint hold an agreement that its MACCMD has not confirmed, so that only piggyback frames reach it (R202)? -/
def nightPending (s : State) (i : Nat) : Bool := (s.msh.nights.get? i).any (fun n => !n.active)

/-- The lowest assignment ID an endpoint does not hold, below 4 096. -/
def freeAssign (s : State) (i : Nat) : Option Nat :=
  (List.range 4096).find? (fun n => !s.msh.assigns.any (fun a => a.ep == i && a.id == n))

/-- The centre frequency in kHz of a port's channel (R165). -/
def chFreq (s : State) (port ch : Nat) : Nat := freqKhz (s.regI Reg.RFX_CENTER_KHZ port) ch

/-- Releases what MSH holds for an endpoint (R266): assignments, agreement and waiting sends of WHEN 1. -/
def mshRelease (i : Nat) (s : State) : State :=
  s.setMsh (fun m => { m with assigns := m.assigns.filter (fun a => a.ep != i), nights := m.nights.del i })

end State
end Sys2Proof.Machine
end

