-- ==== Sys2Proof/Machine/PlcTx.lean ====
section
/-! DEFINITION. Power-line transmission and the PLC commands (R113, R115 to R117, R137, R145 to R148, R152, R157, R159 to R161). -/
set_option Elab.async false
namespace Sys2Proof.Machine
namespace State

/-- Is no earlier send to the same endpoint still unlaunched (R160)? -/
def headOfLine (s : State) (x : PlcSend) : Bool :=
  match s.plc.sends.find? (fun y => y.ep == x.ep && x.ep.isSome && !y.started) with
  | none => true
  | some y => y.id == x.id || x.started

/-- Takes the oldest fired launch of the power line from TIM (R443). -/
def takeFired (s : State) : Option (Launch × State) :=
  match s.tim.fired.find? (fun e => e.lane == 0) with
  | none => none
  | some e => some (e, { s with tim := { s.tim with fired := s.tim.fired.erase e } })

/-- A send that may not start at its instant: an ASAP frame contends again, one sent at a stated time is late. -/
def notLaunched (x : PlcSend) (s : State) : State :=
  if x.orphan then (s.dropSend x.id).sunk (s.ctx (x.ep.getD 0)).inst
  else if x.at'.isSome then s.endSend x.id 0x0613 0 else s.modSend x.id (fun y => { y with phase := .contend })

/-- A PHY refusal (R115, R128). -/
def refuseSend (x : PlcSend) (s : State) : State := (s.bump Reg.PLC_TX_REFUSED).endSend x.id 0x0612 0

/-- A frame waits under R117: deferred while the band is in use, which is counted, with `wait` the random part of its wait, or held for the
pause, which is no deferral. -/
def deferSend (x : PlcSend) (wait : Nat) (s : State) : State :=
  if s.bandInUse then
    (s.modSend x.id (fun y => { y with
      phase := .bandc
      waitMs := s.regField Reg.PLC_BANDC_LBT 23 16 + wait % (s.regField Reg.PLC_BANDC_LBT 31 24 + 1) })).bump Reg.PLC_BANDC_DEFER
  else s.modSend x.id (fun y => { y with phase := .bandc, waitMs := 0 })

/-- Does R117 bar a launch now: under preset 2, the band in use, or the pause after a frame? -/
def bandBars (s : State) : Bool :=
  s.regField Reg.PLC_BAND 3 0 == 2 && (s.bandInUse || decide (s.nowNs < s.plc.pauseUntil))

/-- The frame of a send goes out (R113, R137, R148, R157). -/
def launchSend (x : PlcSend) (at' : Nat) (s : State) : State :=
  let hop := if x.tries = 0 then s.sendNbr x else x.hop
  let m := if x.typ = 4 then (0, robonSet) else s.txSetFor hop
  match s.launchPlan at' x.rate false m.1 m.2 x.link with
  | none => s.refuseSend x
  | some (p, payload) =>
    let endNs := at' + 1000 * frameUs s.bandOr payload.length
    let inside := s.plc.acks.filter (fun a => decide (a.instant < endNs))
    if x.at'.isNone && !inside.isEmpty then s.notLaunched x
    else
      let s := s.setPlc (fun q => { q with acks := q.acks.filter (fun a => decide (endNs ≤ a.instant)) })
      let s := inside.foldl (fun s _ => s.plcCount 4) s
      let chains := if x.typ = 4 then (let m := x.chains &&& s.txChains; if x.chains = 0 ∨ m = 0 then s.txChains else m)
        else s.chainsFor x.chains hop
      let s := s.modSend x.id (fun y => { y with
        phase := .onAir, started := true, attempts := y.attempts + 1, tries := y.tries + 1, endNs := endNs, hop := hop
        retryMax := if y.attempts = 0 then s.plc.cfg.retryMax else y.retryMax
        repeatsLeft := y.repeatsLeft - 1, repeatsSent := y.repeatsSent + 1 })
      let s := s.goOnAir x.id at' chains m.2 p x.link payload
      if x.typ = 4 then
        let s := s.plcCount 17
        match x.cmd with
        | some c => if x.repeatsLeft ≤ 1 then
            (s.replyWith c St.ok (x.mcastId + (x.repeatsSent + 1) * 2 ^ 16) 0).modSend x.id (fun y => { y with cmd := none })
          else s
        | none => s
      else if x.typ = 0 then s.plcCount 0
      else s

/-- An attempt on the present route has failed for good: the send moves once to the cheapest other candidate (R152), else it
fails NO_ACK. The neighbour is asked for a map (R153). -/
def failRoute (x : PlcSend) (s : State) : State :=
  let hop := x.hop
  let s := s.modNbr hop (fun n => { n with failedSend := true })
  let s := match x.ep with
    | none => s.endSend x.id 0x0610 0
    | some i =>
      let c := s.ctx i
      let used := x.route :: x.routesUsed
      let others := (s.candidates c).filter (fun (e : Nat × Nat) =>
        !used.contains e.1 && decide (sendLen x ((s.routeOf c e.1).getD {}) ≤ 2048))
      match (if c.routePinned || x.at'.isSome || !s.plc.cfg.routingEn || decide (2 ≤ used.eraseDups.length) then none
          else cheapest others) with
      | none => s.endSend x.id 0x0610 0
      | some (k, _) =>
        let y := { x with route := k, routesUsed := used.eraseDups, tries := 0, phase := .contend, sealed := false }
        let (y, s) := if y.sec then (y, s) else s.formPlain y
        s.modSend x.id (fun _ => y)
  s.sendTmreq hop 2

/-- No ACK has come to an attempt (R147). -/
def noAck (x : PlcSend) (s : State) : State :=
  let s := (s.plcCount 2).modNbr x.hop (fun n => { n with fails := min 15 (n.fails + 1) })
  if x.at'.isSome || decide (x.retryMax < x.tries) then s.failRoute x
  else s.modSend x.id (fun y => { y with phase := .retry })

/-- The converter starves: the frame ends with the symbol in progress (R137), and an ACK with it. -/
def underrun (s : State) : State := s.plcOffAir s.symbolEnd

/-- What a whole frame of a send leads to (R157, R160). -/
def sentWhole (id : Nat) (s : State) : State :=
  match s.plcSendOf id with
  | none => s
  | some x =>
    if x.orphan then (s.dropSend id).sunk (s.ctx (x.ep.getD 0)).inst
    else if x.typ = 4 then (if x.repeatsLeft = 0 then s.dropSend id else s.modSend id (fun y => { y with phase := .gap }))
    else if x.ackreq then s.modSend id (fun y => { y with phase := .await })
    else s.endSend id St.ok 0

/-- Ready for its launch, or made to wait under R117 (R145). -/
def contended (x : PlcSend) (wait : Nat) (s : State) : State :=
  if s.bandBars then s.deferSend x wait else s.modSend x.id (fun y => { y with phase := .ready })

/-- The configuration in force as PLC.CONFIG parameters (R160). -/
def cfgBytes (s : State) : Bytes :=
  let c := s.plc.cfg
  le 8 c.netEui ++ le 2 c.netId ++ le 1 c.retryMax ++ le 1 c.cw ++ le 1 c.hopPenalty ++ le 1 c.routeHyst ++ le 1 c.tmapMargin
    ++ le 1 c.tmapHyst ++ le 2 c.tmapAge ++ le 2 c.collectMs ++ le 1 c.rdiscRate ++ le 1 (bitN c.routingEn + 2 * bitN c.tmapEn)
    ++ le 2 c.maxDefer

/-- Hours since an endpoint's transmit set arrived (R160). -/
def mapAge (s : State) (x : Ctx) : Nat := if x.txSet = 0 then 0 else min ((s.nowSec - x.mapStamp) / 3600) 65535

/-- The 4-byte ROUTES entry of a route (R160). -/
def routeWord (s : State) (eui : Nat) (r : Option PlcRoute) : Bytes :=
  match r with
  | none => zeros 4
  | some r => le 4 (min (s.routeCost r eui) 65535 + r.relays.length * 2 ^ 16 + (s.nbr (firstHop r eui)).fails * 2 ^ 19 + 2 ^ 31)

/-- The block of PLC.STATUS (R160). -/
def plcBlock (s : State) (endpoint : Option Nat) : Bytes :=
  let cnt := fun k => if k = 21 then s.plc.holders.length else s.plc.counts.getD k 0
  let head := s.cfgBytes ++ le 4 s.plc.sends.length ++ (List.range 22).flatMap (fun k => le 4 (cnt k)) ++ le 4 (cnt 22) ++ zeros 8
  let tail := match endpoint.bind s.epAt with
    | none => zeros 128
    | some x => fit 128 (le 1 (s.chainsFor 0 x.eui) ++ le 1 (x.current + 8 * bitN x.routePinned) ++ le 2 x.txHandle ++ le 2 x.rxHandle
        ++ le 2 (s.mapAge x) ++ s.routeWord x.eui (s.routeOf x 5) ++ (List.range 4).flatMap (fun k => s.routeWord x.eui (s.routeOf x (k + 1))))
  fit 128 head ++ tail

/-- Is PLC.CONFIG in range (R159)? -/
def plcCfgOk (p : PlcCfgIn) : Bool :=
  p.netEui % 2 == 0 && decide (p.netId ≤ 0xFFFE) && decide (p.retryMax ≤ 7) && decide (p.cw ≤ 63) && decide (1 ≤ p.tmapHyst ∧ p.tmapHyst ≤ 100)
    && decide (256 ≤ p.collectMs ∧ p.collectMs ≤ 16384) && decide (1 ≤ p.rdiscRate ∧ p.rdiscRate ≤ 100)
    && decide (1 ≤ p.maxDefer ∧ p.maxDefer ≤ 6000) && decide (p.hopPenalty ≤ 255 ∧ p.routeHyst ≤ 255 ∧ p.tmapMargin ≤ 255 ∧ p.tmapAge ≤ 65535)

/-- Are SEC and MICLEN of a send consistent (R160)? -/
def secOk (sec : Bool) (miclen : Nat) : Bool := if sec then miclen == 1 || miclen == 2 else miclen == 0

/-- A frame of PLC.SEND is queued on the route chosen, or waits for a discovery (R151, R152, R160). -/
def acceptSend (c : CmdRef) (p : PlcSendIn) (x : Ctx) (s : State) : State :=
  let ns := fun w : Nat => w / 2 ^ 30 * 1000000000 + w % 2 ^ 30
  let base : PlcSend :=
    { id := 0, cmd := some c, ep := some p.endpoint, sec := p.sec, keyref := p.keyref, body := p.payload, miclen := p.miclen
      ackreq := p.ackreq, rate := p.rate, dst := x.eui, chains := p.chains, at' := p.launchAt.map ns
      phase := if p.launchAt.isSome then .ready else .contend }
  if p.route = 0 then
    let (k, s) := s.pickRoute p.endpoint
    match k with
    | some k => (s.replyQueued c).queueSend { base with route := k, routesUsed := [k] }
    | none =>
      if !s.plc.cfg.routingEn then s.reply c 0x0611
      else ((s.replyQueued c).queueSend { base with phase := .discover }).startDisc p.endpoint
  else if p.route ≠ 5 ∧ (s.routeOf x p.route).isNone then s.reply c 0x0611
  else (s.replyQueued c).queueSend { base with route := p.route, routesUsed := [p.route] }

/-- Relays of the route that a ROUTE value names for an endpoint (R151, R160). -/
def routeRelays (s : State) (endpoint route : Nat) : Nat :=
  let k := if route = 0 then (s.pickRoute endpoint).1.getD 0 else route
  ((s.routeOf (s.ctx endpoint) k).getD {}).relays.length

/-- Relays of the route a send would take (R151, R160). -/
def sendRelays (s : State) (p : PlcSendIn) : Nat := s.routeRelays p.endpoint p.route

/-- A send is taken (R31, R71, R115, R128, R150, R151, R160). -/
def plcSend (c : CmdRef) (p : PlcSendIn) (s : State) : State :=
  let ns := fun w : Nat => w / 2 ^ 30 * 1000000000 + w % 2 ^ 30
  if s.dev.state ≠ .day then s.reply c St.stateConflict
  else if !s.epMine c p.endpoint then s.reply c St.notAuthorized
  else if 6 ≤ p.route ∨ 3 ≤ p.rate ∨ !secOk p.sec p.miclen ∨ p.launchAt.any stampBad then s.reply c St.badParam
  else if 2048 < plcLen (s.sendRelays p) p.sec p.payload.length p.miclen then s.reply c St.badLength
  else if 4096 ≤ s.plc.sends.length then s.reply c St.queueFull
  else if s.band.isNone ∨ s.shut 39 then (s.bump Reg.PLC_TX_REFUSED).reply c 0x0612
  else if (match p.launchAt with | some t => decide (ns t < s.nowNs + 200000) | none => false) then s.reply c 0x0613
  else s.acceptSend c p (s.ctx p.endpoint)

/-- A multicast send is taken (R71, R157, R160, R497). -/
def plcMcast (c : CmdRef) (p : PlcMcastIn) (s : State) : State :=
  if s.dev.state ≠ .day then s.reply c St.stateConflict
  else if p.group % 2 = 0 ∨ 5 < p.hopsLeft ∨ p.spread = 0 ∨ 15 < p.spread ∨ p.repeats = 0 ∨ 8 < p.repeats ∨ p.gap = 0 ∨ 255 < p.gap
    ∨ !secOk p.sec p.miclen then s.reply c St.badParam
  else if 2048 < plcLen 0 p.sec (4 + p.payload.length) p.miclen then s.reply c St.badLength
  else if 4096 ≤ s.plc.sends.length then s.reply c St.queueFull
  else if s.band.isNone ∨ s.shut 39 then (s.bump Reg.PLC_TX_REFUSED).reply c 0x0612
  else
    let id := s.drawValue Ctr.mcast p.group (s.plc.mcastIds.getD p.group 0) % 65536
    let s := (s.setPlc (fun q => { q with mcastIds := q.mcastIds.put p.group ((id + 1) % 65536) })).drewCounter Ctr.mcast p.group id
    (s.replyQueued c).queueSend
      { id := 0, cmd := some c, typ := 4, dst := p.group, body := le 2 id ++ le 1 p.hopsLeft ++ le 1 p.spread ++ p.payload
        sec := p.sec, keyref := p.keyref, miclen := p.miclen, chains := p.chains, repeatsLeft := p.repeats, gapCycles := p.gap
        mcastId := id }

end State

/-- PLC_LAUNCH (R32, R113, R115, R117, R128, R132, R137, R145, R148): the fired launch of the power line puts its frame on the medium. A frame
sent at a stated time ignores the access protocol of preset 2 (R145). -/
def execPlcLaunch (s : State) : R :=
  .next (match s.takeFired with
    | none => s
    | some (e, s) =>
      match s.plcSendOf e.ref with
      | none => s
      | some x =>
        if x.phase ≠ .ready then s
        else if !s.permits || s.plcSending || !s.headOfLine x then s.notLaunched x
        else if !x.sealed then s.endSend x.id 0x0613 0
        else if x.at'.isNone && s.bandBars then (s.drawn.deferSend x s.drawFree)
        else s.zcLook.launchSend x e.instant)

/-- SEAM_UNDERRUN (R137): the frame ends at the end of the symbol; its command completes TRUNCATED. -/
def execSeamUnderrun (s : State) : R :=
  .next (match s.plc.onAir with
    | none => s
    | some id => ((s.bump Reg.PLC_SEAM_UNDERRUN).endSend id 0x0614 0).underrun.drainLook)

/-- PLC_TX_END (R113, R131, R157, R160). -/
def execPlcTxEnd (s : State) : R :=
  .next (match s.plc.onAir with
    | none => s
    | some id => (((s.plcOffAir s.nowNs).bump Reg.PLC_TX_FRAMES).sentWhole id).drainLook)

/-- BANDC_DEFER_EXPIRY (R117): the band has been free for the frame's random time, and no pause runs. -/
def execBandcDeferExpiry (id : Nat) (s : State) : R :=
  .next (match s.plcSendOf id with
    | none => s
    | some x =>
      if x.phase = .bandc ∧ s.bandBars = false ∧ s.plc.bandFreeNs + 1000000 * x.waitMs ≤ s.nowNs then
        s.modSend id (fun y => { y with phase := .ready })
      else s)

/-- PLC_CONTENTION_WAIT_END (R117, R145): no chain busy, no ACK due, and the random wait over. `wait` is the draw of R117, in whole ms from
WAIT_MIN, should the band be in use. -/
def execPlcContentionWaitEnd (id wait : Nat) (s : State) : R :=
  .next (match s.plcSendOf id with
    | none => s
    | some x =>
      if x.phase ≠ .contend ∨ s.rxBusy ≠ 0 ∨ ¬s.plc.acks.isEmpty ∨ s.plcSending
        ∨ s.plc.sends.any (fun y => y.phase == .await) ∨ ¬s.headOfLine x then s
      else s.contended x wait)

/-- PLC_MAX_DEFER_EXPIRY (R145). -/
def execPlcMaxDeferExpiry (id : Nat) (s : State) : R :=
  .next (match s.plcSendOf id with
    | none => s
    | some x => if x.at'.isNone ∧ (x.phase = .contend ∨ x.phase = .bandc ∨ x.phase = .ready) then s.endSend id St.mediaBusy 0 else s)

/-- The link frame of an ACK (R144). -/
def State.ackLink (a : PlcAck) (st : Nat) (s : State) : Bytes :=
  let x : PlcSend := { id := a.id, typ := 1, dst := a.dst, lseq := a.lseq }
  plcFrameBytes (plcHead { x with body := zeros 4 } s.plc.cfg.netId s.plc.cfg.netEui []) (le 1 st ++ le 1 a.lq ++ zeros 2) []

/-- An ACK goes out at its instant with TMAP 0, RATE 0 and D = 1 on the chains that decoded the frame (R146). -/
def State.ackOut (a : PlcAck) (st : Nat) (s : State) : State :=
  match s.launchPlan a.instant 0 true 0 robonSet (s.ackLink a st) with
  | none => s.bump Reg.PLC_TX_REFUSED
  | some (p, payload) =>
    ((s.goOnAir a.id a.instant (a.chains &&& s.txChains) robonSet p (s.ackLink a st) payload).setPlc (fun q => { q with
      ackSent := some a.instant })).plcCount 3

/-- PLC_ACK_SEND (R31, R117, R146, R148): an ACK owed goes out through TIM at its instant, or is dropped for the condition that fails; one
whose verdict came later than 200 µs before the instant is ACK_LATE, whatever the verdict. -/
def execPlcAckSend (id : Nat) (s : State) : R :=
  .next (match s.plc.acks.find? (fun a => a.id == id) with
    | none => s
    | some a =>
      if s.nowNs + s.laneDelay 0 < a.instant then s
      else
        let s := s.setPlc (fun p => { p with acks := p.acks.filter (fun x => x.id != id) })
        if a.late then s.plcCount 5
        else match a.status with
          | none => if a.refused then s else s.plcCount 5
          | some st =>
            if s.plcSending then s.plcCount 4
            else if a.refused || !s.permits || s.bandBars then s
            else s.zcLook.passLaunch 0 a.instant 4 a.id (State.ackOut a st))

/-- Does a frame's stamp lie within 2 000 ± 250 µs of the last sample of the frame it acknowledges (R147)? -/
def State.ackTimely (endNs rts : Nat) : Bool :=
  let t := rts / 2 ^ 30 * 1000000000 + rts % 2 ^ 30
  decide (endNs + 1750000 ≤ t) && decide (t ≤ endNs + 2250000)

/-- PLC_ACK_RECEIVED (R147): DST, SRC and LSEQ match a send that awaits its ACK, and the ACK began in time. -/
def execPlcAckReceived (s : State) : R :=
  .next (match s.takeInbox 1 with
    | none => s
    | some (f, s) =>
      let l := plcLinkOf f.bytes
      match s.plc.sends.find? (fun x => x.phase == .await && x.lseq == l.lseq && x.hop == l.src && State.ackTimely x.endNs f.rts) with
      | none => s
      | some x => ((s.plcCount 1).modNbr l.src (fun n => { n with fails := 0 })).endSend x.id St.ok (byteAt l.body 1))

/-- PLC_ACK_TIMEOUT (R147, R151 to R153). -/
def execPlcAckTimeout (id : Nat) (s : State) : R :=
  .next (match s.plcSendOf id with
    | none => s
    | some x => if x.phase = .await then s.noAck x else s)

/-- PLC_RETRY_WAIT_END (R147). -/
def execPlcRetryWaitEnd (id : Nat) (s : State) : R :=
  .next (match s.plcSendOf id with
    | none => s
    | some x => if x.phase = .retry then s.modSend id (fun y => { y with phase := .contend }) else s)

/-- MCAST_REPEAT (R157). -/
def execMcastRepeat (id : Nat) (s : State) : R :=
  .next (match s.plcSendOf id with
    | none => s
    | some x => if x.phase = .gap then s.modSend id (fun y => { y with phase := .contend }) else s)

/-- PLC_CONFIG (R159): the new values govern the frames not yet tried; those under way keep the RETRY_MAX and the bytes they began with. -/
def execPlcConfig (c : CmdRef) (p : PlcCfgIn) (s : State) : R :=
  .next (
    if !State.plcCfgOk p then s.reply c St.badParam
    else
      let cfg : PlcCfg :=
        { netEui := p.netEui, netId := p.netId, retryMax := p.retryMax, cw := p.cw, hopPenalty := p.hopPenalty, routeHyst := p.routeHyst
          tmapMargin := p.tmapMargin, tmapHyst := p.tmapHyst, tmapAge := p.tmapAge, collectMs := p.collectMs, rdiscRate := p.rdiscRate
          routingEn := p.routingEn, tmapEn := p.tmapEn, maxDefer := p.maxDefer }
      let s := s.setPlc (fun q => { q with cfg := cfg })
      (s.setPlc (fun q => { q with sends := q.sends.map s.reform })).reply c St.ok)

/-- PLC_TONEMAP_LOAD (R126, R160). -/
def execPlcTonemapLoad (c : CmdRef) (endpoint handle : Nat) (pin : Bool) (set : Bytes) (s : State) : R :=
  .next (if s.dataHeld c then s else
    if !s.epMine c endpoint then s.reply c St.notAuthorized
    else if setBad set || set.length != 384 then s.reply c St.badParam
    else match s.txSlot (s.ctx endpoint) with
      | none => s.reply c 0x0510
      | some n =>
        let s := (s.loadTxSet endpoint n handle set).modNbr (s.ctx endpoint).eui (fun x => { x with pinned := pin })
        s.reply c St.ok)

/-- PLC_TONEMAP_READ_TX (R160). -/
def execPlcTonemapReadTx (c : CmdRef) (endpoint : Nat) (s : State) : R :=
  .next (
    if !s.epMine c endpoint then s.reply c St.notAuthorized
    else
      let x := s.ctx endpoint
      (s.writeData c ((s.poolSet x.txSet).getD robonSet)).replyWith c St.ok x.txHandle 0)

/-- PLC_TONEMAP_READ_RX (R160): a handle that holds no map returns BAD_PARAM. -/
def execPlcTonemapReadRx (c : CmdRef) (handle : Nat) (s : State) : R :=
  .next (match (if handle ≤ 65535 then s.poolSet handle else none) with
    | none => s.reply c St.badParam
    | some set => (s.writeData c set).replyWith c St.ok (s.plc.holders.getD handle 0) 0)

/-- PLC_TONEMAP_REVERT (R160). -/
def execPlcTonemapRevert (c : CmdRef) (endpoint : Nat) (s : State) : R :=
  .next (
    if !s.epMine c endpoint then s.reply c St.notAuthorized
    else ((s.dropTxSet endpoint).modNbr (s.ctx endpoint).eui (fun x => { x with pinned := false })).reply c St.ok)

/-- PLC_SEND (R31, R115, R128, R150, R151, R160). -/
def execPlcSend (c : CmdRef) (p : PlcSendIn) (s : State) : R := .next (if s.dataHeld c then s else s.plcSend c p)

/-- PLC_ROUTE_SET_SLOT (R151, R160): relays with the cost of the link into each, from the part outward, and the last link's cost;
the first link's cost is the part's own to compute. -/
def execPlcRouteSetSlot (c : CmdRef) (endpoint slot : Nat) (relays : List (Nat × Nat)) (last : Nat) (s : State) : R :=
  .next (if s.dataHeld c then s else
    if !s.epMine c endpoint then s.reply c St.notAuthorized
    else if 4 ≤ slot ∨ 5 < relays.length then s.reply c St.badParam
    else
      let rest := if relays.isEmpty then 0 else (relays.drop 1).foldl (fun a e => a + e.2) 0 + last
      let r : PlcRoute := { relays := relays.map Prod.fst, rest := rest, valid := true }
      (s.modCtx endpoint (fun x => x.setSlot slot r)).reply c St.ok)

/-- PLC_ROUTE_CLEAR_SLOT (R160). -/
def execPlcRouteClearSlot (c : CmdRef) (endpoint slot : Nat) (s : State) : R :=
  .next (
    if !s.epMine c endpoint then s.reply c St.notAuthorized
    else if 4 ≤ slot then s.reply c St.badParam
    else (s.modCtx endpoint (fun x => x.setSlot slot {})).reply c St.ok)

/-- PLC_ROUTE_PIN (R151, R160): an empty slot returns NO_ROUTE. -/
def execPlcRoutePin (c : CmdRef) (endpoint slot : Nat) (s : State) : R :=
  .next (
    if !s.epMine c endpoint then s.reply c St.notAuthorized
    else if 4 ≤ slot then s.reply c St.badParam
    else if !((s.ctx endpoint).slot slot).valid then s.reply c 0x0611
    else (s.modCtx endpoint (fun x => { x with current := slot + 1, routePinned := true })).reply c St.ok)

/-- PLC_ROUTE_UNPIN (R160). -/
def execPlcRouteUnpin (c : CmdRef) (endpoint : Nat) (s : State) : R :=
  .next (
    if !s.epMine c endpoint then s.reply c St.notAuthorized
    else (s.modCtx endpoint (fun x => { x with routePinned := false })).reply c St.ok)

/-- PLC_MCAST_SEND (R157, R160): MCAST_ID steps once per command; every copy carries the same one. -/
def execPlcMcastSend (c : CmdRef) (p : PlcMcastIn) (s : State) : R := .next (if s.dataHeld c then s else s.plcMcast c p)

/-- PLC_STATUS (R160). -/
def execPlcStatus (c : CmdRef) (endpoint : Nat) (withEp : Bool) (s : State) : R :=
  .next (
    if withEp && !s.epMine c endpoint then s.reply c St.notAuthorized
    else (s.writeData c (s.plcBlock (if withEp then some endpoint else none))).replyWith c St.ok s.plcStatus 0)

/-- PLC_NOISE_READ (R160): 3 840 bytes per chain selected. -/
def execPlcNoiseRead (c : CmdRef) (chains : Nat) (s : State) : R :=
  .next (
    let one := fun ch => (List.range 960).flatMap (fun k => le 4 (State.noiseWord (s.noiseOf ch (k / 80) (k % 80))))
    (s.writeData c ((([0, 1, 2, 3].filter (fun ch => bitAt chains ch)).flatMap one))).reply c St.ok)

end Sys2Proof.Machine
end

