-- ==== Sys2Proof/Machine/Msh.lean ====
section
/-! DEFINITION. The mesh: beacons, reception, ACKs, retries, night slots, floods, tunnels and the MSH commands (R172, R179 to R211). -/
set_option Elab.async false
namespace Sys2Proof.Machine
namespace State

/-! #### Launches through TIM (R31, R172, R445) -/

/-- Takes the oldest fired launch of a radio lane from TIM, RFA before RFB at one instant (R172, R443). -/
def takeFiredRf (s : State) : Option (Launch × State) :=
  match s.tim.fired.find? (fun e => decide (1 ≤ e.lane) && decide (e.lane ≤ 8)) with
  | none => none
  | some e => some (e, { s with tim := { s.tim with fired := s.tim.fired.erase e } })

/-- A fired launch goes out (R172). -/
def sendFired (x : MshSend) (port ch instant : Nat) (s : State) : State :=
  match s.formUnicast x port ch x.rate instant false with
  | (s, none) => s
  | (s, some b) => (s.rfLaunch x.id port ch x.rate instant b).1

/-- May a send go out at an opportunity that is no night slot and no piggyback window (R199, R202, R210)? A sleepy receiver hears it only
where its time is stated, and an endpoint with a PENDING agreement not at all. -/
def openSend (s : State) (x : MshSend) : Bool :=
  match x.ep with
  | none => false
  | some i => !x.tunnel && x.when' != 1 && x.when' != 2 && (x.stated || !bitAt (s.hopCtx x).flags 2) && !s.nightPending i

/-- A send at its launch instant, on the home channel of its hop's receiver: its stated time, or the wait of its retry, and R183 decide, then
RFX (R172, R181 to R183, R199, R202, R209). -/
def launchMsh (x : MshSend) (port instant : Nat) (s : State) : State :=
  let (home, ch, _) := homeOf (s.hopCtx x)
  let stop := instant + s.airNs port (s.attemptLen x) x.rate
  let stated := x.stated
  if (x.phase ≠ .ready ∧ x.phase ≠ .retry) ∨ x.typ = 3 ∨ port ≠ home ∨ (x.phase = .retry ∧ instant / 1000000 < x.retryAsn) then s
  else if stated && x.at' != some (instant + s.syncLead port x.rate) then s
  else if !s.openSend x then (if stated then s.endMsh x.id 0x0612 0 else s)
  else if !s.framePermits port ch false none instant stop then
    (if stated then s.endMsh x.id 0x0610 0 else s)
  else if stated ∧ ¬s.timeValid then s.endMsh x.id 0x0612 0
  else s.sendFired x port ch instant

/-- Launches returned by TIM as late (R445): a PLC frame of a stated time and a mesh send of a stated time complete LATE; others
wait for another instant. -/
def takeLate (s : State) : State :=
  let l := s.tim.late
  let s : State := { s with tim := { s.tim with late := [] } }
  l.foldl (fun s e =>
    if e.lane = 0 then (match s.plcSendOf e.ref with | some x => s.notLaunched x | none => s)
    else if e.lane ≤ 8 then
      (match s.mshSendOf e.ref with | some x => if x.when' = 3 ∧ ¬x.started then s.endMsh x.id 0x0612 0 else s | none => s)
    else s) s

/-! #### Beacons (R180, R185 to R187) -/

/-- The bytes of the beacon of an interval before NSEQ (R186). -/
def beaconBody (s : State) (b : BeaconCfg) (bin : Nat) : Bytes :=
  let k := s.kAt bin
  let seg := bin % (2 ^ k * 8)
  let m := s.mapAt bin
  le 4 bin ++ le 1 k ++ le 1 s.msh.cfg.beaconSlots ++ le 1 0 ++ le 1 b.leap ++ le 2 m.2 ++ le 2 seg
    ++ fit 32 (slice m.1 (32 * seg) 32) ++ le 2 0 ++ le 1 b.ann.length ++ le 1 0 ++ b.ann

/-- The beacon address: all ones (R186). -/
abbrev beaconDst : Nat := 0xFFFFFFFFFFFFFFFF

/-- A beacon configuration set earlier holds from the interval that starts at an instant (R210). -/
def takeBeaconCfg (edge : Nat) (s : State) : State :=
  match s.msh.beaconNext with
  | some (c, t) => if t ≤ edge then s.setMsh (fun m => { m with beacon := c, beaconNext := none }) else s
  | none => s

/-- A port's beacon for the interval that starts at an instant: sent, or skipped and counted (R180, R185). -/
def sendBeacon (port edge instant : Nat) (b : BeaconCfg) (s : State) : State :=
  let bin := edge / 1024000000
  let ch := if port = 0 then b.chA else b.chB
  let body := s.beaconBody b bin
  let skip := fun (s : State) => s.bump Reg.MSH_BEACON_SKIPPED
  if !s.permits || !s.timeValid || !s.msh.restored then skip s
  else match s.rfRefusal port ch b.rate (34 + body.length) instant with
    | some why => skip (s.countRefusal port why)
    | none =>
      match s.bcastPsdu { id := 0, typ := 2, dst := beaconDst, sealedBody := body } with
      | (some (.inr (psdu, _)), s) =>
        let ref := s.msh.nextId
        let s := s.setMsh (fun m => { m with nextId := m.nextId + 1, beaconed := m.beaconed.upd port [] (addBinRun bin) })
        (s.rfPass ref port ch b.rate instant psdu).bump Reg.MSH_BEACON_TX
      | (_, s) => skip s

/-- A port's beacon is due: its first sync bit falls on the boundary of slot 0 of the next interval (R180, R181, R185). -/
def beaconDue (port : Nat) (s : State) : State :=
  let edge := (s.nowNs / 1024000000 + 1) * 1024000000
  let b := s.beaconAt edge
  let instant := edge - s.syncLead port b.rate
  if !s.rfDue port instant then s
  else
    let s := s.takeBeaconCfg edge
    if !b.en || !bitAt b.ports port || inBinRuns (edge / 1024000000) (s.msh.beaconed.getD port []) then s
    else s.sendBeacon port edge instant b

/-! #### Reception (R187, R189, R191, R206) -/

/-- Counts a link frame that R189 discards. -/
def mshDiscard (why : MshFail) (s : State) : State :=
  match why with
  | .header => s.bump Reg.MSH_HDR_FAIL
  | .hauth => s.bump Reg.MSH_HAUTH_MISSING
  | .net => s.bump Reg.MSH_NET_MISMATCH

/-- A frame that does not go to FSE is checked whole: one whose FCS fails is discarded under R189, another handled as `g` says. -/
def ifWhole (f : RxFrame) (g : State → State) (s : State) : State := if f.fcsBad then s.mshDiscard .header else g s

/-- Offers a frame to FSE. -/
def offer (f : RxFrame) (s : State) : State := { s with fse := { s.fse with offered := s.fse.offered ++ [f] } }

/-- A flood taken in: its own echo, already seen, or on to FSE (R206). -/
def takeFlood (f : RxFrame) (s : State) : State :=
  let l := mshLinkOf f.bytes
  if l.src = s.msh.cfg.netEui then s.ifWhole f (·.bump Reg.MSH_FLOOD_ECHO)
  else if s.msh.seen.any (fun e => e.1 == l.src && e.2.1 == leAt l.body 0 2 && decide (s.nowNs < e.2.2 + 60000000000)) then
    s.ifWhole f (·.bump Reg.MSH_FLOOD_SEEN)
  else s.offer f

/-- Is a flood taken in (R191): one to NET_EUI, or one to CONC_GROUP? -/
def floodFor (s : State) (l : MshLink) : Bool :=
  l.typ == 3 && (l.dst == s.msh.cfg.netEui || (l.dst == s.msh.cfg.concGroup && s.regBit Reg.MSH_CTRL 1))

/-- A beacon that passed R189 (R187): the part's own is discarded uncounted; another sender's is counted, and goes on to FSE with its
HTAG. -/
def takeBeacon (f : RxFrame) (s : State) : State :=
  let l := mshLinkOf f.bytes
  if l.src = s.msh.cfg.netEui then s.ifWhole f id
  else
    let s := if f.fcsBad then s else s.bump Reg.MSH_BEACON_HEARD
    if l.hauth then s.offer f else s

/-- A frame other than a beacon that passed R189 (R191, R198). -/
def takeMsh (f : RxFrame) (s : State) : State :=
  let l := mshLinkOf f.bytes
  let own := s.msh.cfg.netEui
  if l.typ = 4 then s.ifWhole f id
  else if s.floodFor l then s.takeFlood f
  else if l.dst ≠ own ∨ l.typ = 3 then s.ifWhole f id
  else if l.typ = 1 then (if l.hauth then s.offer f else s)
  else
    let owe := l.ackreq && l.hopDst == own
    let a : MshAck := { dst := l.hopSrc, nseq := l.nseq, rts := f.rts, lq := f.lq, port := f.path - 1, ch := f.chans, rate := f.rate, instant := f.endNs + 1000000 }
    let s := if owe then s.setMsh (fun m => { m with acks := m.acks ++ [a] }) else s
    s.offer f

/-- Takes the first frame from MSH's inbox that is, or is not, a beacon. -/
def takeMshInbox (beacon : Bool) (s : State) : Option (RxFrame × State) :=
  match s.msh.inbox.find? (fun f => ((mshLinkOf f.bytes).typ == 2) == beacon) with
  | none => none
  | some f => some (f, s.setMsh (fun m => { m with inbox := m.inbox.erase f }))

/-! #### ACKs (R198, R199) -/

/-- The launch instant of an ACK owed (R173, R198). -/
def ackLaunch (a : MshAck) : Nat := a.instant - 8000

/-- The body of the ACK of the part (R190): SYNC_BIN and SYNC_US name its first sync bit. -/
def ackBody (s : State) (a : MshAck) : Bytes :=
  let first := a.instant + s.preambleBits a.port * bitNs a.rate
  le 1 (a.status.getD 0) ++ le 1 a.lq ++ le 4 a.nseq ++ le 2 (first / 1024000000) ++ le 4 (first % 1024000000 / 1000)

/-- The last bit of the ACK of the part (R198). -/
def ackLast (s : State) (a : MshAck) : Nat := a.instant + (s.preambleBits a.port + 40 + 8 * 46) * bitNs a.rate

/-- The ACK of the part goes out, announcing a held frame where there is one (R31, R190, R192, R198, R200). -/
def sendMshAck (a : MshAck) (s : State) : State :=
  let stop := s.ackLast a
  if !s.ackSlotOk a.port a.ch (ackLaunch a) (stop + 8000) then s.bump Reg.MSH_ACK_SKIPPED
  else match s.rfRefusal a.port a.ch a.rate 46 (ackLaunch a) with
    | some why => s.countRefusal a.port why
    | none =>
      let next := ((s.epOf a.dst).map Prod.fst).bind (fun i => s.announce i a.port a.ch a.rate stop)
      match s.unicastPsdu { id := 0, typ := 1, dst := a.dst, sealedBody := s.ackBody a } next.isSome with
      | (.inl _, s) => s
      | (.inr (psdu, _), s) =>
        let ref := s.msh.nextId
        let s := s.setMsh (fun m => { m with nextId := m.nextId + 1 })
        let s := (s.rfPass ref a.port a.ch a.rate (ackLaunch a) psdu).bump Reg.MSH_ACK_TX
        match next with
        | some x => s.setMsh (fun m => { m with
            piggy := m.piggy ++ [{ send := x.id, port := a.port, ch := a.ch, rate := a.rate, instant := stop + 2000000 }] })
        | none => s

/-- Does a first preamble bit at an instant lie within 1 000 ± 100 µs of the last bit of a send's frame (R199, R619)? -/
def ackTime (x : MshSend) (first : Nat) : Bool := decide (x.endNs - 8000 + 900000 ≤ first) && decide (first ≤ x.endNs - 8000 + 1100000)

/-- Does an ACK acknowledge a send (R199)? -/
def ackMatches (s : State) (f : RxFrame) (x : MshSend) : Bool :=
  let l := mshLinkOf f.bytes
  x.phase == .await && x.port + 1 == f.path && x.ch == f.chans && l.src == mshHop x && l.dst == s.msh.cfg.netEui
    && leAt l.body 2 4 == x.nseq && ackTime x (nsOf f.rts)

/-- Is a frame whose first preamble bit is in time for a send's ACK still in reception or before its verdict (R199)? -/
def ackComing (s : State) (x : MshSend) : Bool :=
  let at' := fun (path ch rts : Nat) => path == x.port + 1 && ch == x.ch && ackTime x (nsOf rts)
  let in' := fun (f : RxFrame) => at' f.path f.chans f.rts
  s.rfx.rx.any (fun r => at' (r.port + 1) r.ch r.rts) || s.msh.inbox.any in' || s.msh.ackbox.any in' || s.fse.offered.any in'
    || s.fse.intake.any (fun f => in' f.frame)

/-- A matching ACK completes its send, synchronises the endpoint and opens a window for the frame announced (R199, R200, R202,
R204, R211). -/
def takeAck (f : RxFrame) (s : State) : State :=
  let l := mshLinkOf f.bytes
  match s.msh.sends.find? (fun x => s.ackMatches f x) with
  | none => s
  | some x =>
    let s := match s.epOf (mshHop x) with | some (i, _) => s.raiseSync i x.launchNs | none => s
    let s := match x.ep with
      | some i => if x.typ = 4 ∧ x.macCmd = 3 then
          s.setMsh (fun m => { m with nights := m.nights.adj i (fun n => { n with active := n.active || n.mac == x.id }) }) else s
      | none => s
    let s := s.endMsh x.id St.ok (byteAt l.body 1)
    match (if x.fpend then x.ep.bind s.piggyFor else none) with
    | some y => s.setMsh (fun m => { m with
        piggy := m.piggy ++ [{ send := y.id, port := x.port, ch := x.ch, rate := x.rate, instant := f.endNs + 2000000 }] })
    | none => s

/-! #### Retries and night slots (R199, R202 to R204) -/

/-- A waiting send takes an opportunity on its receiver's home channel once its random wait is over (R199). -/
def retryNow (x : MshSend) (s : State) : State :=
  match x.ep with
  | none => s
  | some _ =>
    let (port, ch, _) := homeOf (s.hopCtx x)
    let start := s.rfSoon port
    let stop := start + s.airNs port (s.attemptLen x) x.rate
    if x.phase ≠ .retry ∨ !s.openSend x ∨ start / 1000000 < x.retryAsn ∨ !s.framePermits port ch false none start stop then s
    else (s.sendUnicast x port ch x.rate start false).1

/-- May a send go in its endpoint's night slot (R202, R209, R210)? -/
def nightReady (x : MshSend) : Bool :=
  !x.tunnel && (x.typ == 0 || x.typ == 4) && (x.when' == 0 || x.when' == 1 || (x.when' == 3 && x.phase == .retry))
    && (x.phase == .ready || x.phase == .retry)

/-- Is g of an endpoint unknown, or above GUARD_MAX (R204)? -/
def guardWide (s : State) (i : Nat) (n : Night) : Bool :=
  match s.guardNs i n.drift with | none => true | some g => decide (s.msh.cfg.guardMax * 10000 < g)

/-- Does a send go to an endpoint whose active agreement shares a slot and channel, its guard within bounds (R202, R204)? -/
def sharesNight (s : State) (port ch asn : Nat) (x : MshSend) : Bool :=
  match x.ep with
  | none => false
  | some i => match s.msh.nights.get? i with
    | none => false
    | some n => n.active && n.port == port && n.ch == ch && nightIn n asn && nightReady x && !s.guardWide i n

/-- The send that an occurrence carries on a channel: the first in dispatch order of the endpoints that share it (R202). -/
def nightSend (s : State) (port ch asn : Nat) : Option MshSend := s.msh.sends.find? (s.sharesNight port ch asn)

/-- An occurrence is skipped: counted, and noticed the first time since the endpoint's last synchronisation (R204, R211). -/
def guardSkip (i : Nat) (n : Night) (s : State) : State :=
  let s := s.bump Reg.MSH_GUARD_SKIP
  if n.skipped then s
  else (s.setMsh (fun m => { m with nights := m.nights.put i { n with skipped := true } })).mshNotice (s.ctx i).inst i 3 0 0 0

/-- An occurrence of an endpoint's agreement (R181, R202 to R204): its frame's first sync bit falls on the boundary of the agreed slot. -/
def nightSlot (i : Nat) (n : Night) (s : State) : State :=
  let lead := s.syncLead n.port n.rate
  let asn := (s.rfSoon n.port + lead) / 1000000
  let start := asn * 1000000 - lead
  if !nightIn n asn || !s.rfDue n.port start || !s.msh.sends.any (fun x => x.ep == some i && nightReady x) then s
  else if s.guardWide i n then s.guardSkip i n
  else match s.nightSend n.port n.ch asn with
    | none => s
    | some x =>
      let stop := start + s.airNs n.port (s.attemptLen x) n.rate
      if x.ep ≠ some i ∨ !s.timeValid ∨ s.chBusy n.port n.ch n.rate ∨ !s.framePermits n.port n.ch false (some n) start stop then s
      else s.countedSend x n.port n.ch n.rate start false

/-! #### Floods (R205) -/

/-- Has the run of FLOOD slots that carried a flood's last copy on a port ended before a slot (R205)? -/
def runOver (s : State) (x : MshSend) (port asn : Nat) : Bool :=
  match x.copyAsn.get? port with
  | none => true
  | some a => decide (a + 1024 ≤ asn) || (List.range (asn - a)).any (fun k => s.slotType (a + k) != .flood)

/-- A copy of a flood on the beacon channel of a named port, which may be one that does not beacon (R31, R196, R205). -/
def floodCopy (x : MshSend) (port : Nat) (s : State) : State :=
  let b := s.beaconAt s.intervalNs
  let ch := if port = 0 then b.chA else b.chB
  let rate := b.rate
  let len := mshLen 0 true x.body.length x.miclen
  let start := s.rfSoon port
  let stop := start + s.airNs port len rate
  if x.typ ≠ 3 ∨ s.rfx.tx.any (fun t => t.ref == x.id && t.port == port) ∨ !bitAt x.ports port ∨ x.repeats ≤ x.sent.getD port 0 ∨ !s.framePermits port ch true none start stop
      ∨ !s.runOver x port (start / 1000000) then s
  else if x.sec && !x.sealed then s.endMsh x.id 0x0612 0
  else if !s.permits then s
  else match s.rfRefusal port ch rate len start with
    | some why => (s.countRefusal port why).mshRefused x why
    | none =>
      match s.bcastPsdu x with
      | (none, s) => s
      | (some (.inl status), s) => s.endMsh x.id status 0
      | (some (.inr (psdu, n)), s) =>
        let s := s.mshOnAir x n start port ch rate psdu.length false
        let s := s.modMsh x.id (fun y => { y with
          sent := y.sent.put port (y.sent.getD port 0 + 1), copyAsn := y.copyAsn.put port (start / 1000000) })
        (s.rfPass x.id port ch rate start psdu).bump Reg.MSH_FLOOD_TX

/-! #### Tunnels (R207, R208) -/

/-- Is a collector down, or never heard (R208)? -/
def collectorDown (s : State) (eui : Nat) : Bool := match s.msh.collectors.get? eui with | some c => c.down | none => true

/-- A datagram of a known collector: it is up (R208, R211). -/
def heardCollector (eui : Nat) (d : Datagram) (s : State) : State :=
  let was := s.collectorDown eui
  let s := s.setMsh (fun m => { m with collectors := m.collectors.put eui { last := s.nowNs, eth := d.eth, address := d.address, port := d.srcPort } })
  if was then s.mshNotice 0 (match s.epOf eui with | some (i, _) => i | none => 0) 6 0 0 eui else s

/-- The inner frame of an accepted UP, checked as on its own medium and passed to FSE, with the stamp of its arrival at the Ethernet port (R41, R142, R143, R187, R189, R191, R208, R213). -/
def innerFrame (eth eui : Nat) (b : Bytes) (chan lq rxTs : Nat) (radio : Bool) (s : State) : State :=
  let f : RxFrame := { path := 3, radio := radio, bytes := b, rts := s.ethArrival eth, chans := chan, lq := lq, collector := some (eui, chan, rxTs), ie := s.dev.nc }
  if radio then
    if fcsFails b then s.mshDiscard .header
    else match mshLinkFail b (s.regBit Reg.MSH_CTRL 0) s.msh.cfg.netId with
      | some why => s.mshDiscard why
      | none =>
        let l := mshLinkOf b
        if l.typ = 2 then s.takeBeacon f
        else if s.floodFor l then s.takeFlood f
        else if l.dst = s.msh.cfg.netEui ∧ (l.typ = 0 ∨ (l.typ = 1 ∧ l.hauth)) then s.offer f
        else s
  else match plcLinkFail b b.length s.plc.cfg.netId with
    | some k => s.plcCount k
    | none =>
      let l := plcLinkOf b
      if l.dst ≠ s.plc.cfg.netEui then s
      else if l.sec then s.offer { f with bytes := b.take l.len }
      else s.plcCount 8

/-- A tunnel datagram (R207, R208). -/
def tunnelIn (d : Datagram) (s : State) : State :=
  let b := d.payload
  let kind := byteAt b 1
  let bad := decide (b.length < 24) || byteAt b 0 != 1 || kind == 1 || decide (2 < kind) || leAt b 2 2 != b.length - 24
    || (kind == 2 && b.length != 24) || decide (2 ≤ byteAt b 12) || byteAt b 15 != 0
  let eui := leAt b 4 8
  if bad then s.bump Reg.MSH_AT_MALFORMED
  else match s.epOf eui with
    | none => s.bump Reg.MSH_AT_UNKNOWN
    | some (_, x) =>
      if x.kind ≠ 6 then s.bump Reg.MSH_AT_UNKNOWN
      else
        let s := (s.bump Reg.MSH_AT_RX).heardCollector eui d
        if kind = 0 then s.innerFrame d.eth eui (b.drop 24) (byteAt b 13) (byteAt b 14) (leAt b 16 8) (byteAt b 12 == 1) else s

/-- A DOWN datagram to a collector leaves through its port's lane (R31, R207, R208). -/
def tunnelOut (eui : Nat) (psdu : Bytes) (chan : Nat) (s : State) : State :=
  match s.msh.collectors.get? eui with
  | none => s
  | some c => if !s.ethUp c.eth then s else s.passLaunch (9 + c.eth) s.nowNs 6 0 (State.emit (.udp c.eth c.address c.port (le 1 1 ++ le 1 1 ++ le 2 psdu.length ++ le 8 eui ++ le 1 1 ++ le 1 chan ++ zeros 2 ++ zeros 8 ++ psdu)))

/-- A send through a collector goes out, and is complete (R208, R209). -/
def sendTunnel (x : MshSend) (s : State) : State :=
  let c := match x.ep with | some i => s.ctx i | none => {}
  let eui := (s.ctx c.lastCollector).eui
  if s.collectorDown eui || !c.viaCollector || !s.permits then s.endMsh x.id 0x0614 0
  else
    let x : MshSend := if x.sec then x else { x with sealedBody := x.body, route := s.downRoute x }
    match s.unicastPsdu x false with
    | (.inl status, s) => s.endMsh x.id status 0
    | (.inr (b, _), s) =>
      ((s.tunnelOut eui b (s.hopCtx x).homeCh).modMsh x.id (fun y => { y with started := true, attempts := y.attempts + 1 })).endMsh x.id St.ok 0

/-! #### Commands (R209, R210) -/

/-- Is MSH.CONFIG in range (R209)? -/
def mshCfgOk (p : MshCfgIn) : Bool :=
  p.netEui % 2 == 0 && decide (p.netId ≤ 0xFFFE) && decide (p.k ≤ 6) && decide (8 ≤ p.beaconSlots ∧ p.beaconSlots ≤ 64) && decide (p.retryMax ≤ 7)
    && decide (100 ≤ p.guardMax ∧ p.guardMax ≤ 10000) && p.concGroup % 2 == 1 && p.bcastFloor != 0xFFFFFFFF
    && (match p.map with | some m => m.length == 2 ^ p.k * 256 | none => true)

/-- The broadcast counter is raised by the host (R197, R209). -/
def bcastFloor (v : Nat) (s : State) : State :=
  if v = 0 then s else s.setMsh (fun m => { m with bcast := max m.bcast v, restored := true })

/-- Applies MSH.CONFIG (R209). -/
def mshConfigure (c : CmdRef) (p : MshCfgIn) (s : State) : State :=
  let bin := binOf s.asn
  let k := s.kAt bin
  let s := s.setMsh (fun m => { m with
    cfg := { netEui := p.netEui, netId := p.netId, k := k, beaconSlots := p.beaconSlots, retryMax := p.retryMax, guardMax := p.guardMax
             concGroup := p.concGroup, hopKeyref := p.hopKeyref, hopInst := c.inst }
    kNext := if p.k = k then none else some (p.k, (bin / 64 + 1) * 64)
    mapNext := match p.map with | some b => some (b, s.nextSuper) | none => m.mapNext })
  (s.setRegBit Reg.MSH_CTRL 0 p.hauthReq).bcastFloor p.bcastFloor

/-- Are the fields of a run in range (R209)? -/
def slotOk (s : State) (p : SlotIn) (span : Nat) : Bool :=
  decide (p.kind ≤ 2) && decide (p.port ≤ 1) && decide (p.ch ≤ 127) && decide (p.rate ≤ 3) && decide (p.p ≤ 12)
    && decide (s.msh.cfg.beaconSlots ≤ p.slot ∧ p.slot ≤ 1023) && decide (p.phase < 2 ^ p.p) && decide (1 ≤ span ∧ span ≤ 64)

/-- MSH.SLOT.ASSIGN OP 0 after its admission checks (R201, R202). -/
def addAssign (c : CmdRef) (p : SlotIn) (s : State) : State :=
  let x := s.ctx p.endpoint
  match s.freeAssign p.endpoint with
  | none => s.reply c 0x0510
  | some id =>
    let a : Assign := { id := id, ep := p.endpoint, kind := p.kind, port := p.port, ch := p.ch, rate := p.rate, p := p.p, slot := p.slot
                        phase := p.phase, span := p.span }
    if 262144 ≤ s.msh.assigns.length then s.reply c 0x0510
    else if p.kind ≠ 2 ∧ (1024 < p.slot + p.span ∨ !s.runHas 0 p.p p.phase p.slot p.span
        ∨ s.msh.assigns.any (fun b => b.kind != 2 && runsConflict a b)) then s.reply c 0x0610
    else
      let s := s.setMsh (fun m => { m with assigns := m.assigns ++ [a] })
      let f := s.chFreq p.port p.ch
      let s := if p.kind = 2 then
          (s.setCtx p.endpoint { x with homePort := p.port, homeCh := p.ch, homeRate := p.rate }).queueMac p.endpoint 5 id (le 3 f ++ le 1 p.rate)
        else s.queueMac p.endpoint 1 id (le 2 id ++ le 1 p.kind ++ le 3 f ++ le 1 p.rate ++ le 1 p.p ++ le 2 p.slot ++ le 2 p.phase ++ le 1 p.span)
      s.replyWith c St.ok id 0

/-- MSH.NIGHTSLOT.SET OP 0 after its admission checks (R202, R209). -/
def setNight (c : CmdRef) (p : SlotIn) (s : State) : State :=
  let full := decide (2097152 ≤ s.msh.nights.length) && !s.msh.nights.has p.endpoint
  if full then s.reply c 0x0510
  else if !s.runHas 2 p.p p.phase p.slot 1 then s.reply c 0x0610
  else
    let n : Night := { port := p.port, ch := p.ch, rate := p.rate, p := p.p, slot := p.slot, phase := p.phase, drift := p.span, mac := s.msh.nextId }
    let s := s.setMsh (fun m => { m with nights := m.nights.put p.endpoint n })
    let s := s.queueMac p.endpoint 3 0 (le 3 (s.chFreq p.port p.ch) ++ le 1 p.rate ++ le 1 p.p ++ le 2 p.slot ++ le 2 p.phase ++ le 2 s.msh.cfg.guardMax)
    s.reply c St.ok

/-- The sends of WHEN 1 that wait for an endpoint's agreement end with SLOT_CONFLICT (R210). -/
def endNightSends (i : Nat) (s : State) : State :=
  (s.msh.sends.filter (fun x => x.ep == some i && x.when' == 1 && x.phase != .onAir && x.phase != .await)).foldl (fun s x => s.endMsh x.id 0x0610 0) s

/-- Relays of the route down to an endpoint (R192). -/
def downRelays (x : Ctx) : Nat := if x.upRelays = 0 then 0 else x.upRoute.length

/-- MSH.SEND after its admission checks (R209, R210). -/
def acceptMsh (c : CmdRef) (p : MshSendIn) (s : State) : State :=
  let x := s.ctx p.endpoint
  let route := downRelays x
  let at' := nsOf p.launchAt
  let len := mshLen route p.sec p.payload.length p.miclen
  let y : MshSend :=
    { id := 0, cmd := some c, ep := some p.endpoint, dst := x.eui, body := p.payload, ackreq := p.ackreq, sec := p.sec, keyref := p.keyref
      miclen := p.miclen, rate := p.rate, tunnel := p.tunnel, when' := p.when', at' := if p.when' = 3 then some at' else none
      expire := if p.expireS = 0 then none else some (s.nowNs + p.expireS * 1000000000) }
  let (port, ch, _) := homeOf (s.hopCtx y)
  let start := at' - s.syncLead port p.rate
  let base : MshSend := { y with port := port, ch := ch }
  if 2047 < len then s.reply c St.badLength
  else if 65536 ≤ s.msh.sends.length ∨ 8 ≤ (s.msh.sends.filter (fun y => y.ep == some p.endpoint)).length then s.reply c St.queueFull
  else if p.tunnel ∧ s.collectorDown (s.ctx x.lastCollector).eui then s.reply c 0x0614
  else if p.when' = 1 ∧ !s.msh.nights.has p.endpoint then s.reply c 0x0610
  else if p.when' = 3 ∧ at' < s.nowNs + 300000 then s.reply c 0x0612
  else if p.when' = 3 ∧ !s.framePermits port ch false none start (start + s.airNs port len p.rate) then s.reply c 0x0610
  else
    let s := (s.replyQueued c).queueMsh base
    if p.tunnel && !p.sec then (match s.msh.sends.getLast? with | some y => s.sendTunnel y | none => s) else s

/-- A send is taken (R71, R183, R196, R209, R210). -/
def mshSend (c : CmdRef) (p : MshSendIn) (s : State) : State :=
  if s.dev.state ≠ .day then s.reply c St.stateConflict
  else if !secOk p.sec p.miclen || decide (3 < p.when' ∨ 3 < p.rate) || (p.when' == 3 && stampBad p.launchAt) then s.reply c St.badParam
  else if !s.epMine c p.endpoint then s.reply c St.notAuthorized
  else if s.shut 41 then s.reply c 0x0614
  else s.acceptMsh c p

/-- The ports a flood names: with 0, every port that beacons (R210). -/
def floodPorts (s : State) (ports : Nat) : Nat :=
  let b := s.beaconAt s.intervalNs
  if ports ≠ 0 then ports else if b.en then b.ports else 0

/-- A flood is taken (R71, R197, R205, R210, R497). DESIGN CHOICE (log entry 134): one for every beaconing port, where none beacons, ends
PORT_DOWN. -/
def mshFlood (c : CmdRef) (p : MshFloodIn) (s : State) : State :=
  if s.dev.state ≠ .day then s.reply c St.stateConflict
  else if p.group % 2 = 0 ∨ p.ttl = 0 ∨ 15 < p.ttl ∨ p.spread = 0 ∨ 15 < p.spread ∨ p.repeats = 0 ∨ 4 < p.repeats ∨ p.miclen = 0 ∨ 2 < p.miclen
      ∨ 3 < p.ports then s.reply c St.badParam
  else if 2047 < mshLen 0 true (p.payload.length + 4) p.miclen then s.reply c St.badLength
  else if 65536 ≤ s.msh.sends.length then s.reply c St.queueFull
  else if !s.msh.restored ∨ s.shut 41 ∨ s.floodPorts p.ports = 0 then s.reply c 0x0614
  else
    let id := s.drawValue Ctr.flood 0 s.msh.floodId % 65536
    let s := (s.setMsh (fun m => { m with floodId := (id + 1) % 65536 })).drewCounter Ctr.flood 0 id
    (s.replyQueued c).queueMsh
      { id := 0, cmd := some c, typ := 3, dst := p.group, body := le 2 id ++ le 1 p.spread ++ zeros 1 ++ p.payload, sec := true
        keyref := p.keyref, miclen := p.miclen, ttl := p.ttl, ports := s.floodPorts p.ports, repeats := p.repeats, floodId := id, phase := .gap }

/-- The block of MSH.STATUS for an endpoint (R210). -/
def mshBlock (s : State) (i : Nat) : Bytes :=
  let x := s.ctx i
  let n := s.msh.nights.get? i
  let g := match n with | some a => (match s.guardNs i a.drift with | some g => min (g / 1000) (2 ^ 32 - 1) | none => 2 ^ 32 - 1) | none => 0
  fit 64 (le 1 x.homePort ++ le 1 x.homeCh ++ le 1 (match n with | none => 0 | some a => if a.active then 2 else 1)
    ++ le 1 (s.msh.sends.filter (fun y => y.ep == some i)).length ++ le 8 x.lastSync ++ le 4 x.nseqH ++ le 4 x.txNseq ++ le 4 g
    ++ le 4 (s.msh.assigns.filter (fun a => a.ep == i)).length)

/-- MSH.STATUS, the register (R212). -/
def mshStatus (s : State) : Nat :=
  bitN s.timeValid + 2 * bitN ((s.beaconAt s.intervalNs).en && s.permits && s.msh.restored) + 4 * bitN s.par.permit + 8 * bitN s.midPermit
    + 16 * bitN s.msh.restored

/-- The length of the beacon a setting gives (R185, R186). -/
def beaconFits (s : State) (rate ann : Nat) : Bool :=
  decide ((40 + 8 * (82 + ann)) * (bitNs rate / 1000) + 8 ≤ s.msh.cfg.beaconSlots * 1000)

end State

/-- LAUNCH_INSERT (R443, R445). An entry returned as late completes its send where the time was stated. -/
def execLaunchInsert (lane instant owner ref : Nat) (s : State) : R := .next (s.launchInsert lane instant owner ref).takeLate

/-- RF_TX_LAUNCH (R31, R32, R172 to R174, R183, R209). -/
def execRfTxLaunch (s : State) : R :=
  .next (match s.takeFiredRf with
    | none => s
    | some (e, s) => match s.mshSendOf e.ref with
      | none => s
      | some x => s.launchMsh x (if e.lane ≤ 4 then 0 else 1) e.instant)

/-- RF_TX_END (R173, R174): the channel frees; MSH learns that its frame has gone out whole. -/
def execRfTxEnd (port slot : Nat) (s : State) : R :=
  .next (match s.rfx.tx.find? (fun t => t.port == port && t.slot == slot) with
    | none => s
    | some x => (((s.freeTx x s.nowNs).bumpI Reg.RFX_TX_FRAMES port).mshSent x.ref).drainLook)

/-- MSH_BEACON_SEND (R180, R181, R185, R186). -/
def execMshBeaconSend (port : Nat) (s : State) : R := .next (if port < 2 && !s.shut 41 then s.beaconDue port else s)

/-- MSH_BEACON_HEARD (R187, R189): counted, and on to FSE with its HTAG. -/
def execMshBeaconHeard (s : State) : R :=
  .next (if !s.begun 5 then s else match s.takeMshInbox true with
    | none => s
    | some (f, s) =>
      match mshLinkFail f.bytes (s.regBit Reg.MSH_CTRL 0) s.msh.cfg.netId with
      | some why => s.mshDiscard why
      | none => s.takeBeacon f)

/-- MSH_FRAME_RECEIVED (R189, R191, R198, R206). -/
def execMshFrameReceived (s : State) : R :=
  .next (if !s.begun 5 then s else match s.takeMshInbox false with
    | none => s
    | some (f, s) =>
      match mshLinkFail f.bytes (s.regBit Reg.MSH_CTRL 0) s.msh.cfg.netId with
      | some why => s.mshDiscard why
      | none => s.takeMsh f)

/-- MSH_ACK_SEND (R184, R198, R200): an ACK whose launch instant has come is sent, or is late, or is not sent. -/
def execMshAckSend (s : State) : R :=
  .next (match s.msh.acks.find? (fun a => decide (State.ackLaunch a ≤ s.rfSoon a.port)) with
    | none => s
    | some a =>
      let s := s.setMsh (fun m => { m with acks := m.acks.erase a })
      if a.refused then s
      else if a.status.isNone || a.late then s.bump Reg.MSH_ACK_LATE
      else if !s.permits then s
      else s.sendMshAck a)

/-- MSH_ACK_RECEIVED (R199, R200, R202, R204). -/
def execMshAckReceived (s : State) : R :=
  .next (match s.msh.ackbox with
    | [] => s
    | f :: rest => (s.setMsh (fun m => { m with ackbox := rest })).takeAck f)

/-- MSH_ACK_TIMEOUT (R199): no ACK in time has come, and none is in reception. -/
def execMshAckTimeout (id : Nat) (s : State) : R :=
  .next (match s.mshSendOf id with
    | none => s
    | some x => if x.phase = .await ∧ x.endNs - 8000 + 1100000 < s.nowNs ∧ !s.ackComing x then s.mshNoAck x else s)

/-- MSH_RETRY_OPPORTUNITY (R183, R199). -/
def execMshRetryOpportunity (id : Nat) (s : State) : R :=
  .next (match s.mshSendOf id with
    | none => s
    | some x => s.retryNow x)

/-- PIGGYBACK_SEND (R184, R200): the window whose preamble comes up carries its frame; one that has passed carries none. -/
def execPiggybackSend (s : State) : R :=
  .next (match s.msh.piggy.find? (fun p => decide (p.instant - 8000 ≤ s.rfSoon p.port)) with
    | none => s
    | some p =>
      let s := s.setMsh (fun m => { m with piggy := m.piggy.erase p })
      match s.mshSendOf p.send with
      | none => s
      | some x =>
        let w := s.piggySpan x p.port p.rate p.instant
        if (x.phase ≠ .ready ∧ x.phase ≠ .retry) ∨ !s.ackSlotOk p.port p.ch w.1 w.2 then s
        else s.countedSend x p.port p.ch p.rate w.1 true)

/-- NIGHT_SLOT_OCCURRENCE (R202 to R204): while the agreement is PENDING only piggyback frames reach the endpoint. -/
def execNightSlotOccurrence (endpoint : Nat) (s : State) : R :=
  .next (match s.msh.nights.get? endpoint with
    | none => s
    | some n => if n.active then s.nightSlot endpoint n else s)

/-- FLOOD_COPY_SEND (R205). -/
def execFloodCopySend (id port : Nat) (s : State) : R :=
  .next (match s.mshSendOf id with
    | none => s
    | some x => s.floodCopy x port)

/-- SEEN_CACHE_EXPIRY (R206). -/
def execSeenCacheExpiry (s : State) : R :=
  .next (s.setMsh (fun m => { m with seen := m.seen.filter (fun e => decide (s.nowNs < e.2.2 + 60000000000)) }))

/-- MAP_APPLY (R182, R211): a map loaded takes effect at the start of the next superframe. -/
def execMapApply (s : State) : R :=
  .next (match s.msh.mapNext with
    | none => s
    | some (b, first) => if State.binOf s.asn < first then s else
      let v := (s.msh.mapVersion + 1) % 65536
      (s.setMsh (fun m => { m with map := b, mapNext := none, mapVersion := v })).mshNotice 0 0 4 0 v 0)

/-- AT_DATAGRAM_RECEIVED (R140, R189, R206 to R208). -/
def execAtDatagramReceived (d : Datagram) (s : State) : R :=
  .next (if s.ethUp d.eth && !s.shut 41 && s.regBit Reg.MSH_CTRL 2 && d.dstPort == s.regField Reg.MSH_AT_CFG 15 0 then s.tunnelIn d else s)

/-- AT_COLLECTOR_DOWN (R208, R211). -/
def execAtCollectorDown (collector : Nat) (s : State) : R :=
  .next (match s.msh.collectors.get? collector with
    | none => s
    | some c =>
      if c.down ∨ s.nowNs < c.last + max 1 (s.regField Reg.MSH_AT_CFG 23 16) * 1000000000 then s
      else
        (s.setMsh (fun m => { m with collectors := m.collectors.put collector { c with down := true } })).mshNotice 0
          (match s.epOf collector with | some (i, _) => i | none => 0) 5 0 0 collector)

/-- MSH_SEND_EXPIRED (R210). -/
def execMshSendExpired (id : Nat) (s : State) : R :=
  .next (match s.mshSendOf id with
    | none => s
    | some x => match x.expire with
      | none => s
      | some t => if x.started ∨ s.nowNs < t then s else s.endMsh id 0x0616 0)

/-- MSH_CONFIG (R182, R197, R209). -/
def execMshConfig (c : CmdRef) (p : MshCfgIn) (s : State) : R :=
  .next (if s.dataHeld c then s else if !State.mshCfgOk p then s.reply c St.badParam
    else if s.locked 6 then (s.lockViolation 6).reply c St.lockedReg
    else (s.mshConfigure c p).reply c St.ok)

/-- MSH_SLOT_ADD (R201, R202, R209). -/
def execMshSlotAdd (c : CmdRef) (p : SlotIn) (s : State) : R :=
  .next (if !s.slotOk p p.span then s.reply c St.badParam
    else if !s.epMine c p.endpoint then s.reply c St.notAuthorized
    else s.addAssign c p)

/-- MSH_SLOT_REMOVE (R201, R202, R209). -/
def execMshSlotRemove (c : CmdRef) (endpoint assignment : Nat) (s : State) : R :=
  .next (if !s.epMine c endpoint then s.reply c St.notAuthorized
    else if !s.msh.assigns.any (fun a => a.ep == endpoint && a.id == assignment) then s.reply c St.badParam
    else
      let s := (s.setMsh (fun m => { m with assigns := m.assigns.filter (fun a => !(a.ep == endpoint && a.id == assignment)) })).homeAgain endpoint
      (s.queueMac endpoint 2 assignment (le 2 assignment)).replyWith c St.ok assignment 0)

/-- MSH_SLOT_REMOVE_ALL (R201, R202, R209). -/
def execMshSlotRemoveAll (c : CmdRef) (endpoint : Nat) (s : State) : R :=
  .next (if !s.epMine c endpoint then s.reply c St.notAuthorized
    else
      let s := (s.setMsh (fun m => { m with assigns := m.assigns.filter (fun a => a.ep != endpoint) })).homeAgain endpoint
      (s.queueMac endpoint 2 0xFFFF (le 2 0xFFFF)).replyWith c St.ok 0xFFFF 0)

/-- MSH_NIGHTSLOT_SET (R202, R209): SPAN stands for DRIFT_PPM. -/
def execMshNightslotSet (c : CmdRef) (p : SlotIn) (s : State) : R :=
  .next (if !s.slotOk { p with kind := 0 } 1 || decide (p.span = 0 ∨ 255 < p.span) then s.reply c St.badParam
    else if !s.epMine c p.endpoint then s.reply c St.notAuthorized
    else s.setNight c p)

/-- MSH_NIGHTSLOT_CLEAR (R202, R209, R210). -/
def execMshNightslotClear (c : CmdRef) (endpoint : Nat) (s : State) : R :=
  .next (if !s.epMine c endpoint then s.reply c St.notAuthorized
    else if !s.msh.nights.has endpoint then s.reply c St.ok
    else
      let s := (s.setMsh (fun m => { m with nights := m.nights.del endpoint })).endNightSends endpoint
      (s.queueMac endpoint 4 0 []).reply c St.ok)

/-- MSH_SEND (R183, R196, R209, R210). -/
def execMshSend (c : CmdRef) (p : MshSendIn) (s : State) : R := .next (if s.dataHeld c then s else s.mshSend c p)

/-- MSH_FLOOD (R197, R205, R210). -/
def execMshFlood (c : CmdRef) (p : MshFloodIn) (s : State) : R := .next (if s.dataHeld c then s else s.mshFlood c p)

/-- MSH_BEACON_SET (R185, R210). -/
def execMshBeaconSet (c : CmdRef) (p : BeaconIn) (s : State) : R :=
  .next (if s.dataHeld c then s else if 64 < p.ann.length then s.reply c St.badLength
    else if 3 < p.rate ∨ 127 < p.chA ∨ 127 < p.chB ∨ 3 < p.ports ∨ !s.beaconFits p.rate p.ann.length then s.reply c St.badParam
    else
      let b : BeaconCfg := { en := p.en, rate := p.rate, chA := p.chA, chB := p.chB, ports := p.ports, ann := p.ann, leap := p.leap }
      (s.setMsh (fun m => { m with beacon := s.beaconAt s.intervalNs, beaconNext := some (b, s.nowNs + 2000000) })).reply c St.ok)

/-- MSH_STATUS (R210). -/
def execMshStatus (c : CmdRef) (endpoint : Nat) (s : State) : R :=
  .next (if !s.epMine c endpoint then s.reply c St.notAuthorized
    else (s.writeData c (s.mshBlock endpoint)).replyWith c St.ok s.mshStatus 0)

end Sys2Proof.Machine
end

