-- ==== Sys2Proof/Machine/BilOps.lean ====
section
/-! DEFINITION. Billing: register sets and their MAC, tags of records and tokens, the ledger, applying an interval, replays, tokens and
their results, and tariff campaigns (R372 to R403). -/
set_option Elab.async false
namespace Sys2Proof.Machine

/-! ### Bytes (R374, R380, R382) -/

/-- Set bytes 0 to 303 (R380). -/
def BilSet.head (b : BilSet) : Bytes :=
  le 3 b.endpoint ++ le 1 b.inst ++ le 4 b.epGen ++ le 4 b.sseq ++ le 4 b.lastSeq ++ le 8 b.seqMap ++ le 8 b.lastEts
    ++ le 1 (b.calId + 16 * bitN b.prepay + 32 * bitN b.shadow) ++ le 1 (b.btype + 32 * bitN b.subEval) ++ le 2 b.calVer ++ le 4 b.period
    ++ b.imp.flatMap (le 8) ++ b.exp.flatMap (le 8) ++ le 4 b.mdVal ++ le 1 b.mdRate ++ zeros 3 ++ le 8 b.mdTs ++ le 4 b.pmdVal
    ++ le 1 b.pmdRate ++ zeros 3 ++ le 8 b.pmdTs ++ le 4 b.subNum ++ b.sub.flatMap (le 4) ++ le 8 b.eui ++ le 4 b.keyset ++ zeros 28

/-- The 320 bytes of a set. -/
def BilSet.bytes (b : BilSet) : Bytes := b.head ++ fit 16 b.mac

/-- The set 320 bytes spell. -/
def bilSetOf (b : Bytes) : BilSet :=
  let word := fun (o w n : Nat) => (List.range n).map (fun k => leAt b (o + w * k) w)
  { endpoint := leAt b 0 3 % 2 ^ 21, inst := byteAt b 3 % 16, epGen := leAt b 4 4, sseq := leAt b 8 4, lastSeq := leAt b 12 4
    seqMap := leAt b 16 8, lastEts := leAt b 24 8, calId := byteAt b 32 % 16, prepay := bitAt (byteAt b 32) 4
    shadow := bitAt (byteAt b 32) 5, btype := byteAt b 33 % 32, subEval := bitAt (byteAt b 33) 5, calVer := leAt b 34 2
    period := leAt b 36 4, imp := word 40 8 8, exp := word 104 8 8, mdVal := leAt b 168 4, mdRate := byteAt b 172 % 8
    mdTs := leAt b 176 8, pmdVal := leAt b 184 4, pmdRate := byteAt b 188 % 8, pmdTs := leAt b 192 8, subNum := leAt b 200 4
    sub := word 204 4 15, eui := leAt b 264 8, keyset := leAt b 272 4, mac := slice b 304 16 }

/-- The 16 bytes of a ledger entry (R382). -/
def Ledger.bytes (l : Ledger) : Bytes :=
  le 3 l.lastId ++ le 1 (bitN l.bound + 2 * bitN l.held + 4 * bitN l.replay) ++ le 8 l.window ++ le 4 l.anchor

/-- The record 64 canonical bytes spell (R250). -/
def recOf (b : Bytes) : Rec :=
  { endpoint := leAt b 0 3, inst := byteAt b 3 % 16, cls := byteAt b 3 / 16, typ := byteAt b 4, flags := byteAt b 5
    path := byteAt b 6 % 4, relays := byteAt b 6 / 4 % 8, form := byteAt b 6 / 32 % 4, mt := bitAt (byteAt b 6) 7
    quality := byteAt b 7, ets := leAt b 8 8, rts := leAt b 16 8, seq := leAt b 24 4, fcnt := leAt b 28 4, values := slice b 32 24
    tail := slice b 56 8 }

/-- AR bytes 0 to 39 (R374). -/
def arHead (typ form : Nat) (mt : Bool) (seq ets : Nat) (values : Bytes) : Bytes :=
  le 1 typ ++ le 1 (form + 4 * bitN mt) ++ zeros 2 ++ le 4 seq ++ le 8 ets ++ fit 24 values

/-- The 8-byte tag of CCM over no plaintext, under a key (R373, R392). -/
def tag8 (k : KeySnap) (nonce aad : Bytes) : Bytes := bytesOf (ccmTag (roundKeys k.aes256 k.key) (natsOf nonce) (natsOf aad) [] 8)

/-- A metrology tag (R373). -/
def mtagOf (k : KeySnap) (eui seq nctl : Nat) (aad : Bytes) : Bytes := tag8 k (le 8 eui ++ le 4 seq ++ le 1 nctl) aad

/-- TAG of a token under a token key (R392). -/
def tokenTag (k : KeySnap) (eui n : Nat) : Nat :=
  leAt (tag8 k (le 8 eui ++ le 3 (field n 63 40) ++ le 1 0 ++ le 1 0xEB) (le 6 (n / 2 ^ 24))) 0 3

/-! ### Demand (R385) -/

/-- Evaluates sub-interval `n` under a copy. -/
def evalSub (c : Bytes) (n : Nat) (b : BilSet) : BilSet :=
  let b := { b with subEval := true }
  let k := calNsub c
  if byteAt c 7 % 2 = 1 ∨ (n + 1) % k = 0 then
    let e := ((List.range k).map (fun j => if j ≤ n then b.sub.getD ((n - j) % 15) 0 else 0)).sum
    let d := min (e * 3600 / (k * calSub c)) (2 ^ 32 - 1)
    if b.mdVal < d then
      { b with mdVal := d, mdTs := (n + 1) * calSub c * 2 ^ 30, mdRate := rateOf c ((n + 1 - k) * calSub c) }
    else b
  else b

/-- Sub-interval `n` becomes the latest with data: the slots since the one before are emptied. -/
def moveSub (n : Nat) (b : BilSet) : BilSet :=
  let gone := (List.range (min 15 (n - b.subNum))).map (fun j => (n - j) % 15)
  { b with sub := (List.range 15).map (fun k => if gone.contains k then 0 else b.sub.getD k 0), subNum := n, subEval := false }

/-- The demand of an interval of value `v` that starts and ends at the seconds given; the Boolean says MD_LATE. -/
def demand (c : Bytes) (start stop v : Nat) (b : BilSet) : BilSet × Bool :=
  let n := start / calSub c
  let b := if b.subNum < n then moveSub n (if b.subEval then b else evalSub c b.subNum b) else b
  if b.subNum ≠ n ∨ b.subEval = true then (b, true)
  else
    let b := { b with sub := setAt 0 15 (n % 15) (satAdd 32 (b.sub.getD (n % 15) 0) v) b.sub }
    (if stop = (n + 1) * calSub c then evalSub c n b else b, false)

namespace State

/-- Changes BIL. -/
def setBil (f : Bil → Bil) (s : State) : State := { s with bil := f s.bil }

/-- A BIL notice (R402). -/
def bilNotice (reason campaign endpoint sseq anchor : Nat) (s : State) : State :=
  s.event 0 (le 1 reason ++ le 1 campaign ++ le 3 endpoint ++ zeros 3 ++ le 4 sseq ++ le 4 anchor)

/-- The ledger entry and the set of an index. -/
def ledgerOf (s : State) (i : Nat) : Ledger := s.bil.ledger.getD i {}
def setLedger (i : Nat) (f : Ledger → Ledger) (s : State) : State := s.setBil (fun b => { b with ledger := b.ledger.upd i {} f })
def bilSet (s : State) (i : Nat) : Option BilSet := s.bil.sets.get? i

/-- Does BIL act: the device is in DAY and the roots are open (R42, R383, R420)? -/
def bilLive (s : State) : Bool := s.dev.state == .day && s.rootsOpen

/-- Does the island commit: ownership as the latest heartbeat reports it, and no holdoff (R37, R386, R501, R508)? -/
def bilOwns (s : State) : Bool := s.seam.midView.owned && !s.par.holdoff

/-- Is a set in force (R382)? Its MAC verified when it came to stand. -/
def inForce (s : State) (i : Nat) : Bool :=
  match s.bilSet i with
  | none => false
  | some b => (s.ledgerOf i).bound && b.sseq == (s.ledgerOf i).anchor

/-- Is an endpoint's billing held: HELD, a set that is absent or behind, or a replay under way (R30, R387, R388)? -/
def bilHeld (s : State) (i : Nat) : Bool :=
  (s.ledgerOf i).held || !s.inForce i || s.bil.replays.any (fun r => r.endpoint == i)

/-- May an entry of the pending queue not be acted on yet? -/
def stuck (s : State) (r : Rec) : Bool := r.cls == 0 && s.bilHeld r.endpoint

/-- BIL takes billing copies (R383). -/
def bilTaking (s : State) : Bool :=
  s.bilLive && decide (s.bil.queue.length < 4096) && (match s.bil.queue with | r :: _ => !s.stuck r | [] => true)

/-- Does a durable block hold a record (R296, R383)? -/
def recDurable (s : State) (r : Rec) : Bool :=
  s.arc.map.any (fun e => e.2.valid.any (fun k => k.inst == r.inst && k.cls == r.cls && decide (k.epMin ≤ r.endpoint ∧ r.endpoint ≤ k.epMax)
    && (Block.records k).any (fun b => (recOf b).key == r.key)))

/-- May a short replay of an endpoint not be accepted: its set stands at the anchor, or a replay is under way (R388, R401)? -/
def shortBarred (s : State) (i : Nat) : Bool :=
  match s.bilSet i with
  | none => false
  | some b => (s.ledgerOf i).bound && (decide ((s.ledgerOf i).anchor ≤ b.sseq) || s.bil.replays.any (fun r => r.endpoint == i))

/-- An index foreign to the instance that issues a command (R401). -/
def bilForeign (s : State) (c : CmdRef) (i : Nat) : Bool :=
  c.queue != 256 && (match s.epAt i, s.bilSet i with
    | some x, _ => x.inst != c.inst
    | none, some b => b.inst != c.inst
    | none, none => false)

/-! #### Tags and MACs (R373, R381, R392) -/

/-- EUI-64, key set and instance of a bound endpoint: its set's, or its context's while the set is absent. -/
def bilWho (s : State) (i : Nat) : Nat × Nat × Nat :=
  match s.bilSet i with
  | some b => (b.eui, b.keyset, b.inst)
  | none => let x := s.ctx i; (x.eui, x.keyset, x.inst)

/-- The island MAC of a set (R381). -/
def islandMac (s : State) (b : BilSet) : Bytes :=
  let h := b.head
  bytesOf (ccmTag (roundKeys true s.ireg) (natsOf (slice h 0 12 ++ le 1 0x12)) (natsOf h) [] 16)

/-- Does a record's MTAG verify (R374)? -/
def mtagOk (r : Rec) (s : State) : Bool × State :=
  let (eui, set, inst) := s.bilWho r.endpoint
  let (k, s) := s.islandKey (set % 2 ^ 21) 4 inst
  match k with
  | .ok k =>
    (r.mt && mtagOf k eui r.seq (0x0B + 32 * r.cls) (arHead r.typ r.form true r.seq r.ets r.values) == fit 8 r.tail, s)
  | _ => (false, s)

/-- A record or acknowledgement of the pair partner whose tag fails: the island controller refuses, counts and logs it (R22, R498). -/
def tagRefused (endpoint seq : Nat) (s : State) : State :=
  ({ s with seam := { s.seam with refused := s.seam.refused + 1 } } : State).log 7 0x0D 4 endpoint seq

/-- A record whose MTAG fails (R374). -/
def mtagFails (i : Nat) (s : State) : State := ((s.bump Reg.BIL_MTAG_FAIL).log 7 0x0D 1 i 0).bilNotice 1 0 i 0 0

/-- Does TAG of a token verify (R392)? -/
def tokenOk (i n : Nat) (s : State) : Bool × State :=
  let (eui, set, inst) := s.bilWho i
  let (k, s) := s.islandKey (set % 2 ^ 21) 5 inst
  match k with
  | .ok k => (decide (n < 2 ^ 66) && tokenTag k eui n == n % 2 ^ 24, s)
  | _ => (false, s)

/-! #### Calendars (R376) -/

/-- A copy of a slot, if it holds one. -/
def calCopy (s : State) (slot k : Nat) : Option Bytes := s.bil.cals.get? (slot * 2 + k)

/-- The copies of a slot, and the one of the highest and of the lowest CAL_VER. -/
def calCopies (s : State) (slot : Nat) : List Bytes := (s.calCopy slot 0).toList ++ (s.calCopy slot 1).toList
def calTop (s : State) (slot : Nat) : Option Bytes := (sortOn calVer (s.calCopies slot)).getLast?
def calLow (s : State) (slot : Nat) : Option Bytes := (sortOn calVer (s.calCopies slot)).head?

/-- The copy that governs an instant, and whether that is for want of one activated (R376). -/
def calFor (s : State) (slot t : Nat) : Option (Bytes × Bool) :=
  match (sortOn calVer ((s.calCopies slot).filter (fun c => decide (calActive c ≤ t * 2 ^ 30)))).getLast? with
  | some c => some (c, false)
  | none => (s.calLow slot).map (fun c => (c, true))

/-! #### Applying an interval (R384 to R386) -/

/-- The set an interval makes of a set, with its rate, MD_LATE and CAL_STALE, or the counter of the step it fails (R384 steps 2 to 8). -/
def applySteps (s : State) (r : Rec) (b : BilSet) : (BilSet × Nat × Bool × Bool) ⊕ Nat :=
  let t := r.ets / 2 ^ 30
  if r.typ ≠ b.btype then .inr Reg.BIL_TYPE_SKIP
  else match s.calFor b.calId t with
  | none => .inr Reg.BIL_CAL_STALE
  | some (c0, _) =>
    let len := calInterval c0
    if r.ets % 2 ^ 30 ≠ 0 ∨ t % len ≠ 0 then .inr Reg.BIL_MISALIGNED
    else if s.rtcStamp + 600 * 2 ^ 30 < r.ets then .inr Reg.BIL_FUTURE_ETS
    else match winTest b.lastSeq b.seqMap r.seq with
    | .below => .inr Reg.BIL_SEQ_OLD
    | .taken => .inr Reg.BIL_SEQ_REPEAT
    | .new =>
      let start := t - len
      let (c, stale) := (s.calFor b.calId start).getD (c0, true)
      let p := periodOf c start
      let b := if b.period < p then
          { b with
            pmdVal := b.mdVal, pmdRate := b.mdRate, pmdTs := b.mdTs, mdVal := 0, mdRate := 0, mdTs := 0, period := p }
        else b
      let rate := rateOf c start
      let b := { b with
        imp := setAt 0 8 rate (satAdd 64 (b.imp.getD rate 0) (word64 r.values 0)) b.imp
        exp := setAt 0 8 rate (satAdd 64 (b.exp.getD rate 0) (word64 r.values 1)) b.exp }
      let (b, late) := demand c start t (word64 r.values 0) b
      let w := winTake b.lastSeq b.seqMap r.seq
      .inl ({ b with lastSeq := w.1, seqMap := w.2, lastEts := max b.lastEts r.ets, calVer := calVer c }, rate, late, stale)

/-- A new set is stored (R384 step 9, R386): SSEQ rises, the MAC is formed, ANCHOR is written unless a replay brings the set up to it. -/
def storeSet (i : Nat) (b : BilSet) (anchor : Bool) (counter : Nat) (s : State) : State :=
  let b := { b with sseq := (b.sseq + 1) % 2 ^ 32, shadow := !s.bilOwns }
  let b := { b with mac := s.islandMac b }
  let s := s.setBil (fun x => { x with sets := x.sets.put i b })
  (if anchor then s.setLedger i (fun l => { l with anchor := b.sseq }) else s).bump counter

/-- Applies a class 0 record to the set of an endpoint (R384). `counter` is APPLIED or REPLAYED. -/
def applyInterval (r : Rec) (anchor : Bool) (counter : Nat) (s : State) : State :=
  match s.bilSet r.endpoint with
  | none => s
  | some b =>
    let (ok, s) := (s.seamSend .noon 6 b.bytes).mtagOk r
    if !ok then s.mtagFails r.endpoint
    else match s.applySteps r b with
    | .inr k => s.bump k
    | .inl (b, rate, late, stale) =>
      let s := if stale then s.bump Reg.BIL_CAL_STALE else s
      let s := if late then s.bump Reg.BIL_MD_LATE else s
      let s := s.digestItem 2 r.rts [r.endpoint, r.seq, word64 r.values 0, word64 r.values 1, rate]
      (s.seamSend .midnight 6 b.bytes).storeSet r.endpoint b anchor counter

/-- An endpoint's billing becomes held (R30, R402). -/
def holdBilling (i : Nat) (s : State) : State :=
  (s.setLedger i (fun l => { l with held := true })).bilNotice 4 0 i 0 0

/-- A set that fails its MAC (R30): the interval stays, the endpoint is held. -/
def setMacFail (i : Nat) (s : State) : State :=
  let b := (s.bilSet i).getD {}
  (((s.bump Reg.BIL_MAC_FAIL).log 7 0x0D 2 i 0).bilNotice 2 0 i b.sseq (s.ledgerOf i).anchor).holdBilling i

/-! #### Restores and replays (R388, R389) -/

/-- The durable class 0 records of an endpoint from an ETS on, in the append order of the namespace its stream is bound to (R388). -/
def archived (s : State) (i inst start : Nat) : List Rec :=
  let blocks := ((s.extsFrom (s.bindNs inst 0) 0).flatMap (fun e => e.2.valid)).filter (fun k =>
    k.inst == inst && k.cls == 0 && decide (k.epMin ≤ i ∧ i ≤ k.epMax))
  ((blocks.flatMap Block.records).map recOf).filter (fun r => r.endpoint == i && decide (start ≤ r.ets))

/-- A restore with no replay left completes (R401): OK where a set is in force, else the status of the first that failed. -/
def endRestore (k : Nat) (s : State) : State :=
  match s.bil.restores.get? k with
  | none => s
  | some j =>
    if s.bil.replays.any (fun r => r.job == some k) then s
    else
      let s := s.setBil (fun b => { b with restores := b.restores.del k })
      let st := if j.good = 0 ∧ j.fail ≠ 0 then j.fail else St.ok
      s.replyWith j.cmd st j.good j.refused

/-- Counts a set of a restore: in force, or refused or short with a status. -/
def countRestore (k : Option Nat) (good : Bool) (refused : Bool) (status : Nat) (s : State) : State :=
  match k with
  | none => s
  | some k => s.setBil (fun b => { b with restores := b.restores.adj k (fun j =>
      { j with good := j.good + bitN good, refused := j.refused + bitN refused, fail := if j.fail = 0 then status else j.fail }) })

/-- Pending entries of an endpoint that its set has taken in leave the queue (R389). -/
def dropApplied (i : Nat) (s : State) : State :=
  match s.bilSet i with
  | none => s
  | some b => s.setBil (fun x => { x with queue := x.queue.filter (fun r =>
      !(r.cls == 0 && r.endpoint == i && winTest b.lastSeq b.seqMap r.seq == .taken)) })

/-- An endpoint's set is in force and nothing awaits replay: HELD and REPLAY clear (R388). -/
def releaseHold (i : Nat) (job : Option Nat) (s : State) : State :=
  let s := (s.setLedger i (fun l => { l with held := false, replay := false })).bilNotice 5 0 i 0 0
  (s.dropApplied i).countRestore job true false 0

/-- A replay begins (R388): behind ANCHOR from 64 intervals before LAST_ETS, or over what left the queue from LAST_ETS on. -/
def startReplay (i : Nat) (behind : Bool) (job : Option Nat) (s : State) : State :=
  let b := (s.bilSet i).getD {}
  let len := match s.calFor b.calId (b.lastEts / 2 ^ 30) with | some (c, _) => calInterval c | none => 0
  let start := if behind then b.lastEts - 64 * len * 2 ^ 30 else b.lastEts
  s.setBil (fun x => { x with replays := x.replays ++ [{ endpoint := i, start := start, behind := behind, job := job }] })

/-- A set in force is released, after the replay of what left the queue where REPLAY is set (R388). -/
def goInForce (i : Nat) (job : Option Nat) (s : State) : State :=
  if (s.ledgerOf i).replay then s.startReplay i false job else s.releaseHold i job

/-- A replay is over: the set stands at ANCHOR, or the archive is exhausted (R388). -/
def endReplay (r : Replay) (s : State) : State :=
  let s := s.setBil (fun b => { b with replays := b.replays.filter (fun x => x.endpoint != r.endpoint) })
  let b := (s.bilSet r.endpoint).getD {}
  let l := s.ledgerOf r.endpoint
  let s := if !r.behind then s.releaseHold r.endpoint r.job
    else if b.sseq = l.anchor then s.goInForce r.endpoint r.job
    else ((s.setLedger r.endpoint (fun l => { l with held := true })).bilNotice 3 0 r.endpoint b.sseq l.anchor).countRestore r.job false false 0x0811
  match r.job with | some k => s.endRestore k | none => s

/-- The next archived record of a replay is read and applied, or the replay ends (R388). -/
def replayNext (i : Nat) (s : State) : State :=
  match s.bil.replays.find? (fun r => r.endpoint == i) with
  | none => s
  | some r =>
    match (s.archived i (s.bilWho i).2.2 r.start)[r.read]? with
    | none => s.endReplay r
    | some x =>
      let s := s.setBil (fun b => { b with replays := b.replays.map (fun y => if y.endpoint = i then { y with read := y.read + 1 } else y) })
      let s := s.applyInterval x (!r.behind) Reg.BIL_REPLAYED
      if r.behind && s.inForce i then s.endReplay { r with read := r.read + 1 } else s

/-- One set of a restore (R388, R401). -/
def restoreSet (k : Nat) (data : Bytes) (s : State) : State :=
  let b := bilSetOf data
  let i := b.endpoint
  let l := s.ledgerOf i
  let refuse := fun (st : Nat) (s : State) =>
    ((s.bump Reg.BIL_MAC_FAIL).bilNotice 2 0 i b.sseq l.anchor).countRestore (some k) false true st
  if !l.bound || b.head != data.take 304 || s.islandMac b != b.mac || s.bil.replays.any (fun r => r.endpoint == i) then refuse 0x0810 s
  else if l.anchor < b.sseq then refuse 0x0812 s
  else
    let s := s.setBil (fun x => { x with sets := x.sets.put i b })
    if b.sseq = l.anchor then s.goInForce i (some k) else s.startReplay i true (some k)

/-! #### Tokens (R391 to R398) -/

/-- Journal records free (R394, R426). -/
def journalFree (s : State) : Nat := s.kvt.journalCap - bitN s.bil.accept.isSome

/-- The outcome of a token (R393): its RESULT code 0 to 5, 6 for LEDGER_FULL, 7 for outcome 1. -/
def tokenOutcome (i n : Nat) (s : State) : Nat × State :=
  if !s.bilOwns || !s.bilLive then (7, s)
  else if s.wornMram || s.journalFree == 0 then (4, s)
  else
    let (ok, s) := s.tokenOk i n
    let l := s.ledgerOf i
    let id := field n 63 40
    if !ok then (2, s)
    else if field n 65 64 = 3 then (5, s)
    else if id = 0 ∨ id + 63 < l.lastId then (3, s)
    else if id ≤ l.lastId ∧ bitAt l.window (l.lastId - id) = true then (1, s)
    else if l.lastId = 0xFFFFFF then (6, s)
    else (0, s)

/-- The counters of R403 for an outcome. -/
def tokenCounter (r : Nat) : Nat :=
  match r with
  | 0 => Reg.BIL_TOKENS_ACCEPTED
  | 1 => Reg.BIL_TOKENS_ALREADY
  | 4 | 7 => Reg.BIL_TOKENS_HELD
  | 6 => Reg.BIL_LEDGER_FULL
  | _ => Reg.BIL_TOKENS_REJECTED

/-- The TOKEN_RESULT AR (R397). -/
def tokenResult (i n r : Nat) (s : State) : Bytes × State :=
  let mt := decide (r ≤ 1)
  let head := arHead 0x58 0 mt (field n 63 40) 0 (le 8 (n % 2 ^ 64) ++ le 8 (field n 65 64 + r * 2 ^ 8) ++ zeros 8)
  if !mt then (head, s)
  else
    let (eui, set, inst) := s.bilWho i
    let (k, s) := s.islandKey (set % 2 ^ 21) 4 inst
    match k with
    | .ok k => (head ++ mtagOf k eui (field n 63 40) 0xCB head, s)
    | _ => (head ++ zeros 8, s)

/-- A frame of the part's own goes to an endpoint by the medium of its LAST_ACC_PATH (R397, R399). -/
def ownUnicast (tag i : Nat) (body : Bytes) (s : State) : State :=
  match s.epAt i with
  | none => s.ownReply tag 0x0610
  | some x =>
    let c : CmdRef := ⟨ownQueue, tag, x.inst⟩
    if x.lastAccPath = 0 then
      let p : PlcSendIn :=
        { endpoint := i, ackreq := true, sec := true, launchAt := none, route := 0, rate := 0, chains := 0, keyref := 1, miclen := 1
          payload := body }
      s.plcSend c p
    else
      let p : MshSendIn :=
        { endpoint := i, ackreq := true, sec := true, tunnel := x.lastAccPath == 3, when' := 0, rate := 0, keyref := 1, miclen := 1
          payload := body, expireS := 0, launchAt := 0 }
      s.mshSend c p

/-- TOKEN_RESULT goes out (R394 step 4, R397); a BIL.CREDIT.PUSH waits for the frame's end (R401). -/
def answerToken (i n r : Nat) (push : Option CmdRef) (s : State) : State :=
  let tag := s.bil.nextPush
  let s := s.setBil (fun b => { b with nextPush := tag + 1, pushes := match push with | some c => b.pushes.put tag (c, r) | none => b.pushes })
  let (ar, s) := s.tokenResult i n r
  (s.seamSend .midnight 6 ar).ownUnicast tag i ar

/-- The 16-byte AES-CCM tag of a message between the islands of a pair (R498). The manual gives the PAIR key and not the nonce: the tag's value is
free. -/
def pairTag (s : State) : Bytes := fit 16 (Config.freeBytes s.freeCtr)

/-- A journaled acceptance goes to the partner's island (R395, R498): held until acknowledged, 1 024 at most. -/
def sendIslandRec (i lastId window : Nat) (s : State) : State :=
  if s.dev.role != .active then s
  else
    let r : IslandRec := { seq := s.bil.islandSeq, endpoint := i, lastId := lastId, window := window }
    let s := s.setBil (fun b => { b with
      islandSeq := (b.islandSeq + 1) % 2 ^ 32
      unacked := if b.unacked.length < 1024 then b.unacked ++ [r] else b.unacked
      stale := b.stale || decide (1024 ≤ b.unacked.length) })
    (s.drawn.bump Reg.PAR_ISLAND_RECS_TX).emit (.pair 4 (le 4 r.seq ++ le 4 i ++ le 3 lastId ++ zeros 1 ++ le 8 window ++ s.pairTag))

/-- Steps 2 to 4 of R394 for a journaled acceptance. -/
def acceptOn (a : Accept) (s : State) : State :=
  let s := s.setLedger a.endpoint (fun l => { l with lastId := a.lastId, window := a.window })
  let s := (s.setBil (fun b => { b with accept := none })).bump Reg.BIL_TOKENS_ACCEPTED
  (s.sendIslandRec a.endpoint a.lastId a.window).answerToken a.endpoint a.token 0 a.push

/-- An acceptance under way goes on to its end (R394). -/
def finishAccept (s : State) : State :=
  match s.bil.accept with | some a => s.acceptOn a | none => s

/-- A token is decided, journaled and answered (R393, R394). `cut` stops an acceptance before or after step 1 verifies, for the tamper
alarm or power loss that then meets it. -/
def tokenDecide (i n : Nat) (push : Option CmdRef) (cut : Option Bool) (s : State) : State :=
  let (r, s) := s.tokenOutcome i n
  if r = 0 then
    let l := s.ledgerOf i
    let w := winTake l.lastId l.window (field n 63 40)
    let a : Accept := { endpoint := i, lastId := w.1, window := w.2, token := n, verified := cut == some true, push := push }
    match cut with
    | some _ => s.setBil (fun b => { b with accept := some a })
    | none => s.acceptOn a
  else
    let s := s.bump (tokenCounter r)
    match push with
    | none => if r ≤ 5 then s.answerToken i n r none else s
    | some c =>
      if r = 4 then (s.answerToken i n r none).reply c 0x0210
      else if r = 7 then s.reply c 0x0210
      else if r = 6 then s.reply c 0x0510
      else s.answerToken i n r (some c)

/-! #### Campaigns (R398, R399) -/

/-- The tag of a campaign's frames. -/
def campTag (n : Nat) : Nat := 2 ^ 32 + n

/-- The 171 TARIFF_SEGMENT ARs of an image (R398), under a group key. -/
def tariffSegments (k : KeySnap) (x : Campaign) : List Bytes :=
  (List.range 171).map (fun i =>
    let seq := x.calVer * 65536 + i
    let head := arHead 0x59 0 true seq (calActive x.image) (fit 24 (slice x.image (24 * i) 24))
    head ++ mtagOf k x.group seq 0xAB head)

/-- Whole segments a frame carries, `room` bytes being left for its body. -/
def perFrame (room : Nat) : Nat := max 1 (room / 48)

/-- The frames of a campaign's segments, for a room in bytes. -/
def campFrames (room : Nat) (segs : List Bytes) : List Bytes := (pieces (perFrame room) 171 segs).map List.flatten

/-- Room for the body of a sealed power-line frame, and of a radio frame, of the part (R139, R188): relays and prefix counted. -/
def plcRoom : Nat := 2048 - plcLen 5 true 4 1
def mshRoom : Nat := 2047 - mshLen 15 true 4 1

/-- The first night of a campaign: its segments go out by multicast and flood (R399 step 2). The parameters the manual leaves open are
free within their range. -/
def campMulticast (n : Nat) (x : Campaign) (segs : List Bytes) (s : State) : State :=
  let c : CmdRef := ⟨ownQueue, campTag n, x.cmd.inst⟩
  let u := fun k => Config.unstated 5 k n
  let s := if bitAt x.media 0 then
      (campFrames plcRoom segs).foldl (fun s f =>
        let p : PlcMcastIn :=
          { group := x.group, hopsLeft := u 0 % 6, spread := 1 + u 1 % 15, repeats := x.repeats, gap := 1 + u 2 % 255
            keyref := x.keyref, sec := true, miclen := 1, chains := 0, payload := f }
        s.plcMcast c p) s
    else s
  if bitAt x.media 1 then
    (campFrames mshRoom segs).foldl (fun s f =>
      let p : MshFloodIn :=
        { group := x.group, ttl := 1 + u 3 % 15, spread := 1 + u 4 % 15, repeats := x.repeats, keyref := x.keyref, miclen := 1
          ports := 0, payload := f }
      s.mshFlood c p) s
  else s

/-- A later night: unicast to each endpoint not yet confirmed (R399 step 3). -/
def campUnicast (n : Nat) (x : Campaign) (segs : List Bytes) (s : State) : State :=
  if !bitAt x.media 2 then s
  else (x.endpoints.filter (fun i => !x.confirmed.contains i)).foldl (fun s i =>
    let room := if (s.ctx i).lastAccPath = 0 then plcRoom else mshRoom
    (campFrames room segs).foldl (fun s f => s.ownUnicast (campTag n) i f) s) s

/-- Frames of a campaign that have not started leave the media's queues. -/
def dropCampaign (n : Nat) (s : State) : State :=
  let mine := fun (c : Option CmdRef) => c.any (fun c => c.queue == ownQueue && c.tag == campTag n)
  { s with
    plc := { s.plc with sends := s.plc.sends.filter (fun x => x.started || !mine x.cmd) }
    msh := { s.msh with sends := s.msh.sends.filter (fun x => x.started || !mine x.cmd) } }

/-- Seconds of the AON RTC. -/
def rtcNow (s : State) : Nat := s.rtcStamp / 2 ^ 30

/-- The night an instant of the small-hours window belongs to: the local day on which the window opened. -/
def nightOf (c : Bytes) (t : Nat) : Nat := (localOf c t - leAt c 50 2 * 60) / 86400

/-- Is now in the small-hours window of a campaign's slot (R399)? -/
def campWindow (s : State) (x : Campaign) : Bool :=
  match s.calFor x.calId s.rtcNow with | some (c, _) => smallHours c s.rtcNow | none => false

/-- A campaign runs in an open window (R399): the segments of this night are sent once. -/
def campOpen (n : Nat) (s : State) : State :=
  match s.bil.campaigns.get? n with
  | none => s
  | some x =>
    let night := match s.calFor x.calId s.rtcNow with | some (c, _) => nightOf c s.rtcNow | none => 0
    let new := x.lastNight != some night
    let y := { x with paused := false, lastNight := some night, nights := x.nights + bitN new }
    let s := s.setBil (fun b => { b with campaigns := b.campaigns.put n y })
    let (k, _, s) := s.noonKey ((placeOf 0 x.cmd.inst x.keyref).getD 0) x.cmd.inst
    match k with
    | .ok k =>
      let segs := tariffSegments k y
      if y.nights = 1 then s.campMulticast n y segs else s.campUnicast n y segs
    | _ => s

/-- A campaign pauses (R399). -/
def campPause (n : Nat) (s : State) : State :=
  (((s.setBil (fun b => { b with campaigns := b.campaigns.adj n (fun x => { x with paused := true }) })).dropCampaign n)).bilNotice 6 n 0 0 0

/-- Every running campaign pauses: the part loses ownership (R399). -/
def campPauseAll (s : State) : State :=
  (s.bil.campaigns.filter (fun e => !e.2.paused)).foldl (fun s e => s.campPause e.1) s

/-- A campaign ends (R399, R401). -/
def campEnd (n status : Nat) (s : State) : State :=
  match s.bil.campaigns.get? n with
  | none => s
  | some x =>
    let s := (s.setBil (fun b => { b with campaigns := b.campaigns.del n })).dropCampaign n
    s.replyWith x.cmd status x.confirmed.length (min 65535 (x.endpoints.length - x.confirmed.length))

/-- A TARIFF_ACTIVE record confirms its endpoint in every campaign it answers (R399 steps 4 and 5). -/
def campConfirm (r : Rec) (s : State) : State :=
  let (ok, s) := s.mtagOk r
  if !ok then s.mtagFails r.endpoint
  else s.bil.campaigns.foldl (fun s e =>
    let x := e.2
    if x.endpoints.contains r.endpoint && !x.confirmed.contains r.endpoint && word64 r.values 1 == x.calId && decide (x.calVer ≤ word64 r.values 0) then
      let y := { x with confirmed := x.confirmed ++ [r.endpoint] }
      let s := s.setBil (fun b => { b with campaigns := b.campaigns.put e.1 y })
      if y.confirmed.length = y.endpoints.length then s.campEnd e.1 St.ok else s
    else s) s

end State
end Sys2Proof.Machine
end

