-- ==== Sys2Proof/Machine/Fab.lean ====
section
/-! DEFINITION. Fabric arbitration: targets, the three-level arbiter tree, share compensation and QUIET (R515 to R523). -/
set_option Elab.async false
namespace Sys2Proof.Machine

/-- The ports of each unit of each group (R516): Control, Field, Trust, Data, Seam. -/
def fabTree : List (List (List Nat)) :=
  [ [[0, 1], [2], [3]],
    [[4, 5], [6], [7, 8], [9]],
    [[10, 11], [12], [13], [14, 15]],
    [[16, 17, 18, 19], [20], [21, 22, 23, 24], [25]],
    [[26, 27]] ]

/-- The units of a group. -/
def fabUnits (g : Nat) : List (List Nat) := fabTree.getD g []

/-- The ports of unit `u` of group `g`. -/
def fabPorts (g u : Nat) : List Nat := (fabUnits g).getD u []

/-- The next of `n` after `last`, in ascending rotation, that satisfies `p` (R517). -/
def nextOf (n last : Nat) (p : Nat → Bool) : Option Nat :=
  ((List.range n).map (fun k => (last + 1 + k) % n)).find? p

/-- May a port request a target (R515, R516): only ARC's ports request the storage root ports. -/
def fabRoute (t p : Nat) : Bool := decide (p < 28) && decide (t < 6) && (decide (t < 4) || (21 ≤ p && p ≤ 24))

/-- The grant the arbiter tree makes among the active ports: the port, and the tree with its turns advanced (R517, R519).
While `comp`, a turn grants as many bursts as the child has active ports when it is sampled, no port twice; otherwise one. A port that becomes
active during a turn of its unit joins at the next (R521). -/
def arbitrate (comp : Bool) (act : List Nat) (x : Target) : Option (Nat × Target) :=
  let live := fun p : Nat => act.contains p
  let groupActive := fun g : Nat => (fabUnits g).any (fun u => u.any live)
  let unserved := fun (served : List Nat) (p : Nat) => live p && !served.contains p
  let stay := x.groupLeft != 0 && (fabUnits x.lastGroup).any (fun u => u.any (unserved x.served))
  match (if stay then some x.lastGroup else nextOf 5 x.lastGroup groupActive) with
  | none => none
  | some g =>
    let served := if stay then x.served else []
    let count := (fabUnits g).foldl (fun a u => a + (u.filter live).length) 0
    let gl := if stay then x.groupLeft else (if comp then count else 1)
    let n := (fabUnits g).length
    let lu := x.lastUnit.getD g (n - 1)
    let ul := x.unitLeft.getD g 0
    let joins := fun p : Nat => unserved served p && (x.joined.getD g []).contains p
    let stayU := ul != 0 && (fabPorts g lu).any joins
    match (if stayU then some lu else nextOf n lu (fun u => (fabPorts g u).any (unserved served))) with
    | none => none
    | some u =>
      let ports := fabPorts g u
      let ul := if stayU then ul else (if comp then (ports.filter live).length else 1)
      let base := ports.headD 0
      let lp := x.lastPort.getD base (base + ports.length - 1)
      match nextOf ports.length (lp - base) (fun k => if stayU then joins (base + k) else unserved served (base + k)) with
      | none => none
      | some k =>
        some (base + k,
          { x with lastGroup := g, groupLeft := gl - 1, served := (base + k) :: served
                   lastUnit := x.lastUnit.put g u, unitLeft := x.unitLeft.put g (ul - 1)
                   joined := if stayU then x.joined else x.joined.put g (ports.filter live), lastPort := x.lastPort.put base (base + k) })

/-- The domains whose units use a port: the port has power while one of them is on (R516, R540). -/
def portDoms (p : Nat) : List Nat :=
  if p < 2 then [8] else if p = 2 then [4] else if p = 3 then [0] else if p < 6 then [39] else if p = 6 then [21, 22]
  else if p < 9 then [41] else if p = 9 then [16] else if p < 12 then [17] else if p = 12 then [11] else if p = 13 then [10]
  else if p < 16 then [0] else if p < 20 then [18] else if p = 20 then [45] else if p < 25 then [42] else if p = 25 then [46] else [0]

/-- The ports of a domain. -/
def domPorts (d : Nat) : List Nat := (List.range 28).filter (fun p => (portDoms p).contains d)

namespace State

/-- Has a port's unit power (R38, R40)? A unit whose domain is off or ramps is masked from arbitration. -/
def portUp (s : State) (p : Nat) : Bool := (portDoms p).any s.domOn

/-- Replaces a target. -/
def setTarget (t : Nat) (x : Target) (s : State) : State := { s with fab := { s.fab with targets := s.fab.targets.put t x } }

/-- Counts a grant: GRANTS, WAIT_MAX, WAIT_OVER and the noon cycles of BUSY (R520, R523). A request passes three levels, one noon cycle
each (R517). -/
def countGrant (t : Nat) (b : Burst) (active : Nat) (s : State) : State :=
  let wait := max 3 (s.dev.nc - b.raised)
  let idx := t * 32 + b.port
  let s := s.bumpI Reg.FAB_GRANTS idx
  let s := s.setRegI Reg.FAB_WAIT_MAX idx (max (s.regI Reg.FAB_WAIT_MAX idx) wait)
  let s := s.setRegI Reg.FAB_BUSY t (satAdd 32 (s.regI Reg.FAB_BUSY t) (ceilDiv b.bytes 64))
  if !s.regBit Reg.FAB_CTRL 0 && decide (3 + 4 * (active - 1) < wait) then s.bumpI Reg.FAB_WAIT_OVER t else s

/-- Grants the next burst at an idle target (R517 to R519). -/
def grantNext (t : Nat) (s : State) : State :=
  let x := s.target t
  if x.now.isSome then s
  else
    let act := s.activePorts t
    match arbitrate (s.regBit Reg.FAB_CTRL 0) act x with
    | none => s
    | some (p, x') =>
      match x.waiting.find? (fun b => b.port == p) with
      | none => s
      | some b =>
        (s.setTarget t { x' with now := some b, waiting := x.waiting.eraseP (fun b => b.port == p) }).countGrant t b act.length

/-- Ends the burst under way at a target, and grants the next (R518). -/
def endBurst (t : Nat) (s : State) : State := (s.setTarget t { s.target t with now := none }).grantNext t

/-- What QUIET does at one target: requests of the port go, and its burst is cut and counted (R522). -/
def quietTarget (p t : Nat) (s : State) : State :=
  let x := s.target t
  let s := s.setTarget t { x with waiting := x.waiting.filter (fun b => b.port != p) }
  match x.now with
  | none => s
  | some b => if b.port = p then (s.bumpI Reg.FAB_QUIET_ABORT t).endBurst t else s

/-- QUIET rises on a port (R40, R522). -/
def quietRise (p : Nat) (s : State) : State :=
  let s : State := { s with fab := { s.fab with quiet := if s.fab.quiet.contains p then s.fab.quiet else p :: s.fab.quiet } }
  (List.range 6).foldl (fun s t => s.quietTarget p t) s

end State

/-- FAB_BURST_REQUEST (R38, R40, R515 to R517): a request of 1 to 256 bytes; ignored while the port is QUIET or its unit has no power, and
target 5 does not exist in the ×16 storage configuration. -/
def execFabBurstRequest (target port bytes : Nat) (write : Bool) (s : State) : R :=
  .next (
    if !fabRoute target port || (target == 5 && s.pwr.srpX16) || s.fab.quiet.contains port || !s.portUp port || bytes = 0 || decide (256 < bytes) then s
    else
      let x := s.target target
      (s.setTarget target { x with waiting := x.waiting ++ [{ port := port, bytes := bytes, write := write, raised := s.dev.nc }] }).grantNext target)

/-- FAB_BURST_END (R518, R519). -/
def execFabBurstEnd (target : Nat) (s : State) : R :=
  .next (match (s.target target).now with | none => s | some _ => s.endBurst target)

/-- QUIET_RISE (R40, R522). -/
def execQuietRise (port : Nat) (s : State) : R := .next (if port < 28 then s.quietRise port else s)

/-- QUIET_FALL (R521, R522). -/
def execQuietFall (port : Nat) (s : State) : R :=
  .next { s with fab := { s.fab with quiet := s.fab.quiet.filter (· != port) } }

end Sys2Proof.Machine
end

