-- ==== Sys2Proof/Machine/Dom.lean ====
section
/-! DEFINITION. Power domains: what each requires, how long it ramps, and its switching on and off (R540, R541). -/
set_option Elab.async false
namespace Sys2Proof.Machine

/-- The domains a domain requires (R540). -/
def domRequires (d : Nat) : List Nat :=
  if d = 0 ∨ d = 48 ∨ d = 49 then []
  else if d = 1 ∨ d = 2 ∨ d = 3 ∨ d = 9 ∨ d = 47 then [0]
  else if d = 4 then [0, 3]
  else if 5 ≤ d ∧ d ≤ 7 then [0, 3, 4]
  else if d = 17 then [0, 3, 11]
  else if d = 19 ∨ d = 20 then [0, 3, 16]
  else if d = 40 then [0, 3, 39]
  else if d = 43 ∨ d = 44 then [0, 3, 42]
  else if d < 47 then [0, 3]
  else if d = 50 ∨ d = 51 then [49]
  else if d = 52 ∨ d = 62 then [49, 50]
  else if d = 53 then [49, 51]
  else if 54 ≤ d ∧ d ≤ 61 then [49, 51, 53]
  else [49, 51, 0, 3, 39]

namespace State

/-- Sets a domain's state. -/
def setDom (d : Nat) (f : Domain → Domain) (s : State) : State :=
  { s with pwr := { s.pwr with domains := s.pwr.domains.put d (f (s.domain d)) } }

/-- A domain's rail is switched on and it ramps; it is on at its DOMAIN_RAMP_DONE (R541). A domain that is on or ramping stays so. -/
def rampOne (d : Nat) (s : State) : State :=
  match (s.domain d).state with
  | .on => s
  | .ramping => s
  | _ => s.setDom d (fun x => { x with state := .ramping })

/-- Switching a domain on first switches on the domains it requires (R540). -/
def domRamp (d : Nat) (s : State) : State := ((domRequires d).foldl (fun s r => s.rampOne r) s).rampOne d

/-- A domain stands on, and QUIET falls for its ports (R541). -/
def domUp (d : Nat) (s : State) : State :=
  let s := s.setDom d (fun x => { x with state := .on, hostOff := false })
  { s with fab := { s.fab with quiet := s.fab.quiet.filter (fun p => !(domPorts d).contains p) } }

/-- A domain is off (R541). -/
def domDown (d : Nat) (s : State) : State := s.setDom d (fun x => { x with state := .off })

/-- Does a PLC chain have RX_EN or TX_EN set (R540)? -/
def plcaOn (s : State) : Bool := s.regField Reg.PLC_CTRL 11 4 != 0

/-- QUIET rises on the ports that a domain switched off leaves without power (R40, R522). -/
def domQuiet (d : Nat) (s : State) : State := ((domPorts d).filter (fun p => !s.portUp p)).foldl (fun s p => s.quietRise p) s

/-- One domain is switched off outside DUSK (R40, R541, R557). -/
def switchOff (d : Nat) (s : State) : State :=
  if (s.domain d).state = .off then s else ((s.domDown d).domQuiet d).bump Reg.PWR_QUIET_EVENTS

end State
end Sys2Proof.Machine
end

