-- ==== Sys2Proof/Machine/LosOps.lean ====
section
/-! DEFINITION. The loss engine's operations (R323 to R341): the tree, the lanes of balance intervals, the balance of a lane in exact
integers, the flags, the phase correlation, and the notices. -/
set_option Elab.async false
namespace Sys2Proof.Machine

/-- A tree as LOS holds it (R323). -/
abbrev LosTree := List LosNodeIn

/-- What a node hands its parent in the balance (R331): flow, zone loss, and its zone's coverage and worst status. -/
structure LosSum where
  f : Int := 0
  z : Int := 0
  cov : Nat := 0
  exp : Nat := 0
  worst : Nat := 0
  deriving DecidableEq, Repr

/-- Two contributions together. -/
def LosSum.plus (a b : LosSum) : LosSum :=
  { f := a.f + b.f, z := a.z + b.z, cov := a.cov + b.cov, exp := a.exp + b.exp, worst := max a.worst b.worst }

/-- Watts over BAL_S in mWh, rounded down (R331, R332). -/
def wattsMwh (w balS : Nat) : Nat := w * balS * 10 / 36

/-- A node's own loss (R331 step 4). -/
def ownLoss (nd : LosNodeIn) (balS : Nat) (e : Int) : Int :=
  let load : Nat := if nd.llPpm = 0 then 0 else e.natAbs * e.natAbs * nd.llPpm / (1000000 * wattsMwh nd.pRefW balS)
  ((wattsMwh nd.nlW balS + load : Nat) : Int)

/-- Consumption and status of a node: 0 complete, 1 estimated, 2 incomplete (R331 step 2). -/
def consumption (cfg : LosCfg) (attached cov : Nat) (sum : Int) : Int × Nat :=
  let exp := attached * cfg.balS
  if attached = 0 then (0, 0)
  else if cov = exp then (sum, 0)
  else if cfg.coverMin * exp ≤ cov * 1000 ∧ 0 < cov then (Int.fdiv (sum * exp) cov, 1)
  else (sum, 2)

/-- Integer square root of a number below 2^36, by bits. -/
def isqrt (x : Nat) : Nat :=
  (List.range 18).foldr (fun i a => if (a + 2 ^ i) * (a + 2 ^ i) ≤ x then a + 2 ^ i else a) 0

/-- 32 767 times num / sqrt(a * b), to nearest, ties away from zero (R336); 0 when a factor is 0. -/
def phaseR (num : Int) (a b : Nat) : Int :=
  if a * b = 0 then 0
  else
    let t := isqrt ((65534 * num.natAbs) * (65534 * num.natAbs) / (a * b))
    if num < 0 then -(((t + 1) / 2 : Nat) : Int) else (((t + 1) / 2 : Nat) : Int)

/-- The result of R336 for a window: phase, confidence, whether it may be a mismatch, and R_L1 to R_L3. -/
def publish (cfg : LosCfg) (p : PhaseAcc) : Nat × Nat × List Int :=
  let n : Int := p.n
  let fx : Int := n * p.sxx - p.sx * p.sx
  let fv := fun k => n * p.svv.getD k 0 - p.sv.getD k 0 * p.sv.getD k 0
  let r := (List.range 3).map (fun k => phaseR (n * p.sxv.getD k 0 - p.sx * p.sv.getD k 0) fx.toNat (fv k).toNat)
  let g := fun k => r.getD k 0
  let best := if g 0 ≥ g 1 ∧ g 0 ≥ g 2 then 0 else if g 1 ≥ g 2 then 1 else 2
  let second := ((List.range 3).filter (· != best)).foldl (fun m k => max m (g k)) (-32768)
  let conf := if (cfg.phRmin : Int) ≤ g best ∧ (cfg.phMargin : Int) ≤ g best - second then 2
    else if fx = 0 ∨ fv 0 = 0 ∨ fv 1 = 0 ∨ fv 2 = 0 then 0 else 1
  (best, conf, r)

/-- The one phase a node names, if it names exactly one (R336). -/
def onePhase (phases : Nat) : Option Nat :=
  if phases = 1 then some 0 else if phases = 2 then some 1 else if phases = 4 then some 2 else none

/-- The 64 bytes of a result (R332). -/
def LosResult.bytes (node : Nat) (r : LosResult) : Bytes :=
  le 2 node ++ le 1 r.status
    ++ le 1 (bitN r.pos + 2 * bitN r.neg + 4 * bitN r.ntlFlag + 8 * bitN r.negFlag + 16 * bitN r.queueLoss)
    ++ le 2 r.cover ++ le 2 r.late ++ le 8 (r.start * 2 ^ 30) ++ le 8 (toField 64 r.inp) ++ le 8 (toField 64 r.out)
    ++ le 8 (toField 64 r.tech) ++ le 8 (toField 64 r.ntl) ++ le 8 (toField 64 r.thr) ++ le 4 (toField 32 r.ratio) ++ zeros 4

/-- A node entry of 32 bytes (R323). -/
def losNodeOf (b : Bytes) : LosNodeIn :=
  { parent := leAt b 0 2, measSrc := byteAt b 2 % 4, phases := byteAt b 2 / 4 % 8, phCheck := bitAt (byteAt b 2) 5
    measEp := leAt b 4 3 % 2 ^ 21, nlW := leAt b 8 4, pRefW := leAt b 12 4, llPpm := leAt b 16 4, instMask := leAt b 20 2
    reservedOk := byteAt b 2 / 64 == 0 && byteAt b 3 == 0 && byteAt b 6 / 32 == 0 && byteAt b 7 == 0 && leAt b 22 10 == 0 }

/-- The node entries of a tree's bytes (R323, R339). -/
def losNodesOf (nodes : Nat) (b : Bytes) : LosTree := (List.range nodes).map (fun k => losNodeOf (slice b (32 * k) 32))

/-- Is a tree valid (R323)? The first invalid node, if there is one. -/
def firstInvalid (t : LosTree) : Option Nat :=
  (List.range t.length).find? (fun i =>
    match t[i]? with
    | none => true
    | some nd =>
      let before := t.take i
      !((nd.parent == 0xFFFF || decide (nd.parent < i)) && nd.reservedOk && decide (nd.measSrc < 3)
        && !(nd.measSrc == 1 && before.any (fun x => x.measSrc == 1))
        && !(nd.measSrc == 2 && before.any (fun x => x.measSrc == 2 && x.measEp == nd.measEp))
        && (nd.pRefW != 0 || nd.llPpm == 0)))

namespace State

/-- Replaces LOS's own state. -/
def setLos (f : Los → Los) (s : State) : State := { s with los := f s.los }

/-- The tree in force now, and the one that governs an interval (R337). -/
def treeAt (s : State) (sec : Nat) : Option LosTree :=
  ((s.los.trees.filter (fun e => e.1 ≤ sec)).getLast?).map (·.2)
def losTree (s : State) : Option LosTree := s.treeAt s.nowSec

/-- Consumers attached to a node (R324). -/
def attached (s : State) (n : Nat) (nd : LosNodeIn) : Nat :=
  (s.ing.ctxs.filter (fun e => e.2.valid && e.2.topoValid && e.2.topoNode == n && !(nd.measSrc == 2 && nd.measEp == e.1))).length

/-- Does LOS run: from stage D6 to DUSK, while its domain is not switched off (R337, R542)? -/
def losRuns (s : State) : Bool := s.begun 6 && !s.shut 46

/-- HEAD_PRESENT (R327): interval energy arrived, and MET's three voltage channels are powered. -/
def headPresent (s : State) : Bool := s.los.headOk && s.met.vpwr % 8 == 7 && [54, 55, 56].all s.domOn

/-- A LOS notice (R341). -/
def losNotice (reason node endpoint phase start : Nat) (ntl : Int) (s : State) : State :=
  s.event 0 (le 1 reason ++ zeros 1 ++ le 2 node ++ le 3 endpoint ++ le 1 phase ++ le 8 start ++ le 8 (toField 64 ntl) ++ zeros 16)

/-- A change of HEAD_PRESENT is noticed (R327, R341). -/
def headLook (s : State) : State :=
  let now := s.headPresent
  if now = s.los.headNoticed ∨ s.losRuns = false then s
  else (s.setLos (fun l => { l with headNoticed := now })).losNotice (if now then 6 else 5) 0 0 0 0 0

/-- FLAGGED_NODES (R333). -/
def flaggedNodes (s : State) : Nat := s.los.nodes.count (·.ntlFlag)

/-- One flag's move at a close (R333). -/
def moveFlag (n : Nat) (isNtl : Bool) (start : Nat) (ntl : Int) (s : State) : State :=
  let x := s.los.nodes.getD n {}
  let h := (x.hist.take s.los.cfg.flagM).map (fun e => if isNtl then e.1 else e.2)
  let k := (h.filter id).length
  let was := if isNtl then x.ntlFlag else x.negFlag
  let now := if s.los.cfg.flagN ≤ k then true else if k = 0 then false else was
  if now = was then s
  else
    let y : LosNode := if isNtl then { x with ntlFlag := now } else { x with negFlag := now }
    let s := s.setLos (fun l => { l with nodes := l.nodes.put n y })
    let s := if now then s.bump Reg.LOS_FLAGS_RAISED else s
    if s.regBit Reg.LOS_CTRL 1 then
      s.losNotice ((if isNtl then 1 else 3) + (if now then 0 else 1)) n 0 0 (start * 2 ^ 30) ntl
    else s

/-- A decided interval enters a node's history and histogram and moves its flags (R333, R334). -/
def decided (n start : Nat) (pos neg : Bool) (inp ntl ratio : Int) (s : State) : State :=
  let x := s.los.nodes.getD n {}
  let bin := (clampInt 0 31 (Int.fdiv ratio (s.los.cfg.histStep : Int) + 16)).toNat
  let bins := if 0 < inp then x.bins.set bin (satAdd 32 (x.bins.getD bin 0) 1) else x.bins
  let s := s.setLos (fun l => { l with nodes := l.nodes.put n { x with hist := ((pos, neg) :: x.hist).take 8, bins := bins } })
  (s.moveFlag n true start ntl).moveFlag n false start ntl

/-- A result enters a node's store of 16 (R332). -/
def storeResult (n : Nat) (r : LosResult) (s : State) : State :=
  s.setLos (fun l => { l with results := l.results.put n ((r :: l.results.getD n []).take 16) })

/-- One node of a lane's close (R331, R332); `acc` holds what its children hand it. -/
def closeNode (start : Nat) (lane : LosLane) (n : Nat) (nd : LosNodeIn) (acc : LosSum) (s : State) : State × LosSum :=
  let cfg := s.los.cfg
  let cov := lane.secs.getD n 0
  let att := s.attached n nd
  let (c, st) := consumption cfg att cov (lane.energy.getD n 0)
  let inp : Option Int := if nd.measSrc = 1 then (if s.headPresent then lane.head else none)
    else if nd.measSrc = 2 then lane.check.get? n else none
  let f := c + acc.f
  let t := ownLoss nd cfg.balS (inp.getD f)
  let z := t + acc.z
  let worst := max st acc.worst
  let zc := cov + acc.cov
  let ze := att * cfg.balS + acc.exp
  let cover := if ze = 0 then 1000 else 1000 * zc / ze
  let x := s.los.nodes.getD n {}
  let base : LosResult := { start := start, status := 4, queueLoss := lane.queueLoss, cover := cover, out := f, tech := t }
  match inp with
  | some i =>
    let ntl := i - f - z
    if worst < 2 then
      let thr : Int := max (wattsMwh cfg.absMin cfg.balS : Int) ((i.natAbs * cfg.relPpm / 1000000 : Nat) : Int)
      let ratio : Int := if 0 < i then Int.fdiv (ntl * 1000000) i else 0
      let pos := decide (thr < ntl)
      let neg := decide (ntl < -thr)
      let s := s.decided n start pos neg i ntl ratio
      let y := s.los.nodes.getD n {}
      (s.storeResult n { base with
          status := worst, pos := pos, neg := neg, ntlFlag := y.ntlFlag, negFlag := y.negFlag, inp := i, tech := z, ntl := ntl
          thr := thr, ratio := ratio },
        { f := i })
    else
      (s.storeResult n { base with status := 2, ntlFlag := x.ntlFlag, negFlag := x.negFlag, inp := i, tech := z }, { f := i })
  | none =>
    let measured := nd.measSrc != 0
    let r : LosResult := if measured then { base with status := 3, ntlFlag := x.ntlFlag, negFlag := x.negFlag, tech := z }
      else { base with cover := Config.unstated 1 n start }
    (s.storeResult n r, { f := f, z := z, cov := zc, exp := ze, worst := worst })

/-- The nodes of a lane's close in descending index (R331); `sums` holds what waits for each parent. -/
def closeNodes (start : Nat) (lane : LosLane) : List (Nat × LosNodeIn) → Tab LosSum → State → State
  | [], _, s => s
  | (n, nd) :: t, sums, s =>
    let (s, out) := s.closeNode start lane n nd (sums.getD n {})
    let sums := if nd.parent = 0xFFFF then sums else sums.upd nd.parent {} (·.plus out)
    closeNodes start lane t sums s

/-- A configuration that waits takes effect at a lane's close (R337). -/
def takeCfg (s : State) : State :=
  match s.los.cfgNext with
  | some c => s.setLos (fun l => { l with cfg := c, cfgNext := none })
  | none => s

/-- The notice of a tree whose time has come (R337, R341). -/
def treeLook (s : State) : State :=
  if s.losRuns && s.los.treeDue && (s.los.trees.getLast?).any (fun e => decide (e.1 ≤ s.nowSec)) then
    (s.setLos (fun l => { l with treeDue := false })).losNotice 7 0 0 0 0 0
  else s

/-- The close of the next interval (R328, R329, R331, R337, R338). -/
def closeLane (s : State) : State :=
  let s := s.takeCfg
  let start := s.los.next
  let lane := s.los.lanes.getD start {}
  match s.treeAt start with
  | none => s
  | some t =>
    let s := (s.setLos (fun l => { l with headOk := lane.head.isSome })).headLook
    let s := s.closeNodes start lane ((List.range t.length).zip t).reverse []
    let nextStart := start + s.los.cfg.balS
    let s := s.setLos (fun l => { l with
      lanes := l.lanes.del start, next := nextStart
      trees := match l.trees with
        | [a, b] => if b.1 ≤ nextStart then [b] else [a, b]
        | x => x })
    let measured := (t.filter (fun nd => nd.measSrc != 0)).length
    (s.bump Reg.LOS_LANES_CLOSED).maxReg Reg.LOS_CLOSE_MAX_NC (200 + 16 * t.length + 48 * measured)

/-- Is the close of the next interval due (R328)? -/
def laneDue (s : State) : Bool :=
  s.losRuns && !s.los.trees.isEmpty && decide (s.los.next + s.los.cfg.balS + s.los.cfg.graceS ≤ s.nowSec)

/-- Every lane whose close has passed closes, in order (R329). -/
def closeDue : Nat → State → State
  | 0, s => s
  | k + 1, s => if s.laneDue then closeDue k s.closeLane else s

/-- What a step of device time brings to LOS (R329, R337). -/
def losStep (s : State) : State := (closeDue ((s.nowSec - s.los.next) / s.los.cfg.balS + 1) s).treeLook

/-- Is a second ahead of, or behind, the lanes that may open (R328)? 0 open, 1 LATE, 2 FUTURE. -/
def laneState (s : State) (start : Nat) : Nat :=
  if s.nowSec + s.los.cfg.balS < start then 2 else if start < s.los.next then 1 else 0

/-- Changes the lane of an interval, opening it (R328). -/
def modLane (start : Nat) (f : LosLane → LosLane) (s : State) : State :=
  s.setLos (fun l => { l with lanes := l.lanes.upd start {} f })

/-- A late record counts in its interval's result while the store holds it (R328). -/
def lateResult (n start : Nat) (s : State) : State :=
  (s.bump Reg.LOS_LATE).setLos (fun l => { l with results := l.results.adj n (fun rs =>
    rs.map (fun r => if r.start = start then { r with late := satAdd 16 r.late 1 } else r)) })

/-- The copy of TYPE_MAP a type selects (R342). -/
def typeMap (s : State) (typ : Nat) : Nat := s.regI Reg.LOS_TYPE_MAP typ

/-- The start of the balance interval of a record, and whether the record's own interval lies within one (R326, R328). -/
def recInterval (s : State) (r : Rec) : Nat × Bool :=
  let bal := s.los.cfg.balS
  let intv := s.profWord (s.ctx r.endpoint).profile 0
  let ets := r.ets / 2 ^ 30
  let start := (ets - intv) / bal * bal
  (start, decide (intv ≤ ets) && decide (ets ≤ start + bal))

/-- An energy record (R326, R328). A record of an interval that closed under a tree no longer held is LATE by the tree in force. -/
def takeEnergy (r : Rec) (s : State) : State :=
  let x := s.ctx r.endpoint
  let intv := s.profWord x.profile 0
  let start := (s.recInterval r).1
  match (s.treeAt start).orElse (fun _ => if start < s.los.next then s.losTree else none) with
  | none => s.bump Reg.LOS_NO_TREE
  | some t =>
    match (if x.valid && x.topoValid then t[x.topoNode]? else none) with
    | none => s.bump Reg.LOS_NO_NODE
    | some nd =>
      let m := s.typeMap r.typ
      if field m 1 0 = 3 then s.bump Reg.LOS_NOT_ENERGY
      else if field r.quality 5 2 ≠ 0 then s.bump Reg.LOS_QUALITY_SKIP
      else if !(s.recInterval r).2 then s.bump Reg.LOS_NONALIGNED
      else if s.laneState start = 2 then s.bump Reg.LOS_FUTURE
      else if s.laneState start = 1 then s.lateResult x.topoNode start
      else
        let mult : Nat := if field m 31 16 = 0 then 1 else field m 31 16
        let imp := word64 r.values (field m 1 0) * mult
        let exp := if field m 3 2 = 3 then 0 else word64 r.values (field m 3 2) * mult
        let e : Int := (imp : Int) - (exp : Int)
        let s := s.bump Reg.LOS_ACCUMULATED
        if nd.measSrc = 2 ∧ nd.measEp = r.endpoint then
          s.modLane start (fun l => { l with check := l.check.upd x.topoNode 0 (· + e) })
        else s.modLane start (fun l => { l with
          energy := l.energy.upd x.topoNode 0 (· + e), secs := l.secs.upd x.topoNode 0 (· + intv) })

/-- MET's sum of a phase over a span, or why there is none (R335): 1 a mean missing, 2 beyond the 6-hour history. -/
def spanVolts (s : State) (start len : Nat) : Nat × List Int :=
  if start + 21600 < s.nowSec then (2, [])
  else
    let slots := (List.range (len / 10)).map (fun k => s.los.volts.get? (start + 10 * k))
    if slots.any (·.isNone) then (1, [])
    else (0, (List.range 3).map (fun p => slots.foldl (fun (a : Int) v => a + ((v.getD []).getD p 0 : Nat)) 0))

/-- A full window is published and its accumulators cleared (R336). -/
def publishPhase (ep : Nat) (s : State) : State :=
  let p := s.los.phases.getD ep {}
  if p.n < p.window then s
  else
    let (best, conf, r) := publish s.los.cfg p
    let x := s.ctx ep
    let nd := (s.losTree.bind (fun t => t[x.topoNode]?))
    let mis := match nd with
      | some nd => nd.phCheck && conf == 2 && (match onePhase nd.phases with | some k => k != best | none => false)
      | none => false
    let q : PhaseAcc := { window := s.los.cfg.phWindow, phase := best, conf := conf, mismatch := mis, r := r, windows := satAdd 32 p.windows 1 }
    let s := s.setLos (fun l => { l with phases := l.phases.put ep q })
    if mis then s.losNotice 8 x.topoNode ep best 0 0 else s

/-- One sample of a voltage profile (R335); accumulation pauses while HEAD_PRESENT is 0 (R336). -/
def phaseSample (ep : Nat) (x : Int) (start len : Nat) (s : State) : State :=
  match s.spanVolts start len with
  | (1, _) => s.bump Reg.LOS_PH_GAP
  | (2, _) => s.bump Reg.LOS_PH_LATE
  | (_, v) =>
    if !s.headPresent then s else
    let p := s.los.phases.getD ep { window := s.los.cfg.phWindow }
    let g := fun (l : List Int) k => l.getD k 0
    let q : PhaseAcc := { p with
      n := p.n + 1, sx := p.sx + x, sxx := p.sxx + x * x
      sv := (List.range 3).map (fun k => g p.sv k + g v k)
      sxv := (List.range 3).map (fun k => g p.sxv k + x * g v k)
      svv := (List.range 3).map (fun k => g p.svv k + g v k * g v k) }
    ((s.setLos (fun l => { l with phases := l.phases.put ep q })).bump Reg.LOS_PH_SAMPLES).publishPhase ep

/-- A class 4 record (R326), and a voltage profile (R335). -/
def takeProfile (r : Rec) (s : State) : State :=
  let x := s.ctx r.endpoint
  match s.losTree with
  | none => s.bump Reg.LOS_NO_TREE
  | some t =>
    if !(x.valid && x.topoValid && decide (x.topoNode < t.length)) then s.bump Reg.LOS_NO_NODE
    else if field r.quality 5 2 ≠ 0 then s.bump Reg.LOS_QUALITY_SKIP
    else if !(s.recInterval r).2 then s.bump Reg.LOS_NONALIGNED
    else if !(s.regBit Reg.LOS_CTRL 0 && r.typ == 0xA0) then s
    else
      let intv := s.profWord x.profile 0
      let w := if r.form = 1 then 6 else if r.form = 2 then 12 else 0
      let ets := r.ets / 2 ^ 30
      if w = 0 ∨ intv % (w * 10) ≠ 0 ∨ intv = 0 ∨ ets < intv then s.bump Reg.LOS_PH_UNALIGNED
      else
        (List.range w).foldl (fun s j =>
          let v := if r.form = 1 then signedOf 32 (leAt r.values (4 * j) 4) else signedOf 16 (leAt r.values (2 * j) 2)
          s.phaseSample r.endpoint v (ets - intv + j * (intv / w)) (intv / w)) s

end State
end Sys2Proof.Machine
end

