-- ==== Sys2Proof/Machine/MetOps.lean ====
section
/-! DEFINITION. The metrology island's operations (R343 to R369): the calibration set and its copies, the audit trail, the sample
chain in exact integers, crossings, windows, seconds, and the tamper alarms. -/
set_option Elab.async false
namespace Sys2Proof.Machine

/-! ### The calibration set (R353) -/

/-- Fields of a calibration set. -/
def calGen (b : Bytes) : Nat := leAt b 4 4
def calFnom (b : Bytes) : Nat := byteAt b 8
def calUn (b : Bytes) : Nat := leAt b 12 4
def calFs (b : Bytes) (k : Nat) : Nat := leAt b (24 + 4 * k) 4
def calGain (b : Bytes) (k : Nat) : Nat := leAt b (56 + 4 * k) 4
def calOffset (b : Bytes) (k : Nat) : Int := signedOf 32 (leAt b (88 + 4 * k) 4)
def calPhase (b : Bytes) (k : Nat) : Int := signedOf 16 (leAt b (120 + 2 * (k - 4)) 2)
def calTamper (b : Bytes) (i : Nat) : Nat := byteAt b (128 + i)
def calTermS (b : Bytes) : Nat := leAt b 132 4
def calPulse (b : Bytes) : Nat := leAt b 136 4

/-- MAGIC of a calibration set. -/
abbrev calMagic : Nat := 0x4C41434D

/-- A stored copy with valid MAGIC and CRC (R354). -/
def calHolds (b : Bytes) : Bool := b.length == 256 && leAt b 0 4 == calMagic && leAt b 252 4 == crc32c (b.take 252)

/-- Are the fields of a supplied set in range, its GEN and reserved bits 0 (R353, R369)? -/
def calRanges (b : Bytes) : Bool :=
  calGen b == 0 && (calFnom b == 50 || calFnom b == 60) && leAt b 10 2 == 0 && decide (leAt b 16 4 ≤ leAt b 20 4)
    && (List.range 8).all (fun k => calFs b k != 0 && decide (0x20000000 ≤ calGain b k ∧ calGain b k ≤ 0x7FFFFFFF)
      && decide (-(2 ^ 20) ≤ calOffset b k ∧ calOffset b k ≤ 2 ^ 20))
    && (List.range 4).all (fun i => decide (calTamper b i < 8))
    && decide (1 ≤ calTermS b ∧ calTermS b ≤ 86400) && decide (1 ≤ calPulse b ∧ calPulse b ≤ 100000)
    && (slice b 140 112).all (· == 0#8)

/-- Neutral values, with no calibration valid (R354): FS 2^23, GAIN 1.0, PHASE, OFFSET and tamper configuration 0. -/
def calNeutral : Bytes :=
  zeros 24 ++ (List.range 8).flatMap (fun _ => le 4 (2 ^ 23)) ++ (List.range 8).flatMap (fun _ => le 4 (2 ^ 30)) ++ zeros 168

/-- A set as MET stores it: bytes 0 to 251 under a GEN, and the CRC (R355). -/
def calStored (set : Bytes) (gen : Nat) : Bytes :=
  let b := set.take 4 ++ le 4 gen ++ (set.take 252).drop 8
  b ++ le 4 (crc32c b)

/-- The gain of a channel's modulator: a current channel's is PGA's (R345, R353, R603). -/
def calPga (b : Bytes) (k : Nat) : Int :=
  if k < 4 then 1 else match byteAt b 9 / 4 ^ (k - 4) % 4 with | 0 => 1 | 1 => 2 | 2 => 8 | _ => 16

/-- The 24-bit code of a channel for an input in sixteenths of gain 1's code (R345, R603): 2^23 is full scale at the gain in force. An
input beyond full scale gives a code that the manual leaves open. -/
def rawCode (b : Bytes) (k : Nat) (x : Int) : Int :=
  let c := x * calPga b k / 16
  if -(2 ^ 23) ≤ c ∧ c < 2 ^ 23 then c else (Config.unstated 16 k x.natAbs % 2 ^ 24 : Nat) - 2 ^ 23

/-- Filters see this many codes of a channel. -/
abbrev filterTaps : Nat := 256

/-- A current channel's code delayed by PHASE / 65 536 of a sample (R346 step 2), from its codes, newest first: the line through the last
two, and a departure of at most 1/2 048 of them that the filter's coefficients would give. With PHASE 0 the code itself. -/
def delayed (phase : Int) (l : List Int) : Int :=
  let a := l.getD 0 0
  let b := l.getD 1 0
  let lim : Int := ((max a.natAbs b.natAbs / 2048 : Nat) : Int)
  if phase = 0 then a else ((65536 - phase) * a + phase * b) / 65536 + max (-lim) (min lim (Config.delayFilter phase l))

/-- A sample's part of the component of a window at `n` times its fundamental, in phase and in quadrature (R346 step 6): the samples,
oldest first, the window's whole cycles and its length in 1/64 converter cycles. -/
def component (n cycles len : Nat) (x : List Int) : Int × Int :=
  (x.foldl (fun (a : Nat × Int × Int) v =>
    let t := n * cycles * a.1 * 409600 * 2 ^ 32 / len
    (a.1 + 1, a.2.1 + v * cosTurn t, a.2.2 + v * cosTurn (t + 3 * 2 ^ 30))) (0, 0, 0)).2

/-- The square of a component, 2^80 times the scale of the samples' squares. -/
def power (n cycles len : Nat) (x : List Int) : Nat :=
  let c := component n cycles len x
  c.1.natAbs * c.1.natAbs + c.2.natAbs * c.2.natAbs

/-- The exact accumulator's units in one mWh: 2^106 for the two scales, 8 000 samples a second, 3.6 million µW·s (R346). -/
abbrev unitsPerMwh : Nat := 2 ^ 106 * 28800000000

/-- Adds to entry `k` of a list. -/
def addAt (k n : Nat) (l : List Nat) : List Nat := l.set k (l.getD k 0 + n)

/-- A group of registers after a sample's active and reactive products (R346 step 5): import, export, Q1 to Q4 by the signs of both. -/
def addProducts (p q : Int) (g : List Nat) : List Nat :=
  let g := addAt (if 0 ≤ p then 0 else 1) p.natAbs g
  addAt (if 0 ≤ q then (if 0 ≤ p then 2 else 3) else (if p < 0 then 4 else 5)) q.natAbs g

namespace State

/-- Replaces MET's own state. -/
def setMet (f : Met → Met) (s : State) : State := { s with met := f s.met }

/-- The calibration in force, or the neutral values (R354). -/
def cal (s : State) : Bytes := if s.met.calValid then s.met.copies.getD s.met.sel [] else calNeutral

/-- CAL_GEN (R371). -/
def calGenNow (s : State) : Nat := if s.met.calValid then calGen s.cal else 0

/-- Is a channel powered: its domain stands on (R346, R540)? -/
def metPowered (s : State) (k : Nat) : Bool := s.domOn (54 + k)

/-- SEAL_LED_N is driven low (R360). -/
def sealLed (s : State) : Bool := s.met.sealState == 1 && s.met.calValid && !s.met.termSuspect

/-- A change of the seal's conditions moves SEAL_LED_N (R360). -/
def ledLook (before : Bool) (s : State) : State := if s.sealLed = before then s else s.emit (.pin 3 (!s.sealLed))

/-! #### The audit trail (R361 to R363) -/

/-- CHAIN of the latest entry; zeros before entry 0 (R362). -/
def auditHead (s : State) : Bytes := match s.met.audit.getLast? with | some e => e.drop 40 | none => zeros 24

/-- STATUS.AUDIT_LOCKED (R363). -/
def auditLocked (s : State) : Bool := decide (3072 ≤ s.met.audit.length)

/-- An audit entry of 64 B (R362). -/
def auditEntry (s : State) (kind inByte time count old new : Nat) (ref : Bytes) : Bytes :=
  let b := le 4 s.met.audit.length ++ le 1 kind ++ le 1 inByte ++ zeros 2 ++ le 8 time ++ le 4 count ++ le 4 old ++ le 4 new
    ++ fit 8 ref ++ zeros 4
  b ++ (sha384 (s.auditHead ++ b)).take 24

/-- An entry is appended (R362); once all 4 096 are written it is counted in AUDIT_LOST and appears in the island recorder (R363). -/
def auditAdd (kind inByte time count old new : Nat) (ref : Bytes) (s : State) : State :=
  if s.met.audit.length < 4096 then
    let e := s.auditEntry kind inByte time count old new ref
    s.setMet (fun m => { m with audit := m.audit ++ [e] })
  else (s.setMet (fun m => { m with auditLost := satAdd 32 m.auditLost 1 })).log 7 0x0C 1 kind inByte

/-- An entry stamped now, with SEAL_COUNT as it stands. -/
def auditNow (kind inByte old new : Nat) (s : State) : State := s.auditAdd kind inByte s.rtcStamp s.met.sealCount old new []

/-- SEAL_COUNT rises by one and an entry of a kind carries it (R359, R361). -/
def sealEvent (kind old new : Nat) (ref : Bytes) (s : State) : State :=
  let n := s.met.sealCount + 1
  (s.setMet (fun m => { m with sealCount := n })).auditAdd kind 0 s.rtcStamp n old new ref

/-- May a change that raises SEAL_COUNT and appends an entry be made (R361, R363)? -/
def sealRoom (s : State) : Bool := !s.auditLocked && decide (s.met.sealCount < 2 ^ 32 - 1)

/-! #### Tamper inputs (R364 to R366) -/

/-- Is an input enabled, and its class: 0 cover, 1 terminal (R353)? -/
def tampEnabled (s : State) (i : Nat) : Bool := bitAt (calTamper s.cal i) 0
def tampClass (s : State) (i : Nat) : Nat := bitN (bitAt (calTamper s.cal i) 1)

/-- Is an input of a class active? -/
def classActive (s : State) (cls : Nat) : Bool :=
  (List.range 4).any (fun i => (s.met.tampers.getD i {}).active && s.tampEnabled i && s.tampClass i == cls)

/-- BLANK and RETIRED turn MET.CAL.STORE and MET.CONFIG away (R368). -/
def metBlocked (s : State) : Bool := s.dev.life == 0 || s.dev.life == 4

/-- A store cut by a tamper alarm before its commit (R357): TAMPER_ABORT, the half-written copy zeroized, and CAL_ABORTED where step 4
is done. -/
def abortStore (s : State) : State :=
  match s.met.store with
  | none => s
  | some st =>
    let s := s.setMet (fun m => { m with store := none, copies := m.copies.set (1 - m.sel) [] })
    let s := if st.audited then s.auditNow 2 0 s.calGenNow (s.calGenNow + 1) else s
    (s.bump Reg.MET_CAL_REFUSED).reply st.cmd St.tamperAbort

/-- A tamper alarm ends a calendar load before its commit (R379) and a token acceptance before its journal record verifies (R394). -/
def abortBil (s : State) : State :=
  let load := s.bil.loading
  let acc := s.bil.accept.filter (fun a => !a.verified)
  let s : State := { s with bil := { s.bil with loading := none, accept := s.bil.accept.filter (·.verified) } }
  let s := match load with | some c => s.reply c St.tamperAbort | none => s
  match acc.bind (·.push) with | some c => s.reply c St.tamperAbort | none => s

/-- Tamper hold begins (R366, R424): the roots are sealed. Not in BLANK and RETIRED. -/
def beginHold (s : State) : State :=
  if s.dev.tamperHold || s.dev.life == 0 || s.dev.life == 4 then s
  else
    let s : State := { s with dev := { s.dev with tamperHold := true }, kvt := { s.kvt with island := [] } }
    (s.holdCause 5 true).kvtNotice 1 0 0

/-- The Midnight permit falls in the converter cycle of an alarm, whatever follows it (R44): frames on a medium end. -/
def alarmCut (s : State) : State :=
  let t : State := ({ s with seam := { s.seam with permitDrop := true } } : State).truncateFrames
  { t with seam := { t.seam with permitDrop := s.seam.permitDrop } }

/-- A tamper alarm with the supply present (R44, R357, R364, R366, R424). -/
def tamperAlarm (i : Nat) (s : State) : State :=
  let led := s.sealLed
  let cls := s.tampClass i
  let s := s.auditNow 7 (i + 16 * cls) 0 0
  let s := s.abortStore.abortKeyOps.abortBil
  let s := if cls = 0 then (s.setMet (fun m => { m with covers := satAdd 32 m.covers 1 })).beginHold
    else s.setMet (fun m => { m with terms := satAdd 32 m.terms 1, termSuspect := true, termActive := true, termQuiet := 0 })
  (s.ledLook led).alarmCut

/-- One sample of one input (R364, R365): two in a row at the other level move it. The second component says that it went active. -/
def tamperStep (i : Nat) (level : Bool) (s : State) : State × Bool :=
  if !s.tampEnabled i then (s.setMet (fun m => { m with tampers := m.tampers.put i {} }), false)
  else
    let x := s.met.tampers.getD i {}
    let on := level == bitAt (calTamper s.cal i) 2
    let y : Tamper := if on = x.active then { x with run := 0 } else if x.run = 0 then { x with run := 1 } else { active := on, run := 0 }
    (s.setMet (fun m => { m with tampers := m.tampers.put i y }), y.active && !x.active)

/-- A sample of all inputs with the supply present (R364, R366). -/
def tamperSample (levels : Nat) (s : State) : State :=
  let s := (List.range 4).foldl (fun s i =>
    let (s, alarm) := s.tamperStep i (bitAt levels i)
    if alarm then s.tamperAlarm i else s) s
  let term := s.classActive 1
  s.setMet (fun m => { m with termActive := term, termQuiet := if term then 0 else m.termQuiet + 1 })

/-- Is the condition of TERM_ACK met (R366)? TERM_CLEAR_S has no value while no calibration is valid. -/
def termClear (s : State) : Bool :=
  let t := if s.met.calValid then calTermS s.cal else Config.unstated 2 0 0
  decide (t * 8000 ≤ s.met.termQuiet)

/-! #### The sample chain (R346 to R352) -/

/-- The eight channels' codes of a sample after step 1 (R345, R346); a channel that is not powered has none. -/
def metCodes (s : State) (inputs : List Int) : List Int :=
  (List.range 8).map (fun k => if s.metPowered k then rawCode s.cal k (inputs.getD k 0) - calOffset s.cal k else 0)

/-- A channel's recent codes, newest first. -/
def codesOf (s : State) (k : Nat) : List Int := s.met.hist.map (fun l => l.getD k 0)

/-- The eight channels' values of the latest sample in units of 2^-53 mV or mA (R346 steps 2 and 3). A channel that is not powered gives 0. -/
def scaled (s : State) : List Int :=
  let b := s.cal
  (List.range 8).map (fun k =>
    if !s.metPowered k then 0
    else (if k < 4 then (s.codesOf k).getD 0 0 else delayed (calPhase b k) (s.codesOf k)) * calGain b k * calFs b k)

/-- Phase `p`'s voltage shifted by 90° (R346 step 4), in the same units. -/
def shifted (s : State) (p : Nat) : Int :=
  if s.metPowered p then Config.hilbertFilter (s.codesOf p) * calGain s.cal p * calFs s.cal p else 0

/-- Every quantity of a sample is added to the accumulators (R346 steps 4 and 5, R350, R352). -/
def accumulate (x : List Int) (s : State) : State :=
  let v := fun k => x.getD k 0
  let ps := (List.range 3).map (fun p => v p * v (4 + p))
  let qs := (List.range 3).map (fun p => s.shifted p * v (4 + p))
  let pt := ps.foldl (· + ·) 0
  let qt := qs.foldl (· + ·) 0
  let ok := [0, 1, 2, 4, 5, 6].all (fun k => s.metPowered k)
  let k := calPulse s.cal
  let rem := if s.met.calValid && decide (0 < pt) then s.met.pulseRem + pt.natAbs * k else s.met.pulseRem
  let per := unitsPerMwh * 1000000
  s.setMet (fun m => { m with
    energy := (List.range 4).map (fun g => addProducts (if g = 3 then pt else ps.getD g 0) (if g = 3 then qt else qs.getD g 0) (m.energy.getD g []))
    intImp := if 0 < pt then m.intImp + pt.natAbs else m.intImp
    intExp := if pt < 0 then m.intExp + pt.natAbs else m.intExp
    intOk := m.intOk && ok
    ten := (List.range 3).map (fun p => m.ten.getD p 0 + (v p).natAbs * (v p).natAbs)
    tenN := m.tenN + 1
    pulseRem := rem % per
    pulsesOwed := m.pulsesOwed + rem / per
    cycles := (List.range 3).foldl (fun t p => t.upd p {} (fun c => { c with
      n := c.n + 1, sv2 := c.sv2 + (v p).natAbs * (v p).natAbs, si2 := c.si2 + (v (4 + p)).natAbs * (v (4 + p)).natAbs
      sp := c.sp + ps.getD p 0 })) m.cycles
    win := { m.win with
      n := m.win.n + 1
      sq := (List.range 8).map (fun k => m.win.sq.getD k 0 + (v k).natAbs * (v k).natAbs)
      peak := (List.range 8).map (fun k => max (m.win.peak.getD k 0) (v k).natAbs)
      sp := (List.range 3).map (fun p => m.win.sp.getD p 0 + ps.getD p 0)
      sq' := (List.range 3).map (fun p => m.win.sq'.getD p 0 + qs.getD p 0)
      samples := x :: m.win.samples } })

/-- A span of 1/64 converter cycles (51.2 MHz) in ns (R348). -/
def spanNs (len : Nat) : Nat := (roundDiv (len * 1000000000) (51200000 * 64)).toNat

/-- Is a crossing valid (R349)? `c` is the channel's cycle as the crossing ends it, `len` and `prev` the two periods in 1/64 converter
cycles. While no calibration is valid there is no UN_MV, and the RMS is not compared: validity does not depend on the calibration. -/
def crossingValid (s : State) (ch : Nat) (c : MetCycle) (len prev : Nat) : Bool :=
  let ns := fun n : Nat => n * 51200000 * 64
  let un := calUn s.cal
  s.metPowered ch && decide (2 ≤ c.cycles)
    && (!s.met.calValid || decide (c.n * 2 ^ 106 * (s.met.zcVmin * un) * (s.met.zcVmin * un) ≤ c.sv2 * 10000))
    && decide (ns 15385000 ≤ len * 1000000000) && decide (len * 1000000000 ≤ ns 22222222)
    && decide ((Int.natAbs ((len : Int) - (prev : Int))) * 100 ≤ prev)

/-- The power factor in Q15 of sums over the same samples: of the products, and of both squares (R346 step 6, R369). -/
def pfOf (sp : Int) (sv2 si2 : Nat) : Int :=
  if sv2 * si2 = 0 then 0
  else
    let r : Nat := roundRoot (sp.natAbs * sp.natAbs * 2 ^ 30) (sv2 * si2)
    if sp < 0 then -(r : Int) else (r : Int)

/-- The angle of a crossing after L1's last one, 0.01° (R346 step 6). -/
def angleAfterL1 (s : State) (count : Nat) : Nat :=
  match (s.met.cycles.getD 0 {}).last with
  | some l => if (s.met.cycles.getD 0 {}).period = 0 then 0 else (roundDiv ((count - l) * 36000) (s.met.cycles.getD 0 {}).period).toNat % 36000
  | none => 0

/-- A voltage channel's cycle as a crossing ends it: what the cycle gave, and one whole cycle more (R346, R349). -/
def cycleEnd (s : State) (ch count : Nat) : MetCycle :=
  let c := s.met.cycles.getD ch {}
  if c.last.isNone then { c with cycles := 0 }
  else { c with
    cycles := c.cycles + 1, pf := pfOf c.sp c.sv2 c.si2, angle := if ch = 0 then 0 else s.angleAfterL1 count
    urms := if c.n = 0 then 0 else roundRoot c.sv2 (c.n * 2 ^ 106), irms := if c.n = 0 then 0 else roundRoot c.si2 (c.n * 2 ^ 106) }

/-- May a crossing be found in the sample period that ends now: later than the channel's last, not later than the sample, and within the
300 µs of its packet (R348)? -/
def crossingTimely (s : State) (ch count : Nat) : Bool :=
  decide (count ≤ s.met.cc * 64) && decide (s.met.cc * 64 ≤ count + 15360 * 64) && (s.met.cycles.getD ch {}).last.all (fun l => decide (l < count))

/-- A positive-going crossing of the fundamental of a voltage channel at a converter count in 1/64 cycles (R346, R348, R349): the cycle
ends, its apparent energy is added, the crossing goes to PLC in seam class 3, and a window of ten or twelve cycles of L1 ends. -/
def crossing (ch count : Nat) (s : State) : State :=
  if 3 ≤ ch ∨ ¬s.metPowered ch ∨ s.crossingTimely ch count = false then s
  else
    let c := s.met.cycles.getD ch {}
    let e := s.cycleEnd ch count
    let len := match c.last with | some l => count - l | none => 0
    let valid := s.crossingValid ch e len c.period
    let app := rootFloor (c.sv2 * c.si2)
    let col := if 0 ≤ c.sp then 6 else 7
    let s := s.setMet (fun m => { m with
      cycles := m.cycles.put ch { e with last := some count, period := len, valid := valid, n := 0, sv2 := 0, si2 := 0, sp := 0 }
      energy := if c.last.isSome then
          (m.energy.set ch (addAt col app (m.energy.getD ch []))).set 3 (addAt col app (m.energy.getD 3 [])) else m.energy })
    let s := if valid then s else s.bump Reg.MET_ZC_INVALID
    let s := s.seamPut .midnight 3 (.bytes (le 1 ch ++ le 8 count ++ le 4 (spanNs len) ++ le 1 (bitN valid)))
    if ch ≠ 0 then s
    else if s.met.win.cycles = 0 ∧ c.last.isNone then s.setMet (fun m => { m with win := { start := count } })
    else
      let n := s.met.win.cycles + 1
      if n < (if calFnom s.cal = 60 then 12 else 10) then s.setMet (fun m => { m with win := { m.win with cycles := n } })
      else s.setMet (fun m => { m with
        snap := { m.win with cycles := n }, snapEnd := s.stamp, snapLen := count - m.win.start, snapAngles := [(m.cycles.getD 1 {}).angle, (m.cycles.getD 2 {}).angle], win := { start := count } })

/-- The second that a mark begins (R350): a flagged one delivers the interval's energy to LOS, and every tenth the voltage means. -/
def secondBegins (count sec : Nat) (flag : Bool) (s : State) : State :=
  let m := s.met
  let s := if flag && m.intOk then
      s.seamPut .midnight 7 (.bytes (le 1 0 ++ le 8 sec ++ le 8 (m.intImp / unitsPerMwh) ++ le 8 (m.intExp / unitsPerMwh))) else s
  let s := if flag then s.setMet (fun m => { m with intImp := m.intImp % unitsPerMwh, intExp := m.intExp % unitsPerMwh, intOk := true }) else s
  let s := if sec % 10 = 0 then
      (s.seamPut .midnight 7 (.bytes (le 1 1 ++ le 8 sec ++ (List.range 3).flatMap (fun k => le 4 (roundRoot (m.ten.getD k 0) (m.tenN * 2 ^ 106)))))).setMet
        (fun m => { m with ten := [0, 0, 0], tenN := 0 }) else s
  s.setMet (fun m => { m with lastMark := count, lastSec := sec, mark := none, markMissing := false })

/-- The slices divide at the sample nearest a mark (R350): a sample is 6 400 converter cycles. What they hand the seam waits there. -/
def sliceLook (s : State) : State :=
  match s.met.mark with
  | some (count, sec, flag) => if count ≤ s.met.cc + 3200 then s.secondBegins count sec flag else s
  | none => s

/-- MET_PULSE falls 2 ms, 102 400 converter cycles, after it rose (R352). -/
def pulseLook (s : State) : State :=
  if s.met.pulseHigh && s.met.lastPulse.any (fun t => decide (t + 102400 ≤ s.met.cc)) then
    (s.setMet (fun m => { m with pulseHigh := false })).emit (.pin 2 false)
  else s

/-- One sample period (R346 to R350, R352); the packets it hands the seam then leave in order of class (R20). -/
def metSample (inputs : List Int) (crossings : List (Nat × Nat)) (s : State) : State :=
  let s := (s.setMet (fun m => { m with cc := m.cc + 6400 })).pulseLook.sliceLook
  let c := s.metCodes inputs
  let s := s.setMet (fun m => { m with hist := (c :: m.hist).take filterTaps })
  let s := s.accumulate s.scaled
  (crossings.foldl (fun s c => s.crossing c.1 c.2) s).seamDrain

end State
end Sys2Proof.Machine
end

