-- ==== Sys2Proof/Machine/Sign.lean ====
section
/-! DEFINITION. The signing keys DEV and ISL and their signatures (R406, R410). -/
set_option Elab.async false
namespace Sys2Proof.Machine

/-- Private material of a key pair: the value of the ECDSA scalar and the ML-DSA seed (R406). -/
def privateOf (seed : Bytes) (label : String) : Bytes := sha384 (seed ++ labelBytes label ++ le 8 1) ++ kdf seed label 2

namespace State

/-- DEV's and ISL's private material (R404, R406). -/
def devKey (s : State) : Bytes := s.kvt.dev.getD []
def islKey (s : State) : Bytes := privateOf (s.kvt.seed.getD []) "FB96ISLK"

/-- A hybrid signature of 3 408 B, its last three bytes 0 (R410). -/
def signWith (key msg : Bytes) : Bytes := fit 3405 (Config.signature key msg) ++ zeros 3

/-- A public key block of 2 049 B (R410). -/
def blockOf (key : Bytes) : Bytes := fit 2049 (Config.publicKey key)

/-- A signature is counted (R430). -/
def signed (s : State) : State := s.bump Reg.KVT_SIGNATURES

end State
end Sys2Proof.Machine
end

