-- ==== Sys2Proof/Machine/Bil.lean ====
section
/-! DEFINITION. The events and commands of billing (R30, R372 to R403, R498). -/
set_option Elab.async false
namespace Sys2Proof.Machine
namespace State

/-- The first entry of the pending queue that a test marks and that is not stuck, and the queue without it. -/
def takePending (s : State) (p : Rec → Bool) : Option (Rec × State) :=
  match s.bil.queue.find? (fun r => p r && !s.stuck r) with
  | none => none
  | some r => some (r, s.setBil (fun b => { b with queue := b.queue.erase r }))

/-- A billing copy enters the pending queue (R383): a record of an index that is not bound is dropped, and one of
an endpoint a fence holds, whose REPLAY is set (R530); a held endpoint keeps 8 entries,
and a later interval sets REPLAY. TARIFF_ACTIVE goes to the campaigns (R399). -/
def takeCopy (r : Rec) (s : State) : State :=
  let l := s.ledgerOf r.endpoint
  if r.typ = 0x48 then s.campConfirm r
  else if !l.bound || s.bil.fenced.contains r.endpoint then s
  else if r.cls = 0 ∧ s.bilHeld r.endpoint = true ∧ 8 ≤ (s.bil.queue.filter (fun x => x.cls == 0 && x.endpoint == r.endpoint)).length then
    s.setLedger r.endpoint (fun l => { l with replay := true })
  else s.setBil (fun b => { b with queue := b.queue ++ [r] })

/-- The statuses of BIL.REGS.RESTORE OP 0 before its effect (R401). -/
def bindStatus (s : State) (c : CmdRef) (p : BindIn) : Nat :=
  if s.bilForeign c p.endpoint then St.notAuthorized
  else if p.firstId = 0 ∨ 16 ≤ p.calId ∨ 32 ≤ p.btype ∨ 2 ^ 21 ≤ p.endpoint then St.badParam
  else if (s.ledgerOf p.endpoint).bound then 0x0110
  else if (s.epAt p.endpoint).isNone then 0x0213
  else if 2 ^ 21 ≤ p.keyset ∨ !s.kvt.blobs.has (p.keyset * 8 + 4) ∨ !s.kvt.blobs.has (p.keyset * 8 + 5) then St.keyAbsent
  else St.ok

/-- A signed readout's 384 bytes (R390). -/
def readout (s : State) (nonce : Nat) (b : BilSet) : Bytes :=
  let dig := match (s.calCopies b.calId).find? (fun c => calVer c == b.calVer) with
    | some c => sha384 c
    | none => fit 48 (Config.freeBytes 6)
  le 4 0x52444C42 ++ le 1 1 ++ le 1 (s.met.sealState + s.dev.life * 4 + 32 * bitN b.shadow) ++ zeros 2 ++ le 4 s.met.sealCount
    ++ le 4 s.calGenNow ++ le 8 s.rtcStamp ++ le 8 nonce ++ dig ++ b.head

/-- A slot of BIL.REGS.READ OP 1 (R390, R410). -/
def readoutSlot (s : State) (nonce i : Nat) : Bytes × Bool :=
  match s.bilSet i with
  | some b =>
    if s.inForce i && !(s.ledgerOf i).held then
      let r := s.readout nonce b
      (r ++ signWith s.islKey r, true)
    else (le 4 0x52444C42 ++ zeros 1 ++ le 1 0x40 ++ zeros 3786, false)
  | none => (le 4 0x52444C42 ++ zeros 1 ++ le 1 0x40 ++ zeros 3786, false)

end State

/-- BIL_INTERVAL_TAKE (R383, R399): the oldest billing copy, durable in the archive, comes over the seam. -/
def execBilIntervalTake (s : State) : R :=
  .next (match s.ing.bilq with
    | [] => s
    | r :: t =>
      if !s.bilTaking || !s.recDurable r then s
      else ((s.setIng (fun g => { g with bilq := t })).seamSend .noon 6 r.bytes).takeCopy r)

/-- BIL_INTERVAL_APPLY (R30, R37, R384 to R386, R389): `fetchOk` says that the set fetched from Noon DRAM passes its MAC. -/
def execBilIntervalApply (fetchOk : Bool) (s : State) : R :=
  .next (
    if !s.bilLive then s
    else match s.takePending (fun r => r.cls == 0) with
    | none => s
    | some (r, t) =>
      if !fetchOk then s.setMacFail r.endpoint
      else t.applyInterval r true (if s.bilOwns then Reg.BIL_APPLIED else Reg.BIL_SHADOW_APPLIED))

/-- TOKEN_REQUEST (R374, R392 to R395, R397): the oldest token request of the pending queue. Outside DAY it is only counted (R393). -/
def execTokenRequest (cut : Option Bool) (s : State) : R :=
  .next (
    if !s.rootsOpen || !s.begun 7 then s
    else
      let s := s.finishAccept
      match s.takePending (fun r => r.cls == 2) with
      | none => s
      | some (r, s) =>
        let (ok, s) := s.mtagOk r
        if !ok then s.mtagFails r.endpoint
        else if 0x52 ≤ r.typ then s.bump Reg.BIL_TOKENS_REJECTED
        else s.tokenDecide r.endpoint (word64 r.values 0 + word64 r.values 1 * 2 ^ 64) none cut)

/-- PARTNER_TOKEN_RECORD (R395, R498): an acceptance record of the owner's island; `tagOk` is its tag's verdict. -/
def execPartnerTokenRecord (seq endpoint lastId window : Nat) (tagOk : Bool) (s : State) : R :=
  .next (
    if !tagOk || s.kvt.pairKey.isNone then s.tagRefused endpoint seq
    else
      let s := s.setLedger endpoint (fun l => { l with lastId := lastId % 2 ^ 24, window := window % 2 ^ 64 })
      (s.drawn.bump Reg.PAR_ISLAND_RECS_RX).emit (.pair 5 (le 4 seq ++ s.pairTag)))

/-- ISLAND_RECORD_ACK (R498). -/
def execIslandRecordAck (seq : Nat) (tagOk : Bool) (s : State) : R :=
  .next (if tagOk then s.setBil (fun b => { b with unacked := b.unacked.filter (fun r => r.seq != seq) })
    else s.tagRefused 0 seq)

/-- BIL_REPLAY_RECORD (R384, R388): the next archived record of an endpoint's replay is read back. -/
def execBilReplayRecord (endpoint : Nat) (s : State) : R := .next (if s.bilLive then s.replayNext endpoint else s)

/-- BIL_CAMPAIGN_WINDOW_OPEN (R398, R399, R402). -/
def execBilCampaignWindowOpen (n : Nat) (s : State) : R :=
  .next (match s.bil.campaigns.get? n with
    | none => s
    | some x => if x.paused && s.bilLive && s.bilOwns && s.campWindow x then (s.bilNotice 7 n 0 0 0).campOpen n else s)

/-- BIL_CAMPAIGN_WINDOW_CLOSE (R399, R402). -/
def execBilCampaignWindowClose (n : Nat) (s : State) : R :=
  .next (match s.bil.campaigns.get? n with
    | none => s
    | some x => if !x.paused && !s.campWindow x then s.campPause n else s)

/-- BIL_CAMPAIGN_DEADLINE (R399). -/
def execBilCampaignDeadline (n : Nat) (s : State) : R :=
  .next (match s.bil.campaigns.get? n with
    | none => s
    | some x => if x.deadline ≤ s.rtcNow then s.campEnd n 0x0215 else s)

/-- BIL_CALENDAR_LOAD (R376, R379, R401). `cut` says that a tamper alarm or power loss meets it before its CRC is written. -/
def execBilCalendarLoad (c : CmdRef) (slot crc : Nat) (image : Bytes) (cut : Bool) (s : State) : R :=
  .next (if s.dataHeld c then s else
    if s.bil.loading.isSome then s.reply c 0x0212
    else if 16 ≤ slot ∨ byteAt image 6 % 16 ≠ slot then s.reply c St.badParam
    else if crc ≠ leAt image 4092 4 ∨ leAt image 4092 4 ≠ crc32c (image.take 4092) then s.reply c St.checkFailed
    else if !calOk image then s.reply c St.badParam
    else if (s.calCopies slot).any (fun x => decide (calVer image ≤ calVer x)) then s.reply c St.writeOnce
    else if (s.calCopies slot).any (fun x => decide (s.rtcStamp < calActive x)) then s.reply c 0x0212
    else
      let k := match s.calCopy slot 0, s.calCopy slot 1 with
        | none, _ => 0
        | some _, none => 1
        | some a, some b => if calVer a < calVer b then 0 else 1
      if cut then s.setBil (fun b => { b with loading := some c })
      else
        let s := s.setBil (fun b => { b with cals := b.cals.put (slot * 2 + k) image })
        (s.log 7 0x0D 5 slot (calVer image)).reply c St.ok)

/-- BIL_REGS_READ_RAW (R401). -/
def execBilRegsReadRaw (c : CmdRef) (first count : Nat) (s : State) : R :=
  .next (
    let l := (List.range count).map (· + first)
    if count = 0 ∨ 4096 < count ∨ 2 ^ 21 < first + count then s.reply c St.badParam
    else if l.any (s.bilForeign c) then s.reply c St.notAuthorized
    else
      let one := fun i => if (s.ledgerOf i).bound then s.bilSet i else none
      (s.writeData c (l.flatMap (fun i => match one i with | some b => b.bytes | none => zeros 320))).replyWith c St.ok
        (l.filter (fun i => (one i).isSome)).length 0)

/-- BIL_REGS_READ_SIGNED (R390, R401, R410). -/
def execBilRegsReadSigned (c : CmdRef) (first count nonce : Nat) (s : State) : R :=
  .next (
    let l := (List.range count).map (· + first)
    if count = 0 ∨ 16 < count ∨ 2 ^ 21 < first + count then s.reply c St.badParam
    else if l.any (s.bilForeign c) then s.reply c St.notAuthorized
    else
      let slots := l.map (s.readoutSlot nonce)
      let n := (slots.filter (·.2)).length
      let s := s.bumpBy Reg.KVT_SIGNATURES n
      (s.writeData c (slots.flatMap (·.1))).replyWith c St.ok n 0)

/-- BIL_CREDIT_PUSH (R393, R397, R401). -/
def execBilCreditPush (c : CmdRef) (endpoint token : Nat) (cut : Option Bool) (s : State) : R :=
  .next (
    if s.bilForeign c endpoint then s.reply c St.notAuthorized
    else if !(s.ledgerOf endpoint).bound then s.reply c 0x0111
    else (s.replyQueued c).finishAccept.tokenDecide endpoint (token % 2 ^ 66) (some c) cut)

/-- BIL_CAMPAIGN_START (R399, R401). -/
def execBilCampaignStart (c : CmdRef) (p : CampaignIn) (s : State) : R :=
  .next (if s.dataHeld c then s else
    if p.group % 2 = 0 ∨ p.repeats = 0 ∨ 4 < p.repeats ∨ p.deadlineH = 0 ∨ 8760 < p.deadlineH ∨ 4 ≤ p.number ∨ 16 ≤ p.calId ∨ 8 ≤ p.media
      ∨ p.endpoints.isEmpty ∨ 262144 < p.endpoints.length ∨ p.endpoints.any (fun i => decide (2 ^ 21 ≤ i)) ∨ p.keyref < 0x80 then s.reply c St.badParam
    else if p.endpoints.any (s.bilForeign c) then s.reply c St.notAuthorized
    else if s.bil.campaigns.has p.number then s.reply c St.stateConflict
    else match s.calTop p.calId with
    | none => s.reply c 0x0213
    | some image =>
      if !s.kvt.blobs.has ((placeOf 0 c.inst p.keyref).getD 0) then s.reply c St.keyAbsent
      else
        let x : Campaign :=
          { cmd := c, calId := p.calId, image := image, calVer := calVer image, media := p.media, keyref := p.keyref, group := p.group
            repeats := p.repeats, deadline := s.rtcNow + p.deadlineH * 3600, endpoints := p.endpoints.eraseDups }
        let s := (s.replyQueued c).setBil (fun b => { b with campaigns := b.campaigns.put p.number x })
        if s.bilLive && s.bilOwns && s.campWindow x then s.campOpen p.number else s)

/-- BIL_BIND (R401). -/
def execBilBind (c : CmdRef) (p : BindIn) (s : State) : R :=
  .next (
    let st := s.bindStatus c p
    if st ≠ St.ok then s.reply c st
    else
      let x := s.ctx p.endpoint
      let b : BilSet :=
        { endpoint := p.endpoint, inst := x.inst, epGen := x.gen, sseq := 1, calId := p.calId, prepay := p.prepay, btype := p.btype
          eui := p.eui, keyset := p.keyset }
      let b := { b with mac := s.islandMac b }
      let s := s.setLedger p.endpoint (fun _ => { lastId := (p.firstId - 1) % 2 ^ 24, bound := true, window := 2 ^ 64 - 1, anchor := 1 })
      (s.setBil (fun x => { x with sets := x.sets.put p.endpoint b })).reply c St.ok)

/-- BIL_RESTORE (R388, R401): the sets of 320 B in order. -/
def execBilRestore (c : CmdRef) (sets : List Bytes) (s : State) : R :=
  .next (if s.dataHeld c then s else
    if sets.isEmpty ∨ 4096 < sets.length then s.reply c St.badParam
    else if sets.any (fun d => s.bilForeign c (bilSetOf d).endpoint) then s.reply c St.notAuthorized
    else if !s.rootsOpen then s.reply c St.stateConflict
    else
      let k := s.bil.nextRestore
      let s := (s.replyQueued c).setBil (fun b => { b with nextRestore := k + 1, restores := b.restores.put k { cmd := c } })
      (sets.foldl (fun s d => s.restoreSet k (fit 320 d)) s).endRestore k)

/-- BIL_RELEASE (R401): the index may be bound afresh. -/
def execBilRelease (c : CmdRef) (endpoint confirm : Nat) (s : State) : R :=
  .next (
    if confirm ≠ 0xB17E then s.reply c St.badParam
    else if s.bilForeign c endpoint then s.reply c St.notAuthorized
    else if !(s.ledgerOf endpoint).bound then s.reply c 0x0111
    else
      let job := (s.bil.replays.find? (fun r => r.endpoint == endpoint)).bind (·.job)
      let s := s.setBil (fun b => { b with
        ledger := b.ledger.del endpoint, sets := b.sets.del endpoint, queue := b.queue.filter (fun r => r.endpoint != endpoint)
        replays := b.replays.filter (fun r => r.endpoint != endpoint) })
      let s := match job with | some k => s.endRestore k | none => s
      s.reply c St.ok)

/-- BIL_ACCEPT_SHORT (R388, R412): under an authorization of the metrology authority ANCHOR takes the set's SSEQ. -/
def execBilAcceptShort (c : CmdRef) (endpoint : Nat) (auth : AuthIn) (s : State) : R :=
  .next (if s.dataHeld c then s else
    let l := s.ledgerOf endpoint
    if s.bilForeign c endpoint then s.reply c St.notAuthorized
    else if !l.bound then s.reply c 0x0111
    else match s.bilSet endpoint with
    | none => s.reply c 0x0213
    | some b =>
      if s.shortBarred endpoint then s.reply c St.stateConflict
      else
        let ok := s.authPasses auth 4 (endpoint + b.sseq * 2 ^ 32)
        let s := s.authUsed ok
        if !ok then s.reply c St.notAuthorized
        else
          let s := (s.log 7 0x0D 6 endpoint (l.anchor - b.sseq)).setLedger endpoint (fun l => { l with anchor := b.sseq })
          (s.goInForce endpoint none).reply c St.ok)

/-- BIL_LEDGER_READ (R382, R401). -/
def execBilLedgerRead (c : CmdRef) (first count : Nat) (s : State) : R :=
  .next (
    let l := (List.range count).map (· + first)
    if count = 0 ∨ 4096 < count ∨ 2 ^ 21 < first + count then s.reply c St.badParam
    else if l.any (s.bilForeign c) then s.reply c St.notAuthorized
    else (s.writeData c (l.flatMap (fun i => (s.ledgerOf i).bytes))).reply c St.ok)

/-- BIL_CAMPAIGN_ABORT (R401). -/
def execBilCampaignAbort (c : CmdRef) (n : Nat) (s : State) : R :=
  .next (if !s.bil.campaigns.has n then s.reply c St.ok else (s.campEnd n 0x0214).reply c St.ok)

/-- BILLING_GAP_REFILL (R253, R263): of the first `n` records of the gap list, those that stand durable in a row are read back from the
archive. -/
def execBillingGapRefill (n : Nat) (s : State) : R :=
  .next (if !s.begun 6 then s else
    let room := s.ing.bilqMib * 16384 - s.ing.bilq.length
    let k := ((s.ing.gap.take (min n room)).takeWhile s.recDurable).length
    let s := (s.setIng (fun g => { g with bilq := g.bilq ++ g.gap.take k, gap := g.gap.drop k })).bumpBy Reg.ING_BIL_REPLAYED k
    if s.ing.bilGap && s.ing.gap.isEmpty then (s.setIng (fun g => { g with bilGap := false })).ingNotice 6 0 0 0 else s)

end Sys2Proof.Machine
end

