-- ==== Sys2Proof/Machine/Fse.lean ====
section
/-! DEFINITION. Frame security: the intake, the verdict of each frame and what follows from it, and the sealing of outbound
frames (R213 to R235, R255). -/
set_option Elab.async false
namespace Sys2Proof.Machine

/-- A verdict: its code (0 ACCEPT, 1 DUPLICATE, 2 REPLAY, 3 REJECT, 4 ORPHANED_KEY) and its reason (R225, R231). -/
structure Verdict where
  code : Nat
  reason : Nat
  deriving DecidableEq, Repr

namespace State

/-! #### The intake (R213, R214, R255, R495, R496) -/

/-- TYPE of a frame. -/
def frameTyp (f : RxFrame) : Nat := if f.radio then (mshLinkOf f.bytes).typ else (plcLinkOf f.bytes).typ

/-- Does the gate act on a frame: an Afane-P or Afane-R DATA, or a FLOOD (R255)? -/
def gated (f : RxFrame) : Bool := frameTyp f == 0 || (f.radio && frameTyp f == 3)

/-- The intake holds as many frames or bytes as it may (R214). -/
def intakeFull (s : State) : Bool :=
  decide (512 ≤ s.fse.intake.length) || decide (1048576 ≤ (s.fse.intake.map (fun f => f.frame.bytes.length)).sum)

/-- Whose frame it is: the context of its source, or of its hop transmitter where it has no MIC and so no need of the source's. -/
def frameOwner (f : FseFrame) : Option (Nat × Nat) :=
  if (if f.frame.radio then (mshLinkOf f.frame.bytes).sec else true) then f.src else f.hop

/-- The instance of a frame's owner. -/
def frameInst (s : State) (f : FseFrame) : Option Nat := (frameOwner f).map (fun e => (s.ctx e.1).inst)

/-- Is the instance of a frame FENCING at its window stage, so that the frame belongs to the fence (R229)? -/
def frameFenced (s : State) (f : FseFrame) : Bool := (s.frameInst f).any (fun i => (s.inst i).state == .fencing)

/-- A frame enters the intake and its lookups are made; the owner shadows it to a standby partner (R214, R216, R495). -/
def enterIntake (f : RxFrame) (s : State) : State :=
  let (x, s) := s.fseLookup f
  let x := { x with shut := (s.frameInst x).any (fun i => (s.inst i).state != .ready) }
  let s := s.setFse (fun q => { q with intake := q.intake ++ [x] })
  if s.dev.role = .active && s.par.present && s.par.partner.role == .standby && s.regBit Reg.PAR_CTRL 3 then
    let n := s.par.shadowSeq
    let s : State := { s with par := { s.par with shadowSeq := n + 1, lastShadow := f.rts } }
    let s := s.bump Reg.PAR_SHADOW_FRAMES
    s.emit (.pair 2 (le 4 n ++ le 1 f.path ++ le 1 (bitN f.radio) ++ le 8 f.rts ++ le 2 f.chans ++ le 1 f.lq ++ le 2 f.bytes.length ++ f.bytes))
  else s

/-- A frame is offered to the intake: into the hold buffer of a standby part, refused by the full intake or the gate, or admitted
(R214, R255, R258, R496). Verdicts run from stage D5 and stop where DUSK, NIGHT or RECOVERY is entered (R42). -/
def intakeFrame (f : RxFrame) (s : State) : State :=
  if !s.begun 5 then s
  else if s.dev.role = .standby ∧ ¬f.shadow ∧ ¬(s.dev.state = .dawn ∧ s.regBit Reg.PAR_CTRL 0 = false) then
    let keep := (s.par.hold ++ [(s.nowNs, f)]).filter (fun e => decide (s.nowNs ≤ e.1 + 1000000 * min 250 (s.regField Reg.PAR_LOCAL_HOLD 7 0)))
    { s with par := { s.par with hold := keep.drop (keep.length - 65536) } }
  else if s.intakeFull then (s.bump Reg.FSE_INTAKE_DROP).ifWhole f id
  else if gated f && !f.shadow && !s.gateOpen f.path then ((s.bump (Reg.ING_ADMIT_DROP_PLC + 4 * f.path)).ifWhole f id).gateNotices
  else ((if gated f then s.takeAllowance f.path else s).enterIntake f).gateNotices

/-! #### Verdicts (R225 to R229) -/

/-- Is a context still the one found at lookup (R228)? -/
def stillThere (s : State) (e : Option (Nat × Nat)) : Bool :=
  match e with
  | none => true
  | some (i, gen) => let x := s.ctx i; x.valid && x.gen == gen

/-- What checks 3 to 5 and the recheck of R228 say of a key: its own verdict, if it has one. -/
def keyVerdict (s : State) (r : KeyRes) (orphan : Nat) : Option Verdict :=
  match r with
  | .none => none
  | .absent => some ⟨3, 3⟩
  | .purged => some ⟨3, 7⟩
  | .orphaned => some ⟨4, orphan⟩
  | .ok k => if s.dev.life = 4 ∧ k.lc ≠ 4 then some ⟨3, 7⟩ else if s.tagsNow { k with epoch := (s.inst k.inst).epoch } then none else some ⟨4, 0xC⟩

/-- The smaller order of two key verdicts: absence before an orphan, and the frame key before the hop key (R225). -/
def firstKey (a b : Option Verdict) : Option Verdict :=
  match a, b with
  | some v, some w => if v.code = 4 ∧ w.code = 3 then some w else some v
  | some v, none => some v
  | none, w => w

/-- Do MICLEN, mode and usage of the keys allow the operations (R223, R225 check 6)? -/
def policyOk (s : State) (f : FseFrame) : Bool :=
  let radio := f.frame.radio
  let miclen := if radio then (mshLinkOf f.frame.bytes).miclen else (plcLinkOf f.frame.bytes).miclen
  let ref := if radio then (mshLinkOf f.frame.bytes).keyref else (plcLinkOf f.frame.bytes).keyref
  let least := min 2 (s.regField Reg.FSE_CTRL 3 2)
  let mic := match f.micKey with
    | .ok k => decide (least ≤ miclen) && micUsage ref k.usage && (k.mode == 0 || (s.regBit Reg.FSE_CTRL 1 && miclen == 2))
    | _ => true
  let tag := match f.tagKey with
    | .ok k => k.mode == 0 && (if k.place < sharedBase then tagUsage 0 k.usage else tagUsage 0x80 k.usage)
    | _ => true
  mic && tag

/-- The verdict of a frame at the window stage, with its plaintext on ACCEPT and DUPLICATE (R225 to R228). DEDUCED (log entry 136): a frame
whose instance has left READY since the lookup is REJECT FENCED by R228 once that instance is no longer FENCING. -/
def verdictOf (s : State) (f : FseFrame) : Verdict × Option Bytes :=
  let b := f.frame.bytes
  let l := mshLinkOf b
  let fcnt := if f.frame.radio then l.fcnt else (plcLinkOf b).fcnt
  let src := match f.src with | some (i, _) => s.ctx i | none => match f.hop with | some (i, _) => s.ctx i | none => {}
  let hop := match f.hop with | some (i, _) => s.ctx i | none => {}
  if f.noCtx || !s.stillThere f.src || !s.stillThere f.hop then (⟨3, 1⟩, none)
  else if f.shut || f.old || (s.frameInst f).any (fun i => (s.inst i).state != .ready) then (⟨3, 2⟩, none)
  else match firstKey (s.keyVerdict f.micKey 0xA) (s.keyVerdict f.tagKey 0xB) with
    | some v => (v, none)
    | none =>
      if !s.policyOk f then (⟨3, 4⟩, none)
      else
        let tagBad : Bool := match f.tagKey with | .ok k => !tagVerifies b k | _ => false
        let nseqBad : Bool := match f.tagKey with | .ok _ => winTest hop.nseqH hop.nseqMap l.nseq != WinTest.new | _ => false
        if tagBad then (⟨3, 5⟩, none)
        else if nseqBad then (⟨2, 8⟩, none)
        else match f.micKey with
          | .ok k => match frameOpen f.frame.radio b k with
            | none => (⟨3, 6⟩, none)
            | some p => match winTest src.fcntH src.fcntMap fcnt with
              | .below => (⟨2, 9⟩, none)
              | .taken => (⟨1, 0⟩, some p)
              | .new => (⟨0, 0⟩, some p)
          | _ => (⟨0, 0⟩, none)

/-- The windows move (R193, R226): NSEQ on ACCEPT and DUPLICATE, FCNT on ACCEPT. -/
def moveWindows (f : FseFrame) (v : Verdict) (s : State) : State :=
  let l := mshLinkOf f.frame.bytes
  let fcnt := if f.frame.radio then l.fcnt else (plcLinkOf f.frame.bytes).fcnt
  let s := match f.hop with
    | some (i, _) => if v.code ≤ 1 then
        s.modCtx i (fun x => let w := winTake x.nseqH x.nseqMap l.nseq; { x with nseqH := w.1, nseqMap := w.2 }) else s
    | none => s
  match f.src, f.micKey with
  | some (i, _), .ok _ => if v.code = 0 then
      s.modCtx i (fun x => let w := winTake x.fcntH x.fcntMap fcnt; { x with fcntH := w.1, fcntMap := w.2 }) else s
  | _, _ => s

/-! #### Counts and notices (R234, R235) -/

/-- The 64-bit counter of a verdict code (R235). -/
def verdictCounter (code : Nat) : Nat :=
  match code with
  | 0 => Reg.FSE_ACCEPT_LO
  | 1 => Reg.FSE_DUPLICATE_LO
  | 2 => Reg.FSE_REPLAY_LO
  | 3 => Reg.FSE_REJECT_LO
  | _ => Reg.FSE_ORPHANED_LO

/-- An FSE notice (R234). -/
def fseNotice (reason : Nat) (f : FseFrame) (endpoint : Nat) (s : State) : State :=
  let b := f.frame.bytes
  let l := mshLinkOf b
  let p := plcLinkOf b
  let r := f.frame.radio
  s.event 0 (le 1 reason ++ le 1 f.frame.path ++ le 3 endpoint ++ le 1 (if r then l.keyref else p.keyref) ++ zeros 2
    ++ le 8 (if r then l.src else p.src) ++ le 4 (if r then l.fcnt else p.fcnt))

/-- The notices a verdict raises (R234). -/
def verdictNotices (f : FseFrame) (v : Verdict) (s : State) : State :=
  let s := if v.reason = 1 ∧ s.regBit Reg.FSE_CTRL 0 then
      let n := if s.fse.noctx.1 = s.nowSec then s.fse.noctx.2 else 0
      if n < max 1 (s.regField Reg.FSE_CTRL 15 8) then (s.setFse (fun q => { q with noctx := (s.nowSec, n + 1) })).fseNotice 1 f 0 else s
    else s
  match frameOwner f with
  | none => s
  | some (i, _) =>
    let run := if v.code = 2 then s.fse.replays.getD i 0 + 1 else 0
    let s := s.setFse (fun q => { q with replays := if run = 0 then q.replays.del i else q.replays.put i run })
    let s := if run = 16 then s.fseNotice 3 f i else s
    if v.code = 4 ∧ ¬s.fse.orphaned.contains i then (s.setFse (fun q => { q with orphaned := i :: q.orphaned })).fseNotice 2 f i else s

/-- The counters and the latest-reject registers of a verdict (R235). -/
def countVerdict (f : FseFrame) (v : Verdict) (s : State) : State :=
  let s := s.bumpPair (verdictCounter v.code) 1
  let s := if v.reason = 0 then s else s.bumpI Reg.FSE_REASON_COUNT v.reason
  let s := if v.reason = 0xC then s.bump Reg.FSE_GEN_RECHECK else s
  if v.code ≤ 1 then s
  else
    let idx := match frameOwner f with | some (i, _) => i + 2 ^ 31 | none => 0
    (s.setReg Reg.FSE_LAST_REJECT (idx + v.code * 2 ^ 21 + v.reason * 2 ^ 24 + f.frame.path * 2 ^ 28)).setPair Reg.FSE_LAST_REJECT_TS_LO f.frame.rts

/-! #### Hand-off of a verdict (R25, R213, R231) -/

/-- A frame with its ACCEPT goes to ING (R213, R241). -/
def toIngest (f : FseFrame) (i : Nat) (plain : Bytes) (s : State) : State :=
  let x := s.ctx i
  let l := mshLinkOf f.frame.bytes
  let p := plcLinkOf f.frame.bytes
  s.ingAccept { endpoint := i, inst := x.inst, gen := x.gen, path := f.frame.path, relays := if f.frame.radio then l.relays else p.relays
                rts := f.frame.rts, fcnt := if f.frame.radio then l.fcnt else p.fcnt, zcFallback := f.frame.zcFallback
                overload := f.frame.overload, plain := plain, slots := 0, held := false }

/-- The frame with its plaintext in place of the ciphertext, for PLC itself. -/
def plainFrame (f : RxFrame) (plain : Bytes) : RxFrame :=
  let p := plcLinkOf f.bytes
  let n := bodyLead false p.typ
  { f with bytes := f.bytes.take (p.bodyAt + n) ++ plain ++ f.bytes.drop (p.bodyAt + n + plain.length) }

/-- What a verdict leads to at the medium unit and at ING, and the FCS of a radio frame that then fails (R187, R189, R230, R201, R204, R213, R231, R244). -/
def handVerdict (f : FseFrame) (v : Verdict) (plain : Option Bytes) (s : State) : State :=
  let b := f.frame.bytes
  let status := if v.code = 0 then some 0 else if v.code = 1 then some 1 else none
  if f.frame.radio then
    let l := mshLinkOf b
    let s := s.mshVerdict f.frame (if f.frame.fcsBad then none else status)
    let s := if !f.frame.fcsBad then s
      else if v.code ≤ 1 then s.setFse (fun q => { q with fcsDue := q.fcsDue ++ [f.frame] }) else s.mshDiscard .header
    let s := match frameOwner f with
      | some (i, _) => if v.code = 0 ∧ l.typ ≠ 2 then s.learnFrame i f.frame else s
      | none => s
    if l.typ = 1 ∧ v.code = 0 ∧ ¬f.frame.fcsBad then s.setMsh (fun m => { m with ackbox := m.ackbox ++ [f.frame] })
    else match f.src, plain with
      | some (i, _), some p =>
        if l.typ = 0 ∨ l.typ = 3 then
          let s := s.pathStats i (v.code == 0) f.frame.path f.frame.lq f.frame.rts l.fcnt
          if v.code = 0 then
            let s := if l.typ = 3 then s.seenInsert l.src (leAt l.body 0 2) else s.learnUplink i f.frame
            s.toIngest f i p
          else s
        else s
      | _, _ => s
  else
    let l := plcLinkOf b
    let s := s.plcVerdict f.frame status
    match f.src, plain with
    | some (i, _), some p =>
      if l.typ = 0 then
        let s := s.pathStats i (v.code == 0) f.frame.path f.frame.lq f.frame.rts l.fcnt
        if v.code = 0 then s.toIngest f i p else s
      else if v.code = 0 then s.setPlc (fun q => { q with inbox := q.inbox ++ [plainFrame f.frame p] })
      else s
    | _, _ => s

/-- The release of a frame's verdict (R216, R225 to R231, R234). -/
def releaseVerdict (f : FseFrame) (s : State) : State :=
  let (v, plain) := s.verdictOf f
  let i := match f.src with | some (i, _) => i | none => 2 ^ 32 - 1
  let l := mshLinkOf f.frame.bytes
  let p := plcLinkOf f.frame.bytes
  let s := if (if f.frame.radio then l.sec else p.sec) then
      s.digestItem 0 f.frame.rts [i, if f.frame.radio then l.fcnt else p.fcnt, v.code]
    else s
  (((s.moveWindows f v).countVerdict f v).verdictNotices f v).handVerdict f v plain

/-- A frame leaves the intake at its window stage: to the sink with no other count where its instance is FENCING (R229), else with its
verdict, its wait counted (R219, R227). -/
def windowStage (f : FseFrame) (sameCycle : Bool) (waitNc : Nat) (s : State) : State :=
  let s := s.setFse (fun q => { q with intake := q.intake.erase f })
  if s.frameFenced f then (s.bump Reg.FSE_FENCE_SINK).sunk ((s.frameInst f).getD 0)
  else
    let s := if sameCycle then s.bump Reg.FSE_SAME_CYCLE else s
    let s := if waitNc = 0 then s else (s.bump Reg.FSE_MISS_WAIT).maxReg Reg.FSE_MAX_WAIT_NC waitNc
    s.releaseVerdict f

/-! #### Seals (R196, R232, R233) -/

/-- A seal fails: its send completes with a status (R196, R232, R233). -/
def sealFails (medium id status : Nat) (s : State) : State :=
  let s := s.bump Reg.FSE_TX_SEAL_FAIL
  if medium = 0 then s.endSend id status 0 else s.endMsh id status 0

/-- A power-line send is sealed with an FCNT and a new LSEQ (R139, R222, R232). -/
def sealPlc (x : PlcSend) (k : KeySnap) (fcnt : Nat) (s : State) : State :=
  let y := { x with fcnt := fcnt, lseq := s.plc.lseq, sealed := true }
  let s := s.setPlc (fun p => { p with lseq := (p.lseq + 1) % 256 })
  let head := plcHead y s.plc.cfg.netId s.plc.cfg.netEui (s.sendRoute y).relays
  let out := frameSeal false y.typ s.plc.cfg.netEui fcnt y.miclen head y.body k
  (s.modSend x.id (fun _ => { y with link := plcFrameBytes head out [] })).bump Reg.FSE_TX_SEALED

/-- A mesh send is sealed with an FCNT on the route of its endpoint (R191, R196, R222, R232); one for a tunnel goes out at once. -/
def sealMsh (x : MshSend) (k : KeySnap) (fcnt : Nat) (s : State) : State :=
  let y := { x with fcnt := fcnt, route := s.downRoute x, sealed := true }
  let head := mshHead y s.msh.cfg.netId s.msh.cfg.netEui false
  let out := frameSeal true y.typ s.msh.cfg.netEui fcnt y.miclen head y.body k
  let y := { y with sealedBody := out }
  let s := (s.modMsh x.id (fun _ => y)).bump Reg.FSE_TX_SEALED
  if y.tunnel then s.sendTunnel y else s

/-- Seals a send of a medium. -/
def sealSend (medium id : Nat) (k : KeySnap) (fcnt : Nat) (s : State) : State :=
  if medium = 0 then (match s.plcSendOf id with | some x => s.sealPlc x k fcnt | none => s)
  else (match s.mshSendOf id with | some x => s.sealMsh x k fcnt | none => s)

/-- The key set, instance, KEYREF, MICLEN and endpoint of a send that still needs its seal. -/
def sealTarget (s : State) (medium id : Nat) : Option (Nat × Nat × Nat × Nat × Option Nat) :=
  if medium = 0 then
    match s.plcSendOf id with
    | some x => if x.sec && !x.sealed && x.phase != .discover then
        (match x.ep with
          | some i => some ((s.ctx i).keyset, (s.ctx i).inst, x.keyref, x.miclen, some i)
          | none => some (0, (x.cmd.map (·.inst)).getD 0, x.keyref, x.miclen, none))
      else none
    | none => none
  else
    match s.mshSendOf id with
    | some x => if x.sec && !x.sealed then
        (match x.ep with
          | some i => some ((s.ctx i).keyset, (s.ctx i).inst, x.keyref, x.miclen, some i)
          | none => some (0, (x.cmd.map (·.inst)).getD 0, x.keyref, x.miclen, none))
      else none
    | none => none

/-- The commit of a send (R196, R232, R233): its key resolved, its FCNT drawn, its bytes sealed. A group counter at its ceiling
first makes the next ceiling durable. -/
def commitSeal (medium id : Nat) (s : State) : State :=
  match s.sealTarget medium id with
  | none => s
  | some (set, inst, ref, miclen, ep) =>
    let (k, s) := s.sealKey set inst ref miclen
    match k with
    | .ok key =>
      if 0x80 ≤ ref then
        match s.groupDraw key.place with
        | .spent => s.sealFails medium id St.keyAbsent
        | .ceiling c => s.startJob (.group key.place c medium id)
        | .value v => (s.takeGroup key.place v).sealSend medium id key v
      else match ep with
        | none => s.sealFails medium id St.keyAbsent
        | some i => match s.drawUnicast i with
          | (none, s) => s.sealFails medium id St.keyAbsent
          | (some v, s) => s.sealSend medium id key v
    | .orphaned => s.sealFails medium id St.keyOrphaned
    | _ => s.sealFails medium id St.keyAbsent

/-- The ceiling of a group counter is durable, or could not be made so (R233). -/
def groupJobDone (place ceil medium id : Nat) (ok : Bool) (s : State) : State :=
  if ok then
    (s.setKvt (fun k => { k with groups := k.groups.put place ((s.groupOf place).1, ceil) })).commitSeal medium id
  else (s.log 0 0x0E 2 place 0).sealFails medium id St.keyAbsent

end State

/-- FSE_INTAKE (R213, R214, R216 to R218, R255, R258, R495, R496): the oldest frame offered is admitted or refused. -/
def execFseIntake (s : State) : R :=
  .next (match s.fse.offered with
    | [] => s
    | f :: rest => (s.setFse (fun q => { q with offered := rest })).intakeFrame f)

/-- FSE_VERDICT_RELEASE (R216, R219, R225 to R231, R234, R244, R252): frame `n` of the intake; `sameCycle` says that it was held
back at the window stage, `waitNc` how long it waited for a free fill or unwrap. Verdicts stop at entry to DUSK (R42). -/
def execFseVerdictRelease (n : Nat) (sameCycle : Bool) (waitNc : Nat) (s : State) : R :=
  .next (if !s.begun 5 then s else match s.fse.intake[n]? with
    | none => s
    | some f => s.windowStage f sameCycle waitNc)

/-- FCS_AFTER_VERDICT (R230): the FCS of a frame already released fails; its ACK is not sent. -/
def execFcsAfterVerdict (s : State) : R :=
  .next (match s.fse.fcsDue with
    | [] => s
    | f :: rest =>
      let s := s.setFse (fun q => { q with fcsDue := rest })
      (s.setMsh (fun m => { m with acks := m.acks.map (fun a => if a.owedFor f then { a with refused := true, status := none } else a) })).bump
        Reg.FSE_FCS_AFTER_VERDICT)

/-- FRAME_SEAL_COMMIT (R196, R232, R233): medium 0 power line, 1 mesh. -/
def execFrameSealCommit (medium id : Nat) (s : State) : R := .next (s.commitSeal medium id)

end Sys2Proof.Machine
end

