-- ==== Sys2Proof/Machine/UpdStore.lean ====
section
/-! DEFINITION. The firmware store: boot records, packages and their checks, deltas, and the choice of a slot (R451 to R456). -/
set_option Elab.async false
namespace Sys2Proof.Machine

/-! ### The regions (R451) -/

/-- First byte of a slot, 0 A or 1 B; of staging; of a copy of the boot record. -/
def slotBase (k : Nat) : Nat := if k = 0 then 0x0100000 else 0x1900000
abbrev slotSize : Nat := 24 * 2 ^ 20
abbrev stageBase : Nat := 0x3100000
abbrev stageSize : Nat := 15 * 2 ^ 20
def bootBase (k : Nat) : Nat := k * 0x10000

/-- A region as the loader numbers it: 0 slot A, 1 slot B, 2 staging (R467). -/
def regionBase (r : Nat) : Nat := if r = 2 then stageBase else slotBase r
def regionSize (r : Nat) : Nat := if r = 2 then stageSize else slotSize

/-! ### The boot record (R455) -/

/-- Bytes 0 to 27 of a boot record. -/
def BootRec.head (b : BootRec) : Bytes :=
  le 4 0x52425746 ++ le 4 b.rseq ++ le 1 (b.active % 2 + 2 * bitN b.pendValid + 4 * (b.pending % 2)) ++ le 1 (b.unconf % 4)
    ++ le 1 (b.stateA % 8) ++ le 1 (b.stateB % 8) ++ le 4 b.floor ++ le 4 b.fallbacks ++ le 4 b.stageLen ++ le 4 b.stageTotal

/-- Its 4 096 bytes. -/
def BootRec.bytes (b : BootRec) : Bytes :=
  let x := fit 4092 b.head
  x ++ le 4 (crc32c x)

/-- The boot record 4 096 bytes spell, where MAGIC and CRC hold. -/
def bootOf (x : Bytes) : Option BootRec :=
  if leAt x 0 4 = 0x52425746 ∧ leAt x 4092 4 = crc32c (x.take 4092) then
    some {
      rseq := leAt x 4 4, active := byteAt x 8 % 2, pendValid := bitAt (byteAt x 8) 1, pending := byteAt x 8 / 4 % 2
      unconf := byteAt x 9 % 4, stateA := byteAt x 10 % 8, stateB := byteAt x 11 % 8, floor := leAt x 12 4, fallbacks := leAt x 16 4
      stageLen := leAt x 20 4, stageTotal := leAt x 24 4 }
  else none

/-- State of a slot. -/
def BootRec.state (b : BootRec) (k : Nat) : Nat := if k = 0 then b.stateA else b.stateB
def BootRec.setState (k v : Nat) (b : BootRec) : BootRec := if k = 0 then { b with stateA := v } else { b with stateB := v }

/-! ### Packages (R452, R453) -/

/-- Fields of a package header. -/
def pkKind (h : Bytes) : Nat := byteAt h 5
def pkFwId (h : Bytes) : Nat := leAt h 8 4
def pkFloor (h : Bytes) : Nat := leAt h 12 4
def pkBaseId (h : Bytes) : Nat := leAt h 16 4
def pkImageLen (h : Bytes) : Nat := leAt h 20 4
def pkBodyLen (h : Bytes) : Nat := leAt h 24 4
def pkIslLen (h : Bytes) : Nat := leAt h 28 4
def pkIslOff (h : Bytes) : Nat := leAt h 32 4
def pkIslSw (h : Bytes) : Nat := leAt h 36 4
def pkIslMin (h : Bytes) : Nat := leAt h 40 4
def pkIslMax (h : Bytes) : Nat := leAt h 44 4
def pkImageDigest (h : Bytes) : Bytes := slice h 48 48
def pkBodyDigest (h : Bytes) : Bytes := slice h 96 48
def pkBaseDigest (h : Bytes) : Bytes := slice h 144 48
def pkSubsys (h : Bytes) : Nat := leAt h 192 4

/-- Are the header's fields valid for a package of a length (R452)? -/
def pkFieldsOk (h : Bytes) (total : Nat) : Bool :=
  leAt h 0 4 == 0x4B505746 && byteAt h 4 == 1 && decide (pkKind h ≤ 1) && leAt h 6 2 == 0 && decide (pkFloor h ≤ pkFwId h)
    && (pkKind h == 1 || (pkBaseId h == 0 && (pkBaseDigest h).all (· == 0#8) && pkBodyLen h == pkImageLen h))
    && decide (pkImageLen h ≤ 25157632) && decide (8192 + pkBodyLen h = total) && decide (pkIslOff h + pkIslLen h ≤ pkImageLen h)
    && (slice h 196 60).all (· == 0#8) && (slice h 2305 7).all (· == 0#8) && (slice h 5720 2472).all (· == 0#8)

/-- An island SW_ID within a header's range (R452). -/
def pkIslOk (h : Bytes) (sw : Nat) : Bool := decide (pkIslMin h ≤ sw ∧ sw ≤ pkIslMax h)

/-! ### Deltas (R454) -/

/-- Runs the operations of a delta body, the output so far given; none where the body is malformed. -/
def runDelta (base : Bytes) (len : Nat) : Nat → Bytes → Bytes → Option Bytes
  | 0, _, _ => none
  | fuel + 1, body, out =>
    if body.length < 4 then none
    else
      let op := byteAt body 0
      let n := leAt body 1 3
      let rest := body.drop 4
      let src := leAt rest 0 4
      if op = 0 then (if n = 0 ∧ rest = [] ∧ out.length = len then some out else none)
      else if n = 0 ∨ len < out.length + n then none
      else if op = 1 then
        (if rest.length < 4 ∨ base.length < src + n then none else runDelta base len fuel (rest.drop 4) (out ++ slice base src n))
      else if op = 2 then (if rest.length < n then none else runDelta base len fuel (rest.drop n) (out ++ rest.take n))
      else if op = 3 then
        (if rest.length < 4 + n ∨ base.length < src + n then none
        else runDelta base len fuel (rest.drop (4 + n)) (out ++ List.zipWith (· ^^^ ·) (slice rest 4 n) (slice base src n)))
      else none

namespace State

/-- Changes UPD. -/
def setUpd (f : Upd → Upd) (s : State) : State := { s with upd := f s.upd }

/-- A copy of the boot record, if it is valid (R455). -/
def bootCopy (s : State) (k : Nat) : Option BootRec := bootOf (s.upd.flash.bytes (bootBase k) 4096)

/-- The copy in force: the valid one with the higher RSEQ (R455). -/
def bootInForce (s : State) : Option (Nat × BootRec) :=
  match s.bootCopy 0, s.bootCopy 1 with
  | some a, some b => if a.rseq < b.rseq then some (1, b) else some (0, a)
  | some a, none => some (0, a)
  | none, some b => some (1, b)
  | none, none => none

/-- The boot record in force; all zero where no copy is valid. -/
def boot (s : State) : BootRec := match s.bootInForce with | some e => e.2 | none => {}

/-- A change of the boot record: the copy not in force is written with RSEQ one above (R455). -/
def commitBoot (f : BootRec → BootRec) (s : State) : State :=
  let k := match s.bootInForce with | some (0, _) => 1 | some _ => 0 | none => 0
  let b := s.boot
  let new := { f b with rseq := (b.rseq + 1) % 2 ^ 32 }
  s.setUpd (fun u => { u with flash := (u.flash.erase (bootBase k) 0x10000).program (bootBase k) new.bytes })

/-- The slot other than ACTIVE (R458). -/
def inactive (s : State) : Nat := 1 - s.boot.active

/-- The header and the image of a slot. -/
def slotHeader (s : State) (k : Nat) : Bytes := s.upd.flash.bytes (slotBase k) 8192
def slotImage (s : State) (k : Nat) : Bytes := s.upd.flash.bytes (slotBase k + 8192) (pkImageLen (s.slotHeader k))

/-- The header and the body of the staged package. -/
def stageHeader (s : State) : Bytes := s.upd.flash.bytes stageBase 8192
def stageBody (s : State) : Bytes := s.upd.flash.bytes (stageBase + 8192) (pkBodyLen s.stageHeader)

/-- Is a header authentic (R453)? `sigOk` is its signature's verdict. -/
def authentic (s : State) (h : Bytes) (sigOk : Bool) : Bool := sha384 (slice h 256 2049) == s.upd.romKey && sigOk

/-- Is a slot bootable but for its state (R456)? -/
def slotPasses (s : State) (k : Nat) (sigOk : Bool) : Bool :=
  let h := s.slotHeader k
  s.authentic h sigOk && sha384 (s.slotImage k) == pkImageDigest h && decide (s.boot.floor ≤ pkFwId h) && pkIslOk h s.met.swId

/-- Is a slot bootable (R456)? -/
def bootable (s : State) (k : Nat) (sigOk : Bool) : Bool := s.boot.state k == 2 && s.slotPasses k sigOk

/-- Is the activation of the inactive slot in conflict with the part's state (R460)? -/
def activateBarred (s : State) : Bool :=
  let b := s.boot
  let h := s.slotHeader s.inactive
  b.pendValid || b.state s.inactive != 2 || s.dev.role == .active || s.dev.tamperHold || s.dev.life == 4 || !s.upd.campaigns.isEmpty
    || (pkIslLen h != 0 && !pkIslOk (s.slotHeader s.upd.slot) (pkIslSw h))

/-- Nanoseconds of the confirmation window gone by (R462), while an image is on trial and the window runs. -/
def windowGone (s : State) : Option Nat :=
  if s.boot.pendValid then s.upd.confirmFrom.map (fun t => s.dev.nc - t) else none

/-- The slot the ROM chooses at D2 (R456), with the boot record as it then stands; none where no slot boots. -/
def chooseSlot (sig : Nat → Bool) (s : State) : Option Nat × State :=
  let rec' := s.boot
  let p := rec'.pending
  if rec'.pendValid && decide (rec'.unconf < 3) && s.bootable p (sig p) then
    (some p, s.commitBoot (fun b => { b with unconf := b.unconf + 1 }))
  else
    let s := if rec'.pendValid then
        (s.commitBoot (fun b => { b.setState p 3 with pendValid := false, unconf := 0, fallbacks := satAdd 32 b.fallbacks 1 })).setUpd
          (fun u => { u with fellBack := true })
      else s
    let a := s.boot.active
    if s.bootable a (sig a) then (some a, s)
    else if s.bootable (1 - a) (sig (1 - a)) then (some (1 - a), s.commitBoot (fun b => { b with active := 1 - a }))
    else (none, s)

/-- A UPD notice (R471). -/
def updNotice (reason index fwId : Nat) (s : State) : State :=
  s.event 0 (le 1 reason ++ le 1 index ++ zeros 2 ++ le 4 fwId ++ le 4 (if reason = 6 then s.boot.fallbacks else 0))

/-! #### Staging (R455, R457) -/

/-- The staging user (R472): 0 none, 1 download, 2 relay, 3 verify. -/
def stageUser (s : State) : Nat :=
  if s.upd.download.isSome then 1 else if s.upd.relayRx.isSome then 2 else if s.upd.verify.isSome then 3 else 0

/-- Staging is opened at offset 0: erased, with STAGE_TOTAL set (R457). -/
def openStage (total : Nat) (s : State) : State :=
  (s.setUpd (fun u => { u with flash := u.flash.erase stageBase stageSize })).commitBoot
    (fun b => { b with stageLen := 0, stageTotal := total })

/-- A granule of at most 64 KiB is programmed and read back, and STAGE_LEN raised (R457). -/
def stageGranule (b : Bytes) (s : State) : State :=
  let at' := s.boot.stageLen
  (s.setUpd (fun u => { u with flash := u.flash.program (stageBase + at') b })).commitBoot
    (fun r => { r with stageLen := r.stageLen + b.length })

/-- FLASH_RETRY counts the operations repeated after read-back (R472): at most two before FLASH_FAULT (R470). -/
def flashRetry (fails : Nat) (s : State) : State := s.bumpBy Reg.UPD_FLASH_RETRY (min fails 2)

/-! #### What UPD shows (R472) -/

/-- Seconds left in the confirmation window (R462). -/
def confirmLeft (s : State) : Nat :=
  match s.upd.confirmFrom with
  | some t => ceilDiv (600000000000 - (s.dev.nc - t)) 1000000000
  | none => 0

/-- UPD.STATUS (R472). -/
def updStatus (s : State) : Nat :=
  let b := s.boot
  s.upd.slot % 2 + bitN b.pendValid * 2 + b.unconf * 4 + b.stateA % 8 * 16 + b.stateB % 8 * 2 ^ 7 + s.stageUser * 2 ^ 10
    + bitN s.upd.activation.isSome * 2 ^ 12 + min 3 s.upd.campaigns.length * 2 ^ 13

end State
end Sys2Proof.Machine
end

