-- ==== Sys2Proof/Machine/FwCamp.lean ====
section
/-! DEFINITION. Endpoint firmware campaigns: their application records, windows, reports and frames (R468 to R470). -/
set_option Elab.async false
namespace Sys2Proof.Machine

/-- Segments of an image (R468). -/
def fwSegments (image : Bytes) : Nat := ceilDiv image.length 24

/-- FW_SEGMENT of index `i` (R468). -/
def fwSegment (x : FwCampaign) (i : Nat) : Bytes :=
  arHead 0x5A 0 false (i + 1) (x.imageId + fwSegments x.image * 2 ^ 32) (fit 24 (slice x.image (24 * i) 24))

/-- FW_ANNOUNCE (R468). -/
def fwAnnounce (x : FwCampaign) (abort : Bool) : Bytes :=
  arHead 0x5B 0 false 1 (x.imageId + fwSegments x.image * 2 ^ 32)
    (le 8 x.activateAt ++ le 4 x.image.length ++ le 4 (crc32c x.image) ++ le 8 (bitN abort))

/-- The bodies of frames of `room` bytes that carry whole ARs in order. -/
def fwFrames (room : Nat) (ars : List Bytes) : List Bytes := (pieces (max 1 (room / 40)) ars.length ars).map List.flatten

/-- The tag of a campaign's frames. -/
def fwTag (n : Nat) : Nat := 2 ^ 33 + n

namespace State

/-- Changes a campaign. -/
def modFw (n : Nat) (f : FwCampaign → FwCampaign) (s : State) : State := s.setUpd (fun u => { u with campaigns := u.campaigns.adj n f })

/-- Frames of a campaign go out by its multicast media (R469 step 2). GAP is left open and is free. -/
def fwMulticast (n : Nat) (x : FwCampaign) (ars : List Bytes) (s : State) : State :=
  let c : CmdRef := ⟨ownQueue, fwTag n, x.cmd.inst⟩
  let s := if bitAt x.media 0 then
      (fwFrames plcRoom ars).foldl (fun s f =>
        let p : PlcMcastIn :=
          { group := x.group, hopsLeft := 5, spread := 8, repeats := x.repeats, gap := 1 + Config.unstated 8 0 n % 255
            keyref := x.keyref, sec := true, miclen := 1, chains := 0, payload := f }
        s.plcMcast c p) s
    else s
  if bitAt x.media 1 then
    (fwFrames mshRoom ars).foldl (fun s f =>
      let p : MshFloodIn :=
        { group := x.group, ttl := 15, spread := 8, repeats := x.repeats, keyref := x.keyref, miclen := 1, ports := 0, payload := f }
      s.mshFlood c p) s
  else s

/-- Counts segments sent (R470, R472). -/
def fwCount (n k : Nat) (s : State) : State := (s.modFw n (fun x => { x with segments := x.segments + k })).bumpBy Reg.UPD_SEGMENTS_TX k

/-- The listed endpoints not yet confirmed or failed. -/
def fwOpenEps (x : FwCampaign) : List Nat := x.endpoints.filter (fun i => !x.confirmed.contains i && !x.failed.contains i)

/-- The first night: FW_ANNOUNCE, then every segment (R469 step 2). -/
def fwFirst (n : Nat) (x : FwCampaign) (s : State) : State :=
  let k := fwSegments x.image
  (s.fwMulticast n x (fwAnnounce x false :: (List.range k).map (fwSegment x))).fwCount n k

/-- A later night: segments that enough endpoints miss by multicast, then FW_ANNOUNCE and the other gaps by unicast (R469 step 4).
Endpoints of an instance that is not READY are skipped (R530). -/
def fwLater (n : Nat) (x : FwCampaign) (s : State) : State :=
  let eps := (fwOpenEps x).filter (fun i => (s.inst (s.ctx i).inst).state == .ready)
  let miss := fun i => x.missing.getD i []
  let often := (List.range (fwSegments x.image)).filter (fun k =>
    decide (x.remulti * eps.length < 100 * (eps.filter (fun i => (miss i).contains k)).length))
  let s := if often.isEmpty then s else (s.fwMulticast n x (often.map (fwSegment x))).fwCount n often.length
  if !bitAt x.media 2 then s
  else eps.foldl (fun s i =>
    let rest := (miss i).filter (fun k => !often.contains k && decide (k < fwSegments x.image))
    let room := if (s.ctx i).lastAccPath = 0 then plcRoom else mshRoom
    let s := (fwFrames room (fwAnnounce x false :: rest.map (fwSegment x))).foldl (fun s f => s.ownUnicast (fwTag n) i f) s
    s.fwCount n rest.length) s

/-- Frames of a campaign that have not started leave the media's queues. -/
def fwDrop (n : Nat) (s : State) : State :=
  let mine := fun (c : Option CmdRef) => c.any (fun c => c.queue == ownQueue && c.tag == fwTag n)
  { s with
    plc := { s.plc with sends := s.plc.sends.filter (fun x => x.started || !mine x.cmd) }
    msh := { s.msh with sends := s.msh.sends.filter (fun x => x.started || !mine x.cmd) } }

/-- The copy of a calendar slot that governs now, by device time (R376). -/
def fwCal (s : State) (calId : Nat) : Option Bytes := (s.calFor calId s.tim.sec).map Prod.fst

/-- Is now in the small-hours window of a calendar slot (R399, R469), and the night it belongs to. -/
def fwNight (s : State) (calId : Nat) : Option Nat :=
  match s.fwCal calId with
  | some c => if smallHours c s.tim.sec then some (nightOf c s.tim.sec) else none
  | none => none

/-- May a campaign transmit (R31, R42, R469)? -/
def fwMay (s : State) : Bool := s.dev.state == .day && s.par.owned

/-! #### Reports (R468, R469 step 3) -/

/-- The durable class 5 records of an endpoint, in archive append order. -/
def fwRecords (s : State) (i inst : Nat) : List Rec :=
  let blocks := sortOn (·.bseq) ((s.arc.map.flatMap (fun e => e.2.valid)).filter (fun k =>
    k.inst == inst && k.cls == 5 && decide (k.epMin ≤ i ∧ i ≤ k.epMax)))
  ((blocks.flatMap Block.records).map recOf).filter (fun r => r.endpoint == i)

/-- The segments a FW_GAPS record reports missing. -/
def fwGapsOf (r : Rec) : List Nat :=
  let base := word64 r.values 0 / 2 ^ 32
  ((List.range 128).filter (fun k => bitAt (word64 r.values (1 + k / 64)) (k % 64))).map (· + base)

/-- What an endpoint's reports after the campaign's start say: confirmed, failed, and the segments missing by the latest report. -/
def fwReport (s : State) (x : FwCampaign) (i : Nat) : Bool × Bool × List Nat :=
  let rs := (s.fwRecords i (s.ctx i).inst).filter (fun r => decide (x.start < r.ets))
  let st := rs.filter (fun r => r.typ == 0xC8 && (word64 r.values 0 % 2 ^ 32 == x.imageId || word64 r.values 1 % 2 ^ 32 == x.imageId))
  let last := (st.map (·.ets)).foldl max 0
  let gaps := (rs.filter (fun r => r.typ == 0xC9 && word64 r.values 0 % 2 ^ 32 == x.imageId && decide (last ≤ r.ets))).flatMap fwGapsOf
  let first := match st.find? (fun r => r.ets == last) with
    | some r => let k := word64 r.values 2 % 2 ^ 32; if k = 0xFFFFFFFF then [] else [k]
    | none => []
  (st.any (fun r => word64 r.values 0 % 2 ^ 32 == x.imageId), st.any (fun r => bitAt (word64 r.values 2) 33 && word64 r.values 1 % 2 ^ 32 == x.imageId),
    (first ++ gaps).eraseDups)

/-- A campaign ends (R469, R470). -/
def fwEnd (n status : Nat) (s : State) : State :=
  match s.upd.campaigns.get? n with
  | none => s
  | some x =>
    let s := (s.setUpd (fun u => { u with campaigns := u.campaigns.del n })).fwDrop n
    s.replyWith x.cmd status x.confirmed.length (min 65535 x.failed.length)

/-- The archive is asked for reports, and the campaign ends once every endpoint is confirmed or failed (R469 steps 3, 5 and 6). -/
def fwQuery (n : Nat) (s : State) : State :=
  match s.upd.campaigns.get? n with
  | none => s
  | some x =>
    if !s.arcUp then s
    else
      let y := (fwOpenEps x).foldl (fun (y : FwCampaign) i =>
        let (ok, bad, miss) := s.fwReport x i
        if ok then { y with confirmed := y.confirmed ++ [i], missing := y.missing.del i }
        else if bad then { y with failed := y.failed ++ [i], missing := y.missing.del i }
        else { y with missing := if miss.isEmpty then y.missing.del i else y.missing.put i miss }) x
      let s := s.modFw n (fun _ => y)
      if (fwOpenEps y).isEmpty then s.fwEnd n St.ok else s

/-! #### Windows (R469 steps 1 to 4) -/

/-- A campaign runs in an open window: reports are asked for, then this night's frames go out once. -/
def fwOpen (n : Nat) (s : State) : State :=
  match s.upd.campaigns.get? n with
  | none => s
  | some x =>
    let night := s.fwNight x.calId
    let new := x.lastNight != night
    let y := { x with paused := false, lastNight := night, nights := x.nights + bitN new }
    let s := (s.modFw n (fun _ => y)).fwQuery n
    match s.upd.campaigns.get? n with
    | none => s
    | some z => if !new then s else if z.nights = 1 then s.fwFirst n z else s.fwLater n z

/-- A campaign pauses (R469). -/
def fwPause (n : Nat) (s : State) : State := ((s.modFw n (fun x => { x with paused := true })).fwDrop n).updNotice 7 n
  ((s.upd.campaigns.get? n).map (·.imageId) |>.getD 0)

/-- Every running campaign pauses: the part loses ownership (R469). -/
def fwPauseAll (s : State) : State := (s.upd.campaigns.filter (fun e => !e.2.paused)).foldl (fun s e => s.fwPause e.1) s

end State
end Sys2Proof.Machine
end

