-- ==== Sys2Proof/Machine/Seam.lean ====
section
/-! DEFINITION. The receiving side of the die seam and the dies' heartbeats (R21, R32 to R36). -/
set_option Elab.async false
namespace Sys2Proof.Machine

namespace State

/-- A seam fault (R21): DAY goes to TWILIGHT with cause 0x04, the hold cause is set, and both recorders log it; in DUSK
and RECOVERY it is only logged. -/
def seamFault (cls seq : Nat) (s : State) : State :=
  let s := s.holdCause 0 true
  let s := if s.dev.state = .day then s.enterState .twilight 0x04 else s
  (s.log 5 0 2 cls seq).log 7 0 2 cls seq

/-- The sequence number a die expects next (R21). DESIGN CHOICE (log entry 87): numbers run per direction, over all classes. -/
def seamExpect (s : State) : Die → Nat
  | .noon => s.seam.noonExpect
  | .midnight => s.seam.midExpect

/-- Failed deliveries in a row at a die (R21). -/
def seamFails (s : State) : Die → Nat
  | .noon => s.seam.noonFails
  | .midnight => s.seam.midFails

/-- Sets a die's expected sequence number and failure count. -/
def setSeam (d : Die) (expect fails : Nat) (s : State) : State :=
  match d with
  | .noon => { s with seam := { s.seam with noonExpect := expect, noonFails := fails } }
  | .midnight => { s with seam := { s.seam with midExpect := expect, midFails := fails } }

/-- The die across the seam. -/
def otherDie : Die → Die
  | .noon => .midnight
  | .midnight => .noon

/-- The sender of a packet that a die asks for again sends what it kept under that number (R21). -/
def seamResend (d : Die) (s : State) : State :=
  match s.seam.kept.find? (fun p => decide (p.fromDie = otherDie d) && p.seq == s.seamExpect d) with
  | some p => s.emit (.seam p (crc32c p.bytes))
  | none => s

/-- A packet that arrives damaged or out of sequence: a resend request and its answer, and a seam fault when the fourth resend of it
fails too (R21). -/
def seamBad (d : Die) (cls seq : Nat) (s : State) : State :=
  if s.seamFails d < 4 then ((s.setSeam d (s.seamExpect d) (s.seamFails d + 1)).emit (.seamResend d)).seamResend d
  else (s.setSeam d (s.seamExpect d) 0).seamFault cls seq

/-- A packet that has arrived whole and in sequence (R21): the next number is expected, the sender keeps what came no longer, and the
seam fault no longer persists. DESIGN CHOICE (log entry 21): HOLD_CAUSES [0] clears at the next good packet at either die. -/
def seamTaken (d : Die) (s : State) : State :=
  let n := s.seamExpect d
  let s := (s.setSeam d (n + 1) 0).holdCause 0 false
  { s with seam := { s.seam with kept := s.seam.kept.filter (fun p => !(decide (p.fromDie = otherDie d) && decide (p.seq ≤ n))) } }

/-- A packet from the Noon die that the island controller does not admit: refused, counted and logged (R22). -/
def seamRefuse (cls seq : Nat) (s : State) : State :=
  ({ s with seam := { s.seam with refused := s.seam.refused + 1 } } : State).log 7 0 3 cls seq

/-- The view of itself a die puts into its heartbeat (R35). -/
def ownView (s : State) : Die → Heartbeat
  | .noon => { role := s.dev.role, owned := s.par.owned, state := s.dev.state, permit := s.seam.noonPermitView }
  | .midnight => { s.seam.midView with permit := s.midPermit }

/-- The mismatch count of a die (R36). -/
def missCount (s : State) : Die → Nat
  | .noon => s.seam.noonMiss
  | .midnight => s.seam.midMiss

/-- Sets the mismatch count of a die. -/
def setMiss (d : Die) (n : Nat) (s : State) : State :=
  match d with
  | .noon => { s with seam := { s.seam with noonMiss := n } }
  | .midnight => { s with seam := { s.seam with midMiss := n } }

/-- The last heartbeat a die received, as the recorders log it (R36); 0x100 where it has received none. -/
def lastBeat (s : State) (d : Die) : Nat :=
  match (match d with | .noon => s.seam.noonLast | .midnight => s.seam.midLast) with
  | some h => beatWord h
  | none => 0x100

/-- A die keeps the last heartbeat it received (R36). -/
def setLastBeat (d : Die) (h : Heartbeat) (s : State) : State :=
  match d with
  | .noon => { s with seam := { s.seam with noonLast := some h } }
  | .midnight => { s with seam := { s.seam with midLast := some h } }

/-- A mismatch counted on a die: at three, the pair recorder logs the last heartbeat of the Noon die and the island recorder that of the
Midnight die, with the count's die, and DAY goes to TWILIGHT with cause 0x05 (R36); GLB.HOLD_CAUSES [1] is set while the dies disagree. -/
def heartbeatMiss (d : Die) (s : State) : State :=
  let n := s.missCount d + 1
  let s := (s.setMiss d n).holdCause 1 true
  let s := if n = 3 then ((s.log 6 0x12 4 (s.lastBeat .noon) (dieCode d)).log 7 0 4 (s.lastBeat .midnight) (dieCode d)).forceTwilight 0x05
    else s
  s.truncateFrames

/-- A matching heartbeat (R36): the count of the die returns to 0, and the hold cause ends when neither die counts. -/
def heartbeatMatch (d : Die) (s : State) : State :=
  let s := s.setMiss d 0
  if s.seam.noonMiss = 0 ∧ s.seam.midMiss = 0 then s.holdCause 1 false else s

/-- Do two views differ in a field of R35? -/
def viewsDiffer (a b : Heartbeat) : Bool := decide (a ≠ b)

/-- The receiver mirrors what the sender owns: the island takes role, ownership and state, the Noon die the Midnight
permit (R34). -/
def mirrorView (d : Die) (hb : Heartbeat) (s : State) : State :=
  match d with
  | .midnight => { s with seam := { s.seam with midView := hb, midValid := true } }
  | .noon => { s with seam := { s.seam with noonPermitView := hb.permit } }

end State

/-- OWNERSHIP_HEARTBEAT_SEND (R35): the sender's four views, on seam class 2. -/
def execOwnershipHeartbeatSend (die : Die) (s : State) : R :=
  .next (s.seamBeat die (s.ownView die))

/-- OWNERSHIP_HEARTBEAT_RECEIVED (R35, R36). -/
def execOwnershipHeartbeatReceived (die : Die) (hb : Heartbeat) (s : State) : R :=
  .next (
    let differ := State.viewsDiffer hb (s.ownView die)
    let s := (s.setLastBeat die hb).mirrorView die hb
    if differ then s.heartbeatMiss die else s.heartbeatMatch die)

/-- HEARTBEAT_TIMEOUT (R33, R35): no heartbeat within 1.1 ms counts as a mismatch, and leaves the island without a valid
heartbeat. -/
def execHeartbeatTimeout (die : Die) (s : State) : R :=
  .next (
    let s : State := match die with
      | .midnight => { s with seam := { s.seam with midValid := false } }
      | .noon => s
    s.heartbeatMiss die)

end Sys2Proof.Machine
end

