-- ==== Sys2Proof/Machine/ParOps.lean ====
section
/-! DEFINITION. The pair: the health report, ownership gained and released, faults of the interlock, digests and shadowing
(R484 to R514, R620). -/
set_option Elab.async false
namespace Sys2Proof.Machine

/-- The 64 bytes of a report (R512). -/
def ParReport.bytes (r : ParReport) : Bytes :=
  le 8 r.eui ++ le 1 (roleCode r.role + 4 * bitN r.owner + 8 * bitN r.side + 16 * bitN r.inStep) ++ le 1 (devCode r.state) ++ zeros 2
    ++ le 4 r.health ++ le 8 r.ownedSince ++ le 8 r.epoch ++ le 8 r.lastShadow ++ le 8 r.gapFrom ++ zeros 16

/-- A partner's report as it arrives. -/
def reportOf (r : ReportIn) : ParReport :=
  { eui := r.eui, role := r.role, owner := r.owner, side := r.side, inStep := r.inStep, state := r.state, health := r.health
    ownedSince := r.ownedSince, epoch := r.epoch, lastShadow := r.lastShadow, gapFrom := r.gapFrom }

namespace State

/-- Changes PAR. -/
def setPar (f : Par → Par) (s : State) : State := { s with par := f s.par }

/-! #### Health (R506, R513) -/

/-- Pair lanes up. -/
def pairLanes (s : State) : Nat := bitN (bitAt s.par.lanes 0) + bitN (bitAt s.par.lanes 1)

/-- DIGEST_LIMIT in force. -/
def digestLimit (s : State) : Nat := max 1 (s.regField Reg.PAR_DIGEST_CFG 11 8)

/-- Does a port with RX_EN lack clock or framing? -/
def rfPortLost (s : State) : Bool :=
  [0, 1].any (fun p => bitAt (s.regI Reg.RFX_PORT_CTRL p) 0 && (!(s.rfPort p).clk || !(s.rfPort p).framed))

/-- The health word (R506). -/
def parHealth (s : State) : Nat :=
  bitN (s.laneMode != 0) + 2 * bitN s.arcHealth + 4 * bitN (!s.timeValid) + 8 * bitN s.wornMram + 16 * bitN s.dev.tamperHold
    + 32 * bitN (s.par.testFail != 0) + 64 * bitN (decide (s.digestLimit ≤ s.par.mismatched)) + 128 * bitN s.rfPortLost
    + 256 * bitN (s.rxChains == 0) + 512 * bitN s.hostAbsent + 1024 * bitN (s.dev.state != .day)
    + 2048 * bitN (s.arc.phase == .noSet || s.arc.phase == .failed) + 4096 * bitN s.par.fault + 8192 * bitN (!s.par.inStep)
    + 16384 * bitN (s.pairLanes == 1)

/-- UNFIT (R506). -/
def parUnfit (s : State) : Bool := (s.parHealth &&& s.reg Reg.PAR_FATAL_MASK) != 0

/-- The part's own report. -/
def ownReport (s : State) : ParReport :=
  { eui := s.dev.eui, role := s.dev.role, owner := s.par.owned, side := s.par.side, inStep := s.par.inStep, state := s.dev.state
    health := s.parHealth, ownedSince := if s.par.owned then s.par.ownedSince else 0, epoch := s.par.epoch
    lastShadow := s.par.lastShadow, gapFrom := s.par.gapFrom }

/-- A PAR notice (R513). -/
def parNotice (reason : Nat) (announced : Bool) (streams time : Nat) (s : State) : State :=
  s.event 0 (le 1 reason ++ le 1 (roleCode s.dev.role + 4 * bitN announced + 8 * streams) ++ zeros 2 ++ le 4 s.parHealth ++ le 8 time)

/-- A change of UNFIT is noticed. -/
def fitLook (s : State) : State :=
  let u := s.parUnfit
  if u = s.par.unfit then s else (s.setPar (fun p => { p with unfit := u })).parNotice (if u then 8 else 9) false 0 0

/-- IN_STEP follows its conditions (R504), with a notice when it rises. -/
def stepLook (s : State) : State :=
  let now := s.par.noGap && !s.par.ledgerDue && decide (s.digestLimit ≤ s.par.matched)
  let was := s.par.inStep
  let s := s.setPar (fun p => { p with inStep := now })
  if now && !was then s.parNotice 12 false 0 0 else s

/-- Is the partner, by its report, fit and in step? -/
def partnerReady (s : State) : Bool :=
  s.par.present && s.par.partner.inStep && (s.par.partner.health &&& s.reg Reg.PAR_FATAL_MASK) == 0

/-! #### Roles, claims and releases (R486 to R491, R501, R502, R508, R620) -/

/-- Takes a role. -/
def setRole (r : Role) (s : State) : State := { s with dev := { s.dev with role := r } }

/-- STANDBY begins: the shadow stream starts without a gap (R495, R504). -/
def enterStandby (s : State) : State :=
  (((s.setRole .standby).setPar (fun p => { p with noGap := true, shadowNext := none })).stepLook)

/-- The local hold buffer goes to FSE, oldest first, with the original stamps (R502). -/
def replayHold (s : State) : State :=
  let l := s.par.hold
  let s := (s.setPar (fun p => { p with hold := [] })).bumpBy Reg.PAR_REPLAYED_FRAMES l.length
  l.foldl (fun s e => s.enterIntake { e.2 with shadow := true }) s

/-- PUB_FROM: OWNED_SINCE less OVERLAP_MS (R494). -/
def pubFrom (s : State) : Nat :=
  let ns := s.nowNs - 2000000 * min 125 (s.regField Reg.PAR_LOCAL_HOLD 23 16)
  ns / 1000000000 * 2 ^ 30 + ns % 1000000000

/-- Ownership is gained (R489, R494, R501, R502, R508). -/
def gainOwnership (solo : Bool) (s : State) : State :=
  let ann := s.par.announced
  let s := (s.setRole (if solo then .solo else .active)).setPar (fun p =>
    { p with owned := true, permit := true, gained := true, fresh := [], ownedSince := s.stamp, pubFrom := s.pubFrom, holdoff := !ann })
  let s := ((s.bump Reg.PAR_CLAIMS).noonBeat).parNotice 1 ann 0 s.par.pubFrom
  s.replayHold

/-- Is a claim shut out by a pair fault (R489, R492)? -/
def claimBarred (s : State) : Bool :=
  s.par.sideConflict || (s.dev.state == .twilight && s.reg Reg.GLB_STATE_CAUSE % 256 == 0x0F)

/-- OWN_IN is seen at a level; a rise ends what a RELEASE message announced (R501). -/
def seeOwnIn (high : Bool) (s : State) : State :=
  s.setPar (fun p => { p with ownIn := high, announced := p.announced && !(high && !p.ownIn), handover := p.handover && !(high && !p.ownIn) })

/-- A claim runs (R489, R490): the status of its outcome, OK where ownership is gained. -/
def claim (solo : Bool) (i : ClaimIn) (s : State) : State × Nat :=
  let s := s.seeOwnIn i.ownIn
  if s.claimBarred then (s, St.stateConflict)
  else if i.ownIn then (s, 0x0711)
  else
    let s := (s.setPar (fun p => { p with ownOut := true })).emit (.pin 4 true)
    if (i.race && s.par.side) || i.high then
      let s := ((s.setPar (fun p => { p with ownOut := false })).emit (.pin 4 false)).bump Reg.PAR_CLAIM_LOST
      (s.parNotice 5 false 0 0, 0x0710)
    else (s.gainOwnership solo, St.ok)

/-- A claim that a command asks for ends with its status (R512). -/
def endClaim (c : Option CmdRef) (e : State × Nat) : State :=
  match c with
  | none => e.1
  | some c => if e.2 = St.ok then e.1.replyWith c St.ok (e.1.par.ownedSince % 2 ^ 32) 0 else e.1.reply c e.2

/-- A claim is asked for: it runs, or waits for the release under way (R620). -/
def askClaim (c : Option CmdRef) (solo : Bool) (i : ClaimIn) (s : State) : State :=
  if s.par.release.isSome then s.setPar (fun p => { p with claims := p.claims ++ [{ cmd := c, solo := solo }] })
  else endClaim c (s.claim solo i)

/-- An automatic claim (R492, R501): only a part that is fit, in step and without an interlock fault makes one. -/
def autoClaim (i : ClaimIn) (s : State) : State :=
  if s.parUnfit || !s.par.inStep || s.par.fault || s.par.owned then s
  else (s.bump Reg.PAR_TAKEOVERS).askClaim none false i

/-- A release begins (R491): it drains, or goes at once to its first steps. Campaigns pause (R399). -/
def beginRelease (c : Option CmdRef) (handover drain : Bool) (s : State) : State :=
  let busy := s.plc.onAir.isSome || !s.rfx.tx.isEmpty
  let s := (s.setPar (fun p => { p with release := some { cmd := c, handover := handover, draining := drain && busy } })).bump Reg.PAR_RELEASES
  let s := s.campPauseAll.fwPauseAll
  if drain && busy then s.setPar (fun p => { p with permit := false }) else s.releaseOne

/-- Steps 4 and 5 of a release (R491): the RELEASE message, OWN_OUT low, STANDBY; then the claims that waited (R620). -/
def endRelease (i : ClaimIn) (s : State) : State :=
  match s.par.release with
  | none => s
  | some r =>
    if r.draining then s
    else
      let s := s.emit (.pair 1 (le 1 (bitN r.handover)))
      let s := (s.setPar (fun p => { p with ownOut := false, release := none })).emit (.pin 4 false)
      let s := (s.enterStandby.noonBeat).parNotice 2 false 0 0
      let s := match r.cmd with | some c => s.reply c St.ok | none => s
      match s.par.claims with
      | [] => s
      | l =>
        let s := s.setPar (fun p => { p with claims := [] })
        let e := s.claim (l.any (·.solo)) i
        l.foldl (fun s k => endClaim k.cmd (s, e.2)) e.1

/-- An ACTIVE part that is UNFIT or has entered TWILIGHT hands over where AUTO_HANDOVER says so (R502, R509). -/
def handoverLook (s : State) : State :=
  if s.dev.role == .active && s.par.owned && s.par.release.isNone && s.regBit Reg.PAR_CTRL 2 && s.partnerReady
      && (s.parUnfit || s.dev.state == .twilight) then s.beginRelease none true false
  else s

/-! #### Pair faults (R492) -/

/-- A fault forces TWILIGHT, with HOLD_CAUSES [3] while it lasts. -/
def pairFault (s : State) : State := (s.holdCause 3 true).forceTwilight 0x0F

/-- HOLD_CAUSES [3] clears when no pair fault lasts. -/
def faultLook (s : State) : State :=
  if s.par.sideConflict || s.par.fault || s.par.doubled then s else s.holdCause 3 false

/-- Both heartbeats report the same side: both parts release (R492). -/
def sideLook (s : State) : State :=
  let now := s.par.partner.side == s.par.side
  let was := s.par.sideConflict
  let s := s.setPar (fun p => { p with sideConflict := now })
  if now && !was then
    let s := s.parNotice 10 false 0 0
    let s := if s.par.owned && s.par.release.isNone then s.beginRelease none false false else s
    s.pairFault
  else s

/-- The partner reports ownership while this part holds it (R492). -/
def doubleLook (s : State) : State :=
  let now := s.par.partner.owner && s.par.owned
  let was := s.par.doubled
  let s := s.setPar (fun p => { p with doubled := now })
  if now && !was then
    let s := ((s.bump Reg.PAR_INTERLOCK_FAULTS).log 6 0x12 7 0 0).parNotice 7 false 0 0
    if s.par.side then ((if s.par.release.isNone then s.beginRelease none false false else s).pairFault) else s.holdCause 3 true
  else s

/-- The partner's report and OWN_IN disagree in two heartbeats in a row (R492). -/
def plausibleLook (s : State) : State :=
  let odd := s.par.partner.owner != s.par.ownIn
  let n := if odd then s.par.odd + 1 else 0
  let s := s.setPar (fun p => { p with odd := n, fault := decide (2 ≤ n) })
  if n = 2 then (((s.bump Reg.PAR_INTERLOCK_FAULTS).log 6 0x12 8 0 0).parNotice 7 false 0 0).pairFault else s

/-! #### The partner's presence (R486, R498, R500, R501) -/

/-- The partner is lost (R500, R501): STANDBY becomes ORPHAN, and an ORPHAN with OWN_IN low may claim. -/
def partnerLost (i : ClaimIn) (s : State) : State :=
  if !s.par.present then s
  else
    let s := (s.setPar (fun p => { p with present := false })).bump Reg.PAR_HB_MISSED
    let s := if s.dev.role = .standby then (s.setRole .orphan).noonBeat else s
    let s := s.parNotice 3 false 0 0
    if s.dev.role = .orphan ∧ s.regBit Reg.PAR_CTRL 1 = true ∧ s.par.ownIn = false then s.autoClaim i else s

/-- The partner is there again (R486, R500). -/
def partnerBack (s : State) : State :=
  if s.par.present then s
  else
    let s := s.setPar (fun p => { p with present := true })
    let s := if s.dev.role = .orphan then s.enterStandby.noonBeat else s
    s.parNotice 4 false 0 0

/-- The owner's island sends its whole ledger to a partner that becomes STANDBY while LEDGER_STALE is set (R498). -/
def sendLedger (s : State) : State :=
  if s.bil.stale && s.par.owned then
    (s.drawn.setBil (fun b => { b with stale := false, unacked := [] })).emit
      (.pair 10 (s.bil.ledger.flatMap (fun e => le 4 e.1 ++ e.2.bytes) ++ s.pairTag))
  else s

/-! #### Digests (R504) -/

/-- The three digests of an epoch. -/
def epochDigests (s : State) (e : Nat) : List Bytes := (List.range 3).map (fun k => sha384 (s.par.items.getD (e * 4 + k) []))

/-- The streams in which two lists of digests differ, bit per stream. -/
def streamsOff (a b : List Bytes) : Nat := (List.range 3).foldl (fun m k => m + bitN (a.getD k [] != b.getD k []) * 2 ^ k) 0

/-- Keeps the last 16 epochs. -/
def keepEpochs {α : Type} (t : Tab α) : Tab α := t.drop (t.length - 16)

/-- PAR.STATUS, the register (R514). -/
def parStatus (s : State) : Nat :=
  let p := s.par
  roleCode s.dev.role + bitN p.owned * 2 ^ 2 + bitN p.permit * 2 ^ 3 + bitN p.ownOut * 2 ^ 4 + bitN p.ownIn * 2 ^ 5 + bitN p.side * 2 ^ 6
    + bitN p.present * 2 ^ 7 + s.pairLanes * 2 ^ 8 + bitN p.holdoff * 2 ^ 11 + bitN s.parUnfit * 2 ^ 12 + bitN p.inStep * 2 ^ 13
    + bitN s.bil.stale * 2 ^ 14 + bitN p.sideConflict * 2 ^ 15

end State
end Sys2Proof.Machine
end

