-- ==== Sys2Proof/Machine/Queues.lean ====
section
/-! DEFINITION. Queues, descriptors, admission, dispatch and completions (R46 to R66, R70 to R77). -/
set_option Elab.async false
namespace Sys2Proof.Machine
namespace State

/-- Replaces a queue. -/
def setQueue (q : Nat) (x : Queue) (s : State) : State := { s with cmd := { s.cmd with queues := s.cmd.queues.put q x } }

/-- The queue a doorbell names, or none where it is discarded (R50, R89, R95): BAR2 serves the instance queues only
while SR-IOV is disabled, a virtual function its own sixteen. -/
def doorbellQueue (s : State) (d : Doorbell) : Option Nat :=
  if !d.formOk then none
  else if d.fn = 0 then
    if d.slot = 256 then some 256
    else if d.slot < 256 && !s.hbr.vfEnable then some d.slot
    else none
  else if s.vfExists d.fn && decide (d.slot < 16) then some ((d.fn - 1) * 16 + d.slot)
  else none

/-- A doorbell keeps the value last written to it (R95). -/
def keepDoorbell (k v : Nat) (s : State) : State := { s with hbr := { s.hbr with doorbells := s.hbr.doorbells.put k v } }

/-- A queue fault (R52): the error state keeps the first code, and every fault is logged with the queue number. -/
def queueError (q code : Nat) (s : State) : State :=
  let x := s.queue q
  let s := if x.error then s else s.setQueue q { x with error := true, errCode := code }
  s.log 0 2 1 q code

/-- A doorbell discarded (R50 to R52, R95). -/
def doorbellDrop (s : State) : State := s.bump Reg.CMD_DOORBELL_DROP

/-- A new SQ tail (R51, R52). -/
def sqTail (q v : Nat) (s : State) : State :=
  let x := s.queue q
  if !x.enabled || x.error then s.doorbellDrop
  else if v = x.sqTail then s
  else if s.sqDepth q ≤ v then s.queueError q 0x01
  else s.setQueue q { x with sqTail := v }

/-- Entries a new CQ head consumes, counting forward from the old head (R52). -/
def headMoves (s : State) (q v : Nat) : Nat :=
  let d := s.cqDepth q
  (v + d - (s.queue q).cqHead) % d

/-- A new CQ head (R51, R52, R55). -/
def cqHead (q v : Nat) (s : State) : State :=
  let x := s.queue q
  if !x.enabled then s.doorbellDrop
  else if v = x.cqHead then s
  else if s.cqDepth q ≤ v then (if x.error then s.doorbellDrop else s.queueError q 0x02)
  else if x.cqUsed < s.headMoves q v then (if x.error then s.doorbellDrop else s.queueError q 0x03)
  else s.setQueue q { x with cqHead := v, cqUsed := x.cqUsed - s.headMoves q v }

/-- Does QSIZE break a limit of R47? -/
def sizeBad (s : State) (q : Nat) : Bool :=
  let w := s.regI Reg.CMD_QSIZE q
  let n := field w 3 0
  let m := field w 7 4 + 1
  decide (n < 1) || decide (12 < n) || decide (13 < m) || decide (m < n)

/-- Is a ring base not aligned to 4 KiB (R52)? -/
def baseBad (s : State) (q : Nat) : Bool :=
  decide (s.regI Reg.CMD_SQ_BASE_LO q % 4096 ≠ 0) || decide (s.regI Reg.CMD_CQ_BASE_LO q % 4096 ≠ 0)

/-- The instance a queue belongs to (R46); the manager queue belongs to none. -/
def queueInst (q : Nat) : Option Nat := if q < 256 then some (q / 16) else none

/-- Enables a queue (R47): pointers to 0 and write phase 1. -/
def enableQueue (q : Nat) (s : State) : State :=
  s.setQueue q { s.queue q with
    enabled := true, error := false, errCode := 0, sqHead := 0, sqTail := 0, cqHead := 0, cqTail := 0
    cqUsed := 0, phase := true, reserved := 2 * (s.queueCmds q).length, unann := 0 }

/-- Sets QCTRL's coalescing fields and the ENABLE bit the queue ends with (R82). DESIGN CHOICE (log entry 94): bits [7:1], which the map
does not name, read 0. -/
def setQctrl (q v : Nat) (en : Bool) (s : State) : State := s.setRegI Reg.CMD_QCTRL q (putBit (v / 256 * 256) 0 en)

/-- A write that sets QCTRL.ENABLE (R47, R52, R527); on an enabled queue it changes nothing, since only ENABLE may then be written (R82). -/
def queueEnable (q v : Nat) (s : State) : State :=
  if (s.queue q).enabled then s
  else
    let s := s.setQueue q { s.queue q with error := false, errCode := 0 }
    match queueInst q with
    | some i =>
      if (s.inst i).state ≠ .ready then (s.bumpI Reg.VIN_ENABLE_REFUSED i).setQctrl q v false
      else if s.baseBad q then (s.queueError q 0x04).setQctrl q v false
      else if s.sizeBad q then (s.queueError q 0x07).setQctrl q v false
      else (s.enableQueue q).setQctrl q v true
    | none =>
      if s.baseBad q then (s.queueError q 0x04).setQctrl q v false
      else if s.sizeBad q then (s.queueError q 0x07).setQctrl q v false
      else (s.enableQueue q).setQctrl q v true

/-! #### Fetch (R53, R55, R56, R77) -/

/-- Descriptors of a queue fetched and not dispatched, those on the link included (R53). -/
def aheadOf (s : State) (q : Nat) : Nat :=
  (s.cmd.fetching.filter (· == q)).length + (s.cmd.input.filter (fun e => e.1 == q)).length
    + (s.cmd.cmds.filter (fun c => c.queue == q && c.stage == .admitted)).length

/-- Does the device state let CMD fetch at all (R70, R72, R550)? -/
def fetchState (s : State) : Bool :=
  (s.dev.state == .day || s.dev.state == .twilight || (s.dev.state == .dawn && decide (2 ≤ s.dev.stage))) && !s.cmd.closed

/-- May a descriptor of this queue be fetched now (R52, R53, R55, R97, R103)? -/
def fetchable (s : State) (q : Nat) : Bool :=
  let x := s.queue q
  x.enabled && !x.error && x.sqHead != x.sqTail && s.cqRoom q && decide (s.aheadOf q < 8) && s.fetchState
    && s.canMaster (s.queueFn q) && s.readOpen

/-- The next number after `last`, in rotation below `n`, that satisfies `p` (R56). -/
def rotate (n last : Nat) (p : Nat → Bool) : Option Nat :=
  ((List.range n).map (fun k => (last + 1 + k) % n)).find? p

/-- The queue CMD fetches from next (R56): the manager queue first, else the next instance and its next queue. -/
def nextFetch (s : State) : Option Nat :=
  if s.fetchable 256 then some 256
  else match rotate 16 s.cmd.lastInst (fun i => (List.range 16).any (fun k => s.fetchable (i * 16 + k))) with
    | none => none
    | some i =>
      (rotate 16 (s.cmd.lastQueue.getD i 15) (fun k => s.fetchable (i * 16 + k))).map (fun k => i * 16 + k)

/-- Issues the descriptor fetch of a queue: head advanced, two CQ entries reserved (R55, R77). -/
def fetch (q : Nat) (s : State) : State :=
  let x := s.queue q
  let addr := s.regI Reg.CMD_SQ_BASE_LO q + s.regI Reg.CMD_SQ_BASE_HI q * 2 ^ 32 + 64 * x.sqHead
  let s := s.setQueue q { x with sqHead := (x.sqHead + 1) % s.sqDepth q, reserved := x.reserved + 2 }
  let s : State := { s with cmd := { s.cmd with
      fetching := s.cmd.fetching ++ [q]
      lastInst := if q < 256 then q / 16 else s.cmd.lastInst
      lastQueue := if q < 256 then s.cmd.lastQueue.put (q / 16) (q % 16) else s.cmd.lastQueue } }
  s.askRead (.descriptor q) [(addr, 64)]

/-! #### Decoding and admission (R57, R58, R61, R65, R70 to R72, R616) -/

end State

/-- A decoded descriptor header with its parameter bytes (R57). -/
structure Desc where
  opcode : Nat
  inst : Nat
  reserved : Bool
  order : Bool
  irq : Bool
  dlist : Bool
  ddir : Bool
  tag : Nat
  plen : Nat
  dptr : Nat
  params : Bytes
  deriving DecidableEq, Repr

/-- Decodes the 64 bytes of a descriptor (R57, R58: parameter bytes beyond PLEN are ignored). -/
def decodeDesc (b : Bytes) : Desc :=
  let f := byteAt b 3
  let l := byteAt b 6
  { opcode := leAt b 0 2
    inst := byteAt b 2 % 16
    reserved := decide (byteAt b 2 / 16 ≠ 0) || decide (f / 16 ≠ 0) || decide (l / 64 ≠ 0) || decide (byteAt b 7 ≠ 0)
    order := bitAt f 0
    irq := bitAt f 1
    dlist := bitAt f 2
    ddir := bitAt f 3
    tag := leAt b 4 2
    plen := l % 64
    dptr := leAt b 8 8
    params := (slice b 16 48).take (l % 64) }

/-- DPTR obeys R58 and R616 for a command that moves data; three opcodes move theirs where DPTR is not 0. -/
def dptrOk (d : Desc) : Bool :=
  let aligned := decide (d.dptr % (if d.dlist then 8 else 4) = 0)
  if needsData d.opcode d.params then d.dptr != 0 && aligned
  else !(d.opcode == 0x0401 || d.opcode == 0x0507 || d.opcode == 0x0A01) || aligned

namespace State

/-- Is the opcode one that acts for an instance (R58, R80)? -/
def bound (i : OpInfo) : Bool := !i.manager

/-- Check 3 of R65: the INSTANCE field and the issuer (R58, R80). -/
def issuerOk (q : Nat) (i : OpInfo) (d : Desc) : Bool :=
  if q < 256 then bound i && d.inst == q / 16
  else bound i || d.opcode / 256 == 1 || d.inst == 0

/-- Check 2 of R65 for the frame a send states by its LEN (R157, R160, R205, R209, R616): a medium carries no longer one. -/
def frameFits (s : State) (d : Desc) : Bool :=
  let p := d.params
  let b := byteAt p
  let ep := leAt p 0 3 % 2 ^ 21
  match d.opcode with
  | 0x0303 => decide (plcLen (s.routeRelays ep (b 4 % 8)) (bitAt (b 3) 1) (leAt p 8 2) (b 10 % 4) ≤ 2048)
  | 0x0305 => decide (plcLen 0 (bitAt (b 13) 0) (4 + leAt p 14 2) (b 13 / 2 % 4) ≤ 2048)
  | 0x0403 => decide (mshLen (downRelays (s.ctx ep)) (bitAt (b 3) 1) (leAt p 8 2) (b 7 % 4) ≤ 2047)
  | 0x0404 => decide (mshLen 0 true (leAt p 14 2 + 4) (b 12 % 4) ≤ 2047)
  | _ => true

/-- Check 4 of R65: the status for an instance that is not READY (R524), for an opcode bound to an instance. -/
def instCheck (s : State) (i : OpInfo) (d : Desc) : Option Nat :=
  if bound i && (s.inst d.inst).state != .ready then
    some (if (s.inst d.inst).disabled then St.functionDisabled else St.instanceFenced)
  else none

/-- Does the device state admit the opcode's class (R70, R72), and simplex its S and V classes (R74, R75)? -/
def classOk (s : State) (i : OpInfo) : Bool :=
  (s.laneMode != 2 || i.cls == .s || i.cls == .v) &&
  match s.dev.state with
  | .dawn => (i.cls == .s && decide (i.dawnStage ≤ s.dev.stage)) || i.cls == .v
  | .day => true
  | .twilight => i.cls != .n
  | _ => false

/-- Check 6: do the group's own conditions on life-cycle state, instance state and its unit's state bar a command (R65, R70)? Each unit's
row makes them again when it runs; a condition that hangs on the data is made there alone. -/
def groupBars (s : State) (q : Nat) (d : Desc) : Bool :=
  let st := (s.inst d.inst).state
  let keys := s.dev.life == 1 || s.dev.life == 2 || s.dev.life == 3
  let mine := q == 256 || byteAt d.params 5 % 16 == d.inst
  let up := s.arc.phase == .up
  let op := byteAt d.params 0
  let plain := s.dev.life != 3 && s.regBit Reg.KVT_CTRL 0
  match d.opcode with
  | 0x0004 => s.dev.state != .day && s.dev.state != .twilight
  | 0x0008 => !s.dev.tamperHold || s.classActive 0
  | 0x0101 => st != .absent
  | 0x0102 | 0x0103 | 0x0104 => st == .absent
  | 0x0106 => st == .absent || st == .fencing || s.instHolds d.inst != 0
  | 0x0501 => mine && (!keys || s.dev.tamperHold || (byteAt d.params 8 % 8 == 2 && !plain))
  | 0x0502 => mine && (!keys || s.dev.tamperHold || (byteAt d.params 8 % 8 == 1 && !plain))
  | 0x0504 => mine && (!keys || s.dev.tamperHold)
  | 0x0503 => mine && !keys
  | 0x0505 => s.dev.life == 0 && s.kvt.seed.isNone
  | 0x0506 => s.dev.tamperHold || !advanceOk s.dev.life (op % 8)
  | 0x0601 | 0x0602 | 0x0603 | 0x0604 | 0x0608 => !up
  | 0x0605 =>
    if byteAt d.params 2 % 4 = 2 then s.arc.phase != .noSet && s.arc.phase != .failed
    else if byteAt d.params 2 % 4 = 1 then s.arc.phase != .failed
    else !up
  | 0x0606 => byteAt d.params 1 % 2 == 0 && (!up || (s.arc.drives.get? (op % 64)).any (fun x => x.stage == 5 || x.stage == 6))
  | 0x0701 => decide (2 ≤ s.los.trees.length)
  | 0x0801 => s.metBlocked || (op % 4 == 2 && s.met.sealState != 1)
  | 0x0803 => s.dev.tamperHold || !keys
  | 0x0805 => s.metBlocked
  | 0x0902 => bitAt (byteAt d.params 3) 0 && !s.rootsOpen
  | 0x0904 => s.bil.campaigns.has (op % 4)
  | 0x0905 =>
    (op % 4 == 1 && !s.rootsOpen) || (op % 4 == 3 && s.shortBarred (leAt d.params 1 3 % 2 ^ 21))
  | 0x0B02 => s.dev.life == 4 || s.boot.pendValid
  | 0x0B03 => if op % 4 = 3 then s.upd.activation.isNone else s.activateBarred || s.upd.activation.isSome
  | 0x0B04 => !s.windowGone.any (fun t => decide (t < 600000000000))
  | 0x0B05 => s.boot.pendValid || !s.bootable s.inactive true
  | 0x0B06 => op / 2 % 4 == 1 && (s.upd.campaigns.has (op % 2) || !s.upd.images.has (op % 2))
  | 0x0C02 =>
    if op % 4 = 0 then s.par.owned && s.par.release.isSome
    else if op % 4 = 1 then !s.par.owned && s.claimBarred
    else s.dev.role != .standby || !s.par.present
  | 0x0C03 => !s.par.owned && s.claimBarred
  | 0x0C04 => s.par.owned && s.par.release.isSome
  | _ => false

/-- RESULT0 of a command that check 6 ends: what an instance still holds, for VIN.DESTROY (R534). -/
def groupResult (s : State) (d : Desc) : Nat :=
  let st := (s.inst d.inst).state
  if d.opcode = 0x0106 ∧ st ≠ .absent ∧ st ≠ .fencing then s.instHolds d.inst else 0

/-- Check 6 for GLB.STATE.SET: from TWILIGHT to DAY with a hold cause set (R69, R78). -/
def dayHeld (s : State) (d : Desc) : Bool :=
  d.opcode == 0x0003 && byteAt d.params 0 == 1 && s.dev.state == .twilight && s.reg Reg.GLB_HOLD_CAUSES != 0

/-- Checks 1 to 7 of R65 in their order, and the QUEUED limits of R62 and R526: the status of the first that fails, with
RESULT0. -/
def admission (s : State) (q : Nat) (d : Desc) : Option (Nat × Nat) :=
  match opInfo d.opcode with
  | none => some (St.badOpcode, 0)
  | some i =>
    if d.reserved || d.plen != i.plen || !lengthsOk d.opcode d.dlist d.params || !s.frameFits d then some (St.badLength, 0)
    else if !issuerOk q i d then some (St.notAuthorized, 0)
    else match s.instCheck i d with
      | some e => some (e, 0)
      | none =>
        if !dptrOk d || !paramsOk d.opcode d.params then some (St.badParam, 0)
        else if !s.classOk i then some (St.stateConflict, 0)
        else if s.groupBars q d then some (St.stateConflict, s.groupResult d)
        else if s.dayHeld d then some (St.stateConflict, s.reg Reg.GLB_HOLD_CAUSES)
        else if i.own && !s.par.owned then some (St.notOwner, 0)
        else if i.mayQueue && (decide (1024 ≤ s.queuedClaims)
            || (bound i && decide ((s.inst d.inst).quota.queuedMax ≤ s.queuedUse d.inst))) then some (St.queueFull, 0)
        else none

/-- The command a decoded descriptor becomes, with the state word of the admission decision (R60, R61). -/
def newCmd (s : State) (q : Nat) (d : Desc) : Cmd :=
  { queue := q, tag := d.tag, opcode := d.opcode, inst := d.inst, order := d.order, irq := d.irq, dlist := d.dlist, dptr := d.dptr
    echo := s.stateWord (if echoBound d.opcode then some d.inst else none), dlen := dataIn d.opcode (s.dev.life == 0) d.dptr d.params }

/-- Ends every command of a queue fetched and not dispatched, decoded or still waiting at CMD's input, with a status (R49, R52); a
descriptor still on the link was never fetched (R73). -/
def endUndispatched (q status : Nat) (s : State) : State :=
  let ends := s.cmd.cmds.filter (fun c => c.queue == q && c.stage == .admitted)
  let waits := (s.cmd.input.filter (fun e => e.1 == q)).map (fun e => { s.newCmd q (decodeDesc e.2) with stage := .done })
  { s with cmd := { s.cmd with
      cmds := s.cmd.cmds.map (fun c => if c.queue == q && c.stage == .admitted then { c with stage := .done } else c) ++ waits
      input := s.cmd.input.filter (fun e => e.1 != q)
      fetching := s.cmd.fetching.filter (· != q)
      results := s.cmd.results ++ (ends ++ waits).map (fun c => { queue := c.queue, tag := c.tag, status := status }) } }

/-- Disables a queue (R49), its undispatched commands ending with the status given (R529). -/
def disableQueue (q status : Nat) (s : State) : State :=
  let s := s.setQueue q { s.queue q with enabled := false, error := false, errCode := 0 }
  s.endUndispatched q status

/-- Appends a fetched command. -/
def addCmd (c : Cmd) (s : State) : State := { s with cmd := { s.cmd with cmds := s.cmd.cmds ++ [c] } }

/-- Appends a result. -/
def addResult (r : Result) (s : State) : State := { s with cmd := { s.cmd with results := s.cmd.results ++ [r] } }

/-- Admits a decoded descriptor or refuses it with the status of the first check that fails (R65). -/
def admitCmd (q : Nat) (d : Desc) (s : State) : State :=
  match s.admission q d with
  | none => s.addCmd (s.newCmd q d)
  | some (st, r0) =>
    (s.addCmd { s.newCmd q d with stage := .done }).addResult { queue := q, tag := d.tag, status := st, result0 := r0 }

/-! #### The lanes (R74 to R76) -/

/-- The number of lanes up. -/
def lanesUpCount (s : State) : Nat := bitN (bitAt s.cmd.lanesUp 0) + bitN (bitAt s.cmd.lanesUp 1) + bitN (bitAt s.cmd.lanesUp 2)

/-- A lane fault (R75). -/
def laneFault (s : State) : State := (s.holdCause 2 true).forceTwilight 0x06

/-- A lane leaves the lanes up, for a test or resync that ends at a noon cycle, or for good (R76). -/
def laneAway (l : Nat) (back : Option (Nat × Bool)) (s : State) : State :=
  { s with cmd := { s.cmd with
      lanesUp := putBit s.cmd.lanesUp l false
      resyncs := match back with | some b => s.cmd.resyncs.put l b | none => s.cmd.resyncs.del l } }

/-- Takes a lane down; the drop to simplex is a lane fault, but for lanes that are down for a resync (R75, R76). -/
def laneDown (l : Nat) (s : State) : State :=
  let s := s.laneAway l none
  if s.lanesUpCount + s.cmd.resyncs.length < 2 then s.laneFault else s

/-- A miscompare counted against a lane (R74, R76): it is in resync for 1 200 nc, taken down where AUTO_RESYNC is 0, and retired at
RETIRE_LIMIT miscompares within 10^9 nc. -/
def laneMiscompare (l : Nat) (s : State) : State :=
  let s := s.bump (Reg.CMD_LANE_MISCOMPARE0 + 4 * l)
  let recent := s.dev.nc :: (s.cmd.misTimes.getD l []).filter (fun t => decide (s.dev.nc - t < 1000000000))
  let s : State := { s with cmd := { s.cmd with misTimes := s.cmd.misTimes.put l recent } }
  let limit := max 1 (s.regField Reg.CMD_LANE_CTRL 7 4)
  if !s.regBit Reg.CMD_LANE_CTRL 0 then s.laneDown l
  else if s.regBit Reg.CMD_LANE_CTRL 1 && decide (limit ≤ recent.length) then s.laneDown l
  else s.laneAway l (some (s.dev.nc + 1200, true))

/-- Descriptors that waited for a lane are decoded once one is up (R76); those of an errored queue wait on (R52). -/
def drainInput (s : State) : State :=
  if s.cmd.lanesUp = 0 then s
  else
    let goes := fun (e : Nat × Bytes) => !(s.queue e.1).error
    let w := s.cmd.input.filter goes
    w.foldl (fun s e => s.admitCmd e.1 (decodeDesc e.2)) { s with cmd := { s.cmd with input := s.cmd.input.filter (fun e => !goes e) } }

/-- A GLB.LANE.RESYNC ends (R75, R76): OK with two or more lanes up ends the lane-fault hold; a named lane that failed returns
CHECK_FAILED, and too few lanes are a lane fault, lanes down for a resync excepted. -/
def laneJobEnd (c : CmdRef) (failed : Bool) (s : State) : State :=
  let s := if failed then (if s.lanesUpCount + s.cmd.resyncs.length < 2 then s.laneFault else s)
    else if 2 ≤ s.lanesUpCount then s.holdCause 2 false else s
  s.replyWith c (if failed then St.checkFailed else St.ok) s.cmd.lanesUp 0

/-- Lanes whose resync has ended come up, GLB.LANE.RESYNC commands whose time has come end, and waiting descriptors are decoded (R76). -/
def laneLook (s : State) : State :=
  let past := s.cmd.resyncs.filter (fun e => decide (e.2.1 ≤ s.dev.nc))
  let s : State := { s with cmd := { s.cmd with
    lanesUp := past.foldl (fun m e => if e.2.2 then putBit m e.1 true else m) s.cmd.lanesUp
    resyncs := s.cmd.resyncs.filter (fun e => decide (s.dev.nc < e.2.1)) } }
  let ends := s.cmd.laneJobs.filter (fun j => decide (j.2.1 ≤ s.dev.nc))
  let s : State := { s with cmd := { s.cmd with laneJobs := s.cmd.laneJobs.filter (fun j => decide (s.dev.nc < j.2.1)) } }
  (ends.foldl (fun s j => s.laneJobEnd j.1 j.2.2) s).drainInput

/-- What a tick does for the lanes (R76). -/
def laneTick (s : State) : State := if s.cmd.resyncs.isEmpty && s.cmd.laneJobs.isEmpty then s else s.laneLook

/-- A voted descriptor (R74): the majority word is dispatched; a split vote is decoded again, and if the lanes still differ
the command completes with INTERNAL_FAULT and a lane fault follows. DESIGN CHOICE (log entry 123): where the decode that follows a split
leaves one lane in the minority, the majority word is dispatched and no miscompare is counted. -/
def voted (q : Nat) (d : Desc) (v : Vote) (s : State) : State :=
  let fails := (s.addCmd { s.newCmd q d with stage := .done }).addResult { queue := q, tag := d.tag, status := St.internalFault }
  match v with
  | .agree => s.admitCmd q d
  | .minority l =>
    if s.lanesUpCount = 3 && decide (l < 3) then (s.laneMiscompare l).admitCmd q d else s.admitCmd q d
  | .split again => if s.lanesUpCount < 2 || again then s.admitCmd q d else fails.laneFault

/-! #### Completions (R54, R55, R59, R61 to R64, R105) -/

/-- The 32 bytes of a completion (R59). -/
def completionBytes (s : State) (c : Cmd) (r : Result) (final phase : Bool) : Bytes :=
  le 2 c.tag ++ le 2 r.status ++ le 2 c.queue ++ le 2 (s.queue c.queue).sqHead
    ++ le 2 (match r.echo with | some e => e | none => c.echo) ++ le 2 c.opcode ++ le 4 r.result0 ++ le 8 c.dispatchNc
    ++ le 4 s.swStamp ++ le 2 r.result1 ++ le 1 (bitN phase + 2 * bitN final) ++ zeros 1

/-- Sends a queue's message for its unannounced completions (R64, R90). -/
def cqMessage (q : Nat) (s : State) : State :=
  (s.setQueue q { s.queue q with unann := 0 }).sendMsix (s.queueFn q) (field (s.regI Reg.CMD_QSIZE q) 18 8)

/-- Writes a completion at the CQ tail (R54, R55). Both entries a fetch reserved stay so until the final completion, QUEUED or not. -/
def writeCompletion (c : Cmd) (r : Result) (final : Bool) (s : State) : State :=
  let x := s.queue c.queue
  let s := s.emit (.completion c.queue x.cqTail (s.completionBytes c r final x.phase))
  let tail := (x.cqTail + 1) % s.cqDepth c.queue
  let free := if final then 2 else 0
  let s := s.setQueue c.queue
    { x with cqTail := tail, cqUsed := x.cqUsed + 1, phase := if tail = 0 then !x.phase else x.phase,
             reserved := x.reserved - free, unann := x.unann + 1 }
  if c.irq || decide (field (s.regI Reg.CMD_QCTRL c.queue) 15 8 ≤ x.unann + 1) then s.cqMessage c.queue else s

/-- Can completions of a queue be written to the host now (R105)? -/
def completionOpen (s : State) (q : Nat) : Bool := s.canMaster (s.queueFn q)

/-- Counts a completion by its status (R82). -/
def countStatus (status : Nat) (s : State) : State :=
  if status = St.stateConflict then s.bump Reg.CMD_CONFLICT_COUNT
  else if status = St.internalFault then s.bump Reg.CMD_FAULT_COUNT
  else s

/-- Posts a completion: written to the CQ, or held as a TYPE 0x01 entry for ring 0 where the command's queue was lost with its function or
while the function cannot master (R100, R105). DESIGN CHOICE (log entry 92): completions are held in a stall absence as notices are. -/
def post (c : Cmd) (r : Result) (final linkOk : Bool) (s : State) : State :=
  let s := s.countStatus r.status
  if c.lost || !s.completionOpen c.queue then
    let body := s.completionBytes c r final (s.queue c.queue).phase ++ zeros 8
    let s := s.setQueue c.queue { s.queue c.queue with
      reserved := (s.queue c.queue).reserved - (if final then 2 else 0) }
    let s : State := { s with hbr := { s.hbr with nseq := s.hbr.nseq + 1 } }
    s.holdNotice { typ := 1, fn := 0, inst := c.inst, nseq := s.hbr.nseq - 1, stamp := s.stamp, body := body }
  else if !linkOk then (s.writeCompletion c r final).queueError c.queue 0x06
  else s.writeCompletion c r final

/-- Updates the commands that satisfy `p`. -/
def mapCmds (p : Cmd → Bool) (f : Cmd → Cmd) (s : State) : State :=
  { s with cmd := { s.cmd with cmds := s.cmd.cmds.map (fun c => if p c then f c else c) } }

/-- Removes the first command that satisfies `p`. -/
def dropCmd (q tag : Nat) (s : State) : State :=
  { s with cmd := { s.cmd with cmds := s.cmd.cmds.eraseP (fun c => c.queue == q && c.tag == tag) } }

/-- The number added to the queue of a command that goes on after a power loss (R319): its result is that of no fetched command. -/
abbrev resumedQueue : Nat := 1024

/-- The 32 bytes of an owed completion: P 1, FINAL 1, SQ_HEAD 0 (R59, R73). -/
def owedBytes (s : State) (o : Owed) : Bytes :=
  le 2 o.tag ++ le 2 o.status ++ le 2 o.queue ++ zeros 2 ++ le 2 o.echo ++ le 2 o.opcode ++ le 4 (o.result0 % 2 ^ 32) ++ le 8 o.dispatchNc
    ++ le 4 s.swStamp ++ le 2 (o.result1 % 2 ^ 16) ++ le 1 3 ++ zeros 1

/-- An owed completion is placed as a held TYPE 0x01 entry for the ring of the function that owned its queue (R73). -/
def holdOwed (o : Owed) (s : State) : State :=
  let n : Notice := { typ := 1, fn := o.fn, inst := o.inst, nseq := s.hbr.nseq, stamp := s.stamp, body := s.owedBytes o ++ zeros 8 }
  ({ s with hbr := { s.hbr with nseq := s.hbr.nseq + 1 } } : State).holdNotice n

/-- The final result of a command that goes on after a power loss reaches the host as a held notice (R73, R319). -/
def resumedResult (r : Result) (s : State) : State :=
  let is := fun o : Owed => o.queue + resumedQueue == r.queue && o.tag == r.tag
  match s.cmd.resumed.find? is with
  | none => s
  | some o =>
    if r.queued then s
    else
      let s : State := { s with cmd := { s.cmd with resumed := s.cmd.resumed.filter (fun o => !is o) } }
      s.holdOwed { o with status := r.status, result0 := r.result0, result1 := r.result1 }

/-- Carries the oldest result whose data has been issued to its completion (R59, R62, R77, R101). A result of no fetched command posts
nothing. -/
def takeResult (linkOk : Bool) (s : State) : State :=
  match s.cmd.results.find? (fun r => !s.dataWaits r.queue r.tag) with
  | none => s
  | some r =>
    let s : State := { s with cmd := { s.cmd with results := s.cmd.results.erase r } }
    match s.cmd.cmds.find? (fun c => c.queue == r.queue && c.tag == r.tag) with
    | none => s.resumedResult r
    | some c =>
      if r.queued then
        let s := s.post c r false linkOk
        s.mapCmds (fun x => x.queue == r.queue && x.tag == r.tag) (fun x => { x with queuedPosted := true })
      else (s.post c r true linkOk).dropCmd r.queue r.tag

end State

/-- SQ_TAIL_DOORBELL (R50 to R52, R95). -/
def execSqTailDoorbell (d : Doorbell) (s : State) : R :=
  .next (match s.doorbellQueue d with | none => s.doorbellDrop | some q => (s.keepDoorbell (q * 2) d.value).sqTail q (d.value % 65536))

/-- CQ_HEAD_DOORBELL (R50 to R52, R55, R95). -/
def execCqHeadDoorbell (d : Doorbell) (s : State) : R :=
  .next (match s.doorbellQueue d with | none => s.doorbellDrop | some q => (s.keepDoorbell (q * 2 + 1) d.value).cqHead q (d.value % 65536))

/-- QUEUE_ENABLE (R47, R52, R527): a write of QCTRL with ENABLE 1. -/
def execQueueEnable (queue : Nat) (qctrl : Word) (s : State) : R :=
  .next (if queue ≤ 256 then s.queueEnable queue qctrl.toNat else s.bump Reg.CMD_QSEL_INVALID)

/-- QUEUE_DISABLE (R49, R52, R82): a write of QCTRL with ENABLE 0; on an enabled queue the other fields stay. -/
def execQueueDisable (queue : Nat) (qctrl : Word) (s : State) : R :=
  .next (if queue ≤ 256 then
      (s.disableQueue queue St.stateConflict).setQctrl queue
        (if (s.queue queue).enabled then s.regI Reg.CMD_QCTRL queue else qctrl.toNat) false
    else s.bump Reg.CMD_QSEL_INVALID)

/-- DESCRIPTOR_FETCH (R53, R55, R56, R77). -/
def execDescriptorFetch (s : State) : R :=
  .next (match s.nextFetch with | none => s | some q => s.fetch q)

/-- Is a queue's descriptor the next that HBR delivers (R97): the oldest fetch that stands, all of its bytes come, and these are they? HBR
delivers the data of reads to the part in the order of the requests. -/
def State.descriptorNext (s : State) (queue : Nat) (bytes : Bytes) : Bool :=
  match s.hbr.reads.find? (fun r => match r.what with | .descriptor _ => true | _ => false) with
  | none => false
  | some r => r.what == .descriptor queue && decide (r.want ≤ r.got) && r.data == bytes

/-- DESCRIPTOR_RECEIVED (R57, R58, R61, R65, R70 to R77, R80, R97, R616): the next descriptor whose whole data has returned is decoded,
voted and admitted or refused; it waits while no lane is up (R76), and in an errored queue until its disable (R52). A voted-store error that ECC cannot correct is a lane fault. -/
def execDescriptorReceived (queue : Nat) (bytes : Bytes) (vote : Vote) (storeError : Bool) (s : State) : R :=
  .next (
    if !s.descriptorNext queue bytes then s else
    let s : State := { s with hbr := { s.hbr with reads := s.hbr.reads.eraseP (fun r => r.what == .descriptor queue) } }
    if !s.cmd.fetching.contains queue then s
    else
      let s : State := { s with cmd := { s.cmd with fetching := s.cmd.fetching.erase queue } }
      let s := if storeError then s.laneFault else s
      if s.cmd.lanesUp = 0 ∨ (s.queue queue).error = true then { s with cmd := { s.cmd with input := s.cmd.input ++ [(queue, bytes)] } }
      else s.voted queue (decodeDesc bytes) vote)

/-- COMMAND_DISPATCH (R31, R39, R43, R58, R61, R63, R97): the queue's oldest admitted command goes to its unit with its instance's
epoch, and HBR reads its host data, waiting first for every earlier command of the queue when ORDER is set. Nothing is dispatched in DUSK, NIGHT or
RECOVERY, nor from a queue in its error state (R52). -/
def execCommandDispatch (queue : Nat) (s : State) : R :=
  .next (
    let mine := s.queueCmds queue
    match mine.find? (fun c => c.stage == .admitted) with
    | none => s
    | some c =>
      let first := match mine with | [] => false | h :: _ => h.tag == c.tag && h.stage == .admitted
      if (c.order && !first) || (s.queue queue).error || !s.fetchState then s
      else
        let c' := { c with stage := .dispatched, dispatchNc := s.dev.nc, epoch := (s.inst c.inst).epoch }
        (({ s with cmd := { s.cmd with cmds := s.cmd.cmds.replace c c' } } : State).bump Reg.CMD_DISPATCH_COUNT).startXfer c' c'.dlen none)

/-- COMMAND_RESULT (R54, R55, R59, R61 to R64, R77, R101, R105): `linkOk` is false when the completion write fails on the
link while a host is attached (R52). -/
def execCommandResult (linkOk : Bool) (s : State) : R := .next (if s.cmd.closed then s else s.takeResult linkOk)

/-- CQ_COALESCE_TIMEOUT (R64). -/
def execCqCoalesceTimeout (queue : Nat) (s : State) : R :=
  .next (if (s.queue queue).unann = 0 then s else s.cqMessage queue)

end Sys2Proof.Machine
end

