-- ==== Sys2Proof/Machine/FenceParts.lean ====
section
/-! DEFINITION. Each unit's part of a fence (R530). FSE, ING, KVT, LOS and UPD only mark the instance: they look at its state and its
epoch when a frame, a record, a cached key or an endpoint of it comes up (R229, R265, R337, R419). -/
set_option Elab.async false
namespace Sys2Proof.Machine
namespace State

/-- What an instance has in the engines when its fence begins belongs to the fence, even once it is READY again (R525): frames looked up
(R229), frames in the burst buffer (R265), records in the LOS queue (R337) and blocks not yet durable (R309). -/
def markOld (i : Nat) (s : State) : State :=
  let blk := fun (b : Block) => if b.inst = i then { b with old := true } else b
  let s := s.setFse (fun q => { q with intake := q.intake.map (fun f => if s.frameInst f = some i then { f with old := true } else f) })
  let s := s.setIng (fun g => { g with
    buffer := g.buffer.map (fun f => if f.inst = i then { f with old := true } else f)
    losq := g.losq.map (fun r => if r.inst = i then { r with old := true } else r) })
  let s : State := { s with cod := { s.cod with held := s.cod.held.map blk } }
  s.setArc (fun a => { a with
    map := a.map.mapVals (fun _ e => { e with blocks := e.blocks.map blk }), redo := a.redo.map (fun x => (x.1, blk x.2)), hold := a.hold.map (fun x => (x.1, blk x.2)) })

/-- Does a send go to an endpoint of an instance? Multicasts and floods belong to none. -/
def sendOf (s : State) (i : Nat) (cmd : Option CmdRef) (ep : Option Nat) : Bool :=
  ep.any (fun e => match s.epAt e with | some x => x.inst == i | none => cmd.any (·.inst == i))

/-- Is a send in TIM's launch queue, or at its launch? -/
def inLaunch (s : State) (plc : Bool) (id : Nat) : Bool :=
  (s.tim.queue ++ s.tim.fired).any (fun e => e.ref == id && (e.lane == 0) == plc && decide (e.lane ≤ 8))

/-- Pushes whose TOKEN_RESULT frame is discarded have nothing left to wait for. -/
def dropPushes (cmds : List (Option CmdRef)) (s : State) : State :=
  let tags := (cmds.filterMap id).filterMap (fun c => if c.queue = ownQueue then some c.tag else none)
  s.setBil (fun b => { b with pushes := b.pushes.filter (fun e => !tags.contains e.1) })

/-- PLC's part: queued sends are discarded; a frame already in the launch queue, or on the line, goes out once. -/
def plcPart (i : Nat) (s : State) : State :=
  let mine := fun (x : PlcSend) => s.sendOf i x.cmd x.ep
  let out := fun (x : PlcSend) => x.phase == .onAir || s.inLaunch true x.id
  let gone := s.plc.sends.filter mine
  (s.setPlc (fun p => { p with
    sends := (p.sends.filter (fun x => !mine x || out x)).map (fun x => if mine x then { x with cmd := none, orphan := true } else x)
    })).dropPushes (gone.map (·.cmd))

/-- MSH's part: queued sends and slot deliveries are discarded; a frame already in the launch queue, or on the air, goes out once. -/
def mshPart (i : Nat) (s : State) : State :=
  let mine := fun (x : MshSend) => s.sendOf i x.cmd x.ep
  let out := fun (x : MshSend) => x.phase == .onAir || s.inLaunch false x.id
  let gone := s.msh.sends.filter mine
  let left := (gone.filter (fun x => !out x)).map (·.id)
  (s.setMsh (fun m => { m with
    sends := (m.sends.filter (fun x => !mine x || out x)).map (fun x => if mine x then { x with cmd := none, orphan := true } else x)
    piggy := m.piggy.filter (fun p => !left.contains p.send) })).dropPushes (gone.map (·.cmd))

/-- ARC's part: blocks at its input, held or in flight go on; queries and exports stop (R309). -/
def arcPart (i : Nat) (s : State) : State := s.arcPartDo i

/-- COD's part: the instance's open blocks close and go to ARC (R284). -/
def codPart (i : Nat) (s : State) : State := s.codFence i

/-- The bound endpoints of an instance (R382). -/
def boundOf (s : State) (i : Nat) : List Nat :=
  (s.bil.ledger.filter (fun e => e.2.bound && (s.bilWho e.1).2.2 == i)).map Prod.fst

/-- BIL's part: the instance's endpoints are held, with REPLAY set, until it is READY. -/
def bilPart (i : Nat) (s : State) : State :=
  (s.boundOf i).foldl (fun s e =>
    let s := if (s.ledgerOf e).held then s else s.setBil (fun b => { b with fenced := e :: b.fenced })
    s.setLedger e (fun l => { l with held := true, replay := true })) s

/-- The instance is READY again: the replay of R388 runs for the endpoints its fence held. -/
def bilReady (i : Nat) (s : State) : State :=
  let mine := s.bil.fenced.filter (fun e => (s.bilWho e).2.2 == i)
  let s := s.setBil (fun b => { b with fenced := b.fenced.filter (fun e => !mine.contains e) })
  mine.foldl (fun s e => if s.inForce e then s.goInForce e none else s) s

/-- CMD's part beyond the commands themselves: what units still hold for dispatched commands of the instance has no further effect
(R529). The head of the endpoint queue has begun, and runs to its end; a key operation before its commit record ends. -/
def dropWork (i : Nat) (s : State) : State :=
  (s.setKvt (fun v => { v with ops := v.ops.filter (fun o => o.cmd.inst != i || o.stage != .next) })).setIng (fun g => { g with epq := g.epq.take 1 ++ (g.epq.drop 1).filter (fun j => j.cmd.inst != i) })

end State
end Sys2Proof.Machine
end

