-- ==== Sys2Proof/Machine/Vin.lean ====
section
/-! DEFINITION. Virtual instances: states, epochs, quotas and fences (R524 to R537). -/
set_option Elab.async false
namespace Sys2Proof.Machine

/-- The units a fence is sent to (R528, R530). -/
def fenceUnits : List FenceUnit := [.fse, .ing, .kvt, .upd, .los, .arc, .plc, .msh, .cod, .bil, .cmd]

namespace State

/-- The notice of a fence's start, end or fault in ring 0 (R536). -/
def fenceNotice (i reason length : Nat) (s : State) : State :=
  let x := s.inst i
  s.event i (le 1 reason ++ le 1 i ++ le 1 (x.cause + instCode x.state * 16) ++ le 1 x.epoch ++ le 4 length)

/-- Starts a fence, or joins the one under way (R524, R525, R528, R532); an ABSENT instance starts none. The command, if
any, completes when the fence ends. COD closes the instance's open blocks (R284). -/
def fenceStart (i cause : Nat) (disable : Bool) (c : Option CmdRef) (s : State) : State :=
  let x := s.inst i
  match x.state, x.fence with
  | .absent, _ => s
  | .fencing, some f =>
    s.setInst i { x with fence := some { f with disable := f.disable || disable, cmds := f.cmds ++ c.toList } }
  | _, _ =>
    let f : Fence := { startNc := s.dev.nc, cause := cause, disable := disable, waiting := fenceUnits, cmds := c.toList }
    let s := s.setInst i
      { x with state := .fencing, epoch := (x.epoch + 1) % 256, cause := cause, fences := x.fences + 1, fence := some f }
    let s := s.emit (.fence i ((x.epoch + 1) % 256))
    ((s.fenceNotice i 1 0).codPart i).markOld i

/-- Is a command bound to an instance (R58, R80)? -/
def cmdBound (c : Cmd) : Bool := match opInfo c.opcode with | some i => bound i | none => false

/-- CMD's part of a fence (R529): commands bound to the instance that have no result yet complete with INSTANCE_FENCED or
FUNCTION_DISABLED, and the instance's queues are disabled. A key operation that has passed its commit record goes on to its own end (R422). -/
def cmdPart (i : Nat) (disable : Bool) (s : State) : State :=
  let st := if disable then St.functionDisabled else St.instanceFenced
  let ended := fun c : Cmd => s.cmd.results.any (fun r => r.queue == c.queue && r.tag == c.tag && !r.queued)
    || s.kvt.ops.any (fun o => o.cmd.queue == c.queue && o.cmd.tag == c.tag && o.stage != .next)
  let hit := fun c : Cmd => cmdBound c && c.inst == i && c.stage != .done && !ended c
  let res := (s.cmd.cmds.filter hit).map (fun c => ({ queue := c.queue, tag := c.tag, status := st } : Result))
  let s : State := { s with cmd := { s.cmd with
    cmds := s.cmd.cmds.map (fun c => if hit c then { c with stage := .done } else c)
    results := s.cmd.results ++ res } }
  (List.range 16).foldl (fun s k =>
    let q := i * 16 + k
    if (s.queue q).enabled then (s.disableQueue q st).setQctrl q (s.regI Reg.CMD_QCTRL q) false else s) s

/-- Each unit's part of a fence (R530). COD has acted when the fence began (R284); FSE, ING, KVT, LOS and UPD only mark the instance. -/
def unitPart (u : FenceUnit) (i : Nat) (disable : Bool) (s : State) : State :=
  match u with
  | .fse | .ing | .kvt | .upd | .los | .cod => s
  | .arc => s.arcPart i
  | .plc => s.plcPart i
  | .msh => s.mshPart i
  | .bil => s.bilPart i
  | .cmd => (s.cmdPart i disable).dropWork i

/-- Keeps the instance's entry durable in the checkpoint area (R533). -/
def saveInst (i : Nat) (s : State) : State :=
  { s with vin := { s.vin with saved := s.vin.saved.put i { s.inst i with fence := none } } }

/-- The state a fence ends in (R524). -/
def fenceEndState (f : Fence) : InstState :=
  if f.cause = 5 then .absent else if f.disable then .fenced else .ready

/-- The end of a fence, 40 nc after the last acknowledgement (R524, R531): the state, the completions with the new epoch and
the length, the notice. -/
def fenceEnd (i : Nat) (f : Fence) (s : State) : State :=
  let x := s.inst i
  let length := s.dev.nc - f.startNc + 40
  let s := s.setInst i { x with state := fenceEndState f, disabled := f.disable, fence := none }
  let s := s.saveInst i
  let s := f.cmds.foldl (fun s c => s.replyWith c St.ok x.epoch length) s
  let s := if fenceEndState f = .ready then s.bilReady i else s
  (s.maxReg Reg.VIN_FENCE_MAX_NC length).fenceNotice i 2 length

/-- A mask of the units that have not acknowledged a fence, in the order of `fenceUnits`. -/
def lateUnits (f : Fence) : Nat := (List.range 11).foldl (fun m k => m + bitN (f.waiting.contains (fenceUnits.getD k .cmd)) * 2 ^ k) 0

/-- A fence not acknowledged by 24 000 nc (R531): FENCED, INTERNAL_FAULT, FENCE_FAULT, and the units are logged. -/
def fenceFault (i : Nat) (f : Fence) (s : State) : State :=
  let x := s.inst i
  let length := s.dev.nc - f.startNc
  let s := s.setInst i { x with state := .fenced, disabled := f.disable, fence := none }
  let s := f.cmds.foldl (fun s c => s.reply c St.internalFault) s
  let s := ((s.bump Reg.VIN_FENCE_FAULT).maxReg Reg.VIN_FENCE_MAX_NC length).log 0 0x14 1 i (lateUnits f)
  s.fenceNotice i 3 length

/-- Are quotas in range (R526)? -/
def quotasOk (q : Quotas) : Bool :=
  decide (q.epMax ≤ 2097152) && decide (q.pinMax ≤ 4096) && decide (q.keysetMax ≤ 2097152) && decide (q.nsMax ≤ 255)
    && decide (q.queuedMax ≤ 1024)

end State

/-- VIN_CREATE (R524, R526, R533, R534). -/
def execVinCreate (c : CmdRef) (q : Quotas) (ckptOk : Bool) (s : State) : R :=
  .next (
    if !State.quotasOk q then s.reply c St.badParam
    else if (s.inst c.inst).state ≠ .absent then s.reply c St.stateConflict
    else if !ckptOk then s.reply c 0x0510
    else ((s.setInst c.inst { state := .ready, quota := q }).saveInst c.inst).replyWith c St.ok c.inst 0)

/-- VIN_RESET (R524, R528, R532, R534). -/
def execVinReset (c : CmdRef) (s : State) : R :=
  .next (if (s.inst c.inst).state = .absent then s.reply c St.stateConflict
    else (s.replyQueued c).fenceStart c.inst 1 false (some c))

/-- VIN_DISABLE (R524, R528, R532, R534). -/
def execVinDisable (c : CmdRef) (s : State) : R :=
  .next (if (s.inst c.inst).state = .absent then s.reply c St.stateConflict
    else (s.replyQueued c).fenceStart c.inst 2 true (some c))

/-- VIN_QUOTA_SET (R526, R533, R534). -/
def execVinQuotaSet (c : CmdRef) (q : Quotas) (ckptOk : Bool) (s : State) : R :=
  .next (
    if !State.quotasOk q then s.reply c St.badParam
    else if (s.inst c.inst).state = .absent then s.reply c St.stateConflict
    else if !ckptOk then s.reply c 0x0510
    else ((s.setInst c.inst { s.inst c.inst with quota := q }).saveInst c.inst).reply c St.ok)

/-- VIN_STATUS (R534, R535): the 32 bytes of the instance window, and the state word. -/
def execVinStatus (c : CmdRef) (s : State) : R :=
  .next ((s.writeData c ((List.range 8).flatMap (fun k => le 4 (s.instWord c.inst k)))).replyWith c St.ok (s.stateWord (some c.inst)) 0)

/-- VIN_DESTROY (R524, R528, R532, R534): only an instance that holds nothing. -/
def execVinDestroy (c : CmdRef) (confirm : Nat) (ckptOk : Bool) (s : State) : R :=
  .next (
    let x := s.inst c.inst
    if confirm ≠ 0x0000DE57 then s.reply c St.badParam
    else if x.state = .absent ∨ x.state = .fencing then s.reply c St.stateConflict
    else if s.instHolds c.inst ≠ 0 then s.replyWith c St.stateConflict (s.instHolds c.inst) 0
    else if !ckptOk then s.reply c 0x0510
    else (s.replyQueued c).fenceStart c.inst 5 false (some c))

/-- FENCE_UNIT_ACK (R530, R531): the unit's part is done; the last acknowledgement ends the fence. -/
def execFenceUnitAck (inst : Nat) (unit : FenceUnit) (s : State) : R :=
  .next (
    match (s.inst inst).fence with
    | none => s
    | some f =>
      if !f.waiting.contains unit then s
      else
        let s := s.unitPart unit inst f.disable
        let f' := { f with waiting := f.waiting.erase unit }
        if f'.waiting.isEmpty then s.fenceEnd inst f'
        else s.setInst inst { s.inst inst with fence := some f' })

/-- FENCE_TIMEOUT (R531). -/
def execFenceTimeout (inst : Nat) (s : State) : R :=
  .next (match (s.inst inst).fence with
    | none => s
    | some f => if f.waiting.isEmpty then s else s.fenceFault inst f)

end Sys2Proof.Machine
end

