-- ==== Sys2Proof/Machine/Bridge.lean ====
section
/-! DEFINITION. The bridge: part-issued reads, back-off, host-absence, PCIe-side resets, MSI-X, notice rings and the held
ring (R83, R88, R91, R97 to R109, R617). -/
set_option Elab.async false
namespace Sys2Proof.Machine

/-- The completion timeout for a programmed Completion Timeout Value, in noon cycles (R617); a value not in the table is
taken as 0000b. -/
def timeoutNc : Nat → Nat
  | 1 => 90000
  | 2 => 9000000
  | 5 => 49500000
  | 6 => 189000000
  | 9 => 810000000
  | 10 => 3150000000
  | 13 => 11700000000
  | 14 => 57600000000
  | _ => 45000000

namespace State

/-- The outstanding read of an identity (R97). -/
def readOf (s : State) (id : Nat) : Option PartRead := s.hbr.reads.find? (fun r => r.id == id)

/-- Forgets an outstanding read. -/
def dropRead (id : Nat) (s : State) : State :=
  { s with hbr := { s.hbr with reads := s.hbr.reads.filter (fun r => r.id != id) } }

/-- Raises a bit of a function's uncorrectable error status (R85). The first error not masked, while no earlier one is pending, has the First
Error Pointer and, where it has one, the header log (PCIe Base 5.0, log entry 90). -/
def aerError (fn i : Nat) (header : Option Nat) (s : State) : State :=
  let f := s.func fn
  let first := !bitAt f.aerMask i && !bitAt f.aerStatus f.aerFirst
  { s with hbr := { s.hbr with funcs := s.hbr.funcs.put fn { f with
    aerStatus := putBit f.aerStatus i true, aerFirst := if first then i else f.aerFirst
    aerHeader := if first then header.getD f.aerHeader else f.aerHeader } } }

/-- An error whose severity is not fatal is reported as an advisory one, a correctable error (R85, log entry 90). -/
def advisory (fn i : Nat) (s : State) : State :=
  let f := s.func fn
  if bitAt f.aerSeverity i then s
  else { s with hbr := { s.hbr with funcs := s.hbr.funcs.put fn { f with aerCorStatus := putBit f.aerCorStatus 13 true } } }

/-- A command ends with a status in place of any final result its unit has given (R98, R105). -/
def endWith (q t status : Nat) (s : State) : State :=
  let mine := fun (r : Result) => r.queue == q && r.tag == t && !r.queued
  { s with cmd := { s.cmd with results := s.cmd.results.filter (fun r => !mine r) ++ [{ queue := q, tag := t, status := status }] } }

/-- A part-issued read that ends in error, logged with its address (R98): fault 0x05 for a descriptor fetch of an enabled queue, whose
reservation is released; CHECK_FAILED without side effect for command data or a page list, whose other reads are abandoned. It is never
retried. -/
def failRead (r : PartRead) (s : State) : State :=
  let s := (s.dropRead r.id).log 0 1 1 r.addr r.id
  let ends := fun (q t : Nat) => (s.abandon (fun q' t' => q' == q && t' == t) (fun _ => false)).endWith q t St.checkFailed
  match r.what with
  | .descriptor q =>
    if s.cmd.fetching.contains q then
      let s : State := { s with cmd := { s.cmd with fetching := s.cmd.fetching.erase q } }
      (s.setQueue q { s.queue q with reserved := (s.queue q).reserved - 2 }).queueError q 0x05
    else s
  | .data q t => ends q t
  | .pages q t => ends q t

/-- Bytes of a page list arrive at their place in it (R58, R97). -/
def takeList (q t off : Nat) (b : Bytes) (s : State) : State :=
  let place := fun (x : Xfer) => { x with list := x.list.take off ++ b ++ x.list.drop (off + b.length) }
  { s with hbr := { s.hbr with xfers := s.hbr.xfers.map (fun x => if x.queue == q && x.tag == t then place x else x) } }

/-- A command's transfers start once its page list has come whole (R58). -/
def listLook (q t : Nat) (s : State) : State :=
  if s.hbr.reads.any (fun r => r.what == .pages q t) then s
  else
    let mine := fun (x : Xfer) => x.queue == q && x.tag == t
    let s' : State := { s with hbr := { s.hbr with xfers := s.hbr.xfers.filter (fun x => !mine x) } }
    (s.hbr.xfers.filter mine).foldl (fun s x => s.moveData q t (s.queueFn q) (pageRuns (pagesOf x.list) x.len) x.write) s'

/-- Records the start of host-absence in ABSENT_SINCE when `before` was present (R110). -/
def markAbsent (before : Bool) (s : State) : State :=
  if !before && s.hostAbsent then s.setPair Reg.HBR_ABSENT_SINCE_LO s.stamp else s

/-- The queues of a function (R105): physical function 0 has the manager queue and, while SR-IOV is disabled, every
instance queue. -/
def queuesOf (s : State) (fn : Nat) : List Nat :=
  if fn = 0 then (if s.hbr.vfEnable then [256] else List.range 257)
  else (List.range 16).map (fun i => (fn - 1) * 16 + i)

/-- What R105 does in the noon cycle after a function can no longer master: queues disabled, their reads abandoned, and
commands whose host data transfer is incomplete ended with CHECK_FAILED. Fetched commands not dispatched end with `status`: STATE_CONFLICT
(R49), or that of the fence which an FLR or a disable of the function brings (R529). Completions and notices are then held by `post` and
`notice`. -/
def loseFunction (fn : Nat) (lost : List CmdKey) (status : Nat) (s : State) : State :=
  let qs := s.queuesOf fn
  let read := s.hbr.reads.filterMap (fun r => match r.what with
    | .data q t => some (q, t)
    | .pages q t => some (q, t)
    | .descriptor _ => none)
  let write := s.hbr.upstream.filterMap (fun u => match u.out with | .data q t _ _ _ => some (q, t) | _ => none)
  let gone := (read ++ write ++ lost.map (fun k => (k.queue, k.tag))).filter (fun k => qs.contains k.1)
  let s := s.abandon (fun q _ => qs.contains q) qs.contains
  let s := qs.foldl (fun s q => if (s.queue q).enabled then (s.disableQueue q status).setQctrl q (s.regI Reg.CMD_QCTRL q) false else s) s
  let s := s.mapCmds (fun c => qs.contains c.queue) (fun c => { c with lost := true })
  gone.eraseDups.foldl (fun s k => s.endWith k.1 k.2 St.checkFailed) s

/-- A function loses Bus Master Enable or D0: itself alone, or every function where it is physical function 0, whose
state makes the part host-absent (R104, R105). -/
def loseMastery (fn : Nat) (lost : List CmdKey) (s : State) : State :=
  if fn = 0 then (List.range 17).foldl (fun s f => s.loseFunction f lost St.stateConflict) s else s.loseFunction fn lost St.stateConflict

/-- The PCIe-side state of a function that R106 resets: configuration space, MSI-X table and, for its notice ring, the ring
registers. -/
def resetFunction (fn : Nat) (s : State) : State :=
  let vs := s.hbr.vectors.filter (fun e => vectorFn e.1 != fn)
  let s : State := { s with hbr := { s.hbr with
    funcs := s.hbr.funcs.put fn {}, vectors := vs, rings := s.hbr.rings.put fn {}, holding := s.hbr.holding.del fn
    staged := s.hbr.staged.filter (fun e => e.1 / 2 ^ 26 != fn) } }
  let s := (((s.setRegI Reg.HBR_NR_BASE_LO fn 0).setRegI Reg.HBR_NR_BASE_HI fn 0).setRegI Reg.HBR_NR_SIZE fn 0).setRegI Reg.HBR_NR_CTRL fn 0
  if fn = 0 then
    let s : State := { s with hbr := { s.hbr with tag10 := false, ctoValue := 0, ctoDisable := false, idoCpl := false } }
    s.setReg Reg.HBR_BAR4_WIN 0
  else s

/-- Surprise removal, link-down and PERST_N (R105, R106): every function loses its queues and its PCIe-side state; the
device, the instances and the held entries stay. -/
def loseLink (event : Nat) (lost : List CmdKey) (s : State) : State :=
  let before := s.hostAbsent
  let s := ((List.range 17).foldl (fun s f => s.loseFunction f lost St.stateConflict) s)
  let s := (List.range 17).foldl (fun s f => s.resetFunction f) s
  let s : State := { s with hbr := { s.hbr with vfEnable := false, numVfs := 0, ari := false, speed := 0, width := 0, seamReads := [], seamWait := [], vfBar := 0 } }
  (s.markAbsent before).setRegBit Reg.HBR_LINK_EVENTS event true

/-- Replaces the PCIe side of a function. -/
def setFunc (fn : Nat) (x : Func) (s : State) : State := { s with hbr := { s.hbr with funcs := s.hbr.funcs.put fn x } }

/-- Sends the pending messages of a function's unmasked vectors once it can master again (R85, R91). -/
def sendPending (fn : Nat) (s : State) : State :=
  if s.canMaster fn && !s.msixOff fn then
    let due := s.hbr.vectors.filter (fun e => vectorFn e.1 == fn && e.2.pending && !e.2.masked)
    due.foldl (fun s e =>
      (({ s with hbr := { s.hbr with vectors := s.hbr.vectors.put e.1 { e.2 with pending := false } } } : State).emit (.msix e.1))) s
  else s

/-- The functions whose pending messages a change of physical function 0 can release. -/
def sendAllPending (s : State) : State := (List.range 17).foldl (fun s f => s.sendPending f) s

/-- Moves a function's oldest held entry into its ring (R108). -/
def moveHeld (f : Nat) (s : State) : State :=
  match s.hbr.held.find? (fun n => n.fn == f) with
  | none => s
  | some n =>
    if s.ringOpen f then
      ({ s with hbr := { s.hbr with held := s.hbr.held.eraseP (fun n => n.fn == f) } } : State).ringWrite n
    else s

/-- Sets NR_CTRL's coalescing fields and the ENABLE bit the ring ends with (R110). DESIGN CHOICE (log entry 94): bits [7:1], which the map
does not name, read 0. -/
def setNrctrl (f v : Nat) (en : Bool) (s : State) : State := s.setRegI Reg.HBR_NR_CTRL f (putBit (v / 256 * 256) 0 en)

/-- The ring a head doorbell names (R99): through BAR2 while SR-IOV is disabled or for ring 0, else through the function. -/
def doorbellRing (s : State) (d : Doorbell) : Option Nat :=
  if !d.formOk then none
  else if d.fn = 0 then (if d.slot = 0 || (decide (d.slot ≤ 16) && !s.hbr.vfEnable) then some d.slot else none)
  else if s.vfExists d.fn then some d.fn else none

/-- A notice ring's head doorbell (R51, R99). DESIGN CHOICE (log entry 127): one written to a ring in error moves no head and is counted as
discarded. -/
def ringHead (f v : Nat) (s : State) : State :=
  let r := s.ring f
  let size := s.ringSize f
  if !r.enabled || r.error then s.doorbellDrop
  else if v = r.head then s
  else
    let moves := (v + size - r.head) % size
    if size ≤ v || r.used < moves then s.setRing f { r with error := true }
    else s.setRing f { r with head := v, used := r.used - moves }

/-- A head doorbell written in BAR2 or in a virtual function's BAR0: the copy keeps its value, and the live one moves the ring's head
(R95, R99). -/
def headDoorbell (d : Doorbell) (s : State) : State :=
  if !d.formOk || (if d.fn = 0 then decide (16 < d.slot) else !s.vfExists d.fn) then s.doorbellDrop
  else
    let s' := s.keepDoorbell (if d.fn = 0 then 1024 + d.slot else 2048 + d.fn) d.value
    match s.doorbellRing d with
    | none => s'.doorbellDrop
    | some f => s'.ringHead f (d.value % 65536)

end State

/-- PART_READ_COMPLETION (R58, R97): more bytes of a read; the read ends when all have come, and its tag is free. A descriptor's bytes stay
until CMD takes them; a page list that is whole starts its command's transfer. Completions of a read that was abandoned are discarded
(R105). -/
def execPartReadCompletion (id : Nat) (data : Bytes) (s : State) : R :=
  .next (
    match s.readOf id with
    | none => s
    | some r =>
      let s := match r.what with | .pages q t => s.takeList q t (r.off + r.got) (data.take (r.want - r.got)) | _ => s
      if r.want ≤ r.got + data.length then
        match r.what with
        | .descriptor _ => ({ s with hbr := { s.hbr with
            reads := s.hbr.reads.map (fun x => if x.id == id then { x with got := x.want, data := (x.data ++ data).take x.want, tag := none } else x) } } : State).upLook
        | .data _ _ => (s.dropRead id).upLook
        | .pages q t => ((s.dropRead id).listLook q t).upLook
      else
        let more := match r.what with | .descriptor _ => data | _ => []
        { s with hbr := { s.hbr with
          reads := s.hbr.reads.map (fun x => if x.id == id then { x with got := x.got + data.length, data := x.data ++ more } else x) } })

/-- PART_READ_ERROR (R85, R98): Unsupported Request, Completer Abort or poisoned data, for the read issued under the tag. -/
def execPartReadError (id tag : Nat) (why : ReadFail) (s : State) : R :=
  .next (
    match s.readOf id with
    | none => s
    | some r =>
      if r.tag ≠ some tag then s
      else
      let s := if why = .poison then s.aerError 0 12 (some (Config.unstated 13 0 s.dev.nc)) else s
      (((s.failRead r).bump Reg.HBR_CPL_ERROR_COUNT).linkEvent 7).upLook)

/-- COMPLETION_TIMEOUT (R85, R98, R617): the programmed time, to within 1 %, has passed since the read was issued, and timeouts are not
disabled. -/
def execCompletionTimeout (id tag waitedNc : Nat) (s : State) : R :=
  .next (
    match s.readOf id with
    | none => s
    | some r =>
      if r.tag != some tag || s.hbr.ctoDisable || decide (waitedNc * 100 < timeoutNc s.hbr.ctoValue * 99) then s
      else ((((s.aerError 0 14 none).failRead r).bump Reg.HBR_CPL_TIMEOUT_COUNT).linkEvent 6).upLook)

/-- CREDIT_STALL (R103): posted credits have been at zero for STALL_THRESH nc; a stall episode starts a back-off of 2^k × 256 nc. -/
def execCreditStall (s : State) : R :=
  .next (
    let thresh := max 1 (s.regField Reg.HBR_BACKOFF_CTRL 15 0)
    let kmax := min 8 (s.regField Reg.HBR_BACKOFF_CTRL 19 16)
    let k := match s.hbr.lastStall with
      | none => 0
      | some t => if s.dev.nc - t < 1000000 then min (s.hbr.backoffK + 1) kmax else 0
    ({ s with hbr := { s.hbr with
      backoff := true, backoffK := k, lastStall := some s.dev.nc, backoffEnd := s.dev.nc + 2 ^ k * 256
      zeroSince := some (s.hbr.zeroSince.getD (s.dev.nc - thresh)) } } : State).bump Reg.HBR_BACKOFF_COUNT)

/-- BACKOFF_EXPIRY (R102, R103): once the back-off's time has passed, what waited is issued. -/
def execBackoffExpiry (s : State) : R :=
  .next (if s.dev.nc < s.hbr.backoffEnd then s else ({ s with hbr := { s.hbr with backoff := false } } : State).upLook)

/-- STALL_ABSENT (R103, R104): credits have been at zero for 50 000 000 nc; the host is absent for notices, and no queue is disabled. -/
def execStallAbsent (s : State) : R :=
  .next (
    match s.hbr.zeroSince with
    | none => s
    | some t =>
      if s.dev.nc < t + 50000000 then s
      else
        let before := s.hostAbsent
        (({ s with hbr := { s.hbr with stallAbsent := true } } : State).markAbsent before).linkEvent 4)

/-- CREDITS_RETURN (R91, R102 to R104). -/
def execCreditsReturn (s : State) : R :=
  .next ({ s with hbr := { s.hbr with stallAbsent := false, zeroSince := none } } : State).upLook.sendAllPending

/-- LINK_DOWN (R104 to R106). -/
def execLinkDown (lost : List CmdKey) (s : State) : R :=
  .next (
    let s1 : State := { s with hbr := { s.hbr with dlUp := false } }
    (s1.loseLink 0 lost).markAbsent s.hostAbsent)

/-- PERST_ASSERT (R104 to R106). DESIGN CHOICE (log entry 93): LINK_EVENTS.PERST alone sets, not LINK_DOWN beside it. -/
def execPerstAssert (lost : List CmdKey) (s : State) : R :=
  .next (
    let s1 : State := { s with hbr := { s.hbr with perst := true, dlUp := false } }
    (s1.loseLink 1 lost).markAbsent s.hostAbsent)

/-- BUS_MASTER_CLEAR (R104, R105). -/
def execBusMasterClear (fn : Nat) (lost : List CmdKey) (s : State) : R :=
  .next (
    let s1 := s.setFunc fn { s.func fn with busMaster := false }
    (s1.loseMastery fn lost).markAbsent s.hostAbsent)

/-- D3HOT_ENTRY (R104, R105). -/
def execD3hotEntry (fn : Nat) (lost : List CmdKey) (s : State) : R :=
  .next (
    let s1 := s.setFunc fn { s.func fn with d3hot := true }
    (s1.loseMastery fn lost).markAbsent s.hostAbsent)

/-- FLR_PF0 (R105, R106): what a link loss does, for physical function 0 alone; its configuration space holds VF Enable and the base of the
virtual functions. DESIGN CHOICE (log entry 128): LINK_STATUS keeps SPEED and WIDTH, since the link stays up. -/
def execFlrPf0 (lost : List CmdKey) (s : State) : R :=
  .next (
    let s1 := (s.loseMastery 0 lost).resetFunction 0
    let s1 : State := { s1 with hbr := { s1.hbr with vfEnable := false, numVfs := 0, ari := false, vfBar := 0 } }
    (s1.markAbsent s.hostAbsent).setRegBit Reg.HBR_LINK_EVENTS 2 true)

/-- FLR_VF (R105, R106, R528, R529, R532): the fence of VIN.RESET on the function's instance, unless it is ABSENT. -/
def execFlrVf (k : Nat) (lost : List CmdKey) (s : State) : R :=
  .next (
    if !s.vfExists k then s
    else
      let s := ((s.loseFunction k lost St.instanceFenced).resetFunction k).linkEvent 3
      s.fenceStart (k - 1) 3 false none)

/-- VF_ENABLE_SET (R88): a NumVFs above 16, or above 7 without ARI, leaves VF Enable at 0. -/
def execVfEnableSet (numVfs : Nat) (ari : Bool) (s : State) : R :=
  .next { s with hbr := { s.hbr with
    ari := ari, numVfs := numVfs, vfEnable := decide (numVfs ≤ 16) && (ari || decide (numVfs ≤ 7)) } }

/-- FUNCTION_DISABLE (R106, R524, R528, R529): the instances of the functions that go are fenced as a disable; with `numVfs` 0 VF
Enable is cleared. While the host is absent nothing is disabled. DESIGN CHOICE (log entry 129): the configuration space, MSI-X table and
notice ring of a function that goes stay as they are. -/
def execFunctionDisable (numVfs : Nat) (s : State) : R :=
  .next (
    if s.hostAbsent || !s.hbr.vfEnable || decide (s.hbr.numVfs ≤ numVfs) then s
    else
      let gone := (List.range s.hbr.numVfs).filter (fun i => decide (numVfs ≤ i))
      let s := gone.foldl (fun s i => s.loseFunction (i + 1) [] St.functionDisabled) s
      let s := gone.foldl (fun s i => s.fenceStart i 4 true none) s
      { s with hbr := { s.hbr with numVfs := numVfs, vfEnable := numVfs != 0 } })

/-- MSIX_VECTOR_UNMASK (R91). -/
def execMsixVectorUnmask (vector : Nat) (s : State) : R :=
  .next (
    let x := s.hbr.vectors.getD vector {}
    let s : State := { s with hbr := { s.hbr with vectors := s.hbr.vectors.put vector { x with masked := false } } }
    s.sendPending (State.vectorFn vector))

/-- NOTICE_RING_ENABLE (R73, R99, R108, R110): a write of NR_CTRL with ENABLE 1. Owed completions of a power loss are already
in the held ring, ahead of every new notice, and HELD_MOVE delivers them. -/
def execNoticeRingEnable (ring : Nat) (nrctrl : Word) (s : State) : R :=
  .next (
    if 17 ≤ ring then s
    else if (s.ring ring).enabled then s.setNrctrl ring nrctrl.toNat true
    else (s.setRing ring { enabled := true }).setNrctrl ring nrctrl.toNat true)

/-- NOTICE_RING_DISABLE (R99, R108, R110): later notices of the function are held; an error ends. -/
def execNoticeRingDisable (ring : Nat) (nrctrl : Word) (s : State) : R :=
  .next (
    if 17 ≤ ring then s
    else (s.setRing ring { s.ring ring with enabled := false, error := false }).setNrctrl ring nrctrl.toNat false)

/-- NOTICE_HEAD_DOORBELL (R51, R99). -/
def execNoticeHeadDoorbell (d : Doorbell) (s : State) : R :=
  .next (s.headDoorbell d)

/-- NR_COALESCE_TIMEOUT (R64, R99). -/
def execNrCoalesceTimeout (ring : Nat) (s : State) : R :=
  .next (if (s.ring ring).unann = 0 then s else s.ringMessage ring)

/-- HELD_MOVE (R108). -/
def execHeldMove (fn : Nat) (s : State) : R := .next (s.moveHeld fn)

/-- DATA_LINK_UP (R83, R91, R104): negotiated speed, Gen1 to Gen5, and width, 1, 2, 4 or 8 lanes. The part trains to no other link. -/
def execDataLinkUp (speed width : Nat) (s : State) : R :=
  .next (if s.hbr.perst || speed = 0 || decide (5 < speed) || !([1, 2, 4, 8].contains width) then s
    else ({ s with hbr := { s.hbr with dlUp := true, speed := speed, width := width } } : State).sendAllPending)

/-- PERST_DEASSERT (R104). -/
def execPerstDeassert (s : State) : R := .next { s with hbr := { s.hbr with perst := false } }

/-- BUS_MASTER_SET (R91, R104). -/
def execBusMasterSet (fn : Nat) (s : State) : R :=
  .next (s.setFunc fn { s.func fn with busMaster := true }).sendAllPending

/-- D3HOT_EXIT (R91, R104). -/
def execD3hotExit (fn : Nat) (s : State) : R :=
  .next (s.setFunc fn { s.func fn with d3hot := false }).sendAllPending

end Sys2Proof.Machine
end

