-- ==== Sys2Proof/Machine/Cod.lean ====
section
/-! DEFINITION. The events of record coding (R273, R281 to R286). -/
set_option Elab.async false
namespace Sys2Proof.Machine

/-- COD_RECORD_CODE (R269 to R278, R281, R282, R286): the record at COD's input. -/
def execCodRecordCode (s : State) : R := .next (s.codeHead false)

/-- CLOSE_TIME of a class in ms (R288): 1 to 60 000. -/
def State.closeMs (s : State) (cls : Nat) : Nat := min 60000 (max 1 (field (s.regI Reg.COD_CLOSE_TIME cls) 15 0))

/-- Has CLOSE_TIME passed since a block's first record entered it (R281)? -/
def State.timerDue (s : State) (cls : Nat) (o : OpenBlock) : Bool := decide (o.since + s.closeMs cls * 1000000 ≤ s.dev.nc)

/-- COD_CLOSE_TIMER (R281, R282): CLOSE_TIME after its first record, a stream's block closes. -/
def execCodCloseTimer (inst cls : Nat) (s : State) : R :=
  .next (match s.cod.opens.get? (inst * 8 + cls) with
    | some o => if s.timerDue cls o then s.decideClose (inst * 8 + cls) 1 else s
    | none => s)

/-- COD_FLUSH (R9, R281, R288): every open block of the classes named closes, and FLUSH reads 1 for a class until its blocks reach ARC. -/
def execCodFlush (classes : Nat) (s : State) : R :=
  .next (
    let l := s.openStreams (fun k _ => bitAt classes (k % 8) && decide (k % 8 < 7))
    l.foldl (fun s k => s.decideClose k 2) (s.codWatch (· % 8) l))

/-- COD_QCOMMIT (R9, R283): the staged steps become live, and every open bounded block closes; QCOMMIT reads 1 until they reach ARC. -/
def execCodQcommit (s : State) : R :=
  .next (
    let l := s.openStreams (fun _ o => o.bounded)
    let s := s.setCod (fun c => { c with live := s.codStaged })
    l.foldl (fun s k => s.decideClose k 3) (s.codWatch (fun _ => 7) l))

/-- COD_CLOSE_RESUME (R286): the close that has waited longest is carried out; a fence or DUSK close that waits for the BSEQ ceiling needs
no free place (DESIGN CHOICE, log entry 137). -/
def execCodCloseResume (s : State) : R :=
  .next (
    match s.cod.waiting with
    | [] => s
    | (k, cause) :: t =>
      if s.codCanClose || (decide (4 ≤ cause) && decide (s.cod.bseq < s.arc.ceil)) then
        (s.setCod (fun c => { c with waiting := t })).closeNow k cause
      else s)

end Sys2Proof.Machine
end

