-- ==== Sys2Proof/Machine/Evr.lean ====
section
/-! DEFINITION. The event recorders: commits, histograms, extremes, markers, readout and commands (R559 to R571). -/
set_option Elab.async false
namespace Sys2Proof.Machine

/-- Puts a record into its slot, the oldest going when the ring is full (R559, R560). -/
def Recorder.write (cap : Nat) (x : Recorder) (n : Nat) (e : EvRecord) : Recorder :=
  let oldest := max x.oldest (n + 1 - cap)
  { x with recs := (x.recs.put n e).filter (fun r => decide (oldest ≤ r.1)), oldest := oldest }

/-- Stages the first queued event (R562). -/
def Recorder.stageQueued (x : Recorder) : Recorder :=
  match x.queue with
  | [] => x
  | e :: t => { x with queue := t }.stageNew e

/-- Commits the staged record and stages the next; the second component says whether a new record was committed (R562). -/
def Recorder.commit (cap : Nat) (x : Recorder) : Recorder × Bool :=
  match x.staged with
  | none => (x, false)
  | some (n, e) => (({ x with staged := none }.write cap n e).stageQueued, !x.recs.has n)

/-- The record of a histogram (R560, R563). -/
def histRecord (now : Nat) (h : Nat × Nat × List Nat) : EvRecord :=
  { source := 0x15, kind := 1, code := h.1, stamp := h.2.1, lastUs := min (stampUs h.2.1 now) (2 ^ 32 - 1)
    payload := h.2.2.map Int.ofNat }

/-- The record of a set of extremes (R560, R563). -/
def extremeRecord (now : Nat) (e : Extreme) : EvRecord :=
  { source := 0x15, kind := 2, code := e.code, stamp := e.since, lastUs := min (stampUs e.since now) (2 ^ 32 - 1)
    payload := [e.min, e.max, e.minAt, e.maxAt] }

/-- The records that a recorder's open histograms become, all-zero ones left out (R563). -/
def Recorder.histRecords (x : Recorder) (now : Nat) : List EvRecord :=
  (x.hists.filter (fun h => h.2.2.any (· != 0))).map (histRecord now)

/-- Takes a sample into a set of extremes (R563). -/
def sampleExtreme (code : Nat) (v : Int) (now : Nat) : List Extreme → List Extreme
  | [] => [{ code := code, min := v, max := v, minAt := now, maxAt := now, since := now }]
  | e :: t =>
    if e.code = code then
      { e with min := Min.min e.min v, max := Max.max e.max v, minAt := if v < e.min then now else e.minAt
               maxAt := if e.max < v then now else e.maxAt } :: t
    else e :: sampleExtreme code v now t

/-- Values set by EVR.CONFIG come into force at a period boundary (R570). -/
def Recorder.applyCfg (x : Recorder) : Recorder :=
  match x.nextCfg with
  | none => x
  | some (h, e, r) => { x with histS := h, extS := e, repeatMs := r, nextCfg := none }

namespace State

/-- The RTC time in the island recorder, device time elsewhere (R560). -/
def evNow (s : State) (r : Nat) : Nat := if r = 7 then s.rtcStamp else s.stamp

/-- Offers formed records to a recorder (R562 to R564). -/
def offerAll (r : Nat) (es : List EvRecord) (s : State) : State :=
  es.foldl (fun s e =>
    let (x, lost) := (s.recorder r).offerMarked (s.evNow r) 0x15 e
    let s := s.setRecorder r x
    if lost then s.bumpI Reg.EVR_LOST_TOTAL r else s) s

/-- Ends a histogram period of a recorder (R563). -/
def endHists (r : Nat) (s : State) : State :=
  let x := s.recorder r
  (s.setRecorder r { x with hists := [] }).offerAll r (x.histRecords (s.evNow r))

/-- Ends an extremes period of a recorder (R563). -/
def endExtremes (r : Nat) (s : State) : State :=
  let x := s.recorder r
  (s.setRecorder r { x with extremes := [] }).offerAll r (x.extremes.map (extremeRecord (s.evNow r)))

/-- Commits everything staged and queued of a recorder. -/
def flushRecorder (r : Nat) (s : State) : State :=
  let x := s.recorder r
  s.setRecorder r ((List.range (x.queue.length + 1)).foldl (fun x _ => (x.commit (recorderCap r)).1) x)

/-- Replaces the readout of a recorder. -/
def setEvView (r : Nat) (v : EvView) (s : State) : State := { s with evr := { s.evr with views := s.evr.views.put r v } }

/-- Starts loading the record at a cursor (R567): below OLDEST loads OLDEST and sets CURSOR_LOST, above NEWEST loads nothing. -/
def evLoad (r cursor : Nat) (s : State) : State :=
  let x := s.recorder r
  if x.committed ≤ cursor ∨ x.committed ≤ x.oldest then s.setEvView r { cursor := cursor, cursorLost := decide (cursor < x.oldest) }
  else if cursor < x.oldest then s.setEvView r { cursor := x.oldest, busy := some x.oldest, cursorLost := true }
  else s.setEvView r { cursor := cursor, busy := some cursor }

/-- The recorder REC_SEL names. -/
def recSel (s : State) : Nat := s.regField Reg.EVR_REC_SEL 2 0

/-- The records EVR.READ writes: from FIRST or OLDEST to NEWEST, on an instance queue only the instance's (R568, R570). -/
def readRecords (s : State) (r first count : Nat) (only : Option Nat) : List (Nat × EvRecord) :=
  let x := s.recorder r
  let ok := fun e : Nat × EvRecord => decide (max first x.oldest ≤ e.1) && decide (e.1 < x.committed)
    && (match only with | none => true | some i => e.2.inst == some i)
  (x.recs.filter ok).take count

/-- Clears a Noon recorder (R565): open histograms and extremes are committed first, every slot becomes unreadable, the
CLEARED marker stands at the head, and what was staged or queued follows it. -/
def evClear (r : Nat) (s : State) : State :=
  let x := s.recorder r
  let back := match x.staged with | some (n, e) => if x.recs.has n then [] else [e] | none => []
  let formed := x.histRecords s.stamp ++ x.extremes.map (extremeRecord s.stamp)
  let head := x.committed + formed.length
  let marker : EvRecord := { source := 0x15, kind := 3, code := 1, stamp := s.stamp, payload := [(head : Int) - 1] }
  let y : Recorder := { x with recs := [(head, marker)], oldest := head, next := head + 1, staged := none, hists := [], extremes := []
                               queue := back ++ x.queue }
  (s.setRecorder r y.stageQueued).setRegI Reg.EVR_COMMITS r (satAdd 32 (s.regI Reg.EVR_COMMITS r) (formed.length + 1))

end State

/-- EVR_EVENT (R559, R561, R562): an event at a recorder's input. -/
def execEvrEvent (e : EventIn) (s : State) : R := .next (if e.recorder < 8 then s.logEvent e.recorder e else s)

/-- EVR_RECORD_COMMIT (R562). -/
def execEvrRecordCommit (recorder : Nat) (s : State) : R :=
  .next (
    let (x, new) := (s.recorder recorder).commit (recorderCap recorder)
    let s := s.setRecorder recorder x
    if new then s.bumpI Reg.EVR_COMMITS recorder else s)

/-- EVR_HIST_PERIOD_END (R563, R570): a histogram period, or an extremes period, of a recorder ends, at a whole multiple of its length. -/
def execEvrHistPeriodEnd (recorder : Nat) (extremes : Bool) (s : State) : R :=
  .next (
    if s.nowSec % (if extremes then (s.recorder recorder).extS else (s.recorder recorder).histS) ≠ 0 then s
    else
    let s := if extremes then s.endExtremes recorder else s.endHists recorder
    s.setRecorder recorder (s.recorder recorder).applyCfg)

/-- EVR_EXTREMES_SAMPLE (R563): junction temperatures in 0.01 °C and VSENSE in mV, once a second. -/
def execEvrExtremesSample (noonTemp midTemp vsense : Int) (s : State) : R :=
  .next (
    let g := s.recorder 5
    let s := s.setRecorder 5 { g with extremes := sampleExtreme 0x0201 vsense s.stamp (sampleExtreme 0x0200 noonTemp s.stamp g.extremes) }
    let i := s.recorder 4
    s.setRecorder 4 { i with extremes := sampleExtreme 0x0200 midTemp s.stamp i.extremes })

/-- EVR_CURSOR_WRITE (R567): a write during BUSY abandons the load under way. -/
def execEvrCursorWrite (cursor : Nat) (s : State) : R := .next (s.evLoad s.recSel cursor)

/-- EVR_LOAD_DONE (R567): the snapshot stands, and does not change while it is shown. -/
def execEvrLoadDone (s : State) : R :=
  .next (
    let r := s.recSel
    let v := s.evView r
    match v.busy with
    | none => s
    | some n => s.setEvView r { v with busy := none, snap := ((s.recorder r).recs.get? n).map (fun e => (n, e)) })

/-- EVR_WIN15_READ (R567): with AUTO_ADV, CURSOR rises by one and the next record loads, unless CURSOR equals NEWEST; CURSOR_LOST stays
set until CURSOR is written. -/
def execEvrWin15Read (s : State) : R :=
  .next (
    let r := s.recSel
    let v := s.evView r
    let s := s.emit (.readAnswer 0 s.hbr.idoCpl (le 4 ((s.liveEvr (windowBase 21 + 0x7C) 0).getD 0)))
    if bitAt (s.regI Reg.EVR_CTRL r) 0 && v.cursor + 1 != (s.recorder r).committed then
      let t := s.evLoad r (v.cursor + 1)
      t.setEvView r { t.evView r with cursorLost := v.cursorLost || (t.evView r).cursorLost }
    else s)

/-- EVR_READ (R568, R570). -/
def execEvrRead (c : CmdRef) (recorder first count : Nat) (s : State) : R :=
  .next (
    if 8 ≤ recorder ∨ count = 0 ∨ recorderCap recorder < count then s.reply c St.badParam
    else
      let rs := s.readRecords recorder first count (if c.queue < 256 then some c.inst else none)
      let after := match rs.getLast? with | some e => e.1 + 1 | none => max first (s.recorder recorder).oldest
      (s.writeData c (rs.flatMap (fun e => e.2.bytes e.1))).replyWith c St.ok after rs.length)

/-- EVR_CLEAR (R565, R570): the island recorder cannot be cleared. -/
def execEvrClear (c : CmdRef) (recorder confirm : Nat) (s : State) : R :=
  .next (
    if confirm ≠ 0x0000C1EA ∨ 8 ≤ recorder then s.reply c St.badParam
    else if recorder = 7 then s.reply c St.notAuthorized
    else
      let s := s.evClear recorder
      s.replyWith c St.ok (s.recorder recorder).oldest 0)

/-- EVR_CONFIG (R570). -/
def execEvrConfig (c : CmdRef) (recorder histS extS repeatMs : Nat) (s : State) : R :=
  .next (
    if recorder = 7 then s.reply c St.notAuthorized
    else if 8 ≤ recorder ∨ histS = 0 ∨ 255 < histS ∨ extS = 0 ∨ 65535 < extS ∨ 60000 < repeatMs then s.reply c St.badParam
    else (s.setRecorder recorder { s.recorder recorder with nextCfg := some (histS, extS, repeatMs) }).reply c St.ok)

end Sys2Proof.Machine
end

