-- ==== Sys2Proof/Machine/Key.lean ====
section
/-! DEFINITION. The KEY commands (R407 to R409, R417, R418, R421, R425, R428). -/
set_option Elab.async false
namespace Sys2Proof.Machine

/-- The eight bytes of a key address (R428). -/
def addrBytes (a : KeyAddr) : Bytes := le 1 a.kind ++ le 1 a.ref ++ le 3 a.set ++ le 1 a.inst ++ zeros 2

/-- Is a key address sound: KIND below 7, REF and SET as its KIND allows (R428)? -/
def addrOk (a : KeyAddr) : Bool :=
  decide (a.inst < 16) &&
  (match a.kind with
  | 0 => decide (a.ref < 8) && decide (a.set < 2097152)
  | 1 => decide (0x80 ≤ a.ref ∧ a.ref < 256) && a.set == 0
  | 2 => a.ref == 0 && decide (a.set < 2097152)
  | 3 => a.ref == 0 && a.set == 0
  | 4 => a.ref == 0 && a.set == 0
  | 5 => a.ref == 0 && a.set == 0
  | 6 => decide (a.ref < 16) && a.set == 0
  | _ => false)

/-- PLACE of a leaf (R415). -/
def addrPlace (a : KeyAddr) : Nat := if a.kind = 0 then a.set * 8 + a.ref else sharedBase + a.inst * 128 + (a.ref - 0x80)

/-- Blob byte 2 of a blob (R415). -/
def blobFlags (b : Blob) : Nat := bitN b.aes256 + b.mode * 2 + bitN b.midnight * 8 + bitN b.mayLeave * 16

/-- Blob bytes 0 to 31 (R415). -/
def blobHead (place : Nat) (b : Blob) : Bytes :=
  le 1 1 ++ le 1 b.usage ++ le 1 (blobFlags b) ++ le 1 b.lc ++ le 4 place ++ le 4 b.parentGen ++ le 4 b.instGen ++ le 1 b.inst ++ zeros 1
    ++ le 2 b.ver ++ zeros 12

namespace State

/-! #### Admission (R407, R424, R428) -/

/-- May the sender name this address (R428)? On an instance queue INSTANCE is its own, and KIND 3 to 5 are manager-only. -/
def keyMine (c : CmdRef) (a : KeyAddr) : Bool := c.queue == 256 || (a.inst == c.inst && !(a.kind == 3 || a.kind == 4 || a.kind == 5))

/-- Are KEY commands that need keys admitted (R407, R424)? `inHold` says that the command is KEY.INVALIDATE. -/
def keyStateOk (s : State) (inHold : Bool) : Bool :=
  (s.dev.life == 1 || s.dev.life == 2 || s.dev.life == 3) && (inHold || !s.dev.tamperHold)

/-- The status of a named key set (R428): present, and of INSTANCE. -/
def setStatus (s : State) (a : KeyAddr) : Nat :=
  if a.kind ≠ 0 ∧ a.kind ≠ 2 then St.ok
  else match s.kvt.sets.get? a.set with
    | none => St.keyAbsent
    | some i => if i = a.inst then St.ok else St.notAuthorized

/-- The checks of a KEY command before its own (R65, R428); `kinds` are the KINDs it takes, `named` says that the key set must exist. -/
def keyCheck (s : State) (c : CmdRef) (a : KeyAddr) (kinds : List Nat) (extraOk named inHold : Bool) : Nat :=
  if !keyMine c a then St.notAuthorized
  else if !(addrOk a && kinds.contains a.kind && extraOk) then St.badParam
  else if !s.keyStateOk inHold then St.stateConflict
  else if named then s.setStatus a else St.ok

/-- Can the vault core write MRAM, and the checkpoint area where the change needs it (R422, R426)? -/
def keyWritable (s : State) (ckpt : Bool) : Nat :=
  if s.kvt.ringCap = 0 then St.noSpace else if ckpt && !s.ckptWritable then 0x0512 else St.ok

/-- Is a leaf or PAIR occupied? -/
def leafHeld (s : State) (a : KeyAddr) : Bool := if a.kind = 5 then s.kvt.pairKey.isSome else s.kvt.blobs.has (addrPlace a)

/-- The blob a key makes at a place (R415, R417). -/
def newBlob (s : State) (a : KeyAddr) (usage flags : Nat) (key : Bytes) : Blob :=
  let mid := bitAt flags 3
  { usage := usage, aes256 := bitAt flags 0, mode := field flags 2 1, midnight := mid, mayLeave := bitAt flags 4, lc := s.dev.life
    parentGen := if a.kind = 0 then (s.setEntry a.set).1 else s.ngen a.inst
    instGen := if mid then s.igen a.inst else s.ngen a.inst, inst := a.inst
    ver := if a.kind = 0 ∧ (a.ref = 4 ∨ a.ref = 5) then s.slotVer a.set a.ref + 1 else 0
    key := fit 32 (key.take (if bitAt flags 0 then 32 else 16)) }

/-- A key enters a leaf or PAIR (R422, R428). -/
def putKey (c : CmdRef) (a : KeyAddr) (update : Bool) (usage flags : Nat) (key : Bytes) (recordOk : Bool) (s : State) : State :=
  let st := s.keyWritable (a.kind != 5)
  if s.leafHeld a ≠ update then s.reply c (if update then St.keyAbsent else 0x0111)
  else if a.kind = 0 ∧ (a.ref = 4 ∨ a.ref = 5) ∧ 0xFFFF ≤ s.slotVer a.set a.ref then s.reply c 0x0511
  else if st ≠ St.ok then s.reply c st
  else if a.kind = 5 then s.startKeyOp c false (.pair (some (fit 32 key))) recordOk
  else s.startKeyOp c false (.put (addrPlace a) (s.newBlob a usage flags key)) recordOk

/-- Do USAGE and FLAGS suit the address (R414, R415)? PAIR has neither. -/
def usageOk (a : KeyAddr) (usage flags : Nat) : Bool := a.kind == 5 || (usageFits a.kind a.ref usage && flagsOk usage flags)

/-- The live transport slot of an instance (R421). -/
def tslot (s : State) (i k : Nat) : Option Transport :=
  (s.kvt.transport.get? (i * 16 + k)).filter (fun t => decide (t.uses < 64) && decide (s.nowSec < t.born + 3600))

/-- A use of a transport slot (R421): it lapses at the 64th. -/
def useTslot (i k : Nat) (s : State) : State :=
  s.setKvt (fun v => { v with transport := (v.transport.adj (i * 16 + k) (fun t => { t with uses := t.uses + 1 })).filter (fun e => decide (e.2.uses < 64)) })

/-- A wrapped import (R421). -/
def wrappedKey (c : CmdRef) (a : KeyAddr) (update : Bool) (tslot' : Nat) (wrapped : Bytes) (recordOk : Bool) (s : State) : State :=
  let st := s.keyCheck c a [0, 1, 5] (decide (tslot' < 16)) true false
  if st ≠ St.ok then s.reply c st
  else match s.tslot a.inst tslot' with
    | none => s.reply c 0x0410
    | some t =>
      let s := s.useTslot a.inst tslot'
      match kwUnwrap (roundKeys true t.tk) wrapped with
      | none => s.reply c 0x0810
      | some p =>
        let attr := p.drop 32
        if p.length ≠ 48 ∨ byteAt attr 0 ≠ 1 ∨ byteAt attr 3 ≠ 0 ∨ slice attr 4 8 ≠ addrBytes a ∨ slice attr 12 4 ≠ zeros 4 then s.reply c 0x0810
        else if !usageOk a (byteAt attr 1) (byteAt attr 2) then s.reply c St.badParam
        else s.putKey c a update (byteAt attr 1) (byteAt attr 2) (p.take 32) recordOk

/-- A plain import (R407, R421). -/
def plainKey (c : CmdRef) (a : KeyAddr) (update : Bool) (usage flags : Nat) (key : Bytes) (recordOk : Bool) (s : State) : State :=
  let st := s.keyCheck c a [0, 1, 5] (usageOk a usage flags && key.length == 32) true false
  let plain := s.dev.life ≠ 3 ∧ s.regBit Reg.KVT_CTRL 0 = true
  if st = St.notAuthorized ∧ !keyMine c a then s.reply c st
  else if st = St.badParam ∨ st = St.stateConflict then s.reply c st
  else if ¬plain then s.reply c St.stateConflict
  else if st ≠ St.ok then s.reply c st
  else s.putKey c a update usage flags key recordOk

/-- A generated key (R421): its bytes are free. -/
def generateKey (c : CmdRef) (a : KeyAddr) (update : Bool) (usage flags : Nat) (recordOk : Bool) (s : State) : State :=
  let st := s.keyCheck c a [0, 1, 5] (usageOk a usage flags) true false
  if st ≠ St.ok then s.reply c st
  else
    let key := le 32 s.drawFree
    s.drawn.putKey c a update usage flags key recordOk

/-- The lowest free key-set index (R428). -/
def freeSet (s : State) : Option Nat :=
  let used := fun k => s.kvt.sets.has k || s.kvt.ops.any (fun o => match o.change with | .createSet n _ => n == k | _ => false)
  (List.range (s.kvt.sets.length + s.kvt.ops.length + 1)).find? (fun k => !used k && decide (k < 2097152))

/-- The NKEK values of the present root are delivered to the Noon part (R409, R422). -/
def deliverNkek (s : State) : State := s.setKvt (fun v => { v with nkek := s.dev.life == 1 || s.dev.life == 2 || s.dev.life == 3 })

/-- An advance commits (R408, R409). -/
def lifeAdvance (target : Nat) (digests : List (Nat × Bytes)) (s : State) : State :=
  let old := s.dev.life
  let s : State := { s with dev := { s.dev with life := target } }
  let s := s.setKvt (fun v => { v with
    auth := digests.foldl (fun t e => t.put e.1 e.2) v.auth, cache := [], island := [], nkek := false
    seed := if target = 4 then none else v.seed, pairKey := if target = 4 then none else v.pairKey })
  ((s.sealEvent 13 old target []).deliverNkek.newChallenge).kvtNotice 3 target 0

/-- The 256-byte body of an attestation statement (R425). -/
def attestBody (s : State) (nonce : Nat) : Bytes :=
  let dig := fun k => fit 48 (s.kvt.auth.getD k [])
  le 4 0x54535441 ++ le 1 1 ++ le 1 (s.dev.life + 8 * bitN s.dev.tamperHold + 16 * roleCode s.dev.role) ++ le 1 (devCode s.dev.state) ++ zeros 1
    ++ le 8 s.dev.eui ++ le 8 nonce ++ le 8 s.rtcStamp ++ le 4 (s.reg Reg.GLB_DEV_REV) ++ le 4 s.dev.fwId ++ le 4 s.met.swId
    ++ le 4 s.met.sealCount ++ fit 48 s.dev.fwDigest ++ fit 48 s.met.swDigest ++ sha384 (dig 0 ++ dig 1 ++ dig 2)
    ++ (if s.dev.life = 4 then zeros 48 else sha384 (blockOf s.islKey)) ++ zeros 16

/-- PRESENT to MODE of a leaf in RESULT0 of KEY.STATUS (R428). -/
def leafStatus (s : State) (place : Nat) : Nat :=
  match s.kvt.blobs.get? place with
  | none => 0
  | some b =>
    let cached := s.kvt.cache.any (fun k => k.place == place && s.tagsNow k) || s.kvt.island.any (fun k => k.place == place)
    let parent := if place < sharedBase then (s.setEntry (place / 8)).1 else s.ngen b.inst
    let ver := if place < sharedBase then s.slotVer (place / 8) (place % 8) else 0
    let orphan := b.lc != s.dev.life || b.parentGen != parent || b.instGen != (if b.midnight then s.igen b.inst else s.ngen b.inst) || b.ver != ver
    1 + 2 * bitN cached + 4 * bitN orphan + b.usage * 2 ^ 3 + bitN b.midnight * 2 ^ 11 + bitN b.mayLeave * 2 ^ 12 + bitN b.aes256 * 2 ^ 13
      + b.mode * 2 ^ 14

/-- RESULT0 and RESULT1 of KEY.STATUS (R428). -/
def keyView (s : State) (a : KeyAddr) : Nat × Nat :=
  match a.kind with
  | 0 => (s.leafStatus (addrPlace a), (s.setEntry a.set).1)
  | 1 => (s.leafStatus (addrPlace a), s.ngen a.inst)
  | 2 => (1 + (List.range 8).foldl (fun m k => m + bitN (s.kvt.blobs.has (a.set * 8 + k)) * 2 ^ (16 + k)) 0, (s.setEntry a.set).1)
  | 3 => (bitN s.rootsOpen, s.ngen a.inst)
  | 4 => (bitN s.rootsOpen, s.igen a.inst)
  | 5 => (bitN s.kvt.pairKey.isSome, 0)
  | _ => (bitN (s.tslot a.inst a.ref).isSome, 0)

end State

/-- KEY_CREATE_SET (R417, R428). -/
def execKeyCreateSet (c : CmdRef) (a : KeyAddr) (auto : Bool) (s : State) : R :=
  .next (
    let st := s.keyCheck c a [2] true false false
    if st ≠ St.ok then s.reply c st
    else
      let taken := s.kvt.sets.has a.set || s.kvt.ops.any (fun o => match o.change with | .createSet n _ => n == a.set | _ => false)
      match (if auto then s.freeSet else if taken then none else some a.set) with
      | none => s.reply c (if auto then 0x0510 else 0x0110)
      | some k =>
        let st := s.keyWritable true
        if (s.inst a.inst).quota.keysetMax ≤ s.setsOf a.inst then s.reply c 0x0510
        else if 2 ^ 32 - 1 ≤ (s.setEntry k).1 then s.reply c 0x0511
        else if st ≠ St.ok then s.reply c st
        else s.startKeyOp c false (.createSet k a.inst) true)

/-- KEY_IMPORT_WRAPPED (R421, R428). -/
def execKeyImportWrapped (c : CmdRef) (a : KeyAddr) (tslot : Nat) (wrapped : Bytes) (recordOk : Bool) (s : State) : R :=
  .next (if s.dataHeld c then s else s.wrappedKey c a false tslot wrapped recordOk)

/-- KEY_IMPORT_PLAIN (R407, R421, R428). -/
def execKeyImportPlain (c : CmdRef) (a : KeyAddr) (usage flags : Nat) (key : Bytes) (recordOk : Bool) (s : State) : R :=
  .next (if s.dataHeld c then s else s.plainKey c a false usage flags key recordOk)

/-- KEY_GENERATE (R421, R428). -/
def execKeyGenerate (c : CmdRef) (a : KeyAddr) (usage flags : Nat) (recordOk : Bool) (s : State) : R :=
  .next (s.generateKey c a false usage flags recordOk)

/-- KEY_DELETE_SET (R417, R428). -/
def execKeyDeleteSet (c : CmdRef) (a : KeyAddr) (confirm : Nat) (s : State) : R :=
  .next (
    let st := s.keyCheck c a [2] (confirm == 0x5E7D) true false
    let w := s.keyWritable true
    if st ≠ St.ok then s.reply c st
    else if 2 ^ 32 - 1 ≤ (s.setEntry a.set).1 then s.reply c 0x0511
    else if w ≠ St.ok then s.reply c w
    else s.startKeyOp c false (.deleteSet a.set) true)

/-- KEY_UPDATE_WRAPPED (R421, R428). -/
def execKeyUpdateWrapped (c : CmdRef) (a : KeyAddr) (tslot : Nat) (wrapped : Bytes) (recordOk : Bool) (s : State) : R :=
  .next (if s.dataHeld c then s else s.wrappedKey c a true tslot wrapped recordOk)

/-- KEY_UPDATE_PLAIN (R407, R421, R428). -/
def execKeyUpdatePlain (c : CmdRef) (a : KeyAddr) (usage flags : Nat) (key : Bytes) (recordOk : Bool) (s : State) : R :=
  .next (if s.dataHeld c then s else s.plainKey c a true usage flags key recordOk)

/-- KEY_UPDATE_GENERATE (R421, R428). -/
def execKeyUpdateGenerate (c : CmdRef) (a : KeyAddr) (usage flags : Nat) (recordOk : Bool) (s : State) : R :=
  .next (s.generateKey c a true usage flags recordOk)

/-- KEY_INVALIDATE (R417, R418, R428). -/
def execKeyInvalidate (c : CmdRef) (a : KeyAddr) (recordOk : Bool) (s : State) : R :=
  .next (
    let st := s.keyCheck c a [0, 1, 2, 3, 4, 5, 6] true true true
    let empty := (s.bump Reg.KVT_INVALIDATES).reply c St.ok
    let go := fun (change : KeyChange) (gen : Nat) =>
      let w := s.keyWritable (State.keyDurable change)
      if 2 ^ 32 - 1 ≤ gen then s.reply c 0x0511 else if w ≠ St.ok then s.reply c w else s.startKeyOp c true change recordOk
    if st ≠ St.ok then s.reply c st
    else match a.kind with
    | 2 => go (.bumpSet a.set) (s.setEntry a.set).1
    | 3 => go (.bumpNgen a.inst) (s.ngen a.inst)
    | 4 => go (.bumpIgen a.inst) (s.igen a.inst)
    | 5 => if s.kvt.pairKey.isNone then empty else go (.pair none) 0
    | 6 => empty.setKvt (fun v => { v with transport := v.transport.del (a.inst * 16 + a.ref) })
    | _ => if s.kvt.blobs.has (addrPlace a) then go (.remove (addrPlace a)) 0 else empty)

/-- KEY_MIRROR_UPDATE (R417): the vault core's reply to a key command under way. -/
def execKeyMirrorUpdate (id : Nat) (s : State) : R := .next (s.keyMirrored id)

/-- KEY_AGREE (R421, R428): the part's ephemeral key and the shared secret are free. -/
def execKeyAgree (c : CmdRef) (a : KeyAddr) (peer : Bytes) (valid : Bool) (s : State) : R :=
  .next (
    let st := s.keyCheck c a [6] valid false false
    if st ≠ St.ok then s.reply c st
    else
      let part := fit 33 (Config.ephemeralKey s.freeCtr)
      let z := fit 32 (Config.sharedSecret s.freeCtr peer)
      let tk := (sha384 (z ++ labelBytes "FB96TRAN" ++ part ++ fit 33 peer)).take 32
      let msg := labelBytes "FB96TRAN" ++ le 8 s.dev.eui ++ part ++ fit 33 peer
      let s := s.drawn.setKvt (fun v => { v with transport := v.transport.put (a.inst * 16 + a.ref) { tk := tk, born := s.nowSec } })
      (s.signed.writeData c (part ++ State.signWith s.devKey msg)).reply c St.ok)

/-- KEY_EXPORT (R421, R428). -/
def execKeyExport (c : CmdRef) (a : KeyAddr) (tslot : Nat) (s : State) : R :=
  .next (
    let st := s.keyCheck c a [0, 1] (decide (tslot < 16)) true false
    if st ≠ St.ok then s.reply c st
    else if !s.regBit Reg.KVT_CTRL 1 then s.reply c St.notAuthorized
    else match s.kvt.blobs.get? (addrPlace a) with
    | none => s.reply c St.keyAbsent
    | some b =>
      if b.bad then (s.unwrapFail (addrPlace a)).reply c St.keyAbsent
      else if bitAt (s.leafStatus (addrPlace a)) 2 then (s.bump Reg.KVT_ORPHANED).reply c St.keyOrphaned
      else if b.midnight || !b.mayLeave then s.reply c St.notAuthorized
      else match s.tslot a.inst tslot with
      | none => s.reply c 0x0410
      | some t =>
        let attr := le 1 1 ++ le 1 b.usage ++ le 1 (blobFlags b) ++ zeros 1 ++ addrBytes a ++ zeros 4
        ((s.useTslot a.inst tslot).writeData c (kwWrap (roundKeys true t.tk) (fit 32 b.key ++ attr))).reply c St.ok)

/-- KEY_ATTEST (R425, R428): `len` is the host buffer's length. -/
def execKeyAttest (c : CmdRef) (nonce len : Nat) (s : State) : R :=
  .next (
    if len < 7762 then s.reply c St.badLength
    else if s.dev.life = 0 ∧ s.kvt.seed.isNone then s.reply c St.stateConflict
    else
      let b := s.attestBody nonce
      let isl := if s.dev.life = 4 then zeros 2049 else State.blockOf s.islKey
      (s.signed.writeData c (b ++ State.blockOf s.devKey ++ isl ++ State.signWith s.devKey b)).reply c St.ok)

/-- KEY_LIFECYCLE_ADVANCE (R408, R409, R412, R424): `digest` is the 48 B from BLANK, `auth` the authorization otherwise. -/
def execKeyLifecycleAdvance (c : CmdRef) (target confirm : Nat) (digest : Bytes) (auth : AuthIn) (recordOk : Bool) (s : State) : R :=
  .next (if s.dataHeld c then s else
    if confirm ≠ 0x11FE then s.reply c St.badParam
    else if !State.advanceOk s.dev.life target || s.dev.tamperHold then s.reply c St.stateConflict
    else if !s.sealRoom then s.reply c 0x0510
    else if s.kvt.ringCap = 0 then s.reply c St.noSpace
    else
      let blank := s.dev.life = 0
      let ok := decide blank || s.authPasses auth 1 target
      let s := if blank then s else s.authUsed ok
      if !ok then s.reply c St.notAuthorized
      else if !recordOk then s.wordFailed.reply c St.internalFault
      else
        let ds := if blank then [(0, digest)] else if s.dev.life = 1 ∧ target = 2 then [(1, auth.digestA), (2, auth.digestB)] else []
        (s.lifeAdvance target ds).reply c St.ok)

/-- KEY_STATUS (R428). -/
def execKeyStatus (c : CmdRef) (a : KeyAddr) (data : Bool) (s : State) : R :=
  .next (
    let st := if !State.keyMine c a then St.notAuthorized else if !addrOk a then St.badParam else s.setStatus a
    if st ≠ St.ok then s.reply c st
    else
      let (r0, r1) := s.keyView a
      let leaf := a.kind = 0 ∨ a.kind = 1
      let b := if leaf then s.kvt.blobs.get? (addrPlace a) else none
      let head := match b with | some b => blobHead (addrPlace a) b | none => zeros 32
      let mid := match b with | some b => b.midnight | none => false
      let tail := if leaf then
          le 4 r1 ++ le 4 (if mid then s.igen a.inst else s.ngen a.inst) ++ le 4 (if a.kind = 0 then s.slotVer a.set a.ref else 0) ++ zeros 20
        else le 4 r1 ++ zeros 28
      let s := if data then s.writeData c (head ++ tail) else s
      s.replyWith c St.ok r0 (r1 % 65536))

/-- TRANSPORT_SLOT_LAPSE (R421): 3 600 s after its agreement. -/
def execTransportSlotLapse (inst slot : Nat) (s : State) : R :=
  .next (
    let gone := fun (e : Nat × Transport) => e.1 == inst * 16 + slot && decide (e.2.born + 3600 ≤ s.nowSec)
    s.setKvt (fun v => { v with transport := v.transport.filter (fun e => !gone e) }))

end Sys2Proof.Machine
end

