-- ==== Sys2Proof/Machine/Met.lean ====
section
/-! DEFINITION. The events and commands of the metrology island (R343 to R370). -/
set_option Elab.async false
namespace Sys2Proof.Machine

namespace State

/-! #### What MET shows (R369, R371) -/

/-- MET.STATUS (R371). -/
def metStatus (s : State) : Nat :=
  let m := s.met
  let mask := fun (base n : Nat) => (List.range n).foldl (fun a k => a + bitN (s.metPowered (base + k)) * 2 ^ k) 0
  m.sealState + bitN m.calValid * 2 ^ 2 + m.sel * 2 ^ 3 + mask 0 4 * 2 ^ 4 + mask 4 4 * 2 ^ 8 + s.tampersActive * 2 ^ 12
    + bitN m.termSuspect * 2 ^ 16 + bitN s.dev.tamperHold * 2 ^ 17 + bitN s.auditLocked * 2 ^ 18 + bitN m.markMissing * 2 ^ 19
    + (List.range 3).foldl (fun a k => a + bitN ((m.cycles.getD k {}).valid && s.metPowered k) * 2 ^ (20 + k)) 0
    + bitN m.store.isSome * 2 ^ 23

/-- RMS and highest value of a channel in the last window, mV or mA (R346, R371). -/
def winRms (s : State) (k : Nat) : Nat :=
  let w := s.met.snap
  if w.n = 0 then 0 else roundRoot (w.sq.getD k 0) (w.n * 2 ^ 106)
def winPeak (s : State) (k : Nat) : Nat := (roundDiv (s.met.snap.peak.getD k 0) (2 ^ 53)).toNat

/-- Frequency of the last window, mHz (R369). -/
def winFreq (s : State) : Nat :=
  if s.met.snapLen = 0 then 0 else (roundDiv (s.met.snap.cycles * 51200000 * 64 * 1000) s.met.snapLen).toNat

/-- Active and reactive power of a phase in the last window, W and var (R346). -/
def winP (s : State) (p : Nat) : Int :=
  let w := s.met.snap
  if w.n = 0 then 0 else roundDiv (w.sp.getD p 0) (w.n * 2 ^ 106 * 1000000)
def winQ (s : State) (p : Nat) : Int :=
  let w := s.met.snap
  if w.n = 0 then 0 else roundDiv (w.sq'.getD p 0) (w.n * 2 ^ 106 * 1000000)

/-- Apparent power of a phase, VA, and its power factor, signed Q15 (R346, R369). -/
def winS (s : State) (p : Nat) : Nat :=
  let w := s.met.snap
  if w.n = 0 then 0 else roundRoot (w.sq.getD p 0 * w.sq.getD (4 + p) 0) (w.n * w.n * 2 ^ 212 * 1000000000000)
def winPf (s : State) (p : Nat) : Int :=
  let w := s.met.snap
  pfOf (w.sp.getD p 0) (w.sq.getD p 0) (w.sq.getD (4 + p) 0)

/-- The 128 bytes of SET 0 (R369). -/
def readSet0 (s : State) : Bytes :=
  le 8 s.met.snapEnd ++ le 4 s.winFreq ++ le 4 s.metStatus ++ (List.range 8).flatMap (fun k => le 4 (s.winRms k))
    ++ (List.range 3).flatMap (fun p => le 4 (toField 32 (s.winP p))) ++ (List.range 3).flatMap (fun p => le 4 (toField 32 (s.winQ p)))
    ++ (List.range 3).flatMap (fun p => le 4 (s.winS p)) ++ (List.range 3).flatMap (fun p => le 2 (toField 16 (s.winPf p)))
    ++ s.met.snapAngles.flatMap (fun a => le 2 a) ++ zeros 34

/-- The 256 bytes of SET 1: the registers of R351. -/
def readSet1 (s : State) : Bytes := s.met.energy.flatMap (fun g => g.flatMap (fun x => le 8 (x / unitsPerMwh)))

/-- Fundamental RMS of a channel in the last window, mV or mA (R369). -/
def winFund (s : State) (ch : Nat) : Nat :=
  let w := s.met.snap
  roundRoot (2 * power 1 w.cycles s.met.snapLen ((w.samples.map (fun v => v.getD ch 0)).reverse)) (w.n * w.n * 2 ^ 186)

/-- Harmonic `n` of a channel in the last window, in 0.001 % of the fundamental (R369): a free value within the limits of R347 about the
window's component at that frequency. -/
def winHarmonic (s : State) (ch n : Nat) : Nat :=
  let w := s.met.snap
  let x := (w.samples.map (fun v => v.getD ch 0)).reverse
  let f := power 1 w.cycles s.met.snapLen x
  if f = 0 then 0
  else
    let h := rootFloor (power n w.cycles s.met.snapLen x * 10 ^ 10 / f)
    let lim := if 1000 ≤ h then h / 20 else 50
    h - lim + Config.spectrum n x % (h + lim - (h - lim) + 1)

/-- The 256 bytes of SET 2 for a channel (R369). -/
def readSet2 (s : State) (ch : Nat) : Bytes :=
  if s.met.snap.n = 0 then zeros 256
  else
    let hs := (List.range 62).map (fun i => s.winHarmonic ch (i + 2))
    le 4 (s.winFund ch) ++ hs.flatMap (fun h => le 4 h) ++ le 4 (roundRoot (hs.foldl (fun a h => a + h * h) 0) 1)

/-- The seal statement's body of 192 B (R360). -/
def sealBody (s : State) (nonce : Nat) : Bytes :=
  le 4 0x4C45534D ++ le 1 s.met.sealState ++ le 1 s.dev.life
    ++ le 1 (s.tampersActive + 16 * bitN s.met.termSuspect + 32 * bitN s.dev.tamperHold) ++ zeros 1 ++ le 4 s.met.sealCount
    ++ le 4 s.calGenNow ++ le 8 s.rtcStamp ++ le 8 nonce ++ (if s.met.calValid then sha384 s.cal else fit 48 (Config.freeBytes 5))
    ++ fit 48 s.met.swDigest ++ le 4 s.met.swId ++ le 4 s.met.audit.length ++ fit 48 s.auditHead ++ zeros 8

/-! #### Commands that change MET (R355 to R359, R366, R368) -/

/-- A MET.CAL.STORE that does not complete OK (R371). -/
def calRefuse (c : CmdRef) (st : Nat) (s : State) : State := (s.bump Reg.MET_CAL_REFUSED).reply c st

/-- MET.CAL.STORE OP 0 (R355, R357, R358, R363, R369). `cut` stops it before its commit, before or after step 4, for the tamper alarm
or power loss that then ends it. -/
def calStore (c : CmdRef) (set : Bytes) (verifyOk : Bool) (cut : Option Bool) (s : State) : State :=
  if s.metBlocked then s.calRefuse c St.stateConflict
  else if s.met.sealState = 1 then s.calRefuse c 0x0210
  else if !s.sealRoom then s.calRefuse c 0x0510
  else if leAt set 0 4 ≠ calMagic ∨ leAt set 252 4 ≠ crc32c (set.take 252) then s.calRefuse c St.checkFailed
  else if !calRanges set then s.calRefuse c St.badParam
  else
    let led := s.sealLed
    let old := s.calGenNow
    let new := calStored set (old + 1)
    let other := if s.met.calValid then 1 - s.met.sel else 1
    let s := s.setMet (fun m => { m with copies := m.copies.set other (new.take 252 ++ zeros 4) })
    if !verifyOk then s.wordFailed.calRefuse c 0x0810
    else match cut with
    | some false => s.setMet (fun m => { m with store := some { cmd := c, set := new, audited := false } })
    | some true =>
      (s.sealEvent 1 old (old + 1) ((sha384 new).take 8)).setMet (fun m => { m with store := some { cmd := c, set := new, audited := true } })
    | none =>
      let s := s.sealEvent 1 old (old + 1) ((sha384 new).take 8)
      let s := s.setMet (fun m => { m with
        copies := m.copies.set other new, sel := other, calValid := true, sealState := if m.sealState = 2 then 0 else m.sealState })
      (s.ledLook led).replyWith c St.ok (old + 1) (s.met.sealCount % 65536)

/-- MET.CAL.STORE OP 1 (R358, R359, R363, R368, R369). -/
def calSeal (c : CmdRef) (confirm : Nat) (s : State) : State :=
  if confirm ≠ 0x5EA1 then s.calRefuse c St.badParam
  else if s.metBlocked then s.calRefuse c St.stateConflict
  else if s.met.sealState = 1 then s.calRefuse c 0x0210
  else if !s.met.calValid then s.calRefuse c 0x0212
  else if !s.sealRoom then s.calRefuse c 0x0510
  else
    let led := s.sealLed
    let s := (s.sealEvent 3 0 0 []).setMet (fun m => { m with sealState := 1 })
    (s.ledLook led).replyWith c St.ok s.calGenNow (s.met.sealCount % 65536)

/-- MET.CAL.STORE OP 2 (R358, R359, R363, R412). -/
def calUnseal (c : CmdRef) (a : AuthIn) (s : State) : State :=
  if s.metBlocked || s.met.sealState != 1 then s.calRefuse c St.stateConflict
  else if !s.sealRoom then s.calRefuse c 0x0510
  else
    let ok := s.authPasses a 3 s.met.sealCount
    let s := s.authUsed ok
    if !ok then s.calRefuse c St.notAuthorized
    else
      let led := s.sealLed
      let s := (s.sealEvent 4 0 0 (a.keyDigest.take 8)).setMet (fun m => { m with sealState := 0 })
      (s.ledLook led).replyWith c St.ok s.calGenNow (s.met.sealCount % 65536)

/-- Channels follow VPWR and IPWR (R540, R369). -/
def followPower (vpwr ipwr : Nat) (s : State) : State :=
  (List.range 8).foldl (fun s k =>
    let on := if k < 4 then bitAt vpwr k else bitAt ipwr (k - 4)
    if on then s.domRamp (54 + k)
    else
      let s := s.domDown (54 + k)
      s.setMet (fun m => { m with cycles := m.cycles.del k })) s

/-- MET.CONFIG, with or without TERM_ACK (R132, R363, R366, R368, R369). -/
def metConfig (c : CmdRef) (vpwr ipwr zcVmin : Nat) (ack : Bool) (s : State) : State :=
  let change := vpwr ≠ s.met.vpwr ∨ ipwr ≠ s.met.ipwr
  if zcVmin < 5 ∨ 90 < zcVmin then s.reply c St.badParam
  else if s.metBlocked then s.reply c St.stateConflict
  else if change ∧ s.auditLocked = true then s.reply c 0x0510
  else if ack && !s.termClear then s.reply c 0x0213
  else
    let led := s.sealLed
    let old := s.met.vpwr
    let s := if change then s.auditNow 10 0 old vpwr else s
    let s := if change then (s.setMet (fun m => { m with vpwr := vpwr, ipwr := ipwr })).followPower vpwr ipwr else s
    let s := if change ∧ bitAt vpwr s.zcRef = false then s.zcMetOff else s
    let s := s.setMet (fun m => { m with zcVmin := zcVmin })
    let s := if ack && s.met.termSuspect then (s.setMet (fun m => { m with termSuspect := false })).auditNow 11 0 0 0 else s
    (s.ledLook led).headLook.reply c St.ok

/-- A command that waited for a store is executed (R357). -/
def runMet (w : MetWait) (s : State) : State :=
  match w with
  | .store c set verifyOk cut => s.calStore c set verifyOk cut
  | .seal c confirm => s.calSeal c confirm
  | .unseal c a => s.calUnseal c a
  | .config c v i z => s.metConfig c v i z false
  | .termAck c v i z => s.metConfig c v i z true


/-- A command that changes MET runs, or waits while a store is under way (R357). -/
def metTurn (w : MetWait) (run : State → State) (s : State) : State :=
  if s.met.store.isSome then s.setMet (fun m => { m with waiting := m.waiting ++ [w] }) else run s

/-- The commands behind a store that has ended, in dispatch order (R357); those behind a store among them wait on. -/
def runWaiting (s : State) : State :=
  if s.met.store.isSome then s
  else s.met.waiting.foldl (fun s w => s.metTurn w (fun s => s.runMet w)) (s.setMet (fun m => { m with waiting := [] }))

end State

/-- MET_SAMPLE (R345 to R350): the inputs of the eight channels in sixteenths of gain 1's code, and the crossings of the fundamental found
in this period, each a channel and its converter count with 6 fractional bits. -/
def execMetSample (inputs : List Int) (crossings : List (Nat × Nat)) (s : State) : R :=
  .next (if s.domOn 53 && s.metRuns then s.metSample inputs crossings else s)

/-- MET_SECOND_MARK (R350): the converter count at which a coming second begins, and whether that second ends a balance interval. The
count of a second that a replacement has begun comes too late. -/
def execMetSecondMark (count sec : Nat) (flag : Bool) (s : State) : R :=
  .next (if !s.metRuns || (s.met.markMissing && sec == s.met.lastSec) then s
    else (s.setMet (fun m => { m with mark := some (count, sec, flag) })).sliceLook.seamDrain)

/-- TIME_MARK_MISSING (R350): a count that has not arrived when its second is due is the previous one plus 51 200 000, and STATUS shows it
for that second. -/
def execTimeMarkMissing (s : State) : R :=
  .next (
    if s.metRuns && s.met.mark.isNone && decide (s.met.lastMark + 51200000 ≤ s.met.cc + 3200) then
      (((s.secondBegins (s.met.lastMark + 51200000) (s.met.lastSec + 1) false).setMet (fun m => { m with markMissing := true })).bump
        Reg.MET_TIME_MARK_MISS).seamDrain
    else s)

/-- MET_REGISTER_SAVE (R351): every 900 s the registers are saved to MRAM. -/
def execMetRegisterSave (s : State) : R := .next (s.setMet (fun m => { m with saved := m.energy }))

/-- MET_PULSE_OUT (R352): a pulse that is owed rises, 4 ms or more after the last. -/
def execMetPulseOut (s : State) : R :=
  .next (
    let ready := match s.met.lastPulse with
      | some t => decide (t + 204800 ≤ s.met.cc)
      | none => true
    if s.metRuns && s.met.calValid && ready && decide (0 < s.met.pulsesOwed) then
      ((s.setMet (fun m => { m with pulsesOwed := m.pulsesOwed - 1, lastPulse := some m.cc, pulseHigh := true })).emit (.pin 2 true)).bump
        Reg.MET_PULSES
    else s)

/-- TAMPER_SAMPLE (R364, R366): the levels of TAMP0 to TAMP3 with the supply present. -/
def execTamperSample (levels : Nat) (s : State) : R :=
  .next (if s.dev.state = .night then s else (s.tamperSample levels).runWaiting)

/-- NIGHT_TAMPER_SAMPLE (R365): the levels in NIGHT; an alarm is recorded in backup SRAM, or only counted once 16 are. -/
def execNightTamperSample (levels : Nat) (s : State) : R :=
  .next (
    if s.dev.state ≠ .night then s
    else
      (List.range 4).foldl (fun s i =>
        let (s, alarm) := s.tamperStep i (bitAt levels i)
        if !alarm then s
        else
          let r : NightRec := { time := s.rtcStamp, input := i, cls := s.tampClass i }
          let full := decide (16 ≤ s.aon.nightRecs.length)
          { s with aon := { s.aon with
            nightAlarms := satAdd 32 s.aon.nightAlarms 1, nightOverflow := s.aon.nightOverflow || full
            nightRecs := if full then s.aon.nightRecs else s.aon.nightRecs ++ [r] } }) s)

/-- MET_CAL_STORE (R355, R357). -/
def execMetCalStore (c : CmdRef) (set : Bytes) (verifyOk : Bool) (cut : Option Bool) (s : State) : R :=
  .next (if s.dataHeld c then s else s.metTurn (.store c set verifyOk cut) (fun s => s.calStore c set verifyOk cut))

/-- MET_SEAL (R358, R359). -/
def execMetSeal (c : CmdRef) (confirm : Nat) (s : State) : R := .next (s.metTurn (.seal c confirm) (fun s => s.calSeal c confirm))

/-- MET_UNSEAL (R358, R359). -/
def execMetUnseal (c : CmdRef) (auth : AuthIn) (s : State) : R := .next (if s.dataHeld c then s else s.metTurn (.unseal c auth) (fun s => s.calUnseal c auth))

/-- MET_READ (R369). -/
def execMetRead (c : CmdRef) (set channel : Nat) (s : State) : R :=
  .next (
    match set with
    | 0 => (s.writeData c s.readSet0).replyWith c St.ok s.metStatus 0
    | 1 => (s.writeData c s.readSet1).replyWith c St.ok s.metStatus 0
    | 2 => (s.writeData c (s.readSet2 channel)).replyWith c St.ok s.metStatus 0
    | _ => s.reply c St.badParam)

/-- MET_SEAL_READ (R360, R369, R406, R410): `len` is the host buffer's length. -/
def execMetSealRead (c : CmdRef) (nonce len : Nat) (s : State) : R :=
  .next (
    if len < 3600 then s.reply c St.badLength
    else if !s.rootsOpen then s.reply c St.stateConflict
    else
      let b := s.sealBody nonce
      (s.signed.writeData c (b ++ State.signWith s.islKey b)).reply c St.ok)

/-- MET_AUDIT_READ (R369). -/
def execMetAuditRead (c : CmdRef) (first count : Nat) (s : State) : R :=
  .next (
    if count = 0 ∨ 4096 < count then s.reply c St.badParam
    else
      let l := (s.met.audit.drop first).take count
      (s.writeData c l.flatten).replyWith c St.ok l.length (s.met.auditLost % 65536))

/-- MET_CONFIG (R369). -/
def execMetConfig (c : CmdRef) (vpwr ipwr zcVmin : Nat) (s : State) : R :=
  .next (s.metTurn (.config c vpwr ipwr zcVmin) (fun s => s.metConfig c vpwr ipwr zcVmin false))

/-- MET_TERM_ACK (R366, R369): MET.CONFIG with TERM_ACK set. -/
def execMetTermAck (c : CmdRef) (vpwr ipwr zcVmin : Nat) (s : State) : R :=
  .next (s.metTurn (.termAck c vpwr ipwr zcVmin) (fun s => s.metConfig c vpwr ipwr zcVmin true))

end Sys2Proof.Machine
end

