-- ==== Sys2Proof/Machine/Par.lean ====
section
/-! DEFINITION. The events and commands of the pair (R484 to R514, R620). -/
set_option Elab.async false
namespace Sys2Proof.Machine

/-- PAR_STATUS (R506, R512). -/
def execParStatus (c : CmdRef) (s : State) : R :=
  .next ((s.writeData c (s.ownReport.bytes ++ (if s.par.present then s.par.partner.bytes else zeros 64))).replyWith c St.ok s.parStatus 0)

/-- PAR_ROLE_STANDBY (R486, R491, R512, R620): an owner releases; a part without ownership has nothing to do. -/
def execParRoleStandby (c : CmdRef) (s : State) : R :=
  .next (
    if !s.par.owned then s.reply c St.ok
    else if s.par.release.isSome then s.reply c St.stateConflict
    else s.beginRelease (some c) false false)

/-- PAR_ROLE_SOLO (R486, R489, R512, R620). -/
def execParRoleSolo (c : CmdRef) (confirm : Nat) (claim : ClaimIn) (s : State) : R :=
  .next (
    if confirm ≠ 0x501A then s.reply c St.badParam
    else if s.dev.role = .solo ∧ s.par.owned = true then s.reply c St.ok
    else if s.par.owned then ((s.setRole .solo).noonBeat).reply c St.ok
    else s.askClaim (some c) true claim)

/-- PAR_RESYNC (R505, R512): the owner is asked for its records from FROM, or GAP_FROM, on. -/
def execParResync (c : CmdRef) (start : Nat) (s : State) : R :=
  .next (
    if s.dev.role ≠ .standby ∨ s.par.present = false then s.reply c St.stateConflict
    else (s.emit (.pair 9 (le 8 (if start = 0 then s.par.gapFrom else start)))).reply c St.ok)

/-- PAR_CLAIM (R489, R490, R494, R502, R512, R620). -/
def execParClaim (c : CmdRef) (force : Bool) (claim : ClaimIn) (s : State) : R :=
  .next (
    if s.par.owned then s.reply c St.ok
    else if !force && s.parUnfit then s.reply c 0x0212
    else if !force && !s.par.inStep then s.reply c 0x0210
    else s.askClaim (some c) false claim)

/-- PAR_RELEASE (R491, R512). -/
def execParRelease (c : CmdRef) (drain handover : Bool) (s : State) : R :=
  .next (
    if !s.par.owned then s.reply c St.ok
    else if s.par.release.isSome then s.reply c St.stateConflict
    else if handover && !s.partnerReady then s.reply c 0x0210
    else s.beginRelease (some c) handover drain)

/-- RELEASE_ECHO_RECEIVED (R491, R620). -/
def execReleaseEchoReceived (claim : ClaimIn) (s : State) : R := .next (s.endRelease claim)

/-- RELEASE_ECHO_TIMEOUT (R491, R620). -/
def execReleaseEchoTimeout (claim : ClaimIn) (s : State) : R := .next (s.endRelease claim)

/-- RELEASE_DRAIN_EXPIRY (R32, R491, R512): frames still on a medium are truncated, and the release goes on. -/
def execReleaseDrainExpiry (s : State) : R := .next (if s.draining then s.releaseOne else s)

/-- PAR_DIGEST_READ (R504, R512): an epoch that is not held reads as zeros. -/
def execParDigestRead (c : CmdRef) (epoch : Nat) (s : State) : R :=
  .next (
    let e := if epoch = 0 then s.par.epoch else epoch
    let b := if s.par.digests.has e then
        le 8 e ++ fit 144 (s.par.digests.getD e []).flatten ++ fit 144 (s.par.theirs.getD e []).flatten
      else zeros 296
    (s.writeData c b).reply c St.ok)

/-- PAR_SELFTEST (R507, R512): the tests of the mask run; `failing` are those that do not pass. -/
def execParSelftest (c : CmdRef) (mask failing : Nat) (s : State) : R :=
  .next (
    let m := mask % 16
    let f := m &&& failing
    let n := bitN (bitAt f 0) + bitN (bitAt f 1) + bitN (bitAt f 2) + bitN (bitAt f 3)
    let s := s.replyQueued c
    let s := (s.setPar (fun p => { p with testFail := (p.testFail - (p.testFail &&& m)) ||| f })).bumpBy Reg.PAR_SELFTEST_FAIL n
    if f = 0 then s.reply c St.ok else s.replyWith c 0x0810 0 f)

/-- SELFTEST_PERIODIC (R507): test 0 of FSE or 1 of KVT. -/
def execSelftestPeriodic (test : Nat) (ok : Bool) (s : State) : R :=
  .next (
    if 2 ≤ test then s
    else
      let s := s.setPar (fun p => { p with testFail := putBit p.testFail test (!ok) })
      if ok then s else s.bump Reg.PAR_SELFTEST_FAIL)

/-- OWN_IN_FALL (R488, R501): a fall announced with HANDOVER, or unannounced while the partner was owner, calls for a claim. -/
def execOwnInFall (claim : ClaimIn) (s : State) : R :=
  .next (
    let ann := s.par.announced
    let s := s.setPar (fun p => { p with ownIn := false })
    if s.dev.role ≠ .standby ∧ s.dev.role ≠ .orphan then s
    else if ann then (if s.par.handover then s.autoClaim claim else s)
    else if s.par.partner.owner && s.regBit Reg.PAR_CTRL 1 then s.autoClaim claim
    else s)

/-- PAIR_HEARTBEAT_SEND (R500, R502, R506, R509). -/
def execPairHeartbeatSend (s : State) : R :=
  .next (if !s.pairLinkUp then s else let s := s.fitLook.handoverLook; s.emit (.pair 0 s.ownReport.bytes))

/-- PAIR_HEARTBEAT_RECEIVED (R486, R492, R498, R500, R502). -/
def execPairHeartbeatReceived (report : ReportIn) (ownIn : Bool) (s : State) : R :=
  .next (
    let was := s.par.present && s.par.partner.role == .standby
    let s := ((s.seeOwnIn ownIn).setPar (fun p => { p with partner := reportOf report })).partnerBack
    let s := s.sideLook.doubleLook.plausibleLook.faultLook
    let s := if report.role = .standby ∧ was = false then s.sendLedger else s
    s.handoverLook)

/-- PARTNER_LOSS (R486, R500, R501). -/
def execPartnerLoss (claim : ClaimIn) (s : State) : R := .next (s.partnerLost claim)

/-- PAIR_LANE_DOWN (R500): with both lanes down the partner is lost. -/
def execPairLaneDown (lane : Nat) (claim : ClaimIn) (s : State) : R :=
  .next (
    if 2 ≤ lane then s
    else
      let s := s.setPar (fun p => { p with lanes := putBit p.lanes lane false })
      if s.par.lanes = 0 then s.partnerLost claim else s)

/-- PAIR_LANE_UP (R500). -/
def execPairLaneUp (lane : Nat) (s : State) : R :=
  .next (if 2 ≤ lane || s.shut 47 then s else s.setPar (fun p => { p with lanes := putBit p.lanes lane true }))

/-- RELEASE_MESSAGE_RECEIVED (R491, R501). -/
def execReleaseMessageReceived (handover : Bool) (s : State) : R :=
  .next (s.setPar (fun p => { p with announced := true, handover := handover }))

/-- HOLDOFF_END (R501). -/
def execHoldoffEnd (s : State) : R := .next (s.setPar (fun p => { p with holdoff := false }))

/-- SHADOW_FRAME_RECEIVED (R495, R504): a gap in the sequence is counted and ends IN_STEP; the frame enters FSE. -/
def execShadowFrameReceived (f : ShadowIn) (s : State) : R :=
  .next (
    if s.dev.role ≠ .standby then s
    else
      let gap := s.par.shadowNext.isSome && s.par.shadowNext != some f.seq
      let s := if gap then
          ((s.bump Reg.PAR_SHADOW_GAP).setPar (fun p => { p with noGap := false, gapFrom := f.missing, matched := 0 })).stepLook
        else s
      let s := (s.setPar (fun p => { p with shadowNext := some ((f.seq + 1) % 2 ^ 32), lastShadow := f.rts })).bump Reg.PAR_SHADOW_FRAMES
      s.intakeFrame
        { path := f.path, radio := f.radio, bytes := f.bytes, rts := f.rts, chans := f.chans, lq := f.lq, zcFallback := f.zcFallback
          overload := f.overload, collector := f.collector, rate := f.rate, endNs := f.endNs, ie := s.dev.nc, shadow := true })

/-- COUNTER_MESSAGE_RECEIVED (R197, R497): the counter rises to at least the value plus one. -/
def execCounterMessageReceived (kind idx value : Nat) (s : State) : R :=
  .next (
    let s := s.bump Reg.PAR_COUNTER_MSGS
    let up := fun x => max x (value + 1)
    match kind with
    | 0 => s.modCtx idx (fun x => { x with txFcnt := min (2 ^ 32 - 1) (up x.txFcnt) })
    | 1 => s.modCtx idx (fun x => { x with txNseq := min (2 ^ 32 - 1) (up x.txNseq) })
    | 2 => s.setMsh (fun m => { m with bcast := up m.bcast, restored := true })
    | 3 => s.setPlc (fun p => { p with mcastIds := p.mcastIds.upd idx 0 up })
    | 4 => s.setMsh (fun m => { m with floodId := up m.floodId })
    | 5 => s.setKvt (fun v => { v with groups := v.groups.put idx (let g := s.groupOf idx; (up g.1, g.2)) })
    | _ => s)

/-- DIGEST_EPOCH_END (R504): the three digests of an epoch that is over are closed. -/
def execDigestEpochEnd (epoch : Nat) (s : State) : R :=
  .next (
    if s.nowSec < (epoch + 1) * s.digestS ∨ s.par.digests.has epoch = true then s
    else
      let d := s.epochDigests epoch
      s.setPar (fun p => { p with
        digests := State.keepEpochs (p.digests.put epoch d), items := p.items.filter (fun e => e.1 / 4 != epoch) }))

/-- DIGEST_EXCHANGE (R504): two seconds after the epoch's end its digests are sent, and the partner's compared. -/
def execDigestExchange (epoch : Nat) (theirs : List Bytes) (s : State) : R :=
  .next (match s.par.digests.get? epoch with
    | none => s
    | some own =>
      if s.nowSec < (epoch + 1) * s.digestS + 2 then s else
      let s := s.emit (.pair 6 (le 8 epoch ++ own.flatten))
      let off := State.streamsOff own theirs
      let s := s.setPar (fun p => { p with
        theirs := State.keepEpochs (p.theirs.put epoch theirs), epoch := epoch, streams := off
        matched := if off = 0 then p.matched + 1 else 0, mismatched := if off = 0 then 0 else p.mismatched + 1 })
      let s := if off = 0 then s else (s.bump Reg.PAR_DIGEST_MISMATCH).parNotice 6 false off epoch
      s.stepLook)

/-- RESYNC_RECORD_RECEIVED (R264, R505): a record of the owner's archive goes on as ING would hand it on, and raises its windows; with
the last one the gap is closed. -/
def execResyncRecordReceived (record : Bytes) (final : Bool) (s : State) : R :=
  .next (
    if s.dev.role ≠ .standby then s
    else
      let r := recOf (fit 64 record)
      let x := s.ctx r.endpoint
      let s := (s.handRecord r (bitAt x.flags 6) x.topoValid).raiseWindows r
      if final then ((s.setPar (fun p => { p with noGap := true, gapFrom := 0 })).parNotice 11 false 0 0).stepLook else s)

/-- LEDGER_COPY_RECEIVED (R498, R504): a part of the owner's whole ledger; with the last one the copy replaces this part's ledger. A part
that fails its tag is discarded and logged. -/
def execLedgerCopyReceived (entries : List LedgerIn) (final tagOk : Bool) (s : State) : R :=
  .next (
    if !tagOk || s.kvt.pairKey.isNone then s.tagRefused 0 0
    else
      let one := fun (t : Tab Ledger) (e : LedgerIn) => t.put e.endpoint
        { lastId := e.lastId, bound := e.bound, held := e.held, replay := e.replay, window := e.window, anchor := e.anchor }
      let copy := entries.foldl one s.par.ledgerCopy
      if final then
        ((s.setBil (fun b => { b with ledger := copy })).setPar (fun p => { p with ledgerDue := false, ledgerCopy := [] })).stepLook
      else (s.setPar (fun p => { p with ledgerDue := true, ledgerCopy := copy })).stepLook)

end Sys2Proof.Machine
end

