-- ==== Sys2Proof/Machine/Dusk.lean ====
section
/-! DEFINITION. Losing the Noon die: the owed completions, the save of DUSK, of a Noon restart and of entry to RECOVERY, what a reset of
each die leaves, and the declaration and end of DUSK (R43, R73, R305, R461, R503, R538, R545, R547, R550, R551). -/
set_option Elab.async false
namespace Sys2Proof.Machine
namespace State

/-! #### Owed completions (R43, R73) -/

/-- The state word a command that was never dispatched echoes: DUSK as the governing state (R43). -/
def duskWord (s : State) (i : Option Nat) : Nat := putField (s.stateWord i) 5 0 (devCode .dusk)

/-- The status and results that the group of a dispatched command gives for a power loss during it (R240, R319, R356, R379, R423, R457,
R470, R533); where the group's chapter gives none, a value the manual leaves open. -/
def lossStatus (s : State) (c : Cmd) : Nat × Nat × Nat :=
  let is := fun k : CmdRef => k.queue == c.queue && k.tag == c.tag
  let group := c.opcode / 256
  let open' := (Config.unstated 6 c.opcode 0 % 2 ^ 16, 0, 0)
  if c.opcode = 0x0102 ∨ c.opcode = 0x0103 then (St.ok, 0, 0)
  else if group = 1 then (0x0211, 0, 0)
  else if group = 2 then (if c.opcode = 0x0206 then open' else (0x0211, 0, 0))
  else if group = 5 then
    match s.kvt.ops.find? (fun o => is o.cmd) with
    | some o => if o.stage = .next then (0x0211, 0, 0) else (St.ok, (s.keyResult o).1, (s.keyResult o).2)
    | none => open'
  else if c.opcode = 0x0603 ∨ c.opcode = 0x0604 ∨ c.opcode = 0x0605 then (0x0211, 0, 0)
  else if group = 8 then (if s.met.store.any (fun m => is m.cmd) then (0x0211, 0, 0) else open')
  else if group = 9 then (0x0211, 0, 0)
  else if c.opcode = 0x0B01 then (0x0211, s.boot.stageLen, 0)
  else if group = 11 then (0x0211, 0, 0)
  else open'

/-- The owed entry of a fetched command (R73). -/
def owedOf (s : State) (c : Cmd) : Owed :=
  let base : Owed :=
    { queue := c.queue, tag := c.tag, opcode := c.opcode, inst := c.inst, fn := s.queueFn c.queue, echo := c.echo
      dispatchNc := c.dispatchNc, dispatched := c.stage != .admitted, status := St.stateConflict }
  match s.cmd.results.find? (fun r => r.queue == c.queue && r.tag == c.tag && !r.queued) with
  | some r => { base with status := r.status, result0 := r.result0, result1 := r.result1, echo := r.echo.getD c.echo }
  | none =>
    if c.stage = .admitted then { base with echo := s.duskWord (if cmdBound c then some c.inst else none) }
    else
      let r := s.lossStatus c
      { base with status := r.1, result0 := r.2.1, result1 := r.2.2 }

/-- Does a command go on after DAWN from its journaled progress (R319)? -/
def goesOn (s : State) (o : Owed) : Bool :=
  let is := fun k : CmdRef => k.queue == o.queue && k.tag == o.tag
  s.arc.dels.any (fun d => is d.cmd) || s.arc.drives.any (fun e => e.2.cmds.any is)
    || (s.arc.page ++ s.arc.waiting).any (fun j => match j.what, j.done with | .ns _ none, some (c, _) => is c | _, _ => false)

/-- Nothing fetched stays with CMD. -/
def noCmds (s : State) : State :=
  { s with cmd := { s.cmd with cmds := [], input := [], results := [], fetching := [], laneJobs := [] }, hbr := { s.hbr with reads := [], xfers := [], upstream := [] } }

/-- CMD forms the owed entries and takes the TYPE 0x01 entries of the held ring, each for the function that owned its queue (R73). No command
is fetched any more. Where ARC has not recovered, it can write no lists, and those of the earlier loss stay on the drives (R305, R307). -/
def formOwed (s : State) : State :=
  if !s.arcUp then s.noCmds
  else
    let waiting := s.cmd.input.map (fun e => s.newCmd e.1 (decodeDesc e.2))
    let all := (s.cmd.cmds ++ waiting).map s.owedOf
    let held := (s.hbr.held.filter (fun n => n.typ == 1)).map (fun n => { n with fn := s.queueFn (leAt n.body 4 2 % 512) })
    let s : State := { s with cmd := { s.cmd with
      owed := all.filter (fun o => !(o.dispatched && s.goesOn o)), resumed := all.filter (fun o => o.dispatched && s.goesOn o)
      owedHeld := held } }
    (s.sysWrite 5 0 0 (s.cmd.owed.flatMap (fun o => le 2 o.queue ++ le 2 o.fn ++ s.owedBytes o))).noCmds

/-- The lists of a power loss are delivered at D6, ahead of every other notice (R73): held entries in their order, then owed completions by
queue and order of fetching. A fence's command reports the epoch its instance now has, and a length the manual leaves open. -/
def deliverOwed (s : State) : State :=
  let old := s.hbr.held
  let n := s.cmd.owedHeld.length + s.cmd.owed.length
  let s : State := { s with hbr := { s.hbr with held := [], nseq := 0 } }
  let s := s.cmd.owedHeld.foldl (fun s h =>
    ({ s with hbr := { s.hbr with nseq := s.hbr.nseq + 1 } } : State).holdNotice { h with nseq := s.hbr.nseq }) s
  let s := (sortOn (fun (o : Owed) => o.queue) s.cmd.owed).foldl (fun s o =>
    let fenced := o.dispatched && o.status == St.ok && (o.opcode == 0x0102 || o.opcode == 0x0103)
    s.holdOwed (if fenced then { o with result0 := (s.inst o.inst).epoch, result1 := Config.unstated 6 o.opcode 1 % 2 ^ 16 } else o)) s
  { s with
    hbr := { s.hbr with held := s.hbr.held ++ old.map (fun h => { h with nseq := h.nseq + n }), nseq := s.hbr.nseq + old.length }
    cmd := { s.cmd with owed := [], owedHeld := [] } }

/-! #### The save (R175, R197, R263, R285, R305, R389, R545, R566) -/

/-- Is a register-file key the LOCK of a window on the Midnight die, which only a power-on reset clears (R16)? -/
def midLock (key : Nat) : Bool := key == Reg.unitLock 12 || key == Reg.unitLock 13 || key == Reg.unitLock 22

/-- Is a register-file key one that PWR copies and restores (R545)? The registers that a PCIe-side reset clears, QCTRL and NR_CTRL start at
their reset values. -/
def keptKey (key : Nat) : Bool :=
  let off := key % keyStride
  let w := windowOf off
  let code := match rowAt off with
    | some r => r.access == .rw || r.access == .rwl || r.access == .wox
    | none => false
  w != 12 && w != 13 && w != 22 && (code || off == Reg.unitLock w) && off != Reg.CMD_QCTRL && off != Reg.HBR_NR_CTRL
    && off != Reg.HBR_NR_BASE_LO && off != Reg.HBR_NR_BASE_HI && off != Reg.HBR_NR_SIZE && off != Reg.HBR_BAR4_WIN

/-- The newest 128 records of a recorder and its next RSEQ are copied, after its open histograms and extremes (R563, R566). -/
def saveRecorder (r : Nat) (s : State) : State :=
  let s := ((s.endHists r).endExtremes r).flushRecorder r
  let x := s.recorder r
  { s with evr := { s.evr with saved := s.evr.saved.put r (x.next, x.recs.filter (fun e => decide (x.next - 128 ≤ e.1))) } }

/-- Does the Noon register file hold this life's values: power-on left reset values, or D1 has put back what was saved (R16, R545)? -/
def regsHome (s : State) : Bool := !(s.dev.state == .dawn && s.dev.stage == 0 && s.pwr.resetKind != .powerOn)

/-- What of the save depends on how far the part has started: RFX's duty state and MSH's broadcast counter to backup SRAM, BIL's pending
queue to MRAM (R175, R197, R389, R549). -/
def saveFirst (s : State) : State :=
  let bil := s.begun 7
  let s := if s.begun 5 then s.dutySave else s
  let s := if bil then s.setBil (fun b => { b with saved := b.queue }) else s
  if s.msh.restored then { s with aon := { s.aon with bcast := some s.msh.bcast } } else s

/-- The instance table as a power loss leaves it durable (R533): a fence under way ends READY, or FENCED where it disables; one that
destroys leaves the instance as it last stood. -/
def saveFences (s : State) : State :=
  s.vin.insts.foldl (fun s e =>
    match e.2.fence with
    | none => s
    | some f =>
      if f.cause = 5 then s
      else
        let x : Inst := { e.2 with state := if f.disable then .fenced else .ready, disabled := f.disable, fence := none }
        { s with vin := { s.vin with saved := s.vin.saved.put e.1 x } }) s

/-- The Noon die's part of the save: histograms, the backfill bitmap, COD's closes, ARC's issue, the owed lists, the register file and
the recorders (R73, R263, R285, R305, R545, R550, R566). -/
def noonSave (home : Bool) (s : State) : State :=
  let s := s.saveFences.formHists (fun _ => true)
  let s := s.setIng (fun g => { g with backfill := (g.backfill ++ g.buffer.map (·.endpoint)).eraseDups })
  let s := s.codDusk
  let s := if s.arcUp then s.arcDusk else s
  let s := s.formOwed
  if home then
    let s : State := { s with pwr := { s.pwr with savedRegs := s.regs.filter (fun e => keptKey e.1) } }
    (List.range 7).foldl (fun s r => s.saveRecorder r) s
  else s

/-! #### What a reset leaves (R545) -/

/-- Deletions of namespaces whose last entry is not committed are still to be done (R319). -/
def pendingDels (s : State) : List NsDel :=
  (s.arc.page ++ s.arc.waiting).filterMap (fun j => match j.what, j.done with
    | .ns n none, some (c, freed) => some { cmd := c, ns := n, whole := true, aens := [], freed := freed }
    | _, _ => none)

/-- The archive's state without DRAM: what the drives hold, and the commands that go on (R305, R319). -/
def arcOff (s : State) : Arc :=
  let later := fun c : CmdRef => if resumedQueue ≤ c.queue then c else { c with queue := c.queue + resumedQueue }
  let dels := (s.arc.dels ++ s.pendingDels).map (fun d => { d with cmd := later d.cmd })
  { s.arc with
    phase := .noSet, unclean := false, found := [], jobs := [], nsHeld := [], holding := false, reserveOut := false, dels := dels
    drives := s.arc.drives.mapVals (fun _ d => { d with cmds := d.cmds.map later }) }

/-- KVT without the Noon part's DRAM: MRAM, the checkpoint, the records verified and not done (R414, R417, R419, R421, R422, R423). -/
def kvtOff (midLost : Bool) (v : Kvt) : Kvt :=
  { v with
    ckpt := match v.ckpt with | some x => some x | none => some (v.sets, v.blobs)
    sets := [], blobs := [], mirSet := [], mirNgen := [], groups := v.groups.mapVals (fun _ g => (g.2, g.2)), cache := []
    island := if midLost then [] else v.island, transport := if midLost then [] else v.transport
    ops := v.ops.filter (fun o => o.stage == .record), nkek := false, redone := 0 }

/-- The registers whose key `stays` does not hold of read their reset values (R14). -/
def dropRegs (stays : Nat → Bool) (s : State) : State := { s with regs := s.regs.filter (fun e => stays e.1) }

/-- The register file after a reset (R9, R16, R67, R75, R545): MET's and BIL's windows stay while the Midnight die does, and the locks
of its three windows stay until a power-on reset. -/
def regsOff (s : State) (midLost : Bool) : State :=
  let stays := fun k : Nat => let w := windowOf (k % keyStride); (!midLost && (w == 12 || w == 13)) || midLock k || k == Reg.GLB_STATE_CAUSE
  let lane := s.regBit Reg.GLB_HOLD_CAUSES 2
  ((s.dropRegs stays).holdCause 2 lane).holdCause 5 s.dev.tamperHold

/-- Every Noon unit loses what it holds (R541, R545); what stands in MRAM, flash, retention or backup SRAM, on the drives or on the board
stays. -/
def noonOff (midLost : Bool) (s : State) : State :=
  let s := if s.par.ownOut then s.emit (.pin 4 false) else s
  let s := if (s.svc.ports.getD 0 {}).tx.isEmpty then s else s.emit (.pin 6 true)
  let s := if s.tim.ppsHigh then s.emit (.pin 1 false) else s
  let s := (((s.emit (.pin 7 false)).emit (.pin 8 false)).rfPinsOff).regsOff midLost
  let recs := s.evr.recs.mapVals (fun r x =>
    if r = 7 then x else { histS := x.histS, extS := x.extS, repeatMs := x.repeatMs, nextCfg := x.nextCfg, powerOn := false })
  let port := fun (_ : Nat) (p : RfPort) => ({ clk := p.clk } : RfPort)
  { s with
    dev := { s.dev with role := .standby, fwId := 0, fwDigest := zeros 48 }
    seam := {}
    cmd := { lanesUp := s.cmd.resyncs.foldl (fun m e => if e.2.2 then putBit m e.1 true else m) s.cmd.lanesUp, owed := s.cmd.owed, owedHeld := s.cmd.owedHeld, resumed := s.cmd.resumed }
    hbr := { perst := s.hbr.perst, heldGib := s.hbr.heldGib }
    fab := {}
    vin := { saved := s.vin.saved }
    evr := { recs := recs, saved := s.evr.saved }
    tim := {}
    kvt := kvtOff midLost s.kvt
    ing := { ckpt := s.ing.ckpt, nextJob := s.ing.nextJob }
    plc := {}
    rfx := { ports := s.rfx.ports.mapVals port }
    fse := {}
    msh := { bcastSaved := s.msh.bcastSaved }
    cod := {}
    arc := s.arcOff
    los := {}
    par := { side := s.par.side, ownIn := s.par.ownIn }
    bil := { s.bil with
      sets := [], queue := [], loading := none, accept := s.bil.accept.filter (·.verified), replayed := false, replays := []
      restores := [], campaigns := [], pushes := [], fenced := [] }
    upd := { s.upd with
      download := none, relayRx := none, verify := none, activation := none, relays := [], confirmFrom := none, warned := false
      fellBack := false, images := [], campaigns := [], aborts := [], loader := none }
    svc := { loaderPort := s.svc.loaderPort, tapHold := s.svc.tapHold, midTap := if midLost then 1 else s.svc.midTap } }

/-- The Midnight die but for domains 48 to 50 loses what it holds (R545): MET keeps MRAM, and AON its tamper inputs. MET_PULSE falls and
SEAL_LED_N is released, for no calibration is in force then (R352, R360). -/
def midOff (s : State) : State :=
  let m := s.met
  let led := s.sealLed
  let s := if m.pulseHigh then s.emit (.pin 2 false) else s
  ({ s with met := {
    copies := m.copies, sel := m.sel, sealState := m.sealState, sealCount := m.sealCount, audit := m.audit, auditLost := m.auditLost
    swId := m.swId, swDigest := m.swDigest, tampers := m.tampers, termSuspect := m.termSuspect, covers := m.covers, terms := m.terms
    saved := m.saved, store := m.store } } : State).ledLook led

/-- Domains other than those `keep` names are off (R541). -/
def domainsOff (keep : Nat → Bool) (s : State) : State :=
  { s with pwr := { s.pwr with domains := s.pwr.domains.map (fun e => (e.1, if keep e.1 then e.2 else { e.2 with state := .off, cmds := [], hostOff := false })) } }

/-! #### DAWN begins (R67, R545, R546) -/

/-- DAWN begins at stage D0 (R67, R545, R546): domains 49 and 50 come on, the noon-cycle count starts, and the cause is written. A
power-on reset loses the retention SRAM, the locks and every Noon recorder. -/
def startDawn (kind : ResetKind) (was : DevState) (cause : Nat) (s : State) : State :=
  let s : State := { s with
    dev := { s.dev with state := .dawn, stage := 0, nc := 0, role := .standby }
    pwr := { s.pwr with
      resetKind := kind, cameFrom := was, haltAsked := false, saveDone := false, halted := false, d7Waiting := false, stageTime := []
      duskCause := 0 }
    seam := { s.seam with permitDrop := false } }
  let s := (s.setReg Reg.GLB_STATE_CAUSE (cause + (s.reg Reg.GLB_STATE_CAUSE % 256) * 256)).setPair Reg.GLB_STATE_ENTRY_LO 0
  let s := if kind = .powerOn then
      let island := { s.recorder 7 with powerOn := true }
      let s : State := { s with
        pwr := { s.pwr with savedRegs := [] }, evr := { recs := [(7, island)] }, cmd := { s.cmd with lanesUp := 7 } }
      (s.dropRegs (fun k => !midLock k)).holdCause 2 false
    else s
  (s.domUp 49).rampOne 50

/-- A supply that is valid starts DAWN out of a DUSK whose save has ended and that is not halted (R551, R67). -/
def duskLeave (s : State) : State :=
  if s.dev.state = .dusk ∧ s.pwr.saveDone = true ∧ s.pwr.halted = false ∧ s.pwr.supplyValid = true then s.startDawn .duskReturn .dusk 0x08 else s

/-! #### DUSK (R503, R538, R550, R551) -/

/-- An owner, or a part in the middle of a release, releases with HANDOVER before the save (R503). -/
def duskRelease (s : State) : State :=
  if s.par.owned || s.par.release.isSome then
    let s := if s.par.owned then s.beginRelease none true false else s.releaseOne
    (s.setPar (fun p => { p with claims := [] })).endRelease ⟨false, false, false⟩
  else s

/-- DUSK is declared with a CAUSE of R538 (R34, R43, R67, R538, R550); in DUSK and NIGHT nothing is declared (R551). -/
def duskDeclare (cause : Nat) (s : State) : State :=
  if s.dev.state = .dusk ∨ s.dev.state = .night then s
  else
    let met := s.metRuns
    let home := s.regsHome
    let s : State := { s with seam := { s.seam with permitDrop := true }, pwr := { s.pwr with duskCause := cause, saveDone := false } }
    let s := (s.seamSend .midnight 1 (le 1 cause)).duskRelease.saveFirst
    let s := if met then s.setMet (fun m => { m with saved := m.energy }) else s
    (s.enterState .dusk 0x07).gateNotices.noonSave home

/-- What a save that ARC began did not reach is not answered after it (R305, R550). -/
def oweNothing (s : State) : State := { s with cmd := { s.cmd with owed := [], owedHeld := [], resumed := [] } }

/-- DUSK_INFO, DUSK_COUNT and the overruns as the save ends (R550). -/
def noteSave (complete : Bool) (timeUs : Nat) (s : State) : State :=
  let halt := s.pwr.haltAsked
  let info := s.pwr.duskCause % 16 + bitN (!complete) * 2 ^ 4 + bitN halt * 2 ^ 5 + min 65535 (timeUs / 10) * 2 ^ 16
  { s with pwr := { s.pwr with
    duskInfo := info, duskCount := satAdd 32 s.pwr.duskCount 1, overruns := satAdd 32 s.pwr.overruns (bitN (!complete))
    saveDone := true, halted := halt } }

/-- THERM_N returns to its inactive level. -/
def thermUp (s : State) : State := { s.emit (.pin 5 true) with pwr := { s.pwr with thermLow := false } }

/-- The save ends (R550, R551): DUSK_INFO, the DUSK entry where it came in time, and every domain but 48 to 50 off. -/
def duskSaved (complete : Bool) (timeUs : Nat) (s : State) : State :=
  if s.dev.state ≠ .dusk ∨ s.pwr.saveDone = true then s
  else
    let s := if s.arcUp then s.arcDuskEnd complete else s
    let s := (if s.arcUp && !complete then s.oweNothing else s).noteSave complete timeUs
    let s := if s.pwr.thermLow then s.thermUp else s
    ((s.noonOff true).midOff).domainsOff (fun d => d == 48 || d == 49 || d == 50)

/-- AON switches to VBAT and the part enters NIGHT (R551, R552). A save not ended ends where it stands (R539). -/
def nightFall (s : State) : State :=
  if s.dev.state ≠ .dusk then s
  else
    let s := s.duskSaved false 12000
    let s := s.enterState .night 0x09
    let s : State := { s with
      aon := { s.aon with nightRecs := [], nightAlarms := 0, nightOverflow := false, nightEntry := s.rtcStamp, nightCount := satAdd 32 s.aon.nightCount 1 }
      pwr := { s.pwr with supplyValid := false, halted := false } }
    s.domainsOff (fun d => d == 48)

/-! #### Saves with the supply present (R73, R461, R547) -/

/-- Every copy that ARC has issued is written and its journal pages commit: a save whose time is not limited runs to its end. -/
def arcSettle (s : State) : State :=
  let s := s.arc.writes.foldl (fun s w => w.slots.foldl (fun s k => s.copyWritten w.aen w.pos k) s) s
  (List.range (s.arc.waiting.length + 2)).foldl (fun s _ => s.pageCommit) s

/-- The save before a Noon restart or RECOVERY, run to its end (R461, R547). -/
def fullSave (home : Bool) (s : State) : State :=
  let s := if s.arcUp then s.codDusk.arcDusk.arcSettle else s
  let s := s.noonSave home
  let up := s.arcUp
  if up then (s.arcSettle).arcDuskEnd true else s

/-- A command's QUEUED completion, if it has one, and its final completion are written at once, ahead of the restart that follows (R79, R463, R556). -/
def postNow (c : CmdRef) (status r0 r1 : Nat) (s : State) : State :=
  match s.cmd.cmds.find? (fun x => x.queue == c.queue && x.tag == c.tag) with
  | none => s
  | some x =>
    let mine := fun (r : Result) => r.queue == c.queue && r.tag == c.tag
    let s := (s.cmd.results.filter (fun r => mine r && r.queued)).foldl (fun s r => s.post x r false true) s
    let s : State := { s with cmd := { s.cmd with results := s.cmd.results.filter (fun r => !mine r) } }
    (s.post x { queue := c.queue, tag := c.tag, status := status, result0 := r0 % 2 ^ 32, result1 := r1 % 2 ^ 16 } true true).dropCmd
      c.queue c.tag

/-- A restart by UPD (R71, R461): the burst buffer drains into COD as far as `drained` frames go, every open block closes, ARC and BIL
save, the Noon die is reset, and DAWN begins. -/
def noonRestart (drained : Nat) (s : State) : State :=
  let was := s.dev.state
  let home := s.regsHome
  let s := (List.range drained).foldl (fun s _ =>
    let s := s.leaveHead
    (List.range s.cod.input.length).foldl (fun s _ => s.codeHead true) s) s
  let s := s.saveFirst
  let s : State := { s with dev := { s.dev with state := .dawn, stage := 0 } }
  let s := (if was = .day then s.dropSends else s).truncateFrames
  let s := ((s.fullSave home).noonOff false).domainsOff (fun d => decide (48 ≤ d))
  s.startDawn .noonRestart was 0x01

/-- Is a Noon domain one that RECOVERY keeps on (R547)? -/
def recoveryDom (d : Nat) : Bool := d == 0 || d == 1 || d == 3 || d == 9 || d == 10

/-- The registers and the records stay as they were in `s`, and the queues are closed (R547). -/
def keptFrom (s t : State) : State := { t with regs := s.regs, evr := s.evr, cmd := { t.cmd with closed := true } }

/-- Entry to RECOVERY (R79, R547): the save where the part ran, then every Noon domain off but 0, 1, 3, 9 and 10. What lies in domain 0
stays, and no completion is written until the next DAWN. -/
def enterRecovery (cause : Nat) (save : Bool) (s : State) : State :=
  let home := s.regsHome
  let s := if save then s.saveFirst else s
  let s := (s.enterState .recovery cause).gateNotices
  let s := if save then s.fullSave home else s
  let t := (s.keptFrom (s.noonOff false)).domainsOff (fun d => recoveryDom d || decide (48 ≤ d))
  [0, 1, 3, 9, 10].foldl (fun s d => s.domUp d) t

end State

/-! ### Rows -/

/-- VSENSE_FAIL (R538, R550, R594): VSENSE, in mV, has stayed below VFAIL for the filter's time. The part's own VFAIL lies from 891 to
909 mV and its filter time from 1.8 to 2.2 µs. -/
def execVsenseFail (supply : SupplyIn) (s : State) : R :=
  .next (
    let vfail := 891 + Config.unstated 9 0 0 % 19
    let filter := 1800 + Config.unstated 9 1 0 % 401
    if supply.vsenseMv < vfail ∧ filter ≤ supply.lowNs then
      let t := s.duskDeclare 1
      { t with pwr := { t.pwr with supplyValid := false } }
    else s)

/-- SFAIL_N_LOW (R538, R550): SFAIL_N has stayed low for 2 µs. -/
def execSfailNLow (s : State) : R := .next (let t := s.duskDeclare 2; { t with pwr := { t.pwr with supplyValid := false } })

/-- SYS_RST_N_LOW (R538, R550, R551): SYS_RST_N has stayed low for 2 µs. -/
def execSysRstNLow (s : State) : R :=
  .next (let t := s.duskDeclare 3; { t with pwr := { t.pwr with supplyValid := false, sysRst := true } })

/-- SYS_RST_N_RISE (R551): a halted DUSK goes on to DAWN; one that is not halted waits for the supply to be valid. -/
def execSysRstNRise (s : State) : R :=
  .next (
    let was := s.pwr.sysRst
    let s : State := { s with pwr := { s.pwr with sysRst := false } }
    if s.dev.state = .dusk ∧ s.pwr.halted = true ∧ was = true then s.startDawn .duskReturn .dusk 0x08 else s)

/-- REFERENCE_LOSS (R543, R544, R550). D1 only waits for the reference. -/
def execReferenceLoss (s : State) : R :=
  .next (
    let t : State := { s with pwr := { s.pwr with refOk := false } }
    match s.dev.state with
    | .night => s
    | .dawn => if s.dev.stage < 2 then t else (t.bump Reg.PWR_REF_LOSS).duskDeclare 5
    | .dusk => if s.pwr.saveDone then s else t.bump Reg.PWR_REF_LOSS
    | _ => (t.bump Reg.PWR_REF_LOSS).duskDeclare 5)

/-- The supply has come (R538). -/
def State.supplyOn (s : State) : State := { s with pwr := { s.pwr with supplyValid := true } }

/-- VBAT was lost: the RTC and the backup SRAM with it (R553). -/
def State.vbatGone (s : State) : State :=
  { s with aon := { vbatMv := s.aon.vbatMv, vbatLow := s.aon.vbatLow }, met := { s.met with tampers := [] } }

/-- The time NIGHT is left (R367). -/
def State.nightEnd (s : State) : State := { s with aon := { s.aon with nightExit := s.rtcStamp } }

/-- SUPPLY_VALID (R538, R545, R551, R67, R367, R553): the supply has been valid for 10 ms. `vbatLost` says that VBAT was lost while the
supply was absent: the RTC and the backup SRAM are then lost. -/
def execSupplyValid (vbatLost : Bool) (s : State) : R :=
  .next (
    let s := s.supplyOn
    match s.dev.state with
    | .dusk => s.duskLeave
    | .night => ((if vbatLost then s.vbatGone else s).nightEnd).startDawn .powerOn .night 0x0A
    | _ => s)

/-- DUSK_SAVE_END (R550, R551): the save has ended, complete or at its 12 ms. -/
def execDuskSaveEnd (complete : Bool) (timeUs : Nat) (s : State) : R := .next ((s.duskSaved complete timeUs).duskLeave)

/-- SUPPLY_SWITCHOVER (R551, R552, R594): VDDIO_M has fallen below the switch-over level. -/
def execSupplySwitchover (s : State) : R := .next s.nightFall

end Sys2Proof.Machine
end

