-- ==== Sys2Proof/Machine/StepHooks.lean ====
section
/-! DEFINITION. What a step of device time brings to other units (R329). -/
set_option Elab.async false
namespace Sys2Proof.Machine

/-- Device time has been stepped: every LOS lane whose close has passed closes, in order (R329). -/
def State.stepHook (s : State) : State := s.losStep

end Sys2Proof.Machine
end

