-- ==== Sys2Proof/Machine/Tim.lean ====
section
/-! DEFINITION. Device time: the counter, the states, the sources, the servo, steps and the TIM commands (R431 to R450, R618). -/
set_option Elab.async false
namespace Sys2Proof.Machine

/-- SLEW_MAX in ppb (R448, R449). -/
def slewMax (s : State) : Int := (2 * max 1 (s.regField Reg.TIM_SERVO 15 0) : Nat)

/-- A rate limit in RATE units: 2^35 / 10^9 units per ppb, rounded toward zero (R431, R618). -/
def ppbToRate (num : Int) (den : Int) : Int := (num * 2 ^ 35).tdiv (den * 10 ^ 9)

/-- The demand of the servo, F + P, as a fraction: F stands in units of 1 / (2^35 × 10^9) ppb and P = −x / (2 d) with d in
noon cycles of 10^-9 s (R618 steps 1 and 2). -/
def servoDemand (freq x : Int) (dNc : Nat) : Int × Int :=
  (freq * (2 * dNc) - x * 10 ^ 9 * (2 ^ 35 * 10 ^ 9), 2 ^ 35 * 10 ^ 9 * (2 * dNc))

/-- RATE from a demand, limited to ±SLEW_MAX (R618 step 4). -/
def servoRate (lim : Int) (d : Int × Int) : Int :=
  if d.1 > lim * d.2 then ppbToRate lim 1 else if d.1 < -lim * d.2 then ppbToRate (-lim) 1 else ppbToRate d.1 d.2

/-- F after a sample: changed by −x d / 64 only while the demand lies within the limit (R618 step 3). -/
def servoFreq (lim freq x : Int) (dNc : Nat) (d : Int × Int) : Int :=
  if d.1 ≤ lim * d.2 ∧ -lim * d.2 ≤ d.1 then freq - x * dNc * 2 ^ 29 else freq

/-- One more tick of a rate in the runs kept of the last 64 s of LOCKED, 8 × 10^9 ticks (R444). -/
def addRun (rate : Int) : List (Int × Nat) → List (Int × Nat)
  | [] => [(rate, 1)]
  | (r, n) :: t => if r = rate then (r, n + 1) :: t else (rate, 1) :: (r, n) :: t

/-- Keeps the newest `left` ticks of the runs. -/
def trimRuns : Nat → List (Int × Nat) → List (Int × Nat)
  | _, [] => []
  | left, (r, n) :: t => if left = 0 then [] else if n ≤ left then (r, n) :: trimRuns (left - n) t else [(r, left)]

/-- The mean RATE of the runs, rounded toward zero (R444). -/
def meanRate (runs : List (Int × Nat)) : Int :=
  let ticks := runs.foldl (fun (a : Nat) (e : Int × Nat) => a + e.2) 0
  if ticks = 0 then 0 else (runs.foldl (fun (a : Int) (e : Int × Nat) => a + e.1 * e.2) 0).tdiv ticks

namespace State

/-- Replaces TIM. -/
def setTim (f : Tim → Tim) (s : State) : State := { s with tim := f s.tim }

/-- Replaces a source. -/
def setSource (k : Nat) (x : Source) (s : State) : State := s.setTim (fun t => { t with sources := t.sources.put k x })

/-- A TIM notice (R450). -/
def timNotice (reason src : Nat) (stepNs : Int) (s : State) : State :=
  s.event 0 (le 1 reason ++ le 1 src ++ le 1 (timeCode s.tim.state) ++ zeros 1 ++ le 8 (toField 64 stepNs)
    ++ le 4 (sat32 (s.source src).offset))

/-- The notice of a change of TIME_STATE (R450). -/
def changeReason : TimeState → TimeState → Nat
  | .locking, .locked => 7
  | .locking, .free => 9
  | .locked, .holdover => 4
  | .holdover, .locked => 5
  | .holdover, .free => 6
  | _, .locking => 8
  | _, _ => 1

/-- Changes TIME_STATE with its notice (R435, R450). -/
def timeState (next : TimeState) (src : Nat) (s : State) : State :=
  let was := s.tim.state
  let s := s.setTim (fun t => { t with state := next })
  if was = next then s else s.timNotice (changeReason was next) src 0

/-- Steps device time by a signed number of ns at a tick boundary; what hangs on time follows (R180, R329, R440, R445). -/
def stepTime (by' : Int) (s : State) : State :=
  let n := ((s.nowNs : Int) + by').toNat
  let s := s.setTim (fun t => { t with sec := n / 1000000000, ns := n % 1000000000, frac := 0 })
  let late := s.tim.queue.filter (fun e => decide (e.instant < n))
  let s := s.setTim (fun t => { t with queue := t.queue.filter (fun e => decide (n ≤ e.instant)), late := t.late ++ late })
  let s := s.bumpBy Reg.TIM_LATE_LAUNCH late.length
  let s := (s.bump Reg.TIM_STEP_COUNT).setReg Reg.TIM_LAST_STEP (sat32 by')
  (s.log 5 0x0F 1 (toField 64 by') 0).stepHook

/-- The priority of a source in SRC_PRIO (R438). -/
def prio (s : State) (k : Nat) : Nat := s.regField Reg.TIM_SRC_PRIO (4 * k - 1) (4 * k - 4)

/-- Is a source enabled: its CTRL bit and a non-zero priority (R438, R448)? -/
def sourceOn (s : State) (k : Nat) : Bool := s.regBit Reg.TIM_CTRL (k + 2) && s.prio k != 0

/-- The source to select: the pinned one if qualified, else the qualified one of lowest non-zero priority, ties to the
lower code (R438). -/
def bestSource (s : State) : Nat :=
  let q := [1, 2, 3, 4].filter (fun k => (s.source k).qualified && s.prio k != 0 && (s.tim.pinned == 0 || s.tim.pinned == k))
  q.foldl (fun b k => if b = 0 ∨ s.prio k < s.prio b then k else b) 0

/-- The one automatic step of a DAWN, at a selection (R439). -/
def autoStep (k : Nat) (s : State) : State :=
  if s.regBit Reg.TIM_CTRL 0 && !s.tim.stepped then
    let x := (s.source k).offset
    let s := s.setTim (fun t => { t with stepped := true })
    if (max 1 (s.reg Reg.TIM_STEP_MIN) : Int) ≤ x.natAbs then (s.stepTime (-x)).timNotice 1 k (-x) else s
  else s

/-- Entry to HOLDOVER: the held rate, and HOLD_SECONDS from 0 (R444). -/
def enterHoldover (k : Nat) (s : State) : State :=
  (s.setTim (fun t => { t with heldRate := meanRate t.lockedRuns, holdSeconds := 0 })).timeState .holdover k

/-- A source becomes the selected one: F takes the RATE in force, and the tick follows TICK_REF (R432, R618). -/
def startSource (k : Nat) (s : State) : State :=
  s.setTim (fun t => { t with
    selected := k, firstSample := true, inLock := 0, freq := t.rate * 10 ^ 18
    tickRef := s.regBit Reg.TIM_CTRL 1 && (k == 1 || k == 2) })

/-- Selects a source (R435, R438, R439). -/
def selectSource (k : Nat) (s : State) : State :=
  let s := s.startSource k
  let s := match s.tim.state with
    | .unset | .free => s.timeState .locking k
    | .locked => s.enterHoldover k
    | .locking | .holdover => s.timNotice 2 k 0
  s.autoStep k

/-- Selects a source where none is selected and one is qualified (R435, R438). -/
def reselect (s : State) : State :=
  if s.tim.selected = 0 then
    let k := s.bestSource
    if k = 0 then s else s.selectSource k
  else s

/-- The selected source is lost (R435, R438, R444). -/
def loseSelected (s : State) : State :=
  let lost := s.tim.selected
  let s := s.setTim (fun t => { t with selected := 0, tickRef := false })
  let k := s.bestSource
  match s.tim.state with
  | .locked =>
    let s := s.enterHoldover lost
    if k = 0 then s.setTim (fun t => { t with rate := t.heldRate })
    else (s.startSource k).autoStep k
  | .locking => if k = 0 then s.timeState .free lost else s.selectSource k
  | .holdover => if k = 0 then s.setTim (fun t => { t with rate := t.heldRate }) else s.selectSource k
  | _ => s

/-- Disqualifies a source (R438). -/
def disqualify (k : Nat) (s : State) : State :=
  let x := s.source k
  let was := s.tim.state
  let s := s.setSource k { x with qualified := false, good := 0, sampled := false, qualSecs := 0, disqualified := true }
  if !x.qualified then s
  else
    let s := s.bump Reg.TIM_DISQUALIFY
    let s := if s.tim.selected = k then s.loseSelected else s
    if s.tim.state = was then s.timNotice 3 k 0 else s

/-- The servo at a sample of the selected source (R618), and the count of samples within LOCK_NS (R435). -/
def servo (x : Int) (dNc : Nat) (s : State) : State :=
  let d := if s.tim.firstSample then 1000000000 else max 1 dNc
  let lim := slewMax s
  let dem := servoDemand s.tim.freq x d
  let s := s.setTim (fun t => { t with
    freq := servoFreq lim t.freq x d dem, rate := servoRate lim dem, firstSample := false
    inLock := if x.natAbs ≤ s.regField Reg.TIM_SERVO 31 16 then t.inLock + 1 else 0 })
  if (s.tim.state = .locking ∨ s.tim.state = .holdover) ∧ 8 ≤ s.tim.inLock then s.timeState .locked s.tim.selected else s

/-- May a source qualify at all in the present state (R438)? -/
def mayQualify (s : State) (k : Nat) : Bool :=
  if k = 3 then s.timeValid || s.tim.hostStepped
  else if k = 4 then s.tim.partnerLocked
  else (s.tim.ports.getD k {}).grandmaster.isSome

/-- An offset sample of a source (R437 to R439, R618). -/
def sample (k : Nat) (x : Int) (s : State) : State :=
  if !s.sourceOn k then s
  else
    let o := s.source k
    let good := if o.sampled && decide ((x - o.offset).natAbs ≤ 1000) then o.good + 1 else 1
    let q := o.qualified || (decide (max 1 (s.regField Reg.TIM_QUAL 7 0) ≤ good) && s.mayQualify k)
    let d := s.dev.nc - o.lastNc
    let s := s.setSource k { o with
      good := good, offset := x, sampled := true, qualified := q, age := 0, lastNc := s.dev.nc
      disqualified := o.disqualified && !q }
    let chosen := s.tim.selected
    let s := s.reselect
    if chosen = k then s.servo x d else s

/-- PPS_OUT falls 1 ms after the device second (R441). -/
def ppsLook (s : State) : State :=
  if s.tim.ppsHigh && decide (1000000 ≤ s.tim.ns) then (s.setTim (fun t => { t with ppsHigh := false })).emit (.pin 1 false) else s

/-- TIM starts at D5 (R434, R435): from the RTC where it is valid. CCNT is aligned through one class 1 packet with the Noon part's count. -/
def timStart (s : State) : State :=
  let s := s.setTim (fun t => { t with
    selected := 0, stepped := false, hostStepped := false, tickRef := false, sources := [], queue := [], late := [], fired := []
    holdSeconds := 0, lockedRuns := [], frac := 0
    sec := if s.aon.rtcValid then s.aon.rtcSec else 0
    ns := if s.aon.rtcValid then s.aon.rtcFrac * 30517578125 / 1000000 else 0
    state := if s.aon.rtcValid then .free else .unset })
  (((s.setReg Reg.TIM_STEP_COUNT 0).setReg Reg.TIM_LAST_STEP 0).seamPut .noon 1 (.bytes (le 6 s.tim.cs))).seamDrain

/-- The stamp of a message that leaves an Ethernet port now (R441). -/
def ethStamp (s : State) (port : Nat) : Nat := ((s.nowNs : Int) + s.ethTxNs port).toNat

end State

/-- The ports whose last ramp has left drop TXEN (R162). -/
def State.rfTick (s : State) : State := (s.txenLook 0).txenLook 1

/-- TIME_TICK (R179, R431, R433, R444, R553): INCR is added to NS:FRAC, with the carry into SEC. `noonCycles` noon cycles and
`midnightTicks` midnight-clock ticks have passed since the last tick; lanes whose resync has ended come up (R76), what waits on PLC's side for an instant looks at it (R131,
R150), TXEN falls after a last ramp (R162), and STALL_NC counts (R286). -/
def execTimeTick (noonCycles midnightTicks : Nat) (s : State) : R :=
  .next (
    let w := ((s.tim.ns * 2 ^ 32 + s.tim.frac : Nat) : Int) + 8 * 2 ^ 32 + s.tim.rate
    let n := w.toNat / 2 ^ 32
    let carry := if 1000000000 ≤ n then 1 else 0
    let rtc := s.aon.rtcFrac + midnightTicks
    ({ s with
      tim := { s.tim with
        sec := (s.tim.sec + carry) % 2 ^ 48, ns := n - carry * 1000000000, frac := w.toNat % 2 ^ 32
        lockedRuns := if s.tim.state = .locked then trimRuns 8000000000 (addRun s.tim.rate s.tim.lockedRuns) else s.tim.lockedRuns }
      dev := { s.dev with nc := (s.dev.nc + noonCycles) % 2 ^ 64 }
      aon := { s.aon with rtcFrac := rtc % 32768, rtcSec := (s.aon.rtcSec + rtc / 32768) % 2 ^ 48 } } : State).laneTick.plcTick.rfTick.stallCount.treeLook.ppsLook)

/-- The mark of the coming second for MET (R350): its converter count, its number, and whether it ends a balance interval of LOS. -/
def State.secondMark (s : State) (ccnt : Nat) : Bytes :=
  le 8 (ccnt + s.tim.ds) ++ le 8 (s.tim.sec + 1) ++ le 1 (bitN ((s.tim.sec + 1) % s.los.cfg.balS == 0))

/-- DEVICE_SECOND (R350, R434, R436, R441, R444): C_s is latched, CCNT compared and aligned, the RTC written and PPS_OUT raised
while time is valid, and the seconds counted. -/
def execDeviceSecond (ccnt midCcnt : Nat) (s : State) : R :=
  .next (
    let s := s.setTim (fun t => { t with
      ds := ccnt - t.cs, cs := ccnt
      holdSeconds := if t.state = .holdover then t.holdSeconds + 1 else t.holdSeconds
      sources := t.sources.mapVals (fun _ x => { x with age := x.age + 1, qualSecs := if x.qualified then x.qualSecs + 1 else 0 }) })
    let s := if ccnt ≠ midCcnt then s.bump Reg.TIM_CCNT_SLIP else s
    let s := s.seamPut .noon 1 (.bytes (le 6 ccnt))
    let s := (s.seamPut .noon 7 (.bytes (s.secondMark ccnt))).seamDrain
    if s.timeValid then
      let s : State := { s with aon := { s.aon with rtcSec := s.tim.sec, rtcFrac := 0, rtcValid := true } }
      if s.regBit Reg.TIM_CTRL 7 then (s.setTim (fun t => { t with ppsHigh := true })).emit (.pin 1 true) else s
    else s)

/-- PTP_SYNC_RECEIVED (R437 to R439, R441, R447, R618): the offset is t2 − t1 less the mean path delay; `t2`, stamped inside the part, is
first moved to the port's external point. -/
def execPtpSyncReceived (port : Nat) (t1 t2 : Int) (s : State) : R :=
  .next (
    if 2 ≤ port || !s.ethUp port then s
    else
      let p := s.tim.ports.getD (port + 1) {}
      let t2 := t2 - s.ethRxNs port
      let s := s.setTim (fun t => { t with ports := t.ports.put (port + 1) { p with syncDiff := t2 - t1 } })
      if s.sourceOn (port + 1) && !p.master then (s.bump Reg.TIM_SYNC_RX).sample (port + 1) (t2 - t1 - p.delay) else s)

/-- PPS_IN_EDGE (R437, R438, R441): the offset against the nearest whole device second, less the part's 9 ns and PPS_IN_NS. -/
def execPpsInEdge (s : State) : R :=
  .next (
    let at' := (s.tim.ns : Int) - 9 - s.regField Reg.TIM_PPS_DELAY 15 0
    s.sample 3 (if 500000000 ≤ at' then at' - 1000000000 else at'))

/-- PTP_ANNOUNCE_TIMEOUT (R435, R438, R444). -/
def execPtpAnnounceTimeout (port : Nat) (s : State) : R :=
  .next (if 2 ≤ port then s
    else (s.setTim (fun t => { t with ports := t.ports.put (port + 1) { t.ports.getD (port + 1) {} with grandmaster := none } })).disqualify (port + 1))

/-- SOURCE_LOSS_TIMEOUT (R435, R438, R444): no sample for LOSS_S seconds. -/
def execSourceLossTimeout (src : Nat) (s : State) : R :=
  .next (if max 1 (s.regField Reg.TIM_QUAL 15 8) ≤ (s.source src).age then s.disqualify src else s)

/-- SOURCE_REVERT (R435, R438): with REVERT, a better source qualified for REVERT_S seconds is selected. -/
def execSourceRevert (src : Nat) (s : State) : R :=
  .next (
    let x := s.source src
    let now := s.tim.selected
    if s.regBit Reg.TIM_CTRL 2 && x.qualified && decide (s.regField Reg.TIM_QUAL 31 16 ≤ x.qualSecs) && now != 0
        && s.tim.pinned == 0 && s.prio src != 0
        && (decide (s.prio src < s.prio now) || (s.prio src == s.prio now && decide (src < now))) then s.selectSource src
    else s)

/-- HOLDOVER_EXPIRY (R435, R444): a source still selected takes the state on to LOCKING at once. -/
def execHoldoverExpiry (s : State) : R :=
  .next (
    if s.tim.state = .holdover ∧ max 1 (s.reg Reg.TIM_HOLD) ≤ s.tim.holdSeconds then
      let s := s.timeState .free s.tim.selected
      if s.tim.selected ≠ 0 then s.timeState .locking s.tim.selected else s
    else s)

/-- TICK_REF_LOSS (R432). -/
def execTickRefLoss (s : State) : R := .next (s.setTim (fun t => { t with tickRef := false }))

/-- A PTP message sent on a port through its lane of the launch queue, with its sequence number; none goes out while the port is switched off
(R443, R542). -/
def ptpSend (port kind : Nat) (body : Bytes) (s : State) : State :=
  let p := s.tim.ports.getD (port + 1) {}
  if !s.ethUp port then s
  else (s.setTim (fun t => { t with ports := t.ports.put (port + 1) { p with seq := (p.seq + 1) % 65536 } })).passLaunch (9 + port) s.nowNs 15 0
    (State.emit (.eth port (le 1 kind ++ le 2 p.seq ++ body)))

/-- Is a PTP port master (R437): MASTER_EN, and the algorithm puts it there? -/
def ptpMaster (s : State) (port : Nat) : Bool :=
  bitAt (s.reg (Reg.TIM_PTP_CFG0 + 4 * port)) 3 && (s.tim.ports.getD (port + 1) {}).master

/-- PTP_SYNC_SEND (R437): one-step with the transmit stamp, or two-step with a Follow_Up, as TWO_STEP selects. -/
def execPtpSyncSend (port : Nat) (s : State) : R :=
  .next (
    if port < 2 && ptpMaster s port then
      if bitAt (s.reg (Reg.TIM_PTP_CFG0 + 4 * port)) 2 then ptpSend port 8 (le 8 (s.ethStamp port)) (ptpSend port 0 (zeros 8) s)
      else ptpSend port 0 (le 8 (s.ethStamp port)) s
    else s)

/-- PTP_ANNOUNCE_RECEIVED (R437, R438): a change of grandmaster starts the qualification again. -/
def execPtpAnnounceReceived (port : Nat) (a : Announce) (s : State) : R :=
  .next (
    if 2 ≤ port || !s.ethUp port then s
    else
      let p := s.tim.ports.getD (port + 1) {}
      let p' := { p with grandmaster := some a.grandmaster, parentClass := a.clockClass, master := a.portMaster }
      let s := s.setTim (fun t => { t with ports := t.ports.put (port + 1) p' })
      if p.grandmaster.isSome && p.grandmaster != some a.grandmaster then
        s.setSource (port + 1) { s.source (port + 1) with good := 0, sampled := false }
      else s)

/-- PTP_DELAY_MESSAGE_RECEIVED (R437, R441): the mean path delay of the E2E or P2P mechanism, and the answers to requests. The part's own
stamps, t3 and the arrivals of requests and of Pdelay_Resp, are first moved to the port's external point. -/
def execPtpDelayMessageReceived (port : Nat) (m : PtpDelay) (s : State) : R :=
  .next (
    if 2 ≤ port || !s.ethUp port then s
    else
      let p := s.tim.ports.getD (port + 1) {}
      let put := fun d : Int => s.setTim (fun t => { t with ports := t.ports.put (port + 1) { p with delay := d } })
      match m with
      | .delayReq t4 => if ptpMaster s port then ptpSend port 9 (le 8 (toField 64 (t4 - s.ethRxNs port))) s else s
      | .delayResp t3 t4 => put (roundDiv (p.syncDiff + (t4 - (t3 + s.ethTxNs port))) 2)
      | .pdelayReq t2 => ptpSend port 3 (le 8 (toField 64 (t2 - s.ethRxNs port)) ++ le 8 (s.ethStamp port)) s
      | .pdelayResp t1 t2 t3 t4 => put (roundDiv ((t4 - s.ethRxNs port - (t1 + s.ethTxNs port)) - (t3 - t2)) 2))

/-- PTP_ANNOUNCE_SEND (R437): clockClass 7 in HOLDOVER, 248 in UNSET, FREE and LOCKING, the parent's in LOCKED; then the grandmaster of the
selected source's parent dataset, the part itself where no PTP source is selected. -/
def execPtpAnnounceSend (port : Nat) (s : State) : R :=
  .next (
    if port < 2 && ptpMaster s port then
      let cls := match s.tim.state with
        | .holdover => 7
        | .locked => (s.tim.ports.getD s.tim.selected {}).parentClass
        | _ => 248
      ptpSend port 11 (le 1 cls ++ le 8 ((s.tim.ports.getD s.tim.selected {}).grandmaster.getD s.dev.eui)) s
    else s)

/-- PTP_DELAY_REQUEST_SEND (R437): a Delay_Req in the default profile, a Pdelay_Req in the power-utility profile. -/
def execPtpDelayRequestSend (port : Nat) (s : State) : R :=
  .next (
    if 2 ≤ port || ptpMaster s port then s
    else ptpSend port (if field (s.reg (Reg.TIM_PTP_CFG0 + 4 * port)) 1 0 = 1 then 2 else 1) (le 8 (s.ethStamp port)) s)

/-- PARTNER_TIME_EXCHANGE (R510): a TIME message with its stamp t1; or, where the partner's with its t1 arrives, the reply with t2 and t3,
TIME_STATE and SOURCE. -/
def execPartnerTimeExchange (asked : Option Nat) (s : State) : R :=
  .next (if !s.pairLinkUp then s else match asked with
    | none => s.emit (.pair 7 (le 8 s.nowNs))
    | some t1 => s.emit (.pair 8 (le 8 t1 ++ le 8 s.nowNs ++ le 8 s.nowNs ++ le 1 (State.timeCode s.tim.state) ++ le 1 s.tim.selected)))

/-- PARTNER_TIME_REPLY (R437 to R439, R510, R618). -/
def execPartnerTimeReply (t1 t2 t3 t4 : Int) (state source : Nat) (s : State) : R :=
  .next ((s.setTim (fun t => { t with partnerLocked := state == 3 && source != 4 })).sample 4 (roundDiv ((t2 - t1) - (t4 - t3)) 2))

/-- TIM_READ (R442, R446). -/
def execTimRead (c : CmdRef) (withData : Bool) (s : State) : R :=
  .next (
    let b := le 8 s.tim.sec ++ le 4 s.tim.ns ++ le 4 s.tim.frac ++ le 8 s.nowNs ++ le 4 (toField 32 s.tim.rate)
      ++ le 4 (s.reg Reg.TIM_STEP_COUNT)
    let s := if withData then s.writeData c b else s
    s.replyWith c St.ok s.swStamp s.timStatus)

/-- The signed step TIM.STEP asks for, or none for a malformed value (R4, R446). -/
def stepAsked (s : State) (absolute : Bool) (value : Nat) : Option Int :=
  if absolute then
    (if value % 2 ^ 30 < 1000000000 then
      some (((value / 2 ^ 30 % 2 ^ 34 * 1000000000 + value % 2 ^ 30 : Nat) : Int) - s.nowNs) else none)
  else (if value % 2 ^ 64 = 0 then none else some (signedOf 64 value))

/-- TIM_STEP (R440, R446): FORCE disqualifies every source and makes the state FREE. -/
def execTimStep (c : CmdRef) (absolute force : Bool) (value : Nat) (s : State) : R :=
  .next (
    match stepAsked s absolute value with
    | none => s.reply c St.badParam
    | some d =>
      if (s.nowNs : Int) + d < 0 then s.reply c St.badParam
      else if !force && (s.tim.state == .locking || s.tim.state == .locked || s.tim.state == .holdover) && s.tim.selected != 0 then
        s.reply c 0x0210
      else
        let was := s.tim.state
        let s := if force then (s.bumpBy Reg.TIM_DISQUALIFY ([1, 2, 3, 4].filter (fun k => (s.source k).qualified)).length).setTim (fun t => { t with
            selected := 0, tickRef := false
            sources := t.sources.mapVals (fun _ x => { x with qualified := false, good := 0, sampled := false, disqualified := true }) })
          else s
        let s := s.setTim (fun t => { t with hostStepped := true, state := if force then .free else was })
        let s := s.stepTime d
        (s.timNotice 1 0 d).replyWith c St.ok (toField 32 d) 0)

/-- TIM_SOURCE_SET (R438, R439, R446). -/
def execTimSourceSet (c : CmdRef) (pin : Nat) (rearm : Bool) (s : State) : R :=
  .next (
    if 4 < pin then s.reply c St.badParam
    else
      let s := s.setTim (fun t => { t with pinned := pin, stepped := t.stepped && !rearm })
      let k := s.bestSource
      let s := if pin ≠ 0 then (if k = pin ∧ s.tim.selected ≠ pin then s.selectSource pin
          else if s.tim.selected ≠ 0 ∧ s.tim.selected ≠ pin then s.loseSelected else s)
        else s.reselect
      s.reply c St.ok)

/-- The state byte of a source in TIM.STATUS (R446). -/
def sourceCode (s : State) (k : Nat) : Nat :=
  if !s.sourceOn k then 0
  else if s.tim.selected = k then 3
  else if (s.source k).qualified then 2
  else if (s.source k).disqualified then 4
  else 1

/-- TIM_STATUS (R446). -/
def execTimStatus (c : CmdRef) (s : State) : R :=
  .next (
    let one := fun k : Nat => le 1 (sourceCode s k) ++ le 1 (s.prio k) ++ le 2 (min (s.source k).good 65535)
      ++ le 4 (State.sat32 (s.source k).offset) ++ le 4 (min (s.source k).age (2 ^ 32 - 1))
    let b := le 4 s.timStatus ++ le 4 (toField 32 s.tim.rate) ++ le 4 s.tim.holdSeconds ++ le 4 (s.reg Reg.TIM_STEP_COUNT)
      ++ [1, 2, 3, 4].flatMap one
    (s.writeData c b).replyWith c St.ok s.timStatus 0)

/-- TIM_SNAP (R448): SEC, NS and the software time-stamp are latched. -/
def execTimSnap (s : State) : R :=
  .next ((((s.setReg Reg.TIM_SNAP_SEC_LO (s.tim.sec % 2 ^ 32)).setReg Reg.TIM_SNAP_SEC_HI (s.tim.sec / 2 ^ 32 % 2 ^ 16)).setReg
    Reg.TIM_SNAP_NS s.tim.ns).setReg Reg.TIM_SNAP_SW s.swStamp)

end Sys2Proof.Machine
end

