-- ==== Sys2Proof/Machine/Dawn.lean ====
section
/-! DEFINITION. The stages of DAWN: domains, the slot that boots, reservations, what is restored and recovered, and the end of DAWN
(R67, R73, R197, R240, R264, R307, R354, R365, R367, R394, R404, R422, R456, R475, R486, R533, R545 to R549, R558, R566, R597). -/
set_option Elab.async false
namespace Sys2Proof.Machine

/-- Where a counter of the part resumes after DAWN (R197). -/
def resumeAt (n : Nat) : Nat := min (n + 65536) (2 ^ 32 - 1)

/-- The bits of a mask among `n`, each moved by `base`. -/
def maskDoms (base n m : Nat) : List Nat := ((List.range n).filter (fun k => bitAt m k)).map (· + base)

namespace State

/-! #### Domains of a stage (R540, R546) -/

/-- SIZE of DEMOD_POOL (R171, R178). -/
def demodSize (s : State) : Nat := max 16 (min 256 (s.regField Reg.RFX_DEMOD_POOL 8 0)) / 16 * 16

/-- The domains that come on with a stage. -/
def stageDomains (s : State) (k : Nat) : List Nat :=
  match k with
  | 0 => [49, 50]
  | 1 => [0, 51, 53] ++ maskDoms 54 4 s.met.vpwr ++ maskDoms 58 4 s.met.ipwr
  | 2 => [1, 2, 3, 4, 5, 6, 7, 8, 9, 10]
  | 3 => [11, 52]
  | 4 => maskDoms 12 4 s.pwr.dramChannels
  | 5 => [16, 17, 18, 19, 20, 21, 22] ++ (List.range (s.demodSize / 16)).map (· + 23) ++ [39, 40, 41, 42, 43]
      ++ (if s.pwr.srpX16 then [] else [44]) ++ [47] ++ (if s.plcaOn then [63] else [])
  | 6 => [45, 46, 62]
  | _ => []

/-- A stage begins: its domains ramp. -/
def stageBegins (k : Nat) (s : State) : State :=
  let s : State := { s with dev := { s.dev with stage := k } }
  let s := (s.stageDomains k).foldl (fun s d => s.rampOne d) s
  if k = 5 then (s.emit (.pin 7 true)).emit (.pin 8 (!s.pwr.srpX16)) else s

/-- At a stage's end its domains stand on, but for one at FAULT. -/
def stageUp (k : Nat) (s : State) : State :=
  (s.stageDomains k).foldl (fun s d => if (s.domain d).state = .ramping then s.domUp d else s) s

/-! #### D0 and D1 (R175, R197, R354, R361, R475, R488, R545, R547, R553, R558, R566) -/

/-- D0: pins are sampled, the OSP window chooses the loader port, and AON passes its flags. VBAT_MIN lies from 2 375 to 2 425 mV. -/
def dawn0 (d : DawnIn) (s : State) : State :=
  let low := decide (d.vbatMv < 2375 + Config.unstated 9 2 0 % 51)
  let powerOn := s.pwr.resetKind == .powerOn
  { s with
    pwr := { s.pwr with bootRec := d.bootRecLow, dutyOk := d.dutyOk, bcastOk := d.bcastOk }
    par := { s.par with side := d.sideB }
    svc := { s.svc with loaderPort := if d.bootRecLow then bitN d.ospLit else s.svc.loaderPort }
    aon := { s.aon with
      vbatMv := d.vbatMv, vbatLow := low, vbatLost := powerOn && !s.aon.rtcValid
      restored := if powerOn then s.aon.nightRecs.length else 0
      crcFail := (s.aon.duty.isSome && !d.dutyOk) || (s.aon.bcast.isSome && !d.bcastOk) } }

/-- The register file is put back (R545). -/
def restoreRegs (s : State) : State := s.pwr.savedRegs.foldl (fun s e => s.setKey e.1 e.2) s

/-- A recorder's saved records are put back with their next RSEQ, and RESTORED is written (R564, R566). -/
def restoreRecorder (r : Nat) (s : State) : State :=
  match s.evr.saved.get? r with
  | none => s
  | some (n, recs) =>
    let x := s.recorder r
    let first := match recs.head? with | some e => e.1 | none => n
    let x : Recorder := { x with next := n, oldest := first, recs := recs, restored := true }
    s.setRecorder r (x.offer { source := 0x15, kind := 3, code := 2, stamp := s.stamp, payload := [(recs.length : Int)] }).1

/-- D1 begins: the register file and the records come back, and the transition to DAWN is logged (R67, R545, R566). -/
def dawn1Begins (s : State) : State :=
  let s := if s.pwr.resetKind = .powerOn then s else (List.range 7).foldl (fun s r => s.restoreRecorder r) s.restoreRegs.fixedGains
  s.log 5 0 1 (devCode s.pwr.cameFrom * 256 + devCode .dawn) (s.reg Reg.GLB_STATE_CAUSE % 256)

/-- MET takes a calibration copy, or none is valid (R354). -/
def calChoose (s : State) : State :=
  let a := s.met.copies.getD 0 []
  let b := s.met.copies.getD 1 []
  let pick := if calHolds a && (!calHolds b || decide (calGen b ≤ calGen a)) then some 0 else if calHolds b then some 1 else none
  match pick with
  | some k => s.setMet (fun m => { m with sel := k, calValid := true })
  | none =>
    let s := s.setMet (fun m => { m with calValid := false, sealState := 2 })
    if s.met.sealCount < 2 ^ 32 - 1 then s.sealEvent 5 0 0 [] else s.auditNow 5 0 0 0

/-- Metrology starts (R351, R354, R360, R361) where the Midnight die was reset; a store cut after step 4 is closed by an entry (R357). -/
def metStart (s : State) : State :=
  let led := s.sealLed
  let s := if s.pwr.resetKind = .powerOn ∨ s.pwr.resetKind = .duskReturn then
      let latest := match s.met.audit.getLast? with | some e => leAt e 16 4 | none => 0
      let s := s.setMet (fun m => { m with sealCount := max m.sealCount latest, energy := m.saved })
      s.calChoose
    else s
  let s := match s.met.store with
    | some x => if x.audited then s.auditNow 2 0 s.calGenNow (calGen x.set) else s
    | none => s
  (s.setMet (fun m => { m with store := none, waiting := [] })).ledLook led

/-- D1 ends: both PLLs are locked, straps are sampled, metrology runs; BOOT_REC_N low leads to RECOVERY (R543, R547, R597). -/
def dawn1 (d : DawnIn) (s : State) : State :=
  let s : State := { s with pwr := { s.pwr with refOk := true, pllLock := true, srpX16 := d.srpX16, ethSpd := d.ethSpd % 4 } }
  let s := s.metStart
  if s.pwr.bootRec then s.enterRecovery 0x0C false else s

/-! #### D2 and D3 (R74, R75, R86, R365, R367, R404, R406, R412, R456, R546, R549) -/

/-- D2 ends: the lanes that fail their test are down, the ROM has chosen a slot, and its image runs; with none, RECOVERY. -/
def dawn2 (d : DawnIn) (s : State) : State :=
  let s : State := { s with cmd := { s.cmd with lanesUp := s.cmd.lanesUp &&& d.lanePass % 8 } }
  let s := if s.lanesUpCount < 2 then s.laneFault else s
  let s := s.domDown 1
  match s.chooseSlot (fun k => if k = 0 then d.sigA else d.sigB) with
  | (none, s) => ({ s with svc := { s.svc with loaderPort := 0 } } : State).enterRecovery 0x0D false
  | (some k, s) =>
    let h := s.slotHeader k
    { s with
      dev := { s.dev with fwId := pkFwId h, fwDigest := pkImageDigest h }
      upd := { s.upd with slot := k }, hbr := { s.hbr with subsys := pkSubsys h } }

/-- NIGHT's records go to the audit trail (R365): those recorded, oldest first, then one entry for each alarm only counted. A terminal
record sets TERM_SUSPECT, and a cover record begins tamper hold (R366, R549). -/
def nightAudit (s : State) : State :=
  let l := s.aon.nightRecs
  let more := s.aon.nightAlarms - l.length
  let s := l.foldl (fun s r => s.auditAdd 8 (r.input + 16 * r.cls) r.time s.met.sealCount 0 0 []) s
  let s := (List.range more).foldl (fun s k => s.auditAdd 8 (Config.unstated 10 k 0 % 256) 0 s.met.sealCount 0 0 []) s
  let n := fun (c : Nat) => (l.filter (fun r => r.cls == c)).length
  let s := s.setMet (fun m => { m with
    covers := satAdd 32 m.covers (n 0), terms := satAdd 32 m.terms (n 1), termSuspect := m.termSuspect || n 1 != 0 })
  let s := { s with aon := { s.aon with nightRecs := [] } }
  if n 0 != 0 then s.beginHold else s

/-- D3 ends: a fresh challenge; and, but at a Noon or loader restart, SEED and DEV in BLANK, NIGHT's records, and the event of R367. -/
def dawn3 (s : State) : State :=
  let s := s.newChallenge
  if s.pwr.resetKind = .noonRestart ∨ s.pwr.resetKind = .loaderRestart then s
  else
    let s := if s.dev.life = 0 ∧ s.kvt.seed.isNone then
        let seed := fit 48 (Config.freeBytes 7)
        s.setKvt (fun v => { v with seed := some seed, dev := some (privateOf seed "FB96DEVK") })
      else s
    let led := s.sealLed
    let s := s.nightAudit
    let s := if s.aon.vbatLost then (s.auditNow 9 0 0 0).beginHold else s
    s.ledLook led

/-! #### D4 (R107, R236, R291, R337, R380, R422, R430, R469, R548, R597) -/

/-- KiB reserved ahead of ARC. -/
def reservedKib (bilqMib : Nat) : Nat :=
  256 * 1024 + (2 * 2 ^ 20 + 64 * 1024 + 2 ^ 20 + bilqMib * 1024 + 256) + 640 * 1024 + (2 * 2 ^ 20 + 192 + 8 * 1024) + 460 * 1024 + 16 * 1024

/-- DRAM is reserved in order: ARC's map and the held ring are reduced to what fits, and their registers then read so. A held ring smaller
than before loses every held entry, completions included (R109). -/
def reserveDram (s : State) : State :=
  let inRange := fun (v lo hi d : Nat) => if lo ≤ v ∧ v ≤ hi then v else d
  let total := s.pwr.dramGib * 2 ^ 20
  let bilq := inRange (s.regField Reg.ING_BILQ_CFG 12 0) 64 4096 1024
  let hold := inRange (s.regField Reg.ARC_HOLD_CFG 13 0) 64 8192 1024
  let asked := max 1 (min 1024 (s.regField Reg.ARC_MAP_CFG 10 0))
  let fixed := reservedKib bilq + (hold + 64) * 1024
  let units := min asked ((total - fixed) / (16 * 1024))
  let used := fixed + units * 16 * 1024
  let gib := inRange (s.regField Reg.HBR_HELD_CTRL 5 0) 1 32 4
  let held := min gib ((total - used) / 2 ^ 20)
  let s := if units = asked then s else s.setReg Reg.ARC_MAP_CFG (putField (s.reg Reg.ARC_MAP_CFG) 10 0 units)
  let s := if held = gib then s else s.setReg Reg.HBR_HELD_CTRL (putField (s.reg Reg.HBR_HELD_CTRL) 5 0 held)
  let s := s.setReg Reg.PWR_DRAM_RESERVED (ceilDiv (used + held * 2 ^ 20) 1024)
  { s with
    ing := { s.ing with bilqMib := bilq }, arc := { s.arc with mapUnits := units, holdMib := hold }
    hbr := { s.hbr with heldGib := held, held := if held < s.hbr.heldGib then [] else s.hbr.held }
    cmd := { s.cmd with owedHeld := if held < s.hbr.heldGib then [] else s.cmd.owedHeld } }

/-- Do the channels train (R597)? All are populated and each reaches a rate. -/
def dramTrains (s : State) (d : DawnIn) : Bool :=
  s.pwr.dramChannels == 15 && (List.range 4).all (fun k => [6400, 5600, 4800].contains (d.dramRates.getD k 0))

/-- D4 ends: the rates are logged, DRAM is reserved, KVT's mirror is loaded, the records verified are redone, and NKEK values are
delivered (R422, R424). -/
def dawn4 (d : DawnIn) (s : State) : State :=
  let s := (List.range 4).foldl (fun s k => s.log 0 0x03 5 k (d.dramRates.getD k 0)) s
  let s := s.reserveDram
  let n := (s.kvt.ops.filter (fun o => o.stage == .record)).length
  let s := s.setKvt (fun v => { v with mirSet := v.setGens.mapVals (fun _ e => e.1), mirNgen := v.ngen, redone := n })
  let s := if n = 0 then s else s.kvtNotice 6 0 n
  if s.dev.tamperHold then s else s.deliverNkek

/-! #### D5 (R164, R171, R174, R175, R434, R435, R290) -/

/-- D5 begins: pools are sized, a port without a clock stays down, the duty state and device time start. -/
def dawn5Begins (s : State) : State :=
  let s : State := { s with
    plc := { s.plc with poolSize := max 65536 (min 1048576 (s.regField Reg.PLC_TMAP_POOL 20 0)), cfg := { s.plc.cfg with netEui := s.dev.eui } }
    rfx := { s.rfx with poolSize := s.demodSize }
    msh := { s.msh with cfg := { s.msh.cfg with netEui := s.dev.eui } } }
  let s := [0, 1].foldl (fun s p => s.modPort p (fun x => { x with down := !x.clk })) s
  (s.dutyRestore s.pwr.dutyOk).timStart

/-- D5 ends: the controllers have been enumerated, and ARC_STATE becomes RECOVERING with HOLD_CAUSES bit [4] set. -/
def dawn5 (d : DawnIn) (s : State) : State :=
  ({ s with arc := { s.arc with found := d.found, phase := .recovering } } : State).holdCause 4 true

/-! #### D6 (R73, R197, R240, R264, R305, R307, R319, R389, R394, R422, R533) -/

/-- VIN loads its table (R533). -/
def vinLoad (s : State) : State :=
  let up := fun (i : Nat) =>
    let x := s.vin.saved.getD i {}
    (i, { x with epoch := (x.epoch + 1) % 256, cause := 0, fences := 0, fence := none, state := if x.state = .fencing then .ready else x.state })
  { s with vin := { s.vin with insts := (List.range 16).map up } }

/-- Key sets and blobs come from the checkpoint, and the records verified are done on it (R422). -/
def kvtLoad (s : State) : State :=
  let s := s.setKvt (fun v => match v.ckpt with | some x => { v with sets := x.1, blobs := x.2, ckpt := none } | none => v)
  let s := s.kvt.ops.foldl (fun s o => if o.stage = .record then s.applyMirror o.change else s) s
  s.setKvt (fun v => { v with ops := v.ops.filter (fun o => o.stage != .record) })

/-- ING loads the contexts and rolls forward over the durable records (R264). -/
def ingLoad (s : State) : State :=
  let s := s.setIng (fun g => { g with
    ctxs := g.ckpt.mapVals (fun _ x => { Ctx.noSets x with txFcnt := resumeAt x.txFcnt, txNseq := resumeAt x.txNseq }), loaded := true })
  let s := (s.blocksAbove.flatMap Block.records).foldl (fun s b => s.raiseWindows (recOf b)) s
  let l := s.arc.savedBackfill
  let s := s.setIng (fun g => { g with rollDone := true, backfill := l, backfillPresent := !l.isEmpty })
  let s := if l.isEmpty then s else s.ingNotice 9 0 0 l.length
  (s.ingNotice 8 0 0 0).gateNotices

/-- Deletions and evacuations under way go on: a namespace being deleted has no streams bound (R316, R319). -/
def arcGoesOn (s : State) : State :=
  let s := s.setArc (fun a => { a with
    nss := a.nss.mapVals (fun n c => if s.deleting n then { c with classes := 0 } else c)
    dels := a.dels.map (fun d => { d with aens := (a.map.filter (fun e => d.aens.contains e.1 || (d.whole && e.2.info.ns == d.ns))).map (·.1) }) })
  s.arc.drives.keys.foldl (fun s k => s.leaveSet k) s.journalGo

/-- MSH's broadcast counter resumes at the greater of its sources (R197). -/
def bcastResume (s : State) : State :=
  let a := if s.pwr.bcastOk then (s.aon.bcast.map resumeAt).toList else []
  let b := if s.arcFound || s.arcUp then s.msh.bcastSaved.toList else []
  match a ++ b with
  | [] => s
  | l =>
    let v := l.foldl max 0
    { s with msh := { s.msh with
      bcast := v, restored := true, bcastCeil := max (if v % 65536 = 0 then v else roundUp v 65536) (s.msh.bcastSaved.getD 0) } }

/-- BIL does what its journal holds verified and restores its queue (R389, R394). -/
def bilRestore (s : State) : State :=
  let s := match s.bil.accept with
    | some a => if a.verified then
          (s.setLedger a.endpoint (fun l => { l with lastId := a.lastId, window := a.window })).setBil (fun b => { b with replayed := true })
        else s
    | none => s
  s.setBil (fun b => { b with accept := none, queue := b.saved })

/-- What follows ARC's recovery: VIN's table, key sets, contexts and the owed completions, where the archive is up. -/
def afterRecovery (s : State) : State :=
  let s := s.bcastResume
  if s.arcFound then
    let clean := !s.arc.unclean
    let s := s.vinLoad.kvtLoad
    let s : State := if clean then s else { s with cmd := { s.cmd with owed := [], owedHeld := [], resumed := [] } }
    s.deliverOwed.ingLoad.arcOpens.arcGoesOn
  else { s with cmd := { s.cmd with owed := [], owedHeld := [], resumed := [] } }

/-! #### D7 (R67, R456, R462, R486, R549) -/

/-- DAWN completes under R67. -/
def dawnDone (s : State) : State :=
  let held := s.regBit Reg.GLB_BOOT_CTRL 0 || s.reg Reg.GLB_HOLD_CAUSES != 0
  let s := if held then s.enterState .twilight 0x0E else s.enterState .day 0x02
  let b := s.boot
  let pending := b.pendValid && b.pending == s.upd.slot
  let s : State := if pending then { s with upd := { s.upd with confirmFrom := some s.dev.nc, warned := false } } else s
  if s.upd.fellBack then s.updNotice 6 0 s.dev.fwId else s

/-- D7: the role is taken, unless tamper hold still waits. -/
def dawn7 (i : ClaimIn) (s : State) : State :=
  if s.dev.tamperHold then { s with pwr := { s.pwr with d7Waiting := true } }
  else
    let s : State := { s with pwr := { s.pwr with d7Waiting := false } }
    let s := if s.regBit Reg.PAR_CTRL 0 then s.enterStandby else (s.claim true i).1
    s.dawnDone

/-! #### A stage ends -/

/-- The work at the end of a stage, and what the next one begins with. -/
def stageWork (d : DawnIn) (k : Nat) (s : State) : State :=
  match k with
  | 0 => s.dawn0 d
  | 1 => s.dawn1 d
  | 2 => s.dawn2 d
  | 3 => s.dawn3
  | 4 => s.dawn4 d
  | 5 => s.dawn5 d
  | 6 => (s.arcRecover s.arc.found).afterRecovery.bilRestore
  | _ => s.dawn7 d.claim

/-- The stage after `k` begins, where DAWN goes on. -/
def nextStage (k : Nat) (s : State) : State :=
  if s.dev.state ≠ .dawn ∨ 7 ≤ k then s
  else
    let s := s.stageBegins (k + 1)
    if k = 0 then s.dawn1Begins else if k = 4 then s.dawn5Begins else s

/-- May a stage end: D0 waits for SYS_RST_N (R551), D4 for channels that train (R597), every stage for the test port (R483)? -/
def stageMayEnd (s : State) (d : DawnIn) : Bool :=
  s.dev.state == .dawn && !s.svc.tapHold && !(s.dev.stage == 0 && s.pwr.sysRst) && (s.dev.stage != 4 || s.dramTrains d)

end State

/-- DAWN_STAGE_END (R546 to R549). -/
def execDawnStageEnd (d : DawnIn) (s : State) : R :=
  .next (
    if !s.stageMayEnd d then s
    else
      let k := s.dev.stage
      let s : State := { s with pwr := { s.pwr with stageTime := s.pwr.stageTime.put k (min d.timeUs (2 ^ 32 - 1)) } }
      ((s.stageUp k).stageWork d k).nextStage k)

/-- ARC_DRIVE_REJOIN (R308, R314): after FAILED, the set is assembled again once the missing drive is back. -/
def execArcDriveRejoin (c : CmdRef) (disc slot : Nat) (s : State) : R :=
  .next (
    match s.ctrl disc with
    | none => s.reply c 0x0113
    | some d =>
      if s.arc.phase ≠ .failed then s.reply c St.stateConflict
      else if !s.labelOf slot d ∨ ¬s.arc.journal.contains slot then s.reply c 0x0810
      else
        let s := ((s.replyQueued c).arcRecover s.arc.found).afterRecovery
        s.reply c (if s.arcUp then St.ok else St.stateConflict))

end Sys2Proof.Machine
end

