-- ==== Sys2Proof/Machine/EpCmds.lean ====
section
/-! DEFINITION. The EP commands, which take effect when their checkpoint write is durable, the write-back of contexts, and the end of
every checkpoint write (R233, R237 to R240, R266, R422, R578). -/
set_option Elab.async false
namespace Sys2Proof.Machine

/-- Bitmaps of a new window: all ones (R266). -/
abbrev onesMap : Nat := 2 ^ 64 - 1

/-- Are the FLAGS and KIND a command gives sound (R238, R266): bits [0], [3] and [7] 0? -/
def epFlagsOk (kind flags : Nat) : Bool := decide (kind < 8) && decide (flags < 128) && !bitAt flags 0 && !bitAt flags 3

/-- The 256 KiB backfill bitmap, index 0 in bit [0] of byte 0 (R266). -/
def backfillBytes (l : List Nat) : Bytes :=
  (List.range 262144).map (fun k => BitVec.ofNat 8 ((List.range 8).foldl (fun a i => a + bitN (l.contains (8 * k + i)) * 2 ^ i) 0))

namespace State

/-! #### Checks (R266) -/

/-- Is there room for one more pinned context of an instance (R239, R526)? -/
def pinRoom (s : State) (i : Nat) : Bool := decide (s.pinsAll < 4096) && decide (s.pinsOf i < (s.inst i).quota.pinMax)

/-- Is a key-set handle one of an instance (R266)? -/
def keysetOk (s : State) (handle i : Nat) : Bool := s.kvt.sets.get? handle == some i

/-- The lowest free index (R266). -/
def freeIndex (s : State) : Option Nat :=
  (List.range (s.ing.ctxs.length + 1)).find? (fun i => (s.epAt i).isNone && decide (i < 2097152))

/-- May a command name an index: VALID, and of its own instance but on the manager queue (R266)? The answer is the status. -/
def epStatus (s : State) (c : CmdRef) (i : Nat) : Nat :=
  match s.epAt i with
  | none => 0x0112
  | some x => if c.queue ≠ 256 ∧ x.inst ≠ c.inst then St.notAuthorized else St.ok

/-- The unit checks of EP.CREATE in order (R266), with the RESULT0 of QUOTA. -/
def createStatus (s : State) (k : EpCmd) (x : Ctx) (auto : Bool) : Nat × Nat :=
  let q := (s.inst k.cmd.inst).quota
  if (s.epOf x.eui).isSome then (0x0110, 0)
  else if auto && s.freeIndex.isNone then (St.noSpace, 0)
  else if !auto && (s.epAt k.index).isSome then (0x0111, 0)
  else if !s.keysetOk x.keyset k.cmd.inst then (St.keyAbsent, 0)
  else if q.epMax ≤ s.epsOf k.cmd.inst then (0x0510, q.epMax)
  else if x.pin && !s.pinRoom k.cmd.inst then (0x0511, 0)
  else if !s.ckptWritable then (0x0512, 0)
  else (St.ok, 0)

/-- The unit checks of a change to a context that exists (R266). -/
def changeStatus (s : State) (k : EpCmd) : Nat × Nat :=
  let st := s.epStatus k.cmd k.index
  let x := s.ctx k.index
  if st ≠ St.ok then (st, 0)
  else
    let own := match k.change with
      | .attr _ flags _ _ _ _ => if bitAt flags 4 && !x.pin && !s.pinRoom x.inst then 0x0511 else St.ok
      | .keyset h => if s.keysetOk h x.inst then St.ok else St.keyAbsent
      | .txctr f n => if f < x.txFcnt ∨ n < x.txNseq then St.badParam else St.ok
      | _ => St.ok
    if own ≠ St.ok then (own, 0) else if s.ckptWritable then (St.ok, 0) else (0x0512, 0)

/-! #### The changes (R240, R266) -/

/-- A context after a change. -/
def Ctx.changed (x : Ctx) : EpChange → Ctx
  | .create c => { c with gen := (x.gen + 1) % 2 ^ 32 }
  | .attr kind flags profile tv tn feeder =>
    { x with kind := kind, flags := flags + 1, profile := profile, topoValid := tv, topoNode := tn, feeder := feeder }
  | .keyset h => { x with keyset := h }
  | .rxwin a b c d => { x with fcntH := a, fcntMap := b, nseqH := c, nseqMap := d }
  | .txctr f n => { x with txFcnt := f, txNseq := n }
  | .readwin w => { x with wins := (List.range 6).zip w }
  | .pathclr => { x with lastAccFcnt := 0, lastAccRts := 0, lastAccPath := 0, paths := [] }
  | .snapclr => { x with regSnap := [], regEts := 0, outStart := 0, outEnd := 0, outages := 0, counts := [], gaps := 0 }
  | .host b => { x with host := b }
  | .delete =>
    { x with
      flags := putBit x.flags 0 false, slots := [], rxHandle := 0, txHandle := 0, mapStamp := 0, chainMask := 0, current := 0
      routePinned := false, txSet := 0, homePort := 0, homeCh := 0, homeRate := 0, upRelays := 0, lastSync := 0, upRoute := []
      lastCollector := 0, viaCollector := false, heardPort := 0, heardCh := 0, heardRate := 0 }

/-- FSE's notices of an endpoint start afresh (R234). -/
def forgetFse (i : Nat) (s : State) : State :=
  { s with fse := { s.fse with orphaned := s.fse.orphaned.erase i, replays := s.fse.replays.del i } }

/-- A change takes effect in the context and stands in the checkpoint area, which a write-back of that context under way does not take from
it (R239, R240, R266). -/
def applyChange (k : EpCmd) (s : State) : State :=
  let s := match k.change with
    | .delete => ((s.plcRelease k.index).mshRelease k.index).endNightSends k.index
    | _ => s
  let x := Ctx.changed (s.ctx k.index) k.change
  let x := match k.change with | .create _ => { x with created := s.stamp } | _ => x
  let s := s.putCtx k.index x
  let s : State := { s with ing := { s.ing with
    ckpt := s.ing.ckpt.put k.index x
    jobs := s.ing.jobs.mapVals (fun _ j => match j with | .ctx i y => if i = k.index then .ctx i x else .ctx i y | j => j) } }
  let s := match k.change with
    | .create _ => s.forgetFse k.index
    | .keyset _ => s.forgetFse k.index
    | .delete => { s with ing := { s.ing with cache := s.ing.cache.erase k.index } }
    | _ => s
  if x.valid && x.pin then (s.cacheTouch k.index).1 else s

/-- RESULT0 and RESULT1 of a change (R266). -/
def changeResult (s : State) (k : EpCmd) : Nat × Nat :=
  match k.change with
  | .create _ => (k.index, (s.ctx k.index).gen % 2 ^ 16)
  | _ => (0, 0)

/-! #### One at a time (R240) -/

/-- The lines of a context go to the checkpoint area in namespace 0 (R240, R292). -/
def ckptWrite (i : Nat) (x : Ctx) (s : State) : State := s.sysWrite 3 (i / 4096) (i % 4096 * 1024) (s.ctxBytes i x)

/-- The command at the head of the line makes its unit checks and begins its write; one that fails completes, and the next begins. -/
def beginEp : Nat → State → State
  | 0, s => s
  | n + 1, s =>
    match s.ing.epq with
    | [] => s
    | k :: t =>
      let auto := match k.change with | .create x => bitAt x.flags 7 | _ => false
      let k := if auto then { k with index := s.freeIndex.getD k.index } else k
      let k := match k.change with
        | .create x => if auto then { k with change := .create { x with flags := putBit x.flags 7 false } } else k
        | _ => k
      let st := match k.change with | .create x => s.createStatus k x auto | _ => s.changeStatus k
      if st.1 = St.ok then ((s.setIng (fun g => { g with epq := k :: t })).startJob .ep).ckptWrite k.index (Ctx.changed (s.ctx k.index) k.change)
      else beginEp n ((s.setIng (fun g => { g with epq := t })).replyWith k.cmd st.1 st.2 0)

/-- A command joins the line; the first begins at once (R240). -/
def queueEp (k : EpCmd) (s : State) : State :=
  let first := s.ing.epq.isEmpty
  let s := s.setIng (fun g => { g with epq := g.epq ++ [k] })
  if first then s.beginEp 1 else s

/-- The write of the command in execution has ended (R240). -/
def epDone (ok : Bool) (s : State) : State :=
  match s.ing.epq with
  | [] => s
  | k :: t =>
    let s := s.setIng (fun g => { g with epq := t })
    let s := if ok then
        let s := s.applyChange k
        let r := s.changeResult k
        s.replyWith k.cmd St.ok r.1 r.2
      else s.reply k.cmd 0x0512
    s.beginEp (s.ing.epq.length + 1)

/-! #### Write-back (R240, R302) -/

/-- A dirty context's write begins. -/
def writeBack (i : Nat) (s : State) : State :=
  if s.ing.dirty.contains i && s.ckptWritable then
    ((s.setIng (fun g => { g with dirty := g.dirty.erase i })).startJob (.ctx i (s.ctx i))).ckptWrite i (s.ctx i)
  else s

/-- A context's write has ended; one that failed leaves it dirty. -/
def backDone (i : Nat) (x : Ctx) (ok : Bool) (s : State) : State :=
  if ok then
    (s.setIng (fun g => { g with
      ckpt := g.ckpt.put i x, dirtyAt := if g.dirty.contains i then g.dirtyAt else g.dirtyAt.del i })).reportHorizon
  else s.setIng (fun g => { g with dirty := if g.dirty.contains i then g.dirty else g.dirty ++ [i] })

/-- The broadcast counter's ceiling is durable, or is written again (R197). -/
def bcastDone (ceil : Nat) (ok : Bool) (s : State) : State :=
  if ok then s.setMsh (fun m => { m with bcastCeil := max m.bcastCeil ceil, bcastSaved := some (max m.bcastCeil ceil) }) else s.startJob (.bcast ceil)

end State

/-- CONTEXT_CHECKPOINT (R240); ING begins no write once DUSK is entered (R263). -/
def execContextCheckpoint (index : Nat) (s : State) : R := .next (if s.begun 6 then s.writeBack index else s)

/-- CHECKPOINT_WRITE_DONE (R233, R240, R422, R578): the write of an identity is durable on both copies, or has failed; `recordOk` says
whether the vault's commit record that follows a key command's write verifies (R422). -/
def execCheckpointWriteDone (id : Nat) (ok recordOk : Bool) (s : State) : R :=
  .next (
    match s.ing.jobs.get? id with
    | none => s
    | some j =>
      let s := s.endJob id
      match j with
      | .ep => s.epDone ok
      | .ctx i x => s.backDone i x ok
      | .bcast n => s.bcastDone n ok
      | .group place n medium send => s.groupJobDone place n medium send ok
      | .key op => s.keyJobDone op ok recordOk)

/-- EP_CREATE (R237, R239, R240, R266, R526). AUTO travels in FLAGS bit [7] of the waiting command. -/
def execEpCreate (c : CmdRef) (p : EpIn) (s : State) : R :=
  .next (
    if !epFlagsOk p.kind p.flags || decide (p.feeder = 0xFFFF) || decide (p.txNseq = 0) || decide (p.txFcnt = 0) then s.reply c St.badParam
    else
      let x : Ctx := { eui := p.eui, inst := c.inst, kind := p.kind, flags := putBit (p.flags + 1) 7 p.auto, profile := p.profile
                       topoValid := p.topoValid, topoNode := p.topoNode, feeder := p.feeder, keyset := p.keyset, fcntH := p.fcntH
                       fcntMap := onesMap, nseqH := p.nseqH, nseqMap := onesMap, txFcnt := p.txFcnt, txNseq := p.txNseq }
      s.queueEp { cmd := c, index := p.index, change := .create x })

/-- EP_READ (R266): the lines of one snapshot. -/
def execEpRead (c : CmdRef) (index firstLine lines : Nat) (s : State) : R :=
  .next (
    if lines = 0 ∨ 16 < firstLine + lines then s.reply c St.badParam
    else
      let st := s.epStatus c index
      if st ≠ St.ok then s.reply c st
      else (s.writeData c (slice (s.ctxBytes index (s.ctx index)) (64 * firstLine) (64 * lines))).reply c St.ok)

/-- EP_WRITE_ATTR (R239, R240, R266). -/
def execEpWriteAttr (c : CmdRef) (index : Nat) (p : EpAttr) (s : State) : R :=
  .next (if s.dataHeld c then s else if !epFlagsOk p.kind p.flags || decide (p.feeder = 0xFFFF) then s.reply c St.badParam
    else s.queueEp { cmd := c, index := index, change := .attr p.kind p.flags p.profile p.topoValid p.topoNode p.feeder })

/-- EP_WRITE_KEYSET (R240, R266). -/
def execEpWriteKeyset (c : CmdRef) (index keyset : Nat) (s : State) : R :=
  .next (if s.dataHeld c then s else s.queueEp { cmd := c, index := index, change := .keyset keyset })

/-- EP_WRITE_RXWIN (R229, R240, R266). -/
def execEpWriteRxwin (c : CmdRef) (index fcntH fcntMap nseqH nseqMap : Nat) (s : State) : R :=
  .next (if s.dataHeld c then s else s.queueEp { cmd := c, index := index, change := .rxwin fcntH fcntMap nseqH nseqMap })

/-- EP_WRITE_TXCTR (R240, R266). -/
def execEpWriteTxctr (c : CmdRef) (index fcnt nseq : Nat) (s : State) : R :=
  .next (if s.dataHeld c then s else s.queueEp { cmd := c, index := index, change := .txctr fcnt nseq })

/-- EP_WRITE_READWIN (R240, R266): HIGH_SEQ, SEQ_MAP and LAST_ETS of classes 0 to 5. -/
def execEpWriteReadwin (c : CmdRef) (index : Nat) (wins : List (Nat × Nat × Nat)) (s : State) : R :=
  .next (if s.dataHeld c then s else s.queueEp { cmd := c, index := index, change := .readwin (wins.map (fun w => { high := w.1, map := w.2.1, lastEts := w.2.2 })) })

/-- EP_WRITE_PATHCLR (R240, R266). -/
def execEpWritePathclr (c : CmdRef) (index : Nat) (s : State) : R := .next (s.queueEp { cmd := c, index := index, change := .pathclr })

/-- EP_WRITE_SNAPCLR (R240, R266). -/
def execEpWriteSnapclr (c : CmdRef) (index : Nat) (s : State) : R := .next (s.queueEp { cmd := c, index := index, change := .snapclr })

/-- EP_WRITE_HOST (R240, R266). -/
def execEpWriteHost (c : CmdRef) (index : Nat) (area : Bytes) (s : State) : R :=
  .next (if s.dataHeld c then s else s.queueEp { cmd := c, index := index, change := .host (fit 128 area) })

/-- EP_DELETE (R240, R266). -/
def execEpDelete (c : CmdRef) (index : Nat) (s : State) : R := .next (s.queueEp { cmd := c, index := index, change := .delete })

/-- EP_LOOKUP (R266): the index, and on the manager queue the instance. -/
def execEpLookup (c : CmdRef) (eui : Nat) (s : State) : R :=
  .next (match s.epOf eui with
    | none => s.reply c 0x0112
    | some (i, x) =>
      if c.queue = 256 then s.replyWith c St.ok i x.inst
      else if x.inst = c.inst then s.replyWith c St.ok i 0
      else s.reply c 0x0112)

/-- EP_STATS (R266): SCOPE 0 an endpoint, SCOPE 1 the command's instance. -/
def execEpStats (c : CmdRef) (index scope : Nat) (s : State) : R :=
  .next (
    if scope = 0 then
      let st := s.epStatus c index
      if st ≠ St.ok then s.reply c st
      else
        let b := s.ctxBytes index (s.ctx index)
        (s.writeData c (slice b 448 192 ++ slice b 832 64)).reply c St.ok
    else if scope = 1 then
      let i := c.inst
      let b := (List.range 7).flatMap (fun k => le 4 (s.ing.formed.getD (i * 8 + k) 0))
        ++ (List.range 4).flatMap (fun k => le 4 (s.ing.counts.getD (i * 4 + k) 0))
        ++ le 4 (s.epsOf i) ++ le 4 ((s.ing.buffer.filter (fun f => f.inst == i)).map (·.slots)).sum
      (s.writeData c (fit 128 b)).reply c St.ok
    else s.reply c St.badParam)

/-- EP_STATS_BACKFILL (R266): the bitmap goes out; the command completes when its last TLP is acknowledged. -/
def execEpStatsBackfill (c : CmdRef) (s : State) : R :=
  .next (if c.queue ≠ 256 then s.reply c St.notAuthorized
    else (s.writeData c (backfillBytes s.ing.backfill)).setIng (fun g => { g with backfillRead := some c }))

/-- BACKFILL_TLP_ACKNOWLEDGED (R266): the bitmap and BACKFILL_PRESENT clear, unless the command has ended meanwhile. -/
def execBackfillTlpAcknowledged (s : State) : R :=
  .next (match s.ing.backfillRead with
    | none => s
    | some c =>
      let s := s.setIng (fun g => { g with backfillRead := none })
      if s.cmd.cmds.any (fun k => k.queue == c.queue && k.tag == c.tag) && !(s.cmd.results.any (fun r => r.queue == c.queue && r.tag == c.tag)) then
        (s.setIng (fun g => { g with backfill := [], backfillPresent := false })).reply c St.ok
      else s)

end Sys2Proof.Machine
end

