-- ==== Sys2Proof/Machine/Los.lean ====
section
/-! DEFINITION. The events and commands of the loss engine (R323 to R341). -/
set_option Elab.async false
namespace Sys2Proof.Machine

/-- Is LOS.CONFIG in range (R339)? -/
def losCfgOk (p : LosCfgIn) : Bool :=
  [300, 600, 900, 1200, 1800, 3600].contains p.balS && decide (p.graceS ≤ 62 * p.balS) && decide (p.coverMin ≤ 1000)
    && decide (1 ≤ p.flagM ∧ p.flagM ≤ 8) && decide (1 ≤ p.flagN ∧ p.flagN ≤ p.flagM) && decide (1 ≤ p.histStep ∧ p.histStep ≤ 65535)
    && decide (96 ≤ p.phWindow ∧ p.phWindow ≤ 4095)

/-- The configuration LOS.CONFIG gives. -/
def losCfgOf (p : LosCfgIn) : LosCfg :=
  { balS := p.balS, graceS := p.graceS, coverMin := p.coverMin, flagM := p.flagM, flagN := p.flagN, absMin := p.absMin
    relPpm := p.relPpm, histStep := p.histStep, phWindow := p.phWindow, phRmin := p.phRmin, phMargin := p.phMargin }

/-- The 16 bytes of a phase result (R336); PHASE 3 and zeros where there is none to show. -/
def phaseBytes (p : Option PhaseAcc) (suspended : Bool) : Bytes :=
  match p with
  | none => le 1 3 ++ zeros 15
  | some p =>
    le 1 (p.phase + 4 * p.conf + 16 * bitN p.mismatch + 32 * bitN suspended) ++ zeros 1
      ++ (List.range 3).flatMap (fun k => le 2 (toField 16 (p.r.getD k 0))) ++ le 4 p.n ++ le 4 p.windows

namespace State

/-- Every open lane closes at once as CLOSED_EARLY, and histories are cleared (R337). -/
def closeEarly (s : State) : State :=
  let s := s.los.lanes.foldl (fun s e =>
    match s.treeAt e.1 with
    | none => s
    | some t => (((List.range t.length).reverse).foldl (fun s n =>
        let x := s.los.nodes.getD n {}
        s.storeResult n { start := e.1, status := 5, ntlFlag := x.ntlFlag, negFlag := x.negFlag, queueLoss := e.2.queueLoss }) s).bump
          Reg.LOS_LANES_CLOSED) s
  s.setLos (fun l => { l with lanes := [], nodes := l.nodes.mapVals (fun _ x => { x with hist := [] }) })

/-- The first interval that new values of BAL_S and GRACE_S leave to close: no interval that has closed opens again (R328, R337; DESIGN
CHOICE, log entry 141, for intervals of the new length that overlap a closed one). -/
def firstOpen (s : State) (p : LosCfgIn) : Nat :=
  let ends := s.los.lanes.foldl (fun m e => max m (e.1 + s.los.cfg.balS)) s.los.next
  let up := fun (n : Nat) => (n + p.balS - 1) / p.balS * p.balS
  match s.los.trees with
  | [] => 0
  | (a, _) :: _ => max (max (up a) (up ends)) ((s.nowSec - p.graceS) / p.balS * p.balS)

/-- May the command's sender see a node's results (R340)? -/
def losSees (c : CmdRef) (nd : LosNodeIn) : Bool := c.queue == 256 || bitAt nd.instMask c.inst

/-- The result of a node that LOS.RESULT.READ writes (R332, R339, R340). -/
def resultBytes (s : State) (c : CmdRef) (n : Nat) (nd : LosNodeIn) (start : Nat) : Bytes :=
  if !losSees c nd then le 2 n ++ le 1 0xFF ++ zeros 61
  else
    let rs := s.los.results.getD n []
    let r := if start = 0 then rs.head? else rs.find? (fun r => r.start * 2 ^ 30 == start)
    match r with
    | some r => r.bytes n
    | none => le 2 n ++ le 1 5 ++ zeros 61

end State

/-- LOS_RECORD_TAKE (R326, R328, R335, R337): the record at the head of the LOS queue, while LOS runs. -/
def execLosRecordTake (s : State) : R :=
  .next (if !s.losRuns then s else
    match s.ing.losq with
    | [] => s
    | r :: rest =>
      let s := (s.setIng (fun g => { g with losq := rest })).bump Reg.LOS_RECORDS_IN
      let st := (s.inst r.inst).state
      if r.old ∨ st = .fencing ∨ st = .fenced then (s.bump Reg.LOS_FENCE_SINK).sunk r.inst
      else if s.losTree.isNone then s.bump Reg.LOS_NO_TREE
      else if r.cls = 0 then s.takeEnergy r else s.takeProfile r)

/-- LOS_LANE_CLOSE (R328 to R334): device time has reached the close of the next lane. -/
def execLosLaneClose (s : State) : R := .next (if s.laneDue then s.closeLane else s)

/-- LOS_FEEDER_ENERGY (R327): the feeder's energy of the interval starting at a second. -/
def execLosFeederEnergy (start imp exp : Nat) (s : State) : R :=
  .next (
    if !s.losRuns || ((s.treeAt start).isSome && decide (start < s.los.next)) then s
    else
      let s := (s.setLos (fun l => { l with headOk := true })).headLook
      if (s.treeAt start).isSome && start % s.los.cfg.balS == 0 then
        s.modLane start (fun l => { l with head := some ((imp : Int) - (exp : Int)) })
      else s)

/-- LOS_VOLTAGE_MEANS (R327, R335): the means of L1 to L3 over the 10 s from a second, in mV; six hours are kept. -/
def execLosVoltageMeans (start v1 v2 v3 : Nat) (s : State) : R :=
  .next (if !s.losRuns then s else s.setLos (fun l => { l with volts := (l.volts.put start [v1, v2, v3]).filter (fun e => decide (s.nowSec ≤ e.1 + 21600)) }))

/-- LOS_TOPO_LOAD (R323, R337, R339). -/
def execLosTopoLoad (c : CmdRef) (nodes crc : Nat) (data : Bytes) (s : State) : R :=
  .next (if s.dataHeld c then s else
    let entries := losNodesOf nodes data
    if nodes = 0 ∨ 65536 < nodes then s.reply c St.badParam
    else if s.los.trees.length ≥ 2 then s.reply c St.stateConflict
    else
      let s := s.replyQueued c
      if crc ≠ crc32c (data.take (32 * nodes)) then s.replyWith c 0x0810 0xFFFFFFFF 0
      else match firstInvalid entries with
        | some n => s.replyWith c 0x0810 n 0
        | none =>
          let bal := s.los.cfg.balS
          let from' := (s.nowSec / bal + 1) * bal
          let inForce := s.losTree.isSome
          let s := s.setLos (fun l =>
            if inForce then { l with trees := l.trees ++ [(from', entries)], treeDue := true }
            else { l with trees := [(from', entries)], treeDue := true, next := from' })
          s.replyWith c St.ok nodes (entries.filter (fun nd => nd.measSrc != 0)).length)

/-- LOS_CONFIG (R337, R339). -/
def execLosConfig (c : CmdRef) (p : LosCfgIn) (s : State) : R :=
  .next (
    if !losCfgOk p then s.reply c St.badParam
    else if p.balS = s.los.cfg.balS ∧ p.graceS = s.los.cfg.graceS then
      (s.setLos (fun l => { l with cfg := { l.cfg with phWindow := p.phWindow }, cfgNext := some (losCfgOf p) })).reply c St.ok
    else
      let first := s.firstOpen p
      (s.closeEarly.setLos (fun l => { l with
        cfg := losCfgOf p, cfgNext := none, next := first
        trees := match l.trees with
          | [a, b] => if b.1 ≤ first then [b] else [a, b]
          | x => x })).reply c St.ok)

/-- LOS_RESULT_READ (R332, R339, R340). -/
def execLosResultRead (c : CmdRef) (first last start : Nat) (s : State) : R :=
  .next (
    if last < first ∨ first + 16383 < last then s.reply c St.badParam
    else match s.losTree with
    | none => s.reply c 0x0210
    | some t =>
      if t.length ≤ last then s.reply c St.badParam
      else
        let l := (List.range t.length).zip t |>.filter (fun e => decide (first ≤ e.1 ∧ e.1 ≤ last))
        (s.writeData c (l.flatMap (fun e => s.resultBytes c e.1 e.2 start))).replyWith c St.ok l.length 0)

/-- LOS_PHASE_READ (R336, R339). -/
def execLosPhaseRead (c : CmdRef) (first count : Nat) (s : State) : R :=
  .next (
    if count = 0 ∨ 16384 < count then s.reply c St.badParam
    else if s.losTree.isNone then s.reply c 0x0210
    else
      let one := fun k =>
        let mine := match s.epAt (first + k) with
          | some x => c.queue == 256 || x.inst == c.inst
          | none => false
        phaseBytes (if mine then s.los.phases.get? (first + k) else none) (!s.headPresent)
      (s.writeData c ((List.range count).flatMap one)).reply c St.ok)

/-- LOS_HIST_READ (R334, R339, R340). -/
def execLosHistRead (c : CmdRef) (first last : Nat) (clear : Bool) (s : State) : R :=
  .next (
    if clear && c.queue != 256 then s.reply c St.notAuthorized
    else if last < first ∨ first + 4095 < last then s.reply c St.badParam
    else match s.losTree with
    | none => s.reply c 0x0210
    | some t =>
      if t.length ≤ last then s.reply c St.badParam
      else
        let l := (List.range t.length).zip t |>.filter (fun e => decide (first ≤ e.1 ∧ e.1 ≤ last))
        let s := s.writeData c (l.flatMap (fun e =>
          if State.losSees c e.2 then (List.range 32).flatMap (fun b => le 4 ((s.los.nodes.getD e.1 {}).bins.getD b 0)) else zeros 128))
        let s := if clear then s.setLos (fun los => { los with nodes := los.nodes.mapVals (fun k x =>
            if first ≤ k ∧ k ≤ last then { x with bins := List.replicate 32 0 } else x) }) else s
        s.reply c St.ok)

end Sys2Proof.Machine
end

