-- ==== Sys2Proof/Machine/Live.lean ====
section
/-! DEFINITION. Registers of the units that show structured state, and the live view of every register (R9, R82 to R571). -/
set_option Elab.async false
namespace Sys2Proof.Machine
namespace State

/-- The words of a 64-bit value. -/
def loWord (v : Nat) : Nat := v % 2 ^ 32
def hiWord (v : Nat) : Nat := v / 2 ^ 32 % 2 ^ 32

/-- Live registers of MSH (R212). DESIGN CHOICE (log entry 135): BCAST_NSEQ shows 0, its reset value, until the counter is restored. -/
def liveMsh (off : Nat) (s : State) : Option Nat :=
  let c := s.msh.cfg
  let b := s.beaconAt s.intervalNs
  if off = Reg.MSH_SF_CFG then some (s.kAt (binOf s.asn) + c.beaconSlots * 2 ^ 8 + c.retryMax * 2 ^ 16)
  else if off = Reg.MSH_BEACON_CFG then
    some (bitN b.en + b.rate * 2 + b.ports * 2 ^ 3 + b.chA * 2 ^ 8 + b.chB * 2 ^ 16 + b.ann.length * 2 ^ 23)
  else if off = Reg.MSH_KEY_GUARD then some (c.guardMax + c.hopKeyref * 2 ^ 16)
  else if off = Reg.MSH_ASN_LO then some (loWord s.asn)
  else if off = Reg.MSH_ASN_HI then some (hiWord s.asn)
  else if off = Reg.MSH_MAP_STATUS then some (s.msh.mapVersion + bitN s.msh.mapNext.isSome * 2 ^ 16)
  else if off = Reg.MSH_STATUS then some s.mshStatus
  else if off = Reg.MSH_BCAST_NSEQ then some (if s.msh.restored then loWord s.msh.bcast else 0)
  else if off = Reg.MSH_TXQ_DEPTH then some s.msh.sends.length
  else if off = Reg.MSH_NIGHT_COUNT then some s.msh.nights.length
  else if off = Reg.MSH_ASSIGN_COUNT then some s.msh.assigns.length
  else none

/-- The noon cycles between which a frame's context fills, and then its key unwraps, are in service: 4 of parsing, then the lookups (R216). -/
def fillsTill (f : FseFrame) : Nat := f.startNc + 4 + (if f.ctxMiss then 166 else 6)
def unwrapsTill (f : FseFrame) : Nat := fillsTill f + 218

/-- Live registers of FSE (R216, R219, R235): the fills and unwraps in service, 64 of each at most; more of them wait. -/
def liveFse (off : Nat) (s : State) : Option Nat :=
  let q := s.fse.intake
  let c := ((q.filter (fun f => decide (s.dev.nc < fillsTill f))).map (·.fills)).sum
  let k := ((q.filter (fun f => decide (fillsTill f ≤ s.dev.nc) && decide (s.dev.nc < unwrapsTill f))).map (·.unwraps)).sum
  if off = Reg.FSE_STATUS then
    some (min c 64 + min k 64 * 2 ^ 8 + bitN (decide (64 < c) || decide (64 < k)) * 2 ^ 16 + bitN s.intakeFull * 2 ^ 17)
  else if off = Reg.FSE_INTAKE_LEVEL then some (q.length + (q.map (fun f => f.frame.bytes.length)).sum / 1024 * 2 ^ 12)
  else none

/-- Live registers of ING (R268). -/
def liveIng (off idx : Nat) (s : State) : Option Nat :=
  let g := s.ing
  if off = Reg.ING_STATUS then
    some (bitN g.storm + 2 * bitN g.rollDone + 4 * bitN g.bilGap + s.gateMask * 2 ^ 4
      + bitN (decide (4194304 < s.bbFill + 65536)) * 2 ^ 8 + bitN g.backfillPresent * 2 ^ 9)
  else if off = Reg.ING_BB_FILL then some s.bbFill
  else if off = Reg.ING_BB_PEAK then some (max (s.reg Reg.ING_BB_PEAK) s.bbFill)
  else if off = Reg.ING_BB_PFILL then some (s.bbPathFill idx)
  else if off = Reg.ING_CACHE_STATUS then some (g.cache.length + (g.cache.filter (fun i => (s.ctx i).pin)).length * 2 ^ 16)
  else if off = Reg.ING_CKPT_DIRTY then some g.dirty.length
  else if off = Reg.ING_BILQ_FILL then some g.bilq.length
  else if off = Reg.ING_BIL_GAP then some g.gap.length
  else if off = Reg.ING_LOSQ_FILL then some g.losq.length
  else if off = Reg.ING_HIST_OPEN then some g.hists.length
  else if off = Reg.ING_BACKFILL_COUNT then some g.backfill.length
  else none

/-- Live registers of COD (R288). The staged step of a selection stands in its copy of QSTEP. -/
def liveCod (off idx : Nat) (s : State) : Option Nat :=
  let c := s.cod
  if off = Reg.COD_QLIVE then some (c.live.getD idx 1)
  else if off = Reg.COD_FLUSH then some ((List.range 7).foldl (fun a b => a + bitN (s.codWaits b) * 2 ^ b) 0)
  else if off = Reg.COD_QCOMMIT then some (bitN (s.codWaits 7))
  else if off = Reg.COD_STATUS then
    some (c.opens.length + c.held.length * 2 ^ 8 + bitN s.codStalled * 2 ^ 19 + bitN (s.codStaged != c.live) * 2 ^ 20)
  else if off = Reg.COD_INPUT_LEVEL then some c.input.length
  else if off = Reg.COD_BSEQ_LO then some (loWord c.bseq)
  else if off = Reg.COD_BSEQ_HI then some (hiWord c.bseq)
  else none

/-- A drive's status word (R322). -/
def driveWord (s : State) (slot : Nat) (d : Drive) : Nat :=
  d.stage + bitN (s.arc.journal.contains slot) * 2 ^ 3 + d.root * 2 ^ 4 + d.disc * 2 ^ 8 + d.spare * 2 ^ 16 + min d.wearPct 255 * 2 ^ 24

/-- Live registers of ARC (R322). -/
def liveArc (off idx : Nat) (s : State) : Option Nat :=
  let a := s.arc
  let d := a.drives.get? idx
  let one := fun (f : Drive → Nat) => some (match d with | some d => f d | none => 0)
  if off = Reg.ARC_STATUS then some s.arcStatus
  else if off = Reg.ARC_BSEQ_CEIL_LO then some (loWord a.ceil)
  else if off = Reg.ARC_BSEQ_CEIL_HI then some (hiWord a.ceil)
  else if off = Reg.ARC_CKPT_HORIZON_LO then some (loWord a.horizon)
  else if off = Reg.ARC_CKPT_HORIZON_HI then some (hiWord a.horizon)
  else if off = Reg.ARC_INPUT_LEVEL then some a.writes.length
  else if off = Reg.ARC_HOLD_FILL then some a.hold.length
  else if off = Reg.ARC_REBUILD_LEFT then some s.rebuildLeft
  else if off = Reg.ARC_NS_COUNT then some a.nss.length
  else if off = Reg.ARC_DRV_STATUS then one (s.driveWord idx)
  else if off = Reg.ARC_DRV_EXTENTS then one (·.usable)
  else if off = Reg.ARC_DRV_FREE then one Drive.free
  else if off = Reg.ARC_DRV_LAT then one (·.latency)
  else if off = Reg.ARC_DRV_MEDIA_ERR then one (fun d => loWord d.mediaErr)
  else none

/-- Live registers of LOS (R342). A close happens at once: CLOSING reads 0. -/
def liveLos (off : Nat) (s : State) : Option Nat :=
  let l := s.los
  let oldest := match (sortOn id (l.lanes.map Prod.fst)).head? with | some t => t * 2 ^ 30 | none => 0
  if off = Reg.LOS_STATUS then
    some (bitN s.losTree.isSome + 2 * bitN (decide (2 ≤ l.trees.length) || l.trees.any (fun e => decide (s.nowSec < e.1))) + 4 * bitN s.headPresent
      + 8 * bitN (s.losRuns && !s.headPresent) + l.lanes.length * 2 ^ 8)
  else if off = Reg.LOS_NODES then some (match s.losTree with | some t => t.length | none => 0)
  else if off = Reg.LOS_BAL then some (l.cfg.balS + l.cfg.graceS / 60 * 2 ^ 16)
  else if off = Reg.LOS_OLDEST_LO then some (loWord oldest)
  else if off = Reg.LOS_OLDEST_HI then some (hiWord oldest)
  else if off = Reg.LOS_FLAGGED_NODES then some s.flaggedNodes
  else none

/-- Live registers of MET (R371). -/
def liveMet (off idx : Nat) (s : State) : Option Nat :=
  let m := s.met
  if off = Reg.MET_STATUS then some s.metStatus
  else if off = Reg.MET_SEAL_COUNT then some m.sealCount
  else if off = Reg.MET_CAL_GEN then some s.calGenNow
  else if off = Reg.MET_AUDIT_USED then some m.audit.length
  else if off = Reg.MET_AUDIT_LOST then some m.auditLost
  else if off = Reg.MET_SW_ID then some m.swId
  else if off = Reg.MET_CONFIG then some (m.vpwr + m.ipwr * 2 ^ 4 + m.zcVmin * 2 ^ 8)
  else if off = Reg.MET_FREQ then some s.winFreq
  else if off = Reg.MET_CH_RMS then some (s.winRms idx)
  else if off = Reg.MET_CH_PEAK then some (s.winPeak idx)
  else if off = Reg.MET_ZC_PERIOD then some (if idx < 3 then State.spanNs (m.cycles.getD idx {}).period else 0)
  else if off = Reg.MET_P_L1 then some (toField 32 (s.winP 0))
  else if off = Reg.MET_P_L2 then some (toField 32 (s.winP 1))
  else if off = Reg.MET_P_L3 then some (toField 32 (s.winP 2))
  else if off = Reg.MET_TAMPER_COVER then some m.covers
  else if off = Reg.MET_TAMPER_TERM then some m.terms
  else none

/-- Live registers of BIL (R403). -/
def liveBil (off idx : Nat) (s : State) : Option Nat :=
  let bound := (s.bil.ledger.filter (fun e => e.2.bound)).map Prod.fst
  let top := s.calTop idx
  let act := match top with | some c => calActive c | none => 0
  if off = Reg.BIL_STATUS then
    some (bitN s.bilOwns + 2 * bitN s.bilTaking + 4 * bitN (!s.bilOwns || !s.bilLive || s.wornMram || s.journalFree == 0)
      + 8 * bitN (!s.bil.replays.isEmpty) + s.bil.campaigns.length * 2 ^ 4 + bitN s.bil.replayed * 2 ^ 8)
  else if off = Reg.BIL_PENDING then some s.bil.queue.length
  else if off = Reg.BIL_CAL_INFO then
    some (match top with
      | some c => calVer c + (if (s.calCopies idx).length = 2 then (match s.calLow idx with | some d => calVer d | none => 0) else 0) * 2 ^ 16
      | none => 0)
  else if off = Reg.BIL_CAL_ACT_LO then some (loWord act)
  else if off = Reg.BIL_CAL_ACT_HI then some (hiWord act)
  else if off = Reg.BIL_BOUND then some bound.length
  else if off = Reg.BIL_PRESENT then some (bound.filter s.inForce).length
  else if off = Reg.BIL_HELD then some (bound.filter s.bilHeld).length
  else if off = Reg.BIL_REPLAY_LEFT then
    some (bound.filter (fun i => (s.ledgerOf i).replay || s.bil.replays.any (fun r => r.endpoint == i))).length
  else if off = Reg.BIL_JOURNAL_FREE then some s.journalFree
  else none

/-- Live registers of KVT (R430). -/
def liveKvt (off idx : Nat) (s : State) : Option Nat :=
  let k := s.kvt
  if off = Reg.KVT_STATUS then
    some (s.dev.life + bitN k.seed.isSome * 2 ^ 3 + bitN (!s.rootsOpen) * 2 ^ 4 + bitN (!k.ops.isEmpty) * 2 ^ 5 + bitN k.nkek * 2 ^ 6
      + bitN s.wornMram * 2 ^ 7 + (k.ops.filter (fun o => o.stage != .next)).length % 256 * 2 ^ 8)
  else if off = Reg.KVT_CHALLENGE_LO then some (loWord k.challenge)
  else if off = Reg.KVT_CHALLENGE_HI then some (hiWord k.challenge)
  else if off = Reg.KVT_CACHE_VALID then some (k.cache.filter s.tagsNow).length
  else if off = Reg.KVT_CACHE_PINNED then some s.pinnedKeys.length
  else if off = Reg.KVT_ISLAND_CACHE then some k.island.length
  else if off = Reg.KVT_SETS then some k.sets.length
  else if off = Reg.KVT_INST_NGEN then some (s.ngen idx)
  else if off = Reg.KVT_INST_IGEN then some (s.igen idx)
  else if off = Reg.KVT_INST_SETS then some (s.setsOf idx)
  else if off = Reg.KVT_AUTH_ID_LO then some (loWord (s.authId idx))
  else if off = Reg.KVT_AUTH_ID_HI then some (hiWord (s.authId idx))
  else if off = Reg.KVT_JOURNAL_CAP then some (k.journalCap + k.ringCap * 2 ^ 16)
  else if off = Reg.KVT_TRANSPORT then some ((List.range 16).foldl (fun a j => a + bitN (s.tslot idx j).isSome * 2 ^ j) 0)
  else if off = Reg.KVT_COMMITS_REDONE then some k.redone
  else if off = Reg.KVT_SPARE_ROWS_USED then some k.spareRows
  else if off = Reg.KVT_PAGES_RETIRED then some k.pagesRetired
  else none

/-- Live registers of UPD (R472). -/
def liveUpd (off idx : Nat) (s : State) : Option Nat :=
  let b := s.boot
  let r := s.upd.relays.getD idx {}
  if off = Reg.UPD_STATUS then some s.updStatus
  else if off = Reg.UPD_RUN_FW_ID then some s.dev.fwId
  else if off = Reg.UPD_FLOOR then some b.floor
  else if off = Reg.UPD_CONFIRM_LEFT then some s.confirmLeft
  else if off = Reg.UPD_STAGE_LEN then some b.stageLen
  else if off = Reg.UPD_STAGE_TOTAL then some b.stageTotal
  else if off = Reg.UPD_FALLBACKS then some b.fallbacks
  else if off = Reg.UPD_RELAY_STATE then some (r.state + r.code * 2 ^ 8)
  else if off = Reg.UPD_RELAY_SENT then some r.acked
  else none

/-- Live registers of SVC (R484). -/
def liveSvc (off : Nat) (s : State) : Option Nat :=
  let v := s.svc
  if off = Reg.SVC_STATUS then
    some (bitN v.mode3 + 2 * bitN v.flood + 4 * bitN v.rate + 8 * bitN (!(v.ports.getD 0 {}).tx.isEmpty)
      + 16 * bitN (decide (s.dev.nc < v.txUntil)) + v.loaderPort * 2 ^ 5
      + v.noonTap * 2 ^ 8 + v.midTap * 2 ^ 16)
  else if off = Reg.SVC_OSP_AMBIENT then some v.ambient
  else none

/-- Live registers of PAR (R514). -/
def livePar (off : Nat) (s : State) : Option Nat :=
  let p := s.par
  if off = Reg.PAR_STATUS then some s.parStatus
  else if off = Reg.PAR_HEALTH then some s.parHealth
  else if off = Reg.PAR_PARTNER_HEALTH then some p.partner.health
  else if off = Reg.PAR_OWNED_SINCE_LO then some (loWord p.ownedSince)
  else if off = Reg.PAR_OWNED_SINCE_HI then some (hiWord p.ownedSince)
  else if off = Reg.PAR_PUB_FROM_LO then some (loWord p.pubFrom)
  else if off = Reg.PAR_PUB_FROM_HI then some (hiWord p.pubFrom)
  else if off = Reg.PAR_PARTNER_EUI_LO then some (loWord p.partner.eui)
  else if off = Reg.PAR_PARTNER_EUI_HI then some (hiWord p.partner.eui)
  else if off = Reg.PAR_GAP_FROM_LO then some (loWord p.gapFrom)
  else if off = Reg.PAR_GAP_FROM_HI then some (hiWord p.gapFrom)
  else if off = Reg.PAR_DIGEST_STATUS then some (p.streams + min p.mismatched 15 * 2 ^ 8)
  else if off = Reg.PAR_HOLD_LEVEL then some p.hold.length
  else none

/-- The live view of a register, where it has one. -/
def live (off idx : Nat) (s : State) : Option Nat :=
  match windowOf off with
  | 0 => s.liveGlb off
  | 1 => s.liveHbr off idx
  | 2 => s.liveCmd off idx
  | 3 => s.livePwr off idx
  | 4 => s.livePlc off
  | 5 => s.liveRfx off idx
  | 6 => s.liveMsh off
  | 7 => s.liveFse off
  | 8 => s.liveIng off idx
  | 9 => s.liveCod off idx
  | 10 => s.liveArc off idx
  | 11 => s.liveLos off
  | 12 => s.liveMet off idx
  | 13 => s.liveBil off idx
  | 14 => s.liveKvt off idx
  | 15 => s.liveTim off
  | 16 => s.liveUpd off idx
  | 17 => s.liveSvc off
  | 18 => s.livePar off
  | 19 => s.liveFab off idx
  | 20 => s.liveVin off
  | 21 => s.liveEvr off idx
  | 22 => s.liveAon off
  | _ => none

/-- The value copy `idx` of a register shows: its live view, or the word it holds. -/
def shown (s : State) (off idx : Nat) : Nat :=
  match s.live off idx with
  | some v => v
  | none => s.regI off idx

end State
end Sys2Proof.Machine
end

