-- ==== Sys2Proof/Machine/Glb.lean ====
section
/-! DEFINITION. The GLB commands that need no other unit (R68, R69, R76, R78, R79). -/
set_option Elab.async false
namespace Sys2Proof.Machine
namespace State

/-- What is shown at `n` consecutive registers from `off`, as bytes. -/
def shownBytes (s : State) (off n : Nat) : Bytes :=
  (List.range n).flatMap (fun k => le 4 (s.shown (off + 4 * k) 0))

/-- The lanes named in a mask are taken down and tested together for 40 000 nc; each that passes is resynced after the one before, 1 200 nc
each; the command ends with the last (R76). -/
def laneResync (c : CmdRef) (mask pass : Nat) (s : State) : State :=
  let named := (List.range 3).filter (fun l => bitAt mask l)
  let good := named.filter (fun l => bitAt pass l)
  let test := s.dev.nc + (if named.isEmpty then 0 else 40000)
  let stop := test + 1200 * good.length
  let s := named.foldl (fun s l => s.laneAway l (some (if bitAt pass l then test + 1200 * (good.idxOf l + 1) else stop, bitAt pass l))) s
  { s with cmd := { s.cmd with laneJobs := s.cmd.laneJobs ++ [(c, stop, decide (good.length < named.length))] } }

/-- The device state that decides GLB.STATE.SET: that of its admission, or the present one where CMD did not admit it (R69, R78). -/
def setState (s : State) (c : CmdRef) : Nat × Bool :=
  match s.cmdOf c with
  | some x => (x.echo % 8, true)
  | none => (devCode s.dev.state, s.reg Reg.GLB_HOLD_CAUSES == 0)

end State

/-- GLB_IDENTIFY (R79): GLB window offsets 0x0010 to 0x004F; RESULT0 = DEV_ID. -/
def execGlbIdentify (c : CmdRef) (s : State) : R :=
  .next ((s.writeData c (s.shownBytes 0x10 16)).replyWith c St.ok (s.reg Reg.GLB_DEV_ID) 0)

/-- GLB_STATUS (R79): state word, hold causes and health. -/
def execGlbStatus (c : CmdRef) (s : State) : R :=
  .next (s.replyWith c St.ok (s.stateWord none + (s.reg Reg.GLB_HOLD_CAUSES % 65536) * 65536) s.health)

/-- GLB_STATE_SET (R67, R69, R71, R78): 0x01 DAY, 0x02 TWILIGHT. In DAWN it acts on BOOT_CTRL.HOLD instead. The state and the hold causes
are those of admission; a transition is made only from the state it starts from. -/
def execGlbStateSet (c : CmdRef) (target : Nat) (s : State) : R :=
  .next (
    let d := s.setState c
    if target ≠ 1 ∧ target ≠ 2 then s.reply c St.badParam
    else if d.1 = devCode .dawn then
      if s.locked 0 then (s.lockViolation 0).reply c St.lockedReg
      else
        let s := s.setRegBit Reg.GLB_BOOT_CTRL 0 (target == 2)
        s.replyWith c St.ok (s.stateWord none) 0
    else if d.1 = devCode .day then
      let s := if target = 2 ∧ s.dev.state = .day then s.enterState .twilight 0x03 else s
      s.replyWith c St.ok (s.stateWord none) 0
    else if d.1 = devCode .twilight then
      if target = 2 then s.replyWith c St.ok (s.stateWord none) 0
      else if !d.2 then s.replyWith c St.stateConflict (s.reg Reg.GLB_HOLD_CAUSES) 0
      else
        let s := if s.dev.state = .twilight then s.enterState .day 0x03 else s
        s.replyWith c St.ok (s.stateWord none) 0
    else s.reply c St.stateConflict)

/-- GLB_LANE_RESYNC (R75, R76): the named lanes are taken down, tested, and resynced where they pass; the command ends with the last
resync. -/
def execGlbLaneResync (c : CmdRef) (mask passMask : Nat) (s : State) : R :=
  .next (if 8 ≤ mask then s.reply c St.badParam else (s.laneResync c mask passMask).laneLook)

/-- GLB_NOP (R79). -/
def execGlbNop (c : CmdRef) (s : State) : R := .next (s.reply c St.ok)

end Sys2Proof.Machine
end

