-- ==== Sys2Proof/Machine/CfgSpace.lean ====
section
/-! DEFINITION. The configuration space of the functions (R83 to R86, R88, R89, R97, R101, R110, R617). -/
set_option Elab.async false
namespace Sys2Proof.Machine

/-- The words of a virtual function's configuration space that differ from physical function 0's, where R85 gives it fewer capabilities: its
identity, no BARs of its own, and the chains MSI-X to PCI Express and ARI alone. -/
def vfCfgWord (off : Nat) : Option Nat :=
  match off with
  | 0x00 => some 0x96011FB9
  | 0x10 | 0x14 | 0x18 | 0x1C | 0x20 | 0x24 => some 0
  | 0x34 => some 0x50
  | 0x40 | 0x44 => some 0
  | 0x50 => some (0x7011 + 63 * 2 ^ 16)
  | 0x54 => some 0xF000
  | 0x58 => some 0xF400
  | 0x100 => some 0x0001000E
  | 0x104 | 0x108 | 0x10C | 0x110 | 0x114 | 0x118 | 0x11C | 0x120 | 0x124 | 0x128 => some 0
  | _ => if 0x140 ≤ off then some 0 else none

namespace State

/-- A DWORD of a function's configuration space (R84, R85, R86, R88, R89). The layout inside a capability is that of PCIe Base 5.0, and the
places of the capabilities are the model's own (log entry 90). -/
def cfgWord (s : State) (fn off : Nat) : Nat :=
  let f := s.func fn
  let msix := bitN f.msixMask * 2 ^ 30 + bitN f.msixEnable * 2 ^ 31
  let own := match off with
    | 0x00 => 0x96001FB9
    | 0x04 => 0x00100000 + bitN f.busMaster * 4
    | 0x08 => 0x0B400000 + s.reg Reg.GLB_DEV_REV % 256
    | 0x10 => f.bar0 % 2 ^ 32 + 4
    | 0x14 => f.bar0 / 2 ^ 32
    | 0x18 => f.bar2 % 2 ^ 32 + 4
    | 0x1C => f.bar2 / 2 ^ 32
    | 0x20 => f.bar4 % 2 ^ 32 + 12
    | 0x24 => f.bar4 / 2 ^ 32
    | 0x2C => s.hbr.subsys
    | 0x34 => 0x40
    | 0x40 => 0x00035001
    | 0x44 => if f.d3hot then 3 else 0
    | 0x50 => 0x7011 + 1023 * 2 ^ 16
    | 0x54 => 0x1C000
    | 0x58 => 0x1BF80
    | 0x70 => 0x00020010
    | 0x74 => 0x10008022
    | 0x78 => bitN f.relaxed * 16 + f.mps * 2 ^ 5 + f.mrrs * 2 ^ 12
    | 0x7C => 5 + 8 * 2 ^ 4
    | 0x80 => s.hbr.speed * 2 ^ 16 + s.hbr.width * 2 ^ 20
    | 0x94 => 0x0003001F
    | 0x98 => s.hbr.ctoValue + bitN s.hbr.ctoDisable * 16 + bitN s.hbr.idoCpl * 2 ^ 9 + bitN s.hbr.tag10 * 2 ^ 12
    | 0x100 => 0x14020001
    | 0x104 => f.aerStatus
    | 0x108 => f.aerMask
    | 0x10C => f.aerSeverity
    | 0x110 => f.aerCorStatus
    | 0x114 => f.aerCorMask
    | 0x118 => f.aerFirst
    | 0x11C => f.aerHeader % 2 ^ 32
    | 0x120 => f.aerHeader / 2 ^ 32 % 2 ^ 32
    | 0x124 => f.aerHeader / 2 ^ 64 % 2 ^ 32
    | 0x128 => f.aerHeader / 2 ^ 96 % 2 ^ 32
    | 0x140 => 0x18010010
    | 0x148 => bitN s.hbr.vfEnable + bitN s.hbr.ari * 16
    | 0x14C => 16 + 16 * 2 ^ 16
    | 0x150 => s.hbr.numVfs
    | 0x154 => 1 + 1 * 2 ^ 16
    | 0x158 => 0x96010000
    | 0x15C => 1
    | 0x160 => 1
    | 0x164 => s.hbr.vfBar % 2 ^ 32 + 4
    | 0x168 => s.hbr.vfBar / 2 ^ 32
    | 0x180 => 0x1901000E
    | 0x190 => 0x00010003
    | 0x194 => s.dev.eui % 2 ^ 32
    | 0x198 => s.dev.eui / 2 ^ 32
    | _ => 0
  let word := if fn = 0 then own else (vfCfgWord off).getD own
  if off = 0x50 then word + msix else word

/-- A word of a base address with `v` written to its low or high half: the bits below the size stay 0 (R86, R89). -/
def baseWrite (old size : Nat) (high : Bool) (v : Nat) : Nat :=
  (if high then putField old 63 32 v else putField old 31 0 v) / size * size

/-- A DWORD written to a function's configuration space (R83 to R86, R89). Bus Master Enable, the power state, FLR and VF Enable are rows of
their own. -/
def cfgWrite (fn off v : Nat) (s : State) : State :=
  let f := s.func fn
  match off with
  | 0x10 => if fn = 0 then s.setFunc fn { f with bar0 := baseWrite f.bar0 (2 ^ 26) false v } else s
  | 0x14 => if fn = 0 then s.setFunc fn { f with bar0 := baseWrite f.bar0 (2 ^ 26) true v } else s
  | 0x18 => if fn = 0 then s.setFunc fn { f with bar2 := baseWrite f.bar2 4096 false v } else s
  | 0x1C => if fn = 0 then s.setFunc fn { f with bar2 := baseWrite f.bar2 4096 true v } else s
  | 0x20 => if fn = 0 then s.setFunc fn { f with bar4 := baseWrite f.bar4 (2 ^ 24) false v } else s
  | 0x24 => if fn = 0 then s.setFunc fn { f with bar4 := baseWrite f.bar4 (2 ^ 24) true v } else s
  | 0x50 => (s.setFunc fn { f with msixMask := bitAt v 30, msixEnable := bitAt v 31 }).sendPending fn
  | 0x78 => s.setFunc fn { f with relaxed := bitAt v 4, mps := min 2 (field v 7 5), mrrs := min 5 (field v 14 12) }
  | 0x98 =>
    if fn = 0 then { s with hbr := { s.hbr with ctoValue := v % 16, ctoDisable := bitAt v 4, idoCpl := bitAt v 9, tag10 := bitAt v 12 } } else s
  | 0x104 => if fn = 0 then s.setFunc fn { f with aerStatus := f.aerStatus &&& (2 ^ 32 - 1 - v) } else s
  | 0x108 => if fn = 0 then s.setFunc fn { f with aerMask := v } else s
  | 0x10C => if fn = 0 then s.setFunc fn { f with aerSeverity := v } else s
  | 0x110 => if fn = 0 then s.setFunc fn { f with aerCorStatus := f.aerCorStatus &&& (2 ^ 32 - 1 - v) } else s
  | 0x114 => if fn = 0 then s.setFunc fn { f with aerCorMask := v } else s
  | 0x164 => if fn = 0 then { s with hbr := { s.hbr with vfBar := baseWrite s.hbr.vfBar 65536 false v } } else s
  | 0x168 => if fn = 0 then { s with hbr := { s.hbr with vfBar := baseWrite s.hbr.vfBar 65536 true v } } else s
  | _ => s

/-- The DWORDs of a configuration write in ascending order; the byte lanes not enabled keep what they hold, and a W1C field sees 0 there. -/
def cfgWrites (fn : Nat) : List HostWord → Nat → State → State
  | [], _, s => s
  | w :: t, off, s =>
    let clears := off == 0x104 || off == 0x110
    let lane := fun (k : Nat) => if bitAt w.lanes k then w.value.toNat / 2 ^ (8 * k) % 256
      else if clears then 0 else s.cfgWord fn off / 2 ^ (8 * k) % 256
    let v := lane 0 + lane 1 * 2 ^ 8 + lane 2 * 2 ^ 16 + lane 3 * 2 ^ 24
    cfgWrites fn t (off + 4) (s.cfgWrite fn off v)

end State
end Sys2Proof.Machine
end

