-- ==== Sys2Proof/Machine/HostAccess.lean ====
section
/-! DEFINITION. Host accesses to the register windows, the doorbells, BAR4 and configuration space (R6 to R16, R50, R82 to R87, R89, R92 to R96, R110, R614): writes by access
code, reads with their side effects, 64-bit pairs, locks and the seam-window reads. -/
set_option Elab.async false
namespace Sys2Proof.Machine
namespace State

/-- The copy of a register that its selectors name, or none where one selects nothing (R614). -/
def selIndex (s : State) : List Sel → Nat → Option Nat
  | [], idx => some idx
  | x :: t, idx =>
    -- a selector inside the selected item (RFX.DC_SEL, RFX.CHSEL) is the copy of the item selected so far
    let nested := match rowAt x.off with | some r => !r.sels.isEmpty | none => false
    let w := if nested then s.regI x.off idx else s.reg x.off
    let v := field w (x.shift + x.width - 1) x.shift
    if v < x.limit then selIndex s t (idx * 2 ^ x.width + v) else none

/-- Counts an access through CMD.QSEL while it selects nothing (R82, R614). -/
def selectorInvalid (off : Nat) (s : State) : State :=
  if windowOf off = 2 then s.bump Reg.CMD_QSEL_INVALID else s

/-- Registers whose writes are rows of their own; a plain register write leaves them. -/
def ownRow (off : Nat) : Bool :=
  off = Reg.CMD_QCTRL || off = Reg.HBR_NR_CTRL || off = Reg.TIM_SNAP || off = Reg.COD_FLUSH || off = Reg.COD_QCOMMIT
    || off = Reg.EVR_CURSOR || off = Reg.unitLock (windowOf off)

/-- Is a write to this register discarded because its queue or ring is enabled (R82, R110)? -/
def heldByEnable (s : State) (off idx : Nat) : Bool :=
  (Reg.CMD_SQ_BASE_LO ≤ off && off ≤ Reg.CMD_QSIZE && (s.queue idx).enabled)
    || (Reg.HBR_NR_BASE_LO ≤ off && off ≤ Reg.HBR_NR_SIZE && (s.ring idx).enabled)

/-- The bits that copy `idx` of a register holds (R11): of a profile's words, those that its table gives (R249). -/
def copyMask (r : Row) (idx : Nat) : Nat :=
  if r.off = Reg.ING_PROF_DATA then (if idx % 16 = 3 then 0xF else if idx % 16 < 10 then r.mask else 0) else r.mask

/-- The word copy `idx` of a register holds after a plain write of `v` (R9, R11: bits outside the mask keep 0). -/
def maskedWrite (r : Row) (idx v : Nat) : Nat := v &&& copyMask r idx

/-- The fields with access code W1S inside a register of another code: PLC.NOISE_CTRL.CLEAR (R138). -/
def setOnly (off : Nat) : Nat := if off = Reg.PLC_NOISE_CTRL then 0x10000 else 0

/-- A write of a 32-bit word to copy `idx` of a register by its access code (R9, R12). A WOX register takes its first write alone; no
register of this part has that code. -/
def writeByCode (r : Row) (idx v : Nat) (s : State) : State :=
  let key := regKey r.off idx
  match r.access with
  | .ro | .rc | .wo => s
  | .rw => if s.heldByEnable r.off idx then s else s.setKey key (BitVec.ofNat 32 (maskedWrite r idx v) ||| (s.regW key &&& BitVec.ofNat 32 (setOnly r.off)))
  | .rwl =>
    if s.locked (windowOf r.off) then s.lockViolation (windowOf r.off)
    else s.setKey key (BitVec.ofNat 32 (maskedWrite r idx v))
  | .wox =>
    if s.regW key = resetOf key then s.setKey key (BitVec.ofNat 32 (maskedWrite r idx v)) else s.lockViolation (windowOf r.off)
  | .w1c => s.setKey key (s.regW key &&& ~~~ (BitVec.ofNat 32 v))
  | .w1s => s.setKey key (s.regW key ||| BitVec.ofNat 32 (maskedWrite r idx v))

/-- Is this register the low word of a writable 64-bit pair (R8)? -/
def isLowOfPair (off : Nat) : Bool :=
  off ∈ [Reg.CMD_SQ_BASE_LO, Reg.CMD_CQ_BASE_LO, Reg.HBR_NR_BASE_LO, Reg.UPD_PRED_EUI_LO]

/-- Is this register the high word of a writable 64-bit pair (R8)? -/
def isHighOfPair (off : Nat) : Bool := isLowOfPair (off - 4) && decide (4 ≤ off)

/-- The place of a function's staged low word of the pair whose low register is at `off` (R8). -/
def stagedKey (fn off : Nat) : Nat := fn * 2 ^ 26 + off

/-- A write to the low word of a writable pair is staged, and discarded where the selector selects nothing (R8, R614). Each pair of
registers has one staged word for each function (log entry 84). DESIGN CHOICE (log entry 121): the low word of a locked RWL pair is staged
too and counts no violation; the write of its high word is refused and counts one. -/
def stageLow (fn off : Nat) (v : Word) (s : State) : State :=
  match rowAt off with
  | none => s
  | some r =>
    match s.selIndex r.sels 0 with
    | none => s.selectorInvalid off
    | some _ => { s with hbr := { s.hbr with staged := s.hbr.staged.put (stagedKey fn off) v } }

/-- A write to the high word commits it with any staged low word of the pair (R8), to the copy that is selected then (log entry 84). -/
def commitHigh (fn off : Nat) (v : Word) (s : State) : State :=
  match rowAt off, rowAt (off - 4) with
  | some hi, some lo =>
    match s.selIndex hi.sels 0 with
    | none => s.selectorInvalid off
    | some idx =>
      let both := s.hbr.staged.get? (stagedKey fn (off - 4))
      let s := { s with hbr := { s.hbr with staged := s.hbr.staged.del (stagedKey fn (off - 4)) } }
      if (hi.access = .rwl) && s.locked (windowOf off) then s.lockViolation (windowOf off)
      else
        let s := match both with | some w => s.writeByCode lo idx w.toNat | none => s
        s.writeByCode hi idx v.toNat
  | _, _ => s

/-- A write to word `k` of an MSI-X table entry (R90). Unmasking is the row MSIX_VECTOR_UNMASK. -/
def writeVector (n k v : Nat) (s : State) : State :=
  let x := s.hbr.vectors.getD n {}
  let x := match k with
    | 0 => { x with addr := putField x.addr 31 0 v }
    | 1 => { x with addr := putField x.addr 63 32 v }
    | 2 => { x with data := v }
    | _ => { x with masked := bitAt v 0 || x.masked }
  { s with hbr := { s.hbr with vectors := s.hbr.vectors.put n x } }

/-- What a write brings about besides the value: GAIN holds GAIN_FIXED while AGC_EN is 0 (R169), domain 63 follows PLC.CTRL while 39
is on (R540), the source of segment 0 follows DC_AUTO (R130), a storm ends with STORM_EN (R257), and the time tick follows TICK_REF (R432). -/
def afterWrite (off : Nat) (s : State) : State :=
  if off = Reg.RFX_PORT_CTRL then
    s.fixedGains
  else if off = Reg.PLC_CTRL ∧ s.domOn 39 = true then (if s.plcaOn then s.rampOne 63 else s.switchOff 63)
  else if off = Reg.PLC_ZC_CFG then s.zcAuto
  else if off = Reg.ING_CTRL then s.stormOff
  else if off = Reg.TIM_CTRL then { s with tim := { s.tim with tickRef := s.regBit Reg.TIM_CTRL 1 && (s.tim.selected == 1 || s.tim.selected == 2) } }
  else s

/-- A whole DWORD written by a function to an offset of BAR0 (R8, R9, R11, R12, R614). -/
def writeDword (fn off : Nat) (v : Word) (s : State) : State :=
  if 0x1C000 ≤ off ∧ off < 0x20000 then s.writeVector ((off - 0x1C000) / 16) ((off - 0x1C000) / 4 % 4) v.toNat
  else if isLowOfPair off then s.stageLow fn off v
  else if isHighOfPair off then s.commitHigh fn off v
  else if ownRow off then s
  else match rowAt off with
    | none => s
    | some r =>
      match s.selIndex r.sels 0 with
      | none => s.selectorInvalid off
      | some idx => (s.writeByCode r idx v.toNat).afterWrite off

/-- Is this register the low word of a 64-bit value that software reads in a pair (R7)? -/
def readLow (off : Nat) : Bool :=
  pairLows.contains off

/-- Is this a 64-bit counter whose low-word read clears the whole (R235, R288)? -/
def rcPair (off : Nat) : Bool := match rowAt off with | some r => r.access == .rc && readLow off | none => false

/-- A read of one whole register by a function with its side effects: the clear of RC (R9), the latch and holding
register of R7, and the freeze of HELD_FIRST_LOST that a read of HELD_LOST ends (R109). DESIGN CHOICE (log entry 125): HELD_FIRST_LOST
reads 0 from that read until the next drop. -/
def readDword (fn off : Nat) (s : State) : Nat × State :=
  if (0x1BF80 ≤ off ∧ off < 0x20000) ∨ (windowBase 20 + 0x20 ≤ off ∧ off ≤ windowBase 20 + 0x3C)
      ∨ (windowBase 21 + 0x40 ≤ off ∧ off ≤ windowBase 21 + 0x7C) then (s.shown off 0, s)
  else match rowAt off with
    | none => (0, s)
    | some r =>
      match s.selIndex r.sels 0 with
      | none => (0, s.selectorInvalid off)
      | some idx =>
        if decide (4 ≤ off) && readLow (off - 4) then
          match s.hbr.holding.get? fn with
          | some w => (w.toNat, s)
          | none => (s.shown off idx, s)
        else
          let v := if r.access = .wo then 0 else s.shown off idx
          let s := if readLow off then
              { s with hbr := { s.hbr with holding := s.hbr.holding.put fn (BitVec.ofNat 32 (s.shown (off + 4) idx)) } } else s
          let s := if r.access = .rc then s.setKey (regKey off idx) (resetOf (regKey off idx)) else s
          let s := if rcPair off then s.setKey (regKey (off + 4) idx) (resetOf (regKey (off + 4) idx)) else s
          (v, if off = Reg.HBR_HELD_LOST then s.setPair Reg.HBR_HELD_FIRST_LOST_LO 0 else s)

/-- The end of a BAR: a request beyond it does not reach the part (R86, R89). -/
def barSize (fn bar : Nat) : Nat :=
  if fn ≠ 0 then (if bar = 0 then 0x10000 else 0)
  else if bar = 0 then 0x4000000 else if bar = 2 then 0x1000 else if bar = 4 then 0x1000000 else 0

/-- Does a request that starts in BAR0 break the limits of R94, at the end of the BAR too? -/
def breaksBoundary (a : BarAccess) : Bool :=
  a.bar == 0 && decide (a.off < barSize a.fn 0) && (decide (64 < a.len) || decide (a.off / 0x10000 ≠ (a.off + a.len - 1) / 0x10000))

/-- The DWORDs of a write, in ascending order (R93), each discarded where a byte lane is off (R92). -/
def writeDwords (fn : Nat) : List HostWord → Nat → State → State
  | [], _, s => s
  | w :: t, off, s => writeDwords fn t (off + 4) (if w.full then s.writeDword fn off w.value else s.bump Reg.HBR_PARTIAL_DROP)

/-- The DWORDs of a read, in ascending order (R93). -/
def readDwords (fn : Nat) : Nat → Nat → State → List Word × State
  | 0, _, s => ([], s)
  | n + 1, off, s =>
    let (v, s) := s.readDword fn off
    let (t, s) := readDwords fn n (off + 4) s
    (BitVec.ofNat 32 v :: t, s)

/-! #### The other BARs (R86, R87, R89, R95) -/

/-- The words of a write to a virtual function's MSI-X table (R89, R90). -/
def writeVfWords (fn : Nat) : List HostWord → Nat → State → State
  | [], _, s => s
  | w :: t, off, s =>
    let s := if !w.full then s.bump Reg.HBR_PARTIAL_DROP
      else if 0xF000 ≤ off ∧ off < 0xF400 then
        s.writeVector (1024 + 64 * (fn - 1) + (off - 0xF000) / 16) ((off - 0xF000) / 4 % 4) w.value.toNat
      else s
    writeVfWords fn t (off + 4) s

/-- A DWORD of BAR2: the value last written to a doorbell; those of instance queues read 0 while SR-IOV is enabled (R50, R95, R99). -/
def bar2Word (s : State) (off : Nat) : Nat :=
  if off < 0x800 then (if s.hbr.vfEnable then 0 else s.hbr.doorbells.getD (off / 4) 0)
  else if off < 0x808 then s.hbr.doorbells.getD (off / 4) 0
  else if 0x900 ≤ off ∧ off < 0x944 then s.hbr.doorbells.getD (1024 + (off - 0x900) / 4) 0
  else 0

/-- A DWORD of BAR4: the contexts of the window as they stand (R86, R87). -/
def bar4Word (s : State) (off : Nat) : Nat :=
  let i := s.regField Reg.HBR_BAR4_WIN 6 0 * 16384 + off / 1024
  match s.ing.ctxs.get? i with
  | some x => leAt (s.ctxBytes i x) (off % 1024 / 4 * 4) 4
  | none => 0

/-- A DWORD of a virtual function's BAR0 (R89, R90, R535). -/
def vfWord (s : State) (fn off : Nat) : Nat :=
  if !s.vfExists fn then 0
  else if off < 0x80 then s.hbr.doorbells.getD ((fn - 1) * 32 + off / 4) 0
  else if off < 0x84 then s.hbr.doorbells.getD (2048 + fn) 0
  else if 0x100 ≤ off ∧ off < 0x120 then s.instWord (fn - 1) ((off - 0x100) / 4)
  else if 0xF000 ≤ off ∧ off < 0xF400 then s.vectorWord (1024 + 64 * (fn - 1) + (off - 0xF000) / 16) ((off - 0xF000) / 4 % 4)
  else if 0xF400 ≤ off ∧ off < 0xF408 then s.pbaWord (32 + 2 * (fn - 1) + (off - 0xF400) / 4)
  else 0

/-- The byte lanes of DWORD `k` of a request of `n` DWORDs: bits [3:0] of `lanes` are those of its first DWORD and bits [7:4] those of its
last, where it has more than one (R92). -/
def lanesAt (lanes n k : Nat) : Nat := if k = 0 then lanes % 16 else if k + 1 = n then lanes / 16 % 16 else 15

/-- The enabled bytes of the DWORDs read, in ascending order (R92). -/
def enabledBytes (lanes : Nat) (ws : List Word) : Bytes :=
  (List.range ws.length).flatMap (fun k =>
    let b := le 4 (ws.getD k 0#32).toNat
    ((List.range 4).filter (bitAt (lanesAt lanes ws.length k))).map (fun j => b.getD j 0#8))

/-- The DWORDs an access touches, each read by a function of its offset. -/
def dwordsOf (a : BarAccess) (f : Nat → Nat) : List Word := (List.range (a.len / 4)).map (fun k => BitVec.ofNat 32 (f (a.off + 4 * k)))

/-- A read is answered in one completion, ID-Based Ordered where its enable is set (R85). -/
def answerRead (fn lanes : Nat) (ws : List Word) (s : State) : State := s.emit (.readAnswer fn s.hbr.idoCpl (enabledBytes lanes ws))

/-- A BAR4 read is answered in completions that end at 64 B boundaries (R95). -/
def answerBar4 (a : BarAccess) (lanes : Nat) (s : State) : State :=
  (hostPieces 64 64 a.len a.off a.len).foldl (fun s p =>
    let k := (p.1 - a.off) / 4
    let ws := dwordsOf ⟨0, 4, p.1, p.2⟩ s.bar4Word
    let of := fun (j : Nat) => lanesAt lanes (a.len / 4) (k + j)
    s.emit (.readAnswer 0 s.hbr.idoCpl (enabledBytes (of 0 + 16 * of (ws.length - 1)) ws))) s

/-- The header of a host's memory read of `len` bytes at an address (R85), as PCIe Base 5.0 lays it out with 64-bit addresses. Its Requester
ID and tag, which the command does not carry, are a free value (log entry 8). -/
def readHeader (s : State) (fn addr len lanes : Nat) : Nat :=
  let id := Config.unstated 13 fn s.dev.nc % 2 ^ 24
  0x20000000 + len / 4 % 1024 + (id * 256 + lanes / 16 % 16 * 16 + lanes % 16) * 2 ^ 32 + addr / 2 ^ 32 % 2 ^ 32 * 2 ^ 64
    + addr % 2 ^ 32 / 4 * 4 * 2 ^ 96

/-- The base address of a BAR (R86, R89). -/
def barBase (s : State) (fn bar : Nat) : Nat :=
  if fn ≠ 0 then s.hbr.vfBar + 0x10000 * (fn - 1)
  else if bar = 2 then (s.func 0).bar2 else if bar = 4 then (s.func 0).bar4 else (s.func 0).bar0

/-- A refused host read: Unsupported Request, which the function reports with its header (R85, R94). Where that error is not fatal it is an
advisory one beside (log entry 90). -/
def refuseRead (a : BarAccess) (lanes : Nat) (s : State) : State :=
  ((s.aerError a.fn 20 (some (s.readHeader a.fn (s.barBase a.fn a.bar + a.off) a.len lanes))).advisory a.fn 20).emit (.unsupported a.fn)

/-- Is an offset in a window on the Midnight die (R13, R96)? -/
def seamWindow (off : Nat) : Bool := windowOf off == 12 || windowOf off == 13 || windowOf off == 22

/-- A read of the MET, BIL or AON window goes over the seam; at most four are outstanding, and a fifth waits (R96). -/
def seamRead (r : SeamRead) (s : State) : State :=
  if s.hbr.seamReads.length < 4 then
    ({ s with hbr := { s.hbr with seamReads := s.hbr.seamReads ++ [r] } } : State).seamSend .noon 7 (le 4 r.off)
  else { s with hbr := { s.hbr with seamWait := s.hbr.seamWait ++ [r] } }

/-- One doorbell written through BAR2 or a virtual function's BAR0 (R50, R51, R89, R95, R99). -/
def doorbell (fn off v : Nat) (s : State) : State :=
  let tails := if fn = 0 then 0x808 else 0x80
  let heads := if fn = 0 then 0x900 else 0x80
  if off < tails then
    let d : Doorbell := { fn := fn, slot := off / 8, formOk := true, value := v }
    match s.doorbellQueue d with
    | none => s.doorbellDrop
    | some q => if off % 8 = 0 then (s.keepDoorbell (q * 2) v).sqTail q (v % 65536) else (s.keepDoorbell (q * 2 + 1) v).cqHead q (v % 65536)
  else if heads ≤ off ∧ off < heads + (if fn = 0 then 68 else 4) then
    s.headDoorbell { fn := fn, slot := (off - heads) / 4, formOk := true, value := v }
  else s.doorbellDrop

/-- A write to the doorbells: 4 or 8 bytes aligned to their size, an 8-byte write as two doorbells, the lower address first; any other is
discarded (R95). -/
def doorbells (fn off : Nat) (ws : List HostWord) (s : State) : State :=
  match ws with
  | [w] => if w.full && off % 4 == 0 then s.doorbell fn off w.value.toNat else s.bump Reg.CMD_DOORBELL_DROP
  | [w, x] =>
    if w.full && x.full && off % 8 == 0 then (s.doorbell fn off w.value.toNat).doorbell fn (off + 4) x.value.toNat
    else s.bump Reg.CMD_DOORBELL_DROP
  | _ => s.bump Reg.CMD_DOORBELL_DROP

end State

/-- HOST_REGISTER_WRITE (R9, R11 to R13, R82 to R87, R89, R90, R92 to R95, R614). A virtual function reaches no unit window (R13, R89). -/
def execHostRegisterWrite (a : BarAccess) (words : List HostWord) (s : State) : R :=
  .next (
    if a.fn ≠ 0 && !s.vfExists a.fn then s
    else if a.bar = 8 then s.cfgWrites a.fn words a.off
    else if State.breaksBoundary a then s.bump Reg.HBR_BOUNDARY_DROP
    else if State.barSize a.fn a.bar < a.off + a.len then s
    else if a.bar = 4 then s.bump Reg.HBR_BAR4_WRITE_DROP
    else if a.bar = 2 then s.doorbells 0 a.off words
    else if a.fn ≠ 0 then (if a.off < 0x84 then s.doorbells a.fn a.off words else s.writeVfWords a.fn words a.off)
    else s.writeDwords 0 words a.off)

/-- RC_REGISTER_READ (R9, R10, R13, R84 to R87, R89, R90, R92 to R96, R535): a host read. Its byte lanes limit what is returned and not its
side effects; a read of the MET, BIL or AON window goes over the seam. -/
def execRcRegisterRead (a : BarAccess) (lanes : Nat) (s : State) : R :=
  .next (
    if a.fn ≠ 0 && !s.vfExists a.fn then s.emit (.unsupported a.fn)
    else if a.bar = 8 then s.answerRead a.fn lanes (State.dwordsOf a (s.cfgWord a.fn))
    else if State.breaksBoundary a then (s.bump Reg.HBR_BOUNDARY_DROP).refuseRead a lanes
    else if State.barSize a.fn a.bar < a.off + a.len then s.refuseRead a lanes
    else if a.bar = 4 then (if s.maxRead < a.len then s.refuseRead a lanes else s.answerBar4 a lanes)
    else if a.bar = 2 then s.answerRead 0 lanes (State.dwordsOf a s.bar2Word)
    else if a.fn ≠ 0 then s.answerRead a.fn lanes (State.dwordsOf a (s.vfWord a.fn))
    else if State.seamWindow a.off then s.seamRead { fn := 0, off := a.off, words := a.len / 4, lanes := lanes }
    else
      let (vs, s) := s.readDwords 0 (a.len / 4) a.off
      s.answerRead 0 lanes vs)

/-- LOW_WORD_READ (R7, R13, R93, R96): latches the high word; with `both`, an 8-byte access that also returns it. A virtual function reaches
no unit window: the offset is one of its own BAR0. -/
def execLowWordRead (fn off : Nat) (both : Bool) (s : State) : R :=
  .next (
    let n := if both then 2 else 1
    let lanes := if both then 255 else 15
    if fn ≠ 0 then (if s.vfExists fn then s.answerRead fn lanes (State.dwordsOf ⟨fn, 0, off, 4 * n⟩ (s.vfWord fn)) else s.emit (.unsupported fn))
    else if State.seamWindow off then s.seamRead { fn := 0, off := off, words := n, lanes := lanes }
    else
      let (vs, s) := s.readDwords 0 n off
      s.answerRead 0 lanes vs)

/-- LOW_WORD_WRITE (R8): staged, with no effect of its own. -/
def execLowWordWrite (fn off : Nat) (value : Word) (s : State) : R :=
  .next (if fn = 0 && State.isLowOfPair off then s.stageLow fn off value else s)

/-- HIGH_WORD_WRITE (R8, R12): commits the high word with any staged low word. -/
def execHighWordWrite (fn off : Nat) (value : Word) (s : State) : R :=
  .next (if fn = 0 && State.isHighOfPair off then s.commitHigh fn off value else s)

/-- UNIT_LOCK_WRITE (R14, R16): LOCK is set by a 1 and returns to 0 only at power-on reset. -/
def execUnitLockWrite (unit : Nat) (value : Word) (s : State) : R :=
  .next (if decide (unit < 23) && bitAt value.toNat 0 then s.setRegBit (Reg.unitLock unit) 0 true else s)

/-- SEAM_WINDOW_READ (R13, R96): a read of one register by physical function 0. -/
def execSeamWindowRead (fn off : Nat) (s : State) : R :=
  .next (if fn = 0 && State.seamWindow off then s.seamRead { fn := fn, off := off } else s)

/-- SEAM_WINDOW_READ_RESPONSE (R20, R92, R96): the oldest read is answered, and a waiting one is sent in its place. -/
def execSeamWindowReadResponse (s : State) : R :=
  .next (
    match s.hbr.seamReads with
    | [] => s
    | r :: t =>
      let (vs, s) := s.readDwords r.fn r.words r.off
      let s := s.answerRead r.fn r.lanes vs
      match s.hbr.seamWait with
      | [] => { s with hbr := { s.hbr with seamReads := t } }
      | w :: ws => ({ s with hbr := { s.hbr with seamReads := t ++ [w], seamWait := ws } } : State).seamSend .noon 7 (le 4 w.off))

end Sys2Proof.Machine
end

