-- ==== Sys2Proof/Machine/Pwr.lean ====
section
/-! DEFINITION. Power commands and events: domains the host switches, status, shutdown, tamper acknowledgement, entry to RECOVERY,
temperature and DRAM errors (R540 to R542, R553 to R557, R592, R598). -/
set_option Elab.async false
namespace Sys2Proof.Machine
namespace State

/-! #### Domains (R540 to R542) -/

/-- A PWR.DOMAIN.SET ends with DOM_STATUS in RESULT0. -/
def domReply (d status : Nat) (s : State) : State :=
  let l := (s.domain d).cmds
  let s := s.setDom d (fun x => { x with cmds := [] })
  l.foldl (fun s c => s.replyWith c status (s.domStatus d) 0) s

/-- The class A domains that follow a class H domain which comes on (R540). -/
def followUp (d : Nat) (s : State) : State :=
  if d = 39 then (if s.plcaOn then (s.domRamp 40).domRamp 63 else s.domRamp 40)
  else if d = 21 ∨ d = 22 then (List.range (s.rfx.poolSize / 16)).foldl (fun s k => s.rampOne (23 + k)) s
  else s

/-- A unit whose domain comes on starts as at its DAWN stage (R541). -/
def unitStarts (d : Nat) (s : State) : State :=
  if d = 39 then
    { s with plc := { poolSize := max 65536 (min 1048576 (s.regField Reg.PLC_TMAP_POOL 20 0)), cfg := { netEui := s.dev.eui } } }
  else if d = 41 then ({ s with msh := { cfg := { netEui := s.dev.eui }, bcastSaved := s.msh.bcastSaved } } : State).bcastResume
  else s

/-- Sends of a unit that loses power end with PORT_DOWN. -/
def endSends (d : Nat) (s : State) : State :=
  if d = 39 then
    let l := s.plc.sends.filterMap (·.cmd)
    let s := ({ s with plc := { poolSize := s.plc.poolSize } } : State).forgetSets
    l.foldl (fun s c => (s.bump Reg.PLC_TX_REFUSED).reply c 0x0612) s
  else
    let l := s.msh.sends.filterMap (·.cmd)
    let s : State := { s with msh := { bcast := s.msh.bcast, bcastCeil := s.msh.bcastCeil, bcastSaved := s.msh.bcastSaved } }
    l.foldl (fun s c => s.reply c 0x0614) s

/-- An Ethernet port's link is down: its PTP source is disqualified, and its collectors are down. -/
def ethDown (port : Nat) (s : State) : State :=
  let s := (s.setTim (fun t => { t with ports := t.ports.del (port + 1) })).disqualify (port + 1)
  let hit := s.msh.collectors.filter (fun e => e.2.eth == port && !e.2.down)
  hit.foldl (fun s e => (s.setMsh (fun m => { m with collectors := m.collectors.put e.1 { e.2 with down := true } })).mshNotice 0
    (match s.epOf e.1 with | some (i, _) => i | none => 0) 5 0 0 e.1) s

/-- A radio port has neither clock nor framing; a bank that neither port uses goes off. -/
def rfDown (port : Nat) (s : State) : State :=
  let x := s.rfPort port
  let s := ((s.modPort port (fun x => { x with clk := false, framed := false })).abandonRx port).cutTx port
  let s := if x.clk then s.rfNotice port 1 0 else s
  let s := if x.framed then s.rfNotice port 3 0 else s
  if (s.domain (22 - port)).state = .off then (List.range 16).foldl (fun s k => s.switchOff (23 + k)) s else s

/-- What switching off a class H domain costs (R542). -/
def shutUnit (d : Nat) (s : State) : State :=
  match d with
  | 19 => s.ethDown 0
  | 20 => s.ethDown 1
  | 21 => s.rfDown 0
  | 22 => s.rfDown 1
  | 39 => ((s.endSends 39).switchOff 40).switchOff 63
  | 41 => ({ s with aon := { s.aon with bcast := if s.msh.restored then some s.msh.bcast else s.aon.bcast } } : State).endSends 41
  | 46 => { s with los := {}, ing := { s.ing with losq := [] } }
  | 47 => (s.setPar (fun p => { p with lanes := 0 })).partnerLost ⟨false, false, false⟩
  | _ => s
/-- Jobs that carry a command end (R598). -/
def endJobs (c : CmdRef) (s : State) : State :=
  State.jobsGo 68 <|
  let not' := fun (o : Option CmdRef) => !(o == some c)
  { s with
    plc := { s.plc with sends := s.plc.sends.filter (fun x => x.started || not' x.cmd) }
    msh := { s.msh with sends := s.msh.sends.filter (fun x => x.started || not' x.cmd) }
    arc := { s.arc with jobs := s.arc.jobs.filter (fun j => !(j.cmd == c)) }
    bil := { s.bil with restores := s.bil.restores.filter (fun e => !(e.2.cmd == c)) } }

end State

/-- PWR_DOMAIN_ON (R540, R541, R556): ON 1. -/
def execPwrDomainOn (c : CmdRef) (domain : Nat) (s : State) : R :=
  .next (
    if 64 ≤ domain ∨ State.domClass domain ≠ 2 then s.reply c St.badParam
    else if (s.domain domain).state = .on then s.replyWith c St.ok (s.domStatus domain) 0
    else (s.domRamp domain).setDom domain (fun x => { x with cmds := x.cmds ++ [c] }))

/-- PWR_DOMAIN_OFF (R541, R542, R556): ON 0. -/
def execPwrDomainOff (c : CmdRef) (domain : Nat) (s : State) : R :=
  .next (
    if 64 ≤ domain ∨ State.domClass domain ≠ 2 then s.reply c St.badParam
    else if (s.domain domain).state = .off then s.replyWith c St.ok (s.domStatus domain) 0
    else if domain = 47 ∧ (s.regBit Reg.PAR_CTRL 0 ∨ s.dev.role ≠ .solo) then s.reply c 0x0210
    else
      let s := ((s.switchOff domain).setDom domain (fun x => { x with hostOff := true })).shutUnit domain
      (s.domReply domain St.ok).replyWith c St.ok (s.domStatus domain) 0)

/-- DOMAIN_RAMP_DONE (R541, R556): the domain stands on, its unit starts, and the domains that follow it ramp. -/
def execDomainRampDone (domain : Nat) (s : State) : R :=
  .next (
    if (s.domain domain).state ≠ .ramping then s
    else
      let shut := s.shut domain
      let s := s.domUp domain
      let s := if shut then s.unitStarts domain else s
      ((s.followUp domain).domReply domain St.ok).headLook)

/-- DOMAIN_RAMP_FAULT (R541, R556): no supply within twice the ramp time. -/
def execDomainRampFault (domain : Nat) (s : State) : R :=
  .next (
    if (s.domain domain).state ≠ .ramping then s
    else ((s.setDom domain (fun x => { x with state := .fault, faults := x.faults + 1 })).domReply domain 0x0810).headLook)

/-- PWR_STATUS (R556): 64 B. -/
def execPwrStatus (c : CmdRef) (s : State) : R :=
  .next (
    let b := le 8 (s.domMask (· == .on)) ++ le 8 (s.domMask (· == .fault))
      ++ (List.range 8).flatMap (fun k => le 4 (s.pwr.stageTime.getD k 0)) ++ le 4 s.pwr.duskInfo ++ le 4 (s.shown Reg.PWR_RESET_CAUSE 0) ++ zeros 8
    (s.writeData c b).replyWith c St.ok (s.shown Reg.PWR_STATUS 0) 0)

/-- PWR_SHUTDOWN_RESTART (R538, R556): OP 0; QUEUED and OK are posted, and DUSK is declared with CAUSE 4. -/
def execPwrShutdownRestart (c : CmdRef) (confirm : Nat) (s : State) : R :=
  .next (if confirm ≠ 0x0000D05E then s.reply c St.badParam else ((s.replyQueued c).postNow c St.ok 0 0).duskDeclare 4)

/-- PWR_SHUTDOWN_HALT (R538, R551, R556): OP 1; the part then stays in DUSK. -/
def execPwrShutdownHalt (c : CmdRef) (confirm : Nat) (s : State) : R :=
  .next (
    if confirm ≠ 0x0000D05E then s.reply c St.badParam
    else
      let s := ((s.replyQueued c).postNow c St.ok 0 0).duskDeclare 4
      { s with pwr := { s.pwr with haltAsked := true } })

/-- VBAT_MEASURE (R553, R594): the measurement in mV while the supply is present. -/
def execVbatMeasure (mv : Nat) (s : State) : R :=
  .next (if s.dev.state = .night then s
    else { s with aon := { s.aon with vbatMv := mv, vbatLow := decide (mv < 2375 + Config.unstated 9 2 0 % 51) } })

/-- GLB_TAMPER_ACK (R68, R411, R412, R424, R555). -/
def execGlbTamperAck (c : CmdRef) (auth : AuthIn) (s : State) : R :=
  .next (if s.dataHeld c then s else
    if s.classActive 0 ∨ s.dev.tamperHold = false then s.reply c St.stateConflict
    else
      let pass := s.authPasses auth 2 s.met.covers
      let s := s.authUsed pass
      if !pass then s.reply c St.notAuthorized
      else
        let s : State := { s with dev := { s.dev with tamperHold := false }, pwr := { s.pwr with d7Waiting := false } }
        let s := ((s.holdCause 5 false).auditNow 12 0 0 0).kvtNotice 2 0 0
        (if s.dev.state = .dawn ∧ 5 ≤ s.dev.stage then s.deliverNkek else s).reply c St.ok)

/-- GLB_RECOVERY_ENTER (R67, R79, R475, R547): from DAY or TWILIGHT the completion is posted, and the part enters RECOVERY on the port named. -/
def execGlbRecoveryEnter (c : CmdRef) (confirm port : Nat) (s : State) : R :=
  .next (
    if confirm ≠ 0x0000A5C3 then s.reply c St.badParam
    else if s.dev.state ≠ .day ∧ s.dev.state ≠ .twilight then s.reply c St.stateConflict
    else
      let s := s.postNow c St.ok 0 0
      ({ s with svc := { s.svc with loaderPort := port % 2 } } : State).enterRecovery 0x0B true)

/-- THERMAL_THRESHOLD (R592): the Noon junction's temperature in °C. -/
def execThermalThreshold (temp : Int) (s : State) : R :=
  .next (
    let low := if 107 ≤ temp then true else if temp < 103 then false else s.pwr.thermLow
    if low = s.pwr.thermLow ∨ ¬(s.begun 1 ∨ s.dev.state = .recovery) then s
    else { s.emit (.pin 5 (!low)) with pwr := { s.pwr with thermLow := low } })

/-- DRAM_SCRUB (R598): a corrected error is logged with its channel, rank and address. -/
def execDramScrub (channel rank addr : Nat) (corrected : Bool) (s : State) : R :=
  .next (if corrected then
      s.logEvent 0 { recorder := 0, source := 0x13, kind := 0, arg0 := channel, arg1 := addr, arg2 := rank }
    else s)

/-- DRAM_UNCORRECTABLE (R598): the event is logged, and the job that reads the burst ends, with its command at INTERNAL_FAULT. -/
def execDramUncorrectable (channel rank addr : Nat) (job : Option CmdRef) (s : State) : R :=
  .next (
    let s := s.logEvent 0 { recorder := 0, source := 0x13, kind := 1, arg0 := channel, arg1 := addr, arg2 := rank }
    match job with
    | some c => (s.endJobs c).reply c St.internalFault
    | none => s)

end Sys2Proof.Machine
end

