-- ==== Sys2Proof/Machine/SeamRx.lean ====
section
/-! DEFINITION. What a seam packet may carry, and what the island controller admits from the Noon die (R20 to R22). -/
set_option Elab.async false
namespace Sys2Proof.Machine

/-- May a packet towards the Midnight die in a class carry this (R20)? Class 3 runs from Midnight to Noon only. -/
def midClassOk (cls : Nat) (content : SeamContent) : Bool :=
  match content with
  | .registerSet _ => cls == 6
  | .billingInterval _ => cls == 6
  | .pairRecord _ => cls == 6
  | .keyBlob _ _ _ => cls == 5
  | .stateInput => cls == 1
  | .heartbeat => cls == 2
  | .secondMark => cls == 7
  | .samples => cls == 4
  | .islandRequest op => if op / 256 = 5 then cls == 5 else if op / 256 = 9 then cls == 6 else cls == 7
  | .islandAccess _ => cls == 7
  | .islandReadout => cls == 7
  | .toNoon => false
  | .other => false

namespace State

/-- Do the island's own admission rules allow a request in its present state (R22): a key operation where R407 and R424 do, billing where
the roots are open, metrology and the readouts always? -/
def islandAdmits (s : State) (op : Nat) : Bool :=
  if (opInfo op).isNone then false
  else if op / 256 = 5 then s.rootsOpen || op == 0x0503 || op == 0x0505 || op == 0x0506 || op == 0x0507
  else if op / 256 = 9 then s.rootsOpen || op == 0x0902 || op == 0x0906
  else op / 256 == 8

/-- Does the island controller admit the content of a packet from the Noon die (R22), and the state after its checks: the island MAC of a
register set, the metrology tag of an interval, a blob's unwrap, the tag of a partner's record, and the island's own admission rules? -/
def islandAccepts (content : SeamContent) (s : State) : Bool × State :=
  match content with
  | .registerSet b => (b.length == 320 && s.islandMac (bilSetOf b) == fit 16 (bilSetOf b).mac, s)
  | .billingInterval b => s.mtagOk (recOf (fit 64 b))
  | .pairRecord tagOk => (tagOk && s.kvt.pairKey.isSome, s)
  | .keyBlob set slot inst =>
    let (k, s) := s.islandKey set slot inst
    ((match k with | .ok _ => true | _ => false), s)
  | .islandRequest op => (s.islandAdmits op, s)
  | .islandAccess off => (windowOf off == 12 || windowOf off == 13 || windowOf off == 22, s)
  | .stateInput => (true, s)
  | .heartbeat => (true, s)
  | .secondMark => (true, s)
  | .samples => (true, s)
  | .islandReadout => (true, s)
  | .toNoon => (false, s)
  | .other => (false, s)

/-- A packet that arrives whole and in sequence at a die (R21, R22). What it carries is the owning unit's: the island controller only
admits it or refuses it, and its effect comes with that unit's own command. -/
def seamGood (d : Die) (cls seq : Nat) (content : SeamContent) (s : State) : State :=
  let s := s.seamTaken d
  match d with
  | .noon => s
  | .midnight =>
    if !midClassOk cls content then s.seamRefuse cls seq
    else
      let (ok, s) := s.islandAccepts content
      if ok then s else s.seamRefuse cls seq

end State

/-- SEAM_PACKET_RECEIVED (R20 to R22). -/
def execSeamPacketReceived (die : Die) (cls seq : Nat) (crcOk : Bool) (content : SeamContent) (s : State) : R :=
  .next (if crcOk && seq == s.seamExpect die then s.seamGood die cls seq content else s.seamBad die cls seq)

end Sys2Proof.Machine
end

