-- ==== Sys2Proof/Machine/Svc.lean ====
section
/-! DEFINITION. The service ports: packets, the ROM loader, the service protocol, SSP, OSP and the test port (R467, R473 to R484). -/
set_option Elab.async false
namespace Sys2Proof.Machine

/-! ### Packets (R467, R473) -/

/-- CRC-16 of a packet: polynomial 0x1021, initial value 0xFFFF. -/
def packetCrc (b : Bytes) : Nat := crcF 16 0x1021 0xFFFF b

/-- LEN of the packet a stream begins with, and its whole length. -/
def packetLen (b : Bytes) : Nat := leAt b 3 2
def packetTotal (b : Bytes) : Nat := packetLen b + 7

/-- Is the packet a stream begins with complete, and does its CRC hold? -/
def packetWhole (b : Bytes) : Bool := decide (5 ≤ b.length) && decide (packetTotal b ≤ b.length)
def packetSound (b : Bytes) : Bool := leAt b (packetTotal b - 2) 2 == packetCrc (slice b 1 (packetTotal b - 3))

/-- Its payload. -/
def packetBody (b : Bytes) : Bytes := slice b 5 (packetLen b)

/-- A response: SOF, CMD with bit [7] set, SEQ, LEN, the payload that starts with STATUS, and the CRC. -/
def response (cmd seq status : Nat) (body : Bytes) : Bytes :=
  let x := le 1 (cmd % 128 + 128) ++ le 1 seq ++ le 2 (body.length + 1) ++ le 1 status ++ body
  le 1 0x5A ++ x ++ le 2 (packetCrc x)

/-- The SOF byte of a request. -/
abbrev sof : Byte := 0xA5#8

/-- Capacity of a stream, and the largest packet and response (R477). -/
abbrev streamCap : Nat := 8192
abbrev packetMax : Nat := 4103

/-- What a port serves (R474). -/
inductive Serves where
  | silent | loader | service
  deriving DecidableEq, Repr

/-- The commands a port serves in a mode (R467, R476). -/
def servedCmds : Serves → List Nat
  | .silent => []
  | .loader => [1, 2, 3, 4, 5, 6, 7]
  | .service => [0x01, 0x10]

namespace State

/-- Changes SVC, a port. -/
def setSvc (f : Svc → Svc) (s : State) : State := { s with svc := f s.svc }
def port (s : State) (p : Nat) : SvcPort := s.svc.ports.getD p {}
def modSvcPort (p : Nat) (f : SvcPort → SvcPort) (s : State) : State := s.setSvc (fun v => { v with ports := v.ports.upd p {} f })

/-- What a port serves now (R474). -/
def serves (s : State) (p : Nat) : Serves :=
  let svc := if s.regBit Reg.SVC_CTRL p then Serves.service else .silent
  match s.dev.state with
  | .recovery => if s.svc.loaderPort = p then .loader else .silent
  | .dawn => if 2 ≤ s.dev.stage then svc else .silent
  | .day => svc
  | .twilight => svc
  | _ => .silent

/-- The transmit stream of SSP changes, and SSP_RDY_N with it (R477). -/
def setTx (b : Bytes) (s : State) : State :=
  let was := (s.port 0).tx.isEmpty
  let s := s.modSvcPort 0 (fun x => { x with tx := b })
  if b.isEmpty = was then s else s.emit (.pin 6 b.isEmpty)

/-- A response is ready: in SSP's transmit stream, or waiting to go out on OSP. -/
def respond (p : Nat) (b : Bytes) (s : State) : State :=
  if p = 0 then s.setTx ((s.port 0).tx ++ b) else s.setSvc (fun v => { v with responses := v.responses ++ [b] })

/-- Is there room for the largest response? A packet waits in the receive stream until there is. -/
def answerRoom (s : State) (p : Nat) : Bool := p != 0 || decide ((s.port 0).tx.length + packetMax ≤ streamCap)

/-- The packet at the front of a port's stream leaves it. -/
def popPacket (p : Nat) (s : State) : State := s.modSvcPort p (fun x => { x with rx := x.rx.drop (packetTotal x.rx) })

/-- The parser of a port (R467, R473, R474): bytes before a SOF are discarded; a packet on a silent port is counted; one whose CRC fails,
that repeats the last SEQ or that the port does not serve is answered; a served one waits at the front for its own row. -/
def parse (p : Nat) : Nat → State → State
  | 0, s => s
  | fuel + 1, s =>
    let b := (s.port p).rx
    let cmd := byteAt b 1
    let seq := byteAt b 2
    if b.isEmpty then s
    else if b.head? ≠ some sof ∨ (5 ≤ b.length ∧ 4096 < packetLen b) then parse p fuel (s.modSvcPort p (fun x => { x with rx := b.drop 1 }))
    else if !packetWhole b then s
    else if s.serves p = .silent then parse p fuel ((s.popPacket p).bump Reg.SVC_PKT_REFUSED)
    else if !s.answerRoom p then s
    else if !packetSound b then parse p fuel (((s.popPacket p).bump Reg.SVC_PKT_CRC_FAIL).respond p (response cmd seq 1 []))
    else
      let again := (s.port p).last.filter (fun l => l.1 == seq)
      let served := (servedCmds (s.serves p)).contains cmd
      if again.isNone && served then s.modSvcPort p (fun x => { x with heard := true })
      else
        let r := match again with | some l => l.2 | none => response cmd seq 2 []
        let s := (s.popPacket p).modSvcPort p (fun x => { x with heard := true, last := some (seq, r) })
        parse p fuel ((if p = 1 then s.bump Reg.SVC_OSP_FRAMES else s).respond p r)

/-- A port's stream is looked at. A silent port keeps no bytes (R474). -/
def portLook (p : Nat) (s : State) : State :=
  let s := s.parse p ((s.port p).rx.length + 1)
  if s.serves p = .silent then s.modSvcPort p (fun x => { x with rx := [] }) else s

/-- The port of a packet. -/
def portOf : PortIn → Nat
  | .ssp => 0
  | .osp _ _ => 1

/-- The rate a start bit gives: 1 Mbit/s (true), 115.2 kbit/s, or none (R479). -/
def ospRate (startNs : Nat) : Option Bool :=
  if 600 ≤ startNs ∧ startNs ≤ 1600 then some true else if 6000 ≤ startNs ∧ startNs ≤ 11000 then some false else none

/-- Is OSP's receiver blanked: while the part transmits and for 20 µs after, and while the port is flooded (R479, R480)? -/
def ospBlind (s : State) : Bool := s.svc.flood || (s.svc.txUntil != 0 && decide (s.dev.nc < s.svc.txUntil + 20000))

/-- What OSP has received joins its receive stream, and sets OSP_RATE; its answer goes out 200 µs from now at the soonest (R479). -/
def takeIn (p : PortIn) (s : State) : State :=
  match p with
  | .ssp => s
  | .osp startNs b => match ospRate startNs with
    | none => s
    | some fast =>
      if s.ospBlind then s
      else (s.setSvc (fun v => { v with rate := fast, txFrom := s.dev.nc + 200000 })).modSvcPort 1 (fun x => { x with rx := x.rx ++ b })

/-- Is the packet at the front of a port's stream a sound one of command `cmd`, on a port that serves `mode` and has room to answer? -/
def packetFor (k : Nat) (mode : Serves) (cmd : Nat) (s : State) : Bool :=
  let b := (s.port k).rx
  s.serves k == mode && packetWhole b && packetSound b && byteAt b 1 == cmd && s.answerRoom k

/-- The row of a command handles the packet at the front, if it is that command's in that mode: its payload gives STATUS, the payload of
the response and the next state. SEQ is recorded with the response (R467, R473). -/
def serve (p : PortIn) (mode : Serves) (cmd : Nat) (f : Bytes → State → Nat × Bytes × State) (s : State) : State :=
  let k := portOf p
  let s := (s.takeIn p).portLook k
  let b := (s.port k).rx
  if s.packetFor k mode cmd then
    let (status, body, s) := f (packetBody b) (s.popPacket k)
    let r := response cmd (byteAt b 2) status body
    let s := s.modSvcPort k (fun x => { x with last := some (byteAt b 2, r) })
    ((if k = 1 then s.bump Reg.SVC_OSP_FRAMES else s).respond k r).portLook k
  else s

/-! ### The loader's store (R467) -/

/-- States of the slots as the loader keeps them. -/
def loaderStates (s : State) : Nat × Nat := s.upd.loader.getD (s.boot.stateA, s.boot.stateB)
def loaderState (s : State) (k : Nat) : Nat := if k = 0 then s.loaderStates.1 else s.loaderStates.2
def setLoaderState (k v : Nat) (s : State) : State :=
  let x := s.loaderStates
  if k = 0 then s.setUpd (fun u => { u with loader := some (v, x.2) })
  else if k = 1 then s.setUpd (fun u => { u with loader := some (x.1, v) })
  else s

/-- The payload of IDENT. The ROM version is a number the manual leaves open. -/
def identBody (s : State) : Bytes := le 2 0x9600 ++ le 2 (Config.unstated 7 0 0) ++ le 8 s.dev.eui ++ le 1 s.dev.life ++ fit 28 s.boot.head

/-- ERASE: REGION. -/
def loaderErase (fails : Nat) (b : Bytes) (s : State) : Nat × Bytes × State :=
  let r := byteAt b 0
  if b.length ≠ 1 ∨ 3 ≤ r then (3, [], s)
  else
    let s := (s.setUpd (fun u => { u with flash := u.flash.erase (regionBase r) (regionSize r) })).flashRetry fails
    if 3 ≤ fails then (5, [], s) else (0, [], s.setLoaderState r 0)

/-- WRITE: REGION, OFFSET and the bytes. Bytes that were not erased do not read back. -/
def loaderWrite (fails : Nat) (b : Bytes) (s : State) : Nat × Bytes × State :=
  let r := byteAt b 0
  let at' := leAt b 1 4
  let x := b.drop 5
  if b.length < 5 ∨ 3 ≤ r ∨ 4080 < x.length ∨ regionSize r < at' + x.length then (3, [], s)
  else
    let a := regionBase r + at'
    let s := ((s.setUpd (fun u => { u with flash := u.flash.program a x })).flashRetry fails).setLoaderState r 1
    if 3 ≤ fails ∨ s.upd.flash.bytes a x.length ≠ x then (5, [], s) else (0, [], s)

/-- READ: REGION, OFFSET, LEN. -/
def loaderRead (b : Bytes) (s : State) : Nat × Bytes × State :=
  let r := byteAt b 0
  let at' := leAt b 1 4
  let n := leAt b 5 2
  if b.length ≠ 7 ∨ 3 ≤ r ∨ 4080 < n ∨ regionSize r < at' + n then (3, [], s)
  else (0, s.upd.flash.bytes (regionBase r + at') n, s)

/-- CHECK: a slot. -/
def loaderCheck (sigOk : Bool) (b : Bytes) (s : State) : Nat × Bytes × State :=
  let k := byteAt b 0
  if b.length ≠ 1 ∨ 2 ≤ k then (3, [], s)
  else if s.slotPasses k sigOk then (0, [], s.setLoaderState k 2) else (4, [], s)

/-- SELECT: a slot that is VALID and bootable. -/
def loaderSelect (sigOk : Bool) (b : Bytes) (s : State) : Nat × Bytes × State :=
  let k := byteAt b 0
  if b.length ≠ 1 ∨ 2 ≤ k then (3, [], s)
  else if s.loaderState k ≠ 2 ∨ ¬s.slotPasses k sigOk then (4, [], s)
  else
    let x := s.loaderStates
    (0, [], s.commitBoot (fun r => { r with stateA := x.1, stateB := x.2, pendValid := true, pending := k, unconf := 0 }))

/-- The loader's restart: the Noon die is reset and DAWN begins (R67, R545). -/
def loaderRestart (s : State) : State :=
  ((s.noonOff false).domainsOff (fun d => decide (48 ≤ d))).startDawn .loaderRestart .recovery 0x01

/-- REG_READ: window index and offset, with no side effect (R476). -/
def regRead (b : Bytes) (s : State) : Nat × Bytes × State :=
  let w := byteAt b 0
  let off := leAt b 1 2
  if b.length ≠ 3 ∨ 0x16 < w ∨ off % 4 ≠ 0 then (3, [], s) else (0, le 4 (s.shown (windowBase w + off) 0), s)

/-! ### SSP (R477, R478) -/

/-- The SSP status byte. -/
def sspStatus (s : State) : Nat :=
  bitN (decide ((s.port 0).rx.length + packetMax ≤ streamCap)) + 2 * bitN (!(s.port 0).tx.isEmpty) + 4 * bitN s.svc.fault
    + 8 * bitN (s.serves 0 == .loader) + 16 * bitN (s.serves 0 == .silent)

/-- A fault of R478 is counted and sets FAULT. -/
def sspFault (reg : Nat) (s : State) : State := (s.bump reg).setSvc (fun v => { v with fault := true })

/-- A transaction with a complete OP goes on as `f`; one cut short is ignored; an unknown OP is counted. A row acts on its own OP only. -/
def sspTransaction (t : SspIn) (op : Nat) (f : State → State) (s : State) : State :=
  if (s.domain 9).state ≠ .on then s
  else
    let known := t.op == 1 || t.op == 2 || t.op == 3
    if 8 ≤ t.edges ∧ known ∧ t.op ≠ op then s
    else
      let s := s.setSvc (fun v => { v with mode3 := t.mode3 })
      if t.edges < 8 then s.sspFault Reg.SVC_SSP_SHORT
      else
        let s := (s.bump Reg.SVC_SSP_TRANSACTIONS).emit (.service 0 (le 1 s.sspStatus))
        if known then f s else s.bump Reg.SVC_SSP_BAD_OP

/-! ### OSP (R479 to R481) -/

/-- Bytes go out on OSP at the rate of the last packet, ten bits each (R479). -/
def ospOut (b : Bytes) (s : State) : State :=
  (s.emit (.service 1 b)).setSvc (fun v => { v with
    txUntil := max s.dev.nc v.txUntil + (if v.rate then b.length * 10000 else ceilDiv (b.length * 10000000000) 115200) })

/-- A NAK goes out (R480). -/
def sendNak (n : Nat × Nat) (s : State) : State := (s.ospOut (response n.1 n.2 1 [])).bump Reg.SVC_OSP_NAK_TX

/-- The frame OSP is receiving: the bytes from its SOF on. -/
def ospFrame (s : State) (more : Bytes) : Bytes := ((s.port 1).rx ++ more).dropWhile (· != sof)

/-- A frame under way is discarded and counted, and a NAK is due where the port serves anything. -/
def dropFrame (more : Bytes) (reg : Nat) (s : State) : State :=
  let b := s.ospFrame more
  let s := s.modSvcPort 1 (fun x => { x with rx := [] })
  if b.isEmpty then s
  else
    let s := s.bump reg
    if s.serves 1 = .silent then s
    else s.setSvc (fun v => { v with naks := v.naks ++ [(if 2 ≤ b.length then byteAt b 1 else 0xFF, if 3 ≤ b.length then byteAt b 2 else 0)] })

/-- Is OSP flooded by its ambient level or by a lit line (R480)? -/
def floods (s : State) (ambient litBits : Nat) : Bool := decide (max 1 (s.regField Reg.SVC_OSP_CFG 7 0) < ambient) || decide (20 < litBits)

/-! ### The test port (R482, R483) -/

/-- Is an instruction admitted at a TAP (0 Noon, 1 Midnight)? -/
def tapAdmits (s : State) (die code : Nat) : Bool :=
  code == 0xFF || code == 0x01 || code == 0x02
    || ((code == 0x00 || code == 0x03 || code == 0x04) && s.dev.state == .dawn && decide (s.dev.stage ≤ 2) && decide (s.dev.life ≤ 2 - die))

/-- IDCODE of a die's TAP (R482): its revision from GLB.DEV_REV, its part number, Ouvva's identity, and 1. -/
def idcode (s : State) (die : Nat) : Nat :=
  field (s.reg Reg.GLB_DEV_REV) (8 * die + 7) (8 * die) % 16 * 2 ^ 28 + (0x9600 + 2 * die) * 2 ^ 12 + 0x2B7 * 2 + 1

/-- What the chain's data registers hold for a shift after an instruction is loaded, in the order in which it leaves TDO (R482): the Midnight
die's, then the Noon die's; 32 bits of IDCODE, else a bit of BYPASS. The boundary registers are not in the manual. -/
def tapShows (s : State) : State :=
  let one := fun (die code : Nat) => if code = 0x01 then le 4 (s.idcode die) else if code = 0xFF then zeros 1 else []
  s.emit (.service 2 (one 1 s.svc.midTap ++ one 0 s.svc.noonTap))

/-- An instruction is loaded, or BYPASS in its place. -/
def tapLoad (die code : Nat) (s : State) : State :=
  let ok := s.tapAdmits die code
  let x := if ok then code else 0xFF
  let s := if ok then s else s.bump Reg.SVC_TAP_REFUSED
  let hold := ok && (code == 0x00 || code == 0x03 || code == 0x04)
  s.setSvc (fun v => { v with
    noonTap := if die = 0 then x else v.noonTap, midTap := if die = 0 then v.midTap else x, tapHold := v.tapHold || hold })

end State

/-! ### Rows: the loader and the service protocol -/

/-- LOADER_IDENT (R467). -/
def execLoaderIdent (p : PortIn) (s : State) : R := .next (s.serve p .loader 1 (fun _ s => (0, s.identBody, s)))

/-- LOADER_ERASE (R467). -/
def execLoaderErase (p : PortIn) (fails : Nat) (s : State) : R := .next (s.serve p .loader 2 (State.loaderErase fails))

/-- LOADER_WRITE (R467). -/
def execLoaderWrite (p : PortIn) (fails : Nat) (s : State) : R := .next (s.serve p .loader 3 (State.loaderWrite fails))

/-- LOADER_READ (R467). -/
def execLoaderRead (p : PortIn) (s : State) : R := .next (s.serve p .loader 4 State.loaderRead)

/-- LOADER_CHECK (R456, R467). -/
def execLoaderCheck (p : PortIn) (sigOk : Bool) (s : State) : R := .next (s.serve p .loader 5 (State.loaderCheck sigOk))

/-- LOADER_SELECT (R456, R467). -/
def execLoaderSelect (p : PortIn) (sigOk : Bool) (s : State) : R := .next (s.serve p .loader 6 (State.loaderSelect sigOk))

/-- LOADER_RESTART (R67, R467, R545): the part leaves RECOVERY at once; the reset takes the streams with it, so
no response goes out. -/
def execLoaderRestart (p : PortIn) (s : State) : R := .next (
    let s := (s.takeIn p).portLook (State.portOf p)
    if s.packetFor (State.portOf p) .loader 7 then s.loaderRestart else s)

/-- PACKET_SILENCE_TIMEOUT (R467): a packet still incomplete after 100 ms of silence is discarded. -/
def execPacketSilenceTimeout (port : Nat) (s : State) : R :=
  .next (
    let s := s.portLook port
    let b := (s.port port).rx
    if b.isEmpty || packetWhole b then s else (s.modSvcPort port (fun x => { x with rx := [] })).bump Reg.SVC_PKT_SILENCE_DROP)

/-- SVC_IDENT (R476). -/
def execSvcIdent (p : PortIn) (s : State) : R := .next (s.serve p .service 1 (fun _ s => (0, s.identBody, s)))

/-- SVC_REG_READ (R476). -/
def execSvcRegRead (p : PortIn) (s : State) : R := .next (s.serve p .service 0x10 State.regRead)

/-! ### Rows: SSP -/

/-- SSP_PUT (R477, R478): whole bytes join the receive stream as far as it has room. -/
def execSspPut (t : SspIn) (bytes : Bytes) (midByte : Bool) (s : State) : R :=
  .next (s.sspTransaction t 1 (fun s =>
    let room := streamCap - (s.port 0).rx.length
    let s := s.modSvcPort 0 (fun x => { x with rx := x.rx ++ bytes.take room })
    let s := if bytes.isEmpty then s else s.emit (.service 0 (List.replicate bytes.length 0xFF#8))
    let s := if room < bytes.length then s.sspFault Reg.SVC_SSP_OVERRUN else s
    (if midByte then s.sspFault Reg.SVC_SSP_PARTIAL else s).portLook 0))

/-- SSP_GET (R477, R478): `clocked` whole bytes are clocked after OP, the first of them N; the rest take from the transmit stream. -/
def execSspGet (t : SspIn) (clocked : Nat) (midByte : Bool) (s : State) : R :=
  .next (s.sspTransaction t 2 (fun s =>
    let tx := (s.port 0).tx
    let n := min 255 tx.length
    let k := min n (clocked - 1)
    let s := if clocked = 0 then s else s.emit (.service 0 (le 1 n ++ tx.take k ++ List.replicate (clocked - 1 - k) 0xFF#8))
    let s := s.setTx (tx.drop k)
    (if midByte then s.sspFault Reg.SVC_SSP_PARTIAL else s).portLook 0))

/-- SSP_STAT (R477): the status byte, and FAULT clears. -/
def execSspStat (t : SspIn) (s : State) : R :=
  .next (s.sspTransaction t 3 (fun s => (s.emit (.service 0 (le 1 s.sspStatus))).setSvc (fun v => { v with fault := false })))

/-! ### Rows: OSP -/

/-- OSP_RESPONSE_SEND (R479 to R481): a NAK or response due goes out while the line is dark, OSP is not flooded and the part does not
transmit; a response no sooner than 200 µs after its request. -/
def execOspResponseSend (dark : Bool) (s : State) : R :=
  .next (
    if !dark || s.svc.flood || decide (s.dev.nc < s.svc.txUntil) then s
    else match s.svc.naks, s.svc.responses with
      | n :: t, _ => (s.setSvc (fun v => { v with naks := t })).sendNak n
      | [], b :: t => if s.dev.nc < s.svc.txFrom then s else (s.setSvc (fun v => { v with responses := t })).ospOut b
      | [], [] => s)

/-- OSP_FLOOD_START (R480): the ambient level and the bit periods the line has been lit; `frame` is what has come of a frame under way. -/
def execOspFloodStart (ambient litBits : Nat) (frame : Bytes) (s : State) : R :=
  .next (
    let s := s.setSvc (fun v => { v with ambient := ambient % 256 })
    if s.svc.flood || !s.floods ambient litBits then s
    else ((s.setSvc (fun v => { v with flood := true })).bump Reg.SVC_OSP_FLOOD_EVENTS).dropFrame frame Reg.SVC_OSP_FLOOD_DROP)

/-- OSP_FLOOD_CLEAR (R480): 10 ms without either condition; the NAKs due go out. -/
def execOspFloodClear (ambient : Nat) (s : State) : R :=
  .next (
    let s := s.setSvc (fun v => { v with ambient := ambient % 256 })
    if !s.svc.flood || s.floods ambient 0 then s
    else
      let l := s.svc.naks
      l.foldl (fun s n => s.sendNak n) (s.setSvc (fun v => { v with flood := false, naks := [] })))

/-- OSP_RESPONSE_DROP (R480): the oldest response or NAK has waited for 2 s of flood. -/
def execOspResponseDrop (s : State) : R :=
  .next (
    if !s.svc.flood then s
    else match s.svc.naks, s.svc.responses with
      | _ :: t, _ => (s.setSvc (fun v => { v with naks := t })).bump Reg.SVC_RESP_DROP
      | [], _ :: t => (s.setSvc (fun v => { v with responses := t })).bump Reg.SVC_RESP_DROP
      | [], [] => s)

/-- OSP_FRAMING_ERROR (R481): the frame is discarded, and its NAK goes out once the line is dark. -/
def execOspFramingError (frame : Bytes) (s : State) : R := .next (s.dropFrame frame Reg.SVC_OSP_FRAMING_ERR)

/-- OSP_LOADER_MOVE (R475): for cause 0x0D, once, while SSP has heard no packet whose CRC passed. -/
def execOspLoaderMove (s : State) : R :=
  .next (
    if s.dev.state = .recovery ∧ s.reg Reg.GLB_STATE_CAUSE % 256 = 0x0D ∧ s.svc.loaderPort = 0 ∧ s.svc.moved = false ∧ (s.port 0).heard = false then
      s.setSvc (fun v => { v with loaderPort := 1, moved := true })
    else s)

/-! ### Rows: the test port -/

/-- TAP_INSTRUCTION_LOAD (R482, R483): the instructions of the two TAPs. -/
def execTapInstructionLoad (noon mid : Nat) (s : State) : R := .next ((s.tapLoad 0 noon).tapLoad 1 mid).tapShows

/-- TAP_RESET (R482, R483): IDCODE in both TAPs, for the next shift to show; where a hold ends, the device reset follows and DAWN restarts with cause 0x01. -/
def execTapReset (s : State) : R :=
  .next (
    let held := s.svc.tapHold
    let s := (s.setSvc (fun v => { v with noonTap := 1, midTap := 1, tapHold := false })).tapShows
    if held && s.dev.state == .dawn then
      let kind := s.pwr.resetKind
      let was := s.pwr.cameFrom
      ((s.noonOff false).domainsOff (fun d => decide (48 ≤ d))).startDawn kind was 0x01
    else s)

end Sys2Proof.Machine
end

