-- ==== Sys2Proof/Machine/Upd.lean ====
section
/-! DEFINITION. Firmware update: staging, verification, activation, confirmation, rollback, endpoint campaigns and the relay chain
(R451 to R472). -/
set_option Elab.async false
namespace Sys2Proof.Machine

/-- The largest package (R470). -/
abbrev stageMax : Nat := 15728640

/-- Bytes of a granule (R457) and of a chunk (R465). -/
abbrev granule : Nat := 65536
abbrev chunk : Nat := 1024

/-! ### Relay datagrams (R465) -/

/-- A datagram with its CRC. -/
def relayBytes (kind sender offset : Nat) (body : Bytes) : Bytes :=
  let b := le 1 1 ++ le 1 kind ++ zeros 2 ++ le 8 sender ++ le 4 offset ++ body
  b ++ le 4 (crc32c b)

/-- The body of a datagram: between the header and the CRC. -/
def relayBody (b : Bytes) : Bytes := (b.take (b.length - 4)).drop 16

/-- Do its VER, KIND, length and CRC hold? -/
def relaySound (b : Bytes) : Bool :=
  decide (20 ≤ b.length) && byteAt b 0 == 1 && decide (1 ≤ byteAt b 1 ∧ byteAt b 1 ≤ 7)
    && leAt b (b.length - 4) 4 == crc32c (b.take (b.length - 4))

/-- KIND, SENDER and OFFSET. -/
def relayKind (b : Bytes) : Nat := byteAt b 1
def relaySender (b : Bytes) : Nat := leAt b 4 8
def relayOffset (b : Bytes) : Nat := leAt b 12 4

namespace State

/-! ### Staging (R457, R466) -/

/-- Bytes of the present staging user not yet programmed. -/
def stageRest (s : State) : Bytes :=
  match s.upd.download, s.upd.relayRx with
  | some d, _ => d.rest
  | none, some r => r.held
  | none, none => []

/-- Bytes the next granule takes: 64 KiB, or what ends the package. Fewer are not programmed (R455). -/
def nextGranule (s : State) : Nat :=
  let b := s.boot
  let n := s.stageRest.length
  if granule ≤ n then granule else if b.stageLen + n = b.stageTotal then n else 0

/-- The staging user's command ends with STAGE_LEN in RESULT0. -/
def endStaging (status : Nat) (s : State) : State :=
  let c := match s.upd.download, s.upd.relayRx with | some d, _ => some d.cmd | none, some r => some r.cmd | none, none => none
  let s := s.setUpd (fun u => { u with download := none, relayRx := none })
  match c with
  | some c => s.replyWith c status s.boot.stageLen 0
  | none => s

/-- A host download with nothing left to program is complete. -/
def downloadLook (s : State) : State := if s.upd.download.isSome && s.nextGranule == 0 then s.endStaging St.ok else s

/-- The status that an OFFSET and TOTAL meet, OK where staging may be used (R457, R470). -/
def stagingStatus (s : State) (offset total len : Nat) : Nat :=
  if s.stageUser ≠ 0 then 0x0212
  else if offset = 0 then (if stageMax < total then 0x0510 else if total < len then St.badParam else St.ok)
  else if offset ≠ s.boot.stageLen ∨ s.boot.stageTotal < offset + len then St.badParam
  else St.ok

/-! ### Verification (R458) -/

/-- The image that a staged package gives; none for a malformed delta (R454). -/
def stagedImage (s : State) : Option Bytes :=
  let h := s.stageHeader
  if pkKind h = 0 then some s.stageBody
  else runDelta (s.slotImage s.boot.active) (pkImageLen h) (s.stageBody.length + 1) s.stageBody []

/-- The first of steps 1 to 6 that fails; 0 where all pass. -/
def verifyStep (s : State) (sigOk : Bool) : Nat :=
  let b := s.boot
  let h := s.stageHeader
  let base := s.slotHeader b.active
  if b.stageTotal = 0 ∨ b.stageLen ≠ b.stageTotal ∨ ¬pkFieldsOk h b.stageTotal then 1
  else if !s.authentic h sigOk then 2
  else if sha384 s.stageBody ≠ pkBodyDigest h then 3
  else if pkFwId h < b.floor then 4
  else if pkKind h = 1 ∧ ¬(pkFwId base = pkBaseId h ∧ pkImageDigest base = pkBaseDigest h) then 5
  else if !pkIslOk h (if pkIslLen h = 0 then s.met.swId else pkIslSw h) then 6
  else 0

/-- Step 7: the inactive slot is set to WRITING, erased and written. A malformed delta leaves its header alone written. -/
def writeSlot (image : Option Bytes) (s : State) : State :=
  let k := s.inactive
  let s := s.commitBoot (BootRec.setState k 1)
  s.setUpd (fun u => { u with
    flash := (u.flash.erase (slotBase k) slotSize).program (slotBase k) (s.stageHeader ++ image.getD []) })

/-! ### The sending side of the relay (R466) -/

/-- The configuration of a successor (R472). -/
def relayCfg (s : State) (k : Nat) : Nat := s.regI Reg.UPD_RELAY_CFG k
def relayAddress (s : State) (k : Nat) : Nat :=
  ((s.regI Reg.UPD_RELAY_ADDR0 k * 2 ^ 32 + s.regI Reg.UPD_RELAY_ADDR1 k) * 2 ^ 32 + s.regI Reg.UPD_RELAY_ADDR2 k) * 2 ^ 32
    + s.regI Reg.UPD_RELAY_ADDR3 k

/-- A relay datagram goes out through its port's lane of the launch queue, where both permits and the Ethernet port are up (R31, R466, R542). -/
def relayOut (eth address port kind offset : Nat) (body : Bytes) (s : State) : State :=
  if s.permits && !s.shut (19 + eth) then
    (s.passLaunch (9 + eth) s.nowNs 16 0 (State.emit (.udp eth address port (relayBytes kind s.dev.eui offset body)))).bump Reg.UPD_RELAY_TX
  else s

/-- A datagram to a successor. -/
def relayTo (k kind offset : Nat) (body : Bytes) (s : State) : State :=
  let w := s.relayCfg k
  s.relayOut (field w 17 17) (s.relayAddress k) (field w 15 0) kind offset body

/-- The staged package's bytes. -/
def staged (s : State) : Bytes := s.upd.flash.bytes stageBase s.boot.stageTotal

/-- The OFFER of the staged package. -/
def offerBody (s : State) : Bytes := sha384 s.staged ++ le 4 s.boot.stageTotal ++ le 4 (pkFwId s.stageHeader)

/-- Changes a relay. -/
def modRelay (k : Nat) (f : RelayTx → RelayTx) (s : State) : State := s.setUpd (fun u => { u with relays := u.relays.upd k {} f })

/-- Chunks go out while at most 64 are unacknowledged; once all are acknowledged, DONE. -/
def relaySendOn (k : Nat) (s : State) : State :=
  let x := s.upd.relays.getD k {}
  let total := s.boot.stageTotal
  if total ≤ x.acked then s.relayTo k 6 0 []
  else
    let n := ceilDiv (min total (x.acked + 64 * chunk) - x.sent) chunk
    let s := (List.range n).foldl (fun s i =>
      let at' := x.sent + i * chunk
      s.relayTo k 4 at' (s.upd.flash.bytes (stageBase + at') (min chunk (total - at')))) s
    s.modRelay k (fun x => { x with sent := max x.sent (min total (x.acked + 64 * chunk)) })

/-- The staged package is offered to every enabled successor (R466). -/
def relayOffer (s : State) : State :=
  if !(s.regBit Reg.UPD_CTRL 0 && s.permits) then s
  else
    let body := s.offerBody
    (List.range 4).foldl (fun s k =>
      if bitAt (s.relayCfg k) 16 then (s.modRelay k (fun _ => { state := 1 })).relayTo k 1 0 body else s) s

/-- A relay to a successor has failed (R466). -/
def relayFail (k code : Nat) (s : State) : State :=
  (s.modRelay k (fun x => { x with state := 4, code := code })).updNotice 3 k (pkFwId s.stageHeader)

/-- The enabled successor a datagram comes from. -/
def relayFrom (s : State) (d : RelayIn) : Option Nat :=
  (List.range 4).find? (fun k =>
    let w := s.relayCfg k
    bitAt w 16 && field w 17 17 == d.eth && field w 15 0 == d.port && s.relayAddress k == d.address)

/-- A sound datagram of a kind that reaches RX_PORT of a port that receives is handled; one that is not sound is dropped and counted
(R42, R45, R465, R472). -/
def relayTake (d : RelayIn) (kind : Nat) (f : State → State) (s : State) : State :=
  if d.dport ≠ s.regField Reg.UPD_RX_PORT 15 0 ∨ ¬s.ethUp d.eth then s
  else if !relaySound d.bytes then s.bump Reg.UPD_RELAY_DROP
  else if relayKind d.bytes ≠ kind then s
  else f s

/-- A datagram from a successor whose relay stands in one of the states given is accepted; another is dropped. -/
def fromSuccessor (d : RelayIn) (states : List Nat) (f : Nat → State → State) (s : State) : State :=
  match s.relayFrom d with
  | some k => if states.contains (s.upd.relays.getD k {}).state then f k (s.bump Reg.UPD_RELAY_RX) else s.bump Reg.UPD_RELAY_DROP
  | none => s.bump Reg.UPD_RELAY_DROP

/-! ### The receiving side of the relay (R466) -/

/-- Is the sender the predecessor? -/
def fromPred (s : State) (d : RelayIn) : Bool := relaySender d.bytes == s.regPair Reg.UPD_PRED_EUI_LO

/-- An answer to a datagram goes to its source. -/
def relayAnswer (d : RelayIn) (kind offset : Nat) (body : Bytes) (s : State) : State := s.relayOut d.eth d.address d.port kind offset body

/-- Bytes received in order. -/
def relayGot (s : State) : Nat := s.boot.stageLen + (match s.upd.relayRx with | some r => r.held.length | none => 0)

/-- The code with which an OFFER is refused; 0 where it is accepted. -/
def offerCode (s : State) (d : RelayIn) : Nat :=
  let b := relayBody d.bytes
  let digest := b.take 48
  match s.upd.relayRx with
  | none => if s.stageUser = 0 then 2 else 1
  | some r =>
    if !s.fromPred d then 2
    else if leAt b 52 4 < s.boot.floor then 4
    else match r.offer with
      | some (x, len, _) => if x = digest ∧ len = leAt b 48 4 then 0 else 2
      | none => if leAt b 48 4 = s.boot.stageTotal then 0 else 2

/-! ### Activation (R459 to R463) -/

/-- Has the instant of an activation come (R459)? -/
def activationDue (s : State) (a : Activation) : Bool :=
  match a.when' with
  | 0 => true
  | 1 => match s.fwNight a.calId with | some n => a.night != some n | none => false
  | _ => decide (a.at' ≤ s.nowNs)

/-- Does the image carry an island section other than the one that runs? -/
def islandDiffers (s : State) : Bool :=
  let h := s.slotHeader s.inactive
  pkIslLen h != 0 && pkIslSw h != s.met.swId

/-- The island section is loaded whole (R344, R459). -/
def loadIsland (s : State) : State :=
  let h := s.slotHeader s.inactive
  let d := sha384 (slice (s.slotImage s.inactive) (pkIslOff h) (pkIslLen h))
  let old := s.met.swId
  (s.setMet (fun m => { m with swId := pkIslSw h, swDigest := d })).sealEvent 6 old (pkIslSw h) []

/-- An activation ends with a status and nothing done. -/
def endActivation (a : Activation) (status : Nat) (s : State) : State :=
  (s.setUpd (fun u => { u with activation := none })).reply a.cmd status

/-- The boot record puts the inactive slot on trial, the completion is posted and the part restarts (R459). -/
def trialRestart (a : Activation) (drained : Nat) (s : State) : State :=
  let k := s.inactive
  let s := (s.setUpd (fun u => { u with activation := none })).commitBoot (fun b => { b with pendValid := true, pending := k, unconf := 0 })
  (s.postNow a.cmd St.ok 0 0).noonRestart drained

end State

/-! ### Download and verification -/

/-- UPD_DOWNLOAD_HOST (R457, R470): SOURCE 0. -/
def execUpdDownloadHost (c : CmdRef) (offset total : Nat) (data : Bytes) (s : State) : R :=
  .next (if s.dataHeld c then s else
    let st := s.stagingStatus offset total data.length
    if st ≠ St.ok then s.reply c st
    else
      let s := s.replyQueued c
      let s := if offset = 0 then s.openStage total else s
      (s.setUpd (fun u => { u with download := some { cmd := c, rest := data } })).downloadLook)

/-- UPD_DOWNLOAD_RELAY (R457, R466, R470, R472): SOURCE 1. -/
def execUpdDownloadRelay (c : CmdRef) (offset total : Nat) (s : State) : R :=
  .next (
    if !s.regBit Reg.UPD_CTRL 1 then s.reply c St.functionDisabled
    else
      let st := s.stagingStatus offset total 0
      if st ≠ St.ok then s.reply c st
      else
        let s := s.replyQueued c
        let s := if offset = 0 then s.openStage total else s
        s.setUpd (fun u => { u with relayRx := some { cmd := c } }))

/-- UPD_DISCARD_STAGING (R457, R470): SOURCE 2. -/
def execUpdDiscardStaging (c : CmdRef) (s : State) : R :=
  .next (if s.stageUser ≠ 0 then s.reply c 0x0212 else ((s.replyQueued c).openStage 0).replyWith c St.ok 0 0)

/-- FLASH_GRANULE_DONE (R457, R470, R472): the next granule of staging has been programmed and read back, after `fails` read-backs that
failed; three end the command with FLASH_FAULT. -/
def execFlashGranuleDone (fails : Nat) (s : State) : R :=
  .next (
    let n := s.nextGranule
    if n = 0 then s
    else
      let s := s.flashRetry fails
      if 3 ≤ fails then s.endStaging 0x0810
      else
        let b := s.stageRest.take n
        let s := s.setUpd (fun u => { u with
          download := u.download.map (fun d => { d with rest := d.rest.drop n })
          relayRx := u.relayRx.map (fun r => { r with held := r.held.drop n }) })
        (s.stageGranule b).downloadLook)

/-- UPD_VERIFY (R458, R464, R466, R470): `cut` names the step at which power is then lost. -/
def execUpdVerify (c : CmdRef) (apply sigOk : Bool) (fails : Nat) (cut : Option Nat) (s : State) : R :=
  .next (
    if s.dev.life = 4 ∨ s.boot.pendValid then s.reply c St.stateConflict
    else if s.stageUser ≠ 0 then s.reply c 0x0212
    else
      let s := s.replyQueued c
      let hold := fun (s : State) => s.setUpd (fun u => { u with verify := some c })
      let bad := s.verifyStep sigOk
      let pass := fun (s : State) => (s.replyWith c St.ok (pkFwId s.stageHeader) 0).relayOffer
      if cut.any (fun k => decide (k ≤ 6)) then hold s
      else if bad ≠ 0 then s.replyWith c St.checkFailed 0 bad
      else if !apply then pass s
      else
        let image := s.stagedImage
        let s := (s.writeSlot image).flashRetry fails
        if cut.isSome then hold s
        else if image.isNone ∨ sha384 (image.getD []) ≠ pkImageDigest s.stageHeader then s.replyWith c St.checkFailed 0 7
        else if 3 ≤ fails then s.reply c 0x0810
        else pass (s.commitBoot (BootRec.setState s.inactive 2)))

/-! ### Activation, confirmation and rollback -/

/-- UPD_ACTIVATE (R459, R460, R470): the activation is scheduled, and acts at ACTIVATION_INSTANT. -/
def execUpdActivate (c : CmdRef) (when' calId launchAt : Nat) (s : State) : R :=
  .next (
    let ns := launchAt / 2 ^ 30 * 1000000000 + launchAt % 2 ^ 30
    let noWindow : Bool := match s.fwCal calId with | some b => leAt b 52 2 == 0 | none => true
    if 3 ≤ when' ∨ (when' = 1 ∧ (noWindow ∨ 16 ≤ calId)) ∨ (when' = 2 ∧ (State.stampBad launchAt ∨ ns < s.nowNs + 1000000000)) then s.reply c St.badParam
    else if s.activateBarred ∨ s.upd.activation.isSome then s.reply c St.stateConflict
    else
      let a : Activation := { cmd := c, when' := when', calId := calId, at' := ns, night := if when' = 1 then s.fwNight calId else none }
      (s.replyQueued c).setUpd (fun u => { u with activation := some a }))

/-- UPD_ACTIVATE_CANCEL (R459): WHEN 3. -/
def execUpdActivateCancel (c : CmdRef) (s : State) : R :=
  .next (match s.upd.activation with
    | none => s.reply c St.stateConflict
    | some a => ((s.replyQueued c).endActivation a 0x0214).reply c St.ok)

/-- ACTIVATION_INSTANT (R344, R459, R460, R464): `cut` says that power is lost after the island load and before the boot record's
commit; `drained` is how many frames of the burst buffer COD takes before the restart. -/
def execActivationInstant (loadOk cut : Bool) (drained : Nat) (s : State) : R :=
  .next (
    match s.upd.activation with
    | none => s
    | some a =>
      if !s.activationDue a then s
      else if s.activateBarred then s.endActivation a St.stateConflict
      else if s.islandDiffers then
        if s.met.sealState ≠ 0 then s.endActivation a 0x0210
        else if !loadOk || !s.sealRoom then s.endActivation a St.checkFailed
        else if cut then s.loadIsland
        else s.loadIsland.trialRestart a drained
      else if cut then s
      else s.trialRestart a drained)

/-- CONFIRM_WINDOW_WARNING (R462, R471): 60 s of the 600 s are left. -/
def execConfirmWindowWarning (s : State) : R :=
  .next (if s.windowGone.any (fun t => decide (540000000000 ≤ t)) && !s.upd.warned then
      (s.setUpd (fun u => { u with warned := true })).updNotice 4 0 s.dev.fwId else s)

/-- CONFIRM_WINDOW_EXPIRY (R462): the part restarts. -/
def execConfirmWindowExpiry (drained : Nat) (s : State) : R :=
  .next (if s.windowGone.any (fun t => decide (600000000000 ≤ t)) then s.noonRestart drained else s)

/-- A good confirmation (R463): the pending slot becomes the active one, the floor rises to its package's, and the notice
is sent. -/
def State.confirmed (fwId floor : Nat) (s : State) : State :=
  let s := s.commitBoot (fun b => { b with active := b.pending, pendValid := false, unconf := 0, floor := max b.floor floor })
  (s.setUpd (fun u => { u with confirmFrom := none })).updNotice 5 0 fwId

/-- UPD_CONFIRM (R462, R470, R471). -/
def execUpdConfirm (c : CmdRef) (fwId : Nat) (s : State) : R :=
  .next (
    let b := s.boot
    if !b.pendValid then s.reply c St.stateConflict
    else
      let h := s.slotHeader b.pending
      if !s.windowGone.any (fun t => decide (t < 600000000000)) then s.reply c St.stateConflict
      else if fwId ≠ pkFwId h ∨ s.upd.slot ≠ b.pending then s.reply c St.badParam
      else
        let s := s.confirmed fwId (pkFloor h)
        s.replyWith c St.ok s.boot.floor 0)

/-- UPD_ROLLBACK (R463, R470). -/
def execUpdRollback (c : CmdRef) (confirm : Nat) (sigOk : Bool) (drained : Nat) (s : State) : R :=
  .next (
    let k := s.inactive
    if confirm ≠ 0x00002B1C then s.reply c St.badParam
    else if s.boot.pendValid ∨ ¬s.bootable k sigOk then s.reply c St.stateConflict
    else
      let s := (s.replyQueued c).commitBoot (fun b => { b with active := k })
      (s.postNow c St.ok 0 0).noonRestart drained)

/-! ### Endpoint campaigns -/

/-- UPD_CAMPAIGN_LOAD (R469, R470): OP 0. -/
def execUpdCampaignLoad (c : CmdRef) (campaign imageId : Nat) (image : Bytes) (s : State) : R :=
  .next (if s.dataHeld c then s else if 4194304 < image.length then s.reply c St.badLength
    else if 2 ≤ campaign then s.reply c St.badParam
    else (s.setUpd (fun u => { u with images := u.images.put campaign (imageId, image) })).reply c St.ok)

/-- UPD_CAMPAIGN_START (R469, R470): OP 1. -/
def execUpdCampaignStart (c : CmdRef) (p : FwStartIn) (s : State) : R :=
  .next (if s.dataHeld c then s else
    if 2 ≤ p.campaign ∨ 16 ≤ p.calId ∨ 8 ≤ p.media ∨ p.group % 2 = 0 ∨ p.repeats = 0 ∨ 4 < p.repeats ∨ p.remulti = 0 ∨ 100 < p.remulti
      ∨ p.deadlineH = 0 ∨ 8760 < p.deadlineH ∨ p.endpoints.isEmpty ∨ 262144 < p.endpoints.length
      ∨ p.endpoints.any (fun i => decide (2 ^ 21 ≤ i)) ∨ State.stampBad p.activateAt then s.reply c St.badParam
    else if p.endpoints.any (s.bilForeign c) then s.reply c St.notAuthorized
    else if s.upd.campaigns.has p.campaign then s.reply c St.stateConflict
    else match s.upd.images.get? p.campaign with
    | none => s.reply c St.stateConflict
    | some (id, image) =>
      if id ≠ p.imageId then s.reply c St.badParam
      else
        let x : FwCampaign :=
          { cmd := c, calId := p.calId, media := p.media, keyref := p.keyref, group := p.group, repeats := p.repeats, remulti := p.remulti
            imageId := id, activateAt := p.activateAt, image := image, start := s.stamp, deadline := s.tim.sec + p.deadlineH * 3600
            endpoints := p.endpoints.eraseDups }
        let s := (s.replyQueued c).setUpd (fun u => { u with campaigns := u.campaigns.put p.campaign x })
        if s.fwMay && (s.fwNight p.calId).isSome then s.fwOpen p.campaign else s)

/-- UPD_STATUS (R470). -/
def execUpdStatus (c : CmdRef) (scope : Nat) (s : State) : R :=
  .next (
    let id := fun (k : Nat) => pkFwId (s.slotHeader k)
    let part := fit 28 s.boot.head ++ le 4 s.dev.fwId ++ le 4 (id 0) ++ le 4 (id 1) ++ le 4 s.confirmLeft ++ le 4 (pkFwId s.stageHeader)
    let camp := match s.upd.campaigns.get? (scope - 1) with
      | none => []
      | some x => le 4 x.imageId ++ le 4 x.endpoints.length ++ le 4 x.confirmed.length ++ le 4 x.failed.length ++ le 4 x.nights
          ++ le 4 x.segments ++ le 8 x.start
    if 2 < scope then s.reply c St.badParam
    else (s.writeData c (fit 64 (if scope = 0 then part else camp))).replyWith c St.ok s.updStatus 0)

/-- UPD_CAMPAIGN_ABORT (R470): the campaign ends ABORTED, and its announcement goes out in the next window. -/
def execUpdCampaignAbort (c : CmdRef) (campaign : Nat) (s : State) : R :=
  .next (match s.upd.campaigns.get? campaign with
    | none => s.reply c St.ok
    | some x => ((s.fwEnd campaign 0x0214).setUpd (fun u => { u with aborts := u.aborts.put campaign x })).reply c St.ok)

/-- UPD_CAMPAIGN_WINDOW (R469, R470): at the opening or the close of its window a campaign resumes or pauses, and the announcement of an
aborted one goes out. -/
def execUpdCampaignWindow (campaign : Nat) (s : State) : R :=
  .next (
    let s := match s.upd.aborts.get? campaign with
      | some x =>
        if s.fwMay && (s.fwNight x.calId).isSome then
          (s.fwMulticast campaign x [fwAnnounce x true]).setUpd (fun u => { u with aborts := u.aborts.del campaign })
        else s
      | none => s
    match s.upd.campaigns.get? campaign with
    | none => s
    | some x =>
      let open' := s.fwMay && (s.fwNight x.calId).isSome
      if x.paused && open' then (s.updNotice 8 campaign x.imageId).fwOpen campaign
      else if !x.paused && !open' then s.fwPause campaign
      else s)

/-- UPD_CAMPAIGN_REPORT_QUERY (R469 step 3). -/
def execUpdCampaignReportQuery (campaign : Nat) (s : State) : R :=
  .next (match s.upd.campaigns.get? campaign with
    | some x => if x.paused then s else s.fwQuery campaign
    | none => s)

/-- UPD_CAMPAIGN_DEADLINE (R469 step 6). -/
def execUpdCampaignDeadline (campaign : Nat) (s : State) : R :=
  .next (match s.upd.campaigns.get? campaign with
    | some x => if x.deadline ≤ s.tim.sec then s.fwEnd campaign 0x0213 else s
    | none => s)

/-! ### The relay chain (R465, R466) -/

/-- RELAY_OFFER_RECEIVED: accepted with the resume offset, or refused. -/
def execRelayOfferReceived (d : RelayIn) (s : State) : R :=
  .next (s.relayTake d 1 (fun s =>
    let code := s.offerCode d
    if code ≠ 0 then (s.bump Reg.UPD_RELAY_RX).relayAnswer d 3 0 (le 1 code)
    else
      let b := relayBody d.bytes
      let s := (s.bump Reg.UPD_RELAY_RX).setUpd (fun u => { u with
        relayRx := u.relayRx.map (fun r => { r with offer := some (b.take 48, leAt b 48 4, leAt b 52 4), held := [], chunks := 0 }) })
      s.relayAnswer d 2 s.boot.stageLen []))

/-- RELAY_ACCEPT_RECEIVED: DATA starts at the resume offset. -/
def execRelayAcceptReceived (d : RelayIn) (s : State) : R :=
  .next (s.relayTake d 2 (fun s => s.fromSuccessor d [1] (fun k s =>
    let o := min (relayOffset d.bytes) s.boot.stageTotal
    (s.modRelay k (fun x => { x with state := 2, acked := o, sent := o, resends := 0 })).relaySendOn k)))

/-- RELAY_REFUSE_RECEIVED: the relay to that successor ends. -/
def execRelayRefuseReceived (d : RelayIn) (s : State) : R :=
  .next (s.relayTake d 3 (fun s => s.fromSuccessor d [1, 2] (fun k s =>
    s.modRelay k (fun x => { x with state := 5, code := byteAt (relayBody d.bytes) 0 }))))

/-- RELAY_DATA_RECEIVED: a chunk in order is taken, and acknowledged every 16 and at the end; one out of order is dropped and answered
with an ACK. -/
def execRelayDataReceived (d : RelayIn) (s : State) : R :=
  .next (s.relayTake d 4 (fun s =>
    match s.upd.relayRx with
    | none => s.bump Reg.UPD_RELAY_DROP
    | some r =>
      let b := relayBody d.bytes
      let got := s.relayGot
      let total := s.boot.stageTotal
      if r.offer.isNone || !s.fromPred d || b.isEmpty || decide (chunk < b.length) || decide (total < relayOffset d.bytes + b.length) then
        s.bump Reg.UPD_RELAY_DROP
      else if relayOffset d.bytes ≠ got then (s.bump Reg.UPD_RELAY_DROP).relayAnswer d 5 got []
      else
        let due := decide (16 ≤ r.chunks + 1) || got + b.length == total
        let s := (s.bump Reg.UPD_RELAY_RX).setUpd (fun u => { u with
          relayRx := some { r with held := r.held ++ b, chunks := if due then 0 else r.chunks + 1 } })
        if due then s.relayAnswer d 5 s.relayGot [] else s))

/-- RELAY_ACK_RECEIVED: the window moves on. -/
def execRelayAckReceived (d : RelayIn) (s : State) : R :=
  .next (s.relayTake d 5 (fun s => s.fromSuccessor d [2] (fun k s =>
    let x := s.upd.relays.getD k {}
    let o := relayOffset d.bytes
    if x.acked < o ∧ o ≤ x.sent then (s.modRelay k (fun x => { x with acked := o, resends := 0 })).relaySendOn k else s)))

/-- RELAY_DONE_RECEIVED: the digest is compared, RESULT goes out, and the SOURCE 1 command completes. -/
def execRelayDoneReceived (d : RelayIn) (s : State) : R :=
  .next (s.relayTake d 6 (fun s =>
    match s.upd.relayRx.bind (·.offer) with
    | none => s.bump Reg.UPD_RELAY_DROP
    | some (digest, _, fwId) =>
      if !s.fromPred d || s.boot.stageLen != s.boot.stageTotal then s.bump Reg.UPD_RELAY_DROP
      else
        let ok := sha384 s.staged == digest
        let s := ((s.bump Reg.UPD_RELAY_RX).relayAnswer d 7 0 (le 1 (if ok then 0 else 3))).endStaging (if ok then St.ok else St.checkFailed)
        s.updNotice 1 0 fwId))

/-- RELAY_RESULT_RECEIVED: the outcome at that successor. -/
def execRelayResultReceived (d : RelayIn) (s : State) : R :=
  .next (s.relayTake d 7 (fun s => s.fromSuccessor d [2] (fun k s =>
    let code := byteAt (relayBody d.bytes) 0
    if code = 0 then (s.modRelay k (fun x => { x with state := 3, code := 0 })).updNotice 2 k (pkFwId s.stageHeader)
    else s.relayFail k code)))

/-- RELAY_PROGRESS_TIMEOUT (R466): 200 ms without progress; after ten resends the relay has failed. -/
def execRelayProgressTimeout (successor : Nat) (s : State) : R :=
  .next (
    let x := s.upd.relays.getD successor {}
    if x.state ≠ 1 ∧ x.state ≠ 2 then s
    else if 10 ≤ x.resends then s.relayFail successor x.code
    else
      let s := s.modRelay successor (fun x => { x with resends := x.resends + 1, sent := x.acked })
      if x.state = 1 then s.relayTo successor 1 0 s.offerBody else s.relaySendOn successor)

end Sys2Proof.Machine
end

