-- ==== Sys2Proof/Machine/Dispatch.lean ====
section
/-! DEFINITION. What each command does: one arm per row of the opcode table, each one call of its meaning. -/
namespace Sys2Proof.Machine

/-- The effect of a command on everything but the queue of waiting commands. -/
def exec (i : Instr) (s : State) : Host.Outcome State Fault Refusal :=
  match i with
  | .hostRegisterWrite a words => Sys2Proof.Machine.execHostRegisterWrite a words s
  | .rcRegisterRead a partialLanes => Sys2Proof.Machine.execRcRegisterRead a partialLanes s
  | .lowWordRead fn off both => Sys2Proof.Machine.execLowWordRead fn off both s
  | .lowWordWrite fn off value => Sys2Proof.Machine.execLowWordWrite fn off value s
  | .highWordWrite fn off value => Sys2Proof.Machine.execHighWordWrite fn off value s
  | .unitLockWrite unit value => Sys2Proof.Machine.execUnitLockWrite unit value s
  | .seamWindowRead fn off => Sys2Proof.Machine.execSeamWindowRead fn off s
  | .seamWindowReadResponse => Sys2Proof.Machine.execSeamWindowReadResponse s
  | .seamPacketReceived die cls seq crcOk content => Sys2Proof.Machine.execSeamPacketReceived die cls seq crcOk content s
  | .ownershipHeartbeatSend die => Sys2Proof.Machine.execOwnershipHeartbeatSend die s
  | .ownershipHeartbeatReceived die hb => Sys2Proof.Machine.execOwnershipHeartbeatReceived die hb s
  | .heartbeatTimeout die => Sys2Proof.Machine.execHeartbeatTimeout die s
  | .sqTailDoorbell d => Sys2Proof.Machine.execSqTailDoorbell d s
  | .cqHeadDoorbell d => Sys2Proof.Machine.execCqHeadDoorbell d s
  | .queueEnable queue qctrl => Sys2Proof.Machine.execQueueEnable queue qctrl s
  | .queueDisable queue qctrl => Sys2Proof.Machine.execQueueDisable queue qctrl s
  | .descriptorFetch => Sys2Proof.Machine.execDescriptorFetch s
  | .descriptorReceived queue bytes vote storeError => Sys2Proof.Machine.execDescriptorReceived queue bytes vote storeError s
  | .commandDispatch queue => Sys2Proof.Machine.execCommandDispatch queue s
  | .commandResult linkOk => Sys2Proof.Machine.execCommandResult linkOk s
  | .cqCoalesceTimeout queue => Sys2Proof.Machine.execCqCoalesceTimeout queue s
  | .glbIdentify c => Sys2Proof.Machine.execGlbIdentify c s
  | .glbStatus c => Sys2Proof.Machine.execGlbStatus c s
  | .glbStateSet c target => Sys2Proof.Machine.execGlbStateSet c target s
  | .glbRecoveryEnter c confirm port => Sys2Proof.Machine.execGlbRecoveryEnter c confirm port s
  | .glbLaneResync c mask passMask => Sys2Proof.Machine.execGlbLaneResync c mask passMask s
  | .glbNop c => Sys2Proof.Machine.execGlbNop c s
  | .glbTamperAck c auth => Sys2Proof.Machine.execGlbTamperAck c auth s
  | .partReadCompletion id len => Sys2Proof.Machine.execPartReadCompletion id len s
  | .partReadError id tag why => Sys2Proof.Machine.execPartReadError id tag why s
  | .completionTimeout id tag waitedNc => Sys2Proof.Machine.execCompletionTimeout id tag waitedNc s
  | .creditStall => Sys2Proof.Machine.execCreditStall s
  | .backoffExpiry => Sys2Proof.Machine.execBackoffExpiry s
  | .stallAbsent => Sys2Proof.Machine.execStallAbsent s
  | .creditsReturn => Sys2Proof.Machine.execCreditsReturn s
  | .linkDown lost => Sys2Proof.Machine.execLinkDown lost s
  | .perstAssert lost => Sys2Proof.Machine.execPerstAssert lost s
  | .busMasterClear fn lost => Sys2Proof.Machine.execBusMasterClear fn lost s
  | .d3hotEntry fn lost => Sys2Proof.Machine.execD3hotEntry fn lost s
  | .flrPf0 lost => Sys2Proof.Machine.execFlrPf0 lost s
  | .flrVf k lost => Sys2Proof.Machine.execFlrVf k lost s
  | .vfEnableSet numVfs ari => Sys2Proof.Machine.execVfEnableSet numVfs ari s
  | .functionDisable numVfs => Sys2Proof.Machine.execFunctionDisable numVfs s
  | .msixVectorUnmask vector => Sys2Proof.Machine.execMsixVectorUnmask vector s
  | .noticeRingEnable ring nrctrl => Sys2Proof.Machine.execNoticeRingEnable ring nrctrl s
  | .noticeRingDisable ring nrctrl => Sys2Proof.Machine.execNoticeRingDisable ring nrctrl s
  | .noticeHeadDoorbell d => Sys2Proof.Machine.execNoticeHeadDoorbell d s
  | .nrCoalesceTimeout ring => Sys2Proof.Machine.execNrCoalesceTimeout ring s
  | .heldMove fn => Sys2Proof.Machine.execHeldMove fn s
  | .plcSymbolReceived w => Sys2Proof.Machine.execPlcSymbolReceived w s
  | .plcNoiseClear => Sys2Proof.Machine.execPlcNoiseClear s
  | .plcPreambleDetect ds => Sys2Proof.Machine.execPlcPreambleDetect ds s
  | .plcPhrDecision id combined alone => Sys2Proof.Machine.execPlcPhrDecision id combined alone s
  | .plcCodewordDecode id first words => Sys2Proof.Machine.execPlcCodewordDecode id first words s
  | .plcFrameHandoff id lq est => Sys2Proof.Machine.execPlcFrameHandoff id lq est s
  | .plcLaunch => Sys2Proof.Machine.execPlcLaunch s
  | .seamUnderrun => Sys2Proof.Machine.execSeamUnderrun s
  | .plcTxEnd => Sys2Proof.Machine.execPlcTxEnd s
  | .bandcDeferExpiry id => Sys2Proof.Machine.execBandcDeferExpiry id s
  | .zcMetCrossing channel timeNs valid => Sys2Proof.Machine.execZcMetCrossing channel timeNs valid s
  | .zcCoarseCrossing timeNs => Sys2Proof.Machine.execZcCoarseCrossing timeNs s
  | .zcSourceLoss => Sys2Proof.Machine.execZcSourceLoss s
  | .plcContentionWaitEnd id wait => Sys2Proof.Machine.execPlcContentionWaitEnd id wait s
  | .plcMaxDeferExpiry id => Sys2Proof.Machine.execPlcMaxDeferExpiry id s
  | .plcAckSend id => Sys2Proof.Machine.execPlcAckSend id s
  | .plcAckReceived => Sys2Proof.Machine.execPlcAckReceived s
  | .plcAckTimeout id => Sys2Proof.Machine.execPlcAckTimeout id s
  | .plcRetryWaitEnd id => Sys2Proof.Machine.execPlcRetryWaitEnd id s
  | .rdiscReceived => Sys2Proof.Machine.execRdiscReceived s
  | .rdiscCollectEnd src rdiscId => Sys2Proof.Machine.execRdiscCollectEnd src rdiscId s
  | .rrepReceived => Sys2Proof.Machine.execRrepReceived s
  | .rrepWaitExpiry endpoint => Sys2Proof.Machine.execRrepWaitExpiry endpoint s
  | .rerrReceived => Sys2Proof.Machine.execRerrReceived s
  | .tmreqReceived => Sys2Proof.Machine.execTmreqReceived s
  | .tmrspReceived => Sys2Proof.Machine.execTmrspReceived s
  | .tmapAgeExpiry endpoint => Sys2Proof.Machine.execTmapAgeExpiry endpoint s
  | .mcastRepeat id => Sys2Proof.Machine.execMcastRepeat id s
  | .plcConfig c p => Sys2Proof.Machine.execPlcConfig c p s
  | .plcTonemapLoad c endpoint handle pin set => Sys2Proof.Machine.execPlcTonemapLoad c endpoint handle pin set s
  | .plcTonemapReadTx c endpoint => Sys2Proof.Machine.execPlcTonemapReadTx c endpoint s
  | .plcTonemapReadRx c handle => Sys2Proof.Machine.execPlcTonemapReadRx c handle s
  | .plcTonemapRevert c endpoint => Sys2Proof.Machine.execPlcTonemapRevert c endpoint s
  | .plcSend c p => Sys2Proof.Machine.execPlcSend c p s
  | .plcRouteSetSlot c endpoint slot relays last => Sys2Proof.Machine.execPlcRouteSetSlot c endpoint slot relays last s
  | .plcRouteClearSlot c endpoint slot => Sys2Proof.Machine.execPlcRouteClearSlot c endpoint slot s
  | .plcRoutePin c endpoint slot => Sys2Proof.Machine.execPlcRoutePin c endpoint slot s
  | .plcRouteUnpin c endpoint => Sys2Proof.Machine.execPlcRouteUnpin c endpoint s
  | .plcMcastSend c p => Sys2Proof.Machine.execPlcMcastSend c p s
  | .plcStatus c endpoint withEp => Sys2Proof.Machine.execPlcStatus c endpoint withEp s
  | .plcNoiseRead c chains => Sys2Proof.Machine.execPlcNoiseRead c chains s
  | .rfClockLoss port => Sys2Proof.Machine.execRfClockLoss port s
  | .rfClockReturn port => Sys2Proof.Machine.execRfClockReturn port s
  | .rfFramingLoss w => Sys2Proof.Machine.execRfFramingLoss w s
  | .rfFramingRestore w => Sys2Proof.Machine.execRfFramingRestore w s
  | .rfSyncDetect d => Sys2Proof.Machine.execRfSyncDetect d s
  | .rfPhrDecision id phr => Sys2Proof.Machine.execRfPhrDecision id phr s
  | .rfFrameEnd id psdu => Sys2Proof.Machine.execRfFrameEnd id psdu s
  | .rfAgcBlock port block below => Sys2Proof.Machine.execRfAgcBlock port block below s
  | .rfJamStart port j => Sys2Proof.Machine.execRfJamStart port j s
  | .rfJamClear port j => Sys2Proof.Machine.execRfJamClear port j s
  | .rfTxLaunch => Sys2Proof.Machine.execRfTxLaunch s
  | .rfTxEnd port slot => Sys2Proof.Machine.execRfTxEnd port slot s
  | .dutyBucketRoll => Sys2Proof.Machine.execDutyBucketRoll s
  | .mshBeaconSend port => Sys2Proof.Machine.execMshBeaconSend port s
  | .mshBeaconHeard => Sys2Proof.Machine.execMshBeaconHeard s
  | .mshFrameReceived => Sys2Proof.Machine.execMshFrameReceived s
  | .mshAckSend => Sys2Proof.Machine.execMshAckSend s
  | .mshAckReceived => Sys2Proof.Machine.execMshAckReceived s
  | .mshAckTimeout id => Sys2Proof.Machine.execMshAckTimeout id s
  | .mshRetryOpportunity id => Sys2Proof.Machine.execMshRetryOpportunity id s
  | .piggybackSend => Sys2Proof.Machine.execPiggybackSend s
  | .nightSlotOccurrence endpoint => Sys2Proof.Machine.execNightSlotOccurrence endpoint s
  | .floodCopySend id port => Sys2Proof.Machine.execFloodCopySend id port s
  | .seenCacheExpiry => Sys2Proof.Machine.execSeenCacheExpiry s
  | .mapApply => Sys2Proof.Machine.execMapApply s
  | .atDatagramReceived d => Sys2Proof.Machine.execAtDatagramReceived d s
  | .atCollectorDown collector => Sys2Proof.Machine.execAtCollectorDown collector s
  | .mshSendExpired id => Sys2Proof.Machine.execMshSendExpired id s
  | .mshConfig c p => Sys2Proof.Machine.execMshConfig c p s
  | .mshSlotAdd c p => Sys2Proof.Machine.execMshSlotAdd c p s
  | .mshSlotRemove c endpoint assignment => Sys2Proof.Machine.execMshSlotRemove c endpoint assignment s
  | .mshSlotRemoveAll c endpoint => Sys2Proof.Machine.execMshSlotRemoveAll c endpoint s
  | .mshNightslotSet c p => Sys2Proof.Machine.execMshNightslotSet c p s
  | .mshNightslotClear c endpoint => Sys2Proof.Machine.execMshNightslotClear c endpoint s
  | .mshSend c p => Sys2Proof.Machine.execMshSend c p s
  | .mshFlood c p => Sys2Proof.Machine.execMshFlood c p s
  | .mshBeaconSet c p => Sys2Proof.Machine.execMshBeaconSet c p s
  | .mshStatus c endpoint => Sys2Proof.Machine.execMshStatus c endpoint s
  | .fseIntake => Sys2Proof.Machine.execFseIntake s
  | .fseVerdictRelease n sameCycle waitNc => Sys2Proof.Machine.execFseVerdictRelease n sameCycle waitNc s
  | .fcsAfterVerdict => Sys2Proof.Machine.execFcsAfterVerdict s
  | .frameSealCommit medium id => Sys2Proof.Machine.execFrameSealCommit medium id s
  | .burstBufferLeave => Sys2Proof.Machine.execBurstBufferLeave s
  | .stormSecond => Sys2Proof.Machine.execStormSecond s
  | .stormAllowanceRefill path frames => Sys2Proof.Machine.execStormAllowanceRefill path frames s
  | .contextCheckpoint index => Sys2Proof.Machine.execContextCheckpoint index s
  | .checkpointWriteDone id ok recordOk => Sys2Proof.Machine.execCheckpointWriteDone id ok recordOk s
  | .billingGapRefill n => Sys2Proof.Machine.execBillingGapRefill n s
  | .epCreate c p => Sys2Proof.Machine.execEpCreate c p s
  | .epRead c index firstLine lines => Sys2Proof.Machine.execEpRead c index firstLine lines s
  | .epWriteAttr c index p => Sys2Proof.Machine.execEpWriteAttr c index p s
  | .epWriteKeyset c index keyset => Sys2Proof.Machine.execEpWriteKeyset c index keyset s
  | .epWriteRxwin c index fcntH fcntMap nseqH nseqMap => Sys2Proof.Machine.execEpWriteRxwin c index fcntH fcntMap nseqH nseqMap s
  | .epWriteTxctr c index fcnt nseq => Sys2Proof.Machine.execEpWriteTxctr c index fcnt nseq s
  | .epWriteReadwin c index wins => Sys2Proof.Machine.execEpWriteReadwin c index wins s
  | .epWritePathclr c index => Sys2Proof.Machine.execEpWritePathclr c index s
  | .epWriteSnapclr c index => Sys2Proof.Machine.execEpWriteSnapclr c index s
  | .epWriteHost c index area => Sys2Proof.Machine.execEpWriteHost c index area s
  | .epDelete c index => Sys2Proof.Machine.execEpDelete c index s
  | .epLookup c eui => Sys2Proof.Machine.execEpLookup c eui s
  | .epStats c index scope => Sys2Proof.Machine.execEpStats c index scope s
  | .epStatsBackfill c => Sys2Proof.Machine.execEpStatsBackfill c s
  | .codRecordCode => Sys2Proof.Machine.execCodRecordCode s
  | .codCloseTimer inst cls => Sys2Proof.Machine.execCodCloseTimer inst cls s
  | .codFlush classes => Sys2Proof.Machine.execCodFlush classes s
  | .codQcommit => Sys2Proof.Machine.execCodQcommit s
  | .codCloseResume => Sys2Proof.Machine.execCodCloseResume s
  | .arcBlockTake => Sys2Proof.Machine.execArcBlockTake s
  | .arcWriteComplete aen pos slot => Sys2Proof.Machine.execArcWriteComplete aen pos slot s
  | .arcWriteFail aen pos slot media => Sys2Proof.Machine.execArcWriteFail aen pos slot media s
  | .journalPageCommit => Sys2Proof.Machine.execJournalPageCommit s
  | .mapImageWrite page => Sys2Proof.Machine.execMapImageWrite page s
  | .deallocateDone slot phys => Sys2Proof.Machine.execDeallocateDone slot phys s
  | .arcHealthPoll slot h => Sys2Proof.Machine.execArcHealthPoll slot h s
  | .driveCommandTimeout slot => Sys2Proof.Machine.execDriveCommandTimeout slot s
  | .driveHotplug found => Sys2Proof.Machine.execDriveHotplug found s
  | .driveLoss slot => Sys2Proof.Machine.execDriveLoss slot s
  | .rebuildCopyDone journal verified => Sys2Proof.Machine.execRebuildCopyDone journal verified s
  | .blockReadDone queue tag first other => Sys2Proof.Machine.execBlockReadDone queue tag first other s
  | .scrubRead aen pos first other digestOk => Sys2Proof.Machine.execScrubRead aen pos first other digestOk s
  | .billingHoldDrain => Sys2Proof.Machine.execBillingHoldDrain s
  | .arcNsCreate c p => Sys2Proof.Machine.execArcNsCreate c p s
  | .arcNsChange c p => Sys2Proof.Machine.execArcNsChange c p s
  | .arcNsDelete c ns confirm => Sys2Proof.Machine.execArcNsDelete c ns confirm s
  | .arcNsReleaseSealed c ns => Sys2Proof.Machine.execArcNsReleaseSealed c ns s
  | .arcQuery c p => Sys2Proof.Machine.execArcQuery c p s
  | .arcExport c p => Sys2Proof.Machine.execArcExport c p s
  | .arcDriveJoin c disc slot => Sys2Proof.Machine.execArcDriveJoin c disc slot s
  | .arcDriveRejoin c disc slot => Sys2Proof.Machine.execArcDriveRejoin c disc slot s
  | .arcDriveInit c disc slot disc2 confirm => Sys2Proof.Machine.execArcDriveInit c disc slot disc2 confirm s
  | .arcDriveEvacuate c slot => Sys2Proof.Machine.execArcDriveEvacuate c slot s
  | .arcDriveFail c slot => Sys2Proof.Machine.execArcDriveFail c slot s
  | .arcStatus c ns drives => Sys2Proof.Machine.execArcStatus c ns drives s
  | .arcSeal c ns => Sys2Proof.Machine.execArcSeal c ns s
  | .losRecordTake => Sys2Proof.Machine.execLosRecordTake s
  | .losLaneClose => Sys2Proof.Machine.execLosLaneClose s
  | .losFeederEnergy start imp exp => Sys2Proof.Machine.execLosFeederEnergy start imp exp s
  | .losVoltageMeans start v1 v2 v3 => Sys2Proof.Machine.execLosVoltageMeans start v1 v2 v3 s
  | .losTopoLoad c nodes crc data => Sys2Proof.Machine.execLosTopoLoad c nodes crc data s
  | .losConfig c p => Sys2Proof.Machine.execLosConfig c p s
  | .losResultRead c first last start => Sys2Proof.Machine.execLosResultRead c first last start s
  | .losPhaseRead c first count => Sys2Proof.Machine.execLosPhaseRead c first count s
  | .losHistRead c first last clear => Sys2Proof.Machine.execLosHistRead c first last clear s
  | .metSample codes crossings => Sys2Proof.Machine.execMetSample codes crossings s
  | .metSecondMark count sec flag => Sys2Proof.Machine.execMetSecondMark count sec flag s
  | .timeMarkMissing => Sys2Proof.Machine.execTimeMarkMissing s
  | .metRegisterSave => Sys2Proof.Machine.execMetRegisterSave s
  | .metPulseOut => Sys2Proof.Machine.execMetPulseOut s
  | .tamperSample levels => Sys2Proof.Machine.execTamperSample levels s
  | .nightTamperSample levels => Sys2Proof.Machine.execNightTamperSample levels s
  | .metCalStore c set verifyOk cut => Sys2Proof.Machine.execMetCalStore c set verifyOk cut s
  | .metSeal c confirm => Sys2Proof.Machine.execMetSeal c confirm s
  | .metUnseal c auth => Sys2Proof.Machine.execMetUnseal c auth s
  | .metRead c set channel => Sys2Proof.Machine.execMetRead c set channel s
  | .metSealRead c nonce len => Sys2Proof.Machine.execMetSealRead c nonce len s
  | .metAuditRead c first count => Sys2Proof.Machine.execMetAuditRead c first count s
  | .metConfig c vpwr ipwr zcVmin => Sys2Proof.Machine.execMetConfig c vpwr ipwr zcVmin s
  | .metTermAck c vpwr ipwr zcVmin => Sys2Proof.Machine.execMetTermAck c vpwr ipwr zcVmin s
  | .bilIntervalTake => Sys2Proof.Machine.execBilIntervalTake s
  | .bilIntervalApply fetchOk => Sys2Proof.Machine.execBilIntervalApply fetchOk s
  | .tokenRequest cut => Sys2Proof.Machine.execTokenRequest cut s
  | .partnerTokenRecord seq endpoint lastId window tagOk => Sys2Proof.Machine.execPartnerTokenRecord seq endpoint lastId window tagOk s
  | .islandRecordAck seq tagOk => Sys2Proof.Machine.execIslandRecordAck seq tagOk s
  | .bilReplayRecord endpoint => Sys2Proof.Machine.execBilReplayRecord endpoint s
  | .bilCampaignWindowOpen n => Sys2Proof.Machine.execBilCampaignWindowOpen n s
  | .bilCampaignWindowClose n => Sys2Proof.Machine.execBilCampaignWindowClose n s
  | .bilCampaignDeadline n => Sys2Proof.Machine.execBilCampaignDeadline n s
  | .bilCalendarLoad c slot crc image cut => Sys2Proof.Machine.execBilCalendarLoad c slot crc image cut s
  | .bilRegsReadRaw c first count => Sys2Proof.Machine.execBilRegsReadRaw c first count s
  | .bilRegsReadSigned c first count nonce => Sys2Proof.Machine.execBilRegsReadSigned c first count nonce s
  | .bilCreditPush c endpoint token cut => Sys2Proof.Machine.execBilCreditPush c endpoint token cut s
  | .bilCampaignStart c p => Sys2Proof.Machine.execBilCampaignStart c p s
  | .bilBind c p => Sys2Proof.Machine.execBilBind c p s
  | .bilRestore c sets => Sys2Proof.Machine.execBilRestore c sets s
  | .bilRelease c endpoint confirm => Sys2Proof.Machine.execBilRelease c endpoint confirm s
  | .bilAcceptShort c endpoint auth => Sys2Proof.Machine.execBilAcceptShort c endpoint auth s
  | .bilLedgerRead c first count => Sys2Proof.Machine.execBilLedgerRead c first count s
  | .bilCampaignAbort c n => Sys2Proof.Machine.execBilCampaignAbort c n s
  | .keyCreateSet c a auto => Sys2Proof.Machine.execKeyCreateSet c a auto s
  | .keyImportWrapped c a tslot wrapped recordOk => Sys2Proof.Machine.execKeyImportWrapped c a tslot wrapped recordOk s
  | .keyImportPlain c a usage flags key recordOk => Sys2Proof.Machine.execKeyImportPlain c a usage flags key recordOk s
  | .keyGenerate c a usage flags recordOk => Sys2Proof.Machine.execKeyGenerate c a usage flags recordOk s
  | .keyDeleteSet c a confirm => Sys2Proof.Machine.execKeyDeleteSet c a confirm s
  | .keyUpdateWrapped c a tslot wrapped recordOk => Sys2Proof.Machine.execKeyUpdateWrapped c a tslot wrapped recordOk s
  | .keyUpdatePlain c a usage flags key recordOk => Sys2Proof.Machine.execKeyUpdatePlain c a usage flags key recordOk s
  | .keyUpdateGenerate c a usage flags recordOk => Sys2Proof.Machine.execKeyUpdateGenerate c a usage flags recordOk s
  | .keyInvalidate c a recordOk => Sys2Proof.Machine.execKeyInvalidate c a recordOk s
  | .keyMirrorUpdate id => Sys2Proof.Machine.execKeyMirrorUpdate id s
  | .keyAgree c a peer valid => Sys2Proof.Machine.execKeyAgree c a peer valid s
  | .keyExport c a tslot => Sys2Proof.Machine.execKeyExport c a tslot s
  | .keyAttest c nonce len => Sys2Proof.Machine.execKeyAttest c nonce len s
  | .keyLifecycleAdvance c target confirm digest auth recordOk => Sys2Proof.Machine.execKeyLifecycleAdvance c target confirm digest auth recordOk s
  | .keyStatus c a data => Sys2Proof.Machine.execKeyStatus c a data s
  | .transportSlotLapse inst slot => Sys2Proof.Machine.execTransportSlotLapse inst slot s
  | .timeTick noonCycles midnightTicks => Sys2Proof.Machine.execTimeTick noonCycles midnightTicks s
  | .deviceSecond ccnt midCcnt => Sys2Proof.Machine.execDeviceSecond ccnt midCcnt s
  | .ptpSyncReceived port t1 t2 => Sys2Proof.Machine.execPtpSyncReceived port t1 t2 s
  | .ppsInEdge => Sys2Proof.Machine.execPpsInEdge s
  | .partnerTimeExchange asked => Sys2Proof.Machine.execPartnerTimeExchange asked s
  | .partnerTimeReply t1 t2 t3 t4 state source => Sys2Proof.Machine.execPartnerTimeReply t1 t2 t3 t4 state source s
  | .ptpAnnounceTimeout port => Sys2Proof.Machine.execPtpAnnounceTimeout port s
  | .sourceLossTimeout src => Sys2Proof.Machine.execSourceLossTimeout src s
  | .sourceRevert src => Sys2Proof.Machine.execSourceRevert src s
  | .holdoverExpiry => Sys2Proof.Machine.execHoldoverExpiry s
  | .tickRefLoss => Sys2Proof.Machine.execTickRefLoss s
  | .ptpSyncSend port => Sys2Proof.Machine.execPtpSyncSend port s
  | .launchInsert lane instant owner ref => Sys2Proof.Machine.execLaunchInsert lane instant owner ref s
  | .launchFire => Sys2Proof.Machine.execLaunchFire s
  | .launchWithdraw id => Sys2Proof.Machine.execLaunchWithdraw id s
  | .timRead c withData => Sys2Proof.Machine.execTimRead c withData s
  | .timStep c absolute force value => Sys2Proof.Machine.execTimStep c absolute force value s
  | .timSourceSet c pin rearm => Sys2Proof.Machine.execTimSourceSet c pin rearm s
  | .timStatus c => Sys2Proof.Machine.execTimStatus c s
  | .timSnap => Sys2Proof.Machine.execTimSnap s
  | .updDownloadHost c offset total data => Sys2Proof.Machine.execUpdDownloadHost c offset total data s
  | .updDownloadRelay c offset total => Sys2Proof.Machine.execUpdDownloadRelay c offset total s
  | .updDiscardStaging c => Sys2Proof.Machine.execUpdDiscardStaging c s
  | .flashGranuleDone fails => Sys2Proof.Machine.execFlashGranuleDone fails s
  | .updVerify c apply sigOk fails cut => Sys2Proof.Machine.execUpdVerify c apply sigOk fails cut s
  | .updActivate c when' calId launchAt => Sys2Proof.Machine.execUpdActivate c when' calId launchAt s
  | .updActivateCancel c => Sys2Proof.Machine.execUpdActivateCancel c s
  | .activationInstant loadOk cut drained => Sys2Proof.Machine.execActivationInstant loadOk cut drained s
  | .confirmWindowWarning => Sys2Proof.Machine.execConfirmWindowWarning s
  | .confirmWindowExpiry drained => Sys2Proof.Machine.execConfirmWindowExpiry drained s
  | .updConfirm c fwId => Sys2Proof.Machine.execUpdConfirm c fwId s
  | .updRollback c confirm sigOk drained => Sys2Proof.Machine.execUpdRollback c confirm sigOk drained s
  | .updCampaignLoad c campaign imageId image => Sys2Proof.Machine.execUpdCampaignLoad c campaign imageId image s
  | .updCampaignStart c p => Sys2Proof.Machine.execUpdCampaignStart c p s
  | .updStatus c scope => Sys2Proof.Machine.execUpdStatus c scope s
  | .updCampaignAbort c campaign => Sys2Proof.Machine.execUpdCampaignAbort c campaign s
  | .updCampaignWindow campaign => Sys2Proof.Machine.execUpdCampaignWindow campaign s
  | .updCampaignReportQuery campaign => Sys2Proof.Machine.execUpdCampaignReportQuery campaign s
  | .updCampaignDeadline campaign => Sys2Proof.Machine.execUpdCampaignDeadline campaign s
  | .relayOfferReceived d => Sys2Proof.Machine.execRelayOfferReceived d s
  | .relayAcceptReceived d => Sys2Proof.Machine.execRelayAcceptReceived d s
  | .relayRefuseReceived d => Sys2Proof.Machine.execRelayRefuseReceived d s
  | .relayDataReceived d => Sys2Proof.Machine.execRelayDataReceived d s
  | .relayAckReceived d => Sys2Proof.Machine.execRelayAckReceived d s
  | .relayDoneReceived d => Sys2Proof.Machine.execRelayDoneReceived d s
  | .relayResultReceived d => Sys2Proof.Machine.execRelayResultReceived d s
  | .relayProgressTimeout successor => Sys2Proof.Machine.execRelayProgressTimeout successor s
  | .loaderIdent p => Sys2Proof.Machine.execLoaderIdent p s
  | .loaderErase p fails => Sys2Proof.Machine.execLoaderErase p fails s
  | .loaderWrite p fails => Sys2Proof.Machine.execLoaderWrite p fails s
  | .loaderRead p => Sys2Proof.Machine.execLoaderRead p s
  | .loaderCheck p sigOk => Sys2Proof.Machine.execLoaderCheck p sigOk s
  | .loaderSelect p sigOk => Sys2Proof.Machine.execLoaderSelect p sigOk s
  | .loaderRestart p => Sys2Proof.Machine.execLoaderRestart p s
  | .packetSilenceTimeout port => Sys2Proof.Machine.execPacketSilenceTimeout port s
  | .svcIdent p => Sys2Proof.Machine.execSvcIdent p s
  | .svcRegRead p => Sys2Proof.Machine.execSvcRegRead p s
  | .sspPut t bytes midByte => Sys2Proof.Machine.execSspPut t bytes midByte s
  | .sspGet t clocked midByte => Sys2Proof.Machine.execSspGet t clocked midByte s
  | .sspStat t => Sys2Proof.Machine.execSspStat t s
  | .ospResponseSend dark => Sys2Proof.Machine.execOspResponseSend dark s
  | .ospFloodStart ambient litBits frame => Sys2Proof.Machine.execOspFloodStart ambient litBits frame s
  | .ospFloodClear ambient => Sys2Proof.Machine.execOspFloodClear ambient s
  | .ospResponseDrop => Sys2Proof.Machine.execOspResponseDrop s
  | .ospFramingError frame => Sys2Proof.Machine.execOspFramingError frame s
  | .ospLoaderMove => Sys2Proof.Machine.execOspLoaderMove s
  | .tapInstructionLoad noon mid => Sys2Proof.Machine.execTapInstructionLoad noon mid s
  | .tapReset => Sys2Proof.Machine.execTapReset s
  | .parStatus c => Sys2Proof.Machine.execParStatus c s
  | .parRoleStandby c => Sys2Proof.Machine.execParRoleStandby c s
  | .parRoleSolo c confirm claim => Sys2Proof.Machine.execParRoleSolo c confirm claim s
  | .parResync c start => Sys2Proof.Machine.execParResync c start s
  | .parClaim c force claim => Sys2Proof.Machine.execParClaim c force claim s
  | .parRelease c drain handover => Sys2Proof.Machine.execParRelease c drain handover s
  | .releaseEchoReceived claim => Sys2Proof.Machine.execReleaseEchoReceived claim s
  | .releaseEchoTimeout claim => Sys2Proof.Machine.execReleaseEchoTimeout claim s
  | .parDigestRead c epoch => Sys2Proof.Machine.execParDigestRead c epoch s
  | .parSelftest c mask failing => Sys2Proof.Machine.execParSelftest c mask failing s
  | .ownInFall claim => Sys2Proof.Machine.execOwnInFall claim s
  | .pairHeartbeatSend => Sys2Proof.Machine.execPairHeartbeatSend s
  | .pairHeartbeatReceived report ownIn => Sys2Proof.Machine.execPairHeartbeatReceived report ownIn s
  | .partnerLoss claim => Sys2Proof.Machine.execPartnerLoss claim s
  | .pairLaneDown lane claim => Sys2Proof.Machine.execPairLaneDown lane claim s
  | .releaseMessageReceived handover => Sys2Proof.Machine.execReleaseMessageReceived handover s
  | .holdoffEnd => Sys2Proof.Machine.execHoldoffEnd s
  | .shadowFrameReceived f => Sys2Proof.Machine.execShadowFrameReceived f s
  | .counterMessageReceived kind idx value => Sys2Proof.Machine.execCounterMessageReceived kind idx value s
  | .digestEpochEnd epoch => Sys2Proof.Machine.execDigestEpochEnd epoch s
  | .digestExchange epoch theirs => Sys2Proof.Machine.execDigestExchange epoch theirs s
  | .selftestPeriodic test ok => Sys2Proof.Machine.execSelftestPeriodic test ok s
  | .fabBurstRequest target port bytes write => Sys2Proof.Machine.execFabBurstRequest target port bytes write s
  | .fabBurstEnd target => Sys2Proof.Machine.execFabBurstEnd target s
  | .quietRise port => Sys2Proof.Machine.execQuietRise port s
  | .quietFall port => Sys2Proof.Machine.execQuietFall port s
  | .vinCreate c q ckptOk => Sys2Proof.Machine.execVinCreate c q ckptOk s
  | .vinReset c => Sys2Proof.Machine.execVinReset c s
  | .vinDisable c => Sys2Proof.Machine.execVinDisable c s
  | .vinQuotaSet c q ckptOk => Sys2Proof.Machine.execVinQuotaSet c q ckptOk s
  | .vinStatus c => Sys2Proof.Machine.execVinStatus c s
  | .vinDestroy c confirm ckptOk => Sys2Proof.Machine.execVinDestroy c confirm ckptOk s
  | .fenceUnitAck inst unit => Sys2Proof.Machine.execFenceUnitAck inst unit s
  | .fenceTimeout inst => Sys2Proof.Machine.execFenceTimeout inst s
  | .vsenseFail supply => Sys2Proof.Machine.execVsenseFail supply s
  | .sfailNLow => Sys2Proof.Machine.execSfailNLow s
  | .sysRstNLow => Sys2Proof.Machine.execSysRstNLow s
  | .referenceLoss => Sys2Proof.Machine.execReferenceLoss s
  | .supplyValid vbatLost => Sys2Proof.Machine.execSupplyValid vbatLost s
  | .duskSaveEnd complete timeUs => Sys2Proof.Machine.execDuskSaveEnd complete timeUs s
  | .supplySwitchover => Sys2Proof.Machine.execSupplySwitchover s
  | .dawnStageEnd d => Sys2Proof.Machine.execDawnStageEnd d s
  | .domainRampDone domain => Sys2Proof.Machine.execDomainRampDone domain s
  | .domainRampFault domain => Sys2Proof.Machine.execDomainRampFault domain s
  | .vbatMeasure mv => Sys2Proof.Machine.execVbatMeasure mv s
  | .pwrDomainOn c domain => Sys2Proof.Machine.execPwrDomainOn c domain s
  | .pwrDomainOff c domain => Sys2Proof.Machine.execPwrDomainOff c domain s
  | .pwrStatus c => Sys2Proof.Machine.execPwrStatus c s
  | .pwrShutdownRestart c confirm => Sys2Proof.Machine.execPwrShutdownRestart c confirm s
  | .pwrShutdownHalt c confirm => Sys2Proof.Machine.execPwrShutdownHalt c confirm s
  | .evrEvent e => Sys2Proof.Machine.execEvrEvent e s
  | .evrRecordCommit recorder => Sys2Proof.Machine.execEvrRecordCommit recorder s
  | .evrHistPeriodEnd recorder extremes => Sys2Proof.Machine.execEvrHistPeriodEnd recorder extremes s
  | .evrExtremesSample noonTemp midTemp vsense => Sys2Proof.Machine.execEvrExtremesSample noonTemp midTemp vsense s
  | .evrCursorWrite cursor => Sys2Proof.Machine.execEvrCursorWrite cursor s
  | .evrLoadDone => Sys2Proof.Machine.execEvrLoadDone s
  | .evrWin15Read => Sys2Proof.Machine.execEvrWin15Read s
  | .evrRead c recorder first count => Sys2Proof.Machine.execEvrRead c recorder first count s
  | .evrClear c recorder confirm => Sys2Proof.Machine.execEvrClear c recorder confirm s
  | .evrConfig c recorder histS extS repeatMs => Sys2Proof.Machine.execEvrConfig c recorder histS extS repeatMs s
  | .thermalThreshold temp => Sys2Proof.Machine.execThermalThreshold temp s
  | .dramScrub channel rank addr corrected => Sys2Proof.Machine.execDramScrub channel rank addr corrected s
  | .dramUncorrectable channel rank addr job => Sys2Proof.Machine.execDramUncorrectable channel rank addr job s
  | .dataLinkUp speed width => Sys2Proof.Machine.execDataLinkUp speed width s
  | .perstDeassert => Sys2Proof.Machine.execPerstDeassert s
  | .busMasterSet fn => Sys2Proof.Machine.execBusMasterSet fn s
  | .d3hotExit fn => Sys2Proof.Machine.execD3hotExit fn s
  | .sysRstNRise => Sys2Proof.Machine.execSysRstNRise s
  | .pairLaneUp lane => Sys2Proof.Machine.execPairLaneUp lane s
  | .ptpAnnounceReceived port a => Sys2Proof.Machine.execPtpAnnounceReceived port a s
  | .ptpDelayMessageReceived port m => Sys2Proof.Machine.execPtpDelayMessageReceived port m s
  | .ptpAnnounceSend port => Sys2Proof.Machine.execPtpAnnounceSend port s
  | .ptpDelayRequestSend port => Sys2Proof.Machine.execPtpDelayRequestSend port s
  | .releaseDrainExpiry => Sys2Proof.Machine.execReleaseDrainExpiry s
  | .resyncRecordReceived record final => Sys2Proof.Machine.execResyncRecordReceived record final s
  | .ledgerCopyReceived entries final tagOk => Sys2Proof.Machine.execLedgerCopyReceived entries final tagOk s
  | .backfillTlpAcknowledged => Sys2Proof.Machine.execBackfillTlpAcknowledged s

end Sys2Proof.Machine
end

