-- ==== Sys2Proof/Machine/Step.lean ====
section
/-! DEFINITION. One step of the block: the command at the front of the queue takes effect. -/
set_option Elab.async false
namespace Sys2Proof.Machine

/-- One step: the command at the front leaves the queue and takes effect; on an empty queue the block idles (DESIGN CHOICE, log entry 1:
every effect of time is a row of the table). -/
def step (s : State) : Host.Outcome State Fault Refusal :=
  match s.pending with
  | [] => .next s
  | c :: rest => exec c { s with pending := rest }

/-- Puts the command a table word spells at the front of the queue; no row has bits, so no word spells one and nothing changes. -/
def State.withFetchWord (s : State) (nbits w : Nat) : State :=
  match decodeTableWord nbits w with
  | some c => { s with pending := c :: s.pending }
  | none => s

end Sys2Proof.Machine
end

