-- ==== Sys2Proof/Safety.lean ====
section
/-! DEFINITION. The terms claims are stated in: the parts of the state, which of them a command may change, and the forms that every
state of a sound machine has. -/
set_option Elab.async false
namespace Sys2Proof.Machine

/-- The parts of the state a frame speaks of: a field of `State` each; `win w`, the registers of window `w` (R13); `wins`, in a list of
parts that may change, the registers of every window; `life`, the life-cycle state (R407); `flash`, the bytes of the flash memory (R451). -/
inductive Part where
  | regs | out | freeCtr | dev | seam | cmd | hbr | fab | vin | pwr | aon | evr | tim | kvt | ing | plc | rfx | fse | msh | cod
  | arc | los | met | bil | par | upd | svc
  | win (w : Nat)
  | wins | life | flash
  deriving DecidableEq, Repr

/-- The window a register-file key lies in (R13, R614). -/
def winOf (key : Nat) : Nat := windowOf (key % keyStride)

/-- Part `p` reads the same in both states. -/
def Part.same (s t : State) : Part → Prop
  | .regs => t.regs = s.regs
  | .out => t.out = s.out
  | .freeCtr => t.freeCtr = s.freeCtr
  | .dev => t.dev = s.dev
  | .seam => t.seam = s.seam
  | .cmd => t.cmd = s.cmd
  | .hbr => t.hbr = s.hbr
  | .fab => t.fab = s.fab
  | .vin => t.vin = s.vin
  | .pwr => t.pwr = s.pwr
  | .aon => t.aon = s.aon
  | .evr => t.evr = s.evr
  | .tim => t.tim = s.tim
  | .kvt => t.kvt = s.kvt
  | .ing => t.ing = s.ing
  | .plc => t.plc = s.plc
  | .rfx => t.rfx = s.rfx
  | .fse => t.fse = s.fse
  | .msh => t.msh = s.msh
  | .cod => t.cod = s.cod
  | .arc => t.arc = s.arc
  | .los => t.los = s.los
  | .met => t.met = s.met
  | .bil => t.bil = s.bil
  | .par => t.par = s.par
  | .upd => t.upd = s.upd
  | .svc => t.svc = s.svc
  | .win w => ∀ key, winOf key = w → t.regW key = s.regW key
  | .wins => True
  | .life => t.dev.life = s.dev.life
  | .flash => t.upd.flash = s.upd.flash

/-- Does a list of parts allow `p` to change? `wins` allows every window. -/
def allows (ps : List Part) (p : Part) : Bool :=
  (match p with | .win _ => ps.contains .wins | _ => false) || ps.contains p

/-- Every part outside the list reads the same, and so does the queue of waiting commands, which no command touches. -/
def Frame (ps : List Part) (s t : State) : Prop :=
  t.pending = s.pending ∧ ∀ p, allows ps p = false → p.same s t

/-- The one canonical form of the register file: keys strictly rising, no entry equal to its register's reset value (R14). -/
def State.regsOk (s : State) : Bool := Tab.sorted s.regs && s.regs.all (fun e => e.2 != resetOf e.1)

/-- The forms every state of a sound machine has: the register file and the flash memory are in their canonical forms. -/
abbrev State.Sound (s : State) : Prop := s.regsOk = true ∧ Memory.wf s.upd.flash = true

/-- The command is completed by its meaning: `exec` answers a next state, and that state satisfies `P`. -/
def Completes (i : Instr) (s : State) (P : State → Prop) : Prop := ∃ t, exec i s = .next t ∧ P t

/-- The newest result on its way to CMD is the final result of command `c`, with this status (R59, R66). -/
abbrev Answered (c : CmdRef) (status : Nat) (t : State) : Prop :=
  t.cmd.results.getLast?.map (fun r => (r.queue, r.tag, r.status, r.queued)) = some (c.queue, c.tag, status, false)

/-- The same, with this RESULT0. -/
abbrev AnsweredWith (c : CmdRef) (status r0 : Nat) (t : State) : Prop :=
  t.cmd.results.getLast?.map (fun r => (r.queue, r.tag, r.status, r.queued, r.result0)) = some (c.queue, c.tag, status, false, r0)

/-- The newest result on its way to CMD is the QUEUED result of command `c` (R62). -/
abbrev AnsweredQueued (c : CmdRef) (t : State) : Prop :=
  t.cmd.results.getLast?.map (fun r => (r.queue, r.tag, r.status, r.queued)) = some (c.queue, c.tag, St.queued, true)

/-- The bytes a command writes are handed over (R58, R101): where CMD holds the command and its function can still master, outputs and the
bridge are those of a transfer of these bytes through its DPTR begun at `s`. -/
abbrev Writes (c : CmdRef) (b : Bytes) (s t : State) : Prop :=
  ∀ k, s.cmdOf c = some k → k.lost = false → s.holdsLink (s.queueFn k.queue) = true →
    t.out = (s.startXfer k b.length (some b)).out ∧ t.hbr = (s.startXfer k b.length (some b)).hbr

/-- May a unicast attempt of a send go on the air on a port, channel and rate at a launch instant (R32, R172, R188, R192, R194, R196)?
Its seal is there where it is secured, a permit holds, RFX refuses it for none of its reasons, and its first hop has a key and an NSEQ
left. -/
def canSend (s : State) (x : MshSend) (port ch rate instant : Nat) : Bool :=
  let route := if x.sec then x.route else s.downRoute x
  (!x.sec || (x.sealed && x.sealedBody.length == x.body.length + micBytes x.miclen)) && s.permits
    && (s.rfRefusal port ch rate (mshLen route.length x.sec x.body.length x.miclen) instant).isNone
    && (match s.epOf (route.headD x.dst) with
      | none => false
      | some (i, c) => match s.tagKeyOut (some c) with
        | (.ok _, v) => (v.drawNseq i).1.isSome
        | _ => false)

/-- Is a frame of a reference on the air on a port and channel (R172)? -/
abbrev OnAir (ref port ch : Nat) (t : State) : Prop := t.rfx.tx.any (fun y => y.ref == ref && y.port == port && y.ch == ch) = true

/-- A BAR0 offset whose read goes to the register table, not to a table or snapshot that a unit shows there. -/
def plainRead (off : Nat) : Bool :=
  !(decide (0x1BF80 ≤ off ∧ off < 0x20000) || decide (windowBase 20 + 0x20 ≤ off ∧ off ≤ windowBase 20 + 0x3C)
    || decide (windowBase 21 + 0x40 ≤ off ∧ off ≤ windowBase 21 + 0x7C))

/-- A port hears a packet (R467, R473): after what OSP received has joined its stream, the stream is one whole, sound packet of command
`cmd` with the given SEQ and payload, on a port that serves `mode` and has room to answer. -/
abbrev State.Hears (s : State) (p : PortIn) (mode : Serves) (cmd seq : Nat) (body : Bytes) : Prop :=
  let u := (s.takeIn p).portLook (State.portOf p)
  let b := (u.port (State.portOf p)).rx
  u.packetFor (State.portOf p) mode cmd = true ∧ packetTotal b = b.length ∧ byteAt b 2 = seq ∧ packetBody b = body

/-- The packet heard is answered: the response stands last in what the port sends, and is kept with its SEQ. -/
abbrev State.Answers (t : State) (p : PortIn) (cmd seq status : Nat) (body : Bytes) : Prop :=
  let r := response cmd seq status body
  (t.port (State.portOf p)).last = some (seq, r)
    ∧ (if State.portOf p = 0 then r <:+ (t.port 0).tx else t.svc.responses.getLast? = some r)

/-- The parts a command may change (R23: each unit changes what it owns; events, notices, counters and answers go through EVR, HBR, the
register file and CMD). Everything else stays. -/
def mayChange : Instr → List Part
  | .vbatMeasure .. => [.aon]
  | .evrExtremesSample .. | .evrCursorWrite .. | .evrLoadDone .. => [.evr]
  | .quietFall .. => [.fab]
  | .lowWordWrite .. | .noticeHeadDoorbell .. => [.regs, .hbr, .win 2]
  | .partReadCompletion .. | .backoffExpiry .. | .creditsReturn .. | .msixVectorUnmask .. | .dataLinkUp .. | .busMasterSet ..
    | .d3hotExit .. => [.out, .hbr]
  | .vfEnableSet .. | .perstDeassert .. => [.hbr]
  | .contextCheckpoint .. => [.out, .ing, .arc]
  | .transportSlotLapse .. => [.kvt]
  | .losVoltageMeans .. => [.los]
  | .metRegisterSave .. => [.met]
  | .seenCacheExpiry .. => [.msh]
  | .ownershipHeartbeatSend .. => [.out, .seam]
  | .partnerTimeExchange .. => [.out]
  | .releaseMessageReceived .. | .holdoffEnd .. | .digestEpochEnd .. | .pairLaneUp .. => [.par]
  | .plcSymbolReceived .. => [.out, .seam, .plc]
  | .bandcDeferExpiry .. | .zcMetCrossing .. | .zcCoarseCrossing .. | .zcSourceLoss .. | .plcRetryWaitEnd .. | .rdiscReceived ..
    | .mcastRepeat .. => [.plc]
  | .dutyBucketRoll .. => [.rfx]
  | .ospLoaderMove .. => [.svc]
  | .tickRefLoss .. | .launchWithdraw .. | .ptpAnnounceReceived .. => [.tim]
  | .nightTamperSample .. => [.aon, .met]
  | .glbStatus .. | .glbNop .. | .epLookup .. | .bilBind .. | .bilRelease .. => [.cmd, .bil]
  | .tmrspReceived .. => [.ing, .plc]
  | .mapImageWrite .. | .arcNsDelete .. | .arcNsReleaseSealed .. | .arcWriteComplete .. | .arcSeal .. =>
      [.regs, .out, .cmd, .hbr, .arc, .bil, .win 1, .win 10, .win 20]
  | .evrWin15Read .. => [.out, .evr]
  | .seamWindowRead .. => [.out, .seam, .hbr]
  | .metSecondMark .. => [.out, .seam, .met]
  | .thermalThreshold .. => [.out, .pwr]
  | .ptpSyncSend .. | .ptpDelayMessageReceived .. | .ptpAnnounceSend .. | .ptpDelayRequestSend .. => [.out, .tim]
  | .unitLockWrite .. => [.regs, .wins]
  | .timSnap .. => [.regs, .win 15]
  | .updActivate .. | .updActivateCancel .. | .updCampaignLoad .. => [.cmd, .bil, .upd]
  | .evrClear .. | .bilCalendarLoad .. => [.regs, .cmd, .evr, .bil, .win 21]
  | .evrConfig .. => [.cmd, .evr, .bil]
  | .plcRouteSetSlot .. | .plcRouteClearSlot .. | .plcRoutePin .. | .plcRouteUnpin .. | .backfillTlpAcknowledged .. => [.cmd, .ing, .bil]
  | .epCreate .. | .epWriteAttr .. | .epWriteKeyset .. | .epWriteRxwin .. | .epWriteTxctr .. | .epWriteReadwin ..
    | .epWritePathclr .. | .epWriteSnapclr .. | .epWriteHost .. | .epDelete .. => [.out, .cmd, .ing, .arc, .bil]
  | .mshSlotRemove .. | .mshSlotRemoveAll .. | .mshSlotAdd .. => [.cmd, .ing, .msh, .bil]
  | .mshNightslotSet .. | .mshBeaconSet .. => [.cmd, .msh, .bil]
  | .plcMaxDeferExpiry .. | .plcAckReceived .. | .plcConfig .. => [.cmd, .plc, .bil]
  | .domainRampFault .. => [.regs, .out, .cmd, .hbr, .pwr, .los, .bil, .win 1]
  | .pwrDomainOn .. => [.cmd, .pwr, .bil]
  | .vinCreate .. | .vinQuotaSet .. => [.cmd, .vin, .bil]
  | .timeTick .. =>
      [.regs, .out, .dev, .cmd, .hbr, .aon, .evr, .tim, .plc, .rfx, .msh, .cod, .los, .bil, .win 0, .win 1, .win 4, .win 5, .win 9,
        .win 21]
  | .glbIdentify .. | .plcTonemapReadTx .. | .plcTonemapReadRx .. | .plcStatus .. | .plcNoiseRead .. | .mshStatus .. | .epRead ..
    | .epStats .. | .arcStatus .. | .losResultRead .. | .losPhaseRead .. | .metRead .. | .metAuditRead .. | .bilRegsReadRaw ..
    | .bilLedgerRead .. | .keyStatus .. | .timRead .. | .timStatus .. | .updStatus .. | .parStatus .. | .parDigestRead ..
    | .vinStatus .. | .pwrStatus .. | .evrRead .. => [.out, .cmd, .hbr, .bil]
  | .parResync .. => [.out, .cmd, .bil]
  | .descriptorFetch .. => [.out, .cmd, .hbr]
  | .queueDisable .. => [.regs, .cmd, .win 2]
  | .commandDispatch .. => [.regs, .out, .cmd, .hbr, .win 2]
  | .codRecordCode .. | .burstBufferLeave .. | .stormSecond .. | .resyncRecordReceived .. =>
      [.regs, .out, .hbr, .ing, .cod, .los, .par, .win 1, .win 8, .win 9, .win 20]
  | .codCloseTimer .. | .codFlush .. | .codQcommit .. | .codCloseResume .. => [.regs, .cod, .win 9]
  | .creditStall .. | .noticeRingEnable .. | .noticeRingDisable .. => [.regs, .hbr, .win 1]
  | .plcNoiseClear .. | .plcPreambleDetect .. | .plcPhrDecision .. | .plcCodewordDecode .. | .plcContentionWaitEnd .. =>
      [.regs, .plc, .win 4]
  | .rfSyncDetect .. | .rfPhrDecision .. => [.regs, .rfx, .win 5]
  | .evrEvent .. | .evrRecordCommit .. | .evrHistPeriodEnd .. | .dramScrub .. => [.regs, .evr, .win 21]
  | .fabBurstRequest .. | .fabBurstEnd .. | .quietRise .. => [.regs, .fab, .win 19]
  | .selftestPeriodic .. => [.regs, .par, .win 18]
  | .ospFloodStart .. | .ospResponseDrop .. | .ospFramingError .. => [.regs, .svc, .win 17]
  | .tapInstructionLoad .. | .loaderIdent .. | .loaderRead .. | .packetSilenceTimeout .. | .svcIdent .. | .svcRegRead ..
    | .sspPut .. | .sspGet .. | .sspStat .. | .ospResponseSend .. | .ospFloodClear .. => [.regs, .out, .svc, .win 17]
  | .relayRefuseReceived .. => [.regs, .upd, .win 16]
  | .plcTonemapLoad .. | .plcTonemapRevert .. => [.cmd, .ing, .plc, .bil]
  | .keyCreateSet .. | .keyImportWrapped .. | .keyImportPlain .. | .keyDeleteSet .. | .keyUpdateWrapped .. | .keyUpdatePlain ..
    | .keyGenerate .. | .keyUpdateGenerate .. | .keyInvalidate .. =>
      [.regs, .out, .freeCtr, .seam, .cmd, .hbr, .kvt, .ing, .bil, .win 1, .win 14]
  | .bilCampaignDeadline .. | .bilCampaignAbort .. => [.cmd, .plc, .msh, .bil]
  | .arcNsCreate .. | .arcNsChange .. | .arcDriveJoin .. => [.out, .cmd, .arc, .bil]
  | .arcQuery .. | .arcExport .. => [.regs, .out, .cmd, .hbr, .arc, .bil, .win 10]
  | .epStatsBackfill .. => [.out, .cmd, .hbr, .ing, .bil]
  | .losHistRead .. => [.out, .cmd, .hbr, .los, .bil]
  | .updDownloadHost .. | .updDownloadRelay .. | .updDiscardStaging .. => [.cmd, .bil, .upd, .flash]
  | .highWordWrite .. => [.regs, .hbr, .evr, .wins]
  | .rcRegisterRead .. | .lowWordRead .. | .seamWindowReadResponse .. => [.regs, .out, .seam, .hbr, .wins]
  | .mshBeaconHeard .. | .mshFrameReceived .. => [.regs, .fse, .msh, .win 6]
  | .fcsAfterVerdict .. => [.regs, .fse, .msh, .win 7]
  | .stallAbsent .. | .nrCoalesceTimeout .. | .heldMove .. => [.regs, .out, .hbr, .win 1]
  | .plcAckSend .. => [.regs, .out, .seam, .tim, .plc, .win 4]
  | .rfFrameEnd .. => [.regs, .rfx, .msh, .win 5]
  | .islandRecordAck .. => [.regs, .seam, .evr, .bil, .win 21]
  | .deallocateDone .. | .arcWriteFail .. | .arcHealthPoll .. | .driveCommandTimeout .. | .driveHotplug .. | .driveLoss ..
    | .rebuildCopyDone .. | .blockReadDone .. | .arcDriveEvacuate .. | .arcDriveFail .. =>
      [.regs, .out, .cmd, .hbr, .arc, .bil, .win 1, .win 10]
  | .timeMarkMissing .. => [.regs, .out, .seam, .met, .win 12]
  | .metPulseOut .. => [.regs, .out, .met, .win 12]
  | .relayOfferReceived .. | .relayAcceptReceived .. | .relayDataReceived .. | .relayAckReceived .. => [.regs, .out, .tim, .upd, .win 16]
  | .updCampaignAbort .. | .updCampaignReportQuery .. | .updCampaignDeadline .. => [.cmd, .plc, .msh, .bil, .upd]
  | .domainRampDone .. => [.regs, .out, .cmd, .hbr, .fab, .pwr, .plc, .msh, .los, .bil, .win 1]
  | .hostRegisterWrite .. => [.regs, .out, .cmd, .hbr, .fab, .pwr, .evr, .tim, .ing, .plc, .rfx, .cod, .los, .par, .wins]
  | .mshConfig .. => [.regs, .cmd, .evr, .msh, .bil, .wins]
  | .cqCoalesceTimeout .. => [.regs, .out, .cmd, .hbr, .win 1]
  | .stormAllowanceRefill .. => [.regs, .out, .hbr, .ing, .win 1]
  | .losFeederEnergy .. => [.regs, .out, .hbr, .los, .win 1]
  | .mapApply .. | .atCollectorDown .. => [.regs, .out, .hbr, .msh, .win 1]
  | .rfClockReturn .. | .rfFramingRestore .. | .rfJamStart .. | .rfJamClear .. => [.regs, .out, .hbr, .rfx, .win 1]
  | .holdoverExpiry .. => [.regs, .out, .hbr, .tim, .win 1]
  | .confirmWindowWarning .. => [.regs, .out, .hbr, .upd, .win 1]
  | .parSelftest .. => [.regs, .cmd, .bil, .par, .win 18]
  | .losConfig .. => [.regs, .cmd, .los, .bil, .win 11]
  | .deviceSecond .. => [.regs, .out, .seam, .aon, .tim, .win 15]
  | .metSealRead .. | .bilRegsReadSigned .. | .keyAttest .. => [.regs, .out, .cmd, .hbr, .bil, .win 14]
  | .loaderCheck .. => [.regs, .out, .upd, .svc, .win 17]
  | .linkDown .. | .perstAssert .. | .busMasterClear .. | .d3hotEntry .. | .flrPf0 .. => [.regs, .cmd, .hbr, .win 1, .win 2]
  | .metSample .. => [.regs, .out, .freeCtr, .seam, .met, .win 12]
  | .rdiscCollectEnd .. | .rerrReceived .. | .tmreqReceived .. | .tmapAgeExpiry .. => [.regs, .out, .hbr, .ing, .plc, .win 1]
  | .rrepReceived .. | .plcAckTimeout .. | .rrepWaitExpiry .. => [.regs, .out, .cmd, .hbr, .ing, .plc, .bil, .win 1]
  | .counterMessageReceived .. => [.regs, .kvt, .ing, .plc, .msh, .win 18]
  | .billingGapRefill .. => [.regs, .out, .hbr, .ing, .win 1, .win 8]
  | .rfAgcBlock .. => [.regs, .out, .hbr, .rfx, .win 1, .win 5]
  | .flashGranuleDone .. => [.regs, .cmd, .bil, .upd, .win 16, .flash]
  | .sqTailDoorbell .. | .cqHeadDoorbell .. => [.regs, .cmd, .hbr, .evr, .win 2, .win 21]
  | .scrubRead .. | .billingHoldDrain .. => [.regs, .out, .hbr, .arc, .win 1, .win 10]
  | .losLaneClose .. => [.regs, .out, .hbr, .los, .win 1, .win 11]
  | .digestExchange .. => [.regs, .out, .hbr, .par, .win 1, .win 18]
  | .relayResultReceived .. => [.regs, .out, .hbr, .upd, .win 1, .win 16]
  | .relayProgressTimeout .. => [.regs, .out, .hbr, .tim, .upd, .win 1, .win 16]
  | .loaderSelect .. => [.regs, .out, .upd, .svc, .win 17, .flash]
  | .partnerTokenRecord .. => [.regs, .out, .freeCtr, .seam, .evr, .bil, .win 18, .win 21]
  | .queueEnable .. => [.regs, .cmd, .evr, .win 2, .win 20, .win 21]
  | .losTopoLoad .. => [.regs, .out, .cmd, .hbr, .los, .bil, .win 1]
  | .mshSendExpired .. | .mshNightslotClear .. => [.regs, .out, .cmd, .hbr, .msh, .bil, .win 1]
  | .bilCampaignWindowClose .. => [.regs, .out, .hbr, .plc, .msh, .bil, .win 1]
  | .keyMirrorUpdate .. => [.regs, .out, .seam, .cmd, .kvt, .ing, .fse, .bil, .win 14]
  | .sysRstNRise .. => [.regs, .dev, .seam, .cmd, .fab, .pwr, .evr, .wins]
  | .mshFlood .. => [.regs, .out, .cmd, .msh, .bil, .par, .win 18]
  | .updVerify .. => [.regs, .out, .cmd, .tim, .bil, .upd, .win 16, .flash]
  | .bilRestore .. => [.regs, .out, .cmd, .hbr, .bil, .win 1, .win 13]
  | .partReadError .. | .completionTimeout .. => [.regs, .out, .cmd, .hbr, .evr, .win 1, .win 21]
  | .keyAgree .. => [.regs, .out, .freeCtr, .cmd, .hbr, .kvt, .bil, .win 14]
  | .mshAckReceived .. => [.regs, .out, .cmd, .hbr, .ing, .msh, .bil, .win 1]
  | .loaderErase .. | .loaderWrite .. => [.regs, .out, .upd, .svc, .win 16, .win 17, .flash]
  | .dramUncorrectable .. => [.regs, .out, .cmd, .hbr, .evr, .plc, .msh, .arc, .bil, .win 10, .win 21]
  | .updConfirm .. => [.regs, .out, .cmd, .hbr, .bil, .upd, .win 1, .flash]
  | .mshAckTimeout .. => [.regs, .out, .freeCtr, .cmd, .hbr, .msh, .bil, .win 1, .win 6]
  | .plcFrameHandoff .. => [.regs, .out, .hbr, .ing, .plc, .fse, .win 1, .win 4]
  | .atDatagramReceived .. => [.regs, .out, .hbr, .plc, .fse, .msh, .win 1, .win 6]
  | .relayDoneReceived .. => [.regs, .out, .cmd, .hbr, .tim, .bil, .upd, .win 1, .win 16]
  | .plcMcastSend .. => [.regs, .out, .cmd, .plc, .bil, .par, .win 4, .win 18]
  | .plcLaunch .. => [.regs, .out, .freeCtr, .seam, .cmd, .tim, .plc, .bil, .win 4, .win 20]
  | .ledgerCopyReceived .. => [.regs, .out, .seam, .hbr, .evr, .bil, .par, .win 1, .win 21]
  | .keyExport .. => [.regs, .out, .cmd, .hbr, .evr, .kvt, .bil, .win 14, .win 21]
  | .metCalStore .. => [.regs, .out, .freeCtr, .cmd, .hbr, .evr, .kvt, .met, .bil, .win 1, .win 12, .win 14, .win 21]
  | .metSeal .. => [.regs, .out, .cmd, .evr, .met, .bil, .win 12, .win 21]
  | .commandResult .. => [.regs, .out, .cmd, .hbr, .evr, .win 1, .win 2, .win 21]
  | .arcBlockTake .. => [.regs, .out, .cmd, .hbr, .cod, .arc, .bil, .win 1, .win 9, .win 10]
  | .fseIntake .. | .shadowFrameReceived .. => [.regs, .out, .hbr, .evr, .kvt, .ing, .fse, .par, .wins]
  | .losRecordTake .. => [.regs, .out, .hbr, .ing, .los, .win 1, .win 11, .win 20]
  | .supplyValid .. => [.regs, .dev, .seam, .cmd, .fab, .pwr, .aon, .evr, .met, .wins]
  | .plcSend .. => [.regs, .out, .cmd, .hbr, .ing, .plc, .bil, .win 1, .win 4]
  | .rfClockLoss .. | .rfFramingLoss .. => [.regs, .out, .cmd, .hbr, .rfx, .msh, .bil, .win 1, .win 5]
  | .descriptorReceived .. => [.regs, .out, .dev, .cmd, .hbr, .evr, .plc, .rfx, .msh, .bil, .wins]
  | .arcDriveInit .. => [.out, .freeCtr, .cmd, .vin, .kvt, .ing, .msh, .cod, .arc, .bil]
  | .journalPageCommit .. => [.regs, .out, .cmd, .hbr, .ing, .arc, .bil, .win 0, .win 1, .win 10]
  | .fenceTimeout .. => [.regs, .out, .cmd, .hbr, .vin, .evr, .bil, .win 1, .win 20, .win 21]
  | .metConfig .. | .metTermAck .. => [.regs, .out, .cmd, .hbr, .pwr, .evr, .plc, .los, .met, .bil, .win 1, .win 21]
  | .ptpSyncReceived .. | .ppsInEdge .. | .partnerTimeReply .. | .ptpAnnounceTimeout .. | .sourceLossTimeout ..
    | .sourceRevert .. => [.regs, .out, .hbr, .evr, .tim, .los, .win 1, .win 11, .win 15, .win 21]
  | .launchFire .. => [.regs, .out, .cmd, .evr, .tim, .plc, .rfx, .msh, .bil, .win 4, .win 5, .win 21]
  | .launchInsert .. => [.regs, .out, .cmd, .hbr, .tim, .plc, .msh, .bil, .win 1, .win 15, .win 20]
  | .vinReset .. | .vinDisable .. | .vinDestroy .. => [.regs, .out, .cmd, .hbr, .vin, .ing, .fse, .cod, .arc, .bil, .win 1, .win 9]
  | .bilIntervalApply .. => [.regs, .out, .seam, .hbr, .evr, .kvt, .bil, .par, .win 1, .win 13, .win 14, .win 21]
  | .flrVf .. | .functionDisable .. => [.regs, .out, .cmd, .hbr, .vin, .ing, .fse, .cod, .arc, .win 1, .win 2, .win 9]
  | .bilAcceptShort .. => [.regs, .out, .freeCtr, .cmd, .hbr, .evr, .kvt, .bil, .win 1, .win 14, .win 21]
  | .seamUnderrun .. | .releaseDrainExpiry .. => [.regs, .out, .seam, .cmd, .evr, .plc, .rfx, .msh, .bil, .par, .win 4, .win 5, .win 21]
  | .metUnseal .. => [.regs, .out, .freeCtr, .cmd, .evr, .kvt, .met, .bil, .win 12, .win 14, .win 21]
  | .glbStateSet .. => [.regs, .out, .dev, .cmd, .evr, .plc, .rfx, .msh, .bil, .wins]
  | .glbLaneResync .. => [.regs, .out, .dev, .cmd, .evr, .plc, .rfx, .msh, .bil, .win 0, .win 4, .win 5, .win 21]
  | .bilReplayRecord .. => [.regs, .out, .seam, .cmd, .hbr, .evr, .kvt, .bil, .par, .win 1, .win 13, .win 14, .win 21]
  | .timStep .. | .timSourceSet .. => [.regs, .out, .cmd, .hbr, .evr, .tim, .los, .bil, .win 1, .win 11, .win 15, .win 21]
  | .fenceUnitAck .. => [.regs, .out, .cmd, .hbr, .vin, .kvt, .ing, .plc, .msh, .arc, .bil, .win 1, .win 2, .win 10, .win 20]
  | .ownershipHeartbeatReceived .. | .heartbeatTimeout .. =>
      [.regs, .out, .dev, .seam, .cmd, .evr, .plc, .rfx, .msh, .bil, .win 0, .win 4, .win 5, .win 21]
  | .seamPacketReceived .. =>
      [.regs, .out, .dev, .seam, .cmd, .evr, .kvt, .plc, .rfx, .msh, .bil, .win 0, .win 4, .win 5, .win 14, .win 21]
  | .plcTxEnd .. => [.regs, .out, .seam, .cmd, .evr, .plc, .rfx, .msh, .bil, .par, .win 4, .win 5, .win 20, .win 21]
  | .mshAckSend .. => [.regs, .out, .evr, .tim, .kvt, .ing, .rfx, .msh, .par, .win 5, .win 6, .win 7, .win 14, .win 18, .win 21]
  | .mshSend .. => [.regs, .out, .cmd, .hbr, .evr, .tim, .kvt, .ing, .msh, .bil, .par, .win 1, .win 7, .win 14, .win 18, .win 21]
  | .bilIntervalTake .. => [.regs, .out, .seam, .cmd, .hbr, .evr, .kvt, .ing, .plc, .msh, .bil, .win 1, .win 13, .win 14, .win 21]
  | .mshBeaconSend .. => [.regs, .out, .aon, .evr, .tim, .kvt, .ing, .rfx, .msh, .par, .win 5, .win 6, .win 7, .win 14, .win 18, .win 21]
  | .arcDriveRejoin .. => [.regs, .out, .cmd, .hbr, .vin, .kvt, .ing, .fse, .msh, .cod, .arc, .bil, .win 0, .win 1, .win 10, .win 20]
  | .keyLifecycleAdvance .. => [.regs, .out, .freeCtr, .dev, .cmd, .hbr, .evr, .kvt, .met, .bil, .win 1, .win 14, .win 21, .life]
  | .rfTxEnd .. => [.regs, .out, .seam, .cmd, .hbr, .evr, .plc, .rfx, .msh, .bil, .par, .win 1, .win 4, .win 5, .win 20, .win 21]
  | .glbTamperAck .. => [.regs, .out, .freeCtr, .dev, .cmd, .hbr, .pwr, .evr, .kvt, .met, .bil, .win 0, .win 1, .win 14, .win 21]
  | .parRoleStandby .. | .parRelease .. | .pairHeartbeatSend .. =>
      [.regs, .out, .seam, .cmd, .hbr, .evr, .plc, .rfx, .msh, .bil, .par, .upd, .win 1, .win 4, .win 5, .win 18, .win 21]
  | .bilCampaignWindowOpen .. | .bilCampaignStart .. =>
      [.regs, .out, .cmd, .hbr, .evr, .tim, .kvt, .ing, .plc, .msh, .bil, .par, .win 1, .win 4, .win 7, .win 14, .win 18, .win 21]
  | .frameSealCommit .. =>
      [.regs, .out, .cmd, .hbr, .evr, .tim, .kvt, .ing, .plc, .msh, .bil, .par, .win 1, .win 7, .win 14, .win 18, .win 21]
  | .mshRetryOpportunity .. | .rfTxLaunch .. =>
      [.regs, .out, .cmd, .hbr, .evr, .tim, .kvt, .ing, .rfx, .msh, .bil, .par, .win 1, .win 5, .win 7, .win 14, .win 18, .win 21]
  | .parRoleSolo .. | .parClaim .. | .releaseEchoReceived .. | .releaseEchoTimeout .. | .ownInFall .. | .partnerLoss ..
    | .pairLaneDown .. =>
      [.regs, .out, .dev, .seam, .cmd, .hbr, .evr, .kvt, .ing, .fse, .bil, .par, .win 1, .win 7, .win 14, .win 18, .win 21]
  | .fseVerdictRelease .. =>
      [.regs, .out, .hbr, .ing, .plc, .fse, .msh, .cod, .los, .par, .win 1, .win 6, .win 7, .win 8, .win 9, .win 20]
  | .piggybackSend .. | .nightSlotOccurrence .. =>
      [.regs, .out, .cmd, .hbr, .evr, .tim, .kvt, .ing, .rfx, .msh, .bil, .par, .win 1, .win 5, .win 6, .win 7, .win 14, .win 18, .win 21]
  | .tokenRequest .. | .bilCreditPush .. =>
      [.regs, .out, .freeCtr, .seam, .cmd, .hbr, .evr, .tim, .kvt, .ing, .plc, .msh, .bil, .par, .win 1, .win 4, .win 7, .win 13,
        .win 14, .win 18, .win 21]
  | .checkpointWriteDone .. =>
      [.regs, .out, .freeCtr, .cmd, .hbr, .evr, .tim, .kvt, .ing, .plc, .fse, .msh, .arc, .bil, .par, .win 1, .win 7, .win 14, .win 18,
        .win 21]
  | .pairHeartbeatReceived .. =>
      [.regs, .out, .freeCtr, .dev, .seam, .cmd, .hbr, .evr, .plc, .rfx, .msh, .bil, .par, .upd, .win 0, .win 1, .win 4, .win 5, .win 18,
        .win 21]
  | .floodCopySend .. =>
      [.regs, .out, .cmd, .hbr, .aon, .evr, .tim, .kvt, .ing, .rfx, .msh, .bil, .par, .win 1, .win 5, .win 6, .win 7, .win 14, .win 18,
        .win 21]
  | .updCampaignStart .. | .updCampaignWindow .. =>
      [.regs, .out, .cmd, .hbr, .evr, .tim, .kvt, .ing, .plc, .msh, .bil, .par, .upd, .win 1, .win 4, .win 7, .win 14, .win 16, .win 18,
        .win 21]
  | .loaderRestart .. | .tapReset .. =>
      [.regs, .out, .dev, .seam, .cmd, .hbr, .fab, .vin, .pwr, .evr, .tim, .kvt, .ing, .plc, .rfx, .fse, .msh, .cod, .arc, .los, .bil,
        .par, .upd, .svc, .wins]
  | .tamperSample .. =>
      [.regs, .out, .freeCtr, .dev, .seam, .cmd, .hbr, .pwr, .evr, .kvt, .plc, .rfx, .msh, .los, .met, .bil, .win 0, .win 1, .win 4,
        .win 5, .win 12, .win 14, .win 21]
  | .glbRecoveryEnter .. | .confirmWindowExpiry .. =>
      [.regs, .out, .dev, .seam, .cmd, .hbr, .fab, .vin, .pwr, .aon, .evr, .tim, .kvt, .ing, .plc, .rfx, .fse, .msh, .cod, .arc, .los,
        .bil, .par, .upd, .svc, .wins]
  | .duskSaveEnd .. =>
      [.regs, .out, .dev, .seam, .cmd, .hbr, .fab, .vin, .pwr, .evr, .tim, .kvt, .ing, .plc, .rfx, .fse, .msh, .cod, .arc, .los, .met,
        .bil, .par, .upd, .svc, .wins]
  | .supplySwitchover .. =>
      [.regs, .out, .dev, .seam, .cmd, .hbr, .fab, .vin, .pwr, .aon, .evr, .tim, .kvt, .ing, .plc, .rfx, .fse, .msh, .cod, .arc, .los,
        .met, .bil, .par, .upd, .svc, .wins]
  | .updRollback .. =>
      [.regs, .out, .dev, .seam, .cmd, .hbr, .fab, .vin, .pwr, .aon, .evr, .tim, .kvt, .ing, .plc, .rfx, .fse, .msh, .cod, .arc, .los,
        .bil, .par, .upd, .svc, .wins, .flash]
  | .activationInstant .. =>
      [.regs, .out, .dev, .seam, .cmd, .hbr, .fab, .vin, .pwr, .aon, .evr, .tim, .kvt, .ing, .plc, .rfx, .fse, .msh, .cod, .arc, .los,
        .met, .bil, .par, .upd, .svc, .wins, .flash]
  | .dawnStageEnd .. =>
      [.regs, .out, .freeCtr, .dev, .seam, .cmd, .hbr, .fab, .vin, .pwr, .aon, .evr, .tim, .kvt, .ing, .plc, .rfx, .fse, .msh, .cod,
        .arc, .los, .met, .bil, .par, .upd, .svc, .wins, .flash]
  | .pwrDomainOff .. =>
      [.regs, .out, .dev, .seam, .cmd, .hbr, .fab, .pwr, .aon, .evr, .tim, .kvt, .ing, .plc, .rfx, .fse, .msh, .los, .bil, .par, .win 1,
        .win 3, .win 4, .win 5, .win 7, .win 11, .win 14, .win 15, .win 18, .win 19, .win 21]
  | .vsenseFail .. | .sfailNLow .. | .sysRstNLow .. =>
      [.regs, .out, .dev, .seam, .cmd, .hbr, .vin, .pwr, .aon, .evr, .kvt, .ing, .plc, .rfx, .fse, .msh, .cod, .arc, .los, .met, .bil,
        .par, .upd, .win 0, .win 1, .win 4, .win 5, .win 7, .win 8, .win 9, .win 10, .win 14, .win 18, .win 20, .win 21]
  | .pwrShutdownRestart .. | .pwrShutdownHalt .. =>
      [.regs, .out, .dev, .seam, .cmd, .hbr, .vin, .pwr, .aon, .evr, .kvt, .ing, .plc, .rfx, .fse, .msh, .cod, .arc, .los, .met, .bil,
        .par, .upd, .win 0, .win 1, .win 2, .win 4, .win 5, .win 7, .win 8, .win 9, .win 10, .win 14, .win 18, .win 20, .win 21]
  | .referenceLoss .. =>
      [.regs, .out, .dev, .seam, .cmd, .hbr, .vin, .pwr, .aon, .evr, .kvt, .ing, .plc, .rfx, .fse, .msh, .cod, .arc, .los, .met, .bil,
        .par, .upd, .win 0, .win 1, .win 3, .win 4, .win 5, .win 7, .win 8, .win 9, .win 10, .win 14, .win 18, .win 20, .win 21]

/-- Groups of commands, by the unit that gives them their meaning. -/
inductive Sector where
  | control | field | data | island | service
  deriving DecidableEq, Repr

/-- The group of a command. -/
def sectorOf : Instr → Sector
  | .hostRegisterWrite .. | .rcRegisterRead .. | .lowWordRead .. | .lowWordWrite .. | .highWordWrite .. | .unitLockWrite .. | .seamWindowRead ..
  | .seamWindowReadResponse .. | .seamPacketReceived .. | .ownershipHeartbeatSend .. | .ownershipHeartbeatReceived .. | .heartbeatTimeout ..
  | .sqTailDoorbell .. | .cqHeadDoorbell .. | .queueEnable .. | .queueDisable .. | .descriptorFetch .. | .descriptorReceived ..
  | .commandDispatch .. | .commandResult .. | .cqCoalesceTimeout .. | .glbIdentify .. | .glbStatus .. | .glbStateSet .. | .glbLaneResync ..
  | .glbNop .. | .partReadCompletion .. | .partReadError .. | .completionTimeout .. | .creditStall .. | .backoffExpiry .. | .stallAbsent ..
  | .creditsReturn .. | .linkDown .. | .perstAssert .. | .busMasterClear .. | .d3hotEntry .. | .flrPf0 .. | .flrVf .. | .vfEnableSet ..
  | .functionDisable .. | .msixVectorUnmask .. | .noticeRingEnable .. | .noticeRingDisable .. | .noticeHeadDoorbell .. | .nrCoalesceTimeout ..
  | .heldMove .. | .dataLinkUp .. | .perstDeassert .. | .busMasterSet .. | .d3hotExit .. | .fabBurstRequest .. | .fabBurstEnd .. | .quietRise ..
  | .quietFall .. | .vinCreate .. | .vinReset .. | .vinDisable .. | .vinQuotaSet .. | .vinStatus .. | .vinDestroy .. | .fenceUnitAck ..
  | .fenceTimeout .. => .control
  | .plcSymbolReceived .. | .plcNoiseClear .. | .plcPreambleDetect .. | .plcPhrDecision .. | .plcCodewordDecode .. | .plcFrameHandoff ..
  | .zcMetCrossing .. | .zcCoarseCrossing .. | .zcSourceLoss .. | .rdiscReceived .. | .rdiscCollectEnd .. | .rrepReceived ..
  | .rrepWaitExpiry .. | .rerrReceived .. | .tmreqReceived .. | .tmrspReceived .. | .tmapAgeExpiry .. | .plcLaunch .. | .seamUnderrun ..
  | .plcTxEnd .. | .bandcDeferExpiry .. | .plcContentionWaitEnd .. | .plcMaxDeferExpiry .. | .plcAckSend .. | .plcAckReceived ..
  | .plcAckTimeout .. | .plcRetryWaitEnd .. | .mcastRepeat .. | .plcConfig .. | .plcTonemapLoad .. | .plcTonemapReadTx .. | .plcTonemapReadRx ..
  | .plcTonemapRevert .. | .plcSend .. | .plcRouteSetSlot .. | .plcRouteClearSlot .. | .plcRoutePin .. | .plcRouteUnpin .. | .plcMcastSend ..
  | .plcStatus .. | .plcNoiseRead .. | .rfClockLoss .. | .rfClockReturn .. | .rfFramingLoss .. | .rfFramingRestore .. | .rfSyncDetect ..
  | .rfPhrDecision .. | .rfFrameEnd .. | .rfAgcBlock .. | .rfJamStart .. | .rfJamClear .. | .dutyBucketRoll .. | .rfTxLaunch .. | .rfTxEnd ..
  | .mshBeaconSend .. | .mshBeaconHeard .. | .mshFrameReceived .. | .mshAckSend .. | .mshAckReceived .. | .mshAckTimeout ..
  | .mshRetryOpportunity .. | .piggybackSend .. | .nightSlotOccurrence .. | .floodCopySend .. | .seenCacheExpiry .. | .mapApply ..
  | .atDatagramReceived .. | .atCollectorDown .. | .mshSendExpired .. | .mshConfig .. | .mshSlotAdd .. | .mshSlotRemove ..
  | .mshSlotRemoveAll .. | .mshNightslotSet .. | .mshNightslotClear .. | .mshSend .. | .mshFlood .. | .mshBeaconSet .. | .mshStatus ..
  | .launchInsert .. => .field
  | .fseIntake .. | .fseVerdictRelease .. | .fcsAfterVerdict .. | .frameSealCommit .. | .burstBufferLeave .. | .stormSecond ..
  | .stormAllowanceRefill .. | .billingGapRefill .. | .contextCheckpoint .. | .checkpointWriteDone .. | .epCreate .. | .epRead ..
  | .epWriteAttr .. | .epWriteKeyset .. | .epWriteRxwin .. | .epWriteTxctr .. | .epWriteReadwin .. | .epWritePathclr .. | .epWriteSnapclr ..
  | .epWriteHost .. | .epDelete .. | .epLookup .. | .epStats .. | .epStatsBackfill .. | .backfillTlpAcknowledged .. | .codRecordCode ..
  | .codCloseTimer .. | .codFlush .. | .codQcommit .. | .codCloseResume .. | .arcBlockTake .. | .arcWriteComplete .. | .arcWriteFail ..
  | .journalPageCommit .. | .mapImageWrite .. | .deallocateDone .. | .arcHealthPoll .. | .driveCommandTimeout .. | .driveHotplug ..
  | .driveLoss .. | .rebuildCopyDone .. | .blockReadDone .. | .scrubRead .. | .billingHoldDrain .. | .arcNsCreate .. | .arcNsChange ..
  | .arcNsDelete .. | .arcNsReleaseSealed .. | .arcQuery .. | .arcExport .. | .arcDriveJoin .. | .arcDriveInit .. | .arcDriveEvacuate ..
  | .arcDriveFail .. | .arcStatus .. | .arcSeal .. | .losRecordTake .. | .losLaneClose .. | .losFeederEnergy .. | .losVoltageMeans ..
  | .losTopoLoad .. | .losConfig .. | .losResultRead .. | .losPhaseRead .. | .losHistRead .. => .data
  | .metSample .. | .metSecondMark .. | .timeMarkMissing .. | .metRegisterSave .. | .metPulseOut .. | .tamperSample .. | .nightTamperSample ..
  | .metCalStore .. | .metSeal .. | .metUnseal .. | .metRead .. | .metSealRead .. | .metAuditRead .. | .metConfig .. | .metTermAck ..
  | .bilIntervalTake .. | .bilIntervalApply .. | .tokenRequest .. | .partnerTokenRecord .. | .islandRecordAck .. | .bilReplayRecord ..
  | .bilCampaignWindowOpen .. | .bilCampaignWindowClose .. | .bilCampaignDeadline .. | .bilCalendarLoad .. | .bilRegsReadRaw ..
  | .bilRegsReadSigned .. | .bilCreditPush .. | .bilCampaignStart .. | .bilBind .. | .bilRestore .. | .bilRelease .. | .bilAcceptShort ..
  | .bilLedgerRead .. | .bilCampaignAbort .. | .keyCreateSet .. | .keyImportWrapped .. | .keyImportPlain .. | .keyGenerate .. | .keyDeleteSet ..
  | .keyUpdateWrapped .. | .keyUpdatePlain .. | .keyUpdateGenerate .. | .keyInvalidate .. | .keyMirrorUpdate .. | .keyAgree .. | .keyExport ..
  | .keyAttest .. | .keyLifecycleAdvance .. | .keyStatus .. | .transportSlotLapse .. | .timeTick .. | .deviceSecond .. | .ptpSyncReceived ..
  | .ppsInEdge .. | .partnerTimeExchange .. | .partnerTimeReply .. | .ptpAnnounceTimeout .. | .sourceLossTimeout .. | .sourceRevert ..
  | .holdoverExpiry .. | .tickRefLoss .. | .ptpSyncSend .. | .timRead .. | .timStep .. | .timSourceSet .. | .timStatus .. | .timSnap ..
  | .ptpAnnounceReceived .. | .ptpDelayMessageReceived .. | .ptpAnnounceSend .. | .ptpDelayRequestSend .. | .launchFire .. | .launchWithdraw .. => .island
  | .glbRecoveryEnter .. | .glbTamperAck .. | .domainRampDone .. | .domainRampFault .. | .vbatMeasure .. | .pwrDomainOn .. | .pwrDomainOff ..
  | .pwrStatus .. | .pwrShutdownRestart .. | .pwrShutdownHalt .. | .thermalThreshold .. | .dramScrub .. | .dramUncorrectable ..
  | .arcDriveRejoin .. | .dawnStageEnd .. | .updDownloadHost .. | .updDownloadRelay .. | .updDiscardStaging .. | .flashGranuleDone ..
  | .updVerify .. | .updActivate .. | .updActivateCancel .. | .activationInstant .. | .confirmWindowWarning .. | .confirmWindowExpiry ..
  | .updConfirm .. | .updRollback .. | .updCampaignLoad .. | .updCampaignStart .. | .updStatus .. | .updCampaignAbort .. | .updCampaignWindow ..
  | .updCampaignReportQuery .. | .updCampaignDeadline .. | .relayOfferReceived .. | .relayAcceptReceived .. | .relayRefuseReceived ..
  | .relayDataReceived .. | .relayAckReceived .. | .relayDoneReceived .. | .relayResultReceived .. | .relayProgressTimeout .. | .loaderIdent ..
  | .loaderErase .. | .loaderWrite .. | .loaderRead .. | .loaderCheck .. | .loaderSelect .. | .loaderRestart .. | .packetSilenceTimeout ..
  | .svcIdent .. | .svcRegRead .. | .sspPut .. | .sspGet .. | .sspStat .. | .ospResponseSend .. | .ospFloodStart .. | .ospFloodClear ..
  | .ospResponseDrop .. | .ospFramingError .. | .ospLoaderMove .. | .tapInstructionLoad .. | .tapReset .. | .parStatus .. | .parRoleStandby ..
  | .parRoleSolo .. | .parResync .. | .parClaim .. | .parRelease .. | .releaseEchoReceived .. | .releaseEchoTimeout .. | .parDigestRead ..
  | .parSelftest .. | .ownInFall .. | .pairHeartbeatSend .. | .pairHeartbeatReceived .. | .partnerLoss .. | .pairLaneDown ..
  | .releaseMessageReceived .. | .holdoffEnd .. | .shadowFrameReceived .. | .counterMessageReceived .. | .digestEpochEnd .. | .digestExchange ..
  | .selftestPeriodic .. | .pairLaneUp .. | .releaseDrainExpiry .. | .resyncRecordReceived .. | .ledgerCopyReceived .. | .vsenseFail ..
  | .sfailNLow .. | .sysRstNLow .. | .referenceLoss .. | .supplyValid .. | .duskSaveEnd .. | .supplySwitchover .. | .sysRstNRise ..
  | .evrEvent .. | .evrRecordCommit .. | .evrHistPeriodEnd .. | .evrExtremesSample .. | .evrCursorWrite .. | .evrLoadDone .. | .evrWin15Read ..
  | .evrRead .. | .evrClear .. | .evrConfig .. => .service

end Sys2Proof.Machine
end

