-- ==== Sys2Proof/Certificates/Slice0/Obligations.lean ====
section
/-! DEFINITION. The statements for the provers. -/
set_option Elab.async false
open Sys2Proof Sys2Proof.Machine Sys2Proof.Machine.State

/-- A step runs the command at the front of the queue (R23, R31). For every command c and every state whose queue begins with c, the step is
the effect of c on the state with the rest of the queue. The commands of the opcode table are what the spec lets the block take from
outside; that they wait in one queue is the model's choice (log entry 1). -/
def Obligations.StepRunsFront : Prop :=
  ∀ (c : Instr) (rest : List Instr) (s : State), s.pending = c :: rest →
    step s = exec c { s with pending := rest }

/-- On an empty queue the block idles (R23). With no command waiting the step leaves the state as it is; this is the choice of the model
that log entry 1 states. DESIGN CHOICE of log entry 1: every effect of time is a row of the table. -/
def Obligations.EmptyQueueIdles : Prop :=
  ∀ s : State, s.pending = [] → step s = .next s

/-- No command stops the block (R9, R11, R66, R78). Every command, on every state, answers a next state: the spec gives every row of the
table an effect, a refusal by status or a count. -/
def Obligations.EveryCommandAnswers : Prop :=
  ∀ (c : Instr) (s : State), ∃ t, exec c s = .next t

/-- No command touches the queue of waiting commands (R23). Whatever a command does, the commands that wait behind it still wait, in the
same order. -/
def Obligations.QueueUntouched : Prop :=
  ∀ (c : Instr) (s t : State), exec c s = .next t → t.pending = s.pending

/-- Every step keeps the register file and the flash in canonical form (R14, R451, R454). From every state whose register file lists only
registers away from their reset values, in rising order, and whose flash lists only bytes that are not erased, in rising order, a step leads
to such a state. -/
def Obligations.StepKeepsSound : Prop :=
  ∀ s t : State, s.Sound → step s = .next t → t.Sound

/-- The state after reset is in canonical form (R14, R451). State.reset has its register file and its flash in their canonical forms. -/
def Obligations.ResetIsSound : Prop :=
  State.reset.Sound

/-- Reset begins DAWN with every register at its reset value (R67, R14, R546). After reset the device is in DAWN at stage D0 with cause
0x01, no command waits, every register holds its reset value and every flash byte reads as erased (that the flash is erased is the choice of
the model, log entry 13). -/
def Obligations.ResetIsDawn : Prop :=
  State.reset.dev.state = .dawn ∧ State.reset.dev.stage = 0 ∧ State.reset.reg Reg.GLB_STATE_CAUSE % 256 = 0x01 ∧
    State.reset.pending = [] ∧ (∀ key, State.reset.regW key = resetOf key) ∧ ∀ a, State.reset.upd.flash.read a = Memory.erased

/-- What the commands of host access, queues, device commands, the seam, the bridge, the fabric and virtual machines leave unchanged (R23,
R9, R31, R515, R524). For every command of host access, queues, device commands, the seam, the bridge, the fabric and virtual machines:
every part of the state outside the list that mayChange gives it (a unit, the registers of a window, the outputs, the life-cycle state,
every byte of the flash) reads after it as before, and so does the queue. -/
def Obligations.FrameControl : Prop :=
  ∀ (c : Instr) (s t : State), sectorOf c = .control → exec c s = .next t → Frame (mayChange c) s t

/-- What the commands of the power line, the radio and the mesh leave unchanged (R23, R113, R172, R191). For every command of the power
line, the radio and the mesh: every part of the state outside the list that mayChange gives it (a unit, the registers of a window, the
outputs, the life-cycle state, every byte of the flash) reads after it as before, and so does the queue. -/
def Obligations.FrameField : Prop :=
  ∀ (c : Instr) (s t : State), sectorOf c = .field → exec c s = .next t → Frame (mayChange c) s t

/-- What the commands of frame security, ingest, endpoints, coding, the archive and loss leave unchanged (R23, R214, R246, R262, R291,
R322). For every command of frame security, ingest, endpoints, coding, the archive and loss: every part of the state outside the list that
mayChange gives it (a unit, the registers of a window, the outputs, the life-cycle state, every byte of the flash) reads after it as before,
and so does the queue. -/
def Obligations.FrameData : Prop :=
  ∀ (c : Instr) (s t : State), sectorOf c = .data → exec c s = .next t → Frame (mayChange c) s t

/-- What the commands of metrology, billing, keys and time leave unchanged (R23, R345, R369, R403, R430). For every command of metrology,
billing, keys and time: every part of the state outside the list that mayChange gives it (a unit, the registers of a window, the outputs,
the life-cycle state, every byte of the flash) reads after it as before, and so does the queue. -/
def Obligations.FrameIsland : Prop :=
  ∀ (c : Instr) (s t : State), sectorOf c = .island → exec c s = .next t → Frame (mayChange c) s t

/-- What the commands of firmware, service ports, the pair, power, DAWN, DUSK and the recorders leave unchanged (R23, R451, R467, R485,
R538, R559). For every command of firmware, service ports, the pair, power, DAWN, DUSK and the recorders: every part of the state outside
the list that mayChange gives it (a unit, the registers of a window, the outputs, the life-cycle state, every byte of the flash) reads after
it as before, and so does the queue. -/
def Obligations.FrameService : Prop :=
  ∀ (c : Instr) (s t : State), sectorOf c = .service → exec c s = .next t → Frame (mayChange c) s t

/-- The life-cycle state moves only along its six transitions, each with its authorization (R408). Where KEY.LIFECYCLE.ADVANCE changes the
life-cycle state, the pair of states is one of the six of the table, a part that is not BLANK saw an authorization for that target pass
under the authority the table names (MANUFACTURER in MANUFACTURED, OWNER in PROVISIONED and DEPLOYED), and the digests carried are stored:
the MANUFACTURER digest from BLANK, and the OWNER and METROLOGY digests into PROVISIONED. -/
def Obligations.LifeCycleTable : Prop :=
  ∀ (c : CmdRef) (target confirm : Nat) (digest : Bytes) (auth : AuthIn) (recordOk : Bool) (s t : State),
    exec (.keyLifecycleAdvance c target confirm digest auth recordOk) s = .next t →
    t.dev.life ≠ s.dev.life →
      t.dev.life = target ∧
      (s.dev.life, target) ∈ [(0, 1), (1, 2), (2, 3), (1, 4), (2, 4), (3, 4)] ∧
      (s.dev.life ≠ 0 → s.authPasses auth 1 target = true ∧ auth.authority = if s.dev.life = 1 then 0 else 1) ∧
      (s.dev.life = 0 → t.kvt.auth.get? 0 = some digest) ∧
      (target = 2 → t.kvt.auth.get? 1 = some auth.digestA ∧ t.kvt.auth.get? 2 = some auth.digestB)

/-- Nothing but KEY.LIFECYCLE.ADVANCE changes the life-cycle state (R22, R34, R407). Every other command leaves the life-cycle state as it
is. -/
def Obligations.LifeCycleGuarded : Prop :=
  ∀ (i : Instr) (s t : State),
    (∀ c target confirm digest auth recordOk, i ≠ .keyLifecycleAdvance c target confirm digest auth recordOk) →
    exec i s = .next t → t.dev.life = s.dev.life

/-- A BAR0 request over 64 bytes or across a window is refused whole (R94). A BAR0 request of physical function 0 or of a virtual function
that exists, which starts inside BAR0 and is longer than 64 bytes or whose first and last bytes lie in different 64 KiB windows, is refused
whole: a write changes nothing but HBR.BOUNDARY_DROP, which counts it, and a read is answered Unsupported Request, is counted there, and
leaves every other register, every ring, every vector and every command as it is. -/
def Obligations.BoundaryRefused : Prop :=
  ∀ (a : BarAccess) (s : State), (a.fn = 0 ∨ s.vfExists a.fn = true) → a.bar = 0 → a.off < State.barSize a.fn 0 →
    (64 < a.len ∨ a.off / 65536 ≠ (a.off + a.len - 1) / 65536) →
      (∀ words, exec (.hostRegisterWrite a words) s = .next (s.bump Reg.HBR_BOUNDARY_DROP)) ∧
      ∀ lanes, Completes (.rcRegisterRead a lanes) s fun t =>
        t.out = .unsupported a.fn :: s.out ∧ t.regs = (s.bump Reg.HBR_BOUNDARY_DROP).regs ∧ t.cmd = s.cmd ∧
        t.hbr.rings = s.hbr.rings ∧ t.hbr.vectors = s.hbr.vectors

/-- A queue of an instance that is not READY is not enabled (R527). A write of QCTRL with ENABLE 1 to a queue of an instance that is not
READY leaves ENABLE at 0, in the register and in the queue, and counts in VIN.ENABLE_REFUSED of that instance. -/
def Obligations.EnableRefused : Prop :=
  ∀ (q : Nat) (v : Word) (s : State), s.Sound → q < 256 → (s.queue q).enabled = false → (s.inst (q / 16)).state ≠ .ready →
    Completes (.queueEnable q v) s fun t =>
      (t.queue q).enabled = false ∧ bitAt (t.regI Reg.CMD_QCTRL q) 0 = false ∧
      t.regI Reg.VIN_ENABLE_REFUSED (q / 16) = min (2 ^ 32 - 1) (s.regI Reg.VIN_ENABLE_REFUSED (q / 16) + 1)

/-- EVR.READ leaves the window alone and serves an instance only its own records (R568). EVR.READ leaves every recorder, CURSOR and snapshot
as they are; on an instance queue the records it writes as data are those of the reading whose instance is the command's, and no others. -/
def Obligations.ReadLeavesWindow : Prop :=
  ∀ (c : CmdRef) (r first n : Nat) (s t : State), exec (.evrRead c r first n) s = .next t →
    t.evr = s.evr ∧
    (c.queue < 256 → (t.out = s.out ∧ t.hbr = s.hbr) ∨
      ∃ l : List (Nat × EvRecord), (∀ e ∈ l, e ∈ (s.recorder r).recs ∧ e.2.inst = some c.inst) ∧
        Writes c (l.flatMap (fun e => e.2.bytes e.1)) s t)

/-- The descriptor header is read bit by bit as the table gives it (R57). From 64 bytes written field by field as the table places them, the
decoder reads back OPCODE, INSTANCE, ORDER, IRQ, DLIST, DDIR, TAG, PLEN, DPTR and the first PLEN bytes of the parameters, for every value of
every field, and finds a reserved bit set exactly where one is. -/
def Obligations.DescriptorHeader : Prop :=
  ∀ (op inst res2 flags res3 tag plen res6 res7 dptr : Nat) (params : Bytes),
    op < 2 ^ 16 → inst < 16 → res2 < 16 → flags < 16 → res3 < 16 → tag < 2 ^ 16 → plen < 64 → res6 < 4 → res7 < 256 → dptr < 2 ^ 64 →
    params.length = 48 →
    decodeDesc (le 2 op ++ le 1 (inst + 16 * res2) ++ le 1 (flags + 16 * res3) ++ le 2 tag ++ le 1 (plen + 64 * res6) ++ le 1 res7 ++
        le 8 dptr ++ params) =
      { opcode := op, inst := inst, reserved := decide (res2 ≠ 0 ∨ res3 ≠ 0 ∨ res6 ≠ 0 ∨ res7 ≠ 0), order := bitAt flags 0, irq := bitAt flags 1
        dlist := bitAt flags 2, ddir := bitAt flags 3, tag := tag, plen := plen, dptr := dptr, params := params.take plen }

/-- Without both permits no row puts a frame on a medium (R32). While the Noon and the Midnight permit do not both hold, the rows that
launch frames (the power line's launch and ACK, the radio launch, the beacon, the mesh ACK, the piggyback, the retry, the night slot and the
flood copy) leave the power line and the set of radio frames on the air as they are. -/
def Obligations.NoFrameWithoutPermits : Prop :=
  ∀ (i : Instr) (s t : State), s.permits = false → exec i s = .next t →
    (i = .plcLaunch ∨ (∃ b, i = .plcAckSend b) ∨ i = .rfTxLaunch ∨ (∃ p, i = .mshBeaconSend p) ∨ i = .mshAckSend ∨
      i = .piggybackSend ∨ (∃ k, i = .mshRetryOpportunity k) ∨ (∃ e, i = .nightSlotOccurrence e) ∨
      ∃ k p, i = .floodCopySend k p) →
    t.plc.onAir = s.plc.onAir ∧ t.rfx.tx = s.rfx.tx

/-- A fence on one instance leaves the other instances (R39, R528, R530, R531). The start of a fence by VIN.RESET, VIN.DISABLE or
VIN.DESTROY, an acknowledgement of a unit and the fence timeout leave the state, epoch, quotas and fence of every other instance as they
are. -/
def Obligations.FenceLeavesOthers : Prop :=
  ∀ (k : Nat) (s t : State),
    (∀ c, k ≠ c.inst → exec (.vinReset c) s = .next t → t.inst k = s.inst k) ∧
    (∀ c, k ≠ c.inst → exec (.vinDisable c) s = .next t → t.inst k = s.inst k) ∧
    (∀ c confirm ok, k ≠ c.inst → exec (.vinDestroy c confirm ok) s = .next t → t.inst k = s.inst k) ∧
    (∀ i u, k ≠ i → exec (.fenceUnitAck i u) s = .next t → t.inst k = s.inst k) ∧
    ∀ i, k ≠ i → exec (.fenceTimeout i) s = .next t → t.inst k = s.inst k

/-- Tamper hold keeps DAWN from completing D7 (R68). While tamper hold is in force, the end of stage D7 leaves the device in DAWN at stage
D7. -/
def Obligations.TamperHoldsDawn : Prop :=
  ∀ (d : DawnIn) (s t : State), s.dev.state = .dawn → s.dev.stage = 7 → s.dev.tamperHold = true →
    exec (.dawnStageEnd d) s = .next t → t.dev.state = .dawn ∧ t.dev.stage = 7

/-- A host write leaves a read-only register as it is (R9, R11). A host write of a whole DWORD to a register whose access code is RO leaves
every register as it is; so does one to an offset that no register occupies. -/
def Obligations.ReadOnlyKept : Prop :=
  ∀ (a : BarAccess) (w : HostWord) (s : State), a.fn = 0 → a.bar = 0 → State.breaksBoundary a = false → w.full = true →
    ¬ (0x1C000 ≤ a.off ∧ a.off < 0x20000) → State.isLowOfPair a.off = false → State.isHighOfPair a.off = false →
    State.ownRow a.off = false →
    (rowAt a.off = none ∨ ∃ r, rowAt a.off = some r ∧ r.access = .ro ∧ r.sels = []) →
    Completes (.hostRegisterWrite a [w]) s fun t => ∀ key, t.regW key = s.regW key

/-- Host register reads and writes take effect (R7, R8, R9, R11, R12, R13, R14, R16, R92, R93, R96, R614). A write of a whole DWORD by
physical function 0 to a register that its selectors reach, and that no enabled queue or ring holds, does what the access code says: RW
leaves the masked value (in NOISE_CTRL its W1S bit stays set), RWL the same while LOCK is clear and nothing while it is set, W1C clears the
bits written as 1, W1S sets them; several DWORDs are written in ascending order; a virtual function reaches no unit window. A read of a
register answers the enabled bytes of the value shown, and where it is RC leaves the reset value; a read of the high word of a pair answers
the word latched; a low-word read latches the high word, and with both words asked for answers both; a virtual function reads its own BAR0;
a low-word write is staged and a high-word write commits it with the word staged, or alone where none is; a LOCK write sets LOCK; the first
four seam-window reads are outstanding at once and a fifth waits, and a response answers the oldest and sends the first that waits. -/
def Obligations.HostAccessCompletes : Prop :=
  (∀ (a : BarAccess) (w : HostWord) (r : Row) (idx : Nat) (s : State),
      s.Sound →
      a.fn = 0 ∧ a.bar = 0 ∧ a.len = 4 ∧ a.off % 4 = 0 ∧ a.off < 0x4000000 ∧ w.full = true →
      ¬ (0x1C000 ≤ a.off ∧ a.off < 0x20000) ∧ State.isLowOfPair a.off = false ∧ State.isHighOfPair a.off = false ∧ State.ownRow a.off = false →
      rowAt a.off = some r ∧ s.selIndex r.sels 0 = some idx ∧ s.heldByEnable a.off idx = false →
      Completes (.hostRegisterWrite a [w]) s fun t =>
        (r.access = .rw → t.regI a.off idx = (w.value.toNat &&& State.copyMask r idx) ||| (s.regI a.off idx &&& State.setOnly a.off)) ∧
        (r.access = .rwl → s.locked (windowOf a.off) = false → t.regI a.off idx = w.value.toNat &&& State.copyMask r idx) ∧
        (r.access = .rwl → s.locked (windowOf a.off) = true → t.regI a.off idx = s.regI a.off idx) ∧
        (r.access = .w1c → t.regW (regKey a.off idx) = s.regW (regKey a.off idx) &&& ~~~ w.value) ∧
        (r.access = .w1s → t.regW (regKey a.off idx) = s.regW (regKey a.off idx) ||| (w.value &&& BitVec.ofNat 32 (State.copyMask r idx)))) ∧
  (∀ (off : Nat) (w : HostWord) (ws : List HostWord) (s : State),
      off % 65536 + 4 * (ws.length + 1) ≤ 65536 ∧ ws.length < 16 ∧ off < 0x4000000 →
      Completes (.hostRegisterWrite ⟨0, 0, off, 4 * (ws.length + 1)⟩ (w :: ws)) s fun t =>
        ∃ u, exec (.hostRegisterWrite ⟨0, 0, off, 4⟩ [w]) s = .next u ∧ (if ws = [] then u = t else exec (.hostRegisterWrite ⟨0, 0, off + 4, 4 * ws.length⟩ ws) u = .next t)) ∧
  (∀ (a : BarAccess) (lanes : Nat) (r : Row) (idx : Nat) (s : State),
      s.Sound →
      a.fn = 0 ∧ a.bar = 0 ∧ a.len = 4 ∧ a.off % 4 = 0 ∧ a.off < 0x4000000 ∧ State.seamWindow a.off = false →
      plainRead a.off = true ∧ State.readLow (a.off - 4) = false →
      rowAt a.off = some r ∧ s.selIndex r.sels 0 = some idx ∧ r.access ≠ .wo →
      Completes (.rcRegisterRead a lanes) s fun t =>
        t.out.head? = some (.readAnswer 0 s.hbr.idoCpl (State.enabledBytes lanes [BitVec.ofNat 32 (s.shown a.off idx)])) ∧
        (r.access = .rc → t.regW (regKey a.off idx) = resetOf (regKey a.off idx))) ∧
  (∀ (a : BarAccess) (lanes : Nat) (r : Row) (idx : Nat) (w : Word) (s : State),
      a.fn = 0 ∧ a.bar = 0 ∧ a.len = 4 ∧ a.off % 4 = 0 ∧ 4 ≤ a.off ∧ a.off < 0x4000000 ∧ State.seamWindow a.off = false →
      plainRead a.off = true ∧ State.readLow (a.off - 4) = true ∧ rowAt a.off = some r ∧ s.selIndex r.sels 0 = some idx →
      s.hbr.holding.get? 0 = some w →
      Completes (.rcRegisterRead a lanes) s fun t =>
        t.out.head? = some (.readAnswer 0 s.hbr.idoCpl (State.enabledBytes lanes [w])) ∧ ∀ key, t.regW key = s.regW key) ∧
  (∀ (a : BarAccess) (lanes : Nat) (s : State),
      a.fn ≠ 0 ∧ s.vfExists a.fn = true ∧ a.bar = 0 ∧ a.len = 4 ∧ a.off % 4 = 0 ∧ a.off < 0x10000 →
      Completes (.rcRegisterRead a lanes) s fun t =>
        t.out.head? = some (.readAnswer a.fn s.hbr.idoCpl (State.enabledBytes lanes [BitVec.ofNat 32 (s.vfWord a.fn a.off)])) ∧ ∀ key, t.regW key = s.regW key) ∧
  (∀ (off : Nat) (r : Row) (idx : Nat) (s : State),
      plainRead off = true ∧ State.readLow off = true ∧ State.readLow (off - 4) = false ∧ State.seamWindow off = false →
      rowAt off = some r ∧ s.selIndex r.sels 0 = some idx ∧ r.access ≠ .wo →
      Completes (.lowWordRead 0 off false) s fun t =>
        t.out.head? = some (.readAnswer 0 s.hbr.idoCpl (le 4 (s.shown off idx % 2 ^ 32))) ∧ t.hbr.holding.get? 0 = some (BitVec.ofNat 32 (s.shown (off + 4) idx))) ∧
  (∀ (off : Nat) (r hi : Row) (idx : Nat) (s : State),
      plainRead off = true ∧ State.readLow off = true ∧ State.readLow (off - 4) = false ∧ State.seamWindow off = false →
      rowAt off = some r ∧ r.access ≠ .wo ∧ s.selIndex r.sels 0 = some idx ∧ rowAt (off + 4) = some hi ∧ hi.sels = r.sels ∧ plainRead (off + 4) = true →
      Completes (.lowWordRead 0 off true) s fun t =>
        t.out.head? = some (.readAnswer 0 s.hbr.idoCpl (le 4 (s.shown off idx % 2 ^ 32) ++ le 4 (s.shown (off + 4) idx % 2 ^ 32)))) ∧
  (∀ (fn off : Nat) (s : State),
      fn ≠ 0 ∧ s.vfExists fn = true →
      Completes (.lowWordRead fn off false) s fun t =>
        t.out.head? = some (.readAnswer fn s.hbr.idoCpl (le 4 (s.vfWord fn off % 2 ^ 32))) ∧ ∀ key, t.regW key = s.regW key) ∧
  (∀ (off : Nat) (value : Word) (r : Row) (idx : Nat) (s : State),
      State.isLowOfPair off = true ∧ rowAt off = some r ∧ s.selIndex r.sels 0 = some idx →
      Completes (.lowWordWrite 0 off value) s fun t =>
        t.hbr.staged.get? (State.stagedKey 0 off) = some value ∧ ∀ key, t.regW key = s.regW key) ∧
  (∀ (off : Nat) (value w : Word) (hi lo : Row) (idx : Nat) (s : State),
      s.Sound →
      State.isHighOfPair off = true ∧ rowAt off = some hi ∧ rowAt (off - 4) = some lo →
      s.selIndex hi.sels 0 = some idx ∧ s.heldByEnable off idx = false ∧ s.heldByEnable (off - 4) idx = false →
      (hi.access = .rwl → s.locked (windowOf off) = false) →
      s.hbr.staged.get? (State.stagedKey 0 (off - 4)) = some w →
      Completes (.highWordWrite 0 off value) s fun t =>
        t.regI off idx = value.toNat &&& hi.mask ∧ t.regI (off - 4) idx = w.toNat &&& lo.mask) ∧
  (∀ (off : Nat) (value : Word) (hi lo : Row) (idx : Nat) (s : State),
      s.Sound →
      State.isHighOfPair off = true ∧ rowAt off = some hi ∧ rowAt (off - 4) = some lo →
      s.selIndex hi.sels 0 = some idx ∧ s.heldByEnable off idx = false →
      (hi.access = .rwl → s.locked (windowOf off) = false) →
      s.hbr.staged.get? (State.stagedKey 0 (off - 4)) = none →
      Completes (.highWordWrite 0 off value) s fun t =>
        t.regI off idx = value.toNat &&& hi.mask ∧ t.regI (off - 4) idx = s.regI (off - 4) idx) ∧
  (∀ (unit : Nat) (value : Word) (s : State),
      s.Sound →
      unit < 23 ∧ bitAt value.toNat 0 = true →
      Completes (.unitLockWrite unit value) s fun t =>
        t.locked unit = true) ∧
  (∀ (off : Nat) (s : State),
      State.seamWindow off = true ∧ s.hbr.seamReads.length < 4 ∧ s.seam.waiting = [] →
      Completes (.seamWindowRead 0 off) s fun t =>
        t.hbr.seamReads = s.hbr.seamReads ++ [{ fn := 0, off := off }] ∧
        ∃ p c, t.out.head? = some (.seam p c) ∧ p.fromDie = .noon ∧ p.cls = 7 ∧ p.body = .bytes (le 4 off)) ∧
  (∀ (off : Nat) (s : State),
      State.seamWindow off = true ∧ 4 ≤ s.hbr.seamReads.length →
      Completes (.seamWindowRead 0 off) s fun t =>
        t.hbr.seamReads = s.hbr.seamReads ∧ t.hbr.seamWait = s.hbr.seamWait ++ [{ fn := 0, off := off }] ∧ t.out = s.out) ∧
  (∀ (fn off : Nat) (rest : List SeamRead) (s : State),
      s.hbr.seamReads = { fn := fn, off := off } :: rest ∧ s.hbr.seamWait = [] →
      Completes (.seamWindowReadResponse) s fun t =>
        t.hbr.seamReads = rest ∧ t.out.head? = some (.readAnswer fn s.hbr.idoCpl (le 4 ((s.readDword fn off).1 % 2 ^ 32)))) ∧
  (∀ (r w : SeamRead) (rest ws : List SeamRead) (s : State),
      s.hbr.seamReads = r :: rest ∧ s.hbr.seamWait = w :: ws →
      Completes (.seamWindowReadResponse) s fun t =>
        t.hbr.seamReads = rest ++ [w] ∧ t.hbr.seamWait = ws)

/-- The die seam's packets and heartbeats take effect (R20, R21, R22, R35, R36). A good packet in sequence is taken and the expected number
advances, and what its class may not carry to the Midnight die is refused and counted; a packet damaged or out of sequence is asked for
again, and the sender answers with the packet it keeps under that number; when the fourth resend fails there is a seam fault; a heartbeat
carries the sender's view on class 2; a received heartbeat that matches clears the count of mismatches and one that differs, or none for 1.1
ms, counts one more. -/
def Obligations.SeamCommandsComplete : Prop :=
  (∀ (die : Die) (cls seq : Nat) (content : SeamContent) (s : State),
      seq = s.seamExpect die →
      Completes (.seamPacketReceived die cls seq true content) s fun t =>
        t.seamExpect die = seq + 1 ∧ t.seamFails die = 0 ∧
        (die = .midnight → midClassOk cls content = false → t.seam.refused = s.seam.refused + 1)) ∧
  (∀ (die : Die) (cls seq : Nat) (crcOk : Bool) (content : SeamContent) (s : State),
      (crcOk = false ∨ seq ≠ s.seamExpect die) ∧ s.seamFails die < 4 →
      Completes (.seamPacketReceived die cls seq crcOk content) s fun t =>
        t.seamExpect die = s.seamExpect die ∧ t.seamFails die = s.seamFails die + 1 ∧ .seamResend die ∈ t.out ∧
        ∀ p, s.seam.kept.find? (fun p => decide (p.fromDie = State.otherDie die) && p.seq == s.seamExpect die) = some p →
          t.out.head? = some (.seam p (crc32c p.bytes))) ∧
  (∀ (die : Die) (cls seq : Nat) (crcOk : Bool) (content : SeamContent) (s : State),
      s.Sound →
      (crcOk = false ∨ seq ≠ s.seamExpect die) ∧ 4 ≤ s.seamFails die →
      Completes (.seamPacketReceived die cls seq crcOk content) s fun t =>
        t.seamFails die = 0 ∧ t.regBit Reg.GLB_HOLD_CAUSES 0 = true ∧ (s.dev.state = .day → t.dev.state = .twilight)) ∧
  (∀ (die : Die) (s : State),
      s.seam.waiting = [] →
      Completes (.ownershipHeartbeatSend die) s fun t =>
        ∃ p c, t.out.head? = some (.seam p c) ∧ p.fromDie = die ∧ p.cls = 2 ∧ p.body = .beat (s.ownView die)) ∧
  (∀ (die : Die) (s : State),
      Completes (.ownershipHeartbeatReceived die (s.ownView die)) s fun t =>
        t.missCount die = 0) ∧
  (∀ (die : Die) (hb : Heartbeat) (s : State),
      hb ≠ s.ownView die →
      Completes (.ownershipHeartbeatReceived die hb) s fun t =>
        t.missCount die = s.missCount die + 1) ∧
  (∀ (die : Die) (s : State),
      Completes (.heartbeatTimeout die) s fun t =>
        t.missCount die = s.missCount die + 1)

/-- Doorbells, queues and completions take effect (R47, R49, R51, R53, R56, R57, R61, R63, R64). A doorbell of an enabled queue moves its
tail or head; QUEUE_ENABLE starts a queue from zero where its base and size are sound, and QUEUE_DISABLE stops it and ends its undispatched
commands with STATE_CONFLICT; a fetch asks for 64 bytes and advances the head; a descriptor received is admitted by an agreeing vote, or
answered with the status of the check that fails; a dispatch sends the oldest admitted command to its unit; the oldest result whose data has
left is posted; a coalesced message is sent. -/
def Obligations.QueueCommandsComplete : Prop :=
  (∀ (d : Doorbell) (q : Nat) (s : State),
      s.doorbellQueue d = some q →
      (s.queue q).enabled = true ∧ (s.queue q).error = false →
      d.value % 65536 < s.sqDepth q →
      Completes (.sqTailDoorbell d) s fun t =>
        (t.queue q).sqTail = d.value % 65536 ∧ t.hbr.doorbells.get? (q * 2) = some d.value) ∧
  (∀ (d : Doorbell) (q : Nat) (s : State),
      s.doorbellQueue d = some q →
      (s.queue q).enabled = true →
      d.value % 65536 < s.cqDepth q ∧ s.headMoves q (d.value % 65536) ≤ (s.queue q).cqUsed →
      Completes (.cqHeadDoorbell d) s fun t =>
        (t.queue q).cqHead = d.value % 65536 ∧ t.hbr.doorbells.get? (q * 2 + 1) = some d.value) ∧
  (∀ (q : Nat) (w : Word) (s : State),
      q ≤ 256 ∧ (s.queue q).enabled = false →
      (q < 256 → (s.inst (q / 16)).state = .ready) →
      s.baseBad q = false ∧ s.sizeBad q = false →
      Completes (.queueEnable q w) s fun t =>
        (t.queue q).enabled = true ∧ (t.queue q).error = false ∧ (t.queue q).sqHead = 0 ∧ (t.queue q).sqTail = 0 ∧ (t.queue q).cqHead = 0 ∧ (t.queue q).cqTail = 0) ∧
  (∀ (q : Nat) (w : Word) (s : State),
      q ≤ 256 →
      Completes (.queueDisable q w) s fun t =>
        (t.queue q).enabled = false ∧ (∀ c ∈ t.cmd.cmds, c.queue = q → c.stage ≠ .admitted) ∧
        ∀ c ∈ s.cmd.cmds, c.queue = q → c.stage = .admitted → { queue := q, tag := c.tag, status := St.stateConflict } ∈ t.cmd.results) ∧
  (∀ (q : Nat) (s : State),
      s.nextFetch = some q ∧ s.baseBad q = false →
      Completes (.descriptorFetch) s fun t =>
        t.cmd.fetching = s.cmd.fetching ++ [q] ∧ (t.queue q).sqHead = ((s.queue q).sqHead + 1) % s.sqDepth q ∧
        (∃ r ∈ t.hbr.reads, r.id = s.hbr.nextRead ∧ r.what = .descriptor q ∧ r.want = 64 ∧
          r.addr = s.regI Reg.CMD_SQ_BASE_LO q + s.regI Reg.CMD_SQ_BASE_HI q * 2 ^ 32 + 64 * (s.queue q).sqHead) ∧
        (s.hbr.upstream = [] → t.out.head? = some (.readReq s.hbr.nextRead s.freeTag
          (s.regI Reg.CMD_SQ_BASE_LO q + s.regI Reg.CMD_SQ_BASE_HI q * 2 ^ 32 + 64 * (s.queue q).sqHead) 64))) ∧
  (∀ (q : Nat) (b : Bytes) (s : State),
      s.descriptorNext q b = true ∧ s.cmd.fetching.contains q = true ∧ s.cmd.lanesUp ≠ 0 ∧ (s.queue q).error = false →
      s.admission q (decodeDesc b) = none →
      Completes (.descriptorReceived q b .agree false) s fun t =>
        t.cmd.cmds = s.cmd.cmds ++ [s.newCmd q (decodeDesc b)] ∧ t.cmd.results = s.cmd.results) ∧
  (∀ (q st r0 : Nat) (b : Bytes) (s : State),
      s.descriptorNext q b = true ∧ s.cmd.fetching.contains q = true ∧ s.cmd.lanesUp ≠ 0 ∧ (s.queue q).error = false →
      s.admission q (decodeDesc b) = some (st, r0) →
      Completes (.descriptorReceived q b .agree false) s fun t =>
        t.cmd.cmds = s.cmd.cmds ++ [{ s.newCmd q (decodeDesc b) with stage := .done }] ∧
        t.cmd.results = s.cmd.results ++ [{ queue := q, tag := (decodeDesc b).tag, status := st, result0 := r0 }]) ∧
  (∀ (q : Nat) (c : Cmd) (s : State),
      (s.queueCmds q).find? (fun c => c.stage == .admitted) = some c →
      (c.order = false ∨ (s.queueCmds q).head? = some c) ∧ (s.queue q).error = false ∧ s.fetchState = true →
      Completes (.commandDispatch q) s fun t =>
        t.cmd.cmds = s.cmd.cmds.replace c { c with stage := .dispatched, dispatchNc := s.dev.nc, epoch := (s.inst c.inst).epoch }) ∧
  (∀ (r : Result) (c : Cmd) (s : State),
      s.cmd.closed = false ∧ s.cmd.results.find? (fun r => !s.dataWaits r.queue r.tag) = some r ∧ r.queued = false →
      s.cmd.cmds.find? (fun c => c.queue == r.queue && c.tag == r.tag) = some c →
      Completes (.commandResult true) s fun t =>
        t.cmd.results = s.cmd.results.erase r ∧ t.cmd.cmds = s.cmd.cmds.eraseP (fun c => c.queue == r.queue && c.tag == r.tag) ∧
        (c.lost = false → s.completionOpen c.queue = true →
          .completion c.queue (s.queue c.queue).cqTail (s.completionBytes c r true (s.queue c.queue).phase) ∈ t.out)) ∧
  (∀ (r : Result) (c : Cmd) (s : State),
      s.cmd.closed = false ∧ s.cmd.results.find? (fun r => !s.dataWaits r.queue r.tag) = some r ∧ r.queued = true →
      s.cmd.cmds.find? (fun c => c.queue == r.queue && c.tag == r.tag) = some c →
      Completes (.commandResult true) s fun t =>
        t.cmd.results = s.cmd.results.erase r ∧ t.cmd.cmds.length = s.cmd.cmds.length ∧
        (∀ x ∈ t.cmd.cmds, x.queue = r.queue → x.tag = r.tag → x.queuedPosted = true) ∧
        (c.lost = false → s.completionOpen c.queue = true →
          .completion c.queue (s.queue c.queue).cqTail (s.completionBytes c r false (s.queue c.queue).phase) ∈ t.out)) ∧
  (∀ (q : Nat) (s : State),
      (s.queue q).unann ≠ 0 →
      Completes (.cqCoalesceTimeout q) s fun t =>
        (t.queue q).unann = 0)

/-- The device commands GLB.* take effect (R60, R67, R69, R71, R76, R78, R79). IDENTIFY writes the sixteen identity registers as data and
answers DEV_ID; STATUS answers the state word and the hold causes; STATE.SET moves between DAY and TWILIGHT, the state at its admission
deciding, and in DAWN sets BOOT_CTRL.HOLD; LANE.RESYNC takes the named lanes down until 40 000 nc of test and 1 200 nc for each lane that
passes have gone by, when it ends; NOP answers OK. -/
def Obligations.GlbCommandsComplete : Prop :=
  (∀ (c : CmdRef) (s : State),
      c.queue ≤ 256 →
      Completes (.glbIdentify c) s fun t =>
        AnsweredWith c St.ok (s.reg Reg.GLB_DEV_ID) t ∧ Writes c (s.shownBytes 0x10 16) s t) ∧
  (∀ (c : CmdRef) (s : State),
      c.queue ≤ 256 →
      Completes (.glbStatus c) s fun t =>
        AnsweredWith c St.ok ((s.stateWord none + s.reg Reg.GLB_HOLD_CAUSES % 65536 * 65536) % 2 ^ 32) t) ∧
  (∀ (c : CmdRef) (s : State),
      c.queue ≤ 256 ∧ s.dev.state = .day ∧ (s.setState c).1 = devCode .day →
      Completes (.glbStateSet c 2) s fun t =>
        t.dev.state = .twilight ∧ Answered c St.ok t) ∧
  (∀ (c : CmdRef) (s : State),
      c.queue ≤ 256 ∧ s.dev.state = .twilight ∧ s.setState c = (devCode .twilight, true) →
      Completes (.glbStateSet c 1) s fun t =>
        t.dev.state = .day ∧ Answered c St.ok t) ∧
  (∀ (c : CmdRef) (target : Nat) (s : State),
      s.Sound →
      c.queue ≤ 256 ∧ (target = 1 ∨ target = 2) ∧ (s.setState c).1 = devCode .dawn ∧ s.locked 0 = false →
      Completes (.glbStateSet c target) s fun t =>
        t.regBit Reg.GLB_BOOT_CTRL 0 = (target == 2) ∧ t.dev = s.dev ∧ Answered c St.ok t) ∧
  (∀ (c : CmdRef) (mask passMask : Nat) (s : State),
      0 < mask ∧ mask < 8 ∧ s.cmd.resyncs = [] →
      Completes (.glbLaneResync c mask passMask) s fun t =>
        let good := (List.range 3).filter (fun l => bitAt mask l && bitAt passMask l)
        let named := (List.range 3).filter (fun l => bitAt mask l)
        (c, s.dev.nc + 40000 + 1200 * good.length, decide (good.length < named.length)) ∈ t.cmd.laneJobs ∧
          ∀ l ∈ named, bitAt t.cmd.lanesUp l = false) ∧
  (∀ (c : CmdRef) (passMask : Nat) (s : State),
      c.queue ≤ 256 ∧ s.cmd.resyncs = [] ∧ s.cmd.laneJobs = [] ∧ s.cmd.input = [] →
      Completes (.glbLaneResync c 0 passMask) s fun t =>
        Answered c St.ok t ∧ t.cmd.lanesUp = s.cmd.lanesUp) ∧
  (∀ (c : CmdRef) (s : State),
      c.queue ≤ 256 →
      Completes (.glbNop c) s fun t =>
        t.cmd.results = s.cmd.results ++ [{ queue := c.queue, tag := c.tag, status := St.ok }] ∧ t.out = s.out)

/-- Link, reset and mastery events of the bridge take effect (R88, R103, R104, R105, R106). Link loss, PERST and stall leave the host
absent; a function's Bus Master Enable and D3hot follow their events; VF Enable follows NumVFs; resets of a function and a function disable
take the functions away; credits, link-up and PERST release bring the link back. -/
def Obligations.BridgeLinkCommandsComplete : Prop :=
  (∀ (s : State),
      Completes (.creditStall) s fun t =>
        t.hbr.backoff = true ∧ t.hbr.lastStall = some s.dev.nc ∧ t.hbr.backoffK ≤ 8 ∧ t.hbr.backoffEnd = s.dev.nc + 2 ^ t.hbr.backoffK * 256) ∧
  (∀ (s : State),
      s.hbr.backoffEnd ≤ s.dev.nc →
      Completes (.backoffExpiry) s fun t =>
        t.hbr.backoff = false ∧ t.cmd = s.cmd) ∧
  (∀ (since : Nat) (s : State),
      s.hbr.zeroSince = some since ∧ since + 50000000 ≤ s.dev.nc →
      Completes (.stallAbsent) s fun t =>
        t.hbr.stallAbsent = true ∧ t.hostAbsent = true ∧ t.cmd = s.cmd) ∧
  (∀ (s : State),
      Completes (.creditsReturn) s fun t =>
        t.hbr.stallAbsent = false) ∧
  (∀ (lost : List CmdKey) (s : State),
      s.Sound →
      Completes (.linkDown lost) s fun t =>
        t.hbr.dlUp = false ∧ t.hostAbsent = true ∧ t.hbr.vfEnable = false ∧ t.hbr.seamReads = [] ∧ t.regBit Reg.HBR_LINK_EVENTS 0 = true) ∧
  (∀ (lost : List CmdKey) (s : State),
      s.Sound →
      Completes (.perstAssert lost) s fun t =>
        t.hbr.perst = true ∧ t.hbr.dlUp = false ∧ t.hostAbsent = true ∧ t.regBit Reg.HBR_LINK_EVENTS 1 = true) ∧
  (∀ (s : State),
      Completes (.perstDeassert) s fun t =>
        t.hbr.perst = false ∧ t.hbr.dlUp = s.hbr.dlUp) ∧
  (∀ (speed width : Nat) (s : State),
      s.hbr.perst = false ∧ 1 ≤ speed ∧ speed ≤ 5 ∧ width ∈ [1, 2, 4, 8] →
      Completes (.dataLinkUp speed width) s fun t =>
        t.hbr.dlUp = true ∧ t.hbr.speed = speed ∧ t.hbr.width = width) ∧
  (∀ (fn : Nat) (lost : List CmdKey) (s : State),
      Completes (.busMasterClear fn lost) s fun t =>
        (t.func fn).busMaster = false) ∧
  (∀ (fn : Nat) (s : State),
      Completes (.busMasterSet fn) s fun t =>
        (t.func fn).busMaster = true) ∧
  (∀ (fn : Nat) (lost : List CmdKey) (s : State),
      Completes (.d3hotEntry fn lost) s fun t =>
        (t.func fn).d3hot = true) ∧
  (∀ (fn : Nat) (s : State),
      Completes (.d3hotExit fn) s fun t =>
        (t.func fn).d3hot = false) ∧
  (∀ (lost : List CmdKey) (s : State),
      Completes (.flrPf0 lost) s fun t =>
        t.func 0 = {} ∧ t.hbr.vfEnable = false) ∧
  (∀ (k : Nat) (lost : List CmdKey) (s : State),
      s.vfExists k = true ∧ (s.inst (k - 1)).state = .ready →
      Completes (.flrVf k lost) s fun t =>
        (t.inst (k - 1)).state = .fencing ∧ (t.inst (k - 1)).epoch = ((s.inst (k - 1)).epoch + 1) % 256) ∧
  (∀ (numVfs : Nat) (ari : Bool) (s : State),
      Completes (.vfEnableSet numVfs ari) s fun t =>
        (t.hbr.vfEnable = true ↔ numVfs ≤ 7 ∨ numVfs ≤ 16 ∧ ari = true) ∧ t.hbr.numVfs = numVfs) ∧
  (∀ (numVfs : Nat) (s : State),
      s.hostAbsent = false ∧ s.hbr.vfEnable = true ∧ numVfs < s.hbr.numVfs →
      Completes (.functionDisable numVfs) s fun t =>
        t.hbr.numVfs = numVfs ∧ t.hbr.vfEnable = (numVfs != 0))

/-- Reads, vectors and notice rings of the bridge take effect (R58, R90, R91, R97, R98, R99, R108, R617). A read ends when all its bytes
have come, and a page list that is whole starts its transfer; one that fails or times out is dropped, and its command is answered
CHECK_FAILED or its queue goes into error; an unmasked vector is unmasked and sends the message that waited; a notice ring starts empty,
stops, and follows its head doorbell; a coalesced message clears the count of entries not announced; the oldest held notice of a function
moves into its open ring. -/
def Obligations.BridgeMessageCommandsComplete : Prop :=
  (∀ (id q tg : Nat) (data : Bytes) (r : PartRead) (s : State),
      s.readOf id = some r ∧ r.want ≤ r.got + data.length ∧ r.what = .data q tg →
      Completes (.partReadCompletion id data) s fun t =>
        t.readOf id = none ∧ t.cmd = s.cmd ∧ (s.hbr.upstream = [] → t.hbr.reads = s.hbr.reads.filter (fun x => x.id != id))) ∧
  (∀ (id q tg : Nat) (data : Bytes) (r : PartRead) (s : State),
      s.readOf id = some r ∧ r.got + data.length < r.want ∧ r.what = .data q tg →
      Completes (.partReadCompletion id data) s fun t =>
        t.readOf id = some { r with got := r.got + data.length } ∧ t.cmd = s.cmd ∧ t.out = s.out) ∧
  (∀ (id q tg : Nat) (data : Bytes) (r : PartRead) (s : State),
      s.readOf id = some r ∧ r.want ≤ r.got + data.length ∧ r.what = .pages q tg ∧ (∀ x ∈ s.hbr.reads, x.what = .pages q tg → x.id = id) →
      Completes (.partReadCompletion id data) s fun t =>
        (∀ x ∈ t.hbr.xfers, ¬ (x.queue = q ∧ x.tag = tg)) ∧ t.cmd = s.cmd) ∧
  (∀ (id tag q tg : Nat) (why : ReadFail) (r : PartRead) (s : State),
      s.readOf id = some r ∧ r.tag = some tag ∧ r.what = .data q tg →
      Completes (.partReadError id tag why) s fun t =>
        t.readOf id = none ∧ t.cmd.results = s.cmd.results.filter (fun r => !(r.queue == q && r.tag == tg && !r.queued)) ++ [{ queue := q, tag := tg, status := St.checkFailed }]) ∧
  (∀ (id tag q : Nat) (why : ReadFail) (r : PartRead) (s : State),
      s.readOf id = some r ∧ r.tag = some tag ∧ r.what = .descriptor q ∧ s.cmd.fetching.contains q = true ∧ (s.queue q).error = false →
      Completes (.partReadError id tag why) s fun t =>
        t.readOf id = none ∧ (t.queue q).error = true ∧ (t.queue q).errCode = 0x05) ∧
  (∀ (id tag waited q tg : Nat) (r : PartRead) (s : State),
      s.readOf id = some r ∧ r.tag = some tag ∧ r.what = .data q tg →
      s.hbr.ctoDisable = false ∧ timeoutNc s.hbr.ctoValue * 99 ≤ waited * 100 →
      Completes (.completionTimeout id tag waited) s fun t =>
        t.readOf id = none ∧ t.cmd.results = s.cmd.results.filter (fun r => !(r.queue == q && r.tag == tg && !r.queued)) ++ [{ queue := q, tag := tg, status := St.checkFailed }]) ∧
  (∀ (v : Nat) (s : State),
      Completes (.msixVectorUnmask v) s fun t =>
        (t.hbr.vectors.getD v {}).masked = false ∧
        ((s.hbr.vectors.getD v {}).pending = true → s.canMaster (State.vectorFn v) = true → s.msixOff (State.vectorFn v) = false → .msix v ∈ t.out)) ∧
  (∀ (ring : Nat) (w : Word) (s : State),
      ring < 17 ∧ (s.ring ring).enabled = false →
      Completes (.noticeRingEnable ring w) s fun t =>
        t.ring ring = { enabled := true }) ∧
  (∀ (ring : Nat) (w : Word) (s : State),
      ring < 17 →
      Completes (.noticeRingDisable ring w) s fun t =>
        (t.ring ring).enabled = false ∧ (t.ring ring).error = false ∧ t.hbr.held = s.hbr.held) ∧
  (∀ (d : Doorbell) (f : Nat) (s : State),
      s.doorbellRing d = some f ∧ (s.ring f).enabled = true ∧ (s.ring f).error = false →
      d.value % 65536 < s.ringSize f ∧ (d.value % 65536 + s.ringSize f - (s.ring f).head) % s.ringSize f ≤ (s.ring f).used →
      Completes (.noticeHeadDoorbell d) s fun t =>
        (t.ring f).head = d.value % 65536 ∧ (t.ring f).error = false) ∧
  (∀ (ring : Nat) (s : State),
      (s.ring ring).unann ≠ 0 →
      Completes (.nrCoalesceTimeout ring) s fun t =>
        (t.ring ring).unann = 0) ∧
  (∀ (fn : Nat) (nt : Notice) (s : State),
      s.hbr.held.find? (fun n => n.fn == fn) = some nt ∧ s.ringOpen fn = true →
      Completes (.heldMove fn) s fun t =>
        t.hbr.held = s.hbr.held.eraseP (fun n => n.fn == fn) ∧ .notice fn (s.ring fn).tail (nt.bytes (s.ring fn).phase) ∈ t.out)

/-- Sends, acknowledgements and waits of the power line take effect (R113, R115, R117, R137, R145, R146, R147, R150, R157, R160). A fired
launch of a ready frame goes on the medium; a frame that has ended, whole or by underrun, leaves it; the waits of R117, R145, R147 and R157
move the send to its next phase, and a send at a stated time whose ACK does not come ends NO_ACK; an ACK owed goes out at its instant and
one received in time completes the send it answers; PLC.SEND and PLC.MCAST.SEND queue their frame, and one without a route starts a
discovery. -/
def Obligations.PlcSendCommandsComplete : Prop :=
  (∀ (hop : Nat) (e : Launch) (u : State) (x : PlcSend) (s : State),
      s.takeFired = some (e, u) ∧ u.plcSendOf e.ref = some x →
      x.phase = .ready ∧ x.sealed = true ∧ u.permits = true ∧ u.plcSending = false ∧ u.headOfLine x = true ∧ (x.at'.isSome = true ∨ u.bandBars = false) →
      hop = (if x.tries = 0 then u.zcLook.sendNbr x else x.hop) →
      (∃ p payload, u.zcLook.launchPlan e.instant x.rate false (if x.typ = 4 then (0, robonSet) else u.zcLook.txSetFor hop).1
          (if x.typ = 4 then (0, robonSet) else u.zcLook.txSetFor hop).2 x.link = some (p, payload) ∧
        (x.at'.isSome = true ∨ ∀ a ∈ u.plc.acks, e.instant + 1000 * frameUs u.zcLook.bandOr payload.length ≤ a.instant)) →
      Completes (.plcLaunch) s fun t =>
        t.plc.onAir = some x.id ∧ t.plc.rx = [] ∧ ∃ chains w m v, .plcFrame chains w x.link m v ∈ t.out) ∧
  (∀ (id : Nat) (s : State),
      s.plc.onAir = some id →
      Completes (.seamUnderrun) s fun t =>
        t.plc.onAir = none) ∧
  (∀ (id : Nat) (s : State),
      s.plc.onAir = some id →
      Completes (.plcTxEnd) s fun t =>
        t.plc.onAir = none ∧ t.plc.blankUntil = s.nowNs + 200000) ∧
  (∀ (id : Nat) (x : PlcSend) (s : State),
      s.plcSendOf id = some x ∧ x.phase = .bandc ∧ s.bandBars = false ∧ s.plc.bandFreeNs + 1000000 * x.waitMs ≤ s.nowNs →
      Completes (.bandcDeferExpiry id) s fun t =>
        t.plc.sends = s.plc.sends.map (fun y => if y.id == id then { y with phase := .ready } else y)) ∧
  (∀ (id wait : Nat) (x : PlcSend) (s : State),
      s.plcSendOf id = some x ∧ x.phase = .contend ∧ s.rxBusy = 0 ∧ s.plc.acks = [] ∧ s.plcSending = false →
      s.plc.sends.any (fun y => y.phase == .await) = false ∧ s.headOfLine x = true ∧ s.bandBars = false →
      Completes (.plcContentionWaitEnd id wait) s fun t =>
        t.plc.sends = s.plc.sends.map (fun y => if y.id == x.id then { y with phase := .ready } else y)) ∧
  (∀ (id wait : Nat) (x : PlcSend) (s : State),
      s.plcSendOf id = some x ∧ x.phase = .contend ∧ s.rxBusy = 0 ∧ s.plc.acks = [] ∧ s.plcSending = false →
      s.plc.sends.any (fun y => y.phase == .await) = false ∧ s.headOfLine x = true ∧ s.bandBars = true →
      Completes (.plcContentionWaitEnd id wait) s fun t =>
        ∃ y ∈ t.plc.sends, y.id = x.id ∧ y.phase = .bandc ∧ (s.bandInUse = false → y.waitMs = 0)) ∧
  (∀ (id : Nat) (x : PlcSend) (c : CmdRef) (s : State),
      (s.plcSendOf id = some x ∧ x.at'.isNone = true ∧ (x.phase = .contend ∨ x.phase = .bandc ∨ x.phase = .ready) ∧ x.cmd = some c ∧ c.queue ≤ 256) →
      Completes (.plcMaxDeferExpiry id) s fun t =>
        Answered c St.mediaBusy t ∧ t.plc.sends = s.plc.sends.filter (fun y => y.id != id)) ∧
  (∀ (id st : Nat) (a : PlcAck) (s : State),
      s.plc.acks.find? (fun a => a.id == id) = some a ∧ a.status = some st ∧ a.late = false ∧ a.refused = false →
      s.plcSending = false ∧ s.permits = true ∧ s.bandBars = false ∧ s.dueAt 0 a.instant = true →
      ((s.setPlc (fun p => { p with acks := p.acks.filter (fun x => x.id != id) })).zcLook.launchPlan a.instant 0 true 0 robonSet
        (State.ackLink a st s)).isSome = true →
      Completes (.plcAckSend id) s fun t =>
        t.plc.onAir = some id ∧ t.plc.acks = s.plc.acks.filter (fun x => x.id != id) ∧
        ∃ chains w m v, .plcFrame chains w (State.ackLink a st s) m v ∈ t.out) ∧
  (∀ (f : RxFrame) (u : State) (x : PlcSend) (c : CmdRef) (s : State),
      s.takeInbox 1 = some (f, u) →
      u.plc.sends.find? (fun x => x.phase == .await && x.lseq == (plcLinkOf f.bytes).lseq && x.hop == (plcLinkOf f.bytes).src && State.ackTimely x.endNs f.rts) = some x →
      u.plcSendOf x.id = some x ∧ x.cmd = some c ∧ c.queue ≤ 256 →
      Completes (.plcAckReceived) s fun t =>
        Answered c St.ok t ∧ t.plc.inbox = u.plc.inbox ∧ t.plc.sends = s.plc.sends.filter (fun y => y.id != x.id)) ∧
  (∀ (id : Nat) (x : PlcSend) (s : State),
      s.plcSendOf id = some x ∧ x.phase = .await ∧ x.at'.isNone = true ∧ x.tries ≤ x.retryMax →
      Completes (.plcAckTimeout id) s fun t =>
        t.plc.sends = s.plc.sends.map (fun y => if y.id == x.id then { y with phase := .retry } else y)) ∧
  (∀ (id : Nat) (x : PlcSend) (c : CmdRef) (s : State),
      s.plcSendOf id = some x ∧ x.phase = .await ∧ x.at'.isSome = true ∧ x.cmd = some c ∧ c.queue ≤ 256 →
      Completes (.plcAckTimeout id) s fun t =>
        Answered c 0x0610 t) ∧
  (∀ (id : Nat) (x : PlcSend) (s : State),
      s.plcSendOf id = some x ∧ x.phase = .retry →
      Completes (.plcRetryWaitEnd id) s fun t =>
        t.plc.sends = s.plc.sends.map (fun y => if y.id == id then { y with phase := .contend } else y)) ∧
  (∀ (id : Nat) (x : PlcSend) (s : State),
      s.plcSendOf id = some x ∧ x.phase = .gap →
      Completes (.mcastRepeat id) s fun t =>
        t.plc.sends = s.plc.sends.map (fun y => if y.id == id then { y with phase := .contend } else y)) ∧
  (∀ (c : CmdRef) (p : PlcSendIn) (s : State),
      c.queue ≤ 256 ∧ s.dataHeld c = false ∧ s.dev.state = .day ∧ s.epMine c p.endpoint = true ∧ p.rate < 3 ∧ secOk p.sec p.miclen = true →
      p.launchAt.all (fun t0 => !State.stampBad t0 && decide (s.nowNs + 200000 ≤ t0 / 2 ^ 30 * 1000000000 + t0 % 2 ^ 30)) = true →
      plcLen (s.sendRelays p) p.sec p.payload.length p.miclen ≤ 2048 ∧ s.plc.sends.length < 4096 ∧ s.band.isNone = false ∧ s.shut 39 = false →
      (p.route = 5 ∨ 1 ≤ p.route ∧ p.route ≤ 4 ∧ (s.routeOf (s.ctx p.endpoint) p.route).isSome = true ∨ p.route = 0 ∧ (s.pickRoute p.endpoint).1.isSome = true) →
      Completes (.plcSend c p) s fun t =>
        AnsweredQueued c t ∧ t.plc.sends.length = s.plc.sends.length + 1) ∧
  (∀ (c : CmdRef) (p : PlcSendIn) (s : State),
      c.queue ≤ 256 ∧ s.dataHeld c = false ∧ s.dev.state = .day ∧ s.epMine c p.endpoint = true ∧ p.rate < 3 ∧ secOk p.sec p.miclen = true →
      p.launchAt.all (fun t0 => !State.stampBad t0 && decide (s.nowNs + 200000 ≤ t0 / 2 ^ 30 * 1000000000 + t0 % 2 ^ 30)) = true →
      plcLen (s.sendRelays p) p.sec p.payload.length p.miclen ≤ 2048 ∧ s.plc.sends.length < 4096 ∧ s.band.isNone = false ∧ s.shut 39 = false →
      p.route = 0 ∧ (s.pickRoute p.endpoint).1.isNone = true ∧ s.plc.cfg.routingEn = true →
      Completes (.plcSend c p) s fun t =>
        AnsweredQueued c t ∧ ∃ y ∈ t.plc.sends, y.cmd = some c ∧ y.ep = some p.endpoint ∧ y.phase = .discover) ∧
  (∀ (c : CmdRef) (p : PlcMcastIn) (s : State),
      c.queue ≤ 256 ∧ s.dataHeld c = false ∧ s.dev.state = .day ∧ p.group % 2 = 1 ∧ p.hopsLeft ≤ 5 ∧ 1 ≤ p.spread ∧ p.spread ≤ 15 ∧ 1 ≤ p.repeats ∧ p.repeats ≤ 8 →
      1 ≤ p.gap ∧ p.gap ≤ 255 ∧ secOk p.sec p.miclen = true ∧ plcLen 0 p.sec (4 + p.payload.length) p.miclen ≤ 2048 →
      s.plc.sends.length < 4096 ∧ s.band.isNone = false ∧ s.shut 39 = false →
      Completes (.plcMcastSend c p) s fun t =>
        AnsweredQueued c t ∧ t.plc.sends.length = s.plc.sends.length + 1)

/-- The PLC configuration and route commands take effect (R126, R151, R159, R160). PLC.CONFIG puts its parameters in force; the tone-map
commands load, read and drop the transmit set of an endpoint; the route commands set, clear, pin and unpin a slot; STATUS and NOISE.READ
answer with their data. -/
def Obligations.PlcCommandsComplete : Prop :=
  (∀ (c : CmdRef) (p : PlcCfgIn) (s : State),
      c.queue ≤ 256 ∧ State.plcCfgOk p = true →
      Completes (.plcConfig c p) s fun t =>
        Answered c St.ok t ∧ t.plc.cfg.netEui = p.netEui ∧ t.plc.cfg.netId = p.netId ∧ t.plc.cfg.retryMax = p.retryMax ∧ t.plc.cfg.maxDefer = p.maxDefer) ∧
  (∀ (c : CmdRef) (ep handle n : Nat) (pin : Bool) (set : Bytes) (s : State),
      c.queue ≤ 256 ∧ s.dataHeld c = false ∧ s.epMine c ep = true ∧ setBad set = false ∧ set.length = 384 ∧ s.txSlot (s.ctx ep) = some n →
      Completes (.plcTonemapLoad c ep handle pin set) s fun t =>
        Answered c St.ok t ∧ t.plc.pool.get? n = some set ∧ (t.ctx ep).txSet = n ∧ (t.ctx ep).txHandle = handle) ∧
  (∀ (c : CmdRef) (ep : Nat) (s : State),
      c.queue ≤ 256 ∧ s.epMine c ep = true →
      Completes (.plcTonemapReadTx c ep) s fun t =>
        AnsweredWith c St.ok ((s.ctx ep).txHandle % 2 ^ 32) t ∧ Writes c ((s.poolSet (s.ctx ep).txSet).getD robonSet) s t) ∧
  (∀ (c : CmdRef) (handle : Nat) (set : Bytes) (s : State),
      c.queue ≤ 256 ∧ handle ≤ 65535 ∧ s.poolSet handle = some set →
      Completes (.plcTonemapReadRx c handle) s fun t =>
        Answered c St.ok t ∧ Writes c set s t) ∧
  (∀ (c : CmdRef) (ep : Nat) (s : State),
      c.queue ≤ 256 ∧ s.epMine c ep = true →
      Completes (.plcTonemapRevert c ep) s fun t =>
        Answered c St.ok t ∧ (t.ctx ep).txSet = 0 ∧ (t.ctx ep).txHandle = 0) ∧
  (∀ (c : CmdRef) (ep slot last : Nat) (relays : List (Nat × Nat)) (s : State),
      c.queue ≤ 256 ∧ s.dataHeld c = false ∧ s.epMine c ep = true ∧ slot < 4 ∧ relays.length ≤ 5 →
      Completes (.plcRouteSetSlot c ep slot relays last) s fun t =>
        Answered c St.ok t ∧ ((t.ctx ep).slot slot).valid = true ∧ ((t.ctx ep).slot slot).relays = relays.map Prod.fst) ∧
  (∀ (c : CmdRef) (ep slot : Nat) (s : State),
      c.queue ≤ 256 ∧ s.epMine c ep = true ∧ slot < 4 →
      Completes (.plcRouteClearSlot c ep slot) s fun t =>
        Answered c St.ok t ∧ (t.ctx ep).slot slot = {}) ∧
  (∀ (c : CmdRef) (ep slot : Nat) (s : State),
      c.queue ≤ 256 ∧ s.epMine c ep = true ∧ slot < 4 ∧ ((s.ctx ep).slot slot).valid = true →
      Completes (.plcRoutePin c ep slot) s fun t =>
        Answered c St.ok t ∧ (t.ctx ep).current = slot + 1 ∧ (t.ctx ep).routePinned = true) ∧
  (∀ (c : CmdRef) (ep : Nat) (s : State),
      c.queue ≤ 256 ∧ s.epMine c ep = true →
      Completes (.plcRouteUnpin c ep) s fun t =>
        Answered c St.ok t ∧ (t.ctx ep).routePinned = false) ∧
  (∀ (c : CmdRef) (s : State),
      c.queue ≤ 256 →
      Completes (.plcStatus c 0 false) s fun t =>
        AnsweredWith c St.ok (s.plcStatus % 2 ^ 32) t ∧ Writes c (s.plcBlock none) s t) ∧
  (∀ (c : CmdRef) (ep : Nat) (s : State),
      c.queue ≤ 256 ∧ s.epMine c ep = true →
      Completes (.plcStatus c ep true) s fun t =>
        AnsweredWith c St.ok (s.plcStatus % 2 ^ 32) t ∧ Writes c (s.plcBlock (some ep)) s t) ∧
  (∀ (c : CmdRef) (chains : Nat) (s : State),
      c.queue ≤ 256 →
      Completes (.plcNoiseRead c chains) s fun t =>
        Answered c St.ok t ∧ Writes c (([0, 1, 2, 3].filter (fun ch => bitAt chains ch)).flatMap (fun ch =>
          (List.range 960).flatMap (fun k => le 4 (State.noiseWord (s.noiseOf ch (k / 80) (k % 80)))))) s t)

/-- Reception and routing events of the power line take effect (R111, R117, R121, R122, R130, R131, R134, R135, R150, R152, R153, R155). A
window of an idle receiving chain measures the band and the noise; a preamble opens a reception at its earliest detection; a sound PHR is
kept; a codeword whose checks hold is kept; a finished frame leaves the receiver and is handed on; crossings set the zero-crossing state,
and a source gone silent is lost; an RDISC is collected and answered along the cheapest path, an RREP fills the slots, an RERR strikes
routes, a discovery ends; a TMREQ is answered by a TMRSP, a TMRSP is put in force, and a map too old is asked for again (R153, R155, R156).
-/
def Obligations.PlcReceptionCommandsComplete : Prop :=
  (∀ (w : FftWindow) (s : State),
      bitAt s.rxChains w.chain = true ∧ s.blanked = false →
      Completes (.plcSymbolReceived w) s fun t =>
        (s.regField Reg.PLC_BANDC_LBT 7 0 ≤ w.lbt → t.plc.lbtSince.get? w.chain = some (s.plc.lbtSince.getD w.chain s.nowNs)) ∧
        (bitAt s.rxBusy w.chain = false → t = ((s.lbtWindow w).seamSend .midnight 4 (le 1 w.chain)).noiseWindow w) ∧
        (bitAt s.rxBusy w.chain = false → ∀ k level, k < 80 → w.levels[k]? = some level →
          (t.noiseOf w.chain (s.segAt s.nowNs) k).peak = max (s.noiseOf w.chain (s.segAt s.nowNs) k).peak level)) ∧
  (∀ (s : State),
      Completes (.plcNoiseClear) s fun t =>
        t.plc.noise = [] ∧ t.plc.rx = s.plc.rx) ∧
  (∀ (ds : List Detection) (s : State),
      (s.combine ds).isEmpty = false ∧ s.blanked = false ∧ s.band.isNone = false →
      Completes (.plcPreambleDetect ds) s fun t =>
        t.plc.rx = s.plc.rx ++ [{ id := s.plc.nextId, chains := s.combine ds, group := (s.heardGroup ds).map (·.chain), rts := s.plcStamp, atNs := s.preambleNs }] ∧ t.plc.nextId = s.plc.nextId + 1) ∧
  (∀ (id combined : Nat) (alone : List (Nat × Nat)) (x : PlcRx) (p : Phr) (s : State),
      s.plcReceives = true ∧ s.plc.rx.find? (fun r => r.id == id && r.phr.isNone) = some x →
      phrOf combined = some p ∧ (s.poolSet p.tmap).isSome = true →
      Completes (.plcPhrDecision id combined alone) s fun t =>
        t.plc.rx = s.plc.rx.filter (fun r => r.id != x.id) ++ [{ x with group := [], phr := some p, phrNs := s.nowNs }]) ∧
  (∀ (id first : Nat) (w : List Word) (x : PlcRx) (p : Phr) (s : State),
      s.plcReceives = true ∧ s.plc.rx.find? (fun r => r.id == id) = some x ∧ x.phr = some p ∧ ldpcOk p.rate w = true →
      Completes (.plcCodewordDecode id first [w]) s fun t =>
        t.plc.rx = s.plc.rx.map (fun r => if r.id == id then { x with words := x.words.put first (columnBits w) } else r)) ∧
  (∀ (id lq : Nat) (est : List ChanEst) (x : PlcRx) (p : Phr) (s : State),
      s.plcReceives = true ∧ s.plc.rx.find? (fun r => r.id == id) = some x ∧ x.phr = some p ∧ x.failed = false ∧ p.ncw ≤ x.words.length ∧ x.chains.length < 2 →
      Completes (.plcFrameHandoff id lq est) s fun t =>
        t = State.handoff x p lq est (s.setPlc (fun q => { q with rx := q.rx.filter (fun r => r.id != id) }))) ∧
  (∀ (channel timeNs : Nat) (valid : Bool) (s : State),
      s.plcReceives = true →
      Completes (.zcMetCrossing channel timeNs valid) s fun t =>
        t.plc.zc.chanLast.get? channel = some timeNs ∧ bitAt t.plc.zc.chanValid channel = valid ∧
        (valid = true → channel = s.zcRef → s.plcSending = false → s.plc.zc.source = 0 → s.plc.zc.pending = none →
          t.plc.zc.source = 1 ∧ t.plc.zc.last = timeNs)) ∧
  (∀ (timeNs : Nat) (s : State),
      s.plcReceives = true →
      Completes (.zcCoarseCrossing timeNs) s fun t =>
        t.plc.zc.coarseLast = timeNs ∧ t.plc.zc.coarseValid = (decide (15385000 ≤ timeNs - s.plc.zc.coarseLast) && decide (timeNs - s.plc.zc.coarseLast ≤ 22222222))) ∧
  (∀ (s : State),
      s.zcSilent = true ∧ s.plcSending = false →
      Completes (.zcSourceLoss) s fun t =>
        t.plc.zc.source = s.zcNext) ∧
  (∀ (s : State),
      s.zcSilent = true ∧ s.plcSending = true →
      Completes (.zcSourceLoss) s fun t =>
        t.plc.zc.pending = some s.zcNext ∧ t.plc.zc.source = s.plc.zc.source) ∧
  (∀ (f : RxFrame) (u : State) (s : State),
      s.takeInbox 5 = some (f, u) ∧
        u.plc.answered.any (fun a => a.1 == (plcLinkOf f.bytes).src && a.2.1 == leAt (plcLinkOf f.bytes).body 0 2 && decide (u.nowSec < a.2.2 + 60)) = false →
      Completes (.rdiscReceived) s fun t =>
        t.plc.inbox = u.plc.inbox ∧
        t.plc.collects.any (fun c => c.src == (plcLinkOf f.bytes).src && c.rdiscId == leAt (plcLinkOf f.bytes).body 0 2) = true) ∧
  (∀ (src rdiscId : Nat) (c : Collect) (best : RdiscCopy) (s : State),
      s.plc.collects.find? (fun c => c.src == src && c.rdiscId == rdiscId) = some c ∧ State.bestCopy c.penalty c.copies = some best →
      Completes (.rdiscCollectEnd src rdiscId) s fun t =>
        t.plc.collects = s.plc.collects.erase c ∧
        ∃ y ∈ t.plc.sends, y.typ = 6 ∧ y.dst = src ∧ y.back = some (best.entries.map Prod.fst).reverse) ∧
  (∀ (f : RxFrame) (u : State) (i : Nat) (x : Ctx) (d : Disc) (s : State),
      s.takeInbox 6 = some (f, u) →
      u.epOf (plcLinkOf f.bytes).src = some (i, x) ∧ u.epAt i = some x ∧ u.plc.discs.get? i = some d ∧
        d.rdiscId = leAt (plcLinkOf f.bytes).body 0 2 ∧ byteAt (plcLinkOf f.bytes).body 2 = 0 →
      Completes (.rrepReceived) s fun t =>
        t.plc.inbox = u.plc.inbox ∧
        (t.ctx i).slots = State.fillSlots x (u.byCost (plcLinkOf f.bytes).src { relays := [], rest := 0, valid := true } d.found)) ∧
  (∀ (ep : Nat) (s : State),
      s.plc.discs.has ep = true →
      Completes (.rrepWaitExpiry ep) s fun t =>
        t.plc.discs = s.plc.discs.del ep ∧ ∀ y ∈ t.plc.sends, ¬ (y.phase = .discover ∧ y.ep = some ep)) ∧
  (∀ (f : RxFrame) (u : State) (i : Nat) (x : Ctx) (s : State),
      s.takeInbox 7 = some (f, u) ∧ u.epOf (leAt (plcLinkOf f.bytes).body 16 8) = some (i, x) →
      Completes (.rerrReceived) s fun t =>
        t.plc.inbox = u.plc.inbox ∧
        (t.ctx i).slots = x.slots.map (fun r =>
          if State.hasLink u.plc.cfg.netEui x.eui (leAt (plcLinkOf f.bytes).body 0 8) (leAt (plcLinkOf f.bytes).body 8 8) r then { r with valid := false } else r)) ∧
  (∀ (f : RxFrame) (u : State) (i : Nat) (x : Ctx) (s : State),
      s.takeInbox 2 = some (f, u) ∧ u.epOf (plcLinkOf f.bytes).src = some (i, x) ∧ u.epAt i = some x →
      u.plc.cfg.tmapEn = true ∧ (u.nbr x.eui).tmrsp.all (fun t0 => decide (t0 + 600 ≤ u.nowSec)) = true →
      Completes (.tmreqReceived) s fun t =>
        ∃ y ∈ t.plc.sends, y.typ = 3 ∧ y.dst = x.eui ∧
          y.body = le 2 (t.ctx i).rxHandle ++ (t.poolSet (t.ctx i).rxHandle).getD robonSet) ∧
  (∀ (f : RxFrame) (u : State) (i n : Nat) (x : Ctx) (s : State),
      s.takeInbox 3 = some (f, u) ∧ u.epOf (plcLinkOf f.bytes).src = some (i, x) ∧ u.epAt i = some x →
      (u.nbr x.eui).pinned = false ∧ setBad (slice (plcLinkOf f.bytes).body 2 384) = false ∧ (slice (plcLinkOf f.bytes).body 2 384).length = 384 ∧
        u.txSlot x = some n →
      Completes (.tmrspReceived) s fun t =>
        t.plc.pool.get? n = some (slice (plcLinkOf f.bytes).body 2 384) ∧ (t.ctx i).txSet = n ∧ (t.ctx i).txHandle = leAt (plcLinkOf f.bytes).body 0 2) ∧
  (∀ (ep : Nat) (x : Ctx) (s : State),
      s.epAt ep = some x ∧ (s.epOf x.eui).isSome = true ∧ s.plc.cfg.tmapEn = true ∧ (s.nbr x.eui).tmreq.all (fun t0 => decide (t0 + 600 ≤ s.nowSec)) = true →
      (x.txSet = 0 ∨ (s.plc.cfg.tmapAge ≠ 0 ∧ x.mapStamp + 3600 * s.plc.cfg.tmapAge < s.nowSec) ∨ (s.nbr x.eui).failedSend = true) →
      Completes (.tmapAgeExpiry ep) s fun t =>
        ∃ y ∈ t.plc.sends, y.typ = 2 ∧ y.dst = x.eui)

/-- Port, reception and transmission events of the radio take effect (R163, R164, R167, R168, R169, R170, R171, R172, R173, R174, R176). A
lost clock or a wrong framing pattern ends what the port receives and sends, a return or 16 correct words bring it back; a detection, a PHR
and a frame's end move the demodulator; the AGC follows clipping and quiet blocks; a channel is jammed or cleared once; the duty buckets
roll; a fired launch of a permitted frame goes on the air and its end frees the channel. -/
def Obligations.RadioPortCommandsComplete : Prop :=
  (∀ (port : Nat) (s : State),
      port < 2 ∧ (s.rfPort port).clk = true →
      Completes (.rfClockLoss port) s fun t =>
        (t.rfPort port).clk = false ∧ t.rfx.rx = s.rfx.rx.filter (fun r => r.port != port)) ∧
  (∀ (port : Nat) (s : State),
      port < 2 ∧ (s.rfPort port).clk = false ∧ s.shut (21 + port) = false →
      Completes (.rfClockReturn port) s fun t =>
        (t.rfPort port).clk = true ∧ t.rfx.rx = s.rfx.rx) ∧
  (∀ (w : FramingIn) (s : State),
      w.port < 2 ∧ (s.rfPort w.port).framed = true ∧ (framedWord w.edges = false ∨ w.fifo = true) →
      Completes (.rfFramingLoss w) s fun t =>
        (t.rfPort w.port).framed = false ∧ t.rfx.rx = s.rfx.rx.filter (fun r => r.port != w.port)) ∧
  (∀ (w : FramingIn) (s : State),
      w.port < 2 ∧ (s.rfPort w.port).framed = false ∧ s.shut (21 + w.port) = false ∧ framedWords 16 w.edges = true ∧ w.fifo = false →
      Completes (.rfFramingRestore w) s fun t =>
        (t.rfPort w.port).framed = true ∧ t.rfx.rx = s.rfx.rx) ∧
  (∀ (d : SyncIn) (s : State),
      d.port < 2 ∧ d.ch < 128 ∧ s.rxOn d.port = true ∧ s.rfBlanked d.port d.ch = false →
      16 ≤ d.preamble ∧ d.errors ≤ field (s.regI Reg.RFX_SYNC_CFG d.port) 1 0 ∧ d.cfo.natAbs ≤ 300 →
      s.isSpill d = false ∧ s.rfx.rx.find? (fun r => r.port == d.port && r.ch == d.ch) = none ∧ s.demodFree d.port = true →
      Completes (.rfSyncDetect d) s fun t =>
        t.rfx.rx = s.rfx.rx ++ [{ id := s.rfx.nextId, port := d.port, ch := d.ch, rate := d.rate, rts := s.rfStamp d, rssi := s.rssiOf d, cfo := d.cfo, overload := (s.rfPort d.port).overload != 0 }] ∧
        t.rfx.nextId = s.rfx.nextId + 1 ∧ t.rfx.lastSync.get? (d.port * 128 + d.ch) = some s.nowNs) ∧
  (∀ (id w : Nat) (x : RfRx) (p : Nat × Bool) (s : State),
      s.begun 5 = true ∧ s.rfx.rx.find? (fun r => r.id == id) = some x ∧ rfPhrOf w x.rate x.ch = some p →
      Completes (.rfPhrDecision id w) s fun t =>
        t.rfx.rx = s.rfx.rx.map (fun y => if y.id == id then { y with phr := some p } else y)) ∧
  (∀ (id w : Nat) (x : RfRx) (s : State),
      s.begun 5 = true ∧ s.rfx.rx.find? (fun r => r.id == id) = some x ∧ rfPhrOf w x.rate x.ch = none →
      Completes (.rfPhrDecision id w) s fun t =>
        t.rfx.rx = s.rfx.rx.erase x) ∧
  (∀ (id len : Nat) (w : Bool) (psdu b : Bytes) (x : RfRx) (s : State),
      s.begun 5 = true ∧ s.rfx.rx.find? (fun r => r.id == id) = some x ∧ x.phr = some (len, w) →
      b = (if w = true then whiten (fit len psdu) else fit len psdu) →
      Completes (.rfFrameEnd id psdu) s fun t =>
        t.rfx.rx = s.rfx.rx.erase x ∧
        t.msh.inbox = s.msh.inbox ++ [{ path := 1 + x.port, radio := true, bytes := b, rts := x.rts, chans := x.ch, lq := x.rssi, overload := x.overload || (s.rfPort x.port).overload != 0, zcFallback := false, ie := s.dev.nc, endNs := s.nowNs - (40224 + 4 * bitNs x.rate), fcsBad := fcsFails b, rate := x.rate, cfo := x.cfo }]) ∧
  (∀ (port below : Nat) (block : List PortEdge) (s : State),
      port < 2 ∧ s.rxOn port = true ∧ bitAt (s.regI Reg.RFX_PORT_CTRL port) 3 = true →
      max 1 (field (s.regI Reg.RFX_AGC_CFG port) 7 0) ≤ clippedIn block →
      Completes (.rfAgcBlock port block below) s fun t =>
        (t.rfPort port).gain = min (field (s.regI Reg.RFX_RX_GAIN_REF port) 18 16) ((s.rfPort port).gain + 1) ∧
        (t.rfPort port).quietBlocks = 0 ∧ (t.rfPort port).clipped = clippedIn block) ∧
  (∀ (port below : Nat) (block : List PortEdge) (s : State),
      port < 2 ∧ s.rxOn port = true ∧ bitAt (s.regI Reg.RFX_PORT_CTRL port) 3 = true →
      clippedIn block < max 1 (field (s.regI Reg.RFX_AGC_CFG port) 7 0) ∧ field (s.regI Reg.RFX_RX_GAIN_REF port) 15 12 + 6 < below →
      4 * field (s.regI Reg.RFX_AGC_CFG port) 15 8 ≤ (s.rfPort port).quietBlocks + 1 →
      Completes (.rfAgcBlock port block below) s fun t =>
        (t.rfPort port).gain = (s.rfPort port).gain - 1 ∧ (t.rfPort port).quietBlocks = 0 ∧ (t.rfPort port).clipped = clippedIn block) ∧
  (∀ (port below : Nat) (block : List PortEdge) (s : State),
      port < 2 ∧ s.rxOn port = true ∧ bitAt (s.regI Reg.RFX_PORT_CTRL port) 3 = false →
      Completes (.rfAgcBlock port block below) s fun t =>
        (t.rfPort port).gain = field (s.regI Reg.RFX_PORT_CTRL port) 18 16) ∧
  (∀ (port : Nat) (j : JamIn) (s : State),
      port < 2 ∧ j.ch < 128 ∧ (s.rfPort port).jammed.contains j.ch = false →
      j.below < field (s.regI Reg.RFX_JAM_CFG port) 7 0 ∧ field (s.regI Reg.RFX_JAM_CFG port) 31 16 ≤ j.ms →
      (s.rfx.lastSync.get? (port * 128 + j.ch)).all (fun t0 => decide (t0 + field (s.regI Reg.RFX_JAM_CFG port) 31 16 * 1000000 ≤ s.nowNs)) = true →
      Completes (.rfJamStart port j) s fun t =>
        (t.rfPort port).jammed = j.ch :: (s.rfPort port).jammed ∧ t.rfx.rx = s.rfx.rx) ∧
  (∀ (port : Nat) (j : JamIn) (s : State),
      (s.rfPort port).jammed.contains j.ch = true ∧ field (s.regI Reg.RFX_JAM_CFG port) 7 0 < j.below ∧ 100 ≤ j.ms →
      Completes (.rfJamClear port j) s fun t =>
        (t.rfPort port).jammed = (s.rfPort port).jammed.erase j.ch) ∧
  (∀ (s : State),
      Completes (.dutyBucketRoll) s fun t =>
        t.rfx.buckets = s.rfx.buckets.mapVals (fun _ l => State.rollBuckets l) ∧ t.rfx.chanTime = s.rfx.chanTime.mapVals (fun _ l => State.rollBuckets l) ∧
        t.rfx.tx = s.rfx.tx.map (fun x => { x with age := x.age + 1 })) ∧
  (∀ (e : Launch) (port : Nat) (h : Ctx) (u : State) (x : MshSend) (s : State),
      s.takeFiredRf = some (e, u) ∧ u.mshSendOf e.ref = some x ∧ h = u.hopCtx x ∧ x.typ ≠ 3 →
      (x.phase = .ready ∨ x.phase = .retry ∧ x.retryAsn ≤ e.instant / 1000000) →
      port = (if e.lane ≤ 4 then 0 else 1) ∧ port = h.homePort ∧ u.openSend x = true →
      (x.stated = true → x.at' = some (e.instant + u.syncLead port x.rate) ∧ u.timeValid = true) →
      u.framePermits port h.homeCh false none e.instant (e.instant + u.airNs port (u.attemptLen x) x.rate) = true →
      canSend u x port h.homeCh x.rate e.instant = true →
      Completes (.rfTxLaunch) s fun t =>
        OnAir x.id port h.homeCh t ∧ t.tim.fired = s.tim.fired.erase e) ∧
  (∀ (port slot : Nat) (x : RfTx) (s : State),
      s.rfx.tx.find? (fun y => y.port == port && y.slot == slot) = some x →
      Completes (.rfTxEnd port slot) s fun t =>
        t.rfx.tx = s.rfx.tx.erase x)

/-- Frames, acknowledgements, copies and timers of the mesh take effect (R180, R181, R182, R183, R187, R199, R200, R202, R205, R206, R208,
R443). A permitted beacon, acknowledgement, retry, piggyback, night or flood frame goes on the air at its instant; a received frame that
passes the link checks goes to FSE and owes its ACK; an ACK ends the send it answers; a missing one makes the send retry, or end; caches,
slot maps and collectors follow their rules, and a launch is queued in its order. -/
def Obligations.MeshEventCommandsComplete : Prop :=
  (∀ (port : Nat) (w : BeaconCfg) (edge : Nat) (q : Bytes × Nat) (u v s : State),
      port < 2 ∧ s.shut 41 = false ∧ edge = (s.nowNs / 1024000000 + 1) * 1024000000 ∧ w = s.beaconAt edge ∧ w.en = true ∧ bitAt w.ports port = true →
      s.dueAt (1 + 4 * port) (edge - s.syncLead port w.rate) = true ∧ inBinRuns (edge / 1024000000) (s.msh.beaconed.getD port []) = false →
      s.permits = true ∧ s.timeValid = true ∧ s.msh.restored = true ∧ u = s.takeBeaconCfg edge →
      s.rfRefusal port (if port = 0 then w.chA else w.chB) w.rate (34 + (u.beaconBody w (edge / 1024000000)).length) (edge - s.syncLead port w.rate) = none →
      u.bcastPsdu { id := 0, typ := 2, dst := State.beaconDst, sealedBody := u.beaconBody w (edge / 1024000000) } = (some (.inr q), v) →
      Completes (.mshBeaconSend port) s fun t =>
        t.msh.beaconed.get? port = some (addBinRun (edge / 1024000000) (s.msh.beaconed.getD port [])) ∧
        OnAir s.msh.nextId port (if port = 0 then w.chA else w.chB) t ∧ t.msh.nextId = s.msh.nextId + 1) ∧
  (∀ (f : RxFrame) (u s : State),
      s.begun 5 = true ∧ s.takeMshInbox true = some (f, u) ∧ mshLinkFail f.bytes (u.regBit Reg.MSH_CTRL 0) u.msh.cfg.netId = none →
      Completes (.mshBeaconHeard) s fun t =>
        t.msh.inbox = s.msh.inbox.erase f ∧
        t.fse.offered = s.fse.offered ++ (if (mshLinkOf f.bytes).src ≠ s.msh.cfg.netEui ∧ (mshLinkOf f.bytes).hauth = true then [f] else [])) ∧
  (∀ (f : RxFrame) (u s : State),
      s.begun 5 = true ∧ s.takeMshInbox false = some (f, u) ∧ mshLinkFail f.bytes (u.regBit Reg.MSH_CTRL 0) u.msh.cfg.netId = none →
      (mshLinkOf f.bytes).typ = 0 ∧ (mshLinkOf f.bytes).dst = u.msh.cfg.netEui →
      Completes (.mshFrameReceived) s fun t =>
        t.fse.offered = s.fse.offered ++ [f] ∧ t.msh.inbox = s.msh.inbox.erase f ∧
        t.msh.acks = s.msh.acks ++ (if (mshLinkOf f.bytes).ackreq = true ∧ (mshLinkOf f.bytes).hopDst = u.msh.cfg.netEui then
          [{ dst := (mshLinkOf f.bytes).hopSrc, nseq := (mshLinkOf f.bytes).nseq, rts := f.rts, lq := f.lq, port := f.path - 1, ch := f.chans, rate := f.rate, instant := f.endNs + 1000000 }] else [])) ∧
  (∀ (a : MshAck) (i : Nat) (c : Ctx) (k : KeySnap) (n : Nat) (u v s : State),
      s.msh.acks.find? (fun a => decide (State.ackLaunch a ≤ s.rfSoon a.port)) = some a ∧ a.refused = false ∧ a.status.isSome = true ∧ a.late = false ∧ s.permits = true →
      u = s.setMsh (fun m => { m with acks := m.acks.erase a }) ∧ s.dueAt (1 + 4 * a.port) (State.ackLaunch a) = true →
      u.ackSlotOk a.port a.ch (State.ackLaunch a) (u.ackLast a + 8000) = true ∧ u.rfRefusal a.port a.ch a.rate 46 (State.ackLaunch a) = none →
      u.epOf a.dst = some (i, c) ∧ u.tagKeyOut (some c) = (.ok k, v) ∧ (v.drawNseq i).1 = some n →
      Completes (.mshAckSend) s fun t =>
        t.msh.acks = s.msh.acks.erase a ∧ OnAir s.msh.nextId a.port a.ch t ∧ t.msh.nextId = s.msh.nextId + 1) ∧
  (∀ (f : RxFrame) (rest : List RxFrame) (x : MshSend) (c : CmdRef) (s : State),
      s.msh.ackbox = f :: rest ∧ s.msh.sends.find? (fun y => s.ackMatches f y) = some x →
      s.msh.sends.find? (fun y => y.id == x.id) = some x →
      x.cmd = some c ∧ c.queue ≤ 256 ∧ x.typ = 0 →
      Completes (.mshAckReceived) s fun t =>
        AnsweredWith c St.ok ((x.attempts % 256 + x.port * 2 ^ 8 + x.ch * 2 ^ 9) % 2 ^ 32) t ∧
        t.msh.ackbox = rest ∧ t.msh.sends = s.msh.sends.filter (fun y => y.id != x.id)) ∧
  (∀ (id : Nat) (x : MshSend) (s : State),
      s.mshSendOf id = some x ∧ x.phase = .await ∧ x.endNs - 8000 + 1100000 < s.nowNs ∧ s.ackComing x = false ∧ x.attempts ≤ s.msh.cfg.retryMax →
      (x.when' ≠ 1 ∨ x.ep.any s.msh.nights.has = true) →
      Completes (.mshAckTimeout id) s fun t =>
        t.msh.sends = s.msh.sends.map (fun y => if y.id == x.id then { y with phase := .retry, retryAsn := s.asn + 1 + s.drawFree % 2 ^ x.attempts } else y)) ∧
  (∀ (id : Nat) (x : MshSend) (c : CmdRef) (s : State),
      s.mshSendOf id = some x ∧ x.phase = .await ∧ x.endNs - 8000 + 1100000 < s.nowNs ∧ s.ackComing x = false ∧ s.msh.cfg.retryMax < x.attempts →
      (x.when' ≠ 1 ∨ x.ep.any s.msh.nights.has = true) →
      x.cmd = some c ∧ c.queue ≤ 256 →
      Completes (.mshAckTimeout id) s fun t =>
        Answered c 0x0611 t ∧ t.msh.sends = s.msh.sends.filter (fun y => y.id != id)) ∧
  (∀ (id : Nat) (c : CmdRef) (x : MshSend) (s : State),
      s.mshSendOf id = some x ∧ x.phase = .await ∧ x.endNs - 8000 + 1100000 < s.nowNs ∧ s.ackComing x = false →
      x.when' = 1 ∧ x.ep.any s.msh.nights.has = false ∧ x.cmd = some c ∧ c.queue ≤ 256 →
      Completes (.mshAckTimeout id) s fun t =>
        Answered c 0x0610 t ∧ t.msh.sends = s.msh.sends.filter (fun y => y.id != id)) ∧
  (∀ (id : Nat) (h : Ctx) (x : MshSend) (s : State),
      s.mshSendOf id = some x ∧ h = s.hopCtx x ∧ x.phase = .retry ∧ s.openSend x = true →
      x.retryAsn ≤ s.rfSoon h.homePort / 1000000 →
      s.framePermits h.homePort h.homeCh false none (s.rfSoon h.homePort) (s.rfSoon h.homePort + s.airNs h.homePort (s.attemptLen x) x.rate) = true →
      canSend s x h.homePort h.homeCh x.rate (s.rfSoon h.homePort) = true →
      Completes (.mshRetryOpportunity id) s fun t =>
        OnAir x.id h.homePort h.homeCh t) ∧
  (∀ (p : Piggy) (w : Nat × Nat) (x : MshSend) (u s : State),
      s.msh.piggy.find? (fun p => decide (p.instant - 8000 ≤ s.rfSoon p.port)) = some p ∧ u = s.setMsh (fun m => { m with piggy := m.piggy.erase p }) →
      u.mshSendOf p.send = some x ∧ (x.phase = .ready ∨ x.phase = .retry) ∧ w = u.piggySpan x p.port p.rate p.instant ∧ u.ackSlotOk p.port p.ch w.1 w.2 = true →
      u.dueAt (1 + 4 * p.port) w.1 = true ∧ canSend u x p.port p.ch p.rate w.1 = true →
      Completes (.piggybackSend) s fun t =>
        OnAir x.id p.port p.ch t ∧ t.msh.piggy = s.msh.piggy.erase p) ∧
  (∀ (endpoint lead slot start : Nat) (n : Night) (x : MshSend) (s : State),
      s.msh.nights.get? endpoint = some n ∧ n.active = true ∧ lead = s.syncLead n.port n.rate ∧ slot = (s.rfSoon n.port + lead) / 1000000 ∧ start = slot * 1000000 - lead →
      State.nightIn n slot = true ∧ s.dueAt (1 + 4 * n.port) start = true ∧ s.guardWide endpoint n = false ∧ s.timeValid = true →
      s.nightSend n.port n.ch slot = some x ∧ x.ep = some endpoint →
      s.framePermits n.port n.ch false (some n) start (start + s.airNs n.port (s.attemptLen x) n.rate) = true ∧ canSend s x n.port n.ch n.rate start = true →
      Completes (.nightSlotOccurrence endpoint) s fun t =>
        OnAir x.id n.port n.ch t) ∧
  (∀ (id port ch rate start : Nat) (x : MshSend) (q : Bytes × Nat) (v s : State),
      s.mshSendOf id = some x ∧ x.typ = 3 ∧ s.rfx.tx.any (fun y => y.ref == x.id && y.port == port) = false ∧ bitAt x.ports port = true →
      ch = (if port = 0 then (s.beaconAt s.intervalNs).chA else (s.beaconAt s.intervalNs).chB) →
      x.sent.getD port 0 < x.repeats ∧ (x.sec = true → x.sealed = true) ∧ s.permits = true →
      rate = (s.beaconAt s.intervalNs).rate ∧ start = s.rfSoon port ∧ s.runOver x port (start / 1000000) = true →
      s.framePermits port ch true none start (start + s.airNs port (mshLen 0 true x.body.length x.miclen) rate) = true →
      s.rfRefusal port ch rate (mshLen 0 true x.body.length x.miclen) start = none →
      s.bcastPsdu x = (some (.inr q), v) ∧ q.1.length = mshLen 0 true x.body.length x.miclen →
      Completes (.floodCopySend id port) s fun t =>
        OnAir x.id port ch t ∧ ∀ y ∈ t.msh.sends, y.id = x.id → y.phase = .onAir) ∧
  (∀ (s : State),
      Completes (.seenCacheExpiry) s fun t =>
        t.msh.seen = s.msh.seen.filter (fun e => decide (s.nowNs < e.2.2 + 60000000000))) ∧
  (∀ (b : Bytes) (first : Nat) (s : State),
      s.msh.mapNext = some (b, first) ∧ first ≤ State.binOf s.asn →
      Completes (.mapApply) s fun t =>
        t.msh.map = b ∧ t.msh.mapNext = none ∧ t.msh.mapVersion = (s.msh.mapVersion + 1) % 65536) ∧
  (∀ (e a p eui i : Nat) (b : Bytes) (x : Ctx) (s : State),
      s.ethUp e = true ∧ s.shut 41 = false ∧ s.regBit Reg.MSH_CTRL 2 = true ∧ 24 ≤ b.length ∧ byteAt b 0 = 1 ∧ leAt b 2 2 = b.length - 24 →
      (byteAt b 1 = 0 ∨ (byteAt b 1 = 2 ∧ b.length = 24)) ∧ byteAt b 12 < 2 ∧ byteAt b 15 = 0 →
      eui = leAt b 4 8 ∧ s.epOf eui = some (i, x) ∧ x.kind = 6 →
      Completes (.atDatagramReceived ⟨e, a, p, s.regField Reg.MSH_AT_CFG 15 0, b⟩) s fun t =>
        t.msh.collectors.get? eui = some { last := s.nowNs, eth := e, address := a, port := p }) ∧
  (∀ (collector : Nat) (c : Collector) (s : State),
      s.msh.collectors.get? collector = some c ∧ c.down = false ∧ c.last + max 1 (s.regField Reg.MSH_AT_CFG 23 16) * 1000000000 ≤ s.nowNs →
      Completes (.atCollectorDown collector) s fun t =>
        t.msh.collectors.get? collector = some { c with down := true }) ∧
  (∀ (id at' : Nat) (x : MshSend) (c : CmdRef) (s : State),
      s.mshSendOf id = some x ∧ x.expire = some at' ∧ x.started = false ∧ at' ≤ s.nowNs ∧ x.cmd = some c ∧ c.queue ≤ 256 ∧ x.typ = 0 →
      Completes (.mshSendExpired id) s fun t =>
        AnsweredWith c 0x0616 ((x.attempts % 256 + x.port * 2 ^ 8 + x.ch * 2 ^ 9) % 2 ^ 32) t ∧
        t.msh.sends = s.msh.sends.filter (fun y => y.id != id)) ∧
  (∀ (lane instant owner ref : Nat) (s : State),
      s.nowNs + 1000 ≤ instant ∧ s.tim.queue.length < 256 →
      Completes (.launchInsert lane instant owner ref) s fun t =>
        t.tim.queue = putLaunch ⟨s.tim.nextLaunch, lane, instant, owner, ref⟩ s.tim.queue ∧ t.tim.nextLaunch = s.tim.nextLaunch + 1)

/-- Every host command of the mesh takes effect and is answered (R182, R197, R201, R202, R205, R209, R210). MSH.CONFIG sets the network and
stages the map; assignments and night agreements are added and removed, each with its MAC command queued to the endpoint; MSH.SEND and
MSH.FLOOD queue their frame; MSH.BEACON_SET stages the beacon 2 ms on; MSH.STATUS answers with the flags and the 64-byte block. -/
def Obligations.MeshHostCommandsComplete : Prop :=
  (∀ (c : CmdRef) (p : MshCfgIn) (s : State),
      c.queue ≤ 256 ∧ s.dataHeld c = false ∧ State.mshCfgOk p = true ∧ s.locked 6 = false →
      Completes (.mshConfig c p) s fun t =>
        Answered c St.ok t ∧ t.msh.cfg.netEui = p.netEui ∧ t.msh.cfg.netId = p.netId ∧ t.msh.cfg.beaconSlots = p.beaconSlots ∧
        t.msh.cfg.retryMax = p.retryMax ∧ t.msh.cfg.guardMax = p.guardMax ∧ t.msh.cfg.concGroup = p.concGroup ∧ t.msh.cfg.hopKeyref = p.hopKeyref ∧ t.msh.cfg.hopInst = c.inst ∧
        (p.k ≠ s.kAt (binOf s.asn) → t.msh.kNext = some (p.k, (binOf s.asn / 64 + 1) * 64)) ∧ (∀ b, p.map = some b → t.msh.mapNext = some (b, s.nextSuper))) ∧
  (∀ (c : CmdRef) (p : MshCfgIn) (s : State),
      c.queue ≤ 256 ∧ s.dataHeld c = false ∧ State.mshCfgOk p = true ∧ s.locked 6 = true →
      Completes (.mshConfig c p) s fun t =>
        Answered c St.lockedReg t ∧ t.msh = s.msh ∧ t.reg Reg.MSH_CTRL = s.reg Reg.MSH_CTRL) ∧
  (∀ (c : CmdRef) (p : SlotIn) (id : Nat) (s : State),
      c.queue ≤ 256 ∧ s.slotOk p p.span = true ∧ s.epMine c p.endpoint = true ∧ s.freeAssign p.endpoint = some id →
      s.msh.assigns.length < 262144 →
      (p.kind ≠ 2 → p.slot + p.span ≤ 1024 ∧ s.runHas 0 p.p p.phase p.slot p.span = true ∧
        s.msh.assigns.any (fun b => b.kind != 2 && State.runsConflict ⟨id, p.endpoint, p.kind, p.port, p.ch, p.rate, p.p, p.slot, p.phase, p.span⟩ b) = false) →
      Completes (.mshSlotAdd c p) s fun t =>
        AnsweredWith c St.ok (id % 2 ^ 32) t ∧
        t.msh.assigns = s.msh.assigns ++ [⟨id, p.endpoint, p.kind, p.port, p.ch, p.rate, p.p, p.slot, p.phase, p.span⟩] ∧
        t.msh.nextId = s.msh.nextId + 1) ∧
  (∀ (c : CmdRef) (endpoint assignment : Nat) (s : State),
      c.queue ≤ 256 ∧ s.epMine c endpoint = true ∧ s.msh.assigns.any (fun a => a.ep == endpoint && a.id == assignment) = true →
      Completes (.mshSlotRemove c endpoint assignment) s fun t =>
        AnsweredWith c St.ok (assignment % 2 ^ 32) t ∧
        t.msh.assigns = s.msh.assigns.filter (fun a => !(a.ep == endpoint && a.id == assignment)) ∧ t.msh.nextId = s.msh.nextId + 1) ∧
  (∀ (c : CmdRef) (endpoint : Nat) (s : State),
      c.queue ≤ 256 ∧ s.epMine c endpoint = true →
      Completes (.mshSlotRemoveAll c endpoint) s fun t =>
        AnsweredWith c St.ok 0xFFFF t ∧ t.msh.assigns = s.msh.assigns.filter (fun a => a.ep != endpoint) ∧ t.msh.nextId = s.msh.nextId + 1) ∧
  (∀ (c : CmdRef) (p : SlotIn) (s : State),
      c.queue ≤ 256 ∧ s.slotOk { p with kind := 0 } 1 = true ∧ 1 ≤ p.span ∧ p.span ≤ 255 ∧ s.epMine c p.endpoint = true →
      s.msh.nights.length < 2097152 ∧ s.runHas 2 p.p p.phase p.slot 1 = true →
      Completes (.mshNightslotSet c p) s fun t =>
        Answered c St.ok t ∧ t.msh.nights.get? p.endpoint = some ⟨p.port, p.ch, p.rate, p.p, p.slot, p.phase, p.span, false, false, s.msh.nextId⟩ ∧
        t.msh.nextId = s.msh.nextId + 1) ∧
  (∀ (c : CmdRef) (endpoint : Nat) (s : State),
      c.queue ≤ 256 ∧ s.epMine c endpoint = true ∧ s.msh.nights.has endpoint = true →
      Completes (.mshNightslotClear c endpoint) s fun t =>
        Answered c St.ok t ∧ t.msh.nights = s.msh.nights.del endpoint ∧ t.msh.nextId = s.msh.nextId + 1) ∧
  (∀ (c : CmdRef) (p : MshSendIn) (y x : MshSend) (h : Ctx) (s : State),
      c.queue ≤ 256 ∧ s.dataHeld c = false ∧ s.dev.state = .day ∧ secOk p.sec p.miclen = true ∧ p.when' ≤ 3 ∧ p.rate ≤ 3 ∧ (p.tunnel = false ∨ p.sec = true) →
      s.epMine c p.endpoint = true ∧ s.shut 41 = false ∧ s.msh.sends.length < 65536 →
      (s.msh.sends.filter (fun y => y.ep == some p.endpoint)).length < 8 →
      mshLen (downRelays (s.ctx p.endpoint)) p.sec p.payload.length p.miclen ≤ 2047 →
      (p.tunnel = true → s.collectorDown (s.ctx (s.ctx p.endpoint).lastCollector).eui = false) ∧ (p.when' = 1 → s.msh.nights.has p.endpoint = true) →
      (p.when' = 3 → stampBad p.launchAt = false ∧ s.nowNs + 300000 ≤ State.nsOf p.launchAt ∧
        s.framePermits h.homePort h.homeCh false none (State.nsOf p.launchAt - s.syncLead h.homePort p.rate)
          (State.nsOf p.launchAt - s.syncLead h.homePort p.rate + s.airNs h.homePort
            (mshLen (downRelays (s.ctx p.endpoint)) p.sec p.payload.length p.miclen) p.rate) = true) →
      y = { id := 0, cmd := some c, ep := some p.endpoint, dst := (s.ctx p.endpoint).eui, body := p.payload, ackreq := p.ackreq, sec := p.sec, keyref := p.keyref, miclen := p.miclen, rate := p.rate, tunnel := p.tunnel, when' := p.when', at' := if p.when' = 3 then some (State.nsOf p.launchAt) else none, expire := if p.expireS = 0 then none else some (s.nowNs + p.expireS * 1000000000) } →
      h = s.hopCtx y ∧ x = { y with id := s.msh.nextId, port := h.homePort, ch := h.homeCh } →
      Completes (.mshSend c p) s fun t =>
        AnsweredQueued c t ∧ t.msh.nextId = s.msh.nextId + 1 ∧ t.msh.sends = s.msh.sends ++ [x]) ∧
  (∀ (c : CmdRef) (p : MshFloodIn) (s : State),
      c.queue ≤ 256 ∧ s.dataHeld c = false ∧ s.dev.state = .day ∧ p.group % 2 = 1 ∧ 1 ≤ p.ttl ∧ p.ttl ≤ 15 ∧ 1 ≤ p.spread ∧ p.spread ≤ 15 ∧ 1 ≤ p.repeats ∧ p.repeats ≤ 4 →
      1 ≤ p.miclen ∧ p.miclen ≤ 2 ∧ p.ports ≤ 3 ∧ mshLen 0 true (p.payload.length + 4) p.miclen ≤ 2047 →
      s.msh.sends.length < 65536 ∧ s.msh.restored = true ∧ s.shut 41 = false ∧ s.floodPorts p.ports ≠ 0 →
      Completes (.mshFlood c p) s fun t =>
        AnsweredQueued c t ∧ t.msh.nextId = s.msh.nextId + 1 ∧ t.msh.floodId = (s.drawValue Ctr.flood 0 s.msh.floodId % 65536 + 1) % 65536 ∧
        t.msh.sends.map (fun x => (x.id, x.typ, x.dst, x.ttl, x.repeats, x.floodId)) = s.msh.sends.map (fun x => (x.id, x.typ, x.dst, x.ttl, x.repeats, x.floodId)) ++ [(s.msh.nextId, 3, p.group, p.ttl, p.repeats, s.drawValue Ctr.flood 0 s.msh.floodId % 65536)]) ∧
  (∀ (c : CmdRef) (p : BeaconIn) (s : State),
      c.queue ≤ 256 ∧ s.dataHeld c = false ∧ p.ann.length ≤ 64 ∧ p.rate ≤ 3 ∧ p.chA ≤ 127 ∧ p.chB ≤ 127 ∧ p.ports ≤ 3 ∧ s.beaconFits p.rate p.ann.length = true →
      Completes (.mshBeaconSet c p) s fun t =>
        Answered c St.ok t ∧
        t.msh.beaconNext = some ({ en := p.en, rate := p.rate, chA := p.chA, chB := p.chB, ports := p.ports, ann := p.ann, leap := p.leap }, s.nowNs + 2000000)) ∧
  (∀ (c : CmdRef) (endpoint : Nat) (s : State),
      c.queue ≤ 256 ∧ s.epMine c endpoint = true →
      Completes (.mshStatus c endpoint) s fun t =>
        AnsweredWith c St.ok (s.mshStatus % 2 ^ 32) t ∧ Writes c (s.mshBlock endpoint) s t)

/-- Intake, verdict, seal, burst buffer and coding commands take effect (R217, R219, R229, R230, R231, R232, R253, R257, R258, R269, R281,
R283). An admitted frame enters FSE's intake; an accepted frame moves the windows of its hop and its source; a seal draws its counter and
marks the send sealed; the burst buffer hands its head to ingestion; a storm opens and closes by the outage count; COD codes the record at
its input and closes the streams named. -/
def Obligations.FrameSecurityCommandsComplete : Prop :=
  (∀ (f : RxFrame) (rest : List RxFrame) (s : State),
      s.begun 5 = true ∧ s.fse.offered = f :: rest ∧ (s.dev.role ≠ .standby ∨ f.shadow = true) ∧ s.intakeFull = false →
      (State.gated f = true → f.shadow = true ∨ s.gateOpen f.path = true) →
      Completes (.fseIntake) s fun t =>
        t.fse.offered = rest ∧ t.fse.intake.map (·.frame) = s.fse.intake.map (·.frame) ++ [f]) ∧
  (∀ (k waitNc i g : Nat) (sameCycle : Bool) (f : FseFrame) (p : Option Bytes) (a b u s : State),
      s.begun 5 = true ∧ s.fse.intake[k]? = some f ∧ a = s.setFse (fun q => { q with intake := q.intake.erase f }) →
      b = (if sameCycle = true then a.bump Reg.FSE_SAME_CYCLE else a) →
      u = (if waitNc = 0 then b else (b.bump Reg.FSE_MISS_WAIT).maxReg Reg.FSE_MAX_WAIT_NC waitNc) →
      u.verdictOf f = (⟨0, 0⟩, p) ∧ f.frame.radio = true ∧ (mshLinkOf f.frame.bytes).typ = 1 ∧ f.frame.fcsBad = false ∧ f.hop = some (i, g) →
      Completes (.fseVerdictRelease k sameCycle waitNc) s fun t =>
        t.fse.intake = s.fse.intake.erase f ∧ t.msh.ackbox = s.msh.ackbox ++ [f.frame] ∧
        (t.ctx i).nseqH = (winTake (s.ctx i).nseqH (s.ctx i).nseqMap (mshLinkOf f.frame.bytes).nseq).1 ∧ (t.ctx i).nseqMap = (winTake (s.ctx i).nseqH (s.ctx i).nseqMap (mshLinkOf f.frame.bytes).nseq).2) ∧
  (∀ (k waitNc i g : Nat) (sameCycle : Bool) (f : FseFrame) (p : Bytes) (y : KeySnap) (a b u s : State),
      s.begun 5 = true ∧ s.fse.intake[k]? = some f ∧ a = s.setFse (fun q => { q with intake := q.intake.erase f }) →
      b = (if sameCycle = true then a.bump Reg.FSE_SAME_CYCLE else a) →
      u = (if waitNc = 0 then b else (b.bump Reg.FSE_MISS_WAIT).maxReg Reg.FSE_MAX_WAIT_NC waitNc) →
      u.verdictOf f = (⟨0, 0⟩, some p) ∧ f.frame.radio = true ∧ (mshLinkOf f.frame.bytes).typ = 0 ∧ f.src = some (i, g) ∧ f.micKey = .ok y →
      Completes (.fseVerdictRelease k sameCycle waitNc) s fun t =>
        t.fse.intake = s.fse.intake.erase f ∧
        (t.ctx i).fcntH = (winTake (s.ctx i).fcntH (s.ctx i).fcntMap (mshLinkOf f.frame.bytes).fcnt).1 ∧ (t.ctx i).fcntMap = (winTake (s.ctx i).fcntH (s.ctx i).fcntMap (mshLinkOf f.frame.bytes).fcnt).2) ∧
  (∀ (k waitNc i g : Nat) (sameCycle : Bool) (f : FseFrame) (s : State),
      s.begun 5 = true ∧ s.fse.intake[k]? = some f ∧ frameOwner f = some (i, g) ∧ (s.inst (s.ctx i).inst).state = .fencing →
      Completes (.fseVerdictRelease k sameCycle waitNc) s fun t =>
        t.fse.intake = s.fse.intake.erase f ∧ t.ing = s.ing ∧ t.msh = s.msh ∧ t.plc = s.plc ∧
        ∀ off, windowOf off = 7 → off ≠ Reg.FSE_FENCE_SINK → t.reg off = s.reg off) ∧
  (∀ (f : RxFrame) (rest : List RxFrame) (s : State),
      s.fse.fcsDue = f :: rest →
      Completes (.fcsAfterVerdict) s fun t =>
        t.fse.fcsDue = rest ∧ t.msh.acks = s.msh.acks.map (fun a => if a.owedFor f then { a with refused := true, status := none } else a)) ∧
  (∀ (id set inst ref ml i v : Nat) (k : KeySnap) (u w s : State),
      s.sealTarget 0 id = some (set, inst, ref, ml, some i) ∧ ref < 0x80 ∧ s.sealKey set inst ref ml = (.ok k, u) ∧ u.drawUnicast i = (some v, w) →
      Completes (.frameSealCommit 0 id) s fun t =>
        (t.ctx i).txFcnt = v + 1 ∧ ∀ y ∈ t.plc.sends, y.id = id → y.sealed = true ∧ y.fcnt = v ∧ y.lseq = s.plc.lseq) ∧
  (∀ (id set inst ref ml i v : Nat) (k : KeySnap) (u w s : State),
      s.sealTarget 1 id = some (set, inst, ref, ml, some i) ∧ ref < 0x80 ∧ s.sealKey set inst ref ml = (.ok k, u) ∧ u.drawUnicast i = (some v, w) →
      (∀ y ∈ s.msh.sends, y.id = id → y.tunnel = false) →
      Completes (.frameSealCommit 1 id) s fun t =>
        (t.ctx i).txFcnt = v + 1 ∧ ∀ y ∈ t.msh.sends, y.id = id → y.sealed = true ∧ y.fcnt = v) ∧
  (∀ (f : BbFrame) (rest : List BbFrame) (s : State),
      s.begun 6 = true ∧ s.ing.buffer = f :: rest ∧ f.old = false ∧ (s.inst f.inst).state ≠ .fencing ∧ (s.inst f.inst).state ≠ .fenced ∧ s.headGone f = false →
      ((s.setIng (fun g => { g with buffer := rest })).ingestFrame f).cod.input.length ≤ max 256 s.cod.input.length →
      Completes (.burstBufferLeave) s fun t =>
        t.ing.buffer = rest ∧ t.cod.input = ((s.setIng (fun g => { g with buffer := rest })).ingestFrame f).cod.input) ∧
  (∀ (s : State),
      s.begun 6 = true ∧ s.ing.storm = false ∧ s.regBit Reg.ING_CTRL 0 = true ∧ s.regField Reg.ING_STORM_CFG 15 0 ≤ s.ing.outageCount →
      Completes (.stormSecond) s fun t =>
        t.ing.storm = true ∧ t.ing.quiet = 0 ∧ t.ing.outageCount = 0) ∧
  (∀ (s : State),
      s.begun 6 = true ∧ s.ing.storm = true ∧ (s.regBit Reg.ING_CTRL 0 = false ∨
        s.regField Reg.ING_STORM_TIME 7 0 ≤ (if s.ing.outageCount < s.regField Reg.ING_STORM_CFG 31 16 then s.ing.quiet + 1 else 0)) →
      Completes (.stormSecond) s fun t =>
        t.ing.storm = false ∧ t.ing.quiet = 0 ∧ t.ing.outageCount = 0) ∧
  (∀ (path frames : Nat) (s : State),
      path < 4 ∧ s.inStorm = true →
      Completes (.stormAllowanceRefill path frames) s fun t =>
        t.ing.allow.get? path = some (min (s.stormRate path * 100) (s.ing.allow.getD path 0 + frames))) ∧
  (∀ (k : Nat) (l : List Rec) (s : State),
      s.begun 6 = true ∧ l = (s.ing.gap.take (min k (s.ing.bilqMib * 16384 - s.ing.bilq.length))).takeWhile s.recDurable →
      Completes (.billingGapRefill k) s fun t =>
        t.ing.bilq = s.ing.bilq ++ l ∧ t.ing.gap = s.ing.gap.drop l.length) ∧
  (∀ (r : Rec) (rest : List Rec) (o : OpenBlock) (s : State),
      s.cod.input = r :: rest ∧ s.closeWaits (r.inst * 8 + r.cls) = false ∧ s.needsFull r = false →
      o = s.cod.opens.getD (r.inst * 8 + r.cls) { bounded := s.opensBounded r.cls, since := s.dev.nc } →
      Completes (.codRecordCode) s fun t =>
        (s.ing.hists.any (·.due) = false ∨ 256 ≤ rest.length → t.cod.input = rest) ∧ t.cod.opens.get? (r.inst * 8 + r.cls) = some (o.add (o.code s.codStep r.bytes) r.bytes)) ∧
  (∀ (i cls : Nat) (o : OpenBlock) (s : State),
      cls < 8 ∧ s.cod.opens.get? (i * 8 + cls) = some o ∧ s.timerDue cls o = true ∧ s.cod.waiting = [] ∧ s.codCanClose = true →
      Completes (.codCloseTimer i cls) s fun t =>
        t.cod.opens = s.cod.opens.del (i * 8 + cls) ∧ t.cod.held = s.cod.held ++ [o.close i cls 1 s.cod.bseq] ∧ t.cod.bseq = s.cod.bseq + 1) ∧
  (∀ (i cls : Nat) (o : OpenBlock) (s : State),
      s.cod.opens.get? (i * 8 + cls) = some o ∧ s.timerDue cls o = false →
      Completes (.codCloseTimer i cls) s fun t => t = s) ∧
  (∀ (classes : Nat) (s : State),
      Completes (.codFlush classes) s fun t =>
        ∀ k ∈ s.openStreams (fun k _ => bitAt classes (k % 8) && decide (k % 8 < 7)), t.cod.opens.has k = false ∨ t.closeWaits k = true) ∧
  (∀ (s : State),
      Completes (.codQcommit) s fun t =>
        t.cod.live = s.codStaged ∧ ∀ k ∈ s.openStreams (fun _ o => o.bounded), t.cod.opens.has k = false ∨ t.closeWaits k = true) ∧
  (∀ (k cause : Nat) (rest : List (Nat × Nat)) (o : OpenBlock) (s : State),
      s.cod.waiting = (k, cause) :: rest ∧ s.codCanClose = true ∧ s.cod.opens.get? k = some o →
      Completes (.codCloseResume) s fun t =>
        t.cod.waiting = rest ∧ t.cod.opens = s.cod.opens.del k ∧ t.cod.held = s.cod.held ++ [o.close (k / 8) (k % 8) cause s.cod.bseq])

/-- Every endpoint command is written to the checkpoint, applied and answered (R237, R239, R240, R266). EP.CREATE, the EP.WRITE forms and
EP.DELETE stand at the head of the endpoint queue with their checkpoint write begun, and are applied and answered when it is durable on both
copies; a dirty context is written back; EP.READ, EP.LOOKUP and EP.STATS answer from the context; a backfill bitmap read clears when its
last TLP is acknowledged. -/
def Obligations.EndpointCommandsComplete : Prop :=
  (∀ (i : Nat) (s : State),
      s.begun 6 = true ∧ s.ing.dirty.contains i = true ∧ s.ckptWritable = true →
      Completes (.contextCheckpoint i) s fun t =>
        t.ing.dirty = s.ing.dirty.erase i ∧ t.ing.jobs.get? s.ing.nextJob = some (.ctx i (s.ctx i)) ∧ t.ing.nextJob = s.ing.nextJob + 1) ∧
  (∀ (id i : Nat) (x : Ctx) (recordOk : Bool) (s : State),
      s.ing.jobs.get? id = some (.ctx i x) →
      Completes (.checkpointWriteDone id true recordOk) s fun t =>
        t.ing.ckpt.get? i = some x ∧ t.ing.jobs = s.ing.jobs.del id) ∧
  (∀ (id i : Nat) (c : CmdRef) (x : Ctx) (rest : List EpCmd) (recordOk : Bool) (s : State),
      s.ing.jobs.get? id = some .ep ∧ s.ing.epq = ⟨c, i, .create x⟩ :: rest ∧ c.queue ≤ 256 →
      Completes (.checkpointWriteDone id true recordOk) s fun t =>
        (t.ctx i).eui = x.eui ∧ (t.ctx i).inst = x.inst ∧ (t.ctx i).keyset = x.keyset ∧ (t.ctx i).created = s.stamp ∧
        (rest = [] → t.ing.epq = [] ∧ AnsweredWith c St.ok (i % 2 ^ 32) t)) ∧
  (∀ (id i : Nat) (c : CmdRef) (rest : List EpCmd) (recordOk : Bool) (s : State),
      s.ing.jobs.get? id = some .ep ∧ s.ing.epq = ⟨c, i, .delete⟩ :: rest ∧ c.queue ≤ 256 →
      Completes (.checkpointWriteDone id true recordOk) s fun t =>
        t.epAt i = none ∧ (rest = [] → t.ing.epq = [] ∧ Answered c St.ok t)) ∧
  (∀ (id i : Nat) (c : CmdRef) (k : EpChange) (rest : List EpCmd) (recordOk : Bool) (s : State),
      s.ing.jobs.get? id = some .ep ∧ s.ing.epq = ⟨c, i, k⟩ :: rest ∧ c.queue ≤ 256 ∧ (match k with | .create _ => false | .delete => false | _ => true) = true →
      Completes (.checkpointWriteDone id true recordOk) s fun t =>
        t.ctx i = State.Ctx.changed (s.ctx i) k ∧ (rest = [] → t.ing.epq = [] ∧ Answered c St.ok t)) ∧
  (∀ (id ceil : Nat) (recordOk : Bool) (s : State),
      s.ing.jobs.get? id = some (.bcast ceil) →
      Completes (.checkpointWriteDone id true recordOk) s fun t =>
        t.msh.bcastCeil = max s.msh.bcastCeil ceil ∧ t.msh.bcastSaved = some (max s.msh.bcastCeil ceil) ∧ t.ing.jobs = s.ing.jobs.del id) ∧
  (∀ (c : CmdRef) (p : EpIn) (x : Ctx) (s : State),
      epFlagsOk p.kind p.flags = true ∧ p.feeder ≠ 0xFFFF ∧ p.txNseq ≠ 0 ∧ p.txFcnt ≠ 0 ∧ p.auto = false →
      x = { eui := p.eui, inst := c.inst, kind := p.kind, flags := p.flags + 1, profile := p.profile, topoValid := p.topoValid, topoNode := p.topoNode, feeder := p.feeder, keyset := p.keyset, fcntH := p.fcntH, fcntMap := onesMap, nseqH := p.nseqH, nseqMap := onesMap, txFcnt := p.txFcnt, txNseq := p.txNseq } →
      (s.ing.epq = [] → s.createStatus ⟨c, p.index, .create x⟩ x false = (St.ok, 0)) →
      Completes (.epCreate c p) s fun t =>
        t.ing.epq = s.ing.epq ++ [⟨c, p.index, .create x⟩] ∧ (s.ing.epq = [] → t.ing.jobs.get? s.ing.nextJob = some .ep)) ∧
  (∀ (c : CmdRef) (p : EpIn) (i : Nat) (x : Ctx) (s : State),
      epFlagsOk p.kind p.flags = true ∧ p.feeder ≠ 0xFFFF ∧ p.txNseq ≠ 0 ∧ p.txFcnt ≠ 0 ∧ p.auto = true →
      x = { eui := p.eui, inst := c.inst, kind := p.kind, flags := p.flags + 1, profile := p.profile, topoValid := p.topoValid, topoNode := p.topoNode, feeder := p.feeder, keyset := p.keyset, fcntH := p.fcntH, fcntMap := onesMap, nseqH := p.nseqH, nseqMap := onesMap, txFcnt := p.txFcnt, txNseq := p.txNseq } →
      s.ing.epq = [] ∧ s.freeIndex = some i ∧ s.createStatus ⟨c, i, .create x⟩ x true = (St.ok, 0) →
      Completes (.epCreate c p) s fun t =>
        t.ing.epq = [⟨c, i, .create x⟩] ∧ t.ing.jobs.get? s.ing.nextJob = some .ep) ∧
  (∀ (c : CmdRef) (i first lines : Nat) (s : State),
      c.queue ≤ 256 ∧ 1 ≤ lines ∧ first + lines ≤ 16 ∧ s.epStatus c i = St.ok →
      Completes (.epRead c i first lines) s fun t =>
        Answered c St.ok t ∧ Writes c (slice (s.ctxBytes i (s.ctx i)) (64 * first) (64 * lines)) s t) ∧
  (∀ (c : CmdRef) (i : Nat) (p : EpAttr) (k : EpCmd) (s : State),
      s.dataHeld c = false ∧ epFlagsOk p.kind p.flags = true ∧ p.feeder ≠ 0xFFFF →
      k = ⟨c, i, .attr p.kind p.flags p.profile p.topoValid p.topoNode p.feeder⟩ ∧ (s.ing.epq = [] → s.changeStatus k = (St.ok, 0)) →
      Completes (.epWriteAttr c i p) s fun t =>
        t.ing.epq = s.ing.epq ++ [k] ∧ (s.ing.epq = [] → t.ing.jobs.get? s.ing.nextJob = some .ep)) ∧
  (∀ (c : CmdRef) (i handle : Nat) (s : State),
      s.dataHeld c = false ∧ (s.ing.epq = [] → s.changeStatus ⟨c, i, .keyset handle⟩ = (St.ok, 0)) →
      Completes (.epWriteKeyset c i handle) s fun t =>
        t.ing.epq = s.ing.epq ++ [⟨c, i, .keyset handle⟩] ∧ (s.ing.epq = [] → t.ing.jobs.get? s.ing.nextJob = some .ep)) ∧
  (∀ (c : CmdRef) (i a b d e : Nat) (s : State),
      s.dataHeld c = false ∧ (s.ing.epq = [] → s.changeStatus ⟨c, i, .rxwin a b d e⟩ = (St.ok, 0)) →
      Completes (.epWriteRxwin c i a b d e) s fun t =>
        t.ing.epq = s.ing.epq ++ [⟨c, i, .rxwin a b d e⟩] ∧ (s.ing.epq = [] → t.ing.jobs.get? s.ing.nextJob = some .ep)) ∧
  (∀ (c : CmdRef) (i a b : Nat) (s : State),
      s.dataHeld c = false ∧ (s.ing.epq = [] → s.changeStatus ⟨c, i, .txctr a b⟩ = (St.ok, 0)) →
      Completes (.epWriteTxctr c i a b) s fun t =>
        t.ing.epq = s.ing.epq ++ [⟨c, i, .txctr a b⟩] ∧ (s.ing.epq = [] → t.ing.jobs.get? s.ing.nextJob = some .ep)) ∧
  (∀ (c : CmdRef) (i : Nat) (wins : List (Nat × Nat × Nat)) (k : EpCmd) (s : State),
      s.dataHeld c = false ∧ k = ⟨c, i, .readwin (wins.map (fun w => { high := w.1, map := w.2.1, lastEts := w.2.2 }))⟩ ∧ (s.ing.epq = [] → s.changeStatus k = (St.ok, 0)) →
      Completes (.epWriteReadwin c i wins) s fun t =>
        t.ing.epq = s.ing.epq ++ [k] ∧ (s.ing.epq = [] → t.ing.jobs.get? s.ing.nextJob = some .ep)) ∧
  (∀ (c : CmdRef) (i : Nat) (s : State),
      (s.ing.epq = [] → s.changeStatus ⟨c, i, .pathclr⟩ = (St.ok, 0)) →
      Completes (.epWritePathclr c i) s fun t =>
        t.ing.epq = s.ing.epq ++ [⟨c, i, .pathclr⟩] ∧ (s.ing.epq = [] → t.ing.jobs.get? s.ing.nextJob = some .ep)) ∧
  (∀ (c : CmdRef) (i : Nat) (s : State),
      (s.ing.epq = [] → s.changeStatus ⟨c, i, .snapclr⟩ = (St.ok, 0)) →
      Completes (.epWriteSnapclr c i) s fun t =>
        t.ing.epq = s.ing.epq ++ [⟨c, i, .snapclr⟩] ∧ (s.ing.epq = [] → t.ing.jobs.get? s.ing.nextJob = some .ep)) ∧
  (∀ (c : CmdRef) (i : Nat) (area : Bytes) (s : State),
      s.dataHeld c = false ∧ (s.ing.epq = [] → s.changeStatus ⟨c, i, .host (fit 128 area)⟩ = (St.ok, 0)) →
      Completes (.epWriteHost c i area) s fun t =>
        t.ing.epq = s.ing.epq ++ [⟨c, i, .host (fit 128 area)⟩] ∧ (s.ing.epq = [] → t.ing.jobs.get? s.ing.nextJob = some .ep)) ∧
  (∀ (c : CmdRef) (i : Nat) (s : State),
      (s.ing.epq = [] → s.changeStatus ⟨c, i, .delete⟩ = (St.ok, 0)) →
      Completes (.epDelete c i) s fun t =>
        t.ing.epq = s.ing.epq ++ [⟨c, i, .delete⟩] ∧ (s.ing.epq = [] → t.ing.jobs.get? s.ing.nextJob = some .ep)) ∧
  (∀ (c : CmdRef) (eui i : Nat) (x : Ctx) (s : State),
      (c.queue ≤ 256 ∧ s.epOf eui = some (i, x) ∧ (c.queue = 256 ∨ x.inst = c.inst)) →
      Completes (.epLookup c eui) s fun t =>
        AnsweredWith c St.ok (i % 2 ^ 32) t) ∧
  (∀ (c : CmdRef) (i : Nat) (s : State),
      c.queue ≤ 256 ∧ s.epStatus c i = St.ok →
      Completes (.epStats c i 0) s fun t =>
        Answered c St.ok t ∧ Writes c (slice (s.ctxBytes i (s.ctx i)) 448 192 ++ slice (s.ctxBytes i (s.ctx i)) 832 64) s t) ∧
  (∀ (c : CmdRef) (i : Nat) (s : State),
      c.queue ≤ 256 →
      Completes (.epStats c i 1) s fun t =>
        Answered c St.ok t) ∧
  (∀ (c : CmdRef) (s : State),
      c.queue = 256 →
      Completes (.epStatsBackfill c) s fun t =>
        t.ing.backfillRead = some c ∧ Writes c (backfillBytes s.ing.backfill) s t) ∧
  (∀ (c : CmdRef) (s : State),
      s.ing.backfillRead = some c ∧ c.queue ≤ 256 ∧ s.cmd.cmds.any (fun k => k.queue == c.queue && k.tag == c.tag) = true ∧ s.cmd.results.any (fun r => r.queue == c.queue && r.tag == c.tag) = false →
      Completes (.backfillTlpAcknowledged) s fun t =>
        t.ing.backfill = [] ∧ t.ing.backfillPresent = false ∧ t.ing.backfillRead = none ∧ Answered c St.ok t)

/-- Blocks, journal pages, drives and reads of the archive take effect (R293, R295, R298, R301, R302, R303, R311, R313, R314, R315, R317). A
block that can be written joins its namespace's extent; a copy written, failed or deallocated, a journal page and a map page committed move
the archive as their rules say; polls, timeouts and losses of a drive move its stage; copies are rebuilt, reads of queries and scrubs
judged, held billing blocks drained. -/
def Obligations.ArchiveEventCommandsComplete : Prop :=
  (∀ (redo : Option Nat) (b : Block) (rest : List (Option Nat × Block)) (ns aen : Nat) (e : Extent) (s : State),
      s.takeOrder = (redo, b) :: rest ∧ ns = redo.getD (s.bindNs b.inst b.cls) ∧ s.arcUp = true ∧ s.nsOutstanding ns < 64 ∧ s.outstanding < 4096 →
      s.arc.hold.any (fun h => h.1 == ns) = false →
      s.openOf ns = some (aen, e) ∧ s.arc.map.get? aen = some e →
      Completes (.arcBlockTake) s fun t =>
        (t.arc.map.get? aen).map (·.blocks) = some (e.blocks ++ [b])) ∧
  (∀ (aen pos slot : Nat) (s : State),
      s.arc.writes.any (fun w => w.aen == aen && w.pos == pos && w.slots.contains slot && decide (w.slots.erase slot ≠ [])) = true →
      Completes (.arcWriteComplete aen pos slot) s fun t =>
        t.arc.writes = (s.arc.writes.map (fun w => if w.aen == aen && w.pos == pos then { w with slots := w.slots.erase slot } else w)).filter (fun w => !w.slots.isEmpty)) ∧
  (∀ (aen slot : Nat) (e : Extent) (b : Block) (s : State),
      s.arc.writes.filter (fun w => w.aen == aen && w.pos == e.info.fill) = [⟨aen, e.info.fill, [slot]⟩] ∧ s.arc.map.get? aen = some e →
      e.info.state = 1 ∧ e.info.fill + 1 < 1024 ∧ e.closing = false ∧ e.blocks[e.info.fill]? = some b →
      (e.blocks.length = e.info.fill + 1 ∨ s.arc.writes.any (fun w => w.aen == aen && w.pos == e.info.fill + 1 && !w.slots.isEmpty) = true) →
      Completes (.arcWriteComplete aen e.info.fill slot) s fun t =>
        t.arc.writes = s.arc.writes.filter (fun w => !(w.aen == aen && w.pos == e.info.fill) && !w.slots.isEmpty) ∧
        (t.arc.map.get? aen).map (·.info.fill) = some (e.info.fill + 1) ∧ t.arc.lastDur.get? e.info.ns = some (b.rtsMax, b.bseq)) ∧
  (∀ (aen slot : Nat) (media : Bool) (e : Extent) (s : State),
      s.arc.writes.any (fun w => w.aen == aen && w.pos == 1024 && w.slots.contains slot) = true ∧ s.arc.map.get? aen = some e →
      Completes (.arcWriteFail aen 1024 slot media) s fun t =>
        (t.arc.map.get? aen).map (fun x => (x.info.degraded, x.info.locs)) = some (true, (e.info.lose slot).locs)) ∧
  (∀ (aen pos slot : Nat) (media : Bool) (e : Extent) (s : State),
      s.arc.writes.any (fun w => w.aen == aen && w.pos == pos && w.slots.contains slot) = true ∧ s.arc.map.get? aen = some e ∧ e.info.state = 1 ∧ pos ≠ 1024 →
      Completes (.arcWriteFail aen pos slot media) s fun t =>
        (t.arc.map.get? aen).map (·.blocks) = some (e.blocks.take e.info.fill) ∧ t.arc.writes.any (fun w => w.aen == aen) = false ∧
        (media = true ∧ (s.drive slot).any (·.writable) = true → (t.drive slot).map (·.stage) = some (if s.regBit Reg.ARC_CTRL 0 = true then 7 else 4))) ∧
  (∀ (w : Nat) (d : Option (CmdRef × Nat)) (l : List JEntry) (s : State),
      s.arc.page = l ++ [⟨.ceil w, d⟩] →
      Completes (.journalPageCommit) s fun t =>
        t.arc.ceil = w ∧ t.arc.ceilAsked = false ∧ t.arc.pageSeq = s.arc.pageSeq + 1) ∧
  (∀ (w r0 : Nat) (k : NsCfg) (c : CmdRef) (l : List JEntry) (s : State),
      s.arc.page = l ++ [⟨.ns w (some k), some (c, r0)⟩] ∧ c.queue ≤ 256 →
      Completes (.journalPageCommit) s fun t =>
        t.arc.nss.get? w = some k ∧ t.arc.durNss.get? w = some k ∧ AnsweredWith c St.ok (r0 % 2 ^ 32) t ∧ t.arc.pageSeq = s.arc.pageSeq + 1) ∧
  (∀ (page : Nat) (s : State),
      (s.arc.imgDirty.has page = true → s.imageReady page = true) →
      Completes (.mapImageWrite page) s fun t =>
        t.arc.imgDirty = s.arc.imgDirty.del page) ∧
  (∀ (slot phys : Nat) (d : Dealloc) (x : Drive) (s : State),
      s.arc.deallocs.find? (fun d => d.slot == slot && d.phys == phys) = some d ∧ s.drive slot = some x ∧ x.stage ≠ 7 →
      Completes (.deallocateDone slot phys) s fun t =>
        t.arc.deallocs = s.arc.deallocs.erase d ∧ (t.drive slot).map (·.used) = some (x.used.erase phys)) ∧
  (∀ (slot phys : Nat) (d : Dealloc) (x : Drive) (s : State),
      s.arc.deallocs.find? (fun d => d.slot == slot && d.phys == phys) = some d ∧ s.drive slot = some x ∧ x.stage = 7 →
      s.extsOn slot = [] ∧ s.arc.journal.contains slot = false ∧ (s.arc.deallocs.erase d).any (fun y => y.slot == slot) = false →
      Completes (.deallocateDone slot phys) s fun t =>
        t.arc.deallocs = s.arc.deallocs.erase d ∧ t.drive slot = none ∧
        ∀ c ∈ x.cmds, c.queue ≤ 256 → t.cmd.results.any (fun r => r.queue == c.queue && r.tag == c.tag && r.status == St.ok && !r.queued) = true) ∧
  (∀ (slot : Nat) (h : HealthIn) (s : State),
      (s.drive slot).isSome = true →
      Completes (.arcHealthPoll slot h) s fun t =>
        (t.drive slot).map (·.spare) = some h.spare ∧ (t.drive slot).map (·.wearPct) = some h.used ∧ (t.drive slot).map (·.latency) = some h.latency ∧ (t.drive slot).map (·.mediaErr) = some h.mediaErr) ∧
  (∀ (slot : Nat) (h : HealthIn) (s : State),
      (s.drive slot).any (fun d => d.stage != 6) = true ∧ h.cfs = true →
      Completes (.arcHealthPoll slot h) s fun t =>
        (t.drive slot).map (·.stage) = some 5) ∧
  (∀ (slot : Nat) (d : Drive) (s : State),
      s.drive slot = some d ∧ d.timeoutAt.all (fun w => decide (w + 60 < s.nowSec)) = true →
      Completes (.driveCommandTimeout slot) s fun t =>
        (t.drive slot).map (·.timeoutAt) = some (some s.nowSec)) ∧
  (∀ (slot w : Nat) (d : Drive) (s : State),
      s.drive slot = some d ∧ d.timeoutAt = some w ∧ s.nowSec ≤ w + 60 →
      Completes (.driveCommandTimeout slot) s fun t =>
        (t.drive slot).map (·.stage) = some 5) ∧
  (∀ (found : List CtrlIn) (s : State),
      Completes (.driveHotplug found) s fun t =>
        t.arc.found = found ∧ ∀ e ∈ s.arc.drives, s.arcUp = true → found.any (fun c => c.serial == e.2.serial && c.disc == e.2.disc) = false → (t.drive e.1).map (·.stage) = some 5) ∧
  (∀ (slot : Nat) (s : State),
      (s.drive slot).isSome = true →
      Completes (.driveLoss slot) s fun t =>
        (t.drive slot).map (·.stage) = some 5) ∧
  (∀ (verified : Bool) (s : State),
      s.arcUp = true ∧ (s.arc.journal.filter (fun k => (s.drive k).any (·.writable))).length = 2 →
      Completes (.rebuildCopyDone true verified) s fun t =>
        t.arc.journalSingle = false) ∧
  (∀ (slot gib : Nat) (verified : Bool) (good : List Nat) (s : State),
      s.arcUp = true ∧ good = s.arc.journal.filter (fun k => (s.drive k).any (·.writable)) ∧ good.length ≠ 2 ∧ gib = s.moveGib good →
      mostFree (s.arc.drives.filter (fun e => e.2.writable && !good.contains e.1 && decide (gib * extPerGib ≤ e.2.free))) = some slot →
      Completes (.rebuildCopyDone true verified) s fun t =>
        t.arc.journal = good ++ [slot] ∧ t.arc.journalSingle = decide (good.length + 1 < 2)) ∧
  (∀ (aen slot : Nat) (verified : Bool) (others : List Nat) (e : Extent) (s : State),
      s.arcUp = true ∧ s.journalWait = false ∧ s.nextCopy = some (aen, e) ∧ s.arc.map.get? aen = some e ∧ (e.info.state = 3 → verified = true) →
      others = ((e.info.group.bind (fun b => s.arc.groups.find? (fun g => g.base == b))).map (fun g => s.groupSlots g.base g.width)).getD [] →
      s.pickDrive (e.info.locs.map (·.1) ++ others) true = some slot →
      Completes (.rebuildCopyDone false verified) s fun t =>
        (t.arc.map.get? aen).map (fun x => x.info.locs.contains (slot, (s.takePhys slot).1)) = some true) ∧
  (∀ (queue tg aen pos sk : Nat) (other : Bool) (j k m : ArcJob) (e : Extent) (b : Block) (u v s : State),
      (s.arc.jobs.take 4).find? (fun j => j.asked && j.cmd.queue == queue && j.cmd.tag == tg) = some j ∧ s.jobNext j = (some (aen, e, pos, b), sk) →
      (s.arc.jobs.filter (fun x => x.cmd == j.cmd)).length = 1 ∧ u = s.modExt aen (fun e => { e with lost := e.lost.erase pos }) →
      State.jobTake j e pos b = (k, false) ∧ State.putDescs (u.descsDue k) k u = ((m, false), v) ∧ (v.jobNext m).1.isSome = true ∧ v.jobMay m = true →
      Completes (.blockReadDone queue tg true other) s fun t =>
        t.arc.jobs.any (fun x => x.cmd == j.cmd && x.read == j.read + 1 && x.asked) = true) ∧
  (∀ (queue tg aen pos sk : Nat) (full other : Bool) (j k m : ArcJob) (e : Extent) (b : Block) (u v s : State),
      (s.arc.jobs.take 4).find? (fun j => j.asked && j.cmd.queue == queue && j.cmd.tag == tg) = some j ∧ s.jobNext j = (some (aen, e, pos, b), sk) →
      queue ≤ 256 ∧ u = s.modExt aen (fun e => { e with lost := e.lost.erase pos }) ∧ State.jobTake j e pos b = (k, full) →
      (full = true ∧ m = k ∨ full = false ∧ ∃ stop, State.putDescs (u.descsDue k) k u = ((m, stop), v) ∧ (stop = true ∨ (v.jobNext m).1 = none)) →
      Completes (.blockReadDone queue tg true other) s fun t =>
        t.cmd.results.any (fun r => r.queue == queue && r.tag == tg && r.status == St.ok && r.result0 == m.items % 2 ^ 32 && !r.queued) = true) ∧
  (∀ (queue tg aen pos sk : Nat) (j : ArcJob) (e : Extent) (b : Block) (s : State),
      (s.arc.jobs.take 4).find? (fun j => j.asked && j.cmd.queue == queue && j.cmd.tag == tg) = some j ∧ s.jobNext j = (some (aen, e, pos, b), sk) →
      s.arc.map.get? aen = some e →
      Completes (.blockReadDone queue tg false false) s fun t =>
        (t.arc.map.get? aen).map (fun x => x.lost.contains pos) = some true) ∧
  (∀ (aen pos : Nat) (digestOk : Bool) (e : Extent) (s : State),
      s.arc.map.get? aen = some e ∧ s.regBit Reg.ARC_CTRL 1 = true ∧ e.info.state = 3 ∧ pos < e.info.fill ∧ pos < e.blocks.length →
      Completes (.scrubRead aen pos false false digestOk) s fun t =>
        (t.arc.map.get? aen).map (fun x => x.lost.contains pos) = some true) ∧
  (∀ (ns : Nat) (b : Block) (rest : List (Nat × Block)) (aen : Nat) (e : Extent) (s : State),
      s.arc.hold = (ns, b) :: rest ∧ s.arcUp = true ∧ 2 ≤ s.takers.length ∧ s.nsOutstanding ns < 64 ∧ s.outstanding < 4096 →
      s.openOf ns = some (aen, e) ∧ s.arc.map.get? aen = some e →
      Completes (.billingHoldDrain) s fun t =>
        (∀ x ∈ t.arc.hold, x.2.bseq ≠ b.bseq) ∧ (t.arc.map.get? aen).any (fun x => (e.blocks ++ [b]).isPrefixOf x.blocks) = true)

/-- Every host command of the archive takes effect and is answered (R289, R292, R303, R310, R312, R316, R319). A namespace is created,
changed, deleted or released through the journal; a query or export is queued; a drive joins, starts a new set, is evacuated or failed; the
status is given; an OPEN extent of a write-once namespace is sealed. -/
def Obligations.ArchiveHostCommandsComplete : Prop :=
  (∀ (c : CmdRef) (p : NsIn) (s : State),
      State.nsOk p p.protect p.worm = true ∧ p.owner < 16 ∧ s.arcUp = true ∧ s.arc.nss.has p.ns = false →
      s.streamBound p.owner p.classes p.ns = false ∧ s.nsOwned p.owner < (s.inst p.owner).quota.nsMax →
      Completes (.arcNsCreate c p) s fun t =>
        (t.arc.page ++ t.arc.waiting).contains ⟨.ns p.ns (some { owner := p.owner, protect := p.protect, worm := p.worm, wrap := p.wrap, noticeMode := p.noticeMode, pgWidth := p.pgWidth, classes := p.classes, quota := p.quota, retainDays := p.retainDays }), some (c, p.ns)⟩ = true) ∧
  (∀ (c : CmdRef) (p : NsIn) (k : NsCfg) (s : State),
      1 ≤ p.ns ∧ p.ns ≤ 255 ∧ s.arcUp = true ∧ s.arc.nss.get? p.ns = some k ∧ State.nsOk p k.protect k.worm = true →
      (s.streamBound k.owner p.classes p.ns = false ∧ (k.worm = false ∨ k.retainDays ≤ p.retainDays)) →
      Completes (.arcNsChange c p) s fun t =>
        (t.arc.page ++ t.arc.waiting).contains ⟨.ns p.ns (some { k with wrap := p.wrap, noticeMode := p.noticeMode, pgWidth := p.pgWidth, classes := p.classes, quota := p.quota, retainDays := p.retainDays }), some (c, p.ns)⟩ = true) ∧
  (∀ (c : CmdRef) (ns : Nat) (k : NsCfg) (s : State),
      1 ≤ ns ∧ ns ≤ 255 ∧ s.arcUp = true ∧ s.arc.nss.get? ns = some k ∧ s.nsExtents ns = [] →
      Completes (.arcNsDelete c ns 0x0000D3E1) s fun t =>
        t.arc.nss.has ns = false ∧ (t.arc.page ++ t.arc.waiting).contains ⟨.ns ns none, some (c, 0)⟩ = true) ∧
  (∀ (c : CmdRef) (ns : Nat) (k : NsCfg) (s : State),
      c.queue ≤ 256 ∧ 1 ≤ ns ∧ ns ≤ 255 ∧ s.arcUp = true ∧ s.arc.nss.get? ns = some k ∧ s.nsExtents ns ≠ [] ∧ (∀ d ∈ s.arc.dels, d.aens ≠ []) →
      (k.worm = true → ∀ e ∈ s.nsExtents ns, s.retained e.2 = false) →
      Completes (.arcNsDelete c ns 0x0000D3E1) s fun t =>
        AnsweredQueued c t ∧ t.arc.nss.get? ns = some { k with classes := 0 } ∧
        ∀ e ∈ s.nsExtents ns, s.arc.map.get? e.1 = some e.2 →
          (e.2.info.state = 1 → (t.arc.map.get? e.1).map (·.closing) = some true) ∧
          ((e.2.info.state = 2 ∨ e.2.info.state = 3) ∧ s.journalWait = false → (t.arc.map.get? e.1).map (·.info.state) = some 5)) ∧
  (∀ (c : CmdRef) (ns : Nat) (k : NsCfg) (s : State),
      c.queue ≤ 256 ∧ 1 ≤ ns ∧ ns ≤ 255 ∧ s.arcUp = true ∧ s.arc.nss.get? ns = some k ∧ (∀ d ∈ s.arc.dels, d.aens ≠ []) →
      (s.nsExtents ns).any (fun e => e.2.info.state == 3 && s.pastRetention e.2) = true ∧ s.journalWait = false →
      Completes (.arcNsReleaseSealed c ns) s fun t =>
        AnsweredQueued c t ∧
        ∀ e ∈ s.nsExtents ns, s.arc.map.get? e.1 = some e.2 → e.2.info.state = 3 → s.pastRetention e.2 = true → (t.arc.map.get? e.1).map (·.info.state) = some 5) ∧
  (∀ (c : CmdRef) (ns : Nat) (k : NsCfg) (s : State),
      c.queue ≤ 256 ∧ 1 ≤ ns ∧ ns ≤ 255 ∧ s.arcUp = true ∧ s.arc.nss.get? ns = some k ∧ (∀ d ∈ s.arc.dels, d.aens ≠ []) →
      (s.nsExtents ns).any (fun e => e.2.info.state == 3 && s.pastRetention e.2) = false →
      Completes (.arcNsReleaseSealed c ns) s fun t =>
        AnsweredWith c St.ok 0 t ∧ t.arc.map = s.arc.map) ∧
  (∀ (c : CmdRef) (p : QueryIn) (s : State),
      c.queue ≤ 256 ∧ 128 ≤ p.bufLen ∧ s.arcUp = true ∧ s.arc.nss.has p.ns = true ∧ s.nsMine c p.ns = true ∧ 4 ≤ s.arc.jobs.length ∧ s.arc.jobs.length < 68 →
      (s.arc.jobs.take 4).all (·.asked) = true →
      Completes (.arcQuery c p) s fun t =>
        AnsweredQueued c t ∧
        t.arc.jobs = s.arc.jobs ++ [{ cmd := c, query := some p, seq := p.cursor % 2 ^ 32, pos := field p.cursor 47 32, rcd := field p.cursor 63 48 }]) ∧
  (∀ (c : CmdRef) (p : QueryIn) (j : ArcJob) (s : State),
      c.queue ≤ 256 ∧ 128 ≤ p.bufLen ∧ s.arcUp = true ∧ s.arc.nss.has p.ns = true ∧ s.nsMine c p.ns = true ∧ s.arc.jobs.length < 4 ∧ s.arc.jobs.all (·.asked) = true →
      j = { cmd := c, query := some p, seq := p.cursor % 2 ^ 32, pos := field p.cursor 47 32, rcd := field p.cursor 63 48 } ∧ (s.jobNext j).1.isSome = true ∧ s.jobMay j = true →
      Completes (.arcQuery c p) s fun t =>
        AnsweredQueued c t ∧ t.arc.jobs.any (fun x => x.cmd == c && x.asked) = true) ∧
  (∀ (c : CmdRef) (p : QueryIn) (j : ArcJob) (s : State),
      c.queue ≤ 256 ∧ 128 ≤ p.bufLen ∧ s.arcUp = true ∧ s.arc.nss.has p.ns = true ∧ s.nsMine c p.ns = true ∧ s.arc.jobs.length < 4 ∧ s.arc.jobs.all (·.asked) = true →
      j = { cmd := c, query := some p, seq := p.cursor % 2 ^ 32, pos := field p.cursor 47 32, rcd := field p.cursor 63 48 } ∧ (s.jobNext j).1 = none →
      Completes (.arcQuery c p) s fun t =>
        AnsweredWith c St.ok 0 t ∧ Writes c (State.jobHeader { j with skipped := (s.jobNext j).2 } false) s t) ∧
  (∀ (c : CmdRef) (p : ExportIn) (j m : ArcJob) (v s : State),
      c.queue ≤ 256 ∧ 128 ≤ p.bufLen ∧ s.arcUp = true ∧ s.arc.nss.has p.ns = true ∧ s.nsMine c p.ns = true ∧ s.arc.jobs.length < 4 ∧ s.arc.jobs.all (·.asked) = true →
      j = { cmd := c, exporting := some p, seq := p.first, pos := p.cursor } ∧ s.jobMay j = true →
      State.putDescs (s.descsDue j) j s = ((m, false), v) ∧ (v.jobNext m).1.isSome = true ∧ v.jobMay m = true →
      Completes (.arcExport c p) s fun t =>
        AnsweredQueued c t ∧ t.arc.jobs.any (fun x => x.cmd == c && x.asked) = true) ∧
  (∀ (c : CmdRef) (disc slot : Nat) (d : CtrlIn) (s : State),
      c.queue ≤ 256 ∧ s.ctrl disc = some d ∧ State.driveFit d = true ∧ s.arcUp = true →
      s.arc.drives.any (fun e => e.2.stage != 5 && (e.1 == slot || e.2.disc == disc)) = false →
      Completes (.arcDriveJoin c disc slot) s fun t =>
        AnsweredQueued c t ∧ t.drive slot = some (State.driveOf d 6) ∧ (t.arc.page ++ t.arc.waiting).contains ⟨.drive slot, some (c, 0)⟩ = true) ∧
  (∀ (c : CmdRef) (disc slot disc2 : Nat) (d1 d2 : CtrlIn) (s : State),
      c.queue ≤ 256 ∧ (s.arc.phase = .noSet ∨ s.arc.phase = .failed) ∧ s.ctrl disc = some d1 ∧ s.ctrl disc2 = some d2 ∧ disc ≠ disc2 ∧ State.driveFit d1 = true ∧ State.driveFit d2 = true →
      Completes (.arcDriveInit c disc slot disc2 0x00004E17) s fun t =>
        AnsweredQueued c t ∧ t.arc.setGen = s.arc.setGen + 1 ∧ t.arc.journal = [slot, if slot = 0 then 1 else 0] ∧ t.arc.map = [] ∧
        t.ing.ckpt = [] ∧ t.vin.saved = [] ∧ t.kvt.ckpt = none ∧ t.msh.bcastSaved = none ∧ t.cod.bseq = 0 ∧
        (t.drive slot).map (·.disc) = some d1.disc) ∧
  (∀ (c : CmdRef) (slot : Nat) (d : Drive) (u s : State),
      c.queue ≤ 256 ∧ s.drive slot = some d ∧ s.arcUp = true ∧ d.stage ≠ 5 ∧ d.stage ≠ 6 →
      u = (s.replyQueued c).setStage slot 7 ∧ (s.arc.journal.contains slot = true ∨ u.extsOn slot ≠ [] ∨ u.arc.deallocs.any (fun x => x.slot == slot) = true) ∧ (u.extsOn slot).length ≤ ((u.takers.filter (fun e => e.1 != slot)).map (fun e => e.2.free)).sum →
      Completes (.arcDriveEvacuate c slot) s fun t =>
        AnsweredQueued c t ∧ (t.drive slot).map (·.stage) = some 7 ∧ (t.drive slot).map (·.cmds) = some (d.cmds ++ [c])) ∧
  (∀ (c : CmdRef) (slot : Nat) (d : Drive) (s : State),
      c.queue ≤ 256 ∧ s.drive slot = some d ∧ s.arcUp = true ∧ d.stage ≠ 5 ∧ d.stage ≠ 6 →
      s.arc.journal.contains slot = false ∧ s.extsOn slot = [] ∧ s.arc.deallocs.any (fun x => x.slot == slot) = false →
      Completes (.arcDriveEvacuate c slot) s fun t =>
        Answered c St.ok t ∧ t.drive slot = none) ∧
  (∀ (c : CmdRef) (slot : Nat) (d : Drive) (s : State),
      c.queue ≤ 256 ∧ s.drive slot = some d →
      Completes (.arcDriveFail c slot) s fun t =>
        Answered c St.ok t ∧ (t.drive slot).map (·.stage) = some 5) ∧
  (∀ (c : CmdRef) (ns : Nat) (k : NsCfg) (s : State),
      c.queue ≤ 256 ∧ s.arc.nss.get? ns = some k ∧ s.nsMine c ns = true →
      Completes (.arcStatus c ns false) s fun t =>
        AnsweredWith c St.ok (s.arcStatus % 2 ^ 32) t ∧ Writes c (s.nsEntry ns k) s t) ∧
  (∀ (c : CmdRef) (ns : Nat) (s : State),
      c.queue = 256 →
      Completes (.arcStatus c ns true) s fun t =>
        AnsweredWith c St.ok (s.arcStatus % 2 ^ 32) t ∧ Writes c ((List.range 64).flatMap (fun k => s.driveEntry k)) s t) ∧
  (∀ (c : CmdRef) (ns aen : Nat) (k : NsCfg) (e : Extent) (s : State),
      s.arcUp = true ∧ s.arc.nss.get? ns = some k ∧ k.worm = true ∧ s.openOf ns = some (aen, e) ∧ s.arc.map.get? aen = some e →
      e.blocks ≠ [] ∧ e.info.fill = e.blocks.length ∧ e.info.ns = ns ∧ s.journalWait = false ∧ s.deleting ns = false →
      Completes (.arcSeal c ns) s fun t =>
        (t.arc.map.get? aen).map (·.info.state) = some 3 ∧ (t.arc.map.get? aen).map (·.closing) = some true) ∧
  (∀ (c : CmdRef) (ns aen : Nat) (k : NsCfg) (e : Extent) (s : State),
      s.arcUp = true ∧ s.arc.nss.get? ns = some k ∧ k.worm = true ∧ s.openOf ns = some (aen, e) ∧ s.arc.map.get? aen = some e ∧ e.blocks ≠ [] →
      s.arc.writes.any (fun w => w.aen == aen && w.pos == e.info.fill) = true ∧ e.info.fill < e.blocks.length →
      Completes (.arcSeal c ns) s fun t =>
        (t.arc.map.get? aen).map (fun x => (x.closing, x.sealCmd, x.info.state)) = some (true, some c, 1)) ∧
  (∀ (c : CmdRef) (ns : Nat) (k : NsCfg) (s : State),
      c.queue ≤ 256 ∧ s.arcUp = true ∧ s.arc.nss.get? ns = some k ∧ k.worm = true ∧ (s.openOf ns).all (fun e => e.2.blocks.isEmpty) = true →
      Completes (.arcSeal c ns) s fun t =>
        Answered c St.ok t)

/-- Records, lanes, feeder values and host commands of LOS take effect (R323, R327, R328, R329, R332, R334, R335, R336, R337, R339). A
record leaves the LOS queue; a lane that is due closes and the next one follows; feeder energies and voltage means are kept; LOS.TOPO.LOAD
puts a valid tree in force from the next balance interval; LOS.CONFIG sets the parameters; the results, phases and histograms are read. -/
def Obligations.LossCommandsComplete : Prop :=
  (∀ (r : Rec) (rest : List Rec) (s : State),
      s.losRuns = true ∧ s.ing.losq = r :: rest →
      Completes (.losRecordTake) s fun t =>
        t.ing.losq = rest) ∧
  (∀ (tree : LosTree) (s : State),
      s.laneDue = true ∧ s.treeAt s.los.next = some tree →
      Completes (.losLaneClose) s fun t =>
        t.los.cfg = s.los.cfgNext.getD s.los.cfg ∧ t.los.cfgNext = none ∧
        t.los.next = s.los.next + (s.los.cfgNext.getD s.los.cfg).balS ∧ t.los.lanes.has s.los.next = false) ∧
  (∀ (start imp exp : Nat) (s : State),
      s.losRuns = true ∧ (s.treeAt start).isSome = true ∧ s.los.next ≤ start ∧ start % s.los.cfg.balS = 0 →
      Completes (.losFeederEnergy start imp exp) s fun t =>
        (t.los.lanes.getD start {}).head = some ((imp : Int) - (exp : Int)) ∧ t.los.headOk = true) ∧
  (∀ (start v1 v2 v3 : Nat) (s : State),
      s.losRuns = true →
      Completes (.losVoltageMeans start v1 v2 v3) s fun t =>
        t.los.volts = (s.los.volts.put start [v1, v2, v3]).filter (fun e => decide (s.nowSec ≤ e.1 + 21600))) ∧
  (∀ (c : CmdRef) (nodes crc : Nat) (data : Bytes) (entries : List LosNodeIn) (s : State),
      c.queue ≤ 256 ∧ s.dataHeld c = false ∧ 1 ≤ nodes ∧ nodes ≤ 65536 ∧ s.los.trees.length < 2 ∧ crc = crc32c (data.take (32 * nodes)) ∧ entries = losNodesOf nodes data ∧ firstInvalid entries = none →
      Completes (.losTopoLoad c nodes crc data) s fun t =>
        AnsweredWith c St.ok (nodes % 2 ^ 32) t ∧ t.los.treeDue = true ∧
        t.los.trees = (if s.losTree.isSome = true then s.los.trees else []) ++ [((s.nowSec / s.los.cfg.balS + 1) * s.los.cfg.balS, entries)]) ∧
  (∀ (c : CmdRef) (nodes crc k : Nat) (data : Bytes) (s : State),
      c.queue ≤ 256 ∧ s.dataHeld c = false ∧ 1 ≤ nodes ∧ nodes ≤ 65536 ∧ s.los.trees.length < 2 →
      ((crc ≠ crc32c (data.take (32 * nodes)) ∧ k = 0xFFFFFFFF) ∨ (crc = crc32c (data.take (32 * nodes)) ∧ firstInvalid (losNodesOf nodes data) = some k)) →
      Completes (.losTopoLoad c nodes crc data) s fun t =>
        AnsweredWith c 0x0810 (k % 2 ^ 32) t ∧ t.los = s.los) ∧
  (∀ (c : CmdRef) (p : LosCfgIn) (s : State),
      c.queue ≤ 256 ∧ losCfgOk p = true ∧ p.balS = s.los.cfg.balS ∧ p.graceS = s.los.cfg.graceS →
      Completes (.losConfig c p) s fun t =>
        Answered c St.ok t ∧ t.los.cfg = { s.los.cfg with phWindow := p.phWindow } ∧ t.los.cfgNext = some (losCfgOf p)) ∧
  (∀ (c : CmdRef) (p : LosCfgIn) (s : State),
      c.queue ≤ 256 ∧ losCfgOk p = true ∧ (p.balS ≠ s.los.cfg.balS ∨ p.graceS ≠ s.los.cfg.graceS) →
      Completes (.losConfig c p) s fun t =>
        Answered c St.ok t ∧ t.los.cfg = losCfgOf p ∧ t.los.cfgNext = none ∧ t.los.lanes = [] ∧ t.los.next = s.firstOpen p) ∧
  (∀ (c : CmdRef) (first last start : Nat) (tree : LosTree) (s : State),
      c.queue ≤ 256 ∧ first ≤ last ∧ last ≤ first + 16383 ∧ s.losTree = some tree ∧ last < tree.length →
      Completes (.losResultRead c first last start) s fun t =>
        AnsweredWith c St.ok ((((List.range tree.length).zip tree).filter (fun e => decide (first ≤ e.1 ∧ e.1 ≤ last))).length % 2 ^ 32) t ∧
        Writes c ((((List.range tree.length).zip tree).filter (fun e => decide (first ≤ e.1 ∧ e.1 ≤ last))).flatMap (fun e => s.resultBytes c e.1 e.2 start)) s t) ∧
  (∀ (c : CmdRef) (first count : Nat) (s : State),
      c.queue ≤ 256 ∧ 1 ≤ count ∧ count ≤ 16384 ∧ s.losTree.isSome = true →
      Completes (.losPhaseRead c first count) s fun t =>
        Answered c St.ok t ∧ t.los = s.los ∧
        Writes c ((List.range count).flatMap (fun k => phaseBytes
          (if (s.epAt (first + k)).any (fun x => c.queue == 256 || x.inst == c.inst) = true then s.los.phases.get? (first + k) else none) (!s.headPresent))) s t) ∧
  (∀ (c : CmdRef) (first last : Nat) (clear : Bool) (tree : LosTree) (s : State),
      (c.queue ≤ 256 ∧ (clear = false ∨ c.queue = 256) ∧ first ≤ last ∧ last ≤ first + 4095 ∧ s.losTree = some tree ∧ last < tree.length) →
      Completes (.losHistRead c first last clear) s fun t =>
        Answered c St.ok t ∧
        Writes c ((((List.range tree.length).zip tree).filter (fun e => decide (first ≤ e.1 ∧ e.1 ≤ last))).flatMap (fun e =>
          if State.losSees c e.2 = true then (List.range 32).flatMap (fun b => le 4 ((s.los.nodes.getD e.1 {}).bins.getD b 0)) else zeros 128)) s t ∧
        t.los.nodes = (if clear = true then s.los.nodes.mapVals (fun k x => if first ≤ k ∧ k ≤ last then { x with bins := List.replicate 32 0 } else x) else s.los.nodes))

/-- Samples, marks, tamper levels and host commands of the meter take effect (R346, R350, R351, R352, R355, R357, R358, R359, R364, R365,
R366, R369). A sample advances the converter count and a mark is kept until its second begins; registers are saved; a pulse that is owed
goes out; tamper levels move the two-sample filter; a calibration set is stored, sealed and unsealed as its rules say; the read commands
answer; MET.CONFIG sets powers and threshold, and with TERM_ACK clears the terminal suspicion. -/
def Obligations.MeterCommandsComplete : Prop :=
  (∀ (inputs : List Int) (crossings : List (Nat × Nat)) (s : State),
      s.domOn 53 = true ∧ s.metRuns = true →
      Completes (.metSample inputs crossings) s fun t =>
        t.met.cc = s.met.cc + 6400 ∧ t.met.hist = (s.metCodes inputs :: s.met.hist).take filterTaps) ∧
  (∀ (inputs : List Int) (crossings : List (Nat × Nat)) (w : Nat) (s : State),
      s.domOn 53 = true ∧ s.metRuns = true ∧ s.met.pulseHigh = true ∧ s.met.lastPulse = some w ∧ w + 102400 ≤ s.met.cc + 6400 →
      Completes (.metSample inputs crossings) s fun t =>
        t.met.pulseHigh = false ∧ t.out.contains (.pin 2 false) = true) ∧
  (∀ (count sec : Nat) (flag : Bool) (s : State),
      s.metRuns = true ∧ (s.met.markMissing = false ∨ sec ≠ s.met.lastSec) ∧ s.met.cc + 3200 < count →
      Completes (.metSecondMark count sec flag) s fun t =>
        t.met.mark = some (count, sec, flag) ∧ t.met.markMissing = s.met.markMissing) ∧
  (∀ (count sec : Nat) (flag : Bool) (s : State),
      s.metRuns = true ∧ (s.met.markMissing = false ∨ sec ≠ s.met.lastSec) ∧ count ≤ s.met.cc + 3200 →
      Completes (.metSecondMark count sec flag) s fun t =>
        t.met.mark = none ∧ t.met.lastMark = count ∧ t.met.lastSec = sec ∧ t.met.markMissing = false) ∧
  (∀ (count sec : Nat) (flag : Bool) (s : State),
      s.met.markMissing = true ∧ sec = s.met.lastSec →
      Completes (.metSecondMark count sec flag) s fun t => t = s) ∧
  (∀ (s : State),
      s.metRuns = true ∧ s.met.mark = none ∧ s.met.lastMark + 51200000 ≤ s.met.cc + 3200 →
      Completes (.timeMarkMissing) s fun t =>
        t.met.mark = none ∧ t.met.lastMark = s.met.lastMark + 51200000 ∧ t.met.lastSec = s.met.lastSec + 1 ∧ t.met.markMissing = true) ∧
  (∀ (s : State),
      s.met.cc + 3200 < s.met.lastMark + 51200000 →
      Completes (.timeMarkMissing) s fun t => t = s) ∧
  (∀ (s : State),
      Completes (.metRegisterSave) s fun t =>
        t.met.saved = s.met.energy ∧ t.met.energy = s.met.energy) ∧
  (∀ (s : State),
      s.metRuns = true ∧ s.met.calValid = true ∧ 1 ≤ s.met.pulsesOwed ∧ s.met.lastPulse = none →
      Completes (.metPulseOut) s fun t =>
        t.met.pulsesOwed = s.met.pulsesOwed - 1 ∧ t.met.lastPulse = some s.met.cc ∧ t.met.pulseHigh = true ∧ t.out = .pin 2 true :: s.out) ∧
  (∀ (w : Nat) (s : State),
      s.metRuns = true ∧ s.met.calValid = true ∧ 1 ≤ s.met.pulsesOwed ∧ s.met.lastPulse = some w ∧ w + 204800 ≤ s.met.cc →
      Completes (.metPulseOut) s fun t =>
        t.met.pulsesOwed = s.met.pulsesOwed - 1 ∧ t.met.lastPulse = some s.met.cc ∧ t.met.pulseHigh = true ∧ t.out = .pin 2 true :: s.out) ∧
  (∀ (levels : Nat) (s : State),
      s.dev.state ≠ .night ∧ (∀ i ∈ List.range 4, s.tampEnabled i = false) →
      Completes (.tamperSample levels) s fun t =>
        (∀ i ∈ List.range 4, t.met.tampers.get? i = some {}) ∧ t.met.termActive = s.classActive 1 ∧
        t.met.termQuiet = (if s.classActive 1 = true then 0 else s.met.termQuiet + 1)) ∧
  (∀ (levels : Nat) (s : State),
      (s.dev.state ≠ .night ∧ s.tampEnabled 3 = true ∧ (∀ i ∈ List.range 3, s.tampEnabled i = false)) →
      (s.met.tampers.getD 3 {}).run = 0 ∧ (s.met.tampers.getD 3 {}).active = false ∧ (bitAt levels 3 == bitAt (calTamper s.cal 3) 2) = true →
      Completes (.tamperSample levels) s fun t =>
        (t.met.tampers.getD 3 {}).run = 1 ∧ (t.met.tampers.getD 3 {}).active = false) ∧
  (∀ (levels : Nat) (s : State),
      (s.dev.state = .night ∧ s.tampEnabled 3 = true ∧ (∀ i ∈ List.range 3, s.tampEnabled i = false) ∧ s.aon.nightRecs.length < 16) →
      (s.met.tampers.getD 3 {}).run ≠ 0 ∧ (s.met.tampers.getD 3 {}).active = false ∧ (bitAt levels 3 == bitAt (calTamper s.cal 3) 2) = true →
      Completes (.nightTamperSample levels) s fun t =>
        t.aon.nightRecs = s.aon.nightRecs ++ [{ time := s.rtcStamp, input := 3, cls := s.tampClass 3 }] ∧ t.aon.nightAlarms = satAdd 32 s.aon.nightAlarms 1) ∧
  (∀ (c : CmdRef) (set : Bytes) (s : State),
      c.queue ≤ 256 ∧ s.dataHeld c = false ∧ s.met.store = none ∧ s.metBlocked = false ∧ s.met.sealState ≠ 1 ∧ s.sealRoom = true →
      leAt set 0 4 = calMagic ∧ leAt set 252 4 = crc32c (set.take 252) ∧ calRanges set = true →
      Completes (.metCalStore c set true none) s fun t =>
        t.met.sel = (if s.met.calValid = true then 1 - s.met.sel else 1) ∧ t.met.calValid = true ∧
        t.met.copies = s.met.copies.set t.met.sel (calStored set (s.calGenNow + 1)) ∧ t.met.sealCount = s.met.sealCount + 1 ∧
        AnsweredWith c St.ok ((s.calGenNow + 1) % 2 ^ 32) t) ∧
  (∀ (c : CmdRef) (s : State),
      c.queue ≤ 256 ∧ s.met.store = none ∧ s.metBlocked = false ∧ s.met.sealState ≠ 1 ∧ s.met.calValid = true ∧ s.sealRoom = true →
      Completes (.metSeal c 0x5EA1) s fun t =>
        t.met.sealState = 1 ∧ t.met.sealCount = s.met.sealCount + 1 ∧ AnsweredWith c St.ok (s.calGenNow % 2 ^ 32) t) ∧
  (∀ (c : CmdRef) (auth : AuthIn) (s : State),
      c.queue ≤ 256 ∧ s.dataHeld c = false ∧ s.met.store = none ∧ s.metBlocked = false ∧ s.met.sealState = 1 ∧ s.sealRoom = true ∧ s.authPasses auth 3 s.met.sealCount = true →
      Completes (.metUnseal c auth) s fun t =>
        t.met.sealState = 0 ∧ t.met.sealCount = s.met.sealCount + 1 ∧ AnsweredWith c St.ok (s.calGenNow % 2 ^ 32) t) ∧
  (∀ (c : CmdRef) (set channel : Nat) (s : State),
      c.queue ≤ 256 ∧ set ≤ 2 →
      Completes (.metRead c set channel) s fun t =>
        AnsweredWith c St.ok (s.metStatus % 2 ^ 32) t ∧
        Writes c (if set = 0 then s.readSet0 else if set = 1 then s.readSet1 else s.readSet2 channel) s t) ∧
  (∀ (c : CmdRef) (nonce len : Nat) (s : State),
      c.queue ≤ 256 ∧ 3600 ≤ len ∧ s.rootsOpen = true →
      Completes (.metSealRead c nonce len) s fun t =>
        Answered c St.ok t ∧ Writes c (s.sealBody nonce ++ State.signWith s.islKey (s.sealBody nonce)) s t) ∧
  (∀ (c : CmdRef) (first count : Nat) (s : State),
      c.queue ≤ 256 ∧ 1 ≤ count ∧ count ≤ 4096 →
      Completes (.metAuditRead c first count) s fun t =>
        AnsweredWith c St.ok (((s.met.audit.drop first).take count).length % 2 ^ 32) t ∧
        Writes c ((s.met.audit.drop first).take count).flatten s t) ∧
  (∀ (c : CmdRef) (vpwr ipwr zcVmin : Nat) (s : State),
      c.queue ≤ 256 ∧ s.met.store = none ∧ 5 ≤ zcVmin ∧ zcVmin ≤ 90 ∧ s.metBlocked = false ∧ (vpwr ≠ s.met.vpwr ∨ ipwr ≠ s.met.ipwr → s.auditLocked = false) →
      Completes (.metConfig c vpwr ipwr zcVmin) s fun t =>
        Answered c St.ok t ∧ t.met.vpwr = vpwr ∧ t.met.ipwr = ipwr ∧ t.met.zcVmin = zcVmin) ∧
  (∀ (c : CmdRef) (vpwr ipwr zcVmin : Nat) (s : State),
      c.queue ≤ 256 ∧ s.met.store = none ∧ 5 ≤ zcVmin ∧ zcVmin ≤ 90 ∧ s.metBlocked = false ∧ (vpwr ≠ s.met.vpwr ∨ ipwr ≠ s.met.ipwr → s.auditLocked = false) ∧ s.termClear = true →
      Completes (.metTermAck c vpwr ipwr zcVmin) s fun t =>
        Answered c St.ok t ∧ t.met.vpwr = vpwr ∧ t.met.ipwr = ipwr ∧ t.met.zcVmin = zcVmin ∧ t.met.termSuspect = false)

/-- Billing copies, intervals, tokens, replays and campaign windows take effect (R383, R384, R386, R388, R392, R393, R395, R398, R399, R402,
R498). A durable copy joins the pending queue; an interval with a good tag moves its register set by one sequence; a token accepted moves
the ledger's TID and window, whoever brought it; an owner's record is taken over and its acknowledgement clears it; a replay reads on; a
campaign opens, pauses and ends by its windows and deadline. -/
def Obligations.BillingEventCommandsComplete : Prop :=
  (∀ (r : Rec) (rest : List Rec) (s : State),
      s.ing.bilq = r :: rest ∧ s.bilTaking = true ∧ s.recDurable r = true ∧ r.typ ≠ 0x48 →
      (s.ledgerOf r.endpoint).bound = true ∧ s.bil.fenced.contains r.endpoint = false →
      (r.cls = 0 ∧ s.bilHeld r.endpoint = true → (s.bil.queue.filter (fun x => x.cls == 0 && x.endpoint == r.endpoint)).length < 8) →
      Completes (.bilIntervalTake) s fun t =>
        t.ing.bilq = rest ∧ t.bil.queue = s.bil.queue ++ [r]) ∧
  (∀ (r : Rec) (b b' : BilSet) (u v : State) (rate : Nat) (late stale : Bool) (s : State),
      s.bilLive = true ∧ s.takePending (fun r => r.cls == 0) = some (r, u) ∧ u.bilSet r.endpoint = some b ∧ (u.seamSend .noon 6 b.bytes).mtagOk r = (true, v) →
      v.applySteps r b = .inl (b', rate, late, stale) →
      Completes (.bilIntervalApply true) s fun t =>
        (t.bilSet r.endpoint).map (fun x => (x.sseq, x.lastSeq, x.seqMap)) = some ((b'.sseq + 1) % 2 ^ 32, b'.lastSeq, b'.seqMap) ∧
        (t.bilSet r.endpoint).map (fun x => (x.imp, x.exp, x.shadow)) = some (b'.imp, b'.exp, !s.bilOwns) ∧
        (t.ledgerOf r.endpoint).anchor = (b'.sseq + 1) % 2 ^ 32 ∧ t.bil.queue = s.bil.queue.erase r) ∧
  (∀ (r : Rec) (u : State) (s : State),
      s.bilLive = true ∧ s.takePending (fun r => r.cls == 0) = some (r, u) →
      Completes (.bilIntervalApply false) s fun t =>
        t.bil.queue = s.bil.queue ∧ t.bil.sets = s.bil.sets ∧ (t.ledgerOf r.endpoint).held = true) ∧
  (∀ (r : Rec) (a u v w : State) (k : Nat) (s : State),
      s.rootsOpen = true ∧ s.begun 7 = true ∧ a = s.finishAccept ∧ a.takePending (fun r => r.cls == 2) = some (r, u) ∧ u.mtagOk r = (true, v) ∧ r.typ < 0x52 →
      k = word64 r.values 0 + word64 r.values 1 * 2 ^ 64 ∧ v.tokenOutcome r.endpoint k = (0, w) →
      Completes (.tokenRequest none) s fun t =>
        (t.ledgerOf r.endpoint).lastId = (winTake (a.ledgerOf r.endpoint).lastId (a.ledgerOf r.endpoint).window (field k 63 40)).1 ∧
        (t.ledgerOf r.endpoint).window = (winTake (a.ledgerOf r.endpoint).lastId (a.ledgerOf r.endpoint).window (field k 63 40)).2) ∧
  (∀ (seq endpoint lastId window : Nat) (s : State),
      s.kvt.pairKey.isSome = true →
      Completes (.partnerTokenRecord seq endpoint lastId window true) s fun t =>
        (t.ledgerOf endpoint).lastId = lastId % 2 ^ 24 ∧ (t.ledgerOf endpoint).window = window % 2 ^ 64 ∧ t.out.head? = some (.pair 5 (le 4 seq ++ s.pairTag))) ∧
  (∀ (seq endpoint lastId window : Nat) (tagOk : Bool) (s : State),
      tagOk = false ∨ s.kvt.pairKey = none →
      Completes (.partnerTokenRecord seq endpoint lastId window tagOk) s fun t =>
        t.bil = s.bil ∧ t.seam.refused = s.seam.refused + 1) ∧
  (∀ (seq : Nat) (s : State),
      Completes (.islandRecordAck seq true) s fun t =>
        t.bil.unacked = s.bil.unacked.filter (fun r => r.seq != seq)) ∧
  (∀ (endpoint : Nat) (r : Replay) (s : State),
      s.bilLive = true ∧ s.bil.replays.find? (fun r => r.endpoint == endpoint) = some r ∧ r.behind = false →
      (s.archived endpoint (s.bilWho endpoint).2.2 r.start)[r.read]? = none →
      Completes (.bilReplayRecord endpoint) s fun t =>
        t.bil.replays = s.bil.replays.filter (fun x => x.endpoint != endpoint) ∧ (t.ledgerOf endpoint).held = false ∧ (t.ledgerOf endpoint).replay = false) ∧
  (∀ (endpoint : Nat) (r : Replay) (b : BilSet) (s : State),
      s.bilLive = true ∧ s.bil.replays.find? (fun r => r.endpoint == endpoint) = some r ∧ r.behind = true →
      (s.archived endpoint (s.bilWho endpoint).2.2 r.start)[r.read]? = none →
      s.bilSet endpoint = some b ∧ b.sseq ≠ (s.ledgerOf endpoint).anchor →
      Completes (.bilReplayRecord endpoint) s fun t =>
        t.bil.replays = s.bil.replays.filter (fun x => x.endpoint != endpoint) ∧ (t.ledgerOf endpoint).held = true) ∧
  (∀ (endpoint : Nat) (r : Replay) (x : Rec) (s : State),
      s.bilLive = true ∧ s.bil.replays.find? (fun r => r.endpoint == endpoint) = some r ∧ r.behind = false →
      (s.archived endpoint (s.bilWho endpoint).2.2 r.start)[r.read]? = some x →
      Completes (.bilReplayRecord endpoint) s fun t =>
        t.bil.replays = s.bil.replays.map (fun y => if y.endpoint = endpoint then { y with read := y.read + 1 } else y)) ∧
  (∀ (k : Nat) (x : Campaign) (s : State),
      s.bil.campaigns.get? k = some x ∧ x.paused = true ∧ s.bilLive = true ∧ s.bilOwns = true ∧ s.campWindow x = true →
      Completes (.bilCampaignWindowOpen k) s fun t =>
        (t.bil.campaigns.get? k).map (·.paused) = some false) ∧
  (∀ (k : Nat) (x : Campaign) (s : State),
      s.bil.campaigns.get? k = some x ∧ x.paused = false ∧ s.campWindow x = false →
      Completes (.bilCampaignWindowClose k) s fun t =>
        (t.bil.campaigns.get? k).map (·.paused) = some true) ∧
  (∀ (k : Nat) (x : Campaign) (s : State),
      s.bil.campaigns.get? k = some x ∧ x.deadline ≤ s.rtcNow ∧ x.cmd.queue ≤ 256 →
      Completes (.bilCampaignDeadline k) s fun t =>
        t.bil.campaigns = s.bil.campaigns.del k ∧ AnsweredWith x.cmd 0x0215 (x.confirmed.length % 2 ^ 32) t)

/-- Every host command of billing takes effect and is answered (R376, R379, R382, R388, R390, R393, R397, R399, R401, R412). A newer
calendar replaces the older copy; register sets and ledger entries are read; a credit push is queued and decided; a campaign starts, opens
and is aborted; an endpoint is bound, restored, released, and its short set accepted under the metrology authority. -/
def Obligations.BillingHostCommandsComplete : Prop :=
  (∀ (c : CmdRef) (slot crc : Nat) (image : Bytes) (s : State),
      c.queue ≤ 256 ∧ s.dataHeld c = false ∧ s.bil.loading = none ∧ slot < 16 ∧ byteAt image 6 % 16 = slot ∧ crc = leAt image 4092 4 ∧ crc = crc32c (image.take 4092) ∧ calOk image = true →
      (s.calCopies slot).any (fun x => decide (calVer image ≤ calVer x)) = false ∧ (s.calCopies slot).any (fun x => decide (s.rtcStamp < calActive x)) = false →
      Completes (.bilCalendarLoad c slot crc image false) s fun t =>
        Answered c St.ok t ∧ (t.calCopies slot).contains image = true ∧ t.calTop slot = some image) ∧
  (∀ (c : CmdRef) (first count : Nat) (s : State),
      c.queue ≤ 256 ∧ 1 ≤ count ∧ count ≤ 4096 ∧ first + count ≤ 2 ^ 21 ∧ ((List.range count).map (· + first)).any (s.bilForeign c) = false →
      Completes (.bilRegsReadRaw c first count) s fun t =>
        AnsweredWith c St.ok (((List.range count).map (· + first)).filter (fun i => (s.ledgerOf i).bound && (s.bilSet i).isSome)).length t ∧
        Writes c (((List.range count).map (· + first)).flatMap (fun i => match (if (s.ledgerOf i).bound then s.bilSet i else none) with | some b => b.bytes | none => zeros 320)) s t) ∧
  (∀ (c : CmdRef) (first count nonce : Nat) (s : State),
      c.queue ≤ 256 ∧ 1 ≤ count ∧ count ≤ 16 ∧ first + count ≤ 2 ^ 21 ∧ ((List.range count).map (· + first)).any (s.bilForeign c) = false →
      Completes (.bilRegsReadSigned c first count nonce) s fun t =>
        AnsweredWith c St.ok ((((List.range count).map (· + first)).map (s.readoutSlot nonce)).filter (·.2)).length t ∧
        Writes c ((((List.range count).map (· + first)).map (s.readoutSlot nonce)).flatMap (·.1)) s t) ∧
  (∀ (c : CmdRef) (endpoint tok : Nat) (a u s : State),
      c.queue ≤ 256 ∧ s.bilForeign c endpoint = false ∧ (s.ledgerOf endpoint).bound = true ∧ a = (s.replyQueued c).finishAccept →
      a.tokenOutcome endpoint (tok % 2 ^ 66) = (0, u) →
      Completes (.bilCreditPush c endpoint tok none) s fun t =>
        (t.ledgerOf endpoint).lastId = (winTake (a.ledgerOf endpoint).lastId (a.ledgerOf endpoint).window (field (tok % 2 ^ 66) 63 40)).1 ∧
        (t.ledgerOf endpoint).window = (winTake (a.ledgerOf endpoint).lastId (a.ledgerOf endpoint).window (field (tok % 2 ^ 66) 63 40)).2 ∧
        t.bil.nextPush = a.bil.nextPush + 1) ∧
  (∀ (c : CmdRef) (p : CampaignIn) (image : Bytes) (s : State),
      c.queue ≤ 256 ∧ s.dataHeld c = false ∧ p.group % 2 = 1 ∧ 1 ≤ p.repeats ∧ p.repeats ≤ 4 ∧ 1 ≤ p.deadlineH ∧ p.deadlineH ≤ 8760 ∧ p.number < 4 ∧ p.calId < 16 ∧ p.media < 8 →
      (p.endpoints ≠ [] ∧ p.endpoints.length ≤ 262144 ∧ (∀ i ∈ p.endpoints, i < 2 ^ 21) ∧ 0x80 ≤ p.keyref ∧ p.endpoints.any (s.bilForeign c) = false) →
      s.bil.campaigns.has p.number = false ∧ s.calTop p.calId = some image ∧ s.kvt.blobs.has ((placeOf 0 c.inst p.keyref).getD 0) = true →
      Completes (.bilCampaignStart c p) s fun t =>
        (t.bil.campaigns.get? p.number).map (fun x => (x.cmd, x.calId, x.image, x.endpoints, x.deadline)) = some (c, p.calId, image, p.endpoints.eraseDups, s.rtcNow + p.deadlineH * 3600)) ∧
  (∀ (c : CmdRef) (p : BindIn) (s : State),
      c.queue ≤ 256 ∧ s.bindStatus c p = St.ok →
      Completes (.bilBind c p) s fun t =>
        Answered c St.ok t ∧ t.ledgerOf p.endpoint = { lastId := (p.firstId - 1) % 2 ^ 24, bound := true, window := 2 ^ 64 - 1, anchor := 1 } ∧
        (t.bilSet p.endpoint).map (fun b => (b.inst, b.sseq, b.calId)) = some ((s.ctx p.endpoint).inst, 1, p.calId) ∧
        (t.bilSet p.endpoint).map (fun b => (b.prepay, b.btype, b.eui, b.keyset)) = some (p.prepay, p.btype, p.eui, p.keyset)) ∧
  (∀ (c : CmdRef) (data : Bytes) (s : State),
      c.queue ≤ 256 ∧ s.dataHeld c = false ∧ s.bilForeign c (bilSetOf data).endpoint = false ∧ s.rootsOpen = true ∧ (bilSetOf (fit 320 data)).endpoint = (bilSetOf data).endpoint →
      (s.ledgerOf (bilSetOf (fit 320 data)).endpoint).bound = true ∧ (bilSetOf (fit 320 data)).head = (fit 320 data).take 304 ∧ s.islandMac (bilSetOf (fit 320 data)) = (bilSetOf (fit 320 data)).mac →
      s.bil.replays.any (fun r => r.endpoint == (bilSetOf (fit 320 data)).endpoint || r.job == some s.bil.nextRestore) = false ∧ (bilSetOf (fit 320 data)).sseq = (s.ledgerOf (bilSetOf (fit 320 data)).endpoint).anchor ∧ (s.ledgerOf (bilSetOf (fit 320 data)).endpoint).replay = false →
      Completes (.bilRestore c [data]) s fun t =>
        t.bilSet (bilSetOf data).endpoint = some (bilSetOf (fit 320 data)) ∧ (t.ledgerOf (bilSetOf data).endpoint).held = false ∧ AnsweredWith c St.ok 1 t) ∧
  (∀ (c : CmdRef) (sets : List Bytes) (s : State),
      c.queue ≤ 256 ∧ s.dataHeld c = false ∧ sets ≠ [] ∧ sets.length ≤ 4096 ∧ sets.any (fun d => s.bilForeign c (bilSetOf d).endpoint) = false ∧ s.rootsOpen = true →
      Completes (.bilRestore c sets) s fun t =>
        t.bil.nextRestore = s.bil.nextRestore + 1 ∧ t.cmd.results.any (fun r => r.queue == c.queue && r.tag == c.tag && r.queued) = true) ∧
  (∀ (c : CmdRef) (endpoint : Nat) (s : State),
      c.queue ≤ 256 ∧ s.bilForeign c endpoint = false ∧ (s.ledgerOf endpoint).bound = true →
      Completes (.bilRelease c endpoint 0xB17E) s fun t =>
        Answered c St.ok t ∧ t.bil.ledger = s.bil.ledger.del endpoint ∧ t.bilSet endpoint = none) ∧
  (∀ (c : CmdRef) (endpoint : Nat) (auth : AuthIn) (b : BilSet) (s : State),
      c.queue ≤ 256 ∧ s.dataHeld c = false ∧ s.bilForeign c endpoint = false ∧ (s.ledgerOf endpoint).bound = true ∧ s.bilSet endpoint = some b ∧ b.sseq < (s.ledgerOf endpoint).anchor →
      s.bil.replays.any (fun r => r.endpoint == endpoint) = false ∧ s.authPasses auth 4 (endpoint + b.sseq * 2 ^ 32) = true →
      Completes (.bilAcceptShort c endpoint auth) s fun t =>
        Answered c St.ok t ∧ (t.ledgerOf endpoint).anchor = b.sseq) ∧
  (∀ (c : CmdRef) (first count : Nat) (s : State),
      c.queue ≤ 256 ∧ 1 ≤ count ∧ count ≤ 4096 ∧ first + count ≤ 2 ^ 21 ∧ ((List.range count).map (· + first)).any (s.bilForeign c) = false →
      Completes (.bilLedgerRead c first count) s fun t =>
        Answered c St.ok t ∧ Writes c (((List.range count).map (· + first)).flatMap (fun i => (s.ledgerOf i).bytes)) s t) ∧
  (∀ (c : CmdRef) (k : Nat) (s : State),
      c.queue ≤ 256 ∧ s.bil.campaigns.has k = true →
      Completes (.bilCampaignAbort c k) s fun t =>
        Answered c St.ok t ∧ t.bil.campaigns = s.bil.campaigns.del k)

/-- Every key command is carried out by the vault and answered (R408, R409, R412, R415, R417, R418, R421, R422, R424, R425, R428). A key set
or key is created, imported, generated, updated, deleted or invalidated by an operation of the vault, which the mirror's reply moves on; a
transport key is agreed and lapses; a key is exported, the part attested, the status read; the life cycle advances under its authorization.
-/
def Obligations.KeyCommandsComplete : Prop :=
  (∀ (c : CmdRef) (a : KeyAddr) (s : State),
      s.keyCheck c a [2] true false false = St.ok ∧ s.kvt.sets.has a.set = false ∧
        s.kvt.ops.any (fun o => match o.change with | .createSet n _ => n == a.set | _ => false) = false →
      s.setsOf a.inst < (s.inst a.inst).quota.keysetMax ∧ (s.setEntry a.set).1 < 2 ^ 32 - 1 ∧ s.keyWritable true = St.ok →
      Completes (.keyCreateSet c a false) s fun t =>
        t.kvt.ops = s.kvt.ops ++ [⟨s.kvt.nextOp, c, false, .createSet a.set a.inst, .next⟩] ∧ t.ing.jobs.get? s.ing.nextJob = some (.key s.kvt.nextOp)) ∧
  (∀ (c : CmdRef) (a : KeyAddr) (k : Nat) (s : State),
      s.keyCheck c a [2] true false false = St.ok ∧ s.freeSet = some k →
      s.setsOf a.inst < (s.inst a.inst).quota.keysetMax ∧ (s.setEntry k).1 < 2 ^ 32 - 1 ∧ s.keyWritable true = St.ok →
      Completes (.keyCreateSet c a true) s fun t =>
        t.kvt.ops = s.kvt.ops ++ [⟨s.kvt.nextOp, c, false, .createSet k a.inst, .next⟩] ∧ t.ing.jobs.get? s.ing.nextJob = some (.key s.kvt.nextOp)) ∧
  (∀ (c : CmdRef) (a : KeyAddr) (k : Nat) (wrapped p : Bytes) (ok : Bool) (w : Transport) (s : State),
      s.dataHeld c = false ∧ (s.keyCheck c a [0, 1, 5] (decide (k < 16)) true false = St.ok ∧ (a.kind = 0 ∧ (a.ref = 4 ∨ a.ref = 5) → s.slotVer a.set a.ref < 0xFFFF)) →
      s.tslot a.inst k = some w ∧ kwUnwrap (roundKeys true w.tk) wrapped = some p ∧ p.length = 48 ∧ slice (p.drop 32) 4 8 = addrBytes a →
      byteAt (p.drop 32) 0 = 1 ∧ byteAt (p.drop 32) 3 = 0 ∧ slice (p.drop 32) 12 4 = zeros 4 ∧ usageOk a (byteAt (p.drop 32) 1) (byteAt (p.drop 32) 2) = true →
      s.leafHeld a = false ∧ s.keyWritable (a.kind != 5) = St.ok →
      Completes (.keyImportWrapped c a k wrapped ok) s fun t =>
        (a.kind = 5 → ok = true → t.kvt.pairKey = some (fit 32 (p.take 32))) ∧
        (a.kind ≠ 5 → t.kvt.ops = s.kvt.ops ++ [⟨s.kvt.nextOp, c, false, .put (addrPlace a) (s.newBlob a (byteAt (p.drop 32) 1) (byteAt (p.drop 32) 2) (p.take 32)), .next⟩])) ∧
  (∀ (c : CmdRef) (a : KeyAddr) (k : Nat) (wrapped p : Bytes) (ok : Bool) (w : Transport) (s : State),
      s.dataHeld c = false ∧ (s.keyCheck c a [0, 1, 5] (decide (k < 16)) true false = St.ok ∧ (a.kind = 0 ∧ (a.ref = 4 ∨ a.ref = 5) → s.slotVer a.set a.ref < 0xFFFF)) →
      s.tslot a.inst k = some w ∧ kwUnwrap (roundKeys true w.tk) wrapped = some p ∧ p.length = 48 ∧ slice (p.drop 32) 4 8 = addrBytes a →
      byteAt (p.drop 32) 0 = 1 ∧ byteAt (p.drop 32) 3 = 0 ∧ slice (p.drop 32) 12 4 = zeros 4 ∧ usageOk a (byteAt (p.drop 32) 1) (byteAt (p.drop 32) 2) = true →
      s.leafHeld a = true ∧ s.keyWritable (a.kind != 5) = St.ok →
      Completes (.keyUpdateWrapped c a k wrapped ok) s fun t =>
        (a.kind = 5 → ok = true → t.kvt.pairKey = some (fit 32 (p.take 32))) ∧
        (a.kind ≠ 5 → t.kvt.ops = s.kvt.ops ++ [⟨s.kvt.nextOp, c, false, .put (addrPlace a) (s.newBlob a (byteAt (p.drop 32) 1) (byteAt (p.drop 32) 2) (p.take 32)), .next⟩])) ∧
  (∀ (c : CmdRef) (a : KeyAddr) (usage flags : Nat) (key : Bytes) (ok : Bool) (s : State),
      s.dataHeld c = false ∧ (s.keyCheck c a [0, 1, 5] (usageOk a usage flags && key.length == 32) true false = St.ok ∧ (a.kind = 0 ∧ (a.ref = 4 ∨ a.ref = 5) → s.slotVer a.set a.ref < 0xFFFF)) →
      s.dev.life ≠ 3 ∧ s.regBit Reg.KVT_CTRL 0 = true ∧ s.leafHeld a = false ∧ s.keyWritable (a.kind != 5) = St.ok →
      Completes (.keyImportPlain c a usage flags key ok) s fun t =>
        (a.kind = 5 → ok = true → t.kvt.pairKey = some (fit 32 key)) ∧
        (a.kind ≠ 5 → t.kvt.ops = s.kvt.ops ++ [⟨s.kvt.nextOp, c, false, .put (addrPlace a) (s.newBlob a usage flags key), .next⟩] ∧ t.ing.jobs.get? s.ing.nextJob = some (.key s.kvt.nextOp))) ∧
  (∀ (c : CmdRef) (a : KeyAddr) (usage flags : Nat) (key : Bytes) (s : State),
      s.dataHeld c = false ∧ s.keyCheck c a [0, 1, 5] (usageOk a usage flags && key.length == 32) true false = St.ok ∧ a.kind = 5 →
      s.dev.life ≠ 3 ∧ s.regBit Reg.KVT_CTRL 0 = true ∧ s.kvt.pairKey = none ∧ s.keyWritable false = St.ok →
      Completes (.keyImportPlain c a usage flags key true) s fun t =>
        t.kvt.pairKey = some (fit 32 key)) ∧
  (∀ (c : CmdRef) (a : KeyAddr) (usage flags : Nat) (key : Bytes) (ok : Bool) (s : State),
      s.dataHeld c = false ∧ (s.keyCheck c a [0, 1, 5] (usageOk a usage flags && key.length == 32) true false = St.ok ∧ (a.kind = 0 ∧ (a.ref = 4 ∨ a.ref = 5) → s.slotVer a.set a.ref < 0xFFFF)) →
      s.dev.life ≠ 3 ∧ s.regBit Reg.KVT_CTRL 0 = true ∧ s.leafHeld a = true ∧ s.keyWritable (a.kind != 5) = St.ok →
      Completes (.keyUpdatePlain c a usage flags key ok) s fun t =>
        (a.kind = 5 → ok = true → t.kvt.pairKey = some (fit 32 key)) ∧
        (a.kind ≠ 5 → t.kvt.ops = s.kvt.ops ++ [⟨s.kvt.nextOp, c, false, .put (addrPlace a) (s.newBlob a usage flags key), .next⟩] ∧ t.ing.jobs.get? s.ing.nextJob = some (.key s.kvt.nextOp))) ∧
  (∀ (c : CmdRef) (a : KeyAddr) (usage flags : Nat) (ok : Bool) (s : State),
      (s.keyCheck c a [0, 1, 5] (usageOk a usage flags) true false = St.ok ∧ (a.kind = 0 ∧ (a.ref = 4 ∨ a.ref = 5) → s.slotVer a.set a.ref < 0xFFFF)) →
      s.leafHeld a = false ∧ s.keyWritable (a.kind != 5) = St.ok →
      Completes (.keyGenerate c a usage flags ok) s fun t =>
        (a.kind = 5 → ok = true → t.kvt.pairKey = some (fit 32 (le 32 s.drawFree))) ∧
        (a.kind ≠ 5 → t.kvt.ops = s.kvt.ops ++ [⟨s.kvt.nextOp, c, false, .put (addrPlace a) (s.newBlob a usage flags (le 32 s.drawFree)), .next⟩] ∧ t.freeCtr = s.freeCtr + 1)) ∧
  (∀ (c : CmdRef) (a : KeyAddr) (usage flags : Nat) (ok : Bool) (s : State),
      (s.keyCheck c a [0, 1, 5] (usageOk a usage flags) true false = St.ok ∧ (a.kind = 0 ∧ (a.ref = 4 ∨ a.ref = 5) → s.slotVer a.set a.ref < 0xFFFF)) →
      s.leafHeld a = true ∧ s.keyWritable (a.kind != 5) = St.ok →
      Completes (.keyUpdateGenerate c a usage flags ok) s fun t =>
        (a.kind = 5 → ok = true → t.kvt.pairKey = some (fit 32 (le 32 s.drawFree))) ∧
        (a.kind ≠ 5 → t.kvt.ops = s.kvt.ops ++ [⟨s.kvt.nextOp, c, false, .put (addrPlace a) (s.newBlob a usage flags (le 32 s.drawFree)), .next⟩] ∧ t.freeCtr = s.freeCtr + 1)) ∧
  (∀ (c : CmdRef) (a : KeyAddr) (s : State),
      s.keyCheck c a [2] true true false = St.ok ∧ (s.setEntry a.set).1 < 2 ^ 32 - 1 ∧ s.keyWritable true = St.ok →
      Completes (.keyDeleteSet c a 0x5E7D) s fun t =>
        t.kvt.ops = s.kvt.ops ++ [⟨s.kvt.nextOp, c, false, .deleteSet a.set, .next⟩] ∧ t.ing.jobs.get? s.ing.nextJob = some (.key s.kvt.nextOp)) ∧
  (∀ (c : CmdRef) (a : KeyAddr) (s : State),
      a.kind = 2 ∧ s.keyCheck c a [0, 1, 2, 3, 4, 5, 6] true true true = St.ok ∧ (s.setEntry a.set).1 < 2 ^ 32 - 1 ∧ s.keyWritable false = St.ok →
      Completes (.keyInvalidate c a true) s fun t =>
        (t.setEntry a.set).1 = (s.setEntry a.set).1 + 1 ∧ t.kvt.ops.any (fun o => o.id == s.kvt.nextOp && o.stage == .record) = true) ∧
  (∀ (c : CmdRef) (a : KeyAddr) (s : State),
      a.kind = 3 ∧ s.keyCheck c a [0, 1, 2, 3, 4, 5, 6] true true true = St.ok ∧ s.ngen a.inst < 2 ^ 32 - 1 ∧ s.keyWritable false = St.ok →
      Completes (.keyInvalidate c a true) s fun t =>
        t.ngen a.inst = s.ngen a.inst + 1 ∧ t.kvt.ops.any (fun o => o.id == s.kvt.nextOp && o.stage == .record) = true) ∧
  (∀ (c : CmdRef) (a : KeyAddr) (s : State),
      a.kind = 4 ∧ s.keyCheck c a [0, 1, 2, 3, 4, 5, 6] true true true = St.ok ∧ s.igen a.inst < 2 ^ 32 - 1 ∧ s.keyWritable false = St.ok →
      Completes (.keyInvalidate c a true) s fun t =>
        t.igen a.inst = s.igen a.inst + 1 ∧ t.kvt.ops.any (fun o => o.id == s.kvt.nextOp && o.stage == .record) = true) ∧
  (∀ (c : CmdRef) (a : KeyAddr) (s : State),
      a.kind = 5 ∧ s.keyCheck c a [0, 1, 2, 3, 4, 5, 6] true true true = St.ok ∧ s.kvt.pairKey ≠ none ∧ s.keyWritable false = St.ok →
      Completes (.keyInvalidate c a true) s fun t =>
        t.kvt.pairKey = none ∧ t.kvt.ops.any (fun o => o.id == s.kvt.nextOp && o.stage == .record) = true) ∧
  (∀ (c : CmdRef) (a : KeyAddr) (ok : Bool) (s : State),
      a.kind = 6 ∧ s.keyCheck c a [0, 1, 2, 3, 4, 5, 6] true true true = St.ok ∧ c.queue ≤ 256 →
      Completes (.keyInvalidate c a ok) s fun t =>
        Answered c St.ok t ∧ t.kvt.transport = s.kvt.transport.del (a.inst * 16 + a.ref)) ∧
  (∀ (c : CmdRef) (a : KeyAddr) (ok : Bool) (s : State),
      ((a.kind = 0 ∨ a.kind = 1) ∧ s.keyCheck c a [0, 1, 2, 3, 4, 5, 6] true true true = St.ok ∧ s.kvt.blobs.has (addrPlace a) = true) →
      s.keyWritable true = St.ok →
      Completes (.keyInvalidate c a ok) s fun t =>
        t.kvt.ops = s.kvt.ops ++ [⟨s.kvt.nextOp, c, true, .remove (addrPlace a), .next⟩] ∧ t.ing.jobs.get? s.ing.nextJob = some (.key s.kvt.nextOp)) ∧
  (∀ (id : Nat) (op : KeyOp) (s : State),
      s.kvt.ops.find? (fun o => o.id == id && o.stage == .record) = some op ∧ State.keyDurable op.change = true →
      Completes (.keyMirrorUpdate id) s fun t =>
        t.ing.jobs.get? s.ing.nextJob = some (.key id) ∧
        t.kvt.ops = s.kvt.ops.map (fun o => if o.id == id then { o with stage := .second } else o)) ∧
  (∀ (id : Nat) (op : KeyOp) (s : State),
      s.kvt.ops.find? (fun o => o.id == id && o.stage == .record) = some op ∧ State.keyDurable op.change = false ∧ op.cmd.queue ≤ 256 →
      Completes (.keyMirrorUpdate id) s fun t =>
        Answered op.cmd St.ok t ∧ t.kvt.ops = s.kvt.ops.filter (fun o => o.id != id)) ∧
  (∀ (id : Nat) (op : KeyOp) (set i : Nat) (s : State),
      s.kvt.ops.find? (fun o => o.id == id && o.stage == .record) = some op ∧ op.change = .createSet set i →
      Completes (.keyMirrorUpdate id) s fun t =>
        t.kvt.sets.get? set = some i ∧ t.kvt.mirSet.get? set = some (s.setEntry set).1) ∧
  (∀ (id : Nat) (op : KeyOp) (set : Nat) (s : State),
      s.kvt.ops.find? (fun o => o.id == id && o.stage == .record) = some op ∧ op.change = .deleteSet set →
      Completes (.keyMirrorUpdate id) s fun t =>
        t.kvt.sets.get? set = none ∧ t.kvt.blobs = s.kvt.blobs.filter (fun e => !(decide (e.1 < sharedBase) && e.1 / 8 == set))) ∧
  (∀ (id : Nat) (op : KeyOp) (place : Nat) (b : Blob) (s : State),
      s.kvt.ops.find? (fun o => o.id == id && o.stage == .record) = some op ∧ op.change = .put place b ∧ (sharedBase ≤ place ∨ s.kvt.sets.has (place / 8) = true) →
      Completes (.keyMirrorUpdate id) s fun t =>
        t.kvt.blobs.get? place = some b ∧ t.kvt.cache = s.kvt.cache.filter (fun k => k.place != place)) ∧
  (∀ (id : Nat) (op : KeyOp) (place : Nat) (s : State),
      s.kvt.ops.find? (fun o => o.id == id && o.stage == .record) = some op ∧ op.change = .remove place →
      Completes (.keyMirrorUpdate id) s fun t =>
        t.kvt.blobs.get? place = none ∧ t.kvt.cache = s.kvt.cache.filter (fun k => k.place != place)) ∧
  (∀ (id : Nat) (op : KeyOp) (i : Nat) (s : State),
      s.kvt.ops.find? (fun o => o.id == id && o.stage == .record) = some op ∧ op.change = .bumpNgen i ∧ op.cmd.queue ≤ 256 →
      Completes (.keyMirrorUpdate id) s fun t =>
        t.kvt.mirNgen.get? i = some (s.ngen i) ∧ AnsweredWith op.cmd St.ok (s.ngen i % 2 ^ 32) t) ∧
  (∀ (c : CmdRef) (a : KeyAddr) (peer : Bytes) (s : State),
      c.queue ≤ 256 ∧ s.keyCheck c a [6] true false false = St.ok →
      Completes (.keyAgree c a peer true) s fun t =>
        Answered c St.ok t ∧ (t.kvt.transport.get? (a.inst * 16 + a.ref)).map (·.born) = some s.nowSec ∧ t.freeCtr = s.freeCtr + 1) ∧
  (∀ (c : CmdRef) (a : KeyAddr) (k : Nat) (b : Blob) (w : Transport) (s : State),
      c.queue ≤ 256 ∧ s.keyCheck c a [0, 1] (decide (k < 16)) true false = St.ok ∧ s.regBit Reg.KVT_CTRL 1 = true →
      s.kvt.blobs.get? (addrPlace a) = some b ∧ b.bad = false ∧ bitAt (s.leafStatus (addrPlace a)) 2 = false ∧ b.midnight = false ∧ b.mayLeave = true ∧ s.tslot a.inst k = some w →
      Completes (.keyExport c a k) s fun t =>
        Answered c St.ok t ∧ Writes c (kwWrap (roundKeys true w.tk) (fit 32 b.key ++ (le 1 1 ++ le 1 b.usage ++ le 1 (blobFlags b) ++ zeros 1 ++ addrBytes a ++ zeros 4))) s t) ∧
  (∀ (c : CmdRef) (nonce len : Nat) (s : State),
      (c.queue ≤ 256 ∧ 7762 ≤ len ∧ (s.dev.life = 0 → s.kvt.seed.isSome = true)) →
      Completes (.keyAttest c nonce len) s fun t =>
        Answered c St.ok t ∧
        Writes c (s.attestBody nonce ++ State.blockOf s.devKey ++ (if s.dev.life = 4 then zeros 2049 else State.blockOf s.islKey) ++ State.signWith s.devKey (s.attestBody nonce)) s t) ∧
  (∀ (c : CmdRef) (target : Nat) (digest : Bytes) (auth : AuthIn) (s : State),
      c.queue ≤ 256 ∧ s.dataHeld c = false ∧ State.advanceOk s.dev.life target = true ∧ s.dev.tamperHold = false ∧ s.sealRoom = true ∧ s.kvt.ringCap ≠ 0 →
      (s.dev.life = 0 ∨ s.authPasses auth 1 target = true) →
      Completes (.keyLifecycleAdvance c target 0x11FE digest auth true) s fun t =>
        t.dev.life = target ∧ Answered c St.ok t ∧ t.kvt.cache = [] ∧ t.kvt.island = [] ∧ (target = 4 → t.kvt.seed = none) ∧
        (s.dev.life = 0 → t.kvt.auth.get? 0 = some digest) ∧ (s.dev.life = 1 ∧ target = 2 → t.kvt.auth.get? 1 = some auth.digestA ∧ t.kvt.auth.get? 2 = some auth.digestB)) ∧
  (∀ (c : CmdRef) (a : KeyAddr) (data : Bool) (s : State),
      c.queue ≤ 256 ∧ State.keyMine c a = true ∧ addrOk a = true ∧ s.setStatus a = St.ok →
      Completes (.keyStatus c a data) s fun t =>
        AnsweredWith c St.ok ((s.keyView a).1 % 2 ^ 32) t) ∧
  (∀ (i k : Nat) (w : Transport) (s : State),
      s.kvt.transport.get? (i * 16 + k) = some w ∧ w.born + 3600 ≤ s.nowSec →
      Completes (.transportSlotLapse i k) s fun t =>
        t.kvt.transport = s.kvt.transport.filter (fun e => !(e.1 == i * 16 + k && decide (e.2.born + 3600 ≤ s.nowSec))))

/-- Ticks, sources, launches and host commands of time take effect (R431, R433, R434, R435, R437, R438, R440, R445, R446, R448, R510, R618).
A tick adds INCR with its carry and ends PPS_OUT after 1 ms; the device second latches the count, compares CCNT, writes the RTC and raises
PPS_OUT; samples, moved to the port's external point, and announces reach their source, and the servo's first sample sets RATE; losses,
reverts and holdover move the selection and the state; PTP messages go out in one step or two; the host reads, steps, pins and snapshots
time; the launch queue fires and withdraws. What a PTP message's body holds beside its stamps is the model's choice (log entry 117). -/
def Obligations.TimeCommandsComplete : Prop :=
  (∀ (k m w z : Nat) (s : State),
      (w : Int) = ((s.tim.ns * 2 ^ 32 + s.tim.frac : Nat) : Int) + 8 * 2 ^ 32 + s.tim.rate ∧ z = w / 2 ^ 32 →
      Completes (.timeTick k m) s fun t =>
        t.tim.frac = w % 2 ^ 32 ∧ t.tim.ns = (if 1000000000 ≤ z then z - 1000000000 else z) ∧
        t.tim.sec = (s.tim.sec + (if 1000000000 ≤ z then 1 else 0)) % 2 ^ 48 ∧ t.dev.nc = (s.dev.nc + k) % 2 ^ 64 ∧
        t.aon.rtcFrac = (s.aon.rtcFrac + m) % 32768 ∧ t.aon.rtcSec = (s.aon.rtcSec + (s.aon.rtcFrac + m) / 32768) % 2 ^ 48 ∧
        (s.tim.ppsHigh = true → 1000000 ≤ t.tim.ns → t.tim.ppsHigh = false ∧ t.out.head? = some (.pin 1 false))) ∧
  (∀ (a b : Nat) (s : State),
      Completes (.deviceSecond a b) s fun t =>
        t.tim.cs = a ∧ t.tim.ds = a - s.tim.cs ∧ (s.timeValid = true → t.aon.rtcSec = s.tim.sec ∧ t.aon.rtcFrac = 0 ∧ t.aon.rtcValid = true) ∧
        (s.timeValid = true → s.regBit Reg.TIM_CTRL 7 = true → t.tim.ppsHigh = true ∧ t.out.head? = some (.pin 1 true)) ∧
        (a ≠ b → t.reg Reg.TIM_CCNT_SLIP = min (2 ^ 32 - 1) (s.reg Reg.TIM_CCNT_SLIP + 1))) ∧
  (∀ (port : Nat) (t1 t2 at' : Int) (s : State),
      port < 2 ∧ s.ethUp port = true ∧ at' = t2 - s.ethRxNs port →
      Completes (.ptpSyncReceived port t1 t2) s fun t =>
        (t.tim.ports.getD (port + 1) {}).syncDiff = at' - t1 ∧
        (s.sourceOn (port + 1) = true ∧ (s.tim.ports.getD (port + 1) {}).master = false →
          (t.source (port + 1)).offset = at' - t1 - (s.tim.ports.getD (port + 1) {}).delay ∧ (t.source (port + 1)).sampled = true ∧ (t.source (port + 1)).age = 0)) ∧
  (∀ (port : Nat) (t1 t2 x : Int) (s : State),
      port < 2 ∧ s.ethUp port = true ∧ s.sourceOn (port + 1) = true ∧ (s.tim.ports.getD (port + 1) {}).master = false →
      s.tim.selected = port + 1 ∧ x = t2 - s.ethRxNs port - t1 - (s.tim.ports.getD (port + 1) {}).delay →
      Completes (.ptpSyncReceived port t1 t2) s fun t =>
        (s.tim.firstSample = true → t.tim.rate = servoRate (slewMax s) (servoDemand s.tim.freq x 1000000000)) ∧
        (x.natAbs ≤ s.regField Reg.TIM_SERVO 31 16 → t.tim.inLock = s.tim.inLock + 1) ∧
        (s.tim.state = .locking ∧ x.natAbs ≤ s.regField Reg.TIM_SERVO 31 16 ∧ 7 ≤ s.tim.inLock → t.tim.state = .locked)) ∧
  (∀ (at' : Int) (s : State),
      s.sourceOn 3 = true ∧ at' = (s.tim.ns : Int) - 9 - s.regField Reg.TIM_PPS_DELAY 15 0 →
      Completes (.ppsInEdge) s fun t =>
        (t.source 3).offset = (if 500000000 ≤ at' then at' - 1000000000 else at') ∧ (t.source 3).sampled = true ∧ (t.source 3).age = 0) ∧
  (∀ (s : State),
      s.pairLinkUp = true →
      Completes (.partnerTimeExchange none) s fun t =>
        t.out = .pair 7 (le 8 s.nowNs) :: s.out) ∧
  (∀ (t1 : Nat) (s : State),
      s.pairLinkUp = true →
      Completes (.partnerTimeExchange (some t1)) s fun t =>
        t.out = .pair 8 (le 8 t1 ++ le 8 s.nowNs ++ le 8 s.nowNs ++ le 1 (State.timeCode s.tim.state) ++ le 1 s.tim.selected) :: s.out) ∧
  (∀ (t1 t2 t3 t4 : Int) (state source : Nat) (s : State),
      s.sourceOn 4 = true →
      Completes (.partnerTimeReply t1 t2 t3 t4 state source) s fun t =>
        t.tim.partnerLocked = (state == 3 && source != 4) ∧ (t.source 4).sampled = true ∧ (t.source 4).offset = roundDiv ((t2 - t1) - (t4 - t3)) 2) ∧
  (∀ (port : Nat) (s : State),
      port < 2 →
      Completes (.ptpAnnounceTimeout port) s fun t =>
        (t.tim.ports.getD (port + 1) {}).grandmaster = none ∧ (t.source (port + 1)).qualified = false ∧ (t.source (port + 1)).good = 0) ∧
  (∀ (src : Nat) (s : State),
      max 1 (s.regField Reg.TIM_QUAL 15 8) ≤ (s.source src).age →
      Completes (.sourceLossTimeout src) s fun t =>
        (t.source src).qualified = false ∧ (t.source src).good = 0 ∧ (t.source src).disqualified = true ∧
        (s.tim.selected ≠ src → t.tim.selected = s.tim.selected ∧ t.tim.state = s.tim.state)) ∧
  (∀ (src : Nat) (s : State),
      max 1 (s.regField Reg.TIM_QUAL 15 8) ≤ (s.source src).age ∧ (s.source src).qualified = true ∧ s.tim.selected = src →
      Completes (.sourceLossTimeout src) s fun t =>
        (s.tim.state = .locked → t.tim.state = .holdover ∧ t.tim.heldRate = meanRate s.tim.lockedRuns ∧ t.tim.holdSeconds = 0) ∧
        (s.tim.state = .locking ∧ [1, 2, 3, 4].all (fun k => k == src || !(s.source k).qualified || s.prio k == 0) = true →
          t.tim.state = .free ∧ t.tim.selected = 0)) ∧
  (∀ (src : Nat) (s : State),
      s.regBit Reg.TIM_CTRL 2 = true ∧ (s.source src).qualified = true ∧ s.regField Reg.TIM_QUAL 31 16 ≤ (s.source src).qualSecs ∧ s.tim.selected ≠ 0 →
      s.tim.pinned = 0 ∧ s.prio src ≠ 0 ∧ (s.prio src < s.prio s.tim.selected ∨ (s.prio src = s.prio s.tim.selected ∧ src < s.tim.selected)) →
      Completes (.sourceRevert src) s fun t =>
        t.tim.selected = src ∧ (s.tim.state = .locked → t.tim.state = .holdover)) ∧
  (∀ (s : State),
      s.tim.state = .holdover ∧ max 1 (s.reg Reg.TIM_HOLD) ≤ s.tim.holdSeconds →
      Completes (.holdoverExpiry) s fun t =>
        t.tim.state = (if s.tim.selected = 0 then .free else .locking)) ∧
  (∀ (s : State),
      Completes (.tickRefLoss) s fun t =>
        t.tim.tickRef = false) ∧
  (∀ (port : Nat) (s : State),
      port < 2 ∧ ptpMaster s port = true ∧ s.ethUp port = true ∧ bitAt (s.reg (Reg.TIM_PTP_CFG0 + 4 * port)) 2 = false →
      Completes (.ptpSyncSend port) s fun t =>
        t.out = .eth port (le 1 0 ++ le 2 (s.tim.ports.getD (port + 1) {}).seq ++ le 8 (s.ethStamp port)) :: s.out) ∧
  (∀ (port q : Nat) (s : State),
      port < 2 ∧ ptpMaster s port = true ∧ s.ethUp port = true ∧ bitAt (s.reg (Reg.TIM_PTP_CFG0 + 4 * port)) 2 = true ∧ q = (s.tim.ports.getD (port + 1) {}).seq →
      Completes (.ptpSyncSend port) s fun t =>
        t.out = .eth port (le 1 8 ++ le 2 ((q + 1) % 65536) ++ le 8 (s.ethStamp port)) :: .eth port (le 1 0 ++ le 2 q ++ zeros 8) :: s.out) ∧
  (∀ (c : CmdRef) (withData : Bool) (s : State),
      c.queue ≤ 256 →
      Completes (.timRead c withData) s fun t =>
        AnsweredWith c St.ok (s.swStamp % 2 ^ 32) t ∧ t.tim = s.tim ∧
        (withData = true → Writes c (le 8 s.tim.sec ++ le 4 s.tim.ns ++ le 4 s.tim.frac ++ le 8 s.nowNs ++ le 4 (toField 32 s.tim.rate) ++ le 4 (s.reg Reg.TIM_STEP_COUNT)) s t)) ∧
  (∀ (c : CmdRef) (absolute force : Bool) (value : Nat) (d : Int) (s : State),
      c.queue ≤ 256 ∧ stepAsked s absolute value = some d ∧ 0 ≤ (s.nowNs : Int) + d →
      (force = true ∨ s.tim.selected = 0 ∨ s.tim.state = .unset ∨ s.tim.state = .free) →
      Completes (.timStep c absolute force value) s fun t =>
        t.tim.sec = ((s.nowNs : Int) + d).toNat / 1000000000 ∧ t.tim.ns = ((s.nowNs : Int) + d).toNat % 1000000000 ∧ t.tim.frac = 0 ∧
        t.tim.state = (if force = true then .free else s.tim.state) ∧ t.tim.hostStepped = true ∧ AnsweredWith c St.ok (toField 32 d) t) ∧
  (∀ (c : CmdRef) (absolute : Bool) (value : Nat) (d : Int) (s : State),
      c.queue ≤ 256 ∧ stepAsked s absolute value = some d ∧ 0 ≤ (s.nowNs : Int) + d →
      s.tim.selected ≠ 0 ∧ (s.tim.state = .locking ∨ s.tim.state = .locked ∨ s.tim.state = .holdover) →
      Completes (.timStep c absolute false value) s fun t =>
        Answered c 0x0210 t ∧ t.tim = s.tim) ∧
  (∀ (c : CmdRef) (pin : Nat) (rearm : Bool) (s : State),
      c.queue ≤ 256 ∧ pin ≤ 4 →
      Completes (.timSourceSet c pin rearm) s fun t =>
        Answered c St.ok t ∧ t.tim.pinned = pin ∧
        (pin ≠ 0 → (s.source pin).qualified = true ∧ s.prio pin ≠ 0 → t.tim.selected = pin) ∧
        (pin ≠ 0 → (s.source pin).qualified = false ∧ s.tim.selected ≠ pin → t.tim.selected = 0)) ∧
  (∀ (c : CmdRef) (s : State),
      c.queue ≤ 256 →
      Completes (.timStatus c) s fun t =>
        AnsweredWith c St.ok (s.timStatus % 2 ^ 32) t ∧ t.tim = s.tim ∧
        Writes c (le 4 s.timStatus ++ le 4 (toField 32 s.tim.rate) ++ le 4 s.tim.holdSeconds ++ le 4 (s.reg Reg.TIM_STEP_COUNT) ++
          [1, 2, 3, 4].flatMap (fun k => le 1 (sourceCode s k) ++ le 1 (s.prio k) ++ le 2 (min (s.source k).good 65535) ++
            le 4 (State.sat32 (s.source k).offset) ++ le 4 (min (s.source k).age (2 ^ 32 - 1)))) s t) ∧
  (∀ (s : State),
      s.regsOk = true →
      Completes (.timSnap) s fun t =>
        t.reg Reg.TIM_SNAP_SEC_LO = s.tim.sec % 2 ^ 32 ∧ t.reg Reg.TIM_SNAP_SEC_HI = s.tim.sec / 2 ^ 32 % 2 ^ 16 ∧ t.reg Reg.TIM_SNAP_NS = s.tim.ns % 2 ^ 32 ∧ t.reg Reg.TIM_SNAP_SW = s.swStamp) ∧
  (∀ (port : Nat) (a : Announce) (s : State),
      port < 2 ∧ s.ethUp port = true →
      Completes (.ptpAnnounceReceived port a) s fun t =>
        (t.tim.ports.getD (port + 1) {}).grandmaster = some a.grandmaster ∧ (t.tim.ports.getD (port + 1) {}).parentClass = a.clockClass ∧ (t.tim.ports.getD (port + 1) {}).master = a.portMaster ∧
        ((s.tim.ports.getD (port + 1) {}).grandmaster.any (fun g => g != a.grandmaster) = true → (t.source (port + 1)).good = 0)) ∧
  (∀ (port : Nat) (t3 t4 : Int) (s : State),
      port < 2 ∧ s.ethUp port = true →
      Completes (.ptpDelayMessageReceived port (.delayResp t3 t4)) s fun t =>
        (t.tim.ports.getD (port + 1) {}).delay = roundDiv ((s.tim.ports.getD (port + 1) {}).syncDiff + (t4 - (t3 + s.ethTxNs port))) 2) ∧
  (∀ (port : Nat) (t1 t2 t3 t4 : Int) (s : State),
      port < 2 ∧ s.ethUp port = true →
      Completes (.ptpDelayMessageReceived port (.pdelayResp t1 t2 t3 t4)) s fun t =>
        (t.tim.ports.getD (port + 1) {}).delay = roundDiv ((t4 - s.ethRxNs port - (t1 + s.ethTxNs port)) - (t3 - t2)) 2) ∧
  (∀ (port : Nat) (t4 : Int) (s : State),
      port < 2 ∧ s.ethUp port = true ∧ ptpMaster s port = true →
      Completes (.ptpDelayMessageReceived port (.delayReq t4)) s fun t =>
        t.out = .eth port (le 1 9 ++ le 2 (s.tim.ports.getD (port + 1) {}).seq ++ le 8 (toField 64 (t4 - s.ethRxNs port))) :: s.out) ∧
  (∀ (port : Nat) (t2 : Int) (s : State),
      port < 2 ∧ s.ethUp port = true →
      Completes (.ptpDelayMessageReceived port (.pdelayReq t2)) s fun t =>
        t.out = .eth port (le 1 3 ++ le 2 (s.tim.ports.getD (port + 1) {}).seq ++ (le 8 (toField 64 (t2 - s.ethRxNs port)) ++ le 8 (s.ethStamp port))) :: s.out) ∧
  (∀ (port : Nat) (s : State),
      port < 2 ∧ ptpMaster s port = true ∧ s.ethUp port = true →
      Completes (.ptpAnnounceSend port) s fun t =>
        t.out = .eth port (le 1 11 ++ le 2 (s.tim.ports.getD (port + 1) {}).seq ++ le 1 (if s.tim.state = .holdover then 7 else if s.tim.state = .locked then (s.tim.ports.getD s.tim.selected {}).parentClass else 248) ++
          le 8 ((s.tim.ports.getD s.tim.selected {}).grandmaster.getD s.dev.eui)) :: s.out) ∧
  (∀ (port : Nat) (s : State),
      port < 2 ∧ ptpMaster s port = false ∧ s.ethUp port = true →
      Completes (.ptpDelayRequestSend port) s fun t =>
        t.out = .eth port (le 1 (if field (s.reg (Reg.TIM_PTP_CFG0 + 4 * port)) 1 0 = 1 then 2 else 1) ++ le 2 (s.tim.ports.getD (port + 1) {}).seq ++ le 8 (s.ethStamp port)) :: s.out) ∧
  (∀ (e : Launch) (rest : List Launch) (s : State),
      s.tim.queue = e :: rest ∧ e.instant ≤ s.nowNs + s.laneDelay e.lane →
      Completes (.launchFire) s fun t =>
        t.tim.queue = rest ∧ t.tim.fired = s.tim.fired ++ [e]) ∧
  (∀ (id : Nat) (s : State),
      Completes (.launchWithdraw id) s fun t =>
        t.tim.queue = s.tim.queue.filter (fun e => e.id != id || decide (e.instant < s.nowNs + s.laneDelay e.lane + 64)))

/-- Staging, verification, activation and confirmation of firmware take effect (R457, R458, R459, R460, R462, R463, R464, R470, R471, R472).
A download of the first granule opens its stage, a later one goes on at the length staged, bytes short of a granule are held until they fill
it, and the relay's reception opens or resumes the same way; a granule that reads back is programmed and one that fails three times ends the
download in FLASH_FAIL; a discard empties the stage; a whole package that passes every step verifies, and where it is applied becomes the
pending slot, while a step that fails is named in the answer; an activation is scheduled, cancelled, restarts the part at its instant,
reloads the island first where the package carries another one, or ends barred; the confirmation window warns, expires or is closed by
UPD.CONFIRM, which answers STATE_CONFLICT where nothing is pending; a rollback restarts the part from the other slot. -/
def Obligations.UpdateHostCommandsComplete : Prop :=
  (∀ (c : CmdRef) (total : Nat) (data : Bytes) (s : State),
      c.queue ≤ 256 ∧ s.dataHeld c = false ∧ s.stageUser = 0 ∧ total ≤ stageMax ∧ data.length ≤ total ∧ granule ≤ data.length →
      Completes (.updDownloadHost c 0 total data) s fun t =>
        AnsweredQueued c t ∧ t.upd.download = some { cmd := c, rest := data } ∧ t.upd.flash = (s.openStage total).upd.flash) ∧
  (∀ (c : CmdRef) (offset total : Nat) (data : Bytes) (s : State),
      c.queue ≤ 256 ∧ s.dataHeld c = false ∧ s.stageUser = 0 ∧ offset ≠ 0 ∧ offset = s.boot.stageLen ∧ offset + data.length ≤ s.boot.stageTotal ∧ granule ≤ data.length →
      Completes (.updDownloadHost c offset total data) s fun t =>
        AnsweredQueued c t ∧ t.upd.download = some { cmd := c, rest := data } ∧ t.upd.flash = s.upd.flash) ∧
  (∀ (c : CmdRef) (offset total : Nat) (data : Bytes) (s : State),
      c.queue ≤ 256 ∧ s.dataHeld c = false ∧ s.stageUser = 0 ∧ offset ≠ 0 ∧ offset = s.boot.stageLen ∧ offset + data.length < s.boot.stageTotal ∧ data.length < granule →
      Completes (.updDownloadHost c offset total data) s fun t =>
        AnsweredWith c St.ok (s.boot.stageLen % 2 ^ 32) t ∧ t.upd.download = none ∧ t.upd.flash = s.upd.flash) ∧
  (∀ (c : CmdRef) (total : Nat) (s : State),
      c.queue ≤ 256 ∧ s.regBit Reg.UPD_CTRL 1 = true ∧ s.stageUser = 0 ∧ total ≤ stageMax →
      Completes (.updDownloadRelay c 0 total) s fun t =>
        AnsweredQueued c t ∧ t.upd.relayRx = some { cmd := c } ∧ t.upd.flash = (s.openStage total).upd.flash) ∧
  (∀ (c : CmdRef) (offset total : Nat) (s : State),
      c.queue ≤ 256 ∧ s.regBit Reg.UPD_CTRL 1 = true ∧ s.stageUser = 0 ∧ offset ≠ 0 ∧ offset = s.boot.stageLen ∧ offset ≤ s.boot.stageTotal →
      Completes (.updDownloadRelay c offset total) s fun t =>
        AnsweredQueued c t ∧ t.upd.relayRx = some { cmd := c } ∧ t.upd.flash = s.upd.flash) ∧
  (∀ (c : CmdRef) (s : State),
      c.queue ≤ 256 ∧ s.stageUser = 0 →
      Completes (.updDiscardStaging c) s fun t =>
        Answered c St.ok t ∧ t.upd.flash = (s.openStage 0).upd.flash) ∧
  (∀ (fails k : Nat) (s : State),
      fails < 3 ∧ k = s.nextGranule ∧ k ≠ 0 →
      Completes (.flashGranuleDone fails) s fun t =>
        t.upd.flash = (s.stageGranule (s.stageRest.take k)).upd.flash) ∧
  (∀ (fails : Nat) (d : Download) (s : State),
      3 ≤ fails ∧ s.nextGranule ≠ 0 ∧ s.upd.download = some d ∧ d.cmd.queue ≤ 256 →
      Completes (.flashGranuleDone fails) s fun t =>
        AnsweredWith d.cmd 0x0810 (s.boot.stageLen % 2 ^ 32) t ∧ t.upd.download = none ∧ t.upd.flash = s.upd.flash) ∧
  (∀ (c : CmdRef) (sigOk : Bool) (fails : Nat) (s : State),
      c.queue ≤ 256 ∧ s.dev.life ≠ 4 ∧ s.boot.pendValid = false ∧ s.stageUser = 0 ∧ (s.replyQueued c).verifyStep sigOk = 0 →
      Completes (.updVerify c false sigOk fails none) s fun t =>
        AnsweredWith c St.ok (pkFwId s.stageHeader % 2 ^ 32) t ∧ t.upd.flash = s.upd.flash ∧
        (s.regBit Reg.UPD_CTRL 0 = true ∧ s.permits = true →
          [0, 1, 2, 3].all (fun k => !bitAt (s.relayCfg k) 16 || (t.upd.relays.getD k {}).state == 1) = true)) ∧
  (∀ (c : CmdRef) (sigOk : Bool) (fails : Nat) (image : Bytes) (s : State),
      c.queue ≤ 256 ∧ s.dev.life ≠ 4 ∧ s.boot.pendValid = false ∧ s.stageUser = 0 ∧ (s.replyQueued c).verifyStep sigOk = 0 →
      s.stagedImage = some image ∧ sha384 image = pkImageDigest s.stageHeader ∧ fails < 3 →
      Completes (.updVerify c true sigOk fails none) s fun t =>
        Answered c St.ok t ∧ t.upd.flash = ((s.writeSlot (some image)).commitBoot (BootRec.setState (s.writeSlot (some image)).inactive 2)).upd.flash) ∧
  (∀ (c : CmdRef) (apply sigOk : Bool) (fails step : Nat) (s : State),
      c.queue ≤ 256 ∧ s.dev.life ≠ 4 ∧ s.boot.pendValid = false ∧ s.stageUser = 0 ∧ step ≤ 6 →
      Completes (.updVerify c apply sigOk fails (some step)) s fun t =>
        AnsweredQueued c t ∧ t.upd.verify = some c ∧ t.upd.flash = s.upd.flash) ∧
  (∀ (c : CmdRef) (apply sigOk : Bool) (fails : Nat) (s : State),
      c.queue ≤ 256 ∧ s.dev.life ≠ 4 ∧ s.boot.pendValid = false ∧ s.stageUser = 0 ∧ (s.replyQueued c).verifyStep sigOk ≠ 0 →
      Completes (.updVerify c apply sigOk fails none) s fun t =>
        Answered c St.checkFailed t ∧ t.upd = s.upd) ∧
  (∀ (c : CmdRef) (when' calId launchAt ns : Nat) (s : State),
      c.queue ≤ 256 ∧ s.activateBarred = false ∧ s.upd.activation = none ∧ when' < 3 ∧ ns = launchAt / 2 ^ 30 * 1000000000 + launchAt % 2 ^ 30 →
      (when' = 1 → calId < 16 ∧ (s.fwCal calId).any (fun b => leAt b 52 2 != 0) = true) →
      (when' = 2 → State.stampBad launchAt = false ∧ s.nowNs + 1000000000 ≤ ns) →
      Completes (.updActivate c when' calId launchAt) s fun t =>
        AnsweredQueued c t ∧ t.upd.activation = some ⟨c, when', calId, ns, if when' = 1 then s.fwNight calId else none⟩) ∧
  (∀ (c : CmdRef) (a : Activation) (s : State),
      c.queue ≤ 256 ∧ s.upd.activation = some a →
      Completes (.updActivateCancel c) s fun t =>
        Answered c St.ok t ∧ t.upd.activation = none ∧
        (a.cmd.queue ≤ 256 → t.cmd.results.any (fun r => r.queue == a.cmd.queue && r.tag == a.cmd.tag && r.status == 0x0214) = true)) ∧
  (∀ (a : Activation) (loadOk : Bool) (drained : Nat) (s : State),
      s.upd.activation = some a ∧ s.activationDue a = true ∧ s.activateBarred = false ∧ s.islandDiffers = false →
      Completes (.activationInstant loadOk false drained) s fun t =>
        t.upd.activation = none ∧ t.dev.state = .dawn ∧ t.dev.stage = 0 ∧
        t.upd.flash = (s.commitBoot (fun b => { b with pendValid := true, pending := s.inactive, unconf := 0 })).upd.flash) ∧
  (∀ (a : Activation) (drained : Nat) (s : State),
      s.upd.activation = some a ∧ s.activationDue a = true ∧ s.activateBarred = false ∧ s.islandDiffers = true ∧ s.met.sealState = 0 ∧ s.sealRoom = true →
      Completes (.activationInstant true false drained) s fun t =>
        t.upd.activation = none ∧ t.dev.state = .dawn ∧ t.met.swId = pkIslSw (s.slotHeader s.inactive)) ∧
  (∀ (a : Activation) (loadOk cut : Bool) (drained : Nat) (s : State),
      s.upd.activation = some a ∧ s.activationDue a = true ∧ s.activateBarred = true ∧ a.cmd.queue ≤ 256 →
      Completes (.activationInstant loadOk cut drained) s fun t =>
        Answered a.cmd St.stateConflict t ∧ t.upd.activation = none ∧ t.dev = s.dev ∧ t.upd.flash = s.upd.flash) ∧
  (∀ (s : State),
      s.windowGone.any (fun w => decide (540000000000 ≤ w)) = true ∧ s.upd.warned = false →
      Completes (.confirmWindowWarning) s fun t =>
        t.upd.warned = true) ∧
  (∀ (drained : Nat) (s : State),
      s.windowGone.any (fun w => decide (600000000000 ≤ w)) = true →
      Completes (.confirmWindowExpiry drained) s fun t =>
        t.dev.state = .dawn ∧ t.dev.stage = 0 ∧ t.upd.flash = s.upd.flash) ∧
  (∀ (c : CmdRef) (s : State),
      c.queue ≤ 256 ∧ s.windowGone.any (fun w => decide (w < 600000000000)) = true ∧ s.upd.slot = s.boot.pending →
      Completes (.updConfirm c (pkFwId (s.slotHeader s.boot.pending))) s fun t =>
        Answered c St.ok t ∧ t.upd.confirmFrom = none ∧
        t.upd.flash = (s.commitBoot (fun b => { b with active := b.pending, pendValid := false, unconf := 0, floor := max b.floor (pkFloor (s.slotHeader s.boot.pending)) })).upd.flash ∧
        (s.Sound → s.boot.rseq < 2 ^ 32 - 1 → t.boot.active = s.boot.pending ∧ t.boot.pendValid = false ∧ t.boot.floor = max s.boot.floor (pkFloor (s.slotHeader s.boot.pending)))) ∧
  (∀ (c : CmdRef) (fwId : Nat) (s : State),
      c.queue ≤ 256 ∧ s.boot.pendValid = false →
      Completes (.updConfirm c fwId) s fun t =>
        Answered c St.stateConflict t ∧ t.upd = s.upd) ∧
  (∀ (c : CmdRef) (sigOk : Bool) (drained : Nat) (s : State),
      s.boot.pendValid = false ∧ s.bootable s.inactive sigOk = true →
      Completes (.updRollback c 0x00002B1C sigOk drained) s fun t =>
        t.dev.state = .dawn ∧ t.dev.stage = 0 ∧ t.upd.flash = (s.commitBoot (fun b => { b with active := s.inactive })).upd.flash)

/-- Firmware campaigns for endpoints take effect (R469, R470). A campaign's image is loaded; the campaign starts paused outside its nights
and running inside one; its status is given; an abort ends it, answers its command and leaves what the next night sends, and of no campaign
answers OK; a window pauses it, resumes it and sends what an abort left; a query of reports goes to the endpoints still open, and with none
open the campaign ends and is answered; the deadline ends it and answers its command. -/
def Obligations.UpdateCampaignCommandsComplete : Prop :=
  (∀ (c : CmdRef) (campaign imageId : Nat) (image : Bytes) (s : State),
      c.queue ≤ 256 ∧ s.dataHeld c = false ∧ image.length ≤ 4194304 ∧ campaign < 2 →
      Completes (.updCampaignLoad c campaign imageId image) s fun t =>
        Answered c St.ok t ∧ t.upd.images.get? campaign = some (imageId, image)) ∧
  (∀ (c : CmdRef) (p : FwStartIn) (img : Bytes) (x : FwCampaign) (s : State),
      c.queue ≤ 256 ∧ s.dataHeld c = false ∧ p.campaign < 2 ∧ p.calId < 16 ∧ p.media < 8 ∧ p.group % 2 = 1 ∧ 1 ≤ p.repeats ∧ p.repeats ≤ 4 ∧ 1 ≤ p.remulti ∧ p.remulti ≤ 100 →
      (1 ≤ p.deadlineH ∧ p.deadlineH ≤ 8760 ∧ p.endpoints ≠ [] ∧ p.endpoints.length ≤ 262144 ∧ p.endpoints.all (fun i => decide (i < 2 ^ 21)) = true ∧ p.endpoints.any (s.bilForeign c) = false) →
      (State.stampBad p.activateAt = false ∧ s.upd.campaigns.has p.campaign = false ∧ s.upd.images.get? p.campaign = some (p.imageId, img)) →
      x = { cmd := c, calId := p.calId, media := p.media, keyref := p.keyref, group := p.group, repeats := p.repeats, remulti := p.remulti, imageId := p.imageId, activateAt := p.activateAt, image := img, start := s.stamp, deadline := s.tim.sec + p.deadlineH * 3600, endpoints := p.endpoints.eraseDups } →
      s.fwMay = false ∨ s.fwNight p.calId = none →
      Completes (.updCampaignStart c p) s fun t =>
        AnsweredQueued c t ∧ t.upd.campaigns.get? p.campaign = some x) ∧
  (∀ (c : CmdRef) (p : FwStartIn) (img : Bytes) (x : FwCampaign) (night : Nat) (s : State),
      c.queue ≤ 256 ∧ s.dataHeld c = false ∧ p.campaign < 2 ∧ p.calId < 16 ∧ p.media < 8 ∧ p.group % 2 = 1 ∧ 1 ≤ p.repeats ∧ p.repeats ≤ 4 ∧ 1 ≤ p.remulti ∧ p.remulti ≤ 100 →
      (1 ≤ p.deadlineH ∧ p.deadlineH ≤ 8760 ∧ p.endpoints ≠ [] ∧ p.endpoints.length ≤ 262144 ∧ p.endpoints.all (fun i => decide (i < 2 ^ 21)) = true ∧ p.endpoints.any (s.bilForeign c) = false) →
      (State.stampBad p.activateAt = false ∧ s.upd.campaigns.has p.campaign = false ∧ s.upd.images.get? p.campaign = some (p.imageId, img)) →
      x = { cmd := c, calId := p.calId, media := p.media, keyref := p.keyref, group := p.group, repeats := p.repeats, remulti := p.remulti, imageId := p.imageId, activateAt := p.activateAt, image := img, start := s.stamp, deadline := s.tim.sec + p.deadlineH * 3600, endpoints := p.endpoints.eraseDups } →
      s.fwMay = true ∧ s.fwNight p.calId = some night ∧ (s.arcUp = true → x.endpoints.any (fun i => !(s.fwReport x i).1 && !(s.fwReport x i).2.1) = true) →
      Completes (.updCampaignStart c p) s fun t =>
        t.cmd.results.any (fun r => r.queue == c.queue && r.tag == c.tag && r.queued) = true ∧
        (t.upd.campaigns.get? p.campaign).map (fun y => (y.paused, y.lastNight, y.nights)) = some (false, some night, 1)) ∧
  (∀ (c : CmdRef) (scope : Nat) (s : State),
      c.queue ≤ 256 ∧ scope ≤ 2 →
      Completes (.updStatus c scope) s fun t =>
        AnsweredWith c St.ok (s.updStatus % 2 ^ 32) t ∧ t.upd = s.upd ∧
        (scope = 0 → Writes c (fit 64 (fit 28 s.boot.head ++ le 4 s.dev.fwId ++ le 4 (pkFwId (s.slotHeader 0)) ++ le 4 (pkFwId (s.slotHeader 1)) ++ le 4 s.confirmLeft ++ le 4 (pkFwId s.stageHeader))) s t) ∧
        (scope ≠ 0 → ∀ x, s.upd.campaigns.get? (scope - 1) = some x →
          Writes c (fit 64 (le 4 x.imageId ++ le 4 x.endpoints.length ++ le 4 x.confirmed.length ++ le 4 x.failed.length ++ le 4 x.nights ++ le 4 x.segments ++ le 8 x.start)) s t)) ∧
  (∀ (c : CmdRef) (k : Nat) (x : FwCampaign) (s : State),
      c.queue ≤ 256 ∧ s.upd.campaigns.get? k = some x →
      Completes (.updCampaignAbort c k) s fun t =>
        Answered c St.ok t ∧ t.upd.campaigns = s.upd.campaigns.del k ∧ t.upd.aborts.get? k = some x ∧
        (x.cmd.queue ≤ 256 → t.cmd.results.any (fun r => r.queue == x.cmd.queue && r.tag == x.cmd.tag && r.status == 0x0214) = true)) ∧
  (∀ (c : CmdRef) (k : Nat) (s : State),
      c.queue ≤ 256 ∧ s.upd.campaigns.get? k = none →
      Completes (.updCampaignAbort c k) s fun t =>
        Answered c St.ok t ∧ t.upd = s.upd) ∧
  (∀ (k : Nat) (x : FwCampaign) (s : State),
      s.upd.aborts.get? k = some x ∧ s.upd.campaigns.get? k = none ∧ s.fwMay = true ∧ (s.fwNight x.calId).isSome = true →
      Completes (.updCampaignWindow k) s fun t =>
        t.upd.aborts = s.upd.aborts.del k) ∧
  (∀ (k : Nat) (x : FwCampaign) (s : State),
      (s.upd.aborts.get? k = none ∧ s.upd.campaigns.get? k = some x ∧ x.paused = false ∧ (s.fwMay = false ∨ s.fwNight x.calId = none)) →
      Completes (.updCampaignWindow k) s fun t =>
        (t.upd.campaigns.get? k).map (·.paused) = some true) ∧
  (∀ (k : Nat) (x : FwCampaign) (night : Nat) (s : State),
      s.upd.aborts.get? k = none ∧ s.upd.campaigns.get? k = some x ∧ x.paused = true ∧ s.fwMay = true ∧ s.fwNight x.calId = some night ∧ (s.arcUp = true → (State.fwOpenEps x).any (fun i => !(s.fwReport x i).1 && !(s.fwReport x i).2.1) = true) →
      Completes (.updCampaignWindow k) s fun t =>
        (t.upd.campaigns.get? k).map (·.paused) = some false ∧ (t.upd.campaigns.get? k).map (·.lastNight) = some (some night)) ∧
  (∀ (k : Nat) (x : FwCampaign) (s : State),
      s.upd.campaigns.get? k = some x ∧ x.paused = false ∧ s.arcUp = true ∧ (State.fwOpenEps x).any (fun i => !(s.fwReport x i).1 && !(s.fwReport x i).2.1) = true →
      Completes (.updCampaignReportQuery k) s fun t =>
        (t.upd.campaigns.get? k).map (fun y => (y.confirmed, y.failed)) = some (x.confirmed ++ (State.fwOpenEps x).filter (fun i => (s.fwReport x i).1), x.failed ++ (State.fwOpenEps x).filter (fun i => !(s.fwReport x i).1 && (s.fwReport x i).2.1)) ∧
        (∀ i, State.fwOpenEps x = [i] → (t.upd.campaigns.get? k).map (·.missing) =
          some (if (s.fwReport x i).2.2.isEmpty = true then x.missing.del i else x.missing.put i (s.fwReport x i).2.2))) ∧
  (∀ (k : Nat) (x : FwCampaign) (s : State),
      Tab.sorted s.upd.campaigns = true ∧ x.cmd.queue ≤ 256 →
      s.upd.campaigns.get? k = some x ∧ x.paused = false ∧ s.arcUp = true ∧ (State.fwOpenEps x).all (fun i => (s.fwReport x i).1 || (s.fwReport x i).2.1) = true →
      Completes (.updCampaignReportQuery k) s fun t =>
        t.upd.campaigns = s.upd.campaigns.del k ∧ AnsweredWith x.cmd St.ok ((x.confirmed ++ (State.fwOpenEps x).filter (fun i => (s.fwReport x i).1)).length % 2 ^ 32) t) ∧
  (∀ (k : Nat) (x : FwCampaign) (s : State),
      s.upd.campaigns.get? k = some x ∧ x.deadline ≤ s.tim.sec ∧ x.cmd.queue ≤ 256 →
      Completes (.updCampaignDeadline k) s fun t =>
        t.upd.campaigns = s.upd.campaigns.del k ∧ AnsweredWith x.cmd 0x0213 (x.confirmed.length % 2 ^ 32) t)

/-- Relay messages between parts take effect (R466, R467, R468, R472). An OFFER that fits is kept and accepted, and one that does not is
refused with its code; a message that is not sound is dropped; an ACCEPT starts the data at its offset; a REFUSE, a RESULT and a timeout
move the relay of their successor, which resends ten times before it ends; DATA in order is held and DATA out of order is acknowledged
again; an ACK moves the window; DONE compares the digest and completes the download. -/
def Obligations.RelayMessagesComplete : Prop :=
  (∀ (d : RelayIn) (r : RelayRx) (s : State),
      d.dport = s.regField Reg.UPD_RX_PORT 15 0 ∧ s.ethUp d.eth = true ∧ relaySound d.bytes = true ∧ relayKind d.bytes = 1 →
      s.offerCode d = 0 ∧ s.upd.relayRx = some r →
      Completes (.relayOfferReceived d) s fun t =>
        t.upd.relayRx = some { r with offer := some ((relayBody d.bytes).take 48, leAt (relayBody d.bytes) 48 4, leAt (relayBody d.bytes) 52 4), held := [], chunks := 0 } ∧
        (s.permits = true → t.out.head? = some (.udp d.eth d.address d.port (relayBytes 2 s.dev.eui s.boot.stageLen [])))) ∧
  (∀ (d : RelayIn) (s : State),
      d.dport = s.regField Reg.UPD_RX_PORT 15 0 ∧ s.ethUp d.eth = true ∧ relaySound d.bytes = true ∧ relayKind d.bytes = 1 ∧ s.offerCode d ≠ 0 →
      Completes (.relayOfferReceived d) s fun t =>
        t.upd = s.upd ∧ (s.permits = true → t.out.head? = some (.udp d.eth d.address d.port (relayBytes 3 s.dev.eui 0 (le 1 (s.offerCode d)))))) ∧
  (∀ (d : RelayIn) (s : State),
      d.dport = s.regField Reg.UPD_RX_PORT 15 0 ∧ s.ethUp d.eth = true ∧ relaySound d.bytes = false →
      Completes (.relayOfferReceived d) s fun t =>
        t.upd = s.upd ∧ t.out = s.out ∧ t.reg Reg.UPD_RELAY_DROP = min (2 ^ 32 - 1) (s.reg Reg.UPD_RELAY_DROP + 1)) ∧
  (∀ (d : RelayIn) (k : Nat) (s : State),
      d.dport = s.regField Reg.UPD_RX_PORT 15 0 ∧ s.ethUp d.eth = true ∧ relaySound d.bytes = true ∧ relayKind d.bytes = 2 →
      s.relayFrom d = some k ∧ (s.upd.relays.getD k {}).state = 1 →
      Completes (.relayAcceptReceived d) s fun t =>
        (t.upd.relays.getD k {}).state = 2 ∧ (t.upd.relays.getD k {}).acked = min (relayOffset d.bytes) s.boot.stageTotal ∧ (t.upd.relays.getD k {}).resends = 0 ∧
        (relayOffset d.bytes < s.boot.stageTotal → (t.upd.relays.getD k {}).sent = min s.boot.stageTotal (relayOffset d.bytes + 65536) ∧
          (s.permits = true → .udp d.eth d.address d.port (relayBytes 4 s.dev.eui (relayOffset d.bytes)
            (s.upd.flash.bytes (stageBase + relayOffset d.bytes) (min chunk (s.boot.stageTotal - relayOffset d.bytes)))) ∈ t.out)) ∧
        (s.boot.stageTotal ≤ relayOffset d.bytes → s.permits = true → .udp d.eth d.address d.port (relayBytes 6 s.dev.eui 0 []) ∈ t.out)) ∧
  (∀ (d : RelayIn) (k : Nat) (s : State),
      d.dport = s.regField Reg.UPD_RX_PORT 15 0 ∧ s.ethUp d.eth = true ∧ relaySound d.bytes = true ∧ relayKind d.bytes = 3 →
      (s.relayFrom d = some k ∧ ((s.upd.relays.getD k {}).state = 1 ∨ (s.upd.relays.getD k {}).state = 2)) →
      Completes (.relayRefuseReceived d) s fun t =>
        (t.upd.relays.getD k {}).state = 5 ∧ (t.upd.relays.getD k {}).code = byteAt (relayBody d.bytes) 0) ∧
  (∀ (d : RelayIn) (r : RelayRx) (s : State),
      d.dport = s.regField Reg.UPD_RX_PORT 15 0 ∧ s.ethUp d.eth = true ∧ relaySound d.bytes = true ∧ relayKind d.bytes = 4 →
      s.upd.relayRx = some r ∧ r.offer.isSome = true ∧ s.fromPred d = true ∧ relayBody d.bytes ≠ [] ∧ (relayBody d.bytes).length ≤ chunk →
      relayOffset d.bytes + (relayBody d.bytes).length ≤ s.boot.stageTotal ∧ relayOffset d.bytes = s.relayGot →
      Completes (.relayDataReceived d) s fun t =>
        (t.upd.relayRx.map (·.held)) = some (r.held ++ relayBody d.bytes) ∧
        (s.permits = true → 15 ≤ r.chunks ∨ relayOffset d.bytes + (relayBody d.bytes).length = s.boot.stageTotal →
          t.out.head? = some (.udp d.eth d.address d.port (relayBytes 5 s.dev.eui (relayOffset d.bytes + (relayBody d.bytes).length) [])))) ∧
  (∀ (d : RelayIn) (r : RelayRx) (s : State),
      d.dport = s.regField Reg.UPD_RX_PORT 15 0 ∧ s.ethUp d.eth = true ∧ relaySound d.bytes = true ∧ relayKind d.bytes = 4 →
      s.upd.relayRx = some r ∧ r.offer.isSome = true ∧ s.fromPred d = true ∧ relayBody d.bytes ≠ [] ∧ (relayBody d.bytes).length ≤ chunk →
      relayOffset d.bytes + (relayBody d.bytes).length ≤ s.boot.stageTotal ∧ relayOffset d.bytes ≠ s.relayGot →
      Completes (.relayDataReceived d) s fun t =>
        t.upd = s.upd ∧ (s.permits = true → t.out.head? = some (.udp d.eth d.address d.port (relayBytes 5 s.dev.eui s.relayGot [])))) ∧
  (∀ (d : RelayIn) (k : Nat) (s : State),
      d.dport = s.regField Reg.UPD_RX_PORT 15 0 ∧ s.ethUp d.eth = true ∧ relaySound d.bytes = true ∧ relayKind d.bytes = 5 →
      s.relayFrom d = some k ∧ (s.upd.relays.getD k {}).state = 2 ∧ (s.upd.relays.getD k {}).acked < relayOffset d.bytes ∧ relayOffset d.bytes ≤ (s.upd.relays.getD k {}).sent →
      Completes (.relayAckReceived d) s fun t =>
        (t.upd.relays.getD k {}).acked = relayOffset d.bytes ∧ (t.upd.relays.getD k {}).resends = 0) ∧
  (∀ (d : RelayIn) (r : RelayRx) (digest : Bytes) (len id : Nat) (s : State),
      d.dport = s.regField Reg.UPD_RX_PORT 15 0 ∧ s.ethUp d.eth = true ∧ relaySound d.bytes = true ∧ relayKind d.bytes = 6 →
      s.upd.relayRx = some r ∧ r.offer = some (digest, len, id) ∧ s.fromPred d = true ∧ s.boot.stageLen = s.boot.stageTotal ∧ s.upd.download = none ∧ r.cmd.queue ≤ 256 →
      Completes (.relayDoneReceived d) s fun t =>
        t.upd.relayRx = none ∧ Answered r.cmd (if sha384 s.staged = digest then St.ok else St.checkFailed) t) ∧
  (∀ (d : RelayIn) (k : Nat) (s : State),
      d.dport = s.regField Reg.UPD_RX_PORT 15 0 ∧ s.ethUp d.eth = true ∧ relaySound d.bytes = true ∧ relayKind d.bytes = 7 →
      s.relayFrom d = some k ∧ (s.upd.relays.getD k {}).state = 2 →
      Completes (.relayResultReceived d) s fun t =>
        (t.upd.relays.getD k {}).state = (if byteAt (relayBody d.bytes) 0 = 0 then 3 else 4) ∧ (t.upd.relays.getD k {}).code = byteAt (relayBody d.bytes) 0) ∧
  (∀ (k : Nat) (x : RelayTx) (s : State),
      (s.upd.relays.get? k = some x ∧ (x.state = 1 ∨ x.state = 2) ∧ x.resends < 10) →
      Completes (.relayProgressTimeout k) s fun t =>
        (t.upd.relays.getD k {}).resends = x.resends + 1 ∧ (t.upd.relays.getD k {}).state = x.state ∧ (t.upd.relays.getD k {}).acked = x.acked) ∧
  (∀ (k : Nat) (x : RelayTx) (s : State),
      (s.upd.relays.get? k = some x ∧ (x.state = 1 ∨ x.state = 2) ∧ 10 ≤ x.resends) →
      Completes (.relayProgressTimeout k) s fun t =>
        (t.upd.relays.getD k {}).state = 4 ∧ (t.upd.relays.getD k {}).code = x.code)

/-- The ROM loader serves its seven commands and the service protocol its two (R467, R456, R474, R476, R67). A sound packet heard alone by
the port that serves it is answered with its SEQ: status OK where its arguments are good, with IDENT's identity, ERASE erasing the region,
WRITE programming it where its bytes read back, READ returning bytes, CHECK making a slot that passes VALID, SELECT committing the slot as
pending, RESTART beginning DAWN with cause 0x01, and REG_READ returning the register's word; and where a region, address, length, slot or
flash operation fails, with the status that says so. A packet incomplete after the silence is discarded. -/
def Obligations.LoaderAnswers : Prop :=
  (∀ (p : PortIn) (seq : Nat) (s : State),
      s.Hears p .loader 1 seq [] →
      Completes (.loaderIdent p) s fun t =>
        t.Answers p 1 seq 0 s.identBody) ∧
  (∀ (p : PortIn) (seq r fails : Nat) (s : State),
      s.Hears p .loader 2 seq (le 1 r) ∧ r < 3 ∧ fails < 3 →
      Completes (.loaderErase p fails) s fun t =>
        t.Answers p 2 seq 0 [] ∧ t.upd.flash = s.upd.flash.erase (regionBase r) (regionSize r) ∧ (r < 2 → t.loaderState r = 0)) ∧
  (∀ (p : PortIn) (seq r fails : Nat) (s : State),
      s.Hears p .loader 2 seq (le 1 r) ∧ r < 256 ∧ (3 ≤ r ∨ 3 ≤ fails) →
      Completes (.loaderErase p fails) s fun t =>
        t.Answers p 2 seq (if 3 ≤ r then 3 else 5) []) ∧
  (∀ (p : PortIn) (seq r a fails : Nat) (x : Bytes) (s : State),
      s.Hears p .loader 3 seq (le 1 r ++ le 4 a ++ x) ∧ r < 3 ∧ a < 2 ^ 32 ∧ fails < 3 →
      x.length ≤ 4080 ∧ a + x.length ≤ regionSize r →
      (s.upd.flash.program (regionBase r + a) x).bytes (regionBase r + a) x.length = x →
      Completes (.loaderWrite p fails) s fun t =>
        t.Answers p 3 seq 0 [] ∧ t.upd.flash = s.upd.flash.program (regionBase r + a) x ∧ (r < 2 → t.loaderState r = 1)) ∧
  (∀ (p : PortIn) (seq r a fails : Nat) (x : Bytes) (s : State),
      s.Hears p .loader 3 seq (le 1 r ++ le 4 a ++ x) ∧ r < 3 ∧ a < 2 ^ 32 →
      x.length ≤ 4080 ∧ a + x.length ≤ regionSize r →
      (3 ≤ fails ∨ (s.upd.flash.program (regionBase r + a) x).bytes (regionBase r + a) x.length ≠ x) →
      Completes (.loaderWrite p fails) s fun t =>
        t.Answers p 3 seq 5 []) ∧
  (∀ (p : PortIn) (seq r a n : Nat) (s : State),
      s.Hears p .loader 4 seq (le 1 r ++ le 4 a ++ le 2 n) ∧ r < 3 ∧ n ≤ 4080 ∧ a + n ≤ regionSize r ∧ a < 2 ^ 32 →
      Completes (.loaderRead p) s fun t =>
        t.Answers p 4 seq 0 (s.upd.flash.bytes (regionBase r + a) n)) ∧
  (∀ (p : PortIn) (seq r a n : Nat) (s : State),
      s.Hears p .loader 4 seq (le 1 r ++ le 4 a ++ le 2 n) ∧ r < 256 ∧ n < 65536 ∧ a < 2 ^ 32 ∧ (3 ≤ r ∨ 4080 < n ∨ regionSize r < a + n) →
      Completes (.loaderRead p) s fun t =>
        t.Answers p 4 seq 3 []) ∧
  (∀ (p : PortIn) (seq k : Nat) (sigOk : Bool) (s : State),
      s.Hears p .loader 5 seq (le 1 k) ∧ k < 2 ∧ s.slotPasses k sigOk = true →
      Completes (.loaderCheck p sigOk) s fun t =>
        t.Answers p 5 seq 0 [] ∧ t.loaderState k = 2) ∧
  (∀ (p : PortIn) (seq k : Nat) (sigOk : Bool) (s : State),
      s.Hears p .loader 5 seq (le 1 k) ∧ k < 2 ∧ s.slotPasses k sigOk = false →
      Completes (.loaderCheck p sigOk) s fun t =>
        t.Answers p 5 seq 4 [] ∧ t.upd = s.upd) ∧
  (∀ (p : PortIn) (seq k : Nat) (sigOk : Bool) (s : State),
      s.Hears p .loader 6 seq (le 1 k) ∧ k < 2 ∧ s.slotPasses k sigOk = true ∧ s.loaderState k = 2 →
      Completes (.loaderSelect p sigOk) s fun t =>
        t.Answers p 6 seq 0 [] ∧
        t.upd.flash = (s.commitBoot (fun b => { b with stateA := s.loaderStates.1, stateB := s.loaderStates.2, pendValid := true, pending := k, unconf := 0 })).upd.flash ∧
        (s.Sound → s.boot.rseq < 2 ^ 32 - 1 → t.boot.pendValid = true ∧ t.boot.pending = k ∧ t.boot.unconf = 0)) ∧
  (∀ (p : PortIn) (seq k : Nat) (sigOk : Bool) (s : State),
      s.Hears p .loader 6 seq (le 1 k) ∧ k < 2 ∧ (s.slotPasses k sigOk = false ∨ s.loaderState k ≠ 2) →
      Completes (.loaderSelect p sigOk) s fun t =>
        t.Answers p 6 seq 4 [] ∧ t.upd = s.upd) ∧
  (∀ (p : PortIn) (seq : Nat) (s : State),
      s.Hears p .loader 7 seq [] →
      Completes (.loaderRestart p) s fun t =>
        t.dev.state = .dawn ∧ t.dev.stage = 0 ∧ t.reg Reg.GLB_STATE_CAUSE % 256 = 0x01) ∧
  (∀ (port : Nat) (s : State),
      s.serves port ≠ .silent →
      ((s.portLook port).port port).rx ≠ [] ∧ packetWhole ((s.portLook port).port port).rx = false →
      Completes (.packetSilenceTimeout port) s fun t =>
        (t.port port).rx = [] ∧ t.reg Reg.SVC_PKT_SILENCE_DROP = min (2 ^ 32 - 1) ((s.portLook port).reg Reg.SVC_PKT_SILENCE_DROP + 1)) ∧
  (∀ (p : PortIn) (seq : Nat) (s : State),
      s.Hears p .service 1 seq [] →
      Completes (.svcIdent p) s fun t =>
        t.Answers p 1 seq 0 s.identBody) ∧
  (∀ (p : PortIn) (seq w off : Nat) (s : State),
      s.Hears p .service 16 seq (le 1 w ++ le 2 off) →
      w ≤ 0x16 ∧ off % 4 = 0 ∧ off < 65536 →
      Completes (.svcRegRead p) s fun t =>
        t.Answers p 16 seq 0 (le 4 (((s.takeIn p).portLook (State.portOf p)).shown (windowBase w + off) 0)))

/-- SSP and OSP move their bytes, NAKs and floods (R475, R477, R478, R479, R480, R481). With SSP's domain on, PUT adds the bytes that fit to
the receive stream, GET takes up to 255 bytes from the transmit stream after their count, STAT sends the status byte and clears FAULT, one
cut short sets FAULT and an unknown one is counted; OSP sends a due NAK or response while the line is dark, not flooded and not busy, and
waits otherwise; a flood starts and clears; a framing error and a flood discard the frame and owe a NAK, a response or NAK that waits out
its time in a flood is dropped and counted, and the loader moves to OSP once. -/
def Obligations.ServicePortCommandsComplete : Prop :=
  (∀ (x : SspIn) (b : Bytes) (s : State),
      (s.domain 9).state = .on ∧ x.op = 1 ∧ 8 ≤ x.edges →
      s.serves 0 ≠ .silent ∧ (s.port 0).rx = [] ∧ b.length ≤ streamCap ∧ b.head? = some sof ∧ packetLen b ≤ 4096 ∧ packetWhole b = false →
      Completes (.sspPut x b false) s fun t =>
        (t.port 0).rx = b ∧ t.reg Reg.SVC_SSP_TRANSACTIONS = min (2 ^ 32 - 1) (s.reg Reg.SVC_SSP_TRANSACTIONS + 1) ∧ t.svc.mode3 = x.mode3 ∧
        t.out.head? = some (.service 0 (List.replicate b.length 0xFF#8))) ∧
  (∀ (x : SspIn) (b : Bytes) (midByte : Bool) (s : State),
      (s.domain 9).state = .on ∧ x.op = 1 ∧ 8 ≤ x.edges →
      Completes (.sspPut x b midByte) s fun t =>
        (streamCap - (s.port 0).rx.length < b.length → t.svc.fault = true ∧ t.reg Reg.SVC_SSP_OVERRUN = min (2 ^ 32 - 1) (s.reg Reg.SVC_SSP_OVERRUN + 1)) ∧
        (midByte = true → t.svc.fault = true ∧ t.reg Reg.SVC_SSP_PARTIAL = min (2 ^ 32 - 1) (s.reg Reg.SVC_SSP_PARTIAL + 1))) ∧
  (∀ (x : SspIn) (b : Bytes) (midByte : Bool) (s : State),
      (s.domain 9).state = .on ∧ x.edges < 8 →
      Completes (.sspPut x b midByte) s fun t =>
        t.svc.fault = true ∧ t.reg Reg.SVC_SSP_SHORT = min (2 ^ 32 - 1) (s.reg Reg.SVC_SSP_SHORT + 1) ∧ t.svc.ports = s.svc.ports ∧ t.out = s.out) ∧
  (∀ (x : SspIn) (b : Bytes) (midByte : Bool) (s : State),
      (s.domain 9).state = .on ∧ 8 ≤ x.edges ∧ x.op ≠ 1 ∧ x.op ≠ 2 ∧ x.op ≠ 3 →
      Completes (.sspPut x b midByte) s fun t =>
        t.reg Reg.SVC_SSP_BAD_OP = min (2 ^ 32 - 1) (s.reg Reg.SVC_SSP_BAD_OP + 1) ∧ t.svc.ports = s.svc.ports) ∧
  (∀ (x : SspIn) (n m clocked : Nat) (midByte : Bool) (s : State),
      (s.domain 9).state = .on ∧ x.op = 2 ∧ 8 ≤ x.edges →
      (s.port 0).rx = [] ∧ n = min 255 (s.port 0).tx.length ∧ m = min n (clocked - 1) ∧ 1 ≤ clocked →
      Completes (.sspGet x clocked midByte) s fun t =>
        (t.port 0).tx = (s.port 0).tx.drop m ∧ .service 0 (le 1 n ++ (s.port 0).tx.take m ++ List.replicate (clocked - 1 - m) 0xFF#8) ∈ t.out ∧
        (midByte = true → t.svc.fault = true)) ∧
  (∀ (x : SspIn) (s : State),
      (s.domain 9).state = .on ∧ x.op = 3 ∧ 8 ≤ x.edges →
      Completes (.sspStat x) s fun t =>
        t.svc.fault = false ∧ t.out.head? = some (.service 0 (le 1 s.sspStatus))) ∧
  (∀ (n : Nat × Nat) (l : List (Nat × Nat)) (s : State),
      s.svc.flood = false ∧ s.svc.naks = n :: l ∧ s.svc.txUntil ≤ s.dev.nc →
      Completes (.ospResponseSend true) s fun t =>
        t.svc.naks = l ∧ t.out.head? = some (.service 1 (response n.1 n.2 1 [])) ∧ t.reg Reg.SVC_OSP_NAK_TX = min (2 ^ 32 - 1) (s.reg Reg.SVC_OSP_NAK_TX + 1) ∧
        s.dev.nc < t.svc.txUntil) ∧
  (∀ (b : Bytes) (l : List Bytes) (s : State),
      s.svc.flood = false ∧ s.svc.naks = [] ∧ s.svc.responses = b :: l ∧ s.svc.txUntil ≤ s.dev.nc ∧ s.svc.txFrom ≤ s.dev.nc →
      Completes (.ospResponseSend true) s fun t =>
        t.svc.responses = l ∧ t.out.head? = some (.service 1 b) ∧
        (s.svc.rate = true → t.svc.txUntil = s.dev.nc + b.length * 10000)) ∧
  (∀ (s : State),
      s.dev.nc < s.svc.txUntil ∨ s.svc.flood = true ∨ (s.svc.naks = [] ∧ s.dev.nc < s.svc.txFrom) →
      Completes (.ospResponseSend true) s fun t => t = s) ∧
  (∀ (a n : Nat) (f frame : Bytes) (s : State),
      s.svc.flood = false ∧ s.floods a n = true ∧ f = s.ospFrame frame →
      Completes (.ospFloodStart a n frame) s fun t =>
        t.svc.flood = true ∧ t.svc.ambient = a % 256 ∧ t.reg Reg.SVC_OSP_FLOOD_EVENTS = min (2 ^ 32 - 1) (s.reg Reg.SVC_OSP_FLOOD_EVENTS + 1) ∧ (t.port 1).rx = [] ∧
        (f ≠ [] → t.reg Reg.SVC_OSP_FLOOD_DROP = min (2 ^ 32 - 1) (s.reg Reg.SVC_OSP_FLOOD_DROP + 1)) ∧
        (f ≠ [] → s.serves 1 ≠ .silent → t.svc.naks = s.svc.naks ++ [(if 2 ≤ f.length then byteAt f 1 else 0xFF, if 3 ≤ f.length then byteAt f 2 else 0)])) ∧
  (∀ (a : Nat) (s : State),
      s.svc.flood = true ∧ s.floods a 0 = false →
      Completes (.ospFloodClear a) s fun t =>
        t.svc.flood = false ∧ t.svc.ambient = a % 256 ∧ t.svc.naks = [] ∧
        s.svc.naks.all (fun n => t.out.contains (.service 1 (response n.1 n.2 1 []))) = true) ∧
  (∀ (b : Bytes) (l : List Bytes) (s : State),
      s.svc.flood = true ∧ s.svc.naks = [] ∧ s.svc.responses = b :: l →
      Completes (.ospResponseDrop) s fun t =>
        t.svc.responses = l ∧ t.reg Reg.SVC_RESP_DROP = min (2 ^ 32 - 1) (s.reg Reg.SVC_RESP_DROP + 1)) ∧
  (∀ (n : Nat × Nat) (l : List (Nat × Nat)) (s : State),
      s.svc.flood = true ∧ s.svc.naks = n :: l →
      Completes (.ospResponseDrop) s fun t =>
        t.svc.naks = l ∧ t.svc.responses = s.svc.responses ∧ t.reg Reg.SVC_RESP_DROP = min (2 ^ 32 - 1) (s.reg Reg.SVC_RESP_DROP + 1)) ∧
  (∀ (b f : Bytes) (s : State),
      f = s.ospFrame b ∧ f ≠ [] →
      Completes (.ospFramingError b) s fun t =>
        (t.port 1).rx = [] ∧ t.reg Reg.SVC_OSP_FRAMING_ERR = min (2 ^ 32 - 1) (s.reg Reg.SVC_OSP_FRAMING_ERR + 1) ∧
        (s.serves 1 ≠ .silent → t.svc.naks = s.svc.naks ++ [(if 2 ≤ f.length then byteAt f 1 else 0xFF, if 3 ≤ f.length then byteAt f 2 else 0)])) ∧
  (∀ (s : State),
      s.dev.state = .recovery ∧ s.reg Reg.GLB_STATE_CAUSE % 256 = 0x0D →
      s.svc.loaderPort = 0 ∧ s.svc.moved = false ∧ (s.port 0).heard = false →
      Completes (.ospLoaderMove) s fun t =>
        t.svc.loaderPort = 1 ∧ t.svc.moved = true)

/-- The test access ports load instructions and reset (R482, R483). Admitted instructions load into the two TAPs and the test hold follows a
hold instruction; a reset loads IDCODE in both and ends the hold, and where it ended a hold in DAWN, DAWN begins again with cause 0x01. -/
def Obligations.TestPortCommandsComplete : Prop :=
  (∀ (a b : Nat) (s : State),
      s.tapAdmits 0 a = true ∧ s.tapAdmits 1 b = true →
      Completes (.tapInstructionLoad a b) s fun t =>
        t.svc.noonTap = a ∧ t.svc.midTap = b ∧ t.svc.tapHold = (s.svc.tapHold || [0x00, 0x03, 0x04].contains a || [0x00, 0x03, 0x04].contains b) ∧
        (a = 0x01 ∧ b = 0x01 → t.out.head? = some (.service 2 (le 4 (s.idcode 1) ++ le 4 (s.idcode 0))))) ∧
  (∀ (a b : Nat) (s : State),
      s.tapAdmits 0 a = false ∧ s.tapAdmits 1 b = true →
      Completes (.tapInstructionLoad a b) s fun t =>
        t.svc.noonTap = 0xFF ∧ t.svc.midTap = b ∧ t.reg Reg.SVC_TAP_REFUSED = min (2 ^ 32 - 1) (s.reg Reg.SVC_TAP_REFUSED + 1)) ∧
  (∀ (a b : Nat) (s : State),
      s.tapAdmits 0 a = true ∧ s.tapAdmits 1 b = false →
      Completes (.tapInstructionLoad a b) s fun t =>
        t.svc.noonTap = a ∧ t.svc.midTap = 0xFF ∧ t.reg Reg.SVC_TAP_REFUSED = min (2 ^ 32 - 1) (s.reg Reg.SVC_TAP_REFUSED + 1)) ∧
  (∀ (s : State),
      s.svc.tapHold = false ∨ s.dev.state ≠ .dawn →
      Completes (.tapReset) s fun t =>
        t.svc.noonTap = 1 ∧ t.svc.midTap = 1 ∧ t.svc.tapHold = false ∧ t.dev = s.dev ∧
        t.out.head? = some (.service 2 (le 4 (s.idcode 1) ++ le 4 (s.idcode 0)))) ∧
  (∀ (s : State),
      s.svc.tapHold = true ∧ s.dev.state = .dawn →
      Completes (.tapReset) s fun t =>
        t.svc.tapHold = false ∧ t.dev.stage = 0 ∧ t.reg Reg.GLB_STATE_CAUSE % 256 = 0x01)

/-- The pair's commands answer and take effect (R485, R486, R489, R490, R491, R504, R505, R507, R512, R620). PAR.STATUS writes both reports;
ROLE STANDBY and RELEASE make an owner drop ownership and its permit and wait for the echo, or drain first, and a part without ownership
answers OK at once; ROLE SOLO and CLAIM gain ownership where the interlock is free, and answer with the status of what bars them where it is
not, and a claim waits behind a release under way; RESYNC asks the owner for records; DIGEST_READ writes an epoch's digests; SELFTEST
answers with the failing tests. -/
def Obligations.PairCommandsComplete : Prop :=
  (∀ (c : CmdRef) (s : State),
      c.queue ≤ 256 →
      Completes (.parStatus c) s fun t =>
        AnsweredWith c St.ok (s.parStatus % 2 ^ 32) t ∧ t.par = s.par ∧
        Writes c (s.ownReport.bytes ++ (if s.par.present then s.par.partner.bytes else zeros 64)) s t) ∧
  (∀ (c : CmdRef) (s : State),
      c.queue ≤ 256 ∧ s.par.owned = false →
      Completes (.parRoleStandby c) s fun t =>
        Answered c St.ok t ∧ t.par = s.par ∧ t.dev = s.dev) ∧
  (∀ (c : CmdRef) (s : State),
      s.par.owned = true ∧ s.par.release = none →
      Completes (.parRoleStandby c) s fun t =>
        t.par.owned = false ∧ t.par.permit = false ∧ t.par.release.map (·.cmd) = some (some c) ∧ t.par.ownOut = s.par.ownOut) ∧
  (∀ (c : CmdRef) (i : ClaimIn) (s : State),
      c.queue ≤ 256 ∧ s.par.owned = true →
      Completes (.parRoleSolo c 0x501A i) s fun t =>
        Answered c St.ok t ∧ t.dev.role = .solo ∧ t.par = s.par) ∧
  (∀ (c : CmdRef) (i : ClaimIn) (s : State),
      c.queue ≤ 256 ∧ s.par.owned = false ∧ s.par.release = none ∧ s.claimBarred = false →
      (i.ownIn = false ∧ i.high = false ∧ (i.race = false ∨ s.par.side = false)) →
      Completes (.parRoleSolo c 0x501A i) s fun t =>
        Answered c St.ok t ∧ t.dev.role = .solo ∧ t.par.owned = true ∧ t.par.ownOut = true ∧ t.par.permit = true) ∧
  (∀ (c : CmdRef) (start : Nat) (s : State),
      c.queue ≤ 256 ∧ s.dev.role = .standby ∧ s.par.present = true →
      Completes (.parResync c start) s fun t =>
        Answered c St.ok t ∧ .pair 9 (le 8 (if start = 0 then s.par.gapFrom else start)) ∈ t.out) ∧
  (∀ (c : CmdRef) (force : Bool) (i : ClaimIn) (s : State),
      c.queue ≤ 256 ∧ s.par.owned = false ∧ s.par.release = none ∧ s.claimBarred = false →
      (force = true ∨ (s.parUnfit = false ∧ s.par.inStep = true)) →
      (i.ownIn = false ∧ i.high = false ∧ (i.race = false ∨ s.par.side = false)) →
      Completes (.parClaim c force i) s fun t =>
        AnsweredWith c St.ok (s.stamp % 2 ^ 32) t ∧ t.dev.role = .active ∧ t.par.owned = true ∧ t.par.ownOut = true ∧ t.par.permit = true ∧ t.par.ownedSince = s.stamp) ∧
  (∀ (c : CmdRef) (i : ClaimIn) (s : State),
      c.queue ≤ 256 ∧ s.par.owned = false ∧ s.par.release = none ∧ s.claimBarred = false →
      i.ownIn = false ∧ i.race = true ∧ s.par.side = true →
      Completes (.parClaim c true i) s fun t =>
        Answered c 0x0710 t ∧ t.par.owned = false ∧ t.par.ownOut = false ∧ t.dev = s.dev) ∧
  (∀ (c : CmdRef) (i : ClaimIn) (s : State),
      c.queue ≤ 256 ∧ s.par.owned = false ∧ s.par.release = none ∧ i.ownIn = true →
      Completes (.parClaim c true i) s fun t =>
        Answered c 0x0711 t ∧ t.par.owned = false ∧ t.par.ownOut = s.par.ownOut ∧ t.dev = s.dev) ∧
  (∀ (c : CmdRef) (i : ClaimIn) (s : State),
      c.queue ≤ 256 ∧ s.par.owned = false ∧ s.par.release = none ∧ s.claimBarred = true ∧ i.ownIn = false →
      Completes (.parClaim c true i) s fun t =>
        Answered c St.stateConflict t ∧ t.par.owned = false ∧ t.dev = s.dev) ∧
  (∀ (c : CmdRef) (i : ClaimIn) (s : State),
      c.queue ≤ 256 ∧ s.par.owned = false ∧ (s.parUnfit = true ∨ s.par.inStep = false) →
      Completes (.parClaim c false i) s fun t =>
        Answered c (if s.parUnfit = true then 0x0212 else 0x0210) t ∧ t.par = s.par ∧ t.dev = s.dev) ∧
  (∀ (c : CmdRef) (force : Bool) (i : ClaimIn) (s : State),
      s.par.owned = false ∧ s.par.release.isSome = true ∧ (force = true ∨ (s.parUnfit = false ∧ s.par.inStep = true)) →
      Completes (.parClaim c force i) s fun t =>
        t.par.claims = s.par.claims ++ [{ cmd := some c, solo := false }] ∧ t.cmd = s.cmd ∧ t.par.owned = false) ∧
  (∀ (c : CmdRef) (force : Bool) (i : ClaimIn) (s : State),
      c.queue ≤ 256 ∧ s.par.owned = true →
      Completes (.parClaim c force i) s fun t =>
        Answered c St.ok t ∧ t.par = s.par ∧ t.dev = s.dev) ∧
  (∀ (c : CmdRef) (drain handover : Bool) (s : State),
      c.queue ≤ 256 ∧ s.par.owned = false →
      Completes (.parRelease c drain handover) s fun t =>
        Answered c St.ok t ∧ t.par = s.par ∧ t.dev = s.dev) ∧
  (∀ (c : CmdRef) (handover : Bool) (s : State),
      (s.par.owned = true ∧ s.par.release = none ∧ (handover = true → s.partnerReady = true)) →
      (s.plc.onAir.isSome = true ∨ s.rfx.tx ≠ []) →
      Completes (.parRelease c true handover) s fun t =>
        t.par.owned = true ∧ t.par.permit = false ∧ t.par.release.map (fun r => (r.cmd, r.handover, r.draining)) = some (some c, handover, true)) ∧
  (∀ (c : CmdRef) (drain handover : Bool) (s : State),
      (s.par.owned = true ∧ s.par.release = none ∧ (handover = true → s.partnerReady = true)) →
      (drain = true → s.plc.onAir = none ∧ s.rfx.tx = []) →
      Completes (.parRelease c drain handover) s fun t =>
        t.par.owned = false ∧ t.par.permit = false ∧ t.par.release.map (fun r => (r.cmd, r.handover)) = some (some c, handover)) ∧
  (∀ (c : CmdRef) (e : Nat) (s : State),
      c.queue ≤ 256 →
      Completes (.parDigestRead c e) s fun t =>
        Answered c St.ok t ∧ t.par = s.par ∧
        (∀ x, x = (if e = 0 then s.par.epoch else e) →
          Writes c (if s.par.digests.has x then le 8 x ++ fit 144 (s.par.digests.getD x []).flatten ++ fit 144 (s.par.theirs.getD x []).flatten else zeros 296) s t)) ∧
  (∀ (c : CmdRef) (mask failing : Nat) (s : State),
      c.queue ≤ 256 ∧ mask % 16 &&& failing = 0 →
      Completes (.parSelftest c mask failing) s fun t =>
        Answered c St.ok t ∧ t.par.testFail &&& (mask % 16) = 0) ∧
  (∀ (c : CmdRef) (mask failing : Nat) (s : State),
      c.queue ≤ 256 ∧ mask % 16 &&& failing ≠ 0 →
      Completes (.parSelftest c mask failing) s fun t =>
        Answered c 0x0810 t ∧ t.par.testFail &&& (mask % 16) = mask % 16 &&& failing)

/-- Releases end, heartbeats and lanes speak, the shadow stream arrives (R486, R488, R491, R495, R497, R498, R500, R501, R504, R505, R507).
The echo or its time ends a release with the RELEASE message, OWN_OUT low and STANDBY, and claims that waited run then; the drain's end
drops ownership; a fall of OWN_IN is seen, and claims where a hand-over or a partner lost lets it; heartbeats are sent and taken, and one
that names the same side is a conflict; the partner is lost and lanes go down and up; RELEASE messages, the hold-off, shadow frames in and
out of sequence, counters, resync records and ledger copies are taken, a copy whose tag fails changing nothing; self-tests run; digests
close and are compared. -/
def Obligations.PairEventsComplete : Prop :=
  (∀ (i : ClaimIn) (r : Release) (s : State),
      s.par.release = some r ∧ r.draining = false ∧ s.par.claims = [] →
      Completes (.releaseEchoReceived i) s fun t =>
        t.par.release = none ∧ t.par.ownOut = false ∧ t.dev.role = .standby ∧ .pair 1 (le 1 (bitN r.handover)) ∈ t.out ∧ .pin 4 false ∈ t.out) ∧
  (∀ (i : ClaimIn) (r : Release) (c : CmdRef) (s : State),
      s.par.release = some r ∧ r.draining = false ∧ s.par.claims = [] ∧ r.cmd = some c ∧ c.queue ≤ 256 →
      Completes (.releaseEchoTimeout i) s fun t =>
        t.par.release = none ∧ t.par.ownOut = false ∧ t.dev.role = .standby ∧ Answered c St.ok t) ∧
  (∀ (i : ClaimIn) (r : Release) (s : State),
      s.par.release = some r ∧ r.draining = false ∧ s.par.claims ≠ [] ∧ s.claimBarred = false →
      (i.ownIn = false ∧ i.high = false ∧ (i.race = false ∨ s.par.side = false)) →
      Completes (.releaseEchoReceived i) s fun t =>
        t.par.release = none ∧ t.par.claims = [] ∧ t.par.owned = true ∧ t.par.ownOut = true ∧
        t.dev.role = (if s.par.claims.any (·.solo) = true then .solo else .active)) ∧
  (∀ (r : Release) (s : State),
      s.par.release = some r ∧ r.draining = true →
      Completes (.releaseDrainExpiry) s fun t =>
        t.par.owned = false ∧ t.par.permit = false ∧ t.par.release = some { r with draining := false }) ∧
  (∀ (test : Nat) (ok : Bool) (s : State),
      test < 2 →
      Completes (.selftestPeriodic test ok) s fun t =>
        bitAt t.par.testFail test = !ok ∧ t.reg Reg.PAR_SELFTEST_FAIL = (if ok then s.reg Reg.PAR_SELFTEST_FAIL else min (2 ^ 32 - 1) (s.reg Reg.PAR_SELFTEST_FAIL + 1))) ∧
  (∀ (i : ClaimIn) (s : State),
      s.dev.role ≠ .standby ∧ s.dev.role ≠ .orphan →
      Completes (.ownInFall i) s fun t =>
        t.par.ownIn = false ∧ t.par.owned = s.par.owned ∧ t.dev = s.dev) ∧
  (∀ (i : ClaimIn) (s : State),
      s.dev.role = .standby ∧ s.par.announced = true ∧ s.par.handover = true ∧ s.par.owned = false ∧ s.par.release = none →
      s.parUnfit = false ∧ s.par.inStep = true ∧ s.par.fault = false ∧ s.claimBarred = false →
      (i.ownIn = false ∧ i.high = false ∧ (i.race = false ∨ s.par.side = false)) →
      Completes (.ownInFall i) s fun t =>
        t.par.owned = true ∧ t.dev.role = .active ∧ t.par.holdoff = false) ∧
  (∀ (i : ClaimIn) (s : State),
      (s.dev.role = .standby ∨ s.dev.role = .orphan) ∧ s.par.announced = false ∧ s.par.partner.owner = true ∧ s.regBit Reg.PAR_CTRL 1 = true →
      s.par.owned = false ∧ s.par.release = none ∧ s.parUnfit = false ∧ s.par.inStep = true ∧ s.par.fault = false ∧ s.claimBarred = false →
      (i.ownIn = false ∧ i.high = false ∧ (i.race = false ∨ s.par.side = false)) →
      Completes (.ownInFall i) s fun t =>
        t.par.owned = true ∧ t.dev.role = .active ∧ t.par.holdoff = true) ∧
  (∀ (s : State),
      s.pairLinkUp = true →
      Completes (.pairHeartbeatSend) s fun t =>
        t.out.head? = some (.pair 0 (t.ownReport.bytes)) ∧ t.par.unfit = s.parUnfit ∧
        (s.dev.role = .active ∧ s.par.owned = true ∧ s.par.release = none ∧ s.regBit Reg.PAR_CTRL 2 = true ∧ s.partnerReady = true ∧ s.parUnfit = true →
          t.par.release.map (fun r => (r.cmd, r.handover)) = some (none, true))) ∧
  (∀ (b : Bool) (r : ReportIn) (s : State),
      Completes (.pairHeartbeatReceived r b) s fun t =>
        t.par.partner = reportOf r ∧ t.par.ownIn = b ∧ t.par.present = true ∧ t.par.sideConflict = (r.side == s.par.side) ∧ t.par.odd = (if r.owner = b then 0 else s.par.odd + 1)) ∧
  (∀ (b : Bool) (r : ReportIn) (s : State),
      s.par.present = false ∧ s.dev.role = .orphan →
      Completes (.pairHeartbeatReceived r b) s fun t =>
        t.dev.role = .standby ∧ t.par.shadowNext = none) ∧
  (∀ (b : Bool) (r : ReportIn) (s : State),
      r.side = s.par.side ∧ s.par.sideConflict = false ∧ s.dev.state = .day →
      Completes (.pairHeartbeatReceived r b) s fun t =>
        t.dev.state = .twilight ∧ (s.par.owned = true → s.par.release = none → t.par.release.isSome = true)) ∧
  (∀ (i : ClaimIn) (s : State),
      s.par.present = true ∧ s.dev.role = .standby ∧ s.par.ownIn = true →
      Completes (.partnerLoss i) s fun t =>
        t.par.present = false ∧ t.dev.role = .orphan ∧ t.reg Reg.PAR_HB_MISSED = min (2 ^ 32 - 1) (s.reg Reg.PAR_HB_MISSED + 1)) ∧
  (∀ (i : ClaimIn) (s : State),
      s.par.present = true ∧ (s.dev.role = .standby ∨ s.dev.role = .orphan) ∧ s.par.ownIn = false ∧ s.regBit Reg.PAR_CTRL 1 = true →
      s.par.owned = false ∧ s.par.release = none ∧ s.parUnfit = false ∧ s.par.inStep = true ∧ s.par.fault = false ∧ s.claimBarred = false →
      (i.ownIn = false ∧ i.high = false ∧ (i.race = false ∨ s.par.side = false)) →
      Completes (.partnerLoss i) s fun t =>
        t.par.present = false ∧ t.dev.role = .active ∧ t.par.owned = true) ∧
  (∀ (lane : Nat) (i : ClaimIn) (s : State),
      lane < 2 ∧ putBit s.par.lanes lane false = 0 ∧ s.par.present = true ∧ s.dev.role = .standby ∧ s.par.ownIn = true →
      Completes (.pairLaneDown lane i) s fun t =>
        t.par.lanes = 0 ∧ t.par.present = false ∧ t.dev.role = .orphan) ∧
  (∀ (lane : Nat) (i : ClaimIn) (s : State),
      lane < 2 ∧ putBit s.par.lanes lane false ≠ 0 →
      Completes (.pairLaneDown lane i) s fun t =>
        t.par.lanes = putBit s.par.lanes lane false ∧ t.par.present = s.par.present) ∧
  (∀ (lane : Nat) (s : State),
      lane < 2 ∧ s.shut 47 = false →
      Completes (.pairLaneUp lane) s fun t =>
        t.par.lanes = putBit s.par.lanes lane true) ∧
  (∀ (h : Bool) (s : State),
      Completes (.releaseMessageReceived h) s fun t =>
        t.par.announced = true ∧ t.par.handover = h) ∧
  (∀ (s : State),
      Completes (.holdoffEnd) s fun t =>
        t.par.holdoff = false) ∧
  (∀ (f : ShadowIn) (s : State),
      (s.dev.role = .standby ∧ (s.par.shadowNext = none ∨ s.par.shadowNext = some f.seq)) →
      Completes (.shadowFrameReceived f) s fun t =>
        t.par.shadowNext = some ((f.seq + 1) % 2 ^ 32) ∧ t.par.lastShadow = f.rts ∧ t.reg Reg.PAR_SHADOW_FRAMES = min (2 ^ 32 - 1) (s.reg Reg.PAR_SHADOW_FRAMES + 1)) ∧
  (∀ (f : ShadowIn) (n : Nat) (s : State),
      s.dev.role = .standby ∧ s.par.shadowNext = some n ∧ n ≠ f.seq ∧ 0 < s.digestLimit →
      Completes (.shadowFrameReceived f) s fun t =>
        t.par.shadowNext = some ((f.seq + 1) % 2 ^ 32) ∧ t.par.noGap = false ∧ t.par.inStep = false ∧ t.par.gapFrom = f.missing ∧ t.reg Reg.PAR_SHADOW_GAP = min (2 ^ 32 - 1) (s.reg Reg.PAR_SHADOW_GAP + 1)) ∧
  (∀ (idx v : Nat) (x : Ctx) (s : State),
      s.epAt idx = some x →
      Completes (.counterMessageReceived 0 idx v) s fun t =>
        (t.ctx idx).txFcnt = min (2 ^ 32 - 1) (max x.txFcnt (v + 1)) ∧ t.reg Reg.PAR_COUNTER_MSGS = min (2 ^ 32 - 1) (s.reg Reg.PAR_COUNTER_MSGS + 1)) ∧
  (∀ (idx v : Nat) (x : Ctx) (s : State),
      s.epAt idx = some x →
      Completes (.counterMessageReceived 1 idx v) s fun t =>
        (t.ctx idx).txNseq = min (2 ^ 32 - 1) (max x.txNseq (v + 1)) ∧ t.reg Reg.PAR_COUNTER_MSGS = min (2 ^ 32 - 1) (s.reg Reg.PAR_COUNTER_MSGS + 1)) ∧
  (∀ (idx v : Nat) (s : State),
      Completes (.counterMessageReceived 2 idx v) s fun t =>
        t.msh.bcast = max s.msh.bcast (v + 1) ∧ t.msh.restored = true ∧ t.reg Reg.PAR_COUNTER_MSGS = min (2 ^ 32 - 1) (s.reg Reg.PAR_COUNTER_MSGS + 1)) ∧
  (∀ (idx v : Nat) (s : State),
      Completes (.counterMessageReceived 3 idx v) s fun t =>
        t.plc.mcastIds.getD idx 0 = max (s.plc.mcastIds.getD idx 0) (v + 1) ∧ t.reg Reg.PAR_COUNTER_MSGS = min (2 ^ 32 - 1) (s.reg Reg.PAR_COUNTER_MSGS + 1)) ∧
  (∀ (idx v : Nat) (s : State),
      Completes (.counterMessageReceived 4 idx v) s fun t =>
        t.msh.floodId = max s.msh.floodId (v + 1) ∧ t.reg Reg.PAR_COUNTER_MSGS = min (2 ^ 32 - 1) (s.reg Reg.PAR_COUNTER_MSGS + 1)) ∧
  (∀ (idx v : Nat) (s : State),
      Completes (.counterMessageReceived 5 idx v) s fun t =>
        t.groupOf idx = (max (s.groupOf idx).1 (v + 1), (s.groupOf idx).2) ∧ t.reg Reg.PAR_COUNTER_MSGS = min (2 ^ 32 - 1) (s.reg Reg.PAR_COUNTER_MSGS + 1)) ∧
  (∀ (e : Nat) (s : State),
      (e + 1) * s.digestS ≤ s.nowSec ∧ s.par.digests.has e = false →
      Completes (.digestEpochEnd e) s fun t =>
        t.par.digests = State.keepEpochs (s.par.digests.put e (s.epochDigests e)) ∧ t.par.items = s.par.items.filter (fun x => x.1 / 4 != e)) ∧
  (∀ (e : Nat) (own theirs : List Bytes) (s : State),
      s.par.digests.get? e = some own ∧ (e + 1) * s.digestS + 2 ≤ s.nowSec →
      Completes (.digestExchange e theirs) s fun t =>
        .pair 6 (le 8 e ++ own.flatten) ∈ t.out ∧ t.par.epoch = e ∧ t.par.streams = State.streamsOff own theirs ∧
        (State.streamsOff own theirs = 0 → t.par.matched = s.par.matched + 1 ∧ t.par.mismatched = 0) ∧
        (State.streamsOff own theirs ≠ 0 → t.par.matched = 0 ∧ t.par.mismatched = s.par.mismatched + 1 ∧ t.par.inStep = false ∧
          t.reg Reg.PAR_DIGEST_MISMATCH = min (2 ^ 32 - 1) (s.reg Reg.PAR_DIGEST_MISMATCH + 1))) ∧
  (∀ (b : Bytes) (s : State),
      s.dev.role = .standby →
      Completes (.resyncRecordReceived b true) s fun t =>
        t.par.noGap = true ∧ t.par.gapFrom = 0) ∧
  (∀ (b : Bytes) (final : Bool) (x : Rec) (s : State),
      s.dev.role = .standby ∧ x = recOf (fit 64 b) →
      Completes (.resyncRecordReceived b final) s fun t =>
        t.cod = ((s.handRecord x (bitAt (s.ctx x.endpoint).flags 6) (s.ctx x.endpoint).topoValid).raiseWindows x).cod ∧
        (final = false → t.par.noGap = s.par.noGap ∧ t.par.gapFrom = s.par.gapFrom)) ∧
  (∀ (l : List LedgerIn) (s : State),
      s.kvt.pairKey ≠ none →
      Completes (.ledgerCopyReceived l true true) s fun t =>
        t.par.ledgerDue = false ∧ t.par.ledgerCopy = [] ∧ ∀ e ∈ l, t.bil.ledger.has e.endpoint = true) ∧
  (∀ (l : List LedgerIn) (s : State),
      s.kvt.pairKey ≠ none →
      Completes (.ledgerCopyReceived l false true) s fun t =>
        t.par.ledgerDue = true ∧ t.bil.ledger = s.bil.ledger ∧ ∀ e ∈ l, t.par.ledgerCopy.has e.endpoint = true) ∧
  (∀ (l : List LedgerIn) (final tagOk : Bool) (s : State),
      tagOk = false ∨ s.kvt.pairKey = none →
      Completes (.ledgerCopyReceived l final tagOk) s fun t =>
        t.bil = s.bil ∧ t.par = s.par ∧ t.seam.refused = s.seam.refused + 1)

/-- The fabric grants bursts, ends them and quiets ports (R515, R516, R517, R518, R522). A request of a routed port waits, or is granted at
once where the target is idle and nothing waits; the end of a burst frees the target; QUIET takes a port's requests away at every target,
and its fall lets them in again. -/
def Obligations.FabricCommandsComplete : Prop :=
  (∀ (k p n : Nat) (w : Bool) (s : State),
      (fabRoute k p = true ∧ (k = 5 → s.pwr.srpX16 = false) ∧ p ∉ s.fab.quiet ∧ s.portUp p = true ∧ 0 < n ∧ n ≤ 256) →
      (s.target k).now ≠ none →
      Completes (.fabBurstRequest k p n w) s fun t =>
        (t.target k).waiting = (s.target k).waiting ++ [{ port := p, bytes := n, write := w, raised := s.dev.nc }] ∧ (t.target k).now = (s.target k).now) ∧
  (∀ (k p n : Nat) (w : Bool) (s : State),
      (fabRoute k p = true ∧ (k = 5 → s.pwr.srpX16 = false) ∧ p ∉ s.fab.quiet ∧ s.portUp p = true ∧ 0 < n ∧ n ≤ 256) →
      (s.target k).now = none ∧ (s.target k).waiting = [] →
      Completes (.fabBurstRequest k p n w) s fun t =>
        (t.target k).now = some { port := p, bytes := n, write := w, raised := s.dev.nc } ∧ (t.target k).waiting = [] ∧ t.regI Reg.FAB_GRANTS (k * 32 + p) = min (2 ^ 32 - 1) (s.regI Reg.FAB_GRANTS (k * 32 + p) + 1)) ∧
  (∀ (k : Nat) (b : Burst) (s : State),
      (s.target k).now = some b ∧ (s.target k).waiting = [] →
      Completes (.fabBurstEnd k) s fun t =>
        (t.target k).now = none ∧ (t.target k).waiting = []) ∧
  (∀ (k : Nat) (b : Burst) (s : State),
      (s.target k).now = some b ∧ (s.target k).waiting.any (fun x => decide (x.port < 28) && !s.fab.quiet.contains x.port) = true →
      Completes (.fabBurstEnd k) s fun t =>
        ∃ x ∈ (s.target k).waiting, x.port ∉ s.fab.quiet ∧ (t.target k).now = some x ∧ (t.target k).waiting = (s.target k).waiting.eraseP (fun y => y.port == x.port)) ∧
  (∀ (p : Nat) (s : State),
      p < 28 →
      Completes (.quietRise p) s fun t =>
        p ∈ t.fab.quiet ∧ ∀ k ∈ List.range 6, (∀ b ∈ (t.target k).waiting, b.port ≠ p) ∧ (t.target k).now.all (fun b => b.port != p) = true) ∧
  (∀ (p : Nat) (s : State),
      Completes (.quietFall p) s fun t =>
        t.fab.quiet = s.fab.quiet.filter (· ≠ p) ∧ t.fab.targets = s.fab.targets)

/-- Virtual machines are made, fenced and reported (R524, R526, R528, R530, R531, R532, R533, R534). CREATE makes an ABSENT instance READY
with its quotas; QUOTA_SET replaces them; both refuse bad quotas, the wrong state and a checkpoint that cannot be written, changing nothing;
STATUS writes the instance window and answers the state word; RESET, DISABLE and DESTROY begin a fence, which raises the epoch and is
answered QUEUED, and RESET and DISABLE join one under way; DESTROY of an instance that holds something answers what it holds; an
acknowledgement takes its unit off the fence, the last one ends it and answers its commands OK, and the timeout ends it FENCED and answers
them INTERNAL_FAULT. -/
def Obligations.VirtualMachineCommandsComplete : Prop :=
  (∀ (c : CmdRef) (q : Quotas) (s : State),
      c.queue ≤ 256 ∧ State.quotasOk q = true ∧ (s.inst c.inst).state = .absent →
      Completes (.vinCreate c q true) s fun t =>
        (t.inst c.inst).state = .ready ∧ (t.inst c.inst).quota = q ∧ AnsweredWith c St.ok (c.inst % 2 ^ 32) t) ∧
  (∀ (c : CmdRef) (q : Quotas) (ckptOk : Bool) (s : State),
      c.queue ≤ 256 ∧ (State.quotasOk q = false ∨ (s.inst c.inst).state ≠ .absent ∨ ckptOk = false) →
      Completes (.vinCreate c q ckptOk) s fun t =>
        Answered c (if State.quotasOk q = false then St.badParam else if (s.inst c.inst).state ≠ .absent then St.stateConflict else 0x0510) t ∧ t.vin = s.vin) ∧
  (∀ (c : CmdRef) (f : Fence) (s : State),
      c.queue ≤ 256 ∧ (s.inst c.inst).state = .fencing ∧ (s.inst c.inst).fence = some f →
      Completes (.vinReset c) s fun t =>
        (t.inst c.inst).fence = some { f with cmds := f.cmds ++ [c] } ∧ (t.inst c.inst).epoch = (s.inst c.inst).epoch ∧ AnsweredQueued c t) ∧
  (∀ (c : CmdRef) (f : Fence) (s : State),
      c.queue ≤ 256 ∧ (s.inst c.inst).state = .fencing ∧ (s.inst c.inst).fence = some f →
      Completes (.vinDisable c) s fun t =>
        (t.inst c.inst).fence = some { f with disable := true, cmds := f.cmds ++ [c] } ∧ (t.inst c.inst).epoch = (s.inst c.inst).epoch ∧ AnsweredQueued c t) ∧
  (∀ (c : CmdRef) (s : State),
      c.queue ≤ 256 ∧ (s.inst c.inst).state ≠ .absent ∧ (s.inst c.inst).state ≠ .fencing →
      Completes (.vinReset c) s fun t =>
        (t.inst c.inst).state = .fencing ∧ (t.inst c.inst).epoch = ((s.inst c.inst).epoch + 1) % 256 ∧ (t.inst c.inst).cause = 1 ∧ AnsweredQueued c t) ∧
  (∀ (c : CmdRef) (s : State),
      c.queue ≤ 256 ∧ (s.inst c.inst).state ≠ .absent ∧ (s.inst c.inst).state ≠ .fencing →
      Completes (.vinDisable c) s fun t =>
        (t.inst c.inst).state = .fencing ∧ (t.inst c.inst).epoch = ((s.inst c.inst).epoch + 1) % 256 ∧ (t.inst c.inst).cause = 2 ∧ AnsweredQueued c t) ∧
  (∀ (c : CmdRef) (q : Quotas) (s : State),
      c.queue ≤ 256 ∧ State.quotasOk q = true ∧ (s.inst c.inst).state ≠ .absent →
      Completes (.vinQuotaSet c q true) s fun t =>
        t.inst c.inst = { s.inst c.inst with quota := q } ∧ Answered c St.ok t) ∧
  (∀ (c : CmdRef) (q : Quotas) (ckptOk : Bool) (s : State),
      c.queue ≤ 256 ∧ (State.quotasOk q = false ∨ (s.inst c.inst).state = .absent ∨ ckptOk = false) →
      Completes (.vinQuotaSet c q ckptOk) s fun t =>
        Answered c (if State.quotasOk q = false then St.badParam else if (s.inst c.inst).state = .absent then St.stateConflict else 0x0510) t ∧ t.vin = s.vin) ∧
  (∀ (c : CmdRef) (s : State),
      c.queue ≤ 256 →
      Completes (.vinStatus c) s fun t =>
        AnsweredWith c St.ok (s.stateWord (some c.inst) % 2 ^ 32) t ∧ t.vin = s.vin ∧
        Writes c ((List.range 8).flatMap (fun k => le 4 (s.instWord c.inst k))) s t) ∧
  (∀ (c : CmdRef) (s : State),
      c.queue ≤ 256 ∧ (s.inst c.inst).state ≠ .absent ∧ (s.inst c.inst).state ≠ .fencing ∧ s.instHolds c.inst = 0 →
      Completes (.vinDestroy c 0xDE57 true) s fun t =>
        (t.inst c.inst).state = .fencing ∧ (t.inst c.inst).cause = 5 ∧ AnsweredQueued c t) ∧
  (∀ (c : CmdRef) (ckptOk : Bool) (s : State),
      c.queue ≤ 256 ∧ (s.inst c.inst).state ≠ .absent ∧ (s.inst c.inst).state ≠ .fencing ∧ s.instHolds c.inst ≠ 0 →
      Completes (.vinDestroy c 0xDE57 ckptOk) s fun t =>
        AnsweredWith c St.stateConflict (s.instHolds c.inst % 2 ^ 32) t ∧ t.vin = s.vin) ∧
  (∀ (i : Nat) (u : FenceUnit) (f : Fence) (s : State),
      (s.inst i).fence = some f ∧ u ∈ f.waiting ∧ f.waiting.erase u ≠ [] →
      Completes (.fenceUnitAck i u) s fun t =>
        (t.inst i).fence = some { f with waiting := f.waiting.erase u } ∧ (t.inst i).state = (s.inst i).state) ∧
  (∀ (i : Nat) (u : FenceUnit) (f : Fence) (s : State),
      (s.inst i).fence = some f ∧ u ∈ f.waiting ∧ f.waiting.erase u = [] →
      Completes (.fenceUnitAck i u) s fun t =>
        (t.inst i).fence = none ∧ (t.inst i).state = fenceEndState f ∧
        f.cmds.all (fun c => decide (256 < c.queue) || t.cmd.results.any (fun r => r.queue == c.queue && r.tag == c.tag && r.status == St.ok)) = true) ∧
  (∀ (i : Nat) (f : Fence) (s : State),
      (s.inst i).fence = some f ∧ f.waiting ≠ [] →
      Completes (.fenceTimeout i) s fun t =>
        (t.inst i).fence = none ∧ (t.inst i).state = .fenced ∧ t.reg Reg.VIN_FENCE_FAULT = min (2 ^ 32 - 1) (s.reg Reg.VIN_FENCE_FAULT + 1) ∧
        f.cmds.all (fun c => decide (256 < c.queue) || t.cmd.results.any (fun r => r.queue == c.queue && r.tag == c.tag && r.status == St.internalFault)) = true)

/-- Domains, shutdown, thermal and memory events, recovery and tamper commands take effect (R67, R68, R538, R540, R541, R542, R547, R553,
R556, R592, R598). DOMAIN ON of a domain that is off ramps it, and of one that is on answers OK; DOMAIN OFF switches it off and answers, one
that is off already answers its status, and domain 47 stays on while the pair needs it; a ramp ends done or at fault and answers every
command that waited; STATUS writes its block and answers the status register; SHUTDOWN declares DUSK; VBAT is measured; the thermal pin
follows its thresholds and between them nothing changes; memory errors are logged and one under a command ends it; RECOVERY.ENTER enters
RECOVERY with cause 0x0B, and TAMPER.ACK ends the tamper hold under its authorization alone. -/
def Obligations.PowerCommandsComplete : Prop :=
  (∀ (c : CmdRef) (d : Nat) (s : State),
      c.queue ≤ 256 ∧ d < 64 ∧ State.domClass d = 2 ∧ (s.domain d).state = .on →
      Completes (.pwrDomainOn c d) s fun t =>
        AnsweredWith c St.ok (s.domStatus d % 2 ^ 32) t ∧ t.pwr = s.pwr) ∧
  (∀ (c : CmdRef) (d : Nat) (s : State),
      d < 64 ∧ State.domClass d = 2 ∧ (s.domain d).state ≠ .on →
      Completes (.pwrDomainOn c d) s fun t =>
        (t.domain d).state = .ramping ∧ (t.domain d).cmds = (s.domain d).cmds ++ [c]) ∧
  (∀ (c : CmdRef) (d : Nat) (s : State),
      c.queue ≤ 256 ∧ d < 64 ∧ State.domClass d = 2 ∧ (s.domain d).state ≠ .off ∧ (d = 47 → s.regBit Reg.PAR_CTRL 0 = false ∧ s.dev.role = .solo) →
      Completes (.pwrDomainOff c d) s fun t =>
        (t.domain d).state = .off ∧ (t.domain d).hostOff = true ∧ Answered c St.ok t) ∧
  (∀ (c : CmdRef) (d : Nat) (s : State),
      c.queue ≤ 256 ∧ d < 64 ∧ State.domClass d = 2 ∧ (s.domain d).state = .off →
      Completes (.pwrDomainOff c d) s fun t =>
        AnsweredWith c St.ok (s.domStatus d % 2 ^ 32) t ∧ t.pwr = s.pwr) ∧
  (∀ (c : CmdRef) (s : State),
      c.queue ≤ 256 ∧ (s.domain 47).state ≠ .off ∧ (s.regBit Reg.PAR_CTRL 0 = true ∨ s.dev.role ≠ .solo) →
      Completes (.pwrDomainOff c 47) s fun t =>
        Answered c 0x0210 t ∧ t.pwr = s.pwr) ∧
  (∀ (d : Nat) (s : State),
      (s.domain d).state = .ramping →
      Completes (.domainRampDone d) s fun t =>
        (t.domain d).state = .on ∧ (t.domain d).cmds = [] ∧
        (s.domain d).cmds.all (fun c => decide (256 < c.queue) || t.cmd.results.any (fun r => r.queue == c.queue && r.tag == c.tag && r.status == St.ok)) = true) ∧
  (∀ (d : Nat) (s : State),
      (s.domain d).state = .ramping →
      Completes (.domainRampFault d) s fun t =>
        (t.domain d).state = .fault ∧ (t.domain d).faults = (s.domain d).faults + 1 ∧ (t.domain d).cmds = [] ∧
        (s.domain d).cmds.all (fun c => decide (256 < c.queue) || t.cmd.results.any (fun r => r.queue == c.queue && r.tag == c.tag && r.status == 0x0810)) = true) ∧
  (∀ (c : CmdRef) (s : State),
      c.queue ≤ 256 →
      Completes (.pwrStatus c) s fun t =>
        AnsweredWith c St.ok (s.shown Reg.PWR_STATUS 0 % 2 ^ 32) t ∧ t.pwr = s.pwr ∧
        Writes c (le 8 (s.domMask (· == .on)) ++ le 8 (s.domMask (· == .fault)) ++ (List.range 8).flatMap (fun k => le 4 (s.pwr.stageTime.getD k 0)) ++
          le 4 s.pwr.duskInfo ++ le 4 (s.shown Reg.PWR_RESET_CAUSE 0) ++ zeros 8) s t) ∧
  (∀ (c : CmdRef) (s : State),
      s.dev.state ≠ .dusk ∧ s.dev.state ≠ .night →
      Completes (.pwrShutdownRestart c 0xD05E) s fun t =>
        t.dev.state = .dusk ∧ t.reg Reg.GLB_STATE_CAUSE % 256 = 0x07 ∧ t.pwr.duskCause = 4) ∧
  (∀ (c : CmdRef) (s : State),
      s.dev.state ≠ .dusk ∧ s.dev.state ≠ .night →
      Completes (.pwrShutdownHalt c 0xD05E) s fun t =>
        t.dev.state = .dusk ∧ t.pwr.duskCause = 4 ∧ t.pwr.haltAsked = true) ∧
  (∀ (temp : Int) (s : State),
      (107 ≤ temp ∧ s.pwr.thermLow = false ∧ (s.begun 1 ∨ s.dev.state = .recovery)) →
      Completes (.thermalThreshold temp) s fun t =>
        t.pwr.thermLow = true ∧ t.out.head? = some (.pin 5 false)) ∧
  (∀ (temp : Int) (s : State),
      (temp < 103 ∧ s.pwr.thermLow = true ∧ (s.begun 1 ∨ s.dev.state = .recovery)) →
      Completes (.thermalThreshold temp) s fun t =>
        t.pwr.thermLow = false ∧ t.out.head? = some (.pin 5 true)) ∧
  (∀ (temp : Int) (s : State),
      103 ≤ temp ∧ temp < 107 →
      Completes (.thermalThreshold temp) s fun t => t = s) ∧
  (∀ (ch rank a : Nat) (s : State),
      Completes (.dramScrub ch rank a true) s fun t =>
        t = s.logEvent 0 { recorder := 0, source := 0x13, kind := 0, arg0 := ch, arg1 := a, arg2 := rank }) ∧
  (∀ (c : CmdRef) (ch rank a : Nat) (s : State),
      c.queue ≤ 256 →
      Completes (.dramUncorrectable ch rank a (some c)) s fun t =>
        Answered c St.internalFault t ∧ ∀ j ∈ t.arc.jobs, j.cmd ≠ c) ∧
  (∀ (ch rank a : Nat) (s : State),
      Completes (.dramUncorrectable ch rank a none) s fun t =>
        t = s.logEvent 0 { recorder := 0, source := 0x13, kind := 1, arg0 := ch, arg1 := a, arg2 := rank }) ∧
  (∀ (mv : Nat) (s : State),
      s.dev.state ≠ .night →
      Completes (.vbatMeasure mv) s fun t =>
        t.aon.vbatMv = mv ∧ (2425 < mv → t.aon.vbatLow = false) ∧ (mv < 2375 → t.aon.vbatLow = true)) ∧
  (∀ (c : CmdRef) (auth : AuthIn) (s : State),
      c.queue ≤ 256 ∧ s.dataHeld c = false ∧ s.classActive 0 = false ∧ s.dev.tamperHold = true ∧ s.authPasses auth 2 s.met.covers = true →
      Completes (.glbTamperAck c auth) s fun t =>
        t.dev.tamperHold = false ∧ Answered c St.ok t ∧ t.regBit Reg.GLB_HOLD_CAUSES 5 = false) ∧
  (∀ (c : CmdRef) (auth : AuthIn) (s : State),
      c.queue ≤ 256 ∧ s.dataHeld c = false ∧ s.classActive 0 = false ∧ s.dev.tamperHold = true ∧ s.authPasses auth 2 s.met.covers = false →
      Completes (.glbTamperAck c auth) s fun t =>
        t.dev.tamperHold = true ∧ Answered c St.notAuthorized t) ∧
  (∀ (c : CmdRef) (port : Nat) (s : State),
      (s.dev.state = .day ∨ s.dev.state = .twilight) →
      Completes (.glbRecoveryEnter c 0xA5C3 port) s fun t =>
        t.dev.state = .recovery ∧ t.reg Reg.GLB_STATE_CAUSE % 256 = 0x0B ∧ t.svc.loaderPort = port % 2)

/-- DAWN's stages, DUSK and NIGHT, and a drive that rejoins (R67, R308, R538, R545, R546, R549, R550, R551, R552). A stage of DAWN that may
end is followed by the next: D0 takes the side and BOOT_REC, D1 with BOOT_REC enters RECOVERY with cause 0x0C, D2 runs the slot the ROM
chooses or, with none, enters RECOVERY with cause 0x0D, and D7 waits for the tamper hold and then takes the role and leads to DAY or
TWILIGHT; supply, reset and reference failures declare DUSK, but for the reference before D2; the end of the save leads to DAWN where the
supply is valid and waits where it is not, the switch-over to NIGHT, the supply's return to DAWN, and the rise of SYS_RST_N lets a halted
DUSK go on; ARC.DRIVE.REJOIN assembles the set again. -/
def Obligations.DawnAndDuskEventsComplete : Prop :=
  (∀ (d : DawnIn) (s : State),
      (s.stageMayEnd d = true ∧ s.dev.stage ∈ [1, 3, 4, 5, 6] ∧ (s.dev.stage = 1 → s.pwr.bootRec = false)) →
      Completes (.dawnStageEnd d) s fun t =>
        t.dev.state = .dawn ∧ t.dev.stage = s.dev.stage + 1 ∧ t.pwr.stageTime.getD s.dev.stage 0 = min d.timeUs (2 ^ 32 - 1)) ∧
  (∀ (d : DawnIn) (s : State),
      s.stageMayEnd d = true ∧ s.dev.stage = 0 →
      Completes (.dawnStageEnd d) s fun t =>
        t.dev.state = .dawn ∧ t.dev.stage = 1 ∧ t.par.side = d.sideB ∧ t.pwr.bootRec = d.bootRecLow ∧ t.aon.vbatMv = d.vbatMv ∧
        t.pwr.stageTime.getD 0 0 = min d.timeUs (2 ^ 32 - 1)) ∧
  (∀ (d : DawnIn) (s : State),
      s.stageMayEnd d = true ∧ s.dev.stage = 1 ∧ s.pwr.bootRec = true →
      Completes (.dawnStageEnd d) s fun t =>
        t.dev.state = .recovery ∧ t.reg Reg.GLB_STATE_CAUSE % 256 = 0x0C) ∧
  (∀ (d : DawnIn) (k : Nat) (u s : State),
      s.stageMayEnd d = true ∧ s.dev.stage = 2 ∧ s.chooseSlot (fun k => if k = 0 then d.sigA else d.sigB) = (some k, u) →
      Completes (.dawnStageEnd d) s fun t =>
        t.dev.state = .dawn ∧ t.dev.stage = 3 ∧ t.upd.slot = k ∧ t.upd.flash = u.upd.flash ∧ t.dev.fwId = pkFwId (u.slotHeader k)) ∧
  (∀ (d : DawnIn) (u s : State),
      s.stageMayEnd d = true ∧ s.dev.stage = 2 ∧ s.chooseSlot (fun k => if k = 0 then d.sigA else d.sigB) = (none, u) →
      Completes (.dawnStageEnd d) s fun t =>
        t.dev.state = .recovery ∧ t.reg Reg.GLB_STATE_CAUSE % 256 = 0x0D ∧ t.svc.loaderPort = 0) ∧
  (∀ (d : DawnIn) (s : State),
      s.stageMayEnd d = true ∧ s.dev.stage = 7 ∧ s.dev.tamperHold = true →
      Completes (.dawnStageEnd d) s fun t =>
        t.pwr.d7Waiting = true ∧ t.dev = s.dev) ∧
  (∀ (d : DawnIn) (s : State),
      s.stageMayEnd d = true ∧ s.dev.stage = 7 ∧ s.dev.tamperHold = false ∧ s.regBit Reg.PAR_CTRL 0 = false ∧ s.claimBarred = false →
      (d.claim.ownIn = false ∧ d.claim.high = false ∧ (d.claim.race = false ∨ s.par.side = false)) →
      Completes (.dawnStageEnd d) s fun t =>
        t.dev.role = .solo ∧ t.par.owned = true ∧ t.par.permit = true ∧
        t.dev.state = (if s.regBit Reg.GLB_BOOT_CTRL 0 = true ∨ s.reg Reg.GLB_HOLD_CAUSES ≠ 0 then .twilight else .day)) ∧
  (∀ (d : DawnIn) (s : State),
      s.stageMayEnd d = true ∧ s.dev.stage = 7 ∧ s.dev.tamperHold = false ∧ s.regBit Reg.PAR_CTRL 0 = true →
      Completes (.dawnStageEnd d) s fun t =>
        t.dev.role = .standby ∧ t.dev.state = (if s.regBit Reg.GLB_BOOT_CTRL 0 = true ∨ s.reg Reg.GLB_HOLD_CAUSES ≠ 0 then .twilight else .day)) ∧
  (∀ (c : CmdRef) (d : CtrlIn) (disc slot : Nat) (s : State),
      c.queue ≤ 256 ∧ s.arc.phase = .failed ∧ s.ctrl disc = some d ∧ slot ∈ s.arc.journal →
      s.labelOf slot d = true →
      (((s.replyQueued c).arcRecover s.arc.found).afterRecovery).arcUp = true →
      Completes (.arcDriveRejoin c disc slot) s fun t =>
        Answered c St.ok t ∧ t.arcUp = true) ∧
  (∀ (v : SupplyIn) (s : State),
      v.vsenseMv < 891 ∧ 2200 ≤ v.lowNs ∧ s.dev.state ≠ .dusk ∧ s.dev.state ≠ .night →
      Completes (.vsenseFail v) s fun t =>
        t.dev.state = .dusk ∧ t.pwr.duskCause = 1 ∧ t.pwr.supplyValid = false) ∧
  (∀ (s : State),
      s.dev.state ≠ .dusk ∧ s.dev.state ≠ .night →
      Completes (.sfailNLow) s fun t =>
        t.dev.state = .dusk ∧ t.reg Reg.GLB_STATE_CAUSE % 256 = 0x07 ∧ t.pwr.duskCause = 2 ∧ t.pwr.supplyValid = false) ∧
  (∀ (s : State),
      s.dev.state ≠ .dusk ∧ s.dev.state ≠ .night →
      Completes (.sysRstNLow) s fun t =>
        t.dev.state = .dusk ∧ t.pwr.duskCause = 3 ∧ t.pwr.supplyValid = false ∧ t.pwr.sysRst = true) ∧
  (∀ (s : State),
      (s.dev.state = .day ∨ s.dev.state = .twilight ∨ s.dev.state = .recovery ∨ (s.dev.state = .dawn ∧ 2 ≤ s.dev.stage)) →
      Completes (.referenceLoss) s fun t =>
        t.dev.state = .dusk ∧ t.pwr.duskCause = 5 ∧ t.pwr.refOk = false) ∧
  (∀ (s : State),
      s.dev.state = .dawn ∧ s.dev.stage < 2 →
      Completes (.referenceLoss) s fun t =>
        t.pwr.refOk = false ∧ t.dev = s.dev) ∧
  (∀ (v : Bool) (s : State),
      s.dev.state = .night →
      Completes (.supplyValid v) s fun t =>
        t.dev.state = .dawn ∧ t.dev.stage = 0 ∧ t.reg Reg.GLB_STATE_CAUSE % 256 = 0x0A ∧ t.pwr.supplyValid = true ∧ (v = true → t.aon.rtcValid = false)) ∧
  (∀ (v : Bool) (s : State),
      s.dev.state ≠ .dusk ∧ s.dev.state ≠ .night →
      Completes (.supplyValid v) s fun t => t = s.supplyOn) ∧
  (∀ (v : Bool) (s : State),
      s.dev.state = .dusk ∧ s.pwr.saveDone = true ∧ s.pwr.halted = false →
      Completes (.supplyValid v) s fun t =>
        t.dev.state = .dawn ∧ t.dev.stage = 0 ∧ t.reg Reg.GLB_STATE_CAUSE % 256 = 0x08) ∧
  (∀ (b : Bool) (n : Nat) (s : State),
      s.dev.state = .dusk ∧ s.pwr.saveDone = false ∧ s.pwr.supplyValid = false →
      Completes (.duskSaveEnd b n) s fun t =>
        t.dev.state = .dusk ∧ t.pwr.saveDone = true ∧ t.pwr.halted = s.pwr.haltAsked) ∧
  (∀ (b : Bool) (n : Nat) (s : State),
      s.dev.state = .dusk ∧ s.pwr.saveDone = false ∧ s.pwr.supplyValid = true ∧ s.pwr.haltAsked = false →
      Completes (.duskSaveEnd b n) s fun t =>
        t.dev.state = .dawn ∧ t.dev.stage = 0 ∧ t.reg Reg.GLB_STATE_CAUSE % 256 = 0x08) ∧
  (∀ (s : State),
      s.dev.state = .dusk →
      Completes (.supplySwitchover) s fun t =>
        t.dev.state = .night ∧ t.reg Reg.GLB_STATE_CAUSE % 256 = 0x09 ∧ t.aon.nightRecs = [] ∧ t.pwr.supplyValid = false) ∧
  (∀ (s : State),
      s.dev.state = .dusk ∧ s.pwr.halted = true ∧ s.pwr.sysRst = true →
      Completes (.sysRstNRise) s fun t =>
        t.dev.state = .dawn ∧ t.dev.stage = 0 ∧ t.pwr.sysRst = false) ∧
  (∀ (s : State),
      s.dev.state ≠ .dusk ∨ s.pwr.halted = false →
      Completes (.sysRstNRise) s fun t =>
        t = { s with pwr := { s.pwr with sysRst := false } })

/-- The recorders take events, commit, load, read, clear and are configured (R559, R562, R563, R565, R567, R568, R570). An event at a
recorder's input is offered to it and to no other; the staged record commits; a period's end writes its summary and applies the
configuration, and at any other second nothing happens; samples are taken; a cursor write starts a load at the record named or at the
oldest, and past the last committed record shows none; the load's end shows the record; a read of WIN15 answers the word and advances where
ADVANCE is set and another record is committed; READ writes the records and answers the next sequence number, CLEAR leaves a marker and is
refused of recorder 7, and CONFIG waits for the period's end. -/
def Obligations.RecorderCommandsComplete : Prop :=
  (∀ (e : EventIn) (s : State),
      e.recorder < 8 →
      Completes (.evrEvent e) s fun t =>
        t.recorder e.recorder = ((s.recorder e.recorder).offerMarked (s.evNow e.recorder) 0x15 { source := e.source, kind := 0, inst := e.inst, code := e.kind, stamp := s.evNow e.recorder, payload := [e.arg0, e.arg1, e.arg2, e.arg3] }).1 ∧ ∀ r ∈ List.range 8, r ≠ e.recorder → t.recorder r = s.recorder r) ∧
  (∀ (r n : Nat) (e : EvRecord) (s : State),
      (s.recorder r).staged = some (n, e) →
      Completes (.evrRecordCommit r) s fun t =>
        t.recorder r = ((s.recorder r).commit (recorderCap r)).1 ∧ ((s.recorder r).queue = [] → (t.recorder r).staged = none)) ∧
  (∀ (r : Nat) (x : Bool) (s : State),
      s.nowSec % (if x then (s.recorder r).extS else (s.recorder r).histS) = 0 →
      Completes (.evrHistPeriodEnd r x) s fun t =>
        t.recorder r = ((if x then s.endExtremes r else s.endHists r).recorder r).applyCfg ∧ (t.recorder r).nextCfg = none) ∧
  (∀ (r : Nat) (x : Bool) (s : State),
      s.nowSec % (if x then (s.recorder r).extS else (s.recorder r).histS) ≠ 0 →
      Completes (.evrHistPeriodEnd r x) s fun t => t = s) ∧
  (∀ (a b v : Int) (s : State),
      Completes (.evrExtremesSample a b v) s fun t =>
        (t.recorder 4).extremes = sampleExtreme 0x0200 b s.stamp (s.recorder 4).extremes ∧ (t.recorder 5).extremes = sampleExtreme 0x0201 v s.stamp (sampleExtreme 0x0200 a s.stamp (s.recorder 5).extremes)) ∧
  (∀ (n : Nat) (s : State),
      (s.recorder s.recSel).oldest ≤ n ∧ n < (s.recorder s.recSel).committed →
      Completes (.evrCursorWrite n) s fun t =>
        (t.evView s.recSel).cursor = n ∧ (t.evView s.recSel).busy = some n ∧ (t.evView s.recSel).cursorLost = false) ∧
  (∀ (n : Nat) (s : State),
      n < (s.recorder s.recSel).oldest ∧ (s.recorder s.recSel).oldest < (s.recorder s.recSel).committed →
      Completes (.evrCursorWrite n) s fun t =>
        (t.evView s.recSel).cursor = (s.recorder s.recSel).oldest ∧ (t.evView s.recSel).busy = some (s.recorder s.recSel).oldest ∧ (t.evView s.recSel).cursorLost = true) ∧
  (∀ (n : Nat) (s : State),
      (s.recorder s.recSel).committed ≤ n →
      Completes (.evrCursorWrite n) s fun t =>
        (t.evView s.recSel).cursor = n ∧ (t.evView s.recSel).busy = none ∧ (t.evView s.recSel).snap = none) ∧
  (∀ (n : Nat) (e : EvRecord) (s : State),
      (s.evView s.recSel).busy = some n ∧ (s.recorder s.recSel).recs.get? n = some e →
      Completes (.evrLoadDone) s fun t =>
        (t.evView s.recSel).busy = none ∧ (t.evView s.recSel).snap = some (n, e)) ∧
  (∀ (s : State),
      bitAt (s.regI Reg.EVR_CTRL s.recSel) 0 = false ∨ (s.evView s.recSel).cursor + 1 = (s.recorder s.recSel).committed →
      Completes (.evrWin15Read) s fun t =>
        t.out = .readAnswer 0 s.hbr.idoCpl (le 4 ((s.liveEvr (windowBase 21 + 0x7C) 0).getD 0)) :: s.out ∧ t.evr = s.evr) ∧
  (∀ (n : Nat) (s : State),
      bitAt (s.regI Reg.EVR_CTRL s.recSel) 0 = true ∧ n = (s.evView s.recSel).cursor + 1 ∧ (s.recorder s.recSel).oldest ≤ n ∧ n < (s.recorder s.recSel).committed →
      Completes (.evrWin15Read) s fun t =>
        t.out = .readAnswer 0 s.hbr.idoCpl (le 4 ((s.liveEvr (windowBase 21 + 0x7C) 0).getD 0)) :: s.out ∧ (t.evView s.recSel).cursor = n ∧ (t.evView s.recSel).busy = some n ∧
        (t.evView s.recSel).cursorLost = (s.evView s.recSel).cursorLost) ∧
  (∀ (c : CmdRef) (r first n : Nat) (l : List (Nat × EvRecord)) (s : State),
      c.queue ≤ 256 ∧ r < 8 ∧ 0 < n ∧ n ≤ recorderCap r ∧ l = s.readRecords r first n (if c.queue < 256 then some c.inst else none) →
      Completes (.evrRead c r first n) s fun t =>
        AnsweredWith c St.ok ((match l.getLast? with | some e => e.1 + 1 | none => max first (s.recorder r).oldest) % 2 ^ 32) t ∧ t.evr = s.evr ∧
        Writes c (l.flatMap (fun e => e.2.bytes e.1)) s t) ∧
  (∀ (c : CmdRef) (r : Nat) (s : State),
      c.queue ≤ 256 ∧ r < 7 →
      Completes (.evrClear c r 0xC1EA) s fun t =>
        AnsweredWith c St.ok ((t.recorder r).oldest % 2 ^ 32) t ∧ (t.recorder r).recs.map (·.1) = [(t.recorder r).oldest] ∧ (t.recorder r).hists = [] ∧ (t.recorder r).extremes = []) ∧
  (∀ (c : CmdRef) (s : State),
      c.queue ≤ 256 →
      Completes (.evrClear c 7 0xC1EA) s fun t =>
        Answered c St.notAuthorized t ∧ t.evr = s.evr) ∧
  (∀ (c : CmdRef) (r h x p : Nat) (s : State),
      c.queue ≤ 256 ∧ r < 7 ∧ 0 < h ∧ h ≤ 255 ∧ 0 < x ∧ x ≤ 65535 ∧ p ≤ 60000 →
      Completes (.evrConfig c r h x p) s fun t =>
        Answered c St.ok t ∧ (t.recorder r).nextCfg = some (h, x, p))
end

