-- ==== Sys2Proof/Laws/Keeps.lean ====
section
/-! SUPPORT. The relation between the states before and after an operation: what changes lies in a list of parts, the canonical forms are
kept. -/
set_option Elab.async false
namespace Sys2Proof.Machine

/-- What an operation does to a state: it changes the parts of the list alone, and keeps the canonical forms. -/
structure Keeps (ps : List Part) (s t : State) : Prop where
  pending : t.pending = s.pending
  frame : ∀ p, allows ps p = false → p.same s t
  regs : s.regsOk = true → t.regsOk = true
  flash : Memory.wf s.upd.flash = true → Memory.wf t.upd.flash = true

/-- A number for each part. -/
def Part.code : Part → Nat
  | .regs => 0
  | .out => 1
  | .freeCtr => 2
  | .dev => 3
  | .seam => 4
  | .cmd => 5
  | .hbr => 6
  | .fab => 7
  | .vin => 8
  | .pwr => 9
  | .aon => 10
  | .evr => 11
  | .tim => 12
  | .kvt => 13
  | .ing => 14
  | .plc => 15
  | .rfx => 16
  | .fse => 17
  | .msh => 18
  | .cod => 19
  | .arc => 20
  | .los => 21
  | .met => 22
  | .bil => 23
  | .par => 24
  | .upd => 25
  | .svc => 26
  | .wins => 27
  | .life => 28
  | .flash => 29
  | .win w => 30 + w

/-- Is a part of this number in the list? -/
def may (qs : List Part) (n : Nat) : Bool := qs.any (fun q => Nat.beq q.code n)

/-- Is the part the registers of one window? -/
def Part.isWin : Part → Bool
  | .win _ => true
  | _ => false

/-- Every part the first list allows the second allows too. -/
def covers (ps qs : List Part) : Bool :=
  (may qs 27 && ps.all (fun p => p.isWin || may qs p.code)) || ps.all (fun p => may qs p.code)

theorem Part.same_refl (s : State) (p : Part) : p.same s s := by cases p <;> first | rfl | exact trivial | exact fun _ => rfl | exact fun _ _ => rfl

theorem Part.same_trans {s t u : State} {p : Part} (h : p.same s t) (k : p.same t u) : p.same s u := by
  cases p <;> first | exact trivial | exact Eq.trans k h | exact fun x => (k x).trans (h x) | exact fun x hx => (k x hx).trans (h x hx)

theorem Keeps.refl {ps : List Part} {s : State} : Keeps ps s s := ⟨rfl, fun p _ => p.same_refl s, id, id⟩

theorem allows_iff {ps : List Part} {p : Part} : allows ps p = true ↔ p ∈ ps ∨ (∃ w, p = .win w ∧ .wins ∈ ps) := by
  cases p <;> simp [allows, or_comm]

theorem Part.code_inj {p q : Part} (h : p.code = q.code) : p = q := by
  cases p <;> cases q <;> simp only [Part.code] at h <;> first | rfl | omega | (congr; omega)

theorem may_iff {qs : List Part} {p : Part} : may qs p.code = true ↔ p ∈ qs := by
  simp only [may, List.any_eq_true]
  constructor
  · rintro ⟨q, hq, he⟩
    rw [← Part.code_inj (Nat.eq_of_beq_eq_true he)]
    exact hq
  · exact fun h => ⟨p, h, Nat.beq_refl _⟩

theorem allows_of_may {qs : List Part} {p : Part} (h : may qs p.code = true) : allows qs p = true := allows_iff.2 (.inl (may_iff.1 h))

theorem covers_iff {ps qs : List Part} : covers ps qs = true ↔ ∀ x, x ∈ ps → allows qs x = true := by
  constructor
  · intro h x hx
    rcases Bool.or_eq_true_iff.1 h with h | h
    · obtain ⟨hw, ha⟩ := Bool.and_eq_true_iff.1 h
      have hw : Part.wins ∈ qs := (may_iff (p := .wins)).1 hw
      rcases Bool.or_eq_true_iff.1 (List.all_eq_true.1 ha x hx) with hc | hc
      · refine allows_iff.2 (.inr ?_)
        cases x <;> first | exact ⟨_, rfl, hw⟩ | cases hc
      · exact allows_of_may hc
    · exact allows_of_may (List.all_eq_true.1 h x hx)
  · intro h
    cases hw : may qs 27 with
    | true =>
      refine Bool.or_eq_true_iff.2 (.inl (Bool.and_eq_true_iff.2 ⟨hw, List.all_eq_true.2 fun x hx => ?_⟩))
      rcases allows_iff.1 (h x hx) with hm | ⟨w, rfl, _⟩
      · exact Bool.or_eq_true_iff.2 (.inr (may_iff.2 hm))
      · rfl
    | false =>
      refine Bool.or_eq_true_iff.2 (.inr (List.all_eq_true.2 fun x hx => ?_))
      rcases allows_iff.1 (h x hx) with hm | ⟨_, _, hm⟩
      · exact may_iff.2 hm
      · rw [show (27 : Nat) = Part.wins.code from rfl, may_iff.2 hm] at hw
        cases hw

theorem allows_of_covers {ps qs : List Part} (h : covers ps qs = true) {p : Part} (hp : allows qs p = false) : allows ps p = false := by
  have hall := covers_iff.1 h
  cases hc : allows ps p with
  | false => rfl
  | true =>
    rcases allows_iff.1 hc with hm | ⟨w, rfl, hm⟩
    · rw [hall p hm] at hp
      cases hp
    · rcases allows_iff.1 (hall _ hm) with hw | ⟨_, hw, _⟩
      · rw [allows_iff.2 (.inr ⟨w, rfl, hw⟩)] at hp
        cases hp
      · cases hw

theorem covers_trans {ps qs rs : List Part} (h : covers ps qs = true) (k : covers qs rs = true) : covers ps rs = true := by
  refine covers_iff.2 fun x hx => ?_
  cases hc : allows rs x with
  | true => rfl
  | false =>
    have := allows_of_covers k hc
    rw [covers_iff.1 h x hx] at this
    cases this

/-- An operation after others. -/
theorem Keeps.step {ps qs : List Part} {s t u : State} (h : Keeps qs s t) (k : Keeps ps t u) (hc : covers ps qs = true) : Keeps qs s u :=
  ⟨k.pending.trans h.pending, fun p hp => Part.same_trans (h.frame p hp) (k.frame p (allows_of_covers hc hp)), fun x => k.regs (h.regs x),
    fun x => k.flash (h.flash x)⟩

theorem Keeps.trans {ps : List Part} {s t u : State} (h : Keeps ps s t) (k : Keeps ps t u) : Keeps ps s u :=
  ⟨k.pending.trans h.pending, fun p hp => Part.same_trans (h.frame p hp) (k.frame p hp), fun x => k.regs (h.regs x), fun x => k.flash (h.flash x)⟩

theorem Keeps.toFrame {ps : List Part} {s t : State} (h : Keeps ps s t) : Frame ps s t := ⟨h.pending, h.frame⟩

theorem Keeps.ite {ps : List Part} {s t u : State} {c : Prop} [Decidable c] (h : Keeps ps s t) (k : Keeps ps s u) :
    Keeps ps s (if c then t else u) := by split <;> assumption

/-- A conditional operation after others. -/
theorem Keeps.iteR {ps : List Part} {s t u : State} {c : Prop} [Decidable c] (h : Keeps ps s u) (k : Keeps ps u t) :
    Keeps ps s (if c then t else u) := by
  split
  · exact h.trans k
  · exact h

theorem Keeps.iteL {ps : List Part} {s t u : State} {c : Prop} [Decidable c] (h : Keeps ps s t) (k : Keeps ps t u) :
    Keeps ps s (if c then t else u) := by
  split
  · exact h
  · exact h.trans k

theorem Keeps.foldl {α : Type} {ps : List Part} {f : State → α → State} {l : List α} {s t : State} (h : Keeps ps s t)
    (hf : ∀ u x, Keeps ps u (f u x)) : Keeps ps s (l.foldl f t) := by
  induction l generalizing t with
  | nil => exact h
  | cons x l ih => exact ih (h.trans (hf t x))

/-- `Keeps` in a proof that walks through a definition: `b` says whether an update of fields may be met next. -/
def Walk (_b : Bool) (ps : List Part) (s t : State) : Prop := Keeps ps s t

theorem Walk.refl {b : Bool} {ps : List Part} {s : State} : Walk b ps s s := Keeps.refl

theorem Walk.step {b : Bool} {ps qs : List Part} {s t u : State} (h : Walk true qs s t) (k : Keeps ps t u) (hc : covers ps qs = true) :
    Walk b qs s u := Keeps.step h k hc

theorem Walk.trans {b : Bool} {ps : List Part} {s t u : State} (h : Walk true ps s t) (k : Walk true ps t u) : Walk b ps s u := Keeps.trans h k

/-- A named intermediate state. -/
theorem Walk.bind {b : Bool} {ps : List Part} {s e : State} {f : State → State} (h : Walk true ps s e)
    (k : ∀ u, Walk true ps s u → Walk b ps s (f u)) : Walk b ps s (have u := e; f u) := k e h

theorem Walk.ite {b : Bool} {ps : List Part} {s t u : State} {c : Prop} [Decidable c] (h : Walk b ps s t) (k : Walk b ps s u) :
    Walk b ps s (if c then t else u) := Keeps.ite h k

theorem Walk.ite2 {b : Bool} {α : Type} {ps : List Part} {s : State} {c : Prop} [Decidable c] {x y : α × State} (h : Walk b ps s x.2)
    (k : Walk b ps s y.2) : Walk b ps s (if c then x else y).2 := by split <;> assumption

theorem Walk.ite22 {b : Bool} {α β : Type} {ps : List Part} {s : State} {c : Prop} [Decidable c] {x y : α × β × State}
    (h : Walk b ps s x.2.2) (k : Walk b ps s y.2.2) : Walk b ps s (if c then x else y).2.2 := by split <;> assumption

theorem Walk.iteR {b : Bool} {ps : List Part} {s t u : State} {c : Prop} [Decidable c] (h : Walk true ps s u) (k : Walk true ps u t) :
    Walk b ps s (if c then t else u) := Keeps.iteR h k

theorem Walk.foldl {b : Bool} {α : Type} {ps : List Part} {f : State → α → State} {l : List α} {s t : State} (h : Walk true ps s t)
    (hf : ∀ u x, Walk true ps u (f u x)) : Walk b ps s (l.foldl f t) := Keeps.foldl h hf

theorem Walk.foldl1 {b : Bool} {α β : Type} {ps : List Part} {f : State × β → α → State × β} {l : List α} {s t : State} {c : β}
    (h : Walk true ps s t) (hf : ∀ u d x, Walk true ps u (f (u, d) x).1) : Walk b ps s (l.foldl f (t, c)).1 := by
  induction l generalizing t c with
  | nil => exact h
  | cons x l ih => exact ih (t := (f (t, c) x).1) (c := (f (t, c) x).2) (Keeps.trans h (hf t c x))

theorem Walk.foldl2 {b : Bool} {α β : Type} {ps : List Part} {f : β × State → α → β × State} {l : List α} {s t : State} {c : β}
    (h : Walk true ps s t) (hf : ∀ u d x, Walk true ps u (f (d, u) x).2) : Walk b ps s (l.foldl f (c, t)).2 := by
  induction l generalizing t c with
  | nil => exact h
  | cons x l ih => exact ih (t := (f (c, t) x).2) (c := (f (c, t) x).1) (Keeps.trans h (hf t c x))

/-- `Walk` at a state written out by its fields. -/
def WalkMk (ps : List Part) (s : State) (x_pending : List Instr) (x_regs : Tab Word) (x_out : List Out) (x_freeCtr : Nat) (x_dev : Dev) (x_seam : Seam) (x_cmd : CmdUnit) (x_hbr : Hbr) (x_fab : Fab) (x_vin : Vin) (x_pwr : Pwr) (x_aon : Aon) (x_evr : Evr) (x_tim : Tim) (x_kvt : Kvt) (x_ing : Ing) (x_plc : Plc) (x_rfx : Rfx) (x_fse : Fse) (x_msh : Msh) (x_cod : Cod) (x_arc : Arc) (x_los : Los) (x_met : Met) (x_bil : Bil) (x_par : Par) (x_upd : Upd) (x_svc : Svc) : Prop := Walk true ps s ⟨x_pending, x_regs, x_out, x_freeCtr, x_dev, x_seam, x_cmd, x_hbr, x_fab, x_vin, x_pwr, x_aon, x_evr, x_tim, x_kvt, x_ing, x_plc, x_rfx, x_fse, x_msh, x_cod, x_arc, x_los, x_met, x_bil, x_par, x_upd, x_svc⟩

theorem Walk.mk_eq {ps : List Part} {s : State} {x_pending x_regs x_out x_freeCtr x_dev x_seam x_cmd x_hbr x_fab x_vin x_pwr x_aon x_evr x_tim x_kvt x_ing x_plc x_rfx x_fse x_msh x_cod x_arc x_los x_met x_bil x_par x_upd x_svc} :
    Walk true ps s ⟨x_pending, x_regs, x_out, x_freeCtr, x_dev, x_seam, x_cmd, x_hbr, x_fab, x_vin, x_pwr, x_aon, x_evr, x_tim, x_kvt, x_ing, x_plc, x_rfx, x_fse, x_msh, x_cod, x_arc, x_los, x_met, x_bil, x_par, x_upd, x_svc⟩ = WalkMk ps s x_pending x_regs x_out x_freeCtr x_dev x_seam x_cmd x_hbr x_fab x_vin x_pwr x_aon x_evr x_tim x_kvt x_ing x_plc x_rfx x_fse x_msh x_cod x_arc x_los x_met x_bil x_par x_upd x_svc := rfl

/-- An update of fields after operations: each field is left, or its part may change. -/
theorem Walk.update {ps : List Part} {s u : State} {x_out x_freeCtr x_dev x_seam x_cmd x_hbr x_fab x_vin x_pwr x_aon x_evr x_tim x_kvt x_ing x_plc x_rfx x_fse x_msh x_cod x_arc x_los x_met x_bil x_par x_upd x_svc} (h : Walk false ps s u)
    (h_out : may ps 1 = true ∨ x_out = u.out)
    (h_freeCtr : may ps 2 = true ∨ x_freeCtr = u.freeCtr)
    (h_dev : may ps 3 = true ∨ x_dev = u.dev)
    (h_seam : may ps 4 = true ∨ x_seam = u.seam)
    (h_cmd : may ps 5 = true ∨ x_cmd = u.cmd)
    (h_hbr : may ps 6 = true ∨ x_hbr = u.hbr)
    (h_fab : may ps 7 = true ∨ x_fab = u.fab)
    (h_vin : may ps 8 = true ∨ x_vin = u.vin)
    (h_pwr : may ps 9 = true ∨ x_pwr = u.pwr)
    (h_aon : may ps 10 = true ∨ x_aon = u.aon)
    (h_evr : may ps 11 = true ∨ x_evr = u.evr)
    (h_tim : may ps 12 = true ∨ x_tim = u.tim)
    (h_kvt : may ps 13 = true ∨ x_kvt = u.kvt)
    (h_ing : may ps 14 = true ∨ x_ing = u.ing)
    (h_plc : may ps 15 = true ∨ x_plc = u.plc)
    (h_rfx : may ps 16 = true ∨ x_rfx = u.rfx)
    (h_fse : may ps 17 = true ∨ x_fse = u.fse)
    (h_msh : may ps 18 = true ∨ x_msh = u.msh)
    (h_cod : may ps 19 = true ∨ x_cod = u.cod)
    (h_arc : may ps 20 = true ∨ x_arc = u.arc)
    (h_los : may ps 21 = true ∨ x_los = u.los)
    (h_met : may ps 22 = true ∨ x_met = u.met)
    (h_bil : may ps 23 = true ∨ x_bil = u.bil)
    (h_par : may ps 24 = true ∨ x_par = u.par)
    (h_upd : may ps 25 = true ∨ x_upd = u.upd)
    (h_svc : may ps 26 = true ∨ x_svc = u.svc)
    (h_life : x_dev.life = u.dev.life) (h_flash : x_upd.flash = u.upd.flash) :
    Walk true ps s ⟨u.pending, u.regs, x_out, x_freeCtr, x_dev, x_seam, x_cmd, x_hbr, x_fab, x_vin, x_pwr, x_aon, x_evr, x_tim, x_kvt, x_ing, x_plc, x_rfx, x_fse, x_msh, x_cod, x_arc, x_los, x_met, x_bil, x_par, x_upd, x_svc⟩ := by
  have hm : ∀ p : Part, allows ps p = false → may ps p.code ≠ true := fun p hp hc => by simp [allows_of_may hc] at hp
  refine Keeps.trans h ⟨rfl, fun p hp => ?_, fun k => k, fun k => by rw [← h_flash] at k; exact k⟩
  cases p with
  | regs => exact rfl
  | out => exact h_out.resolve_left (hm _ hp)
  | freeCtr => exact h_freeCtr.resolve_left (hm _ hp)
  | dev => exact h_dev.resolve_left (hm _ hp)
  | seam => exact h_seam.resolve_left (hm _ hp)
  | cmd => exact h_cmd.resolve_left (hm _ hp)
  | hbr => exact h_hbr.resolve_left (hm _ hp)
  | fab => exact h_fab.resolve_left (hm _ hp)
  | vin => exact h_vin.resolve_left (hm _ hp)
  | pwr => exact h_pwr.resolve_left (hm _ hp)
  | aon => exact h_aon.resolve_left (hm _ hp)
  | evr => exact h_evr.resolve_left (hm _ hp)
  | tim => exact h_tim.resolve_left (hm _ hp)
  | kvt => exact h_kvt.resolve_left (hm _ hp)
  | ing => exact h_ing.resolve_left (hm _ hp)
  | plc => exact h_plc.resolve_left (hm _ hp)
  | rfx => exact h_rfx.resolve_left (hm _ hp)
  | fse => exact h_fse.resolve_left (hm _ hp)
  | msh => exact h_msh.resolve_left (hm _ hp)
  | cod => exact h_cod.resolve_left (hm _ hp)
  | arc => exact h_arc.resolve_left (hm _ hp)
  | los => exact h_los.resolve_left (hm _ hp)
  | met => exact h_met.resolve_left (hm _ hp)
  | bil => exact h_bil.resolve_left (hm _ hp)
  | par => exact h_par.resolve_left (hm _ hp)
  | upd => exact h_upd.resolve_left (hm _ hp)
  | svc => exact h_svc.resolve_left (hm _ hp)
  | win w => exact fun _ _ => rfl
  | wins => exact trivial
  | life => exact h_life
  | flash => exact h_flash

/-- Registers and the record log taken back from an earlier state. -/
theorem Walk.putBack {b : Bool} {ps : List Part} {s s1 t : State} {c : CmdUnit} (h : Walk true ps s s1) (k : Walk true ps s1 t)
    (h_regs : may ps 0 = true) (h_cmd : may ps 5 = true) (h_evr : may ps 11 = true) :
    Walk b ps s { t with regs := s1.regs, evr := s1.evr, cmd := c } := by
  have hm : ∀ p : Part, allows ps p = false → may ps p.code ≠ true := fun p hp hc => by simp [allows_of_may hc] at hp
  refine Keeps.trans h ⟨k.pending, fun p hp => ?_, fun x => x, k.flash⟩
  cases p with
  | win w => exact fun _ _ => rfl
  | regs => exact absurd h_regs (hm _ hp)
  | cmd => exact absurd h_cmd (hm _ hp)
  | evr => exact absurd h_evr (hm _ hp)
  | _ => exact k.frame _ hp

/-- The life-cycle state is set. -/
theorem Walk.setLife {b : Bool} {ps : List Part} {s u : State} {d : Dev} (h : Walk true ps s u) (h_dev : may ps 3 = true)
    (h_life : may ps 28 = true) : Walk b ps s { u with dev := d } := by
  have hm : ∀ p : Part, allows ps p = false → may ps p.code ≠ true := fun p hp hc => by simp [allows_of_may hc] at hp
  refine Keeps.trans h ⟨rfl, fun p hp => ?_, fun k => k, fun k => k⟩
  cases p <;> first | rfl | exact trivial | exact fun _ _ => rfl | exact absurd h_dev (hm _ hp) | exact absurd h_life (hm _ hp)

/-- The flash memory is written. -/
theorem Walk.setFlash {b : Bool} {ps : List Part} {s u : State} {x : Upd} (h : Walk true ps s u) (h_upd : may ps 25 = true)
    (h_flash : may ps 29 = true) (hw : Memory.wf u.upd.flash = true → Memory.wf x.flash = true) :
    Walk b ps s { u with upd := x } := by
  have hm : ∀ p : Part, allows ps p = false → may ps p.code ≠ true := fun p hp hc => by simp [allows_of_may hc] at hp
  refine Keeps.trans h ⟨rfl, fun p hp => ?_, fun k => k, hw⟩
  cases p <;> first | rfl | exact trivial | exact fun _ _ => rfl | exact absurd h_upd (hm _ hp) | exact absurd h_flash (hm _ hp)

end Sys2Proof.Machine
end

