-- ==== Sys2Proof/Laws/Regs.lean ====
section
/-! SUPPORT. Tables with rising keys, the flash memory, and the register file: reading back, what else reads as before, the canonical
forms kept. -/
set_option Elab.async false
namespace Sys2Proof.Machine

/-! ### Tables -/

namespace Tab

/-- Every key of the table is above `k`. -/
def above {α : Type} (k : Nat) (t : Tab α) : Prop := ∀ e, e ∈ t → k < e.1

theorem sorted_cons {α : Type} {k : Nat} {v : α} {t : Tab α} : sorted ((k, v) :: t) = true ↔ above k t ∧ sorted t = true := by
  induction t generalizing k v with
  | nil => simp [sorted, above]
  | cons e t ih =>
    obtain ⟨j, w⟩ := e
    simp only [sorted, Bool.and_eq_true, decide_eq_true_eq]
    constructor
    · rintro ⟨hk, hs⟩
      refine ⟨fun e he => ?_, hs⟩
      rcases List.mem_cons.1 he with rfl | he
      · exact hk
      · exact Nat.lt_trans hk ((ih.1 hs).1 e he)
    · rintro ⟨ha, hs⟩
      exact ⟨ha _ (List.mem_cons_self ..), hs⟩

theorem above_put {α : Type} {k i : Nat} {x : α} {t : Tab α} (h : above k t) (hi : k < i) : above k (put t i x) := by
  induction t with
  | nil => simpa [put, above] using hi
  | cons e t ih =>
    obtain ⟨j, w⟩ := e
    have ht : above k t := fun e he => h e (List.mem_cons_of_mem _ he)
    have hj : k < j := h _ (List.mem_cons_self ..)
    intro e he
    simp only [put] at he
    split at he
    · rcases List.mem_cons.1 he with rfl | he
      · exact hi
      · exact h e he
    · split at he
      · rcases List.mem_cons.1 he with rfl | he
        · exact hi
        · exact ht e he
      · rcases List.mem_cons.1 he with rfl | he
        · exact hj
        · exact ih ht e he

theorem sorted_put {α : Type} {i : Nat} {x : α} {t : Tab α} (h : sorted t = true) : sorted (put t i x) = true := by
  induction t with
  | nil => rfl
  | cons e t ih =>
    obtain ⟨j, w⟩ := e
    obtain ⟨ha, hs⟩ := sorted_cons.1 h
    simp only [put]
    split
    · rename_i hi
      refine sorted_cons.2 ⟨fun e he => ?_, h⟩
      rcases List.mem_cons.1 he with rfl | he
      · exact hi
      · exact Nat.lt_trans hi (ha e he)
    · split
      · rename_i _ hi
        exact sorted_cons.2 ⟨hi ▸ ha, hs⟩
      · rename_i h1 h2
        exact sorted_cons.2 ⟨above_put ha (by omega), ih hs⟩

theorem mem_del {α : Type} {i : Nat} {t : Tab α} {e : Nat × α} (h : e ∈ del t i) : e ∈ t := by
  induction t with
  | nil => exact h
  | cons d t ih =>
    obtain ⟨j, w⟩ := d
    simp only [del] at h
    split at h
    · exact List.mem_cons_of_mem _ h
    · rcases List.mem_cons.1 h with rfl | h
      · exact List.mem_cons_self ..
      · exact List.mem_cons_of_mem _ (ih h)

theorem sorted_del {α : Type} {i : Nat} {t : Tab α} (h : sorted t = true) : sorted (del t i) = true := by
  induction t with
  | nil => rfl
  | cons e t ih =>
    obtain ⟨j, w⟩ := e
    obtain ⟨ha, hs⟩ := sorted_cons.1 h
    simp only [del]
    split
    · exact hs
    · exact sorted_cons.2 ⟨fun e he => ha e (mem_del he), ih hs⟩

theorem mem_put {α : Type} {i : Nat} {x : α} {t : Tab α} {e : Nat × α} (h : e ∈ put t i x) : e = (i, x) ∨ e ∈ t := by
  induction t with
  | nil => exact .inl (by simpa [put] using h)
  | cons d t ih =>
    obtain ⟨j, w⟩ := d
    simp only [put] at h
    split at h
    · exact List.mem_cons.1 h
    · split at h
      · rcases List.mem_cons.1 h with h | h
        · exact .inl h
        · exact .inr (List.mem_cons_of_mem _ h)
      · rcases List.mem_cons.1 h with rfl | h
        · exact .inr (List.mem_cons_self ..)
        · exact (ih h).imp id (List.mem_cons_of_mem _)

theorem sorted_filter {α : Type} {p : Nat × α → Bool} {t : Tab α} (h : sorted t = true) : sorted (t.filter p) = true := by
  induction t with
  | nil => rfl
  | cons e t ih =>
    obtain ⟨j, w⟩ := e
    obtain ⟨ha, hs⟩ := sorted_cons.1 h
    simp only [List.filter_cons]
    split
    · exact sorted_cons.2 ⟨fun e he => ha e (List.mem_filter.1 he).1, ih hs⟩
    · exact ih hs

/-- A read of what was just put. -/
@[simp] theorem get_put_same {α : Type} {i : Nat} {x : α} {t : Tab α} : get? (put t i x) i = some x := by
  induction t with
  | nil => simp [put, get?]
  | cons e t ih =>
    obtain ⟨j, w⟩ := e
    simp only [put]
    split
    · simp [get?]
    · split
      · simp [get?]
      · rename_i _ h2
        rw [get?, if_neg (fun hc => h2 hc.symm), ih]

/-- A put leaves every other key's entry. -/
theorem get_put_other {α : Type} {i j : Nat} {x : α} {t : Tab α} (h : j ≠ i) : get? (put t i x) j = get? t j := by
  induction t with
  | nil => simp [put, get?, Ne.symm h]
  | cons e t ih =>
    obtain ⟨k, w⟩ := e
    simp only [put]
    split
    · simp [get?, Ne.symm h]
    · split
      · rename_i _ hk
        simp [get?, Ne.symm h, ← hk]
      · simp only [get?, ih]

theorem get_of_above {α : Type} {k : Nat} {t : Tab α} (h : above k t) : get? t k = none := by
  induction t with
  | nil => rfl
  | cons e t ih =>
    obtain ⟨j, w⟩ := e
    have hj : k < j := h _ (List.mem_cons_self ..)
    rw [get?, if_neg (by omega)]
    exact ih (fun e he => h e (List.mem_cons_of_mem _ he))

/-- A removed key has no entry. -/
theorem get_del_same {α : Type} {i : Nat} {t : Tab α} (h : sorted t = true) : get? (del t i) i = none := by
  induction t with
  | nil => rfl
  | cons e t ih =>
    obtain ⟨j, w⟩ := e
    obtain ⟨ha, hs⟩ := sorted_cons.1 h
    simp only [del]
    split
    · rename_i hj
      exact hj ▸ get_of_above ha
    · rename_i hj
      rw [get?, if_neg hj, ih hs]

/-- A removal leaves every other key's entry. -/
theorem get_del_other {α : Type} {i j : Nat} {t : Tab α} (h : j ≠ i) : get? (del t i) j = get? t j := by
  induction t with
  | nil => rfl
  | cons e t ih =>
    obtain ⟨k, w⟩ := e
    simp only [del]
    split
    · rename_i hk
      rw [get?, if_neg (by omega)]
    · simp only [get?, ih]

end Tab

/-! ### The flash memory (R451) -/

namespace Memory

/-- Every entry of a canonical memory differs from an erased byte. -/
theorem wf_iff {m : Memory} : wf m = true ↔ Tab.sorted m = true ∧ ∀ e, e ∈ m → e.2 ≠ erased := by
  simp [wf, List.all_eq_true]

theorem wf_set {a : Nat} {b : Byte} {m : Memory} (h : wf m = true) : wf (set a b m) = true := by
  obtain ⟨hs, he⟩ := wf_iff.1 h
  unfold set
  split
  · exact wf_iff.2 ⟨Tab.sorted_del hs, fun e hm => he e (Tab.mem_del hm)⟩
  · rename_i hb
    refine wf_iff.2 ⟨Tab.sorted_put hs, fun e hm => ?_⟩
    rcases Tab.mem_put hm with rfl | hm
    · exact hb
    · exact he e hm

theorem wf_program {a : Nat} {b : Bytes} {m : Memory} (h : wf m = true) : wf (program a b m) = true := by
  induction b generalizing a m with
  | nil => exact h
  | cons x b ih => exact ih (wf_set h)

theorem wf_erase {a n : Nat} {m : Memory} (h : wf m = true) : wf (erase a n m) = true := by
  obtain ⟨hs, he⟩ := wf_iff.1 h
  exact wf_iff.2 ⟨Tab.sorted_filter hs, fun e hm => he e (List.mem_filter.1 hm).1⟩

/-- A byte reads back as it was set. -/
theorem read_set_same {a : Nat} {b : Byte} {m : Memory} (h : wf m = true) : read (set a b m) a = b := by
  unfold read set Tab.getD
  split
  · rename_i hb
    rw [Tab.get_del_same (wf_iff.1 h).1, hb]
    rfl
  · rw [Tab.get_put_same]
    rfl

/-- Setting a byte leaves every other byte. -/
theorem read_set_other {a c : Nat} {b : Byte} {m : Memory} (h : c ≠ a) : read (set a b m) c = read m c := by
  unfold read set Tab.getD
  split
  · rw [Tab.get_del_other h]
  · rw [Tab.get_put_other h]

end Memory

/-! ### The register file -/

theorem regsOk_iff {s : State} : s.regsOk = true ↔ Tab.sorted s.regs = true ∧ ∀ e, e ∈ s.regs → e.2 ≠ resetOf e.1 := by
  simp [State.regsOk, List.all_eq_true]

/-- A register reads back as it was set. -/
theorem regW_setKey_same {key : Nat} {w : Word} {s : State} (h : s.regsOk = true) : (s.setKey key w).regW key = w := by
  unfold State.regW State.setKey
  dsimp only
  split
  · rename_i hw
    rw [Tab.get_del_same (regsOk_iff.1 h).1, hw]
    rfl
  · rw [Tab.get_put_same]
    rfl

/-- Setting a register leaves every other register. -/
theorem regW_setKey_other {key k : Nat} {w : Word} {s : State} (h : k ≠ key) : (s.setKey key w).regW k = s.regW k := by
  unfold State.regW State.setKey
  dsimp only
  split
  · rw [Tab.get_del_other h]
  · rw [Tab.get_put_other h]

theorem regsOk_setKey {key : Nat} {w : Word} {s : State} (h : s.regsOk = true) : (s.setKey key w).regsOk = true := by
  obtain ⟨hs, he⟩ := regsOk_iff.1 h
  refine regsOk_iff.2 ?_
  unfold State.setKey
  dsimp only
  split
  · exact ⟨Tab.sorted_del hs, fun e hm => he e (Tab.mem_del hm)⟩
  · rename_i hw
    refine ⟨Tab.sorted_put hs, fun e hm => ?_⟩
    rcases Tab.mem_put hm with rfl | hm
    · exact hw
    · exact he e hm

theorem State.setKey_keeps {key : Nat} {w : Word} {s : State} : Keeps [.regs, .win (winOf key)] s (s.setKey key w) := by
  refine ⟨rfl, fun p hp => ?_, regsOk_setKey, id⟩
  have hk : ∀ k, winOf k ≠ winOf key → (s.setKey key w).regW k = s.regW k := fun k hne => regW_setKey_other (fun hc => hne (by rw [hc]))
  cases p with
  | regs => simp [allows] at hp
  | win v =>
    intro k hv
    refine hk k (fun hc => ?_)
    simp [allows, ← hv, hc] at hp
  | wins => exact trivial
  | _ => exact rfl

/-- The copies of a selected register lie in its window. -/
theorem winOf_regKey (off idx : Nat) : winOf (regKey off idx) = winOf off := by
  simp [winOf, regKey, Nat.add_mod]

/-- Two registers set, one after the other. -/
theorem Keeps.two {a b : Nat} {s t u : State} (h : Keeps [.regs, .win a] s t) (k : Keeps [.regs, .win b] t u) :
    Keeps [.regs, .win a, .win b] s u := by
  refine Keeps.trans ⟨h.pending, fun p hp => h.frame p ?_, h.regs, h.flash⟩ ⟨k.pending, fun p hp => k.frame p ?_, k.regs, k.flash⟩ <;>
    cases p <;> simp_all [allows]

end Sys2Proof.Machine
end

