-- ==== Sys2Proof/Laws/Flash.lean ====
section
/-! SUPPORT. Reading the flash memory after each operation on it: programming clears bits in the bytes it names and leaves the rest, erasing
sets them, and the bytes of a range are one read each. -/
set_option Elab.async false
namespace Sys2Proof.Machine.Memory

theorem bytes_length {m : Memory} {a n : Nat} : (bytes m a n).length = n := by simp [bytes]

theorem bytes_getElem {m : Memory} {a n k : Nat} (h : k < (bytes m a n).length) : (bytes m a n)[k] = read m (a + k) := by
  simp [bytes]

/-- Two memories that read the same over a range have the same bytes there. -/
theorem bytes_congr {m m' : Memory} {a n : Nat} (h : ∀ i, a ≤ i → i < a + n → read m i = read m' i) : bytes m a n = bytes m' a n := by
  refine List.map_congr_left (fun k hk => h _ (Nat.le_add_right _ _) ?_)
  have := List.mem_range.mp hk
  omega

theorem read_program_other {b : Bytes} : ∀ {a i : Nat} {m : Memory}, (i < a ∨ a + b.length ≤ i) → read (program a b m) i = read m i := by
  induction b with
  | nil => intros; rfl
  | cons x t ih =>
    intro a i m h
    rw [List.length_cons] at h
    show read (program (a + 1) t _) i = _
    rw [ih (by omega), read_set_other (by omega)]

/-- A byte programmed reads as what was there with the bits cleared that the new byte has at 0. -/
theorem read_program_same {b : Bytes} : ∀ {a k : Nat} {m : Memory} (_ : wf m = true) (h : k < b.length),
    read (program a b m) (a + k) = read m (a + k) &&& b[k] := by
  induction b with
  | nil => intro a k m _ h; exact absurd h (by simp)
  | cons x t ih =>
    intro a k m hm h
    show read (program (a + 1) t _) (a + k) = _
    cases k with
    | zero => rw [read_program_other (by omega)]; exact read_set_same hm
    | succ k =>
      have := ih (a := a + 1) (k := k) (wf_set (a := a) (b := read m a &&& x) hm) (by simpa using h)
      rw [show a + (k + 1) = a + 1 + k by omega, this, read_set_other (by omega)]
      simp

theorem get?_filter_key {p : Nat → Bool} : ∀ {m : Memory} {i : Nat}, Tab.get? (m.filter (fun c => p c.1)) i = if p i then Tab.get? m i else none := by
  intro m i
  induction m with
  | nil => simp [Tab.get?]
  | cons c t ih =>
    rw [List.filter_cons]
    by_cases hp : p c.1
    · rw [if_pos hp]
      by_cases hc : c.1 = i
      · subst hc; simp [Tab.get?, hp]
      · simp only [Tab.get?, if_neg hc, ih]
    · rw [if_neg hp, ih]
      by_cases hc : c.1 = i
      · subst hc; simp [hp]
      · simp only [Tab.get?, if_neg hc]

theorem read_erase_same {m : Memory} {a n i : Nat} (h : a ≤ i ∧ i < a + n) : read (erase a n m) i = erased := by
  have : (decide (i < a) || decide (a + n ≤ i)) = false := by simp; omega
  unfold read erase Tab.getD
  rw [get?_filter_key (p := fun k => decide (k < a) || decide (a + n ≤ k)), this]
  rfl

theorem read_erase_other {m : Memory} {a n i : Nat} (h : i < a ∨ a + n ≤ i) : read (erase a n m) i = read m i := by
  have : (decide (i < a) || decide (a + n ≤ i)) = true := by simpa using h
  unfold read erase Tab.getD
  rw [get?_filter_key (p := fun k => decide (k < a) || decide (a + n ≤ k)), this]
  rfl

/-- Erasing a range and then programming it leaves what was programmed. -/
theorem bytes_program_erased {m : Memory} {a n : Nat} {b : Bytes} (hm : wf m = true) (h : b.length ≤ n) :
    bytes (program a b (erase a n m)) a b.length = b := by
  refine List.ext_getElem bytes_length (fun k hk hk' => ?_)
  rw [bytes_getElem, read_program_same (wf_erase hm) hk', read_erase_same (by omega)]
  exact BitVec.allOnes_and

end Sys2Proof.Machine.Memory
end

