-- ==== Sys2Proof/Laws/KeepsEp.lean ====
section
/-! SUPPORT. What each operation of Ep can change, and that it keeps the canonical forms. -/
set_option Elab.async false
namespace Sys2Proof.Machine

theorem State.cacheTouch_keeps {x1 s} : Keeps [.ing] s (@State.cacheTouch x1 s).1 := by
  unfold State.cacheTouch
  show Walk true _ _ _
  repeat' first
    | (with_reducible exact Walk.refl)
    | (exact .inl rfl)
    | (exact .inr rfl)
    | (split)
    | (with_reducible refine Walk.update ?_ ?_ ?_ ?_ ?_ ?_ ?_ ?_ ?_ ?_ ?_ ?_ ?_ ?_ ?_ ?_ ?_ ?_ ?_ ?_ ?_ ?_ ?_ ?_ ?_ ?_ ?_ rfl rfl)
theorem State.cacheTouch_keeps_of {x1 s a1 t} (h : @State.cacheTouch x1 s = (t, a1)) : Keeps [.ing] s t := by
  have := @State.cacheTouch_keeps x1 s
  rw [h] at this
  exact this

theorem State.digestItem_keeps {x1 x2 x3 s} : Keeps [.par] s (@State.digestItem x1 x2 x3 s) := by
  unfold State.digestItem
  show Walk true _ _ _
  repeat' first
    | (with_reducible exact Walk.refl)
    | (with_reducible refine Walk.update ?_ ?_ ?_ ?_ ?_ ?_ ?_ ?_ ?_ ?_ ?_ ?_ ?_ ?_ ?_ ?_ ?_ ?_ ?_ ?_ ?_ ?_ ?_ ?_ ?_ ?_ ?_ rfl rfl)
    | (exact .inl rfl)
    | (exact .inr rfl)

theorem State.putCtx_keeps {x1 x2 s} : Keeps [.ing] s (@State.putCtx x1 x2 s) := by
  unfold State.putCtx
  show Walk true _ _ _
  repeat' first
    | (with_reducible exact Walk.refl)
    | (with_reducible refine Walk.update ?_ ?_ ?_ ?_ ?_ ?_ ?_ ?_ ?_ ?_ ?_ ?_ ?_ ?_ ?_ ?_ ?_ ?_ ?_ ?_ ?_ ?_ ?_ ?_ ?_ ?_ ?_ rfl rfl)
    | (exact .inl rfl)
    | (exact .inr rfl)

theorem State.setCtx_keeps {x1 x2 s} : Keeps [.ing] s (@State.setCtx x1 x2 s) := by
  unfold State.setCtx
  show Walk true _ _ _
  repeat' first
    | (with_reducible exact Walk.refl)
    | (with_reducible apply Walk.step (k := State.putCtx_keeps))
    | (with_reducible apply Walk.ite)
    | (with_reducible refine Walk.update ?_ ?_ ?_ ?_ ?_ ?_ ?_ ?_ ?_ ?_ ?_ ?_ ?_ ?_ ?_ ?_ ?_ ?_ ?_ ?_ ?_ ?_ ?_ ?_ ?_ ?_ ?_ rfl rfl)
    | (exact .inl rfl)
    | (exact .inr rfl)
    | (show covers _ _ = true; rfl)

theorem State.modCtx_keeps {x1 x2 s} : Keeps [.ing] s (@State.modCtx x1 x2 s) := by
  unfold State.modCtx
  show Walk true _ _ _
  repeat' first
    | (with_reducible exact Walk.refl)
    | (with_reducible apply Walk.step (k := State.setCtx_keeps))
    | (show covers _ _ = true; rfl)
    | (split)

end Sys2Proof.Machine
end

