-- ==== Sys2Proof/Laws/KeepsOps.lean ====
section
/-! SUPPORT. What each operation of Ops can change, and that it keeps the canonical forms. -/
set_option Elab.async false
namespace Sys2Proof.Machine


theorem State.setReg_keeps {x1 x2 s} : Keeps [.regs, .win (winOf x1)] s (@State.setReg x1 x2 s) :=
  State.setKey_keeps

theorem State.bumpBy_keeps {x1 x2 s} : Keeps [.regs, .win (winOf x1)] s (@State.bumpBy x1 x2 s) :=
  State.setReg_keeps

theorem State.setRecorder_keeps {x1 x2 s} : Keeps [.evr] s (@State.setRecorder x1 x2 s) := by
  unfold State.setRecorder
  show Walk true _ _ _
  repeat' first
    | (with_reducible exact Walk.refl)
    | (with_reducible refine Walk.update ?_ ?_ ?_ ?_ ?_ ?_ ?_ ?_ ?_ ?_ ?_ ?_ ?_ ?_ ?_ ?_ ?_ ?_ ?_ ?_ ?_ ?_ ?_ ?_ ?_ ?_ ?_ rfl rfl)
    | (exact .inl rfl)
    | (exact .inr rfl)

theorem State.setRegI_keeps {x1 x2 x3 s} : Keeps [.regs, .win (winOf x1)] s (@State.setRegI x1 x2 x3 s) :=
  winOf_regKey x1 x2 ▸ State.setKey_keeps

theorem State.bumpI_keeps {x1 x2 s} : Keeps [.regs, .win (winOf x1)] s (@State.bumpI x1 x2 s) :=
  State.setRegI_keeps

theorem State.logEvent_keeps {x1 x2 s} : Keeps [.regs, .evr, .win 21] s (@State.logEvent x1 x2 s) := by
  unfold State.logEvent
  show Walk true _ _ _
  try dsimp only
  repeat' first
    | (with_reducible exact Walk.refl)
    | (with_reducible apply Walk.step (k := State.setRecorder_keeps))
    | (with_reducible apply Walk.step (k := State.bumpI_keeps))
    | (show covers _ _ = true; rfl)
    | (split)

theorem State.log_keeps {x1 x2 x3 x4 x5 s} : Keeps [.regs, .evr, .win 21] s (@State.log x1 x2 x3 x4 x5 s) := by
  unfold State.log
  show Walk true _ _ _
  repeat' first
    | (with_reducible exact Walk.refl)
    | (with_reducible apply Walk.step (k := State.logEvent_keeps))
    | (show covers _ _ = true; rfl)

theorem State.bump_keeps {x1 s} : Keeps [.regs, .win (winOf x1)] s (@State.bump x1 s) :=
  State.setReg_keeps

theorem State.bump_keeps_at {x1 s w} (h : winOf x1 = w) : Keeps [.regs, .win w] s (State.bump x1 s) := h ▸ State.bump_keeps

theorem State.emit_keeps {x1 s} : Keeps [.out] s (@State.emit x1 s) := by
  unfold State.emit
  show Walk true _ _ _
  repeat' first
    | (with_reducible exact Walk.refl)
    | (with_reducible refine Walk.update ?_ ?_ ?_ ?_ ?_ ?_ ?_ ?_ ?_ ?_ ?_ ?_ ?_ ?_ ?_ ?_ ?_ ?_ ?_ ?_ ?_ ?_ ?_ ?_ ?_ ?_ ?_ rfl rfl)
    | (exact .inl rfl)
    | (exact .inr rfl)

theorem State.setRing_keeps {x1 x2 s} : Keeps [.hbr] s (@State.setRing x1 x2 s) := by
  unfold State.setRing
  show Walk true _ _ _
  repeat' first
    | (with_reducible exact Walk.refl)
    | (with_reducible refine Walk.update ?_ ?_ ?_ ?_ ?_ ?_ ?_ ?_ ?_ ?_ ?_ ?_ ?_ ?_ ?_ ?_ ?_ ?_ ?_ ?_ ?_ ?_ ?_ ?_ ?_ ?_ ?_ rfl rfl)
    | (exact .inl rfl)
    | (exact .inr rfl)

theorem State.sendMsix_keeps {x1 x2 s} : Keeps [.regs, .out, .hbr, .win 1] s (@State.sendMsix x1 x2 s) := by
  unfold State.sendMsix
  show Walk true _ _ _
  try dsimp only
  repeat' first
    | (with_reducible exact Walk.refl)
    | (with_reducible apply Walk.step (k := State.bump_keeps))
    | (with_reducible apply Walk.step (k := State.emit_keeps))
    | (with_reducible apply Walk.ite)
    | (with_reducible refine Walk.update ?_ ?_ ?_ ?_ ?_ ?_ ?_ ?_ ?_ ?_ ?_ ?_ ?_ ?_ ?_ ?_ ?_ ?_ ?_ ?_ ?_ ?_ ?_ ?_ ?_ ?_ ?_ rfl rfl)
    | (exact .inl rfl)
    | (exact .inr rfl)
    | (show covers _ _ = true; rfl)
    | (split)

theorem State.ringMessage_keeps {x1 s} : Keeps [.regs, .out, .hbr, .win 1] s (@State.ringMessage x1 s) := by
  unfold State.ringMessage
  show Walk true _ _ _
  repeat' first
    | (with_reducible exact Walk.refl)
    | (with_reducible apply Walk.step (k := State.sendMsix_keeps))
    | (with_reducible apply Walk.step (k := State.setRing_keeps))
    | (show covers _ _ = true; rfl)

theorem State.ringWrite_keeps {x1 s} : Keeps [.regs, .out, .hbr, .win 1] s (@State.ringWrite x1 s) := by
  unfold State.ringWrite
  show Walk true _ _ _
  try dsimp only
  repeat' first
    | (with_reducible exact Walk.refl)
    | (with_reducible apply Walk.step (k := State.emit_keeps))
    | (with_reducible apply Walk.step (k := State.setRing_keeps))
    | (with_reducible apply Walk.step (k := State.ringMessage_keeps))
    | (show covers _ _ = true; rfl)
    | (split)

theorem State.setPair_keeps {x1 x2 s} : Keeps [.regs, .win (winOf x1), .win (winOf (x1 + 4))] s (@State.setPair x1 x2 s) :=
  Keeps.two State.setReg_keeps State.setReg_keeps

theorem State.setRegBit_keeps {x1 x2 x3 s} : Keeps [.regs, .win (winOf x1)] s (@State.setRegBit x1 x2 x3 s) :=
  State.setReg_keeps

theorem State.linkEvent_keeps {x1 s} : Keeps [.regs, .out, .hbr, .win 1] s (@State.linkEvent x1 s) := by
  unfold State.linkEvent
  show Walk true _ _ _
  try dsimp only
  repeat' first
    | (with_reducible exact Walk.refl)
    | (with_reducible apply Walk.step (k := State.setRegBit_keeps))
    | (with_reducible apply Walk.step (k := State.sendMsix_keeps))
    | (show covers _ _ = true; rfl)
    | (split)

theorem State.holdNotice_keeps {x1 s} : Keeps [.regs, .out, .hbr, .win 1] s (@State.holdNotice x1 s) := by
  unfold State.holdNotice
  show Walk true _ _ _
  repeat' first
    | (with_reducible exact Walk.refl)
    | (with_reducible apply Walk.step (k := State.setPair_keeps))
    | (with_reducible apply Walk.step (k := State.linkEvent_keeps))
    | (with_reducible apply Walk.step (k := State.bump_keeps))
    | (with_reducible apply Walk.ite)
    | (with_reducible refine Walk.update ?_ ?_ ?_ ?_ ?_ ?_ ?_ ?_ ?_ ?_ ?_ ?_ ?_ ?_ ?_ ?_ ?_ ?_ ?_ ?_ ?_ ?_ ?_ ?_ ?_ ?_ ?_ rfl rfl)
    | (exact .inl rfl)
    | (exact .inr rfl)
    | (show covers _ _ = true; rfl)

theorem State.notice_keeps {x1 x2 x3 x4 s} : Keeps [.regs, .out, .hbr, .win 1] s (@State.notice x1 x2 x3 x4 s) := by
  unfold State.notice
  show Walk true _ _ _
  repeat' first
    | (with_reducible exact Walk.refl)
    | (with_reducible apply Walk.step (k := State.ringWrite_keeps))
    | (with_reducible apply Walk.step (k := State.holdNotice_keeps))
    | (with_reducible apply Walk.ite)
    | (with_reducible refine Walk.update ?_ ?_ ?_ ?_ ?_ ?_ ?_ ?_ ?_ ?_ ?_ ?_ ?_ ?_ ?_ ?_ ?_ ?_ ?_ ?_ ?_ ?_ ?_ ?_ ?_ ?_ ?_ rfl rfl)
    | (exact .inl rfl)
    | (exact .inr rfl)
    | (show covers _ _ = true; rfl)

theorem State.event_keeps {x1 x2 s} : Keeps [.regs, .out, .hbr, .win 1] s (@State.event x1 x2 s) := by
  unfold State.event
  show Walk true _ _ _
  repeat' first
    | (with_reducible exact Walk.refl)
    | (with_reducible apply Walk.step (k := State.notice_keeps))
    | (show covers _ _ = true; rfl)

theorem State.seamOut_keeps {x1 s} : Keeps [.out, .seam] s (@State.seamOut x1 s) := by
  unfold State.seamOut
  show Walk true _ _ _
  try dsimp only
  repeat' first
    | (with_reducible exact Walk.refl)
    | (with_reducible apply Walk.step (k := State.emit_keeps))
    | (split)
    | (with_reducible refine Walk.update ?_ ?_ ?_ ?_ ?_ ?_ ?_ ?_ ?_ ?_ ?_ ?_ ?_ ?_ ?_ ?_ ?_ ?_ ?_ ?_ ?_ ?_ ?_ ?_ ?_ ?_ ?_ rfl rfl)
    | (exact .inl rfl)
    | (exact .inr rfl)
    | (show covers _ _ = true; rfl)

theorem State.seamDrain_keeps {s} : Keeps [.out, .seam] s (@State.seamDrain s) := by
  unfold State.seamDrain
  show Walk true _ _ _
  try dsimp only
  repeat' first
    | (with_reducible exact Walk.refl)
    | (with_reducible apply Walk.step (k := State.seamOut_keeps))
    | (with_reducible apply Walk.foldl)
    | (with_reducible apply Walk.foldl1)
    | (with_reducible apply Walk.foldl2)
    | (intro _)
    | (with_reducible assumption)
    | (with_reducible refine Walk.update ?_ ?_ ?_ ?_ ?_ ?_ ?_ ?_ ?_ ?_ ?_ ?_ ?_ ?_ ?_ ?_ ?_ ?_ ?_ ?_ ?_ ?_ ?_ ?_ ?_ ?_ ?_ rfl rfl)
    | (exact .inl rfl)
    | (exact .inr rfl)
    | (show covers _ _ = true; rfl)
    | (split)

theorem State.seamPut_keeps {x1 x2 x3 s} : Keeps [.seam] s (@State.seamPut x1 x2 x3 s) := by
  unfold State.seamPut
  show Walk true _ _ _
  try dsimp only
  repeat' first
    | (with_reducible exact Walk.refl)
    | (with_reducible refine Walk.update ?_ ?_ ?_ ?_ ?_ ?_ ?_ ?_ ?_ ?_ ?_ ?_ ?_ ?_ ?_ ?_ ?_ ?_ ?_ ?_ ?_ ?_ ?_ ?_ ?_ ?_ ?_ rfl rfl)
    | (exact .inl rfl)
    | (exact .inr rfl)
    | (show covers _ _ = true; rfl)
    | (split)

theorem State.seamBeat_keeps {x1 x2 s} : Keeps [.out, .seam] s (@State.seamBeat x1 x2 s) := by
  unfold State.seamBeat
  show Walk true _ _ _
  try dsimp only
  repeat' first
    | (with_reducible exact Walk.refl)
    | (with_reducible apply Walk.step (k := State.seamDrain_keeps))
    | (with_reducible apply Walk.step (k := State.seamPut_keeps))
    | (show covers _ _ = true; rfl)
    | (split)

theorem State.noonBeat_keeps {s} : Keeps [.out, .seam] s (@State.noonBeat s) := by
  unfold State.noonBeat
  show Walk true _ _ _
  try dsimp only
  repeat' first
    | (with_reducible exact Walk.refl)
    | (with_reducible apply Walk.step (k := State.seamBeat_keeps))
    | (show covers _ _ = true; rfl)
    | (split)

theorem State.addReply_keeps {x1 s} : Keeps [.cmd] s (@State.addReply x1 s) := by
  unfold State.addReply
  show Walk true _ _ _
  repeat' first
    | (with_reducible exact Walk.refl)
    | (with_reducible refine Walk.update ?_ ?_ ?_ ?_ ?_ ?_ ?_ ?_ ?_ ?_ ?_ ?_ ?_ ?_ ?_ ?_ ?_ ?_ ?_ ?_ ?_ ?_ ?_ ?_ ?_ ?_ ?_ rfl rfl)
    | (exact .inl rfl)
    | (exact .inr rfl)

theorem State.ownReply_keeps {x1 x2 s} : Keeps [.cmd, .bil] s (@State.ownReply x1 x2 s) := by
  unfold State.ownReply
  show Walk true _ _ _
  repeat' first
    | (with_reducible exact Walk.refl)
    | (with_reducible apply Walk.step (k := State.addReply_keeps))
    | (with_reducible refine Walk.update ?_ ?_ ?_ ?_ ?_ ?_ ?_ ?_ ?_ ?_ ?_ ?_ ?_ ?_ ?_ ?_ ?_ ?_ ?_ ?_ ?_ ?_ ?_ ?_ ?_ ?_ ?_ rfl rfl)
    | (exact .inl rfl)
    | (exact .inr rfl)
    | (show covers _ _ = true; rfl)
    | (split)

theorem State.replyWith_keeps {x1 x2 x3 x4 s} : Keeps [.cmd, .bil] s (@State.replyWith x1 x2 x3 x4 s) := by
  unfold State.replyWith
  show Walk true _ _ _
  repeat' first
    | (with_reducible exact Walk.refl)
    | (with_reducible apply Walk.step (k := State.ownReply_keeps))
    | (with_reducible apply Walk.step (k := State.addReply_keeps))
    | (show covers _ _ = true; rfl)
    | (split)

theorem State.reply_keeps {x1 x2 s} : Keeps [.cmd, .bil] s (@State.reply x1 x2 s) := by
  unfold State.reply
  show Walk true _ _ _
  repeat' first
    | (with_reducible exact Walk.refl)
    | (with_reducible apply Walk.step (k := State.replyWith_keeps))
    | (show covers _ _ = true; rfl)

theorem State.plcOffAir_keeps {x1 s} : Keeps [.plc] s (@State.plcOffAir x1 s) := by
  unfold State.plcOffAir
  show Walk true _ _ _
  try dsimp only
  repeat' first
    | (with_reducible exact Walk.refl)
    | (with_reducible apply Walk.ite)
    | (with_reducible refine Walk.update ?_ ?_ ?_ ?_ ?_ ?_ ?_ ?_ ?_ ?_ ?_ ?_ ?_ ?_ ?_ ?_ ?_ ?_ ?_ ?_ ?_ ?_ ?_ ?_ ?_ ?_ ?_ rfl rfl)
    | (exact .inl rfl)
    | (exact .inr rfl)
    | (show covers _ _ = true; rfl)
    | (split)

theorem State.truncatePlc_keeps {s} : Keeps [.regs, .cmd, .evr, .plc, .bil, .win 4, .win 21] s (@State.truncatePlc s) := by
  unfold State.truncatePlc
  show Walk true _ _ _
  try dsimp only
  repeat' first
    | (with_reducible exact Walk.refl)
    | (with_reducible apply Walk.step (k := State.bump_keeps))
    | (with_reducible apply Walk.step (k := State.log_keeps))
    | (with_reducible apply Walk.step (k := State.plcOffAir_keeps))
    | (with_reducible apply Walk.step (k := State.reply_keeps))
    | (split)
    | (with_reducible refine Walk.update ?_ ?_ ?_ ?_ ?_ ?_ ?_ ?_ ?_ ?_ ?_ ?_ ?_ ?_ ?_ ?_ ?_ ?_ ?_ ?_ ?_ ?_ ?_ ?_ ?_ ?_ ?_ rfl rfl)
    | (exact .inl rfl)
    | (exact .inr rfl)
    | (show covers _ _ = true; rfl)

theorem State.txenLook_keeps {x1 s} : Keeps [.out, .rfx] s (@State.txenLook x1 s) := by
  unfold State.txenLook
  show Walk true _ _ _
  try dsimp only
  repeat' first
    | (with_reducible exact Walk.refl)
    | (with_reducible apply Walk.step (k := State.emit_keeps))
    | (with_reducible apply Walk.ite)
    | (with_reducible refine Walk.update ?_ ?_ ?_ ?_ ?_ ?_ ?_ ?_ ?_ ?_ ?_ ?_ ?_ ?_ ?_ ?_ ?_ ?_ ?_ ?_ ?_ ?_ ?_ ?_ ?_ ?_ ?_ rfl rfl)
    | (exact .inl rfl)
    | (exact .inr rfl)
    | (show covers _ _ = true; rfl)
    | (split)

theorem State.freeTx_keeps {x1 x2 s} : Keeps [.out, .rfx] s (@State.freeTx x1 x2 s) := by
  unfold State.freeTx
  show Walk true _ _ _
  try dsimp only
  repeat' first
    | (with_reducible exact Walk.refl)
    | (with_reducible apply Walk.step (k := State.txenLook_keeps))
    | (with_reducible apply Walk.foldl)
    | (with_reducible apply Walk.foldl1)
    | (with_reducible apply Walk.foldl2)
    | (intro _)
    | (with_reducible assumption)
    | (with_reducible refine Walk.update ?_ ?_ ?_ ?_ ?_ ?_ ?_ ?_ ?_ ?_ ?_ ?_ ?_ ?_ ?_ ?_ ?_ ?_ ?_ ?_ ?_ ?_ ?_ ?_ ?_ ?_ ?_ rfl rfl)
    | (exact .inl rfl)
    | (exact .inr rfl)
    | (show covers _ _ = true; rfl)
    | (with_reducible apply Walk.ite)
    | (split)

theorem State.charge_keeps {x1 x2 x3 x4 x5 x6 s} : Keeps [.rfx] s (@State.charge x1 x2 x3 x4 x5 x6 s) := by
  unfold State.charge
  show Walk true _ _ _
  try dsimp only
  repeat' first
    | (with_reducible exact Walk.refl)
    | (with_reducible apply Walk.foldl)
    | (with_reducible apply Walk.foldl1)
    | (with_reducible apply Walk.foldl2)
    | (intro _)
    | (with_reducible assumption)
    | (with_reducible refine Walk.update ?_ ?_ ?_ ?_ ?_ ?_ ?_ ?_ ?_ ?_ ?_ ?_ ?_ ?_ ?_ ?_ ?_ ?_ ?_ ?_ ?_ ?_ ?_ ?_ ?_ ?_ ?_ rfl rfl)
    | (exact .inl rfl)
    | (exact .inr rfl)
    | (show covers _ _ = true; rfl)
    | (split)

theorem State.truncateRf_keeps {x1 s} : Keeps [.regs, .out, .cmd, .rfx, .msh, .bil, .win 5] s (@State.truncateRf x1 s) := by
  unfold State.truncateRf
  show Walk true _ _ _
  try dsimp only
  repeat' first
    | (with_reducible exact Walk.refl)
    | (with_reducible apply Walk.step (k := State.bumpI_keeps))
    | (with_reducible apply Walk.step (k := State.charge_keeps))
    | (with_reducible apply Walk.step (k := State.freeTx_keeps))
    | (with_reducible apply Walk.step (k := State.reply_keeps))
    | (split)
    | (with_reducible refine Walk.update ?_ ?_ ?_ ?_ ?_ ?_ ?_ ?_ ?_ ?_ ?_ ?_ ?_ ?_ ?_ ?_ ?_ ?_ ?_ ?_ ?_ ?_ ?_ ?_ ?_ ?_ ?_ rfl rfl)
    | (exact .inl rfl)
    | (exact .inr rfl)
    | (show covers _ _ = true; rfl)

theorem State.cutRf_keeps {s} : Keeps [.regs, .out, .cmd, .evr, .rfx, .msh, .bil, .win 5, .win 21] s (@State.cutRf s) := by
  unfold State.cutRf
  show Walk true _ _ _
  try dsimp only
  repeat' first
    | (with_reducible exact Walk.refl)
    | (with_reducible apply Walk.step (k := State.log_keeps))
    | (with_reducible apply Walk.step (k := State.truncateRf_keeps))
    | (with_reducible apply Walk.foldl)
    | (with_reducible apply Walk.foldl1)
    | (with_reducible apply Walk.foldl2)
    | (intro _)
    | (with_reducible assumption)
    | (show covers _ _ = true; rfl)
    | (split)

theorem State.truncateFrames_keeps {s} : Keeps [.regs, .out, .cmd, .evr, .plc, .rfx, .msh, .bil, .win 4, .win 5, .win 21] s (@State.truncateFrames s) := by
  unfold State.truncateFrames
  show Walk true _ _ _
  try dsimp only
  repeat' first
    | (with_reducible exact Walk.refl)
    | (with_reducible apply Walk.step (k := State.cutRf_keeps))
    | (with_reducible apply Walk.step (k := State.truncatePlc_keeps))
    | (with_reducible apply Walk.ite)
    | (show covers _ _ = true; rfl)
    | (with_reducible apply Walk.foldl)
    | (intro _)
    | (split)

theorem State.releaseOne_keeps {s} : Keeps [.regs, .out, .seam, .cmd, .evr, .plc, .rfx, .msh, .bil, .par, .win 4, .win 5, .win 21] s (@State.releaseOne s) := by
  unfold State.releaseOne
  show Walk true _ _ _
  repeat' first
    | (with_reducible exact Walk.refl)
    | (with_reducible apply Walk.step (k := State.noonBeat_keeps))
    | (with_reducible apply Walk.step (k := State.truncateFrames_keeps))
    | (with_reducible refine Walk.update ?_ ?_ ?_ ?_ ?_ ?_ ?_ ?_ ?_ ?_ ?_ ?_ ?_ ?_ ?_ ?_ ?_ ?_ ?_ ?_ ?_ ?_ ?_ ?_ ?_ ?_ ?_ rfl rfl)
    | (exact .inl rfl)
    | (exact .inr rfl)
    | (show covers _ _ = true; rfl)

theorem State.sunk_keeps {x1 s} : Keeps [.regs, .win 20] s (@State.sunk x1 s) := by
  unfold State.sunk
  show Walk true _ _ _
  repeat' first
    | (with_reducible exact Walk.refl)
    | (with_reducible apply Walk.step (k := State.bumpI_keeps))
    | (show covers _ _ = true; rfl)

theorem State.bumpPair_keeps {x1 x2 s} : Keeps [.regs, .win (winOf x1), .win (winOf (x1 + 4))] s (@State.bumpPair x1 x2 s) :=
  Keeps.two State.setReg_keeps State.setReg_keeps

theorem State.bumpPair_keeps_at {x1 x2 s w} (h : winOf x1 = w) (k : winOf (x1 + 4) = w) : Keeps [.regs, .win w] s (State.bumpPair x1 x2 s) := by
  have := @State.bumpPair_keeps x1 x2 s
  rw [h, k] at this
  exact Keeps.step Keeps.refl this (by simp [covers, may, Part.code, Part.isWin])

theorem State.dropSends_keeps {s} : Keeps [.cmd, .plc, .msh, .bil] s (@State.dropSends s) := by
  unfold State.dropSends
  show Walk true _ _ _
  try dsimp only
  repeat' first
    | (with_reducible exact Walk.refl)
    | (with_reducible apply Walk.ite)
    | (with_reducible refine Walk.update ?_ ?_ ?_ ?_ ?_ ?_ ?_ ?_ ?_ ?_ ?_ ?_ ?_ ?_ ?_ ?_ ?_ ?_ ?_ ?_ ?_ ?_ ?_ ?_ ?_ ?_ ?_ rfl rfl)
    | (exact .inl rfl)
    | (exact .inr rfl)
    | (show covers _ _ = true; rfl)
    | (split)

theorem State.enterState_keeps {x1 x2 s} : Keeps [.regs, .out, .dev, .cmd, .evr, .plc, .rfx, .msh, .bil, .win 0, .win 4, .win 5, .win 21] s (@State.enterState x1 x2 s) := by
  unfold State.enterState
  show Walk true _ _ _
  repeat' first
    | (with_reducible exact Walk.refl)
    | (with_reducible apply Walk.step (k := State.setReg_keeps))
    | (with_reducible apply Walk.step (k := State.setPair_keeps))
    | (with_reducible apply Walk.step (k := State.log_keeps))
    | (with_reducible apply Walk.step (k := State.dropSends_keeps))
    | (with_reducible apply Walk.step (k := State.truncateFrames_keeps))
    | (with_reducible apply Walk.ite)
    | (with_reducible refine Walk.update ?_ ?_ ?_ ?_ ?_ ?_ ?_ ?_ ?_ ?_ ?_ ?_ ?_ ?_ ?_ ?_ ?_ ?_ ?_ ?_ ?_ ?_ ?_ ?_ ?_ ?_ ?_ rfl rfl)
    | (exact .inl rfl)
    | (exact .inr rfl)
    | (show covers _ _ = true; rfl)

theorem State.eventFor_keeps {x1 x2 s} : Keeps [.regs, .out, .hbr, .win 1] s (@State.eventFor x1 x2 s) := by
  unfold State.eventFor
  show Walk true _ _ _
  repeat' first
    | (with_reducible exact Walk.refl)
    | (with_reducible apply Walk.step (k := State.notice_keeps))
    | (show covers _ _ = true; rfl)

theorem State.holdCause_keeps {x1 x2 s} : Keeps [.regs, .win 0] s (@State.holdCause x1 x2 s) := by
  unfold State.holdCause
  show Walk true _ _ _
  repeat' first
    | (with_reducible exact Walk.refl)
    | (with_reducible apply Walk.step (k := State.setRegBit_keeps))
    | (show covers _ _ = true; rfl)

theorem State.replyQueued_keeps {x1 s} : Keeps [.cmd] s (@State.replyQueued x1 s) := by
  unfold State.replyQueued
  show Walk true _ _ _
  repeat' first
    | (with_reducible exact Walk.refl)
    | (with_reducible apply Walk.step (k := State.addReply_keeps))
    | (show covers _ _ = true; rfl)
    | (split)

theorem State.maxReg_keeps {x1 x2 s} : Keeps [.regs, .win (winOf x1)] s (@State.maxReg x1 x2 s) :=
  State.setReg_keeps

theorem State.forceTwilight_keeps {x1 s} : Keeps [.regs, .out, .dev, .cmd, .evr, .plc, .rfx, .msh, .bil, .win 0, .win 4, .win 5, .win 21] s (@State.forceTwilight x1 s) := by
  unfold State.forceTwilight
  show Walk true _ _ _
  repeat' first
    | (with_reducible exact Walk.refl)
    | (with_reducible apply Walk.step (k := State.enterState_keeps))
    | (show covers _ _ = true; rfl)
    | (split)

theorem State.issueUp_keeps {x1 s} : Keeps [.out, .hbr] s (@State.issueUp x1 s) := by
  unfold State.issueUp
  show Walk true _ _ _
  try dsimp only
  repeat' first
    | (with_reducible exact Walk.refl)
    | (with_reducible apply Walk.step (k := State.emit_keeps))
    | (with_reducible apply Walk.ite)
    | (split)
    | (with_reducible refine Walk.update ?_ ?_ ?_ ?_ ?_ ?_ ?_ ?_ ?_ ?_ ?_ ?_ ?_ ?_ ?_ ?_ ?_ ?_ ?_ ?_ ?_ ?_ ?_ ?_ ?_ ?_ ?_ rfl rfl)
    | (exact .inl rfl)
    | (exact .inr rfl)
    | (show covers _ _ = true; rfl)

theorem State.upDrain_keeps {x1 s} : Keeps [.out, .hbr] s (@State.upDrain x1 s) := by
  induction x1 generalizing s with
  | zero => exact Keeps.refl
  | succ n ih =>
    unfold State.upDrain
    split
    · exact Keeps.refl
    · exact Keeps.trans State.issueUp_keeps ih

theorem State.upSend_keeps {x1 s} : Keeps [.out, .hbr] s (@State.upSend x1 s) := by
  unfold State.upSend
  show Walk true _ _ _
  try dsimp only
  repeat' first
    | (with_reducible exact Walk.refl)
    | (with_reducible apply Walk.step (k := State.upDrain_keeps))
    | (with_reducible refine Walk.update ?_ ?_ ?_ ?_ ?_ ?_ ?_ ?_ ?_ ?_ ?_ ?_ ?_ ?_ ?_ ?_ ?_ ?_ ?_ ?_ ?_ ?_ ?_ ?_ ?_ ?_ ?_ rfl rfl)
    | (exact .inl rfl)
    | (exact .inr rfl)
    | (show covers _ _ = true; rfl)
    | (split)

theorem State.askRead_keeps {x1 x2 s} : Keeps [.out, .hbr] s (@State.askRead x1 x2 s) := by
  unfold State.askRead
  show Walk true _ _ _
  try dsimp only
  repeat' first
    | (with_reducible exact Walk.refl)
    | (with_reducible apply Walk.step (k := State.upSend_keeps))
    | (with_reducible apply Walk.foldl)
    | (with_reducible apply Walk.foldl1)
    | (with_reducible apply Walk.foldl2)
    | (intro _)
    | (with_reducible assumption)
    | (with_reducible refine Walk.update ?_ ?_ ?_ ?_ ?_ ?_ ?_ ?_ ?_ ?_ ?_ ?_ ?_ ?_ ?_ ?_ ?_ ?_ ?_ ?_ ?_ ?_ ?_ ?_ ?_ ?_ ?_ rfl rfl)
    | (exact .inl rfl)
    | (exact .inr rfl)
    | (show covers _ _ = true; rfl)
    | (split)

theorem State.moveData_keeps {x1 x2 x3 x4 x5 s} : Keeps [.out, .hbr] s (@State.moveData x1 x2 x3 x4 x5 s) := by
  unfold State.moveData
  show Walk true _ _ _
  try dsimp only
  repeat' first
    | (with_reducible exact Walk.refl)
    | (with_reducible apply Walk.step (k := State.askRead_keeps))
    | (with_reducible apply Walk.step (k := State.upSend_keeps))
    | (show covers _ _ = true; rfl)
    | (split)

theorem State.startXfer_keeps {x1 x2 x3 s} : Keeps [.out, .hbr] s (@State.startXfer x1 x2 x3 s) := by
  unfold State.startXfer
  show Walk true _ _ _
  try dsimp only
  repeat' first
    | (with_reducible exact Walk.refl)
    | (with_reducible apply Walk.step (k := State.askRead_keeps))
    | (with_reducible apply Walk.step (k := State.moveData_keeps))
    | (with_reducible apply Walk.ite)
    | (with_reducible refine Walk.update ?_ ?_ ?_ ?_ ?_ ?_ ?_ ?_ ?_ ?_ ?_ ?_ ?_ ?_ ?_ ?_ ?_ ?_ ?_ ?_ ?_ ?_ ?_ ?_ ?_ ?_ ?_ rfl rfl)
    | (exact .inl rfl)
    | (exact .inr rfl)
    | (show covers _ _ = true; rfl)
    | (split)

theorem State.writeData_keeps {x1 x2 s} : Keeps [.out, .cmd, .hbr] s (@State.writeData x1 x2 s) := by
  unfold State.writeData
  show Walk true _ _ _
  try dsimp only
  repeat' first
    | (with_reducible exact Walk.refl)
    | (with_reducible apply Walk.step (k := State.addReply_keeps))
    | (with_reducible apply Walk.step (k := State.startXfer_keeps))
    | (with_reducible apply Walk.ite)
    | (show covers _ _ = true; rfl)
    | (split)

theorem State.drawn_keeps {s} : Keeps [.freeCtr] s (@State.drawn s) := by
  unfold State.drawn
  show Walk true _ _ _
  repeat' first
    | (with_reducible exact Walk.refl)
    | (with_reducible refine Walk.update ?_ ?_ ?_ ?_ ?_ ?_ ?_ ?_ ?_ ?_ ?_ ?_ ?_ ?_ ?_ ?_ ?_ ?_ ?_ ?_ ?_ ?_ ?_ ?_ ?_ ?_ ?_ rfl rfl)
    | (exact .inl rfl)
    | (exact .inr rfl)

theorem State.drainLook_keeps {s} : Keeps [.regs, .out, .seam, .cmd, .evr, .plc, .rfx, .msh, .bil, .par, .win 4, .win 5, .win 21] s (@State.drainLook s) := by
  unfold State.drainLook
  show Walk true _ _ _
  repeat' first
    | (with_reducible exact Walk.refl)
    | (with_reducible apply Walk.step (k := State.releaseOne_keeps))
    | (show covers _ _ = true; rfl)
    | (split)

theorem State.setInst_keeps {x1 x2 s} : Keeps [.vin] s (@State.setInst x1 x2 s) := by
  unfold State.setInst
  show Walk true _ _ _
  repeat' first
    | (with_reducible exact Walk.refl)
    | (with_reducible refine Walk.update ?_ ?_ ?_ ?_ ?_ ?_ ?_ ?_ ?_ ?_ ?_ ?_ ?_ ?_ ?_ ?_ ?_ ?_ ?_ ?_ ?_ ?_ ?_ ?_ ?_ ?_ ?_ rfl rfl)
    | (exact .inl rfl)
    | (exact .inr rfl)

theorem State.histAdd_keeps {x1 x2 x3 s} : Keeps [.evr] s (@State.histAdd x1 x2 x3 s) := by
  unfold State.histAdd
  show Walk true _ _ _
  repeat' first
    | (with_reducible exact Walk.refl)
    | (with_reducible apply Walk.step (k := State.setRecorder_keeps))
    | (show covers _ _ = true; rfl)

theorem State.lockViolation_keeps {x1 s} : Keeps [.regs, .evr, .wins] s (@State.lockViolation x1 s) := by
  unfold State.lockViolation
  show Walk true _ _ _
  repeat' first
    | (with_reducible exact Walk.refl)
    | (with_reducible apply Walk.step (k := State.bump_keeps))
    | (with_reducible apply Walk.step (k := State.histAdd_keeps))
    | (show covers _ _ = true; rfl)
    | (split)

theorem State.upLook_keeps {s} : Keeps [.out, .hbr] s (@State.upLook s) := by
  unfold State.upLook
  show Walk true _ _ _
  try dsimp only
  repeat' first
    | (with_reducible exact Walk.refl)
    | (with_reducible apply Walk.step (k := State.upDrain_keeps))
    | (show covers _ _ = true; rfl)
    | (split)

theorem State.abandon_keeps {x1 x2 s} : Keeps [.hbr] s (@State.abandon x1 x2 s) := by
  unfold State.abandon
  show Walk true _ _ _
  try dsimp only
  repeat' first
    | (with_reducible exact Walk.refl)
    | (split)
    | (with_reducible refine Walk.update ?_ ?_ ?_ ?_ ?_ ?_ ?_ ?_ ?_ ?_ ?_ ?_ ?_ ?_ ?_ ?_ ?_ ?_ ?_ ?_ ?_ ?_ ?_ ?_ ?_ ?_ ?_ rfl rfl)
    | (exact .inl rfl)
    | (exact .inr rfl)
    | (show covers _ _ = true; rfl)

theorem State.seamSend_keeps {x1 x2 x3 s} : Keeps [.out, .seam] s (@State.seamSend x1 x2 x3 s) := by
  unfold State.seamSend
  show Walk true _ _ _
  try dsimp only
  repeat' first
    | (with_reducible exact Walk.refl)
    | (with_reducible apply Walk.step (k := State.seamDrain_keeps))
    | (with_reducible apply Walk.step (k := State.seamPut_keeps))
    | (show covers _ _ = true; rfl)
    | (split)

end Sys2Proof.Machine
end

