-- ==== Sys2Proof/Laws/KeepsIngOps.lean ====
section
/-! SUPPORT. What each operation of IngOps can change, and that it keeps the canonical forms. -/
set_option Elab.async false
namespace Sys2Proof.Machine

theorem State.setIng_keeps {x1 s} : Keeps [.ing] s (@State.setIng x1 s) := by
  unfold State.setIng
  show Walk true _ _ _
  repeat' first
    | (with_reducible exact Walk.refl)
    | (with_reducible refine Walk.update ?_ ?_ ?_ ?_ ?_ ?_ ?_ ?_ ?_ ?_ ?_ ?_ ?_ ?_ ?_ ?_ ?_ ?_ ?_ ?_ ?_ ?_ ?_ ?_ ?_ ?_ ?_ rfl rfl)
    | (exact .inl rfl)
    | (exact .inr rfl)

theorem State.ingNotice_keeps {x1 x2 x3 x4 s} : Keeps [.regs, .out, .hbr, .win 1] s (@State.ingNotice x1 x2 x3 x4 s) := by
  unfold State.ingNotice
  show Walk true _ _ _
  repeat' first
    | (with_reducible exact Walk.refl)
    | (with_reducible apply Walk.step (k := State.event_keeps))
    | (show covers _ _ = true; rfl)

theorem State.billingCopy_keeps {x1 s} : Keeps [.regs, .out, .hbr, .ing, .win 1] s (@State.billingCopy x1 s) := by
  unfold State.billingCopy
  show Walk true _ _ _
  repeat' first
    | (with_reducible exact Walk.refl)
    | (with_reducible apply Walk.step (k := State.setIng_keeps))
    | (with_reducible apply Walk.step (k := State.ingNotice_keeps))
    | (show covers _ _ = true; rfl)
    | (split)

theorem State.losCopy_keeps {x1 s} : Keeps [.regs, .ing, .los, .win 8] s (@State.losCopy x1 s) := by
  unfold State.losCopy
  show Walk true _ _ _
  repeat' first
    | (with_reducible exact Walk.refl)
    | (with_reducible apply Walk.step (k := State.bump_keeps))
    | (with_reducible apply Walk.step (k := State.setIng_keeps))
    | (with_reducible apply Walk.ite)
    | (with_reducible refine Walk.update ?_ ?_ ?_ ?_ ?_ ?_ ?_ ?_ ?_ ?_ ?_ ?_ ?_ ?_ ?_ ?_ ?_ ?_ ?_ ?_ ?_ ?_ ?_ ?_ ?_ ?_ ?_ rfl rfl)
    | (exact .inl rfl)
    | (exact .inr rfl)
    | (show covers _ _ = true; rfl)

theorem State.handRecord_keeps {x1 x2 x3 s} : Keeps [.regs, .out, .hbr, .ing, .cod, .los, .par, .win 1, .win 8, .win 9, .win 20] s (@State.handRecord x1 x2 x3 s) := by
  unfold State.handRecord
  show Walk true _ _ _
  repeat' first
    | (with_reducible exact Walk.refl)
    | (with_reducible apply Walk.step (k := State.digestItem_keeps))
    | (with_reducible apply Walk.step (k := State.sunk_keeps))
    | (with_reducible apply Walk.step (k := State.bump_keeps))
    | (with_reducible apply Walk.step (k := State.setIng_keeps))
    | (with_reducible apply Walk.step (k := State.billingCopy_keeps))
    | (with_reducible apply Walk.step (k := State.losCopy_keeps))
    | (with_reducible apply Walk.ite)
    | (with_reducible refine Walk.update ?_ ?_ ?_ ?_ ?_ ?_ ?_ ?_ ?_ ?_ ?_ ?_ ?_ ?_ ?_ ?_ ?_ ?_ ?_ ?_ ?_ ?_ ?_ ?_ ?_ ?_ ?_ rfl rfl)
    | (exact .inl rfl)
    | (exact .inr rfl)
    | (show covers _ _ = true; rfl)

theorem State.histGo_keeps {s} : Keeps [.regs, .out, .hbr, .ing, .cod, .los, .par, .win 1, .win 8, .win 9, .win 20] s (@State.histGo s) := by
  unfold State.histGo
  show Walk true _ _ _
  try dsimp only
  repeat' first
    | (with_reducible exact Walk.refl)
    | (with_reducible apply Walk.step (k := State.bump_keeps))
    | (with_reducible apply Walk.step (k := State.handRecord_keeps))
    | (with_reducible apply Walk.step (k := State.setIng_keeps))
    | (with_reducible apply Walk.ite)
    | (split)
    | (with_reducible refine Walk.update ?_ ?_ ?_ ?_ ?_ ?_ ?_ ?_ ?_ ?_ ?_ ?_ ?_ ?_ ?_ ?_ ?_ ?_ ?_ ?_ ?_ ?_ ?_ ?_ ?_ ?_ ?_ rfl rfl)
    | (exact .inl rfl)
    | (exact .inr rfl)
    | (show covers _ _ = true; rfl)

theorem State.formHists_keeps {x1 s} : Keeps [.regs, .out, .hbr, .ing, .cod, .los, .par, .win 1, .win 8, .win 9, .win 20] s (@State.formHists x1 s) := by
  unfold State.formHists
  show Walk true _ _ _
  try dsimp only
  repeat' first
    | (with_reducible exact Walk.refl)
    | (with_reducible apply Walk.step (k := State.histGo_keeps))
    | (with_reducible apply Walk.step (k := State.setIng_keeps))
    | (with_reducible apply Walk.ite)
    | (with_reducible apply Walk.foldl)
    | (with_reducible apply Walk.foldl1)
    | (with_reducible apply Walk.foldl2)
    | (intro _)
    | (with_reducible assumption)
    | (with_reducible refine Walk.update ?_ ?_ ?_ ?_ ?_ ?_ ?_ ?_ ?_ ?_ ?_ ?_ ?_ ?_ ?_ ?_ ?_ ?_ ?_ ?_ ?_ ?_ ?_ ?_ ?_ ?_ ?_ rfl rfl)
    | (exact .inl rfl)
    | (exact .inr rfl)
    | (show covers _ _ = true; rfl)
    | (split)

theorem State.gateNotices_keeps {s} : Keeps [.regs, .out, .hbr, .ing, .win 1] s (@State.gateNotices s) := by
  unfold State.gateNotices
  show Walk true _ _ _
  try dsimp only
  repeat' first
    | (with_reducible exact Walk.refl)
    | (with_reducible apply Walk.step (k := State.ingNotice_keeps))
    | (with_reducible apply Walk.step (k := State.setIng_keeps))
    | (with_reducible apply Walk.foldl)
    | (intro _)
    | (show covers _ _ = true; rfl)
    | (split)

theorem State.takeAllowance_keeps {x1 s} : Keeps [.ing] s (@State.takeAllowance x1 s) := by
  unfold State.takeAllowance
  show Walk true _ _ _
  repeat' first
    | (with_reducible exact Walk.refl)
    | (with_reducible apply Walk.step (k := State.setIng_keeps))
    | (show covers _ _ = true; rfl)
    | (split)

theorem State.raiseWindows_keeps {x1 s} : Keeps [.ing] s (@State.raiseWindows x1 s) := by
  unfold State.raiseWindows
  show Walk true _ _ _
  try dsimp only
  repeat' first
    | (with_reducible exact Walk.refl)
    | (with_reducible apply Walk.step (k := State.modCtx_keeps))
    | (with_reducible apply Walk.ite)
    | (with_reducible refine Walk.update ?_ ?_ ?_ ?_ ?_ ?_ ?_ ?_ ?_ ?_ ?_ ?_ ?_ ?_ ?_ ?_ ?_ ?_ ?_ ?_ ?_ ?_ ?_ ?_ ?_ ?_ ?_ rfl rfl)
    | (exact .inl rfl)
    | (exact .inr rfl)
    | (show covers _ _ = true; rfl)
    | (split)

theorem State.instCount_keeps {x1 x2 s} : Keeps [.ing] s (@State.instCount x1 x2 s) := by
  unfold State.instCount
  show Walk true _ _ _
  repeat' first
    | (with_reducible exact Walk.refl)
    | (with_reducible apply Walk.step (k := State.setIng_keeps))
    | (show covers _ _ = true; rfl)

theorem State.histCount_keeps {x1 x2 x3 s} : Keeps [.regs, .ing, .win 8] s (@State.histCount x1 x2 x3 s) := by
  unfold State.histCount
  show Walk true _ _ _
  try dsimp only
  repeat' first
    | (with_reducible exact Walk.refl)
    | (with_reducible apply Walk.step (k := State.bump_keeps))
    | (with_reducible apply Walk.step (k := State.setIng_keeps))
    | (with_reducible apply Walk.ite)
    | (with_reducible refine Walk.update ?_ ?_ ?_ ?_ ?_ ?_ ?_ ?_ ?_ ?_ ?_ ?_ ?_ ?_ ?_ ?_ ?_ ?_ ?_ ?_ ?_ ?_ ?_ ?_ ?_ ?_ ?_ rfl rfl)
    | (exact .inl rfl)
    | (exact .inr rfl)
    | (show covers _ _ = true; rfl)
    | (split)

theorem State.takeReading_keeps {x1 x2 x3 s} : Keeps [.regs, .out, .hbr, .ing, .cod, .los, .par, .win 1, .win 8, .win 9, .win 20] s (@State.takeReading x1 x2 x3 s) := by
  unfold State.takeReading
  show Walk true _ _ _
  try dsimp only
  repeat' first
    | (with_reducible exact Walk.refl)
    | (with_reducible apply Walk.step (k := State.bump_keeps))
    | (with_reducible apply Walk.step (k := State.handRecord_keeps))
    | (with_reducible apply Walk.step (k := State.histCount_keeps))
    | (with_reducible apply Walk.step (k := State.instCount_keeps))
    | (with_reducible apply Walk.step (k := State.setCtx_keeps))
    | (with_reducible apply Walk.ite)
    | (with_reducible refine Walk.update ?_ ?_ ?_ ?_ ?_ ?_ ?_ ?_ ?_ ?_ ?_ ?_ ?_ ?_ ?_ ?_ ?_ ?_ ?_ ?_ ?_ ?_ ?_ ?_ ?_ ?_ ?_ rfl rfl)
    | (exact .inl rfl)
    | (exact .inr rfl)
    | (show covers _ _ = true; rfl)
    | (split)

theorem State.takeOutage_keeps {x1 x2 s} : Keeps [.ing] s (@State.takeOutage x1 x2 s) := by
  unfold State.takeOutage
  show Walk true _ _ _
  try dsimp only
  repeat' first
    | (with_reducible exact Walk.refl)
    | (with_reducible apply Walk.step (k := State.modCtx_keeps))
    | (with_reducible apply Walk.step (k := State.setIng_keeps))
    | (with_reducible apply Walk.ite)
    | (with_reducible refine Walk.update ?_ ?_ ?_ ?_ ?_ ?_ ?_ ?_ ?_ ?_ ?_ ?_ ?_ ?_ ?_ ?_ ?_ ?_ ?_ ?_ ?_ ?_ ?_ ?_ ?_ ?_ ?_ rfl rfl)
    | (exact .inl rfl)
    | (exact .inr rfl)
    | (show covers _ _ = true; rfl)
    | (split)

theorem State.ingestAr_keeps {x1 x2 s} : Keeps [.regs, .out, .hbr, .ing, .cod, .los, .par, .win 1, .win 8, .win 9, .win 20] s (@State.ingestAr x1 x2 s) := by
  unfold State.ingestAr
  show Walk true _ _ _
  try dsimp only
  repeat' first
    | (with_reducible exact Walk.refl)
    | (with_reducible apply Walk.step (k := State.bump_keeps))
    | (with_reducible apply Walk.step (k := State.instCount_keeps))
    | (with_reducible apply Walk.step (k := State.setCtx_keeps))
    | (with_reducible apply Walk.step (k := State.takeOutage_keeps))
    | (with_reducible apply Walk.step (k := State.takeReading_keeps))
    | (with_reducible apply Walk.ite)
    | (split)
    | (show covers _ _ = true; rfl)

theorem State.ingestFrame_keeps {x1 s} : Keeps [.regs, .out, .hbr, .ing, .cod, .los, .par, .win 1, .win 8, .win 9, .win 20] s (@State.ingestFrame x1 s) := by
  unfold State.ingestFrame
  show Walk true _ _ _
  repeat' first
    | (with_reducible exact Walk.refl)
    | (with_reducible apply Walk.step (k := State.bump_keeps))
    | (with_reducible apply Walk.step (k := State.ingestAr_keeps))
    | (with_reducible apply Walk.foldl)
    | (intro _)
    | (show covers _ _ = true; rfl)
    | (split)

theorem State.leaveHead_keeps {s} : Keeps [.regs, .out, .hbr, .ing, .cod, .los, .par, .win 1, .win 8, .win 9, .win 20] s (@State.leaveHead s) := by
  unfold State.leaveHead
  show Walk true _ _ _
  try dsimp only
  repeat' first
    | (with_reducible exact Walk.refl)
    | (with_reducible apply Walk.step (k := State.setIng_keeps))
    | (with_reducible apply Walk.step (k := State.sunk_keeps))
    | (with_reducible apply Walk.step (k := State.bump_keeps))
    | (with_reducible apply Walk.step (k := State.ingNotice_keeps))
    | (with_reducible apply Walk.step (k := State.bumpBy_keeps))
    | (with_reducible apply Walk.step (k := State.ingestFrame_keeps))
    | (show covers _ _ = true; rfl)
    | (split)

theorem execStormAllowanceRefill_keeps {x1 x2 s t} (h : @execStormAllowanceRefill x1 x2 s = .next t) : Keeps [.regs, .out, .hbr, .ing, .win 1] s t := by
  unfold execStormAllowanceRefill at h
  have e := Host.Outcome.next.inj h
  subst e
  clear h
  show Walk true _ _ _
  repeat' first
    | (with_reducible exact Walk.refl)
    | (with_reducible apply Walk.step (k := State.gateNotices_keeps))
    | (with_reducible apply Walk.step (k := State.setIng_keeps))
    | (show covers _ _ = true; rfl)
    | (split)

theorem State.pathStats_keeps {x1 x2 x3 x4 x5 x6 s} : Keeps [.ing] s (@State.pathStats x1 x2 x3 x4 x5 x6 s) := by
  unfold State.pathStats
  show Walk true _ _ _
  repeat' first
    | (with_reducible exact Walk.refl)
    | (with_reducible apply Walk.step (k := State.modCtx_keeps))
    | (show covers _ _ = true; rfl)

theorem State.ingAccept_keeps {x1 s} : Keeps [.regs, .out, .hbr, .ing, .cod, .los, .par, .win 1, .win 8, .win 9, .win 20] s (@State.ingAccept x1 s) := by
  unfold State.ingAccept
  show Walk true _ _ _
  try dsimp only
  repeat' first
    | (with_reducible exact Walk.refl)
    | (with_reducible apply Walk.step (k := State.bump_keeps))
    | (with_reducible apply Walk.step (k := State.ingestFrame_keeps))
    | (with_reducible apply Walk.step (k := State.setIng_keeps))
    | (with_reducible apply Walk.step (k := State.gateNotices_keeps))
    | (with_reducible apply Walk.step (k := State.maxReg_keeps))
    | (show covers _ _ = true; rfl)
    | (split)

theorem execBurstBufferLeave_keeps {s t} (h : @execBurstBufferLeave s = .next t) : Keeps [.regs, .out, .hbr, .ing, .cod, .los, .par, .win 1, .win 8, .win 9, .win 20] s t := by
  unfold execBurstBufferLeave at h
  have e := Host.Outcome.next.inj h
  subst e
  clear h
  show Walk true _ _ _
  try dsimp only
  repeat' first
    | (with_reducible exact Walk.refl)
    | (with_reducible apply Walk.step (k := State.gateNotices_keeps))
    | (with_reducible apply Walk.step (k := State.leaveHead_keeps))
    | (with_reducible apply Walk.ite)
    | (show covers _ _ = true; rfl)
    | (split)

theorem State.endStorm_keeps {s} : Keeps [.regs, .out, .hbr, .ing, .cod, .los, .par, .win 1, .win 8, .win 9, .win 20] s (@State.endStorm s) := by
  unfold State.endStorm
  show Walk true _ _ _
  try dsimp only
  repeat' first
    | (with_reducible exact Walk.refl)
    | (with_reducible apply Walk.step (k := State.formHists_keeps))
    | (with_reducible apply Walk.step (k := State.ingNotice_keeps))
    | (with_reducible apply Walk.step (k := State.setIng_keeps))
    | (with_reducible refine Walk.update ?_ ?_ ?_ ?_ ?_ ?_ ?_ ?_ ?_ ?_ ?_ ?_ ?_ ?_ ?_ ?_ ?_ ?_ ?_ ?_ ?_ ?_ ?_ ?_ ?_ ?_ ?_ rfl rfl)
    | (exact .inl rfl)
    | (exact .inr rfl)
    | (show covers _ _ = true; rfl)
    | (split)

theorem State.stormSecond_keeps {s} : Keeps [.regs, .out, .hbr, .ing, .cod, .los, .par, .win 1, .win 8, .win 9, .win 20] s (@State.stormSecond s) := by
  unfold State.stormSecond
  show Walk true _ _ _
  try dsimp only
  repeat' first
    | (with_reducible exact Walk.refl)
    | (with_reducible apply Walk.step (k := State.endStorm_keeps))
    | (with_reducible apply Walk.step (k := State.formHists_keeps))
    | (with_reducible apply Walk.step (k := State.ingNotice_keeps))
    | (with_reducible apply Walk.step (k := State.setIng_keeps))
    | (with_reducible apply Walk.ite)
    | (with_reducible refine Walk.update ?_ ?_ ?_ ?_ ?_ ?_ ?_ ?_ ?_ ?_ ?_ ?_ ?_ ?_ ?_ ?_ ?_ ?_ ?_ ?_ ?_ ?_ ?_ ?_ ?_ ?_ ?_ rfl rfl)
    | (exact .inl rfl)
    | (exact .inr rfl)
    | (show covers _ _ = true; rfl)
    | (split)

theorem execStormSecond_keeps {s t} (h : @execStormSecond s = .next t) : Keeps [.regs, .out, .hbr, .ing, .cod, .los, .par, .win 1, .win 8, .win 9, .win 20] s t := by
  unfold execStormSecond at h
  have e := Host.Outcome.next.inj h
  subst e
  clear h
  show Walk true _ _ _
  try dsimp only
  repeat' first
    | (with_reducible exact Walk.refl)
    | (with_reducible apply Walk.step (k := State.gateNotices_keeps))
    | (with_reducible apply Walk.step (k := State.stormSecond_keeps))
    | (with_reducible apply Walk.ite)
    | (show covers _ _ = true; rfl)
    | (split)

theorem State.stormOff_keeps {s} : Keeps [.regs, .out, .hbr, .ing, .cod, .los, .par, .win 1, .win 8, .win 9, .win 20] s (@State.stormOff s) := by
  unfold State.stormOff
  show Walk true _ _ _
  try dsimp only
  repeat' first
    | (with_reducible exact Walk.refl)
    | (with_reducible apply Walk.step (k := State.endStorm_keeps))
    | (with_reducible apply Walk.step (k := State.gateNotices_keeps))
    | (with_reducible apply Walk.ite)
    | (show covers _ _ = true; rfl)
    | (split)

end Sys2Proof.Machine
end

