-- ==== Sys2Proof/Laws/KeepsCodOps.lean ====
section
/-! SUPPORT. What each operation of CodOps can change, and that it keeps the canonical forms. -/
set_option Elab.async false
namespace Sys2Proof.Machine

theorem State.setCod_keeps {x1 s} : Keeps [.cod] s (@State.setCod x1 s) := by
  unfold State.setCod
  show Walk true _ _ _
  repeat' first
    | (with_reducible exact Walk.refl)
    | (with_reducible refine Walk.update ?_ ?_ ?_ ?_ ?_ ?_ ?_ ?_ ?_ ?_ ?_ ?_ ?_ ?_ ?_ ?_ ?_ ?_ ?_ ?_ ?_ ?_ ?_ ?_ ?_ ?_ ?_ rfl rfl)
    | (exact .inl rfl)
    | (exact .inr rfl)

theorem State.stallCount_keeps {s} : Keeps [.regs, .cod, .win 9] s (@State.stallCount s) := by
  unfold State.stallCount
  show Walk true _ _ _
  try dsimp only
  repeat' first
    | (with_reducible exact Walk.refl)
    | (with_reducible apply Walk.step (k := State.bumpBy_keeps))
    | (with_reducible apply Walk.step (k := State.setCod_keeps))
    | (split)
    | (with_reducible refine Walk.update ?_ ?_ ?_ ?_ ?_ ?_ ?_ ?_ ?_ ?_ ?_ ?_ ?_ ?_ ?_ ?_ ?_ ?_ ?_ ?_ ?_ ?_ ?_ ?_ ?_ ?_ ?_ rfl rfl)
    | (exact .inl rfl)
    | (exact .inr rfl)
    | (show covers _ _ = true; rfl)

theorem State.takeHeld_keeps {x1 s} : Keeps [.regs, .cod, .win 9] s (@State.takeHeld x1 s) := by
  unfold State.takeHeld
  show Walk true _ _ _
  try dsimp only
  repeat' first
    | (with_reducible exact Walk.refl)
    | (with_reducible apply Walk.step (k := State.setCod_keeps))
    | (with_reducible apply Walk.step (k := State.stallCount_keeps))
    | (with_reducible apply Walk.ite)
    | (with_reducible refine Walk.update ?_ ?_ ?_ ?_ ?_ ?_ ?_ ?_ ?_ ?_ ?_ ?_ ?_ ?_ ?_ ?_ ?_ ?_ ?_ ?_ ?_ ?_ ?_ ?_ ?_ ?_ ?_ rfl rfl)
    | (exact .inl rfl)
    | (exact .inr rfl)
    | (show covers _ _ = true; rfl)
    | (split)

theorem State.appendRecord_keeps {x1 s} : Keeps [.regs, .cod, .win 9] s (@State.appendRecord x1 s) := by
  unfold State.appendRecord
  show Walk true _ _ _
  try dsimp only
  repeat' first
    | (with_reducible exact Walk.refl)
    | (with_reducible apply Walk.step (k := State.bump_keeps))
    | (with_reducible apply Walk.step (k := State.bumpBy_keeps))
    | (with_reducible apply Walk.step (k := State.bumpPair_keeps))
    | (with_reducible apply Walk.step (k := State.setCod_keeps))
    | (with_reducible apply Walk.ite)
    | (with_reducible refine Walk.update ?_ ?_ ?_ ?_ ?_ ?_ ?_ ?_ ?_ ?_ ?_ ?_ ?_ ?_ ?_ ?_ ?_ ?_ ?_ ?_ ?_ ?_ ?_ ?_ ?_ ?_ ?_ rfl rfl)
    | (exact .inl rfl)
    | (exact .inr rfl)
    | (show covers _ _ = true; rfl)
    | (split)

theorem State.closeNow_keeps {x1 x2 s} : Keeps [.regs, .cod, .win 9] s (@State.closeNow x1 x2 s) := by
  unfold State.closeNow
  show Walk true _ _ _
  try dsimp only
  repeat' first
    | (with_reducible exact Walk.refl)
    | (with_reducible apply Walk.step (k := State.bump_keeps))
    | (with_reducible apply Walk.step (k := State.setCod_keeps))
    | (with_reducible apply Walk.ite)
    | (split)
    | (with_reducible refine Walk.update ?_ ?_ ?_ ?_ ?_ ?_ ?_ ?_ ?_ ?_ ?_ ?_ ?_ ?_ ?_ ?_ ?_ ?_ ?_ ?_ ?_ ?_ ?_ ?_ ?_ ?_ ?_ rfl rfl)
    | (exact .inl rfl)
    | (exact .inr rfl)
    | (show covers _ _ = true; rfl)

theorem State.closeFirm_keeps {x1 x2 s} : Keeps [.regs, .cod, .win 9] s (@State.closeFirm x1 x2 s) := by
  unfold State.closeFirm
  show Walk true _ _ _
  try dsimp only
  repeat' first
    | (with_reducible exact Walk.refl)
    | (with_reducible apply Walk.step (k := State.closeNow_keeps))
    | (with_reducible apply Walk.step (k := State.setCod_keeps))
    | (with_reducible apply Walk.ite)
    | (with_reducible refine Walk.update ?_ ?_ ?_ ?_ ?_ ?_ ?_ ?_ ?_ ?_ ?_ ?_ ?_ ?_ ?_ ?_ ?_ ?_ ?_ ?_ ?_ ?_ ?_ ?_ ?_ ?_ ?_ rfl rfl)
    | (exact .inl rfl)
    | (exact .inr rfl)
    | (show covers _ _ = true; rfl)
    | (split)

theorem State.carryOut_keeps {x1 s} : Keeps [.regs, .cod, .win 9] s (@State.carryOut x1 s) := by
  unfold State.carryOut
  show Walk true _ _ _
  try dsimp only
  repeat' first
    | (with_reducible exact Walk.refl)
    | (with_reducible apply Walk.step (k := State.closeFirm_keeps))
    | (with_reducible apply Walk.step (k := State.setCod_keeps))
    | (with_reducible apply Walk.foldl)
    | (with_reducible apply Walk.foldl1)
    | (with_reducible apply Walk.foldl2)
    | (intro _)
    | (with_reducible assumption)
    | (with_reducible refine Walk.update ?_ ?_ ?_ ?_ ?_ ?_ ?_ ?_ ?_ ?_ ?_ ?_ ?_ ?_ ?_ ?_ ?_ ?_ ?_ ?_ ?_ ?_ ?_ ?_ ?_ ?_ ?_ rfl rfl)
    | (exact .inl rfl)
    | (exact .inr rfl)
    | (show covers _ _ = true; rfl)
    | (split)

theorem State.codeHead_keeps {x1 s} : Keeps [.regs, .out, .hbr, .ing, .cod, .los, .par, .win 1, .win 8, .win 9, .win 20] s (@State.codeHead x1 s) := by
  unfold State.codeHead
  show Walk true _ _ _
  try dsimp only
  repeat' first
    | (with_reducible exact Walk.refl)
    | (with_reducible apply Walk.step (k := State.appendRecord_keeps))
    | (with_reducible apply Walk.step (k := State.carryOut_keeps))
    | (with_reducible apply Walk.step (k := State.closeNow_keeps))
    | (with_reducible apply Walk.step (k := State.histGo_keeps))
    | (with_reducible apply Walk.step (k := State.setCod_keeps))
    | (with_reducible apply Walk.ite)
    | (split)
    | (with_reducible refine Walk.update ?_ ?_ ?_ ?_ ?_ ?_ ?_ ?_ ?_ ?_ ?_ ?_ ?_ ?_ ?_ ?_ ?_ ?_ ?_ ?_ ?_ ?_ ?_ ?_ ?_ ?_ ?_ rfl rfl)
    | (exact .inl rfl)
    | (exact .inr rfl)
    | (show covers _ _ = true; rfl)

theorem State.closeAll_keeps {x1 x2 s} : Keeps [.regs, .cod, .win 9] s (@State.closeAll x1 x2 s) := by
  unfold State.closeAll
  show Walk true _ _ _
  try dsimp only
  repeat' first
    | (with_reducible exact Walk.refl)
    | (with_reducible apply Walk.step (k := State.carryOut_keeps))
    | (with_reducible apply Walk.step (k := State.closeFirm_keeps))
    | (with_reducible apply Walk.foldl)
    | (with_reducible apply Walk.foldl1)
    | (with_reducible apply Walk.foldl2)
    | (intro _)
    | (with_reducible assumption)
    | (show covers _ _ = true; rfl)
    | (split)

theorem State.codDusk_keeps {s} : Keeps [.regs, .out, .hbr, .ing, .cod, .los, .par, .win 1, .win 8, .win 9, .win 20] s (@State.codDusk s) := by
  unfold State.codDusk
  show Walk true _ _ _
  try dsimp only
  repeat' first
    | (with_reducible exact Walk.refl)
    | (with_reducible apply Walk.step (k := State.closeAll_keeps))
    | (with_reducible apply Walk.step (k := State.codeHead_keeps))
    | (with_reducible apply Walk.foldl)
    | (with_reducible apply Walk.foldl1)
    | (with_reducible apply Walk.foldl2)
    | (intro _)
    | (with_reducible assumption)
    | (show covers _ _ = true; rfl)
    | (split)

theorem State.codFence_keeps {x1 s} : Keeps [.regs, .cod, .win 9] s (@State.codFence x1 s) := by
  unfold State.codFence
  show Walk true _ _ _
  repeat' first
    | (with_reducible exact Walk.refl)
    | (with_reducible apply Walk.step (k := State.closeAll_keeps))
    | (show covers _ _ = true; rfl)

theorem State.decideClose_keeps {x1 x2 s} : Keeps [.regs, .cod, .win 9] s (@State.decideClose x1 x2 s) := by
  unfold State.decideClose
  show Walk true _ _ _
  repeat' first
    | (with_reducible exact Walk.refl)
    | (with_reducible apply Walk.step (k := State.closeNow_keeps))
    | (with_reducible apply Walk.step (k := State.setCod_keeps))
    | (show covers _ _ = true; rfl)
    | (split)

theorem State.codWatch_keeps {x1 x2 s} : Keeps [.cod] s (@State.codWatch x1 x2 s) := by
  unfold State.codWatch
  show Walk true _ _ _
  try dsimp only
  repeat' first
    | (with_reducible exact Walk.refl)
    | (with_reducible apply Walk.step (k := State.setCod_keeps))
    | (with_reducible refine Walk.update ?_ ?_ ?_ ?_ ?_ ?_ ?_ ?_ ?_ ?_ ?_ ?_ ?_ ?_ ?_ ?_ ?_ ?_ ?_ ?_ ?_ ?_ ?_ ?_ ?_ ?_ ?_ rfl rfl)
    | (exact .inl rfl)
    | (exact .inr rfl)
    | (show covers _ _ = true; rfl)
    | (split)

end Sys2Proof.Machine
end

