-- ==== Sys2Proof/Laws/KeepsArcOps.lean ====
section
/-! SUPPORT. What each operation of ArcOps can change, and that it keeps the canonical forms. -/
set_option Elab.async false
namespace Sys2Proof.Machine

theorem State.setArc_keeps {x1 s} : Keeps [.arc] s (@State.setArc x1 s) := by
  unfold State.setArc
  show Walk true _ _ _
  repeat' first
    | (with_reducible exact Walk.refl)
    | (with_reducible refine Walk.update ?_ ?_ ?_ ?_ ?_ ?_ ?_ ?_ ?_ ?_ ?_ ?_ ?_ ?_ ?_ ?_ ?_ ?_ ?_ ?_ ?_ ?_ ?_ ?_ ?_ ?_ ?_ rfl rfl)
    | (exact .inl rfl)
    | (exact .inr rfl)

theorem State.leaveWait_keeps {x1 x2 s} : Keeps [.regs, .cod, .arc, .win 9] s (@State.leaveWait x1 x2 s) := by
  unfold State.leaveWait
  show Walk true _ _ _
  try dsimp only
  repeat' first
    | (with_reducible exact Walk.refl)
    | (with_reducible apply Walk.step (k := State.setArc_keeps))
    | (with_reducible apply Walk.step (k := State.takeHeld_keeps))
    | (with_reducible apply Walk.ite)
    | (with_reducible refine Walk.update ?_ ?_ ?_ ?_ ?_ ?_ ?_ ?_ ?_ ?_ ?_ ?_ ?_ ?_ ?_ ?_ ?_ ?_ ?_ ?_ ?_ ?_ ?_ ?_ ?_ ?_ ?_ rfl rfl)
    | (exact .inl rfl)
    | (exact .inr rfl)
    | (show covers _ _ = true; rfl)
    | (split)

theorem State.modExt_keeps {x1 x2 s} : Keeps [.arc] s (@State.modExt x1 x2 s) := by
  unfold State.modExt
  show Walk true _ _ _
  repeat' first
    | (with_reducible exact Walk.refl)
    | (with_reducible apply Walk.step (k := State.setArc_keeps))
    | (show covers _ _ = true; rfl)

theorem State.groupAen_keeps_of {x1 x2 x3 a1 a2 t} (h : @State.groupAen x1 x2 x3 = some (a1, a2, t)) : Keeps [.arc] x1 t := by
  unfold State.groupAen at h
  dsimp only at h
  split at h
  · obtain ⟨k, _, hk⟩ := Option.map_eq_some_iff.1 h
    simp only [Prod.mk.injEq] at hk
    exact hk.2.2 ▸ Keeps.refl
  · obtain ⟨k, _, hk⟩ := Option.map_eq_some_iff.1 h
    simp only [Prod.mk.injEq] at hk
    exact hk.2.2 ▸ State.setArc_keeps

theorem State.modMeta_keeps {x1 x2 s} : Keeps [.arc] s (@State.modMeta x1 x2 s) := by
  unfold State.modMeta
  show Walk true _ _ _
  repeat' first
    | (with_reducible exact Walk.refl)
    | (with_reducible apply Walk.step (k := State.modExt_keeps))
    | (show covers _ _ = true; rfl)

theorem State.putPage_keeps {x1 s} : Keeps [.out, .arc] s (@State.putPage x1 s) := by
  unfold State.putPage
  show Walk true _ _ _
  try dsimp only
  repeat' first
    | (with_reducible exact Walk.refl)
    | (with_reducible apply Walk.step (k := State.emit_keeps))
    | (with_reducible apply Walk.step (k := State.setArc_keeps))
    | (with_reducible apply Walk.foldl)
    | (with_reducible apply Walk.foldl1)
    | (with_reducible apply Walk.foldl2)
    | (intro _)
    | (with_reducible assumption)
    | (with_reducible refine Walk.update ?_ ?_ ?_ ?_ ?_ ?_ ?_ ?_ ?_ ?_ ?_ ?_ ?_ ?_ ?_ ?_ ?_ ?_ ?_ ?_ ?_ ?_ ?_ ?_ ?_ ?_ ?_ rfl rfl)
    | (exact .inl rfl)
    | (exact .inr rfl)
    | (show covers _ _ = true; rfl)
    | (split)

theorem State.nextPage_keeps {s} : Keeps [.out, .arc] s (@State.nextPage s) := by
  unfold State.nextPage
  show Walk true _ _ _
  try dsimp only
  repeat' first
    | (with_reducible exact Walk.refl)
    | (with_reducible apply Walk.step (k := State.putPage_keeps))
    | (with_reducible apply Walk.step (k := State.setArc_keeps))
    | (with_reducible apply Walk.ite)
    | (with_reducible refine Walk.update ?_ ?_ ?_ ?_ ?_ ?_ ?_ ?_ ?_ ?_ ?_ ?_ ?_ ?_ ?_ ?_ ?_ ?_ ?_ ?_ ?_ ?_ ?_ ?_ ?_ ?_ ?_ rfl rfl)
    | (exact .inl rfl)
    | (exact .inr rfl)
    | (show covers _ _ = true; rfl)
    | (with_reducible apply Walk.foldl)
    | (with_reducible apply Walk.foldl1)
    | (with_reducible apply Walk.foldl2)
    | (intro _)
    | (with_reducible assumption)
    | (split)

theorem State.journal_keeps {x1 x2 s} : Keeps [.out, .arc] s (@State.journal x1 x2 s) := by
  unfold State.journal
  show Walk true _ _ _
  repeat' first
    | (with_reducible exact Walk.refl)
    | (with_reducible apply Walk.step (k := State.nextPage_keeps))
    | (with_reducible apply Walk.step (k := State.setArc_keeps))
    | (show covers _ _ = true; rfl)

theorem State.logExt_keeps {x1 s} : Keeps [.out, .arc] s (@State.logExt x1 s) := by
  unfold State.logExt
  show Walk true _ _ _
  repeat' first
    | (with_reducible exact Walk.refl)
    | (with_reducible apply Walk.step (k := State.journal_keeps))
    | (with_reducible apply Walk.step (k := State.modExt_keeps))
    | (show covers _ _ = true; rfl)
    | (split)

theorem State.freePhys_keeps {x1 x2 s} : Keeps [.out, .arc] s (@State.freePhys x1 x2 s) := by
  unfold State.freePhys
  show Walk true _ _ _
  try dsimp only
  repeat' first
    | (with_reducible exact Walk.refl)
    | (with_reducible apply Walk.step (k := State.emit_keeps))
    | (with_reducible apply Walk.step (k := State.setArc_keeps))
    | (with_reducible apply Walk.ite)
    | (with_reducible refine Walk.update ?_ ?_ ?_ ?_ ?_ ?_ ?_ ?_ ?_ ?_ ?_ ?_ ?_ ?_ ?_ ?_ ?_ ?_ ?_ ?_ ?_ ?_ ?_ ?_ ?_ ?_ ?_ rfl rfl)
    | (exact .inl rfl)
    | (exact .inr rfl)
    | (show covers _ _ = true; rfl)
    | (split)

theorem State.releaseExt_keeps {x1 s} : Keeps [.out, .arc] s (@State.releaseExt x1 s) := by
  unfold State.releaseExt
  show Walk true _ _ _
  try dsimp only
  repeat' first
    | (with_reducible exact Walk.refl)
    | (with_reducible apply Walk.step (k := State.freePhys_keeps))
    | (with_reducible apply Walk.step (k := State.journal_keeps))
    | (with_reducible apply Walk.step (k := State.logExt_keeps))
    | (with_reducible apply Walk.step (k := State.modMeta_keeps))
    | (with_reducible apply Walk.step (k := State.setArc_keeps))
    | (with_reducible apply Walk.ite)
    | (with_reducible apply Walk.foldl)
    | (with_reducible apply Walk.foldl1)
    | (with_reducible apply Walk.foldl2)
    | (intro _)
    | (with_reducible assumption)
    | (split)
    | (with_reducible refine Walk.update ?_ ?_ ?_ ?_ ?_ ?_ ?_ ?_ ?_ ?_ ?_ ?_ ?_ ?_ ?_ ?_ ?_ ?_ ?_ ?_ ?_ ?_ ?_ ?_ ?_ ?_ ?_ rfl rfl)
    | (exact .inl rfl)
    | (exact .inr rfl)
    | (show covers _ _ = true; rfl)

theorem State.arcNotice_keeps {x1 x2 x3 x4 x5 x6 x7 s} : Keeps [.regs, .out, .hbr, .win 1] s (@State.arcNotice x1 x2 x3 x4 x5 x6 x7 s) := by
  unfold State.arcNotice
  show Walk true _ _ _
  repeat' first
    | (with_reducible exact Walk.refl)
    | (with_reducible apply Walk.step (k := State.event_keeps))
    | (show covers _ _ = true; rfl)

theorem State.holdNs_keeps {x1 s} : Keeps [.regs, .out, .hbr, .arc, .win 1] s (@State.holdNs x1 s) := by
  unfold State.holdNs
  show Walk true _ _ _
  repeat' first
    | (with_reducible exact Walk.refl)
    | (with_reducible apply Walk.step (k := State.arcNotice_keeps))
    | (with_reducible apply Walk.step (k := State.setArc_keeps))
    | (show covers _ _ = true; rfl)
    | (split)

theorem State.modDrive_keeps {x1 x2 s} : Keeps [.arc] s (@State.modDrive x1 x2 s) := by
  unfold State.modDrive
  show Walk true _ _ _
  repeat' first
    | (with_reducible exact Walk.refl)
    | (with_reducible apply Walk.step (k := State.setArc_keeps))
    | (show covers _ _ = true; rfl)

theorem State.takePhys_keeps {x1 s} : Keeps [.arc] s (@State.takePhys x1 s).2 := by
  unfold State.takePhys
  show Walk true _ _ _
  repeat' first
    | (with_reducible exact Walk.refl)
    | (with_reducible apply Walk.step (k := State.modDrive_keeps))
    | (show covers _ _ = true; rfl)
    | (split)
theorem State.takePhys_keeps_of {x1 s a1 t} (h : @State.takePhys x1 s = (a1, t)) : Keeps [.arc] s t := by
  have := @State.takePhys_keeps x1 s
  rw [h] at this
  exact this

theorem State.allocPlace_keeps_of {ns c} {s : State} {aen g t} {p : Prop} [Decidable p]
    (h : (if p then none else if c.protect = 2 then Option.map (fun r => (r.fst, some r.snd.fst, r.snd.snd)) (State.groupAen s ns c)
      else Option.map (fun a => (a, none, s)) (s.freeAen 1)) = some (aen, g, t)) : Keeps [.arc] s t := by
  split at h
  · cases h
  · split at h
    · obtain ⟨k, hk, he⟩ := Option.map_eq_some_iff.1 h
      cases he
      exact State.groupAen_keeps_of hk
    · obtain ⟨k, hk, he⟩ := Option.map_eq_some_iff.1 h
      cases he
      exact Keeps.refl

theorem State.takeExt_keeps {x1 x2 x3 x4 s} : Keeps [.out, .arc] s (@State.takeExt x1 x2 x3 x4 s) := by
  unfold State.takeExt
  show Walk true _ _ _
  try dsimp only
  repeat' first
    | (with_reducible exact Walk.refl)
    | (with_reducible apply Walk.step (k := State.journal_keeps))
    | (with_reducible apply Walk.step (k := State.setArc_keeps))
    | (with_reducible refine Walk.step ?_ (State.takePhys_keeps_of (by assumption)) ?_)
    | (with_reducible apply Walk.step (k := State.takePhys_keeps))
    | (split)
    | (with_reducible refine Walk.update ?_ ?_ ?_ ?_ ?_ ?_ ?_ ?_ ?_ ?_ ?_ ?_ ?_ ?_ ?_ ?_ ?_ ?_ ?_ ?_ ?_ ?_ ?_ ?_ ?_ ?_ ?_ rfl rfl)
    | (exact .inl rfl)
    | (exact .inr rfl)
    | (show covers _ _ = true; rfl)

theorem State.allocExt_keeps {x1 x2 s} : Keeps [.regs, .out, .hbr, .arc, .win 1] s (@State.allocExt x1 x2 s) := by
  unfold State.allocExt
  show Walk true _ _ _
  try dsimp only
  repeat' first
    | (with_reducible exact Walk.refl)
    | (with_reducible refine Walk.step ?_ (State.groupAen_keeps_of (by assumption)) ?_)
    | (with_reducible apply Walk.step (k := State.holdNs_keeps))
    | (with_reducible apply Walk.step (k := State.releaseExt_keeps))
    | (with_reducible apply Walk.step (k := State.setArc_keeps))
    | (with_reducible apply Walk.step (k := State.takeExt_keeps))
    | (with_reducible apply Walk.ite)
    | (with_reducible apply Walk.foldl)
    | (with_reducible apply Walk.foldl1)
    | (with_reducible apply Walk.foldl2)
    | (intro _)
    | (with_reducible assumption)
    | (split)
    | (with_reducible refine Walk.update ?_ ?_ ?_ ?_ ?_ ?_ ?_ ?_ ?_ ?_ ?_ ?_ ?_ ?_ ?_ ?_ ?_ ?_ ?_ ?_ ?_ ?_ ?_ ?_ ?_ ?_ ?_ rfl rfl)
    | (exact .inl rfl)
    | (exact .inr rfl)
    | (with_reducible refine Walk.step ?_ (State.allocPlace_keeps_of (by assumption)) ?_)
    | (with_reducible refine Walk.step ?_ (State.allocPlace_keeps_of (by assumption)) ?_)
    | (exact (fun _ => rfl))
    | (show covers _ _ = true; rfl)

theorem State.ensureExts_keeps {x1 s} : Keeps [.regs, .out, .hbr, .arc, .win 1] s (@State.ensureExts x1 s) := by
  unfold State.ensureExts
  show Walk true _ _ _
  try dsimp only
  repeat' first
    | (with_reducible exact Walk.refl)
    | (with_reducible apply Walk.step (k := State.allocExt_keeps))
    | (with_reducible apply Walk.ite)
    | (show covers _ _ = true; rfl)
    | (split)

theorem State.writeBlock_keeps {x1 x2 s} : Keeps [.regs, .out, .hbr, .arc, .win 1, .win 10] s (@State.writeBlock x1 x2 s) := by
  unfold State.writeBlock
  show Walk true _ _ _
  try dsimp only
  repeat' first
    | (with_reducible exact Walk.refl)
    | (with_reducible apply Walk.step (k := State.bumpBy_keeps))
    | (with_reducible apply Walk.step (k := State.emit_keeps))
    | (with_reducible apply Walk.step (k := State.ensureExts_keeps))
    | (with_reducible apply Walk.step (k := State.modExt_keeps))
    | (with_reducible apply Walk.step (k := State.setArc_keeps))
    | (with_reducible apply Walk.foldl)
    | (with_reducible apply Walk.foldl1)
    | (with_reducible apply Walk.foldl2)
    | (intro _)
    | (with_reducible assumption)
    | (split)
    | (with_reducible refine Walk.update ?_ ?_ ?_ ?_ ?_ ?_ ?_ ?_ ?_ ?_ ?_ ?_ ?_ ?_ ?_ ?_ ?_ ?_ ?_ ?_ ?_ ?_ ?_ ?_ ?_ ?_ ?_ rfl rfl)
    | (exact .inl rfl)
    | (exact .inr rfl)
    | (show covers _ _ = true; rfl)

/-- The state a look at a block leaves. -/
def State.Taking.st : State.Taking → State
  | .written s => s
  | .held s => s
  | .passed s => s

theorem Walk.written {b ps s t} (h : Walk b ps s t) : Walk b ps s (State.Taking.written t).st := h

theorem Walk.held {b ps s t} (h : Walk b ps s t) : Walk b ps s (State.Taking.held t).st := h

theorem Walk.passed {b ps s t} (h : Walk b ps s t) : Walk b ps s (State.Taking.passed t).st := h

theorem Walk.ite_st {b ps s} {c : Prop} [Decidable c] {x y : State.Taking} (h : Walk b ps s x.st) (k : Walk b ps s y.st) :
    Walk b ps s (if c then x else y).st := by
  split <;> assumption

theorem State.takeBlock_keeps {x1 x2 x3 x4 s} : Keeps [.regs, .out, .hbr, .arc, .win 1, .win 10] s (State.takeBlock x1 x2 x3 x4 s).st := by
  unfold State.takeBlock
  show Walk true _ _ _
  try dsimp only
  repeat' first
    | (with_reducible apply Walk.ite_st)
    | (with_reducible apply Walk.written)
    | (with_reducible apply Walk.held)
    | (with_reducible apply Walk.passed)
    | (with_reducible exact Walk.refl)
    | (with_reducible apply Walk.step (k := State.allocExt_keeps))
    | (with_reducible assumption)
    | (with_reducible apply Walk.step (k := State.writeBlock_keeps))
    | (with_reducible apply Walk.step (k := State.setArc_keeps))
    | (with_reducible apply Walk.step (k := State.ensureExts_keeps))
    | (with_reducible apply Walk.ite_st)
    | (with_reducible apply Walk.written)
    | (with_reducible apply Walk.held)
    | (with_reducible apply Walk.passed)
    | (with_reducible apply Walk.foldl)
    | (with_reducible apply Walk.foldl1)
    | (with_reducible apply Walk.foldl2)
    | (with_reducible apply Walk.ite)
    | (intro _)
    | (exact .inl rfl)
    | (exact .inr rfl)
    | (show covers _ _ = true; rfl)
    | (exact (fun _ => rfl))
    | (split)

theorem State.takeBlock_keeps_of {x1 x2 x3 x4 s r} (h : State.takeBlock x1 x2 x3 x4 s = r) : Keeps [.regs, .out, .hbr, .arc, .win 1, .win 10] s r.st :=
  h ▸ State.takeBlock_keeps

theorem State.takeBlock_keeps_written {x1 x2 x3 x4 s t} (h : State.takeBlock x1 x2 x3 x4 s = .written t) : Keeps [.regs, .out, .hbr, .arc, .win 1, .win 10] s t :=
  State.takeBlock_keeps_of h

theorem State.takeBlock_keeps_held {x1 x2 x3 x4 s t} (h : State.takeBlock x1 x2 x3 x4 s = .held t) : Keeps [.regs, .out, .hbr, .arc, .win 1, .win 10] s t :=
  State.takeBlock_keeps_of h

theorem State.takeBlock_keeps_passed {x1 x2 x3 x4 s t} (h : State.takeBlock x1 x2 x3 x4 s = .passed t) : Keeps [.regs, .out, .hbr, .arc, .win 1, .win 10] s t :=
  State.takeBlock_keeps_of h

theorem State.askCeiling_keeps {s} : Keeps [.out, .arc] s (@State.askCeiling s) := by
  unfold State.askCeiling
  show Walk true _ _ _
  repeat' first
    | (with_reducible exact Walk.refl)
    | (with_reducible apply Walk.step (k := State.journal_keeps))
    | (with_reducible apply Walk.step (k := State.setArc_keeps))
    | (show covers _ _ = true; rfl)
    | (split)

theorem State.takeFirst_keeps {x1 x2 s} : Keeps [.regs, .out, .hbr, .cod, .arc, .win 1, .win 9, .win 10] s (@State.takeFirst x1 x2 s) := by
  induction x2 generalizing s with
  | nil => exact Keeps.refl
  | cons e t ih =>
    unfold State.takeFirst
    show Walk true _ _ _
    repeat' first
      | (with_reducible refine Walk.step ?_ (State.takeBlock_keeps_written (by assumption)) ?_)
      | (with_reducible refine Walk.step ?_ (State.takeBlock_keeps_held (by assumption)) ?_)
      | (with_reducible refine Walk.step ?_ (State.takeBlock_keeps_passed (by assumption)) ?_)
      | (with_reducible apply Walk.step (k := ih))
      | (with_reducible exact Walk.refl)
      | (with_reducible assumption)
      | (with_reducible refine Walk.step ?_ (State.takeBlock_keeps_written (by assumption)) ?_)
      | (with_reducible refine Walk.step ?_ (State.takeBlock_keeps_held (by assumption)) ?_)
      | (with_reducible refine Walk.step ?_ (State.takeBlock_keeps_passed (by assumption)) ?_)
      | (with_reducible apply Walk.step (k := State.askCeiling_keeps))
      | (with_reducible apply Walk.step (k := State.leaveWait_keeps))
      | (with_reducible refine Walk.step ?_ (State.takeBlock_keeps_written (by assumption)) ?_)
      | (with_reducible refine Walk.step ?_ (State.takeBlock_keeps_held (by assumption)) ?_)
      | (with_reducible refine Walk.step ?_ (State.takeBlock_keeps_passed (by assumption)) ?_)
      | (with_reducible apply Walk.step (k := ih))
      | (with_reducible apply Walk.foldl)
      | (with_reducible apply Walk.foldl1)
      | (with_reducible apply Walk.foldl2)
      | (with_reducible apply Walk.ite)
      | (intro _)
      | (exact .inl rfl)
      | (exact .inr rfl)
      | (show covers _ _ = true; rfl)
      | (exact (fun _ => rfl))
      | (split)

theorem State.parityDone_keeps {x1 s} : Keeps [.out, .arc] s (@State.parityDone x1 s) := by
  unfold State.parityDone
  show Walk true _ _ _
  try dsimp only
  repeat' first
    | (with_reducible exact Walk.refl)
    | (with_reducible apply Walk.step (k := State.freePhys_keeps))
    | (with_reducible apply Walk.step (k := State.logExt_keeps))
    | (with_reducible apply Walk.step (k := State.modMeta_keeps))
    | (with_reducible apply Walk.ite)
    | (with_reducible apply Walk.foldl)
    | (with_reducible apply Walk.foldl1)
    | (with_reducible apply Walk.foldl2)
    | (intro _)
    | (with_reducible assumption)
    | (split)
    | (with_reducible refine Walk.update ?_ ?_ ?_ ?_ ?_ ?_ ?_ ?_ ?_ ?_ ?_ ?_ ?_ ?_ ?_ ?_ ?_ ?_ ?_ ?_ ?_ ?_ ?_ ?_ ?_ ?_ ?_ rfl rfl)
    | (exact .inl rfl)
    | (exact .inr rfl)
    | (show covers _ _ = true; rfl)

theorem State.parityCheck_keeps {x1 s} : Keeps [.out, .arc] s (@State.parityCheck x1 s) := by
  unfold State.parityCheck
  show Walk true _ _ _
  try dsimp only
  repeat' first
    | (with_reducible exact Walk.refl)
    | (with_reducible apply Walk.step (k := State.emit_keeps))
    | (with_reducible apply Walk.step (k := State.setArc_keeps))
    | (with_reducible apply Walk.step (k := State.takeExt_keeps))
    | (with_reducible apply Walk.ite)
    | (split)
    | (with_reducible refine Walk.update ?_ ?_ ?_ ?_ ?_ ?_ ?_ ?_ ?_ ?_ ?_ ?_ ?_ ?_ ?_ ?_ ?_ ?_ ?_ ?_ ?_ ?_ ?_ ?_ ?_ ?_ ?_ rfl rfl)
    | (exact .inl rfl)
    | (exact .inr rfl)
    | (show covers _ _ = true; rfl)

theorem State.closeExt_keeps {x1 s} : Keeps [.regs, .out, .hbr, .arc, .win 1, .win 10] s (@State.closeExt x1 s) := by
  unfold State.closeExt
  show Walk true _ _ _
  try dsimp only
  repeat' first
    | (with_reducible exact Walk.refl)
    | (with_reducible apply Walk.step (k := State.bump_keeps))
    | (with_reducible apply Walk.step (k := State.ensureExts_keeps))
    | (with_reducible apply Walk.step (k := State.journal_keeps))
    | (with_reducible apply Walk.step (k := State.modExt_keeps))
    | (with_reducible apply Walk.step (k := State.parityCheck_keeps))
    | (with_reducible apply Walk.step (k := State.releaseExt_keeps))
    | (with_reducible apply Walk.ite)
    | (split)
    | (with_reducible refine Walk.update ?_ ?_ ?_ ?_ ?_ ?_ ?_ ?_ ?_ ?_ ?_ ?_ ?_ ?_ ?_ ?_ ?_ ?_ ?_ ?_ ?_ ?_ ?_ ?_ ?_ ?_ ?_ rfl rfl)
    | (exact .inl rfl)
    | (exact .inr rfl)
    | (show covers _ _ = true; rfl)

theorem State.blockNotices_keeps {x1 x2 x3 x4 s} : Keeps [.regs, .out, .hbr, .win 1, .win 20] s (@State.blockNotices x1 x2 x3 x4 s) := by
  unfold State.blockNotices
  show Walk true _ _ _
  try dsimp only
  repeat' first
    | (with_reducible exact Walk.refl)
    | (with_reducible apply Walk.step (k := State.sunk_keeps))
    | (with_reducible apply Walk.step (k := State.notice_keeps))
    | (with_reducible apply Walk.foldl)
    | (intro _)
    | (show covers _ _ = true; rfl)
    | (split)

theorem State.advance_keeps {x1 x2 s} : Keeps [.regs, .out, .hbr, .arc, .win 1, .win 10, .win 20] s (@State.advance x1 x2 s) := by
  induction x1 generalizing s with
  | zero => exact Keeps.refl
  | succ n ih =>
    unfold State.advance
    show Walk true _ _ _
    try dsimp only
    repeat' first
      | (with_reducible apply Walk.step (k := ih))
      | (with_reducible exact Walk.refl)
      | (with_reducible assumption)
      | (with_reducible apply Walk.step (k := State.closeExt_keeps))
      | (with_reducible apply Walk.step (k := State.bump_keeps))
      | (with_reducible apply Walk.step (k := State.modMeta_keeps))
      | (with_reducible apply Walk.step (k := State.setArc_keeps))
      | (with_reducible apply Walk.step (k := State.blockNotices_keeps))
      | (with_reducible apply Walk.step (k := State.logExt_keeps))
      | (with_reducible apply Walk.step (k := ih))
      | (with_reducible apply Walk.foldl)
      | (with_reducible apply Walk.foldl1)
      | (with_reducible apply Walk.foldl2)
      | (with_reducible apply Walk.ite)
      | (intro _)
      | (exact .inl rfl)
      | (exact .inr rfl)
      | (show covers _ _ = true; rfl)
      | (exact (fun _ => rfl))
      | (split)

theorem State.copyWritten_keeps {x1 x2 x3 s} : Keeps [.regs, .out, .hbr, .arc, .win 1, .win 10, .win 20] s (@State.copyWritten x1 x2 x3 s) := by
  unfold State.copyWritten
  show Walk true _ _ _
  try dsimp only
  repeat' first
    | (with_reducible exact Walk.refl)
    | (with_reducible apply Walk.step (k := State.setArc_keeps))
    | (with_reducible apply Walk.step (k := State.parityDone_keeps))
    | (with_reducible apply Walk.step (k := State.advance_keeps))
    | (show covers _ _ = true; rfl)
    | (split)

theorem State.delCheck_keeps {s} : Keeps [.out, .cmd, .arc, .bil] s (@State.delCheck s) := by
  unfold State.delCheck
  show Walk true _ _ _
  repeat' first
    | (with_reducible exact Walk.refl)
    | (with_reducible apply Walk.step (k := State.setArc_keeps))
    | (with_reducible apply Walk.step (k := State.journal_keeps))
    | (with_reducible apply Walk.step (k := State.replyWith_keeps))
    | (with_reducible apply Walk.foldl)
    | (intro _)
    | (show covers _ _ = true; rfl)
    | (split)

theorem State.freeParity_keeps {s} : Keeps [.out, .arc] s (@State.freeParity s) := by
  unfold State.freeParity
  show Walk true _ _ _
  try dsimp only
  repeat' first
    | (with_reducible exact Walk.refl)
    | (with_reducible apply Walk.step (k := State.releaseExt_keeps))
    | (with_reducible apply Walk.ite)
    | (with_reducible apply Walk.foldl)
    | (with_reducible apply Walk.foldl1)
    | (with_reducible apply Walk.foldl2)
    | (intro _)
    | (with_reducible assumption)
    | (show covers _ _ = true; rfl)
    | (split)

theorem State.extFreed_keeps {x1 s} : Keeps [.regs, .out, .cmd, .hbr, .arc, .bil, .win 1] s (@State.extFreed x1 s) := by
  unfold State.extFreed
  show Walk true _ _ _
  try dsimp only
  repeat' first
    | (with_reducible exact Walk.refl)
    | (with_reducible apply Walk.step (k := State.delCheck_keeps))
    | (with_reducible apply Walk.step (k := State.ensureExts_keeps))
    | (with_reducible apply Walk.step (k := State.freeParity_keeps))
    | (with_reducible apply Walk.step (k := State.setArc_keeps))
    | (with_reducible apply Walk.ite)
    | (with_reducible refine Walk.update ?_ ?_ ?_ ?_ ?_ ?_ ?_ ?_ ?_ ?_ ?_ ?_ ?_ ?_ ?_ ?_ ?_ ?_ ?_ ?_ ?_ ?_ ?_ ?_ ?_ ?_ ?_ rfl rfl)
    | (exact .inl rfl)
    | (exact .inr rfl)
    | (show covers _ _ = true; rfl)
    | (with_reducible apply Walk.foldl)
    | (with_reducible apply Walk.foldl1)
    | (with_reducible apply Walk.foldl2)
    | (intro _)
    | (with_reducible assumption)
    | (split)

theorem State.holdCheck_keeps {s} : Keeps [.regs, .out, .hbr, .arc, .win 1] s (@State.holdCheck s) := by
  unfold State.holdCheck
  show Walk true _ _ _
  repeat' first
    | (with_reducible exact Walk.refl)
    | (with_reducible apply Walk.step (k := State.arcNotice_keeps))
    | (with_reducible apply Walk.step (k := State.setArc_keeps))
    | (show covers _ _ = true; rfl)
    | (split)

theorem State.arcReady_keeps {s} : Keeps [.regs, .arc, .win 0] s (@State.arcReady s) := by
  unfold State.arcReady
  show Walk true _ _ _
  repeat' first
    | (with_reducible exact Walk.refl)
    | (with_reducible apply Walk.step (k := State.holdCause_keeps))
    | (with_reducible apply Walk.step (k := State.setArc_keeps))
    | (show covers _ _ = true; rfl)

theorem State.sysEnsure_keeps {x1 x2 s} : Keeps [.out, .arc] s (@State.sysEnsure x1 x2 s) := by
  unfold State.sysEnsure
  show Walk true _ _ _
  try dsimp only
  repeat' first
    | (with_reducible exact Walk.refl)
    | (with_reducible apply Walk.step (k := State.takeExt_keeps))
    | (with_reducible apply Walk.ite)
    | (split)
    | (show covers _ _ = true; rfl)

theorem State.sysWrite_keeps {x1 x2 x3 x4 s} : Keeps [.out, .arc] s (@State.sysWrite x1 x2 x3 x4 s) := by
  unfold State.sysWrite
  show Walk true _ _ _
  try dsimp only
  repeat' first
    | (with_reducible exact Walk.refl)
    | (with_reducible apply Walk.step (k := State.emit_keeps))
    | (with_reducible apply Walk.step (k := State.sysEnsure_keeps))
    | (with_reducible apply Walk.foldl)
    | (with_reducible apply Walk.foldl1)
    | (with_reducible apply Walk.foldl2)
    | (intro _)
    | (with_reducible assumption)
    | (split)
    | (show covers _ _ = true; rfl)

theorem State.putSummary_keeps {x1 s} : Keeps [.out, .arc] s (@State.putSummary x1 s) := by
  unfold State.putSummary
  show Walk true _ _ _
  try dsimp only
  repeat' first
    | (with_reducible exact Walk.refl)
    | (with_reducible apply Walk.step (k := State.sysWrite_keeps))
    | (split)
    | (show covers _ _ = true; rfl)

theorem State.commitEntry_keeps {x1 s} : Keeps [.regs, .out, .cmd, .hbr, .ing, .arc, .bil, .win 0, .win 1] s (@State.commitEntry x1 s) := by
  unfold State.commitEntry
  show Walk true _ _ _
  try dsimp only
  repeat' first
    | (with_reducible exact Walk.refl)
    | (with_reducible apply Walk.step (k := State.arcNotice_keeps))
    | (with_reducible apply Walk.step (k := State.arcReady_keeps))
    | (with_reducible apply Walk.step (k := State.ensureExts_keeps))
    | (with_reducible apply Walk.step (k := State.extFreed_keeps))
    | (with_reducible apply Walk.step (k := State.holdCheck_keeps))
    | (with_reducible apply Walk.step (k := State.modDrive_keeps))
    | (with_reducible apply Walk.step (k := State.putSummary_keeps))
    | (with_reducible apply Walk.step (k := State.replyWith_keeps))
    | (with_reducible apply Walk.step (k := State.setArc_keeps))
    | (with_reducible apply Walk.step (k := State.sysEnsure_keeps))
    | (with_reducible apply Walk.ite)
    | (split)
    | (with_reducible refine Walk.update ?_ ?_ ?_ ?_ ?_ ?_ ?_ ?_ ?_ ?_ ?_ ?_ ?_ ?_ ?_ ?_ ?_ ?_ ?_ ?_ ?_ ?_ ?_ ?_ ?_ ?_ ?_ rfl rfl)
    | (exact .inl rfl)
    | (exact .inr rfl)
    | (show covers _ _ = true; rfl)

theorem State.pageCommit_keeps {s} : Keeps [.regs, .out, .cmd, .hbr, .ing, .arc, .bil, .win 0, .win 1, .win 10] s (@State.pageCommit s) := by
  unfold State.pageCommit
  show Walk true _ _ _
  try dsimp only
  repeat' first
    | (with_reducible exact Walk.refl)
    | (with_reducible apply Walk.step (k := State.setArc_keeps))
    | (with_reducible apply Walk.step (k := State.commitEntry_keeps))
    | (with_reducible apply Walk.step (k := State.nextPage_keeps))
    | (with_reducible apply Walk.step (k := State.bump_keeps))
    | (with_reducible apply Walk.foldl)
    | (intro _)
    | (show covers _ _ = true; rfl)
    | (split)

theorem State.redirect_keeps {x1 x2 s} : Keeps [.regs, .out, .hbr, .arc, .win 1, .win 10] s (@State.redirect x1 x2 s) := by
  unfold State.redirect
  show Walk true _ _ _
  try dsimp only
  repeat' first
    | (with_reducible exact Walk.refl)
    | (with_reducible apply Walk.step (k := State.bumpBy_keeps))
    | (with_reducible apply Walk.step (k := State.closeExt_keeps))
    | (with_reducible apply Walk.step (k := State.modExt_keeps))
    | (with_reducible apply Walk.step (k := State.setArc_keeps))
    | (with_reducible apply Walk.ite)
    | (split)
    | (with_reducible refine Walk.update ?_ ?_ ?_ ?_ ?_ ?_ ?_ ?_ ?_ ?_ ?_ ?_ ?_ ?_ ?_ ?_ ?_ ?_ ?_ ?_ ?_ ?_ ?_ ?_ ?_ ?_ ?_ rfl rfl)
    | (exact .inl rfl)
    | (exact .inr rfl)
    | (show covers _ _ = true; rfl)

theorem State.loseCopy_keeps {x1 x2 s} : Keeps [.out, .arc] s (@State.loseCopy x1 x2 s) := by
  unfold State.loseCopy
  show Walk true _ _ _
  try dsimp only
  repeat' first
    | (with_reducible exact Walk.refl)
    | (with_reducible apply Walk.step (k := State.logExt_keeps))
    | (with_reducible apply Walk.step (k := State.modMeta_keeps))
    | (with_reducible apply Walk.step (k := State.setArc_keeps))
    | (with_reducible apply Walk.ite)
    | (with_reducible apply Walk.foldl)
    | (with_reducible apply Walk.foldl1)
    | (with_reducible apply Walk.foldl2)
    | (intro _)
    | (with_reducible assumption)
    | (split)
    | (with_reducible refine Walk.update ?_ ?_ ?_ ?_ ?_ ?_ ?_ ?_ ?_ ?_ ?_ ?_ ?_ ?_ ?_ ?_ ?_ ?_ ?_ ?_ ?_ ?_ ?_ ?_ ?_ ?_ ?_ rfl rfl)
    | (exact .inl rfl)
    | (exact .inr rfl)
    | (show covers _ _ = true; rfl)

theorem State.setStage_keeps {x1 x2 s} : Keeps [.regs, .out, .cmd, .hbr, .arc, .bil, .win 1, .win 10] s (@State.setStage x1 x2 s) := by
  unfold State.setStage
  show Walk true _ _ _
  try dsimp only
  repeat' first
    | (with_reducible exact Walk.refl)
    | (with_reducible apply Walk.step (k := State.arcNotice_keeps))
    | (with_reducible apply Walk.step (k := State.holdCheck_keeps))
    | (with_reducible apply Walk.step (k := State.journal_keeps))
    | (with_reducible apply Walk.step (k := State.loseCopy_keeps))
    | (with_reducible apply Walk.step (k := State.modDrive_keeps))
    | (with_reducible apply Walk.step (k := State.redirect_keeps))
    | (with_reducible apply Walk.step (k := State.reply_keeps))
    | (with_reducible apply Walk.step (k := State.setArc_keeps))
    | (with_reducible apply Walk.ite)
    | (with_reducible apply Walk.foldl)
    | (with_reducible apply Walk.foldl1)
    | (with_reducible apply Walk.foldl2)
    | (intro _)
    | (with_reducible assumption)
    | (split)
    | (with_reducible refine Walk.update ?_ ?_ ?_ ?_ ?_ ?_ ?_ ?_ ?_ ?_ ?_ ?_ ?_ ?_ ?_ ?_ ?_ ?_ ?_ ?_ ?_ ?_ ?_ ?_ ?_ ?_ ?_ rfl rfl)
    | (exact .inl rfl)
    | (exact .inr rfl)
    | (show covers _ _ = true; rfl)

theorem State.spareCheck_keeps {s} : Keeps [.regs, .out, .cmd, .hbr, .arc, .bil, .win 1, .win 10] s (@State.spareCheck s) := by
  unfold State.spareCheck
  show Walk true _ _ _
  repeat' first
    | (with_reducible exact Walk.refl)
    | (with_reducible apply Walk.step (k := State.setStage_keeps))
    | (with_reducible apply Walk.foldl)
    | (intro _)
    | (show covers _ _ = true; rfl)
    | (split)

theorem State.jobEnd_keeps {x1 x2 s} : Keeps [.out, .cmd, .hbr, .arc, .bil] s (@State.jobEnd x1 x2 s) := by
  unfold State.jobEnd
  show Walk true _ _ _
  repeat' first
    | (with_reducible exact Walk.refl)
    | (with_reducible apply Walk.step (k := State.setArc_keeps))
    | (with_reducible apply Walk.step (k := State.replyWith_keeps))
    | (with_reducible apply Walk.step (k := State.writeData_keeps))
    | (with_reducible refine Walk.update ?_ ?_ ?_ ?_ ?_ ?_ ?_ ?_ ?_ ?_ ?_ ?_ ?_ ?_ ?_ ?_ ?_ ?_ ?_ ?_ ?_ ?_ ?_ ?_ ?_ ?_ ?_ rfl rfl)
    | (exact .inl rfl)
    | (exact .inr rfl)
    | (show covers _ _ = true; rfl)

theorem State.jobPut_keeps {x1 s} : Keeps [.arc] s (@State.jobPut x1 s) := by
  unfold State.jobPut
  show Walk true _ _ _
  repeat' first
    | (with_reducible exact Walk.refl)
    | (with_reducible apply Walk.step (k := State.setArc_keeps))
    | (show covers _ _ = true; rfl)

theorem State.putDescs_keeps {l j s} : Keeps [.regs, .win 10] s (State.putDescs l j s).2 := by
  induction l generalizing j s with
  | nil => exact Keeps.refl
  | cons e t ih =>
    unfold State.putDescs
    dsimp only
    by_cases h : jobRoom j < 128 + (if e.2.info.fill = 0 then 0 else 4096)
    · rw [if_pos h]
      exact Keeps.refl
    · rw [if_neg h]
      refine Keeps.trans ?_ ih
      split
      · exact Keeps.refl
      · exact State.bump_keeps_at rfl

theorem State.jobSettle_keeps {x1 s} : Keeps [.regs, .out, .cmd, .hbr, .arc, .bil, .win 10] s (@State.jobSettle x1 s) := by
  unfold State.jobSettle
  show Walk true _ _ _
  try dsimp only
  repeat' first
    | (with_reducible exact Walk.refl)
    | (with_reducible apply Walk.step (k := State.emit_keeps))
    | (with_reducible apply Walk.step (k := State.jobEnd_keeps))
    | (with_reducible apply Walk.step (k := State.jobPut_keeps))
    | (with_reducible apply Walk.step (k := State.putDescs_keeps))
    | (with_reducible apply Walk.ite)
    | (split)
    | (with_reducible refine Walk.update ?_ ?_ ?_ ?_ ?_ ?_ ?_ ?_ ?_ ?_ ?_ ?_ ?_ ?_ ?_ ?_ ?_ ?_ ?_ ?_ ?_ ?_ ?_ ?_ ?_ ?_ ?_ rfl rfl)
    | (exact .inl rfl)
    | (exact .inr rfl)
    | (show covers _ _ = true; rfl)

theorem State.jobsGo_keeps {x1 s} : Keeps [.regs, .out, .cmd, .hbr, .arc, .bil, .win 10] s (@State.jobsGo x1 s) := by
  induction x1 generalizing s with
  | zero => exact Keeps.refl
  | succ n ih =>
    unfold State.jobsGo
    split
    · exact Keeps.refl
    · exact Keeps.trans State.jobSettle_keeps ih

theorem State.arcPartDo_keeps {x1 s} : Keeps [.regs, .out, .cmd, .hbr, .arc, .bil, .win 10] s (@State.arcPartDo x1 s) := by
  unfold State.arcPartDo
  show Walk true _ _ _
  try dsimp only
  repeat' first
    | (with_reducible exact Walk.refl)
    | (with_reducible apply Walk.step (k := State.jobsGo_keeps))
    | (with_reducible apply Walk.step (k := State.setArc_keeps))
    | (with_reducible refine Walk.update ?_ ?_ ?_ ?_ ?_ ?_ ?_ ?_ ?_ ?_ ?_ ?_ ?_ ?_ ?_ ?_ ?_ ?_ ?_ ?_ ?_ ?_ ?_ ?_ ?_ ?_ ?_ rfl rfl)
    | (exact .inl rfl)
    | (exact .inr rfl)
    | (show covers _ _ = true; rfl)
    | (split)

theorem State.jobStart_keeps {x1 s} : Keeps [.regs, .out, .cmd, .hbr, .arc, .bil, .win 10] s (@State.jobStart x1 s) := by
  unfold State.jobStart
  show Walk true _ _ _
  try dsimp only
  repeat' first
    | (with_reducible exact Walk.refl)
    | (with_reducible apply Walk.step (k := State.jobsGo_keeps))
    | (with_reducible apply Walk.step (k := State.reply_keeps))
    | (with_reducible apply Walk.step (k := State.replyQueued_keeps))
    | (with_reducible apply Walk.step (k := State.setArc_keeps))
    | (with_reducible apply Walk.ite)
    | (with_reducible refine Walk.update ?_ ?_ ?_ ?_ ?_ ?_ ?_ ?_ ?_ ?_ ?_ ?_ ?_ ?_ ?_ ?_ ?_ ?_ ?_ ?_ ?_ ?_ ?_ ?_ ?_ ?_ ?_ rfl rfl)
    | (exact .inl rfl)
    | (exact .inr rfl)
    | (show covers _ _ = true; rfl)
    | (split)

theorem State.setLabel_keeps {x1 x2 s} : Keeps [.arc] s (@State.setLabel x1 x2 s) := by
  unfold State.setLabel
  show Walk true _ _ _
  try dsimp only
  repeat' first
    | (with_reducible exact Walk.refl)
    | (with_reducible apply Walk.step (k := State.setArc_keeps))
    | (with_reducible apply Walk.ite)
    | (with_reducible refine Walk.update ?_ ?_ ?_ ?_ ?_ ?_ ?_ ?_ ?_ ?_ ?_ ?_ ?_ ?_ ?_ ?_ ?_ ?_ ?_ ?_ ?_ ?_ ?_ ?_ ?_ ?_ ?_ rfl rfl)
    | (exact .inl rfl)
    | (exact .inr rfl)
    | (show covers _ _ = true; rfl)
    | (split)

theorem State.leaveSet_keeps {x1 s} : Keeps [.regs, .out, .cmd, .hbr, .arc, .bil, .win 1] s (@State.leaveSet x1 s) := by
  unfold State.leaveSet
  show Walk true _ _ _
  try dsimp only
  repeat' first
    | (with_reducible exact Walk.refl)
    | (with_reducible apply Walk.step (k := State.arcNotice_keeps))
    | (with_reducible apply Walk.step (k := State.emit_keeps))
    | (with_reducible apply Walk.step (k := State.journal_keeps))
    | (with_reducible apply Walk.step (k := State.reply_keeps))
    | (with_reducible apply Walk.step (k := State.setArc_keeps))
    | (with_reducible apply Walk.step (k := State.setLabel_keeps))
    | (with_reducible apply Walk.ite)
    | (with_reducible apply Walk.foldl)
    | (with_reducible apply Walk.foldl1)
    | (with_reducible apply Walk.foldl2)
    | (intro _)
    | (with_reducible assumption)
    | (split)
    | (with_reducible refine Walk.update ?_ ?_ ?_ ?_ ?_ ?_ ?_ ?_ ?_ ?_ ?_ ?_ ?_ ?_ ?_ ?_ ?_ ?_ ?_ ?_ ?_ ?_ ?_ ?_ ?_ ?_ ?_ rfl rfl)
    | (exact .inl rfl)
    | (exact .inr rfl)
    | (show covers _ _ = true; rfl)

theorem State.reportHorizon_keeps {s} : Keeps [.out, .arc] s (@State.reportHorizon s) := by
  unfold State.reportHorizon
  show Walk true _ _ _
  try dsimp only
  repeat' first
    | (with_reducible exact Walk.refl)
    | (with_reducible apply Walk.step (k := State.journal_keeps))
    | (with_reducible apply Walk.step (k := State.setArc_keeps))
    | (show covers _ _ = true; rfl)
    | (split)

theorem State.clearGroup_keeps {x1 s} : Keeps [.out, .arc] s (@State.clearGroup x1 s) := by
  unfold State.clearGroup
  show Walk true _ _ _
  try dsimp only
  repeat' first
    | (with_reducible exact Walk.refl)
    | (with_reducible apply Walk.step (k := State.logExt_keeps))
    | (with_reducible apply Walk.step (k := State.modMeta_keeps))
    | (with_reducible apply Walk.foldl)
    | (intro _)
    | (show covers _ _ = true; rfl)
    | (split)

theorem State.toReadOnly_keeps {x1 s} : Keeps [.regs, .out, .cmd, .hbr, .arc, .bil, .win 1, .win 10] s (@State.toReadOnly x1 s) := by
  unfold State.toReadOnly
  show Walk true _ _ _
  try dsimp only
  repeat' first
    | (with_reducible exact Walk.refl)
    | (with_reducible apply Walk.step (k := State.setStage_keeps))
    | (show covers _ _ = true; rfl)
    | (split)

theorem State.repairBlock_keeps {x1 x2 x3 s} : Keeps [.regs, .out, .win 10] s (@State.repairBlock x1 x2 x3 s) := by
  unfold State.repairBlock
  show Walk true _ _ _
  try dsimp only
  repeat' first
    | (with_reducible exact Walk.refl)
    | (with_reducible apply Walk.step (k := State.bump_keeps))
    | (with_reducible apply Walk.step (k := State.emit_keeps))
    | (with_reducible apply Walk.ite)
    | (split)
    | (show covers _ _ = true; rfl)

theorem State.badBlock_keeps {x1 x2 x3 x4 s} : Keeps [.regs, .out, .hbr, .arc, .win 1, .win 10] s (@State.badBlock x1 x2 x3 x4 s) := by
  unfold State.badBlock
  show Walk true _ _ _
  try dsimp only
  repeat' first
    | (with_reducible exact Walk.refl)
    | (with_reducible apply Walk.step (k := State.arcNotice_keeps))
    | (with_reducible apply Walk.step (k := State.bump_keeps))
    | (with_reducible apply Walk.step (k := State.modExt_keeps))
    | (with_reducible apply Walk.ite)
    | (with_reducible refine Walk.update ?_ ?_ ?_ ?_ ?_ ?_ ?_ ?_ ?_ ?_ ?_ ?_ ?_ ?_ ?_ ?_ ?_ ?_ ?_ ?_ ?_ ?_ ?_ ?_ ?_ ?_ ?_ rfl rfl)
    | (exact .inl rfl)
    | (exact .inr rfl)
    | (show covers _ _ = true; rfl)
    | (split)

theorem State.jobRead_keeps {x1 x2 x3 s} : Keeps [.regs, .out, .cmd, .hbr, .arc, .bil, .win 1, .win 10] s (@State.jobRead x1 x2 x3 s) := by
  unfold State.jobRead
  show Walk true _ _ _
  try dsimp only
  repeat' first
    | (with_reducible exact Walk.refl)
    | (with_reducible apply Walk.step (k := State.badBlock_keeps))
    | (with_reducible apply Walk.step (k := State.bump_keeps))
    | (with_reducible apply Walk.step (k := State.jobEnd_keeps))
    | (with_reducible apply Walk.step (k := State.jobSettle_keeps))
    | (with_reducible apply Walk.step (k := State.modExt_keeps))
    | (with_reducible apply Walk.step (k := State.repairBlock_keeps))
    | (with_reducible apply Walk.ite)
    | (split)
    | (with_reducible refine Walk.update ?_ ?_ ?_ ?_ ?_ ?_ ?_ ?_ ?_ ?_ ?_ ?_ ?_ ?_ ?_ ?_ ?_ ?_ ?_ ?_ ?_ ?_ ?_ ?_ ?_ ?_ ?_ rfl rfl)
    | (exact .inl rfl)
    | (exact .inr rfl)
    | (show covers _ _ = true; rfl)

theorem State.journalTake_keeps {x1 x2 s} : Keeps [.arc] s (@State.journalTake x1 x2 s) := by
  unfold State.journalTake
  show Walk true _ _ _
  try dsimp only
  repeat' first
    | (with_reducible exact Walk.refl)
    | (with_reducible apply Walk.step (k := State.modDrive_keeps))
    | (with_reducible apply Walk.step (k := State.setArc_keeps))
    | (with_reducible refine Walk.update ?_ ?_ ?_ ?_ ?_ ?_ ?_ ?_ ?_ ?_ ?_ ?_ ?_ ?_ ?_ ?_ ?_ ?_ ?_ ?_ ?_ ?_ ?_ ?_ ?_ ?_ ?_ rfl rfl)
    | (exact .inl rfl)
    | (exact .inr rfl)
    | (show covers _ _ = true; rfl)
    | (split)

theorem State.writeLabel_keeps {x1 s} : Keeps [.out, .arc] s (@State.writeLabel x1 s) := by
  unfold State.writeLabel
  show Walk true _ _ _
  try dsimp only
  repeat' first
    | (with_reducible exact Walk.refl)
    | (with_reducible apply Walk.step (k := State.emit_keeps))
    | (with_reducible apply Walk.step (k := State.setLabel_keeps))
    | (split)
    | (with_reducible refine Walk.update ?_ ?_ ?_ ?_ ?_ ?_ ?_ ?_ ?_ ?_ ?_ ?_ ?_ ?_ ?_ ?_ ?_ ?_ ?_ ?_ ?_ ?_ ?_ ?_ ?_ ?_ ?_ rfl rfl)
    | (exact .inl rfl)
    | (exact .inr rfl)
    | (with_reducible apply Walk.ite)
    | (show covers _ _ = true; rfl)

theorem State.moveJournal_keeps {s} : Keeps [.regs, .out, .cmd, .hbr, .arc, .bil, .win 1] s (@State.moveJournal s) := by
  unfold State.moveJournal
  show Walk true _ _ _
  try dsimp only
  repeat' first
    | (with_reducible exact Walk.refl)
    | (with_reducible apply Walk.step (k := State.arcNotice_keeps))
    | (with_reducible apply Walk.step (k := State.emit_keeps))
    | (with_reducible apply Walk.step (k := State.journalTake_keeps))
    | (with_reducible apply Walk.step (k := State.leaveSet_keeps))
    | (with_reducible apply Walk.step (k := State.nextPage_keeps))
    | (with_reducible apply Walk.step (k := State.setArc_keeps))
    | (with_reducible apply Walk.step (k := State.writeLabel_keeps))
    | (with_reducible apply Walk.ite)
    | (with_reducible apply Walk.foldl)
    | (with_reducible apply Walk.foldl1)
    | (with_reducible apply Walk.foldl2)
    | (intro _)
    | (with_reducible assumption)
    | (split)
    | (with_reducible refine Walk.update ?_ ?_ ?_ ?_ ?_ ?_ ?_ ?_ ?_ ?_ ?_ ?_ ?_ ?_ ?_ ?_ ?_ ?_ ?_ ?_ ?_ ?_ ?_ ?_ ?_ ?_ ?_ rfl rfl)
    | (exact .inl rfl)
    | (exact .inr rfl)
    | (show covers _ _ = true; rfl)

theorem State.copyMade_keeps {x1 s} : Keeps [.regs, .out, .cmd, .hbr, .arc, .bil, .win 1, .win 10] s (@State.copyMade x1 s) := by
  unfold State.copyMade
  show Walk true _ _ _
  try dsimp only
  repeat' first
    | (with_reducible exact Walk.refl)
    | (with_reducible apply Walk.step (k := State.arcNotice_keeps))
    | (with_reducible apply Walk.step (k := State.bump_keeps))
    | (with_reducible apply Walk.step (k := State.clearGroup_keeps))
    | (with_reducible apply Walk.step (k := State.emit_keeps))
    | (with_reducible apply Walk.step (k := State.freePhys_keeps))
    | (with_reducible apply Walk.step (k := State.leaveSet_keeps))
    | (with_reducible apply Walk.step (k := State.logExt_keeps))
    | (with_reducible apply Walk.step (k := State.modMeta_keeps))
    | (with_reducible apply Walk.step (k := State.parityDone_keeps))
    | (with_reducible apply Walk.step (k := State.setArc_keeps))
    | (with_reducible apply Walk.step (k := State.spareCheck_keeps))
    | (with_reducible refine Walk.step ?_ (State.takePhys_keeps_of (by assumption)) ?_)
    | (with_reducible apply Walk.step (k := State.takePhys_keeps))
    | (with_reducible apply Walk.ite)
    | (split)
    | (with_reducible refine Walk.update ?_ ?_ ?_ ?_ ?_ ?_ ?_ ?_ ?_ ?_ ?_ ?_ ?_ ?_ ?_ ?_ ?_ ?_ ?_ ?_ ?_ ?_ ?_ ?_ ?_ ?_ ?_ rfl rfl)
    | (exact .inl rfl)
    | (exact .inr rfl)
    | (show covers _ _ = true; rfl)

theorem State.holdEnd_keeps {s} : Keeps [.regs, .out, .hbr, .arc, .win 1] s (@State.holdEnd s) := by
  unfold State.holdEnd
  show Walk true _ _ _
  try dsimp only
  repeat' first
    | (with_reducible exact Walk.refl)
    | (with_reducible apply Walk.step (k := State.arcNotice_keeps))
    | (with_reducible apply Walk.step (k := State.setArc_keeps))
    | (with_reducible apply Walk.ite)
    | (with_reducible refine Walk.update ?_ ?_ ?_ ?_ ?_ ?_ ?_ ?_ ?_ ?_ ?_ ?_ ?_ ?_ ?_ ?_ ?_ ?_ ?_ ?_ ?_ ?_ ?_ ?_ ?_ ?_ ?_ rfl rfl)
    | (exact .inl rfl)
    | (exact .inr rfl)
    | (show covers _ _ = true; rfl)
    | (split)

theorem State.deallocDone_keeps {x1 x2 s} : Keeps [.regs, .out, .cmd, .hbr, .arc, .bil, .win 1, .win 10] s (@State.deallocDone x1 x2 s) := by
  unfold State.deallocDone
  show Walk true _ _ _
  try dsimp only
  repeat' first
    | (with_reducible exact Walk.refl)
    | (with_reducible apply Walk.step (k := State.bump_keeps))
    | (with_reducible apply Walk.step (k := State.journal_keeps))
    | (with_reducible apply Walk.step (k := State.leaveSet_keeps))
    | (with_reducible apply Walk.step (k := State.modDrive_keeps))
    | (with_reducible apply Walk.step (k := State.setArc_keeps))
    | (with_reducible apply Walk.ite)
    | (split)
    | (with_reducible refine Walk.update ?_ ?_ ?_ ?_ ?_ ?_ ?_ ?_ ?_ ?_ ?_ ?_ ?_ ?_ ?_ ?_ ?_ ?_ ?_ ?_ ?_ ?_ ?_ ?_ ?_ ?_ ?_ rfl rfl)
    | (exact .inl rfl)
    | (exact .inr rfl)
    | (show covers _ _ = true; rfl)

theorem State.markPage_keeps {x1 x2 x3 s} : Keeps [.out, .arc] s (@State.markPage x1 x2 x3 s) := by
  unfold State.markPage
  show Walk true _ _ _
  try dsimp only
  repeat' first
    | (with_reducible exact Walk.refl)
    | (with_reducible apply Walk.step (k := State.putPage_keeps))
    | (with_reducible apply Walk.step (k := State.setArc_keeps))
    | (with_reducible apply Walk.ite)
    | (with_reducible apply Walk.foldl)
    | (with_reducible apply Walk.foldl1)
    | (with_reducible apply Walk.foldl2)
    | (intro _)
    | (with_reducible assumption)
    | (with_reducible refine Walk.update ?_ ?_ ?_ ?_ ?_ ?_ ?_ ?_ ?_ ?_ ?_ ?_ ?_ ?_ ?_ ?_ ?_ ?_ ?_ ?_ ?_ ?_ ?_ ?_ ?_ ?_ ?_ rfl rfl)
    | (exact .inl rfl)
    | (exact .inr rfl)
    | (show covers _ _ = true; rfl)
    | (split)

theorem State.bringUp_keeps {x1 s} : Keeps [.out] s (@State.bringUp x1 s) := by
  unfold State.bringUp
  show Walk true _ _ _
  try dsimp only
  repeat' first
    | (with_reducible exact Walk.refl)
    | (with_reducible apply Walk.step (k := State.emit_keeps))
    | (with_reducible apply Walk.foldl)
    | (with_reducible apply Walk.foldl1)
    | (with_reducible apply Walk.foldl2)
    | (intro _)
    | (with_reducible assumption)
    | (split)
    | (show covers _ _ = true; rfl)

theorem State.identifyAll_keeps {x1 s} : Keeps [.out] s (@State.identifyAll x1 s) := by
  unfold State.identifyAll
  show Walk true _ _ _
  try dsimp only
  repeat' first
    | (with_reducible exact Walk.refl)
    | (with_reducible apply Walk.step (k := State.emit_keeps))
    | (with_reducible apply Walk.foldl)
    | (with_reducible apply Walk.foldl1)
    | (with_reducible apply Walk.foldl2)
    | (intro _)
    | (with_reducible assumption)
    | (show covers _ _ = true; rfl)
    | (split)

theorem State.delExt_keeps {x1 s} : Keeps [.regs, .out, .hbr, .arc, .win 1, .win 10, .win 20] s (@State.delExt x1 s) := by
  unfold State.delExt
  show Walk true _ _ _
  try dsimp only
  repeat' first
    | (with_reducible exact Walk.refl)
    | (with_reducible apply Walk.step (k := State.advance_keeps))
    | (with_reducible apply Walk.step (k := State.modExt_keeps))
    | (with_reducible apply Walk.step (k := State.releaseExt_keeps))
    | (with_reducible apply Walk.ite)
    | (split)
    | (with_reducible refine Walk.update ?_ ?_ ?_ ?_ ?_ ?_ ?_ ?_ ?_ ?_ ?_ ?_ ?_ ?_ ?_ ?_ ?_ ?_ ?_ ?_ ?_ ?_ ?_ ?_ ?_ ?_ ?_ rfl rfl)
    | (exact .inl rfl)
    | (exact .inr rfl)
    | (show covers _ _ = true; rfl)

theorem State.journalGo_keeps {s} : Keeps [.regs, .out, .cmd, .hbr, .arc, .bil, .win 1, .win 10, .win 20] s (@State.journalGo s) := by
  unfold State.journalGo
  show Walk true _ _ _
  try dsimp only
  repeat' first
    | (with_reducible exact Walk.refl)
    | (with_reducible apply Walk.step (k := State.advance_keeps))
    | (with_reducible apply Walk.step (k := State.delCheck_keeps))
    | (with_reducible apply Walk.step (k := State.delExt_keeps))
    | (with_reducible apply Walk.step (k := State.freeParity_keeps))
    | (with_reducible apply Walk.ite)
    | (with_reducible apply Walk.foldl)
    | (with_reducible apply Walk.foldl1)
    | (with_reducible apply Walk.foldl2)
    | (intro _)
    | (with_reducible assumption)
    | (show covers _ _ = true; rfl)
    | (split)

end Sys2Proof.Machine
end

