-- ==== Sys2Proof/Laws/KeepsArc.lean ====
section
/-! SUPPORT. What each operation of Arc can change, and that it keeps the canonical forms. -/
set_option Elab.async false
namespace Sys2Proof.Machine

theorem State.spillEnsure_keeps {s} : Keeps [.out, .arc] s (@State.spillEnsure s) := by
  unfold State.spillEnsure
  show Walk true _ _ _
  try dsimp only
  repeat' first
    | (with_reducible exact Walk.refl)
    | (with_reducible apply Walk.step (k := State.takeExt_keeps))
    | (with_reducible apply Walk.ite)
    | (split)
    | (show covers _ _ = true; rfl)

theorem State.spillBlock_keeps {x1 s} : Keeps [.regs, .out, .arc, .win 10] s (@State.spillBlock x1 s) := by
  unfold State.spillBlock
  show Walk true _ _ _
  try dsimp only
  repeat' first
    | (with_reducible exact Walk.refl)
    | (with_reducible apply Walk.step (k := State.bumpBy_keeps))
    | (with_reducible apply Walk.step (k := State.emit_keeps))
    | (with_reducible apply Walk.step (k := State.modExt_keeps))
    | (with_reducible apply Walk.step (k := State.setArc_keeps))
    | (with_reducible apply Walk.step (k := State.spillEnsure_keeps))
    | (with_reducible apply Walk.foldl)
    | (with_reducible apply Walk.foldl1)
    | (with_reducible apply Walk.foldl2)
    | (intro _)
    | (with_reducible assumption)
    | (split)
    | (with_reducible refine Walk.update ?_ ?_ ?_ ?_ ?_ ?_ ?_ ?_ ?_ ?_ ?_ ?_ ?_ ?_ ?_ ?_ ?_ ?_ ?_ ?_ ?_ ?_ ?_ ?_ ?_ ?_ ?_ rfl rfl)
    | (exact .inl rfl)
    | (exact .inr rfl)
    | (show covers _ _ = true; rfl)

theorem State.arcDusk_keeps {s} : Keeps [.regs, .out, .hbr, .cod, .arc, .win 1, .win 9, .win 10] s (@State.arcDusk s) := by
  unfold State.arcDusk
  show Walk true _ _ _
  try dsimp only
  repeat' first
    | (with_reducible exact Walk.refl)
    | (with_reducible apply Walk.step (k := State.setArc_keeps))
    | (with_reducible apply Walk.step (k := State.spillBlock_keeps))
    | (with_reducible apply Walk.step (k := State.takeFirst_keeps))
    | (with_reducible apply Walk.foldl)
    | (with_reducible apply Walk.foldl1)
    | (with_reducible apply Walk.foldl2)
    | (intro _)
    | (with_reducible assumption)
    | (with_reducible refine Walk.update ?_ ?_ ?_ ?_ ?_ ?_ ?_ ?_ ?_ ?_ ?_ ?_ ?_ ?_ ?_ ?_ ?_ ?_ ?_ ?_ ?_ ?_ ?_ ?_ ?_ ?_ ?_ rfl rfl)
    | (exact .inl rfl)
    | (exact .inr rfl)
    | (show covers _ _ = true; rfl)
    | (split)

theorem State.arcDuskEnd_keeps {x1 s} : Keeps [.out, .arc] s (@State.arcDuskEnd x1 s) := by
  unfold State.arcDuskEnd
  show Walk true _ _ _
  try dsimp only
  repeat' first
    | (with_reducible exact Walk.refl)
    | (with_reducible apply Walk.step (k := State.markPage_keeps))
    | (with_reducible apply Walk.step (k := State.setArc_keeps))
    | (with_reducible apply Walk.step (k := State.sysWrite_keeps))
    | (with_reducible apply Walk.ite)
    | (with_reducible refine Walk.update ?_ ?_ ?_ ?_ ?_ ?_ ?_ ?_ ?_ ?_ ?_ ?_ ?_ ?_ ?_ ?_ ?_ ?_ ?_ ?_ ?_ ?_ ?_ ?_ ?_ ?_ ?_ rfl rfl)
    | (exact .inl rfl)
    | (exact .inr rfl)
    | (show covers _ _ = true; rfl)
    | (split)

theorem execArcNsReleaseSealed_keeps {x1 x2 s t} (h : @execArcNsReleaseSealed x1 x2 s = .next t) : Keeps [.regs, .out, .cmd, .hbr, .arc, .bil, .win 1, .win 10, .win 20] s t := by
  unfold execArcNsReleaseSealed at h
  have e := Host.Outcome.next.inj h
  subst e
  clear h
  show Walk true _ _ _
  try dsimp only
  repeat' first
    | (with_reducible exact Walk.refl)
    | (with_reducible apply Walk.step (k := State.delCheck_keeps))
    | (with_reducible apply Walk.step (k := State.delExt_keeps))
    | (with_reducible apply Walk.step (k := State.reply_keeps))
    | (with_reducible apply Walk.step (k := State.replyQueued_keeps))
    | (with_reducible apply Walk.step (k := State.setArc_keeps))
    | (with_reducible apply Walk.ite)
    | (with_reducible apply Walk.foldl)
    | (with_reducible apply Walk.foldl1)
    | (with_reducible apply Walk.foldl2)
    | (intro _)
    | (with_reducible assumption)
    | (split)
    | (with_reducible refine Walk.update ?_ ?_ ?_ ?_ ?_ ?_ ?_ ?_ ?_ ?_ ?_ ?_ ?_ ?_ ?_ ?_ ?_ ?_ ?_ ?_ ?_ ?_ ?_ ?_ ?_ ?_ ?_ rfl rfl)
    | (exact .inl rfl)
    | (exact .inr rfl)
    | (show covers _ _ = true; rfl)

theorem execDriveCommandTimeout_keeps {x1 s t} (h : @execDriveCommandTimeout x1 s = .next t) : Keeps [.regs, .out, .cmd, .hbr, .arc, .bil, .win 1, .win 10] s t := by
  unfold execDriveCommandTimeout at h
  have e := Host.Outcome.next.inj h
  subst e
  clear h
  show Walk true _ _ _
  repeat' first
    | (with_reducible exact Walk.refl)
    | (with_reducible apply Walk.step (k := State.setStage_keeps))
    | (with_reducible apply Walk.step (k := State.modDrive_keeps))
    | (split)
    | (with_reducible refine Walk.update ?_ ?_ ?_ ?_ ?_ ?_ ?_ ?_ ?_ ?_ ?_ ?_ ?_ ?_ ?_ ?_ ?_ ?_ ?_ ?_ ?_ ?_ ?_ ?_ ?_ ?_ ?_ rfl rfl)
    | (exact .inl rfl)
    | (exact .inr rfl)
    | (show covers _ _ = true; rfl)

theorem execArcBlockTake_keeps {s t} (h : @execArcBlockTake s = .next t) : Keeps [.regs, .out, .cmd, .hbr, .cod, .arc, .bil, .win 1, .win 9, .win 10] s t := by
  unfold execArcBlockTake at h
  have e := Host.Outcome.next.inj h
  subst e
  clear h
  show Walk true _ _ _
  try dsimp only
  repeat' first
    | (with_reducible exact Walk.refl)
    | (with_reducible apply Walk.step (k := State.spareCheck_keeps))
    | (with_reducible apply Walk.step (k := State.takeFirst_keeps))
    | (show covers _ _ = true; rfl)
    | (split)

theorem execArcNsChange_keeps {x1 x2 s t} (h : @execArcNsChange x1 x2 s = .next t) : Keeps [.out, .cmd, .arc, .bil] s t := by
  unfold execArcNsChange at h
  have e := Host.Outcome.next.inj h
  subst e
  clear h
  show Walk true _ _ _
  repeat' first
    | (with_reducible exact Walk.refl)
    | (with_reducible apply Walk.step (k := State.reply_keeps))
    | (with_reducible apply Walk.step (k := State.journal_keeps))
    | (show covers _ _ = true; rfl)
    | (split)

theorem State.wipe_keeps {x1 s} : Keeps [.out] s (@State.wipe x1 s) := by
  unfold State.wipe
  show Walk true _ _ _
  try dsimp only
  repeat' first
    | (with_reducible exact Walk.refl)
    | (with_reducible apply Walk.step (k := State.emit_keeps))
    | (show covers _ _ = true; rfl)
    | (split)

theorem execArcDriveJoin_keeps {x1 x2 x3 s t} (h : @execArcDriveJoin x1 x2 x3 s = .next t) : Keeps [.out, .cmd, .arc, .bil] s t := by
  unfold execArcDriveJoin at h
  have e := Host.Outcome.next.inj h
  subst e
  clear h
  show Walk true _ _ _
  try dsimp only
  repeat' first
    | (with_reducible exact Walk.refl)
    | (with_reducible apply Walk.step (k := State.bringUp_keeps))
    | (with_reducible apply Walk.step (k := State.journal_keeps))
    | (with_reducible apply Walk.step (k := State.reply_keeps))
    | (with_reducible apply Walk.step (k := State.replyQueued_keeps))
    | (with_reducible apply Walk.step (k := State.setArc_keeps))
    | (with_reducible apply Walk.step (k := State.wipe_keeps))
    | (with_reducible apply Walk.step (k := State.writeLabel_keeps))
    | (with_reducible apply Walk.ite)
    | (split)
    | (with_reducible refine Walk.update ?_ ?_ ?_ ?_ ?_ ?_ ?_ ?_ ?_ ?_ ?_ ?_ ?_ ?_ ?_ ?_ ?_ ?_ ?_ ?_ ?_ ?_ ?_ ?_ ?_ ?_ ?_ rfl rfl)
    | (exact .inl rfl)
    | (exact .inr rfl)
    | (show covers _ _ = true; rfl)

theorem execArcQuery_keeps {x1 x2 s t} (h : @execArcQuery x1 x2 s = .next t) : Keeps [.regs, .out, .cmd, .hbr, .arc, .bil, .win 10] s t := by
  unfold execArcQuery at h
  have e := Host.Outcome.next.inj h
  subst e
  clear h
  show Walk true _ _ _
  repeat' first
    | (with_reducible exact Walk.refl)
    | (with_reducible apply Walk.step (k := State.reply_keeps))
    | (with_reducible apply Walk.step (k := State.jobStart_keeps))
    | (show covers _ _ = true; rfl)
    | (split)

theorem State.mendCopies_keeps {x1 s} : Keeps [.regs, .out, .win 10] s (@State.mendCopies x1 s) := by
  unfold State.mendCopies
  show Walk true _ _ _
  try dsimp only
  repeat' first
    | (with_reducible exact Walk.refl)
    | (with_reducible apply Walk.step (k := State.bump_keeps))
    | (with_reducible apply Walk.step (k := State.emit_keeps))
    | (with_reducible apply Walk.foldl)
    | (with_reducible apply Walk.foldl1)
    | (with_reducible apply Walk.foldl2)
    | (intro _)
    | (with_reducible assumption)
    | (split)
    | (show covers _ _ = true; rfl)

theorem State.recoverMap_keeps {x1 s} : Keeps [.regs, .out, .cmd, .hbr, .arc, .bil, .win 1, .win 10] s (@State.recoverMap x1 s) := by
  unfold State.recoverMap
  show Walk true _ _ _
  try dsimp only
  repeat' first
    | (with_reducible exact Walk.refl)
    | (with_reducible apply Walk.step (k := State.bringUp_keeps))
    | (with_reducible apply Walk.step (k := State.freePhys_keeps))
    | (with_reducible apply Walk.step (k := State.mendCopies_keeps))
    | (with_reducible apply Walk.step (k := State.releaseExt_keeps))
    | (with_reducible apply Walk.step (k := State.setArc_keeps))
    | (with_reducible apply Walk.step (k := State.setStage_keeps))
    | (with_reducible apply Walk.foldl)
    | (with_reducible apply Walk.foldl1)
    | (with_reducible apply Walk.foldl2)
    | (intro _)
    | (with_reducible assumption)
    | (split)
    | (with_reducible refine Walk.update ?_ ?_ ?_ ?_ ?_ ?_ ?_ ?_ ?_ ?_ ?_ ?_ ?_ ?_ ?_ ?_ ?_ ?_ ?_ ?_ ?_ ?_ ?_ ?_ ?_ ?_ ?_ rfl rfl)
    | (exact .inl rfl)
    | (exact .inr rfl)
    | (show covers _ _ = true; rfl)

theorem State.arcRecover_keeps {x1 s} : Keeps [.regs, .out, .cmd, .hbr, .cod, .arc, .bil, .win 0, .win 1, .win 10] s (@State.arcRecover x1 s) := by
  unfold State.arcRecover
  show Walk true _ _ _
  try dsimp only
  repeat' first
    | (with_reducible exact Walk.refl)
    | (with_reducible apply Walk.step (k := State.holdCause_keeps))
    | (with_reducible apply Walk.step (k := State.identifyAll_keeps))
    | (with_reducible apply Walk.step (k := State.journal_keeps))
    | (with_reducible apply Walk.step (k := State.recoverMap_keeps))
    | (with_reducible apply Walk.step (k := State.setArc_keeps))
    | (with_reducible apply Walk.step (k := State.setCod_keeps))
    | (with_reducible apply Walk.ite)
    | (with_reducible refine Walk.update ?_ ?_ ?_ ?_ ?_ ?_ ?_ ?_ ?_ ?_ ?_ ?_ ?_ ?_ ?_ ?_ ?_ ?_ ?_ ?_ ?_ ?_ ?_ ?_ ?_ ?_ ?_ rfl rfl)
    | (exact .inl rfl)
    | (exact .inr rfl)
    | (show covers _ _ = true; rfl)
    | (with_reducible apply Walk.foldl)
    | (with_reducible apply Walk.foldl1)
    | (with_reducible apply Walk.foldl2)
    | (intro _)
    | (with_reducible assumption)
    | (split)

theorem execJournalPageCommit_keeps {s t} (h : @execJournalPageCommit s = .next t) : Keeps [.regs, .out, .cmd, .hbr, .ing, .arc, .bil, .win 0, .win 1, .win 10] s t := by
  unfold execJournalPageCommit at h
  have e := Host.Outcome.next.inj h
  subst e
  clear h
  show Walk true _ _ _
  repeat' first
    | (with_reducible exact Walk.refl)
    | (with_reducible apply Walk.step (k := State.pageCommit_keeps))
    | (show covers _ _ = true; rfl)

theorem execArcExport_keeps {x1 x2 s t} (h : @execArcExport x1 x2 s = .next t) : Keeps [.regs, .out, .cmd, .hbr, .arc, .bil, .win 10] s t := by
  unfold execArcExport at h
  have e := Host.Outcome.next.inj h
  subst e
  clear h
  show Walk true _ _ _
  repeat' first
    | (with_reducible exact Walk.refl)
    | (with_reducible apply Walk.step (k := State.reply_keeps))
    | (with_reducible apply Walk.step (k := State.jobStart_keeps))
    | (show covers _ _ = true; rfl)
    | (split)

theorem execScrubRead_keeps {x1 x2 x3 x4 x5 s t} (h : @execScrubRead x1 x2 x3 x4 x5 s = .next t) : Keeps [.regs, .out, .hbr, .arc, .win 1, .win 10] s t := by
  unfold execScrubRead at h
  have e := Host.Outcome.next.inj h
  subst e
  clear h
  show Walk true _ _ _
  try dsimp only
  repeat' first
    | (with_reducible exact Walk.refl)
    | (with_reducible apply Walk.step (k := State.badBlock_keeps))
    | (with_reducible apply Walk.step (k := State.bump_keeps))
    | (with_reducible apply Walk.step (k := State.modExt_keeps))
    | (with_reducible apply Walk.step (k := State.repairBlock_keeps))
    | (with_reducible apply Walk.ite)
    | (split)
    | (with_reducible refine Walk.update ?_ ?_ ?_ ?_ ?_ ?_ ?_ ?_ ?_ ?_ ?_ ?_ ?_ ?_ ?_ ?_ ?_ ?_ ?_ ?_ ?_ ?_ ?_ ?_ ?_ ?_ ?_ rfl rfl)
    | (exact .inl rfl)
    | (exact .inr rfl)
    | (show covers _ _ = true; rfl)

theorem execDriveLoss_keeps {x1 s t} (h : @execDriveLoss x1 s = .next t) : Keeps [.regs, .out, .cmd, .hbr, .arc, .bil, .win 1, .win 10] s t := by
  unfold execDriveLoss at h
  have e := Host.Outcome.next.inj h
  subst e
  clear h
  show Walk true _ _ _
  repeat' first
    | (with_reducible exact Walk.refl)
    | (with_reducible apply Walk.step (k := State.setStage_keeps))
    | (show covers _ _ = true; rfl)

theorem execArcDriveFail_keeps {x1 x2 s t} (h : @execArcDriveFail x1 x2 s = .next t) : Keeps [.regs, .out, .cmd, .hbr, .arc, .bil, .win 1, .win 10] s t := by
  unfold execArcDriveFail at h
  have e := Host.Outcome.next.inj h
  subst e
  clear h
  show Walk true _ _ _
  repeat' first
    | (with_reducible exact Walk.refl)
    | (with_reducible apply Walk.step (k := State.reply_keeps))
    | (with_reducible apply Walk.step (k := State.setStage_keeps))
    | (with_reducible apply Walk.step (k := State.replyQueued_keeps))
    | (show covers _ _ = true; rfl)
    | (split)

theorem State.drainHold_keeps {x1 s} : Keeps [.regs, .out, .hbr, .arc, .win 1, .win 10] s (@State.drainHold x1 s) := by
  induction x1 generalizing s with
  | nil => exact Keeps.refl
  | cons e t ih =>
    unfold State.drainHold
    show Walk true _ _ _
    repeat' first
      | (with_reducible refine Walk.step ?_ (State.takeBlock_keeps_written (by assumption)) ?_)
      | (with_reducible refine Walk.step ?_ (State.takeBlock_keeps_held (by assumption)) ?_)
      | (with_reducible refine Walk.step ?_ (State.takeBlock_keeps_passed (by assumption)) ?_)
      | (with_reducible apply Walk.step (k := ih))
      | (with_reducible exact Walk.refl)
      | (with_reducible assumption)
      | (with_reducible refine Walk.step ?_ (State.takeBlock_keeps_written (by assumption)) ?_)
      | (with_reducible refine Walk.step ?_ (State.takeBlock_keeps_held (by assumption)) ?_)
      | (with_reducible refine Walk.step ?_ (State.takeBlock_keeps_passed (by assumption)) ?_)
      | (with_reducible apply Walk.step (k := State.setArc_keeps))
      | (with_reducible refine Walk.step ?_ (State.takeBlock_keeps_written (by assumption)) ?_)
      | (with_reducible refine Walk.step ?_ (State.takeBlock_keeps_held (by assumption)) ?_)
      | (with_reducible refine Walk.step ?_ (State.takeBlock_keeps_passed (by assumption)) ?_)
      | (with_reducible apply Walk.step (k := ih))
      | (with_reducible apply Walk.foldl)
      | (with_reducible apply Walk.foldl1)
      | (with_reducible apply Walk.foldl2)
      | (with_reducible apply Walk.ite)
      | (intro _)
      | (exact .inl rfl)
      | (exact .inr rfl)
      | (show covers _ _ = true; rfl)
      | (exact (fun _ => rfl))
      | (split)

theorem State.pollDrive_keeps {x1 x2 s} : Keeps [.regs, .out, .cmd, .hbr, .arc, .bil, .win 1, .win 10] s (@State.pollDrive x1 x2 s) := by
  unfold State.pollDrive
  show Walk true _ _ _
  try dsimp only
  repeat' first
    | (with_reducible exact Walk.refl)
    | (with_reducible apply Walk.step (k := State.emit_keeps))
    | (with_reducible apply Walk.step (k := State.modDrive_keeps))
    | (with_reducible apply Walk.step (k := State.setStage_keeps))
    | (with_reducible apply Walk.step (k := State.toReadOnly_keeps))
    | (with_reducible apply Walk.ite)
    | (split)
    | (with_reducible refine Walk.update ?_ ?_ ?_ ?_ ?_ ?_ ?_ ?_ ?_ ?_ ?_ ?_ ?_ ?_ ?_ ?_ ?_ ?_ ?_ ?_ ?_ ?_ ?_ ?_ ?_ ?_ ?_ rfl rfl)
    | (exact .inl rfl)
    | (exact .inr rfl)
    | (show covers _ _ = true; rfl)

theorem execArcStatus_keeps {x1 x2 x3 s t} (h : @execArcStatus x1 x2 x3 s = .next t) : Keeps [.out, .cmd, .hbr, .bil] s t := by
  unfold execArcStatus at h
  have e := Host.Outcome.next.inj h
  subst e
  clear h
  show Walk true _ _ _
  repeat' first
    | (with_reducible exact Walk.refl)
    | (with_reducible apply Walk.step (k := State.reply_keeps))
    | (with_reducible apply Walk.step (k := State.replyWith_keeps))
    | (with_reducible apply Walk.step (k := State.writeData_keeps))
    | (show covers _ _ = true; rfl)
    | (split)

theorem execArcWriteComplete_keeps {x1 x2 x3 s t} (h : @execArcWriteComplete x1 x2 x3 s = .next t) : Keeps [.regs, .out, .cmd, .hbr, .arc, .bil, .win 1, .win 10, .win 20] s t := by
  unfold execArcWriteComplete at h
  have e := Host.Outcome.next.inj h
  subst e
  clear h
  show Walk true _ _ _
  try dsimp only
  repeat' first
    | (with_reducible exact Walk.refl)
    | (with_reducible apply Walk.step (k := State.copyWritten_keeps))
    | (with_reducible apply Walk.step (k := State.holdEnd_keeps))
    | (with_reducible apply Walk.step (k := State.spareCheck_keeps))
    | (show covers _ _ = true; rfl)
    | (split)

theorem execMapImageWrite_keeps {x1 s t} (h : @execMapImageWrite x1 s = .next t) : Keeps [.regs, .out, .cmd, .hbr, .arc, .bil, .win 1, .win 10, .win 20] s t := by
  unfold execMapImageWrite at h
  have e := Host.Outcome.next.inj h
  subst e
  clear h
  show Walk true _ _ _
  try dsimp only
  repeat' first
    | (with_reducible exact Walk.refl)
    | (with_reducible apply Walk.step (k := State.journalGo_keeps))
    | (with_reducible apply Walk.step (k := State.nextPage_keeps))
    | (with_reducible apply Walk.step (k := State.setArc_keeps))
    | (with_reducible apply Walk.step (k := State.sysWrite_keeps))
    | (with_reducible apply Walk.ite)
    | (with_reducible refine Walk.update ?_ ?_ ?_ ?_ ?_ ?_ ?_ ?_ ?_ ?_ ?_ ?_ ?_ ?_ ?_ ?_ ?_ ?_ ?_ ?_ ?_ ?_ ?_ ?_ ?_ ?_ ?_ rfl rfl)
    | (exact .inl rfl)
    | (exact .inr rfl)
    | (show covers _ _ = true; rfl)
    | (with_reducible apply Walk.foldl)
    | (with_reducible apply Walk.foldl1)
    | (with_reducible apply Walk.foldl2)
    | (intro _)
    | (with_reducible assumption)
    | (split)

theorem execArcDriveInit_keeps {x1 x2 x3 x4 x5 s t} (h : @execArcDriveInit x1 x2 x3 x4 x5 s = .next t) : Keeps [.out, .freeCtr, .cmd, .vin, .kvt, .ing, .msh, .cod, .arc, .bil] s t := by
  unfold execArcDriveInit at h
  have e := Host.Outcome.next.inj h
  subst e
  clear h
  show Walk true _ _ _
  try dsimp only
  repeat' first
    | (with_reducible exact Walk.refl)
    | (with_reducible apply Walk.step (k := State.bringUp_keeps))
    | (with_reducible apply Walk.step (k := State.drawn_keeps))
    | (with_reducible apply Walk.step (k := State.journal_keeps))
    | (with_reducible apply Walk.step (k := State.reply_keeps))
    | (with_reducible apply Walk.step (k := State.replyQueued_keeps))
    | (with_reducible apply Walk.step (k := State.setArc_keeps))
    | (with_reducible apply Walk.step (k := State.setCod_keeps))
    | (with_reducible apply Walk.step (k := State.wipe_keeps))
    | (with_reducible apply Walk.step (k := State.writeLabel_keeps))
    | (with_reducible apply Walk.ite)
    | (split)
    | (with_reducible refine Walk.update ?_ ?_ ?_ ?_ ?_ ?_ ?_ ?_ ?_ ?_ ?_ ?_ ?_ ?_ ?_ ?_ ?_ ?_ ?_ ?_ ?_ ?_ ?_ ?_ ?_ ?_ ?_ rfl rfl)
    | (exact .inl rfl)
    | (exact .inr rfl)
    | (show covers _ _ = true; rfl)

theorem execArcWriteFail_keeps {x1 x2 x3 x4 s t} (h : @execArcWriteFail x1 x2 x3 x4 s = .next t) : Keeps [.regs, .out, .cmd, .hbr, .arc, .bil, .win 1, .win 10] s t := by
  unfold execArcWriteFail at h
  have e := Host.Outcome.next.inj h
  subst e
  clear h
  show Walk true _ _ _
  try dsimp only
  repeat' first
    | (with_reducible exact Walk.refl)
    | (with_reducible apply Walk.step (k := State.bump_keeps))
    | (with_reducible apply Walk.step (k := State.emit_keeps))
    | (with_reducible apply Walk.step (k := State.loseCopy_keeps))
    | (with_reducible apply Walk.step (k := State.redirect_keeps))
    | (with_reducible apply Walk.step (k := State.toReadOnly_keeps))
    | (with_reducible apply Walk.ite)
    | (show covers _ _ = true; rfl)
    | (split)

theorem execArcNsDelete_keeps {x1 x2 x3 s t} (h : @execArcNsDelete x1 x2 x3 s = .next t) : Keeps [.regs, .out, .cmd, .hbr, .arc, .bil, .win 1, .win 10, .win 20] s t := by
  unfold execArcNsDelete at h
  have e := Host.Outcome.next.inj h
  subst e
  clear h
  show Walk true _ _ _
  try dsimp only
  repeat' first
    | (with_reducible exact Walk.refl)
    | (with_reducible apply Walk.step (k := State.delCheck_keeps))
    | (with_reducible apply Walk.step (k := State.delExt_keeps))
    | (with_reducible apply Walk.step (k := State.journal_keeps))
    | (with_reducible apply Walk.step (k := State.reply_keeps))
    | (with_reducible apply Walk.step (k := State.replyQueued_keeps))
    | (with_reducible apply Walk.step (k := State.setArc_keeps))
    | (with_reducible apply Walk.ite)
    | (with_reducible apply Walk.foldl)
    | (with_reducible apply Walk.foldl1)
    | (with_reducible apply Walk.foldl2)
    | (intro _)
    | (with_reducible assumption)
    | (split)
    | (with_reducible refine Walk.update ?_ ?_ ?_ ?_ ?_ ?_ ?_ ?_ ?_ ?_ ?_ ?_ ?_ ?_ ?_ ?_ ?_ ?_ ?_ ?_ ?_ ?_ ?_ ?_ ?_ ?_ ?_ rfl rfl)
    | (exact .inl rfl)
    | (exact .inr rfl)
    | (show covers _ _ = true; rfl)

theorem execRebuildCopyDone_keeps {x1 x2 s t} (h : @execRebuildCopyDone x1 x2 s = .next t) : Keeps [.regs, .out, .cmd, .hbr, .arc, .bil, .win 1, .win 10] s t := by
  unfold execRebuildCopyDone at h
  have e := Host.Outcome.next.inj h
  subst e
  clear h
  show Walk true _ _ _
  repeat' first
    | (with_reducible exact Walk.refl)
    | (with_reducible apply Walk.step (k := State.moveJournal_keeps))
    | (with_reducible apply Walk.step (k := State.copyMade_keeps))
    | (show covers _ _ = true; rfl)
    | (split)

theorem execDriveHotplug_keeps {x1 s t} (h : @execDriveHotplug x1 s = .next t) : Keeps [.regs, .out, .cmd, .hbr, .arc, .bil, .win 1, .win 10] s t := by
  unfold execDriveHotplug at h
  have e := Host.Outcome.next.inj h
  subst e
  clear h
  show Walk true _ _ _
  try dsimp only
  repeat' first
    | (with_reducible exact Walk.refl)
    | (with_reducible apply Walk.step (k := State.identifyAll_keeps))
    | (with_reducible apply Walk.step (k := State.setArc_keeps))
    | (with_reducible apply Walk.step (k := State.setStage_keeps))
    | (with_reducible apply Walk.ite)
    | (with_reducible apply Walk.foldl)
    | (with_reducible apply Walk.foldl1)
    | (with_reducible apply Walk.foldl2)
    | (intro _)
    | (with_reducible assumption)
    | (with_reducible refine Walk.update ?_ ?_ ?_ ?_ ?_ ?_ ?_ ?_ ?_ ?_ ?_ ?_ ?_ ?_ ?_ ?_ ?_ ?_ ?_ ?_ ?_ ?_ ?_ ?_ ?_ ?_ ?_ rfl rfl)
    | (exact .inl rfl)
    | (exact .inr rfl)
    | (show covers _ _ = true; rfl)
    | (split)

theorem execArcSeal_keeps {x1 x2 s t} (h : @execArcSeal x1 x2 s = .next t) : Keeps [.regs, .out, .cmd, .hbr, .arc, .bil, .win 1, .win 10, .win 20] s t := by
  unfold execArcSeal at h
  have e := Host.Outcome.next.inj h
  subst e
  clear h
  show Walk true _ _ _
  repeat' first
    | (with_reducible exact Walk.refl)
    | (with_reducible apply Walk.step (k := State.reply_keeps))
    | (with_reducible apply Walk.step (k := State.advance_keeps))
    | (with_reducible apply Walk.step (k := State.modExt_keeps))
    | (show covers _ _ = true; rfl)
    | (split)

theorem execArcNsCreate_keeps {x1 x2 s t} (h : @execArcNsCreate x1 x2 s = .next t) : Keeps [.out, .cmd, .arc, .bil] s t := by
  unfold execArcNsCreate at h
  have e := Host.Outcome.next.inj h
  subst e
  clear h
  show Walk true _ _ _
  repeat' first
    | (with_reducible exact Walk.refl)
    | (with_reducible apply Walk.step (k := State.reply_keeps))
    | (with_reducible apply Walk.step (k := State.journal_keeps))
    | (show covers _ _ = true; rfl)
    | (split)

theorem execBillingHoldDrain_keeps {s t} (h : @execBillingHoldDrain s = .next t) : Keeps [.regs, .out, .hbr, .arc, .win 1, .win 10] s t := by
  unfold execBillingHoldDrain at h
  have e := Host.Outcome.next.inj h
  subst e
  clear h
  show Walk true _ _ _
  repeat' first
    | (with_reducible exact Walk.refl)
    | (with_reducible apply Walk.step (k := State.holdEnd_keeps))
    | (with_reducible apply Walk.step (k := State.drainHold_keeps))
    | (show covers _ _ = true; rfl)
    | (split)

theorem execArcHealthPoll_keeps {x1 x2 s t} (h : @execArcHealthPoll x1 x2 s = .next t) : Keeps [.regs, .out, .cmd, .hbr, .arc, .bil, .win 1, .win 10] s t := by
  unfold execArcHealthPoll at h
  have e := Host.Outcome.next.inj h
  subst e
  clear h
  show Walk true _ _ _
  repeat' first
    | (with_reducible exact Walk.refl)
    | (with_reducible apply Walk.step (k := State.pollDrive_keeps))
    | (show covers _ _ = true; rfl)

theorem execArcDriveEvacuate_keeps {x1 x2 s t} (h : @execArcDriveEvacuate x1 x2 s = .next t) : Keeps [.regs, .out, .cmd, .hbr, .arc, .bil, .win 1, .win 10] s t := by
  unfold execArcDriveEvacuate at h
  have e := Host.Outcome.next.inj h
  subst e
  clear h
  show Walk true _ _ _
  try dsimp only
  repeat' first
    | (with_reducible exact Walk.refl)
    | (with_reducible apply Walk.step (k := State.leaveSet_keeps))
    | (with_reducible apply Walk.step (k := State.modDrive_keeps))
    | (with_reducible apply Walk.step (k := State.reply_keeps))
    | (with_reducible apply Walk.step (k := State.replyQueued_keeps))
    | (with_reducible apply Walk.step (k := State.setStage_keeps))
    | (with_reducible apply Walk.ite)
    | (split)
    | (with_reducible refine Walk.update ?_ ?_ ?_ ?_ ?_ ?_ ?_ ?_ ?_ ?_ ?_ ?_ ?_ ?_ ?_ ?_ ?_ ?_ ?_ ?_ ?_ ?_ ?_ ?_ ?_ ?_ ?_ rfl rfl)
    | (exact .inl rfl)
    | (exact .inr rfl)
    | (show covers _ _ = true; rfl)

theorem execBlockReadDone_keeps {x1 x2 x3 x4 s t} (h : @execBlockReadDone x1 x2 x3 x4 s = .next t) : Keeps [.regs, .out, .cmd, .hbr, .arc, .bil, .win 1, .win 10] s t := by
  unfold execBlockReadDone at h
  have e := Host.Outcome.next.inj h
  subst e
  clear h
  show Walk true _ _ _
  try dsimp only
  repeat' first
    | (with_reducible exact Walk.refl)
    | (with_reducible apply Walk.step (k := State.jobRead_keeps))
    | (with_reducible apply Walk.step (k := State.jobsGo_keeps))
    | (split)
    | (show covers _ _ = true; rfl)

theorem execDeallocateDone_keeps {x1 x2 s t} (h : @execDeallocateDone x1 x2 s = .next t) : Keeps [.regs, .out, .cmd, .hbr, .arc, .bil, .win 1, .win 10] s t := by
  unfold execDeallocateDone at h
  have e := Host.Outcome.next.inj h
  subst e
  clear h
  show Walk true _ _ _
  repeat' first
    | (with_reducible exact Walk.refl)
    | (with_reducible apply Walk.step (k := State.deallocDone_keeps))
    | (show covers _ _ = true; rfl)

theorem State.arcOpens_keeps {s} : Keeps [.regs, .out, .hbr, .arc, .win 0, .win 1, .win 10] s (@State.arcOpens s) := by
  unfold State.arcOpens
  show Walk true _ _ _
  try dsimp only
  repeat' first
    | (with_reducible exact Walk.refl)
    | (with_reducible apply Walk.step (k := State.arcNotice_keeps))
    | (with_reducible apply Walk.step (k := State.arcReady_keeps))
    | (with_reducible apply Walk.step (k := State.askCeiling_keeps))
    | (with_reducible apply Walk.step (k := State.bump_keeps))
    | (with_reducible apply Walk.step (k := State.closeExt_keeps))
    | (with_reducible apply Walk.step (k := State.ensureExts_keeps))
    | (with_reducible apply Walk.step (k := State.holdCheck_keeps))
    | (with_reducible apply Walk.step (k := State.markPage_keeps))
    | (with_reducible apply Walk.step (k := State.nextPage_keeps))
    | (with_reducible apply Walk.ite)
    | (with_reducible apply Walk.foldl)
    | (with_reducible apply Walk.foldl1)
    | (with_reducible apply Walk.foldl2)
    | (intro _)
    | (with_reducible assumption)
    | (show covers _ _ = true; rfl)
    | (split)

end Sys2Proof.Machine
end

