-- ==== Sys2Proof/Laws/KeepsKvt.lean ====
section
/-! SUPPORT. What each operation of Kvt can change, and that it keeps the canonical forms. -/
set_option Elab.async false
namespace Sys2Proof.Machine

theorem State.setKvt_keeps {x1 s} : Keeps [.kvt] s (@State.setKvt x1 s) := by
  unfold State.setKvt
  show Walk true _ _ _
  repeat' first
    | (with_reducible exact Walk.refl)
    | (with_reducible refine Walk.update ?_ ?_ ?_ ?_ ?_ ?_ ?_ ?_ ?_ ?_ ?_ ?_ ?_ ?_ ?_ ?_ ?_ ?_ ?_ ?_ ?_ ?_ ?_ ?_ ?_ ?_ ?_ rfl rfl)
    | (exact .inl rfl)
    | (exact .inr rfl)

theorem State.unwrapFail_keeps {x1 s} : Keeps [.regs, .evr, .win 14, .win 21] s (@State.unwrapFail x1 s) := by
  unfold State.unwrapFail
  show Walk true _ _ _
  repeat' first
    | (with_reducible exact Walk.refl)
    | (with_reducible apply Walk.step (k := State.log_keeps))
    | (with_reducible apply Walk.step (k := State.bump_keeps))
    | (show covers _ _ = true; rfl)

theorem State.cacheKey_keeps {x1 s} : Keeps [.kvt] s (@State.cacheKey x1 s) := by
  unfold State.cacheKey
  show Walk true _ _ _
  try dsimp only
  repeat' first
    | (with_reducible exact Walk.refl)
    | (with_reducible apply Walk.step (k := State.setKvt_keeps))
    | (with_reducible apply Walk.ite)
    | (with_reducible refine Walk.update ?_ ?_ ?_ ?_ ?_ ?_ ?_ ?_ ?_ ?_ ?_ ?_ ?_ ?_ ?_ ?_ ?_ ?_ ?_ ?_ ?_ ?_ ?_ ?_ ?_ ?_ ?_ rfl rfl)
    | (exact .inl rfl)
    | (exact .inr rfl)
    | (show covers _ _ = true; rfl)
    | (split)

theorem State.unwrapNoon_keeps {x1 x2 s} : Keeps [.regs, .evr, .kvt, .win 14, .win 21] s (@State.unwrapNoon x1 x2 s).2 := by
  unfold State.unwrapNoon
  show Walk true _ _ _
  repeat' first
    | (with_reducible exact Walk.refl)
    | (with_reducible apply Walk.step (k := State.unwrapFail_keeps))
    | (with_reducible apply Walk.step (k := State.bump_keeps))
    | (with_reducible apply Walk.step (k := State.cacheKey_keeps))
    | (show covers _ _ = true; rfl)
    | (split)
theorem State.unwrapNoon_keeps_of {x1 x2 s a1 t} (h : @State.unwrapNoon x1 x2 s = (a1, t)) : Keeps [.regs, .evr, .kvt, .win 14, .win 21] s t := by
  have := @State.unwrapNoon_keeps x1 x2 s
  rw [h] at this
  exact this

theorem State.noonKey_keeps {x1 x2 s} : Keeps [.regs, .evr, .kvt, .win 14, .win 21] s (@State.noonKey x1 x2 s).2.2 := by
  unfold State.noonKey
  show Walk true _ _ _
  repeat' first
    | (with_reducible exact Walk.refl)
    | (with_reducible apply Walk.step (k := State.setKvt_keeps))
    | (with_reducible refine Walk.step ?_ (State.unwrapNoon_keeps_of (by assumption)) ?_)
    | (with_reducible apply Walk.step (k := State.unwrapNoon_keeps))
    | (show covers _ _ = true; rfl)
    | (split)
theorem State.noonKey_keeps_of {x1 x2 s a1 a2 t} (h : @State.noonKey x1 x2 s = (a1, a2, t)) : Keeps [.regs, .evr, .kvt, .win 14, .win 21] s t := by
  have := @State.noonKey_keeps x1 x2 s
  rw [h] at this
  exact this

theorem State.startJob_keeps {x1 s} : Keeps [.ing] s (@State.startJob x1 s) := by
  unfold State.startJob
  show Walk true _ _ _
  repeat' first
    | (with_reducible exact Walk.refl)
    | (with_reducible refine Walk.update ?_ ?_ ?_ ?_ ?_ ?_ ?_ ?_ ?_ ?_ ?_ ?_ ?_ ?_ ?_ ?_ ?_ ?_ ?_ ?_ ?_ ?_ ?_ ?_ ?_ ?_ ?_ rfl rfl)
    | (exact .inl rfl)
    | (exact .inr rfl)

theorem State.stageKeyOp_keeps {x1 x2 s} : Keeps [.kvt] s (@State.stageKeyOp x1 x2 s) := by
  unfold State.stageKeyOp
  show Walk true _ _ _
  repeat' first
    | (with_reducible exact Walk.refl)
    | (with_reducible apply Walk.step (k := State.setKvt_keeps))
    | (show covers _ _ = true; rfl)

theorem State.bumpSetGen_keeps {x1 s} : Keeps [.kvt] s (@State.bumpSetGen x1 s) := by
  unfold State.bumpSetGen
  show Walk true _ _ _
  repeat' first
    | (with_reducible exact Walk.refl)
    | (with_reducible apply Walk.step (k := State.setKvt_keeps))
    | (show covers _ _ = true; rfl)

theorem State.applyRecord_keeps {x1 s} : Keeps [.kvt] s (@State.applyRecord x1 s) := by
  unfold State.applyRecord
  show Walk true _ _ _
  repeat' first
    | (with_reducible exact Walk.refl)
    | (with_reducible apply Walk.step (k := State.bumpSetGen_keeps))
    | (with_reducible apply Walk.step (k := State.setKvt_keeps))
    | (show covers _ _ = true; rfl)
    | (split)

theorem State.dropKeyOp_keeps {x1 s} : Keeps [.kvt] s (@State.dropKeyOp x1 s) := by
  unfold State.dropKeyOp
  show Walk true _ _ _
  repeat' first
    | (with_reducible exact Walk.refl)
    | (with_reducible apply Walk.step (k := State.setKvt_keeps))
    | (show covers _ _ = true; rfl)

theorem State.failKeyOp_keeps {x1 x2 s} : Keeps [.cmd, .kvt, .bil] s (@State.failKeyOp x1 x2 s) := by
  unfold State.failKeyOp
  show Walk true _ _ _
  repeat' first
    | (with_reducible exact Walk.refl)
    | (with_reducible apply Walk.step (k := State.reply_keeps))
    | (with_reducible apply Walk.step (k := State.dropKeyOp_keeps))
    | (show covers _ _ = true; rfl)

theorem State.kvtNotice_keeps {x1 x2 x3 s} : Keeps [.regs, .out, .hbr, .win 1] s (@State.kvtNotice x1 x2 x3 s) := by
  unfold State.kvtNotice
  show Walk true _ _ _
  repeat' first
    | (with_reducible exact Walk.refl)
    | (with_reducible apply Walk.step (k := State.event_keeps))
    | (show covers _ _ = true; rfl)

theorem State.retirePage_keeps {s} : Keeps [.kvt] s (@State.retirePage s) := by
  unfold State.retirePage
  show Walk true _ _ _
  try dsimp only
  repeat' first
    | (with_reducible exact Walk.refl)
    | (with_reducible apply Walk.step (k := State.setKvt_keeps))
    | (with_reducible apply Walk.ite)
    | (with_reducible refine Walk.update ?_ ?_ ?_ ?_ ?_ ?_ ?_ ?_ ?_ ?_ ?_ ?_ ?_ ?_ ?_ ?_ ?_ ?_ ?_ ?_ ?_ ?_ ?_ ?_ ?_ ?_ ?_ rfl rfl)
    | (exact .inl rfl)
    | (exact .inr rfl)
    | (show covers _ _ = true; rfl)
    | (split)

theorem State.wordFailed_keeps {s} : Keeps [.regs, .out, .freeCtr, .hbr, .kvt, .win 1, .win 14] s (@State.wordFailed s) := by
  unfold State.wordFailed
  show Walk true _ _ _
  try dsimp only
  repeat' first
    | (with_reducible exact Walk.refl)
    | (with_reducible apply Walk.step (k := State.bumpBy_keeps))
    | (with_reducible apply Walk.step (k := State.drawn_keeps))
    | (with_reducible apply Walk.step (k := State.kvtNotice_keeps))
    | (with_reducible apply Walk.step (k := State.retirePage_keeps))
    | (with_reducible apply Walk.step (k := State.setKvt_keeps))
    | (with_reducible apply Walk.ite)
    | (with_reducible refine Walk.update ?_ ?_ ?_ ?_ ?_ ?_ ?_ ?_ ?_ ?_ ?_ ?_ ?_ ?_ ?_ ?_ ?_ ?_ ?_ ?_ ?_ ?_ ?_ ?_ ?_ ?_ ?_ rfl rfl)
    | (exact .inl rfl)
    | (exact .inr rfl)
    | (show covers _ _ = true; rfl)
    | (split)

theorem State.commitRecord_keeps {x1 x2 s} : Keeps [.regs, .out, .freeCtr, .cmd, .hbr, .kvt, .bil, .win 1, .win 14] s (@State.commitRecord x1 x2 s) := by
  unfold State.commitRecord
  show Walk true _ _ _
  try dsimp only
  repeat' first
    | (with_reducible exact Walk.refl)
    | (with_reducible apply Walk.step (k := State.applyRecord_keeps))
    | (with_reducible apply Walk.step (k := State.failKeyOp_keeps))
    | (with_reducible apply Walk.step (k := State.stageKeyOp_keeps))
    | (with_reducible apply Walk.step (k := State.wordFailed_keeps))
    | (with_reducible apply Walk.ite)
    | (show covers _ _ = true; rfl)
    | (split)

theorem State.startKeyOp_keeps {x1 x2 x3 x4 s} : Keeps [.regs, .out, .freeCtr, .seam, .cmd, .hbr, .kvt, .ing, .bil, .win 1, .win 14] s (@State.startKeyOp x1 x2 x3 x4 s) := by
  unfold State.startKeyOp
  show Walk true _ _ _
  try dsimp only
  repeat' first
    | (with_reducible exact Walk.refl)
    | (with_reducible apply Walk.step (k := State.commitRecord_keeps))
    | (with_reducible apply Walk.step (k := State.seamSend_keeps))
    | (with_reducible apply Walk.step (k := State.setKvt_keeps))
    | (with_reducible apply Walk.step (k := State.startJob_keeps))
    | (with_reducible apply Walk.ite)
    | (with_reducible refine Walk.update ?_ ?_ ?_ ?_ ?_ ?_ ?_ ?_ ?_ ?_ ?_ ?_ ?_ ?_ ?_ ?_ ?_ ?_ ?_ ?_ ?_ ?_ ?_ ?_ ?_ ?_ ?_ rfl rfl)
    | (exact .inl rfl)
    | (exact .inr rfl)
    | (show covers _ _ = true; rfl)
    | (split)

theorem State.newChallenge_keeps {s} : Keeps [.freeCtr, .kvt] s (@State.newChallenge s) := by
  unfold State.newChallenge
  show Walk true _ _ _
  repeat' first
    | (with_reducible exact Walk.refl)
    | (with_reducible apply Walk.step (k := State.setKvt_keeps))
    | (with_reducible apply Walk.step (k := State.drawn_keeps))
    | (show covers _ _ = true; rfl)

theorem State.authUsed_keeps {x1 s} : Keeps [.regs, .freeCtr, .kvt, .win 14] s (@State.authUsed x1 s) := by
  unfold State.authUsed
  show Walk true _ _ _
  repeat' first
    | (with_reducible exact Walk.refl)
    | (with_reducible apply Walk.step (k := State.newChallenge_keeps))
    | (with_reducible apply Walk.step (k := State.bump_keeps))
    | (show covers _ _ = true; rfl)
    | (split)

theorem State.setTouched_keeps {x1 s} : Keeps [.fse] s (@State.setTouched x1 s) := by
  unfold State.setTouched
  show Walk true _ _ _
  repeat' first
    | (with_reducible exact Walk.refl)
    | (with_reducible refine Walk.update ?_ ?_ ?_ ?_ ?_ ?_ ?_ ?_ ?_ ?_ ?_ ?_ ?_ ?_ ?_ ?_ ?_ ?_ ?_ ?_ ?_ ?_ ?_ ?_ ?_ ?_ ?_ rfl rfl)
    | (exact .inl rfl)
    | (exact .inr rfl)

theorem State.purgePlace_keeps {x1 s} : Keeps [.kvt] s (@State.purgePlace x1 s) := by
  unfold State.purgePlace
  show Walk true _ _ _
  repeat' first
    | (with_reducible exact Walk.refl)
    | (with_reducible apply Walk.step (k := State.setKvt_keeps))
    | (show covers _ _ = true; rfl)

theorem State.purgeIntake_keeps {x1 s} : Keeps [.fse] s (@State.purgeIntake x1 s) := by
  unfold State.purgeIntake
  show Walk true _ _ _
  repeat' first
    | (with_reducible exact Walk.refl)
    | (with_reducible refine Walk.update ?_ ?_ ?_ ?_ ?_ ?_ ?_ ?_ ?_ ?_ ?_ ?_ ?_ ?_ ?_ ?_ ?_ ?_ ?_ ?_ ?_ ?_ ?_ ?_ ?_ ?_ ?_ rfl rfl)
    | (exact .inl rfl)
    | (exact .inr rfl)

theorem State.applyMirror_keeps {x1 s} : Keeps [.kvt, .fse] s (@State.applyMirror x1 s) := by
  unfold State.applyMirror
  show Walk true _ _ _
  repeat' first
    | (with_reducible exact Walk.refl)
    | (with_reducible apply Walk.step (k := State.setTouched_keeps))
    | (with_reducible apply Walk.step (k := State.setKvt_keeps))
    | (with_reducible apply Walk.step (k := State.purgePlace_keeps))
    | (with_reducible apply Walk.step (k := State.purgeIntake_keeps))
    | (show covers _ _ = true; rfl)
    | (split)

theorem State.finishKeyOp_keeps {x1 s} : Keeps [.regs, .cmd, .kvt, .bil, .win 14] s (@State.finishKeyOp x1 s) := by
  unfold State.finishKeyOp
  show Walk true _ _ _
  repeat' first
    | (with_reducible exact Walk.refl)
    | (with_reducible apply Walk.step (k := State.bump_keeps))
    | (with_reducible apply Walk.step (k := State.replyWith_keeps))
    | (with_reducible apply Walk.step (k := State.dropKeyOp_keeps))
    | (show covers _ _ = true; rfl)
    | (split)

theorem State.keyMirrored_keeps {x1 s} : Keeps [.regs, .out, .seam, .cmd, .kvt, .ing, .fse, .bil, .win 14] s (@State.keyMirrored x1 s) := by
  unfold State.keyMirrored
  show Walk true _ _ _
  try dsimp only
  repeat' first
    | (with_reducible exact Walk.refl)
    | (with_reducible apply Walk.step (k := State.applyMirror_keeps))
    | (with_reducible apply Walk.step (k := State.finishKeyOp_keeps))
    | (with_reducible apply Walk.step (k := State.seamSend_keeps))
    | (with_reducible apply Walk.step (k := State.stageKeyOp_keeps))
    | (with_reducible apply Walk.step (k := State.startJob_keeps))
    | (with_reducible apply Walk.ite)
    | (split)
    | (show covers _ _ = true; rfl)

theorem State.islandKey_keeps {x1 x2 x3 s} : Keeps [.regs, .evr, .kvt, .win 14, .win 21] s (@State.islandKey x1 x2 x3 s).2 := by
  unfold State.islandKey
  show Walk true _ _ _
  try dsimp only
  repeat' first
    | (with_reducible exact Walk.refl)
    | (with_reducible apply Walk.step (k := State.setKvt_keeps))
    | (with_reducible apply Walk.step (k := State.unwrapFail_keeps))
    | (with_reducible apply Walk.step (k := State.bump_keeps))
    | (show covers _ _ = true; rfl)
    | (split)
theorem State.islandKey_keeps_of {x1 x2 x3 s a1 t} (h : @State.islandKey x1 x2 x3 s = (a1, t)) : Keeps [.regs, .evr, .kvt, .win 14, .win 21] s t := by
  have := @State.islandKey_keeps x1 x2 x3 s
  rw [h] at this
  exact this

theorem State.abortKeyOps_keeps {s} : Keeps [.regs, .cmd, .kvt, .bil, .win 14] s (@State.abortKeyOps s) := by
  unfold State.abortKeyOps
  show Walk true _ _ _
  repeat' first
    | (with_reducible exact Walk.refl)
    | (with_reducible apply Walk.step (k := State.bump_keeps))
    | (with_reducible apply Walk.step (k := State.failKeyOp_keeps))
    | (with_reducible apply Walk.foldl)
    | (intro _)
    | (show covers _ _ = true; rfl)

theorem State.endJob_keeps {x1 s} : Keeps [.ing] s (@State.endJob x1 s) := by
  unfold State.endJob
  show Walk true _ _ _
  repeat' first
    | (with_reducible exact Walk.refl)
    | (with_reducible refine Walk.update ?_ ?_ ?_ ?_ ?_ ?_ ?_ ?_ ?_ ?_ ?_ ?_ ?_ ?_ ?_ ?_ ?_ ?_ ?_ ?_ ?_ ?_ ?_ ?_ ?_ ?_ ?_ rfl rfl)
    | (exact .inl rfl)
    | (exact .inr rfl)

theorem State.keyJobDone_keeps {x1 x2 x3 s} : Keeps [.regs, .out, .freeCtr, .cmd, .hbr, .kvt, .ing, .bil, .win 1, .win 14] s (@State.keyJobDone x1 x2 x3 s) := by
  unfold State.keyJobDone
  show Walk true _ _ _
  repeat' first
    | (with_reducible exact Walk.refl)
    | (with_reducible apply Walk.step (k := State.finishKeyOp_keeps))
    | (with_reducible apply Walk.step (k := State.startJob_keeps))
    | (with_reducible apply Walk.step (k := State.commitRecord_keeps))
    | (with_reducible apply Walk.step (k := State.failKeyOp_keeps))
    | (show covers _ _ = true; rfl)
    | (split)

end Sys2Proof.Machine
end

