-- ==== Sys2Proof/Laws/KeepsCounters.lean ====
section
/-! SUPPORT. What each operation of Counters can change, and that it keeps the canonical forms. -/
set_option Elab.async false
namespace Sys2Proof.Machine

theorem State.drewCounter_keeps {x1 x2 x3 s} : Keeps [.regs, .out, .par, .win 18] s (@State.drewCounter x1 x2 x3 s) := by
  unfold State.drewCounter
  show Walk true _ _ _
  repeat' first
    | (with_reducible exact Walk.refl)
    | (with_reducible apply Walk.step (k := State.emit_keeps))
    | (with_reducible apply Walk.step (k := State.bump_keeps))
    | (with_reducible apply Walk.ite)
    | (with_reducible refine Walk.update ?_ ?_ ?_ ?_ ?_ ?_ ?_ ?_ ?_ ?_ ?_ ?_ ?_ ?_ ?_ ?_ ?_ ?_ ?_ ?_ ?_ ?_ ?_ ?_ ?_ ?_ ?_ rfl rfl)
    | (exact .inl rfl)
    | (exact .inr rfl)
    | (show covers _ _ = true; rfl)

end Sys2Proof.Machine
end

