-- ==== Sys2Proof/Laws/KeepsLaunch.lean ====
section
/-! SUPPORT. What each operation of Launch can change, and that it keeps the canonical forms. -/
set_option Elab.async false
namespace Sys2Proof.Machine

theorem State.launchWithdraw_keeps {x1 s} : Keeps [.tim] s (@State.launchWithdraw x1 s) := by
  unfold State.launchWithdraw
  show Walk true _ _ _
  try dsimp only
  repeat' first
    | (with_reducible exact Walk.refl)
    | (with_reducible refine Walk.update ?_ ?_ ?_ ?_ ?_ ?_ ?_ ?_ ?_ ?_ ?_ ?_ ?_ ?_ ?_ ?_ ?_ ?_ ?_ ?_ ?_ ?_ ?_ ?_ ?_ ?_ ?_ rfl rfl)
    | (exact .inl rfl)
    | (exact .inr rfl)
    | (show covers _ _ = true; rfl)
    | (split)

theorem State.launchFire_keeps {s} : Keeps [.tim] s (@State.launchFire s) := by
  unfold State.launchFire
  show Walk true _ _ _
  try dsimp only
  repeat' first
    | (with_reducible exact Walk.refl)
    | (with_reducible apply Walk.ite)
    | (split)
    | (with_reducible refine Walk.update ?_ ?_ ?_ ?_ ?_ ?_ ?_ ?_ ?_ ?_ ?_ ?_ ?_ ?_ ?_ ?_ ?_ ?_ ?_ ?_ ?_ ?_ ?_ ?_ ?_ ?_ ?_ rfl rfl)
    | (exact .inl rfl)
    | (exact .inr rfl)
    | (show covers _ _ = true; rfl)

theorem execLaunchWithdraw_keeps {x1 s t} (h : @execLaunchWithdraw x1 s = .next t) : Keeps [.tim] s t := by
  unfold execLaunchWithdraw at h
  have e := Host.Outcome.next.inj h
  subst e
  clear h
  show Walk true _ _ _
  repeat' first
    | (with_reducible exact Walk.refl)
    | (with_reducible apply Walk.step (k := State.launchWithdraw_keeps))
    | (show covers _ _ = true; rfl)

theorem State.launchInsert_keeps {x1 x2 x3 x4 s} : Keeps [.regs, .tim, .win 15] s (@State.launchInsert x1 x2 x3 x4 s) := by
  unfold State.launchInsert
  show Walk true _ _ _
  try dsimp only
  repeat' first
    | (with_reducible exact Walk.refl)
    | (with_reducible apply Walk.step (k := State.bump_keeps))
    | (with_reducible apply Walk.ite)
    | (with_reducible refine Walk.update ?_ ?_ ?_ ?_ ?_ ?_ ?_ ?_ ?_ ?_ ?_ ?_ ?_ ?_ ?_ ?_ ?_ ?_ ?_ ?_ ?_ ?_ ?_ ?_ ?_ ?_ ?_ rfl rfl)
    | (exact .inl rfl)
    | (exact .inr rfl)
    | (show covers _ _ = true; rfl)

theorem execLaunchFire_keeps {s t} (h : @execLaunchFire s = .next t) : Keeps [.regs, .out, .cmd, .evr, .tim, .plc, .rfx, .msh, .bil, .win 4, .win 5, .win 21] s t := by
  unfold execLaunchFire at h
  have e := Host.Outcome.next.inj h
  subst e
  clear h
  show Walk true _ _ _
  repeat' first
    | (with_reducible exact Walk.refl)
    | (with_reducible apply Walk.step (k := State.truncateFrames_keeps))
    | (with_reducible apply Walk.step (k := State.launchFire_keeps))
    | (show covers _ _ = true; rfl)

theorem State.passLaunch_walk {b qs x1 x2 x3 x4 go s0 s} (h : Walk true qs s0 s) (hf : ∀ u, Walk true qs u (go u)) (hq : may qs 12 = true) :
    Walk b qs s0 (@State.passLaunch x1 x2 x3 x4 go s) := by
  unfold State.passLaunch
  have k : ∀ {u : State} {q : Tim}, Keeps qs u { u with tim := q } := fun {u q} =>
    show Walk true qs u _ from by
      with_reducible refine Walk.update Walk.refl ?_ ?_ ?_ ?_ ?_ ?_ ?_ ?_ ?_ ?_ ?_ ?_ ?_ ?_ ?_ ?_ ?_ ?_ ?_ ?_ ?_ ?_ ?_ ?_ ?_ ?_ rfl rfl
      all_goals first | (exact .inr rfl) | (exact .inl hq)
  exact Keeps.ite h (Keeps.trans (Keeps.trans h (Keeps.trans k (Keeps.trans k k))) (hf _))

end Sys2Proof.Machine
end

