-- ==== Sys2Proof/Laws/KeepsFseOps.lean ====
section
/-! SUPPORT. What each operation of FseOps can change, and that it keeps the canonical forms. -/
set_option Elab.async false
namespace Sys2Proof.Machine

theorem State.lookupKey_keeps {x1 s} : Keeps [.regs, .evr, .kvt, .win 14, .win 21] s (@State.lookupKey x1 s).2.2 := by
  unfold State.lookupKey
  show Walk true _ _ _
  repeat' first
    | (with_reducible exact Walk.refl)
    | (with_reducible refine Walk.step ?_ (State.noonKey_keeps_of (by assumption)) ?_)
    | (with_reducible apply Walk.step (k := State.noonKey_keeps))
    | (show covers _ _ = true; rfl)
    | (split)
theorem State.lookupKey_keeps_of {x1 s a1 a2 t} (h : @State.lookupKey x1 s = (a1, a2, t)) : Keeps [.regs, .evr, .kvt, .win 14, .win 21] s t := by
  have := @State.lookupKey_keeps x1 s
  rw [h] at this
  exact this

theorem State.sealKey_keeps {x1 x2 x3 x4 s} : Keeps [.regs, .evr, .kvt, .win 14, .win 21] s (@State.sealKey x1 x2 x3 x4 s).2 := by
  unfold State.sealKey
  show Walk true _ _ _
  try dsimp only
  repeat' first
    | (with_reducible exact Walk.refl)
    | (with_reducible refine Walk.step ?_ (State.lookupKey_keeps_of (by assumption)) ?_)
    | (with_reducible apply Walk.step (k := State.lookupKey_keeps))
    | (with_reducible apply Walk.ite)
    | (split)
    | (show covers _ _ = true; rfl)

theorem State.sealKey_keeps_of {x1 x2 x3 x4 s a1 t} (h : @State.sealKey x1 x2 x3 x4 s = (a1, t)) : Keeps [.regs, .evr, .kvt, .win 14, .win 21] s t := by
  have := @State.sealKey_keeps x1 x2 x3 x4 s
  rw [h] at this
  exact this

theorem State.touchAll_keeps {x1 s} : Keeps [.ing] s (@State.touchAll x1 s).1 := by
  unfold State.touchAll
  show Walk true _ _ _
  try dsimp only
  repeat' first
    | (with_reducible exact Walk.refl)
    | (with_reducible refine Walk.step ?_ (State.cacheTouch_keeps_of (by assumption)) ?_)
    | (with_reducible apply Walk.step (k := State.cacheTouch_keeps))
    | (with_reducible apply Walk.foldl)
    | (with_reducible apply Walk.foldl1)
    | (with_reducible apply Walk.foldl2)
    | (intro _)
    | (with_reducible assumption)
    | (split)
    | (show covers _ _ = true; rfl)

theorem State.touchAll_keeps_of {x1 s a1 t} (h : @State.touchAll x1 s = (t, a1)) : Keeps [.ing] s t := by
  have := @State.touchAll_keeps x1 s
  rw [h] at this
  exact this

theorem State.fseLookup_keeps {x1 s} : Keeps [.regs, .evr, .kvt, .ing, .win 7, .win 14, .win 21] s (@State.fseLookup x1 s).2 := by
  unfold State.fseLookup
  show Walk true _ _ _
  try dsimp only
  repeat' first
    | (with_reducible exact Walk.refl)
    | (with_reducible apply Walk.step (k := State.bump_keeps))
    | (with_reducible refine Walk.step ?_ (State.lookupKey_keeps_of (by assumption)) ?_)
    | (with_reducible apply Walk.step (k := State.lookupKey_keeps))
    | (with_reducible refine Walk.step ?_ (State.touchAll_keeps_of (by assumption)) ?_)
    | (with_reducible apply Walk.step (k := State.touchAll_keeps))
    | (with_reducible apply Walk.ite)
    | (split)
    | (with_reducible apply Walk.ite2)
    | (with_reducible apply Walk.ite22)
    | (dsimp only)
    | (with_reducible assumption)
    | (with_reducible apply Walk.ite2)
    | (with_reducible apply Walk.ite22)
    | (dsimp only)
    | (with_reducible apply Walk.foldl)
    | (with_reducible apply Walk.foldl1)
    | (with_reducible apply Walk.foldl2)
    | (intro _)
    | (exact .inl rfl)
    | (exact .inr rfl)
    | (exact (fun _ => rfl))
    | (show covers _ _ = true; rfl)

theorem State.fseLookup_keeps_of {x1 s a1 t} (h : @State.fseLookup x1 s = (a1, t)) : Keeps [.regs, .evr, .kvt, .ing, .win 7, .win 14, .win 21] s t := by
  have := @State.fseLookup_keeps x1 s
  rw [h] at this
  exact this

theorem State.setFse_keeps {x1 s} : Keeps [.fse] s (@State.setFse x1 s) := by
  unfold State.setFse
  show Walk true _ _ _
  repeat' first
    | (with_reducible exact Walk.refl)
    | (with_reducible refine Walk.update ?_ ?_ ?_ ?_ ?_ ?_ ?_ ?_ ?_ ?_ ?_ ?_ ?_ ?_ ?_ ?_ ?_ ?_ ?_ ?_ ?_ ?_ ?_ ?_ ?_ ?_ ?_ rfl rfl)
    | (exact .inl rfl)
    | (exact .inr rfl)

theorem State.takeGroup_keeps {x1 x2 s} : Keeps [.regs, .out, .kvt, .par, .win 18] s (@State.takeGroup x1 x2 s) := by
  unfold State.takeGroup
  show Walk true _ _ _
  repeat' first
    | (with_reducible exact Walk.refl)
    | (with_reducible apply Walk.step (k := State.drewCounter_keeps))
    | (with_reducible apply Walk.step (k := State.setKvt_keeps))
    | (show covers _ _ = true; rfl)

theorem State.drawUnicast_keeps {x1 s} : Keeps [.regs, .out, .ing, .par, .win 18] s (@State.drawUnicast x1 s).2 := by
  unfold State.drawUnicast
  show Walk true _ _ _
  try dsimp only
  repeat' first
    | (with_reducible exact Walk.refl)
    | (with_reducible apply Walk.step (k := State.drewCounter_keeps))
    | (with_reducible apply Walk.step (k := State.setCtx_keeps))
    | (show covers _ _ = true; rfl)
    | (split)
theorem State.drawUnicast_keeps_of {x1 s a1 t} (h : @State.drawUnicast x1 s = (a1, t)) : Keeps [.regs, .out, .ing, .par, .win 18] s t := by
  have := @State.drawUnicast_keeps x1 s
  rw [h] at this
  exact this

end Sys2Proof.Machine
end

