-- ==== Sys2Proof/Laws/KeepsViews.lean ====
section
/-! SUPPORT. What each operation of Views can change, and that it keeps the canonical forms. -/
set_option Elab.async false
namespace Sys2Proof.Machine

theorem State.setRfx_keeps {x1 s} : Keeps [.rfx] s (@State.setRfx x1 s) := by
  unfold State.setRfx
  show Walk true _ _ _
  repeat' first
    | (with_reducible exact Walk.refl)
    | (with_reducible refine Walk.update ?_ ?_ ?_ ?_ ?_ ?_ ?_ ?_ ?_ ?_ ?_ ?_ ?_ ?_ ?_ ?_ ?_ ?_ ?_ ?_ ?_ ?_ ?_ ?_ ?_ ?_ ?_ rfl rfl)
    | (exact .inl rfl)
    | (exact .inr rfl)

theorem State.modPort_keeps {x1 x2 s} : Keeps [.rfx] s (@State.modPort x1 x2 s) := by
  unfold State.modPort
  show Walk true _ _ _
  repeat' first
    | (with_reducible exact Walk.refl)
    | (with_reducible apply Walk.step (k := State.setRfx_keeps))
    | (show covers _ _ = true; rfl)

theorem State.setGain_keeps {x1 x2 s} : Keeps [.regs, .out, .rfx, .win 5] s (@State.setGain x1 x2 s) := by
  unfold State.setGain
  show Walk true _ _ _
  try dsimp only
  repeat' first
    | (with_reducible exact Walk.refl)
    | (with_reducible apply Walk.step (k := State.bumpI_keeps))
    | (with_reducible apply Walk.step (k := State.emit_keeps))
    | (with_reducible apply Walk.step (k := State.modPort_keeps))
    | (with_reducible apply Walk.ite)
    | (with_reducible apply Walk.foldl)
    | (with_reducible apply Walk.foldl1)
    | (with_reducible apply Walk.foldl2)
    | (intro _)
    | (with_reducible assumption)
    | (with_reducible refine Walk.update ?_ ?_ ?_ ?_ ?_ ?_ ?_ ?_ ?_ ?_ ?_ ?_ ?_ ?_ ?_ ?_ ?_ ?_ ?_ ?_ ?_ ?_ ?_ ?_ ?_ ?_ ?_ rfl rfl)
    | (exact .inl rfl)
    | (exact .inr rfl)
    | (show covers _ _ = true; rfl)
    | (split)

theorem State.fixedGains_keeps {s} : Keeps [.regs, .out, .rfx, .win 5] s (@State.fixedGains s) := by
  unfold State.fixedGains
  show Walk true _ _ _
  try dsimp only
  repeat' first
    | (with_reducible exact Walk.refl)
    | (with_reducible apply Walk.step (k := State.setGain_keeps))
    | (with_reducible apply Walk.ite)
    | (with_reducible apply Walk.foldl)
    | (with_reducible apply Walk.foldl1)
    | (with_reducible apply Walk.foldl2)
    | (intro _)
    | (with_reducible assumption)
    | (show covers _ _ = true; rfl)
    | (split)

theorem State.rfPinsOff_keeps {s} : Keeps [.out] s (@State.rfPinsOff s) := by
  unfold State.rfPinsOff
  show Walk true _ _ _
  try dsimp only
  repeat' first
    | (with_reducible exact Walk.refl)
    | (with_reducible apply Walk.step (k := State.emit_keeps))
    | (with_reducible apply Walk.ite)
    | (with_reducible apply Walk.foldl)
    | (with_reducible apply Walk.foldl1)
    | (with_reducible apply Walk.foldl2)
    | (intro _)
    | (with_reducible assumption)
    | (show covers _ _ = true; rfl)
    | (split)

end Sys2Proof.Machine
end

