-- ==== Sys2Proof/Laws/KeepsRfx.lean ====
section
/-! SUPPORT. What each operation of Rfx can change, and that it keeps the canonical forms. -/
set_option Elab.async false
namespace Sys2Proof.Machine

theorem State.dutySave_keeps {s} : Keeps [.aon] s (@State.dutySave s) := by
  unfold State.dutySave
  show Walk true _ _ _
  try dsimp only
  repeat' first
    | (with_reducible exact Walk.refl)
    | (with_reducible refine Walk.update ?_ ?_ ?_ ?_ ?_ ?_ ?_ ?_ ?_ ?_ ?_ ?_ ?_ ?_ ?_ ?_ ?_ ?_ ?_ ?_ ?_ ?_ ?_ ?_ ?_ ?_ ?_ rfl rfl)
    | (exact .inl rfl)
    | (exact .inr rfl)
    | (show covers _ _ = true; rfl)
    | (split)

theorem State.countRefusal_keeps {x1 x2 s} : Keeps [.regs, .win 5] s (@State.countRefusal x1 x2 s) := by
  unfold State.countRefusal
  show Walk true _ _ _
  repeat' first
    | (with_reducible exact Walk.refl)
    | (with_reducible apply Walk.step (k := State.setRegI_keeps))
    | (show covers _ _ = true; rfl)

theorem State.txenUp_keeps {x1 s} : Keeps [.out, .rfx] s (@State.txenUp x1 s) := by
  unfold State.txenUp
  show Walk true _ _ _
  try dsimp only
  repeat' first
    | (with_reducible exact Walk.refl)
    | (with_reducible apply Walk.step (k := State.emit_keeps))
    | (with_reducible apply Walk.step (k := State.modPort_keeps))
    | (with_reducible apply Walk.ite)
    | (with_reducible refine Walk.update ?_ ?_ ?_ ?_ ?_ ?_ ?_ ?_ ?_ ?_ ?_ ?_ ?_ ?_ ?_ ?_ ?_ ?_ ?_ ?_ ?_ ?_ ?_ ?_ ?_ ?_ ?_ rfl rfl)
    | (exact .inl rfl)
    | (exact .inr rfl)
    | (show covers _ _ = true; rfl)
    | (split)

theorem State.rfLaunch_keeps {x1 x2 x3 x4 x5 x6 s} : Keeps [.regs, .out, .rfx, .win 5] s (@State.rfLaunch x1 x2 x3 x4 x5 x6 s).1 := by
  unfold State.rfLaunch
  show Walk true _ _ _
  try dsimp only
  repeat' first
    | (with_reducible exact Walk.refl)
    | (with_reducible apply Walk.step (k := State.bumpI_keeps))
    | (with_reducible apply Walk.step (k := State.charge_keeps))
    | (with_reducible apply Walk.step (k := State.countRefusal_keeps))
    | (with_reducible apply Walk.step (k := State.emit_keeps))
    | (with_reducible apply Walk.step (k := State.setRfx_keeps))
    | (with_reducible apply Walk.step (k := State.txenLook_keeps))
    | (with_reducible apply Walk.step (k := State.txenUp_keeps))
    | (with_reducible apply Walk.foldl)
    | (with_reducible apply Walk.foldl1)
    | (with_reducible apply Walk.foldl2)
    | (intro _)
    | (with_reducible assumption)
    | (split)
    | (with_reducible refine Walk.update ?_ ?_ ?_ ?_ ?_ ?_ ?_ ?_ ?_ ?_ ?_ ?_ ?_ ?_ ?_ ?_ ?_ ?_ ?_ ?_ ?_ ?_ ?_ ?_ ?_ ?_ ?_ rfl rfl)
    | (exact .inl rfl)
    | (exact .inr rfl)
    | (show covers _ _ = true; rfl)

theorem State.rfLaunch_keeps_of {x1 x2 x3 x4 x5 x6 s a1 t} (h : @State.rfLaunch x1 x2 x3 x4 x5 x6 s = (t, a1)) : Keeps [.regs, .out, .rfx, .win 5] s t := by
  have := @State.rfLaunch_keeps x1 x2 x3 x4 x5 x6 s
  rw [h] at this
  exact this

theorem State.cutTx_keeps {x1 s} : Keeps [.regs, .out, .cmd, .rfx, .msh, .bil, .win 5] s (@State.cutTx x1 s) := by
  unfold State.cutTx
  show Walk true _ _ _
  repeat' first
    | (with_reducible exact Walk.refl)
    | (with_reducible apply Walk.step (k := State.truncateRf_keeps))
    | (with_reducible apply Walk.foldl)
    | (intro _)
    | (show covers _ _ = true; rfl)

theorem State.abandonRx_keeps {x1 s} : Keeps [.regs, .rfx, .win 5] s (@State.abandonRx x1 s) := by
  unfold State.abandonRx
  show Walk true _ _ _
  repeat' first
    | (with_reducible exact Walk.refl)
    | (with_reducible apply Walk.step (k := State.setRfx_keeps))
    | (with_reducible apply Walk.step (k := State.bumpI_keeps))
    | (with_reducible apply Walk.foldl)
    | (intro _)
    | (show covers _ _ = true; rfl)

theorem State.rfNotice_keeps {x1 x2 x3 s} : Keeps [.regs, .out, .hbr, .win 1] s (@State.rfNotice x1 x2 x3 s) := by
  unfold State.rfNotice
  show Walk true _ _ _
  repeat' first
    | (with_reducible exact Walk.refl)
    | (with_reducible apply Walk.step (k := State.event_keeps))
    | (show covers _ _ = true; rfl)

theorem execRfJamClear_keeps {x1 x2 s t} (h : @execRfJamClear x1 x2 s = .next t) : Keeps [.regs, .out, .hbr, .rfx, .win 1] s t := by
  unfold execRfJamClear at h
  have e := Host.Outcome.next.inj h
  subst e
  clear h
  show Walk true _ _ _
  try dsimp only
  repeat' first
    | (with_reducible exact Walk.refl)
    | (with_reducible apply Walk.step (k := State.modPort_keeps))
    | (with_reducible apply Walk.step (k := State.rfNotice_keeps))
    | (with_reducible apply Walk.ite)
    | (with_reducible refine Walk.update ?_ ?_ ?_ ?_ ?_ ?_ ?_ ?_ ?_ ?_ ?_ ?_ ?_ ?_ ?_ ?_ ?_ ?_ ?_ ?_ ?_ ?_ ?_ ?_ ?_ ?_ ?_ rfl rfl)
    | (exact .inl rfl)
    | (exact .inr rfl)
    | (show covers _ _ = true; rfl)
    | (split)

theorem execRfFrameEnd_keeps {x1 x2 s t} (h : @execRfFrameEnd x1 x2 s = .next t) : Keeps [.regs, .rfx, .msh, .win 5] s t := by
  unfold execRfFrameEnd at h
  have e := Host.Outcome.next.inj h
  subst e
  clear h
  show Walk true _ _ _
  try dsimp only
  repeat' first
    | (with_reducible exact Walk.refl)
    | (with_reducible apply Walk.step (k := State.bumpI_keeps))
    | (with_reducible apply Walk.step (k := State.setRfx_keeps))
    | (with_reducible apply Walk.ite)
    | (split)
    | (with_reducible refine Walk.update ?_ ?_ ?_ ?_ ?_ ?_ ?_ ?_ ?_ ?_ ?_ ?_ ?_ ?_ ?_ ?_ ?_ ?_ ?_ ?_ ?_ ?_ ?_ ?_ ?_ ?_ ?_ rfl rfl)
    | (exact .inl rfl)
    | (exact .inr rfl)
    | (show covers _ _ = true; rfl)

theorem execRfFramingLoss_keeps {x1 s t} (h : @execRfFramingLoss x1 s = .next t) : Keeps [.regs, .out, .cmd, .hbr, .rfx, .msh, .bil, .win 1, .win 5] s t := by
  unfold execRfFramingLoss at h
  have e := Host.Outcome.next.inj h
  subst e
  clear h
  show Walk true _ _ _
  try dsimp only
  repeat' first
    | (with_reducible exact Walk.refl)
    | (with_reducible apply Walk.step (k := State.abandonRx_keeps))
    | (with_reducible apply Walk.step (k := State.cutTx_keeps))
    | (with_reducible apply Walk.step (k := State.modPort_keeps))
    | (with_reducible apply Walk.step (k := State.rfNotice_keeps))
    | (with_reducible apply Walk.ite)
    | (with_reducible refine Walk.update ?_ ?_ ?_ ?_ ?_ ?_ ?_ ?_ ?_ ?_ ?_ ?_ ?_ ?_ ?_ ?_ ?_ ?_ ?_ ?_ ?_ ?_ ?_ ?_ ?_ ?_ ?_ rfl rfl)
    | (exact .inl rfl)
    | (exact .inr rfl)
    | (show covers _ _ = true; rfl)
    | (split)

theorem State.agc_keeps {x1 x2 x3 s} : Keeps [.regs, .out, .rfx, .win 5] s (@State.agc x1 x2 x3 s) := by
  unfold State.agc
  show Walk true _ _ _
  try dsimp only
  repeat' first
    | (with_reducible exact Walk.refl)
    | (with_reducible apply Walk.step (k := State.setGain_keeps))
    | (with_reducible apply Walk.step (k := State.modPort_keeps))
    | (with_reducible refine Walk.update ?_ ?_ ?_ ?_ ?_ ?_ ?_ ?_ ?_ ?_ ?_ ?_ ?_ ?_ ?_ ?_ ?_ ?_ ?_ ?_ ?_ ?_ ?_ ?_ ?_ ?_ ?_ rfl rfl)
    | (exact .inl rfl)
    | (exact .inr rfl)
    | (show covers _ _ = true; rfl)
    | (split)

theorem execRfFramingRestore_keeps {x1 s t} (h : @execRfFramingRestore x1 s = .next t) : Keeps [.regs, .out, .hbr, .rfx, .win 1] s t := by
  unfold execRfFramingRestore at h
  have e := Host.Outcome.next.inj h
  subst e
  clear h
  show Walk true _ _ _
  try dsimp only
  repeat' first
    | (with_reducible exact Walk.refl)
    | (with_reducible apply Walk.step (k := State.modPort_keeps))
    | (with_reducible apply Walk.step (k := State.rfNotice_keeps))
    | (with_reducible apply Walk.ite)
    | (with_reducible refine Walk.update ?_ ?_ ?_ ?_ ?_ ?_ ?_ ?_ ?_ ?_ ?_ ?_ ?_ ?_ ?_ ?_ ?_ ?_ ?_ ?_ ?_ ?_ ?_ ?_ ?_ ?_ ?_ rfl rfl)
    | (exact .inl rfl)
    | (exact .inr rfl)
    | (show covers _ _ = true; rfl)
    | (split)

theorem State.dutyRestore_keeps {x1 s} : Keeps [.regs, .out, .hbr, .rfx, .win 1] s (@State.dutyRestore x1 s) := by
  unfold State.dutyRestore
  show Walk true _ _ _
  repeat' first
    | (with_reducible exact Walk.refl)
    | (with_reducible apply Walk.step (k := State.setRfx_keeps))
    | (with_reducible apply Walk.step (k := State.rfNotice_keeps))
    | (with_reducible apply Walk.step (k := State.modPort_keeps))
    | (with_reducible apply Walk.foldl)
    | (intro _)
    | (show covers _ _ = true; rfl)
    | (split)

theorem execRfPhrDecision_keeps {x1 x2 s t} (h : @execRfPhrDecision x1 x2 s = .next t) : Keeps [.regs, .rfx, .win 5] s t := by
  unfold execRfPhrDecision at h
  have e := Host.Outcome.next.inj h
  subst e
  clear h
  show Walk true _ _ _
  try dsimp only
  repeat' first
    | (with_reducible exact Walk.refl)
    | (with_reducible apply Walk.step (k := State.bumpI_keeps))
    | (with_reducible apply Walk.step (k := State.setRfx_keeps))
    | (with_reducible apply Walk.ite)
    | (split)
    | (with_reducible refine Walk.update ?_ ?_ ?_ ?_ ?_ ?_ ?_ ?_ ?_ ?_ ?_ ?_ ?_ ?_ ?_ ?_ ?_ ?_ ?_ ?_ ?_ ?_ ?_ ?_ ?_ ?_ ?_ rfl rfl)
    | (exact .inl rfl)
    | (exact .inr rfl)
    | (show covers _ _ = true; rfl)

theorem State.overloadStep_keeps {x1 x2 x3 s} : Keeps [.regs, .out, .hbr, .rfx, .win 1] s (@State.overloadStep x1 x2 x3 s) := by
  unfold State.overloadStep
  show Walk true _ _ _
  try dsimp only
  repeat' first
    | (with_reducible exact Walk.refl)
    | (with_reducible apply Walk.step (k := State.modPort_keeps))
    | (with_reducible apply Walk.step (k := State.rfNotice_keeps))
    | (with_reducible apply Walk.step (k := State.setRfx_keeps))
    | (with_reducible apply Walk.ite)
    | (with_reducible refine Walk.update ?_ ?_ ?_ ?_ ?_ ?_ ?_ ?_ ?_ ?_ ?_ ?_ ?_ ?_ ?_ ?_ ?_ ?_ ?_ ?_ ?_ ?_ ?_ ?_ ?_ ?_ ?_ rfl rfl)
    | (exact .inl rfl)
    | (exact .inr rfl)
    | (show covers _ _ = true; rfl)
    | (split)

theorem execRfClockReturn_keeps {x1 s t} (h : @execRfClockReturn x1 s = .next t) : Keeps [.regs, .out, .hbr, .rfx, .win 1] s t := by
  unfold execRfClockReturn at h
  have e := Host.Outcome.next.inj h
  subst e
  clear h
  show Walk true _ _ _
  repeat' first
    | (with_reducible exact Walk.refl)
    | (with_reducible apply Walk.step (k := State.rfNotice_keeps))
    | (with_reducible apply Walk.step (k := State.modPort_keeps))
    | (show covers _ _ = true; rfl)
    | (split)

theorem State.startRx_keeps {x1 s} : Keeps [.regs, .rfx, .win 5] s (@State.startRx x1 s) := by
  unfold State.startRx
  show Walk true _ _ _
  try dsimp only
  repeat' first
    | (with_reducible exact Walk.refl)
    | (with_reducible apply Walk.step (k := State.maxReg_keeps))
    | (with_reducible apply Walk.step (k := State.setRfx_keeps))
    | (with_reducible refine Walk.update ?_ ?_ ?_ ?_ ?_ ?_ ?_ ?_ ?_ ?_ ?_ ?_ ?_ ?_ ?_ ?_ ?_ ?_ ?_ ?_ ?_ ?_ ?_ ?_ ?_ ?_ ?_ rfl rfl)
    | (exact .inl rfl)
    | (exact .inr rfl)
    | (show covers _ _ = true; rfl)
    | (split)

theorem execRfClockLoss_keeps {x1 s t} (h : @execRfClockLoss x1 s = .next t) : Keeps [.regs, .out, .cmd, .hbr, .rfx, .msh, .bil, .win 1, .win 5] s t := by
  unfold execRfClockLoss at h
  have e := Host.Outcome.next.inj h
  subst e
  clear h
  show Walk true _ _ _
  repeat' first
    | (with_reducible exact Walk.refl)
    | (with_reducible apply Walk.step (k := State.rfNotice_keeps))
    | (with_reducible apply Walk.step (k := State.cutTx_keeps))
    | (with_reducible apply Walk.step (k := State.abandonRx_keeps))
    | (with_reducible apply Walk.step (k := State.modPort_keeps))
    | (show covers _ _ = true; rfl)
    | (split)

theorem State.detect_keeps {x1 s} : Keeps [.regs, .rfx, .win 5] s (@State.detect x1 s) := by
  unfold State.detect
  show Walk true _ _ _
  try dsimp only
  repeat' first
    | (with_reducible exact Walk.refl)
    | (with_reducible apply Walk.step (k := State.bumpI_keeps))
    | (with_reducible apply Walk.step (k := State.setRfx_keeps))
    | (with_reducible apply Walk.step (k := State.startRx_keeps))
    | (with_reducible apply Walk.ite)
    | (split)
    | (with_reducible refine Walk.update ?_ ?_ ?_ ?_ ?_ ?_ ?_ ?_ ?_ ?_ ?_ ?_ ?_ ?_ ?_ ?_ ?_ ?_ ?_ ?_ ?_ ?_ ?_ ?_ ?_ ?_ ?_ rfl rfl)
    | (exact .inl rfl)
    | (exact .inr rfl)
    | (show covers _ _ = true; rfl)

theorem execDutyBucketRoll_keeps {s t} (h : @execDutyBucketRoll s = .next t) : Keeps [.rfx] s t := by
  unfold execDutyBucketRoll at h
  have e := Host.Outcome.next.inj h
  subst e
  clear h
  show Walk true _ _ _
  try dsimp only
  repeat' first
    | (with_reducible exact Walk.refl)
    | (with_reducible apply Walk.step (k := State.setRfx_keeps))
    | (with_reducible refine Walk.update ?_ ?_ ?_ ?_ ?_ ?_ ?_ ?_ ?_ ?_ ?_ ?_ ?_ ?_ ?_ ?_ ?_ ?_ ?_ ?_ ?_ ?_ ?_ ?_ ?_ ?_ ?_ rfl rfl)
    | (exact .inl rfl)
    | (exact .inr rfl)
    | (show covers _ _ = true; rfl)
    | (split)

theorem execRfJamStart_keeps {x1 x2 s t} (h : @execRfJamStart x1 x2 s = .next t) : Keeps [.regs, .out, .hbr, .rfx, .win 1] s t := by
  unfold execRfJamStart at h
  have e := Host.Outcome.next.inj h
  subst e
  clear h
  show Walk true _ _ _
  try dsimp only
  repeat' first
    | (with_reducible exact Walk.refl)
    | (with_reducible apply Walk.step (k := State.modPort_keeps))
    | (with_reducible apply Walk.step (k := State.rfNotice_keeps))
    | (with_reducible apply Walk.ite)
    | (split)
    | (with_reducible refine Walk.update ?_ ?_ ?_ ?_ ?_ ?_ ?_ ?_ ?_ ?_ ?_ ?_ ?_ ?_ ?_ ?_ ?_ ?_ ?_ ?_ ?_ ?_ ?_ ?_ ?_ ?_ ?_ rfl rfl)
    | (exact .inl rfl)
    | (exact .inr rfl)
    | (show covers _ _ = true; rfl)

theorem execRfSyncDetect_keeps {x1 s t} (h : @execRfSyncDetect x1 s = .next t) : Keeps [.regs, .rfx, .win 5] s t := by
  unfold execRfSyncDetect at h
  have e := Host.Outcome.next.inj h
  subst e
  clear h
  show Walk true _ _ _
  repeat' first
    | (with_reducible exact Walk.refl)
    | (with_reducible apply Walk.step (k := State.detect_keeps))
    | (show covers _ _ = true; rfl)
    | (split)

theorem execRfAgcBlock_keeps {x1 x2 x3 s t} (h : @execRfAgcBlock x1 x2 x3 s = .next t) : Keeps [.regs, .out, .hbr, .rfx, .win 1, .win 5] s t := by
  unfold execRfAgcBlock at h
  have e := Host.Outcome.next.inj h
  subst e
  clear h
  show Walk true _ _ _
  try dsimp only
  repeat' first
    | (with_reducible exact Walk.refl)
    | (with_reducible apply Walk.step (k := State.agc_keeps))
    | (with_reducible apply Walk.step (k := State.overloadStep_keeps))
    | (with_reducible apply Walk.ite)
    | (show covers _ _ = true; rfl)
    | (split)

theorem State.rfPass_keeps {x1 x2 x3 x4 x5 x6 s} : Keeps [.regs, .out, .tim, .rfx, .win 5] s (@State.rfPass x1 x2 x3 x4 x5 x6 s) := by
  unfold State.rfPass
  show Walk true _ _ _
  try dsimp only
  repeat' first
    | (with_reducible exact Walk.refl)
    | (with_reducible apply State.passLaunch_walk)
    | (with_reducible refine Walk.step ?_ (State.rfLaunch_keeps_of (by assumption)) ?_)
    | (with_reducible apply Walk.step (k := State.rfLaunch_keeps))
    | (intro _)
    | (show covers _ _ = true; rfl)
    | (show may _ _ = true; rfl)
    | (split)

end Sys2Proof.Machine
end

