-- ==== Sys2Proof/Laws/KeepsMshOps.lean ====
section
/-! SUPPORT. What each operation of MshOps can change, and that it keeps the canonical forms. -/
set_option Elab.async false
namespace Sys2Proof.Machine

theorem State.setMsh_keeps {x1 s} : Keeps [.msh] s (@State.setMsh x1 s) := by
  unfold State.setMsh
  show Walk true _ _ _
  repeat' first
    | (with_reducible exact Walk.refl)
    | (with_reducible refine Walk.update ?_ ?_ ?_ ?_ ?_ ?_ ?_ ?_ ?_ ?_ ?_ ?_ ?_ ?_ ?_ ?_ ?_ ?_ ?_ ?_ ?_ ?_ ?_ ?_ ?_ ?_ ?_ rfl rfl)
    | (exact .inl rfl)
    | (exact .inr rfl)

theorem State.mshNotice_keeps {x1 x2 x3 x4 x5 x6 s} : Keeps [.regs, .out, .hbr, .win 1] s (@State.mshNotice x1 x2 x3 x4 x5 x6 s) := by
  unfold State.mshNotice
  show Walk true _ _ _
  repeat' first
    | (with_reducible exact Walk.refl)
    | (with_reducible apply Walk.step (k := State.eventFor_keeps))
    | (show covers _ _ = true; rfl)

theorem State.endMsh_keeps {x1 x2 x3 s} : Keeps [.regs, .out, .cmd, .hbr, .msh, .bil, .win 1] s (@State.endMsh x1 x2 x3 s) := by
  unfold State.endMsh
  show Walk true _ _ _
  try dsimp only
  repeat' first
    | (with_reducible exact Walk.refl)
    | (with_reducible apply Walk.step (k := State.mshNotice_keeps))
    | (with_reducible apply Walk.step (k := State.replyWith_keeps))
    | (with_reducible apply Walk.step (k := State.setMsh_keeps))
    | (with_reducible apply Walk.ite)
    | (with_reducible apply Walk.foldl)
    | (with_reducible apply Walk.foldl1)
    | (with_reducible apply Walk.foldl2)
    | (intro _)
    | (with_reducible assumption)
    | (split)
    | (with_reducible refine Walk.update ?_ ?_ ?_ ?_ ?_ ?_ ?_ ?_ ?_ ?_ ?_ ?_ ?_ ?_ ?_ ?_ ?_ ?_ ?_ ?_ ?_ ?_ ?_ ?_ ?_ ?_ ?_ rfl rfl)
    | (exact .inl rfl)
    | (exact .inr rfl)
    | (show covers _ _ = true; rfl)

theorem State.modMsh_keeps {x1 x2 s} : Keeps [.msh] s (@State.modMsh x1 x2 s) := by
  unfold State.modMsh
  show Walk true _ _ _
  repeat' first
    | (with_reducible exact Walk.refl)
    | (with_reducible apply Walk.step (k := State.setMsh_keeps))
    | (show covers _ _ = true; rfl)

theorem State.mshRefused_keeps {x1 x2 s} : Keeps [.regs, .out, .cmd, .hbr, .msh, .bil, .win 1] s (@State.mshRefused x1 x2 s) := by
  unfold State.mshRefused
  show Walk true _ _ _
  try dsimp only
  repeat' first
    | (with_reducible exact Walk.refl)
    | (with_reducible apply Walk.step (k := State.endMsh_keeps))
    | (with_reducible apply Walk.ite)
    | (split)
    | (show covers _ _ = true; rfl)

theorem State.tagKeyOut_keeps {x1 s} : Keeps [.regs, .evr, .kvt, .win 14, .win 21] s (@State.tagKeyOut x1 s).2 := by
  unfold State.tagKeyOut
  show Walk true _ _ _
  repeat' first
    | (with_reducible exact Walk.refl)
    | (with_reducible refine Walk.step ?_ (State.lookupKey_keeps_of (by assumption)) ?_)
    | (with_reducible apply Walk.step (k := State.lookupKey_keeps))
    | (show covers _ _ = true; rfl)
theorem State.tagKeyOut_keeps_of {x1 s a1 t} (h : @State.tagKeyOut x1 s = (a1, t)) : Keeps [.regs, .evr, .kvt, .win 14, .win 21] s t := by
  have := @State.tagKeyOut_keeps x1 s
  rw [h] at this
  exact this

theorem State.drawNseq_keeps {x1 s} : Keeps [.regs, .out, .ing, .par, .win 18] s (@State.drawNseq x1 s).2 := by
  unfold State.drawNseq
  show Walk true _ _ _
  try dsimp only
  repeat' first
    | (with_reducible exact Walk.refl)
    | (with_reducible apply Walk.step (k := State.drewCounter_keeps))
    | (with_reducible apply Walk.step (k := State.setCtx_keeps))
    | (show covers _ _ = true; rfl)
    | (split)
theorem State.drawNseq_keeps_of {x1 s a1 t} (h : @State.drawNseq x1 s = (a1, t)) : Keeps [.regs, .out, .ing, .par, .win 18] s t := by
  have := @State.drawNseq_keeps x1 s
  rw [h] at this
  exact this

theorem State.unicastPsdu_keeps {x1 x2 s} : Keeps [.regs, .out, .evr, .kvt, .ing, .par, .win 7, .win 14, .win 18, .win 21] s (@State.unicastPsdu x1 x2 s).2 := by
  unfold State.unicastPsdu
  show Walk true _ _ _
  try dsimp only
  repeat' first
    | (with_reducible exact Walk.refl)
    | (with_reducible apply Walk.step (k := State.bump_keeps))
    | (with_reducible refine Walk.step ?_ (State.drawNseq_keeps_of (by assumption)) ?_)
    | (with_reducible apply Walk.step (k := State.drawNseq_keeps))
    | (with_reducible refine Walk.step ?_ (State.tagKeyOut_keeps_of (by assumption)) ?_)
    | (with_reducible apply Walk.step (k := State.tagKeyOut_keeps))
    | (split)
    | (with_reducible refine Walk.update ?_ ?_ ?_ ?_ ?_ ?_ ?_ ?_ ?_ ?_ ?_ ?_ ?_ ?_ ?_ ?_ ?_ ?_ ?_ ?_ ?_ ?_ ?_ ?_ ?_ ?_ ?_ rfl rfl)
    | (exact .inl rfl)
    | (exact .inr rfl)
    | (show covers _ _ = true; rfl)

theorem State.unicastPsdu_keeps_of {x1 x2 s a1 t} (h : @State.unicastPsdu x1 x2 s = (a1, t)) : Keeps [.regs, .out, .evr, .kvt, .ing, .par, .win 7, .win 14, .win 18, .win 21] s t := by
  have := @State.unicastPsdu_keeps x1 x2 s
  rw [h] at this
  exact this

theorem State.mshOnAir_keeps {x1 x2 x3 x4 x5 x6 x7 x8 s} : Keeps [.msh] s (@State.mshOnAir x1 x2 x3 x4 x5 x6 x7 x8 s) := by
  unfold State.mshOnAir
  show Walk true _ _ _
  repeat' first
    | (with_reducible exact Walk.refl)
    | (with_reducible apply Walk.step (k := State.modMsh_keeps))
    | (show covers _ _ = true; rfl)

theorem State.formUnicast_keeps {x1 x2 x3 x4 x5 x6 s} : Keeps [.regs, .out, .cmd, .hbr, .evr, .kvt, .ing, .msh, .bil, .par, .win 1, .win 5, .win 7, .win 14, .win 18, .win 21] s (@State.formUnicast x1 x2 x3 x4 x5 x6 s).1 := by
  unfold State.formUnicast
  show Walk true _ _ _
  try dsimp only
  repeat' first
    | (with_reducible exact Walk.refl)
    | (with_reducible apply Walk.step (k := State.countRefusal_keeps))
    | (with_reducible apply Walk.step (k := State.endMsh_keeps))
    | (with_reducible apply Walk.step (k := State.modMsh_keeps))
    | (with_reducible apply Walk.step (k := State.mshOnAir_keeps))
    | (with_reducible apply Walk.step (k := State.mshRefused_keeps))
    | (with_reducible refine Walk.step ?_ (State.unicastPsdu_keeps_of (by assumption)) ?_)
    | (with_reducible apply Walk.step (k := State.unicastPsdu_keeps))
    | (with_reducible apply Walk.ite)
    | (split)
    | (with_reducible refine Walk.update ?_ ?_ ?_ ?_ ?_ ?_ ?_ ?_ ?_ ?_ ?_ ?_ ?_ ?_ ?_ ?_ ?_ ?_ ?_ ?_ ?_ ?_ ?_ ?_ ?_ ?_ ?_ rfl rfl)
    | (exact .inl rfl)
    | (exact .inr rfl)
    | (show covers _ _ = true; rfl)

theorem State.formUnicast_keeps_of {x1 x2 x3 x4 x5 x6 s a1 t} (h : @State.formUnicast x1 x2 x3 x4 x5 x6 s = (t, a1)) : Keeps [.regs, .out, .cmd, .hbr, .evr, .kvt, .ing, .msh, .bil, .par, .win 1, .win 5, .win 7, .win 14, .win 18, .win 21] s t := by
  have := @State.formUnicast_keeps x1 x2 x3 x4 x5 x6 s
  rw [h] at this
  exact this

theorem State.sendUnicast_keeps {x1 x2 x3 x4 x5 x6 s} : Keeps [.regs, .out, .cmd, .hbr, .evr, .tim, .kvt, .ing, .rfx, .msh, .bil, .par, .win 1, .win 5, .win 7, .win 14, .win 18, .win 21] s (@State.sendUnicast x1 x2 x3 x4 x5 x6 s).1 := by
  unfold State.sendUnicast
  show Walk true _ _ _
  try dsimp only
  repeat' first
    | (with_reducible exact Walk.refl)
    | (with_reducible refine Walk.step ?_ (State.formUnicast_keeps_of (by assumption)) ?_)
    | (with_reducible apply Walk.step (k := State.formUnicast_keeps))
    | (with_reducible apply Walk.step (k := State.rfPass_keeps))
    | (with_reducible apply Walk.ite)
    | (show covers _ _ = true; rfl)
    | (split)

theorem State.sendUnicast_keeps_of {x1 x2 x3 x4 x5 x6 s a1 t} (h : @State.sendUnicast x1 x2 x3 x4 x5 x6 s = (t, a1)) : Keeps [.regs, .out, .cmd, .hbr, .evr, .tim, .kvt, .ing, .rfx, .msh, .bil, .par, .win 1, .win 5, .win 7, .win 14, .win 18, .win 21] s t := by
  have := @State.sendUnicast_keeps x1 x2 x3 x4 x5 x6 s
  rw [h] at this
  exact this

theorem State.queueMsh_keeps {x1 s} : Keeps [.msh] s (@State.queueMsh x1 s) := by
  unfold State.queueMsh
  show Walk true _ _ _
  repeat' first
    | (with_reducible exact Walk.refl)
    | (with_reducible apply Walk.step (k := State.setMsh_keeps))
    | (show covers _ _ = true; rfl)

theorem State.raiseCeiling_keeps {x1 s} : Keeps [.ing] s (@State.raiseCeiling x1 s) := by
  unfold State.raiseCeiling
  show Walk true _ _ _
  try dsimp only
  repeat' first
    | (with_reducible exact Walk.refl)
    | (with_reducible apply Walk.step (k := State.startJob_keeps))
    | (with_reducible apply Walk.ite)
    | (show covers _ _ = true; rfl)
    | (split)

theorem State.drawBcast_keeps {s} : Keeps [.regs, .out, .aon, .ing, .msh, .par, .win 18] s (@State.drawBcast s).2 := by
  unfold State.drawBcast
  show Walk true _ _ _
  try dsimp only
  repeat' first
    | (with_reducible exact Walk.refl)
    | (with_reducible apply Walk.step (k := State.drewCounter_keeps))
    | (with_reducible apply Walk.step (k := State.raiseCeiling_keeps))
    | (with_reducible apply Walk.step (k := State.setMsh_keeps))
    | (with_reducible apply Walk.ite)
    | (split)
    | (with_reducible refine Walk.update ?_ ?_ ?_ ?_ ?_ ?_ ?_ ?_ ?_ ?_ ?_ ?_ ?_ ?_ ?_ ?_ ?_ ?_ ?_ ?_ ?_ ?_ ?_ ?_ ?_ ?_ ?_ rfl rfl)
    | (exact .inl rfl)
    | (exact .inr rfl)
    | (show covers _ _ = true; rfl)

theorem State.drawBcast_keeps_of {s a1 t} (h : @State.drawBcast s = (a1, t)) : Keeps [.regs, .out, .aon, .ing, .msh, .par, .win 18] s t := by
  have := @State.drawBcast_keeps s
  rw [h] at this
  exact this

theorem State.raiseSync_keeps {x1 x2 s} : Keeps [.ing, .msh] s (@State.raiseSync x1 x2 s) := by
  unfold State.raiseSync
  show Walk true _ _ _
  try dsimp only
  repeat' first
    | (with_reducible exact Walk.refl)
    | (with_reducible apply Walk.step (k := State.modCtx_keeps))
    | (with_reducible apply Walk.step (k := State.setMsh_keeps))
    | (with_reducible apply Walk.ite)
    | (with_reducible refine Walk.update ?_ ?_ ?_ ?_ ?_ ?_ ?_ ?_ ?_ ?_ ?_ ?_ ?_ ?_ ?_ ?_ ?_ ?_ ?_ ?_ ?_ ?_ ?_ ?_ ?_ ?_ ?_ rfl rfl)
    | (exact .inl rfl)
    | (exact .inr rfl)
    | (show covers _ _ = true; rfl)
    | (split)

theorem State.bcastPsdu_keeps {x1 s} : Keeps [.regs, .out, .aon, .evr, .kvt, .ing, .msh, .par, .win 7, .win 14, .win 18, .win 21] s (@State.bcastPsdu x1 s).2 := by
  unfold State.bcastPsdu
  show Walk true _ _ _
  try dsimp only
  repeat' first
    | (with_reducible exact Walk.refl)
    | (with_reducible apply Walk.step (k := State.bump_keeps))
    | (with_reducible refine Walk.step ?_ (State.drawBcast_keeps_of (by assumption)) ?_)
    | (with_reducible apply Walk.step (k := State.drawBcast_keeps))
    | (with_reducible refine Walk.step ?_ (State.tagKeyOut_keeps_of (by assumption)) ?_)
    | (with_reducible apply Walk.step (k := State.tagKeyOut_keeps))
    | (split)
    | (with_reducible refine Walk.update ?_ ?_ ?_ ?_ ?_ ?_ ?_ ?_ ?_ ?_ ?_ ?_ ?_ ?_ ?_ ?_ ?_ ?_ ?_ ?_ ?_ ?_ ?_ ?_ ?_ ?_ ?_ rfl rfl)
    | (exact .inl rfl)
    | (exact .inr rfl)
    | (show covers _ _ = true; rfl)

theorem State.bcastPsdu_keeps_of {x1 s a1 t} (h : @State.bcastPsdu x1 s = (a1, t)) : Keeps [.regs, .out, .aon, .evr, .kvt, .ing, .msh, .par, .win 7, .win 14, .win 18, .win 21] s t := by
  have := @State.bcastPsdu_keeps x1 s
  rw [h] at this
  exact this

theorem State.mshSent_keeps {x1 s} : Keeps [.regs, .out, .cmd, .hbr, .msh, .bil, .win 1, .win 20] s (@State.mshSent x1 s) := by
  unfold State.mshSent
  show Walk true _ _ _
  try dsimp only
  repeat' first
    | (with_reducible exact Walk.refl)
    | (with_reducible apply Walk.step (k := State.endMsh_keeps))
    | (with_reducible apply Walk.step (k := State.modMsh_keeps))
    | (with_reducible apply Walk.step (k := State.setMsh_keeps))
    | (with_reducible apply Walk.step (k := State.sunk_keeps))
    | (with_reducible apply Walk.ite)
    | (with_reducible apply Walk.foldl)
    | (with_reducible apply Walk.foldl1)
    | (with_reducible apply Walk.foldl2)
    | (intro _)
    | (with_reducible assumption)
    | (split)
    | (with_reducible refine Walk.update ?_ ?_ ?_ ?_ ?_ ?_ ?_ ?_ ?_ ?_ ?_ ?_ ?_ ?_ ?_ ?_ ?_ ?_ ?_ ?_ ?_ ?_ ?_ ?_ ?_ ?_ ?_ rfl rfl)
    | (exact .inl rfl)
    | (exact .inr rfl)
    | (show covers _ _ = true; rfl)

theorem State.learnUplink_keeps {x1 x2 s} : Keeps [.ing, .msh] s (@State.learnUplink x1 x2 s) := by
  unfold State.learnUplink
  show Walk true _ _ _
  try dsimp only
  repeat' first
    | (with_reducible exact Walk.refl)
    | (with_reducible apply Walk.step (k := State.modCtx_keeps))
    | (split)
    | (with_reducible refine Walk.update ?_ ?_ ?_ ?_ ?_ ?_ ?_ ?_ ?_ ?_ ?_ ?_ ?_ ?_ ?_ ?_ ?_ ?_ ?_ ?_ ?_ ?_ ?_ ?_ ?_ ?_ ?_ rfl rfl)
    | (exact .inl rfl)
    | (exact .inr rfl)
    | (show covers _ _ = true; rfl)

theorem State.mshRelease_keeps {x1 s} : Keeps [.msh] s (@State.mshRelease x1 s) := by
  unfold State.mshRelease
  show Walk true _ _ _
  repeat' first
    | (with_reducible exact Walk.refl)
    | (with_reducible apply Walk.step (k := State.setMsh_keeps))
    | (show covers _ _ = true; rfl)

theorem State.mshVerdict_keeps {x1 x2 s} : Keeps [.msh] s (@State.mshVerdict x1 x2 s) := by
  unfold State.mshVerdict
  show Walk true _ _ _
  try dsimp only
  repeat' first
    | (with_reducible exact Walk.refl)
    | (with_reducible apply Walk.step (k := State.setMsh_keeps))
    | (with_reducible apply Walk.ite)
    | (with_reducible refine Walk.update ?_ ?_ ?_ ?_ ?_ ?_ ?_ ?_ ?_ ?_ ?_ ?_ ?_ ?_ ?_ ?_ ?_ ?_ ?_ ?_ ?_ ?_ ?_ ?_ ?_ ?_ ?_ rfl rfl)
    | (exact .inl rfl)
    | (exact .inr rfl)
    | (show covers _ _ = true; rfl)
    | (split)

theorem State.mshNoAck_keeps {x1 s} : Keeps [.regs, .out, .freeCtr, .cmd, .hbr, .msh, .bil, .win 1, .win 6] s (@State.mshNoAck x1 s) := by
  unfold State.mshNoAck
  show Walk true _ _ _
  try dsimp only
  repeat' first
    | (with_reducible exact Walk.refl)
    | (with_reducible apply Walk.step (k := State.bump_keeps))
    | (with_reducible apply Walk.step (k := State.drawn_keeps))
    | (with_reducible apply Walk.step (k := State.endMsh_keeps))
    | (with_reducible apply Walk.step (k := State.modMsh_keeps))
    | (with_reducible apply Walk.ite)
    | (with_reducible refine Walk.update ?_ ?_ ?_ ?_ ?_ ?_ ?_ ?_ ?_ ?_ ?_ ?_ ?_ ?_ ?_ ?_ ?_ ?_ ?_ ?_ ?_ ?_ ?_ ?_ ?_ ?_ ?_ rfl rfl)
    | (exact .inl rfl)
    | (exact .inr rfl)
    | (show covers _ _ = true; rfl)
    | (split)

theorem State.queueMac_keeps {x1 x2 x3 x4 s} : Keeps [.msh] s (@State.queueMac x1 x2 x3 x4 s) := by
  unfold State.queueMac
  show Walk true _ _ _
  try dsimp only
  repeat' first
    | (with_reducible exact Walk.refl)
    | (with_reducible apply Walk.step (k := State.queueMsh_keeps))
    | (with_reducible refine Walk.update ?_ ?_ ?_ ?_ ?_ ?_ ?_ ?_ ?_ ?_ ?_ ?_ ?_ ?_ ?_ ?_ ?_ ?_ ?_ ?_ ?_ ?_ ?_ ?_ ?_ ?_ ?_ rfl rfl)
    | (exact .inl rfl)
    | (exact .inr rfl)
    | (show covers _ _ = true; rfl)
    | (split)

theorem State.seenInsert_keeps {x1 x2 s} : Keeps [.regs, .msh, .win 6] s (@State.seenInsert x1 x2 s) := by
  unfold State.seenInsert
  show Walk true _ _ _
  try dsimp only
  repeat' first
    | (with_reducible exact Walk.refl)
    | (with_reducible apply Walk.step (k := State.bump_keeps))
    | (with_reducible apply Walk.step (k := State.setMsh_keeps))
    | (with_reducible apply Walk.ite)
    | (with_reducible refine Walk.update ?_ ?_ ?_ ?_ ?_ ?_ ?_ ?_ ?_ ?_ ?_ ?_ ?_ ?_ ?_ ?_ ?_ ?_ ?_ ?_ ?_ ?_ ?_ ?_ ?_ ?_ ?_ rfl rfl)
    | (exact .inl rfl)
    | (exact .inr rfl)
    | (show covers _ _ = true; rfl)
    | (split)

theorem State.learnFrame_keeps {x1 x2 s} : Keeps [.ing, .msh] s (@State.learnFrame x1 x2 s) := by
  unfold State.learnFrame
  show Walk true _ _ _
  try dsimp only
  repeat' first
    | (with_reducible exact Walk.refl)
    | (with_reducible apply Walk.step (k := State.modCtx_keeps))
    | (with_reducible apply Walk.step (k := State.raiseSync_keeps))
    | (with_reducible apply Walk.ite)
    | (split)
    | (with_reducible refine Walk.update ?_ ?_ ?_ ?_ ?_ ?_ ?_ ?_ ?_ ?_ ?_ ?_ ?_ ?_ ?_ ?_ ?_ ?_ ?_ ?_ ?_ ?_ ?_ ?_ ?_ ?_ ?_ rfl rfl)
    | (exact .inl rfl)
    | (exact .inr rfl)
    | (show covers _ _ = true; rfl)

theorem State.homeAgain_keeps {x1 s} : Keeps [.ing] s (@State.homeAgain x1 s) := by
  unfold State.homeAgain
  show Walk true _ _ _
  try dsimp only
  repeat' first
    | (with_reducible exact Walk.refl)
    | (with_reducible apply Walk.step (k := State.modCtx_keeps))
    | (split)
    | (with_reducible refine Walk.update ?_ ?_ ?_ ?_ ?_ ?_ ?_ ?_ ?_ ?_ ?_ ?_ ?_ ?_ ?_ ?_ ?_ ?_ ?_ ?_ ?_ ?_ ?_ ?_ ?_ ?_ ?_ rfl rfl)
    | (exact .inl rfl)
    | (exact .inr rfl)
    | (show covers _ _ = true; rfl)


theorem State.countedSend_keeps {x1 x2 x3 x4 x5 x6 s} : Keeps [.regs, .out, .cmd, .hbr, .evr, .tim, .kvt, .ing, .rfx, .msh, .bil, .par, .win 1, .win 5, .win 6, .win 7, .win 14, .win 18, .win 21] s (@State.countedSend x1 x2 x3 x4 x5 x6 s) := by
  unfold State.countedSend
  show Walk true _ _ _
  try dsimp only
  repeat' first
    | (with_reducible exact Walk.refl)
    | (with_reducible apply Walk.step (k := State.bump_keeps))
    | (with_reducible refine Walk.step ?_ (State.sendUnicast_keeps_of (by assumption)) ?_)
    | (with_reducible apply Walk.step (k := State.sendUnicast_keeps))
    | (with_reducible apply Walk.ite)
    | (split)
    | (show covers _ _ = true; rfl)

end Sys2Proof.Machine
end

