-- ==== Sys2Proof/Laws/KeepsPlcOps.lean ====
section
/-! SUPPORT. What each operation of PlcOps can change, and that it keeps the canonical forms. -/
set_option Elab.async false
namespace Sys2Proof.Machine

theorem State.plcCount_keeps {x1 s} : Keeps [.plc] s (@State.plcCount x1 s) := by
  unfold State.plcCount
  show Walk true _ _ _
  repeat' first
    | (with_reducible exact Walk.refl)
    | (with_reducible apply Walk.step (k := State.setPlc_keeps))
    | (show covers _ _ = true; rfl)

theorem State.modSend_keeps {x1 x2 s} : Keeps [.plc] s (@State.modSend x1 x2 s) := by
  unfold State.modSend
  show Walk true _ _ _
  repeat' first
    | (with_reducible exact Walk.refl)
    | (with_reducible apply Walk.step (k := State.setPlc_keeps))
    | (show covers _ _ = true; rfl)

theorem State.formPlain_keeps {x1 s} : Keeps [.plc] s (@State.formPlain x1 s).2 := by
  unfold State.formPlain
  show Walk true _ _ _
  try dsimp only
  repeat' first
    | (with_reducible exact Walk.refl)
    | (with_reducible apply Walk.step (k := State.setPlc_keeps))
    | (split)
    | (with_reducible refine Walk.update ?_ ?_ ?_ ?_ ?_ ?_ ?_ ?_ ?_ ?_ ?_ ?_ ?_ ?_ ?_ ?_ ?_ ?_ ?_ ?_ ?_ ?_ ?_ ?_ ?_ ?_ ?_ rfl rfl)
    | (exact .inl rfl)
    | (exact .inr rfl)
    | (show covers _ _ = true; rfl)

theorem State.formPlain_keeps_of {x1 s a1 t} (h : @State.formPlain x1 s = (a1, t)) : Keeps [.plc] s t := by
  have := @State.formPlain_keeps x1 s
  rw [h] at this
  exact this

theorem State.queueSend_keeps {x1 s} : Keeps [.plc] s (@State.queueSend x1 s) := by
  unfold State.queueSend
  show Walk true _ _ _
  repeat' first
    | (with_reducible exact Walk.refl)
    | (with_reducible apply Walk.step (k := State.setPlc_keeps))
    | (with_reducible refine Walk.step ?_ (State.formPlain_keeps_of (by assumption)) ?_)
    | (with_reducible apply Walk.step (k := State.formPlain_keeps))
    | (show covers _ _ = true; rfl)
    | (split)

theorem State.plcNotice_keeps {x1 x2 x3 x4 x5 s} : Keeps [.regs, .out, .hbr, .win 1] s (@State.plcNotice x1 x2 x3 x4 x5 s) := by
  unfold State.plcNotice
  show Walk true _ _ _
  repeat' first
    | (with_reducible exact Walk.refl)
    | (with_reducible apply Walk.step (k := State.eventFor_keeps))
    | (show covers _ _ = true; rfl)

theorem State.pickRoute_keeps {x1 s} : Keeps [.regs, .out, .hbr, .ing, .plc, .win 1] s (@State.pickRoute x1 s).2 := by
  unfold State.pickRoute
  show Walk true _ _ _
  try dsimp only
  repeat' first
    | (with_reducible exact Walk.refl)
    | (with_reducible apply Walk.step (k := State.setCtx_keeps))
    | (with_reducible apply Walk.step (k := State.plcCount_keeps))
    | (with_reducible apply Walk.step (k := State.plcNotice_keeps))
    | (show covers _ _ = true; rfl)
    | (split)
theorem State.pickRoute_keeps_of {x1 s a1 t} (h : @State.pickRoute x1 s = (a1, t)) : Keeps [.regs, .out, .hbr, .ing, .plc, .win 1] s t := by
  have := @State.pickRoute_keeps x1 s
  rw [h] at this
  exact this

theorem State.startDisc_keeps {x1 s} : Keeps [.plc] s (@State.startDisc x1 s) := by
  unfold State.startDisc
  show Walk true _ _ _
  try dsimp only
  repeat' first
    | (with_reducible exact Walk.refl)
    | (with_reducible apply Walk.step (k := State.plcCount_keeps))
    | (with_reducible apply Walk.step (k := State.queueSend_keeps))
    | (with_reducible apply Walk.step (k := State.setPlc_keeps))
    | (with_reducible apply Walk.ite)
    | (with_reducible refine Walk.update ?_ ?_ ?_ ?_ ?_ ?_ ?_ ?_ ?_ ?_ ?_ ?_ ?_ ?_ ?_ ?_ ?_ ?_ ?_ ?_ ?_ ?_ ?_ ?_ ?_ ?_ ?_ rfl rfl)
    | (exact .inl rfl)
    | (exact .inr rfl)
    | (show covers _ _ = true; rfl)
    | (split)

theorem State.goOnAir_keeps {x1 x2 x3 x4 x5 x6 x7 s} : Keeps [.regs, .out, .seam, .plc, .win 4] s (@State.goOnAir x1 x2 x3 x4 x5 x6 x7 s) := by
  unfold State.goOnAir
  show Walk true _ _ _
  try dsimp only
  repeat' first
    | (with_reducible exact Walk.refl)
    | (with_reducible apply Walk.step (k := State.bumpBy_keeps))
    | (with_reducible apply Walk.step (k := State.emit_keeps))
    | (with_reducible apply Walk.step (k := State.seamSend_keeps))
    | (with_reducible apply Walk.step (k := State.setPlc_keeps))
    | (with_reducible refine Walk.update ?_ ?_ ?_ ?_ ?_ ?_ ?_ ?_ ?_ ?_ ?_ ?_ ?_ ?_ ?_ ?_ ?_ ?_ ?_ ?_ ?_ ?_ ?_ ?_ ?_ ?_ ?_ rfl rfl)
    | (exact .inl rfl)
    | (exact .inr rfl)
    | (show covers _ _ = true; rfl)
    | (split)

theorem State.loadTxSet_keeps {x1 x2 x3 x4 s} : Keeps [.ing, .plc] s (@State.loadTxSet x1 x2 x3 x4 s) := by
  unfold State.loadTxSet
  show Walk true _ _ _
  repeat' first
    | (with_reducible exact Walk.refl)
    | (with_reducible apply Walk.step (k := State.modCtx_keeps))
    | (with_reducible apply Walk.step (k := State.setPlc_keeps))
    | (show covers _ _ = true; rfl)

theorem State.modNbr_keeps {x1 x2 s} : Keeps [.plc] s (@State.modNbr x1 x2 s) := by
  unfold State.modNbr
  show Walk true _ _ _
  repeat' first
    | (with_reducible exact Walk.refl)
    | (with_reducible apply Walk.step (k := State.setPlc_keeps))
    | (show covers _ _ = true; rfl)

theorem State.sendOwn_keeps {x1 x2 x3 x4 s} : Keeps [.regs, .out, .hbr, .ing, .plc, .win 1] s (@State.sendOwn x1 x2 x3 x4 s) := by
  unfold State.sendOwn
  show Walk true _ _ _
  try dsimp only
  repeat' first
    | (with_reducible exact Walk.refl)
    | (with_reducible refine Walk.step ?_ (State.pickRoute_keeps_of (by assumption)) ?_)
    | (with_reducible apply Walk.step (k := State.pickRoute_keeps))
    | (with_reducible apply Walk.step (k := State.queueSend_keeps))
    | (with_reducible apply Walk.ite)
    | (show covers _ _ = true; rfl)
    | (split)

theorem State.sendTmreq_keeps {x1 x2 s} : Keeps [.regs, .out, .hbr, .ing, .plc, .win 1] s (@State.sendTmreq x1 x2 s) := by
  unfold State.sendTmreq
  show Walk true _ _ _
  try dsimp only
  repeat' first
    | (with_reducible exact Walk.refl)
    | (with_reducible apply Walk.step (k := State.modNbr_keeps))
    | (with_reducible apply Walk.step (k := State.plcCount_keeps))
    | (with_reducible apply Walk.step (k := State.sendOwn_keeps))
    | (with_reducible apply Walk.ite)
    | (split)
    | (with_reducible refine Walk.update ?_ ?_ ?_ ?_ ?_ ?_ ?_ ?_ ?_ ?_ ?_ ?_ ?_ ?_ ?_ ?_ ?_ ?_ ?_ ?_ ?_ ?_ ?_ ?_ ?_ ?_ ?_ rfl rfl)
    | (exact .inl rfl)
    | (exact .inr rfl)
    | (show covers _ _ = true; rfl)

theorem State.dropSend_keeps {x1 s} : Keeps [.plc] s (@State.dropSend x1 s) := by
  unfold State.dropSend
  show Walk true _ _ _
  repeat' first
    | (with_reducible exact Walk.refl)
    | (with_reducible apply Walk.step (k := State.setPlc_keeps))
    | (show covers _ _ = true; rfl)

theorem State.endSend_keeps {x1 x2 x3 s} : Keeps [.cmd, .plc, .bil] s (@State.endSend x1 x2 x3 s) := by
  unfold State.endSend
  show Walk true _ _ _
  repeat' first
    | (with_reducible exact Walk.refl)
    | (with_reducible apply Walk.step (k := State.replyWith_keeps))
    | (with_reducible apply Walk.step (k := State.dropSend_keeps))
    | (show covers _ _ = true; rfl)
    | (split)

theorem State.dropTxSet_keeps {x1 s} : Keeps [.ing, .plc] s (@State.dropTxSet x1 s) := by
  unfold State.dropTxSet
  show Walk true _ _ _
  repeat' first
    | (with_reducible exact Walk.refl)
    | (with_reducible apply Walk.step (k := State.setPlc_keeps))
    | (with_reducible apply Walk.step (k := State.modCtx_keeps))
    | (show covers _ _ = true; rfl)
    | (split)

theorem State.releaseHandle_keeps {x1 s} : Keeps [.plc] s (@State.releaseHandle x1 s) := by
  unfold State.releaseHandle
  show Walk true _ _ _
  repeat' first
    | (with_reducible exact Walk.refl)
    | (with_reducible apply Walk.step (k := State.setPlc_keeps))
    | (show covers _ _ = true; rfl)
    | (split)

theorem State.plcRelease_keeps {x1 s} : Keeps [.ing, .plc] s (@State.plcRelease x1 s) := by
  unfold State.plcRelease
  show Walk true _ _ _
  try dsimp only
  repeat' first
    | (with_reducible exact Walk.refl)
    | (with_reducible apply Walk.step (k := State.dropTxSet_keeps))
    | (with_reducible apply Walk.step (k := State.releaseHandle_keeps))
    | (with_reducible apply Walk.step (k := State.setPlc_keeps))
    | (with_reducible refine Walk.update ?_ ?_ ?_ ?_ ?_ ?_ ?_ ?_ ?_ ?_ ?_ ?_ ?_ ?_ ?_ ?_ ?_ ?_ ?_ ?_ ?_ ?_ ?_ ?_ ?_ ?_ ?_ rfl rfl)
    | (exact .inl rfl)
    | (exact .inr rfl)
    | (show covers _ _ = true; rfl)
    | (split)

theorem State.chooseHandle_keeps {x1 s} : Keeps [.plc] s (@State.chooseHandle x1 s).2 := by
  unfold State.chooseHandle
  show Walk true _ _ _
  repeat' first
    | (with_reducible exact Walk.refl)
    | (with_reducible apply Walk.step (k := State.setPlc_keeps))
    | (with_reducible apply Walk.step (k := State.plcCount_keeps))
    | (show covers _ _ = true; rfl)
    | (split)
theorem State.chooseHandle_keeps_of {x1 s a1 t} (h : @State.chooseHandle x1 s = (a1, t)) : Keeps [.plc] s t := by
  have := @State.chooseHandle_keeps x1 s
  rw [h] at this
  exact this

theorem State.issueMap_keeps {x1 s} : Keeps [.regs, .out, .hbr, .ing, .plc, .win 1] s (@State.issueMap x1 s) := by
  unfold State.issueMap
  show Walk true _ _ _
  try dsimp only
  repeat' first
    | (with_reducible exact Walk.refl)
    | (with_reducible refine Walk.step ?_ (State.chooseHandle_keeps_of (by assumption)) ?_)
    | (with_reducible apply Walk.step (k := State.chooseHandle_keeps))
    | (with_reducible apply Walk.step (k := State.modCtx_keeps))
    | (with_reducible apply Walk.step (k := State.modNbr_keeps))
    | (with_reducible apply Walk.step (k := State.plcCount_keeps))
    | (with_reducible apply Walk.step (k := State.plcNotice_keeps))
    | (with_reducible apply Walk.step (k := State.releaseHandle_keeps))
    | (with_reducible apply Walk.step (k := State.sendOwn_keeps))
    | (with_reducible apply Walk.step (k := State.setPlc_keeps))
    | (with_reducible apply Walk.ite)
    | (split)
    | (with_reducible refine Walk.update ?_ ?_ ?_ ?_ ?_ ?_ ?_ ?_ ?_ ?_ ?_ ?_ ?_ ?_ ?_ ?_ ?_ ?_ ?_ ?_ ?_ ?_ ?_ ?_ ?_ ?_ ?_ rfl rfl)
    | (exact .inl rfl)
    | (exact .inr rfl)
    | (show covers _ _ = true; rfl)

theorem State.discLook_keeps {s} : Keeps [.plc] s (@State.discLook s) := by
  unfold State.discLook
  show Walk true _ _ _
  try dsimp only
  repeat' first
    | (with_reducible exact Walk.refl)
    | (with_reducible apply Walk.step (k := State.setPlc_keeps))
    | (with_reducible apply Walk.step (k := State.startDisc_keeps))
    | (with_reducible apply Walk.ite)
    | (split)
    | (with_reducible refine Walk.update ?_ ?_ ?_ ?_ ?_ ?_ ?_ ?_ ?_ ?_ ?_ ?_ ?_ ?_ ?_ ?_ ?_ ?_ ?_ ?_ ?_ ?_ ?_ ?_ ?_ ?_ ?_ rfl rfl)
    | (exact .inl rfl)
    | (exact .inr rfl)
    | (show covers _ _ = true; rfl)

theorem State.plcTick_keeps {s} : Keeps [.plc] s (@State.plcTick s) := by
  unfold State.plcTick
  show Walk true _ _ _
  try dsimp only
  repeat' first
    | (with_reducible exact Walk.refl)
    | (with_reducible apply Walk.step (k := State.discLook_keeps))
    | (with_reducible apply Walk.step (k := State.zcLook_keeps))
    | (show covers _ _ = true; rfl)
    | (split)

theorem State.forgetSets_keeps {s} : Keeps [.ing] s (@State.forgetSets s) := by
  unfold State.forgetSets
  show Walk true _ _ _
  try dsimp only
  repeat' first
    | (with_reducible exact Walk.refl)
    | (with_reducible refine Walk.update ?_ ?_ ?_ ?_ ?_ ?_ ?_ ?_ ?_ ?_ ?_ ?_ ?_ ?_ ?_ ?_ ?_ ?_ ?_ ?_ ?_ ?_ ?_ ?_ ?_ ?_ ?_ rfl rfl)
    | (exact .inl rfl)
    | (exact .inr rfl)
    | (show covers _ _ = true; rfl)
    | (split)

end Sys2Proof.Machine
end

