-- ==== Sys2Proof/Laws/KeepsPlcRx.lean ====
section
/-! SUPPORT. What each operation of PlcRx can change, and that it keeps the canonical forms. -/
set_option Elab.async false
namespace Sys2Proof.Machine

theorem State.collectRdisc_keeps {x1 s} : Keeps [.plc] s (@State.collectRdisc x1 s) := by
  unfold State.collectRdisc
  show Walk true _ _ _
  try dsimp only
  repeat' first
    | (with_reducible exact Walk.refl)
    | (with_reducible apply Walk.step (k := State.plcCount_keeps))
    | (with_reducible apply Walk.step (k := State.setPlc_keeps))
    | (with_reducible apply Walk.ite)
    | (with_reducible refine Walk.update ?_ ?_ ?_ ?_ ?_ ?_ ?_ ?_ ?_ ?_ ?_ ?_ ?_ ?_ ?_ ?_ ?_ ?_ ?_ ?_ ?_ ?_ ?_ ?_ ?_ ?_ ?_ rfl rfl)
    | (exact .inl rfl)
    | (exact .inr rfl)
    | (show covers _ _ = true; rfl)
    | (split)

theorem State.phrGo_keeps {x1 x2 s} : Keeps [.regs, .plc, .win 4] s (@State.phrGo x1 x2 s) := by
  unfold State.phrGo
  show Walk true _ _ _
  try dsimp only
  repeat' first
    | (with_reducible exact Walk.refl)
    | (with_reducible apply Walk.step (k := State.bump_keeps))
    | (with_reducible apply Walk.step (k := State.setPlc_keeps))
    | (with_reducible apply Walk.ite)
    | (with_reducible refine Walk.update ?_ ?_ ?_ ?_ ?_ ?_ ?_ ?_ ?_ ?_ ?_ ?_ ?_ ?_ ?_ ?_ ?_ ?_ ?_ ?_ ?_ ?_ ?_ ?_ ?_ ?_ ?_ rfl rfl)
    | (exact .inl rfl)
    | (exact .inr rfl)
    | (show covers _ _ = true; rfl)
    | (split)

theorem State.phrDecide_keeps {x1 x2 x3 s} : Keeps [.regs, .plc, .win 4] s (@State.phrDecide x1 x2 x3 s) := by
  unfold State.phrDecide
  show Walk true _ _ _
  try dsimp only
  repeat' first
    | (with_reducible exact Walk.refl)
    | (with_reducible apply Walk.step (k := State.bump_keeps))
    | (with_reducible apply Walk.step (k := State.phrGo_keeps))
    | (with_reducible apply Walk.step (k := State.setPlc_keeps))
    | (with_reducible apply Walk.foldl)
    | (with_reducible apply Walk.foldl1)
    | (with_reducible apply Walk.foldl2)
    | (intro _)
    | (with_reducible assumption)
    | (split)
    | (with_reducible refine Walk.update ?_ ?_ ?_ ?_ ?_ ?_ ?_ ?_ ?_ ?_ ?_ ?_ ?_ ?_ ?_ ?_ ?_ ?_ ?_ ?_ ?_ ?_ ?_ ?_ ?_ ?_ ?_ rfl rfl)
    | (exact .inl rfl)
    | (exact .inr rfl)
    | (show covers _ _ = true; rfl)

theorem execPlcCodewordDecode_keeps {x1 x2 x3 s t} (h : @execPlcCodewordDecode x1 x2 x3 s = .next t) : Keeps [.regs, .plc, .win 4] s t := by
  unfold execPlcCodewordDecode at h
  have e := Host.Outcome.next.inj h
  subst e
  clear h
  show Walk true _ _ _
  try dsimp only
  repeat' first
    | (with_reducible exact Walk.refl)
    | (with_reducible apply Walk.step (k := State.bumpBy_keeps))
    | (with_reducible apply Walk.step (k := State.setPlc_keeps))
    | (with_reducible apply Walk.ite)
    | (with_reducible apply Walk.foldl)
    | (with_reducible apply Walk.foldl1)
    | (with_reducible apply Walk.foldl2)
    | (intro _)
    | (with_reducible assumption)
    | (split)
    | (with_reducible refine Walk.update ?_ ?_ ?_ ?_ ?_ ?_ ?_ ?_ ?_ ?_ ?_ ?_ ?_ ?_ ?_ ?_ ?_ ?_ ?_ ?_ ?_ ?_ ?_ ?_ ?_ ?_ ?_ rfl rfl)
    | (exact .inl rfl)
    | (exact .inr rfl)
    | (show covers _ _ = true; rfl)

theorem execTmapAgeExpiry_keeps {x1 s t} (h : @execTmapAgeExpiry x1 s = .next t) : Keeps [.regs, .out, .hbr, .ing, .plc, .win 1] s t := by
  unfold execTmapAgeExpiry at h
  have e := Host.Outcome.next.inj h
  subst e
  clear h
  show Walk true _ _ _
  try dsimp only
  repeat' first
    | (with_reducible exact Walk.refl)
    | (with_reducible apply Walk.step (k := State.issueMap_keeps))
    | (with_reducible apply Walk.step (k := State.sendTmreq_keeps))
    | (with_reducible apply Walk.ite)
    | (show covers _ _ = true; rfl)
    | (split)

theorem execZcMetCrossing_keeps {x1 x2 x3 s t} (h : @execZcMetCrossing x1 x2 x3 s = .next t) : Keeps [.plc] s t := by
  unfold execZcMetCrossing at h
  have e := Host.Outcome.next.inj h
  subst e
  clear h
  show Walk true _ _ _
  try dsimp only
  repeat' first
    | (with_reducible exact Walk.refl)
    | (with_reducible apply Walk.step (k := State.setPlc_keeps))
    | (with_reducible apply Walk.step (k := State.zcCross_keeps))
    | (with_reducible apply Walk.step (k := State.zcInvalid_keeps))
    | (with_reducible apply Walk.step (k := State.zcValid_keeps))
    | (with_reducible apply Walk.ite)
    | (with_reducible refine Walk.update ?_ ?_ ?_ ?_ ?_ ?_ ?_ ?_ ?_ ?_ ?_ ?_ ?_ ?_ ?_ ?_ ?_ ?_ ?_ ?_ ?_ ?_ ?_ ?_ ?_ ?_ ?_ rfl rfl)
    | (exact .inl rfl)
    | (exact .inr rfl)
    | (show covers _ _ = true; rfl)
    | (split)

theorem State.releaseWaiting_keeps {x1 s} : Keeps [.regs, .out, .cmd, .hbr, .ing, .plc, .bil, .win 1] s (@State.releaseWaiting x1 s) := by
  unfold State.releaseWaiting
  show Walk true _ _ _
  try dsimp only
  repeat' first
    | (with_reducible exact Walk.refl)
    | (with_reducible apply Walk.step (k := State.endSend_keeps))
    | (with_reducible refine Walk.step ?_ (State.formPlain_keeps_of (by assumption)) ?_)
    | (with_reducible apply Walk.step (k := State.formPlain_keeps))
    | (with_reducible apply Walk.step (k := State.modSend_keeps))
    | (with_reducible refine Walk.step ?_ (State.pickRoute_keeps_of (by assumption)) ?_)
    | (with_reducible apply Walk.step (k := State.pickRoute_keeps))
    | (with_reducible apply Walk.ite)
    | (with_reducible apply Walk.foldl)
    | (with_reducible apply Walk.foldl1)
    | (with_reducible apply Walk.foldl2)
    | (intro _)
    | (with_reducible assumption)
    | (split)
    | (with_reducible refine Walk.update ?_ ?_ ?_ ?_ ?_ ?_ ?_ ?_ ?_ ?_ ?_ ?_ ?_ ?_ ?_ ?_ ?_ ?_ ?_ ?_ ?_ ?_ ?_ ?_ ?_ ?_ ?_ rfl rfl)
    | (exact .inl rfl)
    | (exact .inr rfl)
    | (show covers _ _ = true; rfl)

theorem execRrepWaitExpiry_keeps {x1 s t} (h : @execRrepWaitExpiry x1 s = .next t) : Keeps [.regs, .out, .cmd, .hbr, .ing, .plc, .bil, .win 1] s t := by
  unfold execRrepWaitExpiry at h
  have e := Host.Outcome.next.inj h
  subst e
  clear h
  show Walk true _ _ _
  try dsimp only
  repeat' first
    | (with_reducible exact Walk.refl)
    | (with_reducible apply Walk.step (k := State.endSend_keeps))
    | (with_reducible apply Walk.step (k := State.releaseWaiting_keeps))
    | (with_reducible apply Walk.step (k := State.setPlc_keeps))
    | (with_reducible apply Walk.ite)
    | (with_reducible apply Walk.foldl)
    | (with_reducible apply Walk.foldl1)
    | (with_reducible apply Walk.foldl2)
    | (intro _)
    | (with_reducible assumption)
    | (with_reducible refine Walk.update ?_ ?_ ?_ ?_ ?_ ?_ ?_ ?_ ?_ ?_ ?_ ?_ ?_ ?_ ?_ ?_ ?_ ?_ ?_ ?_ ?_ ?_ ?_ ?_ ?_ ?_ ?_ rfl rfl)
    | (exact .inl rfl)
    | (exact .inr rfl)
    | (show covers _ _ = true; rfl)
    | (split)

theorem execZcSourceLoss_keeps {s t} (h : @execZcSourceLoss s = .next t) : Keeps [.plc] s t := by
  unfold execZcSourceLoss at h
  have e := Host.Outcome.next.inj h
  subst e
  clear h
  show Walk true _ _ _
  try dsimp only
  repeat' first
    | (with_reducible exact Walk.refl)
    | (with_reducible apply Walk.step (k := State.zcLose_keeps))
    | (with_reducible apply Walk.ite)
    | (show covers _ _ = true; rfl)
    | (split)

theorem State.learnHop_keeps {x1 x2 x3 x4 s} : Keeps [.ing, .plc] s (@State.learnHop x1 x2 x3 x4 s) := by
  unfold State.learnHop
  show Walk true _ _ _
  try dsimp only
  repeat' first
    | (with_reducible exact Walk.refl)
    | (with_reducible apply Walk.step (k := State.modCtx_keeps))
    | (with_reducible apply Walk.step (k := State.modNbr_keeps))
    | (with_reducible apply Walk.ite)
    | (with_reducible apply Walk.foldl)
    | (with_reducible apply Walk.foldl1)
    | (with_reducible apply Walk.foldl2)
    | (intro _)
    | (with_reducible assumption)
    | (split)
    | (with_reducible refine Walk.update ?_ ?_ ?_ ?_ ?_ ?_ ?_ ?_ ?_ ?_ ?_ ?_ ?_ ?_ ?_ ?_ ?_ ?_ ?_ ?_ ?_ ?_ ?_ ?_ ?_ ?_ ?_ rfl rfl)
    | (exact .inl rfl)
    | (exact .inr rfl)
    | (show covers _ _ = true; rfl)

theorem State.oweAck_keeps {x1 s} : Keeps [.plc] s (@State.oweAck x1 s) := by
  unfold State.oweAck
  show Walk true _ _ _
  try dsimp only
  repeat' first
    | (with_reducible exact Walk.refl)
    | (with_reducible apply Walk.step (k := State.plcCount_keeps))
    | (with_reducible apply Walk.step (k := State.setPlc_keeps))
    | (with_reducible apply Walk.ite)
    | (split)
    | (with_reducible refine Walk.update ?_ ?_ ?_ ?_ ?_ ?_ ?_ ?_ ?_ ?_ ?_ ?_ ?_ ?_ ?_ ?_ ?_ ?_ ?_ ?_ ?_ ?_ ?_ ?_ ?_ ?_ ?_ rfl rfl)
    | (exact .inl rfl)
    | (exact .inr rfl)
    | (show covers _ _ = true; rfl)

theorem State.takeFrame_keeps {x1 x2 x3 x4 x5 x6 s} : Keeps [.regs, .out, .hbr, .ing, .plc, .fse, .win 1] s (@State.takeFrame x1 x2 x3 x4 x5 x6 s) := by
  unfold State.takeFrame
  show Walk true _ _ _
  try dsimp only
  repeat' first
    | (with_reducible exact Walk.refl)
    | (with_reducible apply Walk.step (k := State.issueMap_keeps))
    | (with_reducible apply Walk.step (k := State.learnHop_keeps))
    | (with_reducible apply Walk.step (k := State.oweAck_keeps))
    | (with_reducible apply Walk.step (k := State.plcCount_keeps))
    | (with_reducible apply Walk.step (k := State.setPlc_keeps))
    | (with_reducible apply Walk.ite)
    | (with_reducible apply Walk.foldl)
    | (with_reducible apply Walk.foldl1)
    | (with_reducible apply Walk.foldl2)
    | (intro _)
    | (with_reducible assumption)
    | (split)
    | (with_reducible refine Walk.update ?_ ?_ ?_ ?_ ?_ ?_ ?_ ?_ ?_ ?_ ?_ ?_ ?_ ?_ ?_ ?_ ?_ ?_ ?_ ?_ ?_ ?_ ?_ ?_ ?_ ?_ ?_ rfl rfl)
    | (exact .inl rfl)
    | (exact .inr rfl)
    | (show covers _ _ = true; rfl)

theorem State.handoff_keeps {x1 x2 x3 x4 s} : Keeps [.regs, .out, .hbr, .ing, .plc, .fse, .win 1] s (@State.handoff x1 x2 x3 x4 s) := by
  unfold State.handoff
  show Walk true _ _ _
  try dsimp only
  repeat' first
    | (with_reducible exact Walk.refl)
    | (with_reducible apply Walk.step (k := State.plcCount_keeps))
    | (with_reducible apply Walk.step (k := State.takeFrame_keeps))
    | (show covers _ _ = true; rfl)
    | (split)

theorem execPlcFrameHandoff_keeps {x1 x2 x3 s t} (h : @execPlcFrameHandoff x1 x2 x3 s = .next t) : Keeps [.regs, .out, .hbr, .ing, .plc, .fse, .win 1, .win 4] s t := by
  unfold execPlcFrameHandoff at h
  have e := Host.Outcome.next.inj h
  subst e
  clear h
  show Walk true _ _ _
  try dsimp only
  repeat' first
    | (with_reducible exact Walk.refl)
    | (with_reducible apply Walk.step (k := State.bump_keeps))
    | (with_reducible apply Walk.step (k := State.handoff_keeps))
    | (with_reducible apply Walk.step (k := State.setPlc_keeps))
    | (with_reducible apply Walk.ite)
    | (split)
    | (with_reducible refine Walk.update ?_ ?_ ?_ ?_ ?_ ?_ ?_ ?_ ?_ ?_ ?_ ?_ ?_ ?_ ?_ ?_ ?_ ?_ ?_ ?_ ?_ ?_ ?_ ?_ ?_ ?_ ?_ rfl rfl)
    | (exact .inl rfl)
    | (exact .inr rfl)
    | (show covers _ _ = true; rfl)

theorem State.plcVerdict_keeps {x1 x2 s} : Keeps [.plc] s (@State.plcVerdict x1 x2 s) := by
  unfold State.plcVerdict
  show Walk true _ _ _
  try dsimp only
  repeat' first
    | (with_reducible exact Walk.refl)
    | (with_reducible apply Walk.step (k := State.setPlc_keeps))
    | (with_reducible apply Walk.ite)
    | (with_reducible refine Walk.update ?_ ?_ ?_ ?_ ?_ ?_ ?_ ?_ ?_ ?_ ?_ ?_ ?_ ?_ ?_ ?_ ?_ ?_ ?_ ?_ ?_ ?_ ?_ ?_ ?_ ?_ ?_ rfl rfl)
    | (exact .inl rfl)
    | (exact .inr rfl)
    | (show covers _ _ = true; rfl)
    | (split)

theorem execPlcNoiseClear_keeps {s t} (h : @execPlcNoiseClear s = .next t) : Keeps [.regs, .plc, .win 4] s t := by
  unfold execPlcNoiseClear at h
  have e := Host.Outcome.next.inj h
  subst e
  clear h
  show Walk true _ _ _
  repeat' first
    | (with_reducible exact Walk.refl)
    | (with_reducible apply Walk.step (k := State.setRegBit_keeps))
    | (with_reducible apply Walk.step (k := State.setPlc_keeps))
    | (show covers _ _ = true; rfl)

theorem State.answerRdisc_keeps {x1 s} : Keeps [.regs, .out, .hbr, .ing, .plc, .win 1] s (@State.answerRdisc x1 s) := by
  unfold State.answerRdisc
  show Walk true _ _ _
  try dsimp only
  repeat' first
    | (with_reducible exact Walk.refl)
    | (with_reducible apply Walk.step (k := State.plcCount_keeps))
    | (with_reducible apply Walk.step (k := State.sendOwn_keeps))
    | (show covers _ _ = true; rfl)
    | (split)

theorem execRdiscCollectEnd_keeps {x1 x2 s t} (h : @execRdiscCollectEnd x1 x2 s = .next t) : Keeps [.regs, .out, .hbr, .ing, .plc, .win 1] s t := by
  unfold execRdiscCollectEnd at h
  have e := Host.Outcome.next.inj h
  subst e
  clear h
  show Walk true _ _ _
  try dsimp only
  repeat' first
    | (with_reducible exact Walk.refl)
    | (with_reducible apply Walk.step (k := State.answerRdisc_keeps))
    | (with_reducible apply Walk.step (k := State.setPlc_keeps))
    | (split)
    | (with_reducible refine Walk.update ?_ ?_ ?_ ?_ ?_ ?_ ?_ ?_ ?_ ?_ ?_ ?_ ?_ ?_ ?_ ?_ ?_ ?_ ?_ ?_ ?_ ?_ ?_ ?_ ?_ ?_ ?_ rfl rfl)
    | (exact .inl rfl)
    | (exact .inr rfl)
    | (show covers _ _ = true; rfl)

theorem State.noiseWindow_keeps {x1 s} : Keeps [.plc] s (@State.noiseWindow x1 s) := by
  unfold State.noiseWindow
  show Walk true _ _ _
  try dsimp only
  repeat' first
    | (with_reducible exact Walk.refl)
    | (with_reducible apply Walk.step (k := State.setPlc_keeps))
    | (with_reducible apply Walk.foldl)
    | (with_reducible apply Walk.foldl1)
    | (with_reducible apply Walk.foldl2)
    | (intro _)
    | (with_reducible assumption)
    | (with_reducible refine Walk.update ?_ ?_ ?_ ?_ ?_ ?_ ?_ ?_ ?_ ?_ ?_ ?_ ?_ ?_ ?_ ?_ ?_ ?_ ?_ ?_ ?_ ?_ ?_ ?_ ?_ ?_ ?_ rfl rfl)
    | (exact .inl rfl)
    | (exact .inr rfl)
    | (show covers _ _ = true; rfl)
    | (split)

theorem State.lbtWindow_keeps {x1 s} : Keeps [.plc] s (@State.lbtWindow x1 s) := by
  unfold State.lbtWindow
  show Walk true _ _ _
  try dsimp only
  repeat' first
    | (with_reducible exact Walk.refl)
    | (with_reducible apply Walk.step (k := State.setPlc_keeps))
    | (with_reducible apply Walk.ite)
    | (with_reducible refine Walk.update ?_ ?_ ?_ ?_ ?_ ?_ ?_ ?_ ?_ ?_ ?_ ?_ ?_ ?_ ?_ ?_ ?_ ?_ ?_ ?_ ?_ ?_ ?_ ?_ ?_ ?_ ?_ rfl rfl)
    | (exact .inl rfl)
    | (exact .inr rfl)
    | (show covers _ _ = true; rfl)
    | (split)

theorem execPlcSymbolReceived_keeps {x1 s t} (h : @execPlcSymbolReceived x1 s = .next t) : Keeps [.out, .seam, .plc] s t := by
  unfold execPlcSymbolReceived at h
  have e := Host.Outcome.next.inj h
  subst e
  clear h
  show Walk true _ _ _
  try dsimp only
  repeat' first
    | (with_reducible exact Walk.refl)
    | (with_reducible apply Walk.step (k := State.lbtWindow_keeps))
    | (with_reducible apply Walk.step (k := State.noiseWindow_keeps))
    | (with_reducible apply Walk.step (k := State.seamSend_keeps))
    | (with_reducible apply Walk.ite)
    | (show covers _ _ = true; rfl)
    | (split)

theorem execPlcPreambleDetect_keeps {x1 s t} (h : @execPlcPreambleDetect x1 s = .next t) : Keeps [.regs, .plc, .win 4] s t := by
  unfold execPlcPreambleDetect at h
  have e := Host.Outcome.next.inj h
  subst e
  clear h
  show Walk true _ _ _
  try dsimp only
  repeat' first
    | (with_reducible exact Walk.refl)
    | (with_reducible apply Walk.step (k := State.bump_keeps))
    | (with_reducible apply Walk.step (k := State.setPlc_keeps))
    | (with_reducible apply Walk.ite)
    | (with_reducible refine Walk.update ?_ ?_ ?_ ?_ ?_ ?_ ?_ ?_ ?_ ?_ ?_ ?_ ?_ ?_ ?_ ?_ ?_ ?_ ?_ ?_ ?_ ?_ ?_ ?_ ?_ ?_ ?_ rfl rfl)
    | (exact .inl rfl)
    | (exact .inr rfl)
    | (show covers _ _ = true; rfl)
    | (split)

theorem State.takeInbox_keeps_of {x1 s a1 t} (h : @State.takeInbox x1 s = some (a1, t)) : Keeps [.plc] s t := by
  unfold State.takeInbox at h
  repeat' split at h
  all_goals cases h
  show Walk true _ _ _
  repeat' first
    | (with_reducible exact Walk.refl)
    | (with_reducible apply Walk.step (k := State.setPlc_keeps))
    | (show covers _ _ = true; rfl)

theorem State.takeRerr_keeps {x1 s} : Keeps [.regs, .out, .hbr, .ing, .plc, .win 1] s (@State.takeRerr x1 s) := by
  unfold State.takeRerr
  show Walk true _ _ _
  try dsimp only
  repeat' first
    | (with_reducible exact Walk.refl)
    | (with_reducible apply Walk.step (k := State.plcCount_keeps))
    | (with_reducible apply Walk.step (k := State.setCtx_keeps))
    | (with_reducible apply Walk.step (k := State.plcNotice_keeps))
    | (show covers _ _ = true; rfl)
    | (split)

theorem execRerrReceived_keeps {s t} (h : @execRerrReceived s = .next t) : Keeps [.regs, .out, .hbr, .ing, .plc, .win 1] s t := by
  unfold execRerrReceived at h
  have e := Host.Outcome.next.inj h
  subst e
  clear h
  show Walk true _ _ _
  repeat' first
    | (with_reducible exact Walk.refl)
    | (with_reducible refine Walk.step ?_ (State.takeInbox_keeps_of (by assumption)) ?_)
    | (with_reducible apply Walk.step (k := State.takeRerr_keeps))
    | (show covers _ _ = true; rfl)
    | (split)

theorem State.takeTmrsp_keeps {x1 s} : Keeps [.ing, .plc] s (@State.takeTmrsp x1 s) := by
  unfold State.takeTmrsp
  show Walk true _ _ _
  try dsimp only
  repeat' first
    | (with_reducible exact Walk.refl)
    | (with_reducible apply Walk.step (k := State.plcCount_keeps))
    | (with_reducible apply Walk.step (k := State.loadTxSet_keeps))
    | (show covers _ _ = true; rfl)
    | (split)

theorem execTmrspReceived_keeps {s t} (h : @execTmrspReceived s = .next t) : Keeps [.ing, .plc] s t := by
  unfold execTmrspReceived at h
  have e := Host.Outcome.next.inj h
  subst e
  clear h
  show Walk true _ _ _
  repeat' first
    | (with_reducible exact Walk.refl)
    | (with_reducible refine Walk.step ?_ (State.takeInbox_keeps_of (by assumption)) ?_)
    | (with_reducible apply Walk.step (k := State.takeTmrsp_keeps))
    | (show covers _ _ = true; rfl)
    | (split)

theorem State.takeRrep_keeps {x1 s} : Keeps [.regs, .out, .cmd, .hbr, .ing, .plc, .bil, .win 1] s (@State.takeRrep x1 s) := by
  unfold State.takeRrep
  show Walk true _ _ _
  try dsimp only
  repeat' first
    | (with_reducible exact Walk.refl)
    | (with_reducible apply Walk.step (k := State.modCtx_keeps))
    | (with_reducible apply Walk.step (k := State.plcCount_keeps))
    | (with_reducible apply Walk.step (k := State.releaseWaiting_keeps))
    | (with_reducible apply Walk.step (k := State.setPlc_keeps))
    | (with_reducible apply Walk.ite)
    | (with_reducible apply Walk.foldl)
    | (with_reducible apply Walk.foldl1)
    | (with_reducible apply Walk.foldl2)
    | (intro _)
    | (with_reducible assumption)
    | (split)
    | (with_reducible refine Walk.update ?_ ?_ ?_ ?_ ?_ ?_ ?_ ?_ ?_ ?_ ?_ ?_ ?_ ?_ ?_ ?_ ?_ ?_ ?_ ?_ ?_ ?_ ?_ ?_ ?_ ?_ ?_ rfl rfl)
    | (exact .inl rfl)
    | (exact .inr rfl)
    | (show covers _ _ = true; rfl)

theorem execRrepReceived_keeps {s t} (h : @execRrepReceived s = .next t) : Keeps [.regs, .out, .cmd, .hbr, .ing, .plc, .bil, .win 1] s t := by
  unfold execRrepReceived at h
  have e := Host.Outcome.next.inj h
  subst e
  clear h
  show Walk true _ _ _
  repeat' first
    | (with_reducible exact Walk.refl)
    | (with_reducible refine Walk.step ?_ (State.takeInbox_keeps_of (by assumption)) ?_)
    | (with_reducible apply Walk.step (k := State.takeRrep_keeps))
    | (show covers _ _ = true; rfl)
    | (split)

theorem execTmreqReceived_keeps {s t} (h : @execTmreqReceived s = .next t) : Keeps [.regs, .out, .hbr, .ing, .plc, .win 1] s t := by
  unfold execTmreqReceived at h
  have e := Host.Outcome.next.inj h
  subst e
  clear h
  show Walk true _ _ _
  repeat' first
    | (with_reducible exact Walk.refl)
    | (with_reducible refine Walk.step ?_ (State.takeInbox_keeps_of (by assumption)) ?_)
    | (with_reducible apply Walk.step (k := State.issueMap_keeps))
    | (show covers _ _ = true; rfl)
    | (split)

theorem execZcCoarseCrossing_keeps {x1 s t} (h : @execZcCoarseCrossing x1 s = .next t) : Keeps [.plc] s t := by
  unfold execZcCoarseCrossing at h
  have e := Host.Outcome.next.inj h
  subst e
  clear h
  show Walk true _ _ _
  try dsimp only
  repeat' first
    | (with_reducible exact Walk.refl)
    | (with_reducible apply Walk.step (k := State.setPlc_keeps))
    | (with_reducible apply Walk.step (k := State.zcCross_keeps))
    | (with_reducible apply Walk.step (k := State.zcInvalid_keeps))
    | (with_reducible apply Walk.step (k := State.zcValid_keeps))
    | (with_reducible apply Walk.ite)
    | (with_reducible refine Walk.update ?_ ?_ ?_ ?_ ?_ ?_ ?_ ?_ ?_ ?_ ?_ ?_ ?_ ?_ ?_ ?_ ?_ ?_ ?_ ?_ ?_ ?_ ?_ ?_ ?_ ?_ ?_ rfl rfl)
    | (exact .inl rfl)
    | (exact .inr rfl)
    | (show covers _ _ = true; rfl)
    | (split)

theorem execRdiscReceived_keeps {s t} (h : @execRdiscReceived s = .next t) : Keeps [.plc] s t := by
  unfold execRdiscReceived at h
  have e := Host.Outcome.next.inj h
  subst e
  clear h
  show Walk true _ _ _
  repeat' first
    | (with_reducible exact Walk.refl)
    | (with_reducible refine Walk.step ?_ (State.takeInbox_keeps_of (by assumption)) ?_)
    | (with_reducible apply Walk.step (k := State.collectRdisc_keeps))
    | (show covers _ _ = true; rfl)
    | (split)

theorem execPlcPhrDecision_keeps {x1 x2 x3 s t} (h : @execPlcPhrDecision x1 x2 x3 s = .next t) : Keeps [.regs, .plc, .win 4] s t := by
  unfold execPlcPhrDecision at h
  have e := Host.Outcome.next.inj h
  subst e
  clear h
  show Walk true _ _ _
  try dsimp only
  repeat' first
    | (with_reducible exact Walk.refl)
    | (with_reducible apply Walk.step (k := State.phrDecide_keeps))
    | (with_reducible apply Walk.ite)
    | (show covers _ _ = true; rfl)
    | (split)

end Sys2Proof.Machine
end

