-- ==== Sys2Proof/Laws/KeepsPlcTx.lean ====
section
/-! SUPPORT. What each operation of PlcTx can change, and that it keeps the canonical forms. -/
set_option Elab.async false
namespace Sys2Proof.Machine

theorem State.plcMcast_keeps {x1 x2 s} : Keeps [.regs, .out, .cmd, .plc, .bil, .par, .win 4, .win 18] s (@State.plcMcast x1 x2 s) := by
  unfold State.plcMcast
  show Walk true _ _ _
  try dsimp only
  repeat' first
    | (with_reducible exact Walk.refl)
    | (with_reducible apply Walk.step (k := State.bump_keeps))
    | (with_reducible apply Walk.step (k := State.drewCounter_keeps))
    | (with_reducible apply Walk.step (k := State.queueSend_keeps))
    | (with_reducible apply Walk.step (k := State.reply_keeps))
    | (with_reducible apply Walk.step (k := State.replyQueued_keeps))
    | (with_reducible apply Walk.step (k := State.setPlc_keeps))
    | (with_reducible apply Walk.ite)
    | (with_reducible refine Walk.update ?_ ?_ ?_ ?_ ?_ ?_ ?_ ?_ ?_ ?_ ?_ ?_ ?_ ?_ ?_ ?_ ?_ ?_ ?_ ?_ ?_ ?_ ?_ ?_ ?_ ?_ ?_ rfl rfl)
    | (exact .inl rfl)
    | (exact .inr rfl)
    | (show covers _ _ = true; rfl)
    | (split)

theorem State.acceptSend_keeps {x1 x2 x3 s} : Keeps [.regs, .out, .cmd, .hbr, .ing, .plc, .bil, .win 1] s (@State.acceptSend x1 x2 x3 s) := by
  unfold State.acceptSend
  show Walk true _ _ _
  try dsimp only
  repeat' first
    | (with_reducible exact Walk.refl)
    | (with_reducible refine Walk.step ?_ (State.pickRoute_keeps_of (by assumption)) ?_)
    | (with_reducible apply Walk.step (k := State.pickRoute_keeps))
    | (with_reducible apply Walk.step (k := State.queueSend_keeps))
    | (with_reducible apply Walk.step (k := State.reply_keeps))
    | (with_reducible apply Walk.step (k := State.replyQueued_keeps))
    | (with_reducible apply Walk.step (k := State.startDisc_keeps))
    | (with_reducible apply Walk.ite)
    | (split)
    | (with_reducible refine Walk.update ?_ ?_ ?_ ?_ ?_ ?_ ?_ ?_ ?_ ?_ ?_ ?_ ?_ ?_ ?_ ?_ ?_ ?_ ?_ ?_ ?_ ?_ ?_ ?_ ?_ ?_ ?_ rfl rfl)
    | (exact .inl rfl)
    | (exact .inr rfl)
    | (show covers _ _ = true; rfl)

theorem State.plcSend_keeps {x1 x2 s} : Keeps [.regs, .out, .cmd, .hbr, .ing, .plc, .bil, .win 1, .win 4] s (@State.plcSend x1 x2 s) := by
  unfold State.plcSend
  show Walk true _ _ _
  try dsimp only
  repeat' first
    | (with_reducible exact Walk.refl)
    | (with_reducible apply Walk.step (k := State.acceptSend_keeps))
    | (with_reducible apply Walk.step (k := State.bump_keeps))
    | (with_reducible apply Walk.step (k := State.reply_keeps))
    | (with_reducible apply Walk.ite)
    | (show covers _ _ = true; rfl)
    | (split)

theorem execPlcRouteClearSlot_keeps {x1 x2 x3 s t} (h : @execPlcRouteClearSlot x1 x2 x3 s = .next t) : Keeps [.cmd, .ing, .bil] s t := by
  unfold execPlcRouteClearSlot at h
  have e := Host.Outcome.next.inj h
  subst e
  clear h
  show Walk true _ _ _
  repeat' first
    | (with_reducible exact Walk.refl)
    | (with_reducible apply Walk.step (k := State.reply_keeps))
    | (with_reducible apply Walk.step (k := State.modCtx_keeps))
    | (show covers _ _ = true; rfl)
    | (split)

theorem execMcastRepeat_keeps {x1 s t} (h : @execMcastRepeat x1 s = .next t) : Keeps [.plc] s t := by
  unfold execMcastRepeat at h
  have e := Host.Outcome.next.inj h
  subst e
  clear h
  show Walk true _ _ _
  repeat' first
    | (with_reducible exact Walk.refl)
    | (with_reducible apply Walk.step (k := State.modSend_keeps))
    | (show covers _ _ = true; rfl)
    | (split)

theorem execBandcDeferExpiry_keeps {x1 s t} (h : @execBandcDeferExpiry x1 s = .next t) : Keeps [.plc] s t := by
  unfold execBandcDeferExpiry at h
  have e := Host.Outcome.next.inj h
  subst e
  clear h
  show Walk true _ _ _
  try dsimp only
  repeat' first
    | (with_reducible exact Walk.refl)
    | (with_reducible apply Walk.step (k := State.modSend_keeps))
    | (with_reducible apply Walk.ite)
    | (split)
    | (with_reducible refine Walk.update ?_ ?_ ?_ ?_ ?_ ?_ ?_ ?_ ?_ ?_ ?_ ?_ ?_ ?_ ?_ ?_ ?_ ?_ ?_ ?_ ?_ ?_ ?_ ?_ ?_ ?_ ?_ rfl rfl)
    | (exact .inl rfl)
    | (exact .inr rfl)
    | (show covers _ _ = true; rfl)

theorem execPlcTonemapRevert_keeps {x1 x2 s t} (h : @execPlcTonemapRevert x1 x2 s = .next t) : Keeps [.cmd, .ing, .plc, .bil] s t := by
  unfold execPlcTonemapRevert at h
  have e := Host.Outcome.next.inj h
  subst e
  clear h
  show Walk true _ _ _
  repeat' first
    | (with_reducible exact Walk.refl)
    | (with_reducible apply Walk.step (k := State.reply_keeps))
    | (with_reducible apply Walk.step (k := State.modNbr_keeps))
    | (with_reducible apply Walk.step (k := State.dropTxSet_keeps))
    | (show covers _ _ = true; rfl)
    | (split)

theorem State.underrun_keeps {s} : Keeps [.plc] s (@State.underrun s) := by
  unfold State.underrun
  show Walk true _ _ _
  try dsimp only
  repeat' first
    | (with_reducible exact Walk.refl)
    | (with_reducible apply Walk.step (k := State.plcOffAir_keeps))
    | (show covers _ _ = true; rfl)
    | (split)

theorem execSeamUnderrun_keeps {s t} (h : @execSeamUnderrun s = .next t) : Keeps [.regs, .out, .seam, .cmd, .evr, .plc, .rfx, .msh, .bil, .par, .win 4, .win 5, .win 21] s t := by
  unfold execSeamUnderrun at h
  have e := Host.Outcome.next.inj h
  subst e
  clear h
  show Walk true _ _ _
  try dsimp only
  repeat' first
    | (with_reducible exact Walk.refl)
    | (with_reducible apply Walk.step (k := State.bump_keeps))
    | (with_reducible apply Walk.step (k := State.drainLook_keeps))
    | (with_reducible apply Walk.step (k := State.endSend_keeps))
    | (with_reducible apply Walk.step (k := State.underrun_keeps))
    | (show covers _ _ = true; rfl)
    | (split)

theorem State.sentWhole_keeps {x1 s} : Keeps [.regs, .cmd, .plc, .bil, .win 20] s (@State.sentWhole x1 s) := by
  unfold State.sentWhole
  show Walk true _ _ _
  repeat' first
    | (with_reducible exact Walk.refl)
    | (with_reducible apply Walk.step (k := State.sunk_keeps))
    | (with_reducible apply Walk.step (k := State.dropSend_keeps))
    | (with_reducible apply Walk.step (k := State.modSend_keeps))
    | (with_reducible apply Walk.step (k := State.endSend_keeps))
    | (show covers _ _ = true; rfl)
    | (split)

theorem execPlcTxEnd_keeps {s t} (h : @execPlcTxEnd s = .next t) : Keeps [.regs, .out, .seam, .cmd, .evr, .plc, .rfx, .msh, .bil, .par, .win 4, .win 5, .win 20, .win 21] s t := by
  unfold execPlcTxEnd at h
  have e := Host.Outcome.next.inj h
  subst e
  clear h
  show Walk true _ _ _
  try dsimp only
  repeat' first
    | (with_reducible exact Walk.refl)
    | (with_reducible apply Walk.step (k := State.bump_keeps))
    | (with_reducible apply Walk.step (k := State.drainLook_keeps))
    | (with_reducible apply Walk.step (k := State.plcOffAir_keeps))
    | (with_reducible apply Walk.step (k := State.sentWhole_keeps))
    | (show covers _ _ = true; rfl)
    | (split)

theorem execPlcMaxDeferExpiry_keeps {x1 s t} (h : @execPlcMaxDeferExpiry x1 s = .next t) : Keeps [.cmd, .plc, .bil] s t := by
  unfold execPlcMaxDeferExpiry at h
  have e := Host.Outcome.next.inj h
  subst e
  clear h
  show Walk true _ _ _
  try dsimp only
  repeat' first
    | (with_reducible exact Walk.refl)
    | (with_reducible apply Walk.step (k := State.endSend_keeps))
    | (with_reducible apply Walk.ite)
    | (show covers _ _ = true; rfl)
    | (split)

theorem execPlcRouteUnpin_keeps {x1 x2 s t} (h : @execPlcRouteUnpin x1 x2 s = .next t) : Keeps [.cmd, .ing, .bil] s t := by
  unfold execPlcRouteUnpin at h
  have e := Host.Outcome.next.inj h
  subst e
  clear h
  show Walk true _ _ _
  repeat' first
    | (with_reducible exact Walk.refl)
    | (with_reducible apply Walk.step (k := State.reply_keeps))
    | (with_reducible apply Walk.step (k := State.modCtx_keeps))
    | (show covers _ _ = true; rfl)
    | (split)

theorem State.deferSend_keeps {x1 x2 s} : Keeps [.regs, .plc, .win 4] s (@State.deferSend x1 x2 s) := by
  unfold State.deferSend
  show Walk true _ _ _
  try dsimp only
  repeat' first
    | (with_reducible exact Walk.refl)
    | (with_reducible apply Walk.step (k := State.bump_keeps))
    | (with_reducible apply Walk.step (k := State.modSend_keeps))
    | (with_reducible apply Walk.ite)
    | (with_reducible refine Walk.update ?_ ?_ ?_ ?_ ?_ ?_ ?_ ?_ ?_ ?_ ?_ ?_ ?_ ?_ ?_ ?_ ?_ ?_ ?_ ?_ ?_ ?_ ?_ ?_ ?_ ?_ ?_ rfl rfl)
    | (exact .inl rfl)
    | (exact .inr rfl)
    | (show covers _ _ = true; rfl)
    | (split)

theorem State.contended_keeps {x1 x2 s} : Keeps [.regs, .plc, .win 4] s (@State.contended x1 x2 s) := by
  unfold State.contended
  show Walk true _ _ _
  try dsimp only
  repeat' first
    | (with_reducible exact Walk.refl)
    | (with_reducible apply Walk.step (k := State.deferSend_keeps))
    | (with_reducible apply Walk.step (k := State.modSend_keeps))
    | (with_reducible apply Walk.ite)
    | (with_reducible refine Walk.update ?_ ?_ ?_ ?_ ?_ ?_ ?_ ?_ ?_ ?_ ?_ ?_ ?_ ?_ ?_ ?_ ?_ ?_ ?_ ?_ ?_ ?_ ?_ ?_ ?_ ?_ ?_ rfl rfl)
    | (exact .inl rfl)
    | (exact .inr rfl)
    | (show covers _ _ = true; rfl)
    | (split)

theorem execPlcContentionWaitEnd_keeps {x1 x2 s t} (h : @execPlcContentionWaitEnd x1 x2 s = .next t) : Keeps [.regs, .plc, .win 4] s t := by
  unfold execPlcContentionWaitEnd at h
  have e := Host.Outcome.next.inj h
  subst e
  clear h
  show Walk true _ _ _
  try dsimp only
  repeat' first
    | (with_reducible exact Walk.refl)
    | (with_reducible apply Walk.step (k := State.contended_keeps))
    | (with_reducible apply Walk.ite)
    | (show covers _ _ = true; rfl)
    | (split)

theorem State.refuseSend_keeps {x1 s} : Keeps [.regs, .cmd, .plc, .bil, .win 4] s (@State.refuseSend x1 s) := by
  unfold State.refuseSend
  show Walk true _ _ _
  repeat' first
    | (with_reducible exact Walk.refl)
    | (with_reducible apply Walk.step (k := State.endSend_keeps))
    | (with_reducible apply Walk.step (k := State.bump_keeps))
    | (show covers _ _ = true; rfl)

theorem State.notLaunched_keeps {x1 s} : Keeps [.regs, .cmd, .plc, .bil, .win 20] s (@State.notLaunched x1 s) := by
  unfold State.notLaunched
  show Walk true _ _ _
  repeat' first
    | (with_reducible exact Walk.refl)
    | (with_reducible apply Walk.step (k := State.sunk_keeps))
    | (with_reducible apply Walk.step (k := State.dropSend_keeps))
    | (with_reducible apply Walk.step (k := State.endSend_keeps))
    | (with_reducible apply Walk.step (k := State.modSend_keeps))
    | (show covers _ _ = true; rfl)
    | (split)

theorem State.launchSend_keeps {x1 x2 s} : Keeps [.regs, .out, .seam, .cmd, .plc, .bil, .win 4, .win 20] s (@State.launchSend x1 x2 s) := by
  unfold State.launchSend
  show Walk true _ _ _
  try dsimp only
  repeat' first
    | (with_reducible exact Walk.refl)
    | (with_reducible apply Walk.step (k := State.goOnAir_keeps))
    | (with_reducible apply Walk.step (k := State.modSend_keeps))
    | (with_reducible apply Walk.step (k := State.notLaunched_keeps))
    | (with_reducible apply Walk.step (k := State.plcCount_keeps))
    | (with_reducible apply Walk.step (k := State.refuseSend_keeps))
    | (with_reducible apply Walk.step (k := State.replyWith_keeps))
    | (with_reducible apply Walk.step (k := State.setPlc_keeps))
    | (with_reducible apply Walk.ite)
    | (with_reducible apply Walk.foldl)
    | (with_reducible apply Walk.foldl1)
    | (with_reducible apply Walk.foldl2)
    | (intro _)
    | (with_reducible assumption)
    | (split)
    | (with_reducible refine Walk.update ?_ ?_ ?_ ?_ ?_ ?_ ?_ ?_ ?_ ?_ ?_ ?_ ?_ ?_ ?_ ?_ ?_ ?_ ?_ ?_ ?_ ?_ ?_ ?_ ?_ ?_ ?_ rfl rfl)
    | (exact .inl rfl)
    | (exact .inr rfl)
    | (show covers _ _ = true; rfl)

theorem execPlcRoutePin_keeps {x1 x2 x3 s t} (h : @execPlcRoutePin x1 x2 x3 s = .next t) : Keeps [.cmd, .ing, .bil] s t := by
  unfold execPlcRoutePin at h
  have e := Host.Outcome.next.inj h
  subst e
  clear h
  show Walk true _ _ _
  repeat' first
    | (with_reducible exact Walk.refl)
    | (with_reducible apply Walk.step (k := State.reply_keeps))
    | (with_reducible apply Walk.step (k := State.modCtx_keeps))
    | (show covers _ _ = true; rfl)
    | (split)

theorem State.failRoute_keeps {x1 s} : Keeps [.regs, .out, .cmd, .hbr, .ing, .plc, .bil, .win 1] s (@State.failRoute x1 s) := by
  unfold State.failRoute
  show Walk true _ _ _
  try dsimp only
  repeat' first
    | (with_reducible exact Walk.refl)
    | (with_reducible apply Walk.step (k := State.endSend_keeps))
    | (with_reducible refine Walk.step ?_ (State.formPlain_keeps_of (by assumption)) ?_)
    | (with_reducible apply Walk.step (k := State.formPlain_keeps))
    | (with_reducible apply Walk.step (k := State.modNbr_keeps))
    | (with_reducible apply Walk.step (k := State.modSend_keeps))
    | (with_reducible apply Walk.step (k := State.sendTmreq_keeps))
    | (with_reducible apply Walk.ite)
    | (split)
    | (with_reducible refine Walk.update ?_ ?_ ?_ ?_ ?_ ?_ ?_ ?_ ?_ ?_ ?_ ?_ ?_ ?_ ?_ ?_ ?_ ?_ ?_ ?_ ?_ ?_ ?_ ?_ ?_ ?_ ?_ rfl rfl)
    | (exact .inl rfl)
    | (exact .inr rfl)
    | (show covers _ _ = true; rfl)

theorem State.noAck_keeps {x1 s} : Keeps [.regs, .out, .cmd, .hbr, .ing, .plc, .bil, .win 1] s (@State.noAck x1 s) := by
  unfold State.noAck
  show Walk true _ _ _
  try dsimp only
  repeat' first
    | (with_reducible exact Walk.refl)
    | (with_reducible apply Walk.step (k := State.failRoute_keeps))
    | (with_reducible apply Walk.step (k := State.modNbr_keeps))
    | (with_reducible apply Walk.step (k := State.modSend_keeps))
    | (with_reducible apply Walk.step (k := State.plcCount_keeps))
    | (with_reducible apply Walk.ite)
    | (with_reducible refine Walk.update ?_ ?_ ?_ ?_ ?_ ?_ ?_ ?_ ?_ ?_ ?_ ?_ ?_ ?_ ?_ ?_ ?_ ?_ ?_ ?_ ?_ ?_ ?_ ?_ ?_ ?_ ?_ rfl rfl)
    | (exact .inl rfl)
    | (exact .inr rfl)
    | (show covers _ _ = true; rfl)
    | (split)

theorem State.ackOut_keeps {x1 x2 s} : Keeps [.regs, .out, .seam, .plc, .win 4] s (@State.ackOut x1 x2 s) := by
  unfold State.ackOut
  show Walk true _ _ _
  try dsimp only
  repeat' first
    | (with_reducible exact Walk.refl)
    | (with_reducible apply Walk.step (k := State.bump_keeps))
    | (with_reducible apply Walk.step (k := State.goOnAir_keeps))
    | (with_reducible apply Walk.step (k := State.plcCount_keeps))
    | (with_reducible apply Walk.step (k := State.setPlc_keeps))
    | (split)
    | (with_reducible refine Walk.update ?_ ?_ ?_ ?_ ?_ ?_ ?_ ?_ ?_ ?_ ?_ ?_ ?_ ?_ ?_ ?_ ?_ ?_ ?_ ?_ ?_ ?_ ?_ ?_ ?_ ?_ ?_ rfl rfl)
    | (exact .inl rfl)
    | (exact .inr rfl)
    | (show covers _ _ = true; rfl)

theorem execPlcAckSend_keeps {x1 s t} (h : @execPlcAckSend x1 s = .next t) : Keeps [.regs, .out, .seam, .tim, .plc, .win 4] s t := by
  unfold execPlcAckSend at h
  have e := Host.Outcome.next.inj h
  subst e
  clear h
  show Walk true _ _ _
  try dsimp only
  repeat' first
    | (with_reducible exact Walk.refl)
    | (with_reducible apply Walk.step (k := State.ackOut_keeps))
    | (with_reducible apply State.passLaunch_walk)
    | (with_reducible apply Walk.step (k := State.plcCount_keeps))
    | (with_reducible apply Walk.step (k := State.setPlc_keeps))
    | (with_reducible apply Walk.step (k := State.zcLook_keeps))
    | (with_reducible apply Walk.ite)
    | (intro _)
    | (split)
    | (with_reducible refine Walk.update ?_ ?_ ?_ ?_ ?_ ?_ ?_ ?_ ?_ ?_ ?_ ?_ ?_ ?_ ?_ ?_ ?_ ?_ ?_ ?_ ?_ ?_ ?_ ?_ ?_ ?_ ?_ rfl rfl)
    | (exact .inl rfl)
    | (exact .inr rfl)
    | (show covers _ _ = true; rfl)
    | (show may _ _ = true; rfl)

theorem execPlcRouteSetSlot_keeps {x1 x2 x3 x4 x5 s t} (h : @execPlcRouteSetSlot x1 x2 x3 x4 x5 s = .next t) : Keeps [.cmd, .ing, .bil] s t := by
  unfold execPlcRouteSetSlot at h
  have e := Host.Outcome.next.inj h
  subst e
  clear h
  show Walk true _ _ _
  try dsimp only
  repeat' first
    | (with_reducible exact Walk.refl)
    | (with_reducible apply Walk.step (k := State.modCtx_keeps))
    | (with_reducible apply Walk.step (k := State.reply_keeps))
    | (with_reducible apply Walk.ite)
    | (with_reducible apply Walk.foldl)
    | (with_reducible apply Walk.foldl1)
    | (with_reducible apply Walk.foldl2)
    | (intro _)
    | (with_reducible assumption)
    | (show covers _ _ = true; rfl)
    | (split)

theorem execPlcTonemapLoad_keeps {x1 x2 x3 x4 x5 s t} (h : @execPlcTonemapLoad x1 x2 x3 x4 x5 s = .next t) : Keeps [.cmd, .ing, .plc, .bil] s t := by
  unfold execPlcTonemapLoad at h
  have e := Host.Outcome.next.inj h
  subst e
  clear h
  show Walk true _ _ _
  try dsimp only
  repeat' first
    | (with_reducible exact Walk.refl)
    | (with_reducible apply Walk.step (k := State.loadTxSet_keeps))
    | (with_reducible apply Walk.step (k := State.modNbr_keeps))
    | (with_reducible apply Walk.step (k := State.reply_keeps))
    | (with_reducible apply Walk.ite)
    | (split)
    | (with_reducible refine Walk.update ?_ ?_ ?_ ?_ ?_ ?_ ?_ ?_ ?_ ?_ ?_ ?_ ?_ ?_ ?_ ?_ ?_ ?_ ?_ ?_ ?_ ?_ ?_ ?_ ?_ ?_ ?_ rfl rfl)
    | (exact .inl rfl)
    | (exact .inr rfl)
    | (show covers _ _ = true; rfl)

theorem execPlcStatus_keeps {x1 x2 x3 s t} (h : @execPlcStatus x1 x2 x3 s = .next t) : Keeps [.out, .cmd, .hbr, .bil] s t := by
  unfold execPlcStatus at h
  have e := Host.Outcome.next.inj h
  subst e
  clear h
  show Walk true _ _ _
  repeat' first
    | (with_reducible exact Walk.refl)
    | (with_reducible apply Walk.step (k := State.reply_keeps))
    | (with_reducible apply Walk.step (k := State.replyWith_keeps))
    | (with_reducible apply Walk.step (k := State.writeData_keeps))
    | (show covers _ _ = true; rfl)
    | (split)

theorem execPlcSend_keeps {x1 x2 s t} (h : @execPlcSend x1 x2 s = .next t) : Keeps [.regs, .out, .cmd, .hbr, .ing, .plc, .bil, .win 1, .win 4] s t := by
  unfold execPlcSend at h
  have e := Host.Outcome.next.inj h
  subst e
  clear h
  show Walk true _ _ _
  try dsimp only
  repeat' first
    | (with_reducible exact Walk.refl)
    | (with_reducible apply Walk.step (k := State.plcSend_keeps))
    | (with_reducible apply Walk.ite)
    | (show covers _ _ = true; rfl)
    | (split)

theorem execPlcAckReceived_keeps {s t} (h : @execPlcAckReceived s = .next t) : Keeps [.cmd, .plc, .bil] s t := by
  unfold execPlcAckReceived at h
  have e := Host.Outcome.next.inj h
  subst e
  clear h
  show Walk true _ _ _
  try dsimp only
  repeat' first
    | (with_reducible exact Walk.refl)
    | (with_reducible apply Walk.step (k := State.endSend_keeps))
    | (with_reducible apply Walk.step (k := State.modNbr_keeps))
    | (with_reducible apply Walk.step (k := State.plcCount_keeps))
    | (with_reducible refine Walk.step ?_ (State.takeInbox_keeps_of (by assumption)) ?_)
    | (split)
    | (with_reducible refine Walk.update ?_ ?_ ?_ ?_ ?_ ?_ ?_ ?_ ?_ ?_ ?_ ?_ ?_ ?_ ?_ ?_ ?_ ?_ ?_ ?_ ?_ ?_ ?_ ?_ ?_ ?_ ?_ rfl rfl)
    | (exact .inl rfl)
    | (exact .inr rfl)
    | (show covers _ _ = true; rfl)

theorem execPlcRetryWaitEnd_keeps {x1 s t} (h : @execPlcRetryWaitEnd x1 s = .next t) : Keeps [.plc] s t := by
  unfold execPlcRetryWaitEnd at h
  have e := Host.Outcome.next.inj h
  subst e
  clear h
  show Walk true _ _ _
  repeat' first
    | (with_reducible exact Walk.refl)
    | (with_reducible apply Walk.step (k := State.modSend_keeps))
    | (show covers _ _ = true; rfl)
    | (split)

theorem execPlcNoiseRead_keeps {x1 x2 s t} (h : @execPlcNoiseRead x1 x2 s = .next t) : Keeps [.out, .cmd, .hbr, .bil] s t := by
  unfold execPlcNoiseRead at h
  have e := Host.Outcome.next.inj h
  subst e
  clear h
  show Walk true _ _ _
  repeat' first
    | (with_reducible exact Walk.refl)
    | (with_reducible apply Walk.step (k := State.reply_keeps))
    | (with_reducible apply Walk.step (k := State.writeData_keeps))
    | (show covers _ _ = true; rfl)

theorem execPlcMcastSend_keeps {x1 x2 s t} (h : @execPlcMcastSend x1 x2 s = .next t) : Keeps [.regs, .out, .cmd, .plc, .bil, .par, .win 4, .win 18] s t := by
  unfold execPlcMcastSend at h
  have e := Host.Outcome.next.inj h
  subst e
  clear h
  show Walk true _ _ _
  try dsimp only
  repeat' first
    | (with_reducible exact Walk.refl)
    | (with_reducible apply Walk.step (k := State.plcMcast_keeps))
    | (with_reducible apply Walk.ite)
    | (show covers _ _ = true; rfl)
    | (split)

theorem State.takeFired_keeps_of {s a1 t} (h : @State.takeFired s = some (a1, t)) : Keeps [.tim] s t := by
  unfold State.takeFired at h
  repeat' split at h
  all_goals cases h
  show Walk true _ _ _
  repeat' first
    | (with_reducible exact Walk.refl)
    | (with_reducible refine Walk.update ?_ ?_ ?_ ?_ ?_ ?_ ?_ ?_ ?_ ?_ ?_ ?_ ?_ ?_ ?_ ?_ ?_ ?_ ?_ ?_ ?_ ?_ ?_ ?_ ?_ ?_ ?_ rfl rfl)
    | (exact .inl rfl)
    | (exact .inr rfl)

theorem execPlcLaunch_keeps {s t} (h : @execPlcLaunch s = .next t) : Keeps [.regs, .out, .freeCtr, .seam, .cmd, .tim, .plc, .bil, .win 4, .win 20] s t := by
  unfold execPlcLaunch at h
  have e := Host.Outcome.next.inj h
  subst e
  clear h
  show Walk true _ _ _
  try dsimp only
  repeat' first
    | (with_reducible exact Walk.refl)
    | (with_reducible apply Walk.step (k := State.deferSend_keeps))
    | (with_reducible apply Walk.step (k := State.drawn_keeps))
    | (with_reducible apply Walk.step (k := State.endSend_keeps))
    | (with_reducible apply Walk.step (k := State.launchSend_keeps))
    | (with_reducible apply Walk.step (k := State.notLaunched_keeps))
    | (with_reducible refine Walk.step ?_ (State.takeFired_keeps_of (by assumption)) ?_)
    | (with_reducible apply Walk.step (k := State.zcLook_keeps))
    | (with_reducible apply Walk.ite)
    | (split)
    | (show covers _ _ = true; rfl)

theorem execPlcTonemapReadTx_keeps {x1 x2 s t} (h : @execPlcTonemapReadTx x1 x2 s = .next t) : Keeps [.out, .cmd, .hbr, .bil] s t := by
  unfold execPlcTonemapReadTx at h
  have e := Host.Outcome.next.inj h
  subst e
  clear h
  show Walk true _ _ _
  repeat' first
    | (with_reducible exact Walk.refl)
    | (with_reducible apply Walk.step (k := State.reply_keeps))
    | (with_reducible apply Walk.step (k := State.replyWith_keeps))
    | (with_reducible apply Walk.step (k := State.writeData_keeps))
    | (show covers _ _ = true; rfl)
    | (split)

theorem execPlcAckTimeout_keeps {x1 s t} (h : @execPlcAckTimeout x1 s = .next t) : Keeps [.regs, .out, .cmd, .hbr, .ing, .plc, .bil, .win 1] s t := by
  unfold execPlcAckTimeout at h
  have e := Host.Outcome.next.inj h
  subst e
  clear h
  show Walk true _ _ _
  repeat' first
    | (with_reducible exact Walk.refl)
    | (with_reducible apply Walk.step (k := State.noAck_keeps))
    | (show covers _ _ = true; rfl)
    | (split)

theorem execPlcConfig_keeps {x1 x2 s t} (h : @execPlcConfig x1 x2 s = .next t) : Keeps [.cmd, .plc, .bil] s t := by
  unfold execPlcConfig at h
  have e := Host.Outcome.next.inj h
  subst e
  clear h
  show Walk true _ _ _
  try dsimp only
  repeat' first
    | (with_reducible exact Walk.refl)
    | (with_reducible apply Walk.step (k := State.reply_keeps))
    | (with_reducible apply Walk.step (k := State.setPlc_keeps))
    | (with_reducible apply Walk.ite)
    | (with_reducible refine Walk.update ?_ ?_ ?_ ?_ ?_ ?_ ?_ ?_ ?_ ?_ ?_ ?_ ?_ ?_ ?_ ?_ ?_ ?_ ?_ ?_ ?_ ?_ ?_ ?_ ?_ ?_ ?_ rfl rfl)
    | (exact .inl rfl)
    | (exact .inr rfl)
    | (show covers _ _ = true; rfl)
    | (split)

theorem execPlcTonemapReadRx_keeps {x1 x2 s t} (h : @execPlcTonemapReadRx x1 x2 s = .next t) : Keeps [.out, .cmd, .hbr, .bil] s t := by
  unfold execPlcTonemapReadRx at h
  have e := Host.Outcome.next.inj h
  subst e
  clear h
  show Walk true _ _ _
  repeat' first
    | (with_reducible exact Walk.refl)
    | (with_reducible apply Walk.step (k := State.reply_keeps))
    | (with_reducible apply Walk.step (k := State.replyWith_keeps))
    | (with_reducible apply Walk.step (k := State.writeData_keeps))
    | (show covers _ _ = true; rfl)
    | (split)

end Sys2Proof.Machine
end

