-- ==== Sys2Proof/Laws/KeepsMsh.lean ====
section
/-! SUPPORT. What each operation of Msh can change, and that it keeps the canonical forms. -/
set_option Elab.async false
namespace Sys2Proof.Machine

theorem id_keeps {s : State} : Keeps [] s (id s) := Keeps.refl

theorem State.retryNow_keeps {x1 s} : Keeps [.regs, .out, .cmd, .hbr, .evr, .tim, .kvt, .ing, .rfx, .msh, .bil, .par, .win 1, .win 5, .win 7, .win 14, .win 18, .win 21] s (@State.retryNow x1 s) := by
  unfold State.retryNow
  show Walk true _ _ _
  try dsimp only
  repeat' first
    | (with_reducible exact Walk.refl)
    | (with_reducible refine Walk.step ?_ (State.sendUnicast_keeps_of (by assumption)) ?_)
    | (with_reducible apply Walk.step (k := State.sendUnicast_keeps))
    | (with_reducible apply Walk.ite)
    | (split)
    | (show covers _ _ = true; rfl)

theorem execMshRetryOpportunity_keeps {x1 s t} (h : @execMshRetryOpportunity x1 s = .next t) : Keeps [.regs, .out, .cmd, .hbr, .evr, .tim, .kvt, .ing, .rfx, .msh, .bil, .par, .win 1, .win 5, .win 7, .win 14, .win 18, .win 21] s t := by
  unfold execMshRetryOpportunity at h
  have e := Host.Outcome.next.inj h
  subst e
  clear h
  show Walk true _ _ _
  repeat' first
    | (with_reducible exact Walk.refl)
    | (with_reducible apply Walk.step (k := State.retryNow_keeps))
    | (show covers _ _ = true; rfl)
    | (split)

theorem State.takeFiredRf_keeps_of {s a1 t} (h : @State.takeFiredRf s = some (a1, t)) : Keeps [.tim] s t := by
  unfold State.takeFiredRf at h
  repeat' split at h
  all_goals cases h
  show Walk true _ _ _
  repeat' first
    | (with_reducible exact Walk.refl)
    | (with_reducible refine Walk.update ?_ ?_ ?_ ?_ ?_ ?_ ?_ ?_ ?_ ?_ ?_ ?_ ?_ ?_ ?_ ?_ ?_ ?_ ?_ ?_ ?_ ?_ ?_ ?_ ?_ ?_ ?_ rfl rfl)
    | (exact .inl rfl)
    | (exact .inr rfl)

theorem State.sendFired_keeps {x1 x2 x3 x4 s} : Keeps [.regs, .out, .cmd, .hbr, .evr, .kvt, .ing, .rfx, .msh, .bil, .par, .win 1, .win 5, .win 7, .win 14, .win 18, .win 21] s (@State.sendFired x1 x2 x3 x4 s) := by
  unfold State.sendFired
  show Walk true _ _ _
  try dsimp only
  repeat' first
    | (with_reducible exact Walk.refl)
    | (with_reducible refine Walk.step ?_ (State.formUnicast_keeps_of (by assumption)) ?_)
    | (with_reducible apply Walk.step (k := State.formUnicast_keeps))
    | (with_reducible refine Walk.step ?_ (State.rfLaunch_keeps_of (by assumption)) ?_)
    | (with_reducible apply Walk.step (k := State.rfLaunch_keeps))
    | (show covers _ _ = true; rfl)
    | (split)

theorem State.launchMsh_keeps {x1 x2 x3 s} : Keeps [.regs, .out, .cmd, .hbr, .evr, .kvt, .ing, .rfx, .msh, .bil, .par, .win 1, .win 5, .win 7, .win 14, .win 18, .win 21] s (@State.launchMsh x1 x2 x3 s) := by
  unfold State.launchMsh
  show Walk true _ _ _
  try dsimp only
  repeat' first
    | (with_reducible exact Walk.refl)
    | (with_reducible apply Walk.step (k := State.endMsh_keeps))
    | (with_reducible apply Walk.step (k := State.sendFired_keeps))
    | (with_reducible apply Walk.ite)
    | (show covers _ _ = true; rfl)
    | (split)

theorem execRfTxLaunch_keeps {s t} (h : @execRfTxLaunch s = .next t) : Keeps [.regs, .out, .cmd, .hbr, .evr, .tim, .kvt, .ing, .rfx, .msh, .bil, .par, .win 1, .win 5, .win 7, .win 14, .win 18, .win 21] s t := by
  unfold execRfTxLaunch at h
  have e := Host.Outcome.next.inj h
  subst e
  clear h
  show Walk true _ _ _
  repeat' first
    | (with_reducible exact Walk.refl)
    | (with_reducible refine Walk.step ?_ (State.takeFiredRf_keeps_of (by assumption)) ?_)
    | (with_reducible apply Walk.step (k := State.launchMsh_keeps))
    | (show covers _ _ = true; rfl)
    | (split)

theorem State.tunnelOut_keeps {x1 x2 x3 s} : Keeps [.out, .tim] s (@State.tunnelOut x1 x2 x3 s) := by
  unfold State.tunnelOut
  show Walk true _ _ _
  try dsimp only
  repeat' first
    | (with_reducible exact Walk.refl)
    | (with_reducible apply Walk.step (k := State.emit_keeps))
    | (with_reducible apply Walk.ite)
    | (split)
    | (with_reducible apply State.passLaunch_walk)
    | (intro _)
    | (show may _ _ = true; rfl)
    | (show covers _ _ = true; rfl)

theorem State.sendTunnel_keeps {x1 s} : Keeps [.regs, .out, .cmd, .hbr, .evr, .tim, .kvt, .ing, .msh, .bil, .par, .win 1, .win 7, .win 14, .win 18, .win 21] s (@State.sendTunnel x1 s) := by
  unfold State.sendTunnel
  show Walk true _ _ _
  try dsimp only
  repeat' first
    | (with_reducible exact Walk.refl)
    | (with_reducible apply Walk.step (k := State.endMsh_keeps))
    | (with_reducible apply Walk.step (k := State.modMsh_keeps))
    | (with_reducible apply Walk.step (k := State.tunnelOut_keeps))
    | (with_reducible refine Walk.step ?_ (State.unicastPsdu_keeps_of (by assumption)) ?_)
    | (with_reducible apply Walk.step (k := State.unicastPsdu_keeps))
    | (with_reducible apply Walk.ite)
    | (split)
    | (with_reducible refine Walk.update ?_ ?_ ?_ ?_ ?_ ?_ ?_ ?_ ?_ ?_ ?_ ?_ ?_ ?_ ?_ ?_ ?_ ?_ ?_ ?_ ?_ ?_ ?_ ?_ ?_ ?_ ?_ rfl rfl)
    | (exact .inl rfl)
    | (exact .inr rfl)
    | (show covers _ _ = true; rfl)

theorem State.mshFlood_keeps {x1 x2 s} : Keeps [.regs, .out, .cmd, .msh, .bil, .par, .win 18] s (@State.mshFlood x1 x2 s) := by
  unfold State.mshFlood
  show Walk true _ _ _
  try dsimp only
  repeat' first
    | (with_reducible exact Walk.refl)
    | (with_reducible apply Walk.step (k := State.drewCounter_keeps))
    | (with_reducible apply Walk.step (k := State.queueMsh_keeps))
    | (with_reducible apply Walk.step (k := State.reply_keeps))
    | (with_reducible apply Walk.step (k := State.replyQueued_keeps))
    | (with_reducible apply Walk.step (k := State.setMsh_keeps))
    | (with_reducible apply Walk.ite)
    | (with_reducible refine Walk.update ?_ ?_ ?_ ?_ ?_ ?_ ?_ ?_ ?_ ?_ ?_ ?_ ?_ ?_ ?_ ?_ ?_ ?_ ?_ ?_ ?_ ?_ ?_ ?_ ?_ ?_ ?_ rfl rfl)
    | (exact .inl rfl)
    | (exact .inr rfl)
    | (show covers _ _ = true; rfl)
    | (split)

theorem State.acceptMsh_keeps {x1 x2 s} : Keeps [.regs, .out, .cmd, .hbr, .evr, .tim, .kvt, .ing, .msh, .bil, .par, .win 1, .win 7, .win 14, .win 18, .win 21] s (@State.acceptMsh x1 x2 s) := by
  unfold State.acceptMsh
  show Walk true _ _ _
  try dsimp only
  repeat' first
    | (with_reducible exact Walk.refl)
    | (with_reducible apply Walk.step (k := State.queueMsh_keeps))
    | (with_reducible apply Walk.step (k := State.reply_keeps))
    | (with_reducible apply Walk.step (k := State.replyQueued_keeps))
    | (with_reducible apply Walk.step (k := State.sendTunnel_keeps))
    | (with_reducible apply Walk.ite)
    | (split)
    | (with_reducible refine Walk.update ?_ ?_ ?_ ?_ ?_ ?_ ?_ ?_ ?_ ?_ ?_ ?_ ?_ ?_ ?_ ?_ ?_ ?_ ?_ ?_ ?_ ?_ ?_ ?_ ?_ ?_ ?_ rfl rfl)
    | (exact .inl rfl)
    | (exact .inr rfl)
    | (show covers _ _ = true; rfl)

theorem State.mshSend_keeps {x1 x2 s} : Keeps [.regs, .out, .cmd, .hbr, .evr, .tim, .kvt, .ing, .msh, .bil, .par, .win 1, .win 7, .win 14, .win 18, .win 21] s (@State.mshSend x1 x2 s) := by
  unfold State.mshSend
  show Walk true _ _ _
  try dsimp only
  repeat' first
    | (with_reducible exact Walk.refl)
    | (with_reducible apply Walk.step (k := State.acceptMsh_keeps))
    | (with_reducible apply Walk.step (k := State.reply_keeps))
    | (with_reducible apply Walk.ite)
    | (show covers _ _ = true; rfl)
    | (split)

theorem State.takeAck_keeps {x1 s} : Keeps [.regs, .out, .cmd, .hbr, .ing, .msh, .bil, .win 1] s (@State.takeAck x1 s) := by
  unfold State.takeAck
  show Walk true _ _ _
  try dsimp only
  repeat' first
    | (with_reducible exact Walk.refl)
    | (with_reducible apply Walk.step (k := State.endMsh_keeps))
    | (with_reducible apply Walk.step (k := State.raiseSync_keeps))
    | (with_reducible apply Walk.step (k := State.setMsh_keeps))
    | (with_reducible apply Walk.ite)
    | (split)
    | (with_reducible refine Walk.update ?_ ?_ ?_ ?_ ?_ ?_ ?_ ?_ ?_ ?_ ?_ ?_ ?_ ?_ ?_ ?_ ?_ ?_ ?_ ?_ ?_ ?_ ?_ ?_ ?_ ?_ ?_ rfl rfl)
    | (exact .inl rfl)
    | (exact .inr rfl)
    | (show covers _ _ = true; rfl)

theorem State.floodCopy_keeps {x1 x2 s} : Keeps [.regs, .out, .cmd, .hbr, .aon, .evr, .tim, .kvt, .ing, .rfx, .msh, .bil, .par, .win 1, .win 5, .win 6, .win 7, .win 14, .win 18, .win 21] s (@State.floodCopy x1 x2 s) := by
  unfold State.floodCopy
  show Walk true _ _ _
  try dsimp only
  repeat' first
    | (with_reducible exact Walk.refl)
    | (with_reducible refine Walk.step ?_ (State.bcastPsdu_keeps_of (by assumption)) ?_)
    | (with_reducible apply Walk.step (k := State.bcastPsdu_keeps))
    | (with_reducible apply Walk.step (k := State.bump_keeps))
    | (with_reducible apply Walk.step (k := State.countRefusal_keeps))
    | (with_reducible apply Walk.step (k := State.endMsh_keeps))
    | (with_reducible apply Walk.step (k := State.modMsh_keeps))
    | (with_reducible apply Walk.step (k := State.mshOnAir_keeps))
    | (with_reducible apply Walk.step (k := State.mshRefused_keeps))
    | (with_reducible apply Walk.step (k := State.rfPass_keeps))
    | (with_reducible apply Walk.ite)
    | (split)
    | (with_reducible refine Walk.update ?_ ?_ ?_ ?_ ?_ ?_ ?_ ?_ ?_ ?_ ?_ ?_ ?_ ?_ ?_ ?_ ?_ ?_ ?_ ?_ ?_ ?_ ?_ ?_ ?_ ?_ ?_ rfl rfl)
    | (exact .inl rfl)
    | (exact .inr rfl)
    | (show covers _ _ = true; rfl)

theorem State.endNightSends_keeps {x1 s} : Keeps [.regs, .out, .cmd, .hbr, .msh, .bil, .win 1] s (@State.endNightSends x1 s) := by
  unfold State.endNightSends
  show Walk true _ _ _
  repeat' first
    | (with_reducible exact Walk.refl)
    | (with_reducible apply Walk.step (k := State.endMsh_keeps))
    | (with_reducible apply Walk.foldl)
    | (intro _)
    | (show covers _ _ = true; rfl)

theorem State.heardCollector_keeps {x1 x2 s} : Keeps [.regs, .out, .hbr, .msh, .win 1] s (@State.heardCollector x1 x2 s) := by
  unfold State.heardCollector
  show Walk true _ _ _
  try dsimp only
  repeat' first
    | (with_reducible exact Walk.refl)
    | (with_reducible apply Walk.step (k := State.mshNotice_keeps))
    | (with_reducible apply Walk.step (k := State.setMsh_keeps))
    | (with_reducible apply Walk.ite)
    | (split)
    | (with_reducible refine Walk.update ?_ ?_ ?_ ?_ ?_ ?_ ?_ ?_ ?_ ?_ ?_ ?_ ?_ ?_ ?_ ?_ ?_ ?_ ?_ ?_ ?_ ?_ ?_ ?_ ?_ ?_ ?_ rfl rfl)
    | (exact .inl rfl)
    | (exact .inr rfl)
    | (show covers _ _ = true; rfl)

theorem State.mshDiscard_keeps {x1 s} : Keeps [.regs, .win 6] s (@State.mshDiscard x1 s) := by
  unfold State.mshDiscard
  show Walk true _ _ _
  repeat' first
    | (with_reducible exact Walk.refl)
    | (with_reducible apply Walk.step (k := State.bump_keeps))
    | (show covers _ _ = true; rfl)
    | (split)

theorem State.offer_keeps {x1 s} : Keeps [.fse] s (@State.offer x1 s) := by
  unfold State.offer
  show Walk true _ _ _
  repeat' first
    | (with_reducible exact Walk.refl)
    | (with_reducible refine Walk.update ?_ ?_ ?_ ?_ ?_ ?_ ?_ ?_ ?_ ?_ ?_ ?_ ?_ ?_ ?_ ?_ ?_ ?_ ?_ ?_ ?_ ?_ ?_ ?_ ?_ ?_ ?_ rfl rfl)
    | (exact .inl rfl)
    | (exact .inr rfl)

theorem State.takeFlood_keeps {x1 s} : Keeps [.regs, .fse, .win 6] s (@State.takeFlood x1 s) := by
  unfold State.takeFlood State.ifWhole
  show Walk true _ _ _
  try dsimp only
  repeat' first
    | (with_reducible exact Walk.refl)
    | (with_reducible apply Walk.step (k := State.bump_keeps))
    | (with_reducible apply Walk.step (k := State.mshDiscard_keeps))
    | (with_reducible apply Walk.step (k := State.offer_keeps))
    | (with_reducible apply Walk.step (k := id_keeps))
    | (with_reducible apply Walk.ite)
    | (show covers _ _ = true; rfl)
    | (split)

theorem State.takeBeacon_keeps {x1 s} : Keeps [.regs, .fse, .win 6] s (@State.takeBeacon x1 s) := by
  unfold State.takeBeacon State.ifWhole
  show Walk true _ _ _
  try dsimp only
  repeat' first
    | (with_reducible exact Walk.refl)
    | (with_reducible apply Walk.step (k := State.bump_keeps))
    | (with_reducible apply Walk.step (k := State.mshDiscard_keeps))
    | (with_reducible apply Walk.step (k := State.offer_keeps))
    | (with_reducible apply Walk.step (k := id_keeps))
    | (with_reducible apply Walk.ite)
    | (show covers _ _ = true; rfl)
    | (split)

theorem State.innerFrame_keeps {x1 x2 x3 x4 x5 x6 x7 s} : Keeps [.regs, .plc, .fse, .win 6] s (@State.innerFrame x1 x2 x3 x4 x5 x6 x7 s) := by
  unfold State.innerFrame
  show Walk true _ _ _
  try dsimp only
  repeat' first
    | (with_reducible exact Walk.refl)
    | (with_reducible apply Walk.step (k := State.mshDiscard_keeps))
    | (with_reducible apply Walk.step (k := State.offer_keeps))
    | (with_reducible apply Walk.step (k := State.plcCount_keeps))
    | (with_reducible apply Walk.step (k := State.takeBeacon_keeps))
    | (with_reducible apply Walk.step (k := State.takeFlood_keeps))
    | (with_reducible apply Walk.ite)
    | (split)
    | (with_reducible refine Walk.update ?_ ?_ ?_ ?_ ?_ ?_ ?_ ?_ ?_ ?_ ?_ ?_ ?_ ?_ ?_ ?_ ?_ ?_ ?_ ?_ ?_ ?_ ?_ ?_ ?_ ?_ ?_ rfl rfl)
    | (exact .inl rfl)
    | (exact .inr rfl)
    | (show covers _ _ = true; rfl)

theorem State.tunnelIn_keeps {x1 s} : Keeps [.regs, .out, .hbr, .plc, .fse, .msh, .win 1, .win 6] s (@State.tunnelIn x1 s) := by
  unfold State.tunnelIn
  show Walk true _ _ _
  try dsimp only
  repeat' first
    | (with_reducible exact Walk.refl)
    | (with_reducible apply Walk.step (k := State.bump_keeps))
    | (with_reducible apply Walk.step (k := State.heardCollector_keeps))
    | (with_reducible apply Walk.step (k := State.innerFrame_keeps))
    | (with_reducible apply Walk.ite)
    | (split)
    | (show covers _ _ = true; rfl)

theorem State.takeMshInbox_keeps_of {x1 s a1 t} (h : @State.takeMshInbox x1 s = some (a1, t)) : Keeps [.msh] s t := by
  unfold State.takeMshInbox at h
  repeat' split at h
  all_goals cases h
  show Walk true _ _ _
  repeat' first
    | (with_reducible exact Walk.refl)
    | (with_reducible apply Walk.step (k := State.setMsh_keeps))
    | (show covers _ _ = true; rfl)

theorem State.takeMsh_keeps {x1 s} : Keeps [.regs, .fse, .msh, .win 6] s (@State.takeMsh x1 s) := by
  unfold State.takeMsh State.ifWhole
  show Walk true _ _ _
  try dsimp only
  repeat' first
    | (with_reducible exact Walk.refl)
    | (with_reducible apply Walk.step (k := State.mshDiscard_keeps))
    | (with_reducible apply Walk.step (k := State.offer_keeps))
    | (with_reducible apply Walk.step (k := State.setMsh_keeps))
    | (with_reducible apply Walk.step (k := State.takeFlood_keeps))
    | (with_reducible apply Walk.step (k := id_keeps))
    | (with_reducible apply Walk.ite)
    | (with_reducible refine Walk.update ?_ ?_ ?_ ?_ ?_ ?_ ?_ ?_ ?_ ?_ ?_ ?_ ?_ ?_ ?_ ?_ ?_ ?_ ?_ ?_ ?_ ?_ ?_ ?_ ?_ ?_ ?_ rfl rfl)
    | (exact .inl rfl)
    | (exact .inr rfl)
    | (show covers _ _ = true; rfl)
    | (split)

theorem execMshFrameReceived_keeps {s t} (h : @execMshFrameReceived s = .next t) : Keeps [.regs, .fse, .msh, .win 6] s t := by
  unfold execMshFrameReceived at h
  have e := Host.Outcome.next.inj h
  subst e
  clear h
  show Walk true _ _ _
  try dsimp only
  repeat' first
    | (with_reducible exact Walk.refl)
    | (with_reducible apply Walk.step (k := State.mshDiscard_keeps))
    | (with_reducible apply Walk.step (k := State.takeMsh_keeps))
    | (with_reducible refine Walk.step ?_ (State.takeMshInbox_keeps_of (by assumption)) ?_)
    | (with_reducible apply Walk.ite)
    | (show covers _ _ = true; rfl)
    | (split)

theorem execRfTxEnd_keeps {x1 x2 s t} (h : @execRfTxEnd x1 x2 s = .next t) : Keeps [.regs, .out, .seam, .cmd, .hbr, .evr, .plc, .rfx, .msh, .bil, .par, .win 1, .win 4, .win 5, .win 20, .win 21] s t := by
  unfold execRfTxEnd at h
  have e := Host.Outcome.next.inj h
  subst e
  clear h
  show Walk true _ _ _
  try dsimp only
  repeat' first
    | (with_reducible exact Walk.refl)
    | (with_reducible apply Walk.step (k := State.bumpI_keeps))
    | (with_reducible apply Walk.step (k := State.drainLook_keeps))
    | (with_reducible apply Walk.step (k := State.freeTx_keeps))
    | (with_reducible apply Walk.step (k := State.mshSent_keeps))
    | (show covers _ _ = true; rfl)
    | (split)

theorem State.sendMshAck_keeps {x1 s} : Keeps [.regs, .out, .evr, .tim, .kvt, .ing, .rfx, .msh, .par, .win 5, .win 6, .win 7, .win 14, .win 18, .win 21] s (@State.sendMshAck x1 s) := by
  unfold State.sendMshAck
  show Walk true _ _ _
  try dsimp only
  repeat' first
    | (with_reducible exact Walk.refl)
    | (with_reducible apply Walk.step (k := State.bump_keeps))
    | (with_reducible apply Walk.step (k := State.countRefusal_keeps))
    | (with_reducible apply Walk.step (k := State.rfPass_keeps))
    | (with_reducible apply Walk.step (k := State.setMsh_keeps))
    | (with_reducible refine Walk.step ?_ (State.unicastPsdu_keeps_of (by assumption)) ?_)
    | (with_reducible apply Walk.step (k := State.unicastPsdu_keeps))
    | (with_reducible apply Walk.ite)
    | (split)
    | (with_reducible refine Walk.update ?_ ?_ ?_ ?_ ?_ ?_ ?_ ?_ ?_ ?_ ?_ ?_ ?_ ?_ ?_ ?_ ?_ ?_ ?_ ?_ ?_ ?_ ?_ ?_ ?_ ?_ ?_ rfl rfl)
    | (exact .inl rfl)
    | (exact .inr rfl)
    | (show covers _ _ = true; rfl)

theorem execMshStatus_keeps {x1 x2 s t} (h : @execMshStatus x1 x2 s = .next t) : Keeps [.out, .cmd, .hbr, .bil] s t := by
  unfold execMshStatus at h
  have e := Host.Outcome.next.inj h
  subst e
  clear h
  show Walk true _ _ _
  repeat' first
    | (with_reducible exact Walk.refl)
    | (with_reducible apply Walk.step (k := State.reply_keeps))
    | (with_reducible apply Walk.step (k := State.replyWith_keeps))
    | (with_reducible apply Walk.step (k := State.writeData_keeps))
    | (show covers _ _ = true; rfl)
    | (split)

theorem State.guardSkip_keeps {x1 x2 s} : Keeps [.regs, .out, .hbr, .msh, .win 1, .win 6] s (@State.guardSkip x1 x2 s) := by
  unfold State.guardSkip
  show Walk true _ _ _
  try dsimp only
  repeat' first
    | (with_reducible exact Walk.refl)
    | (with_reducible apply Walk.step (k := State.bump_keeps))
    | (with_reducible apply Walk.step (k := State.mshNotice_keeps))
    | (with_reducible apply Walk.step (k := State.setMsh_keeps))
    | (with_reducible apply Walk.ite)
    | (with_reducible refine Walk.update ?_ ?_ ?_ ?_ ?_ ?_ ?_ ?_ ?_ ?_ ?_ ?_ ?_ ?_ ?_ ?_ ?_ ?_ ?_ ?_ ?_ ?_ ?_ ?_ ?_ ?_ ?_ rfl rfl)
    | (exact .inl rfl)
    | (exact .inr rfl)
    | (show covers _ _ = true; rfl)
    | (split)

theorem State.nightSlot_keeps {x1 x2 s} : Keeps [.regs, .out, .cmd, .hbr, .evr, .tim, .kvt, .ing, .rfx, .msh, .bil, .par, .win 1, .win 5, .win 6, .win 7, .win 14, .win 18, .win 21] s (@State.nightSlot x1 x2 s) := by
  unfold State.nightSlot
  show Walk true _ _ _
  try dsimp only
  repeat' first
    | (with_reducible exact Walk.refl)
    | (with_reducible apply Walk.step (k := State.countedSend_keeps))
    | (with_reducible apply Walk.step (k := State.guardSkip_keeps))
    | (with_reducible apply Walk.ite)
    | (split)
    | (show covers _ _ = true; rfl)

theorem execNightSlotOccurrence_keeps {x1 s t} (h : @execNightSlotOccurrence x1 s = .next t) : Keeps [.regs, .out, .cmd, .hbr, .evr, .tim, .kvt, .ing, .rfx, .msh, .bil, .par, .win 1, .win 5, .win 6, .win 7, .win 14, .win 18, .win 21] s t := by
  unfold execNightSlotOccurrence at h
  have e := Host.Outcome.next.inj h
  subst e
  clear h
  show Walk true _ _ _
  repeat' first
    | (with_reducible exact Walk.refl)
    | (with_reducible apply Walk.step (k := State.nightSlot_keeps))
    | (show covers _ _ = true; rfl)
    | (split)

theorem State.bcastFloor_keeps {x1 s} : Keeps [.msh] s (@State.bcastFloor x1 s) := by
  unfold State.bcastFloor
  show Walk true _ _ _
  repeat' first
    | (with_reducible exact Walk.refl)
    | (with_reducible apply Walk.step (k := State.setMsh_keeps))
    | (show covers _ _ = true; rfl)
    | (split)

theorem execMshSlotRemoveAll_keeps {x1 x2 s t} (h : @execMshSlotRemoveAll x1 x2 s = .next t) : Keeps [.cmd, .ing, .msh, .bil] s t := by
  unfold execMshSlotRemoveAll at h
  have e := Host.Outcome.next.inj h
  subst e
  clear h
  show Walk true _ _ _
  try dsimp only
  repeat' first
    | (with_reducible exact Walk.refl)
    | (with_reducible apply Walk.step (k := State.homeAgain_keeps))
    | (with_reducible apply Walk.step (k := State.queueMac_keeps))
    | (with_reducible apply Walk.step (k := State.reply_keeps))
    | (with_reducible apply Walk.step (k := State.replyWith_keeps))
    | (with_reducible apply Walk.step (k := State.setMsh_keeps))
    | (with_reducible apply Walk.ite)
    | (with_reducible refine Walk.update ?_ ?_ ?_ ?_ ?_ ?_ ?_ ?_ ?_ ?_ ?_ ?_ ?_ ?_ ?_ ?_ ?_ ?_ ?_ ?_ ?_ ?_ ?_ ?_ ?_ ?_ ?_ rfl rfl)
    | (exact .inl rfl)
    | (exact .inr rfl)
    | (show covers _ _ = true; rfl)
    | (split)

theorem execMshNightslotClear_keeps {x1 x2 s t} (h : @execMshNightslotClear x1 x2 s = .next t) : Keeps [.regs, .out, .cmd, .hbr, .msh, .bil, .win 1] s t := by
  unfold execMshNightslotClear at h
  have e := Host.Outcome.next.inj h
  subst e
  clear h
  show Walk true _ _ _
  repeat' first
    | (with_reducible exact Walk.refl)
    | (with_reducible apply Walk.step (k := State.reply_keeps))
    | (with_reducible apply Walk.step (k := State.endNightSends_keeps))
    | (with_reducible apply Walk.step (k := State.setMsh_keeps))
    | (with_reducible apply Walk.step (k := State.queueMac_keeps))
    | (show covers _ _ = true; rfl)
    | (split)

theorem execMshBeaconHeard_keeps {s t} (h : @execMshBeaconHeard s = .next t) : Keeps [.regs, .fse, .msh, .win 6] s t := by
  unfold execMshBeaconHeard at h
  have e := Host.Outcome.next.inj h
  subst e
  clear h
  show Walk true _ _ _
  try dsimp only
  repeat' first
    | (with_reducible exact Walk.refl)
    | (with_reducible apply Walk.step (k := State.mshDiscard_keeps))
    | (with_reducible apply Walk.step (k := State.takeBeacon_keeps))
    | (with_reducible refine Walk.step ?_ (State.takeMshInbox_keeps_of (by assumption)) ?_)
    | (with_reducible apply Walk.ite)
    | (show covers _ _ = true; rfl)
    | (split)

theorem State.setNight_keeps {x1 x2 s} : Keeps [.cmd, .msh, .bil] s (@State.setNight x1 x2 s) := by
  unfold State.setNight
  show Walk true _ _ _
  try dsimp only
  repeat' first
    | (with_reducible exact Walk.refl)
    | (with_reducible apply Walk.step (k := State.queueMac_keeps))
    | (with_reducible apply Walk.step (k := State.reply_keeps))
    | (with_reducible apply Walk.step (k := State.setMsh_keeps))
    | (with_reducible apply Walk.ite)
    | (with_reducible refine Walk.update ?_ ?_ ?_ ?_ ?_ ?_ ?_ ?_ ?_ ?_ ?_ ?_ ?_ ?_ ?_ ?_ ?_ ?_ ?_ ?_ ?_ ?_ ?_ ?_ ?_ ?_ ?_ rfl rfl)
    | (exact .inl rfl)
    | (exact .inr rfl)
    | (show covers _ _ = true; rfl)
    | (split)

theorem execMshNightslotSet_keeps {x1 x2 s t} (h : @execMshNightslotSet x1 x2 s = .next t) : Keeps [.cmd, .msh, .bil] s t := by
  unfold execMshNightslotSet at h
  have e := Host.Outcome.next.inj h
  subst e
  clear h
  show Walk true _ _ _
  repeat' first
    | (with_reducible exact Walk.refl)
    | (with_reducible apply Walk.step (k := State.reply_keeps))
    | (with_reducible apply Walk.step (k := State.setNight_keeps))
    | (show covers _ _ = true; rfl)
    | (split)

theorem execMshFlood_keeps {x1 x2 s t} (h : @execMshFlood x1 x2 s = .next t) : Keeps [.regs, .out, .cmd, .msh, .bil, .par, .win 18] s t := by
  unfold execMshFlood at h
  have e := Host.Outcome.next.inj h
  subst e
  clear h
  show Walk true _ _ _
  try dsimp only
  repeat' first
    | (with_reducible exact Walk.refl)
    | (with_reducible apply Walk.step (k := State.mshFlood_keeps))
    | (with_reducible apply Walk.ite)
    | (show covers _ _ = true; rfl)
    | (split)

theorem State.mshConfigure_keeps {x1 x2 s} : Keeps [.regs, .msh, .win 6] s (@State.mshConfigure x1 x2 s) := by
  unfold State.mshConfigure
  show Walk true _ _ _
  try dsimp only
  repeat' first
    | (with_reducible exact Walk.refl)
    | (with_reducible apply Walk.step (k := State.bcastFloor_keeps))
    | (with_reducible apply Walk.step (k := State.setMsh_keeps))
    | (with_reducible apply Walk.step (k := State.setRegBit_keeps))
    | (with_reducible apply Walk.ite)
    | (split)
    | (with_reducible refine Walk.update ?_ ?_ ?_ ?_ ?_ ?_ ?_ ?_ ?_ ?_ ?_ ?_ ?_ ?_ ?_ ?_ ?_ ?_ ?_ ?_ ?_ ?_ ?_ ?_ ?_ ?_ ?_ rfl rfl)
    | (exact .inl rfl)
    | (exact .inr rfl)
    | (show covers _ _ = true; rfl)

theorem execMshBeaconSet_keeps {x1 x2 s t} (h : @execMshBeaconSet x1 x2 s = .next t) : Keeps [.cmd, .msh, .bil] s t := by
  unfold execMshBeaconSet at h
  have e := Host.Outcome.next.inj h
  subst e
  clear h
  show Walk true _ _ _
  try dsimp only
  repeat' first
    | (with_reducible exact Walk.refl)
    | (with_reducible apply Walk.step (k := State.reply_keeps))
    | (with_reducible apply Walk.step (k := State.setMsh_keeps))
    | (with_reducible apply Walk.ite)
    | (with_reducible refine Walk.update ?_ ?_ ?_ ?_ ?_ ?_ ?_ ?_ ?_ ?_ ?_ ?_ ?_ ?_ ?_ ?_ ?_ ?_ ?_ ?_ ?_ ?_ ?_ ?_ ?_ ?_ ?_ rfl rfl)
    | (exact .inl rfl)
    | (exact .inr rfl)
    | (show covers _ _ = true; rfl)
    | (split)

theorem execMshSend_keeps {x1 x2 s t} (h : @execMshSend x1 x2 s = .next t) : Keeps [.regs, .out, .cmd, .hbr, .evr, .tim, .kvt, .ing, .msh, .bil, .par, .win 1, .win 7, .win 14, .win 18, .win 21] s t := by
  unfold execMshSend at h
  have e := Host.Outcome.next.inj h
  subst e
  clear h
  show Walk true _ _ _
  try dsimp only
  repeat' first
    | (with_reducible exact Walk.refl)
    | (with_reducible apply Walk.step (k := State.mshSend_keeps))
    | (with_reducible apply Walk.ite)
    | (show covers _ _ = true; rfl)
    | (split)

theorem State.takeBeaconCfg_keeps {x1 s} : Keeps [.msh] s (@State.takeBeaconCfg x1 s) := by
  unfold State.takeBeaconCfg
  show Walk true _ _ _
  try dsimp only
  repeat' first
    | (with_reducible exact Walk.refl)
    | (with_reducible apply Walk.step (k := State.setMsh_keeps))
    | (with_reducible apply Walk.ite)
    | (split)
    | (with_reducible refine Walk.update ?_ ?_ ?_ ?_ ?_ ?_ ?_ ?_ ?_ ?_ ?_ ?_ ?_ ?_ ?_ ?_ ?_ ?_ ?_ ?_ ?_ ?_ ?_ ?_ ?_ ?_ ?_ rfl rfl)
    | (exact .inl rfl)
    | (exact .inr rfl)
    | (show covers _ _ = true; rfl)

theorem State.sendBeacon_keeps {x1 x2 x3 x4 s} : Keeps [.regs, .out, .aon, .evr, .tim, .kvt, .ing, .rfx, .msh, .par, .win 5, .win 6, .win 7, .win 14, .win 18, .win 21] s (@State.sendBeacon x1 x2 x3 x4 s) := by
  unfold State.sendBeacon
  show Walk true _ _ _
  try dsimp only
  repeat' first
    | (with_reducible exact Walk.refl)
    | (with_reducible refine Walk.step ?_ (State.bcastPsdu_keeps_of (by assumption)) ?_)
    | (with_reducible apply Walk.step (k := State.bcastPsdu_keeps))
    | (with_reducible apply Walk.step (k := State.bump_keeps))
    | (with_reducible apply Walk.step (k := State.countRefusal_keeps))
    | (with_reducible apply Walk.step (k := State.rfPass_keeps))
    | (with_reducible apply Walk.step (k := State.setMsh_keeps))
    | (with_reducible apply Walk.ite)
    | (split)
    | (with_reducible refine Walk.update ?_ ?_ ?_ ?_ ?_ ?_ ?_ ?_ ?_ ?_ ?_ ?_ ?_ ?_ ?_ ?_ ?_ ?_ ?_ ?_ ?_ ?_ ?_ ?_ ?_ ?_ ?_ rfl rfl)
    | (exact .inl rfl)
    | (exact .inr rfl)
    | (show covers _ _ = true; rfl)

theorem State.beaconDue_keeps {x1 s} : Keeps [.regs, .out, .aon, .evr, .tim, .kvt, .ing, .rfx, .msh, .par, .win 5, .win 6, .win 7, .win 14, .win 18, .win 21] s (@State.beaconDue x1 s) := by
  unfold State.beaconDue
  show Walk true _ _ _
  try dsimp only
  repeat' first
    | (with_reducible exact Walk.refl)
    | (with_reducible apply Walk.step (k := State.sendBeacon_keeps))
    | (with_reducible apply Walk.step (k := State.takeBeaconCfg_keeps))
    | (with_reducible apply Walk.ite)
    | (show covers _ _ = true; rfl)
    | (split)

theorem execMshSlotRemove_keeps {x1 x2 x3 s t} (h : @execMshSlotRemove x1 x2 x3 s = .next t) : Keeps [.cmd, .ing, .msh, .bil] s t := by
  unfold execMshSlotRemove at h
  have e := Host.Outcome.next.inj h
  subst e
  clear h
  show Walk true _ _ _
  try dsimp only
  repeat' first
    | (with_reducible exact Walk.refl)
    | (with_reducible apply Walk.step (k := State.homeAgain_keeps))
    | (with_reducible apply Walk.step (k := State.queueMac_keeps))
    | (with_reducible apply Walk.step (k := State.reply_keeps))
    | (with_reducible apply Walk.step (k := State.replyWith_keeps))
    | (with_reducible apply Walk.step (k := State.setMsh_keeps))
    | (with_reducible apply Walk.ite)
    | (with_reducible refine Walk.update ?_ ?_ ?_ ?_ ?_ ?_ ?_ ?_ ?_ ?_ ?_ ?_ ?_ ?_ ?_ ?_ ?_ ?_ ?_ ?_ ?_ ?_ ?_ ?_ ?_ ?_ ?_ rfl rfl)
    | (exact .inl rfl)
    | (exact .inr rfl)
    | (show covers _ _ = true; rfl)
    | (split)

theorem execSeenCacheExpiry_keeps {s t} (h : @execSeenCacheExpiry s = .next t) : Keeps [.msh] s t := by
  unfold execSeenCacheExpiry at h
  have e := Host.Outcome.next.inj h
  subst e
  clear h
  show Walk true _ _ _
  try dsimp only
  repeat' first
    | (with_reducible exact Walk.refl)
    | (with_reducible apply Walk.step (k := State.setMsh_keeps))
    | (with_reducible refine Walk.update ?_ ?_ ?_ ?_ ?_ ?_ ?_ ?_ ?_ ?_ ?_ ?_ ?_ ?_ ?_ ?_ ?_ ?_ ?_ ?_ ?_ ?_ ?_ ?_ ?_ ?_ ?_ rfl rfl)
    | (exact .inl rfl)
    | (exact .inr rfl)
    | (show covers _ _ = true; rfl)
    | (split)

theorem State.addAssign_keeps {x1 x2 s} : Keeps [.cmd, .ing, .msh, .bil] s (@State.addAssign x1 x2 s) := by
  unfold State.addAssign
  show Walk true _ _ _
  try dsimp only
  repeat' first
    | (with_reducible exact Walk.refl)
    | (with_reducible apply Walk.step (k := State.reply_keeps))
    | (with_reducible apply Walk.step (k := State.setMsh_keeps))
    | (with_reducible apply Walk.step (k := State.queueMac_keeps))
    | (with_reducible apply Walk.step (k := State.setCtx_keeps))
    | (with_reducible apply Walk.step (k := State.replyWith_keeps))
    | (show covers _ _ = true; rfl)
    | (split)

theorem execMshAckTimeout_keeps {x1 s t} (h : @execMshAckTimeout x1 s = .next t) : Keeps [.regs, .out, .freeCtr, .cmd, .hbr, .msh, .bil, .win 1, .win 6] s t := by
  unfold execMshAckTimeout at h
  have e := Host.Outcome.next.inj h
  subst e
  clear h
  show Walk true _ _ _
  try dsimp only
  repeat' first
    | (with_reducible exact Walk.refl)
    | (with_reducible apply Walk.step (k := State.mshNoAck_keeps))
    | (with_reducible apply Walk.ite)
    | (show covers _ _ = true; rfl)
    | (split)

theorem execAtCollectorDown_keeps {x1 s t} (h : @execAtCollectorDown x1 s = .next t) : Keeps [.regs, .out, .hbr, .msh, .win 1] s t := by
  unfold execAtCollectorDown at h
  have e := Host.Outcome.next.inj h
  subst e
  clear h
  show Walk true _ _ _
  try dsimp only
  repeat' first
    | (with_reducible exact Walk.refl)
    | (with_reducible apply Walk.step (k := State.mshNotice_keeps))
    | (with_reducible apply Walk.step (k := State.setMsh_keeps))
    | (with_reducible apply Walk.ite)
    | (split)
    | (with_reducible refine Walk.update ?_ ?_ ?_ ?_ ?_ ?_ ?_ ?_ ?_ ?_ ?_ ?_ ?_ ?_ ?_ ?_ ?_ ?_ ?_ ?_ ?_ ?_ ?_ ?_ ?_ ?_ ?_ rfl rfl)
    | (exact .inl rfl)
    | (exact .inr rfl)
    | (show covers _ _ = true; rfl)

theorem execMshSlotAdd_keeps {x1 x2 s t} (h : @execMshSlotAdd x1 x2 s = .next t) : Keeps [.cmd, .ing, .msh, .bil] s t := by
  unfold execMshSlotAdd at h
  have e := Host.Outcome.next.inj h
  subst e
  clear h
  show Walk true _ _ _
  repeat' first
    | (with_reducible exact Walk.refl)
    | (with_reducible apply Walk.step (k := State.reply_keeps))
    | (with_reducible apply Walk.step (k := State.addAssign_keeps))
    | (show covers _ _ = true; rfl)
    | (split)

theorem execPiggybackSend_keeps {s t} (h : @execPiggybackSend s = .next t) : Keeps [.regs, .out, .cmd, .hbr, .evr, .tim, .kvt, .ing, .rfx, .msh, .bil, .par, .win 1, .win 5, .win 6, .win 7, .win 14, .win 18, .win 21] s t := by
  unfold execPiggybackSend at h
  have e := Host.Outcome.next.inj h
  subst e
  clear h
  show Walk true _ _ _
  try dsimp only
  repeat' first
    | (with_reducible exact Walk.refl)
    | (with_reducible apply Walk.step (k := State.countedSend_keeps))
    | (with_reducible apply Walk.step (k := State.setMsh_keeps))
    | (with_reducible apply Walk.ite)
    | (split)
    | (with_reducible refine Walk.update ?_ ?_ ?_ ?_ ?_ ?_ ?_ ?_ ?_ ?_ ?_ ?_ ?_ ?_ ?_ ?_ ?_ ?_ ?_ ?_ ?_ ?_ ?_ ?_ ?_ ?_ ?_ rfl rfl)
    | (exact .inl rfl)
    | (exact .inr rfl)
    | (show covers _ _ = true; rfl)

theorem execFloodCopySend_keeps {x1 x2 s t} (h : @execFloodCopySend x1 x2 s = .next t) : Keeps [.regs, .out, .cmd, .hbr, .aon, .evr, .tim, .kvt, .ing, .rfx, .msh, .bil, .par, .win 1, .win 5, .win 6, .win 7, .win 14, .win 18, .win 21] s t := by
  unfold execFloodCopySend at h
  have e := Host.Outcome.next.inj h
  subst e
  clear h
  show Walk true _ _ _
  repeat' first
    | (with_reducible exact Walk.refl)
    | (with_reducible apply Walk.step (k := State.floodCopy_keeps))
    | (show covers _ _ = true; rfl)
    | (split)

theorem execMshAckReceived_keeps {s t} (h : @execMshAckReceived s = .next t) : Keeps [.regs, .out, .cmd, .hbr, .ing, .msh, .bil, .win 1] s t := by
  unfold execMshAckReceived at h
  have e := Host.Outcome.next.inj h
  subst e
  clear h
  show Walk true _ _ _
  repeat' first
    | (with_reducible exact Walk.refl)
    | (with_reducible apply Walk.step (k := State.takeAck_keeps))
    | (with_reducible apply Walk.step (k := State.setMsh_keeps))
    | (show covers _ _ = true; rfl)
    | (split)

theorem execMshSendExpired_keeps {x1 s t} (h : @execMshSendExpired x1 s = .next t) : Keeps [.regs, .out, .cmd, .hbr, .msh, .bil, .win 1] s t := by
  unfold execMshSendExpired at h
  have e := Host.Outcome.next.inj h
  subst e
  clear h
  show Walk true _ _ _
  try dsimp only
  repeat' first
    | (with_reducible exact Walk.refl)
    | (with_reducible apply Walk.step (k := State.endMsh_keeps))
    | (with_reducible apply Walk.ite)
    | (split)
    | (show covers _ _ = true; rfl)

theorem execMshBeaconSend_keeps {x1 s t} (h : @execMshBeaconSend x1 s = .next t) : Keeps [.regs, .out, .aon, .evr, .tim, .kvt, .ing, .rfx, .msh, .par, .win 5, .win 6, .win 7, .win 14, .win 18, .win 21] s t := by
  unfold execMshBeaconSend at h
  have e := Host.Outcome.next.inj h
  subst e
  clear h
  show Walk true _ _ _
  repeat' first
    | (with_reducible exact Walk.refl)
    | (with_reducible apply Walk.step (k := State.beaconDue_keeps))
    | (show covers _ _ = true; rfl)
    | (split)

theorem execMapApply_keeps {s t} (h : @execMapApply s = .next t) : Keeps [.regs, .out, .hbr, .msh, .win 1] s t := by
  unfold execMapApply at h
  have e := Host.Outcome.next.inj h
  subst e
  clear h
  show Walk true _ _ _
  try dsimp only
  repeat' first
    | (with_reducible exact Walk.refl)
    | (with_reducible apply Walk.step (k := State.mshNotice_keeps))
    | (with_reducible apply Walk.step (k := State.setMsh_keeps))
    | (with_reducible apply Walk.ite)
    | (split)
    | (with_reducible refine Walk.update ?_ ?_ ?_ ?_ ?_ ?_ ?_ ?_ ?_ ?_ ?_ ?_ ?_ ?_ ?_ ?_ ?_ ?_ ?_ ?_ ?_ ?_ ?_ ?_ ?_ ?_ ?_ rfl rfl)
    | (exact .inl rfl)
    | (exact .inr rfl)
    | (show covers _ _ = true; rfl)

theorem execMshAckSend_keeps {s t} (h : @execMshAckSend s = .next t) : Keeps [.regs, .out, .evr, .tim, .kvt, .ing, .rfx, .msh, .par, .win 5, .win 6, .win 7, .win 14, .win 18, .win 21] s t := by
  unfold execMshAckSend at h
  have e := Host.Outcome.next.inj h
  subst e
  clear h
  show Walk true _ _ _
  try dsimp only
  repeat' first
    | (with_reducible exact Walk.refl)
    | (with_reducible apply Walk.step (k := State.bump_keeps))
    | (with_reducible apply Walk.step (k := State.sendMshAck_keeps))
    | (with_reducible apply Walk.step (k := State.setMsh_keeps))
    | (with_reducible apply Walk.ite)
    | (split)
    | (with_reducible refine Walk.update ?_ ?_ ?_ ?_ ?_ ?_ ?_ ?_ ?_ ?_ ?_ ?_ ?_ ?_ ?_ ?_ ?_ ?_ ?_ ?_ ?_ ?_ ?_ ?_ ?_ ?_ ?_ rfl rfl)
    | (exact .inl rfl)
    | (exact .inr rfl)
    | (show covers _ _ = true; rfl)

theorem execAtDatagramReceived_keeps {x1 s t} (h : @execAtDatagramReceived x1 s = .next t) : Keeps [.regs, .out, .hbr, .plc, .fse, .msh, .win 1, .win 6] s t := by
  unfold execAtDatagramReceived at h
  have e := Host.Outcome.next.inj h
  subst e
  clear h
  show Walk true _ _ _
  try dsimp only
  repeat' first
    | (with_reducible exact Walk.refl)
    | (with_reducible apply Walk.step (k := State.tunnelIn_keeps))
    | (with_reducible apply Walk.ite)
    | (show covers _ _ = true; rfl)
    | (split)

theorem execMshConfig_keeps {x1 x2 s t} (h : @execMshConfig x1 x2 s = .next t) : Keeps [.regs, .cmd, .evr, .msh, .bil, .wins] s t := by
  unfold execMshConfig at h
  have e := Host.Outcome.next.inj h
  subst e
  clear h
  show Walk true _ _ _
  try dsimp only
  repeat' first
    | (with_reducible exact Walk.refl)
    | (with_reducible apply Walk.step (k := State.lockViolation_keeps))
    | (with_reducible apply Walk.step (k := State.mshConfigure_keeps))
    | (with_reducible apply Walk.step (k := State.reply_keeps))
    | (with_reducible apply Walk.ite)
    | (show covers _ _ = true; rfl)
    | (split)

theorem State.takeLate_keeps {s} : Keeps [.regs, .out, .cmd, .hbr, .tim, .plc, .msh, .bil, .win 1, .win 20] s (@State.takeLate s) := by
  unfold State.takeLate
  show Walk true _ _ _
  repeat' first
    | (with_reducible exact Walk.refl)
    | (with_reducible apply Walk.step (k := State.notLaunched_keeps))
    | (with_reducible apply Walk.step (k := State.endMsh_keeps))
    | (with_reducible apply Walk.foldl)
    | (intro _)
    | (with_reducible refine Walk.update ?_ ?_ ?_ ?_ ?_ ?_ ?_ ?_ ?_ ?_ ?_ ?_ ?_ ?_ ?_ ?_ ?_ ?_ ?_ ?_ ?_ ?_ ?_ ?_ ?_ ?_ ?_ rfl rfl)
    | (exact .inl rfl)
    | (exact .inr rfl)
    | (show covers _ _ = true; rfl)
    | (split)

theorem execLaunchInsert_keeps {x1 x2 x3 x4 s t} (h : @execLaunchInsert x1 x2 x3 x4 s = .next t) : Keeps [.regs, .out, .cmd, .hbr, .tim, .plc, .msh, .bil, .win 1, .win 15, .win 20] s t := by
  unfold execLaunchInsert at h
  have e := Host.Outcome.next.inj h
  subst e
  clear h
  show Walk true _ _ _
  repeat' first
    | (with_reducible exact Walk.refl)
    | (with_reducible apply Walk.step (k := State.takeLate_keeps))
    | (with_reducible apply Walk.step (k := State.launchInsert_keeps))
    | (show covers _ _ = true; rfl)

end Sys2Proof.Machine
end

