-- ==== Sys2Proof/Laws/KeepsBilOps.lean ====
section
/-! SUPPORT. What each operation of BilOps can change, and that it keeps the canonical forms. -/
set_option Elab.async false
namespace Sys2Proof.Machine

theorem State.setBil_keeps {x1 s} : Keeps [.bil] s (@State.setBil x1 s) := by
  unfold State.setBil
  show Walk true _ _ _
  repeat' first
    | (with_reducible exact Walk.refl)
    | (with_reducible refine Walk.update ?_ ?_ ?_ ?_ ?_ ?_ ?_ ?_ ?_ ?_ ?_ ?_ ?_ ?_ ?_ ?_ ?_ ?_ ?_ ?_ ?_ ?_ ?_ ?_ ?_ ?_ ?_ rfl rfl)
    | (exact .inl rfl)
    | (exact .inr rfl)

theorem State.bilNotice_keeps {x1 x2 x3 x4 x5 s} : Keeps [.regs, .out, .hbr, .win 1] s (@State.bilNotice x1 x2 x3 x4 x5 s) := by
  unfold State.bilNotice
  show Walk true _ _ _
  repeat' first
    | (with_reducible exact Walk.refl)
    | (with_reducible apply Walk.step (k := State.event_keeps))
    | (show covers _ _ = true; rfl)

theorem State.dropCampaign_keeps {x1 s} : Keeps [.plc, .msh] s (@State.dropCampaign x1 s) := by
  unfold State.dropCampaign
  show Walk true _ _ _
  repeat' first
    | (with_reducible exact Walk.refl)
    | (with_reducible refine Walk.update ?_ ?_ ?_ ?_ ?_ ?_ ?_ ?_ ?_ ?_ ?_ ?_ ?_ ?_ ?_ ?_ ?_ ?_ ?_ ?_ ?_ ?_ ?_ ?_ ?_ ?_ ?_ rfl rfl)
    | (exact .inl rfl)
    | (exact .inr rfl)

theorem State.campPause_keeps {x1 s} : Keeps [.regs, .out, .hbr, .plc, .msh, .bil, .win 1] s (@State.campPause x1 s) := by
  unfold State.campPause
  show Walk true _ _ _
  repeat' first
    | (with_reducible exact Walk.refl)
    | (with_reducible apply Walk.step (k := State.bilNotice_keeps))
    | (with_reducible apply Walk.step (k := State.dropCampaign_keeps))
    | (with_reducible apply Walk.step (k := State.setBil_keeps))
    | (show covers _ _ = true; rfl)

theorem State.campPauseAll_keeps {s} : Keeps [.regs, .out, .hbr, .plc, .msh, .bil, .win 1] s (@State.campPauseAll s) := by
  unfold State.campPauseAll
  show Walk true _ _ _
  repeat' first
    | (with_reducible exact Walk.refl)
    | (with_reducible apply Walk.step (k := State.campPause_keeps))
    | (with_reducible apply Walk.foldl)
    | (intro _)
    | (show covers _ _ = true; rfl)

theorem State.ownUnicast_keeps {x1 x2 x3 s} : Keeps [.regs, .out, .cmd, .hbr, .evr, .tim, .kvt, .ing, .plc, .msh, .bil, .par, .win 1, .win 4, .win 7, .win 14, .win 18, .win 21] s (@State.ownUnicast x1 x2 x3 s) := by
  unfold State.ownUnicast
  show Walk true _ _ _
  repeat' first
    | (with_reducible exact Walk.refl)
    | (with_reducible apply Walk.step (k := State.ownReply_keeps))
    | (with_reducible apply Walk.step (k := State.plcSend_keeps))
    | (with_reducible apply Walk.step (k := State.mshSend_keeps))
    | (show covers _ _ = true; rfl)
    | (split)

theorem State.sendIslandRec_keeps {x1 x2 x3 s} : Keeps [.regs, .out, .freeCtr, .bil, .win 18] s (@State.sendIslandRec x1 x2 x3 s) := by
  unfold State.sendIslandRec
  show Walk true _ _ _
  try dsimp only
  repeat' first
    | (with_reducible exact Walk.refl)
    | (with_reducible apply Walk.step (k := State.bump_keeps))
    | (with_reducible apply Walk.step (k := State.drawn_keeps))
    | (with_reducible apply Walk.step (k := State.emit_keeps))
    | (with_reducible apply Walk.step (k := State.setBil_keeps))
    | (with_reducible apply Walk.ite)
    | (with_reducible refine Walk.update ?_ ?_ ?_ ?_ ?_ ?_ ?_ ?_ ?_ ?_ ?_ ?_ ?_ ?_ ?_ ?_ ?_ ?_ ?_ ?_ ?_ ?_ ?_ ?_ ?_ ?_ ?_ rfl rfl)
    | (exact .inl rfl)
    | (exact .inr rfl)
    | (show covers _ _ = true; rfl)
    | (split)

theorem State.startReplay_keeps {x1 x2 x3 s} : Keeps [.bil] s (@State.startReplay x1 x2 x3 s) := by
  unfold State.startReplay
  show Walk true _ _ _
  repeat' first
    | (with_reducible exact Walk.refl)
    | (with_reducible apply Walk.step (k := State.setBil_keeps))
    | (show covers _ _ = true; rfl)

theorem State.setLedger_keeps {x1 x2 s} : Keeps [.bil] s (@State.setLedger x1 x2 s) := by
  unfold State.setLedger
  show Walk true _ _ _
  repeat' first
    | (with_reducible exact Walk.refl)
    | (with_reducible apply Walk.step (k := State.setBil_keeps))
    | (show covers _ _ = true; rfl)

theorem State.countRestore_keeps {x1 x2 x3 x4 s} : Keeps [.bil] s (@State.countRestore x1 x2 x3 x4 s) := by
  unfold State.countRestore
  show Walk true _ _ _
  repeat' first
    | (with_reducible exact Walk.refl)
    | (with_reducible apply Walk.step (k := State.setBil_keeps))
    | (show covers _ _ = true; rfl)
    | (split)

theorem State.dropApplied_keeps {x1 s} : Keeps [.bil] s (@State.dropApplied x1 s) := by
  unfold State.dropApplied
  show Walk true _ _ _
  repeat' first
    | (with_reducible exact Walk.refl)
    | (with_reducible apply Walk.step (k := State.setBil_keeps))
    | (show covers _ _ = true; rfl)
    | (split)

theorem State.releaseHold_keeps {x1 x2 s} : Keeps [.regs, .out, .hbr, .bil, .win 1] s (@State.releaseHold x1 x2 s) := by
  unfold State.releaseHold
  show Walk true _ _ _
  repeat' first
    | (with_reducible exact Walk.refl)
    | (with_reducible apply Walk.step (k := State.bilNotice_keeps))
    | (with_reducible apply Walk.step (k := State.setLedger_keeps))
    | (with_reducible apply Walk.step (k := State.countRestore_keeps))
    | (with_reducible apply Walk.step (k := State.dropApplied_keeps))
    | (show covers _ _ = true; rfl)

theorem State.goInForce_keeps {x1 x2 s} : Keeps [.regs, .out, .hbr, .bil, .win 1] s (@State.goInForce x1 x2 s) := by
  unfold State.goInForce
  show Walk true _ _ _
  repeat' first
    | (with_reducible exact Walk.refl)
    | (with_reducible apply Walk.step (k := State.startReplay_keeps))
    | (with_reducible apply Walk.step (k := State.releaseHold_keeps))
    | (show covers _ _ = true; rfl)
    | (split)

theorem State.mtagOk_keeps {x1 s} : Keeps [.regs, .evr, .kvt, .win 14, .win 21] s (@State.mtagOk x1 s).2 := by
  unfold State.mtagOk
  show Walk true _ _ _
  repeat' first
    | (with_reducible exact Walk.refl)
    | (with_reducible refine Walk.step ?_ (State.islandKey_keeps_of (by assumption)) ?_)
    | (with_reducible apply Walk.step (k := State.islandKey_keeps))
    | (show covers _ _ = true; rfl)
    | (split)
theorem State.mtagOk_keeps_of {x1 s a1 t} (h : @State.mtagOk x1 s = (a1, t)) : Keeps [.regs, .evr, .kvt, .win 14, .win 21] s t := by
  have := @State.mtagOk_keeps x1 s
  rw [h] at this
  exact this

theorem State.campMulticast_keeps {x1 x2 x3 s} : Keeps [.regs, .out, .cmd, .plc, .msh, .bil, .par, .win 4, .win 18] s (@State.campMulticast x1 x2 x3 s) := by
  unfold State.campMulticast
  show Walk true _ _ _
  repeat' first
    | (with_reducible exact Walk.refl)
    | (with_reducible apply Walk.step (k := State.plcMcast_keeps))
    | (with_reducible apply Walk.step (k := State.mshFlood_keeps))
    | (with_reducible apply Walk.foldl)
    | (intro _)
    | (show covers _ _ = true; rfl)
    | (split)

theorem State.campUnicast_keeps {x1 x2 x3 s} : Keeps [.regs, .out, .cmd, .hbr, .evr, .tim, .kvt, .ing, .plc, .msh, .bil, .par, .win 1, .win 4, .win 7, .win 14, .win 18, .win 21] s (@State.campUnicast x1 x2 x3 s) := by
  unfold State.campUnicast
  show Walk true _ _ _
  repeat' first
    | (with_reducible exact Walk.refl)
    | (with_reducible apply Walk.step (k := State.ownUnicast_keeps))
    | (with_reducible apply Walk.foldl)
    | (intro _)
    | (show covers _ _ = true; rfl)
    | (split)

theorem State.campOpen_keeps {x1 s} : Keeps [.regs, .out, .cmd, .hbr, .evr, .tim, .kvt, .ing, .plc, .msh, .bil, .par, .win 1, .win 4, .win 7, .win 14, .win 18, .win 21] s (@State.campOpen x1 s) := by
  unfold State.campOpen
  show Walk true _ _ _
  try dsimp only
  repeat' first
    | (with_reducible exact Walk.refl)
    | (with_reducible apply Walk.step (k := State.setBil_keeps))
    | (with_reducible refine Walk.step ?_ (State.noonKey_keeps_of (by assumption)) ?_)
    | (with_reducible apply Walk.step (k := State.noonKey_keeps))
    | (with_reducible apply Walk.step (k := State.campMulticast_keeps))
    | (with_reducible apply Walk.step (k := State.campUnicast_keeps))
    | (split)
    | (with_reducible refine Walk.update ?_ ?_ ?_ ?_ ?_ ?_ ?_ ?_ ?_ ?_ ?_ ?_ ?_ ?_ ?_ ?_ ?_ ?_ ?_ ?_ ?_ ?_ ?_ ?_ ?_ ?_ ?_ rfl rfl)
    | (exact .inl rfl)
    | (exact .inr rfl)
    | (show covers _ _ = true; rfl)

theorem State.tokenOk_keeps {x1 x2 s} : Keeps [.regs, .evr, .kvt, .win 14, .win 21] s (@State.tokenOk x1 x2 s).2 := by
  unfold State.tokenOk
  show Walk true _ _ _
  repeat' first
    | (with_reducible exact Walk.refl)
    | (with_reducible refine Walk.step ?_ (State.islandKey_keeps_of (by assumption)) ?_)
    | (with_reducible apply Walk.step (k := State.islandKey_keeps))
    | (show covers _ _ = true; rfl)
    | (split)
theorem State.tokenOk_keeps_of {x1 x2 s a1 t} (h : @State.tokenOk x1 x2 s = (a1, t)) : Keeps [.regs, .evr, .kvt, .win 14, .win 21] s t := by
  have := @State.tokenOk_keeps x1 x2 s
  rw [h] at this
  exact this

theorem State.endRestore_keeps {x1 s} : Keeps [.cmd, .bil] s (@State.endRestore x1 s) := by
  unfold State.endRestore
  show Walk true _ _ _
  repeat' first
    | (with_reducible exact Walk.refl)
    | (with_reducible apply Walk.step (k := State.setBil_keeps))
    | (with_reducible apply Walk.step (k := State.replyWith_keeps))
    | (show covers _ _ = true; rfl)
    | (split)

theorem State.restoreSet_keeps {x1 x2 s} : Keeps [.regs, .out, .hbr, .bil, .win 1, .win 13] s (@State.restoreSet x1 x2 s) := by
  unfold State.restoreSet
  show Walk true _ _ _
  try dsimp only
  repeat' first
    | (with_reducible exact Walk.refl)
    | (with_reducible apply Walk.step (k := State.countRestore_keeps))
    | (with_reducible apply Walk.step (k := State.bilNotice_keeps))
    | (with_reducible apply Walk.step (k := State.bump_keeps))
    | (with_reducible apply Walk.step (k := State.setBil_keeps))
    | (with_reducible apply Walk.step (k := State.goInForce_keeps))
    | (with_reducible apply Walk.step (k := State.startReplay_keeps))
    | (show covers _ _ = true; rfl)
    | (split)

theorem State.holdBilling_keeps {x1 s} : Keeps [.regs, .out, .hbr, .bil, .win 1] s (@State.holdBilling x1 s) := by
  unfold State.holdBilling
  show Walk true _ _ _
  repeat' first
    | (with_reducible exact Walk.refl)
    | (with_reducible apply Walk.step (k := State.bilNotice_keeps))
    | (with_reducible apply Walk.step (k := State.setLedger_keeps))
    | (show covers _ _ = true; rfl)

theorem State.endReplay_keeps {x1 s} : Keeps [.regs, .out, .cmd, .hbr, .bil, .win 1] s (@State.endReplay x1 s) := by
  unfold State.endReplay
  show Walk true _ _ _
  try dsimp only
  repeat' first
    | (with_reducible exact Walk.refl)
    | (with_reducible apply Walk.step (k := State.bilNotice_keeps))
    | (with_reducible apply Walk.step (k := State.countRestore_keeps))
    | (with_reducible apply Walk.step (k := State.endRestore_keeps))
    | (with_reducible apply Walk.step (k := State.goInForce_keeps))
    | (with_reducible apply Walk.step (k := State.releaseHold_keeps))
    | (with_reducible apply Walk.step (k := State.setBil_keeps))
    | (with_reducible apply Walk.step (k := State.setLedger_keeps))
    | (with_reducible apply Walk.ite)
    | (split)
    | (with_reducible refine Walk.update ?_ ?_ ?_ ?_ ?_ ?_ ?_ ?_ ?_ ?_ ?_ ?_ ?_ ?_ ?_ ?_ ?_ ?_ ?_ ?_ ?_ ?_ ?_ ?_ ?_ ?_ ?_ rfl rfl)
    | (exact .inl rfl)
    | (exact .inr rfl)
    | (show covers _ _ = true; rfl)

theorem State.mtagFails_keeps {x1 s} : Keeps [.regs, .out, .hbr, .evr, .win 1, .win 13, .win 21] s (@State.mtagFails x1 s) := by
  unfold State.mtagFails
  show Walk true _ _ _
  repeat' first
    | (with_reducible exact Walk.refl)
    | (with_reducible apply Walk.step (k := State.bilNotice_keeps))
    | (with_reducible apply Walk.step (k := State.log_keeps))
    | (with_reducible apply Walk.step (k := State.bump_keeps))
    | (show covers _ _ = true; rfl)

theorem State.storeSet_keeps {x1 x2 x3 x4 s} : Keeps [.regs, .bil, .win (winOf x4)] s (@State.storeSet x1 x2 x3 x4 s) := by
  unfold State.storeSet
  show Walk true _ _ _
  try dsimp only
  repeat' first
    | (with_reducible exact Walk.refl)
    | (with_reducible assumption)
    | (with_reducible apply Walk.step (k := State.setBil_keeps))
    | (with_reducible apply Walk.step (k := State.bump_keeps))
    | (with_reducible apply Walk.step (k := State.setLedger_keeps))
    | (with_reducible apply Walk.foldl)
    | (with_reducible apply Walk.foldl1)
    | (with_reducible apply Walk.foldl2)
    | (with_reducible apply Walk.ite)
    | (intro _)
    | (exact .inl rfl)
    | (exact .inr rfl)
    | (exact (fun _ => rfl))
    | (split)
    | (show covers _ _ = true; simp [covers, may, Part.code, Part.isWin])

theorem applySteps_win {s : State} {r b k} (h : s.applySteps r b = .inr k) : winOf k = 13 := by
  unfold State.applySteps at h
  dsimp only at h
  repeat' split at h
  all_goals first | (cases h; rfl) | cases h

theorem State.applyInterval_keeps {x1 x2 x3 s} : Keeps [.regs, .out, .seam, .hbr, .evr, .kvt, .bil, .par, .win 1, .win 13, .win 14, .win 21, .win (winOf x3)] s (@State.applyInterval x1 x2 x3 s) := by
  unfold State.applyInterval
  show Walk true _ _ _
  have wide : ∀ {t}, Walk true [.regs, .out, .seam, .hbr, .evr, .kvt, .bil, .par, .win 1, .win 13, .win 14, .win 21] s t → Walk true [.regs, .out, .seam, .hbr, .evr, .kvt, .bil, .par, .win 1, .win 13, .win 14, .win 21, .win (winOf x3)] s t :=
    fun h => Walk.step Walk.refl h (by simp [covers, may, Part.code, Part.isWin])
  split
  · exact Walk.refl
  · rename_i b _
    have h1 : Walk true [.regs, .out, .seam, .hbr, .evr, .kvt, .bil, .par, .win 1, .win 13, .win 14, .win 21] s ((s.seamSend .noon 6 b.bytes).mtagOk x1).2 :=
      Walk.step (Walk.step Walk.refl State.seamSend_keeps rfl) State.mtagOk_keeps rfl
    dsimp only
    split
    · exact wide (Walk.step h1 State.mtagFails_keeps rfl)
    · split
      · rename_i k hk
        exact wide (Walk.step h1 (State.bump_keeps_at (applySteps_win hk)) rfl)
      · refine Walk.step (wide (Walk.step (Walk.step (Walk.ite (Walk.step (Walk.ite (Walk.step h1 State.bump_keeps rfl) h1) State.bump_keeps rfl)
          (Walk.ite (Walk.step h1 State.bump_keeps rfl) h1)) State.digestItem_keeps rfl) State.seamSend_keeps rfl)) State.storeSet_keeps ?_
        show covers _ _ = true
        simp [covers, may, Part.code, Part.isWin]

theorem State.replayNext_keeps {x1 s} : Keeps [.regs, .out, .seam, .cmd, .hbr, .evr, .kvt, .bil, .par, .win 1, .win 13, .win 14, .win 21] s (@State.replayNext x1 s) := by
  unfold State.replayNext
  show Walk true _ _ _
  try dsimp only
  repeat' first
    | (with_reducible exact Walk.refl)
    | (with_reducible apply Walk.step (k := State.endReplay_keeps))
    | (with_reducible apply Walk.step (k := State.setBil_keeps))
    | (with_reducible apply Walk.step (k := State.applyInterval_keeps))
    | (split)
    | (with_reducible refine Walk.update ?_ ?_ ?_ ?_ ?_ ?_ ?_ ?_ ?_ ?_ ?_ ?_ ?_ ?_ ?_ ?_ ?_ ?_ ?_ ?_ ?_ ?_ ?_ ?_ ?_ ?_ ?_ rfl rfl)
    | (exact .inl rfl)
    | (exact .inr rfl)
    | (show covers _ _ = true; rfl)

theorem State.tokenResult_keeps {x1 x2 x3 s} : Keeps [.regs, .evr, .kvt, .win 14, .win 21] s (@State.tokenResult x1 x2 x3 s).2 := by
  unfold State.tokenResult
  show Walk true _ _ _
  try dsimp only
  repeat' first
    | (with_reducible exact Walk.refl)
    | (with_reducible refine Walk.step ?_ (State.islandKey_keeps_of (by assumption)) ?_)
    | (with_reducible apply Walk.step (k := State.islandKey_keeps))
    | (show covers _ _ = true; rfl)
    | (split)
theorem State.tokenResult_keeps_of {x1 x2 x3 s a1 t} (h : @State.tokenResult x1 x2 x3 s = (a1, t)) : Keeps [.regs, .evr, .kvt, .win 14, .win 21] s t := by
  have := @State.tokenResult_keeps x1 x2 x3 s
  rw [h] at this
  exact this

theorem State.setMacFail_keeps {x1 s} : Keeps [.regs, .out, .hbr, .evr, .bil, .win 1, .win 13, .win 21] s (@State.setMacFail x1 s) := by
  unfold State.setMacFail
  show Walk true _ _ _
  repeat' first
    | (with_reducible exact Walk.refl)
    | (with_reducible apply Walk.step (k := State.holdBilling_keeps))
    | (with_reducible apply Walk.step (k := State.bilNotice_keeps))
    | (with_reducible apply Walk.step (k := State.log_keeps))
    | (with_reducible apply Walk.step (k := State.bump_keeps))
    | (show covers _ _ = true; rfl)

theorem State.campEnd_keeps {x1 x2 s} : Keeps [.cmd, .plc, .msh, .bil] s (@State.campEnd x1 x2 s) := by
  unfold State.campEnd
  show Walk true _ _ _
  repeat' first
    | (with_reducible exact Walk.refl)
    | (with_reducible apply Walk.step (k := State.dropCampaign_keeps))
    | (with_reducible apply Walk.step (k := State.setBil_keeps))
    | (with_reducible apply Walk.step (k := State.replyWith_keeps))
    | (show covers _ _ = true; rfl)
    | (split)

theorem State.campConfirm_keeps {x1 s} : Keeps [.regs, .out, .cmd, .hbr, .evr, .kvt, .plc, .msh, .bil, .win 1, .win 13, .win 14, .win 21] s (@State.campConfirm x1 s) := by
  unfold State.campConfirm
  show Walk true _ _ _
  try dsimp only
  repeat' first
    | (with_reducible exact Walk.refl)
    | (with_reducible refine Walk.step ?_ (State.mtagOk_keeps_of (by assumption)) ?_)
    | (with_reducible apply Walk.step (k := State.mtagOk_keeps))
    | (with_reducible apply Walk.step (k := State.mtagFails_keeps))
    | (with_reducible apply Walk.step (k := State.setBil_keeps))
    | (with_reducible apply Walk.step (k := State.campEnd_keeps))
    | (with_reducible apply Walk.foldl)
    | (intro _)
    | (show covers _ _ = true; rfl)
    | (split)

theorem State.tokenOutcome_keeps {x1 x2 s} : Keeps [.regs, .evr, .kvt, .win 14, .win 21] s (@State.tokenOutcome x1 x2 s).2 := by
  unfold State.tokenOutcome
  show Walk true _ _ _
  try dsimp only
  repeat' first
    | (with_reducible exact Walk.refl)
    | (with_reducible refine Walk.step ?_ (State.tokenOk_keeps_of (by assumption)) ?_)
    | (with_reducible apply Walk.step (k := State.tokenOk_keeps))
    | (show covers _ _ = true; rfl)
    | (split)
theorem State.tokenOutcome_keeps_of {x1 x2 s a1 t} (h : @State.tokenOutcome x1 x2 s = (a1, t)) : Keeps [.regs, .evr, .kvt, .win 14, .win 21] s t := by
  have := @State.tokenOutcome_keeps x1 x2 s
  rw [h] at this
  exact this

theorem State.answerToken_keeps {x1 x2 x3 x4 s} : Keeps [.regs, .out, .seam, .cmd, .hbr, .evr, .tim, .kvt, .ing, .plc, .msh, .bil, .par, .win 1, .win 4, .win 7, .win 14, .win 18, .win 21] s (@State.answerToken x1 x2 x3 x4 s) := by
  unfold State.answerToken
  show Walk true _ _ _
  try dsimp only
  repeat' first
    | (with_reducible exact Walk.refl)
    | (with_reducible apply Walk.step (k := State.ownUnicast_keeps))
    | (with_reducible apply Walk.step (k := State.seamSend_keeps))
    | (with_reducible apply Walk.step (k := State.setBil_keeps))
    | (with_reducible refine Walk.step ?_ (State.tokenResult_keeps_of (by assumption)) ?_)
    | (with_reducible apply Walk.step (k := State.tokenResult_keeps))
    | (split)
    | (with_reducible refine Walk.update ?_ ?_ ?_ ?_ ?_ ?_ ?_ ?_ ?_ ?_ ?_ ?_ ?_ ?_ ?_ ?_ ?_ ?_ ?_ ?_ ?_ ?_ ?_ ?_ ?_ ?_ ?_ rfl rfl)
    | (exact .inl rfl)
    | (exact .inr rfl)
    | (show covers _ _ = true; rfl)

theorem State.acceptOn_keeps {x1 s} : Keeps [.regs, .out, .freeCtr, .seam, .cmd, .hbr, .evr, .tim, .kvt, .ing, .plc, .msh, .bil, .par, .win 1, .win 4, .win 7, .win 13, .win 14, .win 18, .win 21] s (@State.acceptOn x1 s) := by
  unfold State.acceptOn
  show Walk true _ _ _
  repeat' first
    | (with_reducible exact Walk.refl)
    | (with_reducible apply Walk.step (k := State.setLedger_keeps))
    | (with_reducible apply Walk.step (k := State.bump_keeps))
    | (with_reducible apply Walk.step (k := State.setBil_keeps))
    | (with_reducible apply Walk.step (k := State.answerToken_keeps))
    | (with_reducible apply Walk.step (k := State.sendIslandRec_keeps))
    | (with_reducible refine Walk.update ?_ ?_ ?_ ?_ ?_ ?_ ?_ ?_ ?_ ?_ ?_ ?_ ?_ ?_ ?_ ?_ ?_ ?_ ?_ ?_ ?_ ?_ ?_ ?_ ?_ ?_ ?_ rfl rfl)
    | (exact .inl rfl)
    | (exact .inr rfl)
    | (show covers _ _ = true; rfl)

theorem tokenCounter_win (r : Nat) : winOf (State.tokenCounter r) = 13 := by
  unfold State.tokenCounter
  split <;> rfl

theorem State.bumpToken_keeps {r s} : Keeps [.regs, .win 13] s (State.bump (State.tokenCounter r) s) :=
  State.bump_keeps_at (tokenCounter_win r)

theorem State.tokenDecide_keeps {x1 x2 x3 x4 s} : Keeps [.regs, .out, .freeCtr, .seam, .cmd, .hbr, .evr, .tim, .kvt, .ing, .plc, .msh, .bil, .par, .win 1, .win 4, .win 7, .win 13, .win 14, .win 18, .win 21] s (@State.tokenDecide x1 x2 x3 x4 s) := by
  unfold State.tokenDecide
  show Walk true _ _ _
  try dsimp only
  repeat' first
    | (with_reducible exact Walk.refl)
    | (with_reducible apply Walk.step (k := State.bumpToken_keeps))
    | (with_reducible assumption)
    | (with_reducible refine Walk.step ?_ (State.tokenOutcome_keeps_of (by assumption)) ?_)
    | (with_reducible apply Walk.step (k := State.tokenOutcome_keeps))
    | (with_reducible apply Walk.step (k := State.setBil_keeps))
    | (with_reducible apply Walk.step (k := State.acceptOn_keeps))
    | (with_reducible apply Walk.step (k := State.answerToken_keeps))
    | (with_reducible apply Walk.step (k := State.reply_keeps))
    | (with_reducible apply Walk.foldl)
    | (with_reducible apply Walk.foldl1)
    | (with_reducible apply Walk.foldl2)
    | (with_reducible apply Walk.ite)
    | (intro _)
    | (exact .inl rfl)
    | (exact .inr rfl)
    | (split)
    | (with_reducible refine Walk.update ?_ ?_ ?_ ?_ ?_ ?_ ?_ ?_ ?_ ?_ ?_ ?_ ?_ ?_ ?_ ?_ ?_ ?_ ?_ ?_ ?_ ?_ ?_ ?_ ?_ ?_ ?_ rfl rfl)
    | (exact .inl rfl)
    | (exact .inr rfl)
    | (show covers _ _ = true; rfl)
    | (exact (fun _ => rfl))

theorem State.finishAccept_keeps {s} : Keeps [.regs, .out, .freeCtr, .seam, .cmd, .hbr, .evr, .tim, .kvt, .ing, .plc, .msh, .bil, .par, .win 1, .win 4, .win 7, .win 13, .win 14, .win 18, .win 21] s (@State.finishAccept s) := by
  unfold State.finishAccept
  show Walk true _ _ _
  repeat' first
    | (with_reducible exact Walk.refl)
    | (with_reducible apply Walk.step (k := State.acceptOn_keeps))
    | (show covers _ _ = true; rfl)
    | (split)

theorem State.tagRefused_keeps {x1 x2 s} : Keeps [.regs, .seam, .evr, .win 21] s (@State.tagRefused x1 x2 s) := by
  unfold State.tagRefused
  show Walk true _ _ _
  try dsimp only
  repeat' first
    | (with_reducible exact Walk.refl)
    | (with_reducible apply Walk.step (k := State.log_keeps))
    | (with_reducible refine Walk.update ?_ ?_ ?_ ?_ ?_ ?_ ?_ ?_ ?_ ?_ ?_ ?_ ?_ ?_ ?_ ?_ ?_ ?_ ?_ ?_ ?_ ?_ ?_ ?_ ?_ ?_ ?_ rfl rfl)
    | (exact .inl rfl)
    | (exact .inr rfl)
    | (show covers _ _ = true; rfl)
    | (split)

end Sys2Proof.Machine
end

