-- ==== Sys2Proof/Laws/KeepsBil.lean ====
section
/-! SUPPORT. What each operation of Bil can change, and that it keeps the canonical forms. -/
set_option Elab.async false
namespace Sys2Proof.Machine

theorem State.takePending_keeps_of {s x2 a1 t} (h : @State.takePending s x2 = some (a1, t)) : Keeps [.bil] s t := by
  unfold State.takePending at h
  repeat' split at h
  all_goals cases h
  show Walk true _ _ _
  repeat' first
    | (with_reducible exact Walk.refl)
    | (with_reducible apply Walk.step (k := State.setBil_keeps))
    | (show covers _ _ = true; rfl)

theorem execBilCalendarLoad_keeps {x1 x2 x3 x4 x5 s t} (h : @execBilCalendarLoad x1 x2 x3 x4 x5 s = .next t) : Keeps [.regs, .cmd, .evr, .bil, .win 21] s t := by
  unfold execBilCalendarLoad at h
  have e := Host.Outcome.next.inj h
  subst e
  clear h
  show Walk true _ _ _
  try dsimp only
  repeat' first
    | (with_reducible exact Walk.refl)
    | (with_reducible apply Walk.step (k := State.log_keeps))
    | (with_reducible apply Walk.step (k := State.reply_keeps))
    | (with_reducible apply Walk.step (k := State.setBil_keeps))
    | (with_reducible apply Walk.ite)
    | (split)
    | (with_reducible refine Walk.update ?_ ?_ ?_ ?_ ?_ ?_ ?_ ?_ ?_ ?_ ?_ ?_ ?_ ?_ ?_ ?_ ?_ ?_ ?_ ?_ ?_ ?_ ?_ ?_ ?_ ?_ ?_ rfl rfl)
    | (exact .inl rfl)
    | (exact .inr rfl)
    | (show covers _ _ = true; rfl)

theorem execBilRestore_keeps {x1 x2 s t} (h : @execBilRestore x1 x2 s = .next t) : Keeps [.regs, .out, .cmd, .hbr, .bil, .win 1, .win 13] s t := by
  unfold execBilRestore at h
  have e := Host.Outcome.next.inj h
  subst e
  clear h
  show Walk true _ _ _
  try dsimp only
  repeat' first
    | (with_reducible exact Walk.refl)
    | (with_reducible apply Walk.step (k := State.endRestore_keeps))
    | (with_reducible apply Walk.step (k := State.reply_keeps))
    | (with_reducible apply Walk.step (k := State.replyQueued_keeps))
    | (with_reducible apply Walk.step (k := State.restoreSet_keeps))
    | (with_reducible apply Walk.step (k := State.setBil_keeps))
    | (with_reducible apply Walk.ite)
    | (with_reducible apply Walk.foldl)
    | (with_reducible apply Walk.foldl1)
    | (with_reducible apply Walk.foldl2)
    | (intro _)
    | (with_reducible assumption)
    | (with_reducible refine Walk.update ?_ ?_ ?_ ?_ ?_ ?_ ?_ ?_ ?_ ?_ ?_ ?_ ?_ ?_ ?_ ?_ ?_ ?_ ?_ ?_ ?_ ?_ ?_ ?_ ?_ ?_ ?_ rfl rfl)
    | (exact .inl rfl)
    | (exact .inr rfl)
    | (show covers _ _ = true; rfl)
    | (split)

theorem execBilReplayRecord_keeps {x1 s t} (h : @execBilReplayRecord x1 s = .next t) : Keeps [.regs, .out, .seam, .cmd, .hbr, .evr, .kvt, .bil, .par, .win 1, .win 13, .win 14, .win 21] s t := by
  unfold execBilReplayRecord at h
  have e := Host.Outcome.next.inj h
  subst e
  clear h
  show Walk true _ _ _
  repeat' first
    | (with_reducible exact Walk.refl)
    | (with_reducible apply Walk.step (k := State.replayNext_keeps))
    | (show covers _ _ = true; rfl)
    | (split)

theorem execBilRegsReadSigned_keeps {x1 x2 x3 x4 s t} (h : @execBilRegsReadSigned x1 x2 x3 x4 s = .next t) : Keeps [.regs, .out, .cmd, .hbr, .bil, .win 14] s t := by
  unfold execBilRegsReadSigned at h
  have e := Host.Outcome.next.inj h
  subst e
  clear h
  show Walk true _ _ _
  try dsimp only
  repeat' first
    | (with_reducible exact Walk.refl)
    | (with_reducible apply Walk.step (k := State.reply_keeps))
    | (with_reducible apply Walk.step (k := State.bumpBy_keeps))
    | (with_reducible apply Walk.step (k := State.replyWith_keeps))
    | (with_reducible apply Walk.step (k := State.writeData_keeps))
    | (show covers _ _ = true; rfl)
    | (split)

theorem execIslandRecordAck_keeps {x1 x2 s t} (h : @execIslandRecordAck x1 x2 s = .next t) : Keeps [.regs, .seam, .evr, .bil, .win 21] s t := by
  unfold execIslandRecordAck at h
  have e := Host.Outcome.next.inj h
  subst e
  clear h
  show Walk true _ _ _
  try dsimp only
  repeat' first
    | (with_reducible exact Walk.refl)
    | (with_reducible apply Walk.step (k := State.setBil_keeps))
    | (with_reducible apply Walk.step (k := State.tagRefused_keeps))
    | (with_reducible apply Walk.ite)
    | (with_reducible refine Walk.update ?_ ?_ ?_ ?_ ?_ ?_ ?_ ?_ ?_ ?_ ?_ ?_ ?_ ?_ ?_ ?_ ?_ ?_ ?_ ?_ ?_ ?_ ?_ ?_ ?_ ?_ ?_ rfl rfl)
    | (exact .inl rfl)
    | (exact .inr rfl)
    | (show covers _ _ = true; rfl)
    | (split)

theorem execBilIntervalApply_keeps {x1 s t} (h : @execBilIntervalApply x1 s = .next t) : Keeps [.regs, .out, .seam, .hbr, .evr, .kvt, .bil, .par, .win 1, .win 13, .win 14, .win 21] s t := by
  unfold execBilIntervalApply at h
  have e := Host.Outcome.next.inj h
  subst e
  clear h
  show Walk true _ _ _
  repeat' first
    | (with_reducible exact Walk.refl)
    | (with_reducible refine Walk.step ?_ (State.takePending_keeps_of (by assumption)) ?_)
    | (with_reducible apply Walk.step (k := State.setMacFail_keeps))
    | (with_reducible apply Walk.step (k := State.applyInterval_keeps))
    | (show covers _ _ = true; rfl)
    | (split)

theorem execBilAcceptShort_keeps {x1 x2 x3 s t} (h : @execBilAcceptShort x1 x2 x3 s = .next t) : Keeps [.regs, .out, .freeCtr, .cmd, .hbr, .evr, .kvt, .bil, .win 1, .win 14, .win 21] s t := by
  unfold execBilAcceptShort at h
  have e := Host.Outcome.next.inj h
  subst e
  clear h
  show Walk true _ _ _
  try dsimp only
  repeat' first
    | (with_reducible exact Walk.refl)
    | (with_reducible apply Walk.step (k := State.authUsed_keeps))
    | (with_reducible apply Walk.step (k := State.goInForce_keeps))
    | (with_reducible apply Walk.step (k := State.log_keeps))
    | (with_reducible apply Walk.step (k := State.reply_keeps))
    | (with_reducible apply Walk.step (k := State.setLedger_keeps))
    | (with_reducible apply Walk.ite)
    | (split)
    | (with_reducible refine Walk.update ?_ ?_ ?_ ?_ ?_ ?_ ?_ ?_ ?_ ?_ ?_ ?_ ?_ ?_ ?_ ?_ ?_ ?_ ?_ ?_ ?_ ?_ ?_ ?_ ?_ ?_ ?_ rfl rfl)
    | (exact .inl rfl)
    | (exact .inr rfl)
    | (show covers _ _ = true; rfl)

theorem execBilRelease_keeps {x1 x2 x3 s t} (h : @execBilRelease x1 x2 x3 s = .next t) : Keeps [.cmd, .bil] s t := by
  unfold execBilRelease at h
  have e := Host.Outcome.next.inj h
  subst e
  clear h
  show Walk true _ _ _
  repeat' first
    | (with_reducible exact Walk.refl)
    | (with_reducible apply Walk.step (k := State.reply_keeps))
    | (with_reducible apply Walk.step (k := State.setBil_keeps))
    | (with_reducible apply Walk.step (k := State.endRestore_keeps))
    | (show covers _ _ = true; rfl)
    | (split)

theorem State.takeCopy_keeps {x1 s} : Keeps [.regs, .out, .cmd, .hbr, .evr, .kvt, .plc, .msh, .bil, .win 1, .win 13, .win 14, .win 21] s (@State.takeCopy x1 s) := by
  unfold State.takeCopy
  show Walk true _ _ _
  try dsimp only
  repeat' first
    | (with_reducible exact Walk.refl)
    | (with_reducible apply Walk.step (k := State.campConfirm_keeps))
    | (with_reducible apply Walk.step (k := State.setLedger_keeps))
    | (with_reducible apply Walk.step (k := State.setBil_keeps))
    | (show covers _ _ = true; rfl)
    | (split)

theorem execBilIntervalTake_keeps {s t} (h : @execBilIntervalTake s = .next t) : Keeps [.regs, .out, .seam, .cmd, .hbr, .evr, .kvt, .ing, .plc, .msh, .bil, .win 1, .win 13, .win 14, .win 21] s t := by
  unfold execBilIntervalTake at h
  have e := Host.Outcome.next.inj h
  subst e
  clear h
  show Walk true _ _ _
  try dsimp only
  repeat' first
    | (with_reducible exact Walk.refl)
    | (with_reducible apply Walk.step (k := State.seamSend_keeps))
    | (with_reducible apply Walk.step (k := State.setIng_keeps))
    | (with_reducible apply Walk.step (k := State.takeCopy_keeps))
    | (with_reducible apply Walk.ite)
    | (split)
    | (with_reducible refine Walk.update ?_ ?_ ?_ ?_ ?_ ?_ ?_ ?_ ?_ ?_ ?_ ?_ ?_ ?_ ?_ ?_ ?_ ?_ ?_ ?_ ?_ ?_ ?_ ?_ ?_ ?_ ?_ rfl rfl)
    | (exact .inl rfl)
    | (exact .inr rfl)
    | (show covers _ _ = true; rfl)

theorem execPartnerTokenRecord_keeps {x1 x2 x3 x4 x5 s t} (h : @execPartnerTokenRecord x1 x2 x3 x4 x5 s = .next t) : Keeps [.regs, .out, .freeCtr, .seam, .evr, .bil, .win 18, .win 21] s t := by
  unfold execPartnerTokenRecord at h
  have e := Host.Outcome.next.inj h
  subst e
  clear h
  show Walk true _ _ _
  try dsimp only
  repeat' first
    | (with_reducible exact Walk.refl)
    | (with_reducible apply Walk.step (k := State.bump_keeps))
    | (with_reducible apply Walk.step (k := State.drawn_keeps))
    | (with_reducible apply Walk.step (k := State.emit_keeps))
    | (with_reducible apply Walk.step (k := State.setLedger_keeps))
    | (with_reducible apply Walk.step (k := State.tagRefused_keeps))
    | (with_reducible apply Walk.ite)
    | (with_reducible refine Walk.update ?_ ?_ ?_ ?_ ?_ ?_ ?_ ?_ ?_ ?_ ?_ ?_ ?_ ?_ ?_ ?_ ?_ ?_ ?_ ?_ ?_ ?_ ?_ ?_ ?_ ?_ ?_ rfl rfl)
    | (exact .inl rfl)
    | (exact .inr rfl)
    | (show covers _ _ = true; rfl)
    | (split)

theorem execBilCampaignWindowOpen_keeps {x1 s t} (h : @execBilCampaignWindowOpen x1 s = .next t) : Keeps [.regs, .out, .cmd, .hbr, .evr, .tim, .kvt, .ing, .plc, .msh, .bil, .par, .win 1, .win 4, .win 7, .win 14, .win 18, .win 21] s t := by
  unfold execBilCampaignWindowOpen at h
  have e := Host.Outcome.next.inj h
  subst e
  clear h
  show Walk true _ _ _
  repeat' first
    | (with_reducible exact Walk.refl)
    | (with_reducible apply Walk.step (k := State.campOpen_keeps))
    | (with_reducible apply Walk.step (k := State.bilNotice_keeps))
    | (show covers _ _ = true; rfl)
    | (split)

theorem execTokenRequest_keeps {x1 s t} (h : @execTokenRequest x1 s = .next t) : Keeps [.regs, .out, .freeCtr, .seam, .cmd, .hbr, .evr, .tim, .kvt, .ing, .plc, .msh, .bil, .par, .win 1, .win 4, .win 7, .win 13, .win 14, .win 18, .win 21] s t := by
  unfold execTokenRequest at h
  have e := Host.Outcome.next.inj h
  subst e
  clear h
  show Walk true _ _ _
  try dsimp only
  repeat' first
    | (with_reducible exact Walk.refl)
    | (with_reducible apply Walk.step (k := State.bump_keeps))
    | (with_reducible apply Walk.step (k := State.finishAccept_keeps))
    | (with_reducible apply Walk.step (k := State.mtagFails_keeps))
    | (with_reducible refine Walk.step ?_ (State.mtagOk_keeps_of (by assumption)) ?_)
    | (with_reducible apply Walk.step (k := State.mtagOk_keeps))
    | (with_reducible refine Walk.step ?_ (State.takePending_keeps_of (by assumption)) ?_)
    | (with_reducible apply Walk.step (k := State.tokenDecide_keeps))
    | (with_reducible apply Walk.ite)
    | (split)
    | (show covers _ _ = true; rfl)

theorem execBilCampaignStart_keeps {x1 x2 s t} (h : @execBilCampaignStart x1 x2 s = .next t) : Keeps [.regs, .out, .cmd, .hbr, .evr, .tim, .kvt, .ing, .plc, .msh, .bil, .par, .win 1, .win 4, .win 7, .win 14, .win 18, .win 21] s t := by
  unfold execBilCampaignStart at h
  have e := Host.Outcome.next.inj h
  subst e
  clear h
  show Walk true _ _ _
  try dsimp only
  repeat' first
    | (with_reducible exact Walk.refl)
    | (with_reducible apply Walk.step (k := State.campOpen_keeps))
    | (with_reducible apply Walk.step (k := State.reply_keeps))
    | (with_reducible apply Walk.step (k := State.replyQueued_keeps))
    | (with_reducible apply Walk.step (k := State.setBil_keeps))
    | (with_reducible apply Walk.ite)
    | (split)
    | (with_reducible refine Walk.update ?_ ?_ ?_ ?_ ?_ ?_ ?_ ?_ ?_ ?_ ?_ ?_ ?_ ?_ ?_ ?_ ?_ ?_ ?_ ?_ ?_ ?_ ?_ ?_ ?_ ?_ ?_ rfl rfl)
    | (exact .inl rfl)
    | (exact .inr rfl)
    | (show covers _ _ = true; rfl)

theorem execBilLedgerRead_keeps {x1 x2 x3 s t} (h : @execBilLedgerRead x1 x2 x3 s = .next t) : Keeps [.out, .cmd, .hbr, .bil] s t := by
  unfold execBilLedgerRead at h
  have e := Host.Outcome.next.inj h
  subst e
  clear h
  show Walk true _ _ _
  try dsimp only
  repeat' first
    | (with_reducible exact Walk.refl)
    | (with_reducible apply Walk.step (k := State.reply_keeps))
    | (with_reducible apply Walk.step (k := State.writeData_keeps))
    | (show covers _ _ = true; rfl)
    | (split)

theorem execBilRegsReadRaw_keeps {x1 x2 x3 s t} (h : @execBilRegsReadRaw x1 x2 x3 s = .next t) : Keeps [.out, .cmd, .hbr, .bil] s t := by
  unfold execBilRegsReadRaw at h
  have e := Host.Outcome.next.inj h
  subst e
  clear h
  show Walk true _ _ _
  try dsimp only
  repeat' first
    | (with_reducible exact Walk.refl)
    | (with_reducible apply Walk.step (k := State.reply_keeps))
    | (with_reducible apply Walk.step (k := State.replyWith_keeps))
    | (with_reducible apply Walk.step (k := State.writeData_keeps))
    | (show covers _ _ = true; rfl)
    | (split)

theorem execBilCreditPush_keeps {x1 x2 x3 x4 s t} (h : @execBilCreditPush x1 x2 x3 x4 s = .next t) : Keeps [.regs, .out, .freeCtr, .seam, .cmd, .hbr, .evr, .tim, .kvt, .ing, .plc, .msh, .bil, .par, .win 1, .win 4, .win 7, .win 13, .win 14, .win 18, .win 21] s t := by
  unfold execBilCreditPush at h
  have e := Host.Outcome.next.inj h
  subst e
  clear h
  show Walk true _ _ _
  repeat' first
    | (with_reducible exact Walk.refl)
    | (with_reducible apply Walk.step (k := State.reply_keeps))
    | (with_reducible apply Walk.step (k := State.tokenDecide_keeps))
    | (with_reducible apply Walk.step (k := State.finishAccept_keeps))
    | (with_reducible apply Walk.step (k := State.replyQueued_keeps))
    | (show covers _ _ = true; rfl)
    | (split)

theorem execBilBind_keeps {x1 x2 s t} (h : @execBilBind x1 x2 s = .next t) : Keeps [.cmd, .bil] s t := by
  unfold execBilBind at h
  have e := Host.Outcome.next.inj h
  subst e
  clear h
  show Walk true _ _ _
  try dsimp only
  repeat' first
    | (with_reducible exact Walk.refl)
    | (with_reducible apply Walk.step (k := State.reply_keeps))
    | (with_reducible apply Walk.step (k := State.setLedger_keeps))
    | (with_reducible apply Walk.step (k := State.setBil_keeps))
    | (show covers _ _ = true; rfl)
    | (split)

theorem execBilCampaignDeadline_keeps {x1 s t} (h : @execBilCampaignDeadline x1 s = .next t) : Keeps [.cmd, .plc, .msh, .bil] s t := by
  unfold execBilCampaignDeadline at h
  have e := Host.Outcome.next.inj h
  subst e
  clear h
  show Walk true _ _ _
  repeat' first
    | (with_reducible exact Walk.refl)
    | (with_reducible apply Walk.step (k := State.campEnd_keeps))
    | (show covers _ _ = true; rfl)
    | (split)

theorem execBilCampaignWindowClose_keeps {x1 s t} (h : @execBilCampaignWindowClose x1 s = .next t) : Keeps [.regs, .out, .hbr, .plc, .msh, .bil, .win 1] s t := by
  unfold execBilCampaignWindowClose at h
  have e := Host.Outcome.next.inj h
  subst e
  clear h
  show Walk true _ _ _
  repeat' first
    | (with_reducible exact Walk.refl)
    | (with_reducible apply Walk.step (k := State.campPause_keeps))
    | (show covers _ _ = true; rfl)
    | (split)

theorem execBilCampaignAbort_keeps {x1 x2 s t} (h : @execBilCampaignAbort x1 x2 s = .next t) : Keeps [.cmd, .plc, .msh, .bil] s t := by
  unfold execBilCampaignAbort at h
  have e := Host.Outcome.next.inj h
  subst e
  clear h
  show Walk true _ _ _
  repeat' first
    | (with_reducible exact Walk.refl)
    | (with_reducible apply Walk.step (k := State.reply_keeps))
    | (with_reducible apply Walk.step (k := State.campEnd_keeps))
    | (show covers _ _ = true; rfl)
    | (split)

theorem execBillingGapRefill_keeps {x1 s t} (h : @execBillingGapRefill x1 s = .next t) : Keeps [.regs, .out, .hbr, .ing, .win 1, .win 8] s t := by
  unfold execBillingGapRefill at h
  have e := Host.Outcome.next.inj h
  subst e
  clear h
  show Walk true _ _ _
  try dsimp only
  repeat' first
    | (with_reducible exact Walk.refl)
    | (with_reducible apply Walk.step (k := State.bumpBy_keeps))
    | (with_reducible apply Walk.step (k := State.ingNotice_keeps))
    | (with_reducible apply Walk.step (k := State.setIng_keeps))
    | (with_reducible apply Walk.ite)
    | (with_reducible refine Walk.update ?_ ?_ ?_ ?_ ?_ ?_ ?_ ?_ ?_ ?_ ?_ ?_ ?_ ?_ ?_ ?_ ?_ ?_ ?_ ?_ ?_ ?_ ?_ ?_ ?_ ?_ ?_ rfl rfl)
    | (exact .inl rfl)
    | (exact .inr rfl)
    | (show covers _ _ = true; rfl)
    | (split)

end Sys2Proof.Machine
end

