-- ==== Sys2Proof/Laws/KeepsQueues.lean ====
section
/-! SUPPORT. What each operation of Queues can change, and that it keeps the canonical forms. -/
set_option Elab.async false
namespace Sys2Proof.Machine

theorem State.countStatus_keeps {x1 s} : Keeps [.regs, .win 2] s (@State.countStatus x1 s) := by
  unfold State.countStatus
  show Walk true _ _ _
  repeat' first
    | (with_reducible exact Walk.refl)
    | (with_reducible apply Walk.step (k := State.bump_keeps))
    | (show covers _ _ = true; rfl)
    | (split)

theorem State.setQueue_keeps {x1 x2 s} : Keeps [.cmd] s (@State.setQueue x1 x2 s) := by
  unfold State.setQueue
  show Walk true _ _ _
  repeat' first
    | (with_reducible exact Walk.refl)
    | (with_reducible refine Walk.update ?_ ?_ ?_ ?_ ?_ ?_ ?_ ?_ ?_ ?_ ?_ ?_ ?_ ?_ ?_ ?_ ?_ ?_ ?_ ?_ ?_ ?_ ?_ ?_ ?_ ?_ ?_ rfl rfl)
    | (exact .inl rfl)
    | (exact .inr rfl)

theorem State.queueError_keeps {x1 x2 s} : Keeps [.regs, .cmd, .evr, .win 21] s (@State.queueError x1 x2 s) := by
  unfold State.queueError
  show Walk true _ _ _
  repeat' first
    | (with_reducible exact Walk.refl)
    | (with_reducible apply Walk.step (k := State.setQueue_keeps))
    | (with_reducible apply Walk.step (k := State.log_keeps))
    | (show covers _ _ = true; rfl)
    | (split)

theorem State.cqMessage_keeps {x1 s} : Keeps [.regs, .out, .cmd, .hbr, .win 1] s (@State.cqMessage x1 s) := by
  unfold State.cqMessage
  show Walk true _ _ _
  repeat' first
    | (with_reducible exact Walk.refl)
    | (with_reducible apply Walk.step (k := State.sendMsix_keeps))
    | (with_reducible apply Walk.step (k := State.setQueue_keeps))
    | (show covers _ _ = true; rfl)

theorem State.writeCompletion_keeps {x1 x2 x3 s} : Keeps [.regs, .out, .cmd, .hbr, .win 1] s (@State.writeCompletion x1 x2 x3 s) := by
  unfold State.writeCompletion
  show Walk true _ _ _
  try dsimp only
  repeat' first
    | (with_reducible exact Walk.refl)
    | (with_reducible apply Walk.step (k := State.cqMessage_keeps))
    | (with_reducible apply Walk.step (k := State.emit_keeps))
    | (with_reducible apply Walk.step (k := State.setQueue_keeps))
    | (with_reducible apply Walk.ite)
    | (with_reducible refine Walk.update ?_ ?_ ?_ ?_ ?_ ?_ ?_ ?_ ?_ ?_ ?_ ?_ ?_ ?_ ?_ ?_ ?_ ?_ ?_ ?_ ?_ ?_ ?_ ?_ ?_ ?_ ?_ rfl rfl)
    | (exact .inl rfl)
    | (exact .inr rfl)
    | (show covers _ _ = true; rfl)
    | (split)

theorem State.post_keeps {x1 x2 x3 x4 s} : Keeps [.regs, .out, .cmd, .hbr, .evr, .win 1, .win 2, .win 21] s (@State.post x1 x2 x3 x4 s) := by
  unfold State.post
  show Walk true _ _ _
  try dsimp only
  repeat' first
    | (with_reducible exact Walk.refl)
    | (with_reducible apply Walk.step (k := State.countStatus_keeps))
    | (with_reducible apply Walk.step (k := State.holdNotice_keeps))
    | (with_reducible apply Walk.step (k := State.queueError_keeps))
    | (with_reducible apply Walk.step (k := State.setQueue_keeps))
    | (with_reducible apply Walk.step (k := State.writeCompletion_keeps))
    | (with_reducible apply Walk.ite)
    | (with_reducible refine Walk.update ?_ ?_ ?_ ?_ ?_ ?_ ?_ ?_ ?_ ?_ ?_ ?_ ?_ ?_ ?_ ?_ ?_ ?_ ?_ ?_ ?_ ?_ ?_ ?_ ?_ ?_ ?_ rfl rfl)
    | (exact .inl rfl)
    | (exact .inr rfl)
    | (show covers _ _ = true; rfl)
    | (split)

theorem State.dropCmd_keeps {x1 x2 s} : Keeps [.cmd] s (@State.dropCmd x1 x2 s) := by
  unfold State.dropCmd
  show Walk true _ _ _
  repeat' first
    | (with_reducible exact Walk.refl)
    | (with_reducible refine Walk.update ?_ ?_ ?_ ?_ ?_ ?_ ?_ ?_ ?_ ?_ ?_ ?_ ?_ ?_ ?_ ?_ ?_ ?_ ?_ ?_ ?_ ?_ ?_ ?_ ?_ ?_ ?_ rfl rfl)
    | (exact .inl rfl)
    | (exact .inr rfl)

theorem State.setQctrl_keeps {x1 x2 x3 s} : Keeps [.regs, .win 2] s (@State.setQctrl x1 x2 x3 s) := by
  unfold State.setQctrl
  show Walk true _ _ _
  try dsimp only
  repeat' first
    | (with_reducible exact Walk.refl)
    | (with_reducible apply Walk.step (k := State.setRegI_keeps))
    | (show covers _ _ = true; rfl)
    | (split)

theorem State.enableQueue_keeps {x1 s} : Keeps [.cmd] s (@State.enableQueue x1 s) := by
  unfold State.enableQueue
  show Walk true _ _ _
  repeat' first
    | (with_reducible exact Walk.refl)
    | (with_reducible apply Walk.step (k := State.setQueue_keeps))
    | (show covers _ _ = true; rfl)

theorem State.queueEnable_keeps {x1 x2 s} : Keeps [.regs, .cmd, .evr, .win 2, .win 20, .win 21] s (@State.queueEnable x1 x2 s) := by
  unfold State.queueEnable
  show Walk true _ _ _
  try dsimp only
  repeat' first
    | (with_reducible exact Walk.refl)
    | (with_reducible apply Walk.step (k := State.bumpI_keeps))
    | (with_reducible apply Walk.step (k := State.enableQueue_keeps))
    | (with_reducible apply Walk.step (k := State.queueError_keeps))
    | (with_reducible apply Walk.step (k := State.setQctrl_keeps))
    | (with_reducible apply Walk.step (k := State.setQueue_keeps))
    | (with_reducible apply Walk.ite)
    | (split)
    | (with_reducible refine Walk.update ?_ ?_ ?_ ?_ ?_ ?_ ?_ ?_ ?_ ?_ ?_ ?_ ?_ ?_ ?_ ?_ ?_ ?_ ?_ ?_ ?_ ?_ ?_ ?_ ?_ ?_ ?_ rfl rfl)
    | (exact .inl rfl)
    | (exact .inr rfl)
    | (show covers _ _ = true; rfl)

theorem execQueueEnable_keeps {x1 x2 s t} (h : @execQueueEnable x1 x2 s = .next t) : Keeps [.regs, .cmd, .evr, .win 2, .win 20, .win 21] s t := by
  unfold execQueueEnable at h
  have e := Host.Outcome.next.inj h
  subst e
  clear h
  show Walk true _ _ _
  repeat' first
    | (with_reducible exact Walk.refl)
    | (with_reducible apply Walk.step (k := State.queueEnable_keeps))
    | (with_reducible apply Walk.step (k := State.bump_keeps))
    | (show covers _ _ = true; rfl)
    | (split)

theorem State.fetch_keeps {x1 s} : Keeps [.out, .cmd, .hbr] s (@State.fetch x1 s) := by
  unfold State.fetch
  show Walk true _ _ _
  try dsimp only
  repeat' first
    | (with_reducible exact Walk.refl)
    | (with_reducible apply Walk.step (k := State.askRead_keeps))
    | (with_reducible apply Walk.step (k := State.setQueue_keeps))
    | (with_reducible apply Walk.ite)
    | (with_reducible refine Walk.update ?_ ?_ ?_ ?_ ?_ ?_ ?_ ?_ ?_ ?_ ?_ ?_ ?_ ?_ ?_ ?_ ?_ ?_ ?_ ?_ ?_ ?_ ?_ ?_ ?_ ?_ ?_ rfl rfl)
    | (exact .inl rfl)
    | (exact .inr rfl)
    | (show covers _ _ = true; rfl)
    | (split)

theorem execDescriptorFetch_keeps {s t} (h : @execDescriptorFetch s = .next t) : Keeps [.out, .cmd, .hbr] s t := by
  unfold execDescriptorFetch at h
  have e := Host.Outcome.next.inj h
  subst e
  clear h
  show Walk true _ _ _
  repeat' first
    | (with_reducible exact Walk.refl)
    | (with_reducible apply Walk.step (k := State.fetch_keeps))
    | (show covers _ _ = true; rfl)
    | (split)

theorem State.endUndispatched_keeps {x1 x2 s} : Keeps [.cmd] s (@State.endUndispatched x1 x2 s) := by
  unfold State.endUndispatched
  show Walk true _ _ _
  try dsimp only
  repeat' first
    | (with_reducible exact Walk.refl)
    | (with_reducible apply Walk.ite)
    | (with_reducible refine Walk.update ?_ ?_ ?_ ?_ ?_ ?_ ?_ ?_ ?_ ?_ ?_ ?_ ?_ ?_ ?_ ?_ ?_ ?_ ?_ ?_ ?_ ?_ ?_ ?_ ?_ ?_ ?_ rfl rfl)
    | (exact .inl rfl)
    | (exact .inr rfl)
    | (show covers _ _ = true; rfl)
    | (split)

theorem State.disableQueue_keeps {x1 x2 s} : Keeps [.cmd] s (@State.disableQueue x1 x2 s) := by
  unfold State.disableQueue
  show Walk true _ _ _
  repeat' first
    | (with_reducible exact Walk.refl)
    | (with_reducible apply Walk.step (k := State.setQueue_keeps))
    | (with_reducible apply Walk.step (k := State.endUndispatched_keeps))
    | (show covers _ _ = true; rfl)

theorem State.addResult_keeps {x1 s} : Keeps [.cmd] s (@State.addResult x1 s) := by
  unfold State.addResult
  show Walk true _ _ _
  repeat' first
    | (with_reducible exact Walk.refl)
    | (with_reducible refine Walk.update ?_ ?_ ?_ ?_ ?_ ?_ ?_ ?_ ?_ ?_ ?_ ?_ ?_ ?_ ?_ ?_ ?_ ?_ ?_ ?_ ?_ ?_ ?_ ?_ ?_ ?_ ?_ rfl rfl)
    | (exact .inl rfl)
    | (exact .inr rfl)

theorem State.holdOwed_keeps {x1 s} : Keeps [.regs, .out, .hbr, .win 1] s (@State.holdOwed x1 s) := by
  unfold State.holdOwed
  show Walk true _ _ _
  repeat' first
    | (with_reducible exact Walk.refl)
    | (with_reducible apply Walk.step (k := State.holdNotice_keeps))
    | (with_reducible refine Walk.update ?_ ?_ ?_ ?_ ?_ ?_ ?_ ?_ ?_ ?_ ?_ ?_ ?_ ?_ ?_ ?_ ?_ ?_ ?_ ?_ ?_ ?_ ?_ ?_ ?_ ?_ ?_ rfl rfl)
    | (exact .inl rfl)
    | (exact .inr rfl)
    | (show covers _ _ = true; rfl)

theorem State.resumedResult_keeps {x1 s} : Keeps [.regs, .out, .cmd, .hbr, .win 1] s (@State.resumedResult x1 s) := by
  unfold State.resumedResult
  show Walk true _ _ _
  repeat' first
    | (with_reducible exact Walk.refl)
    | (with_reducible apply Walk.step (k := State.holdOwed_keeps))
    | (with_reducible refine Walk.update ?_ ?_ ?_ ?_ ?_ ?_ ?_ ?_ ?_ ?_ ?_ ?_ ?_ ?_ ?_ ?_ ?_ ?_ ?_ ?_ ?_ ?_ ?_ ?_ ?_ ?_ ?_ rfl rfl)
    | (exact .inl rfl)
    | (exact .inr rfl)
    | (show covers _ _ = true; rfl)
    | (split)

theorem State.mapCmds_keeps {x1 x2 s} : Keeps [.cmd] s (@State.mapCmds x1 x2 s) := by
  unfold State.mapCmds
  show Walk true _ _ _
  repeat' first
    | (with_reducible exact Walk.refl)
    | (with_reducible refine Walk.update ?_ ?_ ?_ ?_ ?_ ?_ ?_ ?_ ?_ ?_ ?_ ?_ ?_ ?_ ?_ ?_ ?_ ?_ ?_ ?_ ?_ ?_ ?_ ?_ ?_ ?_ ?_ rfl rfl)
    | (exact .inl rfl)
    | (exact .inr rfl)

theorem State.takeResult_keeps {x1 s} : Keeps [.regs, .out, .cmd, .hbr, .evr, .win 1, .win 2, .win 21] s (@State.takeResult x1 s) := by
  unfold State.takeResult
  show Walk true _ _ _
  try dsimp only
  repeat' first
    | (with_reducible exact Walk.refl)
    | (with_reducible apply Walk.step (k := State.dropCmd_keeps))
    | (with_reducible apply Walk.step (k := State.mapCmds_keeps))
    | (with_reducible apply Walk.step (k := State.post_keeps))
    | (with_reducible apply Walk.step (k := State.resumedResult_keeps))
    | (with_reducible apply Walk.ite)
    | (split)
    | (with_reducible refine Walk.update ?_ ?_ ?_ ?_ ?_ ?_ ?_ ?_ ?_ ?_ ?_ ?_ ?_ ?_ ?_ ?_ ?_ ?_ ?_ ?_ ?_ ?_ ?_ ?_ ?_ ?_ ?_ rfl rfl)
    | (exact .inl rfl)
    | (exact .inr rfl)
    | (show covers _ _ = true; rfl)

theorem State.laneFault_keeps {s} : Keeps [.regs, .out, .dev, .cmd, .evr, .plc, .rfx, .msh, .bil, .win 0, .win 4, .win 5, .win 21] s (@State.laneFault s) := by
  unfold State.laneFault
  show Walk true _ _ _
  repeat' first
    | (with_reducible exact Walk.refl)
    | (with_reducible apply Walk.step (k := State.forceTwilight_keeps))
    | (with_reducible apply Walk.step (k := State.holdCause_keeps))
    | (show covers _ _ = true; rfl)

theorem State.addCmd_keeps {x1 s} : Keeps [.cmd] s (@State.addCmd x1 s) := by
  unfold State.addCmd
  show Walk true _ _ _
  repeat' first
    | (with_reducible exact Walk.refl)
    | (with_reducible refine Walk.update ?_ ?_ ?_ ?_ ?_ ?_ ?_ ?_ ?_ ?_ ?_ ?_ ?_ ?_ ?_ ?_ ?_ ?_ ?_ ?_ ?_ ?_ ?_ ?_ ?_ ?_ ?_ rfl rfl)
    | (exact .inl rfl)
    | (exact .inr rfl)

theorem State.admitCmd_keeps {x1 x2 s} : Keeps [.cmd] s (@State.admitCmd x1 x2 s) := by
  unfold State.admitCmd
  show Walk true _ _ _
  repeat' first
    | (with_reducible exact Walk.refl)
    | (with_reducible apply Walk.step (k := State.addCmd_keeps))
    | (with_reducible apply Walk.step (k := State.addResult_keeps))
    | (show covers _ _ = true; rfl)
    | (split)

theorem State.laneAway_keeps {x1 x2 s} : Keeps [.cmd] s (@State.laneAway x1 x2 s) := by
  unfold State.laneAway
  show Walk true _ _ _
  try dsimp only
  repeat' first
    | (with_reducible exact Walk.refl)
    | (split)
    | (with_reducible refine Walk.update ?_ ?_ ?_ ?_ ?_ ?_ ?_ ?_ ?_ ?_ ?_ ?_ ?_ ?_ ?_ ?_ ?_ ?_ ?_ ?_ ?_ ?_ ?_ ?_ ?_ ?_ ?_ rfl rfl)
    | (exact .inl rfl)
    | (exact .inr rfl)
    | (show covers _ _ = true; rfl)

theorem State.laneDown_keeps {x1 s} : Keeps [.regs, .out, .dev, .cmd, .evr, .plc, .rfx, .msh, .bil, .win 0, .win 4, .win 5, .win 21] s (@State.laneDown x1 s) := by
  unfold State.laneDown
  show Walk true _ _ _
  try dsimp only
  repeat' first
    | (with_reducible exact Walk.refl)
    | (with_reducible apply Walk.step (k := State.laneAway_keeps))
    | (with_reducible apply Walk.step (k := State.laneFault_keeps))
    | (with_reducible apply Walk.ite)
    | (with_reducible refine Walk.update ?_ ?_ ?_ ?_ ?_ ?_ ?_ ?_ ?_ ?_ ?_ ?_ ?_ ?_ ?_ ?_ ?_ ?_ ?_ ?_ ?_ ?_ ?_ ?_ ?_ ?_ ?_ rfl rfl)
    | (exact .inl rfl)
    | (exact .inr rfl)
    | (show covers _ _ = true; rfl)
    | (split)

theorem State.laneMiscompare_keeps {x1 s} : Keeps [.regs, .out, .dev, .cmd, .evr, .plc, .rfx, .msh, .bil, .wins] s (@State.laneMiscompare x1 s) := by
  unfold State.laneMiscompare
  show Walk true _ _ _
  try dsimp only
  repeat' first
    | (with_reducible exact Walk.refl)
    | (with_reducible apply Walk.step (k := State.bump_keeps))
    | (with_reducible apply Walk.step (k := State.laneAway_keeps))
    | (with_reducible apply Walk.step (k := State.laneDown_keeps))
    | (with_reducible apply Walk.ite)
    | (with_reducible refine Walk.update ?_ ?_ ?_ ?_ ?_ ?_ ?_ ?_ ?_ ?_ ?_ ?_ ?_ ?_ ?_ ?_ ?_ ?_ ?_ ?_ ?_ ?_ ?_ ?_ ?_ ?_ ?_ rfl rfl)
    | (exact .inl rfl)
    | (exact .inr rfl)
    | (show covers _ _ = true; rfl)
    | (split)

theorem State.doorbellDrop_keeps {s} : Keeps [.regs, .win 2] s (@State.doorbellDrop s) := by
  unfold State.doorbellDrop
  show Walk true _ _ _
  repeat' first
    | (with_reducible exact Walk.refl)
    | (with_reducible apply Walk.step (k := State.bump_keeps))
    | (show covers _ _ = true; rfl)

theorem State.cqHead_keeps {x1 x2 s} : Keeps [.regs, .cmd, .evr, .win 2, .win 21] s (@State.cqHead x1 x2 s) := by
  unfold State.cqHead
  show Walk true _ _ _
  try dsimp only
  repeat' first
    | (with_reducible exact Walk.refl)
    | (with_reducible apply Walk.step (k := State.doorbellDrop_keeps))
    | (with_reducible apply Walk.step (k := State.queueError_keeps))
    | (with_reducible apply Walk.step (k := State.setQueue_keeps))
    | (show covers _ _ = true; rfl)
    | (split)

theorem State.keepDoorbell_keeps {x1 x2 s} : Keeps [.hbr] s (@State.keepDoorbell x1 x2 s) := by
  unfold State.keepDoorbell
  show Walk true _ _ _
  repeat' first
    | (with_reducible exact Walk.refl)
    | (with_reducible refine Walk.update ?_ ?_ ?_ ?_ ?_ ?_ ?_ ?_ ?_ ?_ ?_ ?_ ?_ ?_ ?_ ?_ ?_ ?_ ?_ ?_ ?_ ?_ ?_ ?_ ?_ ?_ ?_ rfl rfl)
    | (exact .inl rfl)
    | (exact .inr rfl)

theorem State.sqTail_keeps {x1 x2 s} : Keeps [.regs, .cmd, .evr, .win 2, .win 21] s (@State.sqTail x1 x2 s) := by
  unfold State.sqTail
  show Walk true _ _ _
  try dsimp only
  repeat' first
    | (with_reducible exact Walk.refl)
    | (with_reducible apply Walk.step (k := State.doorbellDrop_keeps))
    | (with_reducible apply Walk.step (k := State.queueError_keeps))
    | (with_reducible apply Walk.step (k := State.setQueue_keeps))
    | (show covers _ _ = true; rfl)
    | (split)

theorem execSqTailDoorbell_keeps {x1 s t} (h : @execSqTailDoorbell x1 s = .next t) : Keeps [.regs, .cmd, .hbr, .evr, .win 2, .win 21] s t := by
  unfold execSqTailDoorbell at h
  have e := Host.Outcome.next.inj h
  subst e
  clear h
  show Walk true _ _ _
  repeat' first
    | (with_reducible exact Walk.refl)
    | (with_reducible apply Walk.step (k := State.doorbellDrop_keeps))
    | (with_reducible apply Walk.step (k := State.sqTail_keeps))
    | (with_reducible apply Walk.step (k := State.keepDoorbell_keeps))
    | (show covers _ _ = true; rfl)
    | (split)

theorem execCommandResult_keeps {x1 s t} (h : @execCommandResult x1 s = .next t) : Keeps [.regs, .out, .cmd, .hbr, .evr, .win 1, .win 2, .win 21] s t := by
  unfold execCommandResult at h
  have e := Host.Outcome.next.inj h
  subst e
  clear h
  show Walk true _ _ _
  repeat' first
    | (with_reducible exact Walk.refl)
    | (with_reducible apply Walk.step (k := State.takeResult_keeps))
    | (show covers _ _ = true; rfl)
    | (split)

theorem execCommandDispatch_keeps {x1 s t} (h : @execCommandDispatch x1 s = .next t) : Keeps [.regs, .out, .cmd, .hbr, .win 2] s t := by
  unfold execCommandDispatch at h
  have e := Host.Outcome.next.inj h
  subst e
  clear h
  show Walk true _ _ _
  try dsimp only
  repeat' first
    | (with_reducible exact Walk.refl)
    | (with_reducible apply Walk.step (k := State.bump_keeps))
    | (with_reducible apply Walk.step (k := State.startXfer_keeps))
    | (with_reducible apply Walk.ite)
    | (split)
    | (with_reducible refine Walk.update ?_ ?_ ?_ ?_ ?_ ?_ ?_ ?_ ?_ ?_ ?_ ?_ ?_ ?_ ?_ ?_ ?_ ?_ ?_ ?_ ?_ ?_ ?_ ?_ ?_ ?_ ?_ rfl rfl)
    | (exact .inl rfl)
    | (exact .inr rfl)
    | (show covers _ _ = true; rfl)

theorem execQueueDisable_keeps {x1 x2 s t} (h : @execQueueDisable x1 x2 s = .next t) : Keeps [.regs, .cmd, .win 2] s t := by
  unfold execQueueDisable at h
  have e := Host.Outcome.next.inj h
  subst e
  clear h
  show Walk true _ _ _
  try dsimp only
  repeat' first
    | (with_reducible exact Walk.refl)
    | (with_reducible apply Walk.step (k := State.bump_keeps))
    | (with_reducible apply Walk.step (k := State.disableQueue_keeps))
    | (with_reducible apply Walk.step (k := State.setQctrl_keeps))
    | (with_reducible apply Walk.ite)
    | (show covers _ _ = true; rfl)
    | (split)

theorem execCqCoalesceTimeout_keeps {x1 s t} (h : @execCqCoalesceTimeout x1 s = .next t) : Keeps [.regs, .out, .cmd, .hbr, .win 1] s t := by
  unfold execCqCoalesceTimeout at h
  have e := Host.Outcome.next.inj h
  subst e
  clear h
  show Walk true _ _ _
  repeat' first
    | (with_reducible exact Walk.refl)
    | (with_reducible apply Walk.step (k := State.cqMessage_keeps))
    | (show covers _ _ = true; rfl)
    | (split)

theorem State.voted_keeps {x1 x2 x3 s} : Keeps [.regs, .out, .dev, .cmd, .evr, .plc, .rfx, .msh, .bil, .wins] s (@State.voted x1 x2 x3 s) := by
  unfold State.voted
  show Walk true _ _ _
  repeat' first
    | (with_reducible exact Walk.refl)
    | (with_reducible apply Walk.step (k := State.addResult_keeps))
    | (with_reducible apply Walk.step (k := State.addCmd_keeps))
    | (with_reducible apply Walk.step (k := State.admitCmd_keeps))
    | (with_reducible apply Walk.step (k := State.laneMiscompare_keeps))
    | (with_reducible apply Walk.step (k := State.laneFault_keeps))
    | (split)
    | (with_reducible refine Walk.update ?_ ?_ ?_ ?_ ?_ ?_ ?_ ?_ ?_ ?_ ?_ ?_ ?_ ?_ ?_ ?_ ?_ ?_ ?_ ?_ ?_ ?_ ?_ ?_ ?_ ?_ ?_ rfl rfl)
    | (exact .inl rfl)
    | (exact .inr rfl)
    | (show covers _ _ = true; rfl)

theorem execDescriptorReceived_keeps {x1 x2 x3 x4 s t} (h : @execDescriptorReceived x1 x2 x3 x4 s = .next t) : Keeps [.regs, .out, .dev, .cmd, .hbr, .evr, .plc, .rfx, .msh, .bil, .wins] s t := by
  unfold execDescriptorReceived at h
  have e := Host.Outcome.next.inj h
  subst e
  clear h
  show Walk true _ _ _
  dsimp only
  have w : ∀ r f, Walk true [.regs, .out, .dev, .cmd, .hbr, .evr, .plc, .rfx, .msh, .bil, .wins] s { s with cmd := { s.cmd with fetching := f }, hbr := { s.hbr with reads := r } } := by
    intro r f
    with_reducible refine Walk.update ?_ ?_ ?_ ?_ ?_ ?_ ?_ ?_ ?_ ?_ ?_ ?_ ?_ ?_ ?_ ?_ ?_ ?_ ?_ ?_ ?_ ?_ ?_ ?_ ?_ ?_ ?_ rfl rfl
    exact Walk.refl
    all_goals first | (exact .inl rfl) | (exact .inr rfl)
  split
  · exact Walk.refl
  · split
    · exact w _ s.cmd.fetching
    · have h := w (s.hbr.reads.eraseP (fun r => r.what == .descriptor x1)) (s.cmd.fetching.erase x1)
      revert h
      generalize ({ s with cmd := { s.cmd with fetching := s.cmd.fetching.erase x1 }, hbr := { s.hbr with reads := s.hbr.reads.eraseP (fun r => r.what == .descriptor x1) } } : State) = u
      intro h
      have h2 : Walk false _ _ _ := h
      repeat' first
        | (with_reducible assumption)
        | (with_reducible apply Walk.step (k := State.laneFault_keeps))
        | (with_reducible apply Walk.step (k := State.voted_keeps))
        | (with_reducible apply Walk.ite)
        | (with_reducible refine Walk.update ?_ ?_ ?_ ?_ ?_ ?_ ?_ ?_ ?_ ?_ ?_ ?_ ?_ ?_ ?_ ?_ ?_ ?_ ?_ ?_ ?_ ?_ ?_ ?_ ?_ ?_ ?_ rfl rfl)
        | (exact .inl rfl)
        | (exact .inr rfl)
        | (show covers _ _ = true; rfl)

theorem execCqHeadDoorbell_keeps {x1 s t} (h : @execCqHeadDoorbell x1 s = .next t) : Keeps [.regs, .cmd, .hbr, .evr, .win 2, .win 21] s t := by
  unfold execCqHeadDoorbell at h
  have e := Host.Outcome.next.inj h
  subst e
  clear h
  show Walk true _ _ _
  repeat' first
    | (with_reducible exact Walk.refl)
    | (with_reducible apply Walk.step (k := State.doorbellDrop_keeps))
    | (with_reducible apply Walk.step (k := State.cqHead_keeps))
    | (with_reducible apply Walk.step (k := State.keepDoorbell_keeps))
    | (show covers _ _ = true; rfl)
    | (split)

theorem State.drainInput_keeps {s} : Keeps [.cmd] s (@State.drainInput s) := by
  unfold State.drainInput
  show Walk true _ _ _
  try dsimp only
  repeat' first
    | (with_reducible exact Walk.refl)
    | (with_reducible apply Walk.step (k := State.admitCmd_keeps))
    | (with_reducible apply Walk.ite)
    | (with_reducible apply Walk.foldl)
    | (with_reducible apply Walk.foldl1)
    | (with_reducible apply Walk.foldl2)
    | (intro _)
    | (with_reducible assumption)
    | (with_reducible refine Walk.update ?_ ?_ ?_ ?_ ?_ ?_ ?_ ?_ ?_ ?_ ?_ ?_ ?_ ?_ ?_ ?_ ?_ ?_ ?_ ?_ ?_ ?_ ?_ ?_ ?_ ?_ ?_ rfl rfl)
    | (exact .inl rfl)
    | (exact .inr rfl)
    | (show covers _ _ = true; rfl)
    | (split)

theorem State.laneJobEnd_keeps {x1 x2 s} : Keeps [.regs, .out, .dev, .cmd, .evr, .plc, .rfx, .msh, .bil, .win 0, .win 4, .win 5, .win 21] s (@State.laneJobEnd x1 x2 s) := by
  unfold State.laneJobEnd
  show Walk true _ _ _
  try dsimp only
  repeat' first
    | (with_reducible exact Walk.refl)
    | (with_reducible apply Walk.step (k := State.holdCause_keeps))
    | (with_reducible apply Walk.step (k := State.laneFault_keeps))
    | (with_reducible apply Walk.step (k := State.replyWith_keeps))
    | (with_reducible apply Walk.ite)
    | (show covers _ _ = true; rfl)
    | (split)

theorem State.laneLook_keeps {s} : Keeps [.regs, .out, .dev, .cmd, .evr, .plc, .rfx, .msh, .bil, .win 0, .win 4, .win 5, .win 21] s (@State.laneLook s) := by
  unfold State.laneLook
  show Walk true _ _ _
  try dsimp only
  repeat' first
    | (with_reducible exact Walk.refl)
    | (with_reducible apply Walk.step (k := State.drainInput_keeps))
    | (with_reducible apply Walk.step (k := State.laneJobEnd_keeps))
    | (with_reducible apply Walk.ite)
    | (with_reducible apply Walk.foldl)
    | (with_reducible apply Walk.foldl1)
    | (with_reducible apply Walk.foldl2)
    | (intro _)
    | (with_reducible assumption)
    | (with_reducible refine Walk.update ?_ ?_ ?_ ?_ ?_ ?_ ?_ ?_ ?_ ?_ ?_ ?_ ?_ ?_ ?_ ?_ ?_ ?_ ?_ ?_ ?_ ?_ ?_ ?_ ?_ ?_ ?_ rfl rfl)
    | (exact .inl rfl)
    | (exact .inr rfl)
    | (show covers _ _ = true; rfl)
    | (split)

theorem State.laneTick_keeps {s} : Keeps [.regs, .out, .dev, .cmd, .evr, .plc, .rfx, .msh, .bil, .win 0, .win 4, .win 5, .win 21] s (@State.laneTick s) := by
  unfold State.laneTick
  show Walk true _ _ _
  try dsimp only
  repeat' first
    | (with_reducible exact Walk.refl)
    | (with_reducible apply Walk.step (k := State.laneLook_keeps))
    | (with_reducible apply Walk.ite)
    | (show covers _ _ = true; rfl)
    | (split)

end Sys2Proof.Machine
end

