-- ==== Sys2Proof/Laws/KeepsFenceParts.lean ====
section
/-! SUPPORT. What each operation of FenceParts can change, and that it keeps the canonical forms. -/
set_option Elab.async false
namespace Sys2Proof.Machine

theorem State.arcPart_keeps {x1 s} : Keeps [.regs, .out, .cmd, .hbr, .arc, .bil, .win 10] s (@State.arcPart x1 s) := by
  unfold State.arcPart
  show Walk true _ _ _
  repeat' first
    | (with_reducible exact Walk.refl)
    | (with_reducible apply Walk.step (k := State.arcPartDo_keeps))
    | (show covers _ _ = true; rfl)

theorem State.dropPushes_keeps {x1 s} : Keeps [.bil] s (@State.dropPushes x1 s) := by
  unfold State.dropPushes
  show Walk true _ _ _
  repeat' first
    | (with_reducible exact Walk.refl)
    | (with_reducible apply Walk.step (k := State.setBil_keeps))
    | (show covers _ _ = true; rfl)

theorem State.dropWork_keeps {x1 s} : Keeps [.kvt, .ing] s (@State.dropWork x1 s) := by
  unfold State.dropWork
  show Walk true _ _ _
  try dsimp only
  repeat' first
    | (with_reducible exact Walk.refl)
    | (with_reducible apply Walk.step (k := State.setIng_keeps))
    | (with_reducible apply Walk.step (k := State.setKvt_keeps))
    | (with_reducible refine Walk.update ?_ ?_ ?_ ?_ ?_ ?_ ?_ ?_ ?_ ?_ ?_ ?_ ?_ ?_ ?_ ?_ ?_ ?_ ?_ ?_ ?_ ?_ ?_ ?_ ?_ ?_ ?_ rfl rfl)
    | (exact .inl rfl)
    | (exact .inr rfl)
    | (show covers _ _ = true; rfl)
    | (split)

theorem State.markOld_keeps {x1 s} : Keeps [.ing, .fse, .cod, .arc] s (@State.markOld x1 s) := by
  unfold State.markOld
  show Walk true _ _ _
  try dsimp only
  repeat' first
    | (with_reducible exact Walk.refl)
    | (with_reducible apply Walk.step (k := State.setArc_keeps))
    | (with_reducible apply Walk.step (k := State.setFse_keeps))
    | (with_reducible apply Walk.step (k := State.setIng_keeps))
    | (with_reducible apply Walk.ite)
    | (with_reducible refine Walk.update ?_ ?_ ?_ ?_ ?_ ?_ ?_ ?_ ?_ ?_ ?_ ?_ ?_ ?_ ?_ ?_ ?_ ?_ ?_ ?_ ?_ ?_ ?_ ?_ ?_ ?_ ?_ rfl rfl)
    | (exact .inl rfl)
    | (exact .inr rfl)
    | (show covers _ _ = true; rfl)
    | (split)

theorem State.codPart_keeps {x1 s} : Keeps [.regs, .cod, .win 9] s (@State.codPart x1 s) := by
  unfold State.codPart
  show Walk true _ _ _
  repeat' first
    | (with_reducible exact Walk.refl)
    | (with_reducible apply Walk.step (k := State.codFence_keeps))
    | (show covers _ _ = true; rfl)

theorem State.bilPart_keeps {x1 s} : Keeps [.bil] s (@State.bilPart x1 s) := by
  unfold State.bilPart
  show Walk true _ _ _
  repeat' first
    | (with_reducible exact Walk.refl)
    | (with_reducible apply Walk.step (k := State.setBil_keeps))
    | (with_reducible apply Walk.step (k := State.setLedger_keeps))
    | (with_reducible apply Walk.foldl)
    | (intro _)
    | (show covers _ _ = true; rfl)
    | (split)

theorem State.mshPart_keeps {x1 s} : Keeps [.msh, .bil] s (@State.mshPart x1 s) := by
  unfold State.mshPart
  show Walk true _ _ _
  repeat' first
    | (with_reducible exact Walk.refl)
    | (with_reducible apply Walk.step (k := State.dropPushes_keeps))
    | (with_reducible apply Walk.step (k := State.setMsh_keeps))
    | (show covers _ _ = true; rfl)

theorem State.plcPart_keeps {x1 s} : Keeps [.plc, .bil] s (@State.plcPart x1 s) := by
  unfold State.plcPart
  show Walk true _ _ _
  repeat' first
    | (with_reducible exact Walk.refl)
    | (with_reducible apply Walk.step (k := State.dropPushes_keeps))
    | (with_reducible apply Walk.step (k := State.setPlc_keeps))
    | (show covers _ _ = true; rfl)

theorem State.bilReady_keeps {x1 s} : Keeps [.regs, .out, .hbr, .bil, .win 1] s (@State.bilReady x1 s) := by
  unfold State.bilReady
  show Walk true _ _ _
  repeat' first
    | (with_reducible exact Walk.refl)
    | (with_reducible apply Walk.step (k := State.setBil_keeps))
    | (with_reducible apply Walk.step (k := State.goInForce_keeps))
    | (with_reducible apply Walk.foldl)
    | (intro _)
    | (show covers _ _ = true; rfl)
    | (split)

end Sys2Proof.Machine
end

