-- ==== Sys2Proof/Laws/KeepsVin.lean ====
section
/-! SUPPORT. What each operation of Vin can change, and that it keeps the canonical forms. -/
set_option Elab.async false
namespace Sys2Proof.Machine

theorem State.cmdPart_keeps {x1 x2 s} : Keeps [.regs, .cmd, .win 2] s (@State.cmdPart x1 x2 s) := by
  unfold State.cmdPart
  show Walk true _ _ _
  try dsimp only
  repeat' first
    | (with_reducible exact Walk.refl)
    | (with_reducible apply Walk.step (k := State.disableQueue_keeps))
    | (with_reducible apply Walk.step (k := State.setQctrl_keeps))
    | (with_reducible apply Walk.ite)
    | (with_reducible apply Walk.foldl)
    | (with_reducible apply Walk.foldl1)
    | (with_reducible apply Walk.foldl2)
    | (intro _)
    | (with_reducible assumption)
    | (with_reducible refine Walk.update ?_ ?_ ?_ ?_ ?_ ?_ ?_ ?_ ?_ ?_ ?_ ?_ ?_ ?_ ?_ ?_ ?_ ?_ ?_ ?_ ?_ ?_ ?_ ?_ ?_ ?_ ?_ rfl rfl)
    | (exact .inl rfl)
    | (exact .inr rfl)
    | (show covers _ _ = true; rfl)
    | (split)

theorem State.fenceNotice_keeps {x1 x2 x3 s} : Keeps [.regs, .out, .hbr, .win 1] s (@State.fenceNotice x1 x2 x3 s) := by
  unfold State.fenceNotice
  show Walk true _ _ _
  repeat' first
    | (with_reducible exact Walk.refl)
    | (with_reducible apply Walk.step (k := State.event_keeps))
    | (show covers _ _ = true; rfl)

theorem State.fenceStart_keeps {x1 x2 x3 x4 s} : Keeps [.regs, .out, .hbr, .vin, .ing, .fse, .cod, .arc, .win 1, .win 9] s (@State.fenceStart x1 x2 x3 x4 s) := by
  unfold State.fenceStart
  show Walk true _ _ _
  try dsimp only
  repeat' first
    | (with_reducible exact Walk.refl)
    | (with_reducible apply Walk.step (k := State.setInst_keeps))
    | (with_reducible apply Walk.step (k := State.emit_keeps))
    | (with_reducible apply Walk.step (k := State.markOld_keeps))
    | (with_reducible apply Walk.step (k := State.codPart_keeps))
    | (with_reducible apply Walk.step (k := State.fenceNotice_keeps))
    | (show covers _ _ = true; rfl)
    | (split)

theorem execVinReset_keeps {x1 s t} (h : @execVinReset x1 s = .next t) : Keeps [.regs, .out, .cmd, .hbr, .vin, .ing, .fse, .cod, .arc, .bil, .win 1, .win 9] s t := by
  unfold execVinReset at h
  have e := Host.Outcome.next.inj h
  subst e
  clear h
  show Walk true _ _ _
  repeat' first
    | (with_reducible exact Walk.refl)
    | (with_reducible apply Walk.step (k := State.reply_keeps))
    | (with_reducible apply Walk.step (k := State.fenceStart_keeps))
    | (with_reducible apply Walk.step (k := State.replyQueued_keeps))
    | (show covers _ _ = true; rfl)
    | (split)

theorem State.saveInst_keeps {x1 s} : Keeps [.vin] s (@State.saveInst x1 s) := by
  unfold State.saveInst
  show Walk true _ _ _
  repeat' first
    | (with_reducible exact Walk.refl)
    | (with_reducible refine Walk.update ?_ ?_ ?_ ?_ ?_ ?_ ?_ ?_ ?_ ?_ ?_ ?_ ?_ ?_ ?_ ?_ ?_ ?_ ?_ ?_ ?_ ?_ ?_ ?_ ?_ ?_ ?_ rfl rfl)
    | (exact .inl rfl)
    | (exact .inr rfl)

theorem execVinCreate_keeps {x1 x2 x3 s t} (h : @execVinCreate x1 x2 x3 s = .next t) : Keeps [.cmd, .vin, .bil] s t := by
  unfold execVinCreate at h
  have e := Host.Outcome.next.inj h
  subst e
  clear h
  show Walk true _ _ _
  repeat' first
    | (with_reducible exact Walk.refl)
    | (with_reducible apply Walk.step (k := State.reply_keeps))
    | (with_reducible apply Walk.step (k := State.replyWith_keeps))
    | (with_reducible apply Walk.step (k := State.saveInst_keeps))
    | (with_reducible apply Walk.step (k := State.setInst_keeps))
    | (show covers _ _ = true; rfl)
    | (split)

theorem execVinDestroy_keeps {x1 x2 x3 s t} (h : @execVinDestroy x1 x2 x3 s = .next t) : Keeps [.regs, .out, .cmd, .hbr, .vin, .ing, .fse, .cod, .arc, .bil, .win 1, .win 9] s t := by
  unfold execVinDestroy at h
  have e := Host.Outcome.next.inj h
  subst e
  clear h
  show Walk true _ _ _
  try dsimp only
  repeat' first
    | (with_reducible exact Walk.refl)
    | (with_reducible apply Walk.step (k := State.reply_keeps))
    | (with_reducible apply Walk.step (k := State.replyWith_keeps))
    | (with_reducible apply Walk.step (k := State.fenceStart_keeps))
    | (with_reducible apply Walk.step (k := State.replyQueued_keeps))
    | (show covers _ _ = true; rfl)
    | (split)

theorem State.unitPart_keeps {x1 x2 x3 s} : Keeps [.regs, .out, .cmd, .hbr, .kvt, .ing, .plc, .msh, .arc, .bil, .win 2, .win 10] s (@State.unitPart x1 x2 x3 s) := by
  unfold State.unitPart
  show Walk true _ _ _
  repeat' first
    | (with_reducible exact Walk.refl)
    | (with_reducible apply Walk.step (k := State.arcPart_keeps))
    | (with_reducible apply Walk.step (k := State.plcPart_keeps))
    | (with_reducible apply Walk.step (k := State.mshPart_keeps))
    | (with_reducible apply Walk.step (k := State.bilPart_keeps))
    | (with_reducible apply Walk.step (k := State.dropWork_keeps))
    | (with_reducible apply Walk.step (k := State.cmdPart_keeps))
    | (show covers _ _ = true; rfl)
    | (split)

theorem State.fenceEnd_keeps {x1 x2 s} : Keeps [.regs, .out, .cmd, .hbr, .vin, .bil, .win 1, .win 20] s (@State.fenceEnd x1 x2 s) := by
  unfold State.fenceEnd
  show Walk true _ _ _
  repeat' first
    | (with_reducible exact Walk.refl)
    | (with_reducible apply Walk.step (k := State.setInst_keeps))
    | (with_reducible apply Walk.step (k := State.saveInst_keeps))
    | (with_reducible apply Walk.step (k := State.replyWith_keeps))
    | (with_reducible apply Walk.step (k := State.bilReady_keeps))
    | (with_reducible apply Walk.step (k := State.fenceNotice_keeps))
    | (with_reducible apply Walk.step (k := State.maxReg_keeps))
    | (with_reducible apply Walk.foldl)
    | (intro _)
    | (show covers _ _ = true; rfl)
    | (split)

theorem execFenceUnitAck_keeps {x1 x2 s t} (h : @execFenceUnitAck x1 x2 s = .next t) : Keeps [.regs, .out, .cmd, .hbr, .vin, .kvt, .ing, .plc, .msh, .arc, .bil, .win 1, .win 2, .win 10, .win 20] s t := by
  unfold execFenceUnitAck at h
  have e := Host.Outcome.next.inj h
  subst e
  clear h
  show Walk true _ _ _
  try dsimp only
  repeat' first
    | (with_reducible exact Walk.refl)
    | (with_reducible apply Walk.step (k := State.unitPart_keeps))
    | (with_reducible apply Walk.step (k := State.fenceEnd_keeps))
    | (with_reducible apply Walk.step (k := State.setInst_keeps))
    | (split)
    | (with_reducible refine Walk.update ?_ ?_ ?_ ?_ ?_ ?_ ?_ ?_ ?_ ?_ ?_ ?_ ?_ ?_ ?_ ?_ ?_ ?_ ?_ ?_ ?_ ?_ ?_ ?_ ?_ ?_ ?_ rfl rfl)
    | (exact .inl rfl)
    | (exact .inr rfl)
    | (show covers _ _ = true; rfl)

theorem State.fenceFault_keeps {x1 x2 s} : Keeps [.regs, .out, .cmd, .hbr, .vin, .evr, .bil, .win 1, .win 20, .win 21] s (@State.fenceFault x1 x2 s) := by
  unfold State.fenceFault
  show Walk true _ _ _
  try dsimp only
  repeat' first
    | (with_reducible exact Walk.refl)
    | (with_reducible apply Walk.step (k := State.bump_keeps))
    | (with_reducible apply Walk.step (k := State.fenceNotice_keeps))
    | (with_reducible apply Walk.step (k := State.log_keeps))
    | (with_reducible apply Walk.step (k := State.maxReg_keeps))
    | (with_reducible apply Walk.step (k := State.reply_keeps))
    | (with_reducible apply Walk.step (k := State.setInst_keeps))
    | (with_reducible apply Walk.foldl)
    | (with_reducible apply Walk.foldl1)
    | (with_reducible apply Walk.foldl2)
    | (intro _)
    | (with_reducible assumption)
    | (with_reducible refine Walk.update ?_ ?_ ?_ ?_ ?_ ?_ ?_ ?_ ?_ ?_ ?_ ?_ ?_ ?_ ?_ ?_ ?_ ?_ ?_ ?_ ?_ ?_ ?_ ?_ ?_ ?_ ?_ rfl rfl)
    | (exact .inl rfl)
    | (exact .inr rfl)
    | (show covers _ _ = true; rfl)
    | (split)

theorem execFenceTimeout_keeps {x1 s t} (h : @execFenceTimeout x1 s = .next t) : Keeps [.regs, .out, .cmd, .hbr, .vin, .evr, .bil, .win 1, .win 20, .win 21] s t := by
  unfold execFenceTimeout at h
  have e := Host.Outcome.next.inj h
  subst e
  clear h
  show Walk true _ _ _
  repeat' first
    | (with_reducible exact Walk.refl)
    | (with_reducible apply Walk.step (k := State.fenceFault_keeps))
    | (show covers _ _ = true; rfl)
    | (split)

theorem execVinQuotaSet_keeps {x1 x2 x3 s t} (h : @execVinQuotaSet x1 x2 x3 s = .next t) : Keeps [.cmd, .vin, .bil] s t := by
  unfold execVinQuotaSet at h
  have e := Host.Outcome.next.inj h
  subst e
  clear h
  show Walk true _ _ _
  repeat' first
    | (with_reducible exact Walk.refl)
    | (with_reducible apply Walk.step (k := State.reply_keeps))
    | (with_reducible apply Walk.step (k := State.saveInst_keeps))
    | (with_reducible apply Walk.step (k := State.setInst_keeps))
    | (show covers _ _ = true; rfl)
    | (split)

theorem execVinStatus_keeps {x1 s t} (h : @execVinStatus x1 s = .next t) : Keeps [.out, .cmd, .hbr, .bil] s t := by
  unfold execVinStatus at h
  have e := Host.Outcome.next.inj h
  subst e
  clear h
  show Walk true _ _ _
  repeat' first
    | (with_reducible exact Walk.refl)
    | (with_reducible apply Walk.step (k := State.replyWith_keeps))
    | (with_reducible apply Walk.step (k := State.writeData_keeps))
    | (show covers _ _ = true; rfl)

theorem execVinDisable_keeps {x1 s t} (h : @execVinDisable x1 s = .next t) : Keeps [.regs, .out, .cmd, .hbr, .vin, .ing, .fse, .cod, .arc, .bil, .win 1, .win 9] s t := by
  unfold execVinDisable at h
  have e := Host.Outcome.next.inj h
  subst e
  clear h
  show Walk true _ _ _
  repeat' first
    | (with_reducible exact Walk.refl)
    | (with_reducible apply Walk.step (k := State.reply_keeps))
    | (with_reducible apply Walk.step (k := State.fenceStart_keeps))
    | (with_reducible apply Walk.step (k := State.replyQueued_keeps))
    | (show covers _ _ = true; rfl)
    | (split)

end Sys2Proof.Machine
end

