-- ==== Sys2Proof/Laws/KeepsBridge.lean ====
section
/-! SUPPORT. What each operation of Bridge can change, and that it keeps the canonical forms. -/
set_option Elab.async false
namespace Sys2Proof.Machine

theorem execPerstDeassert_keeps {s t} (h : @execPerstDeassert s = .next t) : Keeps [.hbr] s t := by
  unfold execPerstDeassert at h
  have e := Host.Outcome.next.inj h
  subst e
  clear h
  show Walk true _ _ _
  repeat' first
    | (with_reducible exact Walk.refl)
    | (with_reducible refine Walk.update ?_ ?_ ?_ ?_ ?_ ?_ ?_ ?_ ?_ ?_ ?_ ?_ ?_ ?_ ?_ ?_ ?_ ?_ ?_ ?_ ?_ ?_ ?_ ?_ ?_ ?_ ?_ rfl rfl)
    | (exact .inl rfl)
    | (exact .inr rfl)

theorem State.moveHeld_keeps {x1 s} : Keeps [.regs, .out, .hbr, .win 1] s (@State.moveHeld x1 s) := by
  unfold State.moveHeld
  show Walk true _ _ _
  repeat' first
    | (with_reducible exact Walk.refl)
    | (with_reducible apply Walk.step (k := State.ringWrite_keeps))
    | (with_reducible refine Walk.update ?_ ?_ ?_ ?_ ?_ ?_ ?_ ?_ ?_ ?_ ?_ ?_ ?_ ?_ ?_ ?_ ?_ ?_ ?_ ?_ ?_ ?_ ?_ ?_ ?_ ?_ ?_ rfl rfl)
    | (exact .inl rfl)
    | (exact .inr rfl)
    | (show covers _ _ = true; rfl)
    | (split)

theorem execHeldMove_keeps {x1 s t} (h : @execHeldMove x1 s = .next t) : Keeps [.regs, .out, .hbr, .win 1] s t := by
  unfold execHeldMove at h
  have e := Host.Outcome.next.inj h
  subst e
  clear h
  show Walk true _ _ _
  repeat' first
    | (with_reducible exact Walk.refl)
    | (with_reducible apply Walk.step (k := State.moveHeld_keeps))
    | (show covers _ _ = true; rfl)

theorem State.resetFunction_keeps {x1 s} : Keeps [.regs, .hbr, .win 1] s (@State.resetFunction x1 s) := by
  unfold State.resetFunction
  show Walk true _ _ _
  try dsimp only
  repeat' first
    | (with_reducible exact Walk.refl)
    | (with_reducible apply Walk.step (k := State.setReg_keeps))
    | (with_reducible apply Walk.step (k := State.setRegI_keeps))
    | (with_reducible apply Walk.ite)
    | (with_reducible refine Walk.update ?_ ?_ ?_ ?_ ?_ ?_ ?_ ?_ ?_ ?_ ?_ ?_ ?_ ?_ ?_ ?_ ?_ ?_ ?_ ?_ ?_ ?_ ?_ ?_ ?_ ?_ ?_ rfl rfl)
    | (exact .inl rfl)
    | (exact .inr rfl)
    | (show covers _ _ = true; rfl)
    | (split)

theorem State.endWith_keeps {x1 x2 x3 s} : Keeps [.cmd] s (@State.endWith x1 x2 x3 s) := by
  unfold State.endWith
  show Walk true _ _ _
  try dsimp only
  repeat' first
    | (with_reducible exact Walk.refl)
    | (with_reducible refine Walk.update ?_ ?_ ?_ ?_ ?_ ?_ ?_ ?_ ?_ ?_ ?_ ?_ ?_ ?_ ?_ ?_ ?_ ?_ ?_ ?_ ?_ ?_ ?_ ?_ ?_ ?_ ?_ rfl rfl)
    | (exact .inl rfl)
    | (exact .inr rfl)
    | (show covers _ _ = true; rfl)
    | (split)

theorem State.loseFunction_keeps {x1 x2 x3 s} : Keeps [.regs, .cmd, .hbr, .win 2] s (@State.loseFunction x1 x2 x3 s) := by
  unfold State.loseFunction
  show Walk true _ _ _
  try dsimp only
  repeat' first
    | (with_reducible exact Walk.refl)
    | (with_reducible apply Walk.step (k := State.abandon_keeps))
    | (with_reducible apply Walk.step (k := State.disableQueue_keeps))
    | (with_reducible apply Walk.step (k := State.endWith_keeps))
    | (with_reducible apply Walk.step (k := State.mapCmds_keeps))
    | (with_reducible apply Walk.step (k := State.setQctrl_keeps))
    | (with_reducible apply Walk.ite)
    | (with_reducible apply Walk.foldl)
    | (with_reducible apply Walk.foldl1)
    | (with_reducible apply Walk.foldl2)
    | (intro _)
    | (with_reducible assumption)
    | (split)
    | (with_reducible refine Walk.update ?_ ?_ ?_ ?_ ?_ ?_ ?_ ?_ ?_ ?_ ?_ ?_ ?_ ?_ ?_ ?_ ?_ ?_ ?_ ?_ ?_ ?_ ?_ ?_ ?_ ?_ ?_ rfl rfl)
    | (exact .inl rfl)
    | (exact .inr rfl)
    | (show covers _ _ = true; rfl)

theorem State.loseMastery_keeps {x1 x2 s} : Keeps [.regs, .cmd, .hbr, .win 2] s (@State.loseMastery x1 x2 s) := by
  unfold State.loseMastery
  show Walk true _ _ _
  try dsimp only
  repeat' first
    | (with_reducible exact Walk.refl)
    | (with_reducible apply Walk.step (k := State.loseFunction_keeps))
    | (with_reducible apply Walk.ite)
    | (with_reducible apply Walk.foldl)
    | (with_reducible apply Walk.foldl1)
    | (with_reducible apply Walk.foldl2)
    | (intro _)
    | (with_reducible assumption)
    | (show covers _ _ = true; rfl)
    | (split)

theorem State.markAbsent_keeps {x1 s} : Keeps [.regs, .win 1] s (@State.markAbsent x1 s) := by
  unfold State.markAbsent
  show Walk true _ _ _
  repeat' first
    | (with_reducible exact Walk.refl)
    | (with_reducible apply Walk.step (k := State.setPair_keeps))
    | (show covers _ _ = true; rfl)
    | (split)

theorem execFlrPf0_keeps {x1 s t} (h : @execFlrPf0 x1 s = .next t) : Keeps [.regs, .cmd, .hbr, .win 1, .win 2] s t := by
  unfold execFlrPf0 at h
  have e := Host.Outcome.next.inj h
  subst e
  clear h
  show Walk true _ _ _
  try dsimp only
  repeat' first
    | (with_reducible exact Walk.refl)
    | (with_reducible apply Walk.step (k := State.loseMastery_keeps))
    | (with_reducible apply Walk.step (k := State.markAbsent_keeps))
    | (with_reducible apply Walk.step (k := State.resetFunction_keeps))
    | (with_reducible apply Walk.step (k := State.setRegBit_keeps))
    | (with_reducible refine Walk.update ?_ ?_ ?_ ?_ ?_ ?_ ?_ ?_ ?_ ?_ ?_ ?_ ?_ ?_ ?_ ?_ ?_ ?_ ?_ ?_ ?_ ?_ ?_ ?_ ?_ ?_ ?_ rfl rfl)
    | (exact .inl rfl)
    | (exact .inr rfl)
    | (show covers _ _ = true; rfl)
    | (split)

theorem execStallAbsent_keeps {s t} (h : @execStallAbsent s = .next t) : Keeps [.regs, .out, .hbr, .win 1] s t := by
  unfold execStallAbsent at h
  have e := Host.Outcome.next.inj h
  subst e
  clear h
  show Walk true _ _ _
  try dsimp only
  repeat' first
    | (with_reducible exact Walk.refl)
    | (with_reducible apply Walk.step (k := State.linkEvent_keeps))
    | (with_reducible apply Walk.step (k := State.markAbsent_keeps))
    | (with_reducible apply Walk.ite)
    | (split)
    | (with_reducible refine Walk.update ?_ ?_ ?_ ?_ ?_ ?_ ?_ ?_ ?_ ?_ ?_ ?_ ?_ ?_ ?_ ?_ ?_ ?_ ?_ ?_ ?_ ?_ ?_ ?_ ?_ ?_ ?_ rfl rfl)
    | (exact .inl rfl)
    | (exact .inr rfl)
    | (show covers _ _ = true; rfl)

theorem State.setNrctrl_keeps {x1 x2 x3 s} : Keeps [.regs, .win 1] s (@State.setNrctrl x1 x2 x3 s) := by
  unfold State.setNrctrl
  show Walk true _ _ _
  try dsimp only
  repeat' first
    | (with_reducible exact Walk.refl)
    | (with_reducible apply Walk.step (k := State.setRegI_keeps))
    | (show covers _ _ = true; rfl)
    | (split)

theorem execNoticeRingDisable_keeps {x1 x2 s t} (h : @execNoticeRingDisable x1 x2 s = .next t) : Keeps [.regs, .hbr, .win 1] s t := by
  unfold execNoticeRingDisable at h
  have e := Host.Outcome.next.inj h
  subst e
  clear h
  show Walk true _ _ _
  try dsimp only
  repeat' first
    | (with_reducible exact Walk.refl)
    | (with_reducible apply Walk.step (k := State.setNrctrl_keeps))
    | (with_reducible apply Walk.step (k := State.setRing_keeps))
    | (with_reducible apply Walk.ite)
    | (with_reducible refine Walk.update ?_ ?_ ?_ ?_ ?_ ?_ ?_ ?_ ?_ ?_ ?_ ?_ ?_ ?_ ?_ ?_ ?_ ?_ ?_ ?_ ?_ ?_ ?_ ?_ ?_ ?_ ?_ rfl rfl)
    | (exact .inl rfl)
    | (exact .inr rfl)
    | (show covers _ _ = true; rfl)
    | (split)

theorem execBackoffExpiry_keeps {s t} (h : @execBackoffExpiry s = .next t) : Keeps [.out, .hbr] s t := by
  unfold execBackoffExpiry at h
  have e := Host.Outcome.next.inj h
  subst e
  clear h
  show Walk true _ _ _
  try dsimp only
  repeat' first
    | (with_reducible exact Walk.refl)
    | (with_reducible apply Walk.step (k := State.upLook_keeps))
    | (with_reducible apply Walk.ite)
    | (with_reducible refine Walk.update ?_ ?_ ?_ ?_ ?_ ?_ ?_ ?_ ?_ ?_ ?_ ?_ ?_ ?_ ?_ ?_ ?_ ?_ ?_ ?_ ?_ ?_ ?_ ?_ ?_ ?_ ?_ rfl rfl)
    | (exact .inl rfl)
    | (exact .inr rfl)
    | (show covers _ _ = true; rfl)
    | (split)

theorem State.dropRead_keeps {x1 s} : Keeps [.hbr] s (@State.dropRead x1 s) := by
  unfold State.dropRead
  show Walk true _ _ _
  repeat' first
    | (with_reducible exact Walk.refl)
    | (with_reducible refine Walk.update ?_ ?_ ?_ ?_ ?_ ?_ ?_ ?_ ?_ ?_ ?_ ?_ ?_ ?_ ?_ ?_ ?_ ?_ ?_ ?_ ?_ ?_ ?_ ?_ ?_ ?_ ?_ rfl rfl)
    | (exact .inl rfl)
    | (exact .inr rfl)

theorem State.takeList_keeps {x1 x2 x3 x4 s} : Keeps [.hbr] s (@State.takeList x1 x2 x3 x4 s) := by
  unfold State.takeList
  show Walk true _ _ _
  try dsimp only
  repeat' first
    | (with_reducible exact Walk.refl)
    | (with_reducible apply Walk.ite)
    | (with_reducible refine Walk.update ?_ ?_ ?_ ?_ ?_ ?_ ?_ ?_ ?_ ?_ ?_ ?_ ?_ ?_ ?_ ?_ ?_ ?_ ?_ ?_ ?_ ?_ ?_ ?_ ?_ ?_ ?_ rfl rfl)
    | (exact .inl rfl)
    | (exact .inr rfl)
    | (show covers _ _ = true; rfl)
    | (split)

theorem State.listLook_keeps {x1 x2 s} : Keeps [.out, .hbr] s (@State.listLook x1 x2 s) := by
  unfold State.listLook
  show Walk true _ _ _
  try dsimp only
  repeat' first
    | (with_reducible exact Walk.refl)
    | (with_reducible apply Walk.step (k := State.moveData_keeps))
    | (with_reducible apply Walk.ite)
    | (with_reducible apply Walk.foldl)
    | (with_reducible apply Walk.foldl1)
    | (with_reducible apply Walk.foldl2)
    | (intro _)
    | (with_reducible assumption)
    | (with_reducible refine Walk.update ?_ ?_ ?_ ?_ ?_ ?_ ?_ ?_ ?_ ?_ ?_ ?_ ?_ ?_ ?_ ?_ ?_ ?_ ?_ ?_ ?_ ?_ ?_ ?_ ?_ ?_ ?_ rfl rfl)
    | (exact .inl rfl)
    | (exact .inr rfl)
    | (show covers _ _ = true; rfl)
    | (split)

theorem execPartReadCompletion_keeps {x1 x2 s t} (h : @execPartReadCompletion x1 x2 s = .next t) : Keeps [.out, .hbr] s t := by
  unfold execPartReadCompletion at h
  have e := Host.Outcome.next.inj h
  subst e
  clear h
  show Walk true _ _ _
  try dsimp only
  repeat' first
    | (with_reducible exact Walk.refl)
    | (with_reducible apply Walk.step (k := State.dropRead_keeps))
    | (with_reducible apply Walk.step (k := State.listLook_keeps))
    | (with_reducible apply Walk.step (k := State.takeList_keeps))
    | (with_reducible apply Walk.step (k := State.upLook_keeps))
    | (with_reducible apply Walk.ite)
    | (split)
    | (with_reducible refine Walk.update ?_ ?_ ?_ ?_ ?_ ?_ ?_ ?_ ?_ ?_ ?_ ?_ ?_ ?_ ?_ ?_ ?_ ?_ ?_ ?_ ?_ ?_ ?_ ?_ ?_ ?_ ?_ rfl rfl)
    | (exact .inl rfl)
    | (exact .inr rfl)
    | (show covers _ _ = true; rfl)

theorem execNrCoalesceTimeout_keeps {x1 s t} (h : @execNrCoalesceTimeout x1 s = .next t) : Keeps [.regs, .out, .hbr, .win 1] s t := by
  unfold execNrCoalesceTimeout at h
  have e := Host.Outcome.next.inj h
  subst e
  clear h
  show Walk true _ _ _
  repeat' first
    | (with_reducible exact Walk.refl)
    | (with_reducible apply Walk.step (k := State.ringMessage_keeps))
    | (show covers _ _ = true; rfl)
    | (split)

theorem State.ringHead_keeps {x1 x2 s} : Keeps [.regs, .hbr, .win 2] s (@State.ringHead x1 x2 s) := by
  unfold State.ringHead
  show Walk true _ _ _
  try dsimp only
  repeat' first
    | (with_reducible exact Walk.refl)
    | (with_reducible apply Walk.step (k := State.doorbellDrop_keeps))
    | (with_reducible apply Walk.step (k := State.setRing_keeps))
    | (show covers _ _ = true; rfl)
    | (split)

theorem execCreditStall_keeps {s t} (h : @execCreditStall s = .next t) : Keeps [.regs, .hbr, .win 1] s t := by
  unfold execCreditStall at h
  have e := Host.Outcome.next.inj h
  subst e
  clear h
  show Walk true _ _ _
  try dsimp only
  repeat' first
    | (with_reducible exact Walk.refl)
    | (with_reducible apply Walk.step (k := State.bump_keeps))
    | (with_reducible apply Walk.ite)
    | (split)
    | (with_reducible refine Walk.update ?_ ?_ ?_ ?_ ?_ ?_ ?_ ?_ ?_ ?_ ?_ ?_ ?_ ?_ ?_ ?_ ?_ ?_ ?_ ?_ ?_ ?_ ?_ ?_ ?_ ?_ ?_ rfl rfl)
    | (exact .inl rfl)
    | (exact .inr rfl)
    | (show covers _ _ = true; rfl)

theorem State.headDoorbell_keeps {x1 s} : Keeps [.regs, .hbr, .win 2] s (@State.headDoorbell x1 s) := by
  unfold State.headDoorbell
  show Walk true _ _ _
  try dsimp only
  repeat' first
    | (with_reducible exact Walk.refl)
    | (with_reducible apply Walk.step (k := State.doorbellDrop_keeps))
    | (with_reducible apply Walk.step (k := State.keepDoorbell_keeps))
    | (with_reducible apply Walk.step (k := State.ringHead_keeps))
    | (with_reducible apply Walk.ite)
    | (split)
    | (show covers _ _ = true; rfl)

theorem execNoticeHeadDoorbell_keeps {x1 s t} (h : @execNoticeHeadDoorbell x1 s = .next t) : Keeps [.regs, .hbr, .win 2] s t := by
  unfold execNoticeHeadDoorbell at h
  have e := Host.Outcome.next.inj h
  subst e
  clear h
  show Walk true _ _ _
  try dsimp only
  repeat' first
    | (with_reducible exact Walk.refl)
    | (with_reducible apply Walk.step (k := State.headDoorbell_keeps))
    | (show covers _ _ = true; rfl)
    | (split)

theorem execNoticeRingEnable_keeps {x1 x2 s t} (h : @execNoticeRingEnable x1 x2 s = .next t) : Keeps [.regs, .hbr, .win 1] s t := by
  unfold execNoticeRingEnable at h
  have e := Host.Outcome.next.inj h
  subst e
  clear h
  show Walk true _ _ _
  try dsimp only
  repeat' first
    | (with_reducible exact Walk.refl)
    | (with_reducible apply Walk.step (k := State.setNrctrl_keeps))
    | (with_reducible apply Walk.step (k := State.setRing_keeps))
    | (with_reducible apply Walk.ite)
    | (show covers _ _ = true; rfl)
    | (split)

theorem State.sendPending_keeps {x1 s} : Keeps [.out, .hbr] s (@State.sendPending x1 s) := by
  unfold State.sendPending
  show Walk true _ _ _
  try dsimp only
  repeat' first
    | (with_reducible exact Walk.refl)
    | (with_reducible apply Walk.step (k := State.emit_keeps))
    | (with_reducible apply Walk.ite)
    | (with_reducible apply Walk.foldl)
    | (with_reducible apply Walk.foldl1)
    | (with_reducible apply Walk.foldl2)
    | (intro _)
    | (with_reducible assumption)
    | (with_reducible refine Walk.update ?_ ?_ ?_ ?_ ?_ ?_ ?_ ?_ ?_ ?_ ?_ ?_ ?_ ?_ ?_ ?_ ?_ ?_ ?_ ?_ ?_ ?_ ?_ ?_ ?_ ?_ ?_ rfl rfl)
    | (exact .inl rfl)
    | (exact .inr rfl)
    | (show covers _ _ = true; rfl)
    | (split)

theorem execMsixVectorUnmask_keeps {x1 s t} (h : @execMsixVectorUnmask x1 s = .next t) : Keeps [.out, .hbr] s t := by
  unfold execMsixVectorUnmask at h
  have e := Host.Outcome.next.inj h
  subst e
  clear h
  show Walk true _ _ _
  repeat' first
    | (with_reducible exact Walk.refl)
    | (with_reducible apply Walk.step (k := State.sendPending_keeps))
    | (with_reducible refine Walk.update ?_ ?_ ?_ ?_ ?_ ?_ ?_ ?_ ?_ ?_ ?_ ?_ ?_ ?_ ?_ ?_ ?_ ?_ ?_ ?_ ?_ ?_ ?_ ?_ ?_ ?_ ?_ rfl rfl)
    | (exact .inl rfl)
    | (exact .inr rfl)
    | (show covers _ _ = true; rfl)

theorem State.setFunc_keeps {x1 x2 s} : Keeps [.hbr] s (@State.setFunc x1 x2 s) := by
  unfold State.setFunc
  show Walk true _ _ _
  repeat' first
    | (with_reducible exact Walk.refl)
    | (with_reducible refine Walk.update ?_ ?_ ?_ ?_ ?_ ?_ ?_ ?_ ?_ ?_ ?_ ?_ ?_ ?_ ?_ ?_ ?_ ?_ ?_ ?_ ?_ ?_ ?_ ?_ ?_ ?_ ?_ rfl rfl)
    | (exact .inl rfl)
    | (exact .inr rfl)

theorem execBusMasterClear_keeps {x1 x2 s t} (h : @execBusMasterClear x1 x2 s = .next t) : Keeps [.regs, .cmd, .hbr, .win 1, .win 2] s t := by
  unfold execBusMasterClear at h
  have e := Host.Outcome.next.inj h
  subst e
  clear h
  show Walk true _ _ _
  repeat' first
    | (with_reducible exact Walk.refl)
    | (with_reducible apply Walk.step (k := State.setFunc_keeps))
    | (with_reducible apply Walk.step (k := State.markAbsent_keeps))
    | (with_reducible apply Walk.step (k := State.loseMastery_keeps))
    | (show covers _ _ = true; rfl)

theorem State.failRead_keeps {x1 s} : Keeps [.regs, .cmd, .hbr, .evr, .win 21] s (@State.failRead x1 s) := by
  unfold State.failRead
  show Walk true _ _ _
  try dsimp only
  repeat' first
    | (with_reducible exact Walk.refl)
    | (with_reducible apply Walk.step (k := State.abandon_keeps))
    | (with_reducible apply Walk.step (k := State.dropRead_keeps))
    | (with_reducible apply Walk.step (k := State.endWith_keeps))
    | (with_reducible apply Walk.step (k := State.log_keeps))
    | (with_reducible apply Walk.step (k := State.queueError_keeps))
    | (with_reducible apply Walk.step (k := State.setQueue_keeps))
    | (with_reducible apply Walk.ite)
    | (split)
    | (with_reducible refine Walk.update ?_ ?_ ?_ ?_ ?_ ?_ ?_ ?_ ?_ ?_ ?_ ?_ ?_ ?_ ?_ ?_ ?_ ?_ ?_ ?_ ?_ ?_ ?_ ?_ ?_ ?_ ?_ rfl rfl)
    | (exact .inl rfl)
    | (exact .inr rfl)
    | (show covers _ _ = true; rfl)

theorem State.aerError_keeps {x1 x2 x3 s} : Keeps [.hbr] s (@State.aerError x1 x2 x3 s) := by
  unfold State.aerError
  show Walk true _ _ _
  try dsimp only
  repeat' first
    | (with_reducible exact Walk.refl)
    | (with_reducible apply Walk.ite)
    | (with_reducible refine Walk.update ?_ ?_ ?_ ?_ ?_ ?_ ?_ ?_ ?_ ?_ ?_ ?_ ?_ ?_ ?_ ?_ ?_ ?_ ?_ ?_ ?_ ?_ ?_ ?_ ?_ ?_ ?_ rfl rfl)
    | (exact .inl rfl)
    | (exact .inr rfl)
    | (show covers _ _ = true; rfl)
    | (split)

theorem execPartReadError_keeps {x1 x2 x3 s t} (h : @execPartReadError x1 x2 x3 s = .next t) : Keeps [.regs, .out, .cmd, .hbr, .evr, .win 1, .win 21] s t := by
  unfold execPartReadError at h
  have e := Host.Outcome.next.inj h
  subst e
  clear h
  show Walk true _ _ _
  try dsimp only
  repeat' first
    | (with_reducible exact Walk.refl)
    | (with_reducible apply Walk.step (k := State.aerError_keeps))
    | (with_reducible apply Walk.step (k := State.bump_keeps))
    | (with_reducible apply Walk.step (k := State.failRead_keeps))
    | (with_reducible apply Walk.step (k := State.linkEvent_keeps))
    | (with_reducible apply Walk.step (k := State.upLook_keeps))
    | (with_reducible apply Walk.ite)
    | (split)
    | (show covers _ _ = true; rfl)

theorem State.sendAllPending_keeps {s} : Keeps [.out, .hbr] s (@State.sendAllPending s) := by
  unfold State.sendAllPending
  show Walk true _ _ _
  repeat' first
    | (with_reducible exact Walk.refl)
    | (with_reducible apply Walk.step (k := State.sendPending_keeps))
    | (with_reducible apply Walk.foldl)
    | (intro _)
    | (show covers _ _ = true; rfl)

theorem execD3hotExit_keeps {x1 s t} (h : @execD3hotExit x1 s = .next t) : Keeps [.out, .hbr] s t := by
  unfold execD3hotExit at h
  have e := Host.Outcome.next.inj h
  subst e
  clear h
  show Walk true _ _ _
  repeat' first
    | (with_reducible exact Walk.refl)
    | (with_reducible apply Walk.step (k := State.sendAllPending_keeps))
    | (with_reducible apply Walk.step (k := State.setFunc_keeps))
    | (show covers _ _ = true; rfl)

theorem execD3hotEntry_keeps {x1 x2 s t} (h : @execD3hotEntry x1 x2 s = .next t) : Keeps [.regs, .cmd, .hbr, .win 1, .win 2] s t := by
  unfold execD3hotEntry at h
  have e := Host.Outcome.next.inj h
  subst e
  clear h
  show Walk true _ _ _
  repeat' first
    | (with_reducible exact Walk.refl)
    | (with_reducible apply Walk.step (k := State.setFunc_keeps))
    | (with_reducible apply Walk.step (k := State.markAbsent_keeps))
    | (with_reducible apply Walk.step (k := State.loseMastery_keeps))
    | (show covers _ _ = true; rfl)

theorem State.loseLink_keeps {x1 x2 s} : Keeps [.regs, .cmd, .hbr, .win 1, .win 2] s (@State.loseLink x1 x2 s) := by
  unfold State.loseLink
  show Walk true _ _ _
  try dsimp only
  repeat' first
    | (with_reducible exact Walk.refl)
    | (with_reducible apply Walk.step (k := State.loseFunction_keeps))
    | (with_reducible apply Walk.step (k := State.markAbsent_keeps))
    | (with_reducible apply Walk.step (k := State.resetFunction_keeps))
    | (with_reducible apply Walk.step (k := State.setRegBit_keeps))
    | (with_reducible apply Walk.foldl)
    | (with_reducible apply Walk.foldl1)
    | (with_reducible apply Walk.foldl2)
    | (intro _)
    | (with_reducible assumption)
    | (with_reducible refine Walk.update ?_ ?_ ?_ ?_ ?_ ?_ ?_ ?_ ?_ ?_ ?_ ?_ ?_ ?_ ?_ ?_ ?_ ?_ ?_ ?_ ?_ ?_ ?_ ?_ ?_ ?_ ?_ rfl rfl)
    | (exact .inl rfl)
    | (exact .inr rfl)
    | (show covers _ _ = true; rfl)
    | (split)

theorem execPerstAssert_keeps {x1 s t} (h : @execPerstAssert x1 s = .next t) : Keeps [.regs, .cmd, .hbr, .win 1, .win 2] s t := by
  unfold execPerstAssert at h
  have e := Host.Outcome.next.inj h
  subst e
  clear h
  show Walk true _ _ _
  repeat' first
    | (with_reducible exact Walk.refl)
    | (with_reducible apply Walk.step (k := State.markAbsent_keeps))
    | (with_reducible apply Walk.step (k := State.loseLink_keeps))
    | (with_reducible refine Walk.update ?_ ?_ ?_ ?_ ?_ ?_ ?_ ?_ ?_ ?_ ?_ ?_ ?_ ?_ ?_ ?_ ?_ ?_ ?_ ?_ ?_ ?_ ?_ ?_ ?_ ?_ ?_ rfl rfl)
    | (exact .inl rfl)
    | (exact .inr rfl)
    | (show covers _ _ = true; rfl)

theorem execBusMasterSet_keeps {x1 s t} (h : @execBusMasterSet x1 s = .next t) : Keeps [.out, .hbr] s t := by
  unfold execBusMasterSet at h
  have e := Host.Outcome.next.inj h
  subst e
  clear h
  show Walk true _ _ _
  repeat' first
    | (with_reducible exact Walk.refl)
    | (with_reducible apply Walk.step (k := State.sendAllPending_keeps))
    | (with_reducible apply Walk.step (k := State.setFunc_keeps))
    | (show covers _ _ = true; rfl)

theorem execFlrVf_keeps {x1 x2 s t} (h : @execFlrVf x1 x2 s = .next t) : Keeps [.regs, .out, .cmd, .hbr, .vin, .ing, .fse, .cod, .arc, .win 1, .win 2, .win 9] s t := by
  unfold execFlrVf at h
  have e := Host.Outcome.next.inj h
  subst e
  clear h
  show Walk true _ _ _
  try dsimp only
  repeat' first
    | (with_reducible exact Walk.refl)
    | (with_reducible apply Walk.step (k := State.fenceStart_keeps))
    | (with_reducible apply Walk.step (k := State.linkEvent_keeps))
    | (with_reducible apply Walk.step (k := State.loseFunction_keeps))
    | (with_reducible apply Walk.step (k := State.resetFunction_keeps))
    | (with_reducible apply Walk.ite)
    | (show covers _ _ = true; rfl)
    | (split)

theorem execCompletionTimeout_keeps {x1 x2 x3 s t} (h : @execCompletionTimeout x1 x2 x3 s = .next t) : Keeps [.regs, .out, .cmd, .hbr, .evr, .win 1, .win 21] s t := by
  unfold execCompletionTimeout at h
  have e := Host.Outcome.next.inj h
  subst e
  clear h
  show Walk true _ _ _
  try dsimp only
  repeat' first
    | (with_reducible exact Walk.refl)
    | (with_reducible apply Walk.step (k := State.aerError_keeps))
    | (with_reducible apply Walk.step (k := State.bump_keeps))
    | (with_reducible apply Walk.step (k := State.failRead_keeps))
    | (with_reducible apply Walk.step (k := State.linkEvent_keeps))
    | (with_reducible apply Walk.step (k := State.upLook_keeps))
    | (with_reducible apply Walk.ite)
    | (split)
    | (show covers _ _ = true; rfl)

theorem execFunctionDisable_keeps {x1 s t} (h : @execFunctionDisable x1 s = .next t) : Keeps [.regs, .out, .cmd, .hbr, .vin, .ing, .fse, .cod, .arc, .win 1, .win 2, .win 9] s t := by
  unfold execFunctionDisable at h
  have e := Host.Outcome.next.inj h
  subst e
  clear h
  show Walk true _ _ _
  try dsimp only
  repeat' first
    | (with_reducible exact Walk.refl)
    | (with_reducible apply Walk.step (k := State.fenceStart_keeps))
    | (with_reducible apply Walk.step (k := State.loseFunction_keeps))
    | (with_reducible apply Walk.ite)
    | (with_reducible apply Walk.foldl)
    | (with_reducible apply Walk.foldl1)
    | (with_reducible apply Walk.foldl2)
    | (intro _)
    | (with_reducible assumption)
    | (with_reducible refine Walk.update ?_ ?_ ?_ ?_ ?_ ?_ ?_ ?_ ?_ ?_ ?_ ?_ ?_ ?_ ?_ ?_ ?_ ?_ ?_ ?_ ?_ ?_ ?_ ?_ ?_ ?_ ?_ rfl rfl)
    | (exact .inl rfl)
    | (exact .inr rfl)
    | (show covers _ _ = true; rfl)
    | (split)

theorem execDataLinkUp_keeps {x1 x2 s t} (h : @execDataLinkUp x1 x2 s = .next t) : Keeps [.out, .hbr] s t := by
  unfold execDataLinkUp at h
  have e := Host.Outcome.next.inj h
  subst e
  clear h
  show Walk true _ _ _
  try dsimp only
  repeat' first
    | (with_reducible exact Walk.refl)
    | (with_reducible apply Walk.step (k := State.sendAllPending_keeps))
    | (with_reducible apply Walk.ite)
    | (with_reducible refine Walk.update ?_ ?_ ?_ ?_ ?_ ?_ ?_ ?_ ?_ ?_ ?_ ?_ ?_ ?_ ?_ ?_ ?_ ?_ ?_ ?_ ?_ ?_ ?_ ?_ ?_ ?_ ?_ rfl rfl)
    | (exact .inl rfl)
    | (exact .inr rfl)
    | (show covers _ _ = true; rfl)
    | (split)

theorem execVfEnableSet_keeps {x1 x2 s t} (h : @execVfEnableSet x1 x2 s = .next t) : Keeps [.hbr] s t := by
  unfold execVfEnableSet at h
  have e := Host.Outcome.next.inj h
  subst e
  clear h
  show Walk true _ _ _
  repeat' first
    | (with_reducible exact Walk.refl)
    | (with_reducible refine Walk.update ?_ ?_ ?_ ?_ ?_ ?_ ?_ ?_ ?_ ?_ ?_ ?_ ?_ ?_ ?_ ?_ ?_ ?_ ?_ ?_ ?_ ?_ ?_ ?_ ?_ ?_ ?_ rfl rfl)
    | (exact .inl rfl)
    | (exact .inr rfl)

theorem execCreditsReturn_keeps {s t} (h : @execCreditsReturn s = .next t) : Keeps [.out, .hbr] s t := by
  unfold execCreditsReturn at h
  have e := Host.Outcome.next.inj h
  subst e
  clear h
  show Walk true _ _ _
  try dsimp only
  repeat' first
    | (with_reducible exact Walk.refl)
    | (with_reducible apply Walk.step (k := State.sendAllPending_keeps))
    | (with_reducible apply Walk.step (k := State.upLook_keeps))
    | (with_reducible refine Walk.update ?_ ?_ ?_ ?_ ?_ ?_ ?_ ?_ ?_ ?_ ?_ ?_ ?_ ?_ ?_ ?_ ?_ ?_ ?_ ?_ ?_ ?_ ?_ ?_ ?_ ?_ ?_ rfl rfl)
    | (exact .inl rfl)
    | (exact .inr rfl)
    | (show covers _ _ = true; rfl)
    | (split)

theorem execLinkDown_keeps {x1 s t} (h : @execLinkDown x1 s = .next t) : Keeps [.regs, .cmd, .hbr, .win 1, .win 2] s t := by
  unfold execLinkDown at h
  have e := Host.Outcome.next.inj h
  subst e
  clear h
  show Walk true _ _ _
  repeat' first
    | (with_reducible exact Walk.refl)
    | (with_reducible apply Walk.step (k := State.markAbsent_keeps))
    | (with_reducible apply Walk.step (k := State.loseLink_keeps))
    | (with_reducible refine Walk.update ?_ ?_ ?_ ?_ ?_ ?_ ?_ ?_ ?_ ?_ ?_ ?_ ?_ ?_ ?_ ?_ ?_ ?_ ?_ ?_ ?_ ?_ ?_ ?_ ?_ ?_ ?_ rfl rfl)
    | (exact .inl rfl)
    | (exact .inr rfl)
    | (show covers _ _ = true; rfl)

theorem State.advisory_keeps {x1 x2 s} : Keeps [.hbr] s (@State.advisory x1 x2 s) := by
  unfold State.advisory
  show Walk true _ _ _
  try dsimp only
  repeat' first
    | (with_reducible exact Walk.refl)
    | (with_reducible apply Walk.ite)
    | (with_reducible refine Walk.update ?_ ?_ ?_ ?_ ?_ ?_ ?_ ?_ ?_ ?_ ?_ ?_ ?_ ?_ ?_ ?_ ?_ ?_ ?_ ?_ ?_ ?_ ?_ ?_ ?_ ?_ ?_ rfl rfl)
    | (exact .inl rfl)
    | (exact .inr rfl)
    | (show covers _ _ = true; rfl)
    | (split)

end Sys2Proof.Machine
end

