-- ==== Sys2Proof/Laws/KeepsCfgSpace.lean ====
section
/-! SUPPORT. What each operation of CfgSpace can change, and that it keeps the canonical forms. -/
set_option Elab.async false
namespace Sys2Proof.Machine

theorem State.cfgWrite_keeps {x1 x2 x3 s} : Keeps [.out, .hbr] s (@State.cfgWrite x1 x2 x3 s) := by
  unfold State.cfgWrite
  show Walk true _ _ _
  try dsimp only
  repeat' first
    | (with_reducible exact Walk.refl)
    | (with_reducible apply Walk.step (k := State.sendPending_keeps))
    | (with_reducible apply Walk.step (k := State.setFunc_keeps))
    | (with_reducible apply Walk.ite)
    | (split)
    | (with_reducible refine Walk.update ?_ ?_ ?_ ?_ ?_ ?_ ?_ ?_ ?_ ?_ ?_ ?_ ?_ ?_ ?_ ?_ ?_ ?_ ?_ ?_ ?_ ?_ ?_ ?_ ?_ ?_ ?_ rfl rfl)
    | (exact .inl rfl)
    | (exact .inr rfl)
    | (show covers _ _ = true; rfl)

theorem State.cfgWrites_keeps {x1 x2 x3 s} : Keeps [.out, .hbr] s (@State.cfgWrites x1 x2 x3 s) := by
  induction x2 generalizing x3 s with
  | nil => exact Keeps.refl
  | cons w l ih =>
    unfold State.cfgWrites
    exact Keeps.trans State.cfgWrite_keeps ih

end Sys2Proof.Machine
end

