-- ==== Sys2Proof/Laws/KeepsCod.lean ====
section
/-! SUPPORT. What each operation of Cod can change, and that it keeps the canonical forms. -/
set_option Elab.async false
namespace Sys2Proof.Machine

theorem execCodCloseTimer_keeps {x1 x2 s t} (h : @execCodCloseTimer x1 x2 s = .next t) : Keeps [.regs, .cod, .win 9] s t := by
  unfold execCodCloseTimer at h
  have e := Host.Outcome.next.inj h
  subst e
  clear h
  show Walk true _ _ _
  try dsimp only
  repeat' first
    | (with_reducible exact Walk.refl)
    | (with_reducible apply Walk.step (k := State.decideClose_keeps))
    | (with_reducible apply Walk.ite)
    | (split)
    | (show covers _ _ = true; rfl)

theorem execCodQcommit_keeps {s t} (h : @execCodQcommit s = .next t) : Keeps [.regs, .cod, .win 9] s t := by
  unfold execCodQcommit at h
  have e := Host.Outcome.next.inj h
  subst e
  clear h
  show Walk true _ _ _
  try dsimp only
  repeat' first
    | (with_reducible exact Walk.refl)
    | (with_reducible apply Walk.step (k := State.codWatch_keeps))
    | (with_reducible apply Walk.step (k := State.decideClose_keeps))
    | (with_reducible apply Walk.step (k := State.setCod_keeps))
    | (with_reducible apply Walk.foldl)
    | (with_reducible apply Walk.foldl1)
    | (with_reducible apply Walk.foldl2)
    | (intro _)
    | (with_reducible assumption)
    | (with_reducible refine Walk.update ?_ ?_ ?_ ?_ ?_ ?_ ?_ ?_ ?_ ?_ ?_ ?_ ?_ ?_ ?_ ?_ ?_ ?_ ?_ ?_ ?_ ?_ ?_ ?_ ?_ ?_ ?_ rfl rfl)
    | (exact .inl rfl)
    | (exact .inr rfl)
    | (show covers _ _ = true; rfl)
    | (split)

theorem execCodRecordCode_keeps {s t} (h : @execCodRecordCode s = .next t) : Keeps [.regs, .out, .hbr, .ing, .cod, .los, .par, .win 1, .win 8, .win 9, .win 20] s t := by
  unfold execCodRecordCode at h
  have e := Host.Outcome.next.inj h
  subst e
  clear h
  show Walk true _ _ _
  repeat' first
    | (with_reducible exact Walk.refl)
    | (with_reducible apply Walk.step (k := State.codeHead_keeps))
    | (show covers _ _ = true; rfl)

theorem execCodFlush_keeps {x1 s t} (h : @execCodFlush x1 s = .next t) : Keeps [.regs, .cod, .win 9] s t := by
  unfold execCodFlush at h
  have e := Host.Outcome.next.inj h
  subst e
  clear h
  show Walk true _ _ _
  try dsimp only
  repeat' first
    | (with_reducible exact Walk.refl)
    | (with_reducible apply Walk.step (k := State.codWatch_keeps))
    | (with_reducible apply Walk.step (k := State.decideClose_keeps))
    | (with_reducible apply Walk.foldl)
    | (with_reducible apply Walk.foldl1)
    | (with_reducible apply Walk.foldl2)
    | (intro _)
    | (with_reducible assumption)
    | (show covers _ _ = true; rfl)
    | (split)

theorem execCodCloseResume_keeps {s t} (h : @execCodCloseResume s = .next t) : Keeps [.regs, .cod, .win 9] s t := by
  unfold execCodCloseResume at h
  have e := Host.Outcome.next.inj h
  subst e
  clear h
  show Walk true _ _ _
  try dsimp only
  repeat' first
    | (with_reducible exact Walk.refl)
    | (with_reducible apply Walk.step (k := State.closeNow_keeps))
    | (with_reducible apply Walk.step (k := State.setCod_keeps))
    | (with_reducible apply Walk.ite)
    | (split)
    | (with_reducible refine Walk.update ?_ ?_ ?_ ?_ ?_ ?_ ?_ ?_ ?_ ?_ ?_ ?_ ?_ ?_ ?_ ?_ ?_ ?_ ?_ ?_ ?_ ?_ ?_ ?_ ?_ ?_ ?_ rfl rfl)
    | (exact .inl rfl)
    | (exact .inr rfl)
    | (show covers _ _ = true; rfl)

end Sys2Proof.Machine
end

