-- ==== Sys2Proof/Laws/KeepsFab.lean ====
section
/-! SUPPORT. What each operation of Fab can change, and that it keeps the canonical forms. -/
set_option Elab.async false
namespace Sys2Proof.Machine

theorem State.countGrant_keeps {x1 x2 x3 s} : Keeps [.regs, .win 19] s (@State.countGrant x1 x2 x3 s) := by
  unfold State.countGrant
  show Walk true _ _ _
  try dsimp only
  repeat' first
    | (with_reducible exact Walk.refl)
    | (with_reducible apply Walk.step (k := State.bumpI_keeps))
    | (with_reducible apply Walk.step (k := State.setRegI_keeps))
    | (with_reducible apply Walk.ite)
    | (show covers _ _ = true; rfl)
    | (split)

theorem State.setTarget_keeps {x1 x2 s} : Keeps [.fab] s (@State.setTarget x1 x2 s) := by
  unfold State.setTarget
  show Walk true _ _ _
  repeat' first
    | (with_reducible exact Walk.refl)
    | (with_reducible refine Walk.update ?_ ?_ ?_ ?_ ?_ ?_ ?_ ?_ ?_ ?_ ?_ ?_ ?_ ?_ ?_ ?_ ?_ ?_ ?_ ?_ ?_ ?_ ?_ ?_ ?_ ?_ ?_ rfl rfl)
    | (exact .inl rfl)
    | (exact .inr rfl)

theorem State.grantNext_keeps {x1 s} : Keeps [.regs, .fab, .win 19] s (@State.grantNext x1 s) := by
  unfold State.grantNext
  show Walk true _ _ _
  try dsimp only
  repeat' first
    | (with_reducible exact Walk.refl)
    | (with_reducible apply Walk.step (k := State.countGrant_keeps))
    | (with_reducible apply Walk.step (k := State.setTarget_keeps))
    | (show covers _ _ = true; rfl)
    | (split)

theorem State.endBurst_keeps {x1 s} : Keeps [.regs, .fab, .win 19] s (@State.endBurst x1 s) := by
  unfold State.endBurst
  show Walk true _ _ _
  repeat' first
    | (with_reducible exact Walk.refl)
    | (with_reducible apply Walk.step (k := State.grantNext_keeps))
    | (with_reducible apply Walk.step (k := State.setTarget_keeps))
    | (show covers _ _ = true; rfl)

theorem State.quietTarget_keeps {x1 x2 s} : Keeps [.regs, .fab, .win 19] s (@State.quietTarget x1 x2 s) := by
  unfold State.quietTarget
  show Walk true _ _ _
  try dsimp only
  repeat' first
    | (with_reducible exact Walk.refl)
    | (with_reducible apply Walk.step (k := State.setTarget_keeps))
    | (with_reducible apply Walk.step (k := State.endBurst_keeps))
    | (with_reducible apply Walk.step (k := State.bumpI_keeps))
    | (show covers _ _ = true; rfl)
    | (split)

theorem execQuietFall_keeps {x1 s t} (h : @execQuietFall x1 s = .next t) : Keeps [.fab] s t := by
  unfold execQuietFall at h
  have e := Host.Outcome.next.inj h
  subst e
  clear h
  show Walk true _ _ _
  repeat' first
    | (with_reducible exact Walk.refl)
    | (with_reducible refine Walk.update ?_ ?_ ?_ ?_ ?_ ?_ ?_ ?_ ?_ ?_ ?_ ?_ ?_ ?_ ?_ ?_ ?_ ?_ ?_ ?_ ?_ ?_ ?_ ?_ ?_ ?_ ?_ rfl rfl)
    | (exact .inl rfl)
    | (exact .inr rfl)

theorem State.quietRise_keeps {x1 s} : Keeps [.regs, .fab, .win 19] s (@State.quietRise x1 s) := by
  unfold State.quietRise
  show Walk true _ _ _
  repeat' first
    | (with_reducible exact Walk.refl)
    | (with_reducible apply Walk.step (k := State.quietTarget_keeps))
    | (with_reducible apply Walk.foldl)
    | (intro _)
    | (with_reducible refine Walk.update ?_ ?_ ?_ ?_ ?_ ?_ ?_ ?_ ?_ ?_ ?_ ?_ ?_ ?_ ?_ ?_ ?_ ?_ ?_ ?_ ?_ ?_ ?_ ?_ ?_ ?_ ?_ rfl rfl)
    | (exact .inl rfl)
    | (exact .inr rfl)
    | (show covers _ _ = true; rfl)

theorem execQuietRise_keeps {x1 s t} (h : @execQuietRise x1 s = .next t) : Keeps [.regs, .fab, .win 19] s t := by
  unfold execQuietRise at h
  have e := Host.Outcome.next.inj h
  subst e
  clear h
  show Walk true _ _ _
  repeat' first
    | (with_reducible exact Walk.refl)
    | (with_reducible apply Walk.step (k := State.quietRise_keeps))
    | (show covers _ _ = true; rfl)
    | (split)

theorem execFabBurstEnd_keeps {x1 s t} (h : @execFabBurstEnd x1 s = .next t) : Keeps [.regs, .fab, .win 19] s t := by
  unfold execFabBurstEnd at h
  have e := Host.Outcome.next.inj h
  subst e
  clear h
  show Walk true _ _ _
  repeat' first
    | (with_reducible exact Walk.refl)
    | (with_reducible apply Walk.step (k := State.endBurst_keeps))
    | (show covers _ _ = true; rfl)
    | (split)

theorem execFabBurstRequest_keeps {x1 x2 x3 x4 s t} (h : @execFabBurstRequest x1 x2 x3 x4 s = .next t) : Keeps [.regs, .fab, .win 19] s t := by
  unfold execFabBurstRequest at h
  have e := Host.Outcome.next.inj h
  subst e
  clear h
  show Walk true _ _ _
  try dsimp only
  repeat' first
    | (with_reducible exact Walk.refl)
    | (with_reducible apply Walk.step (k := State.grantNext_keeps))
    | (with_reducible apply Walk.step (k := State.setTarget_keeps))
    | (with_reducible apply Walk.ite)
    | (with_reducible refine Walk.update ?_ ?_ ?_ ?_ ?_ ?_ ?_ ?_ ?_ ?_ ?_ ?_ ?_ ?_ ?_ ?_ ?_ ?_ ?_ ?_ ?_ ?_ ?_ ?_ ?_ ?_ ?_ rfl rfl)
    | (exact .inl rfl)
    | (exact .inr rfl)
    | (show covers _ _ = true; rfl)
    | (split)

end Sys2Proof.Machine
end

