-- ==== Sys2Proof/Laws/KeepsDom.lean ====
section
/-! SUPPORT. What each operation of Dom can change, and that it keeps the canonical forms. -/
set_option Elab.async false
namespace Sys2Proof.Machine

theorem State.setDom_keeps {x1 x2 s} : Keeps [.pwr] s (@State.setDom x1 x2 s) := by
  unfold State.setDom
  show Walk true _ _ _
  repeat' first
    | (with_reducible exact Walk.refl)
    | (with_reducible refine Walk.update ?_ ?_ ?_ ?_ ?_ ?_ ?_ ?_ ?_ ?_ ?_ ?_ ?_ ?_ ?_ ?_ ?_ ?_ ?_ ?_ ?_ ?_ ?_ ?_ ?_ ?_ ?_ rfl rfl)
    | (exact .inl rfl)
    | (exact .inr rfl)

theorem State.domUp_keeps {x1 s} : Keeps [.fab, .pwr] s (@State.domUp x1 s) := by
  unfold State.domUp
  show Walk true _ _ _
  try dsimp only
  repeat' first
    | (with_reducible exact Walk.refl)
    | (with_reducible apply Walk.step (k := State.setDom_keeps))
    | (with_reducible refine Walk.update ?_ ?_ ?_ ?_ ?_ ?_ ?_ ?_ ?_ ?_ ?_ ?_ ?_ ?_ ?_ ?_ ?_ ?_ ?_ ?_ ?_ ?_ ?_ ?_ ?_ ?_ ?_ rfl rfl)
    | (exact .inl rfl)
    | (exact .inr rfl)
    | (show covers _ _ = true; rfl)
    | (split)

theorem State.domDown_keeps {x1 s} : Keeps [.pwr] s (@State.domDown x1 s) := by
  unfold State.domDown
  show Walk true _ _ _
  repeat' first
    | (with_reducible exact Walk.refl)
    | (with_reducible apply Walk.step (k := State.setDom_keeps))
    | (show covers _ _ = true; rfl)

theorem State.domQuiet_keeps {x1 s} : Keeps [.regs, .fab, .win 19] s (@State.domQuiet x1 s) := by
  unfold State.domQuiet
  show Walk true _ _ _
  try dsimp only
  repeat' first
    | (with_reducible exact Walk.refl)
    | (with_reducible apply Walk.step (k := State.quietRise_keeps))
    | (with_reducible apply Walk.foldl)
    | (with_reducible apply Walk.foldl1)
    | (with_reducible apply Walk.foldl2)
    | (intro _)
    | (with_reducible assumption)
    | (show covers _ _ = true; rfl)
    | (split)

theorem State.switchOff_keeps {x1 s} : Keeps [.regs, .fab, .pwr, .win 3, .win 19] s (@State.switchOff x1 s) := by
  unfold State.switchOff
  show Walk true _ _ _
  try dsimp only
  repeat' first
    | (with_reducible exact Walk.refl)
    | (with_reducible apply Walk.step (k := State.bump_keeps))
    | (with_reducible apply Walk.step (k := State.domDown_keeps))
    | (with_reducible apply Walk.step (k := State.domQuiet_keeps))
    | (with_reducible apply Walk.ite)
    | (show covers _ _ = true; rfl)
    | (split)

theorem State.rampOne_keeps {x1 s} : Keeps [.pwr] s (@State.rampOne x1 s) := by
  unfold State.rampOne
  show Walk true _ _ _
  repeat' first
    | (with_reducible exact Walk.refl)
    | (with_reducible apply Walk.step (k := State.setDom_keeps))
    | (show covers _ _ = true; rfl)
    | (split)

theorem State.domRamp_keeps {x1 s} : Keeps [.pwr] s (@State.domRamp x1 s) := by
  unfold State.domRamp
  show Walk true _ _ _
  repeat' first
    | (with_reducible exact Walk.refl)
    | (with_reducible apply Walk.step (k := State.rampOne_keeps))
    | (with_reducible apply Walk.foldl)
    | (intro _)
    | (show covers _ _ = true; rfl)

end Sys2Proof.Machine
end

