-- ==== Sys2Proof/Laws/KeepsEvr.lean ====
section
/-! SUPPORT. What each operation of Evr can change, and that it keeps the canonical forms. -/
set_option Elab.async false
namespace Sys2Proof.Machine

theorem State.flushRecorder_keeps {x1 s} : Keeps [.evr] s (@State.flushRecorder x1 s) := by
  unfold State.flushRecorder
  show Walk true _ _ _
  repeat' first
    | (with_reducible exact Walk.refl)
    | (with_reducible apply Walk.step (k := State.setRecorder_keeps))
    | (show covers _ _ = true; rfl)

theorem State.offerAll_keeps {x1 x2 s} : Keeps [.regs, .evr, .win 21] s (@State.offerAll x1 x2 s) := by
  unfold State.offerAll
  show Walk true _ _ _
  try dsimp only
  repeat' first
    | (with_reducible exact Walk.refl)
    | (with_reducible apply Walk.step (k := State.bumpI_keeps))
    | (with_reducible apply Walk.step (k := State.setRecorder_keeps))
    | (with_reducible apply Walk.ite)
    | (with_reducible apply Walk.foldl)
    | (with_reducible apply Walk.foldl1)
    | (with_reducible apply Walk.foldl2)
    | (intro _)
    | (with_reducible assumption)
    | (show covers _ _ = true; rfl)
    | (split)

theorem State.endExtremes_keeps {x1 s} : Keeps [.regs, .evr, .win 21] s (@State.endExtremes x1 s) := by
  unfold State.endExtremes
  show Walk true _ _ _
  repeat' first
    | (with_reducible exact Walk.refl)
    | (with_reducible apply Walk.step (k := State.offerAll_keeps))
    | (with_reducible apply Walk.step (k := State.setRecorder_keeps))
    | (show covers _ _ = true; rfl)

theorem State.endHists_keeps {x1 s} : Keeps [.regs, .evr, .win 21] s (@State.endHists x1 s) := by
  unfold State.endHists
  show Walk true _ _ _
  repeat' first
    | (with_reducible exact Walk.refl)
    | (with_reducible apply Walk.step (k := State.offerAll_keeps))
    | (with_reducible apply Walk.step (k := State.setRecorder_keeps))
    | (show covers _ _ = true; rfl)

theorem execEvrHistPeriodEnd_keeps {x1 x2 s t} (h : @execEvrHistPeriodEnd x1 x2 s = .next t) : Keeps [.regs, .evr, .win 21] s t := by
  unfold execEvrHistPeriodEnd at h
  have e := Host.Outcome.next.inj h
  subst e
  clear h
  show Walk true _ _ _
  try dsimp only
  repeat' first
    | (with_reducible exact Walk.refl)
    | (with_reducible apply Walk.step (k := State.endExtremes_keeps))
    | (with_reducible apply Walk.step (k := State.endHists_keeps))
    | (with_reducible apply Walk.step (k := State.setRecorder_keeps))
    | (with_reducible apply Walk.ite)
    | (show covers _ _ = true; rfl)
    | (split)

theorem State.setEvView_keeps {x1 x2 s} : Keeps [.evr] s (@State.setEvView x1 x2 s) := by
  unfold State.setEvView
  show Walk true _ _ _
  repeat' first
    | (with_reducible exact Walk.refl)
    | (with_reducible refine Walk.update ?_ ?_ ?_ ?_ ?_ ?_ ?_ ?_ ?_ ?_ ?_ ?_ ?_ ?_ ?_ ?_ ?_ ?_ ?_ ?_ ?_ ?_ ?_ ?_ ?_ ?_ ?_ rfl rfl)
    | (exact .inl rfl)
    | (exact .inr rfl)

theorem execEvrLoadDone_keeps {s t} (h : @execEvrLoadDone s = .next t) : Keeps [.evr] s t := by
  unfold execEvrLoadDone at h
  have e := Host.Outcome.next.inj h
  subst e
  clear h
  show Walk true _ _ _
  try dsimp only
  repeat' first
    | (with_reducible exact Walk.refl)
    | (with_reducible apply Walk.step (k := State.setEvView_keeps))
    | (show covers _ _ = true; rfl)
    | (split)

theorem execEvrConfig_keeps {x1 x2 x3 x4 x5 s t} (h : @execEvrConfig x1 x2 x3 x4 x5 s = .next t) : Keeps [.cmd, .evr, .bil] s t := by
  unfold execEvrConfig at h
  have e := Host.Outcome.next.inj h
  subst e
  clear h
  show Walk true _ _ _
  repeat' first
    | (with_reducible exact Walk.refl)
    | (with_reducible apply Walk.step (k := State.reply_keeps))
    | (with_reducible apply Walk.step (k := State.setRecorder_keeps))
    | (show covers _ _ = true; rfl)
    | (split)

theorem State.evClear_keeps {x1 s} : Keeps [.regs, .evr, .win 21] s (@State.evClear x1 s) := by
  unfold State.evClear
  show Walk true _ _ _
  try dsimp only
  repeat' first
    | (with_reducible exact Walk.refl)
    | (with_reducible apply Walk.step (k := State.setRecorder_keeps))
    | (with_reducible apply Walk.step (k := State.setRegI_keeps))
    | (with_reducible apply Walk.ite)
    | (split)
    | (with_reducible refine Walk.update ?_ ?_ ?_ ?_ ?_ ?_ ?_ ?_ ?_ ?_ ?_ ?_ ?_ ?_ ?_ ?_ ?_ ?_ ?_ ?_ ?_ ?_ ?_ ?_ ?_ ?_ ?_ rfl rfl)
    | (exact .inl rfl)
    | (exact .inr rfl)
    | (show covers _ _ = true; rfl)

theorem execEvrClear_keeps {x1 x2 x3 s t} (h : @execEvrClear x1 x2 x3 s = .next t) : Keeps [.regs, .cmd, .evr, .bil, .win 21] s t := by
  unfold execEvrClear at h
  have e := Host.Outcome.next.inj h
  subst e
  clear h
  show Walk true _ _ _
  repeat' first
    | (with_reducible exact Walk.refl)
    | (with_reducible apply Walk.step (k := State.reply_keeps))
    | (with_reducible apply Walk.step (k := State.evClear_keeps))
    | (with_reducible apply Walk.step (k := State.replyWith_keeps))
    | (show covers _ _ = true; rfl)
    | (split)

theorem State.evLoad_keeps {x1 x2 s} : Keeps [.evr] s (@State.evLoad x1 x2 s) := by
  unfold State.evLoad
  show Walk true _ _ _
  try dsimp only
  repeat' first
    | (with_reducible exact Walk.refl)
    | (with_reducible apply Walk.step (k := State.setEvView_keeps))
    | (show covers _ _ = true; rfl)
    | (split)

theorem execEvrWin15Read_keeps {s t} (h : @execEvrWin15Read s = .next t) : Keeps [.out, .evr] s t := by
  unfold execEvrWin15Read at h
  have e := Host.Outcome.next.inj h
  subst e
  clear h
  show Walk true _ _ _
  try dsimp only
  repeat' first
    | (with_reducible exact Walk.refl)
    | (with_reducible apply Walk.step (k := State.emit_keeps))
    | (with_reducible apply Walk.step (k := State.evLoad_keeps))
    | (with_reducible apply Walk.step (k := State.setEvView_keeps))
    | (with_reducible apply Walk.ite)
    | (with_reducible refine Walk.update ?_ ?_ ?_ ?_ ?_ ?_ ?_ ?_ ?_ ?_ ?_ ?_ ?_ ?_ ?_ ?_ ?_ ?_ ?_ ?_ ?_ ?_ ?_ ?_ ?_ ?_ ?_ rfl rfl)
    | (exact .inl rfl)
    | (exact .inr rfl)
    | (show covers _ _ = true; rfl)
    | (split)

theorem execEvrExtremesSample_keeps {x1 x2 x3 s t} (h : @execEvrExtremesSample x1 x2 x3 s = .next t) : Keeps [.evr] s t := by
  unfold execEvrExtremesSample at h
  have e := Host.Outcome.next.inj h
  subst e
  clear h
  show Walk true _ _ _
  repeat' first
    | (with_reducible exact Walk.refl)
    | (with_reducible apply Walk.step (k := State.setRecorder_keeps))
    | (show covers _ _ = true; rfl)

theorem execEvrRecordCommit_keeps {x1 s t} (h : @execEvrRecordCommit x1 s = .next t) : Keeps [.regs, .evr, .win 21] s t := by
  unfold execEvrRecordCommit at h
  have e := Host.Outcome.next.inj h
  subst e
  clear h
  show Walk true _ _ _
  repeat' first
    | (with_reducible exact Walk.refl)
    | (with_reducible apply Walk.step (k := State.setRecorder_keeps))
    | (with_reducible apply Walk.step (k := State.bumpI_keeps))
    | (show covers _ _ = true; rfl)
    | (split)

theorem execEvrRead_keeps {x1 x2 x3 x4 s t} (h : @execEvrRead x1 x2 x3 x4 s = .next t) : Keeps [.out, .cmd, .hbr, .bil] s t := by
  unfold execEvrRead at h
  have e := Host.Outcome.next.inj h
  subst e
  clear h
  show Walk true _ _ _
  repeat' first
    | (with_reducible exact Walk.refl)
    | (with_reducible apply Walk.step (k := State.reply_keeps))
    | (with_reducible apply Walk.step (k := State.replyWith_keeps))
    | (with_reducible apply Walk.step (k := State.writeData_keeps))
    | (show covers _ _ = true; rfl)
    | (split)

theorem execEvrEvent_keeps {x1 s t} (h : @execEvrEvent x1 s = .next t) : Keeps [.regs, .evr, .win 21] s t := by
  unfold execEvrEvent at h
  have e := Host.Outcome.next.inj h
  subst e
  clear h
  show Walk true _ _ _
  repeat' first
    | (with_reducible exact Walk.refl)
    | (with_reducible apply Walk.step (k := State.logEvent_keeps))
    | (show covers _ _ = true; rfl)
    | (split)

theorem execEvrCursorWrite_keeps {x1 s t} (h : @execEvrCursorWrite x1 s = .next t) : Keeps [.evr] s t := by
  unfold execEvrCursorWrite at h
  have e := Host.Outcome.next.inj h
  subst e
  clear h
  show Walk true _ _ _
  repeat' first
    | (with_reducible exact Walk.refl)
    | (with_reducible apply Walk.step (k := State.evLoad_keeps))
    | (show covers _ _ = true; rfl)

end Sys2Proof.Machine
end

