-- ==== Sys2Proof/Laws/KeepsMetOps.lean ====
section
/-! SUPPORT. What each operation of MetOps can change, and that it keeps the canonical forms. -/
set_option Elab.async false
namespace Sys2Proof.Machine

theorem State.setMet_keeps {x1 s} : Keeps [.met] s (@State.setMet x1 s) := by
  unfold State.setMet
  show Walk true _ _ _
  repeat' first
    | (with_reducible exact Walk.refl)
    | (with_reducible refine Walk.update ?_ ?_ ?_ ?_ ?_ ?_ ?_ ?_ ?_ ?_ ?_ ?_ ?_ ?_ ?_ ?_ ?_ ?_ ?_ ?_ ?_ ?_ ?_ ?_ ?_ ?_ ?_ rfl rfl)
    | (exact .inl rfl)
    | (exact .inr rfl)

theorem State.auditAdd_keeps {x1 x2 x3 x4 x5 x6 x7 s} : Keeps [.regs, .evr, .met, .win 21] s (@State.auditAdd x1 x2 x3 x4 x5 x6 x7 s) := by
  unfold State.auditAdd
  show Walk true _ _ _
  repeat' first
    | (with_reducible exact Walk.refl)
    | (with_reducible apply Walk.step (k := State.setMet_keeps))
    | (with_reducible apply Walk.step (k := State.log_keeps))
    | (show covers _ _ = true; rfl)
    | (split)

theorem State.auditNow_keeps {x1 x2 x3 x4 s} : Keeps [.regs, .evr, .met, .win 21] s (@State.auditNow x1 x2 x3 x4 s) := by
  unfold State.auditNow
  show Walk true _ _ _
  repeat' first
    | (with_reducible exact Walk.refl)
    | (with_reducible apply Walk.step (k := State.auditAdd_keeps))
    | (show covers _ _ = true; rfl)

theorem State.ledLook_keeps {x1 s} : Keeps [.out] s (@State.ledLook x1 s) := by
  unfold State.ledLook
  show Walk true _ _ _
  repeat' first
    | (with_reducible exact Walk.refl)
    | (with_reducible apply Walk.step (k := State.emit_keeps))
    | (show covers _ _ = true; rfl)
    | (split)

theorem State.abortBil_keeps {s} : Keeps [.cmd, .bil] s (@State.abortBil s) := by
  unfold State.abortBil
  show Walk true _ _ _
  try dsimp only
  repeat' first
    | (with_reducible exact Walk.refl)
    | (with_reducible apply Walk.step (k := State.reply_keeps))
    | (exact .inl rfl)
    | (exact .inr rfl)
    | (show covers _ _ = true; rfl)
    | (split)
    | (with_reducible refine Walk.update ?_ ?_ ?_ ?_ ?_ ?_ ?_ ?_ ?_ ?_ ?_ ?_ ?_ ?_ ?_ ?_ ?_ ?_ ?_ ?_ ?_ ?_ ?_ ?_ ?_ ?_ ?_ rfl rfl)

theorem State.sealEvent_keeps {x1 x2 x3 x4 s} : Keeps [.regs, .evr, .met, .win 21] s (@State.sealEvent x1 x2 x3 x4 s) := by
  unfold State.sealEvent
  show Walk true _ _ _
  repeat' first
    | (with_reducible exact Walk.refl)
    | (with_reducible apply Walk.step (k := State.auditAdd_keeps))
    | (with_reducible apply Walk.step (k := State.setMet_keeps))
    | (show covers _ _ = true; rfl)

theorem State.secondBegins_keeps {x1 x2 x3 s} : Keeps [.out, .seam, .met] s (@State.secondBegins x1 x2 x3 s) := by
  unfold State.secondBegins
  show Walk true _ _ _
  try dsimp only
  repeat' first
    | (with_reducible exact Walk.refl)
    | (with_reducible apply Walk.step (k := State.seamPut_keeps))
    | (with_reducible apply Walk.step (k := State.setMet_keeps))
    | (with_reducible apply Walk.ite)
    | (with_reducible refine Walk.update ?_ ?_ ?_ ?_ ?_ ?_ ?_ ?_ ?_ ?_ ?_ ?_ ?_ ?_ ?_ ?_ ?_ ?_ ?_ ?_ ?_ ?_ ?_ ?_ ?_ ?_ ?_ rfl rfl)
    | (exact .inl rfl)
    | (exact .inr rfl)
    | (show covers _ _ = true; rfl)
    | (split)

theorem State.sliceLook_keeps {s} : Keeps [.out, .seam, .met] s (@State.sliceLook s) := by
  unfold State.sliceLook
  show Walk true _ _ _
  repeat' first
    | (with_reducible exact Walk.refl)
    | (with_reducible apply Walk.step (k := State.secondBegins_keeps))
    | (show covers _ _ = true; rfl)
    | (split)

theorem State.accumulate_keeps {x1 s} : Keeps [.met] s (@State.accumulate x1 s) := by
  unfold State.accumulate
  show Walk true _ _ _
  try dsimp only
  repeat' first
    | (with_reducible exact Walk.refl)
    | (with_reducible apply Walk.step (k := State.setMet_keeps))
    | (with_reducible apply Walk.ite)
    | (with_reducible apply Walk.foldl)
    | (with_reducible apply Walk.foldl1)
    | (with_reducible apply Walk.foldl2)
    | (intro _)
    | (with_reducible assumption)
    | (with_reducible refine Walk.update ?_ ?_ ?_ ?_ ?_ ?_ ?_ ?_ ?_ ?_ ?_ ?_ ?_ ?_ ?_ ?_ ?_ ?_ ?_ ?_ ?_ ?_ ?_ ?_ ?_ ?_ ?_ rfl rfl)
    | (exact .inl rfl)
    | (exact .inr rfl)
    | (show covers _ _ = true; rfl)
    | (split)

theorem State.crossing_keeps {x1 x2 s} : Keeps [.regs, .out, .seam, .met, .win 12] s (@State.crossing x1 x2 s) := by
  unfold State.crossing
  show Walk true _ _ _
  try dsimp only
  repeat' first
    | (with_reducible exact Walk.refl)
    | (with_reducible apply Walk.step (k := State.bump_keeps))
    | (with_reducible apply Walk.step (k := State.seamPut_keeps))
    | (with_reducible apply Walk.step (k := State.setMet_keeps))
    | (with_reducible apply Walk.ite)
    | (split)
    | (with_reducible refine Walk.update ?_ ?_ ?_ ?_ ?_ ?_ ?_ ?_ ?_ ?_ ?_ ?_ ?_ ?_ ?_ ?_ ?_ ?_ ?_ ?_ ?_ ?_ ?_ ?_ ?_ ?_ ?_ rfl rfl)
    | (exact .inl rfl)
    | (exact .inr rfl)
    | (show covers _ _ = true; rfl)

theorem State.pulseLook_keeps {s} : Keeps [.out, .met] s (@State.pulseLook s) := by
  unfold State.pulseLook
  show Walk true _ _ _
  try dsimp only
  repeat' first
    | (with_reducible exact Walk.refl)
    | (with_reducible apply Walk.step (k := State.emit_keeps))
    | (with_reducible apply Walk.step (k := State.setMet_keeps))
    | (with_reducible apply Walk.ite)
    | (with_reducible refine Walk.update ?_ ?_ ?_ ?_ ?_ ?_ ?_ ?_ ?_ ?_ ?_ ?_ ?_ ?_ ?_ ?_ ?_ ?_ ?_ ?_ ?_ ?_ ?_ ?_ ?_ ?_ ?_ rfl rfl)
    | (exact .inl rfl)
    | (exact .inr rfl)
    | (show covers _ _ = true; rfl)
    | (split)

theorem State.metSample_keeps {x1 x2 s} : Keeps [.regs, .out, .freeCtr, .seam, .met, .win 12] s (@State.metSample x1 x2 s) := by
  unfold State.metSample
  show Walk true _ _ _
  try dsimp only
  repeat' first
    | (with_reducible exact Walk.refl)
    | (with_reducible apply Walk.step (k := State.accumulate_keeps))
    | (with_reducible apply Walk.step (k := State.crossing_keeps))
    | (with_reducible apply Walk.step (k := State.pulseLook_keeps))
    | (with_reducible apply Walk.step (k := State.seamDrain_keeps))
    | (with_reducible apply Walk.step (k := State.setMet_keeps))
    | (with_reducible apply Walk.step (k := State.sliceLook_keeps))
    | (with_reducible apply Walk.foldl)
    | (with_reducible apply Walk.foldl1)
    | (with_reducible apply Walk.foldl2)
    | (intro _)
    | (with_reducible assumption)
    | (with_reducible refine Walk.update ?_ ?_ ?_ ?_ ?_ ?_ ?_ ?_ ?_ ?_ ?_ ?_ ?_ ?_ ?_ ?_ ?_ ?_ ?_ ?_ ?_ ?_ ?_ ?_ ?_ ?_ ?_ rfl rfl)
    | (exact .inl rfl)
    | (exact .inr rfl)
    | (show covers _ _ = true; rfl)
    | (split)

theorem State.tamperStep_keeps {x1 x2 s} : Keeps [.met] s (@State.tamperStep x1 x2 s).1 := by
  unfold State.tamperStep
  show Walk true _ _ _
  repeat' first
    | (with_reducible exact Walk.refl)
    | (with_reducible apply Walk.step (k := State.setMet_keeps))
    | (show covers _ _ = true; rfl)
    | (split)
theorem State.tamperStep_keeps_of {x1 x2 s a1 t} (h : @State.tamperStep x1 x2 s = (t, a1)) : Keeps [.met] s t := by
  have := @State.tamperStep_keeps x1 x2 s
  rw [h] at this
  exact this

theorem State.abortStore_keeps {s} : Keeps [.regs, .cmd, .evr, .met, .bil, .win 12, .win 21] s (@State.abortStore s) := by
  unfold State.abortStore
  show Walk true _ _ _
  repeat' first
    | (with_reducible exact Walk.refl)
    | (with_reducible apply Walk.step (k := State.setMet_keeps))
    | (with_reducible apply Walk.step (k := State.auditNow_keeps))
    | (with_reducible apply Walk.step (k := State.reply_keeps))
    | (with_reducible apply Walk.step (k := State.bump_keeps))
    | (show covers _ _ = true; rfl)
    | (split)

theorem State.beginHold_keeps {s} : Keeps [.regs, .out, .dev, .hbr, .kvt, .win 0, .win 1] s (@State.beginHold s) := by
  unfold State.beginHold
  show Walk true _ _ _
  repeat' first
    | (with_reducible exact Walk.refl)
    | (with_reducible apply Walk.step (k := State.kvtNotice_keeps))
    | (with_reducible apply Walk.step (k := State.holdCause_keeps))
    | (with_reducible apply Walk.ite)
    | (with_reducible refine Walk.update ?_ ?_ ?_ ?_ ?_ ?_ ?_ ?_ ?_ ?_ ?_ ?_ ?_ ?_ ?_ ?_ ?_ ?_ ?_ ?_ ?_ ?_ ?_ ?_ ?_ ?_ ?_ rfl rfl)
    | (exact .inl rfl)
    | (exact .inr rfl)
    | (show covers _ _ = true; rfl)

theorem State.alarmCut_keeps {s} : Keeps [.regs, .out, .seam, .cmd, .evr, .plc, .rfx, .msh, .bil, .win 4, .win 5, .win 21] s (@State.alarmCut s) := by
  unfold State.alarmCut
  show Walk true _ _ _
  try dsimp only
  repeat' first
    | (with_reducible exact Walk.refl)
    | (with_reducible apply Walk.step (k := State.truncateFrames_keeps))
    | (with_reducible refine Walk.update ?_ ?_ ?_ ?_ ?_ ?_ ?_ ?_ ?_ ?_ ?_ ?_ ?_ ?_ ?_ ?_ ?_ ?_ ?_ ?_ ?_ ?_ ?_ ?_ ?_ ?_ ?_ rfl rfl)
    | (exact .inl rfl)
    | (exact .inr rfl)
    | (show covers _ _ = true; rfl)
    | (split)

theorem State.tamperAlarm_keeps {x1 s} : Keeps [.regs, .out, .dev, .seam, .cmd, .hbr, .evr, .kvt, .plc, .rfx, .msh, .met, .bil, .win 0, .win 1, .win 4, .win 5, .win 12, .win 14, .win 21] s (@State.tamperAlarm x1 s) := by
  unfold State.tamperAlarm
  show Walk true _ _ _
  try dsimp only
  repeat' first
    | (with_reducible exact Walk.refl)
    | (with_reducible apply Walk.step (k := State.abortBil_keeps))
    | (with_reducible apply Walk.step (k := State.abortKeyOps_keeps))
    | (with_reducible apply Walk.step (k := State.abortStore_keeps))
    | (with_reducible apply Walk.step (k := State.alarmCut_keeps))
    | (with_reducible apply Walk.step (k := State.auditNow_keeps))
    | (with_reducible apply Walk.step (k := State.beginHold_keeps))
    | (with_reducible apply Walk.step (k := State.ledLook_keeps))
    | (with_reducible apply Walk.step (k := State.setMet_keeps))
    | (with_reducible apply Walk.ite)
    | (with_reducible refine Walk.update ?_ ?_ ?_ ?_ ?_ ?_ ?_ ?_ ?_ ?_ ?_ ?_ ?_ ?_ ?_ ?_ ?_ ?_ ?_ ?_ ?_ ?_ ?_ ?_ ?_ ?_ ?_ rfl rfl)
    | (exact .inl rfl)
    | (exact .inr rfl)
    | (show covers _ _ = true; rfl)
    | (split)

theorem State.tamperSample_keeps {x1 s} : Keeps [.regs, .out, .dev, .seam, .cmd, .hbr, .evr, .kvt, .plc, .rfx, .msh, .met, .bil, .win 0, .win 1, .win 4, .win 5, .win 12, .win 14, .win 21] s (@State.tamperSample x1 s) := by
  unfold State.tamperSample
  show Walk true _ _ _
  repeat' first
    | (with_reducible exact Walk.refl)
    | (with_reducible refine Walk.step ?_ (State.tamperStep_keeps_of (by assumption)) ?_)
    | (with_reducible apply Walk.step (k := State.tamperStep_keeps))
    | (with_reducible apply Walk.step (k := State.tamperAlarm_keeps))
    | (with_reducible apply Walk.step (k := State.setMet_keeps))
    | (with_reducible apply Walk.foldl)
    | (intro _)
    | (with_reducible refine Walk.update ?_ ?_ ?_ ?_ ?_ ?_ ?_ ?_ ?_ ?_ ?_ ?_ ?_ ?_ ?_ ?_ ?_ ?_ ?_ ?_ ?_ ?_ ?_ ?_ ?_ ?_ ?_ rfl rfl)
    | (exact .inl rfl)
    | (exact .inr rfl)
    | (show covers _ _ = true; rfl)
    | (split)

end Sys2Proof.Machine
end

