-- ==== Sys2Proof/Laws/KeepsFse.lean ====
section
/-! SUPPORT. What each operation of Fse can change, and that it keeps the canonical forms. -/
set_option Elab.async false
namespace Sys2Proof.Machine

theorem State.enterIntake_keeps {x1 s} : Keeps [.regs, .out, .evr, .kvt, .ing, .fse, .par, .win 7, .win 14, .win 18, .win 21] s (@State.enterIntake x1 s) := by
  unfold State.enterIntake
  show Walk true _ _ _
  repeat' first
    | (with_reducible exact Walk.refl)
    | (with_reducible refine Walk.step ?_ (State.fseLookup_keeps_of (by assumption)) ?_)
    | (with_reducible apply Walk.step (k := State.fseLookup_keeps))
    | (with_reducible apply Walk.step (k := State.setFse_keeps))
    | (with_reducible apply Walk.step (k := State.bump_keeps))
    | (with_reducible apply Walk.step (k := State.emit_keeps))
    | (with_reducible apply Walk.ite)
    | (with_reducible refine Walk.update ?_ ?_ ?_ ?_ ?_ ?_ ?_ ?_ ?_ ?_ ?_ ?_ ?_ ?_ ?_ ?_ ?_ ?_ ?_ ?_ ?_ ?_ ?_ ?_ ?_ ?_ ?_ rfl rfl)
    | (exact .inl rfl)
    | (exact .inr rfl)
    | (show covers _ _ = true; rfl)

theorem State.intakeFrame_keeps {x1 s} : Keeps [.regs, .out, .hbr, .evr, .kvt, .ing, .fse, .par, .wins] s (@State.intakeFrame x1 s) := by
  unfold State.intakeFrame State.ifWhole
  show Walk true _ _ _
  try dsimp only
  repeat' first
    | (with_reducible exact Walk.refl)
    | (with_reducible apply Walk.step (k := State.bump_keeps))
    | (with_reducible apply Walk.step (k := State.enterIntake_keeps))
    | (with_reducible apply Walk.step (k := State.gateNotices_keeps))
    | (with_reducible apply Walk.step (k := State.mshDiscard_keeps))
    | (with_reducible apply Walk.step (k := State.takeAllowance_keeps))
    | (with_reducible apply Walk.step (k := id_keeps))
    | (with_reducible apply Walk.ite)
    | (with_reducible refine Walk.update ?_ ?_ ?_ ?_ ?_ ?_ ?_ ?_ ?_ ?_ ?_ ?_ ?_ ?_ ?_ ?_ ?_ ?_ ?_ ?_ ?_ ?_ ?_ ?_ ?_ ?_ ?_ rfl rfl)
    | (exact .inl rfl)
    | (exact .inr rfl)
    | (show covers _ _ = true; rfl)
    | (split)

theorem State.sealPlc_keeps {x1 x2 x3 s} : Keeps [.regs, .plc, .win 7] s (@State.sealPlc x1 x2 x3 s) := by
  unfold State.sealPlc
  show Walk true _ _ _
  repeat' first
    | (with_reducible exact Walk.refl)
    | (with_reducible apply Walk.step (k := State.setPlc_keeps))
    | (with_reducible apply Walk.step (k := State.bump_keeps))
    | (with_reducible apply Walk.step (k := State.modSend_keeps))
    | (show covers _ _ = true; rfl)

theorem State.sealMsh_keeps {x1 x2 x3 s} : Keeps [.regs, .out, .cmd, .hbr, .evr, .tim, .kvt, .ing, .msh, .bil, .par, .win 1, .win 7, .win 14, .win 18, .win 21] s (@State.sealMsh x1 x2 x3 s) := by
  unfold State.sealMsh
  show Walk true _ _ _
  try dsimp only
  repeat' first
    | (with_reducible exact Walk.refl)
    | (with_reducible apply Walk.step (k := State.bump_keeps))
    | (with_reducible apply Walk.step (k := State.modMsh_keeps))
    | (with_reducible apply Walk.step (k := State.sendTunnel_keeps))
    | (with_reducible refine Walk.update ?_ ?_ ?_ ?_ ?_ ?_ ?_ ?_ ?_ ?_ ?_ ?_ ?_ ?_ ?_ ?_ ?_ ?_ ?_ ?_ ?_ ?_ ?_ ?_ ?_ ?_ ?_ rfl rfl)
    | (exact .inl rfl)
    | (exact .inr rfl)
    | (show covers _ _ = true; rfl)
    | (split)

theorem State.sealSend_keeps {x1 x2 x3 x4 s} : Keeps [.regs, .out, .cmd, .hbr, .evr, .tim, .kvt, .ing, .plc, .msh, .bil, .par, .win 1, .win 7, .win 14, .win 18, .win 21] s (@State.sealSend x1 x2 x3 x4 s) := by
  unfold State.sealSend
  show Walk true _ _ _
  repeat' first
    | (with_reducible exact Walk.refl)
    | (with_reducible apply Walk.step (k := State.sealPlc_keeps))
    | (with_reducible apply Walk.step (k := State.sealMsh_keeps))
    | (show covers _ _ = true; rfl)
    | (split)

theorem State.sealFails_keeps {x1 x2 x3 s} : Keeps [.regs, .out, .cmd, .hbr, .evr, .plc, .msh, .bil, .win 1, .win 7, .win 21] s (@State.sealFails x1 x2 x3 s) := by
  unfold State.sealFails
  show Walk true _ _ _
  try dsimp only
  repeat' first
    | (with_reducible exact Walk.refl)
    | (with_reducible apply Walk.step (k := State.bump_keeps))
    | (with_reducible apply Walk.step (k := State.endMsh_keeps))
    | (with_reducible apply Walk.step (k := State.endSend_keeps))
    | (with_reducible apply Walk.ite)
    | (show covers _ _ = true; rfl)
    | (split)

theorem State.commitSeal_keeps {x1 x2 s} : Keeps [.regs, .out, .cmd, .hbr, .evr, .tim, .kvt, .ing, .plc, .msh, .bil, .par, .win 1, .win 7, .win 14, .win 18, .win 21] s (@State.commitSeal x1 x2 s) := by
  unfold State.commitSeal
  show Walk true _ _ _
  try dsimp only
  repeat' first
    | (with_reducible exact Walk.refl)
    | (with_reducible refine Walk.step ?_ (State.drawUnicast_keeps_of (by assumption)) ?_)
    | (with_reducible apply Walk.step (k := State.drawUnicast_keeps))
    | (with_reducible apply Walk.step (k := State.sealFails_keeps))
    | (with_reducible refine Walk.step ?_ (State.sealKey_keeps_of (by assumption)) ?_)
    | (with_reducible apply Walk.step (k := State.sealKey_keeps))
    | (with_reducible apply Walk.step (k := State.sealSend_keeps))
    | (with_reducible apply Walk.step (k := State.startJob_keeps))
    | (with_reducible apply Walk.step (k := State.takeGroup_keeps))
    | (with_reducible apply Walk.ite)
    | (split)
    | (show covers _ _ = true; rfl)

theorem execFrameSealCommit_keeps {x1 x2 s t} (h : @execFrameSealCommit x1 x2 s = .next t) : Keeps [.regs, .out, .cmd, .hbr, .evr, .tim, .kvt, .ing, .plc, .msh, .bil, .par, .win 1, .win 7, .win 14, .win 18, .win 21] s t := by
  unfold execFrameSealCommit at h
  have e := Host.Outcome.next.inj h
  subst e
  clear h
  show Walk true _ _ _
  repeat' first
    | (with_reducible exact Walk.refl)
    | (with_reducible apply Walk.step (k := State.commitSeal_keeps))
    | (show covers _ _ = true; rfl)

theorem execFseIntake_keeps {s t} (h : @execFseIntake s = .next t) : Keeps [.regs, .out, .hbr, .evr, .kvt, .ing, .fse, .par, .wins] s t := by
  unfold execFseIntake at h
  have e := Host.Outcome.next.inj h
  subst e
  clear h
  show Walk true _ _ _
  repeat' first
    | (with_reducible exact Walk.refl)
    | (with_reducible apply Walk.step (k := State.intakeFrame_keeps))
    | (with_reducible apply Walk.step (k := State.setFse_keeps))
    | (show covers _ _ = true; rfl)
    | (split)

theorem verdictCounter_win (c : Nat) : winOf (State.verdictCounter c) = 7 ∧ winOf (State.verdictCounter c + 4) = 7 := by
  unfold State.verdictCounter
  split <;> exact ⟨rfl, rfl⟩

theorem State.bumpVerdict_keeps {c n s} : Keeps [.regs, .win 7] s (State.bumpPair (State.verdictCounter c) n s) :=
  State.bumpPair_keeps_at (verdictCounter_win c).1 (verdictCounter_win c).2

theorem State.countVerdict_keeps {x1 x2 s} : Keeps [.regs, .win 7] s (@State.countVerdict x1 x2 s) := by
  unfold State.countVerdict
  show Walk true _ _ _
  try dsimp only
  repeat' first
    | (with_reducible apply Walk.step (k := State.bumpVerdict_keeps))
    | (with_reducible exact Walk.refl)
    | (with_reducible apply Walk.step (k := State.bump_keeps))
    | (with_reducible apply Walk.step (k := State.bumpI_keeps))
    | (with_reducible apply Walk.step (k := State.bumpPair_keeps))
    | (with_reducible apply Walk.step (k := State.bumpVerdict_keeps))
    | (with_reducible apply Walk.step (k := State.setPair_keeps))
    | (with_reducible apply Walk.step (k := State.setReg_keeps))
    | (with_reducible apply Walk.ite)
    | (split)
    | (with_reducible assumption)
    | (with_reducible apply Walk.foldl)
    | (with_reducible apply Walk.foldl1)
    | (with_reducible apply Walk.foldl2)
    | (intro _)
    | (exact .inl rfl)
    | (exact .inr rfl)
    | (show covers _ _ = true; rfl)

theorem State.groupJobDone_keeps {x1 x2 x3 x4 x5 s} : Keeps [.regs, .out, .cmd, .hbr, .evr, .tim, .kvt, .ing, .plc, .msh, .bil, .par, .win 1, .win 7, .win 14, .win 18, .win 21] s (@State.groupJobDone x1 x2 x3 x4 x5 s) := by
  unfold State.groupJobDone
  show Walk true _ _ _
  try dsimp only
  repeat' first
    | (with_reducible exact Walk.refl)
    | (with_reducible apply Walk.step (k := State.commitSeal_keeps))
    | (with_reducible apply Walk.step (k := State.log_keeps))
    | (with_reducible apply Walk.step (k := State.sealFails_keeps))
    | (with_reducible apply Walk.step (k := State.setKvt_keeps))
    | (with_reducible apply Walk.ite)
    | (with_reducible refine Walk.update ?_ ?_ ?_ ?_ ?_ ?_ ?_ ?_ ?_ ?_ ?_ ?_ ?_ ?_ ?_ ?_ ?_ ?_ ?_ ?_ ?_ ?_ ?_ ?_ ?_ ?_ ?_ rfl rfl)
    | (exact .inl rfl)
    | (exact .inr rfl)
    | (show covers _ _ = true; rfl)
    | (split)

theorem State.toIngest_keeps {x1 x2 x3 s} : Keeps [.regs, .out, .hbr, .ing, .cod, .los, .par, .win 1, .win 8, .win 9, .win 20] s (@State.toIngest x1 x2 x3 s) := by
  unfold State.toIngest
  show Walk true _ _ _
  repeat' first
    | (with_reducible exact Walk.refl)
    | (with_reducible apply Walk.step (k := State.ingAccept_keeps))
    | (show covers _ _ = true; rfl)

theorem State.handVerdict_keeps {x1 x2 x3 s} : Keeps [.regs, .out, .hbr, .ing, .plc, .fse, .msh, .cod, .los, .par, .win 1, .win 6, .win 8, .win 9, .win 20] s (@State.handVerdict x1 x2 x3 s) := by
  unfold State.handVerdict
  show Walk true _ _ _
  try dsimp only
  repeat' first
    | (with_reducible exact Walk.refl)
    | (with_reducible apply Walk.step (k := State.learnFrame_keeps))
    | (with_reducible apply Walk.step (k := State.learnUplink_keeps))
    | (with_reducible apply Walk.step (k := State.mshDiscard_keeps))
    | (with_reducible apply Walk.step (k := State.mshVerdict_keeps))
    | (with_reducible apply Walk.step (k := State.pathStats_keeps))
    | (with_reducible apply Walk.step (k := State.plcVerdict_keeps))
    | (with_reducible apply Walk.step (k := State.seenInsert_keeps))
    | (with_reducible apply Walk.step (k := State.setFse_keeps))
    | (with_reducible apply Walk.step (k := State.setMsh_keeps))
    | (with_reducible apply Walk.step (k := State.setPlc_keeps))
    | (with_reducible apply Walk.step (k := State.toIngest_keeps))
    | (with_reducible apply Walk.ite)
    | (split)
    | (with_reducible refine Walk.update ?_ ?_ ?_ ?_ ?_ ?_ ?_ ?_ ?_ ?_ ?_ ?_ ?_ ?_ ?_ ?_ ?_ ?_ ?_ ?_ ?_ ?_ ?_ ?_ ?_ ?_ ?_ rfl rfl)
    | (exact .inl rfl)
    | (exact .inr rfl)
    | (show covers _ _ = true; rfl)

theorem State.fseNotice_keeps {x1 x2 x3 s} : Keeps [.regs, .out, .hbr, .win 1] s (@State.fseNotice x1 x2 x3 s) := by
  unfold State.fseNotice
  show Walk true _ _ _
  repeat' first
    | (with_reducible exact Walk.refl)
    | (with_reducible apply Walk.step (k := State.event_keeps))
    | (show covers _ _ = true; rfl)

theorem State.verdictNotices_keeps {x1 x2 s} : Keeps [.regs, .out, .hbr, .fse, .win 1] s (@State.verdictNotices x1 x2 s) := by
  unfold State.verdictNotices
  show Walk true _ _ _
  try dsimp only
  repeat' first
    | (with_reducible exact Walk.refl)
    | (with_reducible apply Walk.step (k := State.fseNotice_keeps))
    | (with_reducible apply Walk.step (k := State.setFse_keeps))
    | (with_reducible apply Walk.ite)
    | (split)
    | (with_reducible refine Walk.update ?_ ?_ ?_ ?_ ?_ ?_ ?_ ?_ ?_ ?_ ?_ ?_ ?_ ?_ ?_ ?_ ?_ ?_ ?_ ?_ ?_ ?_ ?_ ?_ ?_ ?_ ?_ rfl rfl)
    | (exact .inl rfl)
    | (exact .inr rfl)
    | (show covers _ _ = true; rfl)

theorem State.moveWindows_keeps {x1 x2 s} : Keeps [.ing] s (@State.moveWindows x1 x2 s) := by
  unfold State.moveWindows
  show Walk true _ _ _
  repeat' first
    | (with_reducible exact Walk.refl)
    | (with_reducible apply Walk.step (k := State.modCtx_keeps))
    | (show covers _ _ = true; rfl)
    | (split)

theorem State.releaseVerdict_keeps {x1 s} : Keeps [.regs, .out, .hbr, .ing, .plc, .fse, .msh, .cod, .los, .par, .win 1, .win 6, .win 7, .win 8, .win 9, .win 20] s (@State.releaseVerdict x1 s) := by
  unfold State.releaseVerdict
  show Walk true _ _ _
  try dsimp only
  repeat' first
    | (with_reducible exact Walk.refl)
    | (with_reducible apply Walk.step (k := State.countVerdict_keeps))
    | (with_reducible apply Walk.step (k := State.digestItem_keeps))
    | (with_reducible apply Walk.step (k := State.handVerdict_keeps))
    | (with_reducible apply Walk.step (k := State.moveWindows_keeps))
    | (with_reducible apply Walk.step (k := State.verdictNotices_keeps))
    | (with_reducible apply Walk.ite)
    | (split)
    | (show covers _ _ = true; rfl)

theorem execFcsAfterVerdict_keeps {s t} (h : @execFcsAfterVerdict s = .next t) : Keeps [.regs, .fse, .msh, .win 7] s t := by
  unfold execFcsAfterVerdict at h
  have e := Host.Outcome.next.inj h
  subst e
  clear h
  show Walk true _ _ _
  try dsimp only
  repeat' first
    | (with_reducible exact Walk.refl)
    | (with_reducible apply Walk.step (k := State.bump_keeps))
    | (with_reducible apply Walk.step (k := State.setFse_keeps))
    | (with_reducible apply Walk.step (k := State.setMsh_keeps))
    | (with_reducible apply Walk.ite)
    | (split)
    | (with_reducible refine Walk.update ?_ ?_ ?_ ?_ ?_ ?_ ?_ ?_ ?_ ?_ ?_ ?_ ?_ ?_ ?_ ?_ ?_ ?_ ?_ ?_ ?_ ?_ ?_ ?_ ?_ ?_ ?_ rfl rfl)
    | (exact .inl rfl)
    | (exact .inr rfl)
    | (show covers _ _ = true; rfl)

theorem State.windowStage_keeps {x1 x2 x3 s} : Keeps [.regs, .out, .hbr, .ing, .plc, .fse, .msh, .cod, .los, .par, .win 1, .win 6, .win 7, .win 8, .win 9, .win 20] s (@State.windowStage x1 x2 x3 s) := by
  unfold State.windowStage
  show Walk true _ _ _
  try dsimp only
  repeat' first
    | (with_reducible exact Walk.refl)
    | (with_reducible apply Walk.step (k := State.bump_keeps))
    | (with_reducible apply Walk.step (k := State.maxReg_keeps))
    | (with_reducible apply Walk.step (k := State.releaseVerdict_keeps))
    | (with_reducible apply Walk.step (k := State.setFse_keeps))
    | (with_reducible apply Walk.step (k := State.sunk_keeps))
    | (with_reducible apply Walk.ite)
    | (with_reducible refine Walk.update ?_ ?_ ?_ ?_ ?_ ?_ ?_ ?_ ?_ ?_ ?_ ?_ ?_ ?_ ?_ ?_ ?_ ?_ ?_ ?_ ?_ ?_ ?_ ?_ ?_ ?_ ?_ rfl rfl)
    | (exact .inl rfl)
    | (exact .inr rfl)
    | (show covers _ _ = true; rfl)
    | (split)

theorem execFseVerdictRelease_keeps {x1 x2 x3 s t} (h : @execFseVerdictRelease x1 x2 x3 s = .next t) : Keeps [.regs, .out, .hbr, .ing, .plc, .fse, .msh, .cod, .los, .par, .win 1, .win 6, .win 7, .win 8, .win 9, .win 20] s t := by
  unfold execFseVerdictRelease at h
  have e := Host.Outcome.next.inj h
  subst e
  clear h
  show Walk true _ _ _
  try dsimp only
  repeat' first
    | (with_reducible exact Walk.refl)
    | (with_reducible apply Walk.step (k := State.windowStage_keeps))
    | (with_reducible apply Walk.ite)
    | (split)
    | (show covers _ _ = true; rfl)

end Sys2Proof.Machine
end

