-- ==== Sys2Proof/Laws/KeepsUpdStore.lean ====
section
/-! SUPPORT. What each operation of UpdStore can change, and that it keeps the canonical forms. -/
set_option Elab.async false
namespace Sys2Proof.Machine

theorem State.updNotice_keeps {x1 x2 x3 s} : Keeps [.regs, .out, .hbr, .win 1] s (@State.updNotice x1 x2 x3 s) := by
  unfold State.updNotice
  show Walk true _ _ _
  repeat' first
    | (with_reducible exact Walk.refl)
    | (with_reducible apply Walk.step (k := State.event_keeps))
    | (show covers _ _ = true; rfl)

theorem State.setUpd_keeps {b ps s0 u f} (h : Walk true ps s0 u) (hp : may ps 25 = true) (hf : ∀ x : Upd, (f x).flash = x.flash) :
    Walk b ps s0 (State.setUpd f u) := by
  have hm : ∀ p : Part, allows ps p = false → may ps p.code ≠ true := fun p hp hc => by simp [allows_of_may hc] at hp
  refine Keeps.trans h ⟨rfl, fun p hq => ?_, fun k => k, fun k => by rw [← hf] at k; exact k⟩
  cases p <;> first | rfl | exact trivial | exact fun _ _ => rfl | exact absurd hp (hm _ hq) | exact hf _

theorem Walk.setUpdFlash {b ps s0 u f} (h : Walk true ps s0 u) (hp : may ps 25 = true) (hq : may ps 29 = true)
    (hf : ∀ x : Upd, Memory.wf x.flash = true → Memory.wf (f x).flash = true) : Walk b ps s0 (State.setUpd f u) :=
  Walk.setFlash h hp hq (hf _)

theorem State.commitBoot_keeps {x1 s} : Keeps [.upd, .flash] s (@State.commitBoot x1 s) := by
  unfold State.commitBoot
  exact Walk.setUpdFlash (b := true) Walk.refl (by rfl) (by rfl) (fun x h => by
    dsimp only
    exact Memory.wf_program (Memory.wf_erase h))

theorem State.chooseSlot_keeps {x1 s} : Keeps [.upd, .flash] s (@State.chooseSlot x1 s).2 := by
  unfold State.chooseSlot
  show Walk true _ _ _
  try dsimp only
  repeat' first
    | (with_reducible exact Walk.refl)
    | (with_reducible apply Walk.step (k := State.commitBoot_keeps))
    | (with_reducible refine State.setUpd_keeps ?_ ?_ ?_)
    | (show covers _ _ = true; rfl)
    | (show may _ _ = true; rfl)
    | (exact (fun _ => rfl))
    | (split)
theorem State.chooseSlot_keeps_of {x1 s a1 t} (h : @State.chooseSlot x1 s = (a1, t)) : Keeps [.upd, .flash] s t := by
  have := @State.chooseSlot_keeps x1 s
  rw [h] at this
  exact this

theorem State.flashRetry_keeps {x1 s} : Keeps [.regs, .win 16] s (@State.flashRetry x1 s) := by
  unfold State.flashRetry
  show Walk true _ _ _
  repeat' first
    | (with_reducible exact Walk.refl)
    | (with_reducible apply Walk.step (k := State.bumpBy_keeps))
    | (show covers _ _ = true; rfl)

theorem State.stageGranule_keeps {x1 s} : Keeps [.upd, .flash] s (@State.stageGranule x1 s) := by
  unfold State.stageGranule
  exact Keeps.step (Walk.setUpdFlash (b := true) Walk.refl (by rfl) (by rfl) (fun x h => by
    dsimp only
    exact Memory.wf_program h)) State.commitBoot_keeps (by rfl)

theorem State.openStage_keeps {x1 s} : Keeps [.upd, .flash] s (@State.openStage x1 s) := by
  unfold State.openStage
  exact Keeps.step (Walk.setUpdFlash (b := true) Walk.refl (by rfl) (by rfl) (fun x h => by
    dsimp only
    exact Memory.wf_erase h)) State.commitBoot_keeps (by rfl)

end Sys2Proof.Machine
end

