-- ==== Sys2Proof/Laws/KeepsFwCamp.lean ====
section
/-! SUPPORT. What each operation of FwCamp can change, and that it keeps the canonical forms. -/
set_option Elab.async false
namespace Sys2Proof.Machine

theorem State.fwDrop_keeps {x1 s} : Keeps [.plc, .msh] s (@State.fwDrop x1 s) := by
  unfold State.fwDrop
  show Walk true _ _ _
  repeat' first
    | (with_reducible exact Walk.refl)
    | (with_reducible refine Walk.update ?_ ?_ ?_ ?_ ?_ ?_ ?_ ?_ ?_ ?_ ?_ ?_ ?_ ?_ ?_ ?_ ?_ ?_ ?_ ?_ ?_ ?_ ?_ ?_ ?_ ?_ ?_ rfl rfl)
    | (exact .inl rfl)
    | (exact .inr rfl)

theorem State.modFw_keeps {x1 x2 s} : Keeps [.upd] s (@State.modFw x1 x2 s) := by
  unfold State.modFw
  show Walk true _ _ _
  repeat' first
    | (with_reducible exact Walk.refl)
    | (with_reducible refine State.setUpd_keeps ?_ ?_ ?_)
    | (show may _ _ = true; rfl)
    | (exact (fun _ => rfl))

theorem State.fwPause_keeps {x1 s} : Keeps [.regs, .out, .hbr, .plc, .msh, .upd, .win 1] s (@State.fwPause x1 s) := by
  unfold State.fwPause
  show Walk true _ _ _
  repeat' first
    | (with_reducible exact Walk.refl)
    | (with_reducible apply Walk.step (k := State.updNotice_keeps))
    | (with_reducible apply Walk.step (k := State.fwDrop_keeps))
    | (with_reducible apply Walk.step (k := State.modFw_keeps))
    | (show covers _ _ = true; rfl)

theorem State.fwPauseAll_keeps {s} : Keeps [.regs, .out, .hbr, .plc, .msh, .upd, .win 1] s (@State.fwPauseAll s) := by
  unfold State.fwPauseAll
  show Walk true _ _ _
  repeat' first
    | (with_reducible exact Walk.refl)
    | (with_reducible apply Walk.step (k := State.fwPause_keeps))
    | (with_reducible apply Walk.foldl)
    | (intro _)
    | (show covers _ _ = true; rfl)

theorem State.fwMulticast_keeps {x1 x2 x3 s} : Keeps [.regs, .out, .cmd, .plc, .msh, .bil, .par, .win 4, .win 18] s (@State.fwMulticast x1 x2 x3 s) := by
  unfold State.fwMulticast
  show Walk true _ _ _
  repeat' first
    | (with_reducible exact Walk.refl)
    | (with_reducible apply Walk.step (k := State.plcMcast_keeps))
    | (with_reducible apply Walk.step (k := State.mshFlood_keeps))
    | (with_reducible apply Walk.foldl)
    | (intro _)
    | (show covers _ _ = true; rfl)
    | (split)

theorem State.fwEnd_keeps {x1 x2 s} : Keeps [.cmd, .plc, .msh, .bil, .upd] s (@State.fwEnd x1 x2 s) := by
  unfold State.fwEnd
  show Walk true _ _ _
  repeat' first
    | (with_reducible exact Walk.refl)
    | (with_reducible apply Walk.step (k := State.fwDrop_keeps))
    | (with_reducible refine State.setUpd_keeps ?_ ?_ ?_)
    | (with_reducible apply Walk.step (k := State.replyWith_keeps))
    | (show covers _ _ = true; rfl)
    | (show may _ _ = true; rfl)
    | (exact (fun _ => rfl))
    | (split)

theorem State.fwQuery_keeps {x1 s} : Keeps [.cmd, .plc, .msh, .bil, .upd] s (@State.fwQuery x1 s) := by
  unfold State.fwQuery
  show Walk true _ _ _
  try dsimp only
  repeat' first
    | (with_reducible exact Walk.refl)
    | (with_reducible apply Walk.step (k := State.modFw_keeps))
    | (with_reducible apply Walk.step (k := State.fwEnd_keeps))
    | (show covers _ _ = true; rfl)
    | (split)

theorem State.fwCount_keeps {x1 x2 s} : Keeps [.regs, .upd, .win 16] s (@State.fwCount x1 x2 s) := by
  unfold State.fwCount
  show Walk true _ _ _
  repeat' first
    | (with_reducible exact Walk.refl)
    | (with_reducible apply Walk.step (k := State.bumpBy_keeps))
    | (with_reducible apply Walk.step (k := State.modFw_keeps))
    | (show covers _ _ = true; rfl)

theorem State.fwFirst_keeps {x1 x2 s} : Keeps [.regs, .out, .cmd, .plc, .msh, .bil, .par, .upd, .win 4, .win 16, .win 18] s (@State.fwFirst x1 x2 s) := by
  unfold State.fwFirst
  show Walk true _ _ _
  repeat' first
    | (with_reducible exact Walk.refl)
    | (with_reducible apply Walk.step (k := State.fwCount_keeps))
    | (with_reducible apply Walk.step (k := State.fwMulticast_keeps))
    | (show covers _ _ = true; rfl)

theorem State.fwLater_keeps {x1 x2 s} : Keeps [.regs, .out, .cmd, .hbr, .evr, .tim, .kvt, .ing, .plc, .msh, .bil, .par, .upd, .win 1, .win 4, .win 7, .win 14, .win 16, .win 18, .win 21] s (@State.fwLater x1 x2 s) := by
  unfold State.fwLater
  show Walk true _ _ _
  try dsimp only
  repeat' first
    | (with_reducible exact Walk.refl)
    | (with_reducible apply Walk.step (k := State.fwCount_keeps))
    | (with_reducible apply Walk.step (k := State.fwMulticast_keeps))
    | (with_reducible apply Walk.step (k := State.ownUnicast_keeps))
    | (with_reducible apply Walk.foldl)
    | (intro _)
    | (show covers _ _ = true; rfl)
    | (split)

theorem State.fwOpen_keeps {x1 s} : Keeps [.regs, .out, .cmd, .hbr, .evr, .tim, .kvt, .ing, .plc, .msh, .bil, .par, .upd, .win 1, .win 4, .win 7, .win 14, .win 16, .win 18, .win 21] s (@State.fwOpen x1 s) := by
  unfold State.fwOpen
  show Walk true _ _ _
  try dsimp only
  repeat' first
    | (with_reducible exact Walk.refl)
    | (with_reducible apply Walk.step (k := State.fwQuery_keeps))
    | (with_reducible apply Walk.step (k := State.modFw_keeps))
    | (with_reducible apply Walk.step (k := State.fwFirst_keeps))
    | (with_reducible apply Walk.step (k := State.fwLater_keeps))
    | (split)
    | (with_reducible refine Walk.update ?_ ?_ ?_ ?_ ?_ ?_ ?_ ?_ ?_ ?_ ?_ ?_ ?_ ?_ ?_ ?_ ?_ ?_ ?_ ?_ ?_ ?_ ?_ ?_ ?_ ?_ ?_ rfl rfl)
    | (exact .inl rfl)
    | (exact .inr rfl)
    | (show covers _ _ = true; rfl)

end Sys2Proof.Machine
end

