-- ==== Sys2Proof/Laws/KeepsParOps.lean ====
section
/-! SUPPORT. What each operation of ParOps can change, and that it keeps the canonical forms. -/
set_option Elab.async false
namespace Sys2Proof.Machine

theorem State.setPar_keeps {x1 s} : Keeps [.par] s (@State.setPar x1 s) := by
  unfold State.setPar
  show Walk true _ _ _
  repeat' first
    | (with_reducible exact Walk.refl)
    | (with_reducible refine Walk.update ?_ ?_ ?_ ?_ ?_ ?_ ?_ ?_ ?_ ?_ ?_ ?_ ?_ ?_ ?_ ?_ ?_ ?_ ?_ ?_ ?_ ?_ ?_ ?_ ?_ ?_ ?_ rfl rfl)
    | (exact .inl rfl)
    | (exact .inr rfl)

theorem State.beginRelease_keeps {x1 x2 x3 s} : Keeps [.regs, .out, .seam, .cmd, .hbr, .evr, .plc, .rfx, .msh, .bil, .par, .upd, .win 1, .win 4, .win 5, .win 18, .win 21] s (@State.beginRelease x1 x2 x3 s) := by
  unfold State.beginRelease
  show Walk true _ _ _
  try dsimp only
  repeat' first
    | (with_reducible exact Walk.refl)
    | (with_reducible apply Walk.step (k := State.bump_keeps))
    | (with_reducible apply Walk.step (k := State.setPar_keeps))
    | (with_reducible apply Walk.step (k := State.fwPauseAll_keeps))
    | (with_reducible apply Walk.step (k := State.campPauseAll_keeps))
    | (with_reducible apply Walk.step (k := State.releaseOne_keeps))
    | (with_reducible refine Walk.update ?_ ?_ ?_ ?_ ?_ ?_ ?_ ?_ ?_ ?_ ?_ ?_ ?_ ?_ ?_ ?_ ?_ ?_ ?_ ?_ ?_ ?_ ?_ ?_ ?_ ?_ ?_ rfl rfl)
    | (exact .inl rfl)
    | (exact .inr rfl)
    | (show covers _ _ = true; rfl)
    | (split)

theorem State.parNotice_keeps {x1 x2 x3 x4 s} : Keeps [.regs, .out, .hbr, .win 1] s (@State.parNotice x1 x2 x3 x4 s) := by
  unfold State.parNotice
  show Walk true _ _ _
  repeat' first
    | (with_reducible exact Walk.refl)
    | (with_reducible apply Walk.step (k := State.event_keeps))
    | (show covers _ _ = true; rfl)

theorem State.stepLook_keeps {s} : Keeps [.regs, .out, .hbr, .par, .win 1] s (@State.stepLook s) := by
  unfold State.stepLook
  show Walk true _ _ _
  try dsimp only
  repeat' first
    | (with_reducible exact Walk.refl)
    | (with_reducible apply Walk.step (k := State.setPar_keeps))
    | (with_reducible apply Walk.step (k := State.parNotice_keeps))
    | (show covers _ _ = true; rfl)
    | (split)

theorem State.setRole_keeps {x1 s} : Keeps [.dev] s (@State.setRole x1 s) := by
  unfold State.setRole
  show Walk true _ _ _
  repeat' first
    | (with_reducible exact Walk.refl)
    | (with_reducible refine Walk.update ?_ ?_ ?_ ?_ ?_ ?_ ?_ ?_ ?_ ?_ ?_ ?_ ?_ ?_ ?_ ?_ ?_ ?_ ?_ ?_ ?_ ?_ ?_ ?_ ?_ ?_ ?_ rfl rfl)
    | (exact .inl rfl)
    | (exact .inr rfl)

theorem State.enterStandby_keeps {s} : Keeps [.regs, .out, .dev, .hbr, .par, .win 1] s (@State.enterStandby s) := by
  unfold State.enterStandby
  show Walk true _ _ _
  repeat' first
    | (with_reducible exact Walk.refl)
    | (with_reducible apply Walk.step (k := State.stepLook_keeps))
    | (with_reducible apply Walk.step (k := State.setPar_keeps))
    | (with_reducible apply Walk.step (k := State.setRole_keeps))
    | (show covers _ _ = true; rfl)

theorem State.seeOwnIn_keeps {x1 s} : Keeps [.par] s (@State.seeOwnIn x1 s) := by
  unfold State.seeOwnIn
  show Walk true _ _ _
  repeat' first
    | (with_reducible exact Walk.refl)
    | (with_reducible apply Walk.step (k := State.setPar_keeps))
    | (show covers _ _ = true; rfl)

theorem State.replayHold_keeps {s} : Keeps [.regs, .out, .evr, .kvt, .ing, .fse, .par, .win 7, .win 14, .win 18, .win 21] s (@State.replayHold s) := by
  unfold State.replayHold
  show Walk true _ _ _
  repeat' first
    | (with_reducible exact Walk.refl)
    | (with_reducible apply Walk.step (k := State.bumpBy_keeps))
    | (with_reducible apply Walk.step (k := State.setPar_keeps))
    | (with_reducible apply Walk.step (k := State.enterIntake_keeps))
    | (with_reducible apply Walk.foldl)
    | (intro _)
    | (show covers _ _ = true; rfl)

theorem State.gainOwnership_keeps {x1 s} : Keeps [.regs, .out, .dev, .seam, .hbr, .evr, .kvt, .ing, .fse, .par, .win 1, .win 7, .win 14, .win 18, .win 21] s (@State.gainOwnership x1 s) := by
  unfold State.gainOwnership
  show Walk true _ _ _
  repeat' first
    | (with_reducible exact Walk.refl)
    | (with_reducible apply Walk.step (k := State.setPar_keeps))
    | (with_reducible apply Walk.step (k := State.setRole_keeps))
    | (with_reducible apply Walk.step (k := State.parNotice_keeps))
    | (with_reducible apply Walk.step (k := State.noonBeat_keeps))
    | (with_reducible apply Walk.step (k := State.bump_keeps))
    | (with_reducible apply Walk.step (k := State.replayHold_keeps))
    | (with_reducible refine Walk.update ?_ ?_ ?_ ?_ ?_ ?_ ?_ ?_ ?_ ?_ ?_ ?_ ?_ ?_ ?_ ?_ ?_ ?_ ?_ ?_ ?_ ?_ ?_ ?_ ?_ ?_ ?_ rfl rfl)
    | (exact .inl rfl)
    | (exact .inr rfl)
    | (show covers _ _ = true; rfl)

theorem State.claim_keeps {x1 x2 s} : Keeps [.regs, .out, .dev, .seam, .hbr, .evr, .kvt, .ing, .fse, .par, .win 1, .win 7, .win 14, .win 18, .win 21] s (@State.claim x1 x2 s).1 := by
  unfold State.claim
  show Walk true _ _ _
  try dsimp only
  repeat' first
    | (with_reducible exact Walk.refl)
    | (with_reducible apply Walk.step (k := State.bump_keeps))
    | (with_reducible apply Walk.step (k := State.emit_keeps))
    | (with_reducible apply Walk.step (k := State.gainOwnership_keeps))
    | (with_reducible apply Walk.step (k := State.parNotice_keeps))
    | (with_reducible apply Walk.step (k := State.seeOwnIn_keeps))
    | (with_reducible apply Walk.step (k := State.setPar_keeps))
    | (with_reducible apply Walk.ite)
    | (split)
    | (with_reducible refine Walk.update ?_ ?_ ?_ ?_ ?_ ?_ ?_ ?_ ?_ ?_ ?_ ?_ ?_ ?_ ?_ ?_ ?_ ?_ ?_ ?_ ?_ ?_ ?_ ?_ ?_ ?_ ?_ rfl rfl)
    | (exact .inl rfl)
    | (exact .inr rfl)
    | (show covers _ _ = true; rfl)

theorem State.claim_keeps_of {x1 x2 s a1 t} (h : @State.claim x1 x2 s = (t, a1)) : Keeps [.regs, .out, .dev, .seam, .hbr, .evr, .kvt, .ing, .fse, .par, .win 1, .win 7, .win 14, .win 18, .win 21] s t := by
  have := @State.claim_keeps x1 x2 s
  rw [h] at this
  exact this

theorem State.endClaim_keeps {x1 e} : Keeps [.cmd, .bil] e.1 (State.endClaim x1 e) := by
  unfold State.endClaim
  show Walk true _ _ _
  try dsimp only
  repeat' first
    | (with_reducible exact Walk.refl)
    | (with_reducible assumption)
    | (with_reducible apply Walk.step (k := State.replyWith_keeps))
    | (with_reducible apply Walk.step (k := State.reply_keeps))
    | (with_reducible apply Walk.foldl)
    | (with_reducible apply Walk.foldl1)
    | (with_reducible apply Walk.foldl2)
    | (with_reducible apply Walk.ite)
    | (intro _)
    | (exact .inl rfl)
    | (exact .inr rfl)
    | (show covers _ _ = true; rfl)
    | (exact (fun _ => rfl))
    | (split)

theorem State.endRelease_keeps {x1 s} : Keeps [.regs, .out, .dev, .seam, .cmd, .hbr, .evr, .kvt, .ing, .fse, .bil, .par, .win 1, .win 7, .win 14, .win 18, .win 21] s (@State.endRelease x1 s) := by
  unfold State.endRelease
  show Walk true _ _ _
  try dsimp only
  repeat' first
    | (with_reducible exact Walk.refl)
    | (with_reducible apply Walk.step (k := State.emit_keeps))
    | (with_reducible apply Walk.step (k := State.setPar_keeps))
    | (with_reducible apply Walk.step (k := State.parNotice_keeps))
    | (with_reducible apply Walk.step (k := State.noonBeat_keeps))
    | (with_reducible apply Walk.step (k := State.enterStandby_keeps))
    | (with_reducible apply Walk.step (k := State.reply_keeps))
    | (with_reducible refine Walk.step ?_ (State.claim_keeps_of (by assumption)) ?_)
    | (with_reducible apply Walk.step (k := State.claim_keeps))
    | (with_reducible apply Walk.step (k := State.endClaim_keeps))
    | (with_reducible apply Walk.foldl)
    | (intro _)
    | (split)
    | (with_reducible refine Walk.update ?_ ?_ ?_ ?_ ?_ ?_ ?_ ?_ ?_ ?_ ?_ ?_ ?_ ?_ ?_ ?_ ?_ ?_ ?_ ?_ ?_ ?_ ?_ ?_ ?_ ?_ ?_ rfl rfl)
    | (exact .inl rfl)
    | (exact .inr rfl)
    | (show covers _ _ = true; rfl)

theorem State.askClaim_keeps {x1 x2 x3 s} : Keeps [.regs, .out, .dev, .seam, .cmd, .hbr, .evr, .kvt, .ing, .fse, .bil, .par, .win 1, .win 7, .win 14, .win 18, .win 21] s (@State.askClaim x1 x2 x3 s) := by
  unfold State.askClaim
  show Walk true _ _ _
  repeat' first
    | (with_reducible exact Walk.refl)
    | (with_reducible apply Walk.step (k := State.setPar_keeps))
    | (with_reducible apply Walk.step (k := State.endClaim_keeps))
    | (with_reducible refine Walk.step ?_ (State.claim_keeps_of (by assumption)) ?_)
    | (with_reducible apply Walk.step (k := State.claim_keeps))
    | (with_reducible refine Walk.update ?_ ?_ ?_ ?_ ?_ ?_ ?_ ?_ ?_ ?_ ?_ ?_ ?_ ?_ ?_ ?_ ?_ ?_ ?_ ?_ ?_ ?_ ?_ ?_ ?_ ?_ ?_ rfl rfl)
    | (exact .inl rfl)
    | (exact .inr rfl)
    | (show covers _ _ = true; rfl)
    | (split)

theorem State.autoClaim_keeps {x1 s} : Keeps [.regs, .out, .dev, .seam, .cmd, .hbr, .evr, .kvt, .ing, .fse, .bil, .par, .win 1, .win 7, .win 14, .win 18, .win 21] s (@State.autoClaim x1 s) := by
  unfold State.autoClaim
  show Walk true _ _ _
  repeat' first
    | (with_reducible exact Walk.refl)
    | (with_reducible apply Walk.step (k := State.askClaim_keeps))
    | (with_reducible apply Walk.step (k := State.bump_keeps))
    | (show covers _ _ = true; rfl)
    | (split)

theorem State.partnerLost_keeps {x1 s} : Keeps [.regs, .out, .dev, .seam, .cmd, .hbr, .evr, .kvt, .ing, .fse, .bil, .par, .win 1, .win 7, .win 14, .win 18, .win 21] s (@State.partnerLost x1 s) := by
  unfold State.partnerLost
  show Walk true _ _ _
  try dsimp only
  repeat' first
    | (with_reducible exact Walk.refl)
    | (with_reducible apply Walk.step (k := State.bump_keeps))
    | (with_reducible apply Walk.step (k := State.setPar_keeps))
    | (with_reducible apply Walk.step (k := State.noonBeat_keeps))
    | (with_reducible apply Walk.step (k := State.setRole_keeps))
    | (with_reducible apply Walk.step (k := State.parNotice_keeps))
    | (with_reducible apply Walk.step (k := State.autoClaim_keeps))
    | (with_reducible refine Walk.update ?_ ?_ ?_ ?_ ?_ ?_ ?_ ?_ ?_ ?_ ?_ ?_ ?_ ?_ ?_ ?_ ?_ ?_ ?_ ?_ ?_ ?_ ?_ ?_ ?_ ?_ ?_ rfl rfl)
    | (exact .inl rfl)
    | (exact .inr rfl)
    | (show covers _ _ = true; rfl)
    | (split)

theorem State.pairFault_keeps {s} : Keeps [.regs, .out, .dev, .cmd, .evr, .plc, .rfx, .msh, .bil, .win 0, .win 4, .win 5, .win 21] s (@State.pairFault s) := by
  unfold State.pairFault
  show Walk true _ _ _
  repeat' first
    | (with_reducible exact Walk.refl)
    | (with_reducible apply Walk.step (k := State.forceTwilight_keeps))
    | (with_reducible apply Walk.step (k := State.holdCause_keeps))
    | (show covers _ _ = true; rfl)

theorem State.doubleLook_keeps {s} : Keeps [.regs, .out, .dev, .seam, .cmd, .hbr, .evr, .plc, .rfx, .msh, .bil, .par, .upd, .win 0, .win 1, .win 4, .win 5, .win 18, .win 21] s (@State.doubleLook s) := by
  unfold State.doubleLook
  show Walk true _ _ _
  try dsimp only
  repeat' first
    | (with_reducible exact Walk.refl)
    | (with_reducible apply Walk.step (k := State.setPar_keeps))
    | (with_reducible apply Walk.step (k := State.parNotice_keeps))
    | (with_reducible apply Walk.step (k := State.log_keeps))
    | (with_reducible apply Walk.step (k := State.bump_keeps))
    | (with_reducible apply Walk.step (k := State.pairFault_keeps))
    | (with_reducible apply Walk.step (k := State.beginRelease_keeps))
    | (with_reducible apply Walk.step (k := State.holdCause_keeps))
    | (with_reducible refine Walk.update ?_ ?_ ?_ ?_ ?_ ?_ ?_ ?_ ?_ ?_ ?_ ?_ ?_ ?_ ?_ ?_ ?_ ?_ ?_ ?_ ?_ ?_ ?_ ?_ ?_ ?_ ?_ rfl rfl)
    | (exact .inl rfl)
    | (exact .inr rfl)
    | (show covers _ _ = true; rfl)
    | (split)

theorem State.sideLook_keeps {s} : Keeps [.regs, .out, .dev, .seam, .cmd, .hbr, .evr, .plc, .rfx, .msh, .bil, .par, .upd, .win 0, .win 1, .win 4, .win 5, .win 18, .win 21] s (@State.sideLook s) := by
  unfold State.sideLook
  show Walk true _ _ _
  try dsimp only
  repeat' first
    | (with_reducible exact Walk.refl)
    | (with_reducible apply Walk.step (k := State.setPar_keeps))
    | (with_reducible apply Walk.step (k := State.parNotice_keeps))
    | (with_reducible apply Walk.step (k := State.beginRelease_keeps))
    | (with_reducible apply Walk.step (k := State.pairFault_keeps))
    | (with_reducible refine Walk.update ?_ ?_ ?_ ?_ ?_ ?_ ?_ ?_ ?_ ?_ ?_ ?_ ?_ ?_ ?_ ?_ ?_ ?_ ?_ ?_ ?_ ?_ ?_ ?_ ?_ ?_ ?_ rfl rfl)
    | (exact .inl rfl)
    | (exact .inr rfl)
    | (show covers _ _ = true; rfl)
    | (split)

theorem State.faultLook_keeps {s} : Keeps [.regs, .win 0] s (@State.faultLook s) := by
  unfold State.faultLook
  show Walk true _ _ _
  repeat' first
    | (with_reducible exact Walk.refl)
    | (with_reducible apply Walk.step (k := State.holdCause_keeps))
    | (show covers _ _ = true; rfl)
    | (split)

theorem State.partnerBack_keeps {s} : Keeps [.regs, .out, .dev, .seam, .hbr, .par, .win 1] s (@State.partnerBack s) := by
  unfold State.partnerBack
  show Walk true _ _ _
  repeat' first
    | (with_reducible exact Walk.refl)
    | (with_reducible apply Walk.step (k := State.setPar_keeps))
    | (with_reducible apply Walk.step (k := State.noonBeat_keeps))
    | (with_reducible apply Walk.step (k := State.enterStandby_keeps))
    | (with_reducible apply Walk.step (k := State.parNotice_keeps))
    | (with_reducible refine Walk.update ?_ ?_ ?_ ?_ ?_ ?_ ?_ ?_ ?_ ?_ ?_ ?_ ?_ ?_ ?_ ?_ ?_ ?_ ?_ ?_ ?_ ?_ ?_ ?_ ?_ ?_ ?_ rfl rfl)
    | (exact .inl rfl)
    | (exact .inr rfl)
    | (show covers _ _ = true; rfl)
    | (split)

theorem State.plausibleLook_keeps {s} : Keeps [.regs, .out, .dev, .cmd, .hbr, .evr, .plc, .rfx, .msh, .bil, .par, .win 0, .win 1, .win 4, .win 5, .win 18, .win 21] s (@State.plausibleLook s) := by
  unfold State.plausibleLook
  show Walk true _ _ _
  try dsimp only
  repeat' first
    | (with_reducible exact Walk.refl)
    | (with_reducible apply Walk.step (k := State.setPar_keeps))
    | (with_reducible apply Walk.step (k := State.pairFault_keeps))
    | (with_reducible apply Walk.step (k := State.parNotice_keeps))
    | (with_reducible apply Walk.step (k := State.log_keeps))
    | (with_reducible apply Walk.step (k := State.bump_keeps))
    | (show covers _ _ = true; rfl)
    | (split)

theorem State.sendLedger_keeps {s} : Keeps [.out, .freeCtr, .bil] s (@State.sendLedger s) := by
  unfold State.sendLedger
  show Walk true _ _ _
  try dsimp only
  repeat' first
    | (with_reducible exact Walk.refl)
    | (with_reducible apply Walk.step (k := State.drawn_keeps))
    | (with_reducible apply Walk.step (k := State.emit_keeps))
    | (with_reducible apply Walk.step (k := State.setBil_keeps))
    | (with_reducible apply Walk.ite)
    | (with_reducible refine Walk.update ?_ ?_ ?_ ?_ ?_ ?_ ?_ ?_ ?_ ?_ ?_ ?_ ?_ ?_ ?_ ?_ ?_ ?_ ?_ ?_ ?_ ?_ ?_ ?_ ?_ ?_ ?_ rfl rfl)
    | (exact .inl rfl)
    | (exact .inr rfl)
    | (show covers _ _ = true; rfl)
    | (split)

theorem State.handoverLook_keeps {s} : Keeps [.regs, .out, .seam, .cmd, .hbr, .evr, .plc, .rfx, .msh, .bil, .par, .upd, .win 1, .win 4, .win 5, .win 18, .win 21] s (@State.handoverLook s) := by
  unfold State.handoverLook
  show Walk true _ _ _
  repeat' first
    | (with_reducible exact Walk.refl)
    | (with_reducible apply Walk.step (k := State.beginRelease_keeps))
    | (show covers _ _ = true; rfl)
    | (split)

theorem State.fitLook_keeps {s} : Keeps [.regs, .out, .hbr, .par, .win 1] s (@State.fitLook s) := by
  unfold State.fitLook
  show Walk true _ _ _
  try dsimp only
  repeat' first
    | (with_reducible exact Walk.refl)
    | (with_reducible apply Walk.step (k := State.parNotice_keeps))
    | (with_reducible apply Walk.step (k := State.setPar_keeps))
    | (show covers _ _ = true; rfl)
    | (split)

end Sys2Proof.Machine
end

