-- ==== Sys2Proof/Laws/KeepsDusk.lean ====
section
/-! SUPPORT. What each operation of Dusk can change, and that it keeps the canonical forms. -/
set_option Elab.async false
namespace Sys2Proof.Machine

theorem State.saveFirst_keeps {s} : Keeps [.aon, .bil] s (@State.saveFirst s) := by
  unfold State.saveFirst
  show Walk true _ _ _
  repeat' first
    | (with_reducible exact Walk.refl)
    | (with_reducible apply Walk.step (k := State.dutySave_keeps))
    | (with_reducible apply Walk.step (k := State.setBil_keeps))
    | (with_reducible apply Walk.ite)
    | (with_reducible refine Walk.update ?_ ?_ ?_ ?_ ?_ ?_ ?_ ?_ ?_ ?_ ?_ ?_ ?_ ?_ ?_ ?_ ?_ ?_ ?_ ?_ ?_ ?_ ?_ ?_ ?_ ?_ ?_ rfl rfl)
    | (exact .inl rfl)
    | (exact .inr rfl)
    | (show covers _ _ = true; rfl)

theorem State.duskRelease_keeps {s} : Keeps [.regs, .out, .dev, .seam, .cmd, .hbr, .evr, .kvt, .ing, .plc, .rfx, .fse, .msh, .bil, .par, .upd, .win 1, .win 4, .win 5, .win 7, .win 14, .win 18, .win 21] s (@State.duskRelease s) := by
  unfold State.duskRelease
  show Walk true _ _ _
  repeat' first
    | (with_reducible exact Walk.refl)
    | (with_reducible apply Walk.step (k := State.beginRelease_keeps))
    | (with_reducible apply Walk.step (k := State.releaseOne_keeps))
    | (with_reducible apply Walk.step (k := State.endRelease_keeps))
    | (with_reducible apply Walk.step (k := State.setPar_keeps))
    | (with_reducible refine Walk.update ?_ ?_ ?_ ?_ ?_ ?_ ?_ ?_ ?_ ?_ ?_ ?_ ?_ ?_ ?_ ?_ ?_ ?_ ?_ ?_ ?_ ?_ ?_ ?_ ?_ ?_ ?_ rfl rfl)
    | (exact .inl rfl)
    | (exact .inr rfl)
    | (show covers _ _ = true; rfl)
    | (split)

theorem State.saveFences_keeps {s} : Keeps [.vin] s (@State.saveFences s) := by
  unfold State.saveFences
  show Walk true _ _ _
  repeat' first
    | (with_reducible exact Walk.refl)
    | (with_reducible apply Walk.foldl)
    | (intro _)
    | (exact .inl rfl)
    | (exact .inr rfl)
    | (split)
    | (with_reducible refine Walk.update ?_ ?_ ?_ ?_ ?_ ?_ ?_ ?_ ?_ ?_ ?_ ?_ ?_ ?_ ?_ ?_ ?_ ?_ ?_ ?_ ?_ ?_ ?_ ?_ ?_ ?_ ?_ rfl rfl)

theorem State.noCmds_keeps {s} : Keeps [.cmd, .hbr] s (@State.noCmds s) := by
  unfold State.noCmds
  show Walk true _ _ _
  try dsimp only
  repeat' first
    | (with_reducible exact Walk.refl)
    | (with_reducible refine Walk.update ?_ ?_ ?_ ?_ ?_ ?_ ?_ ?_ ?_ ?_ ?_ ?_ ?_ ?_ ?_ ?_ ?_ ?_ ?_ ?_ ?_ ?_ ?_ ?_ ?_ ?_ ?_ rfl rfl)
    | (exact .inl rfl)
    | (exact .inr rfl)
    | (show covers _ _ = true; rfl)
    | (split)

theorem State.formOwed_keeps {s} : Keeps [.out, .cmd, .hbr, .arc] s (@State.formOwed s) := by
  unfold State.formOwed
  show Walk true _ _ _
  try dsimp only
  repeat' first
    | (with_reducible exact Walk.refl)
    | (with_reducible apply Walk.step (k := State.noCmds_keeps))
    | (with_reducible apply Walk.step (k := State.sysWrite_keeps))
    | (with_reducible apply Walk.ite)
    | (with_reducible refine Walk.update ?_ ?_ ?_ ?_ ?_ ?_ ?_ ?_ ?_ ?_ ?_ ?_ ?_ ?_ ?_ ?_ ?_ ?_ ?_ ?_ ?_ ?_ ?_ ?_ ?_ ?_ ?_ rfl rfl)
    | (exact .inl rfl)
    | (exact .inr rfl)
    | (show covers _ _ = true; rfl)
    | (split)

theorem State.saveRecorder_keeps {x1 s} : Keeps [.regs, .evr, .win 21] s (@State.saveRecorder x1 s) := by
  unfold State.saveRecorder
  show Walk true _ _ _
  repeat' first
    | (with_reducible exact Walk.refl)
    | (with_reducible apply Walk.step (k := State.flushRecorder_keeps))
    | (with_reducible apply Walk.step (k := State.endExtremes_keeps))
    | (with_reducible apply Walk.step (k := State.endHists_keeps))
    | (with_reducible refine Walk.update ?_ ?_ ?_ ?_ ?_ ?_ ?_ ?_ ?_ ?_ ?_ ?_ ?_ ?_ ?_ ?_ ?_ ?_ ?_ ?_ ?_ ?_ ?_ ?_ ?_ ?_ ?_ rfl rfl)
    | (exact .inl rfl)
    | (exact .inr rfl)
    | (show covers _ _ = true; rfl)

theorem State.noonSave_keeps {x1 s} : Keeps [.regs, .out, .cmd, .hbr, .vin, .pwr, .evr, .ing, .cod, .arc, .los, .par, .win 1, .win 8, .win 9, .win 10, .win 20, .win 21] s (@State.noonSave x1 s) := by
  unfold State.noonSave
  show Walk true _ _ _
  try dsimp only
  repeat' first
    | (with_reducible exact Walk.refl)
    | (with_reducible apply Walk.step (k := State.arcDusk_keeps))
    | (with_reducible apply Walk.step (k := State.codDusk_keeps))
    | (with_reducible apply Walk.step (k := State.formHists_keeps))
    | (with_reducible apply Walk.step (k := State.formOwed_keeps))
    | (with_reducible apply Walk.step (k := State.saveFences_keeps))
    | (with_reducible apply Walk.step (k := State.saveRecorder_keeps))
    | (with_reducible apply Walk.step (k := State.setIng_keeps))
    | (with_reducible apply Walk.ite)
    | (with_reducible apply Walk.foldl)
    | (with_reducible apply Walk.foldl1)
    | (with_reducible apply Walk.foldl2)
    | (intro _)
    | (with_reducible assumption)
    | (with_reducible refine Walk.update ?_ ?_ ?_ ?_ ?_ ?_ ?_ ?_ ?_ ?_ ?_ ?_ ?_ ?_ ?_ ?_ ?_ ?_ ?_ ?_ ?_ ?_ ?_ ?_ ?_ ?_ ?_ rfl rfl)
    | (exact .inl rfl)
    | (exact .inr rfl)
    | (show covers _ _ = true; rfl)
    | (split)

theorem State.duskDeclare_keeps {x1 s} : Keeps [.regs, .out, .dev, .seam, .cmd, .hbr, .vin, .pwr, .aon, .evr, .kvt, .ing, .plc, .rfx, .fse, .msh, .cod, .arc, .los, .met, .bil, .par, .upd, .win 0, .win 1, .win 4, .win 5, .win 7, .win 8, .win 9, .win 10, .win 14, .win 18, .win 20, .win 21] s (@State.duskDeclare x1 s) := by
  unfold State.duskDeclare
  show Walk true _ _ _
  try dsimp only
  repeat' first
    | (with_reducible exact Walk.refl)
    | (with_reducible apply Walk.step (k := State.duskRelease_keeps))
    | (with_reducible apply Walk.step (k := State.enterState_keeps))
    | (with_reducible apply Walk.step (k := State.gateNotices_keeps))
    | (with_reducible apply Walk.step (k := State.noonSave_keeps))
    | (with_reducible apply Walk.step (k := State.saveFirst_keeps))
    | (with_reducible apply Walk.step (k := State.seamSend_keeps))
    | (with_reducible apply Walk.step (k := State.setMet_keeps))
    | (with_reducible apply Walk.ite)
    | (with_reducible refine Walk.update ?_ ?_ ?_ ?_ ?_ ?_ ?_ ?_ ?_ ?_ ?_ ?_ ?_ ?_ ?_ ?_ ?_ ?_ ?_ ?_ ?_ ?_ ?_ ?_ ?_ ?_ ?_ rfl rfl)
    | (exact .inl rfl)
    | (exact .inr rfl)
    | (show covers _ _ = true; rfl)
    | (split)

theorem execSysRstNLow_keeps {s t} (h : @execSysRstNLow s = .next t) : Keeps [.regs, .out, .dev, .seam, .cmd, .hbr, .vin, .pwr, .aon, .evr, .kvt, .ing, .plc, .rfx, .fse, .msh, .cod, .arc, .los, .met, .bil, .par, .upd, .win 0, .win 1, .win 4, .win 5, .win 7, .win 8, .win 9, .win 10, .win 14, .win 18, .win 20, .win 21] s t := by
  unfold execSysRstNLow at h
  have e := Host.Outcome.next.inj h
  subst e
  clear h
  show Walk true _ _ _
  repeat' first
    | (with_reducible exact Walk.refl)
    | (with_reducible apply Walk.step (k := State.duskDeclare_keeps))
    | (with_reducible refine Walk.update ?_ ?_ ?_ ?_ ?_ ?_ ?_ ?_ ?_ ?_ ?_ ?_ ?_ ?_ ?_ ?_ ?_ ?_ ?_ ?_ ?_ ?_ ?_ ?_ ?_ ?_ ?_ rfl rfl)
    | (exact .inl rfl)
    | (exact .inr rfl)
    | (show covers _ _ = true; rfl)

theorem State.postNow_keeps {x1 x2 x3 x4 s} : Keeps [.regs, .out, .cmd, .hbr, .evr, .win 1, .win 2, .win 21] s (@State.postNow x1 x2 x3 x4 s) := by
  unfold State.postNow
  show Walk true _ _ _
  repeat' first
    | (with_reducible exact Walk.refl)
    | (with_reducible apply Walk.step (k := State.post_keeps))
    | (with_reducible apply Walk.step (k := State.dropCmd_keeps))
    | (with_reducible apply Walk.foldl)
    | (intro _)
    | (with_reducible refine Walk.update ?_ ?_ ?_ ?_ ?_ ?_ ?_ ?_ ?_ ?_ ?_ ?_ ?_ ?_ ?_ ?_ ?_ ?_ ?_ ?_ ?_ ?_ ?_ ?_ ?_ ?_ ?_ rfl rfl)
    | (exact .inl rfl)
    | (exact .inr rfl)
    | (show covers _ _ = true; rfl)
    | (split)

theorem State.arcSettle_keeps {s} : Keeps [.regs, .out, .cmd, .hbr, .ing, .arc, .bil, .win 0, .win 1, .win 10, .win 20] s (@State.arcSettle s) := by
  unfold State.arcSettle
  show Walk true _ _ _
  repeat' first
    | (with_reducible exact Walk.refl)
    | (with_reducible apply Walk.step (k := State.copyWritten_keeps))
    | (with_reducible apply Walk.step (k := State.pageCommit_keeps))
    | (with_reducible apply Walk.foldl)
    | (intro _)
    | (show covers _ _ = true; rfl)

theorem State.fullSave_keeps {x1 s} : Keeps [.regs, .out, .cmd, .hbr, .vin, .pwr, .evr, .ing, .cod, .arc, .los, .bil, .par, .win 0, .win 1, .win 8, .win 9, .win 10, .win 20, .win 21] s (@State.fullSave x1 s) := by
  unfold State.fullSave
  show Walk true _ _ _
  try dsimp only
  repeat' first
    | (with_reducible exact Walk.refl)
    | (with_reducible apply Walk.step (k := State.arcDusk_keeps))
    | (with_reducible apply Walk.step (k := State.arcDuskEnd_keeps))
    | (with_reducible apply Walk.step (k := State.arcSettle_keeps))
    | (with_reducible apply Walk.step (k := State.codDusk_keeps))
    | (with_reducible apply Walk.step (k := State.noonSave_keeps))
    | (with_reducible apply Walk.ite)
    | (with_reducible refine Walk.update ?_ ?_ ?_ ?_ ?_ ?_ ?_ ?_ ?_ ?_ ?_ ?_ ?_ ?_ ?_ ?_ ?_ ?_ ?_ ?_ ?_ ?_ ?_ ?_ ?_ ?_ ?_ rfl rfl)
    | (exact .inl rfl)
    | (exact .inr rfl)
    | (show covers _ _ = true; rfl)
    | (split)

theorem State.domainsOff_keeps {x1 s} : Keeps [.pwr] s (@State.domainsOff x1 s) := by
  unfold State.domainsOff
  show Walk true _ _ _
  repeat' first
    | (with_reducible exact Walk.refl)
    | (with_reducible refine Walk.update ?_ ?_ ?_ ?_ ?_ ?_ ?_ ?_ ?_ ?_ ?_ ?_ ?_ ?_ ?_ ?_ ?_ ?_ ?_ ?_ ?_ ?_ ?_ ?_ ?_ ?_ ?_ rfl rfl)
    | (exact .inl rfl)
    | (exact .inr rfl)

theorem State.keptFrom_walk {b ps s0 s t} (h : Walk true ps s0 s) (k : Walk true ps s t) (h_regs : may ps 0 = true)
    (h_cmd : may ps 5 = true) (h_evr : may ps 11 = true) : Walk b ps s0 (State.keptFrom s t) :=
  Walk.putBack h k h_regs h_cmd h_evr

theorem State.dropRegs_keeps {p s} : Keeps [.regs, .wins] s (State.dropRegs p s) := by
  refine ⟨rfl, fun q hq => ?_, fun h => ?_, fun h => h⟩
  · cases q <;> first | rfl | exact trivial | cases hq
  · obtain ⟨hs, ha⟩ := Bool.and_eq_true_iff.1 h
    exact Bool.and_eq_true_iff.2 ⟨Tab.sorted_filter hs, List.all_eq_true.2 fun e he => List.all_eq_true.1 ha e (List.mem_filter.1 he).1⟩

theorem State.regsOff_keeps {x1 s} : Keeps [.regs, .wins] s (@State.regsOff s x1) := by
  unfold State.regsOff
  show Walk true _ _ _
  try dsimp only
  repeat' first
    | (with_reducible exact Walk.refl)
    | (with_reducible apply Walk.step (k := State.dropRegs_keeps))
    | (with_reducible apply Walk.step (k := State.holdCause_keeps))
    | (show covers _ _ = true; rfl)
    | (split)

theorem State.noonOff_keeps {x1 s} : Keeps [.regs, .out, .dev, .seam, .cmd, .hbr, .fab, .vin, .evr, .tim, .kvt, .ing, .plc, .rfx, .fse, .msh, .cod, .arc, .los, .bil, .par, .upd, .svc, .wins] s (@State.noonOff x1 s) := by
  unfold State.noonOff
  show Walk true _ _ _
  try dsimp only
  repeat' first
    | (with_reducible exact Walk.refl)
    | (with_reducible apply Walk.step (k := State.emit_keeps))
    | (with_reducible apply Walk.step (k := State.regsOff_keeps))
    | (with_reducible apply Walk.step (k := State.rfPinsOff_keeps))
    | (with_reducible apply Walk.ite)
    | (with_reducible apply Walk.foldl)
    | (with_reducible apply Walk.foldl1)
    | (with_reducible apply Walk.foldl2)
    | (intro _)
    | (with_reducible assumption)
    | (with_reducible refine Walk.update ?_ ?_ ?_ ?_ ?_ ?_ ?_ ?_ ?_ ?_ ?_ ?_ ?_ ?_ ?_ ?_ ?_ ?_ ?_ ?_ ?_ ?_ ?_ ?_ ?_ ?_ ?_ rfl rfl)
    | (exact .inl rfl)
    | (exact .inr rfl)
    | (show covers _ _ = true; rfl)
    | (split)

theorem State.enterRecovery_keeps {x1 x2 s} : Keeps [.regs, .out, .dev, .seam, .cmd, .hbr, .fab, .vin, .pwr, .aon, .evr, .tim, .kvt, .ing, .plc, .rfx, .fse, .msh, .cod, .arc, .los, .bil, .par, .upd, .svc, .wins] s (@State.enterRecovery x1 x2 s) := by
  unfold State.enterRecovery
  show Walk true _ _ _
  try dsimp only
  repeat' first
    | (with_reducible exact Walk.refl)
    | (with_reducible apply Walk.step (k := State.domUp_keeps))
    | (with_reducible apply Walk.step (k := State.domainsOff_keeps))
    | (with_reducible apply Walk.step (k := State.enterState_keeps))
    | (with_reducible apply Walk.step (k := State.fullSave_keeps))
    | (with_reducible apply Walk.step (k := State.gateNotices_keeps))
    | (with_reducible apply Walk.step (k := State.noonOff_keeps))
    | (with_reducible apply Walk.step (k := State.saveFirst_keeps))
    | (with_reducible apply Walk.ite)
    | (with_reducible apply Walk.foldl)
    | (with_reducible apply Walk.foldl1)
    | (with_reducible apply Walk.foldl2)
    | (intro _)
    | (with_reducible assumption)
    | (show covers _ _ = true; rfl)
    | (with_reducible apply State.keptFrom_walk)
    | (exact .inl rfl)
    | (exact .inr rfl)
    | (show may _ _ = true; rfl)
    | (split)

theorem State.noteSave_keeps {x1 x2 s} : Keeps [.pwr] s (@State.noteSave x1 x2 s) := by
  unfold State.noteSave
  show Walk true _ _ _
  repeat' first
    | (with_reducible exact Walk.refl)
    | (with_reducible refine Walk.update ?_ ?_ ?_ ?_ ?_ ?_ ?_ ?_ ?_ ?_ ?_ ?_ ?_ ?_ ?_ ?_ ?_ ?_ ?_ ?_ ?_ ?_ ?_ ?_ ?_ ?_ ?_ rfl rfl)
    | (exact .inl rfl)
    | (exact .inr rfl)

theorem State.oweNothing_keeps {s} : Keeps [.cmd] s (@State.oweNothing s) := by
  unfold State.oweNothing
  show Walk true _ _ _
  repeat' first
    | (with_reducible exact Walk.refl)
    | (with_reducible refine Walk.update ?_ ?_ ?_ ?_ ?_ ?_ ?_ ?_ ?_ ?_ ?_ ?_ ?_ ?_ ?_ ?_ ?_ ?_ ?_ ?_ ?_ ?_ ?_ ?_ ?_ ?_ ?_ rfl rfl)
    | (exact .inl rfl)
    | (exact .inr rfl)

theorem State.thermUp_keeps {s} : Keeps [.out, .pwr] s (@State.thermUp s) := by
  unfold State.thermUp
  show Walk true _ _ _
  repeat' first
    | (with_reducible exact Walk.refl)
    | (with_reducible apply Walk.step (k := State.emit_keeps))
    | (with_reducible refine Walk.update ?_ ?_ ?_ ?_ ?_ ?_ ?_ ?_ ?_ ?_ ?_ ?_ ?_ ?_ ?_ ?_ ?_ ?_ ?_ ?_ ?_ ?_ ?_ ?_ ?_ ?_ ?_ rfl rfl)
    | (exact .inl rfl)
    | (exact .inr rfl)
    | (show covers _ _ = true; rfl)

theorem State.midOff_keeps {s} : Keeps [.out, .met] s (@State.midOff s) := by
  unfold State.midOff
  show Walk true _ _ _
  try dsimp only
  repeat' first
    | (with_reducible exact Walk.refl)
    | (with_reducible apply Walk.step (k := State.emit_keeps))
    | (with_reducible apply Walk.step (k := State.ledLook_keeps))
    | (with_reducible apply Walk.ite)
    | (with_reducible refine Walk.update ?_ ?_ ?_ ?_ ?_ ?_ ?_ ?_ ?_ ?_ ?_ ?_ ?_ ?_ ?_ ?_ ?_ ?_ ?_ ?_ ?_ ?_ ?_ ?_ ?_ ?_ ?_ rfl rfl)
    | (exact .inl rfl)
    | (exact .inr rfl)
    | (show covers _ _ = true; rfl)
    | (split)

theorem State.duskSaved_keeps {x1 x2 s} : Keeps [.regs, .out, .dev, .seam, .cmd, .hbr, .fab, .vin, .pwr, .evr, .tim, .kvt, .ing, .plc, .rfx, .fse, .msh, .cod, .arc, .los, .met, .bil, .par, .upd, .svc, .wins] s (@State.duskSaved x1 x2 s) := by
  unfold State.duskSaved
  show Walk true _ _ _
  try dsimp only
  repeat' first
    | (with_reducible exact Walk.refl)
    | (with_reducible apply Walk.step (k := State.arcDuskEnd_keeps))
    | (with_reducible apply Walk.step (k := State.domainsOff_keeps))
    | (with_reducible apply Walk.step (k := State.midOff_keeps))
    | (with_reducible apply Walk.step (k := State.noonOff_keeps))
    | (with_reducible apply Walk.step (k := State.noteSave_keeps))
    | (with_reducible apply Walk.step (k := State.oweNothing_keeps))
    | (with_reducible apply Walk.step (k := State.thermUp_keeps))
    | (with_reducible apply Walk.ite)
    | (show covers _ _ = true; rfl)
    | (split)

theorem State.nightFall_keeps {s} : Keeps [.regs, .out, .dev, .seam, .cmd, .hbr, .fab, .vin, .pwr, .aon, .evr, .tim, .kvt, .ing, .plc, .rfx, .fse, .msh, .cod, .arc, .los, .met, .bil, .par, .upd, .svc, .wins] s (@State.nightFall s) := by
  unfold State.nightFall
  show Walk true _ _ _
  repeat' first
    | (with_reducible exact Walk.refl)
    | (with_reducible apply Walk.step (k := State.duskSaved_keeps))
    | (with_reducible apply Walk.step (k := State.enterState_keeps))
    | (with_reducible apply Walk.step (k := State.domainsOff_keeps))
    | (with_reducible apply Walk.ite)
    | (with_reducible refine Walk.update ?_ ?_ ?_ ?_ ?_ ?_ ?_ ?_ ?_ ?_ ?_ ?_ ?_ ?_ ?_ ?_ ?_ ?_ ?_ ?_ ?_ ?_ ?_ ?_ ?_ ?_ ?_ rfl rfl)
    | (exact .inl rfl)
    | (exact .inr rfl)
    | (show covers _ _ = true; rfl)

theorem State.startDawn_keeps {x1 x2 x3 s} : Keeps [.regs, .dev, .seam, .cmd, .fab, .pwr, .evr, .wins] s (@State.startDawn x1 x2 x3 s) := by
  unfold State.startDawn
  show Walk true _ _ _
  try dsimp only
  repeat' first
    | (with_reducible exact Walk.refl)
    | (with_reducible apply Walk.step (k := State.domUp_keeps))
    | (with_reducible apply Walk.step (k := State.dropRegs_keeps))
    | (with_reducible apply Walk.step (k := State.holdCause_keeps))
    | (with_reducible apply Walk.step (k := State.rampOne_keeps))
    | (with_reducible apply Walk.step (k := State.setPair_keeps))
    | (with_reducible apply Walk.step (k := State.setReg_keeps))
    | (with_reducible apply Walk.ite)
    | (with_reducible refine Walk.update ?_ ?_ ?_ ?_ ?_ ?_ ?_ ?_ ?_ ?_ ?_ ?_ ?_ ?_ ?_ ?_ ?_ ?_ ?_ ?_ ?_ ?_ ?_ ?_ ?_ ?_ ?_ rfl rfl)
    | (exact .inl rfl)
    | (exact .inr rfl)
    | (show covers _ _ = true; rfl)
    | (split)

theorem State.noonRestart_keeps {x1 s} : Keeps [.regs, .out, .dev, .seam, .cmd, .hbr, .fab, .vin, .pwr, .aon, .evr, .tim, .kvt, .ing, .plc, .rfx, .fse, .msh, .cod, .arc, .los, .bil, .par, .upd, .svc, .wins] s (@State.noonRestart x1 s) := by
  unfold State.noonRestart
  show Walk true _ _ _
  try dsimp only
  repeat' first
    | (with_reducible exact Walk.refl)
    | (with_reducible apply Walk.step (k := State.codeHead_keeps))
    | (with_reducible apply Walk.step (k := State.domainsOff_keeps))
    | (with_reducible apply Walk.step (k := State.dropSends_keeps))
    | (with_reducible apply Walk.step (k := State.fullSave_keeps))
    | (with_reducible apply Walk.step (k := State.leaveHead_keeps))
    | (with_reducible apply Walk.step (k := State.noonOff_keeps))
    | (with_reducible apply Walk.step (k := State.saveFirst_keeps))
    | (with_reducible apply Walk.step (k := State.startDawn_keeps))
    | (with_reducible apply Walk.step (k := State.truncateFrames_keeps))
    | (with_reducible apply Walk.ite)
    | (with_reducible apply Walk.foldl)
    | (with_reducible apply Walk.foldl1)
    | (with_reducible apply Walk.foldl2)
    | (intro _)
    | (with_reducible assumption)
    | (with_reducible refine Walk.update ?_ ?_ ?_ ?_ ?_ ?_ ?_ ?_ ?_ ?_ ?_ ?_ ?_ ?_ ?_ ?_ ?_ ?_ ?_ ?_ ?_ ?_ ?_ ?_ ?_ ?_ ?_ rfl rfl)
    | (exact .inl rfl)
    | (exact .inr rfl)
    | (show covers _ _ = true; rfl)
    | (split)

theorem execSfailNLow_keeps {s t} (h : @execSfailNLow s = .next t) : Keeps [.regs, .out, .dev, .seam, .cmd, .hbr, .vin, .pwr, .aon, .evr, .kvt, .ing, .plc, .rfx, .fse, .msh, .cod, .arc, .los, .met, .bil, .par, .upd, .win 0, .win 1, .win 4, .win 5, .win 7, .win 8, .win 9, .win 10, .win 14, .win 18, .win 20, .win 21] s t := by
  unfold execSfailNLow at h
  have e := Host.Outcome.next.inj h
  subst e
  clear h
  show Walk true _ _ _
  repeat' first
    | (with_reducible exact Walk.refl)
    | (with_reducible apply Walk.step (k := State.duskDeclare_keeps))
    | (with_reducible refine Walk.update ?_ ?_ ?_ ?_ ?_ ?_ ?_ ?_ ?_ ?_ ?_ ?_ ?_ ?_ ?_ ?_ ?_ ?_ ?_ ?_ ?_ ?_ ?_ ?_ ?_ ?_ ?_ rfl rfl)
    | (exact .inl rfl)
    | (exact .inr rfl)
    | (show covers _ _ = true; rfl)

theorem execSysRstNRise_keeps {s t} (h : @execSysRstNRise s = .next t) : Keeps [.regs, .dev, .seam, .cmd, .fab, .pwr, .evr, .wins] s t := by
  unfold execSysRstNRise at h
  have e := Host.Outcome.next.inj h
  subst e
  clear h
  show Walk true _ _ _
  repeat' first
    | (with_reducible exact Walk.refl)
    | (with_reducible apply Walk.step (k := State.startDawn_keeps))
    | (with_reducible apply Walk.ite)
    | (with_reducible refine Walk.update ?_ ?_ ?_ ?_ ?_ ?_ ?_ ?_ ?_ ?_ ?_ ?_ ?_ ?_ ?_ ?_ ?_ ?_ ?_ ?_ ?_ ?_ ?_ ?_ ?_ ?_ ?_ rfl rfl)
    | (exact .inl rfl)
    | (exact .inr rfl)
    | (show covers _ _ = true; rfl)

theorem State.deliverOwed_keeps {s} : Keeps [.regs, .out, .cmd, .hbr, .win 1] s (@State.deliverOwed s) := by
  unfold State.deliverOwed
  show Walk true _ _ _
  repeat' first
    | (with_reducible exact Walk.refl)
    | (with_reducible apply Walk.step (k := State.holdNotice_keeps))
    | (with_reducible apply Walk.step (k := State.holdOwed_keeps))
    | (with_reducible apply Walk.foldl)
    | (intro _)
    | (with_reducible refine Walk.update ?_ ?_ ?_ ?_ ?_ ?_ ?_ ?_ ?_ ?_ ?_ ?_ ?_ ?_ ?_ ?_ ?_ ?_ ?_ ?_ ?_ ?_ ?_ ?_ ?_ ?_ ?_ rfl rfl)
    | (exact .inl rfl)
    | (exact .inr rfl)
    | (show covers _ _ = true; rfl)

theorem execVsenseFail_keeps {x1 s t} (h : @execVsenseFail x1 s = .next t) : Keeps [.regs, .out, .dev, .seam, .cmd, .hbr, .vin, .pwr, .aon, .evr, .kvt, .ing, .plc, .rfx, .fse, .msh, .cod, .arc, .los, .met, .bil, .par, .upd, .win 0, .win 1, .win 4, .win 5, .win 7, .win 8, .win 9, .win 10, .win 14, .win 18, .win 20, .win 21] s t := by
  unfold execVsenseFail at h
  have e := Host.Outcome.next.inj h
  subst e
  clear h
  show Walk true _ _ _
  repeat' first
    | (with_reducible exact Walk.refl)
    | (with_reducible apply Walk.step (k := State.duskDeclare_keeps))
    | (with_reducible apply Walk.ite)
    | (with_reducible refine Walk.update ?_ ?_ ?_ ?_ ?_ ?_ ?_ ?_ ?_ ?_ ?_ ?_ ?_ ?_ ?_ ?_ ?_ ?_ ?_ ?_ ?_ ?_ ?_ ?_ ?_ ?_ ?_ rfl rfl)
    | (exact .inl rfl)
    | (exact .inr rfl)
    | (show covers _ _ = true; rfl)

theorem State.vbatGone_keeps {s} : Keeps [.aon, .met] s (@State.vbatGone s) := by
  unfold State.vbatGone
  show Walk true _ _ _
  repeat' first
    | (with_reducible exact Walk.refl)
    | (with_reducible refine Walk.update ?_ ?_ ?_ ?_ ?_ ?_ ?_ ?_ ?_ ?_ ?_ ?_ ?_ ?_ ?_ ?_ ?_ ?_ ?_ ?_ ?_ ?_ ?_ ?_ ?_ ?_ ?_ rfl rfl)
    | (exact .inl rfl)
    | (exact .inr rfl)

theorem State.duskLeave_keeps {s} : Keeps [.regs, .dev, .seam, .cmd, .fab, .pwr, .evr, .wins] s (@State.duskLeave s) := by
  unfold State.duskLeave
  show Walk true _ _ _
  repeat' first
    | (with_reducible exact Walk.refl)
    | (with_reducible apply Walk.step (k := State.startDawn_keeps))
    | (show covers _ _ = true; rfl)
    | (split)

theorem execDuskSaveEnd_keeps {x1 x2 s t} (h : @execDuskSaveEnd x1 x2 s = .next t) : Keeps [.regs, .out, .dev, .seam, .cmd, .hbr, .fab, .vin, .pwr, .evr, .tim, .kvt, .ing, .plc, .rfx, .fse, .msh, .cod, .arc, .los, .met, .bil, .par, .upd, .svc, .wins] s t := by
  unfold execDuskSaveEnd at h
  have e := Host.Outcome.next.inj h
  subst e
  clear h
  show Walk true _ _ _
  repeat' first
    | (with_reducible exact Walk.refl)
    | (with_reducible apply Walk.step (k := State.duskLeave_keeps))
    | (with_reducible apply Walk.step (k := State.duskSaved_keeps))
    | (show covers _ _ = true; rfl)

theorem execReferenceLoss_keeps {s t} (h : @execReferenceLoss s = .next t) : Keeps [.regs, .out, .dev, .seam, .cmd, .hbr, .vin, .pwr, .aon, .evr, .kvt, .ing, .plc, .rfx, .fse, .msh, .cod, .arc, .los, .met, .bil, .par, .upd, .win 0, .win 1, .win 3, .win 4, .win 5, .win 7, .win 8, .win 9, .win 10, .win 14, .win 18, .win 20, .win 21] s t := by
  unfold execReferenceLoss at h
  have e := Host.Outcome.next.inj h
  subst e
  clear h
  show Walk true _ _ _
  repeat' first
    | (with_reducible exact Walk.refl)
    | (with_reducible apply Walk.step (k := State.duskDeclare_keeps))
    | (with_reducible apply Walk.step (k := State.bump_keeps))
    | (exact .inl rfl)
    | (exact .inr rfl)
    | (show covers _ _ = true; rfl)
    | (split)
    | (with_reducible refine Walk.update ?_ ?_ ?_ ?_ ?_ ?_ ?_ ?_ ?_ ?_ ?_ ?_ ?_ ?_ ?_ ?_ ?_ ?_ ?_ ?_ ?_ ?_ ?_ ?_ ?_ ?_ ?_ rfl rfl)

theorem State.nightEnd_keeps {s} : Keeps [.aon] s (@State.nightEnd s) := by
  unfold State.nightEnd
  show Walk true _ _ _
  repeat' first
    | (with_reducible exact Walk.refl)
    | (with_reducible refine Walk.update ?_ ?_ ?_ ?_ ?_ ?_ ?_ ?_ ?_ ?_ ?_ ?_ ?_ ?_ ?_ ?_ ?_ ?_ ?_ ?_ ?_ ?_ ?_ ?_ ?_ ?_ ?_ rfl rfl)
    | (exact .inl rfl)
    | (exact .inr rfl)

theorem State.supplyOn_keeps {s} : Keeps [.pwr] s (@State.supplyOn s) := by
  unfold State.supplyOn
  show Walk true _ _ _
  repeat' first
    | (with_reducible exact Walk.refl)
    | (with_reducible refine Walk.update ?_ ?_ ?_ ?_ ?_ ?_ ?_ ?_ ?_ ?_ ?_ ?_ ?_ ?_ ?_ ?_ ?_ ?_ ?_ ?_ ?_ ?_ ?_ ?_ ?_ ?_ ?_ rfl rfl)
    | (exact .inl rfl)
    | (exact .inr rfl)

theorem execSupplyValid_keeps {x1 s t} (h : @execSupplyValid x1 s = .next t) : Keeps [.regs, .dev, .seam, .cmd, .fab, .pwr, .aon, .evr, .met, .wins] s t := by
  unfold execSupplyValid at h
  have e := Host.Outcome.next.inj h
  subst e
  clear h
  show Walk true _ _ _
  try dsimp only
  repeat' first
    | (with_reducible exact Walk.refl)
    | (with_reducible apply Walk.step (k := State.supplyOn_keeps))
    | (with_reducible apply Walk.step (k := State.duskLeave_keeps))
    | (with_reducible apply Walk.step (k := State.startDawn_keeps))
    | (with_reducible apply Walk.step (k := State.nightEnd_keeps))
    | (with_reducible apply Walk.step (k := State.vbatGone_keeps))
    | (show covers _ _ = true; rfl)
    | (split)

theorem execSupplySwitchover_keeps {s t} (h : @execSupplySwitchover s = .next t) : Keeps [.regs, .out, .dev, .seam, .cmd, .hbr, .fab, .vin, .pwr, .aon, .evr, .tim, .kvt, .ing, .plc, .rfx, .fse, .msh, .cod, .arc, .los, .met, .bil, .par, .upd, .svc, .wins] s t := by
  unfold execSupplySwitchover at h
  have e := Host.Outcome.next.inj h
  subst e
  clear h
  show Walk true _ _ _
  repeat' first
    | (with_reducible exact Walk.refl)
    | (with_reducible apply Walk.step (k := State.nightFall_keeps))
    | (show covers _ _ = true; rfl)

end Sys2Proof.Machine
end

