-- ==== Sys2Proof/Laws/KeepsSign.lean ====
section
/-! SUPPORT. What each operation of Sign can change, and that it keeps the canonical forms. -/
set_option Elab.async false
namespace Sys2Proof.Machine

theorem State.signed_keeps {s} : Keeps [.regs, .win 14] s (@State.signed s) := by
  unfold State.signed
  show Walk true _ _ _
  repeat' first
    | (with_reducible exact Walk.refl)
    | (with_reducible apply Walk.step (k := State.bump_keeps))
    | (show covers _ _ = true; rfl)

end Sys2Proof.Machine
end

