-- ==== Sys2Proof/Laws/KeepsKey.lean ====
section
/-! SUPPORT. What each operation of Key can change, and that it keeps the canonical forms. -/
set_option Elab.async false
namespace Sys2Proof.Machine

theorem State.deliverNkek_keeps {s} : Keeps [.kvt] s (@State.deliverNkek s) := by
  unfold State.deliverNkek
  show Walk true _ _ _
  repeat' first
    | (with_reducible exact Walk.refl)
    | (with_reducible apply Walk.step (k := State.setKvt_keeps))
    | (show covers _ _ = true; rfl)

theorem State.putKey_keeps {x1 x2 x3 x4 x5 x6 x7 s} : Keeps [.regs, .out, .freeCtr, .seam, .cmd, .hbr, .kvt, .ing, .bil, .win 1, .win 14] s (@State.putKey x1 x2 x3 x4 x5 x6 x7 s) := by
  unfold State.putKey
  show Walk true _ _ _
  try dsimp only
  repeat' first
    | (with_reducible exact Walk.refl)
    | (with_reducible apply Walk.step (k := State.reply_keeps))
    | (with_reducible apply Walk.step (k := State.startKeyOp_keeps))
    | (show covers _ _ = true; rfl)
    | (split)

theorem State.generateKey_keeps {x1 x2 x3 x4 x5 x6 s} : Keeps [.regs, .out, .freeCtr, .seam, .cmd, .hbr, .kvt, .ing, .bil, .win 1, .win 14] s (@State.generateKey x1 x2 x3 x4 x5 x6 s) := by
  unfold State.generateKey
  show Walk true _ _ _
  try dsimp only
  repeat' first
    | (with_reducible exact Walk.refl)
    | (with_reducible apply Walk.step (k := State.reply_keeps))
    | (with_reducible apply Walk.step (k := State.putKey_keeps))
    | (with_reducible apply Walk.step (k := State.drawn_keeps))
    | (show covers _ _ = true; rfl)
    | (split)

theorem execKeyUpdateGenerate_keeps {x1 x2 x3 x4 x5 s t} (h : @execKeyUpdateGenerate x1 x2 x3 x4 x5 s = .next t) : Keeps [.regs, .out, .freeCtr, .seam, .cmd, .hbr, .kvt, .ing, .bil, .win 1, .win 14] s t := by
  unfold execKeyUpdateGenerate at h
  have e := Host.Outcome.next.inj h
  subst e
  clear h
  show Walk true _ _ _
  repeat' first
    | (with_reducible exact Walk.refl)
    | (with_reducible apply Walk.step (k := State.generateKey_keeps))
    | (show covers _ _ = true; rfl)

theorem State.plainKey_keeps {x1 x2 x3 x4 x5 x6 x7 s} : Keeps [.regs, .out, .freeCtr, .seam, .cmd, .hbr, .kvt, .ing, .bil, .win 1, .win 14] s (@State.plainKey x1 x2 x3 x4 x5 x6 x7 s) := by
  unfold State.plainKey
  show Walk true _ _ _
  try dsimp only
  repeat' first
    | (with_reducible exact Walk.refl)
    | (with_reducible apply Walk.step (k := State.reply_keeps))
    | (with_reducible apply Walk.step (k := State.putKey_keeps))
    | (show covers _ _ = true; rfl)
    | (split)

theorem execKeyUpdatePlain_keeps {x1 x2 x3 x4 x5 x6 s t} (h : @execKeyUpdatePlain x1 x2 x3 x4 x5 x6 s = .next t) : Keeps [.regs, .out, .freeCtr, .seam, .cmd, .hbr, .kvt, .ing, .bil, .win 1, .win 14] s t := by
  unfold execKeyUpdatePlain at h
  have e := Host.Outcome.next.inj h
  subst e
  clear h
  show Walk true _ _ _
  try dsimp only
  repeat' first
    | (with_reducible exact Walk.refl)
    | (with_reducible apply Walk.step (k := State.plainKey_keeps))
    | (with_reducible apply Walk.ite)
    | (show covers _ _ = true; rfl)
    | (split)

theorem execKeyStatus_keeps {x1 x2 x3 s t} (h : @execKeyStatus x1 x2 x3 s = .next t) : Keeps [.out, .cmd, .hbr, .bil] s t := by
  unfold execKeyStatus at h
  have e := Host.Outcome.next.inj h
  subst e
  clear h
  show Walk true _ _ _
  try dsimp only
  repeat' first
    | (with_reducible exact Walk.refl)
    | (with_reducible apply Walk.step (k := State.reply_keeps))
    | (with_reducible apply Walk.step (k := State.writeData_keeps))
    | (with_reducible apply Walk.step (k := State.replyWith_keeps))
    | (show covers _ _ = true; rfl)
    | (split)

theorem execKeyCreateSet_keeps {x1 x2 x3 s t} (h : @execKeyCreateSet x1 x2 x3 s = .next t) : Keeps [.regs, .out, .freeCtr, .seam, .cmd, .hbr, .kvt, .ing, .bil, .win 1, .win 14] s t := by
  unfold execKeyCreateSet at h
  have e := Host.Outcome.next.inj h
  subst e
  clear h
  show Walk true _ _ _
  try dsimp only
  repeat' first
    | (with_reducible exact Walk.refl)
    | (with_reducible apply Walk.step (k := State.reply_keeps))
    | (with_reducible apply Walk.step (k := State.startKeyOp_keeps))
    | (show covers _ _ = true; rfl)
    | (split)

theorem execKeyGenerate_keeps {x1 x2 x3 x4 x5 s t} (h : @execKeyGenerate x1 x2 x3 x4 x5 s = .next t) : Keeps [.regs, .out, .freeCtr, .seam, .cmd, .hbr, .kvt, .ing, .bil, .win 1, .win 14] s t := by
  unfold execKeyGenerate at h
  have e := Host.Outcome.next.inj h
  subst e
  clear h
  show Walk true _ _ _
  repeat' first
    | (with_reducible exact Walk.refl)
    | (with_reducible apply Walk.step (k := State.generateKey_keeps))
    | (show covers _ _ = true; rfl)

theorem State.lifeAdvance_keeps {x1 x2 s} : Keeps [.regs, .out, .freeCtr, .dev, .hbr, .evr, .kvt, .met, .win 1, .win 21, .life] s (@State.lifeAdvance x1 x2 s) := by
  unfold State.lifeAdvance
  have h : Walk true [.regs, .out, .freeCtr, .dev, .hbr, .evr, .kvt, .met, .win 1, .win 21, .life] s { s with dev := { s.dev with life := x1 } } := Walk.setLife Walk.refl (by rfl) (by rfl)
  revert h
  dsimp only
  generalize ({ s with dev := { s.dev with life := x1 } } : State) = u
  intro h
  show Walk true _ _ _
  try dsimp only
  repeat' first
    | (with_reducible exact Walk.refl)
    | (with_reducible assumption)
    | (with_reducible apply Walk.step (k := State.setKvt_keeps))
    | (with_reducible apply Walk.step (k := State.kvtNotice_keeps))
    | (with_reducible apply Walk.step (k := State.newChallenge_keeps))
    | (with_reducible apply Walk.step (k := State.deliverNkek_keeps))
    | (with_reducible apply Walk.step (k := State.sealEvent_keeps))
    | (with_reducible apply Walk.foldl)
    | (with_reducible apply Walk.foldl1)
    | (with_reducible apply Walk.foldl2)
    | (with_reducible apply Walk.ite)
    | (intro _)
    | (exact .inl rfl)
    | (exact .inr rfl)
    | (show covers _ _ = true; rfl)

theorem execKeyLifecycleAdvance_keeps {x1 x2 x3 x4 x5 x6 s t} (h : @execKeyLifecycleAdvance x1 x2 x3 x4 x5 x6 s = .next t) : Keeps [.regs, .out, .freeCtr, .dev, .cmd, .hbr, .evr, .kvt, .met, .bil, .win 1, .win 14, .win 21, .life] s t := by
  unfold execKeyLifecycleAdvance at h
  have e := Host.Outcome.next.inj h
  subst e
  clear h
  show Walk true _ _ _
  try dsimp only
  repeat' first
    | (with_reducible exact Walk.refl)
    | (with_reducible apply Walk.step (k := State.authUsed_keeps))
    | (with_reducible apply Walk.step (k := State.lifeAdvance_keeps))
    | (with_reducible apply Walk.step (k := State.reply_keeps))
    | (with_reducible apply Walk.step (k := State.wordFailed_keeps))
    | (with_reducible apply Walk.ite)
    | (show covers _ _ = true; rfl)
    | (split)

theorem execKeyDeleteSet_keeps {x1 x2 x3 s t} (h : @execKeyDeleteSet x1 x2 x3 s = .next t) : Keeps [.regs, .out, .freeCtr, .seam, .cmd, .hbr, .kvt, .ing, .bil, .win 1, .win 14] s t := by
  unfold execKeyDeleteSet at h
  have e := Host.Outcome.next.inj h
  subst e
  clear h
  show Walk true _ _ _
  try dsimp only
  repeat' first
    | (with_reducible exact Walk.refl)
    | (with_reducible apply Walk.step (k := State.reply_keeps))
    | (with_reducible apply Walk.step (k := State.startKeyOp_keeps))
    | (show covers _ _ = true; rfl)
    | (split)

theorem State.useTslot_keeps {x1 x2 s} : Keeps [.kvt] s (@State.useTslot x1 x2 s) := by
  unfold State.useTslot
  show Walk true _ _ _
  repeat' first
    | (with_reducible exact Walk.refl)
    | (with_reducible apply Walk.step (k := State.setKvt_keeps))
    | (show covers _ _ = true; rfl)

theorem State.wrappedKey_keeps {x1 x2 x3 x4 x5 x6 s} : Keeps [.regs, .out, .freeCtr, .seam, .cmd, .hbr, .kvt, .ing, .bil, .win 1, .win 14] s (@State.wrappedKey x1 x2 x3 x4 x5 x6 s) := by
  unfold State.wrappedKey
  show Walk true _ _ _
  try dsimp only
  repeat' first
    | (with_reducible exact Walk.refl)
    | (with_reducible apply Walk.step (k := State.reply_keeps))
    | (with_reducible apply Walk.step (k := State.useTslot_keeps))
    | (with_reducible apply Walk.step (k := State.putKey_keeps))
    | (show covers _ _ = true; rfl)
    | (split)

theorem execKeyUpdateWrapped_keeps {x1 x2 x3 x4 x5 s t} (h : @execKeyUpdateWrapped x1 x2 x3 x4 x5 s = .next t) : Keeps [.regs, .out, .freeCtr, .seam, .cmd, .hbr, .kvt, .ing, .bil, .win 1, .win 14] s t := by
  unfold execKeyUpdateWrapped at h
  have e := Host.Outcome.next.inj h
  subst e
  clear h
  show Walk true _ _ _
  try dsimp only
  repeat' first
    | (with_reducible exact Walk.refl)
    | (with_reducible apply Walk.step (k := State.wrappedKey_keeps))
    | (with_reducible apply Walk.ite)
    | (show covers _ _ = true; rfl)
    | (split)

theorem execKeyExport_keeps {x1 x2 x3 s t} (h : @execKeyExport x1 x2 x3 s = .next t) : Keeps [.regs, .out, .cmd, .hbr, .evr, .kvt, .bil, .win 14, .win 21] s t := by
  unfold execKeyExport at h
  have e := Host.Outcome.next.inj h
  subst e
  clear h
  show Walk true _ _ _
  try dsimp only
  repeat' first
    | (with_reducible exact Walk.refl)
    | (with_reducible apply Walk.step (k := State.reply_keeps))
    | (with_reducible apply Walk.step (k := State.unwrapFail_keeps))
    | (with_reducible apply Walk.step (k := State.bump_keeps))
    | (with_reducible apply Walk.step (k := State.writeData_keeps))
    | (with_reducible apply Walk.step (k := State.useTslot_keeps))
    | (show covers _ _ = true; rfl)
    | (split)

theorem execTransportSlotLapse_keeps {x1 x2 s t} (h : @execTransportSlotLapse x1 x2 s = .next t) : Keeps [.kvt] s t := by
  unfold execTransportSlotLapse at h
  have e := Host.Outcome.next.inj h
  subst e
  clear h
  show Walk true _ _ _
  repeat' first
    | (with_reducible exact Walk.refl)
    | (with_reducible apply Walk.step (k := State.setKvt_keeps))
    | (show covers _ _ = true; rfl)

theorem execKeyAgree_keeps {x1 x2 x3 x4 s t} (h : @execKeyAgree x1 x2 x3 x4 s = .next t) : Keeps [.regs, .out, .freeCtr, .cmd, .hbr, .kvt, .bil, .win 14] s t := by
  unfold execKeyAgree at h
  have e := Host.Outcome.next.inj h
  subst e
  clear h
  show Walk true _ _ _
  try dsimp only
  repeat' first
    | (with_reducible exact Walk.refl)
    | (with_reducible apply Walk.step (k := State.reply_keeps))
    | (with_reducible apply Walk.step (k := State.setKvt_keeps))
    | (with_reducible apply Walk.step (k := State.drawn_keeps))
    | (with_reducible apply Walk.step (k := State.writeData_keeps))
    | (with_reducible apply Walk.step (k := State.signed_keeps))
    | (with_reducible refine Walk.update ?_ ?_ ?_ ?_ ?_ ?_ ?_ ?_ ?_ ?_ ?_ ?_ ?_ ?_ ?_ ?_ ?_ ?_ ?_ ?_ ?_ ?_ ?_ ?_ ?_ ?_ ?_ rfl rfl)
    | (exact .inl rfl)
    | (exact .inr rfl)
    | (show covers _ _ = true; rfl)
    | (split)

theorem execKeyImportPlain_keeps {x1 x2 x3 x4 x5 x6 s t} (h : @execKeyImportPlain x1 x2 x3 x4 x5 x6 s = .next t) : Keeps [.regs, .out, .freeCtr, .seam, .cmd, .hbr, .kvt, .ing, .bil, .win 1, .win 14] s t := by
  unfold execKeyImportPlain at h
  have e := Host.Outcome.next.inj h
  subst e
  clear h
  show Walk true _ _ _
  try dsimp only
  repeat' first
    | (with_reducible exact Walk.refl)
    | (with_reducible apply Walk.step (k := State.plainKey_keeps))
    | (with_reducible apply Walk.ite)
    | (show covers _ _ = true; rfl)
    | (split)

theorem execKeyImportWrapped_keeps {x1 x2 x3 x4 x5 s t} (h : @execKeyImportWrapped x1 x2 x3 x4 x5 s = .next t) : Keeps [.regs, .out, .freeCtr, .seam, .cmd, .hbr, .kvt, .ing, .bil, .win 1, .win 14] s t := by
  unfold execKeyImportWrapped at h
  have e := Host.Outcome.next.inj h
  subst e
  clear h
  show Walk true _ _ _
  try dsimp only
  repeat' first
    | (with_reducible exact Walk.refl)
    | (with_reducible apply Walk.step (k := State.wrappedKey_keeps))
    | (with_reducible apply Walk.ite)
    | (show covers _ _ = true; rfl)
    | (split)

theorem execKeyMirrorUpdate_keeps {x1 s t} (h : @execKeyMirrorUpdate x1 s = .next t) : Keeps [.regs, .out, .seam, .cmd, .kvt, .ing, .fse, .bil, .win 14] s t := by
  unfold execKeyMirrorUpdate at h
  have e := Host.Outcome.next.inj h
  subst e
  clear h
  show Walk true _ _ _
  repeat' first
    | (with_reducible exact Walk.refl)
    | (with_reducible apply Walk.step (k := State.keyMirrored_keeps))
    | (show covers _ _ = true; rfl)

theorem execKeyAttest_keeps {x1 x2 x3 s t} (h : @execKeyAttest x1 x2 x3 s = .next t) : Keeps [.regs, .out, .cmd, .hbr, .bil, .win 14] s t := by
  unfold execKeyAttest at h
  have e := Host.Outcome.next.inj h
  subst e
  clear h
  show Walk true _ _ _
  repeat' first
    | (with_reducible exact Walk.refl)
    | (with_reducible apply Walk.step (k := State.reply_keeps))
    | (with_reducible apply Walk.step (k := State.writeData_keeps))
    | (with_reducible apply Walk.step (k := State.signed_keeps))
    | (show covers _ _ = true; rfl)
    | (split)

theorem execKeyInvalidate_keeps {x1 x2 x3 s t} (h : @execKeyInvalidate x1 x2 x3 s = .next t) : Keeps [.regs, .out, .freeCtr, .seam, .cmd, .hbr, .kvt, .ing, .bil, .win 1, .win 14] s t := by
  unfold execKeyInvalidate at h
  have e := Host.Outcome.next.inj h
  subst e
  clear h
  show Walk true _ _ _
  try dsimp only
  repeat' first
    | (with_reducible exact Walk.refl)
    | (with_reducible apply Walk.step (k := State.reply_keeps))
    | (with_reducible apply Walk.step (k := State.bump_keeps))
    | (with_reducible apply Walk.step (k := State.startKeyOp_keeps))
    | (with_reducible apply Walk.step (k := State.setKvt_keeps))
    | (split)
    | (with_reducible refine Walk.update ?_ ?_ ?_ ?_ ?_ ?_ ?_ ?_ ?_ ?_ ?_ ?_ ?_ ?_ ?_ ?_ ?_ ?_ ?_ ?_ ?_ ?_ ?_ ?_ ?_ ?_ ?_ rfl rfl)
    | (exact .inl rfl)
    | (exact .inr rfl)
    | (show covers _ _ = true; rfl)

end Sys2Proof.Machine
end

