-- ==== Sys2Proof/Laws/KeepsLosOps.lean ====
section
/-! SUPPORT. What each operation of LosOps can change, and that it keeps the canonical forms. -/
set_option Elab.async false
namespace Sys2Proof.Machine

theorem State.setLos_keeps {x1 s} : Keeps [.los] s (@State.setLos x1 s) := by
  unfold State.setLos
  show Walk true _ _ _
  repeat' first
    | (with_reducible exact Walk.refl)
    | (with_reducible refine Walk.update ?_ ?_ ?_ ?_ ?_ ?_ ?_ ?_ ?_ ?_ ?_ ?_ ?_ ?_ ?_ ?_ ?_ ?_ ?_ ?_ ?_ ?_ ?_ ?_ ?_ ?_ ?_ rfl rfl)
    | (exact .inl rfl)
    | (exact .inr rfl)

theorem State.losNotice_keeps {x1 x2 x3 x4 x5 x6 s} : Keeps [.regs, .out, .hbr, .win 1] s (@State.losNotice x1 x2 x3 x4 x5 x6 s) := by
  unfold State.losNotice
  show Walk true _ _ _
  repeat' first
    | (with_reducible exact Walk.refl)
    | (with_reducible apply Walk.step (k := State.event_keeps))
    | (show covers _ _ = true; rfl)

theorem State.moveFlag_keeps {x1 x2 x3 x4 s} : Keeps [.regs, .out, .hbr, .los, .win 1, .win 11] s (@State.moveFlag x1 x2 x3 x4 s) := by
  unfold State.moveFlag
  show Walk true _ _ _
  try dsimp only
  repeat' first
    | (with_reducible exact Walk.refl)
    | (with_reducible apply Walk.step (k := State.setLos_keeps))
    | (with_reducible apply Walk.step (k := State.bump_keeps))
    | (with_reducible apply Walk.step (k := State.losNotice_keeps))
    | (show covers _ _ = true; rfl)
    | (split)

theorem State.decided_keeps {x1 x2 x3 x4 x5 x6 x7 s} : Keeps [.regs, .out, .hbr, .los, .win 1, .win 11] s (@State.decided x1 x2 x3 x4 x5 x6 x7 s) := by
  unfold State.decided
  show Walk true _ _ _
  repeat' first
    | (with_reducible exact Walk.refl)
    | (with_reducible apply Walk.step (k := State.setLos_keeps))
    | (with_reducible apply Walk.step (k := State.moveFlag_keeps))
    | (show covers _ _ = true; rfl)

theorem State.storeResult_keeps {x1 x2 s} : Keeps [.los] s (@State.storeResult x1 x2 s) := by
  unfold State.storeResult
  show Walk true _ _ _
  repeat' first
    | (with_reducible exact Walk.refl)
    | (with_reducible apply Walk.step (k := State.setLos_keeps))
    | (show covers _ _ = true; rfl)

theorem State.closeNode_keeps {x1 x2 x3 x4 x5 s} : Keeps [.regs, .out, .hbr, .los, .win 1, .win 11] s (@State.closeNode x1 x2 x3 x4 x5 s).1 := by
  unfold State.closeNode
  show Walk true _ _ _
  try dsimp only
  repeat' first
    | (with_reducible exact Walk.refl)
    | (with_reducible apply Walk.step (k := State.decided_keeps))
    | (with_reducible apply Walk.step (k := State.storeResult_keeps))
    | (show covers _ _ = true; rfl)
    | (split)
theorem State.closeNode_keeps_of {x1 x2 x3 x4 x5 s a1 t} (h : @State.closeNode x1 x2 x3 x4 x5 s = (t, a1)) : Keeps [.regs, .out, .hbr, .los, .win 1, .win 11] s t := by
  have := @State.closeNode_keeps x1 x2 x3 x4 x5 s
  rw [h] at this
  exact this

theorem State.headLook_keeps {s} : Keeps [.regs, .out, .hbr, .los, .win 1] s (@State.headLook s) := by
  unfold State.headLook
  show Walk true _ _ _
  try dsimp only
  repeat' first
    | (with_reducible exact Walk.refl)
    | (with_reducible apply Walk.step (k := State.losNotice_keeps))
    | (with_reducible apply Walk.step (k := State.setLos_keeps))
    | (with_reducible apply Walk.ite)
    | (with_reducible refine Walk.update ?_ ?_ ?_ ?_ ?_ ?_ ?_ ?_ ?_ ?_ ?_ ?_ ?_ ?_ ?_ ?_ ?_ ?_ ?_ ?_ ?_ ?_ ?_ ?_ ?_ ?_ ?_ rfl rfl)
    | (exact .inl rfl)
    | (exact .inr rfl)
    | (show covers _ _ = true; rfl)
    | (split)

theorem State.closeNodes_keeps {x1 x2 x3 x4 s} : Keeps [.regs, .out, .hbr, .los, .win 1, .win 11] s (@State.closeNodes x1 x2 x3 x4 s) := by
  induction x3 generalizing x4 s with
  | nil => exact Keeps.refl
  | cons e t ih =>
    unfold State.closeNodes
    exact Keeps.trans State.closeNode_keeps ih

theorem State.takeCfg_keeps {s} : Keeps [.los] s (@State.takeCfg s) := by
  unfold State.takeCfg
  show Walk true _ _ _
  try dsimp only
  repeat' first
    | (with_reducible exact Walk.refl)
    | (with_reducible apply Walk.step (k := State.setLos_keeps))
    | (split)
    | (with_reducible refine Walk.update ?_ ?_ ?_ ?_ ?_ ?_ ?_ ?_ ?_ ?_ ?_ ?_ ?_ ?_ ?_ ?_ ?_ ?_ ?_ ?_ ?_ ?_ ?_ ?_ ?_ ?_ ?_ rfl rfl)
    | (exact .inl rfl)
    | (exact .inr rfl)
    | (show covers _ _ = true; rfl)

theorem State.closeLane_keeps {s} : Keeps [.regs, .out, .hbr, .los, .win 1, .win 11] s (@State.closeLane s) := by
  unfold State.closeLane
  show Walk true _ _ _
  try dsimp only
  repeat' first
    | (with_reducible exact Walk.refl)
    | (with_reducible apply Walk.step (k := State.bump_keeps))
    | (with_reducible apply Walk.step (k := State.closeNodes_keeps))
    | (with_reducible apply Walk.step (k := State.headLook_keeps))
    | (with_reducible apply Walk.step (k := State.maxReg_keeps))
    | (with_reducible apply Walk.step (k := State.setLos_keeps))
    | (with_reducible apply Walk.step (k := State.takeCfg_keeps))
    | (with_reducible apply Walk.ite)
    | (split)
    | (with_reducible refine Walk.update ?_ ?_ ?_ ?_ ?_ ?_ ?_ ?_ ?_ ?_ ?_ ?_ ?_ ?_ ?_ ?_ ?_ ?_ ?_ ?_ ?_ ?_ ?_ ?_ ?_ ?_ ?_ rfl rfl)
    | (exact .inl rfl)
    | (exact .inr rfl)
    | (show covers _ _ = true; rfl)

theorem State.closeDue_keeps {x1 s} : Keeps [.regs, .out, .hbr, .los, .win 1, .win 11] s (@State.closeDue x1 s) := by
  induction x1 generalizing s with
  | zero => exact Keeps.refl
  | succ n ih =>
    unfold State.closeDue
    show Walk true _ _ _
    repeat' first
      | (with_reducible apply Walk.step (k := ih))
      | (with_reducible exact Walk.refl)
      | (with_reducible assumption)
      | (with_reducible apply Walk.step (k := State.closeLane_keeps))
      | (with_reducible apply Walk.step (k := ih))
      | (with_reducible apply Walk.foldl)
      | (with_reducible apply Walk.foldl1)
      | (with_reducible apply Walk.foldl2)
      | (with_reducible apply Walk.ite)
      | (intro _)
      | (exact .inl rfl)
      | (exact .inr rfl)
      | (show covers _ _ = true; rfl)

theorem State.treeLook_keeps {s} : Keeps [.regs, .out, .hbr, .los, .win 1] s (@State.treeLook s) := by
  unfold State.treeLook
  show Walk true _ _ _
  try dsimp only
  repeat' first
    | (with_reducible exact Walk.refl)
    | (with_reducible apply Walk.step (k := State.losNotice_keeps))
    | (with_reducible apply Walk.step (k := State.setLos_keeps))
    | (with_reducible apply Walk.ite)
    | (with_reducible refine Walk.update ?_ ?_ ?_ ?_ ?_ ?_ ?_ ?_ ?_ ?_ ?_ ?_ ?_ ?_ ?_ ?_ ?_ ?_ ?_ ?_ ?_ ?_ ?_ ?_ ?_ ?_ ?_ rfl rfl)
    | (exact .inl rfl)
    | (exact .inr rfl)
    | (show covers _ _ = true; rfl)
    | (split)

theorem State.losStep_keeps {s} : Keeps [.regs, .out, .hbr, .los, .win 1, .win 11] s (@State.losStep s) := by
  unfold State.losStep
  show Walk true _ _ _
  try dsimp only
  repeat' first
    | (with_reducible exact Walk.refl)
    | (with_reducible apply Walk.step (k := State.closeDue_keeps))
    | (with_reducible apply Walk.step (k := State.treeLook_keeps))
    | (show covers _ _ = true; rfl)
    | (split)

theorem State.publishPhase_keeps {x1 s} : Keeps [.regs, .out, .hbr, .los, .win 1] s (@State.publishPhase x1 s) := by
  unfold State.publishPhase
  show Walk true _ _ _
  try dsimp only
  repeat' first
    | (with_reducible exact Walk.refl)
    | (with_reducible apply Walk.step (k := State.setLos_keeps))
    | (with_reducible apply Walk.step (k := State.losNotice_keeps))
    | (show covers _ _ = true; rfl)
    | (split)

theorem State.phaseSample_keeps {x1 x2 x3 x4 s} : Keeps [.regs, .out, .hbr, .los, .win 1, .win 11] s (@State.phaseSample x1 x2 x3 x4 s) := by
  unfold State.phaseSample
  show Walk true _ _ _
  try dsimp only
  repeat' first
    | (with_reducible exact Walk.refl)
    | (with_reducible apply Walk.step (k := State.bump_keeps))
    | (with_reducible apply Walk.step (k := State.publishPhase_keeps))
    | (with_reducible apply Walk.step (k := State.setLos_keeps))
    | (with_reducible apply Walk.ite)
    | (split)
    | (with_reducible refine Walk.update ?_ ?_ ?_ ?_ ?_ ?_ ?_ ?_ ?_ ?_ ?_ ?_ ?_ ?_ ?_ ?_ ?_ ?_ ?_ ?_ ?_ ?_ ?_ ?_ ?_ ?_ ?_ rfl rfl)
    | (exact .inl rfl)
    | (exact .inr rfl)
    | (show covers _ _ = true; rfl)

theorem State.takeProfile_keeps {x1 s} : Keeps [.regs, .out, .hbr, .los, .win 1, .win 11] s (@State.takeProfile x1 s) := by
  unfold State.takeProfile
  show Walk true _ _ _
  try dsimp only
  repeat' first
    | (with_reducible exact Walk.refl)
    | (with_reducible apply Walk.step (k := State.bump_keeps))
    | (with_reducible apply Walk.step (k := State.phaseSample_keeps))
    | (with_reducible apply Walk.ite)
    | (with_reducible apply Walk.foldl)
    | (with_reducible apply Walk.foldl1)
    | (with_reducible apply Walk.foldl2)
    | (intro _)
    | (with_reducible assumption)
    | (split)
    | (show covers _ _ = true; rfl)

theorem State.lateResult_keeps {x1 x2 s} : Keeps [.regs, .los, .win 11] s (@State.lateResult x1 x2 s) := by
  unfold State.lateResult
  show Walk true _ _ _
  repeat' first
    | (with_reducible exact Walk.refl)
    | (with_reducible apply Walk.step (k := State.setLos_keeps))
    | (with_reducible apply Walk.step (k := State.bump_keeps))
    | (show covers _ _ = true; rfl)

theorem State.modLane_keeps {x1 x2 s} : Keeps [.los] s (@State.modLane x1 x2 s) := by
  unfold State.modLane
  show Walk true _ _ _
  repeat' first
    | (with_reducible exact Walk.refl)
    | (with_reducible apply Walk.step (k := State.setLos_keeps))
    | (show covers _ _ = true; rfl)

theorem State.takeEnergy_keeps {x1 s} : Keeps [.regs, .los, .win 11] s (@State.takeEnergy x1 s) := by
  unfold State.takeEnergy
  show Walk true _ _ _
  try dsimp only
  repeat' first
    | (with_reducible exact Walk.refl)
    | (with_reducible apply Walk.step (k := State.bump_keeps))
    | (with_reducible apply Walk.step (k := State.lateResult_keeps))
    | (with_reducible apply Walk.step (k := State.modLane_keeps))
    | (with_reducible apply Walk.ite)
    | (split)
    | (with_reducible refine Walk.update ?_ ?_ ?_ ?_ ?_ ?_ ?_ ?_ ?_ ?_ ?_ ?_ ?_ ?_ ?_ ?_ ?_ ?_ ?_ ?_ ?_ ?_ ?_ ?_ ?_ ?_ ?_ rfl rfl)
    | (exact .inl rfl)
    | (exact .inr rfl)
    | (show covers _ _ = true; rfl)

end Sys2Proof.Machine
end

