-- ==== Sys2Proof/Laws/KeepsStepHooks.lean ====
section
/-! SUPPORT. What each operation of StepHooks can change, and that it keeps the canonical forms. -/
set_option Elab.async false
namespace Sys2Proof.Machine

theorem State.stepHook_keeps {s} : Keeps [.regs, .out, .hbr, .los, .win 1, .win 11] s (@State.stepHook s) := by
  unfold State.stepHook
  show Walk true _ _ _
  repeat' first
    | (with_reducible exact Walk.refl)
    | (with_reducible apply Walk.step (k := State.losStep_keeps))
    | (show covers _ _ = true; rfl)

end Sys2Proof.Machine
end

