-- ==== Sys2Proof/Laws/KeepsTim.lean ====
section
/-! SUPPORT. What each operation of Tim can change, and that it keeps the canonical forms. -/
set_option Elab.async false
namespace Sys2Proof.Machine

theorem State.setTim_keeps {x1 s} : Keeps [.tim] s (@State.setTim x1 s) := by
  unfold State.setTim
  show Walk true _ _ _
  repeat' first
    | (with_reducible exact Walk.refl)
    | (with_reducible refine Walk.update ?_ ?_ ?_ ?_ ?_ ?_ ?_ ?_ ?_ ?_ ?_ ?_ ?_ ?_ ?_ ?_ ?_ ?_ ?_ ?_ ?_ ?_ ?_ ?_ ?_ ?_ ?_ rfl rfl)
    | (exact .inl rfl)
    | (exact .inr rfl)

theorem State.setSource_keeps {x1 x2 s} : Keeps [.tim] s (@State.setSource x1 x2 s) := by
  unfold State.setSource
  show Walk true _ _ _
  repeat' first
    | (with_reducible exact Walk.refl)
    | (with_reducible apply Walk.step (k := State.setTim_keeps))
    | (show covers _ _ = true; rfl)

theorem State.timNotice_keeps {x1 x2 x3 s} : Keeps [.regs, .out, .hbr, .win 1] s (@State.timNotice x1 x2 x3 s) := by
  unfold State.timNotice
  show Walk true _ _ _
  repeat' first
    | (with_reducible exact Walk.refl)
    | (with_reducible apply Walk.step (k := State.event_keeps))
    | (show covers _ _ = true; rfl)

theorem State.timeState_keeps {x1 x2 s} : Keeps [.regs, .out, .hbr, .tim, .win 1] s (@State.timeState x1 x2 s) := by
  unfold State.timeState
  show Walk true _ _ _
  try dsimp only
  repeat' first
    | (with_reducible exact Walk.refl)
    | (with_reducible apply Walk.step (k := State.setTim_keeps))
    | (with_reducible apply Walk.step (k := State.timNotice_keeps))
    | (show covers _ _ = true; rfl)
    | (split)

theorem State.enterHoldover_keeps {x1 s} : Keeps [.regs, .out, .hbr, .tim, .win 1] s (@State.enterHoldover x1 s) := by
  unfold State.enterHoldover
  show Walk true _ _ _
  repeat' first
    | (with_reducible exact Walk.refl)
    | (with_reducible apply Walk.step (k := State.timeState_keeps))
    | (with_reducible apply Walk.step (k := State.setTim_keeps))
    | (show covers _ _ = true; rfl)

theorem State.stepTime_keeps {x1 s} : Keeps [.regs, .out, .hbr, .evr, .tim, .los, .win 1, .win 11, .win 15, .win 21] s (@State.stepTime x1 s) := by
  unfold State.stepTime
  show Walk true _ _ _
  repeat' first
    | (with_reducible exact Walk.refl)
    | (with_reducible apply Walk.step (k := State.setTim_keeps))
    | (with_reducible apply Walk.step (k := State.bumpBy_keeps))
    | (with_reducible apply Walk.step (k := State.setReg_keeps))
    | (with_reducible apply Walk.step (k := State.bump_keeps))
    | (with_reducible apply Walk.step (k := State.stepHook_keeps))
    | (with_reducible apply Walk.step (k := State.log_keeps))
    | (show covers _ _ = true; rfl)

theorem State.autoStep_keeps {x1 s} : Keeps [.regs, .out, .hbr, .evr, .tim, .los, .win 1, .win 11, .win 15, .win 21] s (@State.autoStep x1 s) := by
  unfold State.autoStep
  show Walk true _ _ _
  try dsimp only
  repeat' first
    | (with_reducible exact Walk.refl)
    | (with_reducible apply Walk.step (k := State.setTim_keeps))
    | (with_reducible apply Walk.step (k := State.timNotice_keeps))
    | (with_reducible apply Walk.step (k := State.stepTime_keeps))
    | (show covers _ _ = true; rfl)
    | (split)

theorem State.startSource_keeps {x1 s} : Keeps [.tim] s (@State.startSource x1 s) := by
  unfold State.startSource
  show Walk true _ _ _
  try dsimp only
  repeat' first
    | (with_reducible exact Walk.refl)
    | (with_reducible apply Walk.step (k := State.setTim_keeps))
    | (with_reducible refine Walk.update ?_ ?_ ?_ ?_ ?_ ?_ ?_ ?_ ?_ ?_ ?_ ?_ ?_ ?_ ?_ ?_ ?_ ?_ ?_ ?_ ?_ ?_ ?_ ?_ ?_ ?_ ?_ rfl rfl)
    | (exact .inl rfl)
    | (exact .inr rfl)
    | (show covers _ _ = true; rfl)
    | (split)

theorem State.selectSource_keeps {x1 s} : Keeps [.regs, .out, .hbr, .evr, .tim, .los, .win 1, .win 11, .win 15, .win 21] s (@State.selectSource x1 s) := by
  unfold State.selectSource
  show Walk true _ _ _
  try dsimp only
  repeat' first
    | (with_reducible exact Walk.refl)
    | (with_reducible apply Walk.step (k := State.autoStep_keeps))
    | (with_reducible apply Walk.step (k := State.enterHoldover_keeps))
    | (with_reducible apply Walk.step (k := State.startSource_keeps))
    | (with_reducible apply Walk.step (k := State.timNotice_keeps))
    | (with_reducible apply Walk.step (k := State.timeState_keeps))
    | (split)
    | (show covers _ _ = true; rfl)

theorem State.loseSelected_keeps {s} : Keeps [.regs, .out, .hbr, .evr, .tim, .los, .win 1, .win 11, .win 15, .win 21] s (@State.loseSelected s) := by
  unfold State.loseSelected
  show Walk true _ _ _
  try dsimp only
  repeat' first
    | (with_reducible exact Walk.refl)
    | (with_reducible apply Walk.step (k := State.autoStep_keeps))
    | (with_reducible apply Walk.step (k := State.enterHoldover_keeps))
    | (with_reducible apply Walk.step (k := State.selectSource_keeps))
    | (with_reducible apply Walk.step (k := State.setTim_keeps))
    | (with_reducible apply Walk.step (k := State.startSource_keeps))
    | (with_reducible apply Walk.step (k := State.timeState_keeps))
    | (with_reducible apply Walk.ite)
    | (split)
    | (with_reducible refine Walk.update ?_ ?_ ?_ ?_ ?_ ?_ ?_ ?_ ?_ ?_ ?_ ?_ ?_ ?_ ?_ ?_ ?_ ?_ ?_ ?_ ?_ ?_ ?_ ?_ ?_ ?_ ?_ rfl rfl)
    | (exact .inl rfl)
    | (exact .inr rfl)
    | (show covers _ _ = true; rfl)

theorem State.disqualify_keeps {x1 s} : Keeps [.regs, .out, .hbr, .evr, .tim, .los, .win 1, .win 11, .win 15, .win 21] s (@State.disqualify x1 s) := by
  unfold State.disqualify
  show Walk true _ _ _
  try dsimp only
  repeat' first
    | (with_reducible exact Walk.refl)
    | (with_reducible apply Walk.step (k := State.setSource_keeps))
    | (with_reducible apply Walk.step (k := State.bump_keeps))
    | (with_reducible apply Walk.step (k := State.loseSelected_keeps))
    | (with_reducible apply Walk.step (k := State.timNotice_keeps))
    | (show covers _ _ = true; rfl)
    | (split)

theorem ptpSend_keeps {x1 x2 x3 s} : Keeps [.out, .tim] s (@ptpSend x1 x2 x3 s) := by
  unfold ptpSend
  show Walk true _ _ _
  dsimp only
  split
  · exact Walk.refl
  · exact State.passLaunch_walk (Walk.step Walk.refl State.setTim_keeps rfl) (fun _ => Walk.step Walk.refl State.emit_keeps rfl) rfl

theorem execPtpAnnounceSend_keeps {x1 s t} (h : @execPtpAnnounceSend x1 s = .next t) : Keeps [.out, .tim] s t := by
  unfold execPtpAnnounceSend at h
  have e := Host.Outcome.next.inj h
  subst e
  clear h
  show Walk true _ _ _
  try dsimp only
  repeat' first
    | (with_reducible exact Walk.refl)
    | (with_reducible apply Walk.step (k := ptpSend_keeps))
    | (with_reducible apply Walk.ite)
    | (split)
    | (show covers _ _ = true; rfl)

theorem execHoldoverExpiry_keeps {s t} (h : @execHoldoverExpiry s = .next t) : Keeps [.regs, .out, .hbr, .tim, .win 1] s t := by
  unfold execHoldoverExpiry at h
  have e := Host.Outcome.next.inj h
  subst e
  clear h
  show Walk true _ _ _
  try dsimp only
  repeat' first
    | (with_reducible exact Walk.refl)
    | (with_reducible apply Walk.step (k := State.timeState_keeps))
    | (show covers _ _ = true; rfl)
    | (split)

theorem State.reselect_keeps {s} : Keeps [.regs, .out, .hbr, .evr, .tim, .los, .win 1, .win 11, .win 15, .win 21] s (@State.reselect s) := by
  unfold State.reselect
  show Walk true _ _ _
  try dsimp only
  repeat' first
    | (with_reducible exact Walk.refl)
    | (with_reducible apply Walk.step (k := State.selectSource_keeps))
    | (show covers _ _ = true; rfl)
    | (split)

theorem State.servo_keeps {x1 x2 s} : Keeps [.regs, .out, .hbr, .tim, .win 1] s (@State.servo x1 x2 s) := by
  unfold State.servo
  show Walk true _ _ _
  try dsimp only
  repeat' first
    | (with_reducible exact Walk.refl)
    | (with_reducible apply Walk.step (k := State.setTim_keeps))
    | (with_reducible apply Walk.step (k := State.timeState_keeps))
    | (show covers _ _ = true; rfl)
    | (split)

theorem State.sample_keeps {x1 x2 s} : Keeps [.regs, .out, .hbr, .evr, .tim, .los, .win 1, .win 11, .win 15, .win 21] s (@State.sample x1 x2 s) := by
  unfold State.sample
  show Walk true _ _ _
  try dsimp only
  repeat' first
    | (with_reducible exact Walk.refl)
    | (with_reducible apply Walk.step (k := State.setSource_keeps))
    | (with_reducible apply Walk.step (k := State.reselect_keeps))
    | (with_reducible apply Walk.step (k := State.servo_keeps))
    | (show covers _ _ = true; rfl)
    | (split)

theorem execPtpSyncReceived_keeps {x1 x2 x3 s t} (h : @execPtpSyncReceived x1 x2 x3 s = .next t) : Keeps [.regs, .out, .hbr, .evr, .tim, .los, .win 1, .win 11, .win 15, .win 21] s t := by
  unfold execPtpSyncReceived at h
  have e := Host.Outcome.next.inj h
  subst e
  clear h
  show Walk true _ _ _
  try dsimp only
  repeat' first
    | (with_reducible exact Walk.refl)
    | (with_reducible apply Walk.step (k := State.bump_keeps))
    | (with_reducible apply Walk.step (k := State.sample_keeps))
    | (with_reducible apply Walk.step (k := State.setTim_keeps))
    | (with_reducible apply Walk.ite)
    | (with_reducible refine Walk.update ?_ ?_ ?_ ?_ ?_ ?_ ?_ ?_ ?_ ?_ ?_ ?_ ?_ ?_ ?_ ?_ ?_ ?_ ?_ ?_ ?_ ?_ ?_ ?_ ?_ ?_ ?_ rfl rfl)
    | (exact .inl rfl)
    | (exact .inr rfl)
    | (show covers _ _ = true; rfl)
    | (split)

theorem execPartnerTimeExchange_keeps {x1 s t} (h : @execPartnerTimeExchange x1 s = .next t) : Keeps [.out] s t := by
  unfold execPartnerTimeExchange at h
  have e := Host.Outcome.next.inj h
  subst e
  clear h
  show Walk true _ _ _
  try dsimp only
  repeat' first
    | (with_reducible exact Walk.refl)
    | (with_reducible apply Walk.step (k := State.emit_keeps))
    | (with_reducible apply Walk.ite)
    | (split)
    | (show covers _ _ = true; rfl)

theorem execPtpDelayRequestSend_keeps {x1 s t} (h : @execPtpDelayRequestSend x1 s = .next t) : Keeps [.out, .tim] s t := by
  unfold execPtpDelayRequestSend at h
  have e := Host.Outcome.next.inj h
  subst e
  clear h
  show Walk true _ _ _
  try dsimp only
  repeat' first
    | (with_reducible exact Walk.refl)
    | (with_reducible apply Walk.step (k := ptpSend_keeps))
    | (with_reducible apply Walk.ite)
    | (show covers _ _ = true; rfl)
    | (split)

theorem execPartnerTimeReply_keeps {x1 x2 x3 x4 x5 x6 s t} (h : @execPartnerTimeReply x1 x2 x3 x4 x5 x6 s = .next t) : Keeps [.regs, .out, .hbr, .evr, .tim, .los, .win 1, .win 11, .win 15, .win 21] s t := by
  unfold execPartnerTimeReply at h
  have e := Host.Outcome.next.inj h
  subst e
  clear h
  show Walk true _ _ _
  try dsimp only
  repeat' first
    | (with_reducible exact Walk.refl)
    | (with_reducible apply Walk.step (k := State.sample_keeps))
    | (with_reducible apply Walk.step (k := State.setTim_keeps))
    | (with_reducible refine Walk.update ?_ ?_ ?_ ?_ ?_ ?_ ?_ ?_ ?_ ?_ ?_ ?_ ?_ ?_ ?_ ?_ ?_ ?_ ?_ ?_ ?_ ?_ ?_ ?_ ?_ ?_ ?_ rfl rfl)
    | (exact .inl rfl)
    | (exact .inr rfl)
    | (show covers _ _ = true; rfl)
    | (split)

theorem execTimRead_keeps {x1 x2 s t} (h : @execTimRead x1 x2 s = .next t) : Keeps [.out, .cmd, .hbr, .bil] s t := by
  unfold execTimRead at h
  have e := Host.Outcome.next.inj h
  subst e
  clear h
  show Walk true _ _ _
  repeat' first
    | (with_reducible exact Walk.refl)
    | (with_reducible apply Walk.step (k := State.writeData_keeps))
    | (with_reducible apply Walk.step (k := State.replyWith_keeps))
    | (show covers _ _ = true; rfl)
    | (split)

theorem execDeviceSecond_keeps {x1 x2 s t} (h : @execDeviceSecond x1 x2 s = .next t) : Keeps [.regs, .out, .seam, .aon, .tim, .win 15] s t := by
  unfold execDeviceSecond at h
  have e := Host.Outcome.next.inj h
  subst e
  clear h
  show Walk true _ _ _
  try dsimp only
  repeat' first
    | (with_reducible exact Walk.refl)
    | (with_reducible apply Walk.step (k := State.bump_keeps))
    | (with_reducible apply Walk.step (k := State.emit_keeps))
    | (with_reducible apply Walk.step (k := State.seamDrain_keeps))
    | (with_reducible apply Walk.step (k := State.seamPut_keeps))
    | (with_reducible apply Walk.step (k := State.setTim_keeps))
    | (with_reducible apply Walk.ite)
    | (with_reducible refine Walk.update ?_ ?_ ?_ ?_ ?_ ?_ ?_ ?_ ?_ ?_ ?_ ?_ ?_ ?_ ?_ ?_ ?_ ?_ ?_ ?_ ?_ ?_ ?_ ?_ ?_ ?_ ?_ rfl rfl)
    | (exact .inl rfl)
    | (exact .inr rfl)
    | (show covers _ _ = true; rfl)
    | (split)

theorem execPtpSyncSend_keeps {x1 s t} (h : @execPtpSyncSend x1 s = .next t) : Keeps [.out, .tim] s t := by
  unfold execPtpSyncSend at h
  have e := Host.Outcome.next.inj h
  subst e
  clear h
  show Walk true _ _ _
  try dsimp only
  repeat' first
    | (with_reducible exact Walk.refl)
    | (with_reducible apply Walk.step (k := ptpSend_keeps))
    | (with_reducible apply Walk.ite)
    | (show covers _ _ = true; rfl)
    | (split)

theorem execPtpAnnounceReceived_keeps {x1 x2 s t} (h : @execPtpAnnounceReceived x1 x2 s = .next t) : Keeps [.tim] s t := by
  unfold execPtpAnnounceReceived at h
  have e := Host.Outcome.next.inj h
  subst e
  clear h
  show Walk true _ _ _
  try dsimp only
  repeat' first
    | (with_reducible exact Walk.refl)
    | (with_reducible apply Walk.step (k := State.setSource_keeps))
    | (with_reducible apply Walk.step (k := State.setTim_keeps))
    | (with_reducible apply Walk.ite)
    | (with_reducible refine Walk.update ?_ ?_ ?_ ?_ ?_ ?_ ?_ ?_ ?_ ?_ ?_ ?_ ?_ ?_ ?_ ?_ ?_ ?_ ?_ ?_ ?_ ?_ ?_ ?_ ?_ ?_ ?_ rfl rfl)
    | (exact .inl rfl)
    | (exact .inr rfl)
    | (show covers _ _ = true; rfl)
    | (split)

theorem State.timStart_keeps {s} : Keeps [.regs, .out, .seam, .tim, .win 15] s (@State.timStart s) := by
  unfold State.timStart
  show Walk true _ _ _
  try dsimp only
  repeat' first
    | (with_reducible exact Walk.refl)
    | (with_reducible apply Walk.step (k := State.seamDrain_keeps))
    | (with_reducible apply Walk.step (k := State.seamPut_keeps))
    | (with_reducible apply Walk.step (k := State.setReg_keeps))
    | (with_reducible apply Walk.step (k := State.setTim_keeps))
    | (with_reducible apply Walk.ite)
    | (with_reducible refine Walk.update ?_ ?_ ?_ ?_ ?_ ?_ ?_ ?_ ?_ ?_ ?_ ?_ ?_ ?_ ?_ ?_ ?_ ?_ ?_ ?_ ?_ ?_ ?_ ?_ ?_ ?_ ?_ rfl rfl)
    | (exact .inl rfl)
    | (exact .inr rfl)
    | (show covers _ _ = true; rfl)
    | (split)

theorem State.ppsLook_keeps {s} : Keeps [.out, .tim] s (@State.ppsLook s) := by
  unfold State.ppsLook
  show Walk true _ _ _
  try dsimp only
  repeat' first
    | (with_reducible exact Walk.refl)
    | (with_reducible apply Walk.step (k := State.emit_keeps))
    | (with_reducible apply Walk.step (k := State.setTim_keeps))
    | (with_reducible apply Walk.ite)
    | (with_reducible refine Walk.update ?_ ?_ ?_ ?_ ?_ ?_ ?_ ?_ ?_ ?_ ?_ ?_ ?_ ?_ ?_ ?_ ?_ ?_ ?_ ?_ ?_ ?_ ?_ ?_ ?_ ?_ ?_ rfl rfl)
    | (exact .inl rfl)
    | (exact .inr rfl)
    | (show covers _ _ = true; rfl)
    | (split)

theorem State.rfTick_keeps {s} : Keeps [.out, .rfx] s (@State.rfTick s) := by
  unfold State.rfTick
  show Walk true _ _ _
  try dsimp only
  repeat' first
    | (with_reducible exact Walk.refl)
    | (with_reducible apply Walk.step (k := State.txenLook_keeps))
    | (show covers _ _ = true; rfl)
    | (split)

theorem execTimeTick_keeps {x1 x2 s t} (h : @execTimeTick x1 x2 s = .next t) : Keeps [.regs, .out, .dev, .cmd, .hbr, .aon, .evr, .tim, .plc, .rfx, .msh, .cod, .los, .bil, .win 0, .win 1, .win 4, .win 5, .win 9, .win 21] s t := by
  unfold execTimeTick at h
  have e := Host.Outcome.next.inj h
  subst e
  clear h
  show Walk true _ _ _
  try dsimp only
  repeat' first
    | (with_reducible exact Walk.refl)
    | (with_reducible apply Walk.step (k := State.laneTick_keeps))
    | (with_reducible apply Walk.step (k := State.plcTick_keeps))
    | (with_reducible apply Walk.step (k := State.ppsLook_keeps))
    | (with_reducible apply Walk.step (k := State.rfTick_keeps))
    | (with_reducible apply Walk.step (k := State.stallCount_keeps))
    | (with_reducible apply Walk.step (k := State.treeLook_keeps))
    | (with_reducible apply Walk.ite)
    | (with_reducible refine Walk.update ?_ ?_ ?_ ?_ ?_ ?_ ?_ ?_ ?_ ?_ ?_ ?_ ?_ ?_ ?_ ?_ ?_ ?_ ?_ ?_ ?_ ?_ ?_ ?_ ?_ ?_ ?_ rfl rfl)
    | (exact .inl rfl)
    | (exact .inr rfl)
    | (show covers _ _ = true; rfl)
    | (split)

theorem execSourceLossTimeout_keeps {x1 s t} (h : @execSourceLossTimeout x1 s = .next t) : Keeps [.regs, .out, .hbr, .evr, .tim, .los, .win 1, .win 11, .win 15, .win 21] s t := by
  unfold execSourceLossTimeout at h
  have e := Host.Outcome.next.inj h
  subst e
  clear h
  show Walk true _ _ _
  repeat' first
    | (with_reducible exact Walk.refl)
    | (with_reducible apply Walk.step (k := State.disqualify_keeps))
    | (show covers _ _ = true; rfl)
    | (split)

theorem execTimStatus_keeps {x1 s t} (h : @execTimStatus x1 s = .next t) : Keeps [.out, .cmd, .hbr, .bil] s t := by
  unfold execTimStatus at h
  have e := Host.Outcome.next.inj h
  subst e
  clear h
  show Walk true _ _ _
  repeat' first
    | (with_reducible exact Walk.refl)
    | (with_reducible apply Walk.step (k := State.replyWith_keeps))
    | (with_reducible apply Walk.step (k := State.writeData_keeps))
    | (show covers _ _ = true; rfl)

theorem execPtpAnnounceTimeout_keeps {x1 s t} (h : @execPtpAnnounceTimeout x1 s = .next t) : Keeps [.regs, .out, .hbr, .evr, .tim, .los, .win 1, .win 11, .win 15, .win 21] s t := by
  unfold execPtpAnnounceTimeout at h
  have e := Host.Outcome.next.inj h
  subst e
  clear h
  show Walk true _ _ _
  repeat' first
    | (with_reducible exact Walk.refl)
    | (with_reducible apply Walk.step (k := State.disqualify_keeps))
    | (with_reducible apply Walk.step (k := State.setTim_keeps))
    | (show covers _ _ = true; rfl)
    | (split)

theorem execTickRefLoss_keeps {s t} (h : @execTickRefLoss s = .next t) : Keeps [.tim] s t := by
  unfold execTickRefLoss at h
  have e := Host.Outcome.next.inj h
  subst e
  clear h
  show Walk true _ _ _
  repeat' first
    | (with_reducible exact Walk.refl)
    | (with_reducible apply Walk.step (k := State.setTim_keeps))
    | (show covers _ _ = true; rfl)

theorem execPtpDelayMessageReceived_keeps {x1 x2 s t} (h : @execPtpDelayMessageReceived x1 x2 s = .next t) : Keeps [.out, .tim] s t := by
  unfold execPtpDelayMessageReceived at h
  have e := Host.Outcome.next.inj h
  subst e
  clear h
  show Walk true _ _ _
  try dsimp only
  repeat' first
    | (with_reducible exact Walk.refl)
    | (with_reducible apply Walk.step (k := State.setTim_keeps))
    | (with_reducible apply Walk.step (k := ptpSend_keeps))
    | (with_reducible apply Walk.ite)
    | (split)
    | (with_reducible refine Walk.update ?_ ?_ ?_ ?_ ?_ ?_ ?_ ?_ ?_ ?_ ?_ ?_ ?_ ?_ ?_ ?_ ?_ ?_ ?_ ?_ ?_ ?_ ?_ ?_ ?_ ?_ ?_ rfl rfl)
    | (exact .inl rfl)
    | (exact .inr rfl)
    | (show covers _ _ = true; rfl)

theorem execTimSourceSet_keeps {x1 x2 x3 s t} (h : @execTimSourceSet x1 x2 x3 s = .next t) : Keeps [.regs, .out, .cmd, .hbr, .evr, .tim, .los, .bil, .win 1, .win 11, .win 15, .win 21] s t := by
  unfold execTimSourceSet at h
  have e := Host.Outcome.next.inj h
  subst e
  clear h
  show Walk true _ _ _
  repeat' first
    | (with_reducible exact Walk.refl)
    | (with_reducible apply Walk.step (k := State.reply_keeps))
    | (with_reducible apply Walk.step (k := State.setTim_keeps))
    | (with_reducible apply Walk.step (k := State.selectSource_keeps))
    | (with_reducible apply Walk.step (k := State.loseSelected_keeps))
    | (with_reducible apply Walk.step (k := State.reselect_keeps))
    | (show covers _ _ = true; rfl)
    | (split)

theorem execTimSnap_keeps {s t} (h : @execTimSnap s = .next t) : Keeps [.regs, .win 15] s t := by
  unfold execTimSnap at h
  have e := Host.Outcome.next.inj h
  subst e
  clear h
  show Walk true _ _ _
  repeat' first
    | (with_reducible exact Walk.refl)
    | (with_reducible apply Walk.step (k := State.setReg_keeps))
    | (show covers _ _ = true; rfl)

theorem execSourceRevert_keeps {x1 s t} (h : @execSourceRevert x1 s = .next t) : Keeps [.regs, .out, .hbr, .evr, .tim, .los, .win 1, .win 11, .win 15, .win 21] s t := by
  unfold execSourceRevert at h
  have e := Host.Outcome.next.inj h
  subst e
  clear h
  show Walk true _ _ _
  try dsimp only
  repeat' first
    | (with_reducible exact Walk.refl)
    | (with_reducible apply Walk.step (k := State.selectSource_keeps))
    | (show covers _ _ = true; rfl)
    | (split)

theorem execTimStep_keeps {x1 x2 x3 x4 s t} (h : @execTimStep x1 x2 x3 x4 s = .next t) : Keeps [.regs, .out, .cmd, .hbr, .evr, .tim, .los, .bil, .win 1, .win 11, .win 15, .win 21] s t := by
  unfold execTimStep at h
  have e := Host.Outcome.next.inj h
  subst e
  clear h
  show Walk true _ _ _
  try dsimp only
  repeat' first
    | (with_reducible exact Walk.refl)
    | (with_reducible apply Walk.step (k := State.bumpBy_keeps))
    | (with_reducible apply Walk.step (k := State.reply_keeps))
    | (with_reducible apply Walk.step (k := State.replyWith_keeps))
    | (with_reducible apply Walk.step (k := State.setTim_keeps))
    | (with_reducible apply Walk.step (k := State.stepTime_keeps))
    | (with_reducible apply Walk.step (k := State.timNotice_keeps))
    | (with_reducible apply Walk.ite)
    | (split)
    | (with_reducible refine Walk.update ?_ ?_ ?_ ?_ ?_ ?_ ?_ ?_ ?_ ?_ ?_ ?_ ?_ ?_ ?_ ?_ ?_ ?_ ?_ ?_ ?_ ?_ ?_ ?_ ?_ ?_ ?_ rfl rfl)
    | (exact .inl rfl)
    | (exact .inr rfl)
    | (show covers _ _ = true; rfl)

theorem execPpsInEdge_keeps {s t} (h : @execPpsInEdge s = .next t) : Keeps [.regs, .out, .hbr, .evr, .tim, .los, .win 1, .win 11, .win 15, .win 21] s t := by
  unfold execPpsInEdge at h
  have e := Host.Outcome.next.inj h
  subst e
  clear h
  show Walk true _ _ _
  repeat' first
    | (with_reducible exact Walk.refl)
    | (with_reducible apply Walk.step (k := State.sample_keeps))
    | (show covers _ _ = true; rfl)

end Sys2Proof.Machine
end

