-- ==== Sys2Proof/Laws/KeepsDawn.lean ====
section
/-! SUPPORT. What each operation of Dawn can change, and that it keeps the canonical forms. -/
set_option Elab.async false
namespace Sys2Proof.Machine

theorem State.calChoose_keeps {s} : Keeps [.regs, .evr, .met, .win 21] s (@State.calChoose s) := by
  unfold State.calChoose
  show Walk true _ _ _
  try dsimp only
  repeat' first
    | (with_reducible exact Walk.refl)
    | (with_reducible apply Walk.step (k := State.auditNow_keeps))
    | (with_reducible apply Walk.step (k := State.sealEvent_keeps))
    | (with_reducible apply Walk.step (k := State.setMet_keeps))
    | (with_reducible apply Walk.ite)
    | (split)
    | (with_reducible refine Walk.update ?_ ?_ ?_ ?_ ?_ ?_ ?_ ?_ ?_ ?_ ?_ ?_ ?_ ?_ ?_ ?_ ?_ ?_ ?_ ?_ ?_ ?_ ?_ ?_ ?_ ?_ ?_ rfl rfl)
    | (exact .inl rfl)
    | (exact .inr rfl)
    | (show covers _ _ = true; rfl)

theorem State.metStart_keeps {s} : Keeps [.regs, .out, .evr, .met, .win 21] s (@State.metStart s) := by
  unfold State.metStart
  show Walk true _ _ _
  repeat' first
    | (with_reducible exact Walk.refl)
    | (with_reducible apply Walk.step (k := State.setMet_keeps))
    | (with_reducible apply Walk.step (k := State.calChoose_keeps))
    | (with_reducible apply Walk.step (k := State.auditNow_keeps))
    | (with_reducible apply Walk.step (k := State.ledLook_keeps))
    | (show covers _ _ = true; rfl)
    | (split)

theorem State.dawn1_keeps {x1 s} : Keeps [.regs, .out, .dev, .seam, .cmd, .hbr, .fab, .vin, .pwr, .aon, .evr, .tim, .kvt, .ing, .plc, .rfx, .fse, .msh, .cod, .arc, .los, .met, .bil, .par, .upd, .svc, .wins] s (@State.dawn1 x1 s) := by
  unfold State.dawn1
  show Walk true _ _ _
  repeat' first
    | (with_reducible exact Walk.refl)
    | (with_reducible apply Walk.step (k := State.metStart_keeps))
    | (with_reducible apply Walk.step (k := State.enterRecovery_keeps))
    | (with_reducible apply Walk.ite)
    | (with_reducible refine Walk.update ?_ ?_ ?_ ?_ ?_ ?_ ?_ ?_ ?_ ?_ ?_ ?_ ?_ ?_ ?_ ?_ ?_ ?_ ?_ ?_ ?_ ?_ ?_ ?_ ?_ ?_ ?_ rfl rfl)
    | (exact .inl rfl)
    | (exact .inr rfl)
    | (show covers _ _ = true; rfl)

theorem State.ingLoad_keeps {s} : Keeps [.regs, .out, .hbr, .ing, .win 1] s (@State.ingLoad s) := by
  unfold State.ingLoad
  show Walk true _ _ _
  try dsimp only
  repeat' first
    | (with_reducible exact Walk.refl)
    | (with_reducible apply Walk.step (k := State.gateNotices_keeps))
    | (with_reducible apply Walk.step (k := State.ingNotice_keeps))
    | (with_reducible apply Walk.step (k := State.raiseWindows_keeps))
    | (with_reducible apply Walk.step (k := State.setIng_keeps))
    | (with_reducible apply Walk.ite)
    | (with_reducible apply Walk.foldl)
    | (with_reducible apply Walk.foldl1)
    | (with_reducible apply Walk.foldl2)
    | (intro _)
    | (with_reducible assumption)
    | (with_reducible refine Walk.update ?_ ?_ ?_ ?_ ?_ ?_ ?_ ?_ ?_ ?_ ?_ ?_ ?_ ?_ ?_ ?_ ?_ ?_ ?_ ?_ ?_ ?_ ?_ ?_ ?_ ?_ ?_ rfl rfl)
    | (exact .inl rfl)
    | (exact .inr rfl)
    | (show covers _ _ = true; rfl)
    | (split)

theorem State.dawn2_keeps {x1 s} : Keeps [.regs, .out, .dev, .seam, .cmd, .hbr, .fab, .vin, .pwr, .aon, .evr, .tim, .kvt, .ing, .plc, .rfx, .fse, .msh, .cod, .arc, .los, .bil, .par, .upd, .svc, .wins, .flash] s (@State.dawn2 x1 s) := by
  unfold State.dawn2
  show Walk true _ _ _
  try dsimp only
  repeat' first
    | (with_reducible exact Walk.refl)
    | (with_reducible apply Walk.step (k := State.laneFault_keeps))
    | (with_reducible apply Walk.step (k := State.domDown_keeps))
    | (with_reducible refine Walk.step ?_ (State.chooseSlot_keeps_of (by assumption)) ?_)
    | (with_reducible apply Walk.step (k := State.chooseSlot_keeps))
    | (with_reducible apply Walk.step (k := State.enterRecovery_keeps))
    | (exact .inl rfl)
    | (exact .inr rfl)
    | (show covers _ _ = true; rfl)
    | (split)
    | (with_reducible refine Walk.update ?_ ?_ ?_ ?_ ?_ ?_ ?_ ?_ ?_ ?_ ?_ ?_ ?_ ?_ ?_ ?_ ?_ ?_ ?_ ?_ ?_ ?_ ?_ ?_ ?_ ?_ ?_ rfl rfl)

theorem State.stageUp_keeps {x1 s} : Keeps [.fab, .pwr] s (@State.stageUp x1 s) := by
  unfold State.stageUp
  show Walk true _ _ _
  repeat' first
    | (with_reducible exact Walk.refl)
    | (with_reducible apply Walk.step (k := State.domUp_keeps))
    | (with_reducible apply Walk.foldl)
    | (intro _)
    | (show covers _ _ = true; rfl)
    | (split)

theorem State.bcastResume_keeps {s} : Keeps [.msh] s (@State.bcastResume s) := by
  unfold State.bcastResume
  show Walk true _ _ _
  try dsimp only
  repeat' first
    | (with_reducible exact Walk.refl)
    | (with_reducible apply Walk.ite)
    | (with_reducible apply Walk.foldl)
    | (with_reducible apply Walk.foldl1)
    | (with_reducible apply Walk.foldl2)
    | (intro _)
    | (with_reducible assumption)
    | (split)
    | (with_reducible refine Walk.update ?_ ?_ ?_ ?_ ?_ ?_ ?_ ?_ ?_ ?_ ?_ ?_ ?_ ?_ ?_ ?_ ?_ ?_ ?_ ?_ ?_ ?_ ?_ ?_ ?_ ?_ ?_ rfl rfl)
    | (exact .inl rfl)
    | (exact .inr rfl)
    | (show covers _ _ = true; rfl)

theorem State.kvtLoad_keeps {s} : Keeps [.kvt, .fse] s (@State.kvtLoad s) := by
  unfold State.kvtLoad
  show Walk true _ _ _
  repeat' first
    | (with_reducible exact Walk.refl)
    | (with_reducible apply Walk.step (k := State.setKvt_keeps))
    | (with_reducible apply Walk.step (k := State.applyMirror_keeps))
    | (with_reducible apply Walk.foldl)
    | (intro _)
    | (show covers _ _ = true; rfl)
    | (split)

theorem State.vinLoad_keeps {s} : Keeps [.vin] s (@State.vinLoad s) := by
  unfold State.vinLoad
  show Walk true _ _ _
  repeat' first
    | (with_reducible exact Walk.refl)
    | (with_reducible refine Walk.update ?_ ?_ ?_ ?_ ?_ ?_ ?_ ?_ ?_ ?_ ?_ ?_ ?_ ?_ ?_ ?_ ?_ ?_ ?_ ?_ ?_ ?_ ?_ ?_ ?_ ?_ ?_ rfl rfl)
    | (exact .inl rfl)
    | (exact .inr rfl)

theorem State.arcGoesOn_keeps {s} : Keeps [.regs, .out, .cmd, .hbr, .arc, .bil, .win 1, .win 10, .win 20] s (@State.arcGoesOn s) := by
  unfold State.arcGoesOn
  show Walk true _ _ _
  try dsimp only
  repeat' first
    | (with_reducible exact Walk.refl)
    | (with_reducible apply Walk.step (k := State.journalGo_keeps))
    | (with_reducible apply Walk.step (k := State.leaveSet_keeps))
    | (with_reducible apply Walk.step (k := State.setArc_keeps))
    | (with_reducible apply Walk.ite)
    | (with_reducible apply Walk.foldl)
    | (with_reducible apply Walk.foldl1)
    | (with_reducible apply Walk.foldl2)
    | (intro _)
    | (with_reducible assumption)
    | (with_reducible refine Walk.update ?_ ?_ ?_ ?_ ?_ ?_ ?_ ?_ ?_ ?_ ?_ ?_ ?_ ?_ ?_ ?_ ?_ ?_ ?_ ?_ ?_ ?_ ?_ ?_ ?_ ?_ ?_ rfl rfl)
    | (exact .inl rfl)
    | (exact .inr rfl)
    | (show covers _ _ = true; rfl)
    | (split)

theorem State.afterRecovery_keeps {s} : Keeps [.regs, .out, .cmd, .hbr, .vin, .kvt, .ing, .fse, .msh, .arc, .bil, .win 0, .win 1, .win 10, .win 20] s (@State.afterRecovery s) := by
  unfold State.afterRecovery
  show Walk true _ _ _
  try dsimp only
  repeat' first
    | (with_reducible exact Walk.refl)
    | (with_reducible apply Walk.step (k := State.arcGoesOn_keeps))
    | (with_reducible apply Walk.step (k := State.arcOpens_keeps))
    | (with_reducible apply Walk.step (k := State.bcastResume_keeps))
    | (with_reducible apply Walk.step (k := State.deliverOwed_keeps))
    | (with_reducible apply Walk.step (k := State.ingLoad_keeps))
    | (with_reducible apply Walk.step (k := State.kvtLoad_keeps))
    | (with_reducible apply Walk.step (k := State.vinLoad_keeps))
    | (with_reducible apply Walk.ite)
    | (with_reducible refine Walk.update ?_ ?_ ?_ ?_ ?_ ?_ ?_ ?_ ?_ ?_ ?_ ?_ ?_ ?_ ?_ ?_ ?_ ?_ ?_ ?_ ?_ ?_ ?_ ?_ ?_ ?_ ?_ rfl rfl)
    | (exact .inl rfl)
    | (exact .inr rfl)
    | (show covers _ _ = true; rfl)
    | (split)

theorem execArcDriveRejoin_keeps {x1 x2 x3 s t} (h : @execArcDriveRejoin x1 x2 x3 s = .next t) : Keeps [.regs, .out, .cmd, .hbr, .vin, .kvt, .ing, .fse, .msh, .cod, .arc, .bil, .win 0, .win 1, .win 10, .win 20] s t := by
  unfold execArcDriveRejoin at h
  have e := Host.Outcome.next.inj h
  subst e
  clear h
  show Walk true _ _ _
  try dsimp only
  repeat' first
    | (with_reducible exact Walk.refl)
    | (with_reducible apply Walk.step (k := State.afterRecovery_keeps))
    | (with_reducible apply Walk.step (k := State.arcRecover_keeps))
    | (with_reducible apply Walk.step (k := State.reply_keeps))
    | (with_reducible apply Walk.step (k := State.replyQueued_keeps))
    | (with_reducible apply Walk.ite)
    | (split)
    | (show covers _ _ = true; rfl)

theorem State.bilRestore_keeps {s} : Keeps [.bil] s (@State.bilRestore s) := by
  unfold State.bilRestore
  show Walk true _ _ _
  repeat' first
    | (with_reducible exact Walk.refl)
    | (with_reducible apply Walk.step (k := State.setBil_keeps))
    | (with_reducible apply Walk.step (k := State.setLedger_keeps))
    | (show covers _ _ = true; rfl)
    | (split)

theorem State.nightAudit_keeps {s} : Keeps [.regs, .out, .dev, .hbr, .aon, .evr, .kvt, .met, .win 0, .win 1, .win 21] s (@State.nightAudit s) := by
  unfold State.nightAudit
  show Walk true _ _ _
  repeat' first
    | (with_reducible exact Walk.refl)
    | (with_reducible apply Walk.step (k := State.auditAdd_keeps))
    | (with_reducible apply Walk.step (k := State.setMet_keeps))
    | (with_reducible apply Walk.step (k := State.beginHold_keeps))
    | (with_reducible apply Walk.foldl)
    | (with_reducible apply Walk.ite)
    | (intro _)
    | (with_reducible refine Walk.update ?_ ?_ ?_ ?_ ?_ ?_ ?_ ?_ ?_ ?_ ?_ ?_ ?_ ?_ ?_ ?_ ?_ ?_ ?_ ?_ ?_ ?_ ?_ ?_ ?_ ?_ ?_ rfl rfl)
    | (exact .inl rfl)
    | (exact .inr rfl)
    | (show covers _ _ = true; rfl)

theorem State.dawn3_keeps {s} : Keeps [.regs, .out, .freeCtr, .dev, .hbr, .aon, .evr, .kvt, .met, .win 0, .win 1, .win 21] s (@State.dawn3 s) := by
  unfold State.dawn3
  show Walk true _ _ _
  try dsimp only
  repeat' first
    | (with_reducible exact Walk.refl)
    | (with_reducible apply Walk.step (k := State.newChallenge_keeps))
    | (with_reducible apply Walk.step (k := State.setKvt_keeps))
    | (with_reducible apply Walk.step (k := State.nightAudit_keeps))
    | (with_reducible apply Walk.step (k := State.beginHold_keeps))
    | (with_reducible apply Walk.step (k := State.auditNow_keeps))
    | (with_reducible apply Walk.step (k := State.ledLook_keeps))
    | (show covers _ _ = true; rfl)
    | (split)

theorem State.dawnDone_keeps {s} : Keeps [.regs, .out, .dev, .cmd, .hbr, .evr, .plc, .rfx, .msh, .bil, .upd, .win 0, .win 1, .win 4, .win 5, .win 21] s (@State.dawnDone s) := by
  unfold State.dawnDone
  show Walk true _ _ _
  repeat' first
    | (with_reducible exact Walk.refl)
    | (with_reducible apply Walk.step (k := State.enterState_keeps))
    | (with_reducible apply Walk.step (k := State.updNotice_keeps))
    | (with_reducible apply Walk.ite)
    | (with_reducible refine Walk.update ?_ ?_ ?_ ?_ ?_ ?_ ?_ ?_ ?_ ?_ ?_ ?_ ?_ ?_ ?_ ?_ ?_ ?_ ?_ ?_ ?_ ?_ ?_ ?_ ?_ ?_ ?_ rfl rfl)
    | (exact .inl rfl)
    | (exact .inr rfl)
    | (show covers _ _ = true; rfl)

theorem State.dawn0_keeps {x1 s} : Keeps [.pwr, .aon, .par, .svc] s (@State.dawn0 x1 s) := by
  unfold State.dawn0
  show Walk true _ _ _
  repeat' first
    | (with_reducible exact Walk.refl)
    | (with_reducible refine Walk.update ?_ ?_ ?_ ?_ ?_ ?_ ?_ ?_ ?_ ?_ ?_ ?_ ?_ ?_ ?_ ?_ ?_ ?_ ?_ ?_ ?_ ?_ ?_ ?_ ?_ ?_ ?_ rfl rfl)
    | (exact .inl rfl)
    | (exact .inr rfl)

theorem State.stageBegins_keeps {x1 s} : Keeps [.out, .dev, .pwr] s (@State.stageBegins x1 s) := by
  unfold State.stageBegins
  show Walk true _ _ _
  repeat' first
    | (with_reducible exact Walk.refl)
    | (with_reducible apply Walk.step (k := State.rampOne_keeps))
    | (with_reducible apply Walk.step (k := State.emit_keeps))
    | (with_reducible apply Walk.foldl)
    | (with_reducible apply Walk.ite)
    | (intro _)
    | (with_reducible refine Walk.update ?_ ?_ ?_ ?_ ?_ ?_ ?_ ?_ ?_ ?_ ?_ ?_ ?_ ?_ ?_ ?_ ?_ ?_ ?_ ?_ ?_ ?_ ?_ ?_ ?_ ?_ ?_ rfl rfl)
    | (exact .inl rfl)
    | (exact .inr rfl)
    | (show covers _ _ = true; rfl)

theorem State.restoreRecorder_keeps {x1 s} : Keeps [.evr] s (@State.restoreRecorder x1 s) := by
  unfold State.restoreRecorder
  show Walk true _ _ _
  repeat' first
    | (with_reducible exact Walk.refl)
    | (with_reducible apply Walk.step (k := State.setRecorder_keeps))
    | (show covers _ _ = true; rfl)
    | (split)

theorem State.restoreRegs_keeps {s} : Keeps [.regs, .wins] s (@State.restoreRegs s) := by
  unfold State.restoreRegs
  show Walk true _ _ _
  repeat' first
    | (with_reducible exact Walk.refl)
    | (with_reducible apply Walk.step (k := State.setKey_keeps))
    | (with_reducible apply Walk.foldl)
    | (intro _)
    | (show covers _ _ = true; rfl)

theorem State.dawn1Begins_keeps {s} : Keeps [.regs, .out, .evr, .rfx, .wins] s (@State.dawn1Begins s) := by
  unfold State.dawn1Begins
  show Walk true _ _ _
  try dsimp only
  repeat' first
    | (with_reducible exact Walk.refl)
    | (with_reducible apply Walk.step (k := State.fixedGains_keeps))
    | (with_reducible apply Walk.step (k := State.log_keeps))
    | (with_reducible apply Walk.step (k := State.restoreRecorder_keeps))
    | (with_reducible apply Walk.step (k := State.restoreRegs_keeps))
    | (with_reducible apply Walk.ite)
    | (with_reducible apply Walk.foldl)
    | (with_reducible apply Walk.foldl1)
    | (with_reducible apply Walk.foldl2)
    | (intro _)
    | (with_reducible assumption)
    | (show covers _ _ = true; rfl)
    | (split)

theorem State.dawn5Begins_keeps {s} : Keeps [.regs, .out, .seam, .hbr, .tim, .plc, .rfx, .msh, .win 1, .win 15] s (@State.dawn5Begins s) := by
  unfold State.dawn5Begins
  show Walk true _ _ _
  repeat' first
    | (with_reducible exact Walk.refl)
    | (with_reducible apply Walk.step (k := State.modPort_keeps))
    | (with_reducible apply Walk.step (k := State.timStart_keeps))
    | (with_reducible apply Walk.step (k := State.dutyRestore_keeps))
    | (with_reducible apply Walk.foldl)
    | (intro _)
    | (with_reducible refine Walk.update ?_ ?_ ?_ ?_ ?_ ?_ ?_ ?_ ?_ ?_ ?_ ?_ ?_ ?_ ?_ ?_ ?_ ?_ ?_ ?_ ?_ ?_ ?_ ?_ ?_ ?_ ?_ rfl rfl)
    | (exact .inl rfl)
    | (exact .inr rfl)
    | (show covers _ _ = true; rfl)

theorem State.nextStage_keeps {x1 s} : Keeps [.regs, .out, .dev, .seam, .hbr, .pwr, .evr, .tim, .plc, .rfx, .msh, .wins] s (@State.nextStage x1 s) := by
  unfold State.nextStage
  show Walk true _ _ _
  repeat' first
    | (with_reducible exact Walk.refl)
    | (with_reducible apply Walk.step (k := State.stageBegins_keeps))
    | (with_reducible apply Walk.step (k := State.dawn1Begins_keeps))
    | (with_reducible apply Walk.step (k := State.dawn5Begins_keeps))
    | (show covers _ _ = true; rfl)
    | (split)

theorem State.reserveDram_keeps {s} : Keeps [.regs, .cmd, .hbr, .ing, .arc, .win 1, .win 3, .win 10] s (@State.reserveDram s) := by
  unfold State.reserveDram
  show Walk true _ _ _
  try dsimp only
  repeat' first
    | (with_reducible exact Walk.refl)
    | (with_reducible apply Walk.step (k := State.setReg_keeps))
    | (with_reducible apply Walk.ite)
    | (with_reducible refine Walk.update ?_ ?_ ?_ ?_ ?_ ?_ ?_ ?_ ?_ ?_ ?_ ?_ ?_ ?_ ?_ ?_ ?_ ?_ ?_ ?_ ?_ ?_ ?_ ?_ ?_ ?_ ?_ rfl rfl)
    | (exact .inl rfl)
    | (exact .inr rfl)
    | (show covers _ _ = true; rfl)
    | (split)

theorem State.dawn4_keeps {x1 s} : Keeps [.regs, .out, .cmd, .hbr, .evr, .kvt, .ing, .arc, .win 1, .win 3, .win 10, .win 21] s (@State.dawn4 x1 s) := by
  unfold State.dawn4
  show Walk true _ _ _
  try dsimp only
  repeat' first
    | (with_reducible exact Walk.refl)
    | (with_reducible apply Walk.step (k := State.log_keeps))
    | (with_reducible apply Walk.step (k := State.reserveDram_keeps))
    | (with_reducible apply Walk.step (k := State.setKvt_keeps))
    | (with_reducible apply Walk.step (k := State.kvtNotice_keeps))
    | (with_reducible apply Walk.step (k := State.deliverNkek_keeps))
    | (with_reducible apply Walk.foldl)
    | (intro _)
    | (with_reducible refine Walk.update ?_ ?_ ?_ ?_ ?_ ?_ ?_ ?_ ?_ ?_ ?_ ?_ ?_ ?_ ?_ ?_ ?_ ?_ ?_ ?_ ?_ ?_ ?_ ?_ ?_ ?_ ?_ rfl rfl)
    | (exact .inl rfl)
    | (exact .inr rfl)
    | (show covers _ _ = true; rfl)
    | (split)

theorem State.dawn5_keeps {x1 s} : Keeps [.regs, .arc, .win 0] s (@State.dawn5 x1 s) := by
  unfold State.dawn5
  show Walk true _ _ _
  repeat' first
    | (with_reducible exact Walk.refl)
    | (with_reducible apply Walk.step (k := State.holdCause_keeps))
    | (with_reducible refine Walk.update ?_ ?_ ?_ ?_ ?_ ?_ ?_ ?_ ?_ ?_ ?_ ?_ ?_ ?_ ?_ ?_ ?_ ?_ ?_ ?_ ?_ ?_ ?_ ?_ ?_ ?_ ?_ rfl rfl)
    | (exact .inl rfl)
    | (exact .inr rfl)
    | (show covers _ _ = true; rfl)

theorem State.dawn7_keeps {x1 s} : Keeps [.regs, .out, .dev, .seam, .cmd, .hbr, .pwr, .evr, .kvt, .ing, .plc, .rfx, .fse, .msh, .bil, .par, .upd, .win 0, .win 1, .win 4, .win 5, .win 7, .win 14, .win 18, .win 21] s (@State.dawn7 x1 s) := by
  unfold State.dawn7
  show Walk true _ _ _
  repeat' first
    | (with_reducible exact Walk.refl)
    | (with_reducible apply Walk.step (k := State.enterStandby_keeps))
    | (with_reducible refine Walk.step ?_ (State.claim_keeps_of (by assumption)) ?_)
    | (with_reducible apply Walk.step (k := State.claim_keeps))
    | (with_reducible apply Walk.step (k := State.dawnDone_keeps))
    | (with_reducible apply Walk.ite)
    | (with_reducible refine Walk.update ?_ ?_ ?_ ?_ ?_ ?_ ?_ ?_ ?_ ?_ ?_ ?_ ?_ ?_ ?_ ?_ ?_ ?_ ?_ ?_ ?_ ?_ ?_ ?_ ?_ ?_ ?_ rfl rfl)
    | (exact .inl rfl)
    | (exact .inr rfl)
    | (show covers _ _ = true; rfl)

theorem State.stageWork_keeps {x1 x2 s} : Keeps [.regs, .out, .freeCtr, .dev, .seam, .cmd, .hbr, .fab, .vin, .pwr, .aon, .evr, .tim, .kvt, .ing, .plc, .rfx, .fse, .msh, .cod, .arc, .los, .met, .bil, .par, .upd, .svc, .wins, .flash] s (@State.stageWork x1 x2 s) := by
  unfold State.stageWork
  show Walk true _ _ _
  repeat' first
    | (with_reducible exact Walk.refl)
    | (with_reducible apply Walk.step (k := State.dawn0_keeps))
    | (with_reducible apply Walk.step (k := State.dawn1_keeps))
    | (with_reducible apply Walk.step (k := State.dawn2_keeps))
    | (with_reducible apply Walk.step (k := State.dawn3_keeps))
    | (with_reducible apply Walk.step (k := State.dawn4_keeps))
    | (with_reducible apply Walk.step (k := State.dawn5_keeps))
    | (with_reducible apply Walk.step (k := State.bilRestore_keeps))
    | (with_reducible apply Walk.step (k := State.afterRecovery_keeps))
    | (with_reducible apply Walk.step (k := State.arcRecover_keeps))
    | (with_reducible apply Walk.step (k := State.dawn7_keeps))
    | (show covers _ _ = true; rfl)
    | (split)

theorem execDawnStageEnd_keeps {x1 s t} (h : @execDawnStageEnd x1 s = .next t) : Keeps [.regs, .out, .freeCtr, .dev, .seam, .cmd, .hbr, .fab, .vin, .pwr, .aon, .evr, .tim, .kvt, .ing, .plc, .rfx, .fse, .msh, .cod, .arc, .los, .met, .bil, .par, .upd, .svc, .wins, .flash] s t := by
  unfold execDawnStageEnd at h
  have e := Host.Outcome.next.inj h
  subst e
  clear h
  show Walk true _ _ _
  repeat' first
    | (with_reducible exact Walk.refl)
    | (with_reducible apply Walk.step (k := State.nextStage_keeps))
    | (with_reducible apply Walk.step (k := State.stageWork_keeps))
    | (with_reducible apply Walk.step (k := State.stageUp_keeps))
    | (with_reducible apply Walk.ite)
    | (with_reducible refine Walk.update ?_ ?_ ?_ ?_ ?_ ?_ ?_ ?_ ?_ ?_ ?_ ?_ ?_ ?_ ?_ ?_ ?_ ?_ ?_ ?_ ?_ ?_ ?_ ?_ ?_ ?_ ?_ rfl rfl)
    | (exact .inl rfl)
    | (show covers _ _ = true; rfl)

end Sys2Proof.Machine
end

