-- ==== Sys2Proof/Laws/KeepsEpCmds.lean ====
section
/-! SUPPORT. What each operation of EpCmds can change, and that it keeps the canonical forms. -/
set_option Elab.async false
namespace Sys2Proof.Machine

theorem State.ckptWrite_keeps {x1 x2 s} : Keeps [.out, .arc] s (@State.ckptWrite x1 x2 s) := by
  unfold State.ckptWrite
  show Walk true _ _ _
  try dsimp only
  repeat' first
    | (with_reducible exact Walk.refl)
    | (with_reducible apply Walk.step (k := State.sysWrite_keeps))
    | (show covers _ _ = true; rfl)
    | (split)

theorem State.writeBack_keeps {x1 s} : Keeps [.out, .ing, .arc] s (@State.writeBack x1 s) := by
  unfold State.writeBack
  show Walk true _ _ _
  try dsimp only
  repeat' first
    | (with_reducible exact Walk.refl)
    | (with_reducible apply Walk.step (k := State.ckptWrite_keeps))
    | (with_reducible apply Walk.step (k := State.setIng_keeps))
    | (with_reducible apply Walk.step (k := State.startJob_keeps))
    | (with_reducible apply Walk.ite)
    | (with_reducible refine Walk.update ?_ ?_ ?_ ?_ ?_ ?_ ?_ ?_ ?_ ?_ ?_ ?_ ?_ ?_ ?_ ?_ ?_ ?_ ?_ ?_ ?_ ?_ ?_ ?_ ?_ ?_ ?_ rfl rfl)
    | (exact .inl rfl)
    | (exact .inr rfl)
    | (show covers _ _ = true; rfl)
    | (split)

theorem execContextCheckpoint_keeps {x1 s t} (h : @execContextCheckpoint x1 s = .next t) : Keeps [.out, .ing, .arc] s t := by
  unfold execContextCheckpoint at h
  have e := Host.Outcome.next.inj h
  subst e
  clear h
  show Walk true _ _ _
  try dsimp only
  repeat' first
    | (with_reducible exact Walk.refl)
    | (with_reducible apply Walk.step (k := State.writeBack_keeps))
    | (with_reducible apply Walk.ite)
    | (show covers _ _ = true; rfl)
    | (split)

theorem State.beginEp_keeps {x1 s} : Keeps [.out, .cmd, .ing, .arc, .bil] s (@State.beginEp x1 s) := by
  induction x1 generalizing s with
  | zero => exact Keeps.refl
  | succ n ih =>
    unfold State.beginEp
    show Walk true _ _ _
    split
    · exact Keeps.refl
    · extract_lets
      with_reducible apply Walk.ite
      all_goals repeat' first
        | (with_reducible apply Walk.step (k := ih))
        | (with_reducible exact Walk.refl)
        | (with_reducible assumption)
        | (with_reducible apply Walk.step (k := State.startJob_keeps))
        | (with_reducible apply Walk.step (k := State.ckptWrite_keeps))
        | (with_reducible apply Walk.step (k := State.setIng_keeps))
        | (with_reducible apply Walk.step (k := State.replyWith_keeps))
        | (with_reducible apply Walk.step (k := ih))
        | (with_reducible apply Walk.foldl)
        | (with_reducible apply Walk.foldl1)
        | (with_reducible apply Walk.foldl2)
        | (with_reducible apply Walk.ite)
        | (intro _)
        | (exact .inl rfl)
        | (exact .inr rfl)
        | (show covers _ _ = true; rfl)

theorem State.queueEp_keeps {x1 s} : Keeps [.out, .cmd, .ing, .arc, .bil] s (@State.queueEp x1 s) := by
  unfold State.queueEp
  show Walk true _ _ _
  try dsimp only
  repeat' first
    | (with_reducible exact Walk.refl)
    | (with_reducible apply Walk.step (k := State.setIng_keeps))
    | (with_reducible apply Walk.step (k := State.beginEp_keeps))
    | (show covers _ _ = true; rfl)
    | (split)

theorem execEpWritePathclr_keeps {x1 x2 s t} (h : @execEpWritePathclr x1 x2 s = .next t) : Keeps [.out, .cmd, .ing, .arc, .bil] s t := by
  unfold execEpWritePathclr at h
  have e := Host.Outcome.next.inj h
  subst e
  clear h
  show Walk true _ _ _
  repeat' first
    | (with_reducible exact Walk.refl)
    | (with_reducible apply Walk.step (k := State.queueEp_keeps))
    | (show covers _ _ = true; rfl)

theorem State.forgetFse_keeps {x1 s} : Keeps [.fse] s (@State.forgetFse x1 s) := by
  unfold State.forgetFse
  show Walk true _ _ _
  repeat' first
    | (with_reducible exact Walk.refl)
    | (with_reducible refine Walk.update ?_ ?_ ?_ ?_ ?_ ?_ ?_ ?_ ?_ ?_ ?_ ?_ ?_ ?_ ?_ ?_ ?_ ?_ ?_ ?_ ?_ ?_ ?_ ?_ ?_ ?_ ?_ rfl rfl)
    | (exact .inl rfl)
    | (exact .inr rfl)

theorem State.applyChange_keeps {x1 s} : Keeps [.regs, .out, .cmd, .hbr, .ing, .plc, .fse, .msh, .bil, .win 1] s (@State.applyChange x1 s) := by
  unfold State.applyChange
  show Walk true _ _ _
  try dsimp only
  repeat' first
    | (with_reducible exact Walk.refl)
    | (with_reducible refine Walk.step ?_ (State.cacheTouch_keeps_of (by assumption)) ?_)
    | (with_reducible apply Walk.step (k := State.cacheTouch_keeps))
    | (with_reducible apply Walk.step (k := State.endNightSends_keeps))
    | (with_reducible apply Walk.step (k := State.forgetFse_keeps))
    | (with_reducible apply Walk.step (k := State.mshRelease_keeps))
    | (with_reducible apply Walk.step (k := State.plcRelease_keeps))
    | (with_reducible apply Walk.step (k := State.putCtx_keeps))
    | (with_reducible apply Walk.ite)
    | (split)
    | (with_reducible refine Walk.update ?_ ?_ ?_ ?_ ?_ ?_ ?_ ?_ ?_ ?_ ?_ ?_ ?_ ?_ ?_ ?_ ?_ ?_ ?_ ?_ ?_ ?_ ?_ ?_ ?_ ?_ ?_ rfl rfl)
    | (exact .inl rfl)
    | (exact .inr rfl)
    | (show covers _ _ = true; rfl)

theorem State.epDone_keeps {x1 s} : Keeps [.regs, .out, .cmd, .hbr, .ing, .plc, .fse, .msh, .arc, .bil, .win 1] s (@State.epDone x1 s) := by
  unfold State.epDone
  show Walk true _ _ _
  repeat' first
    | (with_reducible exact Walk.refl)
    | (with_reducible apply Walk.step (k := State.setIng_keeps))
    | (with_reducible apply Walk.step (k := State.applyChange_keeps))
    | (with_reducible apply Walk.step (k := State.replyWith_keeps))
    | (with_reducible apply Walk.step (k := State.reply_keeps))
    | (with_reducible apply Walk.step (k := State.beginEp_keeps))
    | (exact .inl rfl)
    | (show covers _ _ = true; rfl)
    | (split)

theorem execEpWriteTxctr_keeps {x1 x2 x3 x4 s t} (h : @execEpWriteTxctr x1 x2 x3 x4 s = .next t) : Keeps [.out, .cmd, .ing, .arc, .bil] s t := by
  unfold execEpWriteTxctr at h
  have e := Host.Outcome.next.inj h
  subst e
  clear h
  show Walk true _ _ _
  try dsimp only
  repeat' first
    | (with_reducible exact Walk.refl)
    | (with_reducible apply Walk.step (k := State.queueEp_keeps))
    | (with_reducible apply Walk.ite)
    | (show covers _ _ = true; rfl)
    | (split)

theorem execEpWriteRxwin_keeps {x1 x2 x3 x4 x5 x6 s t} (h : @execEpWriteRxwin x1 x2 x3 x4 x5 x6 s = .next t) : Keeps [.out, .cmd, .ing, .arc, .bil] s t := by
  unfold execEpWriteRxwin at h
  have e := Host.Outcome.next.inj h
  subst e
  clear h
  show Walk true _ _ _
  try dsimp only
  repeat' first
    | (with_reducible exact Walk.refl)
    | (with_reducible apply Walk.step (k := State.queueEp_keeps))
    | (with_reducible apply Walk.ite)
    | (show covers _ _ = true; rfl)
    | (split)

theorem execEpDelete_keeps {x1 x2 s t} (h : @execEpDelete x1 x2 s = .next t) : Keeps [.out, .cmd, .ing, .arc, .bil] s t := by
  unfold execEpDelete at h
  have e := Host.Outcome.next.inj h
  subst e
  clear h
  show Walk true _ _ _
  repeat' first
    | (with_reducible exact Walk.refl)
    | (with_reducible apply Walk.step (k := State.queueEp_keeps))
    | (show covers _ _ = true; rfl)

theorem State.backDone_keeps {x1 x2 x3 s} : Keeps [.out, .ing, .arc] s (@State.backDone x1 x2 x3 s) := by
  unfold State.backDone
  show Walk true _ _ _
  repeat' first
    | (with_reducible exact Walk.refl)
    | (with_reducible apply Walk.step (k := State.reportHorizon_keeps))
    | (with_reducible apply Walk.step (k := State.setIng_keeps))
    | (show covers _ _ = true; rfl)
    | (split)

theorem State.bcastDone_keeps {x1 x2 s} : Keeps [.ing, .msh] s (@State.bcastDone x1 x2 s) := by
  unfold State.bcastDone
  show Walk true _ _ _
  repeat' first
    | (with_reducible exact Walk.refl)
    | (with_reducible apply Walk.step (k := State.setMsh_keeps))
    | (with_reducible apply Walk.step (k := State.startJob_keeps))
    | (show covers _ _ = true; rfl)
    | (split)

theorem execCheckpointWriteDone_keeps {x1 x2 x3 s t} (h : @execCheckpointWriteDone x1 x2 x3 s = .next t) : Keeps [.regs, .out, .freeCtr, .cmd, .hbr, .evr, .tim, .kvt, .ing, .plc, .fse, .msh, .arc, .bil, .par, .win 1, .win 7, .win 14, .win 18, .win 21] s t := by
  unfold execCheckpointWriteDone at h
  have e := Host.Outcome.next.inj h
  subst e
  clear h
  show Walk true _ _ _
  repeat' first
    | (with_reducible exact Walk.refl)
    | (with_reducible apply Walk.step (k := State.endJob_keeps))
    | (with_reducible apply Walk.step (k := State.epDone_keeps))
    | (with_reducible apply Walk.step (k := State.backDone_keeps))
    | (with_reducible apply Walk.step (k := State.bcastDone_keeps))
    | (with_reducible apply Walk.step (k := State.groupJobDone_keeps))
    | (with_reducible apply Walk.step (k := State.keyJobDone_keeps))
    | (show covers _ _ = true; rfl)
    | (split)

theorem execEpStats_keeps {x1 x2 x3 s t} (h : @execEpStats x1 x2 x3 s = .next t) : Keeps [.out, .cmd, .hbr, .bil] s t := by
  unfold execEpStats at h
  have e := Host.Outcome.next.inj h
  subst e
  clear h
  show Walk true _ _ _
  try dsimp only
  repeat' first
    | (with_reducible exact Walk.refl)
    | (with_reducible apply Walk.step (k := State.reply_keeps))
    | (with_reducible apply Walk.step (k := State.writeData_keeps))
    | (show covers _ _ = true; rfl)
    | (split)

theorem execEpWriteSnapclr_keeps {x1 x2 s t} (h : @execEpWriteSnapclr x1 x2 s = .next t) : Keeps [.out, .cmd, .ing, .arc, .bil] s t := by
  unfold execEpWriteSnapclr at h
  have e := Host.Outcome.next.inj h
  subst e
  clear h
  show Walk true _ _ _
  repeat' first
    | (with_reducible exact Walk.refl)
    | (with_reducible apply Walk.step (k := State.queueEp_keeps))
    | (show covers _ _ = true; rfl)

theorem execEpRead_keeps {x1 x2 x3 x4 s t} (h : @execEpRead x1 x2 x3 x4 s = .next t) : Keeps [.out, .cmd, .hbr, .bil] s t := by
  unfold execEpRead at h
  have e := Host.Outcome.next.inj h
  subst e
  clear h
  show Walk true _ _ _
  try dsimp only
  repeat' first
    | (with_reducible exact Walk.refl)
    | (with_reducible apply Walk.step (k := State.reply_keeps))
    | (with_reducible apply Walk.step (k := State.writeData_keeps))
    | (show covers _ _ = true; rfl)
    | (split)

theorem execEpWriteKeyset_keeps {x1 x2 x3 s t} (h : @execEpWriteKeyset x1 x2 x3 s = .next t) : Keeps [.out, .cmd, .ing, .arc, .bil] s t := by
  unfold execEpWriteKeyset at h
  have e := Host.Outcome.next.inj h
  subst e
  clear h
  show Walk true _ _ _
  try dsimp only
  repeat' first
    | (with_reducible exact Walk.refl)
    | (with_reducible apply Walk.step (k := State.queueEp_keeps))
    | (with_reducible apply Walk.ite)
    | (show covers _ _ = true; rfl)
    | (split)

theorem execEpCreate_keeps {x1 x2 s t} (h : @execEpCreate x1 x2 s = .next t) : Keeps [.out, .cmd, .ing, .arc, .bil] s t := by
  unfold execEpCreate at h
  have e := Host.Outcome.next.inj h
  subst e
  clear h
  show Walk true _ _ _
  repeat' first
    | (with_reducible exact Walk.refl)
    | (with_reducible apply Walk.step (k := State.reply_keeps))
    | (with_reducible apply Walk.step (k := State.queueEp_keeps))
    | (show covers _ _ = true; rfl)
    | (split)

theorem execBackfillTlpAcknowledged_keeps {s t} (h : @execBackfillTlpAcknowledged s = .next t) : Keeps [.cmd, .ing, .bil] s t := by
  unfold execBackfillTlpAcknowledged at h
  have e := Host.Outcome.next.inj h
  subst e
  clear h
  show Walk true _ _ _
  try dsimp only
  repeat' first
    | (with_reducible exact Walk.refl)
    | (with_reducible apply Walk.step (k := State.setIng_keeps))
    | (with_reducible apply Walk.step (k := State.reply_keeps))
    | (show covers _ _ = true; rfl)
    | (split)

theorem execEpWriteHost_keeps {x1 x2 x3 s t} (h : @execEpWriteHost x1 x2 x3 s = .next t) : Keeps [.out, .cmd, .ing, .arc, .bil] s t := by
  unfold execEpWriteHost at h
  have e := Host.Outcome.next.inj h
  subst e
  clear h
  show Walk true _ _ _
  try dsimp only
  repeat' first
    | (with_reducible exact Walk.refl)
    | (with_reducible apply Walk.step (k := State.queueEp_keeps))
    | (with_reducible apply Walk.ite)
    | (show covers _ _ = true; rfl)
    | (split)

theorem execEpWriteReadwin_keeps {x1 x2 x3 s t} (h : @execEpWriteReadwin x1 x2 x3 s = .next t) : Keeps [.out, .cmd, .ing, .arc, .bil] s t := by
  unfold execEpWriteReadwin at h
  have e := Host.Outcome.next.inj h
  subst e
  clear h
  show Walk true _ _ _
  try dsimp only
  repeat' first
    | (with_reducible exact Walk.refl)
    | (with_reducible apply Walk.step (k := State.queueEp_keeps))
    | (with_reducible apply Walk.ite)
    | (show covers _ _ = true; rfl)
    | (split)

theorem execEpWriteAttr_keeps {x1 x2 x3 s t} (h : @execEpWriteAttr x1 x2 x3 s = .next t) : Keeps [.out, .cmd, .ing, .arc, .bil] s t := by
  unfold execEpWriteAttr at h
  have e := Host.Outcome.next.inj h
  subst e
  clear h
  show Walk true _ _ _
  try dsimp only
  repeat' first
    | (with_reducible exact Walk.refl)
    | (with_reducible apply Walk.step (k := State.queueEp_keeps))
    | (with_reducible apply Walk.step (k := State.reply_keeps))
    | (with_reducible apply Walk.ite)
    | (show covers _ _ = true; rfl)
    | (split)

theorem execEpLookup_keeps {x1 x2 s t} (h : @execEpLookup x1 x2 s = .next t) : Keeps [.cmd, .bil] s t := by
  unfold execEpLookup at h
  have e := Host.Outcome.next.inj h
  subst e
  clear h
  show Walk true _ _ _
  repeat' first
    | (with_reducible exact Walk.refl)
    | (with_reducible apply Walk.step (k := State.reply_keeps))
    | (with_reducible apply Walk.step (k := State.replyWith_keeps))
    | (show covers _ _ = true; rfl)
    | (split)

theorem execEpStatsBackfill_keeps {x1 s t} (h : @execEpStatsBackfill x1 s = .next t) : Keeps [.out, .cmd, .hbr, .ing, .bil] s t := by
  unfold execEpStatsBackfill at h
  have e := Host.Outcome.next.inj h
  subst e
  clear h
  show Walk true _ _ _
  repeat' first
    | (with_reducible exact Walk.refl)
    | (with_reducible apply Walk.step (k := State.reply_keeps))
    | (with_reducible apply Walk.step (k := State.setIng_keeps))
    | (with_reducible apply Walk.step (k := State.writeData_keeps))
    | (with_reducible refine Walk.update ?_ ?_ ?_ ?_ ?_ ?_ ?_ ?_ ?_ ?_ ?_ ?_ ?_ ?_ ?_ ?_ ?_ ?_ ?_ ?_ ?_ ?_ ?_ ?_ ?_ ?_ ?_ rfl rfl)
    | (exact .inl rfl)
    | (exact .inr rfl)
    | (show covers _ _ = true; rfl)
    | (split)

end Sys2Proof.Machine
end

