-- ==== Sys2Proof/Laws/KeepsGlb.lean ====
section
/-! SUPPORT. What each operation of Glb can change, and that it keeps the canonical forms. -/
set_option Elab.async false
namespace Sys2Proof.Machine

theorem execGlbStatus_keeps {x1 s t} (h : @execGlbStatus x1 s = .next t) : Keeps [.cmd, .bil] s t := by
  unfold execGlbStatus at h
  have e := Host.Outcome.next.inj h
  subst e
  clear h
  show Walk true _ _ _
  repeat' first
    | (with_reducible exact Walk.refl)
    | (with_reducible apply Walk.step (k := State.replyWith_keeps))
    | (show covers _ _ = true; rfl)

theorem State.laneResync_keeps {x1 x2 x3 s} : Keeps [.cmd] s (@State.laneResync x1 x2 x3 s) := by
  unfold State.laneResync
  show Walk true _ _ _
  try dsimp only
  repeat' first
    | (with_reducible exact Walk.refl)
    | (with_reducible apply Walk.step (k := State.laneAway_keeps))
    | (with_reducible apply Walk.ite)
    | (with_reducible apply Walk.foldl)
    | (with_reducible apply Walk.foldl1)
    | (with_reducible apply Walk.foldl2)
    | (intro _)
    | (with_reducible assumption)
    | (with_reducible refine Walk.update ?_ ?_ ?_ ?_ ?_ ?_ ?_ ?_ ?_ ?_ ?_ ?_ ?_ ?_ ?_ ?_ ?_ ?_ ?_ ?_ ?_ ?_ ?_ ?_ ?_ ?_ ?_ rfl rfl)
    | (exact .inl rfl)
    | (exact .inr rfl)
    | (show covers _ _ = true; rfl)
    | (split)

theorem execGlbLaneResync_keeps {x1 x2 x3 s t} (h : @execGlbLaneResync x1 x2 x3 s = .next t) : Keeps [.regs, .out, .dev, .cmd, .evr, .plc, .rfx, .msh, .bil, .win 0, .win 4, .win 5, .win 21] s t := by
  unfold execGlbLaneResync at h
  have e := Host.Outcome.next.inj h
  subst e
  clear h
  show Walk true _ _ _
  try dsimp only
  repeat' first
    | (with_reducible exact Walk.refl)
    | (with_reducible apply Walk.step (k := State.laneLook_keeps))
    | (with_reducible apply Walk.step (k := State.laneResync_keeps))
    | (with_reducible apply Walk.step (k := State.reply_keeps))
    | (with_reducible apply Walk.ite)
    | (show covers _ _ = true; rfl)
    | (split)

theorem execGlbStateSet_keeps {x1 x2 s t} (h : @execGlbStateSet x1 x2 s = .next t) : Keeps [.regs, .out, .dev, .cmd, .evr, .plc, .rfx, .msh, .bil, .wins] s t := by
  unfold execGlbStateSet at h
  have e := Host.Outcome.next.inj h
  subst e
  clear h
  show Walk true _ _ _
  try dsimp only
  repeat' first
    | (with_reducible exact Walk.refl)
    | (with_reducible apply Walk.step (k := State.enterState_keeps))
    | (with_reducible apply Walk.step (k := State.lockViolation_keeps))
    | (with_reducible apply Walk.step (k := State.reply_keeps))
    | (with_reducible apply Walk.step (k := State.replyWith_keeps))
    | (with_reducible apply Walk.step (k := State.setRegBit_keeps))
    | (with_reducible apply Walk.ite)
    | (show covers _ _ = true; rfl)
    | (split)

theorem execGlbNop_keeps {x1 s t} (h : @execGlbNop x1 s = .next t) : Keeps [.cmd, .bil] s t := by
  unfold execGlbNop at h
  have e := Host.Outcome.next.inj h
  subst e
  clear h
  show Walk true _ _ _
  repeat' first
    | (with_reducible exact Walk.refl)
    | (with_reducible apply Walk.step (k := State.reply_keeps))
    | (show covers _ _ = true; rfl)

theorem execGlbIdentify_keeps {x1 s t} (h : @execGlbIdentify x1 s = .next t) : Keeps [.out, .cmd, .hbr, .bil] s t := by
  unfold execGlbIdentify at h
  have e := Host.Outcome.next.inj h
  subst e
  clear h
  show Walk true _ _ _
  repeat' first
    | (with_reducible exact Walk.refl)
    | (with_reducible apply Walk.step (k := State.replyWith_keeps))
    | (with_reducible apply Walk.step (k := State.writeData_keeps))
    | (show covers _ _ = true; rfl)

end Sys2Proof.Machine
end

