-- ==== Sys2Proof/Laws/KeepsHostAccess.lean ====
section
/-! SUPPORT. What each operation of HostAccess can change, and that it keeps the canonical forms. -/
set_option Elab.async false
namespace Sys2Proof.Machine

theorem State.selectorInvalid_keeps {x1 s} : Keeps [.regs, .win 2] s (@State.selectorInvalid x1 s) := by
  unfold State.selectorInvalid
  show Walk true _ _ _
  repeat' first
    | (with_reducible exact Walk.refl)
    | (with_reducible apply Walk.step (k := State.bump_keeps))
    | (show covers _ _ = true; rfl)
    | (split)

theorem State.stageLow_keeps {x1 x2 x3 s} : Keeps [.regs, .hbr, .win 2] s (@State.stageLow x1 x2 x3 s) := by
  unfold State.stageLow
  show Walk true _ _ _
  try dsimp only
  repeat' first
    | (with_reducible exact Walk.refl)
    | (with_reducible apply Walk.step (k := State.selectorInvalid_keeps))
    | (split)
    | (with_reducible refine Walk.update ?_ ?_ ?_ ?_ ?_ ?_ ?_ ?_ ?_ ?_ ?_ ?_ ?_ ?_ ?_ ?_ ?_ ?_ ?_ ?_ ?_ ?_ ?_ ?_ ?_ ?_ ?_ rfl rfl)
    | (exact .inl rfl)
    | (exact .inr rfl)
    | (show covers _ _ = true; rfl)

theorem State.readDword_keeps {x1 x2 s} : Keeps [.regs, .hbr, .wins] s (@State.readDword x1 x2 s).2 := by
  unfold State.readDword
  show Walk true _ _ _
  repeat' first
    | (with_reducible exact Walk.refl)
    | (with_reducible apply Walk.step (k := State.selectorInvalid_keeps))
    | (with_reducible apply Walk.step (k := State.setKey_keeps))
    | (with_reducible apply Walk.step (k := State.setPair_keeps))
    | (exact .inl rfl)
    | (exact .inr rfl)
    | (show covers _ _ = true; rfl)
    | (split)
    | (with_reducible refine Walk.update ?_ ?_ ?_ ?_ ?_ ?_ ?_ ?_ ?_ ?_ ?_ ?_ ?_ ?_ ?_ ?_ ?_ ?_ ?_ ?_ ?_ ?_ ?_ ?_ ?_ ?_ ?_ rfl rfl)
theorem State.readDword_keeps_of {x1 x2 s a1 t} (h : @State.readDword x1 x2 s = (a1, t)) : Keeps [.regs, .hbr, .wins] s t := by
  have := @State.readDword_keeps x1 x2 s
  rw [h] at this
  exact this

theorem State.writeByCode_keeps {x1 x2 x3 s} : Keeps [.regs, .evr, .wins] s (@State.writeByCode x1 x2 x3 s) := by
  unfold State.writeByCode
  show Walk true _ _ _
  try dsimp only
  repeat' first
    | (with_reducible exact Walk.refl)
    | (with_reducible apply Walk.step (k := State.lockViolation_keeps))
    | (with_reducible apply Walk.ite)
    | (split)
    | (with_reducible apply Walk.step (k := State.setKey_keeps))
    | (show covers _ _ = true; rfl)

theorem State.commitHigh_keeps {x1 x2 x3 s} : Keeps [.regs, .hbr, .evr, .wins] s (@State.commitHigh x1 x2 x3 s) := by
  unfold State.commitHigh
  show Walk true _ _ _
  try dsimp only
  repeat' first
    | (with_reducible exact Walk.refl)
    | (with_reducible apply Walk.step (k := State.lockViolation_keeps))
    | (with_reducible apply Walk.step (k := State.selectorInvalid_keeps))
    | (with_reducible apply Walk.step (k := State.writeByCode_keeps))
    | (with_reducible apply Walk.ite)
    | (split)
    | (with_reducible refine Walk.update ?_ ?_ ?_ ?_ ?_ ?_ ?_ ?_ ?_ ?_ ?_ ?_ ?_ ?_ ?_ ?_ ?_ ?_ ?_ ?_ ?_ ?_ ?_ ?_ ?_ ?_ ?_ rfl rfl)
    | (exact .inl rfl)
    | (exact .inr rfl)
    | (show covers _ _ = true; rfl)

theorem execHighWordWrite_keeps {x1 x2 x3 s t} (h : @execHighWordWrite x1 x2 x3 s = .next t) : Keeps [.regs, .hbr, .evr, .wins] s t := by
  unfold execHighWordWrite at h
  have e := Host.Outcome.next.inj h
  subst e
  clear h
  show Walk true _ _ _
  repeat' first
    | (with_reducible exact Walk.refl)
    | (with_reducible apply Walk.step (k := State.commitHigh_keeps))
    | (show covers _ _ = true; rfl)
    | (split)

theorem execUnitLockWrite_keeps {x1 x2 s t} (h : @execUnitLockWrite x1 x2 s = .next t) : Keeps [.regs, .wins] s t := by
  unfold execUnitLockWrite at h
  have e := Host.Outcome.next.inj h
  subst e
  clear h
  show Walk true _ _ _
  repeat' first
    | (with_reducible exact Walk.refl)
    | (with_reducible apply Walk.step (k := State.setRegBit_keeps))
    | (show covers _ _ = true; rfl)
    | (split)

theorem State.answerRead_keeps {x1 x2 x3 s} : Keeps [.out] s (@State.answerRead x1 x2 x3 s) := by
  unfold State.answerRead
  show Walk true _ _ _
  try dsimp only
  repeat' first
    | (with_reducible exact Walk.refl)
    | (with_reducible apply Walk.step (k := State.emit_keeps))
    | (show covers _ _ = true; rfl)
    | (split)

theorem State.readDwords_keeps {x1 x2 x3 s} : Keeps [.regs, .hbr, .wins] s (@State.readDwords x1 x2 x3 s).2 := by
  induction x2 generalizing x3 s with
  | zero => exact Keeps.refl
  | succ n ih =>
    unfold State.readDwords
    exact Keeps.step State.readDword_keeps ih (by rfl)

theorem State.readDwords_keeps_of {x1 x2 x3 s a1 t} (h : @State.readDwords x1 x2 x3 s = (a1, t)) : Keeps [.regs, .hbr, .wins] s t := by
  have := @State.readDwords_keeps x1 x2 x3 s
  rw [h] at this
  exact this

theorem execSeamWindowReadResponse_keeps {s t} (h : @execSeamWindowReadResponse s = .next t) : Keeps [.regs, .out, .seam, .hbr, .wins] s t := by
  unfold execSeamWindowReadResponse at h
  have e := Host.Outcome.next.inj h
  subst e
  clear h
  show Walk true _ _ _
  try dsimp only
  repeat' first
    | (with_reducible exact Walk.refl)
    | (with_reducible apply Walk.step (k := State.answerRead_keeps))
    | (with_reducible refine Walk.step ?_ (State.readDwords_keeps_of (by assumption)) ?_)
    | (with_reducible apply Walk.step (k := State.readDwords_keeps))
    | (with_reducible apply Walk.step (k := State.seamSend_keeps))
    | (split)
    | (with_reducible refine Walk.update ?_ ?_ ?_ ?_ ?_ ?_ ?_ ?_ ?_ ?_ ?_ ?_ ?_ ?_ ?_ ?_ ?_ ?_ ?_ ?_ ?_ ?_ ?_ ?_ ?_ ?_ ?_ rfl rfl)
    | (exact .inl rfl)
    | (exact .inr rfl)
    | (show covers _ _ = true; rfl)

theorem State.writeVector_keeps {x1 x2 x3 s} : Keeps [.hbr] s (@State.writeVector x1 x2 x3 s) := by
  unfold State.writeVector
  show Walk true _ _ _
  repeat' first
    | (with_reducible exact Walk.refl)
    | (with_reducible refine Walk.update ?_ ?_ ?_ ?_ ?_ ?_ ?_ ?_ ?_ ?_ ?_ ?_ ?_ ?_ ?_ ?_ ?_ ?_ ?_ ?_ ?_ ?_ ?_ ?_ ?_ ?_ ?_ rfl rfl)
    | (exact .inl rfl)
    | (exact .inr rfl)

theorem State.afterWrite_keeps {x1 s} : Keeps [.regs, .out, .hbr, .fab, .pwr, .tim, .ing, .plc, .rfx, .cod, .los, .par, .win 1, .win 3, .win 5, .win 8, .win 9, .win 19, .win 20] s (@State.afterWrite x1 s) := by
  unfold State.afterWrite
  show Walk true _ _ _
  try dsimp only
  repeat' first
    | (with_reducible exact Walk.refl)
    | (with_reducible apply Walk.step (k := State.fixedGains_keeps))
    | (with_reducible apply Walk.step (k := State.rampOne_keeps))
    | (with_reducible apply Walk.step (k := State.stormOff_keeps))
    | (with_reducible apply Walk.step (k := State.switchOff_keeps))
    | (with_reducible apply Walk.step (k := State.zcAuto_keeps))
    | (with_reducible apply Walk.ite)
    | (with_reducible refine Walk.update ?_ ?_ ?_ ?_ ?_ ?_ ?_ ?_ ?_ ?_ ?_ ?_ ?_ ?_ ?_ ?_ ?_ ?_ ?_ ?_ ?_ ?_ ?_ ?_ ?_ ?_ ?_ rfl rfl)
    | (exact .inl rfl)
    | (exact .inr rfl)
    | (show covers _ _ = true; rfl)
    | (with_reducible apply Walk.foldl)
    | (with_reducible apply Walk.foldl1)
    | (with_reducible apply Walk.foldl2)
    | (intro _)
    | (with_reducible assumption)
    | (split)

theorem State.writeDword_keeps {x1 x2 x3 s} : Keeps [.regs, .out, .hbr, .fab, .pwr, .evr, .tim, .ing, .plc, .rfx, .cod, .los, .par, .wins] s (@State.writeDword x1 x2 x3 s) := by
  unfold State.writeDword
  show Walk true _ _ _
  repeat' first
    | (with_reducible exact Walk.refl)
    | (with_reducible apply Walk.step (k := State.writeVector_keeps))
    | (with_reducible apply Walk.step (k := State.stageLow_keeps))
    | (with_reducible apply Walk.step (k := State.commitHigh_keeps))
    | (with_reducible apply Walk.step (k := State.selectorInvalid_keeps))
    | (with_reducible apply Walk.step (k := State.afterWrite_keeps))
    | (with_reducible apply Walk.step (k := State.writeByCode_keeps))
    | (show covers _ _ = true; rfl)
    | (split)

theorem State.writeDwords_keeps {x1 x2 x3 s} : Keeps [.regs, .out, .hbr, .fab, .pwr, .evr, .tim, .ing, .plc, .rfx, .cod, .los, .par, .wins] s (@State.writeDwords x1 x2 x3 s) := by
  induction x2 generalizing x3 s with
  | nil => exact Keeps.refl
  | cons w t ih =>
    unfold State.writeDwords
    show Walk true _ _ _
    try dsimp only
    repeat' first
      | (with_reducible apply Walk.step (k := ih))
      | (with_reducible exact Walk.refl)
      | (with_reducible assumption)
      | (with_reducible apply Walk.step (k := State.writeDword_keeps))
      | (with_reducible apply Walk.step (k := State.bump_keeps))
      | (with_reducible apply Walk.step (k := ih))
      | (with_reducible apply Walk.foldl)
      | (with_reducible apply Walk.foldl1)
      | (with_reducible apply Walk.foldl2)
      | (with_reducible apply Walk.ite)
      | (intro _)
      | (exact .inl rfl)
      | (exact .inr rfl)
      | (show covers _ _ = true; rfl)

theorem State.writeVfWords_keeps {x1 x2 x3 s} : Keeps [.regs, .hbr, .win 1] s (@State.writeVfWords x1 x2 x3 s) := by
  induction x2 generalizing x3 s with
  | nil => exact Keeps.refl
  | cons w t ih =>
    unfold State.writeVfWords
    show Walk true _ _ _
    try dsimp only
    repeat' first
      | (with_reducible apply Walk.step (k := ih))
      | (with_reducible exact Walk.refl)
      | (with_reducible assumption)
      | (with_reducible apply Walk.step (k := State.bump_keeps))
      | (with_reducible apply Walk.step (k := State.writeVector_keeps))
      | (with_reducible apply Walk.step (k := ih))
      | (with_reducible apply Walk.foldl)
      | (with_reducible apply Walk.foldl1)
      | (with_reducible apply Walk.foldl2)
      | (with_reducible apply Walk.ite)
      | (intro _)
      | (exact .inl rfl)
      | (exact .inr rfl)
      | (show covers _ _ = true; rfl)

theorem State.seamRead_keeps {x1 s} : Keeps [.out, .seam, .hbr] s (@State.seamRead x1 s) := by
  unfold State.seamRead
  show Walk true _ _ _
  try dsimp only
  repeat' first
    | (with_reducible exact Walk.refl)
    | (with_reducible apply Walk.step (k := State.seamSend_keeps))
    | (with_reducible apply Walk.ite)
    | (with_reducible refine Walk.update ?_ ?_ ?_ ?_ ?_ ?_ ?_ ?_ ?_ ?_ ?_ ?_ ?_ ?_ ?_ ?_ ?_ ?_ ?_ ?_ ?_ ?_ ?_ ?_ ?_ ?_ ?_ rfl rfl)
    | (exact .inl rfl)
    | (exact .inr rfl)
    | (show covers _ _ = true; rfl)
    | (split)

theorem execLowWordRead_keeps {x1 x2 x3 s t} (h : @execLowWordRead x1 x2 x3 s = .next t) : Keeps [.regs, .out, .seam, .hbr, .wins] s t := by
  unfold execLowWordRead at h
  have e := Host.Outcome.next.inj h
  subst e
  clear h
  show Walk true _ _ _
  try dsimp only
  repeat' first
    | (with_reducible exact Walk.refl)
    | (with_reducible apply Walk.step (k := State.answerRead_keeps))
    | (with_reducible apply Walk.step (k := State.emit_keeps))
    | (with_reducible refine Walk.step ?_ (State.readDwords_keeps_of (by assumption)) ?_)
    | (with_reducible apply Walk.step (k := State.readDwords_keeps))
    | (with_reducible apply Walk.step (k := State.seamRead_keeps))
    | (with_reducible apply Walk.ite)
    | (show covers _ _ = true; rfl)
    | (split)

theorem execSeamWindowRead_keeps {x1 x2 s t} (h : @execSeamWindowRead x1 x2 s = .next t) : Keeps [.out, .seam, .hbr] s t := by
  unfold execSeamWindowRead at h
  have e := Host.Outcome.next.inj h
  subst e
  clear h
  show Walk true _ _ _
  try dsimp only
  repeat' first
    | (with_reducible exact Walk.refl)
    | (with_reducible apply Walk.step (k := State.seamRead_keeps))
    | (with_reducible apply Walk.ite)
    | (with_reducible refine Walk.update ?_ ?_ ?_ ?_ ?_ ?_ ?_ ?_ ?_ ?_ ?_ ?_ ?_ ?_ ?_ ?_ ?_ ?_ ?_ ?_ ?_ ?_ ?_ ?_ ?_ ?_ ?_ rfl rfl)
    | (exact .inl rfl)
    | (exact .inr rfl)
    | (show covers _ _ = true; rfl)
    | (split)

theorem State.answerBar4_keeps {x1 x2 s} : Keeps [.out] s (@State.answerBar4 x1 x2 s) := by
  unfold State.answerBar4
  show Walk true _ _ _
  try dsimp only
  repeat' first
    | (with_reducible exact Walk.refl)
    | (with_reducible apply Walk.step (k := State.emit_keeps))
    | (with_reducible apply Walk.foldl)
    | (with_reducible apply Walk.foldl1)
    | (with_reducible apply Walk.foldl2)
    | (intro _)
    | (with_reducible assumption)
    | (show covers _ _ = true; rfl)
    | (split)

theorem State.refuseRead_keeps {x1 x2 s} : Keeps [.out, .hbr] s (@State.refuseRead x1 x2 s) := by
  unfold State.refuseRead
  show Walk true _ _ _
  try dsimp only
  repeat' first
    | (with_reducible exact Walk.refl)
    | (with_reducible apply Walk.step (k := State.advisory_keeps))
    | (with_reducible apply Walk.step (k := State.aerError_keeps))
    | (with_reducible apply Walk.step (k := State.emit_keeps))
    | (show covers _ _ = true; rfl)
    | (split)

theorem execRcRegisterRead_keeps {x1 x2 s t} (h : @execRcRegisterRead x1 x2 s = .next t) : Keeps [.regs, .out, .seam, .hbr, .wins] s t := by
  unfold execRcRegisterRead at h
  have e := Host.Outcome.next.inj h
  subst e
  clear h
  show Walk true _ _ _
  try dsimp only
  repeat' first
    | (with_reducible exact Walk.refl)
    | (with_reducible apply Walk.step (k := State.answerBar4_keeps))
    | (with_reducible apply Walk.step (k := State.answerRead_keeps))
    | (with_reducible apply Walk.step (k := State.bump_keeps))
    | (with_reducible apply Walk.step (k := State.emit_keeps))
    | (with_reducible refine Walk.step ?_ (State.readDwords_keeps_of (by assumption)) ?_)
    | (with_reducible apply Walk.step (k := State.readDwords_keeps))
    | (with_reducible apply Walk.step (k := State.refuseRead_keeps))
    | (with_reducible apply Walk.step (k := State.seamRead_keeps))
    | (with_reducible apply Walk.ite)
    | (show covers _ _ = true; rfl)
    | (split)

theorem execLowWordWrite_keeps {x1 x2 x3 s t} (h : @execLowWordWrite x1 x2 x3 s = .next t) : Keeps [.regs, .hbr, .win 2] s t := by
  unfold execLowWordWrite at h
  have e := Host.Outcome.next.inj h
  subst e
  clear h
  show Walk true _ _ _
  repeat' first
    | (with_reducible exact Walk.refl)
    | (with_reducible apply Walk.step (k := State.stageLow_keeps))
    | (show covers _ _ = true; rfl)
    | (split)

theorem State.doorbell_keeps {x1 x2 x3 s} : Keeps [.regs, .cmd, .hbr, .evr, .win 2, .win 21] s (@State.doorbell x1 x2 x3 s) := by
  unfold State.doorbell
  show Walk true _ _ _
  try dsimp only
  repeat' first
    | (with_reducible exact Walk.refl)
    | (with_reducible apply Walk.step (k := State.cqHead_keeps))
    | (with_reducible apply Walk.step (k := State.doorbellDrop_keeps))
    | (with_reducible apply Walk.step (k := State.headDoorbell_keeps))
    | (with_reducible apply Walk.step (k := State.keepDoorbell_keeps))
    | (with_reducible apply Walk.step (k := State.sqTail_keeps))
    | (with_reducible apply Walk.ite)
    | (split)
    | (show covers _ _ = true; rfl)

theorem State.doorbells_keeps {x1 x2 x3 s} : Keeps [.regs, .cmd, .hbr, .evr, .win 2, .win 21] s (@State.doorbells x1 x2 x3 s) := by
  unfold State.doorbells
  show Walk true _ _ _
  try dsimp only
  repeat' first
    | (with_reducible exact Walk.refl)
    | (with_reducible apply Walk.step (k := State.bump_keeps))
    | (with_reducible apply Walk.step (k := State.doorbell_keeps))
    | (with_reducible apply Walk.ite)
    | (show covers _ _ = true; rfl)
    | (split)

theorem execHostRegisterWrite_keeps {x1 x2 s t} (h : @execHostRegisterWrite x1 x2 s = .next t) : Keeps [.regs, .out, .cmd, .hbr, .fab, .pwr, .evr, .tim, .ing, .plc, .rfx, .cod, .los, .par, .wins] s t := by
  unfold execHostRegisterWrite at h
  have e := Host.Outcome.next.inj h
  subst e
  clear h
  show Walk true _ _ _
  try dsimp only
  repeat' first
    | (with_reducible exact Walk.refl)
    | (with_reducible apply Walk.step (k := State.bump_keeps))
    | (with_reducible apply Walk.step (k := State.cfgWrites_keeps))
    | (with_reducible apply Walk.step (k := State.doorbells_keeps))
    | (with_reducible apply Walk.step (k := State.writeDwords_keeps))
    | (with_reducible apply Walk.step (k := State.writeVfWords_keeps))
    | (with_reducible apply Walk.ite)
    | (show covers _ _ = true; rfl)
    | (split)

end Sys2Proof.Machine
end

