-- ==== Sys2Proof/Laws/KeepsMet.lean ====
section
/-! SUPPORT. What each operation of Met can change, and that it keeps the canonical forms. -/
set_option Elab.async false
namespace Sys2Proof.Machine

theorem State.followPower_keeps {x1 x2 s} : Keeps [.pwr, .met] s (@State.followPower x1 x2 s) := by
  unfold State.followPower
  show Walk true _ _ _
  try dsimp only
  repeat' first
    | (with_reducible exact Walk.refl)
    | (with_reducible apply Walk.step (k := State.domRamp_keeps))
    | (with_reducible apply Walk.step (k := State.domDown_keeps))
    | (with_reducible apply Walk.step (k := State.setMet_keeps))
    | (with_reducible apply Walk.foldl)
    | (intro _)
    | (show covers _ _ = true; rfl)
    | (split)

theorem State.metTurn_walk {b qs x1 x2 s0 s} (h : Walk true qs s0 s) (hf : ∀ u, Walk true qs u (x2 u)) (hq : may qs 22 = true) :
    Walk b qs s0 (@State.metTurn x1 x2 s) := by
  unfold State.metTurn
  have hm : covers [.met] qs = true := by
    simp only [covers, List.all_cons, List.all_nil, Part.code, hq, Bool.or_true, Bool.and_true]
  exact Keeps.ite (Keeps.step h State.setMet_keeps hm) (Keeps.trans h (hf s))

theorem State.calRefuse_keeps {x1 x2 s} : Keeps [.regs, .cmd, .bil, .win 12] s (@State.calRefuse x1 x2 s) := by
  unfold State.calRefuse
  show Walk true _ _ _
  repeat' first
    | (with_reducible exact Walk.refl)
    | (with_reducible apply Walk.step (k := State.reply_keeps))
    | (with_reducible apply Walk.step (k := State.bump_keeps))
    | (show covers _ _ = true; rfl)

theorem State.calStore_keeps {x1 x2 x3 x4 s} : Keeps [.regs, .out, .freeCtr, .cmd, .hbr, .evr, .kvt, .met, .bil, .win 1, .win 12, .win 14, .win 21] s (@State.calStore x1 x2 x3 x4 s) := by
  unfold State.calStore
  show Walk true _ _ _
  try dsimp only
  repeat' first
    | (with_reducible exact Walk.refl)
    | (with_reducible apply Walk.step (k := State.calRefuse_keeps))
    | (with_reducible apply Walk.step (k := State.ledLook_keeps))
    | (with_reducible apply Walk.step (k := State.replyWith_keeps))
    | (with_reducible apply Walk.step (k := State.sealEvent_keeps))
    | (with_reducible apply Walk.step (k := State.setMet_keeps))
    | (with_reducible apply Walk.step (k := State.wordFailed_keeps))
    | (with_reducible apply Walk.ite)
    | (split)
    | (with_reducible refine Walk.update ?_ ?_ ?_ ?_ ?_ ?_ ?_ ?_ ?_ ?_ ?_ ?_ ?_ ?_ ?_ ?_ ?_ ?_ ?_ ?_ ?_ ?_ ?_ ?_ ?_ ?_ ?_ rfl rfl)
    | (exact .inl rfl)
    | (exact .inr rfl)
    | (show covers _ _ = true; rfl)

theorem execMetCalStore_keeps {x1 x2 x3 x4 s t} (h : @execMetCalStore x1 x2 x3 x4 s = .next t) : Keeps [.regs, .out, .freeCtr, .cmd, .hbr, .evr, .kvt, .met, .bil, .win 1, .win 12, .win 14, .win 21] s t := by
  unfold execMetCalStore at h
  have e := Host.Outcome.next.inj h
  subst e
  clear h
  show Walk true _ _ _
  try dsimp only
  repeat' first
    | (with_reducible exact Walk.refl)
    | (with_reducible apply Walk.step (k := State.calStore_keeps))
    | (with_reducible apply Walk.ite)
    | (show covers _ _ = true; rfl)
    | (with_reducible apply State.metTurn_walk)
    | (intro _)
    | (show may _ _ = true; rfl)
    | (split)

theorem execMetSample_keeps {x1 x2 s t} (h : @execMetSample x1 x2 s = .next t) : Keeps [.regs, .out, .freeCtr, .seam, .met, .win 12] s t := by
  unfold execMetSample at h
  have e := Host.Outcome.next.inj h
  subst e
  clear h
  show Walk true _ _ _
  try dsimp only
  repeat' first
    | (with_reducible exact Walk.refl)
    | (with_reducible apply Walk.step (k := State.metSample_keeps))
    | (with_reducible apply Walk.ite)
    | (show covers _ _ = true; rfl)
    | (split)

theorem State.metConfig_keeps {x1 x2 x3 x4 x5 s} : Keeps [.regs, .out, .cmd, .hbr, .pwr, .evr, .plc, .los, .met, .bil, .win 1, .win 21] s (@State.metConfig x1 x2 x3 x4 x5 s) := by
  unfold State.metConfig
  show Walk true _ _ _
  try dsimp only
  repeat' first
    | (with_reducible exact Walk.refl)
    | (with_reducible apply Walk.step (k := State.auditNow_keeps))
    | (with_reducible apply Walk.step (k := State.followPower_keeps))
    | (with_reducible apply Walk.step (k := State.headLook_keeps))
    | (with_reducible apply Walk.step (k := State.ledLook_keeps))
    | (with_reducible apply Walk.step (k := State.reply_keeps))
    | (with_reducible apply Walk.step (k := State.setMet_keeps))
    | (with_reducible apply Walk.step (k := State.zcMetOff_keeps))
    | (with_reducible apply Walk.ite)
    | (with_reducible refine Walk.update ?_ ?_ ?_ ?_ ?_ ?_ ?_ ?_ ?_ ?_ ?_ ?_ ?_ ?_ ?_ ?_ ?_ ?_ ?_ ?_ ?_ ?_ ?_ ?_ ?_ ?_ ?_ rfl rfl)
    | (exact .inl rfl)
    | (exact .inr rfl)
    | (show covers _ _ = true; rfl)
    | (split)

theorem execMetConfig_keeps {x1 x2 x3 x4 s t} (h : @execMetConfig x1 x2 x3 x4 s = .next t) : Keeps [.regs, .out, .cmd, .hbr, .pwr, .evr, .plc, .los, .met, .bil, .win 1, .win 21] s t := by
  unfold execMetConfig at h
  have e := Host.Outcome.next.inj h
  subst e
  clear h
  show Walk true _ _ _
  repeat' first
    | (with_reducible exact Walk.refl)
    | (with_reducible apply State.metTurn_walk)
    | (with_reducible apply Walk.step (k := State.metConfig_keeps))
    | (intro _)
    | (show covers _ _ = true; rfl)
    | (show may _ _ = true; rfl)

theorem execMetRead_keeps {x1 x2 x3 s t} (h : @execMetRead x1 x2 x3 s = .next t) : Keeps [.out, .cmd, .hbr, .bil] s t := by
  unfold execMetRead at h
  have e := Host.Outcome.next.inj h
  subst e
  clear h
  show Walk true _ _ _
  repeat' first
    | (with_reducible exact Walk.refl)
    | (with_reducible apply Walk.step (k := State.replyWith_keeps))
    | (with_reducible apply Walk.step (k := State.writeData_keeps))
    | (with_reducible apply Walk.step (k := State.reply_keeps))
    | (show covers _ _ = true; rfl)
    | (split)

theorem State.calSeal_keeps {x1 x2 s} : Keeps [.regs, .out, .cmd, .evr, .met, .bil, .win 12, .win 21] s (@State.calSeal x1 x2 s) := by
  unfold State.calSeal
  show Walk true _ _ _
  repeat' first
    | (with_reducible exact Walk.refl)
    | (with_reducible apply Walk.step (k := State.calRefuse_keeps))
    | (with_reducible apply Walk.step (k := State.setMet_keeps))
    | (with_reducible apply Walk.step (k := State.sealEvent_keeps))
    | (with_reducible apply Walk.step (k := State.replyWith_keeps))
    | (with_reducible apply Walk.step (k := State.ledLook_keeps))
    | (show covers _ _ = true; rfl)
    | (split)

theorem State.calUnseal_keeps {x1 x2 s} : Keeps [.regs, .out, .freeCtr, .cmd, .evr, .kvt, .met, .bil, .win 12, .win 14, .win 21] s (@State.calUnseal x1 x2 s) := by
  unfold State.calUnseal
  show Walk true _ _ _
  try dsimp only
  repeat' first
    | (with_reducible exact Walk.refl)
    | (with_reducible apply Walk.step (k := State.calRefuse_keeps))
    | (with_reducible apply Walk.step (k := State.authUsed_keeps))
    | (with_reducible apply Walk.step (k := State.setMet_keeps))
    | (with_reducible apply Walk.step (k := State.sealEvent_keeps))
    | (with_reducible apply Walk.step (k := State.replyWith_keeps))
    | (with_reducible apply Walk.step (k := State.ledLook_keeps))
    | (show covers _ _ = true; rfl)
    | (split)

theorem State.runMet_keeps {x1 s} : Keeps [.regs, .out, .freeCtr, .cmd, .hbr, .pwr, .evr, .kvt, .plc, .los, .met, .bil, .win 1, .win 12, .win 14, .win 21] s (@State.runMet x1 s) := by
  unfold State.runMet
  show Walk true _ _ _
  try dsimp only
  repeat' first
    | (with_reducible exact Walk.refl)
    | (with_reducible apply Walk.step (k := State.calSeal_keeps))
    | (with_reducible apply Walk.step (k := State.calStore_keeps))
    | (with_reducible apply Walk.step (k := State.calUnseal_keeps))
    | (with_reducible apply Walk.step (k := State.metConfig_keeps))
    | (split)
    | (show covers _ _ = true; rfl)

theorem State.runWaiting_keeps {s} : Keeps [.regs, .out, .freeCtr, .cmd, .hbr, .pwr, .evr, .kvt, .plc, .los, .met, .bil, .win 1, .win 12, .win 14, .win 21] s (@State.runWaiting s) := by
  unfold State.runWaiting State.metTurn
  show Walk true _ _ _
  try dsimp only
  repeat' first
    | (with_reducible exact Walk.refl)
    | (with_reducible apply Walk.step (k := State.runMet_keeps))
    | (with_reducible apply Walk.step (k := State.setMet_keeps))
    | (with_reducible apply Walk.ite)
    | (with_reducible apply Walk.foldl)
    | (with_reducible apply Walk.foldl1)
    | (with_reducible apply Walk.foldl2)
    | (intro _)
    | (with_reducible assumption)
    | (with_reducible refine Walk.update ?_ ?_ ?_ ?_ ?_ ?_ ?_ ?_ ?_ ?_ ?_ ?_ ?_ ?_ ?_ ?_ ?_ ?_ ?_ ?_ ?_ ?_ ?_ ?_ ?_ ?_ ?_ rfl rfl)
    | (exact .inl rfl)
    | (exact .inr rfl)
    | (show covers _ _ = true; rfl)
    | (split)

theorem execTamperSample_keeps {x1 s t} (h : @execTamperSample x1 s = .next t) : Keeps [.regs, .out, .freeCtr, .dev, .seam, .cmd, .hbr, .pwr, .evr, .kvt, .plc, .rfx, .msh, .los, .met, .bil, .win 0, .win 1, .win 4, .win 5, .win 12, .win 14, .win 21] s t := by
  unfold execTamperSample at h
  have e := Host.Outcome.next.inj h
  subst e
  clear h
  show Walk true _ _ _
  repeat' first
    | (with_reducible exact Walk.refl)
    | (with_reducible apply Walk.step (k := State.runWaiting_keeps))
    | (with_reducible apply Walk.step (k := State.tamperSample_keeps))
    | (show covers _ _ = true; rfl)
    | (split)

theorem execMetTermAck_keeps {x1 x2 x3 x4 s t} (h : @execMetTermAck x1 x2 x3 x4 s = .next t) : Keeps [.regs, .out, .cmd, .hbr, .pwr, .evr, .plc, .los, .met, .bil, .win 1, .win 21] s t := by
  unfold execMetTermAck at h
  have e := Host.Outcome.next.inj h
  subst e
  clear h
  show Walk true _ _ _
  repeat' first
    | (with_reducible exact Walk.refl)
    | (with_reducible apply State.metTurn_walk)
    | (with_reducible apply Walk.step (k := State.metConfig_keeps))
    | (intro _)
    | (show covers _ _ = true; rfl)
    | (show may _ _ = true; rfl)

theorem execMetRegisterSave_keeps {s t} (h : @execMetRegisterSave s = .next t) : Keeps [.met] s t := by
  unfold execMetRegisterSave at h
  have e := Host.Outcome.next.inj h
  subst e
  clear h
  show Walk true _ _ _
  repeat' first
    | (with_reducible exact Walk.refl)
    | (with_reducible apply Walk.step (k := State.setMet_keeps))
    | (show covers _ _ = true; rfl)

theorem execMetSeal_keeps {x1 x2 s t} (h : @execMetSeal x1 x2 s = .next t) : Keeps [.regs, .out, .cmd, .evr, .met, .bil, .win 12, .win 21] s t := by
  unfold execMetSeal at h
  have e := Host.Outcome.next.inj h
  subst e
  clear h
  show Walk true _ _ _
  repeat' first
    | (with_reducible exact Walk.refl)
    | (with_reducible apply State.metTurn_walk)
    | (with_reducible apply Walk.step (k := State.calSeal_keeps))
    | (intro _)
    | (show covers _ _ = true; rfl)
    | (show may _ _ = true; rfl)

theorem execMetSealRead_keeps {x1 x2 x3 s t} (h : @execMetSealRead x1 x2 x3 s = .next t) : Keeps [.regs, .out, .cmd, .hbr, .bil, .win 14] s t := by
  unfold execMetSealRead at h
  have e := Host.Outcome.next.inj h
  subst e
  clear h
  show Walk true _ _ _
  repeat' first
    | (with_reducible exact Walk.refl)
    | (with_reducible apply Walk.step (k := State.reply_keeps))
    | (with_reducible apply Walk.step (k := State.writeData_keeps))
    | (with_reducible apply Walk.step (k := State.signed_keeps))
    | (show covers _ _ = true; rfl)
    | (split)

theorem execMetPulseOut_keeps {s t} (h : @execMetPulseOut s = .next t) : Keeps [.regs, .out, .met, .win 12] s t := by
  unfold execMetPulseOut at h
  have e := Host.Outcome.next.inj h
  subst e
  clear h
  show Walk true _ _ _
  try dsimp only
  repeat' first
    | (with_reducible exact Walk.refl)
    | (with_reducible apply Walk.step (k := State.bump_keeps))
    | (with_reducible apply Walk.step (k := State.emit_keeps))
    | (with_reducible apply Walk.step (k := State.setMet_keeps))
    | (with_reducible apply Walk.ite)
    | (split)
    | (with_reducible refine Walk.update ?_ ?_ ?_ ?_ ?_ ?_ ?_ ?_ ?_ ?_ ?_ ?_ ?_ ?_ ?_ ?_ ?_ ?_ ?_ ?_ ?_ ?_ ?_ ?_ ?_ ?_ ?_ rfl rfl)
    | (exact .inl rfl)
    | (exact .inr rfl)
    | (show covers _ _ = true; rfl)

theorem execTimeMarkMissing_keeps {s t} (h : @execTimeMarkMissing s = .next t) : Keeps [.regs, .out, .seam, .met, .win 12] s t := by
  unfold execTimeMarkMissing at h
  have e := Host.Outcome.next.inj h
  subst e
  clear h
  show Walk true _ _ _
  try dsimp only
  repeat' first
    | (with_reducible exact Walk.refl)
    | (with_reducible apply Walk.step (k := State.bump_keeps))
    | (with_reducible apply Walk.step (k := State.seamDrain_keeps))
    | (with_reducible apply Walk.step (k := State.secondBegins_keeps))
    | (with_reducible apply Walk.step (k := State.setMet_keeps))
    | (with_reducible apply Walk.ite)
    | (with_reducible refine Walk.update ?_ ?_ ?_ ?_ ?_ ?_ ?_ ?_ ?_ ?_ ?_ ?_ ?_ ?_ ?_ ?_ ?_ ?_ ?_ ?_ ?_ ?_ ?_ ?_ ?_ ?_ ?_ rfl rfl)
    | (exact .inl rfl)
    | (exact .inr rfl)
    | (show covers _ _ = true; rfl)
    | (split)

theorem execMetSecondMark_keeps {x1 x2 x3 s t} (h : @execMetSecondMark x1 x2 x3 s = .next t) : Keeps [.out, .seam, .met] s t := by
  unfold execMetSecondMark at h
  have e := Host.Outcome.next.inj h
  subst e
  clear h
  show Walk true _ _ _
  try dsimp only
  repeat' first
    | (with_reducible exact Walk.refl)
    | (with_reducible apply Walk.step (k := State.seamDrain_keeps))
    | (with_reducible apply Walk.step (k := State.setMet_keeps))
    | (with_reducible apply Walk.step (k := State.sliceLook_keeps))
    | (with_reducible apply Walk.ite)
    | (with_reducible refine Walk.update ?_ ?_ ?_ ?_ ?_ ?_ ?_ ?_ ?_ ?_ ?_ ?_ ?_ ?_ ?_ ?_ ?_ ?_ ?_ ?_ ?_ ?_ ?_ ?_ ?_ ?_ ?_ rfl rfl)
    | (exact .inl rfl)
    | (exact .inr rfl)
    | (show covers _ _ = true; rfl)
    | (split)

theorem execNightTamperSample_keeps {x1 s t} (h : @execNightTamperSample x1 s = .next t) : Keeps [.aon, .met] s t := by
  unfold execNightTamperSample at h
  have e := Host.Outcome.next.inj h
  subst e
  clear h
  show Walk true _ _ _
  repeat' first
    | (with_reducible exact Walk.refl)
    | (with_reducible refine Walk.step ?_ (State.tamperStep_keeps_of (by assumption)) ?_)
    | (with_reducible apply Walk.step (k := State.tamperStep_keeps))
    | (with_reducible apply Walk.foldl)
    | (with_reducible apply Walk.ite)
    | (intro _)
    | (with_reducible refine Walk.update ?_ ?_ ?_ ?_ ?_ ?_ ?_ ?_ ?_ ?_ ?_ ?_ ?_ ?_ ?_ ?_ ?_ ?_ ?_ ?_ ?_ ?_ ?_ ?_ ?_ ?_ ?_ rfl rfl)
    | (exact .inl rfl)
    | (exact .inr rfl)
    | (show covers _ _ = true; rfl)

theorem execMetAuditRead_keeps {x1 x2 x3 s t} (h : @execMetAuditRead x1 x2 x3 s = .next t) : Keeps [.out, .cmd, .hbr, .bil] s t := by
  unfold execMetAuditRead at h
  have e := Host.Outcome.next.inj h
  subst e
  clear h
  show Walk true _ _ _
  repeat' first
    | (with_reducible exact Walk.refl)
    | (with_reducible apply Walk.step (k := State.reply_keeps))
    | (with_reducible apply Walk.step (k := State.replyWith_keeps))
    | (with_reducible apply Walk.step (k := State.writeData_keeps))
    | (show covers _ _ = true; rfl)
    | (split)

theorem execMetUnseal_keeps {x1 x2 s t} (h : @execMetUnseal x1 x2 s = .next t) : Keeps [.regs, .out, .freeCtr, .cmd, .evr, .kvt, .met, .bil, .win 12, .win 14, .win 21] s t := by
  unfold execMetUnseal at h
  have e := Host.Outcome.next.inj h
  subst e
  clear h
  show Walk true _ _ _
  try dsimp only
  repeat' first
    | (with_reducible exact Walk.refl)
    | (with_reducible apply Walk.step (k := State.calUnseal_keeps))
    | (with_reducible apply Walk.ite)
    | (show covers _ _ = true; rfl)
    | (with_reducible apply State.metTurn_walk)
    | (intro _)
    | (show may _ _ = true; rfl)
    | (split)

end Sys2Proof.Machine
end

