-- ==== Sys2Proof/Laws/KeepsPar.lean ====
section
/-! SUPPORT. What each operation of Par can change, and that it keeps the canonical forms. -/
set_option Elab.async false
namespace Sys2Proof.Machine

theorem execShadowFrameReceived_keeps {x1 s t} (h : @execShadowFrameReceived x1 s = .next t) : Keeps [.regs, .out, .hbr, .evr, .kvt, .ing, .fse, .par, .wins] s t := by
  unfold execShadowFrameReceived at h
  have e := Host.Outcome.next.inj h
  subst e
  clear h
  show Walk true _ _ _
  repeat' first
    | (with_reducible exact Walk.refl)
    | (with_reducible apply Walk.step (k := State.stepLook_keeps))
    | (with_reducible apply Walk.step (k := State.setPar_keeps))
    | (with_reducible apply Walk.step (k := State.bump_keeps))
    | (with_reducible apply Walk.step (k := State.intakeFrame_keeps))
    | (show covers _ _ = true; rfl)
    | (split)

theorem execReleaseEchoTimeout_keeps {x1 s t} (h : @execReleaseEchoTimeout x1 s = .next t) : Keeps [.regs, .out, .dev, .seam, .cmd, .hbr, .evr, .kvt, .ing, .fse, .bil, .par, .win 1, .win 7, .win 14, .win 18, .win 21] s t := by
  unfold execReleaseEchoTimeout at h
  have e := Host.Outcome.next.inj h
  subst e
  clear h
  show Walk true _ _ _
  repeat' first
    | (with_reducible exact Walk.refl)
    | (with_reducible apply Walk.step (k := State.endRelease_keeps))
    | (show covers _ _ = true; rfl)

theorem execParClaim_keeps {x1 x2 x3 s t} (h : @execParClaim x1 x2 x3 s = .next t) : Keeps [.regs, .out, .dev, .seam, .cmd, .hbr, .evr, .kvt, .ing, .fse, .bil, .par, .win 1, .win 7, .win 14, .win 18, .win 21] s t := by
  unfold execParClaim at h
  have e := Host.Outcome.next.inj h
  subst e
  clear h
  show Walk true _ _ _
  repeat' first
    | (with_reducible exact Walk.refl)
    | (with_reducible apply Walk.step (k := State.reply_keeps))
    | (with_reducible apply Walk.step (k := State.askClaim_keeps))
    | (show covers _ _ = true; rfl)
    | (split)

theorem execParSelftest_keeps {x1 x2 x3 s t} (h : @execParSelftest x1 x2 x3 s = .next t) : Keeps [.regs, .cmd, .bil, .par, .win 18] s t := by
  unfold execParSelftest at h
  have e := Host.Outcome.next.inj h
  subst e
  clear h
  show Walk true _ _ _
  try dsimp only
  repeat' first
    | (with_reducible exact Walk.refl)
    | (with_reducible apply Walk.step (k := State.replyQueued_keeps))
    | (with_reducible apply Walk.step (k := State.bumpBy_keeps))
    | (with_reducible apply Walk.step (k := State.setPar_keeps))
    | (with_reducible apply Walk.step (k := State.reply_keeps))
    | (with_reducible apply Walk.step (k := State.replyWith_keeps))
    | (show covers _ _ = true; rfl)
    | (split)

theorem execSelftestPeriodic_keeps {x1 x2 s t} (h : @execSelftestPeriodic x1 x2 s = .next t) : Keeps [.regs, .par, .win 18] s t := by
  unfold execSelftestPeriodic at h
  have e := Host.Outcome.next.inj h
  subst e
  clear h
  show Walk true _ _ _
  repeat' first
    | (with_reducible exact Walk.refl)
    | (with_reducible apply Walk.step (k := State.setPar_keeps))
    | (with_reducible apply Walk.step (k := State.bump_keeps))
    | (show covers _ _ = true; rfl)
    | (split)

theorem execParRoleStandby_keeps {x1 s t} (h : @execParRoleStandby x1 s = .next t) : Keeps [.regs, .out, .seam, .cmd, .hbr, .evr, .plc, .rfx, .msh, .bil, .par, .upd, .win 1, .win 4, .win 5, .win 18, .win 21] s t := by
  unfold execParRoleStandby at h
  have e := Host.Outcome.next.inj h
  subst e
  clear h
  show Walk true _ _ _
  repeat' first
    | (with_reducible exact Walk.refl)
    | (with_reducible apply Walk.step (k := State.reply_keeps))
    | (with_reducible apply Walk.step (k := State.beginRelease_keeps))
    | (show covers _ _ = true; rfl)
    | (split)

theorem execParStatus_keeps {x1 s t} (h : @execParStatus x1 s = .next t) : Keeps [.out, .cmd, .hbr, .bil] s t := by
  unfold execParStatus at h
  have e := Host.Outcome.next.inj h
  subst e
  clear h
  show Walk true _ _ _
  repeat' first
    | (with_reducible exact Walk.refl)
    | (with_reducible apply Walk.step (k := State.replyWith_keeps))
    | (with_reducible apply Walk.step (k := State.writeData_keeps))
    | (show covers _ _ = true; rfl)

theorem execCounterMessageReceived_keeps {x1 x2 x3 s t} (h : @execCounterMessageReceived x1 x2 x3 s = .next t) : Keeps [.regs, .kvt, .ing, .plc, .msh, .win 18] s t := by
  unfold execCounterMessageReceived at h
  have e := Host.Outcome.next.inj h
  subst e
  clear h
  show Walk true _ _ _
  repeat' first
    | (with_reducible exact Walk.refl)
    | (with_reducible apply Walk.step (k := State.bump_keeps))
    | (with_reducible apply Walk.step (k := State.modCtx_keeps))
    | (with_reducible apply Walk.step (k := State.setMsh_keeps))
    | (with_reducible apply Walk.step (k := State.setPlc_keeps))
    | (with_reducible apply Walk.step (k := State.setKvt_keeps))
    | (show covers _ _ = true; rfl)
    | (split)

theorem execDigestEpochEnd_keeps {x1 s t} (h : @execDigestEpochEnd x1 s = .next t) : Keeps [.par] s t := by
  unfold execDigestEpochEnd at h
  have e := Host.Outcome.next.inj h
  subst e
  clear h
  show Walk true _ _ _
  repeat' first
    | (with_reducible exact Walk.refl)
    | (with_reducible apply Walk.step (k := State.setPar_keeps))
    | (show covers _ _ = true; rfl)
    | (split)

theorem execReleaseDrainExpiry_keeps {s t} (h : @execReleaseDrainExpiry s = .next t) : Keeps [.regs, .out, .seam, .cmd, .evr, .plc, .rfx, .msh, .bil, .par, .win 4, .win 5, .win 21] s t := by
  unfold execReleaseDrainExpiry at h
  have e := Host.Outcome.next.inj h
  subst e
  clear h
  show Walk true _ _ _
  repeat' first
    | (with_reducible exact Walk.refl)
    | (with_reducible apply Walk.step (k := State.releaseOne_keeps))
    | (show covers _ _ = true; rfl)
    | (split)

theorem execPairHeartbeatReceived_keeps {x1 x2 s t} (h : @execPairHeartbeatReceived x1 x2 s = .next t) : Keeps [.regs, .out, .freeCtr, .dev, .seam, .cmd, .hbr, .evr, .plc, .rfx, .msh, .bil, .par, .upd, .win 0, .win 1, .win 4, .win 5, .win 18, .win 21] s t := by
  unfold execPairHeartbeatReceived at h
  have e := Host.Outcome.next.inj h
  subst e
  clear h
  show Walk true _ _ _
  repeat' first
    | (with_reducible exact Walk.refl)
    | (with_reducible apply Walk.step (k := State.partnerBack_keeps))
    | (with_reducible apply Walk.step (k := State.setPar_keeps))
    | (with_reducible apply Walk.step (k := State.seeOwnIn_keeps))
    | (with_reducible apply Walk.step (k := State.faultLook_keeps))
    | (with_reducible apply Walk.step (k := State.plausibleLook_keeps))
    | (with_reducible apply Walk.step (k := State.doubleLook_keeps))
    | (with_reducible apply Walk.step (k := State.sideLook_keeps))
    | (with_reducible apply Walk.step (k := State.sendLedger_keeps))
    | (with_reducible apply Walk.step (k := State.handoverLook_keeps))
    | (with_reducible refine Walk.update ?_ ?_ ?_ ?_ ?_ ?_ ?_ ?_ ?_ ?_ ?_ ?_ ?_ ?_ ?_ ?_ ?_ ?_ ?_ ?_ ?_ ?_ ?_ ?_ ?_ ?_ ?_ rfl rfl)
    | (exact .inl rfl)
    | (exact .inr rfl)
    | (show covers _ _ = true; rfl)
    | (split)

theorem execPartnerLoss_keeps {x1 s t} (h : @execPartnerLoss x1 s = .next t) : Keeps [.regs, .out, .dev, .seam, .cmd, .hbr, .evr, .kvt, .ing, .fse, .bil, .par, .win 1, .win 7, .win 14, .win 18, .win 21] s t := by
  unfold execPartnerLoss at h
  have e := Host.Outcome.next.inj h
  subst e
  clear h
  show Walk true _ _ _
  repeat' first
    | (with_reducible exact Walk.refl)
    | (with_reducible apply Walk.step (k := State.partnerLost_keeps))
    | (show covers _ _ = true; rfl)

theorem execResyncRecordReceived_keeps {x1 x2 s t} (h : @execResyncRecordReceived x1 x2 s = .next t) : Keeps [.regs, .out, .hbr, .ing, .cod, .los, .par, .win 1, .win 8, .win 9, .win 20] s t := by
  unfold execResyncRecordReceived at h
  have e := Host.Outcome.next.inj h
  subst e
  clear h
  show Walk true _ _ _
  repeat' first
    | (with_reducible exact Walk.refl)
    | (with_reducible apply Walk.step (k := State.raiseWindows_keeps))
    | (with_reducible apply Walk.step (k := State.handRecord_keeps))
    | (with_reducible apply Walk.step (k := State.stepLook_keeps))
    | (with_reducible apply Walk.step (k := State.parNotice_keeps))
    | (with_reducible apply Walk.step (k := State.setPar_keeps))
    | (show covers _ _ = true; rfl)
    | (split)

theorem execParDigestRead_keeps {x1 x2 s t} (h : @execParDigestRead x1 x2 s = .next t) : Keeps [.out, .cmd, .hbr, .bil] s t := by
  unfold execParDigestRead at h
  have e := Host.Outcome.next.inj h
  subst e
  clear h
  show Walk true _ _ _
  repeat' first
    | (with_reducible exact Walk.refl)
    | (with_reducible apply Walk.step (k := State.reply_keeps))
    | (with_reducible apply Walk.step (k := State.writeData_keeps))
    | (show covers _ _ = true; rfl)

theorem execOwnInFall_keeps {x1 s t} (h : @execOwnInFall x1 s = .next t) : Keeps [.regs, .out, .dev, .seam, .cmd, .hbr, .evr, .kvt, .ing, .fse, .bil, .par, .win 1, .win 7, .win 14, .win 18, .win 21] s t := by
  unfold execOwnInFall at h
  have e := Host.Outcome.next.inj h
  subst e
  clear h
  show Walk true _ _ _
  try dsimp only
  repeat' first
    | (with_reducible exact Walk.refl)
    | (with_reducible apply Walk.step (k := State.setPar_keeps))
    | (with_reducible apply Walk.step (k := State.autoClaim_keeps))
    | (with_reducible refine Walk.update ?_ ?_ ?_ ?_ ?_ ?_ ?_ ?_ ?_ ?_ ?_ ?_ ?_ ?_ ?_ ?_ ?_ ?_ ?_ ?_ ?_ ?_ ?_ ?_ ?_ ?_ ?_ rfl rfl)
    | (exact .inl rfl)
    | (exact .inr rfl)
    | (show covers _ _ = true; rfl)
    | (split)

theorem execPairLaneDown_keeps {x1 x2 s t} (h : @execPairLaneDown x1 x2 s = .next t) : Keeps [.regs, .out, .dev, .seam, .cmd, .hbr, .evr, .kvt, .ing, .fse, .bil, .par, .win 1, .win 7, .win 14, .win 18, .win 21] s t := by
  unfold execPairLaneDown at h
  have e := Host.Outcome.next.inj h
  subst e
  clear h
  show Walk true _ _ _
  try dsimp only
  repeat' first
    | (with_reducible exact Walk.refl)
    | (with_reducible apply Walk.step (k := State.setPar_keeps))
    | (with_reducible apply Walk.step (k := State.partnerLost_keeps))
    | (with_reducible refine Walk.update ?_ ?_ ?_ ?_ ?_ ?_ ?_ ?_ ?_ ?_ ?_ ?_ ?_ ?_ ?_ ?_ ?_ ?_ ?_ ?_ ?_ ?_ ?_ ?_ ?_ ?_ ?_ rfl rfl)
    | (exact .inl rfl)
    | (exact .inr rfl)
    | (show covers _ _ = true; rfl)
    | (split)

theorem execPairHeartbeatSend_keeps {s t} (h : @execPairHeartbeatSend s = .next t) : Keeps [.regs, .out, .seam, .cmd, .hbr, .evr, .plc, .rfx, .msh, .bil, .par, .upd, .win 1, .win 4, .win 5, .win 18, .win 21] s t := by
  unfold execPairHeartbeatSend at h
  have e := Host.Outcome.next.inj h
  subst e
  clear h
  show Walk true _ _ _
  try dsimp only
  repeat' first
    | (with_reducible exact Walk.refl)
    | (with_reducible apply Walk.step (k := State.emit_keeps))
    | (with_reducible apply Walk.step (k := State.fitLook_keeps))
    | (with_reducible apply Walk.step (k := State.handoverLook_keeps))
    | (with_reducible apply Walk.ite)
    | (show covers _ _ = true; rfl)
    | (split)

theorem execReleaseEchoReceived_keeps {x1 s t} (h : @execReleaseEchoReceived x1 s = .next t) : Keeps [.regs, .out, .dev, .seam, .cmd, .hbr, .evr, .kvt, .ing, .fse, .bil, .par, .win 1, .win 7, .win 14, .win 18, .win 21] s t := by
  unfold execReleaseEchoReceived at h
  have e := Host.Outcome.next.inj h
  subst e
  clear h
  show Walk true _ _ _
  repeat' first
    | (with_reducible exact Walk.refl)
    | (with_reducible apply Walk.step (k := State.endRelease_keeps))
    | (show covers _ _ = true; rfl)

theorem execParRoleSolo_keeps {x1 x2 x3 s t} (h : @execParRoleSolo x1 x2 x3 s = .next t) : Keeps [.regs, .out, .dev, .seam, .cmd, .hbr, .evr, .kvt, .ing, .fse, .bil, .par, .win 1, .win 7, .win 14, .win 18, .win 21] s t := by
  unfold execParRoleSolo at h
  have e := Host.Outcome.next.inj h
  subst e
  clear h
  show Walk true _ _ _
  repeat' first
    | (with_reducible exact Walk.refl)
    | (with_reducible apply Walk.step (k := State.reply_keeps))
    | (with_reducible apply Walk.step (k := State.noonBeat_keeps))
    | (with_reducible apply Walk.step (k := State.setRole_keeps))
    | (with_reducible apply Walk.step (k := State.askClaim_keeps))
    | (show covers _ _ = true; rfl)
    | (split)

theorem execDigestExchange_keeps {x1 x2 s t} (h : @execDigestExchange x1 x2 s = .next t) : Keeps [.regs, .out, .hbr, .par, .win 1, .win 18] s t := by
  unfold execDigestExchange at h
  have e := Host.Outcome.next.inj h
  subst e
  clear h
  show Walk true _ _ _
  try dsimp only
  repeat' first
    | (with_reducible exact Walk.refl)
    | (with_reducible apply Walk.step (k := State.bump_keeps))
    | (with_reducible apply Walk.step (k := State.emit_keeps))
    | (with_reducible apply Walk.step (k := State.parNotice_keeps))
    | (with_reducible apply Walk.step (k := State.setPar_keeps))
    | (with_reducible apply Walk.step (k := State.stepLook_keeps))
    | (with_reducible apply Walk.ite)
    | (split)
    | (with_reducible refine Walk.update ?_ ?_ ?_ ?_ ?_ ?_ ?_ ?_ ?_ ?_ ?_ ?_ ?_ ?_ ?_ ?_ ?_ ?_ ?_ ?_ ?_ ?_ ?_ ?_ ?_ ?_ ?_ rfl rfl)
    | (exact .inl rfl)
    | (exact .inr rfl)
    | (show covers _ _ = true; rfl)

theorem execParRelease_keeps {x1 x2 x3 s t} (h : @execParRelease x1 x2 x3 s = .next t) : Keeps [.regs, .out, .seam, .cmd, .hbr, .evr, .plc, .rfx, .msh, .bil, .par, .upd, .win 1, .win 4, .win 5, .win 18, .win 21] s t := by
  unfold execParRelease at h
  have e := Host.Outcome.next.inj h
  subst e
  clear h
  show Walk true _ _ _
  try dsimp only
  repeat' first
    | (with_reducible exact Walk.refl)
    | (with_reducible apply Walk.step (k := State.beginRelease_keeps))
    | (with_reducible apply Walk.step (k := State.reply_keeps))
    | (with_reducible apply Walk.ite)
    | (show covers _ _ = true; rfl)
    | (split)

theorem execReleaseMessageReceived_keeps {x1 s t} (h : @execReleaseMessageReceived x1 s = .next t) : Keeps [.par] s t := by
  unfold execReleaseMessageReceived at h
  have e := Host.Outcome.next.inj h
  subst e
  clear h
  show Walk true _ _ _
  repeat' first
    | (with_reducible exact Walk.refl)
    | (with_reducible apply Walk.step (k := State.setPar_keeps))
    | (show covers _ _ = true; rfl)

theorem execParResync_keeps {x1 x2 s t} (h : @execParResync x1 x2 s = .next t) : Keeps [.out, .cmd, .bil] s t := by
  unfold execParResync at h
  have e := Host.Outcome.next.inj h
  subst e
  clear h
  show Walk true _ _ _
  repeat' first
    | (with_reducible exact Walk.refl)
    | (with_reducible apply Walk.step (k := State.reply_keeps))
    | (with_reducible apply Walk.step (k := State.emit_keeps))
    | (show covers _ _ = true; rfl)
    | (split)

theorem execLedgerCopyReceived_keeps {x1 x2 x3 s t} (h : @execLedgerCopyReceived x1 x2 x3 s = .next t) : Keeps [.regs, .out, .seam, .hbr, .evr, .bil, .par, .win 1, .win 21] s t := by
  unfold execLedgerCopyReceived at h
  have e := Host.Outcome.next.inj h
  subst e
  clear h
  show Walk true _ _ _
  try dsimp only
  repeat' first
    | (with_reducible exact Walk.refl)
    | (with_reducible apply Walk.step (k := State.setBil_keeps))
    | (with_reducible apply Walk.step (k := State.setPar_keeps))
    | (with_reducible apply Walk.step (k := State.stepLook_keeps))
    | (with_reducible apply Walk.step (k := State.tagRefused_keeps))
    | (with_reducible apply Walk.ite)
    | (with_reducible apply Walk.foldl)
    | (with_reducible apply Walk.foldl1)
    | (with_reducible apply Walk.foldl2)
    | (intro _)
    | (with_reducible assumption)
    | (with_reducible refine Walk.update ?_ ?_ ?_ ?_ ?_ ?_ ?_ ?_ ?_ ?_ ?_ ?_ ?_ ?_ ?_ ?_ ?_ ?_ ?_ ?_ ?_ ?_ ?_ ?_ ?_ ?_ ?_ rfl rfl)
    | (exact .inl rfl)
    | (exact .inr rfl)
    | (show covers _ _ = true; rfl)
    | (split)

theorem execHoldoffEnd_keeps {s t} (h : @execHoldoffEnd s = .next t) : Keeps [.par] s t := by
  unfold execHoldoffEnd at h
  have e := Host.Outcome.next.inj h
  subst e
  clear h
  show Walk true _ _ _
  repeat' first
    | (with_reducible exact Walk.refl)
    | (with_reducible apply Walk.step (k := State.setPar_keeps))
    | (show covers _ _ = true; rfl)

theorem execPairLaneUp_keeps {x1 s t} (h : @execPairLaneUp x1 s = .next t) : Keeps [.par] s t := by
  unfold execPairLaneUp at h
  have e := Host.Outcome.next.inj h
  subst e
  clear h
  show Walk true _ _ _
  repeat' first
    | (with_reducible exact Walk.refl)
    | (with_reducible apply Walk.step (k := State.setPar_keeps))
    | (show covers _ _ = true; rfl)
    | (split)

end Sys2Proof.Machine
end

