-- ==== Sys2Proof/Laws/KeepsPwr.lean ====
section
/-! SUPPORT. What each operation of Pwr can change, and that it keeps the canonical forms. -/
set_option Elab.async false
namespace Sys2Proof.Machine

theorem execGlbRecoveryEnter_keeps {x1 x2 x3 s t} (h : @execGlbRecoveryEnter x1 x2 x3 s = .next t) : Keeps [.regs, .out, .dev, .seam, .cmd, .hbr, .fab, .vin, .pwr, .aon, .evr, .tim, .kvt, .ing, .plc, .rfx, .fse, .msh, .cod, .arc, .los, .bil, .par, .upd, .svc, .wins] s t := by
  unfold execGlbRecoveryEnter at h
  have e := Host.Outcome.next.inj h
  subst e
  clear h
  show Walk true _ _ _
  repeat' first
    | (with_reducible exact Walk.refl)
    | (with_reducible apply Walk.step (k := State.reply_keeps))
    | (with_reducible apply Walk.step (k := State.postNow_keeps))
    | (with_reducible apply Walk.step (k := State.enterRecovery_keeps))
    | (with_reducible apply Walk.ite)
    | (with_reducible refine Walk.update ?_ ?_ ?_ ?_ ?_ ?_ ?_ ?_ ?_ ?_ ?_ ?_ ?_ ?_ ?_ ?_ ?_ ?_ ?_ ?_ ?_ ?_ ?_ ?_ ?_ ?_ ?_ rfl rfl)
    | (exact .inl rfl)
    | (exact .inr rfl)
    | (show covers _ _ = true; rfl)

theorem State.domReply_keeps {x1 x2 s} : Keeps [.cmd, .pwr, .bil] s (@State.domReply x1 x2 s) := by
  unfold State.domReply
  show Walk true _ _ _
  repeat' first
    | (with_reducible exact Walk.refl)
    | (with_reducible apply Walk.step (k := State.setDom_keeps))
    | (with_reducible apply Walk.step (k := State.replyWith_keeps))
    | (with_reducible apply Walk.foldl)
    | (intro _)
    | (show covers _ _ = true; rfl)

theorem execDomainRampFault_keeps {x1 s t} (h : @execDomainRampFault x1 s = .next t) : Keeps [.regs, .out, .cmd, .hbr, .pwr, .los, .bil, .win 1] s t := by
  unfold execDomainRampFault at h
  have e := Host.Outcome.next.inj h
  subst e
  clear h
  show Walk true _ _ _
  try dsimp only
  repeat' first
    | (with_reducible exact Walk.refl)
    | (with_reducible apply Walk.step (k := State.domReply_keeps))
    | (with_reducible apply Walk.step (k := State.headLook_keeps))
    | (with_reducible apply Walk.step (k := State.setDom_keeps))
    | (with_reducible apply Walk.ite)
    | (with_reducible refine Walk.update ?_ ?_ ?_ ?_ ?_ ?_ ?_ ?_ ?_ ?_ ?_ ?_ ?_ ?_ ?_ ?_ ?_ ?_ ?_ ?_ ?_ ?_ ?_ ?_ ?_ ?_ ?_ rfl rfl)
    | (exact .inl rfl)
    | (exact .inr rfl)
    | (show covers _ _ = true; rfl)
    | (split)

theorem State.ethDown_keeps {x1 s} : Keeps [.regs, .out, .hbr, .evr, .tim, .msh, .los, .win 1, .win 11, .win 15, .win 21] s (@State.ethDown x1 s) := by
  unfold State.ethDown
  show Walk true _ _ _
  repeat' first
    | (with_reducible exact Walk.refl)
    | (with_reducible apply Walk.step (k := State.disqualify_keeps))
    | (with_reducible apply Walk.step (k := State.setTim_keeps))
    | (with_reducible apply Walk.step (k := State.mshNotice_keeps))
    | (with_reducible apply Walk.step (k := State.setMsh_keeps))
    | (with_reducible apply Walk.foldl)
    | (intro _)
    | (show covers _ _ = true; rfl)

theorem State.rfDown_keeps {x1 s} : Keeps [.regs, .out, .cmd, .hbr, .fab, .pwr, .rfx, .msh, .bil, .win 1, .win 3, .win 5, .win 19] s (@State.rfDown x1 s) := by
  unfold State.rfDown
  show Walk true _ _ _
  try dsimp only
  repeat' first
    | (with_reducible exact Walk.refl)
    | (with_reducible apply Walk.step (k := State.cutTx_keeps))
    | (with_reducible apply Walk.step (k := State.abandonRx_keeps))
    | (with_reducible apply Walk.step (k := State.modPort_keeps))
    | (with_reducible apply Walk.step (k := State.rfNotice_keeps))
    | (with_reducible apply Walk.step (k := State.switchOff_keeps))
    | (with_reducible apply Walk.foldl)
    | (intro _)
    | (with_reducible refine Walk.update ?_ ?_ ?_ ?_ ?_ ?_ ?_ ?_ ?_ ?_ ?_ ?_ ?_ ?_ ?_ ?_ ?_ ?_ ?_ ?_ ?_ ?_ ?_ ?_ ?_ ?_ ?_ rfl rfl)
    | (exact .inl rfl)
    | (exact .inr rfl)
    | (show covers _ _ = true; rfl)
    | (split)

theorem State.endSends_keeps {x1 s} : Keeps [.regs, .cmd, .ing, .plc, .msh, .bil, .win 4] s (@State.endSends x1 s) := by
  unfold State.endSends
  show Walk true _ _ _
  try dsimp only
  repeat' first
    | (with_reducible exact Walk.refl)
    | (with_reducible apply Walk.step (k := State.bump_keeps))
    | (with_reducible apply Walk.step (k := State.forgetSets_keeps))
    | (with_reducible apply Walk.step (k := State.reply_keeps))
    | (with_reducible apply Walk.ite)
    | (with_reducible apply Walk.foldl)
    | (with_reducible apply Walk.foldl1)
    | (with_reducible apply Walk.foldl2)
    | (intro _)
    | (with_reducible assumption)
    | (with_reducible refine Walk.update ?_ ?_ ?_ ?_ ?_ ?_ ?_ ?_ ?_ ?_ ?_ ?_ ?_ ?_ ?_ ?_ ?_ ?_ ?_ ?_ ?_ ?_ ?_ ?_ ?_ ?_ ?_ rfl rfl)
    | (exact .inl rfl)
    | (exact .inr rfl)
    | (show covers _ _ = true; rfl)
    | (split)

theorem State.shutUnit_keeps {x1 s} : Keeps [.regs, .out, .dev, .seam, .cmd, .hbr, .fab, .pwr, .aon, .evr, .tim, .kvt, .ing, .plc, .rfx, .fse, .msh, .los, .bil, .par, .win 1, .win 3, .win 4, .win 5, .win 7, .win 11, .win 14, .win 15, .win 18, .win 19, .win 21] s (@State.shutUnit x1 s) := by
  unfold State.shutUnit
  show Walk true _ _ _
  repeat' first
    | (with_reducible exact Walk.refl)
    | (with_reducible apply Walk.step (k := State.ethDown_keeps))
    | (with_reducible apply Walk.step (k := State.rfDown_keeps))
    | (with_reducible apply Walk.step (k := State.switchOff_keeps))
    | (with_reducible apply Walk.step (k := State.endSends_keeps))
    | (with_reducible apply Walk.step (k := State.partnerLost_keeps))
    | (with_reducible apply Walk.step (k := State.setPar_keeps))
    | (exact .inl rfl)
    | (exact .inr rfl)
    | (show covers _ _ = true; rfl)
    | (split)
    | (with_reducible refine Walk.update ?_ ?_ ?_ ?_ ?_ ?_ ?_ ?_ ?_ ?_ ?_ ?_ ?_ ?_ ?_ ?_ ?_ ?_ ?_ ?_ ?_ ?_ ?_ ?_ ?_ ?_ ?_ rfl rfl)

theorem execPwrDomainOff_keeps {x1 x2 s t} (h : @execPwrDomainOff x1 x2 s = .next t) : Keeps [.regs, .out, .dev, .seam, .cmd, .hbr, .fab, .pwr, .aon, .evr, .tim, .kvt, .ing, .plc, .rfx, .fse, .msh, .los, .bil, .par, .win 1, .win 3, .win 4, .win 5, .win 7, .win 11, .win 14, .win 15, .win 18, .win 19, .win 21] s t := by
  unfold execPwrDomainOff at h
  have e := Host.Outcome.next.inj h
  subst e
  clear h
  show Walk true _ _ _
  repeat' first
    | (with_reducible exact Walk.refl)
    | (with_reducible apply Walk.step (k := State.reply_keeps))
    | (with_reducible apply Walk.step (k := State.replyWith_keeps))
    | (with_reducible apply Walk.step (k := State.shutUnit_keeps))
    | (with_reducible apply Walk.step (k := State.setDom_keeps))
    | (with_reducible apply Walk.step (k := State.switchOff_keeps))
    | (with_reducible apply Walk.step (k := State.domReply_keeps))
    | (with_reducible refine Walk.update ?_ ?_ ?_ ?_ ?_ ?_ ?_ ?_ ?_ ?_ ?_ ?_ ?_ ?_ ?_ ?_ ?_ ?_ ?_ ?_ ?_ ?_ ?_ ?_ ?_ ?_ ?_ rfl rfl)
    | (exact .inl rfl)
    | (exact .inr rfl)
    | (show covers _ _ = true; rfl)
    | (split)

theorem State.followUp_keeps {x1 s} : Keeps [.pwr] s (@State.followUp x1 s) := by
  unfold State.followUp
  show Walk true _ _ _
  repeat' first
    | (with_reducible exact Walk.refl)
    | (with_reducible apply Walk.step (k := State.domRamp_keeps))
    | (with_reducible apply Walk.step (k := State.rampOne_keeps))
    | (with_reducible apply Walk.foldl)
    | (intro _)
    | (show covers _ _ = true; rfl)
    | (split)

theorem execGlbTamperAck_keeps {x1 x2 s t} (h : @execGlbTamperAck x1 x2 s = .next t) : Keeps [.regs, .out, .freeCtr, .dev, .cmd, .hbr, .pwr, .evr, .kvt, .met, .bil, .win 0, .win 1, .win 14, .win 21] s t := by
  unfold execGlbTamperAck at h
  have e := Host.Outcome.next.inj h
  subst e
  clear h
  show Walk true _ _ _
  try dsimp only
  repeat' first
    | (with_reducible exact Walk.refl)
    | (with_reducible apply Walk.step (k := State.auditNow_keeps))
    | (with_reducible apply Walk.step (k := State.authUsed_keeps))
    | (with_reducible apply Walk.step (k := State.deliverNkek_keeps))
    | (with_reducible apply Walk.step (k := State.holdCause_keeps))
    | (with_reducible apply Walk.step (k := State.kvtNotice_keeps))
    | (with_reducible apply Walk.step (k := State.reply_keeps))
    | (with_reducible apply Walk.ite)
    | (with_reducible refine Walk.update ?_ ?_ ?_ ?_ ?_ ?_ ?_ ?_ ?_ ?_ ?_ ?_ ?_ ?_ ?_ ?_ ?_ ?_ ?_ ?_ ?_ ?_ ?_ ?_ ?_ ?_ ?_ rfl rfl)
    | (exact .inl rfl)
    | (exact .inr rfl)
    | (show covers _ _ = true; rfl)
    | (split)

theorem execPwrShutdownHalt_keeps {x1 x2 s t} (h : @execPwrShutdownHalt x1 x2 s = .next t) : Keeps [.regs, .out, .dev, .seam, .cmd, .hbr, .vin, .pwr, .aon, .evr, .kvt, .ing, .plc, .rfx, .fse, .msh, .cod, .arc, .los, .met, .bil, .par, .upd, .win 0, .win 1, .win 2, .win 4, .win 5, .win 7, .win 8, .win 9, .win 10, .win 14, .win 18, .win 20, .win 21] s t := by
  unfold execPwrShutdownHalt at h
  have e := Host.Outcome.next.inj h
  subst e
  clear h
  show Walk true _ _ _
  repeat' first
    | (with_reducible exact Walk.refl)
    | (with_reducible apply Walk.step (k := State.reply_keeps))
    | (with_reducible apply Walk.step (k := State.duskDeclare_keeps))
    | (with_reducible apply Walk.step (k := State.postNow_keeps))
    | (with_reducible apply Walk.step (k := State.replyQueued_keeps))
    | (with_reducible apply Walk.ite)
    | (with_reducible refine Walk.update ?_ ?_ ?_ ?_ ?_ ?_ ?_ ?_ ?_ ?_ ?_ ?_ ?_ ?_ ?_ ?_ ?_ ?_ ?_ ?_ ?_ ?_ ?_ ?_ ?_ ?_ ?_ rfl rfl)
    | (exact .inl rfl)
    | (exact .inr rfl)
    | (show covers _ _ = true; rfl)

theorem execVbatMeasure_keeps {x1 s t} (h : @execVbatMeasure x1 s = .next t) : Keeps [.aon] s t := by
  unfold execVbatMeasure at h
  have e := Host.Outcome.next.inj h
  subst e
  clear h
  show Walk true _ _ _
  repeat' first
    | (with_reducible exact Walk.refl)
    | (with_reducible apply Walk.ite)
    | (with_reducible refine Walk.update ?_ ?_ ?_ ?_ ?_ ?_ ?_ ?_ ?_ ?_ ?_ ?_ ?_ ?_ ?_ ?_ ?_ ?_ ?_ ?_ ?_ ?_ ?_ ?_ ?_ ?_ ?_ rfl rfl)
    | (exact .inl rfl)
    | (exact .inr rfl)

theorem execPwrStatus_keeps {x1 s t} (h : @execPwrStatus x1 s = .next t) : Keeps [.out, .cmd, .hbr, .bil] s t := by
  unfold execPwrStatus at h
  have e := Host.Outcome.next.inj h
  subst e
  clear h
  show Walk true _ _ _
  repeat' first
    | (with_reducible exact Walk.refl)
    | (with_reducible apply Walk.step (k := State.replyWith_keeps))
    | (with_reducible apply Walk.step (k := State.writeData_keeps))
    | (show covers _ _ = true; rfl)

theorem execThermalThreshold_keeps {x1 s t} (h : @execThermalThreshold x1 s = .next t) : Keeps [.out, .pwr] s t := by
  unfold execThermalThreshold at h
  have e := Host.Outcome.next.inj h
  subst e
  clear h
  show Walk true _ _ _
  repeat' first
    | (with_reducible exact Walk.refl)
    | (with_reducible apply Walk.step (k := State.emit_keeps))
    | (with_reducible apply Walk.ite)
    | (with_reducible refine Walk.update ?_ ?_ ?_ ?_ ?_ ?_ ?_ ?_ ?_ ?_ ?_ ?_ ?_ ?_ ?_ ?_ ?_ ?_ ?_ ?_ ?_ ?_ ?_ ?_ ?_ ?_ ?_ rfl rfl)
    | (exact .inl rfl)
    | (exact .inr rfl)
    | (show covers _ _ = true; rfl)

theorem execPwrDomainOn_keeps {x1 x2 s t} (h : @execPwrDomainOn x1 x2 s = .next t) : Keeps [.cmd, .pwr, .bil] s t := by
  unfold execPwrDomainOn at h
  have e := Host.Outcome.next.inj h
  subst e
  clear h
  show Walk true _ _ _
  repeat' first
    | (with_reducible exact Walk.refl)
    | (with_reducible apply Walk.step (k := State.reply_keeps))
    | (with_reducible apply Walk.step (k := State.replyWith_keeps))
    | (with_reducible apply Walk.step (k := State.setDom_keeps))
    | (with_reducible apply Walk.step (k := State.domRamp_keeps))
    | (show covers _ _ = true; rfl)
    | (split)

theorem State.unitStarts_keeps {x1 s} : Keeps [.plc, .msh] s (@State.unitStarts x1 s) := by
  unfold State.unitStarts
  show Walk true _ _ _
  repeat' first
    | (with_reducible exact Walk.refl)
    | (with_reducible apply Walk.step (k := State.bcastResume_keeps))
    | (with_reducible apply Walk.ite)
    | (with_reducible refine Walk.update ?_ ?_ ?_ ?_ ?_ ?_ ?_ ?_ ?_ ?_ ?_ ?_ ?_ ?_ ?_ ?_ ?_ ?_ ?_ ?_ ?_ ?_ ?_ ?_ ?_ ?_ ?_ rfl rfl)
    | (exact .inl rfl)
    | (exact .inr rfl)
    | (show covers _ _ = true; rfl)

theorem execDomainRampDone_keeps {x1 s t} (h : @execDomainRampDone x1 s = .next t) : Keeps [.regs, .out, .cmd, .hbr, .fab, .pwr, .plc, .msh, .los, .bil, .win 1] s t := by
  unfold execDomainRampDone at h
  have e := Host.Outcome.next.inj h
  subst e
  clear h
  show Walk true _ _ _
  try dsimp only
  repeat' first
    | (with_reducible exact Walk.refl)
    | (with_reducible apply Walk.step (k := State.domReply_keeps))
    | (with_reducible apply Walk.step (k := State.domUp_keeps))
    | (with_reducible apply Walk.step (k := State.followUp_keeps))
    | (with_reducible apply Walk.step (k := State.headLook_keeps))
    | (with_reducible apply Walk.step (k := State.unitStarts_keeps))
    | (with_reducible apply Walk.ite)
    | (show covers _ _ = true; rfl)
    | (split)

theorem State.endJobs_keeps {x1 s} : Keeps [.regs, .out, .cmd, .hbr, .plc, .msh, .arc, .bil, .win 10] s (@State.endJobs x1 s) := by
  unfold State.endJobs
  show Walk true _ _ _
  try dsimp only
  repeat' first
    | (with_reducible exact Walk.refl)
    | (with_reducible apply Walk.step (k := State.jobsGo_keeps))
    | (with_reducible refine Walk.update ?_ ?_ ?_ ?_ ?_ ?_ ?_ ?_ ?_ ?_ ?_ ?_ ?_ ?_ ?_ ?_ ?_ ?_ ?_ ?_ ?_ ?_ ?_ ?_ ?_ ?_ ?_ rfl rfl)
    | (exact .inl rfl)
    | (exact .inr rfl)
    | (show covers _ _ = true; rfl)
    | (split)

theorem execDramUncorrectable_keeps {x1 x2 x3 x4 s t} (h : @execDramUncorrectable x1 x2 x3 x4 s = .next t) : Keeps [.regs, .out, .cmd, .hbr, .evr, .plc, .msh, .arc, .bil, .win 10, .win 21] s t := by
  unfold execDramUncorrectable at h
  have e := Host.Outcome.next.inj h
  subst e
  clear h
  show Walk true _ _ _
  repeat' first
    | (with_reducible exact Walk.refl)
    | (with_reducible apply Walk.step (k := State.logEvent_keeps))
    | (with_reducible apply Walk.step (k := State.reply_keeps))
    | (with_reducible apply Walk.step (k := State.endJobs_keeps))
    | (show covers _ _ = true; rfl)
    | (split)

theorem execPwrShutdownRestart_keeps {x1 x2 s t} (h : @execPwrShutdownRestart x1 x2 s = .next t) : Keeps [.regs, .out, .dev, .seam, .cmd, .hbr, .vin, .pwr, .aon, .evr, .kvt, .ing, .plc, .rfx, .fse, .msh, .cod, .arc, .los, .met, .bil, .par, .upd, .win 0, .win 1, .win 2, .win 4, .win 5, .win 7, .win 8, .win 9, .win 10, .win 14, .win 18, .win 20, .win 21] s t := by
  unfold execPwrShutdownRestart at h
  have e := Host.Outcome.next.inj h
  subst e
  clear h
  show Walk true _ _ _
  repeat' first
    | (with_reducible exact Walk.refl)
    | (with_reducible apply Walk.step (k := State.reply_keeps))
    | (with_reducible apply Walk.step (k := State.duskDeclare_keeps))
    | (with_reducible apply Walk.step (k := State.postNow_keeps))
    | (with_reducible apply Walk.step (k := State.replyQueued_keeps))
    | (show covers _ _ = true; rfl)
    | (split)

theorem execDramScrub_keeps {x1 x2 x3 x4 s t} (h : @execDramScrub x1 x2 x3 x4 s = .next t) : Keeps [.regs, .evr, .win 21] s t := by
  unfold execDramScrub at h
  have e := Host.Outcome.next.inj h
  subst e
  clear h
  show Walk true _ _ _
  repeat' first
    | (with_reducible exact Walk.refl)
    | (with_reducible apply Walk.step (k := State.logEvent_keeps))
    | (show covers _ _ = true; rfl)
    | (split)

end Sys2Proof.Machine
end

