-- ==== Sys2Proof/Laws/KeepsSeam.lean ====
section
/-! SUPPORT. What each operation of Seam can change, and that it keeps the canonical forms. -/
set_option Elab.async false
namespace Sys2Proof.Machine

theorem State.mirrorView_keeps {x1 x2 s} : Keeps [.seam] s (@State.mirrorView x1 x2 s) := by
  unfold State.mirrorView
  show Walk true _ _ _
  repeat' first
    | (with_reducible exact Walk.refl)
    | (exact .inl rfl)
    | (exact .inr rfl)
    | (split)
    | (with_reducible refine Walk.update ?_ ?_ ?_ ?_ ?_ ?_ ?_ ?_ ?_ ?_ ?_ ?_ ?_ ?_ ?_ ?_ ?_ ?_ ?_ ?_ ?_ ?_ ?_ ?_ ?_ ?_ ?_ rfl rfl)

theorem State.setMiss_keeps {x1 x2 s} : Keeps [.seam] s (@State.setMiss x1 x2 s) := by
  unfold State.setMiss
  show Walk true _ _ _
  repeat' first
    | (with_reducible exact Walk.refl)
    | (exact .inl rfl)
    | (exact .inr rfl)
    | (split)
    | (with_reducible refine Walk.update ?_ ?_ ?_ ?_ ?_ ?_ ?_ ?_ ?_ ?_ ?_ ?_ ?_ ?_ ?_ ?_ ?_ ?_ ?_ ?_ ?_ ?_ ?_ ?_ ?_ ?_ ?_ rfl rfl)

theorem State.heartbeatMiss_keeps {x1 s} : Keeps [.regs, .out, .dev, .seam, .cmd, .evr, .plc, .rfx, .msh, .bil, .win 0, .win 4, .win 5, .win 21] s (@State.heartbeatMiss x1 s) := by
  unfold State.heartbeatMiss
  show Walk true _ _ _
  try dsimp only
  repeat' first
    | (with_reducible exact Walk.refl)
    | (with_reducible apply Walk.step (k := State.forceTwilight_keeps))
    | (with_reducible apply Walk.step (k := State.holdCause_keeps))
    | (with_reducible apply Walk.step (k := State.log_keeps))
    | (with_reducible apply Walk.step (k := State.setMiss_keeps))
    | (with_reducible apply Walk.step (k := State.truncateFrames_keeps))
    | (with_reducible apply Walk.ite)
    | (show covers _ _ = true; rfl)
    | (split)

theorem State.heartbeatMatch_keeps {x1 s} : Keeps [.regs, .seam, .win 0] s (@State.heartbeatMatch x1 s) := by
  unfold State.heartbeatMatch
  show Walk true _ _ _
  try dsimp only
  repeat' first
    | (with_reducible exact Walk.refl)
    | (with_reducible apply Walk.step (k := State.setMiss_keeps))
    | (with_reducible apply Walk.step (k := State.holdCause_keeps))
    | (show covers _ _ = true; rfl)
    | (split)

theorem State.setLastBeat_keeps {x1 x2 s} : Keeps [.seam] s (@State.setLastBeat x1 x2 s) := by
  unfold State.setLastBeat
  show Walk true _ _ _
  try dsimp only
  repeat' first
    | (with_reducible exact Walk.refl)
    | (split)
    | (with_reducible refine Walk.update ?_ ?_ ?_ ?_ ?_ ?_ ?_ ?_ ?_ ?_ ?_ ?_ ?_ ?_ ?_ ?_ ?_ ?_ ?_ ?_ ?_ ?_ ?_ ?_ ?_ ?_ ?_ rfl rfl)
    | (exact .inl rfl)
    | (exact .inr rfl)
    | (show covers _ _ = true; rfl)

theorem execOwnershipHeartbeatReceived_keeps {x1 x2 s t} (h : @execOwnershipHeartbeatReceived x1 x2 s = .next t) : Keeps [.regs, .out, .dev, .seam, .cmd, .evr, .plc, .rfx, .msh, .bil, .win 0, .win 4, .win 5, .win 21] s t := by
  unfold execOwnershipHeartbeatReceived at h
  have e := Host.Outcome.next.inj h
  subst e
  clear h
  show Walk true _ _ _
  try dsimp only
  repeat' first
    | (with_reducible exact Walk.refl)
    | (with_reducible apply Walk.step (k := State.heartbeatMatch_keeps))
    | (with_reducible apply Walk.step (k := State.heartbeatMiss_keeps))
    | (with_reducible apply Walk.step (k := State.mirrorView_keeps))
    | (with_reducible apply Walk.step (k := State.setLastBeat_keeps))
    | (with_reducible apply Walk.ite)
    | (show covers _ _ = true; rfl)
    | (split)

theorem State.setSeam_keeps {x1 x2 x3 s} : Keeps [.seam] s (@State.setSeam x1 x2 x3 s) := by
  unfold State.setSeam
  show Walk true _ _ _
  repeat' first
    | (with_reducible exact Walk.refl)
    | (exact .inl rfl)
    | (exact .inr rfl)
    | (split)
    | (with_reducible refine Walk.update ?_ ?_ ?_ ?_ ?_ ?_ ?_ ?_ ?_ ?_ ?_ ?_ ?_ ?_ ?_ ?_ ?_ ?_ ?_ ?_ ?_ ?_ ?_ ?_ ?_ ?_ ?_ rfl rfl)

theorem execHeartbeatTimeout_keeps {x1 s t} (h : @execHeartbeatTimeout x1 s = .next t) : Keeps [.regs, .out, .dev, .seam, .cmd, .evr, .plc, .rfx, .msh, .bil, .win 0, .win 4, .win 5, .win 21] s t := by
  unfold execHeartbeatTimeout at h
  have e := Host.Outcome.next.inj h
  subst e
  clear h
  show Walk true _ _ _
  repeat' first
    | (with_reducible exact Walk.refl)
    | (with_reducible apply Walk.step (k := State.heartbeatMiss_keeps))
    | (exact .inl rfl)
    | (exact .inr rfl)
    | (show covers _ _ = true; rfl)
    | (split)
    | (with_reducible refine Walk.update ?_ ?_ ?_ ?_ ?_ ?_ ?_ ?_ ?_ ?_ ?_ ?_ ?_ ?_ ?_ ?_ ?_ ?_ ?_ ?_ ?_ ?_ ?_ ?_ ?_ ?_ ?_ rfl rfl)

theorem execOwnershipHeartbeatSend_keeps {x1 s t} (h : @execOwnershipHeartbeatSend x1 s = .next t) : Keeps [.out, .seam] s t := by
  unfold execOwnershipHeartbeatSend at h
  have e := Host.Outcome.next.inj h
  subst e
  clear h
  show Walk true _ _ _
  try dsimp only
  repeat' first
    | (with_reducible exact Walk.refl)
    | (with_reducible apply Walk.step (k := State.seamBeat_keeps))
    | (show covers _ _ = true; rfl)
    | (split)

theorem State.seamFault_keeps {x1 x2 s} : Keeps [.regs, .out, .dev, .cmd, .evr, .plc, .rfx, .msh, .bil, .win 0, .win 4, .win 5, .win 21] s (@State.seamFault x1 x2 s) := by
  unfold State.seamFault
  show Walk true _ _ _
  repeat' first
    | (with_reducible exact Walk.refl)
    | (with_reducible apply Walk.step (k := State.holdCause_keeps))
    | (with_reducible apply Walk.step (k := State.enterState_keeps))
    | (with_reducible apply Walk.step (k := State.log_keeps))
    | (show covers _ _ = true; rfl)
    | (split)

theorem State.seamResend_keeps {x1 s} : Keeps [.out] s (@State.seamResend x1 s) := by
  unfold State.seamResend
  show Walk true _ _ _
  try dsimp only
  repeat' first
    | (with_reducible exact Walk.refl)
    | (with_reducible apply Walk.step (k := State.emit_keeps))
    | (show covers _ _ = true; rfl)
    | (split)

theorem State.seamBad_keeps {x1 x2 x3 s} : Keeps [.regs, .out, .dev, .seam, .cmd, .evr, .plc, .rfx, .msh, .bil, .win 0, .win 4, .win 5, .win 21] s (@State.seamBad x1 x2 x3 s) := by
  unfold State.seamBad
  show Walk true _ _ _
  try dsimp only
  repeat' first
    | (with_reducible exact Walk.refl)
    | (with_reducible apply Walk.step (k := State.emit_keeps))
    | (with_reducible apply Walk.step (k := State.seamResend_keeps))
    | (with_reducible apply Walk.step (k := State.seamFault_keeps))
    | (with_reducible apply Walk.step (k := State.setSeam_keeps))
    | (with_reducible apply Walk.ite)
    | (show covers _ _ = true; rfl)
    | (split)

theorem State.seamTaken_keeps {x1 s} : Keeps [.regs, .seam, .win 0] s (@State.seamTaken x1 s) := by
  unfold State.seamTaken
  show Walk true _ _ _
  try dsimp only
  repeat' first
    | (with_reducible exact Walk.refl)
    | (with_reducible apply Walk.step (k := State.holdCause_keeps))
    | (with_reducible apply Walk.step (k := State.setSeam_keeps))
    | (with_reducible refine Walk.update ?_ ?_ ?_ ?_ ?_ ?_ ?_ ?_ ?_ ?_ ?_ ?_ ?_ ?_ ?_ ?_ ?_ ?_ ?_ ?_ ?_ ?_ ?_ ?_ ?_ ?_ ?_ rfl rfl)
    | (exact .inl rfl)
    | (exact .inr rfl)
    | (show covers _ _ = true; rfl)
    | (split)

theorem State.seamRefuse_keeps {x1 x2 s} : Keeps [.regs, .seam, .evr, .win 21] s (@State.seamRefuse x1 x2 s) := by
  unfold State.seamRefuse
  show Walk true _ _ _
  try dsimp only
  repeat' first
    | (with_reducible exact Walk.refl)
    | (with_reducible apply Walk.step (k := State.log_keeps))
    | (with_reducible refine Walk.update ?_ ?_ ?_ ?_ ?_ ?_ ?_ ?_ ?_ ?_ ?_ ?_ ?_ ?_ ?_ ?_ ?_ ?_ ?_ ?_ ?_ ?_ ?_ ?_ ?_ ?_ ?_ rfl rfl)
    | (exact .inl rfl)
    | (exact .inr rfl)
    | (show covers _ _ = true; rfl)
    | (split)

end Sys2Proof.Machine
end

