-- ==== Sys2Proof/Laws/KeepsSeamRx.lean ====
section
/-! SUPPORT. What each operation of SeamRx can change, and that it keeps the canonical forms. -/
set_option Elab.async false
namespace Sys2Proof.Machine

theorem State.islandAccepts_keeps {x1 s} : Keeps [.regs, .evr, .kvt, .win 14, .win 21] s (@State.islandAccepts x1 s).2 := by
  unfold State.islandAccepts
  show Walk true _ _ _
  try dsimp only
  repeat' first
    | (with_reducible exact Walk.refl)
    | (with_reducible refine Walk.step ?_ (State.islandKey_keeps_of (by assumption)) ?_)
    | (with_reducible apply Walk.step (k := State.islandKey_keeps))
    | (with_reducible refine Walk.step ?_ (State.mtagOk_keeps_of (by assumption)) ?_)
    | (with_reducible apply Walk.step (k := State.mtagOk_keeps))
    | (show covers _ _ = true; rfl)
    | (split)

theorem State.islandAccepts_keeps_of {x1 s a1 t} (h : @State.islandAccepts x1 s = (a1, t)) : Keeps [.regs, .evr, .kvt, .win 14, .win 21] s t := by
  have := @State.islandAccepts_keeps x1 s
  rw [h] at this
  exact this

theorem State.seamGood_keeps {x1 x2 x3 x4 s} : Keeps [.regs, .seam, .evr, .kvt, .win 0, .win 14, .win 21] s (@State.seamGood x1 x2 x3 x4 s) := by
  unfold State.seamGood
  show Walk true _ _ _
  try dsimp only
  repeat' first
    | (with_reducible exact Walk.refl)
    | (with_reducible apply Walk.step (k := State.seamRefuse_keeps))
    | (with_reducible apply Walk.step (k := State.seamTaken_keeps))
    | (with_reducible refine Walk.step ?_ (State.islandAccepts_keeps_of (by assumption)) ?_)
    | (with_reducible apply Walk.step (k := State.islandAccepts_keeps))
    | (with_reducible apply Walk.ite)
    | (split)
    | (exact .inl rfl)
    | (exact .inr rfl)
    | (show covers _ _ = true; rfl)

theorem execSeamPacketReceived_keeps {x1 x2 x3 x4 x5 s t} (h : @execSeamPacketReceived x1 x2 x3 x4 x5 s = .next t) : Keeps [.regs, .out, .dev, .seam, .cmd, .evr, .kvt, .plc, .rfx, .msh, .bil, .win 0, .win 4, .win 5, .win 14, .win 21] s t := by
  unfold execSeamPacketReceived at h
  have e := Host.Outcome.next.inj h
  subst e
  clear h
  show Walk true _ _ _
  try dsimp only
  repeat' first
    | (with_reducible exact Walk.refl)
    | (with_reducible apply Walk.step (k := State.seamBad_keeps))
    | (with_reducible apply Walk.step (k := State.seamGood_keeps))
    | (with_reducible apply Walk.ite)
    | (show covers _ _ = true; rfl)
    | (split)

end Sys2Proof.Machine
end

