-- ==== Sys2Proof/Laws/KeepsSvc.lean ====
section
/-! SUPPORT. What each operation of Svc can change, and that it keeps the canonical forms. -/
set_option Elab.async false
namespace Sys2Proof.Machine

theorem State.setSvc_keeps {x1 s} : Keeps [.svc] s (@State.setSvc x1 s) := by
  unfold State.setSvc
  show Walk true _ _ _
  repeat' first
    | (with_reducible exact Walk.refl)
    | (with_reducible refine Walk.update ?_ ?_ ?_ ?_ ?_ ?_ ?_ ?_ ?_ ?_ ?_ ?_ ?_ ?_ ?_ ?_ ?_ ?_ ?_ ?_ ?_ ?_ ?_ ?_ ?_ ?_ ?_ rfl rfl)
    | (exact .inl rfl)
    | (exact .inr rfl)

theorem State.modSvcPort_keeps {x1 x2 s} : Keeps [.svc] s (@State.modSvcPort x1 x2 s) := by
  unfold State.modSvcPort
  show Walk true _ _ _
  repeat' first
    | (with_reducible exact Walk.refl)
    | (with_reducible apply Walk.step (k := State.setSvc_keeps))
    | (show covers _ _ = true; rfl)

theorem State.popPacket_keeps {x1 s} : Keeps [.svc] s (@State.popPacket x1 s) := by
  unfold State.popPacket
  show Walk true _ _ _
  repeat' first
    | (with_reducible exact Walk.refl)
    | (with_reducible apply Walk.step (k := State.modSvcPort_keeps))
    | (show covers _ _ = true; rfl)

theorem State.setTx_keeps {x1 s} : Keeps [.out, .svc] s (@State.setTx x1 s) := by
  unfold State.setTx
  show Walk true _ _ _
  try dsimp only
  repeat' first
    | (with_reducible exact Walk.refl)
    | (with_reducible apply Walk.step (k := State.modSvcPort_keeps))
    | (with_reducible apply Walk.step (k := State.emit_keeps))
    | (show covers _ _ = true; rfl)
    | (split)

theorem State.respond_keeps {x1 x2 s} : Keeps [.out, .svc] s (@State.respond x1 x2 s) := by
  unfold State.respond
  show Walk true _ _ _
  repeat' first
    | (with_reducible exact Walk.refl)
    | (with_reducible apply Walk.step (k := State.setTx_keeps))
    | (with_reducible apply Walk.step (k := State.setSvc_keeps))
    | (show covers _ _ = true; rfl)
    | (split)

theorem State.parse_keeps {x1 x2 s} : Keeps [.regs, .out, .svc, .win 17] s (@State.parse x1 x2 s) := by
  induction x2 generalizing s with
  | zero => exact Keeps.refl
  | succ n ih =>
    unfold State.parse
    show Walk true _ _ _
    dsimp only
    repeat' first
      | (with_reducible apply Walk.step (k := ih))
      | (with_reducible exact Walk.refl)
      | (with_reducible assumption)
      | (with_reducible apply Walk.step (k := State.modSvcPort_keeps))
      | (with_reducible apply Walk.step (k := State.bump_keeps))
      | (with_reducible apply Walk.step (k := State.popPacket_keeps))
      | (with_reducible apply Walk.step (k := State.respond_keeps))
      | (with_reducible apply Walk.step (k := ih))
      | (with_reducible apply Walk.foldl)
      | (with_reducible apply Walk.foldl1)
      | (with_reducible apply Walk.foldl2)
      | (with_reducible apply Walk.ite)
      | (intro _)
      | (exact .inl rfl)
      | (exact .inr rfl)
      | (show covers _ _ = true; rfl)

theorem State.portLook_keeps {x1 s} : Keeps [.regs, .out, .svc, .win 17] s (@State.portLook x1 s) := by
  unfold State.portLook
  show Walk true _ _ _
  try dsimp only
  repeat' first
    | (with_reducible exact Walk.refl)
    | (with_reducible apply Walk.step (k := State.parse_keeps))
    | (with_reducible apply Walk.step (k := State.modSvcPort_keeps))
    | (show covers _ _ = true; rfl)
    | (split)

theorem State.takeIn_keeps {x1 s} : Keeps [.svc] s (@State.takeIn x1 s) := by
  unfold State.takeIn
  show Walk true _ _ _
  try dsimp only
  repeat' first
    | (with_reducible exact Walk.refl)
    | (with_reducible apply Walk.step (k := State.modSvcPort_keeps))
    | (with_reducible apply Walk.step (k := State.setSvc_keeps))
    | (with_reducible apply Walk.ite)
    | (split)
    | (with_reducible refine Walk.update ?_ ?_ ?_ ?_ ?_ ?_ ?_ ?_ ?_ ?_ ?_ ?_ ?_ ?_ ?_ ?_ ?_ ?_ ?_ ?_ ?_ ?_ ?_ ?_ ?_ ?_ ?_ rfl rfl)
    | (exact .inl rfl)
    | (exact .inr rfl)
    | (show covers _ _ = true; rfl)

theorem State.serve_walk {b qs x1 x2 x3 x4 s0 s} (h : Walk true qs s0 s) (hf : ∀ d u, Walk true qs u (x4 d u).2.2)
    (hq : covers [.regs, .out, .svc, .win 17] qs = true) : Walk b qs s0 (@State.serve x1 x2 x3 x4 s) := by
  unfold State.serve
  show Walk true _ _ _
  dsimp only
  repeat' first
    | (exact covers_trans (by rfl) hq)
    | (with_reducible refine Walk.trans ?_ (hf _ _))
    | (with_reducible exact Walk.refl)
    | (with_reducible assumption)
    | (with_reducible apply Walk.step (k := State.portLook_keeps))
    | (with_reducible apply Walk.step (k := State.takeIn_keeps))
    | (with_reducible apply Walk.step (k := State.popPacket_keeps))
    | (with_reducible apply Walk.step (k := State.modSvcPort_keeps))
    | (with_reducible apply Walk.step (k := State.respond_keeps))
    | (with_reducible apply Walk.step (k := State.bump_keeps))
    | (exact covers_trans (by rfl) hq)
    | (with_reducible refine Walk.trans ?_ (hf _ _))
    | (with_reducible apply Walk.foldl)
    | (with_reducible apply Walk.foldl1)
    | (with_reducible apply Walk.foldl2)
    | (with_reducible apply Walk.ite)

theorem execSvcIdent_keeps {x1 s t} (h : @execSvcIdent x1 s = .next t) : Keeps [.regs, .out, .svc, .win 17] s t := by
  unfold execSvcIdent at h
  have e := Host.Outcome.next.inj h
  subst e
  clear h
  show Walk true _ _ _
  repeat' first
    | (with_reducible exact Walk.refl)
    | (with_reducible apply State.serve_walk)
    | (intro _)
    | (show covers _ _ = true; rfl)

theorem State.loaderRead_keeps {x1 s} : Keeps [] s (@State.loaderRead x1 s).2.2 := by
  unfold State.loaderRead
  show Walk true _ _ _
  try dsimp only
  repeat' first
    | (with_reducible exact Walk.refl)
    | (split)
theorem State.loaderRead_keeps_of {x1 s a1 a2 t} (h : @State.loaderRead x1 s = (a1, a2, t)) : Keeps [] s t := by
  have := @State.loaderRead_keeps x1 s
  rw [h] at this
  exact this

theorem execLoaderRead_keeps {x1 s t} (h : @execLoaderRead x1 s = .next t) : Keeps [.regs, .out, .svc, .win 17] s t := by
  unfold execLoaderRead at h
  have e := Host.Outcome.next.inj h
  subst e
  clear h
  show Walk true _ _ _
  repeat' first
    | (with_reducible exact Walk.refl)
    | (with_reducible apply State.serve_walk)
    | (with_reducible refine Walk.step ?_ (State.loaderRead_keeps_of (by assumption)) ?_)
    | (with_reducible apply Walk.step (k := State.loaderRead_keeps))
    | (intro _)
    | (show covers _ _ = true; rfl)

theorem State.ospOut_keeps {x1 s} : Keeps [.out, .svc] s (@State.ospOut x1 s) := by
  unfold State.ospOut
  show Walk true _ _ _
  try dsimp only
  repeat' first
    | (with_reducible exact Walk.refl)
    | (with_reducible apply Walk.step (k := State.emit_keeps))
    | (with_reducible apply Walk.step (k := State.setSvc_keeps))
    | (with_reducible apply Walk.ite)
    | (with_reducible refine Walk.update ?_ ?_ ?_ ?_ ?_ ?_ ?_ ?_ ?_ ?_ ?_ ?_ ?_ ?_ ?_ ?_ ?_ ?_ ?_ ?_ ?_ ?_ ?_ ?_ ?_ ?_ ?_ rfl rfl)
    | (exact .inl rfl)
    | (exact .inr rfl)
    | (show covers _ _ = true; rfl)
    | (split)

theorem State.sendNak_keeps {x1 s} : Keeps [.regs, .out, .svc, .win 17] s (@State.sendNak x1 s) := by
  unfold State.sendNak
  show Walk true _ _ _
  try dsimp only
  repeat' first
    | (with_reducible exact Walk.refl)
    | (with_reducible apply Walk.step (k := State.bump_keeps))
    | (with_reducible apply Walk.step (k := State.ospOut_keeps))
    | (show covers _ _ = true; rfl)
    | (split)

theorem execOspFloodClear_keeps {x1 s t} (h : @execOspFloodClear x1 s = .next t) : Keeps [.regs, .out, .svc, .win 17] s t := by
  unfold execOspFloodClear at h
  have e := Host.Outcome.next.inj h
  subst e
  clear h
  show Walk true _ _ _
  try dsimp only
  repeat' first
    | (with_reducible exact Walk.refl)
    | (with_reducible apply Walk.step (k := State.setSvc_keeps))
    | (with_reducible apply Walk.step (k := State.sendNak_keeps))
    | (with_reducible apply Walk.foldl)
    | (intro _)
    | (show covers _ _ = true; rfl)
    | (split)

theorem State.setLoaderState_keeps {x1 x2 s} : Keeps [.upd] s (@State.setLoaderState x1 x2 s) := by
  unfold State.setLoaderState
  show Walk true _ _ _
  repeat' first
    | (with_reducible exact Walk.refl)
    | (with_reducible refine State.setUpd_keeps ?_ ?_ ?_)
    | (show may _ _ = true; rfl)
    | (exact (fun _ => rfl))
    | (split)

theorem State.loaderErase_keeps {x1 x2 s} : Keeps [.regs, .upd, .win 16, .flash] s (@State.loaderErase x1 x2 s).2.2 := by
  unfold State.loaderErase
  dsimp only
  split
  · exact Keeps.refl
  · show Walk true _ _ _
    repeat' first
      | (with_reducible apply Walk.setUpdFlash)
      | (intro x h; dsimp only; exact Memory.wf_erase h)
      | (dsimp only)
      | (split)
      | (with_reducible exact Walk.refl)
      | (with_reducible assumption)
      | (with_reducible apply Walk.step (k := State.flashRetry_keeps))
      | (with_reducible refine State.setUpd_keeps ?_ ?_ ?_)
      | (with_reducible apply Walk.step (k := State.setLoaderState_keeps))
      | (with_reducible apply Walk.setUpdFlash)
      | (dsimp only)
      | (split)
      | (with_reducible apply Walk.foldl)
      | (with_reducible apply Walk.foldl1)
      | (with_reducible apply Walk.foldl2)
      | (with_reducible apply Walk.ite)
      | (intro _)
      | (exact .inl rfl)
      | (exact .inr rfl)
      | (show covers _ _ = true; rfl)
      | (show may _ _ = true; rfl)

theorem State.loaderErase_keeps_of {x1 x2 s a1 a2 t} (h : @State.loaderErase x1 x2 s = (a1, a2, t)) : Keeps [.regs, .upd, .win 16, .flash] s t := by
  have := @State.loaderErase_keeps x1 x2 s
  rw [h] at this
  exact this

theorem State.loaderCheck_keeps {x1 x2 s} : Keeps [.upd] s (@State.loaderCheck x1 x2 s).2.2 := by
  unfold State.loaderCheck
  show Walk true _ _ _
  try dsimp only
  repeat' first
    | (with_reducible exact Walk.refl)
    | (with_reducible apply Walk.step (k := State.setLoaderState_keeps))
    | (show covers _ _ = true; rfl)
    | (split)
theorem State.loaderCheck_keeps_of {x1 x2 s a1 a2 t} (h : @State.loaderCheck x1 x2 s = (a1, a2, t)) : Keeps [.upd] s t := by
  have := @State.loaderCheck_keeps x1 x2 s
  rw [h] at this
  exact this

theorem State.tapShows_keeps {s} : Keeps [.out] s (@State.tapShows s) := by
  unfold State.tapShows
  show Walk true _ _ _
  try dsimp only
  repeat' first
    | (with_reducible exact Walk.refl)
    | (with_reducible apply Walk.step (k := State.emit_keeps))
    | (with_reducible apply Walk.ite)
    | (show covers _ _ = true; rfl)
    | (split)

theorem execTapReset_keeps {s t} (h : @execTapReset s = .next t) : Keeps [.regs, .out, .dev, .seam, .cmd, .hbr, .fab, .vin, .pwr, .evr, .tim, .kvt, .ing, .plc, .rfx, .fse, .msh, .cod, .arc, .los, .bil, .par, .upd, .svc, .wins] s t := by
  unfold execTapReset at h
  have e := Host.Outcome.next.inj h
  subst e
  clear h
  show Walk true _ _ _
  try dsimp only
  repeat' first
    | (with_reducible exact Walk.refl)
    | (with_reducible apply Walk.step (k := State.domainsOff_keeps))
    | (with_reducible apply Walk.step (k := State.noonOff_keeps))
    | (with_reducible apply Walk.step (k := State.setSvc_keeps))
    | (with_reducible apply Walk.step (k := State.startDawn_keeps))
    | (with_reducible apply Walk.step (k := State.tapShows_keeps))
    | (with_reducible apply Walk.ite)
    | (with_reducible refine Walk.update ?_ ?_ ?_ ?_ ?_ ?_ ?_ ?_ ?_ ?_ ?_ ?_ ?_ ?_ ?_ ?_ ?_ ?_ ?_ ?_ ?_ ?_ ?_ ?_ ?_ ?_ ?_ rfl rfl)
    | (exact .inl rfl)
    | (exact .inr rfl)
    | (show covers _ _ = true; rfl)
    | (split)

theorem State.loaderSelect_keeps {x1 x2 s} : Keeps [.upd, .flash] s (@State.loaderSelect x1 x2 s).2.2 := by
  unfold State.loaderSelect
  show Walk true _ _ _
  try dsimp only
  repeat' first
    | (with_reducible exact Walk.refl)
    | (with_reducible apply Walk.step (k := State.commitBoot_keeps))
    | (show covers _ _ = true; rfl)
    | (split)
theorem State.loaderSelect_keeps_of {x1 x2 s a1 a2 t} (h : @State.loaderSelect x1 x2 s = (a1, a2, t)) : Keeps [.upd, .flash] s t := by
  have := @State.loaderSelect_keeps x1 x2 s
  rw [h] at this
  exact this

theorem execLoaderErase_keeps {x1 x2 s t} (h : @execLoaderErase x1 x2 s = .next t) : Keeps [.regs, .out, .upd, .svc, .win 16, .win 17, .flash] s t := by
  unfold execLoaderErase at h
  have e := Host.Outcome.next.inj h
  subst e
  clear h
  show Walk true _ _ _
  repeat' first
    | (with_reducible exact Walk.refl)
    | (with_reducible apply State.serve_walk)
    | (with_reducible refine Walk.step ?_ (State.loaderErase_keeps_of (by assumption)) ?_)
    | (with_reducible apply Walk.step (k := State.loaderErase_keeps))
    | (intro _)
    | (show covers _ _ = true; rfl)

theorem execOspResponseDrop_keeps {s t} (h : @execOspResponseDrop s = .next t) : Keeps [.regs, .svc, .win 17] s t := by
  unfold execOspResponseDrop at h
  have e := Host.Outcome.next.inj h
  subst e
  clear h
  show Walk true _ _ _
  repeat' first
    | (with_reducible exact Walk.refl)
    | (with_reducible apply Walk.step (k := State.bump_keeps))
    | (with_reducible apply Walk.step (k := State.setSvc_keeps))
    | (show covers _ _ = true; rfl)
    | (split)

theorem execLoaderIdent_keeps {x1 s t} (h : @execLoaderIdent x1 s = .next t) : Keeps [.regs, .out, .svc, .win 17] s t := by
  unfold execLoaderIdent at h
  have e := Host.Outcome.next.inj h
  subst e
  clear h
  show Walk true _ _ _
  repeat' first
    | (with_reducible exact Walk.refl)
    | (with_reducible apply State.serve_walk)
    | (intro _)
    | (show covers _ _ = true; rfl)

theorem State.loaderRestart_keeps {s} : Keeps [.regs, .out, .dev, .seam, .cmd, .hbr, .fab, .vin, .pwr, .evr, .tim, .kvt, .ing, .plc, .rfx, .fse, .msh, .cod, .arc, .los, .bil, .par, .upd, .svc, .wins] s (@State.loaderRestart s) := by
  unfold State.loaderRestart
  show Walk true _ _ _
  repeat' first
    | (with_reducible exact Walk.refl)
    | (with_reducible apply Walk.step (k := State.startDawn_keeps))
    | (with_reducible apply Walk.step (k := State.domainsOff_keeps))
    | (with_reducible apply Walk.step (k := State.noonOff_keeps))
    | (show covers _ _ = true; rfl)

theorem execLoaderRestart_keeps {x1 s t} (h : @execLoaderRestart x1 s = .next t) : Keeps [.regs, .out, .dev, .seam, .cmd, .hbr, .fab, .vin, .pwr, .evr, .tim, .kvt, .ing, .plc, .rfx, .fse, .msh, .cod, .arc, .los, .bil, .par, .upd, .svc, .wins] s t := by
  unfold execLoaderRestart at h
  have e := Host.Outcome.next.inj h
  subst e
  clear h
  show Walk true _ _ _
  try dsimp only
  repeat' first
    | (with_reducible exact Walk.refl)
    | (with_reducible apply Walk.step (k := State.portLook_keeps))
    | (with_reducible apply Walk.step (k := State.takeIn_keeps))
    | (with_reducible apply Walk.step (k := State.loaderRestart_keeps))
    | (show covers _ _ = true; rfl)
    | (split)

theorem State.sspFault_keeps {x1 s} : Keeps [.regs, .svc, .win (winOf x1)] s (@State.sspFault x1 s) := by
  unfold State.sspFault
  show Walk true _ _ _
  try dsimp only
  repeat' first
    | ((show covers _ _ = true; simp [covers, may, Part.code, Part.isWin]))
    | (with_reducible exact Walk.refl)
    | (with_reducible assumption)
    | (with_reducible apply Walk.step (k := State.setSvc_keeps))
    | (with_reducible apply Walk.step (k := State.bump_keeps))

theorem State.dropFrame_keeps {x1 x2 s} : Keeps [.regs, .svc, .win (winOf x2)] s (@State.dropFrame x1 x2 s) := by
  unfold State.dropFrame
  show Walk true _ _ _
  try dsimp only
  repeat' first
    | ((show covers _ _ = true; simp [covers, may, Part.code, Part.isWin]))
    | (with_reducible exact Walk.refl)
    | (with_reducible assumption)
    | (with_reducible apply Walk.step (k := State.modSvcPort_keeps))
    | (with_reducible apply Walk.step (k := State.bump_keeps))
    | (with_reducible apply Walk.step (k := State.setSvc_keeps))
    | (with_reducible apply Walk.foldl)
    | (with_reducible apply Walk.foldl1)
    | (with_reducible apply Walk.foldl2)
    | (with_reducible apply Walk.ite)

theorem execOspFramingError_keeps {x1 s t} (h : @execOspFramingError x1 s = .next t) : Keeps [.regs, .svc, .win 17] s t := by
  unfold execOspFramingError at h
  have e := Host.Outcome.next.inj h
  subst e
  clear h
  show Walk true _ _ _
  repeat' first
    | (with_reducible exact Walk.refl)
    | (with_reducible apply Walk.step (k := State.dropFrame_keeps))
    | (show covers _ _ = true; rfl)

theorem execLoaderCheck_keeps {x1 x2 s t} (h : @execLoaderCheck x1 x2 s = .next t) : Keeps [.regs, .out, .upd, .svc, .win 17] s t := by
  unfold execLoaderCheck at h
  have e := Host.Outcome.next.inj h
  subst e
  clear h
  show Walk true _ _ _
  repeat' first
    | (with_reducible exact Walk.refl)
    | (with_reducible apply State.serve_walk)
    | (with_reducible refine Walk.step ?_ (State.loaderCheck_keeps_of (by assumption)) ?_)
    | (with_reducible apply Walk.step (k := State.loaderCheck_keeps))
    | (intro _)
    | (show covers _ _ = true; rfl)

theorem State.regRead_keeps {x1 s} : Keeps [] s (@State.regRead x1 s).2.2 := by
  unfold State.regRead
  show Walk true _ _ _
  try dsimp only
  repeat' first
    | (with_reducible exact Walk.refl)
    | (split)
theorem State.regRead_keeps_of {x1 s a1 a2 t} (h : @State.regRead x1 s = (a1, a2, t)) : Keeps [] s t := by
  have := @State.regRead_keeps x1 s
  rw [h] at this
  exact this

theorem execSvcRegRead_keeps {x1 s t} (h : @execSvcRegRead x1 s = .next t) : Keeps [.regs, .out, .svc, .win 17] s t := by
  unfold execSvcRegRead at h
  have e := Host.Outcome.next.inj h
  subst e
  clear h
  show Walk true _ _ _
  repeat' first
    | (with_reducible exact Walk.refl)
    | (with_reducible apply State.serve_walk)
    | (with_reducible refine Walk.step ?_ (State.regRead_keeps_of (by assumption)) ?_)
    | (with_reducible apply Walk.step (k := State.regRead_keeps))
    | (intro _)
    | (show covers _ _ = true; rfl)

theorem execOspFloodStart_keeps {x1 x2 x3 s t} (h : @execOspFloodStart x1 x2 x3 s = .next t) : Keeps [.regs, .svc, .win 17] s t := by
  unfold execOspFloodStart at h
  have e := Host.Outcome.next.inj h
  subst e
  clear h
  show Walk true _ _ _
  try dsimp only
  repeat' first
    | (with_reducible exact Walk.refl)
    | (with_reducible apply Walk.step (k := State.setSvc_keeps))
    | (with_reducible apply Walk.step (k := State.dropFrame_keeps))
    | (with_reducible apply Walk.step (k := State.bump_keeps))
    | (show covers _ _ = true; rfl)
    | (split)

theorem State.loaderWrite_keeps {x1 x2 s} : Keeps [.regs, .upd, .win 16, .flash] s (@State.loaderWrite x1 x2 s).2.2 := by
  unfold State.loaderWrite
  dsimp only
  split
  · exact Keeps.refl
  · show Walk true _ _ _
    repeat' first
      | (with_reducible apply Walk.setUpdFlash)
      | (intro x h; dsimp only; exact Memory.wf_program h)
      | (dsimp only)
      | (split)
      | (with_reducible exact Walk.refl)
      | (with_reducible assumption)
      | (with_reducible apply Walk.step (k := State.setLoaderState_keeps))
      | (with_reducible apply Walk.step (k := State.flashRetry_keeps))
      | (with_reducible refine State.setUpd_keeps ?_ ?_ ?_)
      | (with_reducible apply Walk.setUpdFlash)
      | (dsimp only)
      | (split)
      | (with_reducible apply Walk.foldl)
      | (with_reducible apply Walk.foldl1)
      | (with_reducible apply Walk.foldl2)
      | (with_reducible apply Walk.ite)
      | (intro _)
      | (exact .inl rfl)
      | (exact .inr rfl)
      | (show covers _ _ = true; rfl)
      | (show may _ _ = true; rfl)

theorem State.loaderWrite_keeps_of {x1 x2 s a1 a2 t} (h : @State.loaderWrite x1 x2 s = (a1, a2, t)) : Keeps [.regs, .upd, .win 16, .flash] s t := by
  have := @State.loaderWrite_keeps x1 x2 s
  rw [h] at this
  exact this

theorem execLoaderWrite_keeps {x1 x2 s t} (h : @execLoaderWrite x1 x2 s = .next t) : Keeps [.regs, .out, .upd, .svc, .win 16, .win 17, .flash] s t := by
  unfold execLoaderWrite at h
  have e := Host.Outcome.next.inj h
  subst e
  clear h
  show Walk true _ _ _
  repeat' first
    | (with_reducible exact Walk.refl)
    | (with_reducible apply State.serve_walk)
    | (with_reducible refine Walk.step ?_ (State.loaderWrite_keeps_of (by assumption)) ?_)
    | (with_reducible apply Walk.step (k := State.loaderWrite_keeps))
    | (intro _)
    | (show covers _ _ = true; rfl)

theorem State.sspTransaction_walk {b qs x1 x2 x3 s0 s} (h : Walk true qs s0 s) (hf : ∀ u, Walk true qs u (x3 u)) (hq : covers [.regs, .out, .svc, .win 17] qs = true) :
    Walk b qs s0 (@State.sspTransaction x1 x2 x3 s) := by
  unfold State.sspTransaction
  show Walk true _ _ _
  try dsimp only
  repeat' first
    | (exact covers_trans (by rfl) hq)
    | (with_reducible refine Walk.trans ?_ (hf _))
    | (with_reducible refine Walk.trans ?_ (hf _ _))
    | (with_reducible exact Walk.refl)
    | (with_reducible assumption)
    | (with_reducible apply Walk.step (k := State.setSvc_keeps))
    | (with_reducible apply Walk.step (k := State.sspFault_keeps))
    | (with_reducible apply Walk.step (k := State.emit_keeps))
    | (with_reducible apply Walk.step (k := State.bump_keeps))
    | (exact covers_trans (by rfl) hq)
    | (with_reducible refine Walk.trans ?_ (hf _))
    | (with_reducible refine Walk.trans ?_ (hf _ _))
    | (with_reducible apply Walk.foldl)
    | (with_reducible apply Walk.foldl1)
    | (with_reducible apply Walk.foldl2)
    | (with_reducible apply Walk.ite)

theorem execLoaderSelect_keeps {x1 x2 s t} (h : @execLoaderSelect x1 x2 s = .next t) : Keeps [.regs, .out, .upd, .svc, .win 17, .flash] s t := by
  unfold execLoaderSelect at h
  have e := Host.Outcome.next.inj h
  subst e
  clear h
  show Walk true _ _ _
  repeat' first
    | (with_reducible exact Walk.refl)
    | (with_reducible apply State.serve_walk)
    | (with_reducible refine Walk.step ?_ (State.loaderSelect_keeps_of (by assumption)) ?_)
    | (with_reducible apply Walk.step (k := State.loaderSelect_keeps))
    | (intro _)
    | (show covers _ _ = true; rfl)

theorem execOspLoaderMove_keeps {s t} (h : @execOspLoaderMove s = .next t) : Keeps [.svc] s t := by
  unfold execOspLoaderMove at h
  have e := Host.Outcome.next.inj h
  subst e
  clear h
  show Walk true _ _ _
  repeat' first
    | (with_reducible exact Walk.refl)
    | (with_reducible apply Walk.step (k := State.setSvc_keeps))
    | (show covers _ _ = true; rfl)
    | (split)

theorem State.tapLoad_keeps {x1 x2 s} : Keeps [.regs, .svc, .win 17] s (@State.tapLoad x1 x2 s) := by
  unfold State.tapLoad
  show Walk true _ _ _
  repeat' first
    | (with_reducible exact Walk.refl)
    | (with_reducible apply Walk.step (k := State.bump_keeps))
    | (with_reducible apply Walk.step (k := State.setSvc_keeps))
    | (show covers _ _ = true; rfl)
    | (split)

theorem execPacketSilenceTimeout_keeps {x1 s t} (h : @execPacketSilenceTimeout x1 s = .next t) : Keeps [.regs, .out, .svc, .win 17] s t := by
  unfold execPacketSilenceTimeout at h
  have e := Host.Outcome.next.inj h
  subst e
  clear h
  show Walk true _ _ _
  try dsimp only
  repeat' first
    | (with_reducible exact Walk.refl)
    | (with_reducible apply Walk.step (k := State.portLook_keeps))
    | (with_reducible apply Walk.step (k := State.bump_keeps))
    | (with_reducible apply Walk.step (k := State.modSvcPort_keeps))
    | (show covers _ _ = true; rfl)
    | (split)

theorem execSspPut_keeps {x1 x2 x3 s t} (h : @execSspPut x1 x2 x3 s = .next t) : Keeps [.regs, .out, .svc, .win 17] s t := by
  unfold execSspPut at h
  have e := Host.Outcome.next.inj h
  subst e
  clear h
  show Walk true _ _ _
  try dsimp only
  repeat' first
    | (with_reducible exact Walk.refl)
    | (with_reducible apply Walk.step (k := State.emit_keeps))
    | (with_reducible apply Walk.step (k := State.modSvcPort_keeps))
    | (with_reducible apply Walk.step (k := State.portLook_keeps))
    | (with_reducible apply Walk.step (k := State.sspFault_keeps))
    | (with_reducible apply Walk.ite)
    | (with_reducible refine Walk.update ?_ ?_ ?_ ?_ ?_ ?_ ?_ ?_ ?_ ?_ ?_ ?_ ?_ ?_ ?_ ?_ ?_ ?_ ?_ ?_ ?_ ?_ ?_ ?_ ?_ ?_ ?_ rfl rfl)
    | (exact .inl rfl)
    | (exact .inr rfl)
    | (show covers _ _ = true; rfl)
    | (with_reducible apply State.sspTransaction_walk)
    | (intro _)
    | (split)

theorem execOspResponseSend_keeps {x1 s t} (h : @execOspResponseSend x1 s = .next t) : Keeps [.regs, .out, .svc, .win 17] s t := by
  unfold execOspResponseSend at h
  have e := Host.Outcome.next.inj h
  subst e
  clear h
  show Walk true _ _ _
  try dsimp only
  repeat' first
    | (with_reducible exact Walk.refl)
    | (with_reducible apply Walk.step (k := State.ospOut_keeps))
    | (with_reducible apply Walk.step (k := State.sendNak_keeps))
    | (with_reducible apply Walk.step (k := State.setSvc_keeps))
    | (with_reducible apply Walk.ite)
    | (split)
    | (with_reducible refine Walk.update ?_ ?_ ?_ ?_ ?_ ?_ ?_ ?_ ?_ ?_ ?_ ?_ ?_ ?_ ?_ ?_ ?_ ?_ ?_ ?_ ?_ ?_ ?_ ?_ ?_ ?_ ?_ rfl rfl)
    | (exact .inl rfl)
    | (exact .inr rfl)
    | (show covers _ _ = true; rfl)

theorem execSspGet_keeps {x1 x2 x3 s t} (h : @execSspGet x1 x2 x3 s = .next t) : Keeps [.regs, .out, .svc, .win 17] s t := by
  unfold execSspGet at h
  have e := Host.Outcome.next.inj h
  subst e
  clear h
  show Walk true _ _ _
  repeat' first
    | (with_reducible exact Walk.refl)
    | (with_reducible apply State.sspTransaction_walk)
    | (with_reducible apply Walk.step (k := State.emit_keeps))
    | (with_reducible apply Walk.step (k := State.setTx_keeps))
    | (with_reducible apply Walk.step (k := State.portLook_keeps))
    | (with_reducible apply Walk.step (k := State.sspFault_keeps))
    | (intro _)
    | (show covers _ _ = true; rfl)
    | (split)

theorem execSspStat_keeps {x1 s t} (h : @execSspStat x1 s = .next t) : Keeps [.regs, .out, .svc, .win 17] s t := by
  unfold execSspStat at h
  have e := Host.Outcome.next.inj h
  subst e
  clear h
  show Walk true _ _ _
  repeat' first
    | (with_reducible exact Walk.refl)
    | (with_reducible apply State.sspTransaction_walk)
    | (with_reducible apply Walk.step (k := State.setSvc_keeps))
    | (with_reducible apply Walk.step (k := State.emit_keeps))
    | (intro _)
    | (show covers _ _ = true; rfl)

theorem execTapInstructionLoad_keeps {x1 x2 s t} (h : @execTapInstructionLoad x1 x2 s = .next t) : Keeps [.regs, .out, .svc, .win 17] s t := by
  unfold execTapInstructionLoad at h
  have e := Host.Outcome.next.inj h
  subst e
  clear h
  show Walk true _ _ _
  try dsimp only
  repeat' first
    | (with_reducible exact Walk.refl)
    | (with_reducible apply Walk.step (k := State.tapLoad_keeps))
    | (with_reducible apply Walk.step (k := State.tapShows_keeps))
    | (show covers _ _ = true; rfl)
    | (split)

end Sys2Proof.Machine
end

