-- ==== Sys2Proof/Laws/KeepsUpd.lean ====
section
/-! SUPPORT. What each operation of Upd can change, and that it keeps the canonical forms. -/
set_option Elab.async false
namespace Sys2Proof.Machine

theorem execUpdCampaignWindow_keeps {x1 s t} (h : @execUpdCampaignWindow x1 s = .next t) : Keeps [.regs, .out, .cmd, .hbr, .evr, .tim, .kvt, .ing, .plc, .msh, .bil, .par, .upd, .win 1, .win 4, .win 7, .win 14, .win 16, .win 18, .win 21] s t := by
  unfold execUpdCampaignWindow at h
  have e := Host.Outcome.next.inj h
  subst e
  clear h
  show Walk true _ _ _
  try dsimp only
  repeat' first
    | (with_reducible exact Walk.refl)
    | (with_reducible refine State.setUpd_keeps ?_ ?_ ?_)
    | (with_reducible apply Walk.step (k := State.fwMulticast_keeps))
    | (with_reducible apply Walk.step (k := State.fwOpen_keeps))
    | (with_reducible apply Walk.step (k := State.updNotice_keeps))
    | (with_reducible apply Walk.step (k := State.fwPause_keeps))
    | (split)
    | (with_reducible refine Walk.update ?_ ?_ ?_ ?_ ?_ ?_ ?_ ?_ ?_ ?_ ?_ ?_ ?_ ?_ ?_ ?_ ?_ ?_ ?_ ?_ ?_ ?_ ?_ ?_ ?_ ?_ ?_ rfl rfl)
    | (exact .inl rfl)
    | (exact .inr rfl)
    | (show covers _ _ = true; rfl)
    | (show may _ _ = true; rfl)
    | (exact (fun _ => rfl))

theorem State.relayTake_walk {b qs x1 x2 x3 s0 s} (h : Walk true qs s0 s) (hf : ∀ u, Walk true qs u (x3 u)) (hq : covers [.regs, .win 16] qs = true) :
    Walk b qs s0 (@State.relayTake x1 x2 x3 s) := by
  unfold State.relayTake
  show Walk true _ _ _
  try dsimp only
  repeat' first
    | (exact covers_trans (by rfl) hq)
    | (with_reducible refine Walk.trans ?_ (hf _))
    | (with_reducible refine Walk.trans ?_ (hf _ _))
    | (with_reducible exact Walk.refl)
    | (with_reducible assumption)
    | (with_reducible apply Walk.step (k := State.bump_keeps))
    | (exact covers_trans (by rfl) hq)
    | (with_reducible refine Walk.trans ?_ (hf _))
    | (with_reducible refine Walk.trans ?_ (hf _ _))
    | (with_reducible apply Walk.foldl)
    | (with_reducible apply Walk.foldl1)
    | (with_reducible apply Walk.foldl2)
    | (with_reducible apply Walk.ite)

theorem State.fromSuccessor_walk {b qs x1 x2 x3 s0 s} (h : Walk true qs s0 s) (hf : ∀ k u, Walk true qs u (x3 k u)) (hq : covers [.regs, .win 16] qs = true) :
    Walk b qs s0 (@State.fromSuccessor x1 x2 x3 s) := by
  unfold State.fromSuccessor
  show Walk true _ _ _
  try dsimp only
  repeat' first
    | (exact covers_trans (by rfl) hq)
    | (with_reducible refine Walk.trans ?_ (hf _))
    | (with_reducible refine Walk.trans ?_ (hf _ _))
    | (with_reducible exact Walk.refl)
    | (with_reducible assumption)
    | (with_reducible apply Walk.step (k := State.bump_keeps))
    | (exact covers_trans (by rfl) hq)
    | (with_reducible refine Walk.trans ?_ (hf _))
    | (with_reducible refine Walk.trans ?_ (hf _ _))
    | (with_reducible apply Walk.foldl)
    | (with_reducible apply Walk.foldl1)
    | (with_reducible apply Walk.foldl2)
    | (with_reducible apply Walk.ite)
    | (intro _)
    | (exact .inl rfl)
    | (exact .inr rfl)
    | (exact (fun _ => rfl))
    | (split)

theorem State.relayOut_keeps {x1 x2 x3 x4 x5 x6 s} : Keeps [.regs, .out, .tim, .win 16] s (@State.relayOut x1 x2 x3 x4 x5 x6 s) := by
  unfold State.relayOut
  show Walk true _ _ _
  try dsimp only
  repeat' first
    | (with_reducible exact Walk.refl)
    | (with_reducible apply Walk.step (k := State.bump_keeps))
    | (with_reducible apply Walk.step (k := State.emit_keeps))
    | (with_reducible apply State.passLaunch_walk)
    | (with_reducible apply Walk.ite)
    | (intro _)
    | (show covers _ _ = true; rfl)
    | (show may _ _ = true; rfl)
    | (split)

theorem State.relayTo_keeps {x1 x2 x3 x4 s} : Keeps [.regs, .out, .tim, .win 16] s (@State.relayTo x1 x2 x3 x4 s) := by
  unfold State.relayTo
  show Walk true _ _ _
  repeat' first
    | (with_reducible exact Walk.refl)
    | (with_reducible apply Walk.step (k := State.relayOut_keeps))
    | (show covers _ _ = true; rfl)

theorem State.modRelay_keeps {x1 x2 s} : Keeps [.upd] s (@State.modRelay x1 x2 s) := by
  unfold State.modRelay
  show Walk true _ _ _
  repeat' first
    | (with_reducible exact Walk.refl)
    | (with_reducible refine State.setUpd_keeps ?_ ?_ ?_)
    | (show may _ _ = true; rfl)
    | (exact (fun _ => rfl))

theorem State.relaySendOn_keeps {x1 s} : Keeps [.regs, .out, .tim, .upd, .win 16] s (@State.relaySendOn x1 s) := by
  unfold State.relaySendOn
  show Walk true _ _ _
  try dsimp only
  repeat' first
    | (with_reducible exact Walk.refl)
    | (with_reducible apply Walk.step (k := State.relayTo_keeps))
    | (with_reducible apply Walk.step (k := State.modRelay_keeps))
    | (with_reducible apply Walk.foldl)
    | (intro _)
    | (with_reducible refine Walk.update ?_ ?_ ?_ ?_ ?_ ?_ ?_ ?_ ?_ ?_ ?_ ?_ ?_ ?_ ?_ ?_ ?_ ?_ ?_ ?_ ?_ ?_ ?_ ?_ ?_ ?_ ?_ rfl rfl)
    | (exact .inl rfl)
    | (exact .inr rfl)
    | (show covers _ _ = true; rfl)
    | (split)

theorem execRelayAckReceived_keeps {x1 s t} (h : @execRelayAckReceived x1 s = .next t) : Keeps [.regs, .out, .tim, .upd, .win 16] s t := by
  unfold execRelayAckReceived at h
  have e := Host.Outcome.next.inj h
  subst e
  clear h
  show Walk true _ _ _
  try dsimp only
  repeat' first
    | (with_reducible exact Walk.refl)
    | (with_reducible apply State.relayTake_walk)
    | (with_reducible apply State.fromSuccessor_walk)
    | (with_reducible apply Walk.step (k := State.relaySendOn_keeps))
    | (with_reducible apply Walk.step (k := State.modRelay_keeps))
    | (intro _)
    | (with_reducible refine Walk.update ?_ ?_ ?_ ?_ ?_ ?_ ?_ ?_ ?_ ?_ ?_ ?_ ?_ ?_ ?_ ?_ ?_ ?_ ?_ ?_ ?_ ?_ ?_ ?_ ?_ ?_ ?_ rfl rfl)
    | (exact .inl rfl)
    | (exact .inr rfl)
    | (show covers _ _ = true; rfl)
    | (split)

theorem State.trialRestart_keeps {x1 x2 s} : Keeps [.regs, .out, .dev, .seam, .cmd, .hbr, .fab, .vin, .pwr, .aon, .evr, .tim, .kvt, .ing, .plc, .rfx, .fse, .msh, .cod, .arc, .los, .bil, .par, .upd, .svc, .wins, .flash] s (@State.trialRestart x1 x2 s) := by
  unfold State.trialRestart
  show Walk true _ _ _
  repeat' first
    | (with_reducible exact Walk.refl)
    | (with_reducible apply Walk.step (k := State.commitBoot_keeps))
    | (with_reducible refine State.setUpd_keeps ?_ ?_ ?_)
    | (with_reducible apply Walk.step (k := State.noonRestart_keeps))
    | (with_reducible apply Walk.step (k := State.postNow_keeps))
    | (show covers _ _ = true; rfl)
    | (show may _ _ = true; rfl)
    | (exact (fun _ => rfl))

theorem State.endActivation_keeps {x1 x2 s} : Keeps [.cmd, .bil, .upd] s (@State.endActivation x1 x2 s) := by
  unfold State.endActivation
  show Walk true _ _ _
  repeat' first
    | (with_reducible exact Walk.refl)
    | (with_reducible apply Walk.step (k := State.reply_keeps))
    | (with_reducible refine State.setUpd_keeps ?_ ?_ ?_)
    | (show covers _ _ = true; rfl)
    | (show may _ _ = true; rfl)
    | (exact (fun _ => rfl))

theorem execUpdActivateCancel_keeps {x1 s t} (h : @execUpdActivateCancel x1 s = .next t) : Keeps [.cmd, .bil, .upd] s t := by
  unfold execUpdActivateCancel at h
  have e := Host.Outcome.next.inj h
  subst e
  clear h
  show Walk true _ _ _
  repeat' first
    | (with_reducible exact Walk.refl)
    | (with_reducible apply Walk.step (k := State.reply_keeps))
    | (with_reducible apply Walk.step (k := State.endActivation_keeps))
    | (with_reducible apply Walk.step (k := State.replyQueued_keeps))
    | (show covers _ _ = true; rfl)
    | (split)

theorem State.relayAnswer_keeps {x1 x2 x3 x4 s} : Keeps [.regs, .out, .tim, .win 16] s (@State.relayAnswer x1 x2 x3 x4 s) := by
  unfold State.relayAnswer
  show Walk true _ _ _
  repeat' first
    | (with_reducible exact Walk.refl)
    | (with_reducible apply Walk.step (k := State.relayOut_keeps))
    | (show covers _ _ = true; rfl)

theorem execRelayAcceptReceived_keeps {x1 s t} (h : @execRelayAcceptReceived x1 s = .next t) : Keeps [.regs, .out, .tim, .upd, .win 16] s t := by
  unfold execRelayAcceptReceived at h
  have e := Host.Outcome.next.inj h
  subst e
  clear h
  show Walk true _ _ _
  repeat' first
    | (with_reducible exact Walk.refl)
    | (with_reducible apply State.relayTake_walk)
    | (with_reducible apply State.fromSuccessor_walk)
    | (with_reducible apply Walk.step (k := State.relaySendOn_keeps))
    | (with_reducible apply Walk.step (k := State.modRelay_keeps))
    | (intro _)
    | (with_reducible refine Walk.update ?_ ?_ ?_ ?_ ?_ ?_ ?_ ?_ ?_ ?_ ?_ ?_ ?_ ?_ ?_ ?_ ?_ ?_ ?_ ?_ ?_ ?_ ?_ ?_ ?_ ?_ ?_ rfl rfl)
    | (exact .inl rfl)
    | (exact .inr rfl)
    | (show covers _ _ = true; rfl)

theorem execUpdCampaignDeadline_keeps {x1 s t} (h : @execUpdCampaignDeadline x1 s = .next t) : Keeps [.cmd, .plc, .msh, .bil, .upd] s t := by
  unfold execUpdCampaignDeadline at h
  have e := Host.Outcome.next.inj h
  subst e
  clear h
  show Walk true _ _ _
  repeat' first
    | (with_reducible exact Walk.refl)
    | (with_reducible apply Walk.step (k := State.fwEnd_keeps))
    | (show covers _ _ = true; rfl)
    | (split)

theorem execRelayDataReceived_keeps {x1 s t} (h : @execRelayDataReceived x1 s = .next t) : Keeps [.regs, .out, .tim, .upd, .win 16] s t := by
  unfold execRelayDataReceived at h
  have e := Host.Outcome.next.inj h
  subst e
  clear h
  show Walk true _ _ _
  try dsimp only
  repeat' first
    | (with_reducible exact Walk.refl)
    | (with_reducible apply State.relayTake_walk)
    | (with_reducible apply Walk.step (k := State.bump_keeps))
    | (with_reducible apply Walk.step (k := State.relayAnswer_keeps))
    | (with_reducible refine State.setUpd_keeps ?_ ?_ ?_)
    | (intro _)
    | (split)
    | (with_reducible refine Walk.update ?_ ?_ ?_ ?_ ?_ ?_ ?_ ?_ ?_ ?_ ?_ ?_ ?_ ?_ ?_ ?_ ?_ ?_ ?_ ?_ ?_ ?_ ?_ ?_ ?_ ?_ ?_ rfl rfl)
    | (exact .inl rfl)
    | (exact .inr rfl)
    | (show covers _ _ = true; rfl)
    | (show may _ _ = true; rfl)
    | (show Upd.flash _ = _; rfl)

theorem State.endStaging_keeps {x1 s} : Keeps [.cmd, .bil, .upd] s (@State.endStaging x1 s) := by
  unfold State.endStaging
  show Walk true _ _ _
  repeat' first
    | (with_reducible exact Walk.refl)
    | (with_reducible refine State.setUpd_keeps ?_ ?_ ?_)
    | (with_reducible apply Walk.step (k := State.replyWith_keeps))
    | (show covers _ _ = true; rfl)
    | (show may _ _ = true; rfl)
    | (exact (fun _ => rfl))
    | (split)

theorem State.downloadLook_keeps {s} : Keeps [.cmd, .bil, .upd] s (@State.downloadLook s) := by
  unfold State.downloadLook
  show Walk true _ _ _
  repeat' first
    | (with_reducible exact Walk.refl)
    | (with_reducible apply Walk.step (k := State.endStaging_keeps))
    | (show covers _ _ = true; rfl)
    | (split)

theorem execFlashGranuleDone_keeps {x1 s t} (h : @execFlashGranuleDone x1 s = .next t) : Keeps [.regs, .cmd, .bil, .upd, .win 16, .flash] s t := by
  unfold execFlashGranuleDone at h
  have e := Host.Outcome.next.inj h
  subst e
  clear h
  show Walk true _ _ _
  try dsimp only
  repeat' first
    | (with_reducible exact Walk.refl)
    | (with_reducible apply Walk.step (k := State.flashRetry_keeps))
    | (with_reducible apply Walk.step (k := State.endStaging_keeps))
    | (with_reducible refine State.setUpd_keeps ?_ ?_ ?_)
    | (with_reducible apply Walk.step (k := State.downloadLook_keeps))
    | (with_reducible apply Walk.step (k := State.stageGranule_keeps))
    | (show covers _ _ = true; rfl)
    | (show may _ _ = true; rfl)
    | (exact (fun _ => rfl))
    | (split)

theorem State.loadIsland_keeps {s} : Keeps [.regs, .evr, .met, .win 21] s (@State.loadIsland s) := by
  unfold State.loadIsland
  show Walk true _ _ _
  repeat' first
    | (with_reducible exact Walk.refl)
    | (with_reducible apply Walk.step (k := State.sealEvent_keeps))
    | (with_reducible apply Walk.step (k := State.setMet_keeps))
    | (show covers _ _ = true; rfl)

theorem State.relayFail_keeps {x1 x2 s} : Keeps [.regs, .out, .hbr, .upd, .win 1] s (@State.relayFail x1 x2 s) := by
  unfold State.relayFail
  show Walk true _ _ _
  repeat' first
    | (with_reducible exact Walk.refl)
    | (with_reducible apply Walk.step (k := State.updNotice_keeps))
    | (with_reducible apply Walk.step (k := State.modRelay_keeps))
    | (show covers _ _ = true; rfl)

theorem execRelayResultReceived_keeps {x1 s t} (h : @execRelayResultReceived x1 s = .next t) : Keeps [.regs, .out, .hbr, .upd, .win 1, .win 16] s t := by
  unfold execRelayResultReceived at h
  have e := Host.Outcome.next.inj h
  subst e
  clear h
  show Walk true _ _ _
  try dsimp only
  repeat' first
    | (with_reducible exact Walk.refl)
    | (with_reducible apply State.relayTake_walk)
    | (with_reducible apply State.fromSuccessor_walk)
    | (with_reducible apply Walk.step (k := State.updNotice_keeps))
    | (with_reducible apply Walk.step (k := State.modRelay_keeps))
    | (with_reducible apply Walk.step (k := State.relayFail_keeps))
    | (intro _)
    | (show covers _ _ = true; rfl)
    | (split)

theorem execUpdStatus_keeps {x1 x2 s t} (h : @execUpdStatus x1 x2 s = .next t) : Keeps [.out, .cmd, .hbr, .bil] s t := by
  unfold execUpdStatus at h
  have e := Host.Outcome.next.inj h
  subst e
  clear h
  show Walk true _ _ _
  repeat' first
    | (with_reducible exact Walk.refl)
    | (with_reducible apply Walk.step (k := State.reply_keeps))
    | (with_reducible apply Walk.step (k := State.replyWith_keeps))
    | (with_reducible apply Walk.step (k := State.writeData_keeps))
    | (show covers _ _ = true; rfl)
    | (split)

theorem execUpdCampaignStart_keeps {x1 x2 s t} (h : @execUpdCampaignStart x1 x2 s = .next t) : Keeps [.regs, .out, .cmd, .hbr, .evr, .tim, .kvt, .ing, .plc, .msh, .bil, .par, .upd, .win 1, .win 4, .win 7, .win 14, .win 16, .win 18, .win 21] s t := by
  unfold execUpdCampaignStart at h
  have e := Host.Outcome.next.inj h
  subst e
  clear h
  show Walk true _ _ _
  try dsimp only
  repeat' first
    | (with_reducible exact Walk.refl)
    | (with_reducible apply Walk.step (k := State.fwOpen_keeps))
    | (with_reducible apply Walk.step (k := State.reply_keeps))
    | (with_reducible apply Walk.step (k := State.replyQueued_keeps))
    | (with_reducible apply Walk.ite)
    | (split)
    | (with_reducible refine Walk.update ?_ ?_ ?_ ?_ ?_ ?_ ?_ ?_ ?_ ?_ ?_ ?_ ?_ ?_ ?_ ?_ ?_ ?_ ?_ ?_ ?_ ?_ ?_ ?_ ?_ ?_ ?_ rfl rfl)
    | (exact .inl rfl)
    | (exact .inr rfl)
    | (with_reducible refine State.setUpd_keeps ?_ ?_ ?_)
    | (show may _ _ = true; rfl)
    | (exact (fun _ => rfl))
    | (show covers _ _ = true; rfl)

theorem execRelayProgressTimeout_keeps {x1 s t} (h : @execRelayProgressTimeout x1 s = .next t) : Keeps [.regs, .out, .hbr, .tim, .upd, .win 1, .win 16] s t := by
  unfold execRelayProgressTimeout at h
  have e := Host.Outcome.next.inj h
  subst e
  clear h
  show Walk true _ _ _
  try dsimp only
  repeat' first
    | (with_reducible exact Walk.refl)
    | (with_reducible apply Walk.step (k := State.relayFail_keeps))
    | (with_reducible apply Walk.step (k := State.modRelay_keeps))
    | (with_reducible apply Walk.step (k := State.relayTo_keeps))
    | (with_reducible apply Walk.step (k := State.relaySendOn_keeps))
    | (with_reducible refine Walk.update ?_ ?_ ?_ ?_ ?_ ?_ ?_ ?_ ?_ ?_ ?_ ?_ ?_ ?_ ?_ ?_ ?_ ?_ ?_ ?_ ?_ ?_ ?_ ?_ ?_ ?_ ?_ rfl rfl)
    | (exact .inl rfl)
    | (exact .inr rfl)
    | (show covers _ _ = true; rfl)
    | (split)

theorem execUpdCampaignReportQuery_keeps {x1 s t} (h : @execUpdCampaignReportQuery x1 s = .next t) : Keeps [.cmd, .plc, .msh, .bil, .upd] s t := by
  unfold execUpdCampaignReportQuery at h
  have e := Host.Outcome.next.inj h
  subst e
  clear h
  show Walk true _ _ _
  repeat' first
    | (with_reducible exact Walk.refl)
    | (with_reducible apply Walk.step (k := State.fwQuery_keeps))
    | (show covers _ _ = true; rfl)
    | (split)

theorem execUpdDownloadRelay_keeps {x1 x2 x3 s t} (h : @execUpdDownloadRelay x1 x2 x3 s = .next t) : Keeps [.cmd, .bil, .upd, .flash] s t := by
  unfold execUpdDownloadRelay at h
  have e := Host.Outcome.next.inj h
  subst e
  clear h
  show Walk true _ _ _
  try dsimp only
  repeat' first
    | (with_reducible exact Walk.refl)
    | (with_reducible apply Walk.step (k := State.reply_keeps))
    | (with_reducible apply Walk.step (k := State.replyQueued_keeps))
    | (with_reducible apply Walk.step (k := State.openStage_keeps))
    | (with_reducible refine State.setUpd_keeps ?_ ?_ ?_)
    | (show covers _ _ = true; rfl)
    | (show may _ _ = true; rfl)
    | (exact (fun _ => rfl))
    | (split)

theorem execConfirmWindowWarning_keeps {s t} (h : @execConfirmWindowWarning s = .next t) : Keeps [.regs, .out, .hbr, .upd, .win 1] s t := by
  unfold execConfirmWindowWarning at h
  have e := Host.Outcome.next.inj h
  subst e
  clear h
  show Walk true _ _ _
  repeat' first
    | (with_reducible exact Walk.refl)
    | (with_reducible apply Walk.step (k := State.updNotice_keeps))
    | (with_reducible refine State.setUpd_keeps ?_ ?_ ?_)
    | (show covers _ _ = true; rfl)
    | (show may _ _ = true; rfl)
    | (exact (fun _ => rfl))
    | (split)

theorem execRelayDoneReceived_keeps {x1 s t} (h : @execRelayDoneReceived x1 s = .next t) : Keeps [.regs, .out, .cmd, .hbr, .tim, .bil, .upd, .win 1, .win 16] s t := by
  unfold execRelayDoneReceived at h
  have e := Host.Outcome.next.inj h
  subst e
  clear h
  show Walk true _ _ _
  repeat' first
    | (with_reducible exact Walk.refl)
    | (with_reducible apply State.relayTake_walk)
    | (with_reducible apply Walk.step (k := State.bump_keeps))
    | (with_reducible apply Walk.step (k := State.endStaging_keeps))
    | (with_reducible apply Walk.step (k := State.relayAnswer_keeps))
    | (with_reducible apply Walk.step (k := State.updNotice_keeps))
    | (intro _)
    | (show covers _ _ = true; rfl)
    | (split)

theorem execRelayOfferReceived_keeps {x1 s t} (h : @execRelayOfferReceived x1 s = .next t) : Keeps [.regs, .out, .tim, .upd, .win 16] s t := by
  unfold execRelayOfferReceived at h
  have e := Host.Outcome.next.inj h
  subst e
  clear h
  show Walk true _ _ _
  try dsimp only
  repeat' first
    | (with_reducible exact Walk.refl)
    | (with_reducible apply State.relayTake_walk)
    | (with_reducible apply Walk.step (k := State.relayAnswer_keeps))
    | (with_reducible apply Walk.step (k := State.bump_keeps))
    | (with_reducible refine State.setUpd_keeps ?_ ?_ ?_)
    | (intro _)
    | (with_reducible refine Walk.update ?_ ?_ ?_ ?_ ?_ ?_ ?_ ?_ ?_ ?_ ?_ ?_ ?_ ?_ ?_ ?_ ?_ ?_ ?_ ?_ ?_ ?_ ?_ ?_ ?_ ?_ ?_ rfl rfl)
    | (exact .inl rfl)
    | (exact .inr rfl)
    | (show covers _ _ = true; rfl)
    | (show may _ _ = true; rfl)
    | (show Upd.flash _ = _; rfl)
    | (split)

theorem execUpdDiscardStaging_keeps {x1 s t} (h : @execUpdDiscardStaging x1 s = .next t) : Keeps [.cmd, .bil, .upd, .flash] s t := by
  unfold execUpdDiscardStaging at h
  have e := Host.Outcome.next.inj h
  subst e
  clear h
  show Walk true _ _ _
  repeat' first
    | (with_reducible exact Walk.refl)
    | (with_reducible apply Walk.step (k := State.reply_keeps))
    | (with_reducible apply Walk.step (k := State.replyWith_keeps))
    | (with_reducible apply Walk.step (k := State.openStage_keeps))
    | (with_reducible apply Walk.step (k := State.replyQueued_keeps))
    | (show covers _ _ = true; rfl)
    | (split)

theorem execRelayRefuseReceived_keeps {x1 s t} (h : @execRelayRefuseReceived x1 s = .next t) : Keeps [.regs, .upd, .win 16] s t := by
  unfold execRelayRefuseReceived at h
  have e := Host.Outcome.next.inj h
  subst e
  clear h
  show Walk true _ _ _
  repeat' first
    | (with_reducible exact Walk.refl)
    | (with_reducible apply State.relayTake_walk)
    | (with_reducible apply State.fromSuccessor_walk)
    | (with_reducible apply Walk.step (k := State.modRelay_keeps))
    | (intro _)
    | (show covers _ _ = true; rfl)

theorem execUpdCampaignLoad_keeps {x1 x2 x3 x4 s t} (h : @execUpdCampaignLoad x1 x2 x3 x4 s = .next t) : Keeps [.cmd, .bil, .upd] s t := by
  unfold execUpdCampaignLoad at h
  have e := Host.Outcome.next.inj h
  subst e
  clear h
  show Walk true _ _ _
  try dsimp only
  repeat' first
    | (with_reducible exact Walk.refl)
    | (with_reducible apply Walk.step (k := State.reply_keeps))
    | (with_reducible apply Walk.ite)
    | (with_reducible refine Walk.update ?_ ?_ ?_ ?_ ?_ ?_ ?_ ?_ ?_ ?_ ?_ ?_ ?_ ?_ ?_ ?_ ?_ ?_ ?_ ?_ ?_ ?_ ?_ ?_ ?_ ?_ ?_ rfl rfl)
    | (exact .inl rfl)
    | (exact .inr rfl)
    | (show covers _ _ = true; rfl)
    | (with_reducible refine State.setUpd_keeps ?_ ?_ ?_)
    | (show may _ _ = true; rfl)
    | (exact (fun _ => rfl))
    | (split)

theorem State.relayOffer_keeps {s} : Keeps [.regs, .out, .tim, .upd, .win 16] s (@State.relayOffer s) := by
  unfold State.relayOffer
  show Walk true _ _ _
  repeat' first
    | (with_reducible exact Walk.refl)
    | (with_reducible apply Walk.step (k := State.relayTo_keeps))
    | (with_reducible apply Walk.step (k := State.modRelay_keeps))
    | (with_reducible apply Walk.foldl)
    | (intro _)
    | (show covers _ _ = true; rfl)
    | (split)

theorem State.writeSlot_keeps {x1 s} : Keeps [.upd, .flash] s (@State.writeSlot x1 s) := by
  unfold State.writeSlot
  exact Walk.setUpdFlash (b := true) (Keeps.step Keeps.refl State.commitBoot_keeps (by rfl)) (by rfl) (by rfl) (fun x h => by
    dsimp only
    exact Memory.wf_program (Memory.wf_erase h))

theorem execUpdVerify_keeps {x1 x2 x3 x4 x5 s t} (h : @execUpdVerify x1 x2 x3 x4 x5 s = .next t) : Keeps [.regs, .out, .cmd, .tim, .bil, .upd, .win 16, .flash] s t := by
  unfold execUpdVerify at h
  have e := Host.Outcome.next.inj h
  subst e
  clear h
  show Walk true _ _ _
  try dsimp only
  repeat' first
    | (with_reducible exact Walk.refl)
    | (with_reducible apply Walk.step (k := State.reply_keeps))
    | (with_reducible apply Walk.step (k := State.replyQueued_keeps))
    | (with_reducible refine State.setUpd_keeps ?_ ?_ ?_)
    | (with_reducible apply Walk.step (k := State.relayOffer_keeps))
    | (with_reducible apply Walk.step (k := State.replyWith_keeps))
    | (with_reducible apply Walk.step (k := State.flashRetry_keeps))
    | (with_reducible apply Walk.step (k := State.writeSlot_keeps))
    | (with_reducible apply Walk.step (k := State.commitBoot_keeps))
    | (with_reducible refine Walk.update ?_ ?_ ?_ ?_ ?_ ?_ ?_ ?_ ?_ ?_ ?_ ?_ ?_ ?_ ?_ ?_ ?_ ?_ ?_ ?_ ?_ ?_ ?_ ?_ ?_ ?_ ?_ rfl rfl)
    | (exact .inl rfl)
    | (exact .inr rfl)
    | (show covers _ _ = true; rfl)
    | (show may _ _ = true; rfl)
    | (exact (fun _ => rfl))
    | (split)

theorem execUpdDownloadHost_keeps {x1 x2 x3 x4 s t} (h : @execUpdDownloadHost x1 x2 x3 x4 s = .next t) : Keeps [.cmd, .bil, .upd, .flash] s t := by
  unfold execUpdDownloadHost at h
  have e := Host.Outcome.next.inj h
  subst e
  clear h
  show Walk true _ _ _
  try dsimp only
  repeat' first
    | (with_reducible exact Walk.refl)
    | (with_reducible apply Walk.step (k := State.downloadLook_keeps))
    | (with_reducible apply Walk.step (k := State.openStage_keeps))
    | (with_reducible apply Walk.step (k := State.reply_keeps))
    | (with_reducible apply Walk.step (k := State.replyQueued_keeps))
    | (with_reducible apply Walk.ite)
    | (with_reducible refine Walk.update ?_ ?_ ?_ ?_ ?_ ?_ ?_ ?_ ?_ ?_ ?_ ?_ ?_ ?_ ?_ ?_ ?_ ?_ ?_ ?_ ?_ ?_ ?_ ?_ ?_ ?_ ?_ rfl rfl)
    | (exact .inl rfl)
    | (exact .inr rfl)
    | (show covers _ _ = true; rfl)
    | (with_reducible refine State.setUpd_keeps ?_ ?_ ?_)
    | (show may _ _ = true; rfl)
    | (exact (fun _ => rfl))
    | (split)

theorem execUpdCampaignAbort_keeps {x1 x2 s t} (h : @execUpdCampaignAbort x1 x2 s = .next t) : Keeps [.cmd, .plc, .msh, .bil, .upd] s t := by
  unfold execUpdCampaignAbort at h
  have e := Host.Outcome.next.inj h
  subst e
  clear h
  show Walk true _ _ _
  repeat' first
    | (with_reducible exact Walk.refl)
    | (with_reducible apply Walk.step (k := State.reply_keeps))
    | (with_reducible refine State.setUpd_keeps ?_ ?_ ?_)
    | (with_reducible apply Walk.step (k := State.fwEnd_keeps))
    | (show covers _ _ = true; rfl)
    | (show may _ _ = true; rfl)
    | (exact (fun _ => rfl))
    | (split)

theorem execConfirmWindowExpiry_keeps {x1 s t} (h : @execConfirmWindowExpiry x1 s = .next t) : Keeps [.regs, .out, .dev, .seam, .cmd, .hbr, .fab, .vin, .pwr, .aon, .evr, .tim, .kvt, .ing, .plc, .rfx, .fse, .msh, .cod, .arc, .los, .bil, .par, .upd, .svc, .wins] s t := by
  unfold execConfirmWindowExpiry at h
  have e := Host.Outcome.next.inj h
  subst e
  clear h
  show Walk true _ _ _
  repeat' first
    | (with_reducible exact Walk.refl)
    | (with_reducible apply Walk.step (k := State.noonRestart_keeps))
    | (show covers _ _ = true; rfl)
    | (split)

theorem execUpdRollback_keeps {x1 x2 x3 x4 s t} (h : @execUpdRollback x1 x2 x3 x4 s = .next t) : Keeps [.regs, .out, .dev, .seam, .cmd, .hbr, .fab, .vin, .pwr, .aon, .evr, .tim, .kvt, .ing, .plc, .rfx, .fse, .msh, .cod, .arc, .los, .bil, .par, .upd, .svc, .wins, .flash] s t := by
  unfold execUpdRollback at h
  have e := Host.Outcome.next.inj h
  subst e
  clear h
  show Walk true _ _ _
  try dsimp only
  repeat' first
    | (with_reducible exact Walk.refl)
    | (with_reducible apply Walk.step (k := State.reply_keeps))
    | (with_reducible apply Walk.step (k := State.commitBoot_keeps))
    | (with_reducible apply Walk.step (k := State.replyQueued_keeps))
    | (with_reducible apply Walk.step (k := State.noonRestart_keeps))
    | (with_reducible apply Walk.step (k := State.postNow_keeps))
    | (show covers _ _ = true; rfl)
    | (split)

theorem execUpdActivate_keeps {x1 x2 x3 x4 s t} (h : @execUpdActivate x1 x2 x3 x4 s = .next t) : Keeps [.cmd, .bil, .upd] s t := by
  unfold execUpdActivate at h
  have e := Host.Outcome.next.inj h
  subst e
  clear h
  show Walk true _ _ _
  try dsimp only
  repeat' first
    | (with_reducible exact Walk.refl)
    | (with_reducible apply Walk.step (k := State.reply_keeps))
    | (with_reducible apply Walk.step (k := State.replyQueued_keeps))
    | (with_reducible apply Walk.ite)
    | (split)
    | (with_reducible refine Walk.update ?_ ?_ ?_ ?_ ?_ ?_ ?_ ?_ ?_ ?_ ?_ ?_ ?_ ?_ ?_ ?_ ?_ ?_ ?_ ?_ ?_ ?_ ?_ ?_ ?_ ?_ ?_ rfl rfl)
    | (exact .inl rfl)
    | (exact .inr rfl)
    | (show covers _ _ = true; rfl)
    | (with_reducible refine State.setUpd_keeps ?_ ?_ ?_)
    | (show may _ _ = true; rfl)
    | (exact (fun _ => rfl))

theorem execActivationInstant_keeps {x1 x2 x3 s t} (h : @execActivationInstant x1 x2 x3 s = .next t) : Keeps [.regs, .out, .dev, .seam, .cmd, .hbr, .fab, .vin, .pwr, .aon, .evr, .tim, .kvt, .ing, .plc, .rfx, .fse, .msh, .cod, .arc, .los, .met, .bil, .par, .upd, .svc, .wins, .flash] s t := by
  unfold execActivationInstant at h
  have e := Host.Outcome.next.inj h
  subst e
  clear h
  show Walk true _ _ _
  repeat' first
    | (with_reducible exact Walk.refl)
    | (with_reducible apply Walk.step (k := State.endActivation_keeps))
    | (with_reducible apply Walk.step (k := State.loadIsland_keeps))
    | (with_reducible apply Walk.step (k := State.trialRestart_keeps))
    | (show covers _ _ = true; rfl)
    | (split)

theorem State.confirmed_keeps {x1 x2 s} : Keeps [.regs, .out, .hbr, .upd, .win 1, .flash] s (@State.confirmed x1 x2 s) := by
  unfold State.confirmed
  show Walk true _ _ _
  try dsimp only
  repeat' first
    | (with_reducible exact Walk.refl)
    | (with_reducible apply Walk.step (k := State.commitBoot_keeps))
    | (with_reducible apply Walk.step (k := State.updNotice_keeps))
    | (show covers _ _ = true; rfl)
    | (with_reducible refine State.setUpd_keeps ?_ ?_ ?_)
    | (show may _ _ = true; rfl)
    | (exact (fun _ => rfl))
    | (split)

theorem execUpdConfirm_keeps {x1 x2 s t} (h : @execUpdConfirm x1 x2 s = .next t) : Keeps [.regs, .out, .cmd, .hbr, .bil, .upd, .win 1, .flash] s t := by
  unfold execUpdConfirm at h
  have e := Host.Outcome.next.inj h
  subst e
  clear h
  show Walk true _ _ _
  try dsimp only
  repeat' first
    | (with_reducible exact Walk.refl)
    | (with_reducible apply Walk.step (k := State.confirmed_keeps))
    | (with_reducible apply Walk.step (k := State.reply_keeps))
    | (with_reducible apply Walk.step (k := State.replyWith_keeps))
    | (with_reducible apply Walk.ite)
    | (show covers _ _ = true; rfl)
    | (split)

end Sys2Proof.Machine
end

