-- ==== Sys2Proof/Laws/State.lean ====
section
/-! SUPPORT. What the elementary updates of State leave alone, and what they set: one lemma per field per update, each true by unfolding. -/
set_option Elab.async false
namespace Sys2Proof.Machine

@[simp] theorem State.setKvt_pending {x1 s} : (State.setKvt x1 s).pending = s.pending := rfl
@[simp] theorem State.setKvt_regs {x1 s} : (State.setKvt x1 s).regs = s.regs := rfl
@[simp] theorem State.setKvt_out {x1 s} : (State.setKvt x1 s).out = s.out := rfl
@[simp] theorem State.setKvt_freeCtr {x1 s} : (State.setKvt x1 s).freeCtr = s.freeCtr := rfl
@[simp] theorem State.setKvt_dev {x1 s} : (State.setKvt x1 s).dev = s.dev := rfl
@[simp] theorem State.setKvt_seam {x1 s} : (State.setKvt x1 s).seam = s.seam := rfl
@[simp] theorem State.setKvt_cmd {x1 s} : (State.setKvt x1 s).cmd = s.cmd := rfl
@[simp] theorem State.setKvt_hbr {x1 s} : (State.setKvt x1 s).hbr = s.hbr := rfl
@[simp] theorem State.setKvt_fab {x1 s} : (State.setKvt x1 s).fab = s.fab := rfl
@[simp] theorem State.setKvt_vin {x1 s} : (State.setKvt x1 s).vin = s.vin := rfl
@[simp] theorem State.setKvt_pwr {x1 s} : (State.setKvt x1 s).pwr = s.pwr := rfl
@[simp] theorem State.setKvt_aon {x1 s} : (State.setKvt x1 s).aon = s.aon := rfl
@[simp] theorem State.setKvt_evr {x1 s} : (State.setKvt x1 s).evr = s.evr := rfl
@[simp] theorem State.setKvt_tim {x1 s} : (State.setKvt x1 s).tim = s.tim := rfl
@[simp] theorem State.setKvt_ing {x1 s} : (State.setKvt x1 s).ing = s.ing := rfl
@[simp] theorem State.setKvt_plc {x1 s} : (State.setKvt x1 s).plc = s.plc := rfl
@[simp] theorem State.setKvt_rfx {x1 s} : (State.setKvt x1 s).rfx = s.rfx := rfl
@[simp] theorem State.setKvt_fse {x1 s} : (State.setKvt x1 s).fse = s.fse := rfl
@[simp] theorem State.setKvt_msh {x1 s} : (State.setKvt x1 s).msh = s.msh := rfl
@[simp] theorem State.setKvt_cod {x1 s} : (State.setKvt x1 s).cod = s.cod := rfl
@[simp] theorem State.setKvt_arc {x1 s} : (State.setKvt x1 s).arc = s.arc := rfl
@[simp] theorem State.setKvt_los {x1 s} : (State.setKvt x1 s).los = s.los := rfl
@[simp] theorem State.setKvt_met {x1 s} : (State.setKvt x1 s).met = s.met := rfl
@[simp] theorem State.setKvt_bil {x1 s} : (State.setKvt x1 s).bil = s.bil := rfl
@[simp] theorem State.setKvt_par {x1 s} : (State.setKvt x1 s).par = s.par := rfl
@[simp] theorem State.setKvt_upd {x1 s} : (State.setKvt x1 s).upd = s.upd := rfl
@[simp] theorem State.setKvt_svc {x1 s} : (State.setKvt x1 s).svc = s.svc := rfl
@[simp] theorem State.setKvt_kvt {x1 s} : (State.setKvt x1 s).kvt = x1 s.kvt := rfl

@[simp] theorem State.setDom_pending {x1 x2 s} : (State.setDom x1 x2 s).pending = s.pending := rfl
@[simp] theorem State.setDom_regs {x1 x2 s} : (State.setDom x1 x2 s).regs = s.regs := rfl
@[simp] theorem State.setDom_out {x1 x2 s} : (State.setDom x1 x2 s).out = s.out := rfl
@[simp] theorem State.setDom_freeCtr {x1 x2 s} : (State.setDom x1 x2 s).freeCtr = s.freeCtr := rfl
@[simp] theorem State.setDom_dev {x1 x2 s} : (State.setDom x1 x2 s).dev = s.dev := rfl
@[simp] theorem State.setDom_seam {x1 x2 s} : (State.setDom x1 x2 s).seam = s.seam := rfl
@[simp] theorem State.setDom_cmd {x1 x2 s} : (State.setDom x1 x2 s).cmd = s.cmd := rfl
@[simp] theorem State.setDom_hbr {x1 x2 s} : (State.setDom x1 x2 s).hbr = s.hbr := rfl
@[simp] theorem State.setDom_fab {x1 x2 s} : (State.setDom x1 x2 s).fab = s.fab := rfl
@[simp] theorem State.setDom_vin {x1 x2 s} : (State.setDom x1 x2 s).vin = s.vin := rfl
@[simp] theorem State.setDom_aon {x1 x2 s} : (State.setDom x1 x2 s).aon = s.aon := rfl
@[simp] theorem State.setDom_evr {x1 x2 s} : (State.setDom x1 x2 s).evr = s.evr := rfl
@[simp] theorem State.setDom_tim {x1 x2 s} : (State.setDom x1 x2 s).tim = s.tim := rfl
@[simp] theorem State.setDom_kvt {x1 x2 s} : (State.setDom x1 x2 s).kvt = s.kvt := rfl
@[simp] theorem State.setDom_ing {x1 x2 s} : (State.setDom x1 x2 s).ing = s.ing := rfl
@[simp] theorem State.setDom_plc {x1 x2 s} : (State.setDom x1 x2 s).plc = s.plc := rfl
@[simp] theorem State.setDom_rfx {x1 x2 s} : (State.setDom x1 x2 s).rfx = s.rfx := rfl
@[simp] theorem State.setDom_fse {x1 x2 s} : (State.setDom x1 x2 s).fse = s.fse := rfl
@[simp] theorem State.setDom_msh {x1 x2 s} : (State.setDom x1 x2 s).msh = s.msh := rfl
@[simp] theorem State.setDom_cod {x1 x2 s} : (State.setDom x1 x2 s).cod = s.cod := rfl
@[simp] theorem State.setDom_arc {x1 x2 s} : (State.setDom x1 x2 s).arc = s.arc := rfl
@[simp] theorem State.setDom_los {x1 x2 s} : (State.setDom x1 x2 s).los = s.los := rfl
@[simp] theorem State.setDom_met {x1 x2 s} : (State.setDom x1 x2 s).met = s.met := rfl
@[simp] theorem State.setDom_bil {x1 x2 s} : (State.setDom x1 x2 s).bil = s.bil := rfl
@[simp] theorem State.setDom_par {x1 x2 s} : (State.setDom x1 x2 s).par = s.par := rfl
@[simp] theorem State.setDom_upd {x1 x2 s} : (State.setDom x1 x2 s).upd = s.upd := rfl
@[simp] theorem State.setDom_svc {x1 x2 s} : (State.setDom x1 x2 s).svc = s.svc := rfl

@[simp] theorem State.addReply_pending {x1 s} : (State.addReply x1 s).pending = s.pending := rfl
@[simp] theorem State.addReply_regs {x1 s} : (State.addReply x1 s).regs = s.regs := rfl
@[simp] theorem State.addReply_out {x1 s} : (State.addReply x1 s).out = s.out := rfl
@[simp] theorem State.addReply_freeCtr {x1 s} : (State.addReply x1 s).freeCtr = s.freeCtr := rfl
@[simp] theorem State.addReply_dev {x1 s} : (State.addReply x1 s).dev = s.dev := rfl
@[simp] theorem State.addReply_seam {x1 s} : (State.addReply x1 s).seam = s.seam := rfl
@[simp] theorem State.addReply_hbr {x1 s} : (State.addReply x1 s).hbr = s.hbr := rfl
@[simp] theorem State.addReply_fab {x1 s} : (State.addReply x1 s).fab = s.fab := rfl
@[simp] theorem State.addReply_vin {x1 s} : (State.addReply x1 s).vin = s.vin := rfl
@[simp] theorem State.addReply_pwr {x1 s} : (State.addReply x1 s).pwr = s.pwr := rfl
@[simp] theorem State.addReply_aon {x1 s} : (State.addReply x1 s).aon = s.aon := rfl
@[simp] theorem State.addReply_evr {x1 s} : (State.addReply x1 s).evr = s.evr := rfl
@[simp] theorem State.addReply_tim {x1 s} : (State.addReply x1 s).tim = s.tim := rfl
@[simp] theorem State.addReply_kvt {x1 s} : (State.addReply x1 s).kvt = s.kvt := rfl
@[simp] theorem State.addReply_ing {x1 s} : (State.addReply x1 s).ing = s.ing := rfl
@[simp] theorem State.addReply_plc {x1 s} : (State.addReply x1 s).plc = s.plc := rfl
@[simp] theorem State.addReply_rfx {x1 s} : (State.addReply x1 s).rfx = s.rfx := rfl
@[simp] theorem State.addReply_fse {x1 s} : (State.addReply x1 s).fse = s.fse := rfl
@[simp] theorem State.addReply_msh {x1 s} : (State.addReply x1 s).msh = s.msh := rfl
@[simp] theorem State.addReply_cod {x1 s} : (State.addReply x1 s).cod = s.cod := rfl
@[simp] theorem State.addReply_arc {x1 s} : (State.addReply x1 s).arc = s.arc := rfl
@[simp] theorem State.addReply_los {x1 s} : (State.addReply x1 s).los = s.los := rfl
@[simp] theorem State.addReply_met {x1 s} : (State.addReply x1 s).met = s.met := rfl
@[simp] theorem State.addReply_bil {x1 s} : (State.addReply x1 s).bil = s.bil := rfl
@[simp] theorem State.addReply_par {x1 s} : (State.addReply x1 s).par = s.par := rfl
@[simp] theorem State.addReply_upd {x1 s} : (State.addReply x1 s).upd = s.upd := rfl
@[simp] theorem State.addReply_svc {x1 s} : (State.addReply x1 s).svc = s.svc := rfl

@[simp] theorem State.setRing_pending {x1 x2 s} : (State.setRing x1 x2 s).pending = s.pending := rfl
@[simp] theorem State.setRing_regs {x1 x2 s} : (State.setRing x1 x2 s).regs = s.regs := rfl
@[simp] theorem State.setRing_out {x1 x2 s} : (State.setRing x1 x2 s).out = s.out := rfl
@[simp] theorem State.setRing_freeCtr {x1 x2 s} : (State.setRing x1 x2 s).freeCtr = s.freeCtr := rfl
@[simp] theorem State.setRing_dev {x1 x2 s} : (State.setRing x1 x2 s).dev = s.dev := rfl
@[simp] theorem State.setRing_seam {x1 x2 s} : (State.setRing x1 x2 s).seam = s.seam := rfl
@[simp] theorem State.setRing_cmd {x1 x2 s} : (State.setRing x1 x2 s).cmd = s.cmd := rfl
@[simp] theorem State.setRing_fab {x1 x2 s} : (State.setRing x1 x2 s).fab = s.fab := rfl
@[simp] theorem State.setRing_vin {x1 x2 s} : (State.setRing x1 x2 s).vin = s.vin := rfl
@[simp] theorem State.setRing_pwr {x1 x2 s} : (State.setRing x1 x2 s).pwr = s.pwr := rfl
@[simp] theorem State.setRing_aon {x1 x2 s} : (State.setRing x1 x2 s).aon = s.aon := rfl
@[simp] theorem State.setRing_evr {x1 x2 s} : (State.setRing x1 x2 s).evr = s.evr := rfl
@[simp] theorem State.setRing_tim {x1 x2 s} : (State.setRing x1 x2 s).tim = s.tim := rfl
@[simp] theorem State.setRing_kvt {x1 x2 s} : (State.setRing x1 x2 s).kvt = s.kvt := rfl
@[simp] theorem State.setRing_ing {x1 x2 s} : (State.setRing x1 x2 s).ing = s.ing := rfl
@[simp] theorem State.setRing_plc {x1 x2 s} : (State.setRing x1 x2 s).plc = s.plc := rfl
@[simp] theorem State.setRing_rfx {x1 x2 s} : (State.setRing x1 x2 s).rfx = s.rfx := rfl
@[simp] theorem State.setRing_fse {x1 x2 s} : (State.setRing x1 x2 s).fse = s.fse := rfl
@[simp] theorem State.setRing_msh {x1 x2 s} : (State.setRing x1 x2 s).msh = s.msh := rfl
@[simp] theorem State.setRing_cod {x1 x2 s} : (State.setRing x1 x2 s).cod = s.cod := rfl
@[simp] theorem State.setRing_arc {x1 x2 s} : (State.setRing x1 x2 s).arc = s.arc := rfl
@[simp] theorem State.setRing_los {x1 x2 s} : (State.setRing x1 x2 s).los = s.los := rfl
@[simp] theorem State.setRing_met {x1 x2 s} : (State.setRing x1 x2 s).met = s.met := rfl
@[simp] theorem State.setRing_bil {x1 x2 s} : (State.setRing x1 x2 s).bil = s.bil := rfl
@[simp] theorem State.setRing_par {x1 x2 s} : (State.setRing x1 x2 s).par = s.par := rfl
@[simp] theorem State.setRing_upd {x1 x2 s} : (State.setRing x1 x2 s).upd = s.upd := rfl
@[simp] theorem State.setRing_svc {x1 x2 s} : (State.setRing x1 x2 s).svc = s.svc := rfl

@[simp] theorem State.emit_pending {x1 s} : (State.emit x1 s).pending = s.pending := rfl
@[simp] theorem State.emit_regs {x1 s} : (State.emit x1 s).regs = s.regs := rfl
@[simp] theorem State.emit_freeCtr {x1 s} : (State.emit x1 s).freeCtr = s.freeCtr := rfl
@[simp] theorem State.emit_dev {x1 s} : (State.emit x1 s).dev = s.dev := rfl
@[simp] theorem State.emit_seam {x1 s} : (State.emit x1 s).seam = s.seam := rfl
@[simp] theorem State.emit_cmd {x1 s} : (State.emit x1 s).cmd = s.cmd := rfl
@[simp] theorem State.emit_hbr {x1 s} : (State.emit x1 s).hbr = s.hbr := rfl
@[simp] theorem State.emit_fab {x1 s} : (State.emit x1 s).fab = s.fab := rfl
@[simp] theorem State.emit_vin {x1 s} : (State.emit x1 s).vin = s.vin := rfl
@[simp] theorem State.emit_pwr {x1 s} : (State.emit x1 s).pwr = s.pwr := rfl
@[simp] theorem State.emit_aon {x1 s} : (State.emit x1 s).aon = s.aon := rfl
@[simp] theorem State.emit_evr {x1 s} : (State.emit x1 s).evr = s.evr := rfl
@[simp] theorem State.emit_tim {x1 s} : (State.emit x1 s).tim = s.tim := rfl
@[simp] theorem State.emit_kvt {x1 s} : (State.emit x1 s).kvt = s.kvt := rfl
@[simp] theorem State.emit_ing {x1 s} : (State.emit x1 s).ing = s.ing := rfl
@[simp] theorem State.emit_plc {x1 s} : (State.emit x1 s).plc = s.plc := rfl
@[simp] theorem State.emit_rfx {x1 s} : (State.emit x1 s).rfx = s.rfx := rfl
@[simp] theorem State.emit_fse {x1 s} : (State.emit x1 s).fse = s.fse := rfl
@[simp] theorem State.emit_msh {x1 s} : (State.emit x1 s).msh = s.msh := rfl
@[simp] theorem State.emit_cod {x1 s} : (State.emit x1 s).cod = s.cod := rfl
@[simp] theorem State.emit_arc {x1 s} : (State.emit x1 s).arc = s.arc := rfl
@[simp] theorem State.emit_los {x1 s} : (State.emit x1 s).los = s.los := rfl
@[simp] theorem State.emit_met {x1 s} : (State.emit x1 s).met = s.met := rfl
@[simp] theorem State.emit_bil {x1 s} : (State.emit x1 s).bil = s.bil := rfl
@[simp] theorem State.emit_par {x1 s} : (State.emit x1 s).par = s.par := rfl
@[simp] theorem State.emit_upd {x1 s} : (State.emit x1 s).upd = s.upd := rfl
@[simp] theorem State.emit_svc {x1 s} : (State.emit x1 s).svc = s.svc := rfl

@[simp] theorem State.setInst_pending {x1 x2 s} : (State.setInst x1 x2 s).pending = s.pending := rfl
@[simp] theorem State.setInst_regs {x1 x2 s} : (State.setInst x1 x2 s).regs = s.regs := rfl
@[simp] theorem State.setInst_out {x1 x2 s} : (State.setInst x1 x2 s).out = s.out := rfl
@[simp] theorem State.setInst_freeCtr {x1 x2 s} : (State.setInst x1 x2 s).freeCtr = s.freeCtr := rfl
@[simp] theorem State.setInst_dev {x1 x2 s} : (State.setInst x1 x2 s).dev = s.dev := rfl
@[simp] theorem State.setInst_seam {x1 x2 s} : (State.setInst x1 x2 s).seam = s.seam := rfl
@[simp] theorem State.setInst_cmd {x1 x2 s} : (State.setInst x1 x2 s).cmd = s.cmd := rfl
@[simp] theorem State.setInst_hbr {x1 x2 s} : (State.setInst x1 x2 s).hbr = s.hbr := rfl
@[simp] theorem State.setInst_fab {x1 x2 s} : (State.setInst x1 x2 s).fab = s.fab := rfl
@[simp] theorem State.setInst_pwr {x1 x2 s} : (State.setInst x1 x2 s).pwr = s.pwr := rfl
@[simp] theorem State.setInst_aon {x1 x2 s} : (State.setInst x1 x2 s).aon = s.aon := rfl
@[simp] theorem State.setInst_evr {x1 x2 s} : (State.setInst x1 x2 s).evr = s.evr := rfl
@[simp] theorem State.setInst_tim {x1 x2 s} : (State.setInst x1 x2 s).tim = s.tim := rfl
@[simp] theorem State.setInst_kvt {x1 x2 s} : (State.setInst x1 x2 s).kvt = s.kvt := rfl
@[simp] theorem State.setInst_ing {x1 x2 s} : (State.setInst x1 x2 s).ing = s.ing := rfl
@[simp] theorem State.setInst_plc {x1 x2 s} : (State.setInst x1 x2 s).plc = s.plc := rfl
@[simp] theorem State.setInst_rfx {x1 x2 s} : (State.setInst x1 x2 s).rfx = s.rfx := rfl
@[simp] theorem State.setInst_fse {x1 x2 s} : (State.setInst x1 x2 s).fse = s.fse := rfl
@[simp] theorem State.setInst_msh {x1 x2 s} : (State.setInst x1 x2 s).msh = s.msh := rfl
@[simp] theorem State.setInst_cod {x1 x2 s} : (State.setInst x1 x2 s).cod = s.cod := rfl
@[simp] theorem State.setInst_arc {x1 x2 s} : (State.setInst x1 x2 s).arc = s.arc := rfl
@[simp] theorem State.setInst_los {x1 x2 s} : (State.setInst x1 x2 s).los = s.los := rfl
@[simp] theorem State.setInst_met {x1 x2 s} : (State.setInst x1 x2 s).met = s.met := rfl
@[simp] theorem State.setInst_bil {x1 x2 s} : (State.setInst x1 x2 s).bil = s.bil := rfl
@[simp] theorem State.setInst_par {x1 x2 s} : (State.setInst x1 x2 s).par = s.par := rfl
@[simp] theorem State.setInst_upd {x1 x2 s} : (State.setInst x1 x2 s).upd = s.upd := rfl
@[simp] theorem State.setInst_svc {x1 x2 s} : (State.setInst x1 x2 s).svc = s.svc := rfl

@[simp] theorem State.offer_pending {x1 s} : (State.offer x1 s).pending = s.pending := rfl
@[simp] theorem State.offer_regs {x1 s} : (State.offer x1 s).regs = s.regs := rfl
@[simp] theorem State.offer_out {x1 s} : (State.offer x1 s).out = s.out := rfl
@[simp] theorem State.offer_freeCtr {x1 s} : (State.offer x1 s).freeCtr = s.freeCtr := rfl
@[simp] theorem State.offer_dev {x1 s} : (State.offer x1 s).dev = s.dev := rfl
@[simp] theorem State.offer_seam {x1 s} : (State.offer x1 s).seam = s.seam := rfl
@[simp] theorem State.offer_cmd {x1 s} : (State.offer x1 s).cmd = s.cmd := rfl
@[simp] theorem State.offer_hbr {x1 s} : (State.offer x1 s).hbr = s.hbr := rfl
@[simp] theorem State.offer_fab {x1 s} : (State.offer x1 s).fab = s.fab := rfl
@[simp] theorem State.offer_vin {x1 s} : (State.offer x1 s).vin = s.vin := rfl
@[simp] theorem State.offer_pwr {x1 s} : (State.offer x1 s).pwr = s.pwr := rfl
@[simp] theorem State.offer_aon {x1 s} : (State.offer x1 s).aon = s.aon := rfl
@[simp] theorem State.offer_evr {x1 s} : (State.offer x1 s).evr = s.evr := rfl
@[simp] theorem State.offer_tim {x1 s} : (State.offer x1 s).tim = s.tim := rfl
@[simp] theorem State.offer_kvt {x1 s} : (State.offer x1 s).kvt = s.kvt := rfl
@[simp] theorem State.offer_ing {x1 s} : (State.offer x1 s).ing = s.ing := rfl
@[simp] theorem State.offer_plc {x1 s} : (State.offer x1 s).plc = s.plc := rfl
@[simp] theorem State.offer_rfx {x1 s} : (State.offer x1 s).rfx = s.rfx := rfl
@[simp] theorem State.offer_msh {x1 s} : (State.offer x1 s).msh = s.msh := rfl
@[simp] theorem State.offer_cod {x1 s} : (State.offer x1 s).cod = s.cod := rfl
@[simp] theorem State.offer_arc {x1 s} : (State.offer x1 s).arc = s.arc := rfl
@[simp] theorem State.offer_los {x1 s} : (State.offer x1 s).los = s.los := rfl
@[simp] theorem State.offer_met {x1 s} : (State.offer x1 s).met = s.met := rfl
@[simp] theorem State.offer_bil {x1 s} : (State.offer x1 s).bil = s.bil := rfl
@[simp] theorem State.offer_par {x1 s} : (State.offer x1 s).par = s.par := rfl
@[simp] theorem State.offer_upd {x1 s} : (State.offer x1 s).upd = s.upd := rfl
@[simp] theorem State.offer_svc {x1 s} : (State.offer x1 s).svc = s.svc := rfl

@[simp] theorem State.setBil_pending {x1 s} : (State.setBil x1 s).pending = s.pending := rfl
@[simp] theorem State.setBil_regs {x1 s} : (State.setBil x1 s).regs = s.regs := rfl
@[simp] theorem State.setBil_out {x1 s} : (State.setBil x1 s).out = s.out := rfl
@[simp] theorem State.setBil_freeCtr {x1 s} : (State.setBil x1 s).freeCtr = s.freeCtr := rfl
@[simp] theorem State.setBil_dev {x1 s} : (State.setBil x1 s).dev = s.dev := rfl
@[simp] theorem State.setBil_seam {x1 s} : (State.setBil x1 s).seam = s.seam := rfl
@[simp] theorem State.setBil_cmd {x1 s} : (State.setBil x1 s).cmd = s.cmd := rfl
@[simp] theorem State.setBil_hbr {x1 s} : (State.setBil x1 s).hbr = s.hbr := rfl
@[simp] theorem State.setBil_fab {x1 s} : (State.setBil x1 s).fab = s.fab := rfl
@[simp] theorem State.setBil_vin {x1 s} : (State.setBil x1 s).vin = s.vin := rfl
@[simp] theorem State.setBil_pwr {x1 s} : (State.setBil x1 s).pwr = s.pwr := rfl
@[simp] theorem State.setBil_aon {x1 s} : (State.setBil x1 s).aon = s.aon := rfl
@[simp] theorem State.setBil_evr {x1 s} : (State.setBil x1 s).evr = s.evr := rfl
@[simp] theorem State.setBil_tim {x1 s} : (State.setBil x1 s).tim = s.tim := rfl
@[simp] theorem State.setBil_kvt {x1 s} : (State.setBil x1 s).kvt = s.kvt := rfl
@[simp] theorem State.setBil_ing {x1 s} : (State.setBil x1 s).ing = s.ing := rfl
@[simp] theorem State.setBil_plc {x1 s} : (State.setBil x1 s).plc = s.plc := rfl
@[simp] theorem State.setBil_rfx {x1 s} : (State.setBil x1 s).rfx = s.rfx := rfl
@[simp] theorem State.setBil_fse {x1 s} : (State.setBil x1 s).fse = s.fse := rfl
@[simp] theorem State.setBil_msh {x1 s} : (State.setBil x1 s).msh = s.msh := rfl
@[simp] theorem State.setBil_cod {x1 s} : (State.setBil x1 s).cod = s.cod := rfl
@[simp] theorem State.setBil_arc {x1 s} : (State.setBil x1 s).arc = s.arc := rfl
@[simp] theorem State.setBil_los {x1 s} : (State.setBil x1 s).los = s.los := rfl
@[simp] theorem State.setBil_met {x1 s} : (State.setBil x1 s).met = s.met := rfl
@[simp] theorem State.setBil_par {x1 s} : (State.setBil x1 s).par = s.par := rfl
@[simp] theorem State.setBil_upd {x1 s} : (State.setBil x1 s).upd = s.upd := rfl
@[simp] theorem State.setBil_svc {x1 s} : (State.setBil x1 s).svc = s.svc := rfl
@[simp] theorem State.setBil_bil {x1 s} : (State.setBil x1 s).bil = x1 s.bil := rfl

@[simp] theorem State.setTim_pending {x1 s} : (State.setTim x1 s).pending = s.pending := rfl
@[simp] theorem State.setTim_regs {x1 s} : (State.setTim x1 s).regs = s.regs := rfl
@[simp] theorem State.setTim_out {x1 s} : (State.setTim x1 s).out = s.out := rfl
@[simp] theorem State.setTim_freeCtr {x1 s} : (State.setTim x1 s).freeCtr = s.freeCtr := rfl
@[simp] theorem State.setTim_dev {x1 s} : (State.setTim x1 s).dev = s.dev := rfl
@[simp] theorem State.setTim_seam {x1 s} : (State.setTim x1 s).seam = s.seam := rfl
@[simp] theorem State.setTim_cmd {x1 s} : (State.setTim x1 s).cmd = s.cmd := rfl
@[simp] theorem State.setTim_hbr {x1 s} : (State.setTim x1 s).hbr = s.hbr := rfl
@[simp] theorem State.setTim_fab {x1 s} : (State.setTim x1 s).fab = s.fab := rfl
@[simp] theorem State.setTim_vin {x1 s} : (State.setTim x1 s).vin = s.vin := rfl
@[simp] theorem State.setTim_pwr {x1 s} : (State.setTim x1 s).pwr = s.pwr := rfl
@[simp] theorem State.setTim_aon {x1 s} : (State.setTim x1 s).aon = s.aon := rfl
@[simp] theorem State.setTim_evr {x1 s} : (State.setTim x1 s).evr = s.evr := rfl
@[simp] theorem State.setTim_kvt {x1 s} : (State.setTim x1 s).kvt = s.kvt := rfl
@[simp] theorem State.setTim_ing {x1 s} : (State.setTim x1 s).ing = s.ing := rfl
@[simp] theorem State.setTim_plc {x1 s} : (State.setTim x1 s).plc = s.plc := rfl
@[simp] theorem State.setTim_rfx {x1 s} : (State.setTim x1 s).rfx = s.rfx := rfl
@[simp] theorem State.setTim_fse {x1 s} : (State.setTim x1 s).fse = s.fse := rfl
@[simp] theorem State.setTim_msh {x1 s} : (State.setTim x1 s).msh = s.msh := rfl
@[simp] theorem State.setTim_cod {x1 s} : (State.setTim x1 s).cod = s.cod := rfl
@[simp] theorem State.setTim_arc {x1 s} : (State.setTim x1 s).arc = s.arc := rfl
@[simp] theorem State.setTim_los {x1 s} : (State.setTim x1 s).los = s.los := rfl
@[simp] theorem State.setTim_met {x1 s} : (State.setTim x1 s).met = s.met := rfl
@[simp] theorem State.setTim_bil {x1 s} : (State.setTim x1 s).bil = s.bil := rfl
@[simp] theorem State.setTim_par {x1 s} : (State.setTim x1 s).par = s.par := rfl
@[simp] theorem State.setTim_upd {x1 s} : (State.setTim x1 s).upd = s.upd := rfl
@[simp] theorem State.setTim_svc {x1 s} : (State.setTim x1 s).svc = s.svc := rfl
@[simp] theorem State.setTim_tim {x1 s} : (State.setTim x1 s).tim = x1 s.tim := rfl

@[simp] theorem State.setArc_pending {x1 s} : (State.setArc x1 s).pending = s.pending := rfl
@[simp] theorem State.setArc_regs {x1 s} : (State.setArc x1 s).regs = s.regs := rfl
@[simp] theorem State.setArc_out {x1 s} : (State.setArc x1 s).out = s.out := rfl
@[simp] theorem State.setArc_freeCtr {x1 s} : (State.setArc x1 s).freeCtr = s.freeCtr := rfl
@[simp] theorem State.setArc_dev {x1 s} : (State.setArc x1 s).dev = s.dev := rfl
@[simp] theorem State.setArc_seam {x1 s} : (State.setArc x1 s).seam = s.seam := rfl
@[simp] theorem State.setArc_cmd {x1 s} : (State.setArc x1 s).cmd = s.cmd := rfl
@[simp] theorem State.setArc_hbr {x1 s} : (State.setArc x1 s).hbr = s.hbr := rfl
@[simp] theorem State.setArc_fab {x1 s} : (State.setArc x1 s).fab = s.fab := rfl
@[simp] theorem State.setArc_vin {x1 s} : (State.setArc x1 s).vin = s.vin := rfl
@[simp] theorem State.setArc_pwr {x1 s} : (State.setArc x1 s).pwr = s.pwr := rfl
@[simp] theorem State.setArc_aon {x1 s} : (State.setArc x1 s).aon = s.aon := rfl
@[simp] theorem State.setArc_evr {x1 s} : (State.setArc x1 s).evr = s.evr := rfl
@[simp] theorem State.setArc_tim {x1 s} : (State.setArc x1 s).tim = s.tim := rfl
@[simp] theorem State.setArc_kvt {x1 s} : (State.setArc x1 s).kvt = s.kvt := rfl
@[simp] theorem State.setArc_ing {x1 s} : (State.setArc x1 s).ing = s.ing := rfl
@[simp] theorem State.setArc_plc {x1 s} : (State.setArc x1 s).plc = s.plc := rfl
@[simp] theorem State.setArc_rfx {x1 s} : (State.setArc x1 s).rfx = s.rfx := rfl
@[simp] theorem State.setArc_fse {x1 s} : (State.setArc x1 s).fse = s.fse := rfl
@[simp] theorem State.setArc_msh {x1 s} : (State.setArc x1 s).msh = s.msh := rfl
@[simp] theorem State.setArc_cod {x1 s} : (State.setArc x1 s).cod = s.cod := rfl
@[simp] theorem State.setArc_los {x1 s} : (State.setArc x1 s).los = s.los := rfl
@[simp] theorem State.setArc_met {x1 s} : (State.setArc x1 s).met = s.met := rfl
@[simp] theorem State.setArc_bil {x1 s} : (State.setArc x1 s).bil = s.bil := rfl
@[simp] theorem State.setArc_par {x1 s} : (State.setArc x1 s).par = s.par := rfl
@[simp] theorem State.setArc_upd {x1 s} : (State.setArc x1 s).upd = s.upd := rfl
@[simp] theorem State.setArc_svc {x1 s} : (State.setArc x1 s).svc = s.svc := rfl
@[simp] theorem State.setArc_arc {x1 s} : (State.setArc x1 s).arc = x1 s.arc := rfl

@[simp] theorem State.setTarget_pending {x1 x2 s} : (State.setTarget x1 x2 s).pending = s.pending := rfl
@[simp] theorem State.setTarget_regs {x1 x2 s} : (State.setTarget x1 x2 s).regs = s.regs := rfl
@[simp] theorem State.setTarget_out {x1 x2 s} : (State.setTarget x1 x2 s).out = s.out := rfl
@[simp] theorem State.setTarget_freeCtr {x1 x2 s} : (State.setTarget x1 x2 s).freeCtr = s.freeCtr := rfl
@[simp] theorem State.setTarget_dev {x1 x2 s} : (State.setTarget x1 x2 s).dev = s.dev := rfl
@[simp] theorem State.setTarget_seam {x1 x2 s} : (State.setTarget x1 x2 s).seam = s.seam := rfl
@[simp] theorem State.setTarget_cmd {x1 x2 s} : (State.setTarget x1 x2 s).cmd = s.cmd := rfl
@[simp] theorem State.setTarget_hbr {x1 x2 s} : (State.setTarget x1 x2 s).hbr = s.hbr := rfl
@[simp] theorem State.setTarget_vin {x1 x2 s} : (State.setTarget x1 x2 s).vin = s.vin := rfl
@[simp] theorem State.setTarget_pwr {x1 x2 s} : (State.setTarget x1 x2 s).pwr = s.pwr := rfl
@[simp] theorem State.setTarget_aon {x1 x2 s} : (State.setTarget x1 x2 s).aon = s.aon := rfl
@[simp] theorem State.setTarget_evr {x1 x2 s} : (State.setTarget x1 x2 s).evr = s.evr := rfl
@[simp] theorem State.setTarget_tim {x1 x2 s} : (State.setTarget x1 x2 s).tim = s.tim := rfl
@[simp] theorem State.setTarget_kvt {x1 x2 s} : (State.setTarget x1 x2 s).kvt = s.kvt := rfl
@[simp] theorem State.setTarget_ing {x1 x2 s} : (State.setTarget x1 x2 s).ing = s.ing := rfl
@[simp] theorem State.setTarget_plc {x1 x2 s} : (State.setTarget x1 x2 s).plc = s.plc := rfl
@[simp] theorem State.setTarget_rfx {x1 x2 s} : (State.setTarget x1 x2 s).rfx = s.rfx := rfl
@[simp] theorem State.setTarget_fse {x1 x2 s} : (State.setTarget x1 x2 s).fse = s.fse := rfl
@[simp] theorem State.setTarget_msh {x1 x2 s} : (State.setTarget x1 x2 s).msh = s.msh := rfl
@[simp] theorem State.setTarget_cod {x1 x2 s} : (State.setTarget x1 x2 s).cod = s.cod := rfl
@[simp] theorem State.setTarget_arc {x1 x2 s} : (State.setTarget x1 x2 s).arc = s.arc := rfl
@[simp] theorem State.setTarget_los {x1 x2 s} : (State.setTarget x1 x2 s).los = s.los := rfl
@[simp] theorem State.setTarget_met {x1 x2 s} : (State.setTarget x1 x2 s).met = s.met := rfl
@[simp] theorem State.setTarget_bil {x1 x2 s} : (State.setTarget x1 x2 s).bil = s.bil := rfl
@[simp] theorem State.setTarget_par {x1 x2 s} : (State.setTarget x1 x2 s).par = s.par := rfl
@[simp] theorem State.setTarget_upd {x1 x2 s} : (State.setTarget x1 x2 s).upd = s.upd := rfl
@[simp] theorem State.setTarget_svc {x1 x2 s} : (State.setTarget x1 x2 s).svc = s.svc := rfl

@[simp] theorem State.addResult_pending {x1 s} : (State.addResult x1 s).pending = s.pending := rfl
@[simp] theorem State.addResult_regs {x1 s} : (State.addResult x1 s).regs = s.regs := rfl
@[simp] theorem State.addResult_out {x1 s} : (State.addResult x1 s).out = s.out := rfl
@[simp] theorem State.addResult_freeCtr {x1 s} : (State.addResult x1 s).freeCtr = s.freeCtr := rfl
@[simp] theorem State.addResult_dev {x1 s} : (State.addResult x1 s).dev = s.dev := rfl
@[simp] theorem State.addResult_seam {x1 s} : (State.addResult x1 s).seam = s.seam := rfl
@[simp] theorem State.addResult_hbr {x1 s} : (State.addResult x1 s).hbr = s.hbr := rfl
@[simp] theorem State.addResult_fab {x1 s} : (State.addResult x1 s).fab = s.fab := rfl
@[simp] theorem State.addResult_vin {x1 s} : (State.addResult x1 s).vin = s.vin := rfl
@[simp] theorem State.addResult_pwr {x1 s} : (State.addResult x1 s).pwr = s.pwr := rfl
@[simp] theorem State.addResult_aon {x1 s} : (State.addResult x1 s).aon = s.aon := rfl
@[simp] theorem State.addResult_evr {x1 s} : (State.addResult x1 s).evr = s.evr := rfl
@[simp] theorem State.addResult_tim {x1 s} : (State.addResult x1 s).tim = s.tim := rfl
@[simp] theorem State.addResult_kvt {x1 s} : (State.addResult x1 s).kvt = s.kvt := rfl
@[simp] theorem State.addResult_ing {x1 s} : (State.addResult x1 s).ing = s.ing := rfl
@[simp] theorem State.addResult_plc {x1 s} : (State.addResult x1 s).plc = s.plc := rfl
@[simp] theorem State.addResult_rfx {x1 s} : (State.addResult x1 s).rfx = s.rfx := rfl
@[simp] theorem State.addResult_fse {x1 s} : (State.addResult x1 s).fse = s.fse := rfl
@[simp] theorem State.addResult_msh {x1 s} : (State.addResult x1 s).msh = s.msh := rfl
@[simp] theorem State.addResult_cod {x1 s} : (State.addResult x1 s).cod = s.cod := rfl
@[simp] theorem State.addResult_arc {x1 s} : (State.addResult x1 s).arc = s.arc := rfl
@[simp] theorem State.addResult_los {x1 s} : (State.addResult x1 s).los = s.los := rfl
@[simp] theorem State.addResult_met {x1 s} : (State.addResult x1 s).met = s.met := rfl
@[simp] theorem State.addResult_bil {x1 s} : (State.addResult x1 s).bil = s.bil := rfl
@[simp] theorem State.addResult_par {x1 s} : (State.addResult x1 s).par = s.par := rfl
@[simp] theorem State.addResult_upd {x1 s} : (State.addResult x1 s).upd = s.upd := rfl
@[simp] theorem State.addResult_svc {x1 s} : (State.addResult x1 s).svc = s.svc := rfl

@[simp] theorem State.setMsh_pending {x1 s} : (State.setMsh x1 s).pending = s.pending := rfl
@[simp] theorem State.setMsh_regs {x1 s} : (State.setMsh x1 s).regs = s.regs := rfl
@[simp] theorem State.setMsh_out {x1 s} : (State.setMsh x1 s).out = s.out := rfl
@[simp] theorem State.setMsh_freeCtr {x1 s} : (State.setMsh x1 s).freeCtr = s.freeCtr := rfl
@[simp] theorem State.setMsh_dev {x1 s} : (State.setMsh x1 s).dev = s.dev := rfl
@[simp] theorem State.setMsh_seam {x1 s} : (State.setMsh x1 s).seam = s.seam := rfl
@[simp] theorem State.setMsh_cmd {x1 s} : (State.setMsh x1 s).cmd = s.cmd := rfl
@[simp] theorem State.setMsh_hbr {x1 s} : (State.setMsh x1 s).hbr = s.hbr := rfl
@[simp] theorem State.setMsh_fab {x1 s} : (State.setMsh x1 s).fab = s.fab := rfl
@[simp] theorem State.setMsh_vin {x1 s} : (State.setMsh x1 s).vin = s.vin := rfl
@[simp] theorem State.setMsh_pwr {x1 s} : (State.setMsh x1 s).pwr = s.pwr := rfl
@[simp] theorem State.setMsh_aon {x1 s} : (State.setMsh x1 s).aon = s.aon := rfl
@[simp] theorem State.setMsh_evr {x1 s} : (State.setMsh x1 s).evr = s.evr := rfl
@[simp] theorem State.setMsh_tim {x1 s} : (State.setMsh x1 s).tim = s.tim := rfl
@[simp] theorem State.setMsh_kvt {x1 s} : (State.setMsh x1 s).kvt = s.kvt := rfl
@[simp] theorem State.setMsh_ing {x1 s} : (State.setMsh x1 s).ing = s.ing := rfl
@[simp] theorem State.setMsh_plc {x1 s} : (State.setMsh x1 s).plc = s.plc := rfl
@[simp] theorem State.setMsh_rfx {x1 s} : (State.setMsh x1 s).rfx = s.rfx := rfl
@[simp] theorem State.setMsh_fse {x1 s} : (State.setMsh x1 s).fse = s.fse := rfl
@[simp] theorem State.setMsh_cod {x1 s} : (State.setMsh x1 s).cod = s.cod := rfl
@[simp] theorem State.setMsh_arc {x1 s} : (State.setMsh x1 s).arc = s.arc := rfl
@[simp] theorem State.setMsh_los {x1 s} : (State.setMsh x1 s).los = s.los := rfl
@[simp] theorem State.setMsh_met {x1 s} : (State.setMsh x1 s).met = s.met := rfl
@[simp] theorem State.setMsh_bil {x1 s} : (State.setMsh x1 s).bil = s.bil := rfl
@[simp] theorem State.setMsh_par {x1 s} : (State.setMsh x1 s).par = s.par := rfl
@[simp] theorem State.setMsh_upd {x1 s} : (State.setMsh x1 s).upd = s.upd := rfl
@[simp] theorem State.setMsh_svc {x1 s} : (State.setMsh x1 s).svc = s.svc := rfl
@[simp] theorem State.setMsh_msh {x1 s} : (State.setMsh x1 s).msh = x1 s.msh := rfl

@[simp] theorem State.setEvView_pending {x1 x2 s} : (State.setEvView x1 x2 s).pending = s.pending := rfl
@[simp] theorem State.setEvView_regs {x1 x2 s} : (State.setEvView x1 x2 s).regs = s.regs := rfl
@[simp] theorem State.setEvView_out {x1 x2 s} : (State.setEvView x1 x2 s).out = s.out := rfl
@[simp] theorem State.setEvView_freeCtr {x1 x2 s} : (State.setEvView x1 x2 s).freeCtr = s.freeCtr := rfl
@[simp] theorem State.setEvView_dev {x1 x2 s} : (State.setEvView x1 x2 s).dev = s.dev := rfl
@[simp] theorem State.setEvView_seam {x1 x2 s} : (State.setEvView x1 x2 s).seam = s.seam := rfl
@[simp] theorem State.setEvView_cmd {x1 x2 s} : (State.setEvView x1 x2 s).cmd = s.cmd := rfl
@[simp] theorem State.setEvView_hbr {x1 x2 s} : (State.setEvView x1 x2 s).hbr = s.hbr := rfl
@[simp] theorem State.setEvView_fab {x1 x2 s} : (State.setEvView x1 x2 s).fab = s.fab := rfl
@[simp] theorem State.setEvView_vin {x1 x2 s} : (State.setEvView x1 x2 s).vin = s.vin := rfl
@[simp] theorem State.setEvView_pwr {x1 x2 s} : (State.setEvView x1 x2 s).pwr = s.pwr := rfl
@[simp] theorem State.setEvView_aon {x1 x2 s} : (State.setEvView x1 x2 s).aon = s.aon := rfl
@[simp] theorem State.setEvView_tim {x1 x2 s} : (State.setEvView x1 x2 s).tim = s.tim := rfl
@[simp] theorem State.setEvView_kvt {x1 x2 s} : (State.setEvView x1 x2 s).kvt = s.kvt := rfl
@[simp] theorem State.setEvView_ing {x1 x2 s} : (State.setEvView x1 x2 s).ing = s.ing := rfl
@[simp] theorem State.setEvView_plc {x1 x2 s} : (State.setEvView x1 x2 s).plc = s.plc := rfl
@[simp] theorem State.setEvView_rfx {x1 x2 s} : (State.setEvView x1 x2 s).rfx = s.rfx := rfl
@[simp] theorem State.setEvView_fse {x1 x2 s} : (State.setEvView x1 x2 s).fse = s.fse := rfl
@[simp] theorem State.setEvView_msh {x1 x2 s} : (State.setEvView x1 x2 s).msh = s.msh := rfl
@[simp] theorem State.setEvView_cod {x1 x2 s} : (State.setEvView x1 x2 s).cod = s.cod := rfl
@[simp] theorem State.setEvView_arc {x1 x2 s} : (State.setEvView x1 x2 s).arc = s.arc := rfl
@[simp] theorem State.setEvView_los {x1 x2 s} : (State.setEvView x1 x2 s).los = s.los := rfl
@[simp] theorem State.setEvView_met {x1 x2 s} : (State.setEvView x1 x2 s).met = s.met := rfl
@[simp] theorem State.setEvView_bil {x1 x2 s} : (State.setEvView x1 x2 s).bil = s.bil := rfl
@[simp] theorem State.setEvView_par {x1 x2 s} : (State.setEvView x1 x2 s).par = s.par := rfl
@[simp] theorem State.setEvView_upd {x1 x2 s} : (State.setEvView x1 x2 s).upd = s.upd := rfl
@[simp] theorem State.setEvView_svc {x1 x2 s} : (State.setEvView x1 x2 s).svc = s.svc := rfl

@[simp] theorem State.setFunc_pending {x1 x2 s} : (State.setFunc x1 x2 s).pending = s.pending := rfl
@[simp] theorem State.setFunc_regs {x1 x2 s} : (State.setFunc x1 x2 s).regs = s.regs := rfl
@[simp] theorem State.setFunc_out {x1 x2 s} : (State.setFunc x1 x2 s).out = s.out := rfl
@[simp] theorem State.setFunc_freeCtr {x1 x2 s} : (State.setFunc x1 x2 s).freeCtr = s.freeCtr := rfl
@[simp] theorem State.setFunc_dev {x1 x2 s} : (State.setFunc x1 x2 s).dev = s.dev := rfl
@[simp] theorem State.setFunc_seam {x1 x2 s} : (State.setFunc x1 x2 s).seam = s.seam := rfl
@[simp] theorem State.setFunc_cmd {x1 x2 s} : (State.setFunc x1 x2 s).cmd = s.cmd := rfl
@[simp] theorem State.setFunc_fab {x1 x2 s} : (State.setFunc x1 x2 s).fab = s.fab := rfl
@[simp] theorem State.setFunc_vin {x1 x2 s} : (State.setFunc x1 x2 s).vin = s.vin := rfl
@[simp] theorem State.setFunc_pwr {x1 x2 s} : (State.setFunc x1 x2 s).pwr = s.pwr := rfl
@[simp] theorem State.setFunc_aon {x1 x2 s} : (State.setFunc x1 x2 s).aon = s.aon := rfl
@[simp] theorem State.setFunc_evr {x1 x2 s} : (State.setFunc x1 x2 s).evr = s.evr := rfl
@[simp] theorem State.setFunc_tim {x1 x2 s} : (State.setFunc x1 x2 s).tim = s.tim := rfl
@[simp] theorem State.setFunc_kvt {x1 x2 s} : (State.setFunc x1 x2 s).kvt = s.kvt := rfl
@[simp] theorem State.setFunc_ing {x1 x2 s} : (State.setFunc x1 x2 s).ing = s.ing := rfl
@[simp] theorem State.setFunc_plc {x1 x2 s} : (State.setFunc x1 x2 s).plc = s.plc := rfl
@[simp] theorem State.setFunc_rfx {x1 x2 s} : (State.setFunc x1 x2 s).rfx = s.rfx := rfl
@[simp] theorem State.setFunc_fse {x1 x2 s} : (State.setFunc x1 x2 s).fse = s.fse := rfl
@[simp] theorem State.setFunc_msh {x1 x2 s} : (State.setFunc x1 x2 s).msh = s.msh := rfl
@[simp] theorem State.setFunc_cod {x1 x2 s} : (State.setFunc x1 x2 s).cod = s.cod := rfl
@[simp] theorem State.setFunc_arc {x1 x2 s} : (State.setFunc x1 x2 s).arc = s.arc := rfl
@[simp] theorem State.setFunc_los {x1 x2 s} : (State.setFunc x1 x2 s).los = s.los := rfl
@[simp] theorem State.setFunc_met {x1 x2 s} : (State.setFunc x1 x2 s).met = s.met := rfl
@[simp] theorem State.setFunc_bil {x1 x2 s} : (State.setFunc x1 x2 s).bil = s.bil := rfl
@[simp] theorem State.setFunc_par {x1 x2 s} : (State.setFunc x1 x2 s).par = s.par := rfl
@[simp] theorem State.setFunc_upd {x1 x2 s} : (State.setFunc x1 x2 s).upd = s.upd := rfl
@[simp] theorem State.setFunc_svc {x1 x2 s} : (State.setFunc x1 x2 s).svc = s.svc := rfl

@[simp] theorem State.saveInst_pending {x1 s} : (State.saveInst x1 s).pending = s.pending := rfl
@[simp] theorem State.saveInst_regs {x1 s} : (State.saveInst x1 s).regs = s.regs := rfl
@[simp] theorem State.saveInst_out {x1 s} : (State.saveInst x1 s).out = s.out := rfl
@[simp] theorem State.saveInst_freeCtr {x1 s} : (State.saveInst x1 s).freeCtr = s.freeCtr := rfl
@[simp] theorem State.saveInst_dev {x1 s} : (State.saveInst x1 s).dev = s.dev := rfl
@[simp] theorem State.saveInst_seam {x1 s} : (State.saveInst x1 s).seam = s.seam := rfl
@[simp] theorem State.saveInst_cmd {x1 s} : (State.saveInst x1 s).cmd = s.cmd := rfl
@[simp] theorem State.saveInst_hbr {x1 s} : (State.saveInst x1 s).hbr = s.hbr := rfl
@[simp] theorem State.saveInst_fab {x1 s} : (State.saveInst x1 s).fab = s.fab := rfl
@[simp] theorem State.saveInst_pwr {x1 s} : (State.saveInst x1 s).pwr = s.pwr := rfl
@[simp] theorem State.saveInst_aon {x1 s} : (State.saveInst x1 s).aon = s.aon := rfl
@[simp] theorem State.saveInst_evr {x1 s} : (State.saveInst x1 s).evr = s.evr := rfl
@[simp] theorem State.saveInst_tim {x1 s} : (State.saveInst x1 s).tim = s.tim := rfl
@[simp] theorem State.saveInst_kvt {x1 s} : (State.saveInst x1 s).kvt = s.kvt := rfl
@[simp] theorem State.saveInst_ing {x1 s} : (State.saveInst x1 s).ing = s.ing := rfl
@[simp] theorem State.saveInst_plc {x1 s} : (State.saveInst x1 s).plc = s.plc := rfl
@[simp] theorem State.saveInst_rfx {x1 s} : (State.saveInst x1 s).rfx = s.rfx := rfl
@[simp] theorem State.saveInst_fse {x1 s} : (State.saveInst x1 s).fse = s.fse := rfl
@[simp] theorem State.saveInst_msh {x1 s} : (State.saveInst x1 s).msh = s.msh := rfl
@[simp] theorem State.saveInst_cod {x1 s} : (State.saveInst x1 s).cod = s.cod := rfl
@[simp] theorem State.saveInst_arc {x1 s} : (State.saveInst x1 s).arc = s.arc := rfl
@[simp] theorem State.saveInst_los {x1 s} : (State.saveInst x1 s).los = s.los := rfl
@[simp] theorem State.saveInst_met {x1 s} : (State.saveInst x1 s).met = s.met := rfl
@[simp] theorem State.saveInst_bil {x1 s} : (State.saveInst x1 s).bil = s.bil := rfl
@[simp] theorem State.saveInst_par {x1 s} : (State.saveInst x1 s).par = s.par := rfl
@[simp] theorem State.saveInst_upd {x1 s} : (State.saveInst x1 s).upd = s.upd := rfl
@[simp] theorem State.saveInst_svc {x1 s} : (State.saveInst x1 s).svc = s.svc := rfl

@[simp] theorem State.setFse_pending {x1 s} : (State.setFse x1 s).pending = s.pending := rfl
@[simp] theorem State.setFse_regs {x1 s} : (State.setFse x1 s).regs = s.regs := rfl
@[simp] theorem State.setFse_out {x1 s} : (State.setFse x1 s).out = s.out := rfl
@[simp] theorem State.setFse_freeCtr {x1 s} : (State.setFse x1 s).freeCtr = s.freeCtr := rfl
@[simp] theorem State.setFse_dev {x1 s} : (State.setFse x1 s).dev = s.dev := rfl
@[simp] theorem State.setFse_seam {x1 s} : (State.setFse x1 s).seam = s.seam := rfl
@[simp] theorem State.setFse_cmd {x1 s} : (State.setFse x1 s).cmd = s.cmd := rfl
@[simp] theorem State.setFse_hbr {x1 s} : (State.setFse x1 s).hbr = s.hbr := rfl
@[simp] theorem State.setFse_fab {x1 s} : (State.setFse x1 s).fab = s.fab := rfl
@[simp] theorem State.setFse_vin {x1 s} : (State.setFse x1 s).vin = s.vin := rfl
@[simp] theorem State.setFse_pwr {x1 s} : (State.setFse x1 s).pwr = s.pwr := rfl
@[simp] theorem State.setFse_aon {x1 s} : (State.setFse x1 s).aon = s.aon := rfl
@[simp] theorem State.setFse_evr {x1 s} : (State.setFse x1 s).evr = s.evr := rfl
@[simp] theorem State.setFse_tim {x1 s} : (State.setFse x1 s).tim = s.tim := rfl
@[simp] theorem State.setFse_kvt {x1 s} : (State.setFse x1 s).kvt = s.kvt := rfl
@[simp] theorem State.setFse_ing {x1 s} : (State.setFse x1 s).ing = s.ing := rfl
@[simp] theorem State.setFse_plc {x1 s} : (State.setFse x1 s).plc = s.plc := rfl
@[simp] theorem State.setFse_rfx {x1 s} : (State.setFse x1 s).rfx = s.rfx := rfl
@[simp] theorem State.setFse_msh {x1 s} : (State.setFse x1 s).msh = s.msh := rfl
@[simp] theorem State.setFse_cod {x1 s} : (State.setFse x1 s).cod = s.cod := rfl
@[simp] theorem State.setFse_arc {x1 s} : (State.setFse x1 s).arc = s.arc := rfl
@[simp] theorem State.setFse_los {x1 s} : (State.setFse x1 s).los = s.los := rfl
@[simp] theorem State.setFse_met {x1 s} : (State.setFse x1 s).met = s.met := rfl
@[simp] theorem State.setFse_bil {x1 s} : (State.setFse x1 s).bil = s.bil := rfl
@[simp] theorem State.setFse_par {x1 s} : (State.setFse x1 s).par = s.par := rfl
@[simp] theorem State.setFse_upd {x1 s} : (State.setFse x1 s).upd = s.upd := rfl
@[simp] theorem State.setFse_svc {x1 s} : (State.setFse x1 s).svc = s.svc := rfl
@[simp] theorem State.setFse_fse {x1 s} : (State.setFse x1 s).fse = x1 s.fse := rfl

@[simp] theorem State.setIng_pending {x1 s} : (State.setIng x1 s).pending = s.pending := rfl
@[simp] theorem State.setIng_regs {x1 s} : (State.setIng x1 s).regs = s.regs := rfl
@[simp] theorem State.setIng_out {x1 s} : (State.setIng x1 s).out = s.out := rfl
@[simp] theorem State.setIng_freeCtr {x1 s} : (State.setIng x1 s).freeCtr = s.freeCtr := rfl
@[simp] theorem State.setIng_dev {x1 s} : (State.setIng x1 s).dev = s.dev := rfl
@[simp] theorem State.setIng_seam {x1 s} : (State.setIng x1 s).seam = s.seam := rfl
@[simp] theorem State.setIng_cmd {x1 s} : (State.setIng x1 s).cmd = s.cmd := rfl
@[simp] theorem State.setIng_hbr {x1 s} : (State.setIng x1 s).hbr = s.hbr := rfl
@[simp] theorem State.setIng_fab {x1 s} : (State.setIng x1 s).fab = s.fab := rfl
@[simp] theorem State.setIng_vin {x1 s} : (State.setIng x1 s).vin = s.vin := rfl
@[simp] theorem State.setIng_pwr {x1 s} : (State.setIng x1 s).pwr = s.pwr := rfl
@[simp] theorem State.setIng_aon {x1 s} : (State.setIng x1 s).aon = s.aon := rfl
@[simp] theorem State.setIng_evr {x1 s} : (State.setIng x1 s).evr = s.evr := rfl
@[simp] theorem State.setIng_tim {x1 s} : (State.setIng x1 s).tim = s.tim := rfl
@[simp] theorem State.setIng_kvt {x1 s} : (State.setIng x1 s).kvt = s.kvt := rfl
@[simp] theorem State.setIng_plc {x1 s} : (State.setIng x1 s).plc = s.plc := rfl
@[simp] theorem State.setIng_rfx {x1 s} : (State.setIng x1 s).rfx = s.rfx := rfl
@[simp] theorem State.setIng_fse {x1 s} : (State.setIng x1 s).fse = s.fse := rfl
@[simp] theorem State.setIng_msh {x1 s} : (State.setIng x1 s).msh = s.msh := rfl
@[simp] theorem State.setIng_cod {x1 s} : (State.setIng x1 s).cod = s.cod := rfl
@[simp] theorem State.setIng_arc {x1 s} : (State.setIng x1 s).arc = s.arc := rfl
@[simp] theorem State.setIng_los {x1 s} : (State.setIng x1 s).los = s.los := rfl
@[simp] theorem State.setIng_met {x1 s} : (State.setIng x1 s).met = s.met := rfl
@[simp] theorem State.setIng_bil {x1 s} : (State.setIng x1 s).bil = s.bil := rfl
@[simp] theorem State.setIng_par {x1 s} : (State.setIng x1 s).par = s.par := rfl
@[simp] theorem State.setIng_upd {x1 s} : (State.setIng x1 s).upd = s.upd := rfl
@[simp] theorem State.setIng_svc {x1 s} : (State.setIng x1 s).svc = s.svc := rfl
@[simp] theorem State.setIng_ing {x1 s} : (State.setIng x1 s).ing = x1 s.ing := rfl

@[simp] theorem State.setPlc_pending {x1 s} : (State.setPlc x1 s).pending = s.pending := rfl
@[simp] theorem State.setPlc_regs {x1 s} : (State.setPlc x1 s).regs = s.regs := rfl
@[simp] theorem State.setPlc_out {x1 s} : (State.setPlc x1 s).out = s.out := rfl
@[simp] theorem State.setPlc_freeCtr {x1 s} : (State.setPlc x1 s).freeCtr = s.freeCtr := rfl
@[simp] theorem State.setPlc_dev {x1 s} : (State.setPlc x1 s).dev = s.dev := rfl
@[simp] theorem State.setPlc_seam {x1 s} : (State.setPlc x1 s).seam = s.seam := rfl
@[simp] theorem State.setPlc_cmd {x1 s} : (State.setPlc x1 s).cmd = s.cmd := rfl
@[simp] theorem State.setPlc_hbr {x1 s} : (State.setPlc x1 s).hbr = s.hbr := rfl
@[simp] theorem State.setPlc_fab {x1 s} : (State.setPlc x1 s).fab = s.fab := rfl
@[simp] theorem State.setPlc_vin {x1 s} : (State.setPlc x1 s).vin = s.vin := rfl
@[simp] theorem State.setPlc_pwr {x1 s} : (State.setPlc x1 s).pwr = s.pwr := rfl
@[simp] theorem State.setPlc_aon {x1 s} : (State.setPlc x1 s).aon = s.aon := rfl
@[simp] theorem State.setPlc_evr {x1 s} : (State.setPlc x1 s).evr = s.evr := rfl
@[simp] theorem State.setPlc_tim {x1 s} : (State.setPlc x1 s).tim = s.tim := rfl
@[simp] theorem State.setPlc_kvt {x1 s} : (State.setPlc x1 s).kvt = s.kvt := rfl
@[simp] theorem State.setPlc_ing {x1 s} : (State.setPlc x1 s).ing = s.ing := rfl
@[simp] theorem State.setPlc_rfx {x1 s} : (State.setPlc x1 s).rfx = s.rfx := rfl
@[simp] theorem State.setPlc_fse {x1 s} : (State.setPlc x1 s).fse = s.fse := rfl
@[simp] theorem State.setPlc_msh {x1 s} : (State.setPlc x1 s).msh = s.msh := rfl
@[simp] theorem State.setPlc_cod {x1 s} : (State.setPlc x1 s).cod = s.cod := rfl
@[simp] theorem State.setPlc_arc {x1 s} : (State.setPlc x1 s).arc = s.arc := rfl
@[simp] theorem State.setPlc_los {x1 s} : (State.setPlc x1 s).los = s.los := rfl
@[simp] theorem State.setPlc_met {x1 s} : (State.setPlc x1 s).met = s.met := rfl
@[simp] theorem State.setPlc_bil {x1 s} : (State.setPlc x1 s).bil = s.bil := rfl
@[simp] theorem State.setPlc_par {x1 s} : (State.setPlc x1 s).par = s.par := rfl
@[simp] theorem State.setPlc_upd {x1 s} : (State.setPlc x1 s).upd = s.upd := rfl
@[simp] theorem State.setPlc_svc {x1 s} : (State.setPlc x1 s).svc = s.svc := rfl
@[simp] theorem State.setPlc_plc {x1 s} : (State.setPlc x1 s).plc = x1 s.plc := rfl

@[simp] theorem State.setPar_pending {x1 s} : (State.setPar x1 s).pending = s.pending := rfl
@[simp] theorem State.setPar_regs {x1 s} : (State.setPar x1 s).regs = s.regs := rfl
@[simp] theorem State.setPar_out {x1 s} : (State.setPar x1 s).out = s.out := rfl
@[simp] theorem State.setPar_freeCtr {x1 s} : (State.setPar x1 s).freeCtr = s.freeCtr := rfl
@[simp] theorem State.setPar_dev {x1 s} : (State.setPar x1 s).dev = s.dev := rfl
@[simp] theorem State.setPar_seam {x1 s} : (State.setPar x1 s).seam = s.seam := rfl
@[simp] theorem State.setPar_cmd {x1 s} : (State.setPar x1 s).cmd = s.cmd := rfl
@[simp] theorem State.setPar_hbr {x1 s} : (State.setPar x1 s).hbr = s.hbr := rfl
@[simp] theorem State.setPar_fab {x1 s} : (State.setPar x1 s).fab = s.fab := rfl
@[simp] theorem State.setPar_vin {x1 s} : (State.setPar x1 s).vin = s.vin := rfl
@[simp] theorem State.setPar_pwr {x1 s} : (State.setPar x1 s).pwr = s.pwr := rfl
@[simp] theorem State.setPar_aon {x1 s} : (State.setPar x1 s).aon = s.aon := rfl
@[simp] theorem State.setPar_evr {x1 s} : (State.setPar x1 s).evr = s.evr := rfl
@[simp] theorem State.setPar_tim {x1 s} : (State.setPar x1 s).tim = s.tim := rfl
@[simp] theorem State.setPar_kvt {x1 s} : (State.setPar x1 s).kvt = s.kvt := rfl
@[simp] theorem State.setPar_ing {x1 s} : (State.setPar x1 s).ing = s.ing := rfl
@[simp] theorem State.setPar_plc {x1 s} : (State.setPar x1 s).plc = s.plc := rfl
@[simp] theorem State.setPar_rfx {x1 s} : (State.setPar x1 s).rfx = s.rfx := rfl
@[simp] theorem State.setPar_fse {x1 s} : (State.setPar x1 s).fse = s.fse := rfl
@[simp] theorem State.setPar_msh {x1 s} : (State.setPar x1 s).msh = s.msh := rfl
@[simp] theorem State.setPar_cod {x1 s} : (State.setPar x1 s).cod = s.cod := rfl
@[simp] theorem State.setPar_arc {x1 s} : (State.setPar x1 s).arc = s.arc := rfl
@[simp] theorem State.setPar_los {x1 s} : (State.setPar x1 s).los = s.los := rfl
@[simp] theorem State.setPar_met {x1 s} : (State.setPar x1 s).met = s.met := rfl
@[simp] theorem State.setPar_bil {x1 s} : (State.setPar x1 s).bil = s.bil := rfl
@[simp] theorem State.setPar_upd {x1 s} : (State.setPar x1 s).upd = s.upd := rfl
@[simp] theorem State.setPar_svc {x1 s} : (State.setPar x1 s).svc = s.svc := rfl
@[simp] theorem State.setPar_par {x1 s} : (State.setPar x1 s).par = x1 s.par := rfl

@[simp] theorem State.putCtx_pending {x1 x2 s} : (State.putCtx x1 x2 s).pending = s.pending := rfl
@[simp] theorem State.putCtx_regs {x1 x2 s} : (State.putCtx x1 x2 s).regs = s.regs := rfl
@[simp] theorem State.putCtx_out {x1 x2 s} : (State.putCtx x1 x2 s).out = s.out := rfl
@[simp] theorem State.putCtx_freeCtr {x1 x2 s} : (State.putCtx x1 x2 s).freeCtr = s.freeCtr := rfl
@[simp] theorem State.putCtx_dev {x1 x2 s} : (State.putCtx x1 x2 s).dev = s.dev := rfl
@[simp] theorem State.putCtx_seam {x1 x2 s} : (State.putCtx x1 x2 s).seam = s.seam := rfl
@[simp] theorem State.putCtx_cmd {x1 x2 s} : (State.putCtx x1 x2 s).cmd = s.cmd := rfl
@[simp] theorem State.putCtx_hbr {x1 x2 s} : (State.putCtx x1 x2 s).hbr = s.hbr := rfl
@[simp] theorem State.putCtx_fab {x1 x2 s} : (State.putCtx x1 x2 s).fab = s.fab := rfl
@[simp] theorem State.putCtx_vin {x1 x2 s} : (State.putCtx x1 x2 s).vin = s.vin := rfl
@[simp] theorem State.putCtx_pwr {x1 x2 s} : (State.putCtx x1 x2 s).pwr = s.pwr := rfl
@[simp] theorem State.putCtx_aon {x1 x2 s} : (State.putCtx x1 x2 s).aon = s.aon := rfl
@[simp] theorem State.putCtx_evr {x1 x2 s} : (State.putCtx x1 x2 s).evr = s.evr := rfl
@[simp] theorem State.putCtx_tim {x1 x2 s} : (State.putCtx x1 x2 s).tim = s.tim := rfl
@[simp] theorem State.putCtx_kvt {x1 x2 s} : (State.putCtx x1 x2 s).kvt = s.kvt := rfl
@[simp] theorem State.putCtx_plc {x1 x2 s} : (State.putCtx x1 x2 s).plc = s.plc := rfl
@[simp] theorem State.putCtx_rfx {x1 x2 s} : (State.putCtx x1 x2 s).rfx = s.rfx := rfl
@[simp] theorem State.putCtx_fse {x1 x2 s} : (State.putCtx x1 x2 s).fse = s.fse := rfl
@[simp] theorem State.putCtx_msh {x1 x2 s} : (State.putCtx x1 x2 s).msh = s.msh := rfl
@[simp] theorem State.putCtx_cod {x1 x2 s} : (State.putCtx x1 x2 s).cod = s.cod := rfl
@[simp] theorem State.putCtx_arc {x1 x2 s} : (State.putCtx x1 x2 s).arc = s.arc := rfl
@[simp] theorem State.putCtx_los {x1 x2 s} : (State.putCtx x1 x2 s).los = s.los := rfl
@[simp] theorem State.putCtx_met {x1 x2 s} : (State.putCtx x1 x2 s).met = s.met := rfl
@[simp] theorem State.putCtx_bil {x1 x2 s} : (State.putCtx x1 x2 s).bil = s.bil := rfl
@[simp] theorem State.putCtx_par {x1 x2 s} : (State.putCtx x1 x2 s).par = s.par := rfl
@[simp] theorem State.putCtx_upd {x1 x2 s} : (State.putCtx x1 x2 s).upd = s.upd := rfl
@[simp] theorem State.putCtx_svc {x1 x2 s} : (State.putCtx x1 x2 s).svc = s.svc := rfl

@[simp] theorem State.setRecorder_pending {x1 x2 s} : (State.setRecorder x1 x2 s).pending = s.pending := rfl
@[simp] theorem State.setRecorder_regs {x1 x2 s} : (State.setRecorder x1 x2 s).regs = s.regs := rfl
@[simp] theorem State.setRecorder_out {x1 x2 s} : (State.setRecorder x1 x2 s).out = s.out := rfl
@[simp] theorem State.setRecorder_freeCtr {x1 x2 s} : (State.setRecorder x1 x2 s).freeCtr = s.freeCtr := rfl
@[simp] theorem State.setRecorder_dev {x1 x2 s} : (State.setRecorder x1 x2 s).dev = s.dev := rfl
@[simp] theorem State.setRecorder_seam {x1 x2 s} : (State.setRecorder x1 x2 s).seam = s.seam := rfl
@[simp] theorem State.setRecorder_cmd {x1 x2 s} : (State.setRecorder x1 x2 s).cmd = s.cmd := rfl
@[simp] theorem State.setRecorder_hbr {x1 x2 s} : (State.setRecorder x1 x2 s).hbr = s.hbr := rfl
@[simp] theorem State.setRecorder_fab {x1 x2 s} : (State.setRecorder x1 x2 s).fab = s.fab := rfl
@[simp] theorem State.setRecorder_vin {x1 x2 s} : (State.setRecorder x1 x2 s).vin = s.vin := rfl
@[simp] theorem State.setRecorder_pwr {x1 x2 s} : (State.setRecorder x1 x2 s).pwr = s.pwr := rfl
@[simp] theorem State.setRecorder_aon {x1 x2 s} : (State.setRecorder x1 x2 s).aon = s.aon := rfl
@[simp] theorem State.setRecorder_tim {x1 x2 s} : (State.setRecorder x1 x2 s).tim = s.tim := rfl
@[simp] theorem State.setRecorder_kvt {x1 x2 s} : (State.setRecorder x1 x2 s).kvt = s.kvt := rfl
@[simp] theorem State.setRecorder_ing {x1 x2 s} : (State.setRecorder x1 x2 s).ing = s.ing := rfl
@[simp] theorem State.setRecorder_plc {x1 x2 s} : (State.setRecorder x1 x2 s).plc = s.plc := rfl
@[simp] theorem State.setRecorder_rfx {x1 x2 s} : (State.setRecorder x1 x2 s).rfx = s.rfx := rfl
@[simp] theorem State.setRecorder_fse {x1 x2 s} : (State.setRecorder x1 x2 s).fse = s.fse := rfl
@[simp] theorem State.setRecorder_msh {x1 x2 s} : (State.setRecorder x1 x2 s).msh = s.msh := rfl
@[simp] theorem State.setRecorder_cod {x1 x2 s} : (State.setRecorder x1 x2 s).cod = s.cod := rfl
@[simp] theorem State.setRecorder_arc {x1 x2 s} : (State.setRecorder x1 x2 s).arc = s.arc := rfl
@[simp] theorem State.setRecorder_los {x1 x2 s} : (State.setRecorder x1 x2 s).los = s.los := rfl
@[simp] theorem State.setRecorder_met {x1 x2 s} : (State.setRecorder x1 x2 s).met = s.met := rfl
@[simp] theorem State.setRecorder_bil {x1 x2 s} : (State.setRecorder x1 x2 s).bil = s.bil := rfl
@[simp] theorem State.setRecorder_par {x1 x2 s} : (State.setRecorder x1 x2 s).par = s.par := rfl
@[simp] theorem State.setRecorder_upd {x1 x2 s} : (State.setRecorder x1 x2 s).upd = s.upd := rfl
@[simp] theorem State.setRecorder_svc {x1 x2 s} : (State.setRecorder x1 x2 s).svc = s.svc := rfl

@[simp] theorem State.setMet_pending {x1 s} : (State.setMet x1 s).pending = s.pending := rfl
@[simp] theorem State.setMet_regs {x1 s} : (State.setMet x1 s).regs = s.regs := rfl
@[simp] theorem State.setMet_out {x1 s} : (State.setMet x1 s).out = s.out := rfl
@[simp] theorem State.setMet_freeCtr {x1 s} : (State.setMet x1 s).freeCtr = s.freeCtr := rfl
@[simp] theorem State.setMet_dev {x1 s} : (State.setMet x1 s).dev = s.dev := rfl
@[simp] theorem State.setMet_seam {x1 s} : (State.setMet x1 s).seam = s.seam := rfl
@[simp] theorem State.setMet_cmd {x1 s} : (State.setMet x1 s).cmd = s.cmd := rfl
@[simp] theorem State.setMet_hbr {x1 s} : (State.setMet x1 s).hbr = s.hbr := rfl
@[simp] theorem State.setMet_fab {x1 s} : (State.setMet x1 s).fab = s.fab := rfl
@[simp] theorem State.setMet_vin {x1 s} : (State.setMet x1 s).vin = s.vin := rfl
@[simp] theorem State.setMet_pwr {x1 s} : (State.setMet x1 s).pwr = s.pwr := rfl
@[simp] theorem State.setMet_aon {x1 s} : (State.setMet x1 s).aon = s.aon := rfl
@[simp] theorem State.setMet_evr {x1 s} : (State.setMet x1 s).evr = s.evr := rfl
@[simp] theorem State.setMet_tim {x1 s} : (State.setMet x1 s).tim = s.tim := rfl
@[simp] theorem State.setMet_kvt {x1 s} : (State.setMet x1 s).kvt = s.kvt := rfl
@[simp] theorem State.setMet_ing {x1 s} : (State.setMet x1 s).ing = s.ing := rfl
@[simp] theorem State.setMet_plc {x1 s} : (State.setMet x1 s).plc = s.plc := rfl
@[simp] theorem State.setMet_rfx {x1 s} : (State.setMet x1 s).rfx = s.rfx := rfl
@[simp] theorem State.setMet_fse {x1 s} : (State.setMet x1 s).fse = s.fse := rfl
@[simp] theorem State.setMet_msh {x1 s} : (State.setMet x1 s).msh = s.msh := rfl
@[simp] theorem State.setMet_cod {x1 s} : (State.setMet x1 s).cod = s.cod := rfl
@[simp] theorem State.setMet_arc {x1 s} : (State.setMet x1 s).arc = s.arc := rfl
@[simp] theorem State.setMet_los {x1 s} : (State.setMet x1 s).los = s.los := rfl
@[simp] theorem State.setMet_bil {x1 s} : (State.setMet x1 s).bil = s.bil := rfl
@[simp] theorem State.setMet_par {x1 s} : (State.setMet x1 s).par = s.par := rfl
@[simp] theorem State.setMet_upd {x1 s} : (State.setMet x1 s).upd = s.upd := rfl
@[simp] theorem State.setMet_svc {x1 s} : (State.setMet x1 s).svc = s.svc := rfl
@[simp] theorem State.setMet_met {x1 s} : (State.setMet x1 s).met = x1 s.met := rfl

@[simp] theorem State.setQueue_pending {x1 x2 s} : (State.setQueue x1 x2 s).pending = s.pending := rfl
@[simp] theorem State.setQueue_regs {x1 x2 s} : (State.setQueue x1 x2 s).regs = s.regs := rfl
@[simp] theorem State.setQueue_out {x1 x2 s} : (State.setQueue x1 x2 s).out = s.out := rfl
@[simp] theorem State.setQueue_freeCtr {x1 x2 s} : (State.setQueue x1 x2 s).freeCtr = s.freeCtr := rfl
@[simp] theorem State.setQueue_dev {x1 x2 s} : (State.setQueue x1 x2 s).dev = s.dev := rfl
@[simp] theorem State.setQueue_seam {x1 x2 s} : (State.setQueue x1 x2 s).seam = s.seam := rfl
@[simp] theorem State.setQueue_hbr {x1 x2 s} : (State.setQueue x1 x2 s).hbr = s.hbr := rfl
@[simp] theorem State.setQueue_fab {x1 x2 s} : (State.setQueue x1 x2 s).fab = s.fab := rfl
@[simp] theorem State.setQueue_vin {x1 x2 s} : (State.setQueue x1 x2 s).vin = s.vin := rfl
@[simp] theorem State.setQueue_pwr {x1 x2 s} : (State.setQueue x1 x2 s).pwr = s.pwr := rfl
@[simp] theorem State.setQueue_aon {x1 x2 s} : (State.setQueue x1 x2 s).aon = s.aon := rfl
@[simp] theorem State.setQueue_evr {x1 x2 s} : (State.setQueue x1 x2 s).evr = s.evr := rfl
@[simp] theorem State.setQueue_tim {x1 x2 s} : (State.setQueue x1 x2 s).tim = s.tim := rfl
@[simp] theorem State.setQueue_kvt {x1 x2 s} : (State.setQueue x1 x2 s).kvt = s.kvt := rfl
@[simp] theorem State.setQueue_ing {x1 x2 s} : (State.setQueue x1 x2 s).ing = s.ing := rfl
@[simp] theorem State.setQueue_plc {x1 x2 s} : (State.setQueue x1 x2 s).plc = s.plc := rfl
@[simp] theorem State.setQueue_rfx {x1 x2 s} : (State.setQueue x1 x2 s).rfx = s.rfx := rfl
@[simp] theorem State.setQueue_fse {x1 x2 s} : (State.setQueue x1 x2 s).fse = s.fse := rfl
@[simp] theorem State.setQueue_msh {x1 x2 s} : (State.setQueue x1 x2 s).msh = s.msh := rfl
@[simp] theorem State.setQueue_cod {x1 x2 s} : (State.setQueue x1 x2 s).cod = s.cod := rfl
@[simp] theorem State.setQueue_arc {x1 x2 s} : (State.setQueue x1 x2 s).arc = s.arc := rfl
@[simp] theorem State.setQueue_los {x1 x2 s} : (State.setQueue x1 x2 s).los = s.los := rfl
@[simp] theorem State.setQueue_met {x1 x2 s} : (State.setQueue x1 x2 s).met = s.met := rfl
@[simp] theorem State.setQueue_bil {x1 x2 s} : (State.setQueue x1 x2 s).bil = s.bil := rfl
@[simp] theorem State.setQueue_par {x1 x2 s} : (State.setQueue x1 x2 s).par = s.par := rfl
@[simp] theorem State.setQueue_upd {x1 x2 s} : (State.setQueue x1 x2 s).upd = s.upd := rfl
@[simp] theorem State.setQueue_svc {x1 x2 s} : (State.setQueue x1 x2 s).svc = s.svc := rfl

@[simp] theorem State.setTouched_pending {x1 s} : (State.setTouched x1 s).pending = s.pending := rfl
@[simp] theorem State.setTouched_regs {x1 s} : (State.setTouched x1 s).regs = s.regs := rfl
@[simp] theorem State.setTouched_out {x1 s} : (State.setTouched x1 s).out = s.out := rfl
@[simp] theorem State.setTouched_freeCtr {x1 s} : (State.setTouched x1 s).freeCtr = s.freeCtr := rfl
@[simp] theorem State.setTouched_dev {x1 s} : (State.setTouched x1 s).dev = s.dev := rfl
@[simp] theorem State.setTouched_seam {x1 s} : (State.setTouched x1 s).seam = s.seam := rfl
@[simp] theorem State.setTouched_cmd {x1 s} : (State.setTouched x1 s).cmd = s.cmd := rfl
@[simp] theorem State.setTouched_hbr {x1 s} : (State.setTouched x1 s).hbr = s.hbr := rfl
@[simp] theorem State.setTouched_fab {x1 s} : (State.setTouched x1 s).fab = s.fab := rfl
@[simp] theorem State.setTouched_vin {x1 s} : (State.setTouched x1 s).vin = s.vin := rfl
@[simp] theorem State.setTouched_pwr {x1 s} : (State.setTouched x1 s).pwr = s.pwr := rfl
@[simp] theorem State.setTouched_aon {x1 s} : (State.setTouched x1 s).aon = s.aon := rfl
@[simp] theorem State.setTouched_evr {x1 s} : (State.setTouched x1 s).evr = s.evr := rfl
@[simp] theorem State.setTouched_tim {x1 s} : (State.setTouched x1 s).tim = s.tim := rfl
@[simp] theorem State.setTouched_kvt {x1 s} : (State.setTouched x1 s).kvt = s.kvt := rfl
@[simp] theorem State.setTouched_ing {x1 s} : (State.setTouched x1 s).ing = s.ing := rfl
@[simp] theorem State.setTouched_plc {x1 s} : (State.setTouched x1 s).plc = s.plc := rfl
@[simp] theorem State.setTouched_rfx {x1 s} : (State.setTouched x1 s).rfx = s.rfx := rfl
@[simp] theorem State.setTouched_msh {x1 s} : (State.setTouched x1 s).msh = s.msh := rfl
@[simp] theorem State.setTouched_cod {x1 s} : (State.setTouched x1 s).cod = s.cod := rfl
@[simp] theorem State.setTouched_arc {x1 s} : (State.setTouched x1 s).arc = s.arc := rfl
@[simp] theorem State.setTouched_los {x1 s} : (State.setTouched x1 s).los = s.los := rfl
@[simp] theorem State.setTouched_met {x1 s} : (State.setTouched x1 s).met = s.met := rfl
@[simp] theorem State.setTouched_bil {x1 s} : (State.setTouched x1 s).bil = s.bil := rfl
@[simp] theorem State.setTouched_par {x1 s} : (State.setTouched x1 s).par = s.par := rfl
@[simp] theorem State.setTouched_upd {x1 s} : (State.setTouched x1 s).upd = s.upd := rfl
@[simp] theorem State.setTouched_svc {x1 s} : (State.setTouched x1 s).svc = s.svc := rfl

@[simp] theorem State.setCod_pending {x1 s} : (State.setCod x1 s).pending = s.pending := rfl
@[simp] theorem State.setCod_regs {x1 s} : (State.setCod x1 s).regs = s.regs := rfl
@[simp] theorem State.setCod_out {x1 s} : (State.setCod x1 s).out = s.out := rfl
@[simp] theorem State.setCod_freeCtr {x1 s} : (State.setCod x1 s).freeCtr = s.freeCtr := rfl
@[simp] theorem State.setCod_dev {x1 s} : (State.setCod x1 s).dev = s.dev := rfl
@[simp] theorem State.setCod_seam {x1 s} : (State.setCod x1 s).seam = s.seam := rfl
@[simp] theorem State.setCod_cmd {x1 s} : (State.setCod x1 s).cmd = s.cmd := rfl
@[simp] theorem State.setCod_hbr {x1 s} : (State.setCod x1 s).hbr = s.hbr := rfl
@[simp] theorem State.setCod_fab {x1 s} : (State.setCod x1 s).fab = s.fab := rfl
@[simp] theorem State.setCod_vin {x1 s} : (State.setCod x1 s).vin = s.vin := rfl
@[simp] theorem State.setCod_pwr {x1 s} : (State.setCod x1 s).pwr = s.pwr := rfl
@[simp] theorem State.setCod_aon {x1 s} : (State.setCod x1 s).aon = s.aon := rfl
@[simp] theorem State.setCod_evr {x1 s} : (State.setCod x1 s).evr = s.evr := rfl
@[simp] theorem State.setCod_tim {x1 s} : (State.setCod x1 s).tim = s.tim := rfl
@[simp] theorem State.setCod_kvt {x1 s} : (State.setCod x1 s).kvt = s.kvt := rfl
@[simp] theorem State.setCod_ing {x1 s} : (State.setCod x1 s).ing = s.ing := rfl
@[simp] theorem State.setCod_plc {x1 s} : (State.setCod x1 s).plc = s.plc := rfl
@[simp] theorem State.setCod_rfx {x1 s} : (State.setCod x1 s).rfx = s.rfx := rfl
@[simp] theorem State.setCod_fse {x1 s} : (State.setCod x1 s).fse = s.fse := rfl
@[simp] theorem State.setCod_msh {x1 s} : (State.setCod x1 s).msh = s.msh := rfl
@[simp] theorem State.setCod_arc {x1 s} : (State.setCod x1 s).arc = s.arc := rfl
@[simp] theorem State.setCod_los {x1 s} : (State.setCod x1 s).los = s.los := rfl
@[simp] theorem State.setCod_met {x1 s} : (State.setCod x1 s).met = s.met := rfl
@[simp] theorem State.setCod_bil {x1 s} : (State.setCod x1 s).bil = s.bil := rfl
@[simp] theorem State.setCod_par {x1 s} : (State.setCod x1 s).par = s.par := rfl
@[simp] theorem State.setCod_upd {x1 s} : (State.setCod x1 s).upd = s.upd := rfl
@[simp] theorem State.setCod_svc {x1 s} : (State.setCod x1 s).svc = s.svc := rfl
@[simp] theorem State.setCod_cod {x1 s} : (State.setCod x1 s).cod = x1 s.cod := rfl

@[simp] theorem State.setRole_pending {x1 s} : (State.setRole x1 s).pending = s.pending := rfl
@[simp] theorem State.setRole_regs {x1 s} : (State.setRole x1 s).regs = s.regs := rfl
@[simp] theorem State.setRole_out {x1 s} : (State.setRole x1 s).out = s.out := rfl
@[simp] theorem State.setRole_freeCtr {x1 s} : (State.setRole x1 s).freeCtr = s.freeCtr := rfl
@[simp] theorem State.setRole_seam {x1 s} : (State.setRole x1 s).seam = s.seam := rfl
@[simp] theorem State.setRole_cmd {x1 s} : (State.setRole x1 s).cmd = s.cmd := rfl
@[simp] theorem State.setRole_hbr {x1 s} : (State.setRole x1 s).hbr = s.hbr := rfl
@[simp] theorem State.setRole_fab {x1 s} : (State.setRole x1 s).fab = s.fab := rfl
@[simp] theorem State.setRole_vin {x1 s} : (State.setRole x1 s).vin = s.vin := rfl
@[simp] theorem State.setRole_pwr {x1 s} : (State.setRole x1 s).pwr = s.pwr := rfl
@[simp] theorem State.setRole_aon {x1 s} : (State.setRole x1 s).aon = s.aon := rfl
@[simp] theorem State.setRole_evr {x1 s} : (State.setRole x1 s).evr = s.evr := rfl
@[simp] theorem State.setRole_tim {x1 s} : (State.setRole x1 s).tim = s.tim := rfl
@[simp] theorem State.setRole_kvt {x1 s} : (State.setRole x1 s).kvt = s.kvt := rfl
@[simp] theorem State.setRole_ing {x1 s} : (State.setRole x1 s).ing = s.ing := rfl
@[simp] theorem State.setRole_plc {x1 s} : (State.setRole x1 s).plc = s.plc := rfl
@[simp] theorem State.setRole_rfx {x1 s} : (State.setRole x1 s).rfx = s.rfx := rfl
@[simp] theorem State.setRole_fse {x1 s} : (State.setRole x1 s).fse = s.fse := rfl
@[simp] theorem State.setRole_msh {x1 s} : (State.setRole x1 s).msh = s.msh := rfl
@[simp] theorem State.setRole_cod {x1 s} : (State.setRole x1 s).cod = s.cod := rfl
@[simp] theorem State.setRole_arc {x1 s} : (State.setRole x1 s).arc = s.arc := rfl
@[simp] theorem State.setRole_los {x1 s} : (State.setRole x1 s).los = s.los := rfl
@[simp] theorem State.setRole_met {x1 s} : (State.setRole x1 s).met = s.met := rfl
@[simp] theorem State.setRole_bil {x1 s} : (State.setRole x1 s).bil = s.bil := rfl
@[simp] theorem State.setRole_par {x1 s} : (State.setRole x1 s).par = s.par := rfl
@[simp] theorem State.setRole_upd {x1 s} : (State.setRole x1 s).upd = s.upd := rfl
@[simp] theorem State.setRole_svc {x1 s} : (State.setRole x1 s).svc = s.svc := rfl

@[simp] theorem State.setUpd_pending {x1 s} : (State.setUpd x1 s).pending = s.pending := rfl
@[simp] theorem State.setUpd_regs {x1 s} : (State.setUpd x1 s).regs = s.regs := rfl
@[simp] theorem State.setUpd_out {x1 s} : (State.setUpd x1 s).out = s.out := rfl
@[simp] theorem State.setUpd_freeCtr {x1 s} : (State.setUpd x1 s).freeCtr = s.freeCtr := rfl
@[simp] theorem State.setUpd_dev {x1 s} : (State.setUpd x1 s).dev = s.dev := rfl
@[simp] theorem State.setUpd_seam {x1 s} : (State.setUpd x1 s).seam = s.seam := rfl
@[simp] theorem State.setUpd_cmd {x1 s} : (State.setUpd x1 s).cmd = s.cmd := rfl
@[simp] theorem State.setUpd_hbr {x1 s} : (State.setUpd x1 s).hbr = s.hbr := rfl
@[simp] theorem State.setUpd_fab {x1 s} : (State.setUpd x1 s).fab = s.fab := rfl
@[simp] theorem State.setUpd_vin {x1 s} : (State.setUpd x1 s).vin = s.vin := rfl
@[simp] theorem State.setUpd_pwr {x1 s} : (State.setUpd x1 s).pwr = s.pwr := rfl
@[simp] theorem State.setUpd_aon {x1 s} : (State.setUpd x1 s).aon = s.aon := rfl
@[simp] theorem State.setUpd_evr {x1 s} : (State.setUpd x1 s).evr = s.evr := rfl
@[simp] theorem State.setUpd_tim {x1 s} : (State.setUpd x1 s).tim = s.tim := rfl
@[simp] theorem State.setUpd_kvt {x1 s} : (State.setUpd x1 s).kvt = s.kvt := rfl
@[simp] theorem State.setUpd_ing {x1 s} : (State.setUpd x1 s).ing = s.ing := rfl
@[simp] theorem State.setUpd_plc {x1 s} : (State.setUpd x1 s).plc = s.plc := rfl
@[simp] theorem State.setUpd_rfx {x1 s} : (State.setUpd x1 s).rfx = s.rfx := rfl
@[simp] theorem State.setUpd_fse {x1 s} : (State.setUpd x1 s).fse = s.fse := rfl
@[simp] theorem State.setUpd_msh {x1 s} : (State.setUpd x1 s).msh = s.msh := rfl
@[simp] theorem State.setUpd_cod {x1 s} : (State.setUpd x1 s).cod = s.cod := rfl
@[simp] theorem State.setUpd_arc {x1 s} : (State.setUpd x1 s).arc = s.arc := rfl
@[simp] theorem State.setUpd_los {x1 s} : (State.setUpd x1 s).los = s.los := rfl
@[simp] theorem State.setUpd_met {x1 s} : (State.setUpd x1 s).met = s.met := rfl
@[simp] theorem State.setUpd_bil {x1 s} : (State.setUpd x1 s).bil = s.bil := rfl
@[simp] theorem State.setUpd_par {x1 s} : (State.setUpd x1 s).par = s.par := rfl
@[simp] theorem State.setUpd_svc {x1 s} : (State.setUpd x1 s).svc = s.svc := rfl
@[simp] theorem State.setUpd_upd {x1 s} : (State.setUpd x1 s).upd = x1 s.upd := rfl

@[simp] theorem State.addCmd_pending {x1 s} : (State.addCmd x1 s).pending = s.pending := rfl
@[simp] theorem State.addCmd_regs {x1 s} : (State.addCmd x1 s).regs = s.regs := rfl
@[simp] theorem State.addCmd_out {x1 s} : (State.addCmd x1 s).out = s.out := rfl
@[simp] theorem State.addCmd_freeCtr {x1 s} : (State.addCmd x1 s).freeCtr = s.freeCtr := rfl
@[simp] theorem State.addCmd_dev {x1 s} : (State.addCmd x1 s).dev = s.dev := rfl
@[simp] theorem State.addCmd_seam {x1 s} : (State.addCmd x1 s).seam = s.seam := rfl
@[simp] theorem State.addCmd_hbr {x1 s} : (State.addCmd x1 s).hbr = s.hbr := rfl
@[simp] theorem State.addCmd_fab {x1 s} : (State.addCmd x1 s).fab = s.fab := rfl
@[simp] theorem State.addCmd_vin {x1 s} : (State.addCmd x1 s).vin = s.vin := rfl
@[simp] theorem State.addCmd_pwr {x1 s} : (State.addCmd x1 s).pwr = s.pwr := rfl
@[simp] theorem State.addCmd_aon {x1 s} : (State.addCmd x1 s).aon = s.aon := rfl
@[simp] theorem State.addCmd_evr {x1 s} : (State.addCmd x1 s).evr = s.evr := rfl
@[simp] theorem State.addCmd_tim {x1 s} : (State.addCmd x1 s).tim = s.tim := rfl
@[simp] theorem State.addCmd_kvt {x1 s} : (State.addCmd x1 s).kvt = s.kvt := rfl
@[simp] theorem State.addCmd_ing {x1 s} : (State.addCmd x1 s).ing = s.ing := rfl
@[simp] theorem State.addCmd_plc {x1 s} : (State.addCmd x1 s).plc = s.plc := rfl
@[simp] theorem State.addCmd_rfx {x1 s} : (State.addCmd x1 s).rfx = s.rfx := rfl
@[simp] theorem State.addCmd_fse {x1 s} : (State.addCmd x1 s).fse = s.fse := rfl
@[simp] theorem State.addCmd_msh {x1 s} : (State.addCmd x1 s).msh = s.msh := rfl
@[simp] theorem State.addCmd_cod {x1 s} : (State.addCmd x1 s).cod = s.cod := rfl
@[simp] theorem State.addCmd_arc {x1 s} : (State.addCmd x1 s).arc = s.arc := rfl
@[simp] theorem State.addCmd_los {x1 s} : (State.addCmd x1 s).los = s.los := rfl
@[simp] theorem State.addCmd_met {x1 s} : (State.addCmd x1 s).met = s.met := rfl
@[simp] theorem State.addCmd_bil {x1 s} : (State.addCmd x1 s).bil = s.bil := rfl
@[simp] theorem State.addCmd_par {x1 s} : (State.addCmd x1 s).par = s.par := rfl
@[simp] theorem State.addCmd_upd {x1 s} : (State.addCmd x1 s).upd = s.upd := rfl
@[simp] theorem State.addCmd_svc {x1 s} : (State.addCmd x1 s).svc = s.svc := rfl

@[simp] theorem State.setLos_pending {x1 s} : (State.setLos x1 s).pending = s.pending := rfl
@[simp] theorem State.setLos_regs {x1 s} : (State.setLos x1 s).regs = s.regs := rfl
@[simp] theorem State.setLos_out {x1 s} : (State.setLos x1 s).out = s.out := rfl
@[simp] theorem State.setLos_freeCtr {x1 s} : (State.setLos x1 s).freeCtr = s.freeCtr := rfl
@[simp] theorem State.setLos_dev {x1 s} : (State.setLos x1 s).dev = s.dev := rfl
@[simp] theorem State.setLos_seam {x1 s} : (State.setLos x1 s).seam = s.seam := rfl
@[simp] theorem State.setLos_cmd {x1 s} : (State.setLos x1 s).cmd = s.cmd := rfl
@[simp] theorem State.setLos_hbr {x1 s} : (State.setLos x1 s).hbr = s.hbr := rfl
@[simp] theorem State.setLos_fab {x1 s} : (State.setLos x1 s).fab = s.fab := rfl
@[simp] theorem State.setLos_vin {x1 s} : (State.setLos x1 s).vin = s.vin := rfl
@[simp] theorem State.setLos_pwr {x1 s} : (State.setLos x1 s).pwr = s.pwr := rfl
@[simp] theorem State.setLos_aon {x1 s} : (State.setLos x1 s).aon = s.aon := rfl
@[simp] theorem State.setLos_evr {x1 s} : (State.setLos x1 s).evr = s.evr := rfl
@[simp] theorem State.setLos_tim {x1 s} : (State.setLos x1 s).tim = s.tim := rfl
@[simp] theorem State.setLos_kvt {x1 s} : (State.setLos x1 s).kvt = s.kvt := rfl
@[simp] theorem State.setLos_ing {x1 s} : (State.setLos x1 s).ing = s.ing := rfl
@[simp] theorem State.setLos_plc {x1 s} : (State.setLos x1 s).plc = s.plc := rfl
@[simp] theorem State.setLos_rfx {x1 s} : (State.setLos x1 s).rfx = s.rfx := rfl
@[simp] theorem State.setLos_fse {x1 s} : (State.setLos x1 s).fse = s.fse := rfl
@[simp] theorem State.setLos_msh {x1 s} : (State.setLos x1 s).msh = s.msh := rfl
@[simp] theorem State.setLos_cod {x1 s} : (State.setLos x1 s).cod = s.cod := rfl
@[simp] theorem State.setLos_arc {x1 s} : (State.setLos x1 s).arc = s.arc := rfl
@[simp] theorem State.setLos_met {x1 s} : (State.setLos x1 s).met = s.met := rfl
@[simp] theorem State.setLos_bil {x1 s} : (State.setLos x1 s).bil = s.bil := rfl
@[simp] theorem State.setLos_par {x1 s} : (State.setLos x1 s).par = s.par := rfl
@[simp] theorem State.setLos_upd {x1 s} : (State.setLos x1 s).upd = s.upd := rfl
@[simp] theorem State.setLos_svc {x1 s} : (State.setLos x1 s).svc = s.svc := rfl
@[simp] theorem State.setLos_los {x1 s} : (State.setLos x1 s).los = x1 s.los := rfl

@[simp] theorem State.setRfx_pending {x1 s} : (State.setRfx x1 s).pending = s.pending := rfl
@[simp] theorem State.setRfx_regs {x1 s} : (State.setRfx x1 s).regs = s.regs := rfl
@[simp] theorem State.setRfx_out {x1 s} : (State.setRfx x1 s).out = s.out := rfl
@[simp] theorem State.setRfx_freeCtr {x1 s} : (State.setRfx x1 s).freeCtr = s.freeCtr := rfl
@[simp] theorem State.setRfx_dev {x1 s} : (State.setRfx x1 s).dev = s.dev := rfl
@[simp] theorem State.setRfx_seam {x1 s} : (State.setRfx x1 s).seam = s.seam := rfl
@[simp] theorem State.setRfx_cmd {x1 s} : (State.setRfx x1 s).cmd = s.cmd := rfl
@[simp] theorem State.setRfx_hbr {x1 s} : (State.setRfx x1 s).hbr = s.hbr := rfl
@[simp] theorem State.setRfx_fab {x1 s} : (State.setRfx x1 s).fab = s.fab := rfl
@[simp] theorem State.setRfx_vin {x1 s} : (State.setRfx x1 s).vin = s.vin := rfl
@[simp] theorem State.setRfx_pwr {x1 s} : (State.setRfx x1 s).pwr = s.pwr := rfl
@[simp] theorem State.setRfx_aon {x1 s} : (State.setRfx x1 s).aon = s.aon := rfl
@[simp] theorem State.setRfx_evr {x1 s} : (State.setRfx x1 s).evr = s.evr := rfl
@[simp] theorem State.setRfx_tim {x1 s} : (State.setRfx x1 s).tim = s.tim := rfl
@[simp] theorem State.setRfx_kvt {x1 s} : (State.setRfx x1 s).kvt = s.kvt := rfl
@[simp] theorem State.setRfx_ing {x1 s} : (State.setRfx x1 s).ing = s.ing := rfl
@[simp] theorem State.setRfx_plc {x1 s} : (State.setRfx x1 s).plc = s.plc := rfl
@[simp] theorem State.setRfx_fse {x1 s} : (State.setRfx x1 s).fse = s.fse := rfl
@[simp] theorem State.setRfx_msh {x1 s} : (State.setRfx x1 s).msh = s.msh := rfl
@[simp] theorem State.setRfx_cod {x1 s} : (State.setRfx x1 s).cod = s.cod := rfl
@[simp] theorem State.setRfx_arc {x1 s} : (State.setRfx x1 s).arc = s.arc := rfl
@[simp] theorem State.setRfx_los {x1 s} : (State.setRfx x1 s).los = s.los := rfl
@[simp] theorem State.setRfx_met {x1 s} : (State.setRfx x1 s).met = s.met := rfl
@[simp] theorem State.setRfx_bil {x1 s} : (State.setRfx x1 s).bil = s.bil := rfl
@[simp] theorem State.setRfx_par {x1 s} : (State.setRfx x1 s).par = s.par := rfl
@[simp] theorem State.setRfx_upd {x1 s} : (State.setRfx x1 s).upd = s.upd := rfl
@[simp] theorem State.setRfx_svc {x1 s} : (State.setRfx x1 s).svc = s.svc := rfl
@[simp] theorem State.setRfx_rfx {x1 s} : (State.setRfx x1 s).rfx = x1 s.rfx := rfl

@[simp] theorem State.drawn_pending {s} : (State.drawn s).pending = s.pending := rfl
@[simp] theorem State.drawn_regs {s} : (State.drawn s).regs = s.regs := rfl
@[simp] theorem State.drawn_out {s} : (State.drawn s).out = s.out := rfl
@[simp] theorem State.drawn_dev {s} : (State.drawn s).dev = s.dev := rfl
@[simp] theorem State.drawn_seam {s} : (State.drawn s).seam = s.seam := rfl
@[simp] theorem State.drawn_cmd {s} : (State.drawn s).cmd = s.cmd := rfl
@[simp] theorem State.drawn_hbr {s} : (State.drawn s).hbr = s.hbr := rfl
@[simp] theorem State.drawn_fab {s} : (State.drawn s).fab = s.fab := rfl
@[simp] theorem State.drawn_vin {s} : (State.drawn s).vin = s.vin := rfl
@[simp] theorem State.drawn_pwr {s} : (State.drawn s).pwr = s.pwr := rfl
@[simp] theorem State.drawn_aon {s} : (State.drawn s).aon = s.aon := rfl
@[simp] theorem State.drawn_evr {s} : (State.drawn s).evr = s.evr := rfl
@[simp] theorem State.drawn_tim {s} : (State.drawn s).tim = s.tim := rfl
@[simp] theorem State.drawn_kvt {s} : (State.drawn s).kvt = s.kvt := rfl
@[simp] theorem State.drawn_ing {s} : (State.drawn s).ing = s.ing := rfl
@[simp] theorem State.drawn_plc {s} : (State.drawn s).plc = s.plc := rfl
@[simp] theorem State.drawn_rfx {s} : (State.drawn s).rfx = s.rfx := rfl
@[simp] theorem State.drawn_fse {s} : (State.drawn s).fse = s.fse := rfl
@[simp] theorem State.drawn_msh {s} : (State.drawn s).msh = s.msh := rfl
@[simp] theorem State.drawn_cod {s} : (State.drawn s).cod = s.cod := rfl
@[simp] theorem State.drawn_arc {s} : (State.drawn s).arc = s.arc := rfl
@[simp] theorem State.drawn_los {s} : (State.drawn s).los = s.los := rfl
@[simp] theorem State.drawn_met {s} : (State.drawn s).met = s.met := rfl
@[simp] theorem State.drawn_bil {s} : (State.drawn s).bil = s.bil := rfl
@[simp] theorem State.drawn_par {s} : (State.drawn s).par = s.par := rfl
@[simp] theorem State.drawn_upd {s} : (State.drawn s).upd = s.upd := rfl
@[simp] theorem State.drawn_svc {s} : (State.drawn s).svc = s.svc := rfl

@[simp] theorem State.setSvc_pending {x1 s} : (State.setSvc x1 s).pending = s.pending := rfl
@[simp] theorem State.setSvc_regs {x1 s} : (State.setSvc x1 s).regs = s.regs := rfl
@[simp] theorem State.setSvc_out {x1 s} : (State.setSvc x1 s).out = s.out := rfl
@[simp] theorem State.setSvc_freeCtr {x1 s} : (State.setSvc x1 s).freeCtr = s.freeCtr := rfl
@[simp] theorem State.setSvc_dev {x1 s} : (State.setSvc x1 s).dev = s.dev := rfl
@[simp] theorem State.setSvc_seam {x1 s} : (State.setSvc x1 s).seam = s.seam := rfl
@[simp] theorem State.setSvc_cmd {x1 s} : (State.setSvc x1 s).cmd = s.cmd := rfl
@[simp] theorem State.setSvc_hbr {x1 s} : (State.setSvc x1 s).hbr = s.hbr := rfl
@[simp] theorem State.setSvc_fab {x1 s} : (State.setSvc x1 s).fab = s.fab := rfl
@[simp] theorem State.setSvc_vin {x1 s} : (State.setSvc x1 s).vin = s.vin := rfl
@[simp] theorem State.setSvc_pwr {x1 s} : (State.setSvc x1 s).pwr = s.pwr := rfl
@[simp] theorem State.setSvc_aon {x1 s} : (State.setSvc x1 s).aon = s.aon := rfl
@[simp] theorem State.setSvc_evr {x1 s} : (State.setSvc x1 s).evr = s.evr := rfl
@[simp] theorem State.setSvc_tim {x1 s} : (State.setSvc x1 s).tim = s.tim := rfl
@[simp] theorem State.setSvc_kvt {x1 s} : (State.setSvc x1 s).kvt = s.kvt := rfl
@[simp] theorem State.setSvc_ing {x1 s} : (State.setSvc x1 s).ing = s.ing := rfl
@[simp] theorem State.setSvc_plc {x1 s} : (State.setSvc x1 s).plc = s.plc := rfl
@[simp] theorem State.setSvc_rfx {x1 s} : (State.setSvc x1 s).rfx = s.rfx := rfl
@[simp] theorem State.setSvc_fse {x1 s} : (State.setSvc x1 s).fse = s.fse := rfl
@[simp] theorem State.setSvc_msh {x1 s} : (State.setSvc x1 s).msh = s.msh := rfl
@[simp] theorem State.setSvc_cod {x1 s} : (State.setSvc x1 s).cod = s.cod := rfl
@[simp] theorem State.setSvc_arc {x1 s} : (State.setSvc x1 s).arc = s.arc := rfl
@[simp] theorem State.setSvc_los {x1 s} : (State.setSvc x1 s).los = s.los := rfl
@[simp] theorem State.setSvc_met {x1 s} : (State.setSvc x1 s).met = s.met := rfl
@[simp] theorem State.setSvc_bil {x1 s} : (State.setSvc x1 s).bil = s.bil := rfl
@[simp] theorem State.setSvc_par {x1 s} : (State.setSvc x1 s).par = s.par := rfl
@[simp] theorem State.setSvc_upd {x1 s} : (State.setSvc x1 s).upd = s.upd := rfl
@[simp] theorem State.setSvc_svc {x1 s} : (State.setSvc x1 s).svc = x1 s.svc := rfl

@[simp] theorem State.setKey_pending {key w s} : (State.setKey key w s).pending = s.pending := rfl
@[simp] theorem State.setKey_out {key w s} : (State.setKey key w s).out = s.out := rfl
@[simp] theorem State.setKey_freeCtr {key w s} : (State.setKey key w s).freeCtr = s.freeCtr := rfl
@[simp] theorem State.setKey_dev {key w s} : (State.setKey key w s).dev = s.dev := rfl
@[simp] theorem State.setKey_seam {key w s} : (State.setKey key w s).seam = s.seam := rfl
@[simp] theorem State.setKey_cmd {key w s} : (State.setKey key w s).cmd = s.cmd := rfl
@[simp] theorem State.setKey_hbr {key w s} : (State.setKey key w s).hbr = s.hbr := rfl
@[simp] theorem State.setKey_fab {key w s} : (State.setKey key w s).fab = s.fab := rfl
@[simp] theorem State.setKey_vin {key w s} : (State.setKey key w s).vin = s.vin := rfl
@[simp] theorem State.setKey_pwr {key w s} : (State.setKey key w s).pwr = s.pwr := rfl
@[simp] theorem State.setKey_aon {key w s} : (State.setKey key w s).aon = s.aon := rfl
@[simp] theorem State.setKey_evr {key w s} : (State.setKey key w s).evr = s.evr := rfl
@[simp] theorem State.setKey_tim {key w s} : (State.setKey key w s).tim = s.tim := rfl
@[simp] theorem State.setKey_kvt {key w s} : (State.setKey key w s).kvt = s.kvt := rfl
@[simp] theorem State.setKey_ing {key w s} : (State.setKey key w s).ing = s.ing := rfl
@[simp] theorem State.setKey_plc {key w s} : (State.setKey key w s).plc = s.plc := rfl
@[simp] theorem State.setKey_rfx {key w s} : (State.setKey key w s).rfx = s.rfx := rfl
@[simp] theorem State.setKey_fse {key w s} : (State.setKey key w s).fse = s.fse := rfl
@[simp] theorem State.setKey_msh {key w s} : (State.setKey key w s).msh = s.msh := rfl
@[simp] theorem State.setKey_cod {key w s} : (State.setKey key w s).cod = s.cod := rfl
@[simp] theorem State.setKey_arc {key w s} : (State.setKey key w s).arc = s.arc := rfl
@[simp] theorem State.setKey_los {key w s} : (State.setKey key w s).los = s.los := rfl
@[simp] theorem State.setKey_met {key w s} : (State.setKey key w s).met = s.met := rfl
@[simp] theorem State.setKey_bil {key w s} : (State.setKey key w s).bil = s.bil := rfl
@[simp] theorem State.setKey_par {key w s} : (State.setKey key w s).par = s.par := rfl
@[simp] theorem State.setKey_upd {key w s} : (State.setKey key w s).upd = s.upd := rfl
@[simp] theorem State.setKey_svc {key w s} : (State.setKey key w s).svc = s.svc := rfl

@[simp] theorem State.setReg_pending {off v s} : (State.setReg off v s).pending = s.pending := State.setKey_pending
@[simp] theorem State.setReg_out {off v s} : (State.setReg off v s).out = s.out := State.setKey_out
@[simp] theorem State.setReg_freeCtr {off v s} : (State.setReg off v s).freeCtr = s.freeCtr := State.setKey_freeCtr
@[simp] theorem State.setReg_dev {off v s} : (State.setReg off v s).dev = s.dev := State.setKey_dev
@[simp] theorem State.setReg_seam {off v s} : (State.setReg off v s).seam = s.seam := State.setKey_seam
@[simp] theorem State.setReg_cmd {off v s} : (State.setReg off v s).cmd = s.cmd := State.setKey_cmd
@[simp] theorem State.setReg_hbr {off v s} : (State.setReg off v s).hbr = s.hbr := State.setKey_hbr
@[simp] theorem State.setReg_fab {off v s} : (State.setReg off v s).fab = s.fab := State.setKey_fab
@[simp] theorem State.setReg_vin {off v s} : (State.setReg off v s).vin = s.vin := State.setKey_vin
@[simp] theorem State.setReg_pwr {off v s} : (State.setReg off v s).pwr = s.pwr := State.setKey_pwr
@[simp] theorem State.setReg_aon {off v s} : (State.setReg off v s).aon = s.aon := State.setKey_aon
@[simp] theorem State.setReg_evr {off v s} : (State.setReg off v s).evr = s.evr := State.setKey_evr
@[simp] theorem State.setReg_tim {off v s} : (State.setReg off v s).tim = s.tim := State.setKey_tim
@[simp] theorem State.setReg_kvt {off v s} : (State.setReg off v s).kvt = s.kvt := State.setKey_kvt
@[simp] theorem State.setReg_ing {off v s} : (State.setReg off v s).ing = s.ing := State.setKey_ing
@[simp] theorem State.setReg_plc {off v s} : (State.setReg off v s).plc = s.plc := State.setKey_plc
@[simp] theorem State.setReg_rfx {off v s} : (State.setReg off v s).rfx = s.rfx := State.setKey_rfx
@[simp] theorem State.setReg_fse {off v s} : (State.setReg off v s).fse = s.fse := State.setKey_fse
@[simp] theorem State.setReg_msh {off v s} : (State.setReg off v s).msh = s.msh := State.setKey_msh
@[simp] theorem State.setReg_cod {off v s} : (State.setReg off v s).cod = s.cod := State.setKey_cod
@[simp] theorem State.setReg_arc {off v s} : (State.setReg off v s).arc = s.arc := State.setKey_arc
@[simp] theorem State.setReg_los {off v s} : (State.setReg off v s).los = s.los := State.setKey_los
@[simp] theorem State.setReg_met {off v s} : (State.setReg off v s).met = s.met := State.setKey_met
@[simp] theorem State.setReg_bil {off v s} : (State.setReg off v s).bil = s.bil := State.setKey_bil
@[simp] theorem State.setReg_par {off v s} : (State.setReg off v s).par = s.par := State.setKey_par
@[simp] theorem State.setReg_upd {off v s} : (State.setReg off v s).upd = s.upd := State.setKey_upd
@[simp] theorem State.setReg_svc {off v s} : (State.setReg off v s).svc = s.svc := State.setKey_svc

@[simp] theorem State.setRegI_pending {off idx v s} : (State.setRegI off idx v s).pending = s.pending := State.setKey_pending
@[simp] theorem State.setRegI_out {off idx v s} : (State.setRegI off idx v s).out = s.out := State.setKey_out
@[simp] theorem State.setRegI_freeCtr {off idx v s} : (State.setRegI off idx v s).freeCtr = s.freeCtr := State.setKey_freeCtr
@[simp] theorem State.setRegI_dev {off idx v s} : (State.setRegI off idx v s).dev = s.dev := State.setKey_dev
@[simp] theorem State.setRegI_seam {off idx v s} : (State.setRegI off idx v s).seam = s.seam := State.setKey_seam
@[simp] theorem State.setRegI_cmd {off idx v s} : (State.setRegI off idx v s).cmd = s.cmd := State.setKey_cmd
@[simp] theorem State.setRegI_hbr {off idx v s} : (State.setRegI off idx v s).hbr = s.hbr := State.setKey_hbr
@[simp] theorem State.setRegI_fab {off idx v s} : (State.setRegI off idx v s).fab = s.fab := State.setKey_fab
@[simp] theorem State.setRegI_vin {off idx v s} : (State.setRegI off idx v s).vin = s.vin := State.setKey_vin
@[simp] theorem State.setRegI_pwr {off idx v s} : (State.setRegI off idx v s).pwr = s.pwr := State.setKey_pwr
@[simp] theorem State.setRegI_aon {off idx v s} : (State.setRegI off idx v s).aon = s.aon := State.setKey_aon
@[simp] theorem State.setRegI_evr {off idx v s} : (State.setRegI off idx v s).evr = s.evr := State.setKey_evr
@[simp] theorem State.setRegI_tim {off idx v s} : (State.setRegI off idx v s).tim = s.tim := State.setKey_tim
@[simp] theorem State.setRegI_kvt {off idx v s} : (State.setRegI off idx v s).kvt = s.kvt := State.setKey_kvt
@[simp] theorem State.setRegI_ing {off idx v s} : (State.setRegI off idx v s).ing = s.ing := State.setKey_ing
@[simp] theorem State.setRegI_plc {off idx v s} : (State.setRegI off idx v s).plc = s.plc := State.setKey_plc
@[simp] theorem State.setRegI_rfx {off idx v s} : (State.setRegI off idx v s).rfx = s.rfx := State.setKey_rfx
@[simp] theorem State.setRegI_fse {off idx v s} : (State.setRegI off idx v s).fse = s.fse := State.setKey_fse
@[simp] theorem State.setRegI_msh {off idx v s} : (State.setRegI off idx v s).msh = s.msh := State.setKey_msh
@[simp] theorem State.setRegI_cod {off idx v s} : (State.setRegI off idx v s).cod = s.cod := State.setKey_cod
@[simp] theorem State.setRegI_arc {off idx v s} : (State.setRegI off idx v s).arc = s.arc := State.setKey_arc
@[simp] theorem State.setRegI_los {off idx v s} : (State.setRegI off idx v s).los = s.los := State.setKey_los
@[simp] theorem State.setRegI_met {off idx v s} : (State.setRegI off idx v s).met = s.met := State.setKey_met
@[simp] theorem State.setRegI_bil {off idx v s} : (State.setRegI off idx v s).bil = s.bil := State.setKey_bil
@[simp] theorem State.setRegI_par {off idx v s} : (State.setRegI off idx v s).par = s.par := State.setKey_par
@[simp] theorem State.setRegI_upd {off idx v s} : (State.setRegI off idx v s).upd = s.upd := State.setKey_upd
@[simp] theorem State.setRegI_svc {off idx v s} : (State.setRegI off idx v s).svc = s.svc := State.setKey_svc

@[simp] theorem State.bumpBy_pending {off n s} : (State.bumpBy off n s).pending = s.pending := State.setReg_pending
@[simp] theorem State.bumpBy_out {off n s} : (State.bumpBy off n s).out = s.out := State.setReg_out
@[simp] theorem State.bumpBy_freeCtr {off n s} : (State.bumpBy off n s).freeCtr = s.freeCtr := State.setReg_freeCtr
@[simp] theorem State.bumpBy_dev {off n s} : (State.bumpBy off n s).dev = s.dev := State.setReg_dev
@[simp] theorem State.bumpBy_seam {off n s} : (State.bumpBy off n s).seam = s.seam := State.setReg_seam
@[simp] theorem State.bumpBy_cmd {off n s} : (State.bumpBy off n s).cmd = s.cmd := State.setReg_cmd
@[simp] theorem State.bumpBy_hbr {off n s} : (State.bumpBy off n s).hbr = s.hbr := State.setReg_hbr
@[simp] theorem State.bumpBy_fab {off n s} : (State.bumpBy off n s).fab = s.fab := State.setReg_fab
@[simp] theorem State.bumpBy_vin {off n s} : (State.bumpBy off n s).vin = s.vin := State.setReg_vin
@[simp] theorem State.bumpBy_pwr {off n s} : (State.bumpBy off n s).pwr = s.pwr := State.setReg_pwr
@[simp] theorem State.bumpBy_aon {off n s} : (State.bumpBy off n s).aon = s.aon := State.setReg_aon
@[simp] theorem State.bumpBy_evr {off n s} : (State.bumpBy off n s).evr = s.evr := State.setReg_evr
@[simp] theorem State.bumpBy_tim {off n s} : (State.bumpBy off n s).tim = s.tim := State.setReg_tim
@[simp] theorem State.bumpBy_kvt {off n s} : (State.bumpBy off n s).kvt = s.kvt := State.setReg_kvt
@[simp] theorem State.bumpBy_ing {off n s} : (State.bumpBy off n s).ing = s.ing := State.setReg_ing
@[simp] theorem State.bumpBy_plc {off n s} : (State.bumpBy off n s).plc = s.plc := State.setReg_plc
@[simp] theorem State.bumpBy_rfx {off n s} : (State.bumpBy off n s).rfx = s.rfx := State.setReg_rfx
@[simp] theorem State.bumpBy_fse {off n s} : (State.bumpBy off n s).fse = s.fse := State.setReg_fse
@[simp] theorem State.bumpBy_msh {off n s} : (State.bumpBy off n s).msh = s.msh := State.setReg_msh
@[simp] theorem State.bumpBy_cod {off n s} : (State.bumpBy off n s).cod = s.cod := State.setReg_cod
@[simp] theorem State.bumpBy_arc {off n s} : (State.bumpBy off n s).arc = s.arc := State.setReg_arc
@[simp] theorem State.bumpBy_los {off n s} : (State.bumpBy off n s).los = s.los := State.setReg_los
@[simp] theorem State.bumpBy_met {off n s} : (State.bumpBy off n s).met = s.met := State.setReg_met
@[simp] theorem State.bumpBy_bil {off n s} : (State.bumpBy off n s).bil = s.bil := State.setReg_bil
@[simp] theorem State.bumpBy_par {off n s} : (State.bumpBy off n s).par = s.par := State.setReg_par
@[simp] theorem State.bumpBy_upd {off n s} : (State.bumpBy off n s).upd = s.upd := State.setReg_upd
@[simp] theorem State.bumpBy_svc {off n s} : (State.bumpBy off n s).svc = s.svc := State.setReg_svc

@[simp] theorem State.bump_pending {off s} : (State.bump off s).pending = s.pending := State.bumpBy_pending
@[simp] theorem State.bump_out {off s} : (State.bump off s).out = s.out := State.bumpBy_out
@[simp] theorem State.bump_freeCtr {off s} : (State.bump off s).freeCtr = s.freeCtr := State.bumpBy_freeCtr
@[simp] theorem State.bump_dev {off s} : (State.bump off s).dev = s.dev := State.bumpBy_dev
@[simp] theorem State.bump_seam {off s} : (State.bump off s).seam = s.seam := State.bumpBy_seam
@[simp] theorem State.bump_cmd {off s} : (State.bump off s).cmd = s.cmd := State.bumpBy_cmd
@[simp] theorem State.bump_hbr {off s} : (State.bump off s).hbr = s.hbr := State.bumpBy_hbr
@[simp] theorem State.bump_fab {off s} : (State.bump off s).fab = s.fab := State.bumpBy_fab
@[simp] theorem State.bump_vin {off s} : (State.bump off s).vin = s.vin := State.bumpBy_vin
@[simp] theorem State.bump_pwr {off s} : (State.bump off s).pwr = s.pwr := State.bumpBy_pwr
@[simp] theorem State.bump_aon {off s} : (State.bump off s).aon = s.aon := State.bumpBy_aon
@[simp] theorem State.bump_evr {off s} : (State.bump off s).evr = s.evr := State.bumpBy_evr
@[simp] theorem State.bump_tim {off s} : (State.bump off s).tim = s.tim := State.bumpBy_tim
@[simp] theorem State.bump_kvt {off s} : (State.bump off s).kvt = s.kvt := State.bumpBy_kvt
@[simp] theorem State.bump_ing {off s} : (State.bump off s).ing = s.ing := State.bumpBy_ing
@[simp] theorem State.bump_plc {off s} : (State.bump off s).plc = s.plc := State.bumpBy_plc
@[simp] theorem State.bump_rfx {off s} : (State.bump off s).rfx = s.rfx := State.bumpBy_rfx
@[simp] theorem State.bump_fse {off s} : (State.bump off s).fse = s.fse := State.bumpBy_fse
@[simp] theorem State.bump_msh {off s} : (State.bump off s).msh = s.msh := State.bumpBy_msh
@[simp] theorem State.bump_cod {off s} : (State.bump off s).cod = s.cod := State.bumpBy_cod
@[simp] theorem State.bump_arc {off s} : (State.bump off s).arc = s.arc := State.bumpBy_arc
@[simp] theorem State.bump_los {off s} : (State.bump off s).los = s.los := State.bumpBy_los
@[simp] theorem State.bump_met {off s} : (State.bump off s).met = s.met := State.bumpBy_met
@[simp] theorem State.bump_bil {off s} : (State.bump off s).bil = s.bil := State.bumpBy_bil
@[simp] theorem State.bump_par {off s} : (State.bump off s).par = s.par := State.bumpBy_par
@[simp] theorem State.bump_upd {off s} : (State.bump off s).upd = s.upd := State.bumpBy_upd
@[simp] theorem State.bump_svc {off s} : (State.bump off s).svc = s.svc := State.bumpBy_svc

@[simp] theorem State.bumpI_pending {off idx s} : (State.bumpI off idx s).pending = s.pending := State.setRegI_pending
@[simp] theorem State.bumpI_out {off idx s} : (State.bumpI off idx s).out = s.out := State.setRegI_out
@[simp] theorem State.bumpI_freeCtr {off idx s} : (State.bumpI off idx s).freeCtr = s.freeCtr := State.setRegI_freeCtr
@[simp] theorem State.bumpI_dev {off idx s} : (State.bumpI off idx s).dev = s.dev := State.setRegI_dev
@[simp] theorem State.bumpI_seam {off idx s} : (State.bumpI off idx s).seam = s.seam := State.setRegI_seam
@[simp] theorem State.bumpI_cmd {off idx s} : (State.bumpI off idx s).cmd = s.cmd := State.setRegI_cmd
@[simp] theorem State.bumpI_hbr {off idx s} : (State.bumpI off idx s).hbr = s.hbr := State.setRegI_hbr
@[simp] theorem State.bumpI_fab {off idx s} : (State.bumpI off idx s).fab = s.fab := State.setRegI_fab
@[simp] theorem State.bumpI_vin {off idx s} : (State.bumpI off idx s).vin = s.vin := State.setRegI_vin
@[simp] theorem State.bumpI_pwr {off idx s} : (State.bumpI off idx s).pwr = s.pwr := State.setRegI_pwr
@[simp] theorem State.bumpI_aon {off idx s} : (State.bumpI off idx s).aon = s.aon := State.setRegI_aon
@[simp] theorem State.bumpI_evr {off idx s} : (State.bumpI off idx s).evr = s.evr := State.setRegI_evr
@[simp] theorem State.bumpI_tim {off idx s} : (State.bumpI off idx s).tim = s.tim := State.setRegI_tim
@[simp] theorem State.bumpI_kvt {off idx s} : (State.bumpI off idx s).kvt = s.kvt := State.setRegI_kvt
@[simp] theorem State.bumpI_ing {off idx s} : (State.bumpI off idx s).ing = s.ing := State.setRegI_ing
@[simp] theorem State.bumpI_plc {off idx s} : (State.bumpI off idx s).plc = s.plc := State.setRegI_plc
@[simp] theorem State.bumpI_rfx {off idx s} : (State.bumpI off idx s).rfx = s.rfx := State.setRegI_rfx
@[simp] theorem State.bumpI_fse {off idx s} : (State.bumpI off idx s).fse = s.fse := State.setRegI_fse
@[simp] theorem State.bumpI_msh {off idx s} : (State.bumpI off idx s).msh = s.msh := State.setRegI_msh
@[simp] theorem State.bumpI_cod {off idx s} : (State.bumpI off idx s).cod = s.cod := State.setRegI_cod
@[simp] theorem State.bumpI_arc {off idx s} : (State.bumpI off idx s).arc = s.arc := State.setRegI_arc
@[simp] theorem State.bumpI_los {off idx s} : (State.bumpI off idx s).los = s.los := State.setRegI_los
@[simp] theorem State.bumpI_met {off idx s} : (State.bumpI off idx s).met = s.met := State.setRegI_met
@[simp] theorem State.bumpI_bil {off idx s} : (State.bumpI off idx s).bil = s.bil := State.setRegI_bil
@[simp] theorem State.bumpI_par {off idx s} : (State.bumpI off idx s).par = s.par := State.setRegI_par
@[simp] theorem State.bumpI_upd {off idx s} : (State.bumpI off idx s).upd = s.upd := State.setRegI_upd
@[simp] theorem State.bumpI_svc {off idx s} : (State.bumpI off idx s).svc = s.svc := State.setRegI_svc

@[simp] theorem State.setRegBit_pending {off i b s} : (State.setRegBit off i b s).pending = s.pending := State.setReg_pending
@[simp] theorem State.setRegBit_out {off i b s} : (State.setRegBit off i b s).out = s.out := State.setReg_out
@[simp] theorem State.setRegBit_freeCtr {off i b s} : (State.setRegBit off i b s).freeCtr = s.freeCtr := State.setReg_freeCtr
@[simp] theorem State.setRegBit_dev {off i b s} : (State.setRegBit off i b s).dev = s.dev := State.setReg_dev
@[simp] theorem State.setRegBit_seam {off i b s} : (State.setRegBit off i b s).seam = s.seam := State.setReg_seam
@[simp] theorem State.setRegBit_cmd {off i b s} : (State.setRegBit off i b s).cmd = s.cmd := State.setReg_cmd
@[simp] theorem State.setRegBit_hbr {off i b s} : (State.setRegBit off i b s).hbr = s.hbr := State.setReg_hbr
@[simp] theorem State.setRegBit_fab {off i b s} : (State.setRegBit off i b s).fab = s.fab := State.setReg_fab
@[simp] theorem State.setRegBit_vin {off i b s} : (State.setRegBit off i b s).vin = s.vin := State.setReg_vin
@[simp] theorem State.setRegBit_pwr {off i b s} : (State.setRegBit off i b s).pwr = s.pwr := State.setReg_pwr
@[simp] theorem State.setRegBit_aon {off i b s} : (State.setRegBit off i b s).aon = s.aon := State.setReg_aon
@[simp] theorem State.setRegBit_evr {off i b s} : (State.setRegBit off i b s).evr = s.evr := State.setReg_evr
@[simp] theorem State.setRegBit_tim {off i b s} : (State.setRegBit off i b s).tim = s.tim := State.setReg_tim
@[simp] theorem State.setRegBit_kvt {off i b s} : (State.setRegBit off i b s).kvt = s.kvt := State.setReg_kvt
@[simp] theorem State.setRegBit_ing {off i b s} : (State.setRegBit off i b s).ing = s.ing := State.setReg_ing
@[simp] theorem State.setRegBit_plc {off i b s} : (State.setRegBit off i b s).plc = s.plc := State.setReg_plc
@[simp] theorem State.setRegBit_rfx {off i b s} : (State.setRegBit off i b s).rfx = s.rfx := State.setReg_rfx
@[simp] theorem State.setRegBit_fse {off i b s} : (State.setRegBit off i b s).fse = s.fse := State.setReg_fse
@[simp] theorem State.setRegBit_msh {off i b s} : (State.setRegBit off i b s).msh = s.msh := State.setReg_msh
@[simp] theorem State.setRegBit_cod {off i b s} : (State.setRegBit off i b s).cod = s.cod := State.setReg_cod
@[simp] theorem State.setRegBit_arc {off i b s} : (State.setRegBit off i b s).arc = s.arc := State.setReg_arc
@[simp] theorem State.setRegBit_los {off i b s} : (State.setRegBit off i b s).los = s.los := State.setReg_los
@[simp] theorem State.setRegBit_met {off i b s} : (State.setRegBit off i b s).met = s.met := State.setReg_met
@[simp] theorem State.setRegBit_bil {off i b s} : (State.setRegBit off i b s).bil = s.bil := State.setReg_bil
@[simp] theorem State.setRegBit_par {off i b s} : (State.setRegBit off i b s).par = s.par := State.setReg_par
@[simp] theorem State.setRegBit_upd {off i b s} : (State.setRegBit off i b s).upd = s.upd := State.setReg_upd
@[simp] theorem State.setRegBit_svc {off i b s} : (State.setRegBit off i b s).svc = s.svc := State.setReg_svc

@[simp] theorem State.maxReg_pending {off v s} : (State.maxReg off v s).pending = s.pending := State.setReg_pending
@[simp] theorem State.maxReg_out {off v s} : (State.maxReg off v s).out = s.out := State.setReg_out
@[simp] theorem State.maxReg_freeCtr {off v s} : (State.maxReg off v s).freeCtr = s.freeCtr := State.setReg_freeCtr
@[simp] theorem State.maxReg_dev {off v s} : (State.maxReg off v s).dev = s.dev := State.setReg_dev
@[simp] theorem State.maxReg_seam {off v s} : (State.maxReg off v s).seam = s.seam := State.setReg_seam
@[simp] theorem State.maxReg_cmd {off v s} : (State.maxReg off v s).cmd = s.cmd := State.setReg_cmd
@[simp] theorem State.maxReg_hbr {off v s} : (State.maxReg off v s).hbr = s.hbr := State.setReg_hbr
@[simp] theorem State.maxReg_fab {off v s} : (State.maxReg off v s).fab = s.fab := State.setReg_fab
@[simp] theorem State.maxReg_vin {off v s} : (State.maxReg off v s).vin = s.vin := State.setReg_vin
@[simp] theorem State.maxReg_pwr {off v s} : (State.maxReg off v s).pwr = s.pwr := State.setReg_pwr
@[simp] theorem State.maxReg_aon {off v s} : (State.maxReg off v s).aon = s.aon := State.setReg_aon
@[simp] theorem State.maxReg_evr {off v s} : (State.maxReg off v s).evr = s.evr := State.setReg_evr
@[simp] theorem State.maxReg_tim {off v s} : (State.maxReg off v s).tim = s.tim := State.setReg_tim
@[simp] theorem State.maxReg_kvt {off v s} : (State.maxReg off v s).kvt = s.kvt := State.setReg_kvt
@[simp] theorem State.maxReg_ing {off v s} : (State.maxReg off v s).ing = s.ing := State.setReg_ing
@[simp] theorem State.maxReg_plc {off v s} : (State.maxReg off v s).plc = s.plc := State.setReg_plc
@[simp] theorem State.maxReg_rfx {off v s} : (State.maxReg off v s).rfx = s.rfx := State.setReg_rfx
@[simp] theorem State.maxReg_fse {off v s} : (State.maxReg off v s).fse = s.fse := State.setReg_fse
@[simp] theorem State.maxReg_msh {off v s} : (State.maxReg off v s).msh = s.msh := State.setReg_msh
@[simp] theorem State.maxReg_cod {off v s} : (State.maxReg off v s).cod = s.cod := State.setReg_cod
@[simp] theorem State.maxReg_arc {off v s} : (State.maxReg off v s).arc = s.arc := State.setReg_arc
@[simp] theorem State.maxReg_los {off v s} : (State.maxReg off v s).los = s.los := State.setReg_los
@[simp] theorem State.maxReg_met {off v s} : (State.maxReg off v s).met = s.met := State.setReg_met
@[simp] theorem State.maxReg_bil {off v s} : (State.maxReg off v s).bil = s.bil := State.setReg_bil
@[simp] theorem State.maxReg_par {off v s} : (State.maxReg off v s).par = s.par := State.setReg_par
@[simp] theorem State.maxReg_upd {off v s} : (State.maxReg off v s).upd = s.upd := State.setReg_upd
@[simp] theorem State.maxReg_svc {off v s} : (State.maxReg off v s).svc = s.svc := State.setReg_svc

end Sys2Proof.Machine
end

