-- ==== Sys2Proof/WellFormed.lean ====
section
/-! DEFINITION. The operands the outside world can give: which commands of `Instr` are well formed. Every arm of the check bounds an
operand of an event by the number of the things it names (queues, functions, vectors, ports, drives, endpoints), and an operand of a
host command by the width of its field, since a value out of range is answered by status; the machine itself never depends on the check. -/
set_option Elab.async false
namespace Sys2Proof

/-- A queue of the 257, a 16-bit TAG, an instance of the 16 (R46, R57, R524). -/
def CmdRef.wf (c : CmdRef) : Bool := decide (c.queue < 257) && decide (c.tag < 65536) && decide (c.inst < 16)

/-- A queue of the 257 and a 16-bit TAG (R57). -/
def CmdKey.wf (k : CmdKey) : Bool := decide (k.queue < 257) && decide (k.tag < 65536)

/-- A function of the 17 and one of its three BARs, or its configuration space, the length a whole number of DWORDs (R85, R92). -/
def BarAccess.wf (a : BarAccess) : Bool :=
  decide (a.fn < 17) && (a.bar == 0 || a.bar == 2 || a.bar == 4 || a.bar == 8) && decide (a.len % 4 = 0)

/-- A function of the 17 and a value of 32 bits (R50). -/
def Doorbell.wf (d : Doorbell) : Bool := decide (d.fn < 17) && decide (d.value < 2 ^ 32)

/-- The three digests of 48 bytes and the 64-bit identifier (R411). -/
def AuthIn.wf (a : AuthIn) : Bool :=
  decide (a.digestA.length = 48) && decide (a.digestB.length = 48) && decide (a.keyDigest.length = 48) && decide (a.eui < 2 ^ 64)

/-- The fields of a key address (R428). -/
def KeyAddr.wf (a : KeyAddr) : Bool := decide (a.kind < 8) && decide (a.ref < 256) && decide (a.inst < 16)

/-- A recorder of the eight and a source window (R559, R560). -/
def EventIn.wf (e : EventIn) : Bool := decide (e.recorder < 8) && decide (e.source < 23) && e.inst.all (fun i => decide (i < 16))

/-- Every operand of the command lies in the range the manual gives it. -/
def Instr.wf (i : Instr) : Bool :=
  match i with
  | .hostRegisterWrite a _ => a.wf
  | .rcRegisterRead a lanes => a.wf && decide (lanes < 256)
  | .lowWordRead fn off _ => decide (fn < 17) && decide (off < 67108864)
  | .lowWordWrite fn off _ => decide (fn < 17) && decide (off < 67108864)
  | .highWordWrite fn off _ => decide (fn < 17) && decide (off < 67108864)
  | .unitLockWrite unit _ => decide (unit < 23)
  | .seamWindowRead fn off => decide (fn < 17) && decide (off < 67108864)
  | .seamWindowReadResponse => true
  | .seamPacketReceived _ cls _ _ _ => decide (cls < 8)
  | .ownershipHeartbeatSend _ => true
  | .ownershipHeartbeatReceived _ _ => true
  | .heartbeatTimeout _ => true
  | .sqTailDoorbell d => d.wf
  | .cqHeadDoorbell d => d.wf
  | .queueEnable queue _ => decide (queue < 257)
  | .queueDisable queue _ => decide (queue < 257)
  | .descriptorFetch => true
  | .descriptorReceived queue bytes _ _ => decide (queue < 257) && decide (bytes.length = 64)
  | .commandDispatch queue => decide (queue < 257)
  | .commandResult _ => true
  | .cqCoalesceTimeout queue => decide (queue < 257)
  | .glbIdentify c => c.wf
  | .glbStatus c => c.wf
  | .glbStateSet c _ => c.wf
  | .glbRecoveryEnter c _ _ => c.wf
  | .glbLaneResync c _ _ => c.wf
  | .glbNop c => c.wf
  | .glbTamperAck c auth => c.wf && auth.wf
  | .partReadCompletion _ _ => true
  | .partReadError _ _ _ => true
  | .completionTimeout _ _ _ => true
  | .creditStall => true
  | .backoffExpiry => true
  | .stallAbsent => true
  | .creditsReturn => true
  | .linkDown lost => lost.all CmdKey.wf
  | .perstAssert lost => lost.all CmdKey.wf
  | .busMasterClear fn lost => decide (fn < 17) && lost.all CmdKey.wf
  | .d3hotEntry fn lost => decide (fn < 17) && lost.all CmdKey.wf
  | .flrPf0 lost => lost.all CmdKey.wf
  | .flrVf k lost => decide (k < 17) && lost.all CmdKey.wf
  | .vfEnableSet numVfs _ => decide (numVfs < 65536)
  | .functionDisable numVfs => decide (numVfs < 65536)
  | .msixVectorUnmask vector => decide (vector < 2048)
  | .noticeRingEnable ring _ => decide (ring < 17)
  | .noticeRingDisable ring _ => decide (ring < 17)
  | .noticeHeadDoorbell d => d.wf
  | .nrCoalesceTimeout ring => decide (ring < 17)
  | .heldMove fn => decide (fn < 17)
  | .plcSymbolReceived _ => true
  | .plcNoiseClear => true
  | .plcPreambleDetect _ => true
  | .plcPhrDecision _ _ _ => true
  | .plcCodewordDecode _ _ _ => true
  | .plcFrameHandoff _ _ _ => true
  | .plcLaunch => true
  | .seamUnderrun => true
  | .plcTxEnd => true
  | .bandcDeferExpiry _ => true
  | .zcMetCrossing channel _ _ => decide (channel < 8)
  | .zcCoarseCrossing _ => true
  | .zcSourceLoss => true
  | .plcContentionWaitEnd _ _ => true
  | .plcMaxDeferExpiry _ => true
  | .plcAckSend _ => true
  | .plcAckReceived => true
  | .plcAckTimeout _ => true
  | .plcRetryWaitEnd _ => true
  | .rdiscReceived => true
  | .rdiscCollectEnd _ _ => true
  | .rrepReceived => true
  | .rrepWaitExpiry endpoint => decide (endpoint < 2097152)
  | .rerrReceived => true
  | .tmreqReceived => true
  | .tmrspReceived => true
  | .tmapAgeExpiry endpoint => decide (endpoint < 2097152)
  | .mcastRepeat _ => true
  | .plcConfig c _ => c.wf
  | .plcTonemapLoad c endpoint handle _ set => c.wf && decide (endpoint < 4294967296) && decide (handle < 4294967296) && decide (set.length = 384)
  | .plcTonemapReadTx c endpoint => c.wf && decide (endpoint < 4294967296)
  | .plcTonemapReadRx c handle => c.wf && decide (handle < 4294967296)
  | .plcTonemapRevert c endpoint => c.wf && decide (endpoint < 4294967296)
  | .plcSend c _ => c.wf
  | .plcRouteSetSlot c endpoint slot _ _ => c.wf && decide (endpoint < 4294967296) && decide (slot < 4294967296)
  | .plcRouteClearSlot c endpoint slot => c.wf && decide (endpoint < 4294967296) && decide (slot < 4294967296)
  | .plcRoutePin c endpoint slot => c.wf && decide (endpoint < 4294967296) && decide (slot < 4294967296)
  | .plcRouteUnpin c endpoint => c.wf && decide (endpoint < 4294967296)
  | .plcMcastSend c _ => c.wf
  | .plcStatus c endpoint _ => c.wf && decide (endpoint < 4294967296)
  | .plcNoiseRead c _ => c.wf
  | .rfClockLoss port => decide (port < 2)
  | .rfClockReturn port => decide (port < 2)
  | .rfFramingLoss w => decide (w.port < 2) && decide (w.edges.length = 8) && w.edges.all (fun e => decide (e.d < 16))
  | .rfFramingRestore w => decide (w.port < 2) && decide (w.edges.length = 128) && w.edges.all (fun e => decide (e.d < 16))
  | .rfSyncDetect _ => true
  | .rfPhrDecision _ _ => true
  | .rfFrameEnd _ _ => true
  | .rfAgcBlock port block _ => decide (port < 2) && decide (block.length % 8 = 0) && block.all (fun e => decide (e.d < 16))
  | .rfJamStart port j => decide (port < 2) && decide (j.ch < 128)
  | .rfJamClear port j => decide (port < 2) && decide (j.ch < 128)
  | .rfTxLaunch => true
  | .rfTxEnd port _ => decide (port < 2)
  | .dutyBucketRoll => true
  | .mshBeaconSend port => decide (port < 2)
  | .mshBeaconHeard => true
  | .mshFrameReceived => true
  | .mshAckSend => true
  | .mshAckReceived => true
  | .mshAckTimeout _ => true
  | .mshRetryOpportunity _ => true
  | .piggybackSend => true
  | .nightSlotOccurrence endpoint => decide (endpoint < 2097152)
  | .floodCopySend _ port => decide (port < 2)
  | .seenCacheExpiry => true
  | .mapApply => true
  | .atDatagramReceived _ => true
  | .atCollectorDown collector => decide (collector < 2097152)
  | .mshSendExpired _ => true
  | .mshConfig c _ => c.wf
  | .mshSlotAdd c _ => c.wf
  | .mshSlotRemove c endpoint _ => c.wf && decide (endpoint < 4294967296)
  | .mshSlotRemoveAll c endpoint => c.wf && decide (endpoint < 4294967296)
  | .mshNightslotSet c _ => c.wf
  | .mshNightslotClear c endpoint => c.wf && decide (endpoint < 4294967296)
  | .mshSend c _ => c.wf
  | .mshFlood c _ => c.wf
  | .mshBeaconSet c _ => c.wf
  | .mshStatus c endpoint => c.wf && decide (endpoint < 4294967296)
  | .fseIntake => true
  | .fseVerdictRelease _ _ _ => true
  | .fcsAfterVerdict => true
  | .frameSealCommit _ _ => true
  | .burstBufferLeave => true
  | .stormSecond => true
  | .stormAllowanceRefill _ _ => true
  | .contextCheckpoint index => decide (index < 2097152)
  | .checkpointWriteDone _ _ _ => true
  | .billingGapRefill _ => true
  | .epCreate c _ => c.wf
  | .epRead c index _ _ => c.wf && decide (index < 4294967296)
  | .epWriteAttr c index _ => c.wf && decide (index < 4294967296)
  | .epWriteKeyset c index _ => c.wf && decide (index < 4294967296)
  | .epWriteRxwin c index _ _ _ _ => c.wf && decide (index < 4294967296)
  | .epWriteTxctr c index _ _ => c.wf && decide (index < 4294967296)
  | .epWriteReadwin c index _ => c.wf && decide (index < 4294967296)
  | .epWritePathclr c index => c.wf && decide (index < 4294967296)
  | .epWriteSnapclr c index => c.wf && decide (index < 4294967296)
  | .epWriteHost c index _ => c.wf && decide (index < 4294967296)
  | .epDelete c index => c.wf && decide (index < 4294967296)
  | .epLookup c _ => c.wf
  | .epStats c index _ => c.wf && decide (index < 4294967296)
  | .epStatsBackfill c => c.wf
  | .codRecordCode => true
  | .codCloseTimer inst _ => decide (inst < 16)
  | .codFlush _ => true
  | .codQcommit => true
  | .codCloseResume => true
  | .arcBlockTake => true
  | .arcWriteComplete _ _ slot => decide (slot < 64)
  | .arcWriteFail _ _ slot _ => decide (slot < 64)
  | .journalPageCommit => true
  | .mapImageWrite _ => true
  | .deallocateDone slot _ => decide (slot < 64)
  | .arcHealthPoll slot _ => decide (slot < 64)
  | .driveCommandTimeout slot => decide (slot < 64)
  | .driveHotplug _ => true
  | .driveLoss slot => decide (slot < 64)
  | .rebuildCopyDone _ _ => true
  | .blockReadDone queue _ _ _ => decide (queue < 257)
  | .scrubRead _ _ _ _ _ => true
  | .billingHoldDrain => true
  | .arcNsCreate c _ => c.wf
  | .arcNsChange c _ => c.wf
  | .arcNsDelete c _ _ => c.wf
  | .arcNsReleaseSealed c _ => c.wf
  | .arcQuery c _ => c.wf
  | .arcExport c _ => c.wf
  | .arcDriveJoin c _ slot => c.wf && decide (slot < 4294967296)
  | .arcDriveRejoin c _ slot => c.wf && decide (slot < 4294967296)
  | .arcDriveInit c _ slot _ _ => c.wf && decide (slot < 4294967296)
  | .arcDriveEvacuate c slot => c.wf && decide (slot < 4294967296)
  | .arcDriveFail c slot => c.wf && decide (slot < 4294967296)
  | .arcStatus c _ _ => c.wf
  | .arcSeal c _ => c.wf
  | .losRecordTake => true
  | .losLaneClose => true
  | .losFeederEnergy _ imp exp => decide (imp < 18446744073709551616) && decide (exp < 18446744073709551616)
  | .losVoltageMeans _ _ _ _ => true
  | .losTopoLoad c _ _ _ => c.wf
  | .losConfig c _ => c.wf
  | .losResultRead c _ _ _ => c.wf
  | .losPhaseRead c _ _ => c.wf
  | .losHistRead c _ _ _ => c.wf
  | .metSample _ _ => true
  | .metSecondMark _ _ _ => true
  | .timeMarkMissing => true
  | .metRegisterSave => true
  | .metPulseOut => true
  | .tamperSample _ => true
  | .nightTamperSample _ => true
  | .metCalStore c set _ _ => c.wf && decide (set.length = 256)
  | .metSeal c _ => c.wf
  | .metUnseal c auth => c.wf && auth.wf
  | .metRead c _ _ => c.wf
  | .metSealRead c _ _ => c.wf
  | .metAuditRead c _ _ => c.wf
  | .metConfig c _ _ _ => c.wf
  | .metTermAck c _ _ _ => c.wf
  | .bilIntervalTake => true
  | .bilIntervalApply _ => true
  | .tokenRequest _ => true
  | .partnerTokenRecord _ endpoint _ _ _ => decide (endpoint < 2097152)
  | .islandRecordAck _ _ => true
  | .bilReplayRecord endpoint => decide (endpoint < 2097152)
  | .bilCampaignWindowOpen _ => true
  | .bilCampaignWindowClose _ => true
  | .bilCampaignDeadline _ => true
  | .bilCalendarLoad c _ _ _ _ => c.wf
  | .bilRegsReadRaw c _ _ => c.wf
  | .bilRegsReadSigned c _ _ _ => c.wf
  | .bilCreditPush c endpoint _ _ => c.wf && decide (endpoint < 4294967296)
  | .bilCampaignStart c _ => c.wf
  | .bilBind c _ => c.wf
  | .bilRestore c _ => c.wf
  | .bilRelease c endpoint _ => c.wf && decide (endpoint < 4294967296)
  | .bilAcceptShort c endpoint auth => c.wf && decide (endpoint < 4294967296) && auth.wf
  | .bilLedgerRead c _ _ => c.wf
  | .bilCampaignAbort c _ => c.wf
  | .keyCreateSet c a _ => c.wf && a.wf
  | .keyImportWrapped c a tslot _ _ => c.wf && a.wf && decide (tslot < 4294967296)
  | .keyImportPlain c a _ _ _ _ => c.wf && a.wf
  | .keyGenerate c a _ _ _ => c.wf && a.wf
  | .keyDeleteSet c a _ => c.wf && a.wf
  | .keyUpdateWrapped c a tslot _ _ => c.wf && a.wf && decide (tslot < 4294967296)
  | .keyUpdatePlain c a _ _ _ _ => c.wf && a.wf
  | .keyUpdateGenerate c a _ _ _ => c.wf && a.wf
  | .keyInvalidate c a _ => c.wf && a.wf
  | .keyMirrorUpdate _ => true
  | .keyAgree c a peer _ => c.wf && a.wf && decide (peer.length = 33)
  | .keyExport c a tslot => c.wf && a.wf && decide (tslot < 4294967296)
  | .keyAttest c _ _ => c.wf
  | .keyLifecycleAdvance c _ _ digest auth _ => c.wf && decide (digest.length = 48) && auth.wf
  | .keyStatus c a _ => c.wf && a.wf
  | .transportSlotLapse inst slot => decide (inst < 16) && decide (slot < 16)
  | .timeTick _ _ => true
  | .deviceSecond _ _ => true
  | .ptpSyncReceived port _ _ => decide (port < 2)
  | .ppsInEdge => true
  | .partnerTimeExchange _ => true
  | .partnerTimeReply _ _ _ _ _ _ => true
  | .ptpAnnounceTimeout port => decide (port < 2)
  | .sourceLossTimeout _ => true
  | .sourceRevert _ => true
  | .holdoverExpiry => true
  | .tickRefLoss => true
  | .ptpSyncSend port => decide (port < 2)
  | .launchInsert lane _ _ _ => decide (lane < 11)
  | .launchFire => true
  | .launchWithdraw _ => true
  | .timRead c _ => c.wf
  | .timStep c _ _ _ => c.wf
  | .timSourceSet c _ _ => c.wf
  | .timStatus c => c.wf
  | .timSnap => true
  | .updDownloadHost c _ _ _ => c.wf
  | .updDownloadRelay c _ _ => c.wf
  | .updDiscardStaging c => c.wf
  | .flashGranuleDone _ => true
  | .updVerify c _ _ _ _ => c.wf
  | .updActivate c _ _ _ => c.wf
  | .updActivateCancel c => c.wf
  | .activationInstant _ _ _ => true
  | .confirmWindowWarning => true
  | .confirmWindowExpiry _ => true
  | .updConfirm c _ => c.wf
  | .updRollback c _ _ _ => c.wf
  | .updCampaignLoad c _ _ _ => c.wf
  | .updCampaignStart c _ => c.wf
  | .updStatus c _ => c.wf
  | .updCampaignAbort c _ => c.wf
  | .updCampaignWindow _ => true
  | .updCampaignReportQuery _ => true
  | .updCampaignDeadline _ => true
  | .relayOfferReceived _ => true
  | .relayAcceptReceived _ => true
  | .relayRefuseReceived _ => true
  | .relayDataReceived _ => true
  | .relayAckReceived _ => true
  | .relayDoneReceived _ => true
  | .relayResultReceived _ => true
  | .relayProgressTimeout _ => true
  | .loaderIdent _ => true
  | .loaderErase _ _ => true
  | .loaderWrite _ _ => true
  | .loaderRead _ => true
  | .loaderCheck _ _ => true
  | .loaderSelect _ _ => true
  | .loaderRestart _ => true
  | .packetSilenceTimeout port => decide (port < 2)
  | .svcIdent _ => true
  | .svcRegRead _ => true
  | .sspPut _ _ _ => true
  | .sspGet _ _ _ => true
  | .sspStat _ => true
  | .ospResponseSend _ => true
  | .ospFloodStart _ _ _ => true
  | .ospFloodClear _ => true
  | .ospResponseDrop => true
  | .ospFramingError _ => true
  | .ospLoaderMove => true
  | .tapInstructionLoad noon mid => decide (noon < 4294967296) && decide (mid < 4294967296)
  | .tapReset => true
  | .parStatus c => c.wf
  | .parRoleStandby c => c.wf
  | .parRoleSolo c _ _ => c.wf
  | .parResync c _ => c.wf
  | .parClaim c _ _ => c.wf
  | .parRelease c _ _ => c.wf
  | .releaseEchoReceived _ => true
  | .releaseEchoTimeout _ => true
  | .parDigestRead c _ => c.wf
  | .parSelftest c _ _ => c.wf
  | .ownInFall _ => true
  | .pairHeartbeatSend => true
  | .pairHeartbeatReceived _ _ => true
  | .partnerLoss _ => true
  | .pairLaneDown lane _ => decide (lane < 2)
  | .releaseMessageReceived _ => true
  | .holdoffEnd => true
  | .shadowFrameReceived _ => true
  | .counterMessageReceived _ _ _ => true
  | .digestEpochEnd _ => true
  | .digestExchange _ _ => true
  | .selftestPeriodic _ _ => true
  | .fabBurstRequest target port _ _ => decide (target < 6) && decide (port < 28)
  | .fabBurstEnd target => decide (target < 6)
  | .quietRise port => decide (port < 28)
  | .quietFall port => decide (port < 28)
  | .vinCreate c _ _ => c.wf
  | .vinReset c => c.wf
  | .vinDisable c => c.wf
  | .vinQuotaSet c _ _ => c.wf
  | .vinStatus c => c.wf
  | .vinDestroy c _ _ => c.wf
  | .fenceUnitAck inst _ => decide (inst < 16)
  | .fenceTimeout inst => decide (inst < 16)
  | .vsenseFail _ => true
  | .sfailNLow => true
  | .sysRstNLow => true
  | .referenceLoss => true
  | .supplyValid _ => true
  | .duskSaveEnd _ _ => true
  | .supplySwitchover => true
  | .dawnStageEnd _ => true
  | .domainRampDone domain => decide (domain < 64)
  | .domainRampFault domain => decide (domain < 64)
  | .vbatMeasure _ => true
  | .pwrDomainOn c domain => c.wf && decide (domain < 4294967296)
  | .pwrDomainOff c domain => c.wf && decide (domain < 4294967296)
  | .pwrStatus c => c.wf
  | .pwrShutdownRestart c _ => c.wf
  | .pwrShutdownHalt c _ => c.wf
  | .evrEvent e => e.wf
  | .evrRecordCommit recorder => decide (recorder < 8)
  | .evrHistPeriodEnd recorder _ => decide (recorder < 8)
  | .evrExtremesSample _ _ _ => true
  | .evrCursorWrite cursor => decide (cursor < 4294967296)
  | .evrLoadDone => true
  | .evrWin15Read => true
  | .evrRead c recorder _ _ => c.wf && decide (recorder < 4294967296)
  | .evrClear c recorder _ => c.wf && decide (recorder < 4294967296)
  | .evrConfig c recorder _ _ _ => c.wf && decide (recorder < 4294967296)
  | .thermalThreshold _ => true
  | .dramScrub channel _ _ _ => decide (channel < 4)
  | .dramUncorrectable channel _ _ job => decide (channel < 4) && job.all CmdRef.wf
  | .dataLinkUp _ _ => true
  | .perstDeassert => true
  | .busMasterSet fn => decide (fn < 17)
  | .d3hotExit fn => decide (fn < 17)
  | .sysRstNRise => true
  | .pairLaneUp lane => decide (lane < 2)
  | .ptpAnnounceReceived port _ => decide (port < 2)
  | .ptpDelayMessageReceived port _ => decide (port < 2)
  | .ptpAnnounceSend port => decide (port < 2)
  | .ptpDelayRequestSend port => decide (port < 2)
  | .releaseDrainExpiry => true
  | .resyncRecordReceived _ _ => true
  | .ledgerCopyReceived _ _ _ => true
  | .backfillTlpAcknowledged => true

end Sys2Proof
end

