-- ==== Sys2Proof/Tests/Slice0.lean ====
section
/-! SUPPORT. Tests: ill-formed commands that WellFormed refuses, small states, a witness of the hypotheses of each statement, and single
steps whose results the spec states. -/
set_option maxRecDepth 1000000
set_option Elab.async false
set_option linter.unusedVariables false
namespace Sys2Proof.Tests
open Sys2Proof Sys2Proof.Machine Sys2Proof.Machine.State

/-! ### Small states and inputs -/

/-- The part in DAY with every domain on, the host present and both permits. -/
def dayState : State :=
  let r := State.reset
  { r with
    dev := { r.dev with state := .day, role := .active, life := 3 }
    pwr := { r.pwr with domains := (List.range 64).map (fun k => (k, { state := .on })) }
    hbr := { r.hbr with dlUp := true, funcs := [(0, { busMaster := true })] }
    seam := { r.seam with midValid := true }
    par := { r.par with permit := true, owned := true } }

/-- Queue 256 with 16 SQ entries and 32 CQ entries at page 1, not enabled. -/
def qSized : State :=
  ((dayState.setRegI Reg.CMD_QSIZE 256 0x44).setRegI Reg.CMD_SQ_BASE_LO 256 0x1000).setRegI Reg.CMD_CQ_BASE_LO 256 0x2000

/-- The same queue enabled. -/
def qOn : State := { qSized with cmd := { qSized.cmd with queues := [(256, { enabled := true })] } }

/-- The same queue with one descriptor waiting. -/
def qFetch : State := { qSized with cmd := { qSized.cmd with queues := [(256, { enabled := true, sqTail := 1 })] } }

/-- A GLB.NOP descriptor with TAG 7. -/
def nopDesc : Bytes := [0x06, 0x00, 0, 0, 7, 0, 0, 0] ++ List.replicate 56 0

/-- A GLB.NOP admitted from queue 256. -/
def nopCmd : Cmd := { queue := 256, tag := 7, opcode := 6, inst := 0, order := false, irq := false, dlist := false, dptr := 0, echo := 0 }

/-- A read of 64 bytes issued under tag 5. -/
def readAs (w : ReadFor) : PartRead := { id := 3, what := w, want := 64, tag := some 5 }

/-- That read outstanding, and a descriptor of queue 256 being fetched. -/
def reading (w : ReadFor) : State :=
  { qOn with hbr := { qOn.hbr with reads := [readAs w], xfers := [{ queue := 256, tag := 7, len := 100, write := none, list := zeros 64 }] }, cmd := { qOn.cmd with fetching := [256] } }

/-- The fetch of this descriptor of queue 256 has come whole. -/
def descHere (b : Bytes) : State :=
  { dayState with
    hbr := { dayState.hbr with reads := [{ id := 3, what := .descriptor 256, want := 64, got := 64, data := b }] }
    cmd := { dayState.cmd with fetching := [256] } }

/-- Two virtual functions, their instances READY. -/
def vfState : State :=
  { dayState with
    hbr := { dayState.hbr with vfEnable := true, numVfs := 2 }
    vin := { dayState.vin with insts := [(0, { state := .ready }), (1, { state := .ready })] } }

/-- Notice ring 0 enabled with one entry not announced. -/
def ringState : State := { dayState with hbr := { dayState.hbr with rings := [(0, { enabled := true, tail := 1, used := 1, unann := 1 })] } }

/-- An endpoint context of instance 0 with route slot 0 in use. -/
def epCtx : Ctx := { eui := 0x1122, flags := 1, slots := [{ relays := [0x33], rest := 4, valid := true }] }

/-- Endpoint 0 exists. -/
def epState : State := { dayState with ing := { dayState.ing with ctxs := [(0, epCtx)] } }

/-- The frame with identity 3 is on the air. -/
def plcAir : State := { dayState with plc := { dayState.plc with onAir := some 3, sends := [{ id := 3, phase := .onAir }] } }

/-- One send of the power line. -/
def plcWith (x : PlcSend) : State := { dayState with plc := { dayState.plc with sends := [x] } }

/-- Reception on one chain, with these frames being received. -/
def plcRecv (rx : List PlcRx) : State := { dayState.setReg Reg.PLC_CTRL 0x10 with plc := { dayState.plc with rx := rx } }

/-- A TMRSP from endpoint 0 with handle 9 and the default set. -/
def tmrspFrame : RxFrame := { bytes := le 1 3 ++ zeros 1 ++ le 2 414 ++ zeros 12 ++ le 8 0x1122 ++ le 2 9 ++ robonSet ++ zeros 4 }

/-- It waits in the inbox. -/
def tmrspInbox : State := { epState with plc := { epState.plc with poolSize := 65537, inbox := [tmrspFrame] } }

/-- An RREP of endpoint 0 waits, and its discovery is under way. -/
def rrepInbox : State := { epState with plc := { epState.plc with inbox := [{ bytes := le 1 6 ++ zeros 15 ++ le 8 0x1122 }], discs := [(0, { rdiscId := 0 })] } }

/-- An RERR that names the endpoint with address 0, whose route goes over 0x33. -/
def rerrInbox : State :=
  { epState with plc := { epState.plc with inbox := [{ bytes := [7] }] }, ing := { epState.ing with ctxs := [(0, { epCtx with eui := 0 })] } }

/-- A PHR of one codeword. -/
def onePhr : Phr := { rate := 0, depth := 1, dc := false, coarse := false, seg0 := 0, offUs := 0, cycleUs := 20000, ncw := 1, tmap := 0 }

/-- A received power-line frame of type `k`. -/
def inFrame (k : Nat) : RxFrame := { bytes := [k] }

/-- That frame waits in the inbox. -/
def plcInbox (k : Nat) : State := { dayState with plc := { dayState.plc with inbox := [inFrame k] } }

/-- A received power-line frame of type `k` from endpoint 0. -/
def srcFrame (k : Nat) : RxFrame := { bytes := le 1 k ++ zeros 15 ++ le 8 0x1122 }

/-- That frame waits in the inbox. -/
def srcInbox (k : Nat) : State := { epState with plc := { epState.plc with inbox := [srcFrame k] } }

/-- A send to endpoint 0 that awaits its ACK. -/
def plcAwaiting : PlcSend := { id := 3, cmd := some ⟨256, 7, 0⟩, dst := 0x1122, hop := 0x1122, phase := .await }

/-- An ACK from endpoint 0. -/
def ackFrame : RxFrame := { srcFrame 1 with rts := 2000000 }

/-- The send and its ACK in the inbox. -/
def plcAwait : State := { epState with plc := { epState.plc with inbox := [ackFrame], sends := [plcAwaiting] } }

/-- A power-line frame ready to go out. -/
def plcReady : PlcSend := { id := 3, phase := .ready, sealed := true, dst := 5, link := zeros 20 }

/-- Its launch has fired. -/
def plcFired : State := { plcWith plcReady with tim := { dayState.tim with fired := [⟨1, 0, 1000, 0, 3⟩] } }

/-- An ACK whose verdict is known. -/
def plcAckDue : PlcAck := { id := 3, dst := 0x1122, lseq := 0, lq := 0, chains := 1, instant := 40, secured := false, status := some 0, phrNs := 0 }

/-- An ACK is owed. -/
def plcOwes : State := { dayState with plc := { dayState.plc with acks := [plcAckDue] } }

/-- Endpoint 0, both radio ports up and permitted to send, the hop key of endpoint 0 in the Noon cache, time LOCKED. -/
def airState : State :=
  let s := ((epState.setRegI Reg.RFX_PORT_CTRL 0 3).setRegI Reg.RFX_DC_RANGE 0 0xFF00).setRegI Reg.RFX_DC_LIMIT 0 10000
  { s with
    rfx := { s.rfx with ports := [(0, { clk := true, framed := true }), (1, { clk := true, framed := true })], poolSize := 16 }
    tim := { s.tim with sec := 1000, state := .locked }
    msh := { s.msh with restored := true }
    kvt := { s.kvt with cache := [{ place := 0, inst := 0, usage := 0, mode := 0, aes256 := false, key := List.replicate 16 1, lc := 3, parentGen := 1, instGen := 1 }] } }

/-- One send of the mesh. -/
def mshWith (x : MshSend) : State := { airState with msh := { airState.msh with sends := [x] } }

/-- A mesh data frame to endpoint 0. -/
def mshData : MshSend := { id := 3, cmd := some ⟨256, 7, 0⟩, ep := some 0, dst := 0x1122, body := [1, 2] }

/-- Its launch has fired on port 0. -/
def mshFired : State := { mshWith mshData with tim := { airState.tim with fired := [⟨1, 1, 1000000000000, 0, 3⟩] } }

/-- A radio reception on port 0. -/
def rfHeard (p : Option (Nat × Bool)) : RfRx := { id := 3, port := 0, ch := 5, rate := 0, rts := 0, rssi := 9, cfo := 0, overload := false, phr := p }

/-- That reception in progress. -/
def rfRecv (p : Option (Nat × Bool)) : State := { airState with rfx := { airState.rfx with rx := [rfHeard p] } }

/-- A radio frame on the air. -/
def onAirTx : RfTx := { ref := 3, port := 0, slot := 0, ch := 0, rate := 0, startNs := 999000000000, onTime := 100 }

/-- The concentrator's own mesh address. -/
def ownEui : Nat := 0x5500

/-- A mesh frame of type `k` from endpoint 0, secured unless a beacon or an ACK, with this body. -/
def mshIn (k : Nat) (body : Bytes) : RxFrame :=
  let sec := k == 0 || k == 3 || k == 4
  let x : MshSend := { id := 0, typ := k, dst := ownEui, sec := sec, miclen := bitN sec, ackreq := k == 0, body := body }
  let b := mshHead x 1 0x1122 false ++ body ++ zeros (if sec then 12 else 4)
  { path := 1, radio := true, bytes := b ++ le 4 (crc32c b), rts := tsOf 1000001000000, chans := 0, endNs := 1000001500000 }

/-- The mesh with that address; these frames wait in its inbox. -/
def mshInbox (l : List RxFrame) : State :=
  { airState with msh := { airState.msh with cfg := { airState.msh.cfg with netEui := ownEui }, inbox := l } }

/-- An ACK owed to endpoint 0. -/
def mshAckDue : MshAck := { dst := 0x1122, nseq := 5, lq := 0, port := 0, ch := 0, rate := 0, instant := 1000000008000, status := some 0 }

/-- That ACK owed. -/
def mshOwes : State := { airState with msh := { airState.msh with acks := [mshAckDue] } }

/-- A send that awaits its ACK, which has come. -/
def mshAwaiting : MshSend := { mshData with phase := .await, nseq := 5, endNs := 1000000000000, attempts := 1, ackreq := true }

/-- A night agreement of endpoint 0. -/
def nightOf : Night := { port := 0, ch := 0, rate := 0, p := 0, slot := 576, phase := 0, drift := 20, active := true }

/-- Its occurrence, with a send for it. -/
def nightDue : State :=
  let s := mshWith mshData
  let s := s.setCtx 0 { epCtx with lastSync := tsOf 999999000000 }
  { s with msh := { s.msh with nights := [(0, nightOf)] } }

/-- A beacon on port 0 and the hop key of floods in the Noon cache. -/
def beaconOn : State :=
  { airState with
    msh := { airState.msh with beacon := { airState.msh.beacon with en := true, ports := 1 }, cfg := { airState.msh.cfg with netEui := ownEui, hopKeyref := 0x80 }, bcast := 5, bcastCeil := 65536 }
    kvt := { airState.kvt with cache := [{ place := sharedBase, inst := 0, usage := 2, mode := 0, aes256 := false, key := List.replicate 16 1, lc := 3, parentGen := 1, instGen := 1 }] } }

/-- The instant at which the beacon of the interval at 1 000.448 s leaves. -/
def beaconNow : State := { beaconOn with tim := { beaconOn.tim with ns := 448000000 - beaconOn.syncLead 0 beaconOn.msh.beacon.rate } }

/-- The state and the frame of that beacon. -/
def beaconUp : State := beaconNow.takeBeaconCfg 1000448000000
def beaconSend : MshSend := { id := 0, typ := 2, dst := State.beaconDst, sealedBody := beaconUp.beaconBody beaconNow.msh.beacon 977 }

/-- The frame that a broadcast gives. -/
def rightOf (x : Option (Nat ⊕ (Bytes × Nat))) : Bytes × Nat := match x with | some (.inr q) => q | _ => ([], 0)

/-- The night slot at 1 000 s: its launch instant. -/
def nightNow : State := { nightDue with tim := { nightDue.tim with sec := 999, ns := 1000000000 - nightDue.syncLead 0 0 } }

/-- A piggyback window whose preamble comes up. -/
def windowDue : Piggy := ⟨3, 0, 0, 0, 1000000008000⟩
def piggyDue : State := { mshWith mshData with msh := { (mshWith mshData).msh with piggy := [windowDue] } }

/-- A flood between its copies. -/
def floodWaits : MshSend := { id := 3, cmd := some ⟨256, 7, 0⟩, typ := 3, dst := 0x0101, sec := true, miclen := 1, sealed := true, sealedBody := zeros 12, body := zeros 4, repeats := 1, ports := 1, phase := .gap }

/-- Endpoint 0 is a collector. -/
def collState : State := { epState with ing := { epState.ing with ctxs := [(0, { epCtx with kind := 6 })] } }

/-- Every slot is a flood slot, and a flood waits. -/
def floodState : State :=
  { beaconOn with msh := { beaconOn.msh with sends := [floodWaits], map := List.replicate 256 0x55, cfg := { beaconOn.msh.cfg with k := 0 } } }

/-- The tag key and the MIC key of endpoint 0. -/
def epKeys : List KeySnap :=
  [{ place := 0, inst := 0, usage := 0, mode := 0, aes256 := false, key := List.replicate 16 1, lc := 3, parentGen := 1, instGen := 1 },
   { place := 1, inst := 0, usage := 1, mode := 0, aes256 := false, key := List.replicate 16 2, lc := 3, parentGen := 1, instGen := 1 }]

/-- The mesh with both keys and an open admission gate. -/
def fseState : State :=
  let s := (mshInbox []).setReg Reg.ING_ADMIT_PLC 0x3F0
  let s := (s.setReg (Reg.ING_ADMIT_PLC + 4) 0x3F0).setReg (Reg.ING_ADMIT_PLC + 8) 0x3F0
  { s with kvt := { s.kvt with cache := epKeys }, ing := { s.ing with rollDone := true }, vin := { s.vin with insts := [(0, { state := .ready })] } }

/-- One application record of type 1. -/
def oneAr : Bytes := le 1 1 ++ le 1 0 ++ le 2 0 ++ le 4 9 ++ le 8 0 ++ zeros 24

/-- A sealed data frame of endpoint 0 with its tag, byte 0 least significant: that application record under NSEQ 70 and FCNT 80, sealed
with an 8-byte MIC under the MIC key and tagged under the tag key. -/
def dataFrame : RxFrame :=
  { path := 1, radio := true, rts := tsOf 1000001000000
    bytes := le 90 0xfa6c49a61a7d33dd47fc575e33b06c3cbd6823cdaf5d78933623d91e5a6e4a3e65e61fd52c682ba2d90774c5318361616388e80ff33d068000000050000000010000000000001122000000000000550000000000004600014088 }

/-- A tagged ACK of endpoint 0 under NSEQ 71. -/
def tagFrame : RxFrame :=
  { path := 1, radio := true, rts := tsOf 1000001000000
    bytes := le 46 0xef2bdd31cab68d3a0000000000000000000000000000000000001122000000000000550000000000004700010081 }

/-- FSE with this frame in its intake, looked up. -/
def fseHolds (f : RxFrame) : State := { fseState with fse := { fseState.fse with intake := [(fseState.fseLookup f).1] } }

/-- The same with that frame taken out of the intake. -/
def fseTaken (f : RxFrame) : State := (fseHolds f).setFse (fun q => { q with intake := q.intake.erase (fseState.fseLookup f).1 })

/-- A send of the mesh to be sealed. -/
def toSeal : MshSend := { mshData with sec := true, keyref := 1, miclen := 1 }

/-- That send, and both keys. -/
def sealState : State := { fseState with msh := { fseState.msh with sends := [toSeal] } }

/-- A send of the power line to be sealed, and both keys. -/
def sealPlcState : State :=
  { fseState with plc := { fseState.plc with sends := [{ id := 3, ep := some 0, dst := 0x1122, body := [1, 2], sec := true, keyref := 1, miclen := 1 }] } }

/-- A frame of the burst buffer. -/
def bbFrame : BbFrame := { endpoint := 0, inst := 0, gen := 1, path := 1, relays := 0, rts := 0, fcnt := 1, zcFallback := false, overload := false, plain := oneAr, slots := 1, held := true }

/-- The buffer holds it; endpoint 0 has generation 1 and its virtual machine is READY. -/
def bbState : State :=
  { fseState with
    ing := { fseState.ing with buffer := [bbFrame], ctxs := [(0, { epCtx with gen := 1 })] } }

/-- A record for COD. -/
def oneRec : Rec := { cls := 1, typ := 1 }

/-- COD with one open block of stream 1. -/
def codState : State :=
  { dayState with
    arc := { dayState.arc with ceil := 100 }
    cod := { dayState.cod with input := [oneRec], opens := [(1, { bounded := false })] } }

/-- Two drives up, endpoint 0 and key set 4 of instance 0. -/
def driveState : State :=
  { epState with
    arc := { epState.arc with phase := .up, ceil := 100, drives := [(0, { disc := 0 }), (1, { disc := 1 })] }
    kvt := { epState.kvt with sets := [(4, 0)] }
    vin := { epState.vin with insts := [(0, { state := .ready, quota := { epMax := 16, pinMax := 4 } })] } }

/-- Endpoint 9 to be made. -/
def epIn : EpIn :=
  { eui := 0x9900, index := 9, auto := false, kind := 1, flags := 0, profile := 0, topoNode := 0, topoValid := false, feeder := 0, keyset := 4
    txNseq := 1, txFcnt := 1, fcntH := 0, nseqH := 0 }

/-- The context it makes. -/
def epNew : Ctx :=
  { eui := 0x9900, inst := 0, kind := 1, flags := 1, profile := 0, topoValid := false, topoNode := 0, feeder := 0, keyset := 4, fcntH := 0
    fcntMap := onesMap, nseqH := 0, nseqMap := onesMap, txFcnt := 1, txNseq := 1 }

/-- An EP command that awaits its checkpoint write. -/
def epWaits (k : EpChange) (i : Nat) : State :=
  { driveState with ing := { driveState.ing with epq := [{ cmd := ⟨256, 7, 0⟩, index := i, change := k }], jobs := [(5, .ep)], nextJob := 6 } }

/-- A coded block. -/
def oneBlock : Block := { inst := 0, cls := 1, cause := 2, bseq := 9, nrec := 0, epMin := 0, epMax := 0, etsMin := 0, etsMax := 0, rtsMax := 5, bytes := [] }

/-- An OPEN extent of namespace 0 on drives 0 and 1. -/
def openExt : Extent := { info := { ns := 0, nsSeq := 0, loc0 := some (0, 3), loc1 := some (1, 3) }, ready := true }

/-- The archive with four drives, namespace 0 and its OPEN extent 64. -/
def arcWith (e : Extent) : State :=
  let d := driveState
  { d with
    arc := { d.arc with
      drives := (List.range 4).map (fun k => (k, { disc := k, serial := k, usable := 4096, used := [0, 3] }))
      journal := [0, 1], nss := [(0, { protect := 1 })], map := [(64, e), (65, { openExt with info := { openExt.info with nsSeq := 1 } })] } }

/-- That, nothing written. -/
def arcState : State := arcWith openExt

/-- A block written to both drives and not yet durable. -/
def arcWrites (l : List Nat) : State :=
  let s := arcWith { openExt with blocks := [oneBlock] }
  { s with arc := { s.arc with writes := [⟨64, 0, l⟩] } }

/-- A sealed extent of a write-once namespace 5, with one block. -/
def sealedExt : Extent := { openExt with info := { openExt.info with ns := 5, state := 3, fill := 1 }, blocks := [oneBlock], closing := true }

/-- Controllers as they are found: four that fit. -/
def ctrls : List CtrlIn := (List.range 6).map (fun k => { disc := k, serial := k, lba := 512, metaBytes := 0, zeroed := true, usable := 4096, root := k, label := none })

/-- A namespace to be made. -/
def nsIn : NsIn := { ns := 5, owner := 0, protect := 1, worm := true, wrap := false, noticeMode := 0, pgWidth := 0, classes := 1, quota := 0, retainDays := 0 }

/-- Instance 0 may have namespaces. -/
def nsState (l : Tab NsCfg) : State :=
  { arcState with
    arc := { arcState.arc with nss := (0, { protect := 1 }) :: l }
    vin := { arcState.vin with insts := [(0, { state := .ready, quota := { nsMax := 4 } })] } }

/-- The namespace as it is then kept. -/
def nsKept : NsCfg := { owner := 0, protect := 1, worm := true, classes := 1 }

/-- A query of namespace 0. -/
def queryIn : QueryIn :=
  { ns := 0, raw := true, dedup := false, countOnly := true, classes := 0x7F, epFirst := 0, epLast := 0x1FFFFF, typeFirst := 0, typeLast := 255
    etsFirst := 0, etsLast := 2 ^ 64 - 1, cursor := 0, bufLen := 4096 }

/-- That query waiting for its first block. -/
def queryJob : ArcJob := { cmd := ⟨256, 7, 0⟩, query := some queryIn }

/-- Namespace 0 with one durable block, and the query. -/
def queryState (l : List ArcJob) : State :=
  let s := arcWith { openExt with blocks := [oneBlock], info := { openExt.info with fill := 1 } }
  { s with arc := { s.arc with jobs := l } }

/-- The same, its read asked. -/
def askedJob : ArcJob := { queryJob with asked := true }

/-- An OPEN extent with two durable blocks, and that query reading it. -/
def twoBlocks : Extent := { openExt with blocks := [oneBlock, oneBlock], info := { openExt.info with fill := 2 } }
def twoState : State := let s := arcWith twoBlocks; { s with arc := { s.arc with jobs := [askedJob] } }

/-- The job and the state after its read of a block of this extent, the descriptors that come with it written. -/
def jobAfter (e : Extent) (s : State) : (ArcJob × Bool) × State :=
  let u := s.modExt 64 (fun e => { e with lost := e.lost.erase 0 })
  let k := (State.jobTake askedJob e 0 oneBlock).1
  State.putDescs (u.descsDue k) k u

/-- A node of the loss tree: the head, measured by the feeder. -/
def headNode : LosNodeIn := { parent := 0xFFFF, measSrc := 1, phases := 7, phCheck := false, measEp := 0, nlW := 0, pRefW := 0, llPpm := 0, instMask := 0xFFFF, reservedOk := true }

/-- The 32 bytes of that node. -/
def headBytes : Bytes := le 2 0xFFFF ++ le 1 (1 + 4 * 7) ++ zeros 17 ++ le 2 0xFFFF ++ zeros 10

/-- One tree in force, at second 5000. -/
def losState : State :=
  { driveState with
    tim := { driveState.tim with sec := 5000 }
    los := { driveState.los with trees := [(900, [headNode])], next := 900, cfg := { driveState.los.cfg with balS := 900, graceS := 60 } } }

/-- A configuration of LOS. -/
def losCfgIn : LosCfgIn := { balS := 900, graceS := 60, coverMin := 900, flagM := 4, flagN := 3, absMin := 10, relPpm := 100, histStep := 10, phWindow := 96, phRmin := 10, phMargin := 10 }

/-- A calibration set as a host supplies it. -/
def calIn : Bytes :=
  let b := le 4 calMagic ++ le 4 0 ++ le 1 50 ++ zeros 15 ++ (List.range 8).flatMap (fun _ => le 4 1) ++ (List.range 8).flatMap (fun _ => le 4 0x40000000)
    ++ zeros 40 ++ zeros 4 ++ le 4 60 ++ le 4 1000 ++ zeros 112
  b ++ le 4 (crc32c b)

/-- A passed authorization of METROLOGY for this purpose. -/
def authIn (purpose arg : Nat) : AuthIn :=
  { formOk := true, purpose := purpose, authority := 2, lcFrom := 3, eui := dayState.dev.eui, challenge := 0, arg := arg, digestA := [], digestB := []
    keyDigest := zeros 48, sigOk := true }

/-- The meter calibrated, its seal closed or open; the three authorities in place. -/
def metState (closed : Nat) : State :=
  { dayState with
    met := { dayState.met with copies := [calStored calIn 1, []], calValid := true, sealState := closed }
    kvt := { dayState.kvt with auth := [(0, zeros 48), (1, zeros 48), (2, zeros 48)] } }

/-- A tariff calendar for slot 2 as BIL loads it: intervals of 900 s, one season, one week, one day profile at rate 3 throughout; the small
hours are the first hour of the local day. -/
def calendar (ver : Nat) : Bytes :=
  let b := le 4 0x4C414342 ++ le 2 ver ++ le 1 2 ++ le 1 0 ++ le 4 900 ++ le 8 0 ++ le 2 0 ++ le 2 0 ++ le 4 0 ++ le 4 0 ++ le 2 0 ++ le 2 0
    ++ le 8 0 ++ le 1 1 ++ le 1 0 ++ le 2 0 ++ le 1 15 ++ le 1 1 ++ le 2 0 ++ le 2 60 ++ le 1 1 ++ le 1 0 ++ le 2 0 ++ zeros 6
    ++ (le 1 1 ++ le 1 1 ++ zeros 2 ++ zeros 44) ++ zeros 128 ++ (le 1 1 ++ zeros 1 ++ le 2 0 ++ le 1 3 ++ zeros 27)
  b ++ zeros (4092 - b.length)

/-- A short copy of the same calendar, whose bytes beyond its end read as zero. -/
def calendarShort (ver : Nat) : Bytes := (calendar ver).take 300

/-- The island's key for authenticated records (`slot` 4) or tokens (5) of key set 4, unwrapped. -/
def islandSnap (slot : Nat) : KeySnap :=
  { place := 36 - 4 + slot, inst := 0, usage := slot, mode := 0, aes256 := false, key := List.replicate 16 (BitVec.ofNat 8 slot), lc := 3, parentGen := 1, instGen := 1, ver := 1 }

/-- The register set of endpoint 0. -/
def bilOne : BilSet := { endpoint := 0, sseq := 6, calId := 2, btype := 9, eui := 0x1122, keyset := 4, lastSeq := 10, seqMap := 1 }

/-- Billing at work: endpoint 0 bound and in force, a calendar, both island keys, the owner's indication; RTC at second 2 000 000. -/
def bilState : State :=
  { driveState with
    aon := { driveState.aon with rtcSec := 2000000 }
    seam := { driveState.seam with midView := { driveState.seam.midView with owned := true } }
    kvt := { driveState.kvt with island := [islandSnap 4, islandSnap 5], journalCap := 1000, blobs := [(sharedBase + 3, { usage := 2, aes256 := false, mode := 0, midnight := false, mayLeave := false, lc := 3, parentGen := 1, instGen := 1, inst := 0, ver := 0, key := zeros 16 })] }
    bil := { driveState.bil with
      sets := [(0, bilOne)], ledger := [(0, { lastId := 100, bound := true, window := 1, anchor := 6 })], cals := [(4, calendarShort 1)] } }

/-- A billing record of endpoint 0 with a good tag: SEQ 11, ending at second 1 999 800, 500 imported and 7 exported. -/
def bilRec : Rec :=
  { cls := 0, typ := 9, form := 0, mt := true, ets := 1999800 * 2 ^ 30, seq := 11, values := le 8 500 ++ le 8 7 ++ zeros 8, tail := le 8 0x78ab07df6b6320f3 }

/-- A token of TID 101 with a good tag, its low 24 bits. -/
def goodToken : Nat := 101 * 2 ^ 40 + 0x9624a7

/-- A token request with that token, with a good tag. -/
def tokenRec : Rec :=
  { cls := 2, typ := 0x50, mt := true, seq := 12, values := le 8 goodToken ++ zeros 16, tail := le 8 0xf2f3642faf8f0892 }

/-- Billing with these records pending. -/
def bilQueued (l : List Rec) : State := { bilState with bil := { bilState.bil with queue := l } }

/-- A block of class 0 that holds that billing record. -/
def gapBlock : Block := (((dayState.appendRecord bilRec).cod.opens.getD 0 { bounded := false }).close 0 0 1 9)

/-- Two billing records wait in the gap range, the first of them durable. -/
def gapState : State :=
  { arcWith { openExt with blocks := [gapBlock], info := { openExt.info with fill := 1 } } with
    ing := { driveState.ing with bilqMib := 1, gap := [bilRec, { bilRec with seq := 12 }] } }

/-- A campaign for endpoint 0. -/
def campOne : Campaign :=
  { cmd := ⟨256, 7, 0⟩, calId := 2, image := calendarShort 1, calVer := 1, media := 0, keyref := 0x83, group := 1, repeats := 1, deadline := 3000000
    endpoints := [0] }

/-- That campaign runs; RTC at this second. -/
def campState (x : Campaign) (sec : Nat) : State :=
  { bilState with aon := { bilState.aon with rtcSec := sec }, bil := { bilState.bil with campaigns := [(1, x)] } }

/-- The bytes of a billing record of endpoint 0, and a block that holds them. -/
def durBytes : Bytes := bilRec.bytes

/-- That block, as COD closes it. -/
def durBlock : Block := (({ bounded := false } : OpenBlock).add (({ bounded := false } : OpenBlock).code (fun _ _ => 1) durBytes) durBytes).close 0 0 2 9

/-- The archive has it durable, and its copy waits for BIL. -/
def durState : State :=
  { bilState with
    arc := { bilState.arc with map := [(64, { openExt with blocks := [durBlock], info := { openExt.info with fill := 1 } })] }
    ing := { bilState.ing with bilq := [recOf durBytes] } }

/-- A Midnight blob of key set 4. -/
def bindBlob : Blob := { usage := 4, aes256 := false, mode := 0, midnight := true, mayLeave := false, lc := 3, parentGen := 1, instGen := 1, inst := 0, ver := 1, key := zeros 16 }

/-- A register set as a host keeps it. -/
def savedSet : Bytes := bilOne.head ++ bilState.islandMac bilOne

/-- The address of slot 1 of key set 4, of key set 9 to be made, of instance 0's generation, and of transport slot 2. -/
def leafAddr : KeyAddr := ⟨0, 1, 4, 0⟩
/-- Key set 9, to be made. -/
def setAddr : KeyAddr := ⟨2, 0, 9, 0⟩
/-- The generation of instance 0. -/
def genAddr : KeyAddr := ⟨3, 0, 0, 0⟩
/-- Transport slot 2 of instance 0. -/
def slotAddr : KeyAddr := ⟨6, 2, 0, 0⟩

/-- The vault open: key set 4 of instance 0, transport slot 2 agreed, plain keys and export allowed. -/
def keyState (l : Tab Blob) : State :=
  let s := { driveState with
    vin := { driveState.vin with insts := [(0, { state := .ready, quota := { keysetMax := 8 } })] }
    kvt := { driveState.kvt with sets := [(4, 0)], blobs := l, ringCap := 100, transport := [(2, { tk := List.replicate 32 7 })], seed := some (zeros 32)
                                 auth := [(0, zeros 48), (1, zeros 48), (2, zeros 48)] } }
  s.setReg Reg.KVT_CTRL 3

/-- A leaf key that may leave. -/
def leafBlob : Blob := { usage := 1, aes256 := false, mode := 0, midnight := false, mayLeave := true, lc := 3, parentGen := 1, instGen := 1, inst := 0, ver := 0, key := zeros 16 }

/-- A leaf key of zeros with its 16 bytes of description. -/
def plainLeaf : Bytes := zeros 32 ++ (le 1 1 ++ le 1 1 ++ le 1 0 ++ zeros 1 ++ addrBytes leafAddr ++ zeros 4)

/-- That key wrapped under that transport key, byte 0 least significant. -/
def wrappedLeaf : Bytes := le 56 0xd8613956abb74c31cbf8b02f65e23c5f89582946e92693483a93249b49ab286e4d39390772343e1d50c67e0c88b736824ef4773a972ba0fb

/-- The vault with leaf slot 1 held. -/
def keyHeld : State := keyState [(33, leafBlob)]

/-- A key command of this change at this stage. -/
def keyAt (c : KeyChange) (st : KeyStage) : State :=
  { keyHeld with kvt := { keyHeld.kvt with ops := [{ id := 5, cmd := ⟨256, 7, 0⟩, change := c, stage := st }], nextOp := 6 } }

/-- The part at this life-cycle state, the seal's audit room open. -/
def lifeState (life : Nat) : State := { keyHeld with dev := { keyHeld.dev with life := life } }

/-- An authorization of the owner to advance from this life-cycle state. -/
def lifeAuth (life target : Nat) : AuthIn := { authIn 1 target with authority := if life = 1 then 0 else 1, lcFrom := life }

/-- Time LOCKED to port 0, both PTP ports on, three sources with a priority. -/
def timState : State :=
  let s := ((dayState.setReg Reg.TIM_CTRL 0x78).setReg Reg.TIM_SRC_PRIO 0x4321).setReg Reg.TIM_QUAL 0x00010401
  { s with
    tim := { s.tim with
      sec := 1000, ns := 500, state := .locked, selected := 1, nextLaunch := 4
      sources := [(1, { qualified := true, sampled := true, good := 9 })]
      ports := [(1, { grandmaster := some 7 }), (2, { grandmaster := some 8 })] } }

/-- Time with port 0 a PTP master. -/
def timMaster : State := { timState.setReg Reg.TIM_PTP_CFG0 8 with tim := { timState.tim with ports := [(1, { master := true })] } }

/-- The cells of the flash that hold these bytes from an address. -/
def flashCells : Nat → Bytes → Memory
  | _, [] => []
  | a, x :: t => if x = Memory.erased then flashCells (a + 1) t else (a, x) :: flashCells (a + 1) t

/-- The part with this boot record, further flash cells, in standby. -/
def bootState (b : BootRec) (m : Memory) : State :=
  { dayState with
    dev := { dayState.dev with role := .standby }
    upd := { dayState.upd with flash := flashCells 0 b.bytes ++ m, romKey := sha384 (List.replicate 2049 0xFF) } }

/-- A package header of a slot whose image is empty: the fields that its check reads. -/
def slotHead (a : Nat) : Memory :=
  flashCells (a + 8) (le 4 7) ++ flashCells (a + 12) (le 4 0) ++ flashCells (a + 20) (le 4 0) ++ flashCells (a + 28) (le 4 0)
    ++ flashCells (a + 40) (le 4 0) ++ flashCells (a + 48) (sha384 [])

/-- An empty package, whole: kind 0, firmware 7. -/
def emptyPackage : Bytes :=
  le 4 0x4B505746 ++ le 1 1 ++ le 1 0 ++ le 2 0 ++ le 4 7 ++ le 4 0 ++ le 4 0 ++ le 4 0 ++ le 4 0 ++ le 4 0 ++ le 4 0 ++ le 4 0 ++ le 4 0
    ++ le 4 0xFFFFFFFF ++ sha384 [] ++ sha384 [] ++ zeros 48 ++ le 4 0 ++ zeros 60 ++ List.replicate 2049 0xFF ++ zeros 7
    ++ List.replicate 3408 0xFF ++ zeros 2472

/-- It is staged whole. -/
def stagedState : State := bootState { stageLen := 8192, stageTotal := 8192 } (flashCells stageBase emptyPackage)

/-- A campaign of firmware for endpoint 0. -/
def fwOne : FwCampaign :=
  { cmd := ⟨256, 7, 0⟩, calId := 2, media := 0, keyref := 0x83, group := 1, repeats := 1, remulti := 1, imageId := 9, activateAt := 0, image := [1]
    start := 0, deadline := 1000, endpoints := [0] }

/-- That campaign at this second of device time. -/
def fwState (x : FwCampaign) (sec : Nat) : State :=
  { bilState with
    arc := { bilState.arc with phase := .noSet }
    tim := { bilState.tim with sec := sec }, upd := { bilState.upd with campaigns := [(1, x)] } }

/-- A relay datagram of this kind from the peer on Ethernet port 0. -/
def relayIn (kind offset : Nat) (body : Bytes) : RelayIn :=
  { eth := 0, address := 0x0A000001, port := 4500, dport := 47842, bytes := relayBytes kind 0x7700 offset body }

/-- A relay from the predecessor under way, and the peer as successor 0 in this state. -/
def relayState (r : Option RelayRx) (x : RelayTx) : State :=
  let s := ((dayState.setRegI Reg.UPD_RELAY_CFG 0 (0x10000 + 4500)).setRegI Reg.UPD_RELAY_ADDR3 0 0x0A000001).setReg Reg.UPD_PRED_EUI_LO 0x7700
  { s with upd := { s.upd with relayRx := r, relays := [(0, x)] } }

/-- A pending slot whose window has run for these noon cycles. -/
def windowState (w : Nat) : State :=
  let s := bootState { pendValid := true, pending := 1, stateB := 2 } (slotHead (slotBase 1))
  { s with dev := { s.dev with nc := w }, upd := { s.upd with slot := 1, confirmFrom := some 0 } }

/-- A request packet (R467). -/
def request (cmd seq : Nat) (body : Bytes) : Bytes :=
  let x := le 1 cmd ++ le 1 seq ++ le 2 body.length ++ body
  sof :: x ++ le 2 (packetCrc x)

/-- RECOVERY, and DAY, with bytes in SSP's receive stream. -/
def loaderHears (rx : Bytes) : State :=
  { State.reset with dev := { State.reset.dev with state := .recovery }, svc := { State.reset.svc with ports := [(0, { rx := rx })] } }
def serviceHears (rx : Bytes) : State :=
  { dayState with svc := { dayState.svc with ports := [(0, { rx := rx })] } }
/-- RECOVERY with slot B sound and VALID, and bytes in SSP's receive stream. -/
def loaderSlot (rx : Bytes) : State :=
  let s := bootState { stateB := 2 } (slotHead (slotBase 1))
  { s with dev := { s.dev with state := .recovery }, svc := { s.svc with ports := [(0, { rx := rx })] } }

/-- A STANDBY part in step with a partner that is present; and the owner. -/
def standbyState : State :=
  { dayState with
    dev := { dayState.dev with role := .standby }
    par := { dayState.par with owned := false, present := true, inStep := true, side := true, lanes := 3 } }
def ownerState : State :=
  { dayState with
    dev := { dayState.dev with role := .active }
    par := { dayState.par with owned := true, permit := true, ownOut := true, present := true, side := true, lanes := 3 } }

/-- The owner with a release that waits for the echo. -/
def releasing (d : Bool) : State := { ownerState with par := { ownerState.par with release := some { cmd := some ⟨256, 7, 0⟩, handover := false, draining := d } } }

/-- What a partner's heartbeat reports. -/
def reportIn : ReportIn :=
  { eui := 5, role := .active, owner := true, side := false, inStep := true, state := .day, health := 0, ownedSince := 0, epoch := 0, lastShadow := 0, gapFrom := 0 }

/-- A shadow frame. -/
def shadowIn : ShadowIn :=
  { seq := 4, path := 0, radio := false, bytes := [1], rts := 9, chans := 1, lq := 0, zcFallback := false, overload := false, collector := none, rate := 0, endNs := 0, missing := 0 }

/-- Instance 3 is READY, and instance 3 under a fence that waits for these units. -/
def readyInst : State := { dayState with vin := { dayState.vin with insts := [(3, { state := .ready })] } }
def fencing (l : List FenceUnit) : State :=
  { dayState with
    vin := { dayState.vin with insts := [(3, { state := .fencing, epoch := 1, cause := 1, fence := some { startNc := 0, cause := 1, disable := false, waiting := l, cmds := [] } })] } }

/-- An instance that owns a context. -/
def heldInst : State := { epState with vin := { epState.vin with insts := [(0, { state := .ready })] } }

/-- DAWN at this stage. -/
def dawnAt (k : Nat) : State := { State.reset with dev := { State.reset.dev with state := .dawn, stage := k } }

/-- What DAWN finds: no drive, channels that do not train. -/
def dawnIn : DawnIn :=
  { timeUs := 100, bootRecLow := false, sideB := false, ospLit := false, dutyOk := true, bcastOk := true, vbatMv := 3000, srpX16 := false, ethSpd := 0
    lanePass := 7, sigA := true, sigB := true, dramRates := [3200, 3200, 3200, 3200], found := [], claim := ⟨false, false, false⟩ }

/-- DUSK, its save not ended; and ended. -/
def duskState (saved : Bool) : State :=
  { dayState with dev := { dayState.dev with state := .dusk }, pwr := { dayState.pwr with saveDone := saved, supplyValid := false } }

/-- An event at the input of recorder 0. -/
def eventIn : EventIn := { recorder := 0, source := 3, kind := 5, arg0 := 9 }
def recState (x : Recorder) : State := { dayState with evr := { dayState.evr with recs := [(0, x)] } }

/-- A set of two journal drives whose assembly failed, both drives there again. -/
def failedSet : State :=
  { dayState with
    arc := { dayState.arc with
      phase := .failed, setId := 1, setGen := 1, journal := [0, 1]
      found := [0, 1].map (fun k => { disc := k, serial := k, lba := 512, metaBytes := 0, zeroed := true, usable := 4096, root := k, label := some (1, 1, k, [0, 1]) }) } }
def tamperState : State := { metState 0 with dev := { (metState 0).dev with tamperHold := true } }

/-- The last two bytes of a package wait to be staged. -/
def lastGranule : State :=
  let s := bootState { stageTotal := 2 } []
  { s with upd := { s.upd with download := some { cmd := ⟨256, 7, 0⟩, rest := [1, 2] } } }

/-! ### Reading byte strings -/

theorem ofLe_le {n : Nat} : ∀ {x : Nat}, x < 256 ^ n → ofLe (le n x) = x := by
  induction n with
  | zero => intro x h; simp [le, ofLe]; omega
  | succ n ih =>
    intro x h
    rw [le, ofLe, ih (Nat.div_lt_of_lt_mul (by rw [Nat.pow_succ] at h; omega))]
    simp [BitVec.toNat_ofNat]
    omega

theorem le_length (n x : Nat) : (le n x).length = n := by
  induction n generalizing x with
  | zero => rfl
  | succ n ih => rw [le, List.length_cons, ih]

theorem zeros_length {n : Nat} : (zeros n).length = n := List.length_replicate

theorem crcByteR_lt {c : Nat} {b : Byte} (h : c < 2 ^ 32) : crcByteR 0x82F63B78 c b < 2 ^ 32 := by
  have step : ∀ x, x < 2 ^ 32 → crcStepR 0x82F63B78 x < 2 ^ 32 := by
    intro x hx
    unfold crcStepR
    split
    · exact Nat.xor_lt_two_pow (by omega) (by decide)
    · omega
  have fold : ∀ (l : List Nat) x, x < 2 ^ 32 → l.foldl (fun x _ => crcStepR 0x82F63B78 x) x < 2 ^ 32 := by
    intro l
    induction l with
    | nil => exact fun _ h => h
    | cons _ _ ih => exact fun x h => ih _ (step x h)
  exact fold _ _ (Nat.xor_lt_two_pow h (Nat.lt_trans b.isLt (by decide)))

theorem crc32c_lt (l : Bytes) : crc32c l < 2 ^ 32 := by
  have fold : ∀ (l : Bytes) x, x < 2 ^ 32 → l.foldl (crcByteR 0x82F63B78) x < 2 ^ 32 := by
    intro l
    induction l with
    | nil => exact fun _ h => h
    | cons _ _ ih => exact fun x h => ih _ (crcByteR_lt h)
  exact Nat.xor_lt_two_pow (fold _ _ (by decide)) (by decide)

theorem byteAt_left {x t : Bytes} {i : Nat} (h : i < x.length) : byteAt (x ++ t) i = byteAt x i := by
  simp [byteAt, List.getD, List.getElem?_append_left h]

theorem leAt_left {x t : Bytes} {i n : Nat} (h : i + n ≤ x.length) : leAt (x ++ t) i n = leAt x i n := by
  unfold leAt slice
  rw [List.drop_append_of_le_length (by omega), List.take_append_of_le_length (by rw [List.length_drop]; omega)]

/-- A little-endian number that ends a string is read back. -/
theorem leAt_right {x : Bytes} {n k v : Nat} (hx : x.length = n) (h : v < 256 ^ k) : leAt (x ++ le k v) n k = v := by
  unfold leAt slice
  rw [List.drop_left' hx, List.take_of_length_le (Nat.le_of_eq (le_length k v)), ofLe_le h]

theorem fit_self {n : Nat} {b : Bytes} (h : b.length = n) : fit n b = b := by
  unfold fit zeros
  rw [List.take_of_length_le (Nat.le_of_eq h), h, Nat.sub_self]
  simp

/-! ### Reading the flash of those states -/

theorem read_cells_other {b : Bytes} {m : Memory} : ∀ {a i : Nat}, (i < a ∨ a + b.length ≤ i) → Memory.read (flashCells a b ++ m) i = Memory.read m i := by
  induction b with
  | nil => intros; rfl
  | cons x t ih =>
    intro a i h
    rw [List.length_cons] at h
    rw [flashCells]
    split
    · exact ih (by omega)
    · rw [List.cons_append, ← ih (a := a + 1) (by omega)]
      simp only [Memory.read, Tab.getD, Tab.get?, if_neg (show ¬ a = i by omega)]

theorem read_cells_same {b : Bytes} {m : Memory} : ∀ {a k : Nat} (h : k < b.length), Memory.read m (a + k) = Memory.erased →
    Memory.read (flashCells a b ++ m) (a + k) = b[k] := by
  induction b with
  | nil => intro a k h; exact absurd h (by simp)
  | cons x t ih =>
    intro a k h hm
    rw [flashCells]
    cases k with
    | zero =>
      split
      · rename_i hx
        rw [read_cells_other (by omega)]
        simpa [hx] using hm
      · simp [Memory.read, Tab.getD, Tab.get?]
    | succ k =>
      have e : a + (k + 1) = a + 1 + k := by omega
      have hr := ih (a := a + 1) (k := k) (by simpa using h) (by rw [← e]; exact hm)
      rw [e]
      split
      · simpa using hr
      · rw [List.cons_append]
        simp only [Memory.read, Tab.getD, Tab.get?, if_neg (show ¬ a = a + 1 + k by omega)]
        simpa [Memory.read, Tab.getD] using hr

theorem bytes_cells {b : Bytes} {m : Memory} {a n : Nat} (hn : b.length = n)
    (hm : ∀ i, a ≤ i → i < a + n → Memory.read m i = Memory.erased) : Memory.bytes (flashCells a b ++ m) a n = b := by
  refine List.ext_getElem (by rw [Memory.bytes_length, hn]) (fun k hk hk' => ?_)
  rw [Memory.bytes_getElem, read_cells_same hk' (hm _ (by omega) (by omega))]

theorem bytes_cells_other {b : Bytes} {m : Memory} {a c n : Nat} (h : c + n ≤ a ∨ a + b.length ≤ c) :
    Memory.bytes (flashCells a b ++ m) c n = Memory.bytes m c n :=
  Memory.bytes_congr (fun i h1 h2 => read_cells_other (by omega))

theorem read_absent {m : Memory} {i : Nat} (h : ∀ c ∈ m, c.1 ≠ i) : Memory.read m i = Memory.erased := by
  have : Tab.get? m i = none := by
    induction m with
    | nil => rfl
    | cons c t ih => simp only [Tab.get?, if_neg (h c (by simp)), ih (fun d hd => h d (by simp [hd]))]
  simp [Memory.read, Tab.getD, this]

theorem bytes_absent {m : Memory} {a n : Nat} (h : ∀ c ∈ m, c.1 < a ∨ a + n ≤ c.1) : Memory.bytes m a n = List.replicate n Memory.erased := by
  refine List.ext_getElem (by rw [Memory.bytes_length, List.length_replicate]) (fun k hk hk' => ?_)
  rw [Memory.bytes_length] at hk
  rw [Memory.bytes_getElem, read_absent (fun c hc e => by have := h c hc; omega), List.getElem_replicate]

theorem slice_bytes {m : Memory} {a n i k : Nat} (h : i + k ≤ n) : slice (Memory.bytes m a n) i k = Memory.bytes m (a + i) k := by
  refine List.ext_getElem (by simp [slice, Memory.bytes_length]; omega) (fun j hj hj' => ?_)
  simp [slice, Memory.bytes, Nat.add_assoc]

/-- No cell of `m` lies in the boot record's sectors. -/
abbrev clear (m : Memory) : Prop := ∀ c ∈ m, 0x20000 ≤ c.1

theorem boot_bytes_length (b : BootRec) : b.bytes.length = 4096 := by
  unfold BootRec.bytes fit
  simp [le, zeros]
  omega

theorem bytes_boot {b : BootRec} {m : Memory} {c n : Nat} (h : 4096 ≤ c) : Memory.bytes (flashCells 0 b.bytes ++ m) c n = Memory.bytes m c n :=
  bytes_cells_other (.inr (by rw [boot_bytes_length]; omega))

theorem boot_erased : bootOf (List.replicate 4096 Memory.erased) = none := by
  unfold bootOf
  rw [if_neg]
  decide +kernel

theorem boot_first {b : BootRec} {m : Memory} (hm : clear m) : Memory.bytes (flashCells 0 b.bytes ++ m) 0 4096 = b.bytes :=
  bytes_cells (boot_bytes_length b) (fun i _ h => read_absent (fun c hc e => by have := hm c hc; omega))

theorem boot_second {b : BootRec} {m : Memory} (hm : clear m) :
    Memory.bytes (flashCells 0 b.bytes ++ m) 0x10000 4096 = List.replicate 4096 Memory.erased := by
  rw [bytes_boot (by decide)]
  exact bytes_absent (fun c hc => .inr (Nat.le_trans (by decide) (hm c hc)))

theorem boot_of {s : State} {b : BootRec} {m : Memory} (hf : s.upd.flash = flashCells 0 b.bytes ++ m) (hm : clear m) (hb : bootOf b.bytes = some b) :
    s.boot = b := by
  have h0 : s.bootCopy 0 = some b := (congrArg (fun f => bootOf (Memory.bytes f (0 * 0x10000) 4096)) hf).trans ((congrArg bootOf (boot_first hm)).trans hb)
  have h1 : s.bootCopy 1 = none :=
    (congrArg (fun f => bootOf (Memory.bytes f (1 * 0x10000) 4096)) hf).trans ((congrArg bootOf (boot_second hm)).trans boot_erased)
  unfold State.boot State.bootInForce
  rw [h0, h1]

theorem head_of {s : State} {b : BootRec} {m : Memory} {k : Nat} (hf : s.upd.flash = flashCells 0 b.bytes ++ m) :
    s.slotHeader k = Memory.bytes m (slotBase k) 8192 :=
  (congrArg (fun f => Memory.bytes f (slotBase k) 8192) hf).trans (bytes_boot (by unfold slotBase; split <;> decide))

theorem image_of {s : State} {b : BootRec} {m : Memory} {k : Nat} (hf : s.upd.flash = flashCells 0 b.bytes ++ m) :
    s.slotImage k = Memory.bytes m (slotBase k + 8192) (pkImageLen (Memory.bytes m (slotBase k) 8192)) := by
  unfold State.slotImage
  rw [head_of hf, hf, bytes_boot (by unfold slotBase; split <;> decide)]

theorem boot_head_length (b : BootRec) : (fit 4092 b.head).length = 4092 := by
  unfold fit
  simp [zeros]
  omega

/-- The fields that the first 4 092 bytes of a boot record spell. -/
def bootFields (x : Bytes) : BootRec :=
  { rseq := leAt x 4 4, active := byteAt x 8 % 2, pendValid := bitAt (byteAt x 8) 1, pending := byteAt x 8 / 4 % 2
    unconf := byteAt x 9 % 4, stateA := byteAt x 10 % 8, stateB := byteAt x 11 % 8, floor := leAt x 12 4, fallbacks := leAt x 16 4
    stageLen := leAt x 20 4, stageTotal := leAt x 24 4 }

/-- A boot record is read back: its CRC holds, so its fields alone need evaluating. -/
theorem boot_spelled {b : BootRec} (h : leAt (fit 4092 b.head) 0 4 = 0x52425746 ∧ bootFields (fit 4092 b.head) = b) : bootOf b.bytes = some b := by
  have hl := boot_head_length b
  have hb : b.bytes = fit 4092 b.head ++ le 4 (crc32c (fit 4092 b.head)) := rfl
  have hc : leAt b.bytes 4092 4 = crc32c (b.bytes.take 4092) := by
    rw [hb, leAt_right hl (Nat.lt_of_lt_of_le (crc32c_lt _) (by decide)), List.take_left' hl]
  have hL : ∀ i n, i + n ≤ 4092 → leAt b.bytes i n = leAt (fit 4092 b.head) i n := fun i n h => leAt_left (by rw [hl]; exact h)
  have hB : ∀ i, i < 4092 → byteAt b.bytes i = byteAt (fit 4092 b.head) i := fun i h => byteAt_left (by rw [hl]; exact h)
  have hf : bootFields b.bytes = bootFields (fit 4092 b.head) := by
    unfold bootFields
    rw [hL 4 4 (by decide), hL 12 4 (by decide), hL 16 4 (by decide), hL 20 4 (by decide), hL 24 4 (by decide), hB 8 (by decide),
      hB 9 (by decide), hB 10 (by decide), hB 11 (by decide)]
  unfold bootOf
  rw [if_pos ⟨by rw [hL 0 4 (by decide), h.1], hc⟩]
  exact congrArg some (hf.trans h.2)

/-- A pending slot B and a VALID slot B, as boot records spell them. -/
theorem boot_pending : bootOf ({ pendValid := true, pending := 1, stateB := 2 } : BootRec).bytes = some { pendValid := true, pending := 1, stateB := 2 } :=
  boot_spelled (by decide +kernel)
theorem boot_validB : bootOf ({ stateB := 2 } : BootRec).bytes = some { stateB := 2 } := boot_spelled (by decide +kernel)
theorem clear_slotB : clear (slotHead (slotBase 1)) := by decide +kernel

theorem window_boot (w : Nat) : (windowState w).boot = { pendValid := true, pending := 1, stateB := 2 } := boot_of rfl clear_slotB boot_pending

theorem windowState_gone (w : Nat) : (windowState w).windowGone = some w := by
  unfold State.windowGone
  rw [window_boot]
  rfl

theorem lastGranule_boot : lastGranule.boot = { stageTotal := 2 } := boot_of (m := []) rfl (by decide) (boot_spelled (by decide +kernel))

theorem lastGranule_next : lastGranule.nextGranule = 2 := by
  unfold State.nextGranule
  rw [lastGranule_boot]
  decide +kernel

/-- The header of slot B in those states, and what it spells. -/
def headB : Bytes := Memory.bytes (slotHead (slotBase 1)) (slotBase 1) 8192

theorem headB_key : slice headB 256 2049 = List.replicate 2049 0xFF := (slice_bytes (by decide)).trans (bytes_absent (by decide +kernel))
theorem headB_fields : pkImageLen headB = 0 ∧ pkImageDigest headB = sha384 [] ∧ pkFwId headB = 7 ∧ pkIslLen headB = 0 ∧ pkIslOk headB 0 = true := by
  decide +kernel

theorem slotB_passes {s : State} (hf : s.upd.flash = flashCells 0 ({ stateB := 2 } : BootRec).bytes ++ slotHead (slotBase 1))
    (hk : s.upd.romKey = sha384 (List.replicate 2049 0xFF)) (hm : s.met.swId = 0) : s.slotPasses 1 true = true := by
  have hh : s.slotHeader 1 = headB := head_of hf
  have hi : s.slotImage 1 = [] := by
    rw [image_of hf, show Memory.bytes (slotHead (slotBase 1)) (slotBase 1) 8192 = headB from rfl, headB_fields.1]
    rfl
  unfold State.slotPasses State.authentic
  dsimp only
  rw [hh, hi, hk, hm, headB_key, headB_fields.2.1, headB_fields.2.2.1, headB_fields.2.2.2.2, boot_of hf clear_slotB boot_validB]
  simp

/-- That state, with what is to be activated. -/
def validB (a : Option Activation) : State :=
  let s := bootState { stateB := 2 } (slotHead (slotBase 1))
  { s with upd := { s.upd with activation := a } }

theorem validB_flash (a : Option Activation) : (validB a).upd.flash = flashCells 0 ({ stateB := 2 } : BootRec).bytes ++ slotHead (slotBase 1) := rfl
theorem validB_boot (a : Option Activation) : (validB a).boot = { stateB := 2 } := boot_of (validB_flash a) clear_slotB boot_validB
theorem validB_inactive (a : Option Activation) : (validB a).inactive = 1 := by
  unfold State.inactive
  rw [validB_boot]
  rfl
theorem validB_head (a : Option Activation) : (validB a).slotHeader 1 = headB := head_of (validB_flash a)
theorem validB_free (a : Option Activation) : (validB a).activateBarred = false := by
  unfold State.activateBarred
  dsimp only
  rw [validB_inactive, validB_boot, validB_head, headB_fields.2.2.2.1]
  rfl
theorem validB_island (a : Option Activation) : (validB a).islandDiffers = false := by
  unfold State.islandDiffers
  dsimp only
  rw [validB_inactive, validB_head, headB_fields.2.2.2.1]
  rfl
theorem validB_bootable (a : Option Activation) : (validB a).bootable 1 true = true := by
  unfold State.bootable
  rw [slotB_passes (validB_flash a) rfl rfl, validB_boot]
  rfl

/-- A package staged to one granule of 200 000 bytes, relay reception enabled. -/
def resumeState : State := (bootState { stageLen := 65536, stageTotal := 200000 } []).setReg Reg.UPD_CTRL 2
theorem resume_boot : resumeState.boot = { stageLen := 65536, stageTotal := 200000 } :=
  boot_of (m := []) rfl (by decide) (boot_spelled (by decide +kernel))

/-- A VALID slot B whose header is erased, so that it names an island section of its own, and its activation. -/
def islandB (a : Activation) : State :=
  let s := bootState { stateB := 2 } []
  { s with upd := { s.upd with activation := some a } }
theorem islandB_boot (a : Activation) : (islandB a).boot = { stateB := 2 } := boot_of (m := []) rfl (by decide) boot_validB
theorem islandB_inactive (a : Activation) : (islandB a).inactive = 1 := by
  unfold State.inactive
  rw [islandB_boot]
  rfl
theorem islandB_head (a : Activation) (k : Nat) : (islandB a).slotHeader k = List.replicate 8192 0xFF :=
  (head_of (s := islandB a) (b := { stateB := 2 }) (m := []) rfl).trans (bytes_absent (fun _ h => nomatch h))
theorem erased_fields : pkIslLen (List.replicate 8192 0xFF) = 0xFFFFFFFF ∧ pkIslSw (List.replicate 8192 0xFF) = 0xFFFFFFFF
    ∧ pkIslOk (List.replicate 8192 0xFF) 0xFFFFFFFF = true := by decide +kernel
theorem islandB_free (a : Activation) : (islandB a).activateBarred = false := by
  unfold State.activateBarred
  dsimp only
  rw [islandB_inactive, islandB_boot, islandB_head, islandB_head, erased_fields.1, erased_fields.2.1, erased_fields.2.2]
  rfl
theorem islandB_differs (a : Activation) : (islandB a).islandDiffers = true := by
  unfold State.islandDiffers
  dsimp only
  rw [islandB_inactive, islandB_head, erased_fields.1, erased_fields.2.1]
  rfl

/-- D2 with a VALID slot B, slot A without a package: slot B is chosen; with an erased flash none is. -/
def dawnB : State :=
  let s := validB none
  { s with dev := { s.dev with state := .dawn, stage := 2 } }
theorem dawnB_boot : dawnB.boot = { stateB := 2 } := boot_of (validB_flash none) clear_slotB boot_validB
theorem dawnB_chooses {f : Nat → Bool} (h : f 1 = true) : dawnB.chooseSlot f = (some 1, dawnB.commitBoot (fun b => { b with active := 1 })) := by
  have h0 : ∀ x, dawnB.bootable 0 x = false := fun x => by unfold State.bootable; rw [dawnB_boot]; rfl
  have h1 : dawnB.bootable 1 true = true := by unfold State.bootable; rw [slotB_passes (s := dawnB) (validB_flash none) rfl rfl, dawnB_boot]; rfl
  unfold State.chooseSlot
  simp [dawnB_boot, h0, h1, h]
theorem erased_boot : (dawnAt 2).boot = {} := by
  have h : ∀ k, (dawnAt 2).bootCopy k = none := fun _ =>
    (congrArg bootOf (bytes_absent (m := []) (fun _ h => nomatch h))).trans boot_erased
  unfold State.boot State.bootInForce
  rw [h, h]
theorem erased_chooses {f : Nat → Bool} : (dawnAt 2).chooseSlot f = (none, dawnAt 2) := by
  have h : ∀ k, k < 2 → ∀ x, (dawnAt 2).bootable k x = false := fun k hk x => by
    unfold State.bootable
    rw [erased_boot]
    match k, hk with
    | 0, _ => rfl
    | 1, _ => rfl
  unfold State.chooseSlot
  simp [erased_boot, h]

/-- The staged package is read back, and passes. -/
theorem staged_flash : stagedState.upd.flash =
    flashCells 0 ({ stageLen := 8192, stageTotal := 8192 } : BootRec).bytes ++ (flashCells stageBase emptyPackage ++ []) :=
  (congrArg (fun x => flashCells 0 ({ stageLen := 8192, stageTotal := 8192 } : BootRec).bytes ++ x)
    (List.append_nil (flashCells stageBase emptyPackage))).symm
theorem staged_clear : clear (flashCells stageBase emptyPackage ++ []) := by decide +kernel
theorem staged_boot {s : State} (hf : s.upd.flash = stagedState.upd.flash) : s.boot = { stageLen := 8192, stageTotal := 8192 } :=
  boot_of (hf.trans staged_flash) staged_clear (boot_spelled (by decide +kernel))
theorem package_length : emptyPackage.length = 8192 := by decide +kernel
theorem staged_head {s : State} (hf : s.upd.flash = stagedState.upd.flash) : s.stageHeader = emptyPackage :=
  (congrArg (fun f => Memory.bytes f stageBase 8192) (hf.trans staged_flash)).trans
    ((bytes_boot (by decide)).trans (bytes_cells package_length (fun i _ _ => rfl)))
theorem staged_fields : pkBodyLen emptyPackage = 0 ∧ pkFieldsOk emptyPackage 8192 = true ∧ slice emptyPackage 256 2049 = List.replicate 2049 0xFF
    ∧ pkBodyDigest emptyPackage = sha384 [] ∧ pkFwId emptyPackage = 7 ∧ pkKind emptyPackage = 0 ∧ pkIslLen emptyPackage = 0 ∧ pkIslOk emptyPackage 0 = true := by
  decide +kernel
theorem staged_image : stagedState.stagedImage = some [] := by
  unfold State.stagedImage State.stageBody
  dsimp only
  rw [staged_head rfl, staged_fields.1, staged_fields.2.2.2.2.2.1]
  rfl
theorem package_digest : pkImageDigest emptyPackage = sha384 [] := by decide +kernel
theorem staged_passes (c : CmdRef) : (stagedState.replyQueued c).verifyStep true = 0 := by
  have hf : (stagedState.replyQueued c).upd.flash = stagedState.upd.flash := by unfold State.replyQueued; split <;> rfl
  have hk : (stagedState.replyQueued c).upd.romKey = sha384 (List.replicate 2049 0xFF) := by unfold State.replyQueued; split <;> rfl
  have hs : (stagedState.replyQueued c).met.swId = 0 := by unfold State.replyQueued; split <;> rfl
  have hb : (stagedState.replyQueued c).stageBody = [] := by
    unfold State.stageBody
    rw [staged_head hf, staged_fields.1]
    rfl
  obtain ⟨_, h2, h3, h4, h5, h6, h7, h8⟩ := staged_fields
  unfold State.verifyStep State.authentic
  dsimp only
  rw [staged_boot hf, staged_head hf, hb, hk, hs]
  simp [h2, h3, h4, h5, h6, h7, h8]

/-- RECOVERY with slot B sound and VALID: the port hears the packet, and the slot passes. -/
theorem loaderSlot_passes (rx : Bytes) : (loaderSlot rx).slotPasses 1 true = true := slotB_passes rfl rfl rfl

/-- A relay datagram at the part's own offset of a package that is arriving. -/
def relayArrives : State :=
  let s := relayState (some { cmd := ⟨256, 7, 0⟩, offer := some (zeros 48, 9, 9) }) {}
  { s with upd := { s.upd with flash := flashCells 0 ({ stageTotal := 9 } : BootRec).bytes ++ [] } }
theorem relayArrives_boot : relayArrives.boot = { stageTotal := 9 } := boot_of (m := []) rfl (by decide) (boot_spelled (by decide +kernel))
theorem relayArrives_rx : relayArrives.upd.relayRx = some { cmd := ⟨256, 7, 0⟩, offer := some (zeros 48, 9, 9) } := rfl
theorem relayGot_of {s : State} {r : RelayRx} {b : BootRec} (hb : s.boot = b) (hr : s.upd.relayRx = some r) :
    s.relayGot = b.stageLen + r.held.length := by
  unfold State.relayGot
  rw [hb, hr]
theorem relayArrives_got : relayArrives.relayGot = 0 := relayGot_of relayArrives_boot relayArrives_rx

/-! ### The plan of a frame -/

theorem segOf_lt {p : Phr} {i : Nat} : segOf p i < 12 := by
  unfold segOf
  split
  · decide
  · exact Nat.mod_lt _ (by decide)

/-- In band 0 a symbol of set 0 carries 13 bits: 53 carriers in ROBO. -/
theorem robon_bits : ∀ seg, seg < 12 → symbolBits (7, 59) (segMap robonSet seg) = 13 := by decide +kernel

theorem robon_fits (p : Phr) : depthFits (7, 59) robonSet p = decide (2048 ≤ 13 * blockStart p.depth p.cycleUs 1) := by
  have fold : ∀ (l : List Nat) a, l.foldl (fun a i => a + symbolBits (7, 59) (segMap robonSet (segOf p i))) a = a + 13 * l.length := by
    intro l
    induction l with
    | nil => intro a; rfl
    | cons i t ih => intro a; rw [List.foldl_cons, ih, robon_bits _ segOf_lt, List.length_cons]; omega
  unfold depthFits
  rw [fold, List.length_range, Nat.zero_add]

theorem robon_depth : ∀ d0, d0 < 7 →
    ((List.range 8).map (· + 1)).find? (fun d => decide (d0 ≤ d) && decide (2048 ≤ 13 * blockStart d 20000 1)) = some 6 := by decide +kernel

/-- In band 0, with 20 ms cycles and a depth up to 6, a frame under set 0 has a plan. -/
theorem robon_plan {s : State} {t rate tmap : Nat} {one : Bool} {link : Bytes} (hb : s.band = some (7, 59)) (hc : s.cycleUs = 20000)
    (hd : s.regField Reg.PLC_CTRL 15 13 < 6) (h2 : s.regField Reg.PLC_BAND 3 0 ≠ 2) : (s.launchPlan t rate one tmap robonSet link).isSome = true := by
  have hp : ∀ d0, d0 < 7 → chooseDepth (7, 59) robonSet (s.phrAt (7, 59) t rate (max 1 (ceilDiv (8 * link.length) (infoBits rate))) tmap) d0 = some 6 := by
    intro d0 h0
    unfold chooseDepth
    simp only [robon_fits]
    rw [show (s.phrAt (7, 59) t rate (max 1 (ceilDiv (8 * link.length) (infoBits rate))) tmap).cycleUs = 20000 from hc]
    exact robon_depth d0 h0
  unfold State.launchPlan
  rw [hb]
  dsimp only
  rw [hp _ (by split; exact Nat.le_of_ble_eq_true rfl; exact Nat.succ_lt_succ hd)]
  dsimp only
  rw [if_neg (fun h => h2 h.1)]
  rfl

/-- The same, with what holds of every plan. -/
theorem robon_any {s : State} {t rate tmap : Nat} {one : Bool} {link : Bytes} {Q : Phr → List (List (Nat × Nat × Nat)) → Prop} (hb : s.band = some (7, 59))
    (hc : s.cycleUs = 20000) (hd : s.regField Reg.PLC_CTRL 15 13 < 6) (h2 : s.regField Reg.PLC_BAND 3 0 ≠ 2) (hq : ∀ r : Phr × List (List (Nat × Nat × Nat)), Q r.1 r.2) :
    ∃ p payload, s.launchPlan t rate one tmap robonSet link = some (p, payload) ∧ Q p payload :=
  let ⟨r, h⟩ := Option.isSome_iff_exists.mp (robon_plan hb hc hd h2)
  ⟨r.1, r.2, h, hq r⟩

/-! ### A calendar, and the MAC of a billing set -/

theorem calendar_length : (calendar 2).length = 4092 := by decide +kernel

theorem aesRounds_length {k : List Nat} {ks : List (List Nat)} : ∀ {b : List Nat}, (∀ x ∈ k :: ks, x.length = 16) → (aesRounds (k :: ks) b).length = 16 := by
  induction ks generalizing k with
  | nil => intro b h; simp [aesRounds, xorL, aesShift, h k (by simp)]
  | cons j t ih => intro b h; rw [aesRounds]; exact ih (fun x hx => h x (List.mem_cons_of_mem _ hx)); exact fun e => nomatch e

theorem aesBlock_length {a k : List Nat} {ks : List (List Nat)} {b : List Nat} (h : ∀ x ∈ k :: ks, x.length = 16) :
    (aesBlock (a :: k :: ks) b).length = 16 := aesRounds_length h

theorem cbcMac_length {rk : List (List Nat)} (h : ∀ b, (aesBlock rk b).length = 16) : ∀ {n : Nat} {st l : List Nat}, st.length = 16 → (cbcMac rk n st l).length = 16 := by
  intro n
  induction n with
  | zero => exact fun h => h
  | succ n ih =>
    intro st l hs
    cases l with
    | nil => exact hs
    | cons x t => rw [cbcMac]; exact ih (h _); exact fun e => nomatch e

theorem ccmTag_length {rk : List (List Nat)} {nonce aad plain : List Nat} {t : Nat} (h : ∀ b, (aesBlock rk b).length = 16) (ht : t ≤ 16) :
    (ccmTag rk nonce aad plain t).length = t := by
  unfold ccmTag
  simp [xorL, ccmStream, h, cbcMac_length h]
  omega

theorem roundKeys_length : (roundKeys true (bilState.ireg)).length = 15 ∧ ∀ x ∈ roundKeys true bilState.ireg, x.length = 16 := by decide +kernel

theorem islandMac_length (b : BilSet) : (bilState.islandMac b).length = 16 := by
  have hb : ∀ x, (aesBlock (roundKeys true bilState.ireg) x).length = 16 := by
    intro x
    obtain ⟨hl, hk⟩ := roundKeys_length
    match hr : roundKeys true bilState.ireg, hl, hk with
    | _ :: _ :: _, _, hk => exact aesBlock_length (fun y hy => hk y (List.mem_cons_of_mem _ hy))
  unfold State.islandMac bytesOf
  dsimp only
  rw [List.length_map, ccmTag_length hb (Nat.le_refl 16)]

/-- A saved set is read back from its head, its MAC from the 16 bytes that follow. -/
theorem bilSetOf_append {x m : Bytes} (hx : x.length = 304) (hm : m.length = 16) : bilSetOf (x ++ m) = { bilSetOf x with mac := m } := by
  have hL : ∀ i n, i + n ≤ 304 → leAt (x ++ m) i n = leAt x i n := fun i n h => leAt_left (by rw [hx]; exact h)
  have hB : ∀ i, i < 304 → byteAt (x ++ m) i = byteAt x i := fun i h => byteAt_left (by rw [hx]; exact h)
  have hW : ∀ o w n, o + w * n ≤ 304 → (List.range n).map (fun k => leAt (x ++ m) (o + w * k) w) = (List.range n).map (fun k => leAt x (o + w * k) w) := by
    intro o w n h
    refine List.map_congr_left (fun k hk => hL _ _ ?_)
    have := Nat.mul_le_mul_left w (List.mem_range.mp hk)
    rw [Nat.mul_succ] at this
    omega
  have hM : slice (x ++ m) 304 16 = m := by
    unfold slice
    rw [List.drop_left' hx, List.take_of_length_le (Nat.le_of_eq hm)]
  unfold bilSetOf
  simp only [hM, hW 40 8 8 (by decide), hW 104 8 8 (by decide), hW 204 4 15 (by decide)]
  simp only [hL 0 3 (by decide), hL 4 4 (by decide), hL 8 4 (by decide), hL 12 4 (by decide), hL 16 8 (by decide), hL 24 8 (by decide), hL 34 2 (by decide),
    hL 36 4 (by decide), hL 168 4 (by decide), hL 176 8 (by decide), hL 184 4 (by decide), hL 192 8 (by decide), hL 200 4 (by decide), hL 264 8 (by decide),
    hL 272 4 (by decide), hB 3 (by decide), hB 32 (by decide), hB 33 (by decide), hB 172 (by decide), hB 188 (by decide)]

theorem bilOne_head : bilOne.head.length = 304 ∧ (bilSetOf bilOne.head).head = bilOne.head ∧ (bilSetOf bilOne.head).endpoint = 0 ∧ (bilSetOf bilOne.head).sseq = 6 := by
  decide +kernel

theorem savedSet_length : savedSet.length = 320 := by
  unfold savedSet
  rw [List.length_append, bilOne_head.1, islandMac_length]
theorem savedSet_spells : bilSetOf savedSet = { bilSetOf bilOne.head with mac := bilState.islandMac bilOne } :=
  bilSetOf_append bilOne_head.1 (islandMac_length _)
theorem savedSet_head : (bilSetOf savedSet).head = bilOne.head := by
  rw [savedSet_spells]
  exact bilOne_head.2.1
theorem savedSet_mac : bilState.islandMac (bilSetOf savedSet) = (bilSetOf savedSet).mac := by
  unfold State.islandMac
  rw [savedSet_head, savedSet_spells]
  rfl
theorem savedSet_endpoint : (bilSetOf savedSet).endpoint = 0 := by
  rw [savedSet_spells]
  exact bilOne_head.2.2.1
theorem savedSet_sseq : (bilSetOf savedSet).sseq = 6 := by
  rw [savedSet_spells]
  exact bilOne_head.2.2.2

/-! ### The key that is unwrapped -/

/-- One of the 36 steps of unwrapping 48 bytes, and what stands between two of them: the check value and the semiblocks. -/
def kwStep (e : List Nat × List Nat) (k : Nat) : List Nat × List Nat :=
  let t := 6 * 6 - 1 - k
  let b := aesInvBlock (roundKeys true (List.replicate 32 7)) (xorL e.1 ((be16 (t + 1)).drop 8) ++ semi e.2 (t % 6))
  (b.take 8, putSemi e.2 (t % 6) (b.drop 8))
def kwAt (a b : Nat) : List Nat × List Nat := (natsOf (le 8 a), natsOf (le 48 b))

theorem kw_round0 : [0, 1, 2, 3, 4, 5].foldl kwStep (kwAt 0x4ef4773a972ba0fb
    0xd8613956abb74c31cbf8b02f65e23c5f89582946e92693483a93249b49ab286e4d39390772343e1d50c67e0c88b73682) =
    kwAt 0x20667e98f1a577e2
    0xdf38231875237986674de6bccd7ff56822fbc8a15dabcd0daf2d1f89bb50d196443686a18689ea8c362ef6a0839fd324 := by decide +kernel
theorem kw_round1 : [6, 7, 8, 9, 10, 11].foldl kwStep (kwAt 0x20667e98f1a577e2
    0xdf38231875237986674de6bccd7ff56822fbc8a15dabcd0daf2d1f89bb50d196443686a18689ea8c362ef6a0839fd324) =
    kwAt 0x01570a1ba7c455fa
    0xb80094815d5abb7803f2444f029fe41b1b1be71965ccde61c51b29622e855b2c53bcdc3dbb417bb64f6c6a5d0a485816 := by decide +kernel
theorem kw_round2 : [12, 13, 14, 15, 16, 17].foldl kwStep (kwAt 0x01570a1ba7c455fa
    0xb80094815d5abb7803f2444f029fe41b1b1be71965ccde61c51b29622e855b2c53bcdc3dbb417bb64f6c6a5d0a485816) =
    kwAt 0xfbec82e37a810a1a
    0x2ce0c7bffbb8190c0e27ca7ee072c717c388098d0709129814bb2871eecabaf1a87543b6a370c913e5ea5ce90c844a48 := by decide +kernel
theorem kw_round3 : [18, 19, 20, 21, 22, 23].foldl kwStep (kwAt 0xfbec82e37a810a1a
    0x2ce0c7bffbb8190c0e27ca7ee072c717c388098d0709129814bb2871eecabaf1a87543b6a370c913e5ea5ce90c844a48) =
    kwAt 0x800132689f375d3e
    0x88d71519bc604882228bc9c94c9d28dba5b5757ab25fc879b79a82dea20fea9bd9f21e5c4d477f70877dad52d963b8d6 := by decide +kernel
theorem kw_round4 : [24, 25, 26, 27, 28, 29].foldl kwStep (kwAt 0x800132689f375d3e
    0x88d71519bc604882228bc9c94c9d28dba5b5757ab25fc879b79a82dea20fea9bd9f21e5c4d477f70877dad52d963b8d6) =
    kwAt 0x5c0d3a3bbf0ffe0e
    0x199896fae9c79735cf8e184013e3cfb281f5c580fdf9c97710bcf4f63f7eefe13e826ec2f55fb64c3a69c6b4cb6dd7f3 := by decide +kernel
theorem kw_round5 : [30, 31, 32, 33, 34, 35].foldl kwStep (kwAt 0x5c0d3a3bbf0ffe0e
    0x199896fae9c79735cf8e184013e3cfb281f5c580fdf9c97710bcf4f63f7eefe13e826ec2f55fb64c3a69c6b4cb6dd7f3) =
    kwAt 0xa6a6a6a6a6a6a6a6
    0x40100000001010000000000000000000000000000000000000000000000000000000000000000 := by decide +kernel

theorem kw_steps : (List.range 36).foldl kwStep (kwAt 0x4ef4773a972ba0fb
    0xd8613956abb74c31cbf8b02f65e23c5f89582946e92693483a93249b49ab286e4d39390772343e1d50c67e0c88b73682) =
    kwAt 0xa6a6a6a6a6a6a6a6 0x40100000001010000000000000000000000000000000000000000000000000000000000000000 := by
  rw [show List.range 36 = [0, 1, 2, 3, 4, 5] ++ [6, 7, 8, 9, 10, 11] ++ [12, 13, 14, 15, 16, 17] ++ [18, 19, 20, 21, 22, 23]
    ++ [24, 25, 26, 27, 28, 29] ++ [30, 31, 32, 33, 34, 35] by decide]
  simp only [List.foldl_append, kw_round0, kw_round1, kw_round2, kw_round3, kw_round4, kw_round5]

theorem leaf_unwraps : kwUnwrap (roundKeys true (List.replicate 32 7)) wrappedLeaf = some plainLeaf := by
  have hn : wrappedLeaf.length = 56 := le_length 56 _
  have hc : ((natsOf wrappedLeaf).take 8, (natsOf wrappedLeaf).drop 8) = kwAt 0x4ef4773a972ba0fb
      0xd8613956abb74c31cbf8b02f65e23c5f89582946e92693483a93249b49ab286e4d39390772343e1d50c67e0c88b73682 := by decide +kernel
  have hp : bytesOf (kwAt 0xa6a6a6a6a6a6a6a6 0x40100000001010000000000000000000000000000000000000000000000000000000000000000).2 = plainLeaf := by
    decide +kernel
  unfold kwUnwrap
  dsimp only
  rw [hn, hc]
  show (if ((List.range 36).foldl kwStep (kwAt 0x4ef4773a972ba0fb
      0xd8613956abb74c31cbf8b02f65e23c5f89582946e92693483a93249b49ab286e4d39390772343e1d50c67e0c88b73682)).1 = List.replicate 8 0xA6
    then some (bytesOf ((List.range 36).foldl kwStep (kwAt 0x4ef4773a972ba0fb
      0xd8613956abb74c31cbf8b02f65e23c5f89582946e92693483a93249b49ab286e4d39390772343e1d50c67e0c88b73682)).2) else none) = _
  rw [kw_steps, hp]
  rfl

/-! ### Commands that are not well formed -/

/-- A command of the manager queue with TAG 7. -/
def hostCmd : CmdRef := ⟨256, 7, 0⟩

theorem test_wf_nop : (Instr.glbNop hostCmd).wf = true := by decide

theorem test_ill_formed_command : (Instr.glbNop ⟨257, 7, 0⟩).wf = false ∧ (Instr.glbNop ⟨256, 65536, 0⟩).wf = false ∧
    (Instr.glbNop ⟨256, 7, 16⟩).wf = false ∧ (Instr.linkDown [⟨257, 0⟩]).wf = false ∧ (Instr.linkDown [⟨0, 65536⟩]).wf = false := by decide

theorem test_ill_formed_access : (Instr.hostRegisterWrite ⟨17, 0, 0, 4⟩ []).wf = false ∧ (Instr.hostRegisterWrite ⟨0, 1, 0, 4⟩ []).wf = false ∧
    (Instr.hostRegisterWrite ⟨0, 0, 0, 3⟩ []).wf = false ∧ (Instr.sqTailDoorbell ⟨17, 0, true, 0⟩).wf = false ∧
    (Instr.sqTailDoorbell ⟨0, 0, true, 2 ^ 32⟩).wf = false ∧ (Instr.unitLockWrite 23 0).wf = false ∧ (Instr.seamWindowRead 0 0x4000000).wf = false := by decide

theorem test_ill_formed_authorization : (Instr.metUnseal hostCmd { lifeAuth 1 2 with digestA := [] }).wf = false ∧
    (Instr.metUnseal hostCmd { lifeAuth 1 2 with eui := 2 ^ 64 }).wf = false := by decide

theorem test_ill_formed_key_address : (Instr.keyStatus hostCmd ⟨8, 0, 0, 0⟩ false).wf = false ∧ (Instr.keyStatus hostCmd ⟨0, 256, 0, 0⟩ false).wf = false ∧
    (Instr.keyStatus hostCmd ⟨0, 0, 0, 16⟩ false).wf = false ∧ (Instr.keyStatus hostCmd ⟨0, 0, 0, 0⟩ false).wf = true := by decide

theorem test_ill_formed_event : (Instr.queueEnable 257 0).wf = false ∧ (Instr.descriptorReceived 0 (zeros 63) .agree false).wf = false ∧
    (Instr.msixVectorUnmask 2048).wf = false ∧ (Instr.noticeRingEnable 17 0).wf = false ∧ (Instr.ptpAnnounceTimeout 2).wf = false ∧
    (Instr.rfJamStart 0 ⟨128, 0, 0⟩).wf = false ∧ (Instr.driveLoss 64).wf = false ∧ (Instr.rrepWaitExpiry 2097152).wf = false ∧
    (Instr.domainRampDone 64).wf = false ∧ (Instr.fabBurstEnd 6).wf = false ∧ (Instr.quietRise 28).wf = false ∧ (Instr.pairLaneUp 2).wf = false ∧
    (Instr.evrRecordCommit 8).wf = false ∧ (Instr.flrVf 17 []).wf = false := by decide

/-! ### Values the spec works out -/

/-- R15: ARC's UNIT_ID, and FSE's and GLB's. -/
theorem test_unit_id : (headerRows 10).map (fun r => r.reset) = [0x0A415243, 0x00010000, 0, 0] ∧ ((headerRows 7).headD ⟨0, .ro, 0, 0, []⟩).reset = 0x07465345 ∧
    ((headerRows 0).headD ⟨0, .ro, 0, 0, []⟩).reset = 0x00474C42 := by decide

/-- R4: 1 000 000 000.25 s is the time-stamp 0x0EE6_B280_0EE6_B280. -/
theorem test_time_stamp : tsOf 1000000000250000000 = 0x0EE6B2800EE6B280 := by decide

/-- R5, R377: 2031 begins 11 323 days after the epoch, a Wednesday; 9 September is a Tuesday, 251 days on. -/
theorem test_days : daysOf 2031 1 1 = 11323 ∧ weekdayOf 11323 = 2 ∧ daysOf 2031 9 9 = 11574 ∧ weekdayOf 11574 = 1 ∧ dateOf 11574 = (2031, 9, 9) := by
  decide

/-- R121: 14 PHR symbols with N = 53, and 4 with B = 53. -/
theorem test_phr_symbols : phrSymbols 53 = 14 ∧ phrSymbols 212 = 4 := by decide

/-- R193: token 1 042 over LAST_ID 1 040 and WINDOW 7 gives WINDOW 0x1D; 1 041 keyed in later sets bit 1. -/
theorem test_token_window : winTake 1040 7 1042 = (1042, 0x1D) ∧ winTake 1042 0x1D 1041 = (1042, 0x1F) := by decide

/-- R58, R60: the header of the spec's GLB.STATE.SET descriptor, and the state word of a DEPLOYED, ACTIVE part in TWILIGHT. -/
theorem test_descriptor : (fun d : Desc => (d.opcode, d.inst, d.irq, d.tag, d.plen, d.params)) (decodeDesc ([3, 0, 0, 2, 0x17, 1, 4, 0] ++ zeros 8 ++ [1] ++ zeros 47)) =
    (3, 0, true, 0x0117, 4, [1, 0, 0, 0]) ∧
    ({ State.reset with dev := { State.reset.dev with state := .twilight, role := .active, life := 3 } } : State).stateWord none = 0x02C2 := by decide +kernel

/-- The ports granted in `n` turns among `act`. -/
def grants (comp : Bool) (act : List Nat) : Nat → Target → List Nat
  | 0, _ => []
  | n + 1, x => match arbitrate comp act x with
    | none => []
    | some (p, x) => p :: grants comp act n x

/-- R517: the grant order of KVT, ING and ARC without compensation, and R519: with it. -/
theorem test_grant_order :
    grants false [12, 16, 17, 18, 19, 21, 22] 16 {} = [12, 16, 12, 21, 12, 17, 12, 22, 12, 18, 12, 21, 12, 19, 12, 22] ∧
    grants true [12, 16, 17, 18, 19, 21, 22] 14 {} = [12, 16, 17, 18, 19, 21, 22, 12, 16, 17, 18, 19, 21, 22] := by decide +kernel

/-! ### Single steps -/

theorem test_step_idle : Sys2Proof.Machine.step State.reset = .next State.reset := rfl

/-- GLB.NOP of the GLB command table answers OK. -/
theorem test_step_nop : (match Sys2Proof.Machine.step { dayState with pending := [.glbNop hostCmd] } with
    | .next t => t.pending == [] && t.cmd.results.map (fun r => (r.queue, r.tag, r.status)) == [(256, 7, 0)]
    | _ => false) = true := by decide +kernel

/-- R517, R518: an idle target grants a lone request at once; two wait for its end. -/
theorem test_step_burst : (match Sys2Proof.Machine.step { dayState with pending := [.fabBurstRequest 0 12 64 false] } with
    | .next t => ((t.target 0).now.map (·.port), (t.target 0).waiting.length, t.regI Reg.FAB_GRANTS 12) == (some 12, 0, 1)
    | _ => false) = true := by decide +kernel


/-! ### The hypotheses of the statements are met -/

theorem witness_stepRunsFront :
    ∃ (c : Instr) (rest : List Instr) (s : State), s.pending = c :: rest :=
  ⟨.glbNop ⟨256, 7, 0⟩, [], { State.reset with pending := [.glbNop ⟨256, 7, 0⟩] }, by decide +kernel⟩

theorem witness_emptyQueueIdles :
    ∃ s : State, s.pending = [] :=
  ⟨.reset, by decide +kernel⟩

theorem witness_queueUntouched :
    ∃ (c : Instr) (s t : State), exec c s = .next t :=
  ⟨.glbNop ⟨256, 7, 0⟩, .reset, _, rfl⟩

theorem witness_stepKeepsSound :
    ∃ s t : State, s.Sound ∧ step s = .next t :=
  ⟨.reset, _, by decide +kernel, rfl⟩

theorem witness_frameControl :
    ∃ (c : Instr) (s t : State), sectorOf c = .control ∧ exec c s = .next t :=
  ⟨.glbNop ⟨256, 7, 0⟩, .reset, _, rfl, rfl⟩

theorem witness_frameField :
    ∃ (c : Instr) (s t : State), sectorOf c = .field ∧ exec c s = .next t :=
  ⟨.dutyBucketRoll, .reset, _, rfl, rfl⟩

theorem witness_frameData :
    ∃ (c : Instr) (s t : State), sectorOf c = .data ∧ exec c s = .next t :=
  ⟨.losVoltageMeans 0 0 0 0, .reset, _, rfl, rfl⟩

theorem witness_frameIsland :
    ∃ (c : Instr) (s t : State), sectorOf c = .island ∧ exec c s = .next t :=
  ⟨.metRegisterSave, .reset, _, rfl, rfl⟩

theorem witness_frameService :
    ∃ (c : Instr) (s t : State), sectorOf c = .service ∧ exec c s = .next t :=
  ⟨.holdoffEnd, .reset, _, rfl, rfl⟩

theorem witness_lifeCycleTable :
    (∃ (c : CmdRef) (target confirm : Nat) (digest : Bytes) (auth : AuthIn) (recordOk : Bool) (s : State), Completes (.keyLifecycleAdvance c target confirm digest auth recordOk) s fun t => t.dev.life ≠ s.dev.life) ∧
    (∃ (c : CmdRef) (target confirm : Nat) (digest : Bytes) (auth : AuthIn) (recordOk : Bool) (s : State), Completes (.keyLifecycleAdvance c target confirm digest auth recordOk) s fun t => t.dev.life ≠ s.dev.life) ∧
    (∃ (c : CmdRef) (target confirm : Nat) (digest : Bytes) (auth : AuthIn) (recordOk : Bool) (s : State), Completes (.keyLifecycleAdvance c target confirm digest auth recordOk) s fun t => t.dev.life ≠ s.dev.life) :=
  ⟨⟨⟨256, 7, 0⟩, 1, 0x11FE, zeros 48, lifeAuth 0 1, true, lifeState 0, _, rfl, by decide +kernel⟩,
    ⟨⟨256, 7, 0⟩, 2, 0x11FE, [], lifeAuth 1 2, true, lifeState 1, _, rfl, by decide +kernel⟩,
    ⟨⟨256, 7, 0⟩, 4, 0x11FE, [], lifeAuth 3 4, true, lifeState 3, _, rfl, by decide +kernel⟩⟩

theorem witness_lifeCycleGuarded :
    ∃ (i : Instr) (s t : State), (∀ c target confirm digest auth recordOk, i ≠ .keyLifecycleAdvance c target confirm digest auth recordOk) ∧ exec i s = .next t :=
  ⟨.holdoffEnd, .reset, _, by intros; exact Instr.noConfusion, rfl⟩

theorem witness_boundaryRefused :
    (∃ (a : BarAccess) (s : State), a.fn = 0 ∧ a.bar = 0 ∧ a.off < State.barSize a.fn 0 ∧ 64 < a.len) ∧
    (∃ (a : BarAccess) (s : State), a.fn = 0 ∧ a.bar = 0 ∧ a.off < State.barSize a.fn 0 ∧ a.len ≤ 64 ∧ a.off / 65536 ≠ (a.off + a.len - 1) / 65536) ∧
    (∃ (a : BarAccess) (s : State), s.vfExists a.fn = true ∧ a.bar = 0 ∧ a.off < State.barSize a.fn 0 ∧ a.len ≤ 64 ∧ a.off / 65536 ≠ (a.off + a.len - 1) / 65536) :=
  ⟨⟨{ fn := 0, bar := 0, off := 0x10, len := 68 }, dayState, by decide +kernel⟩,
    ⟨{ fn := 0, bar := 0, off := 0x3FFFFFC, len := 8 }, dayState, by decide +kernel⟩,
    ⟨{ fn := 1, bar := 0, off := 0xFFFC, len := 8 }, vfState, by decide +kernel⟩⟩

theorem witness_enableRefused :
    ∃ (q : Nat) (s : State), s.Sound ∧ q < 256 ∧ (s.queue q).enabled = false ∧ (s.inst (q / 16)).state ≠ .ready :=
  ⟨255, .reset, by decide +kernel⟩

theorem witness_readLeavesWindow :
    ∃ (c : CmdRef) (r first n : Nat) (s t : State), c.queue < 256 ∧ exec (.evrRead c r first n) s = .next t :=
  ⟨⟨0, 7, 0⟩, 0, 0, 4, dayState, _, by decide, rfl⟩

theorem witness_descriptorHeader :
    ∃ (op inst res2 flags res3 tag plen res6 res7 dptr : Nat) (params : Bytes), (op < 2 ^ 16 ∧ inst < 16 ∧ res2 < 16 ∧ flags < 16 ∧ res3 < 16 ∧ tag < 2 ^ 16) ∧ (plen < 64 ∧ res6 < 4 ∧ res7 < 256 ∧ dptr < 2 ^ 64 ∧ params.length = 48) :=
  ⟨0x0D01, 15, 1, 15, 0, 65535, 48, 3, 255, 2 ^ 64 - 1, zeros 48, by decide⟩

theorem witness_noFrameWithoutPermits :
    ∃ (s t : State), s.permits = false ∧ exec .plcLaunch s = .next t :=
  ⟨.reset, _, by decide +kernel, rfl⟩

theorem witness_fenceLeavesOthers :
    (∃ (k : Nat) (c : CmdRef) (s t : State), k ≠ c.inst ∧ exec (.vinReset c) s = .next t) ∧
    (∃ (k i : Nat) (s t : State), k ≠ i ∧ exec (.fenceUnitAck i .fse) s = .next t) :=
  ⟨⟨2, ⟨256, 7, 3⟩, readyInst, _, by decide, rfl⟩,
    ⟨2, 3, fencing [.fse], _, by decide, rfl⟩⟩

theorem witness_tamperHoldsDawn :
    ∃ (d : DawnIn) (s t : State), (s.dev.state = .dawn ∧ s.dev.stage = 7 ∧ s.dev.tamperHold = true) ∧ exec (.dawnStageEnd d) s = .next t :=
  ⟨dawnIn, { dawnAt 7 with dev := { (dawnAt 7).dev with tamperHold := true } }, _, by decide +kernel, rfl⟩

theorem witness_readOnlyKept :
    (∃ (a : BarAccess) (r : Row), (a.fn = 0 ∧ a.bar = 0 ∧ State.breaksBoundary a = false ∧ ¬ (0x1C000 ≤ a.off ∧ a.off < 0x20000)) ∧ (State.isLowOfPair a.off = false ∧ State.isHighOfPair a.off = false ∧ State.ownRow a.off = false) ∧ (rowAt a.off = some r ∧ r.access = .ro ∧ r.sels = [])) ∧
    (∃ a : BarAccess, (a.fn = 0 ∧ a.bar = 0 ∧ State.breaksBoundary a = false ∧ ¬ (0x1C000 ≤ a.off ∧ a.off < 0x20000)) ∧ (State.isLowOfPair a.off = false ∧ State.isHighOfPair a.off = false ∧ State.ownRow a.off = false) ∧ rowAt a.off = none) :=
  ⟨⟨{ fn := 0, bar := 0, off := Reg.SVC_OSP_AMBIENT, len := 4 }, (rowAt Reg.SVC_OSP_AMBIENT).get (by decide), by decide⟩,
    ⟨{ fn := 0, bar := 0, off := 0x1F0FF0, len := 4 }, by decide⟩⟩

theorem witness_hostAccessCompletes :
    (∃ (a : BarAccess) (w : HostWord) (r : Row) (idx : Nat) (s : State), (s.Sound) ∧ (a.fn = 0 ∧ a.bar = 0 ∧ a.len = 4 ∧ a.off % 4 = 0 ∧ a.off < 0x4000000 ∧ w.full = true) ∧ (¬ (0x1C000 ≤ a.off ∧ a.off < 0x20000) ∧ State.isLowOfPair a.off = false ∧ State.isHighOfPair a.off = false ∧ State.ownRow a.off = false) ∧ (rowAt a.off = some r ∧ s.selIndex r.sels 0 = some idx ∧ s.heldByEnable a.off idx = false)) ∧
    (∃ (off : Nat) (w : HostWord) (ws : List HostWord) (s : State), off % 65536 + 4 * (ws.length + 1) ≤ 65536 ∧ ws.length < 16 ∧ off < 0x4000000) ∧
    (∃ (a : BarAccess) (lanes : Nat) (r : Row) (idx : Nat) (s : State), (s.Sound) ∧ (a.fn = 0 ∧ a.bar = 0 ∧ a.len = 4 ∧ a.off % 4 = 0 ∧ a.off < 0x4000000 ∧ State.seamWindow a.off = false) ∧ (plainRead a.off = true ∧ State.readLow (a.off - 4) = false) ∧ (rowAt a.off = some r ∧ s.selIndex r.sels 0 = some idx ∧ r.access ≠ .wo)) ∧
    (∃ (a : BarAccess) (lanes : Nat) (r : Row) (idx : Nat) (w : Word) (s : State), (a.fn = 0 ∧ a.bar = 0 ∧ a.len = 4 ∧ a.off % 4 = 0 ∧ 4 ≤ a.off ∧ a.off < 0x4000000 ∧ State.seamWindow a.off = false) ∧ (plainRead a.off = true ∧ State.readLow (a.off - 4) = true ∧ rowAt a.off = some r ∧ s.selIndex r.sels 0 = some idx) ∧ (s.hbr.holding.get? 0 = some w)) ∧
    (∃ (a : BarAccess) (lanes : Nat) (s : State), a.fn ≠ 0 ∧ s.vfExists a.fn = true ∧ a.bar = 0 ∧ a.len = 4 ∧ a.off % 4 = 0 ∧ a.off < 0x10000) ∧
    (∃ (off : Nat) (r : Row) (idx : Nat) (s : State), (plainRead off = true ∧ State.readLow off = true ∧ State.readLow (off - 4) = false ∧ State.seamWindow off = false) ∧ (rowAt off = some r ∧ s.selIndex r.sels 0 = some idx ∧ r.access ≠ .wo)) ∧
    (∃ (off : Nat) (r hi : Row) (idx : Nat) (s : State), (plainRead off = true ∧ State.readLow off = true ∧ State.readLow (off - 4) = false ∧ State.seamWindow off = false) ∧ (rowAt off = some r ∧ r.access ≠ .wo ∧ s.selIndex r.sels 0 = some idx ∧ rowAt (off + 4) = some hi ∧ hi.sels = r.sels ∧ plainRead (off + 4) = true)) ∧
    (∃ (fn off : Nat) (s : State), fn ≠ 0 ∧ s.vfExists fn = true) ∧
    (∃ (off : Nat) (value : Word) (r : Row) (idx : Nat) (s : State), State.isLowOfPair off = true ∧ rowAt off = some r ∧ s.selIndex r.sels 0 = some idx) ∧
    (∃ (off : Nat) (value w : Word) (hi lo : Row) (idx : Nat) (s : State), (s.Sound) ∧ (State.isHighOfPair off = true ∧ rowAt off = some hi ∧ rowAt (off - 4) = some lo) ∧ (s.selIndex hi.sels 0 = some idx ∧ s.heldByEnable off idx = false ∧ s.heldByEnable (off - 4) idx = false) ∧ ((hi.access = .rwl → s.locked (windowOf off) = false)) ∧ (s.hbr.staged.get? (State.stagedKey 0 (off - 4)) = some w)) ∧
    (∃ (off : Nat) (value : Word) (hi lo : Row) (idx : Nat) (s : State), (s.Sound) ∧ (State.isHighOfPair off = true ∧ rowAt off = some hi ∧ rowAt (off - 4) = some lo) ∧ (s.selIndex hi.sels 0 = some idx ∧ s.heldByEnable off idx = false) ∧ ((hi.access = .rwl → s.locked (windowOf off) = false)) ∧ (s.hbr.staged.get? (State.stagedKey 0 (off - 4)) = none)) ∧
    (∃ (unit : Nat) (value : Word) (s : State), (s.Sound) ∧ (unit < 23 ∧ bitAt value.toNat 0 = true)) ∧
    (∃ (off : Nat) (s : State), State.seamWindow off = true ∧ s.hbr.seamReads.length < 4 ∧ s.seam.waiting = []) ∧
    (∃ (off : Nat) (s : State), State.seamWindow off = true ∧ 4 ≤ s.hbr.seamReads.length) ∧
    (∃ (fn off : Nat) (rest : List SeamRead) (s : State), s.hbr.seamReads = { fn := fn, off := off } :: rest ∧ s.hbr.seamWait = []) ∧
    (∃ (r w : SeamRead) (rest ws : List SeamRead) (s : State), s.hbr.seamReads = r :: rest ∧ s.hbr.seamWait = w :: ws) :=
  ⟨⟨{ fn := 0, bar := 0, off := Reg.HBR_EVENT_VEC, len := 4 }, { value := 0x10005 }, (rowAt Reg.HBR_EVENT_VEC).get (by decide), 0, .reset, by decide +kernel⟩,
    ⟨0x10030, { value := 1 }, [{ value := 2 }], .reset, by decide +kernel⟩,
    ⟨{ fn := 0, bar := 0, off := Reg.HBR_BAR4_WRITE_DROP, len := 4 }, 3, (rowAt Reg.HBR_BAR4_WRITE_DROP).get (by decide), 0, .reset, by decide +kernel⟩,
    ⟨{ fn := 0, bar := 0, off := 0xF0020, len := 4 }, 15, (rowAt 0xF0020).get (by decide), 0, 5, { State.reset with hbr := { State.reset.hbr with holding := [(0, 5)] } }, by decide +kernel⟩,
    ⟨{ fn := 1, bar := 0, off := 0x100, len := 4 }, 15, vfState, by decide +kernel⟩,
    ⟨0xF001C, (rowAt 0xF001C).get (by decide), 0, .reset, by decide +kernel⟩,
    ⟨0xF001C, (rowAt 0xF001C).get (by decide), (rowAt 0xF0020).get (by decide), 0, .reset, by decide +kernel⟩,
    ⟨1, 0x100, vfState, by decide +kernel⟩,
    ⟨Reg.UPD_PRED_EUI_LO, 5, (rowAt Reg.UPD_PRED_EUI_LO).get (by decide), 0, .reset, by decide +kernel⟩,
    ⟨Reg.CMD_SQ_BASE_HI, 1, 0x3000, (rowAt Reg.CMD_SQ_BASE_HI).get (by decide), (rowAt Reg.CMD_SQ_BASE_LO).get (by decide), 0, { State.reset with hbr := { State.reset.hbr with staged := [(Reg.CMD_SQ_BASE_LO, 0x3000)] } }, by decide +kernel⟩,
    ⟨Reg.UPD_PRED_EUI_LO + 4, 1, (rowAt (Reg.UPD_PRED_EUI_LO + 4)).get (by decide), (rowAt Reg.UPD_PRED_EUI_LO).get (by decide), 0, .reset, by decide +kernel⟩,
    ⟨22, 1, .reset, by decide +kernel⟩,
    ⟨0xC0010, .reset, by decide +kernel⟩,
    ⟨0xC0010, { State.reset with hbr := { State.reset.hbr with seamReads := List.replicate 4 { fn := 0, off := 0xC0010 } } }, by decide +kernel⟩,
    ⟨0, 0xC0010, [], { State.reset with hbr := { State.reset.hbr with seamReads := [{ fn := 0, off := 0xC0010 }] } }, by decide +kernel⟩,
    ⟨{ fn := 0, off := 0xC0010 }, { fn := 0, off := 0xD0010 }, [], [], { State.reset with hbr := { State.reset.hbr with seamReads := [{ fn := 0, off := 0xC0010 }], seamWait := [{ fn := 0, off := 0xD0010 }] } }, by decide +kernel⟩⟩

theorem witness_seamCommandsComplete :
    (∃ (die : Die) (cls seq : Nat) (content : SeamContent) (s : State), seq = s.seamExpect die) ∧
    (∃ (die : Die) (cls seq : Nat) (crcOk : Bool) (content : SeamContent) (s : State), (crcOk = false ∨ seq ≠ s.seamExpect die) ∧ s.seamFails die < 4) ∧
    (∃ (die : Die) (cls seq : Nat) (crcOk : Bool) (content : SeamContent) (s : State), (s.Sound) ∧ ((crcOk = false ∨ seq ≠ s.seamExpect die) ∧ 4 ≤ s.seamFails die)) ∧
    (∃ (die : Die) (s : State), s.seam.waiting = []) ∧
    (∃ (die : Die) (hb : Heartbeat) (s : State), hb ≠ s.ownView die) :=
  ⟨⟨.midnight, 1, 0, .samples, .reset, by decide +kernel⟩,
    ⟨.midnight, 1, 0, false, .stateInput, { State.reset with seam := { State.reset.seam with kept := [{ fromDie := .noon, cls := 1, body := .bytes [] }] } }, by decide +kernel⟩,
    ⟨.midnight, 1, 7, true, .stateInput, { dayState with seam := { dayState.seam with midFails := 4 } }, by decide +kernel⟩,
    ⟨.noon, dayState, by decide +kernel⟩,
    ⟨.noon, ⟨.solo, true, .day, true⟩, .reset, by decide +kernel⟩⟩

theorem witness_queueCommandsComplete :
    (∃ (d : Doorbell) (q : Nat) (s : State), (s.doorbellQueue d = some q) ∧ ((s.queue q).enabled = true ∧ (s.queue q).error = false) ∧ (d.value % 65536 < s.sqDepth q)) ∧
    (∃ (d : Doorbell) (q : Nat) (s : State), (s.doorbellQueue d = some q) ∧ ((s.queue q).enabled = true) ∧ (d.value % 65536 < s.cqDepth q ∧ s.headMoves q (d.value % 65536) ≤ (s.queue q).cqUsed)) ∧
    (∃ (q : Nat) (w : Word) (s : State), (q ≤ 256 ∧ (s.queue q).enabled = false) ∧ ((q < 256 → (s.inst (q / 16)).state = .ready)) ∧ (s.baseBad q = false ∧ s.sizeBad q = false)) ∧
    (∃ (q : Nat) (w : Word) (s : State), q ≤ 256) ∧
    (∃ (q : Nat) (s : State), s.nextFetch = some q ∧ s.baseBad q = false) ∧
    (∃ (q : Nat) (b : Bytes) (s : State), (s.descriptorNext q b = true ∧ s.cmd.fetching.contains q = true ∧ s.cmd.lanesUp ≠ 0 ∧ (s.queue q).error = false) ∧ (s.admission q (decodeDesc b) = none)) ∧
    (∃ (q st r0 : Nat) (b : Bytes) (s : State), (s.descriptorNext q b = true ∧ s.cmd.fetching.contains q = true ∧ s.cmd.lanesUp ≠ 0 ∧ (s.queue q).error = false) ∧ (s.admission q (decodeDesc b) = some (st, r0))) ∧
    (∃ (q : Nat) (c : Cmd) (s : State), ((s.queueCmds q).find? (fun c => c.stage == .admitted) = some c) ∧ ((c.order = false ∨ (s.queueCmds q).head? = some c) ∧ (s.queue q).error = false ∧ s.fetchState = true)) ∧
    (∃ (r : Result) (c : Cmd) (s : State), (s.cmd.closed = false ∧ s.cmd.results.find? (fun r => !s.dataWaits r.queue r.tag) = some r ∧ r.queued = false) ∧ (s.cmd.cmds.find? (fun c => c.queue == r.queue && c.tag == r.tag) = some c)) ∧
    (∃ (r : Result) (c : Cmd) (s : State), (s.cmd.closed = false ∧ s.cmd.results.find? (fun r => !s.dataWaits r.queue r.tag) = some r ∧ r.queued = true) ∧ (s.cmd.cmds.find? (fun c => c.queue == r.queue && c.tag == r.tag) = some c)) ∧
    (∃ (q : Nat) (s : State), (s.queue q).unann ≠ 0) :=
  ⟨⟨⟨0, 256, true, 1⟩, 256, qOn, by decide +kernel⟩,
    ⟨⟨0, 256, true, 0⟩, 256, qOn, by decide +kernel⟩,
    ⟨256, 1, qSized, by decide +kernel⟩,
    ⟨256, 0, qOn, by decide +kernel⟩,
    ⟨256, qFetch, by decide +kernel⟩,
    ⟨256, nopDesc, descHere nopDesc, by decide +kernel⟩,
    ⟨256, St.badLength, 0, nopDesc.set 7 1, descHere (nopDesc.set 7 1), by decide +kernel⟩,
    ⟨256, nopCmd, { dayState with cmd := { dayState.cmd with cmds := [nopCmd] } }, by decide +kernel⟩,
    ⟨⟨256, 7, 0, 0, 0, false, none⟩, nopCmd, { dayState with cmd := { dayState.cmd with cmds := [nopCmd], results := [⟨256, 7, 0, 0, 0, false, none⟩] } }, by decide +kernel⟩,
    ⟨⟨256, 7, 1, 0, 0, true, none⟩, nopCmd, { dayState with cmd := { dayState.cmd with cmds := [nopCmd], results := [⟨256, 7, 1, 0, 0, true, none⟩] } }, by decide +kernel⟩,
    ⟨256, { State.reset with cmd := { State.reset.cmd with queues := [(256, { unann := 1 })] } }, by decide +kernel⟩⟩

theorem witness_glbCommandsComplete :
    (∃ (c : CmdRef) (s : State), c.queue ≤ 256) ∧
    (∃ (c : CmdRef) (s : State), c.queue ≤ 256) ∧
    (∃ (c : CmdRef) (s : State), c.queue ≤ 256 ∧ s.dev.state = .day ∧ (s.setState c).1 = devCode .day) ∧
    (∃ (c : CmdRef) (s : State), c.queue ≤ 256 ∧ s.dev.state = .twilight ∧ s.setState c = (devCode .twilight, true)) ∧
    (∃ (c : CmdRef) (target : Nat) (s : State), (s.Sound) ∧ (c.queue ≤ 256 ∧ (target = 1 ∨ target = 2) ∧ (s.setState c).1 = devCode .dawn ∧ s.locked 0 = false)) ∧
    (∃ (c : CmdRef) (mask passMask : Nat) (s : State), 0 < mask ∧ mask < 8 ∧ s.cmd.resyncs = []) ∧
    (∃ (c : CmdRef) (passMask : Nat) (s : State), c.queue ≤ 256 ∧ s.cmd.resyncs = [] ∧ s.cmd.laneJobs = [] ∧ s.cmd.input = []) ∧
    (∃ (c : CmdRef) (s : State), c.queue ≤ 256) :=
  ⟨⟨⟨256, 7, 0⟩, { dayState with cmd := { dayState.cmd with cmds := [{ nopCmd with dptr := 0x10040 }] } }, by decide +kernel⟩,
    ⟨⟨256, 7, 0⟩, .reset, by decide +kernel⟩,
    ⟨⟨256, 7, 0⟩, dayState, by decide +kernel⟩,
    ⟨⟨256, 7, 0⟩, { dayState with dev := { dayState.dev with state := .twilight } }, by decide +kernel⟩,
    ⟨⟨256, 7, 0⟩, 2, .reset, by decide +kernel⟩,
    ⟨⟨256, 7, 0⟩, 3, 7, dayState, by decide +kernel⟩,
    ⟨⟨256, 7, 0⟩, 0, dayState, by decide +kernel⟩,
    ⟨⟨256, 7, 0⟩, dayState, by decide +kernel⟩⟩

theorem witness_bridgeLinkCommandsComplete :
    (∃ (s : State), s.hbr.backoffEnd ≤ s.dev.nc) ∧
    (∃ (since : Nat) (s : State), s.hbr.zeroSince = some since ∧ since + 50000000 ≤ s.dev.nc) ∧
    (∃ (lost : List CmdKey) (s : State), s.Sound) ∧
    (∃ (lost : List CmdKey) (s : State), s.Sound) ∧
    (∃ (speed width : Nat) (s : State), s.hbr.perst = false ∧ 1 ≤ speed ∧ speed ≤ 5 ∧ width ∈ [1, 2, 4, 8]) ∧
    (∃ (k : Nat) (lost : List CmdKey) (s : State), s.vfExists k = true ∧ (s.inst (k - 1)).state = .ready) ∧
    (∃ (numVfs : Nat) (s : State), s.hostAbsent = false ∧ s.hbr.vfEnable = true ∧ numVfs < s.hbr.numVfs) :=
  ⟨⟨dayState, by decide +kernel⟩,
    ⟨0, { dayState with hbr := { dayState.hbr with zeroSince := some 0 }, dev := { dayState.dev with nc := 50000000 } }, by decide +kernel⟩,
    ⟨[], dayState, by decide +kernel⟩,
    ⟨[], dayState, by decide +kernel⟩,
    ⟨5, 8, .reset, by decide +kernel⟩,
    ⟨1, [], vfState, by decide +kernel⟩,
    ⟨1, vfState, by decide +kernel⟩⟩

theorem witness_bridgeMessageCommandsComplete :
    (∃ (id q tg : Nat) (data : Bytes) (r : PartRead) (s : State), s.readOf id = some r ∧ r.want ≤ r.got + data.length ∧ r.what = .data q tg) ∧
    (∃ (id q tg : Nat) (data : Bytes) (r : PartRead) (s : State), s.readOf id = some r ∧ r.got + data.length < r.want ∧ r.what = .data q tg) ∧
    (∃ (id q tg : Nat) (data : Bytes) (r : PartRead) (s : State), s.readOf id = some r ∧ r.want ≤ r.got + data.length ∧ r.what = .pages q tg ∧ (∀ x ∈ s.hbr.reads, x.what = .pages q tg → x.id = id)) ∧
    (∃ (id tag q tg : Nat) (why : ReadFail) (r : PartRead) (s : State), s.readOf id = some r ∧ r.tag = some tag ∧ r.what = .data q tg) ∧
    (∃ (id tag q : Nat) (why : ReadFail) (r : PartRead) (s : State), s.readOf id = some r ∧ r.tag = some tag ∧ r.what = .descriptor q ∧ s.cmd.fetching.contains q = true ∧ (s.queue q).error = false) ∧
    (∃ (id tag waited q tg : Nat) (r : PartRead) (s : State), (s.readOf id = some r ∧ r.tag = some tag ∧ r.what = .data q tg) ∧ (s.hbr.ctoDisable = false ∧ timeoutNc s.hbr.ctoValue * 99 ≤ waited * 100)) ∧
    (∃ (ring : Nat) (w : Word) (s : State), ring < 17 ∧ (s.ring ring).enabled = false) ∧
    (∃ (ring : Nat) (w : Word) (s : State), ring < 17) ∧
    (∃ (d : Doorbell) (f : Nat) (s : State), (s.doorbellRing d = some f ∧ (s.ring f).enabled = true ∧ (s.ring f).error = false) ∧ (d.value % 65536 < s.ringSize f ∧ (d.value % 65536 + s.ringSize f - (s.ring f).head) % s.ringSize f ≤ (s.ring f).used)) ∧
    (∃ (ring : Nat) (s : State), (s.ring ring).unann ≠ 0) ∧
    (∃ (fn : Nat) (nt : Notice) (s : State), s.hbr.held.find? (fun n => n.fn == fn) = some nt ∧ s.ringOpen fn = true) :=
  ⟨⟨3, 256, 7, zeros 64, readAs (.data 256 7), reading (.data 256 7), by decide +kernel⟩,
    ⟨3, 256, 7, zeros 63, readAs (.data 256 7), reading (.data 256 7), by decide +kernel⟩,
    ⟨3, 256, 7, zeros 64, readAs (.pages 256 7), reading (.pages 256 7), by decide +kernel⟩,
    ⟨3, 5, 256, 7, .unsupported, readAs (.data 256 7), reading (.data 256 7), by decide +kernel⟩,
    ⟨3, 5, 256, .unsupported, readAs (.descriptor 256), reading (.descriptor 256), by decide +kernel⟩,
    ⟨3, 5, 45000000, 256, 7, readAs (.data 256 7), reading (.data 256 7), by decide +kernel⟩,
    ⟨16, 1, dayState, by decide +kernel⟩,
    ⟨16, 0, dayState, by decide +kernel⟩,
    ⟨⟨0, 0, true, 1⟩, 0, ringState, by decide +kernel⟩,
    ⟨0, ringState, by decide +kernel⟩,
    ⟨0, ⟨3, 0, 0, true, 0, 0, []⟩, { ringState with hbr := { ringState.hbr with held := [⟨3, 0, 0, true, 0, 0, []⟩] } }, by decide +kernel⟩⟩

theorem witness_plcSendCommandsComplete :
    (∃ (hop : Nat) (e : Launch) (u : State) (x : PlcSend) (s : State), (s.takeFired = some (e, u) ∧ u.plcSendOf e.ref = some x) ∧ (x.phase = .ready ∧ x.sealed = true ∧ u.permits = true ∧ u.plcSending = false ∧ u.headOfLine x = true ∧ (x.at'.isSome = true ∨ u.bandBars = false)) ∧ (hop = (if x.tries = 0 then u.zcLook.sendNbr x else x.hop)) ∧ ((∃ p payload, u.zcLook.launchPlan e.instant x.rate false (if x.typ = 4 then (0, robonSet) else u.zcLook.txSetFor hop).1 (if x.typ = 4 then (0, robonSet) else u.zcLook.txSetFor hop).2 x.link = some (p, payload) ∧ (x.at'.isSome = true ∨ ∀ a ∈ u.plc.acks, e.instant + 1000 * frameUs u.zcLook.bandOr payload.length ≤ a.instant)))) ∧
    (∃ (id : Nat) (s : State), s.plc.onAir = some id) ∧
    (∃ (id : Nat) (s : State), s.plc.onAir = some id) ∧
    (∃ (id : Nat) (x : PlcSend) (s : State), s.plcSendOf id = some x ∧ x.phase = .bandc ∧ s.bandBars = false ∧ s.plc.bandFreeNs + 1000000 * x.waitMs ≤ s.nowNs) ∧
    (∃ (id wait : Nat) (x : PlcSend) (s : State), (s.plcSendOf id = some x ∧ x.phase = .contend ∧ s.rxBusy = 0 ∧ s.plc.acks = [] ∧ s.plcSending = false) ∧ (s.plc.sends.any (fun y => y.phase == .await) = false ∧ s.headOfLine x = true ∧ s.bandBars = false)) ∧
    (∃ (id wait : Nat) (x : PlcSend) (s : State), (s.plcSendOf id = some x ∧ x.phase = .contend ∧ s.rxBusy = 0 ∧ s.plc.acks = [] ∧ s.plcSending = false) ∧ (s.plc.sends.any (fun y => y.phase == .await) = false ∧ s.headOfLine x = true ∧ s.bandBars = true)) ∧
    (∃ (id : Nat) (x : PlcSend) (c : CmdRef) (s : State), (s.plcSendOf id = some x ∧ x.at'.isNone = true ∧ (x.phase = .contend ∨ x.phase = .bandc ∨ x.phase = .ready) ∧ x.cmd = some c ∧ c.queue ≤ 256)) ∧
    (∃ (id st : Nat) (a : PlcAck) (s : State), (s.plc.acks.find? (fun a => a.id == id) = some a ∧ a.status = some st ∧ a.late = false ∧ a.refused = false) ∧ (s.plcSending = false ∧ s.permits = true ∧ s.bandBars = false ∧ s.dueAt 0 a.instant = true) ∧ (((s.setPlc (fun p => { p with acks := p.acks.filter (fun x => x.id != id) })).zcLook.launchPlan a.instant 0 true 0 robonSet (State.ackLink a st s)).isSome = true)) ∧
    (∃ (f : RxFrame) (u : State) (x : PlcSend) (c : CmdRef) (s : State), (s.takeInbox 1 = some (f, u)) ∧ (u.plc.sends.find? (fun x => x.phase == .await && x.lseq == (plcLinkOf f.bytes).lseq && x.hop == (plcLinkOf f.bytes).src && State.ackTimely x.endNs f.rts) = some x) ∧ (u.plcSendOf x.id = some x ∧ x.cmd = some c ∧ c.queue ≤ 256)) ∧
    (∃ (id : Nat) (x : PlcSend) (s : State), s.plcSendOf id = some x ∧ x.phase = .await ∧ x.at'.isNone = true ∧ x.tries ≤ x.retryMax) ∧
    (∃ (id : Nat) (x : PlcSend) (c : CmdRef) (s : State), s.plcSendOf id = some x ∧ x.phase = .await ∧ x.at'.isSome = true ∧ x.cmd = some c ∧ c.queue ≤ 256) ∧
    (∃ (id : Nat) (x : PlcSend) (s : State), s.plcSendOf id = some x ∧ x.phase = .retry) ∧
    (∃ (id : Nat) (x : PlcSend) (s : State), s.plcSendOf id = some x ∧ x.phase = .gap) ∧
    (∃ (c : CmdRef) (p : PlcSendIn) (s : State), (c.queue ≤ 256 ∧ s.dataHeld c = false ∧ s.dev.state = .day ∧ s.epMine c p.endpoint = true ∧ p.rate < 3 ∧ secOk p.sec p.miclen = true) ∧ (p.launchAt.all (fun t0 => !State.stampBad t0 && decide (s.nowNs + 200000 ≤ t0 / 2 ^ 30 * 1000000000 + t0 % 2 ^ 30)) = true) ∧ (plcLen (s.sendRelays p) p.sec p.payload.length p.miclen ≤ 2048 ∧ s.plc.sends.length < 4096 ∧ s.band.isNone = false ∧ s.shut 39 = false) ∧ ((p.route = 5 ∨ 1 ≤ p.route ∧ p.route ≤ 4 ∧ (s.routeOf (s.ctx p.endpoint) p.route).isSome = true ∨ p.route = 0 ∧ (s.pickRoute p.endpoint).1.isSome = true))) ∧
    (∃ (c : CmdRef) (p : PlcSendIn) (s : State), (c.queue ≤ 256 ∧ s.dataHeld c = false ∧ s.dev.state = .day ∧ s.epMine c p.endpoint = true ∧ p.rate < 3 ∧ secOk p.sec p.miclen = true) ∧ (p.launchAt.all (fun t0 => !State.stampBad t0 && decide (s.nowNs + 200000 ≤ t0 / 2 ^ 30 * 1000000000 + t0 % 2 ^ 30)) = true) ∧ (plcLen (s.sendRelays p) p.sec p.payload.length p.miclen ≤ 2048 ∧ s.plc.sends.length < 4096 ∧ s.band.isNone = false ∧ s.shut 39 = false) ∧ (p.route = 0 ∧ (s.pickRoute p.endpoint).1.isNone = true ∧ s.plc.cfg.routingEn = true)) ∧
    (∃ (c : CmdRef) (p : PlcMcastIn) (s : State), (c.queue ≤ 256 ∧ s.dataHeld c = false ∧ s.dev.state = .day ∧ p.group % 2 = 1 ∧ p.hopsLeft ≤ 5 ∧ 1 ≤ p.spread ∧ p.spread ≤ 15 ∧ 1 ≤ p.repeats ∧ p.repeats ≤ 8) ∧ (1 ≤ p.gap ∧ p.gap ≤ 255 ∧ secOk p.sec p.miclen = true ∧ plcLen 0 p.sec (4 + p.payload.length) p.miclen ≤ 2048) ∧ (s.plc.sends.length < 4096 ∧ s.band.isNone = false ∧ s.shut 39 = false)) :=
  ⟨⟨5, ⟨1, 0, 1000, 0, 3⟩, { plcFired with tim := { plcFired.tim with fired := [] } }, plcReady, plcFired, ⟨rfl, by decide +kernel⟩, by decide +kernel, by decide +kernel,
      robon_any (by decide +kernel) (by decide +kernel) (by decide +kernel) (by decide +kernel) (fun _ => .inr (fun _ h => nomatch h))⟩,
    ⟨3, plcAir, by decide +kernel⟩,
    ⟨3, plcAir, by decide +kernel⟩,
    ⟨3, { id := 3, phase := .bandc }, plcWith { id := 3, phase := .bandc }, by decide +kernel⟩,
    ⟨3, 0, { id := 3 }, plcWith { id := 3 }, by decide +kernel⟩,
    ⟨3, 0, { id := 3 }, { (plcWith { id := 3 }).setReg Reg.PLC_BAND 2 with plc := { (plcWith { id := 3 }).plc with pauseUntil := 9 } }, by decide +kernel⟩,
    ⟨3, { id := 3, cmd := some ⟨256, 7, 0⟩ }, ⟨256, 7, 0⟩, plcWith { id := 3, cmd := some ⟨256, 7, 0⟩ }, by decide +kernel⟩,
    ⟨3, 0, plcAckDue, plcOwes, by decide +kernel, by decide +kernel,
      robon_plan (by decide +kernel) (by decide +kernel) (by decide +kernel) (by decide +kernel)⟩,
    ⟨ackFrame, ((plcAwait.takeInbox 1).get (by decide +kernel)).2, plcAwaiting, ⟨256, 7, 0⟩, plcAwait, by decide +kernel⟩,
    ⟨3, { id := 3, phase := .await }, plcWith { id := 3, phase := .await }, by decide +kernel⟩,
    ⟨3, { id := 3, phase := .await, cmd := some ⟨256, 7, 0⟩, at' := some 5 }, ⟨256, 7, 0⟩, plcWith { id := 3, phase := .await, cmd := some ⟨256, 7, 0⟩, at' := some 5 }, by decide +kernel⟩,
    ⟨3, { id := 3, phase := .retry }, plcWith { id := 3, phase := .retry }, by decide +kernel⟩,
    ⟨3, { id := 3, phase := .gap }, plcWith { id := 3, phase := .gap }, by decide +kernel⟩,
    ⟨⟨256, 7, 0⟩, ⟨0, false, false, some 200000, 5, 0, 0, 0, 0, [1, 2]⟩, epState, by decide +kernel⟩,
    ⟨⟨256, 7, 0⟩, ⟨0, false, false, none, 0, 0, 0, 0, 0, [1, 2]⟩, { epState with ing := { epState.ing with ctxs := [(0, { epCtx with slots := [] })] } }, by decide +kernel⟩,
    ⟨⟨256, 7, 0⟩, ⟨1, 5, 15, 8, 255, 0, false, 0, 0, [1]⟩, dayState, by decide +kernel⟩⟩

theorem witness_plcCommandsComplete :
    (∃ (c : CmdRef) (p : PlcCfgIn) (s : State), c.queue ≤ 256 ∧ State.plcCfgOk p = true) ∧
    (∃ (c : CmdRef) (ep handle n : Nat) (pin : Bool) (set : Bytes) (s : State), c.queue ≤ 256 ∧ s.dataHeld c = false ∧ s.epMine c ep = true ∧ setBad set = false ∧ set.length = 384 ∧ s.txSlot (s.ctx ep) = some n) ∧
    (∃ (c : CmdRef) (ep : Nat) (s : State), c.queue ≤ 256 ∧ s.epMine c ep = true) ∧
    (∃ (c : CmdRef) (handle : Nat) (set : Bytes) (s : State), c.queue ≤ 256 ∧ handle ≤ 65535 ∧ s.poolSet handle = some set) ∧
    (∃ (c : CmdRef) (ep : Nat) (s : State), c.queue ≤ 256 ∧ s.epMine c ep = true) ∧
    (∃ (c : CmdRef) (ep slot last : Nat) (relays : List (Nat × Nat)) (s : State), c.queue ≤ 256 ∧ s.dataHeld c = false ∧ s.epMine c ep = true ∧ slot < 4 ∧ relays.length ≤ 5) ∧
    (∃ (c : CmdRef) (ep slot : Nat) (s : State), c.queue ≤ 256 ∧ s.epMine c ep = true ∧ slot < 4) ∧
    (∃ (c : CmdRef) (ep slot : Nat) (s : State), c.queue ≤ 256 ∧ s.epMine c ep = true ∧ slot < 4 ∧ ((s.ctx ep).slot slot).valid = true) ∧
    (∃ (c : CmdRef) (ep : Nat) (s : State), c.queue ≤ 256 ∧ s.epMine c ep = true) ∧
    (∃ (c : CmdRef) (s : State), c.queue ≤ 256) ∧
    (∃ (c : CmdRef) (ep : Nat) (s : State), c.queue ≤ 256 ∧ s.epMine c ep = true) ∧
    (∃ (c : CmdRef) (chains : Nat) (s : State), c.queue ≤ 256) :=
  ⟨⟨⟨256, 7, 0⟩, ⟨2, 1, 7, 63, 0, 0, 0, 1, 0, 256, 1, true, true, 1⟩, dayState, by decide +kernel⟩,
    ⟨⟨256, 7, 0⟩, 0, 9, 65536, true, zeros 384, { epState with plc := { epState.plc with poolSize := 65537 } }, by decide +kernel⟩,
    ⟨⟨256, 7, 0⟩, 0, epState, by decide +kernel⟩,
    ⟨⟨256, 7, 0⟩, 0, robonSet, dayState, by decide +kernel⟩,
    ⟨⟨256, 7, 0⟩, 0, epState, by decide +kernel⟩,
    ⟨⟨256, 7, 0⟩, 0, 3, 9, [(0x11, 5)], epState, by decide +kernel⟩,
    ⟨⟨256, 7, 0⟩, 0, 3, epState, by decide +kernel⟩,
    ⟨⟨256, 7, 0⟩, 0, 0, epState, by decide +kernel⟩,
    ⟨⟨256, 7, 0⟩, 0, epState, by decide +kernel⟩,
    ⟨⟨256, 7, 0⟩, dayState, by decide +kernel⟩,
    ⟨⟨256, 7, 0⟩, 0, epState, by decide +kernel⟩,
    ⟨⟨256, 7, 0⟩, 0, dayState, by decide +kernel⟩⟩

theorem witness_plcReceptionCommandsComplete :
    (∃ (w : FftWindow) (s : State), bitAt s.rxChains w.chain = true ∧ s.blanked = false) ∧
    (∃ (ds : List Detection) (s : State), (s.combine ds).isEmpty = false ∧ s.blanked = false ∧ s.band.isNone = false) ∧
    (∃ (id combined : Nat) (alone : List (Nat × Nat)) (x : PlcRx) (p : Phr) (s : State), (s.plcReceives = true ∧ s.plc.rx.find? (fun r => r.id == id && r.phr.isNone) = some x) ∧ (phrOf combined = some p ∧ (s.poolSet p.tmap).isSome = true)) ∧
    (∃ (id first : Nat) (w : List Word) (x : PlcRx) (p : Phr) (s : State), s.plcReceives = true ∧ s.plc.rx.find? (fun r => r.id == id) = some x ∧ x.phr = some p ∧ ldpcOk p.rate w = true) ∧
    (∃ (id lq : Nat) (est : List ChanEst) (x : PlcRx) (p : Phr) (s : State), s.plcReceives = true ∧ s.plc.rx.find? (fun r => r.id == id) = some x ∧ x.phr = some p ∧ x.failed = false ∧ p.ncw ≤ x.words.length ∧ x.chains.length < 2) ∧
    (∃ (channel timeNs : Nat) (valid : Bool) (s : State), s.plcReceives = true) ∧
    (∃ (timeNs : Nat) (s : State), s.plcReceives = true) ∧
    (∃ (s : State), s.zcSilent = true ∧ s.plcSending = false) ∧
    (∃ (s : State), s.zcSilent = true ∧ s.plcSending = true) ∧
    (∃ (f : RxFrame) (u : State) (s : State), s.takeInbox 5 = some (f, u) ∧ u.plc.answered.any (fun a => a.1 == (plcLinkOf f.bytes).src && a.2.1 == leAt (plcLinkOf f.bytes).body 0 2 && decide (u.nowSec < a.2.2 + 60)) = false) ∧
    (∃ (src rdiscId : Nat) (c : Collect) (best : RdiscCopy) (s : State), s.plc.collects.find? (fun c => c.src == src && c.rdiscId == rdiscId) = some c ∧ State.bestCopy c.penalty c.copies = some best) ∧
    (∃ (f : RxFrame) (u : State) (i : Nat) (x : Ctx) (d : Disc) (s : State), (s.takeInbox 6 = some (f, u)) ∧ (u.epOf (plcLinkOf f.bytes).src = some (i, x) ∧ u.epAt i = some x ∧ u.plc.discs.get? i = some d ∧ d.rdiscId = leAt (plcLinkOf f.bytes).body 0 2 ∧ byteAt (plcLinkOf f.bytes).body 2 = 0)) ∧
    (∃ (ep : Nat) (s : State), s.plc.discs.has ep = true) ∧
    (∃ (f : RxFrame) (u : State) (i : Nat) (x : Ctx) (s : State), s.takeInbox 7 = some (f, u) ∧ u.epOf (leAt (plcLinkOf f.bytes).body 16 8) = some (i, x)) ∧
    (∃ (f : RxFrame) (u : State) (i : Nat) (x : Ctx) (s : State), (s.takeInbox 2 = some (f, u) ∧ u.epOf (plcLinkOf f.bytes).src = some (i, x) ∧ u.epAt i = some x) ∧ (u.plc.cfg.tmapEn = true ∧ (u.nbr x.eui).tmrsp.all (fun t0 => decide (t0 + 600 ≤ u.nowSec)) = true)) ∧
    (∃ (f : RxFrame) (u : State) (i n : Nat) (x : Ctx) (s : State), (s.takeInbox 3 = some (f, u) ∧ u.epOf (plcLinkOf f.bytes).src = some (i, x) ∧ u.epAt i = some x) ∧ ((u.nbr x.eui).pinned = false ∧ setBad (slice (plcLinkOf f.bytes).body 2 384) = false ∧ (slice (plcLinkOf f.bytes).body 2 384).length = 384 ∧ u.txSlot x = some n)) ∧
    (∃ (ep : Nat) (x : Ctx) (s : State), (s.epAt ep = some x ∧ (s.epOf x.eui).isSome = true ∧ s.plc.cfg.tmapEn = true ∧ (s.nbr x.eui).tmreq.all (fun t0 => decide (t0 + 600 ≤ s.nowSec)) = true) ∧ ((x.txSet = 0 ∨ (s.plc.cfg.tmapAge ≠ 0 ∧ x.mapStamp + 3600 * s.plc.cfg.tmapAge < s.nowSec) ∨ (s.nbr x.eui).failedSend = true))) :=
  ⟨⟨{ chain := 0, levels := [5], lbt := 200 }, plcRecv [], by decide +kernel⟩,
    ⟨[⟨0, 0, 40⟩], plcRecv [], by decide +kernel⟩,
    ⟨3, onePhr.word, [], { id := 3, chains := [0], rts := 0 }, (phrOf onePhr.word).get (by decide +kernel), plcRecv [{ id := 3, chains := [0], rts := 0 }], by decide +kernel⟩,
    ⟨3, 0, List.replicate 64 0, { id := 3, chains := [0], rts := 0, phr := some onePhr }, onePhr, plcRecv [{ id := 3, chains := [0], rts := 0, phr := some onePhr }], by decide +kernel⟩,
    ⟨3, 0, [], { id := 3, chains := [0], rts := 0, phr := some onePhr, words := [(0, [])] }, onePhr, plcRecv [{ id := 3, chains := [0], rts := 0, phr := some onePhr, words := [(0, [])] }], by decide +kernel⟩,
    ⟨0, 5, true, plcRecv [], by decide +kernel⟩,
    ⟨5, plcRecv [], by decide +kernel⟩,
    ⟨{ dayState with plc := { dayState.plc with zc := { dayState.plc.zc with source := 1 } }, tim := { dayState.tim with sec := 10 } }, by decide +kernel⟩,
    ⟨{ plcAir with plc := { plcAir.plc with zc := { plcAir.plc.zc with source := 1 } }, tim := { plcAir.tim with sec := 10 } }, by decide +kernel⟩,
    ⟨inFrame 5, ((plcInbox 5).takeInbox 5).get (by decide +kernel) |>.2, plcInbox 5, by decide +kernel⟩,
    ⟨5, 6, { src := 5, rdiscId := 6, penalty := 0, copies := [{ entries := [(7, 1)], last := 1 }] }, { entries := [(7, 1)], last := 1 }, { dayState with plc := { dayState.plc with collects := [{ src := 5, rdiscId := 6, penalty := 0, copies := [{ entries := [(7, 1)], last := 1 }] }] } }, by decide +kernel⟩,
    ⟨{ bytes := le 1 6 ++ zeros 15 ++ le 8 0x1122 }, (rrepInbox.takeInbox 6).get (by decide +kernel) |>.2, 0, epCtx, { rdiscId := 0 }, rrepInbox, by decide +kernel⟩,
    ⟨0, rrepInbox, by decide +kernel⟩,
    ⟨{ bytes := [7] }, (rerrInbox.takeInbox 7).get (by decide +kernel) |>.2, 0, { epCtx with eui := 0 }, rerrInbox, by decide +kernel⟩,
    ⟨srcFrame 2, ((srcInbox 2).takeInbox 2).get (by decide +kernel) |>.2, 0, epCtx, srcInbox 2, by decide +kernel⟩,
    ⟨tmrspFrame, (tmrspInbox.takeInbox 3).get (by decide +kernel) |>.2, 0, 65536, epCtx, tmrspInbox, by decide +kernel⟩,
    ⟨0, epCtx, epState, by decide +kernel⟩⟩

theorem witness_radioPortCommandsComplete :
    (∃ (port : Nat) (s : State), port < 2 ∧ (s.rfPort port).clk = true) ∧
    (∃ (port : Nat) (s : State), port < 2 ∧ (s.rfPort port).clk = false ∧ s.shut (21 + port) = false) ∧
    (∃ (w : FramingIn) (s : State), w.port < 2 ∧ (s.rfPort w.port).framed = true ∧ (framedWord w.edges = false ∨ w.fifo = true)) ∧
    (∃ (w : FramingIn) (s : State), w.port < 2 ∧ (s.rfPort w.port).framed = false ∧ s.shut (21 + w.port) = false ∧ framedWords 16 w.edges = true ∧ w.fifo = false) ∧
    (∃ (d : SyncIn) (s : State), (d.port < 2 ∧ d.ch < 128 ∧ s.rxOn d.port = true ∧ s.rfBlanked d.port d.ch = false) ∧ (16 ≤ d.preamble ∧ d.errors ≤ field (s.regI Reg.RFX_SYNC_CFG d.port) 1 0 ∧ d.cfo.natAbs ≤ 300) ∧ (s.isSpill d = false ∧ s.rfx.rx.find? (fun r => r.port == d.port && r.ch == d.ch) = none ∧ s.demodFree d.port = true)) ∧
    (∃ (id w : Nat) (x : RfRx) (p : Nat × Bool) (s : State), s.begun 5 = true ∧ s.rfx.rx.find? (fun r => r.id == id) = some x ∧ rfPhrOf w x.rate x.ch = some p) ∧
    (∃ (id w : Nat) (x : RfRx) (s : State), s.begun 5 = true ∧ s.rfx.rx.find? (fun r => r.id == id) = some x ∧ rfPhrOf w x.rate x.ch = none) ∧
    (∃ (id len : Nat) (w : Bool) (psdu b : Bytes) (x : RfRx) (s : State), (s.begun 5 = true ∧ s.rfx.rx.find? (fun r => r.id == id) = some x ∧ x.phr = some (len, w)) ∧ (b = (if w = true then whiten (fit len psdu) else fit len psdu))) ∧
    (∃ (port below : Nat) (block : List PortEdge) (s : State), (port < 2 ∧ s.rxOn port = true ∧ bitAt (s.regI Reg.RFX_PORT_CTRL port) 3 = true) ∧ (max 1 (field (s.regI Reg.RFX_AGC_CFG port) 7 0) ≤ clippedIn block)) ∧
    (∃ (port below : Nat) (block : List PortEdge) (s : State), (port < 2 ∧ s.rxOn port = true ∧ bitAt (s.regI Reg.RFX_PORT_CTRL port) 3 = true) ∧ (clippedIn block < max 1 (field (s.regI Reg.RFX_AGC_CFG port) 7 0) ∧ field (s.regI Reg.RFX_RX_GAIN_REF port) 15 12 + 6 < below) ∧ (4 * field (s.regI Reg.RFX_AGC_CFG port) 15 8 ≤ (s.rfPort port).quietBlocks + 1)) ∧
    (∃ (port below : Nat) (block : List PortEdge) (s : State), port < 2 ∧ s.rxOn port = true ∧ bitAt (s.regI Reg.RFX_PORT_CTRL port) 3 = false) ∧
    (∃ (port : Nat) (j : JamIn) (s : State), (port < 2 ∧ j.ch < 128 ∧ (s.rfPort port).jammed.contains j.ch = false) ∧ (j.below < field (s.regI Reg.RFX_JAM_CFG port) 7 0 ∧ field (s.regI Reg.RFX_JAM_CFG port) 31 16 ≤ j.ms) ∧ ((s.rfx.lastSync.get? (port * 128 + j.ch)).all (fun t0 => decide (t0 + field (s.regI Reg.RFX_JAM_CFG port) 31 16 * 1000000 ≤ s.nowNs)) = true)) ∧
    (∃ (port : Nat) (j : JamIn) (s : State), (s.rfPort port).jammed.contains j.ch = true ∧ field (s.regI Reg.RFX_JAM_CFG port) 7 0 < j.below ∧ 100 ≤ j.ms) ∧
    (∃ (e : Launch) (port : Nat) (h : Ctx) (u : State) (x : MshSend) (s : State), (s.takeFiredRf = some (e, u) ∧ u.mshSendOf e.ref = some x ∧ h = u.hopCtx x ∧ x.typ ≠ 3) ∧ ((x.phase = .ready ∨ x.phase = .retry ∧ x.retryAsn ≤ e.instant / 1000000)) ∧ (port = (if e.lane ≤ 4 then 0 else 1) ∧ port = h.homePort ∧ u.openSend x = true) ∧ ((x.stated = true → x.at' = some (e.instant + u.syncLead port x.rate) ∧ u.timeValid = true)) ∧ (u.framePermits port h.homeCh false none e.instant (e.instant + u.airNs port (u.attemptLen x) x.rate) = true) ∧ (canSend u x port h.homeCh x.rate e.instant = true)) ∧
    (∃ (port slot : Nat) (x : RfTx) (s : State), s.rfx.tx.find? (fun y => y.port == port && y.slot == slot) = some x) :=
  ⟨⟨0, airState, by decide +kernel⟩,
    ⟨1, dayState, by decide +kernel⟩,
    ⟨⟨1, [], false⟩, airState, by decide +kernel⟩,
    ⟨⟨0, (List.range 16).flatMap (fun _ => sampleEdges 5 (-5)), false⟩, dayState, by decide +kernel⟩,
    ⟨⟨0, 5, 0, 16, 0, 300, List.replicate 16 40⟩, airState, by decide +kernel⟩,
    ⟨3, rfCrc 1 * 65536 + 1, rfHeard none, (1, false), rfRecv none, by decide +kernel⟩,
    ⟨3, 0, rfHeard none, rfRecv none, by decide +kernel⟩,
    ⟨3, 2, false, [1, 2], fit 2 [1, 2], rfHeard (some (2, false)), rfRecv (some (2, false)), by decide +kernel⟩,
    ⟨0, 0, (List.range 16).flatMap (fun _ => sampleEdges 32767 0), airState.setRegI Reg.RFX_PORT_CTRL 0 0xF, by decide +kernel⟩,
    ⟨0, 200, sampleEdges 5 (-5), (airState.setRegI Reg.RFX_PORT_CTRL 0 0xF).setRegI Reg.RFX_AGC_CFG 0 5, by decide +kernel⟩,
    ⟨0, 0, (List.range 16).flatMap (fun _ => sampleEdges 32767 0), airState, by decide +kernel⟩,
    ⟨1, ⟨127, 0, 1000⟩, airState.setRegI Reg.RFX_JAM_CFG 1 0x3E80028, by decide +kernel⟩,
    ⟨0, ⟨9, 200, 100⟩, { airState with rfx := { airState.rfx with ports := [(0, { jammed := [9] })] } }, by decide +kernel⟩,
    ⟨⟨1, 1, 1000000000000, 0, 3⟩, 0, epCtx, (mshFired.takeFiredRf.get (by decide)).2, mshData, mshFired, by decide +kernel⟩,
    ⟨0, 0, onAirTx, { mshWith { mshData with phase := .onAir } with rfx := { airState.rfx with tx := [onAirTx] } }, by decide +kernel⟩⟩

theorem witness_meshEventCommandsComplete :
    (∃ (port : Nat) (w : BeaconCfg) (edge : Nat) (q : Bytes × Nat) (u v s : State), (port < 2 ∧ s.shut 41 = false ∧ edge = (s.nowNs / 1024000000 + 1) * 1024000000 ∧ w = s.beaconAt edge ∧ w.en = true ∧ bitAt w.ports port = true) ∧ (s.dueAt (1 + 4 * port) (edge - s.syncLead port w.rate) = true ∧ inBinRuns (edge / 1024000000) (s.msh.beaconed.getD port []) = false) ∧ (s.permits = true ∧ s.timeValid = true ∧ s.msh.restored = true ∧ u = s.takeBeaconCfg edge) ∧ (s.rfRefusal port (if port = 0 then w.chA else w.chB) w.rate (34 + (u.beaconBody w (edge / 1024000000)).length) (edge - s.syncLead port w.rate) = none) ∧ (u.bcastPsdu { id := 0, typ := 2, dst := State.beaconDst, sealedBody := u.beaconBody w (edge / 1024000000) } = (some (.inr q), v))) ∧
    (∃ (f : RxFrame) (u s : State), s.begun 5 = true ∧ s.takeMshInbox true = some (f, u) ∧ mshLinkFail f.bytes (u.regBit Reg.MSH_CTRL 0) u.msh.cfg.netId = none) ∧
    (∃ (f : RxFrame) (u s : State), (s.begun 5 = true ∧ s.takeMshInbox false = some (f, u) ∧ mshLinkFail f.bytes (u.regBit Reg.MSH_CTRL 0) u.msh.cfg.netId = none) ∧ ((mshLinkOf f.bytes).typ = 0 ∧ (mshLinkOf f.bytes).dst = u.msh.cfg.netEui)) ∧
    (∃ (a : MshAck) (i : Nat) (c : Ctx) (k : KeySnap) (n : Nat) (u v s : State), (s.msh.acks.find? (fun a => decide (State.ackLaunch a ≤ s.rfSoon a.port)) = some a ∧ a.refused = false ∧ a.status.isSome = true ∧ a.late = false ∧ s.permits = true) ∧ (u = s.setMsh (fun m => { m with acks := m.acks.erase a }) ∧ s.dueAt (1 + 4 * a.port) (State.ackLaunch a) = true) ∧ (u.ackSlotOk a.port a.ch (State.ackLaunch a) (u.ackLast a + 8000) = true ∧ u.rfRefusal a.port a.ch a.rate 46 (State.ackLaunch a) = none) ∧ (u.epOf a.dst = some (i, c) ∧ u.tagKeyOut (some c) = (.ok k, v) ∧ (v.drawNseq i).1 = some n)) ∧
    (∃ (f : RxFrame) (rest : List RxFrame) (x : MshSend) (c : CmdRef) (s : State), (s.msh.ackbox = f :: rest ∧ s.msh.sends.find? (fun y => s.ackMatches f y) = some x) ∧ (s.msh.sends.find? (fun y => y.id == x.id) = some x) ∧ (x.cmd = some c ∧ c.queue ≤ 256 ∧ x.typ = 0)) ∧
    (∃ (id : Nat) (x : MshSend) (s : State), (s.mshSendOf id = some x ∧ x.phase = .await ∧ x.endNs - 8000 + 1100000 < s.nowNs ∧ s.ackComing x = false ∧ x.attempts ≤ s.msh.cfg.retryMax) ∧ ((x.when' ≠ 1 ∨ x.ep.any s.msh.nights.has = true))) ∧
    (∃ (id : Nat) (x : MshSend) (c : CmdRef) (s : State), (s.mshSendOf id = some x ∧ x.phase = .await ∧ x.endNs - 8000 + 1100000 < s.nowNs ∧ s.ackComing x = false ∧ s.msh.cfg.retryMax < x.attempts) ∧ ((x.when' ≠ 1 ∨ x.ep.any s.msh.nights.has = true)) ∧ (x.cmd = some c ∧ c.queue ≤ 256)) ∧
    (∃ (id : Nat) (c : CmdRef) (x : MshSend) (s : State), (s.mshSendOf id = some x ∧ x.phase = .await ∧ x.endNs - 8000 + 1100000 < s.nowNs ∧ s.ackComing x = false) ∧ (x.when' = 1 ∧ x.ep.any s.msh.nights.has = false ∧ x.cmd = some c ∧ c.queue ≤ 256)) ∧
    (∃ (id : Nat) (h : Ctx) (x : MshSend) (s : State), (s.mshSendOf id = some x ∧ h = s.hopCtx x ∧ x.phase = .retry ∧ s.openSend x = true) ∧ (x.retryAsn ≤ s.rfSoon h.homePort / 1000000) ∧ (s.framePermits h.homePort h.homeCh false none (s.rfSoon h.homePort) (s.rfSoon h.homePort + s.airNs h.homePort (s.attemptLen x) x.rate) = true) ∧ (canSend s x h.homePort h.homeCh x.rate (s.rfSoon h.homePort) = true)) ∧
    (∃ (p : Piggy) (w : Nat × Nat) (x : MshSend) (u s : State), (s.msh.piggy.find? (fun p => decide (p.instant - 8000 ≤ s.rfSoon p.port)) = some p ∧ u = s.setMsh (fun m => { m with piggy := m.piggy.erase p })) ∧ (u.mshSendOf p.send = some x ∧ (x.phase = .ready ∨ x.phase = .retry) ∧ w = u.piggySpan x p.port p.rate p.instant ∧ u.ackSlotOk p.port p.ch w.1 w.2 = true) ∧ (u.dueAt (1 + 4 * p.port) w.1 = true ∧ canSend u x p.port p.ch p.rate w.1 = true)) ∧
    (∃ (endpoint lead slot start : Nat) (n : Night) (x : MshSend) (s : State), (s.msh.nights.get? endpoint = some n ∧ n.active = true ∧ lead = s.syncLead n.port n.rate ∧ slot = (s.rfSoon n.port + lead) / 1000000 ∧ start = slot * 1000000 - lead) ∧ (State.nightIn n slot = true ∧ s.dueAt (1 + 4 * n.port) start = true ∧ s.guardWide endpoint n = false ∧ s.timeValid = true) ∧ (s.nightSend n.port n.ch slot = some x ∧ x.ep = some endpoint) ∧ (s.framePermits n.port n.ch false (some n) start (start + s.airNs n.port (s.attemptLen x) n.rate) = true ∧ canSend s x n.port n.ch n.rate start = true)) ∧
    (∃ (id port ch rate start : Nat) (x : MshSend) (q : Bytes × Nat) (v s : State), (s.mshSendOf id = some x ∧ x.typ = 3 ∧ s.rfx.tx.any (fun y => y.ref == x.id && y.port == port) = false ∧ bitAt x.ports port = true) ∧ (ch = (if port = 0 then (s.beaconAt s.intervalNs).chA else (s.beaconAt s.intervalNs).chB)) ∧ (x.sent.getD port 0 < x.repeats ∧ (x.sec = true → x.sealed = true) ∧ s.permits = true) ∧ (rate = (s.beaconAt s.intervalNs).rate ∧ start = s.rfSoon port ∧ s.runOver x port (start / 1000000) = true) ∧ (s.framePermits port ch true none start (start + s.airNs port (mshLen 0 true x.body.length x.miclen) rate) = true) ∧ (s.rfRefusal port ch rate (mshLen 0 true x.body.length x.miclen) start = none) ∧ (s.bcastPsdu x = (some (.inr q), v) ∧ q.1.length = mshLen 0 true x.body.length x.miclen)) ∧
    (∃ (b : Bytes) (first : Nat) (s : State), s.msh.mapNext = some (b, first) ∧ first ≤ State.binOf s.asn) ∧
    (∃ (e a p eui i : Nat) (b : Bytes) (x : Ctx) (s : State), (s.ethUp e = true ∧ s.shut 41 = false ∧ s.regBit Reg.MSH_CTRL 2 = true ∧ 24 ≤ b.length ∧ byteAt b 0 = 1 ∧ leAt b 2 2 = b.length - 24) ∧ ((byteAt b 1 = 0 ∨ (byteAt b 1 = 2 ∧ b.length = 24)) ∧ byteAt b 12 < 2 ∧ byteAt b 15 = 0) ∧ (eui = leAt b 4 8 ∧ s.epOf eui = some (i, x) ∧ x.kind = 6)) ∧
    (∃ (collector : Nat) (c : Collector) (s : State), s.msh.collectors.get? collector = some c ∧ c.down = false ∧ c.last + max 1 (s.regField Reg.MSH_AT_CFG 23 16) * 1000000000 ≤ s.nowNs) ∧
    (∃ (id at' : Nat) (x : MshSend) (c : CmdRef) (s : State), s.mshSendOf id = some x ∧ x.expire = some at' ∧ x.started = false ∧ at' ≤ s.nowNs ∧ x.cmd = some c ∧ c.queue ≤ 256 ∧ x.typ = 0) ∧
    (∃ (lane instant owner ref : Nat) (s : State), s.nowNs + 1000 ≤ instant ∧ s.tim.queue.length < 256) :=
  ⟨⟨0, beaconNow.msh.beacon, 1000448000000, rightOf (beaconUp.bcastPsdu beaconSend).1, beaconUp, (beaconUp.bcastPsdu beaconSend).2, beaconNow, by decide +kernel⟩,
    ⟨mshIn 2 (zeros 48), mshInbox [], mshInbox [mshIn 2 (zeros 48)], by decide +kernel⟩,
    ⟨mshIn 0 [], mshInbox [], mshInbox [mshIn 0 []], by decide +kernel⟩,
    ⟨mshAckDue, 0, epCtx, { place := 0, inst := 0, usage := 0, mode := 0, aes256 := false, key := List.replicate 16 1, lc := 3, parentGen := 1, instGen := 1 }, epCtx.txNseq, mshOwes.setMsh (fun m => { m with acks := m.acks.erase mshAckDue }), ((mshOwes.setMsh (fun m => { m with acks := m.acks.erase mshAckDue })).tagKeyOut (some epCtx)).2, mshOwes, by decide +kernel⟩,
    ⟨mshIn 1 (le 2 0 ++ le 4 5 ++ zeros 6), [], mshAwaiting, ⟨256, 7, 0⟩, { mshInbox [] with msh := { (mshInbox []).msh with sends := [mshAwaiting], ackbox := [mshIn 1 (le 2 0 ++ le 4 5 ++ zeros 6)] } }, by decide +kernel⟩,
    ⟨3, { mshAwaiting with endNs := 999998900000, attempts := 0 }, mshWith { mshAwaiting with endNs := 999998900000, attempts := 0 }, by decide +kernel⟩,
    ⟨3, { mshAwaiting with endNs := 999998900000, attempts := 9 }, ⟨256, 7, 0⟩, mshWith { mshAwaiting with endNs := 999998900000, attempts := 9 }, by decide +kernel⟩,
    ⟨3, ⟨256, 7, 0⟩, { mshAwaiting with endNs := 999998900000, when' := 1 }, mshWith { mshAwaiting with endNs := 999998900000, when' := 1 }, by decide +kernel⟩,
    ⟨3, epCtx, { mshData with phase := .retry }, mshWith { mshData with phase := .retry }, by decide +kernel⟩,
    ⟨windowDue, piggyDue.piggySpan mshData 0 0 1000000008000, mshData, piggyDue.setMsh (fun m => { m with piggy := m.piggy.erase windowDue }), piggyDue, by decide +kernel⟩,
    ⟨0, nightNow.syncLead 0 0, 1000000, 1000000000000 - nightNow.syncLead 0 0, nightOf, mshData, nightNow, by decide +kernel⟩,
    ⟨3, 0, 0, 0, floodState.rfSoon 0, floodWaits, rightOf (floodState.bcastPsdu floodWaits).1, (floodState.bcastPsdu floodWaits).2, floodState, by decide +kernel⟩,
    ⟨zeros 256, 0, { airState with msh := { airState.msh with mapNext := some (zeros 256, 0) } }, by decide +kernel⟩,
    ⟨0, 0x0A000001, 4500, 0x1122, 0, [1, 2, 0, 0] ++ le 8 0x1122 ++ zeros 12, { epCtx with kind := 6 }, collState.setReg Reg.MSH_CTRL 4, by decide +kernel⟩,
    ⟨7, { last := 0, eth := 0, address := 0, port := 0 }, { airState with msh := { airState.msh with collectors := [(7, { last := 0, eth := 0, address := 0, port := 0 })] } }, by decide +kernel⟩,
    ⟨3, 1000000000000, { mshData with expire := some 1000000000000 }, ⟨256, 7, 0⟩, mshWith { mshData with expire := some 1000000000000 }, by decide +kernel⟩,
    ⟨1, 1000000001000, 0, 3, airState, by decide +kernel⟩⟩

theorem witness_meshHostCommandsComplete :
    (∃ (c : CmdRef) (p : MshCfgIn) (s : State), c.queue ≤ 256 ∧ s.dataHeld c = false ∧ State.mshCfgOk p = true ∧ s.locked 6 = false) ∧
    (∃ (c : CmdRef) (p : MshCfgIn) (s : State), c.queue ≤ 256 ∧ s.dataHeld c = false ∧ State.mshCfgOk p = true ∧ s.locked 6 = true) ∧
    (∃ (c : CmdRef) (p : SlotIn) (id : Nat) (s : State), (c.queue ≤ 256 ∧ s.slotOk p p.span = true ∧ s.epMine c p.endpoint = true ∧ s.freeAssign p.endpoint = some id) ∧ (s.msh.assigns.length < 262144) ∧ ((p.kind ≠ 2 → p.slot + p.span ≤ 1024 ∧ s.runHas 0 p.p p.phase p.slot p.span = true ∧ s.msh.assigns.any (fun b => b.kind != 2 && State.runsConflict ⟨id, p.endpoint, p.kind, p.port, p.ch, p.rate, p.p, p.slot, p.phase, p.span⟩ b) = false))) ∧
    (∃ (c : CmdRef) (endpoint assignment : Nat) (s : State), c.queue ≤ 256 ∧ s.epMine c endpoint = true ∧ s.msh.assigns.any (fun a => a.ep == endpoint && a.id == assignment) = true) ∧
    (∃ (c : CmdRef) (endpoint : Nat) (s : State), c.queue ≤ 256 ∧ s.epMine c endpoint = true) ∧
    (∃ (c : CmdRef) (p : SlotIn) (s : State), (c.queue ≤ 256 ∧ s.slotOk { p with kind := 0 } 1 = true ∧ 1 ≤ p.span ∧ p.span ≤ 255 ∧ s.epMine c p.endpoint = true) ∧ (s.msh.nights.length < 2097152 ∧ s.runHas 2 p.p p.phase p.slot 1 = true)) ∧
    (∃ (c : CmdRef) (endpoint : Nat) (s : State), c.queue ≤ 256 ∧ s.epMine c endpoint = true ∧ s.msh.nights.has endpoint = true) ∧
    (∃ (c : CmdRef) (p : MshSendIn) (y x : MshSend) (h : Ctx) (s : State), (c.queue ≤ 256 ∧ s.dataHeld c = false ∧ s.dev.state = .day ∧ secOk p.sec p.miclen = true ∧ p.when' ≤ 3 ∧ p.rate ≤ 3 ∧ (p.tunnel = false ∨ p.sec = true)) ∧ (s.epMine c p.endpoint = true ∧ s.shut 41 = false ∧ s.msh.sends.length < 65536) ∧ ((s.msh.sends.filter (fun y => y.ep == some p.endpoint)).length < 8) ∧ (mshLen (downRelays (s.ctx p.endpoint)) p.sec p.payload.length p.miclen ≤ 2047) ∧ ((p.tunnel = true → s.collectorDown (s.ctx (s.ctx p.endpoint).lastCollector).eui = false) ∧ (p.when' = 1 → s.msh.nights.has p.endpoint = true)) ∧ ((p.when' = 3 → stampBad p.launchAt = false ∧ s.nowNs + 300000 ≤ State.nsOf p.launchAt ∧ s.framePermits h.homePort h.homeCh false none (State.nsOf p.launchAt - s.syncLead h.homePort p.rate) (State.nsOf p.launchAt - s.syncLead h.homePort p.rate + s.airNs h.homePort (mshLen (downRelays (s.ctx p.endpoint)) p.sec p.payload.length p.miclen) p.rate) = true)) ∧ (y = { id := 0, cmd := some c, ep := some p.endpoint, dst := (s.ctx p.endpoint).eui, body := p.payload, ackreq := p.ackreq, sec := p.sec, keyref := p.keyref, miclen := p.miclen, rate := p.rate, tunnel := p.tunnel, when' := p.when', at' := if p.when' = 3 then some (State.nsOf p.launchAt) else none, expire := if p.expireS = 0 then none else some (s.nowNs + p.expireS * 1000000000) }) ∧ (h = s.hopCtx y ∧ x = { y with id := s.msh.nextId, port := h.homePort, ch := h.homeCh })) ∧
    (∃ (c : CmdRef) (p : MshFloodIn) (s : State), (c.queue ≤ 256 ∧ s.dataHeld c = false ∧ s.dev.state = .day ∧ p.group % 2 = 1 ∧ 1 ≤ p.ttl ∧ p.ttl ≤ 15 ∧ 1 ≤ p.spread ∧ p.spread ≤ 15 ∧ 1 ≤ p.repeats ∧ p.repeats ≤ 4) ∧ (1 ≤ p.miclen ∧ p.miclen ≤ 2 ∧ p.ports ≤ 3 ∧ mshLen 0 true (p.payload.length + 4) p.miclen ≤ 2047) ∧ (s.msh.sends.length < 65536 ∧ s.msh.restored = true ∧ s.shut 41 = false ∧ s.floodPorts p.ports ≠ 0)) ∧
    (∃ (c : CmdRef) (p : BeaconIn) (s : State), c.queue ≤ 256 ∧ s.dataHeld c = false ∧ p.ann.length ≤ 64 ∧ p.rate ≤ 3 ∧ p.chA ≤ 127 ∧ p.chB ≤ 127 ∧ p.ports ≤ 3 ∧ s.beaconFits p.rate p.ann.length = true) ∧
    (∃ (c : CmdRef) (endpoint : Nat) (s : State), c.queue ≤ 256 ∧ s.epMine c endpoint = true) :=
  ⟨⟨⟨256, 7, 0⟩, ⟨0x5500, 7, 2, 16, 3, 1000, 0x0101, 0x80, false, 0, some (zeros 1024)⟩, airState, by decide +kernel⟩,
    ⟨⟨256, 7, 0⟩, ⟨0x5500, 7, 2, 16, 3, 1000, 0x0101, 0x80, false, 0, some (zeros 1024)⟩, airState.setReg (Reg.unitLock 6) 1, by decide +kernel⟩,
    ⟨⟨256, 7, 0⟩, ⟨0, 0, 0, 5, 0, 0, 100, 0, 4⟩, 0, airState, by decide +kernel⟩,
    ⟨⟨256, 7, 0⟩, 0, 9, { airState with msh := { airState.msh with assigns := [⟨9, 0, 0, 0, 5, 0, 0, 100, 0, 4⟩] } }, by decide +kernel⟩,
    ⟨⟨256, 7, 0⟩, 0, airState, by decide +kernel⟩,
    ⟨⟨256, 7, 0⟩, ⟨0, 0, 0, 5, 0, 0, 100, 0, 20⟩, { airState with msh := { airState.msh with map := List.replicate 4096 0xAA } }, by decide +kernel⟩,
    ⟨⟨256, 7, 0⟩, 0, nightDue, by decide +kernel⟩,
    ⟨⟨256, 7, 0⟩, ⟨0, true, true, false, 0, 0, 1, 1, [1, 2], 0, 0⟩, { id := 0, cmd := some ⟨256, 7, 0⟩, ep := some 0, dst := 0x1122, body := [1, 2], ackreq := true, sec := true, keyref := 1, miclen := 1 }, { ({ id := 0, cmd := some ⟨256, 7, 0⟩, ep := some 0, dst := 0x1122, body := [1, 2], ackreq := true, sec := true, keyref := 1, miclen := 1 } : MshSend) with id := airState.msh.nextId }, epCtx, airState, by decide +kernel⟩,
    ⟨⟨256, 7, 0⟩, ⟨0x0101, 3, 1, 1, 0x80, 1, 1, [1, 2]⟩, airState, by decide +kernel⟩,
    ⟨⟨256, 7, 0⟩, ⟨true, 3, 1, 2, 3, [9], 0⟩, { airState with msh := { airState.msh with cfg := { airState.msh.cfg with beaconSlots := 64 } } }, by decide +kernel⟩,
    ⟨⟨256, 7, 0⟩, 0, airState, by decide +kernel⟩⟩

theorem witness_frameSecurityCommandsComplete :
    (∃ (f : RxFrame) (rest : List RxFrame) (s : State), (s.begun 5 = true ∧ s.fse.offered = f :: rest ∧ (s.dev.role ≠ .standby ∨ f.shadow = true) ∧ s.intakeFull = false) ∧ ((State.gated f = true → f.shadow = true ∨ s.gateOpen f.path = true))) ∧
    (∃ (k waitNc i g : Nat) (sameCycle : Bool) (f : FseFrame) (p : Option Bytes) (a b u s : State), (s.begun 5 = true ∧ s.fse.intake[k]? = some f ∧ a = s.setFse (fun q => { q with intake := q.intake.erase f })) ∧ (b = (if sameCycle = true then a.bump Reg.FSE_SAME_CYCLE else a)) ∧ (u = (if waitNc = 0 then b else (b.bump Reg.FSE_MISS_WAIT).maxReg Reg.FSE_MAX_WAIT_NC waitNc)) ∧ (u.verdictOf f = (⟨0, 0⟩, p) ∧ f.frame.radio = true ∧ (mshLinkOf f.frame.bytes).typ = 1 ∧ f.frame.fcsBad = false ∧ f.hop = some (i, g))) ∧
    (∃ (k waitNc i g : Nat) (sameCycle : Bool) (f : FseFrame) (p : Bytes) (y : KeySnap) (a b u s : State), (s.begun 5 = true ∧ s.fse.intake[k]? = some f ∧ a = s.setFse (fun q => { q with intake := q.intake.erase f })) ∧ (b = (if sameCycle = true then a.bump Reg.FSE_SAME_CYCLE else a)) ∧ (u = (if waitNc = 0 then b else (b.bump Reg.FSE_MISS_WAIT).maxReg Reg.FSE_MAX_WAIT_NC waitNc)) ∧ (u.verdictOf f = (⟨0, 0⟩, some p) ∧ f.frame.radio = true ∧ (mshLinkOf f.frame.bytes).typ = 0 ∧ f.src = some (i, g) ∧ f.micKey = .ok y)) ∧
    (∃ (k waitNc i g : Nat) (sameCycle : Bool) (f : FseFrame) (s : State), s.begun 5 = true ∧ s.fse.intake[k]? = some f ∧ frameOwner f = some (i, g) ∧ (s.inst (s.ctx i).inst).state = .fencing) ∧
    (∃ (f : RxFrame) (rest : List RxFrame) (s : State), s.fse.fcsDue = f :: rest) ∧
    (∃ (id set inst ref ml i v : Nat) (k : KeySnap) (u w s : State), s.sealTarget 0 id = some (set, inst, ref, ml, some i) ∧ ref < 0x80 ∧ s.sealKey set inst ref ml = (.ok k, u) ∧ u.drawUnicast i = (some v, w)) ∧
    (∃ (id set inst ref ml i v : Nat) (k : KeySnap) (u w s : State), (s.sealTarget 1 id = some (set, inst, ref, ml, some i) ∧ ref < 0x80 ∧ s.sealKey set inst ref ml = (.ok k, u) ∧ u.drawUnicast i = (some v, w)) ∧ ((∀ y ∈ s.msh.sends, y.id = id → y.tunnel = false))) ∧
    (∃ (f : BbFrame) (rest : List BbFrame) (s : State), (s.begun 6 = true ∧ s.ing.buffer = f :: rest ∧ f.old = false ∧ (s.inst f.inst).state ≠ .fencing ∧ (s.inst f.inst).state ≠ .fenced ∧ s.headGone f = false) ∧ (((s.setIng (fun g => { g with buffer := rest })).ingestFrame f).cod.input.length ≤ max 256 s.cod.input.length)) ∧
    (∃ (s : State), s.begun 6 = true ∧ s.ing.storm = false ∧ s.regBit Reg.ING_CTRL 0 = true ∧ s.regField Reg.ING_STORM_CFG 15 0 ≤ s.ing.outageCount) ∧
    (∃ (s : State), s.begun 6 = true ∧ s.ing.storm = true ∧ (s.regBit Reg.ING_CTRL 0 = false ∨ s.regField Reg.ING_STORM_TIME 7 0 ≤ (if s.ing.outageCount < s.regField Reg.ING_STORM_CFG 31 16 then s.ing.quiet + 1 else 0))) ∧
    (∃ (path frames : Nat) (s : State), path < 4 ∧ s.inStorm = true) ∧
    (∃ (k : Nat) (l : List Rec) (s : State), s.begun 6 = true ∧ l = (s.ing.gap.take (min k (s.ing.bilqMib * 16384 - s.ing.bilq.length))).takeWhile s.recDurable) ∧
    (∃ (r : Rec) (rest : List Rec) (o : OpenBlock) (s : State), (s.cod.input = r :: rest ∧ s.closeWaits (r.inst * 8 + r.cls) = false ∧ s.needsFull r = false) ∧ (o = s.cod.opens.getD (r.inst * 8 + r.cls) { bounded := s.opensBounded r.cls, since := s.dev.nc })) ∧
    (∃ (i cls : Nat) (o : OpenBlock) (s : State), cls < 8 ∧ s.cod.opens.get? (i * 8 + cls) = some o ∧ s.timerDue cls o = true ∧ s.cod.waiting = [] ∧ s.codCanClose = true) ∧
    (∃ (i cls : Nat) (o : OpenBlock) (s : State), s.cod.opens.get? (i * 8 + cls) = some o ∧ s.timerDue cls o = false) ∧
    (∃ (k cause : Nat) (rest : List (Nat × Nat)) (o : OpenBlock) (s : State), s.cod.waiting = (k, cause) :: rest ∧ s.codCanClose = true ∧ s.cod.opens.get? k = some o) :=
  ⟨⟨dataFrame, [], { fseState with fse := { fseState.fse with offered := [dataFrame] } }, by decide +kernel⟩,
    ⟨0, 0, 0, 0, false, (fseState.fseLookup tagFrame).1, none, fseTaken tagFrame, fseTaken tagFrame, fseTaken tagFrame, fseHolds tagFrame,
      ⟨by decide +kernel, rfl, rfl⟩, rfl, rfl, by decide +kernel⟩,
    ⟨0, 0, 0, 0, false, (fseState.fseLookup dataFrame).1, oneAr, { place := 1, inst := 0, usage := 1, mode := 0, aes256 := false, key := List.replicate 16 2, lc := 3, parentGen := 1, instGen := 1 }, fseTaken dataFrame, fseTaken dataFrame, fseTaken dataFrame, fseHolds dataFrame,
      ⟨by decide +kernel, rfl, rfl⟩, rfl, rfl, by decide +kernel⟩,
    ⟨0, 0, 0, 0, false, (fseState.fseLookup tagFrame).1, { fseHolds tagFrame with vin := { fseState.vin with insts := [(0, { state := .fencing })] } }, by decide +kernel⟩,
    ⟨tagFrame, [], { mshOwes with fse := { mshOwes.fse with fcsDue := [tagFrame] } }, by decide +kernel⟩,
    ⟨3, 0, 0, 1, 1, 0, epCtx.txFcnt, { place := 1, inst := 0, usage := 1, mode := 0, aes256 := false, key := List.replicate 16 2, lc := 3, parentGen := 1, instGen := 1 }, (sealPlcState.sealKey 0 0 1 1).2, (((sealPlcState.sealKey 0 0 1 1).2).drawUnicast 0).2, sealPlcState, by decide +kernel⟩,
    ⟨3, 0, 0, 1, 1, 0, epCtx.txFcnt, { place := 1, inst := 0, usage := 1, mode := 0, aes256 := false, key := List.replicate 16 2, lc := 3, parentGen := 1, instGen := 1 }, (sealState.sealKey 0 0 1 1).2, (((sealState.sealKey 0 0 1 1).2).drawUnicast 0).2, sealState, by decide +kernel⟩,
    ⟨bbFrame, [], bbState, by decide +kernel⟩,
    ⟨({ fseState with ing := { fseState.ing with outageCount := 9 } } : State).setReg Reg.ING_CTRL 1 |>.setReg Reg.ING_STORM_CFG 5, by decide +kernel⟩,
    ⟨({ fseState with ing := { fseState.ing with storm := true } } : State).setReg Reg.ING_CTRL 0, by decide +kernel⟩,
    ⟨3, 10, ({ fseState with ing := { fseState.ing with storm := true } } : State).setReg Reg.ING_CTRL 1, by decide +kernel⟩,
    ⟨3, [bilRec], gapState, by decide +kernel⟩,
    ⟨oneRec, [], { bounded := false }, codState, by decide +kernel⟩,
    ⟨0, 1, { bounded := false }, { codState with dev := { codState.dev with nc := 60000000000 } }, by decide +kernel⟩,
    ⟨0, 1, { bounded := false, since := 5 }, { codState with cod := { codState.cod with opens := [(1, { bounded := false, since := 5 })] } }, by decide +kernel⟩,
    ⟨1, 2, [], { bounded := false }, { codState with cod := { codState.cod with waiting := [(1, 2)] } }, by decide +kernel⟩⟩

theorem witness_endpointCommandsComplete :
    (∃ (i : Nat) (s : State), s.begun 6 = true ∧ s.ing.dirty.contains i = true ∧ s.ckptWritable = true) ∧
    (∃ (id i : Nat) (x : Ctx) (recordOk : Bool) (s : State), s.ing.jobs.get? id = some (.ctx i x)) ∧
    (∃ (id i : Nat) (c : CmdRef) (x : Ctx) (rest : List EpCmd) (recordOk : Bool) (s : State), s.ing.jobs.get? id = some .ep ∧ s.ing.epq = ⟨c, i, .create x⟩ :: rest ∧ c.queue ≤ 256) ∧
    (∃ (id i : Nat) (c : CmdRef) (rest : List EpCmd) (recordOk : Bool) (s : State), s.ing.jobs.get? id = some .ep ∧ s.ing.epq = ⟨c, i, .delete⟩ :: rest ∧ c.queue ≤ 256) ∧
    (∃ (id i : Nat) (c : CmdRef) (k : EpChange) (rest : List EpCmd) (recordOk : Bool) (s : State), s.ing.jobs.get? id = some .ep ∧ s.ing.epq = ⟨c, i, k⟩ :: rest ∧ c.queue ≤ 256 ∧ (match k with | .create _ => false | .delete => false | _ => true) = true) ∧
    (∃ (id ceil : Nat) (recordOk : Bool) (s : State), s.ing.jobs.get? id = some (.bcast ceil)) ∧
    (∃ (c : CmdRef) (p : EpIn) (x : Ctx) (s : State), (epFlagsOk p.kind p.flags = true ∧ p.feeder ≠ 0xFFFF ∧ p.txNseq ≠ 0 ∧ p.txFcnt ≠ 0 ∧ p.auto = false) ∧ (x = { eui := p.eui, inst := c.inst, kind := p.kind, flags := p.flags + 1, profile := p.profile, topoValid := p.topoValid, topoNode := p.topoNode, feeder := p.feeder, keyset := p.keyset, fcntH := p.fcntH, fcntMap := onesMap, nseqH := p.nseqH, nseqMap := onesMap, txFcnt := p.txFcnt, txNseq := p.txNseq }) ∧ ((s.ing.epq = [] → s.createStatus ⟨c, p.index, .create x⟩ x false = (St.ok, 0)))) ∧
    (∃ (c : CmdRef) (p : EpIn) (i : Nat) (x : Ctx) (s : State), (epFlagsOk p.kind p.flags = true ∧ p.feeder ≠ 0xFFFF ∧ p.txNseq ≠ 0 ∧ p.txFcnt ≠ 0 ∧ p.auto = true) ∧ (x = { eui := p.eui, inst := c.inst, kind := p.kind, flags := p.flags + 1, profile := p.profile, topoValid := p.topoValid, topoNode := p.topoNode, feeder := p.feeder, keyset := p.keyset, fcntH := p.fcntH, fcntMap := onesMap, nseqH := p.nseqH, nseqMap := onesMap, txFcnt := p.txFcnt, txNseq := p.txNseq }) ∧ (s.ing.epq = [] ∧ s.freeIndex = some i ∧ s.createStatus ⟨c, i, .create x⟩ x true = (St.ok, 0))) ∧
    (∃ (c : CmdRef) (i first lines : Nat) (s : State), c.queue ≤ 256 ∧ 1 ≤ lines ∧ first + lines ≤ 16 ∧ s.epStatus c i = St.ok) ∧
    (∃ (c : CmdRef) (i : Nat) (p : EpAttr) (k : EpCmd) (s : State), (s.dataHeld c = false ∧ epFlagsOk p.kind p.flags = true ∧ p.feeder ≠ 0xFFFF) ∧ (k = ⟨c, i, .attr p.kind p.flags p.profile p.topoValid p.topoNode p.feeder⟩ ∧ (s.ing.epq = [] → s.changeStatus k = (St.ok, 0)))) ∧
    (∃ (c : CmdRef) (i handle : Nat) (s : State), s.dataHeld c = false ∧ (s.ing.epq = [] → s.changeStatus ⟨c, i, .keyset handle⟩ = (St.ok, 0))) ∧
    (∃ (c : CmdRef) (i a b d e : Nat) (s : State), s.dataHeld c = false ∧ (s.ing.epq = [] → s.changeStatus ⟨c, i, .rxwin a b d e⟩ = (St.ok, 0))) ∧
    (∃ (c : CmdRef) (i a b : Nat) (s : State), s.dataHeld c = false ∧ (s.ing.epq = [] → s.changeStatus ⟨c, i, .txctr a b⟩ = (St.ok, 0))) ∧
    (∃ (c : CmdRef) (i : Nat) (wins : List (Nat × Nat × Nat)) (k : EpCmd) (s : State), s.dataHeld c = false ∧ k = ⟨c, i, .readwin (wins.map (fun w => { high := w.1, map := w.2.1, lastEts := w.2.2 }))⟩ ∧ (s.ing.epq = [] → s.changeStatus k = (St.ok, 0))) ∧
    (∃ (c : CmdRef) (i : Nat) (s : State), (s.ing.epq = [] → s.changeStatus ⟨c, i, .pathclr⟩ = (St.ok, 0))) ∧
    (∃ (c : CmdRef) (i : Nat) (s : State), (s.ing.epq = [] → s.changeStatus ⟨c, i, .snapclr⟩ = (St.ok, 0))) ∧
    (∃ (c : CmdRef) (i : Nat) (area : Bytes) (s : State), s.dataHeld c = false ∧ (s.ing.epq = [] → s.changeStatus ⟨c, i, .host (fit 128 area)⟩ = (St.ok, 0))) ∧
    (∃ (c : CmdRef) (i : Nat) (s : State), (s.ing.epq = [] → s.changeStatus ⟨c, i, .delete⟩ = (St.ok, 0))) ∧
    (∃ (c : CmdRef) (eui i : Nat) (x : Ctx) (s : State), (c.queue ≤ 256 ∧ s.epOf eui = some (i, x) ∧ (c.queue = 256 ∨ x.inst = c.inst))) ∧
    (∃ (c : CmdRef) (i : Nat) (s : State), c.queue ≤ 256 ∧ s.epStatus c i = St.ok) ∧
    (∃ (c : CmdRef) (i : Nat) (s : State), c.queue ≤ 256) ∧
    (∃ (c : CmdRef) (s : State), c.queue = 256) ∧
    (∃ (c : CmdRef) (s : State), s.ing.backfillRead = some c ∧ c.queue ≤ 256 ∧ s.cmd.cmds.any (fun k => k.queue == c.queue && k.tag == c.tag) = true ∧ s.cmd.results.any (fun r => r.queue == c.queue && r.tag == c.tag) = false) :=
  ⟨⟨0, { driveState with ing := { driveState.ing with dirty := [0] } }, by decide +kernel⟩,
    ⟨5, 0, epCtx, true, { driveState with ing := { driveState.ing with jobs := [(5, .ctx 0 epCtx)] } }, by decide +kernel⟩,
    ⟨5, 9, ⟨256, 7, 0⟩, epNew, [], true, epWaits (.create epNew) 9, by decide +kernel⟩,
    ⟨5, 0, ⟨256, 7, 0⟩, [], true, epWaits .delete 0, by decide +kernel⟩,
    ⟨5, 0, ⟨256, 7, 0⟩, .keyset 4, [], true, epWaits (.keyset 4) 0, by decide +kernel⟩,
    ⟨5, 131072, true, { driveState with ing := { driveState.ing with jobs := [(5, .bcast 131072)] } }, by decide +kernel⟩,
    ⟨⟨256, 7, 0⟩, epIn, epNew, driveState, by decide +kernel⟩,
    ⟨⟨256, 7, 0⟩, { epIn with auto := true }, 1, epNew, driveState, by decide +kernel⟩,
    ⟨⟨256, 7, 0⟩, 0, 15, 1, driveState, by decide +kernel⟩,
    ⟨⟨256, 7, 0⟩, 0, ⟨1, 0, 0, false, 0, 0⟩, ⟨⟨256, 7, 0⟩, 0, .attr 1 0 0 false 0 0⟩, driveState, by decide +kernel⟩,
    ⟨⟨256, 7, 0⟩, 0, 4, driveState, by decide +kernel⟩,
    ⟨⟨256, 7, 0⟩, 0, 1, 2, 3, 4, driveState, by decide +kernel⟩,
    ⟨⟨256, 7, 0⟩, 0, 100, 200, driveState, by decide +kernel⟩,
    ⟨⟨256, 7, 0⟩, 0, [(1, 2, 3)], ⟨⟨256, 7, 0⟩, 0, .readwin [{ high := 1, map := 2, lastEts := 3 }]⟩, driveState, by decide +kernel⟩,
    ⟨⟨256, 7, 0⟩, 0, driveState, by decide +kernel⟩,
    ⟨⟨256, 7, 0⟩, 0, driveState, by decide +kernel⟩,
    ⟨⟨256, 7, 0⟩, 0, [1], driveState, by decide +kernel⟩,
    ⟨⟨256, 7, 0⟩, 0, driveState, by decide +kernel⟩,
    ⟨⟨256, 7, 0⟩, 0x1122, 0, epCtx, driveState, by decide +kernel⟩,
    ⟨⟨256, 7, 0⟩, 0, driveState, by decide +kernel⟩,
    ⟨⟨256, 7, 0⟩, 0, driveState, by decide +kernel⟩,
    ⟨⟨256, 7, 0⟩, driveState, by decide +kernel⟩,
    ⟨⟨256, 7, 0⟩, { driveState with cmd := { driveState.cmd with cmds := [nopCmd] }, ing := { driveState.ing with backfillRead := some ⟨256, 7, 0⟩, backfill := [3] } }, by decide +kernel⟩⟩

theorem witness_archiveEventCommandsComplete :
    (∃ (redo : Option Nat) (b : Block) (rest : List (Option Nat × Block)) (ns aen : Nat) (e : Extent) (s : State), (s.takeOrder = (redo, b) :: rest ∧ ns = redo.getD (s.bindNs b.inst b.cls) ∧ s.arcUp = true ∧ s.nsOutstanding ns < 64 ∧ s.outstanding < 4096) ∧ (s.arc.hold.any (fun h => h.1 == ns) = false) ∧ (s.openOf ns = some (aen, e) ∧ s.arc.map.get? aen = some e)) ∧
    (∃ (aen pos slot : Nat) (s : State), s.arc.writes.any (fun w => w.aen == aen && w.pos == pos && w.slots.contains slot && decide (w.slots.erase slot ≠ [])) = true) ∧
    (∃ (aen slot : Nat) (e : Extent) (b : Block) (s : State), (s.arc.writes.filter (fun w => w.aen == aen && w.pos == e.info.fill) = [⟨aen, e.info.fill, [slot]⟩] ∧ s.arc.map.get? aen = some e) ∧ (e.info.state = 1 ∧ e.info.fill + 1 < 1024 ∧ e.closing = false ∧ e.blocks[e.info.fill]? = some b) ∧ ((e.blocks.length = e.info.fill + 1 ∨ s.arc.writes.any (fun w => w.aen == aen && w.pos == e.info.fill + 1 && !w.slots.isEmpty) = true))) ∧
    (∃ (aen slot : Nat) (media : Bool) (e : Extent) (s : State), s.arc.writes.any (fun w => w.aen == aen && w.pos == 1024 && w.slots.contains slot) = true ∧ s.arc.map.get? aen = some e) ∧
    (∃ (aen pos slot : Nat) (media : Bool) (e : Extent) (s : State), s.arc.writes.any (fun w => w.aen == aen && w.pos == pos && w.slots.contains slot) = true ∧ s.arc.map.get? aen = some e ∧ e.info.state = 1 ∧ pos ≠ 1024) ∧
    (∃ (w : Nat) (d : Option (CmdRef × Nat)) (l : List JEntry) (s : State), s.arc.page = l ++ [⟨.ceil w, d⟩]) ∧
    (∃ (w r0 : Nat) (k : NsCfg) (c : CmdRef) (l : List JEntry) (s : State), s.arc.page = l ++ [⟨.ns w (some k), some (c, r0)⟩] ∧ c.queue ≤ 256) ∧
    (∃ (page : Nat) (s : State), (s.arc.imgDirty.has page = true → s.imageReady page = true)) ∧
    (∃ (slot phys : Nat) (d : Dealloc) (x : Drive) (s : State), s.arc.deallocs.find? (fun d => d.slot == slot && d.phys == phys) = some d ∧ s.drive slot = some x ∧ x.stage ≠ 7) ∧
    (∃ (slot phys : Nat) (d : Dealloc) (x : Drive) (s : State), (s.arc.deallocs.find? (fun d => d.slot == slot && d.phys == phys) = some d ∧ s.drive slot = some x ∧ x.stage = 7) ∧ (s.extsOn slot = [] ∧ s.arc.journal.contains slot = false ∧ (s.arc.deallocs.erase d).any (fun y => y.slot == slot) = false)) ∧
    (∃ (slot : Nat) (h : HealthIn) (s : State), (s.drive slot).isSome = true) ∧
    (∃ (slot : Nat) (h : HealthIn) (s : State), (s.drive slot).any (fun d => d.stage != 6) = true ∧ h.cfs = true) ∧
    (∃ (slot : Nat) (d : Drive) (s : State), s.drive slot = some d ∧ d.timeoutAt.all (fun w => decide (w + 60 < s.nowSec)) = true) ∧
    (∃ (slot w : Nat) (d : Drive) (s : State), s.drive slot = some d ∧ d.timeoutAt = some w ∧ s.nowSec ≤ w + 60) ∧
    (∃ (slot : Nat) (s : State), (s.drive slot).isSome = true) ∧
    (∃ (verified : Bool) (s : State), s.arcUp = true ∧ (s.arc.journal.filter (fun k => (s.drive k).any (·.writable))).length = 2) ∧
    (∃ (slot gib : Nat) (verified : Bool) (good : List Nat) (s : State), (s.arcUp = true ∧ good = s.arc.journal.filter (fun k => (s.drive k).any (·.writable)) ∧ good.length ≠ 2 ∧ gib = s.moveGib good) ∧ (mostFree (s.arc.drives.filter (fun e => e.2.writable && !good.contains e.1 && decide (gib * extPerGib ≤ e.2.free))) = some slot)) ∧
    (∃ (aen slot : Nat) (verified : Bool) (others : List Nat) (e : Extent) (s : State), (s.arcUp = true ∧ s.journalWait = false ∧ s.nextCopy = some (aen, e) ∧ s.arc.map.get? aen = some e ∧ (e.info.state = 3 → verified = true)) ∧ (others = ((e.info.group.bind (fun b => s.arc.groups.find? (fun g => g.base == b))).map (fun g => s.groupSlots g.base g.width)).getD []) ∧ (s.pickDrive (e.info.locs.map (·.1) ++ others) true = some slot)) ∧
    (∃ (queue tg aen pos sk : Nat) (other : Bool) (j k m : ArcJob) (e : Extent) (b : Block) (u v s : State), ((s.arc.jobs.take 4).find? (fun j => j.asked && j.cmd.queue == queue && j.cmd.tag == tg) = some j ∧ s.jobNext j = (some (aen, e, pos, b), sk)) ∧ ((s.arc.jobs.filter (fun x => x.cmd == j.cmd)).length = 1 ∧ u = s.modExt aen (fun e => { e with lost := e.lost.erase pos })) ∧ (State.jobTake j e pos b = (k, false) ∧ State.putDescs (u.descsDue k) k u = ((m, false), v) ∧ (v.jobNext m).1.isSome = true ∧ v.jobMay m = true)) ∧
    (∃ (queue tg aen pos sk : Nat) (full other : Bool) (j k m : ArcJob) (e : Extent) (b : Block) (u v s : State), ((s.arc.jobs.take 4).find? (fun j => j.asked && j.cmd.queue == queue && j.cmd.tag == tg) = some j ∧ s.jobNext j = (some (aen, e, pos, b), sk)) ∧ (queue ≤ 256 ∧ u = s.modExt aen (fun e => { e with lost := e.lost.erase pos }) ∧ State.jobTake j e pos b = (k, full)) ∧ ((full = true ∧ m = k ∨ full = false ∧ ∃ stop, State.putDescs (u.descsDue k) k u = ((m, stop), v) ∧ (stop = true ∨ (v.jobNext m).1 = none)))) ∧
    (∃ (queue tg aen pos sk : Nat) (j : ArcJob) (e : Extent) (b : Block) (s : State), ((s.arc.jobs.take 4).find? (fun j => j.asked && j.cmd.queue == queue && j.cmd.tag == tg) = some j ∧ s.jobNext j = (some (aen, e, pos, b), sk)) ∧ (s.arc.map.get? aen = some e)) ∧
    (∃ (aen pos : Nat) (digestOk : Bool) (e : Extent) (s : State), s.arc.map.get? aen = some e ∧ s.regBit Reg.ARC_CTRL 1 = true ∧ e.info.state = 3 ∧ pos < e.info.fill ∧ pos < e.blocks.length) ∧
    (∃ (ns : Nat) (b : Block) (rest : List (Nat × Block)) (aen : Nat) (e : Extent) (s : State), (s.arc.hold = (ns, b) :: rest ∧ s.arcUp = true ∧ 2 ≤ s.takers.length ∧ s.nsOutstanding ns < 64 ∧ s.outstanding < 4096) ∧ (s.openOf ns = some (aen, e) ∧ s.arc.map.get? aen = some e)) :=
  ⟨⟨none, oneBlock, [], 0, 64, openExt, { arcState with cod := { arcState.cod with held := [oneBlock] } }, by decide +kernel⟩,
    ⟨64, 0, 1, arcWrites [0, 1], by decide +kernel⟩,
    ⟨64, 1, { openExt with blocks := [oneBlock] }, oneBlock, arcWrites [1], by decide +kernel⟩,
    ⟨64, 1, false, openExt, { arcState with arc := { arcState.arc with writes := [⟨64, 1024, [1]⟩] } }, by decide +kernel⟩,
    ⟨64, 0, 1, true, { openExt with blocks := [oneBlock] }, arcWrites [0, 1], by decide +kernel⟩,
    ⟨1000, none, [⟨.horizon 3, none⟩], { arcState with arc := { arcState.arc with page := [⟨.horizon 3, none⟩, ⟨.ceil 1000, none⟩] } }, by decide +kernel⟩,
    ⟨5, 5, nsKept, ⟨256, 7, 0⟩, [], { arcState with arc := { arcState.arc with page := [⟨.ns 5 (some nsKept), some (⟨256, 7, 0⟩, 5)⟩] } }, by decide +kernel⟩,
    ⟨0, arcState, by decide +kernel⟩,
    ⟨0, 3, ⟨0, 3, some 70⟩, { disc := 0, serial := 0, usable := 4096, used := [0, 3] }, { arcState with arc := { arcState.arc with deallocs := [⟨0, 3, some 70⟩] } }, by decide +kernel⟩,
    ⟨3, 3, ⟨3, 3, some 70⟩, { disc := 3, serial := 3, usable := 4096, used := [3], stage := 7, cmds := [⟨256, 7, 0⟩] }, { arcState with arc := { arcState.arc with deallocs := [⟨3, 3, some 70⟩], drives := arcState.arc.drives.put 3 { disc := 3, serial := 3, usable := 4096, used := [3], stage := 7, cmds := [⟨256, 7, 0⟩] } } }, by decide +kernel⟩,
    ⟨1, ⟨3, 10, 4, 90, 10, 0, false⟩, arcState, by decide +kernel⟩,
    ⟨1, ⟨3, 10, 4, 90, 10, 0, true⟩, arcState, by decide +kernel⟩,
    ⟨0, { disc := 0, serial := 0, usable := 4096, used := [0, 3] }, arcState, by decide +kernel⟩,
    ⟨2, 0, { disc := 2, timeoutAt := some 0 }, { arcState with arc := { arcState.arc with drives := [(2, { disc := 2, timeoutAt := some 0 })] } }, by decide +kernel⟩,
    ⟨1, arcState, by decide +kernel⟩,
    ⟨true, { arcState with arc := { arcState.arc with journalSingle := true } }, by decide +kernel⟩,
    ⟨1, 4, true, [0], { arcState with arc := { arcState.arc with journal := [0, 9], journalSingle := true } }, by decide +kernel⟩,
    ⟨64, 1, true, [], { openExt with info := { openExt.info with loc1 := none, fill := 1 }, blocks := [oneBlock] }, arcWith { openExt with info := { openExt.info with loc1 := none, fill := 1 }, blocks := [oneBlock] }, by decide +kernel⟩,
    ⟨256, 7, 64, 0, 0, true, askedJob, (State.jobTake askedJob twoBlocks 0 oneBlock).1, (jobAfter twoBlocks twoState).1.1, twoBlocks, oneBlock, twoState.modExt 64 (fun e => { e with lost := e.lost.erase 0 }), (jobAfter twoBlocks twoState).2, twoState, by decide +kernel⟩,
    ⟨256, 7, 64, 0, 0, false, true, askedJob, (State.jobTake askedJob { openExt with blocks := [oneBlock], info := { openExt.info with fill := 1 } } 0 oneBlock).1, (jobAfter { openExt with blocks := [oneBlock], info := { openExt.info with fill := 1 } } (queryState [askedJob])).1.1, { openExt with blocks := [oneBlock], info := { openExt.info with fill := 1 } }, oneBlock, (queryState [askedJob]).modExt 64 (fun e => { e with lost := e.lost.erase 0 }), (jobAfter { openExt with blocks := [oneBlock], info := { openExt.info with fill := 1 } } (queryState [askedJob])).2, queryState [askedJob], by decide +kernel, by decide +kernel,
      .inr ⟨rfl, (jobAfter { openExt with blocks := [oneBlock], info := { openExt.info with fill := 1 } } (queryState [askedJob])).1.2, rfl, by decide +kernel⟩⟩,
    ⟨256, 7, 64, 0, 0, askedJob, { openExt with blocks := [oneBlock], info := { openExt.info with fill := 1 } }, oneBlock, queryState [askedJob], by decide +kernel⟩,
    ⟨64, 0, true, sealedExt, (arcWith sealedExt).setReg Reg.ARC_CTRL 2, by decide +kernel⟩,
    ⟨0, oneBlock, [], 64, openExt, { arcState with arc := { arcState.arc with hold := [(0, oneBlock)], holding := true } }, by decide +kernel⟩⟩

theorem witness_archiveHostCommandsComplete :
    (∃ (c : CmdRef) (p : NsIn) (s : State), (State.nsOk p p.protect p.worm = true ∧ p.owner < 16 ∧ s.arcUp = true ∧ s.arc.nss.has p.ns = false) ∧ (s.streamBound p.owner p.classes p.ns = false ∧ s.nsOwned p.owner < (s.inst p.owner).quota.nsMax)) ∧
    (∃ (c : CmdRef) (p : NsIn) (k : NsCfg) (s : State), (1 ≤ p.ns ∧ p.ns ≤ 255 ∧ s.arcUp = true ∧ s.arc.nss.get? p.ns = some k ∧ State.nsOk p k.protect k.worm = true) ∧ ((s.streamBound k.owner p.classes p.ns = false ∧ (k.worm = false ∨ k.retainDays ≤ p.retainDays)))) ∧
    (∃ (c : CmdRef) (ns : Nat) (k : NsCfg) (s : State), 1 ≤ ns ∧ ns ≤ 255 ∧ s.arcUp = true ∧ s.arc.nss.get? ns = some k ∧ s.nsExtents ns = []) ∧
    (∃ (c : CmdRef) (ns : Nat) (k : NsCfg) (s : State), (c.queue ≤ 256 ∧ 1 ≤ ns ∧ ns ≤ 255 ∧ s.arcUp = true ∧ s.arc.nss.get? ns = some k ∧ s.nsExtents ns ≠ [] ∧ (∀ d ∈ s.arc.dels, d.aens ≠ [])) ∧ ((k.worm = true → ∀ e ∈ s.nsExtents ns, s.retained e.2 = false))) ∧
    (∃ (c : CmdRef) (ns : Nat) (k : NsCfg) (s : State), (c.queue ≤ 256 ∧ 1 ≤ ns ∧ ns ≤ 255 ∧ s.arcUp = true ∧ s.arc.nss.get? ns = some k ∧ (∀ d ∈ s.arc.dels, d.aens ≠ [])) ∧ ((s.nsExtents ns).any (fun e => e.2.info.state == 3 && s.pastRetention e.2) = true ∧ s.journalWait = false)) ∧
    (∃ (c : CmdRef) (ns : Nat) (k : NsCfg) (s : State), (c.queue ≤ 256 ∧ 1 ≤ ns ∧ ns ≤ 255 ∧ s.arcUp = true ∧ s.arc.nss.get? ns = some k ∧ (∀ d ∈ s.arc.dels, d.aens ≠ [])) ∧ ((s.nsExtents ns).any (fun e => e.2.info.state == 3 && s.pastRetention e.2) = false)) ∧
    (∃ (c : CmdRef) (p : QueryIn) (s : State), (c.queue ≤ 256 ∧ 128 ≤ p.bufLen ∧ s.arcUp = true ∧ s.arc.nss.has p.ns = true ∧ s.nsMine c p.ns = true ∧ 4 ≤ s.arc.jobs.length ∧ s.arc.jobs.length < 68) ∧ ((s.arc.jobs.take 4).all (·.asked) = true)) ∧
    (∃ (c : CmdRef) (p : QueryIn) (j : ArcJob) (s : State), (c.queue ≤ 256 ∧ 128 ≤ p.bufLen ∧ s.arcUp = true ∧ s.arc.nss.has p.ns = true ∧ s.nsMine c p.ns = true ∧ s.arc.jobs.length < 4 ∧ s.arc.jobs.all (·.asked) = true) ∧ (j = { cmd := c, query := some p, seq := p.cursor % 2 ^ 32, pos := field p.cursor 47 32, rcd := field p.cursor 63 48 } ∧ (s.jobNext j).1.isSome = true ∧ s.jobMay j = true)) ∧
    (∃ (c : CmdRef) (p : QueryIn) (j : ArcJob) (s : State), (c.queue ≤ 256 ∧ 128 ≤ p.bufLen ∧ s.arcUp = true ∧ s.arc.nss.has p.ns = true ∧ s.nsMine c p.ns = true ∧ s.arc.jobs.length < 4 ∧ s.arc.jobs.all (·.asked) = true) ∧ (j = { cmd := c, query := some p, seq := p.cursor % 2 ^ 32, pos := field p.cursor 47 32, rcd := field p.cursor 63 48 } ∧ (s.jobNext j).1 = none)) ∧
    (∃ (c : CmdRef) (p : ExportIn) (j m : ArcJob) (v s : State), (c.queue ≤ 256 ∧ 128 ≤ p.bufLen ∧ s.arcUp = true ∧ s.arc.nss.has p.ns = true ∧ s.nsMine c p.ns = true ∧ s.arc.jobs.length < 4 ∧ s.arc.jobs.all (·.asked) = true) ∧ (j = { cmd := c, exporting := some p, seq := p.first, pos := p.cursor } ∧ s.jobMay j = true) ∧ (State.putDescs (s.descsDue j) j s = ((m, false), v) ∧ (v.jobNext m).1.isSome = true ∧ v.jobMay m = true)) ∧
    (∃ (c : CmdRef) (disc slot : Nat) (d : CtrlIn) (s : State), (c.queue ≤ 256 ∧ s.ctrl disc = some d ∧ State.driveFit d = true ∧ s.arcUp = true) ∧ (s.arc.drives.any (fun e => e.2.stage != 5 && (e.1 == slot || e.2.disc == disc)) = false)) ∧
    (∃ (c : CmdRef) (disc slot disc2 : Nat) (d1 d2 : CtrlIn) (s : State), c.queue ≤ 256 ∧ (s.arc.phase = .noSet ∨ s.arc.phase = .failed) ∧ s.ctrl disc = some d1 ∧ s.ctrl disc2 = some d2 ∧ disc ≠ disc2 ∧ State.driveFit d1 = true ∧ State.driveFit d2 = true) ∧
    (∃ (c : CmdRef) (slot : Nat) (d : Drive) (u s : State), (c.queue ≤ 256 ∧ s.drive slot = some d ∧ s.arcUp = true ∧ d.stage ≠ 5 ∧ d.stage ≠ 6) ∧ (u = (s.replyQueued c).setStage slot 7 ∧ (s.arc.journal.contains slot = true ∨ u.extsOn slot ≠ [] ∨ u.arc.deallocs.any (fun x => x.slot == slot) = true) ∧ (u.extsOn slot).length ≤ ((u.takers.filter (fun e => e.1 != slot)).map (fun e => e.2.free)).sum)) ∧
    (∃ (c : CmdRef) (slot : Nat) (d : Drive) (s : State), (c.queue ≤ 256 ∧ s.drive slot = some d ∧ s.arcUp = true ∧ d.stage ≠ 5 ∧ d.stage ≠ 6) ∧ (s.arc.journal.contains slot = false ∧ s.extsOn slot = [] ∧ s.arc.deallocs.any (fun x => x.slot == slot) = false)) ∧
    (∃ (c : CmdRef) (slot : Nat) (d : Drive) (s : State), c.queue ≤ 256 ∧ s.drive slot = some d) ∧
    (∃ (c : CmdRef) (ns : Nat) (k : NsCfg) (s : State), c.queue ≤ 256 ∧ s.arc.nss.get? ns = some k ∧ s.nsMine c ns = true) ∧
    (∃ (c : CmdRef) (ns : Nat) (s : State), c.queue = 256) ∧
    (∃ (c : CmdRef) (ns aen : Nat) (k : NsCfg) (e : Extent) (s : State), (s.arcUp = true ∧ s.arc.nss.get? ns = some k ∧ k.worm = true ∧ s.openOf ns = some (aen, e) ∧ s.arc.map.get? aen = some e) ∧ (e.blocks ≠ [] ∧ e.info.fill = e.blocks.length ∧ e.info.ns = ns ∧ s.journalWait = false ∧ s.deleting ns = false)) ∧
    (∃ (c : CmdRef) (ns aen : Nat) (k : NsCfg) (e : Extent) (s : State), (s.arcUp = true ∧ s.arc.nss.get? ns = some k ∧ k.worm = true ∧ s.openOf ns = some (aen, e) ∧ s.arc.map.get? aen = some e ∧ e.blocks ≠ []) ∧ (s.arc.writes.any (fun w => w.aen == aen && w.pos == e.info.fill) = true ∧ e.info.fill < e.blocks.length)) ∧
    (∃ (c : CmdRef) (ns : Nat) (k : NsCfg) (s : State), c.queue ≤ 256 ∧ s.arcUp = true ∧ s.arc.nss.get? ns = some k ∧ k.worm = true ∧ (s.openOf ns).all (fun e => e.2.blocks.isEmpty) = true) :=
  ⟨⟨⟨256, 7, 0⟩, nsIn, nsState [], by decide +kernel⟩,
    ⟨⟨256, 7, 0⟩, { nsIn with retainDays := 9 }, nsKept, nsState [(5, nsKept)], by decide +kernel⟩,
    ⟨⟨256, 7, 0⟩, 5, nsKept, nsState [(5, nsKept)], by decide +kernel⟩,
    ⟨⟨256, 7, 0⟩, 5, { nsKept with worm := false }, { nsState [(5, { nsKept with worm := false })] with arc := { (nsState [(5, { nsKept with worm := false })]).arc with map := [(70, { openExt with info := { openExt.info with ns := 5 } })] } }, by decide +kernel⟩,
    ⟨⟨256, 7, 0⟩, 5, nsKept, { nsState [(5, nsKept)] with tim := { arcState.tim with sec := 1000 }, arc := { (nsState [(5, nsKept)]).arc with map := [(70, sealedExt)] } }, by decide +kernel⟩,
    ⟨⟨256, 7, 0⟩, 5, nsKept, nsState [(5, nsKept)], by decide +kernel⟩,
    ⟨⟨256, 7, 0⟩, queryIn, queryState (List.replicate 4 { queryJob with cmd := ⟨256, 9, 0⟩, asked := true }), by decide +kernel⟩,
    ⟨⟨256, 7, 0⟩, queryIn, queryJob, queryState [], by decide +kernel⟩,
    ⟨⟨256, 7, 0⟩, queryIn, queryJob, arcState, by decide +kernel⟩,
    ⟨⟨256, 7, 0⟩, ⟨0, false, 0, 10, 65536, 0⟩, { cmd := ⟨256, 7, 0⟩, exporting := some ⟨0, false, 0, 10, 65536, 0⟩ }, (State.putDescs ((queryState []).descsDue { cmd := ⟨256, 7, 0⟩, exporting := some ⟨0, false, 0, 10, 65536, 0⟩ }) { cmd := ⟨256, 7, 0⟩, exporting := some ⟨0, false, 0, 10, 65536, 0⟩ } (queryState [])).1.1, (State.putDescs ((queryState []).descsDue { cmd := ⟨256, 7, 0⟩, exporting := some ⟨0, false, 0, 10, 65536, 0⟩ }) { cmd := ⟨256, 7, 0⟩, exporting := some ⟨0, false, 0, 10, 65536, 0⟩ } (queryState [])).2, queryState [], by decide +kernel⟩,
    ⟨⟨256, 7, 0⟩, 5, 9, { disc := 5, serial := 5, lba := 512, metaBytes := 0, zeroed := true, usable := 4096, root := 5, label := none }, { arcState with arc := { arcState.arc with found := ctrls } }, by decide +kernel⟩,
    ⟨⟨256, 7, 0⟩, 0, 0, 1, { disc := 0, serial := 0, lba := 512, metaBytes := 0, zeroed := true, usable := 4096, root := 0, label := none }, { disc := 1, serial := 1, lba := 512, metaBytes := 0, zeroed := true, usable := 4096, root := 1, label := none }, { dayState with arc := { dayState.arc with found := ctrls } }, by decide +kernel⟩,
    ⟨⟨256, 7, 0⟩, 0, { disc := 0, serial := 0, usable := 4096, used := [0, 3] }, (arcState.replyQueued ⟨256, 7, 0⟩).setStage 0 7, arcState, by decide +kernel, rfl, by decide +kernel⟩,
    ⟨⟨256, 7, 0⟩, 3, { disc := 3, serial := 3, usable := 4096, used := [0, 3] }, arcState, by decide +kernel⟩,
    ⟨⟨256, 7, 0⟩, 0, { disc := 0, serial := 0, usable := 4096, used := [0, 3] }, arcState, by decide +kernel⟩,
    ⟨⟨256, 7, 0⟩, 0, { protect := 1 }, arcState, by decide +kernel⟩,
    ⟨⟨256, 7, 0⟩, 0, arcState, by decide +kernel⟩,
    ⟨⟨256, 7, 0⟩, 5, 64, nsKept, { openExt with info := { openExt.info with ns := 5, fill := 1 }, blocks := [oneBlock] }, { arcWith { openExt with info := { openExt.info with ns := 5, fill := 1 }, blocks := [oneBlock] } with arc := { (arcWith { openExt with info := { openExt.info with ns := 5, fill := 1 }, blocks := [oneBlock] }).arc with nss := [(5, nsKept)] } }, by decide +kernel⟩,
    ⟨⟨256, 7, 0⟩, 5, 64, nsKept, { openExt with info := { openExt.info with ns := 5 }, blocks := [oneBlock] }, { arcWith { openExt with info := { openExt.info with ns := 5 }, blocks := [oneBlock] } with arc := { (arcWith { openExt with info := { openExt.info with ns := 5 }, blocks := [oneBlock] }).arc with nss := [(5, nsKept)], writes := [⟨64, 0, [0]⟩] } }, by decide +kernel⟩,
    ⟨⟨256, 7, 0⟩, 5, nsKept, nsState [(5, nsKept)], by decide +kernel⟩⟩

theorem witness_lossCommandsComplete :
    (∃ (r : Rec) (rest : List Rec) (s : State), s.losRuns = true ∧ s.ing.losq = r :: rest) ∧
    (∃ (tree : LosTree) (s : State), s.laneDue = true ∧ s.treeAt s.los.next = some tree) ∧
    (∃ (start imp exp : Nat) (s : State), s.losRuns = true ∧ (s.treeAt start).isSome = true ∧ s.los.next ≤ start ∧ start % s.los.cfg.balS = 0) ∧
    (∃ (start v1 v2 v3 : Nat) (s : State), s.losRuns = true) ∧
    (∃ (c : CmdRef) (nodes crc : Nat) (data : Bytes) (entries : List LosNodeIn) (s : State), c.queue ≤ 256 ∧ s.dataHeld c = false ∧ 1 ≤ nodes ∧ nodes ≤ 65536 ∧ s.los.trees.length < 2 ∧ crc = crc32c (data.take (32 * nodes)) ∧ entries = losNodesOf nodes data ∧ firstInvalid entries = none) ∧
    (∃ (c : CmdRef) (nodes crc k : Nat) (data : Bytes) (s : State), (c.queue ≤ 256 ∧ s.dataHeld c = false ∧ 1 ≤ nodes ∧ nodes ≤ 65536 ∧ s.los.trees.length < 2) ∧ (((crc ≠ crc32c (data.take (32 * nodes)) ∧ k = 0xFFFFFFFF) ∨ (crc = crc32c (data.take (32 * nodes)) ∧ firstInvalid (losNodesOf nodes data) = some k)))) ∧
    (∃ (c : CmdRef) (p : LosCfgIn) (s : State), c.queue ≤ 256 ∧ losCfgOk p = true ∧ p.balS = s.los.cfg.balS ∧ p.graceS = s.los.cfg.graceS) ∧
    (∃ (c : CmdRef) (p : LosCfgIn) (s : State), c.queue ≤ 256 ∧ losCfgOk p = true ∧ (p.balS ≠ s.los.cfg.balS ∨ p.graceS ≠ s.los.cfg.graceS)) ∧
    (∃ (c : CmdRef) (first last start : Nat) (tree : LosTree) (s : State), c.queue ≤ 256 ∧ first ≤ last ∧ last ≤ first + 16383 ∧ s.losTree = some tree ∧ last < tree.length) ∧
    (∃ (c : CmdRef) (first count : Nat) (s : State), c.queue ≤ 256 ∧ 1 ≤ count ∧ count ≤ 16384 ∧ s.losTree.isSome = true) ∧
    (∃ (c : CmdRef) (first last : Nat) (clear : Bool) (tree : LosTree) (s : State), (c.queue ≤ 256 ∧ (clear = false ∨ c.queue = 256) ∧ first ≤ last ∧ last ≤ first + 4095 ∧ s.losTree = some tree ∧ last < tree.length)) :=
  ⟨⟨oneRec, [], { losState with ing := { losState.ing with losq := [oneRec] } }, by decide +kernel⟩,
    ⟨[headNode], losState, by decide +kernel⟩,
    ⟨1800, 100, 20, losState, by decide +kernel⟩,
    ⟨900, 1, 2, 3, losState, by decide +kernel⟩,
    ⟨⟨256, 7, 0⟩, 1, crc32c headBytes, headBytes, [headNode], losState, by decide +kernel⟩,
    ⟨⟨256, 7, 0⟩, 1, 0, 0xFFFFFFFF, headBytes, losState, by decide +kernel⟩,
    ⟨⟨256, 7, 0⟩, losCfgIn, losState, by decide +kernel⟩,
    ⟨⟨256, 7, 0⟩, { losCfgIn with balS := 300 }, losState, by decide +kernel⟩,
    ⟨⟨256, 7, 0⟩, 0, 0, 0, [headNode], losState, by decide +kernel⟩,
    ⟨⟨256, 7, 0⟩, 0, 2, losState, by decide +kernel⟩,
    ⟨⟨256, 7, 0⟩, 0, 0, true, [headNode], losState, by decide +kernel⟩⟩

theorem witness_meterCommandsComplete :
    (∃ (inputs : List Int) (crossings : List (Nat × Nat)) (s : State), s.domOn 53 = true ∧ s.metRuns = true) ∧
    (∃ (inputs : List Int) (crossings : List (Nat × Nat)) (w : Nat) (s : State), s.domOn 53 = true ∧ s.metRuns = true ∧ s.met.pulseHigh = true ∧ s.met.lastPulse = some w ∧ w + 102400 ≤ s.met.cc + 6400) ∧
    (∃ (count sec : Nat) (flag : Bool) (s : State), s.metRuns = true ∧ (s.met.markMissing = false ∨ sec ≠ s.met.lastSec) ∧ s.met.cc + 3200 < count) ∧
    (∃ (count sec : Nat) (flag : Bool) (s : State), s.metRuns = true ∧ (s.met.markMissing = false ∨ sec ≠ s.met.lastSec) ∧ count ≤ s.met.cc + 3200) ∧
    (∃ (count sec : Nat) (flag : Bool) (s : State), s.met.markMissing = true ∧ sec = s.met.lastSec) ∧
    (∃ (s : State), s.metRuns = true ∧ s.met.mark = none ∧ s.met.lastMark + 51200000 ≤ s.met.cc + 3200) ∧
    (∃ (s : State), s.met.cc + 3200 < s.met.lastMark + 51200000) ∧
    (∃ (s : State), s.metRuns = true ∧ s.met.calValid = true ∧ 1 ≤ s.met.pulsesOwed ∧ s.met.lastPulse = none) ∧
    (∃ (w : Nat) (s : State), s.metRuns = true ∧ s.met.calValid = true ∧ 1 ≤ s.met.pulsesOwed ∧ s.met.lastPulse = some w ∧ w + 204800 ≤ s.met.cc) ∧
    (∃ (levels : Nat) (s : State), s.dev.state ≠ .night ∧ (∀ i ∈ List.range 4, s.tampEnabled i = false)) ∧
    (∃ (levels : Nat) (s : State), ((s.dev.state ≠ .night ∧ s.tampEnabled 3 = true ∧ (∀ i ∈ List.range 3, s.tampEnabled i = false))) ∧ ((s.met.tampers.getD 3 {}).run = 0 ∧ (s.met.tampers.getD 3 {}).active = false ∧ (bitAt levels 3 == bitAt (calTamper s.cal 3) 2) = true)) ∧
    (∃ (levels : Nat) (s : State), ((s.dev.state = .night ∧ s.tampEnabled 3 = true ∧ (∀ i ∈ List.range 3, s.tampEnabled i = false) ∧ s.aon.nightRecs.length < 16)) ∧ ((s.met.tampers.getD 3 {}).run ≠ 0 ∧ (s.met.tampers.getD 3 {}).active = false ∧ (bitAt levels 3 == bitAt (calTamper s.cal 3) 2) = true)) ∧
    (∃ (c : CmdRef) (set : Bytes) (s : State), (c.queue ≤ 256 ∧ s.dataHeld c = false ∧ s.met.store = none ∧ s.metBlocked = false ∧ s.met.sealState ≠ 1 ∧ s.sealRoom = true) ∧ (leAt set 0 4 = calMagic ∧ leAt set 252 4 = crc32c (set.take 252) ∧ calRanges set = true)) ∧
    (∃ (c : CmdRef) (s : State), c.queue ≤ 256 ∧ s.met.store = none ∧ s.metBlocked = false ∧ s.met.sealState ≠ 1 ∧ s.met.calValid = true ∧ s.sealRoom = true) ∧
    (∃ (c : CmdRef) (auth : AuthIn) (s : State), c.queue ≤ 256 ∧ s.dataHeld c = false ∧ s.met.store = none ∧ s.metBlocked = false ∧ s.met.sealState = 1 ∧ s.sealRoom = true ∧ s.authPasses auth 3 s.met.sealCount = true) ∧
    (∃ (c : CmdRef) (set channel : Nat) (s : State), c.queue ≤ 256 ∧ set ≤ 2) ∧
    (∃ (c : CmdRef) (nonce len : Nat) (s : State), c.queue ≤ 256 ∧ 3600 ≤ len ∧ s.rootsOpen = true) ∧
    (∃ (c : CmdRef) (first count : Nat) (s : State), c.queue ≤ 256 ∧ 1 ≤ count ∧ count ≤ 4096) ∧
    (∃ (c : CmdRef) (vpwr ipwr zcVmin : Nat) (s : State), c.queue ≤ 256 ∧ s.met.store = none ∧ 5 ≤ zcVmin ∧ zcVmin ≤ 90 ∧ s.metBlocked = false ∧ (vpwr ≠ s.met.vpwr ∨ ipwr ≠ s.met.ipwr → s.auditLocked = false)) ∧
    (∃ (c : CmdRef) (vpwr ipwr zcVmin : Nat) (s : State), c.queue ≤ 256 ∧ s.met.store = none ∧ 5 ≤ zcVmin ∧ zcVmin ≤ 90 ∧ s.metBlocked = false ∧ (vpwr ≠ s.met.vpwr ∨ ipwr ≠ s.met.ipwr → s.auditLocked = false) ∧ s.termClear = true) :=
  ⟨⟨[1, 2, 3, 4, 5, 6, 7, 8], [(0, 400)], metState 1, by decide +kernel⟩,
    ⟨[1, 2, 3, 4, 5, 6, 7, 8], [], 0, { metState 1 with met := { (metState 1).met with pulseHigh := true, lastPulse := some 0, cc := 96000 } }, by decide +kernel⟩,
    ⟨51200000, 1, true, metState 1, by decide +kernel⟩,
    ⟨3200, 1, true, metState 1, by decide +kernel⟩,
    ⟨51200000, 0, true, { metState 1 with met := { (metState 1).met with markMissing := true } }, by decide +kernel⟩,
    ⟨{ metState 1 with met := { (metState 1).met with cc := 51196800 } }, by decide +kernel⟩,
    ⟨metState 1, by decide +kernel⟩,
    ⟨{ metState 1 with met := { (metState 1).met with pulsesOwed := 2 } }, by decide +kernel⟩,
    ⟨5, { metState 1 with met := { (metState 1).met with pulsesOwed := 2, lastPulse := some 5, cc := 204805 } }, by decide +kernel⟩,
    ⟨15, { metState 1 with met := { (metState 1).met with copies := [calStored calIn 1, []] } }, by decide +kernel⟩,
    ⟨0, { metState 1 with met := { (metState 1).met with copies := [(calStored calIn 1).set 131 1, []] } }, by decide +kernel⟩,
    ⟨0, { metState 1 with dev := { (metState 1).dev with state := .night }, met := { (metState 1).met with copies := [(calStored calIn 1).set 131 1, []], tampers := [(3, { run := 1 })] } }, by decide +kernel⟩,
    ⟨⟨256, 7, 0⟩, calIn, metState 0, by decide +kernel⟩,
    ⟨⟨256, 7, 0⟩, metState 0, by decide +kernel⟩,
    ⟨⟨256, 7, 0⟩, authIn 3 0, metState 1, by decide +kernel⟩,
    ⟨⟨256, 7, 0⟩, 0, 0, metState 1, by decide +kernel⟩,
    ⟨⟨256, 7, 0⟩, 5, 3600, metState 1, by decide +kernel⟩,
    ⟨⟨256, 7, 0⟩, 0, 4096, metState 1, by decide +kernel⟩,
    ⟨⟨256, 7, 0⟩, 15, 15, 90, metState 1, by decide +kernel⟩,
    ⟨⟨256, 7, 0⟩, 15, 15, 20, { metState 1 with met := { (metState 1).met with termSuspect := true, termQuiet := 480000 } }, by decide +kernel⟩⟩

theorem witness_billingEventCommandsComplete :
    (∃ (r : Rec) (rest : List Rec) (s : State), (s.ing.bilq = r :: rest ∧ s.bilTaking = true ∧ s.recDurable r = true ∧ r.typ ≠ 0x48) ∧ ((s.ledgerOf r.endpoint).bound = true ∧ s.bil.fenced.contains r.endpoint = false) ∧ ((r.cls = 0 ∧ s.bilHeld r.endpoint = true → (s.bil.queue.filter (fun x => x.cls == 0 && x.endpoint == r.endpoint)).length < 8))) ∧
    (∃ (r : Rec) (b b' : BilSet) (u v : State) (rate : Nat) (late stale : Bool) (s : State), (s.bilLive = true ∧ s.takePending (fun r => r.cls == 0) = some (r, u) ∧ u.bilSet r.endpoint = some b ∧ (u.seamSend .noon 6 b.bytes).mtagOk r = (true, v)) ∧ (v.applySteps r b = .inl (b', rate, late, stale))) ∧
    (∃ (r : Rec) (u : State) (s : State), s.bilLive = true ∧ s.takePending (fun r => r.cls == 0) = some (r, u)) ∧
    (∃ (r : Rec) (a u v w : State) (k : Nat) (s : State), (s.rootsOpen = true ∧ s.begun 7 = true ∧ a = s.finishAccept ∧ a.takePending (fun r => r.cls == 2) = some (r, u) ∧ u.mtagOk r = (true, v) ∧ r.typ < 0x52) ∧ (k = word64 r.values 0 + word64 r.values 1 * 2 ^ 64 ∧ v.tokenOutcome r.endpoint k = (0, w))) ∧
    (∃ (seq endpoint lastId window : Nat) (s : State), s.kvt.pairKey.isSome = true) ∧
    (∃ (seq endpoint lastId window : Nat) (tagOk : Bool) (s : State), tagOk = false ∨ s.kvt.pairKey = none) ∧
    (∃ (endpoint : Nat) (r : Replay) (s : State), (s.bilLive = true ∧ s.bil.replays.find? (fun r => r.endpoint == endpoint) = some r ∧ r.behind = false) ∧ ((s.archived endpoint (s.bilWho endpoint).2.2 r.start)[r.read]? = none)) ∧
    (∃ (endpoint : Nat) (r : Replay) (b : BilSet) (s : State), (s.bilLive = true ∧ s.bil.replays.find? (fun r => r.endpoint == endpoint) = some r ∧ r.behind = true) ∧ ((s.archived endpoint (s.bilWho endpoint).2.2 r.start)[r.read]? = none) ∧ (s.bilSet endpoint = some b ∧ b.sseq ≠ (s.ledgerOf endpoint).anchor)) ∧
    (∃ (endpoint : Nat) (r : Replay) (x : Rec) (s : State), (s.bilLive = true ∧ s.bil.replays.find? (fun r => r.endpoint == endpoint) = some r ∧ r.behind = false) ∧ ((s.archived endpoint (s.bilWho endpoint).2.2 r.start)[r.read]? = some x)) ∧
    (∃ (k : Nat) (x : Campaign) (s : State), s.bil.campaigns.get? k = some x ∧ x.paused = true ∧ s.bilLive = true ∧ s.bilOwns = true ∧ s.campWindow x = true) ∧
    (∃ (k : Nat) (x : Campaign) (s : State), s.bil.campaigns.get? k = some x ∧ x.paused = false ∧ s.campWindow x = false) ∧
    (∃ (k : Nat) (x : Campaign) (s : State), s.bil.campaigns.get? k = some x ∧ x.deadline ≤ s.rtcNow ∧ x.cmd.queue ≤ 256) :=
  ⟨⟨recOf (durBytes), [], durState, by decide +kernel⟩,
    ⟨bilRec, bilOne, (((bilState.seamSend .noon 6 bilOne.bytes).applySteps bilRec bilOne).getLeft?.getD ({}, 0, false, false)).1, bilState, bilState.seamSend .noon 6 bilOne.bytes, 3, false, false, bilQueued [bilRec], by decide +kernel⟩,
    ⟨bilRec, bilState, bilQueued [bilRec], by decide +kernel⟩,
    ⟨tokenRec, bilQueued [tokenRec], bilState, bilState, (bilState.tokenOutcome 0 goodToken).2, goodToken, bilQueued [tokenRec], by decide +kernel⟩,
    ⟨5, 0, 200, 3, { bilState with kvt := { bilState.kvt with pairKey := some (zeros 32) } }, by decide +kernel⟩,
    ⟨5, 0, 200, 3, false, bilState, by decide +kernel⟩,
    ⟨0, { endpoint := 0, start := 0, behind := false, job := none }, { bilState with bil := { bilState.bil with replays := [{ endpoint := 0, start := 0, behind := false, job := none }], ledger := [(0, { bound := true, held := true, anchor := 6 })] } }, by decide +kernel⟩,
    ⟨0, { endpoint := 0, start := 0, behind := true, job := none }, bilOne, { bilState with bil := { bilState.bil with replays := [{ endpoint := 0, start := 0, behind := true, job := none }], ledger := [(0, { bound := true, anchor := 9 })] } }, by decide +kernel⟩,
    ⟨0, { endpoint := 0, start := 0, behind := false, job := none }, recOf durBytes, { durState with bil := { durState.bil with replays := [{ endpoint := 0, start := 0, behind := false, job := none }] } }, by decide +kernel⟩,
    ⟨1, campOne, campState campOne 0, by decide +kernel⟩,
    ⟨1, { campOne with paused := false }, campState { campOne with paused := false } 43200, by decide +kernel⟩,
    ⟨1, campOne, campState campOne 3000000, by decide +kernel⟩⟩

theorem witness_billingHostCommandsComplete :
    (∃ (c : CmdRef) (slot crc : Nat) (image : Bytes) (s : State), (c.queue ≤ 256 ∧ s.dataHeld c = false ∧ s.bil.loading = none ∧ slot < 16 ∧ byteAt image 6 % 16 = slot ∧ crc = leAt image 4092 4 ∧ crc = crc32c (image.take 4092) ∧ calOk image = true) ∧ ((s.calCopies slot).any (fun x => decide (calVer image ≤ calVer x)) = false ∧ (s.calCopies slot).any (fun x => decide (s.rtcStamp < calActive x)) = false)) ∧
    (∃ (c : CmdRef) (first count : Nat) (s : State), c.queue ≤ 256 ∧ 1 ≤ count ∧ count ≤ 4096 ∧ first + count ≤ 2 ^ 21 ∧ ((List.range count).map (· + first)).any (s.bilForeign c) = false) ∧
    (∃ (c : CmdRef) (first count nonce : Nat) (s : State), c.queue ≤ 256 ∧ 1 ≤ count ∧ count ≤ 16 ∧ first + count ≤ 2 ^ 21 ∧ ((List.range count).map (· + first)).any (s.bilForeign c) = false) ∧
    (∃ (c : CmdRef) (endpoint tok : Nat) (a u s : State), (c.queue ≤ 256 ∧ s.bilForeign c endpoint = false ∧ (s.ledgerOf endpoint).bound = true ∧ a = (s.replyQueued c).finishAccept) ∧ (a.tokenOutcome endpoint (tok % 2 ^ 66) = (0, u))) ∧
    (∃ (c : CmdRef) (p : CampaignIn) (image : Bytes) (s : State), (c.queue ≤ 256 ∧ s.dataHeld c = false ∧ p.group % 2 = 1 ∧ 1 ≤ p.repeats ∧ p.repeats ≤ 4 ∧ 1 ≤ p.deadlineH ∧ p.deadlineH ≤ 8760 ∧ p.number < 4 ∧ p.calId < 16 ∧ p.media < 8) ∧ ((p.endpoints ≠ [] ∧ p.endpoints.length ≤ 262144 ∧ (∀ i ∈ p.endpoints, i < 2 ^ 21) ∧ 0x80 ≤ p.keyref ∧ p.endpoints.any (s.bilForeign c) = false)) ∧ (s.bil.campaigns.has p.number = false ∧ s.calTop p.calId = some image ∧ s.kvt.blobs.has ((placeOf 0 c.inst p.keyref).getD 0) = true)) ∧
    (∃ (c : CmdRef) (p : BindIn) (s : State), c.queue ≤ 256 ∧ s.bindStatus c p = St.ok) ∧
    (∃ (c : CmdRef) (data : Bytes) (s : State), (c.queue ≤ 256 ∧ s.dataHeld c = false ∧ s.bilForeign c (bilSetOf data).endpoint = false ∧ s.rootsOpen = true ∧ (bilSetOf (fit 320 data)).endpoint = (bilSetOf data).endpoint) ∧ ((s.ledgerOf (bilSetOf (fit 320 data)).endpoint).bound = true ∧ (bilSetOf (fit 320 data)).head = (fit 320 data).take 304 ∧ s.islandMac (bilSetOf (fit 320 data)) = (bilSetOf (fit 320 data)).mac) ∧ (s.bil.replays.any (fun r => r.endpoint == (bilSetOf (fit 320 data)).endpoint || r.job == some s.bil.nextRestore) = false ∧ (bilSetOf (fit 320 data)).sseq = (s.ledgerOf (bilSetOf (fit 320 data)).endpoint).anchor ∧ (s.ledgerOf (bilSetOf (fit 320 data)).endpoint).replay = false)) ∧
    (∃ (c : CmdRef) (sets : List Bytes) (s : State), c.queue ≤ 256 ∧ s.dataHeld c = false ∧ sets ≠ [] ∧ sets.length ≤ 4096 ∧ sets.any (fun d => s.bilForeign c (bilSetOf d).endpoint) = false ∧ s.rootsOpen = true) ∧
    (∃ (c : CmdRef) (endpoint : Nat) (s : State), c.queue ≤ 256 ∧ s.bilForeign c endpoint = false ∧ (s.ledgerOf endpoint).bound = true) ∧
    (∃ (c : CmdRef) (endpoint : Nat) (auth : AuthIn) (b : BilSet) (s : State), (c.queue ≤ 256 ∧ s.dataHeld c = false ∧ s.bilForeign c endpoint = false ∧ (s.ledgerOf endpoint).bound = true ∧ s.bilSet endpoint = some b ∧ b.sseq < (s.ledgerOf endpoint).anchor) ∧ (s.bil.replays.any (fun r => r.endpoint == endpoint) = false ∧ s.authPasses auth 4 (endpoint + b.sseq * 2 ^ 32) = true)) ∧
    (∃ (c : CmdRef) (first count : Nat) (s : State), c.queue ≤ 256 ∧ 1 ≤ count ∧ count ≤ 4096 ∧ first + count ≤ 2 ^ 21 ∧ ((List.range count).map (· + first)).any (s.bilForeign c) = false) ∧
    (∃ (c : CmdRef) (k : Nat) (s : State), c.queue ≤ 256 ∧ s.bil.campaigns.has k = true) :=
  ⟨⟨⟨256, 7, 0⟩, 2, crc32c (calendar 2), calendar 2 ++ le 4 (crc32c (calendar 2)), bilState, ⟨by decide, by decide +kernel, rfl, by decide, by decide +kernel,
      (leAt_right calendar_length (Nat.lt_of_lt_of_le (crc32c_lt _) (by decide))).symm, by rw [List.take_left' calendar_length], by decide +kernel⟩,
      by decide +kernel⟩,
    ⟨⟨256, 7, 0⟩, 0, 2, bilState, by decide +kernel⟩,
    ⟨⟨256, 7, 0⟩, 0, 2, 9, bilState, by decide +kernel⟩,
    ⟨⟨256, 7, 0⟩, 0, goodToken, bilState.replyQueued ⟨256, 7, 0⟩, ((bilState.replyQueued ⟨256, 7, 0⟩).tokenOutcome 0 goodToken).2, bilState, by decide +kernel⟩,
    ⟨⟨256, 7, 0⟩, ⟨1, 2, 0, 0x83, 1, 1, 24, [0]⟩, calendarShort 1, { bilState with aon := { bilState.aon with rtcSec := 43200 } }, by decide +kernel⟩,
    ⟨⟨256, 7, 0⟩, ⟨0, 0x1122, 4, 2, true, 9, 77⟩, { bilState with bil := { bilState.bil with ledger := [], sets := [] }, kvt := { bilState.kvt with blobs := [(36, bindBlob), (37, bindBlob)] } }, by decide +kernel⟩,
    ⟨⟨256, 7, 0⟩, savedSet, bilState, by
      rw [fit_self savedSet_length, savedSet_endpoint, savedSet_head, savedSet_mac, savedSet_sseq]
      exact ⟨by decide +kernel, ⟨by decide +kernel, (List.take_left' bilOne_head.1).symm, rfl⟩, by decide +kernel⟩⟩,
    ⟨⟨256, 7, 0⟩, [savedSet, zeros 320], bilState, by decide +kernel⟩,
    ⟨⟨256, 7, 0⟩, 0, bilState, by decide +kernel⟩,
    ⟨⟨256, 7, 0⟩, 0, authIn 4 (6 * 2 ^ 32), bilOne, { bilState with kvt := { bilState.kvt with auth := [(2, zeros 48)] }, bil := { bilState.bil with ledger := [(0, { bound := true, anchor := 9 })] } }, by decide +kernel⟩,
    ⟨⟨256, 7, 0⟩, 0, 2, bilState, by decide +kernel⟩,
    ⟨⟨256, 7, 0⟩, 1, campState campOne 0, by decide +kernel⟩⟩

theorem witness_keyCommandsComplete :
    (∃ (c : CmdRef) (a : KeyAddr) (s : State), (s.keyCheck c a [2] true false false = St.ok ∧ s.kvt.sets.has a.set = false ∧ s.kvt.ops.any (fun o => match o.change with | .createSet n _ => n == a.set | _ => false) = false) ∧ (s.setsOf a.inst < (s.inst a.inst).quota.keysetMax ∧ (s.setEntry a.set).1 < 2 ^ 32 - 1 ∧ s.keyWritable true = St.ok)) ∧
    (∃ (c : CmdRef) (a : KeyAddr) (k : Nat) (s : State), (s.keyCheck c a [2] true false false = St.ok ∧ s.freeSet = some k) ∧ (s.setsOf a.inst < (s.inst a.inst).quota.keysetMax ∧ (s.setEntry k).1 < 2 ^ 32 - 1 ∧ s.keyWritable true = St.ok)) :=
  ⟨⟨⟨256, 7, 0⟩, setAddr, keyHeld, by decide +kernel⟩,
    ⟨⟨256, 7, 0⟩, setAddr, 0, keyHeld, by decide +kernel⟩⟩

theorem witness_keyCommandsCompleteB :
    ∃ (c : CmdRef) (a : KeyAddr) (k : Nat) (wrapped p : Bytes) (ok : Bool) (w : Transport) (s : State), (s.dataHeld c = false ∧ (s.keyCheck c a [0, 1, 5] (decide (k < 16)) true false = St.ok ∧ (a.kind = 0 ∧ (a.ref = 4 ∨ a.ref = 5) → s.slotVer a.set a.ref < 0xFFFF))) ∧ (s.tslot a.inst k = some w ∧ kwUnwrap (roundKeys true w.tk) wrapped = some p ∧ p.length = 48 ∧ slice (p.drop 32) 4 8 = addrBytes a) ∧ (byteAt (p.drop 32) 0 = 1 ∧ byteAt (p.drop 32) 3 = 0 ∧ slice (p.drop 32) 12 4 = zeros 4 ∧ usageOk a (byteAt (p.drop 32) 1) (byteAt (p.drop 32) 2) = true) ∧ (s.leafHeld a = false ∧ s.keyWritable (a.kind != 5) = St.ok) :=
  ⟨⟨256, 7, 0⟩, leafAddr, 2, wrappedLeaf, plainLeaf, true, { tk := List.replicate 32 7 }, keyState [], by decide +kernel,
    ⟨by decide +kernel, leaf_unwraps, by decide +kernel⟩, by decide +kernel, by decide +kernel⟩

theorem witness_keyCommandsCompleteC :
    ∃ (c : CmdRef) (a : KeyAddr) (k : Nat) (wrapped p : Bytes) (ok : Bool) (w : Transport) (s : State), (s.dataHeld c = false ∧ (s.keyCheck c a [0, 1, 5] (decide (k < 16)) true false = St.ok ∧ (a.kind = 0 ∧ (a.ref = 4 ∨ a.ref = 5) → s.slotVer a.set a.ref < 0xFFFF))) ∧ (s.tslot a.inst k = some w ∧ kwUnwrap (roundKeys true w.tk) wrapped = some p ∧ p.length = 48 ∧ slice (p.drop 32) 4 8 = addrBytes a) ∧ (byteAt (p.drop 32) 0 = 1 ∧ byteAt (p.drop 32) 3 = 0 ∧ slice (p.drop 32) 12 4 = zeros 4 ∧ usageOk a (byteAt (p.drop 32) 1) (byteAt (p.drop 32) 2) = true) ∧ (s.leafHeld a = true ∧ s.keyWritable (a.kind != 5) = St.ok) :=
  ⟨⟨256, 7, 0⟩, leafAddr, 2, wrappedLeaf, plainLeaf, true, { tk := List.replicate 32 7 }, keyHeld, by decide +kernel,
    ⟨by decide +kernel, leaf_unwraps, by decide +kernel⟩, by decide +kernel, by decide +kernel⟩

theorem witness_keyCommandsCompleteD :
    ∃ (c : CmdRef) (a : KeyAddr) (usage flags : Nat) (key : Bytes) (ok : Bool) (s : State), (s.dataHeld c = false ∧ (s.keyCheck c a [0, 1, 5] (usageOk a usage flags && key.length == 32) true false = St.ok ∧ (a.kind = 0 ∧ (a.ref = 4 ∨ a.ref = 5) → s.slotVer a.set a.ref < 0xFFFF))) ∧ (s.dev.life ≠ 3 ∧ s.regBit Reg.KVT_CTRL 0 = true ∧ s.leafHeld a = false ∧ s.keyWritable (a.kind != 5) = St.ok) :=
  ⟨⟨256, 7, 0⟩, leafAddr, 1, 0, zeros 32, true, { keyState [] with dev := { keyHeld.dev with life := 2 } }, by decide +kernel⟩

theorem witness_keyCommandsCompleteE :
    ∃ (c : CmdRef) (a : KeyAddr) (usage flags : Nat) (key : Bytes) (s : State), (s.dataHeld c = false ∧ s.keyCheck c a [0, 1, 5] (usageOk a usage flags && key.length == 32) true false = St.ok ∧ a.kind = 5) ∧ (s.dev.life ≠ 3 ∧ s.regBit Reg.KVT_CTRL 0 = true ∧ s.kvt.pairKey = none ∧ s.keyWritable false = St.ok) :=
  ⟨⟨256, 7, 0⟩, ⟨5, 0, 0, 0⟩, 0, 0, zeros 32, { keyState [] with dev := { keyHeld.dev with life := 2 } }, by decide +kernel⟩

theorem witness_keyCommandsCompleteF :
    ∃ (c : CmdRef) (a : KeyAddr) (usage flags : Nat) (key : Bytes) (ok : Bool) (s : State), (s.dataHeld c = false ∧ (s.keyCheck c a [0, 1, 5] (usageOk a usage flags && key.length == 32) true false = St.ok ∧ (a.kind = 0 ∧ (a.ref = 4 ∨ a.ref = 5) → s.slotVer a.set a.ref < 0xFFFF))) ∧ (s.dev.life ≠ 3 ∧ s.regBit Reg.KVT_CTRL 0 = true ∧ s.leafHeld a = true ∧ s.keyWritable (a.kind != 5) = St.ok) :=
  ⟨⟨256, 7, 0⟩, leafAddr, 1, 0, zeros 32, true, { keyHeld with dev := { keyHeld.dev with life := 2 } }, by decide +kernel⟩

theorem witness_keyCommandsCompleteG :
    (∃ (c : CmdRef) (a : KeyAddr) (usage flags : Nat) (ok : Bool) (s : State), ((s.keyCheck c a [0, 1, 5] (usageOk a usage flags) true false = St.ok ∧ (a.kind = 0 ∧ (a.ref = 4 ∨ a.ref = 5) → s.slotVer a.set a.ref < 0xFFFF))) ∧ (s.leafHeld a = false ∧ s.keyWritable (a.kind != 5) = St.ok)) ∧
    (∃ (c : CmdRef) (a : KeyAddr) (usage flags : Nat) (ok : Bool) (s : State), ((s.keyCheck c a [0, 1, 5] (usageOk a usage flags) true false = St.ok ∧ (a.kind = 0 ∧ (a.ref = 4 ∨ a.ref = 5) → s.slotVer a.set a.ref < 0xFFFF))) ∧ (s.leafHeld a = true ∧ s.keyWritable (a.kind != 5) = St.ok)) ∧
    (∃ (c : CmdRef) (a : KeyAddr) (s : State), s.keyCheck c a [2] true true false = St.ok ∧ (s.setEntry a.set).1 < 2 ^ 32 - 1 ∧ s.keyWritable true = St.ok) ∧
    (∃ (c : CmdRef) (a : KeyAddr) (s : State), a.kind = 2 ∧ s.keyCheck c a [0, 1, 2, 3, 4, 5, 6] true true true = St.ok ∧ (s.setEntry a.set).1 < 2 ^ 32 - 1 ∧ s.keyWritable false = St.ok) ∧
    (∃ (c : CmdRef) (a : KeyAddr) (s : State), a.kind = 3 ∧ s.keyCheck c a [0, 1, 2, 3, 4, 5, 6] true true true = St.ok ∧ s.ngen a.inst < 2 ^ 32 - 1 ∧ s.keyWritable false = St.ok) ∧
    (∃ (c : CmdRef) (a : KeyAddr) (s : State), a.kind = 4 ∧ s.keyCheck c a [0, 1, 2, 3, 4, 5, 6] true true true = St.ok ∧ s.igen a.inst < 2 ^ 32 - 1 ∧ s.keyWritable false = St.ok) ∧
    (∃ (c : CmdRef) (a : KeyAddr) (s : State), a.kind = 5 ∧ s.keyCheck c a [0, 1, 2, 3, 4, 5, 6] true true true = St.ok ∧ s.kvt.pairKey ≠ none ∧ s.keyWritable false = St.ok) ∧
    (∃ (c : CmdRef) (a : KeyAddr) (ok : Bool) (s : State), a.kind = 6 ∧ s.keyCheck c a [0, 1, 2, 3, 4, 5, 6] true true true = St.ok ∧ c.queue ≤ 256) ∧
    (∃ (c : CmdRef) (a : KeyAddr) (ok : Bool) (s : State), (((a.kind = 0 ∨ a.kind = 1) ∧ s.keyCheck c a [0, 1, 2, 3, 4, 5, 6] true true true = St.ok ∧ s.kvt.blobs.has (addrPlace a) = true)) ∧ (s.keyWritable true = St.ok)) ∧
    (∃ (id : Nat) (op : KeyOp) (s : State), s.kvt.ops.find? (fun o => o.id == id && o.stage == .record) = some op ∧ State.keyDurable op.change = true) ∧
    (∃ (id : Nat) (op : KeyOp) (s : State), s.kvt.ops.find? (fun o => o.id == id && o.stage == .record) = some op ∧ State.keyDurable op.change = false ∧ op.cmd.queue ≤ 256) ∧
    (∃ (id : Nat) (op : KeyOp) (set i : Nat) (s : State), s.kvt.ops.find? (fun o => o.id == id && o.stage == .record) = some op ∧ op.change = .createSet set i) ∧
    (∃ (id : Nat) (op : KeyOp) (set : Nat) (s : State), s.kvt.ops.find? (fun o => o.id == id && o.stage == .record) = some op ∧ op.change = .deleteSet set) ∧
    (∃ (id : Nat) (op : KeyOp) (place : Nat) (b : Blob) (s : State), s.kvt.ops.find? (fun o => o.id == id && o.stage == .record) = some op ∧ op.change = .put place b ∧ (sharedBase ≤ place ∨ s.kvt.sets.has (place / 8) = true)) ∧
    (∃ (id : Nat) (op : KeyOp) (place : Nat) (s : State), s.kvt.ops.find? (fun o => o.id == id && o.stage == .record) = some op ∧ op.change = .remove place) ∧
    (∃ (id : Nat) (op : KeyOp) (i : Nat) (s : State), s.kvt.ops.find? (fun o => o.id == id && o.stage == .record) = some op ∧ op.change = .bumpNgen i ∧ op.cmd.queue ≤ 256) ∧
    (∃ (c : CmdRef) (a : KeyAddr) (peer : Bytes) (s : State), c.queue ≤ 256 ∧ s.keyCheck c a [6] true false false = St.ok) ∧
    (∃ (c : CmdRef) (a : KeyAddr) (k : Nat) (b : Blob) (w : Transport) (s : State), (c.queue ≤ 256 ∧ s.keyCheck c a [0, 1] (decide (k < 16)) true false = St.ok ∧ s.regBit Reg.KVT_CTRL 1 = true) ∧ (s.kvt.blobs.get? (addrPlace a) = some b ∧ b.bad = false ∧ bitAt (s.leafStatus (addrPlace a)) 2 = false ∧ b.midnight = false ∧ b.mayLeave = true ∧ s.tslot a.inst k = some w)) ∧
    (∃ (c : CmdRef) (nonce len : Nat) (s : State), (c.queue ≤ 256 ∧ 7762 ≤ len ∧ (s.dev.life = 0 → s.kvt.seed.isSome = true))) ∧
    (∃ (c : CmdRef) (target : Nat) (digest : Bytes) (auth : AuthIn) (s : State), (c.queue ≤ 256 ∧ s.dataHeld c = false ∧ State.advanceOk s.dev.life target = true ∧ s.dev.tamperHold = false ∧ s.sealRoom = true ∧ s.kvt.ringCap ≠ 0) ∧ ((s.dev.life = 0 ∨ s.authPasses auth 1 target = true))) ∧
    (∃ (c : CmdRef) (a : KeyAddr) (data : Bool) (s : State), c.queue ≤ 256 ∧ State.keyMine c a = true ∧ addrOk a = true ∧ s.setStatus a = St.ok) ∧
    (∃ (i k : Nat) (w : Transport) (s : State), s.kvt.transport.get? (i * 16 + k) = some w ∧ w.born + 3600 ≤ s.nowSec) :=
  ⟨⟨⟨256, 7, 0⟩, leafAddr, 1, 0, true, keyState [], by decide +kernel⟩,
    ⟨⟨256, 7, 0⟩, leafAddr, 1, 0, true, keyHeld, by decide +kernel⟩,
    ⟨⟨256, 7, 0⟩, { setAddr with set := 4 }, keyHeld, by decide +kernel⟩,
    ⟨⟨256, 7, 0⟩, { setAddr with set := 4 }, keyHeld, by decide +kernel⟩,
    ⟨⟨256, 7, 0⟩, genAddr, keyHeld, by decide +kernel⟩,
    ⟨⟨256, 7, 0⟩, { genAddr with kind := 4 }, keyHeld, by decide +kernel⟩,
    ⟨⟨256, 7, 0⟩, ⟨5, 0, 0, 0⟩, { keyHeld with kvt := { keyHeld.kvt with pairKey := some (zeros 32) } }, by decide +kernel⟩,
    ⟨⟨256, 7, 0⟩, slotAddr, true, keyHeld, by decide +kernel⟩,
    ⟨⟨256, 7, 0⟩, leafAddr, true, keyHeld, by decide +kernel⟩,
    ⟨5, { id := 5, cmd := ⟨256, 7, 0⟩, change := .createSet 9 0, stage := .record }, keyAt (.createSet 9 0) .record, by decide +kernel⟩,
    ⟨5, { id := 5, cmd := ⟨256, 7, 0⟩, change := .bumpNgen 0, stage := .record }, keyAt (.bumpNgen 0) .record, by decide +kernel⟩,
    ⟨5, { id := 5, cmd := ⟨256, 7, 0⟩, change := .createSet 9 0, stage := .record }, 9, 0, keyAt (.createSet 9 0) .record, by decide +kernel⟩,
    ⟨5, { id := 5, cmd := ⟨256, 7, 0⟩, change := .deleteSet 4, stage := .record }, 4, keyAt (.deleteSet 4) .record, by decide +kernel⟩,
    ⟨5, { id := 5, cmd := ⟨256, 7, 0⟩, change := .put 33 leafBlob, stage := .record }, 33, leafBlob, keyAt (.put 33 leafBlob) .record, by decide +kernel⟩,
    ⟨5, { id := 5, cmd := ⟨256, 7, 0⟩, change := .remove 33, stage := .record }, 33, keyAt (.remove 33) .record, by decide +kernel⟩,
    ⟨5, { id := 5, cmd := ⟨256, 7, 0⟩, change := .bumpNgen 0, stage := .record }, 0, keyAt (.bumpNgen 0) .record, by decide +kernel⟩,
    ⟨⟨256, 7, 0⟩, slotAddr, zeros 33, keyHeld, by decide +kernel⟩,
    ⟨⟨256, 7, 0⟩, leafAddr, 2, leafBlob, { tk := List.replicate 32 7 }, keyHeld, by decide +kernel⟩,
    ⟨⟨256, 7, 0⟩, 5, 7762, keyHeld, by decide +kernel⟩,
    ⟨⟨256, 7, 0⟩, 1, zeros 48, lifeAuth 0 1, lifeState 0, by decide +kernel⟩,
    ⟨⟨256, 7, 0⟩, leafAddr, true, keyHeld, by decide +kernel⟩,
    ⟨0, 2, { tk := List.replicate 32 7 }, { keyHeld with tim := { keyHeld.tim with sec := 3600 } }, by decide +kernel⟩⟩

theorem witness_keyCommandsCompleteH :
    ∃ (c : CmdRef) (target : Nat) (digest : Bytes) (auth : AuthIn) (s : State), (c.queue ≤ 256 ∧ s.dataHeld c = false ∧ State.advanceOk s.dev.life target = true ∧ s.dev.tamperHold = false ∧ s.sealRoom = true ∧ s.kvt.ringCap ≠ 0) ∧ ((s.dev.life = 0 ∨ s.authPasses auth 1 target = true)) :=
  ⟨⟨256, 7, 0⟩, 2, [], lifeAuth 1 2, lifeState 1, by decide +kernel⟩

theorem witness_timeCommandsComplete :
    (∃ (k m w z : Nat) (s : State), (w : Int) = ((s.tim.ns * 2 ^ 32 + s.tim.frac : Nat) : Int) + 8 * 2 ^ 32 + s.tim.rate ∧ z = w / 2 ^ 32) ∧
    (∃ (port : Nat) (t1 t2 at' : Int) (s : State), port < 2 ∧ s.ethUp port = true ∧ at' = t2 - s.ethRxNs port) ∧
    (∃ (port : Nat) (t1 t2 at' : Int) (s : State), port < 2 ∧ s.ethUp port = true ∧ at' = t2 - s.ethRxNs port) ∧
    (∃ (port : Nat) (t1 t2 x : Int) (s : State), (port < 2 ∧ s.ethUp port = true ∧ s.sourceOn (port + 1) = true ∧ (s.tim.ports.getD (port + 1) {}).master = false) ∧ (s.tim.selected = port + 1 ∧ x = t2 - s.ethRxNs port - t1 - (s.tim.ports.getD (port + 1) {}).delay)) ∧
    (∃ (at' : Int) (s : State), s.sourceOn 3 = true ∧ at' = (s.tim.ns : Int) - 9 - s.regField Reg.TIM_PPS_DELAY 15 0) ∧
    (∃ (at' : Int) (s : State), s.sourceOn 3 = true ∧ at' = (s.tim.ns : Int) - 9 - s.regField Reg.TIM_PPS_DELAY 15 0) ∧
    (∃ (s : State), s.pairLinkUp = true) ∧
    (∃ (t1 : Nat) (s : State), s.pairLinkUp = true) ∧
    (∃ (t1 t2 t3 t4 : Int) (state source : Nat) (s : State), s.sourceOn 4 = true) ∧
    (∃ (port : Nat) (s : State), port < 2) ∧
    (∃ (src : Nat) (s : State), max 1 (s.regField Reg.TIM_QUAL 15 8) ≤ (s.source src).age) ∧
    (∃ (src : Nat) (s : State), max 1 (s.regField Reg.TIM_QUAL 15 8) ≤ (s.source src).age ∧ (s.source src).qualified = true ∧ s.tim.selected = src) ∧
    (∃ (src : Nat) (s : State), (s.regBit Reg.TIM_CTRL 2 = true ∧ (s.source src).qualified = true ∧ s.regField Reg.TIM_QUAL 31 16 ≤ (s.source src).qualSecs ∧ s.tim.selected ≠ 0) ∧ (s.tim.pinned = 0 ∧ s.prio src ≠ 0 ∧ (s.prio src < s.prio s.tim.selected ∨ (s.prio src = s.prio s.tim.selected ∧ src < s.tim.selected)))) ∧
    (∃ (src : Nat) (s : State), (s.regBit Reg.TIM_CTRL 2 = true ∧ (s.source src).qualified = true ∧ s.regField Reg.TIM_QUAL 31 16 ≤ (s.source src).qualSecs ∧ s.tim.selected ≠ 0) ∧ (s.tim.pinned = 0 ∧ s.prio src ≠ 0 ∧ (s.prio src < s.prio s.tim.selected ∨ (s.prio src = s.prio s.tim.selected ∧ src < s.tim.selected)))) ∧
    (∃ (s : State), s.tim.state = .holdover ∧ max 1 (s.reg Reg.TIM_HOLD) ≤ s.tim.holdSeconds) ∧
    (∃ (s : State), s.tim.state = .holdover ∧ max 1 (s.reg Reg.TIM_HOLD) ≤ s.tim.holdSeconds) ∧
    (∃ (port : Nat) (s : State), port < 2 ∧ ptpMaster s port = true ∧ s.ethUp port = true ∧ bitAt (s.reg (Reg.TIM_PTP_CFG0 + 4 * port)) 2 = false) ∧
    (∃ (port q : Nat) (s : State), port < 2 ∧ ptpMaster s port = true ∧ s.ethUp port = true ∧ bitAt (s.reg (Reg.TIM_PTP_CFG0 + 4 * port)) 2 = true ∧ q = (s.tim.ports.getD (port + 1) {}).seq) ∧
    (∃ (c : CmdRef) (withData : Bool) (s : State), c.queue ≤ 256) ∧
    (∃ (c : CmdRef) (absolute force : Bool) (value : Nat) (d : Int) (s : State), (c.queue ≤ 256 ∧ stepAsked s absolute value = some d ∧ 0 ≤ (s.nowNs : Int) + d) ∧ ((force = true ∨ s.tim.selected = 0 ∨ s.tim.state = .unset ∨ s.tim.state = .free))) ∧
    (∃ (c : CmdRef) (absolute : Bool) (value : Nat) (d : Int) (s : State), (c.queue ≤ 256 ∧ stepAsked s absolute value = some d ∧ 0 ≤ (s.nowNs : Int) + d) ∧ (s.tim.selected ≠ 0 ∧ (s.tim.state = .locking ∨ s.tim.state = .locked ∨ s.tim.state = .holdover))) ∧
    (∃ (c : CmdRef) (pin : Nat) (rearm : Bool) (s : State), c.queue ≤ 256 ∧ pin ≤ 4) ∧
    (∃ (c : CmdRef) (pin : Nat) (rearm : Bool) (s : State), c.queue ≤ 256 ∧ pin ≤ 4) ∧
    (∃ (c : CmdRef) (s : State), c.queue ≤ 256) ∧
    (∃ (s : State), s.regsOk = true) ∧
    (∃ (port : Nat) (a : Announce) (s : State), port < 2 ∧ s.ethUp port = true) ∧
    (∃ (port : Nat) (t3 t4 : Int) (s : State), port < 2 ∧ s.ethUp port = true) ∧
    (∃ (port : Nat) (t1 t2 t3 t4 : Int) (s : State), port < 2 ∧ s.ethUp port = true) ∧
    (∃ (port : Nat) (t4 : Int) (s : State), port < 2 ∧ s.ethUp port = true ∧ ptpMaster s port = true) ∧
    (∃ (port : Nat) (t2 : Int) (s : State), port < 2 ∧ s.ethUp port = true) ∧
    (∃ (port : Nat) (s : State), port < 2 ∧ ptpMaster s port = true ∧ s.ethUp port = true) ∧
    (∃ (port : Nat) (s : State), port < 2 ∧ ptpMaster s port = false ∧ s.ethUp port = true) ∧
    (∃ (e : Launch) (rest : List Launch) (s : State), s.tim.queue = e :: rest ∧ e.instant ≤ s.nowNs + s.laneDelay e.lane) :=
  ⟨⟨8, 1, 508 * 2 ^ 32, 508, timState, by decide +kernel⟩,
    ⟨0, 100, 150, 150 - timState.ethRxNs 0, timState, by decide +kernel⟩,
    ⟨1, 100, 150, 150 - timState.ethRxNs 1, timState, by decide +kernel⟩,
    ⟨0, 100, 170, 170 - timState.ethRxNs 0 - 100, { timState with tim := { timState.tim with state := .locking, firstSample := true, inLock := 7 } }, by decide +kernel⟩,
    ⟨491, timState, by decide +kernel⟩,
    ⟨599999991, { timState with tim := { timState.tim with ns := 600000000 } }, by decide +kernel⟩,
    ⟨timState, by decide +kernel⟩,
    ⟨7, timState, by decide +kernel⟩,
    ⟨1, 2, 3, 4, 3, 1, timState, by decide +kernel⟩,
    ⟨0, timState, by decide +kernel⟩,
    ⟨1, { timState with tim := { timState.tim with sources := [(1, { qualified := true, age := 4 })] } }, by decide +kernel⟩,
    ⟨1, { timState with tim := { timState.tim with sources := [(1, { qualified := true, age := 4 })] } }, by decide +kernel⟩,
    ⟨1, { timState.setReg Reg.TIM_CTRL 0x7C with tim := { timState.tim with selected := 2, sources := [(1, { qualified := true, qualSecs := 9 }), (2, { qualified := true })] } }, by decide +kernel⟩,
    ⟨1, { (timState.setReg Reg.TIM_CTRL 0x7C).setReg Reg.TIM_SRC_PRIO 0x4311 with tim := { timState.tim with selected := 2, sources := [(1, { qualified := true, qualSecs := 9 }), (2, { qualified := true })] } }, by decide +kernel⟩,
    ⟨{ timState with tim := { timState.tim with state := .holdover, selected := 0, holdSeconds := 4294967295 } }, by decide +kernel⟩,
    ⟨{ timState with tim := { timState.tim with state := .holdover, selected := 1, holdSeconds := 4294967295 } }, by decide +kernel⟩,
    ⟨0, timMaster, by decide +kernel⟩,
    ⟨0, 0, timMaster.setReg Reg.TIM_PTP_CFG0 12, by decide +kernel⟩,
    ⟨⟨256, 7, 0⟩, true, timState, by decide +kernel⟩,
    ⟨⟨256, 7, 0⟩, false, true, 5000000000, 5000000000, timState, by decide +kernel⟩,
    ⟨⟨256, 7, 0⟩, false, 5000000000, 5000000000, timState, by decide +kernel⟩,
    ⟨⟨256, 7, 0⟩, 2, true, timState, by decide +kernel⟩,
    ⟨⟨256, 7, 0⟩, 0, false, timState, by decide +kernel⟩,
    ⟨⟨256, 7, 0⟩, timState, by decide +kernel⟩,
    ⟨timState, by decide +kernel⟩,
    ⟨1, ⟨9, 6, false⟩, timState, by decide +kernel⟩,
    ⟨0, 5, 9, timState, by decide +kernel⟩,
    ⟨1, 10, 20, 30, 60, timState, by decide +kernel⟩,
    ⟨0, 40, timMaster, by decide +kernel⟩,
    ⟨0, 5, timState, by decide +kernel⟩,
    ⟨0, timMaster, by decide +kernel⟩,
    ⟨1, timState, by decide +kernel⟩,
    ⟨⟨1, 0, 5, 0, 3⟩, [], { timState with tim := { timState.tim with queue := [⟨1, 0, 5, 0, 3⟩] } }, by decide +kernel⟩⟩

theorem witness_updateHostCommandsComplete :
    (∃ (c : CmdRef) (total : Nat) (data : Bytes) (s : State), c.queue ≤ 256 ∧ s.dataHeld c = false ∧ s.stageUser = 0 ∧ total ≤ stageMax ∧ data.length ≤ total ∧ granule ≤ data.length) ∧
    (∃ (c : CmdRef) (offset total : Nat) (data : Bytes) (s : State), c.queue ≤ 256 ∧ s.dataHeld c = false ∧ s.stageUser = 0 ∧ offset ≠ 0 ∧ offset = s.boot.stageLen ∧ offset + data.length ≤ s.boot.stageTotal ∧ granule ≤ data.length) ∧
    (∃ (c : CmdRef) (offset total : Nat) (data : Bytes) (s : State), c.queue ≤ 256 ∧ s.dataHeld c = false ∧ s.stageUser = 0 ∧ offset ≠ 0 ∧ offset = s.boot.stageLen ∧ offset + data.length < s.boot.stageTotal ∧ data.length < granule) ∧
    (∃ (c : CmdRef) (total : Nat) (s : State), c.queue ≤ 256 ∧ s.regBit Reg.UPD_CTRL 1 = true ∧ s.stageUser = 0 ∧ total ≤ stageMax) ∧
    (∃ (c : CmdRef) (offset total : Nat) (s : State), c.queue ≤ 256 ∧ s.regBit Reg.UPD_CTRL 1 = true ∧ s.stageUser = 0 ∧ offset ≠ 0 ∧ offset = s.boot.stageLen ∧ offset ≤ s.boot.stageTotal) ∧
    (∃ (c : CmdRef) (s : State), c.queue ≤ 256 ∧ s.stageUser = 0) ∧
    (∃ (fails k : Nat) (s : State), fails < 3 ∧ k = s.nextGranule ∧ k ≠ 0) ∧
    (∃ (fails : Nat) (d : Download) (s : State), 3 ≤ fails ∧ s.nextGranule ≠ 0 ∧ s.upd.download = some d ∧ d.cmd.queue ≤ 256) ∧
    (∃ (c : CmdRef) (sigOk : Bool) (fails : Nat) (s : State), c.queue ≤ 256 ∧ s.dev.life ≠ 4 ∧ s.boot.pendValid = false ∧ s.stageUser = 0 ∧ (s.replyQueued c).verifyStep sigOk = 0) ∧
    (∃ (c : CmdRef) (sigOk : Bool) (fails : Nat) (image : Bytes) (s : State), (c.queue ≤ 256 ∧ s.dev.life ≠ 4 ∧ s.boot.pendValid = false ∧ s.stageUser = 0 ∧ (s.replyQueued c).verifyStep sigOk = 0) ∧ (s.stagedImage = some image ∧ sha384 image = pkImageDigest s.stageHeader ∧ fails < 3)) ∧
    (∃ (c : CmdRef) (apply sigOk : Bool) (fails step : Nat) (s : State), c.queue ≤ 256 ∧ s.dev.life ≠ 4 ∧ s.boot.pendValid = false ∧ s.stageUser = 0 ∧ step ≤ 6) ∧
    (∃ (c : CmdRef) (apply sigOk : Bool) (fails : Nat) (s : State), c.queue ≤ 256 ∧ s.dev.life ≠ 4 ∧ s.boot.pendValid = false ∧ s.stageUser = 0 ∧ (s.replyQueued c).verifyStep sigOk ≠ 0) ∧
    (∃ (c : CmdRef) (when' calId launchAt ns : Nat) (s : State), (c.queue ≤ 256 ∧ s.activateBarred = false ∧ s.upd.activation = none ∧ when' < 3 ∧ ns = launchAt / 2 ^ 30 * 1000000000 + launchAt % 2 ^ 30) ∧ ((when' = 1 → calId < 16 ∧ (s.fwCal calId).any (fun b => leAt b 52 2 != 0) = true)) ∧ ((when' = 2 → State.stampBad launchAt = false ∧ s.nowNs + 1000000000 ≤ ns))) ∧
    (∃ (c : CmdRef) (when' calId launchAt ns : Nat) (s : State), (c.queue ≤ 256 ∧ s.activateBarred = false ∧ s.upd.activation = none ∧ when' < 3 ∧ ns = launchAt / 2 ^ 30 * 1000000000 + launchAt % 2 ^ 30) ∧ ((when' = 1 → calId < 16 ∧ (s.fwCal calId).any (fun b => leAt b 52 2 != 0) = true)) ∧ ((when' = 2 → State.stampBad launchAt = false ∧ s.nowNs + 1000000000 ≤ ns))) ∧
    (∃ (c : CmdRef) (a : Activation) (s : State), c.queue ≤ 256 ∧ s.upd.activation = some a) ∧
    (∃ (a : Activation) (loadOk : Bool) (drained : Nat) (s : State), s.upd.activation = some a ∧ s.activationDue a = true ∧ s.activateBarred = false ∧ s.islandDiffers = false) ∧
    (∃ (a : Activation) (drained : Nat) (s : State), s.upd.activation = some a ∧ s.activationDue a = true ∧ s.activateBarred = false ∧ s.islandDiffers = true ∧ s.met.sealState = 0 ∧ s.sealRoom = true) ∧
    (∃ (a : Activation) (loadOk cut : Bool) (drained : Nat) (s : State), s.upd.activation = some a ∧ s.activationDue a = true ∧ s.activateBarred = true ∧ a.cmd.queue ≤ 256) ∧
    (∃ (s : State), s.windowGone.any (fun w => decide (540000000000 ≤ w)) = true ∧ s.upd.warned = false) ∧
    (∃ (drained : Nat) (s : State), s.windowGone.any (fun w => decide (600000000000 ≤ w)) = true) ∧
    (∃ (c : CmdRef) (s : State), c.queue ≤ 256 ∧ s.windowGone.any (fun w => decide (w < 600000000000)) = true ∧ s.upd.slot = s.boot.pending) ∧
    (∃ (c : CmdRef) (fwId : Nat) (s : State), c.queue ≤ 256 ∧ s.boot.pendValid = false) ∧
    (∃ (c : CmdRef) (sigOk : Bool) (drained : Nat) (s : State), s.boot.pendValid = false ∧ s.bootable s.inactive sigOk = true) :=
  ⟨⟨⟨256, 7, 0⟩, 70000, zeros 65536, dayState, by decide, rfl, by decide +kernel, by decide,
      Nat.le_trans (Nat.le_of_eq zeros_length) (by decide), Nat.le_of_eq zeros_length.symm⟩,
    ⟨⟨256, 7, 0⟩, 65536, 0, zeros 65536, resumeState, ⟨by decide, rfl, rfl, by decide, by rw [resume_boot], by rw [resume_boot, zeros_length]; decide, Nat.le_of_eq zeros_length.symm⟩⟩,
    ⟨⟨256, 7, 0⟩, 65536, 0, zeros 3, resumeState, ⟨by decide, rfl, rfl, by decide, by rw [resume_boot], by rw [resume_boot, zeros_length]; decide, by decide⟩⟩,
    ⟨⟨256, 7, 0⟩, 70000, dayState.setReg Reg.UPD_CTRL 2, by decide +kernel⟩,
    ⟨⟨256, 7, 0⟩, 65536, 0, resumeState, ⟨by decide, by decide +kernel, rfl, by decide, by rw [resume_boot], by rw [resume_boot]; decide⟩⟩,
    ⟨⟨256, 7, 0⟩, dayState, by decide +kernel⟩,
    ⟨1, 2, lastGranule, by rw [lastGranule_next]; decide⟩,
    ⟨3, { cmd := ⟨256, 7, 0⟩, rest := [1, 2] }, lastGranule, ⟨by decide, by rw [lastGranule_next]; decide, rfl, by decide⟩⟩,
    ⟨⟨256, 7, 0⟩, true, 0, stagedState, ⟨by decide, by decide, by rw [staged_boot rfl], rfl, staged_passes _⟩⟩,
    ⟨⟨256, 7, 0⟩, true, 2, [], stagedState, ⟨by decide, by decide, by rw [staged_boot rfl], rfl, staged_passes _⟩, staged_image, by rw [staged_head rfl, package_digest], by decide⟩,
    ⟨⟨256, 7, 0⟩, true, true, 0, 6, stagedState, ⟨by decide, by decide, by rw [staged_boot rfl], rfl, by decide⟩⟩,
    ⟨⟨256, 7, 0⟩, true, true, 0, dayState, by decide +kernel⟩,
    ⟨⟨256, 7, 0⟩, 0, 0, 0, 0, validB none, ⟨by decide, validB_free _, rfl, by decide, rfl⟩, by decide, by decide⟩,
    ⟨⟨256, 7, 0⟩, 2, 0, 2 ^ 32, 4000000000, validB none, ⟨by decide, validB_free _, rfl, by decide, by decide⟩, by decide, fun _ => ⟨by decide, by decide +kernel⟩⟩,
    ⟨⟨256, 7, 0⟩, ⟨⟨256, 5, 0⟩, 0, 0, 0, none⟩, { dayState with upd := { dayState.upd with activation := some ⟨⟨256, 5, 0⟩, 0, 0, 0, none⟩ } }, by decide +kernel⟩,
    ⟨⟨⟨256, 5, 0⟩, 0, 0, 0, none⟩, true, 2, validB (some ⟨⟨256, 5, 0⟩, 0, 0, 0, none⟩), ⟨rfl, rfl, validB_free _, validB_island _⟩⟩,
    ⟨⟨⟨256, 5, 0⟩, 0, 0, 0, none⟩, 0, islandB ⟨⟨256, 5, 0⟩, 0, 0, 0, none⟩, ⟨rfl, rfl, islandB_free _, islandB_differs _, rfl, by decide +kernel⟩⟩,
    ⟨⟨⟨256, 5, 0⟩, 0, 0, 0, none⟩, true, false, 0, { dayState with upd := { dayState.upd with activation := some ⟨⟨256, 5, 0⟩, 0, 0, 0, none⟩ } }, by decide +kernel⟩,
    ⟨windowState 540000000000, by rw [windowState_gone]; exact ⟨rfl, rfl⟩⟩,
    ⟨1, windowState 600000000000, by rw [windowState_gone]; rfl⟩,
    ⟨⟨256, 7, 0⟩, windowState 5, by rw [windowState_gone, window_boot]; exact ⟨by decide, rfl, rfl⟩⟩,
    ⟨⟨256, 7, 0⟩, 9, dayState, by decide +kernel⟩,
    ⟨⟨256, 7, 0⟩, true, 0, validB none, ⟨by rw [validB_boot], by rw [validB_inactive]; exact validB_bootable _⟩⟩⟩

theorem witness_updateCampaignCommandsComplete :
    (∃ (c : CmdRef) (campaign imageId : Nat) (image : Bytes) (s : State), c.queue ≤ 256 ∧ s.dataHeld c = false ∧ image.length ≤ 4194304 ∧ campaign < 2) ∧
    (∃ (c : CmdRef) (p : FwStartIn) (img : Bytes) (x : FwCampaign) (s : State), (c.queue ≤ 256 ∧ s.dataHeld c = false ∧ p.campaign < 2 ∧ p.calId < 16 ∧ p.media < 8 ∧ p.group % 2 = 1 ∧ 1 ≤ p.repeats ∧ p.repeats ≤ 4 ∧ 1 ≤ p.remulti ∧ p.remulti ≤ 100) ∧ ((1 ≤ p.deadlineH ∧ p.deadlineH ≤ 8760 ∧ p.endpoints ≠ [] ∧ p.endpoints.length ≤ 262144 ∧ p.endpoints.all (fun i => decide (i < 2 ^ 21)) = true ∧ p.endpoints.any (s.bilForeign c) = false)) ∧ ((State.stampBad p.activateAt = false ∧ s.upd.campaigns.has p.campaign = false ∧ s.upd.images.get? p.campaign = some (p.imageId, img))) ∧ (x = { cmd := c, calId := p.calId, media := p.media, keyref := p.keyref, group := p.group, repeats := p.repeats, remulti := p.remulti, imageId := p.imageId, activateAt := p.activateAt, image := img, start := s.stamp, deadline := s.tim.sec + p.deadlineH * 3600, endpoints := p.endpoints.eraseDups }) ∧ (s.fwMay = false ∨ s.fwNight p.calId = none)) ∧
    (∃ (c : CmdRef) (p : FwStartIn) (img : Bytes) (x : FwCampaign) (night : Nat) (s : State), (c.queue ≤ 256 ∧ s.dataHeld c = false ∧ p.campaign < 2 ∧ p.calId < 16 ∧ p.media < 8 ∧ p.group % 2 = 1 ∧ 1 ≤ p.repeats ∧ p.repeats ≤ 4 ∧ 1 ≤ p.remulti ∧ p.remulti ≤ 100) ∧ ((1 ≤ p.deadlineH ∧ p.deadlineH ≤ 8760 ∧ p.endpoints ≠ [] ∧ p.endpoints.length ≤ 262144 ∧ p.endpoints.all (fun i => decide (i < 2 ^ 21)) = true ∧ p.endpoints.any (s.bilForeign c) = false)) ∧ ((State.stampBad p.activateAt = false ∧ s.upd.campaigns.has p.campaign = false ∧ s.upd.images.get? p.campaign = some (p.imageId, img))) ∧ (x = { cmd := c, calId := p.calId, media := p.media, keyref := p.keyref, group := p.group, repeats := p.repeats, remulti := p.remulti, imageId := p.imageId, activateAt := p.activateAt, image := img, start := s.stamp, deadline := s.tim.sec + p.deadlineH * 3600, endpoints := p.endpoints.eraseDups }) ∧ (s.fwMay = true ∧ s.fwNight p.calId = some night ∧ (s.arcUp = true → x.endpoints.any (fun i => !(s.fwReport x i).1 && !(s.fwReport x i).2.1) = true))) ∧
    (∃ (c : CmdRef) (scope : Nat) (s : State), c.queue ≤ 256 ∧ scope ≤ 2) ∧
    (∃ (c : CmdRef) (scope : Nat) (s : State), c.queue ≤ 256 ∧ scope ≤ 2) ∧
    (∃ (c : CmdRef) (k : Nat) (x : FwCampaign) (s : State), c.queue ≤ 256 ∧ s.upd.campaigns.get? k = some x) ∧
    (∃ (c : CmdRef) (k : Nat) (s : State), c.queue ≤ 256 ∧ s.upd.campaigns.get? k = none) ∧
    (∃ (k : Nat) (x : FwCampaign) (s : State), s.upd.aborts.get? k = some x ∧ s.upd.campaigns.get? k = none ∧ s.fwMay = true ∧ (s.fwNight x.calId).isSome = true) ∧
    (∃ (k : Nat) (x : FwCampaign) (s : State), (s.upd.aborts.get? k = none ∧ s.upd.campaigns.get? k = some x ∧ x.paused = false ∧ (s.fwMay = false ∨ s.fwNight x.calId = none))) ∧
    (∃ (k : Nat) (x : FwCampaign) (night : Nat) (s : State), s.upd.aborts.get? k = none ∧ s.upd.campaigns.get? k = some x ∧ x.paused = true ∧ s.fwMay = true ∧ s.fwNight x.calId = some night ∧ (s.arcUp = true → (State.fwOpenEps x).any (fun i => !(s.fwReport x i).1 && !(s.fwReport x i).2.1) = true)) ∧
    (∃ (k : Nat) (x : FwCampaign) (s : State), s.upd.campaigns.get? k = some x ∧ x.paused = false ∧ s.arcUp = true ∧ (State.fwOpenEps x).any (fun i => !(s.fwReport x i).1 && !(s.fwReport x i).2.1) = true) ∧
    (∃ (k : Nat) (x : FwCampaign) (s : State), (Tab.sorted s.upd.campaigns = true ∧ x.cmd.queue ≤ 256) ∧ (s.upd.campaigns.get? k = some x ∧ x.paused = false ∧ s.arcUp = true ∧ (State.fwOpenEps x).all (fun i => (s.fwReport x i).1 || (s.fwReport x i).2.1) = true)) ∧
    (∃ (k : Nat) (x : FwCampaign) (s : State), s.upd.campaigns.get? k = some x ∧ x.deadline ≤ s.tim.sec ∧ x.cmd.queue ≤ 256) :=
  ⟨⟨⟨256, 7, 0⟩, 1, 9, [1, 2], dayState, by decide +kernel⟩,
    ⟨⟨256, 7, 0⟩, ⟨1, 2, 0, 0x83, 1, 1, 1, 24, 9, 0, [0]⟩, [1], { fwOne with start := (fwState fwOne 43200).stamp, deadline := 129600 }, { fwState fwOne 43200 with upd := { dayState.upd with images := [(1, (9, [1]))] } }, by decide +kernel⟩,
    ⟨⟨256, 7, 0⟩, ⟨1, 2, 0, 0x83, 1, 1, 1, 24, 9, 0, [0]⟩, [1], { fwOne with start := (fwState fwOne 0).stamp, deadline := 86400 }, 0, { fwState fwOne 0 with upd := { dayState.upd with images := [(1, (9, [1]))] } }, by decide +kernel⟩,
    ⟨⟨256, 7, 0⟩, 1, fwState fwOne 0, by decide +kernel⟩,
    ⟨⟨256, 7, 0⟩, 0, fwState fwOne 0, by decide +kernel⟩,
    ⟨⟨256, 7, 0⟩, 1, fwOne, fwState fwOne 0, by decide +kernel⟩,
    ⟨⟨256, 7, 0⟩, 0, fwState fwOne 0, by decide +kernel⟩,
    ⟨1, fwOne, { fwState fwOne 0 with upd := { dayState.upd with aborts := [(1, fwOne)] } }, by decide +kernel⟩,
    ⟨1, { fwOne with paused := false }, fwState { fwOne with paused := false } 43200, by decide +kernel⟩,
    ⟨1, fwOne, 0, fwState fwOne 0, by decide +kernel⟩,
    ⟨1, { fwOne with paused := false }, { fwState { fwOne with paused := false } 0 with arc := bilState.arc }, by decide +kernel⟩,
    ⟨1, { fwOne with paused := false, confirmed := [0] }, { fwState { fwOne with paused := false, confirmed := [0] } 0 with arc := bilState.arc }, by decide +kernel⟩,
    ⟨1, fwOne, fwState fwOne 1000, by decide +kernel⟩⟩

theorem witness_relayMessagesComplete :
    (∃ (d : RelayIn) (r : RelayRx) (s : State), (d.dport = s.regField Reg.UPD_RX_PORT 15 0 ∧ s.ethUp d.eth = true ∧ relaySound d.bytes = true ∧ relayKind d.bytes = 1) ∧ (s.offerCode d = 0 ∧ s.upd.relayRx = some r)) ∧
    (∃ (d : RelayIn) (s : State), d.dport = s.regField Reg.UPD_RX_PORT 15 0 ∧ s.ethUp d.eth = true ∧ relaySound d.bytes = true ∧ relayKind d.bytes = 1 ∧ s.offerCode d ≠ 0) ∧
    (∃ (d : RelayIn) (s : State), d.dport = s.regField Reg.UPD_RX_PORT 15 0 ∧ s.ethUp d.eth = true ∧ relaySound d.bytes = false) ∧
    (∃ (d : RelayIn) (k : Nat) (s : State), (d.dport = s.regField Reg.UPD_RX_PORT 15 0 ∧ s.ethUp d.eth = true ∧ relaySound d.bytes = true ∧ relayKind d.bytes = 2) ∧ (s.relayFrom d = some k ∧ (s.upd.relays.getD k {}).state = 1)) ∧
    (∃ (d : RelayIn) (k : Nat) (s : State), (d.dport = s.regField Reg.UPD_RX_PORT 15 0 ∧ s.ethUp d.eth = true ∧ relaySound d.bytes = true ∧ relayKind d.bytes = 3) ∧ ((s.relayFrom d = some k ∧ ((s.upd.relays.getD k {}).state = 1 ∨ (s.upd.relays.getD k {}).state = 2)))) ∧
    (∃ (d : RelayIn) (r : RelayRx) (s : State), (d.dport = s.regField Reg.UPD_RX_PORT 15 0 ∧ s.ethUp d.eth = true ∧ relaySound d.bytes = true ∧ relayKind d.bytes = 4) ∧ (s.upd.relayRx = some r ∧ r.offer.isSome = true ∧ s.fromPred d = true ∧ relayBody d.bytes ≠ [] ∧ (relayBody d.bytes).length ≤ chunk) ∧ (relayOffset d.bytes + (relayBody d.bytes).length ≤ s.boot.stageTotal ∧ relayOffset d.bytes = s.relayGot)) ∧
    (∃ (d : RelayIn) (r : RelayRx) (s : State), (d.dport = s.regField Reg.UPD_RX_PORT 15 0 ∧ s.ethUp d.eth = true ∧ relaySound d.bytes = true ∧ relayKind d.bytes = 4) ∧ (s.upd.relayRx = some r ∧ r.offer.isSome = true ∧ s.fromPred d = true ∧ relayBody d.bytes ≠ [] ∧ (relayBody d.bytes).length ≤ chunk) ∧ (relayOffset d.bytes + (relayBody d.bytes).length ≤ s.boot.stageTotal ∧ relayOffset d.bytes ≠ s.relayGot)) ∧
    (∃ (d : RelayIn) (k : Nat) (s : State), (d.dport = s.regField Reg.UPD_RX_PORT 15 0 ∧ s.ethUp d.eth = true ∧ relaySound d.bytes = true ∧ relayKind d.bytes = 5) ∧ (s.relayFrom d = some k ∧ (s.upd.relays.getD k {}).state = 2 ∧ (s.upd.relays.getD k {}).acked < relayOffset d.bytes ∧ relayOffset d.bytes ≤ (s.upd.relays.getD k {}).sent)) ∧
    (∃ (d : RelayIn) (r : RelayRx) (digest : Bytes) (len id : Nat) (s : State), (d.dport = s.regField Reg.UPD_RX_PORT 15 0 ∧ s.ethUp d.eth = true ∧ relaySound d.bytes = true ∧ relayKind d.bytes = 6) ∧ (s.upd.relayRx = some r ∧ r.offer = some (digest, len, id) ∧ s.fromPred d = true ∧ s.boot.stageLen = s.boot.stageTotal ∧ s.upd.download = none ∧ r.cmd.queue ≤ 256)) ∧
    (∃ (d : RelayIn) (k : Nat) (s : State), (d.dport = s.regField Reg.UPD_RX_PORT 15 0 ∧ s.ethUp d.eth = true ∧ relaySound d.bytes = true ∧ relayKind d.bytes = 7) ∧ (s.relayFrom d = some k ∧ (s.upd.relays.getD k {}).state = 2)) ∧
    (∃ (d : RelayIn) (k : Nat) (s : State), (d.dport = s.regField Reg.UPD_RX_PORT 15 0 ∧ s.ethUp d.eth = true ∧ relaySound d.bytes = true ∧ relayKind d.bytes = 7) ∧ (s.relayFrom d = some k ∧ (s.upd.relays.getD k {}).state = 2)) ∧
    (∃ (k : Nat) (x : RelayTx) (s : State), (s.upd.relays.get? k = some x ∧ (x.state = 1 ∨ x.state = 2) ∧ x.resends < 10)) ∧
    (∃ (k : Nat) (x : RelayTx) (s : State), (s.upd.relays.get? k = some x ∧ (x.state = 1 ∨ x.state = 2) ∧ x.resends < 10)) ∧
    (∃ (k : Nat) (x : RelayTx) (s : State), (s.upd.relays.get? k = some x ∧ (x.state = 1 ∨ x.state = 2) ∧ 10 ≤ x.resends)) :=
  ⟨⟨relayIn 1 0 (zeros 48 ++ le 4 0 ++ le 4 9), { cmd := ⟨256, 7, 0⟩ }, relayState (some { cmd := ⟨256, 7, 0⟩ }) {}, by decide +kernel⟩,
    ⟨relayIn 1 0 (zeros 48 ++ le 4 1 ++ le 4 9), relayState (some { cmd := ⟨256, 7, 0⟩ }) {}, by decide +kernel⟩,
    ⟨{ relayIn 1 0 [] with bytes := zeros 20 }, relayState (some { cmd := ⟨256, 7, 0⟩ }) {}, by decide +kernel⟩,
    ⟨relayIn 2 0 [], 0, relayState none { state := 1, resends := 3 }, by decide +kernel⟩,
    ⟨relayIn 3 0 (le 1 2), 0, relayState none { state := 1 }, by decide +kernel⟩,
    ⟨relayIn 4 0 [5], { cmd := ⟨256, 7, 0⟩, offer := some (zeros 48, 9, 9) }, relayArrives, by rw [relayArrives_boot, relayArrives_got]; decide +kernel⟩,
    ⟨relayIn 4 1 [5], { cmd := ⟨256, 7, 0⟩, offer := some (zeros 48, 9, 9) }, relayArrives, by rw [relayArrives_boot, relayArrives_got]; decide +kernel⟩,
    ⟨relayIn 5 1024 [], 0, relayState none { state := 2, sent := 2048, resends := 1 }, by decide +kernel⟩,
    ⟨relayIn 6 0 [], { cmd := ⟨256, 7, 0⟩, offer := some (sha384 [], 0, 9) }, sha384 [], 0, 9, relayState (some { cmd := ⟨256, 7, 0⟩, offer := some (sha384 [], 0, 9) }) {}, by decide +kernel⟩,
    ⟨relayIn 7 0 (le 1 0), 0, relayState none { state := 2 }, by decide +kernel⟩,
    ⟨relayIn 7 0 (le 1 3), 0, relayState none { state := 2 }, by decide +kernel⟩,
    ⟨0, { state := 1, resends := 9 }, relayState none { state := 1, resends := 9 }, by decide +kernel⟩,
    ⟨0, { state := 2, sent := 2048 }, relayState none { state := 2, sent := 2048 }, by decide +kernel⟩,
    ⟨0, { state := 1, resends := 10 }, relayState none { state := 1, resends := 10 }, by decide +kernel⟩⟩

theorem witness_loaderAnswers :
    (∃ (p : PortIn) (seq : Nat) (s : State), s.Hears p .loader 1 seq []) ∧
    (∃ (p : PortIn) (seq r fails : Nat) (s : State), s.Hears p .loader 2 seq (le 1 r) ∧ r < 3 ∧ fails < 3) ∧
    (∃ (p : PortIn) (seq r fails : Nat) (s : State), s.Hears p .loader 2 seq (le 1 r) ∧ r < 256 ∧ (3 ≤ r ∨ 3 ≤ fails)) ∧
    (∃ (p : PortIn) (seq r fails : Nat) (s : State), s.Hears p .loader 2 seq (le 1 r) ∧ r < 256 ∧ (3 ≤ r ∨ 3 ≤ fails)) ∧
    (∃ (p : PortIn) (seq r a fails : Nat) (x : Bytes) (s : State), (s.Hears p .loader 3 seq (le 1 r ++ le 4 a ++ x) ∧ r < 3 ∧ a < 2 ^ 32 ∧ fails < 3) ∧ (x.length ≤ 4080 ∧ a + x.length ≤ regionSize r) ∧ ((s.upd.flash.program (regionBase r + a) x).bytes (regionBase r + a) x.length = x)) ∧
    (∃ (p : PortIn) (seq r a fails : Nat) (x : Bytes) (s : State), (s.Hears p .loader 3 seq (le 1 r ++ le 4 a ++ x) ∧ r < 3 ∧ a < 2 ^ 32) ∧ (x.length ≤ 4080 ∧ a + x.length ≤ regionSize r) ∧ ((3 ≤ fails ∨ (s.upd.flash.program (regionBase r + a) x).bytes (regionBase r + a) x.length ≠ x))) ∧
    (∃ (p : PortIn) (seq r a n : Nat) (s : State), s.Hears p .loader 4 seq (le 1 r ++ le 4 a ++ le 2 n) ∧ r < 3 ∧ n ≤ 4080 ∧ a + n ≤ regionSize r ∧ a < 2 ^ 32) ∧
    (∃ (p : PortIn) (seq r a n : Nat) (s : State), s.Hears p .loader 4 seq (le 1 r ++ le 4 a ++ le 2 n) ∧ r < 256 ∧ n < 65536 ∧ a < 2 ^ 32 ∧ (3 ≤ r ∨ 4080 < n ∨ regionSize r < a + n)) ∧
    (∃ (p : PortIn) (seq k : Nat) (sigOk : Bool) (s : State), s.Hears p .loader 5 seq (le 1 k) ∧ k < 2 ∧ s.slotPasses k sigOk = true) ∧
    (∃ (p : PortIn) (seq k : Nat) (sigOk : Bool) (s : State), s.Hears p .loader 5 seq (le 1 k) ∧ k < 2 ∧ s.slotPasses k sigOk = false) ∧
    (∃ (p : PortIn) (seq k : Nat) (sigOk : Bool) (s : State), s.Hears p .loader 6 seq (le 1 k) ∧ k < 2 ∧ s.slotPasses k sigOk = true ∧ s.loaderState k = 2) ∧
    (∃ (p : PortIn) (seq k : Nat) (sigOk : Bool) (s : State), s.Hears p .loader 6 seq (le 1 k) ∧ k < 2 ∧ (s.slotPasses k sigOk = false ∨ s.loaderState k ≠ 2)) ∧
    (∃ (p : PortIn) (seq : Nat) (s : State), s.Hears p .loader 7 seq []) ∧
    (∃ (port : Nat) (s : State), (s.serves port ≠ .silent) ∧ (((s.portLook port).port port).rx ≠ [] ∧ packetWhole ((s.portLook port).port port).rx = false)) ∧
    (∃ (p : PortIn) (seq : Nat) (s : State), s.Hears p .service 1 seq []) ∧
    (∃ (p : PortIn) (seq : Nat) (s : State), s.Hears p .service 1 seq []) ∧
    (∃ (p : PortIn) (seq w off : Nat) (s : State), (s.Hears p .service 16 seq (le 1 w ++ le 2 off)) ∧ (w ≤ 0x16 ∧ off % 4 = 0 ∧ off < 65536)) :=
  ⟨⟨.ssp, 5, loaderHears (request 1 5 []), by decide +kernel⟩,
    ⟨.ssp, 5, 1, 2, loaderHears (request 2 5 (le 1 1)), by decide +kernel⟩,
    ⟨.ssp, 5, 3, 0, loaderHears (request 2 5 (le 1 3)), by decide +kernel⟩,
    ⟨.ssp, 5, 2, 3, loaderHears (request 2 5 (le 1 2)), by decide +kernel⟩,
    ⟨.ssp, 5, 0, 16, 2, [1, 2], loaderHears (request 3 5 (le 1 0 ++ le 4 16 ++ [1, 2])), by decide +kernel⟩,
    ⟨.ssp, 5, 0, 16, 3, [1, 2], loaderHears (request 3 5 (le 1 0 ++ le 4 16 ++ [1, 2])), by decide +kernel⟩,
    ⟨.ssp, 5, 0, 16, 2, loaderHears (request 4 5 (le 1 0 ++ le 4 16 ++ le 2 2)), by decide +kernel⟩,
    ⟨.ssp, 5, 0, 16, 4081, loaderHears (request 4 5 (le 1 0 ++ le 4 16 ++ le 2 4081)), by decide +kernel⟩,
    ⟨.ssp, 5, 1, true, loaderSlot (request 5 5 (le 1 1)), ⟨by decide +kernel, by decide, loaderSlot_passes _⟩⟩,
    ⟨.ssp, 5, 1, false, loaderHears (request 5 5 (le 1 1)), ⟨by decide +kernel, by decide, by unfold State.slotPasses State.authentic; simp⟩⟩,
    ⟨.ssp, 5, 1, true, loaderSlot (request 6 5 (le 1 1)), ⟨by decide +kernel, by decide, loaderSlot_passes _, by unfold State.loaderState State.loaderStates; rw [show (loaderSlot _).boot = { stateB := 2 } from boot_of rfl clear_slotB boot_validB]; rfl⟩⟩,
    ⟨.ssp, 5, 1, false, loaderHears (request 6 5 (le 1 1)), ⟨by decide +kernel, by decide, .inl (by unfold State.slotPasses State.authentic; simp)⟩⟩,
    ⟨.ssp, 5, loaderHears (request 7 5 []), by decide +kernel⟩,
    ⟨0, serviceHears [0xA5, 1], by decide +kernel⟩,
    ⟨.ssp, 5, serviceHears (request 1 5 []), by decide +kernel⟩,
    ⟨.osp 8681 (request 1 5 []), 5, dayState, by decide +kernel⟩,
    ⟨.ssp, 5, 0, 0, serviceHears (request 16 5 (le 1 0 ++ le 2 0)), by decide +kernel⟩⟩

theorem witness_servicePortCommandsComplete :
    (∃ (x : SspIn) (b : Bytes) (s : State), ((s.domain 9).state = .on ∧ x.op = 1 ∧ 8 ≤ x.edges) ∧ (s.serves 0 ≠ .silent ∧ (s.port 0).rx = [] ∧ b.length ≤ streamCap ∧ b.head? = some sof ∧ packetLen b ≤ 4096 ∧ packetWhole b = false)) ∧
    (∃ (x : SspIn) (b : Bytes) (midByte : Bool) (s : State), (s.domain 9).state = .on ∧ x.op = 1 ∧ 8 ≤ x.edges) ∧
    (∃ (x : SspIn) (b : Bytes) (midByte : Bool) (s : State), (s.domain 9).state = .on ∧ x.edges < 8) ∧
    (∃ (x : SspIn) (b : Bytes) (midByte : Bool) (s : State), (s.domain 9).state = .on ∧ 8 ≤ x.edges ∧ x.op ≠ 1 ∧ x.op ≠ 2 ∧ x.op ≠ 3) ∧
    (∃ (x : SspIn) (n m clocked : Nat) (midByte : Bool) (s : State), ((s.domain 9).state = .on ∧ x.op = 2 ∧ 8 ≤ x.edges) ∧ ((s.port 0).rx = [] ∧ n = min 255 (s.port 0).tx.length ∧ m = min n (clocked - 1) ∧ 1 ≤ clocked)) ∧
    (∃ (x : SspIn) (n m clocked : Nat) (midByte : Bool) (s : State), ((s.domain 9).state = .on ∧ x.op = 2 ∧ 8 ≤ x.edges) ∧ ((s.port 0).rx = [] ∧ n = min 255 (s.port 0).tx.length ∧ m = min n (clocked - 1) ∧ 1 ≤ clocked)) ∧
    (∃ (x : SspIn) (s : State), (s.domain 9).state = .on ∧ x.op = 3 ∧ 8 ≤ x.edges) ∧
    (∃ (n : Nat × Nat) (l : List (Nat × Nat)) (s : State), s.svc.flood = false ∧ s.svc.naks = n :: l ∧ s.svc.txUntil ≤ s.dev.nc) ∧
    (∃ (b : Bytes) (l : List Bytes) (s : State), s.svc.flood = false ∧ s.svc.naks = [] ∧ s.svc.responses = b :: l ∧ s.svc.txUntil ≤ s.dev.nc ∧ s.svc.txFrom ≤ s.dev.nc) ∧
    (∃ (s : State), s.dev.nc < s.svc.txUntil ∨ s.svc.flood = true ∨ (s.svc.naks = [] ∧ s.dev.nc < s.svc.txFrom)) ∧
    (∃ (a n : Nat) (f frame : Bytes) (s : State), s.svc.flood = false ∧ s.floods a n = true ∧ f = s.ospFrame frame) ∧
    (∃ (a n : Nat) (f frame : Bytes) (s : State), s.svc.flood = false ∧ s.floods a n = true ∧ f = s.ospFrame frame) ∧
    (∃ (a : Nat) (s : State), s.svc.flood = true ∧ s.floods a 0 = false) ∧
    (∃ (b : Bytes) (l : List Bytes) (s : State), s.svc.flood = true ∧ s.svc.naks = [] ∧ s.svc.responses = b :: l) ∧
    (∃ (n : Nat × Nat) (l : List (Nat × Nat)) (s : State), s.svc.flood = true ∧ s.svc.naks = n :: l) ∧
    (∃ (b f : Bytes) (s : State), f = s.ospFrame b ∧ f ≠ []) ∧
    (∃ (s : State), (s.dev.state = .recovery ∧ s.reg Reg.GLB_STATE_CAUSE % 256 = 0x0D) ∧ (s.svc.loaderPort = 0 ∧ s.svc.moved = false ∧ (s.port 0).heard = false)) :=
  ⟨⟨⟨false, 8, 1⟩, [0xA5, 1], dayState, by decide +kernel⟩,
    ⟨⟨false, 8, 1⟩, [1], true, dayState, by decide +kernel⟩,
    ⟨⟨false, 7, 1⟩, [], false, dayState, by decide +kernel⟩,
    ⟨⟨false, 8, 4⟩, [], false, dayState, by decide +kernel⟩,
    ⟨⟨true, 8, 2⟩, 2, 1, 2, true, { dayState with svc := { dayState.svc with ports := [(0, { tx := [3, 4] })] } }, by decide +kernel⟩,
    ⟨⟨true, 8, 2⟩, 2, 2, 5, false, { dayState with svc := { dayState.svc with ports := [(0, { tx := [3, 4] })] } }, by decide +kernel⟩,
    ⟨⟨false, 8, 3⟩, dayState, by decide +kernel⟩,
    ⟨(1, 2), [], { dayState with svc := { dayState.svc with naks := [(1, 2)] } }, by decide +kernel⟩,
    ⟨[1], [], { dayState with svc := { dayState.svc with responses := [[1]] } }, by decide +kernel⟩,
    ⟨{ dayState with svc := { dayState.svc with txUntil := 5 } }, by decide +kernel⟩,
    ⟨3, 21, [0xA5, 1, 2], [7, 0xA5, 1, 2], dayState, by decide +kernel⟩,
    ⟨257, 0, [], [], dayState, by decide +kernel⟩,
    ⟨1, { dayState with svc := { dayState.svc with flood := true, naks := [(1, 2)] } }, by decide +kernel⟩,
    ⟨[1], [], { dayState with svc := { dayState.svc with flood := true, responses := [[1]] } }, by decide +kernel⟩,
    ⟨(1, 2), [], { dayState with svc := { dayState.svc with flood := true, naks := [(1, 2)] } }, by decide +kernel⟩,
    ⟨[9, 0xA5], [0xA5], dayState, by decide +kernel⟩,
    ⟨(loaderHears []).setReg Reg.GLB_STATE_CAUSE 0x0D, by decide +kernel⟩⟩

theorem witness_testPortCommandsComplete :
    (∃ (a b : Nat) (s : State), s.tapAdmits 0 a = true ∧ s.tapAdmits 1 b = true) ∧
    (∃ (a b : Nat) (s : State), s.tapAdmits 0 a = false ∧ s.tapAdmits 1 b = true) ∧
    (∃ (a b : Nat) (s : State), s.tapAdmits 0 a = true ∧ s.tapAdmits 1 b = false) ∧
    (∃ (s : State), s.svc.tapHold = false ∨ s.dev.state ≠ .dawn) ∧
    (∃ (s : State), s.svc.tapHold = true ∧ s.dev.state = .dawn) :=
  ⟨⟨1, 2, dayState, by decide +kernel⟩,
    ⟨0, 1, dayState, by decide +kernel⟩,
    ⟨1, 0, dayState, by decide +kernel⟩,
    ⟨dayState, by decide +kernel⟩,
    ⟨{ State.reset with svc := { State.reset.svc with tapHold := true } }, by decide +kernel⟩⟩

theorem witness_pairCommandsComplete :
    (∃ (c : CmdRef) (s : State), c.queue ≤ 256) ∧
    (∃ (c : CmdRef) (s : State), c.queue ≤ 256 ∧ s.par.owned = false) ∧
    (∃ (c : CmdRef) (s : State), s.par.owned = true ∧ s.par.release = none) ∧
    (∃ (c : CmdRef) (i : ClaimIn) (s : State), c.queue ≤ 256 ∧ s.par.owned = true) ∧
    (∃ (c : CmdRef) (i : ClaimIn) (s : State), (c.queue ≤ 256 ∧ s.par.owned = false ∧ s.par.release = none ∧ s.claimBarred = false) ∧ ((i.ownIn = false ∧ i.high = false ∧ (i.race = false ∨ s.par.side = false)))) ∧
    (∃ (c : CmdRef) (start : Nat) (s : State), c.queue ≤ 256 ∧ s.dev.role = .standby ∧ s.par.present = true) ∧
    (∃ (c : CmdRef) (force : Bool) (i : ClaimIn) (s : State), (c.queue ≤ 256 ∧ s.par.owned = false ∧ s.par.release = none ∧ s.claimBarred = false) ∧ ((force = true ∨ (s.parUnfit = false ∧ s.par.inStep = true))) ∧ ((i.ownIn = false ∧ i.high = false ∧ (i.race = false ∨ s.par.side = false)))) ∧
    (∃ (c : CmdRef) (i : ClaimIn) (s : State), (c.queue ≤ 256 ∧ s.par.owned = false ∧ s.par.release = none ∧ s.claimBarred = false) ∧ (i.ownIn = false ∧ i.race = true ∧ s.par.side = true)) ∧
    (∃ (c : CmdRef) (i : ClaimIn) (s : State), c.queue ≤ 256 ∧ s.par.owned = false ∧ s.par.release = none ∧ i.ownIn = true) ∧
    (∃ (c : CmdRef) (i : ClaimIn) (s : State), c.queue ≤ 256 ∧ s.par.owned = false ∧ s.par.release = none ∧ s.claimBarred = true ∧ i.ownIn = false) ∧
    (∃ (c : CmdRef) (i : ClaimIn) (s : State), c.queue ≤ 256 ∧ s.par.owned = false ∧ (s.parUnfit = true ∨ s.par.inStep = false)) ∧
    (∃ (c : CmdRef) (force : Bool) (i : ClaimIn) (s : State), s.par.owned = false ∧ s.par.release.isSome = true ∧ (force = true ∨ (s.parUnfit = false ∧ s.par.inStep = true))) ∧
    (∃ (c : CmdRef) (force : Bool) (i : ClaimIn) (s : State), c.queue ≤ 256 ∧ s.par.owned = true) ∧
    (∃ (c : CmdRef) (drain handover : Bool) (s : State), c.queue ≤ 256 ∧ s.par.owned = false) ∧
    (∃ (c : CmdRef) (handover : Bool) (s : State), ((s.par.owned = true ∧ s.par.release = none ∧ (handover = true → s.partnerReady = true))) ∧ ((s.plc.onAir.isSome = true ∨ s.rfx.tx ≠ []))) ∧
    (∃ (c : CmdRef) (drain handover : Bool) (s : State), ((s.par.owned = true ∧ s.par.release = none ∧ (handover = true → s.partnerReady = true))) ∧ ((drain = true → s.plc.onAir = none ∧ s.rfx.tx = []))) ∧
    (∃ (c : CmdRef) (e : Nat) (s : State), c.queue ≤ 256) ∧
    (∃ (c : CmdRef) (mask failing : Nat) (s : State), c.queue ≤ 256 ∧ mask % 16 &&& failing = 0) ∧
    (∃ (c : CmdRef) (mask failing : Nat) (s : State), c.queue ≤ 256 ∧ mask % 16 &&& failing ≠ 0) :=
  ⟨⟨⟨256, 7, 0⟩, standbyState, by decide +kernel⟩,
    ⟨⟨256, 7, 0⟩, standbyState, by decide +kernel⟩,
    ⟨⟨256, 7, 0⟩, ownerState, by decide +kernel⟩,
    ⟨⟨256, 7, 0⟩, ⟨false, false, false⟩, ownerState, by decide +kernel⟩,
    ⟨⟨256, 7, 0⟩, ⟨false, false, false⟩, standbyState, by decide +kernel⟩,
    ⟨⟨256, 7, 0⟩, 0, standbyState, by decide +kernel⟩,
    ⟨⟨256, 7, 0⟩, true, ⟨false, true, false⟩, { standbyState with par := { standbyState.par with side := false } }, by decide +kernel⟩,
    ⟨⟨256, 7, 0⟩, ⟨false, true, false⟩, standbyState, by decide +kernel⟩,
    ⟨⟨256, 7, 0⟩, ⟨true, false, false⟩, standbyState, by decide +kernel⟩,
    ⟨⟨256, 7, 0⟩, ⟨false, false, false⟩, { standbyState with par := { standbyState.par with sideConflict := true } }, by decide +kernel⟩,
    ⟨⟨256, 7, 0⟩, ⟨false, false, false⟩, { standbyState with par := { standbyState.par with inStep := false } }, by decide +kernel⟩,
    ⟨⟨256, 7, 0⟩, true, ⟨false, false, false⟩, { standbyState with par := { standbyState.par with release := some { cmd := some ⟨256, 6, 0⟩, handover := false } } }, by decide +kernel⟩,
    ⟨⟨256, 7, 0⟩, false, ⟨false, false, false⟩, ownerState, by decide +kernel⟩,
    ⟨⟨256, 7, 0⟩, false, false, standbyState, by decide +kernel⟩,
    ⟨⟨256, 7, 0⟩, false, { ownerState with plc := { ownerState.plc with onAir := some 3 } }, by decide +kernel⟩,
    ⟨⟨256, 7, 0⟩, true, false, ownerState, by decide +kernel⟩,
    ⟨⟨256, 7, 0⟩, 3, standbyState, by decide +kernel⟩,
    ⟨⟨256, 7, 0⟩, 3, 4, { dayState with par := { dayState.par with testFail := 7 } }, by decide +kernel⟩,
    ⟨⟨256, 7, 0⟩, 3, 5, { dayState with par := { dayState.par with testFail := 6 } }, by decide +kernel⟩⟩

theorem witness_pairEventsComplete :
    (∃ (i : ClaimIn) (r : Release) (s : State), s.par.release = some r ∧ r.draining = false ∧ s.par.claims = []) ∧
    (∃ (i : ClaimIn) (r : Release) (c : CmdRef) (s : State), s.par.release = some r ∧ r.draining = false ∧ s.par.claims = [] ∧ r.cmd = some c ∧ c.queue ≤ 256) ∧
    (∃ (i : ClaimIn) (r : Release) (s : State), (s.par.release = some r ∧ r.draining = false ∧ s.par.claims ≠ [] ∧ s.claimBarred = false) ∧ ((i.ownIn = false ∧ i.high = false ∧ (i.race = false ∨ s.par.side = false)))) ∧
    (∃ (r : Release) (s : State), s.par.release = some r ∧ r.draining = true) ∧
    (∃ (test : Nat) (ok : Bool) (s : State), test < 2) ∧
    (∃ (i : ClaimIn) (s : State), s.dev.role ≠ .standby ∧ s.dev.role ≠ .orphan) ∧
    (∃ (i : ClaimIn) (s : State), (s.dev.role = .standby ∧ s.par.announced = true ∧ s.par.handover = true ∧ s.par.owned = false ∧ s.par.release = none) ∧ (s.parUnfit = false ∧ s.par.inStep = true ∧ s.par.fault = false ∧ s.claimBarred = false) ∧ ((i.ownIn = false ∧ i.high = false ∧ (i.race = false ∨ s.par.side = false)))) ∧
    (∃ (i : ClaimIn) (s : State), ((s.dev.role = .standby ∨ s.dev.role = .orphan) ∧ s.par.announced = false ∧ s.par.partner.owner = true ∧ s.regBit Reg.PAR_CTRL 1 = true) ∧ (s.par.owned = false ∧ s.par.release = none ∧ s.parUnfit = false ∧ s.par.inStep = true ∧ s.par.fault = false ∧ s.claimBarred = false) ∧ ((i.ownIn = false ∧ i.high = false ∧ (i.race = false ∨ s.par.side = false)))) ∧
    (∃ (s : State), s.pairLinkUp = true) ∧
    (∃ (b : Bool) (r : ReportIn) (s : State), s.par.present = false ∧ s.dev.role = .orphan) ∧
    (∃ (b : Bool) (r : ReportIn) (s : State), r.side = s.par.side ∧ s.par.sideConflict = false ∧ s.dev.state = .day) ∧
    (∃ (i : ClaimIn) (s : State), s.par.present = true ∧ s.dev.role = .standby ∧ s.par.ownIn = true) ∧
    (∃ (i : ClaimIn) (s : State), (s.par.present = true ∧ (s.dev.role = .standby ∨ s.dev.role = .orphan) ∧ s.par.ownIn = false ∧ s.regBit Reg.PAR_CTRL 1 = true) ∧ (s.par.owned = false ∧ s.par.release = none ∧ s.parUnfit = false ∧ s.par.inStep = true ∧ s.par.fault = false ∧ s.claimBarred = false) ∧ ((i.ownIn = false ∧ i.high = false ∧ (i.race = false ∨ s.par.side = false)))) ∧
    (∃ (lane : Nat) (i : ClaimIn) (s : State), lane < 2 ∧ putBit s.par.lanes lane false = 0 ∧ s.par.present = true ∧ s.dev.role = .standby ∧ s.par.ownIn = true) ∧
    (∃ (lane : Nat) (i : ClaimIn) (s : State), lane < 2 ∧ putBit s.par.lanes lane false ≠ 0) ∧
    (∃ (lane : Nat) (s : State), lane < 2 ∧ s.shut 47 = false) ∧
    (∃ (f : ShadowIn) (s : State), (s.dev.role = .standby ∧ (s.par.shadowNext = none ∨ s.par.shadowNext = some f.seq))) ∧
    (∃ (f : ShadowIn) (n : Nat) (s : State), s.dev.role = .standby ∧ s.par.shadowNext = some n ∧ n ≠ f.seq ∧ 0 < s.digestLimit) ∧
    (∃ (idx v : Nat) (x : Ctx) (s : State), s.epAt idx = some x) ∧
    (∃ (idx v : Nat) (x : Ctx) (s : State), s.epAt idx = some x) ∧
    (∃ (e : Nat) (s : State), (e + 1) * s.digestS ≤ s.nowSec ∧ s.par.digests.has e = false) ∧
    (∃ (e : Nat) (own theirs : List Bytes) (s : State), s.par.digests.get? e = some own ∧ (e + 1) * s.digestS + 2 ≤ s.nowSec) ∧
    (∃ (b : Bytes) (s : State), s.dev.role = .standby) ∧
    (∃ (b : Bytes) (final : Bool) (x : Rec) (s : State), s.dev.role = .standby ∧ x = recOf (fit 64 b)) ∧
    (∃ (l : List LedgerIn) (s : State), s.kvt.pairKey ≠ none) ∧
    (∃ (l : List LedgerIn) (s : State), s.kvt.pairKey ≠ none) ∧
    (∃ (l : List LedgerIn) (final tagOk : Bool) (s : State), tagOk = false ∨ s.kvt.pairKey = none) :=
  ⟨⟨⟨false, false, false⟩, { cmd := some ⟨256, 7, 0⟩, handover := false }, releasing false, by decide +kernel⟩,
    ⟨⟨false, false, false⟩, { cmd := some ⟨256, 7, 0⟩, handover := false }, ⟨256, 7, 0⟩, releasing false, by decide +kernel⟩,
    ⟨⟨false, false, false⟩, { cmd := some ⟨256, 7, 0⟩, handover := false }, { releasing false with par := { (releasing false).par with claims := [{ cmd := none, solo := true }] } }, by decide +kernel⟩,
    ⟨{ cmd := some ⟨256, 7, 0⟩, handover := false, draining := true }, releasing true, by decide +kernel⟩,
    ⟨1, false, dayState, by decide +kernel⟩,
    ⟨⟨false, false, false⟩, { ownerState with par := { ownerState.par with ownIn := true } }, by decide +kernel⟩,
    ⟨⟨false, false, false⟩, { standbyState.setReg Reg.PAR_FATAL_MASK 0 with par := { standbyState.par with announced := true, handover := true } }, by decide +kernel⟩,
    ⟨⟨false, false, false⟩, { (standbyState.setReg Reg.PAR_FATAL_MASK 0).setReg Reg.PAR_CTRL 2 with par := { standbyState.par with partner := { standbyState.par.partner with owner := true } } }, by decide +kernel⟩,
    ⟨dayState, by decide +kernel⟩,
    ⟨false, reportIn, { dayState with dev := { dayState.dev with role := .orphan } }, by decide +kernel⟩,
    ⟨false, { reportIn with side := true }, standbyState, by decide +kernel⟩,
    ⟨⟨true, false, false⟩, { standbyState with par := { standbyState.par with ownIn := true } }, by decide +kernel⟩,
    ⟨⟨false, false, false⟩, { (standbyState.setReg Reg.PAR_FATAL_MASK 0).setReg Reg.PAR_CTRL 2 with par := standbyState.par }, by decide +kernel⟩,
    ⟨1, ⟨false, false, false⟩, { standbyState with par := { standbyState.par with lanes := 2, ownIn := true } }, by decide +kernel⟩,
    ⟨1, ⟨true, false, false⟩, standbyState, by decide +kernel⟩,
    ⟨1, dayState, by decide +kernel⟩,
    ⟨shadowIn, standbyState, by decide +kernel⟩,
    ⟨shadowIn, 2, { standbyState with par := { standbyState.par with shadowNext := some 2 } }, by decide +kernel⟩,
    ⟨0, 7, epState.ctx 0, epState, by decide +kernel⟩,
    ⟨0, 7, epState.ctx 0, epState, by decide +kernel⟩,
    ⟨0, { dayState with tim := { dayState.tim with sec := 100 }, par := { dayState.par with items := [(1, [1])] } }, by decide +kernel⟩,
    ⟨3, [[1], [2], [3]], [[1], [2], [4]], { dayState with tim := { dayState.tim with sec := 100000 }, par := { dayState.par with digests := [(3, [[1], [2], [3]])] } }, by decide +kernel⟩,
    ⟨zeros 64, { standbyState with par := { standbyState.par with noGap := false, gapFrom := 7 } }, by decide +kernel⟩,
    ⟨zeros 64, false, recOf (fit 64 (zeros 64)), standbyState, by decide +kernel⟩,
    ⟨[⟨0, 5, true, false, false, 3, 0⟩], { standbyState with kvt := { standbyState.kvt with pairKey := some (zeros 32) } }, by decide +kernel⟩,
    ⟨[⟨0, 5, true, false, false, 3, 0⟩], { standbyState with kvt := { standbyState.kvt with pairKey := some (zeros 32) } }, by decide +kernel⟩,
    ⟨[], true, false, standbyState, by decide +kernel⟩⟩

theorem witness_fabricCommandsComplete :
    (∃ (k p n : Nat) (w : Bool) (s : State), ((fabRoute k p = true ∧ (k = 5 → s.pwr.srpX16 = false) ∧ p ∉ s.fab.quiet ∧ s.portUp p = true ∧ 0 < n ∧ n ≤ 256)) ∧ ((s.target k).now ≠ none)) ∧
    (∃ (k p n : Nat) (w : Bool) (s : State), ((fabRoute k p = true ∧ (k = 5 → s.pwr.srpX16 = false) ∧ p ∉ s.fab.quiet ∧ s.portUp p = true ∧ 0 < n ∧ n ≤ 256)) ∧ ((s.target k).now = none ∧ (s.target k).waiting = [])) ∧
    (∃ (k p n : Nat) (w : Bool) (s : State), ((fabRoute k p = true ∧ (k = 5 → s.pwr.srpX16 = false) ∧ p ∉ s.fab.quiet ∧ s.portUp p = true ∧ 0 < n ∧ n ≤ 256)) ∧ ((s.target k).now = none ∧ (s.target k).waiting = [])) ∧
    (∃ (k : Nat) (b : Burst) (s : State), (s.target k).now = some b ∧ (s.target k).waiting = []) ∧
    (∃ (k : Nat) (b : Burst) (s : State), (s.target k).now = some b ∧ (s.target k).waiting.any (fun x => decide (x.port < 28) && !s.fab.quiet.contains x.port) = true) ∧
    (∃ (p : Nat) (s : State), p < 28) :=
  ⟨⟨0, 3, 64, true, { dayState with fab := { dayState.fab with targets := [(0, { now := some ⟨1, 64, false, 0⟩ })] } }, by decide +kernel⟩,
    ⟨0, 3, 64, true, dayState, by decide +kernel⟩,
    ⟨5, 22, 256, true, dayState, by decide +kernel⟩,
    ⟨0, ⟨1, 64, false, 0⟩, { dayState with fab := { dayState.fab with targets := [(0, { now := some ⟨1, 64, false, 0⟩ })] } }, by decide +kernel⟩,
    ⟨0, ⟨1, 64, false, 0⟩, { dayState with fab := { dayState.fab with targets := [(0, { now := some ⟨1, 64, false, 0⟩, waiting := [⟨3, 8, true, 0⟩, ⟨1, 8, true, 0⟩] })] } }, by decide +kernel⟩,
    ⟨1, { dayState with fab := { dayState.fab with targets := [(0, { now := some ⟨1, 64, false, 0⟩, waiting := [⟨1, 8, true, 0⟩] })] } }, by decide +kernel⟩⟩

theorem witness_virtualMachineCommandsComplete :
    (∃ (c : CmdRef) (q : Quotas) (s : State), c.queue ≤ 256 ∧ State.quotasOk q = true ∧ (s.inst c.inst).state = .absent) ∧
    (∃ (c : CmdRef) (q : Quotas) (ckptOk : Bool) (s : State), c.queue ≤ 256 ∧ (State.quotasOk q = false ∨ (s.inst c.inst).state ≠ .absent ∨ ckptOk = false)) ∧
    (∃ (c : CmdRef) (f : Fence) (s : State), c.queue ≤ 256 ∧ (s.inst c.inst).state = .fencing ∧ (s.inst c.inst).fence = some f) ∧
    (∃ (c : CmdRef) (f : Fence) (s : State), c.queue ≤ 256 ∧ (s.inst c.inst).state = .fencing ∧ (s.inst c.inst).fence = some f) ∧
    (∃ (c : CmdRef) (s : State), c.queue ≤ 256 ∧ (s.inst c.inst).state ≠ .absent ∧ (s.inst c.inst).state ≠ .fencing) ∧
    (∃ (c : CmdRef) (s : State), c.queue ≤ 256 ∧ (s.inst c.inst).state ≠ .absent ∧ (s.inst c.inst).state ≠ .fencing) ∧
    (∃ (c : CmdRef) (q : Quotas) (s : State), c.queue ≤ 256 ∧ State.quotasOk q = true ∧ (s.inst c.inst).state ≠ .absent) ∧
    (∃ (c : CmdRef) (q : Quotas) (ckptOk : Bool) (s : State), c.queue ≤ 256 ∧ (State.quotasOk q = false ∨ (s.inst c.inst).state = .absent ∨ ckptOk = false)) ∧
    (∃ (c : CmdRef) (s : State), c.queue ≤ 256) ∧
    (∃ (c : CmdRef) (s : State), c.queue ≤ 256 ∧ (s.inst c.inst).state ≠ .absent ∧ (s.inst c.inst).state ≠ .fencing ∧ s.instHolds c.inst = 0) ∧
    (∃ (c : CmdRef) (ckptOk : Bool) (s : State), c.queue ≤ 256 ∧ (s.inst c.inst).state ≠ .absent ∧ (s.inst c.inst).state ≠ .fencing ∧ s.instHolds c.inst ≠ 0) ∧
    (∃ (i : Nat) (u : FenceUnit) (f : Fence) (s : State), (s.inst i).fence = some f ∧ u ∈ f.waiting ∧ f.waiting.erase u ≠ []) ∧
    (∃ (i : Nat) (u : FenceUnit) (f : Fence) (s : State), (s.inst i).fence = some f ∧ u ∈ f.waiting ∧ f.waiting.erase u = []) ∧
    (∃ (i : Nat) (f : Fence) (s : State), (s.inst i).fence = some f ∧ f.waiting ≠ []) :=
  ⟨⟨⟨256, 7, 4⟩, { epMax := 9 }, dayState, by decide +kernel⟩,
    ⟨⟨256, 7, 3⟩, { epMax := 9 }, true, readyInst, by decide +kernel⟩,
    ⟨⟨256, 7, 3⟩, { startNc := 0, cause := 1, disable := false, waiting := [.ing, .fse], cmds := [] }, fencing [.ing, .fse], by decide +kernel⟩,
    ⟨⟨256, 7, 3⟩, { startNc := 0, cause := 1, disable := false, waiting := [.ing, .fse], cmds := [] }, fencing [.ing, .fse], by decide +kernel⟩,
    ⟨⟨256, 7, 3⟩, readyInst, by decide +kernel⟩,
    ⟨⟨256, 7, 3⟩, readyInst, by decide +kernel⟩,
    ⟨⟨256, 7, 3⟩, { epMax := 9 }, readyInst, by decide +kernel⟩,
    ⟨⟨256, 7, 4⟩, { epMax := 9 }, true, dayState, by decide +kernel⟩,
    ⟨⟨256, 7, 3⟩, readyInst, by decide +kernel⟩,
    ⟨⟨256, 7, 3⟩, readyInst, by decide +kernel⟩,
    ⟨⟨256, 7, 0⟩, true, heldInst, by decide +kernel⟩,
    ⟨3, .ing, { startNc := 0, cause := 1, disable := false, waiting := [.ing, .fse], cmds := [] }, fencing [.ing, .fse], by decide +kernel⟩,
    ⟨3, .fse, { startNc := 0, cause := 1, disable := false, waiting := [.fse], cmds := [] }, fencing [.fse], by decide +kernel⟩,
    ⟨3, { startNc := 0, cause := 1, disable := false, waiting := [.ing, .fse], cmds := [] }, fencing [.ing, .fse], by decide +kernel⟩⟩

theorem witness_powerCommandsComplete :
    (∃ (c : CmdRef) (d : Nat) (s : State), c.queue ≤ 256 ∧ d < 64 ∧ State.domClass d = 2 ∧ (s.domain d).state = .on) ∧
    (∃ (c : CmdRef) (d : Nat) (s : State), d < 64 ∧ State.domClass d = 2 ∧ (s.domain d).state ≠ .on) ∧
    (∃ (c : CmdRef) (d : Nat) (s : State), c.queue ≤ 256 ∧ d < 64 ∧ State.domClass d = 2 ∧ (s.domain d).state ≠ .off ∧ (d = 47 → s.regBit Reg.PAR_CTRL 0 = false ∧ s.dev.role = .solo)) ∧
    (∃ (c : CmdRef) (d : Nat) (s : State), c.queue ≤ 256 ∧ d < 64 ∧ State.domClass d = 2 ∧ (s.domain d).state = .off) ∧
    (∃ (c : CmdRef) (s : State), c.queue ≤ 256 ∧ (s.domain 47).state ≠ .off ∧ (s.regBit Reg.PAR_CTRL 0 = true ∨ s.dev.role ≠ .solo)) ∧
    (∃ (d : Nat) (s : State), (s.domain d).state = .ramping) ∧
    (∃ (d : Nat) (s : State), (s.domain d).state = .ramping) ∧
    (∃ (c : CmdRef) (s : State), c.queue ≤ 256) ∧
    (∃ (c : CmdRef) (s : State), s.dev.state ≠ .dusk ∧ s.dev.state ≠ .night) ∧
    (∃ (c : CmdRef) (s : State), s.dev.state ≠ .dusk ∧ s.dev.state ≠ .night) ∧
    (∃ (temp : Int) (s : State), (107 ≤ temp ∧ s.pwr.thermLow = false ∧ (s.begun 1 ∨ s.dev.state = .recovery))) ∧
    (∃ (temp : Int) (s : State), (temp < 103 ∧ s.pwr.thermLow = true ∧ (s.begun 1 ∨ s.dev.state = .recovery))) ∧
    (∃ (temp : Int) (s : State), 103 ≤ temp ∧ temp < 107) ∧
    (∃ (c : CmdRef) (ch rank a : Nat) (s : State), c.queue ≤ 256) ∧
    (∃ (mv : Nat) (s : State), s.dev.state ≠ .night) ∧
    (∃ (c : CmdRef) (auth : AuthIn) (s : State), c.queue ≤ 256 ∧ s.dataHeld c = false ∧ s.classActive 0 = false ∧ s.dev.tamperHold = true ∧ s.authPasses auth 2 s.met.covers = true) ∧
    (∃ (c : CmdRef) (auth : AuthIn) (s : State), c.queue ≤ 256 ∧ s.dataHeld c = false ∧ s.classActive 0 = false ∧ s.dev.tamperHold = true ∧ s.authPasses auth 2 s.met.covers = false) ∧
    (∃ (c : CmdRef) (port : Nat) (s : State), (s.dev.state = .day ∨ s.dev.state = .twilight)) :=
  ⟨⟨⟨256, 7, 0⟩, 19, dayState, by decide +kernel⟩,
    ⟨⟨256, 7, 0⟩, 19, { dayState with pwr := { dayState.pwr with domains := dayState.pwr.domains.put 19 {} } }, by decide +kernel⟩,
    ⟨⟨256, 7, 0⟩, 19, dayState, by decide +kernel⟩,
    ⟨⟨256, 7, 0⟩, 19, { dayState with pwr := { dayState.pwr with domains := dayState.pwr.domains.put 19 {} } }, by decide +kernel⟩,
    ⟨⟨256, 7, 0⟩, ownerState, by decide +kernel⟩,
    ⟨19, { dayState with pwr := { dayState.pwr with domains := dayState.pwr.domains.put 19 { state := .ramping } } }, by decide +kernel⟩,
    ⟨19, { dayState with pwr := { dayState.pwr with domains := dayState.pwr.domains.put 19 { state := .ramping } } }, by decide +kernel⟩,
    ⟨⟨256, 7, 0⟩, dayState, by decide +kernel⟩,
    ⟨⟨256, 7, 0⟩, dayState, by decide +kernel⟩,
    ⟨⟨256, 7, 0⟩, dayState, by decide +kernel⟩,
    ⟨107, dayState, by decide +kernel⟩,
    ⟨102, { dayState with pwr := { dayState.pwr with thermLow := true } }, by decide +kernel⟩,
    ⟨104, dayState, by decide +kernel⟩,
    ⟨⟨256, 7, 0⟩, 1, 0, 64, queryState [queryJob], by decide +kernel⟩,
    ⟨3000, dayState, by decide +kernel⟩,
    ⟨⟨256, 7, 0⟩, { authIn 2 tamperState.met.covers with authority := 1 }, tamperState, by decide +kernel⟩,
    ⟨⟨256, 7, 0⟩, authIn 2 tamperState.met.covers, { tamperState with kvt := { tamperState.kvt with auth := [] } }, by decide +kernel⟩,
    ⟨⟨256, 7, 0⟩, 1, dayState, by decide +kernel⟩⟩

theorem witness_dawnAndDuskEventsComplete :
    (∃ (d : DawnIn) (s : State), (s.stageMayEnd d = true ∧ s.dev.stage ∈ [1, 3, 4, 5, 6] ∧ (s.dev.stage = 1 → s.pwr.bootRec = false))) ∧
    (∃ (d : DawnIn) (s : State), s.stageMayEnd d = true ∧ s.dev.stage = 0) ∧
    (∃ (d : DawnIn) (s : State), s.stageMayEnd d = true ∧ s.dev.stage = 1 ∧ s.pwr.bootRec = true) ∧
    (∃ (d : DawnIn) (k : Nat) (u s : State), s.stageMayEnd d = true ∧ s.dev.stage = 2 ∧ s.chooseSlot (fun k => if k = 0 then d.sigA else d.sigB) = (some k, u)) ∧
    (∃ (d : DawnIn) (u s : State), s.stageMayEnd d = true ∧ s.dev.stage = 2 ∧ s.chooseSlot (fun k => if k = 0 then d.sigA else d.sigB) = (none, u)) ∧
    (∃ (d : DawnIn) (s : State), s.stageMayEnd d = true ∧ s.dev.stage = 7 ∧ s.dev.tamperHold = true) ∧
    (∃ (d : DawnIn) (s : State), (s.stageMayEnd d = true ∧ s.dev.stage = 7 ∧ s.dev.tamperHold = false ∧ s.regBit Reg.PAR_CTRL 0 = false ∧ s.claimBarred = false) ∧ ((d.claim.ownIn = false ∧ d.claim.high = false ∧ (d.claim.race = false ∨ s.par.side = false)))) ∧
    (∃ (d : DawnIn) (s : State), s.stageMayEnd d = true ∧ s.dev.stage = 7 ∧ s.dev.tamperHold = false ∧ s.regBit Reg.PAR_CTRL 0 = true) ∧
    (∃ (c : CmdRef) (d : CtrlIn) (disc slot : Nat) (s : State), (c.queue ≤ 256 ∧ s.arc.phase = .failed ∧ s.ctrl disc = some d ∧ slot ∈ s.arc.journal) ∧ (s.labelOf slot d = true) ∧ ((((s.replyQueued c).arcRecover s.arc.found).afterRecovery).arcUp = true)) ∧
    (∃ (v : SupplyIn) (s : State), v.vsenseMv < 891 ∧ 2200 ≤ v.lowNs ∧ s.dev.state ≠ .dusk ∧ s.dev.state ≠ .night) ∧
    (∃ (s : State), s.dev.state ≠ .dusk ∧ s.dev.state ≠ .night) ∧
    (∃ (s : State), s.dev.state ≠ .dusk ∧ s.dev.state ≠ .night) ∧
    (∃ (s : State), (s.dev.state = .day ∨ s.dev.state = .twilight ∨ s.dev.state = .recovery ∨ (s.dev.state = .dawn ∧ 2 ≤ s.dev.stage))) ∧
    (∃ (s : State), s.dev.state = .dawn ∧ s.dev.stage < 2) ∧
    (∃ (v : Bool) (s : State), s.dev.state = .night) ∧
    (∃ (v : Bool) (s : State), s.dev.state ≠ .dusk ∧ s.dev.state ≠ .night) ∧
    (∃ (v : Bool) (s : State), s.dev.state = .dusk ∧ s.pwr.saveDone = true ∧ s.pwr.halted = false) ∧
    (∃ (b : Bool) (n : Nat) (s : State), s.dev.state = .dusk ∧ s.pwr.saveDone = false ∧ s.pwr.supplyValid = false) ∧
    (∃ (b : Bool) (n : Nat) (s : State), s.dev.state = .dusk ∧ s.pwr.saveDone = false ∧ s.pwr.supplyValid = true ∧ s.pwr.haltAsked = false) ∧
    (∃ (s : State), s.dev.state = .dusk) ∧
    (∃ (s : State), s.dev.state = .dusk ∧ s.pwr.halted = true ∧ s.pwr.sysRst = true) ∧
    (∃ (s : State), s.dev.state ≠ .dusk ∨ s.pwr.halted = false) :=
  ⟨⟨dawnIn, dawnAt 1, by decide +kernel⟩,
    ⟨dawnIn, dawnAt 0, by decide +kernel⟩,
    ⟨dawnIn, { dawnAt 1 with pwr := { (dawnAt 1).pwr with bootRec := true } }, by decide +kernel⟩,
    ⟨dawnIn, 1, _, dawnB, rfl, rfl, dawnB_chooses rfl⟩,
    ⟨dawnIn, _, dawnAt 2, rfl, rfl, erased_chooses⟩,
    ⟨dawnIn, { dawnAt 7 with dev := { (dawnAt 7).dev with tamperHold := true } }, by decide +kernel⟩,
    ⟨dawnIn, (dawnAt 7).setRegBit Reg.PAR_CTRL 0 false, by decide +kernel⟩,
    ⟨dawnIn, (dawnAt 7).setRegBit Reg.PAR_CTRL 0 true, by decide +kernel⟩,
    ⟨⟨256, 7, 0⟩, { disc := 1, serial := 1, lba := 512, metaBytes := 0, zeroed := true, usable := 4096, root := 1, label := some (1, 1, 1, [0, 1]) }, 1, 1, failedSet, by decide +kernel⟩,
    ⟨⟨800, 3000⟩, dayState, by decide +kernel⟩,
    ⟨dayState, by decide +kernel⟩,
    ⟨dayState, by decide +kernel⟩,
    ⟨dayState, by decide +kernel⟩,
    ⟨dawnAt 1, by decide +kernel⟩,
    ⟨false, { dayState with dev := { dayState.dev with state := .night } }, by decide +kernel⟩,
    ⟨true, dayState, by decide +kernel⟩,
    ⟨false, duskState true, by decide +kernel⟩,
    ⟨true, 900, duskState false, by decide +kernel⟩,
    ⟨true, 900, { duskState false with pwr := { (duskState false).pwr with supplyValid := true } }, by decide +kernel⟩,
    ⟨duskState true, by decide +kernel⟩,
    ⟨{ duskState true with pwr := { (duskState true).pwr with halted := true, sysRst := true } }, by decide +kernel⟩,
    ⟨dayState, by decide +kernel⟩⟩

theorem witness_recorderCommandsComplete :
    (∃ (e : EventIn) (s : State), e.recorder < 8) ∧
    (∃ (r n : Nat) (e : EvRecord) (s : State), (s.recorder r).staged = some (n, e)) ∧
    (∃ (r : Nat) (x : Bool) (s : State), s.nowSec % (if x then (s.recorder r).extS else (s.recorder r).histS) = 0) ∧
    (∃ (r : Nat) (x : Bool) (s : State), s.nowSec % (if x then (s.recorder r).extS else (s.recorder r).histS) ≠ 0) ∧
    (∃ (n : Nat) (s : State), (s.recorder s.recSel).oldest ≤ n ∧ n < (s.recorder s.recSel).committed) ∧
    (∃ (n : Nat) (s : State), n < (s.recorder s.recSel).oldest ∧ (s.recorder s.recSel).oldest < (s.recorder s.recSel).committed) ∧
    (∃ (n : Nat) (s : State), (s.recorder s.recSel).committed ≤ n) ∧
    (∃ (n : Nat) (e : EvRecord) (s : State), (s.evView s.recSel).busy = some n ∧ (s.recorder s.recSel).recs.get? n = some e) ∧
    (∃ (s : State), bitAt (s.regI Reg.EVR_CTRL s.recSel) 0 = false ∨ (s.evView s.recSel).cursor + 1 = (s.recorder s.recSel).committed) ∧
    (∃ (n : Nat) (s : State), bitAt (s.regI Reg.EVR_CTRL s.recSel) 0 = true ∧ n = (s.evView s.recSel).cursor + 1 ∧ (s.recorder s.recSel).oldest ≤ n ∧ n < (s.recorder s.recSel).committed) ∧
    (∃ (c : CmdRef) (r first n : Nat) (l : List (Nat × EvRecord)) (s : State), c.queue ≤ 256 ∧ r < 8 ∧ 0 < n ∧ n ≤ recorderCap r ∧ l = s.readRecords r first n (if c.queue < 256 then some c.inst else none)) ∧
    (∃ (c : CmdRef) (r : Nat) (s : State), c.queue ≤ 256 ∧ r < 7) ∧
    (∃ (c : CmdRef) (s : State), c.queue ≤ 256) ∧
    (∃ (c : CmdRef) (r h x p : Nat) (s : State), c.queue ≤ 256 ∧ r < 7 ∧ 0 < h ∧ h ≤ 255 ∧ 0 < x ∧ x ≤ 65535 ∧ p ≤ 60000) :=
  ⟨⟨eventIn, dayState, by decide +kernel⟩,
    ⟨0, 5, { source := 3, kind := 0, code := 5, stamp := 0, payload := [1] }, recState { staged := some (5, { source := 3, kind := 0, code := 5, stamp := 0, payload := [1] }) }, by decide +kernel⟩,
    ⟨0, false, { dayState with tim := { dayState.tim with sec := 0 } }, by decide +kernel⟩,
    ⟨0, false, { recState { histS := 10 } with tim := { dayState.tim with sec := 7 } }, by decide +kernel⟩,
    ⟨2, recState { next := 5 }, by decide +kernel⟩,
    ⟨2, recState { next := 5, oldest := 3 }, by decide +kernel⟩,
    ⟨5, recState { next := 5 }, by decide +kernel⟩,
    ⟨2, { source := 3, kind := 0, code := 5, stamp := 0, payload := [1] }, (recState { next := 5, recs := [(2, { source := 3, kind := 0, code := 5, stamp := 0, payload := [1] })] }).evLoad 0 2, by decide +kernel⟩,
    ⟨dayState.setRegI Reg.EVR_CTRL 0 0, by decide +kernel⟩,
    ⟨1, recState { next := 5 } |>.setRegI Reg.EVR_CTRL 0 1, by decide +kernel⟩,
    ⟨⟨256, 7, 0⟩, 0, 0, 4, [], dayState, by decide +kernel⟩,
    ⟨⟨256, 7, 0⟩, 0, recState { next := 5 }, by decide +kernel⟩,
    ⟨⟨256, 7, 0⟩, dayState, by decide +kernel⟩,
    ⟨⟨256, 7, 0⟩, 0, 10, 60, 500, dayState, by decide +kernel⟩⟩

end Sys2Proof.Tests
end

section
/-! What every row of the table keeps, and the statements about every command and every step (R9, R14, R66, R451). -/
namespace Sys2Proof.Machine

/-- A command changes only the parts that `mayChange` lists for it, and keeps the canonical forms: the law of each meaning, one per row. -/
theorem exec_keeps {i : Instr} {s t : State} (h : exec i s = .next t) : Keeps (mayChange i) s t := by
  cases i with
  | hostRegisterWrite => exact execHostRegisterWrite_keeps h
  | rcRegisterRead => exact execRcRegisterRead_keeps h
  | lowWordRead => exact execLowWordRead_keeps h
  | lowWordWrite => exact execLowWordWrite_keeps h
  | highWordWrite => exact execHighWordWrite_keeps h
  | unitLockWrite => exact execUnitLockWrite_keeps h
  | seamWindowRead => exact execSeamWindowRead_keeps h
  | seamWindowReadResponse => exact execSeamWindowReadResponse_keeps h
  | seamPacketReceived => exact execSeamPacketReceived_keeps h
  | ownershipHeartbeatSend => exact execOwnershipHeartbeatSend_keeps h
  | ownershipHeartbeatReceived => exact execOwnershipHeartbeatReceived_keeps h
  | heartbeatTimeout => exact execHeartbeatTimeout_keeps h
  | sqTailDoorbell => exact execSqTailDoorbell_keeps h
  | cqHeadDoorbell => exact execCqHeadDoorbell_keeps h
  | queueEnable => exact execQueueEnable_keeps h
  | queueDisable => exact execQueueDisable_keeps h
  | descriptorFetch => exact execDescriptorFetch_keeps h
  | descriptorReceived => exact execDescriptorReceived_keeps h
  | commandDispatch => exact execCommandDispatch_keeps h
  | commandResult => exact execCommandResult_keeps h
  | cqCoalesceTimeout => exact execCqCoalesceTimeout_keeps h
  | glbIdentify => exact execGlbIdentify_keeps h
  | glbStatus => exact execGlbStatus_keeps h
  | glbStateSet => exact execGlbStateSet_keeps h
  | glbRecoveryEnter => exact execGlbRecoveryEnter_keeps h
  | glbLaneResync => exact execGlbLaneResync_keeps h
  | glbNop => exact execGlbNop_keeps h
  | glbTamperAck => exact execGlbTamperAck_keeps h
  | partReadCompletion => exact execPartReadCompletion_keeps h
  | partReadError => exact execPartReadError_keeps h
  | completionTimeout => exact execCompletionTimeout_keeps h
  | creditStall => exact execCreditStall_keeps h
  | backoffExpiry => exact execBackoffExpiry_keeps h
  | stallAbsent => exact execStallAbsent_keeps h
  | creditsReturn => exact execCreditsReturn_keeps h
  | linkDown => exact execLinkDown_keeps h
  | perstAssert => exact execPerstAssert_keeps h
  | busMasterClear => exact execBusMasterClear_keeps h
  | d3hotEntry => exact execD3hotEntry_keeps h
  | flrPf0 => exact execFlrPf0_keeps h
  | flrVf => exact execFlrVf_keeps h
  | vfEnableSet => exact execVfEnableSet_keeps h
  | functionDisable => exact execFunctionDisable_keeps h
  | msixVectorUnmask => exact execMsixVectorUnmask_keeps h
  | noticeRingEnable => exact execNoticeRingEnable_keeps h
  | noticeRingDisable => exact execNoticeRingDisable_keeps h
  | noticeHeadDoorbell => exact execNoticeHeadDoorbell_keeps h
  | nrCoalesceTimeout => exact execNrCoalesceTimeout_keeps h
  | heldMove => exact execHeldMove_keeps h
  | plcSymbolReceived => exact execPlcSymbolReceived_keeps h
  | plcNoiseClear => exact execPlcNoiseClear_keeps h
  | plcPreambleDetect => exact execPlcPreambleDetect_keeps h
  | plcPhrDecision => exact execPlcPhrDecision_keeps h
  | plcCodewordDecode => exact execPlcCodewordDecode_keeps h
  | plcFrameHandoff => exact execPlcFrameHandoff_keeps h
  | plcLaunch => exact execPlcLaunch_keeps h
  | seamUnderrun => exact execSeamUnderrun_keeps h
  | plcTxEnd => exact execPlcTxEnd_keeps h
  | bandcDeferExpiry => exact execBandcDeferExpiry_keeps h
  | zcMetCrossing => exact execZcMetCrossing_keeps h
  | zcCoarseCrossing => exact execZcCoarseCrossing_keeps h
  | zcSourceLoss => exact execZcSourceLoss_keeps h
  | plcContentionWaitEnd => exact execPlcContentionWaitEnd_keeps h
  | plcMaxDeferExpiry => exact execPlcMaxDeferExpiry_keeps h
  | plcAckSend => exact execPlcAckSend_keeps h
  | plcAckReceived => exact execPlcAckReceived_keeps h
  | plcAckTimeout => exact execPlcAckTimeout_keeps h
  | plcRetryWaitEnd => exact execPlcRetryWaitEnd_keeps h
  | rdiscReceived => exact execRdiscReceived_keeps h
  | rdiscCollectEnd => exact execRdiscCollectEnd_keeps h
  | rrepReceived => exact execRrepReceived_keeps h
  | rrepWaitExpiry => exact execRrepWaitExpiry_keeps h
  | rerrReceived => exact execRerrReceived_keeps h
  | tmreqReceived => exact execTmreqReceived_keeps h
  | tmrspReceived => exact execTmrspReceived_keeps h
  | tmapAgeExpiry => exact execTmapAgeExpiry_keeps h
  | mcastRepeat => exact execMcastRepeat_keeps h
  | plcConfig => exact execPlcConfig_keeps h
  | plcTonemapLoad => exact execPlcTonemapLoad_keeps h
  | plcTonemapReadTx => exact execPlcTonemapReadTx_keeps h
  | plcTonemapReadRx => exact execPlcTonemapReadRx_keeps h
  | plcTonemapRevert => exact execPlcTonemapRevert_keeps h
  | plcSend => exact execPlcSend_keeps h
  | plcRouteSetSlot => exact execPlcRouteSetSlot_keeps h
  | plcRouteClearSlot => exact execPlcRouteClearSlot_keeps h
  | plcRoutePin => exact execPlcRoutePin_keeps h
  | plcRouteUnpin => exact execPlcRouteUnpin_keeps h
  | plcMcastSend => exact execPlcMcastSend_keeps h
  | plcStatus => exact execPlcStatus_keeps h
  | plcNoiseRead => exact execPlcNoiseRead_keeps h
  | rfClockLoss => exact execRfClockLoss_keeps h
  | rfClockReturn => exact execRfClockReturn_keeps h
  | rfFramingLoss => exact execRfFramingLoss_keeps h
  | rfFramingRestore => exact execRfFramingRestore_keeps h
  | rfSyncDetect => exact execRfSyncDetect_keeps h
  | rfPhrDecision => exact execRfPhrDecision_keeps h
  | rfFrameEnd => exact execRfFrameEnd_keeps h
  | rfAgcBlock => exact execRfAgcBlock_keeps h
  | rfJamStart => exact execRfJamStart_keeps h
  | rfJamClear => exact execRfJamClear_keeps h
  | rfTxLaunch => exact execRfTxLaunch_keeps h
  | rfTxEnd => exact execRfTxEnd_keeps h
  | dutyBucketRoll => exact execDutyBucketRoll_keeps h
  | mshBeaconSend => exact execMshBeaconSend_keeps h
  | mshBeaconHeard => exact execMshBeaconHeard_keeps h
  | mshFrameReceived => exact execMshFrameReceived_keeps h
  | mshAckSend => exact execMshAckSend_keeps h
  | mshAckReceived => exact execMshAckReceived_keeps h
  | mshAckTimeout => exact execMshAckTimeout_keeps h
  | mshRetryOpportunity => exact execMshRetryOpportunity_keeps h
  | piggybackSend => exact execPiggybackSend_keeps h
  | nightSlotOccurrence => exact execNightSlotOccurrence_keeps h
  | floodCopySend => exact execFloodCopySend_keeps h
  | seenCacheExpiry => exact execSeenCacheExpiry_keeps h
  | mapApply => exact execMapApply_keeps h
  | atDatagramReceived => exact execAtDatagramReceived_keeps h
  | atCollectorDown => exact execAtCollectorDown_keeps h
  | mshSendExpired => exact execMshSendExpired_keeps h
  | mshConfig => exact execMshConfig_keeps h
  | mshSlotAdd => exact execMshSlotAdd_keeps h
  | mshSlotRemove => exact execMshSlotRemove_keeps h
  | mshSlotRemoveAll => exact execMshSlotRemoveAll_keeps h
  | mshNightslotSet => exact execMshNightslotSet_keeps h
  | mshNightslotClear => exact execMshNightslotClear_keeps h
  | mshSend => exact execMshSend_keeps h
  | mshFlood => exact execMshFlood_keeps h
  | mshBeaconSet => exact execMshBeaconSet_keeps h
  | mshStatus => exact execMshStatus_keeps h
  | fseIntake => exact execFseIntake_keeps h
  | fseVerdictRelease => exact execFseVerdictRelease_keeps h
  | fcsAfterVerdict => exact execFcsAfterVerdict_keeps h
  | frameSealCommit => exact execFrameSealCommit_keeps h
  | burstBufferLeave => exact execBurstBufferLeave_keeps h
  | stormSecond => exact execStormSecond_keeps h
  | stormAllowanceRefill => exact execStormAllowanceRefill_keeps h
  | contextCheckpoint => exact execContextCheckpoint_keeps h
  | checkpointWriteDone => exact execCheckpointWriteDone_keeps h
  | billingGapRefill => exact execBillingGapRefill_keeps h
  | epCreate => exact execEpCreate_keeps h
  | epRead => exact execEpRead_keeps h
  | epWriteAttr => exact execEpWriteAttr_keeps h
  | epWriteKeyset => exact execEpWriteKeyset_keeps h
  | epWriteRxwin => exact execEpWriteRxwin_keeps h
  | epWriteTxctr => exact execEpWriteTxctr_keeps h
  | epWriteReadwin => exact execEpWriteReadwin_keeps h
  | epWritePathclr => exact execEpWritePathclr_keeps h
  | epWriteSnapclr => exact execEpWriteSnapclr_keeps h
  | epWriteHost => exact execEpWriteHost_keeps h
  | epDelete => exact execEpDelete_keeps h
  | epLookup => exact execEpLookup_keeps h
  | epStats => exact execEpStats_keeps h
  | epStatsBackfill => exact execEpStatsBackfill_keeps h
  | codRecordCode => exact execCodRecordCode_keeps h
  | codCloseTimer => exact execCodCloseTimer_keeps h
  | codFlush => exact execCodFlush_keeps h
  | codQcommit => exact execCodQcommit_keeps h
  | codCloseResume => exact execCodCloseResume_keeps h
  | arcBlockTake => exact execArcBlockTake_keeps h
  | arcWriteComplete => exact execArcWriteComplete_keeps h
  | arcWriteFail => exact execArcWriteFail_keeps h
  | journalPageCommit => exact execJournalPageCommit_keeps h
  | mapImageWrite => exact execMapImageWrite_keeps h
  | deallocateDone => exact execDeallocateDone_keeps h
  | arcHealthPoll => exact execArcHealthPoll_keeps h
  | driveCommandTimeout => exact execDriveCommandTimeout_keeps h
  | driveHotplug => exact execDriveHotplug_keeps h
  | driveLoss => exact execDriveLoss_keeps h
  | rebuildCopyDone => exact execRebuildCopyDone_keeps h
  | blockReadDone => exact execBlockReadDone_keeps h
  | scrubRead => exact execScrubRead_keeps h
  | billingHoldDrain => exact execBillingHoldDrain_keeps h
  | arcNsCreate => exact execArcNsCreate_keeps h
  | arcNsChange => exact execArcNsChange_keeps h
  | arcNsDelete => exact execArcNsDelete_keeps h
  | arcNsReleaseSealed => exact execArcNsReleaseSealed_keeps h
  | arcQuery => exact execArcQuery_keeps h
  | arcExport => exact execArcExport_keeps h
  | arcDriveJoin => exact execArcDriveJoin_keeps h
  | arcDriveRejoin => exact execArcDriveRejoin_keeps h
  | arcDriveInit => exact execArcDriveInit_keeps h
  | arcDriveEvacuate => exact execArcDriveEvacuate_keeps h
  | arcDriveFail => exact execArcDriveFail_keeps h
  | arcStatus => exact execArcStatus_keeps h
  | arcSeal => exact execArcSeal_keeps h
  | losRecordTake => exact execLosRecordTake_keeps h
  | losLaneClose => exact execLosLaneClose_keeps h
  | losFeederEnergy => exact execLosFeederEnergy_keeps h
  | losVoltageMeans => exact execLosVoltageMeans_keeps h
  | losTopoLoad => exact execLosTopoLoad_keeps h
  | losConfig => exact execLosConfig_keeps h
  | losResultRead => exact execLosResultRead_keeps h
  | losPhaseRead => exact execLosPhaseRead_keeps h
  | losHistRead => exact execLosHistRead_keeps h
  | metSample => exact execMetSample_keeps h
  | metSecondMark => exact execMetSecondMark_keeps h
  | timeMarkMissing => exact execTimeMarkMissing_keeps h
  | metRegisterSave => exact execMetRegisterSave_keeps h
  | metPulseOut => exact execMetPulseOut_keeps h
  | tamperSample => exact execTamperSample_keeps h
  | nightTamperSample => exact execNightTamperSample_keeps h
  | metCalStore => exact execMetCalStore_keeps h
  | metSeal => exact execMetSeal_keeps h
  | metUnseal => exact execMetUnseal_keeps h
  | metRead => exact execMetRead_keeps h
  | metSealRead => exact execMetSealRead_keeps h
  | metAuditRead => exact execMetAuditRead_keeps h
  | metConfig => exact execMetConfig_keeps h
  | metTermAck => exact execMetTermAck_keeps h
  | bilIntervalTake => exact execBilIntervalTake_keeps h
  | bilIntervalApply => exact execBilIntervalApply_keeps h
  | tokenRequest => exact execTokenRequest_keeps h
  | partnerTokenRecord => exact execPartnerTokenRecord_keeps h
  | islandRecordAck => exact execIslandRecordAck_keeps h
  | bilReplayRecord => exact execBilReplayRecord_keeps h
  | bilCampaignWindowOpen => exact execBilCampaignWindowOpen_keeps h
  | bilCampaignWindowClose => exact execBilCampaignWindowClose_keeps h
  | bilCampaignDeadline => exact execBilCampaignDeadline_keeps h
  | bilCalendarLoad => exact execBilCalendarLoad_keeps h
  | bilRegsReadRaw => exact execBilRegsReadRaw_keeps h
  | bilRegsReadSigned => exact execBilRegsReadSigned_keeps h
  | bilCreditPush => exact execBilCreditPush_keeps h
  | bilCampaignStart => exact execBilCampaignStart_keeps h
  | bilBind => exact execBilBind_keeps h
  | bilRestore => exact execBilRestore_keeps h
  | bilRelease => exact execBilRelease_keeps h
  | bilAcceptShort => exact execBilAcceptShort_keeps h
  | bilLedgerRead => exact execBilLedgerRead_keeps h
  | bilCampaignAbort => exact execBilCampaignAbort_keeps h
  | keyCreateSet => exact execKeyCreateSet_keeps h
  | keyImportWrapped => exact execKeyImportWrapped_keeps h
  | keyImportPlain => exact execKeyImportPlain_keeps h
  | keyGenerate => exact execKeyGenerate_keeps h
  | keyDeleteSet => exact execKeyDeleteSet_keeps h
  | keyUpdateWrapped => exact execKeyUpdateWrapped_keeps h
  | keyUpdatePlain => exact execKeyUpdatePlain_keeps h
  | keyUpdateGenerate => exact execKeyUpdateGenerate_keeps h
  | keyInvalidate => exact execKeyInvalidate_keeps h
  | keyMirrorUpdate => exact execKeyMirrorUpdate_keeps h
  | keyAgree => exact execKeyAgree_keeps h
  | keyExport => exact execKeyExport_keeps h
  | keyAttest => exact execKeyAttest_keeps h
  | keyLifecycleAdvance => exact execKeyLifecycleAdvance_keeps h
  | keyStatus => exact execKeyStatus_keeps h
  | transportSlotLapse => exact execTransportSlotLapse_keeps h
  | timeTick => exact execTimeTick_keeps h
  | deviceSecond => exact execDeviceSecond_keeps h
  | ptpSyncReceived => exact execPtpSyncReceived_keeps h
  | ppsInEdge => exact execPpsInEdge_keeps h
  | partnerTimeExchange => exact execPartnerTimeExchange_keeps h
  | partnerTimeReply => exact execPartnerTimeReply_keeps h
  | ptpAnnounceTimeout => exact execPtpAnnounceTimeout_keeps h
  | sourceLossTimeout => exact execSourceLossTimeout_keeps h
  | sourceRevert => exact execSourceRevert_keeps h
  | holdoverExpiry => exact execHoldoverExpiry_keeps h
  | tickRefLoss => exact execTickRefLoss_keeps h
  | ptpSyncSend => exact execPtpSyncSend_keeps h
  | launchInsert => exact execLaunchInsert_keeps h
  | launchFire => exact execLaunchFire_keeps h
  | launchWithdraw => exact execLaunchWithdraw_keeps h
  | timRead => exact execTimRead_keeps h
  | timStep => exact execTimStep_keeps h
  | timSourceSet => exact execTimSourceSet_keeps h
  | timStatus => exact execTimStatus_keeps h
  | timSnap => exact execTimSnap_keeps h
  | updDownloadHost => exact execUpdDownloadHost_keeps h
  | updDownloadRelay => exact execUpdDownloadRelay_keeps h
  | updDiscardStaging => exact execUpdDiscardStaging_keeps h
  | flashGranuleDone => exact execFlashGranuleDone_keeps h
  | updVerify => exact execUpdVerify_keeps h
  | updActivate => exact execUpdActivate_keeps h
  | updActivateCancel => exact execUpdActivateCancel_keeps h
  | activationInstant => exact execActivationInstant_keeps h
  | confirmWindowWarning => exact execConfirmWindowWarning_keeps h
  | confirmWindowExpiry => exact execConfirmWindowExpiry_keeps h
  | updConfirm => exact execUpdConfirm_keeps h
  | updRollback => exact execUpdRollback_keeps h
  | updCampaignLoad => exact execUpdCampaignLoad_keeps h
  | updCampaignStart => exact execUpdCampaignStart_keeps h
  | updStatus => exact execUpdStatus_keeps h
  | updCampaignAbort => exact execUpdCampaignAbort_keeps h
  | updCampaignWindow => exact execUpdCampaignWindow_keeps h
  | updCampaignReportQuery => exact execUpdCampaignReportQuery_keeps h
  | updCampaignDeadline => exact execUpdCampaignDeadline_keeps h
  | relayOfferReceived => exact execRelayOfferReceived_keeps h
  | relayAcceptReceived => exact execRelayAcceptReceived_keeps h
  | relayRefuseReceived => exact execRelayRefuseReceived_keeps h
  | relayDataReceived => exact execRelayDataReceived_keeps h
  | relayAckReceived => exact execRelayAckReceived_keeps h
  | relayDoneReceived => exact execRelayDoneReceived_keeps h
  | relayResultReceived => exact execRelayResultReceived_keeps h
  | relayProgressTimeout => exact execRelayProgressTimeout_keeps h
  | loaderIdent => exact execLoaderIdent_keeps h
  | loaderErase => exact execLoaderErase_keeps h
  | loaderWrite => exact execLoaderWrite_keeps h
  | loaderRead => exact execLoaderRead_keeps h
  | loaderCheck => exact execLoaderCheck_keeps h
  | loaderSelect => exact execLoaderSelect_keeps h
  | loaderRestart => exact execLoaderRestart_keeps h
  | packetSilenceTimeout => exact execPacketSilenceTimeout_keeps h
  | svcIdent => exact execSvcIdent_keeps h
  | svcRegRead => exact execSvcRegRead_keeps h
  | sspPut => exact execSspPut_keeps h
  | sspGet => exact execSspGet_keeps h
  | sspStat => exact execSspStat_keeps h
  | ospResponseSend => exact execOspResponseSend_keeps h
  | ospFloodStart => exact execOspFloodStart_keeps h
  | ospFloodClear => exact execOspFloodClear_keeps h
  | ospResponseDrop => exact execOspResponseDrop_keeps h
  | ospFramingError => exact execOspFramingError_keeps h
  | ospLoaderMove => exact execOspLoaderMove_keeps h
  | tapInstructionLoad => exact execTapInstructionLoad_keeps h
  | tapReset => exact execTapReset_keeps h
  | parStatus => exact execParStatus_keeps h
  | parRoleStandby => exact execParRoleStandby_keeps h
  | parRoleSolo => exact execParRoleSolo_keeps h
  | parResync => exact execParResync_keeps h
  | parClaim => exact execParClaim_keeps h
  | parRelease => exact execParRelease_keeps h
  | releaseEchoReceived => exact execReleaseEchoReceived_keeps h
  | releaseEchoTimeout => exact execReleaseEchoTimeout_keeps h
  | parDigestRead => exact execParDigestRead_keeps h
  | parSelftest => exact execParSelftest_keeps h
  | ownInFall => exact execOwnInFall_keeps h
  | pairHeartbeatSend => exact execPairHeartbeatSend_keeps h
  | pairHeartbeatReceived => exact execPairHeartbeatReceived_keeps h
  | partnerLoss => exact execPartnerLoss_keeps h
  | pairLaneDown => exact execPairLaneDown_keeps h
  | releaseMessageReceived => exact execReleaseMessageReceived_keeps h
  | holdoffEnd => exact execHoldoffEnd_keeps h
  | shadowFrameReceived => exact execShadowFrameReceived_keeps h
  | counterMessageReceived => exact execCounterMessageReceived_keeps h
  | digestEpochEnd => exact execDigestEpochEnd_keeps h
  | digestExchange => exact execDigestExchange_keeps h
  | selftestPeriodic => exact execSelftestPeriodic_keeps h
  | fabBurstRequest => exact execFabBurstRequest_keeps h
  | fabBurstEnd => exact execFabBurstEnd_keeps h
  | quietRise => exact execQuietRise_keeps h
  | quietFall => exact execQuietFall_keeps h
  | vinCreate => exact execVinCreate_keeps h
  | vinReset => exact execVinReset_keeps h
  | vinDisable => exact execVinDisable_keeps h
  | vinQuotaSet => exact execVinQuotaSet_keeps h
  | vinStatus => exact execVinStatus_keeps h
  | vinDestroy => exact execVinDestroy_keeps h
  | fenceUnitAck => exact execFenceUnitAck_keeps h
  | fenceTimeout => exact execFenceTimeout_keeps h
  | vsenseFail => exact execVsenseFail_keeps h
  | sfailNLow => exact execSfailNLow_keeps h
  | sysRstNLow => exact execSysRstNLow_keeps h
  | referenceLoss => exact execReferenceLoss_keeps h
  | supplyValid => exact execSupplyValid_keeps h
  | duskSaveEnd => exact execDuskSaveEnd_keeps h
  | supplySwitchover => exact execSupplySwitchover_keeps h
  | dawnStageEnd => exact execDawnStageEnd_keeps h
  | domainRampDone => exact execDomainRampDone_keeps h
  | domainRampFault => exact execDomainRampFault_keeps h
  | vbatMeasure => exact execVbatMeasure_keeps h
  | pwrDomainOn => exact execPwrDomainOn_keeps h
  | pwrDomainOff => exact execPwrDomainOff_keeps h
  | pwrStatus => exact execPwrStatus_keeps h
  | pwrShutdownRestart => exact execPwrShutdownRestart_keeps h
  | pwrShutdownHalt => exact execPwrShutdownHalt_keeps h
  | evrEvent => exact execEvrEvent_keeps h
  | evrRecordCommit => exact execEvrRecordCommit_keeps h
  | evrHistPeriodEnd => exact execEvrHistPeriodEnd_keeps h
  | evrExtremesSample => exact execEvrExtremesSample_keeps h
  | evrCursorWrite => exact execEvrCursorWrite_keeps h
  | evrLoadDone => exact execEvrLoadDone_keeps h
  | evrWin15Read => exact execEvrWin15Read_keeps h
  | evrRead => exact execEvrRead_keeps h
  | evrClear => exact execEvrClear_keeps h
  | evrConfig => exact execEvrConfig_keeps h
  | thermalThreshold => exact execThermalThreshold_keeps h
  | dramScrub => exact execDramScrub_keeps h
  | dramUncorrectable => exact execDramUncorrectable_keeps h
  | dataLinkUp => exact execDataLinkUp_keeps h
  | perstDeassert => exact execPerstDeassert_keeps h
  | busMasterSet => exact execBusMasterSet_keeps h
  | d3hotExit => exact execD3hotExit_keeps h
  | sysRstNRise => exact execSysRstNRise_keeps h
  | pairLaneUp => exact execPairLaneUp_keeps h
  | ptpAnnounceReceived => exact execPtpAnnounceReceived_keeps h
  | ptpDelayMessageReceived => exact execPtpDelayMessageReceived_keeps h
  | ptpAnnounceSend => exact execPtpAnnounceSend_keeps h
  | ptpDelayRequestSend => exact execPtpDelayRequestSend_keeps h
  | releaseDrainExpiry => exact execReleaseDrainExpiry_keeps h
  | resyncRecordReceived => exact execResyncRecordReceived_keeps h
  | ledgerCopyReceived => exact execLedgerCopyReceived_keeps h
  | backfillTlpAcknowledged => exact execBackfillTlpAcknowledged_keeps h

/-- Every meaning is a next state by its definition: none faults and none refuses. -/
theorem exec_next (c : Instr) (s : State) : ∃ t, exec c s = .next t := by
  cases c <;> exact ⟨_, rfl⟩

/-- What an operation keeps, it keeps of a sound state. -/
theorem Keeps.sound {ps : List Part} {s t : State} (h : Keeps ps s t) (hs : s.Sound) : t.Sound := ⟨h.regs hs.1, h.flash hs.2⟩

/-- A step idles on an empty queue, or is the effect of the command at the front on the state with the rest of the queue (R23, R31). -/
theorem step_cases {s t : State} (h : step s = .next t) :
    t = s ∨ ∃ c rest, s.pending = c :: rest ∧ exec c { s with pending := rest } = .next t := by
  unfold step at h
  split at h
  next => exact .inl (Host.Outcome.next.inj h).symm
  next c rest hq => exact .inr ⟨c, rest, hq, h⟩

/-- Settles O3. -/
theorem everyCommandAnswers : Obligations.EveryCommandAnswers := exec_next

/-- Settles O5: taking a command from the queue touches neither register file nor flash, and each command's law keeps both forms. -/
theorem stepKeepsSound : Obligations.StepKeepsSound := by
  unfold Obligations.StepKeepsSound
  intro s t hs h
  rcases step_cases h with rfl | ⟨c, rest, _, hc⟩
  · exact hs
  · exact (exec_keeps hc).sound hs

/-- Settles O6: both lists are empty. -/
theorem resetIsSound : Obligations.ResetIsSound := ⟨rfl, rfl⟩

end Sys2Proof.Machine
end

section
/-! The register file under writes: the copies of a register that an operation leaves alone, the rows of the map, and what a write by access
code leaves (R9 to R14, R614). -/
namespace Sys2Proof.Machine

/-! ### Registers at an offset that an operation leaves alone -/

/-- Every copy of the register at an offset reads the same in both states. -/
def SameAt (off : Nat) (s t : State) : Prop := ∀ idx, t.regW (regKey off idx) = s.regW (regKey off idx)

theorem regKey_zero (off : Nat) : regKey off 0 = off := by simp [regKey]

theorem regKey_mod (off idx : Nat) : regKey off idx % keyStride = off % keyStride := Nat.mul_add_mod_self_right idx keyStride off

theorem SameAt.refl {off : Nat} {s : State} : SameAt off s s := fun _ => rfl

theorem SameAt.trans {off : Nat} {s t u : State} (h : SameAt off s t) (k : SameAt off t u) : SameAt off s u :=
  fun idx => (k idx).trans (h idx)

/-- A conditional operation after others. -/
theorem SameAt.ite {off : Nat} {c : Prop} [Decidable c] {s t u : State} (h : SameAt off s t) (k : SameAt off t u) :
    SameAt off s (if c then u else t) := by
  split
  · exact h.trans k
  · exact h

theorem SameAt.foldl {α : Type} {off : Nat} {f : State → α → State} (hf : ∀ u x, SameAt off u (f u x)) (l : List α) (s : State) :
    SameAt off s (l.foldl f s) := by
  induction l generalizing s with
  | nil => exact .refl
  | cons x l ih => exact (hf s x).trans (ih (f s x))

/-- An operation that may change no register of the window. -/
theorem SameAt.of_keeps {off : Nat} {ps : List Part} {s t : State} (h : Keeps ps s t) (hw : allows ps (.win (winOf off)) = false) :
    SameAt off s t := fun idx => h.frame _ hw _ (winOf_regKey off idx)

theorem SameAt.of_regs {off : Nat} {s t : State} (h : t.regs = s.regs) : SameAt off s t := fun _ => by rw [State.regW, State.regW, h]

theorem SameAt.setKey {off key : Nat} {w : Word} {s : State} (h : key % keyStride ≠ off % keyStride) : SameAt off s (s.setKey key w) :=
  fun idx => regW_setKey_other fun e => h (by rw [← e, regKey_mod])

theorem SameAt.setReg {off a v : Nat} {s : State} (h : a % keyStride ≠ off % keyStride) : SameAt off s (s.setReg a v) := .setKey h

theorem SameAt.setRegI {off a idx v : Nat} {s : State} (h : a % keyStride ≠ off % keyStride) : SameAt off s (s.setRegI a idx v) :=
  .setKey (by rwa [regKey_mod])

theorem SameAt.bump {off a : Nat} {s : State} (h : a % keyStride ≠ off % keyStride) : SameAt off s (s.bump a) := .setReg h

theorem SameAt.setPair {off a v : Nat} {s : State} (h : a % keyStride ≠ off % keyStride) (h' : (a + 4) % keyStride ≠ off % keyStride) :
    SameAt off s (s.setPair a v) := (SameAt.setReg h).trans (.setReg h')

theorem SameAt.regI {off : Nat} {s t : State} (h : SameAt off s t) (idx : Nat) : t.regI off idx = s.regI off idx :=
  congrArg BitVec.toNat (h idx)

theorem SameAt.reg {off : Nat} {s t : State} (h : SameAt off s t) : t.reg off = s.reg off := by
  have := h.regI 0
  rwa [State.regI, State.regI, regKey_zero] at this

theorem SameAt.locked {u : Nat} {s t : State} (h : SameAt (Reg.unitLock u) s t) : t.locked u = s.locked u := by
  rw [State.locked, State.regBit, h.reg, State.locked, State.regBit]

theorem reg_setReg_same {off v : Nat} {s : State} (h : s.regsOk = true) : (s.setReg off v).reg off = v % 2 ^ 32 := by
  rw [State.reg, State.setReg, regW_setKey_same h, BitVec.toNat_ofNat]

theorem testBit_putBit_same (w i : Nat) (b : Bool) : (putBit w i b).testBit i = b := by
  unfold putBit
  split
  · assumption
  · rename_i hw
    cases b with
    | true => simpa [Nat.add_comm w, Nat.testBit_two_pow_add_eq] using hw
    | false =>
      have hw : w.testBit i = true := by simpa using hw
      have hsub : w = 2 ^ i + (w - 2 ^ i) := by have := Nat.ge_two_pow_of_testBit hw; omega
      rw [hsub, Nat.testBit_two_pow_add_eq] at hw
      simpa using hw

theorem regBit_setRegBit_same {off i : Nat} {b : Bool} {s : State} (h : s.regsOk = true) (hi : i < 32) :
    (s.setRegBit off i b).regBit off i = b := by
  rw [State.regBit, State.setRegBit, reg_setReg_same h, bitAt, Nat.testBit_mod_two_pow, testBit_putBit_same, decide_eq_true hi, Bool.true_and]

/-! ### The register map -/

theorem off_of_rowAt {off : Nat} {r : Row} (h : rowAt off = some r) : r.off = off := by simpa using List.find?_some h

/-- A register lies in one of the 23 windows (R13). -/
theorem windowOf_lt_of_rowAt {off : Nat} {r : Row} (h : rowAt off = some r) : windowOf off < 23 := by
  refine Nat.lt_of_not_le fun hle => ?_
  obtain ⟨k, hk⟩ : ∃ k, windowOf off = k + 23 := ⟨windowOf off - 23, (Nat.sub_add_cancel hle).symm⟩
  rw [rowAt, hk] at h
  cases h

/-- A register and the word after it have keys within one stride. -/
theorem add_four_lt_of_rowAt {off : Nat} {r : Row} (h : rowAt off = some r) : off + 4 < keyStride := by
  have := windowOf_lt_of_rowAt h
  unfold windowOf at this
  unfold keyStride
  omega

theorem lt_of_rowAt {off : Nat} {r : Row} (h : rowAt off = some r) : off < keyStride := Nat.lt_of_le_of_lt (Nat.le_add_right off 4) (add_four_lt_of_rowAt h)

theorem lockViolation_lt {u : Nat} (h : u < 23) : Reg.lockViolation u < keyStride := by
  unfold Reg.lockViolation windowBase keyStride
  omega

theorem unitLock_lt {u : Nat} (h : u < 23) : Reg.unitLock u < keyStride := by
  unfold Reg.unitLock windowBase keyStride
  omega

/-- The registers of two offsets of the map have different keys. -/
theorem mod_ne_of_lt {a b : Nat} (ha : a < keyStride) (hb : b < keyStride) (h : a ≠ b) : a % keyStride ≠ b % keyStride := by
  rwa [Nat.mod_eq_of_lt ha, Nat.mod_eq_of_lt hb]

theorem SameAt.setKey_of_rowAt {off o idx : Nat} {w : Word} {r : Row} {s : State} (hr : rowAt off = some r) (ho : o < keyStride) (h : off ≠ o) :
    SameAt o s (s.setKey (regKey off idx) w) :=
  .setKey (by rw [regKey_mod]; exact mod_ne_of_lt (lt_of_rowAt hr) ho h)

namespace State

/-- A selection depends on the selecting registers alone (R614). -/
theorem selIndex_congr {s t : State} {l : List Sel} (h : ∀ x ∈ l, SameAt x.off s t) (i : Nat) : t.selIndex l i = s.selIndex l i := by
  induction l generalizing i with
  | nil => rfl
  | cons x l ih =>
    have hx := h x (List.mem_cons_self ..)
    simp only [selIndex, hx.reg, hx.regI, ih fun y hy => h y (List.mem_cons_of_mem _ hy)]

/-! ### Writes by access code (R9, R11, R12) -/

section
variable {r : Row} {idx v : Nat} {s : State}

theorem writeByCode_ro (ha : r.access = .ro) : s.writeByCode r idx v = s := by simp only [writeByCode, ha]

theorem writeByCode_rw (ha : r.access = .rw) (hh : s.heldByEnable r.off idx = false) :
    s.writeByCode r idx v =
      s.setKey (regKey r.off idx) (BitVec.ofNat 32 (maskedWrite r idx v) ||| (s.regW (regKey r.off idx) &&& BitVec.ofNat 32 (setOnly r.off))) := by
  simp only [writeByCode, ha, hh, Bool.false_eq_true, if_false]

theorem writeByCode_rwl_open (ha : r.access = .rwl) (hl : s.locked (windowOf r.off) = false) :
    s.writeByCode r idx v = s.setKey (regKey r.off idx) (BitVec.ofNat 32 (maskedWrite r idx v)) := by
  simp only [writeByCode, ha, hl, Bool.false_eq_true, if_false]

theorem writeByCode_rwl_locked (ha : r.access = .rwl) (hl : s.locked (windowOf r.off) = true) :
    s.writeByCode r idx v = s.lockViolation (windowOf r.off) := by
  simp only [writeByCode, ha, hl, if_true]

theorem writeByCode_w1c (ha : r.access = .w1c) :
    s.writeByCode r idx v = s.setKey (regKey r.off idx) (s.regW (regKey r.off idx) &&& ~~~ BitVec.ofNat 32 v) := by
  simp only [writeByCode, ha]

theorem writeByCode_w1s (ha : r.access = .w1s) :
    s.writeByCode r idx v = s.setKey (regKey r.off idx) (s.regW (regKey r.off idx) ||| BitVec.ofNat 32 (maskedWrite r idx v)) := by
  simp only [writeByCode, ha]

end

theorem toNat_and_mask (v : Word) (m : Nat) : (BitVec.ofNat 32 (v.toNat &&& m)).toNat = v.toNat &&& m :=
  (BitVec.toNat_ofNat ..).trans (Nat.mod_eq_of_lt (Nat.lt_of_le_of_lt Nat.and_le_left v.isLt))

theorem toNat_maskedWrite (r : Row) (idx : Nat) (v : Word) :
    (BitVec.ofNat 32 (maskedWrite r idx v.toNat)).toNat = v.toNat &&& copyMask r idx := toNat_and_mask v (copyMask r idx)

theorem toNat_setOnly (off : Nat) : (BitVec.ofNat 32 (setOnly off)).toNat = setOnly off := by
  unfold setOnly
  split <;> rfl

/-- A refused write changes its unit's LOCK_VIOLATION and no other register (R12). -/
theorem lockViolation_sameAt {off u : Nat} {s : State} (h : Reg.lockViolation u % keyStride ≠ off % keyStride) :
    SameAt off s (s.lockViolation u) := by
  refine (SameAt.bump h).trans ?_
  unfold lockViolation
  split <;> exact .of_regs rfl

/-- No register under LOCK is its unit's LOCK_VIOLATION, which is RC (R14). -/
theorem lockViolation_not_rwl {off : Nat} {r : Row} (hr : rowAt off = some r) (ha : r.access = .rwl) : Reg.lockViolation (windowOf off) ≠ off := by
  intro he
  have hmap : ∀ u < 23, (rowAt (Reg.lockViolation u)).all (fun r => r.access != .rwl) = true := by decide
  have h := hmap _ (windowOf_lt_of_rowAt hr)
  rw [he, hr, Option.all_some, ha] at h
  cases h

/-! ### What a write brings about besides the value -/

theorem setGain_sameAt {p g : Nat} {s : State} : SameAt Reg.RFX_PORT_CTRL s (s.setGain p g) := by
  unfold setGain
  dsimp only
  split
  · exact .refl
  · exact (SameAt.trans (.of_keeps modPort_keeps rfl) (.setRegI (by decide))).trans (.foldl (fun _ _ => .of_regs emit_regs) _ _)

theorem fixedGains_sameAt {s : State} : SameAt Reg.RFX_PORT_CTRL s s.fixedGains := by
  refine .foldl (fun u p => ?_) _ _
  dsimp only
  split
  · exact .refl
  · exact setGain_sameAt

theorem losCopy_sameAt {x : Rec} {s : State} : SameAt Reg.ING_CTRL s (s.losCopy x) := by
  unfold losCopy
  split
  · exact .bump (by decide)
  split
  · exact .of_regs setIng_regs
  · exact SameAt.trans (.of_regs rfl) (.bump (by decide))

theorem handRecord_sameAt {x : Rec} {billing topo : Bool} {s : State} : SameAt Reg.ING_CTRL s (s.handRecord x billing topo) := by
  unfold handRecord
  extract_lets st s1 _ s2 s3 s4
  have h1 : SameAt Reg.ING_CTRL s s1 := .of_keeps digestItem_keeps rfl
  have h2 : SameAt Reg.ING_CTRL s1 s2 := by
    unfold s2
    split
    · exact SameAt.trans (.bump (by decide)) (.of_keeps sunk_keeps rfl)
    · exact .of_regs rfl
  have h3 : SameAt Reg.ING_CTRL s2 s3 := SameAt.trans (.bump (by decide)) (.of_regs setIng_regs)
  have h4 : SameAt Reg.ING_CTRL s3 s4 := .ite .refl (.of_keeps billingCopy_keeps rfl)
  exact .ite (((h1.trans h2).trans h3).trans h4) losCopy_sameAt

theorem histGo_sameAt {s : State} : SameAt Reg.ING_CTRL s s.histGo := by
  unfold histGo
  split
  · exact .refl
  · split
    · exact .refl
    · exact ((SameAt.of_regs setIng_regs).trans handRecord_sameAt).trans (.bump (by decide))

theorem formHists_sameAt {p : Histo → Bool} {s : State} : SameAt Reg.ING_CTRL s (s.formHists p) := by
  unfold formHists
  exact (SameAt.of_regs setIng_regs).trans (.foldl (fun _ _ => histGo_sameAt) _ _)

theorem endStorm_sameAt {s : State} : SameAt Reg.ING_CTRL s s.endStorm := by
  unfold endStorm
  exact ((SameAt.of_regs setIng_regs).trans formHists_sameAt).trans (.of_keeps ingNotice_keeps rfl)

theorem stormOff_sameAt {s : State} : SameAt Reg.ING_CTRL s s.stormOff := by
  unfold stormOff
  exact .ite .refl (endStorm_sameAt.trans (.of_keeps gateNotices_keeps rfl))

/-- What follows a write leaves the register written as the write left it. -/
theorem afterWrite_sameAt {off : Nat} {s : State} : SameAt off s (s.afterWrite off) := by
  unfold afterWrite
  split
  next h => exact h ▸ fixedGains_sameAt
  split
  next h =>
    obtain ⟨rfl, _⟩ := h
    split
    · exact .of_keeps rampOne_keeps rfl
    · exact .of_keeps switchOff_keeps rfl
  split
  next h => exact h ▸ .of_keeps zcAuto_keeps rfl
  split
  next h => exact h ▸ stormOff_sameAt
  split
  · exact .of_regs rfl
  · exact .refl

end State

end Sys2Proof.Machine
end

section
/-! A DWORD written and a DWORD read: what each leaves in the register file and in the bridge (R7, R9, R11, R12, R109, R614). -/
namespace Sys2Proof.Machine

namespace State

/-! ### A DWORD written (R8, R9, R11, R614) -/

/-- The offsets whose writes go to the register table by access code alone: no MSI-X entry, no half of a pair, no row of its own. -/
def plainWrite (off : Nat) : Prop :=
  ¬ (0x1C000 ≤ off ∧ off < 0x20000) ∧ isLowOfPair off = false ∧ isHighOfPair off = false ∧ ownRow off = false

section
variable {fn off idx : Nat} {v : Word} {r : Row} {s : State}

theorem writeDword_unoccupied (hp : plainWrite off) (hr : rowAt off = none) : s.writeDword fn off v = s := by
  obtain ⟨hvec, hlow, hhigh, hown⟩ := hp
  simp only [writeDword, if_neg hvec, hlow, hhigh, hown, hr, Bool.false_eq_true, if_false]

theorem writeDword_register (hp : plainWrite off) (hr : rowAt off = some r) (hs : s.selIndex r.sels 0 = some idx) :
    s.writeDword fn off v = (s.writeByCode r idx v.toNat).afterWrite off := by
  obtain ⟨hvec, hlow, hhigh, hown⟩ := hp
  simp only [writeDword, if_neg hvec, hlow, hhigh, hown, hr, hs, Bool.false_eq_true, if_false]

/-- Nothing follows a write to a read-only register: those whose write brings something about are writable. -/
theorem afterWrite_ro (hr : rowAt off = some r) (ha : r.access = .ro) : s.afterWrite off = s := by
  have hmap : ∀ o ∈ [Reg.RFX_PORT_CTRL, Reg.PLC_CTRL, Reg.PLC_ZC_CFG, Reg.ING_CTRL, Reg.TIM_CTRL],
      (rowAt o).all (fun r => r.access != .ro) = true := by decide
  have hne : ∀ o ∈ [Reg.RFX_PORT_CTRL, Reg.PLC_CTRL, Reg.PLC_ZC_CFG, Reg.ING_CTRL, Reg.TIM_CTRL], off ≠ o := by
    rintro o ho rfl
    have h := hmap _ ho
    rw [hr, Option.all_some, ha] at h
    cases h
  simp only [List.forall_mem_cons] at hne
  obtain ⟨h1, h2, h3, h4, h5, _⟩ := hne
  rw [afterWrite, if_neg h1, if_neg fun h => h2 h.1, if_neg h3, if_neg h4, if_neg h5]

theorem writeDword_ro (hp : plainWrite off) (hr : rowAt off = some r) (hs : s.selIndex r.sels 0 = some idx) (ha : r.access = .ro) :
    s.writeDword fn off v = s := by
  rw [writeDword_register hp hr hs, writeByCode_ro ha, afterWrite_ro hr ha]

/-- What a register reads after a write is what the write by its code left. -/
theorem regW_writeDword (hp : plainWrite off) (hr : rowAt off = some r) (hs : s.selIndex r.sels 0 = some idx) :
    (s.writeDword fn off v).regW (regKey off idx) = (s.writeByCode r idx v.toNat).regW (regKey off idx) := by
  rw [writeDword_register hp hr hs]
  exact afterWrite_sameAt idx

end

/-! ### A whole register written by physical function 0 -/

section
variable {off idx : Nat} {v : Word} {r : Row} {s : State} (hok : s.regsOk = true) (hp : plainWrite off) (hr : rowAt off = some r)
  (hs : s.selIndex r.sels 0 = some idx)
include hok hp hr hs

theorem writeDword_rw (ha : r.access = .rw) (hh : s.heldByEnable off idx = false) :
    (s.writeDword 0 off v).regI off idx = (v.toNat &&& copyMask r idx) ||| (s.regI off idx &&& setOnly off) := by
  obtain rfl := off_of_rowAt hr
  rw [regI, regW_writeDword hp hr hs, writeByCode_rw ha hh, regW_setKey_same hok, BitVec.toNat_or, BitVec.toNat_and, toNat_maskedWrite,
    toNat_setOnly, regI]

theorem writeDword_rwl_open (ha : r.access = .rwl) (hl : s.locked (windowOf off) = false) :
    (s.writeDword 0 off v).regI off idx = v.toNat &&& copyMask r idx := by
  obtain rfl := off_of_rowAt hr
  rw [regI, regW_writeDword hp hr hs, writeByCode_rwl_open ha hl, regW_setKey_same hok, toNat_maskedWrite]

omit hok in
theorem writeDword_rwl_locked (ha : r.access = .rwl) (hl : s.locked (windowOf off) = true) :
    (s.writeDword 0 off v).regI off idx = s.regI off idx := by
  have hlt := lt_of_rowAt hr
  have hviol := mod_ne_of_lt (lockViolation_lt (windowOf_lt_of_rowAt hr)) hlt (lockViolation_not_rwl hr ha)
  obtain rfl := off_of_rowAt hr
  rw [regI, regW_writeDword hp hr hs, writeByCode_rwl_locked ha hl]
  exact (lockViolation_sameAt hviol).regI idx

theorem writeDword_w1c (ha : r.access = .w1c) :
    (s.writeDword 0 off v).regW (regKey off idx) = s.regW (regKey off idx) &&& ~~~ v := by
  obtain rfl := off_of_rowAt hr
  rw [regW_writeDword hp hr hs, writeByCode_w1c ha, regW_setKey_same hok, BitVec.ofNat_toNat, BitVec.setWidth_eq]

theorem writeDword_w1s (ha : r.access = .w1s) :
    (s.writeDword 0 off v).regW (regKey off idx) = s.regW (regKey off idx) ||| (v &&& BitVec.ofNat 32 (copyMask r idx)) := by
  obtain rfl := off_of_rowAt hr
  rw [regW_writeDword hp hr hs, writeByCode_w1s ha, regW_setKey_same hok, maskedWrite, BitVec.ofNat_and, BitVec.ofNat_toNat, BitVec.setWidth_eq]

end

/-! ### A DWORD read (R7, R9, R109) -/

/-- The high word of a pair latched by the read of copy `idx` of its low word (R7). -/
def latchHigh (fn off idx : Nat) (s : State) : State :=
  { s with hbr := { s.hbr with holding := s.hbr.holding.put fn (BitVec.ofNat 32 (s.shown (off + 4) idx)) } }

/-- The clear that a read of copy `idx` of an RC register brings, of the whole of a pair (R9, R235). -/
def clearRead (off idx : Nat) (r : Row) (s : State) : State :=
  let s := if r.access = .rc then s.setKey (regKey off idx) (resetOf (regKey off idx)) else s
  if rcPair off then s.setKey (regKey (off + 4) idx) (resetOf (regKey (off + 4) idx)) else s

/-- What a read of copy `idx` of a register leaves behind. -/
def readEffect (fn off idx : Nat) (r : Row) (s : State) : State :=
  let s := clearRead off idx r (if readLow off then latchHigh fn off idx s else s)
  if off = Reg.HBR_HELD_LOST then s.setPair Reg.HBR_HELD_FIRST_LOST_LO 0 else s

section
variable {fn off idx : Nat} {r : Row} {s : State}

theorem plainRead_iff : plainRead off = true ↔ ¬ ((0x1BF80 ≤ off ∧ off < 0x20000) ∨ (windowBase 20 + 0x20 ≤ off ∧ off ≤ windowBase 20 + 0x3C)
    ∨ (windowBase 21 + 0x40 ≤ off ∧ off ≤ windowBase 21 + 0x7C)) := by
  rw [plainRead, ← Bool.decide_or, ← Bool.decide_or, Bool.not_eq_true', decide_eq_false_iff_not, or_assoc]

theorem readDword_register (hp : plainRead off = true) (hr : rowAt off = some r) (hs : s.selIndex r.sels 0 = some idx)
    (hhigh : readLow (off - 4) = false) :
    s.readDword fn off = (if r.access = .wo then 0 else s.shown off idx, s.readEffect fn off idx r) := by
  simp only [readDword, if_neg (plainRead_iff.1 hp), hr, hs, hhigh, Bool.and_false, Bool.false_eq_true, if_false, readEffect, clearRead, latchHigh]

/-- A read of the high word of a pair answers the word latched and leaves everything as it is (R7). -/
theorem readDword_latched {w : Word} (hp : plainRead off = true) (hr : rowAt off = some r) (hs : s.selIndex r.sels 0 = some idx)
    (hoff : 4 ≤ off) (hhigh : readLow (off - 4) = true) (hw : s.hbr.holding.get? fn = some w) : s.readDword fn off = (w.toNat, s) := by
  simp only [readDword, if_neg (plainRead_iff.1 hp), hr, hs, hhigh, decide_eq_true hoff, Bool.and_self, if_true, hw]

theorem clearRead_hbr : (s.clearRead off idx r).hbr = s.hbr := by
  unfold clearRead
  dsimp only
  rw [apply_ite hbr, setKey_hbr, ite_self, apply_ite hbr, setKey_hbr, ite_self]

theorem clearRead_sameAt {o : Nat} (h : off % keyStride ≠ o % keyStride) (h' : (off + 4) % keyStride ≠ o % keyStride) :
    SameAt o s (s.clearRead off idx r) := by
  unfold clearRead
  exact .ite (.ite .refl (.setKey (by rwa [regKey_mod]))) (.setKey (by rwa [regKey_mod]))

theorem readEffect_hbr : (s.readEffect fn off idx r).hbr = (if readLow off then s.latchHigh fn off idx else s).hbr := by
  unfold readEffect
  dsimp only
  split
  · exact (setPair_keeps.frame .hbr rfl).trans clearRead_hbr
  · exact clearRead_hbr

theorem readEffect_idoCpl : (s.readEffect fn off idx r).hbr.idoCpl = s.hbr.idoCpl := by
  rw [readEffect_hbr]
  split <;> rfl

/-- A read of a low word latches the high word (R7). -/
theorem readEffect_holding (hl : readLow off = true) :
    (s.readEffect fn off idx r).hbr.holding.get? fn = some (BitVec.ofNat 32 (s.shown (off + 4) idx)) := by
  rw [readEffect_hbr, if_pos hl]
  exact Tab.get_put_same

theorem readLow_mem (hl : readLow off = true) : off ∈ pairLows := by simpa [readLow] using hl

/-- A read of a low word changes its pair's registers alone. -/
theorem readEffect_sameAt {o : Nat} (hl : readLow off = true) (h : off % keyStride ≠ o % keyStride)
    (h' : (off + 4) % keyStride ≠ o % keyStride) : SameAt o s (s.readEffect fn off idx r) := by
  have hlost : off ≠ Reg.HBR_HELD_LOST := by
    rintro rfl
    exact absurd hl (by decide)
  unfold readEffect
  rw [if_neg hlost, if_pos hl]
  exact SameAt.trans (.of_regs rfl) (clearRead_sameAt h h')

end

end State

end Sys2Proof.Machine
end

section
/-! The writable pairs (R8) and the sending side of the seam (R20). -/
namespace Sys2Proof.Machine

namespace State

/-! ### The writable pairs (R8) -/

/-- A half of a writable pair: RW or RWL, with no field of another code and no mask of its own copies, and not its unit's LOCK. -/
def plainHalf (off : Nat) : Bool :=
  (rowAt off).all (fun r => r.access == .rw || r.access == .rwl) && off != Reg.ING_PROF_DATA && setOnly off == 0
    && off != Reg.unitLock (windowOf off)

/-- Both halves of a writable pair are plain, in one window, with one access code. -/
def plainPair (lo : Nat) : Bool :=
  plainHalf lo && plainHalf (lo + 4) && windowOf lo == windowOf (lo + 4)
    && (rowAt lo).map (·.access) == (rowAt (lo + 4)).map (·.access)

theorem plainPair_of_isLowOfPair {lo : Nat} (h : isLowOfPair lo = true) : plainPair lo = true := by
  have hall : ∀ o ∈ [Reg.CMD_SQ_BASE_LO, Reg.CMD_CQ_BASE_LO, Reg.HBR_NR_BASE_LO, Reg.UPD_PRED_EUI_LO], plainPair o = true := by decide
  exact hall lo (of_decide_eq_true h)

/-- The pair of a high word. -/
theorem plainPair_of_isHighOfPair {off : Nat} (h : isHighOfPair off = true) : 4 ≤ off ∧ plainPair (off - 4) = true := by
  obtain ⟨hlow, hoff⟩ := Bool.and_eq_true_iff.1 h
  exact ⟨of_decide_eq_true hoff, plainPair_of_isLowOfPair hlow⟩

theorem heldByEnable_congr {off idx : Nat} {s t : State} (hc : t.cmd = s.cmd) (hr : t.hbr.rings = s.hbr.rings) :
    t.heldByEnable off idx = s.heldByEnable off idx := by
  simp only [heldByEnable, queue, ring, hc, hr]

/-- A write to a half of a writable pair leaves the masked value (R9, R11, R12). -/
theorem writeByCode_half {off idx v : Nat} {r : Row} {s : State} (hp : plainHalf off = true) (hr : rowAt off = some r)
    (hh : s.heldByEnable off idx = false) (hl : r.access = .rwl → s.locked (windowOf off) = false) :
    s.writeByCode r idx v = s.setKey (regKey off idx) (BitVec.ofNat 32 (v &&& r.mask)) := by
  obtain rfl := off_of_rowAt hr
  simp only [plainHalf, hr, Option.all_some, Bool.and_eq_true, Bool.or_eq_true, beq_iff_eq, bne_iff_ne] at hp
  obtain ⟨⟨⟨hacc, hprof⟩, hset⟩, _⟩ := hp
  have hmask : maskedWrite r idx v = v &&& r.mask := by rw [maskedWrite, copyMask, if_neg hprof]
  rcases hacc with ha | ha
  · rw [writeByCode_rw ha hh, hmask, hset]
    simp only [BitVec.and_zero, BitVec.or_zero]
  · rw [writeByCode_rwl_open ha (hl ha), hmask]

/-- A pair's staged low word is taken. -/
def unstage (fn off : Nat) (s : State) : State := { s with hbr := { s.hbr with staged := s.hbr.staged.del (stagedKey fn off) } }

theorem unstage_sameAt {fn off o : Nat} {s : State} : SameAt o s (s.unstage fn off) := .of_regs rfl

theorem commitHigh_not_refused {fn off : Nat} {hi : Row} {s : State} (hl : hi.access = .rwl → s.locked (windowOf off) = false) :
    ¬ (decide (hi.access = .rwl) && (s.unstage fn (off - 4)).locked (windowOf off)) = true := by
  rw [unstage_sameAt.locked]
  simpa using hl

section
variable {fn off idx : Nat} {v : Word} {hi lo : Row} {s : State} (hhi : rowAt off = some hi) (hlo : rowAt (off - 4) = some lo)
  (hs : s.selIndex hi.sels 0 = some idx) (hl : hi.access = .rwl → s.locked (windowOf off) = false)
include hhi hlo hs hl

theorem commitHigh_of_staged {w : Word} (hw : s.hbr.staged.get? (stagedKey fn (off - 4)) = some w) :
    s.commitHigh fn off v = ((s.unstage fn (off - 4)).writeByCode lo idx w.toNat).writeByCode hi idx v.toNat := by
  unfold commitHigh
  simp only [hhi, hlo, hs, hw]
  exact if_neg (commitHigh_not_refused hl)

theorem commitHigh_of_none (hw : s.hbr.staged.get? (stagedKey fn (off - 4)) = none) :
    s.commitHigh fn off v = (s.unstage fn (off - 4)).writeByCode hi idx v.toNat := by
  unfold commitHigh
  simp only [hhi, hlo, hs, hw]
  exact if_neg (commitHigh_not_refused hl)

end

/-- The two halves of a pair that is written by its high word. -/
theorem halves_of_pair {off : Nat} {hi lo : Row} (hp : isHighOfPair off = true) (hhi : rowAt off = some hi)
    (hlo : rowAt (off - 4) = some lo) :
    4 ≤ off ∧ plainHalf off = true ∧ plainHalf (off - 4) = true ∧ windowOf (off - 4) = windowOf off ∧ lo.access = hi.access := by
  obtain ⟨hoff, hpair⟩ := plainPair_of_isHighOfPair hp
  simp only [plainPair, Nat.sub_add_cancel hoff, hhi, hlo, Bool.and_eq_true, beq_iff_eq, Option.map_some, Option.some.injEq] at hpair
  obtain ⟨⟨⟨hlow, hhigh⟩, hwin⟩, hacc⟩ := hpair
  exact ⟨hoff, hhigh, hlow, hwin, hacc⟩

/-- Setting a half of a pair leaves its unit's LOCK. -/
theorem locked_setKey_half {off idx : Nat} {w : Word} {r : Row} {s : State} (hp : plainHalf off = true) (hr : rowAt off = some r) :
    (s.setKey (regKey off idx) w).locked (windowOf off) = s.locked (windowOf off) := by
  have hlock : off ≠ Reg.unitLock (windowOf off) := by
    simp only [plainHalf, Bool.and_eq_true, bne_iff_ne] at hp
    exact hp.2
  exact (SameAt.setKey_of_rowAt hr (unitLock_lt (windowOf_lt_of_rowAt hr)) hlock).locked

section
variable {fn off idx : Nat} {v : Word} {hi lo : Row} {s : State} (hok : s.regsOk = true) (hp : isHighOfPair off = true)
  (hhi : rowAt off = some hi) (hlo : rowAt (off - 4) = some lo) (hs : s.selIndex hi.sels 0 = some idx)
  (hh : s.heldByEnable off idx = false) (hl : hi.access = .rwl → s.locked (windowOf off) = false)
include hok hp hhi hlo hs hh hl

/-- A high word commits with the low word staged (R8). -/
theorem commitHigh_staged {w : Word} (hh' : s.heldByEnable (off - 4) idx = false) (hw : s.hbr.staged.get? (stagedKey fn (off - 4)) = some w) :
    (s.commitHigh fn off v).regI off idx = v.toNat &&& hi.mask ∧ (s.commitHigh fn off v).regI (off - 4) idx = w.toNat &&& lo.mask := by
  obtain ⟨hoff, hhigh, hlow, hwin, hacc⟩ := halves_of_pair hp hhi hlo
  have hwlo : (s.unstage fn (off - 4)).writeByCode lo idx w.toNat =
      (s.unstage fn (off - 4)).setKey (regKey (off - 4) idx) (BitVec.ofNat 32 (w.toNat &&& lo.mask)) := by
    refine writeByCode_half hlow hlo ((heldByEnable_congr rfl rfl).trans hh') fun ha => ?_
    rw [unstage_sameAt.locked, hwin]
    exact hl (hacc ▸ ha)
  have hok1 : (s.unstage fn (off - 4)).regsOk = true := hok
  generalize hs2 : (s.unstage fn (off - 4)).setKey (regKey (off - 4) idx) (BitVec.ofNat 32 (w.toNat &&& lo.mask)) = s2 at hwlo
  have hheld : s2.heldByEnable off idx = false := by
    rw [← hs2]
    exact (heldByEnable_congr (setKey_keeps.frame .cmd rfl) (congrArg (·.rings) (setKey_keeps.frame .hbr rfl))).trans hh
  have hwhi : s2.writeByCode hi idx v.toNat = s2.setKey (regKey off idx) (BitVec.ofNat 32 (v.toNat &&& hi.mask)) := by
    refine writeByCode_half hhigh hhi hheld fun ha => ?_
    rw [← hs2, ← hwin, locked_setKey_half hlow hlo, hwin, unstage_sameAt.locked]
    exact hl ha
  have hok2 : s2.regsOk = true := hs2 ▸ regsOk_setKey hok1
  have hother : SameAt (off - 4) s2 (s2.setKey (regKey off idx) (BitVec.ofNat 32 (v.toNat &&& hi.mask))) :=
    .setKey_of_rowAt hhi (lt_of_rowAt hlo) (by omega)
  rw [commitHigh_of_staged hhi hlo hs hl hw, hwlo, hwhi]
  refine ⟨?_, ?_⟩
  · rw [regI, regW_setKey_same hok2, toNat_and_mask]
  · rw [hother.regI, regI, ← hs2, regW_setKey_same hok1, toNat_and_mask]

/-- A high word commits alone where no low word is staged (R8). -/
theorem commitHigh_alone (hw : s.hbr.staged.get? (stagedKey fn (off - 4)) = none) :
    (s.commitHigh fn off v).regI off idx = v.toNat &&& hi.mask ∧ (s.commitHigh fn off v).regI (off - 4) idx = s.regI (off - 4) idx := by
  obtain ⟨hoff, hhigh, -, -, -⟩ := halves_of_pair hp hhi hlo
  have hok1 : (s.unstage fn (off - 4)).regsOk = true := hok
  have hwhi : (s.unstage fn (off - 4)).writeByCode hi idx v.toNat =
      (s.unstage fn (off - 4)).setKey (regKey off idx) (BitVec.ofNat 32 (v.toNat &&& hi.mask)) :=
    writeByCode_half hhigh hhi ((heldByEnable_congr rfl rfl).trans hh) fun ha => unstage_sameAt.locked.trans (hl ha)
  have hother : SameAt (off - 4) (s.unstage fn (off - 4)) ((s.unstage fn (off - 4)).setKey (regKey off idx) (BitVec.ofNat 32 (v.toNat &&& hi.mask))) :=
    .setKey_of_rowAt hhi (lt_of_rowAt hlo) (by omega)
  rw [commitHigh_of_none hhi hlo hs hl hw, hwhi]
  refine ⟨?_, (unstage_sameAt.trans hother).regI idx⟩
  rw [regI, regW_setKey_same hok1, toNat_and_mask]

end

/-! ### The seam (R20, R96) -/

/-- With nothing waiting, a packet handed to the seam leaves at once (R20). -/
theorem seamSend_head {d : Die} {cls : Nat} {b : Bytes} {s : State} (h : s.seam.waiting = []) :
    ∃ p c, (s.seamSend d cls b).out.head? = some (.seam p c) ∧ p.fromDie = d ∧ p.cls = cls ∧ p.body = .bytes b := by
  simp only [seamSend, seamDrain, seamPut, h, List.nil_append, sortOn, insertOn, List.foldl_cons, List.foldl_nil, seamOut]
  exact ⟨_, _, rfl, rfl, rfl, rfl⟩

@[simp] theorem seamSend_hbr {d : Die} {cls : Nat} {b : Bytes} {s : State} : (s.seamSend d cls b).hbr = s.hbr := seamSend_keeps.frame .hbr rfl

end State

end Sys2Proof.Machine
end

section
/-! The rows of host accesses (R7 to R9, R85, R86, R89, R92 to R96). -/
namespace Sys2Proof.Machine

namespace State

/-! ### Reads that answer (R7, R9, R85, R92) -/

theorem filter_lanes : (List.range 4).filter (bitAt 15) = List.range 4 := by decide

theorem le_four_getD (x : Nat) : (List.range 4).map (fun j => (le 4 x).getD j 0#8) = le 4 x := rfl

theorem enabledBytes_one (w : Word) : State.enabledBytes 15 [w] = le 4 w.toNat := by
  show (((List.range 4).filter (bitAt 15)).map fun j => (le 4 w.toNat).getD j 0#8) ++ [] = _
  rw [filter_lanes, le_four_getD, List.append_nil]

theorem enabledBytes_two (w x : Word) : State.enabledBytes 255 [w, x] = le 4 w.toNat ++ le 4 x.toNat := by
  show (((List.range 4).filter (bitAt 15)).map fun j => (le 4 w.toNat).getD j 0#8)
    ++ ((((List.range 4).filter (bitAt 15)).map fun j => (le 4 x.toNat).getD j 0#8) ++ []) = _
  rw [filter_lanes, le_four_getD, le_four_getD, List.append_nil]

theorem answerRead_head {fn lanes : Nat} {ws : List Word} {s : State} :
    (s.answerRead fn lanes ws).out.head? = some (.readAnswer fn s.hbr.idoCpl (enabledBytes lanes ws)) := rfl

@[simp] theorem answerRead_hbr {fn lanes : Nat} {ws : List Word} {s : State} : (s.answerRead fn lanes ws).hbr = s.hbr := rfl

theorem answerRead_regW {fn lanes : Nat} {ws : List Word} {s : State} (key : Nat) : (s.answerRead fn lanes ws).regW key = s.regW key := rfl

theorem readDwords_one {fn off : Nat} {s : State} :
    s.readDwords fn 1 off = ([BitVec.ofNat 32 (s.readDword fn off).1], (s.readDword fn off).2) := rfl

theorem readDwords_two {fn off : Nat} {s : State} :
    s.readDwords fn 2 off = ([BitVec.ofNat 32 (s.readDword fn off).1, BitVec.ofNat 32 ((s.readDword fn off).2.readDword fn (off + 4)).1],
      ((s.readDword fn off).2.readDword fn (off + 4)).2) := rfl

theorem dwordsOf_one {fn bar off : Nat} {f : Nat → Nat} : dwordsOf ⟨fn, bar, off, 4⟩ f = [BitVec.ofNat 32 (f off)] := by
  simp [dwordsOf]

/-- The selectors of a pair's low word stand outside the pair (R7, R614). -/
theorem sels_apart {off : Nat} {r : Row} (hl : readLow off = true) (hr : rowAt off = some r) :
    ∀ x ∈ r.sels, off % keyStride ≠ x.off % keyStride ∧ (off + 4) % keyStride ≠ x.off % keyStride := by
  have hmap : ∀ o ∈ pairLows, (rowAt o).all (fun r => r.sels.all fun x =>
      o % keyStride != x.off % keyStride && (o + 4) % keyStride != x.off % keyStride) = true := by decide +kernel
  have h := hmap off (readLow_mem hl)
  rw [hr, Option.all_some, List.all_eq_true] at h
  exact fun x hx => by simpa only [Bool.and_eq_true, bne_iff_ne] using h x hx

section
variable {fn off idx : Nat} {r : Row} {s : State}

theorem selectorInvalid_hbr : (s.selectorInvalid off).hbr = s.hbr := selectorInvalid_keeps.frame .hbr rfl

theorem readEffect_hbr_holding : (s.readEffect fn off idx r).hbr = { s.hbr with holding := (s.readEffect fn off idx r).hbr.holding } := by
  rw [readEffect_hbr]
  split <;> rfl

theorem clearRead_clears (hok : s.regsOk = true) (hr : rowAt off = some r) (ha : r.access = .rc) :
    (s.clearRead off idx r).regW (regKey off idx) = resetOf (regKey off idx) := by
  have hhigh : SameAt off (s.setKey (regKey off idx) (resetOf (regKey off idx))) (s.clearRead off idx r) := by
    unfold clearRead
    rw [if_pos ha]
    exact .ite .refl (.setKey (by rw [regKey_mod]; exact mod_ne_of_lt (add_four_lt_of_rowAt hr) (lt_of_rowAt hr) (by omega)))
  rw [hhigh, regW_setKey_same hok]

/-- A read of an RC register leaves its reset value (R9). -/
theorem readEffect_clears (hok : s.regsOk = true) (hr : rowAt off = some r) (ha : r.access = .rc) :
    (s.readEffect fn off idx r).regW (regKey off idx) = resetOf (regKey off idx) := by
  unfold readEffect
  generalize hs0 : (if readLow off then s.latchHigh fn off idx else s) = s0
  have hok0 : s0.regsOk = true := by
    rw [← hs0]
    split <;> exact hok
  have hlost : SameAt off (s0.clearRead off idx r)
      (if off = Reg.HBR_HELD_LOST then (s0.clearRead off idx r).setPair Reg.HBR_HELD_FIRST_LOST_LO 0 else s0.clearRead off idx r) := by
    split
    next h => exact h ▸ .setPair (by decide) (by decide)
    · exact .refl
  rw [hlost, clearRead_clears hok0 hr ha]

/-- A read changes nothing of the bridge but the holding registers of R7. -/
theorem readDword_hbr : (s.readDword fn off).2.hbr = { s.hbr with holding := (s.readDword fn off).2.hbr.holding } := by
  unfold readDword
  split
  · rfl
  split
  · rfl
  next r _ =>
    split
    · rw [selectorInvalid_hbr]
    next idx _ =>
      split
      · split <;> rfl
      · exact readEffect_hbr_holding

theorem readDwords_hbr {n : Nat} : (s.readDwords fn n off).2.hbr = { s.hbr with holding := (s.readDwords fn n off).2.hbr.holding } := by
  induction n generalizing off s with
  | zero => rfl
  | succ n ih => exact (ih (off := off + 4) (s := (s.readDword fn off).2)).trans (by rw [readDword_hbr]; rfl)

theorem readDword_idoCpl : (s.readDword fn off).2.hbr.idoCpl = s.hbr.idoCpl := by rw [readDword_hbr]

/-- Both words of a pair, read in one access (R7, R93). -/
theorem readDwords_pair {hi : Row} (hp : plainRead off = true) (hl : readLow off = true) (hhigh : readLow (off - 4) = false)
    (hr : rowAt off = some r) (ha : r.access ≠ .wo) (hs : s.selIndex r.sels 0 = some idx) (hhi : rowAt (off + 4) = some hi)
    (hsels : hi.sels = r.sels) (hp' : plainRead (off + 4) = true) :
    s.readDwords fn 2 off = ([BitVec.ofNat 32 (s.shown off idx), BitVec.ofNat 32 (s.shown (off + 4) idx)], s.readEffect fn off idx r) := by
  have hsel : (s.readEffect fn off idx r).selIndex hi.sels 0 = some idx := by
    rw [hsels, selIndex_congr fun x hx => readEffect_sameAt hl (sels_apart hl hr x hx).1 (sels_apart hl hr x hx).2, hs]
  have hsecond := readDword_latched hp' hhi hsel (Nat.le_add_left 4 off) (by rwa [Nat.add_sub_cancel]) (readEffect_holding (fn := fn) hl)
  rw [readDwords_two, readDword_register hp hr hs hhigh, if_neg ha, hsecond, BitVec.ofNat_toNat, BitVec.setWidth_eq]

end
end State

open State

/-! ### The rows of host accesses -/

theorem breaksBoundary_dword {a : BarAccess} (hlen : a.len = 4) (halign : a.off % 4 = 0) : breaksBoundary a = false := by
  simp only [breaksBoundary, hlen, Bool.and_eq_false_iff, Bool.or_eq_false_iff, decide_eq_false_iff_not]
  omega

section
variable {a : BarAccess} {s : State}

/-- A write by physical function 0 to BAR0 within the limits of R94. -/
theorem exec_hostRegisterWrite_bar0 {ws : List HostWord} (hf : a.fn = 0) (hb : a.bar = 0) (hlim : breaksBoundary a = false)
    (hend : a.off + a.len ≤ 0x4000000) : exec (.hostRegisterWrite a ws) s = .next (s.writeDwords 0 ws a.off) := by
  have hsize : ¬ barSize 0 0 < a.off + a.len := Nat.not_lt.2 hend
  show execHostRegisterWrite a ws s = _
  simp only [execHostRegisterWrite, hf, hb, hlim, if_neg hsize]
  rfl

/-- A request that runs past the end of BAR0 does not reach the part (R86). -/
theorem exec_hostRegisterWrite_past {ws : List HostWord} (hf : a.fn = 0) (hb : a.bar = 0) (hlim : breaksBoundary a = false)
    (hend : 0x4000000 < a.off + a.len) : exec (.hostRegisterWrite a ws) s = .next s := by
  have hsize : barSize 0 0 < a.off + a.len := hend
  show execHostRegisterWrite a ws s = _
  simp only [execHostRegisterWrite, hf, hb, hlim, if_pos hsize]
  rfl

theorem writeDwords_full {fn off : Nat} {w : HostWord} (hw : w.full = true) : s.writeDwords fn [w] off = s.writeDword fn off w.value := by
  simp only [writeDwords, hw, if_true]

variable {lanes : Nat}

/-- A DWORD read by physical function 0 outside the seam's windows (R9, R96). -/
theorem exec_rcRegisterRead_dword (hf : a.fn = 0) (hb : a.bar = 0) (hlen : a.len = 4) (halign : a.off % 4 = 0) (hend : a.off < 0x4000000)
    (hseam : seamWindow a.off = false) : exec (.rcRegisterRead a lanes) s =
      .next ((s.readDword 0 a.off).2.answerRead 0 lanes [BitVec.ofNat 32 (s.readDword 0 a.off).1]) := by
  have hsize : ¬ barSize 0 0 < a.off + 4 := Nat.not_lt.2 (by unfold barSize; simp only [ne_eq, not_true_eq_false, if_false, if_true]; omega)
  show execRcRegisterRead a lanes s = _
  simp only [execRcRegisterRead, hf, hb, breaksBoundary_dword hlen halign, hlen, if_neg hsize, hseam]
  rfl

/-- A DWORD read by a virtual function, of its own BAR0 (R89, R535). -/
theorem exec_rcRegisterRead_vf (hf : a.fn ≠ 0) (hv : s.vfExists a.fn = true) (hb : a.bar = 0) (hlen : a.len = 4) (halign : a.off % 4 = 0)
    (hend : a.off < 0x10000) : exec (.rcRegisterRead a lanes) s = .next (s.answerRead a.fn lanes [BitVec.ofNat 32 (s.vfWord a.fn a.off)]) := by
  have hsize : ¬ barSize a.fn 0 < a.off + 4 := by
    rw [barSize, if_pos hf, if_pos rfl]
    omega
  have hword : dwordsOf a (s.vfWord a.fn) = [BitVec.ofNat 32 (s.vfWord a.fn a.off)] := by
    rw [← dwordsOf_one (fn := a.fn) (bar := a.bar), ← hlen]
  show execRcRegisterRead a lanes s = _
  simp only [execRcRegisterRead, hv, hb, breaksBoundary_dword hlen halign, hlen, if_neg hsize, hword, if_pos hf, Bool.not_true, Bool.and_false]
  rfl

end

section
variable {off : Nat} {s : State}

/-- A low-word read by physical function 0 outside the seam's windows (R7, R96). -/
theorem exec_lowWordRead_low (hseam : seamWindow off = false) : exec (.lowWordRead 0 off false) s =
    .next ((s.readDword 0 off).2.answerRead 0 15 [BitVec.ofNat 32 (s.readDword 0 off).1]) := by
  show execLowWordRead 0 off false s = _
  simp only [execLowWordRead, hseam]
  rfl

theorem exec_lowWordRead_both (hseam : seamWindow off = false) : exec (.lowWordRead 0 off true) s =
    .next ((s.readDwords 0 2 off).2.answerRead 0 255 (s.readDwords 0 2 off).1) := by
  show execLowWordRead 0 off true s = _
  simp only [execLowWordRead, hseam]
  rfl

theorem exec_lowWordRead_vf {fn : Nat} (hf : fn ≠ 0) (hv : s.vfExists fn = true) : exec (.lowWordRead fn off false) s =
    .next (s.answerRead fn 15 [BitVec.ofNat 32 (s.vfWord fn off)]) := by
  show execLowWordRead fn off false s = _
  simp only [execLowWordRead, if_pos hf, hv, if_true, Bool.false_eq_true, if_false, Nat.mul_one, dwordsOf_one]

theorem exec_lowWordWrite_pair {value : Word} (hl : isLowOfPair off = true) :
    exec (.lowWordWrite 0 off value) s = .next (s.stageLow 0 off value) := by
  show execLowWordWrite 0 off value s = _
  simp only [execLowWordWrite, hl]
  rfl

theorem exec_highWordWrite_pair {value : Word} (hp : isHighOfPair off = true) :
    exec (.highWordWrite 0 off value) s = .next (s.commitHigh 0 off value) := by
  show execHighWordWrite 0 off value s = _
  simp only [execHighWordWrite, hp]
  rfl

theorem exec_unitLockWrite_set {unit : Nat} {value : Word} (hu : unit < 23) (hv : bitAt value.toNat 0 = true) :
    exec (.unitLockWrite unit value) s = .next (s.setRegBit (Reg.unitLock unit) 0 true) := by
  show execUnitLockWrite unit value s = _
  simp only [execUnitLockWrite, decide_eq_true hu, hv, Bool.and_self, if_true]

theorem exec_seamWindowRead_seam (hw : seamWindow off = true) :
    exec (.seamWindowRead 0 off) s = .next (s.seamRead { fn := 0, off := off }) := by
  show execSeamWindowRead 0 off s = _
  simp only [execSeamWindowRead, hw]
  rfl

end

/-- The state in which the response to a seam-window read has been answered (R92, R96). -/
def State.seamAnswer (r : SeamRead) (s : State) : State :=
  (s.readDwords r.fn r.words r.off).2.answerRead r.fn r.lanes (s.readDwords r.fn r.words r.off).1

theorem seamAnswer_seamWait {r : SeamRead} {s : State} : (s.seamAnswer r).hbr.seamWait = s.hbr.seamWait := by
  rw [seamAnswer, answerRead_hbr, readDwords_hbr]

/-- A read of one register is answered with the word that stands there when the response comes (R96). -/
theorem seamAnswer_head {fn off : Nat} {s : State} : (s.seamAnswer { fn := fn, off := off }).out.head? =
    some (.readAnswer fn s.hbr.idoCpl (le 4 ((s.readDword fn off).1 % 2 ^ 32))) := by
  rw [seamAnswer, answerRead_head, readDwords_one, readDword_idoCpl, enabledBytes_one, BitVec.toNat_ofNat]

section
variable {r w : SeamRead} {t ws : List SeamRead} {s : State}

theorem exec_seamWindowReadResponse_last (hr : s.hbr.seamReads = r :: t) (hw : s.hbr.seamWait = []) :
    exec .seamWindowReadResponse s = .next { s.seamAnswer r with hbr := { (s.seamAnswer r).hbr with seamReads := t } } := by
  have hwait := (seamAnswer_seamWait (r := r)).trans hw
  rw [seamAnswer] at hwait
  show execSeamWindowReadResponse s = _
  simp only [execSeamWindowReadResponse, hr, hwait, seamAnswer]

theorem exec_seamWindowReadResponse_next (hr : s.hbr.seamReads = r :: t) (hw : s.hbr.seamWait = w :: ws) :
    exec .seamWindowReadResponse s = .next (State.seamSend .noon 7 (le 4 w.off)
      { s.seamAnswer r with hbr := { (s.seamAnswer r).hbr with seamReads := t ++ [w], seamWait := ws } }) := by
  have hwait := (seamAnswer_seamWait (r := r)).trans hw
  rw [seamAnswer] at hwait
  show execSeamWindowReadResponse s = _
  simp only [execSeamWindowReadResponse, hr, hwait, seamAnswer]

end

/-- What a whole-DWORD write by physical function 0 leaves, where the request does not break the limits of R94. -/
theorem exec_hostRegisterWrite_dword {a : BarAccess} {w : HostWord} {s : State} (hf : a.fn = 0) (hb : a.bar = 0)
    (hlim : breaksBoundary a = false) (hw : w.full = true) :
    exec (.hostRegisterWrite a [w]) s = .next (if a.off + a.len ≤ 0x4000000 then s.writeDword 0 a.off w.value else s) := by
  split
  next hend => rw [exec_hostRegisterWrite_bar0 hf hb hlim hend, writeDwords_full hw]
  next hend => exact exec_hostRegisterWrite_past hf hb hlim (Nat.lt_of_not_le hend)

/-- A write of several DWORDs is the write of the first and then of the others (R93). -/
theorem exec_hostRegisterWrite_cons {off : Nat} {w : HostWord} {ws : List HostWord} {s : State}
    (hpage : off % 65536 + 4 * (ws.length + 1) ≤ 65536) (hlen : ws.length < 16) (hoff : off < 0x4000000) :
    exec (.hostRegisterWrite ⟨0, 0, off, 4 * (ws.length + 1)⟩ (w :: ws)) s = .next ((s.writeDwords 0 [w] off).writeDwords 0 ws (off + 4)) := by
  refine exec_hostRegisterWrite_bar0 rfl rfl ?_ (by show off + 4 * (ws.length + 1) ≤ 0x4000000; omega)
  simp only [breaksBoundary, Bool.and_eq_false_iff, Bool.or_eq_false_iff, decide_eq_false_iff_not]
  omega

end Sys2Proof.Machine
end

section
/-! The statements about host accesses. -/
namespace Sys2Proof.Machine

open State

/-- Settles O22: such a write reaches the register table, where a read-only register and an empty offset leave the state as it is. -/
theorem readOnlyKept : Obligations.ReadOnlyKept := by
  unfold Obligations.ReadOnlyKept
  intro a w s hf hb hlim hw hvec hlow hhigh hown hrow
  have hp : plainWrite a.off := ⟨hvec, hlow, hhigh, hown⟩
  have hkept : s.writeDword 0 a.off w.value = s := by
    rcases hrow with hnone | ⟨r, hr, hro, hsels⟩
    · exact writeDword_unoccupied hp hnone
    · exact writeDword_ro hp hr (idx := 0) (by rw [hsels]; rfl) hro
  refine ⟨s, ?_, fun _ => rfl⟩
  rw [exec_hostRegisterWrite_dword hf hb hlim hw, hkept, ite_self]

/-- Settles O23: each row is its operation on the state (the lemmas `exec_…`), and the operations' own lemmas say what it leaves. -/
theorem hostAccessCompletes : Obligations.HostAccessCompletes := by
  unfold Obligations.HostAccessCompletes
  refine ⟨?_, ?_, ?_, ?_, ?_, ?_, ?_, ?_, ?_, ?_, ?_, ?_, ?_, ?_, ?_, ?_⟩
  · intro a w r idx s ⟨hok, _⟩ ⟨hf, hb, hlen, halign, hend, hw⟩ ⟨hvec, hlow, hhigh, hown⟩ ⟨hr, hs, hh⟩
    have hp : plainWrite a.off := ⟨hvec, hlow, hhigh, hown⟩
    have hin : a.off + a.len ≤ 0x4000000 := by omega
    have hexec := exec_hostRegisterWrite_dword (s := s) hf hb (breaksBoundary_dword hlen halign) hw
    rw [if_pos hin] at hexec
    exact ⟨_, hexec, fun ha => writeDword_rw hok hp hr hs ha hh, fun ha hl => writeDword_rwl_open hok hp hr hs ha hl,
      fun ha hl => writeDword_rwl_locked hp hr hs ha hl, fun ha => writeDword_w1c hok hp hr hs ha, fun ha => writeDword_w1s hok hp hr hs ha⟩
  · intro off w ws s ⟨hpage, hlen, hoff⟩
    refine ⟨_, exec_hostRegisterWrite_cons hpage hlen hoff, _, exec_hostRegisterWrite_cons (ws := []) (by rw [List.length_nil]; omega) (by decide) hoff, ?_⟩
    cases ws with
    | nil => rfl
    | cons x xs =>
      simp only [List.length_cons] at hpage hlen
      rw [if_neg (List.cons_ne_nil x xs)]
      exact exec_hostRegisterWrite_cons (by omega) (by omega) (by omega)
  · intro a lanes r idx s ⟨hok, _⟩ ⟨hf, hb, hlen, halign, hend, hseam⟩ ⟨hp, hhigh⟩ ⟨hr, hs, ha⟩
    refine ⟨_, exec_rcRegisterRead_dword hf hb hlen halign hend hseam, ?_⟩
    dsimp only
    rw [readDword_register hp hr hs hhigh, if_neg ha, answerRead_head, readEffect_idoCpl]
    exact ⟨rfl, fun hrc => readEffect_clears hok hr hrc⟩
  · intro a lanes r idx w s ⟨hf, hb, hlen, halign, hfour, hend, hseam⟩ ⟨hp, hhigh, hr, hs⟩ hw
    refine ⟨_, exec_rcRegisterRead_dword hf hb hlen halign hend hseam, ?_⟩
    dsimp only
    rw [readDword_latched hp hr hs hfour hhigh hw, answerRead_head, BitVec.ofNat_toNat, BitVec.setWidth_eq]
    exact ⟨rfl, answerRead_regW⟩
  · intro a lanes s ⟨hf, hv, hb, hlen, halign, hend⟩
    exact ⟨_, exec_rcRegisterRead_vf hf hv hb hlen halign hend, answerRead_head, answerRead_regW⟩
  · intro off r idx s ⟨hp, hl, hhigh, hseam⟩ ⟨hr, hs, ha⟩
    refine ⟨_, exec_lowWordRead_low hseam, ?_⟩
    dsimp only
    rw [readDword_register hp hr hs hhigh, if_neg ha, answerRead_head, readEffect_idoCpl, enabledBytes_one, BitVec.toNat_ofNat]
    exact ⟨rfl, readEffect_holding hl⟩
  · intro off r hi idx s ⟨hp, hl, hhigh, hseam⟩ ⟨hr, ha, hs, hhi, hsels, hp'⟩
    refine ⟨_, exec_lowWordRead_both hseam, ?_⟩
    dsimp only
    rw [readDwords_pair hp hl hhigh hr ha hs hhi hsels hp', answerRead_head, readEffect_idoCpl, enabledBytes_two, BitVec.toNat_ofNat,
      BitVec.toNat_ofNat]
  · intro fn off s ⟨hf, hv⟩
    refine ⟨_, exec_lowWordRead_vf hf hv, ?_, answerRead_regW⟩
    rw [answerRead_head, enabledBytes_one, BitVec.toNat_ofNat]
  · intro off value r idx s ⟨hl, hr, hs⟩
    refine ⟨_, exec_lowWordWrite_pair hl, ?_⟩
    simp only [stageLow, hr, hs]
    exact ⟨Tab.get_put_same, fun _ => rfl⟩
  · intro off value w hi lo idx s ⟨hok, _⟩ ⟨hp, hhi, hlo⟩ ⟨hs, hh, hh'⟩ hl hw
    exact ⟨_, exec_highWordWrite_pair hp, commitHigh_staged hok hp hhi hlo hs hh hl hh' hw⟩
  · intro off value hi lo idx s ⟨hok, _⟩ ⟨hp, hhi, hlo⟩ ⟨hs, hh⟩ hl hw
    exact ⟨_, exec_highWordWrite_pair hp, commitHigh_alone hok hp hhi hlo hs hh hl hw⟩
  · intro unit value s ⟨hok, _⟩ ⟨hu, hv⟩
    exact ⟨_, exec_unitLockWrite_set hu hv, regBit_setRegBit_same hok (by decide)⟩
  · intro off s ⟨hw, hroom, hempty⟩
    refine ⟨_, exec_seamWindowRead_seam hw, ?_⟩
    dsimp only
    rw [seamRead, if_pos hroom, seamSend_hbr]
    exact ⟨rfl, seamSend_head hempty⟩
  · intro off s ⟨hw, hfull⟩
    refine ⟨_, exec_seamWindowRead_seam hw, ?_⟩
    rw [seamRead, if_neg (Nat.not_lt.2 hfull)]
    exact ⟨rfl, rfl, rfl⟩
  · intro fn off rest s ⟨hr, hw⟩
    exact ⟨_, exec_seamWindowReadResponse_last hr hw, rfl, seamAnswer_head⟩
  · intro r w rest ws s ⟨hr, hw⟩
    refine ⟨_, exec_seamWindowReadResponse_next hr hw, ?_⟩
    simp only [seamSend_hbr, and_self]

end Sys2Proof.Machine
end

section
/-! The statements about every command and its frame (R9, R23, R31, R407). -/
namespace Sys2Proof.Machine

/-- Only KEY.LIFECYCLE.ADVANCE has the life-cycle state among the parts it may change (R407). -/
theorem mayChange_life {i : Instr}
    (h : ∀ c target confirm digest auth recordOk, i ≠ .keyLifecycleAdvance c target confirm digest auth recordOk) :
    allows (mayChange i) .life = false := by
  cases i with
  | keyLifecycleAdvance => exact absurd rfl (h _ _ _ _ _ _)
  | _ => rfl

theorem step_cons {c : Instr} {rest : List Instr} {s : State} (h : s.pending = c :: rest) :
    step s = exec c { s with pending := rest } := by
  unfold step
  rw [h]

theorem step_nil {s : State} (h : s.pending = []) : step s = .next s := by
  unfold step
  rw [h]

/-- Settles O1: `step` on a queue with a front. -/
theorem stepRunsFront : Obligations.StepRunsFront := fun _ _ _ => step_cons

/-- Settles O2: `step` on an empty queue. -/
theorem emptyQueueIdles : Obligations.EmptyQueueIdles := fun _ => step_nil

/-- Settles O4: each row's law leaves the queue as it is. -/
theorem queueUntouched : Obligations.QueueUntouched := fun _ _ _ h => (exec_keeps h).pending

/-- Settles O8: the parts that a row's law leaves open are those that `mayChange` lists for it. -/
theorem frameControl : Obligations.FrameControl := fun _ _ _ _ h => (exec_keeps h).toFrame

/-- Settles O9, as for the rows of the control sector. -/
theorem frameField : Obligations.FrameField := fun _ _ _ _ h => (exec_keeps h).toFrame

/-- Settles O10, as for the rows of the control sector. -/
theorem frameData : Obligations.FrameData := fun _ _ _ _ h => (exec_keeps h).toFrame

/-- Settles O11, as for the rows of the control sector. -/
theorem frameIsland : Obligations.FrameIsland := fun _ _ _ _ h => (exec_keeps h).toFrame

/-- Settles O14: the life-cycle state is a part that every other row leaves out of its list. -/
theorem lifeCycleGuarded : Obligations.LifeCycleGuarded := fun _ _ _ hi h => (exec_keeps h).frame .life (mayChange_life hi)

end Sys2Proof.Machine
end

section
/-! A fence and the other instances (R39, R528 to R531). -/
namespace Sys2Proof.Machine

namespace State

/-- Instance `k` reads the same in both states. -/
def SameInst (k : Nat) (s t : State) : Prop := t.inst k = s.inst k

theorem SameInst.trans {k : Nat} {s t u : State} (h : SameInst k s t) (j : SameInst k t u) : SameInst k s u := Eq.trans j h

/-- An operation that may not change VIN. -/
theorem SameInst.of_keeps {k : Nat} {ps : List Part} {s t : State} (h : Keeps ps s t) (hv : allows ps .vin = false) : SameInst k s t := by
  rw [SameInst, inst, h.frame .vin hv, inst]

theorem SameInst.foldl {α : Type} {k : Nat} {f : State → α → State} (hf : ∀ u x, SameInst k u (f u x)) (l : List α) (s : State) :
    SameInst k s (l.foldl f s) := by
  induction l generalizing s with
  | nil => rfl
  | cons x l ih => exact (hf s x).trans (ih (f s x))

section
variable {k i : Nat} {s : State}

theorem SameInst.setInst {x : Inst} (h : k ≠ i) : SameInst k s (s.setInst i x) := by
  show (Tab.get? (Tab.put s.vin.insts i x) k).getD {} = (Tab.get? s.vin.insts k).getD {}
  rw [Tab.get_put_other h]

/-- The durable copies stand apart from the entries they are taken of (R533). -/
theorem saveInst_sameInst : SameInst k s (s.saveInst i) := rfl

/-- A fence starts, or is joined, in its own entry of VIN (R525, R528, R532). -/
theorem fenceStart_sameInst {cause : Nat} {disable : Bool} {c : Option CmdRef} (h : k ≠ i) :
    SameInst k s (s.fenceStart i cause disable c) := by
  unfold fenceStart
  dsimp only
  split
  · rfl
  · exact .setInst h
  · exact ((((SameInst.setInst h).trans (.of_keeps emit_keeps rfl)).trans (.of_keeps fenceNotice_keeps rfl)).trans
      (.of_keeps codPart_keeps rfl)).trans (.of_keeps markOld_keeps rfl)

/-- A fence ends in its own entry of VIN (R531). -/
theorem fenceEnd_sameInst {f : Fence} (h : k ≠ i) : SameInst k s (s.fenceEnd i f) := by
  unfold fenceEnd
  extract_lets x length s1 s2 s3 s4
  have h1 : SameInst k s s1 := .setInst h
  have h3 : SameInst k s2 s3 := SameInst.foldl (fun _ _ => .of_keeps replyWith_keeps rfl) _ _
  have h4 : SameInst k s3 s4 := by
    unfold s4
    split
    · exact .of_keeps bilReady_keeps rfl
    · rfl
  exact ((((h1.trans saveInst_sameInst).trans h3).trans h4).trans (.of_keeps maxReg_keeps rfl)).trans (.of_keeps fenceNotice_keeps rfl)

/-- A fence not acknowledged in time faults in its own entry of VIN (R531). -/
theorem fenceFault_sameInst {f : Fence} (h : k ≠ i) : SameInst k s (s.fenceFault i f) := by
  unfold fenceFault
  extract_lets x length s1 s2 s3
  have h1 : SameInst k s s1 := .setInst h
  have h2 : SameInst k s1 s2 := SameInst.foldl (fun _ _ => .of_keeps reply_keeps rfl) _ _
  have h3 : SameInst k s2 s3 :=
    ((SameInst.of_keeps bump_keeps rfl).trans (.of_keeps maxReg_keeps rfl)).trans (.of_keeps log_keeps rfl)
  exact ((h1.trans h2).trans h3).trans (.of_keeps fenceNotice_keeps rfl)

/-- The fence that VIN.RESET, VIN.DISABLE or VIN.DESTROY starts after its QUEUED answer (R62, R528). -/
theorem queuedFence_sameInst {c : CmdRef} {cause : Nat} {disable : Bool} (h : k ≠ c.inst) :
    SameInst k s ((s.replyQueued c).fenceStart c.inst cause disable (some c)) :=
  .trans (.of_keeps replyQueued_keeps rfl) (fenceStart_sameInst h)

end

end State

open State

section
variable {k : Nat} {s t : State}

theorem execVinReset_sameInst {c : CmdRef} (hk : k ≠ c.inst) (h : execVinReset c s = .next t) : SameInst k s t := by
  obtain rfl := Host.Outcome.next.inj h
  split
  · exact .of_keeps reply_keeps rfl
  · exact queuedFence_sameInst hk

theorem execVinDisable_sameInst {c : CmdRef} (hk : k ≠ c.inst) (h : execVinDisable c s = .next t) : SameInst k s t := by
  obtain rfl := Host.Outcome.next.inj h
  split
  · exact .of_keeps reply_keeps rfl
  · exact queuedFence_sameInst hk

theorem execVinDestroy_sameInst {c : CmdRef} {confirm : Nat} {ckptOk : Bool} (hk : k ≠ c.inst)
    (h : execVinDestroy c confirm ckptOk s = .next t) : SameInst k s t := by
  obtain rfl := Host.Outcome.next.inj h
  dsimp only
  split
  · exact .of_keeps reply_keeps rfl
  split
  · exact .of_keeps reply_keeps rfl
  split
  · exact .of_keeps replyWith_keeps rfl
  split
  · exact .of_keeps reply_keeps rfl
  · exact queuedFence_sameInst hk

theorem execFenceUnitAck_sameInst {i : Nat} {u : FenceUnit} (hk : k ≠ i) (h : execFenceUnitAck i u s = .next t) : SameInst k s t := by
  obtain rfl := Host.Outcome.next.inj h
  split
  · rfl
  split
  · rfl
  dsimp only
  split
  · exact .trans (.of_keeps unitPart_keeps rfl) (fenceEnd_sameInst hk)
  · exact .trans (.of_keeps unitPart_keeps rfl) (.setInst hk)

theorem execFenceTimeout_sameInst {i : Nat} (hk : k ≠ i) (h : execFenceTimeout i s = .next t) : SameInst k s t := by
  obtain rfl := Host.Outcome.next.inj h
  split
  · rfl
  split
  · rfl
  · exact fenceFault_sameInst hk

end

/-- Settles O20: each of the five rows writes no entry of VIN but its own. -/
theorem fenceLeavesOthers : Obligations.FenceLeavesOthers := fun _ _ _ =>
  ⟨fun _ => execVinReset_sameInst, fun _ => execVinDisable_sameInst, fun _ _ _ => execVinDestroy_sameInst,
    fun _ _ => execFenceUnitAck_sameInst, fun _ => execFenceTimeout_sameInst⟩

end Sys2Proof.Machine
end

section
/-! The rows that launch frames while a permit is down (R32). -/
namespace Sys2Proof.Machine

namespace State

/-! ### The power line -/

/-- A fired launch is taken out of TIM alone (R443). -/
theorem takeFired_tim {e : Launch} {s u : State} (h : s.takeFired = some (e, u)) : ∃ q, u = { s with tim := q } := by
  unfold takeFired at h
  split at h
  · cases h
  · cases h
    exact ⟨_, rfl⟩

section
variable {s : State}

theorem dropSend_onAir {id : Nat} : (s.dropSend id).plc.onAir = s.plc.onAir := rfl

/-- A frame that ends, or contends again, leaves the frame on the line (R145). -/
theorem endSend_onAir {id status lq : Nat} : (s.endSend id status lq).plc.onAir = s.plc.onAir := by
  unfold endSend
  split
  · rfl
  · dsimp only
    split
    · exact dropSend_onAir.trans (congrArg Plc.onAir (replyWith_keeps.frame .plc rfl))
    · rfl

theorem notLaunched_onAir {x : PlcSend} : (s.notLaunched x).plc.onAir = s.plc.onAir := by
  unfold notLaunched
  split
  · exact (congrArg Plc.onAir (sunk_keeps.frame .plc rfl)).trans dropSend_onAir
  split
  · exact endSend_onAir
  · rfl

end

/-! ### The radio -/

theorem takeFiredRf_tim {e : Launch} {s u : State} (h : s.takeFiredRf = some (e, u)) : ∃ q, u = { s with tim := q } := by
  unfold takeFiredRf at h
  split at h
  · cases h
  · cases h
    exact ⟨_, rfl⟩

theorem takeBeaconCfg_permits {edge : Nat} {s : State} : (s.takeBeaconCfg edge).permits = s.permits := by
  unfold takeBeaconCfg
  split
  · split
    · rfl
    · rfl
  · rfl

theorem takeBeaconCfg_rfx {edge : Nat} {s : State} : (s.takeBeaconCfg edge).rfx = s.rfx := takeBeaconCfg_keeps.frame .rfx rfl

section
variable {s : State} {x : MshSend} {port ch rate instant : Nat} {piggy : Bool} (hp : s.permits = false)
include hp

/-- Without both permits no unicast attempt is formed (R196). -/
theorem formUnicast_none_of_noPermits (x : MshSend) (port ch rate instant : Nat) (piggy : Bool) :
    ∃ u, s.formUnicast x port ch rate instant piggy = (u, none) ∧ u.rfx = s.rfx := by
  have hnone : (s.formUnicast x port ch rate instant piggy).2 = none := by
    unfold formUnicast
    split
    · rfl
    · rw [hp, Bool.not_false, if_pos rfl]
  exact ⟨_, Prod.ext rfl hnone, formUnicast_keeps.frame .rfx rfl⟩

theorem sendUnicast_false_of_noPermits (x : MshSend) (port ch rate instant : Nat) (piggy : Bool) :
    ∃ u, s.sendUnicast x port ch rate instant piggy = (u, false) ∧ u.rfx = s.rfx := by
  obtain ⟨u, hu, hr⟩ := formUnicast_none_of_noPermits hp x port ch rate instant piggy
  unfold sendUnicast
  split
  · exact ⟨s, rfl, rfl⟩
  · exact ⟨u, by rw [hu], hr⟩

theorem countedSend_rfx_of_noPermits : (s.countedSend x port ch rate instant piggy).rfx = s.rfx := by
  obtain ⟨u, hu, hr⟩ := sendUnicast_false_of_noPermits hp x port ch rate instant piggy
  rw [countedSend, hu]
  exact hr

theorem sendFired_rfx_of_noPermits : (s.sendFired x port ch instant).rfx = s.rfx := by
  obtain ⟨u, hu, hr⟩ := formUnicast_none_of_noPermits hp x port ch x.rate instant false
  rw [sendFired, hu]
  exact hr

/-- A fired launch of the radio ends its send, waits, or forms no frame (R183, R209). -/
theorem launchMsh_rfx_of_noPermits : (s.launchMsh x port instant).rfx = s.rfx := by
  have hend (st : Nat) : (s.endMsh x.id st 0).rfx = s.rfx := endMsh_keeps.frame .rfx rfl
  unfold launchMsh
  dsimp only
  split
  · rfl
  split
  · rfl
  split
  · split
    · exact hend _
    · rfl
  split
  · split
    · exact hend _
    · rfl
  split
  · exact hend _
  · exact sendFired_rfx_of_noPermits hp

theorem retryNow_rfx_of_noPermits : (s.retryNow x).rfx = s.rfx := by
  unfold retryNow
  split
  · rfl
  · dsimp only
    split
    · rfl
    · obtain ⟨u, hu, hr⟩ := sendUnicast_false_of_noPermits hp x (homeOf (s.hopCtx x)).1 (homeOf (s.hopCtx x)).2.1 x.rate
        (s.rfSoon (homeOf (s.hopCtx x)).1) false
      rw [hu]
      exact hr

theorem nightSlot_rfx_of_noPermits {i : Nat} {n : Night} : (s.nightSlot i n).rfx = s.rfx := by
  unfold nightSlot
  dsimp only
  split
  · rfl
  split
  · exact guardSkip_keeps.frame .rfx rfl
  split
  · rfl
  split
  · rfl
  · exact countedSend_rfx_of_noPermits hp

/-- A beacon due is skipped (R185). -/
theorem sendBeacon_rfx_of_noPermits {edge : Nat} {b : BeaconCfg} : (s.sendBeacon port edge instant b).rfx = s.rfx := by
  unfold sendBeacon
  rw [hp, Bool.not_false, Bool.true_or, Bool.true_or]
  dsimp only
  rw [if_pos rfl]
  exact bump_keeps.frame .rfx rfl

theorem beaconDue_rfx_of_noPermits : (s.beaconDue port).rfx = s.rfx := by
  unfold beaconDue
  extract_lets edge b instant s1
  split
  · rfl
  split
  · exact takeBeaconCfg_rfx
  · exact (sendBeacon_rfx_of_noPermits (takeBeaconCfg_permits.trans hp)).trans takeBeaconCfg_rfx

theorem floodCopy_rfx_of_noPermits : (s.floodCopy x port).rfx = s.rfx := by
  unfold floodCopy
  extract_lets b ch rate len start stop
  split
  · rfl
  split
  · exact endMsh_keeps.frame .rfx rfl
  · rw [hp, Bool.not_false, if_pos rfl]

end

end State

open State

/-! ### The rows -/

section
variable {s t : State} (hp : s.permits = false)
include hp

theorem execPlcLaunch_onAir_of_noPermits (h : execPlcLaunch s = .next t) : t.plc.onAir = s.plc.onAir := by
  obtain rfl := Host.Outcome.next.inj h
  split
  · rfl
  next e u hfired =>
    obtain ⟨q, rfl⟩ := takeFired_tim hfired
    split
    · rfl
    split
    · rfl
    · rw [if_pos (by rw [show State.permits { s with tim := q } = false from hp]; rfl)]
      exact notLaunched_onAir

theorem execPlcAckSend_onAir_of_noPermits {id : Nat} (h : execPlcAckSend id s = .next t) : t.plc.onAir = s.plc.onAir := by
  obtain rfl := Host.Outcome.next.inj h
  split
  · rfl
  split
  · rfl
  dsimp only
  split
  · rfl
  split
  · split
    · rfl
    · rfl
  split
  · rfl
  · rw [if_pos (by rw [show State.permits (s.setPlc _) = false from hp, Bool.not_false, Bool.or_true, Bool.true_or])]
    rfl

theorem execRfTxLaunch_rfx_of_noPermits (h : execRfTxLaunch s = .next t) : t.rfx = s.rfx := by
  obtain rfl := Host.Outcome.next.inj h
  split
  · rfl
  next e u hfired =>
    obtain ⟨q, rfl⟩ := takeFiredRf_tim hfired
    split
    · rfl
    · exact launchMsh_rfx_of_noPermits hp

theorem execMshBeaconSend_rfx_of_noPermits {port : Nat} (h : execMshBeaconSend port s = .next t) : t.rfx = s.rfx := by
  obtain rfl := Host.Outcome.next.inj h
  split
  · exact beaconDue_rfx_of_noPermits hp
  · rfl

theorem execMshAckSend_rfx_of_noPermits (h : execMshAckSend s = .next t) : t.rfx = s.rfx := by
  obtain rfl := Host.Outcome.next.inj h
  split
  · rfl
  dsimp only
  split
  · rfl
  split
  · exact bump_keeps.frame .rfx rfl
  · rw [show State.permits (s.setMsh _) = false from hp, Bool.not_false, if_pos rfl]
    rfl

theorem execPiggybackSend_rfx_of_noPermits (h : execPiggybackSend s = .next t) : t.rfx = s.rfx := by
  obtain rfl := Host.Outcome.next.inj h
  split
  · rfl
  dsimp only
  split
  · rfl
  split
  · rfl
  · exact countedSend_rfx_of_noPermits (s := s.setMsh _) hp

theorem execMshRetryOpportunity_rfx_of_noPermits {id : Nat} (h : execMshRetryOpportunity id s = .next t) : t.rfx = s.rfx := by
  obtain rfl := Host.Outcome.next.inj h
  split
  · rfl
  · exact retryNow_rfx_of_noPermits hp

theorem execNightSlotOccurrence_rfx_of_noPermits {endpoint : Nat} (h : execNightSlotOccurrence endpoint s = .next t) : t.rfx = s.rfx := by
  obtain rfl := Host.Outcome.next.inj h
  split
  · rfl
  split
  · exact nightSlot_rfx_of_noPermits hp
  · rfl

theorem execFloodCopySend_rfx_of_noPermits {id port : Nat} (h : execFloodCopySend id port s = .next t) : t.rfx = s.rfx := by
  obtain rfl := Host.Outcome.next.inj h
  split
  · rfl
  · exact floodCopy_rfx_of_noPermits hp

end

/-- A row that may not change PLC leaves both media where it leaves RFX. -/
theorem media_of_rfx {i : Instr} {s t : State} (h : exec i s = .next t) (hplc : allows (mayChange i) .plc = false) (hr : t.rfx = s.rfx) :
    t.plc.onAir = s.plc.onAir ∧ t.rfx.tx = s.rfx.tx :=
  ⟨congrArg Plc.onAir ((exec_keeps h).frame .plc hplc), congrArg Rfx.tx hr⟩

/-- A row that may not change RFX leaves both media where it leaves the frame on the line. -/
theorem media_of_onAir {i : Instr} {s t : State} (h : exec i s = .next t) (hrfx : allows (mayChange i) .rfx = false)
    (hl : t.plc.onAir = s.plc.onAir) : t.plc.onAir = s.plc.onAir ∧ t.rfx.tx = s.rfx.tx :=
  ⟨hl, congrArg Rfx.tx ((exec_keeps h).frame .rfx hrfx)⟩

/-- Settles O19: the two rows of the power line never touch RFX, the radio's never PLC, and each leaves its own medium without both permits. -/
theorem noFrameWithoutPermits : Obligations.NoFrameWithoutPermits := by
  unfold Obligations.NoFrameWithoutPermits
  rintro i s t hp h (rfl | ⟨b, rfl⟩ | rfl | ⟨p, rfl⟩ | rfl | rfl | ⟨k, rfl⟩ | ⟨e, rfl⟩ | ⟨k, p, rfl⟩)
  · exact media_of_onAir h rfl (execPlcLaunch_onAir_of_noPermits hp h)
  · exact media_of_onAir h rfl (execPlcAckSend_onAir_of_noPermits hp h)
  · exact media_of_rfx h rfl (execRfTxLaunch_rfx_of_noPermits hp h)
  · exact media_of_rfx h rfl (execMshBeaconSend_rfx_of_noPermits hp h)
  · exact media_of_rfx h rfl (execMshAckSend_rfx_of_noPermits hp h)
  · exact media_of_rfx h rfl (execPiggybackSend_rfx_of_noPermits hp h)
  · exact media_of_rfx h rfl (execMshRetryOpportunity_rfx_of_noPermits hp h)
  · exact media_of_rfx h rfl (execNightSlotOccurrence_rfx_of_noPermits hp h)
  · exact media_of_rfx h rfl (execFloodCopySend_rfx_of_noPermits hp h)

end Sys2Proof.Machine
end

section
/-! The die seam's packets and heartbeats (R20 to R22, R35, R36). -/
namespace Sys2Proof.Machine

namespace State

section
variable {d : Die} {s t : State}

/-! ### What the seam counts, by the seam's fields alone -/

theorem seamExpect_congr (h : t.seam = s.seam) : t.seamExpect d = s.seamExpect d := by
  cases d <;> simp only [seamExpect, h]

theorem seamFails_congr (h : t.seam = s.seam) : t.seamFails d = s.seamFails d := by
  cases d <;> simp only [seamFails, h]

theorem missCount_congr (h : t.seam = s.seam) : t.missCount d = s.missCount d := by
  cases d <;> simp only [missCount, h]

variable {e f n : Nat}

theorem setSeam_expect : (s.setSeam d e f).seamExpect d = e := by cases d <;> rfl

theorem setSeam_fails : (s.setSeam d e f).seamFails d = f := by cases d <;> rfl

theorem setSeam_kept : (s.setSeam d e f).seam.kept = s.seam.kept := by cases d <;> rfl

theorem setSeam_refused : (s.setSeam d e f).seam.refused = s.seam.refused := by cases d <;> rfl

theorem setMiss_same : (s.setMiss d n).missCount d = n := by cases d <;> rfl

/-! ### Packets (R20 to R22) -/

variable {cls seq : Nat} {content : SeamContent}

/-- A refusal counts one and leaves the rest of the seam (R22). -/
theorem seamRefuse_seam : (s.seamRefuse cls seq).seam = { s.seam with refused := s.seam.refused + 1 } := log_keeps.frame .seam rfl

/-- A packet in sequence moves its die's number on, clears its failures and leaves the count of refusals (R21). -/
theorem seamTaken_counts : (s.seamTaken d).seamExpect d = s.seamExpect d + 1 ∧ (s.seamTaken d).seamFails d = 0 ∧
    (s.seamTaken d).seam.refused = s.seam.refused := by
  unfold seamTaken
  extract_lets n s1
  have h1 : s1.seam = (s.setSeam d (n + 1) 0).seam := holdCause_keeps.frame .seam rfl
  have hexpect : s1.seamExpect d = n + 1 := (seamExpect_congr h1).trans setSeam_expect
  have hfails : s1.seamFails d = 0 := (seamFails_congr h1).trans setSeam_fails
  have hrefused : s1.seam.refused = s.seam.refused := (congrArg Seam.refused h1).trans setSeam_refused
  cases d <;> exact ⟨hexpect, hfails, hrefused⟩

theorem seamRefuse_counts : (s.seamRefuse cls seq).seamExpect d = s.seamExpect d ∧ (s.seamRefuse cls seq).seamFails d = s.seamFails d := by
  cases d <;> simp only [seamExpect, seamFails, seamRefuse_seam, and_self]

/-- The island's checks leave the numbers and failures of a packet taken, and what its class may not carry is one refusal more (R22). -/
theorem seamGood_counts : (s.seamGood d cls seq content).seamExpect d = s.seamExpect d + 1 ∧ (s.seamGood d cls seq content).seamFails d = 0 ∧
    (d = .midnight → midClassOk cls content = false → (s.seamGood d cls seq content).seam.refused = s.seam.refused + 1) := by
  obtain ⟨hexpect, hfails, hrefused⟩ := seamTaken_counts (d := d) (s := s)
  unfold seamGood
  cases d with
  | noon => exact ⟨hexpect, hfails, fun h => by cases h⟩
  | midnight =>
    dsimp only
    split
    · obtain ⟨he, hf⟩ := seamRefuse_counts (d := .midnight) (s := s.seamTaken .midnight) (cls := cls) (seq := seq)
      exact ⟨he.trans hexpect, hf.trans hfails, fun _ _ => by rw [seamRefuse_seam, hrefused]⟩
    next hok =>
      have hchecked : ((s.seamTaken .midnight).islandAccepts content).2.seam = (s.seamTaken .midnight).seam :=
        islandAccepts_keeps.frame .seam rfl
      have he := (seamExpect_congr (d := .midnight) hchecked).trans hexpect
      have hf := (seamFails_congr (d := .midnight) hchecked).trans hfails
      have hclass : midClassOk cls content ≠ false := fun h => hok (by rw [h]; rfl)
      split
      · exact ⟨he, hf, fun _ h => absurd h hclass⟩
      · exact ⟨seamRefuse_counts.1.trans he, seamRefuse_counts.2.trans hf, fun _ h => absurd h hclass⟩

/-- The sender's answer to a resend request is the packet kept under the number expected (R21). -/
theorem seamResend_kept {p : SeamPkt} (h : s.seam.kept.find? (fun p => decide (p.fromDie = otherDie d) && p.seq == s.seamExpect d) = some p) :
    s.seamResend d = s.emit (.seam p (crc32c p.bytes)) := by
  rw [seamResend, h]

theorem mem_seamResend_out {o : Out} (h : o ∈ s.out) : o ∈ (s.seamResend d).out := by
  unfold seamResend
  split
  · exact List.mem_cons_of_mem _ h
  · exact h

theorem seamBad_resend (h : s.seamFails d < 4) :
    s.seamBad d cls seq = ((s.setSeam d (s.seamExpect d) (s.seamFails d + 1)).emit (.seamResend d)).seamResend d := if_pos h

/-- A bad packet is asked for again, and the number expected stays (R21). -/
theorem seamBad_counts (h : s.seamFails d < 4) : (s.seamBad d cls seq).seamExpect d = s.seamExpect d ∧
    (s.seamBad d cls seq).seamFails d = s.seamFails d + 1 ∧ .seamResend d ∈ (s.seamBad d cls seq).out := by
  rw [seamBad_resend h]
  have hseam : (((s.setSeam d (s.seamExpect d) (s.seamFails d + 1)).emit (.seamResend d)).seamResend d).seam =
      (s.setSeam d (s.seamExpect d) (s.seamFails d + 1)).seam := seamResend_keeps.frame .seam rfl
  exact ⟨(seamExpect_congr hseam).trans setSeam_expect, (seamFails_congr hseam).trans setSeam_fails,
    mem_seamResend_out (List.mem_cons_self ..)⟩

theorem seamBad_head {p : SeamPkt} (h : s.seamFails d < 4)
    (hp : s.seam.kept.find? (fun p => decide (p.fromDie = otherDie d) && p.seq == s.seamExpect d) = some p) :
    (s.seamBad d cls seq).out.head? = some (.seam p (crc32c p.bytes)) := by
  have hkept : ((s.setSeam d (s.seamExpect d) (s.seamFails d + 1)).emit (.seamResend d)).seam.kept = s.seam.kept := setSeam_kept
  have hexpect : ((s.setSeam d (s.seamExpect d) (s.seamFails d + 1)).emit (.seamResend d)).seamExpect d = s.seamExpect d :=
    (seamExpect_congr rfl).trans setSeam_expect
  rw [seamBad_resend h, seamResend_kept (by rw [hkept, hexpect, hp])]
  rfl

/-! ### Device states and the seam fault (R21, R67, R69) -/

theorem enterState_state {next : DevState} {cause : Nat} : (s.enterState next cause).dev.state = next := by
  unfold enterState
  extract_lets was _ s0 s1 s2 s3 s4
  have h1 : s1.dev = s0.dev := setReg_keeps.frame .dev rfl
  have h2 : s2.dev = s1.dev := setPair_keeps.frame .dev rfl
  have h3 : s3.dev = s2.dev := log_keeps.frame .dev rfl
  have h4 : s4.dev = s3.dev := by
    unfold s4
    split
    · exact dropSends_keeps.frame .dev rfl
    · rfl
  have h5 : s4.truncateFrames.dev = s4.dev := truncateFrames_keeps.frame .dev rfl
  rw [h5, h4, h3, h2, h1]

/-- A transition writes neither of the hold causes (R67, R69). -/
theorem enterState_holdCauses {next : DevState} {cause : Nat} : SameAt Reg.GLB_HOLD_CAUSES s (s.enterState next cause) := by
  unfold enterState
  extract_lets was _ s0 s1 s2 s3 s4
  have h1 : SameAt Reg.GLB_HOLD_CAUSES s s1 := .trans (.of_regs rfl) (.setReg (by decide))
  have h2 : SameAt Reg.GLB_HOLD_CAUSES s1 s2 := .setPair (by decide) (by decide)
  have h3 : SameAt Reg.GLB_HOLD_CAUSES s2 s3 := .of_keeps log_keeps rfl
  have h4 : SameAt Reg.GLB_HOLD_CAUSES s3 s4 := .ite .refl (.of_keeps dropSends_keeps rfl)
  exact (((h1.trans h2).trans h3).trans h4).trans (.of_keeps truncateFrames_keeps rfl)

/-- A seam fault sets its hold cause, and DAY goes to TWILIGHT (R21). -/
theorem seamFault_effect (hok : s.regsOk = true) : (s.seamFault cls seq).regBit Reg.GLB_HOLD_CAUSES 0 = true ∧
    (s.dev.state = .day → (s.seamFault cls seq).dev.state = .twilight) := by
  unfold seamFault
  extract_lets s1 s2
  have hbit : s1.regBit Reg.GLB_HOLD_CAUSES 0 = true := regBit_setRegBit_same hok (by decide)
  have hdev : s1.dev = s.dev := holdCause_keeps.frame .dev rfl
  have hsame : SameAt Reg.GLB_HOLD_CAUSES s1 ((s2.log 5 0 2 cls seq).log 7 0 2 cls seq) :=
    ((SameAt.ite .refl enterState_holdCauses).trans (.of_keeps log_keeps rfl)).trans (.of_keeps log_keeps rfl)
  have hlog : ((s2.log 5 0 2 cls seq).log 7 0 2 cls seq).dev = s2.dev := (log_keeps.frame .dev rfl).trans (log_keeps.frame .dev rfl)
  refine ⟨?_, fun hday => ?_⟩
  · rwa [regBit, hsame.reg, ← regBit]
  · have hs2 : s2 = s1.enterState .twilight 0x04 := if_pos (by rw [hdev, hday])
    rw [hlog, hs2, enterState_state]

/-! ### Heartbeats (R35, R36) -/

/-- With nothing waiting, a heartbeat handed to the seam leaves at once (R20, R35). -/
theorem seamBeat_head {hb : Heartbeat} (h : s.seam.waiting = []) :
    ∃ p c, (s.seamBeat d hb).out.head? = some (.seam p c) ∧ p.fromDie = d ∧ p.cls = 2 ∧ p.body = .beat hb := by
  simp only [seamBeat, seamDrain, seamPut, h, List.nil_append, sortOn, insertOn, List.foldl_cons, List.foldl_nil, seamOut]
  exact ⟨_, _, rfl, rfl, rfl, rfl⟩

theorem mirrored_missCount {hb : Heartbeat} : ((s.setLastBeat d hb).mirrorView d hb).missCount d = s.missCount d := by cases d <;> rfl

theorem heartbeatMatch_missCount : (s.heartbeatMatch d).missCount d = 0 := by
  unfold heartbeatMatch
  extract_lets s1
  have h1 : s1.missCount d = 0 := setMiss_same
  split
  · exact (missCount_congr (holdCause_keeps.frame .seam rfl)).trans h1
  · exact h1

/-- A mismatch counts one at its die; what the third brings about leaves the count (R36). -/
theorem heartbeatMiss_missCount : (s.heartbeatMiss d).missCount d = s.missCount d + 1 := by
  unfold heartbeatMiss
  extract_lets n s1 s2
  have h1 : s1.seam = (s.setMiss d n).seam := holdCause_keeps.frame .seam rfl
  have h2 : s2.seam = s1.seam := by
    unfold s2
    split
    · exact ((forceTwilight_keeps.frame .seam rfl).trans (log_keeps.frame .seam rfl)).trans (log_keeps.frame .seam rfl)
    · rfl
  have h3 : s2.truncateFrames.seam = s2.seam := truncateFrames_keeps.frame .seam rfl
  exact (missCount_congr (h3.trans (h2.trans h1))).trans setMiss_same

end

end State

open State

/-! ### The rows -/

section
variable {die : Die} {cls seq : Nat} {crcOk : Bool} {content : SeamContent} {hb : Heartbeat} {s : State}

theorem exec_seamPacketReceived_good (h : seq = s.seamExpect die) :
    exec (.seamPacketReceived die cls seq true content) s = .next (s.seamGood die cls seq content) := by
  show execSeamPacketReceived die cls seq true content s = _
  rw [execSeamPacketReceived, h, beq_self_eq_true, Bool.and_self, if_pos rfl]

theorem exec_seamPacketReceived_bad (h : crcOk = false ∨ seq ≠ s.seamExpect die) :
    exec (.seamPacketReceived die cls seq crcOk content) s = .next (s.seamBad die cls seq) := by
  have hbad : ¬ (crcOk && seq == s.seamExpect die) = true := by
    rw [Bool.and_eq_true, beq_iff_eq]
    rintro ⟨hcrc, hseq⟩
    rcases h with h | h
    · rw [h] at hcrc
      cases hcrc
    · exact h hseq
  show execSeamPacketReceived die cls seq crcOk content s = _
  rw [execSeamPacketReceived, if_neg hbad]

theorem exec_ownershipHeartbeatReceived_same :
    exec (.ownershipHeartbeatReceived die (s.ownView die)) s =
      .next (((s.setLastBeat die (s.ownView die)).mirrorView die (s.ownView die)).heartbeatMatch die) := by
  show execOwnershipHeartbeatReceived die (s.ownView die) s = _
  simp only [execOwnershipHeartbeatReceived, viewsDiffer, ne_eq, not_true_eq_false, decide_false, Bool.false_eq_true, if_false]

theorem exec_ownershipHeartbeatReceived_differ (h : hb ≠ s.ownView die) :
    exec (.ownershipHeartbeatReceived die hb) s = .next (((s.setLastBeat die hb).mirrorView die hb).heartbeatMiss die) := by
  show execOwnershipHeartbeatReceived die hb s = _
  simp only [execOwnershipHeartbeatReceived, viewsDiffer, decide_eq_true h, if_true]

/-- No heartbeat in time is one mismatch more (R35, R36). -/
theorem exec_heartbeatTimeout_missCount : Completes (.heartbeatTimeout die) s fun t => t.missCount die = s.missCount die + 1 :=
  ⟨_, rfl, heartbeatMiss_missCount.trans (by cases die <;> rfl)⟩

end

/-- Settles O24: each row is its operation on the state (the lemmas `exec_…`), and the operations' own lemmas say what the seam counts. -/
theorem seamCommandsComplete : Obligations.SeamCommandsComplete := by
  unfold Obligations.SeamCommandsComplete
  refine ⟨?_, ?_, ?_, ?_, ?_, ?_, ?_⟩
  · intro die cls seq content s hseq
    refine ⟨_, exec_seamPacketReceived_good hseq, ?_⟩
    rw [hseq]
    exact seamGood_counts
  · intro die cls seq crcOk content s ⟨hbad, hfew⟩
    obtain ⟨hexpect, hfails, hasked⟩ := seamBad_counts (cls := cls) (seq := seq) hfew
    exact ⟨_, exec_seamPacketReceived_bad hbad, hexpect, hfails, hasked, fun _ => seamBad_head hfew⟩
  · intro die cls seq crcOk content s ⟨hok, _⟩ ⟨hbad, hmany⟩
    have hfault : s.seamBad die cls seq = (s.setSeam die (s.seamExpect die) 0).seamFault cls seq := if_neg (Nat.not_lt.2 hmany)
    have hseam : ((s.setSeam die (s.seamExpect die) 0).seamFault cls seq).seam = (s.setSeam die (s.seamExpect die) 0).seam :=
      seamFault_keeps.frame .seam rfl
    have hdev : (s.setSeam die (s.seamExpect die) 0).dev = s.dev := setSeam_keeps.frame .dev rfl
    obtain ⟨hbit, hday⟩ := seamFault_effect (cls := cls) (seq := seq) (setSeam_keeps.regs hok)
    refine ⟨_, exec_seamPacketReceived_bad hbad, ?_⟩
    rw [hfault]
    exact ⟨(seamFails_congr hseam).trans setSeam_fails, hbit, fun h => hday (by rw [hdev, h])⟩
  · intro die s hempty
    exact ⟨_, rfl, seamBeat_head hempty⟩
  · intro die s
    exact ⟨_, exec_ownershipHeartbeatReceived_same, heartbeatMatch_missCount⟩
  · intro die hb s hdiffer
    exact ⟨_, exec_ownershipHeartbeatReceived_differ hdiffer, heartbeatMiss_missCount.trans (by rw [mirrored_missCount])⟩
  · intro die s
    exact exec_heartbeatTimeout_missCount

end Sys2Proof.Machine
end

section
/-! The statement about the requests to BAR0 that break the limits of R94. -/
namespace Sys2Proof.Machine

namespace State

section
variable {a : BarAccess} {lanes : Nat} {s : State}

/-- A function that exists, physical function 0 among them, is not turned away as missing (R88). -/
theorem not_missing (h : a.fn = 0 ∨ s.vfExists a.fn = true) : ¬ (decide (a.fn ≠ 0) && !s.vfExists a.fn) = true := by
  rcases h with h | h <;> simp [h]

theorem breaksBoundary_of (hb : a.bar = 0) (hin : a.off < barSize a.fn 0)
    (hlim : 64 < a.len ∨ a.off / 65536 ≠ (a.off + a.len - 1) / 65536) : breaksBoundary a = true := by
  rw [breaksBoundary, hb, decide_eq_true hin, ← Bool.decide_or, decide_eq_true hlim]
  rfl

theorem advisory_rings_vectors {fn i : Nat} :
    (s.advisory fn i).hbr.rings = s.hbr.rings ∧ (s.advisory fn i).hbr.vectors = s.hbr.vectors := by
  unfold advisory
  dsimp only
  split <;> exact ⟨rfl, rfl⟩

/-- A refused read is reported in configuration space, and leaves rings and vectors (R85, R94). -/
theorem refuseRead_rings_vectors :
    (s.refuseRead a lanes).hbr.rings = s.hbr.rings ∧ (s.refuseRead a lanes).hbr.vectors = s.hbr.vectors := advisory_rings_vectors

theorem refuseRead_out : (s.refuseRead a lanes).out = .unsupported a.fn :: s.out :=
  congrArg (Out.unsupported a.fn :: ·) ((advisory_keeps.frame .out rfl).trans (aerError_keeps.frame .out rfl))

end

end State

open State

section
variable {a : BarAccess} {s : State} (hfn : a.fn = 0 ∨ s.vfExists a.fn = true) (hb : a.bar = 0) (hlim : breaksBoundary a = true)
include hfn hb hlim

theorem exec_hostRegisterWrite_boundary {words : List HostWord} :
    exec (.hostRegisterWrite a words) s = .next (s.bump Reg.HBR_BOUNDARY_DROP) := by
  have hcfg : ¬ a.bar = 8 := by rw [hb]; decide
  show execHostRegisterWrite a words s = _
  rw [execHostRegisterWrite, if_neg (not_missing hfn), if_neg hcfg, if_pos hlim]

theorem exec_rcRegisterRead_boundary {lanes : Nat} :
    exec (.rcRegisterRead a lanes) s = .next ((s.bump Reg.HBR_BOUNDARY_DROP).refuseRead a lanes) := by
  have hcfg : ¬ a.bar = 8 := by rw [hb]; decide
  show execRcRegisterRead a lanes s = _
  rw [execRcRegisterRead, if_neg (not_missing hfn), if_neg hcfg, if_pos hlim]

end

/-- Settles O15: a write stops at the count, and a read at the count and the refusal, which reports to the function alone. -/
theorem boundaryRefused : Obligations.BoundaryRefused := by
  unfold Obligations.BoundaryRefused
  intro a s hfn hb hin hlong
  have hlim := breaksBoundary_of hb hin hlong
  refine ⟨fun _ => exec_hostRegisterWrite_boundary hfn hb hlim, fun lanes => ⟨_, exec_rcRegisterRead_boundary hfn hb hlim, ?_⟩⟩
  have hbridge := refuseRead_rings_vectors (a := a) (lanes := lanes) (s := s.bump Reg.HBR_BOUNDARY_DROP)
  rw [bump_hbr] at hbridge
  exact ⟨by rw [refuseRead_out, bump_out], refuseRead_keeps.frame .regs rfl, (refuseRead_keeps.frame .cmd rfl).trans bump_cmd, hbridge⟩

end Sys2Proof.Machine
end

section
/-! What the events of the link leave of the bridge: its traffic apart from the rest, and the functions that a reset takes away (R103 to
R106). -/
namespace Sys2Proof.Machine

namespace State

/-- Of the bridge, the two states differ in its traffic alone: reads, transfers, transactions that wait, and MSI-X vectors. -/
def OnlyTraffic (s t : State) : Prop :=
  t.hbr = { s.hbr with reads := t.hbr.reads, xfers := t.hbr.xfers, upstream := t.hbr.upstream, vectors := t.hbr.vectors }

namespace OnlyTraffic

variable {s t u : State}

theorem refl : OnlyTraffic s s := rfl

theorem trans (h : OnlyTraffic s t) (k : OnlyTraffic t u) : OnlyTraffic s u :=
  Eq.trans k (congrArg (fun b : Hbr => { b with reads := u.hbr.reads, xfers := u.hbr.xfers, upstream := u.hbr.upstream, vectors := u.hbr.vectors }) h)

/-- An operation that may not change HBR. -/
theorem of_keeps {ps : List Part} (h : Keeps ps s t) (hb : allows ps .hbr = false) : OnlyTraffic s t := by
  rw [OnlyTraffic, show t.hbr = s.hbr from h.frame .hbr hb]

theorem foldl {α : Type} {f : State → α → State} (hf : ∀ u x, OnlyTraffic u (f u x)) (l : List α) (s : State) :
    OnlyTraffic s (l.foldl f s) := by
  induction l generalizing s with
  | nil => exact .refl
  | cons x l ih => exact (hf s x).trans (ih (f s x))

/-- What does not read the traffic reads the same. -/
theorem field {α : Type} (h : OnlyTraffic s t) (f : Hbr → α)
    (hf : ∀ b r x u v, f { b with reads := r, xfers := x, upstream := u, vectors := v } = f b) : f t.hbr = f s.hbr :=
  (congrArg f h).trans (hf ..)

theorem func (h : OnlyTraffic s t) (fn : Nat) : t.func fn = s.func fn := h.field (fun b => b.funcs.getD fn {}) fun _ _ _ _ _ => rfl

theorem dlUp (h : OnlyTraffic s t) : t.hbr.dlUp = s.hbr.dlUp := h.field Hbr.dlUp fun _ _ _ _ _ => rfl

theorem perst (h : OnlyTraffic s t) : t.hbr.perst = s.hbr.perst := h.field Hbr.perst fun _ _ _ _ _ => rfl

end OnlyTraffic

section
variable {s : State}

/-! ### The operations that touch traffic alone -/

theorem issueUp_onlyTraffic {x : UpTxn} : OnlyTraffic s (s.issueUp x) := by
  unfold issueUp
  dsimp only
  split <;> rfl

theorem upDrain_onlyTraffic {n : Nat} : OnlyTraffic s (s.upDrain n) := by
  induction n generalizing s with
  | zero => exact .refl
  | succ n ih =>
    unfold upDrain
    split
    · exact .refl
    · exact issueUp_onlyTraffic.trans ih

theorem upLook_onlyTraffic : OnlyTraffic s s.upLook := upDrain_onlyTraffic

theorem sendMsix_onlyTraffic {fn v : Nat} : OnlyTraffic s (s.sendMsix fn v) := by
  unfold sendMsix
  split
  · exact .of_keeps bump_keeps rfl
  · dsimp only
    split <;> rfl

theorem linkEvent_onlyTraffic {i : Nat} : OnlyTraffic s (s.linkEvent i) := by
  unfold linkEvent
  extract_lets s1
  have h1 : OnlyTraffic s s1 := .of_keeps setRegBit_keeps rfl
  split
  · exact h1.trans sendMsix_onlyTraffic
  · exact h1

theorem sendPending_onlyTraffic {fn : Nat} : OnlyTraffic s (s.sendPending fn) := by
  unfold sendPending
  dsimp only
  split
  · refine .foldl (fun u e => ?_) _ _
    rfl
  · exact .refl

theorem sendAllPending_onlyTraffic : OnlyTraffic s s.sendAllPending := .foldl (fun _ _ => sendPending_onlyTraffic) _ _

/-- A function that can no longer master loses its queues, reads and transfers (R105). -/
theorem loseFunction_onlyTraffic {fn status : Nat} {lost : List CmdKey} : OnlyTraffic s (s.loseFunction fn lost status) := by
  unfold loseFunction
  extract_lets qs read write gone s1 s2 s3
  have h1 : OnlyTraffic s s1 := rfl
  have h2 : OnlyTraffic s1 s2 := by
    refine .foldl (fun u q => ?_) _ _
    split
    · exact (OnlyTraffic.of_keeps disableQueue_keeps rfl).trans (.of_keeps setQctrl_keeps rfl)
    · exact .refl
  have h3 : OnlyTraffic s2 s3 := .of_keeps mapCmds_keeps rfl
  exact ((h1.trans h2).trans h3).trans (.foldl (fun _ _ => .of_keeps endWith_keeps rfl) _ _)

theorem loseMastery_onlyTraffic {fn : Nat} {lost : List CmdKey} : OnlyTraffic s (s.loseMastery fn lost) := by
  unfold loseMastery
  split
  · exact .foldl (fun _ _ => loseFunction_onlyTraffic) _ _
  · exact loseFunction_onlyTraffic

/-! ### Functions, resets and the loss of the link -/

theorem func_setFunc {fn : Nat} {x : Func} : (s.setFunc fn x).func fn = x := by
  show (Tab.get? (Tab.put s.hbr.funcs fn x) fn).getD {} = x
  rw [Tab.get_put_same]
  rfl

/-- A change of a function's mastery, with what follows from its loss, is what stands in the function (R104, R105). -/
theorem func_loseMastery_setFunc {fn : Nat} {x : Func} {lost : List CmdKey} {before : Bool} :
    (((s.setFunc fn x).loseMastery fn lost).markAbsent before).func fn = x :=
  ((loseMastery_onlyTraffic.trans (.of_keeps markAbsent_keeps rfl)).func fn).trans func_setFunc

theorem func_setFunc_sendAllPending {fn : Nat} {x : Func} : (s.setFunc fn x).sendAllPending.func fn = x :=
  (sendAllPending_onlyTraffic.func fn).trans func_setFunc

/-- A reset empties its function and leaves the state of the link (R106). -/
theorem resetFunction_hbr {fn : Nat} : (s.resetFunction fn).func fn = {} ∧ (s.resetFunction fn).hbr.dlUp = s.hbr.dlUp ∧
    (s.resetFunction fn).hbr.perst = s.hbr.perst := by
  have hfunc : (Tab.put s.hbr.funcs fn {}).getD fn {} = ({} : Func) := by rw [Tab.getD, Tab.get_put_same]; rfl
  unfold resetFunction
  dsimp only
  split
  · simp only [func, setReg_hbr, setRegI_hbr, hfunc, and_self]
  · simp only [func, setRegI_hbr, hfunc, and_self]

theorem hostAbsent_of_linkDown (h : s.hbr.dlUp = false) : s.hostAbsent = true := by
  rw [hostAbsent, hostGone, h]
  rfl

theorem hostAbsent_of_stall (h : s.hbr.stallAbsent = true) : s.hostAbsent = true := by
  rw [hostAbsent, h, Bool.or_true]

theorem func_congr {t : State} {fn : Nat} (h : t.hbr = s.hbr) : t.func fn = s.func fn := congrArg (fun b : Hbr => b.funcs.getD fn {}) h

theorem markAbsent_setRegBit_hbr {before b : Bool} {off i : Nat} : ((s.markAbsent before).setRegBit off i b).hbr = s.hbr :=
  setRegBit_hbr.trans (markAbsent_keeps.frame .hbr rfl)

/-- The resets of all functions leave the state of the link (R106). -/
theorem foldl_resetFunction_link (l : List Nat) : (l.foldl (fun s f => s.resetFunction f) s).hbr.dlUp = s.hbr.dlUp ∧
    (l.foldl (fun s f => s.resetFunction f) s).hbr.perst = s.hbr.perst := by
  induction l generalizing s with
  | nil => exact ⟨rfl, rfl⟩
  | cons f l ih =>
    obtain ⟨-, hup, hperst⟩ := resetFunction_hbr (s := s) (fn := f)
    exact ⟨ih.1.trans hup, ih.2.trans hperst⟩

/-- A lost link takes the virtual functions and the reads of the seam's windows with it (R105, R106). -/
theorem loseLink_hbr {event : Nat} {lost : List CmdKey} : (s.loseLink event lost).hbr.dlUp = s.hbr.dlUp ∧
    (s.loseLink event lost).hbr.perst = s.hbr.perst ∧ (s.loseLink event lost).hbr.vfEnable = false ∧
    (s.loseLink event lost).hbr.seamReads = [] := by
  unfold loseLink
  extract_lets before s1 s2 _ s3
  have h1 : OnlyTraffic s s1 := .foldl (fun _ _ => loseFunction_onlyTraffic) _ _
  obtain ⟨hup, hperst⟩ : s2.hbr.dlUp = s1.hbr.dlUp ∧ s2.hbr.perst = s1.hbr.perst := foldl_resetFunction_link (s := s1) (List.range 17)
  clear_value s1 s2
  rw [markAbsent_setRegBit_hbr]
  exact ⟨hup.trans h1.dlUp, hperst.trans h1.perst, rfl, rfl⟩

/-- The bit of a lost link's event stands (R110). -/
theorem loseLink_event {event : Nat} {lost : List CmdKey} (hok : s.regsOk = true) (he : event < 32) :
    (s.loseLink event lost).regBit Reg.HBR_LINK_EVENTS event = true := by
  unfold loseLink
  extract_lets before s1 s2 _ s3
  have h1 : Keeps [.regs, .cmd, .hbr, .win 2] s s1 := .foldl .refl fun _ _ => loseFunction_keeps
  have h2 : Keeps [.regs, .hbr, .win 1] s1 s2 := .foldl .refl fun _ _ => resetFunction_keeps
  have hok2 : s2.regsOk = true := h2.regs (h1.regs hok)
  clear_value s1 s2
  have hok3 : s3.regsOk = true := hok2
  exact regBit_setRegBit_same (markAbsent_keeps.regs hok3) he

/-- The start of host-absence leaves the events of the link (R110). -/
theorem markAbsent_linkEvents {before : Bool} : SameAt Reg.HBR_LINK_EVENTS s (s.markAbsent before) := by
  unfold markAbsent
  split
  · exact .setPair (by decide) (by decide)
  · exact .refl

/-- What link loss and PERST_N do to the state with the link down, `before` saying whether the host was absent before (R104 to R106). -/
def linkLost (event : Nat) (lost : List CmdKey) (before : Bool) (s : State) : State := (s.loseLink event lost).markAbsent before

section
variable {event : Nat} {lost : List CmdKey} {before : Bool}

theorem linkLost_hbr : (s.linkLost event lost before).hbr = (s.loseLink event lost).hbr := markAbsent_keeps.frame .hbr rfl

theorem linkLost_event (hok : s.regsOk = true) (he : event < 32) : (s.linkLost event lost before).regBit Reg.HBR_LINK_EVENTS event = true := by
  rw [linkLost, regBit, markAbsent_linkEvents.reg, ← regBit, loseLink_event hok he]

theorem linkLost_effect (h : s.hbr.dlUp = false) : (s.linkLost event lost before).hbr.dlUp = false ∧
    (s.linkLost event lost before).hbr.perst = s.hbr.perst ∧ (s.linkLost event lost before).hbr.vfEnable = false ∧
    (s.linkLost event lost before).hbr.seamReads = [] ∧ (s.linkLost event lost before).hostAbsent = true := by
  obtain ⟨hup, hperst, hvf, hreads⟩ := loseLink_hbr (event := event) (lost := lost) (s := s)
  have hdown : (s.linkLost event lost before).hbr.dlUp = false := by rw [linkLost_hbr, hup, h]
  exact ⟨hdown, by rw [linkLost_hbr, hperst], by rw [linkLost_hbr, hvf], by rw [linkLost_hbr, hreads], hostAbsent_of_linkDown hdown⟩

end

/-! ### A fence that starts -/

theorem inst_setInst_same {i : Nat} {x : Inst} : (s.setInst i x).inst i = x := by
  show (Tab.get? (Tab.put s.vin.insts i x) i).getD {} = x
  rw [Tab.get_put_same]
  rfl

/-- The signal and the notice of a fence that starts, and the engines' first part in it, leave VIN (R530, R536). -/
theorem fenceParts_sameInst {k i : Nat} {o : Out} : SameInst k s ((((s.emit o).fenceNotice i 1 0).codPart i).markOld i) :=
  (((SameInst.of_keeps emit_keeps rfl).trans (.of_keeps fenceNotice_keeps rfl)).trans (.of_keeps codPart_keeps rfl)).trans
    (.of_keeps markOld_keeps rfl)

/-- The entry of VIN that stands at READY goes to FENCING under the next epoch as its fence starts (R524, R525, R528). -/
theorem fenceStart_ready {i cause : Nat} {disable : Bool} {c : Option CmdRef} (h : (s.inst i).state = .ready) :
    ((s.fenceStart i cause disable c).inst i).state = .fencing ∧
    ((s.fenceStart i cause disable c).inst i).epoch = ((s.inst i).epoch + 1) % 256 := by
  unfold fenceStart
  simp only [h]
  rw [fenceParts_sameInst, inst_setInst_same]
  exact ⟨rfl, rfl⟩

end

end State

end Sys2Proof.Machine
end

section
/-! The rows of the link, of resets and of mastery (R88, R103 to R106). -/
namespace Sys2Proof.Machine

open State

section
variable {s : State}

/-- The k of the stall episode that starts now (R103). -/
def State.stallK (s : State) : Nat :=
  match s.hbr.lastStall with
  | none => 0
  | some t => if s.dev.nc - t < 1000000 then min (s.hbr.backoffK + 1) (min 8 (s.regField Reg.HBR_BACKOFF_CTRL 19 16)) else 0

theorem stallK_le : s.stallK ≤ 8 := by
  unfold stallK
  split
  · exact Nat.zero_le 8
  split
  · exact Nat.le_trans (Nat.min_le_right ..) (Nat.min_le_left ..)
  · exact Nat.zero_le 8

theorem exec_creditStall : exec .creditStall s = .next ({ s with hbr := { s.hbr with
    backoff := true, backoffK := s.stallK, lastStall := some s.dev.nc, backoffEnd := s.dev.nc + 2 ^ s.stallK * 256
    zeroSince := some (s.hbr.zeroSince.getD (s.dev.nc - max 1 (s.regField Reg.HBR_BACKOFF_CTRL 15 0))) } }.bump Reg.HBR_BACKOFF_COUNT) := rfl

theorem exec_creditStall_effect : Completes .creditStall s fun t =>
    t.hbr.backoff = true ∧ t.hbr.lastStall = some s.dev.nc ∧ t.hbr.backoffK ≤ 8 ∧
      t.hbr.backoffEnd = s.dev.nc + 2 ^ t.hbr.backoffK * 256 :=
  ⟨_, exec_creditStall, by rw [bump_hbr], by rw [bump_hbr], by rw [bump_hbr]; exact stallK_le, by rw [bump_hbr]⟩

theorem exec_backoffExpiry_due (h : s.hbr.backoffEnd ≤ s.dev.nc) :
    exec .backoffExpiry s = .next { s with hbr := { s.hbr with backoff := false } }.upLook := by
  show execBackoffExpiry s = _
  rw [execBackoffExpiry, if_neg (Nat.not_lt.2 h)]

/-- The host is absent by a stall (R103). -/
def State.stalled (s : State) : State := { s with hbr := { s.hbr with stallAbsent := true } }

theorem exec_stallAbsent_due {since : Nat} (hz : s.hbr.zeroSince = some since) (h : since + 50000000 ≤ s.dev.nc) :
    exec .stallAbsent s = .next ((s.stalled.markAbsent s.hostAbsent).linkEvent 4) := by
  show execStallAbsent s = _
  simp only [execStallAbsent, hz, if_neg (Nat.not_lt.2 h), stalled]

theorem exec_stallAbsent_effect {since : Nat} (hz : s.hbr.zeroSince = some since) (h : since + 50000000 ≤ s.dev.nc) :
    Completes .stallAbsent s fun t => t.hbr.stallAbsent = true ∧ t.hostAbsent = true ∧ t.cmd = s.cmd := by
  have htraffic : OnlyTraffic s.stalled ((s.stalled.markAbsent s.hostAbsent).linkEvent 4) :=
    .trans (.of_keeps markAbsent_keeps rfl) linkEvent_onlyTraffic
  have hstall := htraffic.field Hbr.stallAbsent fun _ _ _ _ _ => rfl
  have hcmd : ((s.stalled.markAbsent s.hostAbsent).linkEvent 4).cmd = s.stalled.cmd :=
    (linkEvent_keeps.frame .cmd rfl).trans (markAbsent_keeps.frame .cmd rfl)
  exact ⟨_, exec_stallAbsent_due hz h, hstall, hostAbsent_of_stall hstall, hcmd⟩

theorem exec_linkDown_effect {lost : List CmdKey} (hok : s.regsOk = true) : Completes (.linkDown lost) s fun t =>
    t.hbr.dlUp = false ∧ t.hostAbsent = true ∧ t.hbr.vfEnable = false ∧ t.hbr.seamReads = [] ∧ t.regBit Reg.HBR_LINK_EVENTS 0 = true := by
  have hexec : exec (.linkDown lost) s = .next ({ s with hbr := { s.hbr with dlUp := false } }.linkLost 0 lost s.hostAbsent) := rfl
  obtain ⟨hup, -, hvf, hreads, habsent⟩ := linkLost_effect (s := { s with hbr := { s.hbr with dlUp := false } }) (event := 0) (lost := lost)
    (before := s.hostAbsent) rfl
  exact ⟨_, hexec, hup, habsent, hvf, hreads, linkLost_event hok (by decide)⟩

theorem exec_perstAssert_effect {lost : List CmdKey} (hok : s.regsOk = true) : Completes (.perstAssert lost) s fun t =>
    t.hbr.perst = true ∧ t.hbr.dlUp = false ∧ t.hostAbsent = true ∧ t.regBit Reg.HBR_LINK_EVENTS 1 = true := by
  have hexec : exec (.perstAssert lost) s =
      .next ({ s with hbr := { s.hbr with perst := true, dlUp := false } }.linkLost 1 lost s.hostAbsent) := rfl
  obtain ⟨hup, hperst, -, -, habsent⟩ := linkLost_effect (s := { s with hbr := { s.hbr with perst := true, dlUp := false } }) (event := 1)
    (lost := lost) (before := s.hostAbsent) rfl
  exact ⟨_, hexec, hperst, hup, habsent, linkLost_event hok (by decide)⟩

theorem exec_dataLinkUp_trained {speed width : Nat} (hp : s.hbr.perst = false) (hlow : 1 ≤ speed) (hhigh : speed ≤ 5)
    (hw : width ∈ [1, 2, 4, 8]) : exec (.dataLinkUp speed width) s =
      .next { s with hbr := { s.hbr with dlUp := true, speed := speed, width := width } }.sendAllPending := by
  have htrains : ¬ (s.hbr.perst || decide (speed = 0) || decide (5 < speed) || !([1, 2, 4, 8].contains width)) = true := by
    simp only [hp, List.contains_iff_mem.2 hw, Bool.or_eq_true, decide_eq_true_eq, Bool.not_true, Bool.false_eq_true, false_or, or_false]
    omega
  show execDataLinkUp speed width s = _
  rw [execDataLinkUp, if_neg htrains]

/-- SR-IOV's control cleared with the configuration space of physical function 0 (R106). -/
def State.clearVfs (s : State) : State := { s with hbr := { s.hbr with vfEnable := false, numVfs := 0, ari := false, vfBar := 0 } }

theorem func_clearVfs {fn : Nat} : s.clearVfs.func fn = s.func fn := rfl

theorem exec_flrPf0 {lost : List CmdKey} : exec (.flrPf0 lost) s =
    .next ((((s.loseMastery 0 lost).resetFunction 0).clearVfs.markAbsent s.hostAbsent).setRegBit Reg.HBR_LINK_EVENTS 2 true) := rfl

theorem exec_flrPf0_effect {lost : List CmdKey} : Completes (.flrPf0 lost) s fun t => t.func 0 = {} ∧ t.hbr.vfEnable = false := by
  refine ⟨_, exec_flrPf0, ?_, ?_⟩
  · rw [func_congr markAbsent_setRegBit_hbr, func_clearVfs, resetFunction_hbr.1]
  · rw [markAbsent_setRegBit_hbr]
    rfl

theorem exec_flrVf_exists {k : Nat} {lost : List CmdKey} (h : s.vfExists k = true) : exec (.flrVf k lost) s =
    .next ((((s.loseFunction k lost St.instanceFenced).resetFunction k).linkEvent 3).fenceStart (k - 1) 3 false none) := by
  show execFlrVf k lost s = _
  rw [execFlrVf, h]
  rfl

/-- What precedes the fence of an FLR leaves VIN (R106). -/
theorem flrVf_sameInst {k i fn status event : Nat} {lost : List CmdKey} :
    SameInst i s (((s.loseFunction fn lost status).resetFunction k).linkEvent event) :=
  ((SameInst.of_keeps loseFunction_keeps rfl).trans (.of_keeps resetFunction_keeps rfl)).trans (.of_keeps linkEvent_keeps rfl)

theorem exec_flrVf_effect {k : Nat} {lost : List CmdKey} (h : s.vfExists k = true) (hready : (s.inst (k - 1)).state = .ready) :
    Completes (.flrVf k lost) s fun t =>
      (t.inst (k - 1)).state = .fencing ∧ (t.inst (k - 1)).epoch = ((s.inst (k - 1)).epoch + 1) % 256 := by
  have hsame : SameInst (k - 1) s (((s.loseFunction k lost St.instanceFenced).resetFunction k).linkEvent 3) := flrVf_sameInst
  obtain ⟨hstate, hepoch⟩ := fenceStart_ready (cause := 3) (disable := false) (c := none) ((congrArg Inst.state hsame).trans hready)
  exact ⟨_, exec_flrVf_exists h, hstate, by rw [hepoch, hsame]⟩

/-- VF Enable follows NumVFs: at most 7, or at most 16 with ARI (R88). -/
theorem vfEnable_iff {n : Nat} {ari : Bool} :
    (decide (n ≤ 16) && (ari || decide (n ≤ 7))) = true ↔ n ≤ 7 ∨ n ≤ 16 ∧ ari = true := by
  cases ari with
  | false =>
    simp only [Bool.false_or, Bool.and_eq_true, decide_eq_true_eq, Bool.false_eq_true, and_false, or_false]
    omega
  | true =>
    simp only [Bool.true_or, Bool.and_true, decide_eq_true_eq, and_true]
    omega

theorem exec_functionDisable_fewer {n : Nat} (ha : s.hostAbsent = false) (hv : s.hbr.vfEnable = true) (hn : n < s.hbr.numVfs) :
    Completes (.functionDisable n) s fun t => t.hbr.numVfs = n ∧ t.hbr.vfEnable = (n != 0) := by
  have hgo : ¬ (s.hostAbsent || !s.hbr.vfEnable || decide (s.hbr.numVfs ≤ n)) = true := by
    simp only [ha, hv, Bool.false_or, Bool.not_true, decide_eq_true_eq]
    omega
  exact ⟨_, congrArg Host.Outcome.next (if_neg hgo), rfl, rfl⟩

end

/-- Settles O27: each row is its operation on the state, and what follows the operation touches the bridge's traffic alone. -/
theorem bridgeLinkCommandsComplete : Obligations.BridgeLinkCommandsComplete := by
  unfold Obligations.BridgeLinkCommandsComplete
  refine ⟨?_, ?_, ?_, ?_, ?_, ?_, ?_, ?_, ?_, ?_, ?_, ?_, ?_, ?_, ?_, ?_⟩
  · exact fun _ => exec_creditStall_effect
  · exact fun _ hdue =>
      ⟨_, exec_backoffExpiry_due hdue, upLook_onlyTraffic.field Hbr.backoff fun _ _ _ _ _ => rfl, upLook_keeps.frame .cmd rfl⟩
  · exact fun _ _ ⟨hzero, hdue⟩ => exec_stallAbsent_effect hzero hdue
  · exact fun _ => ⟨_, rfl, (upLook_onlyTraffic.trans sendAllPending_onlyTraffic).field Hbr.stallAbsent fun _ _ _ _ _ => rfl⟩
  · exact fun _ _ ⟨hok, _⟩ => exec_linkDown_effect hok
  · exact fun _ _ ⟨hok, _⟩ => exec_perstAssert_effect hok
  · exact fun _ => ⟨_, rfl, rfl, rfl⟩
  · exact fun _ _ _ ⟨hperst, hlow, hhigh, hwidth⟩ => ⟨_, exec_dataLinkUp_trained hperst hlow hhigh hwidth, sendAllPending_onlyTraffic.dlUp,
      sendAllPending_onlyTraffic.field Hbr.speed fun _ _ _ _ _ => rfl, sendAllPending_onlyTraffic.field Hbr.width fun _ _ _ _ _ => rfl⟩
  · exact fun _ _ _ => ⟨_, rfl, congrArg Func.busMaster func_loseMastery_setFunc⟩
  · exact fun _ _ => ⟨_, rfl, congrArg Func.busMaster func_setFunc_sendAllPending⟩
  · exact fun _ _ _ => ⟨_, rfl, congrArg Func.d3hot func_loseMastery_setFunc⟩
  · exact fun _ _ => ⟨_, rfl, congrArg Func.d3hot func_setFunc_sendAllPending⟩
  · exact fun _ _ => exec_flrPf0_effect
  · exact fun _ _ _ ⟨hexists, hready⟩ => exec_flrVf_effect hexists hready
  · exact fun _ _ _ => ⟨_, rfl, vfEnable_iff, rfl⟩
  · exact fun _ _ ⟨habsent, hvf, hfewer⟩ => exec_functionDisable_fewer habsent hvf hfewer

end Sys2Proof.Machine
end

section
/-! What the operations of the radio leave of its ports and of the frames in reception: a port lost, a detection, the gain, and the end of
a frame on the air (R164, R168, R169, R173). -/
namespace Sys2Proof.Machine

namespace State

section
variable {s t u : State} {p : Nat}

/-! ### The ports -/

theorem rfPort_congr (h : t.rfx = s.rfx) : t.rfPort p = s.rfPort p := by rw [rfPort, rfPort, h]

@[simp] theorem rfPort_modPort_same {f : RfPort → RfPort} : (s.modPort p f).rfPort p = f (s.rfPort p) := by
  rw [rfPort, modPort, setRfx_rfx, Tab.getD, Tab.get_put_same]
  rfl

@[simp] theorem modPort_rx {f : RfPort → RfPort} : (s.modPort p f).rfx.rx = s.rfx.rx := rfl

@[simp] theorem rfNotice_rfx {reason ch : Nat} : (s.rfNotice p reason ch).rfx = s.rfx := rfNotice_keeps.frame .rfx rfl

/-- A change of a port followed by its notice (R177). -/
theorem rfNotice_modPort {f : RfPort → RfPort} {reason ch : Nat} :
    ((s.modPort p f).rfNotice p reason ch).rfPort p = f (s.rfPort p) ∧ ((s.modPort p f).rfNotice p reason ch).rfx.rx = s.rfx.rx :=
  ⟨(rfPort_congr rfNotice_rfx).trans rfPort_modPort_same, (congrArg Rfx.rx rfNotice_rfx).trans modPort_rx⟩

theorem foldl_rfx {α : Type} {f : State → α → State} (hf : ∀ u x, (f u x).rfx = u.rfx) (l : List α) (s : State) :
    (l.foldl f s).rfx = s.rfx := by
  induction l generalizing s with
  | nil => rfl
  | cons x l ih => exact (ih (f s x)).trans (hf s x)

theorem abandonRx_rfx : (s.abandonRx p).rfx = { s.rfx with rx := s.rfx.rx.filter (fun r => r.port != p) } :=
  foldl_rfx (fun _ _ => bumpI_rfx) _ _

/-! ### A transmission that ends (R162, R173) -/

/-- Reception and ports are alike but for the transmit side of the ports: TXEN, and the blanking after a frame (R162, R173). -/
def OnlyTx (s t : State) : Prop :=
  t.rfx.rx = s.rfx.rx ∧ ∀ p, t.rfPort p = { s.rfPort p with txen := (t.rfPort p).txen, blankUntil := (t.rfPort p).blankUntil }

namespace OnlyTx

theorem of_ports (hr : t.rfx.rx = s.rfx.rx) (hp : t.rfx.ports = s.rfx.ports) : OnlyTx s t :=
  ⟨hr, fun p => by rw [show t.rfPort p = s.rfPort p by rw [rfPort, rfPort, hp]]⟩

theorem of_rfx (h : t.rfx = s.rfx) : OnlyTx s t := of_ports (by rw [h]) (by rw [h])

theorem refl : OnlyTx s s := of_rfx rfl

theorem trans (h : OnlyTx s t) (k : OnlyTx t u) : OnlyTx s u := ⟨k.1.trans h.1, fun p => by rw [k.2 p, h.2 p]⟩

theorem foldl {α : Type} {f : State → α → State} (hf : ∀ u x, OnlyTx u (f u x)) (l : List α) (s : State) : OnlyTx s (l.foldl f s) := by
  induction l generalizing s with
  | nil => exact refl
  | cons x l ih => exact (hf s x).trans (ih (f s x))

/-- The transmit side of one port set. -/
theorem of_put {e : Bool} {b : Nat} (hr : t.rfx.rx = s.rfx.rx)
    (hp : t.rfx.ports = s.rfx.ports.put p { s.rfPort p with txen := e, blankUntil := b }) : OnlyTx s t := by
  refine ⟨hr, fun q => ?_⟩
  have hget : t.rfPort q = (s.rfx.ports.put p { s.rfPort p with txen := e, blankUntil := b }).getD q {} := by rw [rfPort, hp]
  by_cases hq : q = p
  · subst hq
    rw [hget, Tab.getD, Tab.get_put_same]
    rfl
  · rw [hget, Tab.getD, Tab.get_put_other hq]
    rfl

end OnlyTx

theorem txenLook_onlyTx : OnlyTx s (s.txenLook p) := by
  unfold txenLook
  dsimp only
  split
  · exact .of_put (p := p) (e := false) (b := (s.rfPort p).blankUntil) rfl rfl
  · exact .refl

@[simp] theorem txenLook_tx : (s.txenLook p).rfx.tx = s.rfx.tx := by
  unfold txenLook
  dsimp only
  split <;> rfl

theorem freeTx_onlyTx {x : RfTx} {stop : Nat} : OnlyTx s (s.freeTx x stop) := by
  unfold freeTx
  refine OnlyTx.trans ?_ txenLook_onlyTx
  exact .of_put (p := x.port) (e := (s.rfPort x.port).txen) (b := max (s.rfPort x.port).blankUntil (stop + 200000)) rfl rfl

theorem freeTx_tx {x : RfTx} {stop : Nat} : (s.freeTx x stop).rfx.tx = s.rfx.tx.erase x := txenLook_tx

theorem truncateRf_onlyTx {x : RfTx} : OnlyTx s (s.truncateRf x) := by
  unfold truncateRf
  split
  · exact .refl
  next stop _ =>
    extract_lets s1 _ s2 _ s3
    have h1 : OnlyTx s s1 := by
      unfold s1
      split
      · exact .of_rfx (reply_keeps.frame .rfx rfl)
      · exact .refl
    have h3 : OnlyTx s1 s3 := .of_ports rfl rfl
    have hcharge : OnlyTx s3 (s3.charge false x.age x.regions x.port x.ch (x.onTime - (stop - x.startNs) / 1000)) := .of_ports rfl rfl
    exact (((h1.trans h3).trans hcharge).trans freeTx_onlyTx).trans (.of_rfx bumpI_rfx)

theorem cutTx_onlyTx : OnlyTx s (s.cutTx p) := .foldl (fun _ _ => truncateRf_onlyTx) _ _

/-! ### A port lost (R164) -/

/-- A port whose clock or framing is lost: its reception is abandoned, its transmissions are cut, and the notice goes out (R164, R177). -/
def losePort (p reason : Nat) (f : RfPort → RfPort) (s : State) : State := (((s.modPort p f).abandonRx p).cutTx p).rfNotice p reason 0

theorem losePort_rx {reason : Nat} {f : RfPort → RfPort} : (s.losePort p reason f).rfx.rx = s.rfx.rx.filter (fun r => r.port != p) := by
  rw [losePort, rfNotice_rfx, cutTx_onlyTx.1, abandonRx_rfx, modPort_rx]

theorem losePort_port {reason : Nat} {f : RfPort → RfPort} :
    ∃ e b, (s.losePort p reason f).rfPort p = { f (s.rfPort p) with txen := e, blankUntil := b } := by
  have hlost : ((s.modPort p f).abandonRx p).rfPort p = f (s.rfPort p) := by
    rw [rfPort, abandonRx_rfx]
    exact rfPort_modPort_same
  rw [losePort, rfPort_congr rfNotice_rfx, cutTx_onlyTx.2 p, hlost]
  exact ⟨_, _, rfl⟩

/-! ### A detection (R168, R171) -/

/-- A detection counted, its instant kept for its channel (R168, R170). -/
def heard (d : SyncIn) (s : State) : State :=
  (s.bumpI Reg.RFX_SYNC_DETECT d.port).setRfx (fun r => { r with lastSync := r.lastSync.put (d.port * 128 + d.ch) s.nowNs })

section
variable {d : SyncIn}

theorem heard_rfx : (s.heard d).rfx = { s.rfx with lastSync := s.rfx.lastSync.put (d.port * 128 + d.ch) s.nowNs } := by
  rw [heard, setRfx_rfx, bumpI_rfx]

theorem heard_nowNs : (s.heard d).nowNs = s.nowNs := by rw [nowNs, heard, setRfx_tim, bumpI_tim, nowNs]

theorem heard_rfPort : (s.heard d).rfPort p = s.rfPort p := by rw [rfPort, heard_rfx, rfPort]

theorem heard_sameAt {off : Nat} (h : Reg.RFX_SYNC_DETECT % keyStride ≠ off % keyStride) : SameAt off s (s.heard d) :=
  SameAt.trans (.setRegI h) (.of_regs setRfx_regs)

theorem heard_rssiOf : (s.heard d).rssiOf d = s.rssiOf d := by
  unfold rssiOf gainAt
  rw [(heard_sameAt (by decide) : SameAt Reg.RFX_RX_GAIN_REF s (s.heard d)).regI, heard_nowNs, heard_rfPort]

theorem heard_isSpill : (s.heard d).isSpill d = s.isSpill d := by
  rw [isSpill, (heard_sameAt (by decide) : SameAt Reg.RFX_SYNC_CFG s (s.heard d)).regI, heard_rssiOf, heard_rfx, isSpill]

theorem heard_rfStamp : (s.heard d).rfStamp d = s.rfStamp d := by
  rw [rfStamp, (heard_sameAt (by decide) : SameAt Reg.RFX_RX_TX_DELAY s (s.heard d)).regI, heard_nowNs, rfStamp]

theorem heard_demodFree : (s.heard d).demodFree p = s.demodFree p := by
  unfold demodFree reservation
  rw [(heard_sameAt (by decide) : SameAt Reg.RFX_DEMOD_POOL s (s.heard d)).reg, heard_rfx]

/-- The frame whose reception a detection begins (R168, R169, R176). -/
def rxOf (d : SyncIn) (s : State) : RfRx :=
  { id := s.rfx.nextId, port := d.port, ch := d.ch, rate := d.rate, rts := s.rfStamp d, rssi := s.rssiOf d, cfo := d.cfo
    overload := (s.rfPort d.port).overload != 0 }

theorem heard_rxOf : (s.heard d).rxOf d = s.rxOf d := by
  rw [rxOf, heard_rfStamp, heard_rssiOf, heard_rfPort, heard_rfx, rxOf]

theorem startRx_rfx : (s.startRx d).rfx = { s.rfx with rx := s.rfx.rx ++ [s.rxOf d], nextId := s.rfx.nextId + 1 } := by
  rw [startRx, maxReg_rfx, setRfx_rfx, rxOf]

/-- On a free channel, a detection that is no spill takes a free demodulator (R168, R171). -/
theorem detect_rfx (hspill : s.isSpill d = false) (hfree : s.rfx.rx.find? (fun r => r.port == d.port && r.ch == d.ch) = none)
    (hdemod : s.demodFree d.port = true) : (s.detect d).rfx = { s.rfx with
      rx := s.rfx.rx ++ [s.rxOf d], nextId := s.rfx.nextId + 1, lastSync := s.rfx.lastSync.put (d.port * 128 + d.ch) s.nowNs } := by
  have hspill' : (s.heard d).isSpill d = false := heard_isSpill.trans hspill
  have hfree' : (s.heard d).rfx.rx.find? (fun r => r.port == d.port && r.ch == d.ch) = none := by rw [heard_rfx, hfree]
  have hdemod' : (s.heard d).demodFree d.port = true := heard_demodFree.trans hdemod
  rw [detect, ← heard]
  simp only [hspill', hfree', hdemod', Bool.false_eq_true, if_false, if_true]
  rw [startRx_rfx, heard_rxOf, heard_rfx]

end

/-! ### The gain (R169) -/

section
variable {clipped below : Nat}

theorem setGain_port {g : Nat} : ∃ l, (s.setGain p g).rfPort p = { s.rfPort p with gain := g, gains := l } := by
  unfold setGain
  dsimp only
  split
  next h =>
    subst h
    exact ⟨_, rfl⟩
  · refine ⟨((s.nowNs, (s.rfPort p).gain) :: (s.rfPort p).gains).take 8, ?_⟩
    rw [rfPort_congr (foldl_rfx (fun _ _ => emit_rfx) _ _), rfPort_congr bumpI_rfx, rfPort_modPort_same]

/-- OVERLOAD and the count of clipped samples are all of a port that the second half of a block sets (R169). -/
theorem overloadStep_port {g : Nat} : ∃ o, (s.overloadStep p clipped g).rfPort p = { s.rfPort p with overload := o, clipped := clipped } := by
  unfold overloadStep
  extract_lets hit was s1 now s2
  have h1 : s1.rfPort p = { s.rfPort p with overload := if hit then 40 else (s.rfPort p).overload - 1, clipped := clipped } := rfPort_modPort_same
  have h2 : s2.rfPort p = s1.rfPort p := by
    unfold s2
    split <;> rfl
  refine ⟨_, Eq.trans ?_ (h2.trans h1)⟩
  split
  · exact rfPort_congr rfNotice_rfx
  split
  · exact rfPort_congr rfNotice_rfx
  · rfl

/-- The quiet blocks are counted anew and the gain code is set (R169). -/
def moveGain (p g : Nat) (s : State) : State := (s.modPort p (fun x => { x with quietBlocks := 0 })).setGain p g

theorem agc_off (h : bitAt (s.regI Reg.RFX_PORT_CTRL p) 3 = false) :
    s.agc p clipped below = s.setGain p (field (s.regI Reg.RFX_PORT_CTRL p) 18 16) := by
  simp only [agc, h, Bool.not_false, if_true]

theorem agc_clipping (hon : bitAt (s.regI Reg.RFX_PORT_CTRL p) 3 = true)
    (hclip : max 1 (field (s.regI Reg.RFX_AGC_CFG p) 7 0) ≤ clipped) :
    s.agc p clipped below = s.moveGain p (min (field (s.regI Reg.RFX_RX_GAIN_REF p) 18 16) ((s.rfPort p).gain + 1)) := by
  simp only [agc, moveGain, hon, hclip, Bool.not_true, Bool.false_eq_true, if_false, if_true]

theorem agc_quiet (hon : bitAt (s.regI Reg.RFX_PORT_CTRL p) 3 = true)
    (hclip : clipped < max 1 (field (s.regI Reg.RFX_AGC_CFG p) 7 0)) (hbelow : field (s.regI Reg.RFX_RX_GAIN_REF p) 15 12 + 6 < below)
    (hlong : 4 * field (s.regI Reg.RFX_AGC_CFG p) 15 8 ≤ (s.rfPort p).quietBlocks + 1) :
    s.agc p clipped below = s.moveGain p ((s.rfPort p).gain - 1) := by
  simp only [agc, moveGain, hon, Nat.not_le.2 hclip, hbelow, hlong, Bool.not_true, Bool.false_eq_true, if_false, if_true]

/-- What a port reads after a block that sets its gain code (R169). -/
theorem overloadStep_setGain {g before : Nat} : ∃ l o, ((s.setGain p g).overloadStep p clipped before).rfPort p =
    { s.rfPort p with gain := g, gains := l, overload := o, clipped := clipped } := by
  obtain ⟨l, hgain⟩ := setGain_port (s := s) (p := p) (g := g)
  obtain ⟨o, hstep⟩ := overloadStep_port (s := s.setGain p g) (p := p) (clipped := clipped) (g := before)
  exact ⟨l, o, by rw [hstep, hgain]⟩

theorem overloadStep_moveGain {g before : Nat} : ∃ l o, ((s.moveGain p g).overloadStep p clipped before).rfPort p =
    { s.rfPort p with gain := g, gains := l, quietBlocks := 0, overload := o, clipped := clipped } := by
  obtain ⟨l, o, hp⟩ := overloadStep_setGain (s := s.modPort p (fun x => { x with quietBlocks := 0 })) (p := p) (clipped := clipped) (g := g)
    (before := before)
  exact ⟨l, o, by rw [moveGain, hp, rfPort_modPort_same]⟩

end

/-! ### A frame that has gone out whole (R173, R512) -/

theorem cutRf_idle (h : s.rfx.tx = []) : s.cutRf = s := by rw [cutRf, h]; rfl

theorem truncatePlc_rfx : s.truncatePlc.rfx = s.rfx := truncatePlc_keeps.frame .rfx rfl

theorem truncateFrames_idle (h : s.rfx.tx = []) : s.truncateFrames.rfx = s.rfx := by
  unfold truncateFrames
  split
  · rfl
  · rw [cutRf_idle (by rw [truncatePlc_rfx, h]), truncatePlc_rfx]

/-- A draining release waits until no frame is on the air, so it ends none (R512). -/
theorem drainLook_rfx : s.drainLook.rfx = s.rfx := by
  unfold drainLook
  split
  next h =>
    have hidle : s.rfx.tx = [] := List.isEmpty_iff.1 (Bool.and_eq_true_iff.1 h).2
    exact (noonBeat_keeps.frame .rfx rfl).trans (truncateFrames_idle hidle)
  · rfl

end

end State

end Sys2Proof.Machine
end

section
/-! A frame goes on the air: its length is at most the one that RFX was asked for, what RFX admits it admits for a shorter frame too, and a
send that may go is formed and launched (R167, R172 to R174, R188, R192, R194, R196). -/
namespace Sys2Proof.Machine

/-! ### The length of a frame (R188, R194) -/

@[simp] theorem length_le (n x : Nat) : (le n x).length = n := by
  induction n generalizing x with
  | zero => rfl
  | succ n ih => rw [le, List.length_cons, ih]

@[simp] theorem length_zeros (n : Nat) : (zeros n).length = n := List.length_replicate

theorem length_flatMap_le (n : Nat) (l : List Nat) : (l.flatMap (le n)).length = n * l.length := by
  induction l with
  | nil => rfl
  | cons x l ih => rw [List.flatMap_cons, List.length_append, ih, length_le, List.length_cons, Nat.mul_succ, Nat.add_comm]

theorem length_mshHead (x : MshSend) (netId src : Nat) (fpend : Bool) :
    (mshHead x netId src fpend).length = 26 + 8 * x.route.length + (if x.sec then 8 else 0) := by
  unfold mshHead
  simp only [List.length_append, length_le, length_zeros, length_flatMap_le]
  split
  · simp only [List.length_append, length_le, length_zeros]
  · simp only [List.length_nil]

/-- An HTAG has 4 bytes at most: a tag of CCM over no plaintext (R194, R220). -/
theorem length_hopTag_le (k : KeySnap) (hop nseq : Nat) (b : Bytes) : (hopTag k hop nseq b).length ≤ 4 := by
  unfold hopTag ccmSeal ccmTag
  simp only [bytesOf, natsOf, List.map_nil, xorL, List.zipWith_nil_left, List.nil_append, List.length_map]
  exact List.length_take_le ..

/-- A frame finished is no longer than the length that its send gives (R188). -/
theorem length_finishMsh_le {k : KeySnap} {x : MshSend} {netId src nseq body : Nat} {fpend : Bool}
    (h : x.sealedBody.length = body + (if x.sec then micBytes x.miclen else 0)) :
    (finishMsh k src nseq (mshHead x netId src fpend ++ x.sealedBody)).length ≤ mshLen x.route.length x.sec body x.miclen := by
  have htag := length_hopTag_le k src nseq (mshHead x netId src fpend ++ x.sealedBody)
  simp only [finishMsh, List.length_append, length_mshHead, length_le, h, mshLen] at htag ⊢
  split <;> omega

theorem onAirUs_mono {p len len' rate : Nat} (h : len' ≤ len) : onAirUs p len' rate ≤ onAirUs p len rate := by
  unfold onAirUs
  exact Nat.add_le_add_right (Nat.mul_le_mul_right _ (by omega)) 16

namespace State

section
variable {s t u v : State} {p ch rate instant : Nat}

/-! ### What RFX admits (R172, R174) -/

theorem dutyOk_mono {us us' : Nat} (h : us' ≤ us) (hok : s.dutyOk p ch us = true) : s.dutyOk p ch us' = true := by
  simp only [dutyOk, Bool.and_eq_true, List.all_eq_true, Bool.or_eq_true, decide_eq_true_eq] at hok ⊢
  obtain ⟨hhit, hall⟩ := hok
  refine ⟨hhit, fun r hr => ?_⟩
  obtain ⟨⟨hused, hlong⟩, hoff⟩ := hall r hr
  exact ⟨⟨by omega, hlong.imp id (Nat.le_trans h)⟩, hoff⟩

/-- A frame is admitted where a longer one is: only the duty cycle reads its length (R172, R174). -/
theorem rfRefusal_none_of_le {len len' : Nat} (h : len' ≤ len) (hok : s.rfRefusal p ch rate len instant = none) :
    s.rfRefusal p ch rate len' instant = none := by
  unfold rfRefusal at hok ⊢
  split at hok
  · cases hok
  next hport =>
  split at hok
  · cases hok
  next hslot =>
  split at hok
  · cases hok
  next hbusy =>
  split at hok
  · cases hok
  next hduty =>
  have hduty' : s.dutyOk p ch (onAirUs (s.preambleBits p) len' rate) = true :=
    dutyOk_mono (onAirUs_mono h) (by simpa only [Bool.not_eq_eq_eq_not, Bool.not_true, Bool.not_eq_false] using hduty)
  rwa [if_neg hport, if_neg hslot, if_neg hbusy, if_neg (by rw [hduty', Bool.not_true]; exact Bool.false_ne_true)]

/-- RFX, its registers and the device time are alike: all that admits a frame (R172). -/
def SameRfx (s t : State) : Prop := t.rfx = s.rfx ∧ t.tim = s.tim ∧ ∀ off, windowOf off = 5 → SameAt off s t

theorem SameRfx.trans (h : SameRfx s t) (k : SameRfx t u) : SameRfx s u := by
  obtain ⟨hr, ht, hw⟩ := h
  obtain ⟨kr, kt, kw⟩ := k
  exact ⟨kr.trans hr, kt.trans ht, fun off ho => (hw off ho).trans (kw off ho)⟩

theorem winOf_rfx {off : Nat} (h : windowOf off = 5) : winOf off = 5 := by
  have hlt : off < keyStride := by
    unfold windowOf at h
    unfold keyStride
    omega
  rw [winOf, Nat.mod_eq_of_lt hlt, h]

theorem SameRfx.of_keeps {ps : List Part} (h : Keeps ps s t) (hr : allows ps .rfx = false) (ht : allows ps .tim = false)
    (hw : allows ps (.win 5) = false) : SameRfx s t :=
  ⟨h.frame .rfx hr, h.frame .tim ht, fun off ho idx => h.frame (.win 5) hw _ ((winOf_regKey off idx).trans (winOf_rfx ho))⟩

theorem SameRfx.rfRefusal (h : SameRfx s t) (len : Nat) : t.rfRefusal p ch rate len instant = s.rfRefusal p ch rate len instant := by
  obtain ⟨hr, ht, hw⟩ := h
  have hnow : t.nowNs = s.nowNs := by rw [nowNs, ht, nowNs]
  have hair : t.rfAir = s.rfAir := by rw [rfAir, hr, hnow, rfAir]
  have hreg {off : Nat} (ho : windowOf off = 5) : t.regI off = s.regI off := funext (hw off ho).regI
  have hctrl : t.regI Reg.RFX_PORT_CTRL = s.regI Reg.RFX_PORT_CTRL := hreg (by decide)
  have hpre : t.preambleBits p = s.preambleBits p := by rw [preambleBits, hreg (by decide), preambleBits]
  have hslot : t.freeSlot p = s.freeSlot p := by
    unfold freeSlot txChannels
    rw [hctrl, hair]
  have hbusy : t.chBusy p ch rate = s.chBusy p ch rate := by rw [chBusy, hair, chBusy]
  have hhas : t.regionHas p = s.regionHas p := by
    funext r c
    rw [regionHas, hreg (by decide), regionHas]
  have hused : t.regionUsed = s.regionUsed := by
    funext k
    rw [regionUsed, hr, regionUsed]
  have hduty (us : Nat) : t.dutyOk p ch us = s.dutyOk p ch us := by
    unfold dutyOk
    rw [hhas, hused, hreg (off := Reg.RFX_DC_LIMIT) (by decide), hreg (off := Reg.RFX_DC_OFF) (by decide), hr, hnow]
  unfold State.rfRefusal
  rw [hctrl, rfPort_congr hr, hslot, hbusy, hpre, hduty, hnow]

/-! ### A frame on the air (R162, R172, R173) -/

theorem charge_tx {add : Bool} {age us : Nat} {regions : List Nat} : (s.charge add age regions p ch us).rfx.tx = s.rfx.tx := rfl

theorem txenUp_tx : (s.txenUp p).rfx.tx = s.rfx.tx := by
  unfold txenUp
  split <;> rfl

/-- A frame that RFX does not refuse is on the air (R172). -/
theorem rfLaunch_onAir {ref : Nat} {psdu : Bytes} (h : s.rfRefusal p ch rate psdu.length instant = none) :
    OnAir ref p ch (s.rfLaunch ref p ch rate instant psdu).1 := by
  unfold rfLaunch
  rw [h]
  dsimp only
  rw [OnAir, emit_rfx, txenUp_tx, charge_tx, setRfx_rfx]
  simp only [List.any_append, List.any_cons, BEq.rfl, Bool.and_self, Bool.true_or, Bool.or_true]

/-! ### A unicast attempt (R191, R192, R194, R196, R209) -/

/-- A send as its next attempt carries it: an unsecured one takes its body and the route down (R191, R196). -/
def attempt (s : State) (x : MshSend) : MshSend := if x.sec then x else { x with sealedBody := x.body, route := s.downRoute x }

section
variable {x : MshSend}

theorem attempt_route : (s.attempt x).route = if x.sec then x.route else s.downRoute x := by
  unfold attempt
  split <;> rfl

@[simp] theorem attempt_sec : (s.attempt x).sec = x.sec := by
  unfold attempt
  split <;> rfl

@[simp] theorem attempt_body : (s.attempt x).body = x.body := by
  unfold attempt
  split <;> rfl

@[simp] theorem attempt_miclen : (s.attempt x).miclen = x.miclen := by
  unfold attempt
  split <;> rfl

@[simp] theorem attempt_dst : (s.attempt x).dst = x.dst := by
  unfold attempt
  split <;> rfl

/-- What a unicast attempt that may go needs: its seal where it is secured, both permits, no refusal by RFX, and a key and an NSEQ for its
first hop (R32, R172, R192, R194, R196). -/
theorem canSend_needs (h : canSend s x p ch rate instant = true) :
    (x.sec = true → x.sealed = true ∧ x.sealedBody.length = x.body.length + micBytes x.miclen) ∧ s.permits = true ∧
    s.rfRefusal p ch rate (mshLen (s.attempt x).route.length x.sec x.body.length x.miclen) instant = none ∧
    ∃ i c key u n v, s.epOf (mshHop (s.attempt x)) = some (i, c) ∧ s.tagKeyOut (some c) = (.ok key, u) ∧ u.drawNseq i = (some n, v) := by
  simp only [canSend, Bool.and_eq_true, Bool.or_eq_true, Bool.not_eq_true', beq_iff_eq, Option.isNone_iff_eq_none] at h
  obtain ⟨⟨⟨hseal, hpermits⟩, hrefusal⟩, hhop⟩ := h
  rw [mshHop, attempt_route, attempt_dst]
  refine ⟨fun hsec => hseal.resolve_left (by simp only [hsec, Bool.true_eq_false, not_false_eq_true]), hpermits, hrefusal, ?_⟩
  split at hhop
  · cases hhop
  next i c hep =>
    split at hhop
    next key u hkey =>
      obtain ⟨n, hn⟩ := Option.isSome_iff_exists.1 hhop
      exact ⟨i, c, key, u, n, _, hep, hkey, Prod.ext hn rfl⟩
    · cases hhop

/-- The PSDU of a send under a key of its first hop and a fresh NSEQ (R188, R192, R194). -/
def psduOf (key : KeySnap) (n : Nat) (x : MshSend) (fpend : Bool) (s : State) : Bytes :=
  finishMsh key s.msh.cfg.netEui n (mshHead { x with nseq := n } s.msh.cfg.netId s.msh.cfg.netEui fpend ++ x.sealedBody)

theorem unicastPsdu_ok {i n : Nat} {c : Ctx} {key : KeySnap} (hep : s.epOf (mshHop x) = some (i, c))
    (hkey : s.tagKeyOut (some c) = (.ok key, u)) (hn : u.drawNseq i = (some n, v)) (fpend : Bool) :
    s.unicastPsdu x fpend = (.inr (v.psduOf key n x fpend, n), v) := by
  simp only [unicastPsdu, hep, hkey, hn, psduOf]

/-- A PSDU takes no more than the length that RFX is asked for (R188). -/
theorem length_psduOf_le {key : KeySnap} {n body : Nat} (hbody : x.sealedBody.length = body + (if x.sec then micBytes x.miclen else 0))
    (fpend : Bool) : (s.psduOf key n x fpend).length ≤ mshLen x.route.length x.sec body x.miclen :=
  length_finishMsh_le (x := { x with nseq := n }) hbody

theorem length_attempt_sealedBody (h : x.sec = true → x.sealedBody.length = x.body.length + micBytes x.miclen) :
    (s.attempt x).sealedBody.length = x.body.length + (if x.sec then micBytes x.miclen else 0) := by
  unfold attempt
  split
  · exact h ‹_›
  · rfl

/-- An attempt that may go is formed, and RFX, which the forming leaves alone, admits the frame (R172, R196). -/
theorem formUnicast_of_canSend {piggy : Bool} (h : canSend s x p ch rate instant = true) :
    ∃ v b, s.formUnicast x p ch rate instant piggy = (v, some b) ∧ v.rfRefusal p ch rate b.length instant = none := by
  obtain ⟨hseal, hpermits, hrefusal, i, c, key, u, n, v, hep, hkey, hn⟩ := canSend_needs h
  have hsealed : ¬ (x.sec && !x.sealed) = true := fun hc => by
    obtain ⟨hsec, hopen⟩ := Bool.and_eq_true_iff.1 hc
    rw [(hseal hsec).1] at hopen
    cases hopen
  have hpsdu := unicastPsdu_ok hep hkey hn
  have hsame : SameRfx s v := .of_keeps (unicastPsdu_keeps_of (hpsdu false)) rfl rfl rfl
  have hlen (fpend : Bool) : (v.psduOf key n (s.attempt x) fpend).length ≤ mshLen (s.attempt x).route.length x.sec x.body.length x.miclen := by
    have hbody := length_attempt_sealedBody (s := s) fun hsec => (hseal hsec).2
    rw [← attempt_sec (s := s), ← attempt_miclen (s := s)] at hbody ⊢
    exact length_psduOf_le hbody fpend
  unfold formUnicast
  rw [if_neg hsealed, hpermits, ← attempt]
  simp only [Bool.not_true, Bool.false_eq_true, if_false, attempt_sec, attempt_body, attempt_miclen, hrefusal, hpsdu]
  refine ⟨_, _, rfl, ?_⟩
  rw [((hsame.trans (.of_keeps modMsh_keeps rfl rfl rfl)).trans (.of_keeps mshOnAir_keeps rfl rfl rfl)).rfRefusal]
  exact rfRefusal_none_of_le (hlen _) hrefusal

theorem sendFired_onAir (h : canSend s x p ch x.rate instant = true) : OnAir x.id p ch (s.sendFired x p ch instant) := by
  obtain ⟨v, b, hform, hadmit⟩ := formUnicast_of_canSend (piggy := false) h
  rw [sendFired, hform]
  exact rfLaunch_onAir hadmit

/-- A send that waits for its launch instant or a retry, no flood, goes out on its hop's home channel where its time, the opportunity and
R183 allow it (R183, R199, R209). -/
theorem launchMsh_goes (hflood : x.typ ≠ 3) (hphase : x.phase = .ready ∨ x.phase = .retry ∧ x.retryAsn ≤ instant / 1000000)
    (hport : p = (s.hopCtx x).homePort) (hopen : s.openSend x = true)
    (hstated : x.stated = true → x.at' = some (instant + s.syncLead p x.rate) ∧ s.timeValid = true)
    (hslots : s.framePermits p (s.hopCtx x).homeCh false none instant (instant + s.airNs p (s.attemptLen x) x.rate) = true) :
    s.launchMsh x p instant = s.sendFired x p (s.hopCtx x).homeCh instant := by
  have hwaits : ¬ ((x.phase ≠ .ready ∧ x.phase ≠ .retry) ∨ x.typ = 3 ∨ p ≠ (s.hopCtx x).homePort ∨
      (x.phase = .retry ∧ instant / 1000000 < x.retryAsn)) := by
    rintro (⟨hready, hretry⟩ | h | h | ⟨hretry, hwait⟩)
    · exact hphase.elim hready fun h => hretry h.1
    · exact hflood h
    · exact h hport
    · rcases hphase with h | ⟨_, hdue⟩
      · rw [h] at hretry
        cases hretry
      · omega
  have htime : ¬ (x.stated && x.at' != some (instant + s.syncLead p x.rate)) = true := fun hc => by
    obtain ⟨hs, hne⟩ := Bool.and_eq_true_iff.1 hc
    exact bne_iff_ne.1 hne (hstated hs).1
  have hvalid : ¬ (x.stated = true ∧ ¬ s.timeValid = true) := fun hc => hc.2 (hstated hc.1).2
  show (if _ then _ else _) = _
  rw [if_neg hwaits, if_neg htime, hopen, hslots, Bool.not_true, if_neg Bool.false_ne_true, if_neg Bool.false_ne_true, if_neg hvalid]

theorem launchMsh_tim : (s.launchMsh x p instant).tim = s.tim := launchMsh_keeps.frame .tim rfl

theorem takeFiredRf_fired {e : Launch} (h : s.takeFiredRf = some (e, u)) : u.tim.fired = s.tim.fired.erase e := by
  unfold takeFiredRf at h
  split at h <;> cases h
  rfl

end

end

end State

end Sys2Proof.Machine
end

section
/-! The rows of the radio ports, of reception, of the gain, of jamming and of transmission (R163 to R176). -/
namespace Sys2Proof.Machine

open State

section
variable {s : State} {port : Nat}

/-! ### The ports (R164) -/

theorem exec_rfClockLoss_effect (hport : port < 2) (hclk : (s.rfPort port).clk = true) : Completes (.rfClockLoss port) s fun t =>
    (t.rfPort port).clk = false ∧ t.rfx.rx = s.rfx.rx.filter (fun r => r.port != port) := by
  have hexec : exec (.rfClockLoss port) s = .next (s.losePort port 1 (fun x => { x with clk := false })) :=
    congrArg Host.Outcome.next (if_neg (by simp only [hclk, Bool.not_true, Bool.or_false, decide_eq_true_eq, Nat.not_le, hport]))
  obtain ⟨e, b, hp⟩ := losePort_port (s := s) (p := port) (reason := 1) (f := fun x => { x with clk := false })
  exact ⟨_, hexec, congrArg RfPort.clk hp, losePort_rx⟩

theorem exec_rfClockReturn_effect (hport : port < 2) (hclk : (s.rfPort port).clk = false) (hshut : s.shut (21 + port) = false) :
    Completes (.rfClockReturn port) s fun t => (t.rfPort port).clk = true ∧ t.rfx.rx = s.rfx.rx := by
  have hexec : exec (.rfClockReturn port) s = .next ((s.modPort port (fun x => { x with clk := true })).rfNotice port 2 0) :=
    congrArg Host.Outcome.next (if_neg (by simp only [hclk, hshut, Bool.or_false, decide_eq_true_eq, Nat.not_le, hport]))
  obtain ⟨hp, hrx⟩ := rfNotice_modPort (s := s) (p := port) (f := fun x => { x with clk := true }) (reason := 2) (ch := 0)
  exact ⟨_, hexec, congrArg RfPort.clk hp, hrx⟩

theorem exec_rfFramingLoss_effect {w : FramingIn} (hport : w.port < 2) (hframed : (s.rfPort w.port).framed = true)
    (hbad : framedWord w.edges = false ∨ w.fifo = true) : Completes (.rfFramingLoss w) s fun t =>
      (t.rfPort w.port).framed = false ∧ t.rfx.rx = s.rfx.rx.filter (fun r => r.port != w.port) := by
  have hwrong : (framedWord w.edges && !w.fifo) = false := by
    rcases hbad with h | h
    · rw [h, Bool.false_and]
    · rw [h, Bool.not_true, Bool.and_false]
  have hexec : exec (.rfFramingLoss w) s = .next (s.losePort w.port 3 (fun x => { x with framed := false })) :=
    congrArg Host.Outcome.next (if_neg (by simp only [hframed, hwrong, Bool.not_true, Bool.or_false, decide_eq_true_eq, Nat.not_le, hport]))
  obtain ⟨e, b, hp⟩ := losePort_port (s := s) (p := w.port) (reason := 3) (f := fun x => { x with framed := false })
  exact ⟨_, hexec, congrArg RfPort.framed hp, losePort_rx⟩

theorem exec_rfFramingRestore_effect {w : FramingIn} (hport : w.port < 2) (hframed : (s.rfPort w.port).framed = false)
    (hshut : s.shut (21 + w.port) = false) (hwords : framedWords 16 w.edges = true) (hfifo : w.fifo = false) :
    Completes (.rfFramingRestore w) s fun t => (t.rfPort w.port).framed = true ∧ t.rfx.rx = s.rfx.rx := by
  have hexec : exec (.rfFramingRestore w) s = .next ((s.modPort w.port (fun x => { x with framed := true })).rfNotice w.port 4 0) :=
    congrArg Host.Outcome.next (if_neg (by
      simp only [hframed, hshut, hwords, hfifo, Bool.not_true, Bool.or_false, decide_eq_true_eq, Nat.not_le, hport]))
  obtain ⟨hp, hrx⟩ := rfNotice_modPort (s := s) (p := w.port) (f := fun x => { x with framed := true }) (reason := 4) (ch := 0)
  exact ⟨_, hexec, congrArg RfPort.framed hp, hrx⟩

/-! ### Reception (R167, R168, R171) -/

theorem exec_rfSyncDetect_sound {d : SyncIn} (hport : d.port < 2) (hch : d.ch < 128) (hon : s.rxOn d.port = true)
    (hblank : s.rfBlanked d.port d.ch = false) (hpre : 16 ≤ d.preamble) (herr : d.errors ≤ field (s.regI Reg.RFX_SYNC_CFG d.port) 1 0)
    (hcfo : d.cfo.natAbs ≤ 300) : exec (.rfSyncDetect d) s = .next (s.detect d) := by
  have hopen : ¬ (decide (2 ≤ d.port) || decide (128 ≤ d.ch) || !s.rxOn d.port || s.rfBlanked d.port d.ch) = true := by
    simp only [hon, hblank, Bool.not_true, Bool.or_false, Bool.or_eq_true, decide_eq_true_eq, not_or, Nat.not_le, hport, hch, and_self]
  have hsound : ¬ (decide (d.preamble < 16) || decide (field (s.regI Reg.RFX_SYNC_CFG d.port) 1 0 < d.errors)
      || decide (300 < d.cfo.natAbs)) = true := by
    simp only [Bool.or_eq_true, decide_eq_true_eq]
    omega
  show execRfSyncDetect d s = _
  rw [execRfSyncDetect, if_neg hopen]
  exact congrArg Host.Outcome.next (if_neg hsound)

section
variable {id : Nat} {x : RfRx} (hbegun : s.begun 5 = true) (hrx : s.rfx.rx.find? (fun r => r.id == id) = some x)
include hbegun hrx

theorem exec_rfPhrDecision_sound {w : Nat} {q : Nat × Bool} (hphr : rfPhrOf w x.rate x.ch = some q) : exec (.rfPhrDecision id w) s =
    .next (s.setRfx (fun r => { r with rx := r.rx.map (fun y => if y.id == id then { y with phr := some q } else y) })) := by
  show execRfPhrDecision id w s = _
  simp only [execRfPhrDecision, hbegun, hrx, hphr, Bool.not_true, Bool.false_eq_true, if_false]

theorem exec_rfPhrDecision_failed {w : Nat} (hphr : rfPhrOf w x.rate x.ch = none) : exec (.rfPhrDecision id w) s =
    .next ((s.setRfx (fun r => { r with rx := r.rx.erase x })).bumpI Reg.RFX_PHR_FAIL x.port) := by
  show execRfPhrDecision id w s = _
  simp only [execRfPhrDecision, hbegun, hrx, hphr, Bool.not_true, Bool.false_eq_true, if_false]

end

/-- The frame that a reception hands to MSH at its end (R167, R168, R176). -/
def State.frameOf (s : State) (x : RfRx) (b : Bytes) : RxFrame :=
  { path := 1 + x.port, radio := true, bytes := b, rts := x.rts, chans := x.ch, lq := x.rssi
    overload := x.overload || (s.rfPort x.port).overload != 0, zcFallback := false, ie := s.dev.nc
    endNs := s.nowNs - (40224 + 4 * bitNs x.rate), fcsBad := fcsFails b, rate := x.rate, cfo := x.cfo }

/-- A reception is over and its frame is MSH's (R167, R171). -/
def State.handOver (x : RfRx) (f : RxFrame) (s : State) : State :=
  { s.setRfx (fun r => { r with rx := r.rx.erase x }) with msh := { s.msh with inbox := s.msh.inbox ++ [f] } }

theorem exec_rfFrameEnd_effect {id len : Nat} {w : Bool} {psdu : Bytes} {x : RfRx} (hbegun : s.begun 5 = true)
    (hrx : s.rfx.rx.find? (fun r => r.id == id) = some x) (hphr : x.phr = some (len, w)) : Completes (.rfFrameEnd id psdu) s fun t =>
      t.rfx.rx = s.rfx.rx.erase x ∧
        t.msh.inbox = s.msh.inbox ++ [s.frameOf x (if w then whiten (fit len psdu) else fit len psdu)] := by
  have hexec : exec (.rfFrameEnd id psdu) s = .next (((s.handOver x (s.frameOf x (if w then whiten (fit len psdu) else fit len psdu))).bumpI
      Reg.RFX_FRAMES_OK x.port).bumpI Reg.RFX_CH_FRAMES (x.port * 128 + x.ch)) := by
    show execRfFrameEnd id psdu s = _
    simp only [execRfFrameEnd, hbegun, hrx, hphr, Bool.not_true, Bool.false_eq_true, if_false]
    rfl
  refine ⟨_, hexec, ?_, ?_⟩
  · rw [bumpI_rfx, bumpI_rfx]
    rfl
  · rw [bumpI_msh, bumpI_msh]
    rfl

/-! ### The gain (R169) -/

section
variable {block : List PortEdge} {below : Nat} (hport : port < 2) (hon : s.rxOn port = true)
include hport hon

theorem exec_rfAgcBlock_open : exec (.rfAgcBlock port block below) s =
    .next ((s.agc port (clippedIn block) below).overloadStep port (clippedIn block) (s.rfPort port).gain) :=
  congrArg Host.Outcome.next (if_neg (by simp only [hon, Bool.not_true, Bool.or_false, decide_eq_true_eq, Nat.not_le, hport]))

theorem exec_rfAgcBlock_clipping (hagc : bitAt (s.regI Reg.RFX_PORT_CTRL port) 3 = true)
    (hclip : max 1 (field (s.regI Reg.RFX_AGC_CFG port) 7 0) ≤ clippedIn block) : Completes (.rfAgcBlock port block below) s fun t =>
      (t.rfPort port).gain = min (field (s.regI Reg.RFX_RX_GAIN_REF port) 18 16) ((s.rfPort port).gain + 1) ∧
        (t.rfPort port).quietBlocks = 0 ∧ (t.rfPort port).clipped = clippedIn block := by
  refine ⟨_, exec_rfAgcBlock_open hport hon, ?_⟩
  rw [agc_clipping hagc hclip]
  obtain ⟨l, o, hp⟩ := overloadStep_moveGain
  rw [hp]
  exact ⟨rfl, rfl, rfl⟩

theorem exec_rfAgcBlock_quiet (hagc : bitAt (s.regI Reg.RFX_PORT_CTRL port) 3 = true)
    (hclip : clippedIn block < max 1 (field (s.regI Reg.RFX_AGC_CFG port) 7 0))
    (hbelow : field (s.regI Reg.RFX_RX_GAIN_REF port) 15 12 + 6 < below)
    (hlong : 4 * field (s.regI Reg.RFX_AGC_CFG port) 15 8 ≤ (s.rfPort port).quietBlocks + 1) : Completes (.rfAgcBlock port block below) s fun t =>
      (t.rfPort port).gain = (s.rfPort port).gain - 1 ∧ (t.rfPort port).quietBlocks = 0 ∧ (t.rfPort port).clipped = clippedIn block := by
  refine ⟨_, exec_rfAgcBlock_open hport hon, ?_⟩
  rw [agc_quiet hagc hclip hbelow hlong]
  obtain ⟨l, o, hp⟩ := overloadStep_moveGain
  rw [hp]
  exact ⟨rfl, rfl, rfl⟩

theorem exec_rfAgcBlock_off (hagc : bitAt (s.regI Reg.RFX_PORT_CTRL port) 3 = false) : Completes (.rfAgcBlock port block below) s fun t =>
    (t.rfPort port).gain = field (s.regI Reg.RFX_PORT_CTRL port) 18 16 := by
  refine ⟨_, exec_rfAgcBlock_open hport hon, ?_⟩
  rw [agc_off hagc]
  obtain ⟨l, o, hp⟩ := overloadStep_setGain
  rw [hp]

end

/-! ### Jamming (R170) -/

section
variable {j : JamIn}

theorem exec_rfJamStart_effect (hport : port < 2) (hch : j.ch < 128) (hnew : (s.rfPort port).jammed.contains j.ch = false)
    (hlevel : j.below < field (s.regI Reg.RFX_JAM_CFG port) 7 0) (hlong : field (s.regI Reg.RFX_JAM_CFG port) 31 16 ≤ j.ms)
    (hquiet : (s.rfx.lastSync.get? (port * 128 + j.ch)).all
      (fun t0 => decide (t0 + field (s.regI Reg.RFX_JAM_CFG port) 31 16 * 1000000 ≤ s.nowNs)) = true) :
    Completes (.rfJamStart port j) s fun t => (t.rfPort port).jammed = j.ch :: (s.rfPort port).jammed ∧ t.rfx.rx = s.rfx.rx := by
  have hexec : exec (.rfJamStart port j) s = .next ((s.modPort port (fun x => { x with jammed := j.ch :: x.jammed })).rfNotice port 7 j.ch) := by
    have hopen : (decide (2 ≤ port) || decide (128 ≤ j.ch) || (s.rfPort port).jammed.contains j.ch
        || decide (field (s.regI Reg.RFX_JAM_CFG port) 7 0 ≤ j.below) || decide (j.ms < field (s.regI Reg.RFX_JAM_CFG port) 31 16)) = false := by
      simp only [hnew, Bool.or_eq_false_iff, decide_eq_false_iff_not, Nat.not_le, Nat.not_lt]
      exact ⟨⟨⟨⟨hport, hch⟩, trivial⟩, hlevel⟩, hlong⟩
    show execRfJamStart port j s = _
    cases hsync : s.rfx.lastSync.get? (port * 128 + j.ch) with
    | none => simp only [execRfJamStart, hsync, hopen, Bool.not_true, Bool.or_self, Bool.false_eq_true, if_false]
    | some t0 =>
      rw [hsync, Option.all_some] at hquiet
      simp only [execRfJamStart, hsync, hopen, hquiet, Bool.not_true, Bool.or_self, Bool.false_eq_true, if_false]
  obtain ⟨hp, hrx⟩ := rfNotice_modPort (s := s) (p := port) (f := fun x => { x with jammed := j.ch :: x.jammed }) (reason := 7) (ch := j.ch)
  exact ⟨_, hexec, congrArg RfPort.jammed hp, hrx⟩

theorem exec_rfJamClear_effect (hjam : (s.rfPort port).jammed.contains j.ch = true)
    (hlevel : field (s.regI Reg.RFX_JAM_CFG port) 7 0 < j.below) (hlong : 100 ≤ j.ms) : Completes (.rfJamClear port j) s fun t =>
      (t.rfPort port).jammed = (s.rfPort port).jammed.erase j.ch := by
  have hexec : exec (.rfJamClear port j) s = .next ((s.modPort port (fun x => { x with jammed := x.jammed.erase j.ch })).rfNotice port 8 j.ch) :=
    congrArg Host.Outcome.next (if_pos (by simp only [hjam, hlevel, hlong, decide_true, Bool.and_self]))
  obtain ⟨hp, -⟩ := rfNotice_modPort (s := s) (p := port) (f := fun x => { x with jammed := x.jammed.erase j.ch }) (reason := 8) (ch := j.ch)
  exact ⟨_, hexec, congrArg RfPort.jammed hp⟩

end

/-! ### Transmission (R172, R173) -/

theorem exec_rfTxLaunch_fired {e : Launch} {u : State} {x : MshSend} (hfired : s.takeFiredRf = some (e, u))
    (hsend : u.mshSendOf e.ref = some x) : exec .rfTxLaunch s = .next (u.launchMsh x (if e.lane ≤ 4 then 0 else 1) e.instant) := by
  show execRfTxLaunch s = _
  simp only [execRfTxLaunch, hfired, hsend]

theorem exec_rfTxEnd_found {slot : Nat} {x : RfTx} (h : s.rfx.tx.find? (fun y => y.port == port && y.slot == slot) = some x) :
    exec (.rfTxEnd port slot) s = .next ((((s.freeTx x s.nowNs).bumpI Reg.RFX_TX_FRAMES port).mshSent x.ref).drainLook) := by
  show execRfTxEnd port slot s = _
  simp only [execRfTxEnd, h]

theorem exec_rfTxEnd_effect {slot : Nat} {x : RfTx} (h : s.rfx.tx.find? (fun y => y.port == port && y.slot == slot) = some x) :
    Completes (.rfTxEnd port slot) s fun t => t.rfx.tx = s.rfx.tx.erase x := by
  have hsent {u : State} : (u.mshSent x.ref).rfx = u.rfx := mshSent_keeps.frame .rfx rfl
  exact ⟨_, exec_rfTxEnd_found h, (congrArg Rfx.tx ((drainLook_rfx.trans hsent).trans bumpI_rfx)).trans freeTx_tx⟩

end

/-- Settles O32: each row is its operation on the state, and the operations' own lemmas say what they leave of the ports and the frames. -/
theorem radioPortCommandsComplete : Obligations.RadioPortCommandsComplete := by
  unfold Obligations.RadioPortCommandsComplete
  refine ⟨?_, ?_, ?_, ?_, ?_, ?_, ?_, ?_, ?_, ?_, ?_, ?_, ?_, ?_, ?_, ?_⟩
  · exact fun _ _ ⟨hport, hclk⟩ => exec_rfClockLoss_effect hport hclk
  · exact fun _ _ ⟨hport, hclk, hshut⟩ => exec_rfClockReturn_effect hport hclk hshut
  · exact fun _ _ ⟨hport, hframed, hbad⟩ => exec_rfFramingLoss_effect hport hframed hbad
  · exact fun _ _ ⟨hport, hframed, hshut, hwords, hfifo⟩ => exec_rfFramingRestore_effect hport hframed hshut hwords hfifo
  · rintro d s ⟨hport, hch, hon, hblank⟩ ⟨hpre, herr, hcfo⟩ ⟨hspill, hfree, hdemod⟩
    have hrfx := detect_rfx hspill hfree hdemod
    refine ⟨_, exec_rfSyncDetect_sound hport hch hon hblank hpre herr hcfo, congrArg Rfx.rx hrfx, congrArg Rfx.nextId hrfx, ?_⟩
    rw [hrfx]
    exact Tab.get_put_same
  · exact fun _ _ _ _ _ ⟨hbegun, hrx, hphr⟩ => ⟨_, exec_rfPhrDecision_sound hbegun hrx hphr, rfl⟩
  · exact fun _ _ _ _ ⟨hbegun, hrx, hphr⟩ => ⟨_, exec_rfPhrDecision_failed hbegun hrx hphr, congrArg Rfx.rx bumpI_rfx⟩
  · rintro id len w psdu b x s ⟨hbegun, hrx, hphr⟩ rfl
    exact exec_rfFrameEnd_effect hbegun hrx hphr
  · exact fun _ _ _ _ ⟨hport, hon, hagc⟩ hclip => exec_rfAgcBlock_clipping hport hon hagc hclip
  · exact fun _ _ _ _ ⟨hport, hon, hagc⟩ ⟨hclip, hbelow⟩ hlong => exec_rfAgcBlock_quiet hport hon hagc hclip hbelow hlong
  · exact fun _ _ _ _ ⟨hport, hon, hagc⟩ => exec_rfAgcBlock_off hport hon hagc
  · exact fun _ _ _ ⟨hport, hch, hnew⟩ ⟨hlevel, hlong⟩ hquiet => exec_rfJamStart_effect hport hch hnew hlevel hlong hquiet
  · exact fun _ _ _ ⟨hjam, hlevel, hlong⟩ => exec_rfJamClear_effect hjam hlevel hlong
  · exact fun _ => ⟨_, rfl, rfl, rfl, rfl⟩
  · rintro e port h u x s ⟨hfired, hsend, rfl, hflood⟩ hphase ⟨rfl, hhome, hopen⟩ hstated hslots hcan
    refine ⟨_, exec_rfTxLaunch_fired hfired hsend, ?_, ?_⟩
    · rw [launchMsh_goes hflood hphase hhome hopen hstated hslots]
      exact sendFired_onAir hcan
    · rw [launchMsh_tim, takeFiredRf_fired hfired]
  · exact fun _ _ _ _ h => exec_rfTxEnd_effect h

end Sys2Proof.Machine
end

section
/-! The closes that QCOMMIT decides (R281 to R283, R286), and the table of open blocks for which O35 fails. -/
namespace Sys2Proof.Machine

theorem Tab.get_del_of_none {α : Type} {i j : Nat} {t : Tab α} (h : t.get? i = none) : (t.del j).get? i = none := by
  induction t with
  | nil => rfl
  | cons e t ih =>
    obtain ⟨k, v⟩ := e
    simp only [get?] at h
    split at h
    · cases h
    · simp only [del]
      split
      · exact h
      · rename_i hi _
        rw [get?, if_neg hi, ih h]

namespace State
section
variable {s : State} {j k cause : Nat}

/-! ### A close carried out (R272, R281) -/

/-- A close moves its block from the open ones to the held ones under the next BSEQ, and leaves the closes that wait and the live steps. -/
theorem closeNow_cod {o : OpenBlock} (ho : s.cod.opens.get? j = some o) : ∃ watch stalledAt, (s.closeNow j cause).cod = { s.cod with
    opens := s.cod.opens.del j, held := s.cod.held ++ [o.close (j / 8) (j % 8) cause s.cod.bseq], bseq := s.cod.bseq + 1
    watch := watch, stalledAt := stalledAt } := by
  simp only [closeNow, ho, codStalled, apply_ite State.cod, setCod_cod, bump_cod]
  split <;> exact ⟨_, _, rfl⟩

/-! ### A close decided (R282, R286) -/

/-- The stream has no open block, or its close is decided and waits. -/
def CloseSettled (k : Nat) (s : State) : Prop := s.cod.opens.has k = false ∨ s.closeWaits k = true

/-- A close that is decided finds its stream settled, is carried out, or joins those that wait. -/
theorem decideClose_cases (s : State) (j cause : Nat) : (s.decideClose j cause = s ∧ CloseSettled j s) ∨
    (∃ watch held bseq stalledAt, (s.decideClose j cause).cod = { s.cod with
      opens := s.cod.opens.del j, held := held, bseq := bseq, watch := watch, stalledAt := stalledAt }) ∨
    s.decideClose j cause = s.setCod (fun c => { c with waiting := c.waiting ++ [(j, cause)] }) := by
  unfold decideClose
  split
  · rename_i h
    exact .inl ⟨rfl, by simpa [CloseSettled] using h⟩
  · rename_i h
    split
    · obtain ⟨o, ho⟩ := Option.isSome_iff_exists.1 (by simpa using h : s.cod.opens.has j = true ∧ _).1
      obtain ⟨watch, stalledAt, hcod⟩ := closeNow_cod (cause := cause) ho
      exact .inr (.inl ⟨watch, _, _, stalledAt, hcod⟩)
    · exact .inr (.inr rfl)

theorem decideClose_live : (s.decideClose j cause).cod.live = s.cod.live := by
  obtain ⟨h, -⟩ | ⟨_, _, _, _, h⟩ | h := decideClose_cases s j cause <;> rw [h]
  rfl

theorem decideClose_opens_sorted (hs : Tab.sorted s.cod.opens = true) : Tab.sorted (s.decideClose j cause).cod.opens = true := by
  obtain ⟨h, -⟩ | ⟨_, _, _, _, h⟩ | h := decideClose_cases s j cause <;> rw [h]
  · exact hs
  · exact Tab.sorted_del hs
  · exact hs

theorem CloseSettled.decideClose (hk : CloseSettled k s) : CloseSettled k (s.decideClose j cause) := by
  obtain ⟨h, -⟩ | ⟨_, _, _, _, h⟩ | h := decideClose_cases s j cause
  · rwa [h]
  · refine hk.imp (fun ho => ?_) (fun hw => ?_)
    · simp only [Tab.has, Option.isSome_eq_false_iff, Option.isNone_iff_eq_none] at ho ⊢
      rw [h]
      exact Tab.get_del_of_none ho
    · rwa [closeWaits, h]
  · rw [h]
    exact hk.imp id (fun hw => by rw [closeWaits, setCod_cod, List.any_append, ← closeWaits, hw, Bool.true_or])

/-- A table whose keys rise holds one block of a stream, so that its removal leaves none. -/
theorem decideClose_settles (hs : Tab.sorted s.cod.opens = true) : CloseSettled j (s.decideClose j cause) := by
  obtain ⟨h, hj⟩ | ⟨_, _, _, _, h⟩ | h := decideClose_cases s j cause
  · rwa [h]
  · exact .inl (by rw [h, Tab.has, Tab.get_del_same hs]; rfl)
  · exact .inr (by simp [h, closeWaits])

theorem CloseSettled.foldl {l : List Nat} (hk : CloseSettled k s) : CloseSettled k (l.foldl (fun s j => s.decideClose j cause) s) := by
  induction l generalizing s with
  | nil => exact hk
  | cons j l ih => exact ih hk.decideClose

theorem foldl_decideClose_settles {l : List Nat} (hs : Tab.sorted s.cod.opens = true) :
    ∀ k ∈ l, CloseSettled k (l.foldl (fun s j => s.decideClose j cause) s) := by
  induction l generalizing s with
  | nil => exact fun _ h => absurd h List.not_mem_nil
  | cons j l ih =>
    intro k hk
    rcases List.mem_cons.1 hk with rfl | hk
    · exact CloseSettled.foldl (l := l) (decideClose_settles hs)
    · exact ih (decideClose_opens_sorted hs) k hk

theorem foldl_decideClose_live {l : List Nat} : (l.foldl (fun s j => s.decideClose j cause) s).cod.live = s.cod.live := by
  induction l generalizing s with
  | nil => rfl
  | cons j l ih => exact ih.trans decideClose_live

end
end State

/-- What the clause of O35 on QCOMMIT says, of every state whose table of open blocks is in its canonical form (R283). -/
theorem exec_codQcommit_of_sorted {s : State} (hs : Tab.sorted s.cod.opens = true) : Completes .codQcommit s fun t =>
    t.cod.live = s.codStaged ∧ ∀ k ∈ s.openStreams (fun _ o => o.bounded), t.cod.opens.has k = false ∨ t.closeWaits k = true :=
  ⟨_, rfl, State.foldl_decideClose_live, State.foldl_decideClose_settles hs⟩

/-- Refutes O35: its clause on QCOMMIT speaks of every state, also of one whose table of open blocks holds a stream twice. There a block
of stream 0 that is not bounded stands before one that is; the close takes the first, and the bounded one stays open with no close waiting.
Where the keys of the table rise, as a table's keys do, the clause holds (`exec_codQcommit_of_sorted`). -/
theorem not_frameSecurityCommandsComplete : ¬ Obligations.FrameSecurityCommandsComplete := by
  unfold Obligations.FrameSecurityCommandsComplete
  rintro ⟨-, -, -, -, -, -, -, -, -, -, -, -, -, -, -, -, hqcommit, -⟩
  obtain ⟨t, hexec, -, hsettled⟩ := hqcommit
    { cod := { opens := [(0, { bounded := false }), (0, { bounded := true })] }, arc := { ceil := 1 } }
  obtain rfl := Host.Outcome.next.inj hexec
  exact absurd (hsettled 0 (by decide)) (by decide)

end Sys2Proof.Machine
end

section
/-! The line of the endpoint commands: how one begins, what its change makes of the context, and what a command answers and reads
(R237 to R240, R266). -/
namespace Sys2Proof.Machine

/-- A bit that was clear, set and cleared again. -/
theorem putBit_putBit_of_clear {w i : Nat} (h : w.testBit i = false) : putBit (putBit w i true) i false = w := by
  have hset : putBit w i true = w + 2 ^ i := by simp [putBit, h]
  have hbit : (w + 2 ^ i).testBit i = true := hset ▸ testBit_putBit_same w i true
  rw [hset, putBit, hbit, if_neg (by decide), if_neg (by decide), Nat.add_sub_cancel]

theorem putBit_of_eq {w i : Nat} {b : Bool} (h : w.testBit i = b) : putBit w i b = w := if_pos h

/-- The context that EP.CREATE asks for (R266). -/
def newCtx (c : CmdRef) (p : EpIn) : Ctx :=
  { eui := p.eui, inst := c.inst, kind := p.kind, flags := p.flags + 1, profile := p.profile, topoValid := p.topoValid
    topoNode := p.topoNode, feeder := p.feeder, keyset := p.keyset, fcntH := p.fcntH, fcntMap := onesMap, nseqH := p.nseqH
    nseqMap := onesMap, txFcnt := p.txFcnt, txNseq := p.txNseq }

/-- FLAGS that EP.CREATE accepts leave bit [7], which carries AUTO, clear once VALID is set (R238, R266). -/
theorem newCtx_flags {c : CmdRef} {p : EpIn} (h : epFlagsOk p.kind p.flags = true) : (newCtx c p).flags.testBit 7 = false := by
  simp only [epFlagsOk, bitAt, Nat.testBit_zero, Bool.and_eq_true, decide_eq_true_eq, Bool.not_eq_true', decide_eq_false_iff_not] at h
  obtain ⟨⟨⟨-, hsmall⟩, hvalid⟩, -⟩ := h
  exact Nat.testBit_lt_two_pow (show p.flags + 1 < 2 ^ 7 by omega)

/-- A deleted context is not valid (R266). -/
theorem changed_delete_valid (x : Ctx) : (State.Ctx.changed x .delete).valid = false := testBit_putBit_same x.flags 0 false

namespace State

section
variable {s t : State} {c : CmdRef} {b : Bytes} {status r0 r1 : Nat}

/-! ### Answers and data handed over (R58, R66) -/

@[simp] theorem replyWith_ing : (s.replyWith c status r0 r1).ing = s.ing := replyWith_keeps.frame .ing rfl

theorem answeredWith_replyWith (hc : c.queue ≤ 256) : AnsweredWith c status (r0 % 2 ^ 32) (s.replyWith c status r0 r1) := by
  rw [replyWith, if_neg (show ¬ c.queue = ownQueue by rw [ownQueue]; omega)]
  simp only [AnsweredWith, addReply, List.getLast?_append, List.getLast?_singleton, Option.some_or, Option.map_some]

theorem answered_of_answeredWith (h : AnsweredWith c status r0 t) : Answered c status t := by
  have := congrArg (Option.map fun ((queue, tag, st, queued, _) : Nat × Nat × Nat × Bool × Nat) => (queue, tag, st, queued)) h
  simpa only [Option.map_map, Function.comp_def, Option.map_some] using this

theorem answered_reply (hc : c.queue ≤ 256) : Answered c status (s.reply c status) :=
  answered_of_answeredWith (answeredWith_replyWith hc)

theorem writes_writeData : Writes c b s (s.writeData c b) := fun k hk hlost hlink => by
  simp only [writeData, hk, hlost, hlink, Bool.not_true, Bool.or_self, Bool.false_eq_true, if_false, and_self]

/-- Data is handed over before the answer, which adds nothing to the outputs and the bridge. -/
theorem writes_writeData_reply : Writes c b s ((s.writeData c b).reply c status) := fun k hk hlost hlink => by
  rw [reply_keeps.frame .out rfl, reply_keeps.frame .hbr rfl]
  exact writes_writeData k hk hlost hlink

end

section
variable {s : State} {c : CmdRef} {k : EpCmd} {rest : List EpCmd} {i n : Nat} {x : Ctx}

/-! ### A command of the line begins (R240) -/

/-- The state with another line of commands. -/
def withLine (rest : List EpCmd) (s : State) : State := s.setIng (fun g => { g with epq := rest })

@[simp] theorem ckptWrite_ing : (s.ckptWrite i x).ing = s.ing := ckptWrite_keeps.frame .ing rfl

/-- Does a waiting command carry AUTO? -/
def autoOf (k : EpCmd) : Bool :=
  match k.change with
  | .create x => bitAt x.flags 7
  | _ => false

/-- The command as it begins: AUTO has taken the lowest free index (R266). -/
def settled (s : State) (k : EpCmd) : EpCmd :=
  match k.change with
  | .create x =>
    if bitAt x.flags 7 then { k with index := s.freeIndex.getD k.index, change := .create { x with flags := putBit x.flags 7 false } } else k
  | _ => k

/-- The answer of the unit checks of the command as it begins (R266). -/
def beginStatus (s : State) (k : EpCmd) : Nat × Nat :=
  match (s.settled k).change with
  | .create x => s.createStatus (s.settled k) x (autoOf k)
  | _ => s.changeStatus (s.settled k)

theorem settled_create (h : x.flags.testBit 7 = false) : s.settled ⟨c, i, .create x⟩ = ⟨c, i, .create x⟩ :=
  if_neg (ne_true_of_eq_false h)

theorem beginStatus_create (h : x.flags.testBit 7 = false) :
    s.beginStatus ⟨c, i, .create x⟩ = s.createStatus ⟨c, i, .create x⟩ x false := by
  rw [beginStatus, settled_create h, show autoOf ⟨c, i, .create x⟩ = false from h]

section
variable {j : Nat} (h : x.flags.testBit 7 = false) (hfree : s.freeIndex = some i)
include h hfree

theorem settled_create_auto : s.settled ⟨c, j, .create { x with flags := putBit x.flags 7 true }⟩ = ⟨c, i, .create x⟩ := by
  have hauto : bitAt (putBit x.flags 7 true) 7 = true := testBit_putBit_same ..
  simp only [settled, hauto, if_true, hfree, Option.getD_some, putBit_putBit_of_clear h]

theorem beginStatus_create_auto :
    s.beginStatus ⟨c, j, .create { x with flags := putBit x.flags 7 true }⟩ = s.createStatus ⟨c, i, .create x⟩ x true := by
  have hauto : autoOf ⟨c, j, .create { x with flags := putBit x.flags 7 true }⟩ = true := testBit_putBit_same ..
  rw [beginStatus, settled_create_auto h hfree, hauto]

end

theorem beginEp_nil (hq : s.ing.epq = []) : s.beginEp n = s := by
  cases n with
  | zero => rfl
  | succ n => rw [beginEp, hq]

theorem beginEp_cons (hq : s.ing.epq = k :: rest) : s.beginEp (n + 1) =
    if (s.beginStatus k).1 = St.ok then
      ((s.withLine (s.settled k :: rest)).startJob .ep).ckptWrite (s.settled k).index
        (Ctx.changed (s.ctx (s.settled k).index) (s.settled k).change)
    else beginEp n ((s.withLine rest).replyWith k.cmd (s.beginStatus k).1 (s.beginStatus k).2 0) := by
  obtain ⟨c, i, change⟩ := k
  rw [beginEp, hq]
  cases change with
  | create x =>
    cases hauto : bitAt x.flags 7 <;>
      simp only [settled, beginStatus, autoOf, withLine, hauto, if_true, Bool.false_eq_true, if_false]
  | _ => rfl

/-- Beginning commands changes no context. -/
@[simp] theorem beginEp_ctxs : (s.beginEp n).ing.ctxs = s.ing.ctxs := by
  induction n generalizing s with
  | zero => rfl
  | succ n ih =>
    cases hq : s.ing.epq with
    | nil => rw [beginEp_nil hq]
    | cons k rest =>
      rw [beginEp_cons hq]
      split
      · rw [ckptWrite_ing]
        rfl
      · rw [ih, replyWith_ing]
        rfl

/-- A command that finds the line empty begins at once. -/
theorem queueEp_first (hq : s.ing.epq = []) (hok : s.beginStatus k = (St.ok, 0)) : (s.queueEp k).ing =
    { s.ing with epq := [s.settled k], jobs := s.ing.jobs.put s.ing.nextJob .ep, nextJob := s.ing.nextJob + 1 } := by
  have hline : (s.setIng (fun g => { g with epq := g.epq ++ [k] })).ing.epq = [k] := by rw [setIng_ing, hq]; rfl
  have hst : ((s.setIng (fun g => { g with epq := g.epq ++ [k] })).beginStatus k).1 = St.ok := congrArg Prod.fst hok
  rw [queueEp, hq]
  exact (congrArg State.ing ((beginEp_cons hline).trans (if_pos hst))).trans ckptWrite_ing

/-- A command that finds others in the line waits behind them. -/
theorem queueEp_waits (hq : s.ing.epq ≠ []) : s.queueEp k = s.setIng (fun g => { g with epq := g.epq ++ [k] }) :=
  if_neg (by rwa [List.isEmpty_iff])

theorem queueEp_line (hset : s.settled k = k) (hok : s.ing.epq = [] → s.beginStatus k = (St.ok, 0)) :
    (s.queueEp k).ing.epq = s.ing.epq ++ [k] ∧ (s.ing.epq = [] → (s.queueEp k).ing.jobs.get? s.ing.nextJob = some .ep) := by
  by_cases hq : s.ing.epq = []
  · rw [queueEp_first hq (hok hq), hset, hq]
    exact ⟨rfl, fun _ => Tab.get_put_same⟩
  · rw [queueEp_waits hq]
    exact ⟨rfl, fun h => absurd h hq⟩

/-! ### A change takes effect (R239, R240, R266) -/

/-- What the units hold for the endpoint of a deletion is released. -/
def released (k : EpCmd) (s : State) : State :=
  match k.change with
  | .delete => ((s.plcRelease k.index).mshRelease k.index).endNightSends k.index
  | _ => s

/-- The context that a change leaves. -/
def appliedCtx (s : State) (k : EpCmd) : Ctx :=
  match k.change with
  | .create _ => { Ctx.changed (s.ctx k.index) k.change with created := s.stamp }
  | _ => Ctx.changed (s.ctx k.index) k.change

theorem setCtx_epq : (s.setCtx i x).ing.epq = s.ing.epq := by
  simp only [setCtx]
  split <;> rfl

theorem modCtx_epq {f : Ctx → Ctx} : (s.modCtx i f).ing.epq = s.ing.epq := by
  unfold modCtx
  split
  · exact setCtx_epq
  · rfl

theorem plcRelease_epq : (s.plcRelease i).ing.epq = s.ing.epq := by
  have hset {u : State} : (u.dropTxSet i).ing.epq = u.ing.epq := by
    unfold dropTxSet
    exact modCtx_epq.trans (by split <;> rfl)
  exact hset.trans (congrArg Ing.epq (releaseHandle_keeps.frame .ing rfl))

theorem released_epq : (released k s).ing.epq = s.ing.epq := by
  unfold released
  split
  · rw [endNightSends_keeps.frame .ing rfl, mshRelease_keeps.frame .ing rfl, plcRelease_epq]
  · rfl

/-- The cache alone moves when a pinned context comes in (R239). -/
theorem cacheTouch_lines {pinned : Bool} : (if pinned then (s.cacheTouch i).1 else s).ing.ctxs = s.ing.ctxs ∧
    (if pinned then (s.cacheTouch i).1 else s).ing.epq = s.ing.epq := by
  cases pinned with
  | false => exact ⟨rfl, rfl⟩
  | true =>
    rw [if_pos rfl, cacheTouch]
    split <;> exact ⟨rfl, rfl⟩

theorem applyChange_lines : (s.applyChange k).ing.ctxs = (released k s).ing.ctxs.put k.index ((released k s).appliedCtx k) ∧
    (s.applyChange k).ing.epq = (released k s).ing.epq := by
  obtain ⟨c, i, change⟩ := k
  cases change <;> exact cacheTouch_lines

/-- A change that neither creates nor deletes goes into the context that stands there. -/
theorem appliedCtx_released {change : EpChange} (hcreate : ∀ x, change ≠ .create x) (hdelete : change ≠ .delete) :
    (released ⟨c, i, change⟩ s).appliedCtx ⟨c, i, change⟩ = Ctx.changed (s.ctx i) change := by
  cases change with
  | create x => exact absurd rfl (hcreate x)
  | delete => exact absurd rfl hdelete
  | _ => rfl

/-! ### The write of the command in execution is durable (R240) -/

/-- RESULT0 of a change (R266). -/
def resultIndex (k : EpCmd) : Nat :=
  match k.change with
  | .create _ => k.index
  | _ => 0

theorem changeResult_fst : (s.changeResult k).1 = resultIndex k := by
  obtain ⟨c, i, change⟩ := k
  cases change <;> rfl

/-- A command whose change has taken effect and whose answer stands; the others are the line. -/
def finished (k : EpCmd) (rest : List EpCmd) (s : State) : State :=
  ((s.withLine rest).applyChange k).replyWith k.cmd St.ok (((s.withLine rest).applyChange k).changeResult k).1
    (((s.withLine rest).applyChange k).changeResult k).2

theorem finished_epq : (finished k rest s).ing.epq = rest := by
  rw [finished, replyWith_ing, applyChange_lines.2]
  exact released_epq

theorem finished_ctx : (finished k rest s).ing.ctxs.get? k.index = some ((released k (s.withLine rest)).appliedCtx k) := by
  rw [finished, replyWith_ing, applyChange_lines.1, Tab.get_put_same]

theorem finished_answered (hc : k.cmd.queue ≤ 256) : AnsweredWith k.cmd St.ok (resultIndex k % 2 ^ 32) (finished k rest s) := by
  rw [finished, changeResult_fst]
  exact answeredWith_replyWith hc

theorem epDone_cons (hq : s.ing.epq = k :: rest) : s.epDone true = (finished k rest s).beginEp (rest.length + 1) := by
  have hend : s.epDone true = (finished k rest s).beginEp ((finished k rest s).ing.epq.length + 1) := by rw [epDone, hq]; rfl
  rw [hend, finished_epq]

theorem epDone_ctx (hq : s.ing.epq = k :: rest) :
    (s.epDone true).ing.ctxs.get? k.index = some ((released k (s.withLine rest)).appliedCtx k) := by
  rw [epDone_cons hq, beginEp_ctxs, finished_ctx]

theorem epDone_last (hq : s.ing.epq = [k]) (hc : k.cmd.queue ≤ 256) :
    (s.epDone true).ing.epq = [] ∧ AnsweredWith k.cmd St.ok (resultIndex k % 2 ^ 32) (s.epDone true) := by
  rw [epDone_cons hq, beginEp_nil finished_epq]
  exact ⟨finished_epq, finished_answered hc⟩

end
end State

open State

section
variable {s : State} {id : Nat} {recordOk : Bool}

/-! ### Checkpoint writes (R240) -/

theorem exec_contextCheckpoint_dirty {i : Nat} (hbegun : s.begun 6 = true) (hdirty : s.ing.dirty.contains i = true)
    (hck : s.ckptWritable = true) : exec (.contextCheckpoint i) s =
      .next (((s.setIng (fun g => { g with dirty := g.dirty.erase i })).startJob (.ctx i (s.ctx i))).ckptWrite i (s.ctx i)) := by
  show execContextCheckpoint i s = _
  rw [execContextCheckpoint, if_pos hbegun, writeBack, hdirty, hck]
  rfl

theorem backDone_ing {i : Nat} {x : Ctx} : ∃ dirtyAt, (s.backDone i x true).ing =
    { s.ing with ckpt := s.ing.ckpt.put i x, dirtyAt := dirtyAt } :=
  ⟨_, reportHorizon_keeps.frame .ing rfl⟩

theorem exec_checkpointWriteDone_ctx {i : Nat} {x : Ctx} (hjob : s.ing.jobs.get? id = some (.ctx i x)) :
    exec (.checkpointWriteDone id true recordOk) s = .next ((s.endJob id).backDone i x true) := by
  show execCheckpointWriteDone id true recordOk s = _
  simp only [execCheckpointWriteDone, hjob]

theorem exec_checkpointWriteDone_bcast {ceil : Nat} (hjob : s.ing.jobs.get? id = some (.bcast ceil)) :
    exec (.checkpointWriteDone id true recordOk) s = .next ((s.endJob id).bcastDone ceil true) := by
  show execCheckpointWriteDone id true recordOk s = _
  simp only [execCheckpointWriteDone, hjob]

theorem exec_checkpointWriteDone_ep (hjob : s.ing.jobs.get? id = some .ep) :
    exec (.checkpointWriteDone id true recordOk) s = .next ((s.endJob id).epDone true) := by
  show execCheckpointWriteDone id true recordOk s = _
  simp only [execCheckpointWriteDone, hjob]

theorem exec_checkpointWriteDone_command {k : EpCmd} {rest : List EpCmd} (hjob : s.ing.jobs.get? id = some .ep)
    (hq : s.ing.epq = k :: rest) (hc : k.cmd.queue ≤ 256) : Completes (.checkpointWriteDone id true recordOk) s fun t =>
      t.ing.ctxs.get? k.index = some ((released k ((s.endJob id).withLine rest)).appliedCtx k) ∧
        (rest = [] → t.ing.epq = [] ∧ AnsweredWith k.cmd St.ok (resultIndex k % 2 ^ 32) t) := by
  refine ⟨_, exec_checkpointWriteDone_ep hjob, epDone_ctx hq, ?_⟩
  rintro rfl
  exact epDone_last hq hc

theorem ctx_of_get {i : Nat} {x : Ctx} (h : s.ing.ctxs.get? i = some x) : s.ctx i = x := by
  rw [ctx, Tab.getD, h, Option.getD_some]

/-! ### The commands that join the line (R240, R266) -/

/-- A row that puts a command in the line as it is completes by that (R240). -/
theorem completes_of_queueEp {instr : Instr} {k : EpCmd} (hexec : exec instr s = .next (s.queueEp k)) (hset : s.settled k = k)
    (hok : s.ing.epq = [] → s.beginStatus k = (St.ok, 0)) : Completes instr s fun t =>
      t.ing.epq = s.ing.epq ++ [k] ∧ (s.ing.epq = [] → t.ing.jobs.get? s.ing.nextJob = some .ep) :=
  ⟨_, hexec, queueEp_line hset hok⟩

section
variable {c : CmdRef} {p : EpIn} (hflags : epFlagsOk p.kind p.flags = true) (hfeeder : p.feeder ≠ 0xFFFF) (hnseq : p.txNseq ≠ 0)
  (hfcnt : p.txFcnt ≠ 0)
include hflags hfeeder hnseq hfcnt

theorem exec_epCreate_sound : exec (.epCreate c p) s =
    .next (s.queueEp ⟨c, p.index, .create { newCtx c p with flags := putBit (newCtx c p).flags 7 p.auto }⟩) :=
  congrArg Host.Outcome.next (if_neg (by simp only [hflags, hfeeder, hnseq, hfcnt, decide_false, Bool.not_true, Bool.or_self,
    Bool.false_eq_true, not_false_eq_true]))

theorem exec_epCreate_named_effect (hauto : p.auto = false)
    (hok : s.ing.epq = [] → s.createStatus ⟨c, p.index, .create (newCtx c p)⟩ (newCtx c p) false = (St.ok, 0)) :
    Completes (.epCreate c p) s fun t => t.ing.epq = s.ing.epq ++ [⟨c, p.index, .create (newCtx c p)⟩] ∧
      (s.ing.epq = [] → t.ing.jobs.get? s.ing.nextJob = some .ep) := by
  have hbit : (newCtx c p).flags.testBit 7 = false := newCtx_flags hflags
  have hexec := exec_epCreate_sound (s := s) (c := c) hflags hfeeder hnseq hfcnt
  rw [hauto, putBit_of_eq hbit] at hexec
  exact completes_of_queueEp hexec (settled_create hbit) fun hq => (beginStatus_create hbit).trans (hok hq)

theorem exec_epCreate_auto_effect {i : Nat} (hauto : p.auto = true) (hq : s.ing.epq = []) (hfree : s.freeIndex = some i)
    (hok : s.createStatus ⟨c, i, .create (newCtx c p)⟩ (newCtx c p) true = (St.ok, 0)) : Completes (.epCreate c p) s fun t =>
      t.ing.epq = [⟨c, i, .create (newCtx c p)⟩] ∧ t.ing.jobs.get? s.ing.nextJob = some .ep := by
  have hbit : (newCtx c p).flags.testBit 7 = false := newCtx_flags hflags
  have hexec := exec_epCreate_sound (s := s) (c := c) hflags hfeeder hnseq hfcnt
  have hing := queueEp_first hq ((beginStatus_create_auto (j := p.index) hbit hfree).trans hok)
  rw [settled_create_auto hbit hfree] at hing
  rw [hauto] at hexec
  exact ⟨_, hexec, congrArg Ing.epq hing, (congrArg (fun g => g.jobs.get? s.ing.nextJob) hing).trans Tab.get_put_same⟩

end

section
variable {c : CmdRef} {i : Nat}

theorem exec_epWriteAttr_sound {p : EpAttr} (hd : s.dataHeld c = false) (hflags : epFlagsOk p.kind p.flags = true)
    (hfeeder : p.feeder ≠ 0xFFFF) : exec (.epWriteAttr c i p) s =
      .next (s.queueEp ⟨c, i, .attr p.kind p.flags p.profile p.topoValid p.topoNode p.feeder⟩) := by
  show execEpWriteAttr c i p s = _
  simp only [execEpWriteAttr, hd, hflags, hfeeder, decide_false, Bool.not_true, Bool.or_self, Bool.false_eq_true, if_false]

/-- A command with data joins the line once it holds its data (R97). -/
theorem next_of_not_dataHeld {t : State} (hd : s.dataHeld c = false) : (Host.Outcome.next (if s.dataHeld c then s else t) : R) = .next t :=
  congrArg Host.Outcome.next (if_neg (ne_true_of_eq_false hd))

/-! ### The commands that read (R266) -/

theorem exec_epRead_sound {first lines : Nat} (hlow : 1 ≤ lines) (hhigh : first + lines ≤ 16) (hst : s.epStatus c i = St.ok) :
    exec (.epRead c i first lines) s = .next ((s.writeData c (slice (s.ctxBytes i (s.ctx i)) (64 * first) (64 * lines))).reply c St.ok) := by
  show execEpRead c i first lines s = _
  rw [execEpRead, if_neg (by omega)]
  exact congrArg Host.Outcome.next (if_neg (not_not_intro hst))

theorem exec_epStats_endpoint (hst : s.epStatus c i = St.ok) : exec (.epStats c i 0) s = .next ((s.writeData c
    (slice (s.ctxBytes i (s.ctx i)) 448 192 ++ slice (s.ctxBytes i (s.ctx i)) 832 64)).reply c St.ok) :=
  congrArg Host.Outcome.next (if_neg (not_not_intro hst))

theorem exec_epLookup_found {eui : Nat} {x : Ctx} (hep : s.epOf eui = some (i, x)) (hmine : c.queue = 256 ∨ x.inst = c.inst) :
    ∃ r1, exec (.epLookup c eui) s = .next (s.replyWith c St.ok i r1) := by
  show ∃ r1, execEpLookup c eui s = _
  by_cases hm : c.queue = 256
  · exact ⟨x.inst, by simp only [execEpLookup, hep, if_pos hm]⟩
  · exact ⟨0, by simp only [execEpLookup, hep, if_neg hm, if_pos (hmine.resolve_left hm)]⟩

theorem exec_epStatsBackfill_manager (hm : c.queue = 256) : exec (.epStatsBackfill c) s =
    .next ((s.writeData c (backfillBytes s.ing.backfill)).setIng (fun g => { g with backfillRead := some c })) :=
  congrArg Host.Outcome.next (if_neg (not_not_intro hm))

theorem exec_backfillTlpAcknowledged_live (hread : s.ing.backfillRead = some c)
    (hcmd : s.cmd.cmds.any (fun k => k.queue == c.queue && k.tag == c.tag) = true)
    (hres : s.cmd.results.any (fun r => r.queue == c.queue && r.tag == c.tag) = false) : exec .backfillTlpAcknowledged s =
      .next ((s.setIng (fun g => { g with backfillRead := none, backfill := [], backfillPresent := false })).reply c St.ok) := by
  show execBackfillTlpAcknowledged s = _
  simp only [execBackfillTlpAcknowledged, hread, setIng_cmd, hcmd, hres, Bool.not_false, Bool.and_self, if_true]
  rfl

end
end

/-- Settles O36: each command's row is an operation on the line of commands, on the checkpoint's jobs or on the context read, and the
operations' own lemmas say what it leaves. -/
theorem endpointCommandsComplete : Obligations.EndpointCommandsComplete := by
  unfold Obligations.EndpointCommandsComplete
  refine ⟨?_, ?_, ?_, ?_, ?_, ?_, ?_, ?_, ?_, ?_, ?_, ?_, ?_, ?_, ?_, ?_, ?_, ?_, ?_, ?_, ?_, ?_, ?_⟩
  · rintro i s ⟨hbegun, hdirty, hck⟩
    refine ⟨_, exec_contextCheckpoint_dirty hbegun hdirty hck, ?_, ?_, ?_⟩ <;> rw [ckptWrite_ing]
    · rfl
    · exact Tab.get_put_same
    · rfl
  · intro id i x recordOk s hjob
    obtain ⟨_, hing⟩ := backDone_ing (s := s.endJob id) (i := i) (x := x)
    refine ⟨_, exec_checkpointWriteDone_ctx hjob, ?_, ?_⟩ <;> rw [hing]
    · exact Tab.get_put_same
    · rfl
  · rintro id i c x rest recordOk s ⟨hjob, hq, hc⟩
    obtain ⟨t, hexec, hctx, hlast⟩ := exec_checkpointWriteDone_command (recordOk := recordOk) hjob hq hc
    have hx : t.ctx i = { Ctx.changed (s.ctx i) (.create x) with created := s.stamp } := ctx_of_get hctx
    refine ⟨t, hexec, ?_, ?_, ?_, ?_, hlast⟩ <;> rw [hx] <;> rfl
  · rintro id i c rest recordOk s ⟨hjob, hq, hc⟩
    obtain ⟨t, hexec, hctx, hlast⟩ := exec_checkpointWriteDone_command (recordOk := recordOk) hjob hq hc
    refine ⟨t, hexec, ?_, fun hrest => (hlast hrest).imp_right answered_of_answeredWith⟩
    rw [epAt, hctx]
    exact if_neg (ne_true_of_eq_false (changed_delete_valid _))
  · rintro id i c k rest recordOk s ⟨hjob, hq, hc, hk⟩
    obtain ⟨t, hexec, hctx, hlast⟩ := exec_checkpointWriteDone_command (recordOk := recordOk) hjob hq hc
    refine ⟨t, hexec, ?_, fun hrest => (hlast hrest).imp_right answered_of_answeredWith⟩
    exact (ctx_of_get hctx).trans (appliedCtx_released (by rintro x rfl; cases hk) (by rintro rfl; cases hk))
  · exact fun _ _ _ _ hjob => ⟨_, exec_checkpointWriteDone_bcast hjob, rfl, rfl, rfl⟩
  · rintro c p x s ⟨hflags, hfeeder, hnseq, hfcnt, hauto⟩ hx hok
    obtain rfl : x = newCtx c p := hx
    exact exec_epCreate_named_effect hflags hfeeder hnseq hfcnt hauto hok
  · rintro c p i x s ⟨hflags, hfeeder, hnseq, hfcnt, hauto⟩ hx ⟨hq, hfree, hok⟩
    obtain rfl : x = newCtx c p := hx
    exact exec_epCreate_auto_effect hflags hfeeder hnseq hfcnt hauto hq hfree hok
  · exact fun _ _ _ _ _ ⟨hc, hlow, hhigh, hst⟩ => ⟨_, exec_epRead_sound hlow hhigh hst, answered_reply hc, writes_writeData_reply⟩
  · rintro c i p k s ⟨hd, hflags, hfeeder⟩ ⟨rfl, hok⟩
    exact completes_of_queueEp (exec_epWriteAttr_sound hd hflags hfeeder) rfl hok
  · exact fun _ _ _ _ ⟨hd, hok⟩ => completes_of_queueEp (next_of_not_dataHeld hd) rfl hok
  · exact fun _ _ _ _ _ _ _ ⟨hd, hok⟩ => completes_of_queueEp (next_of_not_dataHeld hd) rfl hok
  · exact fun _ _ _ _ _ ⟨hd, hok⟩ => completes_of_queueEp (next_of_not_dataHeld hd) rfl hok
  · rintro c i wins k s ⟨hd, rfl, hok⟩
    exact completes_of_queueEp (next_of_not_dataHeld hd) rfl hok
  · exact fun _ _ _ hok => completes_of_queueEp rfl rfl hok
  · exact fun _ _ _ hok => completes_of_queueEp rfl rfl hok
  · exact fun _ _ _ _ ⟨hd, hok⟩ => completes_of_queueEp (next_of_not_dataHeld hd) rfl hok
  · exact fun _ _ _ hok => completes_of_queueEp rfl rfl hok
  · rintro c eui i x s ⟨hc, hep, hmine⟩
    obtain ⟨r1, hexec⟩ := exec_epLookup_found hep hmine
    exact ⟨_, hexec, answeredWith_replyWith hc⟩
  · exact fun _ _ _ ⟨hc, hst⟩ => ⟨_, exec_epStats_endpoint hst, answered_reply hc, writes_writeData_reply⟩
  · exact fun _ _ _ hc => ⟨_, rfl, answered_reply hc⟩
  · exact fun _ _ hm => ⟨_, exec_epStatsBackfill_manager hm, rfl, writes_writeData⟩
  · rintro c s ⟨hread, hc, hcmd, hres⟩
    refine ⟨_, exec_backfillTlpAcknowledged_live hread hcmd hres, ?_, ?_, ?_, answered_reply hc⟩ <;> rw [reply, replyWith_ing] <;> rfl

end Sys2Proof.Machine
end

section
/-! How the archive takes an entry from a table: the drive that leaves the set and the namespace that is deleted (R289, R316, R319). -/
namespace Sys2Proof.Machine

theorem Tab.get_adj_same {α : Type} {i : Nat} {t : Tab α} {f : α → α} : (t.adj i f).get? i = (t.get? i).map f := by
  rw [adj]
  cases h : t.get? i with
  | none => exact h
  | some v => exact Tab.get_put_same

theorem Tab.sorted_adj {α : Type} {i : Nat} {t : Tab α} {f : α → α} (h : sorted t = true) : sorted (t.adj i f) = true := by
  rw [adj]
  split
  · exact sorted_put h
  · exact h

/-- A key is gone with its entry where the keys of the table rise. -/
theorem Tab.has_del_same {α : Type} {i : Nat} {t : Tab α} (h : sorted t = true) : (t.del i).has i = false := by
  rw [has, get_del_same h]
  rfl

namespace State

section
variable {s : State} {c : CmdRef} {w : JWhat} {done : Option (CmdRef × Nat)} {l : List CmdRef} {status r0 r1 : Nat}

/-! ### Answers, notices and the journal leave the archive's tables (R301, R321) -/

@[simp] theorem replyWith_arc : (s.replyWith c status r0 r1).arc = s.arc := replyWith_keeps.frame .arc rfl
@[simp] theorem reply_arc : (s.reply c status).arc = s.arc := reply_keeps.frame .arc rfl
@[simp] theorem replyQueued_arc : (s.replyQueued c).arc = s.arc := replyQueued_keeps.frame .arc rfl
@[simp] theorem arcNotice_arc {a b c d e f g : Nat} : (s.arcNotice a b c d e f g).arc = s.arc := arcNotice_keeps.frame .arc rfl

theorem foldl_emit_arc {α : Type} {f : α → Out} {l : List α} : (l.foldl (fun s x => s.emit (f x)) s).arc = s.arc := by
  induction l generalizing s with
  | nil => rfl
  | cons x l ih => exact ih

/-- Writing the next page moves entries from those that wait into the page, and the page into the ring. -/
theorem nextPage_arc : ∃ page waiting ring, s.nextPage.arc = { s.arc with page := page, waiting := waiting, ring := ring } ∧
    page ++ waiting = s.arc.page ++ s.arc.waiting := by
  unfold nextPage
  split
  · rename_i h
    simp only [Bool.and_eq_true, List.isEmpty_iff] at h
    obtain ⟨⟨⟨⟨hpage, -⟩, -⟩, -⟩, -⟩ := h
    refine ⟨_, _, _, by simp only [putPage, setArc_arc, foldl_emit_arc]; rfl, ?_⟩
    rw [hpage]
    exact List.take_append_drop ..
  · exact ⟨_, _, _, rfl, rfl⟩

/-- An entry for the journal joins those of the page in flight and of the next pages. -/
theorem journal_arc : ∃ page waiting ring, (s.journal w done).arc = { s.arc with page := page, waiting := waiting, ring := ring } ∧
    page ++ waiting = s.arc.page ++ s.arc.waiting ++ [⟨w, done⟩] := by
  obtain ⟨page, waiting, ring, harc, hentries⟩ := nextPage_arc (s := s.setArc (fun a => { a with waiting := a.waiting ++ [⟨w, done⟩] }))
  exact ⟨page, waiting, ring, harc, hentries.trans (List.append_assoc ..).symm⟩

/-- What does not read the pages and the ring reads after an entry as before. -/
theorem journal_reads {β : Type} (f : Arc → β)
    (hf : ∀ a page waiting ring, f { a with page := page, waiting := waiting, ring := ring } = f a) : f (s.journal w done).arc = f s.arc := by
  obtain ⟨page, waiting, ring, h, -⟩ := journal_arc (s := s) (w := w) (done := done)
  rw [h, hf]

@[simp] theorem journal_drives : (s.journal w done).arc.drives = s.arc.drives := journal_reads Arc.drives fun _ _ _ _ => rfl
@[simp] theorem journal_deallocs : (s.journal w done).arc.deallocs = s.arc.deallocs := journal_reads Arc.deallocs fun _ _ _ _ => rfl
@[simp] theorem journal_nss : (s.journal w done).arc.nss = s.arc.nss := journal_reads Arc.nss fun _ _ _ _ => rfl
@[simp] theorem journal_dels : (s.journal w done).arc.dels = s.arc.dels := journal_reads Arc.dels fun _ _ _ _ => rfl

theorem journal_contains : ((s.journal w done).arc.page ++ (s.journal w done).arc.waiting).contains ⟨w, done⟩ = true := by
  obtain ⟨page, waiting, ring, h, hentries⟩ := journal_arc (s := s) (w := w) (done := done)
  rw [h, hentries, List.contains_iff_mem]
  exact List.mem_append_right _ (List.mem_singleton_self _)

/-! ### The commands that wait for a drive are answered (R316) -/

@[simp] theorem foldl_reply_arc : (l.foldl (fun s c => s.reply c status) s).arc = s.arc := by
  induction l generalizing s with
  | nil => rfl
  | cons c l ih => exact ih.trans reply_arc

/-- Is the result OK of a command on its way to CMD? -/
def okSent (s : State) (c : CmdRef) : Bool :=
  s.cmd.results.any (fun r => r.queue == c.queue && r.tag == c.tag && r.status == St.ok && !r.queued)

theorem okSent_reply_self (hc : c.queue ≤ 256) : (s.reply c St.ok).okSent c = true := by
  rw [reply, replyWith, if_neg (show ¬ c.queue = ownQueue by rw [ownQueue]; omega), okSent]
  simp only [addReply, List.any_append, List.any_cons, beq_self_eq_true, Bool.not_false, Bool.and_self, Bool.true_or, Bool.or_true]

/-- Results are added behind those that wait, so that one that was sent stays sent. -/
theorem okSent_reply {k : CmdRef} (h : s.okSent c = true) : (s.reply k status).okSent c = true := by
  have hadd {u : State} {r : Result} (hu : u.okSent c = true) : (u.addReply r).okSent c = true := by
    rw [okSent] at hu ⊢
    simp only [addReply, List.any_append, hu, Bool.true_or]
  unfold reply replyWith ownReply
  split
  · split
    · exact h
    · exact hadd h
  · exact hadd h

theorem okSent_foldl_reply_of_sent (h : s.okSent c = true) : (l.foldl (fun s c => s.reply c status) s).okSent c = true := by
  induction l generalizing s with
  | nil => exact h
  | cons k l ih => exact ih (okSent_reply h)

theorem okSent_foldl_reply (hl : c ∈ l) (hc : c.queue ≤ 256) : (l.foldl (fun s c => s.reply c St.ok) s).okSent c = true := by
  induction l generalizing s with
  | nil => exact absurd hl List.not_mem_nil
  | cons k l ih =>
    rcases List.mem_cons.1 hl with rfl | hl
    · exact okSent_foldl_reply_of_sent (l := l) (okSent_reply_self hc)
    · exact ih hl

end

section
variable {s : State} {slot : Nat} {x : Drive}

/-! ### A drive leaves the set (R289, R316) -/

/-- Nothing holds a drive in the set: no copy and no journal stands on it, and no Deallocate is under way there. -/
structure Emptied (s : State) (slot : Nat) : Prop where
  exts : s.extsOn slot = []
  journal : s.arc.journal.contains slot = false
  deallocs : s.arc.deallocs.any (fun d => d.slot == slot) = false

theorem Emptied.of_arc {t : State} (he : Emptied s slot) (hmap : t.arc.map = s.arc.map) (hjournal : t.arc.journal = s.arc.journal)
    (hdeallocs : t.arc.deallocs = s.arc.deallocs) : Emptied t slot :=
  ⟨by rw [extsOn, hmap]; exact he.exts, by rw [hjournal]; exact he.journal, by rw [hdeallocs]; exact he.deallocs⟩

/-- The state once a drive's label is cleared and its queues are deleted; its commands are answered then. -/
def departed (slot : Nat) (x : Drive) (s : State) : State :=
  (List.range x.pairs).foldl (fun s k => s.emit (.nvme slot Nvme.deletePair [k + 1] []))
    (((((s.setArc (fun a => { a with drives := a.drives.del slot })).journal (.drive slot) none).setLabel x.disc none).emit
      (.nvme slot Nvme.label [0] [])).arcNotice 4 slot 0 0 0 0 0)

theorem departed_drives : (departed slot x s).arc.drives = s.arc.drives.del slot := by
  rw [departed, foldl_emit_arc, arcNotice_arc, emit_arc, setLabel, setArc_arc, journal_drives, setArc_arc]

theorem departed_deallocs : (departed slot x s).arc.deallocs = s.arc.deallocs := by
  rw [departed, foldl_emit_arc, arcNotice_arc, emit_arc, setLabel, setArc_arc, journal_deallocs, setArc_arc]

theorem leaveSet_of_emptied (hx : s.drive slot = some x) (hstage : x.stage = 7) (he : Emptied s slot) :
    s.leaveSet slot = x.cmds.foldl (fun s c => s.reply c St.ok) (departed slot x s) := by
  obtain ⟨hexts, hjournal, hdeallocs⟩ := he
  simp only [leaveSet, hx, hstage, hexts, hjournal, hdeallocs, ne_eq, not_true_eq_false, Bool.false_eq_true, or_self, if_false]
  rfl

/-- The slot of a drive that leaves is empty where the keys of the table of drives rise. -/
theorem leaveSet_drive (hs : Tab.sorted s.arc.drives = true) (hx : s.drive slot = some x) (hstage : x.stage = 7) (he : Emptied s slot) :
    (s.leaveSet slot).drive slot = none := by
  rw [leaveSet_of_emptied hx hstage he, drive, foldl_reply_arc, departed_drives, Tab.get_del_same hs]

/-! ### A Deallocate completes (R290) -/

/-- The state once a physical extent is free, before the drive may leave. -/
def deallocated (slot phys : Nat) (d : Dealloc) (s : State) : State :=
  let s := s.setArc (fun a => { a with deallocs := a.deallocs.erase d })
  let s := (s.modDrive slot (fun x => { x with used := x.used.erase phys })).bump Reg.ARC_DEALLOCATED
  match d.aen with
  | some aen => if s.arc.deallocs.any (fun x => x.aen == some aen) then s else s.journal (.free aen) none
  | none => s

variable {phys : Nat} {d : Dealloc}

theorem deallocated_arc : ∃ page waiting ring, (deallocated slot phys d s).arc = { s.arc with
    deallocs := s.arc.deallocs.erase d, drives := s.arc.drives.adj slot (fun x => { x with used := x.used.erase phys })
    page := page, waiting := waiting, ring := ring } := by
  unfold deallocated
  dsimp only
  split
  · split
    · exact ⟨_, _, _, bump_arc⟩
    · obtain ⟨page, waiting, ring, h, -⟩ := journal_arc (w := .free _) (done := none)
        (s := ((s.setArc (fun a => { a with deallocs := a.deallocs.erase d })).modDrive slot
          (fun x => { x with used := x.used.erase phys })).bump Reg.ARC_DEALLOCATED)
      exact ⟨page, waiting, ring, h.trans (by rw [bump_arc]; rfl)⟩
  · exact ⟨_, _, _, bump_arc⟩

theorem deallocDone_of_found (hd : s.arc.deallocs.find? (fun d => d.slot == slot && d.phys == phys) = some d) :
    s.deallocDone slot phys = (deallocated slot phys d s).leaveSet slot := by
  simp only [deallocDone, hd]
  rfl

/-! ### An empty drive is evacuated (R316) -/

theorem holdCheck_arc : ∃ holding, s.holdCheck.arc = { s.arc with holding := holding } := by
  unfold holdCheck
  split
  · exact ⟨true, arcNotice_arc⟩
  · exact ⟨_, rfl⟩

/-- The state with a drive at EVACUATING, its entry in the journal and its notice out. -/
def evacuating (slot : Nat) (s : State) : State :=
  ((s.modDrive slot (fun d => { d with stage := 7 })).journal (.drive slot) none).arcNotice 1 slot 0 7 0 0 0

theorem evacuating_arc : ∃ page waiting ring, (evacuating slot s).arc = { s.arc with
    drives := s.arc.drives.adj slot (fun d => { d with stage := 7 }), page := page, waiting := waiting, ring := ring } := by
  obtain ⟨page, waiting, ring, h, -⟩ := journal_arc (s := s.modDrive slot (fun d => { d with stage := 7 })) (w := .drive slot) (done := none)
  exact ⟨page, waiting, ring, arcNotice_arc.trans h⟩

theorem Emptied.evacuating (he : Emptied s slot) : Emptied (evacuating slot s) slot := by
  obtain ⟨_, _, _, harc⟩ := evacuating_arc (s := s) (slot := slot)
  exact he.of_arc (by rw [harc]) (by rw [harc]) (by rw [harc])

/-- No extent is redirected where the drive has no copy, and the journal is not single where it does not stand there. -/
theorem setStage_evacuating_eq (hx : s.drive slot = some x) (hstage : x.stage ≠ 7) (he : Emptied s slot) :
    s.setStage slot 7 = (evacuating slot s).holdCheck := by
  obtain ⟨hexts, hjournal, -⟩ := he.evacuating
  rw [State.evacuating] at hexts hjournal
  simp only [setStage, hx, if_neg hstage, Nat.reduceEqDiff, or_true, if_true, if_false, true_and, hexts, hjournal, List.filter_nil,
    List.foldl_nil, Bool.false_eq_true]
  rfl

theorem setStage_evacuating_arc (hx : s.drive slot = some x) (hstage : x.stage ≠ 7) (he : Emptied s slot) :
    ∃ page waiting ring holding, (s.setStage slot 7).arc = { s.arc with
      drives := s.arc.drives.adj slot (fun d => { d with stage := 7 }), page := page, waiting := waiting, ring := ring, holding := holding } := by
  obtain ⟨page, waiting, ring, harc⟩ := evacuating_arc (s := s) (slot := slot)
  obtain ⟨holding, hhold⟩ := holdCheck_arc (s := evacuating slot s)
  exact ⟨page, waiting, ring, holding, by rw [setStage_evacuating_eq hx hstage he, hhold, harc]⟩

/-- A drive without a copy comes to EVACUATING with nothing redirected: it stays empty, and its commands wait as before. -/
theorem setStage_evacuating (hs : Tab.sorted s.arc.drives = true) (hx : s.drive slot = some x) (he : Emptied s slot) :
    (s.setStage slot 7).drive slot = some { x with stage := 7 } ∧ Emptied (s.setStage slot 7) slot ∧
      Tab.sorted (s.setStage slot 7).arc.drives = true := by
  by_cases hstage : x.stage = 7
  · have hsame : s.setStage slot 7 = s := by simp only [setStage, hx, if_pos hstage]
    rw [hsame, ← hstage]
    exact ⟨hx, he, hs⟩
  · obtain ⟨_, _, _, _, harc⟩ := setStage_evacuating_arc hx hstage he
    refine ⟨?_, he.of_arc (by rw [harc]) (by rw [harc]) (by rw [harc]), ?_⟩
    · rw [drive, harc, Tab.get_adj_same, ← drive, hx, Option.map_some]
    · rw [harc]
      exact Tab.sorted_adj hs

end

section
variable {s : State} {d : NsDel}

/-! ### A deletion or release is over (R319) -/

/-- The end of a deletion or release whose extents are FREE. -/
def delEnd (d : NsDel) (s : State) : State :=
  if !d.aens.isEmpty then s
  else
    let s := s.setArc (fun a => { a with dels := a.dels.filter (fun x => !(x.cmd == d.cmd)) })
    if d.whole then
      (s.setArc (fun a => { a with nss := a.nss.del d.ns, nextSeq := a.nextSeq.del d.ns, nsHeld := a.nsHeld.filter (· != d.ns) })).journal
        (.ns d.ns none) (some (d.cmd, d.freed))
    else s.replyWith d.cmd St.ok d.freed 0

theorem delCheck_eq : s.delCheck = s.arc.dels.foldl (fun s d => delEnd d s) s := rfl

theorem delEnd_nss_sorted (hs : Tab.sorted s.arc.nss = true) : Tab.sorted (delEnd d s).arc.nss = true := by
  unfold delEnd
  dsimp only
  split
  · exact hs
  · split
    · rw [journal_nss]
      exact Tab.sorted_del hs
    · rw [replyWith_arc]
      exact hs

theorem foldl_delEnd_nss_sorted {l : List NsDel} (hs : Tab.sorted s.arc.nss = true) :
    Tab.sorted (l.foldl (fun s d => delEnd d s) s).arc.nss = true := by
  induction l generalizing s with
  | nil => exact hs
  | cons d l ih => exact ih (delEnd_nss_sorted hs)

/-- A deletion without extents takes its namespace from the table, and its entry goes to the journal. -/
theorem delEnd_whole (hs : Tab.sorted s.arc.nss = true) (haens : d.aens = []) (hwhole : d.whole = true) :
    (delEnd d s).arc.nss.has d.ns = false ∧
      ((delEnd d s).arc.page ++ (delEnd d s).arc.waiting).contains ⟨.ns d.ns none, some (d.cmd, d.freed)⟩ = true := by
  have hend : delEnd d s = ((s.setArc (fun a => { a with dels := a.dels.filter (fun x => !(x.cmd == d.cmd)) })).setArc
      (fun a => { a with nss := a.nss.del d.ns, nextSeq := a.nextSeq.del d.ns, nsHeld := a.nsHeld.filter (· != d.ns) })).journal
        (.ns d.ns none) (some (d.cmd, d.freed)) := by
    simp only [delEnd, haens, hwhole, List.isEmpty_nil, Bool.not_true, Bool.false_eq_true, if_false, if_true]
  rw [hend]
  refine ⟨?_, journal_contains⟩
  rw [journal_nss]
  exact Tab.has_del_same hs

end
end State

end Sys2Proof.Machine
end

section
/-! The clauses of the archive that take an entry from a table: they hold where the table's keys rise, and a table that holds a key twice
breaks them (R290, R316, R319). -/
namespace Sys2Proof.Machine

open State

section
variable {s : State}

/-- What the clause of O37 on the last Deallocate of a drive being emptied says, of every state whose table of drives is in its canonical
form (R290, R316). -/
theorem exec_deallocateDone_leaves {slot phys : Nat} {d : Dealloc} {x : Drive} (hs : Tab.sorted s.arc.drives = true)
    (hd : s.arc.deallocs.find? (fun d => d.slot == slot && d.phys == phys) = some d) (hx : s.drive slot = some x) (hstage : x.stage = 7)
    (hexts : s.extsOn slot = []) (hjournal : s.arc.journal.contains slot = false)
    (hlast : (s.arc.deallocs.erase d).any (fun y => y.slot == slot) = false) : Completes (.deallocateDone slot phys) s fun t =>
      t.arc.deallocs = s.arc.deallocs.erase d ∧ t.drive slot = none ∧ ∀ c ∈ x.cmds, c.queue ≤ 256 → t.okSent c = true := by
  obtain ⟨_, _, _, harc⟩ := deallocated_arc (s := s) (slot := slot) (phys := phys) (d := d)
  have hdrive : (deallocated slot phys d s).drive slot = some { x with used := x.used.erase phys } := by
    rw [drive, harc, Tab.get_adj_same, ← drive, hx, Option.map_some]
  have hempty : Emptied (deallocated slot phys d s) slot := ⟨by rwa [extsOn, harc], by rwa [harc], by rwa [harc]⟩
  have hsorted : Tab.sorted (deallocated slot phys d s).arc.drives = true := by
    rw [harc]
    exact Tab.sorted_adj hs
  refine ⟨_, congrArg Host.Outcome.next (deallocDone_of_found hd), ?_, leaveSet_drive hsorted hdrive hstage hempty, fun c hc hq => ?_⟩
  · rw [leaveSet_of_emptied hdrive hstage hempty, foldl_reply_arc, departed_deallocs, harc]
  · rw [leaveSet_of_emptied hdrive hstage hempty]
    exact okSent_foldl_reply hc hq

/-- What the clause of O38 on the evacuation of an empty drive says, of every state whose table of drives is in its canonical form (R316). -/
theorem exec_arcDriveEvacuate_empty {c : CmdRef} {slot : Nat} {x : Drive} (hs : Tab.sorted s.arc.drives = true) (hc : c.queue ≤ 256)
    (hx : s.drive slot = some x) (hup : s.arcUp = true) (hfailed : x.stage ≠ 5) (hjoining : x.stage ≠ 6) (he : Emptied s slot) :
    Completes (.arcDriveEvacuate c slot) s fun t => Answered c St.ok t ∧ t.drive slot = none := by
  have hq : (s.replyQueued c).arc = s.arc := replyQueued_arc
  obtain ⟨hdrive, hleft, hsorted⟩ := setStage_evacuating (s := s.replyQueued c) (x := x) (slot := slot) (by rwa [hq]) (by rwa [drive, hq])
    (he.of_arc (by rw [hq]) (by rw [hq]) (by rw [hq]))
  have hexec : exec (.arcDriveEvacuate c slot) s =
      .next ((((s.replyQueued c).setStage slot 7).modDrive slot (fun d => { d with cmds := d.cmds ++ [c] })).leaveSet slot) := by
    show execArcDriveEvacuate c slot s = _
    simp only [execArcDriveEvacuate, hx, hup, hleft.exts, beq_false_of_ne hfailed, beq_false_of_ne hjoining, Bool.not_true, Bool.or_self,
      Bool.false_eq_true, if_false, List.length_nil, Nat.not_lt_zero]
  have hwaits : (((s.replyQueued c).setStage slot 7).modDrive slot (fun d => { d with cmds := d.cmds ++ [c] })).drive slot =
      some { x with stage := 7, cmds := x.cmds ++ [c] } := Tab.get_adj_same.trans (congrArg (Option.map _) hdrive)
  have hempty := hleft.of_arc (t := ((s.replyQueued c).setStage slot 7).modDrive slot (fun d => { d with cmds := d.cmds ++ [c] })) rfl rfl rfl
  refine ⟨_, hexec, ?_, leaveSet_drive (Tab.sorted_adj hsorted) hwaits rfl hempty⟩
  rw [leaveSet_of_emptied hwaits rfl hempty, List.foldl_append]
  exact answered_reply hc

/-- What the clause of O38 on the deletion of a namespace without extents says, of every state whose table of namespaces is in its canonical
form (R319). -/
theorem exec_arcNsDelete_empty {c : CmdRef} {ns : Nat} {k : NsCfg} (hs : Tab.sorted s.arc.nss = true) (hlow : 1 ≤ ns) (hhigh : ns ≤ 255)
    (hup : s.arcUp = true) (hk : s.arc.nss.get? ns = some k) (hexts : s.nsExtents ns = []) :
    Completes (.arcNsDelete c ns 0x0000D3E1) s fun t =>
      t.arc.nss.has ns = false ∧ (t.arc.page ++ t.arc.waiting).contains ⟨.ns ns none, some (c, 0)⟩ = true := by
  have hexec : exec (.arcNsDelete c ns 0x0000D3E1) s = .next (((s.replyQueued c).setArc (fun a => { a with
      nss := a.nss.put ns { k with classes := 0 }, dels := a.dels ++ [⟨c, ns, true, [], 0⟩] })).journal
        (.ns ns (some { k with classes := 0 })) none).delCheck := by
    show execArcNsDelete c ns 0x0000D3E1 s = _
    rw [execArcNsDelete, if_neg (by omega)]
    simp only [hup, hk, hexts, List.any_nil, Bool.and_false, Bool.not_true, Bool.false_eq_true, if_false, List.map_nil, List.foldl_nil]
  refine ⟨_, hexec, ?_⟩
  rw [delCheck_eq, journal_dels, setArc_arc, replyQueued_arc, List.foldl_append]
  refine delEnd_whole (d := ⟨c, ns, true, [], 0⟩) (foldl_delEnd_nss_sorted ?_) rfl rfl
  rw [journal_nss, setArc_arc, replyQueued_arc]
  exact Tab.sorted_put hs

end

/-- Refutes O37: its clause on the last Deallocate of a drive being emptied speaks of every state, also of one whose table of drives holds
slot 0 twice. There the drive that leaves is taken from the table once, and the slot still holds the second entry. Where the keys of the
table rise, as a table's keys do, the clause holds (`exec_deallocateDone_leaves`). -/
theorem not_archiveEventCommandsComplete : ¬ Obligations.ArchiveEventCommandsComplete := by
  unfold Obligations.ArchiveEventCommandsComplete
  rintro ⟨-, -, -, -, -, -, -, -, -, hleaves, -⟩
  obtain ⟨t, hexec, -, hgone, -⟩ := hleaves 0 3 ⟨0, 3, none⟩ { disc := 0, stage := 7 }
    { arc := { drives := [(0, { disc := 0, stage := 7 }), (0, { disc := 1 })], deallocs := [⟨0, 3, none⟩] } }
    (by decide) (by decide)
  obtain rfl := Host.Outcome.next.inj hexec
  exact absurd hgone (by decide)

/-- Refutes O38: its clause on the deletion of a namespace without extents speaks of every state, also of one whose table of namespaces
holds namespace 1 twice. There the deletion takes it from the table once, and the second entry stays. Where the keys of the table rise the
clause holds (`exec_arcNsDelete_empty`), and so does that on the evacuation of an empty drive (`exec_arcDriveEvacuate_empty`), which a table
of drives that holds a slot twice breaks in the same way. -/
theorem not_archiveHostCommandsComplete : ¬ Obligations.ArchiveHostCommandsComplete := by
  unfold Obligations.ArchiveHostCommandsComplete
  rintro ⟨-, -, hdelete, -⟩
  obtain ⟨t, hexec, hgone, -⟩ := hdelete ⟨256, 7, 0⟩ 1 {} { arc := { phase := .up, nss := [(1, {}), (1, {})] } } (by decide)
  obtain rfl := Host.Outcome.next.inj hexec
  exact absurd hgone (by decide)

end Sys2Proof.Machine
end

section
/-! The close of a lane: what it leaves of LOS, and the table of lanes for which O39 fails (R328, R329, R331 to R333, R337). -/
namespace Sys2Proof.Machine

/-- What LOS's lanes close by: the configuration in force and the one that waits, the next interval to close, and the open lanes. -/
def Los.schedule (l : Los) : LosCfg × Option LosCfg × Nat × Tab LosLane := (l.cfg, l.cfgNext, l.next, l.lanes)

namespace State
section
variable {s : State} {n start : Nat} {lane : LosLane}

/-! ### The nodes of a lane's close leave the schedule (R327, R331 to R333) -/

@[simp] theorem losNotice_los {reason node endpoint phase : Nat} {ntl : Int} :
    (s.losNotice reason node endpoint phase start ntl).los = s.los := losNotice_keeps.frame .los rfl

@[simp] theorem headLook_schedule : s.headLook.los.schedule = s.los.schedule := by
  unfold headLook
  dsimp only
  split
  · rfl
  · rw [losNotice_los]
    rfl

@[simp] theorem moveFlag_schedule {isNtl : Bool} {ntl : Int} : (s.moveFlag n isNtl start ntl).los.schedule = s.los.schedule := by
  unfold moveFlag
  dsimp only
  rw [apply_ite State.los, apply_ite Los.schedule, ite_eq_left_iff]
  intro _
  simp only [apply_ite State.los, losNotice_los, bump_los, ite_self]
  rfl

@[simp] theorem decided_schedule {pos neg : Bool} {inp ntl ratio : Int} :
    (s.decided n start pos neg inp ntl ratio).los.schedule = s.los.schedule := by
  rw [decided, moveFlag_schedule, moveFlag_schedule]
  rfl

@[simp] theorem storeResult_schedule {r : LosResult} : (s.storeResult n r).los.schedule = s.los.schedule := rfl

/-- A node has decided its interval, cannot decide it, or is not measured. -/
theorem closeNode_schedule {nd : LosNodeIn} {acc : LosSum} : (s.closeNode start lane n nd acc).1.los.schedule = s.los.schedule := by
  unfold closeNode
  dsimp only
  split
  · split
    · rw [storeResult_schedule, decided_schedule]
    · exact storeResult_schedule
  · exact storeResult_schedule

theorem closeNodes_schedule {l : List (Nat × LosNodeIn)} {sums : Tab LosSum} :
    (s.closeNodes start lane l sums).los.schedule = s.los.schedule := by
  induction l generalizing s sums with
  | nil => rfl
  | cons e l ih => exact ih.trans closeNode_schedule

/-! ### A lane closes (R328, R329, R337) -/

theorem takeCfg_eq : s.takeCfg = s.setLos (fun l => { l with cfg := l.cfgNext.getD l.cfg, cfgNext := none }) := by
  unfold takeCfg
  split
  · rename_i h
    simp only [setLos, h, Option.getD_some]
  · rename_i h
    simp only [setLos, h, Option.getD_none]
    rw [← h]

/-- The configuration that waits comes into force, the lane leaves the table, and the interval that follows by it is the next to close. -/
theorem closeLane_schedule {tree : LosTree} (htree : s.treeAt s.los.next = some tree) : s.closeLane.los.schedule =
    (s.los.cfgNext.getD s.los.cfg, none, s.los.next + (s.los.cfgNext.getD s.los.cfg).balS, s.los.lanes.del s.los.next) := by
  have htaken : s.takeCfg.treeAt s.takeCfg.los.next = some tree := by rwa [takeCfg_eq]
  simp only [closeLane, htaken, Los.schedule, maxReg_los, bump_los, setLos_los]
  generalize hu : closeNodes _ _ _ _ _ = u
  have hkept : u.los.schedule = s.takeCfg.los.schedule := by
    rw [← hu, closeNodes_schedule, headLook_schedule]
    rfl
  obtain ⟨hcfg, hwaits, -, hlanes⟩ : _ ∧ _ ∧ _ ∧ _ := by simpa only [Los.schedule, Prod.mk.injEq] using hkept
  rw [hcfg, hwaits, hlanes, takeCfg_eq]
  rfl

end
end State

/-- What the clause of O39 on the close of a lane says, of every state whose table of lanes is in its canonical form (R328, R329, R337). -/
theorem exec_losLaneClose_of_sorted {s : State} {tree : LosTree} (hs : Tab.sorted s.los.lanes = true) (hdue : s.laneDue = true)
    (htree : s.treeAt s.los.next = some tree) : Completes .losLaneClose s fun t =>
      t.los.cfg = s.los.cfgNext.getD s.los.cfg ∧ t.los.cfgNext = none ∧
      t.los.next = s.los.next + (s.los.cfgNext.getD s.los.cfg).balS ∧ t.los.lanes.has s.los.next = false := by
  obtain ⟨hcfg, hwaits, hnext, hlanes⟩ : _ ∧ _ ∧ _ ∧ _ := by simpa only [Los.schedule, Prod.mk.injEq] using State.closeLane_schedule htree
  exact ⟨_, congrArg Host.Outcome.next (if_pos hdue), hcfg, hwaits, hnext, hlanes ▸ Tab.has_del_same hs⟩

/-- Refutes O39: its clause on the close of a lane speaks of every state, also of one whose table of lanes holds interval 0 twice. There the
close takes the interval from the table once, and the second entry stays. Where the keys of the table rise, as a table's keys do, the clause
holds (`exec_losLaneClose_of_sorted`). -/
theorem not_lossCommandsComplete : ¬ Obligations.LossCommandsComplete := by
  unfold Obligations.LossCommandsComplete
  rintro ⟨-, hclose, -⟩
  obtain ⟨t, hexec, -, -, -, hgone⟩ := hclose []
    { dev := { state := .day }, tim := { sec := 2700 }, los := { trees := [(0, [])], lanes := [(0, {}), (0, {})] } } (by decide)
  obtain rfl := Host.Outcome.next.inj hexec
  exact absurd hgone (by decide)

end Sys2Proof.Machine
end
